-- ==== Sys2Proof/Word.lean ====
section
/-! DEFINITION. The word types of the AE480 model and their plainest arithmetic: bytes, 32-bit
register words, little-endian byte lists (R11) and bit fields of natural numbers. -/

namespace Sys2Proof

/-- One byte. -/
abbrev Byte := BitVec 8

/-- One 32-bit register word (R14). -/
abbrev Word := BitVec 32

/-- Bits `[hi:lo]` of a natural number. -/
def bits (v hi lo : Nat) : Nat := (v >>> lo) % 2 ^ (hi + 1 - lo)

/-- Bit `n` of a natural number, as 0 or 1. -/
def bitN (v n : Nat) : Nat := (v >>> n) % 2

/-- `v` with its bits `[hi:lo]` replaced by the low bits of `x`. -/
def setBits (v hi lo x : Nat) : Nat :=
  v - (bits v hi lo) * 2 ^ lo + (x % 2 ^ (hi + 1 - lo)) * 2 ^ lo

/-- The `n` low bytes of `v`, lowest first (R11). -/
def leBytes (n v : Nat) : List Byte :=
  match n with
  | 0 => []
  | k + 1 => BitVec.ofNat 8 v :: leBytes k (v / 256)

/-- The number a little-endian byte list spells (R11). -/
def leNat (bs : List Byte) : Nat := bs.foldr (fun b acc => b.toNat + 256 * acc) 0

/-- The number a big-endian byte list spells. -/
def beNat (bs : List Byte) : Nat := bs.foldl (fun acc b => 256 * acc + b.toNat) 0

/-- The `n` bytes of `v`, highest first. -/
def beBytes (n v : Nat) : List Byte := (leBytes n v).reverse

/-- Two's-complement value of the low `w` bits of `v`. -/
def sext (w v : Nat) : Int :=
  let u := v % 2 ^ w
  if u < 2 ^ (w - 1) then (u : Int) else (u : Int) - (2 ^ w : Int)

/-- The low `w` bits of an integer, as a natural number. -/
def wrapInt (w : Nat) (i : Int) : Nat := (i % (2 ^ w : Int)).toNat

/-- `a + b`, saturating at `m`. -/
def satAdd (m a b : Nat) : Nat := min m (a + b)

/-- `i` held within `lo` to `hi`. -/
def clampInt (lo hi i : Int) : Int := max lo (min hi i)

/-- `v` held within `lo` to `hi`. -/
def clampNat (lo hi v : Nat) : Nat := max lo (min hi v)

/-- A stated 0 that is taken as 1. -/
def zeroAsOne (v : Nat) : Nat := if v = 0 then 1 else v

/-- Bitwise inverse of a 32-bit word given as a natural number. -/
def inv32 (v : Nat) : Nat := 0xFFFFFFFF - v % 2 ^ 32

/-- The bits of `v` that `m` does not have, for numbers below `2 ^ 64`. -/
def clearMask (v m : Nat) : Nat := v &&& (0xFFFFFFFFFFFFFFFF - m % 2 ^ 64)

/-- `n` zero bytes. -/
def zeros (n : Nat) : List Byte := List.replicate n 0

/-- Element `i` of a list, or `d` past its end. -/
def nth {α : Type} (d : α) (l : List α) (i : Nat) : α := l.getD i d

/-- The list with element `i` replaced (unchanged where `i` is past its end). -/
def upd {α : Type} (l : List α) (i : Nat) (x : α) : List α := l.set i x

/-- `n` entries of `l` from index `i`, short where the list ends. -/
def slice {α : Type} (l : List α) (i n : Nat) : List α := (l.drop i).take n

/-- The indexes below `n`. -/
def upTo (n : Nat) : List Nat := List.range n

/-- Number of entries of a list that pass a test. -/
def countIf {α : Type} (p : α → Bool) (l : List α) : Nat := (l.filter p).length

end Sys2Proof
end

