-- ==== Sys2Proof/Machine/StateArray.lean ====
section
/-! DEFINITION. State of the charge arrays (chapter 08) beyond their registers, as plain
data. -/

namespace Sys2Proof.Machine

/-- One weight page of an array (Table 08-8). -/
structure Page where
  /-- The recorded tag, where the page holds a valid one (R260). -/
  tag : Option Nat
  /-- Physical address of its source (R257). -/
  source : Nat
  /-- The 8 KiB of data cells as the page image lays them out; empty stands for all 0. -/
  cells : List Byte
  /-- Row parity cells P0 to P7 as one byte a row; empty stands for all 0. -/
  parity : List Byte
  /-- Column sums of the 520 data and parity columns, and their stored complements, where
  they differ from those of the cells: column, sum, complement. -/
  sums : List (Nat × Nat × Nat)
  deriving DecidableEq, Repr

/-- A page write in progress (R257). -/
structure PageWriting where
  page : Nat
  tag : Nat
  source : Nat
  /-- The first verify has failed. -/
  second : Bool
  /-- Slot of the PAGE_WRITE or ARRAY_LAYER stop; none for the district's own rewrites. -/
  slot : Option Nat
  /-- Block of the shuttle entry that the write is for (R265). -/
  shuttle : Option Nat
  /-- Entry of the stop's map, and the page image that has arrived. -/
  entry : Nat
  image : List Byte
  deriving DecidableEq, Repr

/-- One physical array. -/
structure Arr where
  retired : Bool
  /-- Logical array it backs. -/
  backs : Option Nat
  nExact : Nat
  worstCol : Nat
  tempCal : Int
  marginal : Bool
  /-- Fault 0x1003 raised in this start (R253). -/
  marginalRaised : Bool
  /-- Model time of the last calibration. -/
  calAt : Nat
  calDue : Bool
  dueAt : Nat
  calForced : Bool
  /-- A calibration is running. -/
  calRunning : Bool
  pages : List Page
  writing : Option PageWriting
  /-- The district's own rewrites that wait: page, tag and source (R249, R261). -/
  rewrites : List (Nat × Nat × Nat)
  /-- Page and row of the part that failed before its page was rewritten (R249). -/
  suspect : Option (Nat × Nat)
  /-- Next sweep step j, the tick of the last clean step, and a step that waits (R250). -/
  sweepStep : Nat
  cleanTick : Nat
  sweepHeld : Bool
  sweepForced : Bool
  /-- ACLK cycles the last pass occupied the array (R246). -/
  passCycles : Nat
  deriving DecidableEq, Repr

/-- What a pass meets from outside (R247 to R249, R259): cells of its page found flipped, stored
column sums found changed, and what its group conversions read beside the exact counts. -/
structure PassSeen where
  /-- Row and column of each flipped cell. -/
  flips : List (Nat × Nat)
  /-- Column, sum and complement as stored now. -/
  sums : List (Nat × Nat × Nat)
  /-- By group conversion in order: column and deviation of its reading; a column not listed
  reads its exact count. -/
  reads : List (List (Nat × Int))
  /-- What the calibrations of the pass measure, in order. -/
  cals : List (List (Nat × List Int))
  deriving DecidableEq, Repr

/-- What an ARRAY_LAYER stop meets from outside. -/
structure LayerSeen where
  /-- A district that finds a parity error in its accumulator, post unit or pool unit (R267). -/
  parity : Option Nat
  /-- Verify mismatches of the page writes of shuttle entries, by map entry (R257). -/
  mism : List (Nat × Nat)
  deriving DecidableEq, Repr

/-- Page, column and deviation of the readings of a sweep step that are not exact (R250). -/
structure SweepSeen where
  /-- On its first try. -/
  first : List (Nat × Nat × Int)
  /-- On its second try, after the calibration. -/
  second : List (Nat × Nat × Int)
  deriving DecidableEq, Repr

/-- The charge arrays. -/
structure Dst where
  /-- Physical array 25 d + s is element 25 d + s. -/
  arrs : List Arr
  /-- The start calibration is complete and arrays are mapped (R240, R254). -/
  mapped : Bool
  /-- Accumulators that are not 0: key 32768 d + index within district d's buffer. -/
  acc : List (Nat × Int)
  /-- Entries of open PAGE_WRITE stops that are written: slot and entry. -/
  pwDone : List (Nat × Nat)
  /-- Passes done of open ARRAY_LAYER stops: slot, map entry and input vectors done (R265). -/
  passes : List (Nat × Nat × Nat)
  /-- Shuttle pages written: slot, map entry and block. -/
  shuttled : List (Nat × Nat × Nat)
  deriving DecidableEq, Repr

def Page.reset : Page := ⟨none, 0, [], [], []⟩

def Arr.reset : Arr :=
  ⟨false, none, 0, 0, 0, false, false, 0, false, 0, false, false, [Page.reset, Page.reset],
   none, [], none, 0, 0, false, false, 0⟩

def Dst.reset : Dst := ⟨List.replicate 200 Arr.reset, false, [], [], [], []⟩

end Sys2Proof.Machine
end

