-- ==== Sys2Proof/Machine/StateLamp.lean ====
section
/-! DEFINITION. State of the lamplight domain, the reclaimer and the loader (chapters 02, 16
and 03), as plain data. A register that is a whole word of its own stands in the register
store of `State`; these structures hold what the spec gives the blocks beyond it. -/

namespace Sys2Proof.Machine

/-- Ordering code of the part, fixed at final test (R504, Table 18-19). -/
inductive Order where
  | qs2 : Order
  | qt2 : Order
  deriving DecidableEq, Repr

/-- What never changes while the model runs: the ordering code (R504). -/
structure Ident where
  order : Order
  deriving DecidableEq, Repr

/-- Power states (Table 02-5). -/
inductive Power where
  | off : Power
  | parked : Power
  | waking : Power
  | running : Power
  | quiet : Power
  deriving DecidableEq, Repr

/-- One wake source's filter (R39). -/
structure WakeFilter where
  /-- Level of the source now, active high. -/
  raw : Bool
  /-- Filtered level. -/
  filtered : Bool
  /-- Lamplight tick at which the source last changed. -/
  since : Nat
  /-- The power-on clause of R39 is still open for this source. -/
  porArmed : Bool
  deriving DecidableEq, Repr

/-- Levels of the strap balls as the board ties them (R465), and as sampled (R70). -/
structure Straps where
  bootsel : Nat
  dselA : Bool
  dselB : Bool
  gpioPup : Bool
  deriving DecidableEq, Repr

/-- An error of one 64-bit word of a retention bank (R59). -/
structure RetErr where
  bankB : Bool
  word : Nat
  uncorrectable : Bool
  deriving DecidableEq, Repr

/-- State of the lamplight domain beyond its registers. -/
structure Lamp where
  power : Power
  /-- Step of R41 in WAKING, 1 to 5; 0 elsewhere. -/
  wakingStep : Nat
  /-- Failed WAKING attempts of the present wake event (R42). -/
  attempts : Nat
  /-- A retry of WAKING is due one second after the failure (R42). -/
  retryDue : Bool
  /-- Step of the park sequence of R46 in progress, 1 to 7; 0 none. -/
  parkStep : Nat
  /-- Drain limit of the park in progress, in ms. -/
  parkDrainMs : Nat
  /-- The park in progress started in QUIET. -/
  parkQuiet : Bool
  /-- A wake latched after PMIC_EN fell (R48). -/
  latchedWake : Bool
  pmicEn : Bool
  pwrGood : Bool
  /-- Lamplight tick at which PWR_GOOD last fell. -/
  pgFellAt : Option Nat
  /-- VHV below 4.5 V, and below 3.2 V (LAMP_VHV_STATUS). -/
  vhvLow : Bool
  vhvRet : Bool
  /-- RESET_N is held low and the device waits for its release (R54). -/
  resetNLow : Bool
  /-- The 48-bit lamplight tick counter (R13, R33). -/
  tick : Nat
  /-- TICK_HI as latched by a read of LAMP_TICK_LO. -/
  tickHi : Nat
  /-- The tick counter runs on the RC oscillator with the crystal not in use (R32, R33). -/
  x32OnRc : Bool
  /-- A due crystal edge is missing and the counter advances on RC edges (R33). -/
  x32Grace : Bool
  /-- The reference is the RC oscillator (R34, R35). -/
  refOnRc : Bool
  /-- The 64-bit reference-tick count (R505). -/
  refCount : Nat
  ign : WakeFilter
  can : WakeFilter
  brg : WakeFilter
  /-- Lamplight tick at entry to PARKED, QUIET and WAKING. -/
  parkedAt : Nat
  quietAt : Nat
  wakingAt : Nat
  /-- Wake events are refused after a thermal shutdown (R69). -/
  thermHold : Bool
  /-- The next self-test reads the sensors against 115 degrees (R69). -/
  thermCheck : Bool
  /-- The twelve sensor readings in whole degrees, and their validity (R65, R68). -/
  temps : List Int
  tempValid : List Bool
  /-- Throttle step 0 to 3, and the model time of its last change (R65). -/
  thermStep : Nat
  thermChangedAt : Option Nat
  /-- Last hottest valid reading and its sensor (SYS_THERM_STATUS). -/
  tjMax : Int
  hotSensor : Nat
  /-- Straps as sampled in the last WAKING (R70), and the levels the board last gave their balls
  (assumption 3). -/
  straps : Straps
  strapBalls : Straps
  retARetired : Bool
  retBRetired : Bool
  /-- The retention RAM is unusable (R60). -/
  retUnusable : Bool
  /-- Words in error now, and the uncorrectable words of the previous scrub (R59, R60). -/
  retErrs : List RetErr
  retLastUe : List RetErr
  /-- PLLs requested (Table 02-4), as bits in the order of SYS_PLL_STATUS.LOCK. -/
  pllReq : Nat
  /-- PLLs that leaving QUIET restarts (R44), and QUIET has gated the units and stopped the PLLs,
  the displays having stopped (R43). -/
  quietPlls : Nat
  quietGated : Bool
  /-- Reset causes recorded since the previous reset, and those that the last reset found
  (SYS_RESET_CAUSE, R56). -/
  causeSince : Nat
  sysCause : Nat
  /-- FAULT_N is held low since a reset, and since PARKED was entered, until the next
  self-test passes (Table 16-13). -/
  resetHold : Bool
  parkedHold : Bool
  deriving DecidableEq, Repr

/-- A fault record (Table 16-3). -/
structure FaultRec where
  seq : Nat
  tick : Nat
  code : Nat
  unit : Nat
  queue : Nat
  tag : Nat
  detail : Nat
  status : Nat
  kind : Nat
  deriving DecidableEq, Repr

/-- A fault message of a block (R443). -/
structure FaultMsg where
  code : Nat
  unit : Nat
  detail : Nat
  queue : Nat
  tag : Nat
  status : Nat
  deriving DecidableEq, Repr

/-- A lease record (Table 16-7). -/
structure Lease where
  kind : Nat
  ownerKind : Nat
  owner : Nat
  resource : Nat
  term : Nat
  expiry : Nat
  deriving DecidableEq, Repr

/-- The recovery of one unit (Table 16-9) in progress or pending. -/
structure Recovery where
  /-- Units recovered together: one unit, or every unit of a PLL (R36). -/
  units : List Nat
  code : Nat
  status : Nat
  /-- Step of Table 16-9 reached, 1 to 7. -/
  step : Nat
  /-- Model time of the fence. -/
  start : Nat
  /-- Slots of the stops the units execute, and of those dispatched but not started. -/
  executing : List Nat
  notStarted : List Nat
  /-- Lease records transferred to the reclaimer, with their owners before. -/
  transferred : List (Nat × Nat × Nat)
  deriving DecidableEq, Repr

/-- State of the reclaimer beyond its registers, its ring and its lease table. -/
structure Rcl where
  pairOk : Bool
  ringWrap : Bool
  current : Option Recovery
  pending : List Recovery
  fenced : List Nat
  retired : List Nat
  /-- Recent recoveries as (unit, model time), for the third within 1 s (R456). -/
  recent : List (Nat × Nat)
  /-- A set-up script failed in this start (Table 16-13). -/
  scriptFailed : Bool
  /-- A warm reset the reclaimer asked for is in progress (R457). -/
  escalating : Bool
  injectionHold : Bool
  detour : Bool
  /-- Once-per-second fault limits: code and model time of the last message (R443). -/
  lastMsg : List (Nat × Nat)
  deriving DecidableEq, Repr

/-- One entry of the section table (Table 03-8). -/
structure Sect where
  kind : Nat
  sectId : Nat
  phase : Nat
  chips : Nat
  roles : Nat
  flags : Nat
  offset : Nat
  length : Nat
  dest : Nat
  profiles : Nat
  digest : List Byte
  /-- 0 not read, 1 one digest mismatch, 2 loaded, 3 failed (R87). -/
  state : Nat
  deriving DecidableEq, Repr

/-- A declared profile (Table 03-12). -/
structure Profile where
  number : Nat
  chips : Nat
  role : Nat
  flags : Nat
  arrMin : Nat
  tileRes : Nat
  plazaBytes : Nat
  fsBytes : Nat
  lotBytes : Nat
  ddrBytes : Nat
  outA : Nat
  outB : Nat
  entrySect : Nat
  entryRoute : Nat
  fallback : Nat
  deriving DecidableEq, Repr

/-- One script of the SCRIPT section (Table 03-15): where its operations lie. -/
structure Script where
  thread : Nat
  phase : Nat
  target : Nat
  timeout : Nat
  opsAt : Nat
  opsLen : Nat
  deriving DecidableEq, Repr

/-- What a script thread waits for. -/
inductive ScriptWait where
  | none : ScriptWait
  | i2c (ctrl : Nat) : ScriptWait
  | expectRetry (ctrl : Nat) : ScriptWait
  | time : ScriptWait
  | pin (pin : Nat) (level : Bool) : ScriptWait
  | dsi (out : Nat) : ScriptWait
  deriving DecidableEq, Repr

/-- A script thread (R97). -/
structure Thread where
  /-- Scripts still to run, the first one running. -/
  scripts : List Script
  /-- Byte offset of the next operation within the running script. -/
  pc : Nat
  wait : ScriptWait
  /-- Retries used by the I2C_EXPECT in progress (R98). -/
  expectRetries : Nat
  /-- A script of the thread has failed (R99). -/
  failed : Bool
  deriving DecidableEq, Repr

/-- A thread with nothing to run. -/
def Thread.idle : Thread := ⟨[], 0, .none, 0, false⟩

/-- A repair read asked for; the first of the loader's list is in progress (R103). -/
structure Repair where
  /-- Index of the section in the section table. -/
  sect : Nat
  /-- Affected 4 KiB pages: by physical page number, each under a region lock of the loader; by page
  of the icon SRAM for the ICON section. -/
  pages : List Nat
  /-- Digest mismatches so far. -/
  tries : Nat
  deriving DecidableEq, Repr

/-- Who issued the flash program or erase in progress. -/
inductive FlashUser where
  /-- A GSP command: its port, or 4 more for a command the port holds. -/
  | gsp (k : Nat) : FlashUser
  | intakeMirror : FlashUser
  | changeMirror : FlashUser
  | retirement : FlashUser
  deriving DecidableEq, Repr

/-- A flash program or erase in progress: its bytes are written when it completes. -/
structure FlashOp where
  user : FlashUser
  erase : Bool
  offset : Nat
  length : Nat
  data : List Byte
  /-- Number of the change-journal entry made for it. -/
  entry : Nat
  deriving DecidableEq, Repr

/-- State of the loader beyond its registers. -/
structure Boot where
  /-- BOOT_STATUS.PHASE: 0 idle, 1 and 2 steps 1 and 2, 3 EARLY, 4 choosing, 5 MAIN,
  6 handed over, 7 fallback display, 8 service wait, 9 Bridge wait. -/
  phase : Nat
  /-- The 10 ms after XSPI_RST_N have passed (R81). -/
  flashReady : Bool
  imageAlt : Bool
  quad : Bool
  /-- The image arrives over the Bridge link (R72). -/
  overBridge : Bool
  imageBase : Nat
  imageLen : Nat
  buildId : Nat
  persistOff : Nat
  persistLen : Nat
  flashParam : Nat
  sects : List Sect
  /-- CONFIG section as checked, and the offset of the next record to apply. -/
  config : List Byte
  configAt : Nat
  scriptBytes : List Byte
  profiles : List Profile
  splashHoldMs : Nat
  /-- DDR record applied: PRESENT, and its rate code (0 for 1600 to 4 for 4266 MT/s), ranks and
  size in MiB; LPDDR4X outcome known. -/
  ddrDeclared : Bool
  ddrRate : Nat
  ddrRanks : Nat
  ddrMib : Nat
  lpddrKnown : Bool
  trainAttempt : Nat
  /-- Running profile number, 7 fallback display. -/
  running : Option Nat
  /-- Profile whose MAIN sections are being loaded. -/
  choosing : Option Nat
  refused : List Nat
  /-- Profile whose MAIN sections are loaded and checked, awaiting hand-over. -/
  chosen : Option Nat
  /-- Starts with cause ESCALATE counted, where they reach the limit of R457; 0 otherwise. -/
  escalations : Nat
  /-- The start calibration is over (R254); the MAIN scripts have been started. -/
  calDone : Bool
  mainStarted : Bool
  /-- Step 5 is over: every EARLY output script has settled (R75). -/
  displaysDone : Bool
  /-- Entry route handed over in this start. -/
  handedOver : Bool
  threads : List Thread
  /-- Outputs A and B: EARLY script failed; started by the loader. -/
  outFailedA : Bool
  outFailedB : Bool
  outStartedA : Bool
  outStartedB : Bool
  splashFailed : Bool
  cameraFailed : Bool
  /-- QUIET (1) or PARKED (2) asked for before a settled state (R77). -/
  heldRequest : Nat
  holdElapsed : Bool
  repairs : List Repair
  flashOp : Option FlashOp
  flashRetries : Nat
  deriving DecidableEq, Repr

end Sys2Proof.Machine
end

