-- ==== Sys2Proof/Machine/StateMem.lean ====
section
/-! DEFINITION. State of Plaza and the Avenue, of address translation, of the wardens and of
the crossing unit (chapters 04 and 05), as plain data. -/

namespace Sys2Proof.Machine

/-- Who holds a region lock (Table 16-6). -/
inductive Holder where
  | queue (q : Nat) : Holder
  | unit (u : Nat) : Holder
  | loader : Holder
  deriving DecidableEq, Repr

/-- A held region-lock entry (R120 to R122): pages `base` to `base + pages - 1`. -/
structure RegionLock where
  base : Nat
  pages : Nat
  /-- 1 STABLE, 2 EXCLUSIVE. -/
  mode : Nat
  holder : Holder
  /-- Held by the reclaimer on the holder's behalf during a recovery (R454). -/
  transferred : Bool
  deriving DecidableEq, Repr

/-- An error of one 72-bit codeword of Plaza or one 64-bit word of LPDDR4X, by its index
(address / 8) (R113, R114, R136). -/
structure MemErr where
  word : Nat
  uncorrectable : Bool
  deriving DecidableEq, Repr

/-- Poison tags of one space, each stored with its complement (R123): the indexes whose tag
reads 1, and the indexes whose stored complement reads 0. -/
structure PoisonTags where
  tag : List Nat
  compZero : List Nat
  deriving DecidableEq, Repr

/-- A failed Avenue link (R130): node and port. -/
structure Link where
  node : Nat
  port : Nat
  deriving DecidableEq, Repr

/-- Plaza, LPDDR4X and Avenue state beyond registers and contents. -/
structure Ave where
  /-- The 64 region-lock entries, and the acquisitions that wait for one (R122). -/
  locks : List (Option RegionLock)
  lockWait : List RegionLock
  plazaErrs : List MemErr
  ddrErrs : List MemErr
  plazaPoison : PoisonTags
  ddrPoison : PoisonTags
  failedBanks : List Nat
  /-- Lines with uncorrectable errors as (bank, line, model time), for R116. -/
  ueLines : List (Nat × Nat × Nat)
  initDone : Bool
  /-- Links failed in this run, and those found failed by the initialisation test (R459). -/
  failedLinks : List Link
  /-- Consecutive failed replays per link (R130). -/
  replayFails : List (Link × Nat)
  /-- Units whose isolation gate is closed (R131). -/
  gates : List Nat
  /-- Usable LPDDR4X bytes; 0 while absent (R25, R136). -/
  ddrBytes : Nat
  ddrInit : Bool
  ddrSelfRefresh : Bool
  deriving DecidableEq, Repr

/-- A run of a run list (Table 04-9). -/
structure Run where
  pfn : Nat
  count : Nat
  rd : Bool
  wr : Bool
  range : Nat
  deriving DecidableEq, Repr

/-- A run list with its header (Table 04-8) and its place in the pool, in 64 B units. -/
structure RunList where
  runs : List Run
  ranges : Nat
  pages : Nat
  asid : Nat
  gen : Nat
  poolAt : Nat
  poolUnits : Nat
  deriving DecidableEq, Repr

/-- Address-translation state beyond its registers. -/
structure Xlt where
  /-- Committed roots of ASIDs 0 to 15: table address and EN. -/
  roots : List (Nat × Bool)
  /-- Pool units in use, as (first unit, units). -/
  allocs : List (Nat × Nat)
  /-- Queues whose enqueue waits for pool room (R146). -/
  waiting : List Nat
  /-- ASIDs whose generation increment is held back, once for each increment (R149). -/
  deferred : List Nat
  deriving DecidableEq, Repr

/-- How a crossing wait of an enqueued stop stands (R165, R177). -/
inductive WaitState where
  | open : WaitState
  | released : WaitState
  | poisoned : WaitState
  deriving DecidableEq, Repr

/-- A stop as a warden holds it from its enqueue (Tables 05-6 and 05-8a). -/
structure Stop where
  /-- Route index, position within the route, and index in the stop array. -/
  route : Nat
  pos : Nat
  index : Nat
  queue : Nat
  iter : Nat
  /-- The 64 bytes of the stop and its descriptor's bytes, as fetched. -/
  words : List Byte
  desc : List Byte
  runs : Option RunList
  wait0 : WaitState
  wait1 : WaitState
  /-- Run again by a RESUME (R181). -/
  rerun : Bool
  deriving DecidableEq, Repr

/-- What a warden's shadow holds of one queue: its route, ITER, next stop, enqueued stops, and open
stops by slot (R154). -/
structure Shadow where
  route : Nat
  iter : Nat
  next : Nat
  enq : List Stop
  open_ : List (Nat × Stop)
  deriving DecidableEq, Repr

/-- An open stop (R165). -/
structure OpenStop where
  slot : Nat
  stop : Stop
  /-- Units reserved, by their identifiers of Table 16-8. -/
  units : List Nat
  /-- Dispatched to units whose clock is not yet running (R49). -/
  waking : List Nat
  /-- The units acknowledged the dispatch and execute the stop. -/
  started : Bool
  dispatchedAt : Nat
  /-- Tile cores asked to give way (R169), and cores given up. -/
  preempt : List Nat
  yielded : Nat
  /-- The stop is withdrawn with this status once its tile cores reach their granule boundaries
  (R181). -/
  withdraw : Option Nat
  /-- Signals of the stop that the crossing unit has reported for the slot (R154, R155). -/
  signalled : List Nat
  /-- Next row, layer, pass or entry of the stop's own work. -/
  progress : Nat
  /-- The stop's work is done and its outputs are written. -/
  done : Bool
  /-- An executing unit met poisoned data, or an access was answered with an error. -/
  poisonSeen : Bool
  errorSeen : Bool
  /-- Intake sequence number bound to the stop, and whether the stamp found it (R388). -/
  boundSeq : Option Nat
  /-- Bytes of the twin remote window fetched for the stop: address there and bytes (R416). -/
  fetched : List (Nat × List Byte)
  deriving DecidableEq, Repr

/-- A queue (Tables 05-3 and 05-15). -/
structure Queue where
  /-- 0 idle, 1 running, 2 halted, 3 draining. -/
  state : Nat
  route : Nat
  level : Nat
  asid : Nat
  loop : Bool
  first : Nat
  count : Nat
  iter : Nat
  /-- Position in the route of the next stop to enqueue. -/
  next : Nat
  enq : List Stop
  /-- Withdrawn stops that a RESUME runs again, in route order. -/
  withdrawn : List Stop
  /-- Warden that owns the queue. -/
  owner : Nat
  /-- Halted by BAD_STOP and waiting for a repair of this section (R160). -/
  badStop : Bool
  badSect : Option Nat
  /-- Withdrawn by the park sequence (R48). -/
  parked : Bool
  deriving DecidableEq, Repr

/-- Warden state beyond its registers. -/
structure Wrd where
  ok0 : Bool
  ok1 : Bool
  takeover : Bool
  /-- A divergence of warden w awaits its takeover. -/
  diverged : Option Nat
  /-- The failed warden whose self-test after its domain reset is still to end, and the one that has
  passed it and serves as the survivor's shadow (R156). -/
  selfTest : Option Nat
  serving : Option Nat
  queues : List Queue
  /-- The other warden's shadow of each queue (R154). -/
  shadows : List Shadow
  slots : List (Option OpenStop)
  /-- Physical base and SECT_ID of the running ROUTE section. -/
  routeBase : Nat
  routeSect : Nat
  /-- Queue dispatched last by each warden at each level: entry 4w + level (R166). -/
  lastAt : List Nat
  /-- The park sequence has closed every queue (R46). -/
  closed : Bool
  deriving DecidableEq, Repr

/-- A crossing, every word with its stored complement (R171, R172). Bit 0 of `st` says that
the failure window is not empty, bit 1 that the crossing is BROKEN. -/
structure Crossing where
  value : Nat
  valueC : Nat
  winLo : Nat
  winLoC : Nat
  winHi : Nat
  winHiC : Nat
  st : Nat
  stC : Nat
  deriving DecidableEq, Repr

/-- Crossing-unit state beyond its registers. -/
structure Xng where
  /-- Crossings that differ from value 0 with an empty window, by rising index. -/
  cells : List (Nat × Crossing)
  mutexes : List Nat
  persist : List Nat
  /-- Initial values from the crossing table, where not 0. -/
  init : List (Nat × Nat)
  /-- Own event counts of the device sources, crossings 0 to 15 (R172). -/
  device : List Nat
  deriving DecidableEq, Repr

end Sys2Proof.Machine
end

