-- ==== Sys2Proof/Machine/StatePorts.lean ====
section
/-! DEFINITION. State of the CAN controllers, the intake, the service ports, the I2C
controllers, the pins and the Bridge (chapters 13 and 14) beyond their registers, as plain
data. The journals stand in the retention RAM itself. -/

namespace Sys2Proof.Machine

/-- A frame queued for transmission on a CAN controller (R379, R392, R404). -/
structure CanTx where
  /-- The Signpost status message; a segment of a GSP response otherwise. -/
  status : Bool
  ident : Nat
  ext : Bool
  fd : Bool
  brs : Bool
  data : List Byte
  queuedAt : Nat
  deriving DecidableEq, Repr

/-- One CAN controller. -/
structure CanCtl where
  /-- 0 active, 1 passive, 2 bus-off, 3 off. -/
  state : Nat
  /-- Model times of the bus-offs of the last second, and the hold-off (R378). -/
  busOffs : List Nat
  holdoff : Bool
  queue : List CanTx
  /-- The frame sent last. -/
  sent : Option CanTx
  deriving DecidableEq, Repr

/-- A GSP request (Table 13-8). -/
structure GspMsg where
  cmd : Nat
  req : Nat
  payload : List Byte
  /-- FLAGS, STATUS and the reserved bytes are 0. -/
  plain : Bool
  /-- The flash answers the reads that this command makes. -/
  flashOk : Bool
  deriving DecidableEq, Repr

/-- A GSP response on its port. -/
structure GspRsp where
  cmd : Nat
  req : Nat
  status : Nat
  dup : Bool
  payload : List Byte
  deriving DecidableEq, Repr

/-- One service port: CAN0, CAN1, UART or SPI (codes 1 to 4 of Table 13-11). -/
structure Port where
  executing : Option GspMsg
  waiting : Option GspMsg
  /-- Held by the interlock (R403). -/
  held : Option GspMsg
  /-- Responses not yet taken, oldest first. -/
  ready : List GspRsp
  /-- CAN: the message being assembled and the next segment index (R392). -/
  rx : Option (List Byte × Nat)
  /-- REQ and status of the last held command that ended without an SVC entry. -/
  heldResult : Option (Nat × Nat)
  /-- Commands of the current 100 ms, and its start (R394). -/
  rateCount : Nat
  rateAt : Nat
  deriving DecidableEq, Repr

/-- One vehicle signal beyond its registers and its snapshot slot. -/
structure Sig where
  /-- Model time of the last accepted value (R382), and from which STALE counts (R385). -/
  lastAt : Option Nat
  staleFrom : Nat
  deriving DecidableEq, Repr

/-- Who owns a mirror operation in progress, and what it carries (R391, R401, R263). -/
structure MirrorJob where
  /-- 0 intake, 1 change journal, 2 retirement block. -/
  kind : Nat
  /-- Last entry number that counts as mirrored when it completes. -/
  upTo : Nat
  /-- Programs still to issue after the one in progress: flash offset and bytes. -/
  rest : List (Nat × List Byte)
  deriving DecidableEq, Repr

/-- The intake and the service block. -/
structure Svc where
  ports : List Port
  /-- Commands that wait for the SVC block, in order of completion: port `p` for its next command,
  `p + 4` for the one it holds. -/
  order : List Nat
  sigs : List Sig
  /-- Last accepted alive counter by controller and identifier word. -/
  alive : List (Nat × Nat)
  /-- The speed signal reads 0 since this model time (R402). -/
  zeroSince : Option Nat
  moving : Bool
  /-- The service ports run (from loader step 2 or service wait), and the intake does. -/
  portsRun : Bool
  intakeRun : Bool
  /-- The intake region has changed since the last mirror; slot B is the next one. -/
  intakeDirty : Bool
  intakeSlotB : Bool
  /-- The retirement block has changed since the last mirror; copy B is the next one. -/
  retireDirty : Bool
  retireSlotB : Bool
  mirror : Option MirrorJob
  /-- Model times at which SVC entries became DONE, by ring slot (R390). -/
  doneAt : List (Nat × Nat)
  deriving DecidableEq, Repr

/-- A transfer of an I2C controller (R98, Table 13-19). -/
structure I2cXfer where
  addr : Nat
  read : Bool
  /-- Bytes written after the address; bytes to read. -/
  out : List Byte
  count : Nat
  /-- Script thread that uses it; none for I2C_XFER. -/
  thread : Option Nat
  /-- Retries used after a missing acknowledge, and the 1 ms interval before the next (R98). -/
  retries : Nat
  waiting : Bool
  deriving DecidableEq, Repr

/-- Pin groups of Table 03-18 whose first driver is named there; a row of several pins is one
constructor per pin. -/
inductive PinGroup where
  | combo (output : Nat) : PinGroup
  | te (output : Nat) : PinGroup
  | panel (output : Nat) : PinGroup
  | blGate : PinGroup
  | led (sink : Nat) : PinGroup
  | ntc : PinGroup
  | canTx (controller : Nat) : PinGroup
  | canRx (controller : Nat) : PinGroup
  | gpio (pin : Nat) : PinGroup
  | xspiCs : PinGroup
  | xspiSck : PinGroup
  | xspiData : PinGroup
  | xspiRst : PinGroup
  | ddrReset : PinGroup
  | ddrOthers : PinGroup
  | i2c (controller : Nat) : PinGroup
  | uartTx : PinGroup
  | spiMiso : PinGroup
  | csi : PinGroup
  | bridgeTx : PinGroup
  | bridgeWake : PinGroup
  | tdo : PinGroup
  | pmicEn : PinGroup
  | faultN : PinGroup
  deriving DecidableEq, Repr

/-- States of a pin (Table 03-18). -/
inductive PinState where
  /-- Its rail is off. -/
  | unpowered : PinState
  | low : PinState
  | high : PinState
  /-- Low through an internal pull-down. -/
  | pulledLow : PinState
  | highZ : PinState
  /-- High impedance with the termination off. -/
  | terminationOff : PinState
  | input : PinState
  | inputPullDown : PinState
  | inputPullUp : PinState
  | lp11 : PinState
  /-- Common mode on all pairs, the clock off. -/
  | commonMode : PinState
  | biasOff : PinState
  | sinkOff : PinState
  | recessive : PinState
  | electricalIdle : PinState
  /-- Open drain, not driven. -/
  | released : PinState
  /-- Driven by its block, which made the first write. -/
  | inUse : PinState
  deriving DecidableEq, Repr

/-- The I2C controllers and the pins. -/
structure Ports where
  i2c : List (Option I2cXfer)
  /-- Levels seen on GPIO pins that the board drives, by pin. -/
  gpioExt : List (Nat × Bool)
  xspiRstN : Bool
  /-- BRG_WAKE driven high at full strength (R405). -/
  brgWakeHigh : Bool
  /-- Levels of PANEL_EN_A, PANEL_RST_A, PANEL_EN_B and PANEL_RST_B. -/
  panelEn : List Bool
  panelRst : List Bool
  /-- Levels of TE_A and TE_B. -/
  te : List Bool
  /-- Pin groups whose first write has come (R101). -/
  begun : List PinGroup
  deriving DecidableEq, Repr

/-- A Bridge packet (Table 14-4): its fields by use. -/
structure Pkt where
  typ : Nat
  tag : Nat
  /-- ADDR, OFFSET, INDEX, SECT_ID or IMAGE_LEN. -/
  a : Nat
  /-- LEN, STATUS, FLAGS or MAGIC. -/
  b : Nat
  /-- VALUE. -/
  c : Nat
  data : List Byte
  deriving DecidableEq, Repr

/-- Sideband of a flit (Table 14-3): SEQ, ACK, CREDIT, ACKV and NAK. -/
structure Side where
  seq : Nat
  ack : Nat
  credit : Nat
  ackv : Bool
  nak : Bool
  deriving DecidableEq, Repr

/-- A remote access outstanding (R416, R419). -/
structure Remote where
  tag : Nat
  slot : Nat
  write : Bool
  addr : Nat
  len : Nat
  /-- A submission of 16 B (R422). -/
  submit : Bool
  deriving DecidableEq, Repr

/-- The Bridge. -/
structure Brg where
  /-- Link state, codes of BRG_STATUS.STATE, and the state RETRAIN came from. -/
  link : Nat
  /-- The Bridge node was recovered in this run: the link stays in ABSENT (Table 16-8). -/
  dead : Bool
  retrainFrom : Nat
  oneLane : Bool
  /-- Lanes without block lock in RETRAIN. -/
  lanesLost : List Nat
  partnerRole : Nat
  partnerBooting : Bool
  sameRole : Bool
  buildDiff : Bool
  partDiff : Bool
  /-- Next SEQ to send; unacknowledged packets with the SEQ of their first flit. -/
  txSeq : Nat
  unacked : List (Nat × Pkt)
  /-- Packets that wait for credits, in order, and the credits held. -/
  queue : List Pkt
  credits : Nat
  /-- Next SEQ expected; a NAK was sent in this error episode; credits to return. -/
  rxSeq : Nat
  nakSent : Bool
  creditsOwed : Nat
  /-- Consecutive replay episodes without progress (R410). -/
  episodes : Nat
  /-- Packets sent last, and the sideband of the last flit sent. -/
  sent : List Pkt
  side : Side
  /-- Remote accesses outstanding, and the next TAG. -/
  remotes : List Remote
  tagNext : Nat
  /-- Requests and SIGNAL packets of the current 10 µs, and its start (R417, R420). -/
  winAt : Nat
  winReqs : Nat
  winSigs : Nat
  /-- Model time from profile choice (R425), of the absence (R427), and of the last honoured
  RESET_REQ (R57). -/
  waitFrom : Nat
  absentAt : Nat
  resetAt : Option Nat
  /-- The wait of R425 is over; the fallback of R426 is due when every queue has stopped. -/
  waitOver : Bool
  fallbackDue : Bool
  /-- Primary: sections resent after an IMAGE_NAK; IMAGE_DONE received and its status. -/
  resent : List Nat
  doneStatus : Option Nat
  /-- Secondary: ranges of image bytes received, IMAGE_END, and sections asked for again. -/
  imgGot : List (Nat × Nat)
  imgEnd : Option Nat
  naked : List Nat
  deriving DecidableEq, Repr

def CanCtl.reset : CanCtl := ⟨0, [], false, [], none⟩

def Port.reset : Port := ⟨none, none, none, [], none, none, 0, 0⟩

def Svc.reset : Svc :=
  ⟨List.replicate 4 Port.reset, [], List.replicate 64 ⟨none, 0⟩, [], none, true, false, false, false,
   false, false, false, none, []⟩

def Ports.reset : Ports :=
  ⟨[none, none], [], false, false, [false, false], [false, false], [false, false], []⟩

def Brg.reset : Brg :=
  ⟨0, false, 0, false, [], 0, false, false, false, false, 0, [], [], 64, 0, false, 0, 0, [],
   ⟨0, 0, 0, false, false⟩, [], 0, 0, 0, 0, 0, 0, none, false, false, [], none, [], none, []⟩

end Sys2Proof.Machine
end

