-- ==== Sys2Proof/Machine/StateVideo.lean ====
section
/-! DEFINITION. State of the camera receiver, the raster front end and the tile cores
(chapters 06 and 07) beyond their registers, as plain data. -/

namespace Sys2Proof.Machine

/-- Header of a CSI-2 short packet. -/
structure PacketHead where
  /-- Virtual channel. -/
  vc : Nat
  /-- Good (0), corrected (1) or uncorrectable (2) (R183). -/
  ecc : Nat
  deriving DecidableEq, Repr

/-- A camera frame in progress (R185, R186). -/
structure CamFrame where
  frameNum : Nat
  slot : Nat
  /-- Window of the frame, as latched at its start (R194). -/
  width : Nat
  height : Nat
  /-- Lines written so far, and long packets received. -/
  line : Nat
  linesRx : Nat
  truncated : Bool
  incomplete : Bool
  crcErr : Bool
  fsRef : Nat
  fsLamp : Nat
  startedAt : Nat
  deriving DecidableEq, Repr

/-- The camera receiver beyond its registers. -/
structure Cam where
  /-- CAM_CTRL, CAM_LANE and CAM_PHY_CFG as latched at the start (R194). -/
  ctrl : Nat
  lane : Nat
  phy : Nat
  /-- EN = 0 was committed and a frame is in progress (R195). -/
  closing : Bool
  frame : Option CamFrame
  /-- Held in reset until the camera's script has succeeded, or the image turns out to hold none
  (R99, R196). -/
  held : Bool
  /-- The frame being received was dropped: nothing of it is written (R187, R188). -/
  dropping : Bool
  /-- Model time of the last accepted frame start (R187). -/
  lastStart : Option Nat
  /-- Model time of the last publication, or of the start (R192). -/
  lastPub : Nat
  /-- PAYLOAD_CRC of the last completed frame, and its run of equals (R193). -/
  lastCrc : Option Nat
  repeats : Nat
  deriving DecidableEq, Repr

/-- An FP16 value of a tile core, by its bits (R213). -/
abbrev Half := BitVec 16

/-- One register of a lane: four FP16 components (Table 07-7). -/
structure V4 where
  x : Half
  y : Half
  z : Half
  w : Half
  deriving DecidableEq, Repr

/-- A source operand of a combiner instruction (Table 07-8). -/
structure CombSrc where
  reg : Nat
  swz : Nat
  neg : Bool
  deriving DecidableEq, Repr

/-- The fields of a combiner instruction beside its OP (Table 07-8). -/
structure CombIns where
  sat : Bool
  dst : Nat
  wmask : Nat
  a : CombSrc
  b : CombSrc
  c : CombSrc
  sampler : Nat
  deriving DecidableEq, Repr

/-- One lane of a tile core (Table 07-7). -/
structure Lane where
  temps : List V4
  inputs : List V4
  outs : List V4
  /-- The fragment was discarded by KIL. -/
  discarded : Bool
  deriving DecidableEq, Repr

/-- A pre-empted context as a core's slot of the save area holds it (R238), with what the resuming
core loads again from the command stream: the stop's slot, the rank, the next granule, the draw
position, and the draw's programs and constants. -/
structure Saved where
  slot : Nat
  rank : Nat
  granule : Nat
  draw : Nat
  store : List Nat
  fragment : Bool
  consts : List V4
  tex : List Nat
  deriving DecidableEq, Repr

/-- What a tile core shows at a granule boundary. -/
structure GranuleSeen where
  /-- Its next granule. -/
  granule : Nat
  /-- The draw position of its pass. -/
  draw : Nat
  /-- Time in ns from the boundary until it is free. -/
  ns : Nat
  /-- Single-bit errors of its stores that it corrected in the granule (R215). -/
  corrected : Nat
  deriving DecidableEq, Repr

/-- One tile core: its combiner store and the context of the draw it runs. -/
structure Core where
  /-- The open stop it executes. -/
  slot : Option Nat
  rank : Nat
  /-- Combiner store: 64-bit instructions, at most 256. -/
  store : List Nat
  /-- Fragment stage (vertex stage otherwise). -/
  fragment : Bool
  consts : List V4
  /-- Texture-table index of samplers 0 to 3; 0xFF unused. -/
  tex : List Nat
  lanes : List Lane
  /-- Granule and draw position at which it goes on with its stop. -/
  granule : Nat
  draw : Nat
  /-- Context in its slot of the save area (R238). -/
  saved : Option Saved
  deriving DecidableEq, Repr

/-- The raster front end (R216, R218). -/
structure Ras where
  held : Option Nat
  waiting : List Nat
  binDone : Bool
  /-- Primitive records the bin phase left in the lot (R218). -/
  prims : Nat
  cores : List Core
  deriving DecidableEq, Repr

def V4.zero : V4 := ⟨0, 0, 0, 0⟩

def Lane.reset : Lane :=
  ⟨List.replicate 8 V4.zero, List.replicate 8 V4.zero, List.replicate 8 V4.zero, false⟩

def Core.reset : Core :=
  ⟨none, 0, [], false, List.replicate 32 V4.zero, [0xFF, 0xFF, 0xFF, 0xFF],
   List.replicate 32 Lane.reset, 0, 0, none⟩

def Ras.reset : Ras := ⟨none, [], false, 0, List.replicate 16 Core.reset⟩

def Cam.reset : Cam := ⟨0, 0, 0, false, none, true, false, none, 0, none, 0⟩

end Sys2Proof.Machine
end

