-- ==== Sys2Proof/Syntax.lean ====
section
/-! DEFINITION. The commands of the AE480: one constructor per row of the opcode table, in its
order, with the operands a command brings from outside the state. What the device decides or
knows itself (the state of a queue, the contents of a descriptor) is no operand. -/

namespace Sys2Proof

open Machine

/-- A command. -/
inductive Instr where
  /-- POR_ASSERT (R30): VHV has fallen below the threshold; the device goes to OFF. -/
  | porAssert : Instr
  /-- POR_RELEASE (R30): VHV has been at or above 3.8 V for 1 ms; `vhvLow`: it is still below 4.5
    V. -/
  | porRelease (vhvLow : Bool) : Instr
  /-- X32_CRYSTAL_LOCK (R32): After 1024 consecutive good crystal cycles, the lamplight tick
    switches from the RC oscillator to the 32.768 kHz crystal at a tick boundary. -/
  | x32CrystalLock : Instr
  /-- X32_EDGE_MISSED (R33): the counter goes on with RC edges. -/
  | x32EdgeMissed : Instr
  /-- X32_FAIL (R33): four RC periods without a crystal edge. -/
  | x32Fail : Instr
  /-- X32_EDGE_RETURN (R33): A crystal edge arrives within 4 RC periods; the tick counter returns
    to the crystal at the next tick boundary. -/
  | x32EdgeReturn : Instr
  /-- REF_START_TIMEOUT (R34): 1.5 ms after its start the crystal is not within ±2 %. -/
  | refStartTimeout : Instr
  /-- REF_COUNT_FAIL (R34): the count has been out of range for four consecutive ticks. -/
  | refCountFail : Instr
  /-- PLL_LOCKED (R36): PLL `p` (bit of SYS_PLL_STATUS.LOCK) indicates lock. -/
  | pllLocked (p : Nat) : Instr
  /-- SYS_PLL_LOSS_OF_LOCK (R36): The SYS PLL loses lock; the lamplight domain performs a warm
    reset with cause SYS_PLL. -/
  | sysPllLossOfLock : Instr
  /-- PLL_LOSS_OF_LOCK (R36): PLL `p` other than SYS loses lock; its units are fenced together. -/
  | pllLossOfLock (p : Nat) : Instr
  /-- WAKE_INPUT_EDGE (R39): source `src` changes to `level`. A secondary in service wait after
    its Bridge boot wait restarts at each rising edge of BRG_WAKE (R430). -/
  | wakeInputEdge (src : Nat) (level : Bool) : Instr
  /-- WAKE_FILTER_ELAPSED (R39): source `src` has held its level for its filter time. -/
  | wakeFilterElapsed (src : Nat) : Instr
  /-- TIMER_ALARM (R39): LAMP_TIMER_ALARM seconds have passed in PARKED. -/
  | timerAlarm : Instr
  /-- PWR_GOOD_RISE (R41): the rails are in range; `straps`: the strap balls as the logic-side
    reset is released (R70). -/
  | pwrGoodRise (straps : Straps) : Instr
  /-- PWR_GOOD_TIMEOUT (R42): PG_TIMEOUT has passed without PWR_GOOD. -/
  | pwrGoodTimeout : Instr
  /-- SELF_TEST_DONE (R41): the self-test ends; `ok`: it passes; `temps`: the sensors' readings,
    checked after a thermal shutdown (R69). -/
  | selfTestDone (ok : Bool) (temps : List Int) : Instr
  /-- WAKING_RETRY (R42): one second after a failed attempt. -/
  | wakingRetry : Instr
  /-- PWR_REQ_RUNNING (R38): TARGET = RUNNING is committed, with the PARK_DRAIN field of the word.
    -/
  | pwrReqRunning (drain : Nat) : Instr
  /-- PWR_REQ_QUIET (R43): TARGET = QUIET is committed. -/
  | pwrReqQuiet (drain : Nat) : Instr
  /-- PWR_REQ_PARKED (R46): TARGET = PARKED is committed. -/
  | pwrReqParked (drain : Nat) : Instr
  /-- IGN_OFF_DELAY_EXPIRE (R45): The filtered IGN_WAKE level has been inactive for IGN_OFF_DELAY
    seconds in RUNNING with IGN_QUIET set; the device enters QUIET. -/
  | ignOffDelayExpire : Instr
  /-- QUIET_TIMEOUT (R45): QUIET has lasted QUIET_TIMEOUT seconds with every enabled wake source
    inactive; the park sequence starts. -/
  | quietTimeout : Instr
  /-- PARK_DRAIN_END (R46): every open stop has ended, or PARK_DRAIN has elapsed. -/
  | parkDrainEnd : Instr
  /-- PARK_POWER_OFF (R46): steps 6 and 7 of R46. -/
  | parkPowerOff : Instr
  /-- LATCHED_WAKE_START (R48): PWR_GOOD has been low for 10 ms. -/
  | latchedWakeStart : Instr
  /-- UNIT_CLOCK_STARTED (R49): unit `u`'s clock runs, and stops dispatched to it start once every
    unit of theirs is clocked. -/
  | unitClockStarted (u : Nat) : Instr
  /-- AUTO_GATE_IDLE (R50): unit `u` has been idle for IDLE_TICKS. -/
  | autoGateIdle (u : Nat) : Instr
  /-- RESET_N_ASSERT (R54): RESET_N has been low for 1 µs. -/
  | resetNAssert : Instr
  /-- RESET_N_RELEASE (R54): WAKING goes on; `straps` as the logic-side reset is released (R70).
    -/
  | resetNRelease (straps : Straps) : Instr
  /-- WARM_RESET_COMMAND (R53): 0xA5 is written to SYS_RESET_CTRL. -/
  | warmResetCommand : Instr
  /-- PWR_GOOD_FALL (R55): a warm reset that keeps PMIC_EN high while the logic side runs. -/
  | pwrGoodFall : Instr
  /-- RETENTION_SCRUB (R59): both banks are read in full; `errors`: words found in error, with
    those the banks already hold. -/
  | retentionScrub (errors : List RetErr) : Instr
  /-- THERMAL_SAMPLE (R65): the twelve readings, in whole degrees. -/
  | thermalSample (temps : List Int) : Instr
  /-- THERMAL_WAKE_HOLD_END (R69): 60 s after a thermal shutdown. -/
  | thermalWakeHoldEnd : Instr
  /-- FLASH_RESET_WAIT_END (R81): 10 ms after XSPI_RST_N has risen. -/
  | flashResetWaitEnd : Instr
  /-- IMAGE_VERIFY (R91): The header, section table and signature block have been read; they are
    checked against OTP and the signature is verified. -/
  | imageVerify (octal quad : Bool) : Instr
  /-- CONFIG_SECTION_CHECK (R89): the CONFIG section has been read (`readOk`). -/
  | configSectionCheck (readOk : Bool) : Instr
  /-- CONFIG_REG_WRITE (R90): a REG_WRITE record. -/
  | configRegWrite : Instr
  /-- CONFIG_PROFILE (R93): a PROFILE record declares a profile. -/
  | configProfile : Instr
  /-- CONFIG_LOADER (R78): a LOADER record sets BOOT_SPLASH_HOLD. -/
  | configLoader : Instr
  /-- CONFIG_DDR (R134): a DDR record declares the LPDDR4X and starts its initialisation, or fails
    the CONFIG section. -/
  | configDdr : Instr
  /-- CONFIG_END (R89): the END record ends step 2; the intake starts, on a chip that is no
    secondary (R27). -/
  | configEnd : Instr
  /-- SECTION_LOADED (R87): section `i` of the table has been copied from flash (`readOk`), and
    its digest is checked where it landed. -/
  | sectionLoaded (i : Nat) (readOk : Bool) : Instr
  /-- FLASH_COMMAND_TIMEOUT (R107): a flash command had no response within 10 ms; it is retried 3
    times. `i`: the section that is being read, where one is. -/
  | flashCommandTimeout (i : Nat) : Instr
  /-- I2C_WRITE (R98): one write transfer; it waits while the controller is in use. -/
  | i2cWrite (t : Nat) : Instr
  /-- I2C_EXPECT (R98): one read, whose masked data must equal the value. -/
  | i2cExpect (t : Nat) : Instr
  /-- WAIT (R97): A script operation waits the given number of microseconds. -/
  | wait (t : Nat) : Instr
  /-- PIN_SET (R100): A script operation drives a panel or GPIO pin to a level. -/
  | pinSet (t : Nat) : Instr
  /-- PIN_WAIT (R98): the script goes on at once where the pin has the level already. -/
  | pinWait (t : Nat) : Instr
  /-- DSI_CMD (R100): one low-power command; the D-PHY starts on first use. -/
  | dsiCmd (t : Nat) : Instr
  /-- SCRIPT_END (R97): A script's END operation completes the script. -/
  | scriptEnd (t : Nat) : Instr
  /-- SCRIPT_TIMEOUT (R98): thread `t`'s script has exceeded its TIMEOUT. -/
  | scriptTimeout (t : Nat) : Instr
  /-- PIN_WAIT_TIMEOUT (R98): A PIN_WAIT reaches its timeout and its script fails. -/
  | pinWaitTimeout (t : Nat) : Instr
  /-- I2C_TRANSFER_DONE (R98): controller `c`'s transfer ends, acknowledged (`ack`) or not, with
    the bytes it read. -/
  | i2cTransferDone (c : Nat) (ack : Bool) (data : List Byte) : Instr
  /-- I2C_RETRY_INTERVAL (R98): the transfer is tried again. -/
  | i2cRetryInterval (c : Nat) : Instr
  /-- I2C_STRETCH_TIMEOUT (R98): the target holds a line; the transfer fails. -/
  | i2cStretchTimeout (c : Nat) : Instr
  /-- I2C_XFER_START (R98): word `v` is written to I2C_XFER_c. -/
  | i2cXferStart (c v : Nat) : Instr
  /-- LPDDR_TRAINING_DONE (R135): an attempt at the rate in force has ended, after `us`
    microseconds. -/
  | lpddrTrainingDone (ok : Bool) (us : Nat) : Instr
  /-- BRIDGE_BOOT_TIMEOUT (R72): no image flit has come within 10 s. -/
  | bridgeBootTimeout : Instr
  /-- SPLASH_HOLD_ELAPSED (R78): BOOT_SPLASH_HOLD has passed since the backlight came on; the
    roundabout selects under its normal rules from then on. -/
  | splashHoldElapsed : Instr
  /-- REPAIR_READ_DONE (R103): the section of the first repair has been read (`readOk`). -/
  | repairReadDone (readOk : Bool) : Instr
  /-- PLAZA_INIT_DONE (R111): every line is written with zeros, every Plaza tag and lock entry is
    clear; `banks`: banks that failed, `links`: links that failed their test (R111, R112, R459).
    -/
  | plazaInitDone (banks : List Nat) (links : List Link) : Instr
  /-- PATROL_SCRUB (R115): one line in each bank is read; `errs`: words found in error now. -/
  | patrolScrub (lines : List Nat) (errs : List MemErr) : Instr
  /-- LINK_PARITY_ERROR (R130): a flit on a link fails its parity; `again`: it is the replay of a
    flit that failed before. Three failed replays one after the other fail the link; `lost`:
    units whose packets are then in its retry buffers. -/
  | linkParityError (node port : Nat) (again : Bool) (lost : List Nat) : Instr
  /-- LPDDR_MR4_POLL (R138): the refresh-rate field read, the refresh multiplier it requires (0 to
    2: ×1, ×2, ×4), and whether the device is above its operating range (R138). -/
  | lpddrMr4Poll (mr4 mult : Nat) (hot : Bool) : Instr
  /-- RUN_LIST_POOL_ROOM (R146): the enqueue, or the translation anew, that has waited longest for
    pool room proceeds. -/
  | runListPoolRoom : Instr
  /-- XLT_INVALIDATE (R149): bit `a` is written as 1. -/
  | xltInvalidate (a : Nat) : Instr
  /-- XLT_ROOT_COMMIT (R149): `v` is written to XLT_ROOT_a_HI. -/
  | xltRootCommit (a v : Nat) : Instr
  /-- POISON_CLEAR (R125): `v` is written to AVE_POISON_CLR. -/
  | poisonClear (v : Nat) : Instr
  /-- WARDEN_DIVERGENCE (R155): the lockstep comparison of warden `w` diverges. -/
  | wardenDivergence (w : Nat) : Instr
  /-- WARDEN_TAKEOVER (R155): the survivor takes the failed warden's queues over. Stops that no
    unit has acknowledged are dispatched anew, and the copy engine's stops start again. -/
  | wardenTakeover : Instr
  /-- STOP_ENQUEUE (R160): queue `q` fetches its next stop. -/
  | stopEnqueue (q : Nat) : Instr
  /-- STOP_DISPATCH (R165): a dispatch decision of warden `w`; `lat`: nanoseconds from the
    compositor line to the first data of a composition that it starts. -/
  | stopDispatch (w lat : Nat) : Instr
  /-- STOP_COMPLETE (R175): the units of slot `i` report its stop complete. -/
  | stopComplete (i : Nat) : Instr
  /-- STOP_WATCHDOG_EXPIRE (R168): the term of slot `i`'s stop has passed; `u`: the unit whose
    reservation expired. A COPY or FILL stop has no unit, and no unit is recovered for it. -/
  | stopWatchdogExpire (i u : Nat) : Instr
  /-- GRANULE_OVERRUN (R170): the granule of tile core `c` passes 63 ticks; `ticks`: its length.
    -/
  | granuleOverrun (c ticks : Nat) : Instr
  /-- GRANULE_ABORT (R170): the granule of tile core `c` passes 75 ticks; its stop fails and the
    core is recovered. -/
  | granuleAbort (c : Nat) : Instr
  /-- GRANULE_BOUNDARY (R238): tile core `c` reaches a granule boundary; one asked to give way or to
    end a withdrawn stop does so. `g`: what the core shows there, `ticks`: the granule's length. -/
  | granuleBoundary (c : Nat) (g : GranuleSeen) (ticks : Nat) : Instr
  /-- SIGNAL_ADD (R171): a stop's ADD of `operand` to crossing `n`; `failed`: a failed signal. -/
  | signalAdd (n operand : Nat) (failed : Bool) : Instr
  /-- SIGNAL_SET (R171): a stop's SET of crossing `n` to `operand`. -/
  | signalSet (n operand : Nat) (failed : Bool) : Instr
  /-- SIGNAL_RELEASE (R173): a stop of queue `q` releases mutex `n`. -/
  | signalRelease (n q : Nat) : Instr
  /-- QUEUE_LEASE_EXPIRE (R448): record `n`, which a queue owns, expires. -/
  | queueLeaseExpire (n : Nat) : Instr
  /-- QUEUE_HALT (R181): A HALT command closes a running queue to new dispatch and starts its
    drain. -/
  | queueHalt (q : Nat) : Instr
  /-- QUEUE_RESUME (R181): A RESUME command re-runs the withdrawn stops in route order and
    continues the queue. -/
  | queueResume (q : Nat) : Instr
  /-- QUEUE_DRAIN_EXPIRE (R181): DRAIN_MS have passed in queue `q`'s halt. -/
  | queueDrainExpire (q : Nat) : Instr
  /-- XNG_SET (R172): a commit of XNG_SET_CMD with INDEX `n` and XNG_SET_VAL `v`. -/
  | xngSet (n v : Nat) : Instr
  /-- NOP (R168): the oldest stop of queue `q` completes at dispatch. -/
  | nop (q : Nat) : Instr
  /-- START_ROUTE (R163): the oldest stop of queue `q` is dispatched. -/
  | startRoute (q : Nat) : Instr
  /-- COPY (R168): the stop in slot `i` copies its source range to its destination range. -/
  | copy (i : Nat) : Instr
  /-- FILL (R168): the stop in slot `i` fills its range with its pattern. -/
  | fill (i : Nat) : Instr
  /-- LOCK (R164): the oldest stop of queue `q` is dispatched. -/
  | lock (q : Nat) : Instr
  /-- UNLOCK (R164): the oldest stop of queue `q` is dispatched. -/
  | unlock (q : Nat) : Instr
  /-- RASTER_PASS (R218): the pass in slot `i`, which the front end holds, renders (R217 to R225).
    A binned pass whose bin phase is still to come runs it first. -/
  | rasterPass (i : Nat) : Instr
  /-- FRONT_END_PASS_TAKEN (R216): the free front end takes the next waiting pass (R216). -/
  | frontEndPassTaken : Instr
  /-- RASTER_BIN_PHASE_DONE (R218): the bin phase of the binned pass held completes (R218). -/
  | rasterBinPhaseDone : Instr
  /-- COMPUTE_ADD (R233): the stop in slot `i`. -/
  | computeAdd (i : Nat) : Instr
  /-- COMPUTE_SUB (R233): the stop in slot `i`. -/
  | computeSub (i : Nat) : Instr
  /-- COMPUTE_MUL (R233): the stop in slot `i`. -/
  | computeMul (i : Nat) : Instr
  /-- COMPUTE_MAX (R233): the stop in slot `i`. -/
  | computeMax (i : Nat) : Instr
  /-- COMPUTE_MIN (R233): the stop in slot `i`. -/
  | computeMin (i : Nat) : Instr
  /-- COMPUTE_RELU (R233): the stop in slot `i`. -/
  | computeRelu (i : Nat) : Instr
  /-- COMPUTE_CVT (R233): the stop in slot `i`. -/
  | computeCvt (i : Nat) : Instr
  /-- COMPUTE_BLEND (R233): the stop in slot `i`. -/
  | computeBlend (i : Nat) : Instr
  /-- COMPUTE_RESAMPLE (R233): the stop in slot `i`. -/
  | computeResample (i : Nat) : Instr
  /-- COMPUTE_NORM (R233): the stop in slot `i`. -/
  | computeNorm (i : Nat) : Instr
  /-- COMPUTE_SOFTMAX (R233): the stop in slot `i`. -/
  | computeSoftmax (i : Nat) : Instr
  /-- COMPOSE (R236): the stop in slot `i`. -/
  | compose (i : Nat) : Instr
  /-- MOV (R226): The combiner instruction MOV copies a source. -/
  | mov (n : Nat) (ins : CombIns) : Instr
  /-- ADD (R226): The combiner instruction ADD adds two sources. -/
  | add (n : Nat) (ins : CombIns) : Instr
  /-- SUB (R226): The combiner instruction SUB subtracts two sources. -/
  | sub (n : Nat) (ins : CombIns) : Instr
  /-- MUL (R226): The combiner instruction MUL multiplies two sources. -/
  | mul (n : Nat) (ins : CombIns) : Instr
  /-- MAD (R226): The combiner instruction MAD computes a × b + c with one rounding. -/
  | mad (n : Nat) (ins : CombIns) : Instr
  /-- LRP (R226): The combiner instruction LRP interpolates with one rounding. -/
  | lrp (n : Nat) (ins : CombIns) : Instr
  /-- MIN (R226): The combiner instruction MIN takes the minimum. -/
  | min (n : Nat) (ins : CombIns) : Instr
  /-- MAX (R226): The combiner instruction MAX takes the maximum. -/
  | max (n : Nat) (ins : CombIns) : Instr
  /-- CLMP (R226): The combiner instruction CLMP clamps a between b and c. -/
  | clmp (n : Nat) (ins : CombIns) : Instr
  /-- DP2 (R226): The combiner instruction DP2 computes a two-component dot product. -/
  | dp2 (n : Nat) (ins : CombIns) : Instr
  /-- DP3 (R226): The combiner instruction DP3 computes a three-component dot product. -/
  | dp3 (n : Nat) (ins : CombIns) : Instr
  /-- DP4 (R226): The combiner instruction DP4 computes a four-component dot product. -/
  | dp4 (n : Nat) (ins : CombIns) : Instr
  /-- RCP (R226): The combiner instruction RCP computes a correctly rounded reciprocal. -/
  | rcp (n : Nat) (ins : CombIns) : Instr
  /-- RSQ (R226): The combiner instruction RSQ computes a correctly rounded reciprocal square
    root. -/
  | rsq (n : Nat) (ins : CombIns) : Instr
  /-- EXP2 (R226): The combiner instruction EXP2 computes 2 to the power a.x. -/
  | exp2 (n : Nat) (ins : CombIns) : Instr
  /-- LOG2 (R226): The combiner instruction LOG2 computes log2 of a.x. -/
  | log2 (n : Nat) (ins : CombIns) : Instr
  /-- FRC (R226): The combiner instruction FRC returns the fractional part. -/
  | frc (n : Nat) (ins : CombIns) : Instr
  /-- FLR (R226): The combiner instruction FLR returns the floor. -/
  | flr (n : Nat) (ins : CombIns) : Instr
  /-- SLT (R226): The combiner instruction SLT sets 1.0 when a < b. -/
  | slt (n : Nat) (ins : CombIns) : Instr
  /-- SGE (R226): The combiner instruction SGE sets 1.0 when a ≥ b. -/
  | sge (n : Nat) (ins : CombIns) : Instr
  /-- CMP (R226): The combiner instruction CMP selects b or c by the sign of a. -/
  | cmp (n : Nat) (ins : CombIns) : Instr
  /-- TEX (R223): every lane samples the texture that SAMPLER names at a.xy (R223), where the core
    runs a pass whose draw uses that sampler; fragment stage only. -/
  | tex (n : Nat) (ins : CombIns) : Instr
  /-- SCS (R226): The combiner instruction SCS computes sine and cosine of 2πr. -/
  | scs (n : Nat) (ins : CombIns) : Instr
  /-- KIL (R226): the fragment of every lane with a component below 0 is discarded; fragment stage
    only. -/
  | kil (n : Nat) (ins : CombIns) : Instr
  /-- ARRAY_LAYER (R265): the stop in slot `i` runs to its end; `c`: what it meets from
    outside. -/
  | arrayLayer (i : Nat) (c : LayerSeen) : Instr
  /-- ARRAY_PASS (R246): map entry `n` of the ARRAY_LAYER in slot `i` computes input vector `v`,
    and its partials join the accumulators; `c`: what the pass meets from outside. A waiting
    sweep step, calibration or page write takes the pass boundary first. -/
  | arrayPass (i n v : Nat) (c : PassSeen) : Instr
  /-- PAGE_WRITE (R257): the stop in slot `i`; its page images arrive and its writes start. -/
  | pageWrite (i : Nat) : Instr
  /-- PAGE_WRITE_DONE (R257): the write and verify in progress on array `p` ends. A first mismatch
    writes once more, a second one retires the array with cause WRITE. -/
  | pageWriteDone (p : Nat) (verifyOk : Bool) : Instr
  /-- CALIBRATION_PERIOD_EXPIRE (R252): PERIOD_S have passed since array `p`'s last calibration.
    -/
  | calibrationPeriodExpire (p : Nat) : Instr
  /-- CALIBRATION_GRACE_EXPIRE (R252): array `p`'s calibration has been due for GRACE_MS. -/
  | calibrationGraceExpire (p : Nat) : Instr
  /-- CALIBRATION_DONE (R253): the calibration that runs on array `p` ends; `cols`: the errors
    e(n) it measured, by column. -/
  | calibrationDone (p : Nat) (cols : List (Nat × List Int)) : Instr
  /-- START_CALIBRATION_DONE (R254): every physical array has been measured; `results`: by array,
    what its columns gave. -/
  | startCalibrationDone (results : List (Nat × List (Nat × List Int))) : Instr
  /-- SWEEP_STEP (R250): the period of array `p`'s sweep has passed. The step runs at once when
    the array belongs to no open stop, or is forced; else it waits. `c`: the readings of its two
    tries, `cols`: the calibration between them. -/
  | sweepStep (p : Nat) (c : SweepSeen) (cols : List (Nat × List Int)) : Instr
  /-- RETIREMENT_MIRROR (R263): the retirement block, to the copy whose turn it is. -/
  | retirementMirror : Instr
  /-- WARP (R201): the stop in slot `i`; `parity` tells of a tile-buffer parity error. -/
  | warp (i : Nat) (parity : Bool) : Instr
  /-- PYRAMID (R205): the stop in slot `i`. -/
  | pyramid (i : Nat) (parity : Bool) : Instr
  /-- MOTION (R208): the stop in slot `i`. -/
  | motion (i : Nat) (parity : Bool) : Instr
  /-- STATS (R210): the stop in slot `i`. -/
  | stats (i : Nat) (parity : Bool) : Instr
  /-- CSI_FRAME_START (R186): a frame-start packet (R186 to R188). -/
  | csiFrameStart (h : PacketHead) (frameNum : Nat) : Instr
  /-- CSI_FRAME_END (R189): a frame-end packet closes the frame (R186, R189). -/
  | csiFrameEnd (h : PacketHead) : Instr
  /-- CSI_LONG_PACKET (R185): a long packet whose header is good (0), corrected (1) or
    uncorrectable (2) and whose payload CRC holds or not (R182 to R185). -/
  | csiLongPacket (vc dt header : Nat) (payload : List Byte) (crcOk : Bool) : Instr
  /-- CSI_IGNORED_PACKET (R182): a packet of another channel or type (R182). -/
  | csiIgnoredPacket (h : PacketHead) : Instr
  /-- CAM_FRAME_TIMEOUT (R186): the frame in progress is closed INCOMPLETE (R186). -/
  | camFrameTimeout : Instr
  /-- CAM_STALE_TIMEOUT (R192): no frame has been published for CAM_STALE ms (R192). -/
  | camStaleTimeout : Instr
  /-- CAM_START (R194): a commit of CAM_CTRL with EN = 1 (R194). -/
  | camStart (v : Nat) : Instr
  /-- CAM_STOP (R195): a commit of CAM_CTRL with EN = 0 (R195). -/
  | camStop (v : Nat) : Instr
  /-- OFFER (R292): the stop in slot `i` hands its stand over. -/
  | offer (i : Nat) : Instr
  /-- GENERATE (R302): the stop in slot `i`; `parity`: the tile buffer shows a parity error. It
    starts once a region-lock entry for its candidate is free. -/
  | generate (i : Nat) (parity : Bool) : Instr
  /-- RELOCATION_COPY_DONE (R299): the copy of track `t` is complete. -/
  | relocationCopyDone (t : Nat) : Instr
  /-- GATE_ITERATION_START (R303): iteration p of gate `g` starts. -/
  | gateIterationStart (g : Nat) : Instr
  /-- GATE_BIND_SEQUENCE (R303): the source gate `g` waits for has arrived. In replay the gate
    binds the value its logged substitution names. -/
  | gateBindSequence (g : Nat) : Instr
  /-- GATE_BIND_INTAKE (R303): gate `g` binds the newest intake snapshot; in replay, the logged
    one, and a snapshot that has been overtaken ends the replay. -/
  | gateBindIntake (g : Nat) : Instr
  /-- GATE_WAIT_LIMIT (R303): WAIT_US has passed without gate `g`'s source; the newest input
    stands in. A replay waits without limit. -/
  | gateWaitLimit (g : Nat) : Instr
  /-- TRACK_ENABLE (R291): a commit of RBT_TRK_CFG_t with EN = 1. -/
  | trackEnable (t v : Nat) : Instr
  /-- TRACK_DISABLE (R309): a commit of RBT_TRK_CFG_t with EN = 0. -/
  | trackDisable (t v : Nat) : Instr
  /-- LINE_START (R314): the timing generator starts its next line. `late`: by output, the first
    column whose plane data is missing; `ahead`: by output, the lines its FIFO is ahead; `bad`:
    planes whose fetch met an error. -/
  | lineStart (late : List (Option Nat)) (ahead bad : List Nat) : Instr
  /-- TE_EDGE (R317): TE of output `x` goes to `level`; `skew`: TE_B minus TE_A in pixel clocks.
    -/
  | teEdge (x : Nat) (level : Bool) (skew : Int) : Instr
  /-- TE_B_MISSING (R318): no TE_B edge within one line of TE_A. The difference it records is a
    free value. -/
  | teBMissing : Instr
  /-- TE_TIMEOUT (R319): no accepted TE edge within 1.5 frame times. -/
  | teTimeout : Instr
  /-- FREERUN_FRAME_START (R319): While free-running, the generator starts a frame one frame time
    after the last. -/
  | freerunFrameStart : Instr
  /-- OUTPUT_ENABLE (R343): a commit of SCO_CTRL with EN_x = 1. -/
  | outputEnable (x : Nat) : Instr
  /-- OUTPUT_DISABLE (R344): a commit of SCO_CTRL with EN_x = 0. -/
  | outputDisable (x : Nat) : Instr
  /-- DISPLAY_MODE_CHANGE (R345): a commit of timing register `k` (0 to 5), of SCO_OUT_CFG_A or _B
    (6, 7) or of SCO_DPHY_A or _B (8, 9). -/
  | displayModeChange (k v : Nat) : Instr
  /-- COLOUR_RANGE_CHANGE (R345): a commit of SCO_OUT_CFG_x that changes RANGE. -/
  | colourRangeChange (x range : Nat) : Instr
  /-- MODE_CHANGE_IDLE_END (R345): The 100 µs LP-11 or idle hold of a change ends, and the output
    is reprogrammed for restart. -/
  | modeChangeIdleEnd (x : Nat) : Instr
  /-- PANEL_SEQUENCE_WAIT_END (R347): the wait of output `x`'s panel sequence ends. -/
  | panelSequenceWaitEnd (x : Nat) : Instr
  /-- DSI_TX_GO (R348): A write to SCO_DSI_TX_GO_x sends the held low-power packet, or sets ERR.
    -/
  | dsiTxGo (x : Nat) : Instr
  /-- ICON_ENABLE (R337): a commit of SGN_ICON_POS_n with EN = 1. -/
  | iconEnable (n v : Nat) : Instr
  /-- SGN_SRAM_ACCESS (R342): An access to SGN_SRAM_DATA reads or writes one icon SRAM word and
    advances the address by 4. -/
  | sgnSramAccess (write : Bool) (v : Nat) : Instr
  /-- SIGNPOST_STATUS_REPEAT (R340): the message again, while a bit stays set. -/
  | signpostStatusRepeat : Instr
  /-- KILL_LINE_ASSERT (R350): The kill line is asserted; the HV side drives BL_GATE low and the
    sinks off within 10 µs. -/
  | killLineAssert : Instr
  /-- KILL_LINE_RELEASE (R350): once the self-test has passed. -/
  | killLineRelease : Instr
  /-- HV_WRITE (R351): a valid WRITE frame reaches the HV side. -/
  | hvWrite (seq addr data : Nat) : Instr
  /-- HV_ACK (R352): an ACK reaches the HVS block. -/
  | hvAck (seq : Nat) : Instr
  /-- HV_STATUS (R352): a STATUS frame reaches the HVS block, which keeps the copy. LINK_LOST is
    the block's own bit. -/
  | hvStatus (idx data : Nat) : Instr
  /-- HV_HEARTBEAT (R353): the HV side answers with its status words in turn. -/
  | hvHeartbeat (seq : Nat) : Instr
  /-- HV_RESYNC (R353): the HV side acknowledges, and takes the next WRITE whatever its SEQ. -/
  | hvResync (seq : Nat) : Instr
  /-- HV_ACK_TIMEOUT (R352): 20 µs without an ACK; up to 3 resends, after which the WRITE is given
    up to the resynchronisation. -/
  | hvAckTimeout : Instr
  /-- HV_HEARTBEAT_TIMER (R353): 100 µs without another frame. -/
  | hvHeartbeatTimer : Instr
  /-- HV_SIDE_LINK_LOSS (R353): the HV side enters SAFE. -/
  | hvSideLinkLoss : Instr
  /-- SAFE_HOLD_EXPIRE (R353): LINK_HOLD has passed in SAFE. -/
  | safeHoldExpire : Instr
  /-- HV_LINK_LOST (R353): the HVS block loses the link. -/
  | hvLinkLost : Instr
  /-- HV_RESYNC_TIMER (R353): 10 ms since the last RESYNC. -/
  | hvResyncTimer : Instr
  /-- VBAT_CONVERSION (R356): a conversion of the battery voltage, 10 mV a code. -/
  | vbatConversion (code : Nat) : Instr
  /-- HEADROOM_UPDATE (R358): the loop moves its target by 5 mV; `meas`: voltages (mV) measured
    across sinks at the end of qualifying on-times in the last 100 µs. -/
  | headroomUpdate (meas : List (Nat × Nat)) : Instr
  /-- BOOST_SOFT_START_DONE (R359): the ramp ends and the boost is ready. -/
  | boostSoftStartDone : Instr
  /-- BOOST_IDLE_STOP (R359): for 1 ms no output has run and every sink has been off. -/
  | boostIdleStop : Instr
  /-- BOOST_OVERVOLTAGE (R357): BL_FB reaches 1.25 V (`on`), or falls below it again. -/
  | boostOvervoltage (on : Bool) : Instr
  /-- BOOST_NO_REGULATION (R360): a boost fault. The fourth one of a running period, after three
    restarts, latches the boost off. -/
  | boostNoRegulation : Instr
  /-- BOOST_RESTART (R360): 100 ms after a boost fault. -/
  | boostRestart : Instr
  /-- PWM_PERIOD_START (R363): a period starts, and each sink's on-time begins at its phase
    offset. -/
  | pwmPeriodStart : Instr
  /-- SINK_ON_TIME_END (R364): the on-time of sink `k` ends with `mv` millivolts across it. -/
  | sinkOnTimeEnd (k mv : Nat) : Instr
  /-- SINK_ZERO_TIMEOUT (R364): 1 ms after a request for 0 the on-time of sink `k` still lasts. -/
  | sinkZeroTimeout (k : Nat) : Instr
  /-- RANGE_CHANGE (R365): a commit of HVS_SINK_k that changes RANGE; its WRITE crosses, and the
    HV side starts the change. -/
  | rangeChange (k v : Nat) : Instr
  /-- RANGE_SETTLED (R365): the new reference of sink `k` has settled for 20 µs. -/
  | rangeSettled (k : Nat) : Instr
  /-- NTC_CONVERSION_START (R369): channel `c`'s slot in the 10 ms cycle. -/
  | ntcConversionStart (c : Nat) : Instr
  /-- NTC_CONVERSION_END (R370): sample B of channel `c` is taken; `a`, `b`: the codes of both. -/
  | ntcConversionEnd (c a b : Nat) : Instr
  /-- HVS_CLEAR (R360): a write of 0xC1 to HVS_CMD. -/
  | hvsClear : Instr
  /-- BL_ON_DELAY_EXPIRE (R375): BL_ON_DELAY after output `x`'s first complete frame. The first
    enable of a start is the moment the splash is visible (R79). -/
  | blOnDelayExpire (x : Nat) : Instr
  /-- CAN_FRAME_RECEIVED (R382): controller `c` has received a frame. -/
  | canFrameReceived (c ident : Nat) (ext remote : Bool) (data : List Byte) (flashOk : Bool) : Instr
  /-- CAN_FRAME_TRANSMITTED (R379): the frame first in the queue has been sent. -/
  | canFrameTransmitted (c : Nat) : Instr
  /-- CAN_BUS_OFF (R378): A controller enters bus-off and raises fault 0x6001. -/
  | canBusOff (c : Nat) : Instr
  /-- CAN_BUS_OFF_RECOVERY (R378): 128 occurrences of 11 recessive bits. -/
  | canBusOffRecovery (c : Nat) : Instr
  /-- CAN_HOLDOFF_END (R378): the 1 s off the bus is over and the controller recovers. -/
  | canHoldoffEnd (c : Nat) : Instr
  /-- CAN_TX_ABANDON (R378): the frame queued longest has waited 100 ms. -/
  | canTxAbandon (c : Nat) : Instr
  /-- SIGNAL_STALE (R385): STALE ms without an accepted value of signal `n` (R385). -/
  | signalStale (n : Nat) : Instr
  /-- GSP_SEGMENT_TIMEOUT (R392): the incomplete message of controller `c` is discarded. -/
  | gspSegmentTimeout (c : Nat) : Instr
  /-- UART_GAP_TIMEOUT (R392): the incomplete message on the UART is discarded. The model takes a
    UART message when it is complete (assumption 52), so nothing else is held of it. -/
  | uartGapTimeout : Instr
  /-- SPI_WRITE (R392): one transaction's bytes after the operation byte. -/
  | spiWrite (bytes : List Byte) (flashOk : Bool) : Instr
  /-- SPI_READ (R392): the transaction clocks out a length and the response, here as a
    little-endian number, and the response is removed. -/
  | spiRead : Instr
  /-- SPI_STATUS (R392): a command executes, a response is ready. -/
  | spiStatus : Instr
  /-- GSP_IDENT (R396): IDENT returns SYS_ID, BOOT_STATUS, BUILD_ID, the tick and the port. -/
  | gspIdent (p req : Nat) (payload : List Byte) : Instr
  /-- GSP_REG_READ (R396): REG_READ reads up to 256 register words, stopping at the first error
    response. -/
  | gspRegRead (p req : Nat) (payload : List Byte) : Instr
  /-- GSP_REG_WRITE (R396): REG_WRITE writes register words from ASID 0, journaling each change.
    -/
  | gspRegWrite (p req : Nat) (payload : List Byte) : Instr
  /-- GSP_MEM_READ (R396): MEM_READ reads Plaza or LPDDR4X bytes, reporting POISONED where needed.
    -/
  | gspMemRead (p req : Nat) (payload : List Byte) : Instr
  /-- GSP_MEM_WRITE (R396): MEM_WRITE writes Plaza or LPDDR4X bytes, subject to region locks. -/
  | gspMemWrite (p req : Nat) (payload : List Byte) : Instr
  /-- GSP_CONFIG_APPLY (R396): CONFIG_APPLY applies one REG_WRITE record with its complement. -/
  | gspConfigApply (p req : Nat) (payload : List Byte) : Instr
  /-- GSP_CONFIG_READ (R396): `flashOk`: the flash answers the command's reads. -/
  | gspConfigRead (p req : Nat) (payload : List Byte) (flashOk : Bool) : Instr
  /-- GSP_FLASH_READ (R396): `flashOk`: the flash answers the command's reads. -/
  | gspFlashRead (p req : Nat) (payload : List Byte) (flashOk : Bool) : Instr
  /-- GSP_FLASH_ERASE (R396): FLASH_ERASE erases flash sectors outside the persistent area. -/
  | gspFlashErase (p req : Nat) (payload : List Byte) : Instr
  /-- GSP_FLASH_PROGRAM (R396): FLASH_PROGRAM programs bytes within one flash page outside the
    persistent area. -/
  | gspFlashProgram (p req : Nat) (payload : List Byte) : Instr
  /-- FLASH_OPERATION_DONE (R396): a GSP erase or program ends, successfully or not. -/
  | flashOperationDone (ok : Bool) : Instr
  /-- GSP_JOURNAL_READ (R396): `flashOk`: the flash answers the command's reads. -/
  | gspJournalRead (p req : Nat) (payload : List Byte) (flashOk : Bool) : Instr
  /-- GSP_RESTART (R396): RESTART journals, responds and performs a warm reset with cause CMD
    within 1 ms. -/
  | gspRestart (p req : Nat) (payload : List Byte) : Instr
  /-- GSP_OTP_KEY (R396): OTP_KEY writes a key hash into a blank OTP slot. -/
  | gspOtpKey (p req : Nat) (payload : List Byte) : Instr
  /-- GSP_OTP_REVOKE (R396): OTP_REVOKE sets a slot's revocation bit. -/
  | gspOtpRevoke (p req : Nat) (payload : List Byte) : Instr
  /-- GSP_INTAKE_EVENT (R396): INTAKE_EVENT submits an EVENT value through the plausibility and
    rate checks. -/
  | gspIntakeEvent (p req : Nat) (payload : List Byte) : Instr
  /-- GSP_RESULT (R403): RESULT reports the status of an earlier request on this port. -/
  | gspResult (p req : Nat) (payload : List Byte) : Instr
  /-- INTAKE_MIRROR (R391): the intake region, with its next MIRROR_SEQ and its CRC. -/
  | intakeMirror : Instr
  /-- CHANGE_JOURNAL_MIRROR (R401): the first entry not yet mirrored, after the erase and the
    header of its sector where it opens one. -/
  | changeJournalMirror : Instr
  /-- VEHICLE_STATIONARY (R402): the speed signal has read 0 for HOLD_S; held commands execute. -/
  | vehicleStationary : Instr
  /-- CAN_DISABLE (R460): a commit of CANn_CTRL with EN = 0. -/
  | canDisable (c : Nat) : Instr
  /-- SERVICE_PORT_DISABLE (R460): port `p`'s enable bit is cleared by a commit. -/
  | servicePortDisable (p : Nat) : Instr
  /-- BRIDGE_DISABLE (R460): BRG_CTRL.EN is cleared by a commit. -/
  | bridgeDisable : Instr
  /-- BRIDGE_IDLE (R409): a flit that carries only its sideband. -/
  | bridgeIdle (d : Side) : Instr
  /-- BRIDGE_HELLO (R414): A partner HELLO is checked and moves the link to LOAD, UP or REFUSED.
    -/
  | bridgeHello (part role : Nat) (booting : Bool) (build epoch : Nat) : Instr
  /-- BRIDGE_HEART (R414): the partner is there; its power state and tick are not kept. -/
  | bridgeHeart (d : Side) : Instr
  /-- BRIDGE_WRITE (R417): `data` for partner address `addr`. -/
  | bridgeWrite (d : Side) (tag addr : Nat) (data : List Byte) : Instr
  /-- BRIDGE_WACK (R416): A WACK completes a local remote write and renews the stop's Bridge
    token. -/
  | bridgeWack (d : Side) (tag status : Nat) : Instr
  /-- BRIDGE_READ (R417): A remote READ is checked and answered with RDATA. -/
  | bridgeRead (d : Side) (tag addr len : Nat) : Instr
  /-- BRIDGE_RDATA (R419): An RDATA completes a local remote read or fails the stop. -/
  | bridgeRdata (d : Side) (tag status : Nat) (data : List Byte) : Instr
  /-- BRIDGE_SIGNAL (R420): A SIGNAL packet sets an import crossing as a device event, failed when
    FAIL is set. -/
  | bridgeSignal (d : Side) (index flags v : Nat) : Instr
  /-- BRIDGE_RESET_REQ (R431): A RESET_REQ is honoured by a secondary at most once per second, or
    ignored and counted. -/
  | bridgeResetReq (d : Side) (magic : Nat) : Instr
  /-- BRIDGE_IMAGE (R429): An IMAGE packet delivers image bytes to a Bridge-booting secondary. -/
  | bridgeImage (d : Side) (off : Nat) (data : List Byte) : Instr
  /-- BRIDGE_IMAGE_END (R429): IMAGE_END marks the end of the forwarded image. -/
  | bridgeImageEnd (d : Side) (len : Nat) : Instr
  /-- BRIDGE_IMAGE_NAK (R428): IMAGE_NAK makes the primary resend the named section once. -/
  | bridgeImageNak (d : Side) (sectId : Nat) : Instr
  /-- BRIDGE_IMAGE_DONE (R425): IMAGE_DONE reports the secondary's load result to the primary. -/
  | bridgeImageDone (d : Side) (status : Nat) : Instr
  /-- BRIDGE_NAK (R410): a flit with NAK set, whose ACK names the last flit accepted. -/
  | bridgeNak (d : Side) : Instr
  /-- BRIDGE_REPLAY_TIMEOUT (R410): 4 µs pass without ACK progress; the sender replays, and enters
    RETRAIN after 8 episodes. -/
  | bridgeReplayTimeout : Instr
  /-- BRIDGE_HELLO_SEND (R413): Every 10 µs in HELLO, or every 1 s in REFUSED, a HELLO is sent. -/
  | bridgeHelloSend : Instr
  /-- BRIDGE_HEART_SEND (R414): Every 10 µs in UP, LOAD or RETRAIN, a HEART is sent unsequenced.
    -/
  | bridgeHeartSend : Instr
  /-- BRIDGE_TRAIN_DONE (R413): block lock and deskew are complete, on two lanes or on one. -/
  | bridgeTrainDone (two : Bool) : Instr
  /-- BRIDGE_TRAIN_TIMEOUT (R413): the link trains again. -/
  | bridgeTrainTimeout : Instr
  /-- BRIDGE_LANE_LOCK_LOSS (R413): lane `n` loses block lock. -/
  | bridgeLaneLockLoss (n : Nat) : Instr
  /-- BRIDGE_RETRAIN_DONE (R415): lanes 0 and 1 have block lock again, or not; a lane that does
    not is dropped. -/
  | bridgeRetrainDone (lane0 lane1 : Bool) : Instr
  /-- BRIDGE_PARTNER_TIMEOUT (R414): 100 µs have passed without a valid HEART or HELLO. -/
  | bridgePartnerTimeout : Instr
  /-- BRIDGE_TOKEN_EXPIRE (R419): the Bridge token of open-stop slot `i` expires. -/
  | bridgeTokenExpire (i : Nat) : Instr
  /-- BRIDGE_WAIT_EXPIRE (R425): the primary's wait for its partner is over. -/
  | bridgeWaitExpire : Instr
  /-- FOLLOW_RESET_TIMER (R427): 100 ms after a secondary has declared its primary absent. -/
  | followResetTimer : Instr
  /-- IMAGE_RESEND_TIMEOUT (R429): the second copy of section `i` has not come within 1 s. -/
  | imageResendTimeout (i : Nat) : Instr
  /-- RESET_PARTNER (R431): 0x52 is written to BRG_CMD. -/
  | resetPartner : Instr
  /-- FAULT_MESSAGE (R443): a unit's message reaches the reclaimer. A fault of the unit itself has
    it recovered. -/
  | faultMessage (m : FaultMsg) : Instr
  /-- UNIT_HEARTBEAT (R447): unit `u` renews its records. -/
  | unitHeartbeat (u : Nat) : Instr
  /-- UNIT_LEASE_EXPIRE (R447): record `n`, which a unit owns, expires. -/
  | unitLeaseExpire (n : Nat) : Instr
  /-- RECOVERY_NEXT (R451): step 2 and the start of step 3 for the next pending recovery. -/
  | recoveryNext : Instr
  /-- RECOVERY_WITHDRAW_DONE (R451): steps 3 to 5 end, and step 6 starts unless this is the unit's
    third recovery within 1 s. -/
  | recoveryWithdrawDone : Instr
  /-- UNIT_CHECK_DONE (R456): `reachable`: the unit's agent answers; `ok`: its check passed. -/
  | unitCheckDone (reachable ok : Bool) : Instr
  /-- RECLAIMER_DIVERGENCE (R449): the two cores disagree. -/
  | reclaimerDivergence : Instr
  /-- DETOUR_HOLD_RELEASE (R458): no detoured packet remains on its old path. -/
  | detourHoldRelease : Instr
  /-- FAULT_INJECT (R451): `v` is written to RCL_INJECT. -/
  | faultInject (v : Nat) : Instr
  /-- RWP_VALUE_WRITE (R17): `size` bytes `v` are written to the value word of a complement pair.
    -/
  | rwpValueWrite (addr size v : Nat) : Instr
  /-- RWP_COMPLEMENT_WRITE (R17): the complement word of a pair is written. -/
  | rwpComplementWrite (addr size v : Nat) : Instr
  /-- RWP_WORD_READ (R19): a word of a complement pair is read. -/
  | rwpWordRead (addr size : Nat) : Instr
  /-- REGISTER_WRITE (R16): a register that is no complement pair is written. -/
  | registerWrite (addr size v : Nat) : Instr
  /-- CSI_PHY_ERROR (R212): a D-PHY error on the camera's lanes (R212). -/
  | csiPhyError : Instr
  /-- SWEEP_FORCE_EXPIRE (R250): a held step of array `p` is forced, for its next pass boundary.
    -/
  | sweepForceExpire (p : Nat) : Instr
  /-- HV_FRAME_MISMATCH (R351): a receiver of either side discards a frame. -/
  | hvFrameMismatch : Instr
  /-- CAN_ERROR_PASSIVE (R378): the error counters `tec` and `rec` cross the error-passive limit.
    -/
  | canErrorPassive (c tec rec : Nat) : Instr
  /-- UART_MESSAGE_DISCARD (R393): A message on the service UART fails its CRC, VER or LEN check,
    or a byte's stop bit reads low; it is discarded without a response, counted, and the
    receiver hunts for the next 0xA5 0x5A. -/
  | uartMessageDiscard : Instr
  /-- GSP_BAD_CMD (R393): a message whose CMD Table 13-9 does not name. -/
  | gspBadCmd (p cmd req : Nat) (payload : List Byte) : Instr
  /-- BRIDGE_FLIT_DISCARD (R410): a flit fails its CRC, its reserved bits or its SEQ. -/
  | bridgeFlitDiscard : Instr
  /-- BRIDGE_MALFORMED_PACKET (R409): of type `typ` in `flits` flits; `sequenced`: they carry a
    SEQ. -/
  | bridgeMalformedPacket (d : Side) (sequenced : Bool) (flits typ tag : Nat) : Instr
  /-- MIRROR_OPERATION_DONE (R401): an erase or program of a mirror ends, successfully or not. -/
  | mirrorOperationDone (ok : Bool) : Instr
  /-- PIN_LEVEL_REACHED (R97): the pin thread `t` watches has the level it waits for. -/
  | pinLevelReached (t : Nat) : Instr
  /-- I2C_EXPECT_RETRY_INTERVAL (R98): thread `t` reads again; it waits while the controller is in
    use. -/
  | i2cExpectRetryInterval (t : Nat) : Instr
  /-- SCRIPT_WAIT_ELAPSED (R97): The time of a script WAIT operation runs out, and the script
    proceeds to its next operation. -/
  | scriptWaitElapsed (t : Nat) : Instr
  /-- DSI_LP_PACKET_SENT (R348): output `x`'s low-power packet has been sent. -/
  | dsiLpPacketSent (x : Nat) : Instr
  deriving DecidableEq, Repr

end Sys2Proof
end

