-- ==== Sys2Proof/Decode.lean ====
section
/-! DEFINITION. Reading a command from a word of bits. The AE480 has no encoding of its
commands: every row of the opcode table gives no bits (its fields are empty), so no word
spells a command. -/

namespace Sys2Proof

/-- The command that a word spells by the opcode table's bits: none, for the table gives no
row any bits. -/
def decodeTableWord (_nbits _w : Nat) : Option Instr := none

end Sys2Proof
end

