-- ==== Sys2Proof/Config.lean ====
section
/-! DEFINITION. What an implementation fixes and the free values of the model. Every free
value is an opaque function of a counter that the state holds (`State.free`): nothing can
evaluate it, so a statement about it holds whatever it is. -/

namespace Sys2Proof

/-- The entropy source's draw number `n`: the EPOCH of R63 (assumption 10). -/
opaque Config.entropy : Nat → BitVec 64

/-- Free value number `n`: a 64-bit value the spec leaves open, drawn in order (assumption
11). -/
opaque Config.freeValue : Nat → BitVec 64

/-- Byte `k` of a BLEND's output outside its source image, which the spec does not state: a function
of the descriptor and the input bytes, on which alone it may depend (R214; DESIGN CHOICE, assumption 138). -/
opaque Config.blendBeyond : List (BitVec 8) → Nat → BitVec 8

/-- Byte `off` of range `i` of a stop beyond the range's length, which the spec does not state
(DESIGN CHOICE, assumption 138). -/
opaque Config.beyondRange : Nat → Nat → BitVec 8

end Sys2Proof
end

