-- ==== Sys2Proof/Machine/RegMap.lean ====
section
/-! DEFINITION. The register map: one row per register (or register array) of the spec's
register tables (chapters 02 to 08, 10 to 14 and 16), with its physical address, its array
strides, its reset word, the masks of its bits by access code, and its fields by name. The
names are the manual's; the index letter of an array is left out of the name. -/

namespace Sys2Proof.Machine

/-- One register, or one array of registers of up to two dimensions, of the map. -/
structure Reg where
  /-- Physical address of the (first) register. -/
  addr : Nat
  /-- Number of elements and stride of the first index. -/
  n1 : Nat
  s1 : Nat
  /-- Number of elements and stride of the second index. -/
  n2 : Nat
  s2 : Nat
  /-- Complement pair (R17): the complement word lies at the address plus 4. -/
  rwp : Bool
  /-- Word at reset; 0 for a register whose table states no reset value. -/
  reset : Nat
  /-- Bits a write sets (access RW or RWP). -/
  rw : Nat
  /-- Bits a write of 1 clears (access W1C). -/
  w1c : Nat
  /-- Bits that only trigger an action (access WO). -/
  wo : Nat
  deriving DecidableEq, Repr

/-- One field of a register: its bits `[hi:lo]`. -/
structure Field where
  reg : Reg
  hi : Nat
  lo : Nat
  deriving DecidableEq, Repr

/-- Address of element `i` (and `j`) of a register array; an index is taken modulo the number
of elements, so that no access leaves the array. -/
def Reg.at (r : Reg) (i : Nat) (j : Nat) : Nat :=
  r.addr + r.s1 * (i % r.n1) + r.s2 * (j % r.n2)

/-- Width of a field in bits. -/
def Field.width (f : Field) : Nat := f.hi + 1 - f.lo

/-- Largest value a field can hold. -/
def Field.max (f : Field) : Nat := 2 ^ f.width - 1

namespace R


/-! SYS block, Tables 02-14, 02-15. -/

def SYS_ID : Reg := ⟨0xF0000000, 1, 0x0, 1, 0x0, false, 0x4802010, 0x0, 0x0, 0x0⟩
def SYS_STATE : Reg := ⟨0xF0000004, 1, 0x0, 1, 0x0, false, 0x3, 0x0, 0x0, 0x0⟩
def SYS_RESET_CAUSE : Reg := ⟨0xF0000008, 1, 0x0, 1, 0x0, false, 0x0, 0x0, 0x0, 0x0⟩
def SYS_RESET_CTRL : Reg := ⟨0xF000000C, 1, 0x0, 1, 0x0, false, 0x0, 0x0, 0x0, 0xFF⟩
def SYS_PWR_REQ : Reg := ⟨0xF0000010, 1, 0x0, 1, 0x0, true, 0x1400, 0xFF03, 0x0, 0x0⟩
def SYS_GATE_CTRL : Reg := ⟨0xF0000018, 1, 0x0, 1, 0x0, false, 0x10032, 0x10FFF, 0x0, 0x0⟩
def SYS_GATE_STATUS : Reg := ⟨0xF000001C, 1, 0x0, 1, 0x0, false, 0x0, 0x0, 0x0, 0x0⟩
def SYS_PLL_STATUS : Reg := ⟨0xF0000020, 1, 0x0, 1, 0x0, false, 0x1, 0x0, 0x0, 0x0⟩
def SYS_PLL_EVENT : Reg := ⟨0xF0000024, 1, 0x0, 1, 0x0, false, 0x0, 0x0, 0x1FF, 0x0⟩
def SYS_THERM_CTRL : Reg := ⟨0xF0000028, 1, 0x0, 1, 0x0, true, 0x57E766E, 0xFFFFFFFF, 0x0, 0x0⟩
def SYS_THERM_STATUS : Reg := ⟨0xF0000030, 1, 0x0, 1, 0x0, false, 0x0, 0x0, 0x0, 0x0⟩
def SYS_THERM_EVENT : Reg := ⟨0xF0000034, 1, 0x0, 1, 0x0, false, 0x0, 0x0, 0xF, 0x0⟩
def SYS_TEMP : Reg := ⟨0xF0000040, 12, 0x4, 1, 0x0, false, 0x0, 0x0, 0x0, 0x0⟩

/-! LAMP block, Tables 02-16, 02-17. -/

def LAMP_TICK_LO : Reg := ⟨0xF0010000, 1, 0x0, 1, 0x0, false, 0x0, 0x0, 0x0, 0x0⟩
def LAMP_TICK_HI : Reg := ⟨0xF0010004, 1, 0x0, 1, 0x0, false, 0x0, 0x0, 0x0, 0x0⟩
def LAMP_CLK_STATUS : Reg := ⟨0xF0010008, 1, 0x0, 1, 0x0, false, 0x2, 0x0, 0x0, 0x0⟩
def LAMP_CLK_EVENT : Reg := ⟨0xF001000C, 1, 0x0, 1, 0x0, false, 0x0, 0x0, 0x3, 0x0⟩
def LAMP_WAKE_EN : Reg := ⟨0xF0010010, 1, 0x0, 1, 0x0, true, 0x7, 0xF, 0x0, 0x0⟩
def LAMP_WAKE_FILT : Reg := ⟨0xF0010018, 1, 0x0, 1, 0x0, false, 0x10210, 0xFFFFFF, 0x0, 0x0⟩
def LAMP_WAKE_CAUSE : Reg := ⟨0xF001001C, 1, 0x0, 1, 0x0, false, 0x0, 0x0, 0x0, 0x0⟩
def LAMP_TIMER_ALARM : Reg := ⟨0xF0010020, 1, 0x0, 1, 0x0, false, 0x0, 0xFFFFFFFF, 0x0, 0x0⟩
def LAMP_PARK_POLICY : Reg := ⟨0xF0010024, 1, 0x0, 1, 0x0, true, 0x2580201, 0xFFFFFF01, 0x0, 0x0⟩
def LAMP_RESET_CAUSE : Reg := ⟨0xF001002C, 1, 0x0, 1, 0x0, false, 0x1, 0x0, 0x3FF, 0x0⟩
def LAMP_RET_STATUS : Reg := ⟨0xF0010030, 1, 0x0, 1, 0x0, false, 0x0, 0x0, 0x0, 0x0⟩
def LAMP_PMIC_CTRL : Reg := ⟨0xF0010034, 1, 0x0, 1, 0x0, false, 0x32, 0xFFFF, 0x0, 0x0⟩
def LAMP_VHV_STATUS : Reg := ⟨0xF0010038, 1, 0x0, 1, 0x0, false, 0x0, 0x0, 0x0, 0x0⟩
def LAMP_WAKE_COUNT : Reg := ⟨0xF001003C, 1, 0x0, 1, 0x0, false, 0x0, 0x0, 0x0, 0x0⟩

/-! BOOT block, Tables 03-19, 03-20. -/

def BOOT_STATUS : Reg := ⟨0xF0020000, 1, 0x0, 1, 0x0, false, 0x0, 0x0, 0x0, 0x0⟩
def BOOT_ERROR : Reg := ⟨0xF0020004, 1, 0x0, 1, 0x0, false, 0x0, 0x0, 0x0, 0x0⟩
def BOOT_PROFILE : Reg := ⟨0xF0020008, 1, 0x0, 1, 0x0, false, 0x0, 0x0, 0x0, 0x0⟩
def BOOT_REJECT : Reg := ⟨0xF002000C, 7, 0x4, 1, 0x0, false, 0x0, 0x0, 0x0, 0x0⟩
def BOOT_TIME_SPLASH : Reg := ⟨0xF0020030, 1, 0x0, 1, 0x0, false, 0x0, 0x0, 0x0, 0x0⟩
def BOOT_TIME_HANDOVER : Reg := ⟨0xF0020034, 1, 0x0, 1, 0x0, false, 0x0, 0x0, 0x0, 0x0⟩
def BOOT_BUILD_LO : Reg := ⟨0xF0020038, 1, 0x0, 1, 0x0, false, 0x0, 0x0, 0x0, 0x0⟩
def BOOT_BUILD_HI : Reg := ⟨0xF002003C, 1, 0x0, 1, 0x0, false, 0x0, 0x0, 0x0, 0x0⟩
def BOOT_IMAGE_OFFSET : Reg := ⟨0xF0020040, 1, 0x0, 1, 0x0, false, 0x0, 0x0, 0x0, 0x0⟩
def BOOT_SPLASH_HOLD : Reg := ⟨0xF0020044, 1, 0x0, 1, 0x0, false, 0x0, 0x0, 0x0, 0x0⟩
def BOOT_REPAIR_CTRL : Reg := ⟨0xF0020048, 1, 0x0, 1, 0x0, true, 0x1, 0x1, 0x0, 0x0⟩
def BOOT_REPAIR_COUNT : Reg := ⟨0xF0020050, 1, 0x0, 1, 0x0, false, 0x0, 0x0, 0x0, 0x0⟩
def BOOT_REPAIR_EVENT : Reg := ⟨0xF0020054, 1, 0x0, 1, 0x0, false, 0x0, 0x0, 0x3, 0x0⟩
def BOOT_SCRIPT_STATUS : Reg := ⟨0xF0020058, 1, 0x0, 1, 0x0, false, 0x0, 0x0, 0x0, 0x0⟩
def BOOT_OTP_KEY : Reg := ⟨0xF0020100, 32, 0x4, 1, 0x0, false, 0x0, 0x0, 0x0, 0x0⟩
def BOOT_OTP_STATE : Reg := ⟨0xF0020180, 1, 0x0, 1, 0x0, false, 0x0, 0x0, 0x0, 0x0⟩
def BOOT_OTP_ALT : Reg := ⟨0xF0020184, 1, 0x0, 1, 0x0, false, 0x0, 0x0, 0x0, 0x0⟩

/-! AVE block, Tables 04-12, 04-13. -/

def AVE_PLZ_STATUS : Reg := ⟨0xF0030000, 1, 0x0, 1, 0x0, false, 0x0, 0x0, 0x0, 0x0⟩
def AVE_PLZ_ERR_COUNT : Reg := ⟨0xF0030004, 1, 0x0, 1, 0x0, false, 0x0, 0x0, 0x0, 0x0⟩
def AVE_PLZ_UE_ADDR : Reg := ⟨0xF0030008, 1, 0x0, 1, 0x0, false, 0x0, 0x0, 0x0, 0x0⟩
def AVE_EVENT : Reg := ⟨0xF003000C, 1, 0x0, 1, 0x0, false, 0x0, 0x0, 0x1FF, 0x0⟩
def AVE_SCRUB_CTRL : Reg := ⟨0xF0030010, 1, 0x0, 1, 0x0, true, 0x10040, 0x1FFFF, 0x0, 0x0⟩
def AVE_FS_SIZE : Reg := ⟨0xF0030018, 1, 0x0, 1, 0x0, false, 0x1000000, 0x0, 0x0, 0x0⟩
def AVE_BLUE_CAP : Reg := ⟨0xF003001C, 1, 0x0, 1, 0x0, true, 0x14, 0x1F, 0x0, 0x0⟩
def AVE_WRR : Reg := ⟨0xF0030024, 1, 0x0, 1, 0x0, false, 0x13, 0xFF, 0x0, 0x0⟩
def AVE_LINK_FAIL : Reg := ⟨0xF0030028, 1, 0x0, 1, 0x0, false, 0x0, 0x0, 0x0, 0x0⟩
def AVE_REPLAY_COUNT : Reg := ⟨0xF003002C, 1, 0x0, 1, 0x0, false, 0x0, 0x0, 0x0, 0x0⟩
def AVE_GATE_LO : Reg := ⟨0xF0030030, 1, 0x0, 1, 0x0, false, 0x0, 0x0, 0x0, 0x0⟩
def AVE_GATE_HI : Reg := ⟨0xF0030034, 1, 0x0, 1, 0x0, false, 0x0, 0x0, 0x0, 0x0⟩
def AVE_POISON_CLR : Reg := ⟨0xF0030038, 1, 0x0, 1, 0x0, false, 0x0, 0x0, 0x0, 0x80FFFFFF⟩
def AVE_POISON_COUNT : Reg := ⟨0xF003003C, 1, 0x0, 1, 0x0, false, 0x0, 0x0, 0x0, 0x0⟩
def AVE_REGION_LO : Reg := ⟨0xF0030100, 64, 0x8, 1, 0x0, false, 0x0, 0x0, 0x0, 0x0⟩
def AVE_REGION_HI : Reg := ⟨0xF0030104, 64, 0x8, 1, 0x0, false, 0x0, 0x0, 0x0, 0x0⟩

/-! XLT block, Tables 04-14, 04-15. -/

def XLT_STATUS : Reg := ⟨0xF0040000, 1, 0x0, 1, 0x0, false, 0x0, 0x0, 0x0, 0x0⟩
def XLT_POOL_BASE : Reg := ⟨0xF0040004, 1, 0x0, 1, 0x0, false, 0x250, 0x3FF, 0x0, 0x0⟩
def XLT_POOL_SIZE : Reg := ⟨0xF0040008, 1, 0x0, 1, 0x0, false, 0x10, 0x7F, 0x0, 0x0⟩
def XLT_INVAL : Reg := ⟨0xF004000C, 1, 0x0, 1, 0x0, false, 0x0, 0x0, 0x0, 0xFFFE⟩
def XLT_INVAL_PEND : Reg := ⟨0xF0040010, 1, 0x0, 1, 0x0, false, 0x0, 0x0, 0x0, 0x0⟩
def XLT_EVENT : Reg := ⟨0xF0040014, 1, 0x0, 1, 0x0, false, 0x0, 0x0, 0xF, 0x0⟩
def XLT_FAULT_VA_LO : Reg := ⟨0xF0040018, 1, 0x0, 1, 0x0, false, 0x0, 0x0, 0x0, 0x0⟩
def XLT_FAULT_VA_HI : Reg := ⟨0xF004001C, 1, 0x0, 1, 0x0, false, 0x0, 0x0, 0x0, 0x0⟩
def XLT_FAULT_INFO : Reg := ⟨0xF0040020, 1, 0x0, 1, 0x0, false, 0x0, 0x0, 0x0, 0x0⟩
def XLT_ROOT_LO : Reg := ⟨0xF0040040, 16, 0x8, 1, 0x0, false, 0x0, 0xFFFFF000, 0x0, 0x0⟩
def XLT_ROOT_HI : Reg := ⟨0xF0040044, 16, 0x8, 1, 0x0, false, 0x0, 0x10F, 0x0, 0x0⟩
def XLT_GEN : Reg := ⟨0xF00400C0, 16, 0x4, 1, 0x0, false, 0x0, 0x0, 0x0, 0x0⟩

/-! WRD block, Tables 05-15, 05-16. -/

def WRD_STATUS : Reg := ⟨0xF0050000, 1, 0x0, 1, 0x0, false, 0x3, 0x0, 0x0, 0x0⟩
def WRD_EVENT : Reg := ⟨0xF0050004, 1, 0x0, 1, 0x0, false, 0x0, 0x0, 0x7F, 0x0⟩
def WRD_STOP_LIMIT : Reg := ⟨0xF0050008, 1, 0x0, 1, 0x0, false, 0xC350, 0xFFFFF, 0x0, 0x0⟩
def WRD_LEASE_TERM : Reg := ⟨0xF005000C, 1, 0x0, 1, 0x0, false, 0x61A8, 0xFFFFFF, 0x0, 0x0⟩
def WRD_COMP_CFG : Reg := ⟨0xF0050010, 1, 0x0, 1, 0x0, false, 0x0, 0x0, 0x0, 0x0⟩
def WRD_COMP_LAT_MAX : Reg := ⟨0xF0050014, 1, 0x0, 1, 0x0, false, 0x0, 0x0, 0x0, 0x0⟩
def WRD_GRAN_MAX : Reg := ⟨0xF0050018, 1, 0x0, 1, 0x0, false, 0x0, 0x0, 0x0, 0x0⟩
def WRD_FAIL_COUNT : Reg := ⟨0xF005001C, 1, 0x0, 1, 0x0, false, 0x0, 0x0, 0x0, 0x0⟩
def WRD_RCLASS_KIND : Reg := ⟨0xF0050100, 16, 0x8, 1, 0x0, false, 0x0, 0x0, 0x0, 0x0⟩
def WRD_RCLASS_MASK : Reg := ⟨0xF0050104, 16, 0x8, 1, 0x0, false, 0x0, 0x0, 0x0, 0x0⟩
def WRD_Q_CFG : Reg := ⟨0xF0050200, 16, 0x10, 1, 0x0, true, 0x0, 0xFF7F03, 0x0, 0x0⟩
def WRD_Q_STATE : Reg := ⟨0xF0050208, 16, 0x10, 1, 0x0, false, 0x0, 0x0, 0x0, 0x0⟩
def WRD_Q_CTRL : Reg := ⟨0xF005020C, 16, 0x10, 1, 0x0, false, 0x0, 0x0, 0x0, 0xFF⟩
def WRD_Q_ITER : Reg := ⟨0xF0050300, 16, 0x8, 1, 0x0, false, 0x0, 0x0, 0x0, 0x0⟩
def WRD_Q_LASTFAIL : Reg := ⟨0xF0050304, 16, 0x8, 1, 0x0, false, 0x0, 0x0, 0x0, 0x0⟩

/-! XNG block, Tables 05-17, 05-18. -/

def XNG_STATUS : Reg := ⟨0xF0060000, 1, 0x0, 1, 0x0, false, 0x0, 0x0, 0x0, 0x0⟩
def XNG_EVENT : Reg := ⟨0xF0060004, 1, 0x0, 1, 0x0, false, 0x0, 0x0, 0x1F, 0x0⟩
def XNG_MISMATCH_IDX : Reg := ⟨0xF0060008, 1, 0x0, 1, 0x0, false, 0x0, 0x0, 0x0, 0x0⟩
def XNG_SET_VAL : Reg := ⟨0xF006000C, 1, 0x0, 1, 0x0, false, 0x0, 0xFFFFFFFF, 0x0, 0x0⟩
def XNG_SET_CMD : Reg := ⟨0xF0060010, 1, 0x0, 1, 0x0, true, 0x0, 0x3FF, 0x0, 0x0⟩
def XNG_INSPECT_IDX : Reg := ⟨0xF0060018, 1, 0x0, 1, 0x0, false, 0x0, 0x3FF, 0x0, 0x0⟩
def XNG_INSPECT_LO : Reg := ⟨0xF006001C, 1, 0x0, 1, 0x0, false, 0x0, 0x0, 0x0, 0x0⟩
def XNG_INSPECT_HI : Reg := ⟨0xF0060020, 1, 0x0, 1, 0x0, false, 0x0, 0x0, 0x0, 0x0⟩
def XNG_INSPECT_FLAGS : Reg := ⟨0xF0060024, 1, 0x0, 1, 0x0, false, 0x0, 0x0, 0x0, 0x0⟩
def XNG_MODE : Reg := ⟨0xF0060100, 32, 0x4, 1, 0x0, false, 0x0, 0x0, 0x0, 0x0⟩
def XNG_PERSIST : Reg := ⟨0xF0060180, 32, 0x4, 1, 0x0, false, 0x0, 0x0, 0x0, 0x0⟩
def XNG_VAL : Reg := ⟨0xF0062000, 1024, 0x4, 1, 0x0, false, 0x0, 0x0, 0x0, 0x0⟩
def XNG_VALC : Reg := ⟨0xF0063000, 1024, 0x4, 1, 0x0, false, 0x0, 0x0, 0x0, 0x0⟩

/-! DST block, Tables 08-15, 08-16. -/

def DST_STATUS : Reg := ⟨0xF0100000, 8, 0x10000, 1, 0x0, false, 0x0, 0x0, 0x0, 0x0⟩
def DST_EVENT : Reg := ⟨0xF0100004, 8, 0x10000, 1, 0x0, false, 0x0, 0x0, 0x7FF, 0x0⟩
def DST_CAL_CTRL : Reg := ⟨0xF0100008, 8, 0x10000, 1, 0x0, true, 0xC32080A, 0xFFFFFFFF, 0x0, 0x0⟩
def DST_SWEEP_CTRL : Reg := ⟨0xF0100010, 8, 0x10000, 1, 0x0, true, 0xA, 0xFF, 0x0, 0x0⟩
def DST_RETIRE_CTRL : Reg := ⟨0xF0100018, 8, 0x10000, 1, 0x0, true, 0x1, 0x1, 0x0, 0x0⟩
def DST_ARR_SEL : Reg := ⟨0xF0100020, 8, 0x10000, 1, 0x0, false, 0x0, 0x1F, 0x0, 0x0⟩
def DST_ARR_INFO : Reg := ⟨0xF0100024, 8, 0x10000, 1, 0x0, false, 0x0, 0x0, 0x0, 0x0⟩
def DST_ARR_COL : Reg := ⟨0xF0100028, 8, 0x10000, 1, 0x0, false, 0x0, 0x0, 0x0, 0x0⟩
def DST_ARR_TAG0 : Reg := ⟨0xF010002C, 8, 0x10000, 1, 0x0, false, 0x0, 0x0, 0x0, 0x0⟩
def DST_ARR_TAG1 : Reg := ⟨0xF0100030, 8, 0x10000, 1, 0x0, false, 0x0, 0x0, 0x0, 0x0⟩
def DST_CAL_COUNT : Reg := ⟨0xF0100034, 8, 0x10000, 1, 0x0, false, 0x0, 0x0, 0x0, 0x0⟩
def DST_CHECK_COUNT : Reg := ⟨0xF0100038, 8, 0x10000, 1, 0x0, false, 0x0, 0x0, 0x0, 0x0⟩
def DST_PASS_COUNT : Reg := ⟨0xF010003C, 8, 0x10000, 1, 0x0, false, 0x0, 0x0, 0x0, 0x0⟩
def DST_WAIT_MAX : Reg := ⟨0xF0100040, 8, 0x10000, 1, 0x0, false, 0x0, 0x0, 0x0, 0x0⟩
def DST_RING : Reg := ⟨0xF0100044, 8, 0x10000, 1, 0x0, false, 0x0, 0x0, 0x0, 0x0⟩

/-! TILE block, Tables 07-18. -/

def TILE_STATUS : Reg := ⟨0xF0200000, 1, 0x0, 1, 0x0, false, 0x0, 0x0, 0x0, 0x0⟩
def TILE_EVENT : Reg := ⟨0xF0200004, 1, 0x0, 1, 0x0, false, 0x0, 0x0, 0x7, 0x0⟩
def TILE_SAVE_BASE : Reg := ⟨0xF0200008, 1, 0x0, 1, 0x0, true, 0x0, 0x3FF, 0x0, 0x0⟩
def TILE_PREEMPT_COUNT : Reg := ⟨0xF0200010, 1, 0x0, 1, 0x0, false, 0x0, 0x0, 0x0, 0x0⟩
def TILE_PREEMPT_MAX : Reg := ⟨0xF0200014, 1, 0x0, 1, 0x0, false, 0x0, 0x0, 0x0, 0x0⟩
def TILE_ERR_COUNT : Reg := ⟨0xF0200018, 1, 0x0, 1, 0x0, false, 0x0, 0x0, 0x0, 0x0⟩
def TILE_CORE : Reg := ⟨0xF0200040, 16, 0x4, 1, 0x0, false, 0x0, 0x0, 0x0, 0x0⟩

/-! RAS block, Tables 07-19. -/

def RAS_STATUS : Reg := ⟨0xF0210000, 1, 0x0, 1, 0x0, false, 0x0, 0x0, 0x0, 0x0⟩
def RAS_EVENT : Reg := ⟨0xF0210004, 1, 0x0, 1, 0x0, false, 0x0, 0x0, 0x7, 0x0⟩
def RAS_LOT_BASE : Reg := ⟨0xF0210008, 1, 0x0, 1, 0x0, true, 0x0, 0x3FF, 0x0, 0x0⟩
def RAS_LOT_SIZE : Reg := ⟨0xF0210010, 1, 0x0, 1, 0x0, false, 0x0, 0x0, 0x0, 0x0⟩
def RAS_LOT_PEAK : Reg := ⟨0xF0210014, 1, 0x0, 1, 0x0, false, 0x0, 0x0, 0x0, 0x0⟩
def RAS_LOT_LAST : Reg := ⟨0xF0210018, 1, 0x0, 1, 0x0, false, 0x0, 0x0, 0x0, 0x0⟩
def RAS_DROP_COUNT : Reg := ⟨0xF021001C, 1, 0x0, 1, 0x0, false, 0x0, 0x0, 0x0, 0x0⟩
def RAS_LAST_DROP : Reg := ⟨0xF0210020, 1, 0x0, 1, 0x0, false, 0x0, 0x0, 0x0, 0x0⟩
def RAS_GUARD_COUNT : Reg := ⟨0xF0210024, 1, 0x0, 1, 0x0, false, 0x0, 0x0, 0x0, 0x0⟩
def RAS_BAD_DRAW : Reg := ⟨0xF0210028, 1, 0x0, 1, 0x0, false, 0x0, 0x0, 0x0, 0x0⟩
def RAS_PASS_COUNT : Reg := ⟨0xF021002C, 1, 0x0, 1, 0x0, false, 0x0, 0x0, 0x0, 0x0⟩

/-! VIS block, Tables 06-15. -/

def VIS_STATUS : Reg := ⟨0xF0300000, 1, 0x0, 1, 0x0, false, 0x0, 0x0, 0x0, 0x0⟩
def VIS_EVENT : Reg := ⟨0xF0300004, 1, 0x0, 1, 0x0, false, 0x0, 0x0, 0x7, 0x0⟩
def VIS_FOOT_TILE : Reg := ⟨0xF0300008, 1, 0x0, 1, 0x0, false, 0x0, 0x0, 0x0, 0x0⟩
def VIS_DONE : Reg := ⟨0xF0300010, 4, 0x4, 1, 0x0, false, 0x0, 0x0, 0x0, 0x0⟩
def VIS_LAST_US : Reg := ⟨0xF0300020, 4, 0x4, 1, 0x0, false, 0x0, 0x0, 0x0, 0x0⟩

/-! CAM block, Tables 06-13, 06-14. -/

def CAM_CTRL : Reg := ⟨0xF0310000, 1, 0x0, 1, 0x0, true, 0x2104, 0x3FFF7FF, 0x0, 0x0⟩
def CAM_WINDOW : Reg := ⟨0xF0310008, 1, 0x0, 1, 0x0, true, 0x0, 0xFFF0FFF, 0x0, 0x0⟩
def CAM_RING_BASE : Reg := ⟨0xF0310010, 1, 0x0, 1, 0x0, false, 0x0, 0x3FFFFFFF, 0x0, 0x0⟩
def CAM_PITCH : Reg := ⟨0xF0310014, 1, 0x0, 1, 0x0, false, 0x0, 0xFFFF, 0x0, 0x0⟩
def CAM_SLOT_SIZE : Reg := ⟨0xF0310018, 1, 0x0, 1, 0x0, false, 0x0, 0xFFFFFFF, 0x0, 0x0⟩
def CAM_REC_BASE : Reg := ⟨0xF031001C, 1, 0x0, 1, 0x0, false, 0x0, 0x3FFFFFFF, 0x0, 0x0⟩
def CAM_MIN_PERIOD : Reg := ⟨0xF0310020, 1, 0x0, 1, 0x0, false, 0x3A98, 0xFFFFF, 0x0, 0x0⟩
def CAM_FRAME_TIMEOUT : Reg := ⟨0xF0310024, 1, 0x0, 1, 0x0, false, 0x64, 0xFFFF, 0x0, 0x0⟩
def CAM_STALE : Reg := ⟨0xF0310028, 1, 0x0, 1, 0x0, false, 0xC8, 0xFFFF, 0x0, 0x0⟩
def CAM_FREEZE : Reg := ⟨0xF031002C, 1, 0x0, 1, 0x0, false, 0xF, 0xFF, 0x0, 0x0⟩
def CAM_LANE : Reg := ⟨0xF0310030, 1, 0x0, 1, 0x0, false, 0xE4, 0xFFF, 0x0, 0x0⟩
def CAM_PHY_CFG : Reg := ⟨0xF0310034, 1, 0x0, 1, 0x0, false, 0x19C4, 0x1FFF, 0x0, 0x0⟩
def CAM_STATUS : Reg := ⟨0xF0310038, 1, 0x0, 1, 0x0, false, 0x0, 0x0, 0x0, 0x0⟩
def CAM_EVENT : Reg := ⟨0xF031003C, 1, 0x0, 1, 0x0, false, 0x0, 0x0, 0x7FF, 0x0⟩
def CAM_PUBLISHED : Reg := ⟨0xF0310040, 1, 0x0, 1, 0x0, false, 0x0, 0x0, 0x0, 0x0⟩
def CAM_RX_COUNT : Reg := ⟨0xF0310044, 1, 0x0, 1, 0x0, false, 0x0, 0x0, 0x0, 0x0⟩
def CAM_DROP_COUNT : Reg := ⟨0xF0310048, 1, 0x0, 1, 0x0, false, 0x0, 0x0, 0x0, 0x0⟩
def CAM_ERR_COUNT : Reg := ⟨0xF031004C, 1, 0x0, 1, 0x0, false, 0x0, 0x0, 0x0, 0x0⟩
def CAM_BAD_COUNT : Reg := ⟨0xF0310050, 1, 0x0, 1, 0x0, false, 0x0, 0x0, 0x0, 0x0⟩
def CAM_IGNORED_COUNT : Reg := ⟨0xF0310054, 1, 0x0, 1, 0x0, false, 0x0, 0x0, 0x0, 0x0⟩
def CAM_LAST_FRAME_NUM : Reg := ⟨0xF0310058, 1, 0x0, 1, 0x0, false, 0x0, 0x0, 0x0, 0x0⟩

/-! RBT block, Tables 10-9. -/

def RBT_CTRL : Reg := ⟨0xF0400000, 1, 0x0, 1, 0x0, true, 0x100, 0x101, 0x0, 0x0⟩
def RBT_NOGEN : Reg := ⟨0xF0400008, 1, 0x0, 1, 0x0, true, 0x0, 0xFF, 0x0, 0x0⟩
def RBT_STATUS : Reg := ⟨0xF0400010, 1, 0x0, 1, 0x0, false, 0x0, 0x0, 0x0, 0x0⟩
def RBT_EVENT : Reg := ⟨0xF0400014, 1, 0x0, 1, 0x0, false, 0x0, 0x0, 0x1FF, 0x0⟩
def RBT_LOG_BASE_LO : Reg := ⟨0xF0400018, 1, 0x0, 1, 0x0, false, 0x0, 0xFFFF0000, 0x0, 0x0⟩
def RBT_LOG_BASE_HI : Reg := ⟨0xF040001C, 1, 0x0, 1, 0x0, false, 0x0, 0xF, 0x0, 0x0⟩
def RBT_LOG_SIZE : Reg := ⟨0xF0400020, 1, 0x0, 1, 0x0, false, 0x1, 0x7F, 0x0, 0x0⟩
def RBT_LOG_SEQ : Reg := ⟨0xF0400024, 1, 0x0, 1, 0x0, false, 0x0, 0x0, 0x0, 0x0⟩
def RBT_REPLAY_BASE_LO : Reg := ⟨0xF0400028, 1, 0x0, 1, 0x0, false, 0x0, 0xFFFFFFC0, 0x0, 0x0⟩
def RBT_REPLAY_BASE_HI : Reg := ⟨0xF040002C, 1, 0x0, 1, 0x0, false, 0x0, 0xF, 0x0, 0x0⟩
def RBT_REPLAY_LEN : Reg := ⟨0xF0400030, 1, 0x0, 1, 0x0, false, 0x0, 0xFFFFFF, 0x0, 0x0⟩
def RBT_REPLAY_POS : Reg := ⟨0xF0400034, 1, 0x0, 1, 0x0, false, 0x0, 0x0, 0x0, 0x0⟩
def RBT_GATE_BASE_LO : Reg := ⟨0xF0400038, 1, 0x0, 1, 0x0, false, 0x0, 0xFFFFFFC0, 0x0, 0x0⟩
def RBT_GATE_BASE_HI : Reg := ⟨0xF040003C, 1, 0x0, 1, 0x0, false, 0x0, 0xF, 0x0, 0x0⟩
def RBT_GATE_COUNT : Reg := ⟨0xF0400040, 1, 0x0, 1, 0x0, false, 0x0, 0x1F, 0x0, 0x0⟩
def RBT_TRK_CFG : Reg := ⟨0xF0400100, 6, 0x20, 1, 0x0, true, 0x200, 0xF1F, 0x0, 0x0⟩
def RBT_TRK_BASE_LO : Reg := ⟨0xF0400108, 6, 0x20, 1, 0x0, false, 0x0, 0xFFFFF000, 0x0, 0x0⟩
def RBT_TRK_BASE_HI : Reg := ⟨0xF040010C, 6, 0x20, 1, 0x0, false, 0x0, 0xF, 0x0, 0x0⟩
def RBT_TRK_STRIDE : Reg := ⟨0xF0400110, 6, 0x20, 1, 0x0, false, 0x0, 0xFFFFF, 0x0, 0x0⟩
def RBT_TRK_STATE : Reg := ⟨0xF0400114, 6, 0x20, 1, 0x0, false, 0xF, 0x0, 0x0, 0x0⟩
def RBT_TRK_SHOWN_PN : Reg := ⟨0xF0400118, 6, 0x20, 1, 0x0, false, 0x0, 0x0, 0x0, 0x0⟩
def RBT_TRK_MARGIN : Reg := ⟨0xF040011C, 6, 0x20, 1, 0x0, false, 0xFFFFFF, 0x0, 0x0, 0x0⟩
def RBT_CNT_FRESH : Reg := ⟨0xF0400200, 6, 0x10, 1, 0x0, false, 0x0, 0x0, 0x0, 0x0⟩
def RBT_CNT_GEN : Reg := ⟨0xF0400204, 6, 0x10, 1, 0x0, false, 0x0, 0x0, 0x0, 0x0⟩
def RBT_CNT_REPEAT : Reg := ⟨0xF0400208, 6, 0x10, 1, 0x0, false, 0x0, 0x0, 0x0, 0x0⟩
def RBT_CNT_MISS : Reg := ⟨0xF040020C, 6, 0x10, 1, 0x0, false, 0x0, 0x0, 0x0, 0x0⟩
def RBT_GATE_ITER : Reg := ⟨0xF0400300, 16, 0x8, 1, 0x0, false, 0x0, 0x0, 0x0, 0x0⟩
def RBT_GATE_SUBST : Reg := ⟨0xF0400304, 16, 0x8, 1, 0x0, false, 0x0, 0x0, 0x0, 0x0⟩

/-! SCO block, Tables 11-8, 11-9. -/

def SCO_CTRL : Reg := ⟨0xF0410000, 1, 0x0, 1, 0x0, true, 0x0, 0x3, 0x0, 0x0⟩
def SCO_H_TIM : Reg := ⟨0xF0410008, 1, 0x0, 1, 0x0, true, 0x0, 0xFFF0FFF, 0x0, 0x0⟩
def SCO_H_SYNC : Reg := ⟨0xF0410010, 1, 0x0, 1, 0x0, true, 0x0, 0x3FF03FF, 0x0, 0x0⟩
def SCO_V_TIM : Reg := ⟨0xF0410018, 1, 0x0, 1, 0x0, true, 0x0, 0xFFF07FF, 0x0, 0x0⟩
def SCO_V_SYNC : Reg := ⟨0xF0410020, 1, 0x0, 1, 0x0, true, 0x0, 0xFF00FF, 0x0, 0x0⟩
def SCO_PCLK : Reg := ⟨0xF0410028, 1, 0x0, 1, 0x0, true, 0x0, 0x3FFFF, 0x0, 0x0⟩
def SCO_TE : Reg := ⟨0xF0410030, 1, 0x0, 1, 0x0, true, 0x0, 0x3, 0x0, 0x0⟩
def SCO_STATUS : Reg := ⟨0xF0410038, 1, 0x0, 1, 0x0, false, 0x0, 0x0, 0x0, 0x0⟩
def SCO_EVENT : Reg := ⟨0xF041003C, 1, 0x0, 1, 0x0, false, 0x0, 0x0, 0x7F, 0x0⟩
def SCO_FRAME : Reg := ⟨0xF0410040, 1, 0x0, 1, 0x0, false, 0x0, 0x0, 0x0, 0x0⟩
def SCO_UNDERRUN_COUNT : Reg := ⟨0xF0410044, 1, 0x0, 1, 0x0, false, 0x0, 0x0, 0x0, 0x0⟩
def SCO_TE_COUNT : Reg := ⟨0xF0410048, 1, 0x0, 1, 0x0, false, 0x0, 0x0, 0x0, 0x0⟩
def SCO_TE_LAST_SKEW : Reg := ⟨0xF041004C, 1, 0x0, 1, 0x0, false, 0x0, 0x0, 0x0, 0x0⟩
def SCO_FREERUN_COUNT : Reg := ⟨0xF0410050, 1, 0x0, 1, 0x0, false, 0x0, 0x0, 0x0, 0x0⟩
def SCO_OUT_CFG : Reg := ⟨0xF0410100, 2, 0x100, 1, 0x0, true, 0x1E0600, 0x3FFFFF, 0x0, 0x0⟩
def SCO_DPHY : Reg := ⟨0xF0410108, 2, 0x100, 1, 0x0, true, 0x0, 0xFFF, 0x0, 0x0⟩
def SCO_LINES : Reg := ⟨0xF0410110, 2, 0x100, 1, 0x0, true, 0x0, 0xFFF0FFF, 0x0, 0x0⟩
def SCO_BG : Reg := ⟨0xF0410118, 2, 0x100, 1, 0x0, true, 0x0, 0xFFFFFF, 0x0, 0x0⟩
def SCO_UNDERRUN_COLOUR : Reg := ⟨0xF0410120, 2, 0x100, 1, 0x0, true, 0x0, 0xFFFFFF, 0x0, 0x0⟩
def SCO_POISON_COLOUR : Reg := ⟨0xF0410128, 2, 0x100, 1, 0x0, true, 0x0, 0xFFFFFF, 0x0, 0x0⟩
def SCO_STALE : Reg := ⟨0xF0410130, 2, 0x100, 1, 0x0, true, 0x2000000, 0x3FFFFFF, 0x0, 0x0⟩
def SCO_PL_CFG : Reg := ⟨0xF0410140, 2, 0x100, 3, 0x20, true, 0xFF00, 0xFF07, 0x0, 0x0⟩
def SCO_PL_POS : Reg := ⟨0xF0410148, 2, 0x100, 3, 0x20, true, 0x0, 0xFFF0FFF, 0x0, 0x0⟩
def SCO_PL_SIZE : Reg := ⟨0xF0410150, 2, 0x100, 3, 0x20, true, 0x0, 0xFFF0FFF, 0x0, 0x0⟩
def SCO_PL_PITCH : Reg := ⟨0xF0410158, 2, 0x100, 3, 0x20, true, 0x0, 0x3FFFF, 0x0, 0x0⟩
def SCO_FIFO : Reg := ⟨0xF04101A0, 2, 0x100, 1, 0x0, false, 0xFF00, 0x0, 0x0, 0x0⟩
def SCO_PANEL_SEQ : Reg := ⟨0xF04101A4, 2, 0x100, 1, 0x0, false, 0x780A1401, 0xFFFFFF01, 0x0, 0x0⟩
def SCO_PANEL_PINS : Reg := ⟨0xF04101A8, 2, 0x100, 1, 0x0, false, 0x0, 0x0, 0x0, 0x0⟩
def SCO_DSI_TX_HDR : Reg := ⟨0xF04101B0, 2, 0x100, 1, 0x0, false, 0x0, 0x7FFF, 0x0, 0x0⟩
def SCO_DSI_TX_GO : Reg := ⟨0xF04101B4, 2, 0x100, 1, 0x0, false, 0x0, 0x0, 0x0, 0x1⟩
def SCO_DSI_TX_STATUS : Reg := ⟨0xF04101B8, 2, 0x100, 1, 0x0, false, 0x0, 0x0, 0x0, 0x0⟩
def SCO_DSI_TX_DATA : Reg := ⟨0xF04101C0, 2, 0x100, 16, 0x4, false, 0x0, 0xFFFFFFFF, 0x0, 0x0⟩

/-! SGN block, Tables 11-10. -/

def SGN_CTRL : Reg := ⟨0xF0420000, 1, 0x0, 1, 0x0, true, 0xF1E0000, 0xFFFFFF01, 0x0, 0x0⟩
def SGN_STATUS : Reg := ⟨0xF0420008, 1, 0x0, 1, 0x0, false, 0x0, 0x0, 0x0, 0x0⟩
def SGN_EVENT : Reg := ⟨0xF042000C, 1, 0x0, 1, 0x0, false, 0x0, 0x0, 0x1F, 0x0⟩
def SGN_FAIL_LO : Reg := ⟨0xF0420010, 1, 0x0, 1, 0x0, false, 0x0, 0x0, 0xFFFFFFFF, 0x0⟩
def SGN_FAIL_HI : Reg := ⟨0xF0420014, 1, 0x0, 1, 0x0, false, 0x0, 0x0, 0xFFFFFFFF, 0x0⟩
def SGN_CHECK_COUNT : Reg := ⟨0xF0420018, 1, 0x0, 1, 0x0, false, 0x0, 0x0, 0x0, 0x0⟩
def SGN_ECC_COUNT : Reg := ⟨0xF042001C, 1, 0x0, 1, 0x0, false, 0x0, 0x0, 0x0, 0x0⟩
def SGN_SRAM_ADDR : Reg := ⟨0xF0420020, 1, 0x0, 1, 0x0, false, 0x0, 0x3FFFC, 0x0, 0x0⟩
def SGN_SRAM_DATA : Reg := ⟨0xF0420024, 1, 0x0, 1, 0x0, false, 0x0, 0xFFFFFFFF, 0x0, 0x0⟩
def SGN_STATE : Reg := ⟨0xF0420040, 4, 0x8, 1, 0x0, false, 0x0, 0x0, 0x0, 0x0⟩
def SGN_STATE_C : Reg := ⟨0xF0420044, 4, 0x8, 1, 0x0, false, 0xFFFFFFFF, 0x0, 0x0, 0x0⟩
def SGN_PAL : Reg := ⟨0xF0420080, 16, 0x8, 1, 0x0, true, 0x0, 0xFFFFFF, 0x0, 0x0⟩
def SGN_ICON_POS : Reg := ⟨0xF0421000, 64, 0x20, 1, 0x0, true, 0x0, 0xDFFF0FFF, 0x0, 0x0⟩
def SGN_ICON_FMT : Reg := ⟨0xF0421008, 64, 0x20, 1, 0x0, true, 0x0, 0xFFFF3F3F, 0x0, 0x0⟩
def SGN_ICON_CRC_ON : Reg := ⟨0xF0421010, 64, 0x20, 1, 0x0, true, 0x0, 0xFFFFFFFF, 0x0, 0x0⟩
def SGN_ICON_CRC_OFF : Reg := ⟨0xF0421018, 64, 0x20, 1, 0x0, true, 0x0, 0xFFFFFFFF, 0x0, 0x0⟩

/-! HVS block, Tables 12-10. -/

def HVS_CTRL : Reg := ⟨0xF0500000, 1, 0x0, 1, 0x0, true, 0xA1401, 0xFFFF03, 0x0, 0x0⟩
def HVS_BOOST_CFG : Reg := ⟨0xF0500008, 1, 0x0, 1, 0x0, true, 0x460428, 0xFF0F3F, 0x0, 0x0⟩
def HVS_VBAT_LIM : Reg := ⟨0xF0500010, 1, 0x0, 1, 0x0, true, 0x1400258, 0x3FF03FF, 0x0, 0x0⟩
def HVS_PWM : Reg := ⟨0xF0500018, 1, 0x0, 1, 0x0, true, 0x4E20, 0x7FFF, 0x0, 0x0⟩
def HVS_SINK : Reg := ⟨0xF0500020, 4, 0x10, 1, 0x0, true, 0x0, 0xFF33FF, 0x0, 0x0⟩
def HVS_DUTY : Reg := ⟨0xF0500028, 4, 0x10, 1, 0x0, true, 0x0, 0xFFFF, 0x0, 0x0⟩
def HVS_NTC_CFG : Reg := ⟨0xF0500060, 3, 0x10, 1, 0x0, true, 0x1E00, 0x7F1F, 0x0, 0x0⟩
def HVS_NTC_THR : Reg := ⟨0xF0500068, 3, 0x10, 1, 0x0, true, 0x19C0207, 0xFFF0FFF, 0x0, 0x0⟩
def HVS_DERATE : Reg := ⟨0xF0500090, 1, 0x0, 1, 0x0, true, 0x28, 0x7F, 0x0, 0x0⟩
def HVS_STATUS : Reg := ⟨0xF05000A0, 1, 0x0, 1, 0x0, false, 0x0, 0x0, 0x0, 0x0⟩
def HVS_EVENT : Reg := ⟨0xF05000A4, 1, 0x0, 1, 0x0, false, 0x0, 0x0, 0x107FF, 0x0⟩
def HVS_VBAT : Reg := ⟨0xF05000A8, 1, 0x0, 1, 0x0, false, 0x0, 0x0, 0x0, 0x0⟩
def HVS_BOOST_FB : Reg := ⟨0xF05000AC, 1, 0x0, 1, 0x0, false, 0x0, 0x0, 0x0, 0x0⟩
def HVS_NTC : Reg := ⟨0xF05000B0, 3, 0x4, 1, 0x0, false, 0x0, 0x0, 0x0, 0x0⟩
def HVS_SINK_STAT : Reg := ⟨0xF05000C0, 4, 0x4, 1, 0x0, false, 0x640000, 0x0, 0x0, 0x0⟩
def HVS_XING_COUNT : Reg := ⟨0xF05000D0, 1, 0x0, 1, 0x0, false, 0x0, 0x0, 0x0, 0x0⟩
def HVS_BOOST_COUNT : Reg := ⟨0xF05000D4, 1, 0x0, 1, 0x0, false, 0x0, 0x0, 0x0, 0x0⟩
def HVS_CMD : Reg := ⟨0xF05000F0, 1, 0x0, 1, 0x0, false, 0x0, 0x0, 0x0, 0xFF⟩

/-! CAN0 and CAN1 block, Tables 13-17. -/

def CAN_CTRL : Reg := ⟨0xF0600000, 2, 0x10000, 1, 0x0, true, 0x1B, 0x1F, 0x0, 0x0⟩
def CAN_NBT : Reg := ⟨0xF0600008, 2, 0x10000, 1, 0x0, true, 0x13134E01, 0x7F7FFFFF, 0x0, 0x0⟩
def CAN_DBT : Reg := ⟨0xF0600010, 2, 0x10000, 1, 0x0, true, 0x9092600, 0x1F1F3F1F, 0x0, 0x0⟩
def CAN_GSP_ID : Reg := ⟨0xF0600018, 2, 0x10000, 1, 0x0, true, 0x800007F0, 0xBFFFFFFF, 0x0, 0x0⟩
def CAN_GSP_RSP : Reg := ⟨0xF0600020, 2, 0x10000, 1, 0x0, true, 0x7F1, 0x3FFFFFFF, 0x0, 0x0⟩
def CAN_STATUS : Reg := ⟨0xF0600028, 2, 0x10000, 1, 0x0, false, 0x0, 0x0, 0x0, 0x0⟩
def CAN_EVENT : Reg := ⟨0xF060002C, 2, 0x10000, 1, 0x0, false, 0x0, 0x0, 0xFF, 0x0⟩
def CAN_RX_COUNT : Reg := ⟨0xF0600030, 2, 0x10000, 1, 0x0, false, 0x0, 0x0, 0x0, 0x0⟩
def CAN_ERR_COUNT : Reg := ⟨0xF0600034, 2, 0x10000, 1, 0x0, false, 0x0, 0x0, 0x0, 0x0⟩

/-! SVC block, Tables 13-18. -/

def SVC_STATUS : Reg := ⟨0xF0620000, 1, 0x0, 1, 0x0, false, 0x2, 0x0, 0x0, 0x0⟩
def SVC_EVENT : Reg := ⟨0xF0620004, 1, 0x0, 1, 0x0, false, 0x0, 0x0, 0x7F, 0x0⟩
def SVC_PORTS : Reg := ⟨0xF0620008, 1, 0x0, 1, 0x0, true, 0x3203, 0xFF03, 0x0, 0x0⟩
def SVC_UART : Reg := ⟨0xF0620010, 1, 0x0, 1, 0x0, true, 0xD9, 0xFFFF, 0x0, 0x0⟩
def SVC_INTERLOCK : Reg := ⟨0xF0620018, 1, 0x0, 1, 0x0, true, 0x200FF00, 0xFF3FFF01, 0x0, 0x0⟩
def SVC_STATUS_MSG : Reg := ⟨0xF0620020, 1, 0x0, 1, 0x0, true, 0x400007F2, 0xFFFFFFFF, 0x0, 0x0⟩
def SVC_INTAKE_USED : Reg := ⟨0xF0620028, 1, 0x0, 1, 0x0, false, 0x15C0000, 0x0, 0x0, 0x0⟩
def SVC_ISEQ : Reg := ⟨0xF062002C, 1, 0x0, 1, 0x0, false, 0x0, 0x0, 0x0, 0x0⟩
def SVC_SNAP_SEQ : Reg := ⟨0xF0620030, 1, 0x0, 1, 0x0, false, 0x0, 0x0, 0x0, 0x0⟩
def SVC_CJ_NEXT : Reg := ⟨0xF0620034, 1, 0x0, 1, 0x0, false, 0x0, 0x0, 0x0, 0x0⟩
def SVC_CJ_UNMIRRORED : Reg := ⟨0xF0620038, 1, 0x0, 1, 0x0, false, 0x0, 0x0, 0x0, 0x0⟩
def SVC_CJ_HASH_LO : Reg := ⟨0xF062003C, 1, 0x0, 1, 0x0, false, 0x0, 0x0, 0x0, 0x0⟩
def SVC_CJ_HASH_HI : Reg := ⟨0xF0620040, 1, 0x0, 1, 0x0, false, 0x0, 0x0, 0x0, 0x0⟩
def SVC_GSP_COUNT : Reg := ⟨0xF0620044, 1, 0x0, 1, 0x0, false, 0x0, 0x0, 0x0, 0x0⟩
def SVC_DISCARD_COUNT : Reg := ⟨0xF0620048, 1, 0x0, 1, 0x0, false, 0x0, 0x0, 0x0, 0x0⟩
def SVC_CONS_A : Reg := ⟨0xF0620800, 16, 0x10, 1, 0x0, true, 0x0, 0xFFFFFFF, 0x0, 0x0⟩
def SVC_CONS_B : Reg := ⟨0xF0620808, 16, 0x10, 1, 0x0, true, 0x0, 0x803FFFFF, 0x0, 0x0⟩
def SVC_SIG_ID : Reg := ⟨0xF0621000, 64, 0x40, 1, 0x0, true, 0x0, 0xFFFFFFFF, 0x0, 0x0⟩
def SVC_SIG_FMT : Reg := ⟨0xF0621008, 64, 0x40, 1, 0x0, true, 0x0, 0xFFFFFFF, 0x0, 0x0⟩
def SVC_SIG_MIN : Reg := ⟨0xF0621010, 64, 0x40, 1, 0x0, true, 0x0, 0xFFFFFFFF, 0x0, 0x0⟩
def SVC_SIG_MAX : Reg := ⟨0xF0621018, 64, 0x40, 1, 0x0, true, 0x0, 0xFFFFFFFF, 0x0, 0x0⟩
def SVC_SIG_TIM : Reg := ⟨0xF0621020, 64, 0x40, 1, 0x0, true, 0x0, 0xFFFFFFFF, 0x0, 0x0⟩
def SVC_SIG_STAT : Reg := ⟨0xF0621028, 64, 0x40, 1, 0x0, false, 0x0, 0x0, 0x0, 0x0⟩

/-! I2C block, Tables 13-19. -/

def I2C_CFG : Reg := ⟨0xF0630000, 2, 0x10, 1, 0x0, false, 0x1, 0x3, 0x0, 0x0⟩
def I2C_XFER : Reg := ⟨0xF0630004, 2, 0x10, 1, 0x0, false, 0x0, 0x0, 0x0, 0xFFFF0FFF⟩
def I2C_DATA : Reg := ⟨0xF0630008, 2, 0x10, 1, 0x0, false, 0x0, 0xFFFFFFFF, 0x0, 0x0⟩
def I2C_STATUS : Reg := ⟨0xF063000C, 2, 0x10, 1, 0x0, false, 0x0, 0x0, 0x0, 0x0⟩

/-! GPIO block, Tables 13-20. -/

def GPIO_DIR : Reg := ⟨0xF0640000, 1, 0x0, 1, 0x0, false, 0x0, 0xFFFFFF, 0x0, 0x0⟩
def GPIO_OUT : Reg := ⟨0xF0640004, 1, 0x0, 1, 0x0, false, 0x0, 0xFFFFFF, 0x0, 0x0⟩
def GPIO_IN : Reg := ⟨0xF0640008, 1, 0x0, 1, 0x0, false, 0x0, 0x0, 0x0, 0x0⟩
def GPIO_PULL : Reg := ⟨0xF064000C, 1, 0x0, 1, 0x0, false, 0xFFFFFF, 0xFFFFFF, 0x0, 0x0⟩
def GPIO_PULL_DIR : Reg := ⟨0xF0640010, 1, 0x0, 1, 0x0, false, 0x0, 0xFFFFFF, 0x0, 0x0⟩

/-! BRG block, Tables 14-12. -/

def BRG_CTRL : Reg := ⟨0xF0700000, 1, 0x0, 1, 0x0, true, 0x7D00005, 0xFFFF0007, 0x0, 0x0⟩
def BRG_MBX_BASE : Reg := ⟨0xF0700008, 1, 0x0, 1, 0x0, true, 0x0, 0xFFFFFF, 0x0, 0x0⟩
def BRG_MBX_SIZE : Reg := ⟨0xF0700010, 1, 0x0, 1, 0x0, true, 0x0, 0xFFFF, 0x0, 0x0⟩
def BRG_MBX_RATE : Reg := ⟨0xF0700018, 1, 0x0, 1, 0x0, true, 0x40, 0x1FF, 0x0, 0x0⟩
def BRG_XSIG : Reg := ⟨0xF0700020, 1, 0x0, 1, 0x0, true, 0x0, 0x83FF03FF, 0x0, 0x0⟩
def BRG_SUB_SIGS_LO : Reg := ⟨0xF0700028, 1, 0x0, 1, 0x0, true, 0x0, 0xFFFFFFFF, 0x0, 0x0⟩
def BRG_SUB_SIGS_HI : Reg := ⟨0xF0700030, 1, 0x0, 1, 0x0, true, 0x0, 0xFFFFFFFF, 0x0, 0x0⟩
def BRG_TOKEN_TERM : Reg := ⟨0xF0700038, 1, 0x0, 1, 0x0, false, 0x61A8, 0xFFFFFF, 0x0, 0x0⟩
def BRG_CMD : Reg := ⟨0xF070003C, 1, 0x0, 1, 0x0, false, 0x0, 0x0, 0x0, 0xFF⟩
def BRG_STATUS : Reg := ⟨0xF0700040, 1, 0x0, 1, 0x0, false, 0x0, 0x0, 0x0, 0x0⟩
def BRG_EVENT : Reg := ⟨0xF0700044, 1, 0x0, 1, 0x0, false, 0x0, 0x0, 0xFFF, 0x0⟩
def BRG_PARTNER_BUILD_LO : Reg := ⟨0xF0700048, 1, 0x0, 1, 0x0, false, 0x0, 0x0, 0x0, 0x0⟩
def BRG_PARTNER_BUILD_HI : Reg := ⟨0xF070004C, 1, 0x0, 1, 0x0, false, 0x0, 0x0, 0x0, 0x0⟩
def BRG_REPLAY_COUNT : Reg := ⟨0xF0700050, 1, 0x0, 1, 0x0, false, 0x0, 0x0, 0x0, 0x0⟩
def BRG_REMOTE_REFUSED : Reg := ⟨0xF0700054, 1, 0x0, 1, 0x0, false, 0x0, 0x0, 0x0, 0x0⟩
def BRG_SUB_COUNT : Reg := ⟨0xF0700058, 1, 0x0, 1, 0x0, false, 0x0, 0x0, 0x0, 0x0⟩
def BRG_RESET_REQ_COUNT : Reg := ⟨0xF070005C, 1, 0x0, 1, 0x0, false, 0x0, 0x0, 0x0, 0x0⟩
def BRG_ABSENT_TICK : Reg := ⟨0xF0700060, 1, 0x0, 1, 0x0, false, 0x0, 0x0, 0x0, 0x0⟩
def BRG_KEY : Reg := ⟨0xF0700064, 1, 0x0, 1, 0x0, false, 0x0, 0x0, 0x0, 0x0⟩

/-! DDR block, Tables 04-16, 04-17. -/

def DDR_STATUS : Reg := ⟨0xF0800000, 1, 0x0, 1, 0x0, false, 0x0, 0x0, 0x0, 0x0⟩
def DDR_SIZE : Reg := ⟨0xF0800004, 1, 0x0, 1, 0x0, false, 0x0, 0x0, 0x0, 0x0⟩
def DDR_EVENT : Reg := ⟨0xF0800008, 1, 0x0, 1, 0x0, false, 0x0, 0x0, 0x1F, 0x0⟩
def DDR_ERR_COUNT : Reg := ⟨0xF080000C, 1, 0x0, 1, 0x0, false, 0x0, 0x0, 0x0, 0x0⟩
def DDR_UE_ADDR_LO : Reg := ⟨0xF0800010, 1, 0x0, 1, 0x0, false, 0x0, 0x0, 0x0, 0x0⟩
def DDR_UE_ADDR_HI : Reg := ⟨0xF0800014, 1, 0x0, 1, 0x0, false, 0x0, 0x0, 0x0, 0x0⟩
def DDR_TRAIN_TIME : Reg := ⟨0xF0800018, 1, 0x0, 1, 0x0, false, 0x0, 0x0, 0x0, 0x0⟩
def DDR_BLUE_LAT_MAX : Reg := ⟨0xF080001C, 1, 0x0, 1, 0x0, false, 0x0, 0x0, 0x0, 0x0⟩

/-! RCL block, Tables 16-14. -/

def RCL_STATUS : Reg := ⟨0xF0900000, 1, 0x0, 1, 0x0, false, 0x7F01, 0x0, 0x0, 0x0⟩
def RCL_EVENT : Reg := ⟨0xF0900004, 1, 0x0, 1, 0x0, false, 0x0, 0x0, 0x7FF, 0x0⟩
def RCL_CTRL : Reg := ⟨0xF0900008, 1, 0x0, 1, 0x0, true, 0x3C030A01, 0xFF0FFF01, 0x0, 0x0⟩
def RCL_FAULTN_CODE : Reg := ⟨0xF0900010, 8, 0x8, 1, 0x0, true, 0x0, 0x8000FFFF, 0x0, 0x0⟩
def RCL_FAULTN_LATCH : Reg := ⟨0xF0900050, 1, 0x0, 1, 0x0, false, 0x0, 0x0, 0xFF, 0x0⟩
def RCL_FAULTN_CAUSE : Reg := ⟨0xF0900054, 1, 0x0, 1, 0x0, false, 0x0, 0x0, 0x0, 0x0⟩
def RCL_RING_SEQ : Reg := ⟨0xF0900058, 1, 0x0, 1, 0x0, false, 0x0, 0x0, 0x0, 0x0⟩
def RCL_RECOVER_COUNT : Reg := ⟨0xF090005C, 1, 0x0, 1, 0x0, false, 0x0, 0x0, 0x0, 0x0⟩
def RCL_LAST_US : Reg := ⟨0xF0900060, 1, 0x0, 1, 0x0, false, 0x0, 0x0, 0x0, 0x0⟩
def RCL_UNIT_RETIRED : Reg := ⟨0xF0900064, 4, 0x4, 1, 0x0, false, 0x0, 0x0, 0x0, 0x0⟩
def RCL_LEASE_SEL : Reg := ⟨0xF0900080, 1, 0x0, 1, 0x0, false, 0x0, 0xFF, 0x0, 0x0⟩
def RCL_LEASE_W : Reg := ⟨0xF0900084, 4, 0x4, 1, 0x0, false, 0x0, 0x0, 0x0, 0x0⟩
def RCL_INJECT : Reg := ⟨0xF09000A0, 1, 0x0, 1, 0x0, false, 0x0, 0x0, 0x0, 0xFF00007F⟩
def RCL_RING : Reg := ⟨0xF0901000, 64, 0x20, 8, 0x4, false, 0x0, 0x0, 0x0, 0x0⟩

end R

namespace F


/-! Fields of the SYS block. -/

def SYS_ID_PART : Field := ⟨R.SYS_ID, 31, 16⟩
def SYS_ID_REV_LETTER : Field := ⟨R.SYS_ID, 15, 12⟩
def SYS_ID_REV_DIGIT : Field := ⟨R.SYS_ID, 11, 8⟩
def SYS_ID_ORDER : Field := ⟨R.SYS_ID, 7, 4⟩
def SYS_STATE_STATE : Field := ⟨R.SYS_STATE, 2, 0⟩
def SYS_STATE_STEP : Field := ⟨R.SYS_STATE, 6, 4⟩
def SYS_STATE_REF_ON_RC : Field := ⟨R.SYS_STATE, 8, 8⟩
def SYS_STATE_X32_ON_RC : Field := ⟨R.SYS_STATE, 9, 9⟩
def SYS_STATE_LPDDR_PRESENT : Field := ⟨R.SYS_STATE, 10, 10⟩
def SYS_STATE_ROLE : Field := ⟨R.SYS_STATE, 12, 11⟩
def SYS_STATE_RET_SINGLE_BANK : Field := ⟨R.SYS_STATE, 16, 16⟩
def SYS_RESET_CAUSE_CAUSE : Field := ⟨R.SYS_RESET_CAUSE, 7, 0⟩
def SYS_RESET_CTRL_CMD : Field := ⟨R.SYS_RESET_CTRL, 7, 0⟩
def SYS_PWR_REQ_TARGET : Field := ⟨R.SYS_PWR_REQ, 1, 0⟩
def SYS_PWR_REQ_PARK_DRAIN : Field := ⟨R.SYS_PWR_REQ, 15, 8⟩
def SYS_GATE_CTRL_IDLE_TICKS : Field := ⟨R.SYS_GATE_CTRL, 11, 0⟩
def SYS_GATE_CTRL_GATE_EN : Field := ⟨R.SYS_GATE_CTRL, 16, 16⟩
def SYS_GATE_STATUS_DST_CLK : Field := ⟨R.SYS_GATE_STATUS, 7, 0⟩
def SYS_GATE_STATUS_TILE_CLK : Field := ⟨R.SYS_GATE_STATUS, 23, 8⟩
def SYS_GATE_STATUS_VIS_CLK : Field := ⟨R.SYS_GATE_STATUS, 27, 24⟩
def SYS_GATE_STATUS_CAM_CLK : Field := ⟨R.SYS_GATE_STATUS, 28, 28⟩
def SYS_GATE_STATUS_PXL_CLK : Field := ⟨R.SYS_GATE_STATUS, 29, 29⟩
def SYS_PLL_STATUS_LOCK : Field := ⟨R.SYS_PLL_STATUS, 8, 0⟩
def SYS_PLL_STATUS_TILE_DIV5 : Field := ⟨R.SYS_PLL_STATUS, 16, 16⟩
def SYS_PLL_EVENT_LOL : Field := ⟨R.SYS_PLL_EVENT, 8, 0⟩
def SYS_THERM_CTRL_T1_ENTER : Field := ⟨R.SYS_THERM_CTRL, 7, 0⟩
def SYS_THERM_CTRL_T2_ENTER : Field := ⟨R.SYS_THERM_CTRL, 15, 8⟩
def SYS_THERM_CTRL_T3_ENTER : Field := ⟨R.SYS_THERM_CTRL, 23, 16⟩
def SYS_THERM_CTRL_HYST : Field := ⟨R.SYS_THERM_CTRL, 31, 24⟩
def SYS_THERM_STATUS_TJ_MAX : Field := ⟨R.SYS_THERM_STATUS, 8, 0⟩
def SYS_THERM_STATUS_STEP : Field := ⟨R.SYS_THERM_STATUS, 14, 12⟩
def SYS_THERM_STATUS_HOT_SENSOR : Field := ⟨R.SYS_THERM_STATUS, 19, 16⟩
def SYS_THERM_EVENT_ENTER : Field := ⟨R.SYS_THERM_EVENT, 2, 0⟩
def SYS_THERM_EVENT_SENSOR_FAIL : Field := ⟨R.SYS_THERM_EVENT, 3, 3⟩
def SYS_TEMP_TEMP : Field := ⟨R.SYS_TEMP, 8, 0⟩
def SYS_TEMP_VALID : Field := ⟨R.SYS_TEMP, 31, 31⟩

/-! Fields of the LAMP block. -/

def LAMP_TICK_LO_TICK_LO : Field := ⟨R.LAMP_TICK_LO, 31, 0⟩
def LAMP_TICK_HI_TICK_HI : Field := ⟨R.LAMP_TICK_HI, 15, 0⟩
def LAMP_CLK_STATUS_X32_OK : Field := ⟨R.LAMP_CLK_STATUS, 0, 0⟩
def LAMP_CLK_STATUS_X32_ON_RC : Field := ⟨R.LAMP_CLK_STATUS, 1, 1⟩
def LAMP_CLK_STATUS_REF_OK : Field := ⟨R.LAMP_CLK_STATUS, 2, 2⟩
def LAMP_CLK_STATUS_REF_ON_RC : Field := ⟨R.LAMP_CLK_STATUS, 3, 3⟩
def LAMP_CLK_EVENT_X32_FAIL : Field := ⟨R.LAMP_CLK_EVENT, 0, 0⟩
def LAMP_CLK_EVENT_REF_FAIL : Field := ⟨R.LAMP_CLK_EVENT, 1, 1⟩
def LAMP_WAKE_EN_IGN : Field := ⟨R.LAMP_WAKE_EN, 0, 0⟩
def LAMP_WAKE_EN_CAN : Field := ⟨R.LAMP_WAKE_EN, 1, 1⟩
def LAMP_WAKE_EN_BRG : Field := ⟨R.LAMP_WAKE_EN, 2, 2⟩
def LAMP_WAKE_EN_TIMER : Field := ⟨R.LAMP_WAKE_EN, 3, 3⟩
def LAMP_WAKE_FILT_IGN_FILT : Field := ⟨R.LAMP_WAKE_FILT, 7, 0⟩
def LAMP_WAKE_FILT_CAN_FILT : Field := ⟨R.LAMP_WAKE_FILT, 15, 8⟩
def LAMP_WAKE_FILT_BRG_FILT : Field := ⟨R.LAMP_WAKE_FILT, 23, 16⟩
def LAMP_WAKE_CAUSE_SOURCE : Field := ⟨R.LAMP_WAKE_CAUSE, 3, 0⟩
def LAMP_WAKE_CAUSE_POR_LEVEL : Field := ⟨R.LAMP_WAKE_CAUSE, 4, 4⟩
def LAMP_TIMER_ALARM_SECONDS : Field := ⟨R.LAMP_TIMER_ALARM, 31, 0⟩
def LAMP_PARK_POLICY_IGN_QUIET : Field := ⟨R.LAMP_PARK_POLICY, 0, 0⟩
def LAMP_PARK_POLICY_IGN_OFF_DELAY : Field := ⟨R.LAMP_PARK_POLICY, 15, 8⟩
def LAMP_PARK_POLICY_QUIET_TIMEOUT : Field := ⟨R.LAMP_PARK_POLICY, 31, 16⟩
def LAMP_RESET_CAUSE_POR : Field := ⟨R.LAMP_RESET_CAUSE, 0, 0⟩
def LAMP_RESET_CAUSE_PIN : Field := ⟨R.LAMP_RESET_CAUSE, 1, 1⟩
def LAMP_RESET_CAUSE_CMD : Field := ⟨R.LAMP_RESET_CAUSE, 2, 2⟩
def LAMP_RESET_CAUSE_PG_LOSS : Field := ⟨R.LAMP_RESET_CAUSE, 3, 3⟩
def LAMP_RESET_CAUSE_SYS_PLL : Field := ⟨R.LAMP_RESET_CAUSE, 4, 4⟩
def LAMP_RESET_CAUSE_REF_FAIL : Field := ⟨R.LAMP_RESET_CAUSE, 5, 5⟩
def LAMP_RESET_CAUSE_ESCALATE : Field := ⟨R.LAMP_RESET_CAUSE, 6, 6⟩
def LAMP_RESET_CAUSE_BRIDGE : Field := ⟨R.LAMP_RESET_CAUSE, 7, 7⟩
def LAMP_RESET_CAUSE_THERMAL : Field := ⟨R.LAMP_RESET_CAUSE, 8, 8⟩
def LAMP_RESET_CAUSE_SELFTEST : Field := ⟨R.LAMP_RESET_CAUSE, 9, 9⟩
def LAMP_RET_STATUS_BANK_A_OK : Field := ⟨R.LAMP_RET_STATUS, 0, 0⟩
def LAMP_RET_STATUS_BANK_B_OK : Field := ⟨R.LAMP_RET_STATUS, 1, 1⟩
def LAMP_RET_STATUS_VALID : Field := ⟨R.LAMP_RET_STATUS, 2, 2⟩
def LAMP_RET_STATUS_CE_COUNT : Field := ⟨R.LAMP_RET_STATUS, 15, 8⟩
def LAMP_RET_STATUS_UE_COUNT : Field := ⟨R.LAMP_RET_STATUS, 23, 16⟩
def LAMP_PMIC_CTRL_PG_TIMEOUT : Field := ⟨R.LAMP_PMIC_CTRL, 15, 0⟩
def LAMP_PMIC_CTRL_PMIC_EN : Field := ⟨R.LAMP_PMIC_CTRL, 16, 16⟩
def LAMP_PMIC_CTRL_PWR_GOOD : Field := ⟨R.LAMP_PMIC_CTRL, 17, 17⟩
def LAMP_VHV_STATUS_VHV_LOW : Field := ⟨R.LAMP_VHV_STATUS, 0, 0⟩
def LAMP_VHV_STATUS_VHV_RET : Field := ⟨R.LAMP_VHV_STATUS, 1, 1⟩
def LAMP_WAKE_COUNT_COUNT : Field := ⟨R.LAMP_WAKE_COUNT, 31, 0⟩

/-! Fields of the BOOT block. -/

def BOOT_STATUS_PHASE : Field := ⟨R.BOOT_STATUS, 3, 0⟩
def BOOT_STATUS_PROFILE : Field := ⟨R.BOOT_STATUS, 6, 4⟩
def BOOT_STATUS_IMAGE_ALT : Field := ⟨R.BOOT_STATUS, 8, 8⟩
def BOOT_STATUS_QUAD_FALLBACK : Field := ⟨R.BOOT_STATUS, 9, 9⟩
def BOOT_STATUS_OTP_BLANK : Field := ⟨R.BOOT_STATUS, 10, 10⟩
def BOOT_STATUS_LPDDR_TRAINED : Field := ⟨R.BOOT_STATUS, 11, 11⟩
def BOOT_STATUS_BOOTSEL : Field := ⟨R.BOOT_STATUS, 13, 12⟩
def BOOT_STATUS_DSEL_A : Field := ⟨R.BOOT_STATUS, 14, 14⟩
def BOOT_STATUS_DSEL_B : Field := ⟨R.BOOT_STATUS, 15, 15⟩
def BOOT_STATUS_GPIO_PUP : Field := ⟨R.BOOT_STATUS, 16, 16⟩
def BOOT_STATUS_SPLASH_BLACK : Field := ⟨R.BOOT_STATUS, 17, 17⟩
def BOOT_ERROR_CODE : Field := ⟨R.BOOT_ERROR, 15, 0⟩
def BOOT_ERROR_SECT_ID : Field := ⟨R.BOOT_ERROR, 31, 16⟩
def BOOT_PROFILE_REFUSED : Field := ⟨R.BOOT_PROFILE, 7, 0⟩
def BOOT_PROFILE_DECLARED : Field := ⟨R.BOOT_PROFILE, 15, 8⟩
def BOOT_REJECT_REASON : Field := ⟨R.BOOT_REJECT, 7, 0⟩
def BOOT_REJECT_SECT_ID : Field := ⟨R.BOOT_REJECT, 31, 16⟩
def BOOT_TIME_SPLASH_TICKS : Field := ⟨R.BOOT_TIME_SPLASH, 31, 0⟩
def BOOT_TIME_HANDOVER_TICKS : Field := ⟨R.BOOT_TIME_HANDOVER, 31, 0⟩
def BOOT_BUILD_LO_BUILD : Field := ⟨R.BOOT_BUILD_LO, 31, 0⟩
def BOOT_BUILD_HI_BUILD : Field := ⟨R.BOOT_BUILD_HI, 31, 0⟩
def BOOT_IMAGE_OFFSET_OFFSET : Field := ⟨R.BOOT_IMAGE_OFFSET, 31, 0⟩
def BOOT_SPLASH_HOLD_MS : Field := ⟨R.BOOT_SPLASH_HOLD, 15, 0⟩
def BOOT_REPAIR_CTRL_REPAIR_EN : Field := ⟨R.BOOT_REPAIR_CTRL, 0, 0⟩
def BOOT_REPAIR_COUNT_DONE : Field := ⟨R.BOOT_REPAIR_COUNT, 15, 0⟩
def BOOT_REPAIR_COUNT_FAILED : Field := ⟨R.BOOT_REPAIR_COUNT, 31, 16⟩
def BOOT_REPAIR_EVENT_DONE : Field := ⟨R.BOOT_REPAIR_EVENT, 0, 0⟩
def BOOT_REPAIR_EVENT_FAIL : Field := ⟨R.BOOT_REPAIR_EVENT, 1, 1⟩
def BOOT_OTP_KEY_HASH : Field := ⟨R.BOOT_OTP_KEY, 31, 0⟩
def BOOT_OTP_STATE_REVOKED : Field := ⟨R.BOOT_OTP_STATE, 3, 0⟩
def BOOT_OTP_STATE_BLANK : Field := ⟨R.BOOT_OTP_STATE, 7, 4⟩
def BOOT_OTP_ALT_OFFSET : Field := ⟨R.BOOT_OTP_ALT, 31, 0⟩

/-! Fields of the AVE block. -/

def AVE_PLZ_STATUS_FAILED_BANK : Field := ⟨R.AVE_PLZ_STATUS, 4, 0⟩
def AVE_PLZ_STATUS_BANKS31 : Field := ⟨R.AVE_PLZ_STATUS, 5, 5⟩
def AVE_PLZ_STATUS_INIT_DONE : Field := ⟨R.AVE_PLZ_STATUS, 6, 6⟩
def AVE_PLZ_STATUS_LOCKS : Field := ⟨R.AVE_PLZ_STATUS, 14, 8⟩
def AVE_PLZ_ERR_COUNT_CE : Field := ⟨R.AVE_PLZ_ERR_COUNT, 15, 0⟩
def AVE_PLZ_ERR_COUNT_UE : Field := ⟨R.AVE_PLZ_ERR_COUNT, 31, 16⟩
def AVE_PLZ_UE_ADDR_LINE : Field := ⟨R.AVE_PLZ_UE_ADDR, 25, 6⟩
def AVE_PLZ_UE_ADDR_VALID : Field := ⟨R.AVE_PLZ_UE_ADDR, 31, 31⟩
def AVE_EVENT_PLZ_CE : Field := ⟨R.AVE_EVENT, 0, 0⟩
def AVE_EVENT_PLZ_UE_READ : Field := ⟨R.AVE_EVENT, 1, 1⟩
def AVE_EVENT_PLZ_UE_SCRUB : Field := ⟨R.AVE_EVENT, 2, 2⟩
def AVE_EVENT_BANK_FAIL : Field := ⟨R.AVE_EVENT, 3, 3⟩
def AVE_EVENT_UNMAPPED : Field := ⟨R.AVE_EVENT, 4, 4⟩
def AVE_EVENT_REGION_CONFLICT : Field := ⟨R.AVE_EVENT, 5, 5⟩
def AVE_EVENT_POISON_READ : Field := ⟨R.AVE_EVENT, 6, 6⟩
def AVE_EVENT_LINK_REPLAY : Field := ⟨R.AVE_EVENT, 7, 7⟩
def AVE_EVENT_LINK_FAIL : Field := ⟨R.AVE_EVENT, 8, 8⟩
def AVE_SCRUB_CTRL_PERIOD : Field := ⟨R.AVE_SCRUB_CTRL, 15, 0⟩
def AVE_SCRUB_CTRL_EN : Field := ⟨R.AVE_SCRUB_CTRL, 16, 16⟩
def AVE_FS_SIZE_BYTES : Field := ⟨R.AVE_FS_SIZE, 24, 0⟩
def AVE_BLUE_CAP_FLITS : Field := ⟨R.AVE_BLUE_CAP, 4, 0⟩
def AVE_WRR_THROUGH : Field := ⟨R.AVE_WRR, 3, 0⟩
def AVE_WRR_LOCAL : Field := ⟨R.AVE_WRR, 7, 4⟩
def AVE_LINK_FAIL_NODE : Field := ⟨R.AVE_LINK_FAIL, 5, 0⟩
def AVE_LINK_FAIL_PORT : Field := ⟨R.AVE_LINK_FAIL, 7, 6⟩
def AVE_LINK_FAIL_VALID : Field := ⟨R.AVE_LINK_FAIL, 8, 8⟩
def AVE_REPLAY_COUNT_COUNT : Field := ⟨R.AVE_REPLAY_COUNT, 31, 0⟩
def AVE_GATE_LO_CLOSED : Field := ⟨R.AVE_GATE_LO, 31, 0⟩
def AVE_GATE_HI_CLOSED : Field := ⟨R.AVE_GATE_HI, 3, 0⟩
def AVE_POISON_CLR_INDEX : Field := ⟨R.AVE_POISON_CLR, 23, 0⟩
def AVE_POISON_CLR_SPACE : Field := ⟨R.AVE_POISON_CLR, 31, 31⟩
def AVE_POISON_COUNT_PLAZA : Field := ⟨R.AVE_POISON_COUNT, 15, 0⟩
def AVE_POISON_COUNT_LPDDR : Field := ⟨R.AVE_POISON_COUNT, 31, 16⟩
def AVE_REGION_LO_BASE_PFN : Field := ⟨R.AVE_REGION_LO, 23, 0⟩
def AVE_REGION_HI_PAGES_M1 : Field := ⟨R.AVE_REGION_HI, 19, 0⟩
def AVE_REGION_HI_MODE : Field := ⟨R.AVE_REGION_HI, 21, 20⟩
def AVE_REGION_HI_LEASE : Field := ⟨R.AVE_REGION_HI, 31, 24⟩

/-! Fields of the XLT block. -/

def XLT_STATUS_POOL_USED : Field := ⟨R.XLT_STATUS, 16, 0⟩
def XLT_STATUS_POOL_WAIT : Field := ⟨R.XLT_STATUS, 24, 24⟩
def XLT_POOL_BASE_BASE_64K : Field := ⟨R.XLT_POOL_BASE, 9, 0⟩
def XLT_POOL_SIZE_SIZE_64K : Field := ⟨R.XLT_POOL_SIZE, 6, 0⟩
def XLT_INVAL_ASID : Field := ⟨R.XLT_INVAL, 15, 1⟩
def XLT_INVAL_PEND_ASID : Field := ⟨R.XLT_INVAL_PEND, 15, 1⟩
def XLT_EVENT_FAULT : Field := ⟨R.XLT_EVENT, 0, 0⟩
def XLT_EVENT_OVERSIZE : Field := ⟨R.XLT_EVENT, 1, 1⟩
def XLT_EVENT_BAD_ENTRY : Field := ⟨R.XLT_EVENT, 2, 2⟩
def XLT_EVENT_INVAL_DONE : Field := ⟨R.XLT_EVENT, 3, 3⟩
def XLT_FAULT_VA_LO_VA : Field := ⟨R.XLT_FAULT_VA_LO, 31, 0⟩
def XLT_FAULT_VA_HI_VA : Field := ⟨R.XLT_FAULT_VA_HI, 6, 0⟩
def XLT_FAULT_INFO_ASID : Field := ⟨R.XLT_FAULT_INFO, 3, 0⟩
def XLT_FAULT_INFO_LEVEL : Field := ⟨R.XLT_FAULT_INFO, 5, 4⟩
def XLT_FAULT_INFO_KIND : Field := ⟨R.XLT_FAULT_INFO, 7, 6⟩
def XLT_ROOT_LO_ROOT : Field := ⟨R.XLT_ROOT_LO, 31, 12⟩
def XLT_ROOT_HI_ROOT : Field := ⟨R.XLT_ROOT_HI, 3, 0⟩
def XLT_ROOT_HI_EN : Field := ⟨R.XLT_ROOT_HI, 8, 8⟩
def XLT_GEN_GEN : Field := ⟨R.XLT_GEN, 31, 0⟩

/-! Fields of the WRD block. -/

def WRD_STATUS_W0_OK : Field := ⟨R.WRD_STATUS, 0, 0⟩
def WRD_STATUS_W1_OK : Field := ⟨R.WRD_STATUS, 1, 1⟩
def WRD_STATUS_TAKEOVER : Field := ⟨R.WRD_STATUS, 2, 2⟩
def WRD_STATUS_OPEN : Field := ⟨R.WRD_STATUS, 10, 4⟩
def WRD_EVENT_DIVERGE : Field := ⟨R.WRD_EVENT, 0, 0⟩
def WRD_EVENT_BAD_STOP : Field := ⟨R.WRD_EVENT, 1, 1⟩
def WRD_EVENT_GRAN_OVER : Field := ⟨R.WRD_EVENT, 2, 2⟩
def WRD_EVENT_GRAN_ABORT : Field := ⟨R.WRD_EVENT, 3, 3⟩
def WRD_EVENT_STOP_TIMEOUT : Field := ⟨R.WRD_EVENT, 4, 4⟩
def WRD_EVENT_TAKEOVER : Field := ⟨R.WRD_EVENT, 5, 5⟩
def WRD_EVENT_QUEUE_BUSY : Field := ⟨R.WRD_EVENT, 6, 6⟩
def WRD_STOP_LIMIT_US : Field := ⟨R.WRD_STOP_LIMIT, 19, 0⟩
def WRD_LEASE_TERM_TICKS : Field := ⟨R.WRD_LEASE_TERM, 23, 0⟩
def WRD_COMP_CFG_TILE_RES : Field := ⟨R.WRD_COMP_CFG, 1, 0⟩
def WRD_COMP_LAT_MAX_NS : Field := ⟨R.WRD_COMP_LAT_MAX, 15, 0⟩
def WRD_GRAN_MAX_TICKS : Field := ⟨R.WRD_GRAN_MAX, 7, 0⟩
def WRD_FAIL_COUNT_COUNT : Field := ⟨R.WRD_FAIL_COUNT, 31, 0⟩
def WRD_RCLASS_KIND_KIND : Field := ⟨R.WRD_RCLASS_KIND, 2, 0⟩
def WRD_RCLASS_KIND_COUNT : Field := ⟨R.WRD_RCLASS_KIND, 12, 8⟩
def WRD_RCLASS_MASK_MASK : Field := ⟨R.WRD_RCLASS_MASK, 31, 0⟩
def WRD_Q_CFG_LEVEL : Field := ⟨R.WRD_Q_CFG, 1, 0⟩
def WRD_Q_CFG_MAX_OPEN : Field := ⟨R.WRD_Q_CFG, 14, 8⟩
def WRD_Q_CFG_DRAIN_MS : Field := ⟨R.WRD_Q_CFG, 23, 16⟩
def WRD_Q_STATE_STATE : Field := ⟨R.WRD_Q_STATE, 1, 0⟩
def WRD_Q_STATE_ROUTE : Field := ⟨R.WRD_Q_STATE, 15, 8⟩
def WRD_Q_STATE_OPEN : Field := ⟨R.WRD_Q_STATE, 22, 16⟩
def WRD_Q_STATE_ENQ : Field := ⟨R.WRD_Q_STATE, 27, 24⟩
def WRD_Q_STATE_OWNER : Field := ⟨R.WRD_Q_STATE, 28, 28⟩
def WRD_Q_CTRL_CMD : Field := ⟨R.WRD_Q_CTRL, 7, 0⟩
def WRD_Q_ITER_ITER : Field := ⟨R.WRD_Q_ITER, 31, 0⟩
def WRD_Q_LASTFAIL_STOP_TAG : Field := ⟨R.WRD_Q_LASTFAIL, 15, 0⟩
def WRD_Q_LASTFAIL_STATUS : Field := ⟨R.WRD_Q_LASTFAIL, 23, 16⟩

/-! Fields of the XNG block. -/

def XNG_STATUS_BROKEN : Field := ⟨R.XNG_STATUS, 10, 0⟩
def XNG_STATUS_PERSIST : Field := ⟨R.XNG_STATUS, 22, 16⟩
def XNG_EVENT_MISMATCH : Field := ⟨R.XNG_EVENT, 0, 0⟩
def XNG_EVENT_BAD_RELEASE : Field := ⟨R.XNG_EVENT, 1, 1⟩
def XNG_EVENT_LEASE_EXPIRED : Field := ⟨R.XNG_EVENT, 2, 2⟩
def XNG_EVENT_DEVICE_SET : Field := ⟨R.XNG_EVENT, 3, 3⟩
def XNG_EVENT_OP_REFUSED : Field := ⟨R.XNG_EVENT, 4, 4⟩
def XNG_MISMATCH_IDX_INDEX : Field := ⟨R.XNG_MISMATCH_IDX, 9, 0⟩
def XNG_SET_VAL_VALUE : Field := ⟨R.XNG_SET_VAL, 31, 0⟩
def XNG_SET_CMD_INDEX : Field := ⟨R.XNG_SET_CMD, 9, 0⟩
def XNG_INSPECT_IDX_INDEX : Field := ⟨R.XNG_INSPECT_IDX, 9, 0⟩
def XNG_INSPECT_LO_WIN_LO : Field := ⟨R.XNG_INSPECT_LO, 31, 0⟩
def XNG_INSPECT_HI_WIN_HI : Field := ⟨R.XNG_INSPECT_HI, 31, 0⟩
def XNG_INSPECT_FLAGS_WIN_VALID : Field := ⟨R.XNG_INSPECT_FLAGS, 0, 0⟩
def XNG_INSPECT_FLAGS_BROKEN : Field := ⟨R.XNG_INSPECT_FLAGS, 1, 1⟩
def XNG_INSPECT_FLAGS_MUTEX : Field := ⟨R.XNG_INSPECT_FLAGS, 2, 2⟩
def XNG_INSPECT_FLAGS_PERSIST : Field := ⟨R.XNG_INSPECT_FLAGS, 3, 3⟩
def XNG_INSPECT_FLAGS_WAITERS : Field := ⟨R.XNG_INSPECT_FLAGS, 15, 8⟩
def XNG_MODE_MUTEX : Field := ⟨R.XNG_MODE, 31, 0⟩
def XNG_PERSIST_PERSIST : Field := ⟨R.XNG_PERSIST, 31, 0⟩
def XNG_VAL_VALUE : Field := ⟨R.XNG_VAL, 31, 0⟩
def XNG_VALC_VALUE_C : Field := ⟨R.XNG_VALC, 31, 0⟩

/-! Fields of the DST block. -/

def DST_STATUS_BUSY : Field := ⟨R.DST_STATUS, 0, 0⟩
def DST_STATUS_HELD : Field := ⟨R.DST_STATUS, 1, 1⟩
def DST_STATUS_CAL_DUE : Field := ⟨R.DST_STATUS, 6, 2⟩
def DST_STATUS_RETIRED : Field := ⟨R.DST_STATUS, 12, 8⟩
def DST_STATUS_SPARE_USED : Field := ⟨R.DST_STATUS, 13, 13⟩
def DST_STATUS_T2_FLOOR : Field := ⟨R.DST_STATUS, 14, 14⟩
def DST_EVENT_FAULT : Field := ⟨R.DST_EVENT, 10, 0⟩
def DST_CAL_CTRL_PERIOD_S : Field := ⟨R.DST_CAL_CTRL, 7, 0⟩
def DST_CAL_CTRL_DELTA_C : Field := ⟨R.DST_CAL_CTRL, 15, 8⟩
def DST_CAL_CTRL_GRACE_MS : Field := ⟨R.DST_CAL_CTRL, 23, 16⟩
def DST_CAL_CTRL_FORCE_C : Field := ⟨R.DST_CAL_CTRL, 31, 24⟩
def DST_SWEEP_CTRL_PERIOD_MS : Field := ⟨R.DST_SWEEP_CTRL, 7, 0⟩
def DST_RETIRE_CTRL_RESTART : Field := ⟨R.DST_RETIRE_CTRL, 0, 0⟩
def DST_ARR_SEL_SLOT : Field := ⟨R.DST_ARR_SEL, 4, 0⟩
def DST_ARR_INFO_NEXACT : Field := ⟨R.DST_ARR_INFO, 6, 0⟩
def DST_ARR_INFO_TEMP_CAL : Field := ⟨R.DST_ARR_INFO, 15, 8⟩
def DST_ARR_INFO_STATE : Field := ⟨R.DST_ARR_INFO, 17, 16⟩
def DST_ARR_INFO_LOGICAL : Field := ⟨R.DST_ARR_INFO, 25, 18⟩
def DST_ARR_COL_WORST_COL : Field := ⟨R.DST_ARR_COL, 9, 0⟩
def DST_ARR_TAG0_TAG : Field := ⟨R.DST_ARR_TAG0, 31, 0⟩
def DST_ARR_TAG1_TAG : Field := ⟨R.DST_ARR_TAG1, 31, 0⟩
def DST_CAL_COUNT_DONE : Field := ⟨R.DST_CAL_COUNT, 15, 0⟩
def DST_CAL_COUNT_FORCED : Field := ⟨R.DST_CAL_COUNT, 31, 16⟩
def DST_CHECK_COUNT_CHECK : Field := ⟨R.DST_CHECK_COUNT, 15, 0⟩
def DST_CHECK_COUNT_SWEEP : Field := ⟨R.DST_CHECK_COUNT, 31, 16⟩
def DST_PASS_COUNT_COUNT : Field := ⟨R.DST_PASS_COUNT, 31, 0⟩
def DST_WAIT_MAX_NS : Field := ⟨R.DST_WAIT_MAX, 15, 0⟩
def DST_RING_SERVING : Field := ⟨R.DST_RING, 7, 0⟩
def DST_RING_REMOTE : Field := ⟨R.DST_RING, 15, 8⟩

/-! Fields of the TILE block. -/

def TILE_STATUS_BUSY : Field := ⟨R.TILE_STATUS, 15, 0⟩
def TILE_STATUS_RESERVED : Field := ⟨R.TILE_STATUS, 31, 16⟩
def TILE_EVENT_PREEMPT : Field := ⟨R.TILE_EVENT, 0, 0⟩
def TILE_EVENT_MEM_UE : Field := ⟨R.TILE_EVENT, 1, 1⟩
def TILE_EVENT_MEM_CE : Field := ⟨R.TILE_EVENT, 2, 2⟩
def TILE_SAVE_BASE_BASE_64K : Field := ⟨R.TILE_SAVE_BASE, 9, 0⟩
def TILE_PREEMPT_COUNT_COUNT : Field := ⟨R.TILE_PREEMPT_COUNT, 31, 0⟩
def TILE_PREEMPT_MAX_NS : Field := ⟨R.TILE_PREEMPT_MAX, 15, 0⟩
def TILE_ERR_COUNT_CE : Field := ⟨R.TILE_ERR_COUNT, 15, 0⟩
def TILE_ERR_COUNT_UE : Field := ⟨R.TILE_ERR_COUNT, 31, 16⟩
def TILE_CORE_STOP_TAG : Field := ⟨R.TILE_CORE, 15, 0⟩
def TILE_CORE_QUEUE : Field := ⟨R.TILE_CORE, 19, 16⟩
def TILE_CORE_STATE : Field := ⟨R.TILE_CORE, 22, 20⟩
def TILE_CORE_RANK : Field := ⟨R.TILE_CORE, 27, 24⟩

/-! Fields of the RAS block. -/

def RAS_STATUS_BUSY : Field := ⟨R.RAS_STATUS, 0, 0⟩
def RAS_STATUS_PHASE : Field := ⟨R.RAS_STATUS, 1, 1⟩
def RAS_STATUS_WAITING : Field := ⟨R.RAS_STATUS, 15, 8⟩
def RAS_STATUS_STOP_TAG : Field := ⟨R.RAS_STATUS, 31, 16⟩
def RAS_EVENT_LOT_OVERFLOW : Field := ⟨R.RAS_EVENT, 0, 0⟩
def RAS_EVENT_GUARD : Field := ⟨R.RAS_EVENT, 1, 1⟩
def RAS_EVENT_BAD_DRAW : Field := ⟨R.RAS_EVENT, 2, 2⟩
def RAS_LOT_BASE_BASE_64K : Field := ⟨R.RAS_LOT_BASE, 9, 0⟩
def RAS_LOT_SIZE_BYTES : Field := ⟨R.RAS_LOT_SIZE, 22, 0⟩
def RAS_LOT_PEAK_BYTES : Field := ⟨R.RAS_LOT_PEAK, 22, 0⟩
def RAS_LOT_LAST_BYTES : Field := ⟨R.RAS_LOT_LAST, 22, 0⟩
def RAS_DROP_COUNT_COUNT : Field := ⟨R.RAS_DROP_COUNT, 31, 0⟩
def RAS_LAST_DROP_STOP_TAG : Field := ⟨R.RAS_LAST_DROP, 15, 0⟩
def RAS_LAST_DROP_QUEUE : Field := ⟨R.RAS_LAST_DROP, 19, 16⟩
def RAS_GUARD_COUNT_COUNT : Field := ⟨R.RAS_GUARD_COUNT, 31, 0⟩
def RAS_BAD_DRAW_COUNT : Field := ⟨R.RAS_BAD_DRAW, 31, 0⟩
def RAS_PASS_COUNT_COUNT : Field := ⟨R.RAS_PASS_COUNT, 31, 0⟩

/-! Fields of the VIS block. -/

def VIS_STATUS_BUSY : Field := ⟨R.VIS_STATUS, 3, 0⟩
def VIS_EVENT_FOOTPRINT : Field := ⟨R.VIS_EVENT, 0, 0⟩
def VIS_EVENT_WIN_CLIP : Field := ⟨R.VIS_EVENT, 1, 1⟩
def VIS_EVENT_PARITY : Field := ⟨R.VIS_EVENT, 2, 2⟩
def VIS_FOOT_TILE_TILE : Field := ⟨R.VIS_FOOT_TILE, 15, 0⟩
def VIS_FOOT_TILE_STOP_TAG : Field := ⟨R.VIS_FOOT_TILE, 31, 16⟩
def VIS_DONE_COUNT : Field := ⟨R.VIS_DONE, 31, 0⟩
def VIS_LAST_US_US : Field := ⟨R.VIS_LAST_US, 19, 0⟩

/-! Fields of the CAM block. -/

def CAM_CTRL_EN : Field := ⟨R.CAM_CTRL, 0, 0⟩
def CAM_CTRL_LANES : Field := ⟨R.CAM_CTRL, 2, 1⟩
def CAM_CTRL_CONT_CLK : Field := ⟨R.CAM_CTRL, 3, 3⟩
def CAM_CTRL_VC : Field := ⟨R.CAM_CTRL, 5, 4⟩
def CAM_CTRL_FMT : Field := ⟨R.CAM_CTRL, 7, 6⟩
def CAM_CTRL_PUB_MASK : Field := ⟨R.CAM_CTRL, 10, 8⟩
def CAM_CTRL_SLOTS : Field := ⟨R.CAM_CTRL, 15, 12⟩
def CAM_CTRL_REL_XNG : Field := ⟨R.CAM_CTRL, 25, 16⟩
def CAM_WINDOW_WIDTH : Field := ⟨R.CAM_WINDOW, 11, 0⟩
def CAM_WINDOW_HEIGHT : Field := ⟨R.CAM_WINDOW, 27, 16⟩
def CAM_RING_BASE_BASE : Field := ⟨R.CAM_RING_BASE, 29, 0⟩
def CAM_PITCH_BYTES : Field := ⟨R.CAM_PITCH, 15, 0⟩
def CAM_SLOT_SIZE_BYTES : Field := ⟨R.CAM_SLOT_SIZE, 27, 0⟩
def CAM_REC_BASE_BASE : Field := ⟨R.CAM_REC_BASE, 29, 0⟩
def CAM_MIN_PERIOD_US : Field := ⟨R.CAM_MIN_PERIOD, 19, 0⟩
def CAM_FRAME_TIMEOUT_MS : Field := ⟨R.CAM_FRAME_TIMEOUT, 15, 0⟩
def CAM_STALE_MS : Field := ⟨R.CAM_STALE, 15, 0⟩
def CAM_FREEZE_COUNT : Field := ⟨R.CAM_FREEZE, 7, 0⟩
def CAM_LANE_MAP : Field := ⟨R.CAM_LANE, 7, 0⟩
def CAM_LANE_INVERT : Field := ⟨R.CAM_LANE, 11, 8⟩
def CAM_PHY_CFG_RATE : Field := ⟨R.CAM_PHY_CFG, 11, 0⟩
def CAM_PHY_CFG_DESKEW : Field := ⟨R.CAM_PHY_CFG, 12, 12⟩
def CAM_STATUS_ABSENT : Field := ⟨R.CAM_STATUS, 0, 0⟩
def CAM_STATUS_RUNNING : Field := ⟨R.CAM_STATUS, 1, 1⟩
def CAM_STATUS_STALE : Field := ⟨R.CAM_STATUS, 2, 2⟩
def CAM_STATUS_FROZEN : Field := ⟨R.CAM_STATUS, 3, 3⟩
def CAM_STATUS_IN_FRAME : Field := ⟨R.CAM_STATUS, 4, 4⟩
def CAM_STATUS_SLOT : Field := ⟨R.CAM_STATUS, 7, 5⟩
def CAM_EVENT_FAULT : Field := ⟨R.CAM_EVENT, 10, 0⟩
def CAM_PUBLISHED_COUNT : Field := ⟨R.CAM_PUBLISHED, 31, 0⟩
def CAM_RX_COUNT_COUNT : Field := ⟨R.CAM_RX_COUNT, 31, 0⟩
def CAM_DROP_COUNT_FAST : Field := ⟨R.CAM_DROP_COUNT, 15, 0⟩
def CAM_DROP_COUNT_BUSY : Field := ⟨R.CAM_DROP_COUNT, 31, 16⟩
def CAM_ERR_COUNT_ECC_CORR : Field := ⟨R.CAM_ERR_COUNT, 7, 0⟩
def CAM_ERR_COUNT_ECC_UNCORR : Field := ⟨R.CAM_ERR_COUNT, 15, 8⟩
def CAM_ERR_COUNT_CRC : Field := ⟨R.CAM_ERR_COUNT, 23, 16⟩
def CAM_ERR_COUNT_PHY : Field := ⟨R.CAM_ERR_COUNT, 31, 24⟩
def CAM_BAD_COUNT_TRUNCATED : Field := ⟨R.CAM_BAD_COUNT, 15, 0⟩
def CAM_BAD_COUNT_INCOMPLETE : Field := ⟨R.CAM_BAD_COUNT, 31, 16⟩
def CAM_IGNORED_COUNT_VC : Field := ⟨R.CAM_IGNORED_COUNT, 15, 0⟩
def CAM_IGNORED_COUNT_TYPE : Field := ⟨R.CAM_IGNORED_COUNT, 31, 16⟩
def CAM_LAST_FRAME_NUM_NUM : Field := ⟨R.CAM_LAST_FRAME_NUM, 15, 0⟩

/-! Fields of the RBT block. -/

def RBT_CTRL_MODE : Field := ⟨R.RBT_CTRL, 0, 0⟩
def RBT_CTRL_LOG_EN : Field := ⟨R.RBT_CTRL, 8, 8⟩
def RBT_NOGEN_CLASSES : Field := ⟨R.RBT_NOGEN, 7, 0⟩
def RBT_STATUS_REPLAY : Field := ⟨R.RBT_STATUS, 0, 0⟩
def RBT_STATUS_REPLAY_END : Field := ⟨R.RBT_STATUS, 1, 1⟩
def RBT_STATUS_DIVERGED : Field := ⟨R.RBT_STATUS, 2, 2⟩
def RBT_STATUS_GEN_BUSY : Field := ⟨R.RBT_STATUS, 3, 3⟩
def RBT_STATUS_RELOCATING : Field := ⟨R.RBT_STATUS, 4, 4⟩
def RBT_EVENT_FAULT : Field := ⟨R.RBT_EVENT, 8, 0⟩
def RBT_LOG_BASE_LO_BASE : Field := ⟨R.RBT_LOG_BASE_LO, 31, 16⟩
def RBT_LOG_BASE_HI_BASE : Field := ⟨R.RBT_LOG_BASE_HI, 3, 0⟩
def RBT_LOG_SIZE_SIZE_64K : Field := ⟨R.RBT_LOG_SIZE, 6, 0⟩
def RBT_LOG_SEQ_NEXT : Field := ⟨R.RBT_LOG_SEQ, 31, 0⟩
def RBT_REPLAY_BASE_LO_BASE : Field := ⟨R.RBT_REPLAY_BASE_LO, 31, 6⟩
def RBT_REPLAY_BASE_HI_BASE : Field := ⟨R.RBT_REPLAY_BASE_HI, 3, 0⟩
def RBT_REPLAY_LEN_ENTRIES : Field := ⟨R.RBT_REPLAY_LEN, 23, 0⟩
def RBT_REPLAY_POS_ENTRY : Field := ⟨R.RBT_REPLAY_POS, 23, 0⟩
def RBT_GATE_BASE_LO_BASE : Field := ⟨R.RBT_GATE_BASE_LO, 31, 6⟩
def RBT_GATE_BASE_HI_BASE : Field := ⟨R.RBT_GATE_BASE_HI, 3, 0⟩
def RBT_GATE_COUNT_COUNT : Field := ⟨R.RBT_GATE_COUNT, 4, 0⟩
def RBT_TRK_CFG_EN : Field := ⟨R.RBT_TRK_CFG, 0, 0⟩
def RBT_TRK_CFG_MODE : Field := ⟨R.RBT_TRK_CFG, 1, 1⟩
def RBT_TRK_CFG_GEN_EN : Field := ⟨R.RBT_TRK_CFG, 2, 2⟩
def RBT_TRK_CFG_LATE_EN : Field := ⟨R.RBT_TRK_CFG, 3, 3⟩
def RBT_TRK_CFG_PRESENT : Field := ⟨R.RBT_TRK_CFG, 4, 4⟩
def RBT_TRK_CFG_STANDS : Field := ⟨R.RBT_TRK_CFG, 11, 8⟩
def RBT_TRK_BASE_LO_BASE : Field := ⟨R.RBT_TRK_BASE_LO, 31, 12⟩
def RBT_TRK_BASE_HI_BASE : Field := ⟨R.RBT_TRK_BASE_HI, 3, 0⟩
def RBT_TRK_STRIDE_STRIDE_4K : Field := ⟨R.RBT_TRK_STRIDE, 19, 0⟩
def RBT_TRK_STATE_SHOWN : Field := ⟨R.RBT_TRK_STATE, 3, 0⟩
def RBT_TRK_STATE_PENDING : Field := ⟨R.RBT_TRK_STATE, 11, 4⟩
def RBT_TRK_STATE_CHOICE : Field := ⟨R.RBT_TRK_STATE, 14, 12⟩
def RBT_TRK_SHOWN_PN_PN : Field := ⟨R.RBT_TRK_SHOWN_PN, 31, 0⟩
def RBT_TRK_MARGIN_US : Field := ⟨R.RBT_TRK_MARGIN, 23, 0⟩
def RBT_CNT_FRESH_COUNT : Field := ⟨R.RBT_CNT_FRESH, 31, 0⟩
def RBT_CNT_GEN_COUNT : Field := ⟨R.RBT_CNT_GEN, 31, 0⟩
def RBT_CNT_REPEAT_COUNT : Field := ⟨R.RBT_CNT_REPEAT, 31, 0⟩
def RBT_CNT_MISS_MISS : Field := ⟨R.RBT_CNT_MISS, 15, 0⟩
def RBT_CNT_MISS_NONE : Field := ⟨R.RBT_CNT_MISS, 31, 16⟩
def RBT_GATE_ITER_P : Field := ⟨R.RBT_GATE_ITER, 31, 0⟩
def RBT_GATE_SUBST_COUNT : Field := ⟨R.RBT_GATE_SUBST, 31, 0⟩

/-! Fields of the SCO block. -/

def SCO_CTRL_EN_A : Field := ⟨R.SCO_CTRL, 0, 0⟩
def SCO_CTRL_EN_B : Field := ⟨R.SCO_CTRL, 1, 1⟩
def SCO_H_TIM_HACT : Field := ⟨R.SCO_H_TIM, 11, 0⟩
def SCO_H_TIM_HTOTAL : Field := ⟨R.SCO_H_TIM, 27, 16⟩
def SCO_H_SYNC_HSYNC : Field := ⟨R.SCO_H_SYNC, 9, 0⟩
def SCO_H_SYNC_HBP : Field := ⟨R.SCO_H_SYNC, 25, 16⟩
def SCO_V_TIM_VACT : Field := ⟨R.SCO_V_TIM, 10, 0⟩
def SCO_V_TIM_VTOTAL : Field := ⟨R.SCO_V_TIM, 27, 16⟩
def SCO_V_SYNC_VSYNC : Field := ⟨R.SCO_V_SYNC, 7, 0⟩
def SCO_V_SYNC_VBP : Field := ⟨R.SCO_V_SYNC, 23, 16⟩
def SCO_PCLK_KHZ : Field := ⟨R.SCO_PCLK, 17, 0⟩
def SCO_TE_EDGE_A : Field := ⟨R.SCO_TE, 0, 0⟩
def SCO_TE_EDGE_B : Field := ⟨R.SCO_TE, 1, 1⟩
def SCO_STATUS_RUN_A : Field := ⟨R.SCO_STATUS, 0, 0⟩
def SCO_STATUS_RUN_B : Field := ⟨R.SCO_STATUS, 1, 1⟩
def SCO_STATUS_FREERUN : Field := ⟨R.SCO_STATUS, 2, 2⟩
def SCO_STATUS_GEN_RUN : Field := ⟨R.SCO_STATUS, 3, 3⟩
def SCO_STATUS_PHASE_A : Field := ⟨R.SCO_STATUS, 5, 4⟩
def SCO_STATUS_PHASE_B : Field := ⟨R.SCO_STATUS, 7, 6⟩
def SCO_STATUS_LINE : Field := ⟨R.SCO_STATUS, 27, 16⟩
def SCO_EVENT_FAULT : Field := ⟨R.SCO_EVENT, 6, 0⟩
def SCO_FRAME_COUNT : Field := ⟨R.SCO_FRAME, 31, 0⟩
def SCO_UNDERRUN_COUNT_A : Field := ⟨R.SCO_UNDERRUN_COUNT, 15, 0⟩
def SCO_UNDERRUN_COUNT_B : Field := ⟨R.SCO_UNDERRUN_COUNT, 31, 16⟩
def SCO_TE_COUNT_SKEW : Field := ⟨R.SCO_TE_COUNT, 15, 0⟩
def SCO_TE_COUNT_EARLY : Field := ⟨R.SCO_TE_COUNT, 31, 16⟩
def SCO_TE_LAST_SKEW_PCLK : Field := ⟨R.SCO_TE_LAST_SKEW, 15, 0⟩
def SCO_FREERUN_COUNT_COUNT : Field := ⟨R.SCO_FREERUN_COUNT, 31, 0⟩
def SCO_OUT_CFG_IFACE : Field := ⟨R.SCO_OUT_CFG, 1, 0⟩
def SCO_OUT_CFG_VIDMODE : Field := ⟨R.SCO_OUT_CFG, 3, 2⟩
def SCO_OUT_CFG_PIXFMT : Field := ⟨R.SCO_OUT_CFG, 5, 4⟩
def SCO_OUT_CFG_LVDS_MAP : Field := ⟨R.SCO_OUT_CFG, 6, 6⟩
def SCO_OUT_CFG_RANGE : Field := ⟨R.SCO_OUT_CFG, 7, 7⟩
def SCO_OUT_CFG_LANES : Field := ⟨R.SCO_OUT_CFG, 9, 8⟩
def SCO_OUT_CFG_EOTP : Field := ⟨R.SCO_OUT_CFG, 10, 10⟩
def SCO_OUT_CFG_CONT_CLK : Field := ⟨R.SCO_OUT_CFG, 11, 11⟩
def SCO_OUT_CFG_VC : Field := ⟨R.SCO_OUT_CFG, 13, 12⟩
def SCO_OUT_CFG_HS_POL : Field := ⟨R.SCO_OUT_CFG, 14, 14⟩
def SCO_OUT_CFG_VS_POL : Field := ⟨R.SCO_OUT_CFG, 15, 15⟩
def SCO_OUT_CFG_DE_POL : Field := ⟨R.SCO_OUT_CFG, 16, 16⟩
def SCO_OUT_CFG_BL_SINKS : Field := ⟨R.SCO_OUT_CFG, 20, 17⟩
def SCO_OUT_CFG_FETCH : Field := ⟨R.SCO_OUT_CFG, 21, 21⟩
def SCO_DPHY_RATE : Field := ⟨R.SCO_DPHY, 11, 0⟩
def SCO_LINES_DLINE : Field := ⟨R.SCO_LINES, 11, 0⟩
def SCO_LINES_CLINE : Field := ⟨R.SCO_LINES, 27, 16⟩
def SCO_BG_RGB : Field := ⟨R.SCO_BG, 23, 0⟩
def SCO_UNDERRUN_COLOUR_RGB : Field := ⟨R.SCO_UNDERRUN_COLOUR, 23, 0⟩
def SCO_POISON_COLOUR_RGB : Field := ⟨R.SCO_POISON_COLOUR, 23, 0⟩
def SCO_STALE_COLOUR : Field := ⟨R.SCO_STALE, 23, 0⟩
def SCO_STALE_CAM_FILL : Field := ⟨R.SCO_STALE, 24, 24⟩
def SCO_STALE_OVL_HIDE : Field := ⟨R.SCO_STALE, 25, 25⟩
def SCO_PL_CFG_EN : Field := ⟨R.SCO_PL_CFG, 0, 0⟩
def SCO_PL_CFG_FMT : Field := ⟨R.SCO_PL_CFG, 2, 1⟩
def SCO_PL_CFG_GA : Field := ⟨R.SCO_PL_CFG, 15, 8⟩
def SCO_PL_POS_X : Field := ⟨R.SCO_PL_POS, 11, 0⟩
def SCO_PL_POS_Y : Field := ⟨R.SCO_PL_POS, 27, 16⟩
def SCO_PL_SIZE_W : Field := ⟨R.SCO_PL_SIZE, 11, 0⟩
def SCO_PL_SIZE_H : Field := ⟨R.SCO_PL_SIZE, 27, 16⟩
def SCO_PL_PITCH_BYTES : Field := ⟨R.SCO_PL_PITCH, 17, 0⟩
def SCO_FIFO_AHEAD : Field := ⟨R.SCO_FIFO, 7, 0⟩
def SCO_FIFO_MIN : Field := ⟨R.SCO_FIFO, 15, 8⟩
def SCO_PANEL_SEQ_DCS : Field := ⟨R.SCO_PANEL_SEQ, 0, 0⟩
def SCO_PANEL_SEQ_T_EN : Field := ⟨R.SCO_PANEL_SEQ, 15, 8⟩
def SCO_PANEL_SEQ_T_RST : Field := ⟨R.SCO_PANEL_SEQ, 23, 16⟩
def SCO_PANEL_SEQ_T_SLEEP : Field := ⟨R.SCO_PANEL_SEQ, 31, 24⟩
def SCO_PANEL_PINS_EN : Field := ⟨R.SCO_PANEL_PINS, 0, 0⟩
def SCO_PANEL_PINS_RST : Field := ⟨R.SCO_PANEL_PINS, 1, 1⟩
def SCO_DSI_TX_HDR_DT : Field := ⟨R.SCO_DSI_TX_HDR, 7, 0⟩
def SCO_DSI_TX_HDR_LEN : Field := ⟨R.SCO_DSI_TX_HDR, 14, 8⟩
def SCO_DSI_TX_GO_GO : Field := ⟨R.SCO_DSI_TX_GO, 0, 0⟩
def SCO_DSI_TX_STATUS_BUSY : Field := ⟨R.SCO_DSI_TX_STATUS, 0, 0⟩
def SCO_DSI_TX_STATUS_ERR : Field := ⟨R.SCO_DSI_TX_STATUS, 1, 1⟩
def SCO_DSI_TX_DATA_DATA : Field := ⟨R.SCO_DSI_TX_DATA, 31, 0⟩

/-! Fields of the SGN block. -/

def SGN_CTRL_EN : Field := ⟨R.SGN_CTRL, 0, 0⟩
def SGN_CTRL_PROVE_FRAMES : Field := ⟨R.SGN_CTRL, 15, 8⟩
def SGN_CTRL_SLOW_HALF : Field := ⟨R.SGN_CTRL, 23, 16⟩
def SGN_CTRL_FAST_HALF : Field := ⟨R.SGN_CTRL, 31, 24⟩
def SGN_STATUS_ENABLED : Field := ⟨R.SGN_STATUS, 6, 0⟩
def SGN_STATUS_PROVING : Field := ⟨R.SGN_STATUS, 7, 7⟩
def SGN_STATUS_LAST_FAIL : Field := ⟨R.SGN_STATUS, 13, 8⟩
def SGN_EVENT_FAULT : Field := ⟨R.SGN_EVENT, 4, 0⟩
def SGN_FAIL_LO_FAIL : Field := ⟨R.SGN_FAIL_LO, 31, 0⟩
def SGN_FAIL_HI_FAIL : Field := ⟨R.SGN_FAIL_HI, 31, 0⟩
def SGN_CHECK_COUNT_MISMATCH : Field := ⟨R.SGN_CHECK_COUNT, 15, 0⟩
def SGN_CHECK_COUNT_SKIPPED : Field := ⟨R.SGN_CHECK_COUNT, 31, 16⟩
def SGN_ECC_COUNT_CE : Field := ⟨R.SGN_ECC_COUNT, 15, 0⟩
def SGN_ECC_COUNT_UE : Field := ⟨R.SGN_ECC_COUNT, 31, 16⟩
def SGN_SRAM_ADDR_WORD : Field := ⟨R.SGN_SRAM_ADDR, 17, 2⟩
def SGN_SRAM_DATA_DATA : Field := ⟨R.SGN_SRAM_DATA, 31, 0⟩
def SGN_STATE_C_STATE_C : Field := ⟨R.SGN_STATE_C, 31, 0⟩
def SGN_PAL_RGB : Field := ⟨R.SGN_PAL, 23, 0⟩
def SGN_ICON_POS_X : Field := ⟨R.SGN_ICON_POS, 11, 0⟩
def SGN_ICON_POS_Y : Field := ⟨R.SGN_ICON_POS, 27, 16⟩
def SGN_ICON_POS_PROVE : Field := ⟨R.SGN_ICON_POS, 28, 28⟩
def SGN_ICON_POS_OUT : Field := ⟨R.SGN_ICON_POS, 30, 30⟩
def SGN_ICON_POS_EN : Field := ⟨R.SGN_ICON_POS, 31, 31⟩
def SGN_ICON_FMT_W_M1 : Field := ⟨R.SGN_ICON_FMT, 5, 0⟩
def SGN_ICON_FMT_H_M1 : Field := ⟨R.SGN_ICON_FMT, 13, 8⟩
def SGN_ICON_CRC_ON_CRC : Field := ⟨R.SGN_ICON_CRC_ON, 31, 0⟩
def SGN_ICON_CRC_OFF_CRC : Field := ⟨R.SGN_ICON_CRC_OFF, 31, 0⟩

/-! Fields of the HVS block. -/

def HVS_CTRL_BOOST_EN : Field := ⟨R.HVS_CTRL, 0, 0⟩
def HVS_CTRL_SPREAD : Field := ⟨R.HVS_CTRL, 1, 1⟩
def HVS_CTRL_BL_ON_DELAY : Field := ⟨R.HVS_CTRL, 15, 8⟩
def HVS_CTRL_LINK_HOLD : Field := ⟨R.HVS_CTRL, 23, 16⟩
def HVS_BOOST_CFG_FREQ : Field := ⟨R.HVS_BOOST_CFG, 5, 0⟩
def HVS_BOOST_CFG_SS_MS : Field := ⟨R.HVS_BOOST_CFG, 11, 8⟩
def HVS_BOOST_CFG_HEADROOM : Field := ⟨R.HVS_BOOST_CFG, 23, 16⟩
def HVS_VBAT_LIM_UV : Field := ⟨R.HVS_VBAT_LIM, 9, 0⟩
def HVS_VBAT_LIM_OV : Field := ⟨R.HVS_VBAT_LIM, 25, 16⟩
def HVS_PWM_FREQ : Field := ⟨R.HVS_PWM, 14, 0⟩
def HVS_SINK_CODE : Field := ⟨R.HVS_SINK, 9, 0⟩
def HVS_SINK_RANGE : Field := ⟨R.HVS_SINK, 12, 12⟩
def HVS_SINK_EN : Field := ⟨R.HVS_SINK, 13, 13⟩
def HVS_SINK_PHASE : Field := ⟨R.HVS_SINK, 23, 16⟩
def HVS_DUTY_DUTY : Field := ⟨R.HVS_DUTY, 15, 0⟩
def HVS_NTC_CFG_EN : Field := ⟨R.HVS_NTC_CFG, 0, 0⟩
def HVS_NTC_CFG_SINKS : Field := ⟨R.HVS_NTC_CFG, 4, 1⟩
def HVS_NTC_CFG_MIN_PCT : Field := ⟨R.HVS_NTC_CFG, 14, 8⟩
def HVS_NTC_THR_START : Field := ⟨R.HVS_NTC_THR, 11, 0⟩
def HVS_NTC_THR_FULL : Field := ⟨R.HVS_NTC_THR, 27, 16⟩
def HVS_DERATE_BREAK_PCT : Field := ⟨R.HVS_DERATE, 6, 0⟩
def HVS_STATUS_IGN : Field := ⟨R.HVS_STATUS, 0, 0⟩
def HVS_STATUS_LINK_LOST : Field := ⟨R.HVS_STATUS, 1, 1⟩
def HVS_STATUS_SAFE : Field := ⟨R.HVS_STATUS, 2, 2⟩
def HVS_STATUS_BOOST : Field := ⟨R.HVS_STATUS, 4, 3⟩
def HVS_STATUS_VBAT_OK : Field := ⟨R.HVS_STATUS, 5, 5⟩
def HVS_STATUS_RETRIES : Field := ⟨R.HVS_STATUS, 7, 6⟩
def HVS_EVENT_FAULT : Field := ⟨R.HVS_EVENT, 10, 0⟩
def HVS_EVENT_CLAMP : Field := ⟨R.HVS_EVENT, 16, 16⟩
def HVS_VBAT_CODE : Field := ⟨R.HVS_VBAT, 11, 0⟩
def HVS_VBAT_MV : Field := ⟨R.HVS_VBAT, 31, 16⟩
def HVS_BOOST_FB_TARGET_MV : Field := ⟨R.HVS_BOOST_FB, 10, 0⟩
def HVS_NTC_VALUE : Field := ⟨R.HVS_NTC, 11, 0⟩
def HVS_NTC_LAST_A : Field := ⟨R.HVS_NTC, 23, 12⟩
def HVS_NTC_STATE : Field := ⟨R.HVS_NTC, 25, 24⟩
def HVS_NTC_BAD_RUN : Field := ⟨R.HVS_NTC, 29, 26⟩
def HVS_NTC_CLASS : Field := ⟨R.HVS_NTC, 31, 30⟩
def HVS_SINK_STAT_DUTY_EFF : Field := ⟨R.HVS_SINK_STAT, 15, 0⟩
def HVS_SINK_STAT_PCT : Field := ⟨R.HVS_SINK_STAT, 22, 16⟩
def HVS_SINK_STAT_OPEN : Field := ⟨R.HVS_SINK_STAT, 24, 24⟩
def HVS_SINK_STAT_SHORT : Field := ⟨R.HVS_SINK_STAT, 25, 25⟩
def HVS_SINK_STAT_GATED_ON : Field := ⟨R.HVS_SINK_STAT, 26, 26⟩
def HVS_SINK_STAT_SETTLING : Field := ⟨R.HVS_SINK_STAT, 27, 27⟩
def HVS_XING_COUNT_MISMATCH : Field := ⟨R.HVS_XING_COUNT, 15, 0⟩
def HVS_XING_COUNT_RESEND : Field := ⟨R.HVS_XING_COUNT, 31, 16⟩
def HVS_BOOST_COUNT_FAULTS : Field := ⟨R.HVS_BOOST_COUNT, 15, 0⟩
def HVS_BOOST_COUNT_OVP : Field := ⟨R.HVS_BOOST_COUNT, 31, 16⟩
def HVS_CMD_CMD : Field := ⟨R.HVS_CMD, 7, 0⟩

/-! Fields of the CAN0 and CAN1 block. -/

def CAN_CTRL_EN : Field := ⟨R.CAN_CTRL, 0, 0⟩
def CAN_CTRL_FD : Field := ⟨R.CAN_CTRL, 1, 1⟩
def CAN_CTRL_LISTEN : Field := ⟨R.CAN_CTRL, 2, 2⟩
def CAN_CTRL_BRS : Field := ⟨R.CAN_CTRL, 3, 3⟩
def CAN_CTRL_TDC : Field := ⟨R.CAN_CTRL, 4, 4⟩
def CAN_NBT_PRESC_M1 : Field := ⟨R.CAN_NBT, 7, 0⟩
def CAN_NBT_TSEG1_M1 : Field := ⟨R.CAN_NBT, 15, 8⟩
def CAN_NBT_TSEG2_M1 : Field := ⟨R.CAN_NBT, 22, 16⟩
def CAN_NBT_SJW_M1 : Field := ⟨R.CAN_NBT, 30, 24⟩
def CAN_DBT_PRESC_M1 : Field := ⟨R.CAN_DBT, 4, 0⟩
def CAN_DBT_TSEG1_M1 : Field := ⟨R.CAN_DBT, 13, 8⟩
def CAN_DBT_TSEG2_M1 : Field := ⟨R.CAN_DBT, 20, 16⟩
def CAN_DBT_SJW_M1 : Field := ⟨R.CAN_DBT, 28, 24⟩
def CAN_GSP_ID_ID : Field := ⟨R.CAN_GSP_ID, 28, 0⟩
def CAN_GSP_ID_EXT : Field := ⟨R.CAN_GSP_ID, 29, 29⟩
def CAN_GSP_ID_EN : Field := ⟨R.CAN_GSP_ID, 31, 31⟩
def CAN_GSP_RSP_ID : Field := ⟨R.CAN_GSP_RSP, 28, 0⟩
def CAN_GSP_RSP_EXT : Field := ⟨R.CAN_GSP_RSP, 29, 29⟩
def CAN_STATUS_STATE : Field := ⟨R.CAN_STATUS, 1, 0⟩
def CAN_STATUS_TEC : Field := ⟨R.CAN_STATUS, 15, 8⟩
def CAN_STATUS_REC : Field := ⟨R.CAN_STATUS, 23, 16⟩
def CAN_EVENT_FAULT : Field := ⟨R.CAN_EVENT, 7, 0⟩
def CAN_RX_COUNT_FRAMES : Field := ⟨R.CAN_RX_COUNT, 15, 0⟩
def CAN_RX_COUNT_IGNORED : Field := ⟨R.CAN_RX_COUNT, 31, 16⟩
def CAN_ERR_COUNT_BUS_OFF : Field := ⟨R.CAN_ERR_COUNT, 15, 0⟩
def CAN_ERR_COUNT_TX_ABANDON : Field := ⟨R.CAN_ERR_COUNT, 31, 16⟩

/-! Fields of the SVC block. -/

def SVC_STATUS_INTAKE_RUN : Field := ⟨R.SVC_STATUS, 0, 0⟩
def SVC_STATUS_MOVING : Field := ⟨R.SVC_STATUS, 1, 1⟩
def SVC_STATUS_IJ_FULL : Field := ⟨R.SVC_STATUS, 2, 2⟩
def SVC_STATUS_CJ_FULL : Field := ⟨R.SVC_STATUS, 3, 3⟩
def SVC_EVENT_FAULT : Field := ⟨R.SVC_EVENT, 6, 0⟩
def SVC_PORTS_UART_EN : Field := ⟨R.SVC_PORTS, 0, 0⟩
def SVC_PORTS_SPI_EN : Field := ⟨R.SVC_PORTS, 1, 1⟩
def SVC_PORTS_RATE : Field := ⟨R.SVC_PORTS, 15, 8⟩
def SVC_UART_DIV : Field := ⟨R.SVC_UART, 15, 0⟩
def SVC_INTERLOCK_EN : Field := ⟨R.SVC_INTERLOCK, 0, 0⟩
def SVC_INTERLOCK_CLASSES : Field := ⟨R.SVC_INTERLOCK, 15, 8⟩
def SVC_INTERLOCK_SPEED_SIG : Field := ⟨R.SVC_INTERLOCK, 21, 16⟩
def SVC_INTERLOCK_HOLD_S : Field := ⟨R.SVC_INTERLOCK, 31, 24⟩
def SVC_STATUS_MSG_ID : Field := ⟨R.SVC_STATUS_MSG, 28, 0⟩
def SVC_STATUS_MSG_EXT : Field := ⟨R.SVC_STATUS_MSG, 29, 29⟩
def SVC_STATUS_MSG_CTRL : Field := ⟨R.SVC_STATUS_MSG, 31, 30⟩
def SVC_INTAKE_USED_LIVE : Field := ⟨R.SVC_INTAKE_USED, 8, 0⟩
def SVC_INTAKE_USED_FREE : Field := ⟨R.SVC_INTAKE_USED, 24, 16⟩
def SVC_ISEQ_NEXT : Field := ⟨R.SVC_ISEQ, 31, 0⟩
def SVC_SNAP_SEQ_SEQ : Field := ⟨R.SVC_SNAP_SEQ, 31, 0⟩
def SVC_CJ_NEXT_NO : Field := ⟨R.SVC_CJ_NEXT, 31, 0⟩
def SVC_CJ_UNMIRRORED_COUNT : Field := ⟨R.SVC_CJ_UNMIRRORED, 7, 0⟩
def SVC_CJ_HASH_LO_HASH : Field := ⟨R.SVC_CJ_HASH_LO, 31, 0⟩
def SVC_CJ_HASH_HI_HASH : Field := ⟨R.SVC_CJ_HASH_HI, 31, 0⟩
def SVC_GSP_COUNT_DONE : Field := ⟨R.SVC_GSP_COUNT, 15, 0⟩
def SVC_GSP_COUNT_REFUSED : Field := ⟨R.SVC_GSP_COUNT, 31, 16⟩
def SVC_DISCARD_COUNT_COUNT : Field := ⟨R.SVC_DISCARD_COUNT, 31, 0⟩
def SVC_CONS_A_STOP_TAG : Field := ⟨R.SVC_CONS_A, 15, 0⟩
def SVC_CONS_A_ROUTE : Field := ⟨R.SVC_CONS_A, 23, 16⟩
def SVC_CONS_A_GATE : Field := ⟨R.SVC_CONS_A, 27, 24⟩
def SVC_CONS_B_SECT_ID : Field := ⟨R.SVC_CONS_B, 15, 0⟩
def SVC_CONS_B_SIGNAL : Field := ⟨R.SVC_CONS_B, 21, 16⟩
def SVC_CONS_B_EN : Field := ⟨R.SVC_CONS_B, 31, 31⟩
def SVC_SIG_ID_ID : Field := ⟨R.SVC_SIG_ID, 28, 0⟩
def SVC_SIG_ID_EXT : Field := ⟨R.SVC_SIG_ID, 29, 29⟩
def SVC_SIG_ID_CTRL : Field := ⟨R.SVC_SIG_ID, 30, 30⟩
def SVC_SIG_ID_EN : Field := ⟨R.SVC_SIG_ID, 31, 31⟩
def SVC_SIG_FMT_START : Field := ⟨R.SVC_SIG_FMT, 9, 0⟩
def SVC_SIG_FMT_LEN_M1 : Field := ⟨R.SVC_SIG_FMT, 15, 10⟩
def SVC_SIG_FMT_SIGNED : Field := ⟨R.SVC_SIG_FMT, 16, 16⟩
def SVC_SIG_FMT_KIND : Field := ⟨R.SVC_SIG_FMT, 18, 17⟩
def SVC_SIG_FMT_CRC_EN : Field := ⟨R.SVC_SIG_FMT, 19, 19⟩
def SVC_SIG_FMT_ALIVE_EN : Field := ⟨R.SVC_SIG_FMT, 20, 20⟩
def SVC_SIG_FMT_ICON : Field := ⟨R.SVC_SIG_FMT, 26, 21⟩
def SVC_SIG_FMT_WAKE : Field := ⟨R.SVC_SIG_FMT, 27, 27⟩
def SVC_SIG_MIN_MIN : Field := ⟨R.SVC_SIG_MIN, 31, 0⟩
def SVC_SIG_MAX_MAX : Field := ⟨R.SVC_SIG_MAX, 31, 0⟩
def SVC_SIG_TIM_MIN_INT : Field := ⟨R.SVC_SIG_TIM, 15, 0⟩
def SVC_SIG_TIM_STALE : Field := ⟨R.SVC_SIG_TIM, 31, 16⟩
def SVC_SIG_STAT_CRC : Field := ⟨R.SVC_SIG_STAT, 7, 0⟩
def SVC_SIG_STAT_PLAUS : Field := ⟨R.SVC_SIG_STAT, 15, 8⟩
def SVC_SIG_STAT_RATE : Field := ⟨R.SVC_SIG_STAT, 23, 16⟩
def SVC_SIG_STAT_SKIP : Field := ⟨R.SVC_SIG_STAT, 31, 24⟩

/-! Fields of the I2C block. -/

def I2C_CFG_SPEED : Field := ⟨R.I2C_CFG, 1, 0⟩
def I2C_XFER_ADDR : Field := ⟨R.I2C_XFER, 6, 0⟩
def I2C_XFER_READ : Field := ⟨R.I2C_XFER, 7, 7⟩
def I2C_XFER_COUNT_M1 : Field := ⟨R.I2C_XFER, 9, 8⟩
def I2C_XFER_REG_WIDTH : Field := ⟨R.I2C_XFER, 11, 10⟩
def I2C_XFER_REG : Field := ⟨R.I2C_XFER, 31, 16⟩
def I2C_DATA_DATA : Field := ⟨R.I2C_DATA, 31, 0⟩
def I2C_STATUS_BUSY : Field := ⟨R.I2C_STATUS, 0, 0⟩
def I2C_STATUS_NACK : Field := ⟨R.I2C_STATUS, 1, 1⟩
def I2C_STATUS_FAIL : Field := ⟨R.I2C_STATUS, 2, 2⟩

/-! Fields of the GPIO block. -/

def GPIO_DIR_OUT : Field := ⟨R.GPIO_DIR, 23, 0⟩
def GPIO_OUT_LEVEL : Field := ⟨R.GPIO_OUT, 23, 0⟩
def GPIO_IN_LEVEL : Field := ⟨R.GPIO_IN, 23, 0⟩
def GPIO_PULL_EN : Field := ⟨R.GPIO_PULL, 23, 0⟩
def GPIO_PULL_DIR_UP : Field := ⟨R.GPIO_PULL_DIR, 23, 0⟩

/-! Fields of the BRG block. -/

def BRG_CTRL_EN : Field := ⟨R.BRG_CTRL, 0, 0⟩
def BRG_CTRL_ONE_LANE_ONLY : Field := ⟨R.BRG_CTRL, 1, 1⟩
def BRG_CTRL_FOLLOW : Field := ⟨R.BRG_CTRL, 2, 2⟩
def BRG_CTRL_WAIT_MS : Field := ⟨R.BRG_CTRL, 31, 16⟩
def BRG_MBX_BASE_PFN : Field := ⟨R.BRG_MBX_BASE, 23, 0⟩
def BRG_MBX_SIZE_PAGES : Field := ⟨R.BRG_MBX_SIZE, 15, 0⟩
def BRG_MBX_RATE_REQS : Field := ⟨R.BRG_MBX_RATE, 7, 0⟩
def BRG_MBX_RATE_SUB_EN : Field := ⟨R.BRG_MBX_RATE, 8, 8⟩
def BRG_XSIG_EXPORT_BASE : Field := ⟨R.BRG_XSIG, 9, 0⟩
def BRG_XSIG_IMPORT_BASE : Field := ⟨R.BRG_XSIG, 25, 16⟩
def BRG_XSIG_EN : Field := ⟨R.BRG_XSIG, 31, 31⟩
def BRG_SUB_SIGS_LO_SIGS : Field := ⟨R.BRG_SUB_SIGS_LO, 31, 0⟩
def BRG_SUB_SIGS_HI_SIGS : Field := ⟨R.BRG_SUB_SIGS_HI, 31, 0⟩
def BRG_TOKEN_TERM_TICKS : Field := ⟨R.BRG_TOKEN_TERM, 23, 0⟩
def BRG_CMD_CMD : Field := ⟨R.BRG_CMD, 7, 0⟩
def BRG_STATUS_STATE : Field := ⟨R.BRG_STATUS, 3, 0⟩
def BRG_STATUS_ONE_LANE : Field := ⟨R.BRG_STATUS, 4, 4⟩
def BRG_STATUS_PARTNER_ROLE : Field := ⟨R.BRG_STATUS, 6, 5⟩
def BRG_STATUS_PARTNER_BOOTING : Field := ⟨R.BRG_STATUS, 7, 7⟩
def BRG_STATUS_SAME_ROLE : Field := ⟨R.BRG_STATUS, 8, 8⟩
def BRG_STATUS_BUILD_DIFF : Field := ⟨R.BRG_STATUS, 9, 9⟩
def BRG_STATUS_PART_DIFF : Field := ⟨R.BRG_STATUS, 10, 10⟩
def BRG_EVENT_FAULT : Field := ⟨R.BRG_EVENT, 11, 0⟩
def BRG_PARTNER_BUILD_LO_BUILD : Field := ⟨R.BRG_PARTNER_BUILD_LO, 31, 0⟩
def BRG_PARTNER_BUILD_HI_BUILD : Field := ⟨R.BRG_PARTNER_BUILD_HI, 31, 0⟩
def BRG_REPLAY_COUNT_COUNT : Field := ⟨R.BRG_REPLAY_COUNT, 31, 0⟩
def BRG_REMOTE_REFUSED_BOUNDS : Field := ⟨R.BRG_REMOTE_REFUSED, 15, 0⟩
def BRG_REMOTE_REFUSED_RATE : Field := ⟨R.BRG_REMOTE_REFUSED, 31, 16⟩
def BRG_SUB_COUNT_ACCEPTED : Field := ⟨R.BRG_SUB_COUNT, 15, 0⟩
def BRG_SUB_COUNT_REFUSED : Field := ⟨R.BRG_SUB_COUNT, 31, 16⟩
def BRG_RESET_REQ_COUNT_HONOURED : Field := ⟨R.BRG_RESET_REQ_COUNT, 15, 0⟩
def BRG_RESET_REQ_COUNT_IGNORED : Field := ⟨R.BRG_RESET_REQ_COUNT, 31, 16⟩
def BRG_ABSENT_TICK_TICK : Field := ⟨R.BRG_ABSENT_TICK, 31, 0⟩
def BRG_KEY_KEY : Field := ⟨R.BRG_KEY, 31, 0⟩

/-! Fields of the DDR block. -/

def DDR_STATUS_PRESENT : Field := ⟨R.DDR_STATUS, 0, 0⟩
def DDR_STATUS_TRAINED : Field := ⟨R.DDR_STATUS, 1, 1⟩
def DDR_STATUS_RATE : Field := ⟨R.DDR_STATUS, 4, 2⟩
def DDR_STATUS_RANKS2 : Field := ⟨R.DDR_STATUS, 5, 5⟩
def DDR_STATUS_REF_MULT : Field := ⟨R.DDR_STATUS, 7, 6⟩
def DDR_STATUS_MR4_RATE : Field := ⟨R.DDR_STATUS, 10, 8⟩
def DDR_SIZE_MIB : Field := ⟨R.DDR_SIZE, 15, 0⟩
def DDR_EVENT_CE : Field := ⟨R.DDR_EVENT, 0, 0⟩
def DDR_EVENT_UE : Field := ⟨R.DDR_EVENT, 1, 1⟩
def DDR_EVENT_TRAIN_FAIL : Field := ⟨R.DDR_EVENT, 2, 2⟩
def DDR_EVENT_RATE_DOWN : Field := ⟨R.DDR_EVENT, 3, 3⟩
def DDR_EVENT_TEMP_HIGH : Field := ⟨R.DDR_EVENT, 4, 4⟩
def DDR_ERR_COUNT_CE : Field := ⟨R.DDR_ERR_COUNT, 15, 0⟩
def DDR_ERR_COUNT_UE : Field := ⟨R.DDR_ERR_COUNT, 31, 16⟩
def DDR_UE_ADDR_LO_ADDR : Field := ⟨R.DDR_UE_ADDR_LO, 31, 3⟩
def DDR_UE_ADDR_HI_ADDR : Field := ⟨R.DDR_UE_ADDR_HI, 3, 0⟩
def DDR_UE_ADDR_HI_VALID : Field := ⟨R.DDR_UE_ADDR_HI, 31, 31⟩
def DDR_TRAIN_TIME_US : Field := ⟨R.DDR_TRAIN_TIME, 31, 0⟩
def DDR_BLUE_LAT_MAX_NS : Field := ⟨R.DDR_BLUE_LAT_MAX, 15, 0⟩

/-! Fields of the RCL block. -/

def RCL_STATUS_PAIR_OK : Field := ⟨R.RCL_STATUS, 0, 0⟩
def RCL_STATUS_RECOVERING : Field := ⟨R.RCL_STATUS, 1, 1⟩
def RCL_STATUS_PENDING : Field := ⟨R.RCL_STATUS, 5, 2⟩
def RCL_STATUS_RING_WRAP : Field := ⟨R.RCL_STATUS, 6, 6⟩
def RCL_STATUS_DETOUR : Field := ⟨R.RCL_STATUS, 7, 7⟩
def RCL_STATUS_UNIT : Field := ⟨R.RCL_STATUS, 14, 8⟩
def RCL_STATUS_FAULTN : Field := ⟨R.RCL_STATUS, 16, 16⟩
def RCL_EVENT_FAULT : Field := ⟨R.RCL_EVENT, 10, 0⟩
def RCL_CTRL_RETIRE_EN : Field := ⟨R.RCL_CTRL, 0, 0⟩
def RCL_CTRL_UNIT_TERM : Field := ⟨R.RCL_CTRL, 15, 8⟩
def RCL_CTRL_ESC_LIMIT : Field := ⟨R.RCL_CTRL, 19, 16⟩
def RCL_CTRL_ESC_WINDOW : Field := ⟨R.RCL_CTRL, 31, 24⟩
def RCL_FAULTN_CODE_CODE : Field := ⟨R.RCL_FAULTN_CODE, 15, 0⟩
def RCL_FAULTN_CODE_EN : Field := ⟨R.RCL_FAULTN_CODE, 31, 31⟩
def RCL_FAULTN_LATCH_LATCH : Field := ⟨R.RCL_FAULTN_LATCH, 7, 0⟩
def RCL_FAULTN_CAUSE_COND : Field := ⟨R.RCL_FAULTN_CAUSE, 10, 0⟩
def RCL_RING_SEQ_NEXT : Field := ⟨R.RCL_RING_SEQ, 31, 0⟩
def RCL_RECOVER_COUNT_DONE : Field := ⟨R.RCL_RECOVER_COUNT, 15, 0⟩
def RCL_RECOVER_COUNT_ESCALATED : Field := ⟨R.RCL_RECOVER_COUNT, 31, 16⟩
def RCL_LAST_US_US : Field := ⟨R.RCL_LAST_US, 15, 0⟩
def RCL_UNIT_RETIRED_RETIRED : Field := ⟨R.RCL_UNIT_RETIRED, 31, 0⟩
def RCL_LEASE_SEL_RECORD : Field := ⟨R.RCL_LEASE_SEL, 7, 0⟩
def RCL_LEASE_W_WORD : Field := ⟨R.RCL_LEASE_W, 31, 0⟩
def RCL_INJECT_UNIT : Field := ⟨R.RCL_INJECT, 6, 0⟩
def RCL_INJECT_KEY : Field := ⟨R.RCL_INJECT, 31, 24⟩

end F

/-- Registers of the SYS block. -/
def regsSYS : List Reg := [
  R.SYS_ID, R.SYS_STATE, R.SYS_RESET_CAUSE, R.SYS_RESET_CTRL, R.SYS_PWR_REQ, R.SYS_GATE_CTRL,
  R.SYS_GATE_STATUS, R.SYS_PLL_STATUS, R.SYS_PLL_EVENT, R.SYS_THERM_CTRL, R.SYS_THERM_STATUS,
  R.SYS_THERM_EVENT, R.SYS_TEMP]

/-- Registers of the LAMP block. -/
def regsLAMP : List Reg := [
  R.LAMP_TICK_LO, R.LAMP_TICK_HI, R.LAMP_CLK_STATUS, R.LAMP_CLK_EVENT, R.LAMP_WAKE_EN,
  R.LAMP_WAKE_FILT, R.LAMP_WAKE_CAUSE, R.LAMP_TIMER_ALARM, R.LAMP_PARK_POLICY,
  R.LAMP_RESET_CAUSE, R.LAMP_RET_STATUS, R.LAMP_PMIC_CTRL, R.LAMP_VHV_STATUS, R.LAMP_WAKE_COUNT]

/-- Registers of the BOOT block. -/
def regsBOOT : List Reg := [
  R.BOOT_STATUS, R.BOOT_ERROR, R.BOOT_PROFILE, R.BOOT_REJECT, R.BOOT_TIME_SPLASH,
  R.BOOT_TIME_HANDOVER, R.BOOT_BUILD_LO, R.BOOT_BUILD_HI, R.BOOT_IMAGE_OFFSET,
  R.BOOT_SPLASH_HOLD, R.BOOT_REPAIR_CTRL, R.BOOT_REPAIR_COUNT, R.BOOT_REPAIR_EVENT,
  R.BOOT_SCRIPT_STATUS, R.BOOT_OTP_KEY, R.BOOT_OTP_STATE, R.BOOT_OTP_ALT]

/-- Registers of the AVE block. -/
def regsAVE : List Reg := [
  R.AVE_PLZ_STATUS, R.AVE_PLZ_ERR_COUNT, R.AVE_PLZ_UE_ADDR, R.AVE_EVENT, R.AVE_SCRUB_CTRL,
  R.AVE_FS_SIZE, R.AVE_BLUE_CAP, R.AVE_WRR, R.AVE_LINK_FAIL, R.AVE_REPLAY_COUNT, R.AVE_GATE_LO,
  R.AVE_GATE_HI, R.AVE_POISON_CLR, R.AVE_POISON_COUNT, R.AVE_REGION_LO, R.AVE_REGION_HI]

/-- Registers of the XLT block. -/
def regsXLT : List Reg := [
  R.XLT_STATUS, R.XLT_POOL_BASE, R.XLT_POOL_SIZE, R.XLT_INVAL, R.XLT_INVAL_PEND, R.XLT_EVENT,
  R.XLT_FAULT_VA_LO, R.XLT_FAULT_VA_HI, R.XLT_FAULT_INFO, R.XLT_ROOT_LO, R.XLT_ROOT_HI, R.XLT_GEN]

/-- Registers of the WRD block. -/
def regsWRD : List Reg := [
  R.WRD_STATUS, R.WRD_EVENT, R.WRD_STOP_LIMIT, R.WRD_LEASE_TERM, R.WRD_COMP_CFG,
  R.WRD_COMP_LAT_MAX, R.WRD_GRAN_MAX, R.WRD_FAIL_COUNT, R.WRD_RCLASS_KIND, R.WRD_RCLASS_MASK,
  R.WRD_Q_CFG, R.WRD_Q_STATE, R.WRD_Q_CTRL, R.WRD_Q_ITER, R.WRD_Q_LASTFAIL]

/-- Registers of the XNG block. -/
def regsXNG : List Reg := [
  R.XNG_STATUS, R.XNG_EVENT, R.XNG_MISMATCH_IDX, R.XNG_SET_VAL, R.XNG_SET_CMD, R.XNG_INSPECT_IDX,
  R.XNG_INSPECT_LO, R.XNG_INSPECT_HI, R.XNG_INSPECT_FLAGS, R.XNG_MODE, R.XNG_PERSIST, R.XNG_VAL,
  R.XNG_VALC]

/-- Registers of the DST block. -/
def regsDST : List Reg := [
  R.DST_STATUS, R.DST_EVENT, R.DST_CAL_CTRL, R.DST_SWEEP_CTRL, R.DST_RETIRE_CTRL, R.DST_ARR_SEL,
  R.DST_ARR_INFO, R.DST_ARR_COL, R.DST_ARR_TAG0, R.DST_ARR_TAG1, R.DST_CAL_COUNT,
  R.DST_CHECK_COUNT, R.DST_PASS_COUNT, R.DST_WAIT_MAX, R.DST_RING]

/-- Registers of the TILE block. -/
def regsTILE : List Reg := [
  R.TILE_STATUS, R.TILE_EVENT, R.TILE_SAVE_BASE, R.TILE_PREEMPT_COUNT, R.TILE_PREEMPT_MAX,
  R.TILE_ERR_COUNT, R.TILE_CORE]

/-- Registers of the RAS block. -/
def regsRAS : List Reg := [
  R.RAS_STATUS, R.RAS_EVENT, R.RAS_LOT_BASE, R.RAS_LOT_SIZE, R.RAS_LOT_PEAK, R.RAS_LOT_LAST,
  R.RAS_DROP_COUNT, R.RAS_LAST_DROP, R.RAS_GUARD_COUNT, R.RAS_BAD_DRAW, R.RAS_PASS_COUNT]

/-- Registers of the VIS block. -/
def regsVIS : List Reg := [
  R.VIS_STATUS, R.VIS_EVENT, R.VIS_FOOT_TILE, R.VIS_DONE, R.VIS_LAST_US]

/-- Registers of the CAM block. -/
def regsCAM : List Reg := [
  R.CAM_CTRL, R.CAM_WINDOW, R.CAM_RING_BASE, R.CAM_PITCH, R.CAM_SLOT_SIZE, R.CAM_REC_BASE,
  R.CAM_MIN_PERIOD, R.CAM_FRAME_TIMEOUT, R.CAM_STALE, R.CAM_FREEZE, R.CAM_LANE, R.CAM_PHY_CFG,
  R.CAM_STATUS, R.CAM_EVENT, R.CAM_PUBLISHED, R.CAM_RX_COUNT, R.CAM_DROP_COUNT, R.CAM_ERR_COUNT,
  R.CAM_BAD_COUNT, R.CAM_IGNORED_COUNT, R.CAM_LAST_FRAME_NUM]

/-- Registers of the RBT block. -/
def regsRBT : List Reg := [
  R.RBT_CTRL, R.RBT_NOGEN, R.RBT_STATUS, R.RBT_EVENT, R.RBT_LOG_BASE_LO, R.RBT_LOG_BASE_HI,
  R.RBT_LOG_SIZE, R.RBT_LOG_SEQ, R.RBT_REPLAY_BASE_LO, R.RBT_REPLAY_BASE_HI, R.RBT_REPLAY_LEN,
  R.RBT_REPLAY_POS, R.RBT_GATE_BASE_LO, R.RBT_GATE_BASE_HI, R.RBT_GATE_COUNT, R.RBT_TRK_CFG,
  R.RBT_TRK_BASE_LO, R.RBT_TRK_BASE_HI, R.RBT_TRK_STRIDE, R.RBT_TRK_STATE, R.RBT_TRK_SHOWN_PN,
  R.RBT_TRK_MARGIN, R.RBT_CNT_FRESH, R.RBT_CNT_GEN, R.RBT_CNT_REPEAT, R.RBT_CNT_MISS,
  R.RBT_GATE_ITER, R.RBT_GATE_SUBST]

/-- Registers of the SCO block. -/
def regsSCO : List Reg := [
  R.SCO_CTRL, R.SCO_H_TIM, R.SCO_H_SYNC, R.SCO_V_TIM, R.SCO_V_SYNC, R.SCO_PCLK, R.SCO_TE,
  R.SCO_STATUS, R.SCO_EVENT, R.SCO_FRAME, R.SCO_UNDERRUN_COUNT, R.SCO_TE_COUNT,
  R.SCO_TE_LAST_SKEW, R.SCO_FREERUN_COUNT, R.SCO_OUT_CFG, R.SCO_DPHY, R.SCO_LINES, R.SCO_BG,
  R.SCO_UNDERRUN_COLOUR, R.SCO_POISON_COLOUR, R.SCO_STALE, R.SCO_PL_CFG, R.SCO_PL_POS,
  R.SCO_PL_SIZE, R.SCO_PL_PITCH, R.SCO_FIFO, R.SCO_PANEL_SEQ, R.SCO_PANEL_PINS, R.SCO_DSI_TX_HDR,
  R.SCO_DSI_TX_GO, R.SCO_DSI_TX_STATUS, R.SCO_DSI_TX_DATA]

/-- Registers of the SGN block. -/
def regsSGN : List Reg := [
  R.SGN_CTRL, R.SGN_STATUS, R.SGN_EVENT, R.SGN_FAIL_LO, R.SGN_FAIL_HI, R.SGN_CHECK_COUNT,
  R.SGN_ECC_COUNT, R.SGN_SRAM_ADDR, R.SGN_SRAM_DATA, R.SGN_STATE, R.SGN_STATE_C, R.SGN_PAL,
  R.SGN_ICON_POS, R.SGN_ICON_FMT, R.SGN_ICON_CRC_ON, R.SGN_ICON_CRC_OFF]

/-- Registers of the HVS block. -/
def regsHVS : List Reg := [
  R.HVS_CTRL, R.HVS_BOOST_CFG, R.HVS_VBAT_LIM, R.HVS_PWM, R.HVS_SINK, R.HVS_DUTY, R.HVS_NTC_CFG,
  R.HVS_NTC_THR, R.HVS_DERATE, R.HVS_STATUS, R.HVS_EVENT, R.HVS_VBAT, R.HVS_BOOST_FB, R.HVS_NTC,
  R.HVS_SINK_STAT, R.HVS_XING_COUNT, R.HVS_BOOST_COUNT, R.HVS_CMD]

/-- Registers of the CAN block. -/
def regsCAN : List Reg := [
  R.CAN_CTRL, R.CAN_NBT, R.CAN_DBT, R.CAN_GSP_ID, R.CAN_GSP_RSP, R.CAN_STATUS, R.CAN_EVENT,
  R.CAN_RX_COUNT, R.CAN_ERR_COUNT]

/-- Registers of the SVC block. -/
def regsSVC : List Reg := [
  R.SVC_STATUS, R.SVC_EVENT, R.SVC_PORTS, R.SVC_UART, R.SVC_INTERLOCK, R.SVC_STATUS_MSG,
  R.SVC_INTAKE_USED, R.SVC_ISEQ, R.SVC_SNAP_SEQ, R.SVC_CJ_NEXT, R.SVC_CJ_UNMIRRORED,
  R.SVC_CJ_HASH_LO, R.SVC_CJ_HASH_HI, R.SVC_GSP_COUNT, R.SVC_DISCARD_COUNT, R.SVC_CONS_A,
  R.SVC_CONS_B, R.SVC_SIG_ID, R.SVC_SIG_FMT, R.SVC_SIG_MIN, R.SVC_SIG_MAX, R.SVC_SIG_TIM,
  R.SVC_SIG_STAT]

/-- Registers of the I2C block. -/
def regsI2C : List Reg := [
  R.I2C_CFG, R.I2C_XFER, R.I2C_DATA, R.I2C_STATUS]

/-- Registers of the GPIO block. -/
def regsGPIO : List Reg := [
  R.GPIO_DIR, R.GPIO_OUT, R.GPIO_IN, R.GPIO_PULL, R.GPIO_PULL_DIR]

/-- Registers of the BRG block. -/
def regsBRG : List Reg := [
  R.BRG_CTRL, R.BRG_MBX_BASE, R.BRG_MBX_SIZE, R.BRG_MBX_RATE, R.BRG_XSIG, R.BRG_SUB_SIGS_LO,
  R.BRG_SUB_SIGS_HI, R.BRG_TOKEN_TERM, R.BRG_CMD, R.BRG_STATUS, R.BRG_EVENT,
  R.BRG_PARTNER_BUILD_LO, R.BRG_PARTNER_BUILD_HI, R.BRG_REPLAY_COUNT, R.BRG_REMOTE_REFUSED,
  R.BRG_SUB_COUNT, R.BRG_RESET_REQ_COUNT, R.BRG_ABSENT_TICK, R.BRG_KEY]

/-- Registers of the DDR block. -/
def regsDDR : List Reg := [
  R.DDR_STATUS, R.DDR_SIZE, R.DDR_EVENT, R.DDR_ERR_COUNT, R.DDR_UE_ADDR_LO, R.DDR_UE_ADDR_HI,
  R.DDR_TRAIN_TIME, R.DDR_BLUE_LAT_MAX]

/-- Registers of the RCL block. -/
def regsRCL : List Reg := [
  R.RCL_STATUS, R.RCL_EVENT, R.RCL_CTRL, R.RCL_FAULTN_CODE, R.RCL_FAULTN_LATCH,
  R.RCL_FAULTN_CAUSE, R.RCL_RING_SEQ, R.RCL_RECOVER_COUNT, R.RCL_LAST_US, R.RCL_UNIT_RETIRED,
  R.RCL_LEASE_SEL, R.RCL_LEASE_W, R.RCL_INJECT, R.RCL_RING]

end Sys2Proof.Machine
end

