-- ==== Sys2Proof/Machine/StateHv.lean ====
section
/-! DEFINITION. State of the high-voltage side and of the HVS block (chapter 12) beyond the
HVS registers, as plain data. -/

namespace Sys2Proof.Machine

/-- A frame of the serial crossing (Table 12-2); CHECK is the complement of the rest. -/
structure XFrame where
  typ : Nat
  seq : Nat
  addr : Nat
  data : Nat
  deriving DecidableEq, Repr

/-- One LED sink on the HV side (R362 to R367). -/
structure Sink where
  /-- Values in force. -/
  code : Nat
  range : Nat
  en : Bool
  phase : Nat
  /-- DUTY and DUTY_eff in force, and the percentage. -/
  duty : Nat
  dutyEff : Nat
  pct : Nat
  gated : Bool
  /-- An on-time is in progress; its length in reference ticks. -/
  on : Bool
  onTicks : Nat
  /-- A request for 0 waits for the end of the on-time (R364). -/
  zeroReq : Bool
  /-- Range change: the new reference settles; it has settled and waits for an off-time
  (R365); the DUTY_new it computed. -/
  settling : Bool
  settled : Bool
  newDuty : Nat
  isOpen : Bool
  isShort : Bool
  openRun : Nat
  shortRun : Nat
  deriving DecidableEq, Repr

/-- One NTC channel (R369 to R372). -/
structure Ntc where
  value : Nat
  lastA : Nat
  /-- 0 off, 1 GOOD, 2 HOLDING, 3 FAILED. -/
  state : Nat
  badRun : Nat
  goodRun : Nat
  cls : Nat
  converting : Bool
  /-- The channel's percentage is below 100 (fault 0x500A was raised). -/
  derated : Bool
  deriving DecidableEq, Repr

/-- The HV side and the HVS block. -/
structure Hv where
  /-- HV side powered by PMIC_EN (R349), and the kill line (R350). -/
  powered : Bool
  kill : Bool
  /-- HVS side: the next SEQ, the WRITE that awaits its ACK with its resends, and the writes
  that wait, in commit order (R352). -/
  seq : Nat
  unacked : Option XFrame
  resends : Nat
  waiting : List (Nat × Nat)
  linkLost : Bool
  /-- A RESYNC has been acknowledged and the committed registers are being resent. -/
  resyncing : Bool
  /-- HV side: registers as it applied them, by offset (reset words where absent). -/
  hvRegs : List (Nat × Nat)
  lastSeq : Option Nat
  hvSeq : Nat
  safe : Bool
  safeExpired : Bool
  ign : Bool
  vbatCode : Nat
  vbatOk : Bool
  vbatOut : Nat
  vbatIn : Nat
  /-- 0 off, 1 soft-start, 2 ready, 3 latched; retries; a retry is due in 100 ms. -/
  boost : Nat
  retries : Nat
  restartDue : Bool
  /-- A boost fault that is not retried holds the boost off (R356). -/
  vbatStop : Bool
  target : Nat
  overvoltage : Bool
  /-- The duty period in reference ticks, as the last period start set it (R363). -/
  period : Nat
  sinks : List Sink
  ntcs : List Ntc
  /-- Frames the HVS block, and the HV side, sent last. -/
  hvsTx : List XFrame
  hvTx : List XFrame
  deriving DecidableEq, Repr

def Sink.reset : Sink :=
  ⟨0, 0, false, 0, 0, 0, 100, false, false, 0, false, false, false, 0, false, false, 0, 0⟩

def Ntc.reset : Ntc := ⟨0, 0, 0, 0, 0, 0, false, false⟩

def Hv.reset : Hv :=
  ⟨false, true, 0, none, 0, [], false, false, [], none, 0, false, false, false, 0, false, 0,
   0, 0, 0, false, false, 0, false, 1250, List.replicate 4 Sink.reset,
   List.replicate 3 Ntc.reset, [], []⟩

end Sys2Proof.Machine
end

