-- ==== Sys2Proof/Machine/StateRbt.lean ====
section
/-! DEFINITION. State of the roundabout (chapter 10) beyond its registers, as plain data. -/

namespace Sys2Proof.Machine

/-- A candidate: pending, or shown (Table 10-2). -/
structure Cand where
  stand : Nat
  /-- 0 FRESH, 1 INTERP, 2 EXTRAP; 3 the splash, which counts as FRESH of PN 0. -/
  kind : Nat
  cls : Nat
  pn : Nat
  /-- Model time of its registration. -/
  at_ : Nat
  deriving DecidableEq, Repr

/-- A relocation (R299): stand copied from and to. -/
structure Reloc where
  src : Nat
  dst : Nat
  copied : Bool
  deriving DecidableEq, Repr

/-- One track. -/
structure Track where
  /-- The committed RBT_TRK_CFG word in force (R309). -/
  cfg : Nat
  enabled : Bool
  /-- EN = 0 was committed: closed to offers until its next decision (R309). -/
  closing : Bool
  pending : List Cand
  shown : Option Cand
  /-- Last choice, codes of Table 10-4; 0 before any decision. -/
  choice : Nat
  /-- Stand being generated, with the slot of its GENERATE stop. -/
  generating : Option (Nat × Nat)
  /-- Highest FRESH PN registered (R292). -/
  lastFresh : Option Nat
  /-- Candidates discarded, as (kind, highest PN), for replay (R308). -/
  passed : List (Nat × Nat)
  /-- Stands no longer chosen whose last line is still to be fetched (R294). -/
  leaving : List Nat
  /-- Stand the plane reads in the refresh that runs now (R298). -/
  reading : Option Nat
  reloc : Option Reloc
  /-- Refreshes that the replay did not count (R308). -/
  replayN : Nat
  deriving DecidableEq, Repr

/-- One input gate (R303). -/
structure Gate where
  /-- Iterations bound so far, and the iteration in progress. -/
  p : Nat
  started : Bool
  startedAt : Nat
  deriving DecidableEq, Repr

/-- The roundabout. -/
structure Rbt where
  tracks : List Track
  gates : List Gate
  /-- Gates described, as read at hand-over (RBT_GATE_COUNT). -/
  gateCount : Nat
  replay : Bool
  /-- Entries of the replay log that are used (R307, R308). -/
  replayed : List Nat
  /-- Open stops that are COMPOSE and read a ring stand: slot, track, stand (R294). -/
  ringReads : List (Nat × Nat × Nat)
  /-- Decisions served as REPEAT while the roundabout recovers: output, refresh (Table 16-8). -/
  served : List (Nat × Nat)
  deriving DecidableEq, Repr

def Track.reset : Track :=
  ⟨0, false, false, [], none, 0, none, none, [], [], none, none, 0⟩

def Gate.reset : Gate := ⟨0, false, 0⟩

def Rbt.reset : Rbt := ⟨List.replicate 6 Track.reset, List.replicate 16 Gate.reset, 0, false, [], [], []⟩

end Sys2Proof.Machine
end

