-- ==== Sys2Proof/Machine/StateScan.lean ====
section
/-! DEFINITION. State of scan-out, the panels and the Signpost plane (chapter 11) beyond their
registers, as plain data. -/

namespace Sys2Proof.Machine

/-- Why an output stops or is stopped (R344 to R347). -/
inductive StopKind where
  | none : StopKind
  /-- A commit of EN = 0, or the park sequence: the panel is powered down (R347). -/
  | disable : StopKind
  | quiet : StopKind
  /-- A change of both outputs, or of this output only (R345). -/
  | changeBoth : StopKind
  | changeOne : StopKind
  /-- The recovery of the output's own scan-out unit (Table 16-8). -/
  | fault : StopKind
  deriving DecidableEq, Repr

/-- Wait of the panel sequence in progress (R345, R347). -/
inductive PanelWait where
  | none : PanelWait
  /-- T_SLEEP of a restart after a change (R345, step 4). -/
  | wake : PanelWait
  /-- Power-up: T_EN, then T_RST, then T_SLEEP. -/
  | upEn : PanelWait
  | upRst : PanelWait
  | upSleep : PanelWait
  /-- Power-down: T_RST. -/
  | downRst : PanelWait
  deriving DecidableEq, Repr

/-- A pixel as composed or as sent: three channels. -/
structure Pix where
  r : Nat
  g : Nat
  b : Nat
  deriving DecidableEq, Repr

/-- One output. -/
structure Output where
  /-- 0 stopped, 1 black, 2 content, 3 stopping (SCO_STATUS.PHASE). -/
  phase : Nat
  /-- Black frames still to show, and a start due at the generator's next frame start. -/
  blackLeft : Nat
  startDue : Bool
  /-- PLLs of the output not locked yet at its start. -/
  pllWait : Bool
  stop : StopKind
  /-- The 100 µs idle hold of a change runs (R345, step 2). -/
  idleHold : Bool
  /-- The stop sent the sleep commands, so the restart sends the wake commands. -/
  slept : Bool
  panel : PanelWait
  /-- The panel was powered down by R347. -/
  panelOff : Bool
  /-- The last stop was for QUIET: leaving QUIET restarts it (R347). -/
  quietStop : Bool
  /-- The output holds its sinks at 0 (R344, R374), and has given its backlight enable. -/
  holdSinks : Bool
  blEnable : Bool
  /-- The backlight delay runs, as the end of a first complete frame started it (R375). -/
  blDelay : Bool
  /-- The backlight delay starts with the first complete frame of any kind (R79), and not with
  the first content frame (R347). -/
  blFirst : Bool
  /-- Sinks are restored at the end of the first content frame's last active line (R345). -/
  restoreSinks : Bool
  /-- SCO_OUT_CFG and SCO_DPHY words in force (R345). -/
  outCfg : Nat
  dphy : Nat
  /-- The output is fetched in prefill mode (R78, R323). -/
  prefill : Bool
  /-- SCO_PL_CFG, _POS, _SIZE and _PITCH of the three planes in force since the last vsync
  (R322), plane after plane. -/
  planes : List Nat
  /-- The base plane shows the splash in the refresh now running (R320), and scan-out has asked for
  the lock on the splash image (R321). -/
  baseSplash : Bool
  splashLock : Bool
  splashGone : Bool
  /-- Camera STALE or ABSENT found at the last decision, for the refresh it serves, and in
  force for the refresh now running (R328). -/
  staleNext : Bool
  staleNow : Bool
  /-- Fault raised in this frame: poison, underrun (R329, R331). -/
  poisonSeen : Bool
  underrunSeen : Bool
  /-- The next decision repeats (R332). -/
  underrun : Bool
  /-- The line sent last, as converted by R327. -/
  line : List Pix
  /-- DSI: last DCS command of the panel sequences (0x10, 0x11, 0x28 or 0x29), D-PHY running,
  and a low-power packet that waits for the front porch (R348). -/
  dcs : Nat
  dphyOn : Bool
  lpWait : Bool
  /-- The low-power packet on its way is a script's (R348); its bytes. -/
  lpScript : Bool
  lpBytes : List Byte
  deriving DecidableEq, Repr

/-- Scan-out: the timing generator and both outputs. -/
structure Sco where
  genRun : Bool
  line : Nat
  /-- Timing words in force: H_TIM, H_SYNC, V_TIM, V_SYNC, PCLK, TE. -/
  timing : List Nat
  /-- The next line start is line 0 of a new frame: the generator has just started, or a
  command-mode frame was started by a TE edge or by free-running. -/
  due : Bool
  /-- Model time of the last frame start of this run of the generator. -/
  frameAt : Option Nat
  freerun : Bool
  /-- Model time of the TE_A edge that started the frame, awaiting TE_B (R318). -/
  teWait : Option Nat
  /-- A commit that arrived after step 3 of a change and waits for its end (R346). -/
  changeQueued : Bool
  outs : List Output
  deriving DecidableEq, Repr

/-- One icon of the Signpost plane. -/
structure Icon where
  /-- State and complement as latched at the last line start (R334). -/
  st : Nat
  stC : Nat
  /-- SGN_ICON_POS, FMT, CRC_ON and CRC_OFF words in force since the last vsync (R337). -/
  pos : Nat
  fmt : Nat
  crcOn : Nat
  crcOff : Nat
  /-- State of the CRC-32 over the pixels emitted in this frame, before the final inversion,
  the state latched at its first line, and whether the state has changed since (R338). -/
  crc : Nat
  first : Nat
  changed : Bool
  /-- A mismatch of R339 was found in this frame. -/
  opaqueBad : Bool
  deriving DecidableEq, Repr

/-- An error of one 64-bit word of the icon SRAM (R341). -/
structure IconErr where
  word : Nat
  uncorrectable : Bool
  deriving DecidableEq, Repr

/-- The Signpost plane. -/
structure Sgn where
  /-- SGN_CTRL words in force on outputs A and B. -/
  ctrl : List Nat
  icons : List Icon
  /-- SGN_PAL words in force since the last generator frame start. -/
  pal : List Nat
  errs : List IconErr
  /-- Icon slots that a repair has read again, with their address in the SRAM and their bytes as the
  repair read checked them; they take effect at the next frame start (R341). -/
  repaired : List (Nat × Nat × List Byte)
  deriving DecidableEq, Repr

def Output.reset : Output where
  phase := 0
  blackLeft := 0
  startDue := false
  pllWait := false
  stop := .none
  idleHold := false
  slept := false
  panel := .none
  panelOff := false
  quietStop := false
  holdSinks := false
  blEnable := false
  blDelay := false
  blFirst := false
  restoreSinks := false
  outCfg := 0x1E0600
  prefill := false
  dphy := 0
  planes := [0xFF00, 0, 0, 0, 0xFF00, 0, 0, 0, 0xFF00, 0, 0, 0]
  baseSplash := false
  splashLock := false
  splashGone := false
  staleNext := false
  staleNow := false
  poisonSeen := false
  underrunSeen := false
  underrun := false
  line := []
  dcs := 0
  dphyOn := false
  lpWait := false
  lpScript := false
  lpBytes := []

def Sco.reset : Sco :=
  ⟨false, 0, [0, 0, 0, 0, 0, 0], false, none, false, none, false, [Output.reset, Output.reset]⟩

def Icon.reset : Icon := ⟨0, 3, 0, 0, 0, 0, 0xFFFFFFFF, 0, false, false⟩

def Sgn.reset : Sgn := ⟨[0x0F1E0000, 0x0F1E0000], List.replicate 64 Icon.reset, List.replicate 16 0, [], []⟩

end Sys2Proof.Machine
end

