-- ==== Sys2Proof/Machine/State.lean ====
section
/-! DEFINITION. The state of the AE480 as one block that takes commands: everything the spec
gives the device, as plain data, and the queue of commands that wait. -/

namespace Sys2Proof.Machine

/-- A memory: (address, byte) pairs in canonical form, see `Memory.wf`. -/
abbrev Memory := List Host.Cell

/-- The addressed memories of the device. -/
inductive MemId where
  | plaza : MemId
  | lpddr : MemId
  | flash : MemId
  | retA : MemId
  | retB : MemId
  | icon : MemId
  | otp : MemId
  /-- Image bytes a Bridge-booting secondary has received (R429). -/
  | img : MemId
  deriving DecidableEq, Repr

/-- The response of the last register access (R14): data of a read, and whether the access
was answered with an error. The model's own field. -/
structure BusResp where
  ok : Bool
  data : Nat
  deriving DecidableEq, Repr

/-- Why a run faults. The AE480 reports every fault of the spec in its own state (a fault
record, R444), so no command of the model ends here. -/
inductive Fault where
  /-- Raised by no command; kept so that the type is not empty. Safe. -/
  | none : Fault
  deriving DecidableEq, Repr

/-- Why the model refuses a command. -/
inductive Refusal where
  /-- Raised by the arm of a command that has no meaning yet, with its mnemonic. Safe. -/
  | notModelled (mnemonic : String) : Refusal
  deriving DecidableEq, Repr

/-- The state of the device. -/
structure State where
  /-- Commands that wait, first in, first out. -/
  pending : List Instr
  ident : Ident
  /-- Model time in reference ticks of 40 ns, and the phase of the lamplight tick within it
  (assumption 2). The model's own fields. -/
  time : Nat
  phase : Nat
  /-- Number of the next free value (assumption 11). The model's own field. -/
  free : Nat
  bus : BusResp
  /-- Register words that differ from their reset value, by rising address. -/
  regs : List (Nat × Nat)
  /-- Pending values of complement pairs, by the value word's address (R17). -/
  rwpPend : List (Nat × Nat)
  plaza : Memory
  lpddr : Memory
  flash : Memory
  retA : Memory
  retB : Memory
  icon : Memory
  otp : Memory
  img : Memory
  /-- The fault ring, oldest record first, and the next record number (R444). -/
  ring : List FaultRec
  nextSeq : Nat
  /-- The lease table's valid records, by rising record number (R445). -/
  leases : List (Nat × Lease)
  lamp : Lamp
  rcl : Rcl
  boot : Boot
  ave : Ave
  xlt : Xlt
  wrd : Wrd
  xng : Xng
  cam : Cam
  ras : Ras
  dst : Dst
  rbt : Rbt
  sco : Sco
  sgn : Sgn
  hv : Hv
  can : List CanCtl
  svc : Svc
  ports : Ports
  brg : Brg
  deriving DecidableEq, Repr

/-! ### After reset

The values of a power-on reset in force: state OFF, before POR_RELEASE (R30, Table 02-10). -/

def WakeFilter.reset : WakeFilter := ⟨false, false, 0, true⟩

/-- Straps as the model ties the balls until PWR_GOOD_RISE samples them (assumption 3). -/
def Straps.reset : Straps := ⟨0, false, false, false⟩

def Lamp.reset : Lamp where
  power := .off
  wakingStep := 0
  attempts := 0
  retryDue := false
  parkStep := 0
  parkDrainMs := 0
  parkQuiet := false
  latchedWake := false
  pmicEn := false
  pwrGood := false
  pgFellAt := none
  vhvLow := true
  vhvRet := true
  resetNLow := false
  tick := 0
  tickHi := 0
  x32OnRc := true
  x32Grace := false
  refOnRc := false
  refCount := 0
  ign := WakeFilter.reset
  can := WakeFilter.reset
  brg := WakeFilter.reset
  parkedAt := 0
  quietAt := 0
  wakingAt := 0
  thermHold := false
  thermCheck := false
  temps := List.replicate 12 0
  tempValid := List.replicate 12 true
  thermStep := 0
  thermChangedAt := none
  tjMax := 0
  hotSensor := 0
  straps := Straps.reset
  strapBalls := Straps.reset
  retARetired := false
  retBRetired := false
  retUnusable := false
  retErrs := []
  retLastUe := []
  pllReq := 0
  quietPlls := 0
  quietGated := false
  causeSince := 0
  sysCause := 1
  resetHold := true
  parkedHold := false

def Rcl.reset : Rcl := ⟨true, false, none, [], [], [], [], false, false, false, false, []⟩

def Boot.reset : Boot where
  phase := 0
  flashReady := false
  imageAlt := false
  quad := false
  overBridge := false
  imageBase := 0
  imageLen := 0
  buildId := 0
  persistOff := 0
  persistLen := 0
  flashParam := 0
  sects := []
  config := []
  configAt := 0
  scriptBytes := []
  profiles := []
  splashHoldMs := 0
  ddrDeclared := false
  ddrRate := 0
  ddrRanks := 0
  ddrMib := 0
  lpddrKnown := false
  trainAttempt := 0
  running := none
  choosing := none
  refused := []
  chosen := none
  escalations := 0
  calDone := false
  mainStarted := false
  displaysDone := false
  handedOver := false
  threads := List.replicate 4 Thread.idle
  outFailedA := false
  outFailedB := false
  outStartedA := false
  outStartedB := false
  splashFailed := false
  cameraFailed := false
  heldRequest := 0
  holdElapsed := false
  repairs := []
  flashOp := none
  flashRetries := 0

def Ave.reset : Ave where
  locks := List.replicate 64 none
  lockWait := []
  plazaErrs := []
  ddrErrs := []
  plazaPoison := ⟨[], []⟩
  ddrPoison := ⟨[], []⟩
  failedBanks := []
  ueLines := []
  initDone := false
  failedLinks := []
  replayFails := []
  gates := []
  ddrBytes := 0
  ddrInit := false
  ddrSelfRefresh := false

def Xlt.reset : Xlt := ⟨List.replicate 16 (0, false), [], [], []⟩

/-- Queue `q` idle, owned by its own warden: 0 to 7 by warden 0, 8 to 15 by warden 1. -/
def Queue.reset (q : Nat) : Queue where
  state := 0
  route := 0
  level := 0
  asid := 0
  loop := false
  first := 0
  count := 0
  iter := 0
  next := 0
  enq := []
  withdrawn := []
  owner := q / 8
  badStop := false
  badSect := none
  parked := false

def Wrd.reset : Wrd where
  ok0 := true
  ok1 := true
  takeover := false
  diverged := none
  selfTest := none
  serving := none
  queues := (List.range 16).map Queue.reset
  shadows := List.replicate 16 ⟨0, 0, 0, [], []⟩
  slots := List.replicate 64 none
  routeBase := 0
  routeSect := 0
  lastAt := [15, 15, 15, 15, 15, 15, 15, 15]
  closed := false

def Xng.reset : Xng := ⟨[], [], [], [], List.replicate 16 0⟩

/-- The machine right after reset: a power-on reset is in force, every register holds its reset
word, every memory is empty and no command waits. -/
def State.reset : State where
  pending := []
  ident := ⟨.qt2⟩
  time := 0
  phase := 0
  free := 0
  bus := ⟨true, 0⟩
  regs := []
  rwpPend := []
  plaza := []
  lpddr := []
  flash := []
  retA := []
  retB := []
  icon := []
  otp := []
  img := []
  ring := []
  nextSeq := 1
  leases := []
  lamp := Lamp.reset
  rcl := Rcl.reset
  boot := Boot.reset
  ave := Ave.reset
  xlt := Xlt.reset
  wrd := Wrd.reset
  xng := Xng.reset
  cam := Cam.reset
  ras := Ras.reset
  dst := Dst.reset
  rbt := Rbt.reset
  sco := Sco.reset
  sgn := Sgn.reset
  hv := Hv.reset
  can := [CanCtl.reset, CanCtl.reset]
  svc := Svc.reset
  ports := Ports.reset
  brg := Brg.reset

end Sys2Proof.Machine
end

