-- ==== Sys2Proof/Machine/Ops.lean ====
section
/-! DEFINITION. The named operations over memories and registers, and the micro-programs in
which every meaning is written. A micro-program looks at the state and performs acts; what an
act can change is said once, in `Act.apply`, so that every rule over all commands is proved
over the acts alone. -/

namespace Sys2Proof.Machine

/-! ### Memories -/

/-- Bytes of a memory's address space. Plaza 40 MiB (Table 04-2), the LPDDR window 4 GiB, the
flash of the reference board 64 MiB (Table 17-15, assumption 12), a retention bank 32 KiB
(Table 02-1), the icon SRAM 256 KiB, the OTP as the model
lays it out (assumption 13), and a forwarded image (R429). -/
def MemId.size : MemId → Nat
  | .plaza => 0x2800000
  | .lpddr => 0x100000000
  | .flash => 0x4000000
  | .retA => 0x8000
  | .retB => 0x8000
  | .icon => 0x40000
  | .otp => 136
  | .img => 0x4000000

/-- What an unlisted address reads as: 0 (R111 for Plaza), and 0xFF for the erased flash
(assumption 4). -/
def MemId.dflt : MemId → Byte
  | .flash => 0xFF
  | _ => 0

/-- The byte at an address. -/
def Memory.get (d : Byte) (m : Memory) (a : Nat) : Byte :=
  match m with
  | [] => d
  | (x, y) :: t => if a = x then y else if a < x then d else Memory.get d t a

/-- The memory with one byte written, in canonical form. -/
def Memory.put (d : Byte) (m : Memory) (a : Nat) (b : Byte) : Memory :=
  match m with
  | [] => if b = d then [] else [(a, b)]
  | (x, y) :: t =>
    if a < x then (if b = d then (x, y) :: t else (a, b) :: (x, y) :: t)
    else if a = x then (if b = d then t else (a, b) :: t)
    else (x, y) :: Memory.put d t a b

/-- Bytes `a` onward of a memory written; bytes at or past `size` are not. -/
def Memory.store (d : Byte) (size : Nat) (m : Memory) (a : Nat) (bs : List Byte) : Memory :=
  match bs with
  | [] => m
  | b :: t => Memory.store d size (if a < size then Memory.put d m a b else m) (a + 1) t

/-- Canonical form from address `lo` on: addresses strictly rising and below `size`, and no
byte equal to what an unlisted address reads as. -/
def Memory.wfFrom (d : Byte) (size lo : Nat) (m : Memory) : Bool :=
  match m with
  | [] => true
  | (x, y) :: t =>
    decide (lo ≤ x) && decide (x < size) && decide (y ≠ d) && Memory.wfFrom d size (x + 1) t

/-- Canonical form of a memory of the device. -/
def Memory.wf (id : MemId) (m : Memory) : Bool := Memory.wfFrom id.dflt id.size 0 m

/-! ### Words by address: the register store, the lease table -/

/-- A list of values by rising key. -/
def keyGet {α : Type} (l : List (Nat × α)) (k : Nat) : Option α :=
  match l with
  | [] => none
  | (x, v) :: t => if k = x then some v else if k < x then none else keyGet t k

/-- Entry `k` written. -/
def keyPut {α : Type} (l : List (Nat × α)) (k : Nat) (v : α) : List (Nat × α) :=
  match l with
  | [] => [(k, v)]
  | (x, w) :: t =>
    if k < x then (k, v) :: (x, w) :: t
    else if k = x then (k, v) :: t
    else (x, w) :: keyPut t k v

/-- Entry `k` removed. -/
def keyDel {α : Type} (l : List (Nat × α)) (k : Nat) : List (Nat × α) :=
  l.filter fun e => e.1 ≠ k

/-- Keys strictly rising from `lo` on. -/
def keysWf {α : Type} (lo : Nat) (l : List (Nat × α)) : Bool :=
  match l with
  | [] => true
  | (x, _) :: t => decide (lo ≤ x) && keysWf (x + 1) t

/-! ### Reading the state -/

/-- A memory of the device. -/
def State.mem (s : State) : MemId → Memory
  | .plaza => s.plaza
  | .lpddr => s.lpddr
  | .flash => s.flash
  | .retA => s.retA
  | .retB => s.retB
  | .icon => s.icon
  | .otp => s.otp
  | .img => s.img

/-- The state with one memory replaced. -/
def State.setMem (s : State) (id : MemId) (m : Memory) : State :=
  match id with
  | .plaza => { s with plaza := m }
  | .lpddr => { s with lpddr := m }
  | .flash => { s with flash := m }
  | .retA => { s with retA := m }
  | .retB => { s with retB := m }
  | .icon => { s with icon := m }
  | .otp => { s with otp := m }
  | .img => { s with img := m }

/-- One byte of a memory. -/
def State.byte (s : State) (id : MemId) (a : Nat) : Byte := Memory.get id.dflt (s.mem id) a

/-- `n` bytes of a memory from address `a`. -/
def State.bytes (s : State) (id : MemId) (a n : Nat) : List Byte :=
  (upTo n).map fun i => s.byte id (a + i)

/-- `n` bytes of a memory as a little-endian number (R11). -/
def State.num (s : State) (id : MemId) (a n : Nat) : Nat := leNat (s.bytes id a n)

/-- Reset word of a register where the tables give it by ordering code or by controller:
SYS_ID and LAMP_WAKE_EN by the code, CAN1_CTRL and CAN1_GSP_ID by the controller. -/
def resetWord (id : Ident) (r : Reg) (addr : Nat) : Nat :=
  if addr = R.SYS_ID.addr then (if id.order = .qt2 then 0x04802020 else 0x04802010)
  else if addr = R.LAMP_WAKE_EN.addr then (if id.order = .qt2 then 7 else 3)
  else if addr = R.CAN_CTRL.addr + 0x10000 then r.reset - 1
  else if addr = R.CAN_GSP_ID.addr + 0x10000 then 0
  else r.reset

/-- Stored value word of element `i`, `j` of a register. -/
def State.rawReg (s : State) (r : Reg) (i j : Nat) : Nat :=
  (keyGet s.regs (r.at i j)).getD (resetWord s.ident r (r.at i j))

/-- Stored complement word of a complement pair (R17). -/
def State.rawComp (s : State) (r : Reg) (i j : Nat) : Nat :=
  (keyGet s.regs (r.at i j + 4)).getD (inv32 (resetWord s.ident r (r.at i j)))

/-- The stored pair of a complement-protected register agrees (R19). -/
def State.pairOk (s : State) (r : Reg) (i j : Nat) : Bool :=
  !r.rwp || s.rawReg r i j == inv32 (s.rawComp r i j)

/-- The word of a register as its block uses it: a complement pair that disagrees is used at
its reset value (R19). -/
def State.rd (s : State) (r : Reg) (i : Nat := 0) (j : Nat := 0) : Nat :=
  if s.pairOk r i j then s.rawReg r i j else resetWord s.ident r (r.at i j)

/-- A field of a register as its block uses it. -/
def State.fld (s : State) (f : Field) (i : Nat := 0) (j : Nat := 0) : Nat :=
  bits (s.rd f.reg i j) f.hi f.lo

/-- A one-bit field as a truth value. -/
def State.flag (s : State) (f : Field) (i : Nat := 0) (j : Nat := 0) : Bool :=
  s.fld f i j != 0

/-! ### Acts and micro-programs -/

/-- What a micro-program can do to the state. No act changes the queue of commands, the
ordering code or the time. -/
inductive Act where
  /-- Store a register word by its address. -/
  | reg (addr v : Nat) : Act
  /-- Set or drop the pending value of a complement pair. -/
  | pend (addr : Nat) (v : Option Nat) : Act
  /-- Return every register at `lo` to `hi - 1` to its reset word. -/
  | clearRegs (lo hi : Nat) : Act
  /-- Write bytes to a memory. -/
  | store (id : MemId) (addr : Nat) (bs : List Byte) : Act
  /-- Return a memory to what unlisted addresses read as. -/
  | wipe (id : MemId) : Act
  | bus (r : BusResp) : Act
  /-- Take the next `n` free values. -/
  | draw (n : Nat) : Act
  /-- Append a record to the fault ring. -/
  | record (r : FaultRec) : Act
  | clearRing : Act
  | lease (n : Nat) (l : Option Lease) : Act
  | clearLeases : Act
  | lamp (x : Lamp) : Act
  | rcl (x : Rcl) : Act
  | boot (x : Boot) : Act
  | ave (x : Ave) : Act
  | xlt (x : Xlt) : Act
  | wrd (x : Wrd) : Act
  | xng (x : Xng) : Act
  | cam (x : Cam) : Act
  | ras (x : Ras) : Act
  | dst (x : Dst) : Act
  | rbt (x : Rbt) : Act
  | sco (x : Sco) : Act
  | sgn (x : Sgn) : Act
  | hv (x : Hv) : Act
  | can (x : List CanCtl) : Act
  | svc (x : Svc) : Act
  | ports (x : Ports) : Act
  | brg (x : Brg) : Act

/-- The fault ring with a record appended: the newest 64 records (R444). -/
def pushRing (l : List FaultRec) (r : FaultRec) : List FaultRec :=
  (l ++ [r]).drop (l.length - 63)

/-- What an act does. -/
def Act.apply (a : Act) (s : State) : State :=
  match a with
  | .reg addr v => { s with regs := keyPut s.regs addr (v % 2 ^ 32) }
  | .pend addr v =>
    { s with rwpPend := match v with
        | none => keyDel s.rwpPend addr
        | some x => keyPut s.rwpPend addr x }
  | .clearRegs lo hi =>
    { s with
      regs := s.regs.filter fun e => e.1 < lo || hi ≤ e.1
      rwpPend := s.rwpPend.filter fun e => e.1 < lo || hi ≤ e.1 }
  | .store id addr bs => s.setMem id (Memory.store id.dflt id.size (s.mem id) addr bs)
  | .wipe id => s.setMem id []
  | .bus r => { s with bus := r }
  | .draw n => { s with free := s.free + n }
  | .record r => { s with ring := pushRing s.ring r, nextSeq := s.nextSeq + 1 }
  | .clearRing => { s with ring := [], nextSeq := 1 }
  | .lease n l =>
    { s with leases := match l with
        | none => keyDel s.leases n
        | some x => if n < 256 then keyPut s.leases n x else s.leases }
  | .clearLeases => { s with leases := [] }
  | .lamp x => { s with lamp := x }
  | .rcl x => { s with rcl := x }
  | .boot x => { s with boot := x }
  | .ave x => { s with ave := x }
  | .xlt x => { s with xlt := x }
  | .wrd x => { s with wrd := x }
  | .xng x => { s with xng := x }
  | .cam x => { s with cam := x }
  | .ras x => { s with ras := x }
  | .dst x => { s with dst := x }
  | .rbt x => { s with rbt := x }
  | .sco x => { s with sco := x }
  | .sgn x => { s with sgn := x }
  | .hv x => { s with hv := x }
  | .can x => { s with can := x }
  | .svc x => { s with svc := x }
  | .ports x => { s with ports := x }
  | .brg x => { s with brg := x }

/-- A micro-program. -/
inductive Prog where
  | skip : Prog
  | act (a : Act) : Prog
  | seq (p q : Prog) : Prog
  /-- Look at the state reached so far and go on from it. -/
  | look (k : State → Prog) : Prog

/-- Run a micro-program. -/
def Prog.run (p : Prog) (s : State) : State :=
  match p with
  | .skip => s
  | .act a => a.apply s
  | .seq p q => q.run (p.run s)
  | .look k => (k s).run s

/-- Programs one after the other. -/
def Prog.all (ps : List Prog) : Prog := ps.foldr Prog.seq .skip

/-- A program under a condition. -/
def Prog.when (c : Prop) [Decidable c] (p : Prog) : Prog := if c then p else .skip

/-- One of two programs. -/
def Prog.ite (c : Prop) [Decidable c] (p q : Prog) : Prog := if c then p else q

/-- A program for every entry of a list, in order. -/
def Prog.each {α : Type} (l : List α) (f : α → Prog) : Prog :=
  l.foldr (fun x p => Prog.seq (f x) p) .skip

/-- The outcome of a command whose meaning is a micro-program: its next state. -/
def Prog.outcome (p : Prog) (s : State) : Host.Outcome State Fault Refusal := .next (p.run s)

/-! ### Changing a part of the state -/

def modLamp (f : Lamp → Lamp) : Prog := .look fun s => .act (.lamp (f s.lamp))
def modRcl (f : Rcl → Rcl) : Prog := .look fun s => .act (.rcl (f s.rcl))
def modBoot (f : Boot → Boot) : Prog := .look fun s => .act (.boot (f s.boot))
def modAve (f : Ave → Ave) : Prog := .look fun s => .act (.ave (f s.ave))
def modXlt (f : Xlt → Xlt) : Prog := .look fun s => .act (.xlt (f s.xlt))
def modWrd (f : Wrd → Wrd) : Prog := .look fun s => .act (.wrd (f s.wrd))
def modXng (f : Xng → Xng) : Prog := .look fun s => .act (.xng (f s.xng))
def modCam (f : Cam → Cam) : Prog := .look fun s => .act (.cam (f s.cam))
def modRas (f : Ras → Ras) : Prog := .look fun s => .act (.ras (f s.ras))
def modDst (f : Dst → Dst) : Prog := .look fun s => .act (.dst (f s.dst))
def modRbt (f : Rbt → Rbt) : Prog := .look fun s => .act (.rbt (f s.rbt))
def modSco (f : Sco → Sco) : Prog := .look fun s => .act (.sco (f s.sco))
def modSgn (f : Sgn → Sgn) : Prog := .look fun s => .act (.sgn (f s.sgn))
def modHv (f : Hv → Hv) : Prog := .look fun s => .act (.hv (f s.hv))
def modCan (f : List CanCtl → List CanCtl) : Prog := .look fun s => .act (.can (f s.can))
def modSvc (f : Svc → Svc) : Prog := .look fun s => .act (.svc (f s.svc))
def modPorts (f : Ports → Ports) : Prog := .look fun s => .act (.ports (f s.ports))

/-- The first write of pin groups (R101, Table 03-18): their blocks drive them from now on. -/
def firstWrite (gs : List PinGroup) : Prog :=
  modPorts fun p => { p with begun := p.begun ++ gs.filter fun g => !p.begun.contains g }
def modBrg (f : Brg → Brg) : Prog := .look fun s => .act (.brg (f s.brg))

/-- `n` bytes the spec leaves open, from the free values due next. -/
def State.freeBytes (s : State) (n : Nat) : List Byte :=
  (upTo n).map fun i => (Config.freeValue (s.free + i)).setWidth 8

/-- Answer a register access with data. -/
def respond (v : Nat) : Prog := .act (.bus ⟨true, v⟩)

/-- Answer an access with an error response (R14). -/
def respondError : Prog := .act (.bus ⟨false, 0⟩)

/-! ### Writing registers -/

/-- The block stores a word in a register of its own; a complement pair is stored whole. -/
def setReg (r : Reg) (v : Nat) (i : Nat := 0) (j : Nat := 0) : Prog :=
  .seq (.act (.reg (r.at i j) v))
    (if r.rwp then .act (.reg (r.at i j + 4) (inv32 v)) else .skip)

/-- The block sets one field of a register of its own. -/
def setF (f : Field) (v : Nat) (i : Nat := 0) (j : Nat := 0) : Prog :=
  .look fun s => setReg f.reg (setBits (s.rd f.reg i j) f.hi f.lo v) i j

/-- The block sets bit `n` of a field. -/
def setFBit (f : Field) (n : Nat) (b : Bool) (i : Nat := 0) (j : Nat := 0) : Prog :=
  .look fun s => setReg f.reg
    (setBits (s.rd f.reg i j) (f.lo + n) (f.lo + n) (if b then 1 else 0)) i j

/-- Count events in a field, saturating at its largest value. -/
def bump (f : Field) (n : Nat := 1) (i : Nat := 0) (j : Nat := 0) : Prog :=
  .look fun s => setF f (satAdd f.max (s.fld f i j) n) i j

/-- Keep the largest value observed in a field, saturating. -/
def keepMax (f : Field) (v : Nat) (i : Nat := 0) (j : Nat := 0) : Prog :=
  .look fun s => setF f (max (s.fld f i j) (min v f.max)) i j

/-- Write bytes to a memory. -/
def store (id : MemId) (a : Nat) (bs : List Byte) : Prog := .act (.store id a bs)

/-! ### Retention RAM (R58 to R60) -/

/-- Content of the retention RAM as its reader sees it: bank A, or bank B once A is retired,
or where bank A's word is uncorrectable. -/
def State.retByte (s : State) (a : Nat) : Byte :=
  let ue := s.lamp.retErrs.any fun e => !e.bankB && e.uncorrectable && e.word == a / 8
  if s.lamp.retARetired || (ue && !s.lamp.retBRetired) then s.byte .retB a else s.byte .retA a

def State.retBytes (s : State) (a n : Nat) : List Byte := (upTo n).map fun i => s.retByte (a + i)

def State.retNum (s : State) (a n : Nat) : Nat := leNat (s.retBytes a n)

/-- The hardware writes a retention region: bank A and then bank B (R58). A word written anew
carries fresh check bits. -/
def retWrite (a : Nat) (bs : List Byte) : Prog :=
  .look fun s => Prog.all [
    Prog.when (!s.lamp.retARetired) (store .retA a bs),
    Prog.when (!s.lamp.retBRetired) (store .retB a bs),
    modLamp fun l => { l with retErrs := l.retErrs.filter fun e =>
      !(decide (a ≤ 8 * e.word) && decide (8 * e.word + 8 ≤ a + bs.length)) }]

/-- The retention content is valid (R63): the valid mark and layout 1. -/
def State.retValid (s : State) : Bool :=
  !s.lamp.retUnusable && s.retNum 0x08 4 == 0x44494C56 && s.retNum 0x04 2 == 1

/-! ### Physical address map (Table 04-2) -/

/-- Where a physical address lies. -/
inductive Place where
  | plaza (a : Nat) : Place
  | lpddr (a : Nat) : Place
  | block (a : Nat) : Place
  | twin (a : Nat) : Place
  | unmapped : Place
  deriving DecidableEq, Repr

/-- Bytes of Plaza that are mapped: 38.75 MiB on 31 banks (R112). -/
def State.plazaTop (s : State) : Nat :=
  if s.ave.failedBanks.length = 1 then 0x26C0000 else 0x2800000

/-- The 64 KiB slots of Table 01-8 that hold a register block. -/
def blockSlots : List Nat :=
  [0x00, 0x01, 0x02, 0x03, 0x04, 0x05, 0x06, 0x10, 0x11, 0x12, 0x13, 0x14, 0x15, 0x16, 0x17,
   0x20, 0x21, 0x30, 0x31, 0x40, 0x41, 0x42, 0x50, 0x60, 0x61, 0x62, 0x63, 0x64, 0x70, 0x80,
   0x90]

/-- Place of a physical address (R108). The twin window's own condition is the Bridge's. -/
def State.place (s : State) (pa : Nat) : Place :=
  if pa < s.plazaTop then .plaza pa
  else if 0xF0000000 ≤ pa && pa < 0xF0A00000 then
    (if blockSlots.contains ((pa - 0xF0000000) / 0x10000) then .block pa else .unmapped)
  else if 0x100000000 ≤ pa && pa < 0x100000000 + s.ave.ddrBytes then
    .lpddr (pa - 0x100000000)
  else if 0x800000000 ≤ pa && pa < 0x1000000000 then .twin (pa - 0x800000000)
  else .unmapped

/-- A byte of Plaza or the LPDDR window; 0 elsewhere. -/
def State.paByte (s : State) (pa : Nat) : Byte :=
  match s.place pa with
  | .plaza a => s.byte .plaza a
  | .lpddr a => s.byte .lpddr a
  | _ => 0

def State.paBytes (s : State) (pa n : Nat) : List Byte := (upTo n).map fun i => s.paByte (pa + i)

def State.paNum (s : State) (pa n : Nat) : Nat := leNat (s.paBytes pa n)

/-- Write bytes at a physical address, one by one where they lie; the parts that are not
Plaza or LPDDR4X are dropped. Words written whole carry fresh check bits. -/
def paStore (pa : Nat) (bs : List Byte) : Prog :=
  .look fun s =>
    match s.place pa with
    | .plaza a =>
      .seq (store .plaza a (bs.take (s.plazaTop - a)))
        (modAve fun v => { v with plazaErrs := v.plazaErrs.filter fun e =>
          !(decide (a ≤ 8 * e.word) && decide (8 * e.word + 8 ≤ a + bs.length)) })
    | .lpddr a =>
      .seq (store .lpddr a (bs.take (s.ave.ddrBytes - a)))
        (modAve fun v => { v with ddrErrs := v.ddrErrs.filter fun e =>
          !(decide (a ≤ 8 * e.word) && decide (8 * e.word + 8 ≤ a + bs.length)) })
    | _ => .skip

/-- The device runs: its logic side is powered and past WAKING. -/
def State.live (s : State) : Bool := s.lamp.power == .running || s.lamp.power == .quiet

/-- Bits [31:0] of the reference-tick count, as leases compare it (R446). -/
def State.ref32 (s : State) : Nat := s.lamp.refCount % 2 ^ 32

/-- Microseconds in model ticks of 40 ns (R13). -/
def usTicks (us : Nat) : Nat := 25 * us

/-- Milliseconds in model ticks. -/
def msTicks (ms : Nat) : Nat := 25000 * ms

/-- Role of this chip: 0 solo, 1 primary, 2 secondary (R24). -/
def State.secondary (s : State) : Bool := s.fld F.SYS_STATE_ROLE == 2

end Sys2Proof.Machine
end

