-- ==== Sys2Proof/Machine/Clock.lean ====
section
/-! DEFINITION. The passing of time: what one reference tick of 40 ns changes by itself
(assumption 2). Every other effect of time is a command of its own. -/

namespace Sys2Proof.Machine

/-- Reference ticks in a second, and lamplight ticks in a second (R13). -/
def refHz : Nat := 25000000
def lampHz : Nat := 32768

/-- The lamplight tick falls due in this reference tick. -/
def State.lampDue (s : State) : Bool := decide (refHz ≤ s.phase + lampHz)

/-- The lamplight domain over one reference tick: the 48-bit tick counter, and the
reference-tick count while the device runs (R505). -/
def Lamp.advance (l : Lamp) (due : Bool) : Lamp :=
  { l with
    tick := if due then (l.tick + 1) % 2 ^ 48 else l.tick
    refCount := if l.power = .running ∨ l.power = .quiet then (l.refCount + 1) % 2 ^ 64
      else l.refCount }

/-- One reference tick passes. In OFF the tick counter stands still (R30). -/
def State.advance (s : State) : State :=
  if s.lamp.power = .off then { s with time := s.time + 1 }
  else { s with
    time := s.time + 1
    phase := (s.phase + lampHz) % refHz
    lamp := s.lamp.advance s.lampDue }

end Sys2Proof.Machine
end

