-- ==== Sys2Proof/Machine/Codes.lean ====
section
/-! DEFINITION. Check codes and digests: CRC-32 (Table 03-7), CRC-16 and CRC-8, and SHA-256. -/

namespace Sys2Proof.Machine

/-- One bit of a reflected CRC with polynomial `poly`. -/
def crcStep (poly : Nat) (c : Nat) : Nat := if c % 2 = 1 then (c / 2) ^^^ poly else c / 2

/-- One byte of a reflected CRC. -/
def crcByte (poly : Nat) (c : Nat) (b : Byte) : Nat :=
  (upTo 8).foldl (fun x _ => crcStep poly x) (c ^^^ b.toNat)

/-- CRC-32, IEEE 802.3 polynomial, reflected, initial value and final XOR 0xFFFFFFFF. -/
def crc32 (bs : List Byte) : Nat := (bs.foldl (crcByte 0xEDB88320) 0xFFFFFFFF) ^^^ 0xFFFFFFFF

/-- One bit of a non-reflected CRC of width `w`. -/
def crcMsbStep (w poly : Nat) (c : Nat) : Nat :=
  if c / 2 ^ (w - 1) % 2 = 1 then (2 * c % 2 ^ w) ^^^ poly else 2 * c % 2 ^ w

/-- A non-reflected CRC of width `w` ≥ 8 over bytes, highest bit first. -/
def crcMsb (w poly init : Nat) (bs : List Byte) : Nat :=
  bs.foldl (fun c b => (upTo 8).foldl (fun x _ => crcMsbStep w poly x)
    (c ^^^ (b.toNat * 2 ^ (w - 8)))) init

/-- A reflected CRC-16 with polynomial 0x1021 reflected (0x8408). -/
def crc16r (init : Nat) (bs : List Byte) : Nat := bs.foldl (crcByte 0x8408) init

/-! ### SHA-256

Its constants are computed: the first 32 fraction bits of roots of the first primes. -/

/-- The integer `k`-th root of `n`, bit by bit from bit `bits - 1` down. -/
def intRoot (k n : Nat) (bits : Nat) : Nat :=
  match bits with
  | 0 => 0
  | b + 1 =>
    -- the higher bits of the root are those of the root of a shorter number
    let r := 2 * intRoot k (n / 2 ^ k) b
    if (r + 1) ^ k ≤ n then r + 1 else r

/-- The primes below 312: the first 64. -/
def smallPrimes : List Nat :=
  (upTo 312).filter fun n => 1 < n && (upTo 16).all fun d => n == d + 2 || n % (d + 2) != 0

/-- The first 32 fraction bits of the `k`-th root of `p`, for roots below 8. -/
def rootFraction (k p : Nat) : Nat := intRoot k (p * 2 ^ (32 * k)) 37 % 2 ^ 32

/-- The constant of each round: cube roots. -/
def shaRoundKeys : List Nat := smallPrimes.map (rootFraction 3)

/-- The digest before the first block, as pairs of its words n and n + 4: square roots. -/
def shaStart : List (Nat × Nat) :=
  let r (n : Nat) : Nat := rootFraction 2 (nth 0 smallPrimes n)
  (upTo 4).map fun n => (r n, r (n + 4))

/-- Rotate a 32-bit word right. -/
def rotr (n x : Nat) : Nat := (x >>> n) ||| (x <<< (32 - n)) % 2 ^ 32

/-- The word after a window of 16 words of the schedule, oldest first. -/
def shaNext (w : List Nat) : Nat :=
  let near (a b c x : Nat) : Nat := rotr a x ^^^ rotr b x ^^^ (x >>> c)
  (nth 0 w 0 + near 7 18 3 (nth 0 w 1) + nth 0 w 9 + near 17 19 10 (nth 0 w 14)) % 2 ^ 32

/-- One round: a new pair joins the last three. The pairs are the working words a to d, each with
its partner among e to h. -/
def shaStep (v : List (Nat × Nat)) (key : Nat) : List (Nat × Nat) :=
  let at_ (n : Nat) : Nat × Nat := nth (0, 0) v n
  let spread (i j k x : Nat) : Nat := rotr i x ^^^ rotr j x ^^^ rotr k x
  let x := (at_ 0).1
  let y := (at_ 0).2
  let pick := ((at_ 1).2 ^^^ (at_ 2).2) &&& y ^^^ (at_ 2).2
  let most := x &&& ((at_ 1).1 ||| (at_ 2).1) ||| ((at_ 1).1 &&& (at_ 2).1)
  let t := ((at_ 3).2 + spread 6 11 25 y + pick + key) % 2 ^ 32
  ((t + spread 2 13 22 x + most) % 2 ^ 32, ((at_ 3).1 + t) % 2 ^ 32) :: v.take 3

/-- The rounds of a block: the window moves by one word a round. -/
def shaRounds : List Nat → List Nat → List (Nat × Nat) → List (Nat × Nat)
  | [], _, v => v
  | k :: ks, w, v =>
    shaRounds ks (w.tail ++ [shaNext w]) (shaStep v ((k + nth 0 w 0) % 2 ^ 32))

/-- The digest after the blocks of a padded message, `n` in all. -/
def shaBlocks (n : Nat) (h : List (Nat × Nat)) (bs : List Byte) : List (Nat × Nat) :=
  match n with
  | 0 => h
  | m + 1 =>
    let v := shaRounds shaRoundKeys ((upTo 16).map fun i => beNat (slice bs (4 * i) 4)) h
    shaBlocks m (List.zipWith (fun x y => ((x.1 + y.1) % 2 ^ 32, (x.2 + y.2) % 2 ^ 32)) h v) (bs.drop 64)

/-- The SHA-256 digest of a message, 32 bytes. -/
def sha256 (bs : List Byte) : List Byte :=
  let l := bs.length
  let padded := bs ++ (0x80#8 :: zeros ((119 - l % 64) % 64)) ++ beBytes 8 (8 * l)
  let h := shaBlocks (padded.length / 64) shaStart padded
  (h.map fun x => x.1).flatMap (beBytes 4) ++ (h.map fun x => x.2).flatMap (beBytes 4)

/-! ### ECDSA over P-256 (R91) -/

/-- The field prime, the curve constants and the base point's order and coordinates. -/
def p256P : Nat := 0xffffffff00000001000000000000000000000000ffffffffffffffffffffffff
def p256B : Nat := 0x5ac635d8aa3a93e7b3ebbd55769886bc651d06b0cc53b0f63bce3c3e27d2604b
def p256N : Nat := 0xffffffff00000000ffffffffffffffffbce6faada7179e84f3b9cac2fc632551
def p256Gx : Nat := 0x6b17d1f2e12c4247f8bce6e563a440f277037d812deb33a0f4a13945d898c296
def p256Gy : Nat := 0x4fe342e2fe1a7f9b8ee7eb4a7c0f9e162bce33576b315ececbb6406837bf51f5

/-- Modular power by squaring over `fuel` bits of the exponent. -/
def powMod (fuel m b e : Nat) : Nat :=
  match fuel with
  | 0 => 1 % m
  | n + 1 =>
    let r := powMod n m (b * b % m) (e / 2)
    if e % 2 = 1 then r * b % m else r

/-- Modular inverse for a prime modulus of up to 256 bits. -/
def invMod (m a : Nat) : Nat := powMod 256 m (a % m) (m - 2)

/-- A point of the curve in affine coordinates; none is the point at infinity. -/
abbrev EcPoint := Option (Nat × Nat)

/-- Difference modulo `m`. -/
def subMod (m a b : Nat) : Nat := (a + (m - b % m)) % m

/-- Sum of two points. -/
def ecAdd (a b : EcPoint) : EcPoint :=
  match a, b with
  | none, q => q
  | q, none => q
  | some (x1, y1), some (x2, y2) =>
    if x1 = x2 ∧ (y1 + y2) % p256P = 0 then none
    else
      let l := if x1 = x2 ∧ y1 = y2
        then (3 * x1 * x1 + (p256P - 3)) % p256P * invMod p256P (2 * y1) % p256P
        else subMod p256P y2 y1 * invMod p256P (subMod p256P x2 x1) % p256P
      let x3 := subMod p256P (subMod p256P (l * l % p256P) x1) x2
      some (x3, subMod p256P (l * subMod p256P x1 x3 % p256P) y1)

/-- Multiple of a point over `fuel` bits of the factor. -/
def ecMul (fuel k : Nat) (q : EcPoint) : EcPoint :=
  match fuel with
  | 0 => none
  | n + 1 =>
    let r := ecMul n (k / 2) (ecAdd q q)
    if k % 2 = 1 then ecAdd r q else r

/-- (X, Y) is a valid P-256 key: both below the prime and on the curve. -/
def p256KeyOk (x y : Nat) : Bool :=
  x < p256P && y < p256P
    && y * y % p256P == (x * x % p256P * x + (p256P - 3) * x + p256B) % p256P

/-- Verification of (r, s) under the key (x, y) for a digest. -/
def ecdsaOk (x y r s : Nat) (digest : List Byte) : Bool :=
  p256KeyOk x y && 0 < r && r < p256N && 0 < s && s < p256N
    && (let z := beNat digest
        let w := invMod p256N s
        match ecAdd (ecMul 256 (z * w % p256N) (some (p256Gx, p256Gy)))
            (ecMul 256 (r * w % p256N) (some (x, y))) with
        | none => false
        | some (px, _) => px % p256N == r)

end Sys2Proof.Machine
end

