-- ==== Sys2Proof/Machine/Faults.lean ====
section
/-! DEFINITION. Reporting and recording of faults, FAULT_N and the lease table (chapter 16,
R443 to R448 and R463). -/

namespace Sys2Proof.Machine

/-- Unit identifiers of Table 16-8. -/
def unitXng : Nat := 2
def unitXlt : Nat := 3
def unitDst (d : Nat) : Nat := 4 + d
def unitTile (n : Nat) : Nat := 12 + n
def unitRas : Nat := 28
def unitVis (e : Nat) : Nat := 29 + e
def unitCam : Nat := 33
def unitRbt : Nat := 34
def unitSco (x : Nat) : Nat := 35 + x
def unitSgn : Nat := 37
def unitHub : Nat := 38
def unitBrg : Nat := 39
def unitDdr : Nat := 40
def unitBank (b : Nat) : Nat := 48 + b
def unitRouter (n : Nat) : Nat := 80 + n
def unitNone : Nat := 0x7F

/-- The 24 bytes of a fault record (Table 16-3). -/
def FaultRec.bytes (r : FaultRec) : List Byte :=
  leBytes 4 r.seq ++ leBytes 6 r.tick ++ leBytes 2 r.code ++ leBytes 1 r.unit
    ++ leBytes 1 r.queue ++ leBytes 2 r.tag ++ leBytes 4 r.detail ++ leBytes 1 r.status
    ++ leBytes 1 r.kind ++ zeros 2

/-- Fault codes whose rules set a condition of Table 16-13 (assumption 20). -/
def faultnCodes : List Nat :=
  [0x0001, 0x0102, 0x0208, 0x0209, 0x020C, 0x0305, 0x4201, 0x4202, 0x4203, 0x9001, 0x9005,
   0x9008]

/-- Codes that record an action of the reclaimer: KIND 2 (assumption 21). -/
def recoveryCodes : List Nat := [0x9002, 0x9003, 0x9004, 0x9005, 0x9006]

/-- The "bit n: fault base + n raised" fields of the register tables: first byte of the fault codes,
field, and the index of the block's copy. -/
def eventTable : List (Nat × Field × Nat) := [
  (0x20, F.TILE_EVENT_MEM_UE, 0), (0x31, F.CAM_EVENT_FAULT, 0), (0x40, F.RBT_EVENT_FAULT, 0),
  (0x41, F.SCO_EVENT_FAULT, 0), (0x42, F.SGN_EVENT_FAULT, 0), (0x50, F.HVS_EVENT_FAULT, 0),
  (0x60, F.CAN_EVENT_FAULT, 0), (0x61, F.CAN_EVENT_FAULT, 1), (0x62, F.SVC_EVENT_FAULT, 0),
  (0x70, F.BRG_EVENT_FAULT, 0), (0x90, F.RCL_EVENT_FAULT, 0)]

/-- The field whose bit n a fault of a block sets, with the index of the block's copy and the
code of bit 0. -/
def eventField (code : Nat) : Option (Field × Nat × Nat) :=
  let hi := code / 256
  if 0x10 ≤ hi ∧ hi ≤ 0x17 then some (F.DST_EVENT_FAULT, hi - 0x10, hi * 256 + 1)
  else (eventTable.find? fun e => e.1 == hi).map fun e => (e.2.1, e.2.2, hi * 256 + 1)

/-- Set the block's event bit for a fault code. -/
def setEventBit (code : Nat) : Prog :=
  match eventField code with
  | none => .skip
  | some (f, i, base) => Prog.when (base ≤ code ∧ code - base < f.width) (setFBit f (code - base) true i)

/-- An enabled RCL_FAULTN_CODE_n names the code. -/
def State.faultnMatch (s : State) (code n : Nat) : Bool :=
  s.flag F.RCL_FAULTN_CODE_EN n && s.fld F.RCL_FAULTN_CODE_CODE n == code

/-- Append a record to the ring and, where R444 says so, to the retention history. -/
def appendRecord (code unit detail queue tag status kind : Nat) : Prog :=
  .look fun s =>
    let r : FaultRec := ⟨s.nextSeq, s.lamp.tick % 2 ^ 48, code, unit, queue,
      if queue = 0xFF then 0 else tag, detail, status, kind⟩
    let hist := kind ≠ 0 ∨ faultnCodes.contains code ∨ (upTo 8).any (s.faultnMatch code)
    Prog.all [
      Prog.when (64 ≤ s.ring.length) (modRcl fun c => { c with ringWrap := true }),
      .act (.record r),
      Prog.when hist (retWrite (0x100 + 24 * (s.nextSeq % 32)) r.bytes)]

/-- What the reclaimer does with a fault message: it is recorded, the block's event bit is set and the
FAULT_N latches that name its code are set (R443, R444, R463). -/
def takeMessage (code unit detail queue tag status : Nat) : Prog :=
  Prog.all [
    appendRecord code unit (detail % 2 ^ 32) queue tag status
      (if recoveryCodes.contains code then 2 else 0),
    setEventBit code,
    .look fun s => Prog.each (upTo 8) fun n =>
      Prog.when (s.faultnMatch code n) (setFBit F.RCL_FAULTN_LATCH_LATCH n true)]

/-- The reclaimer uses its RCL_FAULTN_CODE pairs at every message: one that disagrees raises the block's
complement-mismatch fault and is repaired (R19). -/
def useFaultnCodes : Prog :=
  Prog.each (upTo 8) fun n => .look fun s => Prog.when (s.pairOk R.RCL_FAULTN_CODE n 0 = false) <| .seq
    (setReg R.RCL_FAULTN_CODE (resetWord s.ident R.RCL_FAULTN_CODE (R.RCL_FAULTN_CODE.at n 0)) n)
    (takeMessage 0x90FF unitNone (R.RCL_FAULTN_CODE.at n 0 % 0x10000) 0xFF 0 0xFF)

/-- A fault message reaches the reclaimer. -/
def raise (code unit : Nat) (detail : Nat := 0) (queue : Nat := 0xFF) (tag : Nat := 0)
    (status : Nat := 0xFF) : Prog :=
  .seq useFaultnCodes (takeMessage code unit detail queue tag status)

/-- A fault whose rule limits it to one message per `period` model ticks (R443): the key of
the limit is the code with a number that tells sources apart. -/
def raiseLimited (period key code unit : Nat) (detail : Nat := 0) : Prog :=
  .look fun s =>
    let k := code * 0x10000 + key
    Prog.when (((keyGet s.rcl.lastMsg k).map fun t => decide (t + period ≤ s.time)).getD true) <|
      .seq (modRcl fun c => { c with lastMsg := keyPut c.lastMsg k s.time })
        (raise code unit detail)

/-- One message per second. -/
def raiseSecond (code unit : Nat) (detail : Nat := 0) (key : Nat := 0) : Prog :=
  raiseLimited 25000000 key code unit detail

/-- The complement-mismatch fault of a block (R17 to R19): code 0xbbFF and the offset of the
register's value word. -/
def raiseMismatch (addr : Nat) : Prog :=
  let bb := addr / 0x10000 % 0x100
  let unit := if 0x10 ≤ bb ∧ bb ≤ 0x17 then unitDst (bb - 0x10)
    else if bb = 0x05 then 0 else if bb = 0x06 then unitXng else if bb = 0x04 then unitXlt
    else if bb = 0x20 then unitTile 0 else if bb = 0x21 then unitRas
    else if bb = 0x31 then unitCam else if bb = 0x40 then unitRbt
    else if bb = 0x41 then unitSco 0 else if bb = 0x42 then unitSgn
    else if bb = 0x70 then unitBrg
    else if 0x50 ≤ bb ∧ bb ≤ 0x64 then unitHub else unitNone
  raise (bb * 256 + 0xFF) unit (addr % 0x10000)

/-- A use of a complement pair: where it disagrees, the fault is raised once and the pair is
repaired to the reset value in the same step (R19). -/
def usePair (r : Reg) (i : Nat := 0) (j : Nat := 0) : Prog :=
  .look fun s => Prog.when (s.pairOk r i j = false) <| Prog.all [
    raiseMismatch (r.at i j),
    setReg r (resetWord s.ident r (r.at i j)) i j]

/-! ### The register at an address -/

/-- Registers of a 64 KiB slot of the register space (Table 01-8). -/
def blockRegs (slot : Nat) : List Reg :=
  if slot = 0x00 then regsSYS else if slot = 0x01 then regsLAMP
  else if slot = 0x02 then regsBOOT else if slot = 0x03 then regsAVE
  else if slot = 0x04 then regsXLT else if slot = 0x05 then regsWRD
  else if slot = 0x06 then regsXNG else if 0x10 ≤ slot ∧ slot < 0x18 then regsDST
  else if slot = 0x20 then regsTILE else if slot = 0x21 then regsRAS
  else if slot = 0x30 then regsVIS else if slot = 0x31 then regsCAM
  else if slot = 0x40 then regsRBT else if slot = 0x41 then regsSCO
  else if slot = 0x42 then regsSGN else if slot = 0x50 then regsHVS
  else if slot = 0x60 ∨ slot = 0x61 then regsCAN else if slot = 0x62 then regsSVC
  else if slot = 0x63 then regsI2C else if slot = 0x64 then regsGPIO
  else if slot = 0x70 then regsBRG else if slot = 0x80 then regsDDR
  else if slot = 0x90 then regsRCL else []

/-- Slot of an address of the register space. -/
def slotOfAddr (addr : Nat) : Nat := (addr - 0xF0000000) / 0x10000

/-- The word that an address names: element `i`, `j` of a register, or its complement word. -/
structure RegHit where
  r : Reg
  i : Nat
  j : Nat
  comp : Bool
  deriving DecidableEq, Repr

/-- The word of register `r` at an address. -/
def Reg.hit (r : Reg) (addr : Nat) : Option RegHit :=
  if addr < r.addr then none
  else
    let o := addr - r.addr
    let i := if r.s1 = 0 then 0 else o / r.s1
    let o1 := o - r.s1 * i
    let j := if r.s2 = 0 then 0 else o1 / r.s2
    let o2 := o1 - r.s2 * j
    if r.n1 ≤ i ∨ r.n2 ≤ j then none
    else if o2 = 0 then some ⟨r, i, j, false⟩
    else if o2 = 4 ∧ r.rwp = true then some ⟨r, i, j, true⟩
    else none

/-- The register word at an address; none at an offset that holds no register. -/
def findHit (addr : Nat) : Option RegHit := (blockRegs (slotOfAddr addr)).findSome? fun r => r.hit addr

/-- Complement pairs of some blocks whose stored words disagree. -/
def State.badPairs (s : State) (slots : List Nat) : List RegHit :=
  (s.regs.filterMap fun e =>
    if slots.contains (slotOfAddr e.1) && decide (0xF0000000 ≤ e.1) then findHit e.1 else none).filter
      fun h => !s.pairOk h.r h.i h.j

/-- The blocks use their complement pairs (R19). -/
def usePairs (slots : List Nat) : Prog :=
  .look fun s => Prog.each (s.badPairs slots) fun h => usePair h.r h.i h.j

/-- Uses of the complement pairs of some registers, every copy of each (R19). -/
def useRegs (rs : List Reg) : Prog :=
  .look fun s => Prog.each ((s.regs.filterMap fun e =>
    if 0xF0000000 ≤ e.1 then findHit e.1 else none).filter fun h =>
      rs.contains h.r && !s.pairOk h.r h.i h.j) fun h => usePair h.r h.i h.j

/-! ### FAULT_N (R463, Table 16-13) -/

/-- The conditions of Table 16-13 that hold, bit c for condition c in table order. -/
def State.faultnCause (s : State) : Nat :=
  let b (n : Nat) (c : Bool) : Nat := if c then 2 ^ n else 0
  b 0 s.lamp.resetHold + b 1 (s.boot.phase == 8) + b 2 (s.boot.phase == 7)
    + b 3 s.rcl.scriptFailed + b 4 s.lamp.refOnRc
    + b 5 (s.lamp.retARetired || s.lamp.retBRetired)
    + b 6 (s.rd R.SGN_FAIL_LO != 0 || s.rd R.SGN_FAIL_HI != 0)
    + b 7 (s.rcl.retired != []) + b 8 (s.rd R.RCL_FAULTN_LATCH != 0)
    + b 9 (!s.rcl.pairOk) + b 10 s.lamp.parkedHold

/-- FAULT_N driven low; not driven in OFF (Table 03-18). -/
def State.faultN (s : State) : Bool := s.lamp.power != .off && s.faultnCause != 0

/-! ### Leases (R445, R446) -/

/-- Take a lease record: `term` reference ticks from now, 0 permanent. -/
def takeLease (n kind ownerKind owner resource term : Nat) : Prog :=
  .look fun s => .act (.lease n (some ⟨kind, ownerKind, owner, resource, term,
    (s.ref32 + term) % 2 ^ 32⟩))

/-- Free a lease record. -/
def freeLease (n : Nat) : Prog := .act (.lease n none)

/-- A renewal of one record (R446). -/
def renewLease (n : Nat) : Prog :=
  .look fun s => match keyGet s.leases n with
    | none => .skip
    | some l => .act (.lease n (some { l with expiry := (s.ref32 + l.term) % 2 ^ 32 }))

/-- Renew every record of an owner. -/
def renewOwner (ownerKind owner : Nat) (kinds : List Nat) : Prog :=
  .look fun s => Prog.each s.leases fun e =>
    Prog.when (e.2.ownerKind = ownerKind ∧ e.2.owner = owner ∧ kinds.contains e.2.kind)
      (renewLease e.1)

/-- A record has expired: non-zero term and (counter - expiry) mod 2^32 below 2^31 (R446). -/
def State.leaseExpired (s : State) (n : Nat) : Bool :=
  match keyGet s.leases n with
  | none => false
  | some l => l.term != 0 && (s.ref32 + 2 ^ 32 - l.expiry) % 2 ^ 32 < 2 ^ 31

/-- Lease term of the queue-held resources (WRD_LEASE_TERM, 0 taken as 1). -/
def State.queueTerm (s : State) : Nat := zeroAsOne (s.fld F.WRD_LEASE_TERM_TICKS)

/-- Lease term of unit-held resources: RCL_CTRL.UNIT_TERM in 100 µs, clamped to 2 to 100. -/
def State.unitTerm (s : State) : Nat := 2500 * clampNat 2 100 (s.fld F.RCL_CTRL_UNIT_TERM)

/-- First free mutex record of 132 to 191 (Table 16-6). -/
def State.freeMutexLease (s : State) : Option Nat :=
  ((upTo 60).map (· + 132)).find? fun n => (keyGet s.leases n).isNone

/-- The words of a lease record (Table 16-7). -/
def Lease.word (l : Lease) (i : Nat) : Nat :=
  if i = 0 then l.kind + l.ownerKind * 2 ^ 8 + l.owner * 2 ^ 16
  else if i = 1 then l.resource % 2 ^ 16
  else if i = 2 then l.term
  else l.expiry

end Sys2Proof.Machine
end

