-- ==== Sys2Proof/Machine/Reset.lean ====
section
/-! DEFINITION. The resets other than a power-on reset (chapter 02, R53 to R57, Table 02-10) and
the reclaimer's escalation (R457). -/

namespace Sys2Proof.Machine

/-- Bits of LAMP_RESET_CAUSE (Table 02-17). -/
def causePin : Nat := 1
def causeCmd : Nat := 2
def causePgLoss : Nat := 3
def causeSysPll : Nat := 4
def causeRefFail : Nat := 5
def causeEscalate : Nat := 6
def causeBridge : Nat := 7
def causeThermal : Nat := 8
def causeSelfTest : Nat := 9

/-- Record a cause in LAMP_RESET_CAUSE and among those since the previous reset (R56). -/
def recordCause (bit : Nat) : Prog :=
  .seq
    (.look fun s => setReg R.LAMP_RESET_CAUSE (s.rd R.LAMP_RESET_CAUSE ||| 2 ^ bit))
    (modLamp fun l => { l with causeSince := l.causeSince ||| 2 ^ bit })

/-- Every register outside the lamplight domain returns to its reset word: all blocks but LAMP
and the reclaimer, which lies in that domain (R449; assumption 30). -/
def clearLogicRegs : Prog :=
  .seq (.act (.clearRegs 0xF0000000 0xF0010000)) (.act (.clearRegs 0xF0020000 0xF0900000))

/-- The logic side is reset: every block returns to its state after reset; the retention RAM,
the flash, the OTP, the fault ring and what the board drives stay (Table 02-10). -/
def logicReset : Prog :=
  .look fun s => Prog.all [
    clearLogicRegs,
    .act .clearLeases,
    modRcl fun c => { c with current := none, pending := [], fenced := [], retired := [],
                             recent := [], scriptFailed := false, injectionHold := false,
                             detour := false },
    .act (.boot Boot.reset),
    modAve fun v => { Ave.reset with plazaErrs := v.plazaErrs, ddrErrs := v.ddrErrs },
    .act (.xlt Xlt.reset),
    .act (.wrd Wrd.reset),
    .act (.xng Xng.reset),
    .act (.cam Cam.reset),
    .act (.ras Ras.reset),
    .act (.dst Dst.reset),
    .act (.rbt Rbt.reset),
    .act (.sco Sco.reset),
    .act (.sgn Sgn.reset),
    .act (.wipe .icon),
    .act (.wipe .img),
    modLamp fun l => { l with tempValid := List.replicate 12 true, quietGated := false },
    .act (.hv { Hv.reset with powered := s.lamp.pmicEn, ign := s.hv.ign }),
    .act (.can [CanCtl.reset, CanCtl.reset]),
    modSvc fun v => { Svc.reset with intakeDirty := v.intakeDirty, intakeSlotB := v.intakeSlotB,
                                     retireDirty := v.retireDirty,
                                     retireSlotB := v.retireSlotB },
    modPorts fun p => { Ports.reset with gpioExt := p.gpioExt, te := p.te },
    modBrg fun b => { Brg.reset with resetAt := b.resetAt }]

/-- Kinds of reset that are a warm reset (Table 02-10): every cause but RESET_N and the Bridge. -/
def warmCause (bit : Nat) : Bool := bit != causePin && bit != causeBridge

/-- A warm reset discards every pending value, the lamplight domain's included (R17, 00_scope). -/
def dropPending : Prog :=
  .look fun s => Prog.each s.rwpPend fun e => .act (.pend e.1 none)

/-- The logic-side reset is released while the rails are up and RESET_N is high: the straps are
sampled from their balls, and XSPI_RST_N goes high (R70, Table 03-18). -/
def releaseLogic : Prog :=
  .look fun s =>
    let up := s.lamp.pwrGood && !s.lamp.resetNLow
    .seq (modLamp fun l => { l with straps := if up then l.strapBalls else l.straps })
      (modPorts fun p => { p with xspiRstN := up })

/-- A reset of the logic side with its cause: it enters WAKING at step 3, or, but for a RESET_N
reset, at step 2 while PWR_GOOD is low (R41, R53 to R56). -/
def logicSideReset (bit : Nat) : Prog :=
  Prog.all [
    recordCause bit,
    Prog.when (warmCause bit = true) dropPending,
    logicReset,
    modLamp fun l => { l with
      power := .waking
      wakingStep := if l.pwrGood || bit == causePin then 3 else 2
      wakingAt := l.tick
      parkStep := 0
      latchedWake := false
      causeSince := 0
      sysCause := l.causeSince % 256
      pllReq := 1
      refOnRc := bit == causeRefFail
      attempts := 0
      retryDue := false
      quietPlls := 0
      thermStep := 0
      thermChangedAt := none
      resetHold := true
      refCount := 0 },
    releaseLogic]

/-- The logic side is powered or waking, so that a reset of it means something. -/
def State.resettable (s : State) : Bool :=
  s.lamp.power == .waking || s.lamp.power == .running || s.lamp.power == .quiet

/-- A warm reset with a cause (R53, R56). -/
def warmReset (bit : Nat) : Prog :=
  .look fun s => Prog.when (s.resettable = true) (logicSideReset bit)

/-- The reclaimer requests a warm reset with cause ESCALATE (R457). -/
def escalate : Prog :=
  .look fun s => Prog.when (s.resettable = true) <| .seq
    (modRcl fun c => { c with escalating := true })
    (.seq (bump F.RCL_RECOVER_COUNT_ESCALATED) (logicSideReset causeEscalate))

end Sys2Proof.Machine
end

