-- ==== Sys2Proof/Machine/Avenue.lean ====
section
/-! DEFINITION. Plaza, LPDDR4X, region locks and poison tags as the units and the direct
accesses meet them (chapter 04, R108 to R125 and R136), and the request
of a repair read (R103). -/

namespace Sys2Proof.Machine

/-! ### Poison tags (R123 to R125) -/

/-- A tag reads as poisoned when it is set or when its stored pair disagrees (R123). -/
def PoisonTags.has (t : PoisonTags) (i : Nat) : Bool := t.tag.contains i || t.compZero.contains i

def PoisonTags.set (t : PoisonTags) (i : Nat) : PoisonTags :=
  ⟨if t.tag.contains i then t.tag else i :: t.tag,
   if t.compZero.contains i then t.compZero else i :: t.compZero⟩

def PoisonTags.clear (t : PoisonTags) (i : Nat) : PoisonTags :=
  ⟨t.tag.filter (· ≠ i), t.compZero.filter (· ≠ i)⟩

/-- Number of poisoned indexes. -/
def PoisonTags.count (t : PoisonTags) : Nat :=
  t.tag.length + (t.compZero.filter fun i => !t.tag.contains i).length

/-- The byte at a physical address lies on a poisoned page or granule. -/
def State.poisonedAt (s : State) (pa : Nat) : Bool :=
  match s.place pa with
  | .plaza a => s.ave.plazaPoison.has (a / 4096)
  | .lpddr a => s.ave.ddrPoison.has (a / 65536)
  | _ => false

/-- Indexes of the blocks of `size` bytes that `n` bytes from `a` touch. -/
def touched (size a n : Nat) : List Nat :=
  if n = 0 then [] else (upTo ((a + n - 1) / size - a / size + 1)).map (· + a / size)

/-- Bytes from `lo` on, below `hi`, that the intervals cover without a gap: where the cover ends. -/
def coverEnd (fuel lo : Nat) (l : List (Nat × Nat)) : Nat :=
  match fuel with
  | 0 => lo
  | k + 1 => match l.find? fun p => decide (p.1 ≤ lo) && decide (lo < p.1 + p.2) with
    | none => lo
    | some p => coverEnd k (p.1 + p.2) l

/-- Indexes of the blocks of `size` bytes that the intervals together cover wholly. -/
def wholeUnits (size : Nat) (l : List (Nat × Nat)) : List Nat :=
  (l.flatMap fun p => touched size p.1 p.2).dedup.filter fun i =>
    (i + 1) * size ≤ coverEnd l.length (i * size) l

/-- Set the tag of every page or granule that `n` bytes from physical address `pa` touch. -/
def poisonRange (pa n : Nat) : Prog :=
  .look fun s => match s.place pa with
    | .plaza a => modAve fun v =>
        { v with plazaPoison := (touched 4096 a n).foldl PoisonTags.set v.plazaPoison }
    | .lpddr a => modAve fun v =>
        { v with ddrPoison := (touched 65536 a n).foldl PoisonTags.set v.ddrPoison }
    | _ => .skip

/-- Clear the tag of every page or granule that one of these intervals of physical addresses, or
several of them together, cover wholly (R125). -/
def cleanRanges (l : List (Nat × Nat)) : Prog :=
  .look fun s =>
    let plaza := l.filterMap fun p => match s.place p.1 with
      | .plaza a => some (a, p.2)
      | _ => none
    let ddr := l.filterMap fun p => match s.place p.1 with
      | .lpddr a => some (a, p.2)
      | _ => none
    modAve fun v => { v with
      plazaPoison := (wholeUnits 4096 plaza).foldl PoisonTags.clear v.plazaPoison
      ddrPoison := (wholeUnits 65536 ddr).foldl PoisonTags.clear v.ddrPoison }

def cleanRange (pa n : Nat) : Prog := cleanRanges [(pa, n)]

/-- Clear the tag of the page or granule that holds `pa`, which a repair read has rewritten (R125). A
granule's tag goes with the page that was rewritten in it (DEDUCED, assumption 129). -/
def cleanPage (pa : Nat) : Prog :=
  .look fun s => match s.place pa with
    | .plaza a => modAve fun v => { v with plazaPoison := v.plazaPoison.clear (a / 4096) }
    | .lpddr a => modAve fun v => { v with ddrPoison := v.ddrPoison.clear (a / 65536) }
    | _ => .skip

/-- The Avenue node that answers an unmapped address: the LPDDR4X controller's node 30 in the
LPDDR window, the Bridge's node 5 in the twin window and node 0 elsewhere (assumption 22). -/
def nodeOf (pa : Nat) : Nat :=
  if 0x100000000 ≤ pa ∧ pa < 0x200000000 then 30
  else if 0x800000000 ≤ pa then 5 else 0

/-! ### Region locks (R120 to R122) -/

/-- Lock entries that conflict with an access by `who` to pages `base` on. A write conflicts
with another holder's STABLE or EXCLUSIVE lock, a read with EXCLUSIVE. A lock in the
reclaimer's hands is another holder's (R454). -/
def State.lockConflict (s : State) (who : Option Holder) (base pages : Nat) (write : Bool) :
    Bool :=
  s.ave.locks.any fun l => match l with
    | none => false
    | some k =>
      (k.transferred || some k.holder != who) && (write || k.mode == 2)
        && k.base < base + pages && base < k.base + k.pages

/-- A direct access (R121) to `n` bytes at `pa` conflicts with a region lock. -/
def State.directConflict (s : State) (pa n : Nat) (write : Bool) : Bool :=
  n != 0 && s.lockConflict none (pa / 4096) ((pa + n - 1) / 4096 - pa / 4096 + 1) write

/-- A refused direct access (R121). The spec does not say which unit fault 0x0307 names: the model
names the router of the node that answers, node 0 for Plaza (DESIGN CHOICE, assumption 130). -/
def regionConflict (pa : Nat) : Prog :=
  .seq (setF F.AVE_EVENT_REGION_CONFLICT 1)
    (raise 0x0307 (unitRouter (nodeOf pa)))

/-- First free region-lock entry. -/
def State.freeLock (s : State) : Option Nat :=
  (upTo 64).find? fun n => (nth none s.ave.locks n).isNone

/-- Take a region-lock entry with its lease record (Table 16-6). -/
def takeLock (n base pages mode : Nat) (holder : Holder) : Prog :=
  .look fun s => .seq
    (modAve fun v => { v with locks := upd v.locks n (some ⟨base, pages, mode, holder, false⟩) })
    (match holder with
     | .queue q => takeLease n 1 1 q n s.queueTerm
     | .unit u => .seq (usePair R.RCL_CTRL) (takeLease n 1 3 u n s.unitTerm)
     | .loader => takeLease n 1 4 0 n 0)

/-- Free a region-lock entry and its record; the acquisition that has waited longest for an entry
gets it (R122). -/
def freeLock (n : Nat) : Prog := Prog.all [
  modAve fun v => { v with locks := upd v.locks n none },
  freeLease n,
  .look fun s => match s.ave.lockWait with
    | [] => .skip
    | k :: rest => .seq (modAve fun v => { v with lockWait := rest })
        (takeLock n k.base k.pages k.mode k.holder)]

/-- Acquire a region lock: at once where an entry is free, and otherwise once one is released
(R122). -/
def acquireLock (base pages mode : Nat) (holder : Holder) : Prog :=
  .look fun s => match s.freeLock with
    | some n => takeLock n base pages mode holder
    | none => modAve fun v => { v with
        lockWait := v.lockWait ++ [⟨base, pages, mode, holder, false⟩] }

/-- Entries held by `who`. -/
def State.locksOf (s : State) (who : Holder) : List Nat :=
  (upTo 64).filter fun n => match nth none s.ave.locks n with
    | none => false
    | some k => k.holder == who

/-- Entries with which `who` holds exactly these pages. -/
def State.lockEntries (s : State) (who : Holder) (base pages : Nat) : List Nat :=
  (s.locksOf who).filter fun n => match nth none s.ave.locks n with
    | none => false
    | some k => k.base == base && k.pages == pages

/-- `who` gives one lock on these pages back; one that still waits for an entry is given up. -/
def releaseLock (who : Holder) (base pages : Nat) : Prog :=
  .look fun s => match s.lockEntries who base pages with
    | n :: _ => freeLock n
    | [] => modAve fun v => { v with lockWait := v.lockWait.eraseP fun k =>
        k.holder == who && k.base == base && k.pages == pages }

/-- `who` gives up every lock that it waits for. -/
def dropLockWaits (who : Holder) : Prog :=
  modAve fun v => { v with lockWait := v.lockWait.filter fun k => k.holder != who }

/-! ### Repair requests (R103) -/

def Sect.destSel (x : Sect) : Nat := bits x.flags 1 0
def Sect.repairable (x : Sect) : Bool := bitN x.flags 2 == 1

/-- Index of the loaded section whose copy holds physical address `pa`. -/
def State.sectAt (s : State) (pa : Nat) : Option Nat :=
  (upTo s.boot.sects.length).find? fun i => match s.boot.sects[i]? with
    | none => false
    | some x => x.state == 2 && x.destSel == 0 && x.dest ≤ pa && pa < x.dest + x.length

/-- Index of the loaded section whose copy holds byte `a` of the icon SRAM. -/
def State.iconSectAt (s : State) (a : Nat) : Option Nat :=
  (upTo s.boot.sects.length).find? fun i => match s.boot.sects[i]? with
    | none => false
    | some x => x.state == 2 && x.destSel == 1 && x.dest ≤ a && a < x.dest + x.length

/-- A repair read of a section that holds this address can be made (R103). -/
def State.canRepair (s : State) (pa : Nat) : Bool :=
  s.flag F.BOOT_REPAIR_CTRL_REPAIR_EN && (match s.sectAt pa with
    | none => false
    | some i => match s.boot.sects[i]? with
      | none => false
      | some x => x.repairable)

/-- Ask for a repair of one page of section `i`, under a region lock of the loader where the
page is one of the physical address space. -/
def addRepair (i page : Nat) (lockIt : Bool) : Prog :=
  .look fun s =>
    if s.boot.repairs.any fun r => r.sect == i && r.pages.contains page then .skip
    else .seq (Prog.when (lockIt = true) (acquireLock page 1 2 .loader))
      (modBoot fun b => { b with
        repairs := if b.repairs.any fun r => r.sect == i
          then b.repairs.map fun r => if r.sect = i then { r with pages := r.pages ++ [page] } else r
          else b.repairs ++ [⟨i, [page], 0⟩] })

/-- An uncorrectable error at `pa` starts a repair read where its section is repairable. -/
def requestRepair (pa : Nat) : Prog :=
  .seq (usePair R.BOOT_REPAIR_CTRL) <| .look fun s => Prog.when (s.canRepair pa = true) <|
    match s.sectAt pa with
    | none => .skip
    | some i => addRepair i (pa / 4096) true

/-- The same for a byte of the icon SRAM (R341). -/
def requestIconRepair (a : Nat) : Prog :=
  .seq (usePair R.BOOT_REPAIR_CTRL) <| .look fun s => match s.iconSectAt a with
    | none => .skip
    | some i => Prog.when (s.flag F.BOOT_REPAIR_CTRL_REPAIR_EN = true
        ∧ ((s.boot.sects[i]?).map Sect.repairable).getD false = true)
        (addRepair i (a / 4096) false)

/-- A bank is declared failed while running (R116). -/
def bankDown : Prog := .seq (setF F.AVE_EVENT_BANK_FAIL 1) escalate

/-- Plaza declares a bank failed, with its fault (R116). -/
def bankFail (bank : Nat) : Prog := .seq (raise 0x0303 (unitBank bank)) bankDown

/-! ### Errors of stored words (R113, R114, R136) -/

/-- Plaza words of `n` bytes from `a` that are in error. -/
def errsIn (l : List MemErr) (a n : Nat) : List MemErr :=
  l.filter fun e => a < 8 * e.word + 8 && 8 * e.word < a + n

/-- Bank of a Plaza line (R110, R112). -/
def State.bankOf (s : State) (line : Nat) : Nat :=
  match s.ave.failedBanks with
  | [f] => let k := line % 31; if k < f then k else k + 1
  | _ => line % 32

/-- Corrected errors: the codeword is written back and the error counted (R113, R136). -/
def correctErrs (plaza : Bool) (es : List MemErr) : Prog :=
  Prog.when (es ≠ []) <|
    if plaza then Prog.all [
      modAve fun v => { v with plazaErrs := v.plazaErrs.filter fun e => !es.contains e },
      bump F.AVE_PLZ_ERR_COUNT_CE es.length,
      setF F.AVE_EVENT_PLZ_CE 1]
    else Prog.all [
      modAve fun v => { v with ddrErrs := v.ddrErrs.filter fun e => !es.contains e },
      bump F.DDR_ERR_COUNT_CE es.length,
      setF F.DDR_EVENT_CE 1]

/-- Lines with uncorrectable errors that a bank has reported within 1 s, this line included
(R116). -/
def State.ueLinesOf (s : State) (bank line : Nat) : List Nat :=
  (line :: (s.ave.ueLines.filter fun e => e.1 = bank ∧ s.time < e.2.2 + 25000000).map
    (fun e => e.2.1)).dedup

/-- An uncorrectable Plaza error met on a read (R114) or by the scrubber (R115). -/
def plazaUe (scrub : Bool) (word : Nat) : Prog :=
  .look fun s =>
    let line := word / 8
    let bank := s.bankOf line
    Prog.all [
      poisonRange (64 * line) 64,
      setReg R.AVE_PLZ_UE_ADDR (64 * line + 2 ^ 31),
      bump F.AVE_PLZ_ERR_COUNT_UE,
      (if scrub then setF F.AVE_EVENT_PLZ_UE_SCRUB 1 else setF F.AVE_EVENT_PLZ_UE_READ 1),
      modAve fun v => { v with ueLines := (bank, line, s.time) :: v.ueLines.filter fun e =>
        s.time < e.2.2 + 25000000 },
      raise (if scrub then 0x0302 else 0x0301) (unitBank bank) (64 * line),
      requestRepair (64 * line),
      Prog.when (4 ≤ (s.ueLinesOf bank line).length) (bankFail bank)]

/-- An uncorrectable LPDDR4X error met on a read (R136). -/
def ddrUe (word : Nat) : Prog :=
  let pa := 0x100000000 + 8 * word
  Prog.all [
    poisonRange pa 8,
    setReg R.DDR_UE_ADDR_LO (pa % 2 ^ 32),
    setReg R.DDR_UE_ADDR_HI (pa / 2 ^ 32 % 16 + 2 ^ 31),
    bump F.DDR_ERR_COUNT_UE,
    setF F.DDR_EVENT_UE 1,
    raise 0x8002 unitDdr,
    requestRepair pa]

/-- What a read of `n` bytes at `pa` meets: an access error, and a poison mark. -/
structure ReadMark where
  error : Bool
  poison : Bool
  deriving DecidableEq, Repr

/-- Every 4 KiB page of `n` bytes at `pa` lies in Plaza or the usable LPDDR window. -/
def State.mapped (s : State) (pa n : Nat) : Bool :=
  (touched 4096 pa n).all fun p => match s.place (p * 4096) with
    | .plaza _ => true
    | .lpddr _ => true
    | _ => false

/-- The marks a read of `n` bytes at `pa` carries, without performing it. -/
def State.readMark (s : State) (pa n : Nat) : ReadMark :=
  ⟨!s.mapped pa n,
   (touched 4096 pa n).any (fun p => s.poisonedAt (p * 4096))
     || (match s.place pa with
         | .plaza a => (errsIn s.ave.plazaErrs a n).any (·.uncorrectable)
         | .lpddr a => (errsIn s.ave.ddrErrs a n).any (·.uncorrectable)
         | _ => false)⟩

/-- The effects of a read of `n` bytes at `pa` on the memory's own state: corrected errors
are written back and counted, uncorrectable ones poison their page or granule and raise their
fault, and an unmapped address raises fault 0x0306 (R108, R113, R114, R136). -/
def readEffects (pa n : Nat) : Prog :=
  .look fun s => match s.place pa with
    | .plaza a =>
      let es := errsIn s.ave.plazaErrs a n
      .seq (correctErrs true (es.filter fun e => !e.uncorrectable))
        (Prog.each (es.filter (·.uncorrectable)) fun e => plazaUe false e.word)
    | .lpddr a =>
      let es := errsIn s.ave.ddrErrs a n
      .seq (correctErrs false (es.filter fun e => !e.uncorrectable))
        (Prog.each (es.filter (·.uncorrectable)) fun e => ddrUe e.word)
    | _ => .skip

/-- An access to an unmapped address is answered with an error and fault 0x0306 (R108). -/
def unmappedAccess (pa : Nat) : Prog :=
  .seq (setF F.AVE_EVENT_UNMAPPED 1)
    (raise 0x0306 (unitRouter (nodeOf pa)) (pa / 4096 % 2 ^ 24 + nodeOf pa * 2 ^ 24))

/-- Words in error that a write of `n` bytes at `pa` covers only in part: it reads them first (R113,
R136). -/
def State.partWords (s : State) (pa n : Nat) : List MemErr :=
  match s.place pa with
  | .plaza a => (errsIn s.ave.plazaErrs a n).filter fun e => !(a ≤ 8 * e.word && 8 * e.word + 8 ≤ a + n)
  | .lpddr a => (errsIn s.ave.ddrErrs a n).filter fun e => !(a ≤ 8 * e.word && 8 * e.word + 8 ≤ a + n)
  | _ => []

/-- A partial write of a codeword in uncorrectable error writes nothing and is handled as a
read of it (R113, R136): the words of the write that are in such error and not written
whole. -/
def State.rmwErrs (s : State) (pa n : Nat) : List MemErr :=
  (s.partWords pa n).filter fun e => e.uncorrectable

/-- `pa` lies in Plaza. -/
def State.onPlaza (s : State) (pa : Nat) : Bool :=
  match s.place pa with
  | .plaza _ => true
  | _ => false

/-- What the reads of a write's read-modify-writes do: they correct and count single-bit errors, and
meet uncorrectable ones as any read does (R113, R114, R136). -/
def rmwReads (pa n : Nat) : Prog :=
  .look fun s => .seq
    (correctErrs (s.onPlaza pa) ((s.partWords pa n).filter fun e => !e.uncorrectable))
    (Prog.each (s.rmwErrs pa n) fun e => if s.onPlaza pa then plazaUe false e.word else ddrUe e.word)

/-- Write `bs` at `pa` with the read-modify-write rule of R113: no part of a word whose read met an
uncorrectable error is written, and every other byte is. -/
def memWrite (pa : Nat) (bs : List Byte) : Prog :=
  .look fun s =>
    let bad := s.rmwErrs pa bs.length
    .seq (rmwReads pa bs.length) <|
      if bad = [] then paStore pa bs
      else .look fun t => Prog.each ((upTo bs.length).filter fun i =>
          !(bad.any fun e => (match t.place pa with
            | .plaza a => (a + i) / 8 == e.word
            | .lpddr a => (a + i) / 8 == e.word
            | _ => false)))
        fun i => paStore (pa + i) (slice bs i 1)

/-- A direct access of one of the device's own engines outside a stop to `n` bytes at `pa` (R108,
R121): where a region lock conflicts or an address is unmapped, it has no effect, the answering node
raises its fault and `fail` follows. -/
def engineAccess (pa n : Nat) (write : Bool) (ok fail : Prog) : Prog :=
  .look fun s =>
    if s.directConflict pa n write then .seq (regionConflict pa) fail
    else if s.mapped pa n = false then .seq (unmappedAccess pa) fail
    else ok

/-- A direct write of an engine (R113, R121): a write whose read-modify-write meets an uncorrectable
error is answered with an error too. -/
def engineWrite (pa : Nat) (bs : List Byte) (fail : Prog := .skip) : Prog :=
  engineAccess pa bs.length true
    (.look fun s => .seq (memWrite pa bs) (Prog.when (s.rmwErrs pa bs.length ≠ []) fail)) fail

end Sys2Proof.Machine
end

