-- ==== Sys2Proof/Machine/BridgeTx.lean ====
section
/-! DEFINITION. Sending over the Bridge link: flits, credits, the replay buffer and the queue of
packets that wait (chapter 14, R409 to R411), and the signals of export crossings (R420). -/

namespace Sys2Proof.Machine

/-- Flits of a packet: its header and one for each 32 B of data. -/
def Pkt.flits (p : Pkt) : Nat := 1 + (p.data.length + 31) / 32

/-- A response, which may use the last 16 credits (R411). -/
def isResponse (typ : Nat) : Bool := typ == 4 || typ == 6 || typ == 7

/-- IDLE, HELLO and HEART carry no sequence number (Table 14-4). -/
def isSequenced (typ : Nat) : Bool := 3 ≤ typ

/-- A session is open: UP, LOAD, or RETRAIN, which keeps it (Table 14-6). -/
def Brg.session (b : Brg) : Bool := b.link == 3 || b.link == 4 || b.link == 5

/-- Sequenced flits not yet acknowledged. -/
def Brg.unackedFlits (b : Brg) : Nat := (b.unacked.map fun e => e.2.flits).sum

/-- The link can carry this packet now (R410, R411). -/
def Brg.canSend (b : Brg) (p : Pkt) : Bool :=
  (b.link == 3 || b.link == 4)
    && decide (p.flits + (if isResponse p.typ then 0 else 16) ≤ b.credits)
    && decide (b.unackedFlits + p.flits ≤ 64)

/-- The packets sent last: the newest 16. -/
def noteSent (l : List Pkt) (p : Pkt) : List Pkt := (l ++ [p]).drop (l.length - 15)

/-- The sideband of a flit sent now with this SEQ: it acknowledges what was received in order and
returns the credits owed (R410, R411). -/
def Brg.sideNow (b : Brg) (seq : Nat) (nak : Bool) : Side :=
  ⟨seq, (b.rxSeq + 255) % 256, min 63 b.creditsOwed, b.session, nak⟩

/-- Send a sequenced packet: it takes credits and sequence numbers, and stays in the replay
buffer until it is acknowledged. -/
def Brg.transmit (b : Brg) (p : Pkt) : Brg :=
  { b with
    txSeq := (b.txSeq + p.flits) % 256
    unacked := b.unacked ++ [(b.txSeq, p)]
    credits := b.credits - p.flits
    side := b.sideNow b.txSeq false
    creditsOwed := b.creditsOwed - min 63 b.creditsOwed
    sent := noteSent b.sent p }

/-- Next packet of the queue that may leave: the first one, or a WACK or RDATA, which never
waits behind a request (R411). -/
def Brg.nextOut (b : Brg) : Option Nat :=
  (upTo b.queue.length).find? fun i => match b.queue[i]? with
    | none => false
    | some p => (i == 0 || p.typ == 4 || p.typ == 6) && b.canSend p

/-- Send what the credits allow. -/
def Brg.pump (fuel : Nat) (b : Brg) : Brg :=
  match fuel with
  | 0 => b
  | n + 1 =>
    match b.nextOut with
    | none => b
    | some i =>
      match b.queue[i]? with
      | none => b
      | some p => Brg.pump n ({ b with queue := b.queue.eraseIdx i }.transmit p)

/-- Queue a sequenced packet and send what can be sent. -/
def Brg.enqueue (b : Brg) (p : Pkt) : Brg :=
  { b with queue := b.queue ++ [p] }.pump (b.queue.length + 1)

def sendPkt (p : Pkt) : Prog := modBrg fun b => b.enqueue p

/-- Send an unsequenced packet. -/
def sendFree (p : Pkt) (nak : Bool := false) : Prog := modBrg fun b => { b with
  side := b.sideNow 0 nak
  creditsOwed := b.creditsOwed - min 63 b.creditsOwed
  sent := noteSent b.sent p }

/-- Number j of an export crossing (R420). -/
def State.exportIndex (s : State) (n : Nat) : Option Nat :=
  let base := s.fld F.BRG_XSIG_EXPORT_BASE
  if s.flag F.BRG_XSIG_EN && base ≤ n && n < base + 8 then some (n - base) else none

/-- Number j of an import crossing. -/
def State.importIndex (s : State) (n : Nat) : Option Nat :=
  let base := s.fld F.BRG_XSIG_IMPORT_BASE
  if s.flag F.BRG_XSIG_EN && base ≤ n && n < base + 8 then some (n - base) else none

/-- A change of crossing `n` to `v` goes to the partner when it is an export crossing and a
session is in UP or LOAD (R420). -/
def exportSignal (n v : Nat) (failed : Bool) : Prog :=
  .seq (useRegs [R.BRG_XSIG]) <| .look fun s => match s.exportIndex n with
    | none => .skip
    | some j => Prog.when (s.brg.session = true)
        (sendPkt ⟨7, 0, j, if failed then 1 else 0, v % 2 ^ 32, []⟩)

end Sys2Proof.Machine
end

