-- ==== Sys2Proof/Machine/Crossings.lean ====
section
/-! DEFINITION. The crossing unit's operations (chapter 05, R171 to R174, R176, R177, R508). -/

namespace Sys2Proof.Machine

/-- A crossing at value `v`, with an empty window and in its normal state. -/
def Crossing.fresh (v : Nat) : Crossing :=
  ⟨v % 2 ^ 32, inv32 v, 0, inv32 0, 0, inv32 0, 0, inv32 0⟩

/-- Crossing `n`. -/
def State.crossing (s : State) (n : Nat) : Crossing :=
  (keyGet s.xng.cells n).getD (Crossing.fresh 0)

/-- Every stored word agrees with its complement (R172). -/
def Crossing.pairsOk (c : Crossing) : Bool :=
  c.valueC == inv32 c.value && c.winLoC == inv32 c.winLo && c.winHiC == inv32 c.winHi
    && c.stC == inv32 c.st

def Crossing.winValid (c : Crossing) : Bool := bitN c.st 0 == 1
def Crossing.broken (c : Crossing) : Bool := bitN c.st 1 == 1

/-- The crossing with a new value, and its window set or emptied. -/
def Crossing.withValue (c : Crossing) (v : Nat) (win : Option (Nat × Nat)) : Crossing :=
  match win with
  | none => { c with value := v % 2 ^ 32, valueC := inv32 v, winLo := 0, winLoC := inv32 0,
                     winHi := 0, winHiC := inv32 0, st := 0, stC := inv32 0 }
  | some (lo, hi) => ⟨v % 2 ^ 32, inv32 v, lo, inv32 lo, hi, inv32 hi, 1, inv32 1⟩

/-- The crossing with a new value and its window as it stands. -/
def Crossing.keepWin (c : Crossing) (v : Nat) : Crossing :=
  { c with value := v % 2 ^ 32, valueC := inv32 v }

def State.isMutex (s : State) (n : Nat) : Bool := s.xng.mutexes.contains n
def State.isPersist (s : State) (n : Nat) : Bool := s.xng.persist.contains n

/-- Operand `t` lies in the failure window: 0 < (t - old) mod 2^32 ≤ (new - old) mod 2^32
(R176). -/
def Crossing.inWindow (c : Crossing) (t : Nat) : Bool :=
  c.winValid && 0 < (t + 2 ^ 32 - c.winLo) % 2 ^ 32
    && (t + 2 ^ 32 - c.winLo) % 2 ^ 32 ≤ (c.winHi + 2 ^ 32 - c.winLo) % 2 ^ 32

/-- AT_LEAST is satisfied while (value - operand) mod 2^32 < 2^31 (Table 05-8). -/
def atLeast (value operand : Nat) : Bool := (value + 2 ^ 32 - operand % 2 ^ 32) % 2 ^ 32 < 2 ^ 31

/-- Store crossing `n`; a persistent one is written through to the retention RAM (R158). -/
def putCrossing (n : Nat) (c : Crossing) : Prog :=
  .look fun s => .seq
    (modXng fun x => { x with cells := keyPut x.cells n c })
    (Prog.when (s.isPersist n)
      (retWrite (0x0800 + 8 * n) (leBytes 4 c.value ++ leBytes 4 c.valueC)))

/-- Lease record of the mutex `n`. -/
def State.mutexLease (s : State) (n : Nat) : Option Nat :=
  ((upTo 60).map (· + 132)).find? fun r => match keyGet s.leases r with
    | some l => l.resource == n && l.kind == 5
    | none => false

/-- Free the lease record of the mutex `n`, where it has one. -/
def freeMutexRecord (n : Nat) : Prog :=
  .look fun s => match s.mutexLease n with
    | none => .skip
    | some r => freeLease r

/-! ### Waits of enqueued stops (R165, R177) -/

/-- Operation, crossing and operand of a wait or signal slot of a stop: word at `off` and the
value word after it, at the stop's ITER (R159). -/
structure Slot where
  op : Nat
  xng : Nat
  operand : Nat
  step : Nat
  deriving DecidableEq, Repr

/-- Little-endian number of `n` bytes of a byte list from `off`. -/
def fieldAt (bs : List Byte) (off n : Nat) : Nat := leNat (slice bs off n)

def Stop.slotAt (st : Stop) (off : Nat) : Slot :=
  let sel := fieldAt st.words off 4
  let step := bits sel 31 16
  ⟨bits sel 12 10, bits sel 9 0, (fieldAt st.words (off + 4) 4 + st.iter * step) % 2 ^ 32, step⟩

/-- A wait that R508 refuses: not in Table 05-8, or of the other mode. -/
def State.waitRefused (s : State) (w : Slot) : Bool :=
  w.op != 0 && !((w.op == 1 && !s.isMutex w.xng) || (w.op == 2 && s.isMutex w.xng))

/-- How an open wait of a stop stands against the crossings now. ACQUIRE is decided at
dispatch; an operation of the wrong mode or not in Table 05-8 is released POISONED (R508). A crossing
whose stored words disagree is not used before an access has restored it (R172). -/
def State.waitNow (s : State) (w : Slot) : WaitState :=
  let c := s.crossing w.xng
  if w.op = 0 then .released
  else if s.waitRefused w then .poisoned
  else if c.pairsOk = false then .open
  else if c.broken then .poisoned
  else if w.op = 1 ∧ atLeast c.value w.operand = true then
    (if c.inWindow w.operand then .poisoned else .released)
  else .open

/-- A wait evaluated against the crossings now: one released POISONED stays so, and one released
before stays so while it is satisfied (R165 condition 4, R177). -/
def State.waitAgain (s : State) (old : WaitState) (w : Slot) : WaitState :=
  match old with
  | .poisoned => .poisoned
  | .open => s.waitNow w
  | .released => match s.waitNow w with
    | .open => .open
    | .released => .released
    | .poisoned => if (s.crossing w.xng).broken then .poisoned else .released

/-- Evaluate the waits of a stop against the crossings now. -/
def State.updateWaits (s : State) (st : Stop) : Stop :=
  { st with
    wait0 := s.waitAgain st.wait0 (st.slotAt 0x10)
    wait1 := s.waitAgain st.wait1 (st.slotAt 0x18) }

/-- A change of a crossing reaches both wardens, which evaluate the waits of the stops they hold and
of those in their shadows (R154, R171). -/
def notifyWardens : Prog :=
  .look fun s => modWrd fun w =>
    { w with
      queues := w.queues.map fun q => { q with enq := q.enq.map s.updateWaits }
      shadows := w.shadows.map fun q => { q with enq := q.enq.map s.updateWaits } }

/-- The check of R172 at an access: a crossing whose stored words disagree is restored from
its source or its retained value, or becomes BROKEN. -/
def checkCrossing (n : Nat) : Prog :=
  .look fun s =>
    let c := s.crossing n
    Prog.when (c.pairsOk = false) <| Prog.all [
      raise 0x0601 unitXng n,
      setF F.XNG_EVENT_MISMATCH 1,
      setF F.XNG_MISMATCH_IDX_INDEX n,
      (if n < 16 then putCrossing n (Crossing.fresh (nth 0 s.xng.device n))
       else if s.isPersist n then putCrossing n (Crossing.fresh (s.retNum (0x0800 + 8 * n) 4))
       else if s.isMutex n then .seq (freeMutexRecord n)
         (putCrossing n { Crossing.fresh 0 with st := 2, stC := inv32 2 })
       else putCrossing n { Crossing.fresh c.value with st := 2, stC := inv32 2 }),
      notifyWardens]

/-! ### Operations on a crossing -/

/-- Change a counter to `new`: a failed signal leaves its window, a SET empties it (R176). -/
def changeCounter (n new : Nat) (failed set : Bool) : Prog :=
  .look fun s =>
    let c := s.crossing n
    Prog.all [
      putCrossing n
        (if failed then c.withValue new
           (if c.value = new % 2 ^ 32 then none else some (c.value, new % 2 ^ 32))
         else if set then c.withValue new none
         else c.keepWin new),
      notifyWardens,
      exportSignal n new failed]

/-- A signal refused for its crossing or its mode (R174, R508). -/
def refuseSignal (n code : Nat) : Prog :=
  .seq (if code = 0x0604 then setF F.XNG_EVENT_DEVICE_SET 1 else setF F.XNG_EVENT_OP_REFUSED 1)
    (raise code unitXng n)

/-- A stop's ADD (`set` false) or SET to crossing `n`. -/
def signalCounter (n operand : Nat) (set failed : Bool) : Prog :=
  if n < 16 then refuseSignal n 0x0604
  else .seq (checkCrossing n) <| .look fun s =>
    if s.isMutex n then refuseSignal n 0x0605
    else if (s.crossing n).broken then .skip
    else changeCounter n
      (if set then operand else (s.crossing n).value + operand) failed set

/-- A stop's RELEASE of crossing `n` by queue `q` (R173). -/
def signalRelease (n q : Nat) : Prog :=
  if n < 16 then refuseSignal n 0x0604
  else .seq (checkCrossing n) <| .look fun s =>
    let v := (s.crossing n).value
    if s.isMutex n = false then refuseSignal n 0x0605
    else if (s.crossing n).broken || v = 0 then .skip
    else if v = 0x80000000 + q then
      Prog.all [freeMutexRecord n, putCrossing n ((s.crossing n).withValue 0 none), notifyWardens]
    else .seq (setF F.XNG_EVENT_BAD_RELEASE 1)
      (raise 0x0602 unitXng (n + v % 16 * 2 ^ 16))

/-- Perform one signal slot of a stop of queue `q`. A signal of no operation of Table 05-8, or of the
other mode, to a device crossing raises 0x0604 and not 0x0605: the spec does not say which of R174 and
R508 wins (DESIGN CHOICE, assumption 133). -/
def performSignal (sig : Slot) (q : Nat) (failed : Bool) : Prog :=
  if sig.op = 0 then .skip
  else if sig.op = 1 then signalCounter sig.xng sig.operand false failed
  else if sig.op = 2 then signalCounter sig.xng sig.operand true failed
  else if sig.op = 3 then signalRelease sig.xng q
  else if sig.xng < 16 then refuseSignal sig.xng 0x0604
  else refuseSignal sig.xng 0x0605

/-- A device event of crossing `n` (Table 05-11): the source counts it, and the crossing
steps by 1. -/
def deviceEvent (n : Nat) (failed : Bool := false) : Prog :=
  Prog.all [
    checkCrossing n,
    modXng fun x => { x with device := upd x.device n ((nth 0 x.device n + 1) % 2 ^ 32) },
    .look fun s => changeCounter n ((s.crossing n).value + 1) failed false]

/-- A device event that sets crossing `n` (boot-phase crossings, R174; imports, R420). -/
def deviceSet (n v : Nat) (failed : Bool := false) : Prog :=
  Prog.all [
    checkCrossing n,
    Prog.when (n < 16) (modXng fun x => { x with device := upd x.device n (v % 2 ^ 32) }),
    changeCounter n v failed (!failed)]

/-- The waits of a stop are released or left open as the crossings stand (R172, R177): the crossings
they name are accessed, and a wait that R508 refuses raises fault 0x0605 as it is released. -/
def accessWaits (st : Stop) : Prog :=
  Prog.each [st.slotAt 0x10, st.slotAt 0x18] fun w => Prog.when (w.op ≠ 0) <|
    .seq (checkCrossing w.xng) (.look fun s => Prog.when (s.waitRefused w = true)
      (refuseSignal w.xng 0x0605))

/-- Give mutex `n` to queue `q` with the lease record `r`. -/
def giveMutex (n q r : Nat) : Prog :=
  .look fun s => Prog.all [
    takeLease r 5 1 q n s.queueTerm,
    putCrossing n ((s.crossing n).withValue (0x80000000 + q) none),
    notifyWardens]

/-- A commit of XNG_SET_CMD: set crossing `n` to `v`, give a mutex its holder or free it
(Table 05-18, R172, R174). -/
def gspSet (n v : Nat) : Prog :=
  if n < 16 then .seq (refuseSignal n 0x0604) respondError
  else .seq (checkCrossing n) <| .look fun s =>
    if s.isMutex n = false then
      Prog.all [putCrossing n (Crossing.fresh v), notifyWardens, exportSignal n v false]
    else if v = 0 then
      Prog.all [freeMutexRecord n, putCrossing n (Crossing.fresh 0), notifyWardens]
    else if 0x80000000 ≤ v ∧ v < 0x80000010 then
      (match s.freeMutexLease with
       | none => refuseSignal n 0x0605
       | some r => .seq (freeMutexRecord n) (giveMutex n (v - 0x80000000) r))
    else refuseSignal n 0x0605

end Sys2Proof.Machine
end

