-- ==== Sys2Proof/Machine/Operands.lean ====
section
/-! DEFINITION. The record formats that commands read from memory: stops, descriptors and
ranges (Tables 05-6 to 05-10), page-table entries and run lists (Tables 04-7 to 04-9). -/

namespace Sys2Proof.Machine

/-! ### The stop (Table 05-6) -/

def Stop.head (st : Stop) : Nat := fieldAt st.words 0x00 4
def Stop.tagWord (st : Stop) : Nat := fieldAt st.words 0x08 4
def Stop.opcode (st : Stop) : Nat := bits st.head 7 0
def Stop.rclass (st : Stop) : Nat := bits st.head 11 8
def Stop.asid (st : Stop) : Nat := bits st.head 15 12
def Stop.flags (st : Stop) : Nat := bits st.head 23 16
def Stop.headQueue (st : Stop) : Nat := bits st.head 27 24
def Stop.tag (st : Stop) : Nat := bits st.tagWord 15 0
def Stop.granEst (st : Stop) : Nat := bits st.tagWord 21 16
def Stop.serial (st : Stop) : Bool := bitN st.flags 0 == 1
def Stop.stamp (st : Stop) : Bool := bitN st.flags 1 == 1
def Stop.failHalt (st : Stop) : Bool := bitN st.flags 2 == 1
def Stop.descPa (st : Stop) : Nat := bits (fieldAt st.words 0x30 4) 25 6 * 64
def Stop.runLimit (st : Stop) : Nat := bits (fieldAt st.words 0x34 4) 19 0
def Stop.descLines (st : Stop) : Nat := bits (fieldAt st.words 0x38 4) 6 0
def Stop.sig0 (st : Stop) : Slot := st.slotAt 0x20
def Stop.sig1 (st : Stop) : Slot := st.slotAt 0x28
def Stop.w0 (st : Stop) : Slot := st.slotAt 0x10
def Stop.w1 (st : Stop) : Slot := st.slotAt 0x18

/-- Resource-class KIND that Table 05-9 gives an opcode; none for a code not in the table. -/
def opcodeKind (op : Nat) : Option Nat :=
  if op ≤ 0x05 then some 0
  else if op = 0x10 ∨ op = 0x11 ∨ op = 0x12 then some 1
  else if op = 0x20 ∨ op = 0x21 then some 2
  else if op = 0x30 then some 3 else if op = 0x31 then some 4
  else if op = 0x32 then some 5 else if op = 0x33 then some 6
  else if op = 0x40 then some 7 else none

/-! ### The descriptor (Tables 05-8a, 05-8b) -/

/-- One range of a descriptor. -/
structure Range where
  va : Nat
  len : Nat
  rd : Bool
  wr : Bool
  deriving DecidableEq, Repr

def descRanges (d : List Byte) : Nat := fieldAt d 0x00 2
def descRangeOff (d : List Byte) : Nat := fieldAt d 0x04 2
/-- A field of PARAM by its offset there. -/
def param (d : List Byte) (off n : Nat) : Nat := fieldAt d (0x06 + off) n

/-- Range `i` of a descriptor. -/
def rangeAt (d : List Byte) (i : Nat) : Range :=
  let o := descRangeOff d + 16 * i
  let f := fieldAt d (o + 0x0C) 4
  ⟨fieldAt d o 8 % 2 ^ 39, fieldAt d (o + 8) 4, bitN f 0 == 1, bitN f 1 == 1⟩

def Stop.ranges (st : Stop) : List Range :=
  (upTo (descRanges st.desc)).map (rangeAt st.desc)

/-- The range entry's own form is right: reserved bits 0, a length, RD or WR set. -/
def rangeOk (d : List Byte) (i : Nat) : Bool :=
  let o := descRangeOff d + 16 * i
  let f := fieldAt d (o + 0x0C) 4
  fieldAt d o 8 / 2 ^ 39 == 0 && fieldAt d (o + 8) 4 != 0 && f / 4 == 0 && f != 0

/-- Table 05-10 for a warden opcode; `routes` is the number of routes of the section. -/
def wardenParamsOk (op routes : Nat) (d : List Byte) : Bool :=
  let n := descRanges d
  if op = 0x01 then param d 0 2 < routes
  else if op = 0x02 then
    param d 0 1 < n && param d 1 1 < n && (rangeAt d (param d 0 1)).rd
      && (rangeAt d (param d 1 1)).wr
      && (rangeAt d (param d 0 1)).len == (rangeAt d (param d 1 1)).len
  else if op = 0x03 then param d 0 1 < n && (rangeAt d (param d 0 1)).wr
  else if op = 0x04 then (param d 0 1 == 1 || param d 0 1 == 2) && n != 0
  else true

/-- Tables 05-8a, 05-8b and 05-10 for a stop's descriptor of `lines` lines. -/
def descOk (op routes lines : Nat) (d : List Byte) : Bool :=
  let n := descRanges d
  let off := descRangeOff d
  n ≤ 256 && fieldAt d 0x02 2 == 0 && off % 16 == 0 && 64 ≤ off
    && off + 16 * n ≤ 64 * lines
    && (upTo n).all (rangeOk d) && wardenParamsOk op routes d

/-- Units of a resource class (Table 05-5) as bits of its MASK. -/
def maskCount (m : Nat) : Nat := countIf (fun u => bitN m u == 1) (upTo 32)

/-- The class can serve the opcode's KIND (R157). -/
def rclassOk (opKind kind count mask : Nat) : Bool :=
  kind == opKind
    && (if kind = 0 then count == 0
        else if kind = 1 ∨ kind = 2 then 1 ≤ count && count ≤ maskCount mask
        else count == 1 && bitN mask 0 == 1)

/-- The checks of R157 on a stop's own words: HEAD, TAG, CRC, opcode, reserved bits, ASID,
QUEUE, resource class and the length of the descriptor. -/
def stopWordsOk (st : Stop) (asid queue kind count mask : Nat) : Bool :=
  let w (o : Nat) := fieldAt st.words o 4
  w 0x04 == inv32 (w 0x00) && w 0x0C == inv32 (w 0x08)
    && w 0x3C == crc32 (st.words.take 0x3C)
    && (match opcodeKind st.opcode with
        | none => false
        | some k => rclassOk k kind count mask)
    && st.head / 2 ^ 28 == 0 && st.flags / 8 == 0 && st.tagWord / 2 ^ 22 == 0
    && [0x10, 0x18, 0x20, 0x28].all (fun o => bits (w o) 15 13 == 0)
    && w 0x30 % 64 == 0 && w 0x30 / 2 ^ 26 == 0 && w 0x34 / 2 ^ 20 == 0 && w 0x38 / 2 ^ 7 == 0
    && st.asid == asid && st.headQueue == queue
    && st.descLines ≤ 65 && (st.descLines != 0 || st.opcode == 0)

/-! ### Routes (Tables 05-2 to 05-5) -/

/-- A field of the running ROUTE section. -/
def State.routeField (s : State) (off n : Nat) : Nat := s.paNum (s.wrd.routeBase + off) n

def State.routeCount (s : State) : Nat := s.routeField 0x06 2

/-- Byte address of stop `i` of the stop array. -/
def State.stopPa (s : State) (i : Nat) : Nat := s.wrd.routeBase + s.routeField 0x0C 4 + 64 * i

/-- A route entry of the running section. -/
structure RouteEntry where
  queue : Nat
  level : Nat
  asid : Nat
  flags : Nat
  first : Nat
  count : Nat
  maxOpen : Nat
  drainMs : Nat
  deriving DecidableEq, Repr

/-- Decode a route entry's 16 bytes (Table 05-3). -/
def routeOf (b : List Byte) : RouteEntry :=
  ⟨fieldAt b 0 1, fieldAt b 1 1, fieldAt b 2 1, fieldAt b 3 1, fieldAt b 4 2, fieldAt b 6 2,
   fieldAt b 8 1, fieldAt b 9 1⟩

def State.routeEntry (s : State) (r : Nat) : RouteEntry :=
  routeOf (s.paBytes (s.wrd.routeBase + s.routeField 0x08 4 + 16 * r) 16)

/-! ### Address translation (R139 to R146) -/

/-- A page-table entry is bad at a level (R141). `ok` says that a leaf's page may be mapped. -/
def pteBad (level e : Nat) (leafOk tableOk : Bool) : Bool :=
  bits e 11 4 != 0 || e / 2 ^ 36 != 0
    || (if level < 3 then bitN e 1 == 0 else bitN e 1 == 1)
    || (bitN e 1 == 1 && (bitN e 2 == 1 || bitN e 3 == 1 || !tableOk))
    || (bitN e 1 == 0 && !leafOk)

/-- What translating one page gives. -/
inductive PageResult where
  | page (pfn : Nat) : PageResult
  /-- A translation fault: code, level and kind as XLT_FAULT_INFO records them. -/
  | fault (code level kind : Nat) : PageResult
  | poisoned : PageResult
  deriving DecidableEq, Repr

/-- A leaf page may be mapped: Plaza, the usable LPDDR window or the twin window (R141). -/
def State.leafOk (s : State) (pfn : Nat) : Bool :=
  match s.place (pfn * 4096) with
  | .plaza _ => true
  | .lpddr _ => true
  | .twin _ => true
  | _ => false

def State.inPlaza (s : State) (pa : Nat) : Bool :=
  match s.place pa with
  | .plaza _ => true
  | _ => false

/-- Walk of the three levels for a virtual page number, from the table at `table`. -/
def State.walk (s : State) (fuel level table vpn : Nat) (rd wr : Bool) : PageResult :=
  match fuel with
  | 0 => .fault 0x0401 0 0
  | n + 1 =>
    let idx := vpn / 512 ^ (3 - level) % 512
    let ea := table + 8 * idx
    if (s.readMark ea 8).poison then .poisoned
    else
      let e := s.paNum ea 8
      let next := bits e 35 12
      if bitN e 0 = 0 then .fault 0x0401 level 0
      else if pteBad level e (s.leafOk next) (s.inPlaza (next * 4096)) then
        .fault 0x0403 level 2
      else if level = 3 then
        (if (rd && bitN e 2 == 0) || (wr && bitN e 3 == 0) then .fault 0x0401 level 1
         else .page next)
      else State.walk s n (level + 1) (next * 4096) vpn rd wr

/-- Addresses of the table entries that the same walk reads. -/
def State.walkReads (s : State) (fuel level table vpn : Nat) : List Nat :=
  match fuel with
  | 0 => []
  | n + 1 =>
    let ea := table + 8 * (vpn / 512 ^ (3 - level) % 512)
    let e := s.paNum ea 8
    let next := bits e 35 12
    if (s.readMark ea 8).poison || bitN e 0 == 0 || level == 3
        || pteBad level e (s.leafOk next) (s.inPlaza (next * 4096)) then [ea]
    else ea :: State.walkReads s n (level + 1) (next * 4096) vpn

/-- Translate one virtual page number of an ASID (R139, R140, R109). -/
def State.translate (s : State) (asid vpn : Nat) (rd wr : Bool) : PageResult :=
  if asid = 0 then
    (if 2 ^ 24 ≤ vpn then .fault 0x0401 0 0
     else if s.leafOk vpn then .page vpn else .fault 0x0403 0 2)
  else
    let root := nth (0, false) s.xlt.roots asid
    if root.2 = false then .fault 0x0401 0 0
    else if s.inPlaza root.1 = false then .fault 0x0403 0 2
    else s.walk 3 1 root.1 vpn rd wr

/-- Addresses of the table entries that translating a page reads. -/
def State.pageReads (s : State) (asid vpn : Nat) : List Nat :=
  let root := nth (0, false) s.xlt.roots asid
  if asid = 0 ∨ root.2 = false ∨ s.inPlaza root.1 = false then [] else s.walkReads 3 1 root.1 vpn

/-- Pages of one range (R144). -/
def Range.pages (r : Range) : Nat := (r.va + r.len - 1) / 4096 - r.va / 4096 + 1

/-- Result of pretranslating a list of ranges. -/
inductive XltResult where
  | ok (runs : List Run) : XltResult
  | fault (status code va level kind : Nat) : XltResult
  | poisoned : XltResult
  deriving DecidableEq, Repr

/-- Append a page to the runs, newest first: a new run at a range boundary and wherever the
PFN is not one more than the last (R148). -/
def addPage (runs : List Run) (pfn range : Nat) (rd wr : Bool) : List Run :=
  match runs with
  | [] => [⟨pfn, 1, rd, wr, range⟩]
  | r :: t =>
    if r.range = range ∧ pfn = r.pfn + r.count ∧ r.count < 8192 then
      { r with count := r.count + 1 } :: t
    else ⟨pfn, 1, rd, wr, range⟩ :: r :: t

/-- Translate `n` pages of a range from page `vpn` on. R145 does not say which VA of a failing page
XLT_FAULT_VA records: the model records the range's base for its first page and the page's own base
for a later one (DESIGN CHOICE, assumption 131). -/
def State.xltPages (s : State) (asid : Nat) (n vpn range : Nat) (r : Range) (runs : List Run) :
    XltResult :=
  match n with
  | 0 => .ok runs
  | k + 1 =>
    match s.translate asid vpn r.rd r.wr with
    | .page pfn => State.xltPages s asid k (vpn + 1) range r (addPage runs pfn range r.rd r.wr)
    | .fault code level kind =>
      .fault 2 code (if vpn = r.va / 4096 then r.va else vpn * 4096) level kind
    | .poisoned => .poisoned

/-- Translate ranges in range order (R148); runs newest first. -/
def State.xltRanges (s : State) (asid : Nat) (rs : List Range) (i : Nat) (runs : List Run) :
    XltResult :=
  match rs with
  | [] => .ok runs
  | r :: t =>
    match s.xltPages asid r.pages (r.va / 4096) i r runs with
    | .ok runs' => State.xltRanges s asid t (i + 1) runs'
    | e => e

/-- Base address of the range whose pages take the count past 8192 (R144). -/
def oversizeBase (rs : List Range) (acc : Nat) : Option Nat :=
  match rs with
  | [] => none
  | r :: t => if 8192 < acc + r.pages then some r.va else oversizeBase t (acc + r.pages)

def pageCount (rs : List Range) : Nat := rs.foldl (fun n r => n + r.pages) 0

/-- Pretranslation of a stop's ranges (R143 to R145), runs in order. -/
def State.pretranslate (s : State) (asid : Nat) (rs : List Range) : XltResult :=
  match oversizeBase rs 0 with
  | some va => .fault 3 0x0402 va 0 3
  | none =>
    match s.xltRanges asid rs 0 [] with
    | .ok runs => .ok runs.reverse
    | e => e

/-- Pages of ranges, in order: address space page numbers with the range's rights. -/
def Range.vpns (r : Range) : List (Nat × Range) := (upTo r.pages).map fun k => (r.va / 4096 + k, r)

/-- A page translates. -/
def State.pageFine (s : State) (asid : Nat) (x : Nat × Range) : Bool :=
  match s.translate asid x.1 x.2.rd x.2.wr with
  | .page _ => true
  | _ => false

/-- Addresses of the table entries that pretranslation reads: those of every page up to the first one
that does not translate. -/
def State.xltReads (s : State) (asid : Nat) (rs : List Range) : List Nat :=
  if (oversizeBase rs 0).isSome then []
  else
    let l := rs.flatMap Range.vpns
    let good := l.takeWhile (s.pageFine asid)
    ((good ++ (l.drop good.length).take 1).flatMap fun x => s.pageReads asid x.1).dedup

/-- The bytes of a run list (Tables 04-8 and 04-9). -/
def RunList.bytes (l : RunList) : List Byte :=
  leBytes 2 l.runs.length ++ leBytes 2 l.ranges ++ leBytes 2 l.pages ++ leBytes 1 l.asid
    ++ zeros 1 ++ leBytes 4 l.gen ++ zeros 4
    ++ (l.runs.map fun r => leBytes 8 (r.pfn + (r.count - 1) * 2 ^ 24
        + (if r.rd then 2 ^ 37 else 0) + (if r.wr then 2 ^ 38 else 0)
        + r.range * 2 ^ 40)).flatten

/-- 64 B units a run list of `n` runs occupies (R148). -/
def poolUnitsFor (n : Nat) : Nat := (16 + 8 * n + 63) / 64

/-! ### Reaching memory through a run list -/

/-- Physical address of byte `off` of range `i`: the runs of the range in order. -/
def runsPa (runs : List Run) (off : Nat) : Nat :=
  match runs with
  | [] => 0
  | r :: t => if off < r.count * 4096 then r.pfn * 4096 + off else runsPa t (off - r.count * 4096)

def Stop.runsOf (st : Stop) (i : Nat) : List Run :=
  match st.runs with
  | none => []
  | some l => l.runs.filter fun r => r.range = i

/-- Physical address of byte `off` of a stop's range `i`. -/
def Stop.pa (st : Stop) (i off : Nat) : Nat :=
  runsPa (st.runsOf i) (off + (rangeAt st.desc i).va % 4096)

/-- The physical pieces, as (address, bytes), of `n` bytes from `off` of range `i`: cut at
page boundaries. -/
def Stop.pieces (st : Stop) (i : Nat) (fuel off n : Nat) : List (Nat × Nat) :=
  match fuel with
  | 0 => []
  | k + 1 =>
    if n = 0 then []
    else
      let a := st.pa i off
      let m := min n (4096 - a % 4096)
      (a, m) :: Stop.pieces st i k (off + m) (n - m)

/-- Every piece of range `i`. -/
def Stop.rangePieces (st : Stop) (i : Nat) : List (Nat × Nat) :=
  let r := rangeAt st.desc i
  st.pieces i (r.pages + 1) 0 r.len

/-- `n` bytes of range `i` from `off`, as stored. -/
def State.rangeBytes (s : State) (st : Stop) (i off n : Nat) : List Byte :=
  ((st.pieces i (n / 4096 + 2) off n).map fun p => s.paBytes p.1 p.2).flatten

/-- Write bytes to range `i` from `off`. -/
def rangeWrite (st : Stop) (i off : Nat) (bs : List Byte) : Prog :=
  let ps := st.pieces i (bs.length / 4096 + 2) off bs.length
  (ps.foldl (fun (acc : Prog × List Byte) p =>
    (.seq acc.1 (memWrite p.1 (acc.2.take p.2)), acc.2.drop p.2)) (Prog.skip, bs)).1

/-- Marks of a read of `n` bytes of range `i` from `off`; the twin window without an up link
is an error (R108, R507), which `twinUp` says. -/
def State.rangeMark (s : State) (st : Stop) (i off n : Nat) : ReadMark :=
  let ps := st.pieces i (n / 4096 + 2) off n
  ⟨ps.any fun p => (s.readMark p.1 p.2).error, ps.any fun p => (s.readMark p.1 p.2).poison⟩

end Sys2Proof.Machine
end

