-- ==== Sys2Proof/Machine/Journal.lean ====
section
/-! DEFINITION. The intake journal, the snapshot, the change journal and the retirement block in
the retention RAM (chapter 13, R383 to R401, and R263), and completion stamps (R388). -/

namespace Sys2Proof.Machine

/-! ### Input gates' records (Table 10-3) -/

structure GateRec where
  kind : Nat
  srcSlots : Nat
  boundSlots : Nat
  trig : Nat
  src : Nat
  out : Nat
  rel : Nat
  t0 : Nat
  tstep : Nat
  sstep : Nat
  s0 : Nat
  waitUs : Nat
  size : Nat
  srcBase : Nat
  boundBase : Nat
  /-- The reserved bytes 3 and 0x30 to 0x3F. -/
  rest : List Byte
  deriving DecidableEq, Repr

def gateOf (b : List Byte) : GateRec :=
  ⟨fieldAt b 0 1, fieldAt b 1 1, fieldAt b 2 1, fieldAt b 4 2, fieldAt b 6 2, fieldAt b 8 2,
   fieldAt b 0x0A 2, fieldAt b 0x0C 4, fieldAt b 0x10 2, fieldAt b 0x12 2, fieldAt b 0x14 4,
   fieldAt b 0x18 4, fieldAt b 0x1C 4, fieldAt b 0x20 8, fieldAt b 0x28 8,
   nth 0 b 3 :: b.drop 0x30⟩

/-- Gate `g`'s record, at RBT_GATE_BASE + 64 g. -/
def State.gateRec (s : State) (g : Nat) : GateRec :=
  gateOf (s.paBytes (s.rd R.RBT_GATE_BASE_HI % 16 * 2 ^ 32 + s.rd R.RBT_GATE_BASE_LO / 64 * 64
    + 64 * g) 64)

/-- Physical address of source slot `i` and of bound slot `j`. -/
def GateRec.srcPa (r : GateRec) (i : Nat) : Nat := r.srcBase + i * ((r.size + 4095) / 4096 * 4096)
def GateRec.boundPa (r : GateRec) (j : Nat) : Nat :=
  r.boundBase + j * ((r.size + 64 + 4095) / 4096 * 4096)

/-! ### The intake journal (Tables 13-5 to 13-7) -/

def ijBase : Nat := 0x2800
def snapBase : Nat := 0x2840
def ijEntry (i : Nat) : Nat := 0x2C80 + 32 * i
def ijSlots : Nat := 348

/-- A field of intake ring slot `i`. -/
def State.ij (s : State) (i off n : Nat) : Nat := s.retNum (ijEntry i + off) n

def State.nextIseq (s : State) : Nat := s.retNum (ijBase + 0x0C) 4
def State.snapSeq (s : State) : Nat := s.retNum (snapBase + 4) 4
/-- The intake journal's region as stored. -/
def State.ijRegion (s : State) : List Byte := s.retBytes ijBase 12288

/-- Ring slot `i` holds a live entry: a PENDING EVENT or an ACCEPTED SVC. -/
def State.ijLive (s : State) (i : Nat) : Bool :=
  (s.ij i 4 1 == 1 || s.ij i 4 1 == 2) && s.ij i 7 1 == 1

/-- Write to the intake region; the next mirror has something to write (R391). -/
def ijWrite (a : Nat) (bs : List Byte) : Prog :=
  .seq (retWrite a bs) (modSvc fun v => { v with intakeDirty := true })

/-- Oldest of some ring slots, by ISEQ. -/
def State.oldestOf (s : State) (l : List Nat) : Option Nat :=
  l.foldl (fun (b : Option Nat) i => match b with
    | none => some i
    | some j => if s.ij i 0 4 < s.ij j 0 4 then some i else some j) none

/-- Slot for a new entry: a free one, else the oldest STAMPED EVENT, else the oldest SVC DONE
for at least 10 s (R390). None while the retention RAM is unusable (R60). -/
def State.ijFree (s : State) : Option Nat :=
  if s.lamp.retUnusable then none
  else
    match (upTo ijSlots).find? fun i => s.ij i 4 1 == 0 with
    | some i => some i
    | none =>
      match s.oldestOf ((upTo ijSlots).filter fun i => s.ij i 4 1 == 1 && s.ij i 7 1 == 2) with
      | some i => some i
      | none => s.oldestOf ((upTo ijSlots).filter fun i => s.ij i 4 1 == 2 && s.ij i 7 1 == 3
          && ((keyGet s.svc.doneAt i).map fun t => decide (t + 250000000 ≤ s.time)).getD true)

/-- Write a new entry into slot `i` with the next ISEQ, STATE 1. -/
def ijAdd (i kind port signal source value aux : Nat) : Prog :=
  .look fun s => .seq
    (ijWrite (ijEntry i) (leBytes 4 s.nextIseq ++ leBytes 1 kind ++ leBytes 1 port
      ++ leBytes 1 signal ++ leBytes 1 1 ++ leBytes 4 source ++ leBytes 4 value
      ++ leBytes 4 s.lamp.tick ++ leBytes 2 aux ++ zeros 10))
    (ijWrite (ijBase + 0x0C) (leBytes 4 (s.nextIseq + 1)))

/-! ### The snapshot (R387, Table 13-5) -/

/-- A field of signal `n`'s snapshot slot. -/
def State.snap (s : State) (n off w : Nat) : Nat := s.retNum (snapBase + 0x40 + 16 * n + off) w

/-- PENDING EVENT entries of signal `n`. -/
def State.pendingOf (s : State) (n : Nat) : List Nat :=
  (upTo ijSlots).filter fun i => s.ij i 4 1 == 1 && s.ij i 7 1 == 1 && s.ij i 6 1 == n

/-- Make a new snapshot: SNAP_SEQ, TICK, MOVING and then crossing 7 (R387). -/
def newSnapshot : Prog :=
  .look fun s => Prog.all [
    ijWrite snapBase (leBytes 4 0x4E534E49 ++ leBytes 4 (s.snapSeq + 1)
      ++ leBytes 4 s.lamp.tick ++ leBytes 1 (if s.svc.moving then 1 else 0)),
    deviceEvent 7]

/-- Write signal `n`'s slot. -/
def snapWrite (n value iseq tick flags pend : Nat) : Prog :=
  ijWrite (snapBase + 0x40 + 16 * n)
    (leBytes 4 value ++ leBytes 4 iseq ++ leBytes 4 tick ++ leBytes 2 flags ++ leBytes 2 pend)

/-- Present the oldest PENDING event of an EVENT signal in its slot (R389). -/
def presentEvents (n : Nat) : Prog :=
  .look fun s =>
    let l := s.pendingOf n
    match s.oldestOf l with
    | none => snapWrite n (s.snap n 0 4) 0 (s.snap n 8 4)
        (setBits (s.snap n 0x0C 2) 2 2 0) 0
    | some e => snapWrite n (s.ij e 0x0C 4) (s.ij e 0 4) (s.snap n 8 4)
        (setBits (s.snap n 0x0C 2) 2 2 1) l.length

/-! ### Completion stamps (R388) -/

/-- Consumer entries that name a stop: section, route and tag. -/
def State.consumersOf (s : State) (st : Stop) : List Nat :=
  (upTo 16).filter fun m => s.flag F.SVC_CONS_B_EN m
    && s.fld F.SVC_CONS_B_SECT_ID m == s.wrd.routeSect
    && s.fld F.SVC_CONS_A_ROUTE m == st.route % 256
    && s.fld F.SVC_CONS_A_STOP_TAG m == st.tag

/-- The stamp of a completed STAMP stop through consumer entry `m`. -/
def stampConsumer (st : Stop) (m : Nat) : Prog :=
  .look fun s =>
    let g := s.gateRec (s.fld F.SVC_CONS_A_GATE m)
    let sig := s.fld F.SVC_CONS_B_SIGNAL m
    let slot := g.boundPa (st.iter % zeroAsOne g.boundSlots)
    if s.paNum (slot + 4) 4 ≠ st.iter then raise 0x6207 unitHub
    else
      let e := s.paNum (slot + 64 + 0x44 + 16 * sig) 4
      match (upTo ijSlots).find? fun i =>
          s.ij i 4 1 == 1 && s.ij i 7 1 == 1 && s.ij i 6 1 == sig && s.ij i 0 4 == e with
      | none => .skip
      | some i => Prog.all [
          ijWrite (ijEntry i + 0x16) (leBytes 2 s.wrd.routeSect ++ leBytes 4 st.iter
            ++ leBytes 1 st.route ++ zeros 1 ++ leBytes 2 st.tag),
          ijWrite (ijEntry i + 7) [2],
          presentEvents sig,
          newSnapshot]

/-- The completion stamp of a stop (R175, R388). -/
def stampStop (st : Stop) : Prog :=
  Prog.when (st.stamp = true) <| .seq (useRegs [R.SVC_CONS_A, R.SVC_CONS_B]) <| .look fun s =>
    Prog.when (s.lamp.retUnusable = false) (Prog.each (s.consumersOf st) (stampConsumer st))

/-! ### The change journal (R398 to R400, Table 13-11)

Head at 0x5800: MAGIC at 0, NEXT_NO at 4, FIRST_UNMIRRORED at 8, the last HASH at 16
(assumption 31). -/

def cjBase : Nat := 0x5800
def State.cjNext (s : State) : Nat := s.retNum (cjBase + 4) 4
def State.cjFirst (s : State) : Nat := s.retNum (cjBase + 8) 4
def State.cjHash (s : State) : List Byte := s.retBytes (cjBase + 16) 8
def State.cjUnmirrored (s : State) : Nat := (s.cjNext + 2 ^ 32 - s.cjFirst) % 2 ^ 32
def cjEntry (n : Nat) : Nat := cjBase + 64 + 48 * (n % 212)

/-- What one change-journal entry says, beside its number, tick and chain hash. -/
structure Change where
  port : Nat
  kind : Nat
  source : Nat
  target : Nat
  old : Nat
  new : Nat
  len : Nat
  req : Nat
  deriving DecidableEq, Repr

/-- Append a change entry. -/
def appendChange (c : Change) : Prog :=
  .look fun s => Prog.when (s.lamp.retUnusable = false) <|
    let n := s.cjNext
    let body := leBytes 4 n ++ leBytes 6 s.lamp.tick ++ leBytes 1 c.port ++ leBytes 1 c.kind
      ++ leBytes 4 c.source ++ leBytes 8 c.target ++ leBytes 4 c.old ++ leBytes 4 c.new
      ++ leBytes 4 c.len ++ leBytes 4 c.req
    let hash := (sha256 (s.cjHash ++ body)).take 8
    .seq (retWrite (cjEntry n) (body ++ hash)) <| .seq
      (retWrite (cjBase + 4) (leBytes 4 (n + 1)))
      (retWrite (cjBase + 16) hash)

/-- The second entry of a change whose access got an error response (R398): KIND bit 7 set, OLD
the first entry's number. -/
def appendVoid (c : Change) (first : Nat) : Prog :=
  appendChange { c with kind := c.kind + 128, old := first }

/-- What OLD and NEW hold for some bytes: the word, or the CRC-32 of more than 4 bytes. -/
def changeWord (bs : List Byte) : Nat := if bs.length ≤ 4 then leNat bs else crc32 bs

/-! ### The retirement block (R263, Table 08-10) -/

def State.retireCount (s : State) : Nat := s.retNum (0x0400 + 4) 2

/-- Physical index `p` has a retirement record. -/
def State.retireRecorded (s : State) (p : Nat) : Bool :=
  (upTo (min 62 s.retireCount)).any fun i => s.retNum (0x0410 + 8 * i) 1 == p

/-- Record a retirement; false when all 62 records are held. -/
def appendRetirement (p cause nExact : Nat) : Prog :=
  .look fun s =>
    let n := s.retireCount
    Prog.when (n < 62) <| Prog.all [
      retWrite (0x0410 + 8 * n)
        (leBytes 8 (p + cause * 2 ^ 8 + nExact * 2 ^ 12 + s.lamp.tick % 2 ^ 32 * 2 ^ 32)),
      retWrite 0x0400 (leBytes 4 0x54455241 ++ leBytes 2 (n + 1) ++ zeros 2),
      .look fun t => retWrite 0x0408 (leBytes 4 (crc32 (t.retBytes 0x0410 496))),
      modSvc fun v => { v with retireDirty := true }]

end Sys2Proof.Machine
end

