-- ==== Sys2Proof/Machine/Stands.lean ====
section
/-! DEFINITION. Stands of the roundabout's tracks, the splash images, and the region locks that
hold them (chapters 10 and 11: R291, R294, R320, R321). -/

namespace Sys2Proof.Machine

/-- `n` bytes at `pa` lie wholly in Plaza or wholly in the usable LPDDR window. -/
def State.inMemory (s : State) (pa n : Nat) : Bool :=
  pa + n ≤ s.plazaTop || (0x100000000 ≤ pa && pa + n ≤ 0x100000000 + s.ave.ddrBytes)

/-- Base, stride in bytes and number of the stands of track `t`. -/
def State.trkBase (s : State) (t : Nat) : Nat :=
  s.fld F.RBT_TRK_BASE_HI_BASE t * 2 ^ 32 + s.fld F.RBT_TRK_BASE_LO_BASE t * 4096
def State.trkStride (s : State) (t : Nat) : Nat := s.fld F.RBT_TRK_STRIDE_STRIDE_4K t * 4096
def State.trkStands (s : State) (t : Nat) : Nat := clampNat 2 8 (s.fld F.RBT_TRK_CFG_STANDS t)

/-- Physical address of stand `n` of track `t`. -/
def State.standPa (s : State) (t n : Nat) : Nat := s.trkBase t + n * s.trkStride t

def State.track (s : State) (t : Nat) : Track := nth Track.reset s.rbt.tracks t

def modTrack (t : Nat) (f : Track → Track) : Prog :=
  modRbt fun r => { r with tracks := upd r.tracks t (f (nth Track.reset r.tracks t)) }

/-- Region-lock entries the roundabout holds on a stand. -/
def State.standLocks (s : State) (t n : Nat) : List Nat :=
  s.lockEntries (.unit unitRbt) (s.standPa t n / 4096) (s.trkStride t / 4096)

/-- Free one lock the roundabout holds on a stand. -/
def unlockStand (t n : Nat) : Prog :=
  .look fun s => releaseLock (.unit unitRbt) (s.standPa t n / 4096) (s.trkStride t / 4096)

/-- A stand that left the screen is released once its last line is fetched and no COMPOSE
reads it (R294). -/
def releaseStands (t : Nat) : Prog :=
  .look fun s =>
    let x := s.track t
    let held (n : Nat) : Bool := x.reading == some n || s.rbt.ringReads.any fun e => e.2 == (t, n)
    .seq (Prog.each (x.leaving.filter fun n => !held n) (unlockStand t))
      (modTrack t fun y => { y with leaving := y.leaving.filter held })

/-! ### Splash images -/

/-- The loaded SPLASH section. -/
def State.splashSect (s : State) : Option Sect :=
  s.boot.sects.find? fun x => x.kind == 3 && x.state == 2

/-- A splash image: address, size, format (codes of the SPLASH header) and pitch (R320). -/
structure Splash where
  pa : Nat
  w : Nat
  h : Nat
  fmt : Nat
  pitch : Nat
  deriving DecidableEq, Repr

/-- Bytes of a pixel in the codes of the SPLASH header and of SCO_PL_CFG.FMT. -/
def planeBytes (fmt : Nat) : Nat := if fmt = 1 then 2 else if fmt = 2 then 4 else 3

/-- The splash image of output `x`, from the header at its section's destination. -/
def State.splash (s : State) (x : Nat) : Option Splash :=
  match s.splashSect with
  | none => none
  | some k =>
    let f (off n : Nat) : Nat := s.paNum (k.dest + 8 * x + off) n
    some ⟨k.dest + 256 * f 6 2, f 0 2, f 2 2, f 4 1, (f 0 2 * planeBytes (f 4 1) + 63) / 64 * 64⟩

/-- Bytes of a splash image. -/
def Splash.bytes (p : Splash) : Nat := p.pitch * p.h

/-- First page of a splash image, and its pages. -/
def Splash.page (p : Splash) : Nat := p.pa / 4096
def Splash.pages (p : Splash) : Nat := (p.pa + p.bytes - 1) / 4096 - p.pa / 4096 + 1

/-- The loader started output `x` with its splash. -/
def State.showedSplash (s : State) (x : Nat) : Bool :=
  (if x = 0 then s.boot.outStartedA else s.boot.outStartedB) && !s.boot.splashFailed
    && s.splashSect.isSome

end Sys2Proof.Machine
end

