-- ==== Sys2Proof/Machine/WardenOps.lean ====
section
/-! DEFINITION. The wardens' shared operations: queues, open-stop slots, unit reservations, the
run-list pool, enqueueing, dispatch decisions, completion, failure and withdrawal of stops
(chapter 05, R154 to R181; chapter 04, R143 to R152). -/

namespace Sys2Proof.Machine

/-! ### Queues and slots -/

def State.queue (s : State) (q : Nat) : Queue := nth (Queue.reset q) s.wrd.queues q

def modQueue (q : Nat) (f : Queue → Queue) : Prog :=
  modWrd fun w => { w with queues := upd w.queues q (f (nth (Queue.reset q) w.queues q)) }

def State.slotOf (s : State) (i : Nat) : Option OpenStop := nth none s.wrd.slots i

def setSlot (i : Nat) (o : Option OpenStop) : Prog :=
  modWrd fun w => { w with slots := upd w.slots i o }

def modSlot (i : Nat) (f : OpenStop → OpenStop) : Prog :=
  modWrd fun w => { w with slots := upd w.slots i ((nth none w.slots i).map f) }

/-- The open stops, by slot. -/
def State.openStops (s : State) : List OpenStop := s.wrd.slots.filterMap id

def State.openOf (s : State) (q : Nat) : List OpenStop :=
  s.openStops.filter fun o => o.stop.queue == q

/-- Lowest free open-stop slot. -/
def State.freeSlot (s : State) : Option Nat :=
  (upTo 64).find? fun i => (s.slotOf i).isNone

/-- A warden that may dispatch. -/
def State.wardenOk (s : State) (w : Nat) : Bool := if w = 0 then s.wrd.ok0 else s.wrd.ok1

/-! ### Resource classes and units (Tables 05-5 and 16-8) -/

/-- Units of a class KIND that a MASK names. -/
def unitsOfClass (kind mask : Nat) : List Nat :=
  let m := (upTo 16).filter fun u => bitN mask u == 1
  if kind = 1 then m.map unitTile
  else if kind = 2 then (m.filter (· < 8)).map unitDst
  else if 3 ≤ kind ∧ kind ≤ 6 then (if bitN mask 0 = 1 then [unitVis (kind - 3)] else [])
  else if kind = 7 then (if bitN mask 0 = 1 then [unitRbt] else [])
  else []

/-- Units of a stop's class as the wardens hold it. -/
def State.classUnits (s : State) (st : Stop) : List Nat :=
  unitsOfClass (s.fld F.WRD_RCLASS_KIND_KIND st.rclass) (s.fld F.WRD_RCLASS_MASK_MASK st.rclass)

def State.classCount (s : State) (st : Stop) : Nat := s.fld F.WRD_RCLASS_KIND_COUNT st.rclass

def State.unitRetired (s : State) (u : Nat) : Bool := s.rcl.retired.contains u

/-- A unit can be reserved. -/
def State.unitFree (s : State) (u : Nat) : Bool :=
  (keyGet s.leases (64 + u)).isNone && !s.unitRetired u && !s.rcl.fenced.contains u

/-- Tile cores reserved for the compositor context. -/
def State.reservedCores (s : State) : List Nat :=
  (upTo (s.fld F.WRD_COMP_CFG_TILE_RES)).map unitTile

/-- Bit of SYS_GATE_STATUS for a gateable unit's clock. -/
def gateBit (u : Nat) : Option Nat :=
  if 4 ≤ u ∧ u < 12 then some (u - 4)
  else if 12 ≤ u ∧ u < 28 then some (u - 12 + 8)
  else if 29 ≤ u ∧ u < 33 then some (u - 29 + 24)
  else if u = 33 then some 28
  else if u = 3 then some 29
  else none

/-- Mask of SYS_GATE_STATUS bits of some units. -/
def gateMask (us : List Nat) : Nat :=
  us.foldl (fun m u => match gateBit u with
    | none => m
    | some b => m ||| 2 ^ b) 0

/-! ### PLLs (Table 02-4) -/

/-- Every PLL of a mask (bits of SYS_PLL_STATUS.LOCK) is locked. -/
def State.pllsLocked (s : State) (m : Nat) : Bool :=
  (s.fld F.SYS_PLL_STATUS_LOCK &&& m) == m

/-- Start PLLs. -/
def requestPlls (m : Nat) : Prog := modLamp fun l => { l with pllReq := l.pllReq ||| m }

/-- PLL that clocks a gateable unit, as a mask: ARRAY for a district, TILE for a tile core and the
raster front end; the other gateable units run on SYS. -/
def unitPll (u : Nat) : Nat :=
  if 4 ≤ u ∧ u < 12 then 4 else if 12 ≤ u ∧ u < 29 then 2 else 0

/-- PLLs that some units need. -/
def unitPlls (us : List Nat) : Nat := us.foldl (fun m u => m ||| unitPll u) 0

/-- The PLL of unit `u` has indicated lock (R36). -/
def State.unitLocked (s : State) (u : Nat) : Bool := s.pllsLocked (unitPll u)

/-- Units that hold started work, and the compositor's reserved tile cores, are clocked where their
PLL is locked (R36, R44, R51). -/
def reclockUnits : Prog :=
  .look fun s =>
    let us := ((s.wrd.slots.filterMap id).flatMap fun o => o.units.filter fun u =>
      !o.waking.contains u) ++ (upTo (s.fld F.WRD_COMP_CFG_TILE_RES)).map unitTile
    setReg R.SYS_GATE_STATUS (s.rd R.SYS_GATE_STATUS ||| gateMask (us.filter s.unitLocked))

def State.unitClocked (s : State) (u : Nat) : Bool :=
  match gateBit u with
  | none => true
  | some b => bitN (s.rd R.SYS_GATE_STATUS) b == 1

/-- Term of a stop's reservations and watchdog, in reference ticks (R168). -/
def State.stopTerm (s : State) (st : Stop) : Nat :=
  25 * (if st.runLimit = 0 then zeroAsOne (s.fld F.WRD_STOP_LIMIT_US) else st.runLimit)

/-- The stop's fault messages name this unit: its first reserved unit, or its warden. -/
def State.slotUnit (s : State) (o : OpenStop) : Nat :=
  match o.units with
  | u :: _ => u
  | [] => (s.queue o.stop.queue).owner

/-! ### The run-list pool (R146 to R148) -/

def State.poolUnits (s : State) : Nat := 1024 * zeroAsOne (s.fld F.XLT_POOL_SIZE_SIZE_64K)

/-- Room for `n` units at `at_`. -/
def poolFits (allocs : List (Nat × Nat)) (size n at_ : Nat) : Bool :=
  decide (at_ + n ≤ size) && allocs.all fun a => decide (a.1 + a.2 ≤ at_) || decide (at_ + n ≤ a.1)

/-- Where in the pool a run list goes: the spec does not say, and the model takes the lowest place with
room (DESIGN CHOICE, assumption 135 on R146). -/
def State.poolPlace (s : State) (n : Nat) : Option Nat :=
  ((0 :: s.xlt.allocs.map fun a => a.1 + a.2).filter (poolFits s.xlt.allocs s.poolUnits n)).min?

/-- Free a stop's run list (R146). -/
def freeRunList (st : Stop) : Prog :=
  match st.runs with
  | none => .skip
  | some l => modXlt fun x => { x with
      allocs := x.allocs.filter fun a => !(a.1 == l.poolAt && a.2 == l.poolUnits) }

def State.gen (s : State) (asid : Nat) : Nat := if asid = 0 then 0 else s.rd R.XLT_GEN asid

/-- Stops that hold a run list: enqueued and open. -/
def State.runHolders (s : State) : List Stop :=
  (s.wrd.queues.map fun q => q.enq).flatten ++ s.openStops.map fun o => o.stop

/-- A stop of ASID `a` holds a run list that passes a test. -/
def State.holdsRun (s : State) (a : Nat) (p : RunList → Bool) : Bool :=
  s.runHolders.any fun st => match st.runs with
    | none => false
    | some l => l.asid == a && p l

/-- One invalidation of ASID `a`: its pending bit is set, and XLT_GEN_a is incremented, at once or,
while a stop of the ASID holds the new value, later (R149). -/
def bumpGeneration (a : Nat) : Prog :=
  .look fun s =>
    let new := (s.gen a + 1) % 2 ^ 32
    .seq (setReg R.XLT_INVAL_PEND (s.rd R.XLT_INVAL_PEND ||| 2 ^ a)) <|
      if s.holdsRun a (fun l => l.gen == new) then
        modXlt fun x => { x with deferred := x.deferred ++ [a] }
      else setReg R.XLT_GEN new a

/-- Make the increments held back that can now be made, and complete the pending invalidations that
no older run list and no increment holds back (R149, R152). -/
def settleInvalidations : Prog :=
  .look fun s => Prog.all [
    modXlt fun x => { x with deferred := [] },
    Prog.each s.xlt.deferred bumpGeneration,
    Prog.each ((upTo 16).filter (0 < ·)) fun a => .look fun t =>
      Prog.when (bitN (t.rd R.XLT_INVAL_PEND) a = 1 ∧ t.xlt.deferred.contains a = false
          ∧ t.holdsRun a (fun l => l.gen != t.gen a) = false) <| Prog.all [
        setReg R.XLT_INVAL_PEND (clearMask (t.rd R.XLT_INVAL_PEND) (2 ^ a)),
        setF F.XLT_EVENT_INVAL_DONE 1,
        deviceEvent 13]]

/-- An invalidation of ASID `a` (R149); ASID 0 has none. -/
def invalidate (a : Nat) : Prog :=
  if a = 0 then .skip else .seq (bumpGeneration a) settleInvalidations

/-- Record a translation fault (R144, R145). -/
def recordXltFault (st : Stop) (code va level kind status : Nat) : Prog :=
  Prog.all [
    setReg R.XLT_FAULT_VA_LO (va % 2 ^ 32),
    setReg R.XLT_FAULT_VA_HI (va / 2 ^ 32 % 128),
    setReg R.XLT_FAULT_INFO (st.asid + level * 16 + kind * 64),
    (if code = 0x0401 then setF F.XLT_EVENT_FAULT 1
     else if code = 0x0402 then setF F.XLT_EVENT_OVERSIZE 1
     else setF F.XLT_EVENT_BAD_ENTRY 1),
    raise code unitXlt (va / 4096 % 2 ^ 27 + st.asid * 2 ^ 28) st.queue st.tag status]

/-- Every run of a LOCK or UNLOCK stop in the LPDDR window starts and ends on a 64 KiB boundary
(R164); the base of the first range that does not. -/
def badLockRange (st : Stop) (runs : List Run) : Option Nat :=
  if st.opcode ≠ 0x04 ∧ st.opcode ≠ 0x05 then none
  else
    match runs.find? fun r => 0x100000 ≤ r.pfn && r.pfn < 0x200000
        && !(r.pfn % 16 == 0 && (r.pfn + r.count) % 16 == 0) with
    | none => none
    | some r => some (rangeAt st.desc r.range).va

/-- What pretranslating a stop comes to. -/
inductive Attach where
  | ok (l : Option RunList) : Attach
  /-- No room in the pool now. -/
  | wait : Attach
  | fail (status : Nat) (p : Prog) : Attach

/-- Pretranslate a stop (R143 to R148): its run list with its place in the pool. -/
def State.attach (s : State) (st : Stop) : Attach :=
  if st.ranges = [] then .ok none
  else match s.pretranslate st.asid st.ranges with
    | .poisoned => .fail 1 (.seq (setF F.AVE_EVENT_POISON_READ 1)
        (raise 0x0309 unitXlt 0 st.queue st.tag 1))
    | .fault status code va level kind => .fail status (recordXltFault st code va level kind status)
    | .ok runs =>
      match badLockRange st runs with
      | some va => .fail 2 (raise 0x0404 unitXlt (va / 4096 % 2 ^ 27 + st.asid * 2 ^ 28)
          st.queue st.tag 2)
      | none =>
        let n := poolUnitsFor runs.length
        if s.poolUnits < n then
          .fail 3 (recordXltFault st 0x0402 (rangeAt st.desc 0).va 0 3 3)
        else match s.poolPlace n with
          | none => .wait
          | some p => .ok (some ⟨runs, st.ranges.length, pageCount st.ranges, st.asid,
              s.gen st.asid, p, n⟩)

/-- Take the pool's room for a run list and write it there. -/
def placeRunList (l : Option RunList) : Prog :=
  match l with
  | none => .skip
  | some l => .look fun s => .seq
      (modXlt fun x => { x with allocs := (l.poolAt, l.poolUnits) :: x.allocs })
      (engineWrite (65536 * s.fld F.XLT_POOL_BASE_BASE_64K + 64 * l.poolAt) l.bytes)

/-! ### Arrays a stop names (Tables 08-9 and 08-12) -/

/-- Logical arrays that an ARRAY_LAYER or PAGE_WRITE stop names. -/
def Stop.arraysNamed (st : Stop) : List Nat :=
  let count := if st.opcode = 0x20 then param st.desc 6 2
    else if st.opcode = 0x21 then param st.desc 2 2 else 0
  (upTo count).map fun n => fieldAt st.desc (param st.desc 4 2 + 8 * n) 1

/-- Physical array that backs logical array `a`. -/
def State.backing (s : State) (a : Nat) : Option Nat :=
  (upTo 200).find? fun p => (nth Arr.reset s.dst.arrs p).backs == some a

/-- Physical array `p` belongs to an open stop that holds units. -/
def State.arrayInUse (s : State) (p : Nat) : Bool :=
  match (nth Arr.reset s.dst.arrs p).backs with
  | none => false
  | some a => s.openStops.any fun o => o.units != [] && o.stop.arraysNamed.contains a

/-- Calibrations that are due start on arrays of no open stop, and forced ones at a pass
boundary with no page write in progress (R252). -/
def startCalibrations : Prog :=
  .look fun s => Prog.when ((s.dst.arrs.any fun a => a.calDue && !a.calRunning) = true) <|
    modDst fun d => { d with arrs := (upTo d.arrs.length).map fun p =>
      let a := nth Arr.reset d.arrs p
      if a.calDue && !a.calRunning && !a.retired && a.writing.isNone
          && (a.calForced || !s.arrayInUse p)
      then { a with calRunning := true } else a }

/-- The warden holds a stop back while an array it names is under calibration (R252). -/
def State.arraysReady (s : State) (st : Stop) : Bool :=
  st.arraysNamed.all fun a => match s.backing a with
    | none => true
    | some p => !(nth Arr.reset s.dst.arrs p).calRunning

/-! ### What a dispatch needs (R165) -/

/-- Mutexes that a stop's ACQUIRE waits name. -/
def Stop.acquires (st : Stop) : List Nat :=
  (if st.w0.op = 2 then [st.w0.xng] else []) ++ (if st.w1.op = 2 then [st.w1.xng] else [])

/-- An AT_LEAST wait of the stop is not satisfied (R165, condition 4). -/
def Stop.waitsOpen (st : Stop) : Bool :=
  (st.w0.op == 1 && st.wait0 == .open) || (st.w1.op == 1 && st.wait1 == .open)

/-- A wait of the stop was released POISONED. -/
def Stop.waitsPoisoned (st : Stop) : Bool := st.wait0 == .poisoned || st.wait1 == .poisoned



/-- Every ACQUIRE is satisfied, with a lease record for each mutex to be taken. -/
def State.acquiresOk (s : State) (st : Stop) : Bool :=
  let need := st.acquires.filter fun n => (s.crossing n).value == 0
  (st.acquires.all fun n => !(s.crossing n).broken && ((s.crossing n).value == 0
      || (s.crossing n).value == 0x80000000 + st.queue))
    && decide (need.length ≤ countIf (fun r => (keyGet s.leases (132 + r)).isNone) (upTo 60))

/-- Entries a LOCK stop's runs need, and the conflicts of R120 and R164. -/
def State.locksOk (s : State) (st : Stop) : Bool :=
  match st.runs with
  | none => true
  | some l =>
    let who := some (Holder.queue st.queue)
    l.runs.all (fun r => !s.lockConflict who r.pfn r.count r.wr)
      && (st.opcode != 0x04
          || ((l.runs.all fun r => !s.lockConflict who r.pfn r.count (param st.desc 0 1 == 2))
              && decide (l.runs.length ≤ countIf Option.isNone s.ave.locks)))

/-- The conditions of R165 other than units and region locks, for the queue's oldest
undispatched stop. -/
def State.mayOpen (s : State) (st : Stop) : Bool :=
  let x := s.queue st.queue
  x.state == 1 && !s.wrd.closed && s.wardenOk x.owner
    && (!st.serial || s.openOf st.queue == [])
    && !st.waitsOpen
    && decide ((s.openOf st.queue).length < zeroAsOne (s.fld F.WRD_Q_CFG_MAX_OPEN st.queue))
    && s.freeSlot.isSome
    && (st.queue == 0 || decide (countIf (fun o => o.stop.queue != 0) s.openStops < 60))
    && s.acquiresOk st
    && s.arraysReady st

/-- Queue 0 has an open or dispatchable stop that needs tile cores, so that its reserved cores
run no other work. -/
def State.compositorNeedsCores (s : State) : Bool :=
  (s.openOf 0).any (fun o => opcodeKind o.stop.opcode == some 1)
    || (match (s.queue 0).enq with
        | [] => false
        | st :: _ => opcodeKind st.opcode == some 1 && s.mayOpen st && s.locksOk st)

/-- Units free for a stop, lowest first. -/
def State.freeUnits (s : State) (st : Stop) : List Nat :=
  (s.classUnits st).filter fun u => s.unitFree u
    && (st.queue == 0 || !(s.reservedCores.contains u && s.compositorNeedsCores))

/-! ### The wardens' shadows (R154) -/

/-- What the other warden's shadow of queue `q` holds once it is up to date. -/
def State.shadowOf (s : State) (q : Nat) : Shadow :=
  let x := s.queue q
  ⟨x.route, x.iter, x.next, x.enq, (s.openOf q).map fun o => (o.slot, o.stop)⟩

/-- The owner of queue `q` updates the shadow, at every enqueue, dispatch and completion. -/
def updateShadow (q : Nat) : Prog :=
  .look fun s => modWrd fun w => { w with shadows := upd w.shadows q (s.shadowOf q) }

/-! ### Releasing what a stop holds -/

/-- What the units keep for slot `i` is given up: the front end, the cores' contexts, a stand
being generated, page writes and remote accesses. -/
def dropUnitWork (i : Nat) : Prog :=
  Prog.all [
    modRas fun r => { r with
      held := if r.held = some i then none else r.held
      binDone := if r.held = some i then false else r.binDone
      waiting := r.waiting.filter (· ≠ i)
      cores := r.cores.map fun c => { c with
        slot := if c.slot = some i then none else c.slot
        saved := c.saved.filter fun x => x.slot ≠ i } },
    modRbt fun r => { r with
      tracks := r.tracks.map fun t =>
        { t with generating := t.generating.filter fun g => g.2 ≠ i }
      ringReads := r.ringReads.filter fun e => e.1 ≠ i },
    modDst fun d => { d with
      pwDone := d.pwDone.filter fun e => e.1 ≠ i
      passes := d.passes.filter fun e => e.1 ≠ i
      shuttled := d.shuttled.filter fun e => e.1 ≠ i
      arrs := d.arrs.map fun a => match a.writing with
        | none => a
        | some w => if w.slot = some i
            then { a with writing := none, pages := upd a.pages w.page
                            { nth Page.reset a.pages w.page with tag := none } }
            else a },
    modBrg fun b => { b with remotes := b.remotes.filter fun r => r.slot ≠ i },
    freeLease (192 + i),
    Prog.each (upTo 6) releaseStands]

/-- Tile cores serve slot `i` with ranks from 0 on, in the order given (R214). -/
def seatCores (i : Nat) (us : List Nat) : Prog :=
  Prog.each (upTo us.length) fun k => modRas fun r => { r with
    cores := upd r.cores (nth 0 us k - 12)
      { Core.reset with slot := some i, rank := k, saved := (nth Core.reset r.cores (nth 0 us k - 12)).saved } }

/-- Tile core `u` goes on from a saved context: it loads the pass's programs again and takes the
saved rank, granule and draw position (R238). -/
def resumeCore (u : Nat) (x : Saved) : Prog :=
  modRas fun r => { r with cores := (upTo r.cores.length).map fun c =>
    let y := nth Core.reset r.cores c
    let kept := y.saved.filter fun z => z ≠ x
    if c + 12 = u then { Core.reset with
        slot := some x.slot, rank := x.rank, granule := x.granule, draw := x.draw, store := x.store,
        fragment := x.fragment, consts := x.consts, tex := x.tex, saved := kept }
    else { y with saved := kept } }

/-- Contexts of slot `i` in the save area, by rank. -/
def State.savedOf (s : State) (i : Nat) : List Saved :=
  (upTo 16).flatMap fun k => s.ras.cores.filterMap fun c =>
    c.saved.filter fun x => x.slot == i && x.rank == k

/-- A pre-empted stop resumes from its saved state on free cores of its class, lowest first (R169);
a reserved core is one of them while queue 0 needs none. -/
def regainCores (i : Nat) : Prog :=
  .look fun s => match s.slotOf i with
    | none => .skip
    | some o => Prog.when (0 < o.yielded ∧ o.withdraw = none) <|
        let free := (s.freeUnits o.stop).take o.yielded
        let asleep := free.filter fun u => !s.unitClocked u
        Prog.all [
          Prog.when (s.lamp.power = .running ∧ asleep ≠ []) (requestPlls (unitPlls asleep)),
          Prog.each free fun u => takeLease (64 + u) 2 2 i u (s.stopTerm o.stop),
          modSlot i fun x => { x with units := x.units ++ free, waking := x.waking ++ asleep,
                                      yielded := x.yielded - free.length },
          Prog.each (free.zip (s.savedOf i)) fun e => resumeCore e.1 e.2]

/-- Release a slot's unit reservations (R175, step 2). -/
def releaseUnits (i : Nat) : Prog :=
  .look fun s => match s.slotOf i with
    | none => .skip
    | some o => Prog.all [
        Prog.each o.units fun u => freeLease (64 + u),
        dropUnitWork i,
        modSlot i fun x => { x with units := [], waking := [], yielded := 0 },
        Prog.each (upTo 64) regainCores,
        startCalibrations]

/-- Signal `k` of the stop in slot `i`, which the crossing unit then reports for the slot; one that it
has reported is not performed again (R154, R155). -/
def slotSignal (i k : Nat) (g : Slot) (q : Nat) (failed : Bool) : Prog :=
  .look fun s => Prog.when (((s.slotOf i).map fun o => o.signalled.contains k) ≠ some true) <|
    .seq (performSignal g q failed) (modSlot i fun o => { o with signalled := k :: o.signalled })

/-- SIG0, then SIG1 of the completed stop in slot `i` (R175, step 3). -/
def performSignals (i : Nat) (st : Stop) : Prog :=
  .seq (slotSignal i 0 st.sig0 st.queue false) (slotSignal i 1 st.sig1 st.queue false)

/-- The signals of a failed stop: RELEASE as usual, then ADD and SET as failed signals (R176, steps 4
and 5). -/
def failSignals (i : Nat) (st : Stop) : Prog :=
  let g := [(0, st.sig0), (1, st.sig1)]
  .seq (Prog.each (g.filter fun x => x.2.op == 3) fun x => slotSignal i x.1 x.2 st.queue true)
    (Prog.each (g.filter fun x => x.2.op != 3) fun x => slotSignal i x.1 x.2 st.queue true)

/-- Page frames that the output ranges of a stop span, where they translate now. -/
def State.outputPages (s : State) (st : Stop) : List Nat :=
  ((st.ranges.filter fun r => r.wr).flatMap Range.vpns).filterMap fun x =>
    match s.translate st.asid x.1 x.2.rd x.2.wr with
    | .page pfn => some pfn
    | _ => none

/-- Poison every page and granule that the output ranges touch (R176, step 1). For a stop without a run
list, which fails at its enqueue or as it is translated anew, these are the pages that translate now:
whether those of a superseded run list are meant, R150 does not say (DESIGN CHOICE, assumption 132). -/
def poisonOutputs (st : Stop) : Prog :=
  match st.runs with
  | none => .look fun s => Prog.each (s.outputPages st) fun pfn => poisonRange (pfn * 4096) 4096
  | some l => Prog.each (l.runs.filter (·.wr)) fun r => poisonRange (r.pfn * 4096) (r.count * 4096)

/-- Clear the tags of the pages and granules that the write ranges cover wholly (R125). -/
def cleanOutputs (st : Stop) : Prog :=
  cleanRanges ((upTo st.ranges.length).flatMap fun i =>
    if (rangeAt st.desc i).wr then st.rangePieces i else [])

/-- Record a failed stop (R160, R176 step 6). -/
def recordFail (q tag status : Nat) : Prog :=
  .seq (setReg R.WRD_Q_LASTFAIL (tag % 2 ^ 16 + status * 2 ^ 16) q) (bump F.WRD_FAIL_COUNT_COUNT)

/-! ### Queue states -/

/-- Close a running queue; it is halted once no stop of it is open (R181). -/
def haltQueue (q : Nat) : Prog :=
  .look fun s => Prog.when ((s.queue q).state = 1)
    (modQueue q fun x => { x with state := if s.openOf q = [] then 2 else 3 })

/-- Stops of a route still to be fetched. -/
def Queue.more (x : Queue) : Bool := x.loop || x.next < x.count

/-- A running queue whose route has ended becomes idle, a draining one without open stops is
halted (R163, R181). -/
def settleQueue (q : Nat) : Prog :=
  .look fun s =>
    let x := s.queue q
    if s.openOf q ≠ [] then .skip
    else if x.state = 3 then modQueue q fun y => { y with state := 2 }
    else if x.state = 1 ∧ x.enq = [] ∧ x.withdrawn = [] ∧ x.more = false then
      modQueue q fun y => { y with state := 0 }
    else .skip

/-- Start route `r` of the running section on its queue (R163, Table 05-3). -/
def startRoute (r : Nat) : Prog :=
  .look fun s =>
    let e := s.routeEntry r
    let q := e.queue % 16
    let level := if q = 0 then 0 else max 1 (e.level % 4)
    Prog.all [
      setReg R.WRD_Q_CFG (level + e.maxOpen % 128 * 2 ^ 8 + e.drainMs * 2 ^ 16) q,
      modQueue q fun x => { x with
        state := 1, route := r, level := level, asid := e.asid % 16, loop := bitN e.flags 0 == 1,
        first := e.first, count := e.count, iter := 0, next := 0, enq := [], withdrawn := [],
        badStop := false, badSect := none, parked := false },
      updateShadow q]

/-- Make a loaded ROUTE section the running one: its base, its resource classes (R158). -/
def selectRouteSection (sectId : Nat) : Prog :=
  .look fun s => match s.boot.sects.find? fun x => x.sectId == sectId with
    | none => .skip
    | some x => .seq
        (modWrd fun w => { w with routeBase := x.dest, routeSect := sectId })
        (.look fun t =>
          let base := x.dest + t.routeField 0x1C 4
          Prog.each (upTo 16) fun n =>
            let b := t.paBytes (base + 8 * n) 8
            .seq (setReg R.WRD_RCLASS_KIND (fieldAt b 0 1 % 8 + fieldAt b 1 1 % 32 * 2 ^ 8) n)
              (setReg R.WRD_RCLASS_MASK (fieldAt b 4 4) n))

/-- Every queue is idle or halted. -/
def State.queuesStopped (s : State) : Bool := s.wrd.queues.all fun q => q.state == 0 || q.state == 2

/-- The hand-over to the FALLBACK profile that R426 holds back until every queue has stopped. -/
def fallbackStep : Prog :=
  .look fun s => Prog.when (s.brg.fallbackDue = true ∧ s.queuesStopped = true) <|
    match s.boot.running.bind fun p => s.boot.profiles.find? fun x => x.number == p with
    | none => modBrg fun b => { b with fallbackDue := false }
    | some prof =>
      match s.boot.profiles.find? fun x => x.number == prof.fallback with
      | none => modBrg fun b => { b with fallbackDue := false }
      | some f => Prog.all [
          Prog.each s.runHolders freeRunList,
          modXlt fun x => { x with waiting := [] },
          modWrd fun w => { w with
            queues := w.queues.map fun q => { q with state := 0, enq := [], withdrawn := [] } },
          Prog.each (upTo 16) updateShadow,
          modBrg fun b => { b with fallbackDue := false },
          modBoot fun b => { b with running := some f.number },
          Prog.when (f.number ≠ 0) (raise 0x0207 unitNone f.number),
          selectRouteSection f.entrySect,
          startRoute f.entryRoute,
          settleInvalidations]

/-! ### Failure (R176), withdrawal (R181) and completion (R175) -/

/-- Step 5 of the park sequence, once step 4 has withdrawn the last open stop: CROSS_BUILD is in the
retention RAM beside the persistent crossings, which are written through as they change (R46, R158). -/
def parkWithdrawn : Prog :=
  .look fun s => Prog.when (s.lamp.parkStep = 4 ∧ s.openStops = []) <| .seq
    (Prog.when (s.boot.handedOver = true) (retWrite 0x20 (leBytes 8 s.boot.buildId)))
    (modLamp fun l => { l with parkStep := 6 })

/-- What follows the end of any stop of queue `q`. -/
def afterStop (q : Nat) : Prog := Prog.all [
  settleQueue q,
  settleInvalidations,
  fallbackStep,
  parkWithdrawn]

/-- An open stop fails with a status (R176), or with that of its withdrawal, which has come first. A
withdrawn stop is kept for a RESUME (R181). -/
def failStop (i code : Nat) : Prog :=
  .look fun s => match s.slotOf i with
    | none => .skip
    | some o =>
      let st := o.stop
      let status := o.withdraw.getD code
      let withdrawn := status = 7 ∨ status = 8
      Prog.all [
        poisonOutputs st,
        releaseUnits i,
        failSignals i st,
        recordFail st.queue st.tag status,
        freeRunList st,
        setSlot i none,
        updateShadow st.queue,
        Prog.when withdrawn (modQueue st.queue fun q => { q with
          withdrawn := q.withdrawn ++ [{ st with runs := none, wait0 := .open, wait1 := .open,
                                                 rerun := true }],
          parked := q.parked || status == 8 }),
        Prog.when (st.failHalt = true ∧ ¬ withdrawn) (haltQueue st.queue),
        afterStop st.queue]

/-- The oldest undispatched stop fails, or a stop at its enqueue (R144, R145, R165, R177). -/
def failUndispatched (st : Stop) (status : Nat) : Prog :=
  Prog.all [
    poisonOutputs st,
    failSignals 64 st,
    recordFail st.queue st.tag status,
    freeRunList st,
    updateShadow st.queue,
    Prog.when (st.failHalt = true) (haltQueue st.queue),
    afterStop st.queue]

/-- An open stop meets poisoned data (R124). -/
def failPoisoned (i : Nat) : Prog :=
  .look fun s => match s.slotOf i with
    | none => .skip
    | some o => Prog.all [
        setF F.AVE_EVENT_POISON_READ 1,
        raise 0x0309 (s.slotUnit o) 0 o.stop.queue o.stop.tag 1,
        failStop i 1]

/-- Withdraw the stop in slot `i` with a status (R181): one that tile cores execute ends once they reach
their granule boundaries, and any other at once. A pass of an array is one command of the model, so
that a district always stands at a pass boundary (DEDUCED, assumption 136). -/
def withdrawStop (i status : Nat) : Prog :=
  .look fun s => match s.slotOf i with
    | none => .skip
    | some o =>
      if o.started ∧ (o.units.any fun u => 12 ≤ u && u < 28) = true then
        modSlot i fun x => { x with withdraw := some (x.withdraw.getD status) }
      else failStop i status

/-- Withdraw every open stop of a queue with a status (R181, R448, R46). -/
def withdrawQueue (q status : Nat) : Prog :=
  .look fun s => Prog.each (s.openOf q) fun o => withdrawStop o.slot status

/-- An open stop completes successfully (R175). -/
def completeStop (i : Nat) : Prog :=
  .look fun s => match s.slotOf i with
    | none => .skip
    | some o =>
      let st := o.stop
      Prog.all [
        stampStop st,
        releaseUnits i,
        performSignals i st,
        cleanOutputs st,
        renewOwner 1 st.queue [1, 5],
        freeRunList st,
        setSlot i none,
        updateShadow st.queue,
        afterStop st.queue]

/-- A stop's own access is answered with an error (R507). -/
def failAccess (i : Nat) : Prog := failStop i 0x0A

/-! ### Enqueue (R160, R143) -/

/-- The stop that queue `q` fetches next: route position and ITER. -/
def Queue.nextStop (x : Queue) : Option (Nat × Nat) :=
  if x.next < x.count then some (x.next, x.iter)
  else if x.loop ∧ 0 < x.count then some (0, (x.iter + 1) % 2 ^ 32)
  else none

/-- A fetched stop: its words, its descriptor, and the line at which a check failed. -/
structure Fetched where
  stop : Stop
  bad : Option Nat
  deriving DecidableEq, Repr

/-- Fetch stop `pos` of queue `q` and apply the checks of R160. -/
def State.fetchStop (s : State) (q pos iter : Nat) : Fetched :=
  let x := s.queue q
  let pa := s.stopPa (x.first + pos)
  let words := s.paBytes pa 64
  let st : Stop := ⟨x.route, pos, x.first + pos, q, iter, words, [], none, .open, .open, false⟩
  let m := s.readMark pa 64
  if m.error || m.poison || !s.inPlaza pa
      || !stopWordsOk st x.asid q (s.fld F.WRD_RCLASS_KIND_KIND st.rclass) (s.classCount st)
        (s.fld F.WRD_RCLASS_MASK_MASK st.rclass)
      || (st.opcode == 0x12 && q != 0) then ⟨st, some pa⟩
  else if st.descLines = 0 then ⟨st, none⟩
  else
    let n := 64 * st.descLines
    let d := st.descPa
    let m := s.readMark d n
    let st' := { st with desc := s.paBytes d n }
    if m.error || m.poison || !s.inPlaza d || !s.inPlaza (d + n - 1)
        || !descOk st.opcode s.routeCount st.descLines st'.desc then ⟨st', some d⟩
    else ⟨st', none⟩

/-- A stop fails BAD_STOP (R160): its queue halts, and a repair or a warm reset follows. -/
def badStop (st : Stop) (line : Nat) : Prog :=
  .look fun s => Prog.all [
    setF F.WRD_EVENT_BAD_STOP 1,
    raise 0x0502 (s.queue st.queue).owner st.index st.queue st.tag 4,
    recordFail st.queue st.tag 4,
    haltQueue st.queue,
    modQueue st.queue fun q => { q with badStop := true, badSect := s.sectAt line },
    if s.canRepair line then requestRepair line else escalate]

/-- Queue `q` waits for pool room (R146). -/
def waitForPool (q : Nat) : Prog := modXlt fun y => { y with
  waiting := if y.waiting.contains q then y.waiting else y.waiting ++ [q] }

/-- Queue `q` no longer waits for pool room. -/
def leavePool (q : Nat) : Prog := modXlt fun y => { y with waiting := y.waiting.filter (· ≠ q) }

/-- What the memory does as a stop is fetched and translated: the reads of its words, of its descriptor
and of the table entries of its ranges (R113, R114, R160). -/
def fetchReads (f : Fetched) : Prog :=
  .look fun s => Prog.all [
    readEffects (s.stopPa f.stop.index) 64,
    Prog.when (f.stop.desc ≠ []) (readEffects f.stop.descPa (64 * f.stop.descLines)),
    Prog.when (f.bad = none) (Prog.each (s.xltReads f.stop.asid f.stop.ranges) fun a =>
      readEffects a 8)]

/-- Queue `q` fetches, checks and pretranslates its next stop. -/
def enqueueNext (q : Nat) : Prog :=
  .look fun s =>
    let x := s.queue q
    if x.state ≠ 1 ∨ s.wrd.closed ∨ s.wardenOk x.owner = false ∨ 8 ≤ x.enq.length then .skip
    else match x.nextStop with
      | none => .skip
      | some (pos, iter) =>
        let f := s.fetchStop q pos iter
        let advance := modQueue q fun y => { y with next := pos + 1, iter := iter }
        .seq (fetchReads f) <| match f.bad with
          | some line => .seq (leavePool q) (badStop f.stop line)
          | none => match s.attach f.stop with
            | .wait => waitForPool q
            | .fail status p => Prog.all [p, leavePool q, advance, failUndispatched f.stop status]
            | .ok l => Prog.all [
                advance,
                placeRunList l,
                leavePool q,
                accessWaits f.stop,
                .look fun t => modQueue q fun y => { y with
                  enq := y.enq ++ [t.updateWaits { f.stop with runs := l }] },
                updateShadow q]

/-! ### The dispatch decision (R165) -/

/-- Slot that holds a reserved tile core for another queue. -/
def State.coreHolder (s : State) (u : Nat) : Option Nat :=
  (s.openStops.find? fun o => o.units.contains u && o.stop.queue != 0).map fun o => o.slot

/-- What a dispatch decision for a queue comes to. -/
inductive Decision where
  | hold : Decision
  | lockWait (st : Stop) : Decision
  | retranslate (st : Stop) : Decision
  | fail (st : Stop) (status : Nat) : Decision
  | preempt (cores : List Nat) : Decision
  | go (st : Stop) (units : List Nat) : Decision
  deriving DecidableEq, Repr

/-- The decision for queue `q`'s oldest undispatched stop (R165, R169, R177). -/
def State.decideDispatch (s : State) (q : Nat) : Decision :=
  match (s.queue q).enq with
  | [] => .hold
  | st :: _ =>
    let alive := (s.classUnits st).filter fun u => !s.unitRetired u
    if (s.queue q).state ≠ 1 ∨ s.wrd.closed ∨ s.wardenOk (s.queue q).owner = false then .hold
    else if st.waitsPoisoned then .fail st 1
    else if alive.length < s.classCount st then .fail st 0x0A
    else if (match st.runs with
        | none => st.ranges != []
        | some l => l.gen != s.gen st.asid) then .retranslate st
    else if s.mayOpen st = false then .hold
    else if s.locksOk st = false then .lockWait st
    else
      let n := s.classCount st
      let free := s.freeUnits st
      if n ≤ free.length then .go st (free.take n)
      else
        let held := (s.classUnits st).filter fun u =>
          s.reservedCores.contains u && (s.coreHolder u).isSome
        if q = 0 ∧ opcodeKind st.opcode = some 1 ∧ n ≤ free.length + held.length then
          .preempt (held.take (n - free.length))
        else .hold

/-- Take the mutexes that the stop's ACQUIRE waits name (R173). -/
def takeMutexes (st : Stop) : Prog :=
  Prog.each st.acquires fun n => .look fun s =>
    Prog.when ((s.crossing n).value = 0) <| match s.freeMutexLease with
      | none => .skip
      | some r => giveMutex n st.queue r

/-- Open a slot for the oldest stop of its queue on these units, in one step (R165). -/
def openStop (st : Stop) (units : List Nat) (i : Nat) : Prog :=
  .look fun s =>
    let waking := units.filter fun u => !s.unitClocked u
    Prog.all [
      takeMutexes st,
      Prog.when (s.lamp.power = .running ∧ waking ≠ []) (requestPlls (unitPlls waking)),
      Prog.each units fun u => takeLease (64 + u) 2 2 i u (s.stopTerm st),
      modQueue st.queue fun q => { q with enq := q.enq.drop 1 },
      modWrd fun w => { w with
        lastAt := upd w.lastAt (4 * (s.queue st.queue).owner + (s.queue st.queue).level) st.queue },
      setSlot i (some ⟨i, st, units, waking, waking == [], s.time, [], 0, none, [], 0, false, false,
        false, none, []⟩),
      Prog.when (opcodeKind st.opcode = some 1) (seatCores i units),
      updateShadow st.queue]

/-- Request pre-emption of reserved cores (R169). -/
def requestPreempt (cores : List Nat) : Prog :=
  .look fun s => Prog.each cores fun u => match s.coreHolder u with
    | none => .skip
    | some i => modSlot i fun o =>
        { o with preempt := if o.preempt.contains u then o.preempt else o.preempt ++ [u] }

/-- Locks of a LOCK stop, one entry for each run (R164). -/
def lockRuns (st : Stop) : Prog :=
  match st.runs with
  | none => .skip
  | some l => Prog.each l.runs fun r => .look fun s => match s.freeLock with
      | none => .skip
      | some n => takeLock n r.pfn r.count (param st.desc 0 1) (.queue st.queue)

/-- Locks of the queue that match an UNLOCK stop's ranges exactly (R164). -/
def unlockRuns (st : Stop) : Prog :=
  match st.runs with
  | none => .skip
  | some l => .look fun s => Prog.each (s.locksOf (.queue st.queue)) fun n =>
      match nth none s.ave.locks n with
      | none => .skip
      | some k => Prog.when (l.runs.any fun r => r.pfn == k.base && r.count == k.pages) (freeLock n)

/-- Effect of a START_ROUTE stop in slot `i` (R163). -/
def startRouteStop (st : Stop) (i : Nat) : Prog :=
  .look fun s =>
    let r := param st.desc 0 2
    let q := (s.routeEntry r).queue % 16
    if (s.queue q).state = 0 then .seq (startRoute r) (completeStop i)
    else Prog.all [
      setF F.WRD_EVENT_QUEUE_BUSY 1,
      raise 0x0507 (s.queue st.queue).owner (r + q * 2 ^ 16) st.queue st.tag 0x0B,
      failStop i 0x0B]

/-- Warden opcodes other than COPY and FILL complete at dispatch (R168). -/
def wardenOpcode (st : Stop) (i : Nat) : Prog :=
  if st.opcode = 0x00 then completeStop i
  else if st.opcode = 0x01 then startRouteStop st i
  else if st.opcode = 0x04 then .seq (lockRuns st) (completeStop i)
  else if st.opcode = 0x05 then .seq (unlockRuns st) (completeStop i)
  else .skip

/-- Access checks of R172 on the crossings that the oldest stop of queue `q` waits on. -/
def checkWaits (q : Nat) : Prog :=
  .look fun s => match (s.queue q).enq with
    | [] => .skip
    | st :: _ => Prog.all [
        Prog.when (st.w0.op ≠ 0) (checkCrossing st.w0.xng),
        Prog.when (st.w1.op ≠ 0) (checkCrossing st.w1.xng)]

/-- The oldest stop of its queue fails undispatched (R165, R177). -/
def failOldest (st : Stop) (status : Nat) : Prog := .seq
  (modQueue st.queue fun q => { q with enq := q.enq.drop 1 })
  (failUndispatched st status)

/-- Translate the oldest stop of its queue anew (R150). -/
def retranslateOldest (st : Stop) : Prog :=
  .seq (freeRunList st) <| .look fun s => .seq
    (Prog.each (s.xltReads st.asid st.ranges) fun a => readEffects a 8) <|
    match s.attach st with
    | .wait => Prog.all [
        modQueue st.queue fun q => { q with enq := { st with runs := none } :: q.enq.drop 1 },
        waitForPool st.queue,
        updateShadow st.queue,
        settleInvalidations]
    | .fail status p => Prog.all [p,
        leavePool st.queue,
        modQueue st.queue fun q => { q with enq := q.enq.drop 1 },
        failUndispatched { st with runs := none } status]
    | .ok l => Prog.all [
        placeRunList l,
        modQueue st.queue fun q => { q with enq := { st with runs := l } :: q.enq.drop 1 },
        leavePool st.queue,
        updateShadow st.queue,
        settleInvalidations]

/-- Order in a route: ITER, modulo 2^32, then position. -/
def Stop.before (a b : Stop) : Bool :=
  if a.iter = b.iter then a.pos < b.pos else (b.iter + 2 ^ 32 - a.iter) % 2 ^ 32 < 2 ^ 31

/-- Insert a stop in route order. -/
def insertStop (st : Stop) (l : List Stop) : List Stop :=
  match l with
  | [] => [st]
  | x :: t => if st.before x then st :: x :: t else x :: insertStop st t

/-- Return an open stop that no unit has started to its queue, in route order before the stops not yet
dispatched (R155, R452). -/
def requeueStop (i : Nat) : Prog :=
  .look fun s => match s.slotOf i with
    | none => .skip
    | some o => Prog.all [
        releaseUnits i,
        setSlot i none,
        modQueue o.stop.queue fun q => { q with enq := insertStop o.stop q.enq },
        updateShadow o.stop.queue]

/-- Continue a halted queue: the withdrawn stops run again in route order, then the stops not
yet dispatched (R181). -/
def resumeHalted (q : Nat) : Prog :=
  .look fun s =>
    let again := (s.queue q).withdrawn.foldr insertStop []
    Prog.all [
      Prog.each again accessWaits,
      .look fun t => modQueue q fun x => { x with
        state := 1
        enq := again.map t.updateWaits ++ x.enq
        withdrawn := []
        badStop := false
        badSect := none
        parked := false },
      updateShadow q]

end Sys2Proof.Machine
end

