-- ==== Sys2Proof/Machine/Fencing.lean ====
section
/-! DEFINITION. A faulty unit: its fault message, its fence and the recovery it starts (chapter
16, R443, R451 and R455, Table 16-8). -/

namespace Sys2Proof.Machine

/-- Units that Table 16-8 recovers in place. -/
def recoveredInPlace (u : Nat) : Bool := (4 ≤ u && u ≤ 36) || u == 39

/-- Units whose fault ends in a warm reset with cause ESCALATE. -/
def recoveredByReset (u : Nat) : Bool :=
  u == 2 || u == 3 || u == 37 || u == 38 || u == 40 || (48 ≤ u && u < 80)

/-- Slots whose stop unit `u` serves, with work started or not. -/
def State.servedBy (s : State) (us : List Nat) (started : Bool) : List Nat :=
  (s.openStops.filter fun o => o.started == started
    && (o.units.any us.contains || (us.contains unitRas && started && s.ras.held == some o.slot))).map
      fun o => o.slot

/-- Step 1 of Table 16-9 on units that are not fenced yet: close the gates and read the stops
they execute and those not started. A ninth pending recovery escalates (R455). -/
def fenceUnits (us : List Nat) (code status : Nat) : Prog :=
  .look fun s =>
    let new := us.filter fun u => !s.rcl.fenced.contains u
    Prog.when (new ≠ [] ∧ s.live = true ∧ s.rcl.escalating = false) <| Prog.all [
      modRcl fun c => { c with
        fenced := c.fenced ++ new
        pending := c.pending ++ [⟨new, code, status, 1, s.time, s.servedBy new true,
          s.servedBy new false, []⟩] },
      modAve fun v => { v with gates := v.gates ++ new },
      Prog.when (8 < s.rcl.pending.length + 1) (.seq (raise 0x9009 unitNone) escalate)]

/-- A unit that raised a fault of its own is recovered as Table 16-8 states. -/
def recoverUnit (u code status : Nat) : Prog :=
  if recoveredInPlace u then fenceUnits [u] code status
  else if recoveredByReset u then escalate
  else .skip

/-- A unit's own fault: the message and the recovery (R443, R451). -/
def unitFault (u code detail queue tag status : Nat) : Prog :=
  .seq (raise code u detail queue tag status) (recoverUnit u code status)

end Sys2Proof.Machine
end

