-- ==== Sys2Proof/Machine/StopIO.lean ====
section
/-! DEFINITION. How an executing stop reaches memory: reads and writes of its ranges, their
poison and error marks, and remote accesses over the Bridge (chapters 04 and 14: R108, R113,
R124, R416, R419, R507). -/

namespace Sys2Proof.Machine

/-- Physical pieces of every RD range, or every WR range, of a stop. -/
def Stop.piecesOf (st : Stop) (write : Bool) : List (Nat × Nat) :=
  ((upTo st.ranges.length).map fun i =>
    let r := rangeAt st.desc i
    if (if write then r.wr else r.rd) then st.rangePieces i else []).flatten

/-- Cut a piece at the 256 B boundaries of its address (Table 14-4). -/
def cut256 (fuel : Nat) (p : Nat × Nat) : List (Nat × Nat) :=
  match fuel with
  | 0 => []
  | k + 1 =>
    if p.2 = 0 then []
    else
      let m := min p.2 (256 - p.1 % 256)
      (p.1, m) :: cut256 k (p.1 + m, p.2 - m)

/-- Remote parts of pieces, as (partner address, bytes). -/
def State.remoteParts (s : State) (ps : List (Nat × Nat)) : List (Nat × Nat) :=
  (ps.map fun p => match s.place p.1 with
    | .twin a => cut256 18 (a, p.2)
    | _ => []).flatten

/-- A byte that an open stop reads: fetched bytes stand for the twin window. -/
def State.readByte (s : State) (o : OpenStop) (pa : Nat) : Byte :=
  match s.place pa with
  | .twin a =>
    (match o.fetched.find? fun f => f.1 ≤ a && a < f.1 + f.2.length with
     | none => 0
     | some f => nth 0 f.2 (a - f.1))
  | _ => s.paByte pa

/-- Byte `off` of range `i` as the stop reads it; beyond the range's end, a value left open. -/
def State.rangeByte (s : State) (o : OpenStop) (i off : Nat) : Byte :=
  if off < (rangeAt o.stop.desc i).len then s.readByte o (o.stop.pa i off)
  else Config.beyondRange i off

/-- The same byte as a number. -/
def State.rb (s : State) (o : OpenStop) (i off : Nat) : Nat := (s.rangeByte o i off).toNat

/-- `n` bytes of range `i` from `off`. -/
def State.rbs (s : State) (o : OpenStop) (i off n : Nat) : List Byte :=
  (upTo n).map fun k => s.rangeByte o i (off + k)

/-- `n` bytes of range `i` from `off`, as a little-endian number. -/
def State.rn (s : State) (o : OpenStop) (i off n : Nat) : Nat := leNat (s.rbs o i off n)

/-- Issue one remote request of slot `i` (R416): a Bridge token is held while any is
outstanding (R419). -/
def remoteRequest (i : Nat) (write : Bool) (addr len : Nat) (data : List Byte) : Prog :=
  .look fun s =>
    let tag := s.brg.tagNext % 256
    Prog.all [
      takeLease (192 + i) 6 2 i i (zeroAsOne (s.fld F.BRG_TOKEN_TERM_TICKS)),
      modBrg fun b => { b with
        tagNext := (tag + 1) % 256
        remotes := b.remotes ++ [⟨tag, i, write, addr, len, write && len == 16⟩] },
      sendPkt ⟨if write then 3 else 5, tag, addr, len, 0, data⟩]

/-- A slot whose access received an error response, or met poisoned data. -/
def markError (i : Nat) : Prog := modSlot i fun o => { o with errorSeen := true }
def markPoison (i : Nat) : Prog := modSlot i fun o => { o with poisonSeen := true }

/-- Bytes of one physical piece written by slot `i`. -/
def writePiece (i pa : Nat) (bs : List Byte) : Prog :=
  .look fun s => match s.place pa with
    | .plaza _ => .seq (memWrite pa bs) (Prog.when (s.rmwErrs pa bs.length ≠ []) (markPoison i))
    | .lpddr _ => .seq (memWrite pa bs) (Prog.when (s.rmwErrs pa bs.length ≠ []) (markPoison i))
    | .twin a =>
      if s.brg.link = 4 ∨ s.brg.link = 5 then
        ((cut256 18 (a, bs.length)).foldl (fun (acc : Prog × List Byte) p =>
          (.seq acc.1 (remoteRequest i true p.1 p.2 (acc.2.take p.2)), acc.2.drop p.2))
          (Prog.skip, bs)).1
      else .seq (unmappedAccess pa) (markError i)
    | _ => .seq (unmappedAccess pa) (markError i)

/-- Slot `i` writes bytes to range `k` of its stop from `off`. -/
def stopWrite (i : Nat) (st : Stop) (k off : Nat) (bs : List Byte) : Prog :=
  let ps := st.pieces k (bs.length / 4096 + 2) off bs.length
  (ps.foldl (fun (acc : Prog × List Byte) p =>
    (.seq acc.1 (writePiece i p.1 (acc.2.take p.2)), acc.2.drop p.2)) (Prog.skip, bs)).1

/-- The work of slot `i` is over: it fails where an access met an error or poisoned data, and
otherwise waits for its completion report. -/
def finishWork (i : Nat) : Prog :=
  .look fun s => match s.slotOf i with
    | none => .skip
    | some o =>
      if o.errorSeen then failAccess i
      else if o.poisonSeen then failPoisoned i
      else modSlot i fun x => { x with done := true }

/-- An open stop of the opcode is executing and its work is not done: its units hold it, their
clocks run and none of them is fenced. -/
def State.executing (s : State) (i op : Nat) : Option OpenStop :=
  match s.slotOf i with
  | none => none
  | some o =>
    if o.stop.opcode == op && o.started && !o.done && o.withdraw == none
        && (o.yielded == 0 || o.units != []) && !(o.units.any s.rcl.fenced.contains)
        && o.units.all s.unitClocked
    then some o else none

/-- Slot `i` fails where an access of it met an error or poisoned data. -/
def checkAccess (i : Nat) : Prog :=
  .look fun s => match s.slotOf i with
    | none => .skip
    | some o =>
      if o.errorSeen then failAccess i else Prog.when (o.poisonSeen = true) (failPoisoned i)

/-- Run a stop's work on slot `i`: the given pieces are read first. An unmapped page fails the
stop UNIT_FAULT, poisoned data fails it POISONED, and bytes of the twin window are
fetched over the Bridge before the work goes on (R124, R416, R507). -/
def runStopOn (i op : Nat) (pieces : State → OpenStop → List (Nat × Nat))
    (work : State → OpenStop → Prog) (fin : Prog := finishWork i) : Prog :=
  .look fun s => match s.executing i op with
    | none => .skip
    | some o =>
      let rd := pieces s o
      let remote := s.remoteParts rd
      let missing := remote.filter fun p =>
        !(o.fetched.any fun f => f.1 == p.1 && f.2.length == p.2)
      let bad := rd.filter fun p => match s.place p.1 with
        | .twin _ => s.brg.link != 4 && s.brg.link != 5
        | .plaza _ => false
        | .lpddr _ => false
        | _ => true
      match bad with
      | p :: _ => .seq (unmappedAccess p.1) (failAccess i)
      | [] =>
        if missing ≠ [] then
          Prog.each (missing.filter fun p => !(s.brg.remotes.any fun r =>
              r.slot == i && !r.write && r.addr == p.1)) fun p =>
            remoteRequest i false p.1 p.2 []
        else .seq (Prog.each rd fun p => readEffects p.1 p.2) <|
          if rd.any fun p => (s.readMark p.1 p.2).poison
              && (match s.place p.1 with | .twin _ => false | _ => true)
          then failPoisoned i
          else .seq (.look fun t => match t.slotOf i with
            | none => .skip
            | some o' => work t o') fin

/-- Run a stop's work on slot `i`, reading every byte of its RD ranges. -/
def runStop (i op : Nat) (work : State → OpenStop → Prog) : Prog :=
  runStopOn i op (fun _ o => o.stop.piecesOf false) work

/-- The remote accesses of slot `i` still outstanding. -/
def State.remotesOf (s : State) (i : Nat) : List Remote :=
  s.brg.remotes.filter fun r => r.slot == i

end Sys2Proof.Machine
end

