-- ==== Sys2Proof/Machine/Arrays.lean ====
section
/-! DEFINITION. The charge arrays themselves: weight pages, calibration, mapping, retirement and
the pattern sweep (chapter 08, R240 to R263). -/

namespace Sys2Proof.Machine

def State.arr (s : State) (p : Nat) : Arr := nth Arr.reset s.dst.arrs p

def modArr (p : Nat) (f : Arr → Arr) : Prog :=
  modDst fun d => { d with arrs := upd d.arrs p (f (nth Arr.reset d.arrs p)) }

/-- District of physical array `p`. -/
def districtOf (p : Nat) : Nat := p / 25

/-- Fault 0x10nn + 0x100 d of district `d`. -/
def dstRaise (d off : Nat) (detail : Nat := 0) (queue : Nat := 0xFF) (tag : Nat := 0)
    (status : Nat := 0xFF) : Prog :=
  raise (0x1000 + 0x100 * d + off) (unitDst d) detail queue tag status

/-! ### Pages (R257, Table 08-8) -/

/-- The data cells of a page. -/
def Page.image (g : Page) : List Byte := if g.cells = [] then zeros 8192 else g.cells

/-- Data cell of column `c` at row `r` of a page image. -/
def cellOf (image : List Byte) (r c : Nat) : Nat :=
  bitN (nth 0 image (64 * r + c / 8)).toNat (c % 8)

/-- The eight parity cells of row `r`. -/
def rowParity (image : List Byte) (r : Nat) : Nat :=
  ((upTo 8).map fun p =>
    ((upTo 64).map fun c => cellOf image r (64 * p + c)).sum % 2 * 2 ^ p).sum

/-- Parity cells of a whole page, one byte a row. -/
def parityCells (image : List Byte) : List Byte :=
  (upTo 128).map fun r => BitVec.ofNat 8 (rowParity image r)

/-- Cell of column `c` of a page: data, parity, W0 or W1 (Table 08-2). -/
def Page.cell (g : Page) (r c : Nat) : Nat :=
  if c < 512 then cellOf g.image r c
  else if c < 520 then bitN (nth 0 g.parity r).toNat (c - 512)
  else if c = 521 then 1 else 0

/-- Column sum S_c as stored. -/
def Page.colSum (g : Page) (c : Nat) : Nat :=
  match g.sums.find? fun e => e.1 == c with
  | some e => e.2.1
  | none => ((upTo 128).map fun r => g.cell r c).sum

/-- Store a page image, with its parity cells and column sums, its tag and its source. -/
def storePage (p page tag source : Nat) (image : List Byte) : Prog :=
  modArr p fun a => { a with
    pages := upd a.pages page ⟨some tag, source, image, parityCells image, []⟩ }

/-! ### Temperature and calibration (R251 to R253) -/

/-- District temperature: SYS_TEMP_d, or the hottest valid reading. -/
def State.districtTemp (s : State) (d : Nat) : Int :=
  if nth false s.lamp.tempValid d then nth 0 s.lamp.temps d else s.lamp.tjMax

def State.calPeriod (s : State) (d : Nat) : Nat := clampNat 1 10 (s.fld F.DST_CAL_CTRL_PERIOD_S d)
def State.calDelta (s : State) (d : Nat) : Nat := clampNat 2 8 (s.fld F.DST_CAL_CTRL_DELTA_C d)
def State.calGrace (s : State) (d : Nat) : Nat := clampNat 1 50 (s.fld F.DST_CAL_CTRL_GRACE_MS d)
def State.calForce (s : State) (d : Nat) : Nat :=
  max (s.calDelta d) (min 12 (s.fld F.DST_CAL_CTRL_FORCE_C d))
def State.sweepPeriod (s : State) (d : Nat) : Nat :=
  clampNat 1 10 (s.fld F.DST_SWEEP_CTRL_PERIOD_MS d)

/-- Largest N ≤ 64 with |e(n)| ≤ 12 for every n < N; errors not listed are 0. -/
def columnN (e : List Int) : Nat :=
  match (upTo (min 64 e.length)).find? fun n => 12 < (nth 0 e n).natAbs with
  | some n => n
  | none => 64

/-- What a measured column allows: W0 only decides between 0 and no limit. -/
def columnLimit (c : Nat × List Int) : Nat :=
  if c.1 = 520 then (if 12 < (nth 0 c.2 0).natAbs then 0 else 64) else columnN c.2

/-- N_exact and the column that sets it, from the columns' measured errors; the columns not
listed measured no error. -/
def arrayN (cols : List (Nat × List Int)) : Nat × Nat :=
  cols.foldl (fun acc c => if columnLimit c < acc.1 then (columnLimit c, c.1) else acc) (64, 0)

/-- A result at this temperature is marginal (R253). -/
def isMarginal (n : Nat) (temp : Int) : Bool :=
  (decide (temp ≤ 105) && decide (n < 48)) || (decide (105 < temp) && decide (n < 32))

/-! ### Retirement (R261 to R263) -/

/-- First healthy free spare, in increasing district order. -/
def State.freeSpare (s : State) : Option Nat :=
  ((upTo 8).map fun d => 25 * d + 24).find? fun p =>
    !(s.arr p).retired && (s.arr p).backs.isNone

/-- Start the oldest rewrite that waits on array `p`: an array writes one page at a time, and none
starts while a forced calibration is pending (R252, R257). -/
def startRewrites (p : Nat) : Prog :=
  .look fun s =>
    let a := s.arr p
    match a.rewrites with
    | [] => .skip
    | (page, tag, source) :: rest =>
      Prog.when (a.writing.isNone = true ∧ a.calForced = false ∧ a.calRunning = false) <|
        modArr p fun x => { x with
          rewrites := rest
          writing := some ⟨page, tag, source, false, none, none, 0, s.paBytes source 8192⟩ }

/-- Rewrite a page from its recorded source, with the same tag: it holds no valid tag until the
rewrite is complete (R249, R260). -/
def rewritePage (p page tag source : Nat) : Prog := .seq
  (modArr p fun a => { a with
    rewrites := a.rewrites ++ [(page, tag, source)]
    pages := upd a.pages page { nth Page.reset a.pages page with tag := none } })
  (startRewrites p)

/-- Retire physical array `p` while running: 1 CAL, 2 CHECK, 3 SWEEP, 4 WRITE. -/
def retireArray (p cause : Nat) : Prog :=
  .look fun s =>
    let a := s.arr p
    let d := districtOf p
    Prog.when (a.retired = false) <| Prog.all [
      modArr p fun x => { x with
        retired := true, backs := none, marginal := false, calDue := false, calForced := false,
        calRunning := false, writing := none, rewrites := [], suspect := none,
        sweepHeld := false, sweepForced := false,
        pages := x.pages.map fun g => { g with tag := none } },
      Prog.when (62 ≤ s.retireCount) (dstRaise d 0x0B),
      appendRetirement p cause a.nExact,
      (match a.backs with
       | none => dstRaise d 4
       | some l => match s.freeSpare with
         | some q => Prog.all [
             modArr q fun x => { x with
               backs := some l
               writing := a.writing.map fun w => { w with second := false }
               rewrites := a.rewrites },
             Prog.each (upTo 2) fun g => match (nth Page.reset a.pages g).tag with
               | none => .skip
               | some t => rewritePage q g t (nth Page.reset a.pages g).source,
             startRewrites q,
             dstRaise d 4]
         | none => Prog.all [dstRaise d 5, usePair R.DST_RETIRE_CTRL d,
             Prog.when (s.flag F.DST_RETIRE_CTRL_RESTART d = true) escalate])]

/-- A calibration of array `p` ends with these measurements (R253). -/
def calibrated (p : Nat) (cols : List (Nat × List Int)) : Prog :=
  .look fun s =>
    let r := arrayN cols
    let d := districtOf p
    let t := s.districtTemp d
    let m := isMarginal r.1 t && decide (16 ≤ r.1)
    Prog.all [
      modArr p fun a => { a with
        nExact := r.1, worstCol := r.2, tempCal := t, marginal := m, calAt := s.time,
        marginalRaised := a.marginalRaised || m,
        calDue := false, calForced := false, calRunning := false },
      bump F.DST_CAL_COUNT_DONE 1 d,
      Prog.when (m = true ∧ (s.arr p).marginalRaised = false) (dstRaise d 3),
      (if r.1 < 16 then retireArray p 1 else startRewrites p)]

/-- Calibration of array `p` becomes due. -/
def dueCalibration (p : Nat) : Prog :=
  .look fun s =>
    Prog.when ((s.arr p).retired = false ∧ s.dst.mapped = true) <| .seq
      (modArr p fun a => if a.calDue then a else { a with calDue := true, dueAt := s.time })
      startCalibrations

/-- A due calibration of array `p` is forced. -/
def forceCalibration (p : Nat) : Prog :=
  .look fun s =>
    let a := s.arr p
    Prog.when (a.retired = false ∧ a.calDue = true ∧ a.calForced = false ∧ a.calRunning = false) <|
      Prog.all [
        modArr p fun x => { x with calForced := true },
        bump F.DST_CAL_COUNT_FORCED 1 (districtOf p),
        startCalibrations]

/-- The temperature triggers of R252, at a new sample. -/
def thermalTriggers : Prog := .seq (useRegs [R.DST_CAL_CTRL]) <|
  Prog.each (upTo 200) fun p => .look fun s =>
    let d := districtOf p
    let diff := (s.districtTemp d - (s.arr p).tempCal).natAbs
    Prog.when ((s.arr p).retired = false ∧ s.dst.mapped = true ∧ s.calDelta d ≤ diff) <|
      .seq (dueCalibration p) (Prog.when (s.calForce d ≤ diff) (forceCalibration p))

/-- Every array is due (R44). -/
def allDue : Prog := Prog.each (upTo 200) dueCalibration

/-- CALIBRATION_PERIOD_EXPIRE: PERIOD_S have passed since array `p`'s last calibration. -/
def execCalibrationPeriodExpire (p : Nat) (s : State) : Host.Outcome State Fault Refusal :=
  Prog.outcome (Prog.when (p < 200) (.seq (usePair R.DST_CAL_CTRL (districtOf p)) (dueCalibration p))) s

/-- CALIBRATION_GRACE_EXPIRE: array `p`'s calibration has been due for GRACE_MS. -/
def execCalibrationGraceExpire (p : Nat) (s : State) : Host.Outcome State Fault Refusal :=
  Prog.outcome (Prog.when (p < 200) (.seq (usePair R.DST_CAL_CTRL (districtOf p)) (forceCalibration p))) s

/-- CALIBRATION_DONE: the calibration that runs on array `p` ends; `cols`: the errors e(n) it
measured, by column. -/
def execCalibrationDone (p : Nat) (cols : List (Nat × List Int)) (s : State) :
    Host.Outcome State Fault Refusal :=
  Prog.outcome (Prog.when (p < 200 ∧ (s.arr p).calRunning = true) (calibrated p cols)) s

/-! ### The map (R240, R254) -/

/-- Natural array of logical array `a`. -/
def natural (a : Nat) : Nat := 25 * (a / 24) + a % 24

/-- Fill holes with spares, lowest first. -/
def fillHoles (back : List (Option Nat)) (spares : List Nat) : List (Option Nat) :=
  match back with
  | [] => []
  | some p :: t => some p :: fillHoles t spares
  | none :: t => match spares with
    | [] => none :: fillHoles t []
    | q :: r => some q :: fillHoles t r

/-- The lowest unbacked logical array below `h`. -/
def lowestHole (back : List (Option Nat)) (h : Nat) : Option Nat :=
  (upTo h).find? fun a => nth none back a == none

/-- Physical array of each logical array. -/
def mapArrays (healthy : Nat → Bool) : List (Option Nat) :=
  let h := min 192 (countIf healthy (upTo 200))
  let back := fillHoles ((upTo 192).map fun a => if healthy (natural a) then some (natural a) else none)
    (((upTo 8).map fun d => 25 * d + 24).filter healthy)
  (upTo (192 - h)).foldl (fun b k =>
    let a := 191 - k
    match nth none b a with
    | none => b
    | some p => match lowestHole b h with
      | none => upd b a none
      | some c => upd (upd b c (some p)) a none) back

/-- Healthy addressable arrays h, as mapped. -/
def State.healthyArrays (s : State) : Nat :=
  min 192 (countIf (fun p => !(s.arr p).retired) (upTo 200))

/-- The start calibration: every array not recorded as retired is measured, R253 applies, and
the arrays are mapped. -/
def startCalibration (results : List (Nat × List (Nat × List Int))) : Prog :=
  .look fun s =>
    let res (p : Nat) : Nat × Nat :=
      ((results.find? fun r => r.1 == p).map fun r => arrayN r.2).getD (64, 0)
    let recorded (p : Nat) : Bool := s.retireRecorded p
    let healthy (p : Nat) : Bool := !recorded p && decide (16 ≤ (res p).1)
    let back := mapArrays healthy
    let temp (p : Nat) : Int := s.districtTemp (districtOf p)
    let marg (p : Nat) : Bool := healthy p && isMarginal (res p).1 (temp p)
    let bad := (upTo 200).filter fun p => !recorded p && decide ((res p).1 < 16)
    Prog.all [
      modDst fun d => { d with
        mapped := true
        arrs := (upTo 200).map fun p => { Arr.reset with
          retired := !healthy p
          backs := (upTo 192).find? fun a => nth none back a == some p
          nExact := (res p).1
          worstCol := (res p).2
          tempCal := temp p
          marginal := marg p
          marginalRaised := marg p
          calAt := s.time
          cleanTick := s.lamp.tick } },
      Prog.each ((upTo 200).filter fun p => !recorded p) fun p =>
        bump F.DST_CAL_COUNT_DONE 1 (districtOf p),
      Prog.each ((upTo 200).filter marg) fun p => dstRaise (districtOf p) 3,
      Prog.each bad fun p => .seq
        (.look fun t => Prog.when (62 ≤ t.retireCount) (dstRaise (districtOf p) 0x0B))
        (appendRetirement p 1 (res p).1)]

/-! ### The pattern sweep (R250) -/

/-- Rows that sweep step `j` activates. -/
def sweepRows (j : Nat) : List Nat := (upTo 128).filter fun r => (37 * r + 53 * j) % 128 < j + 1

/-- Count of column `c` over the rows of sweep step `j`, as read digitally from the page. -/
def sweepCount (g : Page) (j c : Nat) : Nat := ((sweepRows j).map fun r => g.cell r c).sum

/-- A try of array `p`'s sweep step finds a mismatch: on a page that holds a valid tag a data or
parity column reads another count than its popcount; `reads`: page, column and deviation of the
readings that are not exact. -/
def Arr.sweepMismatch (a : Arr) (reads : List (Nat × Nat × Int)) : Bool :=
  reads.any fun e =>
    let g := nth Page.reset a.pages e.1
    g.tag.isSome && decide (e.1 < 2) && decide (e.2.1 < 520)
      && decide ((sweepCount g a.sweepStep e.2.1 : Int) + e.2.2 ≠ (sweepCount g a.sweepStep e.2.1 : Int))

/-- A sweep step of array `p` runs; `first`, `second`: what its two tries read, `cols`: the
calibration between them. -/
def sweepStep (p : Nat) (first second : List (Nat × Nat × Int)) (cols : List (Nat × List Int)) : Prog :=
  .look fun s =>
    let a := s.arr p
    let d := districtOf p
    let done : Prog := .look fun t => modArr p fun x => { x with
      sweepStep := (x.sweepStep + 1) % 64, cleanTick := t.lamp.tick, sweepHeld := false,
      sweepForced := false }
    if a.sweepMismatch first = false then done
    else Prog.all [
      bump F.DST_CHECK_COUNT_SWEEP 1 d,
      dstRaise d 6 a.cleanTick,
      calibrated p cols,
      .look fun t => Prog.when ((t.arr p).retired = false) <|
        if a.sweepMismatch second = false then done
        else .seq (bump F.DST_CHECK_COUNT_SWEEP 1 d) (retireArray p 3)]

/-- SWEEP_STEP: the period of array `p`'s sweep has passed. The step runs at once when the array
belongs to no open stop, or is forced, which every command boundary is a pass boundary for; else it
waits. -/
def execSweepStep (p : Nat) (c : SweepSeen) (cols : List (Nat × List Int)) (s : State) :
    Host.Outcome State Fault Refusal :=
  Prog.outcome (Prog.when (p < 200 ∧ s.dst.mapped = true ∧ (s.arr p).retired = false) <|
    if s.arrayInUse p = true ∧ (s.arr p).sweepForced = false then
      modArr p fun a => { a with sweepHeld := true }
    else sweepStep p c.first c.second cols) s

/-- SWEEP_FORCE_EXPIRE: a held step of array `p` is forced, for its next pass boundary. -/
def execSweepForceExpire (p : Nat) (s : State) : Host.Outcome State Fault Refusal :=
  Prog.outcome (Prog.when (p < 200 ∧ (s.arr p).sweepHeld = true)
    (modArr p fun a => { a with sweepForced := true })) s

/-! ### PAGE_WRITE (R257, Table 08-9) -/

/-- A map entry of a PAGE_WRITE or of an ARRAY_LAYER. -/
structure MapEntry where
  logical : Nat
  page : Nat
  shuttle : Bool
  kt : Nat
  nt : Nat
  /-- SRC_8K of a PAGE_WRITE entry. -/
  src8k : Nat
  /-- TAG, or a shuttle entry's offset in 8 KiB units. -/
  tag : Nat
  deriving DecidableEq, Repr

def mapEntry (d : List Byte) (n : Nat) : MapEntry :=
  let w := fieldAt d (param d 4 2 + 8 * n) 4
  ⟨bits w 7 0, bitN w 8, bitN w 9 == 1, bits w 18 10, bits w 26 19, bits w 31 9,
   fieldAt d (param d 4 2 + 8 * n + 4) 4⟩

def writeEntries (d : List Byte) : Nat := param d 2 2

/-- Entries of the PAGE_WRITE in slot `i` that may start now: the first entry of each logical
array that is not written, on an array with no page write and no forced calibration. -/
def State.dueWrites (s : State) (i : Nat) (d : List Byte) : List (Nat × Nat) :=
  (upTo (writeEntries d)).filterMap fun n =>
    let e := mapEntry d n
    let first := (upTo n).all fun m =>
      (mapEntry d m).logical != e.logical || s.dst.pwDone.contains (i, m)
    match s.backing e.logical with
    | none => none
    | some p =>
      let a := s.arr p
      if first && !s.dst.pwDone.contains (i, n) && a.writing.isNone && a.rewrites == []
          && !a.calForced && !a.calRunning
      then some (n, p) else none

/-- The page writes of slot `i` that may start, start; a named array that is unbacked fails the
stop (R262). -/
def issueWrites (i : Nat) : Prog :=
  .look fun s => match s.slotOf i with
    | none => .skip
    | some o =>
      let d := o.stop.desc
      if (upTo (writeEntries d)).any fun n =>
          !s.dst.pwDone.contains (i, n) && (s.backing (mapEntry d n).logical).isNone
      then failStop i 0x0A
      else if (upTo (writeEntries d)).all fun n => s.dst.pwDone.contains (i, n)
      then modSlot i fun x => { x with done := true }
      else Prog.each (s.dueWrites i d) fun w =>
        let e := mapEntry d w.1
        let off := 8192 * e.src8k
        modArr w.2 fun a => { a with
          writing := some ⟨e.page, e.tag, o.stop.pa (param d 0 1) off, false, some i, none, w.1,
            s.rbs o (param d 0 1) off 8192⟩
          pages := upd a.pages e.page { nth Page.reset a.pages e.page with tag := none } }

/-- PAGE_WRITE: the stop in slot `i`; its page images arrive and its writes start. -/
def execPageWrite (i : Nat) (s : State) : Host.Outcome State Fault Refusal :=
  Prog.outcome (runStopOn i 0x21
    (fun _ o => ((upTo (writeEntries o.stop.desc)).map fun n =>
      o.stop.pieces (param o.stop.desc 0 1) 4 (8192 * (mapEntry o.stop.desc n).src8k) 8192).flatten)
    (fun _ _ => issueWrites i) (checkAccess i)) s

/-- The stop whose write on an array has ended, or has moved to a spare, goes on. -/
def writeGoesOn (w : PageWriting) : Prog :=
  match w.slot, w.shuttle with
  | some i, none => issueWrites i
  | _, _ => .skip

/-- PAGE_WRITE_DONE: the write and verify in progress on array `p` ends. A first mismatch writes
once more, a second one retires the array with cause WRITE. -/
def execPageWriteDone (p : Nat) (verifyOk : Bool) (s : State) : Host.Outcome State Fault Refusal :=
  Prog.outcome (match (s.arr p).writing with
    | none => .skip
    | some w =>
      if verifyOk then Prog.all [
        storePage p w.page w.tag w.source w.image,
        modArr p fun a => { a with writing := none },
        (match w.slot, w.shuttle with
         | none, _ => .skip
         | some i, none => modDst fun d => { d with pwDone := d.pwDone ++ [(i, w.entry)] }
         | some i, some b => modDst fun d => { d with shuttled := d.shuttled ++ [(i, w.entry, b)] }),
        startCalibrations,
        startRewrites p,
        writeGoesOn w]
      else if w.second then Prog.all [
        dstRaise (districtOf p) 8,
        retireArray p 4,
        writeGoesOn w]
      else modArr p fun a => { a with writing := some { w with second := true } }) s

end Sys2Proof.Machine
end

