-- ==== Sys2Proof/Machine/Numeric.lean ====
section
/-! DEFINITION. Binary16 and binary32 arithmetic as R213 states it: every operation forms its
exact result and rounds it once, to nearest with ties to even. Exact values are signed
fractions with infinities and NaN; the transcendental functions are computed on 320-bit fixed
point, far below the distance of any operand's result from a tie (assumption 40). -/

namespace Sys2Proof.Machine

/-! ### Exact values -/

/-- An exact value: NaN, a signed infinity, or a signed fraction whose zero keeps a sign. -/
inductive Ex where
  | nan : Ex
  | inf (neg : Bool) : Ex
  | fin (neg : Bool) (num den : Nat) : Ex
  deriving DecidableEq, Repr

/-- Signed numerator. -/
def signedNum (neg : Bool) (n : Nat) : Int := if neg then -(n : Int) else n

/-- The fraction of an integer over `den`; zero is +0. -/
def Ex.ofInt (i : Int) (den : Nat) : Ex := .fin (decide (i < 0)) i.natAbs den

def Ex.ofNat (n : Nat) : Ex := .fin false n 1

def Ex.neg : Ex → Ex
  | .nan => .nan
  | .inf s => .inf (!s)
  | .fin s n d => .fin (!s) n d

def Ex.isZero : Ex → Bool
  | .fin _ n _ => n == 0
  | _ => false

/-- Sum; an exact zero is +0 unless both operands are −0. -/
def Ex.add (a b : Ex) : Ex :=
  match a, b with
  | .nan, _ => .nan
  | _, .nan => .nan
  | .inf s, .inf t => if s = t then .inf s else .nan
  | .inf s, _ => .inf s
  | _, .inf t => .inf t
  | .fin s n d, .fin t m e =>
    let i := signedNum s n * (e : Int) + signedNum t m * (d : Int)
    if i = 0 then .fin (s && t && n == 0 && m == 0) 0 1 else Ex.ofInt i (d * e)

def Ex.sub (a b : Ex) : Ex := a.add b.neg

def Ex.mul (a b : Ex) : Ex :=
  match a, b with
  | .nan, _ => .nan
  | _, .nan => .nan
  | .inf s, .inf t => .inf (s != t)
  | .inf s, .fin t m _ => if m = 0 then .nan else .inf (s != t)
  | .fin s n _, .inf t => if n = 0 then .nan else .inf (s != t)
  | .fin s n d, .fin t m e => .fin (s != t) (n * m) (d * e)

/-- Quotient. -/
def Ex.div (a b : Ex) : Ex :=
  match a, b with
  | .nan, _ => .nan
  | _, .nan => .nan
  | .inf _, .inf _ => .nan
  | .inf s, .fin t _ _ => .inf (s != t)
  | .fin s _ _, .inf t => .fin (s != t) 0 1
  | .fin s n d, .fin t m e =>
    if m = 0 then (if n = 0 then .nan else .inf (s != t)) else .fin (s != t) (n * e) (d * m)

/-- a < b; false with a NaN. -/
def Ex.lt (a b : Ex) : Bool :=
  match a, b with
  | .nan, _ => false
  | _, .nan => false
  | .inf s, .inf t => s && !t
  | .inf s, _ => s
  | _, .inf t => !t
  | .fin s n d, .fin t m e => decide (signedNum s n * (e : Int) < signedNum t m * (d : Int))

/-- a ≥ b; false with a NaN. -/
def Ex.ge (a b : Ex) : Bool := a != .nan && b != .nan && !a.lt b

/-- The negative of two values that are equal or not ordered: the sign bit of a zero. -/
def Ex.sign : Ex → Bool
  | .nan => false
  | .inf s => s
  | .fin s _ _ => s

/-- MIN and MAX of R213. -/
def Ex.min (a b : Ex) : Ex :=
  if a = .nan then b else if b = .nan then a
  else if a.lt b then a else if b.lt a then b else if a.sign then a else b

def Ex.max (a b : Ex) : Ex :=
  if a = .nan then b else if b = .nan then a
  else if a.lt b then b else if b.lt a then a else if a.sign then b else a

/-- Floor; a zero and an infinity stay as they are. -/
def Ex.floor : Ex → Ex
  | .fin s n d =>
    if n = 0 then .fin s 0 1
    else let i := signedNum s n / (d : Int); if i = 0 then .fin false 0 1 else Ex.ofInt i 1
  | x => x

/-! ### Rounding to a binary format -/

/-- A binary format: precision and exponent range. -/
structure Fmt where
  prec : Nat
  emin : Int
  expBits : Nat
  deriving DecidableEq, Repr

def fmt16 : Fmt := ⟨11, -14, 5⟩
def fmt32 : Fmt := ⟨24, -126, 8⟩

/-- The bits of infinity, without sign. -/
def Fmt.infBits (f : Fmt) : Nat := (2 ^ f.expBits - 1) * 2 ^ (f.prec - 1)

/-- `n / d` to the nearest integer, ties to even. -/
def rheNat (n d : Nat) : Nat :=
  let q := n / d
  let r := 2 * (n % d)
  if r < d then q else if d < r then q + 1 else if q % 2 = 0 then q else q + 1

/-- The same for a signed numerator. -/
def rhe (n : Int) (d : Nat) : Int :=
  if n < 0 then -(rheNat n.natAbs d : Int) else (rheNat n.natAbs d : Int)

/-- The exponent e with 2^e ≤ num/den < 2^(e+1). -/
def ratExp (num den : Nat) : Int :=
  let e : Int := (Nat.log2 num : Int) - (Nat.log2 den : Int)
  let below := if 0 ≤ e then num < den * 2 ^ e.toNat else num * 2 ^ (-e).toNat < den
  if below then e - 1 else e

/-- Magnitude bits of a positive fraction. -/
def Fmt.mag (f : Fmt) (num den : Nat) : Nat :=
  if num = 0 then 0
  else
    let q : Int := Max.max (ratExp num den) f.emin - ((f.prec - 1 : Nat) : Int)
    let n := if 0 ≤ q then rheNat num (den * 2 ^ q.toNat) else rheNat (num * 2 ^ (-q).toNat) den
    let bits := (q + ((f.prec - 1 : Nat) : Int) - f.emin).toNat * 2 ^ (f.prec - 1) + n
    Nat.min bits f.infBits

/-- The format's bits of an exact value (R213). -/
def Fmt.round (f : Fmt) (x : Ex) : Nat :=
  let sign (s : Bool) : Nat := if s then 2 ^ (f.expBits + f.prec - 1) else 0
  match x with
  | .nan => f.infBits + 2 ^ (f.prec - 2)
  | .inf s => sign s + f.infBits
  | .fin s n d => sign s + f.mag n d

/-- The exact value of a format's bits. -/
def Fmt.exact (f : Fmt) (b : Nat) : Ex :=
  let m := b % 2 ^ (f.prec - 1)
  let e := b / 2 ^ (f.prec - 1) % 2 ^ f.expBits
  let s := b / 2 ^ (f.expBits + f.prec - 1) % 2 == 1
  -- the unit of a subnormal is 2^(emin - prec + 1)
  let den := 2 ^ ((f.prec - 1 : Nat) - f.emin : Int).toNat
  if e = 2 ^ f.expBits - 1 then (if m = 0 then .inf s else .nan)
  else if e = 0 then .fin s m den
  else .fin s ((m + 2 ^ (f.prec - 1)) * 2 ^ (e - 1)) den

/-! ### Fixed point for the transcendental functions -/

/-- Fraction bits of the fixed point. -/
def fxBits : Nat := 320
def fxOne : Nat := 2 ^ fxBits

/-- ln 2. -/
def fxLn2 : Nat := ((upTo 330).map fun k => fxOne / ((k + 1) * 2 ^ (k + 1))).sum

/-- arctan (1/n). -/
def fxAtanInv (n : Nat) : Int :=
  ((upTo 150).map fun k =>
    let t : Int := (fxOne / ((2 * k + 1) * n ^ (2 * k + 1)) : Nat)
    if k % 2 = 0 then t else -t).sum

/-- π. -/
def fxPi : Nat := (16 * fxAtanInv 5 - 4 * fxAtanInv 239).toNat

/-- Σ over `n` terms of x^k / k!, from term `k`. -/
def fxExpTerms (n k x : Nat) : Nat :=
  match n with
  | 0 => fxOne
  | m + 1 => fxOne + x * fxExpTerms m (k + 1) x / (k * fxOne)

/-- Square `n` times. -/
def fxSquares (n x : Nat) : Nat :=
  match n with
  | 0 => x
  | m + 1 => fxSquares m (x * x / fxOne)

/-- e^x for x ≥ 0. -/
def fxExp (x : Nat) : Nat := fxSquares 10 (fxExpTerms 70 1 (x / 1024))

/-- Natural logarithm of a fixed-point number in [1, 2): 2 artanh of (x - 1)/(x + 1). -/
def fxLn (x : Nat) : Nat :=
  let z := (x - fxOne) * fxOne / (x + fxOne)
  let z2 := z * z / fxOne
  2 * ((upTo 110).foldl (fun (acc : Nat × Nat) k =>
    (acc.1 + acc.2 / (2 * k + 1), acc.2 * z2 / fxOne)) (0, z)).1

/-- Sine or cosine of x in [0, π/2): alternating terms from `start`. -/
def fxTrig (x start : Nat) : Nat :=
  let x2 := x * x / fxOne
  ((upTo 60).foldl (fun (acc : Int × Nat) k =>
    let t : Int := (acc.2 : Nat)
    let n := start + 2 * k
    ((if k % 2 = 0 then acc.1 + t else acc.1 - t), acc.2 * x2 / (fxOne * ((n + 1) * (n + 2)))))
    (0, if start = 0 then fxOne else x)).1.toNat

/-- Integer square root over `n` bits. -/
def isqrt (n v : Nat) : Nat :=
  ((upTo n).foldl (fun r k =>
    let c := r + 2 ^ (n - 1 - k)
    if c * c ≤ v then c else r) 0)

/-- 2^x for an exact value, to be rounded. -/
def Ex.exp2 : Ex → Ex
  | .nan => .nan
  | .inf s => if s then .fin false 0 1 else .inf false
  | .fin s n d =>
    let v := signedNum s n
    let i := v / (d : Int)
    let f := (v % (d : Int)).toNat
    let frac := if f = 0 then fxOne else fxExp (fxLn2 * f / d)
    if 0 ≤ i then .fin false (frac * 2 ^ i.toNat) fxOne
    else .fin false frac (fxOne * 2 ^ (-i).toNat)

/-- log2 of an exact value, to be rounded: −∞ for ±0, NaN below 0. -/
def Ex.log2 : Ex → Ex
  | .nan => .nan
  | .inf s => if s then .nan else .inf false
  | .fin s n d =>
    if n = 0 then .inf true
    else if s then .nan
    else
      let e := ratExp n d
      -- the mantissa in [1, 2)
      let m := if 0 ≤ e then n * fxOne / (d * 2 ^ e.toNat) else n * 2 ^ (-e).toNat * fxOne / d
      let frac : Int := if m = fxOne then 0 else (fxLn m * fxOne / fxLn2 : Nat)
      Ex.ofInt (e * (fxOne : Int) + frac) fxOne

/-- 1/√x of an exact value, to be rounded; NaN below 0. -/
def Ex.rsqrt : Ex → Ex
  | .nan => .nan
  | .inf s => if s then .nan else .fin false 0 1
  | .fin s n d =>
    if n = 0 then .inf s
    else if s then .nan
    else
      -- √(d/n) with 200 fraction bits; an inexact root gets a sticky half unit
      let v := d * 2 ^ 400 / n
      let r := isqrt 400 v
      if r * r = v ∧ d * 2 ^ 400 % n = 0 then .fin false r (2 ^ 200)
      else .fin false (2 * r + 1) (2 ^ 201)

/-- sin 2πr and cos 2πr for r = x − floor(x), to be rounded. -/
def Ex.turn (cosine : Bool) : Ex → Ex
  | .fin s n d =>
    let r := (signedNum s n % (d : Int)).toNat
    let q := 4 * r / d
    -- the angle within its quarter, in units of 2π / (4 d)
    let t := 4 * r % d
    let k := if cosine then (q + 1) % 4 else q
    let neg := decide (2 ≤ k)
    if t = 0 then (if k % 2 = 0 then .fin false 0 1 else .fin neg 1 1)
    else
      let x := fxPi * t / (2 * d)
      .fin neg (if k % 2 = 0 then fxTrig x 1 else fxTrig x 0) fxOne
  | _ => .nan

/-- e^x of an exact value, to be rounded. -/
def Ex.exp : Ex → Ex
  | .nan => .nan
  | .inf s => if s then .fin false 0 1 else .inf false
  | .fin s n d =>
    if n = 0 then .fin false 1 1
    else
      let x := n * fxOne / d
      -- beyond 200 every result is 0 or infinite in both formats
      if 200 * fxOne < x then (if s then .fin false 1 (2 ^ 280) else .fin false (2 ^ 280) 1)
      else if s then .fin false fxOne (fxExp x) else .fin false (fxExp x) fxOne

/-! ### Binary16 and binary32 by their bits -/

def ex16 (b : BitVec 16) : Ex := fmt16.exact b.toNat
def f16 (x : Ex) : BitVec 16 := BitVec.ofNat 16 (fmt16.round x)
def ex32 (b : BitVec 32) : Ex := fmt32.exact b.toNat
def f32 (x : Ex) : BitVec 32 := BitVec.ofNat 32 (fmt32.round x)

def half1 : BitVec 16 := 0x3C00
def half0 : BitVec 16 := 0

/-- Clamp to 0.0–1.0, NaN to 0 (SAT of Table 07-8). -/
def satHalf (b : BitVec 16) : BitVec 16 :=
  let x := ex16 b
  if x = .nan then half0
  else if x.lt (.ofNat 0) || x.isZero then half0
  else if (Ex.ofNat 1).lt x then half1 else b

/-- A value to a UNORM channel of full scale `m`: clamped to 0–1, NaN 0, ties to even (R224). -/
def toUnorm (m : Nat) (b : BitVec 16) : Nat :=
  match ex16 (satHalf b) with
  | .fin _ n d => rheNat (n * m) d
  | _ => 0

/-- A channel c of full scale `m` as FP16. -/
def fromUnorm (m c : Nat) : BitVec 16 := f16 (.fin false c m)

/-- floor of an exact value as an integer: 0 for NaN, the 32-bit extreme for an infinity
(R213; assumption 41). -/
def Ex.toInt : Ex → Int
  | .nan => 0
  | .inf s => if s then -2147483648 else 2147483647
  | .fin s n d => signedNum s n / (d : Int)

/-- An exact value times `m`, to the nearest integer, ties to even, with the same corners. -/
def Ex.toRhe (m : Nat) : Ex → Int
  | .nan => 0
  | .inf s => if s then -2147483648 else 2147483647
  | .fin s n d => rhe (signedNum s n * (m : Int)) d

end Sys2Proof.Machine
end

