-- ==== Sys2Proof/Machine/Combiner.lean ====
section
/-! DEFINITION. The combiner of a tile core: register file, instruction fields, the semantics of
Table 07-9, texture sampling, and the commands that run one instruction on a core's 32 lanes
(chapter 07, R213, R223, R226, R227). -/

namespace Sys2Proof.Machine

/-! ### Vectors -/

def V4.comp (v : V4) (k : Nat) : Half :=
  if k = 0 then v.x else if k = 1 then v.y else if k = 2 then v.z else v.w

def V4.splat (h : Half) : V4 := ⟨h, h, h, h⟩

def V4.map (f : Half → Half) (a : V4) : V4 := ⟨f a.x, f a.y, f a.z, f a.w⟩

def V4.map2 (f : Half → Half → Half) (a b : V4) : V4 :=
  ⟨f a.x b.x, f a.y b.y, f a.z b.z, f a.w b.w⟩

def V4.map3 (f : Half → Half → Half → Half) (a b c : V4) : V4 :=
  ⟨f a.x b.x c.x, f a.y b.y c.y, f a.z b.z c.z, f a.w b.w c.w⟩

/-! ### Results of Table 07-9 -/

/-- An operation on exact values, rounded once. -/
def h1 (f : Ex → Ex) (a : Half) : Half := f16 (f (ex16 a))
def h2 (f : Ex → Ex → Ex) (a b : Half) : Half := f16 (f (ex16 a) (ex16 b))
def h3 (f : Ex → Ex → Ex → Ex) (a b c : Half) : Half := f16 (f (ex16 a) (ex16 b) (ex16 c))

def combMov (a : V4) : V4 := a.map (h1 id)
def combAdd (a b : V4) : V4 := V4.map2 (h2 Ex.add) a b
def combSub (a b : V4) : V4 := V4.map2 (h2 Ex.sub) a b
def combMul (a b : V4) : V4 := V4.map2 (h2 Ex.mul) a b
def combMad (a b c : V4) : V4 := V4.map3 (h3 fun x y z => (x.mul y).add z) a b c
def combLrp (a b c : V4) : V4 := V4.map3 (h3 fun x y z => x.add ((y.sub x).mul z)) a b c
def combMin (a b : V4) : V4 := V4.map2 (h2 Ex.min) a b
def combMax (a b : V4) : V4 := V4.map2 (h2 Ex.max) a b
def combClmp (a b c : V4) : V4 := V4.map3 (h3 fun x y z => (x.max y).min z) a b c

/-- Dot product over the first `n` components, one rounding. -/
def combDot (n : Nat) (a b : V4) : V4 :=
  V4.splat (f16 ((upTo n).foldl (fun acc k =>
    let p := (ex16 (a.comp k)).mul (ex16 (b.comp k))
    if k = 0 then p else acc.add p) (.ofNat 0)))

def combRcp (a : V4) : V4 := V4.splat (h1 (fun x => (Ex.ofNat 1).div x) a.x)
def combRsq (a : V4) : V4 := V4.splat (h1 Ex.rsqrt a.x)
def combExp2 (a : V4) : V4 := V4.splat (h1 Ex.exp2 a.x)
def combLog2 (a : V4) : V4 := V4.splat (h1 Ex.log2 a.x)
def combFrc (a : V4) : V4 := a.map (h1 fun x => x.sub x.floor)
def combFlr (a : V4) : V4 := a.map (h1 Ex.floor)

def boolHalf (b : Bool) : Half := if b then half1 else half0
def combSlt (a b : V4) : V4 := V4.map2 (fun x y => boolHalf ((ex16 x).lt (ex16 y))) a b
def combSge (a b : V4) : V4 := V4.map2 (fun x y => boolHalf ((ex16 x).ge (ex16 y))) a b
def combCmp (a b c : V4) : V4 :=
  V4.map3 (fun x y z => h1 id (if (ex16 x).ge (.ofNat 0) then y else z)) a b c

def combScs (a : V4) : V4 :=
  let s := h1 (Ex.turn false) a.x
  let c := h1 (Ex.turn true) a.x
  ⟨s, c, s, c⟩

/-- KIL discards when a component is below 0. -/
def combKil (a : V4) : Bool := (upTo 4).any fun k => (ex16 (a.comp k)).lt (.ofNat 0)

/-- Result of an operation without texture and without KIL, by its OP. -/
def combResult (op : Nat) (a b c : V4) : V4 :=
  match op with
  | 0 => combMov a
  | 1 => combAdd a b
  | 2 => combSub a b
  | 3 => combMul a b
  | 4 => combMad a b c
  | 5 => combLrp a b c
  | 6 => combMin a b
  | 7 => combMax a b
  | 8 => combClmp a b c
  | 9 => combDot 2 a b
  | 10 => combDot 3 a b
  | 11 => combDot 4 a b
  | 12 => combRcp a
  | 13 => combRsq a
  | 14 => combExp2 a
  | 15 => combLog2 a
  | 16 => combFrc a
  | 17 => combFlr a
  | 18 => combSlt a b
  | 19 => combSge a b
  | 20 => combCmp a b c
  | _ => combScs a

/-! ### Registers and instruction fields (Tables 07-7 and 07-8) -/

/-- Register `code` as a source. -/
def laneReg (consts : List V4) (l : Lane) (code : Nat) : V4 :=
  if code < 8 then nth V4.zero l.temps code
  else if code < 16 then nth V4.zero l.inputs (code - 8)
  else if code < 48 then nth V4.zero consts (code - 16)
  else if code = 57 then V4.splat half1
  else V4.zero

/-- A source operand: swizzled, then negated. -/
def laneSrc (consts : List V4) (l : Lane) (s : CombSrc) : V4 :=
  let v := laneReg consts l s.reg
  let pick (k : Nat) : Half :=
    let h := v.comp (s.swz / 4 ^ k % 4)
    if s.neg then h ^^^ 0x8000 else h
  ⟨pick 0, pick 1, pick 2, pick 3⟩

/-- Replace the components that a mask enables. -/
def V4.masked (mask : Nat) (old new : V4) : V4 :=
  let m (k : Nat) (o n : Half) : Half := if bitN mask k = 1 then n else o
  ⟨m 0 old.x new.x, m 1 old.y new.y, m 2 old.z new.z, m 3 old.w new.w⟩

/-- Write a result through SAT and WMASK to a T or O register. -/
def laneWrite (ins : CombIns) (v : V4) (l : Lane) : Lane :=
  let r := if ins.sat then v.map satHalf else v
  if ins.dst < 8 then
    { l with temps := upd l.temps ins.dst (V4.masked ins.wmask (nth V4.zero l.temps ins.dst) r) }
  else if 48 ≤ ins.dst ∧ ins.dst < 56 then
    let old := nth V4.zero l.outs (ins.dst - 48)
    { l with outs := upd l.outs (ins.dst - 48) (V4.masked ins.wmask old r) }
  else l

/-- OP of a 64-bit instruction word, and its other fields. -/
def insOp (w : Nat) : Nat := bits w 4 0

def insOf (w : Nat) : CombIns :=
  ⟨bitN w 5 == 1, bits w 11 6, bits w 15 12,
   ⟨bits w 21 16, bits w 41 34, bitN w 58 == 1⟩,
   ⟨bits w 27 22, bits w 49 42, bitN w 59 == 1⟩,
   ⟨bits w 33 28, bits w 57 50, bitN w 60 == 1⟩, bits w 62 61⟩

/-- A source register code that a program may read. -/
def srcCodeOk (c : Nat) : Bool := c < 48 || c == 56 || c == 57

/-- The checks of R227 on one instruction of a stage. -/
def insOk (fragment : Bool) (w : Nat) : Bool :=
  let i := insOf w
  let op := insOp w
  op ≤ 23 && bitN w 63 == 0
    && srcCodeOk i.a.reg && srcCodeOk i.b.reg && srcCodeOk i.c.reg
    && ((op == 23 && i.dst < 58) || i.dst < 8 || (48 ≤ i.dst && i.dst < 56))
    && (fragment || (op != 21 && op != 23))

/-! ### Textures (R223) -/

/-- A texture record (Table 07-4). -/
structure TexRec where
  range : Nat
  fmt : Nat
  sample : Nat
  offset : Nat
  w : Nat
  h : Nat
  pitch : Nat
  /-- The reserved byte 3. -/
  rest : Nat
  deriving DecidableEq, Repr

def texOf (b : List Byte) : TexRec :=
  ⟨fieldAt b 0 1, fieldAt b 1 1, fieldAt b 2 1, fieldAt b 4 4, fieldAt b 8 2, fieldAt b 0x0A 2,
   fieldAt b 0x0C 4, fieldAt b 3 1⟩

/-- A texel index folded back by a wrap mode. -/
def wrapIndex (mode w : Nat) (i : Int) : Nat :=
  if mode = 0 then (clampInt 0 ((w : Int) - 1) i).toNat
  else if mode = 1 then (i % (w : Int)).toNat
  else
    let m := (i % (2 * (w : Int))).toNat
    if m < w then m else 2 * w - 1 - m

/-- The four channels 0–255 of a texel. -/
def State.texel (s : State) (o : OpenStop) (t : TexRec) (x y : Nat) : List Nat :=
  let row := t.offset + y * t.pitch
  let b (k : Nat) : Nat := s.rb o t.range (row + k)
  if t.fmt = 1 then [b (3 * x), b (3 * x + 1), b (3 * x + 2), 255]
  else if t.fmt = 2 then
    let v := s.rn o t.range (row + 2 * x) 2
    let r5 := bits v 15 11; let g6 := bits v 10 5; let b5 := bits v 4 0
    [r5 * 8 + r5 / 4, g6 * 4 + g6 / 16, b5 * 8 + b5 / 4, 255]
  else if t.fmt = 3 then [b (4 * x), b (4 * x + 1), b (4 * x + 2), b (4 * x + 3)]
  else if t.fmt = 4 then [b x, b x, b x, 255]
  else [255, 255, 255, b x]

/-- A coordinate times the size, as an exact value. -/
def texScale (u : Half) (n : Nat) : Ex := (ex16 u).mul (.ofNat n)

/-- Sample a texture record at (u, v). -/
def State.sampleTex (s : State) (o : OpenStop) (t : TexRec) (u v : Half) : V4 :=
  let wu := bits t.sample 2 1
  let wv := bits t.sample 4 3
  let fetch (x y : Int) : List Nat := s.texel o t (wrapIndex wu t.w x) (wrapIndex wv t.h y)
  let mk (f : Nat → Half) : V4 := ⟨f 0, f 1, f 2, f 3⟩
  if bitN t.sample 0 = 0 then
    let p := fetch (texScale u t.w).toInt (texScale v t.h).toInt
    mk fun k => fromUnorm 255 (nth 0 p k)
  else
    let pos (c : Half) (n : Nat) : Int := ((texScale c n).sub (.fin false 1 2)).toRhe 256
    let px := pos u t.w
    let py := pos v t.h
    let at_ (a b : Nat) : List Nat := fetch (px / 256 + a) (py / 256 + b)
    let wgt (f : Int) (k : Nat) : Nat := (if k = 0 then 256 - f else f).toNat
    mk fun k => f16 (.fin false
      ((upTo 2).map fun b => ((upTo 2).map fun a =>
        wgt (px % 256) a * wgt (py % 256) b * nth 0 (at_ a b) k).sum).sum (65536 * 255))

/-! ### One instruction on a lane, one program on a lane -/

/-- Run one instruction word; `tex` samples the draw's samplers. -/
def stepLane (consts : List V4) (tex : Nat → V4 → V4) (w : Nat) (l : Lane) : Lane :=
  let i := insOf w
  let op := insOp w
  let a := laneSrc consts l i.a
  if op = 23 then { l with discarded := l.discarded || combKil a }
  else if op = 21 then laneWrite i (tex i.sampler a) l
  else laneWrite i (combResult op a (laneSrc consts l i.b) (laneSrc consts l i.c)) l

def runLane (consts : List V4) (tex : Nat → V4 → V4) (prog : List Nat) (l : Lane) : Lane :=
  prog.foldl (fun x w => stepLane consts tex w x) l

/-! ### Commands: one instruction on the 32 lanes of a core -/

/-- Change one core. -/
def modCore (n : Nat) (f : Core → Core) : Prog :=
  modRas fun r => { r with cores := upd r.cores n (f (nth Core.reset r.cores n)) }

/-- Every lane of core `n` takes the result of an operation on the instruction's sources. -/
def combStep (n : Nat) (ins : CombIns) (f : V4 → V4 → V4 → V4) : Prog :=
  modCore n fun c => { c with
    lanes := c.lanes.map fun l =>
      laneWrite ins (f (laneSrc c.consts l ins.a) (laneSrc c.consts l ins.b)
        (laneSrc c.consts l ins.c)) l }

/-- The texture record that a sampler of the core's draw names. -/
def State.coreTex (s : State) (c : Core) (o : OpenStop) (sampler : Nat) : TexRec :=
  let cmd := param o.stop.desc 0 1
  texOf (s.rbs o cmd (s.rn o cmd 0x10 4 + 16 * nth 0xFF c.tex sampler) 16)

def execMov (n : Nat) (ins : CombIns) (s : State) : Host.Outcome State Fault Refusal :=
  Prog.outcome (combStep n ins fun a _ _ => combMov a) s
def execAdd (n : Nat) (ins : CombIns) (s : State) : Host.Outcome State Fault Refusal :=
  Prog.outcome (combStep n ins fun a b _ => combAdd a b) s
def execSub (n : Nat) (ins : CombIns) (s : State) : Host.Outcome State Fault Refusal :=
  Prog.outcome (combStep n ins fun a b _ => combSub a b) s
def execMul (n : Nat) (ins : CombIns) (s : State) : Host.Outcome State Fault Refusal :=
  Prog.outcome (combStep n ins fun a b _ => combMul a b) s
def execMad (n : Nat) (ins : CombIns) (s : State) : Host.Outcome State Fault Refusal :=
  Prog.outcome (combStep n ins combMad) s
def execLrp (n : Nat) (ins : CombIns) (s : State) : Host.Outcome State Fault Refusal :=
  Prog.outcome (combStep n ins combLrp) s
def execMin (n : Nat) (ins : CombIns) (s : State) : Host.Outcome State Fault Refusal :=
  Prog.outcome (combStep n ins fun a b _ => combMin a b) s
def execMax (n : Nat) (ins : CombIns) (s : State) : Host.Outcome State Fault Refusal :=
  Prog.outcome (combStep n ins fun a b _ => combMax a b) s
def execClmp (n : Nat) (ins : CombIns) (s : State) : Host.Outcome State Fault Refusal :=
  Prog.outcome (combStep n ins combClmp) s
def execDp2 (n : Nat) (ins : CombIns) (s : State) : Host.Outcome State Fault Refusal :=
  Prog.outcome (combStep n ins fun a b _ => combDot 2 a b) s
def execDp3 (n : Nat) (ins : CombIns) (s : State) : Host.Outcome State Fault Refusal :=
  Prog.outcome (combStep n ins fun a b _ => combDot 3 a b) s
def execDp4 (n : Nat) (ins : CombIns) (s : State) : Host.Outcome State Fault Refusal :=
  Prog.outcome (combStep n ins fun a b _ => combDot 4 a b) s
def execRcp (n : Nat) (ins : CombIns) (s : State) : Host.Outcome State Fault Refusal :=
  Prog.outcome (combStep n ins fun a _ _ => combRcp a) s
def execRsq (n : Nat) (ins : CombIns) (s : State) : Host.Outcome State Fault Refusal :=
  Prog.outcome (combStep n ins fun a _ _ => combRsq a) s
def execExp2 (n : Nat) (ins : CombIns) (s : State) : Host.Outcome State Fault Refusal :=
  Prog.outcome (combStep n ins fun a _ _ => combExp2 a) s
def execLog2 (n : Nat) (ins : CombIns) (s : State) : Host.Outcome State Fault Refusal :=
  Prog.outcome (combStep n ins fun a _ _ => combLog2 a) s
def execFrc (n : Nat) (ins : CombIns) (s : State) : Host.Outcome State Fault Refusal :=
  Prog.outcome (combStep n ins fun a _ _ => combFrc a) s
def execFlr (n : Nat) (ins : CombIns) (s : State) : Host.Outcome State Fault Refusal :=
  Prog.outcome (combStep n ins fun a _ _ => combFlr a) s
def execSlt (n : Nat) (ins : CombIns) (s : State) : Host.Outcome State Fault Refusal :=
  Prog.outcome (combStep n ins fun a b _ => combSlt a b) s
def execSge (n : Nat) (ins : CombIns) (s : State) : Host.Outcome State Fault Refusal :=
  Prog.outcome (combStep n ins fun a b _ => combSge a b) s
def execCmp (n : Nat) (ins : CombIns) (s : State) : Host.Outcome State Fault Refusal :=
  Prog.outcome (combStep n ins combCmp) s
def execScs (n : Nat) (ins : CombIns) (s : State) : Host.Outcome State Fault Refusal :=
  Prog.outcome (combStep n ins fun a _ _ => combScs a) s

/-- TEX: every lane samples the texture that SAMPLER names at a.xy (R223), where the core runs
a pass whose draw uses that sampler; fragment stage only. -/
def execTex (n : Nat) (ins : CombIns) (s : State) : Host.Outcome State Fault Refusal :=
  Prog.outcome (.look fun t =>
    let c := nth Core.reset t.ras.cores n
    match c.slot.bind t.slotOf with
    | none => .skip
    | some o => Prog.when (c.fragment = true ∧ nth 0xFF c.tex ins.sampler ≠ 0xFF) <|
        combStep n ins fun a _ _ => t.sampleTex o (t.coreTex c o ins.sampler) a.x a.y) s

/-- KIL: the fragment of every lane with a component below 0 is discarded; fragment stage
only. -/
def execKil (n : Nat) (ins : CombIns) (s : State) : Host.Outcome State Fault Refusal :=
  Prog.outcome (modCore n fun c =>
    if c.fragment then { c with
      lanes := c.lanes.map fun l =>
        { l with discarded := l.discarded || combKil (laneSrc c.consts l ins.a) } }
    else c) s

end Sys2Proof.Machine
end

