-- ==== Sys2Proof/Machine/Vision.lean ====
section
/-! DEFINITION. The warp, pyramid, motion and statistics engines and their stops (chapter 06,
R197 to R211). -/

namespace Sys2Proof.Machine

/-! ### Sample formats (R200, Table 06-5) -/

/-- Four 8-bit channels. -/
structure Rgba where
  r : Int
  g : Int
  b : Int
  a : Int
  deriving DecidableEq, Repr

/-- Channel `k` of a pixel. -/
def Rgba.ch (p : Rgba) (k : Nat) : Int :=
  if k = 0 then p.r else if k = 1 then p.g else if k = 2 then p.b else p.a

def clamp255 (x : Int) : Int := clampInt 0 255 x

/-- YUV to RGB with the coefficients of Table 06-5. -/
def yuvToRgb (mtx : Nat) (y u v : Int) : Rgba :=
  let c : Int × Int × Int × Int × Int × Int :=
    if mtx = 0 then (16, 298, 409, 100, 208, 516)
    else if mtx = 1 then (16, 298, 459, 55, 136, 541)
    else (0, 256, 359, 88, 183, 454)
  match c with
  | (y0, cy, crv, cgu, cgv, cbu) =>
    ⟨clamp255 ((cy * (y - y0) + crv * (v - 128) + 128) / 256),
     clamp255 ((cy * (y - y0) - cgu * (u - 128) - cgv * (v - 128) + 128) / 256),
     clamp255 ((cy * (y - y0) + cbu * (u - 128) + 128) / 256), 255⟩

/-- An image in a range of an open stop: SRC_FMT of Table 06-6. -/
structure Img where
  range : Nat
  w : Nat
  h : Nat
  pitch : Nat
  fmt : Nat
  deriving DecidableEq, Repr

/-- The stored channels of pixel (x, y): Y, U, V for YUV422; R, G, B, A otherwise. -/
def State.imgRaw (s : State) (o : OpenStop) (m : Img) (x y : Nat) : Rgba :=
  let row := y * m.pitch
  let b (k : Nat) : Int := (s.rb o m.range (row + k) : Int)
  if m.fmt = 0 then ⟨b (x / 2 * 4 + 1 + 2 * (x % 2)), b (x / 2 * 4), b (x / 2 * 4 + 2), 255⟩
  else if m.fmt = 1 then ⟨b (3 * x), b (3 * x + 1), b (3 * x + 2), 255⟩
  else if m.fmt = 2 then
    let v := s.rn o m.range (row + 2 * x) 2
    let r5 := bits v 15 11; let g6 := bits v 10 5; let b5 := bits v 4 0
    ⟨(r5 * 8 + r5 / 4 : Nat), (g6 * 4 + g6 / 16 : Nat), (b5 * 8 + b5 / 4 : Nat), 255⟩
  else if m.fmt = 3 then ⟨b (4 * x), b (4 * x + 1), b (4 * x + 2), b (4 * x + 3)⟩
  else ⟨b x, b x, b x, 255⟩

/-- Pixel (x, y) as 8-bit RGBA. -/
def State.imgPix (s : State) (o : OpenStop) (m : Img) (mtx x y : Nat) : Rgba :=
  let p := s.imgRaw o m x y
  if m.fmt = 0 then yuvToRgb mtx p.r p.g p.b else p

/-- Luma of pixel (x, y): the Y byte, or from RGB. -/
def State.imgLuma (s : State) (o : OpenStop) (m : Img) (x y : Nat) : Nat :=
  let p := s.imgRaw o m x y
  if m.fmt = 0 ∨ m.fmt = 4 then p.r.toNat
  else ((77 * p.r + 150 * p.g + 29 * p.b + 128) / 256).toNat

/-! ### Common to the engines -/

/-- VIS_DONE counts a completed stop; its duration is a free value (R211 only bounds it). -/
def visDone (e : Nat) : Prog :=
  .look fun s => Prog.all [
    bump F.VIS_DONE_COUNT 1 e,
    .act (.draw 1),
    setReg R.VIS_LAST_US ((Config.freeValue s.free).toNat % 2 ^ 20) e]

/-- A stop of engine `e` in slot `i` runs; on a parity error in its tile buffer the engine is
faulty (R199). -/
def visStop (i e op : Nat) (parity : Bool) (work : State → OpenStop → Prog) : Prog :=
  .look fun s => match s.executing i op with
    | none => .skip
    | some o =>
      if parity then .seq (setF F.VIS_EVENT_PARITY 1)
        (unitFault (unitVis e) 0x3004 0 o.stop.queue o.stop.tag 0x0A)
      else runStop i op fun s' o' => .seq (work s' o') (visDone e)

/-- Ranges with WR. -/
def wrRanges (d : List Byte) : List Nat := (upTo (descRanges d)).filter fun i => (rangeAt d i).wr

/-- Write a whole range: the given bytes, then zeros (R198). -/
def writeWhole (i : Nat) (o : OpenStop) (k : Nat) (bs : List Byte) : Prog :=
  let n := (rangeAt o.stop.desc k).len
  stopWrite i o.stop k 0 (bs.take n ++ zeros (n - bs.length))

/-- What a vision engine writes: its output range, with 0x00 beyond its layout, and 0x00 in every byte
of any other WR range (R198). -/
def visWrite (i : Nat) (o : OpenStop) (k : Nat) (bs : List Byte) : Prog := .seq
  (Prog.each ((wrRanges o.stop.desc).filter (· ≠ k)) fun r => writeWhole i o r [])
  (writeWhole i o k bs)

/-! ### Warp (R201 to R204) -/

/-- Parameters of a WARP stop (Table 06-6). -/
structure WarpParam where
  src : Img
  mesh : Nat
  dst : Nat
  bicubic : Bool
  constBorder : Bool
  mtx : Nat
  dstFmt : Nat
  cellLog2 : Nat
  dw : Nat
  dh : Nat
  dpitch : Nat
  border : Nat
  deriving DecidableEq, Repr

def warpParam (d : List Byte) : WarpParam :=
  let fl := param d 3 1
  ⟨⟨param d 0 1, param d 4 2, param d 6 2, param d 8 4, param d 0x0C 1⟩, param d 1 1, param d 2 1,
   bitN fl 0 == 1, bitN fl 1 == 1, bits fl 3 2, param d 0x0D 1, param d 0x0E 1, param d 0x10 2,
   param d 0x12 2, param d 0x14 4, param d 0x18 4⟩

/-- The BORDER colour. -/
def WarpParam.borderPix (p : WarpParam) : Rgba :=
  ⟨bits p.border 7 0, bits p.border 15 8, bits p.border 23 16, bits p.border 31 24⟩

/-- Mesh points per row. -/
def WarpParam.meshW (p : WarpParam) : Nat := (p.dw + 2 ^ p.cellLog2 - 1) / 2 ^ p.cellLog2 + 1

/-- X (0) or Y (1) of mesh point (i, j), in 1/256 pixel. -/
def State.meshAt (s : State) (o : OpenStop) (p : WarpParam) (axis i j : Nat) : Int :=
  sext 32 (s.rn o p.mesh (8 * (j * p.meshW + i) + 4 * axis) 4)

/-- Source position of output pixel (x, y) on one axis (R201). -/
def State.warpPos (s : State) (o : OpenStop) (p : WarpParam) (axis x y : Nat) : Int :=
  let c := 2 ^ p.cellLog2
  let i := x / c; let j := y / c
  let u : Int := (x % c : Nat); let v : Int := (y % c : Nat); let cc : Int := (c : Nat)
  ((cc - u) * (cc - v) * s.meshAt o p axis i j + u * (cc - v) * s.meshAt o p axis (i + 1) j
    + (cc - u) * v * s.meshAt o p axis i (j + 1) + u * v * s.meshAt o p axis (i + 1) (j + 1)
    + cc * cc / 2) / (cc * cc)

/-- A source sample, with the border rule of R202. -/
def State.warpSample (s : State) (o : OpenStop) (p : WarpParam) (x y : Int) : Rgba :=
  if 0 ≤ x ∧ x < p.src.w ∧ 0 ≤ y ∧ y < p.src.h then s.imgPix o p.src p.mtx x.toNat y.toNat
  else if p.constBorder then p.borderPix
  else s.imgPix o p.src p.mtx (clampInt 0 ((p.src.w : Int) - 1) x).toNat
    (clampInt 0 ((p.src.h : Int) - 1) y).toNat

/-- `n / 4096` to the nearest integer, ties away from zero. -/
def rnd4096 (n : Int) : Int := if 0 ≤ n then (n + 2048) / 4096 else -((-n + 2048) / 4096)

/-- Catmull-Rom weights W0 to W3 for the fraction `f` (R202). -/
def cubicW (f : Int) : List Int :=
  let w0 := rnd4096 (-(f * f * f) + 128 * f * f - 4096 * f)
  let w2 := rnd4096 (-3 * (f * f * f) + 256 * f * f + 4096 * f)
  let w3 := rnd4096 (f * f * f - 64 * f * f)
  [w0, 128 - w0 - w2 - w3, w2, w3]

/-- Bilinear weights of a fraction of 256. -/
def linW (f : Int) : List Int := [256 - f, f]

/-- Σ over the taps of a filter, rows weighted by `wy` and columns by `wx`. -/
def tapSum (wx wy : List Int) (p : Nat → Nat → Int) : Int :=
  ((upTo wy.length).map fun b => nth 0 wy b *
    ((upTo wx.length).map fun a => nth 0 wx a * p a b).sum).sum

/-- One output pixel of a warp (R202). -/
def State.warpPix (s : State) (o : OpenStop) (p : WarpParam) (x y : Nat) : Rgba :=
  let sx := s.warpPos o p 0 x y
  let sy := s.warpPos o p 1 x y
  let xi := sx / 256; let fx := sx % 256
  let yi := sy / 256; let fy := sy % 256
  let one (k : Nat) : Int :=
    (tapSum (linW fx) (linW fy) (fun a b => (s.warpSample o p (xi + a) (yi + b)).ch k)
      + 32768) / 65536
  let cub (k : Nat) : Int :=
    clamp255 ((tapSum (cubicW (fx / 4)) (cubicW (fy / 4)) (fun a b =>
      (s.warpSample o p (xi - 1 + a) (yi - 1 + b)).ch k) + 8192) / 16384)
  if p.bicubic then ⟨cub 0, cub 1, cub 2, cub 3⟩ else ⟨one 0, one 1, one 2, one 3⟩

/-- The footprint of output tile (tx, ty) exceeds 96 on one axis (R203, R204). -/
def State.warpTooWide (s : State) (o : OpenStop) (p : WarpParam) (axis tx ty : Nat) : Bool :=
  let c := 2 ^ p.cellLog2
  let lo (t : Nat) : Nat := t * 64 / c
  let hi (t n : Nat) : Nat := (min (t * 64 + 64) n + c - 1) / c
  let pts := ((upTo (hi ty p.dh + 1 - lo ty)).map fun j =>
    (upTo (hi tx p.dw + 1 - lo tx)).map fun i => s.meshAt o p axis (lo tx + i) (lo ty + j)).flatten
  match pts.max?, pts.min? with
  | some a, some b => decide (96 < a / 256 - b / 256 + (if p.bicubic then 4 else 2))
  | _, _ => false

/-- Output tiles whose footprint exceeds 96 × 96, row by row. -/
def State.warpBadTiles (s : State) (o : OpenStop) (p : WarpParam) : List Nat :=
  let cols := (p.dw + 63) / 64
  (upTo (cols * ((p.dh + 63) / 64))).filter fun t =>
    s.warpTooWide o p 0 (t % cols) (t / cols) || s.warpTooWide o p 1 (t % cols) (t / cols)

/-- Bytes of a pixel in RGB888 or RGBA8888. -/
def Rgba.bytes (p : Rgba) (fmt : Nat) : List Byte :=
  let b (x : Int) := BitVec.ofNat 8 x.toNat
  if fmt = 3 then [b p.r, b p.g, b p.b, b p.a] else [b p.r, b p.g, b p.b]

/-- The bytes of a warp's output image, pitch padding zero. -/
def State.warpBytes (s : State) (o : OpenStop) (p : WarpParam) : List Byte :=
  let bad := s.warpBadTiles o p
  let cols := (p.dw + 63) / 64
  ((upTo p.dh).map fun y =>
    let row := ((upTo p.dw).map fun x =>
      (if bad.contains (y / 64 * cols + x / 64) then p.borderPix else s.warpPix o p x y).bytes
        p.dstFmt).flatten
    row ++ zeros (p.dpitch - row.length)).flatten

/-- A WARP stop's work. -/
def warpWork (i : Nat) (s : State) (o : OpenStop) : Prog :=
  let p := warpParam o.stop.desc
  .seq (visWrite i o p.dst (s.warpBytes o p))
    (Prog.each (s.warpBadTiles o p) fun t => Prog.all [
      setF F.VIS_EVENT_FOOTPRINT 1,
      setReg R.VIS_FOOT_TILE (t % 65536 + o.stop.tag * 65536),
      raise 0x3001 (unitVis 0) 0 o.stop.queue o.stop.tag])

/-- WARP: the stop in slot `i`; `parity` tells of a tile-buffer parity error. -/
def execWarp (i : Nat) (parity : Bool) (s : State) : Host.Outcome State Fault Refusal :=
  Prog.outcome (visStop i 0 0x30 parity (warpWork i)) s

/-! ### Pyramid (R205 to R207) -/

/-- A level of luma: its size and its samples, row by row. -/
structure Level where
  w : Nat
  h : Nat
  px : List Int
  deriving DecidableEq, Repr

/-- Sample with both coordinates clamped to the edge. -/
def Level.at_ (l : Level) (x y : Int) : Int :=
  nth 0 l.px ((clampInt 0 ((l.h : Int) - 1) y).toNat * l.w + (clampInt 0 ((l.w : Int) - 1) x).toNat)

def mkLevel (w h : Nat) (f : Nat → Nat → Int) : Level :=
  ⟨w, h, ((upTo h).map fun y => (upTo w).map fun x => f x y).flatten⟩

def gaussW : List Int := [1, 4, 6, 4, 1]

/-- The next Gaussian level (R205). -/
def Level.down (l : Level) : Level :=
  mkLevel ((l.w + 1) / 2) ((l.h + 1) / 2) fun x y =>
    (tapSum gaussW gaussW (fun m n => l.at_ (2 * x + m - 2) (2 * y + n - 2)) + 128) / 256

/-- Gaussian levels 1 to `n`. -/
def Level.pyramid (n : Nat) (l : Level) : List Level :=
  match n with
  | 0 => []
  | k + 1 => l.down :: Level.pyramid k l.down

/-- E_i from G_(i+1) at (x, y) (R206). -/
def Level.expand (g : Level) (x y : Int) : Int :=
  let z (a b : Int) : Int :=
    let a := clampInt 0 (2 * (g.w : Int) - 1) a
    let b := clampInt 0 (2 * (g.h : Int) - 1) b
    if a % 2 = 0 ∧ b % 2 = 0 then g.at_ (a / 2) (b / 2) else 0
  (tapSum gaussW gaussW (fun m n => z (x - ((m : Int) - 2)) (y - ((n : Int) - 2))) + 32) / 64

/-- A level's bytes: Y8, or 16-bit values, each row filled with zeros to 64 B. -/
def Level.rows (l : Level) (size : Nat) : List Byte :=
  ((upTo l.h).map fun y =>
    let row := ((upTo l.w).map fun x => leBytes size (wrapInt (8 * size) (l.at_ x y))).flatten
    row ++ zeros ((l.w * size + 63) / 64 * 64 - l.w * size)).flatten

/-- A PYRAMID stop's work. -/
def pyramidWork (i : Nat) (s : State) (o : OpenStop) : Prog :=
  let d := o.stop.desc
  let m : Img := ⟨param d 0 1, param d 6 2, param d 8 2, param d 0x0C 4, param d 4 1⟩
  let g0 := mkLevel m.w m.h fun x y => (s.imgLuma o m x y : Int)
  let gs := g0.pyramid (param d 2 1)
  let laps := ((g0 :: gs).zip gs).map fun e =>
    mkLevel e.1.w e.1.h fun x y => e.1.at_ x y - e.2.expand x y
  visWrite i o (param d 1 1)
    ((gs.map fun l => l.rows 1).flatten
      ++ (if param d 3 1 = 1 then (laps.map fun l => l.rows 2).flatten else []))

/-- PYRAMID: the stop in slot `i`. -/
def execPyramid (i : Nat) (parity : Bool) (s : State) : Host.Outcome State Fault Refusal :=
  Prog.outcome (visStop i 1 0x31 parity (pyramidWork i)) s

/-! ### Motion (R208, R209) -/

/-- Byte offset of level `l` ≥ 1 in the PYRAMID layout for a level 0 of w × h. -/
def pyramidOff (l w h : Nat) : Nat :=
  match l with
  | 0 => 0
  | 1 => 0
  | k + 1 => pyramidOff k w h
      + ((w + 2 ^ k - 1) / 2 ^ k + 63) / 64 * 64 * ((h + 2 ^ k - 1) / 2 ^ k)

/-- Parameters of a MOTION stop (Table 06-8). -/
structure MotionParam where
  cur0 : Nat
  curP : Nat
  ref0 : Nat
  refP : Nat
  dst : Nat
  curRec : Nat
  refRec : Nat
  levels : Nat
  subpel : Nat
  fmt : Nat
  w : Nat
  h : Nat
  pitch : Nat
  ranges : List Nat
  deriving DecidableEq, Repr

def motionParam (d : List Byte) : MotionParam :=
  ⟨param d 0 1, param d 1 1, param d 2 1, param d 3 1, param d 4 1, param d 5 1, param d 6 1,
   param d 7 1, param d 0x0C 1, param d 0x0D 1, param d 0x0E 2, param d 0x10 2, param d 0x14 4,
   (upTo 4).map fun l => param d (8 + l) 1⟩

/-- Luma of the current or the reference frame at a level. -/
def State.motionLuma (s : State) (o : OpenStop) (p : MotionParam) (ref : Bool) (l x y : Nat) :
    Int :=
  if l = 0 then (s.imgLuma o ⟨if ref then p.ref0 else p.cur0, p.w, p.h, p.pitch, p.fmt⟩ x y : Int)
  else
    let wl := (p.w + 2 ^ l - 1) / 2 ^ l
    (s.rb o (if ref then p.refP else p.curP)
      (pyramidOff l p.w p.h + y * ((wl + 63) / 64 * 64) + x) : Int)

/-- A candidate displacement with its cost. -/
structure Cand2 where
  dx : Int
  dy : Int
  cost : Nat
  deriving DecidableEq, Repr

/-- The order of R208 step 6. -/
def Cand2.better (a b : Cand2) : Bool :=
  let ka := a.dx.natAbs + a.dy.natAbs
  let kb := b.dx.natAbs + b.dy.natAbs
  a.cost < b.cost || (a.cost == b.cost && (ka < kb || (ka == kb &&
    (a.dy < b.dy || (a.dy == b.dy && a.dx < b.dx)))))

def bestOf (l : List Cand2) (start : Cand2) : Cand2 :=
  l.foldl (fun b c => if c.better b then c else b) start

/-- Sum of absolute differences over a block's 64 samples. -/
def sad (cur ref : Nat → Nat → Int) : Nat :=
  ((upTo 8).map fun y => ((upTo 8).map fun x => (cur x y - ref x y).natAbs).sum).sum

/-- Integer search at level `l` around (cx, cy) for block (bx, by); zero is always valid. -/
def State.motionSearch (s : State) (o : OpenStop) (p : MotionParam) (l bx by_ : Nat)
    (cx cy : Int) : Cand2 :=
  let r : Int := (nth 0 p.ranges l : Nat)
  let wl : Int := ((p.w + 2 ^ l - 1) / 2 ^ l : Nat)
  let hl : Int := ((p.h + 2 ^ l - 1) / 2 ^ l : Nat)
  let extra : Int := if l = 0 ∧ 0 < p.subpel then 1 else 0
  let x0 : Int := (8 * bx : Nat)
  let y0 : Int := (8 * by_ : Nat)
  let cost (dx dy : Int) : Nat :=
    sad (fun x y => s.motionLuma o p false l (8 * bx + x) (8 * by_ + y))
      (fun x y => s.motionLuma o p true l (x0 + dx + x).toNat (y0 + dy + y).toNat)
  let inside (dx dy : Int) : Bool :=
    0 ≤ x0 + dx && x0 + dx + 8 + extra ≤ wl && 0 ≤ y0 + dy && y0 + dy + 8 + extra ≤ hl
  let n := (2 * r + 1).toNat
  let cands := ((upTo n).map fun b => (upTo n).filterMap fun a =>
    let dx := cx - r + a; let dy := cy - r + b
    if inside dx dy then some (⟨dx, dy, cost dx dy⟩ : Cand2) else none).flatten
  bestOf cands ⟨0, 0, cost 0 0⟩

/-- Reference luma at quarter-pixel offset (dx, dy) from (x, y), by the bilinear rule. -/
def State.motionFrac (s : State) (o : OpenStop) (p : MotionParam) (x y dx dy : Int) : Int :=
  let xi := x + dx / 4; let yi := y + dy / 4
  let at_ (a b : Int) := s.motionLuma o p true 0 (clampInt 0 ((p.w : Int) - 1) a).toNat
    (clampInt 0 ((p.h : Int) - 1) b).toNat
  (tapSum (linW (64 * (dx % 4))) (linW (64 * (dy % 4))) (fun a b => at_ (xi + a) (yi + b))
    + 32768) / 65536

/-- One sub-pixel step of a block: its 8 neighbours at `step` quarter pixels. The reference block of a
candidate, with one extra column and row, must lie inside the reference (R208). -/
def State.motionRefine (s : State) (o : OpenStop) (p : MotionParam) (bx by_ : Nat) (step : Int)
    (best : Cand2) : Cand2 :=
  let x0 : Int := (8 * bx : Nat)
  let y0 : Int := (8 * by_ : Nat)
  let inside (dx dy : Int) : Bool :=
    0 ≤ x0 + dx / 4 && x0 + dx / 4 + 9 ≤ p.w && 0 ≤ y0 + dy / 4 && y0 + dy / 4 + 9 ≤ p.h
  let cands := ((upTo 9).filter (· ≠ 4)).filterMap fun k =>
    let dx := best.dx + step * ((k % 3 : Nat) - 1); let dy := best.dy + step * ((k / 3 : Nat) - 1)
    if inside dx dy then some (⟨dx, dy,
      sad (fun x y => s.motionLuma o p false 0 (8 * bx + x) (8 * by_ + y))
        (fun x y => s.motionFrac o p (x0 + x) (y0 + y) dx dy)⟩ : Cand2) else none
  bestOf cands best

/-- Vector of block (bx, by) at level `l`, searched from the top level down. -/
def State.motionLevel (s : State) (o : OpenStop) (p : MotionParam) (n l bx by_ : Nat) : Cand2 :=
  match n with
  | 0 => s.motionSearch o p l bx by_ 0 0
  | k + 1 =>
    let up := s.motionLevel o p k (l + 1) (bx / 2) (by_ / 2)
    s.motionSearch o p l bx by_ (2 * up.dx) (2 * up.dy)

/-- The 8 bytes of one block's vector (Table 06-9). -/
def State.motionVector (s : State) (o : OpenStop) (p : MotionParam) (bx by_ : Nat) : List Byte :=
  let up : Cand2 := if p.levels ≤ 1 then ⟨0, 0, 0⟩
    else s.motionLevel o p (p.levels - 2) 1 (bx / 2) (by_ / 2)
  let v := s.motionSearch o p 0 bx by_ (2 * up.dx) (2 * up.dy)
  let r : Int := (nth 0 p.ranges 0 : Nat)
  let clipped := (v.dx - 2 * up.dx).natAbs = r.natAbs ∨ (v.dy - 2 * up.dy).natAbs = r.natAbs
  let q : Cand2 := ⟨4 * v.dx, 4 * v.dy, v.cost⟩
  let h := if 1 ≤ p.subpel then s.motionRefine o p bx by_ 2 q else q
  let f := if 2 ≤ p.subpel then s.motionRefine o p bx by_ 1 h else h
  leBytes 2 (wrapInt 16 f.dx) ++ leBytes 2 (wrapInt 16 f.dy) ++ leBytes 2 f.cost
    ++ leBytes 2 (if clipped then 1 else 0)

/-- A MOTION stop's work. -/
def motionWork (i : Nat) (s : State) (o : OpenStop) : Prog :=
  let p := motionParam o.stop.desc
  let seqOf (r : Nat) : Nat := if r = 0xFF then 0 else s.rn o r 4 4
  let header := leBytes 4 0x4345564D ++ leBytes 4 (seqOf p.curRec) ++ leBytes 4 (seqOf p.refRec)
    ++ leBytes 2 (p.w / 8) ++ leBytes 2 (p.h / 8) ++ leBytes 1 p.subpel ++ leBytes 1 p.levels
    ++ zeros 46
  let body := ((upTo (p.h / 8)).map fun y =>
    ((upTo (p.w / 8)).map fun x => s.motionVector o p x y).flatten).flatten
  visWrite i o p.dst (header ++ body)

/-- MOTION: the stop in slot `i`. -/
def execMotion (i : Nat) (parity : Bool) (s : State) : Host.Outcome State Fault Refusal :=
  Prog.outcome (visStop i 2 0x32 parity (motionWork i)) s

/-! ### Statistics (R210) -/

/-- The 320 bytes of one window's result. -/
def State.statsResult (s : State) (o : OpenStop) (m : Img) (x y w h : Nat) : List Byte :=
  let x1 := min (x + w) m.w; let y1 := min (y + h) m.h
  let cw := x1 - x; let ch := y1 - y
  let px := ((upTo ch).map fun j => (upTo cw).map fun i => (x + i, y + j)).flatten
  let lum := px.map fun e => s.imgLuma o m e.1 e.2 / 4
  let chan (k : Nat) : List Nat := px.map fun e => ((s.imgRaw o m e.1 e.2).ch k).toNat
  ((upTo 64).map fun b => leBytes 4 (countIf (· == b) lum)).flatten
    ++ ((upTo 3).map fun k => leBytes 8 (chan k).sum).flatten
    ++ ((upTo 3).map fun k => leBytes 1 ((chan k).min?.getD 0)).flatten
    ++ ((upTo 3).map fun k => leBytes 1 ((chan k).max?.getD 0)).flatten
    ++ leBytes 1 (if m.w < x + w ∨ m.h < y + h then 1 else 0) ++ zeros 1
    ++ leBytes 4 px.length ++ zeros 28

/-- A STATS stop's work. -/
def statsWork (i : Nat) (s : State) (o : OpenStop) : Prog :=
  let d := o.stop.desc
  let m : Img := ⟨param d 0 1, param d 6 2, param d 8 2, param d 0x0C 4, param d 4 1⟩
  let win := param d 1 1
  let get (k f : Nat) : Nat := s.rn o win (8 * k + 2 * f) 2
  let ks := upTo (param d 3 1)
  .seq
    (visWrite i o (param d 2 1)
      (ks.map fun k => s.statsResult o m (get k 0) (get k 1) (get k 2) (get k 3)).flatten)
    (Prog.each (ks.filter fun k => m.w < get k 0 + get k 2 || m.h < get k 1 + get k 3) fun _ =>
      .seq (setF F.VIS_EVENT_WIN_CLIP 1) (raise 0x3003 (unitVis 3) 0 o.stop.queue o.stop.tag))

/-- STATS: the stop in slot `i`. -/
def execStats (i : Nat) (parity : Bool) (s : State) : Host.Outcome State Fault Refusal :=
  Prog.outcome (visStop i 3 0x33 parity (statsWork i)) s

end Sys2Proof.Machine
end

