-- ==== Sys2Proof/Machine/Compute.lean ====
section
/-! DEFINITION. The compute operators of the tile cores and COMPOSE (chapter 07, R233 to
R236). -/

namespace Sys2Proof.Machine

/-! ### Parameters (Table 07-13) -/

structure OpParam where
  op : Nat
  dtype : Nat
  in0 : Nat
  in1 : Nat
  out : Nat
  aux : Nat
  rows : Nat
  cols : Nat
  za : Int
  zb : Int
  zo : Int
  shift : Nat
  ma : Int
  mb : Int
  eps : Half
  dw : Nat
  dh : Nat
  fmt : Nat
  bilinear : Bool
  inPitch : Nat
  outPitch : Nat
  deriving DecidableEq, Repr

def opParam (d : List Byte) : OpParam :=
  ⟨param d 0 1, param d 1 1, param d 2 1, param d 3 1, param d 4 1, param d 5 1, param d 8 4,
   param d 0x0C 4, sext 8 (param d 0x10 1), sext 8 (param d 0x11 1), sext 8 (param d 0x12 1),
   bits (param d 0x13 1) 4 0, param d 0x14 2, param d 0x16 2, BitVec.ofNat 16 (param d 0x18 2),
   param d 0x1A 2, param d 0x1C 2, param d 0x1E 1, param d 0x1F 1 == 1, param d 0x20 4,
   param d 0x24 4⟩

def sat8 (x : Int) : Int := clampInt (-128) 127 x

/-- A signed byte as stored. -/
def byteOf (x : Int) : List Byte := [BitVec.ofInt 8 x]

/-- Signed element `j` of `n` bytes of a range. -/
def State.intElem (s : State) (o : OpenStop) (k n j : Nat) : Int := sext (8 * n) (s.rn o k (n * j) n)

/-- FP16 element `j` of a range. -/
def State.halfElem (s : State) (o : OpenStop) (k j : Nat) : Half :=
  BitVec.ofNat 16 (s.rn o k (2 * j) 2)

def halfBytes (h : Half) : List Byte := leBytes 2 h.toNat

/-- The elements of a tensor in order, each by its bytes. -/
def OpParam.elems (p : OpParam) (f : Nat → List Byte) : List Byte :=
  ((upTo (p.rows * p.cols)).map f).flatten

/-- An elementwise operator on INT8 or FP16. Any other input type, which the loader refuses
(R235), leaves the output open. -/
def State.elementwise (s : State) (o : OpenStop) (p : OpParam) (f8 : Int → Int → Int)
    (f16 : Half → Half → Half) : List Byte :=
  if p.dtype = 0 then
    p.elems fun j => byteOf (f8 (s.intElem o p.in0 1 j) (s.intElem o p.in1 1 j))
  else if p.dtype = 1 then
    p.elems fun j => halfBytes (f16 (s.halfElem o p.in0 j) (s.halfElem o p.in1 j))
  else s.freeBytes (p.rows * p.cols)

/-! ### The operators (R233) -/

def int8Add (p : OpParam) (a b : Int) : Int :=
  sat8 (rhe ((a - p.za) * p.ma + (b - p.zb) * p.mb) (2 ^ p.shift) + p.zo)

def int8Sub (p : OpParam) (a b : Int) : Int :=
  sat8 (rhe ((a - p.za) * p.ma - (b - p.zb) * p.mb) (2 ^ p.shift) + p.zo)

def int8Mul (p : OpParam) (a b : Int) : Int :=
  sat8 (rhe ((a - p.za) * (b - p.zb) * p.ma) (2 ^ p.shift) + p.zo)

/-- CVT from an integer to FP16. -/
def cvtFromInt (p : OpParam) (x : Int) : Half := f16 (Ex.ofInt ((x - p.za) * p.ma) (2 ^ p.shift))

/-- CVT from FP16 to INT8: a NaN becomes ZO. -/
def cvtFromHalf (p : OpParam) (x : Half) : Int :=
  match ex16 x with
  | .nan => sat8 p.zo
  | .inf neg => if neg then -128 else 127
  | .fin neg n d => sat8 (rhe (signedNum neg n * p.ma) (d * 2 ^ p.shift) + p.zo)

def State.cvtBytes (s : State) (o : OpenStop) (p : OpParam) : List Byte :=
  if p.dtype = 0 then p.elems fun j => halfBytes (cvtFromInt p (s.intElem o p.in0 1 j))
  else if p.dtype = 1 then p.elems fun j => byteOf (cvtFromHalf p (s.halfElem o p.in0 j))
  else if p.dtype = 2 then p.elems fun j => halfBytes (cvtFromInt p (s.intElem o p.in0 2 j))
  else p.elems fun j => halfBytes (cvtFromInt p (s.intElem o p.in0 4 j))

/-- (s·α + d·(255 − α) + 127) div 255. -/
def blend255 (s d α : Nat) : Nat := (s * α + d * (255 - α) + 127) / 255

/-- The rows of an image, each padded to the output pitch with 0x00. -/
def padRows (w h pitch : Nat) (pix : Nat → Nat → List Byte) : List Byte :=
  ((upTo h).map fun y =>
    let row := ((upTo w).map fun x => pix x y).flatten
    row ++ zeros (pitch - row.length)).flatten

/-- BLEND, RGBA8888. The source is ROWS × COLS; where the output is larger the spec states no source
pixel, and the byte is a free value of the descriptor and the inputs alone (R214). -/
def State.blendBytes (s : State) (o : OpenStop) (p : OpParam) : List Byte :=
  let inputs := o.stop.desc ++ s.rbs o p.in0 0 (rangeAt o.stop.desc p.in0).len
    ++ s.rbs o p.in1 0 (rangeAt o.stop.desc p.in1).len
  padRows p.dw p.dh p.outPitch fun x y =>
    if x < p.cols ∧ y < p.rows then
      let at_ := y * p.inPitch + 4 * x
      let α := s.rb o p.in0 (at_ + 3)
      ((upTo 4).map fun c =>
        leBytes 1 (blend255 (s.rb o p.in0 (at_ + c)) (s.rb o p.in1 (at_ + c)) α)).flatten
    else (upTo 4).map fun c => Config.blendBeyond inputs (4 * (y * p.dw + x) + c)

/-- Bytes of a pixel of Table 07-4. -/
def pixBytes (fmt : Nat) : Nat :=
  if fmt = 1 then 3 else if fmt = 2 then 2 else if fmt = 3 then 4 else 1

/-- The channels of a stored pixel, each at its own width. -/
def pixChannels (fmt : Nat) (b : List Byte) : List Int :=
  if fmt = 2 then
    let v := leNat b
    [(bits v 15 11 : Nat), (bits v 10 5 : Nat), (bits v 4 0 : Nat)]
  else b.map fun x => (x.toNat : Int)

/-- A pixel stored from its channels. -/
def pixPack (fmt : Nat) (cs : List Int) : List Byte :=
  if fmt = 2 then
    leBytes 2 ((nth 0 cs 0).toNat * 2048 + (nth 0 cs 1).toNat * 32 + (nth 0 cs 2).toNat)
  else cs.map fun c => BitVec.ofInt 8 c

/-- Source position of output pixel x, in 1/256 pixel, and the nearest source pixel. -/
def resamplePos (x src dst : Nat) : Int := (((2 * x + 1) * src * 128 / dst : Nat) : Int) - 128
def resampleNearest (x src dst : Nat) : Nat := (2 * x + 1) * src / (2 * dst)

/-- A pixel resampled from a w × h source, channel by channel (R233, R202 with replicate
borders). -/
def resamplePix (bilinear : Bool) (x y w h dw dh n : Nat) (pix : Nat → Nat → List Int) : List Int :=
  let cx (i : Int) : Nat := (clampInt 0 ((w : Int) - 1) i).toNat
  let cy (i : Int) : Nat := (clampInt 0 ((h : Int) - 1) i).toNat
  if bilinear then
    let sx := resamplePos x w dw
    let sy := resamplePos y h dh
    (upTo n).map fun k =>
      (tapSum (linW (sx % 256)) (linW (sy % 256)) (fun a b =>
        nth 0 (pix (cx (sx / 256 + a)) (cy (sy / 256 + b))) k) + 32768) / 65536
  else pix (cx (resampleNearest x w dw)) (cy (resampleNearest y h dh))

def State.resampleBytes (s : State) (o : OpenStop) (p : OpParam) : List Byte :=
  let n := pixBytes p.fmt
  let chans := if p.fmt = 2 then 3 else n
  let pix (x y : Nat) : List Int := pixChannels p.fmt (s.rbs o p.in0 (y * p.inPitch + n * x) n)
  padRows p.dw p.dh p.outPitch fun x y =>
    pixPack p.fmt (resamplePix p.bilinear x y p.cols p.rows p.dw p.dh chans pix)

/-! ### The reduction tree and the row operators (R234) -/

/-- Sum of two binary32 values. -/
def add32 (a b : BitVec 32) : BitVec 32 := f32 ((ex32 a).add (ex32 b))

/-- Sum of a lane, in increasing order. -/
def laneSum (l : List (BitVec 32)) : BitVec 32 :=
  match l with
  | [] => 0
  | a :: t => t.foldl add32 a

/-- One level of the tree: results 2k and 2k + 1 added. -/
def treeLevel (l : List (BitVec 32)) : List (BitVec 32) :=
  (upTo (l.length / 2)).map fun k => add32 (nth 0 l (2 * k)) (nth 0 l (2 * k + 1))

/-- T over a row. -/
def treeSum (row : List (BitVec 32)) : BitVec 32 :=
  let lanes := (upTo 32).map fun n =>
    laneSum ((upTo ((row.length + 31 - n) / 32)).map fun k => nth 0 row (32 * k + n))
  nth 0 (treeLevel (treeLevel (treeLevel (treeLevel (treeLevel lanes))))) 0

/-- An FP16 value as binary32, exactly. -/
def widen (h : Half) : BitVec 32 := f32 (ex16 h)

/-- NORM of one row. -/
def normRow (x : List Half) (eps : Half) (gain bias : Nat → Half) : List Half :=
  let n := Ex.ofNat x.length
  let mean := f32 ((ex32 (treeSum (x.map widen))).div n)
  let dev (h : Half) : Ex := (ex16 h).sub (ex32 mean)
  let var := f32 ((ex32 (treeSum (x.map fun h => f32 ((dev h).mul (dev h))))).div n)
  let r := f32 ((ex32 var).add (ex16 eps)).rsqrt
  (upTo x.length).map fun j =>
    f16 (((ex32 (f32 ((ex32 (f32 (dev (nth 0 x j)))).mul (ex32 r)))).mul (ex16 (gain j))).add
      (ex16 (bias j)))

/-- SOFTMAX of one row. -/
def softmaxRow (x : List Half) : List Half :=
  let m := x.foldl (fun a h => a.max (ex16 h)) (ex16 (nth 0 x 0))
  let e := x.map fun h => f32 ((ex16 h).sub m).exp
  let t := treeSum e
  e.map fun v => f16 ((ex32 v).div (ex32 t))

/-- A row of an FP16 tensor. -/
def State.halfRow (s : State) (o : OpenStop) (p : OpParam) (r : Nat) : List Half :=
  (upTo p.cols).map fun j => s.halfElem o p.in0 (r * p.cols + j)

/-- NORM's gain and bias: AUX holds COLS gains and then COLS biases (assumption 43). -/
def State.normBytes (s : State) (o : OpenStop) (p : OpParam) : List Byte :=
  ((upTo p.rows).map fun r =>
    ((normRow (s.halfRow o p r) p.eps (fun j => s.halfElem o p.aux j)
      (fun j => s.halfElem o p.aux (p.cols + j))).map halfBytes).flatten).flatten

def State.softmaxBytes (s : State) (o : OpenStop) (p : OpParam) : List Byte :=
  ((upTo p.rows).map fun r => ((softmaxRow (s.halfRow o p r)).map halfBytes).flatten).flatten

/-! ### COMPUTE_OP -/

/-- Run the COMPUTE_OP stop of slot `i` where its OP is `op`: its output layout and then 0x00
to the end of OUT_RANGE (R235). -/
def computeOp (i op : Nat) (f : State → OpenStop → OpParam → List Byte) : Prog :=
  runStop i 0x11 fun s o =>
    let p := opParam o.stop.desc
    if p.op = op then
      writeWhole i o p.out (f s o p)
    else .skip

/-- Slot `i` holds a COMPUTE_OP of operator `op`. -/
def State.opIs (s : State) (i op : Nat) : Bool :=
  match s.slotOf i with
  | none => false
  | some o => (opParam o.stop.desc).op == op

/-- COMPUTE_ADD: the stop in slot `i`. -/
def execComputeAdd (i : Nat) (s : State) : Host.Outcome State Fault Refusal :=
  Prog.outcome (Prog.when (s.opIs i 0) <| computeOp i 0 fun t o p =>
    t.elementwise o p (int8Add p) (h2 Ex.add)) s
/-- COMPUTE_SUB: the stop in slot `i`. -/
def execComputeSub (i : Nat) (s : State) : Host.Outcome State Fault Refusal :=
  Prog.outcome (Prog.when (s.opIs i 1) <| computeOp i 1 fun t o p =>
    t.elementwise o p (int8Sub p) (h2 Ex.sub)) s
/-- COMPUTE_MUL: the stop in slot `i`. -/
def execComputeMul (i : Nat) (s : State) : Host.Outcome State Fault Refusal :=
  Prog.outcome (Prog.when (s.opIs i 2) <| computeOp i 2 fun t o p =>
    t.elementwise o p (int8Mul p) (h2 Ex.mul)) s
/-- COMPUTE_MAX: the stop in slot `i`. -/
def execComputeMax (i : Nat) (s : State) : Host.Outcome State Fault Refusal :=
  Prog.outcome (Prog.when (s.opIs i 3) <| computeOp i 3 fun t o p =>
    t.elementwise o p max (h2 Ex.max)) s
/-- COMPUTE_MIN: the stop in slot `i`. -/
def execComputeMin (i : Nat) (s : State) : Host.Outcome State Fault Refusal :=
  Prog.outcome (Prog.when (s.opIs i 4) <| computeOp i 4 fun t o p =>
    t.elementwise o p min (h2 Ex.min)) s
/-- COMPUTE_RELU: the stop in slot `i`. -/
def execComputeRelu (i : Nat) (s : State) : Host.Outcome State Fault Refusal :=
  Prog.outcome (Prog.when (s.opIs i 5) <| computeOp i 5 fun t o p =>
    t.elementwise o p (fun a _ => max a p.za) (fun a _ => h2 Ex.max a half0)) s
/-- COMPUTE_CVT: the stop in slot `i`. -/
def execComputeCvt (i : Nat) (s : State) : Host.Outcome State Fault Refusal :=
  Prog.outcome (Prog.when (s.opIs i 6) <| computeOp i 6 State.cvtBytes) s
/-- COMPUTE_BLEND: the stop in slot `i`. -/
def execComputeBlend (i : Nat) (s : State) : Host.Outcome State Fault Refusal :=
  Prog.outcome (Prog.when (s.opIs i 7) <| computeOp i 7 State.blendBytes) s
/-- COMPUTE_RESAMPLE: the stop in slot `i`. -/
def execComputeResample (i : Nat) (s : State) : Host.Outcome State Fault Refusal :=
  Prog.outcome (Prog.when (s.opIs i 8) <| computeOp i 8 State.resampleBytes) s
/-- COMPUTE_NORM: the stop in slot `i`. -/
def execComputeNorm (i : Nat) (s : State) : Host.Outcome State Fault Refusal :=
  Prog.outcome (Prog.when (s.opIs i 9) <| computeOp i 9 State.normBytes) s
/-- COMPUTE_SOFTMAX: the stop in slot `i`. -/
def execComputeSoftmax (i : Nat) (s : State) : Host.Outcome State Fault Refusal :=
  Prog.outcome (Prog.when (s.opIs i 10) <| computeOp i 10 State.softmaxBytes) s

/-! ### COMPOSE (R236) -/

structure ComposeParam where
  dst : Nat
  layers : Nat
  fmt : Nat
  dw : Nat
  dh : Nat
  pitch : Nat
  background : Nat
  deriving DecidableEq, Repr

def composeParam (d : List Byte) : ComposeParam :=
  ⟨param d 0 1, param d 1 1, param d 2 1, param d 4 2, param d 6 2, param d 8 4, param d 0x0C 4⟩

/-- A layer record (Table 07-15) with what it reads from: the address of a byte of its source
image. -/
structure Layer where
  range : Nat
  fmt : Nat
  bilinear : Bool
  alpha : Nat
  sx : Nat
  sy : Nat
  sw : Nat
  sh : Nat
  dx : Nat
  dy : Nat
  dw : Nat
  dh : Nat
  pitch : Nat
  deriving DecidableEq, Repr

/-- Layer `n` of a COMPOSE descriptor: the table stands at descriptor offset 64. -/
def layerAt (d : List Byte) (n : Nat) : Layer :=
  let f (off w : Nat) : Nat := fieldAt d (64 + 32 * n + off) w
  ⟨f 0 1, f 1 1, f 2 1 == 1, f 3 1, f 4 2, f 6 2, f 8 2, f 0x0A 2, f 0x0C 2, f 0x0E 2, f 0x10 2,
   f 0x12 2, f 0x14 4⟩

/-- A stored pixel as 8-bit R, G, B, A. -/
def rgbaOf (fmt : Nat) (b : List Byte) : List Int :=
  let c := pixChannels fmt b
  if fmt = 2 then
    [nth 0 c 0 * 8 + nth 0 c 0 / 4, nth 0 c 1 * 4 + nth 0 c 1 / 16,
     nth 0 c 2 * 8 + nth 0 c 2 / 4, 255]
  else if fmt = 3 then c else c ++ [255]

/-- A layer over the pixel below it. -/
def Layer.over (l : Layer) (pix : Nat → Nat → List Int) (x y : Nat) (below : List Nat) : List Nat :=
  if l.dx ≤ x ∧ x < l.dx + l.dw ∧ l.dy ≤ y ∧ y < l.dy + l.dh then
    let src := resamplePix l.bilinear (x - l.dx) (y - l.dy) l.sw l.sh l.dw l.dh 4
      fun i j => pix (l.sx + i) (l.sy + j)
    let α := ((nth 0 src 3).toNat * l.alpha + 127) / 255
    (upTo 3).map fun c => blend255 (nth 0 src c).toNat (nth 0 below c) α
  else below

end Sys2Proof.Machine
end

