-- ==== Sys2Proof/Machine/Roundabout.lean ====
section
/-! DEFINITION. The roundabout: offers, decisions, relocation, the generator, input gates, the
decision log and replay (chapter 10, R291 to R311), and COMPOSE (R236, R300). -/

namespace Sys2Proof.Machine

/-! ### The decision log (R305, R306) -/

/-- Bytes of the log ring. -/
def State.logSize (s : State) : Nat :=
  65536 * clampNat 1 64 (s.fld F.RBT_LOG_SIZE_SIZE_64K)

def State.logBase (s : State) : Nat :=
  s.fld F.RBT_LOG_BASE_HI_BASE * 2 ^ 32 + s.fld F.RBT_LOG_BASE_LO_BASE * 65536

def State.logNext (s : State) : Nat := s.retNum 0x0604 4

/-- Append a log entry to the ring and to the log head in the retention RAM. A write of the ring
that fails, be it for a region lock (R121) or an unmapped address (R108), raises 0x4007. -/
def logEntry (kind unit choice stand n pn : Nat) : Prog :=
  .seq (usePair R.RBT_CTRL) <| .look fun s => Prog.when (s.flag F.RBT_CTRL_LOG_EN = true) <|
    let i := s.logNext
    let bs := leBytes 1 kind ++ leBytes 1 unit ++ leBytes 1 choice ++ leBytes 1 stand
      ++ leBytes 4 n ++ leBytes 4 pn ++ leBytes 4 s.lamp.tick
    let pa := s.logBase + 16 * i % s.logSize
    Prog.all [
      engineWrite pa bs (raise 0x4007 unitRbt),
      retWrite 0x0600 (leBytes 4 0x474F4C52 ++ leBytes 4 (i + 1) ++ leBytes 8 s.boot.buildId
        ++ zeros 48),
      retWrite (0x0640 + 16 * (i % 28)) bs]

/-! ### Replay (R307, R308) -/

/-- An entry of the replay log (Table 10-4). -/
structure LogRec where
  index : Nat
  kind : Nat
  unit : Nat
  choice : Nat
  n : Nat
  pn : Nat
  deriving DecidableEq, Repr

def State.replayAt (s : State) (i : Nat) : LogRec :=
  let pa := s.fld F.RBT_REPLAY_BASE_HI_BASE * 2 ^ 32 + s.fld F.RBT_REPLAY_BASE_LO_BASE * 64 + 16 * i
  ⟨i, s.paNum pa 1, s.paNum (pa + 1) 1, s.paNum (pa + 2) 1, s.paNum (pa + 4) 4, s.paNum (pa + 8) 4⟩

/-- The replay log's entry of a kind for unit `u` and number `n`. -/
def State.replayFind (s : State) (kind u n : Nat) : Option LogRec :=
  ((upTo (s.fld F.RBT_REPLAY_LEN_ENTRIES)).find? fun i =>
    let e := s.replayAt i
    e.kind == kind && e.unit == u && e.n == n).map s.replayAt

/-- The position stands at the first entry not used, and once every entry is used the log is at
its end: replay ends (DEDUCED, assumption 143). -/
def replaySettle : Prog :=
  .look fun s =>
    let left := (upTo (s.fld F.RBT_REPLAY_LEN_ENTRIES)).filter fun i => !s.rbt.replayed.contains i
    .seq (setF F.RBT_REPLAY_POS_ENTRY (left.headD (s.fld F.RBT_REPLAY_LEN_ENTRIES)))
      (Prog.when (s.rbt.replay = true ∧ left = []) <|
        .seq (setF F.RBT_STATUS_REPLAY_END 1) (modRbt fun r => { r with replay := false }))

/-- An entry is used. -/
def replayUsed (e : LogRec) : Prog :=
  .seq (modRbt fun r => { r with replayed := r.replayed ++ [e.index] }) replaySettle

/-- At hand-over with MODE = REPLAY, replay starts and its START entry is used (R307). -/
def replayStart : Prog :=
  .seq (usePair R.RBT_CTRL) <| .look fun s => Prog.when (s.flag F.RBT_CTRL_MODE = true) <|
    .seq (modRbt fun r => { r with
      replay := true
      replayed := if 0 < s.fld F.RBT_REPLAY_LEN_ENTRIES ∧ (s.replayAt 0).kind = 4 then [0] else [] })
      replaySettle

/-- Replay can go no further (R308). -/
def diverge : Prog := Prog.all [
  setF F.RBT_STATUS_DIVERGED 1,
  raiseSecond 0x4005 unitRbt,
  modRbt fun r => { r with replay := false }]

/-! ### Track configuration (R291, R309) -/

/-- Track `t` meets the rules of R291, the stands of all enabled tracks counted. While the
loader does not know the LPDDR4X outcome, stands in the LPDDR window count as usable; hand-over
judges them again (assumption 48). -/
def State.trackOk (s : State) (t : Nat) : Bool :=
  let top := if s.boot.lpddrKnown then s.ave.ddrBytes else 0x100000000
  let b := s.trkBase t
  let n := s.trkStands t * s.trkStride t
  let plaza := b + n ≤ s.plazaTop
  let ddr := 0x100000000 ≤ b && b + n ≤ 0x100000000 + top && b % 65536 == 0
    && s.trkStride t % 65536 == 0
  let total := ((upTo 6).map fun u =>
    if u = t ∨ (s.track u).enabled then s.trkStands u else 0).sum
  (plaza || ddr) && decide (total ≤ 24)

/-- The splash as a track's shown frame: FRESH, of PN 0 (R296). -/
def splashCand : Cand := ⟨0xFF, 3, 0, 0, 0⟩

/-- A word committed to RBT_TRK_CFG: reserved bits are dropped and STANDS is clamped. -/
def trkWord (v : Nat) : Nat :=
  let w := v % 2 ^ 32 &&& R.RBT_TRK_CFG.rw
  setBits w 11 8 (clampNat 2 8 (bits w 11 8))

/-- A commit of RBT_TRK_CFG of track `t`. STANDS takes a write only while EN is 0: a commit that
changes it at another time receives an error response (R309). -/
def trkCommit (t word : Nat) : Prog :=
  let v := trkWord word
  .seq (useRegs [R.RBT_TRK_CFG]) <| .look fun s0 =>
  if s0.flag F.RBT_TRK_CFG_EN t = true ∧ bits v 11 8 ≠ s0.fld F.RBT_TRK_CFG_STANDS t then respondError
  else .seq (setReg R.RBT_TRK_CFG v t) <| .look fun s =>
    let x := s.track t
    if bitN v 0 = 1 then
      (if x.enabled && !x.closing then .skip
       else if s.trackOk t then modTrack t fun y => { y with
         enabled := true
         closing := false
         cfg := s.rd R.RBT_TRK_CFG t
         shown := if t % 3 = 0 ∧ y.shown = none ∧ s.showedSplash (t / 3) = true
             ∧ (nth Output.reset s.sco.outs (t / 3)).splashGone = false
           then some splashCand else y.shown }
       else raise 0x4006 unitRbt)
    else modTrack t fun y => { y with closing := y.enabled }

/-- TRACK_ENABLE: a commit of RBT_TRK_CFG_t with EN = 1. -/
def execTrackEnable (t v : Nat) (s : State) : Host.Outcome State Fault Refusal :=
  Prog.outcome (Prog.when (t < 6) (trkCommit t (setBits v 0 0 1))) s

/-- TRACK_DISABLE: a commit of RBT_TRK_CFG_t with EN = 0. -/
def execTrackDisable (t v : Nat) (s : State) : Host.Outcome State Fault Refusal :=
  Prog.outcome (Prog.when (t < 6) (trkCommit t (setBits v 0 0 0))) s

/-! ### Offers (R292) -/

/-- Parameters of an OFFER stop (Table 10-2). -/
structure OfferParam where
  action : Nat
  track : Nat
  stand : Nat
  kind : Nat
  cls : Nat
  src : Nat
  vec : Nat
  dst : Nat
  w : Nat
  h : Nat
  pitch : Nat
  fmt : Nat
  a : Nat
  deriving DecidableEq, Repr

def offerParam (d : List Byte) : OfferParam :=
  ⟨param d 0 1, param d 1 1, param d 2 1, param d 3 1, param d 4 1, param d 6 1, param d 7 1,
   param d 5 1, param d 0x10 2, param d 0x12 2, param d 0x14 4, param d 0x18 1, param d 0x1A 2⟩

/-- PN of an offered candidate: PN_VAL + ITER × PN_STEP modulo 2^32. -/
def Stop.pn (st : Stop) : Nat :=
  (param st.desc 8 4 + st.iter * param st.desc 0x0C 2) % 2 ^ 32

/-- The track's mode in force is LATEST. -/
def Track.latest (x : Track) : Bool := bitN x.cfg 1 == 1

/-- The roundabout refuses this offer (R292). -/
def State.offerRefused (s : State) (i t stand kind pn : Nat) : Bool :=
  let x := s.track t
  !x.enabled || x.closing || x.pending.any (fun c => c.stand == stand)
    || (x.shown.any fun c => c.kind != 3 && c.stand == stand)
    || (x.generating.any fun g => g.1 == stand && g.2 != i)
    || x.pending.any (fun c => c.pn == pn && c.kind == kind)
    || (x.latest && kind == 0 && x.lastFresh.any fun m => decide (pn ≤ m))

/-- Refuse the offer of slot `i`. -/
def refuseOffer (i : Nat) : Prog := .seq (raiseSecond 0x4001 unitRbt) (failStop i 0x0D)

/-- Register a candidate: a STABLE lock on its stand, and an entry among the pending ones.
While no region-lock entry is free the offer waits. -/
def registerOffer (i t stand kind cls pn : Nat) : Prog :=
  .look fun s => match s.freeLock with
    | none => .skip
    | some n => Prog.all [
        takeLock n (s.standPa t stand / 4096) (s.trkStride t / 4096) 1 (.unit unitRbt),
        modTrack t fun x => { x with
          pending := x.pending ++ [⟨stand, kind, cls, pn, s.time⟩]
          generating := x.generating.filter fun g => g.2 ≠ i
          lastFresh := if kind = 0 then some (max pn (x.lastFresh.getD 0)) else x.lastFresh },
        modSlot i fun o => { o with done := true }]

/-- A page of stand `n` of track `t` holds a poison tag. -/
def State.standPoisoned (s : State) (t n : Nat) : Bool :=
  (touched 4096 (s.standPa t n) (s.trkStride t)).any fun g => s.poisonedAt (4096 * g)

/-- Offer the stand of slot `i`'s stop: the poison tags are checked, as a read of the stand, and
the candidate is refused or registered. -/
def offerStand (i : Nat) (p : OfferParam) (kind pn : Nat) : Prog :=
  .seq (useRegs [R.RBT_TRK_CFG]) <| .look fun s =>
    if s.standPoisoned p.track p.stand then failPoisoned i
    else if s.offerRefused i p.track p.stand kind pn then refuseOffer i
    else registerOffer i p.track p.stand kind p.cls pn

/-- OFFER: the stop in slot `i` hands its stand over. -/
def execOffer (i : Nat) (s : State) : Host.Outcome State Fault Refusal :=
  Prog.outcome (match s.executing i 0x40 with
    | none => .skip
    | some o =>
      let p := offerParam o.stop.desc
      Prog.when (p.action = 0) (offerStand i p p.kind o.stop.pn)) s

/-! ### The generator (R301, R302) -/

/-- Stand of track `t` that range `k` of an open stop covers. -/
def State.standOfRange (s : State) (o : OpenStop) (t k : Nat) : Option Nat :=
  (upTo (s.trkStands t)).find? fun n => s.standPa t n == o.stop.pa k 0

/-- The pending or shown candidate on a stand. -/
def Track.candOn (x : Track) (n : Nat) : Option Cand :=
  match x.pending.find? fun c => c.stand == n with
  | some c => some c
  | none => x.shown.filter fun c => c.stand == n && c.kind != 3

/-- Offset of one axis, in 1/256 pixel. -/
def genOffset (d : Int) (a size blocks : Nat) : Int :=
  clampInt (-3840) 3840 (d * a * size / ((32 * blocks : Nat) : Int))

/-- One generated pixel: its stored channels. -/
def State.genPix (s : State) (o : OpenStop) (p : OfferParam) (bw bh x y : Nat) : List Byte :=
  let n := pixBytes p.fmt
  let at_ := 64 + 8 * (y * bh / p.h * bw + x * bw / p.w)
  let sx : Int := 256 * (x : Int) + genOffset (sext 16 (s.rn o p.vec at_ 2)) p.a p.w bw
  let sy : Int := 256 * (y : Int) + genOffset (sext 16 (s.rn o p.vec (at_ + 2) 2)) p.a p.h bh
  let cx (i : Int) : Nat := (clampInt 0 ((p.w : Int) - 1) i).toNat
  let cy (i : Int) : Nat := (clampInt 0 ((p.h : Int) - 1) i).toNat
  (upTo n).map fun k => BitVec.ofInt 8
    ((tapSum (linW (sx % 256)) (linW (sy % 256)) (fun a b =>
      (s.rb o p.src (cy (sy / 256 + b) * p.pitch + n * cx (sx / 256 + a) + k) : Int)) + 32768)
      / 65536)

def State.genImage (s : State) (o : OpenStop) (p : OfferParam) : List Byte :=
  let bw := s.rn o p.vec 0x0C 2
  let bh := s.rn o p.vec 0x0E 2
  padRows p.w p.h p.pitch fun x y => s.genPix o p bw bh x y

/-- The stop in slot `i` may generate: its source candidate, where R302 finds no mismatch. -/
def State.genSource (s : State) (o : OpenStop) (p : OfferParam) : Option Cand :=
  match s.standOfRange o p.track p.src with
  | none => none
  | some n => ((s.track p.track).candOn n).filter fun c => c.pn == s.rn o p.vec 4 4

/-- A GENERATE's work. -/
def generateWork (i : Nat) (s : State) (o : OpenStop) : Prog :=
  let p := offerParam o.stop.desc
  match s.genSource o p with
  | none => .seq (raiseSecond 0x4004 unitRbt) (refuseOffer i)
  | some c =>
    if s.offerRefused i p.track p.stand 2 c.pn then refuseOffer i
    else .seq (modTrack p.track fun x => { x with generating := some (p.stand, i) })
      (writeWhole i o p.dst (s.genImage o p))

/-- A GENERATE whose accesses all succeeded registers its candidate as an OFFER (R302). -/
def generateEnd (i : Nat) : Prog :=
  .look fun s => match s.slotOf i with
    | none => .skip
    | some o =>
      let p := offerParam o.stop.desc
      if o.errorSeen then failAccess i
      else if o.poisonSeen then failPoisoned i
      else match s.genSource o p with
        | none => .skip
        | some c => offerStand i p 2 c.pn

/-- The stop in slot `i` is a GENERATE. -/
def State.isGenerate (s : State) (i : Nat) : Bool :=
  match s.slotOf i with
  | none => false
  | some o => o.stop.opcode == 0x40 && (offerParam o.stop.desc).action == 1

/-- GENERATE: the stop in slot `i`; `parity`: the tile buffer shows a parity error. It starts
once a region-lock entry for its candidate is free. -/
def execGenerate (i : Nat) (parity : Bool) (s : State) : Host.Outcome State Fault Refusal :=
  Prog.outcome (Prog.when (s.isGenerate i = true) <| match s.executing i 0x40 with
    | none => .skip
    | some o =>
      if parity then .seq (raise 0x4009 unitRbt 0 o.stop.queue o.stop.tag) (failStop i 0x0A)
      else Prog.when (s.freeLock.isSome = true) (runStopOn i 0x40
        (fun _ o => o.stop.piecesOf false) (generateWork i) (generateEnd i))) s

/-! ### Relocation (R299) -/

/-- The lowest-numbered free stand of track `t`. -/
def State.freeStand (s : State) (t : Nat) : Option Nat :=
  let x := s.track t
  (upTo (s.trkStands t)).find? fun n =>
    !(x.pending.any fun c => c.stand == n) && !(x.shown.any fun c => c.kind != 3 && c.stand == n)
      && !(x.generating.any fun g => g.1 == n) && !x.leaving.contains n
      && x.reading != some n
      && !(s.lockConflict none (s.standPa t n / 4096) (s.trkStride t / 4096) true)

/-- The WR pages of a stop touch stand `n` of track `t`. -/
def State.writesStand (s : State) (st : Stop) (t n : Nat) : Bool :=
  match st.runs with
  | none => false
  | some l => l.runs.any fun r => r.wr && r.pfn < (s.standPa t n + s.trkStride t) / 4096
      && s.standPa t n / 4096 < r.pfn + r.count

/-- A stop that waits at dispatch for a stand shown as a REPEAT starts its relocation. -/
def relocateFor (st : Stop) : Prog :=
  Prog.each (upTo 6) fun t => .look fun s =>
    let x := s.track t
    match x.shown with
    | none => .skip
    | some c =>
      Prog.when (x.enabled = true ∧ x.choice = 3 ∧ c.kind ≠ 3 ∧ x.reloc = none
          ∧ s.writesStand st t c.stand = true) <|
        match s.freeStand t, s.freeLock with
        | some n, some k => .seq
            (takeLock k (s.standPa t n / 4096) (s.trkStride t / 4096) 2 (.unit unitRbt))
            (modTrack t fun y => { y with reloc := some ⟨c.stand, n, false⟩ })
        | _, _ => .skip

/-- RELOCATION_COPY_DONE: the copy of track `t` is complete. -/
def execRelocationCopyDone (t : Nat) (s : State) : Host.Outcome State Fault Refusal :=
  Prog.outcome (match (s.track t).reloc with
    | none => .skip
    | some r => Prog.when (r.copied = false) <|
        let src := s.standPa t r.src
        let dst := s.standPa t r.dst
        let n := s.trkStride t
        Prog.all [
          readEffects src n,
          .look fun u => .seq (memWrite dst (u.paBytes src n))
            (if (u.readMark src n).poison then poisonRange dst n else .skip),
          .look fun u => Prog.each (u.standLocks t r.dst) fun k =>
            modAve fun v => { v with locks := upd v.locks k ((nth none v.locks k).map fun l =>
              { l with mode := 1 }) },
          modTrack t fun y => { y with reloc := some { r with copied := true } }]) s

/-! ### The decision (R295 to R298) -/

/-- A candidate's frame holds a poisoned page: a poison tag, not an error that no read has met. -/
def State.candPoisoned (s : State) (t : Nat) (c : Cand) : Bool :=
  if c.kind = 3 then
    match s.splash (t / 3) with
    | none => false
    | some p => (touched 4096 p.pa p.bytes).any fun g => s.poisonedAt (4096 * g)
  else s.standPoisoned t c.stand

/-- The base plane of output `x` still selects the splash (R78). -/
def State.splashHold (s : State) (x : Nat) : Bool :=
  s.showedSplash x && !s.boot.holdElapsed && !(nth Output.reset s.sco.outs x).splashGone

/-- Scan-out gives up the splash of output `x` (R321). -/
def releaseSplash (x : Nat) : Prog :=
  .look fun s => match nth Output.reset s.sco.outs x with
    | o => Prog.when (o.splashGone = false) <| .seq
        (match s.splash x with
         | none => .skip
         | some p => Prog.when (o.splashLock = true)
             (releaseLock (.unit (unitSco x)) p.page p.pages))
        (modSco fun c => { c with outs := upd c.outs x { o with
          splashLock := false, splashGone := true } })

/-- Discard the pending candidates that satisfy `p`, with their locks. -/
def discardCands (t : Nat) (p : Cand → Bool) : Prog :=
  .look fun s =>
    let gone := (s.track t).pending.filter p
    .seq (Prog.each gone fun c => unlockStand t c.stand)
      (modTrack t fun x => { x with
        pending := x.pending.filter fun c => !p c
        passed := gone.foldl (fun l c => (c.kind, c.pn) :: l) x.passed })

/-- GEN_OK of R296. -/
def State.genOk (s : State) (x : Track) (c : Cand) : Bool :=
  bitN x.cfg 2 == 1 && (c.cls &&& s.fld F.RBT_NOGEN_CLASSES) == 0

/-- The candidate with the highest PN. -/
def bestPn (l : List Cand) : Option Cand :=
  l.foldl (fun acc c => match acc with
    | none => some c
    | some b => if b.pn < c.pn then some c else some b) none

/-- The candidate R296 selects for refresh `n`, with its choice code. -/
def State.selectCand (s : State) (x : Track) (n : Nat) : Option (Cand × Nat) :=
  let pnShown := (x.shown.map (·.pn)).getD 0
  let freshShown := x.shown.any fun c => c.kind == 0 || c.kind == 3
  let find (p : Cand → Bool) : Option Cand := x.pending.find? p
  if x.latest then
    match bestPn (x.pending.filter fun c => c.kind == 0 && pnShown < c.pn) with
    | some c => some (c, 0)
    | none =>
      if freshShown then
        (find fun c => c.kind == 2 && c.pn == pnShown && s.genOk x c).map fun c => (c, 2)
      else none
  else
    match find fun c => c.kind == 0 && c.pn == n with
    | some c => some (c, 0)
    | none => match find fun c => c.kind == 1 && c.pn == n && s.genOk x c with
      | some c => some (c, 1)
      | none => match find fun c => c.kind == 2 && c.pn == n && s.genOk x c with
        | some c => some (c, 2)
        | none =>
          if bitN x.cfg 3 = 1 then
            (bestPn (x.pending.filter fun c => c.kind == 0 && pnShown < c.pn && c.pn < n)).map
              fun c => (c, 4)
          else none

/-- A pending candidate that no later decision can select, after the decision for `n`. -/
def Track.tooLate (x : Track) (n : Nat) (c : Cand) : Bool :=
  let pnShown := (x.shown.map (·.pn)).getD 0
  let freshShown := x.shown.any fun d => d.kind == 0 || d.kind == 3
  if x.latest then
    (c.kind == 0 && c.pn ≤ pnShown)
      || (c.kind == 2 && (c.pn < pnShown || (c.pn == pnShown && !freshShown)))
  else c.pn ≤ n

/-- Counters of a choice. -/
def countChoice (t choice : Nat) : Prog := Prog.all [
  Prog.when (choice = 0 ∨ choice = 4) (bump F.RBT_CNT_FRESH_COUNT 1 t),
  Prog.when (choice = 1 ∨ choice = 2) (bump F.RBT_CNT_GEN_COUNT 1 t),
  Prog.when (choice = 3 ∨ choice = 5) (bump F.RBT_CNT_REPEAT_COUNT 1 t),
  Prog.when (choice = 3 ∨ choice = 4 ∨ choice = 6) (bump F.RBT_CNT_MISS_MISS 1 t),
  Prog.when (choice = 6) (bump F.RBT_CNT_MISS_NONE 1 t)]

/-- A stand that is no longer shown waits for its release. -/
def Track.leave (x : Track) (old new : Option Cand) : List Nat :=
  match old with
  | none => x.leaving
  | some c =>
    if c.kind = 3 ∨ new.any (fun d => d.kind != 3 && d.stand == c.stand)
        ∨ x.leaving.contains c.stand then x.leaving else x.leaving ++ [c.stand]

/-- The choice for refresh `n` is made: what is shown, the counters and the log entry. A refresh
that a replay does not count leaves the counters (R308). -/
def applyChoice (t n choice : Nat) (new : Option Cand) (counted : Bool := true) : Prog :=
  .look fun s =>
    let x := s.track t
    let taken (c : Cand) : Bool := new == some c && choice != 3 && choice != 5
    Prog.all [
      (match new with
       | some c => Prog.when (x.pending.contains c ∧ choice ≠ 3 ∧ choice ≠ 5) <|
           setF F.RBT_TRK_MARGIN_US
             (min (s.fld F.RBT_TRK_MARGIN_US t) ((s.time - c.at_) / 25)) t
       | none => .skip),
      modTrack t fun y => { y with
        pending := y.pending.filter fun c => !taken c
        shown := new
        choice := choice
        leaving := y.leave y.shown new },
      Prog.when (counted = true) (countChoice t choice),
      Prog.when (choice = 6 ∧ t % 3 = 0) (raiseSecond 0x4008 unitRbt),
      logEntry 1 t choice
        (match new with
         | none => 0xFF
         | some c => if choice = 5 then 0xFF else c.stand) n
        (match new with
         | none => 0
         | some c => if choice = 5 then 0 else c.pn),
      Prog.when (t % 3 = 0 ∧ choice ≠ 5 ∧ (new.map (·.kind)) ≠ some 3) (releaseSplash (t / 3))]

/-- REPEAT of the shown frame, or NONE without one or where it holds a poisoned page. -/
def repeatChoice (t n : Nat) (counted : Bool := true) : Prog :=
  .look fun s => match (s.track t).shown with
    | some c =>
      if s.candPoisoned t c then applyChoice t n 6 none counted
      else applyChoice t n 3 (some c) counted
    | none => applyChoice t n 6 none counted

/-- The discards that follow the decision for refresh `n`. -/
def lateDiscards (t n : Nat) : Prog :=
  .look fun s => discardCands t ((s.track t).tooLate n)

/-- The normal decision for refresh `n` on track `t`; `hold`: it must repeat (R332). -/
def decideNormal (t n : Nat) (hold : Bool) : Prog :=
  .look fun s =>
    if t % 3 = 0 ∧ s.splashHold (t / 3) = true then applyChoice t n 5 (s.track t).shown
    else Prog.all [
      Prog.when ((s.track t).pending.any (s.candPoisoned t) = true) (raiseSecond 0x4002 unitRbt),
      discardCands t (s.candPoisoned t),
      (if hold then repeatChoice t n
       else .look fun u => match u.selectCand (u.track t) n with
         | some (c, k) => applyChoice t n k (some c)
         | none => repeatChoice t n),
      lateDiscards t n]

/-- The decision of a replayed refresh (R307, R308): the logged candidate is selected where
R296 and R297 let a candidate of its kind be chosen. -/
def decideReplay (t n : Nat) (hold : Bool) : Prog :=
  .look fun s =>
    let x := s.track t
    let m := (n + 2 ^ 32 - x.replayN % 2 ^ 32) % 2 ^ 32
    let wait := .seq (repeatChoice t n false) (modTrack t fun y => { y with replayN := y.replayN + 1 })
    match s.replayFind 1 t m with
    | none => decideNormal t n hold
    | some e =>
      if hold then wait
      else if e.choice = 3 then Prog.all [repeatChoice t n, lateDiscards t m, replayUsed e]
      else if e.choice = 5 then .seq (applyChoice t n 5 x.shown) (replayUsed e)
      else if e.choice = 6 then
        Prog.all [applyChoice t n 6 none, lateDiscards t m, replayUsed e]
      else
        let kind := if e.choice = 4 then 0 else e.choice
        Prog.all [
          Prog.when (x.pending.any (s.candPoisoned t) = true) (raiseSecond 0x4002 unitRbt),
          discardCands t (s.candPoisoned t),
          .look fun u => match (u.track t).pending.find? fun c => c.kind == kind && c.pn == e.pn
              && (kind == 0 || u.genOk (u.track t) c) with
            | some c => Prog.all [applyChoice t n e.choice (some c), lateDiscards t m, replayUsed e]
            | none =>
              if (u.track t).passed.any fun p => p.1 == kind && decide (e.pn ≤ p.2) then
                .seq diverge (decideNormal t n false)
              else wait]

/-- A relocation whose copy is complete takes effect, and one that is not and whose stand is
no longer shown is given up (R299). -/
def settleReloc (t : Nat) : Prog :=
  .look fun s => match (s.track t).reloc with
    | none => .skip
    | some r => Prog.when (r.copied = true) <| modTrack t fun y => { y with
        reloc := none
        shown := y.shown.map fun c => if c.kind ≠ 3 ∧ c.stand = r.src
          then { c with stand := r.dst } else c
        leaving := if y.leaving.contains r.src then y.leaving else y.leaving ++ [r.src] }

/-- After the choice, a copy still under way for a stand that is no longer shown is given
up. -/
def dropReloc (t : Nat) : Prog :=
  .look fun s => match (s.track t).reloc with
    | none => .skip
    | some r => Prog.when (((s.track t).shown.any fun c => c.stand == r.src) = false) <|
        .seq (unlockStand t r.dst) (modTrack t fun y => { y with reloc := none })

/-- The decision of track `t` for refresh `n`. -/
def decideTrack (t n : Nat) (hold : Bool) : Prog :=
  .look fun s => Prog.when ((s.track t).enabled = true) <| Prog.all [
    settleReloc t,
    (if (s.track t).closing then Prog.all [
        discardCands t fun _ => true,
        applyChoice t n 6 none,
        modTrack t fun y => { y with enabled := false, closing := false }]
     else .seq (modTrack t fun y => { y with cfg := s.rd R.RBT_TRK_CFG t })
        (if s.rbt.replay then decideReplay t n hold else decideNormal t n hold)),
    dropReloc t,
    releaseStands t]

/-- The decisions of output `x` for refresh `n` (R295). -/
def decideOutput (x n : Nat) (hold : Bool) : Prog :=
  .seq (useRegs [R.RBT_TRK_CFG, R.RBT_NOGEN])
    (Prog.each (upTo 3) fun p => decideTrack (3 * x + p) n hold)

/-- From a vsync of output `x`, its directly presented planes read the stands chosen (R298). -/
def presentOutput (x : Nat) : Prog :=
  Prog.each (upTo 3) fun p => modTrack (3 * x + p) fun y => { y with
    reading := if y.enabled ∧ bitN y.cfg 4 = 0 then
      (y.shown.filter fun c => c.kind != 3).map (·.stand) else none }

/-- The last lines of output `x`'s refresh are fetched (R325). -/
def fetchedOutput (x : Nat) : Prog :=
  Prog.each (upTo 3) fun p => .seq
    (modTrack (3 * x + p) fun y => { y with reading := none }) (releaseStands (3 * x + p))

/-- Output `x` stopped: its tracks give up their candidates and their stands (R310). -/
def stopTracks (x : Nat) : Prog :=
  Prog.seq (Prog.each (upTo 3) fun p =>
    let t := 3 * x + p
    Prog.all [
      discardCands t fun _ => true,
      modTrack t fun y => { y with
        leaving := y.leave y.shown none
        shown := none
        reading := none },
      dropReloc t,
      releaseStands t]) (releaseSplash x)

/-! ### Input gates (R303) -/

def State.gate (s : State) (g : Nat) : Gate := nth Gate.reset s.rbt.gates g

def modGate (g : Nat) (f : Gate → Gate) : Prog :=
  modRbt fun r => { r with gates := upd r.gates g (f (nth Gate.reset r.gates g)) }

/-- Expected source value S_p of gate `g`'s iteration `p`. -/
def GateRec.expected (r : GateRec) (p : Nat) : Nat := (r.s0 + p * r.sstep) % 2 ^ 32

/-- GATE_ITERATION_START: iteration p of gate `g` starts. -/
def execGateIterationStart (g : Nat) (s : State) : Host.Outcome State Fault Refusal :=
  let r := s.gateRec g
  let x := s.gate g
  Prog.outcome (Prog.when (g < s.rbt.gateCount ∧ r.kind ≠ 0 ∧ x.started = false
      ∧ atLeast (s.crossing r.trig).value (r.t0 + x.p * r.tstep) = true
      ∧ (x.p + 2 ^ 32 - (s.crossing r.rel).value) % 2 ^ 32 < r.boundSlots)
    (modGate g fun y => { y with started := true, startedAt := s.time })) s

/-- Bind iteration p of gate `g`: header and data to the bound slot, then the ready crossing. Where
the slot's write is refused (R108, R121) the iteration stays unbound (DESIGN CHOICE, assumption 144). -/
def bindGate (g expected bound flags : Nat) (data : List Byte) (poison : Bool)
    (log : Prog := .skip) : Prog :=
  .look fun s =>
    let r := s.gateRec g
    let p := (s.gate g).p
    let pa := r.boundPa (p % zeroAsOne r.boundSlots)
    let bs := leBytes 4 0x444E4947 ++ leBytes 4 p ++ leBytes 4 expected ++ leBytes 4 bound
      ++ leBytes 1 flags ++ zeros 47 ++ data
    engineAccess pa bs.length true (Prog.all [
      memWrite pa bs,
      Prog.when (poison = true) (poisonRange pa bs.length),
      modGate g fun y => { y with p := (y.p + 1) % 2 ^ 32, started := false },
      setReg R.RBT_GATE_ITER (p + 1) g,
      log,
      deviceEvent r.out]) .skip

/-- Bind source value `v`; a substituted one is counted, reported and logged. The gate holds a
STABLE lock on the source slot while it copies: while another holder has locked a page of it
EXCLUSIVE, or no lock entry is free, the gate waits (R120, R122; DEDUCED, assumption 144). -/
def bindSource (g v : Nat) (subst : Bool) (used : Prog := .skip) : Prog :=
  .look fun s =>
    let r := s.gateRec g
    let p := (s.gate g).p
    let pa := r.srcPa ((v + 2 ^ 32 - 1) % 2 ^ 32 % zeroAsOne r.srcSlots)
    let pages := (pa + r.size - 1) / 4096 - pa / 4096 + 1
    let log := .seq (Prog.when (subst = true) <| Prog.all [
      bump F.RBT_GATE_SUBST_COUNT 1 g,
      raiseSecond 0x4003 unitRbt,
      logEntry 3 g 0 (p % zeroAsOne r.boundSlots) p v]) used
    if v = 0 ∧ subst = true then bindGate g (r.expected p) v 3 (zeros r.size) false log
    else Prog.when (s.lockConflict (some (.unit unitRbt)) (pa / 4096) pages false = false) <|
      match s.freeLock with
      | none => .skip
      | some n => Prog.all [
          takeLock n (pa / 4096) pages 1 (.unit unitRbt),
          engineAccess pa r.size false (.seq (readEffects pa r.size) (.look fun u =>
            bindGate g (r.expected p) v (if subst then 1 else 0) (u.paBytes pa r.size)
              (u.readMark pa r.size).poison log)) .skip,
          freeLock n]

/-- GATE_BIND_SEQUENCE: the source gate `g` waits for has arrived. In replay the gate binds the
value its logged substitution names. -/
def execGateBindSequence (g : Nat) (s : State) : Host.Outcome State Fault Refusal :=
  let r := s.gateRec g
  let x := s.gate g
  let src := (s.crossing r.src).value
  Prog.outcome (Prog.when (g < s.rbt.gateCount ∧ r.kind = 1 ∧ x.started = true) <|
    match (if s.rbt.replay then s.replayFind 3 g x.p else none) with
    | some e => Prog.when (e.pn = 0 ∨ atLeast src e.pn = true)
        (bindSource g e.pn true (replayUsed e))
    | none => Prog.when (atLeast src (r.expected x.p) = true)
        (bindSource g (r.expected x.p) false)) s

/-- GATE_WAIT_LIMIT: WAIT_US has passed without gate `g`'s source; the newest input stands in.
A replay waits without limit. -/
def execGateWaitLimit (g : Nat) (s : State) : Host.Outcome State Fault Refusal :=
  let r := s.gateRec g
  let x := s.gate g
  let src := (s.crossing r.src).value
  Prog.outcome (Prog.when (g < s.rbt.gateCount ∧ r.kind = 1 ∧ x.started = true
      ∧ s.rbt.replay = false ∧ atLeast src (r.expected x.p) = false)
    (bindSource g src true)) s

/-- Copy the newest snapshot to gate `g`'s bound slot (R303, R387). The header's expected value
has no meaning for an intake gate and is a free value. -/
def bindSnapshot (g : Nat) (used : Prog := .skip) : Prog :=
  .look fun s =>
    let r := s.gateRec g
    let p := (s.gate g).p
    .seq (.act (.draw 4)) <|
      bindGate g (leNat (s.freeBytes 4)) s.snapSeq 0
        ((s.retBytes snapBase 1088 ++ zeros r.size).take r.size) false
        (.seq (logEntry 2 g 0 (p % zeroAsOne r.boundSlots) p s.snapSeq) used)

/-- GATE_BIND_INTAKE: gate `g` binds the newest intake snapshot; in replay, the logged one, and
a snapshot that has been overtaken ends the replay. -/
def execGateBindIntake (g : Nat) (s : State) : Host.Outcome State Fault Refusal :=
  let r := s.gateRec g
  let x := s.gate g
  Prog.outcome (Prog.when (g < s.rbt.gateCount ∧ r.kind = 2 ∧ x.started = true) <|
    match (if s.rbt.replay then s.replayFind 2 g x.p else none) with
    | some e =>
      if s.snapSeq = e.pn then bindSnapshot g (replayUsed e)
      else if atLeast s.snapSeq e.pn then .seq diverge (bindSnapshot g)
      else .skip
    | none => bindSnapshot g) s

/-! ### COMPOSE (R236, R300) -/

/-- The ring layer of a COMPOSE: its index and track, with RING_EN set. -/
def ringOf (d : List Byte) : Option (Nat × Nat) :=
  let sel := param d 3 1
  if bitN sel 0 = 1 then some (bits sel 3 1, bits sel 6 4) else none

/-- At the dispatch of a COMPOSE its ring layer reads the stand chosen last. -/
def takeRing (i : Nat) (st : Stop) : Prog :=
  match ringOf st.desc with
  | none => .skip
  | some (_, t) => .look fun s => match (s.track t).shown with
    | none => .skip
    | some c => Prog.when (c.kind ≠ 3)
        (modRbt fun r => { r with ringReads := r.ringReads ++ [(i, t, c.stand)] })

/-- Byte offset of the ring stand within the ring layer's range; none where the choice was
NONE. -/
def State.ringStand (s : State) (i : Nat) : Option (Nat × Nat) :=
  (s.rbt.ringReads.find? fun e => e.1 == i).map fun e => (e.2.1, e.2.2)

/-- The pieces a COMPOSE reads: of the ring layer's range only the chosen stand. -/
def composePieces (s : State) (o : OpenStop) : List (Nat × Nat) :=
  match ringOf o.stop.desc with
  | none => o.stop.piecesOf false
  | some (l, _) =>
    let k := (layerAt o.stop.desc l).range
    ((upTo o.stop.ranges.length).map fun j =>
      if (rangeAt o.stop.desc j).rd = false then []
      else if j ≠ k then o.stop.rangePieces j
      else match s.ringStand o.slot with
        | none => []
        | some (t, n) => o.stop.pieces k (s.trkStride t / 4096 + 2) (n * s.trkStride t)
            (s.trkStride t)).flatten

/-- A source pixel of a layer, whose image stands `off` bytes into its range. -/
def State.layerPix (s : State) (o : OpenStop) (off : Nat) (l : Layer) (x y : Nat) : List Int :=
  rgbaOf l.fmt (s.rbs o l.range (off + y * l.pitch + pixBytes l.fmt * x) (pixBytes l.fmt))

def composeWork (i : Nat) (s : State) (o : OpenStop) : Prog :=
  let d := o.stop.desc
  let p := composeParam d
  let ring := ringOf d
  let isRing (n : Nat) : Bool := ring.any fun r => r.1 == n
  let off (n : Nat) : Nat :=
    if isRing n then ((s.ringStand o.slot).map fun e => e.2 * s.trkStride e.1).getD 0 else 0
  let idx := (upTo p.layers).filter fun n => !(isRing n && (s.ringStand o.slot).isNone)
  let bg := [bits p.background 7 0, bits p.background 15 8, bits p.background 23 16]
  writeWhole i o p.dst <| padRows p.dw p.dh p.pitch fun x y =>
    let rgb := idx.foldl (fun acc n =>
      let l := layerAt d n
      l.over (s.layerPix o (off n) l) x y acc) bg
    let out := (rgb.map fun c => leBytes 1 c).flatten
    if p.fmt = 3 then out ++ [0xFF] else out

/-- COMPOSE: the stop in slot `i`. -/
def execCompose (i : Nat) (s : State) : Host.Outcome State Fault Refusal :=
  Prog.outcome (runStopOn i 0x12 composePieces (composeWork i)) s

end Sys2Proof.Machine
end

