-- ==== Sys2Proof/Machine/HighVoltage.lean ====
section
/-! DEFINITION. The high-voltage side: the kill line, the serial crossing, the boost, the LED
sinks, the NTC channels and the backlight (chapter 12, R349 to R376). -/

namespace Sys2Proof.Machine

/-! ### Registers on both sides -/

/-- RWP register of the HVS block with index `n` (offset / 8) of a WRITE frame. -/
def hvsRegOf (n : Nat) : Option (Reg × Nat) :=
  if n = 0 then some (R.HVS_CTRL, 0)
  else if n = 1 then some (R.HVS_BOOST_CFG, 0)
  else if n = 2 then some (R.HVS_VBAT_LIM, 0)
  else if n = 3 then some (R.HVS_PWM, 0)
  else if n < 12 then some (if n % 2 = 0 then R.HVS_SINK else R.HVS_DUTY, (n - 4) / 2)
  else if n < 18 then some (if n % 2 = 0 then R.HVS_NTC_CFG else R.HVS_NTC_THR, (n - 12) / 2)
  else if n = 18 then some (R.HVS_DERATE, 0)
  else none

/-- Register word as the HV side applied it. -/
def State.hvWord (s : State) (n : Nat) : Nat :=
  (keyGet s.hv.hvRegs n).getD (match hvsRegOf n with
    | none => 0
    | some (r, i) => resetWord s.ident r (r.at i 0))

/-- A field of a register on the HV side. -/
def State.hvFld (s : State) (f : Field) (i : Nat := 0) : Nat :=
  bits (s.hvWord ((f.reg.at i 0 - 0xF0500000) / 8)) f.hi f.lo

def State.sink (s : State) (k : Nat) : Sink := nth Sink.reset s.hv.sinks k
def State.ntc (s : State) (c : Nat) : Ntc := nth Ntc.reset s.hv.ntcs c

def modSink (k : Nat) (f : Sink → Sink) : Prog :=
  modHv fun h => { h with sinks := upd h.sinks k (f (nth Sink.reset h.sinks k)) }
def modNtc (c : Nat) (f : Ntc → Ntc) : Prog :=
  modHv fun h => { h with ntcs := upd h.ntcs c (f (nth Ntc.reset h.ntcs c)) }

/-- The HV side is powered and the kill line is released. -/
def State.hvUp (s : State) : Bool := s.hv.powered && !s.hv.kill

/-! ### The crossing: the HVS block's side (R352, R353) -/

/-- The newest 16 frames of a direction. -/
def noteFrame (l : List XFrame) (f : XFrame) : List XFrame := (l ++ [f]).drop (l.length - 15)

/-- Send the next waiting WRITE, where none awaits its ACK. -/
def hvsPump : Prog :=
  modHv fun h => match h.unacked, h.waiting with
    | none, (a, v) :: t =>
      let f : XFrame := ⟨1, h.seq % 16, a, v⟩
      { h with unacked := some f, waiting := t, seq := (h.seq + 1) % 16, resends := 0,
               hvsTx := noteFrame h.hvsTx f }
    | _, _ => h

/-- Forward a committed register: WRITE frames go in commit order. -/
def hvsForward (n v : Nat) : Prog :=
  .seq (modHv fun h => { h with waiting := h.waiting ++ [(n, v)] }) hvsPump

/-- The HVS block uses its complement pairs; it forwards what it repairs (R19). -/
def useHvs : Prog :=
  .look fun s => Prog.each (s.badPairs [0x50]) fun h => .seq (usePair h.r h.i h.j)
    (hvsForward ((h.r.at h.i h.j - 0xF0500000) / 8) (resetWord s.ident h.r (h.r.at h.i h.j)))

/-- A commit of an RWP register of the HVS block. -/
def hvsCommit (n v : Nat) : Prog :=
  match hvsRegOf n with
  | none => .skip
  | some (r, i) => .seq (setReg r v i) (hvsForward n v)

/-- Send a frame that is not a WRITE. -/
def hvsSend (typ : Nat) : Prog :=
  modHv fun h => { h with seq := (h.seq + 1) % 16,
                          hvsTx := noteFrame h.hvsTx ⟨typ, h.seq % 16, 0, 0⟩ }

/-- A frame the HV side sends. -/
def hvSend (typ seq addr data : Nat) : Prog :=
  modHv fun h => { h with hvTx := noteFrame h.hvTx ⟨typ, seq, addr, data⟩ }

/-! ### Derating (R372, R373) -/

/-- Percentage of NTC channel `c` from its VALUE (Table 12-7). -/
def State.ntcPct (s : State) (c : Nat) : Nat :=
  let v := (s.ntc c).value
  let start := s.hvFld F.HVS_NTC_THR_START c
  let full := s.hvFld F.HVS_NTC_THR_FULL c
  let m := min 100 (s.hvFld F.HVS_NTC_CFG_MIN_PCT c)
  if start ≤ v then 100
  else if v ≤ full then m
  else 100 - (100 - m) * (start - v) / (start - full)

/-- The derating of sink `k`. -/
def State.sinkPct (s : State) (k : Nat) : Nat :=
  let base := if s.lamp.thermStep = 3 then 70 else 100
  (upTo 3).foldl (fun p c =>
    if bitN (s.hvFld F.HVS_NTC_CFG_SINKS c) k = 1 then
      (if (s.ntc c).state = 3 then min p (min 40 (s.hvFld F.HVS_DERATE_BREAK_PCT))
       else if (s.ntc c).state = 0 then p else min p (s.ntcPct c))
    else p) base

/-! ### Gating (R374) -/

/-- Output `x` names sink `k` in its BL_SINKS in force. -/
def Output.names (o : Output) (k : Nat) : Bool := bitN (bits o.outCfg 20 17) k == 1

/-- The output is running, starting or in a change. -/
def Output.active (o : Output) : Bool :=
  o.phase != 0 || o.startDue || o.pllWait || o.panel != .none || o.idleHold
    || o.stop == .changeBoth || o.stop == .changeOne

/-- Sink `k` is gated on. -/
def State.gatedOn (s : State) (k : Nat) : Bool :=
  (s.sco.outs.any fun o => o.names k && o.blEnable)
    && !(s.sco.outs.any fun o => o.names k && o.active && o.holdSinks)
    && s.hv.boost == 2 && !(s.hv.safe && s.hv.safeExpired) && s.hvUp

/-- A sink may draw current. -/
def State.sinkAllowed (s : State) (k : Nat) : Bool :=
  s.gatedOn k && s.hvFld F.HVS_SINK_EN k == 1 && !(s.sink k).isOpen && !(s.sink k).isShort
    && s.sinkPct k != 0

/-- Bring a sink up to its registers: in an off-time the values in force change at once, in an
on-time only a request for 0 is noted (R364). While a range change settles, CODE, RANGE and
DUTY stay (R365). -/
def settleSink (k : Nat) : Prog :=
  .look fun s =>
    let pct := s.sinkPct k
    modSink k fun x =>
      if x.on then { x with zeroReq := x.zeroReq || !s.sinkAllowed k }
      else
        let duty := if x.settling then x.duty else s.hvFld F.HVS_DUTY_DUTY k
        { x with
          gated := s.gatedOn k
          en := s.hvFld F.HVS_SINK_EN k == 1
          phase := s.hvFld F.HVS_SINK_PHASE k
          code := if x.settling then x.code else s.hvFld F.HVS_SINK_CODE k
          range := if x.settling then x.range else s.hvFld F.HVS_SINK_RANGE k
          duty := duty
          pct := pct
          dutyEff := duty * pct / 100
          zeroReq := false }

def settleSinks : Prog := Prog.each (upTo 4) settleSink

/-- BL_GATE low and every sink off at once. -/
def sinksOff : Prog :=
  modHv fun h => { h with sinks := h.sinks.map fun x =>
    { x with on := false, gated := false, zeroReq := false } }

/-- Every sink that output `x` names is at 0 (R344). -/
def State.sinksDark (s : State) (x : Nat) : Bool :=
  let o := nth Output.reset s.sco.outs x
  (upTo 4).all fun k => !o.names k || (!(s.sink k).on && !(s.sink k).gated)

/-! ### Boost (R356, R359, R360) -/

/-- The boost starts where it may (R359). -/
def boostStart : Prog :=
  .look fun s => Prog.when (s.hvUp = true ∧ s.hv.boost = 0 ∧ s.hv.vbatOk = true
      ∧ s.hv.restartDue = false ∧ s.hvFld F.HVS_CTRL_BOOST_EN = 1)
    (modHv fun h => { h with boost := 1, target := max 200 h.target })

/-- The running period of the boost ends. -/
def boostStop : Prog := .seq
  (modHv fun h => { h with boost := if h.boost = 3 then 3 else 0, retries := 0, restartDue := false })
  settleSinks

/-- Some output is running or starting. -/
def State.anyOutput (s : State) : Bool := s.sco.outs.any fun o => o.phase != 0 || o.startDue

/-! ### The kill line (R350) -/

/-- KILL_LINE_ASSERT: gate and sinks off, and the HV side's registers at their reset values. -/
def assertKill : Prog :=
  modHv fun h => { h with
    kill := true
    hvRegs := []
    lastSeq := none
    safe := false
    safeExpired := false
    vbatCode := 0
    vbatOk := false
    vbatOut := 0
    vbatIn := 0
    vbatStop := false
    boost := 0
    retries := 0
    restartDue := false
    target := 0
    overvoltage := false
    period := 1250
    sinks := List.replicate 4 Sink.reset
    ntcs := List.replicate 3 Ntc.reset }

def execKillLineAssert (s : State) : Host.Outcome State Fault Refusal := Prog.outcome assertKill s

/-- KILL_LINE_RELEASE: once the self-test has passed. -/
def execKillLineRelease (s : State) : Host.Outcome State Fault Refusal :=
  Prog.outcome (Prog.when (s.live = true) (modHv fun h => { h with kill := false })) s

/-! ### Range change (R365) -/

/-- DUTY_new of a range change of sink `k` to `code` and `range`, and whether it is clamped.
0 / 0 is a free value. -/
def State.rangeDuty (s : State) (k code range : Nat) : Nat × Bool :=
  let x := s.sink k
  let r (n : Nat) : Nat := if n = 1 then 4 else 1
  let num := s.hvFld F.HVS_DUTY_DUTY k * x.code * r x.range
  let den := code * r range
  if den = 0 then
    (if num = 0 then ((Config.freeValue s.free).toNat % 65536, false) else (65535, true))
  else (min 65535 (rheNat num den), decide (65535 < rheNat num den))

/-- The HV side applies a word of HVS_SINK_k: one that changes RANGE starts a range change. -/
def applySink (k v : Nat) : Prog :=
  .look fun s =>
    let code := bits v 9 0
    let range := bitN v 12
    let d := s.rangeDuty k code range
    .seq (modHv fun h => { h with hvRegs := keyPut h.hvRegs (4 + 2 * k) v }) <|
      if range ≠ (s.sink k).range then Prog.all [
        .act (.draw 1),
        modSink k fun x => { x with settling := true, settled := false, newDuty := d.1 },
        Prog.when (d.2 = true) (setF F.HVS_EVENT_CLAMP 1),
        settleSink k]
      else .seq (modSink k fun x => { x with settling := false, settled := false }) (settleSink k)

/-- The switch of a range change: range, code and duty in one step; the new duty is written
back and journaled with port HV. -/
def switchRange (k : Nat) : Prog :=
  .look fun s =>
    let n := (s.sink k).newDuty
    Prog.all [
      appendChange ⟨5, 1, 0, R.HVS_DUTY.at k 0, s.rd R.HVS_DUTY k, n, 4, 0⟩,
      setReg R.HVS_DUTY n k,
      modHv fun h => { h with hvRegs := keyPut h.hvRegs (5 + 2 * k) n },
      modSink k fun x => { x with settling := false, settled := false },
      settleSink k]

/-- RANGE_CHANGE: a commit of HVS_SINK_k that changes RANGE; its WRITE crosses, and the HV side
starts the change. -/
def execRangeChange (k v : Nat) (s : State) : Host.Outcome State Fault Refusal :=
  Prog.outcome (Prog.when (k < 4 ∧ bitN v 12 ≠ s.fld F.HVS_SINK_RANGE k) <|
    .seq (hvsCommit (4 + 2 * k) (v &&& 0xFF33FF))
      (.look fun t => Prog.when (t.hvUp = true) (applySink k (v &&& 0xFF33FF)))) s

/-- RANGE_SETTLED: the new reference of sink `k` has settled for 20 µs. -/
def execRangeSettled (k : Nat) (s : State) : Host.Outcome State Fault Refusal :=
  Prog.outcome (Prog.when (k < 4 ∧ (s.sink k).settling = true) <|
    if (s.sink k).on then modSink k fun x => { x with settled := true } else switchRange k) s

/-! ### Frames (R351 to R353) -/

/-- Channel `c` after its NTC_CFG word: EN set starts as HOLDING, EN clear turns it off. -/
def applyNtcCfg (c v : Nat) : Prog :=
  modNtc c fun x =>
    if bitN v 0 = 0 then { x with state := 0, badRun := 0, goodRun := 0, converting := false }
    else if x.state = 0 then { x with state := 2, badRun := 0, goodRun := 0 } else x

/-- The HV side applies a WRITE. -/
def hvApply (n v : Nat) : Prog :=
  match hvsRegOf n with
  | none => .skip
  | some _ =>
    if 4 ≤ n ∧ n < 12 ∧ n % 2 = 0 then applySink ((n - 4) / 2) v
    else Prog.all [
      modHv fun h => { h with hvRegs := keyPut h.hvRegs n v },
      Prog.when (12 ≤ n ∧ n < 18 ∧ n % 2 = 0) (applyNtcCfg ((n - 12) / 2) v),
      settleSinks]

/-- HV_WRITE: a valid WRITE frame reaches the HV side. -/
def execHvWrite (seq addr data : Nat) (s : State) : Host.Outcome State Fault Refusal :=
  Prog.outcome (Prog.when (s.hv.powered = true) <| Prog.all [
    useHvs,
    Prog.when (s.hv.lastSeq ≠ some (seq % 16)) <| Prog.all [
      modHv fun h => { h with lastSeq := some (seq % 16) },
      Prog.when (s.hv.kill = false) (hvApply addr data),
      -- the last register of a resynchronisation ends SAFE
      Prog.when (s.hv.resyncing = true ∧ s.hv.waiting = []) <|
        .seq (modHv fun h => { h with safe := false, safeExpired := false })
          (.seq (if s.anyOutput then boostStart else .skip) settleSinks)],
    hvSend 2 (seq % 16) 0 0]) s

/-- The words that the HVS block sends anew after a resynchronisation, in offset order. -/
def State.hvsWords (s : State) : List (Nat × Nat) :=
  (upTo 19).filterMap fun n => (hvsRegOf n).map fun r => (n, s.rd r.1 r.2)

/-- HV_ACK: an ACK reaches the HVS block. -/
def execHvAck (seq : Nat) (s : State) : Host.Outcome State Fault Refusal :=
  Prog.outcome
    (if s.hv.linkLost then Prog.all [
      modHv fun h => { h with linkLost := false, resyncing := true, unacked := none, resends := 0,
                              waiting := s.hvsWords },
      setF F.HVS_STATUS_LINK_LOST 0,
      hvsPump]
    else match s.hv.unacked with
      | none => .skip
      | some f => Prog.when (f.seq = seq % 16) <| Prog.all [
          modHv fun h => { h with unacked := none, resends := 0,
                                  resyncing := h.resyncing && h.waiting != [] },
          hvsPump]) s

/-- Status words that cross: index (offset − 0xA0) / 4. -/
def statusIndexes : List Nat := [0, 2, 3, 4, 5, 6, 8, 9, 10, 11, 13]

/-- HV_STATUS: a STATUS frame reaches the HVS block, which keeps the copy. LINK_LOST is the
block's own bit. -/
def execHvStatus (idx data : Nat) (s : State) : Host.Outcome State Fault Refusal :=
  Prog.outcome (Prog.when (statusIndexes.contains idx = true) <|
    .act (.reg (0xF05000A0 + 4 * idx)
      (if idx = 0 then setBits data 1 1 (s.fld F.HVS_STATUS_LINK_LOST) else data))) s

/-- A status word of the HV side. -/
def State.hvStatusWord (s : State) (idx : Nat) : Nat :=
  let b (n : Nat) (c : Bool) : Nat := if c then 2 ^ n else 0
  if idx = 0 then b 0 s.hv.ign + b 2 s.hv.safe + 8 * s.hv.boost + b 5 s.hv.vbatOk
    + 64 * min 3 s.hv.retries
  else if idx = 2 then s.hv.vbatCode + 10 * s.hv.vbatCode % 65536 * 65536
  else if idx = 3 then s.hv.target
  else if 4 ≤ idx ∧ idx < 7 then
    let x := s.ntc (idx - 4)
    x.value + x.lastA * 4096 + x.state * 2 ^ 24 + x.badRun * 2 ^ 26 + x.cls * 2 ^ 30
  else if 8 ≤ idx ∧ idx < 12 then
    let x := s.sink (idx - 8)
    x.dutyEff + x.pct * 65536 + b 24 x.isOpen + b 25 x.isShort + b 26 x.gated + b 27 x.settling
  else s.rd R.HVS_BOOST_COUNT

/-- HV_HEARTBEAT: the HV side answers with its status words in turn. -/
def execHvHeartbeat (seq : Nat) (s : State) : Host.Outcome State Fault Refusal :=
  Prog.outcome (Prog.when (s.hv.powered = true) <|
    Prog.each statusIndexes fun i => hvSend 3 (seq % 16) i (s.hvStatusWord i)) s

/-- HV_RESYNC: the HV side acknowledges, and takes the next WRITE whatever its SEQ. -/
def execHvResync (seq : Nat) (s : State) : Host.Outcome State Fault Refusal :=
  Prog.outcome (Prog.when (s.hv.powered = true) <|
    .seq (modHv fun h => { h with lastSeq := none }) (hvSend 2 (seq % 16) 0 0)) s

/-- HV_ACK_TIMEOUT: 20 µs without an ACK; up to 3 resends, after which the WRITE is given up to
the resynchronisation. -/
def execHvAckTimeout (s : State) : Host.Outcome State Fault Refusal :=
  Prog.outcome (match s.hv.unacked with
    | none => .skip
    | some f =>
      if s.hv.resends < 3 then .seq
        (modHv fun h => { h with resends := h.resends + 1, hvsTx := noteFrame h.hvsTx f })
        (bump F.HVS_XING_COUNT_RESEND)
      else .seq (modHv fun h => { h with unacked := none, resends := 0 }) hvsPump) s

/-- HV_HEARTBEAT_TIMER: 100 µs without another frame. -/
def execHvHeartbeatTimer (s : State) : Host.Outcome State Fault Refusal :=
  Prog.outcome (Prog.when (s.live = true) (hvsSend 4)) s

/-- HV_SIDE_LINK_LOSS: the HV side enters SAFE. -/
def execHvSideLinkLoss (s : State) : Host.Outcome State Fault Refusal :=
  Prog.outcome (Prog.when (s.hvUp = true ∧ s.hv.safe = false)
    (modHv fun h => { h with safe := true, safeExpired := false })) s

/-- SAFE_HOLD_EXPIRE: LINK_HOLD has passed in SAFE. -/
def execSafeHoldExpire (s : State) : Host.Outcome State Fault Refusal :=
  Prog.outcome (Prog.when (s.hv.safe = true) <| Prog.all [
    modHv fun h => { h with safeExpired := true },
    boostStop,
    sinksOff]) s

/-- HV_LINK_LOST: the HVS block loses the link. -/
def execHvLinkLost (s : State) : Host.Outcome State Fault Refusal :=
  Prog.outcome (Prog.when (s.live = true ∧ s.hv.linkLost = false) <| Prog.all [
    modHv fun h => { h with linkLost := true, resyncing := false, unacked := none, waiting := [] },
    setF F.HVS_STATUS_LINK_LOST 1,
    raise 0x5002 unitHub,
    hvsSend 5]) s

/-- HV_RESYNC_TIMER: 10 ms since the last RESYNC. -/
def execHvResyncTimer (s : State) : Host.Outcome State Fault Refusal :=
  Prog.outcome (Prog.when (s.hv.linkLost = true) (hvsSend 5)) s

/-- HV_FRAME_MISMATCH: a receiver of either side discards a frame. -/
def execHvFrameMismatch (s : State) : Host.Outcome State Fault Refusal :=
  Prog.outcome (.seq (bump F.HVS_XING_COUNT_MISMATCH) (raiseSecond 0x5001 unitHub)) s

/-! ### Battery and boost commands -/

def State.uvLimit (s : State) : Nat := clampNat 500 900 (s.hvFld F.HVS_VBAT_LIM_UV)
def State.ovLimit (s : State) : Nat := 10 * clampNat 180 360 (s.hvFld F.HVS_VBAT_LIM_OV)

/-- VBAT_CONVERSION: a conversion of the battery voltage, 10 mV a code. -/
def execVbatConversion (code : Nat) (s : State) : Host.Outcome State Fault Refusal :=
  let c := min code 4095
  let out := decide (c < s.uvLimit) || decide (s.ovLimit < c)
  let inner := decide (s.uvLimit + 50 ≤ c) && decide (c + 50 ≤ s.ovLimit)
  Prog.outcome (Prog.when (s.hvUp = true) <| Prog.all [
    modHv fun h => { h with
      vbatCode := c
      vbatOut := (if out then min 2 (h.vbatOut + 1) else 0)
      vbatIn := (if inner then min 10 (h.vbatIn + 1) else 0) },
    .look fun t =>
      if t.hv.vbatOut = 2 ∧ t.hv.vbatStop = false then Prog.all [
        modHv fun h => { h with vbatStop := true, vbatOk := false, restartDue := false,
                                boost := (if h.boost = 3 then 3 else 0) },
        sinksOff,
        bump F.HVS_BOOST_COUNT_FAULTS,
        raise 0x500B unitHub]
      else Prog.when (t.hv.vbatIn = 10 ∧ t.hv.vbatOk = false) <| Prog.all [
        modHv fun h => { h with vbatStop := false, vbatOk := true },
        (if t.anyOutput then boostStart else .skip),
        settleSinks]]) s

/-- HEADROOM_UPDATE: the loop moves its target by 5 mV; `meas`: voltages (mV) measured across
sinks at the end of qualifying on-times in the last 100 µs. -/
def execHeadroomUpdate (meas : List (Nat × Nat)) (s : State) : Host.Outcome State Fault Refusal :=
  let goal := 10 * clampNat 50 150 (s.hvFld F.HVS_BOOST_CFG_HEADROOM)
  let vs := (meas.filter fun m => (s.sink m.1).en && !(s.sink m.1).isOpen && !(s.sink m.1).isShort).map
    fun m => m.2
  Prog.outcome (Prog.when (s.hvUp = true ∧ s.hv.boost = 2) <| match vs.min? with
    | none => .skip
    | some v => modHv fun h => { h with target :=
        (if v < goal then clampNat 200 1200 (h.target + 5)
         else if goal < v then clampNat 200 1200 (h.target - 5) else h.target) }) s

/-- BOOST_SOFT_START_DONE: the ramp ends and the boost is ready. -/
def execBoostSoftStartDone (s : State) : Host.Outcome State Fault Refusal :=
  Prog.outcome (Prog.when (s.hv.boost = 1) <|
    .seq (modHv fun h => { h with boost := 2 }) settleSinks) s

/-- BOOST_IDLE_STOP: for 1 ms no output has run and every sink has been off. -/
def execBoostIdleStop (s : State) : Host.Outcome State Fault Refusal :=
  Prog.outcome (Prog.when (s.anyOutput = false ∧ s.hv.sinks.all (fun x => !x.on) = true
      ∧ (s.hv.boost = 1 ∨ s.hv.boost = 2)) boostStop) s

/-- BOOST_OVERVOLTAGE: BL_FB reaches 1.25 V (`on`), or falls below it again. -/
def execBoostOvervoltage (on : Bool) (s : State) : Host.Outcome State Fault Refusal :=
  Prog.outcome
    (if on then Prog.when (s.hv.overvoltage = false ∧ s.hvUp = true) <| Prog.all [
      modHv fun h => { h with overvoltage := true },
      bump F.HVS_BOOST_COUNT_OVP,
      raiseSecond 0x5005 unitHub]
    else modHv fun h => { h with overvoltage := false }) s

/-- BOOST_NO_REGULATION: a boost fault. The fourth one of a running period, after three
restarts, latches the boost off. -/
def execBoostNoRegulation (s : State) : Host.Outcome State Fault Refusal :=
  Prog.outcome (Prog.when (s.hv.boost = 2) <| Prog.all [
    raise 0x5006 unitHub,
    bump F.HVS_BOOST_COUNT_FAULTS,
    (if 3 ≤ s.hv.retries then .seq
      (modHv fun h => { h with boost := 3, restartDue := false }) (raise 0x5007 unitHub)
     else modHv fun h => { h with boost := 0, restartDue := true }),
    sinksOff]) s

/-- BOOST_RESTART: 100 ms after a boost fault. -/
def execBoostRestart (s : State) : Host.Outcome State Fault Refusal :=
  Prog.outcome (Prog.when (s.hv.restartDue = true ∧ s.hvUp = true) <|
    modHv fun h => { h with restartDue := false, retries := h.retries + 1, boost := 1,
                            target := max 200 h.target }) s

/-- Effect of HVS_CMD CLEAR. -/
def hvsClear : Prog := .seq
  (modHv fun h => { h with
    boost := if h.boost = 3 then 0 else h.boost
    retries := if h.boost = 3 then 0 else h.retries
    sinks := h.sinks.map fun x =>
      { x with isOpen := false, isShort := false, openRun := 0, shortRun := 0 } })
  settleSinks

/-- HVS_CLEAR: a write of 0xC1 to HVS_CMD. -/
def execHvsClear (s : State) : Host.Outcome State Fault Refusal := Prog.outcome hvsClear s

/-! ### PWM (R363, R364, R367) -/

/-- Period in reference ticks. -/
def State.pwmPeriod (s : State) : Nat :=
  let f := clampNat 100 25000 (s.hvFld F.HVS_PWM_FREQ)
  (50000000 + f) / (2 * f)

/-- On-time of a duty in a period of `p` ticks. -/
def onTime (duty p : Nat) : Nat :=
  let t := duty * p / 65536
  if t = 0 then 0 else if t < 25 then 25 else min t (p - 25)

/-- Sink `k` at a period start. -/
def State.startOnTime (s : State) (h : Hv) (k : Nat) : Sink :=
  let x := nth Sink.reset h.sinks k
  let n := onTime x.dutyEff h.period
  if s.sinkAllowed k && n != 0 && !x.on then { x with on := true, onTicks := n } else x

/-- PWM_PERIOD_START: a period starts, and each sink's on-time begins at its phase offset. -/
def execPwmPeriodStart (s : State) : Host.Outcome State Fault Refusal :=
  Prog.outcome (Prog.when (s.hvUp = true) <| Prog.all [
    useHvs,
    modHv fun h => { h with period := s.pwmPeriod },
    settleSinks,
    .look fun t => modHv fun h => { h with sinks := (upTo 4).map (t.startOnTime h) }]) s

/-- String detection at the end of an on-time of at least 2 µs: the sink's voltage in mV. -/
def detectString (k mv : Nat) : Prog :=
  .look fun s =>
    let x := s.sink k
    let op := decide (mv < 200) && (s.hv.target == 1200 || s.hv.overvoltage)
    let sh := decide (6000 < mv) && s.hv.boost == 2
    let n := if op then x.openRun + 1 else 0
    let m := if sh then x.shortRun + 1 else 0
    Prog.when (50 ≤ x.onTicks) <| Prog.all [
      modSink k fun y => { y with openRun := n, shortRun := m,
                                  isOpen := y.isOpen || decide (8 ≤ n),
                                  isShort := y.isShort || decide (8 ≤ m) },
      Prog.when (8 ≤ n ∧ x.isOpen = false) (raise 0x5003 unitHub k),
      Prog.when (8 ≤ m ∧ x.isShort = false) (raise 0x5004 unitHub k)]

/-- After an on-time: a settled range change switches, and pending values take effect. -/
def endOnTime (k : Nat) : Prog := .seq
  (modSink k fun x => { x with on := false })
  (.look fun s => if (s.sink k).settled then switchRange k else settleSink k)

/-- SINK_ON_TIME_END: the on-time of sink `k` ends with `mv` millivolts across it. -/
def execSinkOnTimeEnd (k mv : Nat) (s : State) : Host.Outcome State Fault Refusal :=
  Prog.outcome (Prog.when (k < 4 ∧ (s.sink k).on = true)
    (.seq (detectString k mv) (endOnTime k))) s

/-- SINK_ZERO_TIMEOUT: 1 ms after a request for 0 the on-time of sink `k` still lasts. -/
def execSinkZeroTimeout (k : Nat) (s : State) : Host.Outcome State Fault Refusal :=
  Prog.outcome (Prog.when (k < 4 ∧ (s.sink k).on = true ∧ (s.sink k).zeroReq = true)
    (endOnTime k)) s

/-! ### NTC (R369 to R372) -/

/-- NTC_CONVERSION_START: channel `c`'s slot in the 10 ms cycle. -/
def execNtcConversionStart (c : Nat) (s : State) : Host.Outcome State Fault Refusal :=
  Prog.outcome (Prog.when (c < 3 ∧ s.hvUp = true ∧ s.hvFld F.HVS_NTC_CFG_EN c = 1)
    (modNtc c fun x => { x with converting := true })) s

/-- Class of a conversion (Table 12-6): 0 good, 1 open, 2 short. -/
def ntcClass (a b : Nat) : Nat := if 4080 ≤ a ∨ a + 24 < b then 1 else if a < 16 then 2 else 0

/-- Channel after a conversion with samples A and B (R371). -/
def Ntc.after (x : Ntc) (a b : Nat) : Ntc :=
  let k := ntcClass a b
  if k = 0 then
    { x with value := a, lastA := a, cls := 0, badRun := 0, goodRun := min 3 (x.goodRun + 1),
             state := (if x.state = 3 ∧ x.goodRun + 1 < 3 then 3 else 1), converting := false }
  else
    { x with lastA := a, cls := k, goodRun := 0, badRun := min 15 (x.badRun + 1),
             state := (if 4 ≤ x.badRun + 1 ∨ x.state = 3 then 3 else 2), converting := false }

/-- NTC_CONVERSION_END: sample B of channel `c` is taken; `a`, `b`: the codes of both. -/
def execNtcConversionEnd (c a b : Nat) (s : State) : Host.Outcome State Fault Refusal :=
  let x := s.ntc c
  let y := x.after (min a 4095) (min b 4095)
  Prog.outcome (Prog.when (c < 3 ∧ x.converting = true) <| Prog.all [
    modNtc c fun _ => y,
    Prog.when (y.cls ≠ 0) (raiseSecond 0x5008 unitHub c c),
    Prog.when (y.state = 3 ∧ x.state ≠ 3) (raise 0x5009 unitHub c),
    .look fun t =>
      let low := y.state != 3 && decide (t.ntcPct c < 100)
      Prog.when (y.state ≠ 3) <| .seq
        (Prog.when (low = true ∧ x.derated = false) (raise 0x500A unitHub c))
        (modNtc c fun z => { z with derated := low }),
    settleSinks]) s

/-! ### Backlight (R375) -/

def modOut (x : Nat) (f : Output → Output) : Prog :=
  modSco fun c => { c with outs := upd c.outs x (f (nth Output.reset c.outs x)) }

/-- Output `x` gives its backlight enable. -/
def giveBacklight (x : Nat) : Prog := .seq
  (modOut x fun o => { o with blEnable := true, holdSinks := false, blDelay := false })
  settleSinks

/-- BL_ON_DELAY_EXPIRE: BL_ON_DELAY after output `x`'s first complete frame. The first enable of
a start is the moment the splash is visible (R79). -/
def execBlOnDelayExpire (x : Nat) (s : State) : Host.Outcome State Fault Refusal :=
  Prog.outcome (Prog.when (x < 2 ∧ (nth Output.reset s.sco.outs x).blDelay = true) <| Prog.all [
    Prog.when (s.rd R.BOOT_TIME_SPLASH = 0)
      (setReg R.BOOT_TIME_SPLASH ((s.lamp.tick + 2 ^ 48 - s.lamp.wakingAt) % 2 ^ 32)),
    giveBacklight x]) s

end Sys2Proof.Machine
end

