-- ==== Sys2Proof/Machine/Signpost.lean ====
section
/-! DEFINITION. The Signpost plane: icons, their check and the icon SRAM (chapter 11, R333 to
R342, and R404). -/

namespace Sys2Proof.Machine

/-! ### The Signpost status message (R340, R404) -/


/-- Put a frame in a controller's queue; the status message goes ahead of GSP responses (R379). -/
def canQueue (q : List CanTx) (f : CanTx) : List CanTx :=
  if f.status then q.filter (·.status) ++ [f] ++ q.filter (fun g => !g.status) else q ++ [f]

def modCanAt (c : Nat) (f : CanCtl → CanCtl) : Prog :=
  modCan fun l => upd l c (f (nth CanCtl.reset l c))

/-- The status message as controller `c` sends it. -/
def State.statusFrame (s : State) (c : Nat) : CanTx :=
  ⟨true, s.fld F.SVC_STATUS_MSG_ID, s.flag F.SVC_STATUS_MSG_EXT, s.flag F.CAN_CTRL_FD c, false,
   leBytes 4 (s.rd R.SGN_FAIL_LO) ++ leBytes 4 (s.rd R.SGN_FAIL_HI), s.time⟩

/-- Queue the Signpost status message on the controllers named in SVC_STATUS_MSG.CTRL. A
controller sends nothing before loader step 2, and GSP only on a twin secondary (R379). -/
def queueStatus : Prog := .seq (useRegs [R.SVC_STATUS_MSG, R.CAN_CTRL]) <|
  .look fun s => Prog.each (upTo 2) fun c =>
    Prog.when (bitN (s.fld F.SVC_STATUS_MSG_CTRL) c = 1 ∧ s.flag F.CAN_CTRL_EN c = true
        ∧ 2 ≤ s.boot.phase ∧ s.secondary = false)
      (modCanAt c fun k => { k with queue := canQueue k.queue (s.statusFrame c) })

/-- Some SGN_FAIL bit is set. -/
def State.anyIconFailed (s : State) : Bool := s.rd R.SGN_FAIL_LO != 0 || s.rd R.SGN_FAIL_HI != 0

/-- SIGNPOST_STATUS_REPEAT: the message again, while a bit stays set. -/
def execSignpostStatusRepeat (s : State) : Host.Outcome State Fault Refusal :=
  Prog.outcome (Prog.when (s.anyIconFailed = true) queueStatus) s

/-! ### Icons (R333 to R339) -/

def State.iconAt (s : State) (n : Nat) : Icon := nth Icon.reset s.sgn.icons n

def modIcon (n : Nat) (f : Icon → Icon) : Prog :=
  modSgn fun g => { g with icons := upd g.icons n (f (nth Icon.reset g.icons n)) }

def Icon.en (i : Icon) : Bool := bitN i.pos 31 == 1
def Icon.out (i : Icon) : Nat := bitN i.pos 30
def Icon.prove (i : Icon) : Bool := bitN i.pos 28 == 1
def Icon.x (i : Icon) : Nat := bits i.pos 11 0
def Icon.y (i : Icon) : Nat := bits i.pos 27 16
def Icon.w (i : Icon) : Nat := bits i.fmt 5 0 + 1
def Icon.h (i : Icon) : Nat := bits i.fmt 13 8 + 1
def Icon.colour (i : Icon) (slot : Nat) : Nat := bits i.fmt (19 + 4 * slot) (16 + 4 * slot)

/-- The latched pair agrees (R335). -/
def Icon.pairOk (i : Icon) : Bool := i.stC == 3 - i.st

/-- Icon `n` is in its on-phase on this line (R335, R336). -/
def State.iconOn (s : State) (i : Icon) : Bool :=
  let st := if i.pairOk then i.st else 1
  let frame := s.rd R.SCO_FRAME
  let ctrl := nth 0 s.sgn.ctrl i.out
  st == 1 || (st == 2 && frame / zeroAsOne (bits ctrl 23 16) % 2 == 0)
    || (st == 3 && frame / zeroAsOne (bits ctrl 31 24) % 2 == 0)
    || (decide (frame < bits ctrl 15 8) && i.prove)

/-- The 64-bit word of byte `a` of the icon SRAM has an uncorrectable error. -/
def State.iconBad (s : State) (a : Nat) : Bool :=
  s.sgn.errs.any fun e => e.uncorrectable && e.word == a / 8

/-- A packed RGB word as a pixel. -/
def rgbPix (v : Nat) : Pix := ⟨v % 256, v / 256 % 256, v / 65536 % 256⟩

/-- Pixel (u, v) of icon `n` with its alpha (R333, R341). -/
def State.iconPix (s : State) (n : Nat) (i : Icon) (u v : Nat) : Pix × Nat :=
  if s.iconOn i then
    let a := 4096 * n + 64 * v + u
    let b := if s.iconBad a then 0x3F else (s.byte .icon a).toNat
    let a6 := b % 64
    (rgbPix (nth 0 s.sgn.pal (i.colour (b / 64))), a6 * 4 + a6 / 16)
  else (⟨0, 0, 0⟩, 0)

/-- The pixels icon `n` emits on active line `y` of output `x`. -/
def State.iconRow (s : State) (x y n : Nat) : Option (List (Pix × Nat)) :=
  let i := s.iconAt n
  if bitN (nth 0 s.sgn.ctrl x) 0 == 1 && i.en && i.out == x && decide (i.y ≤ y)
      && decide (y < i.y + i.h)
  then some ((upTo i.w).map fun u => s.iconPix n i u (y - i.y)) else none

/-- Icon `n` is marked failed (R340). -/
def markFailed (n : Nat) : Prog :=
  .look fun s =>
    let f := if n < 32 then F.SGN_FAIL_LO_FAIL else F.SGN_FAIL_HI_FAIL
    Prog.when (bitN (s.fld f) (n % 32) = 0) (.seq (setFBit f (n % 32) true) queueStatus)

/-- A mismatch of icon `n`. -/
def iconMismatch (n code : Nat) : Prog := Prog.all [
  bump F.SGN_CHECK_COUNT_MISMATCH,
  setF F.SGN_STATUS_LAST_FAIL n,
  raise code unitSgn n,
  markFailed n]

/-- Words of the icon SRAM that an icon's row touches and that are in error (R341). -/
def iconErrs (n v w : Nat) : Prog :=
  .look fun s =>
    let a := 4096 * n + 64 * v
    let es := s.sgn.errs.filter fun e => a < 8 * e.word + 8 && 8 * e.word < a + w
    let ce := es.filter fun e => !e.uncorrectable
    Prog.all [
      Prog.when (ce ≠ []) (.seq (bump F.SGN_ECC_COUNT_CE ce.length)
        (modSgn fun g => { g with errs := g.errs.filter fun e => !ce.contains e })),
      Prog.each (es.filter (·.uncorrectable)) fun e => Prog.all [
        bump F.SGN_ECC_COUNT_UE,
        raise 0x4203 unitSgn,
        markFailed n,
        requestIconRepair (8 * e.word)]]

/-- Bytes R, G, B, A of emitted pixels. -/
def rgbaBytes (l : List (Pix × Nat)) : List Byte :=
  (l.map fun p => leBytes 1 p.1.r ++ leBytes 1 p.1.g ++ leBytes 1 p.1.b ++ leBytes 1 p.2).flatten

/-- End of the last line of icon `n`: the comparison of R338. -/
def iconCheck (n : Nat) : Prog :=
  .look fun s =>
    let i := s.iconAt n
    if i.changed then bump F.SGN_CHECK_COUNT_SKIPPED
    else Prog.when ((i.crc ^^^ 0xFFFFFFFF) ≠ (if s.iconOn i then i.crcOn else i.crcOff))
      (iconMismatch n 0x4201)

/-- Icon `n` is drawn on active line `y` of output `x`: its CRC and its checks go on; `bad`: an
opaque pixel was composed as another colour (R339). -/
def iconLine (x y n : Nat) (bad : Bool) : Prog :=
  .look fun s => match s.iconRow x y n with
    | none => .skip
    | some row =>
      let i := s.iconAt n
      let key := i.st + 4 * i.stC
      Prog.all [
        Prog.when (y = i.y) (modIcon n fun k =>
          { k with crc := 0xFFFFFFFF, first := key, changed := false, opaqueBad := false }),
        modIcon n fun k => { k with
          crc := (rgbaBytes row).foldl (crcByte 0xEDB88320) k.crc
          changed := k.changed || k.first != key },
        Prog.when (s.iconOn i = true) (iconErrs n (y - i.y) i.w),
        Prog.when (bad = true ∧ (s.iconAt n).opaqueBad = false ∧ row.any (fun p => p.2 == 255) = true)
          (.seq (modIcon n fun k => { k with opaqueBad := true }) (iconMismatch n 0x4202)),
        Prog.when (y + 1 = i.y + i.h) (iconCheck n)]

/-- Every icon state and its complement are latched (R334), and a pair that disagrees is
reported (R335). -/
def latchIcons : Prog :=
  .look fun s => .seq
    (modSgn fun g => { g with icons := (upTo 64).map fun n =>
      { nth Icon.reset g.icons n with
        st := bits (s.rd R.SGN_STATE (n / 16)) (2 * (n % 16) + 1) (2 * (n % 16)),
        stC := bits (s.rd R.SGN_STATE_C (n / 16)) (2 * (n % 16) + 1) (2 * (n % 16)) } })
    (.look fun t => Prog.each (upTo 64) fun n =>
      Prog.when ((t.iconAt n).en = true ∧ (t.iconAt n).pairOk = false) (raiseSecond 0x4205 unitSgn 0 n))

/-- At a vsync of output `x` the committed registers of its icons take effect (R337). -/
def takeSgnRegs (x : Nat) : Prog :=
  .look fun s => modSgn fun g => { g with
    ctrl := upd g.ctrl x (s.rd R.SGN_CTRL)
    icons := (upTo 64).map fun n =>
      let i := nth Icon.reset g.icons n
      let pos := s.rd R.SGN_ICON_POS n
      if bitN pos 30 = x ∨ (i.en && i.out == x) then
        (if bitN pos 30 = x then
          { i with pos := pos, fmt := s.rd R.SGN_ICON_FMT n, crcOn := s.rd R.SGN_ICON_CRC_ON n,
                   crcOff := s.rd R.SGN_ICON_CRC_OFF n }
         else { i with pos := 0 })
      else i }

/-- At a generator frame start the palette takes effect. -/
def takePalette : Prog :=
  .look fun s => modSgn fun g => { g with pal := (upTo 16).map fun c => s.rd R.SGN_PAL c }

/-! ### Enabling icons (R337) -/

/-- Rectangle of icon `n` from its committed registers. -/
def State.iconRect (s : State) (n : Nat) : Icon :=
  { Icon.reset with pos := s.rd R.SGN_ICON_POS n, fmt := s.rd R.SGN_ICON_FMT n }

def Icon.overlaps (a b : Icon) : Bool :=
  decide (a.x < b.x + b.w) && decide (b.x < a.x + a.w) && decide (a.y < b.y + b.h)
    && decide (b.y < a.y + a.h)

/-- Icon `n`'s rectangle may be enabled. -/
def State.iconPlaceOk (s : State) (n : Nat) (i : Icon) : Bool :=
  decide (i.x + i.w ≤ s.fld F.SCO_H_TIM_HACT) && decide (i.y + i.h ≤ s.fld F.SCO_V_TIM_VACT)
    && (upTo 64).all fun m => m == n || !(s.iconRect m).en || (s.iconRect m).out != i.out
      || !(s.iconRect m).overlaps i

/-- Number of enabled icons (SGN_STATUS.ENABLED). -/
def State.iconsEnabled (s : State) : Nat := countIf (fun n => (s.iconRect n).en) (upTo 64)

/-- A commit of SGN_ICON_POS_n. -/
def iconPosCommit (n v : Nat) : Prog :=
  .look fun s =>
    let i : Icon := { s.iconRect n with pos := v }
    if i.en && !s.iconPlaceOk n i then
      .seq (setReg R.SGN_ICON_POS (setBits v 31 31 0) n) (raise 0x4204 unitSgn)
    else setReg R.SGN_ICON_POS v n

/-- ICON_ENABLE: a commit of SGN_ICON_POS_n with EN = 1. -/
def execIconEnable (n v : Nat) (s : State) : Host.Outcome State Fault Refusal :=
  Prog.outcome (Prog.when (n < 64) (iconPosCommit n ((v &&& 0x5FFF0FFF) ||| 0x80000000))) s

/-! ### The icon SRAM (R342) -/

/-- An access of `w` (a write) or a read through SGN_SRAM_DATA; the address then advances. A
write to a word of an enabled icon is answered with an error and has no effect. -/
def sramAccess (write : Option Nat) : Prog :=
  .look fun s =>
    let a := s.fld F.SGN_SRAM_ADDR_WORD * 4
    let step := setF F.SGN_SRAM_ADDR_WORD ((a / 4 + 1) % 65536)
    match write with
    | none => .seq (respond (s.num .icon a 4)) step
    | some v =>
      if (s.iconRect (a / 4096)).en then respondError
      else Prog.all [
        store .icon a (leBytes 4 v),
        respond 0,
        step]

/-- SGN_SRAM_ACCESS. -/
def execSgnSramAccess (write : Bool) (v : Nat) (s : State) : Host.Outcome State Fault Refusal :=
  Prog.outcome (sramAccess (if write then some (v % 2 ^ 32) else none)) s

/-- Bytes of a section of the image, from the flash or, in a Bridge boot, as received. -/
def State.sectBytes (s : State) (x : Sect) (off n : Nat) : List Byte :=
  if s.boot.overBridge then s.bytes .img (x.offset + off) n
  else s.bytes .flash (s.boot.imageBase + x.offset + off) n

/-- Icon pages that a repair has read again take effect at a frame start, with the bytes that the repair
checked (R103, R341). -/
def applyIconRepairs : Prog :=
  .look fun s => .seq
    (Prog.each s.sgn.repaired fun e => .seq (store .icon e.2.1 e.2.2)
      (modSgn fun g => { g with errs := g.errs.filter fun x => x.word / 512 != e.1 }))
    (modSgn fun g => { g with repaired := [] })

end Sys2Proof.Machine
end

