-- ==== Sys2Proof/Machine/ScanOut.lean ====
section
/-! DEFINITION. Scan-out: the timing generator, the planes and their composition, outputs
starting, stopping and changing, and low-power DSI packets (chapter 11, R312 to R332 and R343
to R348). -/

namespace Sys2Proof.Machine

def State.output (s : State) (x : Nat) : Output := nth Output.reset s.sco.outs x

/-! ### PLLs (Table 02-4) -/

/-- Take the lock from PLLs, to be locked anew. -/
def unlockPlls (m : Nat) : Prog :=
  .look fun s => setF F.SYS_PLL_STATUS_LOCK (clearMask (s.fld F.SYS_PLL_STATUS_LOCK) m)

/-- Stop PLLs. -/
def stopPlls (m : Nat) : Prog :=
  .seq (modLamp fun l => { l with pllReq := clearMask l.pllReq m }) (unlockPlls m)

/-- Every output has stopped. -/
def State.displaysStopped (s : State) : Bool := s.sco.outs.all fun o => o.phase == 0

/-- What QUIET stops once the displays have stopped (R43): every gateable unit is clock-gated, the
TILE, ARRAY, PIX, DPHY and DDR PLLs stop and the LPDDR4X goes to self-refresh. -/
def quietGate : Prog :=
  .look fun s => Prog.when (s.lamp.power = .quiet ∧ s.lamp.quietGated = false
      ∧ s.displaysStopped = true) <| Prog.all [
    modLamp fun l => { l with quietGated := true, quietPlls := l.pllReq &&& 0x86 },
    setReg R.SYS_GATE_STATUS (setBits (s.rd R.SYS_GATE_STATUS) 28 0 0),
    stopPlls 0xFE,
    modAve fun v => { v with ddrSelfRefresh := v.ddrInit }]

/-! ### Configuration (R312, R313, R316, R322) -/

/-- Words in force of the timing generator. -/
structure Timing where
  hact : Nat
  htotal : Nat
  hsync : Nat
  hbp : Nat
  vact : Nat
  vtotal : Nat
  vsync : Nat
  vbp : Nat
  khz : Nat
  deriving DecidableEq, Repr

def timingOf (w : List Nat) : Timing :=
  let f (i hi lo : Nat) : Nat := bits (nth 0 w i) hi lo
  ⟨f 0 11 0, f 0 27 16, f 1 9 0, f 1 25 16, f 2 10 0, f 2 27 16, f 3 7 0, f 3 23 16, f 4 17 0⟩

/-- The committed timing words. -/
def State.timingWords (s : State) : List Nat :=
  [s.rd R.SCO_H_TIM, s.rd R.SCO_H_SYNC, s.rd R.SCO_V_TIM, s.rd R.SCO_V_SYNC, s.rd R.SCO_PCLK,
   s.rd R.SCO_TE]

def State.timing (s : State) : Timing := timingOf s.sco.timing

/-- First active line. -/
def Timing.top (t : Timing) : Nat := t.vsync + t.vbp

/-- DSEL strap of output `x`: high selects LVDS. -/
def State.lvdsStrap (s : State) (x : Nat) : Bool :=
  if x = 0 then s.lamp.straps.dselA else s.lamp.straps.dselB

/-- SCO_OUT_CFG names the interface that the strap selects. -/
def ifaceOk (lvds : Bool) (cfg : Nat) : Bool :=
  if lvds then bits cfg 1 0 == 2 else decide (bits cfg 1 0 < 2)

/-- Bits a pixel takes on a DSI stream. -/
def streamBits (fmt : Nat) : Nat := if fmt = 1 then 18 else if fmt = 3 then 16 else 24

/-- The committed configuration of output `x` meets the interface rules (R312, R313). -/
def State.ifaceRules (s : State) (x : Nat) : Bool :=
  let cfg := s.rd R.SCO_OUT_CFG x
  let khz := s.fld F.SCO_PCLK_KHZ
  let rate := s.fld F.SCO_DPHY_RATE x
  let lanes := s.fld F.SCO_OUT_CFG_LANES x
  ifaceOk (s.lvdsStrap x) cfg && decide (25000 ≤ khz)
    && (if s.lvdsStrap x then decide (khz ≤ 112000) && decide (bits cfg 5 4 < 2)
        else decide (khz ≤ 210000) && decide (lanes < 3) && decide (80 ≤ rate)
          && decide (rate ≤ 2500)
          && decide (11 * khz * streamBits (bits cfg 5 4) ≤ 10000 * 2 ^ lanes * rate))

/-- The interface rules that concern registers of output `x` committed so far. A rule that needs a
register still at its reset word waits for that register (DEDUCED, assumption 125). -/
def State.ifaceHeld (s : State) (x : Nat) : Bool :=
  let cfg := s.rd R.SCO_OUT_CFG x
  let khz := s.fld F.SCO_PCLK_KHZ
  let rate := s.fld F.SCO_DPHY_RATE x
  let lanes := s.fld F.SCO_OUT_CFG_LANES x
  if s.lvdsStrap x then bits cfg 1 0 != 2 || (decide (khz ≤ 112000) && decide (bits cfg 5 4 < 2))
  else bits cfg 1 0 == 2 || (decide (lanes < 3)
    && (rate == 0 || (decide (80 ≤ rate) && decide (rate ≤ 2500)
      && decide (11 * khz * streamBits (bits cfg 5 4) ≤ 10000 * 2 ^ lanes * rate))))

/-- The committed timing meets R313. -/
def State.timingRules (s : State) : Bool :=
  let t := timingOf s.timingWords
  decide (16 ≤ t.hact) && decide (t.hact ≤ 2560) && decide (16 ≤ t.vact) && decide (t.vact ≤ 1080)
    && decide (1 ≤ t.hsync) && decide (1 ≤ t.hbp) && decide (t.hact + t.hsync + t.hbp < t.htotal)
    && decide (t.hact + 32 ≤ t.htotal)
    && decide (1 ≤ t.vsync) && decide (1 ≤ t.vbp) && decide (t.vact + t.vsync + t.vbp < t.vtotal)
    && decide (t.vact + 8 ≤ t.vtotal)
    && decide (1000 * t.khz ≤ 120 * t.htotal * t.vtotal)

/-- The rules of R313 that concern timing registers committed so far. A rule that needs a register
still at its reset word waits for that register (DEDUCED, assumption 125). -/
def State.timingHeld (s : State) : Bool :=
  let t := timingOf s.timingWords
  let set (k : Nat) : Bool := nth 0 s.timingWords k != 0
  (!set 0 || (decide (16 ≤ t.hact) && decide (t.hact ≤ 2560) && decide (t.hact + 32 ≤ t.htotal)))
    && (!set 1 || (decide (1 ≤ t.hsync) && decide (1 ≤ t.hbp)))
    && (!(set 0 && set 1) || decide (t.hact + t.hsync + t.hbp < t.htotal))
    && (!set 2 || (decide (16 ≤ t.vact) && decide (t.vact ≤ 1080) && decide (t.vact + 8 ≤ t.vtotal)))
    && (!set 3 || (decide (1 ≤ t.vsync) && decide (1 ≤ t.vbp)))
    && (!(set 2 && set 3) || decide (t.vact + t.vsync + t.vbp < t.vtotal))
    && (!set 4 || (decide (25000 ≤ t.khz) && decide (t.khz ≤ 210000)))
    && (!(set 0 && set 2 && set 4) || decide (1000 * t.khz ≤ 120 * t.htotal * t.vtotal))

/-- The decision line of output `x` meets R316 for an output fetched in this mode, and its
compositor line is a line. -/
def State.linesRule (s : State) (x : Nat) (prefill : Bool) : Bool :=
  let t := timingOf s.timingWords
  let l12 := (12 * t.khz + 1000 * t.htotal - 1) / (1000 * t.htotal)
  let d := s.fld F.SCO_LINES_DLINE x
  decide (s.fld F.SCO_LINES_CLINE x < t.vtotal)
    && (if prefill then decide (d + l12 ≤ t.top + t.vact)
        else decide (d + l12 ≤ t.vtotal + (t.top - 2)))

/-- R316 on a commit of SCO_LINES_x, once the timing it needs has been committed. -/
def State.linesHeld (s : State) (x : Nat) : Bool :=
  ([0, 2, 3, 4].any fun k => nth 0 s.timingWords k == 0)
    || s.linesRule x (s.flag F.SCO_OUT_CFG_FETCH x)

/-- Outputs that run, start or are in a change. -/
def State.outsInUse (s : State) : List Nat := (upTo 2).filter fun x => (s.output x).active

/-- The committed configuration holds for these outputs together; `prefill`: how each is fetched. -/
def State.scoOk (s : State) (xs : List Nat) (prefill : Nat → Bool) : Bool :=
  let cmd (x : Nat) : Bool := s.fld F.SCO_OUT_CFG_IFACE x == 1
  xs == [] || (s.timingRules && xs.all (fun x => s.ifaceRules x && s.linesRule x (prefill x))
    && (!xs.any cmd || xs.all cmd))

/-- Output `x` is set up for prefill fetching (SCO_OUT_CFG_x.FETCH). -/
def State.fetchSet (s : State) (x : Nat) : Bool := s.flag F.SCO_OUT_CFG_FETCH x

/-- The committed configuration holds for the outputs in use, and for what has been committed so far
of the others (R312). -/
def State.scoHeld (s : State) : Bool :=
  s.timingHeld && s.ifaceHeld 0 && s.ifaceHeld 1 && s.scoOk s.outsInUse s.fetchSet

/-- Apply a commit, unless the configuration it leaves breaks the rules: then it is discarded
with fault 0x4106 (R312). -/
def scoGuard (x : Nat) (set : Prog) (ok : State → Bool) (after : Prog) : Prog :=
  .look fun s => if ok (set.run s) then .seq set after else raise 0x4106 (unitSco x)

/-- Size of plane `p` of output `x`: the base plane's is the active area. -/
def State.planeW (s : State) (x p : Nat) : Nat :=
  if p = 0 then (timingOf s.timingWords).hact else s.fld F.SCO_PL_SIZE_W x p
def State.planeH (s : State) (x p : Nat) : Nat :=
  if p = 0 then (timingOf s.timingWords).vact else s.fld F.SCO_PL_SIZE_H x p

/-- Plane `p` of output `x` lies within the active area, and its rows fit its pitch (R322). -/
def State.planeShape (s : State) (x p : Nat) : Bool :=
  let t := timingOf s.timingWords
  let fmt := s.fld F.SCO_PL_CFG_FMT x p
  let w := s.planeW x p
  let h := s.planeH x p
  let pitch := s.fld F.SCO_PL_PITCH_BYTES x p
  decide (fmt < 3) && decide (1 ≤ w) && decide (1 ≤ h)
    && decide ((if p = 0 then 0 else s.fld F.SCO_PL_POS_X x p) + w ≤ t.hact)
    && decide ((if p = 0 then 0 else s.fld F.SCO_PL_POS_Y x p) + h ≤ t.vact)
    && pitch % 64 == 0 && decide (w * planeBytes fmt ≤ pitch)

/-- A frame of plane `p` fits a stand of its track, and the stands lie in memory: those of a base
plane in frame-store mode within the reservation of `fs` bytes (R118). -/
def State.planePlace (s : State) (x p : Nat) (prefill : Bool) (fs : Nat) : Bool :=
  let k := 3 * x + p
  let top := s.trkBase k + s.trkStands k * s.trkStride k
  decide (s.fld F.SCO_PL_PITCH_BYTES x p * s.planeH x p ≤ s.trkStride k)
    && (if p = 0 ∧ prefill = false then decide (top ≤ fs)
        else s.inMemory (s.trkBase k) (s.trkStands k * s.trkStride k))

/-- Plane `p` of output `x` may be fetched; where its stands lie counts from hand-over on. -/
def State.planeOk (s : State) (x p : Nat) (prefill : Bool) : Bool :=
  s.planeShape x p
    && (!s.boot.handedOver || s.planePlace x p prefill (s.rd R.AVE_FS_SIZE))

/-! ### Starting (R343, R345, R347) -/

/-- PLLs output `x` needs: PIX_A for the generator, PIX_x, and DPHY_x for DSI. -/
def State.outPlls (s : State) (x : Nat) : Nat :=
  8 ||| 2 ^ (3 + x) ||| (if s.lvdsStrap x then 0 else 2 ^ (5 + x))

/-- The generator starts with the committed timing: its first line 0 is due. -/
def startGenerator : Prog :=
  .look fun s => .seq (setReg R.SCO_FRAME 0) <| modSco fun c => { c with
    genRun := true
    line := 0
    timing := s.timingWords
    due := !(s.sco.outs.any fun o => o.startDue && bits o.outCfg 1 0 == 1)
    frameAt := none
    freerun := false
    teWait := none }

/-- Output `x`'s PLLs are locked: it begins at the generator's next frame start. -/
def armOutput (x : Nat) : Prog := Prog.all [
  modOut x fun o => { o with pllWait := false, startDue := true },
  .look fun s => Prog.when (s.sco.genRun = false) startGenerator]

/-- Scan-out acquires a STABLE lock on output `x`'s splash image (R321, R122). -/
def lockSplash (x : Nat) : Prog :=
  .look fun s => match s.splash x with
    | none => .skip
    | some p => Prog.when (s.showedSplash x = true ∧ (s.output x).splashGone = false
        ∧ (s.output x).splashLock = false) <| .seq
      (acquireLock p.page p.pages 1 (.unit (unitSco x)))
      (modOut x fun o => { o with splashLock := true })

/-- Start output `x` with `black` black frames; a twin secondary drives no output (R27). Before
hand-over the splash is fetched in frame-store mode (R78). -/
def launchOutput (x black : Nat) (blFirst restore : Bool) : Prog :=
  .look fun s => Prog.when (s.secondary = false) <| .seq
    (firstWrite ([.combo x] ++ if bits (s.rd R.SCO_OUT_CFG x) 1 0 = 1 then [.te x] else [])) <| .seq
    (modOut x fun o => { o with
      blackLeft := black
      blFirst := blFirst
      restoreSinks := restore
      outCfg := s.rd R.SCO_OUT_CFG x
      dphy := s.rd R.SCO_DPHY x
      prefill := s.boot.handedOver && s.fetchSet x
      idleHold := false
      quietStop := false
      pllWait := true
      dphyOn := !s.lvdsStrap x })
    (.seq (requestPlls (s.outPlls x)) <| .seq (lockSplash x) <|
      Prog.when (s.pllsLocked (s.outPlls x) = true) (armOutput x))

/-- The loader lets output `x` run: a commit of EN made before the loader's own start of the output
starts nothing (R74), nor does one for an output whose script failed (R99), and in service wait no
output runs (R73). -/
def State.outputsAllowed (s : State) (x : Nat) : Bool :=
  (if x = 0 then s.boot.outStartedA && !s.boot.outFailedA else s.boot.outStartedB && !s.boot.outFailedB)
    && decide (3 ≤ s.boot.phase) && decide (s.boot.phase < 8)

/-- Start output `x` for a commit of EN = 1: a panel that was powered down is powered up
first (R347). -/
def startOutput (x : Nat) : Prog :=
  .look fun s =>
    let o := s.output x
    Prog.when (o.active = false ∧ s.secondary = false ∧ s.outputsAllowed x = true
        ∧ s.lamp.power = .running
        ∧ s.rcl.retired.contains (unitSco x) = false) <|
      if o.panelOff then .seq
        (modPorts fun p => { p with panelEn := upd p.panelEn x true })
        (modOut x fun y => { y with panel := .upEn })
      else launchOutput x 0 true false

/-- An output whose PLLs have all locked starts. -/
def armWaiting : Prog :=
  Prog.each (upTo 2) fun x => .look fun s =>
    Prog.when ((s.output x).pllWait = true ∧ s.pllsLocked (s.outPlls x) = true) (armOutput x)

/-- Output `x` takes the sleep and display commands (SCO_PANEL_SEQ.DCS, DSI only). -/
def State.usesDcs (s : State) (x : Nat) : Bool :=
  s.flag F.SCO_PANEL_SEQ_DCS x && !s.lvdsStrap x

/-! ### Stopping (R344, R346, R347) -/

/-- Drive PANEL_RST_x low and wait T_RST. -/
def panelDown (x : Nat) : Prog := .seq
  (modPorts fun p => { p with panelRst := upd p.panelRst x false })
  (modOut x fun o => { o with panel := .downRst })

/-- The generator stops once no output runs or is about to. -/
def stopGenerator : Prog :=
  .look fun s => Prog.when (s.sco.outs.all (fun o => o.phase == 0 && !o.startDue) = true)
    (modSco fun c => { c with genRun := false, freerun := false, due := false, teWait := none })

/-- Output `x` has stopped. -/
def finishStop (x : Nat) : Prog :=
  .look fun s =>
    let o := s.output x
    let dcs := s.usesDcs x && o.stop != .fault
    let change := o.stop == .changeBoth || o.stop == .changeOne
    Prog.all [
      modOut x fun y => { y with
        phase := 0
        blEnable := false
        blDelay := false
        restoreSinks := false
        blackLeft := 0
        slept := dcs
        dcs := (if dcs then 0x10 else y.dcs)
        idleHold := change
        stop := (if change then y.stop else .none)
        quietStop := y.stop == .quiet
        dphyOn := y.dphyOn && y.stop != .quiet
        lpWait := false
        line := [] },
      fetchedOutput x,
      stopTracks x,
      freeLease (130 + x),
      settleSinks,
      Prog.when (o.stop ≠ .changeOne ∧ o.stop ≠ .fault) stopGenerator,
      (match o.stop with
       | .disable => panelDown x
       | .quiet =>
         if s.lamp.power = .running then
           Prog.when (bitN (s.rd R.SCO_CTRL) x = 1) (launchOutput x 2 false false)
         else quietGate
       | _ => .skip)]

/-- Begin a display stop of output `x`: its sinks go to 0 and it stops at the first frame end
after that. An output that is starting or in a change stops where it stands (R346). -/
def stopOutput (x : Nat) (kind : StopKind) : Prog :=
  .look fun s =>
    let o := s.output x
    if o.phase = 3 then
      Prog.when (o.stop = .changeBoth ∨ o.stop = .changeOne ∨ o.stop = .fault)
        (modOut x fun y => { y with stop := kind })
    else if o.phase ≠ 0 then .seq
      (modOut x fun y => { y with
        phase := 3, stop := kind, holdSinks := true, blDelay := false, restoreSinks := false })
      settleSinks
    else Prog.when (o.active = true) <| Prog.all [
      modOut x fun y => { y with
        startDue := false, pllWait := false, idleHold := false, stop := .none, holdSinks := true,
        quietStop := kind == .quiet },
      stopGenerator,
      (if kind = .disable ∧ o.panel ≠ .downRst then panelDown x
       else modOut x fun y => { y with panel := (if y.panel = .downRst then .downRst else .none) })]

/-- The displays stop for QUIET or for the park sequence. -/
def stopDisplays (kind : StopKind) : Prog := .seq
  (Prog.each (upTo 2) fun x => stopOutput x kind)
  (modSco fun c => { c with changeQueued := false })

/-- The displays restart: on leaving QUIET with two black frames, after an aborted park through
their start sequence (R44, R48). -/
def restartDisplays : Prog :=
  Prog.each (upTo 2) fun x => .look fun s =>
    Prog.when (bitN (s.rd R.SCO_CTRL) x = 1) <|
      if (s.output x).quietStop && !(s.output x).active then launchOutput x 2 false false
      else startOutput x

/-! ### Changes (R345, R346) -/

/-- A change is in progress after its step 3, or before it. -/
def Output.changing (o : Output) : Bool := o.stop == .changeBoth || o.stop == .changeOne
def Output.beforeStep3 (o : Output) : Bool := o.changing && (o.phase == 3 || o.idleHold)

/-- A committed change of the timing registers concerns both outputs. -/
def changeBoth : Prog :=
  .look fun s => Prog.when (s.timingWords ≠ s.sco.timing ∧ s.sco.outs.any (fun o =>
      o.phase != 0 || o.changing) = true) <|
    if s.sco.outs.any fun o => o.changing && !o.beforeStep3 then
      modSco fun c => { c with changeQueued := true }
    else Prog.each (upTo 2) fun x => .look fun t =>
      if (t.output x).changing then modOut x fun o => { o with stop := .changeBoth }
      else Prog.when ((t.output x).phase = 1 ∨ (t.output x).phase = 2) (stopOutput x .changeBoth)

/-- A committed change of SCO_OUT_CFG_x or SCO_DPHY_x. -/
def changeOne (x : Nat) : Prog :=
  .look fun s =>
    let o := s.output x
    if o.outCfg = s.rd R.SCO_OUT_CFG x ∧ o.dphy = s.rd R.SCO_DPHY x then .skip
    else if o.changing then
      (if o.beforeStep3 then .skip else modSco fun c => { c with changeQueued := true })
    else if o.phase = 1 ∨ o.phase = 2 then stopOutput x .changeOne
    else Prog.when (o.phase = 0) <| .seq
      (modOut x fun y => { y with outCfg := s.rd R.SCO_OUT_CFG x, dphy := s.rd R.SCO_DPHY x })
      settleSinks

/-- The idle hold of output `x` is over: reprogram, relock what changes, and restart. -/
def reprogram (x : Nat) : Prog :=
  .look fun s =>
    let o := s.output x
    Prog.when (o.idleHold = true) <| Prog.all [
      unlockPlls ((if o.stop = .changeBoth then 2 ^ (3 + x) ||| 8 else 0)
        ||| (if o.dphy ≠ s.rd R.SCO_DPHY x then 2 ^ (5 + x) else 0)),
      launchOutput x 2 false true]

/-- MODE_CHANGE_IDLE_END. -/
def execModeChangeIdleEnd (x : Nat) (s : State) : Host.Outcome State Fault Refusal :=
  Prog.outcome (Prog.when (x < 2 ∧ (s.output x).idleHold = true) <|
    if (s.output x).stop = .changeBoth then
      Prog.when (s.sco.outs.all (fun o => o.stop != .changeBoth || o.idleHold) = true)
        (Prog.each (upTo 2) fun y => .look fun t =>
          Prog.when ((t.output y).stop = .changeBoth) (reprogram y))
    else reprogram x) s

/-- The end of the last step of a change of output `x`: a queued one starts. -/
def endChange (x : Nat) : Prog := Prog.all [
  modOut x fun o => { o with stop := .none },
  .look fun s => Prog.when (s.sco.changeQueued = true ∧ s.sco.outs.any Output.changing = false) <|
    Prog.all [
      modSco fun c => { c with changeQueued := false },
      changeBoth,
      changeOne 0,
      changeOne 1]]

/-! ### Commits -/

/-- A commit of SCO_CTRL. -/
def scoCtrlCommit (v : Nat) : Prog :=
  .look fun s =>
    let old := s.rd R.SCO_CTRL
    let on := (upTo 2).filter fun x => bitN v x = 1 ∧ bitN old x = 0
    let off := (upTo 2).filter fun x => bitN v x = 0 ∧ bitN old x = 1
    scoGuard 0 (setReg R.SCO_CTRL v)
      (fun t => on = [] || t.scoOk ((t.outsInUse ++ on).dedup) t.fetchSet)
      (.seq (Prog.each off fun x => stopOutput x .disable) (Prog.each on startOutput))

/-- Timing register `k`: H_TIM, H_SYNC, V_TIM, V_SYNC, PCLK, TE. -/
def timingReg (k : Nat) : Reg :=
  nth R.SCO_TE [R.SCO_H_TIM, R.SCO_H_SYNC, R.SCO_V_TIM, R.SCO_V_SYNC, R.SCO_PCLK, R.SCO_TE] k

/-- A commit of a timing register. -/
def scoTimingCommit (k v : Nat) : Prog :=
  scoGuard 0 (setReg (timingReg k) v) (fun t => (k == 5 || v != 0) && t.scoHeld) changeBoth

/-- Prefill mode needs LPDDR4X (Table 01-5), whose presence is known at hand-over. -/
def State.prefillFits (s : State) (x : Nat) : Bool :=
  !s.boot.handedOver || !s.fetchSet x || s.ave.ddrBytes != 0

/-- A commit of SCO_OUT_CFG_x: one that names the other interface is always refused. -/
def scoCfgCommit (x v : Nat) : Prog :=
  .look fun s => scoGuard x (setReg R.SCO_OUT_CFG v x)
    (fun t => ifaceOk (s.lvdsStrap x) v && t.scoHeld && t.prefillFits x) (changeOne x)

def scoDphyCommit (x v : Nat) : Prog :=
  scoGuard x (setReg R.SCO_DPHY v x)
    (fun t => (t.lvdsStrap x || t.fld F.SCO_DPHY_RATE x != 0) && t.scoHeld) (changeOne x)

def scoLinesCommit (x v : Nat) : Prog :=
  scoGuard x (setReg R.SCO_LINES v x) (fun t => t.linesHeld x) .skip

/-- A commit of SCO_PL_CFG_x_p. -/
def scoPlaneCommit (x p v : Nat) : Prog :=
  scoGuard x (setReg R.SCO_PL_CFG v x p) (fun t => bitN v 0 == 0 || t.planeOk x p (t.fetchSet x)) .skip

/-- OUTPUT_ENABLE: a commit of SCO_CTRL with EN_x = 1. -/
def execOutputEnable (x : Nat) (s : State) : Host.Outcome State Fault Refusal :=
  Prog.outcome (Prog.when (x < 2) (scoCtrlCommit (setBits (s.rd R.SCO_CTRL) x x 1))) s

/-- OUTPUT_DISABLE: a commit of SCO_CTRL with EN_x = 0. -/
def execOutputDisable (x : Nat) (s : State) : Host.Outcome State Fault Refusal :=
  Prog.outcome (Prog.when (x < 2) (scoCtrlCommit (setBits (s.rd R.SCO_CTRL) x x 0))) s

/-- DISPLAY_MODE_CHANGE: a commit of timing register `k` (0 to 5), of SCO_OUT_CFG_A or _B (6, 7)
or of SCO_DPHY_A or _B (8, 9). -/
def execDisplayModeChange (k v : Nat) (s : State) : Host.Outcome State Fault Refusal :=
  Prog.outcome
    (if k < 6 then scoTimingCommit k (v &&& (timingReg k).rw)
     else if k < 8 then scoCfgCommit (k - 6) (v &&& R.SCO_OUT_CFG.rw)
     else Prog.when (k < 10) (scoDphyCommit (k - 8) (v &&& R.SCO_DPHY.rw))) s

/-- COLOUR_RANGE_CHANGE: a commit of SCO_OUT_CFG_x that changes RANGE. -/
def execColourRangeChange (x range : Nat) (s : State) : Host.Outcome State Fault Refusal :=
  Prog.outcome (Prog.when (x < 2) (scoCfgCommit x (setBits (s.rd R.SCO_OUT_CFG x) 7 7 range))) s

/-- PANEL_SEQUENCE_WAIT_END: the wait of output `x`'s panel sequence ends. -/
def execPanelSequenceWaitEnd (x : Nat) (s : State) : Host.Outcome State Fault Refusal :=
  Prog.outcome (Prog.when (x < 2) <| match (s.output x).panel with
    | .none => .skip
    | .wake => modOut x fun o => { o with panel := .none, dcs := 0x29 }
    | .upEn => .seq (modPorts fun p => { p with panelRst := upd p.panelRst x true })
        (modOut x fun o => { o with panel := .upRst })
    | .upRst =>
      if s.usesDcs x then modOut x fun o => { o with panel := .upSleep, dcs := 0x11 }
      else .seq (modOut x fun o => { o with panel := .none, panelOff := false })
        (launchOutput x 2 false false)
    | .upSleep => .seq
        (modOut x fun o => { o with panel := .none, panelOff := false, dcs := 0x29 })
        (launchOutput x 2 false false)
    | .downRst => Prog.all [
        modPorts fun p => { p with panelEn := upd p.panelEn x false },
        modOut x fun o => { o with panel := .none, panelOff := true },
        Prog.when (bitN (s.rd R.SCO_CTRL) x = 1 ∧ s.lamp.parkStep = 0) (startOutput x)]) s

/-! ### Planes (R320 to R329) -/

/-- What a plane draws in a refresh: a stored image at `pa`, or a filled rectangle. -/
structure PlaneSrc where
  pa : Option Nat
  x : Nat
  y : Nat
  w : Nat
  h : Nat
  fmt : Nat
  pitch : Nat
  ga : Nat
  colour : Nat
  deriving DecidableEq, Repr

/-- Word `k` (CFG, POS, SIZE, PITCH) in force of plane `p`. -/
def Output.planeWord (o : Output) (p k : Nat) : Nat := nth 0 o.planes (4 * p + k)

/-- The source of plane `p` of output `x` in the refresh now running. -/
def State.planeSrc (s : State) (x p : Nat) : Option PlaneSrc :=
  let o := s.output x
  let t := s.timing
  let cfg := o.planeWord p 0
  let tr := s.track (3 * x + p)
  let w := if p = 0 then t.hact else bits (o.planeWord p 2) 11 0
  let h := if p = 0 then t.vact else bits (o.planeWord p 2) 27 16
  let px := if p = 0 then 0 else bits (o.planeWord p 1) 11 0
  let py := if p = 0 then 0 else bits (o.planeWord p 1) 27 16
  let ga := if p = 0 then 255 else bits cfg 15 8
  let pitch := bits (o.planeWord p 3) 17 0
  if o.phase ≠ 2 then none
  else if p = 0 ∧ o.baseSplash = true then
    match s.splash x with
    | none => some ⟨none, 0, 0, t.hact, t.vact, 0, 0, 255, 0⟩
    | some k => some ⟨some k.pa, 0, 0, min k.w t.hact, min k.h t.vact, k.fmt, k.pitch, 255, 0⟩
  else if bitN cfg 0 = 0 then none
  else if p = 1 ∧ o.staleNow = true then
    if s.flag F.SCO_STALE_CAM_FILL x && tr.enabled && bitN tr.cfg 4 == 0 then
      some ⟨none, px, py, w, h, 0, 0, 255, s.fld F.SCO_STALE_COLOUR x⟩
    else none
  else if p = 2 ∧ o.staleNow = true ∧ s.flag F.SCO_STALE_OVL_HIDE x = true then none
  else match tr.reading with
    | none => none
    | some n => some ⟨some (s.standPa (3 * x + p) n), px, py, w, h, bits cfg 2 1, pitch, ga, 0⟩

/-- The plane covers active line `y`. -/
def PlaneSrc.onLine (k : PlaneSrc) (y : Nat) : Bool := decide (k.y ≤ y) && decide (y < k.y + k.h)

/-- Bytes of the plane's row on active line `y`: address and length. -/
def PlaneSrc.row (k : PlaneSrc) (y : Nat) : Option (Nat × Nat) :=
  k.pa.map fun a => (a + (y - k.y) * k.pitch, k.w * planeBytes k.fmt)

/-- A stored pixel as 8-bit channels with its alpha (R200, R326). -/
def storedPix (fmt : Nat) (b : List Byte) : Pix × Nat :=
  if fmt = 1 then
    let v := leNat b
    let e5 (n : Nat) : Nat := n * 8 + n / 4
    let e6 (n : Nat) : Nat := n * 4 + n / 16
    (⟨e5 (bits v 15 11), e6 (bits v 10 5), e5 (bits v 4 0)⟩, 255)
  else (⟨(nth 0 b 0).toNat, (nth 0 b 1).toNat, (nth 0 b 2).toNat⟩,
    if fmt = 2 then (nth 0 b 3).toNat else 255)

/-- 64 B lines of `n` bytes at `a` that arrive with a poison mark. -/
def State.markedLines (s : State) (a n : Nat) : List Nat :=
  (touched 64 a n).filter fun l => (s.readMark (64 * l) 64).poison

/-- The plane's pixels on active line `y`, with the alpha they blend with. -/
def State.planeRow (s : State) (x p y : Nat) (k : PlaneSrc) : List (Pix × Nat) :=
  match k.row y with
  | none => List.replicate k.w (rgbPix k.colour, 255)
  | some (a, n) =>
    let bad := s.markedLines a n
    let bs := s.paBytes a n
    let bpp := planeBytes k.fmt
    (upTo k.w).map fun i =>
      if bad.any fun l => decide (a + i * bpp < 64 * l + 64) && decide (64 * l < a + i * bpp + bpp)
      then (rgbPix (s.fld F.SCO_POISON_COLOUR_RGB x), 255)
      else
        let q := storedPix k.fmt (slice bs (i * bpp) bpp)
        (q.1, if p = 0 then 255 else (q.2 * k.ga + 127) / 255)

/-- One pixel over another with alpha α (R326). -/
def Pix.over (d src : Pix) (α : Nat) : Pix :=
  ⟨blend255 src.r d.r α, blend255 src.g d.g α, blend255 src.b d.b α⟩

/-- A row of pixels with alpha laid over a line from column `x0`. -/
def overRow (line : List Pix) (x0 : Nat) (row : List (Pix × Nat)) : List Pix :=
  (upTo line.length).map fun i =>
    let d := nth ⟨0, 0, 0⟩ line i
    if i < x0 then d
    else match row[i - x0]? with
      | none => d
      | some q => d.over q.1 q.2

/-- The planes of output `x` that cover active line `y`, bottom first. -/
def State.planesOn (s : State) (x y : Nat) : List (Nat × PlaneSrc) :=
  (upTo 3).filterMap fun p => match s.planeSrc x p with
    | none => none
    | some k => if k.onLine y then some (p, k) else none

/-- Active line `y` of output `x` below the Signpost plane; from column `late` on the data of a
plane has not arrived (R331). -/
def State.belowIcons (s : State) (x y : Nat) (late : Option Nat) : List Pix :=
  let bg := if (s.output x).phase = 2 then rgbPix (s.fld F.SCO_BG_RGB x) else ⟨0, 0, 0⟩
  let line := (s.planesOn x y).foldl (fun l e => overRow l e.2.x (s.planeRow x e.1 y e.2))
    (List.replicate s.timing.hact bg)
  match late with
  | none => line
  | some u => line.take u
      ++ List.replicate (line.length - u) (rgbPix (s.fld F.SCO_UNDERRUN_COLOUR_RGB x))

/-- The composed line. -/
def State.composed (s : State) (x y : Nat) (late : Option Nat) : List Pix :=
  (upTo 64).foldl (fun l n => match s.iconRow x y n with
    | none => l
    | some row => overRow l (s.iconAt n).x row) (s.belowIcons x y late)

/-- Output conversion of one channel; `green` (R327). -/
def convertChannel (cfg v : Nat) (green : Bool) : Nat :=
  let v := if bitN cfg 7 = 1 then 16 + (219 * v + 127) / 255 else v
  let f := bits cfg 5 4
  if f = 0 then v
  else if f = 3 ∧ green = false then (31 * v + 127) / 255
  else (63 * v + 127) / 255

def convertPix (cfg : Nat) (p : Pix) : Pix :=
  ⟨convertChannel cfg p.r false, convertChannel cfg p.g true, convertChannel cfg p.b false⟩

/-! ### Line starts (R314) -/

/-- The device is in DSI command mode. -/
def State.commandMode (s : State) : Bool :=
  s.sco.outs.any fun o => (o.phase != 0 || o.startDue) && bits o.outCfg 1 0 == 1

/-- The generator's next line, where it has one now. -/
def State.nextLine (s : State) : Option Nat :=
  if s.sco.genRun = false then none
  else if s.sco.due then some 0
  else if s.sco.line + 1 < s.timing.vtotal then some (s.sco.line + 1)
  else if s.commandMode then none else some 0

/-- A complete frame of output `x` has ended. -/
def frameEnd (x : Nat) : Prog :=
  .look fun s =>
    let o := s.output x
    if o.phase = 3 then Prog.when (s.sinksDark x = true) (finishStop x)
    else Prog.when (o.phase ≠ 0) <| modOut x fun y => { y with
      blDelay := y.blDelay || (!y.blEnable && !y.restoreSinks && (y.blFirst || y.phase == 2))
      blackLeft := y.blackLeft - 1
      phase := (if y.phase = 1 ∧ 1 < y.blackLeft then 1 else 2) }

/-- Output `x` begins at this frame start. -/
def beginOutput (x : Nat) : Prog :=
  .look fun s =>
    let o := s.output x
    Prog.when (o.startDue = true) <| Prog.all [
      modOut x fun y => { y with
        startDue := false
        phase := (if y.blackLeft = 0 then 2 else 1)
        dcs := (if y.slept then 0x11 else y.dcs)
        panel := (if y.slept then .wake else y.panel)
        slept := false },
      usePair R.RCL_CTRL,
      takeLease (130 + x) 4 3 (unitSco x) x s.unitTerm,
      boostStart,
      settleSinks]

/-- The base plane shows the splash (R320). -/
def State.splashNow (s : State) (x : Nat) : Bool :=
  !s.boot.handedOver || (s.track (3 * x)).choice == 5
    || (s.track (3 * x)).shown.any (fun c => c.kind == 3)

/-- Vsync of output `x`. -/
def vsyncOutput (x : Nat) : Prog := Prog.all [
  frameEnd x,
  beginOutput x,
  .look fun s => Prog.when ((s.output x).phase ≠ 0) <| Prog.all [
    modOut x fun o => { o with
      prefill := s.boot.handedOver && bitN o.outCfg 21 == 1
      planes := ((upTo 3).map fun p => [s.rd R.SCO_PL_CFG x p, s.rd R.SCO_PL_POS x p,
        s.rd R.SCO_PL_SIZE x p, s.rd R.SCO_PL_PITCH x p]).flatten
      baseSplash := s.splashNow x
      staleNow := o.staleNext
      poisonSeen := false
      underrunSeen := false },
    presentOutput x,
    takeSgnRegs x,
    deviceEvent x]]

/-- Decision line of output `x`: the camera's state is read (R328) and the roundabout decides
for the refresh whose vsync counts next. While the roundabout recovers, the decision is served
as REPEAT (Table 16-8). -/
def decisionLine (x : Nat) : Prog :=
  .look fun s =>
    let n := ((s.crossing x).value + 1) % 2 ^ 32
    let o := s.output x
    Prog.all [
      deviceEvent (2 + x),
      Prog.when (o.phase ≠ 3) <| Prog.all [
        modOut x fun y => { y with
          staleNext := s.flag F.CAM_STATUS_STALE || s.flag F.CAM_STATUS_ABSENT
          underrun := false },
        Prog.when (s.boot.handedOver = true) <|
          if s.rcl.fenced.contains unitRbt then
            modRbt fun r => { r with served := r.served ++ [(x, n)] }
          else decideOutput x n o.underrun]]

/-- Line `n` of output `x` in the active area: it is composed, checked and sent. -/
def activeLine (x y : Nat) (late : Option Nat) (bad : List Nat) : Prog :=
  .look fun s =>
    let o := s.output x
    let ps := s.planesOn x y
    let rows := ps.filterMap fun e => e.2.row y
    let late := late.filter fun u => ps.any fun e =>
      decide (e.2.x ≤ u) && decide (u < e.2.x + e.2.w)
    let poison := rows.any fun r => s.markedLines r.1 r.2 != []
    let line := s.composed x y late
    Prog.all [
      modOut x fun q => { q with
        line := line.map (convertPix q.outCfg)
        poisonSeen := q.poisonSeen || poison
        underrunSeen := q.underrunSeen || late.isSome
        underrun := q.underrun || late.isSome },
      Prog.when (poison = true ∧ o.poisonSeen = false) (raise 0x4104 (unitSco x)),
      Prog.when (late.isSome = true) <| .seq
        (bump (if x = 0 then F.SCO_UNDERRUN_COUNT_A else F.SCO_UNDERRUN_COUNT_B))
        (Prog.when (o.underrunSeen = false) (raise 0x4101 (unitSco x))),
      Prog.each rows fun r => readEffects r.1 r.2,
      Prog.each (upTo 64) fun n => iconLine x y n (bad.contains n)]

/-- The first front-porch line of output `x`: the last active line has ended. -/
def porchLine (x : Nat) : Prog :=
  .look fun s =>
    let o := s.output x
    Prog.all [
      fetchedOutput x,
      Prog.when (o.phase = 2 ∧ o.restoreSinks = true) <| Prog.all [
        modOut x fun y => { y with restoreSinks := false },
        giveBacklight x,
        endChange x],
      modOut x fun y => { y with lpWait := false }]

/-- The line FIFO of output `x` in prefill mode holds `ahead` lines ahead of the scan (R323). -/
def fifoLine (x ahead : Nat) : Prog :=
  .look fun s => Prog.when ((s.output x).prefill = true) <|
    Prog.all [
      setF F.SCO_FIFO_AHEAD (min ahead 255) x,
      setF F.SCO_FIFO_MIN (min (min ahead 255) (s.fld F.SCO_FIFO_MIN x)) x,
      Prog.when (ahead < 4) (raiseSecond 0x4107 (unitSco x) 0 x)]

/-- A line starts on output `x`. -/
def outputLine (x n : Nat) (late : Option Nat) (ahead : Nat) (bad : List Nat) : Prog :=
  .look fun s => Prog.when ((s.output x).phase ≠ 0) <| Prog.all [
    fifoLine x ahead,
    Prog.when (s.timing.top ≤ n ∧ n < s.timing.top + s.timing.vact)
      (activeLine x (n - s.timing.top) late bad),
    Prog.when (n = s.timing.top + s.timing.vact) (porchLine x)]

/-- A generator frame starts. -/
def frameStart : Prog :=
  .look fun s => Prog.all [
    Prog.when (s.sco.frameAt.isSome = true)
      (setReg R.SCO_FRAME ((s.rd R.SCO_FRAME + 1) % 2 ^ 32)),
    modSco fun c => { c with frameAt := some s.time },
    takePalette,
    applyIconRepairs]

/-- A line starts. `late`: for each output, the column from which plane data of this line has
not arrived, if any; `ahead`: lines its FIFO holds ahead; `bad`: icons of which an opaque pixel
was composed in another colour. -/
def lineStart (late : List (Option Nat)) (ahead bad : List Nat) : Prog :=
  .look fun s => match s.nextLine with
    | none => .skip
    | some n => Prog.all [
        modSco fun c => { c with line := n, due := false },
        Prog.when (n = 0) frameStart,
        Prog.when (n = 0) (Prog.each (upTo 2) vsyncOutput),
        .look fun t => Prog.each (upTo 2) fun x => Prog.when ((t.output x).phase ≠ 0
          ∧ t.fld F.SCO_LINES_DLINE x = n) (decisionLine x),
        .look fun t => Prog.each (upTo 2) fun x => Prog.when ((t.output x).phase ≠ 0
          ∧ t.fld F.SCO_LINES_CLINE x = n) (deviceEvent (4 + x)),
        latchIcons,
        Prog.each (upTo 2) fun x => outputLine x n (nth none late x) (nth 16 ahead x) bad]

/-! ### TE and command mode (R317 to R319) -/

/-- Lines of a command-mode frame are being transmitted. -/
def State.transmitting (s : State) : Bool :=
  decide (s.timing.top ≤ s.sco.line) && decide (s.sco.line < s.timing.top + s.timing.vact)
    && s.sco.frameAt.isSome

/-- Less than three quarters of a frame time have passed since the last frame start. -/
def State.tooEarly (s : State) : Bool := match s.sco.frameAt with
  | none => false
  | some t => decide (4 * s.timing.khz * (s.time - t) < 3 * 25000 * s.timing.vtotal * s.timing.htotal)

/-- Output whose TE edge starts frames. -/
def State.teOutput (s : State) : Nat :=
  if (s.output 0).phase != 0 || (s.output 0).startDue then 0 else 1

/-- A TE skew. -/
def teSkew (d : Nat) : Prog := Prog.all [
  bump F.SCO_TE_COUNT_SKEW,
  setF F.SCO_TE_LAST_SKEW_PCLK d,
  raise 0x4102 (unitSco 1),
  modSco fun c => { c with teWait := none }]

/-- TE_EDGE: TE of output `x` goes to `level`; `skew`: TE_B minus TE_A in pixel clocks. -/
def execTeEdge (x : Nat) (level : Bool) (skew : Int) (s : State) :
    Host.Outcome State Fault Refusal :=
  let sel := s.teOutput
  let edge := level == (bitN (nth 0 s.sco.timing 5) x == 0)
  let both := (s.output 0).phase != 0 && (s.output 1).phase != 0
  Prog.outcome (.seq (modPorts fun p => { p with te := upd p.te x level }) <|
    Prog.when (x < 2 ∧ s.sco.genRun = true ∧ s.commandMode = true ∧ edge = true) <|
      if x = sel then
        if s.transmitting then .skip
        else if s.tooEarly then .seq (bump F.SCO_TE_COUNT_EARLY) (raise 0x4105 (unitSco x))
        else modSco fun c => { c with
          due := true
          freerun := false
          teWait := (if both then some s.time else none) }
      else Prog.when (both = true ∧ (s.sco.teWait.isSome = true ∨ skew < 0)) <|
        if (s.timing.htotal : Int) < skew ∨ skew < -(s.timing.htotal : Int) then
          teSkew (wrapInt 16 (clampInt (-32768) 32767 skew))
        else modSco fun c => { c with teWait := none }) s

/-- TE_B_MISSING: no TE_B edge within one line of TE_A. The difference it records is a free
value. -/
def execTeBMissing (s : State) : Host.Outcome State Fault Refusal :=
  Prog.outcome (Prog.when (s.sco.teWait.isSome = true) <|
    .seq (teSkew ((Config.freeValue s.free).toNat % 65536)) (.act (.draw 1))) s

/-- TE_TIMEOUT: no accepted TE edge within 1.5 frame times. -/
def execTeTimeout (s : State) : Host.Outcome State Fault Refusal :=
  Prog.outcome (Prog.when (s.sco.genRun = true ∧ s.commandMode = true ∧ s.sco.freerun = false
      ∧ s.sco.due = false) <| Prog.all [
    modSco fun c => { c with freerun := true, due := true },
    bump F.SCO_FREERUN_COUNT_COUNT,
    raise 0x4103 (unitSco s.teOutput)]) s

/-- FREERUN_FRAME_START. -/
def execFreerunFrameStart (s : State) : Host.Outcome State Fault Refusal :=
  Prog.outcome (Prog.when (s.sco.genRun = true ∧ s.sco.freerun = true)
    (modSco fun c => { c with due := true })) s

/-! ### Low-power packets (R348) -/

/-- Data types of Table 11-2 for a low-power packet. -/
def lpTypes : List Nat := [0x03, 0x13, 0x23, 0x05, 0x15, 0x29, 0x39]

/-- Send a packet: in the next front porch of a running output, at once on a stopped one. -/
def lpSend (x : Nat) (script : Bool) (bs : List Byte) : Prog :=
  modOut x fun o => { o with lpWait := o.phase != 0, lpScript := script, lpBytes := bs }

/-- A write to SCO_DSI_TX_GO_x. -/
def dsiGo (x : Nat) : Prog :=
  .look fun s =>
    let o := s.output x
    let len := s.fld F.SCO_DSI_TX_HDR_LEN x
    let dt := s.fld F.SCO_DSI_TX_HDR_DT x
    let ok := lpTypes.contains dt && decide (len ≤ 64) && !s.lvdsStrap x && o.dphyOn
      && !s.secondary
    .seq (setF F.SCO_DSI_TX_STATUS_ERR (if ok then 0 else 1) x) <|
      Prog.when (ok = true ∧ o.lpBytes = []) <| lpSend x false (leBytes 1 dt
        ++ (((upTo 16).map fun w => leBytes 4 (s.rd R.SCO_DSI_TX_DATA x w)).flatten.take len))

/-- DSI_TX_GO. -/
def execDsiTxGo (x : Nat) (s : State) : Host.Outcome State Fault Refusal :=
  Prog.outcome (Prog.when (x < 2) (dsiGo x)) s

end Sys2Proof.Machine
end

