-- ==== Sys2Proof/Machine/Power.lean ====
section
/-! DEFINITION. The power-state controller's operations: wake events, WAKING, QUIET and the park
sequence (chapter 02, R38 to R48 and R69). -/

namespace Sys2Proof.Machine

/-- The loader has reached a settled state: hand-over, fallback display or service wait (R77). -/
def State.settled (s : State) : Bool :=
  s.boot.phase == 6 || s.boot.phase == 7 || s.boot.phase == 8

/-! ### QUIET (R43, R44) -/

/-- Enter QUIET from RUNNING (R43): each active output stops at its next frame end, and the units
and PLLs stop with the last of them. -/
def enterQuiet : Prog :=
  .look fun s => Prog.when (s.lamp.power = .running ∧ s.lamp.parkStep = 0) <| Prog.all [
    modLamp fun l => { l with power := .quiet, quietAt := l.tick },
    stopDisplays .quiet,
    quietGate]

/-- Return from QUIET to RUNNING (R44): the PLLs that ran before and those of the units with work
start again. -/
def leaveQuiet : Prog :=
  .look fun s => Prog.when (s.lamp.power = .quiet) <| Prog.all [
    requestPlls ((if s.lamp.quietGated then s.lamp.quietPlls else 0)
      ||| unitPlls (s.openStops.flatMap fun o => o.units)),
    modLamp fun l => { l with power := .running, quietGated := false },
    modAve fun v => { v with ddrSelfRefresh := false },
    reclockUnits,
    allDue,
    restartDisplays]

/-! ### The park sequence (R46, R48) -/

/-- Step 4: every open stop is withdrawn with status PARKED; step 5 follows with the last of them. -/
def parkDrained : Prog :=
  .look fun s => Prog.when (s.lamp.parkStep = 3) <| Prog.all [
    modLamp fun l => { l with parkStep := 4 },
    Prog.each (upTo 16) fun q => withdrawQueue q 8,
    parkWithdrawn]

/-- The park decision: displays stop, queues close and open stops drain for `drainMs` ms. -/
def startPark (drainMs : Nat) : Prog :=
  .look fun s => Prog.when (s.live = true ∧ s.lamp.parkStep = 0) <| Prog.all [
    modLamp fun l => { l with
      parkStep := 3
      parkDrainMs := drainMs
      parkQuiet := l.power == .quiet },
    stopDisplays .disable,
    modWrd fun w => { w with closed := true },
    Prog.when (drainMs = 0 ∨ s.openStops = []) parkDrained]

/-- A wake event before PMIC_EN goes low aborts the park (R48). -/
def abortPark : Prog :=
  .look fun s => Prog.when (s.lamp.parkStep ≠ 0) <| Prog.all [
    modLamp fun l => { l with parkStep := 0 },
    modWrd fun w => { w with closed := false },
    Prog.each (upTo 16) fun q => .look fun t =>
      Prog.when ((t.queue q).parked = true ∧ (t.queue q).state ≠ 2) (resumeHalted q),
    (if s.lamp.power = .quiet then leaveQuiet else restartDisplays)]

/-- A request for QUIET (1) or PARKED (2), held until the loader settles (R77). -/
def requestPower (target drainMs : Nat) : Prog :=
  .look fun s =>
    if s.settled = false then modBoot fun b => { b with heldRequest := target }
    else if target = 1 then enterQuiet
    else Prog.when (target = 2) (startPark drainMs)

/-- Drain limit of SYS_PWR_REQ. -/
def State.parkDrain (s : State) : Nat := zeroAsOne (s.fld F.SYS_PWR_REQ_PARK_DRAIN)

/-- A request made before the loader settled takes effect. -/
def takeHeldRequest : Prog :=
  .look fun s => Prog.when (s.settled = true ∧ s.boot.heldRequest ≠ 0) <| .seq
    (modBoot fun b => { b with heldRequest := 0 })
    (requestPower s.boot.heldRequest s.parkDrain)

/-! ### WAKING (R39 to R42) -/

/-- Step 1 of WAKING: PMIC_EN goes high, the reference starts on its crystal, FAULT_N is low. -/
def enterWaking : Prog := .seq
  (modLamp fun l => { l with
    power := .waking
    wakingStep := 2
    pmicEn := true
    wakingAt := l.tick
    latchedWake := false
    retryDue := false
    refOnRc := false
    resetHold := true })
  (modHv fun h => { h with powered := true })

/-- Return to PARKED from a failed WAKING: the attempt is retried up to three times in all. -/
def failWaking (cause : Nat) : Prog := Prog.all [
  recordCause cause,
  logicReset,
  modLamp fun l => { l with
    power := .parked
    wakingStep := 0
    pmicEn := false
    attempts := l.attempts + 1
    retryDue := decide (l.attempts + 1 < 3)
    pllReq := 0 },
  modHv fun _ => { Hv.reset with powered := false },
  .look fun s => raise 0x0105 unitNone (s.rd R.LAMP_RESET_CAUSE)]

/-- PWR_GOOD has been low for less than 10 ms (R48). -/
def State.railsUp (s : State) : Bool :=
  s.lamp.pwrGood || (match s.lamp.pgFellAt with
    | none => false
    | some t => decide (s.lamp.tick < t + 328))

/-- A counted wake event of source `src` (0 IGN, 1 CAN, 2 BRG, 3 timer); `por`: under the
power-on clause of R39. -/
def wakeEvent (src : Nat) (por : Bool) : Prog :=
  .look fun s => Prog.when (s.lamp.thermHold = false ∧ s.lamp.power ≠ .off) <| Prog.all [
    setReg R.LAMP_WAKE_CAUSE (2 ^ src + if por then 16 else 0),
    bump F.LAMP_WAKE_COUNT_COUNT,
    .look fun t => retWrite 0x0C (leBytes 4 (t.rd R.LAMP_WAKE_COUNT)),
    (if s.lamp.power = .parked then
      (if s.railsUp then modLamp fun l => { l with latchedWake := true }
       else .seq (modLamp fun l => { l with attempts := 0 }) enterWaking)
     else if s.lamp.parkStep ≠ 0 then abortPark
     else leaveQuiet)]

end Sys2Proof.Machine
end

