-- ==== Sys2Proof/Machine/Vehicle.lean ====
section
/-! DEFINITION. The CAN FD controllers and the intake of vehicle signals (chapter 13, R377 to
R391 and R402). -/

namespace Sys2Proof.Machine

/-! ### The controllers (R377 to R379) -/

def State.canCtl (s : State) (c : Nat) : CanCtl := nth CanCtl.reset s.can c

/-- The controller takes part on the bus. -/
def State.canOn (s : State) (c : Nat) : Bool :=
  s.live && s.flag F.CAN_CTRL_EN c && (s.canCtl c).state < 2

/-- The controller may drive the bus: not listen-only and not on the RC reference (R35, R377). -/
def State.canTalks (s : State) (c : Nat) : Bool :=
  s.canOn c && !s.flag F.CAN_CTRL_LISTEN c && !s.lamp.refOnRc

/-- Abandon frames of a controller's queue, counted. -/
def abandonFrames (c : Nat) (keep : List CanTx) : Prog :=
  .look fun s =>
    let n := (s.canCtl c).queue.length - keep.length
    .seq (modCanAt c fun k => { k with queue := keep }) (bump F.CAN_ERR_COUNT_TX_ABANDON n c)

/-- A commit of CANn_CTRL: EN = 0 closes the controller and abandons what is queued (R460). -/
def canCtrlCommit (c v : Nat) : Prog :=
  .look fun s =>
    let was := s.flag F.CAN_CTRL_EN c
    .seq (setReg R.CAN_CTRL v c) <|
      if bitN v 0 = 0 then
        Prog.when (was = true) <| .seq (abandonFrames c [])
          (modCanAt c fun k => { k with state := 3, holdoff := false, busOffs := [] })
      else Prog.when (was = false) (modCanAt c fun k => { k with state := 0 })

/-- CAN_DISABLE: a commit of CANn_CTRL with EN = 0. -/
def execCanDisable (c : Nat) (s : State) : Host.Outcome State Fault Refusal :=
  Prog.outcome (Prog.when (c < 2) (canCtrlCommit c (setBits (s.rd R.CAN_CTRL c) 0 0 0))) s

/-- CAN_FRAME_TRANSMITTED: the frame first in the queue has been sent. -/
def execCanFrameTransmitted (c : Nat) (s : State) : Host.Outcome State Fault Refusal :=
  Prog.outcome (Prog.when (c < 2 ∧ s.canTalks c = true ∧ 2 ≤ s.boot.phase) <|
    modCanAt c fun k => match k.queue with
      | [] => k
      | f :: t => { k with queue := t, sent := some f }) s

/-- CAN_BUS_OFF. -/
def execCanBusOff (c : Nat) (s : State) : Host.Outcome State Fault Refusal :=
  let recent := s.time :: (s.canCtl c).busOffs.filter fun t => s.time < t + 25000000
  Prog.outcome (Prog.when (c < 2 ∧ s.canOn c = true) <| Prog.all [
    modCanAt c fun k => { k with state := 2, busOffs := recent, holdoff := decide (8 ≤ recent.length) },
    bump F.CAN_ERR_COUNT_BUS_OFF 1 c,
    raise (0x6001 + 0x100 * c) unitHub]) s

/-- The controller is back on the bus, error active. -/
def canRecovered (c : Nat) : Prog := Prog.all [
  modCanAt c fun k => { k with state := 0, holdoff := false },
  setF F.CAN_STATUS_TEC 0 c,
  setF F.CAN_STATUS_REC 0 c]

/-- CAN_BUS_OFF_RECOVERY: 128 occurrences of 11 recessive bits. -/
def execCanBusOffRecovery (c : Nat) (s : State) : Host.Outcome State Fault Refusal :=
  Prog.outcome (Prog.when (c < 2 ∧ (s.canCtl c).state = 2 ∧ (s.canCtl c).holdoff = false)
    (canRecovered c)) s

/-- CAN_HOLDOFF_END: the 1 s off the bus is over and the controller recovers. -/
def execCanHoldoffEnd (c : Nat) (s : State) : Host.Outcome State Fault Refusal :=
  Prog.outcome (Prog.when (c < 2 ∧ (s.canCtl c).state = 2 ∧ (s.canCtl c).holdoff = true)
    (.seq (modCanAt c fun k => { k with busOffs := [] }) (canRecovered c))) s

/-- The queued frame that has waited longest. -/
def oldestFrame (q : List CanTx) : Option Nat :=
  (upTo q.length).foldl (fun (b : Option Nat) i => match b with
    | none => some i
    | some j => match q[i]?, q[j]? with
      | some f, some g => if f.queuedAt < g.queuedAt then some i else some j
      | _, _ => some j) none

/-- CAN_TX_ABANDON: the frame queued longest has waited 100 ms. -/
def execCanTxAbandon (c : Nat) (s : State) : Host.Outcome State Fault Refusal :=
  Prog.outcome (Prog.when (c < 2) <| match oldestFrame (s.canCtl c).queue with
    | none => .skip
    | some i => abandonFrames c ((s.canCtl c).queue.eraseIdx i)) s

/-- CAN_ERROR_PASSIVE: the error counters `tec` and `rec` cross the error-passive limit. -/
def execCanErrorPassive (c tec rec : Nat) (s : State) : Host.Outcome State Fault Refusal :=
  Prog.outcome (Prog.when (c < 2 ∧ s.canOn c = true ∧ (s.canCtl c).state = 0) <| Prog.all [
    modCanAt c fun k => { k with state := 1 },
    setF F.CAN_STATUS_TEC (min tec 255) c,
    setF F.CAN_STATUS_REC (min rec 255) c,
    raise (0x6002 + 0x100 * c) unitHub]) s

/-! ### Signals (R381, R382) -/

/-- Identifier word: identifier [28:0], EXT [29], controller [30]. -/
def identWord (c ident : Nat) (ext : Bool) : Nat :=
  ident % 2 ^ 29 + (if ext then 2 ^ 29 else 0) + c * 2 ^ 30

/-- Enabled signal records of an identifier word. -/
def State.recordsOf (s : State) (w : Nat) : List Nat :=
  (upTo 64).filter fun n => bitN (s.rd R.SVC_SIG_ID n) 31 == 1
    && s.rd R.SVC_SIG_ID n % 2 ^ 31 == w

def State.sigKind (s : State) (n : Nat) : Nat := s.fld F.SVC_SIG_FMT_KIND n
def State.sigCtrl (s : State) (n : Nat) : Nat := s.fld F.SVC_SIG_ID_CTRL n
def State.sigLen (s : State) (n : Nat) : Nat := s.fld F.SVC_SIG_FMT_LEN_M1 n + 1
def State.sigSigned (s : State) (n : Nat) : Bool := s.flag F.SVC_SIG_FMT_SIGNED n

/-- The signal's field of a data field, sign-extended to 32 bits where SIGNED (R381). -/
def State.extract (s : State) (n : Nat) (data : List Byte) : Nat :=
  let len := s.sigLen n
  let v := leNat data / 2 ^ s.fld F.SVC_SIG_FMT_START n % 2 ^ len
  if s.sigSigned n then wrapInt 32 (sext len v) else v % 2 ^ 32

/-- The value lies within MIN to MAX (step 5). -/
def State.plausible (s : State) (n v : Nat) : Bool :=
  let lo := s.rd R.SVC_SIG_MIN n
  let hi := s.rd R.SVC_SIG_MAX n
  if s.sigSigned n then decide (sext 32 lo ≤ sext 32 v) && decide (sext 32 v ≤ sext 32 hi)
  else decide (lo ≤ v) && decide (v ≤ hi)

/-- At least MIN_INT ms have passed since the last accepted value (step 6). -/
def State.rateOk (s : State) (n : Nat) : Bool :=
  match (nth ⟨none, 0⟩ s.svc.sigs n).lastAt with
  | none => true
  | some t => decide (t + msTicks (s.fld F.SVC_SIG_TIM_MIN_INT n) ≤ s.time)

/-- A fault of signal `n`, limited to one a second. -/
def sigFault (code n : Nat) : Prog :=
  .look fun s => raiseSecond (code + 0x100 * s.sigCtrl n) unitHub 0 n

def modSig (n : Nat) (f : Sig → Sig) : Prog :=
  modSvc fun v => { v with sigs := upd v.sigs n (f (nth ⟨none, 0⟩ v.sigs n)) }

/-- Write the icon state of signal `n` with its complement (R334, R384). -/
def writeIconState (n st : Nat) : Prog :=
  .look fun s =>
    let i := s.fld F.SVC_SIG_FMT_ICON n
    let lo := 2 * (i % 16)
    let w := i / 16
    .seq (setReg R.SGN_STATE (setBits (s.rd R.SGN_STATE w) (lo + 1) lo st) w)
      (setReg R.SGN_STATE_C (setBits (s.rd R.SGN_STATE_C w) (lo + 1) lo (3 - st % 4)) w)

/-! ### The moving vehicle (R402) -/

/-- Where the speed signal's slot stands: valid, not stale and 0. -/
def State.speedZero (s : State) : Bool :=
  let n := s.fld F.SVC_INTERLOCK_SPEED_SIG
  bits (s.snap n 0x0C 2) 1 0 == 1 && s.snap n 0 4 == 0

/-- The speed signal was accepted, went stale, or another signal became it. -/
def settleMoving : Prog :=
  .look fun s => .seq
    (modSvc fun v =>
      if s.speedZero then { v with zeroSince := match v.zeroSince with
        | none => some s.time
        | some t => some t }
      else { v with zeroSince := none, moving := true })
    (Prog.when (s.speedZero = false ∧ s.svc.moving = false) (ijWrite (snapBase + 0x0C) [1]))

/-! ### Acceptance (R383 to R390) -/

/-- An EVENT is written to the journal, or refused for a full one. -/
def acceptEvent (n v port source aux : Nat) (refused : Prog) : Prog :=
  .look fun s => match s.ijFree with
    | none => Prog.all [
        refused,
        setF F.SVC_STATUS_IJ_FULL 1,
        raise 0x6201 unitHub]
    | some i => Prog.all [
        setF F.SVC_STATUS_IJ_FULL 0,
        ijAdd i 1 port n source v aux,
        snapWrite n (s.snap n 0 4) (s.snap n 4 4) (s.lamp.tick % 2 ^ 32)
          (s.snap n 0x0C 2 % 8 / 4 * 4 + 1) (s.snap n 0x0E 2),
        presentEvents n,
        modSig n fun g => { g with lastAt := some s.time, staleFrom := s.time },
        newSnapshot,
        Prog.when (s.flag F.SVC_SIG_FMT_WAKE n = true) leaveQuiet]

/-- Accept value `v` of signal `n`. -/
def acceptValue (n v port source aux : Nat) (refused : Prog) : Prog :=
  .look fun s =>
    if s.sigKind n = 1 then acceptEvent n v port source aux refused
    else Prog.all [
      Prog.when (s.sigKind n = 2) (writeIconState n (v % 4)),
      -- an unusable retention RAM takes no new work (R60); the icon is drawn all the same
      Prog.when (s.lamp.retUnusable = false) <| Prog.all [
        snapWrite n v 0 (s.lamp.tick % 2 ^ 32) (1 + if s.sigKind n = 2 then 8 else 0) 0,
        modSig n fun g => { g with lastAt := some s.time, staleFrom := s.time },
        Prog.when (n = s.fld F.SVC_INTERLOCK_SPEED_SIG) settleMoving,
        newSnapshot]]

/-- Steps 5 and 6 of Table 13-4 for signal `n`, then acceptance. -/
def checkSignal (n v port source aux : Nat) (failed refused : Prog) : Prog :=
  .look fun s =>
    if s.plausible n v = false then
      Prog.all [bump F.SVC_SIG_STAT_PLAUS 1 n, sigFault 0x6004 n, failed]
    else if s.rateOk n = false then
      Prog.all [bump F.SVC_SIG_STAT_RATE 1 n, sigFault 0x6005 n, failed]
    else acceptValue n v port source aux refused

/-! ### Frames (Table 13-4) -/

/-- The intake uses its signal records and the interlock's speed signal (R19). -/
def useSignals : Prog := useRegs [R.SVC_SIG_ID, R.SVC_SIG_FMT, R.SVC_SIG_MIN, R.SVC_SIG_MAX,
  R.SVC_SIG_TIM, R.SVC_INTERLOCK]

/-- CRC-16 of step 3: over the identifier word without the controller, then the data bytes. -/
def frameCrc (ident : Nat) (ext : Bool) (data : List Byte) : Nat :=
  crcMsb 16 0x1021 0xFFFF (leBytes 4 (identWord 0 ident ext) ++ data)

/-- Bytes a frame needs for its fields, its alive counter and its CRC. -/
def State.frameNeeds (s : State) (rs : List Nat) (crc alive : Bool) : Nat :=
  rs.foldl (fun m n => max m ((s.fld F.SVC_SIG_FMT_START n + s.sigLen n + 7) / 8))
    ((if crc then 2 else 0) + if alive then 1 else 0)

/-- The intake checks of a frame that some record names. -/
def intakeFrame (c ident : Nat) (ext : Bool) (data : List Byte) (rs : List Nat) : Prog :=
  .seq useSignals <| .look fun s =>
    let w := identWord c ident ext
    let crc := rs.any fun n => s.flag F.SVC_SIG_FMT_CRC_EN n
    let alive := rs.any fun n => s.flag F.SVC_SIG_FMT_ALIVE_EN n
    let len := data.length
    let body := if crc then data.take (len - 2) else data
    let drop := Prog.each rs fun n => .seq (bump F.SVC_SIG_STAT_CRC 1 n) (sigFault 0x6003 n)
    if len < s.frameNeeds rs crc alive then drop
    else if crc ∧ leNat (data.drop (len - 2)) ≠ frameCrc ident ext body then drop
    else
      let ctr := (nth 0 body (body.length - 1)).toNat % 16
      let last := keyGet s.svc.alive w
      if alive ∧ last = some ctr then bump F.CAN_RX_COUNT_IGNORED 1 c
      else Prog.all [
        Prog.when (alive = true) (modSvc fun v => { v with alive := keyPut v.alive w ctr }),
        Prog.each rs fun n => Prog.when (s.flag F.SVC_SIG_FMT_ALIVE_EN n = true
            ∧ (last.map fun k => decide (ctr ≠ (k + 1) % 16)).getD false = true)
          (.seq (bump F.SVC_SIG_STAT_SKIP 1 n) (sigFault 0x6006 n)),
        Prog.each rs fun n => checkSignal n (s.extract n data) (c + 1) w
          (if alive then ctr else 0) .skip (bump F.CAN_RX_COUNT_IGNORED 1 c)]

/-- SIGNAL_STALE: STALE ms without an accepted value of signal `n` (R385). -/
def execSignalStale (n : Nat) (s : State) : Host.Outcome State Fault Refusal :=
  Prog.outcome (.seq useSignals <| .look fun s =>
    Prog.when (n < 64 ∧ s.svc.intakeRun = true ∧ s.flag F.SVC_SIG_ID_EN n = true
      ∧ s.fld F.SVC_SIG_TIM_STALE n ≠ 0 ∧ bitN (s.snap n 0x0C 2) 1 = 0) <| Prog.all [
    Prog.when (s.sigKind n = 2) (writeIconState n 1),
    ijWrite (snapBase + 0x40 + 16 * n + 0x0C) (leBytes 2 (setBits (s.snap n 0x0C 2) 1 1 1)),
    raise (0x6007 + 0x100 * s.sigCtrl n) unitHub,
    Prog.when (n = s.fld F.SVC_INTERLOCK_SPEED_SIG) settleMoving,
    newSnapshot]) s

end Sys2Proof.Machine
end

