-- ==== Sys2Proof/Machine/Bridge.lean ====
section
/-! DEFINITION. The Bridge link's operations: sessions, flits received, remote accesses served,
submissions, the loss of the partner and image forwarding (chapter 14). -/

namespace Sys2Proof.Machine

/-! ### Words that a partner may read (R417) -/

/-- Role of this chip; a Bridge-booting chip is a secondary. -/
def State.localRole (s : State) : Nat := if s.boot.overBridge then 2 else s.fld F.SYS_STATE_ROLE

/-- SYS_STATE.STATE. -/
def Power.code (p : Power) : Nat := match p with
  | .off => 0
  | .parked => 1
  | .waking => 2
  | .running => 3
  | .quiet => 4

def bit (n : Nat) (b : Bool) : Nat := if b then 2 ^ n else 0

def State.sysStateWord (s : State) : Nat :=
  s.lamp.power.code + 16 * s.lamp.thermStep + bit 8 s.lamp.refOnRc + bit 9 s.lamp.x32OnRc
    + bit 10 (s.ave.ddrBytes != 0) + 2048 * s.fld F.SYS_STATE_ROLE
    + bit 16 (s.lamp.retARetired || s.lamp.retBRetired)

def State.brgStatusWord (s : State) : Nat :=
  s.brg.link + bit 4 s.brg.oneLane + 32 * s.brg.partnerRole + bit 7 s.brg.partnerBooting
    + bit 8 s.brg.sameRole + bit 9 s.brg.buildDiff + bit 10 s.brg.partDiff

/-! ### Sessions and the partner's absence (R412, R413, R421, R426, R427) -/

def setLink (n : Nat) : Prog := modBrg fun b => { b with link := n }

/-- The link may start: an AE480-QT2 with BRG_CTRL.EN, its link OFF (R6, Table 14-6). -/
def linkStart : Prog :=
  .look fun s => Prog.when (s.ident.order = .qt2) <| .seq (usePair R.BRG_CTRL) <| Prog.when
    ( s.flag F.BRG_CTRL_EN = true ∧ s.brg.link = 0) <|
    .seq (setLink 1) (.seq (firstWrite [.bridgeTx]) (requestPlls 0x100))

/-- Every import crossing becomes BROKEN (R421). -/
def breakImports : Prog := .seq (usePair R.BRG_XSIG) <|
  .look fun s => Prog.when (s.flag F.BRG_XSIG_EN = true) <| .seq
    (Prog.each (upTo 8) fun j => .look fun t =>
      let n := (t.fld F.BRG_XSIG_IMPORT_BASE + j) % 1024
      Prog.when (16 ≤ n) (putCrossing n { t.crossing n with st := 2, stC := inv32 2 }))
    notifyWardens

/-- The Bridge token of slot `i` is revoked: its accesses are dropped and its stop fails
LEASE_REVOKED with fault 0x700A (R419). -/
def revokeToken (i : Nat) : Prog := Prog.all [
  modBrg fun b => { b with remotes := b.remotes.filter fun r => r.slot != i },
  freeLease (192 + i),
  raise 0x700A unitBrg,
  failStop i 9]

/-- Every outstanding remote access fails (R421). -/
def revokeTokens : Prog :=
  .look fun s => Prog.each ((s.brg.remotes.map fun r => r.slot).dedup) revokeToken

/-- The running profile. -/
def State.profile (s : State) (n : Option Nat) : Option Profile :=
  n.bind fun p => s.boot.profiles.find? fun x => x.number == p

def haltAll : Prog := Prog.each (upTo 16) haltQueue

/-- The partner is declared absent (R414). -/
def declareAbsent : Prog :=
  .look fun s =>
    let session := s.brg.session
    Prog.all [
      modBrg fun b => { b with link := 7, absentAt := s.time, queue := [], unacked := [] },
      setReg R.BRG_ABSENT_TICK (s.lamp.tick % 2 ^ 32),
      raise 0x7004 unitBrg,
      Prog.when (session = true) (deviceEvent 15),
      breakImports,
      revokeTokens,
      (if s.localRole = 2 then haltAll
       else Prog.when (s.boot.handedOver = true ∧ ((s.profile s.boot.running).map fun p =>
          p.chips == 2 && p.role == 1 && bitN p.flags 2 == 0).getD false = true) <| Prog.all [
        modBrg fun b => { b with fallbackDue := true },
        haltAll,
        fallbackStep])]

/-- A session begins (R412); one that follows another fails the earlier one's accesses. -/
def newSession : Prog := Prog.all [
  modBrg fun b => { b with
    txSeq := 0
    rxSeq := 0
    credits := 64
    creditsOwed := 0
    nakSent := false
    episodes := 0
    unacked := []
    queue := [] },
  breakImports,
  revokeTokens]

/-- The link enters UP. -/
def enterUp : Prog := .seq (setLink 4) (deviceEvent 15)

/-- A commit of BRG_CTRL: EN = 0 declares the partner absent (R460). An AE480-QS2 ignores the
write (R6). -/
def brgCtrlCommit (v : Nat) : Prog :=
  .look fun s => Prog.when (s.ident.order = .qt2) <|
    let was := s.flag F.BRG_CTRL_EN
    .seq (setReg R.BRG_CTRL v)
      (Prog.when (was = true ∧ bitN v 0 = 0 ∧ s.brg.link ≠ 0 ∧ s.brg.link ≠ 7) declareAbsent)

/-- A write to BRG_CMD: 0x52 on a primary whose link is UP sends one RESET_REQ (R431). -/
def brgCommand (v : Nat) : Prog :=
  .look fun s => Prog.when (v % 256 = 0x52 ∧ s.localRole = 1 ∧ s.brg.link = 4)
    (sendPkt ⟨8, 0, 0x54535252, 0, 0, []⟩)

/-! ### Received flits (R409 to R411) -/

/-- The link enters RETRAIN. -/
def enterRetrain : Prog :=
  .look fun s => Prog.when (s.brg.link = 3 ∨ s.brg.link = 4) <| .seq
    (modBrg fun b => { b with retrainFrom := b.link, link := 5 })
    (raiseSecond 0x7002 unitBrg)

/-- Retransmit every unacknowledged flit, oldest first (R410). -/
def replayFlits : Prog :=
  .look fun s => Prog.when (s.brg.session = true ∧ s.brg.unacked ≠ []) <| Prog.all [
    modBrg fun b => { b with
      sent := b.unacked.foldl (fun l e => noteSent l e.2) b.sent
      episodes := b.episodes + 1 },
    bump F.BRG_REPLAY_COUNT_COUNT,
    raiseSecond 0x7001 unitBrg,
    .look fun t => Prog.when (8 ≤ t.brg.episodes) enterRetrain]

/-- A packet is acknowledged by ACK. -/
def ackCovers (ack : Nat) (e : Nat × Pkt) : Bool :=
  (ack + 512 - (e.1 + e.2.flits - 1) % 256) % 256 < 128

/-- The sideband of a received flit. -/
def takeSide (d : Side) : Prog := .seq
  (modBrg fun b =>
    let rest := if d.ackv then b.unacked.filter fun e => !ackCovers d.ack e else b.unacked
    ({ b with
      unacked := rest
      episodes := if rest.length < b.unacked.length then 0 else b.episodes
      credits := min 64 (b.credits + d.credit % 64) }).pump (b.queue.length + 1))
  (Prog.when (d.nak = true) replayFlits)

/-- A sequenced flit is discarded: a NAK is sent, once per error episode (R410). -/
def discardFlit : Prog :=
  .look fun s => Prog.when (s.brg.session = true ∧ s.brg.nakSent = false) <| .seq
    (modBrg fun b => { b with nakSent := true })
    (sendFree ⟨0, 0, 0, 0, 0, []⟩ true)

/-- A sequenced packet of `n` flits arrives in a session: taken in order, else discarded. -/
def receive (d : Side) (n : Nat) (p : Prog) : Prog :=
  .look fun s => Prog.when (s.brg.session = true) <|
    if d.seq % 256 ≠ s.brg.rxSeq then discardFlit
    else Prog.all [
      takeSide d,
      modBrg fun b => { b with
        rxSeq := (b.rxSeq + n) % 256
        nakSent := false
        creditsOwed := b.creditsOwed + n },
      p]

/-- A malformed packet is discarded and counted by its fault (R409). -/
def malformed : Prog := raiseSecond 0x7008 unitBrg

/-! ### Remote accesses served (R417, R422) -/

/-- The mailbox window: address and bytes. -/
def State.mailbox (s : State) : Nat × Nat :=
  (4096 * s.fld F.BRG_MBX_BASE_PFN, 4096 * min 16384 (s.fld F.BRG_MBX_SIZE_PAGES))

/-- Requests the partner may make in 10 µs. -/
def State.mbxRate (s : State) : Nat := zeroAsOne (s.fld F.BRG_MBX_RATE_REQS)

/-- A request or a SIGNAL counts in the current 10 µs window. -/
def countRequest (signal : Bool) : Prog :=
  .look fun s => modBrg fun b =>
    let new := decide (b.winAt + 250 ≤ s.time)
    let r := if new then 0 else b.winReqs
    let g := if new then 0 else b.winSigs
    { b with
      winAt := if new then s.time else b.winAt
      winReqs := if signal then r else r + 1
      winSigs := if signal then g + 1 else g }

/-- Status of Table 14-5 that refuses an access to `len` bytes at `addr`, or 0. -/
def State.refuses (s : State) (addr len : Nat) (write : Bool) : Nat :=
  let m := s.mailbox
  let inside := decide (m.1 ≤ addr) && decide (addr + len ≤ m.1 + m.2)
  let word := !write && len == 4 && [R.SYS_ID.addr, R.SYS_STATE.addr, R.BRG_STATUS.addr].contains addr
  let sub := write && decide (addr < m.1 + 1024) && !(len == 16 && addr % 16 == 0)
  if !(inside || word) || (inside && sub) then 1
  else if s.mbxRate < s.brg.winReqs then 2
  else if !word && !(write && decide (addr < m.1 + 1024)) && s.directConflict addr len write then 3
  else 0

/-- Count a refusal of an access at `addr` (R417); one for a region lock raises the fault of any
refused direct access (R121). -/
def countRefusal (st : Nat) (addr : Nat := 0) : Prog :=
  if st = 1 then .seq (bump F.BRG_REMOTE_REFUSED_BOUNDS) (raiseSecond 0x7005 unitBrg)
  else if st = 2 then .seq (bump F.BRG_REMOTE_REFUSED_RATE) (raiseSecond 0x7006 unitBrg)
  else if st = 3 then regionConflict addr
  else .skip

def sendWack (tag st : Nat) : Prog := sendPkt ⟨4, tag % 256, 0, st, 0, []⟩
def sendRdata (tag st : Nat) (data : List Byte) : Prog := sendPkt ⟨6, tag % 256, 0, st, 0, data⟩

/-- Highest accepted KEY, and the partner's EPOCH (R423). -/
def State.brgKey (s : State) : Nat := s.retNum (ijBase + 0x10) 4
def State.brgEpoch (s : State) : Nat := s.retNum (ijBase + 0x18) 8

/-- The submission's signal may be submitted. -/
def State.submits (s : State) (n : Nat) : Bool :=
  bitN (if n < 32 then s.rd R.BRG_SUB_SIGS_LO else s.rd R.BRG_SUB_SIGS_HI) (n % 32) == 1
    && s.sigKind n == 1

/-- A refused submission. -/
def refuseSubmission (tag : Nat) : Prog := Prog.all [
  bump F.BRG_SUB_COUNT_REFUSED,
  raise 0x7007 unitBrg,
  sendWack tag 5]

/-- A submission record (Table 14-7). -/
def submission (tag : Nat) (data : List Byte) : Prog :=
  .look fun s =>
    let key := leNat (slice data 4 4)
    let sig := (nth 0 data 8).toNat
    let v := leNat (slice data 12 4)
    if s.flag F.BRG_MBX_RATE_SUB_EN = false ∨ leNat (slice data 0 4) ≠ 0x42555342 ∨ key = 0
        ∨ 64 ≤ sig ∨ s.submits sig = false ∨ leNat (slice data 9 3) ≠ 0 then refuseSubmission tag
    else if key ≤ s.brgKey then sendWack tag 4
    else if s.plausible sig v ∧ s.rateOk sig ∧ s.ijFree.isSome then Prog.all [
      acceptEvent sig v 6 key 0 .skip,
      ijWrite (ijBase + 0x10) (leBytes 4 key),
      bump F.BRG_SUB_COUNT_ACCEPTED,
      sendWack tag 0]
    else .seq (checkSignal sig v 6 key 0 .skip .skip) (refuseSubmission tag)

/-- Address and length of a WRITE or READ packet are well formed. -/
def accessOk (addr len : Nat) : Bool :=
  decide (1 ≤ len) && decide (len ≤ 256) && decide (addr < 2 ^ 36)
    && addr / 256 == (addr + len - 1) / 256

/-- The Bridge node uses the pairs of the mailbox window (R19). -/
def useMailbox : Prog := useRegs [R.BRG_MBX_BASE, R.BRG_MBX_SIZE, R.BRG_MBX_RATE, R.BRG_SUB_SIGS_LO,
  R.BRG_SUB_SIGS_HI]

/-- Serve a WRITE. One whose read-modify-write meets an uncorrectable error is not performed and is
answered ERROR (R113; DESIGN CHOICE of the status, assumption 142). -/
def serveWrite (tag addr : Nat) (data : List Byte) : Prog :=
  if accessOk addr data.length = false then .seq malformed (sendWack tag 7)
  else .seq (countRequest false) <| .seq useMailbox <| .look fun s =>
    let st := s.refuses addr data.length true
    if st ≠ 0 then .seq (countRefusal st addr) (sendWack tag st)
    else if addr < s.mailbox.1 + 1024 then submission tag data
    else .seq (memWrite addr data) (sendWack tag (if s.rmwErrs addr data.length = [] then 0 else 7))

/-- A word the partner may read outside the window. -/
def State.partnerWord (s : State) (addr : Nat) : Nat :=
  if addr = R.SYS_ID.addr then s.rd R.SYS_ID
  else if addr = R.SYS_STATE.addr then s.sysStateWord
  else s.brgStatusWord

/-- Serve a READ. -/
def serveRead (tag addr len : Nat) : Prog :=
  if accessOk addr len = false then .seq malformed (sendRdata tag 7 [])
  else .seq (countRequest false) <| .seq useMailbox <| .look fun s =>
    let st := s.refuses addr len false
    if st ≠ 0 then .seq (countRefusal st addr) (sendRdata tag st [])
    else if decide (s.mailbox.1 ≤ addr) && decide (addr + len ≤ s.mailbox.1 + s.mailbox.2) then
      .seq (readEffects addr len)
        (if (s.readMark addr len).poison then sendRdata tag 6 []
         else sendRdata tag 0 (s.paBytes addr len))
    else sendRdata tag 0 (leBytes 4 (s.partnerWord addr))

/-! ### Answers to this chip's accesses (R416, R419) -/

/-- The outstanding access with a tag. -/
def State.remoteOf (s : State) (tag : Nat) (write : Bool) : Option Remote :=
  s.brg.remotes.find? fun r => r.tag == tag % 256 && r.write == write

/-- An access is answered: the token is renewed, and freed with the last access. -/
def remoteDone (r : Remote) : Prog := Prog.all [
  modBrg fun b => { b with remotes := b.remotes.filter fun q => !(q.tag == r.tag && q.write == r.write) },
  renewLease (192 + r.slot),
  .look fun s => Prog.when ((s.remotesOf r.slot) = []) (freeLease (192 + r.slot))]

/-- The stop of a slot fails for an access's answer; its other accesses are dropped. -/
def remoteFail (i status : Nat) : Prog := Prog.all [
  modBrg fun b => { b with remotes := b.remotes.filter fun r => r.slot != i },
  freeLease (192 + i),
  failStop i status]

/-- WACK. -/
def takeWack (tag st : Nat) : Prog :=
  .look fun s => match s.remoteOf tag true with
    | none => .skip
    | some r => .seq (remoteDone r) <|
        if st = 0 ∨ st = 4 then .skip
        else remoteFail r.slot (if st = 5 ∧ r.submit = true then 0x0F else 0x0E)

/-- RDATA. -/
def takeRdata (tag st : Nat) (data : List Byte) : Prog :=
  .look fun s => match s.remoteOf tag false with
    | none => .skip
    | some r => .seq (remoteDone r) <|
        if st = 0 then modSlot r.slot fun o => { o with fetched := o.fetched ++ [(r.addr, data.take r.len)] }
        else remoteFail r.slot (if st = 6 then 1 else 0x0E)

/-! ### HELLO (R414) -/

/-- This chip's HELLO. It boots until its image is loaded or has failed. -/
def State.helloPkt (s : State) : Pkt :=
  ⟨1, 0, 0x480 + 65536 * s.localRole,
   bit 0 (s.boot.overBridge && s.boot.chosen.isNone && s.boot.phase != 7 && s.boot.phase != 8),
   s.boot.buildId, leBytes 8 (s.retNum 0x18 8)⟩

/-- A Bridge-booted secondary reports the result of its load, and then who it is (R429). -/
def imageDone (status : Nat) : Prog :=
  .look fun s => Prog.when (s.boot.overBridge = true ∧ s.brg.link = 3) <| Prog.all [
    sendPkt ⟨12, 0, 0, status, 0, []⟩,
    setLink 2,
    .look fun t => sendFree t.helloPkt]

/-- This chip's HEART. -/
def State.heartPkt (s : State) : Pkt := ⟨2, 0, s.lamp.power.code, 0, s.lamp.tick % 2 ^ 48, []⟩

/-- The partner's EPOCH is taken from an accepted HELLO (R423). -/
def takeEpoch (epoch : Nat) : Prog :=
  .look fun s => Prog.when (epoch % 2 ^ 64 ≠ s.brgEpoch) <| .seq
    (ijWrite (ijBase + 0x10) (leBytes 4 0))
    (ijWrite (ijBase + 0x18) (leBytes 8 epoch))

/-! ### Image forwarding (R428, R429) -/

/-- IMAGE packets for `len` bytes at `off` of the image, cut at 256 B boundaries. -/
def State.imagePkts (s : State) (off len : Nat) : List Pkt :=
  (cut256 (len / 256 + 2) (off, len)).map fun p =>
    ⟨9, 0, p.1, p.2, 0, s.bytes .flash (s.boot.imageBase + p.1) p.2⟩

/-- Queue the packets of one section. -/
def sendSection (x : Sect) : Prog :=
  .look fun s => Prog.each (s.imagePkts x.offset x.length) sendPkt

/-- Queue the image for the secondary (R428): bytes 0 to SIG_OFF + 255, the secondary's sections
and IMAGE_END. -/
def sendImage : Prog :=
  .look fun s => Prog.all [
    Prog.each (s.imagePkts 0 (s.num .flash (s.boot.imageBase + 0x20) 4 + 256)) sendPkt,
    Prog.each (s.boot.sects.filter fun x => bitN x.roles 2 == 1 && x.kind != 3) sendSection,
    sendPkt ⟨10, 0, s.boot.imageLen, 0, 0, []⟩]

end Sys2Proof.Machine
end

