-- ==== Sys2Proof/Machine/Camera.lean ====
section
/-! DEFINITION. The camera receiver and its commands (chapter 06, R182 to R196 and R212). -/

namespace Sys2Proof.Machine

/-! ### Formats and windows -/

/-- Bytes per pixel of CAM_CTRL.FMT. -/
def camBpp (fmt : Nat) : Nat := if fmt = 1 then 3 else 2

/-- Data type of CAM_CTRL.FMT (Table 06-2); FMT 3 names none. -/
def camType (fmt : Nat) : Nat :=
  if fmt = 0 then 0x1E else if fmt = 1 then 0x24 else if fmt = 2 then 0x22 else 0x100

/-- Byte `i` of a line of the fill pattern (R185). -/
def camFill (fmt i : Nat) : Byte := if fmt = 0 then (if i % 2 = 0 then 0x80 else 0x10) else 0

/-- RGB888 from the CSI-2 order B, G, R to R, G, B; the others as sent (R184). -/
def camOrder (fmt : Nat) (bs : List Byte) : List Byte :=
  if fmt = 1 then (upTo (bs.length / 3 * 3)).map fun i => nth 0 bs (i / 3 * 3 + (2 - i % 3))
  else bs

/-- One stored line: WIDTH pixels of payload or fill, then zeros to the pitch. -/
def camLine (fmt width pitch : Nat) (payload : List Byte) : List Byte :=
  let bpp := camBpp fmt
  let whole := (camOrder fmt payload).take (payload.length / bpp * bpp)
  let n := width * bpp
  ((upTo n).map fun i => if i < whole.length then nth 0 whole i else camFill fmt i)
    ++ zeros (pitch - n)

/-- A field of CAM_CTRL as latched at the start. -/
def State.camCtrl (s : State) (f : Field) : Nat := bits s.cam.ctrl f.hi f.lo

def State.camSlotPa (s : State) (slot : Nat) : Nat :=
  64 * s.fld F.CAM_RING_BASE_BASE + slot * s.fld F.CAM_SLOT_SIZE_BYTES

def State.camRecPa (s : State) (slot : Nat) : Nat := 64 * s.fld F.CAM_REC_BASE_BASE + 64 * slot



/-- The conditions of R194 under which a start is accepted. -/
def State.camStartOk (s : State) (ctrl : Nat) : Bool :=
  let w := s.fld F.CAM_WINDOW_WIDTH
  let h := s.fld F.CAM_WINDOW_HEIGHT
  let fmt := bits ctrl 7 6
  let pitch := s.fld F.CAM_PITCH_BYTES
  let rate := s.fld F.CAM_PHY_CFG_RATE
  let slots := bits ctrl 15 12
  let rel := bits ctrl 25 16
  let period := s.fld F.CAM_MIN_PERIOD_US
  16 ≤ w && w ≤ 3840 && 16 ≤ h && h ≤ 2160 && !(fmt == 0 && w % 2 == 1)
    && 15000 ≤ period && w * h * 1000000 ≤ 260000000 * period
    && w * camBpp fmt ≤ pitch && pitch % 64 == 0
    && pitch * h ≤ s.fld F.CAM_SLOT_SIZE_BYTES
    && 80 ≤ rate && rate ≤ 2500 && !(1500 < rate && s.fld F.CAM_PHY_CFG_DESKEW == 0)
    && 2 ≤ slots && slots ≤ 8 && 16 ≤ rel
    && (upTo slots).all fun k => s.inMemory (s.camSlotPa k) (s.fld F.CAM_SLOT_SIZE_BYTES)
        && s.inMemory (s.camRecPa k) 64

/-! ### Closing and publishing a frame -/

/-- STATUS of a frame record (Table 06-3). -/
def CamFrame.status (f : CamFrame) : Nat :=
  (if f.truncated then 1 else 0) + (if f.incomplete then 2 else 0) + (if f.crcErr then 4 else 0)

/-- The 64 bytes of a frame record (Table 06-3). -/
def camRecord (seq : Nat) (f : CamFrame) (feRef crc : Nat) : List Byte :=
  leBytes 4 0x4D524643 ++ leBytes 4 seq ++ leBytes 2 f.frameNum ++ leBytes 1 f.status
    ++ leBytes 1 f.slot ++ leBytes 2 (min 65535 f.linesRx) ++ zeros 2 ++ leBytes 8 f.fsRef
    ++ leBytes 8 feRef ++ leBytes 8 (f.fsLamp % 2 ^ 48) ++ leBytes 4 crc ++ zeros 20

/-- Publish a frame (R189): the count, crossing 6, and the end of STALE. -/
def camPublish (f : CamFrame) (crc repeats : Nat) : Prog :=
  .look fun s => Prog.all [
    setReg R.CAM_PUBLISHED ((s.rd R.CAM_PUBLISHED + 1) % 2 ^ 32),
    deviceEvent 6,
    setF F.CAM_LAST_FRAME_NUM_NUM f.frameNum,
    setF F.CAM_STATUS_STALE 0,
    setF F.CAM_STATUS_FROZEN 0,
    modCam fun c => { c with lastPub := s.time, lastCrc := some crc, repeats := repeats },
    .look fun t =>
      let n := t.fld F.CAM_FREEZE_COUNT
      Prog.when (n ≠ 0 ∧ n ≤ repeats) <| .seq (setF F.CAM_STATUS_FROZEN 1) (raise 0x3103 unitCam)]

/-- A completed frame is published, or left unpublished and counted (R189, R193). The count has no field
of its own for a frame that is neither TRUNCATED nor INCOMPLETE: the model counts it as INCOMPLETE
(DESIGN CHOICE, assumption 140). -/
def camDecide (f : CamFrame) (crc : Nat) : Prog :=
  .look fun s =>
    let same := s.cam.lastCrc == some crc
    let masked := f.status &&& (7 - s.fld F.CAM_CTRL_PUB_MASK)
    .seq (Prog.when (same = false) (setF F.CAM_STATUS_FROZEN 0)) <|
      if masked ≠ 0 ∨ (s.flag F.CAM_STATUS_FROZEN = true ∧ s.fld F.CAM_FREEZE_COUNT ≠ 0 ∧ same = true)
      then .seq (Prog.when (f.truncated = true) (bump F.CAM_BAD_COUNT_TRUNCATED))
        (Prog.when (f.incomplete = true ∨ f.truncated = false) (bump F.CAM_BAD_COUNT_INCOMPLETE))
      else camPublish f crc (if same then s.cam.repeats + 1 else 1)

/-- The receiver stops once the frame in progress is over (R195). -/
def camStopNow : Prog :=
  .seq (setF F.CAM_STATUS_RUNNING 0) (modCam fun c => { c with closing := false, dropping := false })

/-- Complete the frame in progress (R185, R186, R189): the lines not received are filled, the
slot's rest is zeroed, the record is written and the slot's tags are cleared. -/
def camClose (incomplete : Bool) : Prog :=
  .look fun s => match s.cam.frame with
    | none => .skip
    | some f0 =>
      let fmt := s.camCtrl F.CAM_CTRL_FMT
      let pitch := s.fld F.CAM_PITCH_BYTES
      let f := { f0 with incomplete := f0.incomplete || incomplete || decide (f0.line < f0.height) }
      let pa := s.camSlotPa f.slot
      let missing := (upTo (f.height - f.line)).map fun _ => camLine fmt f.width pitch []
      Prog.all [
        paStore (pa + f.line * pitch) missing.flatten,
        paStore (pa + f.height * pitch) (zeros (s.fld F.CAM_SLOT_SIZE_BYTES - f.height * pitch)),
        modCam fun c => { c with frame := none },
        setF F.CAM_STATUS_IN_FRAME 0,
        .look fun t =>
          let crc := crc32 (t.paBytes pa (f.height * pitch))
          Prog.all [
            paStore (t.camRecPa f.slot)
              (camRecord ((t.rd R.CAM_PUBLISHED + 1) % 2 ^ 32) f t.lamp.refCount crc),
            cleanRange pa (t.fld F.CAM_SLOT_SIZE_BYTES),
            Prog.when (f.truncated = true) (raiseSecond 0x3104 unitCam),
            Prog.when (f.incomplete = true) (raiseSecond 0x3105 unitCam),
            Prog.when (f.crcErr = true) (raiseSecond 0x3106 unitCam),
            camDecide f crc],
        Prog.when (s.cam.closing = true) camStopNow]

/-! ### Commits of CAM_CTRL -/

/-- The effect of a commit that left `v` in CAM_CTRL (R194 to R196). -/
def camCommit (v : Nat) : Prog :=
  .look fun s =>
    if s.flag F.CAM_STATUS_RUNNING then
      (if bitN v 0 = 1 then modCam fun c => { c with closing := false }
       else if s.cam.frame = none then camStopNow
       else modCam fun c => { c with closing := true })
    else if bitN v 0 = 0 ∨ s.cam.held = true ∨ s.lamp.power ≠ .running ∨ s.secondary = true then .skip
    else if s.camStartOk v then Prog.all [
      usePair R.CAM_CTRL,
      usePair R.CAM_WINDOW,
      setF F.CAM_STATUS_RUNNING 1,
      firstWrite [.csi],
      modCam fun c => { c with ctrl := v, lane := s.rd R.CAM_LANE, phy := s.rd R.CAM_PHY_CFG,
                               closing := false, frame := none, dropping := false, lastPub := s.time }]
    else raise 0x310B unitCam

/-- A commit of CAM_CTRL: with EN = 1 it is ignored while the camera is absent (R196). -/
def camCtrlCommit (v : Nat) : Prog :=
  .look fun s => Prog.when (bitN v 0 = 0 ∨ s.flag F.CAM_STATUS_ABSENT = false)
    (.seq (setReg R.CAM_CTRL v) (camCommit v))

/-- The receiver leaves its reset: a start committed meanwhile takes effect (DEDUCED, assumption 139 on
R196). -/
def camRelease : Prog :=
  .look fun s => Prog.when (s.cam.held = true ∧ s.flag F.CAM_STATUS_ABSENT = false
      ∧ s.secondary = false) <| .seq
    (modCam fun c => { c with held := false })
    (.look fun t => camCommit (t.rd R.CAM_CTRL))

/-- CAM_CTRL takes the committed word with the EN bit of the command. -/
def camCtrlWord (v en : Nat) : Nat := v % 2 ^ 32 &&& R.CAM_CTRL.rw &&& 0x3FFF7FE ||| en

/-- CAM_START: a commit of CAM_CTRL with EN = 1 (R194). -/
def execCamStart (v : Nat) (s : State) : Host.Outcome State Fault Refusal :=
  Prog.outcome (camCtrlCommit (camCtrlWord v 1)) s

/-- CAM_STOP: a commit of CAM_CTRL with EN = 0 (R195). -/
def execCamStop (v : Nat) (s : State) : Host.Outcome State Fault Refusal :=
  Prog.outcome (camCtrlCommit (camCtrlWord v 0)) s

/-! ### Packets -/

/-- The receiver runs, and QUIET has not gated its clock (R43). -/
def State.camRuns (s : State) : Bool :=
  s.flag F.CAM_STATUS_RUNNING && !(s.lamp.power == .quiet && s.lamp.quietGated)

/-- A packet reaches the running receiver with a header that is good (0), corrected (1) or
uncorrectable (2): the last is discarded, and the frame in progress is INCOMPLETE (R183). -/
def camPacket (header : Nat) (go : Prog) : Prog :=
  .look fun s => Prog.when (s.camRuns = true) <|
    if 2 ≤ header then Prog.all [
      bump F.CAM_ERR_COUNT_ECC_UNCORR,
      raiseSecond 0x3107 unitCam,
      modCam fun c => { c with frame := c.frame.map fun f => { f with incomplete := true } }]
    else .seq (Prog.when (header = 1) (bump F.CAM_ERR_COUNT_ECC_CORR)) go

/-- A packet on another channel, or of another type, is discarded and counted (R182). -/
def camIgnore (vc : Nat) : Prog :=
  .look fun s => if vc ≠ s.camCtrl F.CAM_CTRL_VC then bump F.CAM_IGNORED_COUNT_VC
    else bump F.CAM_IGNORED_COUNT_TYPE

/-- A whole frame is dropped, counted in `f` (R187, R188). -/
def camDrop (f : Field) (code : Nat) : Prog := Prog.all [
  bump f,
  raiseSecond code unitCam,
  modCam fun c => { c with dropping := true }]

/-- An accepted frame start (R185, R188): it becomes the current frame, or is dropped while
every slot is held. -/
def camAccept (frameNum : Nat) : Prog :=
  .look fun s =>
    let pub := s.rd R.CAM_PUBLISHED
    let rel := (s.crossing (s.camCtrl F.CAM_CTRL_REL_XNG)).value
    let slots := s.camCtrl F.CAM_CTRL_SLOTS
    if (pub + 2 ^ 32 - rel) % 2 ^ 32 < slots then
      Prog.all [
        usePair R.CAM_WINDOW,
        bump F.CAM_RX_COUNT_COUNT,
        setF F.CAM_STATUS_IN_FRAME 1,
        setF F.CAM_STATUS_SLOT (pub % slots),
        .look fun t => modCam fun c => { c with
          lastStart := some t.time
          dropping := false
          frame := some ⟨frameNum % 65536, pub % slots, t.fld F.CAM_WINDOW_WIDTH,
            t.fld F.CAM_WINDOW_HEIGHT, 0, 0, false, false, false, t.lamp.refCount, t.lamp.tick,
            t.time⟩ }]
    else camDrop F.CAM_DROP_COUNT_BUSY 0x3109

/-- CSI_FRAME_START: a frame-start packet on virtual channel `vc` (R183, R186 to R188). A frame in
progress stays open under a frame that comes too fast. -/
def execCsiFrameStart (h : PacketHead) (frameNum : Nat) (s : State) : Host.Outcome State Fault Refusal :=
  Prog.outcome (camPacket h.ecc
    (if h.vc ≠ s.camCtrl F.CAM_CTRL_VC then camIgnore h.vc
     else if s.cam.closing then .skip
     else if (match s.cam.lastStart with
         | none => false
         | some t => decide (s.time < t + usTicks (s.fld F.CAM_MIN_PERIOD_US))) then
       camDrop F.CAM_DROP_COUNT_FAST 0x3108
     else .seq (camClose true) (camAccept frameNum))) s

/-- CSI_FRAME_END: a frame-end packet closes the frame (R183, R186, R189); the end of a dropped frame
closes none. -/
def execCsiFrameEnd (h : PacketHead) (s : State) : Host.Outcome State Fault Refusal :=
  Prog.outcome (camPacket h.ecc
    (if h.vc ≠ s.camCtrl F.CAM_CTRL_VC then camIgnore h.vc
     else if s.cam.dropping then modCam fun c => { c with dropping := false }
     else camClose false)) s

/-- Store a matching payload as the next line of the current frame (R185). A payload whose CRC fails is
counted, in a frame or outside one (R183); nothing of a dropped frame is stored. -/
def camStoreLine (payload : List Byte) (crcOk : Bool) : Prog :=
  .look fun s => .seq (Prog.when (crcOk = false) (bump F.CAM_ERR_COUNT_CRC)) <|
    Prog.when (s.cam.dropping = false) <| match s.cam.frame with
    | none => .skip
    | some f =>
      let fmt := s.camCtrl F.CAM_CTRL_FMT
      let pitch := s.fld F.CAM_PITCH_BYTES
      let px := payload.length / camBpp fmt
      let inside := decide (f.line < f.height)
      .seq
        (Prog.when (inside = true) (paStore (s.camSlotPa f.slot + f.line * pitch)
          (camLine fmt f.width pitch payload)))
        (modCam fun c => { c with frame := some { f with
          line := if inside then f.line + 1 else f.line
          linesRx := f.linesRx + 1
          truncated := f.truncated || !inside || decide (f.width < px)
          incomplete := f.incomplete || (inside && decide (px < f.width))
          crcErr := f.crcErr || !crcOk } })

/-- CSI_LONG_PACKET: a long packet whose header is good (0), corrected (1) or uncorrectable (2)
and whose payload CRC holds or not (R182 to R185). -/
def execCsiLongPacket (vc dt header : Nat) (payload : List Byte) (crcOk : Bool) (s : State) :
    Host.Outcome State Fault Refusal :=
  Prog.outcome (camPacket header
    (if vc ≠ s.camCtrl F.CAM_CTRL_VC ∨ dt ≠ camType (s.camCtrl F.CAM_CTRL_FMT) then camIgnore vc
     else camStoreLine payload crcOk)) s

/-- CSI_IGNORED_PACKET: a packet of another channel or type (R182). -/
def execCsiIgnoredPacket (h : PacketHead) (s : State) : Host.Outcome State Fault Refusal :=
  Prog.outcome (camPacket h.ecc (camIgnore h.vc)) s

/-- CAM_FRAME_TIMEOUT: the frame in progress is closed INCOMPLETE (R186). -/
def execCamFrameTimeout (s : State) : Host.Outcome State Fault Refusal :=
  Prog.outcome (Prog.when (s.camRuns = true) (camClose true)) s

/-- CAM_STALE_TIMEOUT: no frame has been published for CAM_STALE ms (R192). -/
def execCamStaleTimeout (s : State) : Host.Outcome State Fault Refusal :=
  Prog.outcome
    (Prog.when (s.flag F.CAM_CTRL_EN = true ∧ s.lamp.power = .running
        ∧ s.flag F.CAM_STATUS_STALE = false)
      (.seq (setF F.CAM_STATUS_STALE 1) (raise 0x3102 unitCam))) s

/-- CSI_PHY_ERROR: a D-PHY error on the camera's lanes (R212). -/
def execCsiPhyError (s : State) : Host.Outcome State Fault Refusal :=
  Prog.outcome
    (Prog.when (s.camRuns = true)
      (.seq (bump F.CAM_ERR_COUNT_PHY) (raiseSecond 0x310A unitCam))) s

/-- The camera counts as absent (R196). -/
def camAbsent : Prog :=
  Prog.all [
    setF F.CAM_STATUS_ABSENT 1,
    setF F.CAM_STATUS_RUNNING 0,
    setF F.CAM_STATUS_IN_FRAME 0,
    modCam fun c => { c with held := true, frame := none, closing := false, dropping := false },
    raise 0x3101 unitCam]

end Sys2Proof.Machine
end

