-- ==== Sys2Proof/Machine/Recovery.lean ====
section
/-! DEFINITION. The reclaimer: fault messages, leases that expire, the recovery of a unit in place
and its retirement for the run (chapter 16, R443 to R458). -/

namespace Sys2Proof.Machine

/-! ### Fencing (R451 step 1, Table 16-8) -/

/-- What the fence of a unit recovered in place does at once: the camera's frame is closed
INCOMPLETE, the output stops, the partner is declared absent. -/
def fencedNow (u : Nat) : Prog :=
  .look fun s =>
    if u = unitCam then Prog.when (s.flag F.CAM_STATUS_RUNNING = true)
      (.seq (camClose true) (setF F.CAM_STATUS_RUNNING 0))
    else if u = unitSco 0 ∨ u = unitSco 1 then
      .seq (stopOutput (u - unitSco 0) .fault) <| .look fun t =>
        Prog.when ((t.output (u - unitSco 0)).phase = 3) <| .seq
          (modOut (u - unitSco 0) fun o => { o with stop := .fault })
          (finishStop (u - unitSco 0))
    else if u = unitBrg then .seq (modBrg fun b => { b with dead := true })
      (Prog.when (s.brg.link ≠ 0 ∧ s.brg.link ≠ 7) declareAbsent)
    else .skip

/-- Fence units with the effects of Table 16-8. -/
def fenceWith (us : List Nat) (code status : Nat) : Prog :=
  .look fun s =>
    let new := us.filter fun u => !s.rcl.fenced.contains u
    .seq (fenceUnits us code status) <|
      Prog.when (s.live = true ∧ s.rcl.escalating = false) (Prog.each new fencedNow)

/-! ### Units that recover otherwise (R155, R156, R457) -/

/-- A warden's pair diverges or is found faulty: it dispatches no more, and the survivor takes
over. Without a survivor the reclaimer escalates. -/
def wardenFault (w : Nat) : Prog :=
  .look fun s => Prog.when (s.wardenOk w = true) <| Prog.all [
    modWrd fun x => if w = 0 then { x with ok0 := false, diverged := some w }
      else { x with ok1 := false, diverged := some w },
    modAve fun v => { v with gates := v.gates ++ [w] },
    Prog.when (s.wrd.takeover = true ∨ s.wardenOk (1 - w) = false) escalate]

/-- The recovery of unit `u` as Table 16-8 states. -/
def recoverWith (u code status : Nat) : Prog :=
  if u < 2 then wardenFault u
  else if recoveredInPlace u then fenceWith [u] code status
  else if 48 ≤ u ∧ u < 80 then (if code = 0x900B then bankFail (u - 48) else escalate)
  else if recoveredByReset u then escalate
  else .skip

/-- Identifiers of Table 16-8. -/
def isUnit (u : Nat) : Bool := u < 41 || (48 ≤ u && u < 116)

/-- Codes with which a unit reports a fault of its own: parity and uncorrectable errors of its
stores (R199, R215, R267) and an injected fault. -/
def isUnitFault (code : Nat) : Bool :=
  (0x1002 ≤ code && code < 0x1800 && code % 256 == 2) || code == 0x2001 || code == 0x3004
    || code == 0x900B

/-- The reclaimer's escalation out of a recovery that failed at a step (R456). -/
def recoveryEscalates (u step : Nat) : Prog := .seq (raise 0x9004 u step) escalate

/-! ### The lease table -/

/-- Records that units own. -/
def State.ownedBy (s : State) (us : List Nat) : List (Nat × Lease) :=
  s.leases.filter fun e => e.2.ownerKind == 3 && us.contains e.2.owner

/-- The lock entries with those of lease records `ns` marked. -/
def marked (ns : List Nat) (b : Bool) (l : List (Option RegionLock)) : List (Option RegionLock) :=
  (upTo l.length).map fun n => match nth none l n with
    | none => none
    | some k => if ns.contains n then some { k with transferred := b } else some k

/-- Mark the region locks of lease records as in the reclaimer's hands, or hand them back. -/
def markTransferred (ns : List Nat) (b : Bool) : Prog :=
  modAve fun v => { v with locks := marked ns b v.locks }

/-- Transfer the units' records to the reclaimer (step 2). -/
def transferRecords (us : List Nat) : Prog :=
  .look fun s => .seq
    (Prog.each (s.ownedBy us) fun e => .act (.lease e.1 (some { e.2 with ownerKind := 5 })))
    (markTransferred ((s.ownedBy us).map fun e => e.1) true)

/-- Hand the transferred records back (step 7). -/
def handBack (l : List (Nat × Nat × Nat)) : Prog :=
  .look fun s => .seq
    (Prog.each l fun e => match keyGet s.leases e.1 with
      | none => .skip
      | some r => .act (.lease e.1 (some { r with ownerKind := e.2.1, owner := e.2.2 })))
    (markTransferred (l.map fun e => e.1) false)

/-- Free records and the region locks they stand for. -/
def dropRecords (ns : List Nat) : Prog :=
  Prog.each ns fun n => if n < 64 then freeLock n else freeLease n

/-! ### The steps of Table 16-9 -/

/-- The slot still holds a stop that one of the units serves. -/
def State.stillServes (s : State) (us : List Nat) (i : Nat) : Bool :=
  match s.slotOf i with
  | none => false
  | some o => o.units.any us.contains || (us.contains unitRas && s.ras.held == some i)

/-- RECOVERY_NEXT: step 2 and the start of step 3 for the next pending recovery. -/
def execRecoveryNext (s : State) : Host.Outcome State Fault Refusal :=
  Prog.outcome
    (match s.rcl.current, s.rcl.pending with
     | none, r :: rest => Prog.when (s.live = true ∧ s.rcl.escalating = false) <| Prog.all [
         Prog.each r.units fun u => freeLease (64 + u),
         Prog.each r.executing fun i => freeLease (192 + i),
         transferRecords r.units,
         modRcl fun c => { c with
           current := some { r with
             step := 3
             transferred := (s.ownedBy r.units).map fun e => (e.1, e.2.ownerKind, e.2.owner) }
           pending := rest
           recent := (c.recent.filter fun e => s.time < e.2 + 25000000)
             ++ r.units.map fun u => (u, s.time) }]
     | _, _ => .skip) s

/-- Recoveries of a unit within 1 s, the present one included (R456). -/
def State.recoveries (s : State) (u : Nat) : Nat :=
  countIf (fun (e : Nat × Nat) => e.1 == u && decide (s.time < e.2 + 25000000)) s.rcl.recent

/-- A unit that may be retired for the run: a tile core not reserved by the running profile, a
vision engine or the camera receiver, with RETIRE_EN (R456). -/
def State.retirable (s : State) (u : Nat) : Bool :=
  s.flag F.RCL_CTRL_RETIRE_EN
    && ((12 ≤ u && u < 28 && !s.reservedCores.contains u) || (29 ≤ u && u < 34))

/-- Stops dispatched to the units and not started return to their queues (R452). -/
def requeueNotStarted (r : Recovery) : Prog :=
  Prog.each r.notStarted fun i => .look fun s => match s.slotOf i with
    | none => .skip
    | some o => Prog.when (s.stillServes r.units i = true ∧ o.started = false) <| .seq
        (raise 0x9003 (r.units.headD unitNone) i o.stop.queue o.stop.tag)
        (requeueStop i)

/-- The recovery ends: nothing is being recovered. -/
def endRecovery (r : Recovery) : Prog :=
  modRcl fun c => { c with
    current := none
    fenced := c.fenced.filter fun u => !r.units.contains u }

/-- Retire the units for the run. -/
def retireUnits (r : Recovery) : Prog :=
  .look fun s => Prog.all [
    requeueNotStarted r,
    dropRecords (r.transferred.map fun e => e.1),
    Prog.each r.units fun u => dropLockWaits (.unit u),
    modRcl fun c => { c with retired := c.retired ++ r.units },
    endRecovery r,
    Prog.each r.units fun u => raise 0x9005 u (s.recoveries u),
    Prog.when (r.units.contains unitCam = true) camAbsent]

/-- A recovery whose check fails, or the unit's third within 1 s (R456). -/
def recoveryFails (r : Recovery) : Prog :=
  .seq (usePair R.RCL_CTRL) <| .look fun s =>
    if r.units.all s.retirable then retireUnits r
    else recoveryEscalates (r.units.headD unitNone) r.step

/-- RECOVERY_WITHDRAW_DONE: steps 3 to 5 end, and step 6 starts unless this is the unit's third
recovery within 1 s. -/
def execRecoveryWithdrawDone (s : State) : Host.Outcome State Fault Refusal :=
  Prog.outcome
    (match s.rcl.current with
     | none => .skip
     | some r => Prog.when (r.step = 3) <| .seq
         (Prog.each r.executing fun i => .look fun t => Prog.when (t.stillServes r.units i = true)
           (failStop i (if r.status = 0xFF then 0x0A else r.status)))
         (.look fun t =>
           let r6 : Recovery := { r with step := 6 }
           if r.units.any fun u => decide (3 ≤ t.recoveries u) then recoveryFails r6
           else modRcl fun c => { c with current := some r6 })) s

/-- What the domain reset and the return of a unit leave (Table 16-8). -/
def returnUnit (u : Nat) : Prog :=
  .look fun s =>
    if 4 ≤ u ∧ u < 12 then
      .seq (Prog.each (upTo 25) fun k => modArr (25 * (u - 4) + k) fun a =>
          { a with calRunning := false, writing := none })
        (Prog.each (upTo 25) fun k => dueCalibration (25 * (u - 4) + k))
    else if 12 ≤ u ∧ u < 28 then
      modRas fun r => { r with cores := upd r.cores (u - 12) Core.reset }
    else if u = unitRas then modRas fun r => { r with held := none, binDone := false }
    else if u = unitCam then Prog.when (s.flag F.CAM_CTRL_EN = true ∧ s.cam.held = false
        ∧ s.secondary = false) <| .seq (setF F.CAM_STATUS_RUNNING 1)
          (modCam fun c => { c with lastStart := none })
    else if u = unitRbt then .seq
      (Prog.each s.rbt.served fun d => Prog.each (upTo 3) fun p =>
        Prog.when ((s.track (3 * d.1 + p)).enabled = true) (repeatChoice (3 * d.1 + p) d.2))
      (modRbt fun r => { r with served := [] })
    else if u = unitSco 0 ∨ u = unitSco 1 then
      let x := u - unitSco 0
      Prog.when (bitN (s.rd R.SCO_CTRL) x = 1 ∧ s.lamp.power = .running ∧ s.lamp.parkStep = 0
        ∧ (s.output x).active = false) (launchOutput x 2 false true)
    else .skip

/-- Step 7: the units are returned. -/
def recoveryReturns (r : Recovery) : Prog :=
  .look fun s =>
    let us := (s.time - r.start) / 25
    Prog.all [
      requeueNotStarted r,
      handBack r.transferred,
      modAve fun v => { v with gates := v.gates.filter fun u => !r.units.contains u },
      endRecovery r,
      Prog.each r.units returnUnit,
      Prog.each (upTo 64) regainCores,
      bump F.RCL_RECOVER_COUNT_DONE,
      setReg R.RCL_LAST_US (min 0xFFFF us),
      Prog.each r.units fun u => raise 0x9002 u us]

/-- Every PLL whose loss fenced the units has relocked (R36). -/
def State.unitsClocked (s : State) (r : Recovery) : Bool :=
  r.code != 0x0003 || (upTo 9).all fun p =>
    !((p == 1 && r.units.contains unitRas) || (p == 2 && r.units.contains 4)
        || ((p == 3 || p == 5) && r.units.contains (unitSco 0))
        || ((p == 4 || p == 6) && r.units.contains (unitSco 1))
        || (p == 8 && r.units.contains unitBrg))
      || bitN s.lamp.pllReq p == 0 || s.pllsLocked (2 ^ p)

/-- The self-test that follows a failed warden's domain reset ends: one that passes serves as the
survivor's shadow, and any other stays fenced (R156). -/
def wardenTested (reachable ok : Bool) : Prog :=
  .look fun s => match s.wrd.selfTest with
    | none => .skip
    | some w =>
      if reachable = false then recoveryEscalates w 6
      else Prog.all [
        modWrd fun x => { x with selfTest := none, serving := if ok then some w else x.serving },
        Prog.when (ok = true) (modAve fun v => { v with gates := v.gates.filter (· ≠ w) })]

/-- UNIT_CHECK_DONE: `reachable`: the unit's agent answers; `ok`: its check passed. -/
def execUnitCheckDone (reachable ok : Bool) (s : State) : Host.Outcome State Fault Refusal :=
  Prog.outcome
    (match s.rcl.current with
     | none => wardenTested reachable ok
     | some r =>
       if reachable = false then recoveryEscalates (r.units.headD unitNone) r.step
       else Prog.when (r.step = 6 ∧ s.unitsClocked r = true)
         (if ok then recoveryReturns { r with step := 7 } else recoveryFails r)) s

/-! ### Messages (R443, R455, R456) -/

/-- A unit that faults during step 6 of its own recovery fails it. -/
def State.faultsInCheck (s : State) (u : Nat) : Option Recovery :=
  match s.rcl.current with
  | none => none
  | some r => if r.step = 6 ∧ r.units.contains u = true then some r else none

/-- Codes of Table 16-4. -/
def isFaultCode (code : Nat) : Bool :=
  let n := code % 256
  let top := match code / 256 with
    | 0x00 => 6 | 0x01 => 5 | 0x02 => 14 | 0x03 => 9 | 0x04 => 4 | 0x05 => 7 | 0x06 => 5
    | 0x20 => 1 | 0x21 => 3 | 0x30 => 4 | 0x31 => 11 | 0x40 => 9 | 0x41 => 7 | 0x42 => 5
    | 0x50 => 11 | 0x60 => 8 | 0x61 => 8 | 0x62 => 7 | 0x63 => 1 | 0x70 => 12 | 0x80 => 4
    | 0x90 => 11
    | h => if 0x10 ≤ h ∧ h ≤ 0x17 then 13 else 0
  1 ≤ n && n ≤ top && code != 0x3002

/-- FAULT_MESSAGE: a unit's message reaches the reclaimer. A fault of the unit itself has it
recovered, its stops failing with UNIT_FAULT (R199, R215, R267); a bank controller that fails its own
check has the bank declared failed (R116). -/
def execFaultMessage (m : FaultMsg) (s : State) : Host.Outcome State Fault Refusal :=
  Prog.outcome (Prog.when (s.live = true ∧ isUnit m.unit = true ∧ isFaultCode m.code = true) <| .seq
    (raise m.code m.unit m.detail m.queue m.tag m.status)
    (if m.code = 0x0303 then bankDown else
     .seq (Prog.when (m.code = 0x2001) (bump F.TILE_ERR_COUNT_UE)) <|
     Prog.when (isUnitFault m.code = true) <| match s.faultsInCheck m.unit with
      | some r => recoveryFails r
      | none => recoverWith m.unit m.code 0x0A)) s

/-- A write of RCL_INJECT. -/
def injectFault (v : Nat) : Prog :=
  let u := bits v 6 0
  .look fun s => Prog.when (s.live = true ∧ bits v 31 24 = 0xA5 ∧ isUnit u = true) <| .seq
    (raise 0x900B u)
    (match s.faultsInCheck u with
     | some r => recoveryFails r
     | none => recoverWith u 0x900B 0x0A)

/-- FAULT_INJECT: `v` is written to RCL_INJECT. -/
def execFaultInject (v : Nat) (s : State) : Host.Outcome State Fault Refusal :=
  Prog.outcome (injectFault v) s

/-! ### Leases (R447, R448) -/

/-- UNIT_HEARTBEAT: unit `u` renews its records. -/
def execUnitHeartbeat (u : Nat) (s : State) : Host.Outcome State Fault Refusal :=
  Prog.outcome (Prog.when (s.live = true) (renewOwner 3 u [1, 4])) s

/-- UNIT_LEASE_EXPIRE: record `n`, which a unit owns, expires. -/
def execUnitLeaseExpire (n : Nat) (s : State) : Host.Outcome State Fault Refusal :=
  Prog.outcome (match keyGet s.leases n with
    | none => .skip
    | some l => Prog.when (l.ownerKind = 3 ∧ l.term ≠ 0 ∧ s.live = true) <| .seq
        (raise 0x9007 l.owner n)
        (recoverWith l.owner 0x9007 0x0A)) s

/-- QUEUE_LEASE_EXPIRE: record `n`, which a queue owns, expires. -/
def execQueueLeaseExpire (n : Nat) (s : State) : Host.Outcome State Fault Refusal :=
  Prog.outcome (match keyGet s.leases n with
    | none => .skip
    | some l => Prog.when (l.ownerKind = 1 ∧ l.term ≠ 0 ∧ s.live = true) <| .seq
        (if l.kind = 1 then .seq (freeLock n) (raise 0x900A unitNone n)
         else Prog.all [
           checkCrossing l.resource,
           freeLease n,
           .look fun t => putCrossing l.resource ((t.crossing l.resource).withValue 0 none),
           notifyWardens,
           setF F.XNG_EVENT_LEASE_EXPIRED 1,
           raise 0x0603 unitXng (l.resource % 1024 + l.owner % 16 * 2 ^ 16)])
        (withdrawQueue l.owner 9)) s

/-! ### The reclaimer itself and the Avenue (R449, R458) -/

/-- RECLAIMER_DIVERGENCE: the two cores disagree. -/
def execReclaimerDivergence (s : State) : Host.Outcome State Fault Refusal :=
  Prog.outcome (Prog.when (s.live = true ∧ s.rcl.pairOk = true) <| Prog.all [
    raise 0x9001 unitNone,
    modRcl fun c => { c with pairOk := false, escalating := true },
    logicSideReset causeEscalate]) s

/-- DETOUR_HOLD_RELEASE: no detoured packet remains on its old path. -/
def execDetourHoldRelease (s : State) : Host.Outcome State Fault Refusal :=
  Prog.outcome (Prog.when (s.rcl.detour = true)
    (modRcl fun c => { c with injectionHold := false })) s

/-! ### Watchdogs of stops and granules (R168, R170, R238) -/

/-- STOP_WATCHDOG_EXPIRE: the term of slot `i`'s stop has passed; `u`: the unit whose
reservation expired. A COPY or FILL stop has no unit, and no unit is recovered for it. Of a stop that
reserves several units only the one named is recovered, the others are released: R168 speaks of the
unit (DESIGN CHOICE, assumption 134). -/
def execStopWatchdogExpire (i u : Nat) (s : State) : Host.Outcome State Fault Refusal :=
  Prog.outcome (match s.slotOf i with
    | none => .skip
    | some o => Prog.when (s.live = true ∧ (o.units = [] ∨ o.units.contains u = true)) <| Prog.all [
        setF F.WRD_EVENT_STOP_TIMEOUT 1,
        raise 0x0505 (if o.units = [] then s.slotUnit o else u) 0 o.stop.queue o.stop.tag 6,
        failStop i 6,
        Prog.when (o.units ≠ []) (recoverWith u 0x0505 6)]) s

/-- Slot that tile core `c` serves. -/
def State.coreSlot (s : State) (c : Nat) : Option OpenStop :=
  s.openStops.find? fun o => o.started && o.units.contains (unitTile c)

/-- GRANULE_OVERRUN: the granule of tile core `c` passes 63 ticks; `ticks`: its length. -/
def execGranuleOverrun (c ticks : Nat) (s : State) : Host.Outcome State Fault Refusal :=
  Prog.outcome (match s.coreSlot c with
    | none => .skip
    | some o => Prog.all [
        setF F.WRD_EVENT_GRAN_OVER 1,
        keepMax F.WRD_GRAN_MAX_TICKS (max 64 ticks),
        raise 0x0503 (unitTile c) 0 o.stop.queue o.stop.tag]) s

/-- GRANULE_ABORT: the granule of tile core `c` passes 75 ticks; its stop fails and the core is
recovered. -/
def execGranuleAbort (c : Nat) (s : State) : Host.Outcome State Fault Refusal :=
  Prog.outcome (match s.coreSlot c with
    | none => .skip
    | some o => Prog.all [
        setF F.WRD_EVENT_GRAN_ABORT 1,
        keepMax F.WRD_GRAN_MAX_TICKS 76,
        raise 0x0504 (unitTile c) 0 o.stop.queue o.stop.tag 5,
        failStop o.slot 5,
        recoverWith (unitTile c) 0x0504 5]) s

end Sys2Proof.Machine
end

