-- ==== Sys2Proof/Machine/Lamplight.lean ====
section
/-! DEFINITION. The commands of the lamplight domain (chapter 02): power-on reset, clocks and
PLLs, wake sources, WAKING, QUIET, parking, resets, the retention scrubber and the thermal
governor. -/

namespace Sys2Proof.Machine

/-! ### Power-on reset (R30, R63, Table 02-10) -/

/-- A filter at a power-on reset: the level of its source is what the board drives. -/
def WakeFilter.atPor (f : WakeFilter) : WakeFilter := { WakeFilter.reset with raw := f.raw }

/-- POR_ASSERT: VHV has fallen below the threshold; the device goes to OFF. -/
def execPorAssert (s : State) : Host.Outcome State Fault Refusal :=
  Prog.outcome (Prog.all [
    logicReset,
    .act (.clearRegs 0 0x100000000),
    .act .clearRing,
    .act (.wipe .retA),
    .act (.wipe .retB),
    .act (.rcl Rcl.reset),
    .act (.svc Svc.reset),
    .act (.brg Brg.reset),
    .act (.hv { Hv.reset with ign := s.hv.ign }),
    .act (.ave Ave.reset),
    .act (.lamp { Lamp.reset with
      ign := s.lamp.ign.atPor
      can := s.lamp.can.atPor
      brg := s.lamp.brg.atPor
      pwrGood := s.lamp.pwrGood })]) s

/-- POR_RELEASE: VHV has been at or above 3.8 V for 1 ms; `vhvLow`: it is still below 4.5 V. -/
def execPorRelease (vhvLow : Bool) (s : State) : Host.Outcome State Fault Refusal :=
  let arm (f : WakeFilter) : WakeFilter := { f with porArmed := f.raw, since := 0 }
  Prog.outcome (Prog.when (s.lamp.power = .off) <| Prog.all [
    modLamp fun l => { l with
      power := .parked
      vhvLow := vhvLow
      vhvRet := false
      parkedAt := 0
      ign := arm l.ign
      can := arm l.can
      brg := arm l.brg },
    retWrite 0 (leBytes 4 0x4E544552 ++ leBytes 2 1 ++ zeros 18
      ++ leBytes 8 (Config.entropy s.free).toNat ++ zeros 8),
    .act (.draw 1)]) s

/-! ### The lamplight clock (R32, R33) -/

/-- X32_CRYSTAL_LOCK. -/
def execX32CrystalLock (s : State) : Host.Outcome State Fault Refusal :=
  Prog.outcome (Prog.when (s.lamp.power ≠ .off)
    (modLamp fun l => { l with x32OnRc := false, x32Grace := false })) s

/-- X32_EDGE_MISSED: the counter goes on with RC edges. -/
def execX32EdgeMissed (s : State) : Host.Outcome State Fault Refusal :=
  Prog.outcome (Prog.when (s.lamp.power ≠ .off ∧ s.lamp.x32OnRc = false)
    (modLamp fun l => { l with x32Grace := true })) s

/-- X32_FAIL: four RC periods without a crystal edge. -/
def execX32Fail (s : State) : Host.Outcome State Fault Refusal :=
  Prog.outcome (Prog.when (s.lamp.power ≠ .off ∧ s.lamp.x32Grace = true) <| Prog.all [
    modLamp fun l => { l with x32OnRc := true, x32Grace := false },
    setF F.LAMP_CLK_EVENT_X32_FAIL 1,
    raise 0x0101 unitNone]) s

/-- X32_EDGE_RETURN. -/
def execX32EdgeReturn (s : State) : Host.Outcome State Fault Refusal :=
  Prog.outcome (Prog.when (s.lamp.power ≠ .off ∧ s.lamp.x32Grace = true)
    (modLamp fun l => { l with x32Grace := false })) s

/-! ### The reference (R34, R35) -/

/-- The reference crystal has failed: the RC oscillator takes over in WAKING, and a warm reset
follows in RUNNING and QUIET. -/
def refFail : Prog :=
  .look fun s => Prog.all [
    setF F.LAMP_CLK_EVENT_REF_FAIL 1,
    raise 0x0001 unitNone,
    (if s.lamp.power = .waking then modLamp fun l => { l with refOnRc := true }
     else warmReset causeRefFail)]

/-- REF_START_TIMEOUT: 1.5 ms after its start the crystal is not within ±2 %. -/
def execRefStartTimeout (s : State) : Host.Outcome State Fault Refusal :=
  Prog.outcome (Prog.when (s.lamp.power = .waking ∧ s.lamp.refOnRc = false) refFail) s

/-- REF_COUNT_FAIL: the count has been out of range for four consecutive ticks. -/
def execRefCountFail (s : State) : Host.Outcome State Fault Refusal :=
  Prog.outcome (Prog.when (s.resettable = true ∧ s.lamp.refOnRc = false) refFail) s

/-! ### PLLs (R36) -/

/-- PLL_LOCKED: PLL `p` (bit of SYS_PLL_STATUS.LOCK) indicates lock. -/
def execPllLocked (p : Nat) (s : State) : Host.Outcome State Fault Refusal :=
  Prog.outcome (Prog.when (p < 9 ∧ bitN s.lamp.pllReq p = 1 ∧ s.resettable = true
      ∧ s.lamp.resetNLow = false ∧ s.lamp.pwrGood = true
      ∧ (s.lamp.power = .waking → 3 ≤ s.lamp.wakingStep)) <| Prog.all [
    setFBit F.SYS_PLL_STATUS_LOCK p true,
    Prog.when (s.lamp.power = .running) reclockUnits,
    Prog.when (p = 0 ∧ s.lamp.power = .waking ∧ s.lamp.wakingStep = 3)
      (modLamp fun l => { l with wakingStep := 4 }),
    armWaiting]) s

/-- SYS_PLL_LOSS_OF_LOCK. -/
def execSysPllLossOfLock (s : State) : Host.Outcome State Fault Refusal :=
  Prog.outcome (Prog.when (s.resettable = true ∧ 3 < s.lamp.wakingStep + 4 * (if s.live then 1 else 0))
    (.seq (raise 0x0002 unitNone) (warmReset causeSysPll))) s

/-- Units that PLL `p` feeds (Table 02-4). -/
def pllUnits (p : Nat) : List Nat :=
  if p = 1 then (upTo 16).map unitTile ++ [unitRas]
  else if p = 2 then (upTo 8).map unitDst
  else if p = 3 ∨ p = 5 then [unitSco 0]
  else if p = 4 ∨ p = 6 then [unitSco 1]
  else if p = 7 then [unitDdr]
  else if p = 8 then [unitBrg]
  else []

/-- PLL_LOSS_OF_LOCK: PLL `p` other than SYS loses lock; its units lose their clock and are fenced
together. DETAIL of the fault holds the number of the PLL's bit in SYS_PLL_EVENT (DESIGN CHOICE,
assumption 121). -/
def execPllLossOfLock (p : Nat) (s : State) : Host.Outcome State Fault Refusal :=
  Prog.outcome (Prog.when (1 ≤ p ∧ p < 9 ∧ s.live = true
      ∧ bitN (s.fld F.SYS_PLL_STATUS_LOCK) p = 1) <| Prog.all [
    unlockPlls (2 ^ p),
    setFBit F.SYS_PLL_EVENT_LOL p true,
    setReg R.SYS_GATE_STATUS (clearMask (s.rd R.SYS_GATE_STATUS) (gateMask (pllUnits p))),
    raise 0x0003 unitNone p,
    (if p = 7 then escalate else fenceWith (pllUnits p) 0x0003 0xFF)]) s

/-! ### Wake sources (R39, R40) -/

def State.wakeFilter (s : State) (src : Nat) : WakeFilter :=
  if src = 0 then s.lamp.ign else if src = 1 then s.lamp.can else s.lamp.brg

def modWake (src : Nat) (f : WakeFilter → WakeFilter) : Prog :=
  modLamp fun l =>
    if src = 0 then { l with ign := f l.ign }
    else if src = 1 then { l with can := f l.can }
    else { l with brg := f l.brg }

/-- The wake logic watches source `src`: 0 IGN, 1 CAN, 2 BRG; an AE480-QS2 ignores BRG_WAKE. -/
def State.wakeSource (s : State) (src : Nat) : Bool :=
  src < 2 || (src == 2 && s.ident.order == .qt2)

/-- Source `src` is enabled in LAMP_WAKE_EN. -/
def State.wakeEnabled (s : State) (src : Nat) : Bool := bitN (s.rd R.LAMP_WAKE_EN) src == 1

/-- WAKE_INPUT_EDGE: source `src` changes to `level`. A secondary in service wait after its
Bridge boot wait restarts at each rising edge of BRG_WAKE (R430). -/
def execWakeInputEdge (src : Nat) (level : Bool) (s : State) : Host.Outcome State Fault Refusal :=
  Prog.outcome (Prog.when (s.wakeSource src = true ∧ (s.wakeFilter src).raw ≠ level) <| Prog.all [
    modWake src fun f => { f with raw := level, since := s.lamp.tick, porArmed := false },
    Prog.when (src = 0) (modHv fun h => { h with ign := level }),
    Prog.when (src = 2 ∧ level = true ∧ s.boot.phase = 8 ∧ s.boot.overBridge = true)
      (warmReset causeBridge)]) s

/-- WAKE_FILTER_ELAPSED: source `src` has held its level for its filter time. -/
def execWakeFilterElapsed (src : Nat) (s : State) : Host.Outcome State Fault Refusal :=
  let f := s.wakeFilter src
  Prog.outcome (Prog.when (s.wakeSource src = true ∧ s.lamp.power ≠ .off ∧ f.raw ≠ f.filtered) <|
    Prog.all [
      modWake src fun f => { f with filtered := f.raw, porArmed := false },
      Prog.when (f.raw = true) (usePair R.LAMP_WAKE_EN),
      Prog.when (f.raw = true ∧ s.wakeEnabled src = true) (wakeEvent src f.porArmed),
      Prog.when (f.raw = true ∧ src = 0 ∧ s.lamp.parkStep = 0) leaveQuiet]) s

/-- TIMER_ALARM: LAMP_TIMER_ALARM seconds have passed in PARKED. -/
def execTimerAlarm (s : State) : Host.Outcome State Fault Refusal :=
  Prog.outcome (Prog.when (s.lamp.power = .parked ∧ s.rd R.LAMP_TIMER_ALARM ≠ 0) <|
    .seq (usePair R.LAMP_WAKE_EN) (Prog.when (s.wakeEnabled 3 = true) (wakeEvent 3 false))) s

/-! ### WAKING (R41, R42) -/

/-- PWR_GOOD_RISE: the rails are in range; `straps`: the levels of the strap balls. WAKING goes on
to step 3, where the logic-side reset is released unless RESET_N holds it (R54, R70). -/
def execPwrGoodRise (straps : Straps) (s : State) : Host.Outcome State Fault Refusal :=
  Prog.outcome (.seq (modLamp fun l => { l with pwrGood := true, strapBalls := straps }) <|
    Prog.when (s.lamp.power = .waking ∧ s.lamp.wakingStep < 4)
      (.seq (modLamp fun l => { l with wakingStep := 3, pllReq := 1 }) releaseLogic)) s

/-- PWR_GOOD_TIMEOUT: PG_TIMEOUT has passed without PWR_GOOD. -/
def execPwrGoodTimeout (s : State) : Host.Outcome State Fault Refusal :=
  Prog.outcome (Prog.when (s.lamp.power = .waking ∧ s.lamp.wakingStep < 4 ∧ s.lamp.pwrGood = false)
    (failWaking causePgLoss)) s

/-- WAKING_RETRY: one second after a failed attempt. -/
def execWakingRetry (s : State) : Host.Outcome State Fault Refusal :=
  Prog.outcome (Prog.when (s.lamp.power = .parked ∧ s.lamp.retryDue = true) enterWaking) s

/-! ### Power requests and timers (R43 to R48) -/

/-- A commit of SYS_PWR_REQ. -/
def pwrCommit (v : Nat) : Prog :=
  .seq (setReg R.SYS_PWR_REQ v) <| .look fun s =>
    let target := bits v 1 0
    if target = 0 then .seq (modBoot fun b => { b with heldRequest := 0 })
      (Prog.when (s.lamp.parkStep = 0) leaveQuiet)
    else if target = 3 then .skip
    else requestPower target s.parkDrain

/-- PWR_REQ_RUNNING: TARGET = RUNNING is committed, with the PARK_DRAIN field of the word. -/
def execPwrReqRunning (drain : Nat) (s : State) : Host.Outcome State Fault Refusal :=
  Prog.outcome (Prog.when (s.live = true) (pwrCommit (drain % 256 * 256))) s

/-- PWR_REQ_QUIET: TARGET = QUIET is committed. -/
def execPwrReqQuiet (drain : Nat) (s : State) : Host.Outcome State Fault Refusal :=
  Prog.outcome (Prog.when (s.live = true) (pwrCommit (1 + drain % 256 * 256))) s

/-- PWR_REQ_PARKED: TARGET = PARKED is committed. -/
def execPwrReqParked (drain : Nat) (s : State) : Host.Outcome State Fault Refusal :=
  Prog.outcome (Prog.when (s.live = true) (pwrCommit (2 + drain % 256 * 256))) s

/-- The level that R45 watches: IGN_WAKE, or BRG_WAKE on a secondary (R406). -/
def State.ignLevel (s : State) : Bool :=
  if s.secondary then s.lamp.brg.filtered else s.lamp.ign.filtered

/-- IGN_OFF_DELAY_EXPIRE. -/
def execIgnOffDelayExpire (s : State) : Host.Outcome State Fault Refusal :=
  Prog.outcome (Prog.when (s.lamp.power = .running ∧ s.ignLevel = false) <|
    .seq (usePair R.LAMP_PARK_POLICY)
      (Prog.when (s.flag F.LAMP_PARK_POLICY_IGN_QUIET = true) (requestPower 1 0))) s

/-- QUIET_TIMEOUT. -/
def execQuietTimeout (s : State) : Host.Outcome State Fault Refusal :=
  Prog.outcome (Prog.when (s.lamp.power = .quiet) <| .seq
    (useRegs [R.LAMP_PARK_POLICY, R.LAMP_WAKE_EN, R.SYS_PWR_REQ]) <|
    Prog.when (s.fld F.LAMP_PARK_POLICY_QUIET_TIMEOUT ≠ 0 ∧ (upTo 3).all (fun k => !s.wakeEnabled k || !(s.wakeFilter k).filtered) = true)
    (startPark s.parkDrain)) s

/-- PARK_DRAIN_END: every open stop has ended, or PARK_DRAIN has elapsed. -/
def execParkDrainEnd (s : State) : Host.Outcome State Fault Refusal :=
  Prog.outcome parkDrained s

/-- PARK_POWER_OFF: steps 6 and 7 of R46. -/
def execParkPowerOff (s : State) : Host.Outcome State Fault Refusal :=
  Prog.outcome (Prog.when (s.live = true ∧ s.lamp.parkStep = 6 ∧ s.boot.flashOp = none) <|
    Prog.all [
      logicReset,
      modLamp fun l => { l with
        power := .parked
        parkStep := 0
        pmicEn := false
        parkedAt := l.tick
        parkedHold := true
        latchedWake := false
        retryDue := false
        attempts := 0
        pllReq := 0
        quietPlls := 0
        thermStep := 0
        thermChangedAt := none },
      modHv fun _ => { Hv.reset with ign := s.hv.ign }]) s

/-- LATCHED_WAKE_START: PWR_GOOD has been low for 10 ms. -/
def execLatchedWakeStart (s : State) : Host.Outcome State Fault Refusal :=
  Prog.outcome (Prog.when (s.lamp.power = .parked ∧ s.lamp.latchedWake = true
      ∧ s.lamp.pwrGood = false)
    (.seq (modLamp fun l => { l with attempts := 0 }) enterWaking)) s

/-! ### Clock gating (R49 to R51) -/

/-- Unit `u`'s clock runs for an open stop that waits for it. -/
def OpenStop.clocked (u : Nat) (o : OpenStop) : OpenStop :=
  let w := o.waking.filter (· ≠ u)
  if o.waking.contains u then { o with waking := w, started := o.started || w.isEmpty } else o

/-- UNIT_CLOCK_STARTED: unit `u`'s clock runs, its PLL being locked (R36), and stops dispatched to it
start once every unit of theirs is clocked. -/
def execUnitClockStarted (u : Nat) (s : State) : Host.Outcome State Fault Refusal :=
  Prog.outcome (Prog.when (s.lamp.power = .running ∧ s.unitLocked u = true) <| match gateBit u with
    | none => .skip
    | some b => .seq (setReg R.SYS_GATE_STATUS (setBits (s.rd R.SYS_GATE_STATUS) b b 1)) <|
        modWrd fun w => { w with slots := w.slots.map fun x => x.map (OpenStop.clocked u) }) s

/-- Unit `u` has work, or is kept clocked by R51. -/
def State.unitBusy (s : State) (u : Nat) : Bool :=
  (s.openStops.any fun o => o.units.contains u)
    || (s.reservedCores.contains u && (s.sco.outs.any Output.active))
    || (4 ≤ u && u < 12 && (upTo 25).any fun k =>
        let a := nth Arr.reset s.dst.arrs (25 * (u - 4) + k)
        a.calRunning || a.writing.isSome || a.rewrites != [])
    || (u == unitCam && s.flag F.CAM_CTRL_EN)
    || (u == unitXlt && s.xlt.waiting != [])

/-- AUTO_GATE_IDLE: unit `u` has been idle for IDLE_TICKS. -/
def execAutoGateIdle (u : Nat) (s : State) : Host.Outcome State Fault Refusal :=
  Prog.outcome (Prog.when (s.lamp.power = .running ∧ s.flag F.SYS_GATE_CTRL_GATE_EN = true
      ∧ s.fld F.SYS_GATE_CTRL_IDLE_TICKS ≠ 0 ∧ s.unitBusy u = false) <| match gateBit u with
    | none => .skip
    | some b => setReg R.SYS_GATE_STATUS (setBits (s.rd R.SYS_GATE_STATUS) b b 0)) s

/-! ### Resets (R53 to R57) -/

/-- RESET_N_ASSERT: RESET_N has been low for 1 µs. -/
def execResetNAssert (s : State) : Host.Outcome State Fault Refusal :=
  Prog.outcome (Prog.when (s.resettable = true)
    (.seq (modLamp fun l => { l with resetNLow := true }) (logicSideReset causePin))) s

/-- RESET_N_RELEASE: WAKING goes on; `straps`: the levels of the strap balls, sampled as the
logic-side reset is released (R70). -/
def execResetNRelease (straps : Straps) (s : State) : Host.Outcome State Fault Refusal :=
  Prog.outcome (Prog.when (s.lamp.resetNLow = true) (.seq
    (modLamp fun l => { l with resetNLow := false, strapBalls := straps })
    (Prog.when (s.lamp.power = .waking ∧ s.lamp.wakingStep = 3) releaseLogic))) s

/-- A write of SYS_RESET_CTRL. -/
def resetCtrlWrite (v : Nat) : Prog := Prog.when (v % 256 = 0xA5) (warmReset causeCmd)

/-- WARM_RESET_COMMAND: 0xA5 is written to SYS_RESET_CTRL. -/
def execWarmResetCommand (s : State) : Host.Outcome State Fault Refusal :=
  Prog.outcome (Prog.when (s.live = true) (resetCtrlWrite 0xA5)) s

/-- PWR_GOOD_FALL: a warm reset that keeps PMIC_EN high while the logic side runs. -/
def execPwrGoodFall (s : State) : Host.Outcome State Fault Refusal :=
  Prog.outcome (Prog.when (s.lamp.pwrGood = true) <| .seq
    (modLamp fun l => { l with pwrGood := false, pgFellAt := some l.tick })
    (Prog.when (s.resettable = true) (.seq (raise 0x0104 unitNone) (logicSideReset causePgLoss)))) s

/-! ### The retention scrubber (R59, R60) -/

/-- The retention RAM is unusable: fault 0x0103 and no valid content until a power-on reset. -/
def retentionLost : Prog :=
  .look fun s => Prog.when (s.lamp.retUnusable = false) <| .seq
    (modLamp fun l => { l with retUnusable := true }) (raise 0x0103 unitNone)

/-- Retire a retention bank. -/
def retireBank (b : Bool) : Prog := .seq
  (modLamp fun l => if b then { l with retBRetired := true } else { l with retARetired := true })
  (raise 0x0102 unitNone (if b then 1 else 0))

/-- The error's bank is in use. -/
def Lamp.bankUsed (l : Lamp) (e : RetErr) : Bool := if e.bankB then !l.retBRetired else !l.retARetired

/-- Words of the banks in use found in error: `errors`, with those the banks already hold. -/
def State.retFound (s : State) (errors : List RetErr) : List RetErr :=
  ((s.lamp.retErrs ++ errors).eraseDups).filter fun e => s.lamp.bankUsed e && decide (e.word < 4096)

/-- An uncorrectable word of `ue` that no bank in use holds right. -/
def State.retFatal (s : State) (ue : List RetErr) : Bool :=
  ue.any fun e => (if e.bankB then s.lamp.retARetired else s.lamp.retBRetired)
    || ue.any fun x => x.word == e.word && x.bankB != e.bankB

/-- Both banks are read in full (R59): a single-bit error is corrected in place, an uncorrectable
word of bank A is rewritten from bank B, and a word that no bank in use holds right makes the
retention RAM unusable. -/
def readBanks (errors : List RetErr) : Prog :=
  .look fun s =>
    let errs := s.retFound errors
    let ue := errs.filter fun e => e.uncorrectable
    let bothBad (e : RetErr) : Bool := ue.any fun x => x.word == e.word && x.bankB != e.bankB
    Prog.when (s.lamp.retUnusable = false) <| Prog.all [
      bump F.LAMP_RET_STATUS_CE_COUNT (errs.length - ue.length),
      bump F.LAMP_RET_STATUS_UE_COUNT ue.length,
      Prog.each (ue.filter fun e => !e.bankB && !bothBad e && !s.lamp.retBRetired) fun e =>
        store .retA (8 * e.word) (s.bytes .retB (8 * e.word) 8),
      modLamp fun l => { l with retErrs := ue.filter fun e => e.bankB || bothBad e },
      Prog.when (s.retFatal ue = true) retentionLost]

/-- RETENTION_SCRUB: both banks are read in full; `errors`: words found in error, with those
the banks already hold. A bank with the same word uncorrectable in two scrubs is retired (R60). -/
def execRetentionScrub (errors : List RetErr) (s : State) : Host.Outcome State Fault Refusal :=
  let ue := (s.retFound errors).filter fun e => e.uncorrectable
  let again (b : Bool) : Bool := ue.any fun e => e.bankB == b && s.lamp.retLastUe.contains e
  Prog.outcome (Prog.when (s.lamp.power ≠ .off ∧ s.lamp.retUnusable = false) <| Prog.all [
    readBanks errors,
    modLamp fun l => { l with retLastUe := ue },
    Prog.when (again false = true) (retireBank false),
    Prog.when (again true = true) (retireBank true),
    .look fun t => Prog.when (t.lamp.retARetired = true ∧ t.lamp.retBRetired = true) retentionLost]) s

/-! ### The thermal governor (R65 to R69) -/

/-- `x` put before the first element of `l` that is not below it. -/
def putInt (x : Int) : List Int → List Int
  | [] => [x]
  | y :: t => if y < x then y :: putInt x t else x :: y :: t

/-- Twice the median of a list. -/
def median2 (l : List Int) : Int :=
  let m := l.foldr putInt []
  let n := m.length
  if n % 2 = 1 then 2 * nth 0 m (n / 2) else nth 0 m (n / 2 - 1) + nth 0 m (n / 2)

/-- Validity of the twelve readings (R68). The median is taken once, over every reading of this sample
that lies in range, those excluded before or about to be included (DESIGN CHOICE, assumption 78). -/
def validTemps (t : List Int) : List Bool :=
  let inRange (x : Int) : Bool := decide (-50 ≤ x) && decide (x ≤ 150)
  let m := median2 (t.filter inRange)
  t.map fun x => inRange x && decide ((2 * x - m).natAbs ≤ 30)

/-- Entry threshold of step `k` as committed, held to its default (R67). -/
def State.thermEnter (s : State) (k : Nat) : Nat :=
  if k = 1 then min 110 (s.fld F.SYS_THERM_CTRL_T1_ENTER)
  else if k = 2 then min 118 (s.fld F.SYS_THERM_CTRL_T2_ENTER)
  else min 126 (s.fld F.SYS_THERM_CTRL_T3_ENTER)

/-- The step that a hottest reading calls for (Table 02-13). -/
def State.thermTarget (s : State) (tj : Int) : Nat :=
  let hyst := clampNat 2 15 (s.fld F.SYS_THERM_CTRL_HYST)
  let on (k : Nat) : Bool := decide ((s.thermEnter k : Int) ≤ tj)
    || (decide (k ≤ s.lamp.thermStep) && decide ((s.thermEnter k : Int) - hyst ≤ tj))
  if on 3 then 3 else if on 2 then 2 else if on 1 then 1 else 0

/-- Change to throttle step `k`. -/
def thermChange (k : Nat) : Prog :=
  Prog.all [
    modLamp fun l => { l with thermStep := k },
    .look fun s => modLamp fun l => { l with thermChangedAt := some s.time },
    Prog.when (0 < k) (setFBit F.SYS_THERM_EVENT_ENTER (k - 1) true),
    setF F.SYS_PLL_STATUS_TILE_DIV5 (if 2 ≤ k then 1 else 0),
    raise 0x0004 unitNone k,
    deviceEvent 14,
    settleSinks]

/-- Thermal shutdown at `tj` °C: the park sequence with a drain limit of 0 (R65, R69). -/
def thermShutdown (tj : Int) : Prog :=
  .look fun s => Prog.when (s.lamp.thermHold = false) <| Prog.all [
    raise 0x0006 unitNone (wrapInt 32 tj),
    recordCause causeThermal,
    retWrite 0x10 (leBytes 8 (s.lamp.tick % 2 ^ 48)),
    modLamp fun l => { l with thermHold := true, thermCheck := true },
    (if s.lamp.parkStep = 0 then startPark 0 else parkDrained)]

/-- THERMAL_SAMPLE: the twelve readings, in whole degrees. -/
def execThermalSample (temps : List Int) (s : State) : Host.Outcome State Fault Refusal :=
  let t := (upTo 12).map fun k => nth (-128) temps k
  let v := validTemps t
  let ok := (upTo 12).filter fun k => nth false v k
  let hot := ok.foldl (fun (b : Option Nat) k => match b with
    | none => some k
    | some j => if nth 0 t j < nth 0 t k then some k else some j) none
  Prog.outcome (Prog.when (s.live = true) <| Prog.all [
    usePair R.SYS_THERM_CTRL,
    Prog.each ((upTo 12).filter fun k => nth false s.lamp.tempValid k && !nth false v k) fun k =>
      .seq (setF F.SYS_THERM_EVENT_SENSOR_FAIL 1) (raise 0x0005 unitNone k),
    modLamp fun l => { l with
      temps := t
      tempValid := v
      tjMax := match hot with
        | none => l.tjMax
        | some k => nth 0 t k
      hotSensor := match hot with
        | none => l.hotSensor
        | some k => k },
    .look fun u =>
      let want := match hot with
        | none => max 2 u.lamp.thermStep
        | some k => if ok.length < 6 then max 2 (u.thermTarget (nth 0 t k))
                    else u.thermTarget (nth 0 t k)
      let free := match u.lamp.thermChangedAt with
        | none => true
        | some a => decide (a + msTicks 10 ≤ u.time)
      Prog.when (want ≠ u.lamp.thermStep ∧ free = true) (thermChange want),
    (match hot with
      | none => .skip
      | some k => Prog.when (135 ≤ nth 0 t k) (thermShutdown (nth 0 t k))),
    thermalTriggers]) s

/-- THERMAL_WAKE_HOLD_END: 60 s after a thermal shutdown. -/
def execThermalWakeHoldEnd (s : State) : Host.Outcome State Fault Refusal :=
  Prog.outcome (modLamp fun l => { l with thermHold := false }) s

end Sys2Proof.Machine
end

