-- ==== Sys2Proof/Machine/Neural.lean ====
section
/-! DEFINITION. ARRAY_LAYER: the layer record and its checks, the input feeder, passes, the post
and pool units, the output writer and the CB4 format (chapters 08 and 09, R242 to R249, R260,
R264 to R290). -/

namespace Sys2Proof.Machine

/-! ### The layer's parameters (Tables 08-12, 09-3, 09-4) -/

structure Layer2 where
  w4 : Bool
  /-- Code of the input width: 0 A8, 1 A4, 2 A16. -/
  aCode : Nat
  wt : Nat
  post : Nat
  out : Nat
  act : Nat
  entries : Nat
  ktiles : Nat
  ntiles : Nat
  block : Nat
  zo : Int
  leaky : Int
  clipLo : Int
  clipHi : Int
  inRange : Nat
  outRange : Nat
  kh : Nat
  kw : Nat
  sh : Nat
  sw : Nat
  dh : Nat
  dw : Nat
  pad : Nat
  pt : Nat
  pb : Nat
  pl : Nat
  pr : Nat
  u : Nat
  d : Nat
  s2d : Nat
  d2s : Nat
  pool : Nat
  pk : Nat
  cin : Nat
  cout : Nat
  groups : Nat
  pack : Nat
  zi : Int
  ih : Nat
  iw : Nat
  inY : Nat
  inX : Nat
  inH : Nat
  inW : Nat
  outY : Nat
  outX : Nat
  outH : Nat
  outW : Nat
  inFmt : Nat
  outFmt : Nat
  inCs : Nat
  inC0 : Nat
  outCs : Nat
  outC0 : Nat
  whole : Bool
  inPitch : Nat
  outPitch : Nat
  obY : Nat
  obX : Nat
  obH : Nat
  obW : Nat
  deriving DecidableEq, Repr

def lrecOff (d : List Byte) : Nat := param d 0x22 2

/-- A field of the layer record. -/
def lrec (d : List Byte) (off n : Nat) : Nat := fieldAt d (lrecOff d + off) n

def layerOf (d : List Byte) : Layer2 where
  w4 := bits (param d 0 1) 1 0 == 1
  aCode := bits (param d 0 1) 3 2
  wt := param d 1 1
  post := param d 2 1
  out := bits (param d 3 1) 1 0
  act := bits (param d 3 1) 4 2
  entries := param d 6 2
  ktiles := param d 8 2
  ntiles := param d 0x0A 2
  block := param d 0x0C 2
  zo := sext 8 (param d 0x0E 1)
  leaky := param d 0x0F 1
  clipLo := sext 16 (param d 0x10 2)
  clipHi := sext 16 (param d 0x12 2)
  inRange := param d 0x20 1
  outRange := param d 0x21 1
  kh := bits (lrec d 0 1) 3 0
  kw := bits (lrec d 0 1) 7 4
  sh := bits (lrec d 1 1) 3 0
  sw := bits (lrec d 1 1) 7 4
  dh := bits (lrec d 2 1) 3 0
  dw := bits (lrec d 2 1) 7 4
  pad := bits (lrec d 3 1) 1 0
  pt := lrec d 4 1
  pb := lrec d 5 1
  pl := lrec d 6 1
  pr := lrec d 7 1
  u := bits (lrec d 8 1) 3 0
  d := bits (lrec d 8 1) 7 4
  s2d := 2 ^ bits (lrec d 9 1) 1 0
  d2s := 2 ^ bits (lrec d 9 1) 3 2
  pool := bits (lrec d 0x0A 1) 1 0
  pk := lrec d 0x0B 1
  cin := lrec d 0x0C 2
  cout := lrec d 0x0E 2
  groups := lrec d 0x10 2
  pack := lrec d 0x12 1
  zi := sext 8 (lrec d 0x13 1)
  ih := lrec d 0x14 2
  iw := lrec d 0x16 2
  inY := lrec d 0x18 2
  inX := lrec d 0x1A 2
  inH := lrec d 0x1C 2
  inW := lrec d 0x1E 2
  outY := lrec d 0x20 2
  outX := lrec d 0x22 2
  outH := lrec d 0x24 2
  outW := lrec d 0x26 2
  inFmt := lrec d 0x28 1
  outFmt := lrec d 0x29 1
  inCs := lrec d 0x2A 2
  inC0 := lrec d 0x2C 2
  outCs := lrec d 0x2E 2
  outC0 := lrec d 0x30 2
  whole := bitN (lrec d 0x32 1) 0 == 1
  inPitch := lrec d 0x34 4
  outPitch := lrec d 0x38 4
  obY := lrec d 0x3C 2
  obX := lrec d 0x3E 2
  obH := lrec d 0x40 2
  obW := lrec d 0x42 2

/-- Bits of a weight and of an input, and outputs per tile. -/
def Layer2.q (l : Layer2) : Nat := if l.w4 then 4 else 8
def Layer2.p (l : Layer2) : Nat := if l.aCode = 1 then 4 else if l.aCode = 2 then 16 else 8
def Layer2.opt (l : Layer2) : Nat := if l.w4 then 128 else 64

/-- Rows and columns of the up-sampled and of the folded map, and folded channels (R275). -/
def Layer2.ihr (l : Layer2) : Nat := l.ih * l.u / l.d
def Layer2.iwr (l : Layer2) : Nat := l.iw * l.u / l.d
def Layer2.ihf (l : Layer2) : Nat := l.ihr / l.s2d
def Layer2.iwf (l : Layer2) : Nat := l.iwr / l.s2d
def Layer2.cf (l : Layer2) : Nat := l.s2d * l.s2d * l.cin

/-- Convolution output size (R277). -/
def Layer2.ohc (l : Layer2) : Int :=
  ((l.ihf + l.pt + l.pb : Nat) - (l.dh * (l.kh - 1) : Nat) - 1 : Int) / (l.sh : Int) + 1
def Layer2.owc (l : Layer2) : Int :=
  ((l.iwf + l.pl + l.pr : Nat) - (l.dw * (l.kw - 1) : Nat) - 1 : Int) / (l.sw : Int) + 1

/-- Pooling side, 1 without pooling. -/
def Layer2.side (l : Layer2) : Nat := if l.pool = 0 then 1 else l.pk
def Layer2.ohp (l : Layer2) : Int := l.ohc / (l.side : Int)
def Layer2.owp (l : Layer2) : Int := l.owc / (l.side : Int)
/-- Final map height, width and channels. -/
def Layer2.fh (l : Layer2) : Nat := l.ohp.toNat * l.d2s
def Layer2.fw (l : Layer2) : Nat := l.owp.toNat * l.d2s
def Layer2.fc (l : Layer2) : Nat := l.cout / (l.d2s * l.d2s)

def Layer2.cg (l : Layer2) : Nat := l.cf / l.groups
def Layer2.ng (l : Layer2) : Nat := l.cout / l.groups
def Layer2.kg (l : Layer2) : Nat := l.kh * l.kw * l.cg
def Layer2.npg (l : Layer2) : Nat := (l.ng + l.opt - 1) / l.opt

/-- Element size of an HWC layout, and block size of a CMODE. -/
def elemBytes (fmt : Nat) : Nat :=
  let y := bits fmt 2 0
  if y = 2 then 2 else if y = 3 then 4 else 1
def blockBytes (fmt : Nat) : Nat :=
  let m := bits fmt 5 4
  if m = 1 then 8 else if m = 2 then 12 else 16
def isCb4 (fmt : Nat) : Bool := bits fmt 2 0 == 4 || bits fmt 2 0 == 5

/-- Bytes of one channel plane of a CB4 buffer (R273). -/
def planeSize (fmt w h : Nat) : Nat :=
  ((w + 3) / 4 * ((h + 3) / 4) * blockBytes fmt + 63) / 64 * 64

/-- Bytes of a buffer's layout. -/
def layoutBytes (fmt w h cs pitch channels : Nat) : Nat :=
  if isCb4 fmt then channels * planeSize fmt w h
  else if h = 0 then 0 else (h - 1) * pitch + w * cs * elemBytes fmt

/-! ### The convolution region (R278, R280) -/

/-- First row, first column, rows and columns of the region. -/
def Layer2.regY (l : Layer2) : Nat := l.outY / l.d2s * l.side
def Layer2.regX (l : Layer2) : Nat := l.outX / l.d2s * l.side
def Layer2.regH (l : Layer2) : Nat := ((l.outY + l.outH) / l.d2s - l.outY / l.d2s) * l.side
def Layer2.regW (l : Layer2) : Nat := ((l.outX + l.outW) / l.d2s - l.outX / l.d2s) * l.side

/-- Input vector `v` of the stop, as a convolution position (R280). -/
def Layer2.vector (l : Layer2) (v : Nat) : Nat × Nat :=
  if l.pool = 0 then (l.regY + v / l.regW, l.regX + v % l.regW)
  else
    let k := l.pk * l.pk
    let win := v / k
    let cols := l.regW / l.pk
    (l.regY + win / cols * l.pk + v % k / l.pk, l.regX + win % cols * l.pk + v % k % l.pk)

def Layer2.vectors (l : Layer2) : Nat := l.regH * l.regW

/-- In-map coordinate of a padding or map position of a dimension of size `n`; none for a zero
padding position (R276). -/
def padCoord (mode n : Nat) (i : Int) : Option Nat :=
  if 0 ≤ i ∧ i < n then some i.toNat
  else if mode = 1 then some (clampInt 0 ((n : Int) - 1) i).toNat
  else if mode = 2 then
    (if n ≤ 1 then some 0
     else
       let q := 2 * (n - 1)
       let m := (i % (q : Int)).toNat
       some (if m ≤ n - 1 then m else q - m))
  else none

/-- Folded position that a tap of an output position reads (R278). -/
def Layer2.tapY (l : Layer2) (oy ky : Nat) : Int := (oy * l.sh + ky * l.dh : Nat) - (l.pt : Int)
def Layer2.tapX (l : Layer2) (ox kx : Nat) : Int := (ox * l.sw + kx * l.dw : Nat) - (l.pl : Int)

/-- Stored position of an up-sampled coordinate. -/
def Layer2.stored (l : Layer2) (i : Nat) : Nat := i * l.d / l.u

/-! ### The CB4 format (R273, R286, R287) -/

def codeBits (fmt : Nat) : Nat := if bits fmt 5 4 = 1 then 3 else 5

/-- Decode position `i` of a block. -/
def cb4Decode (fmt : Nat) (blk : List Byte) (i : Nat) : Nat :=
  if bits fmt 5 4 = 0 then (nth 0 blk i).toNat
  else
    let v := leNat blk
    let n := codeBits fmt
    min 255 (bits v 7 0 + bits v (15 + n * i + n) (16 + n * i) * 2 ^ bits v 10 8)

/-- Encode the 16 stored bytes of a block. -/
def cb4Encode (fmt : Nat) (u : List Nat) : List Byte :=
  if bits fmt 5 4 = 0 then u.map fun x => BitVec.ofNat 8 x
  else
    let n := codeBits fmt
    let rmax := 2 ^ n - 1
    let base := u.foldl min 255
    let range := u.foldl max 0 - base
    let s := ((upTo 8).find? fun s => (range + 2 ^ s / 2) / 2 ^ s ≤ rmax).getD 7
    let code (x : Nat) : Nat := min rmax ((x - base + 2 ^ s / 2) / 2 ^ s)
    leBytes (blockBytes fmt)
      (base + s * 2 ^ 8 + ((upTo 16).map fun i => code (nth 0 u i) * 2 ^ (16 + n * i)).sum)

/-! ### The input feeder (R272 to R279) -/

/-- Byte offset and length of the stored element, or block, of channel `c` at stored position
(y, x) of the input buffer. -/
def Layer2.inPlace (l : Layer2) (y x c : Nat) : Nat × Nat :=
  if isCb4 l.inFmt then
    ((l.inC0 + c) * planeSize l.inFmt l.inW l.inH
      + ((y - l.inY) / 4 * ((l.inW + 3) / 4) + (x - l.inX) / 4) * blockBytes l.inFmt,
     blockBytes l.inFmt)
  else
    let e := elemBytes l.inFmt
    ((y - l.inY) * l.inPitch + ((x - l.inX) * l.inCs + l.inC0 + c) * e, e)

/-- The element's value (R272, R273). -/
def State.inValue (s : State) (o : OpenStop) (l : Layer2) (y x c : Nat) : Int :=
  let at_ := l.inPlace y x c
  let b := s.rbs o l.inRange at_.1 at_.2
  if isCb4 l.inFmt then
    (cb4Decode l.inFmt b (4 * ((y - l.inY) % 4) + (x - l.inX) % 4) : Int) - 128
  else if bits l.inFmt 2 0 = 1 then (leNat b : Int) - 128
  else if bits l.inFmt 2 0 = 2 then sext 16 (leNat b)
  else sext 8 (leNat b)

/-- A value as a P-bit array input (Table 09-6). -/
def Layer2.toInput (l : Layer2) (v : Int) : Int :=
  if l.aCode = 1 then clampInt (-8) 7 v
  else if l.aCode = 0 then clampInt (-128) 127 v
  else v

/-- Array input of folded channel `cf` at the folded position of a tap. -/
def State.folded (s : State) (o : OpenStop) (l : Layer2) (y x : Int) (cf : Nat) : Int :=
  match padCoord l.pad l.ihf y, padCoord l.pad l.iwf x with
  | some yf, some xf =>
    let sub := cf / l.cin
    l.toInput (s.inValue o l (l.stored (l.s2d * yf + sub / l.s2d)) (l.stored (l.s2d * xf + sub % l.s2d))
      (cf % l.cin))
  | _, _ => l.toInput l.zi

/-- Reduction index `k` of group `g` at a convolution position. -/
def State.reduction (s : State) (o : OpenStop) (l : Layer2) (oy ox g k : Nat) : Int :=
  let tap := k / l.cg
  s.folded o l (l.tapY oy (tap / l.kw)) (l.tapX ox (tap % l.kw)) (g * l.cg + k % l.cg)

/-- Row `r` of tile (kt, nt) for a convolution position (R279); rows that carry no reduction
index are driven to 0. -/
def State.rowInput (s : State) (o : OpenStop) (l : Layer2) (kt nt oy ox r : Nat) : Int :=
  if l.pack = 1 then
    let g := nt / l.npg
    let k := 128 * kt + r
    if k < l.kg ∧ g < l.groups then s.reduction o l oy ox g k else 0
  else
    let g := nt * l.pack + r / l.kg
    if r < l.pack * l.kg ∧ g < l.groups then s.reduction o l oy ox g (r % l.kg) else 0

/-! ### Passes (R242, R244 to R246) -/

/-- Weight of output `o` at row `r` of a page image, Q bits wide. -/
def weightAt (image : List Byte) (q r o : Nat) : Int :=
  sext q (((upTo q).map fun j => cellOf image r (q * o + j) * 2 ^ j).sum)

/-- The partial sum of output `o` of a pass. -/
def passOut (image : List Byte) (q o : Nat) (x : List Int) : Int :=
  ((upTo 128).map fun r => nth 0 x r * weightAt image q r o).sum

/-- Active rows of bit plane `i`. -/
def planeRows (p i : Nat) (x : List Int) : Nat :=
  countIf (fun r => bitN (wrapInt p (nth 0 x r)) i == 1) (upTo 128)

/-- Cycles of one group of `m` rows (Table 08-4). -/
def groupCycles (m : Nat) : Nat := if m = 0 then 0 else Nat.log2 m + 2

/-- Conversion cycles of a phase with `k` active rows (R244, R245). -/
def phaseCycles (nExact k : Nat) : Nat :=
  let m := if 64 < k then 128 - k else k
  let g := if nExact < m then (m + nExact - 1) / nExact else 1
  ((upTo g).map fun n => groupCycles (m / g + (if n < m % g then 1 else 0))).sum

/-- Cycles a pass occupies its array (R246). -/
def passTime (nExact p therm : Nat) (x : List Int) : Nat :=
  let c := ((upTo p).map fun i => phaseCycles nExact (planeRows p i x)).sum
  max c (max (5 * p) (if 2 ≤ therm then 14 * p else 0))

/-- Cells of the page a map entry names. -/
def State.residentImage (s : State) (e : MapEntry) : List Byte :=
  match s.backing e.logical with
  | none => zeros 8192
  | some p => (nth Page.reset (s.arr p).pages e.page).image

/-- Weights a map entry computes on for the position `pos`: the shuttle image, or its page's cells.
A shuttle entry of the same page overwrites a resident one after the first block (R265). -/
def State.entryImage (s : State) (o : OpenStop) (l : Layer2) (es : List MapEntry) (e : MapEntry)
    (pos : Nat × Nat) : List Byte :=
  let shuttled (m : MapEntry) : List Byte := s.rbs o l.wt (8192 * m.tag) 8192
  let later := es.filter fun m => m.shuttle && m.logical == e.logical && m.page == e.page
  if e.shuttle then shuttled e
  else match later.getLast? with
    | some m =>
      if (upTo (min l.block l.vectors)).any fun v => l.vector v == pos then s.residentImage e
      else shuttled m
    | none => s.residentImage e

/-- The input vector of a map entry's tile at a convolution position. -/
def State.tileInput (s : State) (o : OpenStop) (l : Layer2) (e : MapEntry) (pos : Nat × Nat) :
    List Int :=
  (upTo 128).map fun r => s.rowInput o l e.kt e.nt pos.1 pos.2 r

/-! ### Accumulators (R265, R266) -/

/-- Tile column and output of channel `n` (R279). -/
def Layer2.outPlace (l : Layer2) (n : Nat) : Nat × Nat :=
  let g := n / l.ng
  if l.pack = 1 then (g * l.npg + n % l.ng / l.opt, n % l.ng % l.opt)
  else (g / l.pack, g % l.pack * l.ng + n % l.ng)

/-- Logical district of the first map entry with NT `nt`. -/
def homeDistrict (es : List MapEntry) (nt : Nat) : Nat :=
  ((es.find? fun e => e.nt == nt).map fun e => e.logical / 24).getD 0

/-- Accumulator of output `o` of tile column `nt` for vector `v` of its block: its key. -/
def accKey (es : List MapEntry) (l : Layer2) (nt v o : Nat) : Nat :=
  let d := homeDistrict es nt
  let k := countIf (fun m => homeDistrict es m == d) (upTo nt)
  32768 * d + (k * l.block + v % zeroAsOne l.block) * l.opt + o

/-- The exact sum of a channel over every KT at a convolution position. -/
def State.channelSum (s : State) (o : OpenStop) (l : Layer2) (es : List MapEntry)
    (pos : Nat × Nat) (n : Nat) : Int :=
  let at_ := l.outPlace n
  ((es.filter fun e => e.nt == at_.1).map fun e =>
    passOut (s.entryImage o l es e pos) l.q at_.2 (s.tileInput o l e pos)).sum

/-! ### Post and pool units (R268, R269, R282) -/

/-- BIAS, M and S of a channel's post record. -/
def State.postRec (s : State) (o : OpenStop) (l : Layer2) (n : Nat) : Int × Int × Nat :=
  let w := s.rn o l.post (8 * n) 8
  (sext 32 (bits w 31 0), (bits w 47 32 : Nat), bits w 55 48)

/-- Activation and saturation of the post unit. -/
def Layer2.activate (l : Layer2) (v : Int) : Int :=
  let a := if l.act = 1 then max v l.zo
    else if l.act = 2 then min (max v l.clipLo) l.clipHi
    else if l.act = 3 then (if v < l.zo then l.zo + rhe ((v - l.zo) * l.leaky) 256 else v)
    else v
  if l.out = 1 then clampInt (-32768) 32767 a else clampInt (-128) 127 a

/-- The post unit's output for an accumulator of a channel (R268, R290). -/
def Layer2.post1 (l : Layer2) (rec : Int × Int × Nat) (acc : Int) : Int :=
  if l.out = 2 then clampInt (-2147483648) 2147483647 (acc + rec.1)
  else l.activate (rhe ((acc + rec.1) * rec.2.1) (2 ^ rec.2.2) + l.zo)

/-- A BIAS outside the range of R281. -/
def biasBad (b : Int) : Bool := decide (b < -(2 ^ 30 - 1)) || decide (2 ^ 30 - 1 < b)

/-- Reduce a window of post-unit outputs. -/
def Layer2.reduce (l : Layer2) (vs : List Int) : Int :=
  if l.pool = 2 then
    rhe (vs.sum * (rheNat (2 ^ 24) vs.length : Int)) (2 ^ 24)
  else vs.foldl max (nth 0 vs 0)

/-- Value of channel `n` at pooled position (y, x). -/
def State.pooled (s : State) (o : OpenStop) (l : Layer2) (es : List MapEntry) (y x n : Nat) : Int :=
  let rec1 := s.postRec o l n
  let one (dy dx : Nat) : Int :=
    l.post1 rec1 (s.channelSum o l es (y * l.side + dy, x * l.side + dx) n)
  if l.pool = 0 then one 0 0
  else l.reduce (((upTo l.pk).map fun dy => (upTo l.pk).map fun dx => one dy dx).flatten)

/-- Value of final channel `n` at final position (y, x) (R283). -/
def State.finalValue (s : State) (o : OpenStop) (l : Layer2) (es : List MapEntry) (y x n : Nat) :
    Int :=
  let sub := y % l.d2s * l.d2s + x % l.d2s
  s.pooled o l es (y / l.d2s) (x / l.d2s) (sub * l.fc + n)

/-! ### The output writer (R284, R286) -/

/-- A value as stored in an HWC layout. -/
def storeElem (fmt : Nat) (v : Int) : List Byte :=
  let y := bits fmt 2 0
  if y = 1 then leBytes 1 (wrapInt 8 (v + 128)) else leBytes (elemBytes fmt) (wrapInt (8 * elemBytes fmt) v)

/-- The writes of an HWC output: offset and bytes, position by position. -/
def State.hwcWrites (s : State) (o : OpenStop) (l : Layer2) (es : List MapEntry) :
    List (Nat × List Byte) :=
  ((upTo l.outH).map fun i => (upTo l.outW).map fun j =>
    let y := l.outY + i
    let x := l.outX + j
    let e := elemBytes l.outFmt
    ((y - l.obY) * l.outPitch + ((x - l.obX) * l.outCs + l.outC0) * e,
     ((upTo l.fc).map fun n => storeElem l.outFmt (s.finalValue o l es y x n)).flatten)).flatten

/-- The writes of a CB4 output: every block whose positions in the buffer all lie in the window
(R284; DEDUCED, assumption 137). -/
def State.cb4Writes (s : State) (o : OpenStop) (l : Layer2) (es : List MapEntry) :
    List (Nat × List Byte) :=
  let bw := (l.obW + 3) / 4
  let lo (a b : Nat) : Nat := (a - b) / 4
  let rows := (upTo ((l.outY + l.outH - l.obY + 3) / 4 - lo l.outY l.obY)).map (lo l.outY l.obY + ·)
  let cols := (upTo ((l.outX + l.outW - l.obX + 3) / 4 - lo l.outX l.obX)).map (lo l.outX l.obX + ·)
  let whole (first n at_ size : Nat) (b : Nat) : Bool :=
    decide (at_ ≤ first + 4 * b) && decide (min (first + 4 * b + 4) (first + n) ≤ at_ + size)
  ((upTo l.fc).map fun n =>
      ((rows.filter (whole l.obY l.obH l.outY l.outH)).map fun by_ =>
        (cols.filter (whole l.obX l.obW l.outX l.outW)).map fun bx =>
    let u := (upTo 16).map fun i =>
      let y := min (l.obY + 4 * by_ + i / 4) (l.obY + l.obH - 1)
      let x := min (l.obX + 4 * bx + i % 4) (l.obX + l.obW - 1)
      (s.finalValue o l es y x n + 128).toNat
    ((l.outC0 + n) * planeSize l.outFmt l.obW l.obH + (by_ * bw + bx) * blockBytes l.outFmt,
     cb4Encode l.outFmt u)).flatten).flatten

def State.layerWrites (s : State) (o : OpenStop) (l : Layer2) (es : List MapEntry) :
    List (Nat × List Byte) :=
  if isCb4 l.outFmt then s.cb4Writes o l es else s.hwcWrites o l es

/-! ### Checks (R277, R279 to R290) -/

/-- Every tap position that a convolution position of the region reads, as a folded in-map
coordinate of one axis. -/
def axisReads (first n : Nat) (taps : Nat) (at_ : Nat → Nat → Int) (mode size : Nat) : List Nat :=
  ((upTo n).map fun i => (upTo taps).filterMap fun k => padCoord mode size (at_ (first + i) k)).flatten

def Layer2.rowReads (l : Layer2) : List Nat :=
  (axisReads l.regY l.regH l.kh l.tapY l.pad l.ihf).flatMap fun y =>
    (upTo l.s2d).map fun k => l.stored (l.s2d * y + k)
def Layer2.colReads (l : Layer2) : List Nat :=
  (axisReads l.regX l.regW l.kw l.tapX l.pad l.iwf).flatMap fun x =>
    (upTo l.s2d).map fun k => l.stored (l.s2d * x + k)

/-- Kg limit of Table 09-8. -/
def Layer2.kgLimit (l : Layer2) : Nat := if l.aCode = 2 then (if l.w4 then 4096 else 256) else 65536

/-- A range of the descriptor with the access asked. -/
def rangeIs (d : List Byte) (i : Nat) (write : Bool) : Bool :=
  decide (i < descRanges d) && (if write then (rangeAt d i).wr else (rangeAt d i).rd)

/-- Fields of Tables 09-3 and 09-4 within their bounds. -/
def fieldsOk (d : List Byte) (l : Layer2) : Bool :=
  let lim (lo hi v : Nat) : Bool := decide (lo ≤ v) && decide (v ≤ hi)
  lim 1 11 l.kh && lim 1 11 l.kw && lim 1 8 l.sh && lim 1 8 l.sw && lim 1 4 l.dh && lim 1 4 l.dw
    && decide (lrec d 3 1 ≤ 2) && decide (l.pt ≤ 40) && decide (l.pb ≤ 40) && decide (l.pl ≤ 40)
    && decide (l.pr ≤ 40) && lim 1 4 l.u && lim 1 4 l.d
    && decide (bits (lrec d 9 1) 1 0 ≤ 2) && decide (bits (lrec d 9 1) 3 2 ≤ 2)
    && bits (lrec d 9 1) 7 4 == 0 && decide (lrec d 0x0A 1 ≤ 2)
    && (if l.pool = 0 then l.pk == 0 else lim 2 16 l.pk)
    && lim 1 8192 l.cin && lim 1 8192 l.cout && lim 1 8192 l.groups && lim 1 128 l.pack
    && lim 1 4096 l.ih && lim 1 4096 l.iw
    && decide (bits l.inFmt 2 0 ≤ 5) && decide (bits l.outFmt 2 0 ≤ 5)
    && bitN l.inFmt 3 == 0 && bitN l.outFmt 3 == 0
    && bits l.inFmt 7 6 == 0 && bits l.outFmt 7 6 == 0
    && decide (bits l.inFmt 5 4 ≤ 2) && decide (bits l.outFmt 5 4 ≤ 2)
    && bits (lrec d 0x32 1) 7 1 == 0 && lrec d 0x33 1 == 0 && lrec d 0x44 12 == 0
    && param d 0x24 22 == 0 && lrecOff d % 16 == 0
    && rangeIs d l.inRange false && rangeIs d l.outRange true

/-- Two ranges overlap in their address space. -/
def rangesOverlap (a b : Range) : Bool := decide (a.va < b.va + b.len) && decide (b.va < a.va + a.len)

/-- The checks that R290 re-applies at dispatch. -/
def layerOk (lines : Nat) (d : List Byte) : Bool :=
  let l := layerOf d
  let f2 := l.d2s
  let hwc (fmt cs pitch w : Nat) : Bool :=
    if isCb4 fmt then pitch == 0
    else bits fmt 5 4 == 0 && pitch % 64 == 0 && decide (w * cs * elemBytes fmt ≤ pitch)
  decide (lrecOff d + 80 ≤ 64 * lines) && fieldsOk d l
    -- map geometry
    && l.ih * l.u % l.d == 0 && l.iw * l.u % l.d == 0 && l.ihr % l.s2d == 0 && l.iwr % l.s2d == 0
    && l.cf % l.groups == 0 && l.cout % l.groups == 0
    && (if l.pack = 1 then l.ktiles == (l.kg + 127) / 128 && l.ntiles == l.groups * l.npg
        else decide (l.pack * l.kg ≤ 128) && decide (l.pack * l.ng ≤ l.opt) && l.ktiles == 1
          && l.ntiles == (l.groups + l.pack - 1) / l.pack)
    -- size, accumulation, pooling and depth-to-space
    && decide (1 ≤ l.ohc) && decide (1 ≤ l.owc) && decide (1 ≤ l.ohp) && decide (1 ≤ l.owp)
    && decide (l.kg ≤ l.kgLimit) && decide (8 * l.cout ≤ (rangeAt d l.post).len)
    && (l.pool == 0 || (f2 == 1 && l.out != 2 && l.block % (l.pk * l.pk) == 0))
    && l.cout % (f2 * f2) == 0 && l.outY % f2 == 0 && l.outX % f2 == 0 && l.outH % f2 == 0
    && l.outW % f2 == 0
    -- windows
    && decide (l.inY + l.inH ≤ l.ih) && decide (l.inX + l.inW ≤ l.iw)
    && decide (l.obY + l.obH ≤ l.fh) && decide (l.obX + l.obW ≤ l.fw)
    && decide (l.obY ≤ l.outY) && decide (l.outY + l.outH ≤ l.obY + l.obH)
    && decide (l.obX ≤ l.outX) && decide (l.outX + l.outW ≤ l.obX + l.obW)
    && (l.rowReads.all fun y => decide (l.inY ≤ y) && decide (y < l.inY + l.inH))
    && (l.colReads.all fun x => decide (l.inX ≤ x) && decide (x < l.inX + l.inW))
    -- formats
    && (match l.out with
        | 0 => bits l.outFmt 2 0 == 0 || bits l.outFmt 2 0 == 1 || isCb4 l.outFmt
        | 1 => bits l.outFmt 2 0 == 2
        | 2 => bits l.outFmt 2 0 == 3
        | _ => false)
    && bits l.inFmt 2 0 != 3 && decide (l.inC0 + l.cin ≤ l.inCs) && decide (l.outC0 + l.fc ≤ l.outCs)
    && hwc l.inFmt l.inCs l.inPitch l.inW && hwc l.outFmt l.outCs l.outPitch l.obW
    && decide (layoutBytes l.inFmt l.inW l.inH l.inCs l.inPitch l.inCs ≤ (rangeAt d l.inRange).len)
    && decide (layoutBytes l.outFmt l.obW l.obH l.outCs l.outPitch l.outCs
        ≤ (rangeAt d l.outRange).len)
    && ((upTo (descRanges d)).all fun i => !(rangeAt d i).rd
        || !rangesOverlap (rangeAt d i) (rangeAt d l.outRange))
    && (!l.whole || (l.outY == 0 && l.outX == 0 && l.outH == l.fh && l.outW == l.fw && l.obY == 0
        && l.obX == 0 && l.obH == l.fh && l.obW == l.fw && l.outC0 == 0 && l.outCs == l.fc))

/-- The lowest logical district a stop names. -/
def Stop.lowDistrict (st : Stop) : Nat :=
  st.arraysNamed.foldl (fun m a => min m (a / 24)) 7

/-- LAYER_DISPATCH_CHECK (R290) for the ARRAY_LAYER that slot `i` has just been given. -/
def layerDispatchCheck (i : Nat) : Prog :=
  .look fun s => match s.slotOf i with
    | none => .skip
    | some o => Prog.when (o.stop.opcode = 0x20 ∧ layerOk o.stop.descLines o.stop.desc = false) <|
        .seq (dstRaise o.stop.lowDistrict 0x0C 0 o.stop.queue o.stop.tag 0x0A) (failStop i 0x0A)

/-! ### Running a layer (R265) -/

def layerEntries (d : List Byte) : List MapEntry := (upTo (layerOf d).entries).map (mapEntry d)

/-- The bytes an ARRAY_LAYER reads: its post records, its shuttle images and the stored
positions its region reaches (R278). -/
def layerPieces (_ : State) (o : OpenStop) : List (Nat × Nat) :=
  let st := o.stop
  let l := layerOf st.desc
  let rows := l.rowReads.eraseDups
  let cols := l.colReads.eraseDups
  let place (y x c : Nat) : List (Nat × Nat) :=
    let at_ := l.inPlace y x c
    st.pieces l.inRange 3 at_.1 at_.2
  st.pieces l.post (l.cout / 512 + 2) 0 (8 * l.cout)
    ++ ((layerEntries st.desc).filter (·.shuttle)).flatMap
        (fun e => st.pieces l.wt 4 (8192 * e.tag) 8192)
    ++ (rows.flatMap fun y => cols.flatMap fun x => (upTo l.cin).flatMap fun c => place y x c)

/-- Map entry `e`'s page is being written, or waits for a rewrite: a pass waits (R257). -/
def Arr.pageBusy (a : Arr) (page : Nat) : Bool :=
  (a.writing.any fun w => w.page == page) || a.rewrites.any fun r => r.1 == page

/-- Array `a` takes no pass now: a forced calibration or sweep step takes the pass boundary (R250,
R252). -/
def Arr.held (a : Arr) : Bool := a.calRunning || a.calForced || a.sweepForced

/-- Every array of the entries takes passes, and no page of theirs is being written. -/
def State.layerFree (s : State) (es : List MapEntry) : Bool :=
  es.all fun e => match s.backing e.logical with
    | none => true
    | some p => !(s.arr p).held && (s.arr p).writing.isNone && (s.arr p).rewrites == []

/-- A stop reaches an unbacked array (R262) or a page with another tag (R260); otherwise it goes
on. -/
def checkEntry (i : Nat) (o : OpenStop) (e : MapEntry) (first : Bool) (go : Nat → Prog) : Prog :=
  .look fun s => match s.backing e.logical with
    | none => failStop i 0x0A
    | some p =>
      if first ∧ e.shuttle = false ∧ (nth Page.reset (s.arr p).pages e.page).tag ≠ some e.tag then
        .seq (dstRaise (districtOf p) 9 0 o.stop.queue o.stop.tag 0x0A) (failStop i 0x0A)
      else go p

/-- Passes that entry `n` of slot `i` has done. -/
def State.passesDone (s : State) (i n : Nat) : Nat :=
  ((s.dst.passes.find? fun e => e.1 == i && e.2.1 == n).map fun e => e.2.2).getD 0

/-- A shuttle entry's page is written whole, with `mism` verify mismatches: one writes once more, a
second one retires the array, and its spare is written (R257, R261). -/
def shuttleWrite (o : OpenStop) (l : Layer2) (e : MapEntry) (mism p : Nat) : Prog :=
  let put : Prog := .look fun s => match s.backing e.logical with
    | none => .skip
    | some q => storePage q e.page 0xFFFFFFFF (o.stop.pa l.wt (8192 * e.tag))
        (s.rbs o l.wt (8192 * e.tag) 8192)
  if mism < 2 then put else Prog.all [dstRaise (districtOf p) 8, retireArray p 4, put]

/-- The entries of a layer as they are reached in map order, from entry `n` on: a shuttle entry's
page is written, and a resident one's tag is checked before its first pass. -/
def reachEntries (i : Nat) (o : OpenStop) (l : Layer2) (mism : List (Nat × Nat)) :
    Nat → List MapEntry → Prog → Prog
  | _, [], go => go
  | n, e :: es, go => .look fun s =>
      checkEntry i o e (s.passesDone i n == 0) fun p => .seq
        (Prog.when (e.shuttle = true)
          (shuttleWrite o l e (((mism.find? fun m => m.1 == n).map fun m => m.2).getD 0) p))
        (reachEntries i o l mism (n + 1) es go)

/-- Passes still to do are counted by the district of the array that runs them (R280). -/
def countPasses (i n total : Nat) (e : MapEntry) : Prog :=
  .look fun s => match s.backing e.logical with
    | none => .skip
    | some p => bump F.DST_PASS_COUNT_COUNT (total - s.passesDone i n) (districtOf p)

/-- The accumulators of a layer's tile columns are empty. -/
def clearAccs (es : List MapEntry) : Prog :=
  modDst fun x => { x with acc := x.acc.filter fun e =>
    !(es.any fun m => homeDistrict es m.nt == e.1 / 32768) }

/-- Districts whose post units meet a BIAS outside the range of R281 with OUT = INT32 (R290): the
home districts of its channels' tile columns. -/
def State.badBiasDistricts (s : State) (o : OpenStop) (l : Layer2) (es : List MapEntry) : List Nat :=
  if l.out ≠ 2 then []
  else (((upTo l.cout).filter fun n => biasBad (s.postRec o l n).1).map fun n =>
    homeDistrict es (l.outPlace n).1).eraseDups

/-- The work of an ARRAY_LAYER: its pages, the passes still to do, its outputs. -/
def layerWork (i : Nat) (mism : List (Nat × Nat)) (s : State) (o : OpenStop) : Prog :=
  let d := o.stop.desc
  let l := layerOf d
  let es := layerEntries d
  reachEntries i o l mism 0 es <| Prog.all [
    Prog.each (upTo es.length) fun n => match es[n]? with
      | none => .skip
      | some e => countPasses i n l.vectors e,
    clearAccs es,
    modDst fun x => { x with
      passes := x.passes.filter fun e => e.1 ≠ i
      shuttled := x.shuttled.filter fun e => e.1 ≠ i },
    Prog.each (s.badBiasDistricts o l es) fun d' => dstRaise d' 0x0D 0 o.stop.queue o.stop.tag,
    Prog.when (l.whole = true) (stopWrite i o.stop l.outRange 0 (zeros (rangeAt d l.outRange).len)),
    Prog.each (s.layerWrites o l es) fun w => stopWrite i o.stop l.outRange w.1 w.2]

/-- ARRAY_LAYER: the stop in slot `i`; `parity`: a district that finds a parity error in its
accumulator, post unit or pool unit (R267), `mism`: verify mismatches of its shuttle writes. -/
def execArrayLayer (i : Nat) (c : LayerSeen) (s : State) : Host.Outcome State Fault Refusal :=
  Prog.outcome (match s.executing i 0x20 with
    | none => .skip
    | some o => match c.parity with
      | some d => Prog.when (d < 8) (unitFault (unitDst d) (0x1002 + 0x100 * d) 0 o.stop.queue o.stop.tag 0x0A)
      | none => Prog.when (s.layerFree (layerEntries o.stop.desc) = true)
          (runStopOn i 0x20 layerPieces (layerWork i c.mism))) s

/-! ### Conversion and its checks (R244, R245, R247 to R249) -/

/-- Rows in order, split into `g` groups whose sizes differ by at most one, the larger first. -/
def splitRows : Nat → List Nat → List (List Nat)
  | 0, _ => []
  | g + 1, rows =>
    let m := (rows.length + g) / (g + 1)
    rows.take m :: splitRows g (rows.drop m)

/-- What column `c` reads when rows are converted, `e` the deviations of the readings. -/
def Page.reading (g : Page) (rows : List Nat) (e : List (Nat × Int)) (c : Nat) : Int :=
  ((rows.map fun r => g.cell r c).sum : Nat) + ((e.filter fun x => x.1 == c).map fun x => x.2).sum

/-- The ten checks of a group conversion (R247): W0 reads 0, W1 the group's size, and the least
significant bit of each parity column is the XOR of those of its 64 data columns. -/
def Page.groupOk (g : Page) (rows : List Nat) (e : List (Nat × Int)) : Bool :=
  g.reading rows e 520 == 0 && g.reading rows e 521 == (rows.length : Int)
    && (upTo 8).all fun p => g.reading rows e (512 + p) % 2
      == ((upTo 64).map fun c => g.reading rows e (64 * p + c)).sum % 2

/-- Where a conversion ends: with its counts checked, at a damaged row of the page, or at a part
that failed again. -/
inductive ConvEnd where
  | checked : ConvEnd
  | damaged (row : Nat) : ConvEnd
  | failed : ConvEnd
  deriving DecidableEq, Repr

/-- A conversion so far: deviations of the counts released, the readings still to come, failures
counted, calibrations made, and how it ended. -/
structure Conv where
  devs : List (Nat × Int)
  left : List (List (Nat × Int))
  fails : Nat
  cals : Nat
  last : ConvEnd
  deriving DecidableEq, Repr

/-- A single-row part that failed (R249): a disagreeing row parity means a damaged page, and one that
failed there before is not rewritten again; otherwise the array is calibrated and the part is
repeated. -/
def Page.singleRow (g : Page) (r : Nat) (again : Bool) (left : List (List (Nat × Int))) : Conv :=
  if rowParity g.image r ≠ (nth 0 (g.parity ++ zeros (128 - g.parity.length)) r).toNat then
    ⟨[], left, 1, 0, if again then .failed else .damaged r⟩
  else if g.groupOk [r] (left.headD []) then ⟨left.headD [], left.tail, 1, 1, .checked⟩
  else ⟨[], left.tail, 2, 1, .failed⟩

/-- Convert a part, halving what fails down to single rows (R248). -/
def Page.convert (g : Page) (suspect : Option Nat) :
    Nat → List Nat → List (List (Nat × Int)) → Conv
  | 0, _, left => ⟨[], left, 0, 0, .checked⟩
  | fuel + 1, rows, left =>
    if g.groupOk rows (left.headD []) then ⟨left.headD [], left.tail, 0, 0, .checked⟩
    else match rows with
      | [] => ⟨[], left.tail, 1, 0, .failed⟩
      | [r] => g.singleRow r (suspect == some r) left.tail
      | _ =>
        let m := (rows.length + 1) / 2
        let a := g.convert suspect fuel (rows.take m) left.tail
        if a.last ≠ .checked then { a with fails := a.fails + 1 }
        else
          let b := g.convert suspect fuel (rows.drop m) a.left
          ⟨a.devs ++ b.devs, b.left, a.fails + b.fails + 1, a.cals + b.cals, b.last⟩

/-- Convert groups one after another. -/
def Page.convertAll (g : Page) (suspect : Option Nat) :
    List (List Nat) → List (List (Nat × Int)) → Conv
  | [], left => ⟨[], left, 0, 0, .checked⟩
  | rows :: t, left =>
    let a := g.convert suspect 8 rows left
    if a.last ≠ .checked then a
    else
      let b := g.convertAll suspect t a.left
      ⟨a.devs ++ b.devs, b.left, a.fails + b.fails, a.cals + b.cals, b.last⟩

/-- Rows that phase `i` converts: the active ones, or the inactive ones where more than 64 are
active (R244). -/
def phaseRows (p i : Nat) (x : List Int) : List Nat :=
  let on (r : Nat) : Bool := bitN (wrapInt p (nth 0 x r)) i == 1
  if 64 < planeRows p i x then (upTo 128).filter fun r => !on r else (upTo 128).filter on

/-- The groups of a phase (R245); a group without rows is not converted. -/
def phaseGroups (nExact p i : Nat) (x : List Int) : List (List Nat) :=
  let rows := phaseRows p i x
  (splitRows (if nExact < rows.length then (rows.length + nExact - 1) / nExact else 1) rows).filter
    fun g => g ≠ []

/-- Weight of bit `i` of `n` in two's complement. -/
def bitWeight (n i : Nat) : Int := if i + 1 = n then -(2 ^ i : Int) else 2 ^ i

/-- A pass converts its phases in order: what its outputs deviate by, of column and deviation in
units of the column's bit, and how the conversion ended. -/
def Page.convertPass (g : Page) (suspect : Option Nat) (nExact p : Nat) (x : List Int) :
    Nat → List (List (Nat × Int)) → Conv
  | 0, left => ⟨[], left, 0, 0, .checked⟩
  | n + 1, left =>
    let i := p - (n + 1)
    let a := g.convertAll suspect (phaseGroups nExact p i x) left
    if a.last ≠ .checked then a
    else
      let b := g.convertPass suspect nExact p x n a.left
      let w := bitWeight p i
      let own : List (Nat × Int) :=
        if 64 < planeRows p i x then (a.devs.map fun e => (e.1, -(w * e.2)))
          ++ g.sums.map fun e => (e.1, w * ((e.2.1 : Int)
            - (((upTo 128).map fun r => g.cell r e.1).sum : Nat)))
        else a.devs.map fun e => (e.1, w * e.2)
      ⟨own ++ b.devs, b.left, a.fails + b.fails, a.cals + b.cals, b.last⟩

/-- Deviation of output `k`, of `q` columns, from the columns' deviations. -/
def outDev (q k : Nat) (devs : List (Nat × Int)) : Int :=
  ((upTo q).map fun j => bitWeight q j
    * ((devs.filter fun e => e.1 == q * k + j).map fun e => e.2).sum).sum

/-! ### One pass (R246 to R249, R259) -/

/-- Cells of a page are found flipped: the stored column sums stay those of before. -/
def Page.flip (g : Page) (cells : List (Nat × Nat)) : Page :=
  let sums := (cells.map fun e => e.2).eraseDups.filterMap fun c =>
    if decide (520 ≤ c) || g.sums.any fun e => e.1 == c then none
    else some (c, g.colSum c, 255 - g.colSum c)
  let data := cells.foldl (fun (img : List Byte) e =>
    if e.1 < 128 ∧ e.2 < 512 then
      upd img (64 * e.1 + e.2 / 8) (nth 0 img (64 * e.1 + e.2 / 8) ^^^ BitVec.ofNat 8 (2 ^ (e.2 % 8)))
    else img) g.image
  let parity := cells.foldl (fun (l : List Byte) e =>
    if e.1 < 128 ∧ 512 ≤ e.2 ∧ e.2 < 520 then
      upd l e.1 (nth 0 l e.1 ^^^ BitVec.ofNat 8 (2 ^ (e.2 - 512)))
    else l) (g.parity ++ zeros (128 - g.parity.length))
  if cells = [] then g else { g with cells := data, parity := parity, sums := g.sums ++ sums }

/-- Stored column sums are found changed. -/
def Page.setSums (g : Page) (l : List (Nat × Nat × Nat)) : Page :=
  { g with sums := l ++ g.sums.filter fun e => !(l.any fun x => x.1 == e.1) }

/-- A column sum disagrees with its stored complement (R259). -/
def Page.sumsBad (g : Page) : Bool := g.sums.any fun e => e.2.1 + e.2.2 != 255

/-- Failures of checks (R248): counted, reported, and a calibration due. -/
def checkFailed (p n : Nat) : Prog := Prog.when (0 < n) <| Prog.all [
  bump F.DST_CHECK_COUNT_CHECK n (districtOf p),
  raiseSecond (0x1001 + 0x100 * districtOf p) (unitDst (districtOf p)) 0 0,
  dueCalibration p]

/-- A damaged page is rewritten from its source, and the part is remembered (R249). -/
def pageDamaged (p page row : Nat) : Prog :=
  .look fun s =>
    let g := nth Page.reset (s.arr p).pages page
    Prog.all [
      dstRaise (districtOf p) 7,
      modArr p fun a => { a with suspect := some (page, row) },
      match g.tag with
      | none => .skip
      | some t => rewritePage p page t g.source]

/-- The pass of entry `n` for the next vector is done: its partials join the accumulators, which
are empty when a block begins (R265). -/
def passDone (i n p : Nat) (l : Layer2) (es : List MapEntry) (e : MapEntry) (v nExact therm : Nat)
    (x : List Int) (image : List Byte) (devs : List (Nat × Int)) : Prog := Prog.all [
  .look fun s => Prog.when (v % zeroAsOne l.block = 0
      ∧ ((upTo es.length).all fun m => s.passesDone i m ≤ v) = true) (clearAccs es),
  bump F.DST_PASS_COUNT_COUNT 1 (districtOf p),
  modArr p fun a => { a with passCycles := passTime nExact l.p therm x, suspect := none },
  modDst fun y => { y with
    passes := y.passes.filter (fun m => !(m.1 == i && m.2.1 == n)) ++ [(i, n, v + 1)]
    acc := (upTo l.opt).foldl (fun acc k =>
      let key := accKey es l e.nt v k
      keyPut acc key ((keyGet acc key).getD 0 + passOut image l.q k x + outDev l.q k devs)) y.acc }]

/-- The next pass of entry `n` may be vector `v`: vectors run in order, blocks one after another,
and within a block a logical array runs its entries in map order (R265). -/
def State.passDue (s : State) (i : Nat) (l : Layer2) (es : List MapEntry) (n v : Nat) : Bool :=
  let b := v / zeroAsOne l.block
  let upto (k : Nat) : Nat := min l.vectors (k * zeroAsOne l.block)
  s.passesDone i n == v && decide (v < l.vectors)
    && (upTo es.length).all fun m => decide (upto b ≤ s.passesDone i m)
      && (decide (n ≤ m) || (es[m]?).all (fun x => (es[n]?).all fun e => x.logical != e.logical)
        || decide (upto (b + 1) ≤ s.passesDone i m))

/-- Shuttle entry `n`'s page may be written for the block of vector `v`: no entry of its array still
computes on that page (R265). -/
def State.shuttleDue (s : State) (i : Nat) (l : Layer2) (es : List MapEntry) (n v : Nat) (e : MapEntry) :
    Bool :=
  let b := v / zeroAsOne l.block
  let upto (k : Nat) : Nat := min l.vectors (k * zeroAsOne l.block)
  s.passesDone i n == v && decide (v < l.vectors) && v == b * zeroAsOne l.block
    && (upTo es.length).all fun m => (es[m]?).all fun y =>
      !(y.logical == e.logical && y.page == e.page) || m == n
        || decide (upto (if m < n then b + 1 else b) ≤ s.passesDone i m)

/-- The pass itself, on array `p`: the conversion with its checks, and what comes of it. -/
def runPass (i n v p : Nat) (o : OpenStop) (e : MapEntry) (c : PassSeen) : Prog :=
  let d := o.stop.desc
  let l := layerOf d
  let es := layerEntries d
  .seq (modArr p fun a => { a with
    pages := upd a.pages e.page (((nth Page.reset a.pages e.page).flip c.flips).setSums c.sums) }) <|
  .look fun s =>
    let a := s.arr p
    let g := nth Page.reset a.pages e.page
    let x := s.tileInput o l e (l.vector v)
    let summed := (upTo l.p).any fun k => 64 < planeRows l.p k x
    let g' := if summed && g.sumsBad then { g with sums := [] } else g
    let suspect := (a.suspect.filter fun q => q.1 == e.page).map fun q => q.2
    let r := g'.convertPass suspect a.nExact l.p x l.p c.reads
    Prog.all [
      Prog.when (summed = true ∧ g.sumsBad = true) <| .seq
        (modArr p fun y => { y with pages := upd y.pages e.page g' }) (dstRaise (districtOf p) 0x0A),
      checkFailed p r.fails,
      Prog.each (upTo r.cals) fun k => .look fun t => Prog.when ((t.arr p).retired = false)
        (calibrated p (nth [] c.cals k)),
      .look fun t => Prog.when ((t.arr p).retired = false) <| match r.last with
        | .checked => passDone i n p l es e v a.nExact s.lamp.thermStep x g'.image r.devs
        | .damaged row => pageDamaged p e.page row
        | .failed => retireArray p 2,
      startCalibrations]

/-- ARRAY_PASS: map entry `n` of the ARRAY_LAYER in slot `i` computes input vector `v`; `c`: what the
pass meets. While a calibration, a sweep step or a page write has the pass boundary the pass waits;
a shuttle entry's page is written first in each block, once no earlier entry of its array still
computes on it. -/
def execArrayPass (i n v : Nat) (c : PassSeen) (s : State) : Host.Outcome State Fault Refusal :=
  Prog.outcome (match s.executing i 0x20 with
    | none => .skip
    | some o =>
      let l := layerOf o.stop.desc
      let es := layerEntries o.stop.desc
      match es[n]? with
      | none => .skip
      | some e =>
        let b := v / zeroAsOne l.block
        let write := e.shuttle && !s.dst.shuttled.contains (i, n, b)
        Prog.when ((if write then s.shuttleDue i l es n v e else s.passDue i l es n v) = true
          ∧ ((s.backing e.logical).all fun p => !(s.arr p).held && !(s.arr p).pageBusy e.page) = true) <|
        checkEntry i o e (v == 0) fun p =>
          if write then
            Prog.when ((s.arr p).writing.isNone = true ∧ (s.arr p).rewrites = []) <| modArr p fun a => { a with
              writing := some ⟨e.page, 0xFFFFFFFF, o.stop.pa l.wt (8192 * e.tag), false, some i, some b, n,
                s.rbs o l.wt (8192 * e.tag) 8192⟩
              pages := upd a.pages e.page { nth Page.reset a.pages e.page with tag := none } }
          else runPass i n v p o e c) s

end Sys2Proof.Machine
end

