-- ==== Sys2Proof/Machine/Raster.lean ====
section
/-! DEFINITION. Render passes: the command stream, vertex work, primitives and coverage,
fragments, blending, the lot, and the raster commands (chapter 07, R216 to R232). -/

namespace Sys2Proof.Machine

/-! ### Parameters and records (Tables 07-2 to 07-5) -/

structure PassParam where
  cmd : Nat
  target : Nat
  direct : Bool
  clear : Bool
  w : Nat
  h : Nat
  pitch : Nat
  fmt : Nat
  colour : Nat
  deriving DecidableEq, Repr

def passParam (d : List Byte) : PassParam :=
  ⟨param d 0 1, param d 1 1, param d 2 1 == 1, bitN (param d 3 1) 0 == 1, param d 4 2, param d 6 2,
   param d 8 4, param d 0x0C 1, param d 0x10 4⟩

/-- Command stream header. -/
structure CmdHead where
  magic : Nat
  draws : Nat
  progs : Nat
  texs : Nat
  progOff : Nat
  instrOff : Nat
  texOff : Nat
  drawOff : Nat
  /-- The reserved bytes 0x18 to 0x3F. -/
  rest : List Byte
  deriving DecidableEq, Repr

def cmdHeadOf (b : List Byte) : CmdHead :=
  ⟨fieldAt b 0 4, fieldAt b 4 2, fieldAt b 6 1, fieldAt b 7 1, fieldAt b 8 4, fieldAt b 0x0C 4,
   fieldAt b 0x10 4, fieldAt b 0x14 4, b.drop 0x18⟩

def State.cmdHead (s : State) (o : OpenStop) (p : PassParam) : CmdHead :=
  cmdHeadOf (s.rbs o p.cmd 0 64)

/-- A program: its stage and its instruction words. -/
structure ProgRec where
  stage : Nat
  len : Nat
  first : Nat
  rest : Nat
  words : List Nat
  deriving DecidableEq, Repr

def State.progRec (s : State) (o : OpenStop) (p : PassParam) (h : CmdHead) (n : Nat) : ProgRec :=
  let b := s.rbs o p.cmd (h.progOff + 8 * n) 8
  let len := fieldAt b 1 1
  let first := fieldAt b 2 2
  ⟨fieldAt b 0 1, len, first, fieldAt b 4 4,
   (upTo len).map fun k => s.rn o p.cmd (h.instrOff + 8 * (first + k)) 8⟩

def State.texRec (s : State) (o : OpenStop) (p : PassParam) (h : CmdHead) (n : Nat) : TexRec :=
  texOf (s.rbs o p.cmd (h.texOff + 16 * n) 16)

/-- A draw record, as its 64 bytes. -/
abbrev DrawRec := List Byte

def DrawRec.strip (d : DrawRec) : Bool := fieldAt d 0 1 == 1
def DrawRec.indexed (d : DrawRec) : Bool := bitN (fieldAt d 1 1) 0 == 1
def DrawRec.cullBack (d : DrawRec) : Bool := bitN (fieldAt d 1 1) 1 == 1
def DrawRec.flat (d : DrawRec) : Bool := bitN (fieldAt d 1 1) 2 == 1
def DrawRec.verts (d : DrawRec) : Nat := fieldAt d 2 2
def DrawRec.vb (d : DrawRec) : Nat := fieldAt d 4 1
def DrawRec.ib (d : DrawRec) : Nat := fieldAt d 5 1
def DrawRec.stride (d : DrawRec) : Nat := fieldAt d 6 1
def DrawRec.nattr (d : DrawRec) : Nat := fieldAt d 7 1
def DrawRec.vbOff (d : DrawRec) : Nat := fieldAt d 8 4
def DrawRec.ibOff (d : DrawRec) : Nat := fieldAt d 0x0C 4
def DrawRec.attrFmt (d : DrawRec) (n : Nat) : Nat := fieldAt d (0x10 + n) 1
def DrawRec.attrOff (d : DrawRec) (n : Nat) : Nat := fieldAt d (0x18 + n) 1
def DrawRec.vprog (d : DrawRec) : Nat := fieldAt d 0x20 1
def DrawRec.fprog (d : DrawRec) : Nat := fieldAt d 0x21 1
def DrawRec.constRange (d : DrawRec) : Nat := fieldAt d 0x22 1
def DrawRec.blend (d : DrawRec) : Nat := fieldAt d 0x23 1
def DrawRec.constOff (d : DrawRec) : Nat := fieldAt d 0x24 4
def DrawRec.scissor (d : DrawRec) (k : Nat) : Nat := fieldAt d (0x28 + 2 * k) 2
def DrawRec.tex (d : DrawRec) (k : Nat) : Nat := fieldAt d (0x30 + k) 1

def State.drawRec (s : State) (o : OpenStop) (p : PassParam) (h : CmdHead) (n : Nat) : DrawRec :=
  s.rbs o p.cmd (h.drawOff + 64 * n) 64

/-- Bytes of one attribute of a format byte. -/
def attrBytes (f : Nat) : Nat :=
  (bits f 3 2 + 1) * (if bits f 1 0 = 1 then 4 else if bits f 1 0 = 2 then 1 else 2)

/-! ### Run-time checks (R217, R227, R232) -/

/-- Range `k` exists, is read, and holds `n` bytes. -/
def Stop.readable (st : Stop) (k n : Nat) : Bool :=
  k < descRanges st.desc && (rangeAt st.desc k).rd && n ≤ (rangeAt st.desc k).len

/-- A program's own checks (R227). -/
def progOk (r : ProgRec) : Bool :=
  r.stage ≤ 1 && 1 ≤ r.len && r.len ≤ 16 && r.rest == 0 && r.words.all (insOk (r.stage == 1))

/-- Bytes per texel. -/
def texelBytes (fmt : Nat) : Nat :=
  if fmt = 1 then 3 else if fmt = 2 then 2 else if fmt = 3 then 4 else 1

def texOk (st : Stop) (t : TexRec) : Bool :=
  1 ≤ t.fmt && t.fmt ≤ 5 && t.rest == 0 && t.sample / 32 == 0 && bits t.sample 2 1 ≤ 2 && bits t.sample 4 3 ≤ 2
    && 1 ≤ t.w && t.w ≤ 4096 && 1 ≤ t.h && t.h ≤ 4096 && t.w * texelBytes t.fmt ≤ t.pitch
    && st.readable t.range (t.offset + t.pitch * (t.h - 1) + t.w * texelBytes t.fmt)

def CmdHead.ok (h : CmdHead) : Bool :=
  h.magic == 0x444D4352 && 1 ≤ h.draws && h.draws ≤ 4096 && 1 ≤ h.progs && h.progs ≤ 16
    && h.texs ≤ 64 && h.progOff % 8 == 0 && h.instrOff % 8 == 0 && h.texOff % 16 == 0
    && h.drawOff % 64 == 0 && h.rest.all (· == 0)

/-- The tables that a header names lie within `len` bytes of command stream. -/
def CmdHead.fits (h : CmdHead) (len : Nat) : Bool :=
  64 ≤ len && h.progOff + 8 * h.progs ≤ len && h.texOff + 16 * h.texs ≤ len
    && h.drawOff + 64 * h.draws ≤ len

/-- The header, and every table it names within the command range (R217). -/
def CmdHead.whole (h : CmdHead) (o : OpenStop) (p : PassParam) : Bool :=
  h.ok && h.fits (rangeAt o.stop.desc p.cmd).len

/-- Program `n` exists, passes R227, and its instructions lie within the command range. -/
def State.progWhole (s : State) (o : OpenStop) (p : PassParam) (h : CmdHead) (n : Nat) : Bool :=
  let r := s.progRec o p h n
  n < h.progs && progOk r && h.instrOff + 8 * (r.first + r.len) ≤ (rangeAt o.stop.desc p.cmd).len

/-- Texture record `n` exists and passes. -/
def State.texWhole (s : State) (o : OpenStop) (p : PassParam) (h : CmdHead) (n : Nat) : Bool :=
  n < h.texs && texOk o.stop (s.texRec o p h n)

/-- Vertex index `k` of a draw's stream. -/
def State.vertexIndex (s : State) (o : OpenStop) (d : DrawRec) (k : Nat) : Nat :=
  if d.indexed then s.rn o d.ib (d.ibOff + 2 * k) 2 else k

/-- The checks of R217 and R227 on a draw record and what it names. -/
def State.drawOk (s : State) (o : OpenStop) (p : PassParam) (h : CmdHead) (d : DrawRec) : Bool :=
  let st := o.stop
  let vp := s.progRec o p h d.vprog
  let fp := s.progRec o p h d.fprog
  let used := (fp.words.filter fun w => insOp w == 21).map fun w => d.tex (insOf w).sampler
  h.whole o p && fieldAt d 0 1 ≤ 1 && fieldAt d 1 1 / 8 == 0 && 3 ≤ d.verts
    && (!p.direct || d.verts ≤ 256)
    && 4 ≤ d.stride && d.stride ≤ 64 && 1 ≤ d.nattr && d.nattr ≤ 8
    && (upTo d.nattr).all (fun n => d.attrFmt n / 16 == 0
        && d.attrOff n + attrBytes (d.attrFmt n) ≤ d.stride)
    && (if d.indexed then d.ibOff % 2 == 0 && st.readable d.ib (d.ibOff + 2 * d.verts)
        else d.ib == 0xFF)
    && (upTo d.verts).all (fun k =>
        st.readable d.vb (d.vbOff + d.stride * (s.vertexIndex o d k + 1)))
    && s.progWhole o p h d.vprog && s.progWhole o p h d.fprog && vp.stage == 0 && fp.stage == 1
    && (d.constRange == 0xFF || st.readable d.constRange (d.constOff + 256))
    && d.blend / 128 == 0 && bits d.blend 2 0 ≤ 5 && bits d.blend 5 3 ≤ 5
    && (upTo 4).all (fun k => d.tex k == 0xFF || s.texWhole o p h (d.tex k))
    && used.all (· != 0xFF)
    && (d.drop 0x34).all (· == 0)

/-! ### Vertices -/

/-- A shaded vertex: its position snapped to 4 fraction bits (none outside the guard band),
w, and all outputs. -/
structure Vtx where
  pos : Option (Int × Int)
  w : Half
  outs : List V4
  deriving DecidableEq, Repr

/-- One component of an attribute. -/
def attrComp (f : Nat) (b : List Byte) (k : Nat) : Half :=
  if bits f 3 2 < k then (if k = 3 then half1 else half0)
  else if bits f 1 0 = 0 then BitVec.ofNat 16 (fieldAt b (2 * k) 2)
  else if bits f 1 0 = 1 then f16 (ex32 (BitVec.ofNat 32 (fieldAt b (4 * k) 4)))
  else if bits f 1 0 = 2 then fromUnorm 255 (fieldAt b k 1)
  else f16 (Ex.ofInt (max (sext 16 (fieldAt b (2 * k) 2)) (-32767)) 32767)

def State.drawConsts (s : State) (o : OpenStop) (d : DrawRec) : List V4 :=
  if d.constRange = 0xFF then List.replicate 32 V4.zero
  else (upTo 32).map fun n =>
    let b := s.rbs o d.constRange (d.constOff + 8 * n) 8
    let c (k : Nat) : Half := BitVec.ofNat 16 (fieldAt b (2 * k) 2)
    ⟨c 0, c 1, c 2, c 3⟩

/-- The lane in which vertex index `v` is shaded, at program start. -/
def State.vertexLane (s : State) (o : OpenStop) (d : DrawRec) (v : Nat) : Lane :=
  let base := d.vbOff + d.stride * v
  { Lane.reset with
    inputs := (upTo 8).map fun n =>
      if n < d.nattr then
        let b := s.rbs o d.vb (base + d.attrOff n) (attrBytes (d.attrFmt n))
        let c := attrComp (d.attrFmt n) b
        ⟨c 0, c 1, c 2, c 3⟩
      else V4.zero }

/-- A coordinate as signed fixed point with 4 fraction bits; none outside the guard band. -/
def snapCoord (h : Half) : Option Int :=
  match ex16 h with
  | .fin n m d =>
    let i := (Ex.fin n m d).toRhe 16
    if -65536 ≤ i ∧ i ≤ 65535 then some i else none
  | _ => none

/-- A finite value greater than 0. -/
def positive (h : Half) : Bool :=
  match ex16 h with
  | .fin n m _ => !n && m != 0
  | _ => false

/-- Shade vertex `k` of a draw's stream. -/
def State.shadeVertex (s : State) (o : OpenStop) (p : PassParam) (h : CmdHead) (d : DrawRec)
    (k : Nat) : Vtx :=
  let l := runLane (s.drawConsts o d) (fun _ a => a) (s.progRec o p h d.vprog).words
    (s.vertexLane o d (s.vertexIndex o d k))
  let pos := nth V4.zero l.outs 0
  ⟨(snapCoord pos.x).bind fun x => (snapCoord pos.y).map fun y => (x, y), pos.w, l.outs⟩

/-! ### Primitives and coverage (R220, R221) -/

/-- A surviving primitive: snapped corners, and per vertex w and outputs. -/
structure Prim where
  draw : Nat
  /-- Its index among the draw's primitives. -/
  index : Nat
  x0 : Int
  y0 : Int
  x1 : Int
  y1 : Int
  x2 : Int
  y2 : Int
  v0 : Vtx
  v1 : Vtx
  v2 : Vtx
  deriving DecidableEq, Repr

/-- Twice the signed area; positive for corners that run clockwise on screen. -/
def Prim.area (t : Prim) : Int :=
  (t.x1 - t.x0) * (t.y2 - t.y0) - (t.x2 - t.x0) * (t.y1 - t.y0)

/-- Edge function from a to b at p. -/
def edgeAt (ax ay bx by_ px py : Int) : Int := (bx - ax) * (py - ay) - (by_ - ay) * (px - ax)

/-- A top or left edge of a triangle whose corners run clockwise on screen. -/
def topLeft (ax ay bx by_ : Int) : Bool := (by_ == ay && ax < bx) || by_ < ay

/-- Weights of the three corners at the centre of pixel (x, y), with the sign of the area. -/
def Prim.weights (t : Prim) (x y : Nat) : Int × Int × Int :=
  let px : Int := (16 * x + 8 : Nat)
  let py : Int := (16 * y + 8 : Nat)
  (edgeAt t.x1 t.y1 t.x2 t.y2 px py, edgeAt t.x2 t.y2 t.x0 t.y0 px py,
   edgeAt t.x0 t.y0 t.x1 t.y1 px py)

/-- Pixel (x, y) is covered (R221). -/
def Prim.covers (t : Prim) (x y : Nat) : Bool :=
  let (e0, e1, e2) := t.weights x y
  if 0 < t.area then
    (0 < e0 || (e0 == 0 && topLeft t.x1 t.y1 t.x2 t.y2))
      && (0 < e1 || (e1 == 0 && topLeft t.x2 t.y2 t.x0 t.y0))
      && (0 < e2 || (e2 == 0 && topLeft t.x0 t.y0 t.x1 t.y1))
  else
    (e0 < 0 || (e0 == 0 && topLeft t.x2 t.y2 t.x1 t.y1))
      && (e1 < 0 || (e1 == 0 && topLeft t.x0 t.y0 t.x2 t.y2))
      && (e2 < 0 || (e2 == 0 && topLeft t.x1 t.y1 t.x0 t.y0))

def Prim.minX (t : Prim) : Int := min t.x0 (min t.x1 t.x2)
def Prim.maxX (t : Prim) : Int := max t.x0 (max t.x1 t.x2)
def Prim.minY (t : Prim) : Int := min t.y0 (min t.y1 t.y2)
def Prim.maxY (t : Prim) : Int := max t.y0 (max t.y1 t.y2)

/-- Pixel (x, y) lies inside a draw's scissor. -/
def inScissor (d : DrawRec) (x y : Nat) : Bool :=
  d.scissor 0 ≤ x && x < d.scissor 2 && d.scissor 1 ≤ y && y < d.scissor 3

/-- A primitive covers some pixel of the target inside its scissor. -/
def Prim.visible (t : Prim) (d : DrawRec) (w h : Nat) : Bool :=
  let lo (a : Int) : Nat := (a / 16).toNat
  (upTo (min h (lo t.maxY + 1) - lo t.minY)).any fun j =>
    (upTo (min w (lo t.maxX + 1) - lo t.minX)).any fun i =>
      inScissor d (lo t.minX + i) (lo t.minY + j) && t.covers (lo t.minX + i) (lo t.minY + j)

/-- What becomes of one primitive. -/
inductive PrimResult where
  | live (t : Prim) : PrimResult
  /-- Culled for the guard band or for w. -/
  | guard : PrimResult
  | culled : PrimResult
  deriving DecidableEq, Repr

/-- Assemble and cull primitive `k` of draw `n` (R220). -/
def mkPrim (n k : Nat) (d : DrawRec) (w h : Nat) (v0 v1 v2 : Vtx) : PrimResult :=
  match v0.pos, v1.pos, v2.pos with
  | some (x0, y0), some (x1, y1), some (x2, y2) =>
    if !(positive v0.w && positive v1.w && positive v2.w) then .guard
    else
      let t : Prim := ⟨n, k, x0, y0, x1, y1, x2, y2, v0, v1, v2⟩
      if t.area = 0 ∨ (d.cullBack ∧ 0 < t.area) ∨ t.visible d w h = false then .culled else .live t
  | _, _, _ => .guard

/-- The primitives of draw `n`, in order. -/
def State.drawPrims (s : State) (o : OpenStop) (p : PassParam) (h : CmdHead) (n : Nat) :
    List PrimResult :=
  let d := s.drawRec o p h n
  let vs := (upTo d.verts).map (s.shadeVertex o p h d)
  let v (k : Nat) : Vtx := nth ⟨none, 0, []⟩ vs k
  if d.strip then (upTo (d.verts - 2)).map fun i =>
    if i % 2 = 0 then mkPrim n i d p.w p.h (v i) (v (i + 1)) (v (i + 2))
    else mkPrim n i d p.w p.h (v (i + 1)) (v i) (v (i + 2))
  else (upTo (d.verts / 3)).map fun i =>
    mkPrim n i d p.w p.h (v (3 * i)) (v (3 * i + 1)) (v (3 * i + 2))

/-- Draws that pass their checks, in order. -/
def State.goodDraws (s : State) (o : OpenStop) (p : PassParam) (h : CmdHead) : List Nat :=
  (upTo h.draws).filter fun n => s.drawOk o p h (s.drawRec o p h n)

def State.passPrims (s : State) (o : OpenStop) (p : PassParam) (h : CmdHead) : List PrimResult :=
  ((s.goodDraws o p h).map (s.drawPrims o p h)).flatten

def livePrims (l : List PrimResult) : List Prim :=
  l.filterMap fun r => match r with
    | .live t => some t
    | _ => none

/-! ### Fragments (R222 to R224) -/

/-- Σ λi·vi/wi over Σ λi/wi, rounded once. -/
def interpolate (t : Prim) (x y : Nat) (v0 v1 v2 : Half) : Half :=
  let (e0, e1, e2) := t.weights x y
  let k (e : Int) (v : Vtx) : Ex := (Ex.ofInt (if 0 < t.area then e else -e) 1).div (ex16 v.w)
  let num := (((k e0 t.v0).mul (ex16 v0)).add ((k e1 t.v1).mul (ex16 v1))).add
    ((k e2 t.v2).mul (ex16 v2))
  f16 (num.div (((k e0 t.v0).add (k e1 t.v1)).add (k e2 t.v2)))

/-- Inputs I0 to I7 of the fragment at (x, y). -/
def fragInputs (t : Prim) (flat : Bool) (x y : Nat) : List V4 :=
  let vary (n : Nat) : V4 :=
    let a := nth V4.zero t.v0.outs n
    let b := nth V4.zero t.v1.outs n
    let c := nth V4.zero t.v2.outs n
    if flat then c.map (h1 id)
    else ⟨interpolate t x y a.x b.x c.x, interpolate t x y a.y b.y c.y,
          interpolate t x y a.z b.z c.z, interpolate t x y a.w b.w c.w⟩
  ((upTo 7).map fun n => vary (n + 1))
    ++ [⟨f16 (.fin false (2 * x + 1) 2), f16 (.fin false (2 * y + 1) 2), half0, half0⟩]

/-- The lane after the fragment program ran. -/
def State.fragLane (s : State) (o : OpenStop) (p : PassParam) (h : CmdHead) (t : Prim)
    (x y : Nat) : Lane :=
  let d := s.drawRec o p h t.draw
  runLane (s.drawConsts o d)
    (fun k a => s.sampleTex o (s.texRec o p h (d.tex k)) a.x a.y)
    (s.progRec o p h d.fprog).words
    { Lane.reset with inputs := fragInputs t d.flat x y }

/-- A blend factor of Table 07-6. -/
def blendFactor (code : Nat) (sa da : Ex) : Ex :=
  if code = 0 then .ofNat 0 else if code = 1 then .ofNat 1
  else if code = 2 then sa else if code = 3 then (Ex.ofNat 1).sub sa
  else if code = 4 then da else (Ex.ofNat 1).sub da

/-- Blend source over destination (R224). -/
def blendPix (blend : Nat) (opaqueDst : Bool) (src dst : V4) : V4 :=
  if bitN blend 6 = 0 then src.map (h1 id)
  else
    let d : V4 := if opaqueDst then { dst with w := half1 } else dst
    let sa := ex16 src.w
    let da := ex16 d.w
    V4.map2 (h2 fun x y => (x.mul (blendFactor (bits blend 2 0) sa da)).add
      (y.mul (blendFactor (bits blend 5 3) sa da))) src d

/-- A target pixel's bytes as an FP16 colour. -/
def decodePix (fmt : Nat) (b : List Byte) : V4 :=
  let c (k : Nat) : Half := fromUnorm 255 (fieldAt b k 1)
  if fmt = 2 then
    let v := fieldAt b 0 2
    ⟨fromUnorm 31 (bits v 15 11), fromUnorm 63 (bits v 10 5), fromUnorm 31 (bits v 4 0), half1⟩
  else if fmt = 3 then ⟨c 0, c 1, c 2, c 3⟩
  else ⟨c 0, c 1, c 2, half1⟩

/-- A colour's bytes in the target. -/
def encodePix (fmt : Nat) (v : V4) : List Byte :=
  if fmt = 2 then leBytes 2 (toUnorm 31 v.x * 2048 + toUnorm 63 v.y * 32 + toUnorm 31 v.z)
  else if fmt = 3 then leBytes 1 (toUnorm 255 v.x) ++ leBytes 1 (toUnorm 255 v.y)
    ++ leBytes 1 (toUnorm 255 v.z) ++ leBytes 1 (toUnorm 255 v.w)
  else leBytes 1 (toUnorm 255 v.x) ++ leBytes 1 (toUnorm 255 v.y) ++ leBytes 1 (toUnorm 255 v.z)

/-- The pixel after every primitive of the pass, in submission order; a direct pass writes and
reads the target's format at each fragment (R218, R219). -/
def State.pixelAfter (s : State) (o : OpenStop) (p : PassParam) (h : CmdHead) (ts : List Prim)
    (x y : Nat) (start : V4) : V4 :=
  ts.foldl (fun c t =>
    let d := s.drawRec o p h t.draw
    if inScissor d x y && t.covers x y then
      let l := s.fragLane o p h t x y
      if l.discarded then c
      else
        let r := blendPix d.blend (p.fmt != 3) (nth V4.zero l.outs 0) c
        if p.direct then decodePix p.fmt (encodePix p.fmt r) else r
    else c) start

/-- Pixel (x, y) of a direct pass is written by some fragment. -/
def State.pixelTouched (s : State) (o : OpenStop) (p : PassParam) (h : CmdHead) (ts : List Prim)
    (x y : Nat) : Bool :=
  ts.any fun t => inScissor (s.drawRec o p h t.draw) x y && t.covers x y
    && !(s.fragLane o p h t x y).discarded

/-- Bytes of one pixel of the target. -/
def PassParam.bpp (p : PassParam) : Nat := texelBytes p.fmt

def State.targetPix (s : State) (o : OpenStop) (p : PassParam) (x y : Nat) : V4 :=
  decodePix p.fmt (s.rbs o p.target (y * p.pitch + x * p.bpp) p.bpp)

/-- CLEAR_COLOUR as FP16. -/
def PassParam.clearPix (p : PassParam) : V4 := decodePix 3 (leBytes 4 p.colour)

/-- Bin tiles of a target, and the tile of pixel (x, y) (R218). -/
def PassParam.tiles (p : PassParam) : Nat := (p.w + 31) / 32 * ((p.h + 31) / 32)
def PassParam.tileOf (p : PassParam) (x y : Nat) : Nat := y / 32 * ((p.w + 31) / 32) + x / 32

/-- The rows a binned pass writes back, with padding (R224, R225); `tiles`: the primitives of each
bin tile, in bin-list order. -/
def State.binnedBytes (s : State) (o : OpenStop) (p : PassParam) (h : CmdHead)
    (tiles : List (List Prim)) : List Byte :=
  ((upTo p.h).map fun y =>
    ((upTo p.w).map fun x => encodePix p.fmt (s.pixelAfter o p h (nth [] tiles (p.tileOf x y)) x y
      (if p.clear then p.clearPix else s.targetPix o p x y))).flatten
      ++ zeros (p.pitch - p.w * p.bpp)).flatten

/-- The writes of a direct pass: only pixels that a fragment writes. -/
def directWrites (i : Nat) (s : State) (o : OpenStop) (p : PassParam) (h : CmdHead)
    (ts : List Prim) : Prog :=
  Prog.each (upTo p.h) fun y => Prog.each (upTo p.w) fun x =>
    Prog.when (s.pixelTouched o p h ts x y = true)
      (stopWrite i o.stop p.target (y * p.pitch + x * p.bpp)
        (encodePix p.fmt (s.pixelAfter o p h ts x y (s.targetPix o p x y))))

/-! ### The lot (R230, R231) -/

/-- Record indexes of the primitives whose snapped bounding box overlaps tile `t`, in submission
order. -/
def binList (p : PassParam) (ts : List Prim) (t : Nat) : List Nat :=
  let cols := (p.w + 31) / 32
  let x : Int := (t % cols * 512 : Nat)
  let y : Int := (t / cols * 512 : Nat)
  (upTo ts.length).filter fun k => (ts[k]?).any fun q =>
    q.minX < x + 512 && x < q.maxX && q.minY < y + 512 && y < q.maxY

/-- Primitives binned into tile `t`. -/
def binned (p : PassParam) (ts : List Prim) (t : Nat) : Nat := (binList p ts t).length

/-- Bytes of the lot a bin phase uses (R230). -/
def lotBytes (p : PassParam) (ts : List Prim) : Nat :=
  4 * p.tiles + 224 * ts.length
    + 128 * ((upTo p.tiles).map fun t => (binned p ts t + 29) / 30).sum

/-! The lot's bytes (Table 07-11); a byte the table leaves open is `none`. -/

def known (bs : List Byte) : List (Option Byte) := bs.map some

/-- A vertex of a primitive record. -/
def vertexRec (x y : Int) (v : Vtx) : List Byte :=
  leBytes 4 (x % 2 ^ 32).toNat ++ leBytes 4 (y % 2 ^ 32).toNat ++ leBytes 2 v.w.toNat ++ zeros 6
    ++ ((upTo 7).map fun n => match nth V4.zero v.outs (n + 1) with
      | ⟨a, b, c, d⟩ => [a, b, c, d].flatMap fun e => leBytes 2 e.toNat).flatten

/-- A primitive record; the table gives its flags no meaning. -/
def primRec (t : Prim) : List (Option Byte) :=
  known (leBytes 2 t.draw ++ leBytes 4 t.index) ++ [none, none]
    ++ known (vertexRec t.x0 t.y0 t.v0 ++ vertexRec t.x1 t.y1 t.v1 ++ vertexRec t.x2 t.y2 t.v2)

/-- Bin blocks of a list of `l` entries. -/
def blocksOf (l : List Nat) : Nat := (l.length + 29) / 30

/-- Bin blocks of a tile from block `first` on. -/
def tileBlocks (first : Nat) (l : List Nat) : List (Option Byte) :=
  ((upTo (blocksOf l)).map fun j =>
    let es := (l.drop (30 * j)).take 30
    known (leBytes 4 (if j + 1 < blocksOf l then first + j + 1 else 0xFFFFFFFF)
      ++ leBytes 2 es.length ++ zeros 2 ++ es.flatMap (leBytes 4))
      ++ List.replicate (120 - 4 * es.length) none).flatten

/-- The lot after the bin phase: heads, primitive records, and the blocks of tile 0, tile 1 and so on
(DESIGN CHOICE, assumption 42: the spec does not say in which order blocks are given out). -/
def lotImage (p : PassParam) (ts : List Prim) : List (Option Byte) :=
  let ls := (upTo p.tiles).map (binList p ts)
  let first (t : Nat) : Nat := ((ls.take t).map blocksOf).sum
  ((upTo p.tiles).map fun t =>
      known (leBytes 4 (if nth [] ls t = [] then 0xFFFFFFFF else first t))).flatten
    ++ (ts.map primRec).flatten
    ++ ((upTo p.tiles).map fun t => tileBlocks (first t) (nth [] ls t)).flatten

/-- Base of the lot. -/
def State.lotBase (s : State) : Nat := 65536 * s.fld F.RAS_LOT_BASE_BASE_64K

/-- The vertex of a primitive record at `a`. -/
def State.lotVertex (s : State) (a : Nat) : Int × Int × Vtx :=
  (sext 32 (s.paNum a 4), sext 32 (s.paNum (a + 4) 4),
   ⟨none, BitVec.ofNat 16 (s.paNum (a + 8) 2), V4.zero :: (upTo 7).map fun n =>
     let c (k : Nat) : Half := BitVec.ofNat 16 (s.paNum (a + 16 + 8 * n + 2 * k) 2)
     ⟨c 0, c 1, c 2, c 3⟩⟩)

/-- The primitive record at `a`. -/
def State.lotPrim (s : State) (a : Nat) : Prim :=
  let (x0, y0, v0) := s.lotVertex (a + 8)
  let (x1, y1, v1) := s.lotVertex (a + 80)
  let (x2, y2, v2) := s.lotVertex (a + 152)
  ⟨s.paNum a 2, s.paNum (a + 2) 4, x0, y0, x1, y1, x2, y2, v0, v1, v2⟩

/-- Record indexes of the bin blocks from block `b` on, blocks standing at `base`. -/
def State.lotChain (s : State) (base : Nat) : Nat → Nat → List Nat
  | 0, _ => []
  | fuel + 1, b =>
    if b = 0xFFFFFFFF then []
    else
      let a := base + 128 * b
      ((upTo (min 30 (s.paNum (a + 4) 2))).map fun k => s.paNum (a + 8 + 4 * k) 4)
        ++ s.lotChain base fuel (s.paNum a 4)

/-- The primitives of each bin tile as the lot holds them, `n` primitive records in all. -/
def State.lotTiles (s : State) (p : PassParam) (n : Nat) : List (List Prim) :=
  let recs := s.lotBase + 4 * p.tiles
  (upTo p.tiles).map fun t =>
    (s.lotChain (recs + 224 * n) (n / 30 + 1) (s.paNum (s.lotBase + 4 * t) 4)).map fun k =>
      s.lotPrim (recs + 224 * k)

/-- Counts and faults that geometry processing records (R220, R232). -/
def countGeometry (o : OpenStop) (bad guards : Nat) : Prog :=
  .seq
    (Prog.when (0 < guards) (Prog.all [
      bump F.RAS_GUARD_COUNT_COUNT guards,
      setF F.RAS_EVENT_GUARD 1,
      raiseSecond 0x2102 unitRas]))
    (Prog.when (0 < bad) (Prog.all [
      bump F.RAS_BAD_DRAW_COUNT bad,
      setF F.RAS_EVENT_BAD_DRAW 1,
      Prog.each (upTo bad) fun _ => raise 0x2103 unitRas 0 o.stop.queue o.stop.tag]))

/-- A pass whose bin phase overflows the lot ends there (R231). -/
def lotOverflow (i : Nat) (o : OpenStop) : Prog :=
  Prog.all [
    bump F.RAS_DROP_COUNT_COUNT,
    setF F.RAS_EVENT_LOT_OVERFLOW 1,
    setReg R.RAS_LAST_DROP (o.stop.tag + o.stop.queue * 2 ^ 16),
    raise 0x2101 unitRas 0 o.stop.queue o.stop.tag 0x0C,
    failStop i 0x0C]

/-- The bin phase of the pass in slot `i`: it leaves the lot as Table 07-11 lays it out, with free
values in the bytes the table leaves open (assumption 42). -/
def binPhase (i : Nat) (s : State) (o : OpenStop) : Prog :=
  let p := passParam o.stop.desc
  let h := s.cmdHead o p
  let rs := s.passPrims o p h
  let ts := livePrims rs
  let n := lotBytes p ts
  .seq (countGeometry o (h.draws - (s.goodDraws o p h).length) (countIf (· == .guard) rs)) <|
    if s.rd R.RAS_LOT_SIZE < n then lotOverflow i o
    else Prog.all [
      setF F.RAS_LOT_LAST_BYTES n,
      keepMax F.RAS_LOT_PEAK_BYTES n,
      paStore s.lotBase (List.zipWith (fun b f => b.getD f) (lotImage p ts) (s.freeBytes n)),
      .act (.draw n),
      modRas fun r => { r with
        binDone := true
        prims := ts.length
        cores := r.cores.map fun c => if c.slot = some i then { c with fragment := true } else c }]

/-! ### Commands -/

/-- Load the combiner store of the cores that serve slot `i` with the pass's programs, and the
context of its first draw. -/
def loadCores (s : State) (o : OpenStop) : Prog :=
  let p := passParam o.stop.desc
  let h := s.cmdHead o p
  let words := ((upTo (min 16 h.progs)).map fun n => (s.progRec o p h n).words).flatten.take 256
  let d := s.drawRec o p h 0
  Prog.each o.units fun u => modCore (u - 12) fun c => { c with
    store := words
    fragment := p.direct
    consts := s.drawConsts o d
    tex := (upTo 4).map d.tex
    lanes := List.replicate 32 Lane.reset }

/-- FRONT_END_PASS_TAKEN: the free front end takes the next waiting pass (R216). -/
def execFrontEndPassTaken (s : State) : Host.Outcome State Fault Refusal :=
  Prog.outcome
    (match s.ras.held, s.ras.waiting with
     | none, i :: _ =>
       .seq (modRas fun r => { r with held := some i, waiting := r.waiting.drop 1, binDone := false })
         (match s.slotOf i with
          | none => .skip
          | some o => loadCores s o)
     | _, _ => .skip) s

/-- RASTER_BIN_PHASE_DONE: the bin phase of the binned pass held completes (R218). -/
def execRasterBinPhaseDone (s : State) : Host.Outcome State Fault Refusal :=
  Prog.outcome (.seq (usePair R.RAS_LOT_BASE) <| .look fun t => match t.ras.held with
    | none => .skip
    | some i => match t.executing i 0x10 with
      | none => .skip
      | some o => Prog.when ((passParam o.stop.desc).direct = false ∧ t.ras.binDone = false)
          (binPhase i t o)) s

/-- The render phase of a binned pass, which runs the primitives the lot holds, or a direct pass. -/
def renderPass (i : Nat) (s : State) (o : OpenStop) : Prog :=
  let p := passParam o.stop.desc
  let h := s.cmdHead o p
  if p.direct then
    let rs := s.passPrims o p h
    .seq (countGeometry o (h.draws - (s.goodDraws o p h).length) (countIf (· == .guard) rs))
      (directWrites i s o p h (livePrims rs))
  else
    let img := s.binnedBytes o p h (s.lotTiles p s.ras.prims)
    stopWrite i o.stop p.target 0
      (if p.clear then img ++ zeros ((rangeAt o.stop.desc p.target).len - img.length) else img)

/-- RASTER_PASS: the pass in slot `i`, which the front end holds, renders (R217 to R225). A
binned pass whose bin phase is still to come runs it first. -/
def execRasterPass (i : Nat) (s : State) : Host.Outcome State Fault Refusal :=
  Prog.outcome
    (Prog.when (s.ras.held = some i) <| .seq (usePair R.RAS_LOT_BASE) <| runStop i 0x10 fun t o => .seq
      (Prog.when ((passParam o.stop.desc).direct = false ∧ t.ras.binDone = false) (binPhase i t o))
      (.look fun u => match u.slotOf i with
        | none => .skip
        | some o' => Prog.when ((passParam o'.stop.desc).direct = true ∨ u.ras.binDone = true)
            (.seq (renderPass i u o') (bump F.RAS_PASS_COUNT_COUNT)))) s

end Sys2Proof.Machine
end

