-- ==== Sys2Proof/Machine/Wardens.lean ====
section
/-! DEFINITION. The commands of the wardens and of the crossing unit (chapter 05): enqueue,
dispatch, completion, the warden opcodes, the copy engine, signals, queue control, pre-emption
and takeover. -/

namespace Sys2Proof.Machine

/-! ### Enqueue and dispatch (R160, R165, R166) -/

/-- STOP_ENQUEUE: queue `q` fetches its next stop. -/
def execStopEnqueue (q : Nat) (s : State) : Host.Outcome State Fault Refusal :=
  Prog.outcome (Prog.when (q < 16 ∧ s.live = true) <| .seq
    (setF F.SYS_GATE_STATUS_PXL_CLK 1) (enqueueNext q)) s

/-- RUN_LIST_POOL_ROOM: the enqueue, or the translation anew, that has waited longest for pool
room proceeds. -/
def execRunListPoolRoom (s : State) : Host.Outcome State Fault Refusal :=
  Prog.outcome (Prog.when (s.live = true) <| match s.xlt.waiting with
    | [] => .skip
    | q :: _ => match (s.queue q).enq with
      | st :: _ => if st.runs.isNone ∧ st.ranges ≠ [] then retranslateOldest st else enqueueNext q
      | [] => enqueueNext q) s

/-- The stop waits for the compositor line of an output and needs no other crossing open. -/
def Stop.startsComposition (st : Stop) : Bool :=
  st.queue == 0 && ((st.w0.op == 1 && (st.w0.xng == 4 || st.w0.xng == 5))
    || (st.w1.op == 1 && (st.w1.xng == 4 || st.w1.xng == 5)))

/-- What the units and the wardens do with the stop just dispatched to slot `i`. -/
def dispatched (st : Stop) (i : Nat) : Prog :=
  if opcodeKind st.opcode = some 0 then wardenOpcode st i
  else if st.opcode = 0x10 then modRas fun r => { r with waiting := r.waiting ++ [i] }
  else if st.opcode = 0x12 then takeRing i st
  else if st.opcode = 0x20 then layerDispatchCheck i
  else if st.opcode = 0x40 ∧ (offerParam st.desc).action = 1 then
    modTrack (offerParam st.desc).track fun x => { x with
      generating := some ((offerParam st.desc).stand, i) }
  else .skip

/-- Dispatch the oldest stop of a queue to units. -/
def dispatchTo (st : Stop) (units : List Nat) : Prog :=
  .look fun s => match s.freeSlot with
    | none => .skip
    | some i => .seq (openStop st units i) (dispatched st i)

/-- What a decision for queue `q` brings about beside a dispatch: a failure, a translation anew, a
relocation or a pre-emption. -/
def settleDecision (q : Nat) : Prog :=
  .seq (checkWaits q) <| .look fun s => match s.decideDispatch q with
    | .hold => .skip
    | .go _ _ => .skip
    | .lockWait st => relocateFor st
    | .retranslate st => retranslateOldest st
    | .fail st status => failOldest st status
    | .preempt cores => requestPreempt cores

/-- Queue `q` has a stop that may be dispatched now. -/
def State.mayDispatch (s : State) (q : Nat) : Bool :=
  match s.decideDispatch q with
  | .go _ _ => true
  | _ => false

/-- The queue that warden `w` takes next: the lowest level first, round-robin within it. -/
def State.scheduled (s : State) (w : Nat) : Option Nat :=
  let order (l : Nat) : List Nat :=
    (upTo 16).map fun k => (nth 15 s.wrd.lastAt (4 * w + l) + 1 + k) % 16
  ((upTo 4).flatMap fun l => (order l).filter fun q =>
    (s.queue q).owner == w && (s.queue q).level == l).find? s.mayDispatch

/-- Dispatch the stop that queue `q` may dispatch. -/
def dispatchFrom (q : Nat) : Prog :=
  .look fun s => match s.decideDispatch q with
    | .go st units => dispatchTo st units
    | _ => .skip

/-- STOP_DISPATCH: a dispatch decision of warden `w`; `lat`: nanoseconds from the compositor line
to the first data of a composition that it starts. -/
def execStopDispatch (w lat : Nat) (s : State) : Host.Outcome State Fault Refusal :=
  Prog.outcome (Prog.when (w < 2 ∧ s.live = true ∧ s.wardenOk w = true) <| .seq
    (Prog.each ((upTo 16).filter fun q => (s.queue q).owner == w) settleDecision)
    (.look fun t => match t.scheduled w with
      | none => .skip
      | some q => match t.decideDispatch q with
        | .go st units => .seq
            (Prog.when (st.startsComposition = true ∧ (units.any t.reservedCores.contains) = true)
              (keepMax F.WRD_COMP_LAT_MAX_NS lat))
            (dispatchTo st units)
        | _ => .skip)) s

/-- Queue `q`'s oldest stop has this opcode and is what its warden dispatches next. -/
def State.dispatches (s : State) (q op : Nat) : Bool :=
  s.live && s.scheduled (s.queue q).owner == some q
    && (match (s.queue q).enq with
        | [] => false
        | st :: _ => st.opcode == op)

/-- Queue `q`'s oldest stop, of this opcode, is dispatched, after the access checks on the crossings that
it waits on (R172). -/
def dispatchOf (q op : Nat) : Prog := .seq (usePair R.WRD_Q_CFG q) <| .seq (checkWaits q) <|
  .look fun s => Prog.when (s.dispatches q op = true) (dispatchFrom q)

/-- NOP: the oldest stop of queue `q` completes at dispatch. -/
def execNop (q : Nat) (s : State) : Host.Outcome State Fault Refusal :=
  Prog.outcome (dispatchOf q 0x00) s

/-- START_ROUTE: the oldest stop of queue `q` is dispatched. -/
def execStartRoute (q : Nat) (s : State) : Host.Outcome State Fault Refusal :=
  Prog.outcome (dispatchOf q 0x01) s

/-- LOCK: the oldest stop of queue `q` is dispatched. -/
def execLock (q : Nat) (s : State) : Host.Outcome State Fault Refusal :=
  Prog.outcome (dispatchOf q 0x04) s

/-- UNLOCK: the oldest stop of queue `q` is dispatched. -/
def execUnlock (q : Nat) (s : State) : Host.Outcome State Fault Refusal :=
  Prog.outcome (dispatchOf q 0x05) s

/-! ### The copy engine (R168, Table 05-10) -/

/-- The stop in slot `i` belongs to a warden that dispatches. -/
def State.slotOwned (s : State) (i : Nat) : Bool :=
  match s.slotOf i with
  | none => false
  | some o => s.wardenOk (s.queue o.stop.queue).owner

/-- COPY: the stop in slot `i` copies its source range to its destination range. -/
def execCopy (i : Nat) (s : State) : Host.Outcome State Fault Refusal :=
  Prog.outcome (Prog.when (s.live = true ∧ s.slotOwned i = true) <| runStop i 0x02 fun t o =>
    let src := param o.stop.desc 0 1
    stopWrite i o.stop (param o.stop.desc 1 1) 0 (t.rbs o src 0 (rangeAt o.stop.desc src).len)) s

/-- FILL: the stop in slot `i` fills its range with its pattern. -/
def execFill (i : Nat) (s : State) : Host.Outcome State Fault Refusal :=
  Prog.outcome (Prog.when (s.live = true ∧ s.slotOwned i = true) <| runStop i 0x03 fun _ o =>
    let k := param o.stop.desc 0 1
    let n := (rangeAt o.stop.desc k).len
    let pat := leBytes 4 (param o.stop.desc 2 4)
    stopWrite i o.stop k 0 ((upTo n).map fun j => nth 0 pat (j % 4))) s

/-! ### Completion (R175) -/

/-- STOP_COMPLETE: the units of slot `i` report its stop complete. -/
def execStopComplete (i : Nat) (s : State) : Host.Outcome State Fault Refusal :=
  Prog.outcome (match s.slotOf i with
    | none => .skip
    | some o => Prog.when (s.live = true ∧ o.done = true ∧ o.withdraw = none ∧ s.remotesOf i = []
        ∧ (o.units.any s.rcl.fenced.contains) = false
        ∧ (s.wardenOk (s.queue o.stop.queue).owner = true ∨ o.units ≠ []))
      (completeStop i)) s

/-! ### Signals (R171, R173) -/

/-- SIGNAL_ADD: a stop's ADD of `operand` to crossing `n`; `failed`: a failed signal. -/
def execSignalAdd (n operand : Nat) (failed : Bool) (s : State) : Host.Outcome State Fault Refusal :=
  Prog.outcome (Prog.when (s.live = true ∧ n < 1024) (signalCounter n operand false failed)) s

/-- SIGNAL_SET: a stop's SET of crossing `n` to `operand`. -/
def execSignalSet (n operand : Nat) (failed : Bool) (s : State) : Host.Outcome State Fault Refusal :=
  Prog.outcome (Prog.when (s.live = true ∧ n < 1024) (signalCounter n operand true failed)) s

/-- SIGNAL_RELEASE: a stop of queue `q` releases mutex `n`. -/
def execSignalRelease (n q : Nat) (s : State) : Host.Outcome State Fault Refusal :=
  Prog.outcome (Prog.when (s.live = true ∧ n < 1024 ∧ q < 16) (signalRelease n q)) s

/-- XNG_SET: a commit of XNG_SET_CMD with INDEX `n` and XNG_SET_VAL `v`. -/
def execXngSet (n v : Nat) (s : State) : Host.Outcome State Fault Refusal :=
  Prog.outcome (Prog.when (s.live = true) <| Prog.all [
    setReg R.XNG_SET_VAL v,
    setReg R.XNG_SET_CMD (n % 1024),
    gspSet (n % 1024) (v % 2 ^ 32)]) s

/-! ### Halting a queue (R181) -/

/-- RESUME of queue `q`. -/
def resumeQueue (q : Nat) : Prog :=
  .look fun s =>
    if (s.queue q).state = 3 then modQueue q fun x => { x with state := 1 }
    else Prog.when ((s.queue q).state = 2) (resumeHalted q)

/-- A write of WRD_Q_CTRL of queue `q`. -/
def queueCtrl (q v : Nat) : Prog :=
  if v % 256 = 0x48 then haltQueue q
  else Prog.when (v % 256 = 0x52) (resumeQueue q)

/-- QUEUE_HALT. -/
def execQueueHalt (q : Nat) (s : State) : Host.Outcome State Fault Refusal :=
  Prog.outcome (Prog.when (q < 16 ∧ s.live = true) <| Prog.all [
    queueCtrl q 0x48,
    settleInvalidations,
    fallbackStep]) s

/-- QUEUE_RESUME. -/
def execQueueResume (q : Nat) (s : State) : Host.Outcome State Fault Refusal :=
  Prog.outcome (Prog.when (q < 16 ∧ s.live = true) (queueCtrl q 0x52)) s

/-- QUEUE_DRAIN_EXPIRE: DRAIN_MS have passed in queue `q`'s halt. -/
def execQueueDrainExpire (q : Nat) (s : State) : Host.Outcome State Fault Refusal :=
  Prog.outcome (Prog.when (q < 16 ∧ s.live = true ∧ (s.queue q).state = 3) (withdrawQueue q 7)) s

/-! ### Pre-emption (R169, R238) -/

/-- Tile core `c` writes the context of its stop to its slot of the save area: rank, next granule and
draw position. How the 4 KiB hold them is not stated, so the bytes are free values (R238). -/
def saveContext (c granule draw : Nat) (o : OpenStop) : Prog :=
  .seq (usePair R.TILE_SAVE_BASE) <| .look fun s => Prog.all [
    memWrite (65536 * s.fld F.TILE_SAVE_BASE_BASE_64K + 4096 * c) (s.freeBytes 4096),
    .act (.draw 4096),
    modCore c fun x => { Core.reset with
      saved := some (Saved.mk o.slot x.rank granule draw x.store x.fragment x.consts x.tex) }]

/-- Tile core `c` no longer serves slot `i`. -/
def leaveSlot (c i : Nat) : Prog :=
  let u := unitTile c
  .seq (modSlot i fun x => { x with
      units := x.units.filter (· ≠ u), preempt := x.preempt.filter (· ≠ u) })
    (freeLease (64 + u))

/-- The boundary of a core that was asked to give way or to end a withdrawn stop. The last core to
reach it ends a withdrawn stop (R169, R181, R238). -/
def granuleYield (c granule draw ns : Nat) : Prog :=
  let u := unitTile c
  .look fun s => match s.openStops.find? fun o => o.units.contains u
      && (o.preempt.contains u || o.withdraw.isSome) with
    | none => .skip
    | some o => match o.withdraw with
      | some status =>
        if o.units = [u] then failStop o.slot status
        else Prog.all [
          modCore c fun x => { Core.reset with saved := x.saved },
          leaveSlot c o.slot,
          Prog.each (upTo 64) regainCores]
      | none => Prog.all [
        saveContext c granule draw o,
        leaveSlot c o.slot,
        modSlot o.slot fun x => { x with yielded := x.yielded + 1 },
        setF F.TILE_EVENT_PREEMPT 1,
        bump F.TILE_PREEMPT_COUNT_COUNT,
        keepMax F.TILE_PREEMPT_MAX_NS ns,
        Prog.each (upTo 64) regainCores]

/-- Single-bit errors that a tile core corrected in its stores (R215, Table 07-18). -/
def tileCorrected (n : Nat) : Prog := Prog.when (n ≠ 0)
  (.seq (setF F.TILE_EVENT_MEM_CE 1) (bump F.TILE_ERR_COUNT_CE n))

/-- GRANULE_BOUNDARY: tile core `c` reaches a granule boundary with `granule` its next one and `draw`
the draw position; `ns`: time from the boundary until it is free, `ticks`: the granule's length,
`corrected`: errors it corrected. -/
def execGranuleBoundary (c : Nat) (g : GranuleSeen) (ticks : Nat) (s : State) :
    Host.Outcome State Fault Refusal :=
  Prog.outcome (Prog.when (c < 16 ∧ s.live = true
      ∧ (s.openStops.any fun o => o.units.contains (unitTile c)) = true) <| Prog.all [
    tileCorrected g.corrected,
    keepMax F.WRD_GRAN_MAX_TICKS ticks,
    granuleYield c g.granule g.draw g.ns]) s

/-! ### Takeover (R155, R156) -/

/-- WARDEN_DIVERGENCE: the lockstep comparison of warden `w` diverges. -/
def execWardenDivergence (w : Nat) (s : State) : Host.Outcome State Fault Refusal :=
  Prog.outcome (Prog.when (w < 2 ∧ s.live = true ∧ s.wardenOk w = true) <| Prog.all [
    setF F.WRD_EVENT_DIVERGE 1,
    raise 0x0501 w,
    wardenFault w]) s

/-- What the survivor makes of an open stop of the failed warden (R155): one that no unit has
acknowledged is dispatched anew, one that the copy engine held starts again, and one that a unit
executes runs on. -/
def takeOver (o : OpenStop) : Prog :=
  if o.units ≠ [] ∧ o.started = false then requeueStop o.slot
  else Prog.when (o.units = [] ∧ (o.stop.opcode = 0x02 ∨ o.stop.opcode = 0x03)) <| .seq
    (modSlot o.slot fun x => { x with progress := 0, done := false, poisonSeen := false,
                                      errorSeen := false, fetched := [] })
    (modBrg fun b => { b with remotes := b.remotes.filter fun r => r.slot ≠ o.slot })

/-- A queue as its shadow holds it. -/
def Queue.restored (q : Queue) (h : Shadow) : Queue :=
  { q with route := h.route, iter := h.iter, next := h.next, enq := h.enq }

/-- WARDEN_TAKEOVER: the survivor takes the failed warden's queues over from its shadow. The failed
warden's domain is reset, and its self-test follows (R155, R156). -/
def execWardenTakeover (s : State) : Host.Outcome State Fault Refusal :=
  Prog.outcome (Prog.when (s.live = true) <| match s.wrd.diverged with
    | none => .skip
    | some w =>
      let mine := s.openStops.filter fun o => (s.queue o.stop.queue).owner == w
      Prog.all [
        modWrd fun x => { x with
          takeover := true
          diverged := none
          selfTest := some w
          queues := (upTo 16).map fun q =>
            let y := nth (Queue.reset q) x.queues q
            { (if y.owner = w then y.restored (nth ⟨0, 0, 0, [], []⟩ x.shadows q) else y) with
              owner := 1 - w } },
        Prog.each mine takeOver,
        setF F.WRD_EVENT_TAKEOVER 1,
        raise 0x0506 (1 - w)]) s

end Sys2Proof.Machine
end

