-- ==== Sys2Proof/Machine/MemoryRows.lean ====
section
/-! DEFINITION. The commands of Plaza, the Avenue, the LPDDR4X controller and address
translation (chapter 04). -/

namespace Sys2Proof.Machine

/-- PLAZA_INIT_DONE: every line is written with zeros, every Plaza tag and lock entry is clear;
`banks`: banks that failed, `links`: links that failed their test (R111, R112, R459). -/
def execPlazaInitDone (banks : List Nat) (links : List Link) (s : State) :
    Host.Outcome State Fault Refusal :=
  let bad := (banks.filter (· < 32)).dedup
  Prog.outcome (Prog.when (s.lamp.power = .waking ∧ 3 ≤ s.lamp.wakingStep
      ∧ s.lamp.resetNLow = false ∧ s.ave.initDone = false) <| Prog.all [
    .act (.wipe .plaza),
    modAve fun v => { v with
      locks := List.replicate 64 none
      plazaErrs := []
      plazaPoison := ⟨[], []⟩
      failedBanks := bad
      failedLinks := links.dedup
      initDone := true },
    (match bad with
     | [b] => raise 0x0304 (unitBank b) b
     | _ => .skip),
    (match links.dedup with
     | [l] => .seq (modRcl fun c => { c with detour := true })
         (raise 0x9006 (unitRouter l.node) (l.node + l.port * 2 ^ 8))
     | _ => .skip)]) s

/-- One line of the patrol: its corrected and its uncorrectable words (R115). -/
def scrubLine (line : Nat) : Prog :=
  .look fun s =>
    let es := errsIn s.ave.plazaErrs (64 * line) 64
    .seq (correctErrs true (es.filter fun e => !e.uncorrectable))
      (match es.filter (·.uncorrectable) with
       | [] => .skip
       | e :: _ => plazaUe true e.word)

/-- Errors found now on the lines read. -/
def newErrs (lines : List Nat) (errs old : List MemErr) : List MemErr :=
  errs.filter fun e => lines.contains (e.word / 8) && !old.contains e

/-- PATROL_SCRUB: one line in each bank is read; `errs`: words found in error now. -/
def execPatrolScrub (lines : List Nat) (errs : List MemErr) (s : State) :
    Host.Outcome State Fault Refusal :=
  Prog.outcome (Prog.when (s.live = true) <| .seq (usePair R.AVE_SCRUB_CTRL) <| .look fun t =>
    Prog.when (t.flag F.AVE_SCRUB_CTRL_EN = true) <| .seq
      (modAve fun v => { v with plazaErrs := v.plazaErrs ++ newErrs lines errs v.plazaErrs })
      (Prog.each (lines.filter fun l => 64 * l < t.plazaTop) scrubLine)) s

/-- A link fails: injection is held, the stops whose packets were lost fail, and the detour is
installed; a second failed link escalates (R130, R458, R459). -/
def linkFails (l : Link) (lost : List Nat) : Prog :=
  .look fun s => Prog.all [
    setReg R.AVE_LINK_FAIL (l.node % 64 + l.port % 4 * 2 ^ 6 + 2 ^ 8),
    setF F.AVE_EVENT_LINK_FAIL 1,
    raise 0x0308 (unitRouter l.node),
    modAve fun v => { v with failedLinks := v.failedLinks ++ [l] },
    (if s.ave.failedLinks ≠ [] then escalate
     else Prog.all [
       modRcl fun c => { c with injectionHold := true, detour := true },
       Prog.each lost fun u => .look fun t =>
         Prog.each (t.servedBy [u] true) fun i => failStop i 0x0A,
       raise 0x9006 (unitRouter l.node) (l.node + l.port * 2 ^ 8)])]

/-- LINK_PARITY_ERROR: a flit on a link fails its parity; `again`: it is the replay of a flit
that failed before. Three failed replays one after the other fail the link; `lost`: units
whose packets are then in its retry buffers. -/
def execLinkParityError (node port : Nat) (again : Bool) (lost : List Nat) (s : State) :
    Host.Outcome State Fault Refusal :=
  let l : Link := ⟨node, port⟩
  let before := ((s.ave.replayFails.find? fun e => e.1 == l).map fun e => e.2).getD 0
  let fails := if again then before + 1 else 0
  Prog.outcome (Prog.when (s.live = true ∧ node < 36 ∧ port < 4
      ∧ s.ave.failedLinks.contains l = false) <| Prog.all [
    bump F.AVE_REPLAY_COUNT_COUNT,
    setF F.AVE_EVENT_LINK_REPLAY 1,
    modAve fun v => { v with replayFails := (l, fails) :: v.replayFails.filter fun e => e.1 != l },
    Prog.when (3 ≤ fails) (linkFails l lost)]) s

/-- LPDDR_MR4_POLL: the refresh-rate field read, the refresh multiplier it requires (0 to 2: ×1, ×2,
×4), and whether the device is above its operating range (R138). -/
def execLpddrMr4Poll (mr4 mult : Nat) (hot : Bool) (s : State) : Host.Outcome State Fault Refusal :=
  Prog.outcome (Prog.when (s.live = true ∧ s.ave.ddrInit = true ∧ s.ave.ddrSelfRefresh = false) <|
    Prog.all [
      setF F.DDR_STATUS_MR4_RATE (mr4 % 8),
      setF F.DDR_STATUS_REF_MULT (if hot then 2 else min mult 2),
      Prog.when (hot = true) (.seq (setF F.DDR_EVENT_TEMP_HIGH 1) (raise 0x8003 unitDdr))]) s

/-! ### Poison tags and translation (R125, R149) -/

/-- A write of AVE_POISON_CLR. -/
def poisonClearWrite (v : Nat) : Prog :=
  let i := bits v 23 0
  .look fun s => modAve fun a =>
    if bitN v 31 = 0 then
      (if 4096 * i < s.plazaTop then { a with plazaPoison := a.plazaPoison.clear i } else a)
    else (if 65536 * i < a.ddrBytes then { a with ddrPoison := a.ddrPoison.clear i } else a)

/-- POISON_CLEAR: `v` is written to AVE_POISON_CLR. -/
def execPoisonClear (v : Nat) (s : State) : Host.Outcome State Fault Refusal :=
  Prog.outcome (Prog.when (s.live = true) (poisonClearWrite v)) s

/-- A write of XLT_INVAL. -/
def invalWrite (v : Nat) : Prog :=
  Prog.each ((upTo 16).filter fun a => bitN v a == 1) invalidate

/-- XLT_INVALIDATE: bit `a` is written as 1. -/
def execXltInvalidate (a : Nat) (s : State) : Host.Outcome State Fault Refusal :=
  Prog.outcome (Prog.when (s.live = true ∧ a < 16) (invalWrite (2 ^ a))) s

/-- A write of XLT_ROOT_a_HI: the pair is committed, an invalidation of the ASID. -/
def rootWrite (a v : Nat) : Prog :=
  Prog.when (1 ≤ a ∧ a < 16) <| Prog.all [
    setReg R.XLT_ROOT_HI (v % 2 ^ 32 &&& 0x10F) a,
    .look fun s => modXlt fun x => { x with
      roots := upd x.roots a (bits (s.rd R.XLT_ROOT_LO a) 31 12 * 4096 + v % 16 * 2 ^ 32, bitN v 8 == 1) },
    invalidate a]

/-- XLT_ROOT_COMMIT: `v` is written to XLT_ROOT_a_HI. -/
def execXltRootCommit (a v : Nat) (s : State) : Host.Outcome State Fault Refusal :=
  Prog.outcome (Prog.when (s.live = true) (rootWrite a v)) s

end Sys2Proof.Machine
end

