-- ==== Sys2Proof/Machine/Scripts.lean ====
section
/-! DEFINITION. Set-up scripts as the loader holds them (chapter 03, R97 to R100), the I2C
controllers (R98, Table 13-19) and the pins (Tables 03-18 and 13-20). -/

namespace Sys2Proof.Machine

/-! ### Pins -/

/-- GPIO pin `n` of a register whose reset word the strap GPIO_PUP gives (Table 13-20). -/
def State.pullDir (s : State) : Nat :=
  match keyGet s.regs R.GPIO_PULL_DIR.addr with
  | some v => v
  | none => if s.lamp.straps.gpioPup then 0xFFFFFF else 0

/-- Level of GPIO pin `n`: the level driven, the level seen from the board, or the weak pull
(assumption 44). -/
def State.gpioLevel (s : State) (n : Nat) : Bool :=
  if bitN (s.rd R.GPIO_DIR) n = 1 then bitN (s.rd R.GPIO_OUT) n == 1
  else match keyGet s.ports.gpioExt n with
    | some l => l
    | none => bitN (s.rd R.GPIO_PULL) n == 1 && bitN s.pullDir n == 1

/-- Level of a pin by its script code (Table 03-16): 0 PANEL_EN_A, 1 PANEL_EN_B, 2 PANEL_RST_A,
3 PANEL_RST_B, 0x10 + n GPIOn, 0x20 TE_A, 0x21 TE_B. -/
def State.pinLevel (s : State) (pin : Nat) : Bool :=
  if pin < 2 then nth false s.ports.panelEn pin
  else if pin < 4 then nth false s.ports.panelRst (pin - 2)
  else if 0x20 ≤ pin ∧ pin < 0x22 then nth false s.ports.te (pin - 0x20)
  else s.gpioLevel (pin - 0x10)

/-- States of a pin group in OFF and PARKED (Table 03-18). -/
def State.pinAsleep (s : State) (g : PinGroup) : PinState :=
  let parked := s.lamp.power = .parked
  match g with
  | .combo _ => .highZ
  | .panel _ => .pulledLow
  | .blGate => if parked then .low else .pulledLow
  | .led _ => if parked then .sinkOff else .highZ
  | .ntc => .biasOff
  | .bridgeWake => .low
  | .pmicEn => if parked then .low else .pulledLow
  | .faultN => if parked then .low else .released
  | _ => .unpowered

/-- States of a pin group while it is awake, until its first write (Table 03-18). -/
def State.pinFirst (s : State) (g : PinGroup) : PinState :=
  match g with
  | .combo x => if s.lvdsStrap x then .commonMode else .lp11
  | .te _ => .inputPullDown
  | .panel _ => .low
  | .blGate => .low
  | .led _ => .sinkOff
  | .ntc => .biasOff
  | .canTx _ => .recessive
  | .canRx _ => .input
  | .gpio _ => if s.lamp.straps.gpioPup then .inputPullUp else .inputPullDown
  | .xspiCs => .high
  | .xspiSck => .low
  | .xspiData => .inputPullDown
  | .xspiRst => if s.ports.xspiRstN then .high else .low
  | .ddrReset => .low
  | .ddrOthers => .terminationOff
  | .i2c _ => .highZ
  | .uartTx => .high
  | .spiMiso => .highZ
  | .csi => .terminationOff
  | .bridgeTx => .electricalIdle
  | .bridgeWake => if s.ports.brgWakeHigh then .high else .low
  | .tdo => .highZ
  | .pmicEn => .high
  | .faultN => if s.faultN then .low else .released

/-- The pin groups of the HV side and of the sinks follow its own state. -/
def State.pinHv (s : State) (g : PinGroup) : Bool :=
  match g with
  | .blGate => s.hv.sinks.any fun k => k.gated
  | .led n => (nth Sink.reset s.hv.sinks n).on
  | _ => false

/-- State of a pin group (R101): that of Table 03-18 until the first write of its last column. -/
def State.pinState (s : State) (g : PinGroup) : PinState :=
  if s.lamp.power = .off ∨ s.lamp.power = .parked then s.pinAsleep g
  else if s.ports.begun.contains g ∨ s.pinHv g = true then .inUse
  else s.pinFirst g

/-- A script may drive this pin (R100). -/
def pinDrivable (pin : Nat) : Bool := pin < 4 || (0x10 ≤ pin && pin < 0x28)

/-- A PIN_WAIT may name this pin. GPIO16 and GPIO17 share their codes with TE_A and TE_B, which
Table 03-16 names explicitly (assumption 44). -/
def pinReadable (pin : Nat) : Bool := pin < 4 || (0x10 ≤ pin && pin < 0x28)

/-- Drive a panel or GPIO pin; a twin secondary drives no panel pin (R27). -/
def drivePin (pin : Nat) (level : Bool) : Prog :=
  if pin < 4 then .look fun s => Prog.when (s.localRole ≠ 2) <| .seq (firstWrite [.panel (pin % 2)]) <|
    if pin < 2 then modPorts fun p => { p with panelEn := upd p.panelEn pin level }
    else modPorts fun p => { p with panelRst := upd p.panelRst (pin - 2) level }
  else .seq (firstWrite [.gpio (pin - 0x10)]) <| .seq (setFBit F.GPIO_DIR_OUT (pin - 0x10) true)
    (setFBit F.GPIO_OUT_LEVEL (pin - 0x10) level)

/-- The board is seen to drive a pin to a level. -/
def seePin (pin : Nat) (level : Bool) : Prog :=
  if pin < 4 then .skip
  else if 0x20 ≤ pin ∧ pin < 0x22 then
    modPorts fun p => { p with te := upd p.te (pin - 0x20) level }
  else modPorts fun p => { p with gpioExt := keyPut p.gpioExt (pin - 0x10) level }

/-- Output `x`'s pins and its D-PHY return to their power-up states (R99, Table 03-18). -/
def outputPinsOff (x : Nat) : Prog := Prog.all [
  modPorts fun p => { p with
    panelEn := upd p.panelEn x false
    panelRst := upd p.panelRst x false
    begun := p.begun.filter fun g => g ≠ .combo x ∧ g ≠ .panel x },
  modOut x fun o => { o with dphyOn := false, lpBytes := [], lpScript := false, lpWait := false }]

/-! ### The SCRIPT section (Tables 03-15, 03-16) -/

/-- A script of a SCRIPT section that starts at `off`. -/
def scriptAt (b : List Byte) (off : Nat) : Script :=
  ⟨fieldAt b off 1, fieldAt b (off + 1) 1, fieldAt b (off + 2) 1, fieldAt b (off + 4) 2, off + 8,
   fieldAt b (off + 6) 2⟩

/-- The scripts of a SCRIPT section in order; none where it cannot be cut into scripts. Zero
bytes at its end are padding (assumption 45). -/
def parseScripts (fuel : Nat) (b : List Byte) (off : Nat) : Option (List Script) :=
  match fuel with
  | 0 => none
  | k + 1 =>
    if (b.drop off).all (· == 0) then some []
    else
      let c := scriptAt b off
      if b.length < off + 8 ∨ 3 < c.thread ∨ 1 < c.phase ∨ 3 < c.target ∨ c.timeout = 0
          ∨ 5000 < c.timeout ∨ b.length < off + 8 + c.opsLen then none
      else (parseScripts k b (off + 8 + c.opsLen)).map fun t => c :: t

/-- Every script of the loaded SCRIPT section. -/
def State.scripts (s : State) : List Script :=
  (parseScripts (s.boot.scriptBytes.length / 8 + 2) s.boot.scriptBytes 0).getD []

/-- An operation of a script. -/
structure ScriptOp where
  code : Nat
  arg : Nat
  len : Nat
  data : List Byte
  deriving DecidableEq, Repr

/-- Bytes an operation takes. -/
def ScriptOp.size (o : ScriptOp) : Nat := 4 + (o.len + 3) / 4 * 4

/-- Thread `t`. -/
def State.thread (s : State) (t : Nat) : Thread := nth Thread.idle s.boot.threads t

def modThread (t : Nat) (f : Thread → Thread) : Prog :=
  modBoot fun b => { b with threads := upd b.threads t (f (nth Thread.idle b.threads t)) }

/-- The operation that thread `t` has reached; END past the script's last one. -/
def State.scriptOp (s : State) (t : Nat) : Option ScriptOp :=
  match (s.thread t).scripts with
  | [] => none
  | c :: _ =>
    let a := c.opsAt + (s.thread t).pc
    let w := fieldAt s.boot.scriptBytes a 4
    if c.opsLen ≤ (s.thread t).pc then some ⟨0, 0, 0, []⟩
    else some ⟨bits w 7 0, bits w 15 8, bits w 31 16,
      slice s.boot.scriptBytes (a + 4) (bits w 31 16)⟩

/-- Operation `code` is thread `t`'s next one and may start. -/
def State.opReady (s : State) (t code : Nat) : Option ScriptOp :=
  if t < 4 ∧ (s.thread t).wait = .none then
    (s.scriptOp t).filter fun o => o.code == code
  else none

/-- Thread `t` goes on to its next operation. -/
def nextOp (t : Nat) : Prog :=
  .look fun s => match s.scriptOp t with
    | none => .skip
    | some o => modThread t fun x => { x with
        pc := x.pc + o.size
        wait := .none
        expectRetries := 0 }

/-- A twin secondary treats this script as completed without effect (R100). -/
def State.skipsScript (s : State) (c : Script) : Bool := s.localRole == 2 && c.target < 3

/-- Start the scripts of one phase, by thread and in section order (R97). -/
def startScripts (phase : Nat) : Prog :=
  .look fun s => Prog.each (upTo 4) fun t =>
    let l := s.scripts.filter fun c => c.thread == t && c.phase == phase
    let run := l.filter fun c => !s.skipsScript c
    let status := if run = [] then 2 else 1
    Prog.when (l ≠ []) <| .seq
      (modThread t fun x => if x.scripts = [] then { x with scripts := run, pc := 0, wait := .none }
        else { x with scripts := x.scripts ++ run })
      (Prog.when ((s.thread t).failed = false)
        (setReg R.BOOT_SCRIPT_STATUS
          (setBits (s.rd R.BOOT_SCRIPT_STATUS) (2 * t + 1) (2 * t)
            (if (s.thread t).scripts = [] then status else 1))))

/-- A script of this phase and target is still to run or running. -/
def State.scriptPending (s : State) (phase target : Nat) : Bool :=
  s.boot.threads.any fun t => t.scripts.any fun c => c.phase == phase && c.target == target

/-- The SCRIPT section holds a script of this phase and target. -/
def State.scriptSeen (s : State) (phase target : Nat) : Bool :=
  s.scripts.any fun c => c.phase == phase && c.target == target

/-! ### The I2C controllers (R98) -/

/-- The transfer of controller `c`. -/
def State.i2c (s : State) (c : Nat) : Option I2cXfer := nth none s.ports.i2c c

def setI2c (c : Nat) (x : Option I2cXfer) : Prog :=
  modPorts fun p => { p with i2c := upd p.i2c c x }

/-- A script uses controller `c`: a transfer of its, or the interval before the next one. -/
def State.i2cByScript (s : State) (c : Nat) : Bool :=
  (match s.i2c c with
   | none => false
   | some x => x.thread.isSome)
    || s.boot.threads.any fun t => t.wait == .expectRetry c || t.wait == .i2c c

/-- Start a transfer on a free controller. -/
def startI2c (c : Nat) (x : I2cXfer) : Prog := .seq (firstWrite [.i2c c]) <| .seq
  (setI2c c (some x))
  (setReg R.I2C_STATUS 1 c)

/-- The register bytes that a transfer sends first: low byte first (assumption 46). -/
def regBytes (width reg : Nat) : List Byte := leBytes (min width 2) reg

/-- A write to I2C_XFER_c: one transfer starts (Table 13-19). While a transfer is in progress or
a script uses the controller, the write gets an error response. -/
def i2cXfer (c v : Nat) : Prog :=
  .look fun s =>
    let n := bits v 9 8 + 1
    let hd := regBytes (bits v 11 10) (bits v 31 16)
    if s.i2cByScript c || (s.i2c c).isSome then respondError
    else if bitN v 7 = 1 then startI2c c ⟨bits v 6 0, true, hd, n, none, 0, false⟩
    else startI2c c ⟨bits v 6 0, false, hd ++ leBytes n (s.rd R.I2C_DATA c), 0, none, 0, false⟩

/-- The transfer of controller `c` has ended; `nack`, `fail`: its outcome. -/
def endI2c (c : Nat) (nack fail : Bool) : Prog := .seq (setI2c c none) <| .seq
  (setReg R.I2C_STATUS ((if nack then 2 else 0) + (if fail then 4 else 0)) c)
  (Prog.when (fail = true) (raise 0x6301 unitHub))

/-- The transfer that an I2C_EXPECT makes. -/
def expectXfer (t : Nat) (d : List Byte) : I2cXfer :=
  ⟨fieldAt d 0 1 % 128, true, slice d 2 (min 2 (fieldAt d 1 1)), clampNat 1 4 (fieldAt d 4 1),
   some t, 0, false⟩

end Sys2Proof.Machine
end

