-- ==== Sys2Proof/Machine/LoadChecks.lean ====
section
/-! DEFINITION. The structure check of Table 03-14 (reason 0x0A): what the blocks refuse of a
profile's content at load, under the rules of their own chapters. -/

namespace Sys2Proof.Machine

/-- Whole intervals of physical addresses, as (start, bytes). -/
abbrev Span := Nat × Nat

def spansMeet (a b : Span) : Bool :=
  decide (0 < a.2) && decide (0 < b.2) && decide (a.1 < b.1 + b.2) && decide (b.1 < a.1 + a.2)

def spanIn (a b : Span) : Bool := decide (b.1 ≤ a.1) && decide (a.1 + a.2 ≤ b.1 + b.2)

def Sect.span (x : Sect) : Span := (x.dest, x.length)

/-- `n` rounded up to 64 KiB. -/
def up64k (n : Nat) : Nat := (n + 65535) / 65536 * 65536

/-- A profile's content as the checks see it: the profile, the MAIN sections it loads, its ROUTE
section, and every profile that loads that section. -/
structure Content where
  prof : Profile
  sects : List Sect
  route : Sect
  others : List Profile
  deriving DecidableEq, Repr

/-! ### The ROUTE section (R157, Tables 05-2 to 05-5) -/

def State.rf (s : State) (k : Content) (off n : Nat) : Nat := s.paNum (k.route.dest + off) n

def State.rbytes (s : State) (k : Content) (off n : Nat) : List Byte :=
  s.paBytes (k.route.dest + off) n

def State.rroutes (s : State) (k : Content) : List RouteEntry :=
  (upTo (s.rf k 6 2)).map fun r => routeOf (s.rbytes k (s.rf k 8 4 + 16 * r) 16)

/-- Crossing table entries: index, mutex, persistent, initial value. -/
structure XngEntry where
  index : Nat
  mode : Nat
  flags : Nat
  init : Nat
  deriving DecidableEq, Repr

def State.rxngs (s : State) (k : Content) : List XngEntry :=
  (upTo (s.rf k 0x18 2)).map fun i =>
    let b := s.rbytes k (s.rf k 0x14 4 + 8 * i) 8
    ⟨fieldAt b 0 2, fieldAt b 2 1, fieldAt b 3 1, fieldAt b 4 4⟩

def XngEntry.ok (e : XngEntry) : Bool :=
  decide (16 ≤ e.index) && decide (e.index < 1024) && decide (e.mode ≤ 1) && decide (e.flags ≤ 1)
    && (e.mode == 0 || e.init == 0)

/-- Resource class `n` as (KIND, COUNT, reserved, MASK). -/
def State.rclass (s : State) (k : Content) (n : Nat) : Nat × Nat × Nat × Nat :=
  let b := s.rbytes k (s.rf k 0x1C 4 + 8 * n) 8
  (fieldAt b 0 1, fieldAt b 1 1, fieldAt b 2 2, fieldAt b 4 4)

def classEntryOk (c : Nat × Nat × Nat × Nat) : Bool :=
  decide (c.1 ≤ 7) && decide (c.2.1 ≤ 16) && c.2.2.1 == 0
    && (if c.1 = 1 then decide (c.2.2.2 < 2 ^ 16) else if c.1 = 2 then decide (c.2.2.2 < 2 ^ 8)
        else decide (c.2.2.2 < 2))

/-- A route entry, with the six reserved bytes that follow its fields. -/
def routeOk (e : RouteEntry) (rest stops : Nat) : Bool :=
  decide (e.queue < 16) && decide (e.level < 4) && (e.level == 0) == (e.queue == 0)
    && decide (e.asid < 16) && decide (e.flags ≤ 1) && decide (1 ≤ e.count)
    && decide (e.first + e.count ≤ stops) && decide (1 ≤ e.maxOpen) && decide (e.maxOpen ≤ 64)
    && decide (1 ≤ e.drainMs) && decide (e.drainMs ≤ 255) && rest == 0

/-- The section's own tables (Tables 05-2 to 05-5). -/
def State.routeSectOk (s : State) (k : Content) : Bool :=
  let len := k.route.length
  let stops := s.rf k 0x10 4
  decide (32 ≤ len) && s.rf k 0 4 == 0x45545552 && s.rf k 4 2 == 1
    && decide (1 ≤ s.rf k 6 2) && decide (s.rf k 6 2 ≤ 256)
    && s.rf k 8 4 % 16 == 0 && decide (s.rf k 8 4 + 16 * s.rf k 6 2 ≤ len)
    && s.rf k 0x0C 4 % 64 == 0 && decide (s.rf k 0x0C 4 + 64 * stops ≤ len)
    && s.rf k 0x14 4 % 8 == 0 && decide (s.rf k 0x14 4 + 8 * s.rf k 0x18 2 ≤ len)
    && decide (s.rf k 0x18 2 ≤ 1008) && s.rf k 0x1A 2 == 0
    && s.rf k 0x1C 4 % 8 == 0 && decide (s.rf k 0x1C 4 + 128 ≤ len)
    && ((upTo (s.rf k 6 2)).all fun r =>
        routeOk (routeOf (s.rbytes k (s.rf k 8 4 + 16 * r) 16))
          (s.rf k (s.rf k 8 4 + 16 * r + 0x0A) 6) stops)
    && (s.rxngs k).all XngEntry.ok
    && ((upTo 16).all fun n => classEntryOk (s.rclass k n))
    && decide (k.prof.entryRoute < s.rf k 6 2)

/-! ### Stops -/

/-- Stop `index` of the section as a warden would fetch it at ITER 0, as stop `pos` of route `r` on
queue `q`. -/
def State.loadStop (s : State) (k : Content) (r pos index q : Nat) : Stop :=
  let w := s.rbytes k (s.rf k 0x0C 4 + 64 * index) 64
  let st : Stop := ⟨r, pos, index, q, 0, w, [], none, .open, .open, false⟩
  { st with desc := s.paBytes st.descPa (64 * st.descLines) }

/-- Every stop of the section's array, with the ASID and queue that its HEAD must name: those of each
route that holds it, or, for a stop that no route holds, its own (R157). -/
def State.loadStops (s : State) (k : Content) : List (Stop × Nat × Nat) :=
  let routes := (List.range (s.rf k 6 2)).zip (s.rroutes k)
  let held (i : Nat) : Bool := routes.any fun x => decide (x.2.first ≤ i) && decide (i < x.2.first + x.2.count)
  (routes.flatMap fun x => (upTo x.2.count).map fun pos =>
      (s.loadStop k x.1 pos (x.2.first + pos) x.2.queue, x.2.asid, x.2.queue))
    ++ ((upTo (s.rf k 0x10 4)).filter fun i => !held i).map fun i =>
      let st := s.loadStop k 0 0 i 0
      ({ st with queue := st.headQueue }, st.asid, st.headQueue)

/-- A wait or signal slot obeys R161; `mutex`: whether a crossing of the table is a mutex. -/
def waitOk (mutex : Nat → Bool) (w : Slot) : Bool :=
  w.op == 0 || (w.op == 1 && !mutex w.xng) || (w.op == 2 && mutex w.xng)

def signalOk (mutex imported : Nat → Bool) (g : Slot) : Bool :=
  g.op == 0 || (decide (16 ≤ g.xng) && !imported g.xng
    && (((g.op == 1 || g.op == 2) && !mutex g.xng)
        || (g.op == 3 && mutex g.xng && g.step == 0 && g.operand == 0)))

/-- Range `i` of the descriptor as an interval of its address space. -/
def rangeSpan (d : List Byte) (i : Nat) : Span := ((rangeAt d i).va, (rangeAt d i).len)

/-- Some range with RD overlaps some range with WR. -/
def rdMeetsWr (d : List Byte) : Bool :=
  let n := upTo (descRanges d)
  n.any fun i => n.any fun j => (rangeAt d i).rd && (rangeAt d j).wr
    && spansMeet (rangeSpan d i) (rangeSpan d j)

/-- Some range with RD overlaps range `k`, which may itself have RD. -/
def rdMeets (d : List Byte) (k : Nat) : Bool :=
  (upTo (descRanges d)).any fun i =>
    (rangeAt d i).rd && spansMeet (rangeSpan d i) (rangeSpan d k)

/-- A LOCK or UNLOCK stop's ranges are whole pages (R164). -/
def lockRangesOk (asid : Nat) (d : List Byte) : Bool :=
  (upTo (descRanges d)).all fun i =>
    let r := rangeAt d i
    let m := if asid = 0 ∧ 0x100000000 ≤ r.va then 65536 else 4096
    r.va % m == 0 && r.len % m == 0

/-- Ranges that the opcode writes in every byte (R178); a vision engine writes every WR range so
(R198). -/
def fullyWritten (op : Nat) (d : List Byte) : List Nat :=
  if op = 0x02 then [param d 1 1]
  else if op = 0x03 then [param d 0 1]
  else if op = 0x10 then
    (if param d 2 1 = 0 ∧ bitN (param d 3 1) 0 = 1 ∧ (rangeAt d (param d 1 1)).rd = false
     then [param d 1 1] else [])
  else if op = 0x11 then [param d 4 1]
  else if op = 0x12 then [param d 0 1]
  else if op = 0x20 then (if (layerOf d).whole then [(layerOf d).outRange] else [])
  else if 0x30 ≤ op ∧ op ≤ 0x33 then wrRanges d
  else []

/-- A STAMP stop may be re-run (R178). -/
def stampOk (op : Nat) (d : List Byte) : Bool :=
  !rdMeetsWr d && op != 0x21 && op != 0x40
    && (upTo (descRanges d)).all fun i => !(rangeAt d i).wr || (fullyWritten op d).contains i

/-- Range `i` of the descriptor is read, or written, and holds `n` bytes. -/
def rangeHolds (d : List Byte) (i n : Nat) (write : Bool) : Bool :=
  rangeIs d i write && decide (n ≤ (rangeAt d i).len)

/-- Bytes per pixel of an image a vision engine reads. -/
def visBytes (fmt : Nat) : Nat := if fmt = 1 then 3 else if fmt = 3 then 4 else if fmt = 4 then 1 else 2

/-- A vision source image: its size, format, pitch and range (Tables 06-6 and 06-7). -/
def visSrcOk (d : List Byte) (range w h pitch fmt : Nat) : Bool :=
  decide (16 ≤ w) && decide (w ≤ 3840) && decide (16 ≤ h) && decide (h ≤ 2160) && pitch % 64 == 0
    && decide (fmt ≤ 4) && decide (w * visBytes fmt ≤ pitch) && rangeHolds d range (pitch * h) false

/-- WARP fields (Table 06-6). -/
def warpFieldsOk (d : List Byte) : Bool :=
  let p := warpParam d
  let cells (n : Nat) : Nat := (n + 2 ^ p.cellLog2 - 1) / 2 ^ p.cellLog2
  visSrcOk d (param d 0 1) (param d 4 2) (param d 6 2) (param d 8 4) (param d 0x0C 1)
    && decide (param d 3 1 < 16) && decide (bits (param d 3 1) 3 2 ≤ 2)
    && (p.dstFmt == 1 || p.dstFmt == 3) && decide (4 ≤ p.cellLog2) && decide (p.cellLog2 ≤ 6)
    && param d 0x0F 1 == 0 && decide (16 ≤ p.dw) && decide (p.dw ≤ 2560) && decide (16 ≤ p.dh)
    && decide (p.dh ≤ 1080) && p.dpitch % 64 == 0
    && decide (p.dw * (if p.dstFmt = 3 then 4 else 3) ≤ p.dpitch)
    && (param d 0x1C 30) == 0
    && rangeHolds d p.mesh (8 * (cells p.dw + 1) * (cells p.dh + 1)) false
    && rangeHolds d p.dst (p.dpitch * p.dh) true

/-- Size of level `l` of a map of `n`. -/
def levelSize (n l : Nat) : Nat := (n + 2 ^ l - 1) / 2 ^ l

/-- Bytes of the Laplacian levels 0 to `n` - 1 of a w × h image (R207). -/
def laplaceBytes (n w h : Nat) : Nat :=
  ((upTo n).map fun l => (2 * levelSize w l + 63) / 64 * 64 * levelSize h l).sum

/-- PYRAMID fields, with a range that holds the layout (Table 06-7, R207). -/
def pyramidFieldsOk (d : List Byte) : Bool :=
  let n := param d 2 1
  let w := param d 6 2
  let h := param d 8 2
  visSrcOk d (param d 0 1) w h (param d 0x0C 4) (param d 4 1)
    && decide (1 ≤ n) && decide (n ≤ 5) && decide (8 ≤ levelSize w n) && decide (8 ≤ levelSize h n)
    && decide (param d 3 1 ≤ 1) && param d 5 1 == 0 && param d 0x0A 2 == 0 && param d 0x10 42 == 0
    && rangeHolds d (param d 1 1)
        (pyramidOff (n + 1) w h + (if param d 3 1 = 1 then laplaceBytes n w h else 0)) true

/-- MOTION fields (Table 06-8, R209). -/
def motionFieldsOk (d : List Byte) : Bool :=
  let n := param d 7 1
  let w := param d 0x0E 2
  let h := param d 0x10 2
  let pitch := param d 0x14 4
  let need := pitch * h
  decide (1 ≤ n) && decide (n ≤ 4)
    && w % (8 * 2 ^ (n - 1)) == 0 && h % (8 * 2 ^ (n - 1)) == 0
    && ((upTo n).all fun l => decide (1 ≤ param d (8 + l) 1) && decide (param d (8 + l) 1 ≤ 32))
    && decide (param d 0x0C 1 ≤ 2) && (param d 0x0D 1 == 0 || param d 0x0D 1 == 4)
    && param d 0x12 2 == 0 && param d 0x18 34 == 0
    && rangeHolds d (param d 0 1) need false && rangeHolds d (param d 2 1) need false
    && (if n = 1 then param d 1 1 == 0xFF && param d 3 1 == 0xFF
        else rangeHolds d (param d 1 1) (pyramidOff n w h) false
            && rangeHolds d (param d 3 1) (pyramidOff n w h) false)
    && (param d 5 1 == 0xFF || rangeHolds d (param d 5 1) 64 false)
    && (param d 6 1 == 0xFF || rangeHolds d (param d 6 1) 64 false)
    && rangeHolds d (param d 4 1) (64 + 8 * (w / 8) * (h / 8)) true

/-- Statistics fields. -/
def statsFieldsOk (d : List Byte) : Bool :=
  let n := param d 3 1
  visSrcOk d (param d 0 1) (param d 6 2) (param d 8 2) (param d 0x0C 4) (param d 4 1)
    && decide (1 ≤ n) && decide (n ≤ 16) && param d 5 1 == 0 && param d 0x0A 2 == 0
    && param d 0x10 42 == 0 && rangeHolds d (param d 1 1) (8 * n) false
    && rangeHolds d (param d 2 1) (320 * n) true

/-- OP and DTYPE match R233. -/
def opTypeOk (op dtype : Nat) : Bool :=
  if op ≤ 5 then dtype ≤ 1 else if op = 6 then dtype ≤ 3 else if op ≤ 8 then true else dtype == 1

/-- COMPUTE_OP fields and layouts (Table 07-13, R235): a BLEND's destination image has the source's
pitch, and both images' rows fit their pitches. -/
def computeFieldsOk (d : List Byte) : Bool :=
  let p := opParam d
  let e := p.rows * p.cols
  let size (dt : Nat) : Nat := if dt = 0 then 1 else if dt = 3 then 4 else 2
  let image := p.op == 7 || p.op == 8
  let in1Bytes : Nat := if p.op = 7 then p.inPitch * max p.rows p.dh else e * size p.dtype
  decide (p.op ≤ 10) && decide (p.dtype ≤ 3) && opTypeOk p.op p.dtype
    && decide (1 ≤ p.rows) && decide (1 ≤ p.cols) && param d 6 2 == 0
    && decide (param d 0x13 1 ≤ 31) && param d 0x28 18 == 0
    && (!(p.op == 9 || p.op == 10) || decide (p.cols ≤ 16384))
    && (if image then (if p.op = 7 then p.fmt == 3 else decide (1 ≤ p.fmt) && decide (p.fmt ≤ 5))
            && p.inPitch % 64 == 0 && p.outPitch % 64 == 0 && decide (param d 0x1F 1 ≤ 1)
            && decide (p.cols * texelBytes p.fmt ≤ p.inPitch)
            && decide (p.dw * texelBytes p.fmt ≤ p.outPitch)
            && rangeHolds d p.in0 (p.inPitch * p.rows) false
            && rangeHolds d p.out (p.outPitch * p.dh) true
        else rangeHolds d p.in0 (e * size p.dtype) false
            && rangeHolds d p.out (e * (if p.op = 6 then (if p.dtype = 1 then 1 else 2)
                else size p.dtype)) true)
    && (if p.op ≤ 4 ∨ p.op = 7 then rangeHolds d p.in1 in1Bytes false else p.in1 == 0xFF)
    && (if p.op = 9 then rangeHolds d p.aux (4 * p.cols) false
        else p.aux == 0xFF || rangeIs d p.aux false)
    && !rdMeets d p.out

/-- COMPOSE fields and layer records (Table 07-15, R237). -/
def composeFieldsOk (mask lines : Nat) (d : List Byte) : Bool :=
  let p := composeParam d
  bitN mask 0 == 1 && param d 3 1 / 128 == 0 && decide (1 ≤ p.layers) && decide (p.layers ≤ 8)
    && decide (64 + 32 * p.layers ≤ 64 * lines) && (p.fmt == 1 || p.fmt == 3)
    && decide (16 ≤ p.dw) && decide (p.dw ≤ 2560) && decide (16 ≤ p.dh) && decide (p.dh ≤ 2048)
    && rangeHolds d p.dst (p.pitch * p.dh) true
    && ((upTo p.layers).all fun n =>
        let l := layerAt d n
        decide (1 ≤ l.fmt) && decide (l.fmt ≤ 3) && decide (fieldAt d (64 + 32 * n + 2) 1 ≤ 1)
          && decide (1 ≤ l.sw) && decide (1 ≤ l.sh) && decide (1 ≤ l.dw) && decide (1 ≤ l.dh)
          && l.pitch % 64 == 0 && fieldAt d (64 + 32 * n + 0x18) 8 == 0
          && rangeIs d l.range false)
    && !rdMeets d p.dst





/-- The MAIN sections of the content's own profile. -/
def Content.own (k : Content) : List Sect :=
  k.sects.filter fun x => bitN x.profiles k.prof.number == 1

/-- Destinations of its WEIGHT sections (R258), and of the DATA sections. -/
def Content.weights (k : Content) : List Span :=
  (k.own.filter fun x => x.kind == 0x11).map Sect.span

def Content.data (k : Content) : List Span :=
  (k.own.filter fun x => x.kind == 0x14).map Sect.span

/-- Page frame that stands for a page that does not translate, in the loader's checks. Nothing is
mapped there. -/
def noFrame : Nat := 0x700000

/-- Page frame of one page of a range, as the loader finds it at load. -/
def State.frameOf (s : State) (asid vpn : Nat) (r : Range) : Nat :=
  match s.translate asid vpn r.rd r.wr with
  | .page f => f
  | _ => noFrame

/-- Runs of ranges, page by page, at load. -/
def State.loadRuns (s : State) (asid : Nat) (rs : List Range) : List Run :=
  (((List.range rs.length).zip rs).foldl (fun runs x =>
    (upTo x.2.pages).foldl (fun l k =>
      addPage l (s.frameOf asid (x.2.va / 4096 + k) x.2) x.1 x.2.rd x.2.wr) runs) []).reverse

/-- The stop as an open one whose ranges are translated now, page by page, for the checks that read
what its ranges hold. -/
def State.asOpen (s : State) (st : Stop) : OpenStop :=
  ⟨0, { st with runs := some ⟨s.loadRuns st.asid st.ranges, st.ranges.length, pageCount st.ranges,
      st.asid, 0, 0, 0⟩ }, [], [], false, 0, [], 0, none, [], 0, false, false, false, none, []⟩

/-- A physical piece of a page that translates. -/
def mappedPiece (p : Span) : Bool := p.1 / 2 ^ 32 != 7

/-- Physical spans of range `i`, as far as it translates. -/
def State.rangeSpans (s : State) (st : Stop) (i : Nat) : List Span :=
  ((s.asOpen st).stop.rangePieces i).filter mappedPiece

/-- `n` bytes of range `i` from `off` translate and lie in one of the spans. -/
def State.bytesIn (s : State) (st : Stop) (i off n : Nat) (l : List Span) : Bool :=
  ((s.asOpen st).stop.pieces i (n / 4096 + 2) off n).all fun c => mappedPiece c && l.any (spanIn c)

/-- The whole of range `i` translates and lies in one of the spans. -/
def State.rangeIn (s : State) (st : Stop) (i : Nat) (l : List Span) : Bool :=
  s.bytesIn st i 0 (rangeAt st.desc i).len l

/-- Range `i` is exactly the `n` bytes from physical address `pa`. -/
def State.rangeCovers (s : State) (st : Stop) (i pa n : Nat) : Bool :=
  (rangeAt st.desc i).len == n
    && (((s.asOpen st).stop.rangePieces i).foldl (fun (x : Bool × Nat) c =>
      (x.1 && c.1 == x.2, x.2 + c.2)) (true, pa)).1

/-- Physical spans that a stop writes, as far as its ranges translate. -/
def State.writtenSpans (s : State) (st : Stop) : List Span :=
  (wrRanges st.desc).flatMap (s.rangeSpans st)

/-- The ring layer of a COMPOSE exists, covers exactly the stands of its track, and addresses pixels
within one stand (R300). -/
def State.ringOk (s : State) (st : Stop) : Bool :=
  match ringOf st.desc with
  | none => true
  | some (n, t) =>
    let l := layerAt st.desc n
    decide (n < (composeParam st.desc).layers) && decide (t < 6)
      && s.rangeCovers st l.range (s.trkBase t) (s.trkStands t * s.trkStride t)
      && decide (l.pitch * (l.sy + l.sh - 1) + (l.sx + l.sw) * texelBytes l.fmt ≤ s.trkStride t)

/-- OFFER fields (Table 10-2, R293): the stand's range is that stand, and a GENERATE's source range is
a stand of the same track, its vector range room for a field's header and one vector (R301). -/
def State.offerFieldsOk (s : State) (st : Stop) : Bool :=
  let d := st.desc
  let p := offerParam d
  let gen := p.action == 1
  decide (p.action ≤ 1) && decide (p.track < 6) && decide (p.stand < s.trkStands p.track)
    && (if gen then p.kind == 2 else decide (p.kind ≤ 2)) && param d 0x0E 2 == 0
    && param d 0x19 1 == 0 && param d 0x1C 30 == 0
    && rangeIs d p.dst gen
    && s.rangeCovers st p.dst (s.standPa p.track p.stand) (s.trkStride p.track)
    && (if gen then decide (16 ≤ p.w) && decide (p.w ≤ 2560) && decide (16 ≤ p.h)
            && decide (p.h ≤ 1080) && p.pitch % 64 == 0 && (p.fmt == 1 || p.fmt == 3)
            && decide (1 ≤ p.a) && decide (p.a ≤ 256)
            && decide (p.w * texelBytes p.fmt ≤ p.pitch)
            && decide (p.pitch * p.h ≤ s.trkStride p.track)
            && rangeIs d p.src false && rangeHolds d p.vec 72 false
            && (upTo (s.trkStands p.track)).any fun n =>
                s.rangeCovers st p.src (s.standPa p.track n) (s.trkStride p.track)
        else p.src == 0xFF && p.vec == 0xFF)

/-- RASTER_PASS: Tables 07-2 to 07-8 (R217, R227). -/
def State.rasterOk (s : State) (k : Content) (st : Stop) (written : List Span) : Bool :=
  let d := st.desc
  let p := passParam d
  let bpp := texelBytes p.fmt
  let o := s.asOpen st
  let h := s.cmdHead o p
  st.queue != 0 && decide (param d 2 1 ≤ 1) && decide (param d 3 1 ≤ 1)
    && !(p.direct && p.clear) && decide (16 ≤ p.w) && decide (p.w ≤ 2560) && decide (16 ≤ p.h)
    && decide (p.h ≤ 2048) && p.pitch % 64 == 0 && decide (1 ≤ p.fmt) && decide (p.fmt ≤ 3)
    && decide (p.w * bpp ≤ p.pitch) && param d 0x0D 3 == 0 && param d 0x14 38 == 0
    && rangeHolds d p.target (p.pitch * p.h) true
    && ((!p.direct && p.clear) || (rangeAt d p.target).rd)
    && rangeIs d p.cmd false && s.rangeIn st p.cmd k.data
    && !(s.rangeSpans st p.cmd).any (fun c => written.any (spansMeet c))
    && h.whole o p && (upTo h.progs).all (s.progWhole o p h) && (upTo h.texs).all (s.texWhole o p h)
    && (upTo h.draws).all fun n => s.drawOk o p h (s.drawRec o p h n)

/-- WARP: its tiles' footprints and its mesh (R203). -/
def State.warpOk (s : State) (k : Content) (st : Stop) (written : List Span) : Bool :=
  let p := warpParam st.desc
  warpFieldsOk st.desc && s.rangeIn st p.mesh k.data
    && !(s.rangeSpans st p.mesh).any (fun c => written.any (spansMeet c))
    && s.warpBadTiles (s.asOpen st) p == []

/-- Bytes of accumulator that a layer needs in logical district `d` (R266): a block's vectors, by the
outputs of a tile at 4 B each, by the NT homed there. -/
def accNeed (es : List MapEntry) (l : Layer2) (d : Nat) : Nat :=
  l.block * l.opt * 4 * countIf (fun nt => homeDistrict es nt == d) (upTo l.ntiles)

/-- The array part of an ARRAY_LAYER's parameters, and its map (Table 08-12, R264). -/
def arrayParamsOk (lines : Nat) (d : List Byte) : Bool :=
  let l := layerOf d
  let es := layerEntries d
  let out := param d 3 1
  let mode := param d 0 1
  decide (bits mode 1 0 ≤ 1) && decide (bits mode 3 2 ≤ 2) && bits mode 7 4 == 0
    && decide (l.out ≤ 2) && decide (l.act ≤ 3) && bits out 7 5 == 0
    && !(l.out == 2 && l.act != 0)
    && (l.wt == 0xFF || rangeIs d l.wt false) && rangeIs d l.post false
    && param d 4 2 % 8 == 0 && decide (param d 4 2 + 8 * l.entries ≤ 64 * lines)
    && decide (1 ≤ l.entries) && decide (l.entries ≤ 512) && decide (1 ≤ l.ktiles)
    && decide (l.ktiles ≤ 512) && decide (1 ≤ l.ntiles) && decide (l.ntiles ≤ 256)
    && decide (1 ≤ l.block) && decide (l.block ≤ 256) && param d 0x14 12 == 0
    && ((upTo l.entries).all fun n => bits (fieldAt d (param d 4 2 + 8 * n) 4) 31 27 == 0)
    && l.entries == l.ktiles * l.ntiles
    && ((upTo l.ktiles).all fun kt => (upTo l.ntiles).all fun nt =>
        es.any fun e => e.kt == kt && e.nt == nt)
    && (es.all fun e => !(e.shuttle && l.wt == 0xFF))
    && (upTo 8).all fun q => decide (accNeed es l q ≤ 0x20000)

/-- The post records of a layer as they stand at load: a BIAS and an S within their bounds (R281). -/
def State.postOk (s : State) (st : Stop) : Bool :=
  let l := layerOf st.desc
  (upTo l.cout).all fun n =>
    let r := s.postRec (s.asOpen st) l n
    !biasBad r.1 && decide (r.2.2 ≤ 47)

/-- The descriptor lies in a ROUTE or DATA section, and no stop of the section writes it (R289). -/
def descPlaced (k : Content) (st : Stop) (written : List Span) : Bool :=
  let d : Span := (st.descPa, 64 * st.descLines)
  (k.route.span :: k.data).any (spanIn d) && !written.any (spansMeet d)

/-- Array stops: R241, R258 and, for an ARRAY_LAYER, R264 to R289. -/
def State.arrayOk (s : State) (k : Content) (st : Stop) (kind count mask : Nat) (written : List Span) :
    Bool :=
  let names := st.arraysNamed
  let want := names.foldl (fun m a => m ||| 2 ^ (a / 24)) 0
  let d := st.desc
  let entries := if st.opcode = 0x20 then layerEntries d else (upTo (writeEntries d)).map (mapEntry d)
  let range := if st.opcode = 0x20 then (layerOf d).wt else param d 0 1
  let off (e : MapEntry) : Nat := 8192 * (if st.opcode = 0x20 then e.tag else e.src8k)
  let sourced (e : MapEntry) : Bool := st.opcode == 0x21 || e.shuttle
  kind == 2 && mask == want && count == maskCount want
    && names.all (fun a => k.others.all fun p => decide (a < p.arrMin))
    && entries.all (fun e => !sourced e || (rangeHolds d range (off e + 8192) false
        && s.bytesIn st range (off e) 8192 k.weights))
    && (if st.opcode = 0x21 then decide (1 ≤ writeEntries d) && decide (writeEntries d ≤ 256)
          && decide (param d 4 2 + 8 * writeEntries d ≤ 64 * st.descLines)
          && param d 4 2 % 8 == 0 && param d 1 1 == 0 && param d 6 52 == 0
          && entries.all fun e => decide (e.logical < 192) && e.tag != 0xFFFFFFFF
        else arrayParamsOk st.descLines d && layerOk st.descLines d && s.postOk st
          && descPlaced k st written)

/-- One stop of the section passes the load checks. -/
def State.stopLoadOk (s : State) (k : Content) (mutex imported : Nat → Bool) (ring written : List Span)
    (x : Stop × Nat × Nat) : Bool :=
  let st := x.1
  let c := s.rclass k st.rclass
  let op := st.opcode
  let d := st.desc
  let ranges := upTo (descRanges d)
  let tile := op == 0x10 || op == 0x11 || op == 0x12
  let wr := s.writtenSpans st
  stopWordsOk st x.2.1 x.2.2 c.1 c.2.1 c.2.2.2
    && (st.descLines == 0 || (descOk op (s.rf k 6 2) st.descLines d
        && decide (st.descPa + 64 * st.descLines ≤ s.plazaTop)))
    && waitOk mutex st.w0 && waitOk mutex st.w1
    && !(st.w0.op == 2 && st.w1.op == 2 && st.w0.xng == st.w1.xng)
    && signalOk mutex imported st.sig0 && signalOk mutex imported st.sig1
    && decide (pageCount st.ranges ≤ 8192)
    && decide (poolUnitsFor (pageCount st.ranges) ≤ s.poolUnits)
    && (if tile then decide (st.granEst ≤ 62) else st.granEst == 0)
    && (!(op == 4 || op == 5) || (lockRangesOk st.asid d
        && (op != 4 || ranges.all fun i => (s.rangeSpans st i).all fun p => !ring.any (spansMeet p))))
    && (!st.stamp || stampOk op d)
    && wr.all (fun p => !k.weights.any (spansMeet p))
    && (if op = 0x10 then s.rasterOk k st written
        else if op = 0x11 then computeFieldsOk d
        else if op = 0x12 then st.queue == 0 && composeFieldsOk c.2.2.2 st.descLines d && s.ringOk st
        else if op = 0x20 ∨ op = 0x21 then s.arrayOk k st c.1 c.2.1 c.2.2.2 written
        else if op = 0x30 then !rdMeetsWr d && s.warpOk k st written
        else if op = 0x31 then !rdMeetsWr d && pyramidFieldsOk d
        else if op = 0x32 then !rdMeetsWr d && motionFieldsOk d
        else if op = 0x33 then !rdMeetsWr d && statsFieldsOk d
        else if op = 0x40 then s.offerFieldsOk st
        else true)

/-! ### The rest of the profile -/

/-- The camera ring's slots. -/
def State.camRing (s : State) : List Span :=
  (upTo (s.fld F.CAM_CTRL_SLOTS)).map fun n => (s.camSlotPa n, s.fld F.CAM_SLOT_SIZE_BYTES)

def State.lotSpan (s : State) (p : Profile) : Span := (65536 * s.fld F.RAS_LOT_BASE_BASE_64K, p.lotBytes)
def State.poolSpan (s : State) : Span :=
  (65536 * s.fld F.XLT_POOL_BASE_BASE_64K, 64 * s.poolUnits)
def State.saveSpan (s : State) : Span := (65536 * s.fld F.TILE_SAVE_BASE_BASE_64K, 65536)

/-- The places of the lot, of the run-list pool and of the save area (R147, R229, R239). -/
def State.lotOk (s : State) (k : Content) : Bool :=
  let lot := s.lotSpan k.prof
  let pool := s.poolSpan
  let save := s.saveSpan
  let fs : Span := (0, up64k k.prof.fsBytes)
  [lot, pool, save].all (fun a => decide (a.1 + a.2 ≤ s.plazaTop) && !spansMeet a fs
      && k.sects.all fun x => x.destSel != 0 || !spansMeet a x.span)
    && !spansMeet lot pool && !spansMeet lot save && !spansMeet pool save

/-- Slots of gate record `r`: source slots and bound slots. -/
def GateRec.spans (r : GateRec) : List Span :=
  ((upTo r.srcSlots).map fun i => (r.srcPa i, r.size))
    ++ ((upTo r.boundSlots).map fun j => (r.boundPa j, r.size + 64))

/-- A gate record obeys Table 10-3; `mode`: mutex or persistent crossings of the table. -/
def GateRec.ok (r : GateRec) (counter : Nat → Bool) : Bool :=
  decide (r.kind ≤ 2) && r.rest.all (· == 0) && (r.kind == 0 ||
    (decide (1 ≤ r.boundSlots) && decide (r.boundSlots ≤ 4) && decide (r.trig < 1024)
      && decide (16 ≤ r.out) && decide (r.out < 1024) && counter r.out
      && decide (16 ≤ r.rel) && decide (r.rel < 1024) && decide (r.waitUs ≤ 1000000)
      && decide (64 ≤ r.size) && decide (r.size ≤ 65536) && r.size % 64 == 0
      && r.boundBase % 4096 == 0
      && decide (r.boundPa r.boundSlots ≤ 0x2800000)
      && (if r.kind = 1 then decide (1 ≤ r.srcSlots) && decide (r.srcSlots ≤ 8)
            && decide (16 ≤ r.src) && decide (r.src < 1024) && decide (1 ≤ r.s0)
            && r.srcBase % 4096 == 0 && decide (r.srcPa r.srcSlots ≤ 0x2800000)
          else r.srcSlots == 0 && r.size == 1088)))

/-- The input gates (R304, R387). -/
def State.gatesOk (s : State) (k : Content) : Bool :=
  let n := s.fld F.RBT_GATE_COUNT_COUNT
  let es := s.rxngs k
  let counter (c : Nat) : Bool := !es.any fun e => e.index == c && (e.mode == 1 || e.flags == 1)
  let gs := (upTo n).map s.gateRec
  decide (n ≤ 16) && gs.all (fun g => g.ok counter)
    && (upTo n).all fun i =>
      let a := (s.gateRec i).spans
      (s.gateRec i).kind == 0 || (
        (upTo n).all (fun j => i == j || (s.gateRec j).kind == 0
          || a.all fun x => !(s.gateRec j).spans.any (spansMeet x))
        && a.all fun x => !spansMeet x (0, up64k k.prof.fsBytes)
          && k.sects.all fun y => y.kind == 0x14 || y.destSel != 0 || !spansMeet x y.span)

/-- Mode that profile `p` declares for output `x`: 0 off, 1 frame-store, 2 prefill. -/
def Profile.mode (p : Profile) (x : Nat) : Nat := bits (if x = 0 then p.outA else p.outB) 3 0
def Profile.iface (p : Profile) (x : Nat) : Nat := bits (if x = 0 then p.outA else p.outB) 7 4

/-- Outputs that a profile runs. -/
def Profile.outs (p : Profile) : List Nat := (upTo 2).filter fun x => p.mode x != 0

/-- Fetch demand and line sizes of output `x` (R324). -/
def State.fetchOk (s : State) (x : Nat) (prefill : Bool) : Bool :=
  let t := timingOf s.timingWords
  let line (p : Nat) : Nat := (s.planeW x p * planeBytes (s.fld F.SCO_PL_CFG_FMT x p) + 63) / 64 * 64
  let on := (upTo 3).filter fun p => s.flag F.SCO_PL_CFG_EN x p
  (!prefill || (decide (16 * line 0 ≤ 131072)
      && !(s.fld F.SCO_PL_CFG_FMT x 0 == 2 && decide (2048 < t.hact))))
    && decide ((on.map line).sum * t.khz * 1000 ≤ 4000000000 * max 1 t.htotal)

/-- The interface rules of R313, for the outputs that a profile runs: those that the reason 0x08
names. -/
def State.ifacesOk (s : State) (p : Profile) : Bool :=
  let cmd (x : Nat) : Bool := s.fld F.SCO_OUT_CFG_IFACE x == 1
  p.outs.all s.ifaceRules && (!p.outs.any cmd || p.outs.all cmd)

/-- The displays of the profile, each fetched as it declares: the timing and line rules, R324, and the
enabled planes within the active area, their stands and the reservation (R118, R313, R322). -/
def State.displaysOk (s : State) (p : Profile) : Bool :=
  (p.outs == [] || s.timingRules) && p.outs.all fun x =>
    let prefill := p.mode x == 2
    s.linesRule x prefill && s.fetchOk x prefill && (upTo 3).all fun q =>
      !s.flag F.SCO_PL_CFG_EN x q
        || (s.planeShape x q && s.planePlace x q prefill (up64k p.fsBytes))

/-- No enabled signal record names an enabled GSP request identifier (R380). -/
def State.gspIdsOk (s : State) : Bool :=
  (upTo 2).all fun c => !s.flag F.CAN_GSP_ID_EN c || (upTo 64).all fun n =>
    !(s.flag F.SVC_SIG_ID_EN n && s.sigCtrl n == c
      && bits (s.rd R.SVC_SIG_ID n) 29 0 == bits (s.rd R.CAN_GSP_ID c) 29 0)

/-- FULL lies at or above START on every enabled NTC channel. -/
def State.ntcOk (s : State) : Bool :=
  (upTo 3).all fun c => !s.flag F.HVS_NTC_CFG_EN c
    || decide (s.fld F.HVS_NTC_THR_START c < s.fld F.HVS_NTC_THR_FULL c)

/-- The mailbox window of a two-chip profile (R418). -/
def State.mailboxOk (s : State) (k : Content) : Bool :=
  let m : Span := s.mailbox
  k.prof.chips != 2 || m.2 == 0 ||
    (m.1 % 4096 == 0 && s.inMemory m.1 m.2
      && !spansMeet m (0, up64k k.prof.fsBytes) && !spansMeet m (s.lotSpan k.prof)
      && !spansMeet m s.poolSpan && !spansMeet m s.saveSpan
      && (s.camRing.all fun c => !spansMeet m c)
      && ((upTo 6).all fun t => !spansMeet m (s.trkBase t, s.trkStands t * s.trkStride t)
          || !s.flag F.RBT_TRK_CFG_EN t)
      && k.sects.all fun x => x.kind == 0x14 || x.destSel != 0 || !spansMeet m x.span)

/-- Crossing `n` is an import crossing. -/
def State.imports (s : State) (n : Nat) : Bool :=
  s.flag F.BRG_XSIG_EN && decide (s.fld F.BRG_XSIG_IMPORT_BASE ≤ n)
    && decide (n < s.fld F.BRG_XSIG_IMPORT_BASE + 8)

/-- Export and import crossings (R421). -/
def State.xsigOk (s : State) (es : List XngEntry) : Bool :=
  let e := s.fld F.BRG_XSIG_EXPORT_BASE
  let i := s.fld F.BRG_XSIG_IMPORT_BASE
  let plain (n : Nat) : Bool := decide (16 ≤ n) && !es.any fun x => x.index == n
    && (x.mode == 1 || x.flags == 1)
  !s.flag F.BRG_XSIG_EN || (((upTo 8).all fun j => plain (e + j) && plain (i + j))
    && !spansMeet (e, 8) (i, 8))

/-- Fields of the PROFILE record itself (Table 03-12, R424; assumption 47). -/
def Profile.ok (p : Profile) : Bool :=
  let two := p.chips == 2 && p.role == 1
  decide (p.flags < 8) && decide (bits p.outA 3 0 ≤ 2) && decide (bits p.outB 3 0 ≤ 2)
    && decide (bits p.outA 7 4 ≤ 2) && decide (bits p.outB 7 4 ≤ 2)
    && (bitN p.flags 0 == 1 || p.ddrBytes == 0)
    && (bitN p.flags 2 == 0 || two) && ((two && bitN p.flags 2 == 0) || p.fallback == 0)

/-- On a chip without LPDDR4X, some stop of the section reads or writes the LPDDR window (R25): a page
of a range translates into it. -/
def State.touchesWindow (s : State) (k : Content) : Bool :=
  let t := { s with ave := { s.ave with ddrBytes := 2 ^ 32 } }
  s.ave.ddrBytes == 0 && (s.loadStops k).any fun x =>
    (upTo (descRanges x.1.desc)).any fun i => (t.rangeSpans x.1 i).any fun c =>
      spansMeet c (0x100000000, 0x100000000)

/-- The SECT_ID for which the structure check refuses a content; none where it passes. -/
def State.structureFault (s : State) (k : Content) : Option Nat :=
  let es := s.rxngs k
  let mutex (n : Nat) : Bool := es.any fun e => e.index == n && e.mode == 1
  if !(k.prof.ok && s.lotOk k && s.gspIdsOk && s.ntcOk && s.mailboxOk k && s.displaysOk k.prof)
  then some 0
  else if !(decide (k.route.dest + k.route.length ≤ s.plazaTop) && s.routeSectOk k)
  then some k.route.sectId
  else
    let stops := s.loadStops k
    let written := stops.flatMap fun x => s.writtenSpans x.1
    if !(s.xsigOk es && s.gatesOk k && !s.touchesWindow k
        && stops.all (s.stopLoadOk k mutex s.imports s.camRing written))
    then some k.route.sectId
    else none

end Sys2Proof.Machine
end

