-- ==== Sys2Proof/Machine/LoaderOps.lean ====
section
/-! DEFINITION. The loader's operations: retention initialisation, the image and its checks,
configuration records, profile choice, starting the outputs and hand-over (chapter 03; R61, R158,
R391, R399, R401, R424 to R429 and R457). -/

namespace Sys2Proof.Machine

/-- A fault of the loader; BOOT_ERROR keeps the first one of this start (Table 03-20). -/
def bootFault (code : Nat) (sect : Nat := 0) (detail : Nat := 0) : Prog := .seq
  (raise code unitNone detail)
  (.look fun s => Prog.when (s.rd R.BOOT_ERROR = 0)
    (setReg R.BOOT_ERROR (code + sect % 65536 * 65536)))

/-! ### Flash -/

/-- Erase `n` bytes of flash. -/
def flashErase (off n : Nat) : Prog := store .flash off (List.replicate n 0xFF)

/-- Program bytes of flash. What a byte that is not erased reads as afterwards is open
(assumption 49). -/
def flashProgram (off : Nat) (bs : List Byte) : Prog :=
  .look fun s => .seq
    (store .flash off ((upTo bs.length).map fun i =>
      if s.byte .flash (off + i) = 0xFF then nth 0 bs i
      else (Config.freeValue (s.free + i)).setWidth 8))
    (.act (.draw bs.length))

/-! ### The change journal's mirror (Table 13-12, R400, R401) -/

/-- Flash offset of the sector that holds entry `n` of the change journal, and of the entry. -/
def State.cjSector (s : State) (n : Nat) : Nat :=
  s.boot.persistOff + 0x8000 + 4096 * ((n - 1) / 85 % 50)
def State.cjFlash (s : State) (n : Nat) : Nat := s.cjSector n + 16 + 48 * ((n - 1) % 85)

/-- Entry `n` opens its sector: the sector is erased and gets its header first. -/
def cjHeader (n : Nat) : List Byte := leBytes 4 0x4C4E4A43 ++ leBytes 4 n ++ zeros 8

/-- Mirror entry `n` at once, as the loader does between records. -/
def mirrorEntry (n : Nat) : Prog :=
  .look fun s => Prog.all [
    Prog.when ((n - 1) % 85 = 0) (.seq (flashErase (s.cjSector n) 4096)
      (flashProgram (s.cjSector n) (cjHeader n))),
    flashProgram (s.cjFlash n) (s.retBytes (cjEntry n) 48),
    retWrite (cjBase + 8) (leBytes 4 (n + 1))]

/-- The loader mirrors the journal between records whenever 160 entries are unmirrored (R400). -/
def loaderMirror : Prog :=
  .look fun s => Prog.when (160 ≤ s.cjUnmirrored ∧ s.lamp.retUnusable = false)
    (Prog.each (upTo s.cjUnmirrored) fun i => mirrorEntry (s.cjFirst + i))

/-! ### The retention RAM at a start (R61, R391, R399, R401) -/

/-- An intake mirror slot is valid: its MAGIC and the CRC over 0x00C to 0x2FFF. -/
def intakeSlotOk (b : List Byte) : Bool :=
  fieldAt b 0 4 == 0x4C4E4A49 && fieldAt b 8 4 == crc32 (b.drop 12)

/-- The intake region from the valid slot with the higher MIRROR_SEQ, or empty: a header with
NEXT_ISEQ 1, and a snapshot without values. -/
def restoreIntake (s : State) : Prog :=
  let a := s.bytes .flash s.boot.persistOff 12288
  let b := s.bytes .flash (s.boot.persistOff + 0x3000) 12288
  let seq (x : List Byte) : Nat := if intakeSlotOk x then fieldAt x 4 4 + 1 else 0
  if s.boot.sects ≠ [] ∧ (intakeSlotOk a = true ∨ intakeSlotOk b = true) then
    retWrite ijBase (if seq b ≤ seq a then a else b)
  else .seq
    (retWrite ijBase (leBytes 4 0x4C4E4A49 ++ zeros 8 ++ leBytes 4 1 ++ zeros 48))
    (.seq (retWrite snapBase (leBytes 4 0x4E534E49 ++ zeros 1084)) (retWrite (ijEntry 0) (zeros 11136)))

/-- A retirement block is valid: its MAGIC, COUNT and CRC. -/
def retireOk (b : List Byte) : Bool :=
  fieldAt b 0 4 == 0x54455241 && decide (fieldAt b 4 2 ≤ 62) && fieldAt b 8 4 == crc32 (slice b 16 496)

/-- The retirement block from the valid copy with the larger COUNT, or empty. -/
def restoreRetirement (s : State) : Prog :=
  let a := s.bytes .flash (s.boot.persistOff + 0x6000) 512
  let b := s.bytes .flash (s.boot.persistOff + 0x7000) 512
  let n (x : List Byte) : Nat := if retireOk x then fieldAt x 4 2 + 1 else 0
  if s.boot.sects ≠ [] ∧ (retireOk a = true ∨ retireOk b = true) then
    retWrite 0x0400 (if n b ≤ n a then a else b)
  else retWrite 0x0400 (leBytes 4 0x54455241 ++ zeros 4 ++ leBytes 4 (crc32 (zeros 496)) ++ zeros 500)

/-- Number of the last entry that sector `k` of the change journal holds; 0 for none. -/
def State.cjLast (s : State) (k : Nat) : Nat :=
  let base := s.boot.persistOff + 0x8000 + 4096 * k
  let first := s.num .flash (base + 4) 4
  if s.num .flash base 4 ≠ 0x4C4E4A43 then 0
  else (upTo 85).foldl (fun m i =>
    if s.num .flash (base + 16 + 48 * i) 4 = first + i then first + i else m) 0

/-- The change journal goes on from the last mirrored entry, or from 1. -/
def restoreChanges (s : State) : Prog :=
  let last := if s.boot.sects = [] then 0
    else (upTo 50).foldl (fun m k => let n := s.cjLast k; if n = 0xFFFFFFFF then m else max m n) 0
  retWrite cjBase (leBytes 4 0x44484A43 ++ leBytes 4 (last + 1) ++ leBytes 4 (last + 1) ++ zeros 4
    ++ (if last = 0 then zeros 8 else s.bytes .flash (s.cjFlash last + 0x28) 8) ++ zeros 40)

/-- Initialise every region of an invalid retention RAM, from its flash copy where an image names
the persistent area, else to empty, and set the VALID mark (R61). -/
def initRetention : Prog :=
  .look fun s => Prog.when (s.retValid = false ∧ s.lamp.retUnusable = false) <| Prog.all [
    restoreIntake s,
    restoreRetirement s,
    restoreChanges s,
    retWrite 8 (leBytes 4 0x44494C56)]

/-! ### The start of the service ports (R395, R397, R398) -/

/-- SVC entry `i` becomes DONE with a result. -/
def svcDone (i st : Nat) : Prog :=
  .look fun s => Prog.all [
    ijWrite (ijEntry i + 0x14) (leBytes 2 st),
    ijWrite (ijEntry i + 7) [3],
    modSvc fun v => { v with doneAt := keyPut v.doneAt i s.time }]

/-- The service ports begin to run, once in a start: what was ACCEPTED is ABORTED, and the start
is recorded. -/
def startPorts : Prog :=
  .look fun s => Prog.when (s.svc.portsRun = false) <| Prog.all [
    modSvc fun v => { v with
      portsRun := true
      sigs := v.sigs.map fun g => { g with staleFrom := s.time } },
    firstWrite [.uartTx, .spiMiso],
    Prog.when (s.lamp.retUnusable = false) (Prog.each (upTo ijSlots) fun i =>
      Prog.when (s.ij i 4 1 = 2 ∧ s.ij i 7 1 = 1) (svcDone i 0x0B)),
    appendChange ⟨0, 9, 0, 0, 0, s.rd R.LAMP_RESET_CAUSE, 0, 0⟩]

/-! ### Service wait and failed images (R73, R83) -/

/-- Every script stops, with the transfers it has in progress. -/
def killThreads : Prog := .seq
  (modBoot fun b => { b with threads := List.replicate 4 Thread.idle })
  (Prog.each (upTo 2) fun c => .look fun s => Prog.when (((s.i2c c).bind fun x => x.thread).isSome = true)
    (.seq (setI2c c none) (setReg R.I2C_STATUS 0 c)))

/-- Enter service wait. -/
def serviceWait : Prog := Prog.all [
  killThreads,
  Prog.each (upTo 2) outputPinsOff,
  modBoot fun b => { b with phase := 8 },
  .act (.clearRegs 0xF0600000 0xF0630000),
  .act (.can [CanCtl.reset, CanCtl.reset]),
  modSvc fun v => { v with intakeRun := false },
  initRetention,
  startPorts,
  imageDone 1,
  takeHeldRequest]

/-- The loader's own state for a new attempt at an image. -/
def Boot.newImage (b : Boot) (base : Nat) (alt : Bool) : Boot :=
  { Boot.reset with
    phase := 1
    flashReady := b.flashReady
    overBridge := b.overBridge
    imageBase := base
    imageAlt := alt
    escalations := b.escalations
    heldRequest := b.heldRequest
    repairs := b.repairs
    flashOp := b.flashOp }

/-- Offset of the alternate image in the OTP (assumption 13). -/
def State.altOffset (s : State) : Nat := s.num .otp 132 4

/-- The image has failed step 1 or step 2. -/
def imageFails : Prog :=
  .look fun s =>
    if s.boot.overBridge ∨ s.boot.imageAlt ∨ s.altOffset = 0 then serviceWait
    else Prog.all [
      killThreads,
      Prog.each (upTo 2) outputPinsOff,
      modSvc fun v => { v with intakeRun := false },
      modAve fun v => { v with ddrBytes := 0, ddrInit := false },
      setF F.BOOT_STATUS_QUAD_FALLBACK 0,
      setF F.BOOT_STATUS_LPDDR_TRAINED 0,
      modBoot fun b => b.newImage s.altOffset true]

/-! ### The start of the loader (R41, R71, R72, R112, R457, R459) -/

/-- Starts recorded in the retention history, newest first: tick and LAMP_RESET_CAUSE. -/
def State.startsHeld (s : State) : List (Nat × Nat) :=
  (upTo 32).filterMap fun k =>
    let a := 0x100 + 24 * ((s.nextSeq + 31 - k) % 32)
    if k < s.nextSeq ∧ s.retNum a 4 + k + 1 = s.nextSeq ∧ s.retNum (a + 0x15) 1 = 1 then
      some (s.retNum (a + 4) 6, s.retNum (a + 0x10) 4)
    else none

/-- Starts with cause ESCALATE that count towards the limit (R457). -/
def State.escalateStarts (s : State) : Nat :=
  let window := 327680 * zeroAsOne (s.fld F.RCL_CTRL_ESC_WINDOW)
  (s.startsHeld.takeWhile fun e => bitN e.2 6 == 1 && decide (s.lamp.tick ≤ e.1 + window)).length

/-- Begin step 1, or what BOOTSEL asks for instead (Table 03-2). -/
def bootSource : Prog :=
  .look fun s =>
    if 2 ≤ s.ave.failedBanks.length then .seq
      (raise 0x0305 unitNone (s.ave.failedBanks.foldl (fun m b => m ||| 2 ^ b) 0)) serviceWait
    else if 2 ≤ s.ave.failedLinks.length then .seq (raise 0x9006 unitNone 0xFFFFFFFF) serviceWait
    else if s.lamp.straps.bootsel = 2 then
      (if s.ident.order = .qs2 then .seq (bootFault 0x020C) serviceWait
       else Prog.all [
         setF F.SYS_STATE_ROLE 2,
         modBoot fun b => { b with phase := 9, overBridge := true },
         linkStart])
    else if s.lamp.straps.bootsel = 3 then serviceWait
    else modBoot fun b => { b with phase := 1 }

/-- The loader starts. -/
def loaderStart : Prog := Prog.all [
  firstWrite [.xspiCs, .xspiSck, .xspiData],
  Prog.each [8, 9, 10, 11, 12] fun n => deviceSet n 0,
  .look fun s => appendRecord 0 unitNone (s.rd R.LAMP_RESET_CAUSE) 0xFF 0 0xFF 1,
  usePair R.RCL_CTRL,
  .look fun s =>
    let n := s.escalateStarts
    modBoot fun b => { b with
      escalations := if zeroAsOne (s.fld F.RCL_CTRL_ESC_LIMIT) ≤ n then n else 0 },
  bootSource]

/-! ### The image (Tables 03-7, 03-8 and 03-13) -/

/-- Bytes `off` to `off + n - 1` of the image. -/
def State.imgBytes (s : State) (off n : Nat) : List Byte :=
  if s.boot.overBridge then s.bytes .img off n else s.bytes .flash (s.boot.imageBase + off) n

def State.imgNum (s : State) (off n : Nat) : Nat := leNat (s.imgBytes off n)

/-- These bytes of a forwarded image have been received (R429). -/
def State.imgHas (s : State) (off n : Nat) : Bool :=
  !s.boot.overBridge
    || s.brg.imgGot.any fun r => decide (r.1 ≤ off) && decide (off + n ≤ r.1 + r.2)

/-- The loader may go on with these bytes: they are there, or will never come. -/
def State.imgDue (s : State) (off n : Nat) : Bool := s.imgHas off n || s.brg.imgEnd.isSome

/-- Silicon revision as SYS_ID reports it. -/
def State.revision (s : State) : Nat := bits (s.rd R.SYS_ID) 15 8

/-- The loader accepts a header (R84, R85). -/
def State.headerOk (s : State) (h : List Byte) : Bool :=
  let f := fieldAt h
  let len := f 8 4
  f 0 4 == 0x55545244 && f 4 2 == 1 && f 6 2 == 256 && f 0x1E 2 == 64 && f 0x32 2 == 0x480
    && f 0xFC 4 == crc32 (h.take 252)
    && f 0x20 4 == f 0x18 4 + 64 * f 0x1C 2 && decide (f 0x20 4 + 256 ≤ len)
    && decide (f 0x30 2 ≤ s.revision)
    && decide (256 ≤ len) && s.boot.imageBase % 65536 == 0
    && decide (s.boot.imageBase + len ≤ MemId.size .flash)

/-- Entry `i` of the section table. -/
def sectOf (b : List Byte) : Sect :=
  ⟨fieldAt b 0 2, fieldAt b 2 2, fieldAt b 4 1, fieldAt b 5 1, fieldAt b 6 1, fieldAt b 7 1,
   fieldAt b 8 4, fieldAt b 0x0C 4, fieldAt b 0x10 8, fieldAt b 0x18 1, slice b 0x20 32, 0⟩

def State.sectTable (s : State) (h : List Byte) : List Sect :=
  (upTo (fieldAt h 0x1C 2)).map fun i => sectOf (s.imgBytes (fieldAt h 0x18 4 + 64 * i) 64)

/-- KIND, PHASE and DEST agree with Table 03-9: a SPLASH and a WEIGHT section lie in Plaza. -/
def Sect.kindOk (x : Sect) : Bool :=
  if x.kind = 1 ∨ x.kind = 2 then x.phase == 0 && x.destSel == 2
  else if x.kind = 3 then x.phase == 0 && x.destSel == 0 && decide (x.dest + x.length ≤ 0x2800000)
  else if x.kind = 4 then x.phase == 0 && x.destSel == 1
  else if x.kind = 0x11 then x.phase == 1 && x.destSel == 0 && decide (x.dest + x.length ≤ 0x2800000)
  else decide (0x10 ≤ x.kind) && decide (x.kind ≤ 0x14) && x.phase == 1 && x.destSel == 0

/-- Two sections that one chip role could load together: they share a ROLES bit, and one is EARLY or
they share a PROFILES bit (DEDUCED, assumption 127 on R86). -/
def Sect.together (a b : Sect) : Bool :=
  a.roles &&& b.roles &&& 7 != 0
    && (a.phase == 0 || b.phase == 0 || a.profiles &&& b.profiles &&& 0x7F != 0)

/-- Two different entries of a list. -/
def pairsAll {α : Type} (p : α → α → Bool) (l : List α) : Bool :=
  match l with
  | [] => true
  | x :: t => t.all (p x) && pairsAll p t

/-- The section table passes R86 and R84. -/
def sectTableOk (len persistOff persistLen base : Nat) (t : List Sect) : Bool :=
  t.all Sect.kindOk
    && pairsAll (fun a b => a.sectId != b.sectId) t
    && ((t.head?.map fun x => x.kind == 1).getD false)
    && countIf (fun x => x.kind == 1) t == 1 && countIf (fun x => x.kind == 2) t == 1
    && countIf (fun x => x.kind == 4) t == 1
    && pairsAll (fun a b => !(a.destSel == b.destSel && a.destSel != 2 && a.together b
        && spansMeet a.span b.span)) t
    && t.all (fun x => decide (x.offset + x.length ≤ len)
        && !spansMeet (base + x.offset, x.length) (persistOff, persistLen))
    && pairsAll (fun a b => !spansMeet (a.offset, a.length) (b.offset, b.length)) t

/-- Key-hash slot `k` of the OTP (assumption 13), blank, revoked. -/
def State.otpKey (s : State) (k : Nat) : List Byte := s.bytes .otp (32 * k) 32
def State.otpBlank (s : State) (k : Nat) : Bool := (s.otpKey k).all (· == 0)
def State.otpRevoked (s : State) (k : Nat) : Bool := bitN (s.byte .otp 128).toNat k == 1

/-- The signature block verdict: 0 where it is accepted, else the fault code (R91, R92). -/
def State.signatureFault (s : State) (h : List Byte) : Nat :=
  let at_ := fieldAt h 0x20 4
  let b := s.imgBytes at_ 256
  let k := fieldAt b 6 1
  let key := slice b 8 64
  let fused := (upTo 4).any fun i => !s.otpBlank i
  if fieldAt b 0 4 ≠ 0x47495344 ∨ fieldAt b 4 2 ≠ 1 then 0x0202
  else if fused && (decide (4 ≤ k) || s.otpBlank k || s.otpRevoked k || sha256 key != s.otpKey k) then 0x0203
  else if ecdsaOk (beNat (slice b 8 32)) (beNat (slice b 0x28 32)) (beNat (slice b 0x48 32))
      (beNat (slice b 0x68 32)) (sha256 (s.imgBytes 0 at_)) then 0
  else 0x0202

/-- FLASH_PARAM clamped to what BOOTSEL allows (R85, Table 03-2): a quad read never goes on in octal,
and a clock lies within 1 to 200 MHz. -/
def flashParamFor (quad : Bool) (v : Nat) : Nat :=
  let mode := bits v 1 0
  setBits (setBits v 1 0 (if quad then clampNat 1 2 mode else min 2 mode)) 15 8
    (clampNat 1 200 (bits v 15 8))

/-- Step 1 passes: the header and the table are taken over, and the flash interface switches to
FLASH_PARAM; `quad`: the header was read in quad SPI. -/
def acceptImage (h : List Byte) (quad : Bool) : Prog :=
  .look fun s => Prog.all [
    Prog.when (quad = true ∧ s.lamp.straps.bootsel ≠ 1) (setF F.BOOT_STATUS_QUAD_FALLBACK 1),
    modBoot fun b => { b with
      phase := 2
      quad := quad
      imageLen := fieldAt h 8 4
      buildId := fieldAt h 0x10 8
      persistOff := if s.boot.overBridge then 0 else fieldAt h 0x24 4
      persistLen := fieldAt h 0x28 4
      flashParam := flashParamFor quad (fieldAt h 0x2C 4)
      sects := s.sectTable h },
    Prog.when ((upTo 4).all (fun i => s.otpBlank i) = true)
      (.seq (setF F.BOOT_STATUS_OTP_BLANK 1) (bootFault 0x020E)),
    setReg R.BOOT_BUILD_LO (fieldAt h 0x10 4),
    setReg R.BOOT_BUILD_HI (fieldAt h 0x14 4),
    setReg R.BOOT_IMAGE_OFFSET s.boot.imageBase,
    deviceSet 8 1,
    initRetention]

/-! ### Configuration records (Tables 03-10 to 03-12 and 04-6) -/

/-- A configuration record. -/
structure ConfRec where
  typ : Nat
  recId : Nat
  payload : List Byte
  deriving DecidableEq, Repr

def confRecAt (b : List Byte) (off : Nat) : ConfRec :=
  ⟨fieldAt b off 2, fieldAt b (off + 2) 2, slice b (off + 8) (fieldAt b (off + 4) 4)⟩

def ConfRec.size (r : ConfRec) : Nat := 2 * (8 + r.payload.length)

/-- The record at `off` lies in the section, and its complement holds. -/
def confRecWhole (b : List Byte) (off : Nat) : Bool :=
  let n := fieldAt b (off + 4) 4
  decide (4 ≤ n) && decide (n ≤ 4096) && n % 4 == 0 && decide (off + 16 + 2 * n ≤ b.length)
    && slice b (off + 8 + n) (8 + n) == (slice b off (8 + n)).map fun x => ~~~x

/-- The records of a CONFIG section up to its END record; none where it is malformed. -/
def confRecs (fuel : Nat) (b : List Byte) (off : Nat) : Option (List ConfRec) :=
  match fuel with
  | 0 => none
  | k + 1 =>
    if confRecWhole b off = false then none
    else
      let r := confRecAt b off
      if r.typ = 0xFF then some [r]
      else (confRecs k b (off + r.size)).map fun t => r :: t

/-- Rates of R133, by rate code. -/
def ddrRates : List Nat := [1600, 2133, 3200, 3733, 4266]

/-- A DDR record holds only values of Table 04-6, and its sizes agree (R134). -/
def ddrRecOk (p : List Byte) : Bool :=
  let f := fieldAt p
  p.length == 32 && decide (f 0 1 ≤ 1) && (f 1 1 == 1 || f 1 1 == 2) && ddrRates.contains (f 2 2)
    && [512, 1024, 2048, 3072, 4096].contains (f 4 2) && [2, 4, 6, 8, 12, 16].contains (f 6 1)
    && decide (f 7 1 < 8) && decide (f 0x0B 1 ≤ 3) && f 0x0C 20 == 0
    && f 6 1 * 2 * f 1 1 * 128 == f 4 2

/-- A record's format, and the values of a DDR record (R89, R134; assumption 47). -/
def ConfRec.ok (r : ConfRec) : Bool :=
  if r.typ = 1 then true
  else if r.typ = 2 then r.payload.length == 48 && decide (fieldAt r.payload 0 1 ≤ 6)
  else if r.typ = 3 then decide (fieldAt r.payload 0 2 ≤ 10000) && fieldAt r.payload 2 4094 == 0
  else if r.typ = 4 then ddrRecOk r.payload
  else r.typ == 0xFF

/-- The whole CONFIG section passes. -/
def confOk (b : List Byte) : Bool :=
  match confRecs (b.length / 24 + 1) b 0 with
  | none => false
  | some l => l.all ConfRec.ok && pairsAll (fun x y => x.recId != y.recId) l
      && pairsAll (fun x y => !(x.typ == 2 && y.typ == 2
          && fieldAt x.payload 0 1 == fieldAt y.payload 0 1)) l

/-- The record that the loader applies next. -/
def State.nextRec (s : State) : Option ConfRec :=
  if s.boot.phase = 2 ∧ s.boot.config ≠ [] then some (confRecAt s.boot.config s.boot.configAt) else none

/-- The loader goes on to the record after this one. -/
def recDone (r : ConfRec) : Prog := modBoot fun b => { b with configAt := b.configAt + r.size }

/-- A PROFILE payload. -/
def profileOf (p : List Byte) : Profile :=
  let f := fieldAt p
  ⟨f 0 1, f 1 1, f 2 1, f 3 1, f 4 2, f 6 2, f 8 4, f 0x0C 4, f 0x10 4, f 0x14 4, f 0x18 1, f 0x19 1,
   f 0x1C 2, f 0x1E 2, f 0x20 1⟩

/-! ### Sections -/

/-- This chip's role loads the section. -/
def State.loads (s : State) (x : Sect) : Bool := bitN x.roles s.localRole == 1

/-- EARLY sections this chip reads after CONFIG; a secondary over the Bridge takes SPLASH as
absent (R429). -/
def State.earlySects (s : State) : List Sect := s.boot.sects.filter fun x =>
  s.loads x && x.phase == 0 && x.kind != 1 && !(s.boot.overBridge && x.kind == 3)

/-- MAIN sections of profile `n`. -/
def State.mainSects (s : State) (n : Nat) : List Sect := s.boot.sects.filter fun x =>
  s.loads x && x.phase == 1 && bitN x.profiles n == 1

/-- The FALLBACK profile that is loaded with profile `p` (R424). -/
def State.partnerless (s : State) (p : Profile) : Option Profile :=
  if p.chips = 2 ∧ p.role = 1 ∧ bitN p.flags 2 = 0 then s.profile (some p.fallback) else none

/-- Sections needed for profile `p` and its FALLBACK. -/
def State.neededSects (s : State) (p : Profile) : List Sect :=
  let f := ((s.partnerless p).map fun q => q.number).getD p.number
  s.boot.sects.filter fun x => s.loads x && x.phase == 1
    && (bitN x.profiles p.number == 1 || bitN x.profiles f == 1)

def modSect (i : Nat) (f : Sect → Sect) : Prog := modBoot fun b => { b with
  sects := (upTo b.sects.length).filterMap fun k => (b.sects[k]?).map fun x =>
    if k = i then f x else x }

/-! ### The checks of Table 03-14 that need no content (R94) -/

/-- A section declares one chip or two, and not two on an AE480-QS2 (R6, R24). -/
def Sect.chipsOk (o : Order) (x : Sect) : Bool := x.chips == 1 || (x.chips == 2 && o != .qs2)

/-- A section's destination lies in the LPDDR window. -/
def Sect.inWindow (x : Sect) : Bool := x.destSel == 0 && spansMeet x.span (0x100000000, 0x100000000)

/-- A section's destination lies outside Plaza, the LPDDR window and the icon SRAM. -/
def State.sectOutside (s : State) (x : Sect) : Bool :=
  !(decide (x.dest + x.length ≤ s.plazaTop)
    || (decide (0x100000000 ≤ x.dest) && decide (x.dest + x.length ≤ 0x100000000 + s.ave.ddrBytes)))

/-- Reason code with which profile `p` is refused before its sections are read; 0 for none. -/
def State.profileFault (s : State) (p : Profile) (sects : List Sect) : Nat :=
  let prefill := (upTo 2).any fun x => p.mode x == 2
  let splash := s.earlySects.filter fun x => x.kind == 3
  let strap (x : Nat) : Bool := (p.iface x == 2) != s.lvdsStrap x
  let twin := s.localRole != 0
  if (s.ave.ddrBytes == 0 && (bitN p.flags 0 == 1 || prefill || sects.any Sect.inWindow))
      || decide (s.ave.ddrBytes < p.ddrBytes) then 1
  else if s.healthyArrays < p.arrMin then 2
  else if s.plazaTop < p.plazaBytes + p.fsBytes + p.lotBytes ∨ sects.any s.sectOutside = true then 3
  else if 0x1000000 < p.fsBytes
      ∨ splash.any (fun x => decide (up64k p.fsBytes < x.dest + x.length)) = true then 4
  else if p.lotBytes < 0x80000 ∨ 0x400000 < p.lotBytes then 5
  else if 2 < p.tileRes then 6
  else if p.chips != (if twin then 2 else 1) || p.role != s.localRole
      || !sects.all (Sect.chipsOk s.ident.order) || (p.role == 2 && p.outs != []) then 7
  else if (upTo 2).any strap || !s.ifacesOk p then 8
  else 0

/-- FALLBACK is as R424 asks, and its sections fit beside the profile's own. -/
def State.fallbackOk (s : State) (p : Profile) : Bool :=
  if p.chips = 2 ∧ p.role = 1 ∧ bitN p.flags 2 = 0 then
    match s.profile (some p.fallback) with
    | none => false
    | some f => f.number != p.number && f.chips == 2 && f.role == 1 && bitN f.flags 2 == 1
        && pairsAll (fun a b => !spansMeet a.span b.span) (s.neededSects p)
  else true

/-- A profile is refused (R93). Until another is chosen, the frame-store reservation spans 16 MiB again
(R118). -/
def refuseProfile (n reason sect : Nat) : Prog := Prog.all [
  setReg R.BOOT_REJECT (reason + sect % 65536 * 65536) n,
  setFBit F.BOOT_PROFILE_REFUSED n true,
  setReg R.AVE_FS_SIZE 0x1000000,
  modBoot fun b => { b with
    phase := 4
    choosing := none
    chosen := none
    refused := n :: b.refused }]

/-! ### The checks of a profile's content -/

/-- The content of profile `p` with the sections loaded for it; none without exactly one ROUTE
section, the one ENTRY_ROUTE names (R157). -/
def State.contentOf (s : State) (p : Profile) (sects : List Sect) : Option Content :=
  match (s.mainSects p.number).filter fun x => x.kind == 0x10 with
  | [r] => if r.sectId = p.entrySect then
      some ⟨p, sects, r, s.boot.profiles.filter fun q => bitN r.profiles q.number == 1⟩ else none
  | _ => none

/-- A stop of the content references the twin remote window or waits on an import crossing. -/
def State.usesTwin (s : State) (k : Content) : Bool :=
  (s.loadStops k).any fun x =>
    let st := x.1
    [st.w0, st.w1].any (fun w => w.op != 0 && s.imports w.xng)
      || (upTo (descRanges st.desc)).any fun i => (s.rangeSpans st i).any fun c =>
          spansMeet c (0x800000000, 0x800000000)

/-- SECT_ID with which the loaded content of profile `p` is refused for its structure. -/
def State.contentFault (s : State) (p : Profile) : Option Nat :=
  let sects := s.neededSects p
  match s.contentOf p sects with
  | none => some p.entrySect
  | some k => match s.structureFault k with
    | some e => some e
    | none => match s.partnerless p with
      | none => none
      | some f => match s.contentOf f sects with
        | none => some f.entrySect
        | some g => match s.structureFault g with
          | some e => some e
          | none => if s.usesTwin g then some f.entrySect else none

/-! ### Profile choice and the fallback display (R93 to R95) -/

/-- The fallback display (R95). -/
def fallbackDisplay : Prog := Prog.all [
  modBoot fun b => { b with phase := 7, running := some 7, choosing := none, chosen := none },
  bootFault 0x0208,
  imageDone 1,
  takeHeldRequest]

/-- Profile `p` passes every check that needs no content: its MAIN sections are read next. -/
def choose (p : Profile) : Prog :=
  .look fun s => Prog.all [
    modBoot fun b => { b with phase := 5, choosing := some p.number },
    deviceSet 11 1,
    setReg R.AVE_FS_SIZE (up64k p.fsBytes),
    if p.chips = 2 then Prog.all [
      Prog.when (p.role = 1) (modPorts fun q => { q with brgWakeHigh := true }),
      modBrg fun b => { b with waitFrom := s.time, waitOver := false },
      linkStart]
    else Prog.all [
      modPorts fun q => { q with brgWakeHigh := false },
      setLink 0,
      stopPlls 0x100]]

/-- Try profile `n` while none is chosen. -/
def tryProfile (n : Nat) : Prog :=
  .look fun s => Prog.when (s.boot.phase = 4 ∧ s.boot.refused.contains n = false) <|
    match s.profile (some n) with
    | none => .skip
    | some p =>
      let r := s.profileFault p (s.mainSects n)
      let f := match s.partnerless p with
        | none => 0
        | some q => s.profileFault q (s.mainSects q.number)
      if r ≠ 0 then refuseProfile n r 0
      else if s.fallbackOk p = false then refuseProfile n 0x0A 0
      else if f ≠ 0 then refuseProfile n 0x0A 0
      else choose p

/-- Choose the running profile, once the LPDDR4X outcome and the array calibration are known. -/
def chooseProfile : Prog :=
  .look fun s => Prog.when (s.boot.phase = 4 ∧ s.boot.lpddrKnown = true ∧ s.boot.calDone = true) <|
    Prog.all [
      Prog.when (s.boot.mainStarted = false) (Prog.all [
        startScripts 1,
        modBoot fun b => { b with mainStarted := true },
        .look fun t => Prog.when (t.scriptPending 1 2 = false) camRelease]),
      (if s.lamp.refOnRc then fallbackDisplay
       else if s.boot.escalations ≠ 0 then
         .seq (raise 0x9008 unitNone s.boot.escalations) fallbackDisplay
       else .seq (Prog.each (upTo 7) tryProfile)
         (.look fun t => Prog.when (t.boot.phase = 4) fallbackDisplay))]

/-- The camera's MAIN script is still to end, and profile `p` waits for it (R74). -/
def State.cameraDue (s : State) (p : Profile) : Bool := bitN p.flags 1 == 1 && s.scriptPending 1 2

/-- Once every MAIN section is loaded: the structure check, the camera (R74), and the profile is
the one to hand over to. A section that failed under R87 stays failed and refuses every profile
that needs it (assumption 51). -/
def settleProfile : Prog :=
  .look fun s => Prog.when (s.boot.phase = 5 ∧ s.boot.chosen = none) <|
    match s.profile s.boot.choosing with
    | none => .skip
    | some p => match (s.neededSects p).find? fun x => x.state == 3 with
      | some x => refuseProfile p.number 9 x.sectId
      | none => Prog.when ((s.neededSects p).all (fun x => x.state == 2) = true
        ∧ s.cameraDue p = false) <|
       .seq (usePairs [0x04, 0x20, 0x21, 0x40, 0x41, 0x50, 0x60, 0x61, 0x62, 0x70]) <|
       match s.contentFault p with
       | some e => refuseProfile p.number 0x0A e
       | none =>
        if bitN p.flags 1 = 1 ∧ s.boot.cameraFailed = true then refuseProfile p.number 0x0B 0
        else .seq
          (modBoot fun b => { b with chosen := some p.number })
          (imageDone 0)

/-! ### Starting the outputs (R74, R75, R88, R343) -/

/-- Every EARLY script of output `x` has ended. -/
def State.outSettled (s : State) (x : Nat) : Bool := decide (3 ≤ s.boot.phase) && !s.scriptPending 0 x

/-- The EARLY script of output `x` has succeeded. An output for which the SCRIPT section holds no
EARLY script is never started: no script of it has completed (DEDUCED, assumption 126 on R74). -/
def State.outScriptOk (s : State) (x : Nat) : Bool :=
  s.scriptSeen 0 x && !(if x = 0 then s.boot.outFailedA else s.boot.outFailedB) && s.localRole != 2

def State.outStarted (s : State) (x : Nat) : Bool := if x = 0 then s.boot.outStartedA else s.boot.outStartedB

/-- The ICON section is loaded, and every SPLASH section is loaded or has failed. -/
def State.splashReady (s : State) : Bool :=
  decide (3 ≤ s.boot.phase) && s.earlySects.all fun x =>
    x.state == 2 || (x.kind == 3 && x.state == 3)

/-- Start output `x` showing the splash. -/
def startSplash (x : Nat) : Prog :=
  .look fun s => Prog.when (s.splashReady = true ∧ s.outSettled x = true ∧ s.outScriptOk x = true
      ∧ s.outStarted x = false ∧ (s.boot.phase < 8)) <| Prog.all [
    modBoot fun b => if x = 0 then { b with outStartedA := true } else { b with outStartedB := true },
    Prog.when (s.boot.splashFailed = true) (setF F.BOOT_STATUS_SPLASH_BLACK 1),
    if bitN (s.rd R.SCO_CTRL) x = 1 then Prog.when (s.scoOk ((s.outsInUse ++ [x]).dedup) s.fetchSet = true)
      (startOutput x)
    else scoCtrlCommit (setBits (s.rd R.SCO_CTRL) x x 1)]

/-- Step 5 ends when every output's EARLY script has settled (R75; assumption 50). -/
def endDisplays : Prog :=
  .look fun s => Prog.when (s.boot.displaysDone = false ∧ s.splashReady = true
      ∧ s.outSettled 0 = true ∧ s.outSettled 1 = true) <|
    .seq (modBoot fun b => { b with displaysDone := true }) (deviceSet 10 1)

/-- The EARLY sections have been read: the loader goes on to profile choice. -/
def endEarly : Prog :=
  .look fun s => Prog.when (s.boot.phase = 3 ∧ s.splashReady = true) <|
    .seq (modBoot fun b => { b with phase := 4 }) (requestPlls 4)

/-! ### Hand-over (R74, R78, R118, R158, R229, R258, R305, R425) -/

/-- Crossing table of the ROUTE section in use. -/
def State.xngTable (s : State) : List XngEntry :=
  (upTo (s.routeField 0x18 2)).map fun i =>
    let b := s.paBytes (s.wrd.routeBase + s.routeField 0x14 4 + 8 * i) 8
    ⟨fieldAt b 0 2, fieldAt b 2 1, fieldAt b 3 1, fieldAt b 4 4⟩

/-- The retained value of persistent crossing `n` may be taken. -/
def State.retained (s : State) (n : Nat) : Option Nat :=
  let v := s.retNum (0x0800 + 8 * n) 4
  if s.retValid ∧ s.retNum 0x20 8 = s.boot.buildId ∧ s.retNum (0x0804 + 8 * n) 4 = inv32 v then some v
  else none

/-- Persistent crossing `n` starts from its retained value, or from its initial one. -/
def startPersist (e : XngEntry) : Prog :=
  .look fun s => match s.retained e.index with
    | none => putCrossing e.index (Crossing.fresh e.init)
    | some v =>
      if s.isMutex e.index = false then putCrossing e.index (Crossing.fresh v)
      else match s.freeMutexLease with
        | none => putCrossing e.index (Crossing.fresh 0)
        | some r => if 0x80000000 ≤ v ∧ v < 0x80000010 then giveMutex e.index (v - 0x80000000) r
            else putCrossing e.index (Crossing.fresh 0)

/-- Every crossing from 16 takes its initial value, the persistent ones the retained value where
R158 allows; device crossings 0 to 7 and 13 to 15 are 0, and with crossing 6 the camera's published
count, which equals it. -/
def startCrossings : Prog :=
  .look fun s =>
    let es := s.xngTable
    let keep := fun (c : Nat × Crossing) => decide (8 ≤ c.1) && decide (c.1 < 13)
    Prog.all [
      modXng fun x => { x with
        cells := es.foldl (fun l e => keyPut l e.index (Crossing.fresh e.init)) (x.cells.filter keep)
        mutexes := (es.filter fun e => e.mode == 1).map fun e => e.index
        persist := (es.filter fun e => e.flags == 1).map fun e => e.index
        init := es.foldl (fun l e => keyPut l e.index e.init) []
        device := (upTo 16).map fun i => if 8 ≤ i ∧ i < 13 then nth 0 x.device i else 0 },
      setReg R.CAM_PUBLISHED 0,
      Prog.each (es.filter fun e => e.flags == 1) startPersist,
      retWrite 0x20 (leBytes 8 s.boot.buildId),
      notifyWardens]

/-- Acquire region locks on the lot and on the WEIGHT destinations (R229, R258). -/
def handOverLocks (p : Profile) (sects : List Sect) : Prog :=
  .look fun s => .seq
    (acquireLock ((s.lotSpan p).1 / 4096) (((s.lotSpan p).2 + 4095) / 4096) 2 (.unit unitRas))
    (Prog.each (sects.filter fun x => x.kind == 0x11) fun x =>
      acquireLock (x.dest / 4096) ((x.dest + x.length - 1) / 4096 - x.dest / 4096 + 1) 1 .loader)

/-- The roundabout at hand-over: tracks whose stands turn out not to be usable are disabled, a
base plane's last displayed frame is the splash, replay begins where it is asked for, and the log
gets its START entry. -/
def handOverTracks : Prog := Prog.all [
  Prog.each (upTo 6) fun t => .look fun s => Prog.when ((s.track t).enabled = true ∧ s.trackOk t = false)
    (.seq (modTrack t fun y => { y with enabled := false }) (raise 0x4006 unitRbt)),
  Prog.each (upTo 2) fun x => .look fun s => Prog.when ((s.track (3 * x)).enabled = true
      ∧ s.showedSplash x = true ∧ (s.output x).splashGone = false)
    (modTrack (3 * x) fun y => { y with shown := some splashCand, choice := 5 }),
  .look fun s => modRbt fun r => { r with
    gateCount := min 16 (s.fld F.RBT_GATE_COUNT_COUNT) },
  replayStart,
  .look fun s => logEntry 4 0 0 0 0 (s.boot.buildId % 2 ^ 32)]

/-- Each output changes to the mode that the profile declares for it, at its next frame boundary
(R78): the fetch mode, or off (DEDUCED, assumption 141). -/
def handOverModes (p : Profile) : Prog := .seq
  (Prog.each p.outs fun x =>
    let fetch := if p.mode x = 2 then 1 else 0
    .seq (setF F.SCO_OUT_CFG_FETCH fetch x)
      (modOut x fun o => { o with outCfg := setBits o.outCfg 21 21 fetch }))
  (Prog.each ((upTo 2).filter fun x => p.mode x = 0) fun x => .look fun s =>
    Prog.when (bitN (s.rd R.SCO_CTRL) x = 1) (scoCtrlCommit (setBits (s.rd R.SCO_CTRL) x x 0)))

/-- Hand profile `p` over, with the sections loaded for it. -/
def handOver (p : Profile) (sects : List Sect) : Prog :=
  .look fun s => Prog.all [
    modBoot fun b => { b with phase := 6, running := some p.number, handedOver := true },
    setReg R.BOOT_TIME_HANDOVER ((s.lamp.tick - s.lamp.wakingAt) % 2 ^ 32),
    setReg R.AVE_FS_SIZE (up64k p.fsBytes),
    selectRouteSection p.entrySect,
    startCrossings,
    setReg R.RAS_LOT_SIZE p.lotBytes,
    setF F.WRD_COMP_CFG_TILE_RES p.tileRes,
    handOverLocks p sects,
    handOverModes p,
    takeLease 128 3 1 0 0 0,
    takeLease 129 3 1 0 1 0,
    handOverTracks,
    deviceSet 12 1,
    startRoute p.entryRoute,
    Prog.when (p.number ≠ 0) (bootFault 0x0207 0 p.number),
    takeHeldRequest]

/-- Output `x` runs, or is not about to. -/
def State.outRuns (s : State) (x : Nat) : Bool :=
  !s.outStarted x || (s.output x).phase != 0 || !(s.output x).active

/-- A primary's partner is there (R425). -/
def State.partnerReady (s : State) (p : Profile) : Bool :=
  !(p.chips == 2 && p.role == 1 && bitN p.flags 2 == 0)
    || (s.brg.link == 4 && s.brg.doneStatus != some 1)

/-- The profile to hand over to: the chosen one once its partner is there, and its FALLBACK once the
wait of R425 is over. -/
def State.handOverTo (s : State) : Option Profile :=
  match s.profile s.boot.chosen with
  | none => none
  | some p =>
    if s.brg.waitOver then s.profile (some p.fallback)
    else if s.partnerReady p then some p else none

/-- Hand over once everything R74 and R425 name holds. -/
def handOverWhenReady : Prog :=
  .look fun s => Prog.when (s.boot.phase = 5 ∧ s.boot.displaysDone = true ∧ s.outRuns 0 = true
      ∧ s.outRuns 1 = true) <|
    match s.handOverTo with
    | none => .skip
    | some p => handOver p (match s.profile s.boot.choosing with
        | none => s.mainSects p.number
        | some q => s.neededSects q)

/-- One round over what the loader waits for. -/
def loaderRound : Prog := Prog.all [
  Prog.each (upTo 2) startSplash,
  endDisplays,
  endEarly,
  chooseProfile,
  settleProfile,
  handOverWhenReady]

/-- The loader goes on as far as it can: a profile refused once its sections are loaded makes
room for the next, so as many rounds as there are profiles. -/
def loaderProgress : Prog := Prog.all (List.replicate 8 loaderRound)

/-! ### Failed scripts (R99) -/

/-- The running script of thread `t` ends without success. -/
def scriptFails (t : Nat) : Prog :=
  .look fun s => match (s.thread t).scripts with
    | [] => .skip
    | c :: rest => Prog.all [
        Prog.each (upTo 2) fun i => Prog.when (((s.i2c i).bind fun x => x.thread) = some t)
          (.seq (setI2c i none) (setReg R.I2C_STATUS 0 i)),
        modThread t fun x => { x with scripts := rest, pc := 0, wait := .none, expectRetries := 0,
                                      failed := true },
        setReg R.BOOT_SCRIPT_STATUS (setBits (s.rd R.BOOT_SCRIPT_STATUS) (2 * t + 1) (2 * t) 3),
        modRcl fun r => { r with scriptFailed := true },
        bootFault 0x0209,
        (if c.target = 0 then .seq (modBoot fun b => { b with outFailedA := true }) (outputPinsOff 0)
         else if c.target = 1 then
           .seq (modBoot fun b => { b with outFailedB := true }) (outputPinsOff 1)
         else if c.target = 2 then .seq (modBoot fun b => { b with cameraFailed := true }) camAbsent
         else .skip),
        loaderProgress]

/-- The running script of thread `t` ends with success. -/
def scriptEnds (t : Nat) : Prog :=
  .look fun s => match (s.thread t).scripts with
    | [] => .skip
    | c :: rest => Prog.all [
        modThread t fun x => { x with scripts := rest, pc := 0, wait := .none, expectRetries := 0 },
        .look fun u => Prog.when (c.phase = 1 ∧ c.target = 2 ∧ u.scriptPending 1 2 = false) camRelease,
        Prog.when (rest = [] ∧ (s.thread t).failed = false)
          (setReg R.BOOT_SCRIPT_STATUS (setBits (s.rd R.BOOT_SCRIPT_STATUS) (2 * t + 1) (2 * t) 2)),
        loaderProgress]

end Sys2Proof.Machine
end

