-- ==== Sys2Proof/Machine/GspOps.lean ====
section
/-! DEFINITION. Messages of the Gnosor service protocol as the ports carry them, and the closing
of a port (chapter 13, Tables 13-8 to 13-10, R392, R393 and R460). -/

namespace Sys2Proof.Machine

/-- Service port `p`: 0 CAN0, 1 CAN1, 2 UART, 3 SPI. Its port code is `p + 1` (Table 13-11). -/
def State.port (s : State) (p : Nat) : Port := nth Port.reset s.svc.ports p

def modPort (p : Nat) (f : Port → Port) : Prog :=
  modSvc fun v => { v with ports := upd v.ports p (f (nth Port.reset v.ports p)) }

/-- The bytes of a message (Table 13-8). -/
def gspBytes (cmd flags status req : Nat) (payload : List Byte) : List Byte :=
  let b := leBytes 1 1 ++ leBytes 1 cmd ++ leBytes 1 flags ++ leBytes 1 status ++ leBytes 4 req
    ++ leBytes 2 payload.length ++ zeros 2 ++ payload
  b ++ leBytes 4 (crc32 b)

def GspRsp.bytes (r : GspRsp) : List Byte :=
  gspBytes r.cmd (if r.dup then 3 else 1) r.status r.req r.payload

/-- Smallest data length of a CAN FD frame that holds `n` bytes. -/
def canLength (n : Nat) : Nat :=
  (([0, 1, 2, 3, 4, 5, 6, 7, 8, 12, 16, 20, 24, 32, 48].find? fun l => decide (n ≤ l))).getD 64

/-- The frames' data fields that carry a message in segments of `size` bytes (R392). -/
def canSegments (fuel size i : Nat) (bs : List Byte) : List (List Byte) :=
  match fuel with
  | 0 => []
  | k + 1 =>
    let last := decide (bs.length ≤ size)
    let head := (if i = 0 then 128 else 0) + (if last then 64 else 0) + i % 64
    let d := leBytes 1 head ++ bs.take size
    (d ++ zeros (canLength d.length - d.length))
      :: (if last then [] else canSegments k size (i + 1) (bs.drop size))

/-- The response frames of controller `c`. -/
def State.rspFrames (s : State) (c : Nat) (r : GspRsp) : List CanTx :=
  let fd := s.flag F.CAN_CTRL_FD c
  (canSegments 200 (if fd then 63 else 7) 0 r.bytes).map fun d =>
    ⟨false, s.fld F.CAN_GSP_RSP_ID c, s.flag F.CAN_GSP_RSP_EXT c, fd,
     fd && s.flag F.CAN_CTRL_BRS c, d, s.time⟩

/-- Send a response on its port. The model keeps the UART's newest 16. -/
def sendRsp (p : Nat) (r : GspRsp) : Prog :=
  if p < 2 then .seq (.seq (usePair R.CAN_CTRL p) (usePair R.CAN_GSP_RSP p)) <| .look fun s => Prog.when (s.canOn p = true ∧ s.flag F.CAN_CTRL_LISTEN p = false)
    (modCanAt p fun k => { k with queue := k.queue ++ s.rspFrames p r })
  else if p = 2 then modPort 2 fun x => { x with ready := (x.ready ++ [r]).drop (x.ready.length - 15) }
  else modPort p fun x => { x with ready := x.ready ++ [r] }

/-- Answer message `m` with a status and a payload. -/
def answer (p : Nat) (m : GspMsg) (status : Nat) (payload : List Byte := []) : Prog :=
  sendRsp p ⟨m.cmd, m.req, status, false, payload⟩

/-- The port is open: its bit of SVC_PORTS, or CANn_GSP_ID.EN (R460). -/
def State.portOn (s : State) (p : Nat) : Bool :=
  s.svc.portsRun && (if p < 2 then s.flag F.CAN_GSP_ID_EN p
    else if p = 2 then s.flag F.SVC_PORTS_UART_EN else s.flag F.SVC_PORTS_SPI_EN)

/-- The order of waiting commands once port `p` has closed: its first entry, for the command that
executes, stays. -/
def closedOrder (p : Nat) (l : List Nat) (seen : Bool) : List Nat :=
  match l with
  | [] => []
  | k :: t =>
    if k = p then (if seen then closedOrder p t true else k :: closedOrder p t true)
    else if k = p + 4 then closedOrder p t seen
    else k :: closedOrder p t seen

/-- A port closes: its waiting command is answered BUSY, a held one is discarded, and the
executing one completes (Table 16-11). -/
def closePort (p : Nat) : Prog :=
  .look fun s =>
    let runs := (s.boot.flashOp.map fun o => o.user == .gsp (p + 4)).getD false
    Prog.all [
      (match (s.port p).waiting with
       | none => .skip
       | some m => answer p m 1),
      modPort p fun x => { x with
        waiting := none
        held := (if runs = true then x.held else none)
        rx := none },
      modSvc fun v => { v with order := closedOrder p v.order false }]

end Sys2Proof.Machine
end

