-- ==== Sys2Proof/Machine/ScriptRows.lean ====
section
/-! DEFINITION. The commands of the set-up scripts and of the I2C controllers (chapter 03, R97 to
R100; chapter 13, Table 13-19). -/

namespace Sys2Proof.Machine

/-- Do operation `code` of thread `t`, where the thread has reached it and waits for nothing: it
fails its script unless it is well formed (R100; assumption 47). -/
def doOp (t code : Nat) (ok : State → ScriptOp → Bool) (work : ScriptOp → Prog) : Prog :=
  .look fun s => match s.opReady t code with
    | none => .skip
    | some o => if ok s o then work o else scriptFails t

/-! ### Operations (Table 03-16) -/

/-- I2C_WRITE: one write transfer; it waits while the controller is in use. -/
def execI2cWrite (t : Nat) (s : State) : Host.Outcome State Fault Refusal :=
  Prog.outcome (doOp t 1
    (fun _ o => decide (o.arg < 2) && decide (5 ≤ o.len) && decide (o.len ≤ 244)
      && decide (fieldAt o.data 0 1 < 128) && decide (fieldAt o.data 1 1 ≤ 2))
    fun o => Prog.when (s.i2c o.arg = none) <| .seq
      (startI2c o.arg ⟨fieldAt o.data 0 1, false,
        slice o.data 2 (fieldAt o.data 1 1) ++ o.data.drop 4, 0, some t, 0, false⟩)
      (modThread t fun x => { x with wait := .i2c o.arg })) s

/-- I2C_EXPECT: one read, whose masked data must equal the value. -/
def execI2cExpect (t : Nat) (s : State) : Host.Outcome State Fault Refusal :=
  Prog.outcome (doOp t 2
    (fun _ o => decide (o.arg < 2) && o.len == 16 && decide (fieldAt o.data 0 1 < 128)
      && decide (fieldAt o.data 1 1 ≤ 2) && decide (1 ≤ fieldAt o.data 4 1)
      && decide (fieldAt o.data 4 1 ≤ 4))
    fun o => Prog.when (s.i2c o.arg = none) <| .seq
      (startI2c o.arg (expectXfer t o.data))
      (modThread t fun x => { x with wait := .i2c o.arg })) s

/-- WAIT. -/
def execWait (t : Nat) (s : State) : Host.Outcome State Fault Refusal :=
  Prog.outcome (doOp t 3
    (fun _ o => o.len == 4 && decide (1 ≤ fieldAt o.data 0 4) && decide (fieldAt o.data 0 4 ≤ 1000000))
    fun _ => modThread t fun x => { x with wait := .time }) s

/-- PIN_SET. -/
def execPinSet (t : Nat) (s : State) : Host.Outcome State Fault Refusal :=
  Prog.outcome (doOp t 4
    (fun _ o => pinDrivable o.arg && o.len == 1 && decide (fieldAt o.data 0 1 ≤ 1))
    fun o => .seq (drivePin o.arg (fieldAt o.data 0 1 == 1)) (nextOp t)) s

/-- PIN_WAIT: the script goes on at once where the pin has the level already. -/
def execPinWait (t : Nat) (s : State) : Host.Outcome State Fault Refusal :=
  Prog.outcome (doOp t 5
    (fun _ o => pinReadable o.arg && o.len == 4 && decide (fieldAt o.data 0 1 ≤ 1))
    fun o =>
      let level := fieldAt o.data 0 1 == 1
      if s.pinLevel o.arg = level then nextOp t
      else modThread t fun x => { x with wait := .pin o.arg level }) s

/-- DSI_CMD: one low-power command; the D-PHY starts on first use. A twin secondary sends none
(R27). -/
def execDsiCmd (t : Nat) (s : State) : Host.Outcome State Fault Refusal :=
  Prog.outcome (doOp t 6
    (fun u o => decide (o.arg < 2) && decide (1 ≤ o.len) && decide (o.len ≤ 65)
      && lpTypes.contains (fieldAt o.data 0 1) && !u.lvdsStrap o.arg)
    fun o => if s.localRole = 2 then nextOp t else Prog.when ((s.output o.arg).lpBytes = []) <| Prog.all [
      firstWrite [.combo o.arg],
      modOut o.arg fun y => { y with dphyOn := true },
      lpSend o.arg true o.data,
      modThread t fun x => { x with wait := .dsi o.arg }]) s

/-- SCRIPT_END. -/
def execScriptEnd (t : Nat) (s : State) : Host.Outcome State Fault Refusal :=
  Prog.outcome (doOp t 0 (fun _ _ => true) fun _ => scriptEnds t) s

/-! ### Their timers and events -/

/-- SCRIPT_TIMEOUT: thread `t`'s script has exceeded its TIMEOUT. -/
def execScriptTimeout (t : Nat) (s : State) : Host.Outcome State Fault Refusal :=
  Prog.outcome (Prog.when (t < 4) (scriptFails t)) s

/-- SCRIPT_WAIT_ELAPSED. -/
def execScriptWaitElapsed (t : Nat) (s : State) : Host.Outcome State Fault Refusal :=
  Prog.outcome (Prog.when (t < 4 ∧ (s.thread t).wait = .time) (nextOp t)) s

/-- PIN_LEVEL_REACHED: the pin thread `t` watches has the level it waits for. -/
def execPinLevelReached (t : Nat) (s : State) : Host.Outcome State Fault Refusal :=
  Prog.outcome (match (s.thread t).wait with
    | .pin p l => .seq (seePin p l) (nextOp t)
    | _ => .skip) s

/-- PIN_WAIT_TIMEOUT. -/
def execPinWaitTimeout (t : Nat) (s : State) : Host.Outcome State Fault Refusal :=
  Prog.outcome (match (s.thread t).wait with
    | .pin _ _ => scriptFails t
    | _ => .skip) s

/-- DSI_LP_PACKET_SENT: output `x`'s low-power packet has been sent. -/
def execDsiLpPacketSent (x : Nat) (s : State) : Host.Outcome State Fault Refusal :=
  let waits := (upTo 4).filter fun t => (s.thread t).wait == .dsi x
  Prog.outcome (Prog.when (x < 2 ∧ (s.output x).lpBytes ≠ []) <| .seq
    (modOut x fun o => { o with lpBytes := [], lpWait := false, lpScript := false })
    (Prog.when ((s.output x).lpScript = true) (Prog.each waits nextOp))) s

/-! ### I2C transfers (R98) -/

/-- The transfer failed after its retries: its script fails too. -/
def i2cFails (c : Nat) (x : I2cXfer) (nack : Bool) : Prog := .seq (endI2c c nack true)
  (match x.thread with
   | none => .skip
   | some t => scriptFails t)

/-- What a script does with the bytes of an I2C_EXPECT. -/
def expectData (t c : Nat) (data : List Byte) : Prog :=
  .look fun s => match s.scriptOp t with
    | none => .skip
    | some o =>
      if leNat data &&& fieldAt o.data 8 4 = fieldAt o.data 12 4 then nextOp t
      else if (s.thread t).expectRetries < fieldAt o.data 5 1 then
        modThread t fun x => { x with
          wait := .expectRetry c
          expectRetries := x.expectRetries + 1 }
      else scriptFails t

/-- A transfer was acknowledged; `data`: the bytes it read. -/
def i2cDone (c : Nat) (x : I2cXfer) (data : List Byte) : Prog :=
  let got := (upTo x.count).map fun i => nth 0 data i
  .seq (endI2c c false false) <| match x.thread with
    | none => Prog.when (x.read = true) (setReg R.I2C_DATA (leNat got) c)
    | some t => if x.read then expectData t c got else nextOp t

/-- I2C_TRANSFER_DONE: controller `c`'s transfer ends, acknowledged (`ack`) or not, with the bytes
it read. -/
def execI2cTransferDone (c : Nat) (ack : Bool) (data : List Byte) (s : State) :
    Host.Outcome State Fault Refusal :=
  Prog.outcome (match s.i2c c with
    | none => .skip
    | some x => Prog.when (c < 2 ∧ x.waiting = false) <|
        if ack then i2cDone c x data
        else if x.retries < 3 then
          setI2c c (some { x with waiting := true, retries := x.retries + 1 })
        else i2cFails c x true) s

/-- I2C_RETRY_INTERVAL: the transfer is tried again. -/
def execI2cRetryInterval (c : Nat) (s : State) : Host.Outcome State Fault Refusal :=
  Prog.outcome (match s.i2c c with
    | none => .skip
    | some x => Prog.when (c < 2 ∧ x.waiting = true) (setI2c c (some { x with waiting := false }))) s

/-- I2C_STRETCH_TIMEOUT: the target holds a line; the transfer fails. -/
def execI2cStretchTimeout (c : Nat) (s : State) : Host.Outcome State Fault Refusal :=
  Prog.outcome (match s.i2c c with
    | none => .skip
    | some x => Prog.when (c < 2 ∧ x.waiting = false) (i2cFails c x false)) s

/-- I2C_EXPECT_RETRY_INTERVAL: thread `t` reads again; it waits while the controller is in use. -/
def execI2cExpectRetryInterval (t : Nat) (s : State) : Host.Outcome State Fault Refusal :=
  Prog.outcome (match (s.thread t).wait, s.scriptOp t with
    | .expectRetry c, some o => Prog.when (s.i2c c = none) <| .seq
        (startI2c c (expectXfer t o.data))
        (modThread t fun x => { x with wait := .i2c c })
    | _, _ => .skip) s

/-- I2C_XFER_START: word `v` is written to I2C_XFER_c. -/
def execI2cXferStart (c v : Nat) (s : State) : Host.Outcome State Fault Refusal :=
  Prog.outcome (Prog.when (c < 2 ∧ s.live = true) (.seq (respond 0) (i2cXfer c v))) s

end Sys2Proof.Machine
end

