-- ==== Sys2Proof/Machine/RegAccess.lean ====
section
/-! DEFINITION. Access to the registers (chapter 00, R14 to R20): what each register reads as, what
a write or a commit does, and the commands that access one register. -/

namespace Sys2Proof.Machine

/-! ### What the registers read as -/

/-- The current value of a read-only register that a block shows from its state; none for a
register that reads as stored. -/
def State.liveSys (s : State) (r : Reg) (i : Nat) : Option Nat :=
  if r = R.SYS_STATE then some s.sysStateWord
  else if r = R.SYS_RESET_CAUSE then some s.lamp.sysCause
  else if r = R.SYS_THERM_STATUS then
    some (wrapInt 9 s.lamp.tjMax + 4096 * s.lamp.thermStep + 65536 * s.lamp.hotSensor)
  else if r = R.SYS_TEMP then
    some (wrapInt 9 (nth 0 s.lamp.temps i) + bit 31 (nth false s.lamp.tempValid i))
  else none

def State.liveLamp (s : State) (r : Reg) : Option Nat :=
  let l := s.lamp
  if r = R.LAMP_TICK_LO then some (l.tick % 2 ^ 32)
  else if r = R.LAMP_TICK_HI then some l.tickHi
  else if r = R.LAMP_CLK_STATUS then
    some (bit 0 (!l.x32OnRc) + bit 1 l.x32OnRc + bit 2 (!l.refOnRc) + bit 3 l.refOnRc)
  else if r = R.LAMP_RET_STATUS then
    some (setBits (s.rawReg r 0 0) 2 0 (bit 0 (!l.retARetired) + bit 1 (!l.retBRetired)
      + bit 2 s.retValid))
  else if r = R.LAMP_PMIC_CTRL then
    some (setBits (s.rawReg r 0 0) 17 16 (bit 0 l.pmicEn + bit 1 l.pwrGood))
  else if r = R.LAMP_VHV_STATUS then some (bit 0 l.vhvLow + bit 1 l.vhvRet)
  else none

def State.liveBoot (s : State) (r : Reg) (i : Nat) : Option Nat :=
  let b := s.boot
  let t := s.lamp.straps
  if r = R.BOOT_STATUS then
    let w := s.rawReg r 0 0
    let kept := setBits (setBits (setBits w 8 0 0) 16 12 0) 8 8 (bit 0 (b.imageAlt && decide (3 ≤ b.phase) && decide (b.phase < 8)))
    some (kept + b.phase % 16 + 16 * b.running.getD 0 + 4096 * t.bootsel + bit 14 t.dselA
      + bit 15 t.dselB + bit 16 t.gpioPup)
  else if r = R.BOOT_PROFILE then
    some (setBits (s.rawReg r 0 0) 15 8 (b.profiles.foldl (fun m p => m ||| 2 ^ p.number) 0))
  else if r = R.BOOT_SPLASH_HOLD then some b.splashHoldMs
  else if r = R.BOOT_OTP_KEY then some (s.num .otp (4 * i) 4)
  else if r = R.BOOT_OTP_STATE then
    some ((s.byte .otp 128).toNat % 16
      + (upTo 4).foldl (fun m k => m + bit (4 + k) (s.otpBlank k)) 0)
  else if r = R.BOOT_OTP_ALT then some s.altOffset
  else none

/-- Node of the Avenue to which a unit is attached (Table 04-3). -/
def unitNode (u : Nat) : Nat :=
  if u = 0 then 1 else if u = 1 then 3 else if u = 2 then 2 else if u = 3 then 4
  else if u < 12 then nth 0 [6, 8, 9, 11, 18, 20, 21, 23] (u - 4)
  else if u < 28 then nth 0 [7, 10, 19, 22] ((u - 12) / 4)
  else if u = 28 then 17 else if u = 29 then 12 else if u < 33 then 13
  else if u = 33 then 12 else if u = 34 then 14 else if u = 35 then 15 else if u = 36 then 16
  else if u = 37 then 15 else if u = 38 then 0 else if u = 39 then 5 else if u = 40 then 30
  else if 48 ≤ u ∧ u < 76 then u - 47 else if 76 ≤ u ∧ u < 80 then u - 45
  else if 80 ≤ u ∧ u < 115 then u - 80 else 0

/-- Nodes with a closed isolation gate. -/
def State.gateNodes (s : State) : Nat := s.ave.gates.foldl (fun m u => m ||| 2 ^ unitNode u) 0

def State.liveAve (s : State) (r : Reg) (i : Nat) : Option Nat :=
  let v := s.ave
  if r = R.AVE_PLZ_STATUS then
    some (v.failedBanks.headD 0 % 32 + bit 5 (v.failedBanks.length == 1) + bit 6 v.initDone
      + 256 * countIf Option.isSome v.locks)
  else if r = R.AVE_GATE_LO then some (s.gateNodes % 2 ^ 32)
  else if r = R.AVE_GATE_HI then some (s.gateNodes / 2 ^ 32)
  else if r = R.AVE_POISON_COUNT then
    some (min 0xFFFF v.plazaPoison.count + 65536 * min 0xFFFF v.ddrPoison.count)
  else if r = R.AVE_REGION_LO then some (((nth none v.locks i).map fun k => k.base).getD 0)
  else if r = R.AVE_REGION_HI then
    some (((nth none v.locks i).map fun k =>
      (k.pages - 1) % 2 ^ 20 + k.mode * 2 ^ 20 + i * 2 ^ 24).getD 0)
  else none

/-- Enqueued stops with an open wait on crossing `n`. -/
def State.waitersOn (s : State) (n : Nat) : Nat :=
  (s.wrd.queues.map fun q => countIf (fun st =>
    (st.w0.op != 0 && st.w0.xng == n && st.wait0 == .open)
      || (st.w1.op != 0 && st.w1.xng == n && st.wait1 == .open)) q.enq).sum

/-- Bits of a word of crossing flags. -/
def flagWord (l : List Nat) (w : Nat) : Nat :=
  (l.filter fun n => n / 32 == w).foldl (fun m n => m ||| 2 ^ (n % 32)) 0

def State.liveXng (s : State) (r : Reg) (i : Nat) : Option Nat :=
  let n := s.fld F.XNG_INSPECT_IDX_INDEX
  let c := s.crossing n
  if r = R.XNG_STATUS then
    some (countIf (fun e => e.2.broken) s.xng.cells + 65536 * s.xng.persist.length)
  else if r = R.XNG_INSPECT_LO then some c.winLo
  else if r = R.XNG_INSPECT_HI then some c.winHi
  else if r = R.XNG_INSPECT_FLAGS then
    some (bit 0 c.winValid + bit 1 c.broken + bit 2 (s.isMutex n) + bit 3 (s.isPersist n)
      + 256 * min 255 (s.waitersOn n))
  else if r = R.XNG_MODE then some (flagWord s.xng.mutexes i)
  else if r = R.XNG_PERSIST then some (flagWord s.xng.persist i)
  else if r = R.XNG_VAL then some (s.crossing i).value
  else if r = R.XNG_VALC then some (s.crossing i).valueC
  else none

def State.liveWrd (s : State) (r : Reg) (i : Nat) : Option Nat :=
  let q := s.queue i
  if r = R.WRD_STATUS then
    some (bit 0 s.wrd.ok0 + bit 1 s.wrd.ok1 + bit 2 s.wrd.takeover + 16 * s.openStops.length)
  else if r = R.WRD_Q_STATE then
    some (q.state + 256 * (q.route % 256) + 65536 * (s.openOf i).length
      + 2 ^ 24 * min 8 q.enq.length + 2 ^ 28 * q.owner)
  else if r = R.WRD_Q_ITER then some q.iter
  else none

/-- State of a physical array (DST_ARR_INFO.STATE). -/
def Arr.infoState (x : Arr) (slot : Nat) : Nat :=
  if x.retired then 2 else if slot = 24 ∧ x.backs = none then 3 else if x.marginal then 1 else 0

def State.liveDst (s : State) (r : Reg) (d : Nat) : Option Nat :=
  let mine := slice s.dst.arrs (25 * d) 25
  let n := s.fld F.DST_ARR_SEL_SLOT d
  let x := s.arr (25 * d + n)
  let served (b : Bool) : Bool := s.openStops.any fun o =>
    o.units.contains (unitDst d) && (o.started || b)
  let away (p : Nat) : Bool := match (s.arr p).backs with
    | none => false
    | some a => a / 24 == d && p / 25 != d
  let shown (v : Nat) : Option Nat := some (if 25 ≤ n then 0 else v)
  if r = R.DST_STATUS then
    some (bit 0 (served false) + bit 1 (served true) + 4 * countIf (fun y => y.calDue) mine
      + 256 * countIf (fun y => y.retired) mine
      + bit 13 ((s.arr (25 * d + 24)).backs.isSome) + bit 14 (2 ≤ s.lamp.thermStep))
  else if r = R.DST_ARR_INFO then
    shown (x.nExact + 256 * wrapInt 8 x.tempCal + 65536 * x.infoState n
      + 2 ^ 18 * x.backs.getD 0xFF)
  else if r = R.DST_ARR_COL then shown x.worstCol
  else if r = R.DST_ARR_TAG0 then shown ((nth Page.reset x.pages 0).tag.getD 0)
  else if r = R.DST_ARR_TAG1 then shown ((nth Page.reset x.pages 1).tag.getD 0)
  else if r = R.DST_RING then
    some (countIf (fun y => match y.backs with
      | none => false
      | some a => a / 24 != d) mine + 256 * countIf away (upTo 200))
  else none

/-- What tile core `c` does (TILE_CORE_n.STATE). -/
def State.coreState (s : State) (c : Nat) (o : OpenStop) : Nat :=
  if o.preempt.contains (unitTile c) then 5
  else if o.stop.opcode = 0x11 then 3
  else if o.stop.opcode = 0x12 then 4
  else if (nth Core.reset s.ras.cores c).fragment then 2 else 1

def State.liveTile (s : State) (r : Reg) (i : Nat) : Option Nat :=
  if r = R.TILE_STATUS then
    some ((upTo 16).foldl (fun m c => m + bit c (s.coreSlot c).isSome
      + bit (16 + c) (s.reservedCores.contains (unitTile c))) 0)
  else if r = R.TILE_CORE then
    some (match s.coreSlot i with
      | none => 0
      | some o => o.stop.tag + 65536 * o.stop.queue + 2 ^ 20 * s.coreState i o
          + 2 ^ 24 * (nth Core.reset s.ras.cores i).rank)
  else none

def State.liveRas (s : State) (r : Reg) : Option Nat :=
  if r = R.RAS_STATUS then
    some (bit 0 s.ras.held.isSome
      + bit 1 (s.ras.binDone || ((s.ras.held.bind s.slotOf).any fun o =>
          (passParam o.stop.desc).direct))
      + 256 * s.ras.waiting.length
      + 65536 * (match s.ras.held with
        | none => 0
        | some i => ((s.slotOf i).map fun o => o.stop.tag).getD 0))
  else none

def State.liveVis (s : State) (r : Reg) : Option Nat :=
  if r = R.VIS_STATUS then
    some ((upTo 4).foldl (fun m e => m + bit e (s.openStops.any fun o =>
      o.started && o.units.contains (unitVis e))) 0)
  else none

def State.liveRbt (s : State) (r : Reg) (t : Nat) : Option Nat :=
  let x := s.track t
  if r = R.RBT_STATUS then
    some (setBits (setBits (s.rawReg r 0 0) 0 0 (bit 0 s.rbt.replay)) 4 3
      (bit 0 (s.rbt.tracks.any fun y => y.generating.isSome)
        + bit 1 (s.rbt.tracks.any fun y => y.reloc.isSome)))
  else if r = R.RBT_LOG_SEQ then some s.logNext
  else if r = R.RBT_TRK_STATE then
    let sh := match x.shown with
      | none => 15
      | some c => c.stand % 16
    some (sh + 16 * ((x.pending.map fun c => 2 ^ c.stand % 256).foldl Nat.lor 0) + 4096 * x.choice)
  else if r = R.RBT_TRK_SHOWN_PN then some ((x.shown.map fun c => c.pn).getD 0)
  else none

def State.liveSco (s : State) (r : Reg) (x : Nat) : Option Nat :=
  let a := s.output 0
  let b := s.output 1
  if r = R.SCO_STATUS then
    some (bit 0 (a.phase != 0) + bit 1 (b.phase != 0) + bit 2 s.sco.freerun + bit 3 s.sco.genRun
      + 16 * a.phase + 64 * b.phase + 65536 * (if s.sco.due then 0 else s.sco.line % 4096))
  else if r = R.SCO_PANEL_PINS then
    some (bit 0 (nth false s.ports.panelEn x) + bit 1 (nth false s.ports.panelRst x))
  else if r = R.SCO_DSI_TX_STATUS then
    some (setBits (s.rawReg r x 0) 0 0 (bit 0 (s.output x).lpWait))
  else none

/-- An icon is drawn because the prove period runs (R335). -/
def State.proving (s : State) : Bool :=
  s.sco.genRun && s.sgn.icons.any fun i =>
    i.en && i.prove && decide (s.rd R.SCO_FRAME < bits (nth 0 s.sgn.ctrl i.out) 15 8)

def State.liveSgn (s : State) (r : Reg) : Option Nat :=
  if r = R.SGN_STATUS then
    some (setBits (s.rawReg r 0 0) 7 0 (min 127 s.iconsEnabled + bit 7 s.proving))
  else if r = R.SGN_SRAM_DATA then some (s.num .icon (s.fld F.SGN_SRAM_ADDR_WORD * 4) 4)
  else none

/-- The journal's words are not shown while the retention RAM is unusable (R60; DEDUCED, assumption 124). -/
def State.liveSvc (s : State) (r : Reg) : Option Nat :=
  let ret (v : Nat) : Option Nat := some (if s.lamp.retUnusable then 0 else v)
  if r = R.SVC_STATUS then
    some (setBits (setBits (s.rawReg r 0 0) 1 0 (bit 0 s.svc.intakeRun + bit 1 s.svc.moving)) 3 3
      (bit 0 (196 ≤ s.cjUnmirrored)))
  else if r = R.SVC_INTAKE_USED then
    ret (countIf s.ijLive (upTo ijSlots)
      + 65536 * countIf (fun i => s.ij i 4 1 == 0) (upTo ijSlots))
  else if r = R.SVC_ISEQ then ret s.nextIseq
  else if r = R.SVC_SNAP_SEQ then ret s.snapSeq
  else if r = R.SVC_CJ_NEXT then ret s.cjNext
  else if r = R.SVC_CJ_UNMIRRORED then ret (min 255 s.cjUnmirrored)
  else if r = R.SVC_CJ_HASH_LO then ret (leNat (s.cjHash.take 4))
  else if r = R.SVC_CJ_HASH_HI then ret (leNat (s.cjHash.drop 4))
  else none

def State.liveHub (s : State) (r : Reg) (c : Nat) : Option Nat :=
  if r = R.CAN_STATUS then some (setBits (s.rawReg r c 0) 1 0 (s.canCtl c).state)
  else if r = R.GPIO_IN then some ((upTo 24).foldl (fun m n => m + bit n (s.gpioLevel n)) 0)
  else if r = R.GPIO_PULL_DIR then some s.pullDir
  else none

def State.liveBrg (s : State) (r : Reg) : Option Nat :=
  if r = R.BRG_STATUS then some s.brgStatusWord
  else if r = R.BRG_KEY then some s.brgKey
  else none

def State.liveDdr (s : State) (r : Reg) : Option Nat :=
  let here := s.ave.ddrBytes != 0
  if r = R.DDR_STATUS then
    some (setBits (s.rawReg r 0 0) 5 0 (bit 0 here + bit 1 here
      + (if here then 4 * s.boot.ddrRate + bit 5 (s.boot.ddrRanks == 2) else 0)))
  else if r = R.DDR_SIZE then some (s.ave.ddrBytes / 2 ^ 20 % 2 ^ 16)
  else none

def State.liveRcl (s : State) (r : Reg) (i j : Nat) : Option Nat :=
  let c := s.rcl
  if r = R.RCL_STATUS then
    some (bit 0 c.pairOk + bit 1 c.current.isSome + 4 * min 15 c.pending.length + bit 6 c.ringWrap
      + bit 7 c.detour + 256 * ((c.current.bind fun x => x.units.head?).getD 0x7F)
      + bit 16 s.faultN)
  else if r = R.RCL_FAULTN_CAUSE then some s.faultnCause
  else if r = R.RCL_RING_SEQ then some s.nextSeq
  else if r = R.RCL_UNIT_RETIRED then some (flagWord c.retired i)
  else if r = R.RCL_LEASE_W then
    some (((keyGet s.leases (s.fld F.RCL_LEASE_SEL_RECORD)).map fun l => l.word i).getD 0)
  else if r = R.RCL_RING then
    some (match s.ring.find? fun x => x.seq % 64 == i with
      | none => 0
      | some x => leNat (slice (x.bytes ++ zeros 8) (4 * j) 4))
  else none

/-- XLT_STATUS as the pool and the queues stand. -/
def State.liveXlt (s : State) (r : Reg) : Option Nat :=
  if r = R.XLT_STATUS then
    some ((s.xlt.allocs.map fun a => a.2).sum + bit 24 (s.xlt.waiting != []))
  else none

/-- The word a register reads as. -/
def State.readWord (s : State) (r : Reg) (i j : Nat) : Nat :=
  let slot := slotOfAddr r.addr
  let live := if slot = 0x00 then s.liveSys r i else if slot = 0x01 then s.liveLamp r
    else if slot = 0x02 then s.liveBoot r i else if slot = 0x03 then s.liveAve r i
    else if slot = 0x04 then s.liveXlt r else if slot = 0x05 then s.liveWrd r i
    else if slot = 0x06 then s.liveXng r i else if slot = 0x10 then s.liveDst r i
    else if slot = 0x20 then s.liveTile r i else if slot = 0x21 then s.liveRas r
    else if slot = 0x30 then s.liveVis r else if slot = 0x40 then s.liveRbt r i
    else if slot = 0x41 then s.liveSco r i else if slot = 0x42 then s.liveSgn r
    else if slot = 0x62 then s.liveSvc r
    else if slot = 0x60 ∨ slot = 0x64 then s.liveHub r i
    else if slot = 0x70 then s.liveBrg r else if slot = 0x80 then s.liveDdr r
    else if slot = 0x90 then s.liveRcl r i j else none
  live.getD (s.rawReg r i j)

/-! ### Where an access is refused -/

/-- Units that stand behind a register block (R131). -/
def blockUnits (slot : Nat) : List Nat :=
  if slot = 0x04 then [3] else if slot = 0x06 then [2]
  else if 0x10 ≤ slot ∧ slot < 0x18 then [unitDst (slot - 0x10)]
  else if slot = 0x20 then (upTo 16).map unitTile
  else if slot = 0x21 then [unitRas] else if slot = 0x30 then (upTo 4).map unitVis
  else if slot = 0x31 then [unitCam] else if slot = 0x40 then [unitRbt]
  else if slot = 0x41 then [unitSco 0, unitSco 1] else if slot = 0x42 then [unitSgn]
  else if slot = 0x70 then [unitBrg] else if slot = 0x80 then [unitDdr] else []

/-- Every gate to the block's units is closed: an access is answered with an error (R131). -/
def State.blockGated (s : State) (slot : Nat) : Bool :=
  blockUnits slot != [] && (blockUnits slot).all s.ave.gates.contains

/-- A tile-core stop is open (R239). -/
def State.tileStopOpen (s : State) : Bool :=
  s.openStops.any fun o => [0x10, 0x11, 0x12].contains o.stop.opcode

/-- A write to this register gets an error response in this state, and has no effect: while a
pool holds run lists (R147), a receiver runs (R194), a tile-core stop is open (R239), a track is
enabled (R309), an icon is enabled (R337). -/
def State.writeRefused (s : State) (h : RegHit) : Bool :=
  let r := h.r
  if r = R.XLT_POOL_BASE ∨ r = R.XLT_POOL_SIZE then s.xlt.allocs != []
  else if r = R.CAM_RING_BASE ∨ r = R.CAM_PITCH ∨ r = R.CAM_SLOT_SIZE ∨ r = R.CAM_REC_BASE then
    s.flag F.CAM_STATUS_RUNNING
  else if r = R.TILE_SAVE_BASE ∨ r = R.RAS_LOT_BASE then s.tileStopOpen
  else if r = R.RBT_TRK_BASE_LO ∨ r = R.RBT_TRK_BASE_HI ∨ r = R.RBT_TRK_STRIDE then
    s.flag F.RBT_TRK_CFG_EN h.i
  else if r = R.SGN_ICON_FMT ∨ r = R.SGN_ICON_CRC_ON ∨ r = R.SGN_ICON_CRC_OFF then
    s.flag F.SGN_ICON_POS_EN h.i
  else false

/-! ### Commits of complement pairs -/

/-- The word that a commit stores: reserved bits at 0 (R17), LAMP_WAKE_EN.BRG at 0 on an AE480-QS2
(R40), and the fields that a rule clamps at commit held to their limits (R67, R270, R309,
AVE_BLUE_CAP, RCL_CTRL.UNIT_TERM). -/
def commitWord (o : Order) (r : Reg) (v : Nat) : Nat :=
  let w := v % 2 ^ 32 &&& r.rw
  if r = R.LAMP_WAKE_EN ∧ o = .qs2 then clearMask w 4
  else if r = R.SYS_THERM_CTRL then
    setBits (setBits (setBits (setBits w 7 0 (min 110 (bits w 7 0))) 15 8 (min 118 (bits w 15 8)))
      23 16 (min 126 (bits w 23 16))) 31 24 (clampNat 2 15 (bits w 31 24))
  else if r = R.DST_CAL_CTRL then
    setBits (setBits (setBits (setBits w 7 0 (clampNat 1 10 (bits w 7 0))) 15 8
      (clampNat 2 8 (bits w 15 8))) 23 16 (clampNat 1 50 (bits w 23 16))) 31 24
      (max (clampNat 2 8 (bits w 15 8)) (min 12 (bits w 31 24)))
  else if r = R.DST_SWEEP_CTRL then clampNat 1 10 w
  else if r = R.AVE_BLUE_CAP then clampNat 1 20 w
  else if r = R.RCL_CTRL then setBits w 15 8 (clampNat 2 100 (bits w 15 8))
  else if r = R.RBT_TRK_CFG then trkWord w
  else w

/-- A commit of WRD_Q_CFG_q: queue 0 has level 0, and no other queue does. -/
def queueCfgCommit (q v : Nat) : Prog :=
  let level := if q = 0 then 0 else max 1 (bits v 1 0)
  .seq (setReg R.WRD_Q_CFG (setBits v 1 0 level) q) (modQueue q fun x => { x with level := level })

/-- A commit of a pair through which a service port may close (Table 16-11). -/
def portCommit (r : Reg) (i v : Nat) : Prog :=
  .look fun s => .seq (setReg r v i) <|
    if r = R.CAN_GSP_ID then
      Prog.when (s.flag F.CAN_GSP_ID_EN i = true ∧ bitN v 31 = 0) (closePort i)
    else .seq (Prog.when (s.flag F.SVC_PORTS_UART_EN = true ∧ bitN v 0 = 0) (closePort 2))
      (Prog.when (s.flag F.SVC_PORTS_SPI_EN = true ∧ bitN v 1 = 0) (closePort 3))

/-- Timing register index of scan-out; 6 for another register. -/
def timingIndex (r : Reg) : Nat :=
  [R.SCO_H_TIM, R.SCO_H_SYNC, R.SCO_V_TIM, R.SCO_V_SYNC, R.SCO_PCLK, R.SCO_TE].idxOf r

/-- The effect of a commit of word `v` (as `commitWord` gives it) to a complement pair. -/
def regCommit (h : RegHit) (v : Nat) : Prog :=
  let r := h.r
  if r = R.SYS_PWR_REQ then pwrCommit v
  else if r = R.WRD_Q_CFG then queueCfgCommit h.i v
  else if r = R.XNG_SET_CMD then .look fun s => .seq (setReg r v) (gspSet v (s.rd R.XNG_SET_VAL))
  else if r = R.CAM_CTRL then camCtrlCommit v
  else if r = R.RBT_TRK_CFG then trkCommit h.i v
  else if r = R.SCO_CTRL then scoCtrlCommit v
  else if timingIndex r < 6 then scoTimingCommit (timingIndex r) v
  else if r = R.SCO_OUT_CFG then scoCfgCommit h.i v
  else if r = R.SCO_DPHY then scoDphyCommit h.i v
  else if r = R.SCO_LINES then scoLinesCommit h.i v
  else if r = R.SCO_PL_CFG then scoPlaneCommit h.i h.j v
  else if r = R.SGN_ICON_POS then iconPosCommit h.i v
  else if slotOfAddr r.addr = 0x50 then .seq
    (Prog.when (r = R.HVS_NTC_CFG) (firstWrite [.ntc])) <| hvsCommit ((r.at h.i h.j - 0xF0500000) / 8) v
  else if r = R.CAN_CTRL then canCtrlCommit h.i v
  else if r = R.CAN_GSP_ID ∨ r = R.SVC_PORTS then portCommit r h.i v
  else if r = R.SVC_INTERLOCK then .seq (setReg r v) settleMoving
  else if r = R.BRG_CTRL then brgCtrlCommit v
  else setReg r v h.i h.j

/-- A write to the value word of a pair is held as pending, exactly as written (R17, R18). -/
def valueWrite (h : RegHit) (v : Nat) : Prog :=
  .seq (.act (.pend (h.r.at h.i h.j) (some (v % 2 ^ 32)))) (respond 0)

/-- A write to the complement word commits the pending value, or discards it and raises the
block's complement-mismatch fault (R17, R18). -/
def complementWrite (h : RegHit) (v : Nat) : Prog :=
  let a := h.r.at h.i h.j
  .look fun s => .seq (respond 0) <| .seq (.act (.pend a none)) <|
    match keyGet s.rwpPend a with
    | none => raiseMismatch a
    | some p => if v % 2 ^ 32 = inv32 p then regCommit h (commitWord s.ident.order h.r p) else raiseMismatch a

/-! ### Writes of other registers -/

/-- What a write leaves in a register by its access codes (Table 00-5): RW bits are set, W1C bits
written as 1 are cleared, and every other bit stays. -/
def storedWord (r : Reg) (old v : Nat) : Nat :=
  clearMask (clearMask old r.rw ||| (v &&& r.rw)) (v &&& r.w1c)

/-- A write to a register that is no complement pair. -/
def plainWrite (h : RegHit) (v : Nat) : Prog :=
  let r := h.r
  .seq (respond 0) <|
    if r = R.SYS_RESET_CTRL then resetCtrlWrite v
    else if r = R.AVE_POISON_CLR then poisonClearWrite v
    else if r = R.XLT_INVAL then invalWrite v
    else if r = R.XLT_ROOT_LO ∧ h.i = 0 then .skip
    else if r = R.XLT_ROOT_HI then rootWrite h.i v
    else if r = R.WRD_Q_CTRL then .seq (queueCtrl h.i v) fallbackStep
    else if r = R.SCO_DSI_TX_GO then Prog.when (bitN v 0 = 1) (dsiGo h.i)
    else if r = R.SGN_SRAM_DATA then sramAccess (some v)
    else if r = R.HVS_CMD then Prog.when (v % 256 = 0xC1) hvsClear
    else if r = R.I2C_XFER then i2cXfer h.i v
    else if r = R.BRG_CMD then brgCommand v
    else if r = R.RCL_INJECT then injectFault v
    else .look fun s => Prog.when (r.rw ≠ 0 ∨ r.w1c ≠ 0)
      (.seq (Prog.when (slotOfAddr r.addr = 0x64) (firstWrite ((upTo 24).map PinGroup.gpio)))
        (setReg r (storedWord r (s.readWord r h.i h.j) v) h.i h.j))

/-! ### The bus (R14, R108) -/

/-- The address lies in the retention window of the LAMP block (R62). -/
def inRetWindow (addr : Nat) : Bool := decide (0xF0018000 ≤ addr) && decide (addr < 0xF0020000)

/-- An access reaches a register block that answers it; the other accesses are answered with an
error. -/
def onBus (addr : Nat) (p : State → Prog) : Prog :=
  .look fun s => match s.place addr with
    | .block _ =>
      if addr % 4 ≠ 0 ∨ s.blockGated (slotOfAddr addr) = true then respondError else p s
    | .unmapped => .seq (unmappedAccess addr) respondError
    | .twin _ =>
      if s.brg.link = 4 ∨ s.brg.link = 5 then respondError
      else .seq (unmappedAccess addr) respondError
    | _ => respondError

/-- A single aligned 32-bit write to a register address. -/
def busWrite (addr v : Nat) : Prog :=
  onBus addr fun s =>
    if slotOfAddr addr = 0x70 ∧ s.ident.order = .qs2 then respond 0
    else match findHit addr with
      | none => respond 0
      | some h =>
        if s.writeRefused h then respondError
        else if h.comp then complementWrite h v
        else if h.r.rwp then valueWrite h v
        else plainWrite h (v % 2 ^ 32)

/-- A read of the retention window: a word of bank A in uncorrectable error is read from bank B and
rewritten, a word no bank holds makes the retention RAM unusable (R59), and an unusable one is
answered with an error (R60). -/
def retRead (a : Nat) : Prog :=
  .look fun s =>
    let bad (b : Bool) : Bool := s.lamp.retErrs.any fun e =>
      e.bankB == b && e.uncorrectable && e.word == a / 8
    let w := s.bytes .retB (a / 8 * 8) 8
    if s.lamp.retUnusable then respondError
    else if (s.lamp.retARetired || bad false) && (s.lamp.retBRetired || bad true) then
      .seq retentionLost respondError
    else if bad false && !s.lamp.retARetired then Prog.all [
      store .retA (a / 8 * 8) w,
      modLamp fun l => { l with retErrs := l.retErrs.filter fun e => e.bankB || e.word != a / 8 },
      respond (s.retNum a 4)]
    else respond (s.retNum a 4)

/-- Words of a pair as stored; the pair is then repaired where they disagree (R19). -/
def pairRead (h : RegHit) : Prog :=
  .look fun s => .seq (respond (if h.comp then s.rawComp h.r h.i h.j else s.rawReg h.r h.i h.j)) <|
    if s.pairOk h.r h.i h.j then .skip
    else if slotOfAddr h.r.addr = 0x50 then useHvs
    else usePair h.r h.i h.j

/-- A single aligned 32-bit read of a register address. -/
def busRead (addr : Nat) : Prog :=
  onBus addr fun s =>
    if inRetWindow addr then retRead (addr - 0xF0018000)
    else if slotOfAddr addr = 0x70 ∧ s.ident.order = .qs2 then respond 0
    else match findHit addr with
      | none => respond 0
      | some h =>
        if h.r.rwp then pairRead h
        else if h.r = R.SGN_SRAM_DATA then sramAccess none
        else if h.r = R.XNG_VAL then
          .seq (respond (s.readWord h.r h.i h.j)) (checkCrossing h.i)
        else .seq (respond (s.readWord h.r h.i h.j))
          (Prog.when (h.r = R.LAMP_TICK_LO)
            (modLamp fun l => { l with tickHi := l.tick / 2 ^ 32 % 2 ^ 16 }))

/-! ### The commands -/

/-- The address names a value word (`comp` false) or a complement word of a pair, or another
register. -/
def hitKind (addr : Nat) (rwp comp : Bool) : Bool :=
  match findHit (addr / 4 * 4) with
  | none => !rwp
  | some h => h.r.rwp == rwp && (!rwp || h.comp == comp)

/-- An access of `size` bytes: one that is not a single aligned 32-bit access gets an error
response and has no effect (R14). -/
def sizedAccess (addr size : Nat) (p : Prog) : Prog :=
  if size = 4 ∧ addr % 4 = 0 then p else respondError

/-- RWP_VALUE_WRITE: `size` bytes `v` are written to the value word of a complement pair. -/
def execRwpValueWrite (addr size v : Nat) (s : State) : Host.Outcome State Fault Refusal :=
  Prog.outcome (Prog.when (s.live = true ∧ hitKind addr true false = true)
    (sizedAccess addr size (busWrite addr v))) s

/-- RWP_COMPLEMENT_WRITE: the complement word of a pair is written. -/
def execRwpComplementWrite (addr size v : Nat) (s : State) : Host.Outcome State Fault Refusal :=
  Prog.outcome (Prog.when (s.live = true ∧ hitKind addr true true = true)
    (sizedAccess addr size (busWrite addr v))) s

/-- RWP_WORD_READ: a word of a complement pair is read. -/
def execRwpWordRead (addr size : Nat) (s : State) : Host.Outcome State Fault Refusal :=
  Prog.outcome (Prog.when (s.live = true
      ∧ (hitKind addr true false = true ∨ hitKind addr true true = true))
    (sizedAccess addr size (busRead addr))) s

/-- REGISTER_WRITE: a register that is no complement pair is written. -/
def execRegisterWrite (addr size v : Nat) (s : State) : Host.Outcome State Fault Refusal :=
  Prog.outcome (Prog.when (s.live = true ∧ hitKind addr false false = true)
    (sizedAccess addr size (busWrite addr v))) s

end Sys2Proof.Machine
end

