-- ==== Sys2Proof/Machine/LoaderRows.lean ====
section
/-! DEFINITION. The loader's commands from the self-test to the last section loaded, the LPDDR4X
training, the repair reads and the start of a line (chapter 03; R41, R135, R254 and R314). -/

namespace Sys2Proof.Machine

/-! ### Words written one by one (R90, R396) -/

/-- Words `ws` written from address `addr` on, in order, as aligned 32-bit writes from ASID 0. The
accesses stop at the first that is not allowed or gets an error response, with `fail` of its index;
a write that resets the device ends them. -/
def writeWords (allowed : Nat → Bool) (addr : Nat) (ws : List Nat) (i : Nat) (fail : Nat → Prog)
    (done : Prog) : Prog :=
  match ws with
  | [] => done
  | w :: t =>
    if allowed addr = false then fail i
    else .seq (busWrite addr w) (.look fun s =>
      if s.live = false then .skip
      else if s.bus.ok = false then fail i
      else writeWords allowed (addr + 4) t (i + 1) fail done)

/-- Words that a byte list spells. -/
def wordsOf (n : Nat) (bs : List Byte) : List Nat := (upTo n).map fun i => fieldAt bs (4 * i) 4

/-- Word at a register address as it stands, without the effects of a read; 0 where there is none. -/
def State.peekWord (s : State) (addr : Nat) : Nat :=
  match findHit addr with
  | none => 0
  | some h => if h.comp then s.rawComp h.r h.i h.j
      else if h.r.rwp then s.rawReg h.r h.i h.j
      else s.readWord h.r h.i h.j

/-- The bytes of `n` register words from `addr` on. -/
def State.peekBytes (s : State) (addr n : Nat) : List Byte :=
  (upTo n).flatMap fun i => leBytes 4 (s.peekWord (addr + 4 * i))

/-! ### Sections that fail (R87, R88, R429) -/

/-- Remove an interval from a list of intervals of (start, bytes). -/
def cutRange (off n : Nat) (l : List (Nat × Nat)) : List (Nat × Nat) :=
  l.flatMap fun r =>
    let e := r.1 + r.2
    let left := (r.1, min e off - r.1)
    let from_ := max r.1 (off + n)
    [left, (from_, e - from_)].filter fun x => decide (0 < x.2)

/-- The loader may read section `x`: its bytes are there, or will never come. -/
def State.sectDue (s : State) (x : Sect) : Bool :=
  s.imgHas x.offset x.length || (s.brg.imgEnd.isSome && !s.brg.naked.contains x.sectId)

/-- A section's digest has failed for the first time: it is read once more, or over the Bridge
asked for once more. -/
def sectAgain (i : Nat) (x : Sect) : Prog :=
  .look fun s => .seq (modSect i fun y => { y with state := 1 })
    (Prog.when (s.boot.overBridge = true) <| .seq
      (modBrg fun b => { b with
        naked := x.sectId :: b.naked
        imgGot := cutRange x.offset x.length b.imgGot })
      (sendPkt ⟨11, 0, x.sectId, 0, 0, []⟩))

/-- A failed SPLASH section leaves the frame stores black, and raises fault 0x0204 (R88): what had landed
of it is overwritten with 0x00. -/
def splashFails (x : Sect) (code : Nat) : Prog := Prog.all [
  Prog.when (code ≠ 0x0204) (bootFault 0x0204 x.sectId),
  paStore x.dest (zeros (min x.length (0x1000000 - x.dest))),
  modBoot fun b => { b with splashFailed := true }]

/-- Section `i` has failed, with the fault that says why. -/
def sectFails (i : Nat) (x : Sect) (code : Nat) : Prog :=
  .seq (bootFault code x.sectId) <|
    if x.kind = 1 ∨ x.kind = 2 ∨ x.kind = 4 then imageFails
    else Prog.all [
      modSect i fun y => { y with state := 3 },
      Prog.when (x.kind = 3) (splashFails x code),
      loaderProgress]

/-- One reading of section `i` has ended without its digest matching: a first time it is read once
more, a second time it fails. -/
def sectMismatch (i : Nat) (x : Sect) : Prog :=
  if x.state = 0 then sectAgain i x else sectFails i x 0x0204

/-- The bytes of a section as one reading gives them: what the image holds, or, where the reading
failed, bytes left open. -/
def State.sectRead (s : State) (x : Sect) (readOk : Bool) : List Byte :=
  if readOk && s.imgHas x.offset x.length then s.imgBytes x.offset x.length else s.freeBytes x.length

/-- The reading gives the section's digest. -/
def State.digestOk (s : State) (x : Sect) (readOk : Bool) : Bool :=
  readOk && s.imgHas x.offset x.length && sha256 (s.imgBytes x.offset x.length) == x.digest

/-! ### The end of WAKING and step 1 -/

/-- SELF_TEST_DONE: the self-test ends (R41). `ok`: the lockstep comparisons pass; `temps`: the
sensors' readings. Both retention banks are read and the LAMP pairs checked: a word that makes the
retention RAM unusable, or a pair that disagrees, fails the test too (DEDUCED, assumption 122). After a
thermal shutdown every self-test reads the sensors until one passes, and a valid one at 115 degrees
or more fails it, with cause SELFTEST, fault 0x0105 and the retries of R42 (DEDUCED, assumption 123
on R69). -/
def execSelfTestDone (ok : Bool) (temps : List Int) (s : State) : Host.Outcome State Fault Refusal :=
  let valid := validTemps temps
  let hot := (upTo 12).any fun i => nth false valid i && decide (115 ≤ nth 0 temps i)
  let lost := !s.lamp.retUnusable
    && s.retFatal ((s.retFound []).filter fun e => e.uncorrectable)
  Prog.outcome (Prog.when (s.lamp.power = .waking ∧ s.lamp.wakingStep = 4 ∧ s.ave.initDone = true
      ∧ s.lamp.resetNLow = false) <| Prog.all [
    readBanks [],
    usePairs [1],
    if ok = false ∨ lost = true ∨ s.badPairs [1] ≠ [] ∨ (s.lamp.thermCheck = true ∧ hot = true)
    then failWaking causeSelfTest
    else Prog.all [
      modLamp fun l => { l with
        power := .running
        wakingStep := 0
        refCount := 0
        attempts := 0
        thermCheck := false
        resetHold := false
        parkedHold := false },
      modRcl fun r => { r with pairOk := true, escalating := false },
      loaderStart]]) s

/-- FLASH_RESET_WAIT_END: 10 ms after XSPI_RST_N has risen. -/
def execFlashResetWaitEnd (s : State) : Host.Outcome State Fault Refusal :=
  Prog.outcome (Prog.when (s.ports.xspiRstN = true) (modBoot fun b => { b with flashReady := true })) s

/-- The header, table and signature are checked; `octal` and `quad`: a header can be read in that
mode. -/
def imageVerify (octal quad : Bool) : Prog :=
  .look fun s =>
    let h := s.imgBytes 0 256
    let sel := s.lamp.straps.bootsel
    let sigEnd := fieldAt h 0x20 4 + 256
    let readable := s.boot.overBridge || (if sel = 1 then quad else octal || quad)
    let headOk := readable && s.imgHas 0 256 && s.headerOk h
    let useQuad := !s.boot.overBridge && (sel == 1 || !octal)
    let table := s.sectTable h
    Prog.when (s.boot.phase = 1 ∧ (s.boot.flashReady = true ∨ s.boot.overBridge = true)
        ∧ s.imgDue 0 256 = true ∧ (headOk = true → s.imgDue 0 sigEnd = true)) <| Prog.all [
      modBoot fun b => { b with flashRetries := 0 },
      if headOk = false ∨ s.imgHas 0 sigEnd = false
          ∨ sectTableOk (fieldAt h 8 4) (fieldAt h 0x24 4) (fieldAt h 0x28 4) s.boot.imageBase table
            = false then
        .seq (bootFault 0x0201) imageFails
      else if s.signatureFault h ≠ 0 then .seq (bootFault (s.signatureFault h)) imageFails
      else acceptImage h useQuad]

/-- IMAGE_VERIFY. -/
def execImageVerify (octal quad : Bool) (s : State) : Host.Outcome State Fault Refusal :=
  Prog.outcome (imageVerify octal quad) s

/-! ### Step 2 -/

/-- Role of the chip, once the CONFIG section `b` has passed its checks and before any record of it
takes effect (R26): a Bridge-booted chip is secondary, and another takes the role that its image
declares. Where its profiles declare different roles, R26 names none: the model takes the
lowest-numbered profile's (DESIGN CHOICE, assumption 128). -/
def State.declaredRole (s : State) (b : List Byte) : Nat :=
  let ps := ((confRecs (b.length / 24 + 1) b 0).getD []).filterMap fun r =>
    if r.typ = 2 then some (profileOf r.payload) else none
  if s.boot.overBridge then 2
  else if s.ident.order = .qs2 then 0
  else match (upTo 7).findSome? fun n => ps.find? fun p => p.number == n with
    | none => 0
    | some p => if p.chips = 2 then p.role % 3 else 0

/-- CONFIG_SECTION_CHECK: the CONFIG section has been read (`readOk`). -/
def execConfigSectionCheck (readOk : Bool) (s : State) : Host.Outcome State Fault Refusal :=
  Prog.outcome (match s.boot.sects[0]? with
    | none => .skip
    | some x => Prog.when (s.boot.phase = 2 ∧ s.boot.config = [] ∧ s.sectDue x = true) <| Prog.all [
        modBoot fun b => { b with flashRetries := 0 },
        if x.chipsOk s.ident.order = false then sectFails 0 x 0x0204
        else if s.digestOk x readOk = false then sectMismatch 0 x
        else
          let b := s.imgBytes x.offset x.length
          if confOk b = false then .seq (bootFault 0x0205 x.sectId) imageFails
          else Prog.all [
            modSect 0 fun y => { y with state := 2 },
            modBoot fun v => { v with config := b, configAt := 0 },
            setF F.SYS_STATE_ROLE (s.declaredRole b),
            startPorts]]) s

/-- SECT_ID of the CONFIG section. -/
def State.confSect (s : State) : Nat := ((s.boot.sects[0]?).map fun x => x.sectId).getD 0

/-- A record of type `typ` is next: what the loader does with it. -/
def onRecord (typ : Nat) (work : ConfRec → Prog) : Prog :=
  .look fun s => match s.nextRec with
    | none => .skip
    | some r => Prog.when (r.typ = typ) (.seq loaderMirror (work r))

/-- The loader writes this address: a register block other than LAMP and BOOT (R90). -/
def confWritable (addr : Nat) : Bool :=
  decide (0xF0000000 ≤ addr) && decide (addr < 0xF0A00000) && blockSlots.contains (slotOfAddr addr)
    && slotOfAddr addr != 1 && slotOfAddr addr != 2

/-- CONFIG_REG_WRITE: a REG_WRITE record. -/
def execConfigRegWrite (s : State) : Host.Outcome State Fault Refusal :=
  Prog.outcome (onRecord 1 fun r => .look fun t =>
    let addr := fieldAt r.payload 0 4
    let n := r.payload.length / 4 - 1
    let ws := wordsOf n (r.payload.drop 4)
    let c : Change := ⟨0, 3, 0, r.recId, changeWord (t.peekBytes addr n), changeWord (r.payload.drop 4),
      4 * n, 0⟩
    let first := t.cjNext
    .seq (appendChange c) (writeWords confWritable addr ws 0
      (fun _ => Prog.all [appendVoid c first, bootFault 0x0206 t.confSect, imageFails])
      (recDone r))) s

/-- CONFIG_PROFILE: a PROFILE record declares a profile. -/
def execConfigProfile (s : State) : Host.Outcome State Fault Refusal :=
  Prog.outcome (onRecord 2 fun r => .seq
    (modBoot fun b => { b with profiles := b.profiles ++ [profileOf r.payload] }) (recDone r)) s

/-- CONFIG_LOADER: a LOADER record sets BOOT_SPLASH_HOLD. -/
def execConfigLoader (s : State) : Host.Outcome State Fault Refusal :=
  Prog.outcome (onRecord 3 fun r => .seq
    (modBoot fun b => { b with splashHoldMs := fieldAt r.payload 0 2 }) (recDone r)) s

/-- CONFIG_DDR: a DDR record declares the LPDDR4X and starts its initialisation; its values were
checked with the section's records (R134). -/
def execConfigDdr (s : State) : Host.Outcome State Fault Refusal :=
  Prog.outcome (onRecord 4 fun r =>
    let f := fieldAt r.payload
    if f 0 1 = 0 then .seq (modBoot fun b => { b with ddrDeclared := false, lpddrKnown := true })
      (recDone r)
    else Prog.all [
      modBoot fun b => { b with
        ddrDeclared := true
        ddrRate := ddrRates.idxOf (f 2 2)
        ddrRanks := f 1 1
        ddrMib := f 4 2
        trainAttempt := 0
        lpddrKnown := false },
      firstWrite [.ddrReset, .ddrOthers],
      requestPlls 0x80,
      recDone r]) s

/-- CONFIG_END: the END record ends step 2; the intake starts, on a chip that is no secondary
(R27). -/
def execConfigEnd (s : State) : Host.Outcome State Fault Refusal :=
  Prog.outcome (onRecord 0xFF fun _ => .look fun t => Prog.all [
      modBoot fun b => { b with
        phase := 3
        lpddrKnown := b.lpddrKnown || !b.ddrDeclared },
      deviceSet 9 1,
      modSvc fun v => { v with intakeRun := t.localRole != 2 },
      Prog.when (t.localRole ≠ 2) (firstWrite [.canTx 0, .canTx 1]),
      Prog.when (t.boot.imageAlt = true) (bootFault 0x020D),
      loaderProgress]) s

/-! ### Sections (R87) -/

/-- The loader reads section `x` now: an EARLY one in phase 3, one of the chosen profile in
phase 5. -/
def State.sectWanted (s : State) (x : Sect) : Bool :=
  decide (x.state < 2) && (if s.boot.phase = 3 then s.earlySects.contains x
    else if s.boot.phase = 5 then (match s.profile s.boot.choosing with
      | none => false
      | some p => (s.neededSects p).contains x)
    else false)

/-- The sizes that the header of a SPLASH gives are those of the outputs, its formats exist, and its
images lie within the section; an output it gives 0 by 0 has no splash. -/
def State.splashSizesOk (s : State) (b : List Byte) : Bool :=
  let t := s.timing
  decide (16 ≤ b.length) && (upTo 2).all fun x =>
    let f (off n : Nat) : Nat := fieldAt b (8 * x + off) n
    let pitch := (f 0 2 * planeBytes (f 4 1) + 63) / 64 * 64
    (f 0 2 == 0 && f 2 2 == 0) || (f 0 2 == t.hact && f 2 2 == t.vact && decide (f 4 1 < 3)
      && decide (256 * f 6 2 + pitch * f 2 2 ≤ b.length))

/-- The bytes of section `i` land where DEST says. A section loaded before that lay there is no
longer loaded. -/
def landSection (x : Sect) (bs : List Byte) : Prog :=
  if x.destSel = 0 then Prog.all [
    paStore x.dest bs,
    cleanRange x.dest bs.length,
    modBoot fun b => { b with
      sects := b.sects.map fun y =>
        if y.destSel = 0 ∧ y.sectId ≠ x.sectId ∧ y.state = 2 ∧ spansMeet y.span x.span = true
        then { y with state := 0 } else y }]
  else if x.destSel = 1 then store .icon x.dest bs
  else .skip

/-- A SCRIPT section whose scripts cannot be cut out of it fails the image (assumption 45). -/
def scriptLoaded (i : Nat) (x : Sect) (bs : List Byte) : Prog :=
  if parseScripts (bs.length / 8 + 2) bs 0 = none then .seq (bootFault 0x0209 x.sectId) imageFails
  else Prog.all [
    modSect i fun y => { y with state := 2 },
    modBoot fun b => { b with scriptBytes := bs },
    startScripts 0,
    loaderProgress]

/-- Section `i` has matched its digest. -/
def sectMatched (i : Nat) (x : Sect) (bs : List Byte) : Prog :=
  .look fun s =>
    if x.kind = 2 then scriptLoaded i x bs
    else if x.kind = 3 ∧ s.splashSizesOk bs = false then sectFails i x 0x0204
    else .seq (modSect i fun y => { y with state := 2 }) loaderProgress

/-- A section may not land: a SPLASH past the reservation (R119), icons past their SRAM. -/
def sectOutOfPlace (x : Sect) : Bool :=
  (x.kind == 3 && decide (0x1000000 < x.dest + x.length))
    || (x.kind == 4 && decide (0x40000 < x.dest + x.length))

/-- SECTION_LOADED: section `i` of the table has been copied from flash (`readOk`), and its digest
is checked where it landed. One that declares a number of chips outside Table 01-5 is refused (R6,
R24). -/
def execSectionLoaded (i : Nat) (readOk : Bool) (s : State) : Host.Outcome State Fault Refusal :=
  Prog.outcome (match s.boot.sects[i]? with
    | none => .skip
    | some x => Prog.when (s.sectWanted x = true ∧ s.sectDue x = true) <| .seq
        (modBoot fun b => { b with flashRetries := 0 })
        (if sectOutOfPlace x || !x.chipsOk s.ident.order then sectFails i x 0x0204
         else
          let bs := s.sectRead x readOk
          Prog.all [
            landSection x bs,
            Prog.when (readOk = false) (.act (.draw x.length)),
            if s.digestOk x readOk then sectMatched i x bs else sectMismatch i x])) s

/-! ### LPDDR4X, the calibration, the timers -/

/-- LPDDR_TRAINING_DONE: an attempt at the rate in force has ended, after `us` microseconds. -/
def execLpddrTrainingDone (ok : Bool) (us : Nat) (s : State) : Host.Outcome State Fault Refusal :=
  Prog.outcome (Prog.when (s.live = true ∧ s.boot.ddrDeclared = true ∧ s.boot.lpddrKnown = false) <| .seq
    (setReg R.DDR_TRAIN_TIME (us % 2 ^ 32))
    (if ok then Prog.all [
       modAve fun v => { v with
         ddrBytes := s.boot.ddrMib * 2 ^ 20 / 8 * 7
         ddrInit := true
         ddrPoison := ⟨[], []⟩ },
       setF F.BOOT_STATUS_LPDDR_TRAINED 1,
       modBoot fun b => { b with lpddrKnown := true },
       loaderProgress]
     else if s.boot.trainAttempt = 0 ∧ s.boot.ddrRate ≠ 0 then Prog.all [
       modBoot fun b => { b with trainAttempt := 1, ddrRate := b.ddrRate - 1 },
       setF F.DDR_EVENT_RATE_DOWN 1,
       raise 0x8004 unitDdr]
     else Prog.all [
       setF F.DDR_EVENT_TRAIN_FAIL 1,
       raise 0x8001 unitDdr,
       modBoot fun b => { b with lpddrKnown := true },
       loaderProgress])) s

/-- START_CALIBRATION_DONE: every physical array has been measured; `results`: by array, what its
columns gave. -/
def execStartCalibrationDone (results : List (Nat × List (Nat × List Int))) (s : State) :
    Host.Outcome State Fault Refusal :=
  Prog.outcome (Prog.when (s.boot.phase = 4 ∧ s.boot.calDone = false
      ∧ bitN (s.fld F.SYS_PLL_STATUS_LOCK) 2 = 1) <| Prog.all [
    startCalibration results,
    modBoot fun b => { b with calDone := true },
    loaderProgress]) s

/-- SPLASH_HOLD_ELAPSED. -/
def execSplashHoldElapsed (s : State) : Host.Outcome State Fault Refusal :=
  Prog.outcome (Prog.when (s.live = true) (modBoot fun b => { b with holdElapsed := true })) s

/-- BRIDGE_BOOT_TIMEOUT: no image flit has come within 10 s. -/
def execBridgeBootTimeout (s : State) : Host.Outcome State Fault Refusal :=
  Prog.outcome (Prog.when (s.boot.phase = 9) serviceWait) s

/-- LINE_START: the timing generator starts its next line. `late`: by output, the first column whose
plane data is missing; `ahead`: by output, the lines its FIFO is ahead; `bad`: planes whose fetch met
an error. -/
def execLineStart (late : List (Option Nat)) (ahead bad : List Nat) (s : State) :
    Host.Outcome State Fault Refusal :=
  Prog.outcome (Prog.when (s.live = true) <| Prog.all [
    usePairs [0x40, 0x41, 0x42],
    lineStart late ahead bad,
    loaderProgress]) s

/-! ### Repair reads (R103 to R105) -/

/-- The repair in progress has failed: fault 0x020B, and the reclaimer resets the device. -/
def repairFails (x : Sect) : Prog := Prog.all [
  bootFault 0x020B x.sectId,
  bump F.BOOT_REPAIR_COUNT_FAILED,
  setF F.BOOT_REPAIR_EVENT_FAIL 1,
  escalate]

/-- Rewrite page `p` of section `x` with what the repair read gave: in place, under the loader's lock,
which is then released; the bytes of an icon page wait, as checked, for the next frame start (R103,
R341). -/
def rewriteSectPage (x : Sect) (p : Nat) : Prog :=
  .look fun s =>
    let lo := max x.dest (4096 * p)
    let hi := min (x.dest + x.length) (4096 * p + 4096)
    let bs := s.sectBytes x (lo - x.dest) (hi - lo)
    if x.destSel = 1 then modSgn fun g => { g with repaired := g.repaired ++ [(p, lo, bs)] }
    else Prog.all [
      paStore lo bs,
      cleanPage (4096 * p),
      releaseLock .loader p 1]

/-- The loader holds its lock on every physical page that a repair rewrites (R103, R122). -/
def State.repairLocked (s : State) (x : Sect) (r : Repair) : Bool :=
  x.destSel == 1 || r.pages.all fun p => s.lockEntries .loader p 1 != []

/-- Queues that a BAD_STOP in section `i` halted resume at that stop once the section is repaired: one
that still drains goes on too (R160, R181). -/
def resumeBadStops (i : Nat) : Prog :=
  .look fun s => Prog.each ((upTo 16).filter fun q =>
      (s.queue q).badStop && (s.queue q).badSect == some i) fun q =>
    if (s.queue q).state = 2 then resumeHalted q
    else Prog.when ((s.queue q).state = 3)
      (modQueue q fun x => { x with state := 1, badStop := false, badSect := none })

/-- REPAIR_READ_DONE: the section of the first repair has been read (`readOk`). -/
def execRepairReadDone (readOk : Bool) (s : State) : Host.Outcome State Fault Refusal :=
  Prog.outcome (match s.boot.repairs with
    | [] => .skip
    | r :: rest => match s.boot.sects[r.sect]? with
      | none => .skip
      | some x => Prog.when (s.live = true ∧ s.boot.flashOp = none ∧ s.repairLocked x r = true) <| .seq
          (modBoot fun b => { b with flashRetries := 0 })
          (if readOk = true ∧ sha256 (s.sectBytes x 0 x.length) = x.digest then Prog.all [
             Prog.each r.pages (rewriteSectPage x),
             modBoot fun b => { b with repairs := rest },
             bump F.BOOT_REPAIR_COUNT_DONE,
             setF F.BOOT_REPAIR_EVENT_DONE 1,
             resumeBadStops r.sect]
           else if r.tries = 0 then modBoot fun b => { b with repairs := { r with tries := 1 } :: rest }
           else repairFails x)) s

end Sys2Proof.Machine
end

