-- ==== Sys2Proof/Machine/GspRun.lean ====
section
/-! DEFINITION. The execution of the commands of the Gnosor service protocol: their order, the
gates each passes, and what each does (chapter 13, R76, R392 to R403). -/

namespace Sys2Proof.Machine

/-! ### Messages (Table 13-8, R393) -/

/-- The request that `bs` spells; none where its CRC, VER or LEN fails. -/
def parseMsg (bs : List Byte) (flashOk : Bool) : Option GspMsg :=
  let n := fieldAt bs 8 2
  if bs.length < 16 + n ∨ fieldAt bs 0 1 ≠ 1 ∨ 1024 < n
      ∨ fieldAt bs (12 + n) 4 ≠ crc32 (bs.take (12 + n)) then none
  else some ⟨fieldAt bs 1 1, fieldAt bs 4 4, slice bs 12 n,
    fieldAt bs 2 2 == 0 && fieldAt bs 10 2 == 0, flashOk⟩

/-- A message is discarded without a response. -/
def discardMsg (p : Nat) : Prog := .seq (bump F.SVC_DISCARD_COUNT_COUNT)
  (raiseSecond (if p < 2 then 0x6008 + 0x100 * p else 0x6202) unitHub)

/-- Commands that only read (Table 13-9). -/
def gspReads (cmd : Nat) : Bool := [1, 2, 4, 7, 8, 0x0B, 0x10].contains cmd

/-- CONFIG_APPLY's payload is one REG_WRITE record with its complement. -/
def applyOk (b : List Byte) : Bool :=
  confRecWhole b 0 && (confRecAt b 0).typ == 1 && (confRecAt b 0).size == b.length
    && decide (8 ≤ (confRecAt b 0).payload.length)

/-- A command's payload has the form and the values of Table 13-9. -/
def State.argsOk (s : State) (m : GspMsg) : Bool :=
  let b := m.payload
  let n := b.length
  let f := fieldAt b
  if m.cmd = 1 ∨ m.cmd = 0x0C then n == 0
  else if m.cmd = 2 then n == 6 && decide (1 ≤ f 4 2) && decide (f 4 2 ≤ 256)
  else if m.cmd = 3 then decide (8 ≤ n) && decide (n ≤ 260) && n % 4 == 0
  else if m.cmd = 4 then n == 12 && decide (1 ≤ f 8 4) && decide (f 8 4 ≤ 1024)
      && s.inMemory (f 0 8) (f 8 4)
  else if m.cmd = 5 then decide (9 ≤ n) && decide (n ≤ 1020) && s.inMemory (f 0 8) (n - 8)
  else if m.cmd = 6 then applyOk b
  else if m.cmd = 7 then n == 2
  else if m.cmd = 8 then n == 6 && decide (1 ≤ f 4 2) && decide (f 4 2 ≤ 1024)
      && decide (f 0 4 + f 4 2 ≤ MemId.flash.size)
  else if m.cmd = 9 then n == 6 && f 0 4 % 4096 == 0 && decide (1 ≤ f 4 2) && decide (f 4 2 ≤ 16)
      && decide (f 0 4 + 4096 * f 4 2 ≤ MemId.flash.size)
  else if m.cmd = 0x0A then decide (5 ≤ n) && decide (n ≤ 260)
      && f 0 4 / 256 == (f 0 4 + n - 5) / 256 && decide (f 0 4 + (n - 4) ≤ MemId.flash.size)
  else if m.cmd = 0x0B then n == 6
  else if m.cmd = 0x0D then n == 33 && decide (f 0 1 < 4)
  else if m.cmd = 0x0E then n == 1 && decide (f 0 1 < 4)
  else if m.cmd = 0x0F then n == 5 && decide (f 0 1 < 64) && s.sigKind (f 0 1) == 1
  else n == 4

/-! ### Interlock classes and journal room (Table 13-13, R400, R403) -/

/-- Class of a register address, as a mask. -/
def regClass (addr : Nat) : Nat :=
  let slot := slotOfAddr addr
  if addr < 0xF0000000 ∨ 0xF0A00000 ≤ addr then 0x80
  else if slot = 0x40 ∨ slot = 0x41 ∨ slot = 0x42 then 1
  else if slot = 0x50 then 2
  else if slot = 0x60 ∨ slot = 0x61 ∨ slot = 0x62 then 4
  else if slot = 0x05 ∨ slot = 0x06 then 0x40
  else if addr = R.SYS_RESET_CTRL.addr ∨ addr / 8 * 8 = R.SYS_PWR_REQ.addr then 0x20
  else 0x80

/-- The address is SVC_INTERLOCK's, whose writes are always held. -/
def isInterlock (addr : Nat) : Bool := addr / 8 * 8 == R.SVC_INTERLOCK.addr

/-- Register addresses that a command writes. -/
def GspMsg.targets (m : GspMsg) : List Nat :=
  let from_ (a n : Nat) : List Nat := (upTo n).map fun i => a + 4 * i
  if m.cmd = 3 then from_ (fieldAt m.payload 0 4) (m.payload.length / 4 - 1)
  else if m.cmd = 6 then
    let b := (confRecAt m.payload 0).payload
    from_ (fieldAt b 0 4) (b.length / 4 - 1)
  else []

/-- Interlock classes of a command. -/
def GspMsg.classes (m : GspMsg) : Nat :=
  if m.cmd = 5 then 8
  else if m.cmd = 9 ∨ m.cmd = 0x0A ∨ m.cmd = 0x0D ∨ m.cmd = 0x0E then 0x10
  else if m.cmd = 0x0C then 0x20
  else m.targets.foldl (fun c a => c ||| (if isInterlock a then 0 else regClass a)) 0

/-- The interlock holds this command back now. -/
def State.holds (s : State) (m : GspMsg) : Bool :=
  s.flag F.SVC_INTERLOCK_EN && s.svc.moving && !gspReads m.cmd && m.cmd != 0x0F
    && (m.targets.any isInterlock || m.classes &&& s.fld F.SVC_INTERLOCK_CLASSES != 0)

/-- Words of a command that write an HVS_SINK register. -/
def GspMsg.sinkWords (m : GspMsg) : Nat :=
  countIf (fun a => (upTo 4).any fun k => a / 8 * 8 == R.HVS_SINK.at k 0) m.targets

/-- Change entries that a command can produce: one for a change, one where it is voided, and one
more for each HVS_SINK word. -/
def GspMsg.entries (m : GspMsg) : Nat :=
  if gspReads m.cmd ∨ m.cmd = 0x0F then 0
  else if m.cmd = 3 then m.targets.length + m.sinkWords + 1
  else if m.cmd = 6 then m.sinkWords + 2
  else if m.cmd = 0x0C ∨ m.cmd = 0x0D ∨ m.cmd = 0x0E then 1
  else 2

/-! ### A command's place (R394, R403) -/

/-- The command of place `k`: port `k`'s executing one, or the one port `k - 4` holds. -/
def State.cmdOf (s : State) (k : Nat) : Option GspMsg :=
  if k < 4 then (s.port k).executing else (s.port (k - 4)).held

/-- The place is free; a port's waiting command is its next. -/
def freePlace (k : Nat) : Prog :=
  if k < 4 then modPort k fun x => { x with executing := x.waiting, waiting := none }
  else modPort (k - 4) fun x => { x with held := none }

/-- The SVC entry with this port and REQ. -/
def State.svcEntry (s : State) (p req : Nat) : Option Nat :=
  if s.lamp.retUnusable then none
  else (upTo ijSlots).find? fun i => s.ij i 4 1 == 2 && s.ij i 5 1 == p + 1 && s.ij i 0x0C 4 == req

/-- A command of place `k` ends unexecuted with a status. -/
def refuseCmd (k : Nat) (m : GspMsg) (st : Nat) : Prog := Prog.all [
  bump F.SVC_GSP_COUNT_REFUSED,
  if k < 4 then answer k m st
  else modPort (k - 4) fun x => { x with heldResult := some (m.req, st) },
  freePlace k]

/-- A command of place `k` has been executed with a result: its SVC entry is DONE, and it is
answered, but for a held command, whose result RESULT reports. -/
def finishCmd (k : Nat) (m : GspMsg) (st : Nat) (payload : List Byte) : Prog :=
  .look fun s => Prog.all [
    (match s.svcEntry (k % 4) m.req with
     | some i => Prog.when (gspReads m.cmd = false ∧ m.req ≠ 0 ∧ s.ij i 7 1 = 1) (svcDone i st)
     | none => .skip),
    bump F.SVC_GSP_COUNT_DONE,
    Prog.when (k < 4) (answer k m st payload),
    freePlace k]

/-! ### Journaled writes (R398) -/

/-- A change made by the command of place `k`. -/
def State.changeBy (s : State) (k : Nat) (m : GspMsg) (kind target old new len : Nat) : Change :=
  let p := k % 4
  ⟨p + 1, kind, if p < 2 then identWord p (s.fld F.CAN_GSP_ID_ID p) (s.flag F.CAN_GSP_ID_EXT p) else 0,
    target, old, new, len, m.req⟩

/-- The entry that a write of word `w` to a register address calls for: a commit, a write of RW, W1C
or WO bits, or an access that reaches no register block. -/
def State.wordChange (s : State) (k : Nat) (m : GspMsg) (addr w : Nat) : Option Change :=
  match findHit addr with
  | none => match s.place addr with
    | .block _ => none
    | _ => some (s.changeBy k m 1 addr 0 w 4)
  | some h =>
    let a := h.r.at h.i h.j
    if h.comp then (match keyGet s.rwpPend a with
      | some p => if w % 2 ^ 32 = inv32 p then
          some (s.changeBy k m 1 a (s.rawReg h.r h.i h.j) (commitWord s.ident.order h.r p) 4) else none
      | none => none)
    else if h.r.rwp then none
    else if h.r.wo ≠ 0 then some (s.changeBy k m 1 a 0 w 4)
    else if h.r.rw ≠ 0 ∨ h.r.w1c ≠ 0 then
      let old := s.readWord h.r h.i h.j
      some (s.changeBy k m 1 a old (storedWord h.r old w) 4)
    else none

/-- One word of a REG_WRITE: its entry first, then the write, and a VOID entry where the write gets
an error response. -/
def journaledWrite (k : Nat) (m : GspMsg) (addr w : Nat) : Prog :=
  .look fun s => match s.wordChange k m addr w with
    | none => busWrite addr w
    | some c => Prog.all [
        appendChange c,
        busWrite addr w,
        .look fun t => Prog.when (t.bus.ok = false ∧ t.live = true) (appendVoid c s.cjNext)]

/-- The words of a REG_WRITE, in order, up to the first error response. -/
def gspWords (k : Nat) (m : GspMsg) (addr : Nat) (ws : List Nat) (i : Nat) : Prog :=
  match ws with
  | [] => finishCmd k m 0 []
  | w :: t => .seq (journaledWrite k m addr w) (.look fun s =>
      if s.live = false then .skip
      else if s.bus.ok = false then finishCmd k m 4 (leBytes 2 i)
      else gspWords k m (addr + 4) t (i + 1))

/-- Read `n` words from `addr` on, up to the first error response. -/
def readWords (addr n : Nat) (acc : List Byte) (fin : Bool → List Byte → Prog) : Prog :=
  match n with
  | 0 => fin true acc
  | j + 1 => .seq (busRead addr) (.look fun s =>
      if s.bus.ok = false then fin false acc
      else readWords (addr + 4) j (acc ++ leBytes 4 s.bus.data) fin)

/-! ### What the commands do (R396) -/

/-- IDENT. -/
def runIdent (k : Nat) (m : GspMsg) : Prog :=
  .look fun s => finishCmd k m 0 (leBytes 4 (s.rd R.SYS_ID) ++ leBytes 4 (s.readWord R.BOOT_STATUS 0 0)
    ++ leBytes 4 (s.rd R.BOOT_BUILD_LO) ++ leBytes 4 (s.rd R.BOOT_BUILD_HI) ++ leBytes 8 s.lamp.tick
    ++ leBytes 1 (k % 4 + 1) ++ zeros 3)

/-- REG_READ: the words read before an error response come with ACCESS_ERROR. -/
def runRegRead (k : Nat) (m : GspMsg) : Prog :=
  readWords (fieldAt m.payload 0 4) (fieldAt m.payload 4 2) []
    fun ok bs => finishCmd k m (if ok then 0 else 4) bs

/-- REG_WRITE. -/
def runRegWrite (k : Nat) (m : GspMsg) : Prog :=
  gspWords k m (fieldAt m.payload 0 4) (wordsOf (m.payload.length / 4 - 1) (m.payload.drop 4)) 0

/-- MEM_READ: a conflict with a region lock is BUSY; bytes of a poisoned page or granule are returned
as stored with POISONED. -/
def runMemRead (k : Nat) (m : GspMsg) : Prog :=
  let pa := fieldAt m.payload 0 8
  let n := fieldAt m.payload 8 4
  .look fun s =>
    if s.directConflict pa n false then .seq (regionConflict pa) (finishCmd k m 1 [])
    else .seq (readEffects pa n) (.look fun t =>
      finishCmd k m (if (touched 64 pa n).any (fun c => t.poisonedAt (64 * c)) then 0x0E else 0)
        (t.paBytes pa n))

/-- MEM_WRITE. -/
def runMemWrite (k : Nat) (m : GspMsg) : Prog :=
  let pa := fieldAt m.payload 0 8
  let bs := m.payload.drop 8
  .look fun s =>
    let c := s.changeBy k m 2 pa (changeWord (s.paBytes pa bs.length)) (changeWord bs) bs.length
    .seq (appendChange c) <|
      if s.directConflict pa bs.length true then
        Prog.all [regionConflict pa, appendVoid c s.cjNext, finishCmd k m 1 []]
      else if s.rmwErrs pa bs.length ≠ [] then Prog.all [
        (match s.place pa with
         | .plaza _ => Prog.each (s.rmwErrs pa bs.length) fun e => plazaUe false e.word
         | _ => Prog.each (s.rmwErrs pa bs.length) fun e => ddrUe e.word),
        .look fun t => Prog.when (t.live = true) (.seq (appendVoid c s.cjNext) (finishCmd k m 4 []))]
      else .seq (paStore pa bs) (finishCmd k m 0 [])

/-- CONFIG_APPLY: one entry of KIND 3 for the record, then its words as the loader writes them. -/
def runConfigApply (k : Nat) (m : GspMsg) : Prog :=
  let r := confRecAt m.payload 0
  let addr := fieldAt r.payload 0 4
  let n := r.payload.length / 4 - 1
  .look fun s =>
    let c := s.changeBy k m 3 r.recId (changeWord (s.peekBytes addr n)) (changeWord (r.payload.drop 4))
      (4 * n)
    .seq (appendChange c) (writeWords confWritable addr (wordsOf n (r.payload.drop 4)) 0
      (fun i => .seq (appendVoid c s.cjNext) (finishCmd k m 4 (leBytes 2 i)))
      (finishCmd k m 0 []))

/-- The record REC_ID of a CONFIG section with its complement, as bytes. -/
def findRec (fuel : Nat) (b : List Byte) (off id : Nat) : Option (List Byte) :=
  match fuel with
  | 0 => none
  | j + 1 =>
    if confRecWhole b off = false then none
    else
      let r := confRecAt b off
      if r.recId = id then some (slice b off r.size)
      else if r.typ = 0xFF then none
      else findRec j b (off + r.size) id

/-- CONFIG_READ: the record as the running image's CONFIG section in flash holds it. -/
def runConfigRead (k : Nat) (m : GspMsg) : Prog :=
  .look fun s => match s.boot.sects[0]? with
    | none => finishCmd k m 3 []
    | some x =>
      if m.flashOk = false then .seq (bootFault 0x020A) (finishCmd k m 9 [])
      else match findRec (x.length / 24 + 1) (s.sectBytes x 0 x.length) 0 (fieldAt m.payload 0 2) with
        | none => finishCmd k m 3 []
        | some b => if 1024 < b.length then finishCmd k m 3 [] else finishCmd k m 0 b

/-- FLASH_READ. -/
def runFlashRead (k : Nat) (m : GspMsg) : Prog :=
  .look fun s => if m.flashOk = false then .seq (bootFault 0x020A) (finishCmd k m 9 [])
    else finishCmd k m 0 (s.bytes .flash (fieldAt m.payload 0 4) (fieldAt m.payload 4 2))

/-- Flash bytes that FLASH_ERASE or FLASH_PROGRAM changes: offset and length. -/
def GspMsg.flashSpan (m : GspMsg) : Nat × Nat :=
  (fieldAt m.payload 0 4, if m.cmd = 9 then 4096 * fieldAt m.payload 4 2 else m.payload.length - 4)

/-- The change that FLASH_ERASE or FLASH_PROGRAM makes. -/
def State.flashChange (s : State) (k : Nat) (m : GspMsg) : Change :=
  let bs := if m.cmd = 9 then List.replicate m.flashSpan.2 0xFF else m.payload.drop 4
  s.changeBy k m (if m.cmd = 9 then 4 else 5) m.flashSpan.1 0 (changeWord bs) bs.length

/-- FLASH_ERASE and FLASH_PROGRAM: PROTECTED in the persistent area, else the operation starts, and
is answered when it ends. -/
def runFlashChange (k : Nat) (m : GspMsg) : Prog :=
  .look fun s =>
    if spansMeet m.flashSpan (s.boot.persistOff, s.boot.persistLen) then finishCmd k m 5 []
    else .seq (appendChange (s.flashChange k m)) (modBoot fun b => { b with
      flashOp := some ⟨.gsp k, m.cmd == 9, m.flashSpan.1, m.flashSpan.2,
        if m.cmd = 9 then [] else m.payload.drop 4, s.cjNext⟩ })

/-- Entry `n` of the change journal is still held in the retention RAM. -/
def State.entryHeld (s : State) (n : Nat) : Bool :=
  !s.lamp.retUnusable && s.retNum (cjEntry n) 4 == n && decide (s.cjNext ≤ n + 212)

/-- Entry `n` as the journal holds it: from the retention RAM, else from flash. -/
def State.entryBytes (s : State) (n : Nat) : Option (List Byte) :=
  if n = 0 ∨ s.cjNext ≤ n then none
  else if s.entryHeld n then some (s.retBytes (cjEntry n) 48)
  else if s.boot.sects ≠ [] ∧ s.num .flash (s.cjSector n) 4 = 0x4C4E4A43
      ∧ s.num .flash (s.cjFlash n) 4 = n then some (s.bytes .flash (s.cjFlash n) 48)
  else none

/-- JOURNAL_READ reads flash for this command. -/
def State.journalFlash (s : State) (m : GspMsg) : Bool :=
  let first := fieldAt m.payload 1 4
  fieldAt m.payload 0 1 == 1 && (upTo (fieldAt m.payload 5 1)).any fun i =>
    decide (first + i < s.cjNext) && !s.entryHeld (first + i)

/-- JOURNAL_READ: intake ring slots, change entries or snapshot units, as many as there are. An
unusable retention RAM is answered with ACCESS_ERROR (R60; DEDUCED, assumption 124). -/
def runJournalRead (k : Nat) (m : GspMsg) : Prog :=
  let j := fieldAt m.payload 0 1
  let first := fieldAt m.payload 1 4
  let count := fieldAt m.payload 5 1
  let give (n : Nat) (bs : List Byte) : Prog := finishCmd k m 0 (leBytes 4 first ++ leBytes 1 n ++ bs)
  .look fun s =>
    if count = 0 then finishCmd k m 3 []
    else if s.lamp.retUnusable then finishCmd k m 4 []
    else if j = 0 ∧ count ≤ 31 ∧ first < ijSlots then
      let n := min count (ijSlots - first)
      give n (s.retBytes (ijEntry first) (32 * n))
    else if j = 2 ∧ count ≤ 15 ∧ first < 17 then
      let n := min count (17 - first)
      give n (s.retBytes (snapBase + 64 * first) (64 * n))
    else if j = 1 ∧ count ≤ 21 then
      let es := ((upTo count).map fun i => s.entryBytes (first + i)).takeWhile Option.isSome
      if es = [] then finishCmd k m 3 []
      else if s.journalFlash m ∧ m.flashOk = false then .seq (bootFault 0x020A) (finishCmd k m 9 [])
      else give es.length (es.flatMap fun e => e.getD [])
    else finishCmd k m 3 []

/-- RESTART: the change entry, the response, and then the reset. -/
def runRestart (k : Nat) (m : GspMsg) : Prog :=
  .look fun s => Prog.all [
    appendChange (s.changeBy k m 8 0 0 0 0),
    finishCmd k m 0 [],
    warmReset causeCmd]

/-- OTP_KEY. -/
def runOtpKey (k : Nat) (m : GspMsg) : Prog :=
  let slot := fieldAt m.payload 0 1
  let hash := m.payload.drop 1
  .look fun s =>
    if s.otpBlank slot = false then finishCmd k m 0x0A []
    else Prog.all [
      appendChange (s.changeBy k m 6 slot (changeWord (s.otpKey slot)) (changeWord hash) 32),
      store .otp (32 * slot) hash,
      finishCmd k m 0 []]

/-- OTP_REVOKE. -/
def runOtpRevoke (k : Nat) (m : GspMsg) : Prog :=
  let slot := fieldAt m.payload 0 1
  .look fun s =>
    let old := (s.byte .otp 128).toNat
    Prog.all [
      appendChange (s.changeBy k m 7 slot old (old ||| 2 ^ slot) 1),
      store .otp 128 (leBytes 1 (old ||| 2 ^ slot)),
      finishCmd k m 0 []]

/-- INTAKE_EVENT: steps 5 and 6 of Table 13-4, then an EVENT entry with this port. -/
def runIntakeEvent (k : Nat) (m : GspMsg) : Prog :=
  let n := fieldAt m.payload 0 1
  let v := fieldAt m.payload 1 4
  .look fun s =>
    let ok := s.plausible n v && s.rateOk n
    .seq (checkSignal n v (k % 4 + 1) 0 0 .skip .skip) <|
      if ok = false then finishCmd k m 0x0D []
      else if s.ijFree.isSome then finishCmd k m 0 (leBytes 4 s.nextIseq)
      else finishCmd k m 8 []

/-- Status that RESULT reports for a request of port `p`. -/
def State.resultOf (s : State) (p req : Nat) : Nat :=
  let x := s.port p
  if req = 0 then 0x0C
  else if (x.held.map fun h => h.req) = some req then 6
  else match s.svcEntry p req with
    | some i => if s.ij i 7 1 = 1 then 1 else s.ij i 0x14 2 % 256
    | none => match x.heldResult with
      | some (r, st) => if r = req then st else 0x0C
      | none => 0x0C

/-- RESULT. -/
def runResult (k : Nat) (m : GspMsg) : Prog :=
  .look fun s => finishCmd k m 0 (leBytes 1 (s.resultOf (k % 4) (fieldAt m.payload 0 4)))

/-- Execute a command that has passed its gates. -/
def runCmd (k : Nat) (m : GspMsg) : Prog :=
  if m.cmd = 1 then runIdent k m
  else if m.cmd = 2 then runRegRead k m
  else if m.cmd = 3 then runRegWrite k m
  else if m.cmd = 4 then runMemRead k m
  else if m.cmd = 5 then runMemWrite k m
  else if m.cmd = 6 then runConfigApply k m
  else if m.cmd = 7 then runConfigRead k m
  else if m.cmd = 8 then runFlashRead k m
  else if m.cmd = 9 ∨ m.cmd = 0x0A then runFlashChange k m
  else if m.cmd = 0x0B then runJournalRead k m
  else if m.cmd = 0x0C then runRestart k m
  else if m.cmd = 0x0D then runOtpKey k m
  else if m.cmd = 0x0E then runOtpRevoke k m
  else if m.cmd = 0x0F then runIntakeEvent k m
  else runResult k m

/-! ### The gates (R76, R60, R397, R400, R403) -/

/-- From the application of the CONFIG section until the loader settles, commands that write are
answered BUSY. -/
def State.loading (s : State) : Bool := s.svc.portsRun && !s.settled

/-- Commands that R76 rejects meanwhile. -/
def loadingRejects (cmd : Nat) : Bool := [3, 5, 6, 9, 0x0A].contains cmd

/-- Claim an SVC entry for a changing command with a REQ, and execute it; no slot can be freed: it is
answered JOURNAL_FULL. -/
def claimAndRun (k : Nat) (m : GspMsg) : Prog :=
  .look fun s =>
    if gspReads m.cmd ∨ m.req = 0 then runCmd k m
    else match s.ijFree with
      | none => refuseCmd k m 8
      | some i => .seq (ijAdd i 2 (k % 4 + 1) m.cmd 0 m.req 0) (runCmd k m)

/-- A command that is not the repetition of one already claimed. -/
def admitCmd (k : Nat) (m : GspMsg) : Prog :=
  .seq (usePair R.SVC_INTERLOCK) <| .look fun s =>
    if s.holds m then
      (if 4 ≤ k then .skip
       else if m.req = 0 ∨ (s.port k).held.isSome = true then refuseCmd k m 7
       else Prog.all [
         modPort k fun x => { x with held := some m },
         answer k m 6,
         freePlace k])
    else if 196 < s.cjUnmirrored + m.entries then .seq (raise 0x6204 unitHub) (refuseCmd k m 8)
    else claimAndRun k m

/-- The command of place `k` begins. -/
def beginCmd (k : Nat) : Prog :=
  .look fun s => match s.cmdOf k with
    | none => .skip
    | some m =>
      let changing := !gspReads m.cmd
      if m.cmd = 0 ∨ 0x10 < m.cmd then refuseCmd k m 2
      else if m.plain = false ∨ s.argsOk m = false then refuseCmd k m 3
      else if s.loading ∧ loadingRejects m.cmd = true then refuseCmd k m 1
      else if changing ∧ s.lamp.retUnusable = true then refuseCmd k m 1
      else match (if changing && m.req != 0 then s.svcEntry (k % 4) m.req else none) with
        | none => admitCmd k m
        | some i =>
          if s.ij i 7 1 = 1 then refuseCmd k m 1
          else .seq (Prog.when (k < 4) (sendRsp k ⟨m.cmd, m.req, s.ij i 0x14 2 % 256, true, []⟩))
            (freePlace k)

/-! ### The order of execution (R394, R401) -/

/-- A command that needs the flash, which it shares with the mirrors. -/
def State.needsFlash (s : State) (m : GspMsg) : Bool :=
  [7, 8, 9, 0x0A].contains m.cmd || (m.cmd == 0x0B && s.journalFlash m)

/-- A GSP flash operation is in progress: the SVC block executes its command. -/
def State.svcBusy (s : State) : Bool := match s.boot.flashOp with
  | none => false
  | some o => match o.user with
    | .gsp _ => true
    | _ => false

/-- The SVC block takes the next command, once it is free and the flash is idle where the command
needs it; from step 6 of the park sequence it starts no flash operation (R46). -/
def nextCmd : Prog :=
  .look fun s => Prog.when (s.live = true ∧ s.svcBusy = false) <| match s.svc.order with
    | [] => .skip
    | k :: rest => match s.cmdOf k with
      | none => modSvc fun v => { v with order := rest }
      | some m => Prog.when (s.needsFlash m = true →
            s.boot.flashOp = none ∧ s.lamp.parkStep ≠ 6) <|
          .seq (modSvc fun v => { v with order := rest }) (beginCmd k)

/-- The SVC block executes what waits: at most two commands of each port, and those held. -/
def runCmds : Prog := Prog.all (List.replicate 12 nextCmd)

/-- One more command of port `p` within 100 ms. -/
def countCmd (p : Nat) : Prog :=
  .look fun s => modPort p fun x =>
    if x.rateAt + 2500000 ≤ s.time then { x with rateAt := s.time, rateCount := 1 }
    else { x with rateCount := x.rateCount + 1 }

/-- A complete message arrives on port `p`. -/
def arrive (p : Nat) (m : GspMsg) : Prog :=
  .seq (countCmd p) <| .look fun s =>
    let x := s.port p
    if zeroAsOne (s.fld F.SVC_PORTS_RATE) < x.rateCount then Prog.all [
      raiseSecond 0x6203 unitHub,
      bump F.SVC_GSP_COUNT_REFUSED,
      answer p m 1]
    else if x.executing ≠ none ∧ x.waiting ≠ none then .seq (bump F.SVC_GSP_COUNT_REFUSED) (answer p m 1)
    else Prog.all [
      modPort p fun y => if y.executing = none then { y with executing := some m }
        else { y with waiting := some m },
      modSvc fun v => { v with order := v.order ++ [p] },
      runCmds]

/-- Port `p` takes messages: it is open, and its controller is on the bus. -/
def State.portTakes (s : State) (p : Nat) : Bool :=
  s.live && s.portOn p && decide (p < 4) && (decide (2 ≤ p) || s.canOn p)

/-- Port `p` uses the pair that opens it (R19, R460). -/
def usePort (p : Nat) : Prog :=
  if p < 2 then .seq (usePair R.CAN_GSP_ID p) (usePair R.CAN_CTRL p) else usePair R.SVC_PORTS

/-- The bytes of a message on port `p`. -/
def arriveBytes (p : Nat) (bs : List Byte) (flashOk : Bool) : Prog :=
  match parseMsg bs flashOk with
  | none => discardMsg p
  | some m => arrive p m

end Sys2Proof.Machine
end

