-- ==== Sys2Proof/Machine/GspRows.lean ====
section
/-! DEFINITION. The commands of the CAN controllers' reception, of the service ports, of the GSP and
of the flash mirrors (chapter 13), and the time-outs of flash commands (R107). -/

namespace Sys2Proof.Machine

/-! ### Flash operations and the mirrors (R263, R391, R400, R401) -/

/-- What a program or erase leaves in flash: what it was to write, or, where it failed, bytes left
open. -/
def flashOpEffect (o : FlashOp) (ok : Bool) : Prog :=
  .look fun s =>
    if ok = false then .seq (store .flash o.offset (s.freeBytes o.length)) (.act (.draw o.length))
    else if o.erase then flashErase o.offset o.length
    else flashProgram o.offset o.data

/-- A mirror ends: what it carried counts as mirrored, and the other slot or copy is next. -/
def mirrorEnds (j : MirrorJob) : Prog := .seq
  (modSvc fun v => { v with mirror := none })
  (if j.kind = 0 then modSvc fun v => { v with intakeSlotB := !v.intakeSlotB }
   else if j.kind = 1 then retWrite (cjBase + 8) (leBytes 4 (j.upTo + 1))
   else modSvc fun v => { v with retireSlotB := !v.retireSlotB })

/-- A mirror has failed: its fault, and its entries stay in the retention RAM. -/
def mirrorFails (j : MirrorJob) : Prog := Prog.all [
  modSvc fun v => { v with
    mirror := none
    intakeDirty := v.intakeDirty || j.kind == 0
    retireDirty := v.retireDirty || j.kind == 2 },
  raise (if j.kind = 0 then 0x6206 else 0x6205) unitHub]

/-- Who issues a mirror's flash operations. -/
def MirrorJob.user (j : MirrorJob) : FlashUser :=
  if j.kind = 0 then .intakeMirror else if j.kind = 1 then .changeMirror else .retirement

/-- The mirror in progress issues its next erase or program, or ends. -/
def mirrorNext : Prog :=
  .look fun s => Prog.when (s.live = true ∧ s.boot.flashOp = none ∧ s.lamp.parkStep ≠ 6) <|
    match s.svc.mirror with
    | none => .skip
    | some j => match j.rest with
      | [] => mirrorEnds j
      | (off, bs) :: t => .seq
          (modSvc fun v => { v with mirror := some { j with rest := t } })
          (modBoot fun b => { b with
            flashOp := some ⟨j.user, bs == [], off, if bs = [] then 4096 else bs.length, bs, 0⟩ })

/-- Bytes at a flash offset, cut into parts within one 256 B page each. -/
def cutPages (fuel off : Nat) (bs : List Byte) : List (Nat × List Byte) :=
  match fuel with
  | 0 => []
  | k + 1 =>
    if bs = [] then []
    else
      let n := 256 - off % 256
      (off, bs.take n) :: cutPages k (off + n) (bs.drop n)

/-- A mirror may start: the image names the persistent area, the retention RAM is usable, and the
flash is idle. -/
def State.mayMirror (s : State) : Bool :=
  s.live && s.settled && s.boot.sects != [] && s.boot.persistLen != 0 && !s.lamp.retUnusable
    && s.svc.mirror.isNone && s.boot.flashOp.isNone && s.boot.repairs == [] && s.lamp.parkStep != 6

/-- Start a mirror. -/
def startMirror (kind last : Nat) (parts : List (Nat × List Byte)) : Prog := .seq
  (modSvc fun v => { v with mirror := some ⟨kind, last, parts⟩ }) mirrorNext

/-- INTAKE_MIRROR: the intake region, with its next MIRROR_SEQ and its CRC. -/
def execIntakeMirror (s : State) : Host.Outcome State Fault Refusal :=
  let at_ := s.boot.persistOff + if s.svc.intakeSlotB then 0x3000 else 0
  Prog.outcome (Prog.when (s.mayMirror = true ∧ s.svc.intakeDirty = true) <| Prog.all [
    retWrite (ijBase + 4) (leBytes 4 (s.retNum (ijBase + 4) 4 + 1)),
    retWrite (ijBase + 8) (leBytes 4 (crc32 (s.ijRegion.drop 12))),
    modSvc fun v => { v with intakeDirty := false },
    .look fun t => startMirror 0 0
      ([(at_, []), (at_ + 4096, []), (at_ + 8192, [])] ++ cutPages 48 at_ t.ijRegion)]) s

/-- CHANGE_JOURNAL_MIRROR: the first entry not yet mirrored, after the erase and the header of its
sector where it opens one. -/
def execChangeJournalMirror (s : State) : Host.Outcome State Fault Refusal :=
  let n := s.cjFirst
  let head := if (n - 1) % 85 = 0 then [(s.cjSector n, []), (s.cjSector n, cjHeader n)] else []
  Prog.outcome (Prog.when (s.mayMirror = true ∧ s.cjUnmirrored ≠ 0)
    (startMirror 1 n (head ++ cutPages 2 (s.cjFlash n) (s.retBytes (cjEntry n) 48)))) s

/-- RETIREMENT_MIRROR: the retirement block, to the copy whose turn it is. -/
def execRetirementMirror (s : State) : Host.Outcome State Fault Refusal :=
  let at_ := s.boot.persistOff + if s.svc.retireSlotB then 0x7000 else 0x6000
  Prog.outcome (Prog.when (s.mayMirror = true ∧ s.svc.retireDirty = true) <| .seq
    (modSvc fun v => { v with retireDirty := false })
    (startMirror 2 0 ((at_, []) :: cutPages 2 at_ (s.retBytes 0x0400 512)))) s

/-- The GSP flash operation of place `k` ends, and its command is answered. -/
def endGspFlash (k : Nat) (o : FlashOp) (ok : Bool) : Prog := Prog.all [
  modBoot fun b => { b with flashOp := none, flashRetries := 0 },
  flashOpEffect o ok,
  .look fun s => match s.cmdOf k with
    | none => .skip
    | some m =>
      if ok then finishCmd k m 0 []
      else .seq (appendVoid (s.flashChange k m) o.entry) (finishCmd k m 9 []),
  runCmds,
  mirrorNext]

/-- A mirror's erase or program ends; a GSP flash command that waits goes before the next. -/
def endMirrorFlash (o : FlashOp) (ok : Bool) : Prog := Prog.all [
  modBoot fun b => { b with flashOp := none, flashRetries := 0 },
  flashOpEffect o ok,
  .look fun s => match s.svc.mirror with
    | none => .skip
    | some j => Prog.when (ok = false) (mirrorFails j),
  runCmds,
  mirrorNext]

/-- FLASH_OPERATION_DONE: a GSP erase or program ends, successfully or not. -/
def execFlashOperationDone (ok : Bool) (s : State) : Host.Outcome State Fault Refusal :=
  Prog.outcome (match s.boot.flashOp with
    | none => .skip
    | some o => match o.user with
      | .gsp k => endGspFlash k o ok
      | _ => .skip) s

/-- MIRROR_OPERATION_DONE: an erase or program of a mirror ends, successfully or not. -/
def execMirrorOperationDone (ok : Bool) (s : State) : Host.Outcome State Fault Refusal :=
  Prog.outcome (match s.boot.flashOp with
    | none => .skip
    | some o => match o.user with
      | .gsp _ => .skip
      | _ => endMirrorFlash o ok) s

/-- A flash command has had no response after its retries (R107). -/
def flashTimesOut (i : Nat) : Prog :=
  .look fun s => match s.boot.flashOp with
    | some o => .seq (bootFault 0x020A) (match o.user with
        | .gsp k => endGspFlash k o false
        | _ => endMirrorFlash o false)
    | none =>
      if s.boot.phase = 1 ∨ s.boot.phase = 2 then .seq (bootFault 0x020A) imageFails
      else match s.boot.repairs, s.boot.sects[i]? with
        | r :: _, _ => match s.boot.sects[r.sect]? with
            | none => .skip
            | some x => .seq (bootFault 0x020A x.sectId) (repairFails x)
        | [], some x => Prog.when (s.sectWanted x = true) (sectFails i x 0x020A)
        | [], none => .skip

/-- FLASH_COMMAND_TIMEOUT: a flash command had no response within 10 ms; it is retried 3 times. `i`:
the section that is being read, where one is. -/
def execFlashCommandTimeout (i : Nat) (s : State) : Host.Outcome State Fault Refusal :=
  Prog.outcome (Prog.when (s.live = true) <|
    if s.boot.flashRetries < 3 then modBoot fun b => { b with flashRetries := b.flashRetries + 1 }
    else .seq (modBoot fun b => { b with flashRetries := 0 }) (flashTimesOut i)) s

/-! ### CAN reception (R379, R380, R382, R392) -/

/-- A segment of a request on controller `c`. -/
def gspSegment (c : Nat) (data : List Byte) (flashOk : Bool) : Prog :=
  .look fun s => match data with
    | [] => .skip
    | h :: body =>
      let head := h.toNat
      let was := if bitN head 7 = 1 then some ([], 0) else (s.port c).rx
      match was with
      | none => .skip
      | some (got, next) =>
        if head % 64 ≠ next then modPort c fun x => { x with rx := none }
        else if bitN head 6 = 1 then .seq (modPort c fun x => { x with rx := none })
          (arriveBytes c (got ++ body) flashOk)
        else modPort c fun x => { x with rx := some (got ++ body, (next + 1) % 64) }

/-- The frame carries controller `c`'s enabled request identifier. -/
def State.isGspFrame (s : State) (c ident : Nat) (ext : Bool) : Bool :=
  s.flag F.CAN_GSP_ID_EN c && s.fld F.CAN_GSP_ID_ID c == ident % 2 ^ 29
    && s.flag F.CAN_GSP_ID_EXT c == ext

/-- CAN_FRAME_RECEIVED: controller `c` has received a frame. -/
def execCanFrameReceived (c ident : Nat) (ext remote : Bool) (data : List Byte) (flashOk : Bool)
    (s : State) : Host.Outcome State Fault Refusal :=
  let rs := s.recordsOf (identWord c ident ext)
  Prog.outcome (Prog.when (c < 2 ∧ s.live = true ∧ s.canOn c = true) <| .seq (usePort c) <| .seq
    (bump F.CAN_RX_COUNT_FRAMES 1 c)
    (if remote then bump F.CAN_RX_COUNT_IGNORED 1 c
     else if s.isGspFrame c ident ext then
       Prog.when (s.svc.portsRun = true) (gspSegment c data flashOk)
     else if s.svc.intakeRun = false ∨ s.lamp.retUnusable = true ∨ rs = [] then
       bump F.CAN_RX_COUNT_IGNORED 1 c
     else intakeFrame c ident ext data rs)) s

/-- GSP_SEGMENT_TIMEOUT: the incomplete message of controller `c` is discarded. -/
def execGspSegmentTimeout (c : Nat) (s : State) : Host.Outcome State Fault Refusal :=
  Prog.outcome (Prog.when (c < 2) (modPort c fun x => { x with rx := none })) s

/-! ### The service UART and SPI (R392, R393) -/

/-- UART_GAP_TIMEOUT: the incomplete message on the UART is discarded. The model takes a UART
message when it is complete (assumption 52), so nothing else is held of it. -/
def execUartGapTimeout (s : State) : Host.Outcome State Fault Refusal :=
  Prog.outcome (modPort 2 fun x => { x with rx := none }) s

/-- UART_MESSAGE_DISCARD. -/
def execUartMessageDiscard (s : State) : Host.Outcome State Fault Refusal :=
  Prog.outcome (.seq (usePort 2) <| Prog.when (s.portTakes 2 = true) (discardMsg 2)) s

/-- SPI_WRITE: one transaction's bytes after the operation byte. -/
def execSpiWrite (bytes : List Byte) (flashOk : Bool) (s : State) : Host.Outcome State Fault Refusal :=
  Prog.outcome (.seq (usePort 3) <| Prog.when (s.portTakes 3 = true) (arriveBytes 3 bytes flashOk)) s

/-- SPI_READ: the transaction clocks out a length and the response, here as a little-endian number,
and the response is removed. -/
def execSpiRead (s : State) : Host.Outcome State Fault Refusal :=
  Prog.outcome (.seq (usePort 3) <| Prog.when (s.portTakes 3 = true) <| match (s.port 3).ready with
    | [] => respond 0
    | r :: rest => .seq (respond (leNat (leBytes 2 r.bytes.length ++ r.bytes)))
        (modPort 3 fun x => { x with ready := rest })) s

/-- SPI_STATUS: a command executes, a response is ready. -/
def execSpiStatus (s : State) : Host.Outcome State Fault Refusal :=
  Prog.outcome (.seq (usePort 3) <| Prog.when (s.portTakes 3 = true)
    (respond (bit 0 (s.port 3).executing.isSome + bit 1 ((s.port 3).ready != [])))) s

/-! ### GSP commands (Table 13-9): `p`: port, `req`: REQ, `payload`: the payload's bytes -/

/-- A well-formed message arrives on port `p`. -/
def gspRow (p : Nat) (m : GspMsg) : Prog :=
  .seq (Prog.when (p < 4) (usePort p)) <| .look fun s => Prog.when (s.portTakes p = true) (arrive p m)

def execGspIdent (p req : Nat) (payload : List Byte) (s : State) : Host.Outcome State Fault Refusal :=
  Prog.outcome (gspRow p ⟨1, req % 2 ^ 32, payload, true, true⟩) s

def execGspRegRead (p req : Nat) (payload : List Byte) (s : State) : Host.Outcome State Fault Refusal :=
  Prog.outcome (gspRow p ⟨2, req % 2 ^ 32, payload, true, true⟩) s

def execGspRegWrite (p req : Nat) (payload : List Byte) (s : State) : Host.Outcome State Fault Refusal :=
  Prog.outcome (gspRow p ⟨3, req % 2 ^ 32, payload, true, true⟩) s

def execGspMemRead (p req : Nat) (payload : List Byte) (s : State) : Host.Outcome State Fault Refusal :=
  Prog.outcome (gspRow p ⟨4, req % 2 ^ 32, payload, true, true⟩) s

def execGspMemWrite (p req : Nat) (payload : List Byte) (s : State) : Host.Outcome State Fault Refusal :=
  Prog.outcome (gspRow p ⟨5, req % 2 ^ 32, payload, true, true⟩) s

def execGspConfigApply (p req : Nat) (payload : List Byte) (s : State) :
    Host.Outcome State Fault Refusal :=
  Prog.outcome (gspRow p ⟨6, req % 2 ^ 32, payload, true, true⟩) s

/-- `flashOk`: the flash answers the command's reads. -/
def execGspConfigRead (p req : Nat) (payload : List Byte) (flashOk : Bool) (s : State) :
    Host.Outcome State Fault Refusal :=
  Prog.outcome (gspRow p ⟨7, req % 2 ^ 32, payload, true, flashOk⟩) s

/-- `flashOk`: the flash answers the command's reads. -/
def execGspFlashRead (p req : Nat) (payload : List Byte) (flashOk : Bool) (s : State) :
    Host.Outcome State Fault Refusal :=
  Prog.outcome (gspRow p ⟨8, req % 2 ^ 32, payload, true, flashOk⟩) s

def execGspFlashErase (p req : Nat) (payload : List Byte) (s : State) :
    Host.Outcome State Fault Refusal :=
  Prog.outcome (gspRow p ⟨9, req % 2 ^ 32, payload, true, true⟩) s

def execGspFlashProgram (p req : Nat) (payload : List Byte) (s : State) :
    Host.Outcome State Fault Refusal :=
  Prog.outcome (gspRow p ⟨0x0A, req % 2 ^ 32, payload, true, true⟩) s

/-- `flashOk`: the flash answers the command's reads. -/
def execGspJournalRead (p req : Nat) (payload : List Byte) (flashOk : Bool) (s : State) :
    Host.Outcome State Fault Refusal :=
  Prog.outcome (gspRow p ⟨0x0B, req % 2 ^ 32, payload, true, flashOk⟩) s

def execGspRestart (p req : Nat) (payload : List Byte) (s : State) : Host.Outcome State Fault Refusal :=
  Prog.outcome (gspRow p ⟨0x0C, req % 2 ^ 32, payload, true, true⟩) s

def execGspOtpKey (p req : Nat) (payload : List Byte) (s : State) : Host.Outcome State Fault Refusal :=
  Prog.outcome (gspRow p ⟨0x0D, req % 2 ^ 32, payload, true, true⟩) s

def execGspOtpRevoke (p req : Nat) (payload : List Byte) (s : State) :
    Host.Outcome State Fault Refusal :=
  Prog.outcome (gspRow p ⟨0x0E, req % 2 ^ 32, payload, true, true⟩) s

def execGspIntakeEvent (p req : Nat) (payload : List Byte) (s : State) :
    Host.Outcome State Fault Refusal :=
  Prog.outcome (gspRow p ⟨0x0F, req % 2 ^ 32, payload, true, true⟩) s

def execGspResult (p req : Nat) (payload : List Byte) (s : State) : Host.Outcome State Fault Refusal :=
  Prog.outcome (gspRow p ⟨0x10, req % 2 ^ 32, payload, true, true⟩) s

/-- GSP_BAD_CMD: a message whose CMD Table 13-9 does not name. -/
def execGspBadCmd (p cmd req : Nat) (payload : List Byte) (s : State) :
    Host.Outcome State Fault Refusal :=
  Prog.outcome (Prog.when (cmd = 0 ∨ (0x10 < cmd ∧ cmd < 256))
    (gspRow p ⟨cmd, req % 2 ^ 32, payload, true, true⟩)) s

/-! ### The interlock and the ports -/

/-- VEHICLE_STATIONARY: the speed signal has read 0 for HOLD_S; held commands execute. -/
def execVehicleStationary (s : State) : Host.Outcome State Fault Refusal :=
  Prog.outcome (Prog.when (s.live = true ∧ s.svc.moving = true ∧ s.svc.zeroSince.isSome = true) <|
    Prog.all [
      modSvc fun v => { v with
        moving := false
        order := v.order ++ ((upTo 4).filter fun p => (s.port p).held.isSome).map (· + 4) },
      ijWrite (snapBase + 0x0C) [0],
      runCmds]) s

/-- SERVICE_PORT_DISABLE: port `p`'s enable bit is cleared by a commit. -/
def execServicePortDisable (p : Nat) (s : State) : Host.Outcome State Fault Refusal :=
  Prog.outcome (Prog.when (p < 4 ∧ s.live = true) <|
    if p < 2 then portCommit R.CAN_GSP_ID p (setBits (s.rd R.CAN_GSP_ID p) 31 31 0)
    else portCommit R.SVC_PORTS 0 (setBits (s.rd R.SVC_PORTS) (p - 2) (p - 2) 0)) s

end Sys2Proof.Machine
end

