-- ==== Sys2Proof/Machine/BridgeRows.lean ====
section
/-! DEFINITION. The commands of the Bridge link: packets received, the link's own timers and
events, and what software asks of it (chapter 14). -/

namespace Sys2Proof.Machine

/-- Data flits of `n` bytes. -/
def dataFlits (n : Nat) : Nat := (n + 31) / 32

/-! ### HELLO and the link's states (R412 to R414) -/

/-- A primary that waits for its partner before its hand-over. -/
def State.awaitsPartner (s : State) : Bool :=
  s.boot.phase == 5 && ((s.profile s.boot.choosing).map fun p => p.chips == 2 && p.role == 1).getD false

/-- The link enters LOAD: a session begins, and a primary sends the image. -/
def enterLoad (epoch : Nat) : Prog := Prog.all [
  newSession,
  takeEpoch epoch,
  setLink 3,
  .look fun s => Prog.when (s.localRole = 1) sendImage]

/-- The partner is refused, with the reasons BRG_STATUS shows. -/
def refuseHello (part same build : Bool) : Prog := .seq
  (modBrg fun b => { b with link := 6, partDiff := part, sameRole := same, buildDiff := build })
  (raise 0x700B unitBrg)

/-- A HELLO is checked: PART, the roles, and then what each chip is doing. -/
def checkHello (part role : Nat) (booting : Bool) (build epoch : Nat) : Prog :=
  .look fun s =>
    let opposite := (s.localRole == 1 && role == 2) || (s.localRole == 2 && role == 1)
    let clear := modBrg fun b => { b with partDiff := false, sameRole := false, buildDiff := false }
    if part ≠ 0x480 ∨ opposite = false then refuseHello (part != 0x480) (!opposite) false
    else if booting ∧ s.awaitsPartner then .seq clear (enterLoad epoch)
    else if booting ∧ s.localRole = 1 ∧ s.boot.handedOver = true then .skip
    else if s.boot.overBridge ∧ s.boot.phase = 9 then .seq clear (enterLoad epoch)
    else if build = s.boot.buildId then Prog.all [
      clear,
      newSession,
      takeEpoch epoch,
      enterUp,
      loaderProgress]
    else refuseHello false false true

/-- BRIDGE_HELLO. -/
def execBridgeHello (part role : Nat) (booting : Bool) (build epoch : Nat) (s : State) :
    Host.Outcome State Fault Refusal :=
  Prog.outcome (Prog.when ((s.brg.link = 2 ∨ s.brg.link = 6) ∧ s.brg.dead = false) <| Prog.all [
    modBrg fun b => { b with partnerRole := role % 4, partnerBooting := booting },
    setReg R.BRG_PARTNER_BUILD_LO (build % 2 ^ 32),
    setReg R.BRG_PARTNER_BUILD_HI (build / 2 ^ 32 % 2 ^ 32),
    checkHello part role booting build epoch]) s

/-- BRIDGE_IDLE: a flit that carries only its sideband. -/
def execBridgeIdle (d : Side) (s : State) : Host.Outcome State Fault Refusal :=
  Prog.outcome (Prog.when (s.brg.session = true) (takeSide d)) s

/-- BRIDGE_HEART: the partner is there; its power state and tick are not kept. -/
def execBridgeHeart (d : Side) (s : State) : Host.Outcome State Fault Refusal :=
  Prog.outcome (Prog.when (s.brg.session = true) (takeSide d)) s

/-- BRIDGE_HELLO_SEND. -/
def execBridgeHelloSend (s : State) : Host.Outcome State Fault Refusal :=
  Prog.outcome (Prog.when (s.brg.link = 2 ∨ s.brg.link = 6) (sendFree s.helloPkt)) s

/-- BRIDGE_HEART_SEND. -/
def execBridgeHeartSend (s : State) : Host.Outcome State Fault Refusal :=
  Prog.outcome (Prog.when (s.brg.session = true) (sendFree s.heartPkt)) s

/-- BRIDGE_TRAIN_DONE: block lock and deskew are complete, on two lanes or on one. -/
def execBridgeTrainDone (two : Bool) (s : State) : Host.Outcome State Fault Refusal :=
  let one := !two || s.flag F.BRG_CTRL_ONE_LANE_ONLY
  Prog.outcome (Prog.when (s.brg.link = 1 ∧ s.brg.dead = false
      ∧ bitN (s.fld F.SYS_PLL_STATUS_LOCK) 8 = 1) <| .seq
    (modBrg fun b => { b with link := 2, oneLane := one })
    (Prog.when (one = true) (raise 0x7003 unitBrg))) s

/-- BRIDGE_TRAIN_TIMEOUT: the link trains again. -/
def execBridgeTrainTimeout (s : State) : Host.Outcome State Fault Refusal :=
  Prog.outcome (Prog.when (s.brg.link = 1) (modBrg fun b => { b with oneLane := false })) s

/-- BRIDGE_LANE_LOCK_LOSS: lane `n` loses block lock. -/
def execBridgeLaneLockLoss (n : Nat) (s : State) : Host.Outcome State Fault Refusal :=
  Prog.outcome (Prog.when (n < 2 ∧ (s.brg.link = 3 ∨ s.brg.link = 4)) <| .seq
    (modBrg fun b => { b with lanesLost := b.lanesLost ++ [n] }) enterRetrain) s

/-- BRIDGE_RETRAIN_DONE: lanes 0 and 1 have block lock again, or not; a lane that does not is
dropped. -/
def execBridgeRetrainDone (lane0 lane1 : Bool) (s : State) : Host.Outcome State Fault Refusal :=
  let lost := !(lane0 && lane1)
  Prog.outcome (Prog.when (s.brg.link = 5 ∧ (lane0 || lane1) = true) <| .seq
    (modBrg fun b => ({ b with
      link := b.retrainFrom
      lanesLost := []
      oneLane := b.oneLane || lost
      episodes := 0 }).pump (b.queue.length + 1))
    (Prog.when (lost = true ∧ s.brg.oneLane = false) (raise 0x7003 unitBrg))) s

/-- BRIDGE_PARTNER_TIMEOUT: 100 µs have passed without a valid HEART or HELLO. -/
def execBridgePartnerTimeout (s : State) : Host.Outcome State Fault Refusal :=
  Prog.outcome (Prog.when (s.brg.session = true) declareAbsent) s

/-! ### Remote accesses (R416 to R423) -/

/-- BRIDGE_WRITE: `data` for partner address `addr`. -/
def execBridgeWrite (d : Side) (tag addr : Nat) (data : List Byte) (s : State) :
    Host.Outcome State Fault Refusal :=
  Prog.outcome (receive d (1 + dataFlits data.length) (serveWrite tag addr data)) s

/-- BRIDGE_WACK. -/
def execBridgeWack (d : Side) (tag status : Nat) (s : State) : Host.Outcome State Fault Refusal :=
  Prog.outcome (receive d 1 (if status ≤ 7 then takeWack tag status else malformed)) s

/-- BRIDGE_READ. -/
def execBridgeRead (d : Side) (tag addr len : Nat) (s : State) : Host.Outcome State Fault Refusal :=
  Prog.outcome (receive d 1 (serveRead tag addr len)) s

/-- BRIDGE_RDATA. -/
def execBridgeRdata (d : Side) (tag status : Nat) (data : List Byte) (s : State) :
    Host.Outcome State Fault Refusal :=
  Prog.outcome (receive d (1 + dataFlits data.length)
    (if status ≤ 7 then takeRdata tag status data else malformed)) s

/-- A SIGNAL sets its import crossing, within the rate. -/
def takeSignal (index flags v : Nat) : Prog :=
  if 8 ≤ index ∨ 2 ≤ flags then malformed
  else .seq (countRequest true) <| .seq (useRegs [R.BRG_MBX_RATE, R.BRG_XSIG]) <| .look fun s =>
    if s.mbxRate < s.brg.winSigs then countRefusal 2
    else Prog.when (s.flag F.BRG_XSIG_EN = true)
      (deviceSet ((s.fld F.BRG_XSIG_IMPORT_BASE + index) % 1024) (v % 2 ^ 32) (flags == 1))

/-- BRIDGE_SIGNAL. -/
def execBridgeSignal (d : Side) (index flags v : Nat) (s : State) : Host.Outcome State Fault Refusal :=
  Prog.outcome (receive d 1 (takeSignal index flags v)) s

/-- BRIDGE_TOKEN_EXPIRE: the Bridge token of open-stop slot `i` expires. -/
def execBridgeTokenExpire (i : Nat) (s : State) : Host.Outcome State Fault Refusal :=
  Prog.outcome (Prog.when (i < 64 ∧ (keyGet s.leases (192 + i)).isSome = true) (revokeToken i)) s

/-! ### Reset requests (R57, R431) -/

/-- A RESET_REQ: honoured by a secondary over an up link, at most once per second. -/
def takeResetReq (magic : Nat) : Prog :=
  .look fun s =>
    let early := (s.brg.resetAt.map fun t => decide (s.time < t + 25000000)).getD false
    if magic ≠ 0x54535252 then malformed
    else if s.localRole = 2 ∧ s.brg.link = 4 ∧ early = false then Prog.all [
      appendChange ⟨6, 8, 0, 0, 0, 0, 0, 0⟩,
      bump F.BRG_RESET_REQ_COUNT_HONOURED,
      modBrg fun b => { b with resetAt := some s.time },
      warmReset causeBridge]
    else .seq (bump F.BRG_RESET_REQ_COUNT_IGNORED) (raiseSecond 0x7009 unitBrg)

/-- BRIDGE_RESET_REQ. -/
def execBridgeResetReq (d : Side) (magic : Nat) (s : State) : Host.Outcome State Fault Refusal :=
  Prog.outcome (receive d 1 (takeResetReq magic)) s

/-- RESET_PARTNER: 0x52 is written to BRG_CMD. -/
def execResetPartner (s : State) : Host.Outcome State Fault Refusal :=
  Prog.outcome (Prog.when (s.live = true) (.seq (respond 0) (brgCommand 0x52))) s

/-! ### Image forwarding (R428, R429) -/

/-- An interval joined into a list of intervals of (start, bytes). -/
def addRange (off n : Nat) (l : List (Nat × Nat)) : List (Nat × Nat) :=
  let near (r : Nat × Nat) : Bool := decide (r.1 ≤ off + n) && decide (off ≤ r.1 + r.2)
  let mine := l.filter near
  let lo := mine.foldl (fun m r => min m r.1) off
  let hi := mine.foldl (fun m r => max m (r.1 + r.2)) (off + n)
  (lo, hi - lo) :: l.filter fun r => !near r

/-- IMAGE bytes reach a Bridge-booting secondary; the first end its wait. -/
def takeImage (off : Nat) (data : List Byte) : Prog :=
  let n := data.length
  .look fun s =>
    if off % 32 ≠ 0 ∨ n = 0 ∨ 256 < n ∨ off / 256 ≠ (off + n - 1) / 256 ∨ 2 ^ 32 ≤ off then malformed
    else Prog.when (s.boot.overBridge = true ∧ s.brg.link = 3) <| Prog.all [
      store .img off data,
      modBrg fun b => { b with imgGot := addRange off n b.imgGot },
      Prog.when (s.boot.phase = 9) (modBoot fun b => { b with phase := 1 })]

/-- BRIDGE_IMAGE. -/
def execBridgeImage (d : Side) (off : Nat) (data : List Byte) (s : State) :
    Host.Outcome State Fault Refusal :=
  Prog.outcome (receive d (1 + dataFlits data.length) (takeImage off data)) s

/-- BRIDGE_IMAGE_END. -/
def execBridgeImageEnd (d : Side) (len : Nat) (s : State) : Host.Outcome State Fault Refusal :=
  Prog.outcome (receive d 1 (Prog.when (s.boot.overBridge = true ∧ s.brg.link = 3)
    (modBrg fun b => { b with imgEnd := some len }))) s

/-- A section is asked for again: sent once more, the second time only counted by its fault. -/
def takeImageNak (sectId : Nat) : Prog :=
  .look fun s => Prog.when (s.localRole = 1 ∧ s.boot.handedOver = false) <|
    if s.brg.resent.contains sectId then raise 0x700C unitBrg
    else match s.boot.sects.find? fun x => x.sectId == sectId && bitN x.roles 2 == 1 && x.kind != 3 with
      | none => .skip
      | some x => .seq (modBrg fun b => { b with resent := sectId :: b.resent }) (sendSection x)

/-- BRIDGE_IMAGE_NAK. -/
def execBridgeImageNak (d : Side) (sectId : Nat) (s : State) : Host.Outcome State Fault Refusal :=
  Prog.outcome (receive d 1 (takeImageNak sectId)) s

/-- The secondary's load has ended: the link goes back to HELLO. -/
def takeImageDone (status : Nat) : Prog :=
  .look fun s => if 2 ≤ status then malformed
    else Prog.when (s.localRole = 1 ∧ s.brg.link = 3) <| Prog.all [
      modBrg fun b => { b with doneStatus := some status, link := 2 },
      .look fun t => sendFree t.helloPkt]

/-- BRIDGE_IMAGE_DONE. -/
def execBridgeImageDone (d : Side) (status : Nat) (s : State) : Host.Outcome State Fault Refusal :=
  Prog.outcome (receive d 1 (takeImageDone status)) s

/-- IMAGE_RESEND_TIMEOUT: the second copy of section `i` has not come within 1 s. -/
def execImageResendTimeout (i : Nat) (s : State) : Host.Outcome State Fault Refusal :=
  Prog.outcome (match s.boot.sects[i]? with
    | none => .skip
    | some x => Prog.when (s.boot.overBridge = true ∧ x.state = 1
        ∧ s.brg.naked.contains x.sectId = true ∧ s.imgHas x.offset x.length = false)
        (sectFails i x 0x0204)) s

/-! ### Discards and replays (R409, R410) -/

/-- BRIDGE_NAK: a flit with NAK set, whose ACK names the last flit accepted. -/
def execBridgeNak (d : Side) (s : State) : Host.Outcome State Fault Refusal :=
  Prog.outcome (Prog.when (s.brg.session = true) (takeSide { d with nak := true })) s

/-- BRIDGE_REPLAY_TIMEOUT. -/
def execBridgeReplayTimeout (s : State) : Host.Outcome State Fault Refusal :=
  Prog.outcome (Prog.when (s.brg.link = 3 ∨ s.brg.link = 4) replayFlits) s

/-- BRIDGE_FLIT_DISCARD: a flit fails its CRC, its reserved bits or its SEQ. -/
def execBridgeFlitDiscard (s : State) : Host.Outcome State Fault Refusal :=
  Prog.outcome discardFlit s

/-- A malformed packet's effect: a WRITE or READ is answered ERROR. -/
def malformedPacket (typ tag : Nat) : Prog := .seq malformed
  (if typ = 3 then sendWack tag 7 else if typ = 5 then sendRdata tag 7 [] else .skip)

/-- BRIDGE_MALFORMED_PACKET: of type `typ` in `flits` flits; `sequenced`: they carry a SEQ. -/
def execBridgeMalformedPacket (d : Side) (sequenced : Bool) (flits typ tag : Nat) (s : State) :
    Host.Outcome State Fault Refusal :=
  Prog.outcome (if sequenced then receive d (max 1 flits) (malformedPacket typ tag)
    else Prog.when (s.brg.link ≠ 0 ∧ s.brg.link ≠ 1 ∧ s.brg.link ≠ 7) malformed) s

/-! ### Timers of pairing, and the disabling of the link (R425, R427, R460) -/

/-- BRIDGE_WAIT_EXPIRE: the primary's wait for its partner is over. -/
def execBridgeWaitExpire (s : State) : Host.Outcome State Fault Refusal :=
  Prog.outcome (match s.profile s.boot.choosing with
    | none => .skip
    | some p => Prog.when (s.boot.phase = 5 ∧ s.brg.waitOver = false ∧ s.partnerReady p = false) <|
        Prog.all [
          raise 0x7004 unitBrg,
          modBrg fun b => { b with waitOver := true },
          handOverWhenReady]) s

/-- FOLLOW_RESET_TIMER: 100 ms after a secondary has declared its primary absent. -/
def execFollowResetTimer (s : State) : Host.Outcome State Fault Refusal :=
  Prog.outcome (Prog.when (s.localRole = 2 ∧ s.brg.link = 7 ∧ s.flag F.BRG_CTRL_FOLLOW = true)
    (warmReset causeBridge)) s

/-- BRIDGE_DISABLE: BRG_CTRL.EN is cleared by a commit. -/
def execBridgeDisable (s : State) : Host.Outcome State Fault Refusal :=
  Prog.outcome (Prog.when (s.live = true) (brgCtrlCommit (setBits (s.rd R.BRG_CTRL) 0 0 0))) s

end Sys2Proof.Machine
end

