-- ==== Sys2Proof/Machine/Dispatch.lean ====
section
/-! DEFINITION. Which meaning each command has. -/

namespace Sys2Proof.Machine

def exec (i : Instr) (s : State) : Host.Outcome State Fault Refusal :=
  match i with
  | .porAssert => Sys2Proof.Machine.execPorAssert s
  | .porRelease vhvLow => Sys2Proof.Machine.execPorRelease vhvLow s
  | .x32CrystalLock => Sys2Proof.Machine.execX32CrystalLock s
  | .x32EdgeMissed => Sys2Proof.Machine.execX32EdgeMissed s
  | .x32Fail => Sys2Proof.Machine.execX32Fail s
  | .x32EdgeReturn => Sys2Proof.Machine.execX32EdgeReturn s
  | .refStartTimeout => Sys2Proof.Machine.execRefStartTimeout s
  | .refCountFail => Sys2Proof.Machine.execRefCountFail s
  | .pllLocked p => Sys2Proof.Machine.execPllLocked p s
  | .sysPllLossOfLock => Sys2Proof.Machine.execSysPllLossOfLock s
  | .pllLossOfLock p => Sys2Proof.Machine.execPllLossOfLock p s
  | .wakeInputEdge src level => Sys2Proof.Machine.execWakeInputEdge src level s
  | .wakeFilterElapsed src => Sys2Proof.Machine.execWakeFilterElapsed src s
  | .timerAlarm => Sys2Proof.Machine.execTimerAlarm s
  | .pwrGoodRise straps => Sys2Proof.Machine.execPwrGoodRise straps s
  | .pwrGoodTimeout => Sys2Proof.Machine.execPwrGoodTimeout s
  | .selfTestDone ok temps => Sys2Proof.Machine.execSelfTestDone ok temps s
  | .wakingRetry => Sys2Proof.Machine.execWakingRetry s
  | .pwrReqRunning drain => Sys2Proof.Machine.execPwrReqRunning drain s
  | .pwrReqQuiet drain => Sys2Proof.Machine.execPwrReqQuiet drain s
  | .pwrReqParked drain => Sys2Proof.Machine.execPwrReqParked drain s
  | .ignOffDelayExpire => Sys2Proof.Machine.execIgnOffDelayExpire s
  | .quietTimeout => Sys2Proof.Machine.execQuietTimeout s
  | .parkDrainEnd => Sys2Proof.Machine.execParkDrainEnd s
  | .parkPowerOff => Sys2Proof.Machine.execParkPowerOff s
  | .latchedWakeStart => Sys2Proof.Machine.execLatchedWakeStart s
  | .unitClockStarted u => Sys2Proof.Machine.execUnitClockStarted u s
  | .autoGateIdle u => Sys2Proof.Machine.execAutoGateIdle u s
  | .resetNAssert => Sys2Proof.Machine.execResetNAssert s
  | .resetNRelease straps => Sys2Proof.Machine.execResetNRelease straps s
  | .warmResetCommand => Sys2Proof.Machine.execWarmResetCommand s
  | .pwrGoodFall => Sys2Proof.Machine.execPwrGoodFall s
  | .retentionScrub errors => Sys2Proof.Machine.execRetentionScrub errors s
  | .thermalSample temps => Sys2Proof.Machine.execThermalSample temps s
  | .thermalWakeHoldEnd => Sys2Proof.Machine.execThermalWakeHoldEnd s
  | .flashResetWaitEnd => Sys2Proof.Machine.execFlashResetWaitEnd s
  | .imageVerify octal quad => Sys2Proof.Machine.execImageVerify octal quad s
  | .configSectionCheck readOk => Sys2Proof.Machine.execConfigSectionCheck readOk s
  | .configRegWrite => Sys2Proof.Machine.execConfigRegWrite s
  | .configProfile => Sys2Proof.Machine.execConfigProfile s
  | .configLoader => Sys2Proof.Machine.execConfigLoader s
  | .configDdr => Sys2Proof.Machine.execConfigDdr s
  | .configEnd => Sys2Proof.Machine.execConfigEnd s
  | .sectionLoaded n readOk => Sys2Proof.Machine.execSectionLoaded n readOk s
  | .flashCommandTimeout n => Sys2Proof.Machine.execFlashCommandTimeout n s
  | .i2cWrite t => Sys2Proof.Machine.execI2cWrite t s
  | .i2cExpect t => Sys2Proof.Machine.execI2cExpect t s
  | .wait t => Sys2Proof.Machine.execWait t s
  | .pinSet t => Sys2Proof.Machine.execPinSet t s
  | .pinWait t => Sys2Proof.Machine.execPinWait t s
  | .dsiCmd t => Sys2Proof.Machine.execDsiCmd t s
  | .scriptEnd t => Sys2Proof.Machine.execScriptEnd t s
  | .scriptTimeout t => Sys2Proof.Machine.execScriptTimeout t s
  | .pinWaitTimeout t => Sys2Proof.Machine.execPinWaitTimeout t s
  | .i2cTransferDone c ack data => Sys2Proof.Machine.execI2cTransferDone c ack data s
  | .i2cRetryInterval c => Sys2Proof.Machine.execI2cRetryInterval c s
  | .i2cStretchTimeout c => Sys2Proof.Machine.execI2cStretchTimeout c s
  | .i2cXferStart c v => Sys2Proof.Machine.execI2cXferStart c v s
  | .lpddrTrainingDone ok us => Sys2Proof.Machine.execLpddrTrainingDone ok us s
  | .bridgeBootTimeout => Sys2Proof.Machine.execBridgeBootTimeout s
  | .splashHoldElapsed => Sys2Proof.Machine.execSplashHoldElapsed s
  | .repairReadDone readOk => Sys2Proof.Machine.execRepairReadDone readOk s
  | .plazaInitDone banks links => Sys2Proof.Machine.execPlazaInitDone banks links s
  | .patrolScrub lines errs => Sys2Proof.Machine.execPatrolScrub lines errs s
  | .linkParityError node port again lost => Sys2Proof.Machine.execLinkParityError node port again lost s
  | .lpddrMr4Poll mr4 mult hot => Sys2Proof.Machine.execLpddrMr4Poll mr4 mult hot s
  | .runListPoolRoom => Sys2Proof.Machine.execRunListPoolRoom s
  | .xltInvalidate a => Sys2Proof.Machine.execXltInvalidate a s
  | .xltRootCommit a v => Sys2Proof.Machine.execXltRootCommit a v s
  | .poisonClear v => Sys2Proof.Machine.execPoisonClear v s
  | .wardenDivergence w => Sys2Proof.Machine.execWardenDivergence w s
  | .wardenTakeover => Sys2Proof.Machine.execWardenTakeover s
  | .stopEnqueue q => Sys2Proof.Machine.execStopEnqueue q s
  | .stopDispatch w lat => Sys2Proof.Machine.execStopDispatch w lat s
  | .stopComplete n => Sys2Proof.Machine.execStopComplete n s
  | .stopWatchdogExpire n u => Sys2Proof.Machine.execStopWatchdogExpire n u s
  | .granuleOverrun c ticks => Sys2Proof.Machine.execGranuleOverrun c ticks s
  | .granuleAbort c => Sys2Proof.Machine.execGranuleAbort c s
  | .granuleBoundary c g ticks => Sys2Proof.Machine.execGranuleBoundary c g ticks s
  | .signalAdd n operand failed => Sys2Proof.Machine.execSignalAdd n operand failed s
  | .signalSet n operand failed => Sys2Proof.Machine.execSignalSet n operand failed s
  | .signalRelease n q => Sys2Proof.Machine.execSignalRelease n q s
  | .queueLeaseExpire n => Sys2Proof.Machine.execQueueLeaseExpire n s
  | .queueHalt q => Sys2Proof.Machine.execQueueHalt q s
  | .queueResume q => Sys2Proof.Machine.execQueueResume q s
  | .queueDrainExpire q => Sys2Proof.Machine.execQueueDrainExpire q s
  | .xngSet n v => Sys2Proof.Machine.execXngSet n v s
  | .nop q => Sys2Proof.Machine.execNop q s
  | .startRoute q => Sys2Proof.Machine.execStartRoute q s
  | .copy n => Sys2Proof.Machine.execCopy n s
  | .fill n => Sys2Proof.Machine.execFill n s
  | .lock q => Sys2Proof.Machine.execLock q s
  | .unlock q => Sys2Proof.Machine.execUnlock q s
  | .rasterPass n => Sys2Proof.Machine.execRasterPass n s
  | .frontEndPassTaken => Sys2Proof.Machine.execFrontEndPassTaken s
  | .rasterBinPhaseDone => Sys2Proof.Machine.execRasterBinPhaseDone s
  | .computeAdd n => Sys2Proof.Machine.execComputeAdd n s
  | .computeSub n => Sys2Proof.Machine.execComputeSub n s
  | .computeMul n => Sys2Proof.Machine.execComputeMul n s
  | .computeMax n => Sys2Proof.Machine.execComputeMax n s
  | .computeMin n => Sys2Proof.Machine.execComputeMin n s
  | .computeRelu n => Sys2Proof.Machine.execComputeRelu n s
  | .computeCvt n => Sys2Proof.Machine.execComputeCvt n s
  | .computeBlend n => Sys2Proof.Machine.execComputeBlend n s
  | .computeResample n => Sys2Proof.Machine.execComputeResample n s
  | .computeNorm n => Sys2Proof.Machine.execComputeNorm n s
  | .computeSoftmax n => Sys2Proof.Machine.execComputeSoftmax n s
  | .compose n => Sys2Proof.Machine.execCompose n s
  | .mov n ins => Sys2Proof.Machine.execMov n ins s
  | .add n ins => Sys2Proof.Machine.execAdd n ins s
  | .sub n ins => Sys2Proof.Machine.execSub n ins s
  | .mul n ins => Sys2Proof.Machine.execMul n ins s
  | .mad n ins => Sys2Proof.Machine.execMad n ins s
  | .lrp n ins => Sys2Proof.Machine.execLrp n ins s
  | .min n ins => Sys2Proof.Machine.execMin n ins s
  | .max n ins => Sys2Proof.Machine.execMax n ins s
  | .clmp n ins => Sys2Proof.Machine.execClmp n ins s
  | .dp2 n ins => Sys2Proof.Machine.execDp2 n ins s
  | .dp3 n ins => Sys2Proof.Machine.execDp3 n ins s
  | .dp4 n ins => Sys2Proof.Machine.execDp4 n ins s
  | .rcp n ins => Sys2Proof.Machine.execRcp n ins s
  | .rsq n ins => Sys2Proof.Machine.execRsq n ins s
  | .exp2 n ins => Sys2Proof.Machine.execExp2 n ins s
  | .log2 n ins => Sys2Proof.Machine.execLog2 n ins s
  | .frc n ins => Sys2Proof.Machine.execFrc n ins s
  | .flr n ins => Sys2Proof.Machine.execFlr n ins s
  | .slt n ins => Sys2Proof.Machine.execSlt n ins s
  | .sge n ins => Sys2Proof.Machine.execSge n ins s
  | .cmp n ins => Sys2Proof.Machine.execCmp n ins s
  | .tex n ins => Sys2Proof.Machine.execTex n ins s
  | .scs n ins => Sys2Proof.Machine.execScs n ins s
  | .kil n ins => Sys2Proof.Machine.execKil n ins s
  | .arrayLayer n c => Sys2Proof.Machine.execArrayLayer n c s
  | .arrayPass j n v c => Sys2Proof.Machine.execArrayPass j n v c s
  | .pageWrite n => Sys2Proof.Machine.execPageWrite n s
  | .pageWriteDone p verifyOk => Sys2Proof.Machine.execPageWriteDone p verifyOk s
  | .calibrationPeriodExpire p => Sys2Proof.Machine.execCalibrationPeriodExpire p s
  | .calibrationGraceExpire p => Sys2Proof.Machine.execCalibrationGraceExpire p s
  | .calibrationDone p cols => Sys2Proof.Machine.execCalibrationDone p cols s
  | .startCalibrationDone results => Sys2Proof.Machine.execStartCalibrationDone results s
  | .sweepStep p c cols => Sys2Proof.Machine.execSweepStep p c cols s
  | .retirementMirror => Sys2Proof.Machine.execRetirementMirror s
  | .warp n parity => Sys2Proof.Machine.execWarp n parity s
  | .pyramid n parity => Sys2Proof.Machine.execPyramid n parity s
  | .motion n parity => Sys2Proof.Machine.execMotion n parity s
  | .stats n parity => Sys2Proof.Machine.execStats n parity s
  | .csiFrameStart h frameNum => Sys2Proof.Machine.execCsiFrameStart h frameNum s
  | .csiFrameEnd h => Sys2Proof.Machine.execCsiFrameEnd h s
  | .csiLongPacket vc dt header payload crcOk => Sys2Proof.Machine.execCsiLongPacket vc dt header payload crcOk s
  | .csiIgnoredPacket h => Sys2Proof.Machine.execCsiIgnoredPacket h s
  | .camFrameTimeout => Sys2Proof.Machine.execCamFrameTimeout s
  | .camStaleTimeout => Sys2Proof.Machine.execCamStaleTimeout s
  | .camStart v => Sys2Proof.Machine.execCamStart v s
  | .camStop v => Sys2Proof.Machine.execCamStop v s
  | .offer n => Sys2Proof.Machine.execOffer n s
  | .generate n parity => Sys2Proof.Machine.execGenerate n parity s
  | .relocationCopyDone t => Sys2Proof.Machine.execRelocationCopyDone t s
  | .gateIterationStart g => Sys2Proof.Machine.execGateIterationStart g s
  | .gateBindSequence g => Sys2Proof.Machine.execGateBindSequence g s
  | .gateBindIntake g => Sys2Proof.Machine.execGateBindIntake g s
  | .gateWaitLimit g => Sys2Proof.Machine.execGateWaitLimit g s
  | .trackEnable t v => Sys2Proof.Machine.execTrackEnable t v s
  | .trackDisable t v => Sys2Proof.Machine.execTrackDisable t v s
  | .lineStart late ahead bad => Sys2Proof.Machine.execLineStart late ahead bad s
  | .teEdge x level skew => Sys2Proof.Machine.execTeEdge x level skew s
  | .teBMissing => Sys2Proof.Machine.execTeBMissing s
  | .teTimeout => Sys2Proof.Machine.execTeTimeout s
  | .freerunFrameStart => Sys2Proof.Machine.execFreerunFrameStart s
  | .outputEnable x => Sys2Proof.Machine.execOutputEnable x s
  | .outputDisable x => Sys2Proof.Machine.execOutputDisable x s
  | .displayModeChange k v => Sys2Proof.Machine.execDisplayModeChange k v s
  | .colourRangeChange x range => Sys2Proof.Machine.execColourRangeChange x range s
  | .modeChangeIdleEnd x => Sys2Proof.Machine.execModeChangeIdleEnd x s
  | .panelSequenceWaitEnd x => Sys2Proof.Machine.execPanelSequenceWaitEnd x s
  | .dsiTxGo x => Sys2Proof.Machine.execDsiTxGo x s
  | .iconEnable n v => Sys2Proof.Machine.execIconEnable n v s
  | .sgnSramAccess write v => Sys2Proof.Machine.execSgnSramAccess write v s
  | .signpostStatusRepeat => Sys2Proof.Machine.execSignpostStatusRepeat s
  | .killLineAssert => Sys2Proof.Machine.execKillLineAssert s
  | .killLineRelease => Sys2Proof.Machine.execKillLineRelease s
  | .hvWrite seq addr data => Sys2Proof.Machine.execHvWrite seq addr data s
  | .hvAck seq => Sys2Proof.Machine.execHvAck seq s
  | .hvStatus idx data => Sys2Proof.Machine.execHvStatus idx data s
  | .hvHeartbeat seq => Sys2Proof.Machine.execHvHeartbeat seq s
  | .hvResync seq => Sys2Proof.Machine.execHvResync seq s
  | .hvAckTimeout => Sys2Proof.Machine.execHvAckTimeout s
  | .hvHeartbeatTimer => Sys2Proof.Machine.execHvHeartbeatTimer s
  | .hvSideLinkLoss => Sys2Proof.Machine.execHvSideLinkLoss s
  | .safeHoldExpire => Sys2Proof.Machine.execSafeHoldExpire s
  | .hvLinkLost => Sys2Proof.Machine.execHvLinkLost s
  | .hvResyncTimer => Sys2Proof.Machine.execHvResyncTimer s
  | .vbatConversion code => Sys2Proof.Machine.execVbatConversion code s
  | .headroomUpdate meas => Sys2Proof.Machine.execHeadroomUpdate meas s
  | .boostSoftStartDone => Sys2Proof.Machine.execBoostSoftStartDone s
  | .boostIdleStop => Sys2Proof.Machine.execBoostIdleStop s
  | .boostOvervoltage on => Sys2Proof.Machine.execBoostOvervoltage on s
  | .boostNoRegulation => Sys2Proof.Machine.execBoostNoRegulation s
  | .boostRestart => Sys2Proof.Machine.execBoostRestart s
  | .pwmPeriodStart => Sys2Proof.Machine.execPwmPeriodStart s
  | .sinkOnTimeEnd k mv => Sys2Proof.Machine.execSinkOnTimeEnd k mv s
  | .sinkZeroTimeout k => Sys2Proof.Machine.execSinkZeroTimeout k s
  | .rangeChange k v => Sys2Proof.Machine.execRangeChange k v s
  | .rangeSettled k => Sys2Proof.Machine.execRangeSettled k s
  | .ntcConversionStart c => Sys2Proof.Machine.execNtcConversionStart c s
  | .ntcConversionEnd c a b => Sys2Proof.Machine.execNtcConversionEnd c a b s
  | .hvsClear => Sys2Proof.Machine.execHvsClear s
  | .blOnDelayExpire x => Sys2Proof.Machine.execBlOnDelayExpire x s
  | .canFrameReceived c ident ext remote data flashOk => Sys2Proof.Machine.execCanFrameReceived c ident ext remote data flashOk s
  | .canFrameTransmitted c => Sys2Proof.Machine.execCanFrameTransmitted c s
  | .canBusOff c => Sys2Proof.Machine.execCanBusOff c s
  | .canBusOffRecovery c => Sys2Proof.Machine.execCanBusOffRecovery c s
  | .canHoldoffEnd c => Sys2Proof.Machine.execCanHoldoffEnd c s
  | .canTxAbandon c => Sys2Proof.Machine.execCanTxAbandon c s
  | .signalStale n => Sys2Proof.Machine.execSignalStale n s
  | .gspSegmentTimeout c => Sys2Proof.Machine.execGspSegmentTimeout c s
  | .uartGapTimeout => Sys2Proof.Machine.execUartGapTimeout s
  | .spiWrite bytes flashOk => Sys2Proof.Machine.execSpiWrite bytes flashOk s
  | .spiRead => Sys2Proof.Machine.execSpiRead s
  | .spiStatus => Sys2Proof.Machine.execSpiStatus s
  | .gspIdent p req payload => Sys2Proof.Machine.execGspIdent p req payload s
  | .gspRegRead p req payload => Sys2Proof.Machine.execGspRegRead p req payload s
  | .gspRegWrite p req payload => Sys2Proof.Machine.execGspRegWrite p req payload s
  | .gspMemRead p req payload => Sys2Proof.Machine.execGspMemRead p req payload s
  | .gspMemWrite p req payload => Sys2Proof.Machine.execGspMemWrite p req payload s
  | .gspConfigApply p req payload => Sys2Proof.Machine.execGspConfigApply p req payload s
  | .gspConfigRead p req payload flashOk => Sys2Proof.Machine.execGspConfigRead p req payload flashOk s
  | .gspFlashRead p req payload flashOk => Sys2Proof.Machine.execGspFlashRead p req payload flashOk s
  | .gspFlashErase p req payload => Sys2Proof.Machine.execGspFlashErase p req payload s
  | .gspFlashProgram p req payload => Sys2Proof.Machine.execGspFlashProgram p req payload s
  | .flashOperationDone ok => Sys2Proof.Machine.execFlashOperationDone ok s
  | .gspJournalRead p req payload flashOk => Sys2Proof.Machine.execGspJournalRead p req payload flashOk s
  | .gspRestart p req payload => Sys2Proof.Machine.execGspRestart p req payload s
  | .gspOtpKey p req payload => Sys2Proof.Machine.execGspOtpKey p req payload s
  | .gspOtpRevoke p req payload => Sys2Proof.Machine.execGspOtpRevoke p req payload s
  | .gspIntakeEvent p req payload => Sys2Proof.Machine.execGspIntakeEvent p req payload s
  | .gspResult p req payload => Sys2Proof.Machine.execGspResult p req payload s
  | .intakeMirror => Sys2Proof.Machine.execIntakeMirror s
  | .changeJournalMirror => Sys2Proof.Machine.execChangeJournalMirror s
  | .vehicleStationary => Sys2Proof.Machine.execVehicleStationary s
  | .canDisable c => Sys2Proof.Machine.execCanDisable c s
  | .servicePortDisable p => Sys2Proof.Machine.execServicePortDisable p s
  | .bridgeDisable => Sys2Proof.Machine.execBridgeDisable s
  | .bridgeIdle d => Sys2Proof.Machine.execBridgeIdle d s
  | .bridgeHello part role booting build epoch => Sys2Proof.Machine.execBridgeHello part role booting build epoch s
  | .bridgeHeart d => Sys2Proof.Machine.execBridgeHeart d s
  | .bridgeWrite d tag addr data => Sys2Proof.Machine.execBridgeWrite d tag addr data s
  | .bridgeWack d tag status => Sys2Proof.Machine.execBridgeWack d tag status s
  | .bridgeRead d tag addr len => Sys2Proof.Machine.execBridgeRead d tag addr len s
  | .bridgeRdata d tag status data => Sys2Proof.Machine.execBridgeRdata d tag status data s
  | .bridgeSignal d index flags v => Sys2Proof.Machine.execBridgeSignal d index flags v s
  | .bridgeResetReq d magic => Sys2Proof.Machine.execBridgeResetReq d magic s
  | .bridgeImage d off data => Sys2Proof.Machine.execBridgeImage d off data s
  | .bridgeImageEnd d len => Sys2Proof.Machine.execBridgeImageEnd d len s
  | .bridgeImageNak d sectId => Sys2Proof.Machine.execBridgeImageNak d sectId s
  | .bridgeImageDone d status => Sys2Proof.Machine.execBridgeImageDone d status s
  | .bridgeNak d => Sys2Proof.Machine.execBridgeNak d s
  | .bridgeReplayTimeout => Sys2Proof.Machine.execBridgeReplayTimeout s
  | .bridgeHelloSend => Sys2Proof.Machine.execBridgeHelloSend s
  | .bridgeHeartSend => Sys2Proof.Machine.execBridgeHeartSend s
  | .bridgeTrainDone two => Sys2Proof.Machine.execBridgeTrainDone two s
  | .bridgeTrainTimeout => Sys2Proof.Machine.execBridgeTrainTimeout s
  | .bridgeLaneLockLoss n => Sys2Proof.Machine.execBridgeLaneLockLoss n s
  | .bridgeRetrainDone lane0 lane1 => Sys2Proof.Machine.execBridgeRetrainDone lane0 lane1 s
  | .bridgePartnerTimeout => Sys2Proof.Machine.execBridgePartnerTimeout s
  | .bridgeTokenExpire n => Sys2Proof.Machine.execBridgeTokenExpire n s
  | .bridgeWaitExpire => Sys2Proof.Machine.execBridgeWaitExpire s
  | .followResetTimer => Sys2Proof.Machine.execFollowResetTimer s
  | .imageResendTimeout n => Sys2Proof.Machine.execImageResendTimeout n s
  | .resetPartner => Sys2Proof.Machine.execResetPartner s
  | .faultMessage m => Sys2Proof.Machine.execFaultMessage m s
  | .unitHeartbeat u => Sys2Proof.Machine.execUnitHeartbeat u s
  | .unitLeaseExpire n => Sys2Proof.Machine.execUnitLeaseExpire n s
  | .recoveryNext => Sys2Proof.Machine.execRecoveryNext s
  | .recoveryWithdrawDone => Sys2Proof.Machine.execRecoveryWithdrawDone s
  | .unitCheckDone reachable ok => Sys2Proof.Machine.execUnitCheckDone reachable ok s
  | .reclaimerDivergence => Sys2Proof.Machine.execReclaimerDivergence s
  | .detourHoldRelease => Sys2Proof.Machine.execDetourHoldRelease s
  | .faultInject v => Sys2Proof.Machine.execFaultInject v s
  | .rwpValueWrite addr size v => Sys2Proof.Machine.execRwpValueWrite addr size v s
  | .rwpComplementWrite addr size v => Sys2Proof.Machine.execRwpComplementWrite addr size v s
  | .rwpWordRead addr size => Sys2Proof.Machine.execRwpWordRead addr size s
  | .registerWrite addr size v => Sys2Proof.Machine.execRegisterWrite addr size v s
  | .csiPhyError => Sys2Proof.Machine.execCsiPhyError s
  | .sweepForceExpire p => Sys2Proof.Machine.execSweepForceExpire p s
  | .hvFrameMismatch => Sys2Proof.Machine.execHvFrameMismatch s
  | .canErrorPassive c tec rec => Sys2Proof.Machine.execCanErrorPassive c tec rec s
  | .uartMessageDiscard => Sys2Proof.Machine.execUartMessageDiscard s
  | .gspBadCmd p cmd req payload => Sys2Proof.Machine.execGspBadCmd p cmd req payload s
  | .bridgeFlitDiscard => Sys2Proof.Machine.execBridgeFlitDiscard s
  | .bridgeMalformedPacket d sequenced flits typ tag => Sys2Proof.Machine.execBridgeMalformedPacket d sequenced flits typ tag s
  | .mirrorOperationDone ok => Sys2Proof.Machine.execMirrorOperationDone ok s
  | .pinLevelReached t => Sys2Proof.Machine.execPinLevelReached t s
  | .i2cExpectRetryInterval t => Sys2Proof.Machine.execI2cExpectRetryInterval t s
  | .scriptWaitElapsed t => Sys2Proof.Machine.execScriptWaitElapsed t s
  | .dsiLpPacketSent x => Sys2Proof.Machine.execDsiLpPacketSent x s

end Sys2Proof.Machine
end

