-- ==== Sys2Proof/Safety.lean ====
section
/-! DEFINITION. What a sound state of the device is, in the terms the statements use. Every
step keeps it, from any state that has it. -/

namespace Sys2Proof.Machine

/-- Every memory is in its canonical form. -/
def State.memsOk (s : State) : Prop := ∀ id, Memory.wf id (s.mem id) = true

/-- Register words, pending values and leases stand by rising key; a lease record has a number
below 256 (R445). -/
def State.keysOk (s : State) : Prop :=
  keysWf 0 s.regs = true ∧ keysWf 0 s.rwpPend = true ∧ keysWf 0 s.leases = true
    ∧ ∀ e ∈ s.leases, e.1 < 256

/-- Every register word has 32 bits (R14). -/
def State.wordsOk (s : State) : Prop := ∀ e ∈ s.regs, e.2 < 2 ^ 32

/-- The fault ring holds at most 64 records (R444). -/
def State.ringFits (s : State) : Prop := s.ring.length ≤ 64

/-- A sound state. -/
structure State.Sound (s : State) : Prop where
  mems : s.memsOk
  keys : s.keysOk
  words : s.wordsOk
  ring : s.ringFits

/-! ### What a command may change -/

/-- A part of the state: a memory, the registers of one block, or the rest of one block's
state. -/
inductive Part where
  | mem (id : MemId) : Part
  /-- Registers of the block in slot `b` of Table 01-8; the districts count as slot 0x10 and
  both CAN controllers as slot 0x60. -/
  | regs (b : Nat) : Part
  /-- Registers of every block. -/
  | allRegs : Part
  | pend : Part
  | bus : Part
  | free : Part
  | ring : Part
  | leases : Part
  | lamp : Part
  | rcl : Part
  | boot : Part
  | ave : Part
  | xlt : Part
  | wrd : Part
  | xng : Part
  | cam : Part
  | ras : Part
  | dst : Part
  | rbt : Part
  | sco : Part
  | sgn : Part
  | hv : Part
  | can : Part
  | svc : Part
  | ports : Part
  | brg : Part
  deriving DecidableEq, Repr

/-- Slot of the block a register address belongs to. -/
def regSlot (a : Nat) : Nat :=
  let b := a / 0x10000 - 0xF000
  if 0x10 ≤ b ∧ b < 0x18 then 0x10 else if b = 0x61 then 0x60 else b

/-- A part of the state is the same in `s` and `t`. -/
def Part.same (p : Part) (s t : State) : Prop :=
  match p with
  | .mem id => t.mem id = s.mem id
  | .regs b => ∀ a, regSlot a = b → keyGet t.regs a = keyGet s.regs a
  | .allRegs => True
  | .pend => t.rwpPend = s.rwpPend
  | .bus => t.bus = s.bus
  | .free => t.free = s.free
  | .ring => t.ring = s.ring ∧ t.nextSeq = s.nextSeq
  | .leases => t.leases = s.leases
  | .lamp => t.lamp = s.lamp
  | .rcl => t.rcl = s.rcl
  | .boot => t.boot = s.boot
  | .ave => t.ave = s.ave
  | .xlt => t.xlt = s.xlt
  | .wrd => t.wrd = s.wrd
  | .xng => t.xng = s.xng
  | .cam => t.cam = s.cam
  | .ras => t.ras = s.ras
  | .dst => t.dst = s.dst
  | .rbt => t.rbt = s.rbt
  | .sco => t.sco = s.sco
  | .sgn => t.sgn = s.sgn
  | .hv => t.hv = s.hv
  | .can => t.can = s.can
  | .svc => t.svc = s.svc
  | .ports => t.ports = s.ports
  | .brg => t.brg = s.brg

/-- `p` is one of the parts `W`. -/
def coveredBy (W : List Part) (p : Part) : Bool :=
  W.contains p || (W.contains .allRegs && match p with
    | .regs _ => true
    | _ => false)

/-- Nothing but the parts `W` of the state differs between `s` and `t`: every byte of every
other memory, every register of every other block and every other block's state are as they
were, and so are the queue of commands, the ordering code and the time. -/
def State.onlyChanges (W : List Part) (s t : State) : Prop :=
  (∀ p, coveredBy W p = false → p.same s t) ∧ t.pending = s.pending ∧ t.ident = s.ident
    ∧ t.time = s.time ∧ t.phase = s.phase

/-! ### What a command does -/

/-- Command `c` runs in state `s`, and the state it leaves has the property `P`. -/
def Ends (c : Instr) (s : State) (P : State → Prop) : Prop := ∃ t, exec c s = .next t ∧ P t

/-- Between `s` and `t` a fault message with this code and unit reached the fault ring. -/
def State.reports (s t : State) (code unit : Nat) : Prop :=
  ∃ r ∈ t.ring, r.code = code ∧ r.unit = unit ∧ s.nextSeq ≤ r.seq

/-- `t` is `s` after a reset of the logic side with this cause (R53 to R56): WAKING at its step 3,
or at its step 2 where PWR_GOOD is low and the reset is not RESET_N's; the cause is recorded in
LAMP_RESET_CAUSE and, for its bits 0 to 7, in SYS_RESET_CAUSE; PMIC_EN and the tick are as they
were; the loader's state and the lease table are as after reset; the flash and the OTP are as they
were. -/
def State.restarted (s t : State) (cause : Nat) : Prop :=
  t.lamp.power = .waking
    ∧ t.lamp.wakingStep = (if s.lamp.pwrGood || cause == causePin then 3 else 2)
    ∧ bitN (t.rd R.LAMP_RESET_CAUSE) cause = 1 ∧ (cause < 8 → bitN t.lamp.sysCause cause = 1)
    ∧ t.lamp.tick = s.lamp.tick ∧ t.lamp.pmicEn = s.lamp.pmicEn
    ∧ t.boot = Boot.reset ∧ t.leases = [] ∧ t.flash = s.flash ∧ t.otp = s.otp

/-- A place in Plaza or in the LPDDR4X memory. -/
def onChip (p : Place) : Bool :=
  match p with
  | .plaza _ => true
  | .lpddr _ => true
  | _ => false

/-- Slot `i` executes stop `o` of this opcode on clocked units, every address of its ranges lies
in Plaza or LPDDR4X, no memory error is recorded and no input is poisoned: its work runs to its
end. -/
def State.ready (s : State) (i op : Nat) (o : OpenStop) : Prop :=
  s.live = true ∧ s.executing i op = some o ∧ o.errorSeen = false ∧ o.poisonSeen = false
    ∧ s.ave.plazaErrs = [] ∧ s.ave.ddrErrs = []
    ∧ (∀ k off, onChip (s.place (o.stop.pa k off)) = true)
    ∧ ∀ p ∈ o.stop.piecesOf false, (s.readMark p.1 p.2).poison = false

/-- The bytes that the record of gate `g`'s iteration takes for source value `v`, and its bound slot. -/
def State.gateSrc (s : State) (g v : Nat) : Nat :=
  (s.gateRec g).srcPa ((v + 2 ^ 32 - 1) % 2 ^ 32 % zeroAsOne (s.gateRec g).srcSlots)

def State.gateSlot (s : State) (g : Nat) : Nat :=
  (s.gateRec g).boundPa ((s.gate g).p % zeroAsOne (s.gateRec g).boundSlots)

/-- Gate `g` can write its bound slot: it has started, nothing is replayed, no region is locked, no memory error is recorded and the slot is mapped. -/
def State.bindable (s : State) (g : Nat) : Prop :=
  g < s.rbt.gateCount ∧ g < s.rbt.gates.length ∧ (s.gate g).started = true ∧ s.rbt.replay = false
    ∧ s.ave.locks = List.replicate 64 none ∧ s.ave.plazaErrs = [] ∧ s.ave.ddrErrs = []
    ∧ s.mapped (s.gateSlot g) (64 + (s.gateRec g).size) = true

/-- The source slot of gate `g` for value `v` is mapped and shares no page with the bound slot. -/
def State.sourceApart (s : State) (g v : Nat) : Prop :=
  0 < (s.gateRec g).size ∧ s.mapped (s.gateSrc g v) (s.gateRec g).size = true
    ∧ ((s.gateSrc g v + (s.gateRec g).size - 1) / 4096 < s.gateSlot g / 4096
      ∨ (s.gateSlot g + 63 + (s.gateRec g).size) / 4096 < s.gateSrc g v / 4096)

/-- The bytes of a bound slot (Table 10-4): the mark, the iteration, the expected and the bound
value, the flags, and the source's bytes. -/
def boundBytes (p expected bound flags : Nat) (data : List Byte) : List Byte :=
  leBytes 4 0x444E4947 ++ leBytes 4 p ++ leBytes 4 expected ++ leBytes 4 bound ++ leBytes 1 flags
    ++ zeros 47 ++ data

/-- The stop in slot `i` has done its work, and memory is as a micro-program leaves it. -/
def State.worked (s : State) (i : Nat) (o : OpenStop) (work : Prog) (t : State) : Prop :=
  t.slotOf i = some { o with done := true } ∧ t.plaza = (work.run s).plaza
    ∧ t.lpddr = (work.run s).lpddr

/-- The loader goes on as far as it can (Table 03-1) from a state that has the property `P`. -/
def State.loaderGoesOn (P : State → Prop) (t : State) : Prop := ∃ u, P u ∧ t = loaderProgress.run u

/-- Address `addr` is that of register `h`, a register of stored bits that is no complement pair
and starts nothing when it is written, and the write is not refused. -/
structure State.plainAt (s : State) (addr : Nat) (h : RegHit) : Prop where
  hit : findHit addr = some h
  plain : h.r.rwp = false
  stored : h.r.rw ≠ 0 ∨ h.r.w1c ≠ 0
  starts : h.r ∉ [R.SYS_RESET_CTRL, R.AVE_POISON_CLR, R.XLT_INVAL, R.XLT_ROOT_LO, R.XLT_ROOT_HI,
    R.WRD_Q_CTRL, R.SCO_DSI_TX_GO, R.SGN_SRAM_DATA, R.HVS_CMD, R.I2C_XFER, R.BRG_CMD, R.RCL_INJECT]
  aligned : addr % 4 = 0
  block : ∃ b, s.place addr = .block b
  gate : s.blockGated (slotOfAddr addr) = false
  present : slotOfAddr addr = 0x70 → s.ident.order ≠ .qs2
  allowed : s.writeRefused h = false

/-- Service port `p` is open and idle, the SVC block executes nothing, and message `m`, without a
REQ, passes every gate (R394, R396, R400, R403). -/
structure State.takesCmd (s : State) (p : Nat) (m : GspMsg) : Prop where
  takes : s.portTakes p = true
  idle : (s.port p).executing = none ∧ (s.port p).waiting = none
  ports : s.svc.ports.length = 4 ∧ s.can.length = 2
  order : s.svc.order = [] ∧ s.boot.flashOp = none ∧ s.lamp.parkStep ≠ 6
  rate : (s.port p).rateCount < zeroAsOne (s.fld F.SVC_PORTS_RATE)
  known : 1 ≤ m.cmd ∧ m.cmd ≤ 0x10
  args : m.plain = true ∧ m.req = 0 ∧ s.argsOk m = true
  settled : s.settled = true ∧ s.lamp.retUnusable = false
  free : s.holds m = false
  room : s.cjUnmirrored + m.entries ≤ 196

/-- Port `p` carries response `r`: it is the newest one of the UART or SPI, or its frames are the
last ones in the queue of the CAN controller. -/
def State.answers (s t : State) (p : Nat) (r : GspRsp) : Prop :=
  if p < 2 then s.canOn p = true → s.flag F.CAN_CTRL_LISTEN p = false →
    ∃ l, (t.canCtl p).queue = l ++ s.rspFrames p r
  else (t.port p).ready.getLast? = some r

/-- A sequenced packet with sideband `d` is next in order on an idle link in state `link`, with
every credit held and nothing to replay. -/
def State.linkIdle (s : State) (link : Nat) (d : Side) : Prop :=
  s.brg.link = link ∧ s.brg.queue = [] ∧ s.brg.unacked = [] ∧ s.brg.credits = 64
    ∧ d.seq % 256 = s.brg.rxSeq ∧ d.nak = false

/-! ### What each command may change -/

/-- The parts of the state that a command may change, whatever its operands and the state. No
other part changes. -/
def mayChange (c : Instr) : List Part :=
  match c with
  | .killLineAssert | .killLineRelease | .hvHeartbeat _ | .hvResync _ | .hvHeartbeatTimer |
    .hvSideLinkLoss | .safeHoldExpire | .hvResyncTimer | .headroomUpdate _ | .boostSoftStartDone
    | .boostIdleStop | .boostRestart | .hvsClear | .ntcConversionStart _ =>
    [.hv]
  | .poisonClear _ =>
    [.ave]
  | .bridgeHelloSend | .bridgeHeartSend | .bridgeTrainTimeout | .bridgeFlitDiscard =>
    [.brg]
  | .canFrameTransmitted _ =>
    [.can]
  | .sweepForceExpire _ =>
    [.dst]
  | .mov _ _ | .add _ _ | .sub _ _ | .mul _ _ | .mad _ _ | .lrp _ _ | .min _ _ | .max _ _ |
    .clmp _ _ | .dp2 _ _ | .dp3 _ _ | .dp4 _ _ | .rcp _ _ | .rsq _ _ | .exp2 _ _ | .log2 _ _ |
    .frc _ _ | .flr _ _ | .slt _ _ | .sge _ _ | .cmp _ _ | .scs _ _ | .tex _ _ | .kil _ _ |
    .frontEndPassTaken =>
    [.ras]
  | .gateIterationStart _ =>
    [.rbt]
  | .detourHoldRelease =>
    [.rcl]
  | .freerunFrameStart =>
    [.sco]
  | .gspSegmentTimeout _ | .uartGapTimeout =>
    [.svc]
  | .flashResetWaitEnd | .splashHoldElapsed | .scriptWaitElapsed _ =>
    [.boot]
  | .x32CrystalLock | .x32EdgeMissed | .x32EdgeReturn | .thermalWakeHoldEnd =>
    [.lamp]
  | .i2cRetryInterval _ =>
    [.ports]
  | .unitHeartbeat _ =>
    [.leases]
  | .autoGateIdle _ =>
    [.regs 0x0]
  | .resetPartner =>
    [.bus, .brg]
  | .wakingRetry | .latchedWakeStart =>
    [.lamp, .hv]
  | .hvStatus _ _ =>
    [.regs 0x50]
  | .dsiLpPacketSent _ =>
    [.boot, .sco]
  | .pinLevelReached _ =>
    [.boot, .ports]
  | .pwrGoodRise _ | .resetNRelease _ =>
    [.lamp, .ports]
  | .unitClockStarted _ =>
    [.regs 0x0, .wrd]
  | .hvAck _ | .hvAckTimeout =>
    [.regs 0x50, .hv]
  | .dsiTxGo _ =>
    [.regs 0x41, .sco]
  | .canDisable _ | .canBusOffRecovery _ | .canHoldoffEnd _ | .canTxAbandon _ =>
    [.regs 0x60, .can]
  | .recoveryNext =>
    [.leases, .rcl, .ave]
  | .rangeChange _ _ =>
    [.allRegs, .free, .hv]
  | .blOnDelayExpire _ =>
    [.regs 0x2, .sco, .hv]
  | .i2cXferStart _ _ =>
    [.regs 0x63, .bus, .ports]
  | .i2cExpectRetryInterval _ =>
    [.regs 0x63, .boot, .ports]
  | .sgnSramAccess _ _ =>
    [.mem .icon, .regs 0x42, .bus]
  | .pllLocked _ =>
    [.regs 0x0, .regs 0x41, .lamp, .sco]
  | .porRelease _ =>
    [.mem .retA, .mem .retB, .free, .lamp]
  | .intakeMirror | .changeJournalMirror | .retirementMirror =>
    [.mem .retA, .mem .retB, .lamp, .boot, .svc]
  | .rangeSettled _ | .sinkZeroTimeout _ =>
    [.mem .retA, .mem .retB, .regs 0x50, .lamp, .hv]
  | .configProfile | .configLoader =>
    [.mem .flash, .mem .retA, .mem .retB, .free, .lamp, .boot]
  | .pwmPeriodStart =>
    [.mem .retA, .mem .retB, .allRegs, .ring, .lamp, .rcl, .hv]
  | .configDdr =>
    [.mem .flash, .mem .retA, .mem .retB, .free, .lamp, .boot, .ports]
  | .hvWrite _ _ _ =>
    [.mem .retA, .mem .retB, .allRegs, .free, .ring, .lamp, .rcl, .hv]
  | .servicePortDisable _ =>
    [.mem .retA, .mem .retB, .allRegs, .ring, .lamp, .rcl, .can, .svc]
  | .x32Fail | .retentionScrub _ =>
    [.mem .retA, .mem .retB, .regs 0x1, .regs 0x90, .ring, .lamp, .rcl]
  | .granuleOverrun _ _ =>
    [.mem .retA, .mem .retB, .regs 0x5, .regs 0x90, .ring, .lamp, .rcl]
  | .camStaleTimeout | .csiPhyError =>
    [.mem .retA, .mem .retB, .regs 0x31, .regs 0x90, .ring, .lamp, .rcl]
  | .iconEnable _ _ =>
    [.mem .retA, .mem .retB, .regs 0x42, .regs 0x90, .ring, .lamp, .rcl]
  | .hvFrameMismatch =>
    [.mem .retA, .mem .retB, .regs 0x50, .regs 0x90, .ring, .lamp, .rcl]
  | .lpddrMr4Poll _ _ _ =>
    [.mem .retA, .mem .retB, .regs 0x80, .regs 0x90, .ring, .lamp, .rcl]
  | .hvLinkLost | .vbatConversion _ | .boostOvervoltage _ | .boostNoRegulation |
    .sinkOnTimeEnd _ _ | .ntcConversionEnd _ _ _ =>
    [.mem .retA, .mem .retB, .regs 0x50, .regs 0x90, .ring, .lamp, .rcl, .hv]
  | .csiIgnoredPacket _ =>
    [.mem .retA, .mem .retB, .regs 0x31, .regs 0x90, .ring, .lamp, .rcl, .cam]
  | .teTimeout =>
    [.mem .retA, .mem .retB, .regs 0x41, .regs 0x90, .ring, .lamp, .rcl, .sco]
  | .bridgeIdle _ | .bridgeHeart _ | .bridgeTrainDone _ | .bridgeLaneLockLoss _ |
    .bridgeRetrainDone _ _ | .bridgeImageEnd _ _ | .bridgeImageNak _ _ | .bridgeImageDone _ _ |
    .bridgeNak _ | .bridgeReplayTimeout | .bridgeMalformedPacket _ _ _ _ _ =>
    [.mem .retA, .mem .retB, .regs 0x70, .regs 0x90, .ring, .lamp, .rcl, .brg]
  | .plazaInitDone _ _ =>
    [.mem .plaza, .mem .retA, .mem .retB, .regs 0x90, .ring, .lamp, .rcl, .ave]
  | .teBMissing =>
    [.mem .retA, .mem .retB, .regs 0x41, .regs 0x90, .free, .ring, .lamp, .rcl, .sco]
  | .teEdge _ _ _ =>
    [.mem .retA, .mem .retB, .regs 0x41, .regs 0x90, .ring, .lamp, .rcl, .sco, .ports]
  | .displayModeChange _ _ | .colourRangeChange _ _ =>
    [.mem .retA, .mem .retB, .regs 0x41, .regs 0x90, .ring, .lamp, .rcl, .sco, .hv, .ports]
  | .bridgeImage _ _ _ =>
    [.mem .retA, .mem .retB, .mem .img, .regs 0x70, .regs 0x90, .ring, .lamp, .rcl, .boot,
      .brg]
  | .rwpWordRead _ _ =>
    [.mem .retA, .mem .retB, .mem .icon, .allRegs, .bus, .ring, .leases, .lamp, .rcl, .wrd,
      .xng, .hv]
  | .csiLongPacket _ _ _ _ _ =>
    [.mem .plaza, .mem .lpddr, .mem .retA, .mem .retB, .regs 0x31, .regs 0x90, .ring, .lamp,
      .rcl, .ave, .cam]
  | .imageVerify _ _ | .bridgeBootTimeout =>
    [.mem .retA, .mem .retB, .allRegs, .pend, .ring, .leases, .lamp, .rcl, .boot, .ave, .xlt,
      .wrd, .xng, .ras, .dst, .rbt, .sco, .hv, .can, .svc, .ports, .brg]
  | .followResetTimer | .wakeInputEdge _ _ | .parkPowerOff | .resetNAssert | .warmResetCommand
    =>
    [.mem .icon, .mem .img, .allRegs, .pend, .leases, .lamp, .rcl, .boot, .ave, .xlt, .wrd,
      .xng, .cam, .ras, .dst, .rbt, .sco, .sgn, .hv, .can, .svc, .ports, .brg]
  | .uartMessageDiscard =>
    [.mem .retA, .mem .retB, .regs 0x10, .regs 0x20, .regs 0x31, .regs 0x40, .regs 0x41, .regs
      0x42, .regs 0x50, .regs 0x60, .regs 0x62, .regs 0x70, .regs 0x90, .ring, .lamp, .rcl]
  | .spiStatus =>
    [.mem .retA, .mem .retB, .regs 0x10, .regs 0x20, .regs 0x31, .regs 0x40, .regs 0x41, .regs
      0x42, .regs 0x50, .regs 0x60, .regs 0x62, .regs 0x70, .regs 0x90, .bus, .ring, .lamp,
      .rcl]
  | .signpostStatusRepeat | .canBusOff _ | .canErrorPassive _ _ _ =>
    [.mem .retA, .mem .retB, .regs 0x10, .regs 0x20, .regs 0x31, .regs 0x40, .regs 0x41, .regs
      0x42, .regs 0x50, .regs 0x60, .regs 0x62, .regs 0x70, .regs 0x90, .ring, .lamp, .rcl,
      .can]
  | .calibrationPeriodExpire _ | .calibrationGraceExpire _ =>
    [.mem .retA, .mem .retB, .regs 0x10, .regs 0x20, .regs 0x31, .regs 0x40, .regs 0x41, .regs
      0x42, .regs 0x50, .regs 0x60, .regs 0x62, .regs 0x70, .regs 0x90, .ring, .lamp, .rcl,
      .dst]
  | .trackEnable _ _ | .trackDisable _ _ =>
    [.mem .retA, .mem .retB, .regs 0x10, .regs 0x20, .regs 0x31, .regs 0x40, .regs 0x41, .regs
      0x42, .regs 0x50, .regs 0x60, .regs 0x62, .regs 0x70, .regs 0x90, .bus, .ring, .lamp,
      .rcl, .rbt]
  | .spiRead =>
    [.mem .retA, .mem .retB, .regs 0x10, .regs 0x20, .regs 0x31, .regs 0x40, .regs 0x41, .regs
      0x42, .regs 0x50, .regs 0x60, .regs 0x62, .regs 0x70, .regs 0x90, .bus, .ring, .lamp,
      .rcl, .svc]
  | .camStart _ | .camStop _ =>
    [.mem .retA, .mem .retB, .regs 0x10, .regs 0x20, .regs 0x31, .regs 0x40, .regs 0x41, .regs
      0x42, .regs 0x50, .regs 0x60, .regs 0x62, .regs 0x70, .regs 0x90, .ring, .lamp, .rcl,
      .cam, .ports]
  | .calibrationDone _ _ | .sweepStep _ _ _ | .pageWrite _ | .pageWriteDone _ _ |
    .bridgeRead _ _ _ _ | .bridgeResetReq _ _ | .porAssert | .refStartTimeout | .refCountFail |
    .sysPllLossOfLock | .pwrGoodTimeout | .pwrGoodFall | .selfTestDone _ _ | .patrolScrub _ _ |
    .linkParityError _ _ _ _ | .arrayPass _ _ _ _ | .recoveryWithdrawDone | .reclaimerDivergence
    | .wardenDivergence _ =>
    [.mem .retA, .mem .retB, .mem .icon, .mem .img, .allRegs, .pend, .ring, .leases, .lamp,
      .rcl, .boot, .ave, .xlt, .wrd, .xng, .cam, .ras, .dst, .rbt, .sco, .sgn, .hv, .can,
      .svc, .ports, .brg]
  | .panelSequenceWaitEnd _ =>
    [.mem .retA, .mem .retB, .regs 0x10, .regs 0x20, .regs 0x31, .regs 0x40, .regs 0x41, .regs
      0x42, .regs 0x50, .regs 0x60, .regs 0x62, .regs 0x70, .regs 0x90, .ring, .leases, .lamp,
      .rcl, .ave, .sco, .ports]
  | .signalRelease _ _ | .queueResume _ =>
    [.mem .retA, .mem .retB, .regs 0x6, .regs 0x10, .regs 0x20, .regs 0x31, .regs 0x40, .regs
      0x41, .regs 0x42, .regs 0x50, .regs 0x60, .regs 0x62, .regs 0x70, .regs 0x90, .ring,
      .leases, .lamp, .rcl, .wrd, .xng]
  | .outputEnable _ | .outputDisable _ =>
    [.mem .retA, .mem .retB, .regs 0x10, .regs 0x20, .regs 0x31, .regs 0x40, .regs 0x41, .regs
      0x42, .regs 0x50, .regs 0x60, .regs 0x62, .regs 0x70, .regs 0x90, .ring, .leases, .lamp,
      .rcl, .ave, .sco, .hv, .ports]
  | .signalAdd _ _ _ | .signalSet _ _ _ =>
    [.mem .retA, .mem .retB, .regs 0x6, .regs 0x10, .regs 0x20, .regs 0x31, .regs 0x40, .regs
      0x41, .regs 0x42, .regs 0x50, .regs 0x60, .regs 0x62, .regs 0x70, .regs 0x90, .ring,
      .leases, .lamp, .rcl, .wrd, .xng, .brg]
  | .modeChangeIdleEnd _ =>
    [.mem .retA, .mem .retB, .regs 0x0, .regs 0x10, .regs 0x20, .regs 0x31, .regs 0x40, .regs
      0x41, .regs 0x42, .regs 0x50, .regs 0x60, .regs 0x62, .regs 0x70, .regs 0x90, .ring,
      .leases, .lamp, .rcl, .ave, .sco, .ports]
  | .bridgeHello _ _ _ _ _ | .bridgeWrite _ _ _ _ | .imageResendTimeout _ | .bridgeWaitExpire |
    .computeAdd _ | .computeSub _ | .computeMul _ | .computeMax _ | .computeMin _ |
    .computeRelu _ | .computeCvt _ | .computeBlend _ | .computeResample _ | .computeNorm _ |
    .computeSoftmax _ | .pllLossOfLock _ | .configSectionCheck _ | .lpddrTrainingDone _ _ |
    .startCalibrationDone _ | .lineStart _ _ _ | .repairReadDone _ | .arrayLayer _ _ |
    .unitCheckDone _ _ | .faultMessage _ | .faultInject _ | .unitLeaseExpire _ |
    .stopWatchdogExpire _ _ | .granuleAbort _ | .generate _ _ | .relocationCopyDone _ |
    .gateBindSequence _ | .gateWaitLimit _ | .compose _ | .i2cWrite _ | .i2cExpect _ | .wait _ |
    .pinSet _ | .pinWait _ | .dsiCmd _ | .scriptEnd _ | .scriptTimeout _ | .pinWaitTimeout _ |
    .i2cTransferDone _ _ _ | .i2cStretchTimeout _ | .stopEnqueue _ | .runListPoolRoom |
    .stopDispatch _ _ | .copy _ | .fill _ =>
    [.mem .plaza, .mem .lpddr, .mem .retA, .mem .retB, .mem .icon, .mem .img, .allRegs, .pend,
      .ring, .leases, .lamp, .rcl, .boot, .ave, .xlt, .wrd, .xng, .cam, .ras, .dst, .rbt,
      .sco, .sgn, .hv, .can, .svc, .ports, .brg]
  | .xngSet _ _ =>
    [.mem .retA, .mem .retB, .regs 0x6, .regs 0x10, .regs 0x20, .regs 0x31, .regs 0x40, .regs
      0x41, .regs 0x42, .regs 0x50, .regs 0x60, .regs 0x62, .regs 0x70, .regs 0x90, .bus,
      .ring, .leases, .lamp, .rcl, .wrd, .xng, .brg]
  | .signalStale _ =>
    [.mem .retA, .mem .retB, .regs 0x6, .regs 0x10, .regs 0x20, .regs 0x31, .regs 0x40, .regs
      0x41, .regs 0x42, .regs 0x50, .regs 0x60, .regs 0x62, .regs 0x70, .regs 0x90, .ring,
      .leases, .lamp, .rcl, .wrd, .xng, .svc, .brg]
  | .rwpValueWrite _ _ _ | .rwpComplementWrite _ _ _ | .registerWrite _ _ _ =>
    [.mem .plaza, .mem .lpddr, .mem .retA, .mem .retB, .mem .icon, .mem .img, .allRegs, .pend,
      .bus, .ring, .leases, .lamp, .rcl, .boot, .ave, .xlt, .wrd, .xng, .cam, .ras, .dst,
      .rbt, .sco, .sgn, .hv, .can, .svc, .ports, .brg]
  | .sectionLoaded _ _ | .rasterPass _ | .gateBindIntake _ | .warp _ _ | .pyramid _ _ |
    .motion _ _ | .stats _ _ | .granuleBoundary _ _ _ =>
    [.mem .plaza, .mem .lpddr, .mem .retA, .mem .retB, .mem .icon, .mem .img, .allRegs, .pend,
      .free, .ring, .leases, .lamp, .rcl, .boot, .ave, .xlt, .wrd, .xng, .cam, .ras, .dst,
      .rbt, .sco, .sgn, .hv, .can, .svc, .ports, .brg]
  | .bridgeSignal _ _ _ _ =>
    [.mem .retA, .mem .retB, .regs 0x3, .regs 0x6, .regs 0x10, .regs 0x20, .regs 0x31, .regs
      0x40, .regs 0x41, .regs 0x42, .regs 0x50, .regs 0x60, .regs 0x62, .regs 0x70, .regs
      0x90, .ring, .leases, .lamp, .rcl, .wrd, .xng, .brg]
  | .xltInvalidate _ | .xltRootCommit _ _ =>
    [.mem .retA, .mem .retB, .regs 0x4, .regs 0x6, .regs 0x10, .regs 0x20, .regs 0x31, .regs
      0x40, .regs 0x41, .regs 0x42, .regs 0x50, .regs 0x60, .regs 0x62, .regs 0x70, .regs
      0x90, .ring, .leases, .lamp, .rcl, .xlt, .wrd, .xng, .brg]
  | .wardenTakeover =>
    [.mem .retA, .mem .retB, .regs 0x5, .regs 0x10, .regs 0x20, .regs 0x31, .regs 0x40, .regs
      0x41, .regs 0x42, .regs 0x50, .regs 0x60, .regs 0x62, .regs 0x70, .regs 0x90, .ring,
      .leases, .lamp, .rcl, .ave, .wrd, .ras, .dst, .rbt, .brg]
  | .canFrameReceived _ _ _ _ _ _ | .spiWrite _ _ | .gspIdent _ _ _ | .gspRegRead _ _ _ |
    .gspRegWrite _ _ _ | .gspMemRead _ _ _ | .gspMemWrite _ _ _ | .gspConfigApply _ _ _ |
    .gspConfigRead _ _ _ _ | .gspFlashRead _ _ _ _ | .gspFlashErase _ _ _ |
    .gspFlashProgram _ _ _ | .gspJournalRead _ _ _ _ | .gspRestart _ _ _ | .gspOtpKey _ _ _ |
    .gspOtpRevoke _ _ _ | .gspIntakeEvent _ _ _ | .gspResult _ _ _ | .gspBadCmd _ _ _ _ |
    .vehicleStationary =>
    [.mem .plaza, .mem .lpddr, .mem .retA, .mem .retB, .mem .icon, .mem .otp, .mem .img,
      .allRegs, .pend, .bus, .ring, .leases, .lamp, .rcl, .boot, .ave, .xlt, .wrd, .xng, .cam,
      .ras, .dst, .rbt, .sco, .sgn, .hv, .can, .svc, .ports, .brg]
  | .configEnd =>
    [.mem .plaza, .mem .lpddr, .mem .flash, .mem .retA, .mem .retB, .mem .icon, .mem .img,
      .allRegs, .pend, .free, .ring, .leases, .lamp, .rcl, .boot, .ave, .xlt, .wrd, .xng,
      .cam, .ras, .dst, .rbt, .sco, .sgn, .hv, .can, .svc, .ports, .brg]
  | .configRegWrite =>
    [.mem .plaza, .mem .lpddr, .mem .flash, .mem .retA, .mem .retB, .mem .icon, .mem .img,
      .allRegs, .pend, .bus, .free, .ring, .leases, .lamp, .rcl, .boot, .ave, .xlt, .wrd,
      .xng, .cam, .ras, .dst, .rbt, .sco, .sgn, .hv, .can, .svc, .ports, .brg]
  | .queueHalt _ =>
    [.mem .retA, .mem .retB, .regs 0x4, .regs 0x5, .regs 0x6, .regs 0x10, .regs 0x20, .regs
      0x31, .regs 0x40, .regs 0x41, .regs 0x42, .regs 0x50, .regs 0x60, .regs 0x62, .regs
      0x70, .regs 0x90, .ring, .leases, .lamp, .rcl, .boot, .xlt, .wrd, .xng, .brg]
  | .csiFrameStart _ _ | .csiFrameEnd _ | .camFrameTimeout =>
    [.mem .plaza, .mem .lpddr, .mem .retA, .mem .retB, .regs 0x6, .regs 0x10, .regs 0x20,
      .regs 0x31, .regs 0x40, .regs 0x41, .regs 0x42, .regs 0x50, .regs 0x60, .regs 0x62,
      .regs 0x70, .regs 0x90, .ring, .leases, .lamp, .rcl, .ave, .wrd, .xng, .cam, .brg]
  | .flashOperationDone _ | .mirrorOperationDone _ | .flashCommandTimeout _ =>
    [.mem .plaza, .mem .lpddr, .mem .flash, .mem .retA, .mem .retB, .mem .icon, .mem .otp,
      .mem .img, .allRegs, .pend, .bus, .free, .ring, .leases, .lamp, .rcl, .boot, .ave, .xlt,
      .wrd, .xng, .cam, .ras, .dst, .rbt, .sco, .sgn, .hv, .can, .svc, .ports, .brg]
  | .wakeFilterElapsed _ | .timerAlarm =>
    [.mem .retA, .mem .retB, .regs 0x0, .regs 0x1, .regs 0x6, .regs 0x10, .regs 0x20, .regs
      0x31, .regs 0x40, .regs 0x41, .regs 0x42, .regs 0x50, .regs 0x60, .regs 0x62, .regs
      0x70, .regs 0x90, .ring, .leases, .lamp, .rcl, .ave, .wrd, .xng, .dst, .sco, .hv,
      .ports]
  | .bridgePartnerTimeout | .bridgeWack _ _ _ | .bridgeRdata _ _ _ _ | .bridgeTokenExpire _ |
    .bridgeDisable | .parkDrainEnd | .queueLeaseExpire _ | .queueDrainExpire _ =>
    [.mem .retA, .mem .retB, .regs 0x4, .regs 0x5, .regs 0x6, .regs 0x10, .regs 0x20, .regs
      0x31, .regs 0x40, .regs 0x41, .regs 0x42, .regs 0x50, .regs 0x60, .regs 0x62, .regs
      0x70, .regs 0x90, .ring, .leases, .lamp, .rcl, .boot, .ave, .xlt, .wrd, .xng, .ras,
      .dst, .rbt, .brg]
  | .nop _ | .startRoute _ | .lock _ | .unlock _ | .stopComplete _ =>
    [.mem .retA, .mem .retB, .regs 0x4, .regs 0x5, .regs 0x6, .regs 0x10, .regs 0x20, .regs
      0x31, .regs 0x40, .regs 0x41, .regs 0x42, .regs 0x50, .regs 0x60, .regs 0x62, .regs
      0x70, .regs 0x90, .ring, .leases, .lamp, .rcl, .boot, .ave, .xlt, .wrd, .xng, .ras,
      .dst, .rbt, .svc, .brg]
  | .offer _ =>
    [.mem .retA, .mem .retB, .regs 0x3, .regs 0x4, .regs 0x5, .regs 0x6, .regs 0x10, .regs
      0x20, .regs 0x31, .regs 0x40, .regs 0x41, .regs 0x42, .regs 0x50, .regs 0x60, .regs
      0x62, .regs 0x70, .regs 0x90, .ring, .leases, .lamp, .rcl, .boot, .ave, .xlt, .wrd,
      .xng, .ras, .dst, .rbt, .brg]
  | .pwrReqRunning _ | .pwrReqQuiet _ | .pwrReqParked _ =>
    [.mem .retA, .mem .retB, .regs 0x0, .regs 0x4, .regs 0x5, .regs 0x6, .regs 0x10, .regs
      0x20, .regs 0x31, .regs 0x40, .regs 0x41, .regs 0x42, .regs 0x50, .regs 0x60, .regs
      0x62, .regs 0x70, .regs 0x90, .ring, .leases, .lamp, .rcl, .boot, .ave, .xlt, .wrd,
      .xng, .ras, .dst, .rbt, .sco, .hv, .ports, .brg]
  | .ignOffDelayExpire | .quietTimeout | .thermalSample _ =>
    [.mem .retA, .mem .retB, .regs 0x0, .regs 0x1, .regs 0x4, .regs 0x5, .regs 0x6, .regs
      0x10, .regs 0x20, .regs 0x31, .regs 0x40, .regs 0x41, .regs 0x42, .regs 0x50, .regs
      0x60, .regs 0x62, .regs 0x70, .regs 0x90, .ring, .leases, .lamp, .rcl, .boot, .ave,
      .xlt, .wrd, .xng, .ras, .dst, .rbt, .sco, .hv, .ports, .brg]
  | .rasterBinPhaseDone =>
    [.mem .plaza, .mem .lpddr, .mem .retA, .mem .retB, .regs 0x4, .regs 0x5, .regs 0x6, .regs
      0x10, .regs 0x20, .regs 0x21, .regs 0x31, .regs 0x40, .regs 0x41, .regs 0x42, .regs
      0x50, .regs 0x60, .regs 0x62, .regs 0x70, .regs 0x90, .free, .ring, .leases, .lamp,
      .rcl, .boot, .ave, .xlt, .wrd, .xng, .ras, .dst, .rbt, .brg]

end Sys2Proof.Machine
end

