-- ==== Sys2Proof/WellFormed.lean ====
section
/-! DEFINITION. Which operands a command can carry: the ranges the spec gives its indexes and
fields (16 queues, 64 open stops, 1,024 crossings, 200 arrays, four service ports, and so on),
and the widths of the frames, flits and packets that bring them. -/

namespace Sys2Proof.Machine

/-- A source operand of Table 07-8: a six-bit code and an eight-bit swizzle. -/
abbrev CombSrc.ok (x : CombSrc) : Prop := x.reg < 64 ∧ x.swz < 256

/-- The fields of Table 07-8. -/
abbrev CombIns.ok (x : CombIns) : Prop :=
  x.dst < 64 ∧ x.wmask < 16 ∧ x.a.ok ∧ x.b.ok ∧ x.c.ok ∧ x.sampler < 4

/-- The sideband of a flit (Table 14-3). -/
abbrev Side.ok (x : Side) : Prop := x.seq < 256 ∧ x.ack < 256 ∧ x.credit < 64

/-- The strap balls: BOOTSEL has two (R70). -/
abbrev Straps.ok (x : Straps) : Prop := x.bootsel < 4

/-- The header of a short packet (R182, R183). -/
abbrev PacketHead.ok (x : PacketHead) : Prop := x.vc < 4 ∧ x.ecc < 3

/-- A fault message: a 16-bit code, a unit identifier and a 32-bit detail (R443). -/
abbrev FaultMsg.ok (x : FaultMsg) : Prop :=
  x.code < 2 ^ 16 ∧ x.unit < 256 ∧ x.detail < 2 ^ 32

end Sys2Proof.Machine

namespace Sys2Proof

open Machine

/-- The command's operands are in the ranges the spec gives them. -/
abbrev Instr.WellFormed (i : Instr) : Prop :=
  match i with
  | .porAssert => True
  | .porRelease _ => True
  | .x32CrystalLock => True
  | .x32EdgeMissed => True
  | .x32Fail => True
  | .x32EdgeReturn => True
  | .refStartTimeout => True
  | .refCountFail => True
  | .pllLocked p => p < 9
  | .sysPllLossOfLock => True
  | .pllLossOfLock p => 1 ≤ p ∧ p < 9
  | .wakeInputEdge src _ => src < 3
  | .wakeFilterElapsed src => src < 3
  | .timerAlarm => True
  | .pwrGoodRise straps => straps.ok
  | .pwrGoodTimeout => True
  | .selfTestDone _ _ => True
  | .wakingRetry => True
  | .pwrReqRunning _ => True
  | .pwrReqQuiet _ => True
  | .pwrReqParked _ => True
  | .ignOffDelayExpire => True
  | .quietTimeout => True
  | .parkDrainEnd => True
  | .parkPowerOff => True
  | .latchedWakeStart => True
  | .unitClockStarted u => u < 256
  | .autoGateIdle u => u < 256
  | .resetNAssert => True
  | .resetNRelease straps => straps.ok
  | .warmResetCommand => True
  | .pwrGoodFall => True
  | .retentionScrub _ => True
  | .thermalSample _ => True
  | .thermalWakeHoldEnd => True
  | .flashResetWaitEnd => True
  | .imageVerify _ _ => True
  | .configSectionCheck _ => True
  | .configRegWrite => True
  | .configProfile => True
  | .configLoader => True
  | .configDdr => True
  | .configEnd => True
  | .sectionLoaded _ _ => True
  | .flashCommandTimeout _ => True
  | .i2cWrite t => t < 4
  | .i2cExpect t => t < 4
  | .wait t => t < 4
  | .pinSet t => t < 4
  | .pinWait t => t < 4
  | .dsiCmd t => t < 4
  | .scriptEnd t => t < 4
  | .scriptTimeout t => t < 4
  | .pinWaitTimeout t => t < 4
  | .i2cTransferDone c _ _ => c < 2
  | .i2cRetryInterval c => c < 2
  | .i2cStretchTimeout c => c < 2
  | .i2cXferStart c v => c < 2 ∧ v < 2 ^ 32
  | .lpddrTrainingDone _ _ => True
  | .bridgeBootTimeout => True
  | .splashHoldElapsed => True
  | .repairReadDone _ => True
  | .plazaInitDone _ _ => True
  | .patrolScrub _ _ => True
  | .linkParityError node port _ _ => node < 36 ∧ port < 4
  | .lpddrMr4Poll mr4 mult _ => mr4 < 8 ∧ mult < 3
  | .runListPoolRoom => True
  | .xltInvalidate a => a < 16
  | .xltRootCommit a v => a < 16 ∧ v < 2 ^ 32
  | .poisonClear v => v < 2 ^ 32
  | .wardenDivergence w => w < 2
  | .wardenTakeover => True
  | .stopEnqueue q => q < 16
  | .stopDispatch w _ => w < 2
  | .stopComplete i => i < 64
  | .stopWatchdogExpire i u => i < 64 ∧ u < 256
  | .granuleOverrun c _ => c < 16
  | .granuleAbort c => c < 16
  | .granuleBoundary c _ _ => c < 16
  | .signalAdd n operand _ => n < 1024 ∧ operand < 2 ^ 32
  | .signalSet n operand _ => n < 1024 ∧ operand < 2 ^ 32
  | .signalRelease n q => n < 1024 ∧ q < 16
  | .queueLeaseExpire n => n < 256
  | .queueHalt q => q < 16
  | .queueResume q => q < 16
  | .queueDrainExpire q => q < 16
  | .xngSet n v => n < 1024 ∧ v < 2 ^ 32
  | .nop q => q < 16
  | .startRoute q => q < 16
  | .copy i => i < 64
  | .fill i => i < 64
  | .lock q => q < 16
  | .unlock q => q < 16
  | .rasterPass i => i < 64
  | .frontEndPassTaken => True
  | .rasterBinPhaseDone => True
  | .computeAdd i => i < 64
  | .computeSub i => i < 64
  | .computeMul i => i < 64
  | .computeMax i => i < 64
  | .computeMin i => i < 64
  | .computeRelu i => i < 64
  | .computeCvt i => i < 64
  | .computeBlend i => i < 64
  | .computeResample i => i < 64
  | .computeNorm i => i < 64
  | .computeSoftmax i => i < 64
  | .compose i => i < 64
  | .mov n ins => n < 16 ∧ ins.ok
  | .add n ins => n < 16 ∧ ins.ok
  | .sub n ins => n < 16 ∧ ins.ok
  | .mul n ins => n < 16 ∧ ins.ok
  | .mad n ins => n < 16 ∧ ins.ok
  | .lrp n ins => n < 16 ∧ ins.ok
  | .min n ins => n < 16 ∧ ins.ok
  | .max n ins => n < 16 ∧ ins.ok
  | .clmp n ins => n < 16 ∧ ins.ok
  | .dp2 n ins => n < 16 ∧ ins.ok
  | .dp3 n ins => n < 16 ∧ ins.ok
  | .dp4 n ins => n < 16 ∧ ins.ok
  | .rcp n ins => n < 16 ∧ ins.ok
  | .rsq n ins => n < 16 ∧ ins.ok
  | .exp2 n ins => n < 16 ∧ ins.ok
  | .log2 n ins => n < 16 ∧ ins.ok
  | .frc n ins => n < 16 ∧ ins.ok
  | .flr n ins => n < 16 ∧ ins.ok
  | .slt n ins => n < 16 ∧ ins.ok
  | .sge n ins => n < 16 ∧ ins.ok
  | .cmp n ins => n < 16 ∧ ins.ok
  | .tex n ins => n < 16 ∧ ins.ok
  | .scs n ins => n < 16 ∧ ins.ok
  | .kil n ins => n < 16 ∧ ins.ok
  | .arrayLayer i _ => i < 64
  | .arrayPass i _ _ _ => i < 64
  | .pageWrite i => i < 64
  | .pageWriteDone p _ => p < 200
  | .calibrationPeriodExpire p => p < 200
  | .calibrationGraceExpire p => p < 200
  | .calibrationDone p _ => p < 200
  | .startCalibrationDone _ => True
  | .sweepStep p _ _ => p < 200
  | .retirementMirror => True
  | .warp i _ => i < 64
  | .pyramid i _ => i < 64
  | .motion i _ => i < 64
  | .stats i _ => i < 64
  | .csiFrameStart h frameNum => h.ok ∧ frameNum < 65536
  | .csiFrameEnd h => h.ok
  | .csiLongPacket vc dt header payload _ =>
    vc < 4 ∧ dt < 64 ∧ header < 3 ∧ payload.length < 65536
  | .csiIgnoredPacket h => h.ok
  | .camFrameTimeout => True
  | .camStaleTimeout => True
  | .camStart v => v < 2 ^ 32
  | .camStop v => v < 2 ^ 32
  | .offer i => i < 64
  | .generate i _ => i < 64
  | .relocationCopyDone t => t < 6
  | .gateIterationStart g => g < 16
  | .gateBindSequence g => g < 16
  | .gateBindIntake g => g < 16
  | .gateWaitLimit g => g < 16
  | .trackEnable t v => t < 6 ∧ v < 2 ^ 32
  | .trackDisable t v => t < 6 ∧ v < 2 ^ 32
  | .lineStart _ _ _ => True
  | .teEdge x _ _ => x < 2
  | .teBMissing => True
  | .teTimeout => True
  | .freerunFrameStart => True
  | .outputEnable x => x < 2
  | .outputDisable x => x < 2
  | .displayModeChange k v => k < 10 ∧ v < 2 ^ 32
  | .colourRangeChange x range => x < 2 ∧ range < 2
  | .modeChangeIdleEnd x => x < 2
  | .panelSequenceWaitEnd x => x < 2
  | .dsiTxGo x => x < 2
  | .iconEnable n v => n < 64 ∧ v < 2 ^ 32
  | .sgnSramAccess _ v => v < 2 ^ 32
  | .signpostStatusRepeat => True
  | .killLineAssert => True
  | .killLineRelease => True
  | .hvWrite seq addr data => seq < 16 ∧ addr < 256 ∧ data < 2 ^ 32
  | .hvAck seq => seq < 16
  | .hvStatus idx data => idx < 256 ∧ data < 2 ^ 32
  | .hvHeartbeat seq => seq < 16
  | .hvResync seq => seq < 16
  | .hvAckTimeout => True
  | .hvHeartbeatTimer => True
  | .hvSideLinkLoss => True
  | .safeHoldExpire => True
  | .hvLinkLost => True
  | .hvResyncTimer => True
  | .vbatConversion code => code < 2 ^ 12
  | .headroomUpdate _ => True
  | .boostSoftStartDone => True
  | .boostIdleStop => True
  | .boostOvervoltage _ => True
  | .boostNoRegulation => True
  | .boostRestart => True
  | .pwmPeriodStart => True
  | .sinkOnTimeEnd k _ => k < 4
  | .sinkZeroTimeout k => k < 4
  | .rangeChange k v => k < 4 ∧ v < 2 ^ 32
  | .rangeSettled k => k < 4
  | .ntcConversionStart c => c < 3
  | .ntcConversionEnd c a b => c < 3 ∧ a < 4096 ∧ b < 4096
  | .hvsClear => True
  | .blOnDelayExpire x => x < 2
  | .canFrameReceived c ident ext _ data _ =>
    c < 2 ∧ ident < (if ext then 2 ^ 29 else 2 ^ 11) ∧ data.length ≤ 64
  | .canFrameTransmitted c => c < 2
  | .canBusOff c => c < 2
  | .canBusOffRecovery c => c < 2
  | .canHoldoffEnd c => c < 2
  | .canTxAbandon c => c < 2
  | .signalStale n => n < 64
  | .gspSegmentTimeout c => c < 2
  | .uartGapTimeout => True
  | .spiWrite _ _ => True
  | .spiRead => True
  | .spiStatus => True
  | .gspIdent p req payload => p < 4 ∧ req < 2 ^ 32 ∧ payload.length ≤ 1024
  | .gspRegRead p req payload => p < 4 ∧ req < 2 ^ 32 ∧ payload.length ≤ 1024
  | .gspRegWrite p req payload => p < 4 ∧ req < 2 ^ 32 ∧ payload.length ≤ 1024
  | .gspMemRead p req payload => p < 4 ∧ req < 2 ^ 32 ∧ payload.length ≤ 1024
  | .gspMemWrite p req payload => p < 4 ∧ req < 2 ^ 32 ∧ payload.length ≤ 1024
  | .gspConfigApply p req payload => p < 4 ∧ req < 2 ^ 32 ∧ payload.length ≤ 1024
  | .gspConfigRead p req payload _ => p < 4 ∧ req < 2 ^ 32 ∧ payload.length ≤ 1024
  | .gspFlashRead p req payload _ => p < 4 ∧ req < 2 ^ 32 ∧ payload.length ≤ 1024
  | .gspFlashErase p req payload => p < 4 ∧ req < 2 ^ 32 ∧ payload.length ≤ 1024
  | .gspFlashProgram p req payload => p < 4 ∧ req < 2 ^ 32 ∧ payload.length ≤ 1024
  | .flashOperationDone _ => True
  | .gspJournalRead p req payload _ => p < 4 ∧ req < 2 ^ 32 ∧ payload.length ≤ 1024
  | .gspRestart p req payload => p < 4 ∧ req < 2 ^ 32 ∧ payload.length ≤ 1024
  | .gspOtpKey p req payload => p < 4 ∧ req < 2 ^ 32 ∧ payload.length ≤ 1024
  | .gspOtpRevoke p req payload => p < 4 ∧ req < 2 ^ 32 ∧ payload.length ≤ 1024
  | .gspIntakeEvent p req payload => p < 4 ∧ req < 2 ^ 32 ∧ payload.length ≤ 1024
  | .gspResult p req payload => p < 4 ∧ req < 2 ^ 32 ∧ payload.length ≤ 1024
  | .intakeMirror => True
  | .changeJournalMirror => True
  | .vehicleStationary => True
  | .canDisable c => c < 2
  | .servicePortDisable p => p < 4
  | .bridgeDisable => True
  | .bridgeIdle d => d.ok
  | .bridgeHello part role _ build epoch =>
    part < 2 ^ 16 ∧ role < 4 ∧ build < 2 ^ 64 ∧ epoch < 2 ^ 64
  | .bridgeHeart d => d.ok
  | .bridgeWrite d tag addr data => d.ok ∧ tag < 256 ∧ addr < 2 ^ 36 ∧ data.length ≤ 256
  | .bridgeWack d tag _ => d.ok ∧ tag < 256
  | .bridgeRead d tag addr _ => d.ok ∧ tag < 256 ∧ addr < 2 ^ 36
  | .bridgeRdata d tag _ _ => d.ok ∧ tag < 256
  | .bridgeSignal d index flags v => d.ok ∧ index < 256 ∧ flags < 256 ∧ v < 2 ^ 32
  | .bridgeResetReq d magic => d.ok ∧ magic < 2 ^ 32
  | .bridgeImage d _ _ => d.ok
  | .bridgeImageEnd d _ => d.ok
  | .bridgeImageNak d _ => d.ok
  | .bridgeImageDone d _ => d.ok
  | .bridgeNak d => d.ok
  | .bridgeReplayTimeout => True
  | .bridgeHelloSend => True
  | .bridgeHeartSend => True
  | .bridgeTrainDone _ => True
  | .bridgeTrainTimeout => True
  | .bridgeLaneLockLoss n => n < 2
  | .bridgeRetrainDone _ _ => True
  | .bridgePartnerTimeout => True
  | .bridgeTokenExpire i => i < 64
  | .bridgeWaitExpire => True
  | .followResetTimer => True
  | .imageResendTimeout _ => True
  | .resetPartner => True
  | .faultMessage m => m.ok
  | .unitHeartbeat u => u < 256
  | .unitLeaseExpire n => n < 256
  | .recoveryNext => True
  | .recoveryWithdrawDone => True
  | .unitCheckDone _ _ => True
  | .reclaimerDivergence => True
  | .detourHoldRelease => True
  | .faultInject v => v < 2 ^ 32
  | .rwpValueWrite addr _ v => addr < 2 ^ 36 ∧ v < 2 ^ 32
  | .rwpComplementWrite addr _ v => addr < 2 ^ 36 ∧ v < 2 ^ 32
  | .rwpWordRead addr _ => addr < 2 ^ 36
  | .registerWrite addr _ v => addr < 2 ^ 36 ∧ v < 2 ^ 32
  | .csiPhyError => True
  | .sweepForceExpire p => p < 200
  | .hvFrameMismatch => True
  | .canErrorPassive c _ _ => c < 2
  | .uartMessageDiscard => True
  | .gspBadCmd p cmd req payload => p < 4 ∧ cmd < 256 ∧ req < 2 ^ 32 ∧ payload.length ≤ 1024
  | .bridgeFlitDiscard => True
  | .bridgeMalformedPacket d _ flits typ tag => d.ok ∧ flits ≤ 9 ∧ typ < 16 ∧ tag < 256
  | .mirrorOperationDone _ => True
  | .pinLevelReached t => t < 4
  | .i2cExpectRetryInterval t => t < 4
  | .scriptWaitElapsed t => t < 4
  | .dsiLpPacketSent x => x < 2

end Sys2Proof
end

