-- ==== Sys2Proof/Certificates/Slice0/Obligations.lean ====
section
/-! DEFINITION. The statements for the provers, family by family. -/

open Sys2Proof Sys2Proof.Machine

/-! ### Steps, the queue of commands and every command -/

/-- A step takes the command at the front of the queue and runs it with the rest of the queue; on
an empty queue one reference tick of 40 ns passes, in which the 48-bit tick counter counts at
32768 Hz, but not in OFF. That an idle step is one reference tick is the model's choice
(assumption 2). -/
def Obligations.StepRunsFrontCommandOrPassesTime : Prop :=
  (∀ (s : State) c l, step { s with pending := c :: l } = exec c { s with pending := l })
  ∧ (∀ s : State, s.pending = [] → s.lamp.power = .off →
    step s = .next { s with time := s.time + 1 })
  ∧ (∀ s : State, s.pending = [] → s.lamp.power ≠ .off → ∃ t, step s = .next t ∧ t.time = s.time + 1
    ∧ t.phase = (s.phase + 32768) % 25000000
    ∧ t.lamp.tick = (if 25000000 ≤ s.phase + 32768 then (s.lamp.tick + 1) % 2 ^ 48 else s.lamp.tick)
    ∧ ∀ p : Part, p ≠ .lamp → p.same s t)

/-- The state after reset is sound, has no command waiting, no fault recorded, no lease and no
register word that differs from its reset value, and is in OFF. -/
def Obligations.ResetStateIsSound : Prop :=
  State.reset.Sound ∧ State.reset.pending = [] ∧ State.reset.lamp.power = .off
    ∧ State.reset.regs = [] ∧ State.reset.ring = [] ∧ State.reset.leases = []
    ∧ ∀ r i j, State.reset.rd r i j = resetWord State.reset.ident r (r.at i j)

/-- Every step keeps a sound state sound: the memories stay in canonical form, register words,
pending values and leases stay by rising key, every register word keeps to its 32 bits, and the
fault ring holds at most 64 messages. -/
def Obligations.EveryStepKeepsSoundness : Prop :=
  ∀ s t : State, s.Sound → step s = .next t → t.Sound

/-- Every command runs in every state, and keeps to its parts of the state: every byte of the
other memories, every register of the other blocks and the other blocks' state are unchanged, and
so are the queue of commands and the time. -/
def Obligations.EveryCommandKeepsToItsParts : Prop :=
  ∀ c s, ∃ t, exec c s = .next t ∧ s.onlyChanges (mayChange c) t

/-! ### The lamplight domain (chapter 02) -/

/-- Table 02-10, first row: while the power-on reset is asserted the state is OFF with PMIC_EN low, the
tick at 0, every register at its reset value (so LAMP_RESET_CAUSE and SYS_RESET_CAUSE show POR alone)
and the retention RAM, the fault ring, the lease table, and every block's own state lost; the flash and the OTP
stay. At its release (R30) the device goes from OFF to PARKED and writes the retention header anew.
The reset values for which the spec gives none are the model's choice (assumption 1). -/
def Obligations.PowerOnResetLosesAllButFlashAndOtp : Prop :=
  (∀ s, ∃ t, exec .porAssert s = .next t ∧
      t.lamp.power = .off ∧ t.lamp.pmicEn = false ∧ t.lamp.tick = 0
      ∧ (∀ r i j, r.at i j + 4 < 2 ^ 32 → t.rd r i j = resetWord t.ident r (r.at i j))
      ∧ t.rd R.LAMP_RESET_CAUSE = 1 ∧ t.lamp.sysCause = 1
      ∧ t.ring = [] ∧ t.nextSeq = 1 ∧ t.retA = [] ∧ t.retB = [] ∧ t.leases = []
      ∧ t.boot = Boot.reset ∧ t.rcl = Rcl.reset ∧ t.ave = Ave.reset ∧ t.xlt = Xlt.reset
      ∧ t.wrd = Wrd.reset ∧ t.xng = Xng.reset ∧ t.cam = Cam.reset ∧ t.ras = Ras.reset
      ∧ t.dst = Dst.reset ∧ t.rbt = Rbt.reset ∧ t.sco = Sco.reset ∧ t.sgn = Sgn.reset
      ∧ t.svc = Svc.reset ∧ t.brg = Brg.reset ∧ t.can = [CanCtl.reset, CanCtl.reset]
      ∧ t.hv = { Hv.reset with ign := s.hv.ign }
      ∧ t.flash = s.flash ∧ t.otp = s.otp)
  ∧ (∀ s v, s.lamp.power = .off → ∃ t, exec (.porRelease v) s = .next t ∧
      t.lamp.power = .parked ∧ t.lamp.vhvLow = v ∧ t.lamp.tick = s.lamp.tick
      ∧ t.lamp.pmicEn = s.lamp.pmicEn ∧ s.onlyChanges [.mem .retA, .mem .retB, .free, .lamp] t)

/-- R32: the lock of the 32.768 kHz crystal takes the tick counter from the RC oscillator. R33: a crystal
edge that is missed opens the 4 RC periods of grace, an edge within them closes them, and neither
changes anything else; their end without an edge is the crystal's failure, with X32_FAIL set and
fault 0x0101. -/
def Obligations.ClockSourceFollowsTheCrystal : Prop :=
  ∀ s, s.lamp.power ≠ .off →
    (∃ t, exec .x32CrystalLock s = .next t ∧
      t = { s with lamp := { s.lamp with x32OnRc := false, x32Grace := false } })
    ∧ (s.lamp.x32OnRc = false → ∃ t, exec .x32EdgeMissed s = .next t ∧
      t = { s with lamp := { s.lamp with x32Grace := true } })
    ∧ (s.lamp.x32Grace = true →
      (∃ t, exec .x32EdgeReturn s = .next t
        ∧ t = { s with lamp := { s.lamp with x32Grace := false } })
      ∧ (∃ t, exec .x32Fail s = .next t ∧ t.lamp.x32OnRc = true ∧ t.lamp.x32Grace = false
          ∧ t.fld F.LAMP_CLK_EVENT_X32_FAIL = 1 ∧ s.reports t 0x0101 unitNone
          ∧ s.onlyChanges [.mem .retA, .mem .retB, .regs 0x01, .regs 0x90, .ring, .lamp, .rcl] t))

/-- R34: a reference crystal that does not start leaves WAKING in WAKING, on the RC oscillator, with
REF_FAIL set and fault 0x0001. A requested PLL that locks shows its LOCK bit; the SYS PLL's lock
in WAKING's step 3 takes it to step 4 (R41). R69: the hold of wake events ends by itself. -/
def Obligations.ReferenceAndPllsInWaking : Prop :=
  (∀ s, s.lamp.power = .waking → s.lamp.refOnRc = false →
    ∃ t, exec .refStartTimeout s = .next t ∧ t.lamp.power = .waking ∧ t.lamp.refOnRc = true
      ∧ t.fld F.LAMP_CLK_EVENT_REF_FAIL = 1 ∧ s.reports t 0x0001 unitNone
      ∧ s.onlyChanges [.mem .retA, .mem .retB, .regs 0x01, .regs 0x90, .ring, .lamp, .rcl] t)
  ∧ (∀ s p, p < 9 → bitN s.lamp.pllReq p = 1 → s.resettable = true → s.lamp.resetNLow = false →
    s.lamp.pwrGood = true → (s.lamp.power = .waking → 3 ≤ s.lamp.wakingStep) →
    ∃ t, exec (.pllLocked p) s = .next t ∧ bitN (t.fld F.SYS_PLL_STATUS_LOCK) p = 1
      ∧ (p = 0 → s.lamp.power = .waking → s.lamp.wakingStep = 3 → t.lamp.wakingStep = 4)
      ∧ s.onlyChanges [.regs 0x00, .regs 0x41, .lamp, .sco] t)
  ∧ (∀ s, ∃ t, exec .thermalWakeHoldEnd s = .next t ∧
      t = { s with lamp := { s.lamp with thermHold := false } })

/-- R53 to R57 and R35, R36, R54, R55: a warm reset commanded, a failing reference in RUNNING or QUIET, the
loss of the SYS PLL, RESET_N low, and the loss of PWR_GOOD each leave the state `State.restarted`
describes: WAKING at its third step, where PWR_GOOD is low and RESET_N is not the cause at its second; the cause
recorded in LAMP_RESET_CAUSE and SYS_RESET_CAUSE; PMIC_EN, the tick, the flash and the OTP kept; the
loader's state and the lease table as after reset. The reference failure leaves the reference on
the RC oscillator; RESET_N low holds xSPI in reset. -/
def Obligations.LogicSideResetsRestartWaking : Prop :=
  (∀ s, s.Sound → s.live = true → ∃ t, exec .warmResetCommand s = .next t
    ∧ State.restarted s t causeCmd)
  ∧ (∀ s, s.Sound → s.live = true → s.lamp.refOnRc = false → ∃ t, exec .refCountFail s = .next t ∧
      State.restarted s t causeRefFail ∧ t.lamp.refOnRc = true)
  ∧ (∀ s, s.Sound → s.live = true → ∃ t, exec .sysPllLossOfLock s = .next t
    ∧ State.restarted s t causeSysPll)
  ∧ (∀ s, s.Sound → s.resettable = true → ∃ t, exec .resetNAssert s = .next t ∧
      State.restarted s t causePin ∧ t.lamp.resetNLow = true ∧ t.ports.xspiRstN = false)
  ∧ (∀ s, s.Sound → s.resettable = true → s.lamp.pwrGood = true →
    ∃ t, exec .pwrGoodFall s = .next t ∧
      State.restarted { s with lamp := { s.lamp with pwrGood := false } } t causePgLoss
        ∧ t.lamp.pwrGood = false ∧ t.lamp.wakingStep = 2)

/-- R54, R70: on RESET_N's release in WAKING's third step, with PWR_GOOD high, the straps are
sampled, xSPI leaves reset, and nothing else changes. -/
def Obligations.ResetNReleaseSamplesStraps : Prop :=
  ∀ s x, s.lamp.resetNLow = true → s.lamp.power = .waking → s.lamp.wakingStep = 3 →
    s.lamp.pwrGood = true →
    ∃ t, exec (.resetNRelease x) s = .next t ∧ t = { s with
      lamp := { s.lamp with resetNLow := false, strapBalls := x, straps := x },
      ports := { s.ports with xspiRstN := true } }

/-- R31, R39 to R42, R70: a retry that is due, a latched wake event, the timer alarm and a wake input whose
filter elapses each take PARKED to WAKING with PMIC_EN high; PWR_GOOD takes WAKING to its third step, with
the straps sampled where RESET_N is high; its absence takes WAKING back to PARKED with PMIC_EN low
and fault 0x0105; an edge of a wake input starts its filter. -/
def Obligations.WakingStartsAndFails : Prop :=
  (∀ s, s.lamp.power = .parked → s.lamp.retryDue = true → ∃ t, exec .wakingRetry s = .next t ∧
      t.lamp.power = .waking ∧ t.lamp.wakingStep = 2 ∧ t.lamp.pmicEn = true
        ∧ t.lamp.attempts = s.lamp.attempts ∧ s.onlyChanges [.lamp, .hv] t)
  ∧ (∀ s, s.lamp.power = .parked → s.lamp.latchedWake = true → s.lamp.pwrGood = false →
      ∃ t, exec .latchedWakeStart s = .next t ∧ t.lamp.power = .waking ∧ t.lamp.wakingStep = 2
        ∧ t.lamp.pmicEn = true ∧ t.lamp.latchedWake = false ∧ t.lamp.attempts = 0
        ∧ s.onlyChanges [.lamp, .hv] t)
  ∧ (∀ s, s.lamp.power = .parked → s.wakeEnabled 3 = true → s.rd R.LAMP_TIMER_ALARM ≠ 0 →
      s.pairOk R.LAMP_WAKE_EN 0 0 = true →
      s.lamp.thermHold = false → s.railsUp = false → ∃ t, exec .timerAlarm s = .next t ∧
      t.lamp.power = .waking ∧ t.lamp.pmicEn = true ∧ t.rd R.LAMP_WAKE_CAUSE = 8)
  ∧ (∀ s k, s.lamp.power = .parked → s.wakeSource k = true → s.wakeEnabled k = true →
      s.pairOk R.LAMP_WAKE_EN 0 0 = true →
      (s.wakeFilter k).raw = true → (s.wakeFilter k).filtered = false → s.lamp.thermHold = false →
      s.railsUp = false → ∃ t, exec (.wakeFilterElapsed k) s = .next t ∧
      t.lamp.power = .waking ∧ t.lamp.pmicEn = true ∧ (t.wakeFilter k).filtered = true
          ∧ t.rd R.LAMP_WAKE_CAUSE = 2 ^ k + if (s.wakeFilter k).porArmed then 16 else 0)
  ∧ (∀ s x, s.lamp.power = .waking → s.lamp.wakingStep < 4 → s.lamp.resetNLow = false →
      ∃ t, exec (.pwrGoodRise x) s = .next t ∧
      t.lamp.pwrGood = true ∧ t.lamp.wakingStep = 3 ∧ t.lamp.straps = x
          ∧ t.ports.xspiRstN = true ∧ s.onlyChanges [.lamp, .ports] t)
  ∧ (∀ s x, s.lamp.power = .waking → s.lamp.wakingStep < 4 → s.lamp.resetNLow = true →
      ∃ t, exec (.pwrGoodRise x) s = .next t ∧
      t.lamp.pwrGood = true ∧ t.lamp.wakingStep = 3 ∧ t.lamp.straps = s.lamp.straps
          ∧ t.ports.xspiRstN = false ∧ s.onlyChanges [.lamp, .ports] t)
  ∧ (∀ s, s.lamp.power = .waking → s.lamp.wakingStep = 2 → s.lamp.pwrGood = false →
      ∃ t, exec .pwrGoodTimeout s = .next t ∧ t.lamp.power = .parked ∧ t.lamp.pmicEn = false
        ∧ t.lamp.attempts = s.lamp.attempts + 1
        ∧ t.lamp.retryDue = decide (s.lamp.attempts + 1 < 3) ∧ s.reports t 0x0105 unitNone)
  ∧ (∀ s k v, s.wakeSource k = true → (s.wakeFilter k).raw ≠ v →
    ∃ t, exec (.wakeInputEdge k v) s = .next t ∧
      (t.wakeFilter k).raw = v ∧ (t.wakeFilter k).since = s.lamp.tick)

/-- R43 to R46, R77, for a loader that has settled and one that has not: a request for QUIET and the
end of the ignition delay take RUNNING to QUIET; a request for RUNNING takes QUIET back to it, with the arrays due
for calibration; a request for PARKED and the end of the QUIET time-out start the park sequence, which
closes dispatch; before the loader has settled a request is held and nothing else of the
lamplight domain changes. The drain ends the sequence's third step where no stop is left open; its
last step resets the logic side and goes to PARKED with PMIC_EN low. -/
def Obligations.QuietAndPark : Prop :=
  (∀ s d, s.lamp.power = .running → ∃ t, exec (.pwrReqRunning d) s = .next t ∧
      t.lamp.power = .running ∧ t.boot.heldRequest = 0)
  ∧ (∀ s d, s.lamp.power = .quiet → s.lamp.parkStep = 0 → ∃ t, exec (.pwrReqRunning d) s = .next t ∧
      t.lamp.power = .running ∧ t.boot.heldRequest = 0 ∧ t.ave.ddrSelfRefresh = false)
  ∧ (∀ s d, s.live = true → s.settled = false → (∃ t, exec (.pwrReqQuiet d) s = .next t ∧
      t.boot.heldRequest = 1 ∧ t.lamp = s.lamp) ∧ ∃ t, exec (.pwrReqParked d) s = .next t ∧
      t.boot.heldRequest = 2 ∧ t.lamp = s.lamp)
  ∧ (∀ s d, s.lamp.power = .running → s.lamp.parkStep = 0 → s.settled = true →
      ∃ t, exec (.pwrReqQuiet d) s = .next t ∧ t.lamp.power = .quiet)
  ∧ (∀ s d, s.live = true → s.lamp.parkStep = 0 → s.settled = true → s.openStops = [] →
      ∃ t, exec (.pwrReqParked d) s = .next t ∧ t.lamp.parkStep = 6 ∧ t.wrd.closed = true)
  ∧ (∀ s, s.lamp.power = .running → s.lamp.parkStep = 0 → s.settled = true →
      s.pairOk R.LAMP_PARK_POLICY 0 0 = true →
      s.flag F.LAMP_PARK_POLICY_IGN_QUIET = true → s.ignLevel = false →
      ∃ t, exec .ignOffDelayExpire s = .next t ∧ t.lamp.power = .quiet)
  ∧ (∀ s, s.lamp.power = .quiet → s.lamp.parkStep = 0 → s.openStops ≠ [] →
      s.pairOk R.LAMP_PARK_POLICY 0 0 = true → s.pairOk R.LAMP_WAKE_EN 0 0 = true →
      s.fld F.LAMP_PARK_POLICY_QUIET_TIMEOUT ≠ 0 →
      ((upTo 3).all fun k => !s.wakeEnabled k || !(s.wakeFilter k).filtered) = true →
      ∃ t, exec .quietTimeout s = .next t ∧ t.lamp.parkStep = 3 ∧ t.wrd.closed = true)
  ∧ (∀ s, s.lamp.parkStep = 3 → s.openStops = [] → ∃ t, exec .parkDrainEnd s = .next t ∧
      t.lamp.parkStep = 6 ∧ s.onlyChanges [.mem .retA, .mem .retB, .lamp] t)
  ∧ (∀ s, s.live = true → s.lamp.parkStep = 6 → s.boot.flashOp = none →
    ∃ t, exec .parkPowerOff s = .next t ∧
      t.lamp.power = .parked ∧ t.lamp.pmicEn = false ∧ t.leases = [] ∧ t.boot = Boot.reset
        ∧ t.flash = s.flash ∧ t.retA = s.retA ∧ t.retB = s.retB)

/-- R49: the clock of a unit whose PLL has locked starts, with its bit of SYS_GATE_STATUS. R50: an idle
unit's clock stops, with its bit, where GATE_EN and IDLE_TICKS allow it. -/
def Obligations.UnitClocks : Prop :=
  (∀ s u b, s.lamp.power = .running → s.unitLocked u = true → gateBit u = some b →
      ∃ t, exec (.unitClockStarted u) s = .next t ∧
      bitN (t.rd R.SYS_GATE_STATUS) b = 1 ∧ s.onlyChanges [.regs 0x00, .wrd] t)
  ∧ (∀ s u b, s.lamp.power = .running → gateBit u = some b → s.flag F.SYS_GATE_CTRL_GATE_EN = true →
      s.fld F.SYS_GATE_CTRL_IDLE_TICKS ≠ 0 → s.unitBusy u = false →
        ∃ t, exec (.autoGateIdle u) s = .next t ∧
      bitN (t.rd R.SYS_GATE_STATUS) b = 0 ∧ s.onlyChanges [.regs 0x00] t)

/-- R36: the loss of lock of a PLL other than the SYS and the DDR PLL sets its bit in SYS_PLL_EVENT, raises
fault 0x0003, and fences every unit the PLL feeds; for the PLLs of an output and of the Bridge the statement takes an
output that is off and a link that is off. The loss of the DDR PLL ends in a warm reset with
cause ESCALATE. R59: a retention scrub that finds no uncorrectable word leaves no word in error
and retires no bank. R68: a sample in which every sensor reads the same temperature below 135 °C is recorded
with it as TJ_MAX; where no step change stands within the last 10 ms, the governor is then in
the step the reading calls for (R65). -/
def Obligations.PllLossRetentionScrubAndThermalSample : Prop :=
  (∀ s p, 1 ≤ p → p < 9 → p ≠ 7 → s.live = true → bitN (s.fld F.SYS_PLL_STATUS_LOCK) p = 1 →
    s.rcl.escalating = false → s.rcl.pending.length < 8 → (∀ u ∈ pllUnits p, u ∉ s.rcl.fenced) →
    (3 ≤ p → (s.output 0).active = false ∧ (s.output 0).phase = 0 ∧ (s.output 1).active = false
      ∧ (s.output 1).phase = 0 ∧ s.brg.link = 0) →
    ∃ t, exec (.pllLossOfLock p) s = .next t ∧ bitN (t.fld F.SYS_PLL_EVENT_LOL) p = 1
      ∧ bitN (t.fld F.SYS_PLL_STATUS_LOCK) p = 0
      ∧ s.reports t 0x0003 unitNone ∧ t.rcl.fenced = s.rcl.fenced ++ pllUnits p)
  ∧ (∀ s, s.Sound → s.live = true → bitN (s.fld F.SYS_PLL_STATUS_LOCK) 7 = 1 →
    ∃ t, exec (.pllLossOfLock 7) s = .next t ∧ s.restarted t causeEscalate)
  ∧ (∀ s es, s.lamp.power ≠ .off → s.lamp.retUnusable = false →
    (s.lamp.retARetired = false ∨ s.lamp.retBRetired = false) →
    (∀ e ∈ s.lamp.retErrs ++ es, e.uncorrectable = false) →
      ∃ t, exec (.retentionScrub es) s = .next t ∧
      t.lamp.retErrs = [] ∧ t.lamp.retLastUe = [] ∧ t.lamp.retARetired = s.lamp.retARetired
        ∧ t.lamp.retBRetired = s.lamp.retBRetired ∧ t.lamp.retUnusable = false
        ∧ t.fld F.LAMP_RET_STATUS_UE_COUNT = s.fld F.LAMP_RET_STATUS_UE_COUNT)
  ∧ (∀ s x, s.live = true → s.pairOk R.SYS_THERM_CTRL 0 0 = true → s.dst.mapped = false →
    s.badPairs [0x10] = [] → s.lamp.tempValid = List.replicate 12 true →
    validTemps (List.replicate 12 x) = List.replicate 12 true → x < 135 →
    (s.thermTarget x = s.lamp.thermStep →
      ∃ t, exec (.thermalSample (List.replicate 12 x)) s = .next t ∧
      t = { s with lamp := { s.lamp with temps := List.replicate 12 x, tjMax := x, hotSensor := 0 }
        })
    ∧ (s.lamp.thermChangedAt = none → ∃ t, exec (.thermalSample (List.replicate 12 x)) s = .next t ∧
      t.lamp.thermStep = s.thermTarget x ∧ t.lamp.tjMax = x))

/-! ### Plaza, the Avenue, LPDDR4X and translation (chapter 04) -/

/-- R109, R111, R112, R459: the initialisation in WAKING leaves Plaza zero, without error marks, poison
tags or region locks, and records the banks and links it found failed; one failed bank alone is
reported with fault 0x0304. -/
def Obligations.PlazaInitialisationClearsPlaza : Prop :=
  ∀ s banks links, s.lamp.power = .waking → 3 ≤ s.lamp.wakingStep → s.lamp.resetNLow = false →
    s.ave.initDone = false → ∃ t, exec (.plazaInitDone banks links) s = .next t ∧
      t.plaza = [] ∧ t.ave.initDone = true ∧ t.ave.plazaErrs = [] ∧ t.ave.plazaPoison = ⟨[], []⟩
        ∧ t.ave.locks = List.replicate 64 none
        ∧ (∀ b, b ∈ t.ave.failedBanks ↔ b ∈ banks ∧ b < 32)
        ∧ (∀ l, l ∈ t.ave.failedLinks ↔ l ∈ links)
        ∧ (∀ b, b < 32 → banks = [b] → links = [] → s.reports t 0x0304 (unitBank b))
        ∧ s.onlyChanges [.mem .plaza, .mem .retA, .mem .retB, .regs 0x90, .ring, .lamp, .rcl, .ave]
          t

/-- R113, R115: with the scrubber enabled and no other error recorded, the patrol scrub of a line corrects the
single-bit error it finds there and counts it. R130: a parity error that its replay mends is
counted and fails no link; the third failed replay in a row fails the link, which is reported with
fault 0x9006, and injection is held for the detour (R458). -/
def Obligations.ScrubAndLinkReplay : Prop :=
  (∀ s w, s.live = true → s.pairOk R.AVE_SCRUB_CTRL 0 0 = true → s.flag F.AVE_SCRUB_CTRL_EN = true →
    s.ave.plazaErrs = [] → 64 * (w / 8) < s.plazaTop →
    ∃ t, exec (.patrolScrub [w / 8] [⟨w, false⟩]) s = .next t ∧ t.ave = s.ave
      ∧ t.fld F.AVE_PLZ_ERR_COUNT_CE = min F.AVE_PLZ_ERR_COUNT_CE.max (s.fld F.AVE_PLZ_ERR_COUNT_CE
        + 1)
      ∧ t.fld F.AVE_EVENT_PLZ_CE = 1 ∧ s.onlyChanges [.regs 0x03] t)
  ∧ (∀ s n p lost, s.live = true → n < 36 → p < 4 → ⟨n, p⟩ ∉ s.ave.failedLinks →
    ∃ t, exec (.linkParityError n p false lost) s = .next t ∧ t.fld F.AVE_EVENT_LINK_REPLAY = 1
      ∧ t.fld F.AVE_REPLAY_COUNT_COUNT
          = min F.AVE_REPLAY_COUNT_COUNT.max (s.fld F.AVE_REPLAY_COUNT_COUNT + 1)
      ∧ t.ave.failedLinks = s.ave.failedLinks ∧ s.onlyChanges [.regs 0x03, .ave] t)
  ∧ (∀ s n p, s.live = true → n < 36 → p < 4 → s.ave.failedLinks = [] →
    s.ave.replayFails.find? (fun e => e.1 == ⟨n, p⟩) = some (⟨n, p⟩, 2) →
    ∃ t, exec (.linkParityError n p true []) s = .next t ∧ t.ave.failedLinks = [⟨n, p⟩]
      ∧ t.rcl.injectionHold = true ∧ t.rcl.detour = true ∧ s.reports t 0x9006 (unitRouter n))

/-- R125: a write of AVE_POISON_CLR that names a page of Plaza or a granule of LPDDR4X clears that one tag and
changes nothing else. R138: an MR4 reading is recorded and sets the refresh multiplier; above the
limit the multiplier is 2, with TEMP_HIGH set and fault 0x8003. -/
def Obligations.PoisonClearAndMr4 : Prop :=
  (∀ s i, s.live = true → i < 2 ^ 24 →
    (4096 * i < s.plazaTop → ∃ t, exec (.poisonClear i) s = .next t ∧
      t = { s with ave := { s.ave with plazaPoison := s.ave.plazaPoison.clear i } })
    ∧ (65536 * i < s.ave.ddrBytes → ∃ t, exec (.poisonClear (i + 2 ^ 31)) s = .next t ∧
      t = { s with ave := { s.ave with ddrPoison := s.ave.ddrPoison.clear i } }))
  ∧ (∀ s m k hot, s.live = true → s.ave.ddrInit = true → s.ave.ddrSelfRefresh = false →
    ∃ t, exec (.lpddrMr4Poll m k hot) s = .next t ∧ t.fld F.DDR_STATUS_MR4_RATE = m % 8
      ∧ t.fld F.DDR_STATUS_REF_MULT = (if hot then 2 else min k 2)
      ∧ (hot = true → t.fld F.DDR_EVENT_TEMP_HIGH = 1 ∧ s.reports t 0x8003 unitDdr)
      ∧ (hot = false → s.onlyChanges [.regs 0x80] t))

/-- R147, R149, for an ASID whose increment need not wait: an invalidation and the commit of a root each
advance the generation of their ASID by one; the root committed is in the register and is the one
that translation uses. -/
def Obligations.InvalidationAndRootCommit : Prop :=
  (∀ s a, s.live = true → 1 ≤ a → a < 16 → s.xlt.deferred = [] →
    s.holdsRun a (fun l => l.gen == (s.gen a + 1) % 2 ^ 32) = false →
    ∃ t, exec (.xltInvalidate a) s = .next t ∧ t.rd R.XLT_GEN a = (s.rd R.XLT_GEN a + 1) % 2 ^ 32)
  ∧ (∀ s a v, s.live = true → 1 ≤ a → a < 16 → s.xlt.deferred = [] → s.xlt.roots.length = 16 →
    s.holdsRun a (fun l => l.gen == (s.gen a + 1) % 2 ^ 32) = false →
    ∃ t, exec (.xltRootCommit a v) s = .next t ∧ t.rd R.XLT_ROOT_HI a = v % 2 ^ 32 &&& 0x10F
      ∧ nth (0, false) t.xlt.roots a
          = (s.fld F.XLT_ROOT_LO_ROOT a * 4096 + v % 16 * 2 ^ 32, bitN v 8 == 1)
      ∧ t.rd R.XLT_GEN a = (s.rd R.XLT_GEN a + 1) % 2 ^ 32)

/-! ### Faults and recovery (chapter 16) -/

/-- R451 to R456, Table 16-9: with no recovery running, the oldest pending one starts, its first two steps
free its units' reservations, and it is in step 3; with its units' stops withdrawn, and no unit of it recovered
three times in the last second, it goes on to step 6; a check that passes ends it; a unit that
does not answer ends it in a warm reset with cause ESCALATE (R457). -/
def Obligations.RecoveryRunsItsSteps : Prop :=
  (∀ s r rest, s.live = true → s.rcl.escalating = false → s.rcl.current = none →
    s.rcl.pending = r :: rest → ∃ t, exec .recoveryNext s = .next t ∧ t.rcl.pending = rest
      ∧ (∃ c, t.rcl.current = some c ∧ c.units = r.units ∧ c.step = 3 ∧ c.executing = r.executing)
      ∧ s.onlyChanges [.leases, .rcl, .ave] t)
  ∧ (∀ s r, s.rcl.current = some r → r.step = 3 →
    (∀ i ∈ r.executing, s.stillServes r.units i = false) → (∀ u ∈ r.units, s.recoveries u < 3) →
    ∃ t, exec .recoveryWithdrawDone s = .next t ∧
      t = { s with rcl := { s.rcl with current := some { r with step := 6 } } })
  ∧ (∀ s r, s.rcl.current = some r → r.step = 6 → s.unitsClocked r = true →
    ∃ t, exec (.unitCheckDone true true) s = .next t ∧ t.rcl.current = none)
  ∧ (∀ s r ok, s.Sound → s.live = true → s.rcl.current = some r →
    ∃ t, exec (.unitCheckDone false ok) s = .next t ∧ s.restarted t causeEscalate)

/-- R443: a fault message with a code that is no unit's own fault leaves its record. R451, R462: a tile core that
reports a fault of its own, or into which a fault is injected, is recorded, fenced, and has one
recovery pending. -/
def Obligations.FaultMessagesAndInjection : Prop :=
  (∀ s m, s.live = true → isUnit m.unit = true → isFaultCode m.code = true →
    isUnitFault m.code = false → ∃ t, exec (.faultMessage m) s = .next t
      ∧ s.reports t m.code m.unit)
  ∧ (∀ s m, s.live = true → 12 ≤ m.unit → m.unit < 28 → isFaultCode m.code = true →
    isUnitFault m.code = true → s.faultsInCheck m.unit = none → s.rcl.escalating = false →
    s.rcl.pending.length < 8 → m.unit ∉ s.rcl.fenced → ∃ t, exec (.faultMessage m) s = .next t ∧
      s.reports t m.code m.unit ∧ t.rcl.fenced = s.rcl.fenced ++ [m.unit]
        ∧ t.rcl.pending.length = s.rcl.pending.length + 1)
  ∧ (∀ s u, s.live = true → 12 ≤ u → u < 28 → s.faultsInCheck u = none → s.rcl.escalating = false →
    s.rcl.pending.length < 8 → u ∉ s.rcl.fenced →
      ∃ t, exec (.faultInject (0xA5000000 + u)) s = .next t ∧
      s.reports t 0x900B u ∧ t.rcl.fenced = s.rcl.fenced ++ [u]
        ∧ t.rcl.pending.length = s.rcl.pending.length + 1)

/-- R446: a heartbeat renews its unit's lock and Bridge records and changes nothing else. R447: a tile core's expired
lease is reported with fault 0x9007 and fences the core. R448, R173: of a queue with no open
stop, an expired lease on a lock frees the lock with fault 0x900A, one on a mutex leaves the mutex free
with fault 0x0603. -/
def Obligations.LeasesRenewedAndExpired : Prop :=
  (∀ s u, s.Sound → s.live = true → ∃ t, exec (.unitHeartbeat u) s = .next t ∧
      (∀ n l, keyGet s.leases n = some l → keyGet t.leases n = some
      (if l.ownerKind = 3 ∧ l.owner = u ∧ (l.kind = 1 ∨ l.kind = 4)
       then { l with expiry := (s.ref32 + l.term) % 2 ^ 32 } else l))
    ∧ s.onlyChanges [.leases] t)
  ∧ (∀ s n l, s.live = true → keyGet s.leases n = some l → l.ownerKind = 3 → l.term ≠ 0 →
    12 ≤ l.owner → l.owner < 28 → s.rcl.escalating = false → s.rcl.pending.length < 8 →
    l.owner ∉ s.rcl.fenced → ∃ t, exec (.unitLeaseExpire n) s = .next t ∧
      s.reports t 0x9007 l.owner ∧ t.rcl.fenced = s.rcl.fenced ++ [l.owner])
  ∧ (∀ s n l, s.live = true → keyGet s.leases n = some l → l.ownerKind = 1 → l.term ≠ 0 →
    s.openOf l.owner = [] → ∃ t, exec (.queueLeaseExpire n) s = .next t ∧
      (l.kind = 1 → n < 64 → nth none t.ave.locks n = none ∧ s.reports t 0x900A unitNone)
      ∧ (l.kind ≠ 1 → (t.crossing l.resource).value = 0 ∧ s.reports t 0x0603 unitXng))

/-- R449, R450: a diverging reclaimer pair ends in a warm reset with cause ESCALATE. R458: the injection
hold ends. R168: a stop whose watchdog expires leaves its slot, recorded as the last failure of its queue with
status TIMEOUT where it holds no unit; of a tile core, the core is fenced. R170: a granule over its limit is
counted and reported with fault 0x0503, one that has to be aborted takes its stop out of its slot. -/
def Obligations.DivergenceWatchdogsAndGranules : Prop :=
  (∀ s, s.Sound → s.live = true → s.rcl.pairOk = true → ∃ t, exec .reclaimerDivergence s = .next t ∧
      s.restarted t causeEscalate ∧ t.rcl.pairOk = false)
  ∧ (∀ s, s.rcl.detour = true → ∃ t, exec .detourHoldRelease s = .next t ∧
      t = { s with rcl := { s.rcl with injectionHold := false } })
  ∧ (∀ s i u o, s.live = true → s.slotOf i = some o →
    (o.units = [] → o.withdraw = none → s.brg.fallbackDue = false →
      ∃ t, exec (.stopWatchdogExpire i u) s = .next t ∧
      t.slotOf i = none
        ∧ t.rd R.WRD_Q_LASTFAIL o.stop.queue = o.stop.tag % 2 ^ 16 + 6 * 2 ^ 16)
    ∧ (o.units.contains u = true → 12 ≤ u → u < 28 → s.rcl.escalating = false →
      s.rcl.pending.length < 8 → u ∉ s.rcl.fenced →
        ∃ t, exec (.stopWatchdogExpire i u) s = .next t ∧
      t.slotOf i = none ∧ t.rcl.fenced = s.rcl.fenced ++ [u] ∧ s.reports t 0x0505 u))
  ∧ (∀ s c n o, s.coreSlot c = some o → ∃ t, exec (.granuleOverrun c n) s = .next t ∧
      t.fld F.WRD_EVENT_GRAN_OVER = 1 ∧ s.reports t 0x0503 (unitTile c)
      ∧ s.fld F.WRD_GRAN_MAX_TICKS ≤ t.fld F.WRD_GRAN_MAX_TICKS
      ∧ s.onlyChanges [.mem .retA, .mem .retB, .regs 0x05, .regs 0x90, .ring, .lamp, .rcl] t)
  ∧ (∀ s c o, s.coreSlot c = some o → ∃ t, exec (.granuleAbort c) s = .next t
    ∧ t.slotOf o.slot = none)

/-! ### The wardens and the crossings (chapter 05) -/

/-- R143, R146, R160, in a state without memory errors: a running queue with room fetches its next stop; a stop
that passes the checks and translates becomes its youngest one; a stop that fails the checks, of a section that
can be repaired, halts the queue. Of a queue that waits for pool room with its oldest stop untranslated, room
lets that stop be translated. -/
def Obligations.QueuesFetchTheirStops : Prop :=
  (∀ s q pos iter l, q < 16 → s.wrd.queues.length = 16 → s.live = true →
    let u := (setF F.SYS_GATE_STATUS_PXL_CLK 1).run s
    (u.queue q).state = 1 → u.wrd.closed = false → u.wardenOk (u.queue q).owner = true →
    (u.queue q).enq.length < 8 → (u.queue q).nextStop = some (pos, iter) →
    u.ave.plazaErrs = [] → u.ave.ddrErrs = [] → (u.fetchStop q pos iter).bad = none →
    u.attach (u.fetchStop q pos iter).stop = .ok l → ∃ t, exec (.stopEnqueue q) s = .next t ∧
      (t.queue q).enq.length = (s.queue q).enq.length + 1 ∧ (t.queue q).next = pos + 1
        ∧ (t.queue q).iter = iter ∧ q ∉ t.xlt.waiting)
  ∧ (∀ s q pos iter line, q < 16 → s.wrd.queues.length = 16 → s.live = true →
    let u := (setF F.SYS_GATE_STATUS_PXL_CLK 1).run s
    (u.queue q).state = 1 → u.wrd.closed = false → u.wardenOk (u.queue q).owner = true →
    (u.queue q).enq.length < 8 → (u.queue q).nextStop = some (pos, iter) →
    u.ave.plazaErrs = [] → u.ave.ddrErrs = [] → (u.fetchStop q pos iter).bad = some line →
    u.canRepair line = true → ∃ t, exec (.stopEnqueue q) s = .next t ∧
      (t.queue q).badStop = true ∧ (t.queue q).state ≠ 1)
  ∧ (∀ s q w st rest l, q < 16 → s.wrd.queues.length = 16 → s.live = true →
    s.xlt.waiting = q :: w → (s.queue q).enq = st :: rest → st.queue = q → st.runs = none →
    s.ave.plazaErrs = [] → s.ave.ddrErrs = [] →
    st.ranges ≠ [] → s.attach st = .ok l → ∃ t, exec .runListPoolRoom s = .next t ∧
      q ∉ t.xlt.waiting ∧ ((t.queue q).enq.head?).map (fun x => x.runs) = some l)

/-- R165, R166, R175: where a warden's schedule selects a queue whose oldest stop may go to units, the dispatch
takes that stop out of the queue into a slot with those units (of an ARRAY_LAYER, where its descriptor
passes R290's dispatch check). R162, R163: with every crossing's words and the queue's configuration consistent,
a NOP, START_ROUTE, LOCK or UNLOCK that may be dispatched leaves its queue; START_ROUTE starts an idle queue on
its route; LOCK takes a lock entry for each of its page runs; UNLOCK leaves its queue no lock that equals
one of them. -/
def Obligations.DispatchAndWardenOpcodes : Prop :=
  (∀ s w lat q st rest units,
    let u := (Prog.each ((upTo 16).filter fun q => (s.queue q).owner == w) settleDecision).run s
    w < 2 → s.live = true → s.wardenOk w = true → u.scheduled w = some q → q < 16 →
    u.wrd.queues.length = 16 → u.wrd.slots.length = 64 → (u.queue q).enq = st :: rest →
    st.queue = q → u.decideDispatch q = .go st units → opcodeKind st.opcode ≠ some 0 →
    (st.opcode = 0x20 → layerOk st.descLines st.desc = true) →
    ∃ t, exec (.stopDispatch w lat) s = .next t ∧
      (∃ i o, t.slotOf i = some o ∧ o.stop = st ∧ o.units = units)
        ∧ (t.queue q).enq.length = rest.length)
  ∧ (∀ s q st rest, q < 16 → s.wrd.queues.length = 16 → s.brg.fallbackDue = false →
    (∀ n, (s.crossing n).pairsOk = true) → s.pairOk R.WRD_Q_CFG q 0 = true →
    (s.queue q).enq = st :: rest → st.queue = q →
    (s.dispatches q 0x00 = true → ∃ t, exec (.nop q) s = .next t
      ∧ (t.queue q).enq.length = rest.length)
    ∧ (s.dispatches q 0x01 = true →
      (s.queue ((s.routeEntry (param st.desc 0 2)).queue % 16)).state = 0 →
      ∃ t, exec (.startRoute q) s = .next t ∧ (t.queue q).enq.length = rest.length
        ∧ (t.queue ((s.routeEntry (param st.desc 0 2)).queue % 16)).state = 1
        ∧ (t.queue ((s.routeEntry (param st.desc 0 2)).queue % 16)).route = param st.desc 0 2)
    ∧ (s.dispatches q 0x01 = true →
      (s.queue ((s.routeEntry (param st.desc 0 2)).queue % 16)).state ≠ 0 →
      ∃ t, exec (.startRoute q) s = .next t ∧ (t.queue q).enq.length = rest.length
        ∧ t.fld F.WRD_EVENT_QUEUE_BUSY = 1 ∧ s.reports t 0x0507 (s.queue q).owner)
    ∧ (s.dispatches q 0x04 = true → s.ave.locks.length = 64 → ∃ t, exec (.lock q) s = .next t ∧
      (t.queue q).enq.length = rest.length ∧ ∀ l r, st.runs = some l → r ∈ l.runs → ∃ n < 64,
        nth none t.ave.locks n = some ⟨r.pfn, r.count, param st.desc 0 1, .queue q, false⟩)
    ∧ (s.dispatches q 0x05 = true → ∃ t, exec (.unlock q) s = .next t ∧
      (t.queue q).enq.length = rest.length ∧ ∀ l r n k, st.runs = some l → r ∈ l.runs → n < 64 →
        nth none t.ave.locks n = some k → k.holder = .queue q →
        ¬ (r.pfn = k.base ∧ r.count = k.pages)))

/-- R164, for a stop without memory errors or poisoned inputs: FILL writes its pattern over its range, and COPY the bytes
of its source over its destination; the stop's work is then done. R175: a stop whose work is done, with no
unit fenced, no remote access open and no withdrawal asked, completes and gives up its slot. -/
def Obligations.CopyFillAndCompletion : Prop :=
  (∀ s i o, s.ready i 0x03 o → s.slotOwned i = true → ∃ t, exec (.fill i) s = .next t ∧
      s.worked i o (stopWrite i o.stop (param o.stop.desc 0 1) 0
      ((upTo (rangeAt o.stop.desc (param o.stop.desc 0 1)).len).map fun j =>
        nth 0 (leBytes 4 (param o.stop.desc 2 4)) (j % 4))) t)
  ∧ (∀ s i o, s.ready i 0x02 o → s.slotOwned i = true → ∃ t, exec (.copy i) s = .next t ∧
      s.worked i o (stopWrite i o.stop (param o.stop.desc 1 1) 0
      (s.rbs o (param o.stop.desc 0 1) 0 (rangeAt o.stop.desc (param o.stop.desc 0 1)).len)) t)
  ∧ (∀ s i o, s.slotOf i = some o → s.live = true → o.done = true → o.withdraw = none →
    s.remotesOf i = [] → o.units.any s.rcl.fenced.contains = false →
    (s.wardenOk (s.queue o.stop.queue).owner = true ∨ o.units ≠ []) → s.brg.fallbackDue = false →
    ∃ t, exec (.stopComplete i) s = .next t ∧ t.slotOf i = none)

/-- R120: what a stop writes lands in its own range: a byte of Plaza in no piece of the range
written stays as it was. -/
def Obligations.StopWritesStayInTheirRange : Prop :=
  ∀ s i st k off bs a, s.ave.plazaErrs = [] → s.ave.ddrErrs = [] →
    (∀ x y, onChip (s.place (st.pa x y)) = true) →
    (∀ p ∈ st.pieces k (bs.length / 4096 + 2) off bs.length, ¬ (p.1 ≤ a ∧ a < p.1 + p.2)) →
    a < s.plazaTop →
    ((stopWrite i st k off bs).run s).paByte a = s.paByte a

/-- R171 to R174, R176: on a counter above 15 whose words are consistent and that is not BROKEN, ADD adds and SET
stores; a failed signal that changes the value leaves a valid window that starts at the old value, and a SET that
did not fail leaves no window. On a device crossing both are refused with fault 0x0604 and change no crossing.
RELEASE frees a mutex for its holder, and for any other queue changes none, with fault 0x0602. XNG_SET gives a counter
above 15 its value with an empty window, and is refused on a device crossing. -/
def Obligations.SignalsAndCrossings : Prop :=
  (∀ s n v failed, s.live = true → 16 ≤ n → n < 1024 → (s.crossing n).pairsOk = true →
    s.isMutex n = false → (s.crossing n).broken = false →
    (∃ t, exec (.signalAdd n v failed) s = .next t ∧
      (t.crossing n).value = ((s.crossing n).value + v) % 2 ^ 32 ∧ (t.crossing n).pairsOk = true
        ∧ (failed = true → ((s.crossing n).value + v) % 2 ^ 32 ≠ (s.crossing n).value →
          (t.crossing n).winLo = (s.crossing n).value ∧ (t.crossing n).winValid = true))
    ∧ ∃ t, exec (.signalSet n v failed) s = .next t ∧ (t.crossing n).value = v % 2 ^ 32
        ∧ (failed = true → v % 2 ^ 32 ≠ (s.crossing n).value →
          (t.crossing n).winLo = (s.crossing n).value ∧ (t.crossing n).winValid = true)
        ∧ (failed = false → (t.crossing n).winValid = false))
  ∧ (∀ s n v failed, s.live = true → n < 16 →
    (∃ t, exec (.signalAdd n v failed) s = .next t ∧ t.fld F.XNG_EVENT_DEVICE_SET = 1
      ∧ s.reports t 0x0604 unitXng ∧ t.xng = s.xng)
    ∧ ∃ t, exec (.signalSet n v failed) s = .next t ∧ t.fld F.XNG_EVENT_DEVICE_SET = 1
      ∧ s.reports t 0x0604 unitXng ∧ t.xng = s.xng)
  ∧ (∀ s n q, s.live = true → 16 ≤ n → n < 1024 → q < 16 → (s.crossing n).pairsOk = true →
    s.isMutex n = true → (s.crossing n).broken = false →
    ((s.crossing n).value = 0x80000000 + q → ∃ t, exec (.signalRelease n q) s = .next t ∧
      (t.crossing n).value = 0)
    ∧ ((s.crossing n).value ≠ 0x80000000 + q → (s.crossing n).value ≠ 0 →
      ∃ t, exec (.signalRelease n q) s = .next t ∧ t.xng = s.xng ∧ s.reports t 0x0602 unitXng))
  ∧ (∀ s n v, s.live = true → n < 1024 →
    (16 ≤ n → s.isMutex n = false → ∃ t, exec (.xngSet n v) s = .next t ∧
      t.crossing n = Crossing.fresh v ∧ t.rd R.XNG_SET_VAL = v % 2 ^ 32)
    ∧ (n < 16 → ∃ t, exec (.xngSet n v) s = .next t ∧ t.xng = s.xng ∧ s.reports t 0x0604 unitXng))

/-- R181: HALT closes a running queue, which is halted at once if it holds no open stop; RESUME opens it again,
and of a halted queue puts the withdrawn stops back; at the end of the drain a stop on no tile core is
withdrawn, and a stop on a tile core is marked to stop at the next granule boundary. R169, R238: at a granule
boundary, a core that was asked to give way, or whose stop is to be withdrawn, gives way, the first counted as a
pre-emption; a boundary at which nothing was asked records its length only. -/
def Obligations.HaltResumeAndPreemption : Prop :=
  (∀ s q, q < 16 → s.live = true → s.wrd.queues.length = 16 → s.brg.fallbackDue = false →
    s.xlt.deferred = [] → (s.queue q).state = 1 → ∃ t, exec (.queueHalt q) s = .next t ∧
      (t.queue q).state = (if s.openOf q = [] then 2 else 3))
  ∧ (∀ s q, q < 16 → s.live = true → s.wrd.queues.length = 16 →
    ((s.queue q).state = 3 → ∃ t, exec (.queueResume q) s = .next t ∧
      (t.queue q).state = 1 ∧ s.onlyChanges [.wrd] t)
    ∧ ((s.queue q).state = 2 → ∃ t, exec (.queueResume q) s = .next t ∧ (t.queue q).state = 1
      ∧ (t.queue q).withdrawn = []
      ∧ (t.queue q).enq.length = (s.queue q).withdrawn.length + (s.queue q).enq.length))
  ∧ (∀ s q o, q < 16 → s.live = true → s.wrd.queues.length = 16 → s.brg.fallbackDue = false →
    (s.queue q).state = 3 → s.openOf q = [o] → s.slotOf o.slot = some o → o.withdraw = none →
    ((∀ u ∈ o.units, ¬ (12 ≤ u ∧ u < 28)) → ∃ t, exec (.queueDrainExpire q) s = .next t ∧
      t.slotOf o.slot = none ∧ (t.queue q).state = 2
        ∧ (t.queue q).withdrawn.length = (s.queue q).withdrawn.length + 1)
    ∧ (∀ u, u ∈ o.units → 12 ≤ u → u < 28 → o.started = true →
      ∃ t, exec (.queueDrainExpire q) s = .next t ∧
      t.slotOf o.slot = some { o with withdraw := some 7 } ∧ s.onlyChanges [.wrd] t))
  ∧ (∀ s c (g : GranuleSeen) ticks o, c < 16 → s.live = true → s.ave.plazaErrs = [] →
    s.ave.ddrErrs = [] →
    s.slotOf o.slot = some o →
    s.openStops.find? (fun o => o.units.contains (unitTile c)
      && (o.preempt.contains (unitTile c) || o.withdraw.isSome)) = some o →
    (o.withdraw = none → s.pairOk R.TILE_SAVE_BASE 0 0 = true →
      ∃ t, exec (.granuleBoundary c g ticks) s = .next t ∧ t.fld F.TILE_EVENT_PREEMPT = 1
        ∧ t.fld F.TILE_PREEMPT_COUNT_COUNT
            = min F.TILE_PREEMPT_COUNT_COUNT.max (s.fld F.TILE_PREEMPT_COUNT_COUNT + 1))
    ∧ (∀ k, o.withdraw = some k → o.units = [unitTile c] →
      ∃ t, exec (.granuleBoundary c g ticks) s = .next t ∧ t.slotOf o.slot = none))
  ∧ (∀ s c (g : GranuleSeen) ticks, c < 16 → s.live = true → g.corrected = 0 →
    (∃ o ∈ s.openStops, unitTile c ∈ o.units) →
    (∀ o ∈ s.openStops, unitTile c ∈ o.units → o.preempt = [] ∧ o.withdraw = none) →
    ∃ t, exec (.granuleBoundary c g ticks) s = .next t ∧
      s.fld F.WRD_GRAN_MAX_TICKS ≤ t.fld F.WRD_GRAN_MAX_TICKS ∧ s.onlyChanges [.regs 0x05] t)

/-- R155, R156: a warden whose pair diverges is fenced, with fault 0x0501; the takeover gives every queue to the other
warden, with fault 0x0506. -/
def Obligations.WardenTakeoverMovesEveryQueue : Prop :=
  (∀ s w, w < 2 → s.live = true → s.wardenOk w = true → s.wardenOk (1 - w) = true →
    s.wrd.takeover = false → ∃ t, exec (.wardenDivergence w) s = .next t ∧
      t.wardenOk w = false ∧ t.wardenOk (1 - w) = true ∧ t.wrd.diverged = some w
        ∧ w ∈ t.ave.gates ∧ t.fld F.WRD_EVENT_DIVERGE = 1 ∧ s.reports t 0x0501 w)
  ∧ (∀ s w, s.live = true → s.wrd.diverged = some w → ∃ t, exec .wardenTakeover s = .next t ∧
      t.wrd.takeover = true ∧ t.wrd.diverged = none ∧ (∀ q, q < 16 → (t.queue q).owner = 1 - w)
      ∧ t.fld F.WRD_EVENT_TAKEOVER = 1 ∧ s.reports t 0x0506 (1 - w))

/-! ### The high-voltage side (chapter 12) -/

/-- R350: the kill line returns the HV side's registers, sinks and channels to reset. R356,
R359, R360: the boost's soft start, idle stop, retries and latch. R366, R376: CLEAR clears
the latches. -/
def Obligations.KillLineAndBoost : Prop :=
  (∀ s, ∃ t, exec .killLineAssert s = .next t ∧ t.hv.kill = true ∧ t.hv.boost = 0 ∧ t.hv.hvRegs = []
      ∧ t.hv.sinks = List.replicate 4 Sink.reset ∧ t.hv.ntcs = List.replicate 3 Ntc.reset
      ∧ s.onlyChanges [.hv] t)
  ∧ (∀ s, s.live = true → ∃ t, exec .killLineRelease s = .next t ∧
      t = { s with hv := { s.hv with kill := false } })
  ∧ (∀ s, s.hv.boost = 1 → ∃ t, exec .boostSoftStartDone s = .next t ∧
      t.hv.boost = 2 ∧ t.hv.retries = s.hv.retries ∧ s.onlyChanges [.hv] t)
  ∧ (∀ s, s.anyOutput = false → s.hv.sinks.all (fun x => !x.on) = true →
    (s.hv.boost = 1 ∨ s.hv.boost = 2) → ∃ t, exec .boostIdleStop s = .next t ∧
      t.hv.boost = 0 ∧ t.hv.retries = 0 ∧ s.onlyChanges [.hv] t)
  ∧ (∀ s, s.hv.restartDue = true → s.hvUp = true → ∃ t, exec .boostRestart s = .next t ∧
      t = { s with hv := { s.hv with
      restartDue := false, retries := s.hv.retries + 1, boost := 1, target := max 200 s.hv.target }
        })
  ∧ (∀ s, s.hv.boost = 2 → ∃ t, exec .boostNoRegulation s = .next t ∧
      (s.hv.retries < 3 → t.hv.boost = 0 ∧ t.hv.restartDue = true ∧ s.reports t 0x5006 unitHub)
      ∧ (3 ≤ s.hv.retries → t.hv.boost = 3 ∧ t.hv.restartDue = false ∧ s.reports t 0x5007 unitHub)
      ∧ ∀ x ∈ t.hv.sinks, x.on = false ∧ x.gated = false)
  ∧ (∀ s, s.hv.overvoltage = false → s.hvUp = true →
    ∃ t, exec (.boostOvervoltage true) s = .next t ∧
      t.hv.overvoltage = true ∧ t.fld F.HVS_BOOST_COUNT_OVP
      = min F.HVS_BOOST_COUNT_OVP.max (s.fld F.HVS_BOOST_COUNT_OVP + 1))
  ∧ (∀ s, ∃ t, exec (.boostOvervoltage false) s = .next t ∧
      t = { s with hv := { s.hv with overvoltage := false } })
  ∧ (∀ s, ∃ t, exec .hvsClear s = .next t ∧ (s.hv.boost = 3 → t.hv.boost = 0 ∧ t.hv.retries = 0)
    ∧ (s.hv.boost ≠ 3 → t.hv.boost = s.hv.boost)
    ∧ (∀ x ∈ t.hv.sinks, x.isOpen = false ∧ x.isShort = false)
    ∧ s.onlyChanges [.hv] t)

/-- R351 to R353: a WRITE is acknowledged and applied once; its ACK lets the next one go; a frame
without ACK is sent again; heartbeats and resynchronisation frames go and are answered; a
STATUS lands in its word. -/
def Obligations.HvFramesCrossTheLink : Prop :=
  (∀ s q a v, s.hv.powered = true → s.badPairs [0x50] = [] → s.hv.kill = false →
    (s.hv.lastSeq ≠ some (q % 16) → hvsRegOf a ≠ none → ∃ t, exec (.hvWrite q a v) s = .next t ∧
      keyGet t.hv.hvRegs a = some v ∧ t.hv.lastSeq = some (q % 16)
        ∧ t.hv.hvTx.getLast? = some ⟨2, q % 16, 0, 0⟩)
    ∧ (s.hv.lastSeq = some (q % 16) → ∃ t, exec (.hvWrite q a v) s = .next t ∧
      t = { s with hv := { s.hv with hvTx := noteFrame s.hv.hvTx ⟨2, q % 16, 0, 0⟩ } }))
  ∧ (∀ s f q, s.hv.linkLost = false → s.hv.unacked = some f → f.seq = q % 16 →
    ∃ t, exec (.hvAck q) s = .next t ∧ (s.hv.waiting = [] → t.hv.unacked = none)
      ∧ ∀ a v w, s.hv.waiting = (a, v) :: w →
        t.hv.unacked = some ⟨1, s.hv.seq % 16, a, v⟩ ∧ t.hv.waiting = w
          ∧ t.hv.hvsTx.getLast? = t.hv.unacked)
  ∧ (∀ s q, s.hv.linkLost = true → ∃ t, exec (.hvAck q) s = .next t ∧
      t.hv.linkLost = false ∧ t.hv.resyncing = true ∧ t.fld F.HVS_STATUS_LINK_LOST = 0)
  ∧ (∀ s f, s.hv.unacked = some f → ∃ t, exec .hvAckTimeout s = .next t ∧
      (s.hv.resends < 3 → t.hv.resends = s.hv.resends + 1 ∧ t.hv.hvsTx.getLast? = some f
      ∧ t.fld F.HVS_XING_COUNT_RESEND
          = min F.HVS_XING_COUNT_RESEND.max (s.fld F.HVS_XING_COUNT_RESEND + 1))
      ∧ (3 ≤ s.hv.resends → s.hv.waiting = [] → t.hv.unacked = none ∧ t.hv.resends = 0))
  ∧ (∀ s i v, i ∈ statusIndexes → ∃ t, exec (.hvStatus i v) s = .next t ∧
      keyGet t.regs (0xF05000A0 + 4 * i)
        = some ((if i = 0 then setBits v 1 1 (s.fld F.HVS_STATUS_LINK_LOST) else v) % 2 ^ 32)
      ∧ s.onlyChanges [.regs 0x50] t)
  ∧ (∀ s q, s.hv.powered = true → (∃ t, exec (.hvHeartbeat q) s = .next t ∧
      t.hv.hvTx.getLast? = some ⟨3, q % 16, 13, s.hvStatusWord 13⟩ ∧ s.onlyChanges [.hv] t)
    ∧ ∃ t, exec (.hvResync q) s = .next t ∧ t = { s with hv := { s.hv with
        lastSeq := none, hvTx := noteFrame s.hv.hvTx ⟨2, q % 16, 0, 0⟩ } })
  ∧ (∀ s, s.live = true → ∃ t, exec .hvHeartbeatTimer s = .next t ∧ t = { s with hv := { s.hv with
      seq := (s.hv.seq + 1) % 16, hvsTx := noteFrame s.hv.hvsTx ⟨4, s.hv.seq % 16, 0, 0⟩ } })
  ∧ (∀ s, s.hv.linkLost = true → ∃ t, exec .hvResyncTimer s = .next t
    ∧ t = { s with hv := { s.hv with
      seq := (s.hv.seq + 1) % 16, hvsTx := noteFrame s.hv.hvsTx ⟨5, s.hv.seq % 16, 0, 0⟩ } })

/-- R353, R354: a link that is lost is shown, reported and resynchronised; the HV side holds its
values for a time and then switches off. R351: a frame that does not match is counted. -/
def Obligations.HvLinkLossLeadsToSafe : Prop :=
  (∀ s, s.live = true → s.hv.linkLost = false → ∃ t, exec .hvLinkLost s = .next t ∧
      t.hv.linkLost = true ∧ t.hv.unacked = none ∧ t.hv.waiting = []
      ∧ t.fld F.HVS_STATUS_LINK_LOST = 1 ∧ s.reports t 0x5002 unitHub
      ∧ t.hv.hvsTx.getLast? = some ⟨5, s.hv.seq % 16, 0, 0⟩)
  ∧ (∀ s, s.hvUp = true → s.hv.safe = false → ∃ t, exec .hvSideLinkLoss s = .next t ∧
      t = { s with hv := { s.hv with safe := true, safeExpired := false } })
  ∧ (∀ s, s.hv.safe = true → ∃ t, exec .safeHoldExpire s = .next t ∧ t.hv.safeExpired = true
    ∧ (s.hv.boost ≠ 3 → t.hv.boost = 0) ∧ (∀ x ∈ t.hv.sinks, x.on = false ∧ x.gated = false)
    ∧ s.onlyChanges [.hv] t)
  ∧ (∀ s, ∃ t, exec .hvFrameMismatch s = .next t ∧ t.fld F.HVS_XING_COUNT_MISMATCH
      = min F.HVS_XING_COUNT_MISMATCH.max (s.fld F.HVS_XING_COUNT_MISMATCH + 1))

/-- R363 to R367: a period starts with its length computed from the frequency; an on-time that
ends, or is cut off, leaves the sink off; a change of range settles, then switches range, code and
duty in one step. R375: the backlight delay ends with the output's enable. -/
def Obligations.SinksAndRanges : Prop :=
  (∀ s, s.hvUp = true → s.badPairs [0x50] = [] → ∃ t, exec .pwmPeriodStart s = .next t ∧
      t.hv.period = s.pwmPeriod ∧ t.hv.sinks.length = 4 ∧ t.hv.boost = s.hv.boost)
  ∧ (∀ s k mv, k < 4 → (s.sink k).on = true → s.hv.sinks.length = 4 →
    ∃ t, exec (.sinkOnTimeEnd k mv) s = .next t ∧ (t.sink k).on = false)
  ∧ (∀ s k, k < 4 → (s.sink k).on = true → (s.sink k).zeroReq = true → s.hv.sinks.length = 4 →
    ∃ t, exec (.sinkZeroTimeout k) s = .next t ∧ (t.sink k).on = false)
  ∧ (∀ s k v, k < 4 → bitN v 12 ≠ s.fld F.HVS_SINK_RANGE k →
    ∃ t, exec (.rangeChange k v) s = .next t ∧
      t.rd R.HVS_SINK k = v &&& 0xFF33FF ∧ (s.hvUp = true → s.hv.sinks.length = 4 →
      bitN v 12 ≠ (s.sink k).range → (t.sink k).settling = true))
  ∧ (∀ s k, k < 4 → (s.sink k).settling = true → s.hv.sinks.length = 4 →
    ((s.sink k).on = true → ∃ t, exec (.rangeSettled k) s = .next t ∧ t = { s with hv := { s.hv with
        sinks := upd s.hv.sinks k { s.sink k with settled := true } } })
    ∧ ((s.sink k).on = false → ∃ t, exec (.rangeSettled k) s = .next t ∧
      t.rd R.HVS_DUTY k = (s.sink k).newDuty % 2 ^ 32 ∧ (t.sink k).settling = false
        ∧ (t.sink k).settled = false))
  ∧ (∀ s x, x < 2 → s.sco.outs.length = 2 → (s.output x).blDelay = true →
    ∃ t, exec (.blOnDelayExpire x) s = .next t ∧ (t.output x).blEnable = true
      ∧ (t.output x).holdSinks = false ∧ (t.output x).blDelay = false)

/-- R357, R358, R361: two conversions out of the window stop the boost with a fault, ten inside it
allow it again; the boost's target follows the headroom. R370, R371: a conversion of an NTC
channel is classed. -/
def Obligations.SupplyHeadroomAndNtc : Prop :=
  (∀ s c, s.hvUp = true → s.hv.vbatStop = false →
    (min c 4095 < s.uvLimit ∨ s.ovLimit < min c 4095) →
    (s.hv.vbatOut = 0 → ∃ t, exec (.vbatConversion c) s = .next t ∧
      t.hv.vbatOut = 1 ∧ t.hv.vbatCode = min c 4095 ∧ t.hv.boost = s.hv.boost ∧ t.ring = s.ring)
    ∧ (s.hv.vbatOut = 1 → ∃ t, exec (.vbatConversion c) s = .next t ∧
      t.hv.vbatStop = true ∧ t.hv.vbatOk = false ∧ s.reports t 0x500B unitHub
        ∧ t.hv.boost = (if s.hv.boost = 3 then 3 else 0)
        ∧ ∀ x ∈ t.hv.sinks, x.on = false ∧ x.gated = false))
  ∧ (∀ s c, s.hvUp = true → s.hv.vbatOk = false → s.hv.vbatIn = 9 →
    s.uvLimit ≤ min c 4095 → min c 4095 ≤ s.ovLimit →
    s.uvLimit + 50 ≤ min c 4095 → min c 4095 + 50 ≤ s.ovLimit →
      ∃ t, exec (.vbatConversion c) s = .next t ∧
      t.hv.vbatOk = true ∧ t.hv.vbatStop = false ∧ t.hv.vbatIn = 10)
  ∧ (∀ s k v, s.hvUp = true → s.hv.boost = 2 → (s.sink k).en = true → (s.sink k).isOpen = false →
    (s.sink k).isShort = false →
    let goal := 10 * clampNat 50 150 (s.hvFld F.HVS_BOOST_CFG_HEADROOM)
    ∃ t, exec (.headroomUpdate [(k, v)]) s = .next t ∧ t = { s with hv := { s.hv with target :=
      (if v < goal then clampNat 200 1200 (s.hv.target + 5)
        else if goal < v then clampNat 200 1200 (s.hv.target - 5) else s.hv.target) } })
  ∧ (∀ s c, c < 3 → s.hvUp = true → s.hvFld F.HVS_NTC_CFG_EN c = 1 →
    ∃ t, exec (.ntcConversionStart c) s = .next t ∧ t = { s with hv := { s.hv with
      ntcs := upd s.hv.ntcs c { s.ntc c with converting := true } } })
  ∧ (∀ s c a b, c < 3 → s.hv.ntcs.length = 3 → (s.ntc c).converting = true →
    ∃ t, exec (.ntcConversionEnd c a b) s = .next t ∧ (t.ntc c).converting = false
      ∧ (t.ntc c).state = ((s.ntc c).after (min a 4095) (min b 4095)).state
      ∧ (t.ntc c).value = ((s.ntc c).after (min a 4095) (min b 4095)).value
      ∧ (t.ntc c).cls = ntcClass (min a 4095) (min b 4095))

/-! ### Scan-out and the Signpost plane (chapter 11) -/

/-- R310, R312, R313, R344 to R346: enabling an output that is off whose commit passes the checks sets its
bit of SCO_CTRL; in RUNNING, where the output may start, it starts with the panel's enable after a power-down
(R347), and else is launched on its configuration. Disabling an output that shows black or content stops it. A commit of
a timing word, of an output's configuration, of its colour range or of its D-PHY settings that passes the checks is stored. Each
of these that fails its checks is refused with fault 0x4106 and changes neither its register nor the
scan-out's state. -/
def Obligations.ScanOutCommits : Prop :=
  (∀ s x, x < 2 → s.sco.outs.length = 2 → bitN (s.rd R.SCO_CTRL) x = 0 →
    let v := setBits (s.rd R.SCO_CTRL) x x 1
    let u := (setReg R.SCO_CTRL v).run s
    (u.scoOk ((u.outsInUse ++ [x]).dedup) u.fetchSet = true → (s.output x).active = false →
      s.secondary = false → s.lamp.power = .running → u.outputsAllowed x = true →
      unitSco x ∉ s.rcl.retired →
      ∃ t, exec (.outputEnable x) s = .next t ∧ bitN (t.rd R.SCO_CTRL) x = 1
        ∧ ((s.output x).panelOff = true → s.ports.panelEn.length = 2 →
          nth false t.ports.panelEn x = true ∧ (t.output x).panel = .upEn)
        ∧ ((s.output x).panelOff = false → (t.output x).blFirst = true
          ∧ (t.output x).outCfg = s.rd R.SCO_OUT_CFG x ∧ (t.output x).dphy = s.rd R.SCO_DPHY x))
    ∧ (u.scoOk ((u.outsInUse ++ [x]).dedup) u.fetchSet = false →
      ∃ t, exec (.outputEnable x) s = .next t ∧
      s.reports t 0x4106 (unitSco 0) ∧ t.rd R.SCO_CTRL = s.rd R.SCO_CTRL ∧ t.sco = s.sco))
  ∧ (∀ s x, x < 2 → s.sco.outs.length = 2 → bitN (s.rd R.SCO_CTRL) x = 1 →
    ((s.output x).phase = 1 ∨ (s.output x).phase = 2) → ∃ t, exec (.outputDisable x) s = .next t ∧
      bitN (t.rd R.SCO_CTRL) x = 0 ∧ (t.output x).phase = 3 ∧ (t.output x).stop = .disable
        ∧ (t.output x).holdSinks = true)
  ∧ (∀ s k v, k < 6 →
    let w := v &&& (timingReg k).rw
    let u := (setReg (timingReg k) w).run s
    (((k == 5 || w != 0) && u.scoHeld) = true → ∃ t, exec (.displayModeChange k v) s = .next t ∧
      t.rd (timingReg k) = w)
    ∧ (((k == 5 || w != 0) && u.scoHeld) = false → ∃ t, exec (.displayModeChange k v) s = .next t ∧
      s.reports t 0x4106 (unitSco 0) ∧ t.rd (timingReg k) = s.rd (timingReg k) ∧ t.sco = s.sco))
  ∧ (∀ s x v, x < 2 →
    let w := v &&& R.SCO_OUT_CFG.rw
    let u := (setReg R.SCO_OUT_CFG w x).run s
    ((ifaceOk (s.lvdsStrap x) w && u.scoHeld && u.prefillFits x) = true →
      ∃ t, exec (.displayModeChange (6 + x) v) s = .next t ∧ t.rd R.SCO_OUT_CFG x = w)
    ∧ ((ifaceOk (s.lvdsStrap x) w && u.scoHeld && u.prefillFits x) = false →
      ∃ t, exec (.displayModeChange (6 + x) v) s = .next t ∧ s.reports t 0x4106 (unitSco x)
        ∧ t.rd R.SCO_OUT_CFG x = s.rd R.SCO_OUT_CFG x ∧ t.sco = s.sco))
  ∧ (∀ s x r, x < 2 →
    let w := setBits (s.rd R.SCO_OUT_CFG x) 7 7 r
    let u := (setReg R.SCO_OUT_CFG w x).run s
    (ifaceOk (s.lvdsStrap x) w && u.scoHeld && u.prefillFits x) = true →
      ∃ t, exec (.colourRangeChange x r) s = .next t ∧ t.rd R.SCO_OUT_CFG x = w % 2 ^ 32)
  ∧ (∀ s x v, x < 2 →
    let w := v &&& R.SCO_DPHY.rw
    let u := (setReg R.SCO_DPHY w x).run s
    (((u.lvdsStrap x || u.fld F.SCO_DPHY_RATE x != 0) && u.scoHeld) = true →
      ∃ t, exec (.displayModeChange (8 + x) v) s = .next t ∧ t.rd R.SCO_DPHY x = w)
    ∧ (((u.lvdsStrap x || u.fld F.SCO_DPHY_RATE x != 0) && u.scoHeld) = false →
      ∃ t, exec (.displayModeChange (8 + x) v) s = .next t ∧
      s.reports t 0x4106 (unitSco x) ∧ t.rd R.SCO_DPHY x = s.rd R.SCO_DPHY x ∧ t.sco = s.sco))

/-- R347: each wait of a panel sequence leads to its next step: of the wake sequence to display-on, of the
power-up sequence to the panel's reset, to sleep-out or to the launch with two black frames, of the
power-down sequence to the panel's enable low. R345: the idle hold of one output's change ends with it
launched on its new configuration. R348: SCO_DSI_TX_GO sets ERR where the packet's type, its length or
the output's interface is not one for it, and else gives the packet to the idle link. -/
def Obligations.PanelSequencesAndChanges : Prop :=
  (∀ s x, x < 2 → s.sco.outs.length = 2 →
    ((s.output x).panel = .wake → ∃ t, exec (.panelSequenceWaitEnd x) s = .next t ∧
      (t.output x).panel = .none ∧ (t.output x).dcs = 0x29)
    ∧ ((s.output x).panel = .upEn → s.ports.panelRst.length = 2 →
      ∃ t, exec (.panelSequenceWaitEnd x) s = .next t ∧ (t.output x).panel = .upRst
        ∧ nth false t.ports.panelRst x = true)
    ∧ ((s.output x).panel = .upRst → s.usesDcs x = true →
      ∃ t, exec (.panelSequenceWaitEnd x) s = .next t ∧
      (t.output x).panel = .upSleep ∧ (t.output x).dcs = 0x11)
    ∧ ((s.output x).panel = .upRst → s.usesDcs x = false → s.secondary = false →
      ∃ t, exec (.panelSequenceWaitEnd x) s = .next t ∧
      (t.output x).panel = .none ∧ (t.output x).panelOff = false ∧ (t.output x).blackLeft = 2)
    ∧ ((s.output x).panel = .upSleep → ∃ t, exec (.panelSequenceWaitEnd x) s = .next t ∧
      (t.output x).panel = .none ∧ (t.output x).panelOff = false ∧ (t.output x).dcs = 0x29)
    ∧ ((s.output x).panel = .downRst → s.ports.panelEn.length = 2 → bitN (s.rd R.SCO_CTRL) x = 0 →
      ∃ t, exec (.panelSequenceWaitEnd x) s = .next t ∧ (t.output x).panel = .none
        ∧ (t.output x).panelOff = true ∧ nth false t.ports.panelEn x = false))
  ∧ (∀ s x, x < 2 → s.sco.outs.length = 2 → (s.output x).idleHold = true →
    (s.output x).stop = .changeOne → s.secondary = false →
      ∃ t, exec (.modeChangeIdleEnd x) s = .next t ∧
      (t.output x).idleHold = false ∧ (t.output x).outCfg = s.rd R.SCO_OUT_CFG x
        ∧ (t.output x).blackLeft = 2)
  ∧ (∀ s x, x < 2 → s.sco.outs.length = 2 →
    let len := s.fld F.SCO_DSI_TX_HDR_LEN x
    let dt := s.fld F.SCO_DSI_TX_HDR_DT x
    (lpTypes.contains dt = false ∨ 64 < len ∨ s.lvdsStrap x = true →
      ∃ t, exec (.dsiTxGo x) s = .next t ∧ t.fld F.SCO_DSI_TX_STATUS_ERR x = 1 ∧ t.sco = s.sco)
    ∧ (lpTypes.contains dt = true → len ≤ 64 → s.lvdsStrap x = false →
      (s.output x).dphyOn = true → (s.output x).lpBytes = [] → ∃ t, exec (.dsiTxGo x) s = .next t ∧
      t.fld F.SCO_DSI_TX_STATUS_ERR x = 0 ∧ (t.output x).lpScript = false
          ∧ (t.output x).lpBytes = leBytes 1 dt
            ++ (((upTo 16).map fun w => leBytes 4 (s.rd R.SCO_DSI_TX_DATA x w)).flatten.take len)))

/-- R317, R318, in command mode with the generator running: an active TE edge of the timing output makes the
next frame due and ends free running; one that comes too early is reported with fault 0x4105 and changes
nothing of the scan-out; the other output's edge within one line ends the wait for it; its absence is fault 0x4102;
where no edge comes, a frame is due and free running begins, with fault 0x4103, and goes on frame by frame.
The skew recorded for a missing TE_B is a free value. -/
def Obligations.TeEdgesStartFrames : Prop :=
  (∀ s x v k, x < 2 → s.sco.genRun = true → s.commandMode = true →
    (v = (bitN (nth 0 s.sco.timing 5) x == 0)) → s.teOutput = x → s.transmitting = false →
    (s.tooEarly = false → ∃ t, exec (.teEdge x v k) s = .next t ∧ t.sco.due = true
      ∧ t.sco.freerun = false ∧ t.sco.outs = s.sco.outs)
    ∧ (s.tooEarly = true → ∃ t, exec (.teEdge x v k) s = .next t ∧ t.sco = s.sco
      ∧ s.reports t 0x4105 (unitSco x)))
  ∧ (∀ s x v k, x < 2 → s.sco.genRun = true → s.commandMode = true →
    (v = (bitN (nth 0 s.sco.timing 5) x == 0)) → s.teOutput ≠ x → (s.output 0).phase ≠ 0 →
    (s.output 1).phase ≠ 0 → s.sco.teWait.isSome = true → k.natAbs ≤ s.timing.htotal →
    ∃ t, exec (.teEdge x v k) s = .next t ∧ t.sco = { s.sco with teWait := none })
  ∧ (∀ s, s.sco.teWait.isSome = true → ∃ t, exec .teBMissing s = .next t ∧ t.sco.teWait = none
    ∧ t.free = s.free + 1 ∧ s.reports t 0x4102 (unitSco 1))
  ∧ (∀ s, s.sco.genRun = true → s.commandMode = true → s.sco.freerun = false →
    s.sco.due = false → ∃ t, exec .teTimeout s = .next t ∧ t.sco.freerun = true ∧ t.sco.due = true
      ∧ s.reports t 0x4103 (unitSco s.teOutput) ∧ t.fld F.SCO_FREERUN_COUNT_COUNT
        = min F.SCO_FREERUN_COUNT_COUNT.max (s.fld F.SCO_FREERUN_COUNT_COUNT + 1))
  ∧ (∀ s, s.sco.genRun = true → s.sco.freerun = true → ∃ t, exec .freerunFrameStart s = .next t ∧
      t = { s with sco := { s.sco with due := true } })

/-- R335, R337: an icon is enabled where its rectangle is allowed, and is left disabled with fault 0x4204 where it is
not. R341, R343: through SGN_SRAM_DATA the icon SRAM is read and written one word at a time, SGN_SRAM_ADDR
moving on; a write under an enabled icon gets an error response and changes nothing. R379: while an
icon has failed, the status message is queued on a controller that sends it. -/
def Obligations.IconsAndTheirSram : Prop :=
  (∀ s n v, n < 64 →
    let w := (v &&& 0x5FFF0FFF) ||| 0x80000000
    (s.iconPlaceOk n { s.iconRect n with pos := w } = true →
      ∃ t, exec (.iconEnable n v) s = .next t ∧
      t.rd R.SGN_ICON_POS n = w ∧ s.onlyChanges [.regs 0x42] t)
    ∧ (s.iconPlaceOk n { s.iconRect n with pos := w } = false →
      ∃ t, exec (.iconEnable n v) s = .next t ∧
      bitN (t.rd R.SGN_ICON_POS n) 31 = 0 ∧ s.reports t 0x4204 unitSgn))
  ∧ (∀ s v, ∃ t, exec (.sgnSramAccess false v) s = .next t ∧
      t.bus = ⟨true, s.num .icon (s.fld F.SGN_SRAM_ADDR_WORD * 4) 4⟩ ∧ t.icon = s.icon
      ∧ t.fld F.SGN_SRAM_ADDR_WORD = (s.fld F.SGN_SRAM_ADDR_WORD + 1) % 65536)
  ∧ (∀ s v, s.memsOk → (s.iconRect (s.fld F.SGN_SRAM_ADDR_WORD * 4 / 4096)).en = false →
    ∃ t, exec (.sgnSramAccess true v) s = .next t ∧ t.bus.ok = true
      ∧ t.bytes .icon (s.fld F.SGN_SRAM_ADDR_WORD * 4) 4 = leBytes 4 (v % 2 ^ 32)
      ∧ (∀ a, (a < s.fld F.SGN_SRAM_ADDR_WORD * 4 ∨ s.fld F.SGN_SRAM_ADDR_WORD * 4 + 4 ≤ a) →
        t.byte .icon a = s.byte .icon a)
      ∧ t.fld F.SGN_SRAM_ADDR_WORD = (s.fld F.SGN_SRAM_ADDR_WORD + 1) % 65536)
  ∧ (∀ s v, (s.iconRect (s.fld F.SGN_SRAM_ADDR_WORD * 4 / 4096)).en = true →
    ∃ t, exec (.sgnSramAccess true v) s = .next t ∧ t = { s with bus := ⟨false, 0⟩ })
  ∧ (∀ s c, c < 2 → s.can.length = 2 → s.anyIconFailed = true → 2 ≤ s.boot.phase →
    s.secondary = false → bitN (s.fld F.SVC_STATUS_MSG_CTRL) c = 1 → s.flag F.CAN_CTRL_EN c = true →
    ∃ t, exec .signpostStatusRepeat s = .next t ∧ s.statusFrame c ∈ (nth CanCtl.reset t.can c).queue
      ∧ s.onlyChanges [.can] t)

/-! ### The roundabout (chapter 10) -/

/-- R291, R309, with the tracks' registers consistent: a commit that enables a closed track opens it on the configuration committed where the
track's checks hold, and opens nothing, with fault 0x4006, where they do not; one that changes STANDS while EN is 1 gets an error
response and changes nothing else; one that disables a track closes it at its next decision. R292: an offer that
is not refused joins its track's pending candidates and is done; one that is refused fails with status OFFER_REFUSED. -/
def Obligations.TracksAndOffers : Prop :=
  (∀ s t v, t < 6 → s.rbt.tracks.length = 6 → s.badPairs [0x40] = [] →
    let w := trkWord (setBits v 0 0 1)
    let u := (setReg R.RBT_TRK_CFG w t).run s
    (s.flag F.RBT_TRK_CFG_EN t = false → (s.track t).enabled = false → u.trackOk t = true →
      ∃ r, exec (.trackEnable t v) s = .next r ∧ (r.track t).enabled = true
        ∧ (r.track t).closing = false ∧ (r.track t).cfg = w ∧ r.rd R.RBT_TRK_CFG t = w
        ∧ s.onlyChanges [.regs 0x40, .rbt] r)
    ∧ (s.flag F.RBT_TRK_CFG_EN t = false → (s.track t).enabled = false → u.trackOk t = false →
      ∃ r, exec (.trackEnable t v) s = .next r ∧ r.rbt = s.rbt ∧ s.reports r 0x4006 unitRbt)
    ∧ (s.flag F.RBT_TRK_CFG_EN t = true → bits w 11 8 ≠ s.fld F.RBT_TRK_CFG_STANDS t →
      ∃ r, exec (.trackEnable t v) s = .next r ∧ r = { s with bus := ⟨false, 0⟩ }))
  ∧ (∀ s t v, t < 6 → s.rbt.tracks.length = 6 → s.badPairs [0x40] = [] →
    let w := trkWord (setBits v 0 0 0)
    (bits w 11 8 = s.fld F.RBT_TRK_CFG_STANDS t → ∃ r, exec (.trackDisable t v) s = .next r ∧
      r.track t = { s.track t with closing := (s.track t).enabled } ∧ r.rd R.RBT_TRK_CFG t = w
        ∧ (∀ k, k ≠ t → r.track k = s.track k) ∧ s.onlyChanges [.regs 0x40, .rbt] r)
    ∧ (s.flag F.RBT_TRK_CFG_EN t = true → bits w 11 8 ≠ s.fld F.RBT_TRK_CFG_STANDS t →
      ∃ r, exec (.trackDisable t v) s = .next r ∧ r = { s with bus := ⟨false, 0⟩ }))
  ∧ (∀ s i o n, s.executing i 0x40 = some o → (offerParam o.stop.desc).action = 0 →
    let p := offerParam o.stop.desc
    p.track < s.rbt.tracks.length → s.freeLock = some n → s.badPairs [0x40] = [] →
    s.standPoisoned p.track p.stand = false → o.withdraw = none →
    (s.offerRefused i p.track p.stand p.kind o.stop.pn = false → ∃ t, exec (.offer i) s = .next t ∧
      t.slotOf i = some { o with done := true }
        ∧ (t.track p.track).pending
          = (s.track p.track).pending ++ [⟨p.stand, p.kind, p.cls, o.stop.pn, s.time⟩])
    ∧ (s.offerRefused i p.track p.stand p.kind o.stop.pn = true → s.brg.fallbackDue = false →
      ∃ t, exec (.offer i) s = .next t ∧ t.slotOf i = none
        ∧ t.rd R.WRD_Q_LASTFAIL o.stop.queue = o.stop.tag % 2 ^ 16 + 0x0D * 2 ^ 16))

/-- R293, R301, R302, for a stop without memory errors or poisoned inputs: a GENERATE with a source, whose stand is
free and not poisoned, is done with its stand registered as an EXTRAP candidate with the source's PN; a parity error
fails the stop. R299: a relocation copies the bytes of its source stand. R236, R237: COMPOSE writes what its layers
give. -/
def Obligations.GenerateRelocateCompose : Prop :=
  (∀ s i o c, s.ready i 0x40 o → (offerParam o.stop.desc).action = 1 →
    let p := offerParam o.stop.desc
    p.track < s.rbt.tracks.length → s.freeLock.isSome = true → s.badPairs [0x40] = [] →
    s.standPoisoned p.track p.stand = false → s.genSource o p = some c →
    s.offerRefused i p.track p.stand 2 c.pn = false → ∃ t, exec (.generate i false) s = .next t ∧
      t.slotOf i = some { o with done := true }
        ∧ (t.track p.track).pending
          = (s.track p.track).pending ++ [⟨p.stand, 2, p.cls, c.pn, s.time⟩])
  ∧ (∀ s i o, s.executing i 0x40 = some o → (offerParam o.stop.desc).action = 1 →
    ∃ t, exec (.generate i true) s = .next t ∧ t.slotOf i = none)
  ∧ (∀ s t (r : Reloc), s.rbt.tracks.length = 6 → t < 6 → (s.track t).reloc = some r →
    r.copied = false →
    s.ave.plazaErrs = [] → s.ave.ddrErrs = [] → ∃ u, exec (.relocationCopyDone t) s = .next u ∧
      (u.track t).reloc = some { r with copied := true } ∧ u.plaza
        = ((memWrite (s.standPa t r.dst) (s.paBytes (s.standPa t r.src) (s.trkStride t))).run
          s).plaza)
  ∧ (∀ s i o, s.ready i 0x12 o → (∀ p ∈ composePieces s o, (s.readMark p.1 p.2).poison = false) →
    (∃ t, exec (.compose i) s = .next t ∧ (s.worked i o (composeWork i s o)) t))

/-- R303 to R306, with no replay: a gate's iteration starts once its trigger has reached it
and a bound slot is free; where the source has reached the expected value, binding writes that source slot's bytes into the bound slot; past the
wait limit it writes those of the latest value instead and counts a substitution; an intake gate writes the intake
snapshot. Each ends the iteration, which RBT_GATE_ITER then counts; the bytes are stated where no decision log is kept. -/
def Obligations.GatesBindTheirInputs : Prop :=
  (∀ s g, g < s.rbt.gateCount → (s.gateRec g).kind ≠ 0 → (s.gate g).started = false →
    atLeast (s.crossing (s.gateRec g).trig).value
      ((s.gateRec g).t0 + (s.gate g).p * (s.gateRec g).tstep) = true →
    ((s.gate g).p + 2 ^ 32 - (s.crossing (s.gateRec g).rel).value) % 2 ^ 32 < (s.gateRec
      g).boundSlots →
    ∃ t, exec (.gateIterationStart g) s = .next t ∧ t = { s with rbt := { s.rbt with
      gates := upd s.rbt.gates g { s.gate g with started := true, startedAt := s.time } } })
  ∧ (∀ s g, s.bindable g → (s.gateRec g).kind = 1 →
    let p := (s.gate g).p
    let e := (s.gateRec g).expected p
    let v := (s.crossing (s.gateRec g).src).value
    let n := (s.gateRec g).size
    (atLeast v e = true → s.sourceApart g e → ∃ t, exec (.gateBindSequence g) s = .next t ∧
      (t.gate g).p = (p + 1) % 2 ^ 32 ∧ (t.gate g).started = false
        ∧ t.rd R.RBT_GATE_ITER g = (p + 1) % 2 ^ 32
        ∧ (s.flag F.RBT_CTRL_LOG_EN = false → t.plaza = ((memWrite (s.gateSlot g)
          (boundBytes p e e 0 (s.paBytes (s.gateSrc g e) n))).run s).plaza))
    ∧ (atLeast v e = false → v ≠ 0 → s.sourceApart g v → ∃ t, exec (.gateWaitLimit g) s = .next t ∧
      (t.gate g).p = (p + 1) % 2 ^ 32 ∧ (t.gate g).started = false
        ∧ t.rd R.RBT_GATE_ITER g = (p + 1) % 2 ^ 32
        ∧ (s.flag F.RBT_CTRL_LOG_EN = false → t.plaza = ((memWrite (s.gateSlot g)
          (boundBytes p e v 1 (s.paBytes (s.gateSrc g v) n))).run s).plaza)
        ∧ t.fld F.RBT_GATE_SUBST_COUNT g
          = min F.RBT_GATE_SUBST_COUNT.max (s.fld F.RBT_GATE_SUBST_COUNT g + 1))
    ∧ (atLeast v e = false → v = 0 → ∃ t, exec (.gateWaitLimit g) s = .next t ∧
      (t.gate g).p = (p + 1) % 2 ^ 32 ∧ (t.gate g).started = false
        ∧ (s.flag F.RBT_CTRL_LOG_EN = false → t.plaza
          = ((memWrite (s.gateSlot g) (boundBytes p e 0 3 (zeros n))).run s).plaza)))
  ∧ (∀ s g, s.bindable g → (s.gateRec g).kind = 2 → ∃ t, exec (.gateBindIntake g) s = .next t ∧
      (t.gate g).p = ((s.gate g).p + 1) % 2 ^ 32 ∧ (t.gate g).started = false
      ∧ t.rd R.RBT_GATE_ITER g = ((s.gate g).p + 1) % 2 ^ 32)

/-! ### The camera receiver and the vision engines (chapter 06) -/

/-- R194, R195, R196: in RUNNING, on a role other than secondary and with its MAIN script ended, a stopped
receiver that is not ABSENT starts with CAM_CTRL, CAM_LANE and CAM_PHY_CFG latched where its checks hold, and stays
stopped with fault 0x310B where not. A commit with EN = 0 stops a running receiver at once between frames and closes
it to new frames within one. -/
def Obligations.CameraStartsAndStops : Prop :=
  (∀ s v, s.flag F.CAM_STATUS_RUNNING = false → s.flag F.CAM_STATUS_ABSENT = false →
    s.cam.held = false → s.lamp.power = .running → s.secondary = false →
    let w := camCtrlWord v 1
    let u := (setReg R.CAM_CTRL w).run s
    (u.camStartOk w = true → s.badPairs [0x31] = [] → ∃ t, exec (.camStart v) s = .next t ∧
      t.fld F.CAM_STATUS_RUNNING = 1 ∧ t.cam.ctrl = w ∧ t.cam.lane = s.rd R.CAM_LANE
        ∧ t.cam.phy = s.rd R.CAM_PHY_CFG ∧ t.cam.closing = false ∧ t.cam.frame = none
        ∧ t.cam.lastPub = s.time)
    ∧ (u.camStartOk w = false → ∃ t, exec (.camStart v) s = .next t ∧ t.cam = s.cam
      ∧ t.fld F.CAM_STATUS_RUNNING = 0 ∧ s.reports t 0x310B unitCam))
  ∧ (∀ s v, s.flag F.CAM_STATUS_RUNNING = true →
    (s.cam.frame = none → ∃ t, exec (.camStop v) s = .next t ∧ t.fld F.CAM_STATUS_RUNNING = 0
      ∧ t.cam = { s.cam with closing := false, dropping := false }
        ∧ s.onlyChanges [.regs 0x31, .cam] t)
    ∧ (s.cam.frame ≠ none → ∃ t, exec (.camStop v) s = .next t ∧ t.fld F.CAM_STATUS_RUNNING = 1
      ∧ t.cam = { s.cam with closing := true }))

/-- R183, R186 to R188: on the receiver's channel and with a header in order or corrected, a frame start takes the
next free slot, is dropped and counted BUSY where none is free, and is dropped and counted FAST where it follows the
last accepted one too early; a dropped start does not touch a frame in progress. A frame end that no drop ignores, or
the timeout, closes the frame in progress, which is written to its slot. -/
def Obligations.CameraFrames : Prop :=
  (∀ s fn h, s.camRuns = true → s.cam.closing = false → h < 2 →
    let room := (s.rd R.CAM_PUBLISHED + 2 ^ 32 - (s.crossing (s.camCtrl F.CAM_CTRL_REL_XNG)).value)
      % 2 ^ 32
    (s.cam.lastStart = none → s.cam.frame = none → s.badPairs [0x31] = [] →
      room < s.camCtrl F.CAM_CTRL_SLOTS →
      ∃ t, exec (.csiFrameStart ⟨s.camCtrl F.CAM_CTRL_VC, h⟩ fn) s = .next t ∧
      (∃ f, t.cam.frame = some f ∧ f.frameNum = fn % 65536 ∧ f.line = 0
          ∧ f.slot = s.rd R.CAM_PUBLISHED % s.camCtrl F.CAM_CTRL_SLOTS ∧ f.startedAt = s.time)
        ∧ t.fld F.CAM_STATUS_IN_FRAME = 1 ∧ t.cam.lastStart = some s.time)
    ∧ (s.cam.lastStart = none → s.cam.frame = none → s.camCtrl F.CAM_CTRL_SLOTS ≤ room →
      ∃ t, exec (.csiFrameStart ⟨s.camCtrl F.CAM_CTRL_VC, h⟩ fn) s = .next t ∧
      t.cam = { s.cam with dropping := true }
          ∧ t.fld F.CAM_DROP_COUNT_BUSY
            = min F.CAM_DROP_COUNT_BUSY.max (s.fld F.CAM_DROP_COUNT_BUSY + 1))
    ∧ (∀ a, s.cam.lastStart = some a → s.time < a + usTicks (s.fld F.CAM_MIN_PERIOD_US) →
      ∃ t, exec (.csiFrameStart ⟨s.camCtrl F.CAM_CTRL_VC, h⟩ fn) s = .next t ∧
      t.cam = { s.cam with dropping := true }
          ∧ t.fld F.CAM_DROP_COUNT_FAST
            = min F.CAM_DROP_COUNT_FAST.max (s.fld F.CAM_DROP_COUNT_FAST + 1)))
  ∧ (∀ s h, s.camRuns = true → h < 2 → s.cam.frame ≠ none → s.cam.dropping = false →
    ∃ t, exec (.csiFrameEnd ⟨s.camCtrl F.CAM_CTRL_VC, h⟩) s = .next t ∧
      t.cam.frame = none ∧ t.fld F.CAM_STATUS_IN_FRAME = 0)
  ∧ (∀ s, s.camRuns = true → s.cam.frame ≠ none → ∃ t, exec .camFrameTimeout s = .next t ∧
      t.cam.frame = none ∧ t.fld F.CAM_STATUS_IN_FRAME = 0)

/-- R183: a long packet of the frame's channel and type fills its next line, and a header that cannot be corrected
makes the frame INCOMPLETE and is counted. R182: every long packet of another channel or type, and every short packet
not named in Table 06-2, is counted and changes nothing else (a corrected header is counted too, R183). R192: an
enabled receiver that publishes nothing is STALE with fault 0x3102. A CSI receiver error is counted in
CAM_ERR_COUNT.PHY. -/
def Obligations.CameraPackets : Prop :=
  (∀ s f bs ok, s.camRuns = true → s.cam.frame = some f →
    (f.line < f.height → s.cam.dropping = false →
      ∃ t, exec (.csiLongPacket (s.camCtrl F.CAM_CTRL_VC)
        (camType (s.camCtrl F.CAM_CTRL_FMT)) 0 bs ok) s = .next t ∧
      ∃ g, t.cam.frame = some g ∧ g.line = f.line + 1 ∧ g.linesRx = f.linesRx + 1
        ∧ g.crcErr = (f.crcErr || !ok))
    ∧ ∀ vc dt, ∃ t, exec (.csiLongPacket vc dt 2 bs ok) s = .next t ∧
      t.cam = { s.cam with frame := some { f with incomplete := true } }
        ∧ t.fld F.CAM_ERR_COUNT_ECC_UNCORR
          = min F.CAM_ERR_COUNT_ECC_UNCORR.max (s.fld F.CAM_ERR_COUNT_ECC_UNCORR + 1))
  ∧ (∀ s vc, s.camRuns = true → ∃ t, exec (.csiIgnoredPacket ⟨vc, 0⟩) s = .next t ∧
      (vc ≠ s.camCtrl F.CAM_CTRL_VC → t.fld F.CAM_IGNORED_COUNT_VC
      = min F.CAM_IGNORED_COUNT_VC.max (s.fld F.CAM_IGNORED_COUNT_VC + 1))
    ∧ (vc = s.camCtrl F.CAM_CTRL_VC → t.fld F.CAM_IGNORED_COUNT_TYPE
      = min F.CAM_IGNORED_COUNT_TYPE.max (s.fld F.CAM_IGNORED_COUNT_TYPE + 1))
    ∧ s.onlyChanges [.regs 0x31] t)
  ∧ (∀ s vc dt h bs ok, s.camRuns = true → h < 2 →
    vc ≠ s.camCtrl F.CAM_CTRL_VC ∨ dt ≠ camType (s.camCtrl F.CAM_CTRL_FMT) →
    ∃ t, exec (.csiLongPacket vc dt h bs ok) s = .next t ∧
      (t.fld F.CAM_IGNORED_COUNT_VC = if vc ≠ s.camCtrl F.CAM_CTRL_VC then
          min F.CAM_IGNORED_COUNT_VC.max (s.fld F.CAM_IGNORED_COUNT_VC + 1)
        else s.fld F.CAM_IGNORED_COUNT_VC)
      ∧ (t.fld F.CAM_IGNORED_COUNT_TYPE = if vc = s.camCtrl F.CAM_CTRL_VC then
          min F.CAM_IGNORED_COUNT_TYPE.max (s.fld F.CAM_IGNORED_COUNT_TYPE + 1)
        else s.fld F.CAM_IGNORED_COUNT_TYPE)
      ∧ s.onlyChanges [.regs 0x31] t
      ∧ ∀ r i j, r.at i j ≠ R.CAM_IGNORED_COUNT.addr → (h = 1 → r.at i j ≠ R.CAM_ERR_COUNT.addr) →
        t.rd r i j = s.rd r i j)
  ∧ (∀ s, s.flag F.CAM_CTRL_EN = true → s.lamp.power = .running →
    s.flag F.CAM_STATUS_STALE = false → ∃ t, exec .camStaleTimeout s = .next t ∧
      t.fld F.CAM_STATUS_STALE = 1 ∧ s.reports t 0x3102 unitCam)
  ∧ (∀ s, s.camRuns = true → ∃ t, exec .csiPhyError s = .next t ∧
      t.fld F.CAM_ERR_COUNT_PHY = min F.CAM_ERR_COUNT_PHY.max (s.fld F.CAM_ERR_COUNT_PHY + 1)
      ∧ t.cam = s.cam)

/-- R201, R205, R208, R210, for a stop without memory errors or poisoned inputs: WARP, PYRAMID, MOTION and
STATS each write what their operation computes, and are done. R212: a parity error of an engine's store
sets VIS_EVENT.PARITY, raises fault 0x3004 and fences the engine. -/
def Obligations.VisionEnginesRunTheirStops : Prop :=
  (∀ s i o, s.ready i 0x30 o → (∃ t, exec (.warp i false) s = .next t
    ∧ (s.worked i o (warpWork i s o)) t))
  ∧ (∀ s i o, s.ready i 0x31 o → (∃ t, exec (.pyramid i false) s = .next t
    ∧ (s.worked i o (pyramidWork i s o)) t))
  ∧ (∀ s i o, s.ready i 0x32 o → (∃ t, exec (.motion i false) s = .next t
    ∧ (s.worked i o (motionWork i s o)) t))
  ∧ (∀ s i o, s.ready i 0x33 o → (∃ t, exec (.stats i false) s = .next t
    ∧ (s.worked i o (statsWork i s o)) t))
  ∧ (∀ s i o e c, (e, c) ∈ [(0, Instr.warp i true), (1, .pyramid i true), (2, .motion i true),
      (3, .stats i true)] → s.live = true → s.executing i (0x30 + e) = some o →
    s.rcl.escalating = false → s.rcl.pending.length < 8 → unitVis e ∉ s.rcl.fenced →
    ∃ t, exec c s = .next t ∧ t.fld F.VIS_EVENT_PARITY = 1 ∧ s.reports t 0x3004 (unitVis e)
      ∧ t.rcl.fenced = s.rcl.fenced ++ [unitVis e])

/-- R234, R235, for a stop without memory errors or poisoned inputs: each operation of the COMPUTE opcode
writes its output range from its inputs, and is done. -/
def Obligations.ComputeOperationsWriteTheirOutput : Prop :=
  ∀ s i o, s.ready i 0x11 o →
    let p := opParam o.stop.desc
    let does (bs : List Byte) := s.worked i o (writeWhole i o p.out bs)
    (p.op = 0 → (∃ t, exec (.computeAdd i) s = .next t
      ∧ (does (s.elementwise o p (int8Add p) (h2 Ex.add))) t))
    ∧ (p.op = 1 → (∃ t, exec (.computeSub i) s = .next t
      ∧ (does (s.elementwise o p (int8Sub p) (h2 Ex.sub))) t))
    ∧ (p.op = 2 → (∃ t, exec (.computeMul i) s = .next t
      ∧ (does (s.elementwise o p (int8Mul p) (h2 Ex.mul))) t))
    ∧ (p.op = 3 → (∃ t, exec (.computeMax i) s = .next t
      ∧ (does (s.elementwise o p max (h2 Ex.max))) t))
    ∧ (p.op = 4 → (∃ t, exec (.computeMin i) s = .next t
      ∧ (does (s.elementwise o p min (h2 Ex.min))) t))
    ∧ (p.op = 5 → (∃ t, exec (.computeRelu i) s = .next t
      ∧ (does (s.elementwise o p (fun a _ => max a p.za)
        fun a _ => h2 Ex.max a half0)) t))
    ∧ (p.op = 6 → (∃ t, exec (.computeCvt i) s = .next t ∧ (does (s.cvtBytes o p)) t))
    ∧ (p.op = 7 → (∃ t, exec (.computeBlend i) s = .next t ∧ (does (s.blendBytes o p)) t))
    ∧ (p.op = 8 → (∃ t, exec (.computeResample i) s = .next t ∧ (does (s.resampleBytes o p)) t))
    ∧ (p.op = 9 → (∃ t, exec (.computeNorm i) s = .next t ∧ (does (s.normBytes o p)) t))
    ∧ (p.op = 10 → (∃ t, exec (.computeSoftmax i) s = .next t ∧ (does (s.softmaxBytes o p)) t))

/-! ### The tile cores and the raster front end (chapter 07) -/

/-- R233: a combiner instruction gives its destination, in every lane of its core, the result of
its operation on its sources, and changes nothing else; TEX samples the texture its draw names; KIL
discards fragments. -/
def Obligations.CombinerInstructions : Prop :=
  ∀ s n ins,
    let core := nth Core.reset s.ras.cores n
    let lanes (f : Lane → Lane) (t : State) : Prop := t = { s with ras := { s.ras with
      cores := upd s.ras.cores n { core with lanes := core.lanes.map f } } }
    let gives (f : V4 → V4 → V4 → V4) := lanes fun l => laneWrite ins
      (f (laneSrc core.consts l ins.a) (laneSrc core.consts l ins.b) (laneSrc core.consts l ins.c))
        l
    (∃ t, exec (.mov n ins) s = .next t ∧ (gives fun a _ _ => combMov a) t)
    ∧ (∃ t, exec (.add n ins) s = .next t ∧ (gives fun a b _ => combAdd a b) t)
    ∧ (∃ t, exec (.sub n ins) s = .next t ∧ (gives fun a b _ => combSub a b) t)
    ∧ (∃ t, exec (.mul n ins) s = .next t ∧ (gives fun a b _ => combMul a b) t)
    ∧ (∃ t, exec (.mad n ins) s = .next t ∧ (gives combMad) t)
    ∧ (∃ t, exec (.lrp n ins) s = .next t ∧ (gives combLrp) t)
    ∧ (∃ t, exec (.min n ins) s = .next t ∧ (gives fun a b _ => combMin a b) t)
    ∧ (∃ t, exec (.max n ins) s = .next t ∧ (gives fun a b _ => combMax a b) t)
    ∧ (∃ t, exec (.clmp n ins) s = .next t ∧ (gives combClmp) t)
    ∧ (∃ t, exec (.dp2 n ins) s = .next t ∧ (gives fun a b _ => combDot 2 a b) t)
    ∧ (∃ t, exec (.dp3 n ins) s = .next t ∧ (gives fun a b _ => combDot 3 a b) t)
    ∧ (∃ t, exec (.dp4 n ins) s = .next t ∧ (gives fun a b _ => combDot 4 a b) t)
    ∧ (∃ t, exec (.rcp n ins) s = .next t ∧ (gives fun a _ _ => combRcp a) t)
    ∧ (∃ t, exec (.rsq n ins) s = .next t ∧ (gives fun a _ _ => combRsq a) t)
    ∧ (∃ t, exec (.exp2 n ins) s = .next t ∧ (gives fun a _ _ => combExp2 a) t)
    ∧ (∃ t, exec (.log2 n ins) s = .next t ∧ (gives fun a _ _ => combLog2 a) t)
    ∧ (∃ t, exec (.frc n ins) s = .next t ∧ (gives fun a _ _ => combFrc a) t)
    ∧ (∃ t, exec (.flr n ins) s = .next t ∧ (gives fun a _ _ => combFlr a) t)
    ∧ (∃ t, exec (.slt n ins) s = .next t ∧ (gives fun a b _ => combSlt a b) t)
    ∧ (∃ t, exec (.sge n ins) s = .next t ∧ (gives fun a b _ => combSge a b) t)
    ∧ (∃ t, exec (.cmp n ins) s = .next t ∧ (gives combCmp) t)
    ∧ (∃ t, exec (.scs n ins) s = .next t ∧ (gives fun a _ _ => combScs a) t)
    ∧ (∀ i o, core.slot = some i → s.slotOf i = some o → core.fragment = true →
      nth 0xFF core.tex ins.sampler ≠ 0xFF → (∃ t, exec (.tex n ins) s = .next t
        ∧ (gives fun a _ _ => s.sampleTex o (s.coreTex core o ins.sampler) a.x a.y) t))
    ∧ (core.fragment = true → (∃ t, exec (.kil n ins) s = .next t ∧ (lanes fun l =>
        { l with discarded := l.discarded || combKil (laneSrc core.consts l ins.a) }) t))

/-- Table 07-8: a lane's write reaches the destination register alone, and of it the components of
WMASK alone; inputs and constants are never written. -/
def Obligations.LaneWritesItsDestinationOnly : Prop :=
  ∀ ins v l, l.temps.length = 8 → l.outs.length = 8 →
    (laneWrite ins v l).inputs = l.inputs ∧ (laneWrite ins v l).discarded = l.discarded
    ∧ (∀ k, k ≠ ins.dst → nth V4.zero (laneWrite ins v l).temps k = nth V4.zero l.temps k)
    ∧ (∀ k, k + 48 ≠ ins.dst → nth V4.zero (laneWrite ins v l).outs k = nth V4.zero l.outs k)
    ∧ (bitN ins.wmask 0 = 0 → ∀ k, (nth V4.zero (laneWrite ins v l).temps k).x
        = (nth V4.zero l.temps k).x)
    ∧ (ins.dst < 8 → ins.sat = false → ins.wmask % 16 = 15 →
        nth V4.zero (laneWrite ins v l).temps ins.dst = v)

/-- R216, R218: a free front end takes the oldest waiting pass; its bin phase ends with its primitives binned where
their lot fits RAS_LOT_SIZE; a direct or binned pass without memory errors or poisoned inputs then writes its tiles,
ends, and is counted. -/
def Obligations.RasterPassRunsToItsEnd : Prop :=
  (∀ s i w, s.ras.held = none → s.ras.waiting = i :: w → ∃ t, exec .frontEndPassTaken s = .next t ∧
      t.ras.held = some i ∧ t.ras.waiting = w ∧ t.ras.binDone = false ∧ s.onlyChanges [.ras] t)
  ∧ (∀ s i o, s.ras.held = some i → s.executing i 0x10 = some o →
    let p := passParam o.stop.desc
    p.direct = false → s.ras.binDone = false →
    lotBytes p (livePrims (s.passPrims o p (s.cmdHead o p))) ≤ s.rd R.RAS_LOT_SIZE →
    ∃ t, exec .rasterBinPhaseDone s = .next t ∧ t.ras.binDone = true ∧ t.ras.held = some i
      ∧ t.ras.prims = (livePrims (s.passPrims o p (s.cmdHead o p))).length
      ∧ t.slotOf i = some o)
  ∧ (∀ s i o, s.ras.held = some i → s.ready i 0x10 o →
    ((passParam o.stop.desc).direct = true ∨ s.ras.binDone = true) →
    ∃ t, exec (.rasterPass i) s = .next t ∧ s.worked i o (renderPass i s o) t
      ∧ t.fld F.RAS_PASS_COUNT_COUNT
        = min F.RAS_PASS_COUNT_COUNT.max (s.fld F.RAS_PASS_COUNT_COUNT + 1))

/-! ### The charge arrays and the neural operators (chapters 08 and 09) -/

/-- R252: the end of an array's period makes its calibration due, and the grace time forces it. R251, R253: a
calibration ends with the exact row count it measured, and retires an array without a mapping whose count is below 16.
R250: a sweep step whose counts agree moves on to the next step, one on an array in use is held until it is forced. -/
def Obligations.CalibrationAndSweep : Prop :=
  (∀ s p, p < 200 → s.dst.arrs.length = 200 → s.dst.mapped = true → (s.arr p).retired = false →
    ∃ t, exec (.calibrationPeriodExpire p) s = .next t ∧ (t.arr p).calDue = true
      ∧ (t.arr p).backs = (s.arr p).backs ∧ s.onlyChanges [.dst] t)
  ∧ (∀ s p, p < 200 → s.dst.arrs.length = 200 → (s.arr p).retired = false →
    (s.arr p).calDue = true → (s.arr p).calForced = false → (s.arr p).calRunning = false →
    ∃ t, exec (.calibrationGraceExpire p) s = .next t ∧ (t.arr p).calForced = true
      ∧ t.fld F.DST_CAL_COUNT_FORCED (districtOf p)
        = min F.DST_CAL_COUNT_FORCED.max (s.fld F.DST_CAL_COUNT_FORCED (districtOf p) + 1)
      ∧ s.onlyChanges [.regs 0x10, .dst] t)
  ∧ (∀ s p cols, p < 200 → s.dst.arrs.length = 200 → (s.arr p).calRunning = true →
    16 ≤ (arrayN cols).1 → ∃ t, exec (.calibrationDone p cols) s = .next t ∧
      (t.arr p).nExact = (arrayN cols).1 ∧ (t.arr p).worstCol = (arrayN cols).2
        ∧ (t.arr p).tempCal = s.districtTemp (districtOf p) ∧ (t.arr p).calAt = s.time
        ∧ (t.arr p).calDue = false ∧ (t.arr p).calRunning = false)
  ∧ (∀ s p cols, p < 200 → s.dst.arrs.length = 200 → (s.arr p).calRunning = true →
    (s.arr p).retired = false → (s.arr p).backs = none → (arrayN cols).1 < 16 →
    ∃ t, exec (.calibrationDone p cols) s = .next t ∧ (t.arr p).retired = true)
  ∧ (∀ s p (c : SweepSeen) cols, p < 200 → s.dst.mapped = true → (s.arr p).retired = false →
    (s.arrayInUse p = false ∨ (s.arr p).sweepForced = true →
      (s.arr p).sweepMismatch c.first = false →
      ∃ t, exec (.sweepStep p c cols) s = .next t ∧
      t = { s with dst := { s.dst with arrs := upd s.dst.arrs p { s.arr p with
        sweepStep := ((s.arr p).sweepStep + 1) % 64, cleanTick := s.lamp.tick, sweepHeld := false,
        sweepForced := false } } })
    ∧ (s.arrayInUse p = true → (s.arr p).sweepForced = false →
      ∃ t, exec (.sweepStep p c cols) s = .next t ∧ t = { s with dst := { s.dst with
        arrs := upd s.dst.arrs p { s.arr p with sweepHeld := true } } }))
  ∧ (∀ s p, p < 200 → (s.arr p).sweepHeld = true → ∃ t, exec (.sweepForceExpire p) s = .next t ∧
      t = { s with dst := { s.dst with
      arrs := upd s.dst.arrs p { s.arr p with sweepForced := true } } })

/-- R257: a PAGE_WRITE stop without memory errors or poisoned inputs issues the entry that is due, with its image and
tag, to its array, and is done when every entry is written. A page write that verifies records its page; one that fails
is made once more; one that fails a second time retires its array. -/
def Obligations.PageWritesRecordTheirPages : Prop :=
  (∀ s i o, s.ready i 0x21 o → (∀ k off n, (s.readMark (o.stop.pa k off) n).poison = false) →
    ((upTo (writeEntries o.stop.desc)).all fun n => s.dst.pwDone.contains (i, n)) = true →
    ∃ t, exec (.pageWrite i) s = .next t ∧ t.slotOf i = some { o with done := true })
  ∧ (∀ s i o n p, s.ready i 0x21 o → (∀ k off n, (s.readMark (o.stop.pa k off) n).poison = false) →
    ((upTo (writeEntries o.stop.desc)).all fun n => s.dst.pwDone.contains (i, n)) = false →
    ((upTo (writeEntries o.stop.desc)).any fun n => !s.dst.pwDone.contains (i, n)
      && (s.backing (mapEntry o.stop.desc n).logical).isNone) = false →
    s.dueWrites i o.stop.desc = [(n, p)] → p < s.dst.arrs.length →
    let e := mapEntry o.stop.desc n
    let off := 8192 * e.src8k
    ∃ t, exec (.pageWrite i) s = .next t ∧ (t.arr p).writing = some ⟨e.page, e.tag,
      o.stop.pa (param o.stop.desc 0 1) off, false, some i, none, n,
      s.rbs o (param o.stop.desc 0 1) off 8192⟩ ∧ t.slotOf i = some o)
  ∧ (∀ s p w, p < s.dst.arrs.length → (s.arr p).writing = some w →
    (w.slot = none → (s.arr p).rewrites = [] → w.page < (s.arr p).pages.length →
      ∃ t, exec (.pageWriteDone p true) s = .next t ∧
      (t.arr p).writing = none ∧ nth Page.reset (t.arr p).pages w.page
        = ⟨some w.tag, w.source, w.image, parityCells w.image, []⟩ ∧ s.onlyChanges [.dst] t)
    ∧ (∀ i, w.slot = some i → w.shuttle = none → s.slotOf i = none →
      ∃ t, exec (.pageWriteDone p true) s = .next t ∧
      (i, w.entry) ∈ t.dst.pwDone)
    ∧ (w.second = false → ∃ t, exec (.pageWriteDone p false) s = .next t ∧
      t = { s with dst := { s.dst with arrs := upd s.dst.arrs p { s.arr p with
        writing := some { w with second := true } } } })
    ∧ (w.second = true → w.slot = none → (s.arr p).retired = false → (s.arr p).backs = none →
      ∃ t, exec (.pageWriteDone p false) s = .next t ∧ (t.arr p).retired = true))

/-- R265, R275: an ARRAY_LAYER stop whose arrays are free and backed and hold the pages its map names (R260), and
whose shuttle pages verify, runs to its end and writes its output. R242: a parity error of a district fences it and is
reported. R244, R265: a pass that is due, on an array that holds its page and whose conversions agree with it, adds its
products to the accumulators, takes the time of its phases, and is counted in its district. -/
def Obligations.LayersAndPasses : Prop :=
  (∀ s i o, s.ready i 0x20 o → (∀ p ∈ layerPieces s o, (s.readMark p.1 p.2).poison = false) →
    let es := layerEntries o.stop.desc
    s.layerFree es = true →
    (∀ e ∈ es, ∃ p, s.backing e.logical = some p
      ∧ (e.shuttle = false → (nth Page.reset (s.arr p).pages e.page).tag = some e.tag)) →
    (∀ e ∈ es, ∀ f ∈ es, e.shuttle = true → f.shuttle = false →
      (e.logical, e.page) ≠ (f.logical, f.page)) →
    (∃ t, exec (.arrayLayer i ⟨none, []⟩) s = .next t ∧ (s.worked i o (layerWork i [] s o)) t))
  ∧ (∀ s i o d m, s.live = true → s.executing i 0x20 = some o → d < 8 → s.rcl.escalating = false →
    s.rcl.pending.length < 8 → unitDst d ∉ s.rcl.fenced →
      ∃ t, exec (.arrayLayer i ⟨some d, m⟩) s = .next t ∧
      s.reports t (0x1002 + 0x100 * d) (unitDst d) ∧ t.rcl.fenced = s.rcl.fenced ++ [unitDst d])
  ∧ (∀ s i o n v p (e : MapEntry), s.executing i 0x20 = some o →
    let l := layerOf o.stop.desc
    let es := layerEntries o.stop.desc
    let g := nth Page.reset (s.arr p).pages e.page
    let x := s.tileInput o l e (l.vector v)
    let q := (s.arr p).suspect.bind fun q => if q.1 = e.page then some q.2 else none
    let r := g.convertPass q (s.arr p).nExact l.p x l.p []
    es[n]? = some e → e.shuttle = false → s.passDue i l es n v = true →
    s.backing e.logical = some p → p < s.dst.arrs.length → e.page < (s.arr p).pages.length →
    (s.arr p).held = false → (s.arr p).pageBusy e.page = false → (s.arr p).retired = false →
    g.tag = some e.tag → g.sumsBad = false → r.last = .checked → r.fails = 0 → r.cals = 0 →
    ∃ t, exec (.arrayPass i n v ⟨[], [], [], []⟩) s = .next t ∧
      t.fld F.DST_PASS_COUNT_COUNT (districtOf p)
        = min F.DST_PASS_COUNT_COUNT.max (s.fld F.DST_PASS_COUNT_COUNT (districtOf p) + 1)
      ∧ (t.arr p).passCycles = passTime (s.arr p).nExact l.p s.lamp.thermStep x
      ∧ t.passesDone i n = v + 1
      ∧ (v % zeroAsOne l.block ≠ 0 → t.dst.acc = (upTo l.opt).foldl (fun acc k =>
          keyPut acc (accKey es l e.nt v k) ((keyGet acc (accKey es l e.nt v k)).getD 0
            + passOut g.image l.q k x + outDev l.q k r.devs)) s.dst.acc)
      ∧ t.wrd = s.wrd ∧ s.onlyChanges [.regs 0x10, .dst] t)

/-! ### The CAN controllers, the intake and the set-up scripts (chapters 03 and 13) -/

/-- R378, R379, R460, Table 13-1: the states of a CAN controller, its queue and its error
counts. R382: a signal that has not come in time is marked stale in the snapshot. -/
def Obligations.CanControllersAndStaleSignals : Prop :=
  (∀ s c, c < 2 → s.can.length = 2 → ∃ t, exec (.canDisable c) s = .next t ∧
      t.fld F.CAN_CTRL_EN c = 0 ∧ s.onlyChanges [.regs 0x60, .can] t
      ∧ (s.flag F.CAN_CTRL_EN c = true → (t.canCtl c).state = 3 ∧ (t.canCtl c).queue = []
        ∧ t.fld F.CAN_ERR_COUNT_TX_ABANDON c = min F.CAN_ERR_COUNT_TX_ABANDON.max
            (s.fld F.CAN_ERR_COUNT_TX_ABANDON c + (s.canCtl c).queue.length))
      ∧ (s.flag F.CAN_CTRL_EN c = false → t.can = s.can))
  ∧ (∀ s c f q, c < 2 → s.can.length = 2 → s.canTalks c = true → 2 ≤ s.boot.phase →
    (s.canCtl c).queue = f :: q → ∃ t, exec (.canFrameTransmitted c) s = .next t ∧
      (t.canCtl c).queue = q ∧ (t.canCtl c).sent = some f ∧ s.onlyChanges [.can] t)
  ∧ (∀ s c, c < 2 → s.can.length = 2 → s.canOn c = true → ∃ t, exec (.canBusOff c) s = .next t ∧
      (t.canCtl c).state = 2 ∧ s.reports t (0x6001 + 0x100 * c) unitHub
      ∧ t.fld F.CAN_ERR_COUNT_BUS_OFF c = min F.CAN_ERR_COUNT_BUS_OFF.max
          (s.fld F.CAN_ERR_COUNT_BUS_OFF c + 1)
      ∧ ((s.canCtl c).busOffs = [] → (t.canCtl c).holdoff = false)
      ∧ ((s.canCtl c).busOffs.length = 7 → (∀ x ∈ (s.canCtl c).busOffs, s.time < x + 25000000) →
        (t.canCtl c).holdoff = true))
  ∧ (∀ s c, c < 2 → s.can.length = 2 → (s.canCtl c).state = 2 →
    ((s.canCtl c).holdoff = false → ∃ t, exec (.canBusOffRecovery c) s = .next t ∧
      (t.canCtl c).state = 0 ∧ t.fld F.CAN_STATUS_TEC c = 0 ∧ t.fld F.CAN_STATUS_REC c = 0
        ∧ s.onlyChanges [.regs 0x60, .can] t)
    ∧ ((s.canCtl c).holdoff = true → (∃ t, exec (.canBusOffRecovery c) s = .next t ∧ t = s)
      ∧ ∃ t, exec (.canHoldoffEnd c) s = .next t ∧ (t.canCtl c).state = 0
        ∧ (t.canCtl c).holdoff = false
        ∧ (t.canCtl c).busOffs = [] ∧ t.fld F.CAN_STATUS_TEC c = 0
        ∧ s.onlyChanges [.regs 0x60, .can] t))
  ∧ (∀ s c f q, c < 2 → s.can.length = 2 → (s.canCtl c).queue = f :: q →
    (∀ g ∈ q, f.queuedAt ≤ g.queuedAt) → ∃ t, exec (.canTxAbandon c) s = .next t ∧
      (t.canCtl c).queue = q ∧ t.fld F.CAN_ERR_COUNT_TX_ABANDON c
          = min F.CAN_ERR_COUNT_TX_ABANDON.max (s.fld F.CAN_ERR_COUNT_TX_ABANDON c + 1)
        ∧ s.onlyChanges [.regs 0x60, .can] t)
  ∧ (∀ s c x y, c < 2 → s.can.length = 2 → s.canOn c = true → (s.canCtl c).state = 0 →
    ∃ t, exec (.canErrorPassive c x y) s = .next t ∧ (t.canCtl c).state = 1
      ∧ t.fld F.CAN_STATUS_TEC c = min x 255 ∧ t.fld F.CAN_STATUS_REC c = min y 255
      ∧ s.reports t (0x6002 + 0x100 * c) unitHub)
  ∧ (∀ s n, n < 64 → s.svc.intakeRun = true → s.flag F.SVC_SIG_ID_EN n = true →
    s.fld F.SVC_SIG_TIM_STALE n ≠ 0 → bitN (s.snap n 0x0C 2) 1 = 0 →
    s.memsOk → s.lamp.retARetired = false → ∃ t, exec (.signalStale n) s = .next t ∧
      t.bytes .retA (snapBase + 0x4C + 16 * n) 2
        = leBytes 2 (setBits (s.snap n 0x0C 2) 1 1 1))

/-- R98, R100, Table 03-16: what each operation of a set-up script does, and how the thread goes
on. -/
def Obligations.ScriptOperations : Prop :=
  (∀ s i o, s.opReady i 1 = some o → o.arg < 2 → 5 ≤ o.len → o.len ≤ 244 →
    fieldAt o.data 0 1 < 128 →
    fieldAt o.data 1 1 ≤ 2 → s.i2c o.arg = none → s.ports.i2c.length = 2 →
      s.boot.threads.length = 4 →
    ∃ t, exec (.i2cWrite i) s = .next t ∧ t.i2c o.arg = some ⟨fieldAt o.data 0 1, false,
        slice o.data 2 (fieldAt o.data 1 1) ++ o.data.drop 4, 0, some i, 0, false⟩
      ∧ (t.thread i).wait = .i2c o.arg ∧ t.rd R.I2C_STATUS o.arg = 1)
  ∧ (∀ s i o, s.opReady i 2 = some o → o.arg < 2 → o.len = 16 → fieldAt o.data 0 1 < 128 →
    fieldAt o.data 1 1 ≤ 2 → 1 ≤ fieldAt o.data 4 1 → fieldAt o.data 4 1 ≤ 4 →
    s.i2c o.arg = none → s.ports.i2c.length = 2 → s.boot.threads.length = 4 →
    ∃ t, exec (.i2cExpect i) s = .next t ∧ t.i2c o.arg = some (expectXfer i o.data)
      ∧ (t.thread i).wait = .i2c o.arg ∧ t.rd R.I2C_STATUS o.arg = 1)
  ∧ (∀ s i o, s.opReady i 3 = some o → o.len = 4 → 1 ≤ fieldAt o.data 0 4 →
    fieldAt o.data 0 4 ≤ 1000000 → s.boot.threads.length = 4 → ∃ t, exec (.wait i) s = .next t ∧
      (t.thread i).wait = .time ∧ s.onlyChanges [.boot] t)
  ∧ (∀ s i o, s.opReady i 4 = some o → o.len = 1 → fieldAt o.data 0 1 ≤ 1 →
    s.boot.threads.length = 4 →
    s.ports.panelEn.length = 2 → s.ports.panelRst.length = 2 →
    ((o.arg < 4 ∧ s.localRole ≠ 2) ∨ (0x10 ≤ o.arg
      ∧ o.arg < 0x20)) → ∃ t, exec (.pinSet i) s = .next t ∧
      t.pinLevel o.arg = (fieldAt o.data 0 1 == 1) ∧ (t.thread i).pc = (s.thread i).pc + o.size
        ∧ (t.thread i).wait = .none)
  ∧ (∀ s i o, s.opReady i 5 = some o → o.len = 4 → fieldAt o.data 0 1 ≤ 1 →
    pinReadable o.arg = true →
    s.boot.threads.length = 4 → ∃ t, exec (.pinWait i) s = .next t ∧ s.onlyChanges [.boot] t
      ∧ (s.pinLevel o.arg = (fieldAt o.data 0 1 == 1) → (t.thread i).pc = (s.thread i).pc + o.size
        ∧ (t.thread i).wait = .none)
      ∧ (s.pinLevel o.arg ≠ (fieldAt o.data 0 1 == 1) → (t.thread i).pc = (s.thread i).pc
        ∧ (t.thread i).wait = .pin o.arg (fieldAt o.data 0 1 == 1)))
  ∧ (∀ s i o, s.opReady i 6 = some o → o.arg < 2 → 1 ≤ o.len → o.len ≤ 65 →
    lpTypes.contains (fieldAt o.data 0 1) = true → s.lvdsStrap o.arg = false → s.localRole ≠ 2 →
    (s.output o.arg).lpBytes = [] → s.boot.threads.length = 4 → s.sco.outs.length = 2 →
    ∃ t, exec (.dsiCmd i) s = .next t ∧ (t.output o.arg).lpBytes = o.data
      ∧ (t.output o.arg).dphyOn = true
      ∧ (t.output o.arg).lpScript = true ∧ (t.thread i).wait = .dsi o.arg
      ∧ s.onlyChanges [.boot, .sco, .ports] t)
  ∧ (∀ s i o c l, s.opReady i 0 = some o → (s.thread i).scripts = c :: l →
    s.boot.threads.length = 4 →
    (∃ t, exec (.scriptEnd i) s = .next t ∧ (State.loaderGoesOn fun u => (u.thread i).scripts = l
      ∧ (u.thread i).pc = 0 ∧ (u.thread i).wait = .none
      ∧ (l = [] → (s.thread i).failed = false →
        bits (u.rd R.BOOT_SCRIPT_STATUS) (2 * i + 1) (2 * i) = 2)
      ∧ s.onlyChanges [.regs 0x02, .boot, .cam] u) t))
  ∧ (∀ s i o, s.boot.threads.length = 4 → s.scriptOp i = some o → i < 4 →
    ((s.thread i).wait = .time → ∃ t, exec (.scriptWaitElapsed i) s = .next t ∧
      (t.thread i).pc = (s.thread i).pc + o.size ∧ (t.thread i).wait = .none
        ∧ s.onlyChanges [.boot] t)
    ∧ ∀ p l, (s.thread i).wait = .pin p l → ∃ t, exec (.pinLevelReached i) s = .next t ∧
      (t.thread i).pc = (s.thread i).pc + o.size ∧ (t.thread i).wait = .none
        ∧ s.onlyChanges [.boot, .ports] t)
  ∧ (∀ s i p l c w, i < 4 → s.boot.threads.length = 4 → (s.thread i).scripts = c :: w →
    c.target = 3 →
    (s.thread i).wait = .pin p l →
    (∃ t, exec (.pinWaitTimeout i) s = .next t
      ∧ (State.loaderGoesOn fun u => (u.thread i).failed = true
      ∧ (u.thread i).scripts = w ∧ u.rcl.scriptFailed = true ∧ s.reports u 0x0209 unitNone
      ∧ bits (u.rd R.BOOT_SCRIPT_STATUS) (2 * i + 1) (2 * i) = 3) t)
    ∧ (∃ t, exec (.scriptTimeout i) s = .next t
      ∧ (State.loaderGoesOn fun u => (u.thread i).failed = true
      ∧ (u.thread i).scripts = w ∧ u.rcl.scriptFailed = true ∧ s.reports u 0x0209 unitNone
      ∧ bits (u.rd R.BOOT_SCRIPT_STATUS) (2 * i + 1) (2 * i) = 3) t))
  ∧ (∀ s x, x < 2 → s.sco.outs.length = 2 → (s.output x).lpBytes ≠ [] →
    ∃ t, exec (.dsiLpPacketSent x) s = .next t ∧ (t.output x).lpBytes = []
      ∧ (t.output x).lpWait = false
      ∧ s.onlyChanges [.boot, .sco] t
      ∧ ∀ i o, i < 4 → s.boot.threads.length = 4 → (s.output x).lpScript = true →
        (s.thread i).wait = .dsi x → s.scriptOp i = some o →
        (t.thread i).pc = (s.thread i).pc + o.size ∧ (t.thread i).wait = .none)

/-- R98, Table 13-19: transfers of the I2C controllers. A transfer that is not acknowledged is
tried again after an interval, three times; an I2C_EXPECT that reads another value is too, as
often as it says. -/
def Obligations.I2cTransfers : Prop :=
  (∀ s c x d, c < 2 → s.ports.i2c.length = 2 → s.i2c c = some x → x.waiting = false →
    (x.thread = none → ∃ t, exec (.i2cTransferDone c true d) s = .next t ∧ t.i2c c = none
      ∧ t.rd R.I2C_STATUS c = 0 ∧ s.onlyChanges [.regs 0x63, .ports] t
      ∧ (x.read = true → x.count ≤ 4 →
        t.rd R.I2C_DATA c = leNat ((upTo x.count).map fun i => nth 0 d i))
      ∧ (x.read = false → t.rd R.I2C_DATA c = s.rd R.I2C_DATA c))
    ∧ (∀ i o, x.thread = some i → i < 4 → s.boot.threads.length = 4 → s.scriptOp i = some o →
      (x.read = false → ∃ t, exec (.i2cTransferDone c true d) s = .next t ∧ t.i2c c = none
        ∧ (t.thread i).pc = (s.thread i).pc + o.size ∧ (t.thread i).wait = .none)
      ∧ (∀ got, x.read = true →
        got = ((leNat ((upTo x.count).map fun i => nth 0 d i)) &&& (fieldAt o.data 8 4)) →
        (got = fieldAt o.data 12 4 → ∃ t, exec (.i2cTransferDone c true d) s = .next t ∧
      (t.thread i).pc = (s.thread i).pc + o.size ∧ (t.thread i).wait = .none)
        ∧ (got ≠ fieldAt o.data 12 4 → (s.thread i).expectRetries < fieldAt o.data 5 1 →
          ∃ t, exec (.i2cTransferDone c true d) s = .next t ∧ (t.thread i).wait = .expectRetry c
            ∧ (t.thread i).expectRetries = (s.thread i).expectRetries + 1)))
    ∧ (x.retries < 3 → ∃ t, exec (.i2cTransferDone c false d) s = .next t ∧
      t.i2c c = some { x with waiting := true, retries := x.retries + 1 }
        ∧ s.onlyChanges [.ports] t)
    ∧ (3 ≤ x.retries → x.thread = none → ∃ t, exec (.i2cTransferDone c false d) s = .next t ∧
      t.i2c c = none ∧ t.rd R.I2C_STATUS c = 6 ∧ s.reports t 0x6301 unitHub)
    ∧ (x.thread = none → ∃ t, exec (.i2cStretchTimeout c) s = .next t ∧
      t.i2c c = none ∧ t.rd R.I2C_STATUS c = 4 ∧ s.reports t 0x6301 unitHub))
  ∧ (∀ s c x, c < 2 → s.ports.i2c.length = 2 → s.i2c c = some x → x.waiting = true →
    ∃ t, exec (.i2cRetryInterval c) s = .next t ∧ t.i2c c = some { x with waiting := false }
      ∧ s.onlyChanges [.ports] t)
  ∧ (∀ s i c o, c < 2 → i < 4 → s.ports.i2c.length = 2 → s.boot.threads.length = 4 →
    (s.thread i).wait = .expectRetry c → s.scriptOp i = some o → s.i2c c = none →
    ∃ t, exec (.i2cExpectRetryInterval i) s = .next t ∧ t.i2c c = some (expectXfer i o.data)
      ∧ (t.thread i).wait = .i2c c ∧ t.rd R.I2C_STATUS c = 1
      ∧ s.onlyChanges [.regs 0x63, .boot, .ports] t)
  ∧ (∀ s c v, c < 2 → s.live = true → s.ports.i2c.length = 2 → s.i2cByScript c = false →
    (s.i2c c = none → ∃ t, exec (.i2cXferStart c v) s = .next t ∧ t.bus.ok = true
      ∧ t.rd R.I2C_STATUS c = 1
      ∧ (t.i2c c).map (fun x => (x.addr, x.read, x.thread)) = some (bits v 6 0, bitN v 7 == 1, none)
      ∧ s.onlyChanges [.regs 0x63, .bus, .ports] t)
    ∧ (s.i2c c ≠ none → ∃ t, exec (.i2cXferStart c v) s = .next t
      ∧ t = { s with bus := ⟨false, 0⟩ }))

/-! ### The loader (chapter 03) -/

/-- What each of the loader's commands does when its checks hold (R41, R72, R80, R83 to R90, R93, R112, R457,
Table 03-1). Where they do not: an image that fails its checks gives way to the alternate one (R84), a failed LPDDR
training steps the rate down once and then leaves the LPDDR absent (R133), and a repair read that fails is tried once
more (R103). -/
def Obligations.LoaderStepsAndRecords : Prop :=
  (∀ s temps, s.lamp.power = .waking → s.lamp.wakingStep = 4 → s.ave.initDone = true →
    s.lamp.resetNLow = false → (∀ x ∈ temps, x < 115) → s.lamp.retErrs = [] → s.badPairs [1] = [] →
    let u := (readBanks []).run s
    ∃ t, exec (.selfTestDone true temps) s = .next t ∧
      t = loaderStart.run { u with
        lamp := { s.lamp with
          power := .running, wakingStep := 0, refCount := 0, attempts := 0, thermCheck := false,
          resetHold := false, parkedHold := false },
        rcl := { s.rcl with pairOk := true, escalating := false } })
  ∧ (∀ s, s.ports.xspiRstN = true → ∃ t, exec .flashResetWaitEnd s = .next t ∧
      t = { s with boot := { s.boot with flashReady := true } })
  ∧ (∀ s, s.boot.phase = 1 → s.boot.flashReady = true → s.boot.overBridge = false →
    s.lamp.straps.bootsel = 0 →
    let h := s.imgBytes 0 256
    let ok := sectTableOk (fieldAt h 8 4) (fieldAt h 0x24 4) (fieldAt h 0x28 4) s.boot.imageBase
      (s.sectTable h)
    (s.headerOk h = true → ok = true → s.signatureFault h = 0 →
      ∃ t, exec (.imageVerify true true) s = .next t ∧
      t.boot.phase = 2 ∧ t.boot.sects = s.sectTable h ∧ t.boot.imageLen = fieldAt h 8 4
        ∧ t.boot.quad = false ∧ t.rd R.BOOT_BUILD_LO = fieldAt h 0x10 4
        ∧ t.rd R.BOOT_BUILD_HI = fieldAt h 0x14 4)
    ∧ (s.headerOk h = false ∨ ok = false ∨ s.signatureFault h ≠ 0 → s.boot.imageAlt = false →
      s.altOffset ≠ 0 → ∃ t, exec (.imageVerify true true) s = .next t ∧
      t.boot.phase = 1 ∧ t.boot.imageAlt = true ∧ t.boot.imageBase = s.altOffset
          ∧ t.boot.sects = [] ∧ t.flash = s.flash ∧ t.otp = s.otp))
  ∧ (∀ s x, s.boot.sects[0]? = some x → s.boot.phase = 2 → s.boot.config = [] → s.sectDue x = true →
    x.chipsOk s.ident.order = true → s.digestOk x true = true →
    confOk (s.imgBytes x.offset x.length) = true →
    ∃ t, exec (.configSectionCheck true) s = .next t ∧ t.boot.config = s.imgBytes x.offset x.length
      ∧ t.fld F.SYS_STATE_ROLE = s.declaredRole (s.imgBytes x.offset x.length)
      ∧ t.boot.configAt = 0 ∧ (t.boot.sects[0]?).map (fun y => y.state) = some 2
      ∧ t.svc.portsRun = true)
  ∧ (∀ s r a h w, s.nextRec = some r → r.typ = 1 → fieldAt r.payload 0 4 = a →
    r.payload.drop 4 = leBytes 4 w → w < 2 ^ 32 → s.plainAt a h → confWritable a = true →
    s.live = true → slotOfAddr a ≠ 0x62 →
    ∃ t, exec .configRegWrite s = .next t ∧ t.boot.configAt = s.boot.configAt + r.size
      ∧ t.rd h.r h.i h.j = storedWord h.r (s.readWord h.r h.i h.j) w % 2 ^ 32)
  ∧ (∀ s r, s.nextRec = some r → r.typ = 2 → ∃ t, exec .configProfile s = .next t ∧
      t.boot.profiles = s.boot.profiles ++ [profileOf r.payload]
      ∧ t.boot.configAt = s.boot.configAt + r.size
      ∧ s.onlyChanges [.mem .flash, .mem .retA, .mem .retB, .free, .lamp, .boot] t)
  ∧ (∀ s r, s.nextRec = some r → r.typ = 3 → ∃ t, exec .configLoader s = .next t ∧
      t.boot.splashHoldMs = fieldAt r.payload 0 2 ∧ t.boot.configAt = s.boot.configAt + r.size
      ∧ s.onlyChanges [.mem .flash, .mem .retA, .mem .retB, .free, .lamp, .boot] t)
  ∧ (∀ s r, s.nextRec = some r → r.typ = 4 → ddrRecOk r.payload = true →
    (fieldAt r.payload 0 1 = 0 → ∃ t, exec .configDdr s = .next t ∧ t.boot.ddrDeclared = false
      ∧ t.boot.lpddrKnown = true ∧ t.boot.configAt = s.boot.configAt + r.size)
    ∧ (fieldAt r.payload 0 1 = 1 → ∃ t, exec .configDdr s = .next t ∧ t.boot.ddrDeclared = true
      ∧ ddrRates[t.boot.ddrRate]? = some (fieldAt r.payload 2 2)
      ∧ t.boot.ddrRanks = fieldAt r.payload 1 1 ∧ t.boot.ddrMib = fieldAt r.payload 4 2
      ∧ t.boot.lpddrKnown = false ∧ t.lamp.pllReq = s.lamp.pllReq ||| 0x80
      ∧ t.boot.configAt = s.boot.configAt + r.size))
  ∧ (∀ s r, s.nextRec = some r → r.typ = 0xFF → (∃ t, exec .configEnd s = .next t
    ∧ (State.loaderGoesOn fun u =>
    u.boot.phase = 3 ∧ u.svc.intakeRun = (s.localRole != 2)) t))
  ∧ (∀ s i x, s.boot.sects[i]? = some x → s.sectWanted x = true → s.sectDue x = true →
    sectOutOfPlace x = false → x.chipsOk s.ident.order = true → s.digestOk x true = true →
      x.kind ≠ 2 → x.kind ≠ 3 →
    (∃ t, exec (.sectionLoaded i true) s = .next t ∧ (State.loaderGoesOn fun u =>
      (u.boot.sects[i]?).map (fun y => y.state) = some 2
        ∧ (x.destSel = 1 → s.memsOk → x.dest + x.length ≤ 0x40000 →
          u.bytes .icon x.dest x.length = s.imgBytes x.offset x.length)
        ∧ (x.destSel = 0 → u.plaza = ((paStore x.dest (s.imgBytes x.offset x.length)).run
          s).plaza)) t))
  ∧ (∀ s us, s.live = true → s.boot.ddrDeclared = true → s.boot.lpddrKnown = false →
    (∃ t, exec (.lpddrTrainingDone true us) s = .next t ∧ (State.loaderGoesOn fun u =>
      u.ave.ddrBytes = s.boot.ddrMib * 2 ^ 20 / 8 * 7 ∧ u.ave.ddrInit = true
        ∧ u.fld F.BOOT_STATUS_LPDDR_TRAINED = 1 ∧ u.boot.lpddrKnown = true
        ∧ u.rd R.DDR_TRAIN_TIME = us % 2 ^ 32) t)
    ∧ (s.boot.trainAttempt = 0 → s.boot.ddrRate ≠ 0 →
      ∃ t, exec (.lpddrTrainingDone false us) s = .next t ∧
      t.boot.trainAttempt = 1 ∧ t.boot.ddrRate = s.boot.ddrRate - 1 ∧ t.boot.lpddrKnown = false
        ∧ t.fld F.DDR_EVENT_RATE_DOWN = 1 ∧ s.reports t 0x8004 unitDdr)
    ∧ (s.boot.trainAttempt = 1 → (∃ t, exec (.lpddrTrainingDone false us) s = .next t
      ∧ (State.loaderGoesOn fun u =>
      u.boot.lpddrKnown = true ∧ u.ave = s.ave ∧ u.fld F.DDR_EVENT_TRAIN_FAIL = 1
        ∧ s.reports u 0x8001 unitDdr) t)))
  ∧ (∀ s l, s.boot.phase = 4 → s.boot.calDone = false → bitN (s.fld F.SYS_PLL_STATUS_LOCK) 2 = 1 →
    (∃ t, exec (.startCalibrationDone l) s = .next t ∧ (State.loaderGoesOn fun u =>
      u.boot.calDone = true ∧ u.dst.mapped = true ∧ u.dst.arrs.length = 200) t))
  ∧ (∀ s, s.live = true → ∃ t, exec .splashHoldElapsed s = .next t ∧
      t = { s with boot := { s.boot with holdElapsed := true } })
  ∧ (∀ s, s.boot.phase = 9 → s.boot.heldRequest = 0 → ∃ t, exec .bridgeBootTimeout s = .next t ∧
      t.boot.phase = 8 ∧ t.boot.threads = List.replicate 4 Thread.idle
      ∧ t.can = [CanCtl.reset, CanCtl.reset] ∧ t.svc.intakeRun = false ∧ t.svc.portsRun = true)
  ∧ (∀ s l a b, s.live = true → s.badPairs [0x40, 0x41, 0x42] = [] →
    (s.nextLine = none → (∃ t, exec (.lineStart l a b) s = .next t
      ∧ (State.loaderGoesOn fun u => u = s) t))
    ∧ ∀ n, s.nextLine = some n → n ≠ 0 → (s.output 0).phase = 0 → (s.output 1).phase = 0 →
      (∃ t, exec (.lineStart l a b) s = .next t ∧ (State.loaderGoesOn fun u =>
        u.sco = { s.sco with line := n, due := false } ∧ u.sgn.icons.length = 64) t))
  ∧ (∀ s r l x, s.boot.repairs = r :: l → s.boot.sects[r.sect]? = some x → s.live = true →
    s.boot.flashOp = none → s.repairLocked x r = true →
    (r.tries = 0 → ∃ t, exec (.repairReadDone false) s = .next t ∧
      t = { s with boot := { s.boot with
        flashRetries := 0, repairs := { r with tries := 1 } :: l } })
    ∧ (sha256 (s.sectBytes x 0 x.length) = x.digest → (∀ q, (s.queue q).badStop = false) →
      ∃ t, exec (.repairReadDone true) s = .next t ∧
      t.boot.repairs = l ∧ t.fld F.BOOT_REPAIR_EVENT_DONE = 1
          ∧ t.fld F.BOOT_REPAIR_COUNT_DONE = min F.BOOT_REPAIR_COUNT_DONE.max
              (s.fld F.BOOT_REPAIR_COUNT_DONE + 1)
          ∧ (x.destSel = 1 → t.sgn.repaired.map (fun p => p.1)
            = s.sgn.repaired.map (fun p => p.1) ++ r.pages)))

/-! ### The service ports and the intake (chapter 13) -/

/-- R392 to R403, Table 13-9: the commands of the service protocol on an idle port, each with its
answer and its effect; one that the interlock holds; and one of an unknown command code. The
statement takes requests without a REQ, which claim no journal entry. -/
def Obligations.ServiceCommands : Prop :=
  (∀ s p, s.takesCmd p ⟨1, 0, [], true, true⟩ → ∃ t, exec (.gspIdent p 0 []) s = .next t ∧
      s.answers t p ⟨1, 0, 0, false, leBytes 4 (s.rd R.SYS_ID) ++ leBytes 4 (s.readWord
        R.BOOT_STATUS 0 0)
      ++ leBytes 4 (s.rd R.BOOT_BUILD_LO) ++ leBytes 4 (s.rd R.BOOT_BUILD_HI)
      ++ leBytes 8 s.lamp.tick ++ leBytes 1 (p + 1) ++ zeros 3⟩
      ∧ s.onlyChanges [.regs 0x62, .can, .svc] t)
  ∧ (∀ s p b, s.takesCmd p ⟨2, 0, b, true, true⟩ → fieldAt b 0 4 = R.SYS_ID.addr →
    fieldAt b 4 2 = 1 → (∃ k, s.place R.SYS_ID.addr = .block k) →
      ∃ t, exec (.gspRegRead p 0 b) s = .next t ∧
      s.answers t p ⟨2, 0, 0, false, leBytes 4 (s.rd R.SYS_ID)⟩
        ∧ s.onlyChanges [.regs 0x62, .can, .svc, .bus] t)
  ∧ (∀ s p b h w, s.takesCmd p ⟨3, 0, b, true, true⟩ → s.plainAt (fieldAt b 0 4) h →
    b.drop 4 = leBytes 4 w → w < 2 ^ 32 → h.r.wo = 0 →
    slotOfAddr (fieldAt b 0 4) ∉ [0x01, 0x60, 0x61, 0x62] →
      ∃ t, exec (.gspRegWrite p 0 b) s = .next t ∧
      s.answers t p ⟨3, 0, 0, false, []⟩
        ∧ t.rd h.r h.i h.j = storedWord h.r (s.readWord h.r h.i h.j) w % 2 ^ 32
        ∧ (s.memsOk → s.lamp.retARetired = false → s.lamp.retErrs = [] →
          t.cjNext = (s.cjNext + 1) % 2 ^ 32))
  ∧ (∀ s p b, s.takesCmd p ⟨4, 0, b, true, true⟩ →
    s.directConflict (fieldAt b 0 8) (fieldAt b 8 4) false = false → s.ave.plazaErrs = [] →
    s.ave.ddrErrs = [] →
    ((touched 64 (fieldAt b 0 8) (fieldAt b 8 4)).any fun c => s.poisonedAt (64 * c)) = false →
    ∃ t, exec (.gspMemRead p 0 b) s = .next t ∧
      s.answers t p ⟨4, 0, 0, false, s.paBytes (fieldAt b 0 8) (fieldAt b 8 4)⟩
        ∧ s.onlyChanges [.regs 0x62, .can, .svc] t)
  ∧ (∀ s p b, s.takesCmd p ⟨5, 0, b, true, true⟩ →
    s.directConflict (fieldAt b 0 8) (b.length - 8) true = false → s.ave.plazaErrs = [] →
    s.ave.ddrErrs = [] → ∃ t, exec (.gspMemWrite p 0 b) s = .next t
      ∧ s.answers t p ⟨5, 0, 0, false, []⟩
      ∧ t.plaza = ((paStore (fieldAt b 0 8) (b.drop 8)).run s).plaza
      ∧ t.lpddr = ((paStore (fieldAt b 0 8) (b.drop 8)).run s).lpddr
      ∧ (s.memsOk → s.lamp.retARetired = false → s.lamp.retErrs = [] →
          t.cjNext = (s.cjNext + 1) % 2 ^ 32))
  ∧ (∀ s p b h w, s.takesCmd p ⟨6, 0, b, true, true⟩ →
    let r := confRecAt b 0
    s.plainAt (fieldAt r.payload 0 4) h → r.payload.drop 4 = leBytes 4 w → w < 2 ^ 32 →
    slotOfAddr (fieldAt r.payload 0 4) ∉ [0x60, 0x61, 0x62] →
    (confWritable (fieldAt r.payload 0 4) = true → ∃ t, exec (.gspConfigApply p 0 b) s = .next t ∧
      s.answers t p ⟨6, 0, 0, false, []⟩
        ∧ t.rd h.r h.i h.j = storedWord h.r (s.readWord h.r h.i h.j) w % 2 ^ 32)
    ∧ (confWritable (fieldAt r.payload 0 4) = false →
      ∃ t, exec (.gspConfigApply p 0 b) s = .next t ∧
      s.answers t p ⟨6, 0, 4, false, [0, 0]⟩ ∧ t.rd h.r h.i h.j = s.rd h.r h.i h.j))
  ∧ (∀ s p b x v, s.takesCmd p ⟨7, 0, b, true, true⟩ → s.boot.sects[0]? = some x →
    findRec (x.length / 24 + 1) (s.sectBytes x 0 x.length) 0 (fieldAt b 0 2) = some v →
    v.length ≤ 1024 → ∃ t, exec (.gspConfigRead p 0 b true) s = .next t
      ∧ s.answers t p ⟨7, 0, 0, false, v⟩
      ∧ s.onlyChanges [.regs 0x62, .can, .svc] t)
  ∧ (∀ s p b, s.takesCmd p ⟨8, 0, b, true, true⟩ →
    ∃ t, exec (.gspFlashRead p 0 b true) s = .next t ∧
      s.answers t p ⟨8, 0, 0, false, s.bytes .flash (fieldAt b 0 4) (fieldAt b 4 2)⟩
      ∧ s.onlyChanges [.regs 0x62, .can, .svc] t)
  ∧ (∀ s p b, s.takesCmd p ⟨9, 0, b, true, true⟩ →
    let span := GspMsg.flashSpan ⟨9, 0, b, true, true⟩
    (spansMeet span (s.boot.persistOff, s.boot.persistLen) = true →
      ∃ t, exec (.gspFlashErase p 0 b) s = .next t ∧
      s.answers t p ⟨9, 0, 5, false, []⟩ ∧ t.boot.flashOp = none ∧ t.flash = s.flash)
    ∧ (spansMeet span (s.boot.persistOff, s.boot.persistLen) = false →
      ∃ t, exec (.gspFlashErase p 0 b) s = .next t ∧
      t.boot.flashOp = some ⟨.gsp p, true, span.1, span.2, [], s.cjNext⟩
        ∧ t.flash = s.flash ∧ (t.port p).executing = some ⟨9, 0, b, true, true⟩))
  ∧ (∀ s p b, s.takesCmd p ⟨0x0A, 0, b, true, true⟩ →
    let span := GspMsg.flashSpan ⟨0x0A, 0, b, true, true⟩
    (spansMeet span (s.boot.persistOff, s.boot.persistLen) = true →
      ∃ t, exec (.gspFlashProgram p 0 b) s = .next t ∧
      s.answers t p ⟨0x0A, 0, 5, false, []⟩ ∧ t.boot.flashOp = none ∧ t.flash = s.flash)
    ∧ (spansMeet span (s.boot.persistOff, s.boot.persistLen) = false →
      ∃ t, exec (.gspFlashProgram p 0 b) s = .next t ∧
      t.boot.flashOp = some ⟨.gsp p, false, span.1, span.2, b.drop 4, s.cjNext⟩
        ∧ t.flash = s.flash ∧ (t.port p).executing = some ⟨0x0A, 0, b, true, true⟩))
  ∧ (∀ s p b, s.takesCmd p ⟨0x0B, 0, b, true, true⟩ → fieldAt b 0 1 = 2 → 1 ≤ fieldAt b 5 1 →
    fieldAt b 5 1 ≤ 15 → fieldAt b 1 4 + fieldAt b 5 1 ≤ 17 →
      ∃ t, exec (.gspJournalRead p 0 b true) s = .next t ∧
      s.answers t p ⟨0x0B, 0, 0, false, leBytes 4 (fieldAt b 1 4) ++ leBytes 1 (fieldAt b 5 1)
        ++ s.retBytes (snapBase + 64 * fieldAt b 1 4) (64 * fieldAt b 5 1)⟩
        ∧ s.onlyChanges [.regs 0x62, .can, .svc] t)
  ∧ (∀ s p, s.Sound → s.takesCmd p ⟨0x0C, 0, [], true, true⟩ →
    ∃ t, exec (.gspRestart p 0 []) s = .next t ∧
      s.restarted t causeCmd)
  ∧ (∀ s p b, s.memsOk → s.takesCmd p ⟨0x0D, 0, b, true, true⟩ →
    (s.otpBlank (fieldAt b 0 1) = true → ∃ t, exec (.gspOtpKey p 0 b) s = .next t ∧
      t.otpKey (fieldAt b 0 1) = b.drop 1 ∧ s.answers t p ⟨0x0D, 0, 0, false, []⟩
        ∧ ∀ a, (a < 32 * fieldAt b 0 1 ∨ 32 * fieldAt b 0 1 + 32 ≤ a) →
          t.byte .otp a = s.byte .otp a)
    ∧ (s.otpBlank (fieldAt b 0 1) = false → ∃ t, exec (.gspOtpKey p 0 b) s = .next t ∧
      t.otp = s.otp ∧ s.answers t p ⟨0x0D, 0, 0x0A, false, []⟩))
  ∧ (∀ s p b, s.memsOk → s.takesCmd p ⟨0x0E, 0, b, true, true⟩ →
    ∃ t, exec (.gspOtpRevoke p 0 b) s = .next t ∧
      t.otpRevoked (fieldAt b 0 1) = true ∧ s.answers t p ⟨0x0E, 0, 0, false, []⟩
      ∧ (∀ k, k ≠ fieldAt b 0 1 → t.otpRevoked k = s.otpRevoked k)
      ∧ ∀ a, a ≠ 128 → t.byte .otp a = s.byte .otp a)
  ∧ (∀ s p b, s.takesCmd p ⟨0x0F, 0, b, true, true⟩ →
    let n := fieldAt b 0 1
    let v := fieldAt b 1 4
    (s.plausible n v = false ∨ s.rateOk n = false → ∃ t, exec (.gspIntakeEvent p 0 b) s = .next t ∧
      s.answers t p ⟨0x0F, 0, 0x0D, false, []⟩)
    ∧ (s.plausible n v = true → s.rateOk n = true → s.ijFree ≠ none → s.svc.sigs.length = 64 →
      s.flag F.SVC_SIG_FMT_WAKE n = false → ∃ t, exec (.gspIntakeEvent p 0 b) s = .next t ∧
      s.answers t p ⟨0x0F, 0, 0, false, leBytes 4 s.nextIseq⟩
          ∧ (nth ⟨none, 0⟩ t.svc.sigs n).lastAt = some s.time))
  ∧ (∀ s p b, s.takesCmd p ⟨0x10, 0, b, true, true⟩ → ∃ t, exec (.gspResult p 0 b) s = .next t ∧
      s.answers t p ⟨0x10, 0, 0, false, leBytes 1 (s.resultOf p (fieldAt b 0 4))⟩
      ∧ s.onlyChanges [.regs 0x62, .can, .svc] t)
  ∧ (∀ s p b k, s.portTakes p = true → s.svc.ports.length = 4 → s.can.length = 2 →
    (s.port p).executing = none → (s.port p).waiting = none → s.svc.order = [] →
    s.svcBusy = false → (s.port p).rateCount < zeroAsOne (s.fld F.SVC_PORTS_RATE) →
    (k = 0 ∨ (0x10 < k ∧ k < 256)) → ∃ t, exec (.gspBadCmd p k 0 b) s = .next t ∧
      s.answers t p ⟨k, 0, 2, false, []⟩ ∧ t.fld F.SVC_GSP_COUNT_REFUSED
        = min F.SVC_GSP_COUNT_REFUSED.max (s.fld F.SVC_GSP_COUNT_REFUSED + 1))
  ∧ (∀ s p b q, q ≠ 0 → q < 2 ^ 32 → s.portTakes p = true → s.svc.ports.length = 4 →
    s.can.length = 2 →
    (s.port p).executing = none → (s.port p).waiting = none → (s.port p).held = none →
    s.svc.order = [] → s.svcBusy = false → s.settled = true → s.lamp.retUnusable = false →
    (s.port p).rateCount < zeroAsOne (s.fld F.SVC_PORTS_RATE) → s.svcEntry p q = none →
    s.argsOk ⟨5, q, b, true, true⟩ = true → s.holds ⟨5, q, b, true, true⟩ = true →
    ∃ t, exec (.gspMemWrite p q b) s = .next t ∧ (t.port p).held = some ⟨5, q, b, true, true⟩
      ∧ s.answers t p ⟨5, q, 6, false, []⟩ ∧ t.plaza = s.plaza ∧ t.lpddr = s.lpddr)

/-- R382 to R393, R401, R402, R460, Table 13-3: frames and bytes that reach the ports, the mirrors
in flash, and the closing of a port. -/
def Obligations.PortsMirrorsAndFrames : Prop :=
  (∀ s c n d, c < 2 → s.live = true → s.canOn c = true →
    (∃ t, exec (.canFrameReceived c n false true d true) s = .next t ∧
      t.fld F.CAN_RX_COUNT_FRAMES c
          = min F.CAN_RX_COUNT_FRAMES.max (s.fld F.CAN_RX_COUNT_FRAMES c + 1)
        ∧ t.fld F.CAN_RX_COUNT_IGNORED c
          = min F.CAN_RX_COUNT_IGNORED.max (s.fld F.CAN_RX_COUNT_IGNORED c + 1)
        ∧ s.onlyChanges [.regs 0x60] t)
    ∧ ∀ k, s.isGspFrame c n false = false → s.svc.intakeRun = true → s.lamp.retUnusable = false →
      s.recordsOf (identWord c n false) = [k] → k < 64 → s.flag F.SVC_SIG_FMT_CRC_EN k = false →
      s.flag F.SVC_SIG_FMT_ALIVE_EN k = false → s.frameNeeds [k] false false ≤ d.length →
      s.plausible k (s.extract k d) = true → s.rateOk k = true → s.sigKind k = 0 →
      s.svc.sigs.length = 64 → ∃ t, exec (.canFrameReceived c n false false d true) s = .next t ∧
      (nth ⟨none, 0⟩ t.svc.sigs k).lastAt = some s.time
          ∧ (s.memsOk → s.lamp.retARetired = false →
            t.bytes .retA (snapBase + 0x40 + 16 * k) 4 = leBytes 4 (s.extract k d)))
  ∧ (∀ s c, s.svc.ports.length = 4 → (c < 2 → ∃ t, exec (.gspSegmentTimeout c) s = .next t ∧
      (t.port c).rx = none ∧ s.onlyChanges [.svc] t)
    ∧ ∃ t, exec .uartGapTimeout s = .next t ∧ (t.port 2).rx = none ∧ s.onlyChanges [.svc] t)
  ∧ (∀ s, s.portTakes 2 = true → ∃ t, exec .uartMessageDiscard s = .next t ∧
      t.fld F.SVC_DISCARD_COUNT_COUNT
      = min F.SVC_DISCARD_COUNT_COUNT.max (s.fld F.SVC_DISCARD_COUNT_COUNT + 1) ∧ t.svc = s.svc)
  ∧ (∀ s b, s.portTakes 3 = true →
    (parseMsg b true = none → ∃ t, exec (.spiWrite b true) s = .next t ∧ t.svc = s.svc
      ∧ t.fld F.SVC_DISCARD_COUNT_COUNT
        = min F.SVC_DISCARD_COUNT_COUNT.max (s.fld F.SVC_DISCARD_COUNT_COUNT + 1))
    ∧ (∀ q, parseMsg b true = some ⟨1, q, [], true, true⟩ →
      exec (.spiWrite b true) s = exec (.gspIdent 3 q []) s))
  ∧ (∀ s, s.portTakes 3 = true → s.svc.ports.length = 4 →
    ((s.port 3).ready = [] → ∃ t, exec .spiRead s = .next t ∧ t = { s with bus := ⟨true, 0⟩ })
    ∧ (∀ r l, (s.port 3).ready = r :: l → ∃ t, exec .spiRead s = .next t ∧ (t.port 3).ready = l
      ∧ t.bus = ⟨true, leNat (leBytes 2 r.bytes.length ++ r.bytes)⟩ ∧ s.onlyChanges [.bus, .svc] t)
    ∧ ∃ t, exec .spiStatus s = .next t ∧ t = { s with bus := ⟨true,
        bit 0 (s.port 3).executing.isSome + bit 1 ((s.port 3).ready != [])⟩ })
  ∧ (∀ s, s.mayMirror = true →
    (s.svc.intakeDirty = true → ∃ t, exec .intakeMirror s = .next t ∧ t.svc.intakeDirty = false
      ∧ t.svc.mirror.map (fun j => j.kind) = some 0
      ∧ t.boot.flashOp.map (fun o => (o.erase, o.offset))
          = some (true, s.boot.persistOff + if s.svc.intakeSlotB then 0x3000 else 0))
    ∧ (s.cjUnmirrored ≠ 0 → ∃ t, exec .changeJournalMirror s = .next t ∧
      t.svc.mirror.map (fun j => (j.kind, j.upTo)) = some (1, s.cjFirst)
        ∧ t.boot.flashOp.map (fun o => o.offset)
          = some (if (s.cjFirst - 1) % 85 = 0 then s.cjSector s.cjFirst else s.cjFlash s.cjFirst))
    ∧ (s.svc.retireDirty = true → ∃ t, exec .retirementMirror s = .next t
      ∧ t.svc.retireDirty = false
      ∧ t.svc.mirror.map (fun j => j.kind) = some 2
      ∧ t.boot.flashOp.map (fun o => (o.erase, o.offset))
          = some (true, s.boot.persistOff + if s.svc.retireSlotB then 0x7000 else 0x6000)))
  ∧ (∀ s p m o, s.memsOk → s.live = true → 2 ≤ p → p < 4 → s.svc.ports.length = 4 →
    s.boot.flashOp = some o →
    o.user = .gsp p → (s.port p).executing = some m → (s.port p).waiting = none → m.req = 0 →
    s.svc.order = [] → s.svc.mirror = none → ∃ t, exec (.flashOperationDone true) s = .next t ∧
      t.boot.flashOp = none ∧ s.answers t p ⟨m.cmd, 0, 0, false, []⟩
        ∧ (o.erase = true → ∀ a, o.offset ≤ a → a < o.offset + o.length → a < MemId.flash.size →
          t.byte .flash a = 0xFF)
        ∧ (o.erase = false → ∀ i, i < o.data.length → o.offset + i < MemId.flash.size →
          s.byte .flash (o.offset + i) = 0xFF → t.byte .flash (o.offset + i) = nth 0 o.data i))
  ∧ (∀ s o j, s.live = true → s.lamp.parkStep ≠ 6 → s.boot.flashOp = some o →
    (∀ k, o.user ≠ .gsp k) →
    s.svc.mirror = some j → j.rest = [] → s.svc.order = [] →
    (∃ t, exec (.mirrorOperationDone true) s = .next t ∧ t.boot.flashOp = none ∧ t.svc.mirror = none
      ∧ (j.kind = 0 → t.svc.intakeSlotB = !s.svc.intakeSlotB)
      ∧ (j.kind = 2 → t.svc.retireSlotB = !s.svc.retireSlotB))
    ∧ ∃ t, exec (.mirrorOperationDone false) s = .next t ∧ t.boot.flashOp = none
      ∧ t.svc.mirror = none
      ∧ (j.kind = 0 → t.svc.intakeDirty = true)
      ∧ s.reports t (if j.kind = 0 then 0x6206 else 0x6205) unitHub)
  ∧ (∀ s i, s.live = true →
    (s.boot.flashRetries < 3 → ∃ t, exec (.flashCommandTimeout i) s = .next t ∧
      t = { s with boot := { s.boot with flashRetries := s.boot.flashRetries + 1 } })
    ∧ (3 ≤ s.boot.flashRetries → s.boot.flashOp = none → s.boot.phase = 1 →
      s.boot.overBridge = false →
      s.boot.imageAlt = false → s.altOffset ≠ 0 → ∃ t, exec (.flashCommandTimeout i) s = .next t ∧
      t.boot.phase = 1 ∧ t.boot.imageAlt = true ∧ t.boot.imageBase = s.altOffset))
  ∧ (∀ s, s.live = true → s.svc.moving = true → s.svc.zeroSince.isSome = true → s.svc.order = [] →
    (∀ p, (s.port p).held = none) → ∃ t, exec .vehicleStationary s = .next t ∧ t.svc.moving = false
      ∧ (s.memsOk → s.lamp.retARetired = false → t.byte .retA (snapBase + 0x0C) = 0))
  ∧ (∀ s p, p < 4 → s.live = true → s.svc.ports.length = 4 → (s.port p).waiting = none →
    ∃ t, exec (.servicePortDisable p) s = .next t ∧ t.portOn p = false
      ∧ (∀ q, q < 4 → q ≠ p → t.port q = s.port q ∧ t.portOn q = s.portOn q)
      ∧ (s.svc.portsRun = true → s.portOn p = true → (t.port p).rx = none
        ∧ (t.port p).waiting = none))

/-! ### The Bridge link (chapter 14) -/

/-- Table 14-6, R413, R414: a HELLO of another part, of the local role or (at a primary) of another build is
refused with 0x700B; a primary meets a matching secondary in a new session. R411: credits and
acknowledgements come with each flit. R415: one lane with 0x7003, and retraining. R409, R410: a discarded
flit is answered by one NAK, a malformed packet by its status, and eight replays in a row retrain. R425 to
R427: the loss of the partner, its expired wait (0x7004) and FOLLOW. R460: disabling. R419: the token of a
remote access expires. R430: a secondary stranded in service wait restarts at BRG_WAKE. -/
def Obligations.BridgeLinkStates : Prop :=
  (∀ s part role b n e, (s.brg.link = 2 ∨ s.brg.link = 6) → s.brg.dead = false →
    (part ≠ 0x480 → ∃ t, exec (.bridgeHello part role b n e) s = .next t ∧ t.brg.link = 6
      ∧ t.brg.partDiff = true ∧ t.brg.partnerRole = role % 4 ∧ s.reports t 0x700B unitBrg
      ∧ t.rd R.BRG_PARTNER_BUILD_LO = n % 2 ^ 32)
    ∧ (s.localRole = role → ∃ t, exec (.bridgeHello 0x480 role b n e) s = .next t ∧ t.brg.link = 6
      ∧ t.brg.sameRole = true ∧ s.reports t 0x700B unitBrg)
    ∧ (s.boot.overBridge = false → s.localRole = 1 → n ≠ s.boot.buildId →
      ∃ t, exec (.bridgeHello 0x480 2 false n e) s = .next t ∧ t.brg.link = 6
        ∧ t.brg.buildDiff = true
        ∧ t.brg.sameRole = false ∧ s.reports t 0x700B unitBrg)
    ∧ (s.boot.overBridge = false → s.localRole = 1 → s.brg.remotes = [] →
      s.flag F.BRG_XSIG_EN = false →
        (∃ t, exec (.bridgeHello 0x480 2 false s.boot.buildId e) s = .next t
          ∧ (State.loaderGoesOn fun u =>
        u.brg.link = 4 ∧ u.brg.txSeq = 0 ∧ u.brg.rxSeq = 0 ∧ u.brg.credits = 64
          ∧ u.brg.unacked = [] ∧ u.brg.partnerRole = 2) t)))
  ∧ (∀ s d, s.brg.session = true → s.brg.queue = [] → d.nak = false →
    (∃ t, exec (.bridgeIdle d) s = .next t ∧ t.brg.credits = min 64 (s.brg.credits + d.credit % 64)
      ∧ (d.ackv = false → t.brg.unacked = s.brg.unacked)
      ∧ (d.ackv = true → t.brg.unacked = s.brg.unacked.filter fun e => !ackCovers d.ack e)
      ∧ s.onlyChanges [.brg] t)
    ∧ ∃ t, exec (.bridgeHeart d) s = .next t
      ∧ t.brg.credits = min 64 (s.brg.credits + d.credit % 64)
      ∧ s.onlyChanges [.brg] t)
  ∧ (∀ s, (s.brg.link = 2 ∨ s.brg.link = 6) → ∃ t, exec .bridgeHelloSend s = .next t ∧
      t.brg.sent.getLast? = some s.helloPkt ∧ t.brg.queue = s.brg.queue ∧ s.onlyChanges [.brg] t)
  ∧ (∀ s, s.brg.session = true → ∃ t, exec .bridgeHeartSend s = .next t ∧
      t.brg.sent.getLast? = some s.heartPkt ∧ t.brg.txSeq = s.brg.txSeq ∧ s.onlyChanges [.brg] t)
  ∧ (∀ s, s.brg.link = 1 → s.brg.dead = false → bitN (s.fld F.SYS_PLL_STATUS_LOCK) 8 = 1 →
    (s.flag F.BRG_CTRL_ONE_LANE_ONLY = false → ∃ t, exec (.bridgeTrainDone true) s = .next t ∧
      t = { s with brg := { s.brg with link := 2, oneLane := false } })
    ∧ ∃ t, exec (.bridgeTrainDone false) s = .next t ∧ t.brg.link = 2 ∧ t.brg.oneLane = true
      ∧ s.reports t 0x7003 unitBrg)
  ∧ (∀ s, s.brg.link = 1 → ∃ t, exec .bridgeTrainTimeout s = .next t ∧
      t = { s with brg := { s.brg with oneLane := false } })
  ∧ (∀ s n, n < 2 → (s.brg.link = 3 ∨ s.brg.link = 4) →
    ∃ t, exec (.bridgeLaneLockLoss n) s = .next t ∧
      t.brg = { s.brg with link := 5, retrainFrom := s.brg.link, lanesLost := s.brg.lanesLost ++
        [n] })
  ∧ (∀ s, s.brg.link = 5 → s.brg.queue = [] →
    (∃ t, exec (.bridgeRetrainDone true true) s = .next t ∧ t = { s with brg := { s.brg with
      link := s.brg.retrainFrom, lanesLost := [], episodes := 0 } })
    ∧ ∃ t, exec (.bridgeRetrainDone false true) s = .next t ∧ t.brg.link = s.brg.retrainFrom
      ∧ t.brg.oneLane = true ∧ (s.brg.oneLane = false → s.reports t 0x7003 unitBrg))
  ∧ (∀ s, s.brg.session = true → s.localRole = 1 → s.boot.handedOver = false → s.brg.remotes = [] →
    ∃ t, exec .bridgePartnerTimeout s = .next t ∧ t.brg.link = 7 ∧ t.brg.unacked = []
      ∧ t.brg.queue = []
      ∧ t.brg.absentAt = s.time ∧ t.rd R.BRG_ABSENT_TICK = s.lamp.tick % 2 ^ 32)
  ∧ (∀ s, s.brg.session = true → s.localRole = 2 → s.brg.remotes = [] → s.wrd.queues.length = 16 →
    ∃ t, exec .bridgePartnerTimeout s = .next t ∧ t.brg.link = 7
      ∧ ∀ q, q < 16 → (t.queue q).state ≠ 1)
  ∧ (∀ s d, s.brg.session = true → s.brg.queue = [] → d.ackv = false → s.brg.unacked ≠ [] →
    s.brg.episodes < 7 →
    (∃ t, exec (.bridgeNak d) s = .next t ∧ t.brg.episodes = s.brg.episodes + 1
      ∧ t.brg.link = s.brg.link
      ∧ t.brg.unacked = s.brg.unacked ∧ t.fld F.BRG_REPLAY_COUNT_COUNT
        = min F.BRG_REPLAY_COUNT_COUNT.max (s.fld F.BRG_REPLAY_COUNT_COUNT + 1))
    ∧ (s.brg.link ≠ 5 → ∃ t, exec .bridgeReplayTimeout s = .next t
      ∧ t.brg.episodes = s.brg.episodes + 1
      ∧ t.brg.unacked = s.brg.unacked
      ∧ t.brg.sent.getLast? = (s.brg.unacked.map fun e => e.2).getLast?))
  ∧ (∀ s, s.brg.link = 4 → s.brg.unacked ≠ [] → s.brg.episodes = 7 →
    ∃ t, exec .bridgeReplayTimeout s = .next t ∧ t.brg.link = 5 ∧ t.brg.retrainFrom = 4)
  ∧ (∀ s, s.brg.session = true → (s.brg.nakSent = false → ∃ t, exec .bridgeFlitDiscard s = .next t ∧
      t.brg.nakSent = true ∧ t.brg.side.nak = true ∧ t.brg.side.ack = (s.brg.rxSeq + 255) % 256
        ∧ s.onlyChanges [.brg] t)
    ∧ (s.brg.nakSent = true → ∃ t, exec .bridgeFlitDiscard s = .next t ∧ t = s))
  ∧ (∀ s d n tag, s.linkIdle 4 d → ∃ t, exec (.bridgeMalformedPacket d true n 3 tag) s = .next t ∧
      t.brg.sent.getLast? = some ⟨4, tag % 256, 0, 7, 0, []⟩
      ∧ t.brg.rxSeq = (s.brg.rxSeq + max 1 n) % 256)
  ∧ (∀ s p, s.profile s.boot.choosing = some p → s.boot.phase = 5 → s.brg.waitOver = false →
    s.partnerReady p = false → ∃ t, exec .bridgeWaitExpire s = .next t ∧
      ∃ u, u.brg.waitOver = true ∧ s.reports u 0x7004 unitBrg ∧ u.boot = s.boot
        ∧ t = handOverWhenReady.run u)
  ∧ (∀ s, s.Sound → s.live = true → s.localRole = 2 → s.brg.link = 7 →
    s.flag F.BRG_CTRL_FOLLOW = true → ∃ t, exec .followResetTimer s = .next t
      ∧ s.restarted t causeBridge)
  ∧ (∀ s, s.live = true → s.ident.order = .qt2 → (s.brg.link = 0 ∨ s.brg.link = 7) →
    ∃ t, exec .bridgeDisable s = .next t ∧ t.fld F.BRG_CTRL_EN = 0 ∧ s.onlyChanges [.regs 0x70] t)
  ∧ (∀ s, s.live = true → s.ident.order = .qt2 → s.brg.link ≠ 0 → s.brg.link ≠ 7 → s.localRole = 1 →
    s.boot.handedOver = false → s.brg.remotes = [] → s.flag F.BRG_CTRL_EN = true →
    ∃ t, exec .bridgeDisable s = .next t ∧ t.fld F.BRG_CTRL_EN = 0 ∧ t.brg.link = 7)
  ∧ (∀ s i, i < 64 → (keyGet s.leases (192 + i)).isSome = true →
    ∃ t, exec (.bridgeTokenExpire i) s = .next t ∧
      keyGet t.leases (192 + i) = none ∧ ∀ r ∈ t.brg.remotes, r.slot ≠ i)
  ∧ (∀ s, s.Sound → s.live = true → s.ident.order = .qt2 → s.boot.phase = 8 →
    s.boot.overBridge = true → (s.wakeFilter 2).raw = false →
    ∃ t, exec (.wakeInputEdge 2 true) s = .next t ∧ s.restarted t causeBridge)

/-- R416, R417: a remote WRITE or READ is served in the mailbox, answered BOUNDS outside it, and its answers
reach the waiting unit. R420: a signal sets its import crossing. R57: a reset request is honoured only by a
secondary from its primary over an up link, once in a second, and otherwise ignored and counted. R431:
RESET_PARTNER sends one. R428, R429: the chunks of a forwarded image land, the end is recorded, a NAK is
answered once and then raises 0x700C, the secondary's result is taken, and a chunk not resent fails its
section. -/
def Obligations.BridgePackets : Prop :=
  (∀ s d tag a b, s.linkIdle 4 d → accessOk a b.length = true → s.brg.winAt + 250 ≤ s.time →
    (s.mailbox.1 + 1024 ≤ a → a + b.length ≤ s.mailbox.1 + s.mailbox.2 → s.ave.plazaErrs = [] →
      s.ave.ddrErrs = [] → s.directConflict a b.length true = false →
      ∃ t, exec (.bridgeWrite d tag a b) s = .next t
        ∧ t.brg.sent.getLast? = some ⟨4, tag % 256, 0, 0, 0, []⟩
        ∧ t.plaza = ((paStore a b).run s).plaza ∧ t.lpddr = ((paStore a b).run s).lpddr)
    ∧ (s.mailbox.1 + s.mailbox.2 ≤ a → ∃ t, exec (.bridgeWrite d tag a b) s = .next t ∧
      t.brg.sent.getLast? = some ⟨4, tag % 256, 0, 1, 0, []⟩ ∧ t.plaza = s.plaza ∧ t.lpddr = s.lpddr
        ∧ t.fld F.BRG_REMOTE_REFUSED_BOUNDS = min F.BRG_REMOTE_REFUSED_BOUNDS.max
            (s.fld F.BRG_REMOTE_REFUSED_BOUNDS + 1)))
  ∧ (∀ s d tag a n, s.linkIdle 4 d → accessOk a n = true → s.brg.winAt + 250 ≤ s.time →
    (s.mailbox.1 ≤ a → a + n ≤ s.mailbox.1 + s.mailbox.2 → s.ave.plazaErrs = [] →
      s.ave.ddrErrs = [] → s.directConflict a n false = false → (s.readMark a n).poison = false →
      ∃ t, exec (.bridgeRead d tag a n) s = .next t ∧
      t.brg.sent.getLast? = some ⟨6, tag % 256, 0, 0, 0, s.paBytes a n⟩
          ∧ s.onlyChanges [.brg] t)
    ∧ (a = R.SYS_STATE.addr → n = 4 → s.mailbox.1 + s.mailbox.2 ≤ a →
      ∃ t, exec (.bridgeRead d tag a n) s = .next t
        ∧ t.brg.sent.getLast? = some ⟨6, tag % 256, 0, 0, 0, leBytes 4 s.sysStateWord⟩
        ∧ s.onlyChanges [.brg] t))
  ∧ (∀ s d tag r, s.linkIdle 4 d → s.remoteOf tag true = some r →
    (∃ t, exec (.bridgeWack d tag 0) s = .next t ∧ s.onlyChanges [.leases, .brg] t
      ∧ t.brg.remotes = s.brg.remotes.filter fun q => !(q.tag == r.tag && q.write == r.write))
    ∧ ∃ t, exec (.bridgeWack d tag 7) s = .next t ∧ ∀ q ∈ t.brg.remotes, q.slot ≠ r.slot)
  ∧ (∀ s d tag b r o, s.linkIdle 4 d → s.remoteOf tag false = some r → r.slot < 64 →
    s.wrd.slots.length = 64 → s.slotOf r.slot = some o →
      ∃ t, exec (.bridgeRdata d tag 0 b) s = .next t ∧
      s.onlyChanges [.leases, .wrd, .brg] t
        ∧ t.slotOf r.slot = some { o with fetched := o.fetched ++ [(r.addr, b.take r.len)] })
  ∧ (∀ s d k v, s.linkIdle 4 d → k < 8 → s.flag F.BRG_XSIG_EN = true → s.brg.winAt + 250 ≤ s.time →
    16 ≤ s.fld F.BRG_XSIG_IMPORT_BASE → s.fld F.BRG_XSIG_IMPORT_BASE + 8 ≤ 1024 →
    ∃ t, exec (.bridgeSignal d k 0 v) s = .next t ∧
      (t.crossing (s.fld F.BRG_XSIG_IMPORT_BASE + k)).value = v % 2 ^ 32)
  ∧ (∀ s d, s.linkIdle 4 d →
    (s.Sound → s.live = true → s.localRole = 2 →
      (∀ a, s.brg.resetAt = some a → a + 25000000 ≤ s.time) →
      ∃ t, exec (.bridgeResetReq d 0x54535252) s = .next t ∧ s.restarted t causeBridge)
    ∧ (∀ a, s.brg.resetAt = some a → s.time < a + 25000000 →
      ∃ t, exec (.bridgeResetReq d 0x54535252) s = .next t ∧
      t.fld F.BRG_RESET_REQ_COUNT_IGNORED = min F.BRG_RESET_REQ_COUNT_IGNORED.max
          (s.fld F.BRG_RESET_REQ_COUNT_IGNORED + 1) ∧ t.lamp.power = s.lamp.power)
    ∧ (s.localRole ≠ 2 → ∃ t, exec (.bridgeResetReq d 0x54535252) s = .next t ∧
      t.fld F.BRG_RESET_REQ_COUNT_IGNORED = min F.BRG_RESET_REQ_COUNT_IGNORED.max
          (s.fld F.BRG_RESET_REQ_COUNT_IGNORED + 1) ∧ t.lamp.power = s.lamp.power))
  ∧ (∀ s d m, s.brg.session = false → ∃ t, exec (.bridgeResetReq d m) s = .next t ∧ t = s)
  ∧ (∀ s d, s.linkIdle 3 d ∨ s.linkIdle 5 d → ∃ t, exec (.bridgeResetReq d 0x54535252) s = .next t ∧
      t.fld F.BRG_RESET_REQ_COUNT_IGNORED = min F.BRG_RESET_REQ_COUNT_IGNORED.max
          (s.fld F.BRG_RESET_REQ_COUNT_IGNORED + 1) ∧ t.lamp.power = s.lamp.power)
  ∧ (∀ s, s.live = true → s.localRole = 1 → s.brg.link = 4 → s.brg.queue = [] → s.brg.unacked = [] →
    s.brg.credits = 64 → ∃ t, exec .resetPartner s = .next t ∧ t.bus.ok = true
      ∧ t.brg.sent.getLast? = some ⟨8, 0, 0x54535252, 0, 0, []⟩ ∧ s.onlyChanges [.bus, .brg] t)
  ∧ (∀ s d off b, s.linkIdle 3 d → s.boot.overBridge = true → s.memsOk → off % 32 = 0 → b ≠ [] →
    off % 256 + b.length ≤ 256 → off + b.length ≤ MemId.img.size →
      ∃ t, exec (.bridgeImage d off b) s = .next t ∧
      t.bytes .img off b.length = b
        ∧ (∀ a, (a < off ∨ off + b.length ≤ a) → t.byte .img a = s.byte .img a)
        ∧ (s.boot.phase = 9 → t.boot.phase = 1) ∧ s.onlyChanges [.mem .img, .boot, .brg] t)
  ∧ (∀ s d n, s.linkIdle 3 d → s.boot.overBridge = true →
    ∃ t, exec (.bridgeImageEnd d n) s = .next t ∧
      t.brg.imgEnd = some n ∧ s.onlyChanges [.brg] t)
  ∧ (∀ s d k, s.linkIdle 3 d → s.localRole = 1 → s.boot.handedOver = false →
    (s.brg.resent.contains k = true → ∃ t, exec (.bridgeImageNak d k) s = .next t ∧
      s.reports t 0x700C unitBrg ∧ t.brg.resent = s.brg.resent)
    ∧ (∀ x, s.brg.resent.contains k = false →
      (s.boot.sects.find? fun x => x.sectId == k && bitN x.roles 2 == 1 && x.kind != 3) = some x →
      ∃ t, exec (.bridgeImageNak d k) s = .next t ∧ t.brg.resent = k :: s.brg.resent
        ∧ s.onlyChanges [.brg] t))
  ∧ (∀ s d k, s.linkIdle 3 d → s.localRole = 1 → k < 2 →
    ∃ t, exec (.bridgeImageDone d k) s = .next t ∧
      t.brg.link = 2 ∧ t.brg.doneStatus = some k ∧ t.brg.sent.getLast? = some s.helloPkt
      ∧ s.onlyChanges [.brg] t)
  ∧ (∀ s i x, s.boot.sects[i]? = some x → s.boot.overBridge = true → x.state = 1 →
    s.brg.naked.contains x.sectId = true → s.imgHas x.offset x.length = false →
    x.kind ∉ [1, 2, 4] → (∃ t, exec (.imageResendTimeout i) s = .next t
      ∧ (State.loaderGoesOn fun u =>
      (u.boot.sects[i]?).map (fun y => y.state) = some 3 ∧ s.reports u 0x0204 unitNone) t))

/-! ### Register access (chapter 00) -/

/-- R14: an access that is not one aligned 32-bit access gets an error response and has no effect.
R17, R18: a word written to the value word of a pair is held as pending, in place of any earlier
one; the complement word
commits it where it is its bitwise inverse, and discards it with the block's mismatch fault where
it is not or where nothing is pending. A write to another register sets its RW bits and clears the W1C bits written as 1. -/
def Obligations.RegisterAccess : Prop :=
  (∀ s a n v, s.live = true → n ≠ 4 ∨ a % 4 ≠ 0 →
    (hitKind a true false = true → ∃ t, exec (.rwpValueWrite a n v) s = .next t
      ∧ t = { s with bus := ⟨false, 0⟩ })
    ∧ (hitKind a true true = true → ∃ t, exec (.rwpComplementWrite a n v) s = .next t ∧
      t = { s with bus := ⟨false, 0⟩ })
    ∧ (hitKind a true false = true → ∃ t, exec (.rwpWordRead a n) s = .next t
      ∧ t = { s with bus := ⟨false, 0⟩ })
    ∧ (hitKind a false false = true → ∃ t, exec (.registerWrite a n v) s = .next t ∧
      t = { s with bus := ⟨false, 0⟩ }))
  ∧ (∀ s a h v b, s.live = true → findHit a = some h → h.r.rwp = true → a % 4 = 0 →
    s.place a = .block b → s.blockGated (slotOfAddr a) = false → s.writeRefused h = false →
    slotOfAddr a ≠ 0x70 →
    (h.comp = false → ∃ t, exec (.rwpValueWrite a 4 v) s = .next t ∧
      keyGet t.rwpPend (h.r.at h.i h.j) = some (v % 2 ^ 32) ∧ t.bus.ok = true
        ∧ s.onlyChanges [.pend, .bus] t)
    ∧ (h.comp = true → ∀ p, keyGet s.rwpPend (h.r.at h.i h.j) = some p →
      (v % 2 ^ 32 = inv32 p → h.r ∈ [R.AVE_SCRUB_CTRL, R.DST_CAL_CTRL, R.CAM_WINDOW, R.SCO_BG,
          R.CAN_NBT, R.SVC_SIG_MIN, R.RCL_FAULTN_CODE] →
            ∃ t, exec (.rwpComplementWrite a 4 v) s = .next t ∧
      t.rd h.r h.i h.j = commitWord s.ident.order h.r p
        ∧ t.rwpPend = keyDel s.rwpPend (h.r.at h.i h.j)
          ∧ t.bus.ok = true ∧ s.onlyChanges [.regs (regSlot (h.r.at h.i h.j)), .pend, .bus] t)
      ∧ (v % 2 ^ 32 ≠ inv32 p → ∃ t, exec (.rwpComplementWrite a 4 v) s = .next t ∧
      t.rd h.r h.i h.j = s.rd h.r h.i h.j ∧ t.rwpPend = keyDel s.rwpPend (h.r.at h.i h.j)
          ∧ ∃ u, s.reports t (h.r.at h.i h.j / 0x10000 % 0x100 * 256 + 0xFF) u))
    ∧ (h.comp = true → keyGet s.rwpPend (h.r.at h.i h.j) = none →
      ∃ t, exec (.rwpComplementWrite a 4 v) s = .next t ∧ t.rd h.r h.i h.j = s.rd h.r h.i h.j
        ∧ t.rwpPend = s.rwpPend
        ∧ ∃ u, s.reports t (h.r.at h.i h.j / 0x10000 % 0x100 * 256 + 0xFF) u)
    ∧ (s.pairOk h.r h.i h.j = true → ∃ t, exec (.rwpWordRead a 4) s = .next t ∧ t = { s with bus :=
        ⟨true, if h.comp then s.rawComp h.r h.i h.j else s.rawReg h.r h.i h.j⟩ }))
  ∧ (∀ s a h v, s.live = true → s.plainAt a h → ∃ t, exec (.registerWrite a 4 v) s = .next t ∧
      t.rd h.r h.i h.j = storedWord h.r (s.readWord h.r h.i h.j) (v % 2 ^ 32) % 2 ^ 32
      ∧ t.bus = ⟨true, 0⟩ ∧ s.onlyChanges [.bus, .regs (regSlot (h.r.at h.i h.j))] t)
end

