-- ==== Sys2Proof/Laws/Memory.lean ====
section
/-! SUPPORT. The memory operations: a write keeps the canonical form, reads back, and leaves
every other byte alone. -/

set_option Elab.async false

namespace Sys2Proof.Machine

variable {d : Byte} {size : Nat}

theorem wfFrom_mono {lo lo' : Nat} (h : lo ≤ lo') {m : Memory}
    (hm : Memory.wfFrom d size lo' m = true) : Memory.wfFrom d size lo m = true := by
  cases m with
  | nil => rfl
  | cons e t =>
    simp only [Memory.wfFrom, Bool.and_eq_true, decide_eq_true_eq] at hm ⊢
    exact ⟨⟨⟨by omega, hm.1.1.2⟩, hm.1.2⟩, hm.2⟩

theorem wfFrom_put {lo : Nat} {m : Memory} {a : Nat} {b : Byte} (hl : lo ≤ a) (ha : a < size)
    (hm : Memory.wfFrom d size lo m = true) :
    Memory.wfFrom d size lo (Memory.put d m a b) = true := by
  induction m generalizing lo with
  | nil =>
    unfold Memory.put
    split <;> simp_all [Memory.wfFrom]
  | cons e t ih =>
    obtain ⟨x, y⟩ := e
    simp only [Memory.wfFrom, Bool.and_eq_true, decide_eq_true_eq] at hm
    obtain ⟨⟨⟨h1, h2⟩, h3⟩, h4⟩ := hm
    unfold Memory.put
    split
    · split
      · simp [Memory.wfFrom, h1, h2, h3, h4]
      · simp only [Memory.wfFrom, Bool.and_eq_true, decide_eq_true_eq]
        exact ⟨⟨⟨hl, ha⟩, ‹_›⟩, ⟨⟨by omega, h2⟩, h3⟩, h4⟩
    · split
      · split
        · exact wfFrom_mono (by omega) h4
        · simp only [Memory.wfFrom, Bool.and_eq_true, decide_eq_true_eq]
          exact ⟨⟨⟨hl, ha⟩, ‹_›⟩, by subst_vars; exact h4⟩
      · simp only [Memory.wfFrom, Bool.and_eq_true, decide_eq_true_eq]
        exact ⟨⟨⟨h1, h2⟩, h3⟩, ih (by omega) h4⟩

theorem wfFrom_store {m : Memory} {a : Nat} {bs : List Byte}
    (hm : Memory.wfFrom d size 0 m = true) :
    Memory.wfFrom d size 0 (Memory.store d size m a bs) = true := by
  induction bs generalizing m a with
  | nil => exact hm
  | cons b t ih =>
    unfold Memory.store
    split
    · exact ih (wfFrom_put (by omega) ‹_› hm)
    · exact ih hm

theorem get_eq_dflt {lo : Nat} {m : Memory} {a : Nat} (h : a < lo)
    (hm : Memory.wfFrom d size lo m = true) : Memory.get d m a = d := by
  cases m with
  | nil => rfl
  | cons e t =>
    obtain ⟨x, y⟩ := e
    simp only [Memory.wfFrom, Bool.and_eq_true, decide_eq_true_eq] at hm
    unfold Memory.get
    rw [if_neg (by omega), if_pos (by omega)]

theorem get_put_self {lo : Nat} {m : Memory} {a : Nat} {b : Byte}
    (hm : Memory.wfFrom d size lo m = true) : Memory.get d (Memory.put d m a b) a = b := by
  induction m generalizing lo with
  | nil =>
    unfold Memory.put
    split <;> simp_all [Memory.get]
  | cons e t ih =>
    obtain ⟨x, y⟩ := e
    simp only [Memory.wfFrom, Bool.and_eq_true, decide_eq_true_eq] at hm
    obtain ⟨-, h4⟩ := hm
    unfold Memory.put
    split
    · split
      · simp only [Memory.get]
        rw [if_neg (by omega), if_pos ‹_›]; exact Eq.symm ‹_›
      · simp [Memory.get]
    · split
      · split
        · rw [get_eq_dflt (by omega) h4]; exact Eq.symm ‹_›
        · simp [Memory.get]
      · simp only [Memory.get]
        rw [if_neg ‹_›, if_neg ‹_›, ih h4]

theorem get_put_other {lo : Nat} {m : Memory} {a c : Nat} {b : Byte} (hc : c ≠ a)
    (hm : Memory.wfFrom d size lo m = true) :
    Memory.get d (Memory.put d m a b) c = Memory.get d m c := by
  induction m generalizing lo with
  | nil =>
    unfold Memory.put
    split
    · rfl
    · simp [Memory.get, hc]
  | cons e t ih =>
    obtain ⟨x, y⟩ := e
    simp only [Memory.wfFrom, Bool.and_eq_true, decide_eq_true_eq] at hm
    obtain ⟨⟨⟨h1, h2⟩, h3⟩, h4⟩ := hm
    unfold Memory.put
    split
    · split
      · rfl
      · simp only [Memory.get, if_neg hc]
        split
        · rw [if_neg (by omega), if_pos (by omega)]
        · rfl
    · split
      · subst_vars
        split
        · simp only [Memory.get, if_neg hc]
          split
          · exact get_eq_dflt (by omega) h4
          · rfl
        · simp [Memory.get, hc]
      · simp only [Memory.get]
        rw [ih h4]

theorem get_store_outside {m : Memory} {a c : Nat} {bs : List Byte}
    (hc : c < a ∨ a + bs.length ≤ c) (hm : Memory.wfFrom d size 0 m = true) :
    Memory.get d (Memory.store d size m a bs) c = Memory.get d m c := by
  induction bs generalizing m a with
  | nil => rfl
  | cons b t ih =>
    simp only [List.length_cons] at hc
    unfold Memory.store
    split
    · rw [ih (by omega) (wfFrom_put (by omega) ‹_› hm), get_put_other (by omega) hm]
    · exact ih (by omega) hm

theorem get_store_inside {m : Memory} {a i : Nat} {bs : List Byte} (hi : i < bs.length)
    (ha : a + i < size) (hm : Memory.wfFrom d size 0 m = true) :
    Memory.get d (Memory.store d size m a bs) (a + i) = bs[i] := by
  induction bs generalizing m a i with
  | nil => simp at hi
  | cons b t ih =>
    unfold Memory.store
    rw [if_pos (by omega)]
    have hw := wfFrom_put (b := b) (Nat.zero_le a) (show a < size by omega) hm
    cases i with
    | zero =>
      simp only [Nat.add_zero, List.getElem_cons_zero]
      rw [get_store_outside (by omega) hw, get_put_self hm]
    | succ n =>
      have := ih (m := Memory.put d m a b) (a := a + 1) (i := n) (by simpa using hi) (by omega) hw
      simpa [Nat.add_assoc, Nat.add_comm 1 n] using this

/-! ### Lists by rising key -/

section keys
variable {α : Type} {l : List (Nat × α)}

theorem keysWf_mono {lo lo' : Nat} (h : lo ≤ lo') (hl : keysWf lo' l = true) :
    keysWf lo l = true := by
  cases l with
  | nil => rfl
  | cons e t =>
    simp only [keysWf, Bool.and_eq_true, decide_eq_true_eq] at hl ⊢
    exact ⟨by omega, hl.2⟩

theorem keysWf_keyPut {lo k : Nat} {v : α} (hk : lo ≤ k) (hl : keysWf lo l = true) :
    keysWf lo (keyPut l k v) = true := by
  induction l generalizing lo with
  | nil => simp [keyPut, keysWf, hk]
  | cons e t ih =>
    obtain ⟨x, w⟩ := e
    simp only [keysWf, Bool.and_eq_true, decide_eq_true_eq] at hl
    unfold keyPut
    split
    · simp only [keysWf, Bool.and_eq_true, decide_eq_true_eq]
      exact ⟨hk, by omega, hl.2⟩
    · split
      · simp only [keysWf, Bool.and_eq_true, decide_eq_true_eq]
        subst_vars; exact ⟨hk, hl.2⟩
      · simp only [keysWf, Bool.and_eq_true, decide_eq_true_eq]
        exact ⟨hl.1, ih (by omega) hl.2⟩

theorem keysWf_filter {lo : Nat} (p : Nat × α → Bool) (hl : keysWf lo l = true) :
    keysWf lo (l.filter p) = true := by
  induction l generalizing lo with
  | nil => rfl
  | cons e t ih =>
    simp only [keysWf, Bool.and_eq_true, decide_eq_true_eq] at hl
    rw [List.filter_cons]
    split
    · simp only [keysWf, Bool.and_eq_true, decide_eq_true_eq]
      exact ⟨hl.1, ih hl.2⟩
    · exact keysWf_mono (by omega) (ih hl.2)

theorem keysWf_keyDel {lo k : Nat} (hl : keysWf lo l = true) : keysWf lo (keyDel l k) = true :=
  keysWf_filter _ hl

theorem keyGet_keyPut_self {k : Nat} {v : α} : keyGet (keyPut l k v) k = some v := by
  induction l with
  | nil => simp [keyPut, keyGet]
  | cons e t ih =>
    unfold keyPut
    split
    · simp [keyGet]
    · split
      · simp [keyGet]
      · simp only [keyGet]
        rw [if_neg ‹_›, if_neg ‹_›, ih]

theorem keyGet_keyPut_other {k j : Nat} {v : α} (h : j ≠ k) :
    keyGet (keyPut l k v) j = keyGet l j := by
  induction l with
  | nil => simp [keyPut, keyGet, h]
  | cons e t ih =>
    obtain ⟨x, w⟩ := e
    unfold keyPut
    split
    · simp only [keyGet, if_neg h]
      split
      · rw [if_neg (by omega), if_pos (by omega)]
      · rfl
    · split
      · subst_vars
        simp [keyGet, h]
      · simp only [keyGet, ih]

end keys

end Sys2Proof.Machine
end

