-- ==== Sys2Proof/Laws/State.lean ====
section
/-! SUPPORT. What each act does to each field of the state, so that no proof unfolds an act or
a record update. -/

set_option Elab.async false

namespace Sys2Proof.Machine

variable (s : State)

/-! ### Replacing one memory -/

@[simp] theorem setMem_plaza_self (m : Memory) : (s.setMem .plaza m).plaza = m := rfl

@[simp] theorem setMem_lpddr_self (m : Memory) : (s.setMem .lpddr m).lpddr = m := rfl

@[simp] theorem setMem_flash_self (m : Memory) : (s.setMem .flash m).flash = m := rfl

@[simp] theorem setMem_retA_self (m : Memory) : (s.setMem .retA m).retA = m := rfl

@[simp] theorem setMem_retB_self (m : Memory) : (s.setMem .retB m).retB = m := rfl

@[simp] theorem setMem_icon_self (m : Memory) : (s.setMem .icon m).icon = m := rfl

@[simp] theorem setMem_otp_self (m : Memory) : (s.setMem .otp m).otp = m := rfl

@[simp] theorem setMem_img_self (m : Memory) : (s.setMem .img m).img = m := rfl

@[simp] theorem setMem_pending (id : MemId) (m : Memory) : (s.setMem id m).pending = s.pending :=
  by
  cases id <;> rfl

@[simp] theorem setMem_ident (id : MemId) (m : Memory) : (s.setMem id m).ident = s.ident := by
  cases id <;> rfl

@[simp] theorem setMem_time (id : MemId) (m : Memory) : (s.setMem id m).time = s.time := by
  cases id <;> rfl

@[simp] theorem setMem_phase (id : MemId) (m : Memory) : (s.setMem id m).phase = s.phase := by
  cases id <;> rfl

@[simp] theorem setMem_free (id : MemId) (m : Memory) : (s.setMem id m).free = s.free := by
  cases id <;> rfl

@[simp] theorem setMem_bus (id : MemId) (m : Memory) : (s.setMem id m).bus = s.bus := by
  cases id <;> rfl

@[simp] theorem setMem_regs (id : MemId) (m : Memory) : (s.setMem id m).regs = s.regs := by
  cases id <;> rfl

@[simp] theorem setMem_rwpPend (id : MemId) (m : Memory) : (s.setMem id m).rwpPend = s.rwpPend :=
  by
  cases id <;> rfl

@[simp] theorem setMem_plaza (id : MemId) (m : Memory) (h : id ≠ .plaza) : (s.setMem id m).plaza = s.plaza :=
  by
  cases id <;> first | rfl | exact absurd rfl h

@[simp] theorem setMem_lpddr (id : MemId) (m : Memory) (h : id ≠ .lpddr) : (s.setMem id m).lpddr = s.lpddr :=
  by
  cases id <;> first | rfl | exact absurd rfl h

@[simp] theorem setMem_flash (id : MemId) (m : Memory) (h : id ≠ .flash) : (s.setMem id m).flash = s.flash :=
  by
  cases id <;> first | rfl | exact absurd rfl h

@[simp] theorem setMem_retA (id : MemId) (m : Memory) (h : id ≠ .retA) : (s.setMem id m).retA = s.retA :=
  by
  cases id <;> first | rfl | exact absurd rfl h

@[simp] theorem setMem_retB (id : MemId) (m : Memory) (h : id ≠ .retB) : (s.setMem id m).retB = s.retB :=
  by
  cases id <;> first | rfl | exact absurd rfl h

@[simp] theorem setMem_icon (id : MemId) (m : Memory) (h : id ≠ .icon) : (s.setMem id m).icon = s.icon :=
  by
  cases id <;> first | rfl | exact absurd rfl h

@[simp] theorem setMem_otp (id : MemId) (m : Memory) (h : id ≠ .otp) : (s.setMem id m).otp = s.otp :=
  by
  cases id <;> first | rfl | exact absurd rfl h

@[simp] theorem setMem_img (id : MemId) (m : Memory) (h : id ≠ .img) : (s.setMem id m).img = s.img :=
  by
  cases id <;> first | rfl | exact absurd rfl h

@[simp] theorem setMem_ring (id : MemId) (m : Memory) : (s.setMem id m).ring = s.ring := by
  cases id <;> rfl

@[simp] theorem setMem_nextSeq (id : MemId) (m : Memory) : (s.setMem id m).nextSeq = s.nextSeq :=
  by
  cases id <;> rfl

@[simp] theorem setMem_leases (id : MemId) (m : Memory) : (s.setMem id m).leases = s.leases :=
  by
  cases id <;> rfl

@[simp] theorem setMem_lamp (id : MemId) (m : Memory) : (s.setMem id m).lamp = s.lamp := by
  cases id <;> rfl

@[simp] theorem setMem_rcl (id : MemId) (m : Memory) : (s.setMem id m).rcl = s.rcl := by
  cases id <;> rfl

@[simp] theorem setMem_boot (id : MemId) (m : Memory) : (s.setMem id m).boot = s.boot := by
  cases id <;> rfl

@[simp] theorem setMem_ave (id : MemId) (m : Memory) : (s.setMem id m).ave = s.ave := by
  cases id <;> rfl

@[simp] theorem setMem_xlt (id : MemId) (m : Memory) : (s.setMem id m).xlt = s.xlt := by
  cases id <;> rfl

@[simp] theorem setMem_wrd (id : MemId) (m : Memory) : (s.setMem id m).wrd = s.wrd := by
  cases id <;> rfl

@[simp] theorem setMem_xng (id : MemId) (m : Memory) : (s.setMem id m).xng = s.xng := by
  cases id <;> rfl

@[simp] theorem setMem_cam (id : MemId) (m : Memory) : (s.setMem id m).cam = s.cam := by
  cases id <;> rfl

@[simp] theorem setMem_ras (id : MemId) (m : Memory) : (s.setMem id m).ras = s.ras := by
  cases id <;> rfl

@[simp] theorem setMem_dst (id : MemId) (m : Memory) : (s.setMem id m).dst = s.dst := by
  cases id <;> rfl

@[simp] theorem setMem_rbt (id : MemId) (m : Memory) : (s.setMem id m).rbt = s.rbt := by
  cases id <;> rfl

@[simp] theorem setMem_sco (id : MemId) (m : Memory) : (s.setMem id m).sco = s.sco := by
  cases id <;> rfl

@[simp] theorem setMem_sgn (id : MemId) (m : Memory) : (s.setMem id m).sgn = s.sgn := by
  cases id <;> rfl

@[simp] theorem setMem_hv (id : MemId) (m : Memory) : (s.setMem id m).hv = s.hv := by
  cases id <;> rfl

@[simp] theorem setMem_can (id : MemId) (m : Memory) : (s.setMem id m).can = s.can := by
  cases id <;> rfl

@[simp] theorem setMem_svc (id : MemId) (m : Memory) : (s.setMem id m).svc = s.svc := by
  cases id <;> rfl

@[simp] theorem setMem_ports (id : MemId) (m : Memory) : (s.setMem id m).ports = s.ports := by
  cases id <;> rfl

@[simp] theorem setMem_brg (id : MemId) (m : Memory) : (s.setMem id m).brg = s.brg := by
  cases id <;> rfl

@[simp] theorem mem_setMem_self (id : MemId) (m : Memory) : (s.setMem id m).mem id = m := by
  cases id <;> rfl

@[simp] theorem mem_setMem (id j : MemId) (m : Memory) (h : id ≠ j) : (s.setMem id m).mem j = s.mem j :=
  by
  cases id <;> cases j <;> first | rfl | exact absurd rfl h

/-! ### Acts that write one block -/

@[simp] theorem act_lamp_lamp (x : Lamp) : ((Act.lamp x).apply s).lamp = x := rfl

@[simp] theorem act_rcl_rcl (x : Rcl) : ((Act.rcl x).apply s).rcl = x := rfl

@[simp] theorem act_boot_boot (x : Boot) : ((Act.boot x).apply s).boot = x := rfl

@[simp] theorem act_ave_ave (x : Ave) : ((Act.ave x).apply s).ave = x := rfl

@[simp] theorem act_xlt_xlt (x : Xlt) : ((Act.xlt x).apply s).xlt = x := rfl

@[simp] theorem act_wrd_wrd (x : Wrd) : ((Act.wrd x).apply s).wrd = x := rfl

@[simp] theorem act_xng_xng (x : Xng) : ((Act.xng x).apply s).xng = x := rfl

@[simp] theorem act_cam_cam (x : Cam) : ((Act.cam x).apply s).cam = x := rfl

@[simp] theorem act_ras_ras (x : Ras) : ((Act.ras x).apply s).ras = x := rfl

@[simp] theorem act_dst_dst (x : Dst) : ((Act.dst x).apply s).dst = x := rfl

@[simp] theorem act_rbt_rbt (x : Rbt) : ((Act.rbt x).apply s).rbt = x := rfl

@[simp] theorem act_sco_sco (x : Sco) : ((Act.sco x).apply s).sco = x := rfl

@[simp] theorem act_sgn_sgn (x : Sgn) : ((Act.sgn x).apply s).sgn = x := rfl

@[simp] theorem act_hv_hv (x : Hv) : ((Act.hv x).apply s).hv = x := rfl

@[simp] theorem act_can_can (x : List CanCtl) : ((Act.can x).apply s).can = x := rfl

@[simp] theorem act_svc_svc (x : Svc) : ((Act.svc x).apply s).svc = x := rfl

@[simp] theorem act_ports_ports (x : Ports) : ((Act.ports x).apply s).ports = x := rfl

@[simp] theorem act_brg_brg (x : Brg) : ((Act.brg x).apply s).brg = x := rfl

/-! ### Acts that leave a field alone -/

theorem act_frame_pending (a : Act) :
    (a.apply s).pending = s.pending := by
  cases a <;> first
    | rfl
    | exact setMem_pending _ _ _

theorem act_frame_ident (a : Act) :
    (a.apply s).ident = s.ident := by
  cases a <;> first
    | rfl
    | exact setMem_ident _ _ _

theorem act_frame_time (a : Act) :
    (a.apply s).time = s.time := by
  cases a <;> first
    | rfl
    | exact setMem_time _ _ _

theorem act_frame_phase (a : Act) :
    (a.apply s).phase = s.phase := by
  cases a <;> first
    | rfl
    | exact setMem_phase _ _ _

theorem act_frame_free (a : Act) (h0 : ∀ x, a ≠ .draw x) :
    (a.apply s).free = s.free := by
  cases a <;> first
    | rfl
    | exact setMem_free _ _ _
    | exact absurd rfl (h0 _)

theorem act_frame_bus (a : Act) (h0 : ∀ x, a ≠ .bus x) :
    (a.apply s).bus = s.bus := by
  cases a <;> first
    | rfl
    | exact setMem_bus _ _ _
    | exact absurd rfl (h0 _)

theorem act_frame_regs (a : Act) (h0 : ∀ x y, a ≠ .reg x y) (h1 : ∀ x y, a ≠ .clearRegs x y) :
    (a.apply s).regs = s.regs := by
  cases a <;> first
    | rfl
    | exact setMem_regs _ _ _
    | exact absurd rfl (h0 _ _)
    | exact absurd rfl (h1 _ _)

theorem act_frame_rwpPend (a : Act) (h0 : ∀ x y, a ≠ .pend x y) (h1 : ∀ x y, a ≠ .clearRegs x y) :
    (a.apply s).rwpPend = s.rwpPend := by
  cases a <;> first
    | rfl
    | exact setMem_rwpPend _ _ _
    | exact absurd rfl (h0 _ _)
    | exact absurd rfl (h1 _ _)

theorem act_frame_plaza (a : Act) (h0 : ∀ x y, a ≠ .store .plaza x y) (h1 : a ≠ .wipe .plaza) :
    (a.apply s).plaza = s.plaza := by
  cases a with
  | store id x y => exact setMem_plaza _ _ _ (by rintro rfl; exact h0 _ _ rfl)
  | wipe id => exact setMem_plaza _ _ _ (by rintro rfl; exact h1 rfl)
  | _ => rfl

theorem act_frame_lpddr (a : Act) (h0 : ∀ x y, a ≠ .store .lpddr x y) (h1 : a ≠ .wipe .lpddr) :
    (a.apply s).lpddr = s.lpddr := by
  cases a with
  | store id x y => exact setMem_lpddr _ _ _ (by rintro rfl; exact h0 _ _ rfl)
  | wipe id => exact setMem_lpddr _ _ _ (by rintro rfl; exact h1 rfl)
  | _ => rfl

theorem act_frame_flash (a : Act) (h0 : ∀ x y, a ≠ .store .flash x y) (h1 : a ≠ .wipe .flash) :
    (a.apply s).flash = s.flash := by
  cases a with
  | store id x y => exact setMem_flash _ _ _ (by rintro rfl; exact h0 _ _ rfl)
  | wipe id => exact setMem_flash _ _ _ (by rintro rfl; exact h1 rfl)
  | _ => rfl

theorem act_frame_retA (a : Act) (h0 : ∀ x y, a ≠ .store .retA x y) (h1 : a ≠ .wipe .retA) :
    (a.apply s).retA = s.retA := by
  cases a with
  | store id x y => exact setMem_retA _ _ _ (by rintro rfl; exact h0 _ _ rfl)
  | wipe id => exact setMem_retA _ _ _ (by rintro rfl; exact h1 rfl)
  | _ => rfl

theorem act_frame_retB (a : Act) (h0 : ∀ x y, a ≠ .store .retB x y) (h1 : a ≠ .wipe .retB) :
    (a.apply s).retB = s.retB := by
  cases a with
  | store id x y => exact setMem_retB _ _ _ (by rintro rfl; exact h0 _ _ rfl)
  | wipe id => exact setMem_retB _ _ _ (by rintro rfl; exact h1 rfl)
  | _ => rfl

theorem act_frame_icon (a : Act) (h0 : ∀ x y, a ≠ .store .icon x y) (h1 : a ≠ .wipe .icon) :
    (a.apply s).icon = s.icon := by
  cases a with
  | store id x y => exact setMem_icon _ _ _ (by rintro rfl; exact h0 _ _ rfl)
  | wipe id => exact setMem_icon _ _ _ (by rintro rfl; exact h1 rfl)
  | _ => rfl

theorem act_frame_otp (a : Act) (h0 : ∀ x y, a ≠ .store .otp x y) (h1 : a ≠ .wipe .otp) :
    (a.apply s).otp = s.otp := by
  cases a with
  | store id x y => exact setMem_otp _ _ _ (by rintro rfl; exact h0 _ _ rfl)
  | wipe id => exact setMem_otp _ _ _ (by rintro rfl; exact h1 rfl)
  | _ => rfl

theorem act_frame_img (a : Act) (h0 : ∀ x y, a ≠ .store .img x y) (h1 : a ≠ .wipe .img) :
    (a.apply s).img = s.img := by
  cases a with
  | store id x y => exact setMem_img _ _ _ (by rintro rfl; exact h0 _ _ rfl)
  | wipe id => exact setMem_img _ _ _ (by rintro rfl; exact h1 rfl)
  | _ => rfl

theorem act_frame_ring (a : Act) (h0 : ∀ x, a ≠ .record x) (h1 : a ≠ .clearRing) :
    (a.apply s).ring = s.ring := by
  cases a <;> first
    | rfl
    | exact setMem_ring _ _ _
    | exact absurd rfl (h0 _)
    | exact absurd rfl h1

theorem act_frame_nextSeq (a : Act) (h0 : ∀ x, a ≠ .record x) (h1 : a ≠ .clearRing) :
    (a.apply s).nextSeq = s.nextSeq := by
  cases a <;> first
    | rfl
    | exact setMem_nextSeq _ _ _
    | exact absurd rfl (h0 _)
    | exact absurd rfl h1

theorem act_frame_leases (a : Act) (h0 : ∀ x y, a ≠ .lease x y) (h1 : a ≠ .clearLeases) :
    (a.apply s).leases = s.leases := by
  cases a <;> first
    | rfl
    | exact setMem_leases _ _ _
    | exact absurd rfl (h0 _ _)
    | exact absurd rfl h1

theorem act_frame_lamp (a : Act) (h0 : ∀ x, a ≠ .lamp x) :
    (a.apply s).lamp = s.lamp := by
  cases a <;> first
    | rfl
    | exact setMem_lamp _ _ _
    | exact absurd rfl (h0 _)

theorem act_frame_rcl (a : Act) (h0 : ∀ x, a ≠ .rcl x) :
    (a.apply s).rcl = s.rcl := by
  cases a <;> first
    | rfl
    | exact setMem_rcl _ _ _
    | exact absurd rfl (h0 _)

theorem act_frame_boot (a : Act) (h0 : ∀ x, a ≠ .boot x) :
    (a.apply s).boot = s.boot := by
  cases a <;> first
    | rfl
    | exact setMem_boot _ _ _
    | exact absurd rfl (h0 _)

theorem act_frame_ave (a : Act) (h0 : ∀ x, a ≠ .ave x) :
    (a.apply s).ave = s.ave := by
  cases a <;> first
    | rfl
    | exact setMem_ave _ _ _
    | exact absurd rfl (h0 _)

theorem act_frame_xlt (a : Act) (h0 : ∀ x, a ≠ .xlt x) :
    (a.apply s).xlt = s.xlt := by
  cases a <;> first
    | rfl
    | exact setMem_xlt _ _ _
    | exact absurd rfl (h0 _)

theorem act_frame_wrd (a : Act) (h0 : ∀ x, a ≠ .wrd x) :
    (a.apply s).wrd = s.wrd := by
  cases a <;> first
    | rfl
    | exact setMem_wrd _ _ _
    | exact absurd rfl (h0 _)

theorem act_frame_xng (a : Act) (h0 : ∀ x, a ≠ .xng x) :
    (a.apply s).xng = s.xng := by
  cases a <;> first
    | rfl
    | exact setMem_xng _ _ _
    | exact absurd rfl (h0 _)

theorem act_frame_cam (a : Act) (h0 : ∀ x, a ≠ .cam x) :
    (a.apply s).cam = s.cam := by
  cases a <;> first
    | rfl
    | exact setMem_cam _ _ _
    | exact absurd rfl (h0 _)

theorem act_frame_ras (a : Act) (h0 : ∀ x, a ≠ .ras x) :
    (a.apply s).ras = s.ras := by
  cases a <;> first
    | rfl
    | exact setMem_ras _ _ _
    | exact absurd rfl (h0 _)

theorem act_frame_dst (a : Act) (h0 : ∀ x, a ≠ .dst x) :
    (a.apply s).dst = s.dst := by
  cases a <;> first
    | rfl
    | exact setMem_dst _ _ _
    | exact absurd rfl (h0 _)

theorem act_frame_rbt (a : Act) (h0 : ∀ x, a ≠ .rbt x) :
    (a.apply s).rbt = s.rbt := by
  cases a <;> first
    | rfl
    | exact setMem_rbt _ _ _
    | exact absurd rfl (h0 _)

theorem act_frame_sco (a : Act) (h0 : ∀ x, a ≠ .sco x) :
    (a.apply s).sco = s.sco := by
  cases a <;> first
    | rfl
    | exact setMem_sco _ _ _
    | exact absurd rfl (h0 _)

theorem act_frame_sgn (a : Act) (h0 : ∀ x, a ≠ .sgn x) :
    (a.apply s).sgn = s.sgn := by
  cases a <;> first
    | rfl
    | exact setMem_sgn _ _ _
    | exact absurd rfl (h0 _)

theorem act_frame_hv (a : Act) (h0 : ∀ x, a ≠ .hv x) :
    (a.apply s).hv = s.hv := by
  cases a <;> first
    | rfl
    | exact setMem_hv _ _ _
    | exact absurd rfl (h0 _)

theorem act_frame_can (a : Act) (h0 : ∀ x, a ≠ .can x) :
    (a.apply s).can = s.can := by
  cases a <;> first
    | rfl
    | exact setMem_can _ _ _
    | exact absurd rfl (h0 _)

theorem act_frame_svc (a : Act) (h0 : ∀ x, a ≠ .svc x) :
    (a.apply s).svc = s.svc := by
  cases a <;> first
    | rfl
    | exact setMem_svc _ _ _
    | exact absurd rfl (h0 _)

theorem act_frame_ports (a : Act) (h0 : ∀ x, a ≠ .ports x) :
    (a.apply s).ports = s.ports := by
  cases a <;> first
    | rfl
    | exact setMem_ports _ _ _
    | exact absurd rfl (h0 _)

theorem act_frame_brg (a : Act) (h0 : ∀ x, a ≠ .brg x) :
    (a.apply s).brg = s.brg := by
  cases a <;> first
    | rfl
    | exact setMem_brg _ _ _
    | exact absurd rfl (h0 _)

/-! ### Each act and each field it leaves alone -/

@[simp] theorem act_reg_pending (a v : Nat) : ((Act.reg a v).apply s).pending = s.pending :=
  act_frame_pending s _
@[simp] theorem act_reg_ident (a v : Nat) : ((Act.reg a v).apply s).ident = s.ident :=
  act_frame_ident s _
@[simp] theorem act_reg_time (a v : Nat) : ((Act.reg a v).apply s).time = s.time :=
  act_frame_time s _
@[simp] theorem act_reg_phase (a v : Nat) : ((Act.reg a v).apply s).phase = s.phase :=
  act_frame_phase s _
@[simp] theorem act_reg_free (a v : Nat) : ((Act.reg a v).apply s).free = s.free :=
  act_frame_free s _ (fun _ e => by cases e)
@[simp] theorem act_reg_bus (a v : Nat) : ((Act.reg a v).apply s).bus = s.bus :=
  act_frame_bus s _ (fun _ e => by cases e)
@[simp] theorem act_reg_rwpPend (a v : Nat) : ((Act.reg a v).apply s).rwpPend = s.rwpPend :=
  act_frame_rwpPend s _ (fun _ _ e => by cases e) (fun _ _ e => by cases e)
@[simp] theorem act_reg_plaza (a v : Nat) : ((Act.reg a v).apply s).plaza = s.plaza :=
  act_frame_plaza s _ (fun _ _ e => by cases e) (fun e => by cases e)
@[simp] theorem act_reg_lpddr (a v : Nat) : ((Act.reg a v).apply s).lpddr = s.lpddr :=
  act_frame_lpddr s _ (fun _ _ e => by cases e) (fun e => by cases e)
@[simp] theorem act_reg_flash (a v : Nat) : ((Act.reg a v).apply s).flash = s.flash :=
  act_frame_flash s _ (fun _ _ e => by cases e) (fun e => by cases e)
@[simp] theorem act_reg_retA (a v : Nat) : ((Act.reg a v).apply s).retA = s.retA :=
  act_frame_retA s _ (fun _ _ e => by cases e) (fun e => by cases e)
@[simp] theorem act_reg_retB (a v : Nat) : ((Act.reg a v).apply s).retB = s.retB :=
  act_frame_retB s _ (fun _ _ e => by cases e) (fun e => by cases e)
@[simp] theorem act_reg_icon (a v : Nat) : ((Act.reg a v).apply s).icon = s.icon :=
  act_frame_icon s _ (fun _ _ e => by cases e) (fun e => by cases e)
@[simp] theorem act_reg_otp (a v : Nat) : ((Act.reg a v).apply s).otp = s.otp :=
  act_frame_otp s _ (fun _ _ e => by cases e) (fun e => by cases e)
@[simp] theorem act_reg_img (a v : Nat) : ((Act.reg a v).apply s).img = s.img :=
  act_frame_img s _ (fun _ _ e => by cases e) (fun e => by cases e)
@[simp] theorem act_reg_ring (a v : Nat) : ((Act.reg a v).apply s).ring = s.ring :=
  act_frame_ring s _ (fun _ e => by cases e) (fun e => by cases e)
@[simp] theorem act_reg_nextSeq (a v : Nat) : ((Act.reg a v).apply s).nextSeq = s.nextSeq :=
  act_frame_nextSeq s _ (fun _ e => by cases e) (fun e => by cases e)
@[simp] theorem act_reg_leases (a v : Nat) : ((Act.reg a v).apply s).leases = s.leases :=
  act_frame_leases s _ (fun _ _ e => by cases e) (fun e => by cases e)
@[simp] theorem act_reg_lamp (a v : Nat) : ((Act.reg a v).apply s).lamp = s.lamp :=
  act_frame_lamp s _ (fun _ e => by cases e)
@[simp] theorem act_reg_rcl (a v : Nat) : ((Act.reg a v).apply s).rcl = s.rcl :=
  act_frame_rcl s _ (fun _ e => by cases e)
@[simp] theorem act_reg_boot (a v : Nat) : ((Act.reg a v).apply s).boot = s.boot :=
  act_frame_boot s _ (fun _ e => by cases e)
@[simp] theorem act_reg_ave (a v : Nat) : ((Act.reg a v).apply s).ave = s.ave :=
  act_frame_ave s _ (fun _ e => by cases e)
@[simp] theorem act_reg_xlt (a v : Nat) : ((Act.reg a v).apply s).xlt = s.xlt :=
  act_frame_xlt s _ (fun _ e => by cases e)
@[simp] theorem act_reg_wrd (a v : Nat) : ((Act.reg a v).apply s).wrd = s.wrd :=
  act_frame_wrd s _ (fun _ e => by cases e)
@[simp] theorem act_reg_xng (a v : Nat) : ((Act.reg a v).apply s).xng = s.xng :=
  act_frame_xng s _ (fun _ e => by cases e)
@[simp] theorem act_reg_cam (a v : Nat) : ((Act.reg a v).apply s).cam = s.cam :=
  act_frame_cam s _ (fun _ e => by cases e)
@[simp] theorem act_reg_ras (a v : Nat) : ((Act.reg a v).apply s).ras = s.ras :=
  act_frame_ras s _ (fun _ e => by cases e)
@[simp] theorem act_reg_dst (a v : Nat) : ((Act.reg a v).apply s).dst = s.dst :=
  act_frame_dst s _ (fun _ e => by cases e)
@[simp] theorem act_reg_rbt (a v : Nat) : ((Act.reg a v).apply s).rbt = s.rbt :=
  act_frame_rbt s _ (fun _ e => by cases e)
@[simp] theorem act_reg_sco (a v : Nat) : ((Act.reg a v).apply s).sco = s.sco :=
  act_frame_sco s _ (fun _ e => by cases e)
@[simp] theorem act_reg_sgn (a v : Nat) : ((Act.reg a v).apply s).sgn = s.sgn :=
  act_frame_sgn s _ (fun _ e => by cases e)
@[simp] theorem act_reg_hv (a v : Nat) : ((Act.reg a v).apply s).hv = s.hv :=
  act_frame_hv s _ (fun _ e => by cases e)
@[simp] theorem act_reg_can (a v : Nat) : ((Act.reg a v).apply s).can = s.can :=
  act_frame_can s _ (fun _ e => by cases e)
@[simp] theorem act_reg_svc (a v : Nat) : ((Act.reg a v).apply s).svc = s.svc :=
  act_frame_svc s _ (fun _ e => by cases e)
@[simp] theorem act_reg_ports (a v : Nat) : ((Act.reg a v).apply s).ports = s.ports :=
  act_frame_ports s _ (fun _ e => by cases e)
@[simp] theorem act_reg_brg (a v : Nat) : ((Act.reg a v).apply s).brg = s.brg :=
  act_frame_brg s _ (fun _ e => by cases e)
@[simp] theorem act_pend_pending (a : Nat) (v : Option Nat) : ((Act.pend a v).apply s).pending = s.pending :=
  act_frame_pending s _
@[simp] theorem act_pend_ident (a : Nat) (v : Option Nat) : ((Act.pend a v).apply s).ident = s.ident :=
  act_frame_ident s _
@[simp] theorem act_pend_time (a : Nat) (v : Option Nat) : ((Act.pend a v).apply s).time = s.time :=
  act_frame_time s _
@[simp] theorem act_pend_phase (a : Nat) (v : Option Nat) : ((Act.pend a v).apply s).phase = s.phase :=
  act_frame_phase s _
@[simp] theorem act_pend_free (a : Nat) (v : Option Nat) : ((Act.pend a v).apply s).free = s.free :=
  act_frame_free s _ (fun _ e => by cases e)
@[simp] theorem act_pend_bus (a : Nat) (v : Option Nat) : ((Act.pend a v).apply s).bus = s.bus :=
  act_frame_bus s _ (fun _ e => by cases e)
@[simp] theorem act_pend_regs (a : Nat) (v : Option Nat) : ((Act.pend a v).apply s).regs = s.regs :=
  act_frame_regs s _ (fun _ _ e => by cases e) (fun _ _ e => by cases e)
@[simp] theorem act_pend_plaza (a : Nat) (v : Option Nat) : ((Act.pend a v).apply s).plaza = s.plaza :=
  act_frame_plaza s _ (fun _ _ e => by cases e) (fun e => by cases e)
@[simp] theorem act_pend_lpddr (a : Nat) (v : Option Nat) : ((Act.pend a v).apply s).lpddr = s.lpddr :=
  act_frame_lpddr s _ (fun _ _ e => by cases e) (fun e => by cases e)
@[simp] theorem act_pend_flash (a : Nat) (v : Option Nat) : ((Act.pend a v).apply s).flash = s.flash :=
  act_frame_flash s _ (fun _ _ e => by cases e) (fun e => by cases e)
@[simp] theorem act_pend_retA (a : Nat) (v : Option Nat) : ((Act.pend a v).apply s).retA = s.retA :=
  act_frame_retA s _ (fun _ _ e => by cases e) (fun e => by cases e)
@[simp] theorem act_pend_retB (a : Nat) (v : Option Nat) : ((Act.pend a v).apply s).retB = s.retB :=
  act_frame_retB s _ (fun _ _ e => by cases e) (fun e => by cases e)
@[simp] theorem act_pend_icon (a : Nat) (v : Option Nat) : ((Act.pend a v).apply s).icon = s.icon :=
  act_frame_icon s _ (fun _ _ e => by cases e) (fun e => by cases e)
@[simp] theorem act_pend_otp (a : Nat) (v : Option Nat) : ((Act.pend a v).apply s).otp = s.otp :=
  act_frame_otp s _ (fun _ _ e => by cases e) (fun e => by cases e)
@[simp] theorem act_pend_img (a : Nat) (v : Option Nat) : ((Act.pend a v).apply s).img = s.img :=
  act_frame_img s _ (fun _ _ e => by cases e) (fun e => by cases e)
@[simp] theorem act_pend_ring (a : Nat) (v : Option Nat) : ((Act.pend a v).apply s).ring = s.ring :=
  act_frame_ring s _ (fun _ e => by cases e) (fun e => by cases e)
@[simp] theorem act_pend_nextSeq (a : Nat) (v : Option Nat) : ((Act.pend a v).apply s).nextSeq = s.nextSeq :=
  act_frame_nextSeq s _ (fun _ e => by cases e) (fun e => by cases e)
@[simp] theorem act_pend_leases (a : Nat) (v : Option Nat) : ((Act.pend a v).apply s).leases = s.leases :=
  act_frame_leases s _ (fun _ _ e => by cases e) (fun e => by cases e)
@[simp] theorem act_pend_lamp (a : Nat) (v : Option Nat) : ((Act.pend a v).apply s).lamp = s.lamp :=
  act_frame_lamp s _ (fun _ e => by cases e)
@[simp] theorem act_pend_rcl (a : Nat) (v : Option Nat) : ((Act.pend a v).apply s).rcl = s.rcl :=
  act_frame_rcl s _ (fun _ e => by cases e)
@[simp] theorem act_pend_boot (a : Nat) (v : Option Nat) : ((Act.pend a v).apply s).boot = s.boot :=
  act_frame_boot s _ (fun _ e => by cases e)
@[simp] theorem act_pend_ave (a : Nat) (v : Option Nat) : ((Act.pend a v).apply s).ave = s.ave :=
  act_frame_ave s _ (fun _ e => by cases e)
@[simp] theorem act_pend_xlt (a : Nat) (v : Option Nat) : ((Act.pend a v).apply s).xlt = s.xlt :=
  act_frame_xlt s _ (fun _ e => by cases e)
@[simp] theorem act_pend_wrd (a : Nat) (v : Option Nat) : ((Act.pend a v).apply s).wrd = s.wrd :=
  act_frame_wrd s _ (fun _ e => by cases e)
@[simp] theorem act_pend_xng (a : Nat) (v : Option Nat) : ((Act.pend a v).apply s).xng = s.xng :=
  act_frame_xng s _ (fun _ e => by cases e)
@[simp] theorem act_pend_cam (a : Nat) (v : Option Nat) : ((Act.pend a v).apply s).cam = s.cam :=
  act_frame_cam s _ (fun _ e => by cases e)
@[simp] theorem act_pend_ras (a : Nat) (v : Option Nat) : ((Act.pend a v).apply s).ras = s.ras :=
  act_frame_ras s _ (fun _ e => by cases e)
@[simp] theorem act_pend_dst (a : Nat) (v : Option Nat) : ((Act.pend a v).apply s).dst = s.dst :=
  act_frame_dst s _ (fun _ e => by cases e)
@[simp] theorem act_pend_rbt (a : Nat) (v : Option Nat) : ((Act.pend a v).apply s).rbt = s.rbt :=
  act_frame_rbt s _ (fun _ e => by cases e)
@[simp] theorem act_pend_sco (a : Nat) (v : Option Nat) : ((Act.pend a v).apply s).sco = s.sco :=
  act_frame_sco s _ (fun _ e => by cases e)
@[simp] theorem act_pend_sgn (a : Nat) (v : Option Nat) : ((Act.pend a v).apply s).sgn = s.sgn :=
  act_frame_sgn s _ (fun _ e => by cases e)
@[simp] theorem act_pend_hv (a : Nat) (v : Option Nat) : ((Act.pend a v).apply s).hv = s.hv :=
  act_frame_hv s _ (fun _ e => by cases e)
@[simp] theorem act_pend_can (a : Nat) (v : Option Nat) : ((Act.pend a v).apply s).can = s.can :=
  act_frame_can s _ (fun _ e => by cases e)
@[simp] theorem act_pend_svc (a : Nat) (v : Option Nat) : ((Act.pend a v).apply s).svc = s.svc :=
  act_frame_svc s _ (fun _ e => by cases e)
@[simp] theorem act_pend_ports (a : Nat) (v : Option Nat) : ((Act.pend a v).apply s).ports = s.ports :=
  act_frame_ports s _ (fun _ e => by cases e)
@[simp] theorem act_pend_brg (a : Nat) (v : Option Nat) : ((Act.pend a v).apply s).brg = s.brg :=
  act_frame_brg s _ (fun _ e => by cases e)
@[simp] theorem act_clearRegs_pending (lo hi : Nat) : ((Act.clearRegs lo hi).apply s).pending = s.pending :=
  act_frame_pending s _
@[simp] theorem act_clearRegs_ident (lo hi : Nat) : ((Act.clearRegs lo hi).apply s).ident = s.ident :=
  act_frame_ident s _
@[simp] theorem act_clearRegs_time (lo hi : Nat) : ((Act.clearRegs lo hi).apply s).time = s.time :=
  act_frame_time s _
@[simp] theorem act_clearRegs_phase (lo hi : Nat) : ((Act.clearRegs lo hi).apply s).phase = s.phase :=
  act_frame_phase s _
@[simp] theorem act_clearRegs_free (lo hi : Nat) : ((Act.clearRegs lo hi).apply s).free = s.free :=
  act_frame_free s _ (fun _ e => by cases e)
@[simp] theorem act_clearRegs_bus (lo hi : Nat) : ((Act.clearRegs lo hi).apply s).bus = s.bus :=
  act_frame_bus s _ (fun _ e => by cases e)
@[simp] theorem act_clearRegs_plaza (lo hi : Nat) : ((Act.clearRegs lo hi).apply s).plaza = s.plaza :=
  act_frame_plaza s _ (fun _ _ e => by cases e) (fun e => by cases e)
@[simp] theorem act_clearRegs_lpddr (lo hi : Nat) : ((Act.clearRegs lo hi).apply s).lpddr = s.lpddr :=
  act_frame_lpddr s _ (fun _ _ e => by cases e) (fun e => by cases e)
@[simp] theorem act_clearRegs_flash (lo hi : Nat) : ((Act.clearRegs lo hi).apply s).flash = s.flash :=
  act_frame_flash s _ (fun _ _ e => by cases e) (fun e => by cases e)
@[simp] theorem act_clearRegs_retA (lo hi : Nat) : ((Act.clearRegs lo hi).apply s).retA = s.retA :=
  act_frame_retA s _ (fun _ _ e => by cases e) (fun e => by cases e)
@[simp] theorem act_clearRegs_retB (lo hi : Nat) : ((Act.clearRegs lo hi).apply s).retB = s.retB :=
  act_frame_retB s _ (fun _ _ e => by cases e) (fun e => by cases e)
@[simp] theorem act_clearRegs_icon (lo hi : Nat) : ((Act.clearRegs lo hi).apply s).icon = s.icon :=
  act_frame_icon s _ (fun _ _ e => by cases e) (fun e => by cases e)
@[simp] theorem act_clearRegs_otp (lo hi : Nat) : ((Act.clearRegs lo hi).apply s).otp = s.otp :=
  act_frame_otp s _ (fun _ _ e => by cases e) (fun e => by cases e)
@[simp] theorem act_clearRegs_img (lo hi : Nat) : ((Act.clearRegs lo hi).apply s).img = s.img :=
  act_frame_img s _ (fun _ _ e => by cases e) (fun e => by cases e)
@[simp] theorem act_clearRegs_ring (lo hi : Nat) : ((Act.clearRegs lo hi).apply s).ring = s.ring :=
  act_frame_ring s _ (fun _ e => by cases e) (fun e => by cases e)
@[simp] theorem act_clearRegs_nextSeq (lo hi : Nat) : ((Act.clearRegs lo hi).apply s).nextSeq = s.nextSeq :=
  act_frame_nextSeq s _ (fun _ e => by cases e) (fun e => by cases e)
@[simp] theorem act_clearRegs_leases (lo hi : Nat) : ((Act.clearRegs lo hi).apply s).leases = s.leases :=
  act_frame_leases s _ (fun _ _ e => by cases e) (fun e => by cases e)
@[simp] theorem act_clearRegs_lamp (lo hi : Nat) : ((Act.clearRegs lo hi).apply s).lamp = s.lamp :=
  act_frame_lamp s _ (fun _ e => by cases e)
@[simp] theorem act_clearRegs_rcl (lo hi : Nat) : ((Act.clearRegs lo hi).apply s).rcl = s.rcl :=
  act_frame_rcl s _ (fun _ e => by cases e)
@[simp] theorem act_clearRegs_boot (lo hi : Nat) : ((Act.clearRegs lo hi).apply s).boot = s.boot :=
  act_frame_boot s _ (fun _ e => by cases e)
@[simp] theorem act_clearRegs_ave (lo hi : Nat) : ((Act.clearRegs lo hi).apply s).ave = s.ave :=
  act_frame_ave s _ (fun _ e => by cases e)
@[simp] theorem act_clearRegs_xlt (lo hi : Nat) : ((Act.clearRegs lo hi).apply s).xlt = s.xlt :=
  act_frame_xlt s _ (fun _ e => by cases e)
@[simp] theorem act_clearRegs_wrd (lo hi : Nat) : ((Act.clearRegs lo hi).apply s).wrd = s.wrd :=
  act_frame_wrd s _ (fun _ e => by cases e)
@[simp] theorem act_clearRegs_xng (lo hi : Nat) : ((Act.clearRegs lo hi).apply s).xng = s.xng :=
  act_frame_xng s _ (fun _ e => by cases e)
@[simp] theorem act_clearRegs_cam (lo hi : Nat) : ((Act.clearRegs lo hi).apply s).cam = s.cam :=
  act_frame_cam s _ (fun _ e => by cases e)
@[simp] theorem act_clearRegs_ras (lo hi : Nat) : ((Act.clearRegs lo hi).apply s).ras = s.ras :=
  act_frame_ras s _ (fun _ e => by cases e)
@[simp] theorem act_clearRegs_dst (lo hi : Nat) : ((Act.clearRegs lo hi).apply s).dst = s.dst :=
  act_frame_dst s _ (fun _ e => by cases e)
@[simp] theorem act_clearRegs_rbt (lo hi : Nat) : ((Act.clearRegs lo hi).apply s).rbt = s.rbt :=
  act_frame_rbt s _ (fun _ e => by cases e)
@[simp] theorem act_clearRegs_sco (lo hi : Nat) : ((Act.clearRegs lo hi).apply s).sco = s.sco :=
  act_frame_sco s _ (fun _ e => by cases e)
@[simp] theorem act_clearRegs_sgn (lo hi : Nat) : ((Act.clearRegs lo hi).apply s).sgn = s.sgn :=
  act_frame_sgn s _ (fun _ e => by cases e)
@[simp] theorem act_clearRegs_hv (lo hi : Nat) : ((Act.clearRegs lo hi).apply s).hv = s.hv :=
  act_frame_hv s _ (fun _ e => by cases e)
@[simp] theorem act_clearRegs_can (lo hi : Nat) : ((Act.clearRegs lo hi).apply s).can = s.can :=
  act_frame_can s _ (fun _ e => by cases e)
@[simp] theorem act_clearRegs_svc (lo hi : Nat) : ((Act.clearRegs lo hi).apply s).svc = s.svc :=
  act_frame_svc s _ (fun _ e => by cases e)
@[simp] theorem act_clearRegs_ports (lo hi : Nat) : ((Act.clearRegs lo hi).apply s).ports = s.ports :=
  act_frame_ports s _ (fun _ e => by cases e)
@[simp] theorem act_clearRegs_brg (lo hi : Nat) : ((Act.clearRegs lo hi).apply s).brg = s.brg :=
  act_frame_brg s _ (fun _ e => by cases e)
@[simp] theorem act_bus_pending (r : BusResp) : ((Act.bus r).apply s).pending = s.pending :=
  act_frame_pending s _
@[simp] theorem act_bus_ident (r : BusResp) : ((Act.bus r).apply s).ident = s.ident :=
  act_frame_ident s _
@[simp] theorem act_bus_time (r : BusResp) : ((Act.bus r).apply s).time = s.time :=
  act_frame_time s _
@[simp] theorem act_bus_phase (r : BusResp) : ((Act.bus r).apply s).phase = s.phase :=
  act_frame_phase s _
@[simp] theorem act_bus_free (r : BusResp) : ((Act.bus r).apply s).free = s.free :=
  act_frame_free s _ (fun _ e => by cases e)
@[simp] theorem act_bus_regs (r : BusResp) : ((Act.bus r).apply s).regs = s.regs :=
  act_frame_regs s _ (fun _ _ e => by cases e) (fun _ _ e => by cases e)
@[simp] theorem act_bus_rwpPend (r : BusResp) : ((Act.bus r).apply s).rwpPend = s.rwpPend :=
  act_frame_rwpPend s _ (fun _ _ e => by cases e) (fun _ _ e => by cases e)
@[simp] theorem act_bus_plaza (r : BusResp) : ((Act.bus r).apply s).plaza = s.plaza :=
  act_frame_plaza s _ (fun _ _ e => by cases e) (fun e => by cases e)
@[simp] theorem act_bus_lpddr (r : BusResp) : ((Act.bus r).apply s).lpddr = s.lpddr :=
  act_frame_lpddr s _ (fun _ _ e => by cases e) (fun e => by cases e)
@[simp] theorem act_bus_flash (r : BusResp) : ((Act.bus r).apply s).flash = s.flash :=
  act_frame_flash s _ (fun _ _ e => by cases e) (fun e => by cases e)
@[simp] theorem act_bus_retA (r : BusResp) : ((Act.bus r).apply s).retA = s.retA :=
  act_frame_retA s _ (fun _ _ e => by cases e) (fun e => by cases e)
@[simp] theorem act_bus_retB (r : BusResp) : ((Act.bus r).apply s).retB = s.retB :=
  act_frame_retB s _ (fun _ _ e => by cases e) (fun e => by cases e)
@[simp] theorem act_bus_icon (r : BusResp) : ((Act.bus r).apply s).icon = s.icon :=
  act_frame_icon s _ (fun _ _ e => by cases e) (fun e => by cases e)
@[simp] theorem act_bus_otp (r : BusResp) : ((Act.bus r).apply s).otp = s.otp :=
  act_frame_otp s _ (fun _ _ e => by cases e) (fun e => by cases e)
@[simp] theorem act_bus_img (r : BusResp) : ((Act.bus r).apply s).img = s.img :=
  act_frame_img s _ (fun _ _ e => by cases e) (fun e => by cases e)
@[simp] theorem act_bus_ring (r : BusResp) : ((Act.bus r).apply s).ring = s.ring :=
  act_frame_ring s _ (fun _ e => by cases e) (fun e => by cases e)
@[simp] theorem act_bus_nextSeq (r : BusResp) : ((Act.bus r).apply s).nextSeq = s.nextSeq :=
  act_frame_nextSeq s _ (fun _ e => by cases e) (fun e => by cases e)
@[simp] theorem act_bus_leases (r : BusResp) : ((Act.bus r).apply s).leases = s.leases :=
  act_frame_leases s _ (fun _ _ e => by cases e) (fun e => by cases e)
@[simp] theorem act_bus_lamp (r : BusResp) : ((Act.bus r).apply s).lamp = s.lamp :=
  act_frame_lamp s _ (fun _ e => by cases e)
@[simp] theorem act_bus_rcl (r : BusResp) : ((Act.bus r).apply s).rcl = s.rcl :=
  act_frame_rcl s _ (fun _ e => by cases e)
@[simp] theorem act_bus_boot (r : BusResp) : ((Act.bus r).apply s).boot = s.boot :=
  act_frame_boot s _ (fun _ e => by cases e)
@[simp] theorem act_bus_ave (r : BusResp) : ((Act.bus r).apply s).ave = s.ave :=
  act_frame_ave s _ (fun _ e => by cases e)
@[simp] theorem act_bus_xlt (r : BusResp) : ((Act.bus r).apply s).xlt = s.xlt :=
  act_frame_xlt s _ (fun _ e => by cases e)
@[simp] theorem act_bus_wrd (r : BusResp) : ((Act.bus r).apply s).wrd = s.wrd :=
  act_frame_wrd s _ (fun _ e => by cases e)
@[simp] theorem act_bus_xng (r : BusResp) : ((Act.bus r).apply s).xng = s.xng :=
  act_frame_xng s _ (fun _ e => by cases e)
@[simp] theorem act_bus_cam (r : BusResp) : ((Act.bus r).apply s).cam = s.cam :=
  act_frame_cam s _ (fun _ e => by cases e)
@[simp] theorem act_bus_ras (r : BusResp) : ((Act.bus r).apply s).ras = s.ras :=
  act_frame_ras s _ (fun _ e => by cases e)
@[simp] theorem act_bus_dst (r : BusResp) : ((Act.bus r).apply s).dst = s.dst :=
  act_frame_dst s _ (fun _ e => by cases e)
@[simp] theorem act_bus_rbt (r : BusResp) : ((Act.bus r).apply s).rbt = s.rbt :=
  act_frame_rbt s _ (fun _ e => by cases e)
@[simp] theorem act_bus_sco (r : BusResp) : ((Act.bus r).apply s).sco = s.sco :=
  act_frame_sco s _ (fun _ e => by cases e)
@[simp] theorem act_bus_sgn (r : BusResp) : ((Act.bus r).apply s).sgn = s.sgn :=
  act_frame_sgn s _ (fun _ e => by cases e)
@[simp] theorem act_bus_hv (r : BusResp) : ((Act.bus r).apply s).hv = s.hv :=
  act_frame_hv s _ (fun _ e => by cases e)
@[simp] theorem act_bus_can (r : BusResp) : ((Act.bus r).apply s).can = s.can :=
  act_frame_can s _ (fun _ e => by cases e)
@[simp] theorem act_bus_svc (r : BusResp) : ((Act.bus r).apply s).svc = s.svc :=
  act_frame_svc s _ (fun _ e => by cases e)
@[simp] theorem act_bus_ports (r : BusResp) : ((Act.bus r).apply s).ports = s.ports :=
  act_frame_ports s _ (fun _ e => by cases e)
@[simp] theorem act_bus_brg (r : BusResp) : ((Act.bus r).apply s).brg = s.brg :=
  act_frame_brg s _ (fun _ e => by cases e)
@[simp] theorem act_draw_pending (n : Nat) : ((Act.draw n).apply s).pending = s.pending :=
  act_frame_pending s _
@[simp] theorem act_draw_ident (n : Nat) : ((Act.draw n).apply s).ident = s.ident :=
  act_frame_ident s _
@[simp] theorem act_draw_time (n : Nat) : ((Act.draw n).apply s).time = s.time :=
  act_frame_time s _
@[simp] theorem act_draw_phase (n : Nat) : ((Act.draw n).apply s).phase = s.phase :=
  act_frame_phase s _
@[simp] theorem act_draw_bus (n : Nat) : ((Act.draw n).apply s).bus = s.bus :=
  act_frame_bus s _ (fun _ e => by cases e)
@[simp] theorem act_draw_regs (n : Nat) : ((Act.draw n).apply s).regs = s.regs :=
  act_frame_regs s _ (fun _ _ e => by cases e) (fun _ _ e => by cases e)
@[simp] theorem act_draw_rwpPend (n : Nat) : ((Act.draw n).apply s).rwpPend = s.rwpPend :=
  act_frame_rwpPend s _ (fun _ _ e => by cases e) (fun _ _ e => by cases e)
@[simp] theorem act_draw_plaza (n : Nat) : ((Act.draw n).apply s).plaza = s.plaza :=
  act_frame_plaza s _ (fun _ _ e => by cases e) (fun e => by cases e)
@[simp] theorem act_draw_lpddr (n : Nat) : ((Act.draw n).apply s).lpddr = s.lpddr :=
  act_frame_lpddr s _ (fun _ _ e => by cases e) (fun e => by cases e)
@[simp] theorem act_draw_flash (n : Nat) : ((Act.draw n).apply s).flash = s.flash :=
  act_frame_flash s _ (fun _ _ e => by cases e) (fun e => by cases e)
@[simp] theorem act_draw_retA (n : Nat) : ((Act.draw n).apply s).retA = s.retA :=
  act_frame_retA s _ (fun _ _ e => by cases e) (fun e => by cases e)
@[simp] theorem act_draw_retB (n : Nat) : ((Act.draw n).apply s).retB = s.retB :=
  act_frame_retB s _ (fun _ _ e => by cases e) (fun e => by cases e)
@[simp] theorem act_draw_icon (n : Nat) : ((Act.draw n).apply s).icon = s.icon :=
  act_frame_icon s _ (fun _ _ e => by cases e) (fun e => by cases e)
@[simp] theorem act_draw_otp (n : Nat) : ((Act.draw n).apply s).otp = s.otp :=
  act_frame_otp s _ (fun _ _ e => by cases e) (fun e => by cases e)
@[simp] theorem act_draw_img (n : Nat) : ((Act.draw n).apply s).img = s.img :=
  act_frame_img s _ (fun _ _ e => by cases e) (fun e => by cases e)
@[simp] theorem act_draw_ring (n : Nat) : ((Act.draw n).apply s).ring = s.ring :=
  act_frame_ring s _ (fun _ e => by cases e) (fun e => by cases e)
@[simp] theorem act_draw_nextSeq (n : Nat) : ((Act.draw n).apply s).nextSeq = s.nextSeq :=
  act_frame_nextSeq s _ (fun _ e => by cases e) (fun e => by cases e)
@[simp] theorem act_draw_leases (n : Nat) : ((Act.draw n).apply s).leases = s.leases :=
  act_frame_leases s _ (fun _ _ e => by cases e) (fun e => by cases e)
@[simp] theorem act_draw_lamp (n : Nat) : ((Act.draw n).apply s).lamp = s.lamp :=
  act_frame_lamp s _ (fun _ e => by cases e)
@[simp] theorem act_draw_rcl (n : Nat) : ((Act.draw n).apply s).rcl = s.rcl :=
  act_frame_rcl s _ (fun _ e => by cases e)
@[simp] theorem act_draw_boot (n : Nat) : ((Act.draw n).apply s).boot = s.boot :=
  act_frame_boot s _ (fun _ e => by cases e)
@[simp] theorem act_draw_ave (n : Nat) : ((Act.draw n).apply s).ave = s.ave :=
  act_frame_ave s _ (fun _ e => by cases e)
@[simp] theorem act_draw_xlt (n : Nat) : ((Act.draw n).apply s).xlt = s.xlt :=
  act_frame_xlt s _ (fun _ e => by cases e)
@[simp] theorem act_draw_wrd (n : Nat) : ((Act.draw n).apply s).wrd = s.wrd :=
  act_frame_wrd s _ (fun _ e => by cases e)
@[simp] theorem act_draw_xng (n : Nat) : ((Act.draw n).apply s).xng = s.xng :=
  act_frame_xng s _ (fun _ e => by cases e)
@[simp] theorem act_draw_cam (n : Nat) : ((Act.draw n).apply s).cam = s.cam :=
  act_frame_cam s _ (fun _ e => by cases e)
@[simp] theorem act_draw_ras (n : Nat) : ((Act.draw n).apply s).ras = s.ras :=
  act_frame_ras s _ (fun _ e => by cases e)
@[simp] theorem act_draw_dst (n : Nat) : ((Act.draw n).apply s).dst = s.dst :=
  act_frame_dst s _ (fun _ e => by cases e)
@[simp] theorem act_draw_rbt (n : Nat) : ((Act.draw n).apply s).rbt = s.rbt :=
  act_frame_rbt s _ (fun _ e => by cases e)
@[simp] theorem act_draw_sco (n : Nat) : ((Act.draw n).apply s).sco = s.sco :=
  act_frame_sco s _ (fun _ e => by cases e)
@[simp] theorem act_draw_sgn (n : Nat) : ((Act.draw n).apply s).sgn = s.sgn :=
  act_frame_sgn s _ (fun _ e => by cases e)
@[simp] theorem act_draw_hv (n : Nat) : ((Act.draw n).apply s).hv = s.hv :=
  act_frame_hv s _ (fun _ e => by cases e)
@[simp] theorem act_draw_can (n : Nat) : ((Act.draw n).apply s).can = s.can :=
  act_frame_can s _ (fun _ e => by cases e)
@[simp] theorem act_draw_svc (n : Nat) : ((Act.draw n).apply s).svc = s.svc :=
  act_frame_svc s _ (fun _ e => by cases e)
@[simp] theorem act_draw_ports (n : Nat) : ((Act.draw n).apply s).ports = s.ports :=
  act_frame_ports s _ (fun _ e => by cases e)
@[simp] theorem act_draw_brg (n : Nat) : ((Act.draw n).apply s).brg = s.brg :=
  act_frame_brg s _ (fun _ e => by cases e)
@[simp] theorem act_record_pending (r : FaultRec) : ((Act.record r).apply s).pending = s.pending :=
  act_frame_pending s _
@[simp] theorem act_record_ident (r : FaultRec) : ((Act.record r).apply s).ident = s.ident :=
  act_frame_ident s _
@[simp] theorem act_record_time (r : FaultRec) : ((Act.record r).apply s).time = s.time :=
  act_frame_time s _
@[simp] theorem act_record_phase (r : FaultRec) : ((Act.record r).apply s).phase = s.phase :=
  act_frame_phase s _
@[simp] theorem act_record_free (r : FaultRec) : ((Act.record r).apply s).free = s.free :=
  act_frame_free s _ (fun _ e => by cases e)
@[simp] theorem act_record_bus (r : FaultRec) : ((Act.record r).apply s).bus = s.bus :=
  act_frame_bus s _ (fun _ e => by cases e)
@[simp] theorem act_record_regs (r : FaultRec) : ((Act.record r).apply s).regs = s.regs :=
  act_frame_regs s _ (fun _ _ e => by cases e) (fun _ _ e => by cases e)
@[simp] theorem act_record_rwpPend (r : FaultRec) : ((Act.record r).apply s).rwpPend = s.rwpPend :=
  act_frame_rwpPend s _ (fun _ _ e => by cases e) (fun _ _ e => by cases e)
@[simp] theorem act_record_plaza (r : FaultRec) : ((Act.record r).apply s).plaza = s.plaza :=
  act_frame_plaza s _ (fun _ _ e => by cases e) (fun e => by cases e)
@[simp] theorem act_record_lpddr (r : FaultRec) : ((Act.record r).apply s).lpddr = s.lpddr :=
  act_frame_lpddr s _ (fun _ _ e => by cases e) (fun e => by cases e)
@[simp] theorem act_record_flash (r : FaultRec) : ((Act.record r).apply s).flash = s.flash :=
  act_frame_flash s _ (fun _ _ e => by cases e) (fun e => by cases e)
@[simp] theorem act_record_retA (r : FaultRec) : ((Act.record r).apply s).retA = s.retA :=
  act_frame_retA s _ (fun _ _ e => by cases e) (fun e => by cases e)
@[simp] theorem act_record_retB (r : FaultRec) : ((Act.record r).apply s).retB = s.retB :=
  act_frame_retB s _ (fun _ _ e => by cases e) (fun e => by cases e)
@[simp] theorem act_record_icon (r : FaultRec) : ((Act.record r).apply s).icon = s.icon :=
  act_frame_icon s _ (fun _ _ e => by cases e) (fun e => by cases e)
@[simp] theorem act_record_otp (r : FaultRec) : ((Act.record r).apply s).otp = s.otp :=
  act_frame_otp s _ (fun _ _ e => by cases e) (fun e => by cases e)
@[simp] theorem act_record_img (r : FaultRec) : ((Act.record r).apply s).img = s.img :=
  act_frame_img s _ (fun _ _ e => by cases e) (fun e => by cases e)
@[simp] theorem act_record_leases (r : FaultRec) : ((Act.record r).apply s).leases = s.leases :=
  act_frame_leases s _ (fun _ _ e => by cases e) (fun e => by cases e)
@[simp] theorem act_record_lamp (r : FaultRec) : ((Act.record r).apply s).lamp = s.lamp :=
  act_frame_lamp s _ (fun _ e => by cases e)
@[simp] theorem act_record_rcl (r : FaultRec) : ((Act.record r).apply s).rcl = s.rcl :=
  act_frame_rcl s _ (fun _ e => by cases e)
@[simp] theorem act_record_boot (r : FaultRec) : ((Act.record r).apply s).boot = s.boot :=
  act_frame_boot s _ (fun _ e => by cases e)
@[simp] theorem act_record_ave (r : FaultRec) : ((Act.record r).apply s).ave = s.ave :=
  act_frame_ave s _ (fun _ e => by cases e)
@[simp] theorem act_record_xlt (r : FaultRec) : ((Act.record r).apply s).xlt = s.xlt :=
  act_frame_xlt s _ (fun _ e => by cases e)
@[simp] theorem act_record_wrd (r : FaultRec) : ((Act.record r).apply s).wrd = s.wrd :=
  act_frame_wrd s _ (fun _ e => by cases e)
@[simp] theorem act_record_xng (r : FaultRec) : ((Act.record r).apply s).xng = s.xng :=
  act_frame_xng s _ (fun _ e => by cases e)
@[simp] theorem act_record_cam (r : FaultRec) : ((Act.record r).apply s).cam = s.cam :=
  act_frame_cam s _ (fun _ e => by cases e)
@[simp] theorem act_record_ras (r : FaultRec) : ((Act.record r).apply s).ras = s.ras :=
  act_frame_ras s _ (fun _ e => by cases e)
@[simp] theorem act_record_dst (r : FaultRec) : ((Act.record r).apply s).dst = s.dst :=
  act_frame_dst s _ (fun _ e => by cases e)
@[simp] theorem act_record_rbt (r : FaultRec) : ((Act.record r).apply s).rbt = s.rbt :=
  act_frame_rbt s _ (fun _ e => by cases e)
@[simp] theorem act_record_sco (r : FaultRec) : ((Act.record r).apply s).sco = s.sco :=
  act_frame_sco s _ (fun _ e => by cases e)
@[simp] theorem act_record_sgn (r : FaultRec) : ((Act.record r).apply s).sgn = s.sgn :=
  act_frame_sgn s _ (fun _ e => by cases e)
@[simp] theorem act_record_hv (r : FaultRec) : ((Act.record r).apply s).hv = s.hv :=
  act_frame_hv s _ (fun _ e => by cases e)
@[simp] theorem act_record_can (r : FaultRec) : ((Act.record r).apply s).can = s.can :=
  act_frame_can s _ (fun _ e => by cases e)
@[simp] theorem act_record_svc (r : FaultRec) : ((Act.record r).apply s).svc = s.svc :=
  act_frame_svc s _ (fun _ e => by cases e)
@[simp] theorem act_record_ports (r : FaultRec) : ((Act.record r).apply s).ports = s.ports :=
  act_frame_ports s _ (fun _ e => by cases e)
@[simp] theorem act_record_brg (r : FaultRec) : ((Act.record r).apply s).brg = s.brg :=
  act_frame_brg s _ (fun _ e => by cases e)
@[simp] theorem act_clearRing_pending : (Act.clearRing.apply s).pending = s.pending :=
  act_frame_pending s _
@[simp] theorem act_clearRing_ident : (Act.clearRing.apply s).ident = s.ident :=
  act_frame_ident s _
@[simp] theorem act_clearRing_time : (Act.clearRing.apply s).time = s.time :=
  act_frame_time s _
@[simp] theorem act_clearRing_phase : (Act.clearRing.apply s).phase = s.phase :=
  act_frame_phase s _
@[simp] theorem act_clearRing_free : (Act.clearRing.apply s).free = s.free :=
  act_frame_free s _ (fun _ e => by cases e)
@[simp] theorem act_clearRing_bus : (Act.clearRing.apply s).bus = s.bus :=
  act_frame_bus s _ (fun _ e => by cases e)
@[simp] theorem act_clearRing_regs : (Act.clearRing.apply s).regs = s.regs :=
  act_frame_regs s _ (fun _ _ e => by cases e) (fun _ _ e => by cases e)
@[simp] theorem act_clearRing_rwpPend : (Act.clearRing.apply s).rwpPend = s.rwpPend :=
  act_frame_rwpPend s _ (fun _ _ e => by cases e) (fun _ _ e => by cases e)
@[simp] theorem act_clearRing_plaza : (Act.clearRing.apply s).plaza = s.plaza :=
  act_frame_plaza s _ (fun _ _ e => by cases e) (fun e => by cases e)
@[simp] theorem act_clearRing_lpddr : (Act.clearRing.apply s).lpddr = s.lpddr :=
  act_frame_lpddr s _ (fun _ _ e => by cases e) (fun e => by cases e)
@[simp] theorem act_clearRing_flash : (Act.clearRing.apply s).flash = s.flash :=
  act_frame_flash s _ (fun _ _ e => by cases e) (fun e => by cases e)
@[simp] theorem act_clearRing_retA : (Act.clearRing.apply s).retA = s.retA :=
  act_frame_retA s _ (fun _ _ e => by cases e) (fun e => by cases e)
@[simp] theorem act_clearRing_retB : (Act.clearRing.apply s).retB = s.retB :=
  act_frame_retB s _ (fun _ _ e => by cases e) (fun e => by cases e)
@[simp] theorem act_clearRing_icon : (Act.clearRing.apply s).icon = s.icon :=
  act_frame_icon s _ (fun _ _ e => by cases e) (fun e => by cases e)
@[simp] theorem act_clearRing_otp : (Act.clearRing.apply s).otp = s.otp :=
  act_frame_otp s _ (fun _ _ e => by cases e) (fun e => by cases e)
@[simp] theorem act_clearRing_img : (Act.clearRing.apply s).img = s.img :=
  act_frame_img s _ (fun _ _ e => by cases e) (fun e => by cases e)
@[simp] theorem act_clearRing_leases : (Act.clearRing.apply s).leases = s.leases :=
  act_frame_leases s _ (fun _ _ e => by cases e) (fun e => by cases e)
@[simp] theorem act_clearRing_lamp : (Act.clearRing.apply s).lamp = s.lamp :=
  act_frame_lamp s _ (fun _ e => by cases e)
@[simp] theorem act_clearRing_rcl : (Act.clearRing.apply s).rcl = s.rcl :=
  act_frame_rcl s _ (fun _ e => by cases e)
@[simp] theorem act_clearRing_boot : (Act.clearRing.apply s).boot = s.boot :=
  act_frame_boot s _ (fun _ e => by cases e)
@[simp] theorem act_clearRing_ave : (Act.clearRing.apply s).ave = s.ave :=
  act_frame_ave s _ (fun _ e => by cases e)
@[simp] theorem act_clearRing_xlt : (Act.clearRing.apply s).xlt = s.xlt :=
  act_frame_xlt s _ (fun _ e => by cases e)
@[simp] theorem act_clearRing_wrd : (Act.clearRing.apply s).wrd = s.wrd :=
  act_frame_wrd s _ (fun _ e => by cases e)
@[simp] theorem act_clearRing_xng : (Act.clearRing.apply s).xng = s.xng :=
  act_frame_xng s _ (fun _ e => by cases e)
@[simp] theorem act_clearRing_cam : (Act.clearRing.apply s).cam = s.cam :=
  act_frame_cam s _ (fun _ e => by cases e)
@[simp] theorem act_clearRing_ras : (Act.clearRing.apply s).ras = s.ras :=
  act_frame_ras s _ (fun _ e => by cases e)
@[simp] theorem act_clearRing_dst : (Act.clearRing.apply s).dst = s.dst :=
  act_frame_dst s _ (fun _ e => by cases e)
@[simp] theorem act_clearRing_rbt : (Act.clearRing.apply s).rbt = s.rbt :=
  act_frame_rbt s _ (fun _ e => by cases e)
@[simp] theorem act_clearRing_sco : (Act.clearRing.apply s).sco = s.sco :=
  act_frame_sco s _ (fun _ e => by cases e)
@[simp] theorem act_clearRing_sgn : (Act.clearRing.apply s).sgn = s.sgn :=
  act_frame_sgn s _ (fun _ e => by cases e)
@[simp] theorem act_clearRing_hv : (Act.clearRing.apply s).hv = s.hv :=
  act_frame_hv s _ (fun _ e => by cases e)
@[simp] theorem act_clearRing_can : (Act.clearRing.apply s).can = s.can :=
  act_frame_can s _ (fun _ e => by cases e)
@[simp] theorem act_clearRing_svc : (Act.clearRing.apply s).svc = s.svc :=
  act_frame_svc s _ (fun _ e => by cases e)
@[simp] theorem act_clearRing_ports : (Act.clearRing.apply s).ports = s.ports :=
  act_frame_ports s _ (fun _ e => by cases e)
@[simp] theorem act_clearRing_brg : (Act.clearRing.apply s).brg = s.brg :=
  act_frame_brg s _ (fun _ e => by cases e)
@[simp] theorem act_lease_pending (n : Nat) (l : Option Lease) : ((Act.lease n l).apply s).pending = s.pending :=
  act_frame_pending s _
@[simp] theorem act_lease_ident (n : Nat) (l : Option Lease) : ((Act.lease n l).apply s).ident = s.ident :=
  act_frame_ident s _
@[simp] theorem act_lease_time (n : Nat) (l : Option Lease) : ((Act.lease n l).apply s).time = s.time :=
  act_frame_time s _
@[simp] theorem act_lease_phase (n : Nat) (l : Option Lease) : ((Act.lease n l).apply s).phase = s.phase :=
  act_frame_phase s _
@[simp] theorem act_lease_free (n : Nat) (l : Option Lease) : ((Act.lease n l).apply s).free = s.free :=
  act_frame_free s _ (fun _ e => by cases e)
@[simp] theorem act_lease_bus (n : Nat) (l : Option Lease) : ((Act.lease n l).apply s).bus = s.bus :=
  act_frame_bus s _ (fun _ e => by cases e)
@[simp] theorem act_lease_regs (n : Nat) (l : Option Lease) : ((Act.lease n l).apply s).regs = s.regs :=
  act_frame_regs s _ (fun _ _ e => by cases e) (fun _ _ e => by cases e)
@[simp] theorem act_lease_rwpPend (n : Nat) (l : Option Lease) : ((Act.lease n l).apply s).rwpPend = s.rwpPend :=
  act_frame_rwpPend s _ (fun _ _ e => by cases e) (fun _ _ e => by cases e)
@[simp] theorem act_lease_plaza (n : Nat) (l : Option Lease) : ((Act.lease n l).apply s).plaza = s.plaza :=
  act_frame_plaza s _ (fun _ _ e => by cases e) (fun e => by cases e)
@[simp] theorem act_lease_lpddr (n : Nat) (l : Option Lease) : ((Act.lease n l).apply s).lpddr = s.lpddr :=
  act_frame_lpddr s _ (fun _ _ e => by cases e) (fun e => by cases e)
@[simp] theorem act_lease_flash (n : Nat) (l : Option Lease) : ((Act.lease n l).apply s).flash = s.flash :=
  act_frame_flash s _ (fun _ _ e => by cases e) (fun e => by cases e)
@[simp] theorem act_lease_retA (n : Nat) (l : Option Lease) : ((Act.lease n l).apply s).retA = s.retA :=
  act_frame_retA s _ (fun _ _ e => by cases e) (fun e => by cases e)
@[simp] theorem act_lease_retB (n : Nat) (l : Option Lease) : ((Act.lease n l).apply s).retB = s.retB :=
  act_frame_retB s _ (fun _ _ e => by cases e) (fun e => by cases e)
@[simp] theorem act_lease_icon (n : Nat) (l : Option Lease) : ((Act.lease n l).apply s).icon = s.icon :=
  act_frame_icon s _ (fun _ _ e => by cases e) (fun e => by cases e)
@[simp] theorem act_lease_otp (n : Nat) (l : Option Lease) : ((Act.lease n l).apply s).otp = s.otp :=
  act_frame_otp s _ (fun _ _ e => by cases e) (fun e => by cases e)
@[simp] theorem act_lease_img (n : Nat) (l : Option Lease) : ((Act.lease n l).apply s).img = s.img :=
  act_frame_img s _ (fun _ _ e => by cases e) (fun e => by cases e)
@[simp] theorem act_lease_ring (n : Nat) (l : Option Lease) : ((Act.lease n l).apply s).ring = s.ring :=
  act_frame_ring s _ (fun _ e => by cases e) (fun e => by cases e)
@[simp] theorem act_lease_nextSeq (n : Nat) (l : Option Lease) : ((Act.lease n l).apply s).nextSeq = s.nextSeq :=
  act_frame_nextSeq s _ (fun _ e => by cases e) (fun e => by cases e)
@[simp] theorem act_lease_lamp (n : Nat) (l : Option Lease) : ((Act.lease n l).apply s).lamp = s.lamp :=
  act_frame_lamp s _ (fun _ e => by cases e)
@[simp] theorem act_lease_rcl (n : Nat) (l : Option Lease) : ((Act.lease n l).apply s).rcl = s.rcl :=
  act_frame_rcl s _ (fun _ e => by cases e)
@[simp] theorem act_lease_boot (n : Nat) (l : Option Lease) : ((Act.lease n l).apply s).boot = s.boot :=
  act_frame_boot s _ (fun _ e => by cases e)
@[simp] theorem act_lease_ave (n : Nat) (l : Option Lease) : ((Act.lease n l).apply s).ave = s.ave :=
  act_frame_ave s _ (fun _ e => by cases e)
@[simp] theorem act_lease_xlt (n : Nat) (l : Option Lease) : ((Act.lease n l).apply s).xlt = s.xlt :=
  act_frame_xlt s _ (fun _ e => by cases e)
@[simp] theorem act_lease_wrd (n : Nat) (l : Option Lease) : ((Act.lease n l).apply s).wrd = s.wrd :=
  act_frame_wrd s _ (fun _ e => by cases e)
@[simp] theorem act_lease_xng (n : Nat) (l : Option Lease) : ((Act.lease n l).apply s).xng = s.xng :=
  act_frame_xng s _ (fun _ e => by cases e)
@[simp] theorem act_lease_cam (n : Nat) (l : Option Lease) : ((Act.lease n l).apply s).cam = s.cam :=
  act_frame_cam s _ (fun _ e => by cases e)
@[simp] theorem act_lease_ras (n : Nat) (l : Option Lease) : ((Act.lease n l).apply s).ras = s.ras :=
  act_frame_ras s _ (fun _ e => by cases e)
@[simp] theorem act_lease_dst (n : Nat) (l : Option Lease) : ((Act.lease n l).apply s).dst = s.dst :=
  act_frame_dst s _ (fun _ e => by cases e)
@[simp] theorem act_lease_rbt (n : Nat) (l : Option Lease) : ((Act.lease n l).apply s).rbt = s.rbt :=
  act_frame_rbt s _ (fun _ e => by cases e)
@[simp] theorem act_lease_sco (n : Nat) (l : Option Lease) : ((Act.lease n l).apply s).sco = s.sco :=
  act_frame_sco s _ (fun _ e => by cases e)
@[simp] theorem act_lease_sgn (n : Nat) (l : Option Lease) : ((Act.lease n l).apply s).sgn = s.sgn :=
  act_frame_sgn s _ (fun _ e => by cases e)
@[simp] theorem act_lease_hv (n : Nat) (l : Option Lease) : ((Act.lease n l).apply s).hv = s.hv :=
  act_frame_hv s _ (fun _ e => by cases e)
@[simp] theorem act_lease_can (n : Nat) (l : Option Lease) : ((Act.lease n l).apply s).can = s.can :=
  act_frame_can s _ (fun _ e => by cases e)
@[simp] theorem act_lease_svc (n : Nat) (l : Option Lease) : ((Act.lease n l).apply s).svc = s.svc :=
  act_frame_svc s _ (fun _ e => by cases e)
@[simp] theorem act_lease_ports (n : Nat) (l : Option Lease) : ((Act.lease n l).apply s).ports = s.ports :=
  act_frame_ports s _ (fun _ e => by cases e)
@[simp] theorem act_lease_brg (n : Nat) (l : Option Lease) : ((Act.lease n l).apply s).brg = s.brg :=
  act_frame_brg s _ (fun _ e => by cases e)
@[simp] theorem act_clearLeases_pending : (Act.clearLeases.apply s).pending = s.pending :=
  act_frame_pending s _
@[simp] theorem act_clearLeases_ident : (Act.clearLeases.apply s).ident = s.ident :=
  act_frame_ident s _
@[simp] theorem act_clearLeases_time : (Act.clearLeases.apply s).time = s.time :=
  act_frame_time s _
@[simp] theorem act_clearLeases_phase : (Act.clearLeases.apply s).phase = s.phase :=
  act_frame_phase s _
@[simp] theorem act_clearLeases_free : (Act.clearLeases.apply s).free = s.free :=
  act_frame_free s _ (fun _ e => by cases e)
@[simp] theorem act_clearLeases_bus : (Act.clearLeases.apply s).bus = s.bus :=
  act_frame_bus s _ (fun _ e => by cases e)
@[simp] theorem act_clearLeases_regs : (Act.clearLeases.apply s).regs = s.regs :=
  act_frame_regs s _ (fun _ _ e => by cases e) (fun _ _ e => by cases e)
@[simp] theorem act_clearLeases_rwpPend : (Act.clearLeases.apply s).rwpPend = s.rwpPend :=
  act_frame_rwpPend s _ (fun _ _ e => by cases e) (fun _ _ e => by cases e)
@[simp] theorem act_clearLeases_plaza : (Act.clearLeases.apply s).plaza = s.plaza :=
  act_frame_plaza s _ (fun _ _ e => by cases e) (fun e => by cases e)
@[simp] theorem act_clearLeases_lpddr : (Act.clearLeases.apply s).lpddr = s.lpddr :=
  act_frame_lpddr s _ (fun _ _ e => by cases e) (fun e => by cases e)
@[simp] theorem act_clearLeases_flash : (Act.clearLeases.apply s).flash = s.flash :=
  act_frame_flash s _ (fun _ _ e => by cases e) (fun e => by cases e)
@[simp] theorem act_clearLeases_retA : (Act.clearLeases.apply s).retA = s.retA :=
  act_frame_retA s _ (fun _ _ e => by cases e) (fun e => by cases e)
@[simp] theorem act_clearLeases_retB : (Act.clearLeases.apply s).retB = s.retB :=
  act_frame_retB s _ (fun _ _ e => by cases e) (fun e => by cases e)
@[simp] theorem act_clearLeases_icon : (Act.clearLeases.apply s).icon = s.icon :=
  act_frame_icon s _ (fun _ _ e => by cases e) (fun e => by cases e)
@[simp] theorem act_clearLeases_otp : (Act.clearLeases.apply s).otp = s.otp :=
  act_frame_otp s _ (fun _ _ e => by cases e) (fun e => by cases e)
@[simp] theorem act_clearLeases_img : (Act.clearLeases.apply s).img = s.img :=
  act_frame_img s _ (fun _ _ e => by cases e) (fun e => by cases e)
@[simp] theorem act_clearLeases_ring : (Act.clearLeases.apply s).ring = s.ring :=
  act_frame_ring s _ (fun _ e => by cases e) (fun e => by cases e)
@[simp] theorem act_clearLeases_nextSeq : (Act.clearLeases.apply s).nextSeq = s.nextSeq :=
  act_frame_nextSeq s _ (fun _ e => by cases e) (fun e => by cases e)
@[simp] theorem act_clearLeases_lamp : (Act.clearLeases.apply s).lamp = s.lamp :=
  act_frame_lamp s _ (fun _ e => by cases e)
@[simp] theorem act_clearLeases_rcl : (Act.clearLeases.apply s).rcl = s.rcl :=
  act_frame_rcl s _ (fun _ e => by cases e)
@[simp] theorem act_clearLeases_boot : (Act.clearLeases.apply s).boot = s.boot :=
  act_frame_boot s _ (fun _ e => by cases e)
@[simp] theorem act_clearLeases_ave : (Act.clearLeases.apply s).ave = s.ave :=
  act_frame_ave s _ (fun _ e => by cases e)
@[simp] theorem act_clearLeases_xlt : (Act.clearLeases.apply s).xlt = s.xlt :=
  act_frame_xlt s _ (fun _ e => by cases e)
@[simp] theorem act_clearLeases_wrd : (Act.clearLeases.apply s).wrd = s.wrd :=
  act_frame_wrd s _ (fun _ e => by cases e)
@[simp] theorem act_clearLeases_xng : (Act.clearLeases.apply s).xng = s.xng :=
  act_frame_xng s _ (fun _ e => by cases e)
@[simp] theorem act_clearLeases_cam : (Act.clearLeases.apply s).cam = s.cam :=
  act_frame_cam s _ (fun _ e => by cases e)
@[simp] theorem act_clearLeases_ras : (Act.clearLeases.apply s).ras = s.ras :=
  act_frame_ras s _ (fun _ e => by cases e)
@[simp] theorem act_clearLeases_dst : (Act.clearLeases.apply s).dst = s.dst :=
  act_frame_dst s _ (fun _ e => by cases e)
@[simp] theorem act_clearLeases_rbt : (Act.clearLeases.apply s).rbt = s.rbt :=
  act_frame_rbt s _ (fun _ e => by cases e)
@[simp] theorem act_clearLeases_sco : (Act.clearLeases.apply s).sco = s.sco :=
  act_frame_sco s _ (fun _ e => by cases e)
@[simp] theorem act_clearLeases_sgn : (Act.clearLeases.apply s).sgn = s.sgn :=
  act_frame_sgn s _ (fun _ e => by cases e)
@[simp] theorem act_clearLeases_hv : (Act.clearLeases.apply s).hv = s.hv :=
  act_frame_hv s _ (fun _ e => by cases e)
@[simp] theorem act_clearLeases_can : (Act.clearLeases.apply s).can = s.can :=
  act_frame_can s _ (fun _ e => by cases e)
@[simp] theorem act_clearLeases_svc : (Act.clearLeases.apply s).svc = s.svc :=
  act_frame_svc s _ (fun _ e => by cases e)
@[simp] theorem act_clearLeases_ports : (Act.clearLeases.apply s).ports = s.ports :=
  act_frame_ports s _ (fun _ e => by cases e)
@[simp] theorem act_clearLeases_brg : (Act.clearLeases.apply s).brg = s.brg :=
  act_frame_brg s _ (fun _ e => by cases e)
@[simp] theorem act_lamp_pending (x : Lamp) : ((Act.lamp x).apply s).pending = s.pending :=
  act_frame_pending s _
@[simp] theorem act_lamp_ident (x : Lamp) : ((Act.lamp x).apply s).ident = s.ident :=
  act_frame_ident s _
@[simp] theorem act_lamp_time (x : Lamp) : ((Act.lamp x).apply s).time = s.time :=
  act_frame_time s _
@[simp] theorem act_lamp_phase (x : Lamp) : ((Act.lamp x).apply s).phase = s.phase :=
  act_frame_phase s _
@[simp] theorem act_lamp_free (x : Lamp) : ((Act.lamp x).apply s).free = s.free :=
  act_frame_free s _ (fun _ e => by cases e)
@[simp] theorem act_lamp_bus (x : Lamp) : ((Act.lamp x).apply s).bus = s.bus :=
  act_frame_bus s _ (fun _ e => by cases e)
@[simp] theorem act_lamp_regs (x : Lamp) : ((Act.lamp x).apply s).regs = s.regs :=
  act_frame_regs s _ (fun _ _ e => by cases e) (fun _ _ e => by cases e)
@[simp] theorem act_lamp_rwpPend (x : Lamp) : ((Act.lamp x).apply s).rwpPend = s.rwpPend :=
  act_frame_rwpPend s _ (fun _ _ e => by cases e) (fun _ _ e => by cases e)
@[simp] theorem act_lamp_plaza (x : Lamp) : ((Act.lamp x).apply s).plaza = s.plaza :=
  act_frame_plaza s _ (fun _ _ e => by cases e) (fun e => by cases e)
@[simp] theorem act_lamp_lpddr (x : Lamp) : ((Act.lamp x).apply s).lpddr = s.lpddr :=
  act_frame_lpddr s _ (fun _ _ e => by cases e) (fun e => by cases e)
@[simp] theorem act_lamp_flash (x : Lamp) : ((Act.lamp x).apply s).flash = s.flash :=
  act_frame_flash s _ (fun _ _ e => by cases e) (fun e => by cases e)
@[simp] theorem act_lamp_retA (x : Lamp) : ((Act.lamp x).apply s).retA = s.retA :=
  act_frame_retA s _ (fun _ _ e => by cases e) (fun e => by cases e)
@[simp] theorem act_lamp_retB (x : Lamp) : ((Act.lamp x).apply s).retB = s.retB :=
  act_frame_retB s _ (fun _ _ e => by cases e) (fun e => by cases e)
@[simp] theorem act_lamp_icon (x : Lamp) : ((Act.lamp x).apply s).icon = s.icon :=
  act_frame_icon s _ (fun _ _ e => by cases e) (fun e => by cases e)
@[simp] theorem act_lamp_otp (x : Lamp) : ((Act.lamp x).apply s).otp = s.otp :=
  act_frame_otp s _ (fun _ _ e => by cases e) (fun e => by cases e)
@[simp] theorem act_lamp_img (x : Lamp) : ((Act.lamp x).apply s).img = s.img :=
  act_frame_img s _ (fun _ _ e => by cases e) (fun e => by cases e)
@[simp] theorem act_lamp_ring (x : Lamp) : ((Act.lamp x).apply s).ring = s.ring :=
  act_frame_ring s _ (fun _ e => by cases e) (fun e => by cases e)
@[simp] theorem act_lamp_nextSeq (x : Lamp) : ((Act.lamp x).apply s).nextSeq = s.nextSeq :=
  act_frame_nextSeq s _ (fun _ e => by cases e) (fun e => by cases e)
@[simp] theorem act_lamp_leases (x : Lamp) : ((Act.lamp x).apply s).leases = s.leases :=
  act_frame_leases s _ (fun _ _ e => by cases e) (fun e => by cases e)
@[simp] theorem act_lamp_rcl (x : Lamp) : ((Act.lamp x).apply s).rcl = s.rcl :=
  act_frame_rcl s _ (fun _ e => by cases e)
@[simp] theorem act_lamp_boot (x : Lamp) : ((Act.lamp x).apply s).boot = s.boot :=
  act_frame_boot s _ (fun _ e => by cases e)
@[simp] theorem act_lamp_ave (x : Lamp) : ((Act.lamp x).apply s).ave = s.ave :=
  act_frame_ave s _ (fun _ e => by cases e)
@[simp] theorem act_lamp_xlt (x : Lamp) : ((Act.lamp x).apply s).xlt = s.xlt :=
  act_frame_xlt s _ (fun _ e => by cases e)
@[simp] theorem act_lamp_wrd (x : Lamp) : ((Act.lamp x).apply s).wrd = s.wrd :=
  act_frame_wrd s _ (fun _ e => by cases e)
@[simp] theorem act_lamp_xng (x : Lamp) : ((Act.lamp x).apply s).xng = s.xng :=
  act_frame_xng s _ (fun _ e => by cases e)
@[simp] theorem act_lamp_cam (x : Lamp) : ((Act.lamp x).apply s).cam = s.cam :=
  act_frame_cam s _ (fun _ e => by cases e)
@[simp] theorem act_lamp_ras (x : Lamp) : ((Act.lamp x).apply s).ras = s.ras :=
  act_frame_ras s _ (fun _ e => by cases e)
@[simp] theorem act_lamp_dst (x : Lamp) : ((Act.lamp x).apply s).dst = s.dst :=
  act_frame_dst s _ (fun _ e => by cases e)
@[simp] theorem act_lamp_rbt (x : Lamp) : ((Act.lamp x).apply s).rbt = s.rbt :=
  act_frame_rbt s _ (fun _ e => by cases e)
@[simp] theorem act_lamp_sco (x : Lamp) : ((Act.lamp x).apply s).sco = s.sco :=
  act_frame_sco s _ (fun _ e => by cases e)
@[simp] theorem act_lamp_sgn (x : Lamp) : ((Act.lamp x).apply s).sgn = s.sgn :=
  act_frame_sgn s _ (fun _ e => by cases e)
@[simp] theorem act_lamp_hv (x : Lamp) : ((Act.lamp x).apply s).hv = s.hv :=
  act_frame_hv s _ (fun _ e => by cases e)
@[simp] theorem act_lamp_can (x : Lamp) : ((Act.lamp x).apply s).can = s.can :=
  act_frame_can s _ (fun _ e => by cases e)
@[simp] theorem act_lamp_svc (x : Lamp) : ((Act.lamp x).apply s).svc = s.svc :=
  act_frame_svc s _ (fun _ e => by cases e)
@[simp] theorem act_lamp_ports (x : Lamp) : ((Act.lamp x).apply s).ports = s.ports :=
  act_frame_ports s _ (fun _ e => by cases e)
@[simp] theorem act_lamp_brg (x : Lamp) : ((Act.lamp x).apply s).brg = s.brg :=
  act_frame_brg s _ (fun _ e => by cases e)
@[simp] theorem act_rcl_pending (x : Rcl) : ((Act.rcl x).apply s).pending = s.pending :=
  act_frame_pending s _
@[simp] theorem act_rcl_ident (x : Rcl) : ((Act.rcl x).apply s).ident = s.ident :=
  act_frame_ident s _
@[simp] theorem act_rcl_time (x : Rcl) : ((Act.rcl x).apply s).time = s.time :=
  act_frame_time s _
@[simp] theorem act_rcl_phase (x : Rcl) : ((Act.rcl x).apply s).phase = s.phase :=
  act_frame_phase s _
@[simp] theorem act_rcl_free (x : Rcl) : ((Act.rcl x).apply s).free = s.free :=
  act_frame_free s _ (fun _ e => by cases e)
@[simp] theorem act_rcl_bus (x : Rcl) : ((Act.rcl x).apply s).bus = s.bus :=
  act_frame_bus s _ (fun _ e => by cases e)
@[simp] theorem act_rcl_regs (x : Rcl) : ((Act.rcl x).apply s).regs = s.regs :=
  act_frame_regs s _ (fun _ _ e => by cases e) (fun _ _ e => by cases e)
@[simp] theorem act_rcl_rwpPend (x : Rcl) : ((Act.rcl x).apply s).rwpPend = s.rwpPend :=
  act_frame_rwpPend s _ (fun _ _ e => by cases e) (fun _ _ e => by cases e)
@[simp] theorem act_rcl_plaza (x : Rcl) : ((Act.rcl x).apply s).plaza = s.plaza :=
  act_frame_plaza s _ (fun _ _ e => by cases e) (fun e => by cases e)
@[simp] theorem act_rcl_lpddr (x : Rcl) : ((Act.rcl x).apply s).lpddr = s.lpddr :=
  act_frame_lpddr s _ (fun _ _ e => by cases e) (fun e => by cases e)
@[simp] theorem act_rcl_flash (x : Rcl) : ((Act.rcl x).apply s).flash = s.flash :=
  act_frame_flash s _ (fun _ _ e => by cases e) (fun e => by cases e)
@[simp] theorem act_rcl_retA (x : Rcl) : ((Act.rcl x).apply s).retA = s.retA :=
  act_frame_retA s _ (fun _ _ e => by cases e) (fun e => by cases e)
@[simp] theorem act_rcl_retB (x : Rcl) : ((Act.rcl x).apply s).retB = s.retB :=
  act_frame_retB s _ (fun _ _ e => by cases e) (fun e => by cases e)
@[simp] theorem act_rcl_icon (x : Rcl) : ((Act.rcl x).apply s).icon = s.icon :=
  act_frame_icon s _ (fun _ _ e => by cases e) (fun e => by cases e)
@[simp] theorem act_rcl_otp (x : Rcl) : ((Act.rcl x).apply s).otp = s.otp :=
  act_frame_otp s _ (fun _ _ e => by cases e) (fun e => by cases e)
@[simp] theorem act_rcl_img (x : Rcl) : ((Act.rcl x).apply s).img = s.img :=
  act_frame_img s _ (fun _ _ e => by cases e) (fun e => by cases e)
@[simp] theorem act_rcl_ring (x : Rcl) : ((Act.rcl x).apply s).ring = s.ring :=
  act_frame_ring s _ (fun _ e => by cases e) (fun e => by cases e)
@[simp] theorem act_rcl_nextSeq (x : Rcl) : ((Act.rcl x).apply s).nextSeq = s.nextSeq :=
  act_frame_nextSeq s _ (fun _ e => by cases e) (fun e => by cases e)
@[simp] theorem act_rcl_leases (x : Rcl) : ((Act.rcl x).apply s).leases = s.leases :=
  act_frame_leases s _ (fun _ _ e => by cases e) (fun e => by cases e)
@[simp] theorem act_rcl_lamp (x : Rcl) : ((Act.rcl x).apply s).lamp = s.lamp :=
  act_frame_lamp s _ (fun _ e => by cases e)
@[simp] theorem act_rcl_boot (x : Rcl) : ((Act.rcl x).apply s).boot = s.boot :=
  act_frame_boot s _ (fun _ e => by cases e)
@[simp] theorem act_rcl_ave (x : Rcl) : ((Act.rcl x).apply s).ave = s.ave :=
  act_frame_ave s _ (fun _ e => by cases e)
@[simp] theorem act_rcl_xlt (x : Rcl) : ((Act.rcl x).apply s).xlt = s.xlt :=
  act_frame_xlt s _ (fun _ e => by cases e)
@[simp] theorem act_rcl_wrd (x : Rcl) : ((Act.rcl x).apply s).wrd = s.wrd :=
  act_frame_wrd s _ (fun _ e => by cases e)
@[simp] theorem act_rcl_xng (x : Rcl) : ((Act.rcl x).apply s).xng = s.xng :=
  act_frame_xng s _ (fun _ e => by cases e)
@[simp] theorem act_rcl_cam (x : Rcl) : ((Act.rcl x).apply s).cam = s.cam :=
  act_frame_cam s _ (fun _ e => by cases e)
@[simp] theorem act_rcl_ras (x : Rcl) : ((Act.rcl x).apply s).ras = s.ras :=
  act_frame_ras s _ (fun _ e => by cases e)
@[simp] theorem act_rcl_dst (x : Rcl) : ((Act.rcl x).apply s).dst = s.dst :=
  act_frame_dst s _ (fun _ e => by cases e)
@[simp] theorem act_rcl_rbt (x : Rcl) : ((Act.rcl x).apply s).rbt = s.rbt :=
  act_frame_rbt s _ (fun _ e => by cases e)
@[simp] theorem act_rcl_sco (x : Rcl) : ((Act.rcl x).apply s).sco = s.sco :=
  act_frame_sco s _ (fun _ e => by cases e)
@[simp] theorem act_rcl_sgn (x : Rcl) : ((Act.rcl x).apply s).sgn = s.sgn :=
  act_frame_sgn s _ (fun _ e => by cases e)
@[simp] theorem act_rcl_hv (x : Rcl) : ((Act.rcl x).apply s).hv = s.hv :=
  act_frame_hv s _ (fun _ e => by cases e)
@[simp] theorem act_rcl_can (x : Rcl) : ((Act.rcl x).apply s).can = s.can :=
  act_frame_can s _ (fun _ e => by cases e)
@[simp] theorem act_rcl_svc (x : Rcl) : ((Act.rcl x).apply s).svc = s.svc :=
  act_frame_svc s _ (fun _ e => by cases e)
@[simp] theorem act_rcl_ports (x : Rcl) : ((Act.rcl x).apply s).ports = s.ports :=
  act_frame_ports s _ (fun _ e => by cases e)
@[simp] theorem act_rcl_brg (x : Rcl) : ((Act.rcl x).apply s).brg = s.brg :=
  act_frame_brg s _ (fun _ e => by cases e)
@[simp] theorem act_boot_pending (x : Boot) : ((Act.boot x).apply s).pending = s.pending :=
  act_frame_pending s _
@[simp] theorem act_boot_ident (x : Boot) : ((Act.boot x).apply s).ident = s.ident :=
  act_frame_ident s _
@[simp] theorem act_boot_time (x : Boot) : ((Act.boot x).apply s).time = s.time :=
  act_frame_time s _
@[simp] theorem act_boot_phase (x : Boot) : ((Act.boot x).apply s).phase = s.phase :=
  act_frame_phase s _
@[simp] theorem act_boot_free (x : Boot) : ((Act.boot x).apply s).free = s.free :=
  act_frame_free s _ (fun _ e => by cases e)
@[simp] theorem act_boot_bus (x : Boot) : ((Act.boot x).apply s).bus = s.bus :=
  act_frame_bus s _ (fun _ e => by cases e)
@[simp] theorem act_boot_regs (x : Boot) : ((Act.boot x).apply s).regs = s.regs :=
  act_frame_regs s _ (fun _ _ e => by cases e) (fun _ _ e => by cases e)
@[simp] theorem act_boot_rwpPend (x : Boot) : ((Act.boot x).apply s).rwpPend = s.rwpPend :=
  act_frame_rwpPend s _ (fun _ _ e => by cases e) (fun _ _ e => by cases e)
@[simp] theorem act_boot_plaza (x : Boot) : ((Act.boot x).apply s).plaza = s.plaza :=
  act_frame_plaza s _ (fun _ _ e => by cases e) (fun e => by cases e)
@[simp] theorem act_boot_lpddr (x : Boot) : ((Act.boot x).apply s).lpddr = s.lpddr :=
  act_frame_lpddr s _ (fun _ _ e => by cases e) (fun e => by cases e)
@[simp] theorem act_boot_flash (x : Boot) : ((Act.boot x).apply s).flash = s.flash :=
  act_frame_flash s _ (fun _ _ e => by cases e) (fun e => by cases e)
@[simp] theorem act_boot_retA (x : Boot) : ((Act.boot x).apply s).retA = s.retA :=
  act_frame_retA s _ (fun _ _ e => by cases e) (fun e => by cases e)
@[simp] theorem act_boot_retB (x : Boot) : ((Act.boot x).apply s).retB = s.retB :=
  act_frame_retB s _ (fun _ _ e => by cases e) (fun e => by cases e)
@[simp] theorem act_boot_icon (x : Boot) : ((Act.boot x).apply s).icon = s.icon :=
  act_frame_icon s _ (fun _ _ e => by cases e) (fun e => by cases e)
@[simp] theorem act_boot_otp (x : Boot) : ((Act.boot x).apply s).otp = s.otp :=
  act_frame_otp s _ (fun _ _ e => by cases e) (fun e => by cases e)
@[simp] theorem act_boot_img (x : Boot) : ((Act.boot x).apply s).img = s.img :=
  act_frame_img s _ (fun _ _ e => by cases e) (fun e => by cases e)
@[simp] theorem act_boot_ring (x : Boot) : ((Act.boot x).apply s).ring = s.ring :=
  act_frame_ring s _ (fun _ e => by cases e) (fun e => by cases e)
@[simp] theorem act_boot_nextSeq (x : Boot) : ((Act.boot x).apply s).nextSeq = s.nextSeq :=
  act_frame_nextSeq s _ (fun _ e => by cases e) (fun e => by cases e)
@[simp] theorem act_boot_leases (x : Boot) : ((Act.boot x).apply s).leases = s.leases :=
  act_frame_leases s _ (fun _ _ e => by cases e) (fun e => by cases e)
@[simp] theorem act_boot_lamp (x : Boot) : ((Act.boot x).apply s).lamp = s.lamp :=
  act_frame_lamp s _ (fun _ e => by cases e)
@[simp] theorem act_boot_rcl (x : Boot) : ((Act.boot x).apply s).rcl = s.rcl :=
  act_frame_rcl s _ (fun _ e => by cases e)
@[simp] theorem act_boot_ave (x : Boot) : ((Act.boot x).apply s).ave = s.ave :=
  act_frame_ave s _ (fun _ e => by cases e)
@[simp] theorem act_boot_xlt (x : Boot) : ((Act.boot x).apply s).xlt = s.xlt :=
  act_frame_xlt s _ (fun _ e => by cases e)
@[simp] theorem act_boot_wrd (x : Boot) : ((Act.boot x).apply s).wrd = s.wrd :=
  act_frame_wrd s _ (fun _ e => by cases e)
@[simp] theorem act_boot_xng (x : Boot) : ((Act.boot x).apply s).xng = s.xng :=
  act_frame_xng s _ (fun _ e => by cases e)
@[simp] theorem act_boot_cam (x : Boot) : ((Act.boot x).apply s).cam = s.cam :=
  act_frame_cam s _ (fun _ e => by cases e)
@[simp] theorem act_boot_ras (x : Boot) : ((Act.boot x).apply s).ras = s.ras :=
  act_frame_ras s _ (fun _ e => by cases e)
@[simp] theorem act_boot_dst (x : Boot) : ((Act.boot x).apply s).dst = s.dst :=
  act_frame_dst s _ (fun _ e => by cases e)
@[simp] theorem act_boot_rbt (x : Boot) : ((Act.boot x).apply s).rbt = s.rbt :=
  act_frame_rbt s _ (fun _ e => by cases e)
@[simp] theorem act_boot_sco (x : Boot) : ((Act.boot x).apply s).sco = s.sco :=
  act_frame_sco s _ (fun _ e => by cases e)
@[simp] theorem act_boot_sgn (x : Boot) : ((Act.boot x).apply s).sgn = s.sgn :=
  act_frame_sgn s _ (fun _ e => by cases e)
@[simp] theorem act_boot_hv (x : Boot) : ((Act.boot x).apply s).hv = s.hv :=
  act_frame_hv s _ (fun _ e => by cases e)
@[simp] theorem act_boot_can (x : Boot) : ((Act.boot x).apply s).can = s.can :=
  act_frame_can s _ (fun _ e => by cases e)
@[simp] theorem act_boot_svc (x : Boot) : ((Act.boot x).apply s).svc = s.svc :=
  act_frame_svc s _ (fun _ e => by cases e)
@[simp] theorem act_boot_ports (x : Boot) : ((Act.boot x).apply s).ports = s.ports :=
  act_frame_ports s _ (fun _ e => by cases e)
@[simp] theorem act_boot_brg (x : Boot) : ((Act.boot x).apply s).brg = s.brg :=
  act_frame_brg s _ (fun _ e => by cases e)
@[simp] theorem act_ave_pending (x : Ave) : ((Act.ave x).apply s).pending = s.pending :=
  act_frame_pending s _
@[simp] theorem act_ave_ident (x : Ave) : ((Act.ave x).apply s).ident = s.ident :=
  act_frame_ident s _
@[simp] theorem act_ave_time (x : Ave) : ((Act.ave x).apply s).time = s.time :=
  act_frame_time s _
@[simp] theorem act_ave_phase (x : Ave) : ((Act.ave x).apply s).phase = s.phase :=
  act_frame_phase s _
@[simp] theorem act_ave_free (x : Ave) : ((Act.ave x).apply s).free = s.free :=
  act_frame_free s _ (fun _ e => by cases e)
@[simp] theorem act_ave_bus (x : Ave) : ((Act.ave x).apply s).bus = s.bus :=
  act_frame_bus s _ (fun _ e => by cases e)
@[simp] theorem act_ave_regs (x : Ave) : ((Act.ave x).apply s).regs = s.regs :=
  act_frame_regs s _ (fun _ _ e => by cases e) (fun _ _ e => by cases e)
@[simp] theorem act_ave_rwpPend (x : Ave) : ((Act.ave x).apply s).rwpPend = s.rwpPend :=
  act_frame_rwpPend s _ (fun _ _ e => by cases e) (fun _ _ e => by cases e)
@[simp] theorem act_ave_plaza (x : Ave) : ((Act.ave x).apply s).plaza = s.plaza :=
  act_frame_plaza s _ (fun _ _ e => by cases e) (fun e => by cases e)
@[simp] theorem act_ave_lpddr (x : Ave) : ((Act.ave x).apply s).lpddr = s.lpddr :=
  act_frame_lpddr s _ (fun _ _ e => by cases e) (fun e => by cases e)
@[simp] theorem act_ave_flash (x : Ave) : ((Act.ave x).apply s).flash = s.flash :=
  act_frame_flash s _ (fun _ _ e => by cases e) (fun e => by cases e)
@[simp] theorem act_ave_retA (x : Ave) : ((Act.ave x).apply s).retA = s.retA :=
  act_frame_retA s _ (fun _ _ e => by cases e) (fun e => by cases e)
@[simp] theorem act_ave_retB (x : Ave) : ((Act.ave x).apply s).retB = s.retB :=
  act_frame_retB s _ (fun _ _ e => by cases e) (fun e => by cases e)
@[simp] theorem act_ave_icon (x : Ave) : ((Act.ave x).apply s).icon = s.icon :=
  act_frame_icon s _ (fun _ _ e => by cases e) (fun e => by cases e)
@[simp] theorem act_ave_otp (x : Ave) : ((Act.ave x).apply s).otp = s.otp :=
  act_frame_otp s _ (fun _ _ e => by cases e) (fun e => by cases e)
@[simp] theorem act_ave_img (x : Ave) : ((Act.ave x).apply s).img = s.img :=
  act_frame_img s _ (fun _ _ e => by cases e) (fun e => by cases e)
@[simp] theorem act_ave_ring (x : Ave) : ((Act.ave x).apply s).ring = s.ring :=
  act_frame_ring s _ (fun _ e => by cases e) (fun e => by cases e)
@[simp] theorem act_ave_nextSeq (x : Ave) : ((Act.ave x).apply s).nextSeq = s.nextSeq :=
  act_frame_nextSeq s _ (fun _ e => by cases e) (fun e => by cases e)
@[simp] theorem act_ave_leases (x : Ave) : ((Act.ave x).apply s).leases = s.leases :=
  act_frame_leases s _ (fun _ _ e => by cases e) (fun e => by cases e)
@[simp] theorem act_ave_lamp (x : Ave) : ((Act.ave x).apply s).lamp = s.lamp :=
  act_frame_lamp s _ (fun _ e => by cases e)
@[simp] theorem act_ave_rcl (x : Ave) : ((Act.ave x).apply s).rcl = s.rcl :=
  act_frame_rcl s _ (fun _ e => by cases e)
@[simp] theorem act_ave_boot (x : Ave) : ((Act.ave x).apply s).boot = s.boot :=
  act_frame_boot s _ (fun _ e => by cases e)
@[simp] theorem act_ave_xlt (x : Ave) : ((Act.ave x).apply s).xlt = s.xlt :=
  act_frame_xlt s _ (fun _ e => by cases e)
@[simp] theorem act_ave_wrd (x : Ave) : ((Act.ave x).apply s).wrd = s.wrd :=
  act_frame_wrd s _ (fun _ e => by cases e)
@[simp] theorem act_ave_xng (x : Ave) : ((Act.ave x).apply s).xng = s.xng :=
  act_frame_xng s _ (fun _ e => by cases e)
@[simp] theorem act_ave_cam (x : Ave) : ((Act.ave x).apply s).cam = s.cam :=
  act_frame_cam s _ (fun _ e => by cases e)
@[simp] theorem act_ave_ras (x : Ave) : ((Act.ave x).apply s).ras = s.ras :=
  act_frame_ras s _ (fun _ e => by cases e)
@[simp] theorem act_ave_dst (x : Ave) : ((Act.ave x).apply s).dst = s.dst :=
  act_frame_dst s _ (fun _ e => by cases e)
@[simp] theorem act_ave_rbt (x : Ave) : ((Act.ave x).apply s).rbt = s.rbt :=
  act_frame_rbt s _ (fun _ e => by cases e)
@[simp] theorem act_ave_sco (x : Ave) : ((Act.ave x).apply s).sco = s.sco :=
  act_frame_sco s _ (fun _ e => by cases e)
@[simp] theorem act_ave_sgn (x : Ave) : ((Act.ave x).apply s).sgn = s.sgn :=
  act_frame_sgn s _ (fun _ e => by cases e)
@[simp] theorem act_ave_hv (x : Ave) : ((Act.ave x).apply s).hv = s.hv :=
  act_frame_hv s _ (fun _ e => by cases e)
@[simp] theorem act_ave_can (x : Ave) : ((Act.ave x).apply s).can = s.can :=
  act_frame_can s _ (fun _ e => by cases e)
@[simp] theorem act_ave_svc (x : Ave) : ((Act.ave x).apply s).svc = s.svc :=
  act_frame_svc s _ (fun _ e => by cases e)
@[simp] theorem act_ave_ports (x : Ave) : ((Act.ave x).apply s).ports = s.ports :=
  act_frame_ports s _ (fun _ e => by cases e)
@[simp] theorem act_ave_brg (x : Ave) : ((Act.ave x).apply s).brg = s.brg :=
  act_frame_brg s _ (fun _ e => by cases e)
@[simp] theorem act_xlt_pending (x : Xlt) : ((Act.xlt x).apply s).pending = s.pending :=
  act_frame_pending s _
@[simp] theorem act_xlt_ident (x : Xlt) : ((Act.xlt x).apply s).ident = s.ident :=
  act_frame_ident s _
@[simp] theorem act_xlt_time (x : Xlt) : ((Act.xlt x).apply s).time = s.time :=
  act_frame_time s _
@[simp] theorem act_xlt_phase (x : Xlt) : ((Act.xlt x).apply s).phase = s.phase :=
  act_frame_phase s _
@[simp] theorem act_xlt_free (x : Xlt) : ((Act.xlt x).apply s).free = s.free :=
  act_frame_free s _ (fun _ e => by cases e)
@[simp] theorem act_xlt_bus (x : Xlt) : ((Act.xlt x).apply s).bus = s.bus :=
  act_frame_bus s _ (fun _ e => by cases e)
@[simp] theorem act_xlt_regs (x : Xlt) : ((Act.xlt x).apply s).regs = s.regs :=
  act_frame_regs s _ (fun _ _ e => by cases e) (fun _ _ e => by cases e)
@[simp] theorem act_xlt_rwpPend (x : Xlt) : ((Act.xlt x).apply s).rwpPend = s.rwpPend :=
  act_frame_rwpPend s _ (fun _ _ e => by cases e) (fun _ _ e => by cases e)
@[simp] theorem act_xlt_plaza (x : Xlt) : ((Act.xlt x).apply s).plaza = s.plaza :=
  act_frame_plaza s _ (fun _ _ e => by cases e) (fun e => by cases e)
@[simp] theorem act_xlt_lpddr (x : Xlt) : ((Act.xlt x).apply s).lpddr = s.lpddr :=
  act_frame_lpddr s _ (fun _ _ e => by cases e) (fun e => by cases e)
@[simp] theorem act_xlt_flash (x : Xlt) : ((Act.xlt x).apply s).flash = s.flash :=
  act_frame_flash s _ (fun _ _ e => by cases e) (fun e => by cases e)
@[simp] theorem act_xlt_retA (x : Xlt) : ((Act.xlt x).apply s).retA = s.retA :=
  act_frame_retA s _ (fun _ _ e => by cases e) (fun e => by cases e)
@[simp] theorem act_xlt_retB (x : Xlt) : ((Act.xlt x).apply s).retB = s.retB :=
  act_frame_retB s _ (fun _ _ e => by cases e) (fun e => by cases e)
@[simp] theorem act_xlt_icon (x : Xlt) : ((Act.xlt x).apply s).icon = s.icon :=
  act_frame_icon s _ (fun _ _ e => by cases e) (fun e => by cases e)
@[simp] theorem act_xlt_otp (x : Xlt) : ((Act.xlt x).apply s).otp = s.otp :=
  act_frame_otp s _ (fun _ _ e => by cases e) (fun e => by cases e)
@[simp] theorem act_xlt_img (x : Xlt) : ((Act.xlt x).apply s).img = s.img :=
  act_frame_img s _ (fun _ _ e => by cases e) (fun e => by cases e)
@[simp] theorem act_xlt_ring (x : Xlt) : ((Act.xlt x).apply s).ring = s.ring :=
  act_frame_ring s _ (fun _ e => by cases e) (fun e => by cases e)
@[simp] theorem act_xlt_nextSeq (x : Xlt) : ((Act.xlt x).apply s).nextSeq = s.nextSeq :=
  act_frame_nextSeq s _ (fun _ e => by cases e) (fun e => by cases e)
@[simp] theorem act_xlt_leases (x : Xlt) : ((Act.xlt x).apply s).leases = s.leases :=
  act_frame_leases s _ (fun _ _ e => by cases e) (fun e => by cases e)
@[simp] theorem act_xlt_lamp (x : Xlt) : ((Act.xlt x).apply s).lamp = s.lamp :=
  act_frame_lamp s _ (fun _ e => by cases e)
@[simp] theorem act_xlt_rcl (x : Xlt) : ((Act.xlt x).apply s).rcl = s.rcl :=
  act_frame_rcl s _ (fun _ e => by cases e)
@[simp] theorem act_xlt_boot (x : Xlt) : ((Act.xlt x).apply s).boot = s.boot :=
  act_frame_boot s _ (fun _ e => by cases e)
@[simp] theorem act_xlt_ave (x : Xlt) : ((Act.xlt x).apply s).ave = s.ave :=
  act_frame_ave s _ (fun _ e => by cases e)
@[simp] theorem act_xlt_wrd (x : Xlt) : ((Act.xlt x).apply s).wrd = s.wrd :=
  act_frame_wrd s _ (fun _ e => by cases e)
@[simp] theorem act_xlt_xng (x : Xlt) : ((Act.xlt x).apply s).xng = s.xng :=
  act_frame_xng s _ (fun _ e => by cases e)
@[simp] theorem act_xlt_cam (x : Xlt) : ((Act.xlt x).apply s).cam = s.cam :=
  act_frame_cam s _ (fun _ e => by cases e)
@[simp] theorem act_xlt_ras (x : Xlt) : ((Act.xlt x).apply s).ras = s.ras :=
  act_frame_ras s _ (fun _ e => by cases e)
@[simp] theorem act_xlt_dst (x : Xlt) : ((Act.xlt x).apply s).dst = s.dst :=
  act_frame_dst s _ (fun _ e => by cases e)
@[simp] theorem act_xlt_rbt (x : Xlt) : ((Act.xlt x).apply s).rbt = s.rbt :=
  act_frame_rbt s _ (fun _ e => by cases e)
@[simp] theorem act_xlt_sco (x : Xlt) : ((Act.xlt x).apply s).sco = s.sco :=
  act_frame_sco s _ (fun _ e => by cases e)
@[simp] theorem act_xlt_sgn (x : Xlt) : ((Act.xlt x).apply s).sgn = s.sgn :=
  act_frame_sgn s _ (fun _ e => by cases e)
@[simp] theorem act_xlt_hv (x : Xlt) : ((Act.xlt x).apply s).hv = s.hv :=
  act_frame_hv s _ (fun _ e => by cases e)
@[simp] theorem act_xlt_can (x : Xlt) : ((Act.xlt x).apply s).can = s.can :=
  act_frame_can s _ (fun _ e => by cases e)
@[simp] theorem act_xlt_svc (x : Xlt) : ((Act.xlt x).apply s).svc = s.svc :=
  act_frame_svc s _ (fun _ e => by cases e)
@[simp] theorem act_xlt_ports (x : Xlt) : ((Act.xlt x).apply s).ports = s.ports :=
  act_frame_ports s _ (fun _ e => by cases e)
@[simp] theorem act_xlt_brg (x : Xlt) : ((Act.xlt x).apply s).brg = s.brg :=
  act_frame_brg s _ (fun _ e => by cases e)
@[simp] theorem act_wrd_pending (x : Wrd) : ((Act.wrd x).apply s).pending = s.pending :=
  act_frame_pending s _
@[simp] theorem act_wrd_ident (x : Wrd) : ((Act.wrd x).apply s).ident = s.ident :=
  act_frame_ident s _
@[simp] theorem act_wrd_time (x : Wrd) : ((Act.wrd x).apply s).time = s.time :=
  act_frame_time s _
@[simp] theorem act_wrd_phase (x : Wrd) : ((Act.wrd x).apply s).phase = s.phase :=
  act_frame_phase s _
@[simp] theorem act_wrd_free (x : Wrd) : ((Act.wrd x).apply s).free = s.free :=
  act_frame_free s _ (fun _ e => by cases e)
@[simp] theorem act_wrd_bus (x : Wrd) : ((Act.wrd x).apply s).bus = s.bus :=
  act_frame_bus s _ (fun _ e => by cases e)
@[simp] theorem act_wrd_regs (x : Wrd) : ((Act.wrd x).apply s).regs = s.regs :=
  act_frame_regs s _ (fun _ _ e => by cases e) (fun _ _ e => by cases e)
@[simp] theorem act_wrd_rwpPend (x : Wrd) : ((Act.wrd x).apply s).rwpPend = s.rwpPend :=
  act_frame_rwpPend s _ (fun _ _ e => by cases e) (fun _ _ e => by cases e)
@[simp] theorem act_wrd_plaza (x : Wrd) : ((Act.wrd x).apply s).plaza = s.plaza :=
  act_frame_plaza s _ (fun _ _ e => by cases e) (fun e => by cases e)
@[simp] theorem act_wrd_lpddr (x : Wrd) : ((Act.wrd x).apply s).lpddr = s.lpddr :=
  act_frame_lpddr s _ (fun _ _ e => by cases e) (fun e => by cases e)
@[simp] theorem act_wrd_flash (x : Wrd) : ((Act.wrd x).apply s).flash = s.flash :=
  act_frame_flash s _ (fun _ _ e => by cases e) (fun e => by cases e)
@[simp] theorem act_wrd_retA (x : Wrd) : ((Act.wrd x).apply s).retA = s.retA :=
  act_frame_retA s _ (fun _ _ e => by cases e) (fun e => by cases e)
@[simp] theorem act_wrd_retB (x : Wrd) : ((Act.wrd x).apply s).retB = s.retB :=
  act_frame_retB s _ (fun _ _ e => by cases e) (fun e => by cases e)
@[simp] theorem act_wrd_icon (x : Wrd) : ((Act.wrd x).apply s).icon = s.icon :=
  act_frame_icon s _ (fun _ _ e => by cases e) (fun e => by cases e)
@[simp] theorem act_wrd_otp (x : Wrd) : ((Act.wrd x).apply s).otp = s.otp :=
  act_frame_otp s _ (fun _ _ e => by cases e) (fun e => by cases e)
@[simp] theorem act_wrd_img (x : Wrd) : ((Act.wrd x).apply s).img = s.img :=
  act_frame_img s _ (fun _ _ e => by cases e) (fun e => by cases e)
@[simp] theorem act_wrd_ring (x : Wrd) : ((Act.wrd x).apply s).ring = s.ring :=
  act_frame_ring s _ (fun _ e => by cases e) (fun e => by cases e)
@[simp] theorem act_wrd_nextSeq (x : Wrd) : ((Act.wrd x).apply s).nextSeq = s.nextSeq :=
  act_frame_nextSeq s _ (fun _ e => by cases e) (fun e => by cases e)
@[simp] theorem act_wrd_leases (x : Wrd) : ((Act.wrd x).apply s).leases = s.leases :=
  act_frame_leases s _ (fun _ _ e => by cases e) (fun e => by cases e)
@[simp] theorem act_wrd_lamp (x : Wrd) : ((Act.wrd x).apply s).lamp = s.lamp :=
  act_frame_lamp s _ (fun _ e => by cases e)
@[simp] theorem act_wrd_rcl (x : Wrd) : ((Act.wrd x).apply s).rcl = s.rcl :=
  act_frame_rcl s _ (fun _ e => by cases e)
@[simp] theorem act_wrd_boot (x : Wrd) : ((Act.wrd x).apply s).boot = s.boot :=
  act_frame_boot s _ (fun _ e => by cases e)
@[simp] theorem act_wrd_ave (x : Wrd) : ((Act.wrd x).apply s).ave = s.ave :=
  act_frame_ave s _ (fun _ e => by cases e)
@[simp] theorem act_wrd_xlt (x : Wrd) : ((Act.wrd x).apply s).xlt = s.xlt :=
  act_frame_xlt s _ (fun _ e => by cases e)
@[simp] theorem act_wrd_xng (x : Wrd) : ((Act.wrd x).apply s).xng = s.xng :=
  act_frame_xng s _ (fun _ e => by cases e)
@[simp] theorem act_wrd_cam (x : Wrd) : ((Act.wrd x).apply s).cam = s.cam :=
  act_frame_cam s _ (fun _ e => by cases e)
@[simp] theorem act_wrd_ras (x : Wrd) : ((Act.wrd x).apply s).ras = s.ras :=
  act_frame_ras s _ (fun _ e => by cases e)
@[simp] theorem act_wrd_dst (x : Wrd) : ((Act.wrd x).apply s).dst = s.dst :=
  act_frame_dst s _ (fun _ e => by cases e)
@[simp] theorem act_wrd_rbt (x : Wrd) : ((Act.wrd x).apply s).rbt = s.rbt :=
  act_frame_rbt s _ (fun _ e => by cases e)
@[simp] theorem act_wrd_sco (x : Wrd) : ((Act.wrd x).apply s).sco = s.sco :=
  act_frame_sco s _ (fun _ e => by cases e)
@[simp] theorem act_wrd_sgn (x : Wrd) : ((Act.wrd x).apply s).sgn = s.sgn :=
  act_frame_sgn s _ (fun _ e => by cases e)
@[simp] theorem act_wrd_hv (x : Wrd) : ((Act.wrd x).apply s).hv = s.hv :=
  act_frame_hv s _ (fun _ e => by cases e)
@[simp] theorem act_wrd_can (x : Wrd) : ((Act.wrd x).apply s).can = s.can :=
  act_frame_can s _ (fun _ e => by cases e)
@[simp] theorem act_wrd_svc (x : Wrd) : ((Act.wrd x).apply s).svc = s.svc :=
  act_frame_svc s _ (fun _ e => by cases e)
@[simp] theorem act_wrd_ports (x : Wrd) : ((Act.wrd x).apply s).ports = s.ports :=
  act_frame_ports s _ (fun _ e => by cases e)
@[simp] theorem act_wrd_brg (x : Wrd) : ((Act.wrd x).apply s).brg = s.brg :=
  act_frame_brg s _ (fun _ e => by cases e)
@[simp] theorem act_xng_pending (x : Xng) : ((Act.xng x).apply s).pending = s.pending :=
  act_frame_pending s _
@[simp] theorem act_xng_ident (x : Xng) : ((Act.xng x).apply s).ident = s.ident :=
  act_frame_ident s _
@[simp] theorem act_xng_time (x : Xng) : ((Act.xng x).apply s).time = s.time :=
  act_frame_time s _
@[simp] theorem act_xng_phase (x : Xng) : ((Act.xng x).apply s).phase = s.phase :=
  act_frame_phase s _
@[simp] theorem act_xng_free (x : Xng) : ((Act.xng x).apply s).free = s.free :=
  act_frame_free s _ (fun _ e => by cases e)
@[simp] theorem act_xng_bus (x : Xng) : ((Act.xng x).apply s).bus = s.bus :=
  act_frame_bus s _ (fun _ e => by cases e)
@[simp] theorem act_xng_regs (x : Xng) : ((Act.xng x).apply s).regs = s.regs :=
  act_frame_regs s _ (fun _ _ e => by cases e) (fun _ _ e => by cases e)
@[simp] theorem act_xng_rwpPend (x : Xng) : ((Act.xng x).apply s).rwpPend = s.rwpPend :=
  act_frame_rwpPend s _ (fun _ _ e => by cases e) (fun _ _ e => by cases e)
@[simp] theorem act_xng_plaza (x : Xng) : ((Act.xng x).apply s).plaza = s.plaza :=
  act_frame_plaza s _ (fun _ _ e => by cases e) (fun e => by cases e)
@[simp] theorem act_xng_lpddr (x : Xng) : ((Act.xng x).apply s).lpddr = s.lpddr :=
  act_frame_lpddr s _ (fun _ _ e => by cases e) (fun e => by cases e)
@[simp] theorem act_xng_flash (x : Xng) : ((Act.xng x).apply s).flash = s.flash :=
  act_frame_flash s _ (fun _ _ e => by cases e) (fun e => by cases e)
@[simp] theorem act_xng_retA (x : Xng) : ((Act.xng x).apply s).retA = s.retA :=
  act_frame_retA s _ (fun _ _ e => by cases e) (fun e => by cases e)
@[simp] theorem act_xng_retB (x : Xng) : ((Act.xng x).apply s).retB = s.retB :=
  act_frame_retB s _ (fun _ _ e => by cases e) (fun e => by cases e)
@[simp] theorem act_xng_icon (x : Xng) : ((Act.xng x).apply s).icon = s.icon :=
  act_frame_icon s _ (fun _ _ e => by cases e) (fun e => by cases e)
@[simp] theorem act_xng_otp (x : Xng) : ((Act.xng x).apply s).otp = s.otp :=
  act_frame_otp s _ (fun _ _ e => by cases e) (fun e => by cases e)
@[simp] theorem act_xng_img (x : Xng) : ((Act.xng x).apply s).img = s.img :=
  act_frame_img s _ (fun _ _ e => by cases e) (fun e => by cases e)
@[simp] theorem act_xng_ring (x : Xng) : ((Act.xng x).apply s).ring = s.ring :=
  act_frame_ring s _ (fun _ e => by cases e) (fun e => by cases e)
@[simp] theorem act_xng_nextSeq (x : Xng) : ((Act.xng x).apply s).nextSeq = s.nextSeq :=
  act_frame_nextSeq s _ (fun _ e => by cases e) (fun e => by cases e)
@[simp] theorem act_xng_leases (x : Xng) : ((Act.xng x).apply s).leases = s.leases :=
  act_frame_leases s _ (fun _ _ e => by cases e) (fun e => by cases e)
@[simp] theorem act_xng_lamp (x : Xng) : ((Act.xng x).apply s).lamp = s.lamp :=
  act_frame_lamp s _ (fun _ e => by cases e)
@[simp] theorem act_xng_rcl (x : Xng) : ((Act.xng x).apply s).rcl = s.rcl :=
  act_frame_rcl s _ (fun _ e => by cases e)
@[simp] theorem act_xng_boot (x : Xng) : ((Act.xng x).apply s).boot = s.boot :=
  act_frame_boot s _ (fun _ e => by cases e)
@[simp] theorem act_xng_ave (x : Xng) : ((Act.xng x).apply s).ave = s.ave :=
  act_frame_ave s _ (fun _ e => by cases e)
@[simp] theorem act_xng_xlt (x : Xng) : ((Act.xng x).apply s).xlt = s.xlt :=
  act_frame_xlt s _ (fun _ e => by cases e)
@[simp] theorem act_xng_wrd (x : Xng) : ((Act.xng x).apply s).wrd = s.wrd :=
  act_frame_wrd s _ (fun _ e => by cases e)
@[simp] theorem act_xng_cam (x : Xng) : ((Act.xng x).apply s).cam = s.cam :=
  act_frame_cam s _ (fun _ e => by cases e)
@[simp] theorem act_xng_ras (x : Xng) : ((Act.xng x).apply s).ras = s.ras :=
  act_frame_ras s _ (fun _ e => by cases e)
@[simp] theorem act_xng_dst (x : Xng) : ((Act.xng x).apply s).dst = s.dst :=
  act_frame_dst s _ (fun _ e => by cases e)
@[simp] theorem act_xng_rbt (x : Xng) : ((Act.xng x).apply s).rbt = s.rbt :=
  act_frame_rbt s _ (fun _ e => by cases e)
@[simp] theorem act_xng_sco (x : Xng) : ((Act.xng x).apply s).sco = s.sco :=
  act_frame_sco s _ (fun _ e => by cases e)
@[simp] theorem act_xng_sgn (x : Xng) : ((Act.xng x).apply s).sgn = s.sgn :=
  act_frame_sgn s _ (fun _ e => by cases e)
@[simp] theorem act_xng_hv (x : Xng) : ((Act.xng x).apply s).hv = s.hv :=
  act_frame_hv s _ (fun _ e => by cases e)
@[simp] theorem act_xng_can (x : Xng) : ((Act.xng x).apply s).can = s.can :=
  act_frame_can s _ (fun _ e => by cases e)
@[simp] theorem act_xng_svc (x : Xng) : ((Act.xng x).apply s).svc = s.svc :=
  act_frame_svc s _ (fun _ e => by cases e)
@[simp] theorem act_xng_ports (x : Xng) : ((Act.xng x).apply s).ports = s.ports :=
  act_frame_ports s _ (fun _ e => by cases e)
@[simp] theorem act_xng_brg (x : Xng) : ((Act.xng x).apply s).brg = s.brg :=
  act_frame_brg s _ (fun _ e => by cases e)
@[simp] theorem act_cam_pending (x : Cam) : ((Act.cam x).apply s).pending = s.pending :=
  act_frame_pending s _
@[simp] theorem act_cam_ident (x : Cam) : ((Act.cam x).apply s).ident = s.ident :=
  act_frame_ident s _
@[simp] theorem act_cam_time (x : Cam) : ((Act.cam x).apply s).time = s.time :=
  act_frame_time s _
@[simp] theorem act_cam_phase (x : Cam) : ((Act.cam x).apply s).phase = s.phase :=
  act_frame_phase s _
@[simp] theorem act_cam_free (x : Cam) : ((Act.cam x).apply s).free = s.free :=
  act_frame_free s _ (fun _ e => by cases e)
@[simp] theorem act_cam_bus (x : Cam) : ((Act.cam x).apply s).bus = s.bus :=
  act_frame_bus s _ (fun _ e => by cases e)
@[simp] theorem act_cam_regs (x : Cam) : ((Act.cam x).apply s).regs = s.regs :=
  act_frame_regs s _ (fun _ _ e => by cases e) (fun _ _ e => by cases e)
@[simp] theorem act_cam_rwpPend (x : Cam) : ((Act.cam x).apply s).rwpPend = s.rwpPend :=
  act_frame_rwpPend s _ (fun _ _ e => by cases e) (fun _ _ e => by cases e)
@[simp] theorem act_cam_plaza (x : Cam) : ((Act.cam x).apply s).plaza = s.plaza :=
  act_frame_plaza s _ (fun _ _ e => by cases e) (fun e => by cases e)
@[simp] theorem act_cam_lpddr (x : Cam) : ((Act.cam x).apply s).lpddr = s.lpddr :=
  act_frame_lpddr s _ (fun _ _ e => by cases e) (fun e => by cases e)
@[simp] theorem act_cam_flash (x : Cam) : ((Act.cam x).apply s).flash = s.flash :=
  act_frame_flash s _ (fun _ _ e => by cases e) (fun e => by cases e)
@[simp] theorem act_cam_retA (x : Cam) : ((Act.cam x).apply s).retA = s.retA :=
  act_frame_retA s _ (fun _ _ e => by cases e) (fun e => by cases e)
@[simp] theorem act_cam_retB (x : Cam) : ((Act.cam x).apply s).retB = s.retB :=
  act_frame_retB s _ (fun _ _ e => by cases e) (fun e => by cases e)
@[simp] theorem act_cam_icon (x : Cam) : ((Act.cam x).apply s).icon = s.icon :=
  act_frame_icon s _ (fun _ _ e => by cases e) (fun e => by cases e)
@[simp] theorem act_cam_otp (x : Cam) : ((Act.cam x).apply s).otp = s.otp :=
  act_frame_otp s _ (fun _ _ e => by cases e) (fun e => by cases e)
@[simp] theorem act_cam_img (x : Cam) : ((Act.cam x).apply s).img = s.img :=
  act_frame_img s _ (fun _ _ e => by cases e) (fun e => by cases e)
@[simp] theorem act_cam_ring (x : Cam) : ((Act.cam x).apply s).ring = s.ring :=
  act_frame_ring s _ (fun _ e => by cases e) (fun e => by cases e)
@[simp] theorem act_cam_nextSeq (x : Cam) : ((Act.cam x).apply s).nextSeq = s.nextSeq :=
  act_frame_nextSeq s _ (fun _ e => by cases e) (fun e => by cases e)
@[simp] theorem act_cam_leases (x : Cam) : ((Act.cam x).apply s).leases = s.leases :=
  act_frame_leases s _ (fun _ _ e => by cases e) (fun e => by cases e)
@[simp] theorem act_cam_lamp (x : Cam) : ((Act.cam x).apply s).lamp = s.lamp :=
  act_frame_lamp s _ (fun _ e => by cases e)
@[simp] theorem act_cam_rcl (x : Cam) : ((Act.cam x).apply s).rcl = s.rcl :=
  act_frame_rcl s _ (fun _ e => by cases e)
@[simp] theorem act_cam_boot (x : Cam) : ((Act.cam x).apply s).boot = s.boot :=
  act_frame_boot s _ (fun _ e => by cases e)
@[simp] theorem act_cam_ave (x : Cam) : ((Act.cam x).apply s).ave = s.ave :=
  act_frame_ave s _ (fun _ e => by cases e)
@[simp] theorem act_cam_xlt (x : Cam) : ((Act.cam x).apply s).xlt = s.xlt :=
  act_frame_xlt s _ (fun _ e => by cases e)
@[simp] theorem act_cam_wrd (x : Cam) : ((Act.cam x).apply s).wrd = s.wrd :=
  act_frame_wrd s _ (fun _ e => by cases e)
@[simp] theorem act_cam_xng (x : Cam) : ((Act.cam x).apply s).xng = s.xng :=
  act_frame_xng s _ (fun _ e => by cases e)
@[simp] theorem act_cam_ras (x : Cam) : ((Act.cam x).apply s).ras = s.ras :=
  act_frame_ras s _ (fun _ e => by cases e)
@[simp] theorem act_cam_dst (x : Cam) : ((Act.cam x).apply s).dst = s.dst :=
  act_frame_dst s _ (fun _ e => by cases e)
@[simp] theorem act_cam_rbt (x : Cam) : ((Act.cam x).apply s).rbt = s.rbt :=
  act_frame_rbt s _ (fun _ e => by cases e)
@[simp] theorem act_cam_sco (x : Cam) : ((Act.cam x).apply s).sco = s.sco :=
  act_frame_sco s _ (fun _ e => by cases e)
@[simp] theorem act_cam_sgn (x : Cam) : ((Act.cam x).apply s).sgn = s.sgn :=
  act_frame_sgn s _ (fun _ e => by cases e)
@[simp] theorem act_cam_hv (x : Cam) : ((Act.cam x).apply s).hv = s.hv :=
  act_frame_hv s _ (fun _ e => by cases e)
@[simp] theorem act_cam_can (x : Cam) : ((Act.cam x).apply s).can = s.can :=
  act_frame_can s _ (fun _ e => by cases e)
@[simp] theorem act_cam_svc (x : Cam) : ((Act.cam x).apply s).svc = s.svc :=
  act_frame_svc s _ (fun _ e => by cases e)
@[simp] theorem act_cam_ports (x : Cam) : ((Act.cam x).apply s).ports = s.ports :=
  act_frame_ports s _ (fun _ e => by cases e)
@[simp] theorem act_cam_brg (x : Cam) : ((Act.cam x).apply s).brg = s.brg :=
  act_frame_brg s _ (fun _ e => by cases e)
@[simp] theorem act_ras_pending (x : Ras) : ((Act.ras x).apply s).pending = s.pending :=
  act_frame_pending s _
@[simp] theorem act_ras_ident (x : Ras) : ((Act.ras x).apply s).ident = s.ident :=
  act_frame_ident s _
@[simp] theorem act_ras_time (x : Ras) : ((Act.ras x).apply s).time = s.time :=
  act_frame_time s _
@[simp] theorem act_ras_phase (x : Ras) : ((Act.ras x).apply s).phase = s.phase :=
  act_frame_phase s _
@[simp] theorem act_ras_free (x : Ras) : ((Act.ras x).apply s).free = s.free :=
  act_frame_free s _ (fun _ e => by cases e)
@[simp] theorem act_ras_bus (x : Ras) : ((Act.ras x).apply s).bus = s.bus :=
  act_frame_bus s _ (fun _ e => by cases e)
@[simp] theorem act_ras_regs (x : Ras) : ((Act.ras x).apply s).regs = s.regs :=
  act_frame_regs s _ (fun _ _ e => by cases e) (fun _ _ e => by cases e)
@[simp] theorem act_ras_rwpPend (x : Ras) : ((Act.ras x).apply s).rwpPend = s.rwpPend :=
  act_frame_rwpPend s _ (fun _ _ e => by cases e) (fun _ _ e => by cases e)
@[simp] theorem act_ras_plaza (x : Ras) : ((Act.ras x).apply s).plaza = s.plaza :=
  act_frame_plaza s _ (fun _ _ e => by cases e) (fun e => by cases e)
@[simp] theorem act_ras_lpddr (x : Ras) : ((Act.ras x).apply s).lpddr = s.lpddr :=
  act_frame_lpddr s _ (fun _ _ e => by cases e) (fun e => by cases e)
@[simp] theorem act_ras_flash (x : Ras) : ((Act.ras x).apply s).flash = s.flash :=
  act_frame_flash s _ (fun _ _ e => by cases e) (fun e => by cases e)
@[simp] theorem act_ras_retA (x : Ras) : ((Act.ras x).apply s).retA = s.retA :=
  act_frame_retA s _ (fun _ _ e => by cases e) (fun e => by cases e)
@[simp] theorem act_ras_retB (x : Ras) : ((Act.ras x).apply s).retB = s.retB :=
  act_frame_retB s _ (fun _ _ e => by cases e) (fun e => by cases e)
@[simp] theorem act_ras_icon (x : Ras) : ((Act.ras x).apply s).icon = s.icon :=
  act_frame_icon s _ (fun _ _ e => by cases e) (fun e => by cases e)
@[simp] theorem act_ras_otp (x : Ras) : ((Act.ras x).apply s).otp = s.otp :=
  act_frame_otp s _ (fun _ _ e => by cases e) (fun e => by cases e)
@[simp] theorem act_ras_img (x : Ras) : ((Act.ras x).apply s).img = s.img :=
  act_frame_img s _ (fun _ _ e => by cases e) (fun e => by cases e)
@[simp] theorem act_ras_ring (x : Ras) : ((Act.ras x).apply s).ring = s.ring :=
  act_frame_ring s _ (fun _ e => by cases e) (fun e => by cases e)
@[simp] theorem act_ras_nextSeq (x : Ras) : ((Act.ras x).apply s).nextSeq = s.nextSeq :=
  act_frame_nextSeq s _ (fun _ e => by cases e) (fun e => by cases e)
@[simp] theorem act_ras_leases (x : Ras) : ((Act.ras x).apply s).leases = s.leases :=
  act_frame_leases s _ (fun _ _ e => by cases e) (fun e => by cases e)
@[simp] theorem act_ras_lamp (x : Ras) : ((Act.ras x).apply s).lamp = s.lamp :=
  act_frame_lamp s _ (fun _ e => by cases e)
@[simp] theorem act_ras_rcl (x : Ras) : ((Act.ras x).apply s).rcl = s.rcl :=
  act_frame_rcl s _ (fun _ e => by cases e)
@[simp] theorem act_ras_boot (x : Ras) : ((Act.ras x).apply s).boot = s.boot :=
  act_frame_boot s _ (fun _ e => by cases e)
@[simp] theorem act_ras_ave (x : Ras) : ((Act.ras x).apply s).ave = s.ave :=
  act_frame_ave s _ (fun _ e => by cases e)
@[simp] theorem act_ras_xlt (x : Ras) : ((Act.ras x).apply s).xlt = s.xlt :=
  act_frame_xlt s _ (fun _ e => by cases e)
@[simp] theorem act_ras_wrd (x : Ras) : ((Act.ras x).apply s).wrd = s.wrd :=
  act_frame_wrd s _ (fun _ e => by cases e)
@[simp] theorem act_ras_xng (x : Ras) : ((Act.ras x).apply s).xng = s.xng :=
  act_frame_xng s _ (fun _ e => by cases e)
@[simp] theorem act_ras_cam (x : Ras) : ((Act.ras x).apply s).cam = s.cam :=
  act_frame_cam s _ (fun _ e => by cases e)
@[simp] theorem act_ras_dst (x : Ras) : ((Act.ras x).apply s).dst = s.dst :=
  act_frame_dst s _ (fun _ e => by cases e)
@[simp] theorem act_ras_rbt (x : Ras) : ((Act.ras x).apply s).rbt = s.rbt :=
  act_frame_rbt s _ (fun _ e => by cases e)
@[simp] theorem act_ras_sco (x : Ras) : ((Act.ras x).apply s).sco = s.sco :=
  act_frame_sco s _ (fun _ e => by cases e)
@[simp] theorem act_ras_sgn (x : Ras) : ((Act.ras x).apply s).sgn = s.sgn :=
  act_frame_sgn s _ (fun _ e => by cases e)
@[simp] theorem act_ras_hv (x : Ras) : ((Act.ras x).apply s).hv = s.hv :=
  act_frame_hv s _ (fun _ e => by cases e)
@[simp] theorem act_ras_can (x : Ras) : ((Act.ras x).apply s).can = s.can :=
  act_frame_can s _ (fun _ e => by cases e)
@[simp] theorem act_ras_svc (x : Ras) : ((Act.ras x).apply s).svc = s.svc :=
  act_frame_svc s _ (fun _ e => by cases e)
@[simp] theorem act_ras_ports (x : Ras) : ((Act.ras x).apply s).ports = s.ports :=
  act_frame_ports s _ (fun _ e => by cases e)
@[simp] theorem act_ras_brg (x : Ras) : ((Act.ras x).apply s).brg = s.brg :=
  act_frame_brg s _ (fun _ e => by cases e)
@[simp] theorem act_dst_pending (x : Dst) : ((Act.dst x).apply s).pending = s.pending :=
  act_frame_pending s _
@[simp] theorem act_dst_ident (x : Dst) : ((Act.dst x).apply s).ident = s.ident :=
  act_frame_ident s _
@[simp] theorem act_dst_time (x : Dst) : ((Act.dst x).apply s).time = s.time :=
  act_frame_time s _
@[simp] theorem act_dst_phase (x : Dst) : ((Act.dst x).apply s).phase = s.phase :=
  act_frame_phase s _
@[simp] theorem act_dst_free (x : Dst) : ((Act.dst x).apply s).free = s.free :=
  act_frame_free s _ (fun _ e => by cases e)
@[simp] theorem act_dst_bus (x : Dst) : ((Act.dst x).apply s).bus = s.bus :=
  act_frame_bus s _ (fun _ e => by cases e)
@[simp] theorem act_dst_regs (x : Dst) : ((Act.dst x).apply s).regs = s.regs :=
  act_frame_regs s _ (fun _ _ e => by cases e) (fun _ _ e => by cases e)
@[simp] theorem act_dst_rwpPend (x : Dst) : ((Act.dst x).apply s).rwpPend = s.rwpPend :=
  act_frame_rwpPend s _ (fun _ _ e => by cases e) (fun _ _ e => by cases e)
@[simp] theorem act_dst_plaza (x : Dst) : ((Act.dst x).apply s).plaza = s.plaza :=
  act_frame_plaza s _ (fun _ _ e => by cases e) (fun e => by cases e)
@[simp] theorem act_dst_lpddr (x : Dst) : ((Act.dst x).apply s).lpddr = s.lpddr :=
  act_frame_lpddr s _ (fun _ _ e => by cases e) (fun e => by cases e)
@[simp] theorem act_dst_flash (x : Dst) : ((Act.dst x).apply s).flash = s.flash :=
  act_frame_flash s _ (fun _ _ e => by cases e) (fun e => by cases e)
@[simp] theorem act_dst_retA (x : Dst) : ((Act.dst x).apply s).retA = s.retA :=
  act_frame_retA s _ (fun _ _ e => by cases e) (fun e => by cases e)
@[simp] theorem act_dst_retB (x : Dst) : ((Act.dst x).apply s).retB = s.retB :=
  act_frame_retB s _ (fun _ _ e => by cases e) (fun e => by cases e)
@[simp] theorem act_dst_icon (x : Dst) : ((Act.dst x).apply s).icon = s.icon :=
  act_frame_icon s _ (fun _ _ e => by cases e) (fun e => by cases e)
@[simp] theorem act_dst_otp (x : Dst) : ((Act.dst x).apply s).otp = s.otp :=
  act_frame_otp s _ (fun _ _ e => by cases e) (fun e => by cases e)
@[simp] theorem act_dst_img (x : Dst) : ((Act.dst x).apply s).img = s.img :=
  act_frame_img s _ (fun _ _ e => by cases e) (fun e => by cases e)
@[simp] theorem act_dst_ring (x : Dst) : ((Act.dst x).apply s).ring = s.ring :=
  act_frame_ring s _ (fun _ e => by cases e) (fun e => by cases e)
@[simp] theorem act_dst_nextSeq (x : Dst) : ((Act.dst x).apply s).nextSeq = s.nextSeq :=
  act_frame_nextSeq s _ (fun _ e => by cases e) (fun e => by cases e)
@[simp] theorem act_dst_leases (x : Dst) : ((Act.dst x).apply s).leases = s.leases :=
  act_frame_leases s _ (fun _ _ e => by cases e) (fun e => by cases e)
@[simp] theorem act_dst_lamp (x : Dst) : ((Act.dst x).apply s).lamp = s.lamp :=
  act_frame_lamp s _ (fun _ e => by cases e)
@[simp] theorem act_dst_rcl (x : Dst) : ((Act.dst x).apply s).rcl = s.rcl :=
  act_frame_rcl s _ (fun _ e => by cases e)
@[simp] theorem act_dst_boot (x : Dst) : ((Act.dst x).apply s).boot = s.boot :=
  act_frame_boot s _ (fun _ e => by cases e)
@[simp] theorem act_dst_ave (x : Dst) : ((Act.dst x).apply s).ave = s.ave :=
  act_frame_ave s _ (fun _ e => by cases e)
@[simp] theorem act_dst_xlt (x : Dst) : ((Act.dst x).apply s).xlt = s.xlt :=
  act_frame_xlt s _ (fun _ e => by cases e)
@[simp] theorem act_dst_wrd (x : Dst) : ((Act.dst x).apply s).wrd = s.wrd :=
  act_frame_wrd s _ (fun _ e => by cases e)
@[simp] theorem act_dst_xng (x : Dst) : ((Act.dst x).apply s).xng = s.xng :=
  act_frame_xng s _ (fun _ e => by cases e)
@[simp] theorem act_dst_cam (x : Dst) : ((Act.dst x).apply s).cam = s.cam :=
  act_frame_cam s _ (fun _ e => by cases e)
@[simp] theorem act_dst_ras (x : Dst) : ((Act.dst x).apply s).ras = s.ras :=
  act_frame_ras s _ (fun _ e => by cases e)
@[simp] theorem act_dst_rbt (x : Dst) : ((Act.dst x).apply s).rbt = s.rbt :=
  act_frame_rbt s _ (fun _ e => by cases e)
@[simp] theorem act_dst_sco (x : Dst) : ((Act.dst x).apply s).sco = s.sco :=
  act_frame_sco s _ (fun _ e => by cases e)
@[simp] theorem act_dst_sgn (x : Dst) : ((Act.dst x).apply s).sgn = s.sgn :=
  act_frame_sgn s _ (fun _ e => by cases e)
@[simp] theorem act_dst_hv (x : Dst) : ((Act.dst x).apply s).hv = s.hv :=
  act_frame_hv s _ (fun _ e => by cases e)
@[simp] theorem act_dst_can (x : Dst) : ((Act.dst x).apply s).can = s.can :=
  act_frame_can s _ (fun _ e => by cases e)
@[simp] theorem act_dst_svc (x : Dst) : ((Act.dst x).apply s).svc = s.svc :=
  act_frame_svc s _ (fun _ e => by cases e)
@[simp] theorem act_dst_ports (x : Dst) : ((Act.dst x).apply s).ports = s.ports :=
  act_frame_ports s _ (fun _ e => by cases e)
@[simp] theorem act_dst_brg (x : Dst) : ((Act.dst x).apply s).brg = s.brg :=
  act_frame_brg s _ (fun _ e => by cases e)
@[simp] theorem act_rbt_pending (x : Rbt) : ((Act.rbt x).apply s).pending = s.pending :=
  act_frame_pending s _
@[simp] theorem act_rbt_ident (x : Rbt) : ((Act.rbt x).apply s).ident = s.ident :=
  act_frame_ident s _
@[simp] theorem act_rbt_time (x : Rbt) : ((Act.rbt x).apply s).time = s.time :=
  act_frame_time s _
@[simp] theorem act_rbt_phase (x : Rbt) : ((Act.rbt x).apply s).phase = s.phase :=
  act_frame_phase s _
@[simp] theorem act_rbt_free (x : Rbt) : ((Act.rbt x).apply s).free = s.free :=
  act_frame_free s _ (fun _ e => by cases e)
@[simp] theorem act_rbt_bus (x : Rbt) : ((Act.rbt x).apply s).bus = s.bus :=
  act_frame_bus s _ (fun _ e => by cases e)
@[simp] theorem act_rbt_regs (x : Rbt) : ((Act.rbt x).apply s).regs = s.regs :=
  act_frame_regs s _ (fun _ _ e => by cases e) (fun _ _ e => by cases e)
@[simp] theorem act_rbt_rwpPend (x : Rbt) : ((Act.rbt x).apply s).rwpPend = s.rwpPend :=
  act_frame_rwpPend s _ (fun _ _ e => by cases e) (fun _ _ e => by cases e)
@[simp] theorem act_rbt_plaza (x : Rbt) : ((Act.rbt x).apply s).plaza = s.plaza :=
  act_frame_plaza s _ (fun _ _ e => by cases e) (fun e => by cases e)
@[simp] theorem act_rbt_lpddr (x : Rbt) : ((Act.rbt x).apply s).lpddr = s.lpddr :=
  act_frame_lpddr s _ (fun _ _ e => by cases e) (fun e => by cases e)
@[simp] theorem act_rbt_flash (x : Rbt) : ((Act.rbt x).apply s).flash = s.flash :=
  act_frame_flash s _ (fun _ _ e => by cases e) (fun e => by cases e)
@[simp] theorem act_rbt_retA (x : Rbt) : ((Act.rbt x).apply s).retA = s.retA :=
  act_frame_retA s _ (fun _ _ e => by cases e) (fun e => by cases e)
@[simp] theorem act_rbt_retB (x : Rbt) : ((Act.rbt x).apply s).retB = s.retB :=
  act_frame_retB s _ (fun _ _ e => by cases e) (fun e => by cases e)
@[simp] theorem act_rbt_icon (x : Rbt) : ((Act.rbt x).apply s).icon = s.icon :=
  act_frame_icon s _ (fun _ _ e => by cases e) (fun e => by cases e)
@[simp] theorem act_rbt_otp (x : Rbt) : ((Act.rbt x).apply s).otp = s.otp :=
  act_frame_otp s _ (fun _ _ e => by cases e) (fun e => by cases e)
@[simp] theorem act_rbt_img (x : Rbt) : ((Act.rbt x).apply s).img = s.img :=
  act_frame_img s _ (fun _ _ e => by cases e) (fun e => by cases e)
@[simp] theorem act_rbt_ring (x : Rbt) : ((Act.rbt x).apply s).ring = s.ring :=
  act_frame_ring s _ (fun _ e => by cases e) (fun e => by cases e)
@[simp] theorem act_rbt_nextSeq (x : Rbt) : ((Act.rbt x).apply s).nextSeq = s.nextSeq :=
  act_frame_nextSeq s _ (fun _ e => by cases e) (fun e => by cases e)
@[simp] theorem act_rbt_leases (x : Rbt) : ((Act.rbt x).apply s).leases = s.leases :=
  act_frame_leases s _ (fun _ _ e => by cases e) (fun e => by cases e)
@[simp] theorem act_rbt_lamp (x : Rbt) : ((Act.rbt x).apply s).lamp = s.lamp :=
  act_frame_lamp s _ (fun _ e => by cases e)
@[simp] theorem act_rbt_rcl (x : Rbt) : ((Act.rbt x).apply s).rcl = s.rcl :=
  act_frame_rcl s _ (fun _ e => by cases e)
@[simp] theorem act_rbt_boot (x : Rbt) : ((Act.rbt x).apply s).boot = s.boot :=
  act_frame_boot s _ (fun _ e => by cases e)
@[simp] theorem act_rbt_ave (x : Rbt) : ((Act.rbt x).apply s).ave = s.ave :=
  act_frame_ave s _ (fun _ e => by cases e)
@[simp] theorem act_rbt_xlt (x : Rbt) : ((Act.rbt x).apply s).xlt = s.xlt :=
  act_frame_xlt s _ (fun _ e => by cases e)
@[simp] theorem act_rbt_wrd (x : Rbt) : ((Act.rbt x).apply s).wrd = s.wrd :=
  act_frame_wrd s _ (fun _ e => by cases e)
@[simp] theorem act_rbt_xng (x : Rbt) : ((Act.rbt x).apply s).xng = s.xng :=
  act_frame_xng s _ (fun _ e => by cases e)
@[simp] theorem act_rbt_cam (x : Rbt) : ((Act.rbt x).apply s).cam = s.cam :=
  act_frame_cam s _ (fun _ e => by cases e)
@[simp] theorem act_rbt_ras (x : Rbt) : ((Act.rbt x).apply s).ras = s.ras :=
  act_frame_ras s _ (fun _ e => by cases e)
@[simp] theorem act_rbt_dst (x : Rbt) : ((Act.rbt x).apply s).dst = s.dst :=
  act_frame_dst s _ (fun _ e => by cases e)
@[simp] theorem act_rbt_sco (x : Rbt) : ((Act.rbt x).apply s).sco = s.sco :=
  act_frame_sco s _ (fun _ e => by cases e)
@[simp] theorem act_rbt_sgn (x : Rbt) : ((Act.rbt x).apply s).sgn = s.sgn :=
  act_frame_sgn s _ (fun _ e => by cases e)
@[simp] theorem act_rbt_hv (x : Rbt) : ((Act.rbt x).apply s).hv = s.hv :=
  act_frame_hv s _ (fun _ e => by cases e)
@[simp] theorem act_rbt_can (x : Rbt) : ((Act.rbt x).apply s).can = s.can :=
  act_frame_can s _ (fun _ e => by cases e)
@[simp] theorem act_rbt_svc (x : Rbt) : ((Act.rbt x).apply s).svc = s.svc :=
  act_frame_svc s _ (fun _ e => by cases e)
@[simp] theorem act_rbt_ports (x : Rbt) : ((Act.rbt x).apply s).ports = s.ports :=
  act_frame_ports s _ (fun _ e => by cases e)
@[simp] theorem act_rbt_brg (x : Rbt) : ((Act.rbt x).apply s).brg = s.brg :=
  act_frame_brg s _ (fun _ e => by cases e)
@[simp] theorem act_sco_pending (x : Sco) : ((Act.sco x).apply s).pending = s.pending :=
  act_frame_pending s _
@[simp] theorem act_sco_ident (x : Sco) : ((Act.sco x).apply s).ident = s.ident :=
  act_frame_ident s _
@[simp] theorem act_sco_time (x : Sco) : ((Act.sco x).apply s).time = s.time :=
  act_frame_time s _
@[simp] theorem act_sco_phase (x : Sco) : ((Act.sco x).apply s).phase = s.phase :=
  act_frame_phase s _
@[simp] theorem act_sco_free (x : Sco) : ((Act.sco x).apply s).free = s.free :=
  act_frame_free s _ (fun _ e => by cases e)
@[simp] theorem act_sco_bus (x : Sco) : ((Act.sco x).apply s).bus = s.bus :=
  act_frame_bus s _ (fun _ e => by cases e)
@[simp] theorem act_sco_regs (x : Sco) : ((Act.sco x).apply s).regs = s.regs :=
  act_frame_regs s _ (fun _ _ e => by cases e) (fun _ _ e => by cases e)
@[simp] theorem act_sco_rwpPend (x : Sco) : ((Act.sco x).apply s).rwpPend = s.rwpPend :=
  act_frame_rwpPend s _ (fun _ _ e => by cases e) (fun _ _ e => by cases e)
@[simp] theorem act_sco_plaza (x : Sco) : ((Act.sco x).apply s).plaza = s.plaza :=
  act_frame_plaza s _ (fun _ _ e => by cases e) (fun e => by cases e)
@[simp] theorem act_sco_lpddr (x : Sco) : ((Act.sco x).apply s).lpddr = s.lpddr :=
  act_frame_lpddr s _ (fun _ _ e => by cases e) (fun e => by cases e)
@[simp] theorem act_sco_flash (x : Sco) : ((Act.sco x).apply s).flash = s.flash :=
  act_frame_flash s _ (fun _ _ e => by cases e) (fun e => by cases e)
@[simp] theorem act_sco_retA (x : Sco) : ((Act.sco x).apply s).retA = s.retA :=
  act_frame_retA s _ (fun _ _ e => by cases e) (fun e => by cases e)
@[simp] theorem act_sco_retB (x : Sco) : ((Act.sco x).apply s).retB = s.retB :=
  act_frame_retB s _ (fun _ _ e => by cases e) (fun e => by cases e)
@[simp] theorem act_sco_icon (x : Sco) : ((Act.sco x).apply s).icon = s.icon :=
  act_frame_icon s _ (fun _ _ e => by cases e) (fun e => by cases e)
@[simp] theorem act_sco_otp (x : Sco) : ((Act.sco x).apply s).otp = s.otp :=
  act_frame_otp s _ (fun _ _ e => by cases e) (fun e => by cases e)
@[simp] theorem act_sco_img (x : Sco) : ((Act.sco x).apply s).img = s.img :=
  act_frame_img s _ (fun _ _ e => by cases e) (fun e => by cases e)
@[simp] theorem act_sco_ring (x : Sco) : ((Act.sco x).apply s).ring = s.ring :=
  act_frame_ring s _ (fun _ e => by cases e) (fun e => by cases e)
@[simp] theorem act_sco_nextSeq (x : Sco) : ((Act.sco x).apply s).nextSeq = s.nextSeq :=
  act_frame_nextSeq s _ (fun _ e => by cases e) (fun e => by cases e)
@[simp] theorem act_sco_leases (x : Sco) : ((Act.sco x).apply s).leases = s.leases :=
  act_frame_leases s _ (fun _ _ e => by cases e) (fun e => by cases e)
@[simp] theorem act_sco_lamp (x : Sco) : ((Act.sco x).apply s).lamp = s.lamp :=
  act_frame_lamp s _ (fun _ e => by cases e)
@[simp] theorem act_sco_rcl (x : Sco) : ((Act.sco x).apply s).rcl = s.rcl :=
  act_frame_rcl s _ (fun _ e => by cases e)
@[simp] theorem act_sco_boot (x : Sco) : ((Act.sco x).apply s).boot = s.boot :=
  act_frame_boot s _ (fun _ e => by cases e)
@[simp] theorem act_sco_ave (x : Sco) : ((Act.sco x).apply s).ave = s.ave :=
  act_frame_ave s _ (fun _ e => by cases e)
@[simp] theorem act_sco_xlt (x : Sco) : ((Act.sco x).apply s).xlt = s.xlt :=
  act_frame_xlt s _ (fun _ e => by cases e)
@[simp] theorem act_sco_wrd (x : Sco) : ((Act.sco x).apply s).wrd = s.wrd :=
  act_frame_wrd s _ (fun _ e => by cases e)
@[simp] theorem act_sco_xng (x : Sco) : ((Act.sco x).apply s).xng = s.xng :=
  act_frame_xng s _ (fun _ e => by cases e)
@[simp] theorem act_sco_cam (x : Sco) : ((Act.sco x).apply s).cam = s.cam :=
  act_frame_cam s _ (fun _ e => by cases e)
@[simp] theorem act_sco_ras (x : Sco) : ((Act.sco x).apply s).ras = s.ras :=
  act_frame_ras s _ (fun _ e => by cases e)
@[simp] theorem act_sco_dst (x : Sco) : ((Act.sco x).apply s).dst = s.dst :=
  act_frame_dst s _ (fun _ e => by cases e)
@[simp] theorem act_sco_rbt (x : Sco) : ((Act.sco x).apply s).rbt = s.rbt :=
  act_frame_rbt s _ (fun _ e => by cases e)
@[simp] theorem act_sco_sgn (x : Sco) : ((Act.sco x).apply s).sgn = s.sgn :=
  act_frame_sgn s _ (fun _ e => by cases e)
@[simp] theorem act_sco_hv (x : Sco) : ((Act.sco x).apply s).hv = s.hv :=
  act_frame_hv s _ (fun _ e => by cases e)
@[simp] theorem act_sco_can (x : Sco) : ((Act.sco x).apply s).can = s.can :=
  act_frame_can s _ (fun _ e => by cases e)
@[simp] theorem act_sco_svc (x : Sco) : ((Act.sco x).apply s).svc = s.svc :=
  act_frame_svc s _ (fun _ e => by cases e)
@[simp] theorem act_sco_ports (x : Sco) : ((Act.sco x).apply s).ports = s.ports :=
  act_frame_ports s _ (fun _ e => by cases e)
@[simp] theorem act_sco_brg (x : Sco) : ((Act.sco x).apply s).brg = s.brg :=
  act_frame_brg s _ (fun _ e => by cases e)
@[simp] theorem act_sgn_pending (x : Sgn) : ((Act.sgn x).apply s).pending = s.pending :=
  act_frame_pending s _
@[simp] theorem act_sgn_ident (x : Sgn) : ((Act.sgn x).apply s).ident = s.ident :=
  act_frame_ident s _
@[simp] theorem act_sgn_time (x : Sgn) : ((Act.sgn x).apply s).time = s.time :=
  act_frame_time s _
@[simp] theorem act_sgn_phase (x : Sgn) : ((Act.sgn x).apply s).phase = s.phase :=
  act_frame_phase s _
@[simp] theorem act_sgn_free (x : Sgn) : ((Act.sgn x).apply s).free = s.free :=
  act_frame_free s _ (fun _ e => by cases e)
@[simp] theorem act_sgn_bus (x : Sgn) : ((Act.sgn x).apply s).bus = s.bus :=
  act_frame_bus s _ (fun _ e => by cases e)
@[simp] theorem act_sgn_regs (x : Sgn) : ((Act.sgn x).apply s).regs = s.regs :=
  act_frame_regs s _ (fun _ _ e => by cases e) (fun _ _ e => by cases e)
@[simp] theorem act_sgn_rwpPend (x : Sgn) : ((Act.sgn x).apply s).rwpPend = s.rwpPend :=
  act_frame_rwpPend s _ (fun _ _ e => by cases e) (fun _ _ e => by cases e)
@[simp] theorem act_sgn_plaza (x : Sgn) : ((Act.sgn x).apply s).plaza = s.plaza :=
  act_frame_plaza s _ (fun _ _ e => by cases e) (fun e => by cases e)
@[simp] theorem act_sgn_lpddr (x : Sgn) : ((Act.sgn x).apply s).lpddr = s.lpddr :=
  act_frame_lpddr s _ (fun _ _ e => by cases e) (fun e => by cases e)
@[simp] theorem act_sgn_flash (x : Sgn) : ((Act.sgn x).apply s).flash = s.flash :=
  act_frame_flash s _ (fun _ _ e => by cases e) (fun e => by cases e)
@[simp] theorem act_sgn_retA (x : Sgn) : ((Act.sgn x).apply s).retA = s.retA :=
  act_frame_retA s _ (fun _ _ e => by cases e) (fun e => by cases e)
@[simp] theorem act_sgn_retB (x : Sgn) : ((Act.sgn x).apply s).retB = s.retB :=
  act_frame_retB s _ (fun _ _ e => by cases e) (fun e => by cases e)
@[simp] theorem act_sgn_icon (x : Sgn) : ((Act.sgn x).apply s).icon = s.icon :=
  act_frame_icon s _ (fun _ _ e => by cases e) (fun e => by cases e)
@[simp] theorem act_sgn_otp (x : Sgn) : ((Act.sgn x).apply s).otp = s.otp :=
  act_frame_otp s _ (fun _ _ e => by cases e) (fun e => by cases e)
@[simp] theorem act_sgn_img (x : Sgn) : ((Act.sgn x).apply s).img = s.img :=
  act_frame_img s _ (fun _ _ e => by cases e) (fun e => by cases e)
@[simp] theorem act_sgn_ring (x : Sgn) : ((Act.sgn x).apply s).ring = s.ring :=
  act_frame_ring s _ (fun _ e => by cases e) (fun e => by cases e)
@[simp] theorem act_sgn_nextSeq (x : Sgn) : ((Act.sgn x).apply s).nextSeq = s.nextSeq :=
  act_frame_nextSeq s _ (fun _ e => by cases e) (fun e => by cases e)
@[simp] theorem act_sgn_leases (x : Sgn) : ((Act.sgn x).apply s).leases = s.leases :=
  act_frame_leases s _ (fun _ _ e => by cases e) (fun e => by cases e)
@[simp] theorem act_sgn_lamp (x : Sgn) : ((Act.sgn x).apply s).lamp = s.lamp :=
  act_frame_lamp s _ (fun _ e => by cases e)
@[simp] theorem act_sgn_rcl (x : Sgn) : ((Act.sgn x).apply s).rcl = s.rcl :=
  act_frame_rcl s _ (fun _ e => by cases e)
@[simp] theorem act_sgn_boot (x : Sgn) : ((Act.sgn x).apply s).boot = s.boot :=
  act_frame_boot s _ (fun _ e => by cases e)
@[simp] theorem act_sgn_ave (x : Sgn) : ((Act.sgn x).apply s).ave = s.ave :=
  act_frame_ave s _ (fun _ e => by cases e)
@[simp] theorem act_sgn_xlt (x : Sgn) : ((Act.sgn x).apply s).xlt = s.xlt :=
  act_frame_xlt s _ (fun _ e => by cases e)
@[simp] theorem act_sgn_wrd (x : Sgn) : ((Act.sgn x).apply s).wrd = s.wrd :=
  act_frame_wrd s _ (fun _ e => by cases e)
@[simp] theorem act_sgn_xng (x : Sgn) : ((Act.sgn x).apply s).xng = s.xng :=
  act_frame_xng s _ (fun _ e => by cases e)
@[simp] theorem act_sgn_cam (x : Sgn) : ((Act.sgn x).apply s).cam = s.cam :=
  act_frame_cam s _ (fun _ e => by cases e)
@[simp] theorem act_sgn_ras (x : Sgn) : ((Act.sgn x).apply s).ras = s.ras :=
  act_frame_ras s _ (fun _ e => by cases e)
@[simp] theorem act_sgn_dst (x : Sgn) : ((Act.sgn x).apply s).dst = s.dst :=
  act_frame_dst s _ (fun _ e => by cases e)
@[simp] theorem act_sgn_rbt (x : Sgn) : ((Act.sgn x).apply s).rbt = s.rbt :=
  act_frame_rbt s _ (fun _ e => by cases e)
@[simp] theorem act_sgn_sco (x : Sgn) : ((Act.sgn x).apply s).sco = s.sco :=
  act_frame_sco s _ (fun _ e => by cases e)
@[simp] theorem act_sgn_hv (x : Sgn) : ((Act.sgn x).apply s).hv = s.hv :=
  act_frame_hv s _ (fun _ e => by cases e)
@[simp] theorem act_sgn_can (x : Sgn) : ((Act.sgn x).apply s).can = s.can :=
  act_frame_can s _ (fun _ e => by cases e)
@[simp] theorem act_sgn_svc (x : Sgn) : ((Act.sgn x).apply s).svc = s.svc :=
  act_frame_svc s _ (fun _ e => by cases e)
@[simp] theorem act_sgn_ports (x : Sgn) : ((Act.sgn x).apply s).ports = s.ports :=
  act_frame_ports s _ (fun _ e => by cases e)
@[simp] theorem act_sgn_brg (x : Sgn) : ((Act.sgn x).apply s).brg = s.brg :=
  act_frame_brg s _ (fun _ e => by cases e)
@[simp] theorem act_hv_pending (x : Hv) : ((Act.hv x).apply s).pending = s.pending :=
  act_frame_pending s _
@[simp] theorem act_hv_ident (x : Hv) : ((Act.hv x).apply s).ident = s.ident :=
  act_frame_ident s _
@[simp] theorem act_hv_time (x : Hv) : ((Act.hv x).apply s).time = s.time :=
  act_frame_time s _
@[simp] theorem act_hv_phase (x : Hv) : ((Act.hv x).apply s).phase = s.phase :=
  act_frame_phase s _
@[simp] theorem act_hv_free (x : Hv) : ((Act.hv x).apply s).free = s.free :=
  act_frame_free s _ (fun _ e => by cases e)
@[simp] theorem act_hv_bus (x : Hv) : ((Act.hv x).apply s).bus = s.bus :=
  act_frame_bus s _ (fun _ e => by cases e)
@[simp] theorem act_hv_regs (x : Hv) : ((Act.hv x).apply s).regs = s.regs :=
  act_frame_regs s _ (fun _ _ e => by cases e) (fun _ _ e => by cases e)
@[simp] theorem act_hv_rwpPend (x : Hv) : ((Act.hv x).apply s).rwpPend = s.rwpPend :=
  act_frame_rwpPend s _ (fun _ _ e => by cases e) (fun _ _ e => by cases e)
@[simp] theorem act_hv_plaza (x : Hv) : ((Act.hv x).apply s).plaza = s.plaza :=
  act_frame_plaza s _ (fun _ _ e => by cases e) (fun e => by cases e)
@[simp] theorem act_hv_lpddr (x : Hv) : ((Act.hv x).apply s).lpddr = s.lpddr :=
  act_frame_lpddr s _ (fun _ _ e => by cases e) (fun e => by cases e)
@[simp] theorem act_hv_flash (x : Hv) : ((Act.hv x).apply s).flash = s.flash :=
  act_frame_flash s _ (fun _ _ e => by cases e) (fun e => by cases e)
@[simp] theorem act_hv_retA (x : Hv) : ((Act.hv x).apply s).retA = s.retA :=
  act_frame_retA s _ (fun _ _ e => by cases e) (fun e => by cases e)
@[simp] theorem act_hv_retB (x : Hv) : ((Act.hv x).apply s).retB = s.retB :=
  act_frame_retB s _ (fun _ _ e => by cases e) (fun e => by cases e)
@[simp] theorem act_hv_icon (x : Hv) : ((Act.hv x).apply s).icon = s.icon :=
  act_frame_icon s _ (fun _ _ e => by cases e) (fun e => by cases e)
@[simp] theorem act_hv_otp (x : Hv) : ((Act.hv x).apply s).otp = s.otp :=
  act_frame_otp s _ (fun _ _ e => by cases e) (fun e => by cases e)
@[simp] theorem act_hv_img (x : Hv) : ((Act.hv x).apply s).img = s.img :=
  act_frame_img s _ (fun _ _ e => by cases e) (fun e => by cases e)
@[simp] theorem act_hv_ring (x : Hv) : ((Act.hv x).apply s).ring = s.ring :=
  act_frame_ring s _ (fun _ e => by cases e) (fun e => by cases e)
@[simp] theorem act_hv_nextSeq (x : Hv) : ((Act.hv x).apply s).nextSeq = s.nextSeq :=
  act_frame_nextSeq s _ (fun _ e => by cases e) (fun e => by cases e)
@[simp] theorem act_hv_leases (x : Hv) : ((Act.hv x).apply s).leases = s.leases :=
  act_frame_leases s _ (fun _ _ e => by cases e) (fun e => by cases e)
@[simp] theorem act_hv_lamp (x : Hv) : ((Act.hv x).apply s).lamp = s.lamp :=
  act_frame_lamp s _ (fun _ e => by cases e)
@[simp] theorem act_hv_rcl (x : Hv) : ((Act.hv x).apply s).rcl = s.rcl :=
  act_frame_rcl s _ (fun _ e => by cases e)
@[simp] theorem act_hv_boot (x : Hv) : ((Act.hv x).apply s).boot = s.boot :=
  act_frame_boot s _ (fun _ e => by cases e)
@[simp] theorem act_hv_ave (x : Hv) : ((Act.hv x).apply s).ave = s.ave :=
  act_frame_ave s _ (fun _ e => by cases e)
@[simp] theorem act_hv_xlt (x : Hv) : ((Act.hv x).apply s).xlt = s.xlt :=
  act_frame_xlt s _ (fun _ e => by cases e)
@[simp] theorem act_hv_wrd (x : Hv) : ((Act.hv x).apply s).wrd = s.wrd :=
  act_frame_wrd s _ (fun _ e => by cases e)
@[simp] theorem act_hv_xng (x : Hv) : ((Act.hv x).apply s).xng = s.xng :=
  act_frame_xng s _ (fun _ e => by cases e)
@[simp] theorem act_hv_cam (x : Hv) : ((Act.hv x).apply s).cam = s.cam :=
  act_frame_cam s _ (fun _ e => by cases e)
@[simp] theorem act_hv_ras (x : Hv) : ((Act.hv x).apply s).ras = s.ras :=
  act_frame_ras s _ (fun _ e => by cases e)
@[simp] theorem act_hv_dst (x : Hv) : ((Act.hv x).apply s).dst = s.dst :=
  act_frame_dst s _ (fun _ e => by cases e)
@[simp] theorem act_hv_rbt (x : Hv) : ((Act.hv x).apply s).rbt = s.rbt :=
  act_frame_rbt s _ (fun _ e => by cases e)
@[simp] theorem act_hv_sco (x : Hv) : ((Act.hv x).apply s).sco = s.sco :=
  act_frame_sco s _ (fun _ e => by cases e)
@[simp] theorem act_hv_sgn (x : Hv) : ((Act.hv x).apply s).sgn = s.sgn :=
  act_frame_sgn s _ (fun _ e => by cases e)
@[simp] theorem act_hv_can (x : Hv) : ((Act.hv x).apply s).can = s.can :=
  act_frame_can s _ (fun _ e => by cases e)
@[simp] theorem act_hv_svc (x : Hv) : ((Act.hv x).apply s).svc = s.svc :=
  act_frame_svc s _ (fun _ e => by cases e)
@[simp] theorem act_hv_ports (x : Hv) : ((Act.hv x).apply s).ports = s.ports :=
  act_frame_ports s _ (fun _ e => by cases e)
@[simp] theorem act_hv_brg (x : Hv) : ((Act.hv x).apply s).brg = s.brg :=
  act_frame_brg s _ (fun _ e => by cases e)
@[simp] theorem act_can_pending (x : List CanCtl) : ((Act.can x).apply s).pending = s.pending :=
  act_frame_pending s _
@[simp] theorem act_can_ident (x : List CanCtl) : ((Act.can x).apply s).ident = s.ident :=
  act_frame_ident s _
@[simp] theorem act_can_time (x : List CanCtl) : ((Act.can x).apply s).time = s.time :=
  act_frame_time s _
@[simp] theorem act_can_phase (x : List CanCtl) : ((Act.can x).apply s).phase = s.phase :=
  act_frame_phase s _
@[simp] theorem act_can_free (x : List CanCtl) : ((Act.can x).apply s).free = s.free :=
  act_frame_free s _ (fun _ e => by cases e)
@[simp] theorem act_can_bus (x : List CanCtl) : ((Act.can x).apply s).bus = s.bus :=
  act_frame_bus s _ (fun _ e => by cases e)
@[simp] theorem act_can_regs (x : List CanCtl) : ((Act.can x).apply s).regs = s.regs :=
  act_frame_regs s _ (fun _ _ e => by cases e) (fun _ _ e => by cases e)
@[simp] theorem act_can_rwpPend (x : List CanCtl) : ((Act.can x).apply s).rwpPend = s.rwpPend :=
  act_frame_rwpPend s _ (fun _ _ e => by cases e) (fun _ _ e => by cases e)
@[simp] theorem act_can_plaza (x : List CanCtl) : ((Act.can x).apply s).plaza = s.plaza :=
  act_frame_plaza s _ (fun _ _ e => by cases e) (fun e => by cases e)
@[simp] theorem act_can_lpddr (x : List CanCtl) : ((Act.can x).apply s).lpddr = s.lpddr :=
  act_frame_lpddr s _ (fun _ _ e => by cases e) (fun e => by cases e)
@[simp] theorem act_can_flash (x : List CanCtl) : ((Act.can x).apply s).flash = s.flash :=
  act_frame_flash s _ (fun _ _ e => by cases e) (fun e => by cases e)
@[simp] theorem act_can_retA (x : List CanCtl) : ((Act.can x).apply s).retA = s.retA :=
  act_frame_retA s _ (fun _ _ e => by cases e) (fun e => by cases e)
@[simp] theorem act_can_retB (x : List CanCtl) : ((Act.can x).apply s).retB = s.retB :=
  act_frame_retB s _ (fun _ _ e => by cases e) (fun e => by cases e)
@[simp] theorem act_can_icon (x : List CanCtl) : ((Act.can x).apply s).icon = s.icon :=
  act_frame_icon s _ (fun _ _ e => by cases e) (fun e => by cases e)
@[simp] theorem act_can_otp (x : List CanCtl) : ((Act.can x).apply s).otp = s.otp :=
  act_frame_otp s _ (fun _ _ e => by cases e) (fun e => by cases e)
@[simp] theorem act_can_img (x : List CanCtl) : ((Act.can x).apply s).img = s.img :=
  act_frame_img s _ (fun _ _ e => by cases e) (fun e => by cases e)
@[simp] theorem act_can_ring (x : List CanCtl) : ((Act.can x).apply s).ring = s.ring :=
  act_frame_ring s _ (fun _ e => by cases e) (fun e => by cases e)
@[simp] theorem act_can_nextSeq (x : List CanCtl) : ((Act.can x).apply s).nextSeq = s.nextSeq :=
  act_frame_nextSeq s _ (fun _ e => by cases e) (fun e => by cases e)
@[simp] theorem act_can_leases (x : List CanCtl) : ((Act.can x).apply s).leases = s.leases :=
  act_frame_leases s _ (fun _ _ e => by cases e) (fun e => by cases e)
@[simp] theorem act_can_lamp (x : List CanCtl) : ((Act.can x).apply s).lamp = s.lamp :=
  act_frame_lamp s _ (fun _ e => by cases e)
@[simp] theorem act_can_rcl (x : List CanCtl) : ((Act.can x).apply s).rcl = s.rcl :=
  act_frame_rcl s _ (fun _ e => by cases e)
@[simp] theorem act_can_boot (x : List CanCtl) : ((Act.can x).apply s).boot = s.boot :=
  act_frame_boot s _ (fun _ e => by cases e)
@[simp] theorem act_can_ave (x : List CanCtl) : ((Act.can x).apply s).ave = s.ave :=
  act_frame_ave s _ (fun _ e => by cases e)
@[simp] theorem act_can_xlt (x : List CanCtl) : ((Act.can x).apply s).xlt = s.xlt :=
  act_frame_xlt s _ (fun _ e => by cases e)
@[simp] theorem act_can_wrd (x : List CanCtl) : ((Act.can x).apply s).wrd = s.wrd :=
  act_frame_wrd s _ (fun _ e => by cases e)
@[simp] theorem act_can_xng (x : List CanCtl) : ((Act.can x).apply s).xng = s.xng :=
  act_frame_xng s _ (fun _ e => by cases e)
@[simp] theorem act_can_cam (x : List CanCtl) : ((Act.can x).apply s).cam = s.cam :=
  act_frame_cam s _ (fun _ e => by cases e)
@[simp] theorem act_can_ras (x : List CanCtl) : ((Act.can x).apply s).ras = s.ras :=
  act_frame_ras s _ (fun _ e => by cases e)
@[simp] theorem act_can_dst (x : List CanCtl) : ((Act.can x).apply s).dst = s.dst :=
  act_frame_dst s _ (fun _ e => by cases e)
@[simp] theorem act_can_rbt (x : List CanCtl) : ((Act.can x).apply s).rbt = s.rbt :=
  act_frame_rbt s _ (fun _ e => by cases e)
@[simp] theorem act_can_sco (x : List CanCtl) : ((Act.can x).apply s).sco = s.sco :=
  act_frame_sco s _ (fun _ e => by cases e)
@[simp] theorem act_can_sgn (x : List CanCtl) : ((Act.can x).apply s).sgn = s.sgn :=
  act_frame_sgn s _ (fun _ e => by cases e)
@[simp] theorem act_can_hv (x : List CanCtl) : ((Act.can x).apply s).hv = s.hv :=
  act_frame_hv s _ (fun _ e => by cases e)
@[simp] theorem act_can_svc (x : List CanCtl) : ((Act.can x).apply s).svc = s.svc :=
  act_frame_svc s _ (fun _ e => by cases e)
@[simp] theorem act_can_ports (x : List CanCtl) : ((Act.can x).apply s).ports = s.ports :=
  act_frame_ports s _ (fun _ e => by cases e)
@[simp] theorem act_can_brg (x : List CanCtl) : ((Act.can x).apply s).brg = s.brg :=
  act_frame_brg s _ (fun _ e => by cases e)
@[simp] theorem act_svc_pending (x : Svc) : ((Act.svc x).apply s).pending = s.pending :=
  act_frame_pending s _
@[simp] theorem act_svc_ident (x : Svc) : ((Act.svc x).apply s).ident = s.ident :=
  act_frame_ident s _
@[simp] theorem act_svc_time (x : Svc) : ((Act.svc x).apply s).time = s.time :=
  act_frame_time s _
@[simp] theorem act_svc_phase (x : Svc) : ((Act.svc x).apply s).phase = s.phase :=
  act_frame_phase s _
@[simp] theorem act_svc_free (x : Svc) : ((Act.svc x).apply s).free = s.free :=
  act_frame_free s _ (fun _ e => by cases e)
@[simp] theorem act_svc_bus (x : Svc) : ((Act.svc x).apply s).bus = s.bus :=
  act_frame_bus s _ (fun _ e => by cases e)
@[simp] theorem act_svc_regs (x : Svc) : ((Act.svc x).apply s).regs = s.regs :=
  act_frame_regs s _ (fun _ _ e => by cases e) (fun _ _ e => by cases e)
@[simp] theorem act_svc_rwpPend (x : Svc) : ((Act.svc x).apply s).rwpPend = s.rwpPend :=
  act_frame_rwpPend s _ (fun _ _ e => by cases e) (fun _ _ e => by cases e)
@[simp] theorem act_svc_plaza (x : Svc) : ((Act.svc x).apply s).plaza = s.plaza :=
  act_frame_plaza s _ (fun _ _ e => by cases e) (fun e => by cases e)
@[simp] theorem act_svc_lpddr (x : Svc) : ((Act.svc x).apply s).lpddr = s.lpddr :=
  act_frame_lpddr s _ (fun _ _ e => by cases e) (fun e => by cases e)
@[simp] theorem act_svc_flash (x : Svc) : ((Act.svc x).apply s).flash = s.flash :=
  act_frame_flash s _ (fun _ _ e => by cases e) (fun e => by cases e)
@[simp] theorem act_svc_retA (x : Svc) : ((Act.svc x).apply s).retA = s.retA :=
  act_frame_retA s _ (fun _ _ e => by cases e) (fun e => by cases e)
@[simp] theorem act_svc_retB (x : Svc) : ((Act.svc x).apply s).retB = s.retB :=
  act_frame_retB s _ (fun _ _ e => by cases e) (fun e => by cases e)
@[simp] theorem act_svc_icon (x : Svc) : ((Act.svc x).apply s).icon = s.icon :=
  act_frame_icon s _ (fun _ _ e => by cases e) (fun e => by cases e)
@[simp] theorem act_svc_otp (x : Svc) : ((Act.svc x).apply s).otp = s.otp :=
  act_frame_otp s _ (fun _ _ e => by cases e) (fun e => by cases e)
@[simp] theorem act_svc_img (x : Svc) : ((Act.svc x).apply s).img = s.img :=
  act_frame_img s _ (fun _ _ e => by cases e) (fun e => by cases e)
@[simp] theorem act_svc_ring (x : Svc) : ((Act.svc x).apply s).ring = s.ring :=
  act_frame_ring s _ (fun _ e => by cases e) (fun e => by cases e)
@[simp] theorem act_svc_nextSeq (x : Svc) : ((Act.svc x).apply s).nextSeq = s.nextSeq :=
  act_frame_nextSeq s _ (fun _ e => by cases e) (fun e => by cases e)
@[simp] theorem act_svc_leases (x : Svc) : ((Act.svc x).apply s).leases = s.leases :=
  act_frame_leases s _ (fun _ _ e => by cases e) (fun e => by cases e)
@[simp] theorem act_svc_lamp (x : Svc) : ((Act.svc x).apply s).lamp = s.lamp :=
  act_frame_lamp s _ (fun _ e => by cases e)
@[simp] theorem act_svc_rcl (x : Svc) : ((Act.svc x).apply s).rcl = s.rcl :=
  act_frame_rcl s _ (fun _ e => by cases e)
@[simp] theorem act_svc_boot (x : Svc) : ((Act.svc x).apply s).boot = s.boot :=
  act_frame_boot s _ (fun _ e => by cases e)
@[simp] theorem act_svc_ave (x : Svc) : ((Act.svc x).apply s).ave = s.ave :=
  act_frame_ave s _ (fun _ e => by cases e)
@[simp] theorem act_svc_xlt (x : Svc) : ((Act.svc x).apply s).xlt = s.xlt :=
  act_frame_xlt s _ (fun _ e => by cases e)
@[simp] theorem act_svc_wrd (x : Svc) : ((Act.svc x).apply s).wrd = s.wrd :=
  act_frame_wrd s _ (fun _ e => by cases e)
@[simp] theorem act_svc_xng (x : Svc) : ((Act.svc x).apply s).xng = s.xng :=
  act_frame_xng s _ (fun _ e => by cases e)
@[simp] theorem act_svc_cam (x : Svc) : ((Act.svc x).apply s).cam = s.cam :=
  act_frame_cam s _ (fun _ e => by cases e)
@[simp] theorem act_svc_ras (x : Svc) : ((Act.svc x).apply s).ras = s.ras :=
  act_frame_ras s _ (fun _ e => by cases e)
@[simp] theorem act_svc_dst (x : Svc) : ((Act.svc x).apply s).dst = s.dst :=
  act_frame_dst s _ (fun _ e => by cases e)
@[simp] theorem act_svc_rbt (x : Svc) : ((Act.svc x).apply s).rbt = s.rbt :=
  act_frame_rbt s _ (fun _ e => by cases e)
@[simp] theorem act_svc_sco (x : Svc) : ((Act.svc x).apply s).sco = s.sco :=
  act_frame_sco s _ (fun _ e => by cases e)
@[simp] theorem act_svc_sgn (x : Svc) : ((Act.svc x).apply s).sgn = s.sgn :=
  act_frame_sgn s _ (fun _ e => by cases e)
@[simp] theorem act_svc_hv (x : Svc) : ((Act.svc x).apply s).hv = s.hv :=
  act_frame_hv s _ (fun _ e => by cases e)
@[simp] theorem act_svc_can (x : Svc) : ((Act.svc x).apply s).can = s.can :=
  act_frame_can s _ (fun _ e => by cases e)
@[simp] theorem act_svc_ports (x : Svc) : ((Act.svc x).apply s).ports = s.ports :=
  act_frame_ports s _ (fun _ e => by cases e)
@[simp] theorem act_svc_brg (x : Svc) : ((Act.svc x).apply s).brg = s.brg :=
  act_frame_brg s _ (fun _ e => by cases e)
@[simp] theorem act_ports_pending (x : Ports) : ((Act.ports x).apply s).pending = s.pending :=
  act_frame_pending s _
@[simp] theorem act_ports_ident (x : Ports) : ((Act.ports x).apply s).ident = s.ident :=
  act_frame_ident s _
@[simp] theorem act_ports_time (x : Ports) : ((Act.ports x).apply s).time = s.time :=
  act_frame_time s _
@[simp] theorem act_ports_phase (x : Ports) : ((Act.ports x).apply s).phase = s.phase :=
  act_frame_phase s _
@[simp] theorem act_ports_free (x : Ports) : ((Act.ports x).apply s).free = s.free :=
  act_frame_free s _ (fun _ e => by cases e)
@[simp] theorem act_ports_bus (x : Ports) : ((Act.ports x).apply s).bus = s.bus :=
  act_frame_bus s _ (fun _ e => by cases e)
@[simp] theorem act_ports_regs (x : Ports) : ((Act.ports x).apply s).regs = s.regs :=
  act_frame_regs s _ (fun _ _ e => by cases e) (fun _ _ e => by cases e)
@[simp] theorem act_ports_rwpPend (x : Ports) : ((Act.ports x).apply s).rwpPend = s.rwpPend :=
  act_frame_rwpPend s _ (fun _ _ e => by cases e) (fun _ _ e => by cases e)
@[simp] theorem act_ports_plaza (x : Ports) : ((Act.ports x).apply s).plaza = s.plaza :=
  act_frame_plaza s _ (fun _ _ e => by cases e) (fun e => by cases e)
@[simp] theorem act_ports_lpddr (x : Ports) : ((Act.ports x).apply s).lpddr = s.lpddr :=
  act_frame_lpddr s _ (fun _ _ e => by cases e) (fun e => by cases e)
@[simp] theorem act_ports_flash (x : Ports) : ((Act.ports x).apply s).flash = s.flash :=
  act_frame_flash s _ (fun _ _ e => by cases e) (fun e => by cases e)
@[simp] theorem act_ports_retA (x : Ports) : ((Act.ports x).apply s).retA = s.retA :=
  act_frame_retA s _ (fun _ _ e => by cases e) (fun e => by cases e)
@[simp] theorem act_ports_retB (x : Ports) : ((Act.ports x).apply s).retB = s.retB :=
  act_frame_retB s _ (fun _ _ e => by cases e) (fun e => by cases e)
@[simp] theorem act_ports_icon (x : Ports) : ((Act.ports x).apply s).icon = s.icon :=
  act_frame_icon s _ (fun _ _ e => by cases e) (fun e => by cases e)
@[simp] theorem act_ports_otp (x : Ports) : ((Act.ports x).apply s).otp = s.otp :=
  act_frame_otp s _ (fun _ _ e => by cases e) (fun e => by cases e)
@[simp] theorem act_ports_img (x : Ports) : ((Act.ports x).apply s).img = s.img :=
  act_frame_img s _ (fun _ _ e => by cases e) (fun e => by cases e)
@[simp] theorem act_ports_ring (x : Ports) : ((Act.ports x).apply s).ring = s.ring :=
  act_frame_ring s _ (fun _ e => by cases e) (fun e => by cases e)
@[simp] theorem act_ports_nextSeq (x : Ports) : ((Act.ports x).apply s).nextSeq = s.nextSeq :=
  act_frame_nextSeq s _ (fun _ e => by cases e) (fun e => by cases e)
@[simp] theorem act_ports_leases (x : Ports) : ((Act.ports x).apply s).leases = s.leases :=
  act_frame_leases s _ (fun _ _ e => by cases e) (fun e => by cases e)
@[simp] theorem act_ports_lamp (x : Ports) : ((Act.ports x).apply s).lamp = s.lamp :=
  act_frame_lamp s _ (fun _ e => by cases e)
@[simp] theorem act_ports_rcl (x : Ports) : ((Act.ports x).apply s).rcl = s.rcl :=
  act_frame_rcl s _ (fun _ e => by cases e)
@[simp] theorem act_ports_boot (x : Ports) : ((Act.ports x).apply s).boot = s.boot :=
  act_frame_boot s _ (fun _ e => by cases e)
@[simp] theorem act_ports_ave (x : Ports) : ((Act.ports x).apply s).ave = s.ave :=
  act_frame_ave s _ (fun _ e => by cases e)
@[simp] theorem act_ports_xlt (x : Ports) : ((Act.ports x).apply s).xlt = s.xlt :=
  act_frame_xlt s _ (fun _ e => by cases e)
@[simp] theorem act_ports_wrd (x : Ports) : ((Act.ports x).apply s).wrd = s.wrd :=
  act_frame_wrd s _ (fun _ e => by cases e)
@[simp] theorem act_ports_xng (x : Ports) : ((Act.ports x).apply s).xng = s.xng :=
  act_frame_xng s _ (fun _ e => by cases e)
@[simp] theorem act_ports_cam (x : Ports) : ((Act.ports x).apply s).cam = s.cam :=
  act_frame_cam s _ (fun _ e => by cases e)
@[simp] theorem act_ports_ras (x : Ports) : ((Act.ports x).apply s).ras = s.ras :=
  act_frame_ras s _ (fun _ e => by cases e)
@[simp] theorem act_ports_dst (x : Ports) : ((Act.ports x).apply s).dst = s.dst :=
  act_frame_dst s _ (fun _ e => by cases e)
@[simp] theorem act_ports_rbt (x : Ports) : ((Act.ports x).apply s).rbt = s.rbt :=
  act_frame_rbt s _ (fun _ e => by cases e)
@[simp] theorem act_ports_sco (x : Ports) : ((Act.ports x).apply s).sco = s.sco :=
  act_frame_sco s _ (fun _ e => by cases e)
@[simp] theorem act_ports_sgn (x : Ports) : ((Act.ports x).apply s).sgn = s.sgn :=
  act_frame_sgn s _ (fun _ e => by cases e)
@[simp] theorem act_ports_hv (x : Ports) : ((Act.ports x).apply s).hv = s.hv :=
  act_frame_hv s _ (fun _ e => by cases e)
@[simp] theorem act_ports_can (x : Ports) : ((Act.ports x).apply s).can = s.can :=
  act_frame_can s _ (fun _ e => by cases e)
@[simp] theorem act_ports_svc (x : Ports) : ((Act.ports x).apply s).svc = s.svc :=
  act_frame_svc s _ (fun _ e => by cases e)
@[simp] theorem act_ports_brg (x : Ports) : ((Act.ports x).apply s).brg = s.brg :=
  act_frame_brg s _ (fun _ e => by cases e)
@[simp] theorem act_brg_pending (x : Brg) : ((Act.brg x).apply s).pending = s.pending :=
  act_frame_pending s _
@[simp] theorem act_brg_ident (x : Brg) : ((Act.brg x).apply s).ident = s.ident :=
  act_frame_ident s _
@[simp] theorem act_brg_time (x : Brg) : ((Act.brg x).apply s).time = s.time :=
  act_frame_time s _
@[simp] theorem act_brg_phase (x : Brg) : ((Act.brg x).apply s).phase = s.phase :=
  act_frame_phase s _
@[simp] theorem act_brg_free (x : Brg) : ((Act.brg x).apply s).free = s.free :=
  act_frame_free s _ (fun _ e => by cases e)
@[simp] theorem act_brg_bus (x : Brg) : ((Act.brg x).apply s).bus = s.bus :=
  act_frame_bus s _ (fun _ e => by cases e)
@[simp] theorem act_brg_regs (x : Brg) : ((Act.brg x).apply s).regs = s.regs :=
  act_frame_regs s _ (fun _ _ e => by cases e) (fun _ _ e => by cases e)
@[simp] theorem act_brg_rwpPend (x : Brg) : ((Act.brg x).apply s).rwpPend = s.rwpPend :=
  act_frame_rwpPend s _ (fun _ _ e => by cases e) (fun _ _ e => by cases e)
@[simp] theorem act_brg_plaza (x : Brg) : ((Act.brg x).apply s).plaza = s.plaza :=
  act_frame_plaza s _ (fun _ _ e => by cases e) (fun e => by cases e)
@[simp] theorem act_brg_lpddr (x : Brg) : ((Act.brg x).apply s).lpddr = s.lpddr :=
  act_frame_lpddr s _ (fun _ _ e => by cases e) (fun e => by cases e)
@[simp] theorem act_brg_flash (x : Brg) : ((Act.brg x).apply s).flash = s.flash :=
  act_frame_flash s _ (fun _ _ e => by cases e) (fun e => by cases e)
@[simp] theorem act_brg_retA (x : Brg) : ((Act.brg x).apply s).retA = s.retA :=
  act_frame_retA s _ (fun _ _ e => by cases e) (fun e => by cases e)
@[simp] theorem act_brg_retB (x : Brg) : ((Act.brg x).apply s).retB = s.retB :=
  act_frame_retB s _ (fun _ _ e => by cases e) (fun e => by cases e)
@[simp] theorem act_brg_icon (x : Brg) : ((Act.brg x).apply s).icon = s.icon :=
  act_frame_icon s _ (fun _ _ e => by cases e) (fun e => by cases e)
@[simp] theorem act_brg_otp (x : Brg) : ((Act.brg x).apply s).otp = s.otp :=
  act_frame_otp s _ (fun _ _ e => by cases e) (fun e => by cases e)
@[simp] theorem act_brg_img (x : Brg) : ((Act.brg x).apply s).img = s.img :=
  act_frame_img s _ (fun _ _ e => by cases e) (fun e => by cases e)
@[simp] theorem act_brg_ring (x : Brg) : ((Act.brg x).apply s).ring = s.ring :=
  act_frame_ring s _ (fun _ e => by cases e) (fun e => by cases e)
@[simp] theorem act_brg_nextSeq (x : Brg) : ((Act.brg x).apply s).nextSeq = s.nextSeq :=
  act_frame_nextSeq s _ (fun _ e => by cases e) (fun e => by cases e)
@[simp] theorem act_brg_leases (x : Brg) : ((Act.brg x).apply s).leases = s.leases :=
  act_frame_leases s _ (fun _ _ e => by cases e) (fun e => by cases e)
@[simp] theorem act_brg_lamp (x : Brg) : ((Act.brg x).apply s).lamp = s.lamp :=
  act_frame_lamp s _ (fun _ e => by cases e)
@[simp] theorem act_brg_rcl (x : Brg) : ((Act.brg x).apply s).rcl = s.rcl :=
  act_frame_rcl s _ (fun _ e => by cases e)
@[simp] theorem act_brg_boot (x : Brg) : ((Act.brg x).apply s).boot = s.boot :=
  act_frame_boot s _ (fun _ e => by cases e)
@[simp] theorem act_brg_ave (x : Brg) : ((Act.brg x).apply s).ave = s.ave :=
  act_frame_ave s _ (fun _ e => by cases e)
@[simp] theorem act_brg_xlt (x : Brg) : ((Act.brg x).apply s).xlt = s.xlt :=
  act_frame_xlt s _ (fun _ e => by cases e)
@[simp] theorem act_brg_wrd (x : Brg) : ((Act.brg x).apply s).wrd = s.wrd :=
  act_frame_wrd s _ (fun _ e => by cases e)
@[simp] theorem act_brg_xng (x : Brg) : ((Act.brg x).apply s).xng = s.xng :=
  act_frame_xng s _ (fun _ e => by cases e)
@[simp] theorem act_brg_cam (x : Brg) : ((Act.brg x).apply s).cam = s.cam :=
  act_frame_cam s _ (fun _ e => by cases e)
@[simp] theorem act_brg_ras (x : Brg) : ((Act.brg x).apply s).ras = s.ras :=
  act_frame_ras s _ (fun _ e => by cases e)
@[simp] theorem act_brg_dst (x : Brg) : ((Act.brg x).apply s).dst = s.dst :=
  act_frame_dst s _ (fun _ e => by cases e)
@[simp] theorem act_brg_rbt (x : Brg) : ((Act.brg x).apply s).rbt = s.rbt :=
  act_frame_rbt s _ (fun _ e => by cases e)
@[simp] theorem act_brg_sco (x : Brg) : ((Act.brg x).apply s).sco = s.sco :=
  act_frame_sco s _ (fun _ e => by cases e)
@[simp] theorem act_brg_sgn (x : Brg) : ((Act.brg x).apply s).sgn = s.sgn :=
  act_frame_sgn s _ (fun _ e => by cases e)
@[simp] theorem act_brg_hv (x : Brg) : ((Act.brg x).apply s).hv = s.hv :=
  act_frame_hv s _ (fun _ e => by cases e)
@[simp] theorem act_brg_can (x : Brg) : ((Act.brg x).apply s).can = s.can :=
  act_frame_can s _ (fun _ e => by cases e)
@[simp] theorem act_brg_svc (x : Brg) : ((Act.brg x).apply s).svc = s.svc :=
  act_frame_svc s _ (fun _ e => by cases e)
@[simp] theorem act_brg_ports (x : Brg) : ((Act.brg x).apply s).ports = s.ports :=
  act_frame_ports s _ (fun _ e => by cases e)
@[simp] theorem act_store_plaza_lpddr (a : Nat) (bs : List Byte) : ((Act.store .plaza a bs).apply s).lpddr = s.lpddr :=
  setMem_lpddr s .plaza _ (fun e => by cases e)
@[simp] theorem act_wipe_plaza_lpddr : ((Act.wipe .plaza).apply s).lpddr = s.lpddr :=
  setMem_lpddr s .plaza _ (fun e => by cases e)
@[simp] theorem act_store_plaza_flash (a : Nat) (bs : List Byte) : ((Act.store .plaza a bs).apply s).flash = s.flash :=
  setMem_flash s .plaza _ (fun e => by cases e)
@[simp] theorem act_wipe_plaza_flash : ((Act.wipe .plaza).apply s).flash = s.flash :=
  setMem_flash s .plaza _ (fun e => by cases e)
@[simp] theorem act_store_plaza_retA (a : Nat) (bs : List Byte) : ((Act.store .plaza a bs).apply s).retA = s.retA :=
  setMem_retA s .plaza _ (fun e => by cases e)
@[simp] theorem act_wipe_plaza_retA : ((Act.wipe .plaza).apply s).retA = s.retA :=
  setMem_retA s .plaza _ (fun e => by cases e)
@[simp] theorem act_store_plaza_retB (a : Nat) (bs : List Byte) : ((Act.store .plaza a bs).apply s).retB = s.retB :=
  setMem_retB s .plaza _ (fun e => by cases e)
@[simp] theorem act_wipe_plaza_retB : ((Act.wipe .plaza).apply s).retB = s.retB :=
  setMem_retB s .plaza _ (fun e => by cases e)
@[simp] theorem act_store_plaza_icon (a : Nat) (bs : List Byte) : ((Act.store .plaza a bs).apply s).icon = s.icon :=
  setMem_icon s .plaza _ (fun e => by cases e)
@[simp] theorem act_wipe_plaza_icon : ((Act.wipe .plaza).apply s).icon = s.icon :=
  setMem_icon s .plaza _ (fun e => by cases e)
@[simp] theorem act_store_plaza_otp (a : Nat) (bs : List Byte) : ((Act.store .plaza a bs).apply s).otp = s.otp :=
  setMem_otp s .plaza _ (fun e => by cases e)
@[simp] theorem act_wipe_plaza_otp : ((Act.wipe .plaza).apply s).otp = s.otp :=
  setMem_otp s .plaza _ (fun e => by cases e)
@[simp] theorem act_store_plaza_img (a : Nat) (bs : List Byte) : ((Act.store .plaza a bs).apply s).img = s.img :=
  setMem_img s .plaza _ (fun e => by cases e)
@[simp] theorem act_wipe_plaza_img : ((Act.wipe .plaza).apply s).img = s.img :=
  setMem_img s .plaza _ (fun e => by cases e)
@[simp] theorem act_store_lpddr_plaza (a : Nat) (bs : List Byte) : ((Act.store .lpddr a bs).apply s).plaza = s.plaza :=
  setMem_plaza s .lpddr _ (fun e => by cases e)
@[simp] theorem act_wipe_lpddr_plaza : ((Act.wipe .lpddr).apply s).plaza = s.plaza :=
  setMem_plaza s .lpddr _ (fun e => by cases e)
@[simp] theorem act_store_lpddr_flash (a : Nat) (bs : List Byte) : ((Act.store .lpddr a bs).apply s).flash = s.flash :=
  setMem_flash s .lpddr _ (fun e => by cases e)
@[simp] theorem act_wipe_lpddr_flash : ((Act.wipe .lpddr).apply s).flash = s.flash :=
  setMem_flash s .lpddr _ (fun e => by cases e)
@[simp] theorem act_store_lpddr_retA (a : Nat) (bs : List Byte) : ((Act.store .lpddr a bs).apply s).retA = s.retA :=
  setMem_retA s .lpddr _ (fun e => by cases e)
@[simp] theorem act_wipe_lpddr_retA : ((Act.wipe .lpddr).apply s).retA = s.retA :=
  setMem_retA s .lpddr _ (fun e => by cases e)
@[simp] theorem act_store_lpddr_retB (a : Nat) (bs : List Byte) : ((Act.store .lpddr a bs).apply s).retB = s.retB :=
  setMem_retB s .lpddr _ (fun e => by cases e)
@[simp] theorem act_wipe_lpddr_retB : ((Act.wipe .lpddr).apply s).retB = s.retB :=
  setMem_retB s .lpddr _ (fun e => by cases e)
@[simp] theorem act_store_lpddr_icon (a : Nat) (bs : List Byte) : ((Act.store .lpddr a bs).apply s).icon = s.icon :=
  setMem_icon s .lpddr _ (fun e => by cases e)
@[simp] theorem act_wipe_lpddr_icon : ((Act.wipe .lpddr).apply s).icon = s.icon :=
  setMem_icon s .lpddr _ (fun e => by cases e)
@[simp] theorem act_store_lpddr_otp (a : Nat) (bs : List Byte) : ((Act.store .lpddr a bs).apply s).otp = s.otp :=
  setMem_otp s .lpddr _ (fun e => by cases e)
@[simp] theorem act_wipe_lpddr_otp : ((Act.wipe .lpddr).apply s).otp = s.otp :=
  setMem_otp s .lpddr _ (fun e => by cases e)
@[simp] theorem act_store_lpddr_img (a : Nat) (bs : List Byte) : ((Act.store .lpddr a bs).apply s).img = s.img :=
  setMem_img s .lpddr _ (fun e => by cases e)
@[simp] theorem act_wipe_lpddr_img : ((Act.wipe .lpddr).apply s).img = s.img :=
  setMem_img s .lpddr _ (fun e => by cases e)
@[simp] theorem act_store_flash_plaza (a : Nat) (bs : List Byte) : ((Act.store .flash a bs).apply s).plaza = s.plaza :=
  setMem_plaza s .flash _ (fun e => by cases e)
@[simp] theorem act_wipe_flash_plaza : ((Act.wipe .flash).apply s).plaza = s.plaza :=
  setMem_plaza s .flash _ (fun e => by cases e)
@[simp] theorem act_store_flash_lpddr (a : Nat) (bs : List Byte) : ((Act.store .flash a bs).apply s).lpddr = s.lpddr :=
  setMem_lpddr s .flash _ (fun e => by cases e)
@[simp] theorem act_wipe_flash_lpddr : ((Act.wipe .flash).apply s).lpddr = s.lpddr :=
  setMem_lpddr s .flash _ (fun e => by cases e)
@[simp] theorem act_store_flash_retA (a : Nat) (bs : List Byte) : ((Act.store .flash a bs).apply s).retA = s.retA :=
  setMem_retA s .flash _ (fun e => by cases e)
@[simp] theorem act_wipe_flash_retA : ((Act.wipe .flash).apply s).retA = s.retA :=
  setMem_retA s .flash _ (fun e => by cases e)
@[simp] theorem act_store_flash_retB (a : Nat) (bs : List Byte) : ((Act.store .flash a bs).apply s).retB = s.retB :=
  setMem_retB s .flash _ (fun e => by cases e)
@[simp] theorem act_wipe_flash_retB : ((Act.wipe .flash).apply s).retB = s.retB :=
  setMem_retB s .flash _ (fun e => by cases e)
@[simp] theorem act_store_flash_icon (a : Nat) (bs : List Byte) : ((Act.store .flash a bs).apply s).icon = s.icon :=
  setMem_icon s .flash _ (fun e => by cases e)
@[simp] theorem act_wipe_flash_icon : ((Act.wipe .flash).apply s).icon = s.icon :=
  setMem_icon s .flash _ (fun e => by cases e)
@[simp] theorem act_store_flash_otp (a : Nat) (bs : List Byte) : ((Act.store .flash a bs).apply s).otp = s.otp :=
  setMem_otp s .flash _ (fun e => by cases e)
@[simp] theorem act_wipe_flash_otp : ((Act.wipe .flash).apply s).otp = s.otp :=
  setMem_otp s .flash _ (fun e => by cases e)
@[simp] theorem act_store_flash_img (a : Nat) (bs : List Byte) : ((Act.store .flash a bs).apply s).img = s.img :=
  setMem_img s .flash _ (fun e => by cases e)
@[simp] theorem act_wipe_flash_img : ((Act.wipe .flash).apply s).img = s.img :=
  setMem_img s .flash _ (fun e => by cases e)
@[simp] theorem act_store_retA_plaza (a : Nat) (bs : List Byte) : ((Act.store .retA a bs).apply s).plaza = s.plaza :=
  setMem_plaza s .retA _ (fun e => by cases e)
@[simp] theorem act_wipe_retA_plaza : ((Act.wipe .retA).apply s).plaza = s.plaza :=
  setMem_plaza s .retA _ (fun e => by cases e)
@[simp] theorem act_store_retA_lpddr (a : Nat) (bs : List Byte) : ((Act.store .retA a bs).apply s).lpddr = s.lpddr :=
  setMem_lpddr s .retA _ (fun e => by cases e)
@[simp] theorem act_wipe_retA_lpddr : ((Act.wipe .retA).apply s).lpddr = s.lpddr :=
  setMem_lpddr s .retA _ (fun e => by cases e)
@[simp] theorem act_store_retA_flash (a : Nat) (bs : List Byte) : ((Act.store .retA a bs).apply s).flash = s.flash :=
  setMem_flash s .retA _ (fun e => by cases e)
@[simp] theorem act_wipe_retA_flash : ((Act.wipe .retA).apply s).flash = s.flash :=
  setMem_flash s .retA _ (fun e => by cases e)
@[simp] theorem act_store_retA_retB (a : Nat) (bs : List Byte) : ((Act.store .retA a bs).apply s).retB = s.retB :=
  setMem_retB s .retA _ (fun e => by cases e)
@[simp] theorem act_wipe_retA_retB : ((Act.wipe .retA).apply s).retB = s.retB :=
  setMem_retB s .retA _ (fun e => by cases e)
@[simp] theorem act_store_retA_icon (a : Nat) (bs : List Byte) : ((Act.store .retA a bs).apply s).icon = s.icon :=
  setMem_icon s .retA _ (fun e => by cases e)
@[simp] theorem act_wipe_retA_icon : ((Act.wipe .retA).apply s).icon = s.icon :=
  setMem_icon s .retA _ (fun e => by cases e)
@[simp] theorem act_store_retA_otp (a : Nat) (bs : List Byte) : ((Act.store .retA a bs).apply s).otp = s.otp :=
  setMem_otp s .retA _ (fun e => by cases e)
@[simp] theorem act_wipe_retA_otp : ((Act.wipe .retA).apply s).otp = s.otp :=
  setMem_otp s .retA _ (fun e => by cases e)
@[simp] theorem act_store_retA_img (a : Nat) (bs : List Byte) : ((Act.store .retA a bs).apply s).img = s.img :=
  setMem_img s .retA _ (fun e => by cases e)
@[simp] theorem act_wipe_retA_img : ((Act.wipe .retA).apply s).img = s.img :=
  setMem_img s .retA _ (fun e => by cases e)
@[simp] theorem act_store_retB_plaza (a : Nat) (bs : List Byte) : ((Act.store .retB a bs).apply s).plaza = s.plaza :=
  setMem_plaza s .retB _ (fun e => by cases e)
@[simp] theorem act_wipe_retB_plaza : ((Act.wipe .retB).apply s).plaza = s.plaza :=
  setMem_plaza s .retB _ (fun e => by cases e)
@[simp] theorem act_store_retB_lpddr (a : Nat) (bs : List Byte) : ((Act.store .retB a bs).apply s).lpddr = s.lpddr :=
  setMem_lpddr s .retB _ (fun e => by cases e)
@[simp] theorem act_wipe_retB_lpddr : ((Act.wipe .retB).apply s).lpddr = s.lpddr :=
  setMem_lpddr s .retB _ (fun e => by cases e)
@[simp] theorem act_store_retB_flash (a : Nat) (bs : List Byte) : ((Act.store .retB a bs).apply s).flash = s.flash :=
  setMem_flash s .retB _ (fun e => by cases e)
@[simp] theorem act_wipe_retB_flash : ((Act.wipe .retB).apply s).flash = s.flash :=
  setMem_flash s .retB _ (fun e => by cases e)
@[simp] theorem act_store_retB_retA (a : Nat) (bs : List Byte) : ((Act.store .retB a bs).apply s).retA = s.retA :=
  setMem_retA s .retB _ (fun e => by cases e)
@[simp] theorem act_wipe_retB_retA : ((Act.wipe .retB).apply s).retA = s.retA :=
  setMem_retA s .retB _ (fun e => by cases e)
@[simp] theorem act_store_retB_icon (a : Nat) (bs : List Byte) : ((Act.store .retB a bs).apply s).icon = s.icon :=
  setMem_icon s .retB _ (fun e => by cases e)
@[simp] theorem act_wipe_retB_icon : ((Act.wipe .retB).apply s).icon = s.icon :=
  setMem_icon s .retB _ (fun e => by cases e)
@[simp] theorem act_store_retB_otp (a : Nat) (bs : List Byte) : ((Act.store .retB a bs).apply s).otp = s.otp :=
  setMem_otp s .retB _ (fun e => by cases e)
@[simp] theorem act_wipe_retB_otp : ((Act.wipe .retB).apply s).otp = s.otp :=
  setMem_otp s .retB _ (fun e => by cases e)
@[simp] theorem act_store_retB_img (a : Nat) (bs : List Byte) : ((Act.store .retB a bs).apply s).img = s.img :=
  setMem_img s .retB _ (fun e => by cases e)
@[simp] theorem act_wipe_retB_img : ((Act.wipe .retB).apply s).img = s.img :=
  setMem_img s .retB _ (fun e => by cases e)
@[simp] theorem act_store_icon_plaza (a : Nat) (bs : List Byte) : ((Act.store .icon a bs).apply s).plaza = s.plaza :=
  setMem_plaza s .icon _ (fun e => by cases e)
@[simp] theorem act_wipe_icon_plaza : ((Act.wipe .icon).apply s).plaza = s.plaza :=
  setMem_plaza s .icon _ (fun e => by cases e)
@[simp] theorem act_store_icon_lpddr (a : Nat) (bs : List Byte) : ((Act.store .icon a bs).apply s).lpddr = s.lpddr :=
  setMem_lpddr s .icon _ (fun e => by cases e)
@[simp] theorem act_wipe_icon_lpddr : ((Act.wipe .icon).apply s).lpddr = s.lpddr :=
  setMem_lpddr s .icon _ (fun e => by cases e)
@[simp] theorem act_store_icon_flash (a : Nat) (bs : List Byte) : ((Act.store .icon a bs).apply s).flash = s.flash :=
  setMem_flash s .icon _ (fun e => by cases e)
@[simp] theorem act_wipe_icon_flash : ((Act.wipe .icon).apply s).flash = s.flash :=
  setMem_flash s .icon _ (fun e => by cases e)
@[simp] theorem act_store_icon_retA (a : Nat) (bs : List Byte) : ((Act.store .icon a bs).apply s).retA = s.retA :=
  setMem_retA s .icon _ (fun e => by cases e)
@[simp] theorem act_wipe_icon_retA : ((Act.wipe .icon).apply s).retA = s.retA :=
  setMem_retA s .icon _ (fun e => by cases e)
@[simp] theorem act_store_icon_retB (a : Nat) (bs : List Byte) : ((Act.store .icon a bs).apply s).retB = s.retB :=
  setMem_retB s .icon _ (fun e => by cases e)
@[simp] theorem act_wipe_icon_retB : ((Act.wipe .icon).apply s).retB = s.retB :=
  setMem_retB s .icon _ (fun e => by cases e)
@[simp] theorem act_store_icon_otp (a : Nat) (bs : List Byte) : ((Act.store .icon a bs).apply s).otp = s.otp :=
  setMem_otp s .icon _ (fun e => by cases e)
@[simp] theorem act_wipe_icon_otp : ((Act.wipe .icon).apply s).otp = s.otp :=
  setMem_otp s .icon _ (fun e => by cases e)
@[simp] theorem act_store_icon_img (a : Nat) (bs : List Byte) : ((Act.store .icon a bs).apply s).img = s.img :=
  setMem_img s .icon _ (fun e => by cases e)
@[simp] theorem act_wipe_icon_img : ((Act.wipe .icon).apply s).img = s.img :=
  setMem_img s .icon _ (fun e => by cases e)
@[simp] theorem act_store_otp_plaza (a : Nat) (bs : List Byte) : ((Act.store .otp a bs).apply s).plaza = s.plaza :=
  setMem_plaza s .otp _ (fun e => by cases e)
@[simp] theorem act_wipe_otp_plaza : ((Act.wipe .otp).apply s).plaza = s.plaza :=
  setMem_plaza s .otp _ (fun e => by cases e)
@[simp] theorem act_store_otp_lpddr (a : Nat) (bs : List Byte) : ((Act.store .otp a bs).apply s).lpddr = s.lpddr :=
  setMem_lpddr s .otp _ (fun e => by cases e)
@[simp] theorem act_wipe_otp_lpddr : ((Act.wipe .otp).apply s).lpddr = s.lpddr :=
  setMem_lpddr s .otp _ (fun e => by cases e)
@[simp] theorem act_store_otp_flash (a : Nat) (bs : List Byte) : ((Act.store .otp a bs).apply s).flash = s.flash :=
  setMem_flash s .otp _ (fun e => by cases e)
@[simp] theorem act_wipe_otp_flash : ((Act.wipe .otp).apply s).flash = s.flash :=
  setMem_flash s .otp _ (fun e => by cases e)
@[simp] theorem act_store_otp_retA (a : Nat) (bs : List Byte) : ((Act.store .otp a bs).apply s).retA = s.retA :=
  setMem_retA s .otp _ (fun e => by cases e)
@[simp] theorem act_wipe_otp_retA : ((Act.wipe .otp).apply s).retA = s.retA :=
  setMem_retA s .otp _ (fun e => by cases e)
@[simp] theorem act_store_otp_retB (a : Nat) (bs : List Byte) : ((Act.store .otp a bs).apply s).retB = s.retB :=
  setMem_retB s .otp _ (fun e => by cases e)
@[simp] theorem act_wipe_otp_retB : ((Act.wipe .otp).apply s).retB = s.retB :=
  setMem_retB s .otp _ (fun e => by cases e)
@[simp] theorem act_store_otp_icon (a : Nat) (bs : List Byte) : ((Act.store .otp a bs).apply s).icon = s.icon :=
  setMem_icon s .otp _ (fun e => by cases e)
@[simp] theorem act_wipe_otp_icon : ((Act.wipe .otp).apply s).icon = s.icon :=
  setMem_icon s .otp _ (fun e => by cases e)
@[simp] theorem act_store_otp_img (a : Nat) (bs : List Byte) : ((Act.store .otp a bs).apply s).img = s.img :=
  setMem_img s .otp _ (fun e => by cases e)
@[simp] theorem act_wipe_otp_img : ((Act.wipe .otp).apply s).img = s.img :=
  setMem_img s .otp _ (fun e => by cases e)
@[simp] theorem act_store_img_plaza (a : Nat) (bs : List Byte) : ((Act.store .img a bs).apply s).plaza = s.plaza :=
  setMem_plaza s .img _ (fun e => by cases e)
@[simp] theorem act_wipe_img_plaza : ((Act.wipe .img).apply s).plaza = s.plaza :=
  setMem_plaza s .img _ (fun e => by cases e)
@[simp] theorem act_store_img_lpddr (a : Nat) (bs : List Byte) : ((Act.store .img a bs).apply s).lpddr = s.lpddr :=
  setMem_lpddr s .img _ (fun e => by cases e)
@[simp] theorem act_wipe_img_lpddr : ((Act.wipe .img).apply s).lpddr = s.lpddr :=
  setMem_lpddr s .img _ (fun e => by cases e)
@[simp] theorem act_store_img_flash (a : Nat) (bs : List Byte) : ((Act.store .img a bs).apply s).flash = s.flash :=
  setMem_flash s .img _ (fun e => by cases e)
@[simp] theorem act_wipe_img_flash : ((Act.wipe .img).apply s).flash = s.flash :=
  setMem_flash s .img _ (fun e => by cases e)
@[simp] theorem act_store_img_retA (a : Nat) (bs : List Byte) : ((Act.store .img a bs).apply s).retA = s.retA :=
  setMem_retA s .img _ (fun e => by cases e)
@[simp] theorem act_wipe_img_retA : ((Act.wipe .img).apply s).retA = s.retA :=
  setMem_retA s .img _ (fun e => by cases e)
@[simp] theorem act_store_img_retB (a : Nat) (bs : List Byte) : ((Act.store .img a bs).apply s).retB = s.retB :=
  setMem_retB s .img _ (fun e => by cases e)
@[simp] theorem act_wipe_img_retB : ((Act.wipe .img).apply s).retB = s.retB :=
  setMem_retB s .img _ (fun e => by cases e)
@[simp] theorem act_store_img_icon (a : Nat) (bs : List Byte) : ((Act.store .img a bs).apply s).icon = s.icon :=
  setMem_icon s .img _ (fun e => by cases e)
@[simp] theorem act_wipe_img_icon : ((Act.wipe .img).apply s).icon = s.icon :=
  setMem_icon s .img _ (fun e => by cases e)
@[simp] theorem act_store_img_otp (a : Nat) (bs : List Byte) : ((Act.store .img a bs).apply s).otp = s.otp :=
  setMem_otp s .img _ (fun e => by cases e)
@[simp] theorem act_wipe_img_otp : ((Act.wipe .img).apply s).otp = s.otp :=
  setMem_otp s .img _ (fun e => by cases e)
@[simp] theorem act_store_pending (id : MemId) (a : Nat) (bs : List Byte) :
    ((Act.store id a bs).apply s).pending = s.pending := setMem_pending s id _
@[simp] theorem act_store_ident (id : MemId) (a : Nat) (bs : List Byte) :
    ((Act.store id a bs).apply s).ident = s.ident := setMem_ident s id _
@[simp] theorem act_store_time (id : MemId) (a : Nat) (bs : List Byte) :
    ((Act.store id a bs).apply s).time = s.time := setMem_time s id _
@[simp] theorem act_store_phase (id : MemId) (a : Nat) (bs : List Byte) :
    ((Act.store id a bs).apply s).phase = s.phase := setMem_phase s id _
@[simp] theorem act_store_free (id : MemId) (a : Nat) (bs : List Byte) :
    ((Act.store id a bs).apply s).free = s.free := setMem_free s id _
@[simp] theorem act_store_bus (id : MemId) (a : Nat) (bs : List Byte) :
    ((Act.store id a bs).apply s).bus = s.bus := setMem_bus s id _
@[simp] theorem act_store_regs (id : MemId) (a : Nat) (bs : List Byte) :
    ((Act.store id a bs).apply s).regs = s.regs := setMem_regs s id _
@[simp] theorem act_store_rwpPend (id : MemId) (a : Nat) (bs : List Byte) :
    ((Act.store id a bs).apply s).rwpPend = s.rwpPend := setMem_rwpPend s id _
@[simp] theorem act_store_ring (id : MemId) (a : Nat) (bs : List Byte) :
    ((Act.store id a bs).apply s).ring = s.ring := setMem_ring s id _
@[simp] theorem act_store_nextSeq (id : MemId) (a : Nat) (bs : List Byte) :
    ((Act.store id a bs).apply s).nextSeq = s.nextSeq := setMem_nextSeq s id _
@[simp] theorem act_store_leases (id : MemId) (a : Nat) (bs : List Byte) :
    ((Act.store id a bs).apply s).leases = s.leases := setMem_leases s id _
@[simp] theorem act_store_lamp (id : MemId) (a : Nat) (bs : List Byte) :
    ((Act.store id a bs).apply s).lamp = s.lamp := setMem_lamp s id _
@[simp] theorem act_store_rcl (id : MemId) (a : Nat) (bs : List Byte) :
    ((Act.store id a bs).apply s).rcl = s.rcl := setMem_rcl s id _
@[simp] theorem act_store_boot (id : MemId) (a : Nat) (bs : List Byte) :
    ((Act.store id a bs).apply s).boot = s.boot := setMem_boot s id _
@[simp] theorem act_store_ave (id : MemId) (a : Nat) (bs : List Byte) :
    ((Act.store id a bs).apply s).ave = s.ave := setMem_ave s id _
@[simp] theorem act_store_xlt (id : MemId) (a : Nat) (bs : List Byte) :
    ((Act.store id a bs).apply s).xlt = s.xlt := setMem_xlt s id _
@[simp] theorem act_store_wrd (id : MemId) (a : Nat) (bs : List Byte) :
    ((Act.store id a bs).apply s).wrd = s.wrd := setMem_wrd s id _
@[simp] theorem act_store_xng (id : MemId) (a : Nat) (bs : List Byte) :
    ((Act.store id a bs).apply s).xng = s.xng := setMem_xng s id _
@[simp] theorem act_store_cam (id : MemId) (a : Nat) (bs : List Byte) :
    ((Act.store id a bs).apply s).cam = s.cam := setMem_cam s id _
@[simp] theorem act_store_ras (id : MemId) (a : Nat) (bs : List Byte) :
    ((Act.store id a bs).apply s).ras = s.ras := setMem_ras s id _
@[simp] theorem act_store_dst (id : MemId) (a : Nat) (bs : List Byte) :
    ((Act.store id a bs).apply s).dst = s.dst := setMem_dst s id _
@[simp] theorem act_store_rbt (id : MemId) (a : Nat) (bs : List Byte) :
    ((Act.store id a bs).apply s).rbt = s.rbt := setMem_rbt s id _
@[simp] theorem act_store_sco (id : MemId) (a : Nat) (bs : List Byte) :
    ((Act.store id a bs).apply s).sco = s.sco := setMem_sco s id _
@[simp] theorem act_store_sgn (id : MemId) (a : Nat) (bs : List Byte) :
    ((Act.store id a bs).apply s).sgn = s.sgn := setMem_sgn s id _
@[simp] theorem act_store_hv (id : MemId) (a : Nat) (bs : List Byte) :
    ((Act.store id a bs).apply s).hv = s.hv := setMem_hv s id _
@[simp] theorem act_store_can (id : MemId) (a : Nat) (bs : List Byte) :
    ((Act.store id a bs).apply s).can = s.can := setMem_can s id _
@[simp] theorem act_store_svc (id : MemId) (a : Nat) (bs : List Byte) :
    ((Act.store id a bs).apply s).svc = s.svc := setMem_svc s id _
@[simp] theorem act_store_ports (id : MemId) (a : Nat) (bs : List Byte) :
    ((Act.store id a bs).apply s).ports = s.ports := setMem_ports s id _
@[simp] theorem act_store_brg (id : MemId) (a : Nat) (bs : List Byte) :
    ((Act.store id a bs).apply s).brg = s.brg := setMem_brg s id _

@[simp] theorem act_wipe_pending (id : MemId) : ((Act.wipe id).apply s).pending = s.pending :=
  setMem_pending s id _
@[simp] theorem act_wipe_ident (id : MemId) : ((Act.wipe id).apply s).ident = s.ident :=
  setMem_ident s id _
@[simp] theorem act_wipe_time (id : MemId) : ((Act.wipe id).apply s).time = s.time :=
  setMem_time s id _
@[simp] theorem act_wipe_phase (id : MemId) : ((Act.wipe id).apply s).phase = s.phase :=
  setMem_phase s id _
@[simp] theorem act_wipe_free (id : MemId) : ((Act.wipe id).apply s).free = s.free :=
  setMem_free s id _
@[simp] theorem act_wipe_bus (id : MemId) : ((Act.wipe id).apply s).bus = s.bus :=
  setMem_bus s id _
@[simp] theorem act_wipe_regs (id : MemId) : ((Act.wipe id).apply s).regs = s.regs :=
  setMem_regs s id _
@[simp] theorem act_wipe_rwpPend (id : MemId) : ((Act.wipe id).apply s).rwpPend = s.rwpPend :=
  setMem_rwpPend s id _
@[simp] theorem act_wipe_ring (id : MemId) : ((Act.wipe id).apply s).ring = s.ring :=
  setMem_ring s id _
@[simp] theorem act_wipe_nextSeq (id : MemId) : ((Act.wipe id).apply s).nextSeq = s.nextSeq :=
  setMem_nextSeq s id _
@[simp] theorem act_wipe_leases (id : MemId) : ((Act.wipe id).apply s).leases = s.leases :=
  setMem_leases s id _
@[simp] theorem act_wipe_lamp (id : MemId) : ((Act.wipe id).apply s).lamp = s.lamp :=
  setMem_lamp s id _
@[simp] theorem act_wipe_rcl (id : MemId) : ((Act.wipe id).apply s).rcl = s.rcl :=
  setMem_rcl s id _
@[simp] theorem act_wipe_boot (id : MemId) : ((Act.wipe id).apply s).boot = s.boot :=
  setMem_boot s id _
@[simp] theorem act_wipe_ave (id : MemId) : ((Act.wipe id).apply s).ave = s.ave :=
  setMem_ave s id _
@[simp] theorem act_wipe_xlt (id : MemId) : ((Act.wipe id).apply s).xlt = s.xlt :=
  setMem_xlt s id _
@[simp] theorem act_wipe_wrd (id : MemId) : ((Act.wipe id).apply s).wrd = s.wrd :=
  setMem_wrd s id _
@[simp] theorem act_wipe_xng (id : MemId) : ((Act.wipe id).apply s).xng = s.xng :=
  setMem_xng s id _
@[simp] theorem act_wipe_cam (id : MemId) : ((Act.wipe id).apply s).cam = s.cam :=
  setMem_cam s id _
@[simp] theorem act_wipe_ras (id : MemId) : ((Act.wipe id).apply s).ras = s.ras :=
  setMem_ras s id _
@[simp] theorem act_wipe_dst (id : MemId) : ((Act.wipe id).apply s).dst = s.dst :=
  setMem_dst s id _
@[simp] theorem act_wipe_rbt (id : MemId) : ((Act.wipe id).apply s).rbt = s.rbt :=
  setMem_rbt s id _
@[simp] theorem act_wipe_sco (id : MemId) : ((Act.wipe id).apply s).sco = s.sco :=
  setMem_sco s id _
@[simp] theorem act_wipe_sgn (id : MemId) : ((Act.wipe id).apply s).sgn = s.sgn :=
  setMem_sgn s id _
@[simp] theorem act_wipe_hv (id : MemId) : ((Act.wipe id).apply s).hv = s.hv :=
  setMem_hv s id _
@[simp] theorem act_wipe_can (id : MemId) : ((Act.wipe id).apply s).can = s.can :=
  setMem_can s id _
@[simp] theorem act_wipe_svc (id : MemId) : ((Act.wipe id).apply s).svc = s.svc :=
  setMem_svc s id _
@[simp] theorem act_wipe_ports (id : MemId) : ((Act.wipe id).apply s).ports = s.ports :=
  setMem_ports s id _
@[simp] theorem act_wipe_brg (id : MemId) : ((Act.wipe id).apply s).brg = s.brg :=
  setMem_brg s id _

/-! ### Acts on memories and registers -/

@[simp] theorem act_store_mem (id : MemId) (a : Nat) (bs : List Byte) : ((Act.store id a bs).apply s).mem id =
    Memory.store id.dflt id.size (s.mem id) a bs := mem_setMem_self s id _

@[simp] theorem act_wipe_mem (id : MemId) : ((Act.wipe id).apply s).mem id = [] :=
  mem_setMem_self s id []

@[simp] theorem act_reg_regs (a v : Nat) :
    ((Act.reg a v).apply s).regs = keyPut s.regs a (v % 2 ^ 32) := by
  simp only [Act.apply]

@[simp] theorem act_record_ring (r : FaultRec) : ((Act.record r).apply s).ring = pushRing s.ring r := by
  simp only [Act.apply]

@[simp] theorem act_record_nextSeq (r : FaultRec) : ((Act.record r).apply s).nextSeq = s.nextSeq + 1 := by
  simp only [Act.apply]

@[simp] theorem act_bus_bus (r : BusResp) : ((Act.bus r).apply s).bus = r := by
  simp only [Act.apply]

@[simp] theorem act_draw_free (n : Nat) : ((Act.draw n).apply s).free = s.free + n := by
  simp only [Act.apply]

@[simp] theorem act_clearLeases_leases : (Act.clearLeases.apply s).leases = [] := by
  simp only [Act.apply]

@[simp] theorem act_clearRing_ring : (Act.clearRing.apply s).ring = [] := by
  simp only [Act.apply]

@[simp] theorem act_clearRing_nextSeq : (Act.clearRing.apply s).nextSeq = 1 := by
  simp only [Act.apply]

@[simp] theorem act_wipe_plaza : ((Act.wipe .plaza).apply s).plaza = [] := act_wipe_mem s .plaza

@[simp] theorem act_store_plaza (a : Nat) (bs : List Byte) :
    ((Act.store .plaza a bs).apply s).plaza
      = Memory.store (MemId.dflt .plaza) (MemId.size .plaza) s.plaza a bs := act_store_mem s .plaza a bs

@[simp] theorem act_wipe_lpddr : ((Act.wipe .lpddr).apply s).lpddr = [] := act_wipe_mem s .lpddr

@[simp] theorem act_store_lpddr (a : Nat) (bs : List Byte) :
    ((Act.store .lpddr a bs).apply s).lpddr
      = Memory.store (MemId.dflt .lpddr) (MemId.size .lpddr) s.lpddr a bs := act_store_mem s .lpddr a bs

@[simp] theorem act_wipe_flash : ((Act.wipe .flash).apply s).flash = [] := act_wipe_mem s .flash

@[simp] theorem act_store_flash (a : Nat) (bs : List Byte) :
    ((Act.store .flash a bs).apply s).flash
      = Memory.store (MemId.dflt .flash) (MemId.size .flash) s.flash a bs := act_store_mem s .flash a bs

@[simp] theorem act_wipe_retA : ((Act.wipe .retA).apply s).retA = [] := act_wipe_mem s .retA

@[simp] theorem act_store_retA (a : Nat) (bs : List Byte) :
    ((Act.store .retA a bs).apply s).retA
      = Memory.store (MemId.dflt .retA) (MemId.size .retA) s.retA a bs := act_store_mem s .retA a bs

@[simp] theorem act_wipe_retB : ((Act.wipe .retB).apply s).retB = [] := act_wipe_mem s .retB

@[simp] theorem act_store_retB (a : Nat) (bs : List Byte) :
    ((Act.store .retB a bs).apply s).retB
      = Memory.store (MemId.dflt .retB) (MemId.size .retB) s.retB a bs := act_store_mem s .retB a bs

@[simp] theorem act_wipe_icon : ((Act.wipe .icon).apply s).icon = [] := act_wipe_mem s .icon

@[simp] theorem act_store_icon (a : Nat) (bs : List Byte) :
    ((Act.store .icon a bs).apply s).icon
      = Memory.store (MemId.dflt .icon) (MemId.size .icon) s.icon a bs := act_store_mem s .icon a bs

@[simp] theorem act_wipe_otp : ((Act.wipe .otp).apply s).otp = [] := act_wipe_mem s .otp

@[simp] theorem act_store_otp (a : Nat) (bs : List Byte) :
    ((Act.store .otp a bs).apply s).otp
      = Memory.store (MemId.dflt .otp) (MemId.size .otp) s.otp a bs := act_store_mem s .otp a bs

@[simp] theorem act_wipe_img : ((Act.wipe .img).apply s).img = [] := act_wipe_mem s .img

@[simp] theorem act_store_img (a : Nat) (bs : List Byte) :
    ((Act.store .img a bs).apply s).img
      = Memory.store (MemId.dflt .img) (MemId.size .img) s.img a bs := act_store_mem s .img a bs

end Sys2Proof.Machine
end

