-- ==== Sys2Proof/Laws/Prog.lean ====
section
/-! SUPPORT. Running a micro-program, piece by piece; what a micro-program leaves alone. -/

set_option Elab.async false

namespace Sys2Proof.Machine

@[simp] theorem run_skip (s : State) : Prog.skip.run s = s := (rfl)
@[simp] theorem run_act (a : Act) (s : State) : (Prog.act a).run s = a.apply s := (rfl)
@[simp] theorem run_seq (p q : Prog) (s : State) : (Prog.seq p q).run s = q.run (p.run s) := (rfl)
@[simp] theorem run_look (k : State → Prog) (s : State) : (Prog.look k).run s = (k s).run s := (rfl)
@[simp] theorem run_all_nil (s : State) : (Prog.all []).run s = s := (rfl)
@[simp] theorem run_all_cons (p : Prog) (ps : List Prog) (s : State) :
    (Prog.all (p :: ps)).run s = (Prog.all ps).run (p.run s) := (rfl)
@[simp] theorem run_each_nil {α : Type} (f : α → Prog) (s : State) :
    (Prog.each [] f).run s = s := (rfl)
@[simp] theorem run_each_cons {α : Type} (x : α) (l : List α) (f : α → Prog) (s : State) :
    (Prog.each (x :: l) f).run s = (Prog.each l f).run ((f x).run s) := (rfl)

theorem run_when_pos {c : Prop} [Decidable c] (h : c) (p : Prog) : Prog.when c p = p := if_pos h
theorem run_when_neg {c : Prop} [Decidable c] (h : ¬ c) (p : Prog) : Prog.when c p = .skip :=
  if_neg h

theorem outcome_eq (p : Prog) (s : State) : Prog.outcome p s = .next (p.run s) := (rfl)

/-- The micro-program leaves `π` of the state as it was. -/
def Prog.Keeps {α : Type} (π : State → α) (p : Prog) : Prop := ∀ s, π (p.run s) = π s

section keeps
variable {α : Type} {π : State → α}

theorem keeps_skip : Prog.skip.Keeps π := fun _ => rfl

theorem keeps_act {a : Act} (h : ∀ s, π (a.apply s) = π s) : (Prog.act a).Keeps π := h

theorem keeps_seq {p q : Prog} (hp : p.Keeps π) (hq : q.Keeps π) : (Prog.seq p q).Keeps π :=
  fun s => (hq _).trans (hp s)

theorem keeps_look {k : State → Prog} (h : ∀ s, (k s).Keeps π) : (Prog.look k).Keeps π :=
  fun s => h s s

theorem keeps_all {ps : List Prog} (h : ∀ p ∈ ps, p.Keeps π) : (Prog.all ps).Keeps π := by
  induction ps with
  | nil => exact keeps_skip
  | cons p t ih =>
    exact keeps_seq (h p List.mem_cons_self) (ih fun q hq => h q (List.mem_cons_of_mem _ hq))

theorem keeps_all_nil : (Prog.all []).Keeps π := keeps_skip

theorem keeps_all_cons {p : Prog} {ps : List Prog} (hp : p.Keeps π) (h : (Prog.all ps).Keeps π) :
    (Prog.all (p :: ps)).Keeps π := keeps_seq hp h

theorem keeps_when {c : Prop} [Decidable c] {p : Prog} (h : c → p.Keeps π) :
    (Prog.when c p).Keeps π := by
  unfold Prog.when
  split
  · exact h ‹_›
  · exact keeps_skip

theorem keeps_ite {c : Prop} [Decidable c] {p q : Prog} (hp : p.Keeps π) (hq : q.Keeps π) :
    (if c then p else q).Keeps π := by
  split
  · exact hp
  · exact hq

theorem keeps_each {β : Type} {l : List β} {f : β → Prog} (h : ∀ x, (f x).Keeps π) :
    (Prog.each l f).Keeps π := by
  induction l with
  | nil => exact keeps_skip
  | cons x t ih => exact keeps_seq (h x) ih

end keeps

/-- The queue of commands, the identity, and the model's clock are no business of a
micro-program: no act writes them. -/
theorem run_frame (p : Prog) (s : State) :
    (p.run s).pending = s.pending ∧ (p.run s).ident = s.ident ∧ (p.run s).time = s.time
      ∧ (p.run s).phase = s.phase := by
  induction p generalizing s with
  | skip => exact ⟨rfl, rfl, rfl, rfl⟩
  | act a => exact ⟨act_frame_pending s a, act_frame_ident s a, act_frame_time s a,
      act_frame_phase s a⟩
  | seq p q hp hq =>
    obtain ⟨a, b, c, d⟩ := hq (p.run s)
    obtain ⟨a', b', c', d'⟩ := hp s
    exact ⟨a.trans a', b.trans b', c.trans c', d.trans d'⟩
  | look k h => exact h s s

end Sys2Proof.Machine
end

