-- ==== Sys2Proof/Laws/Within.lean ====
section
/-! SUPPORT. What a micro-program can change at most. -/

set_option Elab.async false
set_option linter.unreachableTactic false
set_option linter.unusedTactic false

namespace Sys2Proof.Machine

/-- The micro-program changes nothing but the parts `W`. -/
def Prog.Within (W : List Part) (p : Prog) : Prop :=
  ∀ s q, coveredBy W q = false → q.same s (p.run s)

theorem same_refl (q : Part) (s : State) : q.same s s := by
  cases q <;> simp [Part.same]

theorem same_trans {q : Part} {s t u : State} (h : q.same s t) (h' : q.same t u) :
    q.same s u := by
  cases q <;> simp only [Part.same] at * <;> first
    | trivial
    | exact h'.trans h
    | exact ⟨h'.1.trans h.1, h'.2.trans h.2⟩
    | exact fun a ha => (h' a ha).trans (h a ha)

/-- Every part of `V` is among those of `W`. -/
def partsLe (V W : List Part) : Bool := V.all fun p => coveredBy W p

theorem covered_of_le {V W : List Part} {q : Part} (hq : coveredBy V q = true)
    (h : partsLe V W = true) : coveredBy W q = true := by
  simp only [partsLe, List.all_eq_true] at h
  simp only [coveredBy, Bool.or_eq_true, List.contains_eq_mem, decide_eq_true_eq,
    Bool.and_eq_true] at hq
  rcases hq with hq | ⟨hq, hr⟩
  · exact h q hq
  · have := h _ hq
    cases q <;> simp_all [coveredBy]

theorem partsLe_refl (W : List Part) : partsLe W W = true := by
  unfold partsLe
  rw [List.all_eq_true]
  intro p hp
  simp [coveredBy, hp]

theorem partsLe_trans {U V W : List Part} (h : partsLe U V = true) (h' : partsLe V W = true) :
    partsLe U W = true := by
  simp only [partsLe, List.all_eq_true]
  intro p hp
  exact covered_of_le ((List.all_eq_true.mp h) p hp) h'

theorem covered_mono {V W : List Part} (h : partsLe V W = true) {q : Part}
    (hq : coveredBy W q = false) : coveredBy V q = false := by
  by_contra hc
  rw [Bool.not_eq_false] at hc
  rw [covered_of_le hc h] at hq
  cases hq

theorem lec {V W : List Part} {q : Part} (h : partsLe V W = true) (hq : coveredBy V q = true) :
    coveredBy W q = true := covered_of_le hq h

theorem lel {U V W : List Part} (h : partsLe V W = true) (h' : partsLe U V = true) :
    partsLe U W = true := partsLe_trans h' h

section within
variable {W V : List Part}

theorem Prog.Within.mono {p : Prog} (hp : p.Within V) (h : partsLe V W = true) : p.Within W :=
  fun s _ hq => hp s _ (covered_mono h hq)

theorem within_skip : Prog.skip.Within W := fun s q _ => same_refl q s

theorem within_seq {p q : Prog} (hp : p.Within W) (hq : q.Within W) : (Prog.seq p q).Within W :=
  fun s r hr => same_trans (hp s r hr) (hq _ r hr)

theorem within_look {k : State → Prog} (h : ∀ s, (k s).Within W) : (Prog.look k).Within W :=
  fun s => h s s

theorem within_all_nil : (Prog.all []).Within W := within_skip

theorem within_all_cons {p : Prog} {ps : List Prog} (hp : p.Within W)
    (h : (Prog.all ps).Within W) : (Prog.all (p :: ps)).Within W := within_seq hp h

theorem within_all {ps : List Prog} (h : ∀ p ∈ ps, p.Within W) : (Prog.all ps).Within W := by
  induction ps with
  | nil => exact within_skip
  | cons p t ih =>
    exact within_seq (h p List.mem_cons_self) (ih fun q hq => h q (List.mem_cons_of_mem _ hq))

theorem within_all_map {β : Type} {l : List β} {f : β → Prog} (h : ∀ x, (f x).Within W) :
    (Prog.all (l.map f)).Within W := by
  apply within_all
  intro p hp
  obtain ⟨x, -, rfl⟩ := List.mem_map.mp hp
  exact h x

theorem within_all_replicate {n : Nat} {p : Prog} (h : p.Within W) :
    (Prog.all (List.replicate n p)).Within W :=
  within_all fun _ hq => by rw [List.eq_of_mem_replicate hq]; exact h

theorem within_when {c : Prop} [Decidable c] {p : Prog} (h : p.Within W) :
    (Prog.when c p).Within W := by
  unfold Prog.when
  split
  · exact h
  · exact within_skip

theorem within_ite {c : Prop} [Decidable c] {p q : Prog} (hp : p.Within W) (hq : q.Within W) :
    (if c then p else q).Within W := by
  split
  · exact hp
  · exact hq

theorem within_progIte {c : Prop} [Decidable c] {p q : Prog} (hp : p.Within W)
    (hq : q.Within W) : (Prog.ite c p q).Within W := within_ite hp hq

theorem within_each {β : Type} {l : List β} {f : β → Prog} (h : ∀ x, (f x).Within W) :
    (Prog.each l f).Within W := by
  induction l with
  | nil => exact within_skip
  | cons x t ih => exact within_seq (h x) ih

theorem within_each_mem {β : Type} {l : List β} {f : β → Prog} (h : ∀ x ∈ l, (f x).Within W) :
    (Prog.each l f).Within W := by
  induction l with
  | nil => exact within_skip
  | cons x t ih =>
    exact within_seq (h x List.mem_cons_self) (ih fun y hy => h y (List.mem_cons_of_mem x hy))

theorem within_foldl {β γ : Type} {l : List β} {step : Prog × γ → β → Prog × γ}
    {acc : Prog × γ} (h0 : acc.1.Within W)
    (hs : ∀ a x, a.1.Within W → (step a x).1.Within W) : (l.foldl step acc).1.Within W := by
  induction l generalizing acc with
  | nil => exact h0
  | cons x t ih => exact ih (hs acc x h0)

/-! ### Acts -/

/-- The part an act writes. -/
def Act.part (a : Act) : Part :=
  match a with
  | .reg addr _ => .regs (regSlot addr)
  | .pend _ _ => .pend
  | .clearRegs _ _ => .allRegs
  | .store id _ _ => .mem id
  | .wipe id => .mem id
  | .bus _ => .bus
  | .draw _ => .free
  | .record _ => .ring
  | .clearRing => .ring
  | .lease _ _ => .leases
  | .clearLeases => .leases
  | .lamp _ => .lamp
  | .rcl _ => .rcl
  | .boot _ => .boot
  | .ave _ => .ave
  | .xlt _ => .xlt
  | .wrd _ => .wrd
  | .xng _ => .xng
  | .cam _ => .cam
  | .ras _ => .ras
  | .dst _ => .dst
  | .rbt _ => .rbt
  | .sco _ => .sco
  | .sgn _ => .sgn
  | .hv _ => .hv
  | .can _ => .can
  | .svc _ => .svc
  | .ports _ => .ports
  | .brg _ => .brg

theorem mem_act_other {a : Act} {id : MemId} (s : State) (h : a.part ≠ .mem id) :
    (a.apply s).mem id = s.mem id := by
  cases a with
  | store j x y => exact mem_setMem s j id _ (by rintro rfl; exact h rfl)
  | wipe j => exact mem_setMem s j id _ (by rintro rfl; exact h rfl)
  | _ => cases id <;> simp [State.mem]

theorem within_act {a : Act} (h : coveredBy W a.part = true)
    (hc : ∀ lo hi, a ≠ .clearRegs lo hi) : (Prog.act a).Within W := by
  intro s q hq
  have hne : a.part ≠ q := by rintro rfl; simp [h] at hq
  cases q with
  | mem id => exact mem_act_other s hne
  | regs b =>
    intro x hx
    cases a with
    | reg addr v =>
      rw [run_act, act_reg_regs]
      exact keyGet_keyPut_other (by rintro rfl; exact hne (by rw [← hx]; rfl))
    | clearRegs lo hi => exact absurd rfl (hc lo hi)
    | _ => simp
  | allRegs => trivial
  | _ =>
    cases a <;> first
      | exact absurd rfl hne
      | exact absurd rfl (hc _ _)
      | simp [Part.same]

/-- Returning registers to their reset words leaves everything but registers, and the pending
values of complement pairs, alone. -/
theorem within_clearRegs {lo hi : Nat} (h : coveredBy W .allRegs = true)
    (hp : coveredBy W .pend = true) : (Prog.act (.clearRegs lo hi)).Within W := by
  intro s q hq
  cases q with
  | regs b =>
    simp only [coveredBy, List.contains_eq_mem, Bool.or_eq_true, decide_eq_true_eq,
      Bool.and_eq_true, Bool.or_eq_false_iff, decide_eq_false_iff_not] at h hq
    simp_all
  | pend => simp [hp] at hq
  | mem id => cases id <;> simp [Part.same, State.mem]
  | _ => simp [Part.same]

/-! ### Changing a block -/

theorem within_modLamp (h : coveredBy W .lamp = true)
    {f : Lamp → Lamp} :
    (modLamp f).Within W :=
  within_look fun _ => within_act h (fun _ _ e => by cases e)

theorem within_modRcl (h : coveredBy W .rcl = true)
    {f : Rcl → Rcl} :
    (modRcl f).Within W :=
  within_look fun _ => within_act h (fun _ _ e => by cases e)

theorem within_modBoot (h : coveredBy W .boot = true)
    {f : Boot → Boot} :
    (modBoot f).Within W :=
  within_look fun _ => within_act h (fun _ _ e => by cases e)

theorem within_modAve (h : coveredBy W .ave = true)
    {f : Ave → Ave} :
    (modAve f).Within W :=
  within_look fun _ => within_act h (fun _ _ e => by cases e)

theorem within_modXlt (h : coveredBy W .xlt = true)
    {f : Xlt → Xlt} :
    (modXlt f).Within W :=
  within_look fun _ => within_act h (fun _ _ e => by cases e)

theorem within_modWrd (h : coveredBy W .wrd = true)
    {f : Wrd → Wrd} :
    (modWrd f).Within W :=
  within_look fun _ => within_act h (fun _ _ e => by cases e)

theorem within_modXng (h : coveredBy W .xng = true)
    {f : Xng → Xng} :
    (modXng f).Within W :=
  within_look fun _ => within_act h (fun _ _ e => by cases e)

theorem within_modCam (h : coveredBy W .cam = true)
    {f : Cam → Cam} :
    (modCam f).Within W :=
  within_look fun _ => within_act h (fun _ _ e => by cases e)

theorem within_modRas (h : coveredBy W .ras = true)
    {f : Ras → Ras} :
    (modRas f).Within W :=
  within_look fun _ => within_act h (fun _ _ e => by cases e)

theorem within_modDst (h : coveredBy W .dst = true)
    {f : Dst → Dst} :
    (modDst f).Within W :=
  within_look fun _ => within_act h (fun _ _ e => by cases e)

theorem within_modRbt (h : coveredBy W .rbt = true)
    {f : Rbt → Rbt} :
    (modRbt f).Within W :=
  within_look fun _ => within_act h (fun _ _ e => by cases e)

theorem within_modSco (h : coveredBy W .sco = true)
    {f : Sco → Sco} :
    (modSco f).Within W :=
  within_look fun _ => within_act h (fun _ _ e => by cases e)

theorem within_modSgn (h : coveredBy W .sgn = true)
    {f : Sgn → Sgn} :
    (modSgn f).Within W :=
  within_look fun _ => within_act h (fun _ _ e => by cases e)

theorem within_modHv (h : coveredBy W .hv = true)
    {f : Hv → Hv} :
    (modHv f).Within W :=
  within_look fun _ => within_act h (fun _ _ e => by cases e)

theorem within_modCan (h : coveredBy W .can = true)
    {f : List CanCtl → List CanCtl} :
    (modCan f).Within W :=
  within_look fun _ => within_act h (fun _ _ e => by cases e)

theorem within_modSvc (h : coveredBy W .svc = true)
    {f : Svc → Svc} :
    (modSvc f).Within W :=
  within_look fun _ => within_act h (fun _ _ e => by cases e)

theorem within_modPorts (h : coveredBy W .ports = true)
    {f : Ports → Ports} :
    (modPorts f).Within W :=
  within_look fun _ => within_act h (fun _ _ e => by cases e)

theorem within_modBrg (h : coveredBy W .brg = true)
    {f : Brg → Brg} :
    (modBrg f).Within W :=
  within_look fun _ => within_act h (fun _ _ e => by cases e)

/-! ### Registers -/

/-- The register array lies within one 64 KiB slot, or is one of the districts or of the CAN
controllers. -/
def Reg.oneSlot (r : Reg) : Bool :=
  let last := r.addr + r.s1 * (r.n1 - 1) + r.s2 * (r.n2 - 1) + 4
  decide (0 < r.n1) && decide (0 < r.n2) && (decide (r.addr / 0x10000 = last / 0x10000)
    || (decide (r.addr / 0x10000 = 0xF010) && decide (r.s1 = 0x10000) && decide (r.n1 = 8)
      && decide (r.n2 = 1) && decide (r.addr % 0x10000 + 4 < 0x10000))
    || (decide (r.addr / 0x10000 = 0xF060) && decide (r.s1 = 0x10000) && decide (r.n1 = 2)
      && decide (r.n2 = 1) && decide (r.addr % 0x10000 + 4 < 0x10000)))

theorem regSlot_at {r : Reg} (h : r.oneSlot = true) (i j k : Nat) (hk : k ≤ 4) :
    regSlot (r.at i j + k) = regSlot r.addr := by
  simp only [Reg.oneSlot, Bool.and_eq_true, decide_eq_true_eq, Bool.or_eq_true] at h
  obtain ⟨⟨h1, h2⟩, h⟩ := h
  have hi : i % r.n1 ≤ r.n1 - 1 := by have := Nat.mod_lt i h1; omega
  have hj : j % r.n2 ≤ r.n2 - 1 := by have := Nat.mod_lt j h2; omega
  rcases h with (h | ⟨⟨⟨⟨ha, hs⟩, hn⟩, hm⟩, h⟩) | ⟨⟨⟨⟨ha, hs⟩, hn⟩, hm⟩, h⟩
  · have hi' := Nat.mul_le_mul_left r.s1 hi
    have hj' := Nat.mul_le_mul_left r.s2 hj
    have : (r.at i j + k) / 0x10000 = r.addr / 0x10000 := by
      unfold Reg.at
      generalize r.s1 * (i % r.n1) = x at *
      generalize r.s2 * (j % r.n2) = y at *
      omega
    unfold regSlot
    rw [this]
  · have hq : (r.at i j + k) / 0x10000 = 0xF010 + i % 8 := by
      unfold Reg.at
      rw [hs, hm, hn, Nat.mod_one]
      omega
    have hi8 : i % 8 < 8 := Nat.mod_lt i (by omega)
    unfold regSlot
    rw [hq, ha]
    generalize i % 8 = q at *
    interval_cases q <;> rfl
  · have hq : (r.at i j + k) / 0x10000 = 0xF060 + i % 2 := by
      unfold Reg.at
      rw [hs, hm, hn, Nat.mod_one]
      omega
    have hi2 : i % 2 < 2 := Nat.mod_lt i (by omega)
    unfold regSlot
    rw [hq, ha]
    generalize i % 2 = q at *
    interval_cases q <;> rfl

theorem within_setReg {r : Reg} {v i j : Nat} (hr : r.oneSlot = true)
    (h : coveredBy W (.regs (regSlot r.addr)) = true) : (setReg r v i j).Within W := by
  unfold setReg
  refine within_seq (within_act ?_ (fun _ _ e => by cases e)) ?_
  · have := regSlot_at hr i j 0 (by omega)
    rw [Nat.add_zero] at this
    rw [Act.part, this]; exact h
  · split
    · refine within_act ?_ (fun _ _ e => by cases e)
      rw [Act.part, regSlot_at hr i j 4 (by omega)]; exact h
    · exact within_skip

/-- With every register among the parts, it does not matter which one is set. -/
theorem within_setReg_all {r : Reg} {v i j : Nat} (h : coveredBy W .allRegs = true) :
    (setReg r v i j).Within W := by
  have hr : ∀ b, coveredBy W (.regs b) = true := fun b => by
    simp_all [coveredBy]
  unfold setReg
  refine within_seq (within_act (hr _) (fun _ _ e => by cases e)) ?_
  split
  · exact within_act (hr _) (fun _ _ e => by cases e)
  · exact within_skip

section fields
variable {f : Field} {v i j n : Nat} {b : Bool} (hr : f.reg.oneSlot = true)
  (h : coveredBy W (.regs (regSlot f.reg.addr)) = true)
include hr h

theorem within_setF : (setF f v i j).Within W := within_look fun _ => within_setReg hr h

theorem within_setFBit : (setFBit f n b i j).Within W := within_look fun _ => within_setReg hr h

theorem within_bump : (bump f n i j).Within W := within_look fun _ => within_setF hr h

theorem within_keepMax : (keepMax f v i j).Within W := within_look fun _ => within_setF hr h

end fields

theorem within_store {id : MemId} {a : Nat} {bs : List Byte}
    (h : coveredBy W (.mem id) = true) : (store id a bs).Within W := within_act h (fun _ _ e => by cases e)

theorem onlyChanges_of_within {p : Prog} (hp : p.Within W) (s : State) :
    s.onlyChanges W (p.run s) :=
  ⟨fun q hq => hp s q hq, run_frame p s⟩

end within

end Sys2Proof.Machine
end

