-- ==== Sys2Proof/Laws/Ends.lean ====
section
/-! SUPPORT. How a command's micro-program says what it does and what it may change. -/

set_option Elab.async false

namespace Sys2Proof.Machine

/-- A command ends as its meaning does. -/
theorem ends_of {c : Instr} {s : State} {o : Host.Outcome State Fault Refusal} {P : State → Prop}
    (h : exec c s = o) (hp : ∃ t, o = .next t ∧ P t) : Ends c s P := by
  obtain ⟨t, ht, hq⟩ := hp
  exact ⟨t, h.trans ht, hq⟩

end Sys2Proof.Machine
end

