-- ==== Sys2Proof/Laws/Regs.lean ====
section
/-! SUPPORT. Register words and fields after a write: the word or field written reads as
written, and a register of a block that a micro-program leaves alone reads as before. -/

set_option Elab.async false

namespace Sys2Proof.Machine

/-! ### Bit fields -/

theorem bits_setBits (v x hi lo : Nat) :
    bits (setBits v hi lo x) hi lo = x % 2 ^ (hi + 1 - lo) := by
  unfold bits setBits bits
  obtain ⟨n, hn⟩ : ∃ n, hi + 1 - lo = n := ⟨_, rfl⟩
  rw [hn, Nat.shiftRight_eq_div_pow, Nat.shiftRight_eq_div_pow]
  have hle : v / 2 ^ lo % 2 ^ n * 2 ^ lo ≤ v :=
    (Nat.mul_le_mul_right _ (Nat.mod_le _ _)).trans (Nat.div_mul_le_self _ _)
  have hv : v - v / 2 ^ lo % 2 ^ n * 2 ^ lo
      = v % 2 ^ lo + v / 2 ^ lo / 2 ^ n * 2 ^ n * 2 ^ lo := by
    have h1 := Nat.div_add_mod v (2 ^ lo)
    have h2 := Nat.div_add_mod (v / 2 ^ lo) (2 ^ n)
    have h3 : v / 2 ^ lo * 2 ^ lo
        = v / 2 ^ lo / 2 ^ n * 2 ^ n * 2 ^ lo + v / 2 ^ lo % 2 ^ n * 2 ^ lo := by
      rw [← Nat.add_mul]; congr 1; rw [Nat.mul_comm (v / 2 ^ lo / 2 ^ n)]; exact h2.symm
    rw [Nat.mul_comm] at h1
    omega
  rw [hv, Nat.add_assoc, ← Nat.add_mul, Nat.add_mul_div_right _ _ (by positivity),
    Nat.div_eq_of_lt (Nat.mod_lt _ (by positivity)), Nat.zero_add, Nat.add_comm,
    Nat.add_mul_mod_self_right, Nat.mod_mod]

/-- A word as the bits below a field, the field and the bits above it. -/
theorem setBits_parts (v x hi lo : Nat) : ∃ c, v = v % 2 ^ lo + bits v hi lo * 2 ^ lo + c * 2 ^ (lo + (hi + 1 - lo))
    ∧ setBits v hi lo x = v % 2 ^ lo + x % 2 ^ (hi + 1 - lo) * 2 ^ lo + c * 2 ^ (lo + (hi + 1 - lo)) := by
  refine ⟨v / 2 ^ lo / 2 ^ (hi + 1 - lo), ?_⟩
  obtain ⟨n, hn⟩ : ∃ n, hi + 1 - lo = n := ⟨_, rfl⟩
  unfold setBits bits
  rw [hn, Nat.shiftRight_eq_div_pow]
  have h1 := Nat.div_add_mod v (2 ^ lo)
  have h2 := Nat.div_add_mod (v / 2 ^ lo) (2 ^ n)
  have h3 : v / 2 ^ lo * 2 ^ lo
      = v / 2 ^ lo / 2 ^ n * 2 ^ (lo + n) + v / 2 ^ lo % 2 ^ n * 2 ^ lo := by
    rw [Nat.pow_add, Nat.mul_comm (2 ^ lo) (2 ^ n), ← Nat.mul_assoc, ← Nat.add_mul]
    congr 1; rw [Nat.mul_comm (v / 2 ^ lo / 2 ^ n)]; exact h2.symm
  rw [Nat.mul_comm] at h1
  omega

/-- A field that another field's write leaves alone. -/
theorem bits_setBits_other (v x : Nat) {hi lo h l : Nat} (hd : h < lo ∨ hi < l) (hl : lo ≤ hi + 1) :
    bits (setBits v hi lo x) h l = bits v h l := by
  obtain ⟨c, hv, hs⟩ := setBits_parts v x hi lo
  rw [show lo + (hi + 1 - lo) = hi + 1 by omega] at hv hs
  rcases hd with hd | hd
  · have key : ∀ w K, w = v % 2 ^ lo + K * 2 ^ lo → w % 2 ^ (h + 1) = v % 2 ^ lo % 2 ^ (h + 1) := by
      intro w K hw
      rw [hw]
      have : (2 : Nat) ^ lo = 2 ^ (lo - (h + 1)) * 2 ^ (h + 1) := by rw [← Nat.pow_add]; congr 1; omega
      conv_lhs => rw [show K * 2 ^ lo = K * 2 ^ (lo - (h + 1)) * 2 ^ (h + 1) by rw [this, Nat.mul_assoc]]
      rw [Nat.add_mul_mod_self_right]
    have e : (2 : Nat) ^ (hi + 1) = 2 ^ (hi + 1 - lo) * 2 ^ lo := by rw [← Nat.pow_add]; congr 1; omega
    have a := key v (bits v hi lo + c * 2 ^ (hi + 1 - lo)) (by
      rw [Nat.add_mul, Nat.mul_assoc, ← e]; omega)
    have b := key (setBits v hi lo x) (x % 2 ^ (hi + 1 - lo) + c * 2 ^ (hi + 1 - lo)) (by
      rw [Nat.add_mul, Nat.mul_assoc, ← e]; omega)
    unfold bits
    simp only [Nat.shiftRight_eq_div_pow]
    by_cases hh : l ≤ h
    · have m : ∀ w : Nat, w / 2 ^ l % 2 ^ (h + 1 - l) = w % 2 ^ (h + 1) / 2 ^ l := by
        intro w
        rw [show (2 : Nat) ^ (h + 1) = 2 ^ l * 2 ^ (h + 1 - l) by rw [← Nat.pow_add]; congr 1; omega,
          Nat.mod_mul_right_div_self]
      rw [m, m, a, b]
    · rw [show h + 1 - l = 0 by omega]; omega
  · have hlt : ∀ y, y < 2 ^ (hi + 1 - lo) → v % 2 ^ lo + y * 2 ^ lo < 2 ^ (hi + 1) := by
      intro y hy
      have e : (2 : Nat) ^ (hi + 1) = 2 ^ (hi + 1 - lo) * 2 ^ lo := by rw [← Nat.pow_add]; congr 1; omega
      have h0 : v % 2 ^ lo < 2 ^ lo := Nat.mod_lt _ (by positivity)
      have h1 : (y + 1) * 2 ^ lo ≤ 2 ^ (hi + 1 - lo) * 2 ^ lo := Nat.mul_le_mul_right _ hy
      rw [e]; rw [Nat.add_mul] at h1; omega
    have q : ∀ y, y < 2 ^ (hi + 1 - lo) → (v % 2 ^ lo + y * 2 ^ lo + c * 2 ^ (hi + 1)) / 2 ^ (hi + 1) = c := by
      intro y hy
      rw [Nat.add_mul_div_right _ _ (by positivity), Nat.div_eq_of_lt (hlt y hy), Nat.zero_add]
    have a : v / 2 ^ (hi + 1) = c := by
      conv_lhs => rw [hv]
      exact q _ (by unfold bits; exact Nat.mod_lt _ (by positivity))
    have b : setBits v hi lo x / 2 ^ (hi + 1) = c := by
      rw [hs]; exact q _ (Nat.mod_lt _ (by positivity))
    unfold bits
    simp only [Nat.shiftRight_eq_div_pow]
    rw [show (2 : Nat) ^ l = 2 ^ (hi + 1) * 2 ^ (l - (hi + 1)) by rw [← Nat.pow_add]; congr 1; omega,
      ← Nat.div_div_eq_div_mul, ← Nat.div_div_eq_div_mul, a, b]

theorem bits_mod (v : Nat) {hi lo : Nat} (h : hi < 32) : bits (v % 2 ^ 32) hi lo = bits v hi lo := by
  unfold bits
  rw [Nat.shiftRight_eq_div_pow, Nat.shiftRight_eq_div_pow]
  by_cases hl : hi + 1 ≤ lo
  · rw [show hi + 1 - lo = 0 by omega]; omega
  · have e : (2 : Nat) ^ 32 = 2 ^ lo * 2 ^ (32 - lo) := by rw [← Nat.pow_add]; congr 1; omega
    rw [e, Nat.mod_mul_right_div_self, Nat.mod_mod_of_dvd]
    exact Nat.pow_dvd_pow 2 (by omega)

/-! ### Words -/

theorem rd_congr {s t : State} {r : Reg} {i j : Nat} (hi : t.ident = s.ident)
    (h0 : keyGet t.regs (r.at i j) = keyGet s.regs (r.at i j))
    (h4 : keyGet t.regs (r.at i j + 4) = keyGet s.regs (r.at i j + 4)) :
    t.rd r i j = s.rd r i j := by
  unfold State.rd State.pairOk State.rawReg State.rawComp
  rw [hi, h0, h4]

/-! ### Registers after an act that writes none -/

theorem fld_congr {s t : State} {f : Field} {i j : Nat} (h : t.rd f.reg i j = s.rd f.reg i j) :
    t.fld f i j = s.fld f i j := by
  unfold State.fld; rw [h]

@[simp] theorem act_pend_rd (s : State) (k : Nat) (v : Option Nat) (r : Reg) (i j : Nat) :
    ((Act.pend k v).apply s).rd r i j = s.rd r i j :=
  rd_congr (by simp) (by simp) (by simp)

@[simp] theorem act_pend_fld (s : State) (k : Nat) (v : Option Nat) (f : Field) (i j : Nat) :
    ((Act.pend k v).apply s).fld f i j = s.fld f i j := fld_congr (by simp)

@[simp] theorem act_store_rd (s : State) (id : MemId) (k : Nat) (bs : List Byte) (r : Reg) (i j : Nat) :
    ((Act.store id k bs).apply s).rd r i j = s.rd r i j :=
  rd_congr (by simp) (by simp) (by simp)

@[simp] theorem act_store_fld (s : State) (id : MemId) (k : Nat) (bs : List Byte) (f : Field) (i j : Nat) :
    ((Act.store id k bs).apply s).fld f i j = s.fld f i j := fld_congr (by simp)

@[simp] theorem act_wipe_rd (s : State) (id : MemId) (r : Reg) (i j : Nat) :
    ((Act.wipe id).apply s).rd r i j = s.rd r i j :=
  rd_congr (by simp) (by simp) (by simp)

@[simp] theorem act_wipe_fld (s : State) (id : MemId) (f : Field) (i j : Nat) :
    ((Act.wipe id).apply s).fld f i j = s.fld f i j := fld_congr (by simp)

@[simp] theorem act_bus_rd (s : State) (x : BusResp) (r : Reg) (i j : Nat) :
    ((Act.bus x).apply s).rd r i j = s.rd r i j :=
  rd_congr (by simp) (by simp) (by simp)

@[simp] theorem act_bus_fld (s : State) (x : BusResp) (f : Field) (i j : Nat) :
    ((Act.bus x).apply s).fld f i j = s.fld f i j := fld_congr (by simp)

@[simp] theorem act_draw_rd (s : State) (n : Nat) (r : Reg) (i j : Nat) :
    ((Act.draw n).apply s).rd r i j = s.rd r i j :=
  rd_congr (by simp) (by simp) (by simp)

@[simp] theorem act_draw_fld (s : State) (n : Nat) (f : Field) (i j : Nat) :
    ((Act.draw n).apply s).fld f i j = s.fld f i j := fld_congr (by simp)

@[simp] theorem act_record_rd (s : State) (x : FaultRec) (r : Reg) (i j : Nat) :
    ((Act.record x).apply s).rd r i j = s.rd r i j :=
  rd_congr (by simp) (by simp) (by simp)

@[simp] theorem act_record_fld (s : State) (x : FaultRec) (f : Field) (i j : Nat) :
    ((Act.record x).apply s).fld f i j = s.fld f i j := fld_congr (by simp)

@[simp] theorem act_clearRing_rd (s : State) (r : Reg) (i j : Nat) :
    (Act.clearRing.apply s).rd r i j = s.rd r i j :=
  rd_congr (by simp) (by simp) (by simp)

@[simp] theorem act_clearRing_fld (s : State) (f : Field) (i j : Nat) :
    (Act.clearRing.apply s).fld f i j = s.fld f i j := fld_congr (by simp)

@[simp] theorem act_lease_rd (s : State) (n : Nat) (x : Option Lease) (r : Reg) (i j : Nat) :
    ((Act.lease n x).apply s).rd r i j = s.rd r i j :=
  rd_congr (by simp) (by simp) (by simp)

@[simp] theorem act_lease_fld (s : State) (n : Nat) (x : Option Lease) (f : Field) (i j : Nat) :
    ((Act.lease n x).apply s).fld f i j = s.fld f i j := fld_congr (by simp)

@[simp] theorem act_clearLeases_rd (s : State) (r : Reg) (i j : Nat) :
    (Act.clearLeases.apply s).rd r i j = s.rd r i j :=
  rd_congr (by simp) (by simp) (by simp)

@[simp] theorem act_clearLeases_fld (s : State) (f : Field) (i j : Nat) :
    (Act.clearLeases.apply s).fld f i j = s.fld f i j := fld_congr (by simp)

@[simp] theorem act_lamp_rd (s : State) (x : Lamp) (r : Reg) (i j : Nat) :
    ((Act.lamp x).apply s).rd r i j = s.rd r i j :=
  rd_congr (by simp) (by simp) (by simp)

@[simp] theorem act_lamp_fld (s : State) (x : Lamp) (f : Field) (i j : Nat) :
    ((Act.lamp x).apply s).fld f i j = s.fld f i j := fld_congr (by simp)

@[simp] theorem act_rcl_rd (s : State) (x : Rcl) (r : Reg) (i j : Nat) :
    ((Act.rcl x).apply s).rd r i j = s.rd r i j :=
  rd_congr (by simp) (by simp) (by simp)

@[simp] theorem act_rcl_fld (s : State) (x : Rcl) (f : Field) (i j : Nat) :
    ((Act.rcl x).apply s).fld f i j = s.fld f i j := fld_congr (by simp)

@[simp] theorem act_boot_rd (s : State) (x : Boot) (r : Reg) (i j : Nat) :
    ((Act.boot x).apply s).rd r i j = s.rd r i j :=
  rd_congr (by simp) (by simp) (by simp)

@[simp] theorem act_boot_fld (s : State) (x : Boot) (f : Field) (i j : Nat) :
    ((Act.boot x).apply s).fld f i j = s.fld f i j := fld_congr (by simp)

@[simp] theorem act_ave_rd (s : State) (x : Ave) (r : Reg) (i j : Nat) :
    ((Act.ave x).apply s).rd r i j = s.rd r i j :=
  rd_congr (by simp) (by simp) (by simp)

@[simp] theorem act_ave_fld (s : State) (x : Ave) (f : Field) (i j : Nat) :
    ((Act.ave x).apply s).fld f i j = s.fld f i j := fld_congr (by simp)

@[simp] theorem act_xlt_rd (s : State) (x : Xlt) (r : Reg) (i j : Nat) :
    ((Act.xlt x).apply s).rd r i j = s.rd r i j :=
  rd_congr (by simp) (by simp) (by simp)

@[simp] theorem act_xlt_fld (s : State) (x : Xlt) (f : Field) (i j : Nat) :
    ((Act.xlt x).apply s).fld f i j = s.fld f i j := fld_congr (by simp)

@[simp] theorem act_wrd_rd (s : State) (x : Wrd) (r : Reg) (i j : Nat) :
    ((Act.wrd x).apply s).rd r i j = s.rd r i j :=
  rd_congr (by simp) (by simp) (by simp)

@[simp] theorem act_wrd_fld (s : State) (x : Wrd) (f : Field) (i j : Nat) :
    ((Act.wrd x).apply s).fld f i j = s.fld f i j := fld_congr (by simp)

@[simp] theorem act_xng_rd (s : State) (x : Xng) (r : Reg) (i j : Nat) :
    ((Act.xng x).apply s).rd r i j = s.rd r i j :=
  rd_congr (by simp) (by simp) (by simp)

@[simp] theorem act_xng_fld (s : State) (x : Xng) (f : Field) (i j : Nat) :
    ((Act.xng x).apply s).fld f i j = s.fld f i j := fld_congr (by simp)

@[simp] theorem act_cam_rd (s : State) (x : Cam) (r : Reg) (i j : Nat) :
    ((Act.cam x).apply s).rd r i j = s.rd r i j :=
  rd_congr (by simp) (by simp) (by simp)

@[simp] theorem act_cam_fld (s : State) (x : Cam) (f : Field) (i j : Nat) :
    ((Act.cam x).apply s).fld f i j = s.fld f i j := fld_congr (by simp)

@[simp] theorem act_ras_rd (s : State) (x : Ras) (r : Reg) (i j : Nat) :
    ((Act.ras x).apply s).rd r i j = s.rd r i j :=
  rd_congr (by simp) (by simp) (by simp)

@[simp] theorem act_ras_fld (s : State) (x : Ras) (f : Field) (i j : Nat) :
    ((Act.ras x).apply s).fld f i j = s.fld f i j := fld_congr (by simp)

@[simp] theorem act_dst_rd (s : State) (x : Dst) (r : Reg) (i j : Nat) :
    ((Act.dst x).apply s).rd r i j = s.rd r i j :=
  rd_congr (by simp) (by simp) (by simp)

@[simp] theorem act_dst_fld (s : State) (x : Dst) (f : Field) (i j : Nat) :
    ((Act.dst x).apply s).fld f i j = s.fld f i j := fld_congr (by simp)

@[simp] theorem act_rbt_rd (s : State) (x : Rbt) (r : Reg) (i j : Nat) :
    ((Act.rbt x).apply s).rd r i j = s.rd r i j :=
  rd_congr (by simp) (by simp) (by simp)

@[simp] theorem act_rbt_fld (s : State) (x : Rbt) (f : Field) (i j : Nat) :
    ((Act.rbt x).apply s).fld f i j = s.fld f i j := fld_congr (by simp)

@[simp] theorem act_sco_rd (s : State) (x : Sco) (r : Reg) (i j : Nat) :
    ((Act.sco x).apply s).rd r i j = s.rd r i j :=
  rd_congr (by simp) (by simp) (by simp)

@[simp] theorem act_sco_fld (s : State) (x : Sco) (f : Field) (i j : Nat) :
    ((Act.sco x).apply s).fld f i j = s.fld f i j := fld_congr (by simp)

@[simp] theorem act_sgn_rd (s : State) (x : Sgn) (r : Reg) (i j : Nat) :
    ((Act.sgn x).apply s).rd r i j = s.rd r i j :=
  rd_congr (by simp) (by simp) (by simp)

@[simp] theorem act_sgn_fld (s : State) (x : Sgn) (f : Field) (i j : Nat) :
    ((Act.sgn x).apply s).fld f i j = s.fld f i j := fld_congr (by simp)

@[simp] theorem act_hv_rd (s : State) (x : Hv) (r : Reg) (i j : Nat) :
    ((Act.hv x).apply s).rd r i j = s.rd r i j :=
  rd_congr (by simp) (by simp) (by simp)

@[simp] theorem act_hv_fld (s : State) (x : Hv) (f : Field) (i j : Nat) :
    ((Act.hv x).apply s).fld f i j = s.fld f i j := fld_congr (by simp)

@[simp] theorem act_can_rd (s : State) (x : List CanCtl) (r : Reg) (i j : Nat) :
    ((Act.can x).apply s).rd r i j = s.rd r i j :=
  rd_congr (by simp) (by simp) (by simp)

@[simp] theorem act_can_fld (s : State) (x : List CanCtl) (f : Field) (i j : Nat) :
    ((Act.can x).apply s).fld f i j = s.fld f i j := fld_congr (by simp)

@[simp] theorem act_svc_rd (s : State) (x : Svc) (r : Reg) (i j : Nat) :
    ((Act.svc x).apply s).rd r i j = s.rd r i j :=
  rd_congr (by simp) (by simp) (by simp)

@[simp] theorem act_svc_fld (s : State) (x : Svc) (f : Field) (i j : Nat) :
    ((Act.svc x).apply s).fld f i j = s.fld f i j := fld_congr (by simp)

@[simp] theorem act_ports_rd (s : State) (x : Ports) (r : Reg) (i j : Nat) :
    ((Act.ports x).apply s).rd r i j = s.rd r i j :=
  rd_congr (by simp) (by simp) (by simp)

@[simp] theorem act_ports_fld (s : State) (x : Ports) (f : Field) (i j : Nat) :
    ((Act.ports x).apply s).fld f i j = s.fld f i j := fld_congr (by simp)

@[simp] theorem act_brg_rd (s : State) (x : Brg) (r : Reg) (i j : Nat) :
    ((Act.brg x).apply s).rd r i j = s.rd r i j :=
  rd_congr (by simp) (by simp) (by simp)

@[simp] theorem act_brg_fld (s : State) (x : Brg) (f : Field) (i j : Nat) :
    ((Act.brg x).apply s).fld f i j = s.fld f i j := fld_congr (by simp)

/-- A micro-program leaves the registers of a block alone that is not among its parts. -/
theorem rd_of_within {W : List Part} {p : Prog} (hp : p.Within W) {r : Reg}
    (hr : r.oneSlot = true) (hW : coveredBy W (.regs (regSlot r.addr)) = false) (s : State)
    (i j : Nat) : (p.run s).rd r i j = s.rd r i j := by
  have h := hp s _ hW
  exact rd_congr (run_frame p s).2.1 (h _ (regSlot_at hr i j 0 (by omega)))
    (h _ (regSlot_at hr i j 4 (by omega)))

theorem fld_of_within {W : List Part} {p : Prog} (hp : p.Within W) {f : Field}
    (hr : f.reg.oneSlot = true) (hW : coveredBy W (.regs (regSlot f.reg.addr)) = false)
    (s : State) (i j : Nat) : (p.run s).fld f i j = s.fld f i j := by
  unfold State.fld
  rw [rd_of_within hp hr hW]

theorem inv32_inv32 (v : Nat) : inv32 (inv32 v % 2 ^ 32) = v % 2 ^ 32 := by
  unfold inv32
  omega

theorem rd_setReg_self (s : State) (r : Reg) (v i j : Nat) :
    ((setReg r v i j).run s).rd r i j = v % 2 ^ 32 := by
  unfold setReg
  cases h : r.rwp
  · simp only [Bool.false_eq_true, if_false, run_seq, run_act, run_skip]
    have hp : ((Act.reg (r.at i j) v).apply s).pairOk r i j = true := by
      simp [State.pairOk, h]
    rw [State.rd, if_pos hp, State.rawReg, act_reg_regs, keyGet_keyPut_self, Option.getD_some]
  · simp only [if_true, run_seq, run_act]
    have e1 : ((Act.reg (r.at i j + 4) (inv32 v)).apply ((Act.reg (r.at i j) v).apply s)).rawReg
        r i j = v % 2 ^ 32 := by
      rw [State.rawReg, act_reg_regs, keyGet_keyPut_other (by omega), act_reg_regs,
        keyGet_keyPut_self, Option.getD_some]
    have e2 : ((Act.reg (r.at i j + 4) (inv32 v)).apply ((Act.reg (r.at i j) v).apply s)).rawComp
        r i j = inv32 v % 2 ^ 32 := by
      rw [State.rawComp, act_reg_regs, keyGet_keyPut_self, Option.getD_some]
    rw [State.rd, if_pos (by rw [State.pairOk, e1, e2, inv32_inv32]; simp), e1]

/-- The block's other registers read as before: those whose words lie elsewhere. -/
theorem rd_setReg_other (s : State) {r q : Reg} {v i j k l : Nat}
    (h : q.at k l ≠ r.at i j ∧ q.at k l ≠ r.at i j + 4 ∧ q.at k l + 4 ≠ r.at i j) :
    ((setReg r v i j).run s).rd q k l = s.rd q k l := by
  obtain ⟨h1, h2, h3⟩ := h
  unfold setReg
  cases r.rwp <;> simp only [Bool.false_eq_true, if_false, if_true, run_seq, run_act, run_skip] <;>
    refine rd_congr (by simp) ?_ ?_ <;> simp only [act_reg_regs]
  · exact keyGet_keyPut_other h1
  · exact keyGet_keyPut_other h3
  · rw [keyGet_keyPut_other h2, keyGet_keyPut_other h1]
  · rw [keyGet_keyPut_other (by omega), keyGet_keyPut_other h3]

/-- The words of register `q` lie elsewhere than those of register `r`. -/
abbrev apart (q : Reg) (k l : Nat) (r : Reg) (i j : Nat) : Prop :=
  q.at k l ≠ r.at i j ∧ q.at k l ≠ r.at i j + 4 ∧ q.at k l + 4 ≠ r.at i j

theorem rd_setF_other (s : State) {f : Field} {q : Reg} {v i j k l : Nat}
    (h : apart q k l f.reg i j) : ((setF f v i j).run s).rd q k l = s.rd q k l :=
  rd_setReg_other s h

theorem rd_setFBit_other (s : State) {f : Field} {q : Reg} {n : Nat} {b : Bool} {i j k l : Nat}
    (h : apart q k l f.reg i j) : ((setFBit f n b i j).run s).rd q k l = s.rd q k l :=
  rd_setReg_other s h

theorem rd_bump_other (s : State) {f : Field} {q : Reg} {v i j k l : Nat}
    (h : apart q k l f.reg i j) : ((bump f v i j).run s).rd q k l = s.rd q k l :=
  rd_setReg_other s h

theorem rd_keepMax_other (s : State) {f : Field} {q : Reg} {v i j k l : Nat}
    (h : apart q k l f.reg i j) : ((keepMax f v i j).run s).rd q k l = s.rd q k l :=
  rd_setReg_other s h

@[simp] theorem store_rd (s : State) (id : MemId) (a : Nat) (bs : List Byte) (r : Reg) (i j : Nat) :
    ((store id a bs).run s).rd r i j = s.rd r i j := act_store_rd _ _ _ _ _ _ _

@[simp] theorem retWrite_rd (s : State) (a : Nat) (bs : List Byte) (r : Reg) (i j : Nat) :
    ((retWrite a bs).run s).rd r i j = s.rd r i j := by
  unfold retWrite modLamp Prog.when
  simp only [run_look, run_all_cons, run_all_nil, run_act, act_lamp_rd]
  split <;> split <;> simp

@[simp] theorem store_fld (s : State) (id : MemId) (a : Nat) (bs : List Byte) (f : Field) (i j : Nat) :
    ((store id a bs).run s).fld f i j = s.fld f i j := fld_congr (store_rd _ _ _ _ _ _ _)

@[simp] theorem retWrite_fld (s : State) (a : Nat) (bs : List Byte) (f : Field) (i j : Nat) :
    ((retWrite a bs).run s).fld f i j = s.fld f i j := fld_congr (retWrite_rd _ _ _ _ _ _)

/-- A field's place in its word, as the register tables give it. -/
def Field.fits (f : Field) : Bool := decide (f.lo ≤ f.hi) && decide (f.hi < 32)

theorem fld_setReg_self (s : State) (f : Field) (hf : f.fits = true) (v i j : Nat) :
    ((setReg f.reg v i j).run s).fld f i j = bits v f.hi f.lo := by
  simp only [Field.fits, Bool.and_eq_true, decide_eq_true_eq] at hf
  rw [State.fld, rd_setReg_self, bits_mod _ hf.2]

theorem fld_setF_self (s : State) (f : Field) (hf : f.fits = true) (v i j : Nat) :
    ((setF f v i j).run s).fld f i j = v % 2 ^ f.width := by
  unfold setF
  rw [run_look, fld_setReg_self s f hf, bits_setBits]
  rfl

theorem fld_bump_self (s : State) (f : Field) (hf : f.fits = true) (n i j : Nat) :
    ((bump f n i j).run s).fld f i j = min f.max (s.fld f i j + n) := by
  unfold bump
  rw [run_look, fld_setF_self s f hf, Nat.mod_eq_of_lt]
  · rfl
  · have : 0 < 2 ^ f.width := by positivity
    unfold satAdd Field.max
    omega

theorem fld_le_max (s : State) (f : Field) (i j : Nat) : s.fld f i j ≤ f.max := by
  have : bits (s.rd f.reg i j) f.hi f.lo < 2 ^ f.width := Nat.mod_lt _ (by positivity)
  unfold State.fld Field.max
  omega

/-- Field `g` (of element `k`, `l`) lies elsewhere than field `f` (of element `i`, `j`). -/
abbrev fldApart (g : Field) (k l : Nat) (f : Field) (i j : Nat) : Prop :=
  apart g.reg k l f.reg i j
    ∨ (g.reg = f.reg ∧ k = i ∧ l = j ∧ (g.hi < f.lo ∨ f.hi < g.lo) ∧ f.lo ≤ f.hi ∧ g.hi < 32)

theorem fld_setF_other (s : State) {f g : Field} {v i j k l : Nat} (h : fldApart g k l f i j) :
    ((setF f v i j).run s).fld g k l = s.fld g k l := by
  rcases h with h | ⟨hr, rfl, rfl, hd, h1, h2⟩
  · exact fld_congr (rd_setF_other s h)
  · unfold setF State.fld
    rw [run_look, hr, rd_setReg_self, bits_mod _ h2, bits_setBits_other _ _ hd (by omega)]

theorem fld_bump_other (s : State) {f g : Field} {v i j k l : Nat} (h : fldApart g k l f i j) :
    ((bump f v i j).run s).fld g k l = s.fld g k l := fld_setF_other s h

theorem fld_keepMax_other (s : State) {f g : Field} {v i j k l : Nat} (h : fldApart g k l f i j) :
    ((keepMax f v i j).run s).fld g k l = s.fld g k l := fld_setF_other s h

theorem fld_setReg_other (s : State) {r : Reg} {g : Field} {v i j k l : Nat}
    (h : apart g.reg k l r i j) : ((setReg r v i j).run s).fld g k l = s.fld g k l :=
  fld_congr (rd_setReg_other s h)

theorem fld_setFBit_apart (s : State) {f g : Field} {n : Nat} {b : Bool} {i j k l : Nat}
    (h : apart g.reg k l f.reg i j) : ((setFBit f n b i j).run s).fld g k l = s.fld g k l :=
  fld_congr (rd_setFBit_other s h)

/-- Bit `n` of a field is that bit of its word. -/
theorem bitN_bits (v hi lo n : Nat) (h : lo + n ≤ hi) : bitN (bits v hi lo) n = bitN v (lo + n) := by
  unfold bitN bits
  simp only [Nat.shiftRight_eq_div_pow]
  obtain ⟨k, hk⟩ : ∃ k, hi + 1 - lo = n + 1 + k := ⟨hi - lo - n, by omega⟩
  rw [hk, Nat.pow_add 2 lo n, ← Nat.div_div_eq_div_mul]
  generalize v / 2 ^ lo = w
  rw [show n + 1 + k = n + (1 + k) by omega, Nat.pow_add 2 n, Nat.mod_mul_right_div_self,
    Nat.pow_add, Nat.pow_one, Nat.mod_mul_right_mod]

theorem bitN_setBits (v n x : Nat) : bitN (setBits v n n x) n = x % 2 := by
  have h := bits_setBits v x n n
  unfold bits at h
  rw [show n + 1 - n = 1 by omega, Nat.pow_one] at h
  exact h

theorem bitN_mod (v n : Nat) (h : n < 32) : bitN (v % 2 ^ 32) n = bitN v n := by
  have := bits_mod v (hi := n) (lo := n) h
  unfold bits at this
  rw [show n + 1 - n = 1 by omega, Nat.pow_one] at this
  exact this

theorem bitN_or_self (v n : Nat) : bitN (v ||| 2 ^ n) n = 1 := by
  unfold bitN
  have : (v ||| 2 ^ n).testBit n = true := by simp [Nat.testBit_two_pow_self]
  rw [Nat.testBit, Nat.one_and_eq_mod_two] at this
  simp only [bne_iff_ne, ne_eq] at this
  omega

/-- The bit of a field that the block sets. -/
theorem fld_setFBit_self (s : State) (f : Field) (hf : f.fits = true) (n : Nat) (b : Bool)
    (i j : Nat) (hn : f.lo + n ≤ f.hi) :
    bitN (((setFBit f n b i j).run s).fld f i j) n = if b then 1 else 0 := by
  have hf' := hf
  simp only [Field.fits, Bool.and_eq_true, decide_eq_true_eq] at hf'
  unfold setFBit
  rw [run_look, fld_setReg_self _ f hf, bitN_bits _ _ _ _ hn, bitN_setBits]
  cases b <;> rfl

/-! ### Parts after a micro-program -/

/-- Every part but registers. -/
def plainParts : List Part :=
  [.mem .plaza, .mem .lpddr, .mem .flash, .mem .retA, .mem .retB, .mem .icon, .mem .otp,
   .mem .img, .pend, .bus, .free, .ring, .leases, .lamp, .rcl, .boot, .ave, .xlt, .wrd, .xng,
   .cam, .ras, .dst, .rbt, .sco, .sgn, .hv, .can, .svc, .ports, .brg]

/-- Every part but `q`; where `q` is a block's registers, those of the other blocks remain. -/
def allBut (q : Part) : List Part :=
  (plainParts ++ (match q with
    | .regs _ => [.regs 0x00, .regs 0x01, .regs 0x02, .regs 0x03, .regs 0x04, .regs 0x05,
        .regs 0x06, .regs 0x10, .regs 0x20, .regs 0x21, .regs 0x30, .regs 0x31, .regs 0x40,
        .regs 0x41, .regs 0x42, .regs 0x50, .regs 0x60, .regs 0x62, .regs 0x63, .regs 0x64,
        .regs 0x70, .regs 0x80, .regs 0x90]
    | _ => [.allRegs])).filter fun x => x ≠ q

/-- A micro-program that may change everything but `q` leaves `q` as it was. -/
theorem same_after {p : Prog} {q : Part} (hp : p.Within (allBut q))
    (hq : coveredBy (allBut q) q = false) (s : State) : q.same s (p.run s) := hp s q hq

end Sys2Proof.Machine
end

