-- ==== Sys2Proof/Laws/WithinOps.lean ====
section
/-! SUPPORT. What each operation of Machine/Ops.lean can change at most. -/

set_option Elab.async false
set_option linter.unreachableTactic false
set_option linter.unusedTactic false

namespace Sys2Proof.Machine

theorem within_firstWrite {W : List Part} (h : partsLe [.ports] W = true) {a : _} :
    (firstWrite a).Within W := by
  unfold firstWrite
  repeat' first
    | with_reducible exact within_skip
    | with_reducible exact within_all_nil
    | with_reducible refine within_all_cons ?_ ?_
    | with_reducible refine within_seq ?_ ?_
    | with_reducible refine within_look fun _ => ?_
    | with_reducible refine within_when ?_
    | ((with_reducible refine within_modPorts ?_); exact lec h (by decide +kernel))

theorem within_respond {W : List Part} (h : partsLe [.bus] W = true) {a : _} : (respond
    a).Within W := by
  unfold respond
  repeat' first
    | with_reducible exact within_skip
    | with_reducible exact within_all_nil
    | with_reducible refine within_all_cons ?_ ?_
    | with_reducible refine within_seq ?_ ?_
    | with_reducible refine within_look fun _ => ?_
    | with_reducible refine within_when ?_
    | ((with_reducible refine within_act ?_ ?_) <;> first | exact lec h rfl | exact fun _ _ e => by cases e)

theorem within_respondError {W : List Part} (h : partsLe [.bus] W = true) :
    respondError.Within W := by
  unfold respondError
  repeat' first
    | with_reducible exact within_skip
    | with_reducible exact within_all_nil
    | with_reducible refine within_all_cons ?_ ?_
    | with_reducible refine within_seq ?_ ?_
    | with_reducible refine within_look fun _ => ?_
    | with_reducible refine within_when ?_
    | ((with_reducible refine within_act ?_ ?_) <;> first | exact lec h rfl | exact fun _ _ e => by cases e)
    | ((with_reducible refine within_foldl ?_ fun _ _ hs => ?_); (· exact within_skip); refine within_seq hs ?_)
    | with_reducible refine within_ite ?_ ?_
    | with_reducible refine within_progIte ?_ ?_
    | with_reducible refine within_each fun _ => ?_
    | with_reducible refine within_all_map fun _ => ?_
    | with_reducible refine within_all_replicate ?_
    | split
    | (dsimp only; split)
    | dsimp only

theorem within_retWrite {W : List Part} (h : partsLe [.mem .retA, .mem .retB, .lamp] W =
    true) {a b : _} : (retWrite a b).Within W := by
  unfold retWrite
  repeat' first
    | with_reducible exact within_skip
    | with_reducible exact within_all_nil
    | with_reducible refine within_all_cons ?_ ?_
    | with_reducible refine within_seq ?_ ?_
    | with_reducible refine within_look fun _ => ?_
    | with_reducible refine within_when ?_
    | ((with_reducible refine within_modLamp ?_); exact lec h (by decide +kernel))
    | ((with_reducible refine within_store ?_); exact lec h (by decide +kernel))
    | ((with_reducible refine within_foldl ?_ fun _ _ hs => ?_); (· exact within_skip); refine within_seq hs ?_)
    | with_reducible refine within_ite ?_ ?_
    | with_reducible refine within_progIte ?_ ?_
    | with_reducible refine within_each fun _ => ?_
    | with_reducible refine within_all_map fun _ => ?_
    | with_reducible refine within_all_replicate ?_
    | split
    | (dsimp only; split)
    | dsimp only

theorem within_paStore {W : List Part} (h : partsLe [.mem .plaza, .mem .lpddr, .ave] W =
    true) {a b : _} : (paStore a b).Within W := by
  unfold paStore
  repeat' first
    | with_reducible exact within_skip
    | with_reducible exact within_all_nil
    | with_reducible refine within_all_cons ?_ ?_
    | with_reducible refine within_seq ?_ ?_
    | with_reducible refine within_look fun _ => ?_
    | with_reducible refine within_when ?_
    | ((with_reducible refine within_modAve ?_); exact lec h (by decide +kernel))
    | ((with_reducible refine within_store ?_); exact lec h (by decide +kernel))
    | ((with_reducible refine within_foldl ?_ fun _ _ hs => ?_); (· exact within_skip); refine within_seq hs ?_)
    | with_reducible refine within_ite ?_ ?_
    | with_reducible refine within_progIte ?_ ?_
    | with_reducible refine within_each fun _ => ?_
    | with_reducible refine within_all_map fun _ => ?_
    | with_reducible refine within_all_replicate ?_
    | split
    | (dsimp only; split)
    | dsimp only

end Sys2Proof.Machine
end

