-- ==== Sys2Proof/Laws/WithinFaults.lean ====
section
/-! SUPPORT. What each operation of Machine/Faults.lean can change at most. -/

set_option Elab.async false
set_option linter.unreachableTactic false
set_option linter.unusedTactic false

namespace Sys2Proof.Machine

/-- Slots of the blocks whose event bit a fault code can set. -/
def eventSlots : List Part := [.regs 0x10, .regs 0x20, .regs 0x31, .regs 0x40, .regs 0x41, .regs 0x42, .regs 0x50, .regs 0x60, .regs 0x62, .regs 0x70, .regs 0x90]

/-- The register a fault code's event bit lies in. -/
def eventParts (code : Nat) : List Part :=
  match eventField code with
  | none => []
  | some (f, _, _) => [.regs (regSlot f.reg.addr)]

theorem eventField_mem (code : Nat) {x : Field × Nat × Nat} (hx : eventField code = some x) :
    x.1.reg.oneSlot = true ∧ coveredBy eventSlots (.regs (regSlot x.1.reg.addr)) = true := by
  unfold eventField at hx
  dsimp only at hx
  split at hx
  · obtain rfl := Option.some.inj hx
    have hd : F.DST_EVENT_FAULT.reg.oneSlot = true
        ∧ coveredBy eventSlots (.regs (regSlot F.DST_EVENT_FAULT.reg.addr)) = true := by decide +kernel
    exact hd
  · obtain ⟨e, he, rfl⟩ := Option.map_eq_some_iff.mp hx
    have hall : ∀ e ∈ eventTable, e.2.1.reg.oneSlot = true
        ∧ coveredBy eventSlots (.regs (regSlot e.2.1.reg.addr)) = true := by decide +kernel
    exact hall e (List.mem_of_find?_eq_some he)

theorem event_le (code : Nat) : partsLe (eventParts code) eventSlots = true := by
  unfold eventParts
  split
  · rfl
  · rename_i f i b hx
    have h := (eventField_mem code hx).2
    simp only [partsLe, List.all_cons, List.all_nil, Bool.and_true]
    exact h

theorem within_setEventBit {W : List Part} {c : Nat} (h : partsLe (eventParts c) W = true) :
    (setEventBit c).Within W := by
  unfold setEventBit
  unfold eventParts at h
  split
  · exact within_skip
  · rename_i f i b hx
    rw [hx] at h
    refine within_when (within_setFBit (eventField_mem c hx).1 ?_)
    simpa only [partsLe, List.all_cons, List.all_nil, Bool.and_true] using h

theorem within_appendRecord {W : List Part} (h : partsLe [.mem .retA, .mem .retB, .ring,
    .lamp, .rcl] W = true) {a b c d e f g : _} : (appendRecord a b c d e f g).Within W := by
  unfold appendRecord
  repeat' first
    | with_reducible exact within_skip
    | with_reducible exact within_all_nil
    | with_reducible refine within_all_cons ?_ ?_
    | with_reducible refine within_seq ?_ ?_
    | with_reducible refine within_look fun _ => ?_
    | with_reducible refine within_when ?_
    | ((with_reducible refine within_modRcl ?_); exact lec h (by decide +kernel))
    | ((with_reducible refine within_act ?_ ?_) <;> first | exact lec h rfl | exact fun _ _ e => by cases e)
    | ((with_reducible refine within_retWrite ?_); exact lel h (by decide +kernel))

/-- What a fault message changes beside an event bit. -/
def raiseBase : List Part := [.mem .retA, .mem .retB, .regs 0x90, .ring, .lamp, .rcl]

theorem within_takeMessage {W : List Part} {c u d q g st : Nat} (h : partsLe raiseBase W = true)
    (he : partsLe (eventParts c) W = true) : (takeMessage c u d q g st).Within W := by
  unfold takeMessage
  refine within_all_cons (within_appendRecord (lel h (by decide +kernel))) ?_
  refine within_all_cons (within_setEventBit he) ?_
  refine within_all_cons (within_look fun _ => within_each fun _ => within_when ?_) within_all_nil
  exact within_setFBit rfl (lec h (by decide +kernel))

theorem within_useFaultnCodes {W : List Part} (h : partsLe raiseBase W = true) :
    useFaultnCodes.Within W := by
  refine within_each fun _ => within_look fun _ => within_when <| within_seq ?_ ?_
  · exact within_setReg rfl (lec h (by decide +kernel))
  · exact within_takeMessage h (lel h (by decide +kernel))

theorem within_raise {W : List Part} {c u d q g st : Nat} (h : partsLe raiseBase W = true)
    (he : partsLe (eventParts c) W = true) : (raise c u d q g st).Within W :=
  within_seq (within_useFaultnCodes h) (within_takeMessage h he)

theorem within_raiseLimited {W : List Part} {p k c u d : Nat} (h : partsLe raiseBase W = true)
    (he : partsLe (eventParts c) W = true) : (raiseLimited p k c u d).Within W := by
  unfold raiseLimited
  refine within_look fun _ => within_when (within_seq ?_ ?_)
  · exact within_modRcl (lec h (by decide +kernel))
  · exact within_raise h he

theorem within_raiseSecond {W : List Part} {c u d k : Nat} (h : partsLe raiseBase W = true)
    (he : partsLe (eventParts c) W = true) : (raiseSecond c u d k).Within W :=
  within_raiseLimited h he

/-- What any fault message changes at most. -/
def raiseAny : List Part := [.mem .retA, .mem .retB, .regs 0x10, .regs 0x20, .regs 0x31, .regs 0x40, .regs 0x41, .regs 0x42, .regs 0x50, .regs 0x60, .regs 0x62, .regs 0x70, .regs 0x90, .ring, .lamp, .rcl]

theorem within_raiseMismatch {W : List Part} {a : Nat} (h : partsLe raiseAny W = true) :
    (raiseMismatch a).Within W :=
  within_raise (lel h (by decide +kernel)) (partsLe_trans (event_le _) (lel h (by decide +kernel)))

theorem within_usePair {W : List Part} {r : Reg} {i j : Nat} (hr : r.oneSlot = true)
    (h : coveredBy W (.regs (regSlot r.addr)) = true) (hb : partsLe raiseAny W = true) :
    (usePair r i j).Within W :=
  within_look fun _ => within_when <| within_all_cons (within_raiseMismatch hb) <|
    within_all_cons (within_setReg hr h) within_all_nil

theorem within_usePair_all {W : List Part} {r : Reg} {i j : Nat}
    (h : coveredBy W .allRegs = true) (hb : partsLe raiseAny W = true) :
    (usePair r i j).Within W :=
  within_look fun _ => within_when <| within_all_cons (within_raiseMismatch hb) <|
    within_all_cons (within_setReg_all h) within_all_nil

theorem within_usePairs {W : List Part} (h : partsLe [.mem .retA, .mem .retB, .allRegs,
    .ring, .lamp, .rcl] W = true) {a : _} : (usePairs a).Within W := by
  unfold usePairs
  repeat' first
    | with_reducible exact within_skip
    | with_reducible exact within_all_nil
    | with_reducible refine within_all_cons ?_ ?_
    | with_reducible refine within_seq ?_ ?_
    | with_reducible refine within_look fun _ => ?_
    | with_reducible refine within_when ?_
    | ((with_reducible refine within_usePair rfl ?_ ?_) <;> first | exact lec h (by decide +kernel) | exact lel h (by decide +kernel))
    | ((with_reducible refine within_usePair_all ?_ ?_) <;> first | exact lec h (by decide +kernel) | exact lel h (by decide +kernel))
    | ((with_reducible refine within_foldl ?_ fun _ _ hs => ?_); (· exact within_skip); refine within_seq hs ?_)
    | with_reducible refine within_ite ?_ ?_
    | with_reducible refine within_progIte ?_ ?_
    | with_reducible refine within_each fun _ => ?_

theorem within_useRegs {V W : List Part} {rs : List Reg} (h : partsLe V W = true)
    (hr : (rs.all fun r => r.oneSlot && coveredBy V (.regs (regSlot r.addr))) = true)
    (hb : partsLe raiseAny W = true) : (useRegs rs).Within W := by
  refine within_look fun _ => within_each_mem fun x hx => ?_
  have hm := (List.mem_filter.mp hx).2
  rw [Bool.and_eq_true, List.contains_iff_mem] at hm
  have hv := List.all_eq_true.mp hr _ hm.1
  rw [Bool.and_eq_true] at hv
  exact within_usePair hv.1 (lec h hv.2) hb

theorem within_takeLease {W : List Part} (h : partsLe [.leases] W = true) {a b c d e f : _}
    : (takeLease a b c d e f).Within W := by
  unfold takeLease
  repeat' first
    | with_reducible exact within_skip
    | with_reducible exact within_all_nil
    | with_reducible refine within_all_cons ?_ ?_
    | with_reducible refine within_seq ?_ ?_
    | with_reducible refine within_look fun _ => ?_
    | with_reducible refine within_when ?_
    | ((with_reducible refine within_act ?_ ?_) <;> first | exact lec h rfl | exact fun _ _ e => by cases e)
    | ((with_reducible refine within_foldl ?_ fun _ _ hs => ?_); (· exact within_skip); refine within_seq hs ?_)
    | with_reducible refine within_ite ?_ ?_
    | with_reducible refine within_progIte ?_ ?_
    | with_reducible refine within_each fun _ => ?_
    | with_reducible refine within_all_map fun _ => ?_
    | with_reducible refine within_all_replicate ?_
    | split
    | (dsimp only; split)
    | dsimp only

theorem within_freeLease {W : List Part} (h : partsLe [.leases] W = true) {a : _} :
    (freeLease a).Within W := by
  unfold freeLease
  repeat' first
    | with_reducible exact within_skip
    | with_reducible exact within_all_nil
    | with_reducible refine within_all_cons ?_ ?_
    | with_reducible refine within_seq ?_ ?_
    | with_reducible refine within_look fun _ => ?_
    | with_reducible refine within_when ?_
    | ((with_reducible refine within_act ?_ ?_) <;> first | exact lec h rfl | exact fun _ _ e => by cases e)
    | ((with_reducible refine within_foldl ?_ fun _ _ hs => ?_); (· exact within_skip); refine within_seq hs ?_)
    | with_reducible refine within_ite ?_ ?_
    | with_reducible refine within_progIte ?_ ?_
    | with_reducible refine within_each fun _ => ?_
    | with_reducible refine within_all_map fun _ => ?_
    | with_reducible refine within_all_replicate ?_
    | split
    | (dsimp only; split)
    | dsimp only

theorem within_renewLease {W : List Part} (h : partsLe [.leases] W = true) {a : _} :
    (renewLease a).Within W := by
  unfold renewLease
  repeat' first
    | with_reducible exact within_skip
    | with_reducible exact within_all_nil
    | with_reducible refine within_all_cons ?_ ?_
    | with_reducible refine within_seq ?_ ?_
    | with_reducible refine within_look fun _ => ?_
    | with_reducible refine within_when ?_
    | ((with_reducible refine within_act ?_ ?_) <;> first | exact lec h rfl | exact fun _ _ e => by cases e)
    | ((with_reducible refine within_foldl ?_ fun _ _ hs => ?_); (· exact within_skip); refine within_seq hs ?_)
    | with_reducible refine within_ite ?_ ?_
    | with_reducible refine within_progIte ?_ ?_
    | with_reducible refine within_each fun _ => ?_
    | with_reducible refine within_all_map fun _ => ?_
    | with_reducible refine within_all_replicate ?_
    | split
    | (dsimp only; split)
    | dsimp only

theorem within_renewOwner {W : List Part} (h : partsLe [.leases] W = true) {a b c : _} :
    (renewOwner a b c).Within W := by
  unfold renewOwner
  repeat' first
    | with_reducible exact within_skip
    | with_reducible exact within_all_nil
    | with_reducible refine within_all_cons ?_ ?_
    | with_reducible refine within_seq ?_ ?_
    | with_reducible refine within_look fun _ => ?_
    | with_reducible refine within_when ?_
    | ((with_reducible refine within_renewLease ?_); exact lel h (by decide +kernel))
    | ((with_reducible refine within_foldl ?_ fun _ _ hs => ?_); (· exact within_skip); refine within_seq hs ?_)
    | with_reducible refine within_ite ?_ ?_
    | with_reducible refine within_progIte ?_ ?_
    | with_reducible refine within_each fun _ => ?_
    | with_reducible refine within_all_map fun _ => ?_
    | with_reducible refine within_all_replicate ?_
    | split
    | (dsimp only; split)
    | dsimp only

end Sys2Proof.Machine
end

