-- ==== Sys2Proof/Laws/WithinReset.lean ====
section
/-! SUPPORT. What each operation of Machine/Reset.lean can change at most. -/

set_option Elab.async false
set_option linter.unreachableTactic false
set_option linter.unusedTactic false

namespace Sys2Proof.Machine

theorem within_recordCause {W : List Part} (h : partsLe [.regs 0x1, .lamp] W = true) {a : _}
    : (recordCause a).Within W := by
  unfold recordCause
  repeat' first
    | with_reducible exact within_skip
    | with_reducible exact within_all_nil
    | with_reducible refine within_all_cons ?_ ?_
    | with_reducible refine within_seq ?_ ?_
    | with_reducible refine within_look fun _ => ?_
    | with_reducible refine within_when ?_
    | ((with_reducible refine within_modLamp ?_); exact lec h (by decide +kernel))
    | ((with_reducible refine within_setReg rfl ?_); exact lec h (by decide +kernel))

theorem within_clearLogicRegs {W : List Part} (h : partsLe [.allRegs, .pend] W = true) :
    clearLogicRegs.Within W := by
  unfold clearLogicRegs
  repeat' first
    | with_reducible exact within_skip
    | with_reducible exact within_all_nil
    | with_reducible refine within_all_cons ?_ ?_
    | with_reducible refine within_seq ?_ ?_
    | with_reducible refine within_look fun _ => ?_
    | with_reducible refine within_when ?_
    | ((with_reducible refine within_clearRegs ?_ ?_) <;> exact lec h (by decide +kernel))

theorem within_logicReset {W : List Part} (h : partsLe [.mem .icon, .mem .img, .allRegs,
    .pend, .leases, .lamp, .rcl, .boot, .ave, .xlt, .wrd, .xng, .cam, .ras, .dst, .rbt, .sco,
    .sgn, .hv, .can, .svc, .ports, .brg] W = true) : logicReset.Within W := by
  unfold logicReset
  repeat' first
    | with_reducible exact within_skip
    | with_reducible exact within_all_nil
    | with_reducible refine within_all_cons ?_ ?_
    | with_reducible refine within_seq ?_ ?_
    | with_reducible refine within_look fun _ => ?_
    | with_reducible refine within_when ?_
    | ((with_reducible refine within_modAve ?_); exact lec h (by decide +kernel))
    | ((with_reducible refine within_modBrg ?_); exact lec h (by decide +kernel))
    | ((with_reducible refine within_modLamp ?_); exact lec h (by decide +kernel))
    | ((with_reducible refine within_modPorts ?_); exact lec h (by decide +kernel))
    | ((with_reducible refine within_modRcl ?_); exact lec h (by decide +kernel))
    | ((with_reducible refine within_modSvc ?_); exact lec h (by decide +kernel))
    | ((with_reducible refine within_act ?_ ?_) <;> first | exact lec h rfl | exact fun _ _ e => by cases e)
    | ((with_reducible refine within_clearLogicRegs ?_); exact lel h (by decide +kernel))
    | ((with_reducible refine within_foldl ?_ fun _ _ hs => ?_); (· exact within_skip); refine within_seq hs ?_)
    | with_reducible refine within_ite ?_ ?_
    | with_reducible refine within_progIte ?_ ?_
    | with_reducible refine within_each fun _ => ?_
    | with_reducible refine within_all_map fun _ => ?_
    | with_reducible refine within_all_replicate ?_
    | split
    | (dsimp only; split)
    | dsimp only

theorem within_dropPending {W : List Part} (h : partsLe [.pend] W = true) :
    dropPending.Within W := by
  unfold dropPending
  repeat' first
    | with_reducible exact within_skip
    | with_reducible exact within_all_nil
    | with_reducible refine within_all_cons ?_ ?_
    | with_reducible refine within_seq ?_ ?_
    | with_reducible refine within_look fun _ => ?_
    | with_reducible refine within_when ?_
    | ((with_reducible refine within_act ?_ ?_) <;> first | exact lec h rfl | exact fun _ _ e => by cases e)
    | ((with_reducible refine within_foldl ?_ fun _ _ hs => ?_); (· exact within_skip); refine within_seq hs ?_)
    | with_reducible refine within_ite ?_ ?_
    | with_reducible refine within_progIte ?_ ?_
    | with_reducible refine within_each fun _ => ?_
    | with_reducible refine within_all_map fun _ => ?_
    | with_reducible refine within_all_replicate ?_
    | split
    | (dsimp only; split)
    | dsimp only

theorem within_releaseLogic {W : List Part} (h : partsLe [.lamp, .ports] W = true) :
    releaseLogic.Within W := by
  unfold releaseLogic
  repeat' first
    | with_reducible exact within_skip
    | with_reducible exact within_all_nil
    | with_reducible refine within_all_cons ?_ ?_
    | with_reducible refine within_seq ?_ ?_
    | with_reducible refine within_look fun _ => ?_
    | with_reducible refine within_when ?_
    | ((with_reducible refine within_modLamp ?_); exact lec h (by decide +kernel))
    | ((with_reducible refine within_modPorts ?_); exact lec h (by decide +kernel))
    | ((with_reducible refine within_foldl ?_ fun _ _ hs => ?_); (· exact within_skip); refine within_seq hs ?_)
    | with_reducible refine within_ite ?_ ?_
    | with_reducible refine within_progIte ?_ ?_
    | with_reducible refine within_each fun _ => ?_
    | with_reducible refine within_all_map fun _ => ?_
    | with_reducible refine within_all_replicate ?_
    | split
    | (dsimp only; split)
    | dsimp only

theorem within_logicSideReset {W : List Part} (h : partsLe [.mem .icon, .mem .img, .allRegs,
    .pend, .leases, .lamp, .rcl, .boot, .ave, .xlt, .wrd, .xng, .cam, .ras, .dst, .rbt, .sco,
    .sgn, .hv, .can, .svc, .ports, .brg] W = true) {a : _} : (logicSideReset a).Within W := by
  unfold logicSideReset
  repeat' first
    | with_reducible exact within_skip
    | with_reducible exact within_all_nil
    | with_reducible refine within_all_cons ?_ ?_
    | with_reducible refine within_seq ?_ ?_
    | with_reducible refine within_look fun _ => ?_
    | with_reducible refine within_when ?_
    | ((with_reducible refine within_modLamp ?_); exact lec h (by decide +kernel))
    | ((with_reducible refine within_dropPending ?_); exact lel h (by decide +kernel))
    | ((with_reducible refine within_logicReset ?_); exact lel h (by decide +kernel))
    | ((with_reducible refine within_recordCause ?_); exact lel h (by decide +kernel))
    | ((with_reducible refine within_releaseLogic ?_); exact lel h (by decide +kernel))
    | ((with_reducible refine within_foldl ?_ fun _ _ hs => ?_); (· exact within_skip); refine within_seq hs ?_)
    | with_reducible refine within_ite ?_ ?_
    | with_reducible refine within_progIte ?_ ?_
    | with_reducible refine within_each fun _ => ?_
    | with_reducible refine within_all_map fun _ => ?_
    | with_reducible refine within_all_replicate ?_
    | split
    | (dsimp only; split)
    | dsimp only

theorem within_warmReset {W : List Part} (h : partsLe [.mem .icon, .mem .img, .allRegs,
    .pend, .leases, .lamp, .rcl, .boot, .ave, .xlt, .wrd, .xng, .cam, .ras, .dst, .rbt, .sco,
    .sgn, .hv, .can, .svc, .ports, .brg] W = true) {a : _} : (warmReset a).Within W := by
  unfold warmReset
  repeat' first
    | with_reducible exact within_skip
    | with_reducible exact within_all_nil
    | with_reducible refine within_all_cons ?_ ?_
    | with_reducible refine within_seq ?_ ?_
    | with_reducible refine within_look fun _ => ?_
    | with_reducible refine within_when ?_
    | ((with_reducible refine within_logicSideReset ?_); exact lel h (by decide +kernel))
    | ((with_reducible refine within_foldl ?_ fun _ _ hs => ?_); (· exact within_skip); refine within_seq hs ?_)
    | with_reducible refine within_ite ?_ ?_
    | with_reducible refine within_progIte ?_ ?_
    | with_reducible refine within_each fun _ => ?_
    | with_reducible refine within_all_map fun _ => ?_
    | with_reducible refine within_all_replicate ?_
    | split
    | (dsimp only; split)
    | dsimp only

theorem within_escalate {W : List Part} (h : partsLe [.mem .icon, .mem .img, .allRegs,
    .pend, .leases, .lamp, .rcl, .boot, .ave, .xlt, .wrd, .xng, .cam, .ras, .dst, .rbt, .sco,
    .sgn, .hv, .can, .svc, .ports, .brg] W = true) : escalate.Within W := by
  unfold escalate
  repeat' first
    | with_reducible exact within_skip
    | with_reducible exact within_all_nil
    | with_reducible refine within_all_cons ?_ ?_
    | with_reducible refine within_seq ?_ ?_
    | with_reducible refine within_look fun _ => ?_
    | with_reducible refine within_when ?_
    | ((with_reducible refine within_modRcl ?_); exact lec h (by decide +kernel))
    | ((with_reducible refine within_bump rfl ?_); exact lec h (by decide +kernel))
    | ((with_reducible refine within_logicSideReset ?_); exact lel h (by decide +kernel))
    | ((with_reducible refine within_foldl ?_ fun _ _ hs => ?_); (· exact within_skip); refine within_seq hs ?_)
    | with_reducible refine within_ite ?_ ?_
    | with_reducible refine within_progIte ?_ ?_
    | with_reducible refine within_each fun _ => ?_
    | with_reducible refine within_all_map fun _ => ?_
    | with_reducible refine within_all_replicate ?_
    | split
    | (dsimp only; split)
    | dsimp only

end Sys2Proof.Machine
end

