-- ==== Sys2Proof/Laws/Raise.lean ====
section
/-! SUPPORT. What raising a fault does: one record in the ring; of the lamplight domain it
changes nothing but the check bits of the retention words it writes. -/

set_option Elab.async false

namespace Sys2Proof.Machine

/-- The lamplight domain but for the retention words in error. -/
def State.lampCore (s : State) : Lamp := { s.lamp with retErrs := [] }

theorem lampCore_of_lamp {s t : State} (h : t.lamp = s.lamp) : t.lampCore = s.lampCore := by
  unfold State.lampCore; rw [h]

theorem retWrite_lampCore (a : Nat) (bs : List Byte) :
    (retWrite a bs).Keeps State.lampCore := by
  intro s
  unfold retWrite modLamp
  simp only [run_look, run_all_cons, run_all_nil, run_act]
  unfold Prog.when
  split <;> split <;> simp [State.lampCore, store]

theorem keeps_of_within {W : List Part} {p : Prog} (hp : p.Within W)
    (h : coveredBy W .lamp = false) : p.Keeps State.lampCore :=
  fun s => lampCore_of_lamp (hp s _ h)

theorem appendRecord_lampCore (c u d q g st k : Nat) :
    (appendRecord c u d q g st k).Keeps State.lampCore := by
  unfold appendRecord
  refine keeps_look fun s => ?_
  refine keeps_all_cons ?_ (keeps_all_cons ?_ (keeps_all_cons ?_ keeps_all_nil))
  · exact keeps_when fun _ => keeps_of_within (W := [.rcl]) (within_modRcl rfl) rfl
  · exact keeps_of_within (W := [.ring]) (within_act rfl (fun _ _ e => by cases e)) rfl
  · exact keeps_when fun _ => retWrite_lampCore _ _

theorem takeMessage_lampCore (c u d q g st : Nat) : (takeMessage c u d q g st).Keeps State.lampCore := by
  unfold takeMessage
  refine keeps_all_cons (appendRecord_lampCore _ _ _ _ _ _ _) (keeps_all_cons ?_ (keeps_all_cons ?_ keeps_all_nil))
  · refine keeps_of_within (within_setEventBit (W := eventSlots) (event_le c)) rfl
  · exact keeps_of_within (W := [.regs 0x90]) (within_look fun _ => within_each fun _ =>
      within_when (within_setFBit rfl (by decide +kernel))) rfl

theorem useFaultnCodes_lampCore : useFaultnCodes.Keeps State.lampCore :=
  keeps_each fun _ => keeps_look fun _ => keeps_when fun _ => keeps_seq
    (keeps_of_within (W := [.regs 0x90]) (within_setReg rfl (by decide +kernel)) rfl)
    (takeMessage_lampCore _ _ _ _ _ _)

theorem raise_lampCore (c u d q g st : Nat) : (raise c u d q g st).Keeps State.lampCore :=
  keeps_seq useFaultnCodes_lampCore (takeMessage_lampCore _ _ _ _ _ _)

theorem mem_pushRing (l : List FaultRec) (r : FaultRec) : r ∈ pushRing l r := by
  unfold pushRing
  rw [List.drop_append_of_le_length (by omega)]
  simp

/-- The record a fault message leaves in the ring. -/
theorem takeMessage_reports (s : State) (c u d q g st : Nat) :
    s.reports ((takeMessage c u d q g st).run s) c u := by
  unfold takeMessage appendRecord
  simp only [run_all_cons, run_look, run_all_nil, run_act]
  generalize hk : (if recoveryCodes.contains c then 2 else 0) = k
  have h1 : ∀ (c : Prop) [Decidable c] (s : State),
      ((Prog.when c (modRcl fun c => { c with ringWrap := true })).run s).ring = s.ring := by
    intro c _ s
    exact (within_when (within_modRcl (W := [.rcl]) rfl) s .ring rfl).1
  have h2 : ∀ (p : Prog) (W : List Part) (s : State), p.Within W → coveredBy W .ring = false →
      (p.run s).ring = s.ring := fun p W s hp hW => (hp s .ring hW).1
  refine ⟨⟨s.nextSeq, s.lamp.tick % 2 ^ 48, c, u, q, if q = 0xFF then 0 else g, d % 2 ^ 32, st, k⟩,
    ?_, rfl, rfl, le_refl _⟩
  rw [h2 _ [.regs 0x90] _ (within_each fun _ => within_when (within_setFBit rfl (by decide +kernel))) rfl,
    h2 _ eventSlots _ (within_setEventBit (event_le c)) rfl,
    h2 _ [.mem .retA, .mem .retB, .lamp] _ (within_when (within_retWrite (by decide +kernel))) rfl]
  exact mem_pushRing _ _

/-- A fault message takes one record number. -/
theorem takeMessage_nextSeq (s : State) (c u d q g st : Nat) :
    ((takeMessage c u d q g st).run s).nextSeq = s.nextSeq + 1 := by
  unfold takeMessage appendRecord
  simp only [run_all_cons, run_look, run_all_nil, run_act]
  have h1 : ∀ (c : Prop) [Decidable c] (s : State),
      ((Prog.when c (modRcl fun c => { c with ringWrap := true })).run s).nextSeq = s.nextSeq := by
    intro c _ s
    exact (within_when (within_modRcl (W := [.rcl]) rfl) s .ring rfl).2
  have h2 : ∀ (p : Prog) (W : List Part) (s : State), p.Within W → coveredBy W .ring = false →
      (p.run s).nextSeq = s.nextSeq := fun p W s hp hW => (hp s .ring hW).2
  rw [h2 _ [.regs 0x90] _ (within_each fun _ => within_when (within_setFBit rfl (by decide +kernel))) rfl,
    h2 _ eventSlots _ (within_setEventBit (event_le c)) rfl,
    h2 _ [.mem .retA, .mem .retB, .lamp] _ (within_when (within_retWrite (by decide +kernel))) rfl]
  exact congrArg (· + 1) (h1 _ s)

/-- Operations that only add records to the ring. -/
theorem nextSeq_le_each {β : Type} {l : List β} {f : β → Prog}
    (h : ∀ x s, s.nextSeq ≤ ((f x).run s).nextSeq) (s : State) :
    s.nextSeq ≤ ((Prog.each l f).run s).nextSeq := by
  induction l generalizing s with
  | nil => exact le_refl _
  | cons x t ih => exact le_trans (h x s) (ih _)

theorem useFaultnCodes_nextSeq (s : State) : s.nextSeq ≤ (useFaultnCodes.run s).nextSeq := by
  refine nextSeq_le_each (fun n s => ?_) s
  unfold Prog.when
  simp only [run_look]
  split
  · have h : ((setReg R.RCL_FAULTN_CODE (resetWord s.ident R.RCL_FAULTN_CODE
        (R.RCL_FAULTN_CODE.at n 0)) n).run s).nextSeq = s.nextSeq :=
      (within_setReg (W := [.regs 0x90]) rfl (by decide +kernel) s .ring rfl).2
    rw [run_seq, takeMessage_nextSeq, h]
    omega
  · exact le_refl _

/-- The record a fault message leaves in the ring. -/
theorem raise_reports (s : State) (c u d q g st : Nat) :
    s.reports ((raise c u d q g st).run s) c u := by
  obtain ⟨r, hr, h1, h2, h3⟩ := takeMessage_reports (useFaultnCodes.run s) c u d q g st
  exact ⟨r, hr, h1, h2, le_trans (useFaultnCodes_nextSeq s) h3⟩

/-- Reports last as long as the ring stays. -/
theorem reports_of_ring {s t u : State} {c n : Nat} (h : s.reports t c n) (hr : u.ring = t.ring) :
    s.reports u c n := by
  unfold State.reports; rw [hr]; exact h

/-- A fault message after operations that report none. -/
theorem reports_after {s t : State} {c u d q g st : Nat} (h : t.nextSeq = s.nextSeq) :
    s.reports ((raise c u d q g st).run t) c u := by
  obtain ⟨r, hr, h1, h2, h3⟩ := raise_reports t c u d q g st
  exact ⟨r, hr, h1, h2, h ▸ h3⟩

end Sys2Proof.Machine
end

