-- ==== Sys2Proof/Laws/Frames.lean ====
section
/-! SUPPORT. What the plain operations leave of each field of the state, as rewriting rules: the
register writes, and a fault message. -/

set_option Elab.async false

namespace Sys2Proof.Machine

variable (s : State)

@[simp] theorem run_pending (p : Prog) : (p.run s).pending = s.pending := (run_frame p s).1

@[simp] theorem run_ident (p : Prog) : (p.run s).ident = s.ident := (run_frame p s).2.1

@[simp] theorem run_time (p : Prog) : (p.run s).time = s.time := (run_frame p s).2.2.1

@[simp] theorem run_phase (p : Prog) : (p.run s).phase = s.phase := (run_frame p s).2.2.2

/-! ### Register writes -/

theorem setReg_within (r : Reg) (v i j : Nat) : (setReg r v i j).Within [.allRegs] :=
  within_setReg_all rfl

theorem setF_within (f : Field) (v i j : Nat) : (setF f v i j).Within [.allRegs] :=
  within_look fun _ => setReg_within _ _ _ _

theorem setFBit_within (f : Field) (n : Nat) (b : Bool) (i j : Nat) : (setFBit f n b i j).Within [.allRegs] :=
  within_look fun _ => setReg_within _ _ _ _

theorem bump_within (f : Field) (n i j : Nat) : (bump f n i j).Within [.allRegs] :=
  within_look fun _ => setF_within _ _ _ _

theorem keepMax_within (f : Field) (v i j : Nat) : (keepMax f v i j).Within [.allRegs] :=
  within_look fun _ => setF_within _ _ _ _

@[simp] theorem setReg_plaza (r : Reg) (v i j : Nat) :
    ((setReg r v i j).run s).plaza = s.plaza :=
  (setReg_within r v i j s (.mem .plaza) rfl)

@[simp] theorem setReg_lpddr (r : Reg) (v i j : Nat) :
    ((setReg r v i j).run s).lpddr = s.lpddr :=
  (setReg_within r v i j s (.mem .lpddr) rfl)

@[simp] theorem setReg_flash (r : Reg) (v i j : Nat) :
    ((setReg r v i j).run s).flash = s.flash :=
  (setReg_within r v i j s (.mem .flash) rfl)

@[simp] theorem setReg_retA (r : Reg) (v i j : Nat) :
    ((setReg r v i j).run s).retA = s.retA :=
  (setReg_within r v i j s (.mem .retA) rfl)

@[simp] theorem setReg_retB (r : Reg) (v i j : Nat) :
    ((setReg r v i j).run s).retB = s.retB :=
  (setReg_within r v i j s (.mem .retB) rfl)

@[simp] theorem setReg_icon (r : Reg) (v i j : Nat) :
    ((setReg r v i j).run s).icon = s.icon :=
  (setReg_within r v i j s (.mem .icon) rfl)

@[simp] theorem setReg_otp (r : Reg) (v i j : Nat) :
    ((setReg r v i j).run s).otp = s.otp :=
  (setReg_within r v i j s (.mem .otp) rfl)

@[simp] theorem setReg_img (r : Reg) (v i j : Nat) :
    ((setReg r v i j).run s).img = s.img :=
  (setReg_within r v i j s (.mem .img) rfl)

@[simp] theorem setReg_rwpPend (r : Reg) (v i j : Nat) :
    ((setReg r v i j).run s).rwpPend = s.rwpPend :=
  (setReg_within r v i j s (.pend) rfl)

@[simp] theorem setReg_bus (r : Reg) (v i j : Nat) :
    ((setReg r v i j).run s).bus = s.bus :=
  (setReg_within r v i j s (.bus) rfl)

@[simp] theorem setReg_free (r : Reg) (v i j : Nat) :
    ((setReg r v i j).run s).free = s.free :=
  (setReg_within r v i j s (.free) rfl)

@[simp] theorem setReg_ring (r : Reg) (v i j : Nat) :
    ((setReg r v i j).run s).ring = s.ring :=
  (setReg_within r v i j s (.ring) rfl).1

@[simp] theorem setReg_nextSeq (r : Reg) (v i j : Nat) :
    ((setReg r v i j).run s).nextSeq = s.nextSeq :=
  (setReg_within r v i j s (.ring) rfl).2

@[simp] theorem setReg_leases (r : Reg) (v i j : Nat) :
    ((setReg r v i j).run s).leases = s.leases :=
  (setReg_within r v i j s (.leases) rfl)

@[simp] theorem setReg_lamp (r : Reg) (v i j : Nat) :
    ((setReg r v i j).run s).lamp = s.lamp :=
  (setReg_within r v i j s (.lamp) rfl)

@[simp] theorem setReg_rcl (r : Reg) (v i j : Nat) :
    ((setReg r v i j).run s).rcl = s.rcl :=
  (setReg_within r v i j s (.rcl) rfl)

@[simp] theorem setReg_boot (r : Reg) (v i j : Nat) :
    ((setReg r v i j).run s).boot = s.boot :=
  (setReg_within r v i j s (.boot) rfl)

@[simp] theorem setReg_ave (r : Reg) (v i j : Nat) :
    ((setReg r v i j).run s).ave = s.ave :=
  (setReg_within r v i j s (.ave) rfl)

@[simp] theorem setReg_xlt (r : Reg) (v i j : Nat) :
    ((setReg r v i j).run s).xlt = s.xlt :=
  (setReg_within r v i j s (.xlt) rfl)

@[simp] theorem setReg_wrd (r : Reg) (v i j : Nat) :
    ((setReg r v i j).run s).wrd = s.wrd :=
  (setReg_within r v i j s (.wrd) rfl)

@[simp] theorem setReg_xng (r : Reg) (v i j : Nat) :
    ((setReg r v i j).run s).xng = s.xng :=
  (setReg_within r v i j s (.xng) rfl)

@[simp] theorem setReg_cam (r : Reg) (v i j : Nat) :
    ((setReg r v i j).run s).cam = s.cam :=
  (setReg_within r v i j s (.cam) rfl)

@[simp] theorem setReg_ras (r : Reg) (v i j : Nat) :
    ((setReg r v i j).run s).ras = s.ras :=
  (setReg_within r v i j s (.ras) rfl)

@[simp] theorem setReg_dst (r : Reg) (v i j : Nat) :
    ((setReg r v i j).run s).dst = s.dst :=
  (setReg_within r v i j s (.dst) rfl)

@[simp] theorem setReg_rbt (r : Reg) (v i j : Nat) :
    ((setReg r v i j).run s).rbt = s.rbt :=
  (setReg_within r v i j s (.rbt) rfl)

@[simp] theorem setReg_sco (r : Reg) (v i j : Nat) :
    ((setReg r v i j).run s).sco = s.sco :=
  (setReg_within r v i j s (.sco) rfl)

@[simp] theorem setReg_sgn (r : Reg) (v i j : Nat) :
    ((setReg r v i j).run s).sgn = s.sgn :=
  (setReg_within r v i j s (.sgn) rfl)

@[simp] theorem setReg_hv (r : Reg) (v i j : Nat) :
    ((setReg r v i j).run s).hv = s.hv :=
  (setReg_within r v i j s (.hv) rfl)

@[simp] theorem setReg_can (r : Reg) (v i j : Nat) :
    ((setReg r v i j).run s).can = s.can :=
  (setReg_within r v i j s (.can) rfl)

@[simp] theorem setReg_svc (r : Reg) (v i j : Nat) :
    ((setReg r v i j).run s).svc = s.svc :=
  (setReg_within r v i j s (.svc) rfl)

@[simp] theorem setReg_ports (r : Reg) (v i j : Nat) :
    ((setReg r v i j).run s).ports = s.ports :=
  (setReg_within r v i j s (.ports) rfl)

@[simp] theorem setReg_brg (r : Reg) (v i j : Nat) :
    ((setReg r v i j).run s).brg = s.brg :=
  (setReg_within r v i j s (.brg) rfl)

@[simp] theorem setF_plaza (f : Field) (v i j : Nat) :
    ((setF f v i j).run s).plaza = s.plaza :=
  (setF_within f v i j s (.mem .plaza) rfl)

@[simp] theorem setF_lpddr (f : Field) (v i j : Nat) :
    ((setF f v i j).run s).lpddr = s.lpddr :=
  (setF_within f v i j s (.mem .lpddr) rfl)

@[simp] theorem setF_flash (f : Field) (v i j : Nat) :
    ((setF f v i j).run s).flash = s.flash :=
  (setF_within f v i j s (.mem .flash) rfl)

@[simp] theorem setF_retA (f : Field) (v i j : Nat) :
    ((setF f v i j).run s).retA = s.retA :=
  (setF_within f v i j s (.mem .retA) rfl)

@[simp] theorem setF_retB (f : Field) (v i j : Nat) :
    ((setF f v i j).run s).retB = s.retB :=
  (setF_within f v i j s (.mem .retB) rfl)

@[simp] theorem setF_icon (f : Field) (v i j : Nat) :
    ((setF f v i j).run s).icon = s.icon :=
  (setF_within f v i j s (.mem .icon) rfl)

@[simp] theorem setF_otp (f : Field) (v i j : Nat) :
    ((setF f v i j).run s).otp = s.otp :=
  (setF_within f v i j s (.mem .otp) rfl)

@[simp] theorem setF_img (f : Field) (v i j : Nat) :
    ((setF f v i j).run s).img = s.img :=
  (setF_within f v i j s (.mem .img) rfl)

@[simp] theorem setF_rwpPend (f : Field) (v i j : Nat) :
    ((setF f v i j).run s).rwpPend = s.rwpPend :=
  (setF_within f v i j s (.pend) rfl)

@[simp] theorem setF_bus (f : Field) (v i j : Nat) :
    ((setF f v i j).run s).bus = s.bus :=
  (setF_within f v i j s (.bus) rfl)

@[simp] theorem setF_free (f : Field) (v i j : Nat) :
    ((setF f v i j).run s).free = s.free :=
  (setF_within f v i j s (.free) rfl)

@[simp] theorem setF_ring (f : Field) (v i j : Nat) :
    ((setF f v i j).run s).ring = s.ring :=
  (setF_within f v i j s (.ring) rfl).1

@[simp] theorem setF_nextSeq (f : Field) (v i j : Nat) :
    ((setF f v i j).run s).nextSeq = s.nextSeq :=
  (setF_within f v i j s (.ring) rfl).2

@[simp] theorem setF_leases (f : Field) (v i j : Nat) :
    ((setF f v i j).run s).leases = s.leases :=
  (setF_within f v i j s (.leases) rfl)

@[simp] theorem setF_lamp (f : Field) (v i j : Nat) :
    ((setF f v i j).run s).lamp = s.lamp :=
  (setF_within f v i j s (.lamp) rfl)

@[simp] theorem setF_rcl (f : Field) (v i j : Nat) :
    ((setF f v i j).run s).rcl = s.rcl :=
  (setF_within f v i j s (.rcl) rfl)

@[simp] theorem setF_boot (f : Field) (v i j : Nat) :
    ((setF f v i j).run s).boot = s.boot :=
  (setF_within f v i j s (.boot) rfl)

@[simp] theorem setF_ave (f : Field) (v i j : Nat) :
    ((setF f v i j).run s).ave = s.ave :=
  (setF_within f v i j s (.ave) rfl)

@[simp] theorem setF_xlt (f : Field) (v i j : Nat) :
    ((setF f v i j).run s).xlt = s.xlt :=
  (setF_within f v i j s (.xlt) rfl)

@[simp] theorem setF_wrd (f : Field) (v i j : Nat) :
    ((setF f v i j).run s).wrd = s.wrd :=
  (setF_within f v i j s (.wrd) rfl)

@[simp] theorem setF_xng (f : Field) (v i j : Nat) :
    ((setF f v i j).run s).xng = s.xng :=
  (setF_within f v i j s (.xng) rfl)

@[simp] theorem setF_cam (f : Field) (v i j : Nat) :
    ((setF f v i j).run s).cam = s.cam :=
  (setF_within f v i j s (.cam) rfl)

@[simp] theorem setF_ras (f : Field) (v i j : Nat) :
    ((setF f v i j).run s).ras = s.ras :=
  (setF_within f v i j s (.ras) rfl)

@[simp] theorem setF_dst (f : Field) (v i j : Nat) :
    ((setF f v i j).run s).dst = s.dst :=
  (setF_within f v i j s (.dst) rfl)

@[simp] theorem setF_rbt (f : Field) (v i j : Nat) :
    ((setF f v i j).run s).rbt = s.rbt :=
  (setF_within f v i j s (.rbt) rfl)

@[simp] theorem setF_sco (f : Field) (v i j : Nat) :
    ((setF f v i j).run s).sco = s.sco :=
  (setF_within f v i j s (.sco) rfl)

@[simp] theorem setF_sgn (f : Field) (v i j : Nat) :
    ((setF f v i j).run s).sgn = s.sgn :=
  (setF_within f v i j s (.sgn) rfl)

@[simp] theorem setF_hv (f : Field) (v i j : Nat) :
    ((setF f v i j).run s).hv = s.hv :=
  (setF_within f v i j s (.hv) rfl)

@[simp] theorem setF_can (f : Field) (v i j : Nat) :
    ((setF f v i j).run s).can = s.can :=
  (setF_within f v i j s (.can) rfl)

@[simp] theorem setF_svc (f : Field) (v i j : Nat) :
    ((setF f v i j).run s).svc = s.svc :=
  (setF_within f v i j s (.svc) rfl)

@[simp] theorem setF_ports (f : Field) (v i j : Nat) :
    ((setF f v i j).run s).ports = s.ports :=
  (setF_within f v i j s (.ports) rfl)

@[simp] theorem setF_brg (f : Field) (v i j : Nat) :
    ((setF f v i j).run s).brg = s.brg :=
  (setF_within f v i j s (.brg) rfl)

@[simp] theorem setFBit_plaza (f : Field) (n : Nat) (b : Bool) (i j : Nat) :
    ((setFBit f n b i j).run s).plaza = s.plaza :=
  (setFBit_within f n b i j s (.mem .plaza) rfl)

@[simp] theorem setFBit_lpddr (f : Field) (n : Nat) (b : Bool) (i j : Nat) :
    ((setFBit f n b i j).run s).lpddr = s.lpddr :=
  (setFBit_within f n b i j s (.mem .lpddr) rfl)

@[simp] theorem setFBit_flash (f : Field) (n : Nat) (b : Bool) (i j : Nat) :
    ((setFBit f n b i j).run s).flash = s.flash :=
  (setFBit_within f n b i j s (.mem .flash) rfl)

@[simp] theorem setFBit_retA (f : Field) (n : Nat) (b : Bool) (i j : Nat) :
    ((setFBit f n b i j).run s).retA = s.retA :=
  (setFBit_within f n b i j s (.mem .retA) rfl)

@[simp] theorem setFBit_retB (f : Field) (n : Nat) (b : Bool) (i j : Nat) :
    ((setFBit f n b i j).run s).retB = s.retB :=
  (setFBit_within f n b i j s (.mem .retB) rfl)

@[simp] theorem setFBit_icon (f : Field) (n : Nat) (b : Bool) (i j : Nat) :
    ((setFBit f n b i j).run s).icon = s.icon :=
  (setFBit_within f n b i j s (.mem .icon) rfl)

@[simp] theorem setFBit_otp (f : Field) (n : Nat) (b : Bool) (i j : Nat) :
    ((setFBit f n b i j).run s).otp = s.otp :=
  (setFBit_within f n b i j s (.mem .otp) rfl)

@[simp] theorem setFBit_img (f : Field) (n : Nat) (b : Bool) (i j : Nat) :
    ((setFBit f n b i j).run s).img = s.img :=
  (setFBit_within f n b i j s (.mem .img) rfl)

@[simp] theorem setFBit_rwpPend (f : Field) (n : Nat) (b : Bool) (i j : Nat) :
    ((setFBit f n b i j).run s).rwpPend = s.rwpPend :=
  (setFBit_within f n b i j s (.pend) rfl)

@[simp] theorem setFBit_bus (f : Field) (n : Nat) (b : Bool) (i j : Nat) :
    ((setFBit f n b i j).run s).bus = s.bus :=
  (setFBit_within f n b i j s (.bus) rfl)

@[simp] theorem setFBit_free (f : Field) (n : Nat) (b : Bool) (i j : Nat) :
    ((setFBit f n b i j).run s).free = s.free :=
  (setFBit_within f n b i j s (.free) rfl)

@[simp] theorem setFBit_ring (f : Field) (n : Nat) (b : Bool) (i j : Nat) :
    ((setFBit f n b i j).run s).ring = s.ring :=
  (setFBit_within f n b i j s (.ring) rfl).1

@[simp] theorem setFBit_nextSeq (f : Field) (n : Nat) (b : Bool) (i j : Nat) :
    ((setFBit f n b i j).run s).nextSeq = s.nextSeq :=
  (setFBit_within f n b i j s (.ring) rfl).2

@[simp] theorem setFBit_leases (f : Field) (n : Nat) (b : Bool) (i j : Nat) :
    ((setFBit f n b i j).run s).leases = s.leases :=
  (setFBit_within f n b i j s (.leases) rfl)

@[simp] theorem setFBit_lamp (f : Field) (n : Nat) (b : Bool) (i j : Nat) :
    ((setFBit f n b i j).run s).lamp = s.lamp :=
  (setFBit_within f n b i j s (.lamp) rfl)

@[simp] theorem setFBit_rcl (f : Field) (n : Nat) (b : Bool) (i j : Nat) :
    ((setFBit f n b i j).run s).rcl = s.rcl :=
  (setFBit_within f n b i j s (.rcl) rfl)

@[simp] theorem setFBit_boot (f : Field) (n : Nat) (b : Bool) (i j : Nat) :
    ((setFBit f n b i j).run s).boot = s.boot :=
  (setFBit_within f n b i j s (.boot) rfl)

@[simp] theorem setFBit_ave (f : Field) (n : Nat) (b : Bool) (i j : Nat) :
    ((setFBit f n b i j).run s).ave = s.ave :=
  (setFBit_within f n b i j s (.ave) rfl)

@[simp] theorem setFBit_xlt (f : Field) (n : Nat) (b : Bool) (i j : Nat) :
    ((setFBit f n b i j).run s).xlt = s.xlt :=
  (setFBit_within f n b i j s (.xlt) rfl)

@[simp] theorem setFBit_wrd (f : Field) (n : Nat) (b : Bool) (i j : Nat) :
    ((setFBit f n b i j).run s).wrd = s.wrd :=
  (setFBit_within f n b i j s (.wrd) rfl)

@[simp] theorem setFBit_xng (f : Field) (n : Nat) (b : Bool) (i j : Nat) :
    ((setFBit f n b i j).run s).xng = s.xng :=
  (setFBit_within f n b i j s (.xng) rfl)

@[simp] theorem setFBit_cam (f : Field) (n : Nat) (b : Bool) (i j : Nat) :
    ((setFBit f n b i j).run s).cam = s.cam :=
  (setFBit_within f n b i j s (.cam) rfl)

@[simp] theorem setFBit_ras (f : Field) (n : Nat) (b : Bool) (i j : Nat) :
    ((setFBit f n b i j).run s).ras = s.ras :=
  (setFBit_within f n b i j s (.ras) rfl)

@[simp] theorem setFBit_dst (f : Field) (n : Nat) (b : Bool) (i j : Nat) :
    ((setFBit f n b i j).run s).dst = s.dst :=
  (setFBit_within f n b i j s (.dst) rfl)

@[simp] theorem setFBit_rbt (f : Field) (n : Nat) (b : Bool) (i j : Nat) :
    ((setFBit f n b i j).run s).rbt = s.rbt :=
  (setFBit_within f n b i j s (.rbt) rfl)

@[simp] theorem setFBit_sco (f : Field) (n : Nat) (b : Bool) (i j : Nat) :
    ((setFBit f n b i j).run s).sco = s.sco :=
  (setFBit_within f n b i j s (.sco) rfl)

@[simp] theorem setFBit_sgn (f : Field) (n : Nat) (b : Bool) (i j : Nat) :
    ((setFBit f n b i j).run s).sgn = s.sgn :=
  (setFBit_within f n b i j s (.sgn) rfl)

@[simp] theorem setFBit_hv (f : Field) (n : Nat) (b : Bool) (i j : Nat) :
    ((setFBit f n b i j).run s).hv = s.hv :=
  (setFBit_within f n b i j s (.hv) rfl)

@[simp] theorem setFBit_can (f : Field) (n : Nat) (b : Bool) (i j : Nat) :
    ((setFBit f n b i j).run s).can = s.can :=
  (setFBit_within f n b i j s (.can) rfl)

@[simp] theorem setFBit_svc (f : Field) (n : Nat) (b : Bool) (i j : Nat) :
    ((setFBit f n b i j).run s).svc = s.svc :=
  (setFBit_within f n b i j s (.svc) rfl)

@[simp] theorem setFBit_ports (f : Field) (n : Nat) (b : Bool) (i j : Nat) :
    ((setFBit f n b i j).run s).ports = s.ports :=
  (setFBit_within f n b i j s (.ports) rfl)

@[simp] theorem setFBit_brg (f : Field) (n : Nat) (b : Bool) (i j : Nat) :
    ((setFBit f n b i j).run s).brg = s.brg :=
  (setFBit_within f n b i j s (.brg) rfl)

@[simp] theorem bump_plaza (f : Field) (n i j : Nat) :
    ((bump f n i j).run s).plaza = s.plaza :=
  (bump_within f n i j s (.mem .plaza) rfl)

@[simp] theorem bump_lpddr (f : Field) (n i j : Nat) :
    ((bump f n i j).run s).lpddr = s.lpddr :=
  (bump_within f n i j s (.mem .lpddr) rfl)

@[simp] theorem bump_flash (f : Field) (n i j : Nat) :
    ((bump f n i j).run s).flash = s.flash :=
  (bump_within f n i j s (.mem .flash) rfl)

@[simp] theorem bump_retA (f : Field) (n i j : Nat) :
    ((bump f n i j).run s).retA = s.retA :=
  (bump_within f n i j s (.mem .retA) rfl)

@[simp] theorem bump_retB (f : Field) (n i j : Nat) :
    ((bump f n i j).run s).retB = s.retB :=
  (bump_within f n i j s (.mem .retB) rfl)

@[simp] theorem bump_icon (f : Field) (n i j : Nat) :
    ((bump f n i j).run s).icon = s.icon :=
  (bump_within f n i j s (.mem .icon) rfl)

@[simp] theorem bump_otp (f : Field) (n i j : Nat) :
    ((bump f n i j).run s).otp = s.otp :=
  (bump_within f n i j s (.mem .otp) rfl)

@[simp] theorem bump_img (f : Field) (n i j : Nat) :
    ((bump f n i j).run s).img = s.img :=
  (bump_within f n i j s (.mem .img) rfl)

@[simp] theorem bump_rwpPend (f : Field) (n i j : Nat) :
    ((bump f n i j).run s).rwpPend = s.rwpPend :=
  (bump_within f n i j s (.pend) rfl)

@[simp] theorem bump_bus (f : Field) (n i j : Nat) :
    ((bump f n i j).run s).bus = s.bus :=
  (bump_within f n i j s (.bus) rfl)

@[simp] theorem bump_free (f : Field) (n i j : Nat) :
    ((bump f n i j).run s).free = s.free :=
  (bump_within f n i j s (.free) rfl)

@[simp] theorem bump_ring (f : Field) (n i j : Nat) :
    ((bump f n i j).run s).ring = s.ring :=
  (bump_within f n i j s (.ring) rfl).1

@[simp] theorem bump_nextSeq (f : Field) (n i j : Nat) :
    ((bump f n i j).run s).nextSeq = s.nextSeq :=
  (bump_within f n i j s (.ring) rfl).2

@[simp] theorem bump_leases (f : Field) (n i j : Nat) :
    ((bump f n i j).run s).leases = s.leases :=
  (bump_within f n i j s (.leases) rfl)

@[simp] theorem bump_lamp (f : Field) (n i j : Nat) :
    ((bump f n i j).run s).lamp = s.lamp :=
  (bump_within f n i j s (.lamp) rfl)

@[simp] theorem bump_rcl (f : Field) (n i j : Nat) :
    ((bump f n i j).run s).rcl = s.rcl :=
  (bump_within f n i j s (.rcl) rfl)

@[simp] theorem bump_boot (f : Field) (n i j : Nat) :
    ((bump f n i j).run s).boot = s.boot :=
  (bump_within f n i j s (.boot) rfl)

@[simp] theorem bump_ave (f : Field) (n i j : Nat) :
    ((bump f n i j).run s).ave = s.ave :=
  (bump_within f n i j s (.ave) rfl)

@[simp] theorem bump_xlt (f : Field) (n i j : Nat) :
    ((bump f n i j).run s).xlt = s.xlt :=
  (bump_within f n i j s (.xlt) rfl)

@[simp] theorem bump_wrd (f : Field) (n i j : Nat) :
    ((bump f n i j).run s).wrd = s.wrd :=
  (bump_within f n i j s (.wrd) rfl)

@[simp] theorem bump_xng (f : Field) (n i j : Nat) :
    ((bump f n i j).run s).xng = s.xng :=
  (bump_within f n i j s (.xng) rfl)

@[simp] theorem bump_cam (f : Field) (n i j : Nat) :
    ((bump f n i j).run s).cam = s.cam :=
  (bump_within f n i j s (.cam) rfl)

@[simp] theorem bump_ras (f : Field) (n i j : Nat) :
    ((bump f n i j).run s).ras = s.ras :=
  (bump_within f n i j s (.ras) rfl)

@[simp] theorem bump_dst (f : Field) (n i j : Nat) :
    ((bump f n i j).run s).dst = s.dst :=
  (bump_within f n i j s (.dst) rfl)

@[simp] theorem bump_rbt (f : Field) (n i j : Nat) :
    ((bump f n i j).run s).rbt = s.rbt :=
  (bump_within f n i j s (.rbt) rfl)

@[simp] theorem bump_sco (f : Field) (n i j : Nat) :
    ((bump f n i j).run s).sco = s.sco :=
  (bump_within f n i j s (.sco) rfl)

@[simp] theorem bump_sgn (f : Field) (n i j : Nat) :
    ((bump f n i j).run s).sgn = s.sgn :=
  (bump_within f n i j s (.sgn) rfl)

@[simp] theorem bump_hv (f : Field) (n i j : Nat) :
    ((bump f n i j).run s).hv = s.hv :=
  (bump_within f n i j s (.hv) rfl)

@[simp] theorem bump_can (f : Field) (n i j : Nat) :
    ((bump f n i j).run s).can = s.can :=
  (bump_within f n i j s (.can) rfl)

@[simp] theorem bump_svc (f : Field) (n i j : Nat) :
    ((bump f n i j).run s).svc = s.svc :=
  (bump_within f n i j s (.svc) rfl)

@[simp] theorem bump_ports (f : Field) (n i j : Nat) :
    ((bump f n i j).run s).ports = s.ports :=
  (bump_within f n i j s (.ports) rfl)

@[simp] theorem bump_brg (f : Field) (n i j : Nat) :
    ((bump f n i j).run s).brg = s.brg :=
  (bump_within f n i j s (.brg) rfl)

@[simp] theorem keepMax_plaza (f : Field) (v i j : Nat) :
    ((keepMax f v i j).run s).plaza = s.plaza :=
  (keepMax_within f v i j s (.mem .plaza) rfl)

@[simp] theorem keepMax_lpddr (f : Field) (v i j : Nat) :
    ((keepMax f v i j).run s).lpddr = s.lpddr :=
  (keepMax_within f v i j s (.mem .lpddr) rfl)

@[simp] theorem keepMax_flash (f : Field) (v i j : Nat) :
    ((keepMax f v i j).run s).flash = s.flash :=
  (keepMax_within f v i j s (.mem .flash) rfl)

@[simp] theorem keepMax_retA (f : Field) (v i j : Nat) :
    ((keepMax f v i j).run s).retA = s.retA :=
  (keepMax_within f v i j s (.mem .retA) rfl)

@[simp] theorem keepMax_retB (f : Field) (v i j : Nat) :
    ((keepMax f v i j).run s).retB = s.retB :=
  (keepMax_within f v i j s (.mem .retB) rfl)

@[simp] theorem keepMax_icon (f : Field) (v i j : Nat) :
    ((keepMax f v i j).run s).icon = s.icon :=
  (keepMax_within f v i j s (.mem .icon) rfl)

@[simp] theorem keepMax_otp (f : Field) (v i j : Nat) :
    ((keepMax f v i j).run s).otp = s.otp :=
  (keepMax_within f v i j s (.mem .otp) rfl)

@[simp] theorem keepMax_img (f : Field) (v i j : Nat) :
    ((keepMax f v i j).run s).img = s.img :=
  (keepMax_within f v i j s (.mem .img) rfl)

@[simp] theorem keepMax_rwpPend (f : Field) (v i j : Nat) :
    ((keepMax f v i j).run s).rwpPend = s.rwpPend :=
  (keepMax_within f v i j s (.pend) rfl)

@[simp] theorem keepMax_bus (f : Field) (v i j : Nat) :
    ((keepMax f v i j).run s).bus = s.bus :=
  (keepMax_within f v i j s (.bus) rfl)

@[simp] theorem keepMax_free (f : Field) (v i j : Nat) :
    ((keepMax f v i j).run s).free = s.free :=
  (keepMax_within f v i j s (.free) rfl)

@[simp] theorem keepMax_ring (f : Field) (v i j : Nat) :
    ((keepMax f v i j).run s).ring = s.ring :=
  (keepMax_within f v i j s (.ring) rfl).1

@[simp] theorem keepMax_nextSeq (f : Field) (v i j : Nat) :
    ((keepMax f v i j).run s).nextSeq = s.nextSeq :=
  (keepMax_within f v i j s (.ring) rfl).2

@[simp] theorem keepMax_leases (f : Field) (v i j : Nat) :
    ((keepMax f v i j).run s).leases = s.leases :=
  (keepMax_within f v i j s (.leases) rfl)

@[simp] theorem keepMax_lamp (f : Field) (v i j : Nat) :
    ((keepMax f v i j).run s).lamp = s.lamp :=
  (keepMax_within f v i j s (.lamp) rfl)

@[simp] theorem keepMax_rcl (f : Field) (v i j : Nat) :
    ((keepMax f v i j).run s).rcl = s.rcl :=
  (keepMax_within f v i j s (.rcl) rfl)

@[simp] theorem keepMax_boot (f : Field) (v i j : Nat) :
    ((keepMax f v i j).run s).boot = s.boot :=
  (keepMax_within f v i j s (.boot) rfl)

@[simp] theorem keepMax_ave (f : Field) (v i j : Nat) :
    ((keepMax f v i j).run s).ave = s.ave :=
  (keepMax_within f v i j s (.ave) rfl)

@[simp] theorem keepMax_xlt (f : Field) (v i j : Nat) :
    ((keepMax f v i j).run s).xlt = s.xlt :=
  (keepMax_within f v i j s (.xlt) rfl)

@[simp] theorem keepMax_wrd (f : Field) (v i j : Nat) :
    ((keepMax f v i j).run s).wrd = s.wrd :=
  (keepMax_within f v i j s (.wrd) rfl)

@[simp] theorem keepMax_xng (f : Field) (v i j : Nat) :
    ((keepMax f v i j).run s).xng = s.xng :=
  (keepMax_within f v i j s (.xng) rfl)

@[simp] theorem keepMax_cam (f : Field) (v i j : Nat) :
    ((keepMax f v i j).run s).cam = s.cam :=
  (keepMax_within f v i j s (.cam) rfl)

@[simp] theorem keepMax_ras (f : Field) (v i j : Nat) :
    ((keepMax f v i j).run s).ras = s.ras :=
  (keepMax_within f v i j s (.ras) rfl)

@[simp] theorem keepMax_dst (f : Field) (v i j : Nat) :
    ((keepMax f v i j).run s).dst = s.dst :=
  (keepMax_within f v i j s (.dst) rfl)

@[simp] theorem keepMax_rbt (f : Field) (v i j : Nat) :
    ((keepMax f v i j).run s).rbt = s.rbt :=
  (keepMax_within f v i j s (.rbt) rfl)

@[simp] theorem keepMax_sco (f : Field) (v i j : Nat) :
    ((keepMax f v i j).run s).sco = s.sco :=
  (keepMax_within f v i j s (.sco) rfl)

@[simp] theorem keepMax_sgn (f : Field) (v i j : Nat) :
    ((keepMax f v i j).run s).sgn = s.sgn :=
  (keepMax_within f v i j s (.sgn) rfl)

@[simp] theorem keepMax_hv (f : Field) (v i j : Nat) :
    ((keepMax f v i j).run s).hv = s.hv :=
  (keepMax_within f v i j s (.hv) rfl)

@[simp] theorem keepMax_can (f : Field) (v i j : Nat) :
    ((keepMax f v i j).run s).can = s.can :=
  (keepMax_within f v i j s (.can) rfl)

@[simp] theorem keepMax_svc (f : Field) (v i j : Nat) :
    ((keepMax f v i j).run s).svc = s.svc :=
  (keepMax_within f v i j s (.svc) rfl)

@[simp] theorem keepMax_ports (f : Field) (v i j : Nat) :
    ((keepMax f v i j).run s).ports = s.ports :=
  (keepMax_within f v i j s (.ports) rfl)

@[simp] theorem keepMax_brg (f : Field) (v i j : Nat) :
    ((keepMax f v i j).run s).brg = s.brg :=
  (keepMax_within f v i j s (.brg) rfl)

/-! ### Fault messages -/

theorem raise_within (c u d q g st : Nat) : (raise c u d q g st).Within raiseAny :=
  within_raise (by decide +kernel) (partsLe_trans (event_le c) (by decide +kernel))

theorem raiseLimited_within (p k c u d : Nat) : (raiseLimited p k c u d).Within raiseAny :=
  within_raiseLimited (by decide +kernel) (partsLe_trans (event_le c) (by decide +kernel))

@[simp] theorem raise_plaza (c u d q g st : Nat) :
    ((raise c u d q g st).run s).plaza = s.plaza :=
  (raise_within c u d q g st s (.mem .plaza) rfl)

@[simp] theorem raiseLimited_plaza (p k c u d : Nat) :
    ((raiseLimited p k c u d).run s).plaza = s.plaza :=
  (raiseLimited_within p k c u d s (.mem .plaza) rfl)

@[simp] theorem raiseSecond_plaza (c u d k : Nat) :
    ((raiseSecond c u d k).run s).plaza = s.plaza := raiseLimited_plaza ..

@[simp] theorem raise_lpddr (c u d q g st : Nat) :
    ((raise c u d q g st).run s).lpddr = s.lpddr :=
  (raise_within c u d q g st s (.mem .lpddr) rfl)

@[simp] theorem raiseLimited_lpddr (p k c u d : Nat) :
    ((raiseLimited p k c u d).run s).lpddr = s.lpddr :=
  (raiseLimited_within p k c u d s (.mem .lpddr) rfl)

@[simp] theorem raiseSecond_lpddr (c u d k : Nat) :
    ((raiseSecond c u d k).run s).lpddr = s.lpddr := raiseLimited_lpddr ..

@[simp] theorem raise_flash (c u d q g st : Nat) :
    ((raise c u d q g st).run s).flash = s.flash :=
  (raise_within c u d q g st s (.mem .flash) rfl)

@[simp] theorem raiseLimited_flash (p k c u d : Nat) :
    ((raiseLimited p k c u d).run s).flash = s.flash :=
  (raiseLimited_within p k c u d s (.mem .flash) rfl)

@[simp] theorem raiseSecond_flash (c u d k : Nat) :
    ((raiseSecond c u d k).run s).flash = s.flash := raiseLimited_flash ..

@[simp] theorem raise_icon (c u d q g st : Nat) :
    ((raise c u d q g st).run s).icon = s.icon :=
  (raise_within c u d q g st s (.mem .icon) rfl)

@[simp] theorem raiseLimited_icon (p k c u d : Nat) :
    ((raiseLimited p k c u d).run s).icon = s.icon :=
  (raiseLimited_within p k c u d s (.mem .icon) rfl)

@[simp] theorem raiseSecond_icon (c u d k : Nat) :
    ((raiseSecond c u d k).run s).icon = s.icon := raiseLimited_icon ..

@[simp] theorem raise_otp (c u d q g st : Nat) :
    ((raise c u d q g st).run s).otp = s.otp :=
  (raise_within c u d q g st s (.mem .otp) rfl)

@[simp] theorem raiseLimited_otp (p k c u d : Nat) :
    ((raiseLimited p k c u d).run s).otp = s.otp :=
  (raiseLimited_within p k c u d s (.mem .otp) rfl)

@[simp] theorem raiseSecond_otp (c u d k : Nat) :
    ((raiseSecond c u d k).run s).otp = s.otp := raiseLimited_otp ..

@[simp] theorem raise_img (c u d q g st : Nat) :
    ((raise c u d q g st).run s).img = s.img :=
  (raise_within c u d q g st s (.mem .img) rfl)

@[simp] theorem raiseLimited_img (p k c u d : Nat) :
    ((raiseLimited p k c u d).run s).img = s.img :=
  (raiseLimited_within p k c u d s (.mem .img) rfl)

@[simp] theorem raiseSecond_img (c u d k : Nat) :
    ((raiseSecond c u d k).run s).img = s.img := raiseLimited_img ..

@[simp] theorem raise_rwpPend (c u d q g st : Nat) :
    ((raise c u d q g st).run s).rwpPend = s.rwpPend :=
  (raise_within c u d q g st s (.pend) rfl)

@[simp] theorem raiseLimited_rwpPend (p k c u d : Nat) :
    ((raiseLimited p k c u d).run s).rwpPend = s.rwpPend :=
  (raiseLimited_within p k c u d s (.pend) rfl)

@[simp] theorem raiseSecond_rwpPend (c u d k : Nat) :
    ((raiseSecond c u d k).run s).rwpPend = s.rwpPend := raiseLimited_rwpPend ..

@[simp] theorem raise_bus (c u d q g st : Nat) :
    ((raise c u d q g st).run s).bus = s.bus :=
  (raise_within c u d q g st s (.bus) rfl)

@[simp] theorem raiseLimited_bus (p k c u d : Nat) :
    ((raiseLimited p k c u d).run s).bus = s.bus :=
  (raiseLimited_within p k c u d s (.bus) rfl)

@[simp] theorem raiseSecond_bus (c u d k : Nat) :
    ((raiseSecond c u d k).run s).bus = s.bus := raiseLimited_bus ..

@[simp] theorem raise_free (c u d q g st : Nat) :
    ((raise c u d q g st).run s).free = s.free :=
  (raise_within c u d q g st s (.free) rfl)

@[simp] theorem raiseLimited_free (p k c u d : Nat) :
    ((raiseLimited p k c u d).run s).free = s.free :=
  (raiseLimited_within p k c u d s (.free) rfl)

@[simp] theorem raiseSecond_free (c u d k : Nat) :
    ((raiseSecond c u d k).run s).free = s.free := raiseLimited_free ..

@[simp] theorem raise_leases (c u d q g st : Nat) :
    ((raise c u d q g st).run s).leases = s.leases :=
  (raise_within c u d q g st s (.leases) rfl)

@[simp] theorem raiseLimited_leases (p k c u d : Nat) :
    ((raiseLimited p k c u d).run s).leases = s.leases :=
  (raiseLimited_within p k c u d s (.leases) rfl)

@[simp] theorem raiseSecond_leases (c u d k : Nat) :
    ((raiseSecond c u d k).run s).leases = s.leases := raiseLimited_leases ..

@[simp] theorem raise_boot (c u d q g st : Nat) :
    ((raise c u d q g st).run s).boot = s.boot :=
  (raise_within c u d q g st s (.boot) rfl)

@[simp] theorem raiseLimited_boot (p k c u d : Nat) :
    ((raiseLimited p k c u d).run s).boot = s.boot :=
  (raiseLimited_within p k c u d s (.boot) rfl)

@[simp] theorem raiseSecond_boot (c u d k : Nat) :
    ((raiseSecond c u d k).run s).boot = s.boot := raiseLimited_boot ..

@[simp] theorem raise_ave (c u d q g st : Nat) :
    ((raise c u d q g st).run s).ave = s.ave :=
  (raise_within c u d q g st s (.ave) rfl)

@[simp] theorem raiseLimited_ave (p k c u d : Nat) :
    ((raiseLimited p k c u d).run s).ave = s.ave :=
  (raiseLimited_within p k c u d s (.ave) rfl)

@[simp] theorem raiseSecond_ave (c u d k : Nat) :
    ((raiseSecond c u d k).run s).ave = s.ave := raiseLimited_ave ..

@[simp] theorem raise_xlt (c u d q g st : Nat) :
    ((raise c u d q g st).run s).xlt = s.xlt :=
  (raise_within c u d q g st s (.xlt) rfl)

@[simp] theorem raiseLimited_xlt (p k c u d : Nat) :
    ((raiseLimited p k c u d).run s).xlt = s.xlt :=
  (raiseLimited_within p k c u d s (.xlt) rfl)

@[simp] theorem raiseSecond_xlt (c u d k : Nat) :
    ((raiseSecond c u d k).run s).xlt = s.xlt := raiseLimited_xlt ..

@[simp] theorem raise_wrd (c u d q g st : Nat) :
    ((raise c u d q g st).run s).wrd = s.wrd :=
  (raise_within c u d q g st s (.wrd) rfl)

@[simp] theorem raiseLimited_wrd (p k c u d : Nat) :
    ((raiseLimited p k c u d).run s).wrd = s.wrd :=
  (raiseLimited_within p k c u d s (.wrd) rfl)

@[simp] theorem raiseSecond_wrd (c u d k : Nat) :
    ((raiseSecond c u d k).run s).wrd = s.wrd := raiseLimited_wrd ..

@[simp] theorem raise_xng (c u d q g st : Nat) :
    ((raise c u d q g st).run s).xng = s.xng :=
  (raise_within c u d q g st s (.xng) rfl)

@[simp] theorem raiseLimited_xng (p k c u d : Nat) :
    ((raiseLimited p k c u d).run s).xng = s.xng :=
  (raiseLimited_within p k c u d s (.xng) rfl)

@[simp] theorem raiseSecond_xng (c u d k : Nat) :
    ((raiseSecond c u d k).run s).xng = s.xng := raiseLimited_xng ..

@[simp] theorem raise_cam (c u d q g st : Nat) :
    ((raise c u d q g st).run s).cam = s.cam :=
  (raise_within c u d q g st s (.cam) rfl)

@[simp] theorem raiseLimited_cam (p k c u d : Nat) :
    ((raiseLimited p k c u d).run s).cam = s.cam :=
  (raiseLimited_within p k c u d s (.cam) rfl)

@[simp] theorem raiseSecond_cam (c u d k : Nat) :
    ((raiseSecond c u d k).run s).cam = s.cam := raiseLimited_cam ..

@[simp] theorem raise_ras (c u d q g st : Nat) :
    ((raise c u d q g st).run s).ras = s.ras :=
  (raise_within c u d q g st s (.ras) rfl)

@[simp] theorem raiseLimited_ras (p k c u d : Nat) :
    ((raiseLimited p k c u d).run s).ras = s.ras :=
  (raiseLimited_within p k c u d s (.ras) rfl)

@[simp] theorem raiseSecond_ras (c u d k : Nat) :
    ((raiseSecond c u d k).run s).ras = s.ras := raiseLimited_ras ..

@[simp] theorem raise_dst (c u d q g st : Nat) :
    ((raise c u d q g st).run s).dst = s.dst :=
  (raise_within c u d q g st s (.dst) rfl)

@[simp] theorem raiseLimited_dst (p k c u d : Nat) :
    ((raiseLimited p k c u d).run s).dst = s.dst :=
  (raiseLimited_within p k c u d s (.dst) rfl)

@[simp] theorem raiseSecond_dst (c u d k : Nat) :
    ((raiseSecond c u d k).run s).dst = s.dst := raiseLimited_dst ..

@[simp] theorem raise_rbt (c u d q g st : Nat) :
    ((raise c u d q g st).run s).rbt = s.rbt :=
  (raise_within c u d q g st s (.rbt) rfl)

@[simp] theorem raiseLimited_rbt (p k c u d : Nat) :
    ((raiseLimited p k c u d).run s).rbt = s.rbt :=
  (raiseLimited_within p k c u d s (.rbt) rfl)

@[simp] theorem raiseSecond_rbt (c u d k : Nat) :
    ((raiseSecond c u d k).run s).rbt = s.rbt := raiseLimited_rbt ..

@[simp] theorem raise_sco (c u d q g st : Nat) :
    ((raise c u d q g st).run s).sco = s.sco :=
  (raise_within c u d q g st s (.sco) rfl)

@[simp] theorem raiseLimited_sco (p k c u d : Nat) :
    ((raiseLimited p k c u d).run s).sco = s.sco :=
  (raiseLimited_within p k c u d s (.sco) rfl)

@[simp] theorem raiseSecond_sco (c u d k : Nat) :
    ((raiseSecond c u d k).run s).sco = s.sco := raiseLimited_sco ..

@[simp] theorem raise_sgn (c u d q g st : Nat) :
    ((raise c u d q g st).run s).sgn = s.sgn :=
  (raise_within c u d q g st s (.sgn) rfl)

@[simp] theorem raiseLimited_sgn (p k c u d : Nat) :
    ((raiseLimited p k c u d).run s).sgn = s.sgn :=
  (raiseLimited_within p k c u d s (.sgn) rfl)

@[simp] theorem raiseSecond_sgn (c u d k : Nat) :
    ((raiseSecond c u d k).run s).sgn = s.sgn := raiseLimited_sgn ..

@[simp] theorem raise_hv (c u d q g st : Nat) :
    ((raise c u d q g st).run s).hv = s.hv :=
  (raise_within c u d q g st s (.hv) rfl)

@[simp] theorem raiseLimited_hv (p k c u d : Nat) :
    ((raiseLimited p k c u d).run s).hv = s.hv :=
  (raiseLimited_within p k c u d s (.hv) rfl)

@[simp] theorem raiseSecond_hv (c u d k : Nat) :
    ((raiseSecond c u d k).run s).hv = s.hv := raiseLimited_hv ..

@[simp] theorem raise_can (c u d q g st : Nat) :
    ((raise c u d q g st).run s).can = s.can :=
  (raise_within c u d q g st s (.can) rfl)

@[simp] theorem raiseLimited_can (p k c u d : Nat) :
    ((raiseLimited p k c u d).run s).can = s.can :=
  (raiseLimited_within p k c u d s (.can) rfl)

@[simp] theorem raiseSecond_can (c u d k : Nat) :
    ((raiseSecond c u d k).run s).can = s.can := raiseLimited_can ..

@[simp] theorem raise_svc (c u d q g st : Nat) :
    ((raise c u d q g st).run s).svc = s.svc :=
  (raise_within c u d q g st s (.svc) rfl)

@[simp] theorem raiseLimited_svc (p k c u d : Nat) :
    ((raiseLimited p k c u d).run s).svc = s.svc :=
  (raiseLimited_within p k c u d s (.svc) rfl)

@[simp] theorem raiseSecond_svc (c u d k : Nat) :
    ((raiseSecond c u d k).run s).svc = s.svc := raiseLimited_svc ..

@[simp] theorem raise_ports (c u d q g st : Nat) :
    ((raise c u d q g st).run s).ports = s.ports :=
  (raise_within c u d q g st s (.ports) rfl)

@[simp] theorem raiseLimited_ports (p k c u d : Nat) :
    ((raiseLimited p k c u d).run s).ports = s.ports :=
  (raiseLimited_within p k c u d s (.ports) rfl)

@[simp] theorem raiseSecond_ports (c u d k : Nat) :
    ((raiseSecond c u d k).run s).ports = s.ports := raiseLimited_ports ..

@[simp] theorem raise_brg (c u d q g st : Nat) :
    ((raise c u d q g st).run s).brg = s.brg :=
  (raise_within c u d q g st s (.brg) rfl)

@[simp] theorem raiseLimited_brg (p k c u d : Nat) :
    ((raiseLimited p k c u d).run s).brg = s.brg :=
  (raiseLimited_within p k c u d s (.brg) rfl)

@[simp] theorem raiseSecond_brg (c u d k : Nat) :
    ((raiseSecond c u d k).run s).brg = s.brg := raiseLimited_brg ..

theorem raiseLimited_lampCore (p k c u d : Nat) :
    (raiseLimited p k c u d).Keeps State.lampCore := by
  unfold raiseLimited
  refine keeps_look fun s => keeps_when fun _ => keeps_seq ?_ (raise_lampCore _ _ _ _ _ _)
  exact keeps_of_within (W := [.rcl]) (within_modRcl rfl) rfl

@[simp] theorem raise_lamp_power (c u d q g st : Nat) :
    ((raise c u d q g st).run s).lamp.power = s.lamp.power := by
  have h := congrArg Lamp.power (raise_lampCore c u d q g st s)
  exact h

@[simp] theorem raiseLimited_lamp_power (p k c u d : Nat) :
    ((raiseLimited p k c u d).run s).lamp.power = s.lamp.power := by
  have h := congrArg Lamp.power (raiseLimited_lampCore p k c u d s)
  exact h

@[simp] theorem raiseSecond_lamp_power (c u d k : Nat) :
    ((raiseSecond c u d k).run s).lamp.power = s.lamp.power := raiseLimited_lamp_power ..

@[simp] theorem retWrite_lamp_power (a : Nat) (bs : List Byte) :
    ((retWrite a bs).run s).lamp.power = s.lamp.power := by
  have h := congrArg Lamp.power (retWrite_lampCore a bs s)
  exact h

@[simp] theorem raise_lamp_wakingStep (c u d q g st : Nat) :
    ((raise c u d q g st).run s).lamp.wakingStep = s.lamp.wakingStep := by
  have h := congrArg Lamp.wakingStep (raise_lampCore c u d q g st s)
  exact h

@[simp] theorem raiseLimited_lamp_wakingStep (p k c u d : Nat) :
    ((raiseLimited p k c u d).run s).lamp.wakingStep = s.lamp.wakingStep := by
  have h := congrArg Lamp.wakingStep (raiseLimited_lampCore p k c u d s)
  exact h

@[simp] theorem raiseSecond_lamp_wakingStep (c u d k : Nat) :
    ((raiseSecond c u d k).run s).lamp.wakingStep = s.lamp.wakingStep := raiseLimited_lamp_wakingStep ..

@[simp] theorem retWrite_lamp_wakingStep (a : Nat) (bs : List Byte) :
    ((retWrite a bs).run s).lamp.wakingStep = s.lamp.wakingStep := by
  have h := congrArg Lamp.wakingStep (retWrite_lampCore a bs s)
  exact h

@[simp] theorem raise_lamp_attempts (c u d q g st : Nat) :
    ((raise c u d q g st).run s).lamp.attempts = s.lamp.attempts := by
  have h := congrArg Lamp.attempts (raise_lampCore c u d q g st s)
  exact h

@[simp] theorem raiseLimited_lamp_attempts (p k c u d : Nat) :
    ((raiseLimited p k c u d).run s).lamp.attempts = s.lamp.attempts := by
  have h := congrArg Lamp.attempts (raiseLimited_lampCore p k c u d s)
  exact h

@[simp] theorem raiseSecond_lamp_attempts (c u d k : Nat) :
    ((raiseSecond c u d k).run s).lamp.attempts = s.lamp.attempts := raiseLimited_lamp_attempts ..

@[simp] theorem retWrite_lamp_attempts (a : Nat) (bs : List Byte) :
    ((retWrite a bs).run s).lamp.attempts = s.lamp.attempts := by
  have h := congrArg Lamp.attempts (retWrite_lampCore a bs s)
  exact h

@[simp] theorem raise_lamp_retryDue (c u d q g st : Nat) :
    ((raise c u d q g st).run s).lamp.retryDue = s.lamp.retryDue := by
  have h := congrArg Lamp.retryDue (raise_lampCore c u d q g st s)
  exact h

@[simp] theorem raiseLimited_lamp_retryDue (p k c u d : Nat) :
    ((raiseLimited p k c u d).run s).lamp.retryDue = s.lamp.retryDue := by
  have h := congrArg Lamp.retryDue (raiseLimited_lampCore p k c u d s)
  exact h

@[simp] theorem raiseSecond_lamp_retryDue (c u d k : Nat) :
    ((raiseSecond c u d k).run s).lamp.retryDue = s.lamp.retryDue := raiseLimited_lamp_retryDue ..

@[simp] theorem retWrite_lamp_retryDue (a : Nat) (bs : List Byte) :
    ((retWrite a bs).run s).lamp.retryDue = s.lamp.retryDue := by
  have h := congrArg Lamp.retryDue (retWrite_lampCore a bs s)
  exact h

@[simp] theorem raise_lamp_parkStep (c u d q g st : Nat) :
    ((raise c u d q g st).run s).lamp.parkStep = s.lamp.parkStep := by
  have h := congrArg Lamp.parkStep (raise_lampCore c u d q g st s)
  exact h

@[simp] theorem raiseLimited_lamp_parkStep (p k c u d : Nat) :
    ((raiseLimited p k c u d).run s).lamp.parkStep = s.lamp.parkStep := by
  have h := congrArg Lamp.parkStep (raiseLimited_lampCore p k c u d s)
  exact h

@[simp] theorem raiseSecond_lamp_parkStep (c u d k : Nat) :
    ((raiseSecond c u d k).run s).lamp.parkStep = s.lamp.parkStep := raiseLimited_lamp_parkStep ..

@[simp] theorem retWrite_lamp_parkStep (a : Nat) (bs : List Byte) :
    ((retWrite a bs).run s).lamp.parkStep = s.lamp.parkStep := by
  have h := congrArg Lamp.parkStep (retWrite_lampCore a bs s)
  exact h

@[simp] theorem raise_lamp_parkDrainMs (c u d q g st : Nat) :
    ((raise c u d q g st).run s).lamp.parkDrainMs = s.lamp.parkDrainMs := by
  have h := congrArg Lamp.parkDrainMs (raise_lampCore c u d q g st s)
  exact h

@[simp] theorem raiseLimited_lamp_parkDrainMs (p k c u d : Nat) :
    ((raiseLimited p k c u d).run s).lamp.parkDrainMs = s.lamp.parkDrainMs := by
  have h := congrArg Lamp.parkDrainMs (raiseLimited_lampCore p k c u d s)
  exact h

@[simp] theorem raiseSecond_lamp_parkDrainMs (c u d k : Nat) :
    ((raiseSecond c u d k).run s).lamp.parkDrainMs = s.lamp.parkDrainMs := raiseLimited_lamp_parkDrainMs ..

@[simp] theorem retWrite_lamp_parkDrainMs (a : Nat) (bs : List Byte) :
    ((retWrite a bs).run s).lamp.parkDrainMs = s.lamp.parkDrainMs := by
  have h := congrArg Lamp.parkDrainMs (retWrite_lampCore a bs s)
  exact h

@[simp] theorem raise_lamp_parkQuiet (c u d q g st : Nat) :
    ((raise c u d q g st).run s).lamp.parkQuiet = s.lamp.parkQuiet := by
  have h := congrArg Lamp.parkQuiet (raise_lampCore c u d q g st s)
  exact h

@[simp] theorem raiseLimited_lamp_parkQuiet (p k c u d : Nat) :
    ((raiseLimited p k c u d).run s).lamp.parkQuiet = s.lamp.parkQuiet := by
  have h := congrArg Lamp.parkQuiet (raiseLimited_lampCore p k c u d s)
  exact h

@[simp] theorem raiseSecond_lamp_parkQuiet (c u d k : Nat) :
    ((raiseSecond c u d k).run s).lamp.parkQuiet = s.lamp.parkQuiet := raiseLimited_lamp_parkQuiet ..

@[simp] theorem retWrite_lamp_parkQuiet (a : Nat) (bs : List Byte) :
    ((retWrite a bs).run s).lamp.parkQuiet = s.lamp.parkQuiet := by
  have h := congrArg Lamp.parkQuiet (retWrite_lampCore a bs s)
  exact h

@[simp] theorem raise_lamp_latchedWake (c u d q g st : Nat) :
    ((raise c u d q g st).run s).lamp.latchedWake = s.lamp.latchedWake := by
  have h := congrArg Lamp.latchedWake (raise_lampCore c u d q g st s)
  exact h

@[simp] theorem raiseLimited_lamp_latchedWake (p k c u d : Nat) :
    ((raiseLimited p k c u d).run s).lamp.latchedWake = s.lamp.latchedWake := by
  have h := congrArg Lamp.latchedWake (raiseLimited_lampCore p k c u d s)
  exact h

@[simp] theorem raiseSecond_lamp_latchedWake (c u d k : Nat) :
    ((raiseSecond c u d k).run s).lamp.latchedWake = s.lamp.latchedWake := raiseLimited_lamp_latchedWake ..

@[simp] theorem retWrite_lamp_latchedWake (a : Nat) (bs : List Byte) :
    ((retWrite a bs).run s).lamp.latchedWake = s.lamp.latchedWake := by
  have h := congrArg Lamp.latchedWake (retWrite_lampCore a bs s)
  exact h

@[simp] theorem raise_lamp_pmicEn (c u d q g st : Nat) :
    ((raise c u d q g st).run s).lamp.pmicEn = s.lamp.pmicEn := by
  have h := congrArg Lamp.pmicEn (raise_lampCore c u d q g st s)
  exact h

@[simp] theorem raiseLimited_lamp_pmicEn (p k c u d : Nat) :
    ((raiseLimited p k c u d).run s).lamp.pmicEn = s.lamp.pmicEn := by
  have h := congrArg Lamp.pmicEn (raiseLimited_lampCore p k c u d s)
  exact h

@[simp] theorem raiseSecond_lamp_pmicEn (c u d k : Nat) :
    ((raiseSecond c u d k).run s).lamp.pmicEn = s.lamp.pmicEn := raiseLimited_lamp_pmicEn ..

@[simp] theorem retWrite_lamp_pmicEn (a : Nat) (bs : List Byte) :
    ((retWrite a bs).run s).lamp.pmicEn = s.lamp.pmicEn := by
  have h := congrArg Lamp.pmicEn (retWrite_lampCore a bs s)
  exact h

@[simp] theorem raise_lamp_pwrGood (c u d q g st : Nat) :
    ((raise c u d q g st).run s).lamp.pwrGood = s.lamp.pwrGood := by
  have h := congrArg Lamp.pwrGood (raise_lampCore c u d q g st s)
  exact h

@[simp] theorem raiseLimited_lamp_pwrGood (p k c u d : Nat) :
    ((raiseLimited p k c u d).run s).lamp.pwrGood = s.lamp.pwrGood := by
  have h := congrArg Lamp.pwrGood (raiseLimited_lampCore p k c u d s)
  exact h

@[simp] theorem raiseSecond_lamp_pwrGood (c u d k : Nat) :
    ((raiseSecond c u d k).run s).lamp.pwrGood = s.lamp.pwrGood := raiseLimited_lamp_pwrGood ..

@[simp] theorem retWrite_lamp_pwrGood (a : Nat) (bs : List Byte) :
    ((retWrite a bs).run s).lamp.pwrGood = s.lamp.pwrGood := by
  have h := congrArg Lamp.pwrGood (retWrite_lampCore a bs s)
  exact h

@[simp] theorem raise_lamp_pgFellAt (c u d q g st : Nat) :
    ((raise c u d q g st).run s).lamp.pgFellAt = s.lamp.pgFellAt := by
  have h := congrArg Lamp.pgFellAt (raise_lampCore c u d q g st s)
  exact h

@[simp] theorem raiseLimited_lamp_pgFellAt (p k c u d : Nat) :
    ((raiseLimited p k c u d).run s).lamp.pgFellAt = s.lamp.pgFellAt := by
  have h := congrArg Lamp.pgFellAt (raiseLimited_lampCore p k c u d s)
  exact h

@[simp] theorem raiseSecond_lamp_pgFellAt (c u d k : Nat) :
    ((raiseSecond c u d k).run s).lamp.pgFellAt = s.lamp.pgFellAt := raiseLimited_lamp_pgFellAt ..

@[simp] theorem retWrite_lamp_pgFellAt (a : Nat) (bs : List Byte) :
    ((retWrite a bs).run s).lamp.pgFellAt = s.lamp.pgFellAt := by
  have h := congrArg Lamp.pgFellAt (retWrite_lampCore a bs s)
  exact h

@[simp] theorem raise_lamp_vhvLow (c u d q g st : Nat) :
    ((raise c u d q g st).run s).lamp.vhvLow = s.lamp.vhvLow := by
  have h := congrArg Lamp.vhvLow (raise_lampCore c u d q g st s)
  exact h

@[simp] theorem raiseLimited_lamp_vhvLow (p k c u d : Nat) :
    ((raiseLimited p k c u d).run s).lamp.vhvLow = s.lamp.vhvLow := by
  have h := congrArg Lamp.vhvLow (raiseLimited_lampCore p k c u d s)
  exact h

@[simp] theorem raiseSecond_lamp_vhvLow (c u d k : Nat) :
    ((raiseSecond c u d k).run s).lamp.vhvLow = s.lamp.vhvLow := raiseLimited_lamp_vhvLow ..

@[simp] theorem retWrite_lamp_vhvLow (a : Nat) (bs : List Byte) :
    ((retWrite a bs).run s).lamp.vhvLow = s.lamp.vhvLow := by
  have h := congrArg Lamp.vhvLow (retWrite_lampCore a bs s)
  exact h

@[simp] theorem raise_lamp_vhvRet (c u d q g st : Nat) :
    ((raise c u d q g st).run s).lamp.vhvRet = s.lamp.vhvRet := by
  have h := congrArg Lamp.vhvRet (raise_lampCore c u d q g st s)
  exact h

@[simp] theorem raiseLimited_lamp_vhvRet (p k c u d : Nat) :
    ((raiseLimited p k c u d).run s).lamp.vhvRet = s.lamp.vhvRet := by
  have h := congrArg Lamp.vhvRet (raiseLimited_lampCore p k c u d s)
  exact h

@[simp] theorem raiseSecond_lamp_vhvRet (c u d k : Nat) :
    ((raiseSecond c u d k).run s).lamp.vhvRet = s.lamp.vhvRet := raiseLimited_lamp_vhvRet ..

@[simp] theorem retWrite_lamp_vhvRet (a : Nat) (bs : List Byte) :
    ((retWrite a bs).run s).lamp.vhvRet = s.lamp.vhvRet := by
  have h := congrArg Lamp.vhvRet (retWrite_lampCore a bs s)
  exact h

@[simp] theorem raise_lamp_resetNLow (c u d q g st : Nat) :
    ((raise c u d q g st).run s).lamp.resetNLow = s.lamp.resetNLow := by
  have h := congrArg Lamp.resetNLow (raise_lampCore c u d q g st s)
  exact h

@[simp] theorem raiseLimited_lamp_resetNLow (p k c u d : Nat) :
    ((raiseLimited p k c u d).run s).lamp.resetNLow = s.lamp.resetNLow := by
  have h := congrArg Lamp.resetNLow (raiseLimited_lampCore p k c u d s)
  exact h

@[simp] theorem raiseSecond_lamp_resetNLow (c u d k : Nat) :
    ((raiseSecond c u d k).run s).lamp.resetNLow = s.lamp.resetNLow := raiseLimited_lamp_resetNLow ..

@[simp] theorem retWrite_lamp_resetNLow (a : Nat) (bs : List Byte) :
    ((retWrite a bs).run s).lamp.resetNLow = s.lamp.resetNLow := by
  have h := congrArg Lamp.resetNLow (retWrite_lampCore a bs s)
  exact h

@[simp] theorem raise_lamp_tick (c u d q g st : Nat) :
    ((raise c u d q g st).run s).lamp.tick = s.lamp.tick := by
  have h := congrArg Lamp.tick (raise_lampCore c u d q g st s)
  exact h

@[simp] theorem raiseLimited_lamp_tick (p k c u d : Nat) :
    ((raiseLimited p k c u d).run s).lamp.tick = s.lamp.tick := by
  have h := congrArg Lamp.tick (raiseLimited_lampCore p k c u d s)
  exact h

@[simp] theorem raiseSecond_lamp_tick (c u d k : Nat) :
    ((raiseSecond c u d k).run s).lamp.tick = s.lamp.tick := raiseLimited_lamp_tick ..

@[simp] theorem retWrite_lamp_tick (a : Nat) (bs : List Byte) :
    ((retWrite a bs).run s).lamp.tick = s.lamp.tick := by
  have h := congrArg Lamp.tick (retWrite_lampCore a bs s)
  exact h

@[simp] theorem raise_lamp_tickHi (c u d q g st : Nat) :
    ((raise c u d q g st).run s).lamp.tickHi = s.lamp.tickHi := by
  have h := congrArg Lamp.tickHi (raise_lampCore c u d q g st s)
  exact h

@[simp] theorem raiseLimited_lamp_tickHi (p k c u d : Nat) :
    ((raiseLimited p k c u d).run s).lamp.tickHi = s.lamp.tickHi := by
  have h := congrArg Lamp.tickHi (raiseLimited_lampCore p k c u d s)
  exact h

@[simp] theorem raiseSecond_lamp_tickHi (c u d k : Nat) :
    ((raiseSecond c u d k).run s).lamp.tickHi = s.lamp.tickHi := raiseLimited_lamp_tickHi ..

@[simp] theorem retWrite_lamp_tickHi (a : Nat) (bs : List Byte) :
    ((retWrite a bs).run s).lamp.tickHi = s.lamp.tickHi := by
  have h := congrArg Lamp.tickHi (retWrite_lampCore a bs s)
  exact h

@[simp] theorem raise_lamp_x32OnRc (c u d q g st : Nat) :
    ((raise c u d q g st).run s).lamp.x32OnRc = s.lamp.x32OnRc := by
  have h := congrArg Lamp.x32OnRc (raise_lampCore c u d q g st s)
  exact h

@[simp] theorem raiseLimited_lamp_x32OnRc (p k c u d : Nat) :
    ((raiseLimited p k c u d).run s).lamp.x32OnRc = s.lamp.x32OnRc := by
  have h := congrArg Lamp.x32OnRc (raiseLimited_lampCore p k c u d s)
  exact h

@[simp] theorem raiseSecond_lamp_x32OnRc (c u d k : Nat) :
    ((raiseSecond c u d k).run s).lamp.x32OnRc = s.lamp.x32OnRc := raiseLimited_lamp_x32OnRc ..

@[simp] theorem retWrite_lamp_x32OnRc (a : Nat) (bs : List Byte) :
    ((retWrite a bs).run s).lamp.x32OnRc = s.lamp.x32OnRc := by
  have h := congrArg Lamp.x32OnRc (retWrite_lampCore a bs s)
  exact h

@[simp] theorem raise_lamp_x32Grace (c u d q g st : Nat) :
    ((raise c u d q g st).run s).lamp.x32Grace = s.lamp.x32Grace := by
  have h := congrArg Lamp.x32Grace (raise_lampCore c u d q g st s)
  exact h

@[simp] theorem raiseLimited_lamp_x32Grace (p k c u d : Nat) :
    ((raiseLimited p k c u d).run s).lamp.x32Grace = s.lamp.x32Grace := by
  have h := congrArg Lamp.x32Grace (raiseLimited_lampCore p k c u d s)
  exact h

@[simp] theorem raiseSecond_lamp_x32Grace (c u d k : Nat) :
    ((raiseSecond c u d k).run s).lamp.x32Grace = s.lamp.x32Grace := raiseLimited_lamp_x32Grace ..

@[simp] theorem retWrite_lamp_x32Grace (a : Nat) (bs : List Byte) :
    ((retWrite a bs).run s).lamp.x32Grace = s.lamp.x32Grace := by
  have h := congrArg Lamp.x32Grace (retWrite_lampCore a bs s)
  exact h

@[simp] theorem raise_lamp_refOnRc (c u d q g st : Nat) :
    ((raise c u d q g st).run s).lamp.refOnRc = s.lamp.refOnRc := by
  have h := congrArg Lamp.refOnRc (raise_lampCore c u d q g st s)
  exact h

@[simp] theorem raiseLimited_lamp_refOnRc (p k c u d : Nat) :
    ((raiseLimited p k c u d).run s).lamp.refOnRc = s.lamp.refOnRc := by
  have h := congrArg Lamp.refOnRc (raiseLimited_lampCore p k c u d s)
  exact h

@[simp] theorem raiseSecond_lamp_refOnRc (c u d k : Nat) :
    ((raiseSecond c u d k).run s).lamp.refOnRc = s.lamp.refOnRc := raiseLimited_lamp_refOnRc ..

@[simp] theorem retWrite_lamp_refOnRc (a : Nat) (bs : List Byte) :
    ((retWrite a bs).run s).lamp.refOnRc = s.lamp.refOnRc := by
  have h := congrArg Lamp.refOnRc (retWrite_lampCore a bs s)
  exact h

@[simp] theorem raise_lamp_refCount (c u d q g st : Nat) :
    ((raise c u d q g st).run s).lamp.refCount = s.lamp.refCount := by
  have h := congrArg Lamp.refCount (raise_lampCore c u d q g st s)
  exact h

@[simp] theorem raiseLimited_lamp_refCount (p k c u d : Nat) :
    ((raiseLimited p k c u d).run s).lamp.refCount = s.lamp.refCount := by
  have h := congrArg Lamp.refCount (raiseLimited_lampCore p k c u d s)
  exact h

@[simp] theorem raiseSecond_lamp_refCount (c u d k : Nat) :
    ((raiseSecond c u d k).run s).lamp.refCount = s.lamp.refCount := raiseLimited_lamp_refCount ..

@[simp] theorem retWrite_lamp_refCount (a : Nat) (bs : List Byte) :
    ((retWrite a bs).run s).lamp.refCount = s.lamp.refCount := by
  have h := congrArg Lamp.refCount (retWrite_lampCore a bs s)
  exact h

@[simp] theorem raise_lamp_ign (c u d q g st : Nat) :
    ((raise c u d q g st).run s).lamp.ign = s.lamp.ign := by
  have h := congrArg Lamp.ign (raise_lampCore c u d q g st s)
  exact h

@[simp] theorem raiseLimited_lamp_ign (p k c u d : Nat) :
    ((raiseLimited p k c u d).run s).lamp.ign = s.lamp.ign := by
  have h := congrArg Lamp.ign (raiseLimited_lampCore p k c u d s)
  exact h

@[simp] theorem raiseSecond_lamp_ign (c u d k : Nat) :
    ((raiseSecond c u d k).run s).lamp.ign = s.lamp.ign := raiseLimited_lamp_ign ..

@[simp] theorem retWrite_lamp_ign (a : Nat) (bs : List Byte) :
    ((retWrite a bs).run s).lamp.ign = s.lamp.ign := by
  have h := congrArg Lamp.ign (retWrite_lampCore a bs s)
  exact h

@[simp] theorem raise_lamp_can (c u d q g st : Nat) :
    ((raise c u d q g st).run s).lamp.can = s.lamp.can := by
  have h := congrArg Lamp.can (raise_lampCore c u d q g st s)
  exact h

@[simp] theorem raiseLimited_lamp_can (p k c u d : Nat) :
    ((raiseLimited p k c u d).run s).lamp.can = s.lamp.can := by
  have h := congrArg Lamp.can (raiseLimited_lampCore p k c u d s)
  exact h

@[simp] theorem raiseSecond_lamp_can (c u d k : Nat) :
    ((raiseSecond c u d k).run s).lamp.can = s.lamp.can := raiseLimited_lamp_can ..

@[simp] theorem retWrite_lamp_can (a : Nat) (bs : List Byte) :
    ((retWrite a bs).run s).lamp.can = s.lamp.can := by
  have h := congrArg Lamp.can (retWrite_lampCore a bs s)
  exact h

@[simp] theorem raise_lamp_brg (c u d q g st : Nat) :
    ((raise c u d q g st).run s).lamp.brg = s.lamp.brg := by
  have h := congrArg Lamp.brg (raise_lampCore c u d q g st s)
  exact h

@[simp] theorem raiseLimited_lamp_brg (p k c u d : Nat) :
    ((raiseLimited p k c u d).run s).lamp.brg = s.lamp.brg := by
  have h := congrArg Lamp.brg (raiseLimited_lampCore p k c u d s)
  exact h

@[simp] theorem raiseSecond_lamp_brg (c u d k : Nat) :
    ((raiseSecond c u d k).run s).lamp.brg = s.lamp.brg := raiseLimited_lamp_brg ..

@[simp] theorem retWrite_lamp_brg (a : Nat) (bs : List Byte) :
    ((retWrite a bs).run s).lamp.brg = s.lamp.brg := by
  have h := congrArg Lamp.brg (retWrite_lampCore a bs s)
  exact h

@[simp] theorem raise_lamp_parkedAt (c u d q g st : Nat) :
    ((raise c u d q g st).run s).lamp.parkedAt = s.lamp.parkedAt := by
  have h := congrArg Lamp.parkedAt (raise_lampCore c u d q g st s)
  exact h

@[simp] theorem raiseLimited_lamp_parkedAt (p k c u d : Nat) :
    ((raiseLimited p k c u d).run s).lamp.parkedAt = s.lamp.parkedAt := by
  have h := congrArg Lamp.parkedAt (raiseLimited_lampCore p k c u d s)
  exact h

@[simp] theorem raiseSecond_lamp_parkedAt (c u d k : Nat) :
    ((raiseSecond c u d k).run s).lamp.parkedAt = s.lamp.parkedAt := raiseLimited_lamp_parkedAt ..

@[simp] theorem retWrite_lamp_parkedAt (a : Nat) (bs : List Byte) :
    ((retWrite a bs).run s).lamp.parkedAt = s.lamp.parkedAt := by
  have h := congrArg Lamp.parkedAt (retWrite_lampCore a bs s)
  exact h

@[simp] theorem raise_lamp_quietAt (c u d q g st : Nat) :
    ((raise c u d q g st).run s).lamp.quietAt = s.lamp.quietAt := by
  have h := congrArg Lamp.quietAt (raise_lampCore c u d q g st s)
  exact h

@[simp] theorem raiseLimited_lamp_quietAt (p k c u d : Nat) :
    ((raiseLimited p k c u d).run s).lamp.quietAt = s.lamp.quietAt := by
  have h := congrArg Lamp.quietAt (raiseLimited_lampCore p k c u d s)
  exact h

@[simp] theorem raiseSecond_lamp_quietAt (c u d k : Nat) :
    ((raiseSecond c u d k).run s).lamp.quietAt = s.lamp.quietAt := raiseLimited_lamp_quietAt ..

@[simp] theorem retWrite_lamp_quietAt (a : Nat) (bs : List Byte) :
    ((retWrite a bs).run s).lamp.quietAt = s.lamp.quietAt := by
  have h := congrArg Lamp.quietAt (retWrite_lampCore a bs s)
  exact h

@[simp] theorem raise_lamp_wakingAt (c u d q g st : Nat) :
    ((raise c u d q g st).run s).lamp.wakingAt = s.lamp.wakingAt := by
  have h := congrArg Lamp.wakingAt (raise_lampCore c u d q g st s)
  exact h

@[simp] theorem raiseLimited_lamp_wakingAt (p k c u d : Nat) :
    ((raiseLimited p k c u d).run s).lamp.wakingAt = s.lamp.wakingAt := by
  have h := congrArg Lamp.wakingAt (raiseLimited_lampCore p k c u d s)
  exact h

@[simp] theorem raiseSecond_lamp_wakingAt (c u d k : Nat) :
    ((raiseSecond c u d k).run s).lamp.wakingAt = s.lamp.wakingAt := raiseLimited_lamp_wakingAt ..

@[simp] theorem retWrite_lamp_wakingAt (a : Nat) (bs : List Byte) :
    ((retWrite a bs).run s).lamp.wakingAt = s.lamp.wakingAt := by
  have h := congrArg Lamp.wakingAt (retWrite_lampCore a bs s)
  exact h

@[simp] theorem raise_lamp_thermHold (c u d q g st : Nat) :
    ((raise c u d q g st).run s).lamp.thermHold = s.lamp.thermHold := by
  have h := congrArg Lamp.thermHold (raise_lampCore c u d q g st s)
  exact h

@[simp] theorem raiseLimited_lamp_thermHold (p k c u d : Nat) :
    ((raiseLimited p k c u d).run s).lamp.thermHold = s.lamp.thermHold := by
  have h := congrArg Lamp.thermHold (raiseLimited_lampCore p k c u d s)
  exact h

@[simp] theorem raiseSecond_lamp_thermHold (c u d k : Nat) :
    ((raiseSecond c u d k).run s).lamp.thermHold = s.lamp.thermHold := raiseLimited_lamp_thermHold ..

@[simp] theorem retWrite_lamp_thermHold (a : Nat) (bs : List Byte) :
    ((retWrite a bs).run s).lamp.thermHold = s.lamp.thermHold := by
  have h := congrArg Lamp.thermHold (retWrite_lampCore a bs s)
  exact h

@[simp] theorem raise_lamp_thermCheck (c u d q g st : Nat) :
    ((raise c u d q g st).run s).lamp.thermCheck = s.lamp.thermCheck := by
  have h := congrArg Lamp.thermCheck (raise_lampCore c u d q g st s)
  exact h

@[simp] theorem raiseLimited_lamp_thermCheck (p k c u d : Nat) :
    ((raiseLimited p k c u d).run s).lamp.thermCheck = s.lamp.thermCheck := by
  have h := congrArg Lamp.thermCheck (raiseLimited_lampCore p k c u d s)
  exact h

@[simp] theorem raiseSecond_lamp_thermCheck (c u d k : Nat) :
    ((raiseSecond c u d k).run s).lamp.thermCheck = s.lamp.thermCheck := raiseLimited_lamp_thermCheck ..

@[simp] theorem retWrite_lamp_thermCheck (a : Nat) (bs : List Byte) :
    ((retWrite a bs).run s).lamp.thermCheck = s.lamp.thermCheck := by
  have h := congrArg Lamp.thermCheck (retWrite_lampCore a bs s)
  exact h

@[simp] theorem raise_lamp_temps (c u d q g st : Nat) :
    ((raise c u d q g st).run s).lamp.temps = s.lamp.temps := by
  have h := congrArg Lamp.temps (raise_lampCore c u d q g st s)
  exact h

@[simp] theorem raiseLimited_lamp_temps (p k c u d : Nat) :
    ((raiseLimited p k c u d).run s).lamp.temps = s.lamp.temps := by
  have h := congrArg Lamp.temps (raiseLimited_lampCore p k c u d s)
  exact h

@[simp] theorem raiseSecond_lamp_temps (c u d k : Nat) :
    ((raiseSecond c u d k).run s).lamp.temps = s.lamp.temps := raiseLimited_lamp_temps ..

@[simp] theorem retWrite_lamp_temps (a : Nat) (bs : List Byte) :
    ((retWrite a bs).run s).lamp.temps = s.lamp.temps := by
  have h := congrArg Lamp.temps (retWrite_lampCore a bs s)
  exact h

@[simp] theorem raise_lamp_tempValid (c u d q g st : Nat) :
    ((raise c u d q g st).run s).lamp.tempValid = s.lamp.tempValid := by
  have h := congrArg Lamp.tempValid (raise_lampCore c u d q g st s)
  exact h

@[simp] theorem raiseLimited_lamp_tempValid (p k c u d : Nat) :
    ((raiseLimited p k c u d).run s).lamp.tempValid = s.lamp.tempValid := by
  have h := congrArg Lamp.tempValid (raiseLimited_lampCore p k c u d s)
  exact h

@[simp] theorem raiseSecond_lamp_tempValid (c u d k : Nat) :
    ((raiseSecond c u d k).run s).lamp.tempValid = s.lamp.tempValid := raiseLimited_lamp_tempValid ..

@[simp] theorem retWrite_lamp_tempValid (a : Nat) (bs : List Byte) :
    ((retWrite a bs).run s).lamp.tempValid = s.lamp.tempValid := by
  have h := congrArg Lamp.tempValid (retWrite_lampCore a bs s)
  exact h

@[simp] theorem raise_lamp_thermStep (c u d q g st : Nat) :
    ((raise c u d q g st).run s).lamp.thermStep = s.lamp.thermStep := by
  have h := congrArg Lamp.thermStep (raise_lampCore c u d q g st s)
  exact h

@[simp] theorem raiseLimited_lamp_thermStep (p k c u d : Nat) :
    ((raiseLimited p k c u d).run s).lamp.thermStep = s.lamp.thermStep := by
  have h := congrArg Lamp.thermStep (raiseLimited_lampCore p k c u d s)
  exact h

@[simp] theorem raiseSecond_lamp_thermStep (c u d k : Nat) :
    ((raiseSecond c u d k).run s).lamp.thermStep = s.lamp.thermStep := raiseLimited_lamp_thermStep ..

@[simp] theorem retWrite_lamp_thermStep (a : Nat) (bs : List Byte) :
    ((retWrite a bs).run s).lamp.thermStep = s.lamp.thermStep := by
  have h := congrArg Lamp.thermStep (retWrite_lampCore a bs s)
  exact h

@[simp] theorem raise_lamp_thermChangedAt (c u d q g st : Nat) :
    ((raise c u d q g st).run s).lamp.thermChangedAt = s.lamp.thermChangedAt := by
  have h := congrArg Lamp.thermChangedAt (raise_lampCore c u d q g st s)
  exact h

@[simp] theorem raiseLimited_lamp_thermChangedAt (p k c u d : Nat) :
    ((raiseLimited p k c u d).run s).lamp.thermChangedAt = s.lamp.thermChangedAt := by
  have h := congrArg Lamp.thermChangedAt (raiseLimited_lampCore p k c u d s)
  exact h

@[simp] theorem raiseSecond_lamp_thermChangedAt (c u d k : Nat) :
    ((raiseSecond c u d k).run s).lamp.thermChangedAt = s.lamp.thermChangedAt := raiseLimited_lamp_thermChangedAt ..

@[simp] theorem retWrite_lamp_thermChangedAt (a : Nat) (bs : List Byte) :
    ((retWrite a bs).run s).lamp.thermChangedAt = s.lamp.thermChangedAt := by
  have h := congrArg Lamp.thermChangedAt (retWrite_lampCore a bs s)
  exact h

@[simp] theorem raise_lamp_tjMax (c u d q g st : Nat) :
    ((raise c u d q g st).run s).lamp.tjMax = s.lamp.tjMax := by
  have h := congrArg Lamp.tjMax (raise_lampCore c u d q g st s)
  exact h

@[simp] theorem raiseLimited_lamp_tjMax (p k c u d : Nat) :
    ((raiseLimited p k c u d).run s).lamp.tjMax = s.lamp.tjMax := by
  have h := congrArg Lamp.tjMax (raiseLimited_lampCore p k c u d s)
  exact h

@[simp] theorem raiseSecond_lamp_tjMax (c u d k : Nat) :
    ((raiseSecond c u d k).run s).lamp.tjMax = s.lamp.tjMax := raiseLimited_lamp_tjMax ..

@[simp] theorem retWrite_lamp_tjMax (a : Nat) (bs : List Byte) :
    ((retWrite a bs).run s).lamp.tjMax = s.lamp.tjMax := by
  have h := congrArg Lamp.tjMax (retWrite_lampCore a bs s)
  exact h

@[simp] theorem raise_lamp_hotSensor (c u d q g st : Nat) :
    ((raise c u d q g st).run s).lamp.hotSensor = s.lamp.hotSensor := by
  have h := congrArg Lamp.hotSensor (raise_lampCore c u d q g st s)
  exact h

@[simp] theorem raiseLimited_lamp_hotSensor (p k c u d : Nat) :
    ((raiseLimited p k c u d).run s).lamp.hotSensor = s.lamp.hotSensor := by
  have h := congrArg Lamp.hotSensor (raiseLimited_lampCore p k c u d s)
  exact h

@[simp] theorem raiseSecond_lamp_hotSensor (c u d k : Nat) :
    ((raiseSecond c u d k).run s).lamp.hotSensor = s.lamp.hotSensor := raiseLimited_lamp_hotSensor ..

@[simp] theorem retWrite_lamp_hotSensor (a : Nat) (bs : List Byte) :
    ((retWrite a bs).run s).lamp.hotSensor = s.lamp.hotSensor := by
  have h := congrArg Lamp.hotSensor (retWrite_lampCore a bs s)
  exact h

@[simp] theorem raise_lamp_straps (c u d q g st : Nat) :
    ((raise c u d q g st).run s).lamp.straps = s.lamp.straps := by
  have h := congrArg Lamp.straps (raise_lampCore c u d q g st s)
  exact h

@[simp] theorem raiseLimited_lamp_straps (p k c u d : Nat) :
    ((raiseLimited p k c u d).run s).lamp.straps = s.lamp.straps := by
  have h := congrArg Lamp.straps (raiseLimited_lampCore p k c u d s)
  exact h

@[simp] theorem raiseSecond_lamp_straps (c u d k : Nat) :
    ((raiseSecond c u d k).run s).lamp.straps = s.lamp.straps := raiseLimited_lamp_straps ..

@[simp] theorem retWrite_lamp_straps (a : Nat) (bs : List Byte) :
    ((retWrite a bs).run s).lamp.straps = s.lamp.straps := by
  have h := congrArg Lamp.straps (retWrite_lampCore a bs s)
  exact h

@[simp] theorem raise_lamp_retARetired (c u d q g st : Nat) :
    ((raise c u d q g st).run s).lamp.retARetired = s.lamp.retARetired := by
  have h := congrArg Lamp.retARetired (raise_lampCore c u d q g st s)
  exact h

@[simp] theorem raiseLimited_lamp_retARetired (p k c u d : Nat) :
    ((raiseLimited p k c u d).run s).lamp.retARetired = s.lamp.retARetired := by
  have h := congrArg Lamp.retARetired (raiseLimited_lampCore p k c u d s)
  exact h

@[simp] theorem raiseSecond_lamp_retARetired (c u d k : Nat) :
    ((raiseSecond c u d k).run s).lamp.retARetired = s.lamp.retARetired := raiseLimited_lamp_retARetired ..

@[simp] theorem retWrite_lamp_retARetired (a : Nat) (bs : List Byte) :
    ((retWrite a bs).run s).lamp.retARetired = s.lamp.retARetired := by
  have h := congrArg Lamp.retARetired (retWrite_lampCore a bs s)
  exact h

@[simp] theorem raise_lamp_retBRetired (c u d q g st : Nat) :
    ((raise c u d q g st).run s).lamp.retBRetired = s.lamp.retBRetired := by
  have h := congrArg Lamp.retBRetired (raise_lampCore c u d q g st s)
  exact h

@[simp] theorem raiseLimited_lamp_retBRetired (p k c u d : Nat) :
    ((raiseLimited p k c u d).run s).lamp.retBRetired = s.lamp.retBRetired := by
  have h := congrArg Lamp.retBRetired (raiseLimited_lampCore p k c u d s)
  exact h

@[simp] theorem raiseSecond_lamp_retBRetired (c u d k : Nat) :
    ((raiseSecond c u d k).run s).lamp.retBRetired = s.lamp.retBRetired := raiseLimited_lamp_retBRetired ..

@[simp] theorem retWrite_lamp_retBRetired (a : Nat) (bs : List Byte) :
    ((retWrite a bs).run s).lamp.retBRetired = s.lamp.retBRetired := by
  have h := congrArg Lamp.retBRetired (retWrite_lampCore a bs s)
  exact h

@[simp] theorem raise_lamp_retUnusable (c u d q g st : Nat) :
    ((raise c u d q g st).run s).lamp.retUnusable = s.lamp.retUnusable := by
  have h := congrArg Lamp.retUnusable (raise_lampCore c u d q g st s)
  exact h

@[simp] theorem raiseLimited_lamp_retUnusable (p k c u d : Nat) :
    ((raiseLimited p k c u d).run s).lamp.retUnusable = s.lamp.retUnusable := by
  have h := congrArg Lamp.retUnusable (raiseLimited_lampCore p k c u d s)
  exact h

@[simp] theorem raiseSecond_lamp_retUnusable (c u d k : Nat) :
    ((raiseSecond c u d k).run s).lamp.retUnusable = s.lamp.retUnusable := raiseLimited_lamp_retUnusable ..

@[simp] theorem retWrite_lamp_retUnusable (a : Nat) (bs : List Byte) :
    ((retWrite a bs).run s).lamp.retUnusable = s.lamp.retUnusable := by
  have h := congrArg Lamp.retUnusable (retWrite_lampCore a bs s)
  exact h

@[simp] theorem raise_lamp_retLastUe (c u d q g st : Nat) :
    ((raise c u d q g st).run s).lamp.retLastUe = s.lamp.retLastUe := by
  have h := congrArg Lamp.retLastUe (raise_lampCore c u d q g st s)
  exact h

@[simp] theorem raiseLimited_lamp_retLastUe (p k c u d : Nat) :
    ((raiseLimited p k c u d).run s).lamp.retLastUe = s.lamp.retLastUe := by
  have h := congrArg Lamp.retLastUe (raiseLimited_lampCore p k c u d s)
  exact h

@[simp] theorem raiseSecond_lamp_retLastUe (c u d k : Nat) :
    ((raiseSecond c u d k).run s).lamp.retLastUe = s.lamp.retLastUe := raiseLimited_lamp_retLastUe ..

@[simp] theorem retWrite_lamp_retLastUe (a : Nat) (bs : List Byte) :
    ((retWrite a bs).run s).lamp.retLastUe = s.lamp.retLastUe := by
  have h := congrArg Lamp.retLastUe (retWrite_lampCore a bs s)
  exact h

@[simp] theorem raise_lamp_pllReq (c u d q g st : Nat) :
    ((raise c u d q g st).run s).lamp.pllReq = s.lamp.pllReq := by
  have h := congrArg Lamp.pllReq (raise_lampCore c u d q g st s)
  exact h

@[simp] theorem raiseLimited_lamp_pllReq (p k c u d : Nat) :
    ((raiseLimited p k c u d).run s).lamp.pllReq = s.lamp.pllReq := by
  have h := congrArg Lamp.pllReq (raiseLimited_lampCore p k c u d s)
  exact h

@[simp] theorem raiseSecond_lamp_pllReq (c u d k : Nat) :
    ((raiseSecond c u d k).run s).lamp.pllReq = s.lamp.pllReq := raiseLimited_lamp_pllReq ..

@[simp] theorem retWrite_lamp_pllReq (a : Nat) (bs : List Byte) :
    ((retWrite a bs).run s).lamp.pllReq = s.lamp.pllReq := by
  have h := congrArg Lamp.pllReq (retWrite_lampCore a bs s)
  exact h

@[simp] theorem raise_lamp_quietPlls (c u d q g st : Nat) :
    ((raise c u d q g st).run s).lamp.quietPlls = s.lamp.quietPlls := by
  have h := congrArg Lamp.quietPlls (raise_lampCore c u d q g st s)
  exact h

@[simp] theorem raiseLimited_lamp_quietPlls (p k c u d : Nat) :
    ((raiseLimited p k c u d).run s).lamp.quietPlls = s.lamp.quietPlls := by
  have h := congrArg Lamp.quietPlls (raiseLimited_lampCore p k c u d s)
  exact h

@[simp] theorem raiseSecond_lamp_quietPlls (c u d k : Nat) :
    ((raiseSecond c u d k).run s).lamp.quietPlls = s.lamp.quietPlls := raiseLimited_lamp_quietPlls ..

@[simp] theorem retWrite_lamp_quietPlls (a : Nat) (bs : List Byte) :
    ((retWrite a bs).run s).lamp.quietPlls = s.lamp.quietPlls := by
  have h := congrArg Lamp.quietPlls (retWrite_lampCore a bs s)
  exact h

@[simp] theorem raise_lamp_causeSince (c u d q g st : Nat) :
    ((raise c u d q g st).run s).lamp.causeSince = s.lamp.causeSince := by
  have h := congrArg Lamp.causeSince (raise_lampCore c u d q g st s)
  exact h

@[simp] theorem raiseLimited_lamp_causeSince (p k c u d : Nat) :
    ((raiseLimited p k c u d).run s).lamp.causeSince = s.lamp.causeSince := by
  have h := congrArg Lamp.causeSince (raiseLimited_lampCore p k c u d s)
  exact h

@[simp] theorem raiseSecond_lamp_causeSince (c u d k : Nat) :
    ((raiseSecond c u d k).run s).lamp.causeSince = s.lamp.causeSince := raiseLimited_lamp_causeSince ..

@[simp] theorem retWrite_lamp_causeSince (a : Nat) (bs : List Byte) :
    ((retWrite a bs).run s).lamp.causeSince = s.lamp.causeSince := by
  have h := congrArg Lamp.causeSince (retWrite_lampCore a bs s)
  exact h

@[simp] theorem raise_lamp_resetHold (c u d q g st : Nat) :
    ((raise c u d q g st).run s).lamp.resetHold = s.lamp.resetHold := by
  have h := congrArg Lamp.resetHold (raise_lampCore c u d q g st s)
  exact h

@[simp] theorem raiseLimited_lamp_resetHold (p k c u d : Nat) :
    ((raiseLimited p k c u d).run s).lamp.resetHold = s.lamp.resetHold := by
  have h := congrArg Lamp.resetHold (raiseLimited_lampCore p k c u d s)
  exact h

@[simp] theorem raiseSecond_lamp_resetHold (c u d k : Nat) :
    ((raiseSecond c u d k).run s).lamp.resetHold = s.lamp.resetHold := raiseLimited_lamp_resetHold ..

@[simp] theorem retWrite_lamp_resetHold (a : Nat) (bs : List Byte) :
    ((retWrite a bs).run s).lamp.resetHold = s.lamp.resetHold := by
  have h := congrArg Lamp.resetHold (retWrite_lampCore a bs s)
  exact h

@[simp] theorem raise_lamp_parkedHold (c u d q g st : Nat) :
    ((raise c u d q g st).run s).lamp.parkedHold = s.lamp.parkedHold := by
  have h := congrArg Lamp.parkedHold (raise_lampCore c u d q g st s)
  exact h

@[simp] theorem raiseLimited_lamp_parkedHold (p k c u d : Nat) :
    ((raiseLimited p k c u d).run s).lamp.parkedHold = s.lamp.parkedHold := by
  have h := congrArg Lamp.parkedHold (raiseLimited_lampCore p k c u d s)
  exact h

@[simp] theorem raiseSecond_lamp_parkedHold (c u d k : Nat) :
    ((raiseSecond c u d k).run s).lamp.parkedHold = s.lamp.parkedHold := raiseLimited_lamp_parkedHold ..

@[simp] theorem retWrite_lamp_parkedHold (a : Nat) (bs : List Byte) :
    ((retWrite a bs).run s).lamp.parkedHold = s.lamp.parkedHold := by
  have h := congrArg Lamp.parkedHold (retWrite_lampCore a bs s)
  exact h

/-! ### Retention words -/

theorem retWrite_within (a : Nat) (bs : List Byte) :
    (retWrite a bs).Within [.mem .retA, .mem .retB, .lamp] := within_retWrite (by decide +kernel)

@[simp] theorem retWrite_plaza (a : Nat) (bs : List Byte) :
    ((retWrite a bs).run s).plaza = s.plaza :=
  (retWrite_within a bs s (.mem .plaza) rfl)

@[simp] theorem retWrite_lpddr (a : Nat) (bs : List Byte) :
    ((retWrite a bs).run s).lpddr = s.lpddr :=
  (retWrite_within a bs s (.mem .lpddr) rfl)

@[simp] theorem retWrite_flash (a : Nat) (bs : List Byte) :
    ((retWrite a bs).run s).flash = s.flash :=
  (retWrite_within a bs s (.mem .flash) rfl)

@[simp] theorem retWrite_icon (a : Nat) (bs : List Byte) :
    ((retWrite a bs).run s).icon = s.icon :=
  (retWrite_within a bs s (.mem .icon) rfl)

@[simp] theorem retWrite_otp (a : Nat) (bs : List Byte) :
    ((retWrite a bs).run s).otp = s.otp :=
  (retWrite_within a bs s (.mem .otp) rfl)

@[simp] theorem retWrite_img (a : Nat) (bs : List Byte) :
    ((retWrite a bs).run s).img = s.img :=
  (retWrite_within a bs s (.mem .img) rfl)

@[simp] theorem retWrite_rwpPend (a : Nat) (bs : List Byte) :
    ((retWrite a bs).run s).rwpPend = s.rwpPend :=
  (retWrite_within a bs s (.pend) rfl)

@[simp] theorem retWrite_bus (a : Nat) (bs : List Byte) :
    ((retWrite a bs).run s).bus = s.bus :=
  (retWrite_within a bs s (.bus) rfl)

@[simp] theorem retWrite_free (a : Nat) (bs : List Byte) :
    ((retWrite a bs).run s).free = s.free :=
  (retWrite_within a bs s (.free) rfl)

@[simp] theorem retWrite_ring (a : Nat) (bs : List Byte) :
    ((retWrite a bs).run s).ring = s.ring :=
  (retWrite_within a bs s (.ring) rfl).1

@[simp] theorem retWrite_nextSeq (a : Nat) (bs : List Byte) :
    ((retWrite a bs).run s).nextSeq = s.nextSeq :=
  (retWrite_within a bs s (.ring) rfl).2

@[simp] theorem retWrite_leases (a : Nat) (bs : List Byte) :
    ((retWrite a bs).run s).leases = s.leases :=
  (retWrite_within a bs s (.leases) rfl)

@[simp] theorem retWrite_rcl (a : Nat) (bs : List Byte) :
    ((retWrite a bs).run s).rcl = s.rcl :=
  (retWrite_within a bs s (.rcl) rfl)

@[simp] theorem retWrite_boot (a : Nat) (bs : List Byte) :
    ((retWrite a bs).run s).boot = s.boot :=
  (retWrite_within a bs s (.boot) rfl)

@[simp] theorem retWrite_ave (a : Nat) (bs : List Byte) :
    ((retWrite a bs).run s).ave = s.ave :=
  (retWrite_within a bs s (.ave) rfl)

@[simp] theorem retWrite_xlt (a : Nat) (bs : List Byte) :
    ((retWrite a bs).run s).xlt = s.xlt :=
  (retWrite_within a bs s (.xlt) rfl)

@[simp] theorem retWrite_wrd (a : Nat) (bs : List Byte) :
    ((retWrite a bs).run s).wrd = s.wrd :=
  (retWrite_within a bs s (.wrd) rfl)

@[simp] theorem retWrite_xng (a : Nat) (bs : List Byte) :
    ((retWrite a bs).run s).xng = s.xng :=
  (retWrite_within a bs s (.xng) rfl)

@[simp] theorem retWrite_cam (a : Nat) (bs : List Byte) :
    ((retWrite a bs).run s).cam = s.cam :=
  (retWrite_within a bs s (.cam) rfl)

@[simp] theorem retWrite_ras (a : Nat) (bs : List Byte) :
    ((retWrite a bs).run s).ras = s.ras :=
  (retWrite_within a bs s (.ras) rfl)

@[simp] theorem retWrite_dst (a : Nat) (bs : List Byte) :
    ((retWrite a bs).run s).dst = s.dst :=
  (retWrite_within a bs s (.dst) rfl)

@[simp] theorem retWrite_rbt (a : Nat) (bs : List Byte) :
    ((retWrite a bs).run s).rbt = s.rbt :=
  (retWrite_within a bs s (.rbt) rfl)

@[simp] theorem retWrite_sco (a : Nat) (bs : List Byte) :
    ((retWrite a bs).run s).sco = s.sco :=
  (retWrite_within a bs s (.sco) rfl)

@[simp] theorem retWrite_sgn (a : Nat) (bs : List Byte) :
    ((retWrite a bs).run s).sgn = s.sgn :=
  (retWrite_within a bs s (.sgn) rfl)

@[simp] theorem retWrite_hv (a : Nat) (bs : List Byte) :
    ((retWrite a bs).run s).hv = s.hv :=
  (retWrite_within a bs s (.hv) rfl)

@[simp] theorem retWrite_can (a : Nat) (bs : List Byte) :
    ((retWrite a bs).run s).can = s.can :=
  (retWrite_within a bs s (.can) rfl)

@[simp] theorem retWrite_svc (a : Nat) (bs : List Byte) :
    ((retWrite a bs).run s).svc = s.svc :=
  (retWrite_within a bs s (.svc) rfl)

@[simp] theorem retWrite_ports (a : Nat) (bs : List Byte) :
    ((retWrite a bs).run s).ports = s.ports :=
  (retWrite_within a bs s (.ports) rfl)

@[simp] theorem retWrite_brg (a : Nat) (bs : List Byte) :
    ((retWrite a bs).run s).brg = s.brg :=
  (retWrite_within a bs s (.brg) rfl)

@[simp] theorem store_rwpPend (id : MemId) (a : Nat) (bs : List Byte) :
    ((store id a bs).run s).rwpPend = s.rwpPend :=
  (within_store (W := [.mem id]) (by simp [coveredBy]) s (.pend) rfl)

@[simp] theorem store_bus (id : MemId) (a : Nat) (bs : List Byte) :
    ((store id a bs).run s).bus = s.bus :=
  (within_store (W := [.mem id]) (by simp [coveredBy]) s (.bus) rfl)

@[simp] theorem store_free (id : MemId) (a : Nat) (bs : List Byte) :
    ((store id a bs).run s).free = s.free :=
  (within_store (W := [.mem id]) (by simp [coveredBy]) s (.free) rfl)

@[simp] theorem store_ring (id : MemId) (a : Nat) (bs : List Byte) :
    ((store id a bs).run s).ring = s.ring :=
  (within_store (W := [.mem id]) (by simp [coveredBy]) s (.ring) rfl).1

@[simp] theorem store_nextSeq (id : MemId) (a : Nat) (bs : List Byte) :
    ((store id a bs).run s).nextSeq = s.nextSeq :=
  (within_store (W := [.mem id]) (by simp [coveredBy]) s (.ring) rfl).2

@[simp] theorem store_leases (id : MemId) (a : Nat) (bs : List Byte) :
    ((store id a bs).run s).leases = s.leases :=
  (within_store (W := [.mem id]) (by simp [coveredBy]) s (.leases) rfl)

@[simp] theorem store_lamp (id : MemId) (a : Nat) (bs : List Byte) :
    ((store id a bs).run s).lamp = s.lamp :=
  (within_store (W := [.mem id]) (by simp [coveredBy]) s (.lamp) rfl)

@[simp] theorem store_rcl (id : MemId) (a : Nat) (bs : List Byte) :
    ((store id a bs).run s).rcl = s.rcl :=
  (within_store (W := [.mem id]) (by simp [coveredBy]) s (.rcl) rfl)

@[simp] theorem store_boot (id : MemId) (a : Nat) (bs : List Byte) :
    ((store id a bs).run s).boot = s.boot :=
  (within_store (W := [.mem id]) (by simp [coveredBy]) s (.boot) rfl)

@[simp] theorem store_ave (id : MemId) (a : Nat) (bs : List Byte) :
    ((store id a bs).run s).ave = s.ave :=
  (within_store (W := [.mem id]) (by simp [coveredBy]) s (.ave) rfl)

@[simp] theorem store_xlt (id : MemId) (a : Nat) (bs : List Byte) :
    ((store id a bs).run s).xlt = s.xlt :=
  (within_store (W := [.mem id]) (by simp [coveredBy]) s (.xlt) rfl)

@[simp] theorem store_wrd (id : MemId) (a : Nat) (bs : List Byte) :
    ((store id a bs).run s).wrd = s.wrd :=
  (within_store (W := [.mem id]) (by simp [coveredBy]) s (.wrd) rfl)

@[simp] theorem store_xng (id : MemId) (a : Nat) (bs : List Byte) :
    ((store id a bs).run s).xng = s.xng :=
  (within_store (W := [.mem id]) (by simp [coveredBy]) s (.xng) rfl)

@[simp] theorem store_cam (id : MemId) (a : Nat) (bs : List Byte) :
    ((store id a bs).run s).cam = s.cam :=
  (within_store (W := [.mem id]) (by simp [coveredBy]) s (.cam) rfl)

@[simp] theorem store_ras (id : MemId) (a : Nat) (bs : List Byte) :
    ((store id a bs).run s).ras = s.ras :=
  (within_store (W := [.mem id]) (by simp [coveredBy]) s (.ras) rfl)

@[simp] theorem store_dst (id : MemId) (a : Nat) (bs : List Byte) :
    ((store id a bs).run s).dst = s.dst :=
  (within_store (W := [.mem id]) (by simp [coveredBy]) s (.dst) rfl)

@[simp] theorem store_rbt (id : MemId) (a : Nat) (bs : List Byte) :
    ((store id a bs).run s).rbt = s.rbt :=
  (within_store (W := [.mem id]) (by simp [coveredBy]) s (.rbt) rfl)

@[simp] theorem store_sco (id : MemId) (a : Nat) (bs : List Byte) :
    ((store id a bs).run s).sco = s.sco :=
  (within_store (W := [.mem id]) (by simp [coveredBy]) s (.sco) rfl)

@[simp] theorem store_sgn (id : MemId) (a : Nat) (bs : List Byte) :
    ((store id a bs).run s).sgn = s.sgn :=
  (within_store (W := [.mem id]) (by simp [coveredBy]) s (.sgn) rfl)

@[simp] theorem store_hv (id : MemId) (a : Nat) (bs : List Byte) :
    ((store id a bs).run s).hv = s.hv :=
  (within_store (W := [.mem id]) (by simp [coveredBy]) s (.hv) rfl)

@[simp] theorem store_can (id : MemId) (a : Nat) (bs : List Byte) :
    ((store id a bs).run s).can = s.can :=
  (within_store (W := [.mem id]) (by simp [coveredBy]) s (.can) rfl)

@[simp] theorem store_svc (id : MemId) (a : Nat) (bs : List Byte) :
    ((store id a bs).run s).svc = s.svc :=
  (within_store (W := [.mem id]) (by simp [coveredBy]) s (.svc) rfl)

@[simp] theorem store_ports (id : MemId) (a : Nat) (bs : List Byte) :
    ((store id a bs).run s).ports = s.ports :=
  (within_store (W := [.mem id]) (by simp [coveredBy]) s (.ports) rfl)

@[simp] theorem store_brg (id : MemId) (a : Nat) (bs : List Byte) :
    ((store id a bs).run s).brg = s.brg :=
  (within_store (W := [.mem id]) (by simp [coveredBy]) s (.brg) rfl)

/-! ### Changing a block -/

@[simp] theorem run_modLamp (f : Lamp → Lamp) :
    (modLamp f).run s = (Act.lamp (f s.lamp)).apply s := (rfl)

@[simp] theorem run_modRcl (f : Rcl → Rcl) :
    (modRcl f).run s = (Act.rcl (f s.rcl)).apply s := (rfl)

@[simp] theorem run_modBoot (f : Boot → Boot) :
    (modBoot f).run s = (Act.boot (f s.boot)).apply s := (rfl)

@[simp] theorem run_modAve (f : Ave → Ave) :
    (modAve f).run s = (Act.ave (f s.ave)).apply s := (rfl)

@[simp] theorem run_modXlt (f : Xlt → Xlt) :
    (modXlt f).run s = (Act.xlt (f s.xlt)).apply s := (rfl)

@[simp] theorem run_modWrd (f : Wrd → Wrd) :
    (modWrd f).run s = (Act.wrd (f s.wrd)).apply s := (rfl)

@[simp] theorem run_modXng (f : Xng → Xng) :
    (modXng f).run s = (Act.xng (f s.xng)).apply s := (rfl)

@[simp] theorem run_modCam (f : Cam → Cam) :
    (modCam f).run s = (Act.cam (f s.cam)).apply s := (rfl)

@[simp] theorem run_modRas (f : Ras → Ras) :
    (modRas f).run s = (Act.ras (f s.ras)).apply s := (rfl)

@[simp] theorem run_modDst (f : Dst → Dst) :
    (modDst f).run s = (Act.dst (f s.dst)).apply s := (rfl)

@[simp] theorem run_modRbt (f : Rbt → Rbt) :
    (modRbt f).run s = (Act.rbt (f s.rbt)).apply s := (rfl)

@[simp] theorem run_modSco (f : Sco → Sco) :
    (modSco f).run s = (Act.sco (f s.sco)).apply s := (rfl)

@[simp] theorem run_modSgn (f : Sgn → Sgn) :
    (modSgn f).run s = (Act.sgn (f s.sgn)).apply s := (rfl)

@[simp] theorem run_modHv (f : Hv → Hv) :
    (modHv f).run s = (Act.hv (f s.hv)).apply s := (rfl)

@[simp] theorem run_modCan (f : List CanCtl → List CanCtl) :
    (modCan f).run s = (Act.can (f s.can)).apply s := (rfl)

@[simp] theorem run_modSvc (f : Svc → Svc) :
    (modSvc f).run s = (Act.svc (f s.svc)).apply s := (rfl)

@[simp] theorem run_modPorts (f : Ports → Ports) :
    (modPorts f).run s = (Act.ports (f s.ports)).apply s := (rfl)

@[simp] theorem run_modBrg (f : Brg → Brg) :
    (modBrg f).run s = (Act.brg (f s.brg)).apply s := (rfl)

end Sys2Proof.Machine
end

