-- ==== Sys2Proof/Laws/WithinAvenue.lean ====
section
/-! SUPPORT. What each operation of Machine/Avenue.lean can change at most. -/

set_option Elab.async false
set_option linter.unreachableTactic false
set_option linter.unusedTactic false

namespace Sys2Proof.Machine

theorem within_poisonRange {W : List Part} (h : partsLe [.ave] W = true) {a b : _} :
    (poisonRange a b).Within W := by
  unfold poisonRange
  repeat' first
    | with_reducible exact within_skip
    | with_reducible exact within_all_nil
    | with_reducible refine within_all_cons ?_ ?_
    | with_reducible refine within_seq ?_ ?_
    | with_reducible refine within_look fun _ => ?_
    | with_reducible refine within_when ?_
    | ((with_reducible refine within_modAve ?_); exact lec h (by decide +kernel))
    | ((with_reducible refine within_foldl ?_ fun _ _ hs => ?_); (· exact within_skip); refine within_seq hs ?_)
    | with_reducible refine within_ite ?_ ?_
    | with_reducible refine within_progIte ?_ ?_
    | with_reducible refine within_each fun _ => ?_
    | with_reducible refine within_all_map fun _ => ?_
    | with_reducible refine within_all_replicate ?_
    | split

theorem within_cleanRanges {W : List Part} (h : partsLe [.ave] W = true) {a : _} :
    (cleanRanges a).Within W := by
  unfold cleanRanges
  repeat' first
    | with_reducible exact within_skip
    | with_reducible exact within_all_nil
    | with_reducible refine within_all_cons ?_ ?_
    | with_reducible refine within_seq ?_ ?_
    | with_reducible refine within_look fun _ => ?_
    | with_reducible refine within_when ?_
    | ((with_reducible refine within_modAve ?_); exact lec h (by decide +kernel))

theorem within_cleanRange {W : List Part} (h : partsLe [.ave] W = true) {a b : _} :
    (cleanRange a b).Within W := by
  unfold cleanRange
  repeat' first
    | with_reducible exact within_skip
    | with_reducible exact within_all_nil
    | with_reducible refine within_all_cons ?_ ?_
    | with_reducible refine within_seq ?_ ?_
    | with_reducible refine within_look fun _ => ?_
    | with_reducible refine within_when ?_
    | ((with_reducible refine within_cleanRanges ?_); exact lel h (by decide +kernel))
    | with_reducible refine within_all_map fun _ => ?_
    | with_reducible refine within_all_replicate ?_
    | split
    | (dsimp only; split)
    | dsimp only

theorem within_cleanPage {W : List Part} (h : partsLe [.ave] W = true) {a : _} : (cleanPage
    a).Within W := by
  unfold cleanPage
  repeat' first
    | with_reducible exact within_skip
    | with_reducible exact within_all_nil
    | with_reducible refine within_all_cons ?_ ?_
    | with_reducible refine within_seq ?_ ?_
    | with_reducible refine within_look fun _ => ?_
    | with_reducible refine within_when ?_
    | ((with_reducible refine within_modAve ?_); exact lec h (by decide +kernel))
    | ((with_reducible refine within_foldl ?_ fun _ _ hs => ?_); (· exact within_skip); refine within_seq hs ?_)
    | with_reducible refine within_ite ?_ ?_
    | with_reducible refine within_progIte ?_ ?_
    | with_reducible refine within_each fun _ => ?_
    | with_reducible refine within_all_map fun _ => ?_
    | with_reducible refine within_all_replicate ?_
    | split
    | (dsimp only; split)
    | dsimp only

theorem within_regionConflict {W : List Part} (h : partsLe [.mem .retA, .mem .retB, .regs
    0x3, .regs 0x90, .ring, .lamp, .rcl] W = true) {a : _} : (regionConflict a).Within W := by
  unfold regionConflict
  repeat' first
    | with_reducible exact within_skip
    | with_reducible exact within_all_nil
    | with_reducible refine within_all_cons ?_ ?_
    | with_reducible refine within_seq ?_ ?_
    | with_reducible refine within_look fun _ => ?_
    | with_reducible refine within_when ?_
    | ((with_reducible refine within_setF rfl ?_); exact lec h (by decide +kernel))
    | ((with_reducible refine within_raise ?_ ?_) <;> first | exact lel h (by decide +kernel) | exact partsLe_trans (event_le _) (lel h (by decide +kernel)))
    | ((with_reducible refine within_foldl ?_ fun _ _ hs => ?_); (· exact within_skip); refine within_seq hs ?_)
    | with_reducible refine within_ite ?_ ?_
    | with_reducible refine within_progIte ?_ ?_
    | with_reducible refine within_each fun _ => ?_
    | with_reducible refine within_all_map fun _ => ?_
    | with_reducible refine within_all_replicate ?_
    | split
    | (dsimp only; split)
    | dsimp only

theorem within_takeLock {W : List Part} (h : partsLe [.mem .retA, .mem .retB, .regs 0x10,
    .regs 0x20, .regs 0x31, .regs 0x40, .regs 0x41, .regs 0x42, .regs 0x50, .regs 0x60, .regs
    0x62, .regs 0x70, .regs 0x90, .ring, .leases, .lamp, .rcl, .ave] W = true) {a b c d e : _} :
    (takeLock a b c d e).Within W := by
  unfold takeLock
  repeat' first
    | with_reducible exact within_skip
    | with_reducible exact within_all_nil
    | with_reducible refine within_all_cons ?_ ?_
    | with_reducible refine within_seq ?_ ?_
    | with_reducible refine within_look fun _ => ?_
    | with_reducible refine within_when ?_
    | ((with_reducible refine within_modAve ?_); exact lec h (by decide +kernel))
    | ((with_reducible refine within_usePair rfl ?_ ?_) <;> first | exact lec h (by decide +kernel) | exact lel h (by decide +kernel))
    | ((with_reducible refine within_takeLease ?_); exact lel h (by decide +kernel))
    | ((with_reducible refine within_foldl ?_ fun _ _ hs => ?_); (· exact within_skip); refine within_seq hs ?_)
    | with_reducible refine within_ite ?_ ?_
    | with_reducible refine within_progIte ?_ ?_
    | with_reducible refine within_each fun _ => ?_
    | with_reducible refine within_all_map fun _ => ?_
    | with_reducible refine within_all_replicate ?_
    | split
    | (dsimp only; split)
    | dsimp only

theorem within_freeLock {W : List Part} (h : partsLe [.mem .retA, .mem .retB, .regs 0x10,
    .regs 0x20, .regs 0x31, .regs 0x40, .regs 0x41, .regs 0x42, .regs 0x50, .regs 0x60, .regs
    0x62, .regs 0x70, .regs 0x90, .ring, .leases, .lamp, .rcl, .ave] W = true) {a : _} :
    (freeLock a).Within W := by
  unfold freeLock
  repeat' first
    | with_reducible exact within_skip
    | with_reducible exact within_all_nil
    | with_reducible refine within_all_cons ?_ ?_
    | with_reducible refine within_seq ?_ ?_
    | with_reducible refine within_look fun _ => ?_
    | with_reducible refine within_when ?_
    | ((with_reducible refine within_modAve ?_); exact lec h (by decide +kernel))
    | ((with_reducible refine within_freeLease ?_); exact lel h (by decide +kernel))
    | ((with_reducible refine within_takeLock ?_); exact lel h (by decide +kernel))
    | ((with_reducible refine within_foldl ?_ fun _ _ hs => ?_); (· exact within_skip); refine within_seq hs ?_)
    | with_reducible refine within_ite ?_ ?_
    | with_reducible refine within_progIte ?_ ?_
    | with_reducible refine within_each fun _ => ?_
    | with_reducible refine within_all_map fun _ => ?_
    | with_reducible refine within_all_replicate ?_
    | split
    | (dsimp only; split)
    | dsimp only

theorem within_acquireLock {W : List Part} (h : partsLe [.mem .retA, .mem .retB, .regs 0x10,
    .regs 0x20, .regs 0x31, .regs 0x40, .regs 0x41, .regs 0x42, .regs 0x50, .regs 0x60, .regs
    0x62, .regs 0x70, .regs 0x90, .ring, .leases, .lamp, .rcl, .ave] W = true) {a b c d : _} :
    (acquireLock a b c d).Within W := by
  unfold acquireLock
  repeat' first
    | with_reducible exact within_skip
    | with_reducible exact within_all_nil
    | with_reducible refine within_all_cons ?_ ?_
    | with_reducible refine within_seq ?_ ?_
    | with_reducible refine within_look fun _ => ?_
    | with_reducible refine within_when ?_
    | ((with_reducible refine within_modAve ?_); exact lec h (by decide +kernel))
    | ((with_reducible refine within_takeLock ?_); exact lel h (by decide +kernel))
    | ((with_reducible refine within_foldl ?_ fun _ _ hs => ?_); (· exact within_skip); refine within_seq hs ?_)
    | with_reducible refine within_ite ?_ ?_
    | with_reducible refine within_progIte ?_ ?_
    | with_reducible refine within_each fun _ => ?_
    | with_reducible refine within_all_map fun _ => ?_
    | with_reducible refine within_all_replicate ?_
    | split
    | (dsimp only; split)
    | dsimp only

theorem within_releaseLock {W : List Part} (h : partsLe [.mem .retA, .mem .retB, .regs 0x10,
    .regs 0x20, .regs 0x31, .regs 0x40, .regs 0x41, .regs 0x42, .regs 0x50, .regs 0x60, .regs
    0x62, .regs 0x70, .regs 0x90, .ring, .leases, .lamp, .rcl, .ave] W = true) {a b c : _} :
    (releaseLock a b c).Within W := by
  unfold releaseLock
  repeat' first
    | with_reducible exact within_skip
    | with_reducible exact within_all_nil
    | with_reducible refine within_all_cons ?_ ?_
    | with_reducible refine within_seq ?_ ?_
    | with_reducible refine within_look fun _ => ?_
    | with_reducible refine within_when ?_
    | ((with_reducible refine within_modAve ?_); exact lec h (by decide +kernel))
    | ((with_reducible refine within_freeLock ?_); exact lel h (by decide +kernel))
    | ((with_reducible refine within_foldl ?_ fun _ _ hs => ?_); (· exact within_skip); refine within_seq hs ?_)
    | with_reducible refine within_ite ?_ ?_
    | with_reducible refine within_progIte ?_ ?_
    | with_reducible refine within_each fun _ => ?_
    | with_reducible refine within_all_map fun _ => ?_
    | with_reducible refine within_all_replicate ?_
    | split
    | (dsimp only; split)
    | dsimp only

theorem within_dropLockWaits {W : List Part} (h : partsLe [.ave] W = true) {a : _} :
    (dropLockWaits a).Within W := by
  unfold dropLockWaits
  repeat' first
    | with_reducible exact within_skip
    | with_reducible exact within_all_nil
    | with_reducible refine within_all_cons ?_ ?_
    | with_reducible refine within_seq ?_ ?_
    | with_reducible refine within_look fun _ => ?_
    | with_reducible refine within_when ?_
    | ((with_reducible refine within_modAve ?_); exact lec h (by decide +kernel))
    | ((with_reducible refine within_foldl ?_ fun _ _ hs => ?_); (· exact within_skip); refine within_seq hs ?_)
    | with_reducible refine within_ite ?_ ?_
    | with_reducible refine within_progIte ?_ ?_
    | with_reducible refine within_each fun _ => ?_
    | with_reducible refine within_all_map fun _ => ?_
    | with_reducible refine within_all_replicate ?_
    | split
    | (dsimp only; split)
    | dsimp only

theorem within_addRepair {W : List Part} (h : partsLe [.mem .retA, .mem .retB, .regs 0x10,
    .regs 0x20, .regs 0x31, .regs 0x40, .regs 0x41, .regs 0x42, .regs 0x50, .regs 0x60, .regs
    0x62, .regs 0x70, .regs 0x90, .ring, .leases, .lamp, .rcl, .boot, .ave] W = true) {a b c :
    _} : (addRepair a b c).Within W := by
  unfold addRepair
  repeat' first
    | with_reducible exact within_skip
    | with_reducible exact within_all_nil
    | with_reducible refine within_all_cons ?_ ?_
    | with_reducible refine within_seq ?_ ?_
    | with_reducible refine within_look fun _ => ?_
    | with_reducible refine within_when ?_
    | ((with_reducible refine within_modBoot ?_); exact lec h (by decide +kernel))
    | ((with_reducible refine within_acquireLock ?_); exact lel h (by decide +kernel))
    | ((with_reducible refine within_foldl ?_ fun _ _ hs => ?_); (· exact within_skip); refine within_seq hs ?_)
    | with_reducible refine within_ite ?_ ?_
    | with_reducible refine within_progIte ?_ ?_
    | with_reducible refine within_each fun _ => ?_
    | with_reducible refine within_all_map fun _ => ?_
    | with_reducible refine within_all_replicate ?_
    | split
    | (dsimp only; split)
    | dsimp only

theorem within_requestRepair {W : List Part} (h : partsLe [.mem .retA, .mem .retB, .regs
    0x2, .regs 0x10, .regs 0x20, .regs 0x31, .regs 0x40, .regs 0x41, .regs 0x42, .regs 0x50,
    .regs 0x60, .regs 0x62, .regs 0x70, .regs 0x90, .ring, .leases, .lamp, .rcl, .boot, .ave] W
    = true) {a : _} : (requestRepair a).Within W := by
  unfold requestRepair
  repeat' first
    | with_reducible exact within_skip
    | with_reducible exact within_all_nil
    | with_reducible refine within_all_cons ?_ ?_
    | with_reducible refine within_seq ?_ ?_
    | with_reducible refine within_look fun _ => ?_
    | with_reducible refine within_when ?_
    | ((with_reducible refine within_usePair rfl ?_ ?_) <;> first | exact lec h (by decide +kernel) | exact lel h (by decide +kernel))
    | ((with_reducible refine within_addRepair ?_); exact lel h (by decide +kernel))
    | ((with_reducible refine within_foldl ?_ fun _ _ hs => ?_); (· exact within_skip); refine within_seq hs ?_)
    | with_reducible refine within_ite ?_ ?_
    | with_reducible refine within_progIte ?_ ?_
    | with_reducible refine within_each fun _ => ?_
    | with_reducible refine within_all_map fun _ => ?_
    | with_reducible refine within_all_replicate ?_
    | split
    | (dsimp only; split)
    | dsimp only

theorem within_requestIconRepair {W : List Part} (h : partsLe [.mem .retA, .mem .retB, .regs
    0x2, .regs 0x10, .regs 0x20, .regs 0x31, .regs 0x40, .regs 0x41, .regs 0x42, .regs 0x50,
    .regs 0x60, .regs 0x62, .regs 0x70, .regs 0x90, .ring, .leases, .lamp, .rcl, .boot, .ave] W
    = true) {a : _} : (requestIconRepair a).Within W := by
  unfold requestIconRepair
  repeat' first
    | with_reducible exact within_skip
    | with_reducible exact within_all_nil
    | with_reducible refine within_all_cons ?_ ?_
    | with_reducible refine within_seq ?_ ?_
    | with_reducible refine within_look fun _ => ?_
    | with_reducible refine within_when ?_
    | ((with_reducible refine within_usePair rfl ?_ ?_) <;> first | exact lec h (by decide +kernel) | exact lel h (by decide +kernel))
    | ((with_reducible refine within_addRepair ?_); exact lel h (by decide +kernel))
    | ((with_reducible refine within_foldl ?_ fun _ _ hs => ?_); (· exact within_skip); refine within_seq hs ?_)
    | with_reducible refine within_ite ?_ ?_
    | with_reducible refine within_progIte ?_ ?_
    | with_reducible refine within_each fun _ => ?_
    | with_reducible refine within_all_map fun _ => ?_
    | with_reducible refine within_all_replicate ?_
    | split
    | (dsimp only; split)
    | dsimp only

theorem within_bankDown {W : List Part} (h : partsLe [.mem .icon, .mem .img, .allRegs,
    .pend, .leases, .lamp, .rcl, .boot, .ave, .xlt, .wrd, .xng, .cam, .ras, .dst, .rbt, .sco,
    .sgn, .hv, .can, .svc, .ports, .brg] W = true) : bankDown.Within W := by
  unfold bankDown
  repeat' first
    | with_reducible exact within_skip
    | with_reducible exact within_all_nil
    | with_reducible refine within_all_cons ?_ ?_
    | with_reducible refine within_seq ?_ ?_
    | with_reducible refine within_look fun _ => ?_
    | with_reducible refine within_when ?_
    | ((with_reducible refine within_setF rfl ?_); exact lec h (by decide +kernel))
    | ((with_reducible refine within_escalate ?_); exact lel h (by decide +kernel))
    | ((with_reducible refine within_foldl ?_ fun _ _ hs => ?_); (· exact within_skip); refine within_seq hs ?_)
    | with_reducible refine within_ite ?_ ?_
    | with_reducible refine within_progIte ?_ ?_
    | with_reducible refine within_each fun _ => ?_
    | with_reducible refine within_all_map fun _ => ?_
    | with_reducible refine within_all_replicate ?_
    | split
    | (dsimp only; split)
    | dsimp only

theorem within_bankFail {W : List Part} (h : partsLe [.mem .retA, .mem .retB, .mem .icon,
    .mem .img, .allRegs, .pend, .ring, .leases, .lamp, .rcl, .boot, .ave, .xlt, .wrd, .xng,
    .cam, .ras, .dst, .rbt, .sco, .sgn, .hv, .can, .svc, .ports, .brg] W = true) {a : _} :
    (bankFail a).Within W := by
  unfold bankFail
  repeat' first
    | with_reducible exact within_skip
    | with_reducible exact within_all_nil
    | with_reducible refine within_all_cons ?_ ?_
    | with_reducible refine within_seq ?_ ?_
    | with_reducible refine within_look fun _ => ?_
    | with_reducible refine within_when ?_
    | ((with_reducible refine within_raise ?_ ?_) <;> first | exact lel h (by decide +kernel) | exact partsLe_trans (event_le _) (lel h (by decide +kernel)))
    | ((with_reducible refine within_bankDown ?_); exact lel h (by decide +kernel))
    | ((with_reducible refine within_foldl ?_ fun _ _ hs => ?_); (· exact within_skip); refine within_seq hs ?_)
    | with_reducible refine within_ite ?_ ?_
    | with_reducible refine within_progIte ?_ ?_
    | with_reducible refine within_each fun _ => ?_
    | with_reducible refine within_all_map fun _ => ?_
    | with_reducible refine within_all_replicate ?_
    | split
    | (dsimp only; split)
    | dsimp only

theorem within_correctErrs {W : List Part} (h : partsLe [.regs 0x3, .regs 0x80, .ave] W =
    true) {a b : _} : (correctErrs a b).Within W := by
  unfold correctErrs
  repeat' first
    | with_reducible exact within_skip
    | with_reducible exact within_all_nil
    | with_reducible refine within_all_cons ?_ ?_
    | with_reducible refine within_seq ?_ ?_
    | with_reducible refine within_look fun _ => ?_
    | with_reducible refine within_when ?_
    | ((with_reducible refine within_modAve ?_); exact lec h (by decide +kernel))
    | ((with_reducible refine within_setF rfl ?_); exact lec h (by decide +kernel))
    | ((with_reducible refine within_bump rfl ?_); exact lec h (by decide +kernel))
    | ((with_reducible refine within_foldl ?_ fun _ _ hs => ?_); (· exact within_skip); refine within_seq hs ?_)
    | with_reducible refine within_ite ?_ ?_
    | with_reducible refine within_progIte ?_ ?_
    | with_reducible refine within_each fun _ => ?_
    | with_reducible refine within_all_map fun _ => ?_
    | with_reducible refine within_all_replicate ?_
    | split
    | (dsimp only; split)
    | dsimp only

theorem within_plazaUe {W : List Part} (h : partsLe [.mem .retA, .mem .retB, .mem .icon,
    .mem .img, .allRegs, .pend, .ring, .leases, .lamp, .rcl, .boot, .ave, .xlt, .wrd, .xng,
    .cam, .ras, .dst, .rbt, .sco, .sgn, .hv, .can, .svc, .ports, .brg] W = true) {a b : _} :
    (plazaUe a b).Within W := by
  unfold plazaUe
  repeat' first
    | with_reducible exact within_skip
    | with_reducible exact within_all_nil
    | with_reducible refine within_all_cons ?_ ?_
    | with_reducible refine within_seq ?_ ?_
    | with_reducible refine within_look fun _ => ?_
    | with_reducible refine within_when ?_
    | ((with_reducible refine within_modAve ?_); exact lec h (by decide +kernel))
    | ((with_reducible refine within_setReg rfl ?_); exact lec h (by decide +kernel))
    | ((with_reducible refine within_setF rfl ?_); exact lec h (by decide +kernel))
    | ((with_reducible refine within_bump rfl ?_); exact lec h (by decide +kernel))
    | ((with_reducible refine within_raise ?_ ?_) <;> first | exact lel h (by decide +kernel) | exact partsLe_trans (event_le _) (lel h (by decide +kernel)))
    | ((with_reducible refine within_bankFail ?_); exact lel h (by decide +kernel))
    | ((with_reducible refine within_poisonRange ?_); exact lel h (by decide +kernel))
    | ((with_reducible refine within_requestRepair ?_); exact lel h (by decide +kernel))
    | ((with_reducible refine within_foldl ?_ fun _ _ hs => ?_); (· exact within_skip); refine within_seq hs ?_)
    | with_reducible refine within_ite ?_ ?_
    | with_reducible refine within_progIte ?_ ?_
    | with_reducible refine within_each fun _ => ?_
    | with_reducible refine within_all_map fun _ => ?_
    | with_reducible refine within_all_replicate ?_
    | split
    | (dsimp only; split)
    | dsimp only

theorem within_ddrUe {W : List Part} (h : partsLe [.mem .retA, .mem .retB, .regs 0x2, .regs
    0x10, .regs 0x20, .regs 0x31, .regs 0x40, .regs 0x41, .regs 0x42, .regs 0x50, .regs 0x60,
    .regs 0x62, .regs 0x70, .regs 0x80, .regs 0x90, .ring, .leases, .lamp, .rcl, .boot, .ave] W
    = true) {a : _} : (ddrUe a).Within W := by
  unfold ddrUe
  repeat' first
    | with_reducible exact within_skip
    | with_reducible exact within_all_nil
    | with_reducible refine within_all_cons ?_ ?_
    | with_reducible refine within_seq ?_ ?_
    | with_reducible refine within_look fun _ => ?_
    | with_reducible refine within_when ?_
    | ((with_reducible refine within_setReg rfl ?_); exact lec h (by decide +kernel))
    | ((with_reducible refine within_setF rfl ?_); exact lec h (by decide +kernel))
    | ((with_reducible refine within_bump rfl ?_); exact lec h (by decide +kernel))
    | ((with_reducible refine within_raise ?_ ?_) <;> first | exact lel h (by decide +kernel) | exact partsLe_trans (event_le _) (lel h (by decide +kernel)))
    | ((with_reducible refine within_poisonRange ?_); exact lel h (by decide +kernel))
    | ((with_reducible refine within_requestRepair ?_); exact lel h (by decide +kernel))
    | ((with_reducible refine within_foldl ?_ fun _ _ hs => ?_); (· exact within_skip); refine within_seq hs ?_)
    | with_reducible refine within_ite ?_ ?_
    | with_reducible refine within_progIte ?_ ?_
    | with_reducible refine within_each fun _ => ?_
    | with_reducible refine within_all_map fun _ => ?_
    | with_reducible refine within_all_replicate ?_
    | split
    | (dsimp only; split)
    | dsimp only

theorem within_readEffects {W : List Part} (h : partsLe [.mem .retA, .mem .retB, .mem .icon,
    .mem .img, .allRegs, .pend, .ring, .leases, .lamp, .rcl, .boot, .ave, .xlt, .wrd, .xng,
    .cam, .ras, .dst, .rbt, .sco, .sgn, .hv, .can, .svc, .ports, .brg] W = true) {a b : _} :
    (readEffects a b).Within W := by
  unfold readEffects
  repeat' first
    | with_reducible exact within_skip
    | with_reducible exact within_all_nil
    | with_reducible refine within_all_cons ?_ ?_
    | with_reducible refine within_seq ?_ ?_
    | with_reducible refine within_look fun _ => ?_
    | with_reducible refine within_when ?_
    | ((with_reducible refine within_correctErrs ?_); exact lel h (by decide +kernel))
    | ((with_reducible refine within_ddrUe ?_); exact lel h (by decide +kernel))
    | ((with_reducible refine within_plazaUe ?_); exact lel h (by decide +kernel))
    | ((with_reducible refine within_foldl ?_ fun _ _ hs => ?_); (· exact within_skip); refine within_seq hs ?_)
    | with_reducible refine within_ite ?_ ?_
    | with_reducible refine within_progIte ?_ ?_
    | with_reducible refine within_each fun _ => ?_
    | with_reducible refine within_all_map fun _ => ?_
    | with_reducible refine within_all_replicate ?_
    | split
    | (dsimp only; split)
    | dsimp only

theorem within_unmappedAccess {W : List Part} (h : partsLe [.mem .retA, .mem .retB, .regs
    0x3, .regs 0x90, .ring, .lamp, .rcl] W = true) {a : _} : (unmappedAccess a).Within W := by
  unfold unmappedAccess
  repeat' first
    | with_reducible exact within_skip
    | with_reducible exact within_all_nil
    | with_reducible refine within_all_cons ?_ ?_
    | with_reducible refine within_seq ?_ ?_
    | with_reducible refine within_look fun _ => ?_
    | with_reducible refine within_when ?_
    | ((with_reducible refine within_setF rfl ?_); exact lec h (by decide +kernel))
    | ((with_reducible refine within_raise ?_ ?_) <;> first | exact lel h (by decide +kernel) | exact partsLe_trans (event_le _) (lel h (by decide +kernel)))
    | ((with_reducible refine within_foldl ?_ fun _ _ hs => ?_); (· exact within_skip); refine within_seq hs ?_)
    | with_reducible refine within_ite ?_ ?_
    | with_reducible refine within_progIte ?_ ?_
    | with_reducible refine within_each fun _ => ?_
    | with_reducible refine within_all_map fun _ => ?_
    | with_reducible refine within_all_replicate ?_
    | split
    | (dsimp only; split)
    | dsimp only

theorem within_rmwReads {W : List Part} (h : partsLe [.mem .retA, .mem .retB, .mem .icon,
    .mem .img, .allRegs, .pend, .ring, .leases, .lamp, .rcl, .boot, .ave, .xlt, .wrd, .xng,
    .cam, .ras, .dst, .rbt, .sco, .sgn, .hv, .can, .svc, .ports, .brg] W = true) {a b : _} :
    (rmwReads a b).Within W := by
  unfold rmwReads
  repeat' first
    | with_reducible exact within_skip
    | with_reducible exact within_all_nil
    | with_reducible refine within_all_cons ?_ ?_
    | with_reducible refine within_seq ?_ ?_
    | with_reducible refine within_look fun _ => ?_
    | with_reducible refine within_when ?_
    | ((with_reducible refine within_correctErrs ?_); exact lel h (by decide +kernel))
    | ((with_reducible refine within_ddrUe ?_); exact lel h (by decide +kernel))
    | ((with_reducible refine within_plazaUe ?_); exact lel h (by decide +kernel))
    | ((with_reducible refine within_foldl ?_ fun _ _ hs => ?_); (· exact within_skip); refine within_seq hs ?_)
    | with_reducible refine within_ite ?_ ?_
    | with_reducible refine within_progIte ?_ ?_
    | with_reducible refine within_each fun _ => ?_
    | with_reducible refine within_all_map fun _ => ?_
    | with_reducible refine within_all_replicate ?_
    | split
    | (dsimp only; split)
    | dsimp only

theorem within_memWrite {W : List Part} (h : partsLe [.mem .plaza, .mem .lpddr, .mem .retA,
    .mem .retB, .mem .icon, .mem .img, .allRegs, .pend, .ring, .leases, .lamp, .rcl, .boot,
    .ave, .xlt, .wrd, .xng, .cam, .ras, .dst, .rbt, .sco, .sgn, .hv, .can, .svc, .ports, .brg] W
    = true) {a b : _} : (memWrite a b).Within W := by
  unfold memWrite
  repeat' first
    | with_reducible exact within_skip
    | with_reducible exact within_all_nil
    | with_reducible refine within_all_cons ?_ ?_
    | with_reducible refine within_seq ?_ ?_
    | with_reducible refine within_look fun _ => ?_
    | with_reducible refine within_when ?_
    | ((with_reducible refine within_paStore ?_); exact lel h (by decide +kernel))
    | ((with_reducible refine within_rmwReads ?_); exact lel h (by decide +kernel))
    | ((with_reducible refine within_foldl ?_ fun _ _ hs => ?_); (· exact within_skip); refine within_seq hs ?_)
    | with_reducible refine within_ite ?_ ?_
    | with_reducible refine within_progIte ?_ ?_
    | with_reducible refine within_each fun _ => ?_
    | with_reducible refine within_all_map fun _ => ?_
    | with_reducible refine within_all_replicate ?_
    | split
    | (dsimp only; split)
    | dsimp only

theorem within_engineAccess {W : List Part} (h : partsLe [.mem .retA, .mem .retB, .regs 0x3,
    .regs 0x90, .ring, .lamp, .rcl] W = true) {a b c d e : _} (hp0 : d.Within W) (hp1 : e.Within
    W) : (engineAccess a b c d e).Within W := by
  unfold engineAccess
  repeat' first
    | with_reducible exact within_skip
    | with_reducible exact within_all_nil
    | with_reducible refine within_all_cons ?_ ?_
    | with_reducible refine within_seq ?_ ?_
    | with_reducible refine within_look fun _ => ?_
    | with_reducible refine within_when ?_
    | ((with_reducible refine within_regionConflict ?_); exact lel h (by decide +kernel))
    | ((with_reducible refine within_unmappedAccess ?_); exact lel h (by decide +kernel))
    | ((with_reducible refine within_foldl ?_ fun _ _ hs => ?_); (· exact within_skip); refine within_seq hs ?_)
    | with_reducible exact hp0
    | with_reducible exact hp1
    | with_reducible refine within_ite ?_ ?_
    | with_reducible refine within_progIte ?_ ?_
    | with_reducible refine within_each fun _ => ?_
    | with_reducible refine within_all_map fun _ => ?_
    | with_reducible refine within_all_replicate ?_
    | split
    | (dsimp only; split)
    | dsimp only

theorem within_engineWrite {W : List Part} (h : partsLe [.mem .plaza, .mem .lpddr, .mem
    .retA, .mem .retB, .mem .icon, .mem .img, .allRegs, .pend, .ring, .leases, .lamp, .rcl,
    .boot, .ave, .xlt, .wrd, .xng, .cam, .ras, .dst, .rbt, .sco, .sgn, .hv, .can, .svc, .ports,
    .brg] W = true) {a b c : _} (hp0 : c.Within W) : (engineWrite a b c).Within W := by
  unfold engineWrite
  repeat' first
    | with_reducible exact within_skip
    | with_reducible exact within_all_nil
    | with_reducible refine within_all_cons ?_ ?_
    | with_reducible refine within_seq ?_ ?_
    | with_reducible refine within_look fun _ => ?_
    | with_reducible refine within_when ?_
    | ((with_reducible refine within_engineAccess ?_ ?_ ?_); exact lel h (by decide +kernel))
    | ((with_reducible refine within_memWrite ?_); exact lel h (by decide +kernel))
    | ((with_reducible refine within_foldl ?_ fun _ _ hs => ?_); (· exact within_skip); refine within_seq hs ?_)
    | with_reducible exact hp0
    | with_reducible refine within_ite ?_ ?_
    | with_reducible refine within_progIte ?_ ?_
    | with_reducible refine within_each fun _ => ?_
    | with_reducible refine within_all_map fun _ => ?_
    | with_reducible refine within_all_replicate ?_
    | split
    | (dsimp only; split)
    | dsimp only

end Sys2Proof.Machine
end

