-- ==== Sys2Proof/Laws/WithinBridgeTx.lean ====
section
/-! SUPPORT. What each operation of Machine/BridgeTx.lean can change at most. -/

set_option Elab.async false
set_option linter.unreachableTactic false
set_option linter.unusedTactic false

namespace Sys2Proof.Machine

theorem within_sendPkt {W : List Part} (h : partsLe [.brg] W = true) {a : _} : (sendPkt
    a).Within W := by
  unfold sendPkt
  repeat' first
    | with_reducible exact within_skip
    | with_reducible exact within_all_nil
    | with_reducible refine within_all_cons ?_ ?_
    | with_reducible refine within_seq ?_ ?_
    | with_reducible refine within_look fun _ => ?_
    | with_reducible refine within_when ?_
    | ((with_reducible refine within_modBrg ?_); exact lec h (by decide +kernel))

theorem within_sendFree {W : List Part} (h : partsLe [.brg] W = true) {a b : _} : (sendFree
    a b).Within W := by
  unfold sendFree
  repeat' first
    | with_reducible exact within_skip
    | with_reducible exact within_all_nil
    | with_reducible refine within_all_cons ?_ ?_
    | with_reducible refine within_seq ?_ ?_
    | with_reducible refine within_look fun _ => ?_
    | with_reducible refine within_when ?_
    | ((with_reducible refine within_modBrg ?_); exact lec h (by decide +kernel))

theorem within_exportSignal {W : List Part} (h : partsLe [.mem .retA, .mem .retB, .regs
    0x10, .regs 0x20, .regs 0x31, .regs 0x40, .regs 0x41, .regs 0x42, .regs 0x50, .regs 0x60,
    .regs 0x62, .regs 0x70, .regs 0x90, .ring, .lamp, .rcl, .brg] W = true) {a b c : _} :
    (exportSignal a b c).Within W := by
  unfold exportSignal
  repeat' first
    | with_reducible exact within_skip
    | with_reducible exact within_all_nil
    | with_reducible refine within_all_cons ?_ ?_
    | with_reducible refine within_seq ?_ ?_
    | with_reducible refine within_look fun _ => ?_
    | with_reducible refine within_when ?_
    | ((with_reducible refine within_useRegs h (by decide +kernel) ?_); exact lel h (by decide +kernel))
    | ((with_reducible refine within_sendPkt ?_); exact lel h (by decide +kernel))
    | ((with_reducible refine within_foldl ?_ fun _ _ hs => ?_); (· exact within_skip); refine within_seq hs ?_)
    | with_reducible refine within_ite ?_ ?_
    | with_reducible refine within_progIte ?_ ?_
    | with_reducible refine within_each fun _ => ?_
    | with_reducible refine within_all_map fun _ => ?_
    | with_reducible refine within_all_replicate ?_
    | split
    | (dsimp only; split)
    | dsimp only

end Sys2Proof.Machine
end

