-- ==== Sys2Proof/Laws/WithinCrossings.lean ====
section
/-! SUPPORT. What each operation of Machine/Crossings.lean can change at most. -/

set_option Elab.async false
set_option linter.unreachableTactic false
set_option linter.unusedTactic false

namespace Sys2Proof.Machine

theorem within_putCrossing {W : List Part} (h : partsLe [.mem .retA, .mem .retB, .lamp,
    .xng] W = true) {a b : _} : (putCrossing a b).Within W := by
  unfold putCrossing
  repeat' first
    | with_reducible exact within_skip
    | with_reducible exact within_all_nil
    | with_reducible refine within_all_cons ?_ ?_
    | with_reducible refine within_seq ?_ ?_
    | with_reducible refine within_look fun _ => ?_
    | with_reducible refine within_when ?_
    | ((with_reducible refine within_modXng ?_); exact lec h (by decide +kernel))
    | ((with_reducible refine within_retWrite ?_); exact lel h (by decide +kernel))

theorem within_freeMutexRecord {W : List Part} (h : partsLe [.leases] W = true) {a : _} :
    (freeMutexRecord a).Within W := by
  unfold freeMutexRecord
  repeat' first
    | with_reducible exact within_skip
    | with_reducible exact within_all_nil
    | with_reducible refine within_all_cons ?_ ?_
    | with_reducible refine within_seq ?_ ?_
    | with_reducible refine within_look fun _ => ?_
    | with_reducible refine within_when ?_
    | ((with_reducible refine within_freeLease ?_); exact lel h (by decide +kernel))
    | ((with_reducible refine within_foldl ?_ fun _ _ hs => ?_); (· exact within_skip); refine within_seq hs ?_)
    | with_reducible refine within_ite ?_ ?_
    | with_reducible refine within_progIte ?_ ?_
    | with_reducible refine within_each fun _ => ?_
    | with_reducible refine within_all_map fun _ => ?_
    | with_reducible refine within_all_replicate ?_
    | split

theorem within_notifyWardens {W : List Part} (h : partsLe [.wrd] W = true) :
    notifyWardens.Within W := by
  unfold notifyWardens
  repeat' first
    | with_reducible exact within_skip
    | with_reducible exact within_all_nil
    | with_reducible refine within_all_cons ?_ ?_
    | with_reducible refine within_seq ?_ ?_
    | with_reducible refine within_look fun _ => ?_
    | with_reducible refine within_when ?_
    | ((with_reducible refine within_modWrd ?_); exact lec h (by decide +kernel))
    | with_reducible refine within_each fun _ => ?_
    | with_reducible refine within_all_map fun _ => ?_
    | with_reducible refine within_all_replicate ?_
    | split
    | (dsimp only; split)
    | dsimp only

theorem within_checkCrossing {W : List Part} (h : partsLe [.mem .retA, .mem .retB, .regs
    0x6, .regs 0x90, .ring, .leases, .lamp, .rcl, .wrd, .xng] W = true) {a : _} : (checkCrossing
    a).Within W := by
  unfold checkCrossing
  repeat' first
    | with_reducible exact within_skip
    | with_reducible exact within_all_nil
    | with_reducible refine within_all_cons ?_ ?_
    | with_reducible refine within_seq ?_ ?_
    | with_reducible refine within_look fun _ => ?_
    | with_reducible refine within_when ?_
    | ((with_reducible refine within_setF rfl ?_); exact lec h (by decide +kernel))
    | ((with_reducible refine within_raise ?_ ?_) <;> first | exact lel h (by decide +kernel) | exact partsLe_trans (event_le _) (lel h (by decide +kernel)))
    | ((with_reducible refine within_freeMutexRecord ?_); exact lel h (by decide +kernel))
    | ((with_reducible refine within_notifyWardens ?_); exact lel h (by decide +kernel))
    | ((with_reducible refine within_putCrossing ?_); exact lel h (by decide +kernel))
    | ((with_reducible refine within_foldl ?_ fun _ _ hs => ?_); (· exact within_skip); refine within_seq hs ?_)
    | with_reducible refine within_ite ?_ ?_
    | with_reducible refine within_progIte ?_ ?_
    | with_reducible refine within_each fun _ => ?_
    | with_reducible refine within_all_map fun _ => ?_
    | with_reducible refine within_all_replicate ?_
    | split
    | (dsimp only; split)
    | dsimp only

theorem within_changeCounter {W : List Part} (h : partsLe [.mem .retA, .mem .retB, .regs
    0x10, .regs 0x20, .regs 0x31, .regs 0x40, .regs 0x41, .regs 0x42, .regs 0x50, .regs 0x60,
    .regs 0x62, .regs 0x70, .regs 0x90, .ring, .lamp, .rcl, .wrd, .xng, .brg] W = true) {a b c d
    : _} : (changeCounter a b c d).Within W := by
  unfold changeCounter
  repeat' first
    | with_reducible exact within_skip
    | with_reducible exact within_all_nil
    | with_reducible refine within_all_cons ?_ ?_
    | with_reducible refine within_seq ?_ ?_
    | with_reducible refine within_look fun _ => ?_
    | with_reducible refine within_when ?_
    | ((with_reducible refine within_exportSignal ?_); exact lel h (by decide +kernel))
    | ((with_reducible refine within_notifyWardens ?_); exact lel h (by decide +kernel))
    | ((with_reducible refine within_putCrossing ?_); exact lel h (by decide +kernel))
    | ((with_reducible refine within_foldl ?_ fun _ _ hs => ?_); (· exact within_skip); refine within_seq hs ?_)
    | with_reducible refine within_ite ?_ ?_
    | with_reducible refine within_progIte ?_ ?_
    | with_reducible refine within_each fun _ => ?_
    | with_reducible refine within_all_map fun _ => ?_
    | with_reducible refine within_all_replicate ?_
    | split
    | (dsimp only; split)
    | dsimp only

theorem within_refuseSignal {W : List Part} (h : partsLe [.mem .retA, .mem .retB, .regs 0x6,
    .regs 0x10, .regs 0x20, .regs 0x31, .regs 0x40, .regs 0x41, .regs 0x42, .regs 0x50, .regs
    0x60, .regs 0x62, .regs 0x70, .regs 0x90, .ring, .lamp, .rcl] W = true) {a b : _} :
    (refuseSignal a b).Within W := by
  unfold refuseSignal
  repeat' first
    | with_reducible exact within_skip
    | with_reducible exact within_all_nil
    | with_reducible refine within_all_cons ?_ ?_
    | with_reducible refine within_seq ?_ ?_
    | with_reducible refine within_look fun _ => ?_
    | with_reducible refine within_when ?_
    | ((with_reducible refine within_setF rfl ?_); exact lec h (by decide +kernel))
    | ((with_reducible refine within_raise ?_ ?_) <;> first | exact lel h (by decide +kernel) | exact partsLe_trans (event_le _) (lel h (by decide +kernel)))
    | ((with_reducible refine within_foldl ?_ fun _ _ hs => ?_); (· exact within_skip); refine within_seq hs ?_)
    | with_reducible refine within_ite ?_ ?_
    | with_reducible refine within_progIte ?_ ?_
    | with_reducible refine within_each fun _ => ?_
    | with_reducible refine within_all_map fun _ => ?_
    | with_reducible refine within_all_replicate ?_
    | split
    | (dsimp only; split)
    | dsimp only

theorem within_signalCounter {W : List Part} (h : partsLe [.mem .retA, .mem .retB, .regs
    0x6, .regs 0x10, .regs 0x20, .regs 0x31, .regs 0x40, .regs 0x41, .regs 0x42, .regs 0x50,
    .regs 0x60, .regs 0x62, .regs 0x70, .regs 0x90, .ring, .leases, .lamp, .rcl, .wrd, .xng,
    .brg] W = true) {a b c d : _} : (signalCounter a b c d).Within W := by
  unfold signalCounter
  repeat' first
    | with_reducible exact within_skip
    | with_reducible exact within_all_nil
    | with_reducible refine within_all_cons ?_ ?_
    | with_reducible refine within_seq ?_ ?_
    | with_reducible refine within_look fun _ => ?_
    | with_reducible refine within_when ?_
    | ((with_reducible refine within_changeCounter ?_); exact lel h (by decide +kernel))
    | ((with_reducible refine within_checkCrossing ?_); exact lel h (by decide +kernel))
    | ((with_reducible refine within_refuseSignal ?_); exact lel h (by decide +kernel))
    | ((with_reducible refine within_foldl ?_ fun _ _ hs => ?_); (· exact within_skip); refine within_seq hs ?_)
    | with_reducible refine within_ite ?_ ?_
    | with_reducible refine within_progIte ?_ ?_
    | with_reducible refine within_each fun _ => ?_
    | with_reducible refine within_all_map fun _ => ?_
    | with_reducible refine within_all_replicate ?_
    | split
    | (dsimp only; split)
    | dsimp only

theorem within_signalRelease {W : List Part} (h : partsLe [.mem .retA, .mem .retB, .regs
    0x6, .regs 0x10, .regs 0x20, .regs 0x31, .regs 0x40, .regs 0x41, .regs 0x42, .regs 0x50,
    .regs 0x60, .regs 0x62, .regs 0x70, .regs 0x90, .ring, .leases, .lamp, .rcl, .wrd, .xng] W =
    true) {a b : _} : (signalRelease a b).Within W := by
  unfold signalRelease
  repeat' first
    | with_reducible exact within_skip
    | with_reducible exact within_all_nil
    | with_reducible refine within_all_cons ?_ ?_
    | with_reducible refine within_seq ?_ ?_
    | with_reducible refine within_look fun _ => ?_
    | with_reducible refine within_when ?_
    | ((with_reducible refine within_setF rfl ?_); exact lec h (by decide +kernel))
    | ((with_reducible refine within_raise ?_ ?_) <;> first | exact lel h (by decide +kernel) | exact partsLe_trans (event_le _) (lel h (by decide +kernel)))
    | ((with_reducible refine within_checkCrossing ?_); exact lel h (by decide +kernel))
    | ((with_reducible refine within_freeMutexRecord ?_); exact lel h (by decide +kernel))
    | ((with_reducible refine within_notifyWardens ?_); exact lel h (by decide +kernel))
    | ((with_reducible refine within_putCrossing ?_); exact lel h (by decide +kernel))
    | ((with_reducible refine within_refuseSignal ?_); exact lel h (by decide +kernel))
    | ((with_reducible refine within_foldl ?_ fun _ _ hs => ?_); (· exact within_skip); refine within_seq hs ?_)
    | with_reducible refine within_ite ?_ ?_
    | with_reducible refine within_progIte ?_ ?_
    | with_reducible refine within_each fun _ => ?_
    | with_reducible refine within_all_map fun _ => ?_
    | with_reducible refine within_all_replicate ?_
    | split
    | (dsimp only; split)
    | dsimp only

theorem within_performSignal {W : List Part} (h : partsLe [.mem .retA, .mem .retB, .regs
    0x6, .regs 0x10, .regs 0x20, .regs 0x31, .regs 0x40, .regs 0x41, .regs 0x42, .regs 0x50,
    .regs 0x60, .regs 0x62, .regs 0x70, .regs 0x90, .ring, .leases, .lamp, .rcl, .wrd, .xng,
    .brg] W = true) {a b c : _} : (performSignal a b c).Within W := by
  unfold performSignal
  repeat' first
    | with_reducible exact within_skip
    | with_reducible exact within_all_nil
    | with_reducible refine within_all_cons ?_ ?_
    | with_reducible refine within_seq ?_ ?_
    | with_reducible refine within_look fun _ => ?_
    | with_reducible refine within_when ?_
    | ((with_reducible refine within_refuseSignal ?_); exact lel h (by decide +kernel))
    | ((with_reducible refine within_signalCounter ?_); exact lel h (by decide +kernel))
    | ((with_reducible refine within_signalRelease ?_); exact lel h (by decide +kernel))
    | ((with_reducible refine within_foldl ?_ fun _ _ hs => ?_); (· exact within_skip); refine within_seq hs ?_)
    | with_reducible refine within_ite ?_ ?_
    | with_reducible refine within_progIte ?_ ?_
    | with_reducible refine within_each fun _ => ?_
    | with_reducible refine within_all_map fun _ => ?_
    | with_reducible refine within_all_replicate ?_
    | split
    | (dsimp only; split)
    | dsimp only

theorem within_deviceEvent {W : List Part} (h : partsLe [.mem .retA, .mem .retB, .regs 0x6,
    .regs 0x10, .regs 0x20, .regs 0x31, .regs 0x40, .regs 0x41, .regs 0x42, .regs 0x50, .regs
    0x60, .regs 0x62, .regs 0x70, .regs 0x90, .ring, .leases, .lamp, .rcl, .wrd, .xng, .brg] W =
    true) {a b : _} : (deviceEvent a b).Within W := by
  unfold deviceEvent
  repeat' first
    | with_reducible exact within_skip
    | with_reducible exact within_all_nil
    | with_reducible refine within_all_cons ?_ ?_
    | with_reducible refine within_seq ?_ ?_
    | with_reducible refine within_look fun _ => ?_
    | with_reducible refine within_when ?_
    | ((with_reducible refine within_modXng ?_); exact lec h (by decide +kernel))
    | ((with_reducible refine within_changeCounter ?_); exact lel h (by decide +kernel))
    | ((with_reducible refine within_checkCrossing ?_); exact lel h (by decide +kernel))
    | ((with_reducible refine within_foldl ?_ fun _ _ hs => ?_); (· exact within_skip); refine within_seq hs ?_)
    | with_reducible refine within_ite ?_ ?_
    | with_reducible refine within_progIte ?_ ?_
    | with_reducible refine within_each fun _ => ?_
    | with_reducible refine within_all_map fun _ => ?_
    | with_reducible refine within_all_replicate ?_
    | split
    | (dsimp only; split)
    | dsimp only

theorem within_deviceSet {W : List Part} (h : partsLe [.mem .retA, .mem .retB, .regs 0x6,
    .regs 0x10, .regs 0x20, .regs 0x31, .regs 0x40, .regs 0x41, .regs 0x42, .regs 0x50, .regs
    0x60, .regs 0x62, .regs 0x70, .regs 0x90, .ring, .leases, .lamp, .rcl, .wrd, .xng, .brg] W =
    true) {a b c : _} : (deviceSet a b c).Within W := by
  unfold deviceSet
  repeat' first
    | with_reducible exact within_skip
    | with_reducible exact within_all_nil
    | with_reducible refine within_all_cons ?_ ?_
    | with_reducible refine within_seq ?_ ?_
    | with_reducible refine within_look fun _ => ?_
    | with_reducible refine within_when ?_
    | ((with_reducible refine within_modXng ?_); exact lec h (by decide +kernel))
    | ((with_reducible refine within_changeCounter ?_); exact lel h (by decide +kernel))
    | ((with_reducible refine within_checkCrossing ?_); exact lel h (by decide +kernel))
    | ((with_reducible refine within_foldl ?_ fun _ _ hs => ?_); (· exact within_skip); refine within_seq hs ?_)
    | with_reducible refine within_ite ?_ ?_
    | with_reducible refine within_progIte ?_ ?_
    | with_reducible refine within_each fun _ => ?_
    | with_reducible refine within_all_map fun _ => ?_
    | with_reducible refine within_all_replicate ?_
    | split
    | (dsimp only; split)
    | dsimp only

theorem within_accessWaits {W : List Part} (h : partsLe [.mem .retA, .mem .retB, .regs 0x6,
    .regs 0x10, .regs 0x20, .regs 0x31, .regs 0x40, .regs 0x41, .regs 0x42, .regs 0x50, .regs
    0x60, .regs 0x62, .regs 0x70, .regs 0x90, .ring, .leases, .lamp, .rcl, .wrd, .xng] W = true)
    {a : _} : (accessWaits a).Within W := by
  unfold accessWaits
  repeat' first
    | with_reducible exact within_skip
    | with_reducible exact within_all_nil
    | with_reducible refine within_all_cons ?_ ?_
    | with_reducible refine within_seq ?_ ?_
    | with_reducible refine within_look fun _ => ?_
    | with_reducible refine within_when ?_
    | ((with_reducible refine within_checkCrossing ?_); exact lel h (by decide +kernel))
    | ((with_reducible refine within_refuseSignal ?_); exact lel h (by decide +kernel))
    | ((with_reducible refine within_foldl ?_ fun _ _ hs => ?_); (· exact within_skip); refine within_seq hs ?_)
    | with_reducible refine within_ite ?_ ?_
    | with_reducible refine within_progIte ?_ ?_
    | with_reducible refine within_each fun _ => ?_
    | with_reducible refine within_all_map fun _ => ?_
    | with_reducible refine within_all_replicate ?_
    | split
    | (dsimp only; split)
    | dsimp only

theorem within_giveMutex {W : List Part} (h : partsLe [.mem .retA, .mem .retB, .leases,
    .lamp, .wrd, .xng] W = true) {a b c : _} : (giveMutex a b c).Within W := by
  unfold giveMutex
  repeat' first
    | with_reducible exact within_skip
    | with_reducible exact within_all_nil
    | with_reducible refine within_all_cons ?_ ?_
    | with_reducible refine within_seq ?_ ?_
    | with_reducible refine within_look fun _ => ?_
    | with_reducible refine within_when ?_
    | ((with_reducible refine within_notifyWardens ?_); exact lel h (by decide +kernel))
    | ((with_reducible refine within_putCrossing ?_); exact lel h (by decide +kernel))
    | ((with_reducible refine within_takeLease ?_); exact lel h (by decide +kernel))
    | ((with_reducible refine within_foldl ?_ fun _ _ hs => ?_); (· exact within_skip); refine within_seq hs ?_)
    | with_reducible refine within_ite ?_ ?_
    | with_reducible refine within_progIte ?_ ?_
    | with_reducible refine within_each fun _ => ?_
    | with_reducible refine within_all_map fun _ => ?_
    | with_reducible refine within_all_replicate ?_
    | split
    | (dsimp only; split)
    | dsimp only

theorem within_gspSet {W : List Part} (h : partsLe [.mem .retA, .mem .retB, .regs 0x6, .regs
    0x10, .regs 0x20, .regs 0x31, .regs 0x40, .regs 0x41, .regs 0x42, .regs 0x50, .regs 0x60,
    .regs 0x62, .regs 0x70, .regs 0x90, .bus, .ring, .leases, .lamp, .rcl, .wrd, .xng, .brg] W =
    true) {a b : _} : (gspSet a b).Within W := by
  unfold gspSet
  repeat' first
    | with_reducible exact within_skip
    | with_reducible exact within_all_nil
    | with_reducible refine within_all_cons ?_ ?_
    | with_reducible refine within_seq ?_ ?_
    | with_reducible refine within_look fun _ => ?_
    | with_reducible refine within_when ?_
    | ((with_reducible refine within_checkCrossing ?_); exact lel h (by decide +kernel))
    | ((with_reducible refine within_exportSignal ?_); exact lel h (by decide +kernel))
    | ((with_reducible refine within_freeMutexRecord ?_); exact lel h (by decide +kernel))
    | ((with_reducible refine within_giveMutex ?_); exact lel h (by decide +kernel))
    | ((with_reducible refine within_notifyWardens ?_); exact lel h (by decide +kernel))
    | ((with_reducible refine within_putCrossing ?_); exact lel h (by decide +kernel))
    | ((with_reducible refine within_refuseSignal ?_); exact lel h (by decide +kernel))
    | ((with_reducible refine within_respondError ?_); exact lel h (by decide +kernel))
    | ((with_reducible refine within_foldl ?_ fun _ _ hs => ?_); (· exact within_skip); refine within_seq hs ?_)
    | with_reducible refine within_ite ?_ ?_
    | with_reducible refine within_progIte ?_ ?_
    | with_reducible refine within_each fun _ => ?_
    | with_reducible refine within_all_map fun _ => ?_
    | with_reducible refine within_all_replicate ?_
    | split
    | (dsimp only; split)
    | dsimp only

end Sys2Proof.Machine
end

