-- ==== Sys2Proof/Laws/WithinOperands.lean ====
section
/-! SUPPORT. What each operation of Machine/Operands.lean can change at most. -/

set_option Elab.async false
set_option linter.unreachableTactic false
set_option linter.unusedTactic false

namespace Sys2Proof.Machine

theorem within_rangeWrite {W : List Part} (h : partsLe [.mem .plaza, .mem .lpddr, .mem
    .retA, .mem .retB, .mem .icon, .mem .img, .allRegs, .pend, .ring, .leases, .lamp, .rcl,
    .boot, .ave, .xlt, .wrd, .xng, .cam, .ras, .dst, .rbt, .sco, .sgn, .hv, .can, .svc, .ports,
    .brg] W = true) {a b c d : _} : (rangeWrite a b c d).Within W := by
  exact within_foldl within_skip fun _ _ hs =>
    within_seq hs (within_memWrite (lel h (by decide +kernel)))

end Sys2Proof.Machine
end

