-- ==== Sys2Proof/Laws/WithinJournal.lean ====
section
/-! SUPPORT. What each operation of Machine/Journal.lean can change at most. -/

set_option Elab.async false
set_option linter.unreachableTactic false
set_option linter.unusedTactic false

namespace Sys2Proof.Machine

theorem within_ijWrite {W : List Part} (h : partsLe [.mem .retA, .mem .retB, .lamp, .svc] W
    = true) {a b : _} : (ijWrite a b).Within W := by
  unfold ijWrite
  repeat' first
    | with_reducible exact within_skip
    | with_reducible exact within_all_nil
    | with_reducible refine within_all_cons ?_ ?_
    | with_reducible refine within_seq ?_ ?_
    | with_reducible refine within_look fun _ => ?_
    | with_reducible refine within_when ?_
    | ((with_reducible refine within_modSvc ?_); exact lec h (by decide +kernel))
    | ((with_reducible refine within_retWrite ?_); exact lel h (by decide +kernel))

theorem within_ijAdd {W : List Part} (h : partsLe [.mem .retA, .mem .retB, .lamp, .svc] W =
    true) {a b c d e f g : _} : (ijAdd a b c d e f g).Within W := by
  unfold ijAdd
  repeat' first
    | with_reducible exact within_skip
    | with_reducible exact within_all_nil
    | with_reducible refine within_all_cons ?_ ?_
    | with_reducible refine within_seq ?_ ?_
    | with_reducible refine within_look fun _ => ?_
    | with_reducible refine within_when ?_
    | ((with_reducible refine within_ijWrite ?_); exact lel h (by decide +kernel))

theorem within_newSnapshot {W : List Part} (h : partsLe [.mem .retA, .mem .retB, .regs 0x6,
    .regs 0x10, .regs 0x20, .regs 0x31, .regs 0x40, .regs 0x41, .regs 0x42, .regs 0x50, .regs
    0x60, .regs 0x62, .regs 0x70, .regs 0x90, .ring, .leases, .lamp, .rcl, .wrd, .xng, .svc,
    .brg] W = true) : newSnapshot.Within W := by
  unfold newSnapshot
  repeat' first
    | with_reducible exact within_skip
    | with_reducible exact within_all_nil
    | with_reducible refine within_all_cons ?_ ?_
    | with_reducible refine within_seq ?_ ?_
    | with_reducible refine within_look fun _ => ?_
    | with_reducible refine within_when ?_
    | ((with_reducible refine within_deviceEvent ?_); exact lel h (by decide +kernel))
    | ((with_reducible refine within_ijWrite ?_); exact lel h (by decide +kernel))
    | ((with_reducible refine within_foldl ?_ fun _ _ hs => ?_); (· exact within_skip); refine within_seq hs ?_)
    | with_reducible refine within_ite ?_ ?_
    | with_reducible refine within_progIte ?_ ?_
    | with_reducible refine within_each fun _ => ?_
    | with_reducible refine within_all_map fun _ => ?_
    | with_reducible refine within_all_replicate ?_
    | split
    | (dsimp only; split)
    | dsimp only

theorem within_snapWrite {W : List Part} (h : partsLe [.mem .retA, .mem .retB, .lamp, .svc]
    W = true) {a b c d e f : _} : (snapWrite a b c d e f).Within W := by
  unfold snapWrite
  repeat' first
    | with_reducible exact within_skip
    | with_reducible exact within_all_nil
    | with_reducible refine within_all_cons ?_ ?_
    | with_reducible refine within_seq ?_ ?_
    | with_reducible refine within_look fun _ => ?_
    | with_reducible refine within_when ?_
    | ((with_reducible refine within_ijWrite ?_); exact lel h (by decide +kernel))
    | ((with_reducible refine within_foldl ?_ fun _ _ hs => ?_); (· exact within_skip); refine within_seq hs ?_)
    | with_reducible refine within_ite ?_ ?_
    | with_reducible refine within_progIte ?_ ?_
    | with_reducible refine within_each fun _ => ?_
    | with_reducible refine within_all_map fun _ => ?_
    | with_reducible refine within_all_replicate ?_
    | split
    | (dsimp only; split)
    | dsimp only

theorem within_presentEvents {W : List Part} (h : partsLe [.mem .retA, .mem .retB, .lamp,
    .svc] W = true) {a : _} : (presentEvents a).Within W := by
  unfold presentEvents
  repeat' first
    | with_reducible exact within_skip
    | with_reducible exact within_all_nil
    | with_reducible refine within_all_cons ?_ ?_
    | with_reducible refine within_seq ?_ ?_
    | with_reducible refine within_look fun _ => ?_
    | with_reducible refine within_when ?_
    | ((with_reducible refine within_snapWrite ?_); exact lel h (by decide +kernel))
    | ((with_reducible refine within_foldl ?_ fun _ _ hs => ?_); (· exact within_skip); refine within_seq hs ?_)
    | with_reducible refine within_ite ?_ ?_
    | with_reducible refine within_progIte ?_ ?_
    | with_reducible refine within_each fun _ => ?_
    | with_reducible refine within_all_map fun _ => ?_
    | with_reducible refine within_all_replicate ?_
    | split
    | (dsimp only; split)
    | dsimp only

theorem within_stampConsumer {W : List Part} (h : partsLe [.mem .retA, .mem .retB, .regs
    0x6, .regs 0x10, .regs 0x20, .regs 0x31, .regs 0x40, .regs 0x41, .regs 0x42, .regs 0x50,
    .regs 0x60, .regs 0x62, .regs 0x70, .regs 0x90, .ring, .leases, .lamp, .rcl, .wrd, .xng,
    .svc, .brg] W = true) {a b : _} : (stampConsumer a b).Within W := by
  unfold stampConsumer
  repeat' first
    | with_reducible exact within_skip
    | with_reducible exact within_all_nil
    | with_reducible refine within_all_cons ?_ ?_
    | with_reducible refine within_seq ?_ ?_
    | with_reducible refine within_look fun _ => ?_
    | with_reducible refine within_when ?_
    | ((with_reducible refine within_raise ?_ ?_) <;> first | exact lel h (by decide +kernel) | exact partsLe_trans (event_le _) (lel h (by decide +kernel)))
    | ((with_reducible refine within_ijWrite ?_); exact lel h (by decide +kernel))
    | ((with_reducible refine within_newSnapshot ?_); exact lel h (by decide +kernel))
    | ((with_reducible refine within_presentEvents ?_); exact lel h (by decide +kernel))
    | ((with_reducible refine within_foldl ?_ fun _ _ hs => ?_); (· exact within_skip); refine within_seq hs ?_)
    | with_reducible refine within_ite ?_ ?_
    | with_reducible refine within_progIte ?_ ?_
    | with_reducible refine within_each fun _ => ?_
    | with_reducible refine within_all_map fun _ => ?_
    | with_reducible refine within_all_replicate ?_
    | split
    | (dsimp only; split)
    | dsimp only

theorem within_stampStop {W : List Part} (h : partsLe [.mem .retA, .mem .retB, .regs 0x6,
    .regs 0x10, .regs 0x20, .regs 0x31, .regs 0x40, .regs 0x41, .regs 0x42, .regs 0x50, .regs
    0x60, .regs 0x62, .regs 0x70, .regs 0x90, .ring, .leases, .lamp, .rcl, .wrd, .xng, .svc,
    .brg] W = true) {a : _} : (stampStop a).Within W := by
  unfold stampStop
  repeat' first
    | with_reducible exact within_skip
    | with_reducible exact within_all_nil
    | with_reducible refine within_all_cons ?_ ?_
    | with_reducible refine within_seq ?_ ?_
    | with_reducible refine within_look fun _ => ?_
    | with_reducible refine within_when ?_
    | ((with_reducible refine within_useRegs h (by decide +kernel) ?_); exact lel h (by decide +kernel))
    | ((with_reducible refine within_stampConsumer ?_); exact lel h (by decide +kernel))
    | ((with_reducible refine within_foldl ?_ fun _ _ hs => ?_); (· exact within_skip); refine within_seq hs ?_)
    | with_reducible refine within_ite ?_ ?_
    | with_reducible refine within_progIte ?_ ?_
    | with_reducible refine within_each fun _ => ?_
    | with_reducible refine within_all_map fun _ => ?_
    | with_reducible refine within_all_replicate ?_
    | split
    | (dsimp only; split)
    | dsimp only

theorem within_appendChange {W : List Part} (h : partsLe [.mem .retA, .mem .retB, .lamp] W =
    true) {a : _} : (appendChange a).Within W := by
  unfold appendChange
  repeat' first
    | with_reducible exact within_skip
    | with_reducible exact within_all_nil
    | with_reducible refine within_all_cons ?_ ?_
    | with_reducible refine within_seq ?_ ?_
    | with_reducible refine within_look fun _ => ?_
    | with_reducible refine within_when ?_
    | ((with_reducible refine within_retWrite ?_); exact lel h (by decide +kernel))
    | ((with_reducible refine within_foldl ?_ fun _ _ hs => ?_); (· exact within_skip); refine within_seq hs ?_)
    | with_reducible refine within_ite ?_ ?_
    | with_reducible refine within_progIte ?_ ?_
    | with_reducible refine within_each fun _ => ?_
    | with_reducible refine within_all_map fun _ => ?_
    | with_reducible refine within_all_replicate ?_
    | split
    | (dsimp only; split)
    | dsimp only

theorem within_appendVoid {W : List Part} (h : partsLe [.mem .retA, .mem .retB, .lamp] W =
    true) {a b : _} : (appendVoid a b).Within W := by
  unfold appendVoid
  repeat' first
    | with_reducible exact within_skip
    | with_reducible exact within_all_nil
    | with_reducible refine within_all_cons ?_ ?_
    | with_reducible refine within_seq ?_ ?_
    | with_reducible refine within_look fun _ => ?_
    | with_reducible refine within_when ?_
    | ((with_reducible refine within_appendChange ?_); exact lel h (by decide +kernel))
    | ((with_reducible refine within_foldl ?_ fun _ _ hs => ?_); (· exact within_skip); refine within_seq hs ?_)
    | with_reducible refine within_ite ?_ ?_
    | with_reducible refine within_progIte ?_ ?_
    | with_reducible refine within_each fun _ => ?_
    | with_reducible refine within_all_map fun _ => ?_
    | with_reducible refine within_all_replicate ?_
    | split
    | (dsimp only; split)
    | dsimp only

theorem within_appendRetirement {W : List Part} (h : partsLe [.mem .retA, .mem .retB, .lamp,
    .svc] W = true) {a b c : _} : (appendRetirement a b c).Within W := by
  unfold appendRetirement
  repeat' first
    | with_reducible exact within_skip
    | with_reducible exact within_all_nil
    | with_reducible refine within_all_cons ?_ ?_
    | with_reducible refine within_seq ?_ ?_
    | with_reducible refine within_look fun _ => ?_
    | with_reducible refine within_when ?_
    | ((with_reducible refine within_modSvc ?_); exact lec h (by decide +kernel))
    | ((with_reducible refine within_retWrite ?_); exact lel h (by decide +kernel))
    | ((with_reducible refine within_foldl ?_ fun _ _ hs => ?_); (· exact within_skip); refine within_seq hs ?_)
    | with_reducible refine within_ite ?_ ?_
    | with_reducible refine within_progIte ?_ ?_
    | with_reducible refine within_each fun _ => ?_
    | with_reducible refine within_all_map fun _ => ?_
    | with_reducible refine within_all_replicate ?_
    | split
    | (dsimp only; split)
    | dsimp only

end Sys2Proof.Machine
end

