-- ==== Sys2Proof/Laws/WithinStands.lean ====
section
/-! SUPPORT. What each operation of Machine/Stands.lean can change at most. -/

set_option Elab.async false
set_option linter.unreachableTactic false
set_option linter.unusedTactic false

namespace Sys2Proof.Machine

theorem within_modTrack {W : List Part} (h : partsLe [.rbt] W = true) {a b : _} : (modTrack
    a b).Within W := by
  unfold modTrack
  repeat' first
    | with_reducible exact within_skip
    | with_reducible exact within_all_nil
    | with_reducible refine within_all_cons ?_ ?_
    | with_reducible refine within_seq ?_ ?_
    | with_reducible refine within_look fun _ => ?_
    | with_reducible refine within_when ?_
    | ((with_reducible refine within_modRbt ?_); exact lec h (by decide +kernel))

theorem within_unlockStand {W : List Part} (h : partsLe [.mem .retA, .mem .retB, .regs 0x10,
    .regs 0x20, .regs 0x31, .regs 0x40, .regs 0x41, .regs 0x42, .regs 0x50, .regs 0x60, .regs
    0x62, .regs 0x70, .regs 0x90, .ring, .leases, .lamp, .rcl, .ave] W = true) {a b : _} :
    (unlockStand a b).Within W := by
  unfold unlockStand
  repeat' first
    | with_reducible exact within_skip
    | with_reducible exact within_all_nil
    | with_reducible refine within_all_cons ?_ ?_
    | with_reducible refine within_seq ?_ ?_
    | with_reducible refine within_look fun _ => ?_
    | with_reducible refine within_when ?_
    | ((with_reducible refine within_releaseLock ?_); exact lel h (by decide +kernel))

theorem within_releaseStands {W : List Part} (h : partsLe [.mem .retA, .mem .retB, .regs
    0x10, .regs 0x20, .regs 0x31, .regs 0x40, .regs 0x41, .regs 0x42, .regs 0x50, .regs 0x60,
    .regs 0x62, .regs 0x70, .regs 0x90, .ring, .leases, .lamp, .rcl, .ave, .rbt] W = true) {a :
    _} : (releaseStands a).Within W := by
  unfold releaseStands
  repeat' first
    | with_reducible exact within_skip
    | with_reducible exact within_all_nil
    | with_reducible refine within_all_cons ?_ ?_
    | with_reducible refine within_seq ?_ ?_
    | with_reducible refine within_look fun _ => ?_
    | with_reducible refine within_when ?_
    | ((with_reducible refine within_modTrack ?_); exact lel h (by decide +kernel))
    | ((with_reducible refine within_unlockStand ?_); exact lel h (by decide +kernel))
    | ((with_reducible refine within_foldl ?_ fun _ _ hs => ?_); (· exact within_skip); refine within_seq hs ?_)
    | with_reducible refine within_ite ?_ ?_
    | with_reducible refine within_progIte ?_ ?_
    | with_reducible refine within_each fun _ => ?_
    | with_reducible refine within_all_map fun _ => ?_
    | with_reducible refine within_all_replicate ?_
    | split
    | (dsimp only; split)
    | dsimp only

end Sys2Proof.Machine
end

