-- ==== Sys2Proof/Laws/WithinWardenOps.lean ====
section
/-! SUPPORT. What each operation of Machine/WardenOps.lean can change at most. -/

set_option Elab.async false
set_option linter.unreachableTactic false
set_option linter.unusedTactic false

namespace Sys2Proof.Machine

theorem within_modQueue {W : List Part} (h : partsLe [.wrd] W = true) {a b : _} : (modQueue
    a b).Within W := by
  unfold modQueue
  repeat' first
    | with_reducible exact within_skip
    | with_reducible exact within_all_nil
    | with_reducible refine within_all_cons ?_ ?_
    | with_reducible refine within_seq ?_ ?_
    | with_reducible refine within_look fun _ => ?_
    | with_reducible refine within_when ?_
    | ((with_reducible refine within_modWrd ?_); exact lec h (by decide +kernel))

theorem within_setSlot {W : List Part} (h : partsLe [.wrd] W = true) {a b : _} : (setSlot a
    b).Within W := by
  unfold setSlot
  repeat' first
    | with_reducible exact within_skip
    | with_reducible exact within_all_nil
    | with_reducible refine within_all_cons ?_ ?_
    | with_reducible refine within_seq ?_ ?_
    | with_reducible refine within_look fun _ => ?_
    | with_reducible refine within_when ?_
    | ((with_reducible refine within_modWrd ?_); exact lec h (by decide +kernel))

theorem within_modSlot {W : List Part} (h : partsLe [.wrd] W = true) {a b : _} : (modSlot a
    b).Within W := by
  unfold modSlot
  repeat' first
    | with_reducible exact within_skip
    | with_reducible exact within_all_nil
    | with_reducible refine within_all_cons ?_ ?_
    | with_reducible refine within_seq ?_ ?_
    | with_reducible refine within_look fun _ => ?_
    | with_reducible refine within_when ?_
    | ((with_reducible refine within_modWrd ?_); exact lec h (by decide +kernel))
    | ((with_reducible refine within_foldl ?_ fun _ _ hs => ?_); (· exact within_skip); refine within_seq hs ?_)
    | with_reducible refine within_ite ?_ ?_
    | with_reducible refine within_progIte ?_ ?_
    | with_reducible refine within_each fun _ => ?_
    | with_reducible refine within_all_map fun _ => ?_
    | with_reducible refine within_all_replicate ?_
    | split
    | (dsimp only; split)
    | dsimp only

theorem within_requestPlls {W : List Part} (h : partsLe [.lamp] W = true) {a : _} :
    (requestPlls a).Within W := by
  unfold requestPlls
  repeat' first
    | with_reducible exact within_skip
    | with_reducible exact within_all_nil
    | with_reducible refine within_all_cons ?_ ?_
    | with_reducible refine within_seq ?_ ?_
    | with_reducible refine within_look fun _ => ?_
    | with_reducible refine within_when ?_
    | ((with_reducible refine within_modLamp ?_); exact lec h (by decide +kernel))
    | ((with_reducible refine within_foldl ?_ fun _ _ hs => ?_); (· exact within_skip); refine within_seq hs ?_)
    | with_reducible refine within_ite ?_ ?_
    | with_reducible refine within_progIte ?_ ?_
    | with_reducible refine within_each fun _ => ?_
    | with_reducible refine within_all_map fun _ => ?_
    | with_reducible refine within_all_replicate ?_
    | split
    | (dsimp only; split)
    | dsimp only

theorem within_reclockUnits {W : List Part} (h : partsLe [.regs 0x0] W = true) :
    reclockUnits.Within W := by
  unfold reclockUnits
  repeat' first
    | with_reducible exact within_skip
    | with_reducible exact within_all_nil
    | with_reducible refine within_all_cons ?_ ?_
    | with_reducible refine within_seq ?_ ?_
    | with_reducible refine within_look fun _ => ?_
    | with_reducible refine within_when ?_
    | ((with_reducible refine within_setReg rfl ?_); exact lec h (by decide +kernel))
    | ((with_reducible refine within_foldl ?_ fun _ _ hs => ?_); (· exact within_skip); refine within_seq hs ?_)
    | with_reducible refine within_ite ?_ ?_
    | with_reducible refine within_progIte ?_ ?_
    | with_reducible refine within_each fun _ => ?_
    | with_reducible refine within_all_map fun _ => ?_
    | with_reducible refine within_all_replicate ?_
    | split
    | (dsimp only; split)
    | dsimp only

theorem within_freeRunList {W : List Part} (h : partsLe [.xlt] W = true) {a : _} :
    (freeRunList a).Within W := by
  unfold freeRunList
  repeat' first
    | with_reducible exact within_skip
    | with_reducible exact within_all_nil
    | with_reducible refine within_all_cons ?_ ?_
    | with_reducible refine within_seq ?_ ?_
    | with_reducible refine within_look fun _ => ?_
    | with_reducible refine within_when ?_
    | ((with_reducible refine within_modXlt ?_); exact lec h (by decide +kernel))
    | ((with_reducible refine within_foldl ?_ fun _ _ hs => ?_); (· exact within_skip); refine within_seq hs ?_)
    | with_reducible refine within_ite ?_ ?_
    | with_reducible refine within_progIte ?_ ?_
    | with_reducible refine within_each fun _ => ?_
    | with_reducible refine within_all_map fun _ => ?_
    | with_reducible refine within_all_replicate ?_
    | split
    | (dsimp only; split)
    | dsimp only

theorem within_bumpGeneration {W : List Part} (h : partsLe [.regs 0x4, .xlt] W = true) {a :
    _} : (bumpGeneration a).Within W := by
  unfold bumpGeneration
  repeat' first
    | with_reducible exact within_skip
    | with_reducible exact within_all_nil
    | with_reducible refine within_all_cons ?_ ?_
    | with_reducible refine within_seq ?_ ?_
    | with_reducible refine within_look fun _ => ?_
    | with_reducible refine within_when ?_
    | ((with_reducible refine within_modXlt ?_); exact lec h (by decide +kernel))
    | ((with_reducible refine within_setReg rfl ?_); exact lec h (by decide +kernel))
    | ((with_reducible refine within_foldl ?_ fun _ _ hs => ?_); (· exact within_skip); refine within_seq hs ?_)
    | with_reducible refine within_ite ?_ ?_
    | with_reducible refine within_progIte ?_ ?_
    | with_reducible refine within_each fun _ => ?_
    | with_reducible refine within_all_map fun _ => ?_
    | with_reducible refine within_all_replicate ?_
    | split
    | (dsimp only; split)
    | dsimp only

theorem within_settleInvalidations {W : List Part} (h : partsLe [.mem .retA, .mem .retB,
    .regs 0x4, .regs 0x6, .regs 0x10, .regs 0x20, .regs 0x31, .regs 0x40, .regs 0x41, .regs
    0x42, .regs 0x50, .regs 0x60, .regs 0x62, .regs 0x70, .regs 0x90, .ring, .leases, .lamp,
    .rcl, .xlt, .wrd, .xng, .brg] W = true) : settleInvalidations.Within W := by
  unfold settleInvalidations
  repeat' first
    | with_reducible exact within_skip
    | with_reducible exact within_all_nil
    | with_reducible refine within_all_cons ?_ ?_
    | with_reducible refine within_seq ?_ ?_
    | with_reducible refine within_look fun _ => ?_
    | with_reducible refine within_when ?_
    | ((with_reducible refine within_modXlt ?_); exact lec h (by decide +kernel))
    | ((with_reducible refine within_setReg rfl ?_); exact lec h (by decide +kernel))
    | ((with_reducible refine within_setF rfl ?_); exact lec h (by decide +kernel))
    | ((with_reducible refine within_bumpGeneration ?_); exact lel h (by decide +kernel))
    | ((with_reducible refine within_deviceEvent ?_); exact lel h (by decide +kernel))
    | ((with_reducible refine within_foldl ?_ fun _ _ hs => ?_); (· exact within_skip); refine within_seq hs ?_)
    | with_reducible refine within_ite ?_ ?_
    | with_reducible refine within_progIte ?_ ?_
    | with_reducible refine within_each fun _ => ?_
    | with_reducible refine within_all_map fun _ => ?_
    | with_reducible refine within_all_replicate ?_
    | split
    | (dsimp only; split)
    | dsimp only

theorem within_invalidate {W : List Part} (h : partsLe [.mem .retA, .mem .retB, .regs 0x4,
    .regs 0x6, .regs 0x10, .regs 0x20, .regs 0x31, .regs 0x40, .regs 0x41, .regs 0x42, .regs
    0x50, .regs 0x60, .regs 0x62, .regs 0x70, .regs 0x90, .ring, .leases, .lamp, .rcl, .xlt,
    .wrd, .xng, .brg] W = true) {a : _} : (invalidate a).Within W := by
  unfold invalidate
  repeat' first
    | with_reducible exact within_skip
    | with_reducible exact within_all_nil
    | with_reducible refine within_all_cons ?_ ?_
    | with_reducible refine within_seq ?_ ?_
    | with_reducible refine within_look fun _ => ?_
    | with_reducible refine within_when ?_
    | ((with_reducible refine within_bumpGeneration ?_); exact lel h (by decide +kernel))
    | ((with_reducible refine within_settleInvalidations ?_); exact lel h (by decide +kernel))
    | ((with_reducible refine within_foldl ?_ fun _ _ hs => ?_); (· exact within_skip); refine within_seq hs ?_)
    | with_reducible refine within_ite ?_ ?_
    | with_reducible refine within_progIte ?_ ?_
    | with_reducible refine within_each fun _ => ?_
    | with_reducible refine within_all_map fun _ => ?_
    | with_reducible refine within_all_replicate ?_
    | split
    | (dsimp only; split)
    | dsimp only

theorem within_recordXltFault {W : List Part} (h : partsLe [.mem .retA, .mem .retB, .regs
    0x4, .regs 0x10, .regs 0x20, .regs 0x31, .regs 0x40, .regs 0x41, .regs 0x42, .regs 0x50,
    .regs 0x60, .regs 0x62, .regs 0x70, .regs 0x90, .ring, .lamp, .rcl] W = true) {a b c d e f :
    _} : (recordXltFault a b c d e f).Within W := by
  unfold recordXltFault
  repeat' first
    | with_reducible exact within_skip
    | with_reducible exact within_all_nil
    | with_reducible refine within_all_cons ?_ ?_
    | with_reducible refine within_seq ?_ ?_
    | with_reducible refine within_look fun _ => ?_
    | with_reducible refine within_when ?_
    | ((with_reducible refine within_setReg rfl ?_); exact lec h (by decide +kernel))
    | ((with_reducible refine within_setF rfl ?_); exact lec h (by decide +kernel))
    | ((with_reducible refine within_raise ?_ ?_) <;> first | exact lel h (by decide +kernel) | exact partsLe_trans (event_le _) (lel h (by decide +kernel)))
    | ((with_reducible refine within_foldl ?_ fun _ _ hs => ?_); (· exact within_skip); refine within_seq hs ?_)
    | with_reducible refine within_ite ?_ ?_
    | with_reducible refine within_progIte ?_ ?_
    | with_reducible refine within_each fun _ => ?_
    | with_reducible refine within_all_map fun _ => ?_
    | with_reducible refine within_all_replicate ?_
    | split
    | (dsimp only; split)
    | dsimp only

theorem within_attach {W : List Part} (h : partsLe [.mem .retA, .mem .retB, .regs 0x3, .regs 0x4, .regs 0x10, .regs 0x20, .regs 0x31, .regs 0x40, .regs 0x41, .regs 0x42, .regs 0x50, .regs 0x60, .regs 0x62, .regs 0x70, .regs 0x90, .ring, .lamp, .rcl] W = true) {s : State} {st : Stop}
    {n : Nat} {p : Prog} (hp : s.attach st = .fail n p) : p.Within W := by
  unfold State.attach at hp
  split at hp
  · cases hp
  · split at hp
    · cases hp
      exact within_seq (within_setF rfl (lec h (by decide +kernel)))
        (within_raise (lel h (by decide +kernel)) (lel h (by decide +kernel)))
    · cases hp
      exact within_recordXltFault (lel h (by decide +kernel))
    · split at hp
      · cases hp
        exact within_raise (lel h (by decide +kernel)) (lel h (by decide +kernel))
      · dsimp only at hp
        split at hp
        · cases hp
          exact within_recordXltFault (lel h (by decide +kernel))
        · split at hp <;> cases hp

theorem within_placeRunList {W : List Part} (h : partsLe [.mem .plaza, .mem .lpddr, .mem
    .retA, .mem .retB, .mem .icon, .mem .img, .allRegs, .pend, .ring, .leases, .lamp, .rcl,
    .boot, .ave, .xlt, .wrd, .xng, .cam, .ras, .dst, .rbt, .sco, .sgn, .hv, .can, .svc, .ports,
    .brg] W = true) {a : _} : (placeRunList a).Within W := by
  unfold placeRunList
  repeat' first
    | with_reducible exact within_skip
    | with_reducible exact within_all_nil
    | with_reducible refine within_all_cons ?_ ?_
    | with_reducible refine within_seq ?_ ?_
    | with_reducible refine within_look fun _ => ?_
    | with_reducible refine within_when ?_
    | ((with_reducible refine within_modXlt ?_); exact lec h (by decide +kernel))
    | ((with_reducible refine within_engineWrite ?_ ?_); exact lel h (by decide +kernel))
    | ((with_reducible refine within_foldl ?_ fun _ _ hs => ?_); (· exact within_skip); refine within_seq hs ?_)
    | with_reducible refine within_ite ?_ ?_
    | with_reducible refine within_progIte ?_ ?_
    | with_reducible refine within_each fun _ => ?_
    | with_reducible refine within_all_map fun _ => ?_
    | with_reducible refine within_all_replicate ?_
    | split
    | (dsimp only; split)
    | dsimp only

theorem within_startCalibrations {W : List Part} (h : partsLe [.dst] W = true) :
    startCalibrations.Within W := by
  unfold startCalibrations
  repeat' first
    | with_reducible exact within_skip
    | with_reducible exact within_all_nil
    | with_reducible refine within_all_cons ?_ ?_
    | with_reducible refine within_seq ?_ ?_
    | with_reducible refine within_look fun _ => ?_
    | with_reducible refine within_when ?_
    | ((with_reducible refine within_modDst ?_); exact lec h (by decide +kernel))
    | ((with_reducible refine within_foldl ?_ fun _ _ hs => ?_); (· exact within_skip); refine within_seq hs ?_)
    | with_reducible refine within_ite ?_ ?_
    | with_reducible refine within_progIte ?_ ?_
    | with_reducible refine within_each fun _ => ?_
    | with_reducible refine within_all_map fun _ => ?_
    | with_reducible refine within_all_replicate ?_
    | split
    | (dsimp only; split)
    | dsimp only

theorem within_updateShadow {W : List Part} (h : partsLe [.wrd] W = true) {a : _} :
    (updateShadow a).Within W := by
  unfold updateShadow
  repeat' first
    | with_reducible exact within_skip
    | with_reducible exact within_all_nil
    | with_reducible refine within_all_cons ?_ ?_
    | with_reducible refine within_seq ?_ ?_
    | with_reducible refine within_look fun _ => ?_
    | with_reducible refine within_when ?_
    | ((with_reducible refine within_modWrd ?_); exact lec h (by decide +kernel))
    | ((with_reducible refine within_foldl ?_ fun _ _ hs => ?_); (· exact within_skip); refine within_seq hs ?_)
    | with_reducible refine within_ite ?_ ?_
    | with_reducible refine within_progIte ?_ ?_
    | with_reducible refine within_each fun _ => ?_
    | with_reducible refine within_all_map fun _ => ?_
    | with_reducible refine within_all_replicate ?_
    | split
    | (dsimp only; split)
    | dsimp only

theorem within_dropUnitWork {W : List Part} (h : partsLe [.mem .retA, .mem .retB, .regs
    0x10, .regs 0x20, .regs 0x31, .regs 0x40, .regs 0x41, .regs 0x42, .regs 0x50, .regs 0x60,
    .regs 0x62, .regs 0x70, .regs 0x90, .ring, .leases, .lamp, .rcl, .ave, .ras, .dst, .rbt,
    .brg] W = true) {a : _} : (dropUnitWork a).Within W := by
  unfold dropUnitWork
  repeat' first
    | with_reducible exact within_skip
    | with_reducible exact within_all_nil
    | with_reducible refine within_all_cons ?_ ?_
    | with_reducible refine within_seq ?_ ?_
    | with_reducible refine within_look fun _ => ?_
    | with_reducible refine within_when ?_
    | ((with_reducible refine within_modBrg ?_); exact lec h (by decide +kernel))
    | ((with_reducible refine within_modDst ?_); exact lec h (by decide +kernel))
    | ((with_reducible refine within_modRas ?_); exact lec h (by decide +kernel))
    | ((with_reducible refine within_modRbt ?_); exact lec h (by decide +kernel))
    | ((with_reducible refine within_freeLease ?_); exact lel h (by decide +kernel))
    | ((with_reducible refine within_releaseStands ?_); exact lel h (by decide +kernel))
    | ((with_reducible refine within_foldl ?_ fun _ _ hs => ?_); (· exact within_skip); refine within_seq hs ?_)
    | with_reducible refine within_ite ?_ ?_
    | with_reducible refine within_progIte ?_ ?_
    | with_reducible refine within_each fun _ => ?_
    | with_reducible refine within_all_map fun _ => ?_
    | with_reducible refine within_all_replicate ?_
    | split
    | (dsimp only; split)
    | dsimp only

theorem within_seatCores {W : List Part} (h : partsLe [.ras] W = true) {a b : _} :
    (seatCores a b).Within W := by
  unfold seatCores
  repeat' first
    | with_reducible exact within_skip
    | with_reducible exact within_all_nil
    | with_reducible refine within_all_cons ?_ ?_
    | with_reducible refine within_seq ?_ ?_
    | with_reducible refine within_look fun _ => ?_
    | with_reducible refine within_when ?_
    | ((with_reducible refine within_modRas ?_); exact lec h (by decide +kernel))
    | ((with_reducible refine within_foldl ?_ fun _ _ hs => ?_); (· exact within_skip); refine within_seq hs ?_)
    | with_reducible refine within_ite ?_ ?_
    | with_reducible refine within_progIte ?_ ?_
    | with_reducible refine within_each fun _ => ?_
    | with_reducible refine within_all_map fun _ => ?_
    | with_reducible refine within_all_replicate ?_
    | split
    | (dsimp only; split)
    | dsimp only

theorem within_resumeCore {W : List Part} (h : partsLe [.ras] W = true) {a b : _} :
    (resumeCore a b).Within W := by
  unfold resumeCore
  repeat' first
    | with_reducible exact within_skip
    | with_reducible exact within_all_nil
    | with_reducible refine within_all_cons ?_ ?_
    | with_reducible refine within_seq ?_ ?_
    | with_reducible refine within_look fun _ => ?_
    | with_reducible refine within_when ?_
    | ((with_reducible refine within_modRas ?_); exact lec h (by decide +kernel))
    | ((with_reducible refine within_foldl ?_ fun _ _ hs => ?_); (· exact within_skip); refine within_seq hs ?_)
    | with_reducible refine within_ite ?_ ?_
    | with_reducible refine within_progIte ?_ ?_
    | with_reducible refine within_each fun _ => ?_
    | with_reducible refine within_all_map fun _ => ?_
    | with_reducible refine within_all_replicate ?_
    | split
    | (dsimp only; split)
    | dsimp only

theorem within_regainCores {W : List Part} (h : partsLe [.leases, .lamp, .wrd, .ras] W =
    true) {a : _} : (regainCores a).Within W := by
  unfold regainCores
  repeat' first
    | with_reducible exact within_skip
    | with_reducible exact within_all_nil
    | with_reducible refine within_all_cons ?_ ?_
    | with_reducible refine within_seq ?_ ?_
    | with_reducible refine within_look fun _ => ?_
    | with_reducible refine within_when ?_
    | ((with_reducible refine within_modSlot ?_); exact lel h (by decide +kernel))
    | ((with_reducible refine within_requestPlls ?_); exact lel h (by decide +kernel))
    | ((with_reducible refine within_resumeCore ?_); exact lel h (by decide +kernel))
    | ((with_reducible refine within_takeLease ?_); exact lel h (by decide +kernel))
    | ((with_reducible refine within_foldl ?_ fun _ _ hs => ?_); (· exact within_skip); refine within_seq hs ?_)
    | with_reducible refine within_ite ?_ ?_
    | with_reducible refine within_progIte ?_ ?_
    | with_reducible refine within_each fun _ => ?_
    | with_reducible refine within_all_map fun _ => ?_
    | with_reducible refine within_all_replicate ?_
    | split
    | (dsimp only; split)
    | dsimp only

theorem within_releaseUnits {W : List Part} (h : partsLe [.mem .retA, .mem .retB, .regs
    0x10, .regs 0x20, .regs 0x31, .regs 0x40, .regs 0x41, .regs 0x42, .regs 0x50, .regs 0x60,
    .regs 0x62, .regs 0x70, .regs 0x90, .ring, .leases, .lamp, .rcl, .ave, .wrd, .ras, .dst,
    .rbt, .brg] W = true) {a : _} : (releaseUnits a).Within W := by
  unfold releaseUnits
  repeat' first
    | with_reducible exact within_skip
    | with_reducible exact within_all_nil
    | with_reducible refine within_all_cons ?_ ?_
    | with_reducible refine within_seq ?_ ?_
    | with_reducible refine within_look fun _ => ?_
    | with_reducible refine within_when ?_
    | ((with_reducible refine within_dropUnitWork ?_); exact lel h (by decide +kernel))
    | ((with_reducible refine within_freeLease ?_); exact lel h (by decide +kernel))
    | ((with_reducible refine within_modSlot ?_); exact lel h (by decide +kernel))
    | ((with_reducible refine within_regainCores ?_); exact lel h (by decide +kernel))
    | ((with_reducible refine within_startCalibrations ?_); exact lel h (by decide +kernel))
    | ((with_reducible refine within_foldl ?_ fun _ _ hs => ?_); (· exact within_skip); refine within_seq hs ?_)
    | with_reducible refine within_ite ?_ ?_
    | with_reducible refine within_progIte ?_ ?_
    | with_reducible refine within_each fun _ => ?_
    | with_reducible refine within_all_map fun _ => ?_
    | with_reducible refine within_all_replicate ?_
    | split
    | (dsimp only; split)
    | dsimp only

theorem within_slotSignal {W : List Part} (h : partsLe [.mem .retA, .mem .retB, .regs 0x6,
    .regs 0x10, .regs 0x20, .regs 0x31, .regs 0x40, .regs 0x41, .regs 0x42, .regs 0x50, .regs
    0x60, .regs 0x62, .regs 0x70, .regs 0x90, .ring, .leases, .lamp, .rcl, .wrd, .xng, .brg] W =
    true) {a b c d e : _} : (slotSignal a b c d e).Within W := by
  unfold slotSignal
  repeat' first
    | with_reducible exact within_skip
    | with_reducible exact within_all_nil
    | with_reducible refine within_all_cons ?_ ?_
    | with_reducible refine within_seq ?_ ?_
    | with_reducible refine within_look fun _ => ?_
    | with_reducible refine within_when ?_
    | ((with_reducible refine within_modSlot ?_); exact lel h (by decide +kernel))
    | ((with_reducible refine within_performSignal ?_); exact lel h (by decide +kernel))
    | ((with_reducible refine within_foldl ?_ fun _ _ hs => ?_); (· exact within_skip); refine within_seq hs ?_)
    | with_reducible refine within_ite ?_ ?_
    | with_reducible refine within_progIte ?_ ?_
    | with_reducible refine within_each fun _ => ?_
    | with_reducible refine within_all_map fun _ => ?_
    | with_reducible refine within_all_replicate ?_
    | split
    | (dsimp only; split)
    | dsimp only

theorem within_performSignals {W : List Part} (h : partsLe [.mem .retA, .mem .retB, .regs
    0x6, .regs 0x10, .regs 0x20, .regs 0x31, .regs 0x40, .regs 0x41, .regs 0x42, .regs 0x50,
    .regs 0x60, .regs 0x62, .regs 0x70, .regs 0x90, .ring, .leases, .lamp, .rcl, .wrd, .xng,
    .brg] W = true) {a b : _} : (performSignals a b).Within W := by
  unfold performSignals
  repeat' first
    | with_reducible exact within_skip
    | with_reducible exact within_all_nil
    | with_reducible refine within_all_cons ?_ ?_
    | with_reducible refine within_seq ?_ ?_
    | with_reducible refine within_look fun _ => ?_
    | with_reducible refine within_when ?_
    | ((with_reducible refine within_slotSignal ?_); exact lel h (by decide +kernel))
    | ((with_reducible refine within_foldl ?_ fun _ _ hs => ?_); (· exact within_skip); refine within_seq hs ?_)
    | with_reducible refine within_ite ?_ ?_
    | with_reducible refine within_progIte ?_ ?_
    | with_reducible refine within_each fun _ => ?_
    | with_reducible refine within_all_map fun _ => ?_
    | with_reducible refine within_all_replicate ?_
    | split
    | (dsimp only; split)
    | dsimp only

theorem within_failSignals {W : List Part} (h : partsLe [.mem .retA, .mem .retB, .regs 0x6,
    .regs 0x10, .regs 0x20, .regs 0x31, .regs 0x40, .regs 0x41, .regs 0x42, .regs 0x50, .regs
    0x60, .regs 0x62, .regs 0x70, .regs 0x90, .ring, .leases, .lamp, .rcl, .wrd, .xng, .brg] W =
    true) {a b : _} : (failSignals a b).Within W := by
  unfold failSignals
  repeat' first
    | with_reducible exact within_skip
    | with_reducible exact within_all_nil
    | with_reducible refine within_all_cons ?_ ?_
    | with_reducible refine within_seq ?_ ?_
    | with_reducible refine within_look fun _ => ?_
    | with_reducible refine within_when ?_
    | ((with_reducible refine within_slotSignal ?_); exact lel h (by decide +kernel))
    | ((with_reducible refine within_foldl ?_ fun _ _ hs => ?_); (· exact within_skip); refine within_seq hs ?_)
    | with_reducible refine within_ite ?_ ?_
    | with_reducible refine within_progIte ?_ ?_
    | with_reducible refine within_each fun _ => ?_
    | with_reducible refine within_all_map fun _ => ?_
    | with_reducible refine within_all_replicate ?_
    | split
    | (dsimp only; split)
    | dsimp only

theorem within_poisonOutputs {W : List Part} (h : partsLe [.ave] W = true) {a : _} :
    (poisonOutputs a).Within W := by
  unfold poisonOutputs
  repeat' first
    | with_reducible exact within_skip
    | with_reducible exact within_all_nil
    | with_reducible refine within_all_cons ?_ ?_
    | with_reducible refine within_seq ?_ ?_
    | with_reducible refine within_look fun _ => ?_
    | with_reducible refine within_when ?_
    | ((with_reducible refine within_poisonRange ?_); exact lel h (by decide +kernel))
    | ((with_reducible refine within_foldl ?_ fun _ _ hs => ?_); (· exact within_skip); refine within_seq hs ?_)
    | with_reducible refine within_ite ?_ ?_
    | with_reducible refine within_progIte ?_ ?_
    | with_reducible refine within_each fun _ => ?_
    | with_reducible refine within_all_map fun _ => ?_
    | with_reducible refine within_all_replicate ?_
    | split
    | (dsimp only; split)
    | dsimp only

theorem within_cleanOutputs {W : List Part} (h : partsLe [.ave] W = true) {a : _} :
    (cleanOutputs a).Within W := by
  unfold cleanOutputs
  repeat' first
    | with_reducible exact within_skip
    | with_reducible exact within_all_nil
    | with_reducible refine within_all_cons ?_ ?_
    | with_reducible refine within_seq ?_ ?_
    | with_reducible refine within_look fun _ => ?_
    | with_reducible refine within_when ?_
    | ((with_reducible refine within_cleanRanges ?_); exact lel h (by decide +kernel))
    | ((with_reducible refine within_foldl ?_ fun _ _ hs => ?_); (· exact within_skip); refine within_seq hs ?_)
    | with_reducible refine within_ite ?_ ?_
    | with_reducible refine within_progIte ?_ ?_
    | with_reducible refine within_each fun _ => ?_
    | with_reducible refine within_all_map fun _ => ?_
    | with_reducible refine within_all_replicate ?_
    | split
    | (dsimp only; split)
    | dsimp only

theorem within_recordFail {W : List Part} (h : partsLe [.regs 0x5] W = true) {a b c : _} :
    (recordFail a b c).Within W := by
  unfold recordFail
  repeat' first
    | with_reducible exact within_skip
    | with_reducible exact within_all_nil
    | with_reducible refine within_all_cons ?_ ?_
    | with_reducible refine within_seq ?_ ?_
    | with_reducible refine within_look fun _ => ?_
    | with_reducible refine within_when ?_
    | ((with_reducible refine within_setReg rfl ?_); exact lec h (by decide +kernel))
    | ((with_reducible refine within_bump rfl ?_); exact lec h (by decide +kernel))
    | ((with_reducible refine within_foldl ?_ fun _ _ hs => ?_); (· exact within_skip); refine within_seq hs ?_)
    | with_reducible refine within_ite ?_ ?_
    | with_reducible refine within_progIte ?_ ?_
    | with_reducible refine within_each fun _ => ?_
    | with_reducible refine within_all_map fun _ => ?_
    | with_reducible refine within_all_replicate ?_
    | split
    | (dsimp only; split)
    | dsimp only

theorem within_haltQueue {W : List Part} (h : partsLe [.wrd] W = true) {a : _} : (haltQueue
    a).Within W := by
  unfold haltQueue
  repeat' first
    | with_reducible exact within_skip
    | with_reducible exact within_all_nil
    | with_reducible refine within_all_cons ?_ ?_
    | with_reducible refine within_seq ?_ ?_
    | with_reducible refine within_look fun _ => ?_
    | with_reducible refine within_when ?_
    | ((with_reducible refine within_modQueue ?_); exact lel h (by decide +kernel))
    | ((with_reducible refine within_foldl ?_ fun _ _ hs => ?_); (· exact within_skip); refine within_seq hs ?_)
    | with_reducible refine within_ite ?_ ?_
    | with_reducible refine within_progIte ?_ ?_
    | with_reducible refine within_each fun _ => ?_
    | with_reducible refine within_all_map fun _ => ?_
    | with_reducible refine within_all_replicate ?_
    | split
    | (dsimp only; split)
    | dsimp only

theorem within_settleQueue {W : List Part} (h : partsLe [.wrd] W = true) {a : _} :
    (settleQueue a).Within W := by
  unfold settleQueue
  repeat' first
    | with_reducible exact within_skip
    | with_reducible exact within_all_nil
    | with_reducible refine within_all_cons ?_ ?_
    | with_reducible refine within_seq ?_ ?_
    | with_reducible refine within_look fun _ => ?_
    | with_reducible refine within_when ?_
    | ((with_reducible refine within_modQueue ?_); exact lel h (by decide +kernel))
    | ((with_reducible refine within_foldl ?_ fun _ _ hs => ?_); (· exact within_skip); refine within_seq hs ?_)
    | with_reducible refine within_ite ?_ ?_
    | with_reducible refine within_progIte ?_ ?_
    | with_reducible refine within_each fun _ => ?_
    | with_reducible refine within_all_map fun _ => ?_
    | with_reducible refine within_all_replicate ?_
    | split
    | (dsimp only; split)
    | dsimp only

theorem within_startRoute {W : List Part} (h : partsLe [.regs 0x5, .wrd] W = true) {a : _} :
    (startRoute a).Within W := by
  unfold startRoute
  repeat' first
    | with_reducible exact within_skip
    | with_reducible exact within_all_nil
    | with_reducible refine within_all_cons ?_ ?_
    | with_reducible refine within_seq ?_ ?_
    | with_reducible refine within_look fun _ => ?_
    | with_reducible refine within_when ?_
    | ((with_reducible refine within_setReg rfl ?_); exact lec h (by decide +kernel))
    | ((with_reducible refine within_modQueue ?_); exact lel h (by decide +kernel))
    | ((with_reducible refine within_updateShadow ?_); exact lel h (by decide +kernel))
    | ((with_reducible refine within_foldl ?_ fun _ _ hs => ?_); (· exact within_skip); refine within_seq hs ?_)
    | with_reducible refine within_ite ?_ ?_
    | with_reducible refine within_progIte ?_ ?_
    | with_reducible refine within_each fun _ => ?_
    | with_reducible refine within_all_map fun _ => ?_
    | with_reducible refine within_all_replicate ?_
    | split
    | (dsimp only; split)
    | dsimp only

theorem within_selectRouteSection {W : List Part} (h : partsLe [.regs 0x5, .wrd] W = true)
    {a : _} : (selectRouteSection a).Within W := by
  unfold selectRouteSection
  repeat' first
    | with_reducible exact within_skip
    | with_reducible exact within_all_nil
    | with_reducible refine within_all_cons ?_ ?_
    | with_reducible refine within_seq ?_ ?_
    | with_reducible refine within_look fun _ => ?_
    | with_reducible refine within_when ?_
    | ((with_reducible refine within_modWrd ?_); exact lec h (by decide +kernel))
    | ((with_reducible refine within_setReg rfl ?_); exact lec h (by decide +kernel))
    | ((with_reducible refine within_foldl ?_ fun _ _ hs => ?_); (· exact within_skip); refine within_seq hs ?_)
    | with_reducible refine within_ite ?_ ?_
    | with_reducible refine within_progIte ?_ ?_
    | with_reducible refine within_each fun _ => ?_
    | with_reducible refine within_all_map fun _ => ?_
    | with_reducible refine within_all_replicate ?_
    | split
    | (dsimp only; split)
    | dsimp only

theorem within_fallbackStep {W : List Part} (h : partsLe [.mem .retA, .mem .retB, .regs 0x4,
    .regs 0x5, .regs 0x6, .regs 0x10, .regs 0x20, .regs 0x31, .regs 0x40, .regs 0x41, .regs
    0x42, .regs 0x50, .regs 0x60, .regs 0x62, .regs 0x70, .regs 0x90, .ring, .leases, .lamp,
    .rcl, .boot, .xlt, .wrd, .xng, .brg] W = true) : fallbackStep.Within W := by
  unfold fallbackStep
  repeat' first
    | with_reducible exact within_skip
    | with_reducible exact within_all_nil
    | with_reducible refine within_all_cons ?_ ?_
    | with_reducible refine within_seq ?_ ?_
    | with_reducible refine within_look fun _ => ?_
    | with_reducible refine within_when ?_
    | ((with_reducible refine within_modBoot ?_); exact lec h (by decide +kernel))
    | ((with_reducible refine within_modBrg ?_); exact lec h (by decide +kernel))
    | ((with_reducible refine within_modWrd ?_); exact lec h (by decide +kernel))
    | ((with_reducible refine within_modXlt ?_); exact lec h (by decide +kernel))
    | ((with_reducible refine within_raise ?_ ?_) <;> first | exact lel h (by decide +kernel) | exact partsLe_trans (event_le _) (lel h (by decide +kernel)))
    | ((with_reducible refine within_freeRunList ?_); exact lel h (by decide +kernel))
    | ((with_reducible refine within_selectRouteSection ?_); exact lel h (by decide +kernel))
    | ((with_reducible refine within_settleInvalidations ?_); exact lel h (by decide +kernel))
    | ((with_reducible refine within_startRoute ?_); exact lel h (by decide +kernel))
    | ((with_reducible refine within_updateShadow ?_); exact lel h (by decide +kernel))
    | ((with_reducible refine within_foldl ?_ fun _ _ hs => ?_); (· exact within_skip); refine within_seq hs ?_)
    | with_reducible refine within_ite ?_ ?_
    | with_reducible refine within_progIte ?_ ?_
    | with_reducible refine within_each fun _ => ?_
    | with_reducible refine within_all_map fun _ => ?_
    | with_reducible refine within_all_replicate ?_
    | split
    | (dsimp only; split)
    | dsimp only

theorem within_parkWithdrawn {W : List Part} (h : partsLe [.mem .retA, .mem .retB, .lamp] W
    = true) : parkWithdrawn.Within W := by
  unfold parkWithdrawn
  repeat' first
    | with_reducible exact within_skip
    | with_reducible exact within_all_nil
    | with_reducible refine within_all_cons ?_ ?_
    | with_reducible refine within_seq ?_ ?_
    | with_reducible refine within_look fun _ => ?_
    | with_reducible refine within_when ?_
    | ((with_reducible refine within_modLamp ?_); exact lec h (by decide +kernel))
    | ((with_reducible refine within_retWrite ?_); exact lel h (by decide +kernel))
    | ((with_reducible refine within_foldl ?_ fun _ _ hs => ?_); (· exact within_skip); refine within_seq hs ?_)
    | with_reducible refine within_ite ?_ ?_
    | with_reducible refine within_progIte ?_ ?_
    | with_reducible refine within_each fun _ => ?_
    | with_reducible refine within_all_map fun _ => ?_
    | with_reducible refine within_all_replicate ?_
    | split
    | (dsimp only; split)
    | dsimp only

theorem within_afterStop {W : List Part} (h : partsLe [.mem .retA, .mem .retB, .regs 0x4,
    .regs 0x5, .regs 0x6, .regs 0x10, .regs 0x20, .regs 0x31, .regs 0x40, .regs 0x41, .regs
    0x42, .regs 0x50, .regs 0x60, .regs 0x62, .regs 0x70, .regs 0x90, .ring, .leases, .lamp,
    .rcl, .boot, .xlt, .wrd, .xng, .brg] W = true) {a : _} : (afterStop a).Within W := by
  unfold afterStop
  repeat' first
    | with_reducible exact within_skip
    | with_reducible exact within_all_nil
    | with_reducible refine within_all_cons ?_ ?_
    | with_reducible refine within_seq ?_ ?_
    | with_reducible refine within_look fun _ => ?_
    | with_reducible refine within_when ?_
    | ((with_reducible refine within_fallbackStep ?_); exact lel h (by decide +kernel))
    | ((with_reducible refine within_parkWithdrawn ?_); exact lel h (by decide +kernel))
    | ((with_reducible refine within_settleInvalidations ?_); exact lel h (by decide +kernel))
    | ((with_reducible refine within_settleQueue ?_); exact lel h (by decide +kernel))
    | ((with_reducible refine within_foldl ?_ fun _ _ hs => ?_); (· exact within_skip); refine within_seq hs ?_)
    | with_reducible refine within_ite ?_ ?_
    | with_reducible refine within_progIte ?_ ?_
    | with_reducible refine within_each fun _ => ?_
    | with_reducible refine within_all_map fun _ => ?_
    | with_reducible refine within_all_replicate ?_
    | split
    | (dsimp only; split)
    | dsimp only

theorem within_failStop {W : List Part} (h : partsLe [.mem .retA, .mem .retB, .regs 0x4,
    .regs 0x5, .regs 0x6, .regs 0x10, .regs 0x20, .regs 0x31, .regs 0x40, .regs 0x41, .regs
    0x42, .regs 0x50, .regs 0x60, .regs 0x62, .regs 0x70, .regs 0x90, .ring, .leases, .lamp,
    .rcl, .boot, .ave, .xlt, .wrd, .xng, .ras, .dst, .rbt, .brg] W = true) {a b : _} : (failStop
    a b).Within W := by
  unfold failStop
  repeat' first
    | with_reducible exact within_skip
    | with_reducible exact within_all_nil
    | with_reducible refine within_all_cons ?_ ?_
    | with_reducible refine within_seq ?_ ?_
    | with_reducible refine within_look fun _ => ?_
    | with_reducible refine within_when ?_
    | ((with_reducible refine within_afterStop ?_); exact lel h (by decide +kernel))
    | ((with_reducible refine within_failSignals ?_); exact lel h (by decide +kernel))
    | ((with_reducible refine within_freeRunList ?_); exact lel h (by decide +kernel))
    | ((with_reducible refine within_haltQueue ?_); exact lel h (by decide +kernel))
    | ((with_reducible refine within_modQueue ?_); exact lel h (by decide +kernel))
    | ((with_reducible refine within_poisonOutputs ?_); exact lel h (by decide +kernel))
    | ((with_reducible refine within_recordFail ?_); exact lel h (by decide +kernel))
    | ((with_reducible refine within_releaseUnits ?_); exact lel h (by decide +kernel))
    | ((with_reducible refine within_setSlot ?_); exact lel h (by decide +kernel))
    | ((with_reducible refine within_updateShadow ?_); exact lel h (by decide +kernel))
    | ((with_reducible refine within_foldl ?_ fun _ _ hs => ?_); (· exact within_skip); refine within_seq hs ?_)
    | with_reducible refine within_ite ?_ ?_
    | with_reducible refine within_progIte ?_ ?_
    | with_reducible refine within_each fun _ => ?_
    | with_reducible refine within_all_map fun _ => ?_
    | with_reducible refine within_all_replicate ?_
    | split
    | (dsimp only; split)
    | dsimp only

theorem within_failUndispatched {W : List Part} (h : partsLe [.mem .retA, .mem .retB, .regs
    0x4, .regs 0x5, .regs 0x6, .regs 0x10, .regs 0x20, .regs 0x31, .regs 0x40, .regs 0x41, .regs
    0x42, .regs 0x50, .regs 0x60, .regs 0x62, .regs 0x70, .regs 0x90, .ring, .leases, .lamp,
    .rcl, .boot, .ave, .xlt, .wrd, .xng, .brg] W = true) {a b : _} : (failUndispatched a
    b).Within W := by
  unfold failUndispatched
  repeat' first
    | with_reducible exact within_skip
    | with_reducible exact within_all_nil
    | with_reducible refine within_all_cons ?_ ?_
    | with_reducible refine within_seq ?_ ?_
    | with_reducible refine within_look fun _ => ?_
    | with_reducible refine within_when ?_
    | ((with_reducible refine within_afterStop ?_); exact lel h (by decide +kernel))
    | ((with_reducible refine within_failSignals ?_); exact lel h (by decide +kernel))
    | ((with_reducible refine within_freeRunList ?_); exact lel h (by decide +kernel))
    | ((with_reducible refine within_haltQueue ?_); exact lel h (by decide +kernel))
    | ((with_reducible refine within_poisonOutputs ?_); exact lel h (by decide +kernel))
    | ((with_reducible refine within_recordFail ?_); exact lel h (by decide +kernel))
    | ((with_reducible refine within_updateShadow ?_); exact lel h (by decide +kernel))
    | ((with_reducible refine within_foldl ?_ fun _ _ hs => ?_); (· exact within_skip); refine within_seq hs ?_)
    | with_reducible refine within_ite ?_ ?_
    | with_reducible refine within_progIte ?_ ?_
    | with_reducible refine within_each fun _ => ?_
    | with_reducible refine within_all_map fun _ => ?_
    | with_reducible refine within_all_replicate ?_
    | split
    | (dsimp only; split)
    | dsimp only

theorem within_failPoisoned {W : List Part} (h : partsLe [.mem .retA, .mem .retB, .regs 0x3,
    .regs 0x4, .regs 0x5, .regs 0x6, .regs 0x10, .regs 0x20, .regs 0x31, .regs 0x40, .regs 0x41,
    .regs 0x42, .regs 0x50, .regs 0x60, .regs 0x62, .regs 0x70, .regs 0x90, .ring, .leases,
    .lamp, .rcl, .boot, .ave, .xlt, .wrd, .xng, .ras, .dst, .rbt, .brg] W = true) {a : _} :
    (failPoisoned a).Within W := by
  unfold failPoisoned
  repeat' first
    | with_reducible exact within_skip
    | with_reducible exact within_all_nil
    | with_reducible refine within_all_cons ?_ ?_
    | with_reducible refine within_seq ?_ ?_
    | with_reducible refine within_look fun _ => ?_
    | with_reducible refine within_when ?_
    | ((with_reducible refine within_setF rfl ?_); exact lec h (by decide +kernel))
    | ((with_reducible refine within_raise ?_ ?_) <;> first | exact lel h (by decide +kernel) | exact partsLe_trans (event_le _) (lel h (by decide +kernel)))
    | ((with_reducible refine within_failStop ?_); exact lel h (by decide +kernel))
    | ((with_reducible refine within_foldl ?_ fun _ _ hs => ?_); (· exact within_skip); refine within_seq hs ?_)
    | with_reducible refine within_ite ?_ ?_
    | with_reducible refine within_progIte ?_ ?_
    | with_reducible refine within_each fun _ => ?_
    | with_reducible refine within_all_map fun _ => ?_
    | with_reducible refine within_all_replicate ?_
    | split
    | (dsimp only; split)
    | dsimp only

theorem within_withdrawStop {W : List Part} (h : partsLe [.mem .retA, .mem .retB, .regs 0x4,
    .regs 0x5, .regs 0x6, .regs 0x10, .regs 0x20, .regs 0x31, .regs 0x40, .regs 0x41, .regs
    0x42, .regs 0x50, .regs 0x60, .regs 0x62, .regs 0x70, .regs 0x90, .ring, .leases, .lamp,
    .rcl, .boot, .ave, .xlt, .wrd, .xng, .ras, .dst, .rbt, .brg] W = true) {a b : _} :
    (withdrawStop a b).Within W := by
  unfold withdrawStop
  repeat' first
    | with_reducible exact within_skip
    | with_reducible exact within_all_nil
    | with_reducible refine within_all_cons ?_ ?_
    | with_reducible refine within_seq ?_ ?_
    | with_reducible refine within_look fun _ => ?_
    | with_reducible refine within_when ?_
    | ((with_reducible refine within_failStop ?_); exact lel h (by decide +kernel))
    | ((with_reducible refine within_modSlot ?_); exact lel h (by decide +kernel))
    | ((with_reducible refine within_foldl ?_ fun _ _ hs => ?_); (· exact within_skip); refine within_seq hs ?_)
    | with_reducible refine within_ite ?_ ?_
    | with_reducible refine within_progIte ?_ ?_
    | with_reducible refine within_each fun _ => ?_
    | with_reducible refine within_all_map fun _ => ?_
    | with_reducible refine within_all_replicate ?_
    | split
    | (dsimp only; split)
    | dsimp only

theorem within_withdrawQueue {W : List Part} (h : partsLe [.mem .retA, .mem .retB, .regs
    0x4, .regs 0x5, .regs 0x6, .regs 0x10, .regs 0x20, .regs 0x31, .regs 0x40, .regs 0x41, .regs
    0x42, .regs 0x50, .regs 0x60, .regs 0x62, .regs 0x70, .regs 0x90, .ring, .leases, .lamp,
    .rcl, .boot, .ave, .xlt, .wrd, .xng, .ras, .dst, .rbt, .brg] W = true) {a b : _} :
    (withdrawQueue a b).Within W := by
  unfold withdrawQueue
  repeat' first
    | with_reducible exact within_skip
    | with_reducible exact within_all_nil
    | with_reducible refine within_all_cons ?_ ?_
    | with_reducible refine within_seq ?_ ?_
    | with_reducible refine within_look fun _ => ?_
    | with_reducible refine within_when ?_
    | ((with_reducible refine within_withdrawStop ?_); exact lel h (by decide +kernel))
    | ((with_reducible refine within_foldl ?_ fun _ _ hs => ?_); (· exact within_skip); refine within_seq hs ?_)
    | with_reducible refine within_ite ?_ ?_
    | with_reducible refine within_progIte ?_ ?_
    | with_reducible refine within_each fun _ => ?_
    | with_reducible refine within_all_map fun _ => ?_
    | with_reducible refine within_all_replicate ?_
    | split
    | (dsimp only; split)
    | dsimp only

theorem within_completeStop {W : List Part} (h : partsLe [.mem .retA, .mem .retB, .regs 0x4,
    .regs 0x5, .regs 0x6, .regs 0x10, .regs 0x20, .regs 0x31, .regs 0x40, .regs 0x41, .regs
    0x42, .regs 0x50, .regs 0x60, .regs 0x62, .regs 0x70, .regs 0x90, .ring, .leases, .lamp,
    .rcl, .boot, .ave, .xlt, .wrd, .xng, .ras, .dst, .rbt, .svc, .brg] W = true) {a : _} :
    (completeStop a).Within W := by
  unfold completeStop
  repeat' first
    | with_reducible exact within_skip
    | with_reducible exact within_all_nil
    | with_reducible refine within_all_cons ?_ ?_
    | with_reducible refine within_seq ?_ ?_
    | with_reducible refine within_look fun _ => ?_
    | with_reducible refine within_when ?_
    | ((with_reducible refine within_afterStop ?_); exact lel h (by decide +kernel))
    | ((with_reducible refine within_cleanOutputs ?_); exact lel h (by decide +kernel))
    | ((with_reducible refine within_freeRunList ?_); exact lel h (by decide +kernel))
    | ((with_reducible refine within_performSignals ?_); exact lel h (by decide +kernel))
    | ((with_reducible refine within_releaseUnits ?_); exact lel h (by decide +kernel))
    | ((with_reducible refine within_renewOwner ?_); exact lel h (by decide +kernel))
    | ((with_reducible refine within_setSlot ?_); exact lel h (by decide +kernel))
    | ((with_reducible refine within_stampStop ?_); exact lel h (by decide +kernel))
    | ((with_reducible refine within_updateShadow ?_); exact lel h (by decide +kernel))
    | ((with_reducible refine within_foldl ?_ fun _ _ hs => ?_); (· exact within_skip); refine within_seq hs ?_)
    | with_reducible refine within_ite ?_ ?_
    | with_reducible refine within_progIte ?_ ?_
    | with_reducible refine within_each fun _ => ?_
    | with_reducible refine within_all_map fun _ => ?_
    | with_reducible refine within_all_replicate ?_
    | split
    | (dsimp only; split)
    | dsimp only

theorem within_failAccess {W : List Part} (h : partsLe [.mem .retA, .mem .retB, .regs 0x4,
    .regs 0x5, .regs 0x6, .regs 0x10, .regs 0x20, .regs 0x31, .regs 0x40, .regs 0x41, .regs
    0x42, .regs 0x50, .regs 0x60, .regs 0x62, .regs 0x70, .regs 0x90, .ring, .leases, .lamp,
    .rcl, .boot, .ave, .xlt, .wrd, .xng, .ras, .dst, .rbt, .brg] W = true) {a : _} : (failAccess
    a).Within W := by
  unfold failAccess
  repeat' first
    | with_reducible exact within_skip
    | with_reducible exact within_all_nil
    | with_reducible refine within_all_cons ?_ ?_
    | with_reducible refine within_seq ?_ ?_
    | with_reducible refine within_look fun _ => ?_
    | with_reducible refine within_when ?_
    | ((with_reducible refine within_failStop ?_); exact lel h (by decide +kernel))
    | ((with_reducible refine within_foldl ?_ fun _ _ hs => ?_); (· exact within_skip); refine within_seq hs ?_)
    | with_reducible refine within_ite ?_ ?_
    | with_reducible refine within_progIte ?_ ?_
    | with_reducible refine within_each fun _ => ?_
    | with_reducible refine within_all_map fun _ => ?_
    | with_reducible refine within_all_replicate ?_
    | split
    | (dsimp only; split)
    | dsimp only

theorem within_badStop {W : List Part} (h : partsLe [.mem .retA, .mem .retB, .mem .icon,
    .mem .img, .allRegs, .pend, .ring, .leases, .lamp, .rcl, .boot, .ave, .xlt, .wrd, .xng,
    .cam, .ras, .dst, .rbt, .sco, .sgn, .hv, .can, .svc, .ports, .brg] W = true) {a b : _} :
    (badStop a b).Within W := by
  unfold badStop
  repeat' first
    | with_reducible exact within_skip
    | with_reducible exact within_all_nil
    | with_reducible refine within_all_cons ?_ ?_
    | with_reducible refine within_seq ?_ ?_
    | with_reducible refine within_look fun _ => ?_
    | with_reducible refine within_when ?_
    | ((with_reducible refine within_setF rfl ?_); exact lec h (by decide +kernel))
    | ((with_reducible refine within_raise ?_ ?_) <;> first | exact lel h (by decide +kernel) | exact partsLe_trans (event_le _) (lel h (by decide +kernel)))
    | ((with_reducible refine within_escalate ?_); exact lel h (by decide +kernel))
    | ((with_reducible refine within_haltQueue ?_); exact lel h (by decide +kernel))
    | ((with_reducible refine within_modQueue ?_); exact lel h (by decide +kernel))
    | ((with_reducible refine within_recordFail ?_); exact lel h (by decide +kernel))
    | ((with_reducible refine within_requestRepair ?_); exact lel h (by decide +kernel))
    | ((with_reducible refine within_foldl ?_ fun _ _ hs => ?_); (· exact within_skip); refine within_seq hs ?_)
    | with_reducible refine within_ite ?_ ?_
    | with_reducible refine within_progIte ?_ ?_
    | with_reducible refine within_each fun _ => ?_
    | with_reducible refine within_all_map fun _ => ?_
    | with_reducible refine within_all_replicate ?_
    | split
    | (dsimp only; split)
    | dsimp only

theorem within_waitForPool {W : List Part} (h : partsLe [.xlt] W = true) {a : _} :
    (waitForPool a).Within W := by
  unfold waitForPool
  repeat' first
    | with_reducible exact within_skip
    | with_reducible exact within_all_nil
    | with_reducible refine within_all_cons ?_ ?_
    | with_reducible refine within_seq ?_ ?_
    | with_reducible refine within_look fun _ => ?_
    | with_reducible refine within_when ?_
    | ((with_reducible refine within_modXlt ?_); exact lec h (by decide +kernel))
    | ((with_reducible refine within_foldl ?_ fun _ _ hs => ?_); (· exact within_skip); refine within_seq hs ?_)
    | with_reducible refine within_ite ?_ ?_
    | with_reducible refine within_progIte ?_ ?_
    | with_reducible refine within_each fun _ => ?_
    | with_reducible refine within_all_map fun _ => ?_
    | with_reducible refine within_all_replicate ?_
    | split
    | (dsimp only; split)
    | dsimp only

theorem within_leavePool {W : List Part} (h : partsLe [.xlt] W = true) {a : _} : (leavePool
    a).Within W := by
  unfold leavePool
  repeat' first
    | with_reducible exact within_skip
    | with_reducible exact within_all_nil
    | with_reducible refine within_all_cons ?_ ?_
    | with_reducible refine within_seq ?_ ?_
    | with_reducible refine within_look fun _ => ?_
    | with_reducible refine within_when ?_
    | ((with_reducible refine within_modXlt ?_); exact lec h (by decide +kernel))
    | ((with_reducible refine within_foldl ?_ fun _ _ hs => ?_); (· exact within_skip); refine within_seq hs ?_)
    | with_reducible refine within_ite ?_ ?_
    | with_reducible refine within_progIte ?_ ?_
    | with_reducible refine within_each fun _ => ?_
    | with_reducible refine within_all_map fun _ => ?_
    | with_reducible refine within_all_replicate ?_
    | split
    | (dsimp only; split)
    | dsimp only

theorem within_fetchReads {W : List Part} (h : partsLe [.mem .retA, .mem .retB, .mem .icon,
    .mem .img, .allRegs, .pend, .ring, .leases, .lamp, .rcl, .boot, .ave, .xlt, .wrd, .xng,
    .cam, .ras, .dst, .rbt, .sco, .sgn, .hv, .can, .svc, .ports, .brg] W = true) {a : _} :
    (fetchReads a).Within W := by
  unfold fetchReads
  repeat' first
    | with_reducible exact within_skip
    | with_reducible exact within_all_nil
    | with_reducible refine within_all_cons ?_ ?_
    | with_reducible refine within_seq ?_ ?_
    | with_reducible refine within_look fun _ => ?_
    | with_reducible refine within_when ?_
    | ((with_reducible refine within_readEffects ?_); exact lel h (by decide +kernel))
    | ((with_reducible refine within_foldl ?_ fun _ _ hs => ?_); (· exact within_skip); refine within_seq hs ?_)
    | with_reducible refine within_ite ?_ ?_
    | with_reducible refine within_progIte ?_ ?_
    | with_reducible refine within_each fun _ => ?_
    | with_reducible refine within_all_map fun _ => ?_
    | with_reducible refine within_all_replicate ?_
    | split
    | (dsimp only; split)
    | dsimp only

theorem within_enqueueNext {W : List Part} (h : partsLe [.mem .plaza, .mem .lpddr, .mem
    .retA, .mem .retB, .mem .icon, .mem .img, .allRegs, .pend, .ring, .leases, .lamp, .rcl,
    .boot, .ave, .xlt, .wrd, .xng, .cam, .ras, .dst, .rbt, .sco, .sgn, .hv, .can, .svc, .ports,
    .brg] W = true) {a : _} : (enqueueNext a).Within W := by
  unfold enqueueNext
  repeat' first
    | with_reducible exact within_skip
    | with_reducible exact within_all_nil
    | with_reducible refine within_all_cons ?_ ?_
    | with_reducible refine within_seq ?_ ?_
    | with_reducible refine within_look fun _ => ?_
    | with_reducible refine within_when ?_
    | ((with_reducible refine within_accessWaits ?_); exact lel h (by decide +kernel))
    | ((with_reducible refine within_badStop ?_); exact lel h (by decide +kernel))
    | ((with_reducible refine within_failUndispatched ?_); exact lel h (by decide +kernel))
    | ((with_reducible refine within_fetchReads ?_); exact lel h (by decide +kernel))
    | ((with_reducible refine within_leavePool ?_); exact lel h (by decide +kernel))
    | ((with_reducible refine within_modQueue ?_); exact lel h (by decide +kernel))
    | ((with_reducible refine within_placeRunList ?_); exact lel h (by decide +kernel))
    | ((with_reducible refine within_recordXltFault ?_); exact lel h (by decide +kernel))
    | ((with_reducible refine within_updateShadow ?_); exact lel h (by decide +kernel))
    | ((with_reducible refine within_waitForPool ?_); exact lel h (by decide +kernel))
    | exact within_attach (lel h (by decide +kernel)) (by assumption)
    | ((with_reducible refine within_foldl ?_ fun _ _ hs => ?_); (· exact within_skip); refine within_seq hs ?_)
    | with_reducible refine within_ite ?_ ?_
    | with_reducible refine within_progIte ?_ ?_
    | with_reducible refine within_each fun _ => ?_
    | with_reducible refine within_all_map fun _ => ?_
    | with_reducible refine within_all_replicate ?_
    | split
    | (dsimp only; split)
    | dsimp only

theorem within_takeMutexes {W : List Part} (h : partsLe [.mem .retA, .mem .retB, .leases,
    .lamp, .wrd, .xng] W = true) {a : _} : (takeMutexes a).Within W := by
  unfold takeMutexes
  repeat' first
    | with_reducible exact within_skip
    | with_reducible exact within_all_nil
    | with_reducible refine within_all_cons ?_ ?_
    | with_reducible refine within_seq ?_ ?_
    | with_reducible refine within_look fun _ => ?_
    | with_reducible refine within_when ?_
    | ((with_reducible refine within_giveMutex ?_); exact lel h (by decide +kernel))
    | ((with_reducible refine within_foldl ?_ fun _ _ hs => ?_); (· exact within_skip); refine within_seq hs ?_)
    | with_reducible refine within_ite ?_ ?_
    | with_reducible refine within_progIte ?_ ?_
    | with_reducible refine within_each fun _ => ?_
    | with_reducible refine within_all_map fun _ => ?_
    | with_reducible refine within_all_replicate ?_
    | split
    | (dsimp only; split)
    | dsimp only

theorem within_openStop {W : List Part} (h : partsLe [.mem .retA, .mem .retB, .leases,
    .lamp, .wrd, .xng, .ras] W = true) {a b c : _} : (openStop a b c).Within W := by
  unfold openStop
  repeat' first
    | with_reducible exact within_skip
    | with_reducible exact within_all_nil
    | with_reducible refine within_all_cons ?_ ?_
    | with_reducible refine within_seq ?_ ?_
    | with_reducible refine within_look fun _ => ?_
    | with_reducible refine within_when ?_
    | ((with_reducible refine within_modWrd ?_); exact lec h (by decide +kernel))
    | ((with_reducible refine within_modQueue ?_); exact lel h (by decide +kernel))
    | ((with_reducible refine within_requestPlls ?_); exact lel h (by decide +kernel))
    | ((with_reducible refine within_seatCores ?_); exact lel h (by decide +kernel))
    | ((with_reducible refine within_setSlot ?_); exact lel h (by decide +kernel))
    | ((with_reducible refine within_takeLease ?_); exact lel h (by decide +kernel))
    | ((with_reducible refine within_takeMutexes ?_); exact lel h (by decide +kernel))
    | ((with_reducible refine within_updateShadow ?_); exact lel h (by decide +kernel))
    | ((with_reducible refine within_foldl ?_ fun _ _ hs => ?_); (· exact within_skip); refine within_seq hs ?_)
    | with_reducible refine within_ite ?_ ?_
    | with_reducible refine within_progIte ?_ ?_
    | with_reducible refine within_each fun _ => ?_
    | with_reducible refine within_all_map fun _ => ?_
    | with_reducible refine within_all_replicate ?_
    | split
    | (dsimp only; split)
    | dsimp only

theorem within_requestPreempt {W : List Part} (h : partsLe [.wrd] W = true) {a : _} :
    (requestPreempt a).Within W := by
  unfold requestPreempt
  repeat' first
    | with_reducible exact within_skip
    | with_reducible exact within_all_nil
    | with_reducible refine within_all_cons ?_ ?_
    | with_reducible refine within_seq ?_ ?_
    | with_reducible refine within_look fun _ => ?_
    | with_reducible refine within_when ?_
    | ((with_reducible refine within_modSlot ?_); exact lel h (by decide +kernel))
    | ((with_reducible refine within_foldl ?_ fun _ _ hs => ?_); (· exact within_skip); refine within_seq hs ?_)
    | with_reducible refine within_ite ?_ ?_
    | with_reducible refine within_progIte ?_ ?_
    | with_reducible refine within_each fun _ => ?_
    | with_reducible refine within_all_map fun _ => ?_
    | with_reducible refine within_all_replicate ?_
    | split
    | (dsimp only; split)
    | dsimp only

theorem within_lockRuns {W : List Part} (h : partsLe [.mem .retA, .mem .retB, .regs 0x10,
    .regs 0x20, .regs 0x31, .regs 0x40, .regs 0x41, .regs 0x42, .regs 0x50, .regs 0x60, .regs
    0x62, .regs 0x70, .regs 0x90, .ring, .leases, .lamp, .rcl, .ave] W = true) {a : _} :
    (lockRuns a).Within W := by
  unfold lockRuns
  repeat' first
    | with_reducible exact within_skip
    | with_reducible exact within_all_nil
    | with_reducible refine within_all_cons ?_ ?_
    | with_reducible refine within_seq ?_ ?_
    | with_reducible refine within_look fun _ => ?_
    | with_reducible refine within_when ?_
    | ((with_reducible refine within_takeLock ?_); exact lel h (by decide +kernel))
    | ((with_reducible refine within_foldl ?_ fun _ _ hs => ?_); (· exact within_skip); refine within_seq hs ?_)
    | with_reducible refine within_ite ?_ ?_
    | with_reducible refine within_progIte ?_ ?_
    | with_reducible refine within_each fun _ => ?_
    | with_reducible refine within_all_map fun _ => ?_
    | with_reducible refine within_all_replicate ?_
    | split
    | (dsimp only; split)
    | dsimp only

theorem within_unlockRuns {W : List Part} (h : partsLe [.mem .retA, .mem .retB, .regs 0x10,
    .regs 0x20, .regs 0x31, .regs 0x40, .regs 0x41, .regs 0x42, .regs 0x50, .regs 0x60, .regs
    0x62, .regs 0x70, .regs 0x90, .ring, .leases, .lamp, .rcl, .ave] W = true) {a : _} :
    (unlockRuns a).Within W := by
  unfold unlockRuns
  repeat' first
    | with_reducible exact within_skip
    | with_reducible exact within_all_nil
    | with_reducible refine within_all_cons ?_ ?_
    | with_reducible refine within_seq ?_ ?_
    | with_reducible refine within_look fun _ => ?_
    | with_reducible refine within_when ?_
    | ((with_reducible refine within_freeLock ?_); exact lel h (by decide +kernel))
    | ((with_reducible refine within_foldl ?_ fun _ _ hs => ?_); (· exact within_skip); refine within_seq hs ?_)
    | with_reducible refine within_ite ?_ ?_
    | with_reducible refine within_progIte ?_ ?_
    | with_reducible refine within_each fun _ => ?_
    | with_reducible refine within_all_map fun _ => ?_
    | with_reducible refine within_all_replicate ?_
    | split
    | (dsimp only; split)
    | dsimp only

theorem within_startRouteStop {W : List Part} (h : partsLe [.mem .retA, .mem .retB, .regs
    0x4, .regs 0x5, .regs 0x6, .regs 0x10, .regs 0x20, .regs 0x31, .regs 0x40, .regs 0x41, .regs
    0x42, .regs 0x50, .regs 0x60, .regs 0x62, .regs 0x70, .regs 0x90, .ring, .leases, .lamp,
    .rcl, .boot, .ave, .xlt, .wrd, .xng, .ras, .dst, .rbt, .svc, .brg] W = true) {a b : _} :
    (startRouteStop a b).Within W := by
  unfold startRouteStop
  repeat' first
    | with_reducible exact within_skip
    | with_reducible exact within_all_nil
    | with_reducible refine within_all_cons ?_ ?_
    | with_reducible refine within_seq ?_ ?_
    | with_reducible refine within_look fun _ => ?_
    | with_reducible refine within_when ?_
    | ((with_reducible refine within_setF rfl ?_); exact lec h (by decide +kernel))
    | ((with_reducible refine within_raise ?_ ?_) <;> first | exact lel h (by decide +kernel) | exact partsLe_trans (event_le _) (lel h (by decide +kernel)))
    | ((with_reducible refine within_completeStop ?_); exact lel h (by decide +kernel))
    | ((with_reducible refine within_failStop ?_); exact lel h (by decide +kernel))
    | ((with_reducible refine within_startRoute ?_); exact lel h (by decide +kernel))
    | ((with_reducible refine within_foldl ?_ fun _ _ hs => ?_); (· exact within_skip); refine within_seq hs ?_)
    | with_reducible refine within_ite ?_ ?_
    | with_reducible refine within_progIte ?_ ?_
    | with_reducible refine within_each fun _ => ?_
    | with_reducible refine within_all_map fun _ => ?_
    | with_reducible refine within_all_replicate ?_
    | split
    | (dsimp only; split)
    | dsimp only

theorem within_wardenOpcode {W : List Part} (h : partsLe [.mem .retA, .mem .retB, .regs 0x4,
    .regs 0x5, .regs 0x6, .regs 0x10, .regs 0x20, .regs 0x31, .regs 0x40, .regs 0x41, .regs
    0x42, .regs 0x50, .regs 0x60, .regs 0x62, .regs 0x70, .regs 0x90, .ring, .leases, .lamp,
    .rcl, .boot, .ave, .xlt, .wrd, .xng, .ras, .dst, .rbt, .svc, .brg] W = true) {a b : _} :
    (wardenOpcode a b).Within W := by
  unfold wardenOpcode
  repeat' first
    | with_reducible exact within_skip
    | with_reducible exact within_all_nil
    | with_reducible refine within_all_cons ?_ ?_
    | with_reducible refine within_seq ?_ ?_
    | with_reducible refine within_look fun _ => ?_
    | with_reducible refine within_when ?_
    | ((with_reducible refine within_completeStop ?_); exact lel h (by decide +kernel))
    | ((with_reducible refine within_lockRuns ?_); exact lel h (by decide +kernel))
    | ((with_reducible refine within_startRouteStop ?_); exact lel h (by decide +kernel))
    | ((with_reducible refine within_unlockRuns ?_); exact lel h (by decide +kernel))
    | ((with_reducible refine within_foldl ?_ fun _ _ hs => ?_); (· exact within_skip); refine within_seq hs ?_)
    | with_reducible refine within_ite ?_ ?_
    | with_reducible refine within_progIte ?_ ?_
    | with_reducible refine within_each fun _ => ?_
    | with_reducible refine within_all_map fun _ => ?_
    | with_reducible refine within_all_replicate ?_
    | split
    | (dsimp only; split)
    | dsimp only

theorem within_checkWaits {W : List Part} (h : partsLe [.mem .retA, .mem .retB, .regs 0x6,
    .regs 0x90, .ring, .leases, .lamp, .rcl, .wrd, .xng] W = true) {a : _} : (checkWaits
    a).Within W := by
  unfold checkWaits
  repeat' first
    | with_reducible exact within_skip
    | with_reducible exact within_all_nil
    | with_reducible refine within_all_cons ?_ ?_
    | with_reducible refine within_seq ?_ ?_
    | with_reducible refine within_look fun _ => ?_
    | with_reducible refine within_when ?_
    | ((with_reducible refine within_checkCrossing ?_); exact lel h (by decide +kernel))
    | ((with_reducible refine within_foldl ?_ fun _ _ hs => ?_); (· exact within_skip); refine within_seq hs ?_)
    | with_reducible refine within_ite ?_ ?_
    | with_reducible refine within_progIte ?_ ?_
    | with_reducible refine within_each fun _ => ?_
    | with_reducible refine within_all_map fun _ => ?_
    | with_reducible refine within_all_replicate ?_
    | split
    | (dsimp only; split)
    | dsimp only

theorem within_failOldest {W : List Part} (h : partsLe [.mem .retA, .mem .retB, .regs 0x4,
    .regs 0x5, .regs 0x6, .regs 0x10, .regs 0x20, .regs 0x31, .regs 0x40, .regs 0x41, .regs
    0x42, .regs 0x50, .regs 0x60, .regs 0x62, .regs 0x70, .regs 0x90, .ring, .leases, .lamp,
    .rcl, .boot, .ave, .xlt, .wrd, .xng, .brg] W = true) {a b : _} : (failOldest a b).Within W
    := by
  unfold failOldest
  repeat' first
    | with_reducible exact within_skip
    | with_reducible exact within_all_nil
    | with_reducible refine within_all_cons ?_ ?_
    | with_reducible refine within_seq ?_ ?_
    | with_reducible refine within_look fun _ => ?_
    | with_reducible refine within_when ?_
    | ((with_reducible refine within_failUndispatched ?_); exact lel h (by decide +kernel))
    | ((with_reducible refine within_modQueue ?_); exact lel h (by decide +kernel))
    | ((with_reducible refine within_foldl ?_ fun _ _ hs => ?_); (· exact within_skip); refine within_seq hs ?_)
    | with_reducible refine within_ite ?_ ?_
    | with_reducible refine within_progIte ?_ ?_
    | with_reducible refine within_each fun _ => ?_
    | with_reducible refine within_all_map fun _ => ?_
    | with_reducible refine within_all_replicate ?_
    | split
    | (dsimp only; split)
    | dsimp only

theorem within_retranslateOldest {W : List Part} (h : partsLe [.mem .plaza, .mem .lpddr,
    .mem .retA, .mem .retB, .mem .icon, .mem .img, .allRegs, .pend, .ring, .leases, .lamp, .rcl,
    .boot, .ave, .xlt, .wrd, .xng, .cam, .ras, .dst, .rbt, .sco, .sgn, .hv, .can, .svc, .ports,
    .brg] W = true) {a : _} : (retranslateOldest a).Within W := by
  unfold retranslateOldest
  repeat' first
    | with_reducible exact within_skip
    | with_reducible exact within_all_nil
    | with_reducible refine within_all_cons ?_ ?_
    | with_reducible refine within_seq ?_ ?_
    | with_reducible refine within_look fun _ => ?_
    | with_reducible refine within_when ?_
    | ((with_reducible refine within_failUndispatched ?_); exact lel h (by decide +kernel))
    | ((with_reducible refine within_freeRunList ?_); exact lel h (by decide +kernel))
    | ((with_reducible refine within_leavePool ?_); exact lel h (by decide +kernel))
    | ((with_reducible refine within_modQueue ?_); exact lel h (by decide +kernel))
    | ((with_reducible refine within_placeRunList ?_); exact lel h (by decide +kernel))
    | ((with_reducible refine within_readEffects ?_); exact lel h (by decide +kernel))
    | ((with_reducible refine within_recordXltFault ?_); exact lel h (by decide +kernel))
    | ((with_reducible refine within_settleInvalidations ?_); exact lel h (by decide +kernel))
    | ((with_reducible refine within_updateShadow ?_); exact lel h (by decide +kernel))
    | ((with_reducible refine within_waitForPool ?_); exact lel h (by decide +kernel))
    | exact within_attach (lel h (by decide +kernel)) (by assumption)
    | ((with_reducible refine within_foldl ?_ fun _ _ hs => ?_); (· exact within_skip); refine within_seq hs ?_)
    | with_reducible refine within_ite ?_ ?_
    | with_reducible refine within_progIte ?_ ?_
    | with_reducible refine within_each fun _ => ?_
    | with_reducible refine within_all_map fun _ => ?_
    | with_reducible refine within_all_replicate ?_
    | split
    | (dsimp only; split)
    | dsimp only

theorem within_requeueStop {W : List Part} (h : partsLe [.mem .retA, .mem .retB, .regs 0x10,
    .regs 0x20, .regs 0x31, .regs 0x40, .regs 0x41, .regs 0x42, .regs 0x50, .regs 0x60, .regs
    0x62, .regs 0x70, .regs 0x90, .ring, .leases, .lamp, .rcl, .ave, .wrd, .ras, .dst, .rbt,
    .brg] W = true) {a : _} : (requeueStop a).Within W := by
  unfold requeueStop
  repeat' first
    | with_reducible exact within_skip
    | with_reducible exact within_all_nil
    | with_reducible refine within_all_cons ?_ ?_
    | with_reducible refine within_seq ?_ ?_
    | with_reducible refine within_look fun _ => ?_
    | with_reducible refine within_when ?_
    | ((with_reducible refine within_modQueue ?_); exact lel h (by decide +kernel))
    | ((with_reducible refine within_releaseUnits ?_); exact lel h (by decide +kernel))
    | ((with_reducible refine within_setSlot ?_); exact lel h (by decide +kernel))
    | ((with_reducible refine within_updateShadow ?_); exact lel h (by decide +kernel))
    | ((with_reducible refine within_foldl ?_ fun _ _ hs => ?_); (· exact within_skip); refine within_seq hs ?_)
    | with_reducible refine within_ite ?_ ?_
    | with_reducible refine within_progIte ?_ ?_
    | with_reducible refine within_each fun _ => ?_
    | with_reducible refine within_all_map fun _ => ?_
    | with_reducible refine within_all_replicate ?_
    | split
    | (dsimp only; split)
    | dsimp only

theorem within_resumeHalted {W : List Part} (h : partsLe [.mem .retA, .mem .retB, .regs 0x6,
    .regs 0x10, .regs 0x20, .regs 0x31, .regs 0x40, .regs 0x41, .regs 0x42, .regs 0x50, .regs
    0x60, .regs 0x62, .regs 0x70, .regs 0x90, .ring, .leases, .lamp, .rcl, .wrd, .xng] W = true)
    {a : _} : (resumeHalted a).Within W := by
  unfold resumeHalted
  repeat' first
    | with_reducible exact within_skip
    | with_reducible exact within_all_nil
    | with_reducible refine within_all_cons ?_ ?_
    | with_reducible refine within_seq ?_ ?_
    | with_reducible refine within_look fun _ => ?_
    | with_reducible refine within_when ?_
    | ((with_reducible refine within_accessWaits ?_); exact lel h (by decide +kernel))
    | ((with_reducible refine within_modQueue ?_); exact lel h (by decide +kernel))
    | ((with_reducible refine within_updateShadow ?_); exact lel h (by decide +kernel))
    | ((with_reducible refine within_foldl ?_ fun _ _ hs => ?_); (· exact within_skip); refine within_seq hs ?_)
    | with_reducible refine within_ite ?_ ?_
    | with_reducible refine within_progIte ?_ ?_
    | with_reducible refine within_each fun _ => ?_
    | with_reducible refine within_all_map fun _ => ?_
    | with_reducible refine within_all_replicate ?_
    | split
    | (dsimp only; split)
    | dsimp only

end Sys2Proof.Machine
end

