-- ==== Sys2Proof/Laws/WithinFencing.lean ====
section
/-! SUPPORT. What each operation of Machine/Fencing.lean can change at most. -/

set_option Elab.async false
set_option linter.unreachableTactic false
set_option linter.unusedTactic false

namespace Sys2Proof.Machine

theorem within_fenceUnits {W : List Part} (h : partsLe [.mem .retA, .mem .retB, .mem .icon,
    .mem .img, .allRegs, .pend, .ring, .leases, .lamp, .rcl, .boot, .ave, .xlt, .wrd, .xng,
    .cam, .ras, .dst, .rbt, .sco, .sgn, .hv, .can, .svc, .ports, .brg] W = true) {a b c : _} :
    (fenceUnits a b c).Within W := by
  unfold fenceUnits
  repeat' first
    | with_reducible exact within_skip
    | with_reducible exact within_all_nil
    | with_reducible refine within_all_cons ?_ ?_
    | with_reducible refine within_seq ?_ ?_
    | with_reducible refine within_look fun _ => ?_
    | with_reducible refine within_when ?_
    | ((with_reducible refine within_modAve ?_); exact lec h (by decide +kernel))
    | ((with_reducible refine within_modRcl ?_); exact lec h (by decide +kernel))
    | ((with_reducible refine within_raise ?_ ?_) <;> first | exact lel h (by decide +kernel) | exact partsLe_trans (event_le _) (lel h (by decide +kernel)))
    | ((with_reducible refine within_escalate ?_); exact lel h (by decide +kernel))

theorem within_recoverUnit {W : List Part} (h : partsLe [.mem .retA, .mem .retB, .mem .icon,
    .mem .img, .allRegs, .pend, .ring, .leases, .lamp, .rcl, .boot, .ave, .xlt, .wrd, .xng,
    .cam, .ras, .dst, .rbt, .sco, .sgn, .hv, .can, .svc, .ports, .brg] W = true) {a b c : _} :
    (recoverUnit a b c).Within W := by
  unfold recoverUnit
  repeat' first
    | with_reducible exact within_skip
    | with_reducible exact within_all_nil
    | with_reducible refine within_all_cons ?_ ?_
    | with_reducible refine within_seq ?_ ?_
    | with_reducible refine within_look fun _ => ?_
    | with_reducible refine within_when ?_
    | ((with_reducible refine within_escalate ?_); exact lel h (by decide +kernel))
    | ((with_reducible refine within_fenceUnits ?_); exact lel h (by decide +kernel))
    | ((with_reducible refine within_foldl ?_ fun _ _ hs => ?_); (· exact within_skip); refine within_seq hs ?_)
    | with_reducible refine within_ite ?_ ?_

theorem within_unitFault {W : List Part} (h : partsLe [.mem .retA, .mem .retB, .mem .icon,
    .mem .img, .allRegs, .pend, .ring, .leases, .lamp, .rcl, .boot, .ave, .xlt, .wrd, .xng,
    .cam, .ras, .dst, .rbt, .sco, .sgn, .hv, .can, .svc, .ports, .brg] W = true) {a b c d e f :
    _} : (unitFault a b c d e f).Within W := by
  unfold unitFault
  repeat' first
    | with_reducible exact within_skip
    | with_reducible exact within_all_nil
    | with_reducible refine within_all_cons ?_ ?_
    | with_reducible refine within_seq ?_ ?_
    | with_reducible refine within_look fun _ => ?_
    | with_reducible refine within_when ?_
    | ((with_reducible refine within_raise ?_ ?_) <;> first | exact lel h (by decide +kernel) | exact partsLe_trans (event_le _) (lel h (by decide +kernel)))
    | ((with_reducible refine within_recoverUnit ?_); exact lel h (by decide +kernel))
    | ((with_reducible refine within_foldl ?_ fun _ _ hs => ?_); (· exact within_skip); refine within_seq hs ?_)
    | with_reducible refine within_ite ?_ ?_
    | with_reducible refine within_progIte ?_ ?_
    | with_reducible refine within_each fun _ => ?_
    | with_reducible refine within_all_map fun _ => ?_
    | with_reducible refine within_all_replicate ?_
    | split
    | (dsimp only; split)
    | dsimp only

end Sys2Proof.Machine
end

