-- ==== Sys2Proof/Laws/WithinStopIO.lean ====
section
/-! SUPPORT. What each operation of Machine/StopIO.lean can change at most. -/

set_option Elab.async false
set_option linter.unreachableTactic false
set_option linter.unusedTactic false

namespace Sys2Proof.Machine

theorem within_remoteRequest {W : List Part} (h : partsLe [.leases, .brg] W = true) {a b c d
    e : _} : (remoteRequest a b c d e).Within W := by
  unfold remoteRequest
  repeat' first
    | with_reducible exact within_skip
    | with_reducible exact within_all_nil
    | with_reducible refine within_all_cons ?_ ?_
    | with_reducible refine within_seq ?_ ?_
    | with_reducible refine within_look fun _ => ?_
    | with_reducible refine within_when ?_
    | ((with_reducible refine within_modBrg ?_); exact lec h (by decide +kernel))
    | ((with_reducible refine within_sendPkt ?_); exact lel h (by decide +kernel))
    | ((with_reducible refine within_takeLease ?_); exact lel h (by decide +kernel))

theorem within_markError {W : List Part} (h : partsLe [.wrd] W = true) {a : _} : (markError
    a).Within W := by
  unfold markError
  repeat' first
    | with_reducible exact within_skip
    | with_reducible exact within_all_nil
    | with_reducible refine within_all_cons ?_ ?_
    | with_reducible refine within_seq ?_ ?_
    | with_reducible refine within_look fun _ => ?_
    | with_reducible refine within_when ?_
    | ((with_reducible refine within_modSlot ?_); exact lel h (by decide +kernel))

theorem within_markPoison {W : List Part} (h : partsLe [.wrd] W = true) {a : _} :
    (markPoison a).Within W := by
  unfold markPoison
  repeat' first
    | with_reducible exact within_skip
    | with_reducible exact within_all_nil
    | with_reducible refine within_all_cons ?_ ?_
    | with_reducible refine within_seq ?_ ?_
    | with_reducible refine within_look fun _ => ?_
    | with_reducible refine within_when ?_
    | ((with_reducible refine within_modSlot ?_); exact lel h (by decide +kernel))
    | ((with_reducible refine within_foldl ?_ fun _ _ hs => ?_); (· exact within_skip); refine within_seq hs ?_)
    | with_reducible refine within_ite ?_ ?_
    | with_reducible refine within_progIte ?_ ?_
    | with_reducible refine within_each fun _ => ?_
    | with_reducible refine within_all_map fun _ => ?_
    | with_reducible refine within_all_replicate ?_
    | split
    | (dsimp only; split)
    | dsimp only

theorem within_writePiece {W : List Part} (h : partsLe [.mem .plaza, .mem .lpddr, .mem
    .retA, .mem .retB, .mem .icon, .mem .img, .allRegs, .pend, .ring, .leases, .lamp, .rcl,
    .boot, .ave, .xlt, .wrd, .xng, .cam, .ras, .dst, .rbt, .sco, .sgn, .hv, .can, .svc, .ports,
    .brg] W = true) {a b c : _} : (writePiece a b c).Within W := by
  unfold writePiece
  repeat' first
    | with_reducible exact within_skip
    | with_reducible exact within_all_nil
    | with_reducible refine within_all_cons ?_ ?_
    | with_reducible refine within_seq ?_ ?_
    | with_reducible refine within_look fun _ => ?_
    | with_reducible refine within_when ?_
    | ((with_reducible refine within_markError ?_); exact lel h (by decide +kernel))
    | ((with_reducible refine within_markPoison ?_); exact lel h (by decide +kernel))
    | ((with_reducible refine within_memWrite ?_); exact lel h (by decide +kernel))
    | ((with_reducible refine within_remoteRequest ?_); exact lel h (by decide +kernel))
    | ((with_reducible refine within_unmappedAccess ?_); exact lel h (by decide +kernel))
    | ((with_reducible refine within_foldl ?_ fun _ _ hs => ?_); (· exact within_skip); refine within_seq hs ?_)
    | with_reducible refine within_ite ?_ ?_
    | with_reducible refine within_progIte ?_ ?_
    | with_reducible refine within_each fun _ => ?_
    | with_reducible refine within_all_map fun _ => ?_
    | with_reducible refine within_all_replicate ?_
    | split
    | (dsimp only; split)
    | dsimp only

theorem within_stopWrite {W : List Part} (h : partsLe [.mem .plaza, .mem .lpddr, .mem .retA,
    .mem .retB, .mem .icon, .mem .img, .allRegs, .pend, .ring, .leases, .lamp, .rcl, .boot,
    .ave, .xlt, .wrd, .xng, .cam, .ras, .dst, .rbt, .sco, .sgn, .hv, .can, .svc, .ports, .brg] W
    = true) {a b c d e : _} : (stopWrite a b c d e).Within W := by
  unfold stopWrite
  repeat' first
    | with_reducible exact within_skip
    | with_reducible exact within_all_nil
    | with_reducible refine within_all_cons ?_ ?_
    | with_reducible refine within_seq ?_ ?_
    | with_reducible refine within_look fun _ => ?_
    | with_reducible refine within_when ?_
    | ((with_reducible refine within_writePiece ?_); exact lel h (by decide +kernel))
    | ((with_reducible refine within_foldl ?_ fun _ _ hs => ?_); (· exact within_skip); refine within_seq hs ?_)
    | with_reducible refine within_ite ?_ ?_
    | with_reducible refine within_progIte ?_ ?_
    | with_reducible refine within_each fun _ => ?_
    | with_reducible refine within_all_map fun _ => ?_
    | with_reducible refine within_all_replicate ?_
    | split
    | (dsimp only; split)
    | dsimp only

theorem within_finishWork {W : List Part} (h : partsLe [.mem .retA, .mem .retB, .regs 0x3,
    .regs 0x4, .regs 0x5, .regs 0x6, .regs 0x10, .regs 0x20, .regs 0x31, .regs 0x40, .regs 0x41,
    .regs 0x42, .regs 0x50, .regs 0x60, .regs 0x62, .regs 0x70, .regs 0x90, .ring, .leases,
    .lamp, .rcl, .boot, .ave, .xlt, .wrd, .xng, .ras, .dst, .rbt, .brg] W = true) {a : _} :
    (finishWork a).Within W := by
  unfold finishWork
  repeat' first
    | with_reducible exact within_skip
    | with_reducible exact within_all_nil
    | with_reducible refine within_all_cons ?_ ?_
    | with_reducible refine within_seq ?_ ?_
    | with_reducible refine within_look fun _ => ?_
    | with_reducible refine within_when ?_
    | ((with_reducible refine within_failAccess ?_); exact lel h (by decide +kernel))
    | ((with_reducible refine within_failPoisoned ?_); exact lel h (by decide +kernel))
    | ((with_reducible refine within_modSlot ?_); exact lel h (by decide +kernel))
    | ((with_reducible refine within_foldl ?_ fun _ _ hs => ?_); (· exact within_skip); refine within_seq hs ?_)
    | with_reducible refine within_ite ?_ ?_
    | with_reducible refine within_progIte ?_ ?_
    | with_reducible refine within_each fun _ => ?_
    | with_reducible refine within_all_map fun _ => ?_
    | with_reducible refine within_all_replicate ?_
    | split
    | (dsimp only; split)
    | dsimp only

theorem within_checkAccess {W : List Part} (h : partsLe [.mem .retA, .mem .retB, .regs 0x3,
    .regs 0x4, .regs 0x5, .regs 0x6, .regs 0x10, .regs 0x20, .regs 0x31, .regs 0x40, .regs 0x41,
    .regs 0x42, .regs 0x50, .regs 0x60, .regs 0x62, .regs 0x70, .regs 0x90, .ring, .leases,
    .lamp, .rcl, .boot, .ave, .xlt, .wrd, .xng, .ras, .dst, .rbt, .brg] W = true) {a : _} :
    (checkAccess a).Within W := by
  unfold checkAccess
  repeat' first
    | with_reducible exact within_skip
    | with_reducible exact within_all_nil
    | with_reducible refine within_all_cons ?_ ?_
    | with_reducible refine within_seq ?_ ?_
    | with_reducible refine within_look fun _ => ?_
    | with_reducible refine within_when ?_
    | ((with_reducible refine within_failAccess ?_); exact lel h (by decide +kernel))
    | ((with_reducible refine within_failPoisoned ?_); exact lel h (by decide +kernel))
    | ((with_reducible refine within_foldl ?_ fun _ _ hs => ?_); (· exact within_skip); refine within_seq hs ?_)
    | with_reducible refine within_ite ?_ ?_
    | with_reducible refine within_progIte ?_ ?_
    | with_reducible refine within_each fun _ => ?_
    | with_reducible refine within_all_map fun _ => ?_
    | with_reducible refine within_all_replicate ?_
    | split
    | (dsimp only; split)
    | dsimp only

theorem within_runStopOn {W : List Part} (h : partsLe [.mem .retA, .mem .retB, .mem .icon,
    .mem .img, .allRegs, .pend, .ring, .leases, .lamp, .rcl, .boot, .ave, .xlt, .wrd, .xng,
    .cam, .ras, .dst, .rbt, .sco, .sgn, .hv, .can, .svc, .ports, .brg] W = true) {a b c d e : _}
    (hp0 : ∀ x y, (d x y).Within W) (hp1 : e.Within W) : (runStopOn a b c d e).Within W := by
  unfold runStopOn
  repeat' first
    | with_reducible exact within_skip
    | with_reducible exact within_all_nil
    | with_reducible refine within_all_cons ?_ ?_
    | with_reducible refine within_seq ?_ ?_
    | with_reducible refine within_look fun _ => ?_
    | with_reducible refine within_when ?_
    | ((with_reducible refine within_failAccess ?_); exact lel h (by decide +kernel))
    | ((with_reducible refine within_failPoisoned ?_); exact lel h (by decide +kernel))
    | ((with_reducible refine within_readEffects ?_); exact lel h (by decide +kernel))
    | ((with_reducible refine within_remoteRequest ?_); exact lel h (by decide +kernel))
    | ((with_reducible refine within_unmappedAccess ?_); exact lel h (by decide +kernel))
    | ((with_reducible refine within_foldl ?_ fun _ _ hs => ?_); (· exact within_skip); refine within_seq hs ?_)
    | with_reducible exact hp0 _ _
    | with_reducible exact hp1
    | with_reducible refine within_ite ?_ ?_
    | with_reducible refine within_progIte ?_ ?_
    | with_reducible refine within_each fun _ => ?_
    | with_reducible refine within_all_map fun _ => ?_
    | with_reducible refine within_all_replicate ?_
    | split
    | (dsimp only; split)
    | dsimp only

theorem within_runStop {W : List Part} (h : partsLe [.mem .retA, .mem .retB, .mem .icon,
    .mem .img, .allRegs, .pend, .ring, .leases, .lamp, .rcl, .boot, .ave, .xlt, .wrd, .xng,
    .cam, .ras, .dst, .rbt, .sco, .sgn, .hv, .can, .svc, .ports, .brg] W = true) {a b c : _}
    (hp0 : ∀ x y, (c x y).Within W) : (runStop a b c).Within W := by
  unfold runStop
  repeat' first
    | with_reducible exact within_skip
    | with_reducible exact within_all_nil
    | with_reducible refine within_all_cons ?_ ?_
    | with_reducible refine within_seq ?_ ?_
    | with_reducible refine within_look fun _ => ?_
    | with_reducible refine within_when ?_
    | ((with_reducible refine within_finishWork ?_); exact lel h (by decide +kernel))
    | ((with_reducible refine within_runStopOn ?_ (fun _ _ => ?_) ?_); exact lel h (by decide +kernel))
    | ((with_reducible refine within_foldl ?_ fun _ _ hs => ?_); (· exact within_skip); refine within_seq hs ?_)
    | with_reducible exact hp0 _ _
    | with_reducible refine within_ite ?_ ?_
    | with_reducible refine within_progIte ?_ ?_
    | with_reducible refine within_each fun _ => ?_
    | with_reducible refine within_all_map fun _ => ?_
    | with_reducible refine within_all_replicate ?_
    | split
    | (dsimp only; split)
    | dsimp only

end Sys2Proof.Machine
end

