-- ==== Sys2Proof/Laws/WithinArrays.lean ====
section
/-! SUPPORT. What each operation of Machine/Arrays.lean can change at most. -/

set_option Elab.async false
set_option linter.unreachableTactic false
set_option linter.unusedTactic false

namespace Sys2Proof.Machine

theorem within_modArr {W : List Part} (h : partsLe [.dst] W = true) {a b : _} : (modArr a
    b).Within W := by
  unfold modArr
  repeat' first
    | with_reducible exact within_skip
    | with_reducible exact within_all_nil
    | with_reducible refine within_all_cons ?_ ?_
    | with_reducible refine within_seq ?_ ?_
    | with_reducible refine within_look fun _ => ?_
    | with_reducible refine within_when ?_
    | ((with_reducible refine within_modDst ?_); exact lec h (by decide +kernel))

theorem within_dstRaise {W : List Part} (h : partsLe [.mem .retA, .mem .retB, .regs 0x10,
    .regs 0x20, .regs 0x31, .regs 0x40, .regs 0x41, .regs 0x42, .regs 0x50, .regs 0x60, .regs
    0x62, .regs 0x70, .regs 0x90, .ring, .lamp, .rcl] W = true) {a b c d e f : _} : (dstRaise a
    b c d e f).Within W := by
  unfold dstRaise
  repeat' first
    | with_reducible exact within_skip
    | with_reducible exact within_all_nil
    | with_reducible refine within_all_cons ?_ ?_
    | with_reducible refine within_seq ?_ ?_
    | with_reducible refine within_look fun _ => ?_
    | with_reducible refine within_when ?_
    | ((with_reducible refine within_raise ?_ ?_) <;> first | exact lel h (by decide +kernel) | exact partsLe_trans (event_le _) (lel h (by decide +kernel)))

theorem within_storePage {W : List Part} (h : partsLe [.dst] W = true) {a b c d e : _} :
    (storePage a b c d e).Within W := by
  unfold storePage
  repeat' first
    | with_reducible exact within_skip
    | with_reducible exact within_all_nil
    | with_reducible refine within_all_cons ?_ ?_
    | with_reducible refine within_seq ?_ ?_
    | with_reducible refine within_look fun _ => ?_
    | with_reducible refine within_when ?_
    | ((with_reducible refine within_modArr ?_); exact lel h (by decide +kernel))
    | ((with_reducible refine within_foldl ?_ fun _ _ hs => ?_); (· exact within_skip); refine within_seq hs ?_)
    | with_reducible refine within_ite ?_ ?_
    | with_reducible refine within_progIte ?_ ?_
    | with_reducible refine within_each fun _ => ?_
    | with_reducible refine within_all_map fun _ => ?_
    | with_reducible refine within_all_replicate ?_
    | split
    | (dsimp only; split)
    | dsimp only

theorem within_startRewrites {W : List Part} (h : partsLe [.dst] W = true) {a : _} :
    (startRewrites a).Within W := by
  unfold startRewrites
  repeat' first
    | with_reducible exact within_skip
    | with_reducible exact within_all_nil
    | with_reducible refine within_all_cons ?_ ?_
    | with_reducible refine within_seq ?_ ?_
    | with_reducible refine within_look fun _ => ?_
    | with_reducible refine within_when ?_
    | ((with_reducible refine within_modArr ?_); exact lel h (by decide +kernel))
    | ((with_reducible refine within_foldl ?_ fun _ _ hs => ?_); (· exact within_skip); refine within_seq hs ?_)
    | with_reducible refine within_ite ?_ ?_
    | with_reducible refine within_progIte ?_ ?_
    | with_reducible refine within_each fun _ => ?_
    | with_reducible refine within_all_map fun _ => ?_
    | with_reducible refine within_all_replicate ?_
    | split
    | (dsimp only; split)
    | dsimp only

theorem within_rewritePage {W : List Part} (h : partsLe [.dst] W = true) {a b c d : _} :
    (rewritePage a b c d).Within W := by
  unfold rewritePage
  repeat' first
    | with_reducible exact within_skip
    | with_reducible exact within_all_nil
    | with_reducible refine within_all_cons ?_ ?_
    | with_reducible refine within_seq ?_ ?_
    | with_reducible refine within_look fun _ => ?_
    | with_reducible refine within_when ?_
    | ((with_reducible refine within_modArr ?_); exact lel h (by decide +kernel))
    | ((with_reducible refine within_startRewrites ?_); exact lel h (by decide +kernel))
    | ((with_reducible refine within_foldl ?_ fun _ _ hs => ?_); (· exact within_skip); refine within_seq hs ?_)
    | with_reducible refine within_ite ?_ ?_
    | with_reducible refine within_progIte ?_ ?_
    | with_reducible refine within_each fun _ => ?_
    | with_reducible refine within_all_map fun _ => ?_
    | with_reducible refine within_all_replicate ?_
    | split
    | (dsimp only; split)
    | dsimp only

theorem within_retireArray {W : List Part} (h : partsLe [.mem .retA, .mem .retB, .mem .icon,
    .mem .img, .allRegs, .pend, .ring, .leases, .lamp, .rcl, .boot, .ave, .xlt, .wrd, .xng,
    .cam, .ras, .dst, .rbt, .sco, .sgn, .hv, .can, .svc, .ports, .brg] W = true) {a b : _} :
    (retireArray a b).Within W := by
  unfold retireArray
  repeat' first
    | with_reducible exact within_skip
    | with_reducible exact within_all_nil
    | with_reducible refine within_all_cons ?_ ?_
    | with_reducible refine within_seq ?_ ?_
    | with_reducible refine within_look fun _ => ?_
    | with_reducible refine within_when ?_
    | ((with_reducible refine within_usePair rfl ?_ ?_) <;> first | exact lec h (by decide +kernel) | exact lel h (by decide +kernel))
    | ((with_reducible refine within_appendRetirement ?_); exact lel h (by decide +kernel))
    | ((with_reducible refine within_dstRaise ?_); exact lel h (by decide +kernel))
    | ((with_reducible refine within_escalate ?_); exact lel h (by decide +kernel))
    | ((with_reducible refine within_modArr ?_); exact lel h (by decide +kernel))
    | ((with_reducible refine within_rewritePage ?_); exact lel h (by decide +kernel))
    | ((with_reducible refine within_startRewrites ?_); exact lel h (by decide +kernel))
    | ((with_reducible refine within_foldl ?_ fun _ _ hs => ?_); (· exact within_skip); refine within_seq hs ?_)
    | with_reducible refine within_ite ?_ ?_
    | with_reducible refine within_progIte ?_ ?_
    | with_reducible refine within_each fun _ => ?_
    | with_reducible refine within_all_map fun _ => ?_
    | with_reducible refine within_all_replicate ?_
    | split
    | (dsimp only; split)
    | dsimp only

theorem within_calibrated {W : List Part} (h : partsLe [.mem .retA, .mem .retB, .mem .icon,
    .mem .img, .allRegs, .pend, .ring, .leases, .lamp, .rcl, .boot, .ave, .xlt, .wrd, .xng,
    .cam, .ras, .dst, .rbt, .sco, .sgn, .hv, .can, .svc, .ports, .brg] W = true) {a b : _} :
    (calibrated a b).Within W := by
  unfold calibrated
  repeat' first
    | with_reducible exact within_skip
    | with_reducible exact within_all_nil
    | with_reducible refine within_all_cons ?_ ?_
    | with_reducible refine within_seq ?_ ?_
    | with_reducible refine within_look fun _ => ?_
    | with_reducible refine within_when ?_
    | ((with_reducible refine within_bump rfl ?_); exact lec h (by decide +kernel))
    | ((with_reducible refine within_dstRaise ?_); exact lel h (by decide +kernel))
    | ((with_reducible refine within_modArr ?_); exact lel h (by decide +kernel))
    | ((with_reducible refine within_retireArray ?_); exact lel h (by decide +kernel))
    | ((with_reducible refine within_startRewrites ?_); exact lel h (by decide +kernel))
    | ((with_reducible refine within_foldl ?_ fun _ _ hs => ?_); (· exact within_skip); refine within_seq hs ?_)
    | with_reducible refine within_ite ?_ ?_
    | with_reducible refine within_progIte ?_ ?_
    | with_reducible refine within_each fun _ => ?_
    | with_reducible refine within_all_map fun _ => ?_
    | with_reducible refine within_all_replicate ?_
    | split
    | (dsimp only; split)
    | dsimp only

theorem within_dueCalibration {W : List Part} (h : partsLe [.dst] W = true) {a : _} :
    (dueCalibration a).Within W := by
  unfold dueCalibration
  repeat' first
    | with_reducible exact within_skip
    | with_reducible exact within_all_nil
    | with_reducible refine within_all_cons ?_ ?_
    | with_reducible refine within_seq ?_ ?_
    | with_reducible refine within_look fun _ => ?_
    | with_reducible refine within_when ?_
    | ((with_reducible refine within_modArr ?_); exact lel h (by decide +kernel))
    | ((with_reducible refine within_startCalibrations ?_); exact lel h (by decide +kernel))
    | ((with_reducible refine within_foldl ?_ fun _ _ hs => ?_); (· exact within_skip); refine within_seq hs ?_)
    | with_reducible refine within_ite ?_ ?_
    | with_reducible refine within_progIte ?_ ?_
    | with_reducible refine within_each fun _ => ?_
    | with_reducible refine within_all_map fun _ => ?_
    | with_reducible refine within_all_replicate ?_
    | split
    | (dsimp only; split)
    | dsimp only

theorem within_forceCalibration {W : List Part} (h : partsLe [.regs 0x10, .dst] W = true) {a
    : _} : (forceCalibration a).Within W := by
  unfold forceCalibration
  repeat' first
    | with_reducible exact within_skip
    | with_reducible exact within_all_nil
    | with_reducible refine within_all_cons ?_ ?_
    | with_reducible refine within_seq ?_ ?_
    | with_reducible refine within_look fun _ => ?_
    | with_reducible refine within_when ?_
    | ((with_reducible refine within_bump rfl ?_); exact lec h (by decide +kernel))
    | ((with_reducible refine within_modArr ?_); exact lel h (by decide +kernel))
    | ((with_reducible refine within_startCalibrations ?_); exact lel h (by decide +kernel))
    | ((with_reducible refine within_foldl ?_ fun _ _ hs => ?_); (· exact within_skip); refine within_seq hs ?_)
    | with_reducible refine within_ite ?_ ?_
    | with_reducible refine within_progIte ?_ ?_
    | with_reducible refine within_each fun _ => ?_
    | with_reducible refine within_all_map fun _ => ?_
    | with_reducible refine within_all_replicate ?_
    | split
    | (dsimp only; split)
    | dsimp only

theorem within_thermalTriggers {W : List Part} (h : partsLe [.mem .retA, .mem .retB, .regs
    0x10, .regs 0x20, .regs 0x31, .regs 0x40, .regs 0x41, .regs 0x42, .regs 0x50, .regs 0x60,
    .regs 0x62, .regs 0x70, .regs 0x90, .ring, .lamp, .rcl, .dst] W = true) :
    thermalTriggers.Within W := by
  unfold thermalTriggers
  repeat' first
    | with_reducible exact within_skip
    | with_reducible exact within_all_nil
    | with_reducible refine within_all_cons ?_ ?_
    | with_reducible refine within_seq ?_ ?_
    | with_reducible refine within_look fun _ => ?_
    | with_reducible refine within_when ?_
    | ((with_reducible refine within_useRegs h (by decide +kernel) ?_); exact lel h (by decide +kernel))
    | ((with_reducible refine within_dueCalibration ?_); exact lel h (by decide +kernel))
    | ((with_reducible refine within_forceCalibration ?_); exact lel h (by decide +kernel))
    | ((with_reducible refine within_foldl ?_ fun _ _ hs => ?_); (· exact within_skip); refine within_seq hs ?_)
    | with_reducible refine within_ite ?_ ?_
    | with_reducible refine within_progIte ?_ ?_
    | with_reducible refine within_each fun _ => ?_
    | with_reducible refine within_all_map fun _ => ?_
    | with_reducible refine within_all_replicate ?_
    | split
    | (dsimp only; split)
    | dsimp only

theorem within_allDue {W : List Part} (h : partsLe [.dst] W = true) : allDue.Within W := by
  unfold allDue
  repeat' first
    | with_reducible exact within_skip
    | with_reducible exact within_all_nil
    | with_reducible refine within_all_cons ?_ ?_
    | with_reducible refine within_seq ?_ ?_
    | with_reducible refine within_look fun _ => ?_
    | with_reducible refine within_when ?_
    | ((with_reducible refine within_dueCalibration ?_); exact lel h (by decide +kernel))
    | ((with_reducible refine within_foldl ?_ fun _ _ hs => ?_); (· exact within_skip); refine within_seq hs ?_)
    | with_reducible refine within_ite ?_ ?_
    | with_reducible refine within_progIte ?_ ?_
    | with_reducible refine within_each fun _ => ?_
    | with_reducible refine within_all_map fun _ => ?_
    | with_reducible refine within_all_replicate ?_
    | split
    | (dsimp only; split)
    | dsimp only

theorem within_startCalibration {W : List Part} (h : partsLe [.mem .retA, .mem .retB, .regs
    0x10, .regs 0x20, .regs 0x31, .regs 0x40, .regs 0x41, .regs 0x42, .regs 0x50, .regs 0x60,
    .regs 0x62, .regs 0x70, .regs 0x90, .ring, .lamp, .rcl, .dst, .svc] W = true) {a : _} :
    (startCalibration a).Within W := by
  unfold startCalibration
  repeat' first
    | with_reducible exact within_skip
    | with_reducible exact within_all_nil
    | with_reducible refine within_all_cons ?_ ?_
    | with_reducible refine within_seq ?_ ?_
    | with_reducible refine within_look fun _ => ?_
    | with_reducible refine within_when ?_
    | ((with_reducible refine within_modDst ?_); exact lec h (by decide +kernel))
    | ((with_reducible refine within_bump rfl ?_); exact lec h (by decide +kernel))
    | ((with_reducible refine within_appendRetirement ?_); exact lel h (by decide +kernel))
    | ((with_reducible refine within_dstRaise ?_); exact lel h (by decide +kernel))
    | ((with_reducible refine within_foldl ?_ fun _ _ hs => ?_); (· exact within_skip); refine within_seq hs ?_)
    | with_reducible refine within_ite ?_ ?_
    | with_reducible refine within_progIte ?_ ?_
    | with_reducible refine within_each fun _ => ?_
    | with_reducible refine within_all_map fun _ => ?_
    | with_reducible refine within_all_replicate ?_
    | split
    | (dsimp only; split)
    | dsimp only

theorem within_sweepStep {W : List Part} (h : partsLe [.mem .retA, .mem .retB, .mem .icon,
    .mem .img, .allRegs, .pend, .ring, .leases, .lamp, .rcl, .boot, .ave, .xlt, .wrd, .xng,
    .cam, .ras, .dst, .rbt, .sco, .sgn, .hv, .can, .svc, .ports, .brg] W = true) {a b c d : _} :
    (sweepStep a b c d).Within W := by
  unfold sweepStep
  repeat' first
    | with_reducible exact within_skip
    | with_reducible exact within_all_nil
    | with_reducible refine within_all_cons ?_ ?_
    | with_reducible refine within_seq ?_ ?_
    | with_reducible refine within_look fun _ => ?_
    | with_reducible refine within_when ?_
    | ((with_reducible refine within_bump rfl ?_); exact lec h (by decide +kernel))
    | ((with_reducible refine within_calibrated ?_); exact lel h (by decide +kernel))
    | ((with_reducible refine within_dstRaise ?_); exact lel h (by decide +kernel))
    | ((with_reducible refine within_modArr ?_); exact lel h (by decide +kernel))
    | ((with_reducible refine within_retireArray ?_); exact lel h (by decide +kernel))
    | ((with_reducible refine within_foldl ?_ fun _ _ hs => ?_); (· exact within_skip); refine within_seq hs ?_)
    | with_reducible refine within_ite ?_ ?_
    | with_reducible refine within_progIte ?_ ?_
    | with_reducible refine within_each fun _ => ?_
    | with_reducible refine within_all_map fun _ => ?_
    | with_reducible refine within_all_replicate ?_
    | split
    | (dsimp only; split)
    | dsimp only

theorem within_issueWrites {W : List Part} (h : partsLe [.mem .retA, .mem .retB, .regs 0x4,
    .regs 0x5, .regs 0x6, .regs 0x10, .regs 0x20, .regs 0x31, .regs 0x40, .regs 0x41, .regs
    0x42, .regs 0x50, .regs 0x60, .regs 0x62, .regs 0x70, .regs 0x90, .ring, .leases, .lamp,
    .rcl, .boot, .ave, .xlt, .wrd, .xng, .ras, .dst, .rbt, .brg] W = true) {a : _} :
    (issueWrites a).Within W := by
  unfold issueWrites
  repeat' first
    | with_reducible exact within_skip
    | with_reducible exact within_all_nil
    | with_reducible refine within_all_cons ?_ ?_
    | with_reducible refine within_seq ?_ ?_
    | with_reducible refine within_look fun _ => ?_
    | with_reducible refine within_when ?_
    | ((with_reducible refine within_failStop ?_); exact lel h (by decide +kernel))
    | ((with_reducible refine within_modArr ?_); exact lel h (by decide +kernel))
    | ((with_reducible refine within_modSlot ?_); exact lel h (by decide +kernel))
    | ((with_reducible refine within_foldl ?_ fun _ _ hs => ?_); (· exact within_skip); refine within_seq hs ?_)
    | with_reducible refine within_ite ?_ ?_
    | with_reducible refine within_progIte ?_ ?_
    | with_reducible refine within_each fun _ => ?_
    | with_reducible refine within_all_map fun _ => ?_
    | with_reducible refine within_all_replicate ?_
    | split
    | (dsimp only; split)
    | dsimp only

theorem within_writeGoesOn {W : List Part} (h : partsLe [.mem .retA, .mem .retB, .regs 0x4,
    .regs 0x5, .regs 0x6, .regs 0x10, .regs 0x20, .regs 0x31, .regs 0x40, .regs 0x41, .regs
    0x42, .regs 0x50, .regs 0x60, .regs 0x62, .regs 0x70, .regs 0x90, .ring, .leases, .lamp,
    .rcl, .boot, .ave, .xlt, .wrd, .xng, .ras, .dst, .rbt, .brg] W = true) {a : _} :
    (writeGoesOn a).Within W := by
  unfold writeGoesOn
  repeat' first
    | with_reducible exact within_skip
    | with_reducible exact within_all_nil
    | with_reducible refine within_all_cons ?_ ?_
    | with_reducible refine within_seq ?_ ?_
    | with_reducible refine within_look fun _ => ?_
    | with_reducible refine within_when ?_
    | ((with_reducible refine within_issueWrites ?_); exact lel h (by decide +kernel))
    | ((with_reducible refine within_foldl ?_ fun _ _ hs => ?_); (· exact within_skip); refine within_seq hs ?_)
    | with_reducible refine within_ite ?_ ?_
    | with_reducible refine within_progIte ?_ ?_
    | with_reducible refine within_each fun _ => ?_
    | with_reducible refine within_all_map fun _ => ?_
    | with_reducible refine within_all_replicate ?_
    | split
    | (dsimp only; split)
    | dsimp only

end Sys2Proof.Machine
end

