-- ==== Sys2Proof/Laws/KeepsArrays.lean ====
section
/-! SUPPORT. What each command of Arrays may change. -/

set_option Elab.async false
set_option linter.unreachableTactic false
set_option linter.unusedTactic false

namespace Sys2Proof.Machine

/-- What `calibrationPeriodExpire` to `pageWriteDone` may change. -/
theorem keeps_arrays_0 :
    (∀ a s, Ends (.calibrationPeriodExpire a) s fun t =>
    s.onlyChanges [.mem .retA, .mem .retB, .regs 0x10, .regs 0x20, .regs 0x31, .regs 0x40, .regs
          0x41, .regs 0x42, .regs 0x50, .regs 0x60, .regs 0x62, .regs 0x70, .regs 0x90, .ring,
          .lamp, .rcl, .dst] t)
    ∧ (∀ a s, Ends (.calibrationGraceExpire a) s fun t =>
    s.onlyChanges [.mem .retA, .mem .retB, .regs 0x10, .regs 0x20, .regs 0x31, .regs 0x40, .regs
          0x41, .regs 0x42, .regs 0x50, .regs 0x60, .regs 0x62, .regs 0x70, .regs 0x90, .ring,
          .lamp, .rcl, .dst] t)
    ∧ (∀ a b s, Ends (.calibrationDone a b) s fun t =>
    s.onlyChanges [.mem .retA, .mem .retB, .mem .icon, .mem .img, .allRegs, .pend, .ring, .leases,
          .lamp, .rcl, .boot, .ave, .xlt, .wrd, .xng, .cam, .ras, .dst, .rbt, .sco, .sgn, .hv, .can,
          .svc, .ports, .brg] t)
    ∧ (∀ a b c s, Ends (.sweepStep a b c) s fun t =>
    s.onlyChanges [.mem .retA, .mem .retB, .mem .icon, .mem .img, .allRegs, .pend, .ring, .leases,
          .lamp, .rcl, .boot, .ave, .xlt, .wrd, .xng, .cam, .ras, .dst, .rbt, .sco, .sgn, .hv, .can,
          .svc, .ports, .brg] t)
    ∧ (∀ a s, Ends (.sweepForceExpire a) s fun t =>
    s.onlyChanges [.dst] t)
    ∧ (∀ a s, Ends (.pageWrite a) s fun t =>
    s.onlyChanges [.mem .retA, .mem .retB, .mem .icon, .mem .img, .allRegs, .pend, .ring, .leases,
          .lamp, .rcl, .boot, .ave, .xlt, .wrd, .xng, .cam, .ras, .dst, .rbt, .sco, .sgn, .hv, .can,
          .svc, .ports, .brg] t)
    ∧ (∀ a b s, Ends (.pageWriteDone a b) s fun t =>
    s.onlyChanges [.mem .retA, .mem .retB, .mem .icon, .mem .img, .allRegs, .pend, .ring, .leases,
          .lamp, .rcl, .boot, .ave, .xlt, .wrd, .xng, .cam, .ras, .dst, .rbt, .sco, .sgn, .hv, .can,
          .svc, .ports, .brg] t) := by
  refine ⟨fun a s => ends_of (o := execCalibrationPeriodExpire a s) rfl ?_,
    fun a s => ends_of (o := execCalibrationGraceExpire a s) rfl ?_,
    fun a b s => ends_of (o := execCalibrationDone a b s) rfl ?_,
    fun a b c s => ends_of (o := execSweepStep a b c s) rfl ?_,
    fun a s => ends_of (o := execSweepForceExpire a s) rfl ?_,
    fun a s => ends_of (o := execPageWrite a s) rfl ?_,
    fun a b s => ends_of (o := execPageWriteDone a b s) rfl ?_⟩
  all_goals first
    | unfold execCalibrationPeriodExpire
    | unfold execCalibrationGraceExpire
    | unfold execCalibrationDone
    | unfold execSweepStep
    | unfold execSweepForceExpire
    | unfold execPageWrite
    | unfold execPageWriteDone
  all_goals refine ⟨_, rfl, onlyChanges_of_within ?_ _⟩
  all_goals repeat' first
    | with_reducible exact within_skip
    | with_reducible exact within_all_nil
    | with_reducible refine within_all_cons ?_ ?_
    | with_reducible refine within_seq ?_ ?_
    | with_reducible refine within_look fun _ => ?_
    | with_reducible refine within_when ?_
    | ((with_reducible refine within_usePair rfl ?_ ?_) <;> first | exact (by decide +kernel) | exact (by decide +kernel))
    | ((with_reducible refine within_dueCalibration ?_); exact (by decide +kernel))
    | ((with_reducible refine within_forceCalibration ?_); exact (by decide +kernel))
    | ((with_reducible refine within_calibrated ?_); exact (by decide +kernel))
    | ((with_reducible refine within_modArr ?_); exact (by decide +kernel))
    | ((with_reducible refine within_sweepStep ?_); exact (by decide +kernel))
    | ((with_reducible refine within_checkAccess ?_); exact (by decide +kernel))
    | ((with_reducible refine within_issueWrites ?_); exact (by decide +kernel))
    | ((with_reducible refine within_runStopOn ?_ (fun _ _ => ?_) ?_); exact (by decide +kernel))
    | ((with_reducible refine within_modDst ?_); exact (by decide +kernel))
    | ((with_reducible refine within_dstRaise ?_); exact (by decide +kernel))
    | ((with_reducible refine within_retireArray ?_); exact (by decide +kernel))
    | ((with_reducible refine within_startCalibrations ?_); exact (by decide +kernel))
    | ((with_reducible refine within_startRewrites ?_); exact (by decide +kernel))
    | ((with_reducible refine within_storePage ?_); exact (by decide +kernel))
    | ((with_reducible refine within_writeGoesOn ?_); exact (by decide +kernel))
    | ((with_reducible refine within_foldl ?_ fun _ _ hs => ?_); (· exact within_skip); refine within_seq hs ?_)
    | with_reducible refine within_ite ?_ ?_
    | with_reducible refine within_progIte ?_ ?_
    | with_reducible refine within_each fun _ => ?_
    | with_reducible refine within_all_map fun _ => ?_
    | with_reducible refine within_all_replicate ?_
    | split
    | (dsimp only; split)
    | dsimp only

end Sys2Proof.Machine
end

