-- ==== Sys2Proof/Laws/WithinCombiner.lean ====
section
/-! SUPPORT. What each operation of Machine/Combiner.lean can change at most. -/

set_option Elab.async false
set_option linter.unreachableTactic false
set_option linter.unusedTactic false

namespace Sys2Proof.Machine

theorem within_modCore {W : List Part} (h : partsLe [.ras] W = true) {a b : _} : (modCore a
    b).Within W := by
  unfold modCore
  repeat' first
    | with_reducible exact within_skip
    | with_reducible exact within_all_nil
    | with_reducible refine within_all_cons ?_ ?_
    | with_reducible refine within_seq ?_ ?_
    | with_reducible refine within_look fun _ => ?_
    | with_reducible refine within_when ?_
    | ((with_reducible refine within_modRas ?_); exact lec h (by decide +kernel))

theorem within_combStep {W : List Part} (h : partsLe [.ras] W = true) {a b c : _} :
    (combStep a b c).Within W := by
  unfold combStep
  repeat' first
    | with_reducible exact within_skip
    | with_reducible exact within_all_nil
    | with_reducible refine within_all_cons ?_ ?_
    | with_reducible refine within_seq ?_ ?_
    | with_reducible refine within_look fun _ => ?_
    | with_reducible refine within_when ?_
    | ((with_reducible refine within_modCore ?_); exact lel h (by decide +kernel))

end Sys2Proof.Machine
end

