-- ==== Sys2Proof/Laws/WithinCompute.lean ====
section
/-! SUPPORT. What each operation of Machine/Compute.lean can change at most. -/

set_option Elab.async false
set_option linter.unreachableTactic false
set_option linter.unusedTactic false

namespace Sys2Proof.Machine

theorem within_computeOp {W : List Part} (h : partsLe [.mem .plaza, .mem .lpddr, .mem .retA,
    .mem .retB, .mem .icon, .mem .img, .allRegs, .pend, .ring, .leases, .lamp, .rcl, .boot,
    .ave, .xlt, .wrd, .xng, .cam, .ras, .dst, .rbt, .sco, .sgn, .hv, .can, .svc, .ports, .brg] W
    = true) {a b c : _} : (computeOp a b c).Within W := by
  unfold computeOp
  repeat' first
    | with_reducible exact within_skip
    | with_reducible exact within_all_nil
    | with_reducible refine within_all_cons ?_ ?_
    | with_reducible refine within_seq ?_ ?_
    | with_reducible refine within_look fun _ => ?_
    | with_reducible refine within_when ?_
    | ((with_reducible refine within_runStop ?_ (fun _ _ => ?_)); exact lel h (by decide +kernel))
    | ((with_reducible refine within_writeWhole ?_); exact lel h (by decide +kernel))
    | ((with_reducible refine within_foldl ?_ fun _ _ hs => ?_); (· exact within_skip); refine within_seq hs ?_)
    | with_reducible refine within_ite ?_ ?_

end Sys2Proof.Machine
end

