-- ==== Sys2Proof/Laws/WithinPower.lean ====
section
/-! SUPPORT. What each operation of Machine/Power.lean can change at most. -/

set_option Elab.async false
set_option linter.unreachableTactic false
set_option linter.unusedTactic false

namespace Sys2Proof.Machine

theorem within_enterQuiet {W : List Part} (h : partsLe [.regs 0x0, .lamp, .ave, .sco, .hv,
    .ports] W = true) : enterQuiet.Within W := by
  unfold enterQuiet
  repeat' first
    | with_reducible exact within_skip
    | with_reducible exact within_all_nil
    | with_reducible refine within_all_cons ?_ ?_
    | with_reducible refine within_seq ?_ ?_
    | with_reducible refine within_look fun _ => ?_
    | with_reducible refine within_when ?_
    | ((with_reducible refine within_modLamp ?_); exact lec h (by decide +kernel))
    | ((with_reducible refine within_quietGate ?_); exact lel h (by decide +kernel))
    | ((with_reducible refine within_stopDisplays ?_); exact lel h (by decide +kernel))

theorem within_leaveQuiet {W : List Part} (h : partsLe [.mem .retA, .mem .retB, .regs 0x0,
    .regs 0x10, .regs 0x20, .regs 0x31, .regs 0x40, .regs 0x41, .regs 0x42, .regs 0x50, .regs
    0x60, .regs 0x62, .regs 0x70, .regs 0x90, .ring, .leases, .lamp, .rcl, .ave, .dst, .sco,
    .ports] W = true) : leaveQuiet.Within W := by
  unfold leaveQuiet
  repeat' first
    | with_reducible exact within_skip
    | with_reducible exact within_all_nil
    | with_reducible refine within_all_cons ?_ ?_
    | with_reducible refine within_seq ?_ ?_
    | with_reducible refine within_look fun _ => ?_
    | with_reducible refine within_when ?_
    | ((with_reducible refine within_modAve ?_); exact lec h (by decide +kernel))
    | ((with_reducible refine within_modLamp ?_); exact lec h (by decide +kernel))
    | ((with_reducible refine within_allDue ?_); exact lel h (by decide +kernel))
    | ((with_reducible refine within_reclockUnits ?_); exact lel h (by decide +kernel))
    | ((with_reducible refine within_requestPlls ?_); exact lel h (by decide +kernel))
    | ((with_reducible refine within_restartDisplays ?_); exact lel h (by decide +kernel))

theorem within_parkDrained {W : List Part} (h : partsLe [.mem .retA, .mem .retB, .regs 0x4,
    .regs 0x5, .regs 0x6, .regs 0x10, .regs 0x20, .regs 0x31, .regs 0x40, .regs 0x41, .regs
    0x42, .regs 0x50, .regs 0x60, .regs 0x62, .regs 0x70, .regs 0x90, .ring, .leases, .lamp,
    .rcl, .boot, .ave, .xlt, .wrd, .xng, .ras, .dst, .rbt, .brg] W = true) : parkDrained.Within
    W := by
  unfold parkDrained
  repeat' first
    | with_reducible exact within_skip
    | with_reducible exact within_all_nil
    | with_reducible refine within_all_cons ?_ ?_
    | with_reducible refine within_seq ?_ ?_
    | with_reducible refine within_look fun _ => ?_
    | with_reducible refine within_when ?_
    | ((with_reducible refine within_modLamp ?_); exact lec h (by decide +kernel))
    | ((with_reducible refine within_parkWithdrawn ?_); exact lel h (by decide +kernel))
    | ((with_reducible refine within_withdrawQueue ?_); exact lel h (by decide +kernel))
    | ((with_reducible refine within_foldl ?_ fun _ _ hs => ?_); (· exact within_skip); refine within_seq hs ?_)
    | with_reducible refine within_ite ?_ ?_
    | with_reducible refine within_progIte ?_ ?_
    | with_reducible refine within_each fun _ => ?_
    | with_reducible refine within_all_map fun _ => ?_
    | with_reducible refine within_all_replicate ?_
    | split
    | (dsimp only; split)
    | dsimp only

theorem within_startPark {W : List Part} (h : partsLe [.mem .retA, .mem .retB, .regs 0x4,
    .regs 0x5, .regs 0x6, .regs 0x10, .regs 0x20, .regs 0x31, .regs 0x40, .regs 0x41, .regs
    0x42, .regs 0x50, .regs 0x60, .regs 0x62, .regs 0x70, .regs 0x90, .ring, .leases, .lamp,
    .rcl, .boot, .ave, .xlt, .wrd, .xng, .ras, .dst, .rbt, .sco, .hv, .ports, .brg] W = true) {a
    : _} : (startPark a).Within W := by
  unfold startPark
  repeat' first
    | with_reducible exact within_skip
    | with_reducible exact within_all_nil
    | with_reducible refine within_all_cons ?_ ?_
    | with_reducible refine within_seq ?_ ?_
    | with_reducible refine within_look fun _ => ?_
    | with_reducible refine within_when ?_
    | ((with_reducible refine within_modLamp ?_); exact lec h (by decide +kernel))
    | ((with_reducible refine within_modWrd ?_); exact lec h (by decide +kernel))
    | ((with_reducible refine within_parkDrained ?_); exact lel h (by decide +kernel))
    | ((with_reducible refine within_stopDisplays ?_); exact lel h (by decide +kernel))
    | ((with_reducible refine within_foldl ?_ fun _ _ hs => ?_); (· exact within_skip); refine within_seq hs ?_)
    | with_reducible refine within_ite ?_ ?_
    | with_reducible refine within_progIte ?_ ?_
    | with_reducible refine within_each fun _ => ?_
    | with_reducible refine within_all_map fun _ => ?_
    | with_reducible refine within_all_replicate ?_
    | split
    | (dsimp only; split)
    | dsimp only

theorem within_abortPark {W : List Part} (h : partsLe [.mem .retA, .mem .retB, .regs 0x0,
    .regs 0x6, .regs 0x10, .regs 0x20, .regs 0x31, .regs 0x40, .regs 0x41, .regs 0x42, .regs
    0x50, .regs 0x60, .regs 0x62, .regs 0x70, .regs 0x90, .ring, .leases, .lamp, .rcl, .ave,
    .wrd, .xng, .dst, .sco, .ports] W = true) : abortPark.Within W := by
  unfold abortPark
  repeat' first
    | with_reducible exact within_skip
    | with_reducible exact within_all_nil
    | with_reducible refine within_all_cons ?_ ?_
    | with_reducible refine within_seq ?_ ?_
    | with_reducible refine within_look fun _ => ?_
    | with_reducible refine within_when ?_
    | ((with_reducible refine within_modLamp ?_); exact lec h (by decide +kernel))
    | ((with_reducible refine within_modWrd ?_); exact lec h (by decide +kernel))
    | ((with_reducible refine within_leaveQuiet ?_); exact lel h (by decide +kernel))
    | ((with_reducible refine within_restartDisplays ?_); exact lel h (by decide +kernel))
    | ((with_reducible refine within_resumeHalted ?_); exact lel h (by decide +kernel))
    | ((with_reducible refine within_foldl ?_ fun _ _ hs => ?_); (· exact within_skip); refine within_seq hs ?_)
    | with_reducible refine within_ite ?_ ?_
    | with_reducible refine within_progIte ?_ ?_
    | with_reducible refine within_each fun _ => ?_
    | with_reducible refine within_all_map fun _ => ?_
    | with_reducible refine within_all_replicate ?_
    | split
    | (dsimp only; split)
    | dsimp only

theorem within_requestPower {W : List Part} (h : partsLe [.mem .retA, .mem .retB, .regs 0x0,
    .regs 0x4, .regs 0x5, .regs 0x6, .regs 0x10, .regs 0x20, .regs 0x31, .regs 0x40, .regs 0x41,
    .regs 0x42, .regs 0x50, .regs 0x60, .regs 0x62, .regs 0x70, .regs 0x90, .ring, .leases,
    .lamp, .rcl, .boot, .ave, .xlt, .wrd, .xng, .ras, .dst, .rbt, .sco, .hv, .ports, .brg] W =
    true) {a b : _} : (requestPower a b).Within W := by
  unfold requestPower
  repeat' first
    | with_reducible exact within_skip
    | with_reducible exact within_all_nil
    | with_reducible refine within_all_cons ?_ ?_
    | with_reducible refine within_seq ?_ ?_
    | with_reducible refine within_look fun _ => ?_
    | with_reducible refine within_when ?_
    | ((with_reducible refine within_modBoot ?_); exact lec h (by decide +kernel))
    | ((with_reducible refine within_enterQuiet ?_); exact lel h (by decide +kernel))
    | ((with_reducible refine within_startPark ?_); exact lel h (by decide +kernel))
    | ((with_reducible refine within_foldl ?_ fun _ _ hs => ?_); (· exact within_skip); refine within_seq hs ?_)
    | with_reducible refine within_ite ?_ ?_
    | with_reducible refine within_progIte ?_ ?_
    | with_reducible refine within_each fun _ => ?_
    | with_reducible refine within_all_map fun _ => ?_
    | with_reducible refine within_all_replicate ?_
    | split
    | (dsimp only; split)
    | dsimp only

theorem within_takeHeldRequest {W : List Part} (h : partsLe [.mem .retA, .mem .retB, .regs
    0x0, .regs 0x4, .regs 0x5, .regs 0x6, .regs 0x10, .regs 0x20, .regs 0x31, .regs 0x40, .regs
    0x41, .regs 0x42, .regs 0x50, .regs 0x60, .regs 0x62, .regs 0x70, .regs 0x90, .ring,
    .leases, .lamp, .rcl, .boot, .ave, .xlt, .wrd, .xng, .ras, .dst, .rbt, .sco, .hv, .ports,
    .brg] W = true) : takeHeldRequest.Within W := by
  unfold takeHeldRequest
  repeat' first
    | with_reducible exact within_skip
    | with_reducible exact within_all_nil
    | with_reducible refine within_all_cons ?_ ?_
    | with_reducible refine within_seq ?_ ?_
    | with_reducible refine within_look fun _ => ?_
    | with_reducible refine within_when ?_
    | ((with_reducible refine within_modBoot ?_); exact lec h (by decide +kernel))
    | ((with_reducible refine within_requestPower ?_); exact lel h (by decide +kernel))
    | ((with_reducible refine within_foldl ?_ fun _ _ hs => ?_); (· exact within_skip); refine within_seq hs ?_)
    | with_reducible refine within_ite ?_ ?_
    | with_reducible refine within_progIte ?_ ?_
    | with_reducible refine within_each fun _ => ?_
    | with_reducible refine within_all_map fun _ => ?_
    | with_reducible refine within_all_replicate ?_
    | split
    | (dsimp only; split)
    | dsimp only

theorem within_enterWaking {W : List Part} (h : partsLe [.lamp, .hv] W = true) :
    enterWaking.Within W := by
  unfold enterWaking
  repeat' first
    | with_reducible exact within_skip
    | with_reducible exact within_all_nil
    | with_reducible refine within_all_cons ?_ ?_
    | with_reducible refine within_seq ?_ ?_
    | with_reducible refine within_look fun _ => ?_
    | with_reducible refine within_when ?_
    | ((with_reducible refine within_modHv ?_); exact lec h (by decide +kernel))
    | ((with_reducible refine within_modLamp ?_); exact lec h (by decide +kernel))
    | ((with_reducible refine within_foldl ?_ fun _ _ hs => ?_); (· exact within_skip); refine within_seq hs ?_)
    | with_reducible refine within_ite ?_ ?_
    | with_reducible refine within_progIte ?_ ?_
    | with_reducible refine within_each fun _ => ?_
    | with_reducible refine within_all_map fun _ => ?_
    | with_reducible refine within_all_replicate ?_
    | split
    | (dsimp only; split)
    | dsimp only

theorem within_failWaking {W : List Part} (h : partsLe [.mem .retA, .mem .retB, .mem .icon,
    .mem .img, .allRegs, .pend, .ring, .leases, .lamp, .rcl, .boot, .ave, .xlt, .wrd, .xng,
    .cam, .ras, .dst, .rbt, .sco, .sgn, .hv, .can, .svc, .ports, .brg] W = true) {a : _} :
    (failWaking a).Within W := by
  unfold failWaking
  repeat' first
    | with_reducible exact within_skip
    | with_reducible exact within_all_nil
    | with_reducible refine within_all_cons ?_ ?_
    | with_reducible refine within_seq ?_ ?_
    | with_reducible refine within_look fun _ => ?_
    | with_reducible refine within_when ?_
    | ((with_reducible refine within_modHv ?_); exact lec h (by decide +kernel))
    | ((with_reducible refine within_modLamp ?_); exact lec h (by decide +kernel))
    | ((with_reducible refine within_raise ?_ ?_) <;> first | exact lel h (by decide +kernel) | exact partsLe_trans (event_le _) (lel h (by decide +kernel)))
    | ((with_reducible refine within_logicReset ?_); exact lel h (by decide +kernel))
    | ((with_reducible refine within_recordCause ?_); exact lel h (by decide +kernel))
    | ((with_reducible refine within_foldl ?_ fun _ _ hs => ?_); (· exact within_skip); refine within_seq hs ?_)
    | with_reducible refine within_ite ?_ ?_
    | with_reducible refine within_progIte ?_ ?_
    | with_reducible refine within_each fun _ => ?_
    | with_reducible refine within_all_map fun _ => ?_
    | with_reducible refine within_all_replicate ?_
    | split
    | (dsimp only; split)
    | dsimp only

theorem within_wakeEvent {W : List Part} (h : partsLe [.mem .retA, .mem .retB, .regs 0x0,
    .regs 0x1, .regs 0x6, .regs 0x10, .regs 0x20, .regs 0x31, .regs 0x40, .regs 0x41, .regs
    0x42, .regs 0x50, .regs 0x60, .regs 0x62, .regs 0x70, .regs 0x90, .ring, .leases, .lamp,
    .rcl, .ave, .wrd, .xng, .dst, .sco, .hv, .ports] W = true) {a b : _} : (wakeEvent a
    b).Within W := by
  unfold wakeEvent
  repeat' first
    | with_reducible exact within_skip
    | with_reducible exact within_all_nil
    | with_reducible refine within_all_cons ?_ ?_
    | with_reducible refine within_seq ?_ ?_
    | with_reducible refine within_look fun _ => ?_
    | with_reducible refine within_when ?_
    | ((with_reducible refine within_modLamp ?_); exact lec h (by decide +kernel))
    | ((with_reducible refine within_setReg rfl ?_); exact lec h (by decide +kernel))
    | ((with_reducible refine within_bump rfl ?_); exact lec h (by decide +kernel))
    | ((with_reducible refine within_abortPark ?_); exact lel h (by decide +kernel))
    | ((with_reducible refine within_enterWaking ?_); exact lel h (by decide +kernel))
    | ((with_reducible refine within_leaveQuiet ?_); exact lel h (by decide +kernel))
    | ((with_reducible refine within_retWrite ?_); exact lel h (by decide +kernel))
    | ((with_reducible refine within_foldl ?_ fun _ _ hs => ?_); (· exact within_skip); refine within_seq hs ?_)
    | with_reducible refine within_ite ?_ ?_
    | with_reducible refine within_progIte ?_ ?_
    | with_reducible refine within_each fun _ => ?_
    | with_reducible refine within_all_map fun _ => ?_
    | with_reducible refine within_all_replicate ?_
    | split
    | (dsimp only; split)
    | dsimp only

end Sys2Proof.Machine
end

