-- ==== Sys2Proof/Laws/WithinRegAccess.lean ====
section
/-! SUPPORT. What each operation of Machine/RegAccess.lean can change at most. -/

set_option Elab.async false
set_option linter.unreachableTactic false
set_option linter.unusedTactic false

namespace Sys2Proof.Machine

theorem within_queueCfgCommit {W : List Part} (h : partsLe [.regs 0x5, .wrd] W = true) {a b
    : _} : (queueCfgCommit a b).Within W := by
  unfold queueCfgCommit
  repeat' first
    | with_reducible exact within_skip
    | with_reducible exact within_all_nil
    | with_reducible refine within_all_cons ?_ ?_
    | with_reducible refine within_seq ?_ ?_
    | with_reducible refine within_look fun _ => ?_
    | with_reducible refine within_when ?_
    | ((with_reducible refine within_setReg rfl ?_); exact lec h (by decide +kernel))
    | ((with_reducible refine within_modQueue ?_); exact lel h (by decide +kernel))

theorem within_portCommit {W : List Part} (h : partsLe [.mem .retA, .mem .retB, .allRegs,
    .ring, .lamp, .rcl, .can, .svc] W = true) {a b c : _} : (portCommit a b c).Within W := by
  unfold portCommit
  repeat' first
    | with_reducible exact within_skip
    | with_reducible exact within_all_nil
    | with_reducible refine within_all_cons ?_ ?_
    | with_reducible refine within_seq ?_ ?_
    | with_reducible refine within_look fun _ => ?_
    | with_reducible refine within_when ?_
    | ((with_reducible refine within_setReg rfl ?_); exact lec h (by decide +kernel))
    | ((with_reducible refine within_setReg_all ?_); exact lec h (by decide +kernel))
    | ((with_reducible refine within_closePort ?_); exact lel h (by decide +kernel))
    | ((with_reducible refine within_foldl ?_ fun _ _ hs => ?_); (· exact within_skip); refine within_seq hs ?_)
    | with_reducible refine within_ite ?_ ?_

theorem within_regCommit {W : List Part} (h : partsLe [.mem .retA, .mem .retB, .allRegs,
    .bus, .ring, .leases, .lamp, .rcl, .boot, .ave, .xlt, .wrd, .xng, .cam, .ras, .dst, .rbt,
    .sco, .hv, .can, .svc, .ports, .brg] W = true) {a b : _} : (regCommit a b).Within W := by
  unfold regCommit
  repeat' first
    | with_reducible exact within_skip
    | with_reducible exact within_all_nil
    | with_reducible refine within_all_cons ?_ ?_
    | with_reducible refine within_seq ?_ ?_
    | with_reducible refine within_look fun _ => ?_
    | with_reducible refine within_when ?_
    | ((with_reducible refine within_setReg rfl ?_); exact lec h (by decide +kernel))
    | ((with_reducible refine within_setReg_all ?_); exact lec h (by decide +kernel))
    | ((with_reducible refine within_brgCtrlCommit ?_); exact lel h (by decide +kernel))
    | ((with_reducible refine within_camCtrlCommit ?_); exact lel h (by decide +kernel))
    | ((with_reducible refine within_canCtrlCommit ?_); exact lel h (by decide +kernel))
    | ((with_reducible refine within_firstWrite ?_); exact lel h (by decide +kernel))
    | ((with_reducible refine within_gspSet ?_); exact lel h (by decide +kernel))
    | ((with_reducible refine within_hvsCommit ?_); exact lel h (by decide +kernel))
    | ((with_reducible refine within_iconPosCommit ?_); exact lel h (by decide +kernel))
    | ((with_reducible refine within_portCommit ?_); exact lel h (by decide +kernel))
    | ((with_reducible refine within_pwrCommit ?_); exact lel h (by decide +kernel))
    | ((with_reducible refine within_queueCfgCommit ?_); exact lel h (by decide +kernel))
    | ((with_reducible refine within_scoCfgCommit ?_); exact lel h (by decide +kernel))
    | ((with_reducible refine within_scoCtrlCommit ?_); exact lel h (by decide +kernel))
    | ((with_reducible refine within_scoDphyCommit ?_); exact lel h (by decide +kernel))
    | ((with_reducible refine within_scoLinesCommit ?_); exact lel h (by decide +kernel))
    | ((with_reducible refine within_scoPlaneCommit ?_); exact lel h (by decide +kernel))
    | ((with_reducible refine within_scoTimingCommit ?_); exact lel h (by decide +kernel))
    | ((with_reducible refine within_settleMoving ?_); exact lel h (by decide +kernel))
    | ((with_reducible refine within_trkCommit ?_); exact lel h (by decide +kernel))
    | ((with_reducible refine within_foldl ?_ fun _ _ hs => ?_); (· exact within_skip); refine within_seq hs ?_)
    | with_reducible refine within_ite ?_ ?_
    | with_reducible refine within_progIte ?_ ?_
    | with_reducible refine within_each fun _ => ?_
    | with_reducible refine within_all_map fun _ => ?_
    | with_reducible refine within_all_replicate ?_
    | split
    | (dsimp only; split)
    | dsimp only

theorem within_valueWrite {W : List Part} (h : partsLe [.pend, .bus] W = true) {a b : _} :
    (valueWrite a b).Within W := by
  unfold valueWrite
  repeat' first
    | with_reducible exact within_skip
    | with_reducible exact within_all_nil
    | with_reducible refine within_all_cons ?_ ?_
    | with_reducible refine within_seq ?_ ?_
    | with_reducible refine within_look fun _ => ?_
    | with_reducible refine within_when ?_
    | ((with_reducible refine within_act ?_ ?_) <;> first | exact lec h rfl | exact fun _ _ e => by cases e)
    | ((with_reducible refine within_respond ?_); exact lel h (by decide +kernel))
    | ((with_reducible refine within_foldl ?_ fun _ _ hs => ?_); (· exact within_skip); refine within_seq hs ?_)
    | with_reducible refine within_ite ?_ ?_
    | with_reducible refine within_progIte ?_ ?_
    | with_reducible refine within_each fun _ => ?_
    | with_reducible refine within_all_map fun _ => ?_
    | with_reducible refine within_all_replicate ?_
    | split
    | (dsimp only; split)
    | dsimp only

theorem within_complementWrite {W : List Part} (h : partsLe [.mem .retA, .mem .retB,
    .allRegs, .pend, .bus, .ring, .leases, .lamp, .rcl, .boot, .ave, .xlt, .wrd, .xng, .cam,
    .ras, .dst, .rbt, .sco, .hv, .can, .svc, .ports, .brg] W = true) {a b : _} :
    (complementWrite a b).Within W := by
  unfold complementWrite
  repeat' first
    | with_reducible exact within_skip
    | with_reducible exact within_all_nil
    | with_reducible refine within_all_cons ?_ ?_
    | with_reducible refine within_seq ?_ ?_
    | with_reducible refine within_look fun _ => ?_
    | with_reducible refine within_when ?_
    | ((with_reducible refine within_act ?_ ?_) <;> first | exact lec h rfl | exact fun _ _ e => by cases e)
    | ((with_reducible refine within_raiseMismatch ?_); exact lel h (by decide +kernel))
    | ((with_reducible refine within_regCommit ?_); exact lel h (by decide +kernel))
    | ((with_reducible refine within_respond ?_); exact lel h (by decide +kernel))
    | ((with_reducible refine within_foldl ?_ fun _ _ hs => ?_); (· exact within_skip); refine within_seq hs ?_)
    | with_reducible refine within_ite ?_ ?_
    | with_reducible refine within_progIte ?_ ?_
    | with_reducible refine within_each fun _ => ?_
    | with_reducible refine within_all_map fun _ => ?_
    | with_reducible refine within_all_replicate ?_
    | split
    | (dsimp only; split)
    | dsimp only

theorem within_plainWrite {W : List Part} (h : partsLe [.mem .plaza, .mem .lpddr, .mem
    .retA, .mem .retB, .mem .icon, .mem .img, .allRegs, .pend, .bus, .ring, .leases, .lamp,
    .rcl, .boot, .ave, .xlt, .wrd, .xng, .cam, .ras, .dst, .rbt, .sco, .sgn, .hv, .can, .svc,
    .ports, .brg] W = true) {a b : _} : (plainWrite a b).Within W := by
  unfold plainWrite
  repeat' first
    | with_reducible exact within_skip
    | with_reducible exact within_all_nil
    | with_reducible refine within_all_cons ?_ ?_
    | with_reducible refine within_seq ?_ ?_
    | with_reducible refine within_look fun _ => ?_
    | with_reducible refine within_when ?_
    | ((with_reducible refine within_setReg rfl ?_); exact lec h (by decide +kernel))
    | ((with_reducible refine within_setReg_all ?_); exact lec h (by decide +kernel))
    | ((with_reducible refine within_brgCommand ?_); exact lel h (by decide +kernel))
    | ((with_reducible refine within_dsiGo ?_); exact lel h (by decide +kernel))
    | ((with_reducible refine within_fallbackStep ?_); exact lel h (by decide +kernel))
    | ((with_reducible refine within_firstWrite ?_); exact lel h (by decide +kernel))
    | ((with_reducible refine within_hvsClear ?_); exact lel h (by decide +kernel))
    | ((with_reducible refine within_i2cXfer ?_); exact lel h (by decide +kernel))
    | ((with_reducible refine within_injectFault ?_); exact lel h (by decide +kernel))
    | ((with_reducible refine within_invalWrite ?_); exact lel h (by decide +kernel))
    | ((with_reducible refine within_poisonClearWrite ?_); exact lel h (by decide +kernel))
    | ((with_reducible refine within_queueCtrl ?_); exact lel h (by decide +kernel))
    | ((with_reducible refine within_resetCtrlWrite ?_); exact lel h (by decide +kernel))
    | ((with_reducible refine within_respond ?_); exact lel h (by decide +kernel))
    | ((with_reducible refine within_rootWrite ?_); exact lel h (by decide +kernel))
    | ((with_reducible refine within_sramAccess ?_); exact lel h (by decide +kernel))
    | ((with_reducible refine within_foldl ?_ fun _ _ hs => ?_); (· exact within_skip); refine within_seq hs ?_)
    | with_reducible refine within_ite ?_ ?_
    | with_reducible refine within_progIte ?_ ?_
    | with_reducible refine within_each fun _ => ?_
    | with_reducible refine within_all_map fun _ => ?_
    | with_reducible refine within_all_replicate ?_
    | split
    | (dsimp only; split)
    | dsimp only

theorem within_onBus {W : List Part} (h : partsLe [.mem .retA, .mem .retB, .regs 0x3, .regs
    0x90, .bus, .ring, .lamp, .rcl] W = true) {a b : _} (hp0 : ∀ x, (b x).Within W) : (onBus a
    b).Within W := by
  unfold onBus
  repeat' first
    | with_reducible exact within_skip
    | with_reducible exact within_all_nil
    | with_reducible refine within_all_cons ?_ ?_
    | with_reducible refine within_seq ?_ ?_
    | with_reducible refine within_look fun _ => ?_
    | with_reducible refine within_when ?_
    | ((with_reducible refine within_respondError ?_); exact lel h (by decide +kernel))
    | ((with_reducible refine within_unmappedAccess ?_); exact lel h (by decide +kernel))
    | ((with_reducible refine within_foldl ?_ fun _ _ hs => ?_); (· exact within_skip); refine within_seq hs ?_)
    | with_reducible exact hp0 _
    | with_reducible refine within_ite ?_ ?_
    | with_reducible refine within_progIte ?_ ?_
    | with_reducible refine within_each fun _ => ?_
    | with_reducible refine within_all_map fun _ => ?_
    | with_reducible refine within_all_replicate ?_
    | split
    | (dsimp only; split)
    | dsimp only

theorem within_busWrite {W : List Part} (h : partsLe [.mem .plaza, .mem .lpddr, .mem .retA,
    .mem .retB, .mem .icon, .mem .img, .allRegs, .pend, .bus, .ring, .leases, .lamp, .rcl,
    .boot, .ave, .xlt, .wrd, .xng, .cam, .ras, .dst, .rbt, .sco, .sgn, .hv, .can, .svc, .ports,
    .brg] W = true) {a b : _} : (busWrite a b).Within W := by
  unfold busWrite
  repeat' first
    | with_reducible exact within_skip
    | with_reducible exact within_all_nil
    | with_reducible refine within_all_cons ?_ ?_
    | with_reducible refine within_seq ?_ ?_
    | with_reducible refine within_look fun _ => ?_
    | with_reducible refine within_when ?_
    | ((with_reducible refine within_complementWrite ?_); exact lel h (by decide +kernel))
    | ((with_reducible refine within_onBus ?_ (fun _ => ?_)); exact lel h (by decide +kernel))
    | ((with_reducible refine within_plainWrite ?_); exact lel h (by decide +kernel))
    | ((with_reducible refine within_respond ?_); exact lel h (by decide +kernel))
    | ((with_reducible refine within_respondError ?_); exact lel h (by decide +kernel))
    | ((with_reducible refine within_valueWrite ?_); exact lel h (by decide +kernel))
    | ((with_reducible refine within_foldl ?_ fun _ _ hs => ?_); (· exact within_skip); refine within_seq hs ?_)
    | with_reducible refine within_ite ?_ ?_
    | with_reducible refine within_progIte ?_ ?_
    | with_reducible refine within_each fun _ => ?_
    | with_reducible refine within_all_map fun _ => ?_
    | with_reducible refine within_all_replicate ?_
    | split
    | (dsimp only; split)
    | dsimp only

theorem within_retRead {W : List Part} (h : partsLe [.mem .retA, .mem .retB, .regs 0x90,
    .bus, .ring, .lamp, .rcl] W = true) {a : _} : (retRead a).Within W := by
  unfold retRead
  repeat' first
    | with_reducible exact within_skip
    | with_reducible exact within_all_nil
    | with_reducible refine within_all_cons ?_ ?_
    | with_reducible refine within_seq ?_ ?_
    | with_reducible refine within_look fun _ => ?_
    | with_reducible refine within_when ?_
    | ((with_reducible refine within_modLamp ?_); exact lec h (by decide +kernel))
    | ((with_reducible refine within_store ?_); exact lec h (by decide +kernel))
    | ((with_reducible refine within_respond ?_); exact lel h (by decide +kernel))
    | ((with_reducible refine within_respondError ?_); exact lel h (by decide +kernel))
    | ((with_reducible refine within_retentionLost ?_); exact lel h (by decide +kernel))
    | ((with_reducible refine within_foldl ?_ fun _ _ hs => ?_); (· exact within_skip); refine within_seq hs ?_)
    | with_reducible refine within_ite ?_ ?_
    | with_reducible refine within_progIte ?_ ?_
    | with_reducible refine within_each fun _ => ?_
    | with_reducible refine within_all_map fun _ => ?_
    | with_reducible refine within_all_replicate ?_
    | split
    | (dsimp only; split)
    | dsimp only

theorem within_pairRead {W : List Part} (h : partsLe [.mem .retA, .mem .retB, .allRegs,
    .bus, .ring, .lamp, .rcl, .hv] W = true) {a : _} : (pairRead a).Within W := by
  unfold pairRead
  repeat' first
    | with_reducible exact within_skip
    | with_reducible exact within_all_nil
    | with_reducible refine within_all_cons ?_ ?_
    | with_reducible refine within_seq ?_ ?_
    | with_reducible refine within_look fun _ => ?_
    | with_reducible refine within_when ?_
    | ((with_reducible refine within_usePair rfl ?_ ?_) <;> first | exact lec h (by decide +kernel) | exact lel h (by decide +kernel))
    | ((with_reducible refine within_usePair_all ?_ ?_) <;> first | exact lec h (by decide +kernel) | exact lel h (by decide +kernel))
    | ((with_reducible refine within_respond ?_); exact lel h (by decide +kernel))
    | ((with_reducible refine within_useHvs ?_); exact lel h (by decide +kernel))
    | ((with_reducible refine within_foldl ?_ fun _ _ hs => ?_); (· exact within_skip); refine within_seq hs ?_)
    | with_reducible refine within_ite ?_ ?_
    | with_reducible refine within_progIte ?_ ?_
    | with_reducible refine within_each fun _ => ?_
    | with_reducible refine within_all_map fun _ => ?_
    | with_reducible refine within_all_replicate ?_
    | split
    | (dsimp only; split)
    | dsimp only

theorem within_busRead {W : List Part} (h : partsLe [.mem .retA, .mem .retB, .mem .icon,
    .allRegs, .bus, .ring, .leases, .lamp, .rcl, .wrd, .xng, .hv] W = true) {a : _} : (busRead
    a).Within W := by
  unfold busRead
  repeat' first
    | with_reducible exact within_skip
    | with_reducible exact within_all_nil
    | with_reducible refine within_all_cons ?_ ?_
    | with_reducible refine within_seq ?_ ?_
    | with_reducible refine within_look fun _ => ?_
    | with_reducible refine within_when ?_
    | ((with_reducible refine within_modLamp ?_); exact lec h (by decide +kernel))
    | ((with_reducible refine within_checkCrossing ?_); exact lel h (by decide +kernel))
    | ((with_reducible refine within_onBus ?_ (fun _ => ?_)); exact lel h (by decide +kernel))
    | ((with_reducible refine within_pairRead ?_); exact lel h (by decide +kernel))
    | ((with_reducible refine within_respond ?_); exact lel h (by decide +kernel))
    | ((with_reducible refine within_retRead ?_); exact lel h (by decide +kernel))
    | ((with_reducible refine within_sramAccess ?_); exact lel h (by decide +kernel))
    | ((with_reducible refine within_foldl ?_ fun _ _ hs => ?_); (· exact within_skip); refine within_seq hs ?_)
    | with_reducible refine within_ite ?_ ?_
    | with_reducible refine within_progIte ?_ ?_
    | with_reducible refine within_each fun _ => ?_
    | with_reducible refine within_all_map fun _ => ?_
    | with_reducible refine within_all_replicate ?_
    | split
    | (dsimp only; split)
    | dsimp only

theorem within_sizedAccess {W : List Part} (h : partsLe [.bus] W = true) {a b c : _} (hp0 :
    c.Within W) : (sizedAccess a b c).Within W := by
  unfold sizedAccess
  repeat' first
    | with_reducible exact within_skip
    | with_reducible exact within_all_nil
    | with_reducible refine within_all_cons ?_ ?_
    | with_reducible refine within_seq ?_ ?_
    | with_reducible refine within_look fun _ => ?_
    | with_reducible refine within_when ?_
    | ((with_reducible refine within_respondError ?_); exact lel h (by decide +kernel))
    | ((with_reducible refine within_foldl ?_ fun _ _ hs => ?_); (· exact within_skip); refine within_seq hs ?_)
    | with_reducible exact hp0
    | with_reducible refine within_ite ?_ ?_
    | with_reducible refine within_progIte ?_ ?_
    | with_reducible refine within_each fun _ => ?_
    | with_reducible refine within_all_map fun _ => ?_
    | with_reducible refine within_all_replicate ?_
    | split
    | (dsimp only; split)
    | dsimp only

end Sys2Proof.Machine
end

