-- ==== Sys2Proof/Laws/KeepsBridgeRows.lean ====
section
/-! SUPPORT. What each command of BridgeRows may change. -/

set_option Elab.async false
set_option linter.unreachableTactic false
set_option linter.unusedTactic false

namespace Sys2Proof.Machine

/-- What `bridgeHello` to `bridgeLaneLockLoss` may change. -/
theorem keeps_bridgeRows_0 :
    (∀ a b c d e s, Ends (.bridgeHello a b c d e) s fun t =>
    s.onlyChanges [.mem .plaza, .mem .lpddr, .mem .retA, .mem .retB, .mem .icon, .mem .img,
          .allRegs, .pend, .ring, .leases, .lamp, .rcl, .boot, .ave, .xlt, .wrd, .xng, .cam, .ras,
          .dst, .rbt, .sco, .sgn, .hv, .can, .svc, .ports, .brg] t)
    ∧ (∀ a s, Ends (.bridgeIdle a) s fun t =>
    s.onlyChanges [.mem .retA, .mem .retB, .regs 0x70, .regs 0x90, .ring, .lamp, .rcl, .brg] t)
    ∧ (∀ a s, Ends (.bridgeHeart a) s fun t =>
    s.onlyChanges [.mem .retA, .mem .retB, .regs 0x70, .regs 0x90, .ring, .lamp, .rcl, .brg] t)
    ∧ (∀ s, Ends (.bridgeHelloSend) s fun t =>
    s.onlyChanges [.brg] t)
    ∧ (∀ s, Ends (.bridgeHeartSend) s fun t =>
    s.onlyChanges [.brg] t)
    ∧ (∀ a s, Ends (.bridgeTrainDone a) s fun t =>
    s.onlyChanges [.mem .retA, .mem .retB, .regs 0x70, .regs 0x90, .ring, .lamp, .rcl, .brg] t)
    ∧ (∀ s, Ends (.bridgeTrainTimeout) s fun t =>
    s.onlyChanges [.brg] t)
    ∧ (∀ a s, Ends (.bridgeLaneLockLoss a) s fun t =>
    s.onlyChanges [.mem .retA, .mem .retB, .regs 0x70, .regs 0x90, .ring, .lamp, .rcl, .brg] t) :=
          by
  refine ⟨fun a b c d e s => ends_of (o := execBridgeHello a b c d e s) rfl ?_,
    fun a s => ends_of (o := execBridgeIdle a s) rfl ?_,
    fun a s => ends_of (o := execBridgeHeart a s) rfl ?_,
    fun s => ends_of (o := execBridgeHelloSend s) rfl ?_,
    fun s => ends_of (o := execBridgeHeartSend s) rfl ?_,
    fun a s => ends_of (o := execBridgeTrainDone a s) rfl ?_,
    fun s => ends_of (o := execBridgeTrainTimeout s) rfl ?_,
    fun a s => ends_of (o := execBridgeLaneLockLoss a s) rfl ?_⟩
  all_goals first
    | unfold execBridgeHello
    | unfold execBridgeIdle
    | unfold execBridgeHeart
    | unfold execBridgeHelloSend
    | unfold execBridgeHeartSend
    | unfold execBridgeTrainDone
    | unfold execBridgeTrainTimeout
    | unfold execBridgeLaneLockLoss
  all_goals refine ⟨_, rfl, onlyChanges_of_within ?_ _⟩
  all_goals repeat' first
    | with_reducible exact within_skip
    | with_reducible exact within_all_nil
    | with_reducible refine within_all_cons ?_ ?_
    | with_reducible refine within_seq ?_ ?_
    | with_reducible refine within_look fun _ => ?_
    | with_reducible refine within_when ?_
    | ((with_reducible refine within_modBrg ?_); exact (by decide +kernel))
    | ((with_reducible refine within_setReg rfl ?_); exact (by decide +kernel))
    | ((with_reducible refine within_checkHello ?_); exact (by decide +kernel))
    | ((with_reducible refine within_takeSide ?_); exact (by decide +kernel))
    | ((with_reducible refine within_sendFree ?_); exact (by decide +kernel))
    | ((with_reducible refine within_raise ?_ ?_) <;> first | exact (by decide +kernel) | exact partsLe_trans (event_le _) ((by decide +kernel)))
    | ((with_reducible refine within_enterRetrain ?_); exact (by decide +kernel))
    | ((with_reducible refine within_foldl ?_ fun _ _ hs => ?_); (· exact within_skip); refine within_seq hs ?_)
    | with_reducible refine within_ite ?_ ?_
    | with_reducible refine within_progIte ?_ ?_
    | with_reducible refine within_each fun _ => ?_
    | with_reducible refine within_all_map fun _ => ?_
    | with_reducible refine within_all_replicate ?_
    | split
    | (dsimp only; split)
    | dsimp only

/-- What `bridgeRetrainDone` to `bridgeTokenExpire` may change. -/
theorem keeps_bridgeRows_1 :
    (∀ a b s, Ends (.bridgeRetrainDone a b) s fun t =>
    s.onlyChanges [.mem .retA, .mem .retB, .regs 0x70, .regs 0x90, .ring, .lamp, .rcl, .brg] t)
    ∧ (∀ s, Ends (.bridgePartnerTimeout) s fun t =>
    s.onlyChanges [.mem .retA, .mem .retB, .regs 0x4, .regs 0x5, .regs 0x6, .regs 0x10, .regs 0x20,
          .regs 0x31, .regs 0x40, .regs 0x41, .regs 0x42, .regs 0x50, .regs 0x60, .regs 0x62, .regs
          0x70, .regs 0x90, .ring, .leases, .lamp, .rcl, .boot, .ave, .xlt, .wrd, .xng, .ras, .dst,
          .rbt, .brg] t)
    ∧ (∀ a b c d s, Ends (.bridgeWrite a b c d) s fun t =>
    s.onlyChanges [.mem .plaza, .mem .lpddr, .mem .retA, .mem .retB, .mem .icon, .mem .img,
          .allRegs, .pend, .ring, .leases, .lamp, .rcl, .boot, .ave, .xlt, .wrd, .xng, .cam, .ras,
          .dst, .rbt, .sco, .sgn, .hv, .can, .svc, .ports, .brg] t)
    ∧ (∀ a b c s, Ends (.bridgeWack a b c) s fun t =>
    s.onlyChanges [.mem .retA, .mem .retB, .regs 0x4, .regs 0x5, .regs 0x6, .regs 0x10, .regs 0x20,
          .regs 0x31, .regs 0x40, .regs 0x41, .regs 0x42, .regs 0x50, .regs 0x60, .regs 0x62, .regs
          0x70, .regs 0x90, .ring, .leases, .lamp, .rcl, .boot, .ave, .xlt, .wrd, .xng, .ras, .dst,
          .rbt, .brg] t)
    ∧ (∀ a b c d s, Ends (.bridgeRead a b c d) s fun t =>
    s.onlyChanges [.mem .retA, .mem .retB, .mem .icon, .mem .img, .allRegs, .pend, .ring, .leases,
          .lamp, .rcl, .boot, .ave, .xlt, .wrd, .xng, .cam, .ras, .dst, .rbt, .sco, .sgn, .hv, .can,
          .svc, .ports, .brg] t)
    ∧ (∀ a b c d s, Ends (.bridgeRdata a b c d) s fun t =>
    s.onlyChanges [.mem .retA, .mem .retB, .regs 0x4, .regs 0x5, .regs 0x6, .regs 0x10, .regs 0x20,
          .regs 0x31, .regs 0x40, .regs 0x41, .regs 0x42, .regs 0x50, .regs 0x60, .regs 0x62, .regs
          0x70, .regs 0x90, .ring, .leases, .lamp, .rcl, .boot, .ave, .xlt, .wrd, .xng, .ras, .dst,
          .rbt, .brg] t)
    ∧ (∀ a b c d s, Ends (.bridgeSignal a b c d) s fun t =>
    s.onlyChanges [.mem .retA, .mem .retB, .regs 0x3, .regs 0x6, .regs 0x10, .regs 0x20, .regs 0x31,
          .regs 0x40, .regs 0x41, .regs 0x42, .regs 0x50, .regs 0x60, .regs 0x62, .regs 0x70, .regs
          0x90, .ring, .leases, .lamp, .rcl, .wrd, .xng, .brg] t)
    ∧ (∀ a s, Ends (.bridgeTokenExpire a) s fun t =>
    s.onlyChanges [.mem .retA, .mem .retB, .regs 0x4, .regs 0x5, .regs 0x6, .regs 0x10, .regs 0x20,
          .regs 0x31, .regs 0x40, .regs 0x41, .regs 0x42, .regs 0x50, .regs 0x60, .regs 0x62, .regs
          0x70, .regs 0x90, .ring, .leases, .lamp, .rcl, .boot, .ave, .xlt, .wrd, .xng, .ras, .dst,
          .rbt, .brg] t) := by
  refine ⟨fun a b s => ends_of (o := execBridgeRetrainDone a b s) rfl ?_,
    fun s => ends_of (o := execBridgePartnerTimeout s) rfl ?_,
    fun a b c d s => ends_of (o := execBridgeWrite a b c d s) rfl ?_,
    fun a b c s => ends_of (o := execBridgeWack a b c s) rfl ?_,
    fun a b c d s => ends_of (o := execBridgeRead a b c d s) rfl ?_,
    fun a b c d s => ends_of (o := execBridgeRdata a b c d s) rfl ?_,
    fun a b c d s => ends_of (o := execBridgeSignal a b c d s) rfl ?_,
    fun a s => ends_of (o := execBridgeTokenExpire a s) rfl ?_⟩
  all_goals first
    | unfold execBridgeRetrainDone
    | unfold execBridgePartnerTimeout
    | unfold execBridgeWrite
    | unfold execBridgeWack
    | unfold execBridgeRead
    | unfold execBridgeRdata
    | unfold execBridgeSignal
    | unfold execBridgeTokenExpire
  all_goals refine ⟨_, rfl, onlyChanges_of_within ?_ _⟩
  all_goals repeat' first
    | with_reducible exact within_skip
    | with_reducible exact within_all_nil
    | with_reducible refine within_all_cons ?_ ?_
    | with_reducible refine within_seq ?_ ?_
    | with_reducible refine within_look fun _ => ?_
    | with_reducible refine within_when ?_
    | ((with_reducible refine within_modBrg ?_); exact (by decide +kernel))
    | ((with_reducible refine within_raise ?_ ?_) <;> first | exact (by decide +kernel) | exact partsLe_trans (event_le _) ((by decide +kernel)))
    | ((with_reducible refine within_declareAbsent ?_); exact (by decide +kernel))
    | ((with_reducible refine within_receive ?_ ?_); exact (by decide +kernel))
    | ((with_reducible refine within_serveWrite ?_); exact (by decide +kernel))
    | ((with_reducible refine within_malformed ?_); exact (by decide +kernel))
    | ((with_reducible refine within_takeWack ?_); exact (by decide +kernel))
    | ((with_reducible refine within_serveRead ?_); exact (by decide +kernel))
    | ((with_reducible refine within_takeRdata ?_); exact (by decide +kernel))
    | ((with_reducible refine within_takeSignal ?_); exact (by decide +kernel))
    | ((with_reducible refine within_revokeToken ?_); exact (by decide +kernel))
    | ((with_reducible refine within_foldl ?_ fun _ _ hs => ?_); (· exact within_skip); refine within_seq hs ?_)
    | with_reducible refine within_ite ?_ ?_
    | with_reducible refine within_progIte ?_ ?_
    | with_reducible refine within_each fun _ => ?_
    | with_reducible refine within_all_map fun _ => ?_
    | with_reducible refine within_all_replicate ?_
    | split
    | (dsimp only; split)
    | dsimp only

/-- What `bridgeResetReq` to `bridgeNak` may change. -/
theorem keeps_bridgeRows_2 :
    (∀ a b s, Ends (.bridgeResetReq a b) s fun t =>
    s.onlyChanges [.mem .retA, .mem .retB, .mem .icon, .mem .img, .allRegs, .pend, .ring, .leases,
          .lamp, .rcl, .boot, .ave, .xlt, .wrd, .xng, .cam, .ras, .dst, .rbt, .sco, .sgn, .hv, .can,
          .svc, .ports, .brg] t)
    ∧ (∀ s, Ends (.resetPartner) s fun t =>
    s.onlyChanges [.bus, .brg] t)
    ∧ (∀ a b c s, Ends (.bridgeImage a b c) s fun t =>
    s.onlyChanges [.mem .retA, .mem .retB, .mem .img, .regs 0x70, .regs 0x90, .ring, .lamp, .rcl,
          .boot, .brg] t)
    ∧ (∀ a b s, Ends (.bridgeImageEnd a b) s fun t =>
    s.onlyChanges [.mem .retA, .mem .retB, .regs 0x70, .regs 0x90, .ring, .lamp, .rcl, .brg] t)
    ∧ (∀ a b s, Ends (.bridgeImageNak a b) s fun t =>
    s.onlyChanges [.mem .retA, .mem .retB, .regs 0x70, .regs 0x90, .ring, .lamp, .rcl, .brg] t)
    ∧ (∀ a b s, Ends (.bridgeImageDone a b) s fun t =>
    s.onlyChanges [.mem .retA, .mem .retB, .regs 0x70, .regs 0x90, .ring, .lamp, .rcl, .brg] t)
    ∧ (∀ a s, Ends (.imageResendTimeout a) s fun t =>
    s.onlyChanges [.mem .plaza, .mem .lpddr, .mem .retA, .mem .retB, .mem .icon, .mem .img,
          .allRegs, .pend, .ring, .leases, .lamp, .rcl, .boot, .ave, .xlt, .wrd, .xng, .cam, .ras,
          .dst, .rbt, .sco, .sgn, .hv, .can, .svc, .ports, .brg] t)
    ∧ (∀ a s, Ends (.bridgeNak a) s fun t =>
    s.onlyChanges [.mem .retA, .mem .retB, .regs 0x70, .regs 0x90, .ring, .lamp, .rcl, .brg] t) :=
          by
  refine ⟨fun a b s => ends_of (o := execBridgeResetReq a b s) rfl ?_,
    fun s => ends_of (o := execResetPartner s) rfl ?_,
    fun a b c s => ends_of (o := execBridgeImage a b c s) rfl ?_,
    fun a b s => ends_of (o := execBridgeImageEnd a b s) rfl ?_,
    fun a b s => ends_of (o := execBridgeImageNak a b s) rfl ?_,
    fun a b s => ends_of (o := execBridgeImageDone a b s) rfl ?_,
    fun a s => ends_of (o := execImageResendTimeout a s) rfl ?_,
    fun a s => ends_of (o := execBridgeNak a s) rfl ?_⟩
  all_goals first
    | unfold execBridgeResetReq
    | unfold execResetPartner
    | unfold execBridgeImage
    | unfold execBridgeImageEnd
    | unfold execBridgeImageNak
    | unfold execBridgeImageDone
    | unfold execImageResendTimeout
    | unfold execBridgeNak
  all_goals refine ⟨_, rfl, onlyChanges_of_within ?_ _⟩
  all_goals repeat' first
    | with_reducible exact within_skip
    | with_reducible exact within_all_nil
    | with_reducible refine within_all_cons ?_ ?_
    | with_reducible refine within_seq ?_ ?_
    | with_reducible refine within_look fun _ => ?_
    | with_reducible refine within_when ?_
    | ((with_reducible refine within_receive ?_ ?_); exact (by decide +kernel))
    | ((with_reducible refine within_takeResetReq ?_); exact (by decide +kernel))
    | ((with_reducible refine within_brgCommand ?_); exact (by decide +kernel))
    | ((with_reducible refine within_respond ?_); exact (by decide +kernel))
    | ((with_reducible refine within_takeImage ?_); exact (by decide +kernel))
    | ((with_reducible refine within_modBrg ?_); exact (by decide +kernel))
    | ((with_reducible refine within_takeImageNak ?_); exact (by decide +kernel))
    | ((with_reducible refine within_takeImageDone ?_); exact (by decide +kernel))
    | ((with_reducible refine within_sectFails ?_); exact (by decide +kernel))
    | ((with_reducible refine within_takeSide ?_); exact (by decide +kernel))
    | ((with_reducible refine within_foldl ?_ fun _ _ hs => ?_); (· exact within_skip); refine within_seq hs ?_)
    | with_reducible refine within_ite ?_ ?_
    | with_reducible refine within_progIte ?_ ?_
    | with_reducible refine within_each fun _ => ?_
    | with_reducible refine within_all_map fun _ => ?_
    | with_reducible refine within_all_replicate ?_
    | split
    | (dsimp only; split)
    | dsimp only

/-- What `bridgeReplayTimeout` to `bridgeDisable` may change. -/
theorem keeps_bridgeRows_3 :
    (∀ s, Ends (.bridgeReplayTimeout) s fun t =>
    s.onlyChanges [.mem .retA, .mem .retB, .regs 0x70, .regs 0x90, .ring, .lamp, .rcl, .brg] t)
    ∧ (∀ s, Ends (.bridgeFlitDiscard) s fun t =>
    s.onlyChanges [.brg] t)
    ∧ (∀ a b c d e s, Ends (.bridgeMalformedPacket a b c d e) s fun t =>
    s.onlyChanges [.mem .retA, .mem .retB, .regs 0x70, .regs 0x90, .ring, .lamp, .rcl, .brg] t)
    ∧ (∀ s, Ends (.bridgeWaitExpire) s fun t =>
    s.onlyChanges [.mem .plaza, .mem .lpddr, .mem .retA, .mem .retB, .mem .icon, .mem .img,
          .allRegs, .pend, .ring, .leases, .lamp, .rcl, .boot, .ave, .xlt, .wrd, .xng, .cam, .ras,
          .dst, .rbt, .sco, .sgn, .hv, .can, .svc, .ports, .brg] t)
    ∧ (∀ s, Ends (.followResetTimer) s fun t =>
    s.onlyChanges [.mem .icon, .mem .img, .allRegs, .pend, .leases, .lamp, .rcl, .boot, .ave, .xlt,
          .wrd, .xng, .cam, .ras, .dst, .rbt, .sco, .sgn, .hv, .can, .svc, .ports, .brg] t)
    ∧ (∀ s, Ends (.bridgeDisable) s fun t =>
    s.onlyChanges [.mem .retA, .mem .retB, .regs 0x4, .regs 0x5, .regs 0x6, .regs 0x10, .regs 0x20,
          .regs 0x31, .regs 0x40, .regs 0x41, .regs 0x42, .regs 0x50, .regs 0x60, .regs 0x62, .regs
          0x70, .regs 0x90, .ring, .leases, .lamp, .rcl, .boot, .ave, .xlt, .wrd, .xng, .ras, .dst,
          .rbt, .brg] t) := by
  refine ⟨fun s => ends_of (o := execBridgeReplayTimeout s) rfl ?_,
    fun s => ends_of (o := execBridgeFlitDiscard s) rfl ?_,
    fun a b c d e s => ends_of (o := execBridgeMalformedPacket a b c d e s) rfl ?_,
    fun s => ends_of (o := execBridgeWaitExpire s) rfl ?_,
    fun s => ends_of (o := execFollowResetTimer s) rfl ?_,
    fun s => ends_of (o := execBridgeDisable s) rfl ?_⟩
  all_goals first
    | unfold execBridgeReplayTimeout
    | unfold execBridgeFlitDiscard
    | unfold execBridgeMalformedPacket
    | unfold execBridgeWaitExpire
    | unfold execFollowResetTimer
    | unfold execBridgeDisable
  all_goals refine ⟨_, rfl, onlyChanges_of_within ?_ _⟩
  all_goals repeat' first
    | with_reducible exact within_skip
    | with_reducible exact within_all_nil
    | with_reducible refine within_all_cons ?_ ?_
    | with_reducible refine within_seq ?_ ?_
    | with_reducible refine within_look fun _ => ?_
    | with_reducible refine within_when ?_
    | ((with_reducible refine within_replayFlits ?_); exact (by decide +kernel))
    | ((with_reducible refine within_discardFlit ?_); exact (by decide +kernel))
    | ((with_reducible refine within_malformed ?_); exact (by decide +kernel))
    | ((with_reducible refine within_malformedPacket ?_); exact (by decide +kernel))
    | ((with_reducible refine within_receive ?_ ?_); exact (by decide +kernel))
    | ((with_reducible refine within_modBrg ?_); exact (by decide +kernel))
    | ((with_reducible refine within_raise ?_ ?_) <;> first | exact (by decide +kernel) | exact partsLe_trans (event_le _) ((by decide +kernel)))
    | ((with_reducible refine within_handOverWhenReady ?_); exact (by decide +kernel))
    | ((with_reducible refine within_warmReset ?_); exact (by decide +kernel))
    | ((with_reducible refine within_brgCtrlCommit ?_); exact (by decide +kernel))
    | ((with_reducible refine within_foldl ?_ fun _ _ hs => ?_); (· exact within_skip); refine within_seq hs ?_)
    | with_reducible refine within_ite ?_ ?_
    | with_reducible refine within_progIte ?_ ?_
    | with_reducible refine within_each fun _ => ?_
    | with_reducible refine within_all_map fun _ => ?_
    | with_reducible refine within_all_replicate ?_
    | split
    | (dsimp only; split)
    | dsimp only

end Sys2Proof.Machine
end

