-- ==== Sys2Proof/Laws/KeepsCamera.lean ====
section
/-! SUPPORT. What each command of Camera may change. -/

set_option Elab.async false
set_option linter.unreachableTactic false
set_option linter.unusedTactic false

namespace Sys2Proof.Machine

/-- What `camStart` to `camStaleTimeout` may change. -/
theorem keeps_camera_0 :
    (∀ a s, Ends (.camStart a) s fun t =>
    s.onlyChanges [.mem .retA, .mem .retB, .regs 0x10, .regs 0x20, .regs 0x31, .regs 0x40, .regs
          0x41, .regs 0x42, .regs 0x50, .regs 0x60, .regs 0x62, .regs 0x70, .regs 0x90, .ring,
          .lamp, .rcl, .cam, .ports] t)
    ∧ (∀ a s, Ends (.camStop a) s fun t =>
    s.onlyChanges [.mem .retA, .mem .retB, .regs 0x10, .regs 0x20, .regs 0x31, .regs 0x40, .regs
          0x41, .regs 0x42, .regs 0x50, .regs 0x60, .regs 0x62, .regs 0x70, .regs 0x90, .ring,
          .lamp, .rcl, .cam, .ports] t)
    ∧ (∀ a b s, Ends (.csiFrameStart a b) s fun t =>
    s.onlyChanges [.mem .plaza, .mem .lpddr, .mem .retA, .mem .retB, .regs 0x6, .regs 0x10, .regs
          0x20, .regs 0x31, .regs 0x40, .regs 0x41, .regs 0x42, .regs 0x50, .regs 0x60, .regs 0x62,
          .regs 0x70, .regs 0x90, .ring, .leases, .lamp, .rcl, .ave, .wrd, .xng, .cam, .brg] t)
    ∧ (∀ a s, Ends (.csiFrameEnd a) s fun t =>
    s.onlyChanges [.mem .plaza, .mem .lpddr, .mem .retA, .mem .retB, .regs 0x6, .regs 0x10, .regs
          0x20, .regs 0x31, .regs 0x40, .regs 0x41, .regs 0x42, .regs 0x50, .regs 0x60, .regs 0x62,
          .regs 0x70, .regs 0x90, .ring, .leases, .lamp, .rcl, .ave, .wrd, .xng, .cam, .brg] t)
    ∧ (∀ a b c d e s, Ends (.csiLongPacket a b c d e) s fun t =>
    s.onlyChanges [.mem .plaza, .mem .lpddr, .mem .retA, .mem .retB, .regs 0x31, .regs 0x90, .ring,
          .lamp, .rcl, .ave, .cam] t)
    ∧ (∀ a s, Ends (.csiIgnoredPacket a) s fun t =>
    s.onlyChanges [.mem .retA, .mem .retB, .regs 0x31, .regs 0x90, .ring, .lamp, .rcl, .cam] t)
    ∧ (∀ s, Ends (.camFrameTimeout) s fun t =>
    s.onlyChanges [.mem .plaza, .mem .lpddr, .mem .retA, .mem .retB, .regs 0x6, .regs 0x10, .regs
          0x20, .regs 0x31, .regs 0x40, .regs 0x41, .regs 0x42, .regs 0x50, .regs 0x60, .regs 0x62,
          .regs 0x70, .regs 0x90, .ring, .leases, .lamp, .rcl, .ave, .wrd, .xng, .cam, .brg] t)
    ∧ (∀ s, Ends (.camStaleTimeout) s fun t =>
    s.onlyChanges [.mem .retA, .mem .retB, .regs 0x31, .regs 0x90, .ring, .lamp, .rcl] t) := by
  refine ⟨fun a s => ends_of (o := execCamStart a s) rfl ?_,
    fun a s => ends_of (o := execCamStop a s) rfl ?_,
    fun a b s => ends_of (o := execCsiFrameStart a b s) rfl ?_,
    fun a s => ends_of (o := execCsiFrameEnd a s) rfl ?_,
    fun a b c d e s => ends_of (o := execCsiLongPacket a b c d e s) rfl ?_,
    fun a s => ends_of (o := execCsiIgnoredPacket a s) rfl ?_,
    fun s => ends_of (o := execCamFrameTimeout s) rfl ?_,
    fun s => ends_of (o := execCamStaleTimeout s) rfl ?_⟩
  all_goals first
    | unfold execCamStart
    | unfold execCamStop
    | unfold execCsiFrameStart
    | unfold execCsiFrameEnd
    | unfold execCsiLongPacket
    | unfold execCsiIgnoredPacket
    | unfold execCamFrameTimeout
    | unfold execCamStaleTimeout
  all_goals refine ⟨_, rfl, onlyChanges_of_within ?_ _⟩
  all_goals repeat' first
    | with_reducible exact within_skip
    | with_reducible exact within_all_nil
    | with_reducible refine within_all_cons ?_ ?_
    | with_reducible refine within_seq ?_ ?_
    | with_reducible refine within_look fun _ => ?_
    | with_reducible refine within_when ?_
    | ((with_reducible refine within_camCtrlCommit ?_); exact (by decide +kernel))
    | ((with_reducible refine within_camAccept ?_); exact (by decide +kernel))
    | ((with_reducible refine within_camClose ?_); exact (by decide +kernel))
    | ((with_reducible refine within_camDrop rfl ?_ ?_) <;> first | exact (by decide +kernel) | exact (by decide +kernel))
    | ((with_reducible refine within_camIgnore ?_); exact (by decide +kernel))
    | ((with_reducible refine within_camPacket ?_ ?_); exact (by decide +kernel))
    | ((with_reducible refine within_modCam ?_); exact (by decide +kernel))
    | ((with_reducible refine within_camStoreLine ?_); exact (by decide +kernel))
    | ((with_reducible refine within_setF rfl ?_); exact (by decide +kernel))
    | ((with_reducible refine within_raise ?_ ?_) <;> first | exact (by decide +kernel) | exact partsLe_trans (event_le _) ((by decide +kernel)))
    | ((with_reducible refine within_foldl ?_ fun _ _ hs => ?_); (· exact within_skip); refine within_seq hs ?_)
    | with_reducible refine within_ite ?_ ?_
    | with_reducible refine within_progIte ?_ ?_
    | with_reducible refine within_each fun _ => ?_
    | with_reducible refine within_all_map fun _ => ?_
    | with_reducible refine within_all_replicate ?_
    | split
    | (dsimp only; split)
    | dsimp only

/-- What `csiPhyError` may change. -/
theorem keeps_camera_1 :
    (∀ s, Ends (.csiPhyError) s fun t =>
    s.onlyChanges [.mem .retA, .mem .retB, .regs 0x31, .regs 0x90, .ring, .lamp, .rcl] t) := by
  refine fun s => ends_of (o := execCsiPhyError s) rfl ?_
  all_goals first
    | unfold execCsiPhyError
  all_goals refine ⟨_, rfl, onlyChanges_of_within ?_ _⟩
  all_goals repeat' first
    | with_reducible exact within_skip
    | with_reducible exact within_all_nil
    | with_reducible refine within_all_cons ?_ ?_
    | with_reducible refine within_seq ?_ ?_
    | with_reducible refine within_look fun _ => ?_
    | with_reducible refine within_when ?_
    | ((with_reducible refine within_bump rfl ?_); exact (by decide +kernel))
    | ((with_reducible refine within_raiseSecond ?_ ?_) <;> first | exact (by decide +kernel) | exact partsLe_trans (event_le _) ((by decide +kernel)))
    | ((with_reducible refine within_foldl ?_ fun _ _ hs => ?_); (· exact within_skip); refine within_seq hs ?_)
    | with_reducible refine within_ite ?_ ?_
    | with_reducible refine within_progIte ?_ ?_
    | with_reducible refine within_each fun _ => ?_
    | with_reducible refine within_all_map fun _ => ?_
    | with_reducible refine within_all_replicate ?_
    | split
    | (dsimp only; split)
    | dsimp only

end Sys2Proof.Machine
end

