-- ==== Sys2Proof/Laws/KeepsCombiner.lean ====
section
/-! SUPPORT. What each command of Combiner may change. -/

set_option Elab.async false
set_option linter.unreachableTactic false
set_option linter.unusedTactic false

namespace Sys2Proof.Machine

/-- What `mov` to `max` may change. -/
theorem keeps_combiner_0 :
    (∀ a b s, Ends (.mov a b) s fun t =>
    s.onlyChanges [.ras] t)
    ∧ (∀ a b s, Ends (.add a b) s fun t =>
    s.onlyChanges [.ras] t)
    ∧ (∀ a b s, Ends (.sub a b) s fun t =>
    s.onlyChanges [.ras] t)
    ∧ (∀ a b s, Ends (.mul a b) s fun t =>
    s.onlyChanges [.ras] t)
    ∧ (∀ a b s, Ends (.mad a b) s fun t =>
    s.onlyChanges [.ras] t)
    ∧ (∀ a b s, Ends (.lrp a b) s fun t =>
    s.onlyChanges [.ras] t)
    ∧ (∀ a b s, Ends (.min a b) s fun t =>
    s.onlyChanges [.ras] t)
    ∧ (∀ a b s, Ends (.max a b) s fun t =>
    s.onlyChanges [.ras] t) := by
  refine ⟨fun a b s => ends_of (o := execMov a b s) rfl ?_,
    fun a b s => ends_of (o := execAdd a b s) rfl ?_,
    fun a b s => ends_of (o := execSub a b s) rfl ?_,
    fun a b s => ends_of (o := execMul a b s) rfl ?_,
    fun a b s => ends_of (o := execMad a b s) rfl ?_,
    fun a b s => ends_of (o := execLrp a b s) rfl ?_,
    fun a b s => ends_of (o := execMin a b s) rfl ?_,
    fun a b s => ends_of (o := execMax a b s) rfl ?_⟩
  all_goals first
    | unfold execMov
    | unfold execAdd
    | unfold execSub
    | unfold execMul
    | unfold execMad
    | unfold execLrp
    | unfold execMin
    | unfold execMax
  all_goals refine ⟨_, rfl, onlyChanges_of_within ?_ _⟩
  all_goals repeat' first
    | with_reducible exact within_skip
    | with_reducible exact within_all_nil
    | with_reducible refine within_all_cons ?_ ?_
    | with_reducible refine within_seq ?_ ?_
    | with_reducible refine within_look fun _ => ?_
    | with_reducible refine within_when ?_
    | ((with_reducible refine within_combStep ?_); exact (by decide +kernel))
    | ((with_reducible refine within_foldl ?_ fun _ _ hs => ?_); (· exact within_skip); refine within_seq hs ?_)
    | with_reducible refine within_ite ?_ ?_
    | with_reducible refine within_progIte ?_ ?_
    | with_reducible refine within_each fun _ => ?_
    | with_reducible refine within_all_map fun _ => ?_
    | with_reducible refine within_all_replicate ?_
    | split
    | (dsimp only; split)
    | dsimp only

/-- What `clmp` to `log2` may change. -/
theorem keeps_combiner_1 :
    (∀ a b s, Ends (.clmp a b) s fun t =>
    s.onlyChanges [.ras] t)
    ∧ (∀ a b s, Ends (.dp2 a b) s fun t =>
    s.onlyChanges [.ras] t)
    ∧ (∀ a b s, Ends (.dp3 a b) s fun t =>
    s.onlyChanges [.ras] t)
    ∧ (∀ a b s, Ends (.dp4 a b) s fun t =>
    s.onlyChanges [.ras] t)
    ∧ (∀ a b s, Ends (.rcp a b) s fun t =>
    s.onlyChanges [.ras] t)
    ∧ (∀ a b s, Ends (.rsq a b) s fun t =>
    s.onlyChanges [.ras] t)
    ∧ (∀ a b s, Ends (.exp2 a b) s fun t =>
    s.onlyChanges [.ras] t)
    ∧ (∀ a b s, Ends (.log2 a b) s fun t =>
    s.onlyChanges [.ras] t) := by
  refine ⟨fun a b s => ends_of (o := execClmp a b s) rfl ?_,
    fun a b s => ends_of (o := execDp2 a b s) rfl ?_,
    fun a b s => ends_of (o := execDp3 a b s) rfl ?_,
    fun a b s => ends_of (o := execDp4 a b s) rfl ?_,
    fun a b s => ends_of (o := execRcp a b s) rfl ?_,
    fun a b s => ends_of (o := execRsq a b s) rfl ?_,
    fun a b s => ends_of (o := execExp2 a b s) rfl ?_,
    fun a b s => ends_of (o := execLog2 a b s) rfl ?_⟩
  all_goals first
    | unfold execClmp
    | unfold execDp2
    | unfold execDp3
    | unfold execDp4
    | unfold execRcp
    | unfold execRsq
    | unfold execExp2
    | unfold execLog2
  all_goals refine ⟨_, rfl, onlyChanges_of_within ?_ _⟩
  all_goals repeat' first
    | with_reducible exact within_skip
    | with_reducible exact within_all_nil
    | with_reducible refine within_all_cons ?_ ?_
    | with_reducible refine within_seq ?_ ?_
    | with_reducible refine within_look fun _ => ?_
    | with_reducible refine within_when ?_
    | ((with_reducible refine within_combStep ?_); exact (by decide +kernel))
    | ((with_reducible refine within_foldl ?_ fun _ _ hs => ?_); (· exact within_skip); refine within_seq hs ?_)
    | with_reducible refine within_ite ?_ ?_
    | with_reducible refine within_progIte ?_ ?_
    | with_reducible refine within_each fun _ => ?_
    | with_reducible refine within_all_map fun _ => ?_
    | with_reducible refine within_all_replicate ?_
    | split
    | (dsimp only; split)
    | dsimp only

/-- What `frc` to `kil` may change. -/
theorem keeps_combiner_2 :
    (∀ a b s, Ends (.frc a b) s fun t =>
    s.onlyChanges [.ras] t)
    ∧ (∀ a b s, Ends (.flr a b) s fun t =>
    s.onlyChanges [.ras] t)
    ∧ (∀ a b s, Ends (.slt a b) s fun t =>
    s.onlyChanges [.ras] t)
    ∧ (∀ a b s, Ends (.sge a b) s fun t =>
    s.onlyChanges [.ras] t)
    ∧ (∀ a b s, Ends (.cmp a b) s fun t =>
    s.onlyChanges [.ras] t)
    ∧ (∀ a b s, Ends (.scs a b) s fun t =>
    s.onlyChanges [.ras] t)
    ∧ (∀ a b s, Ends (.tex a b) s fun t =>
    s.onlyChanges [.ras] t)
    ∧ (∀ a b s, Ends (.kil a b) s fun t =>
    s.onlyChanges [.ras] t) := by
  refine ⟨fun a b s => ends_of (o := execFrc a b s) rfl ?_,
    fun a b s => ends_of (o := execFlr a b s) rfl ?_,
    fun a b s => ends_of (o := execSlt a b s) rfl ?_,
    fun a b s => ends_of (o := execSge a b s) rfl ?_,
    fun a b s => ends_of (o := execCmp a b s) rfl ?_,
    fun a b s => ends_of (o := execScs a b s) rfl ?_,
    fun a b s => ends_of (o := execTex a b s) rfl ?_,
    fun a b s => ends_of (o := execKil a b s) rfl ?_⟩
  all_goals first
    | unfold execFrc
    | unfold execFlr
    | unfold execSlt
    | unfold execSge
    | unfold execCmp
    | unfold execScs
    | unfold execTex
    | unfold execKil
  all_goals refine ⟨_, rfl, onlyChanges_of_within ?_ _⟩
  all_goals repeat' first
    | with_reducible exact within_skip
    | with_reducible exact within_all_nil
    | with_reducible refine within_all_cons ?_ ?_
    | with_reducible refine within_seq ?_ ?_
    | with_reducible refine within_look fun _ => ?_
    | with_reducible refine within_when ?_
    | ((with_reducible refine within_combStep ?_); exact (by decide +kernel))
    | ((with_reducible refine within_modCore ?_); exact (by decide +kernel))
    | ((with_reducible refine within_foldl ?_ fun _ _ hs => ?_); (· exact within_skip); refine within_seq hs ?_)
    | with_reducible refine within_ite ?_ ?_
    | with_reducible refine within_progIte ?_ ?_
    | with_reducible refine within_each fun _ => ?_
    | with_reducible refine within_all_map fun _ => ?_
    | with_reducible refine within_all_replicate ?_
    | split
    | (dsimp only; split)
    | dsimp only

end Sys2Proof.Machine
end

