-- ==== Sys2Proof/Laws/KeepsCompute.lean ====
section
/-! SUPPORT. What each command of Compute may change. -/

set_option Elab.async false
set_option linter.unreachableTactic false
set_option linter.unusedTactic false

namespace Sys2Proof.Machine

/-- What `computeAdd` to `computeBlend` may change. -/
theorem keeps_compute_0 :
    (∀ a s, Ends (.computeAdd a) s fun t =>
    s.onlyChanges [.mem .plaza, .mem .lpddr, .mem .retA, .mem .retB, .mem .icon, .mem .img,
          .allRegs, .pend, .ring, .leases, .lamp, .rcl, .boot, .ave, .xlt, .wrd, .xng, .cam, .ras,
          .dst, .rbt, .sco, .sgn, .hv, .can, .svc, .ports, .brg] t)
    ∧ (∀ a s, Ends (.computeSub a) s fun t =>
    s.onlyChanges [.mem .plaza, .mem .lpddr, .mem .retA, .mem .retB, .mem .icon, .mem .img,
          .allRegs, .pend, .ring, .leases, .lamp, .rcl, .boot, .ave, .xlt, .wrd, .xng, .cam, .ras,
          .dst, .rbt, .sco, .sgn, .hv, .can, .svc, .ports, .brg] t)
    ∧ (∀ a s, Ends (.computeMul a) s fun t =>
    s.onlyChanges [.mem .plaza, .mem .lpddr, .mem .retA, .mem .retB, .mem .icon, .mem .img,
          .allRegs, .pend, .ring, .leases, .lamp, .rcl, .boot, .ave, .xlt, .wrd, .xng, .cam, .ras,
          .dst, .rbt, .sco, .sgn, .hv, .can, .svc, .ports, .brg] t)
    ∧ (∀ a s, Ends (.computeMax a) s fun t =>
    s.onlyChanges [.mem .plaza, .mem .lpddr, .mem .retA, .mem .retB, .mem .icon, .mem .img,
          .allRegs, .pend, .ring, .leases, .lamp, .rcl, .boot, .ave, .xlt, .wrd, .xng, .cam, .ras,
          .dst, .rbt, .sco, .sgn, .hv, .can, .svc, .ports, .brg] t)
    ∧ (∀ a s, Ends (.computeMin a) s fun t =>
    s.onlyChanges [.mem .plaza, .mem .lpddr, .mem .retA, .mem .retB, .mem .icon, .mem .img,
          .allRegs, .pend, .ring, .leases, .lamp, .rcl, .boot, .ave, .xlt, .wrd, .xng, .cam, .ras,
          .dst, .rbt, .sco, .sgn, .hv, .can, .svc, .ports, .brg] t)
    ∧ (∀ a s, Ends (.computeRelu a) s fun t =>
    s.onlyChanges [.mem .plaza, .mem .lpddr, .mem .retA, .mem .retB, .mem .icon, .mem .img,
          .allRegs, .pend, .ring, .leases, .lamp, .rcl, .boot, .ave, .xlt, .wrd, .xng, .cam, .ras,
          .dst, .rbt, .sco, .sgn, .hv, .can, .svc, .ports, .brg] t)
    ∧ (∀ a s, Ends (.computeCvt a) s fun t =>
    s.onlyChanges [.mem .plaza, .mem .lpddr, .mem .retA, .mem .retB, .mem .icon, .mem .img,
          .allRegs, .pend, .ring, .leases, .lamp, .rcl, .boot, .ave, .xlt, .wrd, .xng, .cam, .ras,
          .dst, .rbt, .sco, .sgn, .hv, .can, .svc, .ports, .brg] t)
    ∧ (∀ a s, Ends (.computeBlend a) s fun t =>
    s.onlyChanges [.mem .plaza, .mem .lpddr, .mem .retA, .mem .retB, .mem .icon, .mem .img,
          .allRegs, .pend, .ring, .leases, .lamp, .rcl, .boot, .ave, .xlt, .wrd, .xng, .cam, .ras,
          .dst, .rbt, .sco, .sgn, .hv, .can, .svc, .ports, .brg] t) := by
  refine ⟨fun a s => ends_of (o := execComputeAdd a s) rfl ?_,
    fun a s => ends_of (o := execComputeSub a s) rfl ?_,
    fun a s => ends_of (o := execComputeMul a s) rfl ?_,
    fun a s => ends_of (o := execComputeMax a s) rfl ?_,
    fun a s => ends_of (o := execComputeMin a s) rfl ?_,
    fun a s => ends_of (o := execComputeRelu a s) rfl ?_,
    fun a s => ends_of (o := execComputeCvt a s) rfl ?_,
    fun a s => ends_of (o := execComputeBlend a s) rfl ?_⟩
  all_goals first
    | unfold execComputeAdd
    | unfold execComputeSub
    | unfold execComputeMul
    | unfold execComputeMax
    | unfold execComputeMin
    | unfold execComputeRelu
    | unfold execComputeCvt
    | unfold execComputeBlend
  all_goals refine ⟨_, rfl, onlyChanges_of_within ?_ _⟩
  all_goals repeat' first
    | with_reducible exact within_skip
    | with_reducible exact within_all_nil
    | with_reducible refine within_all_cons ?_ ?_
    | with_reducible refine within_seq ?_ ?_
    | with_reducible refine within_look fun _ => ?_
    | with_reducible refine within_when ?_
    | ((with_reducible refine within_computeOp ?_); exact (by decide +kernel))
    | ((with_reducible refine within_foldl ?_ fun _ _ hs => ?_); (· exact within_skip); refine within_seq hs ?_)
    | with_reducible refine within_ite ?_ ?_
    | with_reducible refine within_progIte ?_ ?_
    | with_reducible refine within_each fun _ => ?_
    | with_reducible refine within_all_map fun _ => ?_
    | with_reducible refine within_all_replicate ?_
    | split
    | (dsimp only; split)
    | dsimp only

/-- What `computeResample` to `computeSoftmax` may change. -/
theorem keeps_compute_1 :
    (∀ a s, Ends (.computeResample a) s fun t =>
    s.onlyChanges [.mem .plaza, .mem .lpddr, .mem .retA, .mem .retB, .mem .icon, .mem .img,
          .allRegs, .pend, .ring, .leases, .lamp, .rcl, .boot, .ave, .xlt, .wrd, .xng, .cam, .ras,
          .dst, .rbt, .sco, .sgn, .hv, .can, .svc, .ports, .brg] t)
    ∧ (∀ a s, Ends (.computeNorm a) s fun t =>
    s.onlyChanges [.mem .plaza, .mem .lpddr, .mem .retA, .mem .retB, .mem .icon, .mem .img,
          .allRegs, .pend, .ring, .leases, .lamp, .rcl, .boot, .ave, .xlt, .wrd, .xng, .cam, .ras,
          .dst, .rbt, .sco, .sgn, .hv, .can, .svc, .ports, .brg] t)
    ∧ (∀ a s, Ends (.computeSoftmax a) s fun t =>
    s.onlyChanges [.mem .plaza, .mem .lpddr, .mem .retA, .mem .retB, .mem .icon, .mem .img,
          .allRegs, .pend, .ring, .leases, .lamp, .rcl, .boot, .ave, .xlt, .wrd, .xng, .cam, .ras,
          .dst, .rbt, .sco, .sgn, .hv, .can, .svc, .ports, .brg] t) := by
  refine ⟨fun a s => ends_of (o := execComputeResample a s) rfl ?_,
    fun a s => ends_of (o := execComputeNorm a s) rfl ?_,
    fun a s => ends_of (o := execComputeSoftmax a s) rfl ?_⟩
  all_goals first
    | unfold execComputeResample
    | unfold execComputeNorm
    | unfold execComputeSoftmax
  all_goals refine ⟨_, rfl, onlyChanges_of_within ?_ _⟩
  all_goals repeat' first
    | with_reducible exact within_skip
    | with_reducible exact within_all_nil
    | with_reducible refine within_all_cons ?_ ?_
    | with_reducible refine within_seq ?_ ?_
    | with_reducible refine within_look fun _ => ?_
    | with_reducible refine within_when ?_
    | ((with_reducible refine within_computeOp ?_); exact (by decide +kernel))
    | ((with_reducible refine within_foldl ?_ fun _ _ hs => ?_); (· exact within_skip); refine within_seq hs ?_)
    | with_reducible refine within_ite ?_ ?_
    | with_reducible refine within_progIte ?_ ?_
    | with_reducible refine within_each fun _ => ?_
    | with_reducible refine within_all_map fun _ => ?_
    | with_reducible refine within_all_replicate ?_
    | split
    | (dsimp only; split)
    | dsimp only

end Sys2Proof.Machine
end

