-- ==== Sys2Proof/Laws/KeepsGspRows.lean ====
section
/-! SUPPORT. What each command of GspRows may change. -/

set_option Elab.async false
set_option linter.unreachableTactic false
set_option linter.unusedTactic false

namespace Sys2Proof.Machine

/-- What `intakeMirror` to `gspSegmentTimeout` may change. -/
theorem keeps_gspRows_0 :
    (∀ s, Ends (.intakeMirror) s fun t =>
    s.onlyChanges [.mem .retA, .mem .retB, .lamp, .boot, .svc] t)
    ∧ (∀ s, Ends (.changeJournalMirror) s fun t =>
    s.onlyChanges [.mem .retA, .mem .retB, .lamp, .boot, .svc] t)
    ∧ (∀ s, Ends (.retirementMirror) s fun t =>
    s.onlyChanges [.mem .retA, .mem .retB, .lamp, .boot, .svc] t)
    ∧ (∀ a s, Ends (.flashOperationDone a) s fun t =>
    s.onlyChanges [.mem .plaza, .mem .lpddr, .mem .flash, .mem .retA, .mem .retB, .mem .icon, .mem
          .otp, .mem .img, .allRegs, .pend, .bus, .free, .ring, .leases, .lamp, .rcl, .boot, .ave,
          .xlt, .wrd, .xng, .cam, .ras, .dst, .rbt, .sco, .sgn, .hv, .can, .svc, .ports, .brg] t)
    ∧ (∀ a s, Ends (.mirrorOperationDone a) s fun t =>
    s.onlyChanges [.mem .plaza, .mem .lpddr, .mem .flash, .mem .retA, .mem .retB, .mem .icon, .mem
          .otp, .mem .img, .allRegs, .pend, .bus, .free, .ring, .leases, .lamp, .rcl, .boot, .ave,
          .xlt, .wrd, .xng, .cam, .ras, .dst, .rbt, .sco, .sgn, .hv, .can, .svc, .ports, .brg] t)
    ∧ (∀ a s, Ends (.flashCommandTimeout a) s fun t =>
    s.onlyChanges [.mem .plaza, .mem .lpddr, .mem .flash, .mem .retA, .mem .retB, .mem .icon, .mem
          .otp, .mem .img, .allRegs, .pend, .bus, .free, .ring, .leases, .lamp, .rcl, .boot, .ave,
          .xlt, .wrd, .xng, .cam, .ras, .dst, .rbt, .sco, .sgn, .hv, .can, .svc, .ports, .brg] t)
    ∧ (∀ a b c d e f s, Ends (.canFrameReceived a b c d e f) s fun t =>
    s.onlyChanges [.mem .plaza, .mem .lpddr, .mem .retA, .mem .retB, .mem .icon, .mem .otp, .mem
          .img, .allRegs, .pend, .bus, .ring, .leases, .lamp, .rcl, .boot, .ave, .xlt, .wrd, .xng,
          .cam, .ras, .dst, .rbt, .sco, .sgn, .hv, .can, .svc, .ports, .brg] t)
    ∧ (∀ a s, Ends (.gspSegmentTimeout a) s fun t =>
    s.onlyChanges [.svc] t) := by
  refine ⟨fun s => ends_of (o := execIntakeMirror s) rfl ?_,
    fun s => ends_of (o := execChangeJournalMirror s) rfl ?_,
    fun s => ends_of (o := execRetirementMirror s) rfl ?_,
    fun a s => ends_of (o := execFlashOperationDone a s) rfl ?_,
    fun a s => ends_of (o := execMirrorOperationDone a s) rfl ?_,
    fun a s => ends_of (o := execFlashCommandTimeout a s) rfl ?_,
    fun a b c d e f s => ends_of (o := execCanFrameReceived a b c d e f s) rfl ?_,
    fun a s => ends_of (o := execGspSegmentTimeout a s) rfl ?_⟩
  all_goals first
    | unfold execIntakeMirror
    | unfold execChangeJournalMirror
    | unfold execRetirementMirror
    | unfold execFlashOperationDone
    | unfold execMirrorOperationDone
    | unfold execFlashCommandTimeout
    | unfold execCanFrameReceived
    | unfold execGspSegmentTimeout
  all_goals refine ⟨_, rfl, onlyChanges_of_within ?_ _⟩
  all_goals repeat' first
    | with_reducible exact within_skip
    | with_reducible exact within_all_nil
    | with_reducible refine within_all_cons ?_ ?_
    | with_reducible refine within_seq ?_ ?_
    | with_reducible refine within_look fun _ => ?_
    | with_reducible refine within_when ?_
    | ((with_reducible refine within_modSvc ?_); exact (by decide +kernel))
    | ((with_reducible refine within_retWrite ?_); exact (by decide +kernel))
    | ((with_reducible refine within_startMirror ?_); exact (by decide +kernel))
    | ((with_reducible refine within_endGspFlash ?_); exact (by decide +kernel))
    | ((with_reducible refine within_endMirrorFlash ?_); exact (by decide +kernel))
    | ((with_reducible refine within_modBoot ?_); exact (by decide +kernel))
    | ((with_reducible refine within_flashTimesOut ?_); exact (by decide +kernel))
    | ((with_reducible refine within_bump rfl ?_); exact (by decide +kernel))
    | ((with_reducible refine within_gspSegment ?_); exact (by decide +kernel))
    | ((with_reducible refine within_intakeFrame ?_); exact (by decide +kernel))
    | ((with_reducible refine within_usePort ?_); exact (by decide +kernel))
    | ((with_reducible refine within_modPort ?_); exact (by decide +kernel))
    | ((with_reducible refine within_foldl ?_ fun _ _ hs => ?_); (· exact within_skip); refine within_seq hs ?_)
    | with_reducible refine within_ite ?_ ?_
    | with_reducible refine within_progIte ?_ ?_
    | with_reducible refine within_each fun _ => ?_
    | with_reducible refine within_all_map fun _ => ?_
    | with_reducible refine within_all_replicate ?_
    | split
    | (dsimp only; split)
    | dsimp only

/-- What `uartGapTimeout` to `gspRegWrite` may change. -/
theorem keeps_gspRows_1 :
    (∀ s, Ends (.uartGapTimeout) s fun t =>
    s.onlyChanges [.svc] t)
    ∧ (∀ s, Ends (.uartMessageDiscard) s fun t =>
    s.onlyChanges [.mem .retA, .mem .retB, .regs 0x10, .regs 0x20, .regs 0x31, .regs 0x40, .regs
          0x41, .regs 0x42, .regs 0x50, .regs 0x60, .regs 0x62, .regs 0x70, .regs 0x90, .ring,
          .lamp, .rcl] t)
    ∧ (∀ a b s, Ends (.spiWrite a b) s fun t =>
    s.onlyChanges [.mem .plaza, .mem .lpddr, .mem .retA, .mem .retB, .mem .icon, .mem .otp, .mem
          .img, .allRegs, .pend, .bus, .ring, .leases, .lamp, .rcl, .boot, .ave, .xlt, .wrd, .xng,
          .cam, .ras, .dst, .rbt, .sco, .sgn, .hv, .can, .svc, .ports, .brg] t)
    ∧ (∀ s, Ends (.spiRead) s fun t =>
    s.onlyChanges [.mem .retA, .mem .retB, .regs 0x10, .regs 0x20, .regs 0x31, .regs 0x40, .regs
          0x41, .regs 0x42, .regs 0x50, .regs 0x60, .regs 0x62, .regs 0x70, .regs 0x90, .bus, .ring,
          .lamp, .rcl, .svc] t)
    ∧ (∀ s, Ends (.spiStatus) s fun t =>
    s.onlyChanges [.mem .retA, .mem .retB, .regs 0x10, .regs 0x20, .regs 0x31, .regs 0x40, .regs
          0x41, .regs 0x42, .regs 0x50, .regs 0x60, .regs 0x62, .regs 0x70, .regs 0x90, .bus, .ring,
          .lamp, .rcl] t)
    ∧ (∀ a b c s, Ends (.gspIdent a b c) s fun t =>
    s.onlyChanges [.mem .plaza, .mem .lpddr, .mem .retA, .mem .retB, .mem .icon, .mem .otp, .mem
          .img, .allRegs, .pend, .bus, .ring, .leases, .lamp, .rcl, .boot, .ave, .xlt, .wrd, .xng,
          .cam, .ras, .dst, .rbt, .sco, .sgn, .hv, .can, .svc, .ports, .brg] t)
    ∧ (∀ a b c s, Ends (.gspRegRead a b c) s fun t =>
    s.onlyChanges [.mem .plaza, .mem .lpddr, .mem .retA, .mem .retB, .mem .icon, .mem .otp, .mem
          .img, .allRegs, .pend, .bus, .ring, .leases, .lamp, .rcl, .boot, .ave, .xlt, .wrd, .xng,
          .cam, .ras, .dst, .rbt, .sco, .sgn, .hv, .can, .svc, .ports, .brg] t)
    ∧ (∀ a b c s, Ends (.gspRegWrite a b c) s fun t =>
    s.onlyChanges [.mem .plaza, .mem .lpddr, .mem .retA, .mem .retB, .mem .icon, .mem .otp, .mem
          .img, .allRegs, .pend, .bus, .ring, .leases, .lamp, .rcl, .boot, .ave, .xlt, .wrd, .xng,
          .cam, .ras, .dst, .rbt, .sco, .sgn, .hv, .can, .svc, .ports, .brg] t) := by
  refine ⟨fun s => ends_of (o := execUartGapTimeout s) rfl ?_,
    fun s => ends_of (o := execUartMessageDiscard s) rfl ?_,
    fun a b s => ends_of (o := execSpiWrite a b s) rfl ?_,
    fun s => ends_of (o := execSpiRead s) rfl ?_,
    fun s => ends_of (o := execSpiStatus s) rfl ?_,
    fun a b c s => ends_of (o := execGspIdent a b c s) rfl ?_,
    fun a b c s => ends_of (o := execGspRegRead a b c s) rfl ?_,
    fun a b c s => ends_of (o := execGspRegWrite a b c s) rfl ?_⟩
  all_goals first
    | unfold execUartGapTimeout
    | unfold execUartMessageDiscard
    | unfold execSpiWrite
    | unfold execSpiRead
    | unfold execSpiStatus
    | unfold execGspIdent
    | unfold execGspRegRead
    | unfold execGspRegWrite
  all_goals refine ⟨_, rfl, onlyChanges_of_within ?_ _⟩
  all_goals repeat' first
    | with_reducible exact within_skip
    | with_reducible exact within_all_nil
    | with_reducible refine within_all_cons ?_ ?_
    | with_reducible refine within_seq ?_ ?_
    | with_reducible refine within_look fun _ => ?_
    | with_reducible refine within_when ?_
    | ((with_reducible refine within_modPort ?_); exact (by decide +kernel))
    | ((with_reducible refine within_discardMsg ?_); exact (by decide +kernel))
    | ((with_reducible refine within_usePort ?_); exact (by decide +kernel))
    | ((with_reducible refine within_arriveBytes ?_); exact (by decide +kernel))
    | ((with_reducible refine within_respond ?_); exact (by decide +kernel))
    | ((with_reducible refine within_gspRow ?_); exact (by decide +kernel))
    | ((with_reducible refine within_foldl ?_ fun _ _ hs => ?_); (· exact within_skip); refine within_seq hs ?_)
    | with_reducible refine within_ite ?_ ?_
    | with_reducible refine within_progIte ?_ ?_
    | with_reducible refine within_each fun _ => ?_
    | with_reducible refine within_all_map fun _ => ?_
    | with_reducible refine within_all_replicate ?_
    | split
    | (dsimp only; split)
    | dsimp only

/-- What `gspMemRead` to `gspJournalRead` may change. -/
theorem keeps_gspRows_2 :
    (∀ a b c s, Ends (.gspMemRead a b c) s fun t =>
    s.onlyChanges [.mem .plaza, .mem .lpddr, .mem .retA, .mem .retB, .mem .icon, .mem .otp, .mem
          .img, .allRegs, .pend, .bus, .ring, .leases, .lamp, .rcl, .boot, .ave, .xlt, .wrd, .xng,
          .cam, .ras, .dst, .rbt, .sco, .sgn, .hv, .can, .svc, .ports, .brg] t)
    ∧ (∀ a b c s, Ends (.gspMemWrite a b c) s fun t =>
    s.onlyChanges [.mem .plaza, .mem .lpddr, .mem .retA, .mem .retB, .mem .icon, .mem .otp, .mem
          .img, .allRegs, .pend, .bus, .ring, .leases, .lamp, .rcl, .boot, .ave, .xlt, .wrd, .xng,
          .cam, .ras, .dst, .rbt, .sco, .sgn, .hv, .can, .svc, .ports, .brg] t)
    ∧ (∀ a b c s, Ends (.gspConfigApply a b c) s fun t =>
    s.onlyChanges [.mem .plaza, .mem .lpddr, .mem .retA, .mem .retB, .mem .icon, .mem .otp, .mem
          .img, .allRegs, .pend, .bus, .ring, .leases, .lamp, .rcl, .boot, .ave, .xlt, .wrd, .xng,
          .cam, .ras, .dst, .rbt, .sco, .sgn, .hv, .can, .svc, .ports, .brg] t)
    ∧ (∀ a b c d s, Ends (.gspConfigRead a b c d) s fun t =>
    s.onlyChanges [.mem .plaza, .mem .lpddr, .mem .retA, .mem .retB, .mem .icon, .mem .otp, .mem
          .img, .allRegs, .pend, .bus, .ring, .leases, .lamp, .rcl, .boot, .ave, .xlt, .wrd, .xng,
          .cam, .ras, .dst, .rbt, .sco, .sgn, .hv, .can, .svc, .ports, .brg] t)
    ∧ (∀ a b c d s, Ends (.gspFlashRead a b c d) s fun t =>
    s.onlyChanges [.mem .plaza, .mem .lpddr, .mem .retA, .mem .retB, .mem .icon, .mem .otp, .mem
          .img, .allRegs, .pend, .bus, .ring, .leases, .lamp, .rcl, .boot, .ave, .xlt, .wrd, .xng,
          .cam, .ras, .dst, .rbt, .sco, .sgn, .hv, .can, .svc, .ports, .brg] t)
    ∧ (∀ a b c s, Ends (.gspFlashErase a b c) s fun t =>
    s.onlyChanges [.mem .plaza, .mem .lpddr, .mem .retA, .mem .retB, .mem .icon, .mem .otp, .mem
          .img, .allRegs, .pend, .bus, .ring, .leases, .lamp, .rcl, .boot, .ave, .xlt, .wrd, .xng,
          .cam, .ras, .dst, .rbt, .sco, .sgn, .hv, .can, .svc, .ports, .brg] t)
    ∧ (∀ a b c s, Ends (.gspFlashProgram a b c) s fun t =>
    s.onlyChanges [.mem .plaza, .mem .lpddr, .mem .retA, .mem .retB, .mem .icon, .mem .otp, .mem
          .img, .allRegs, .pend, .bus, .ring, .leases, .lamp, .rcl, .boot, .ave, .xlt, .wrd, .xng,
          .cam, .ras, .dst, .rbt, .sco, .sgn, .hv, .can, .svc, .ports, .brg] t)
    ∧ (∀ a b c d s, Ends (.gspJournalRead a b c d) s fun t =>
    s.onlyChanges [.mem .plaza, .mem .lpddr, .mem .retA, .mem .retB, .mem .icon, .mem .otp, .mem
          .img, .allRegs, .pend, .bus, .ring, .leases, .lamp, .rcl, .boot, .ave, .xlt, .wrd, .xng,
          .cam, .ras, .dst, .rbt, .sco, .sgn, .hv, .can, .svc, .ports, .brg] t) := by
  refine ⟨fun a b c s => ends_of (o := execGspMemRead a b c s) rfl ?_,
    fun a b c s => ends_of (o := execGspMemWrite a b c s) rfl ?_,
    fun a b c s => ends_of (o := execGspConfigApply a b c s) rfl ?_,
    fun a b c d s => ends_of (o := execGspConfigRead a b c d s) rfl ?_,
    fun a b c d s => ends_of (o := execGspFlashRead a b c d s) rfl ?_,
    fun a b c s => ends_of (o := execGspFlashErase a b c s) rfl ?_,
    fun a b c s => ends_of (o := execGspFlashProgram a b c s) rfl ?_,
    fun a b c d s => ends_of (o := execGspJournalRead a b c d s) rfl ?_⟩
  all_goals first
    | unfold execGspMemRead
    | unfold execGspMemWrite
    | unfold execGspConfigApply
    | unfold execGspConfigRead
    | unfold execGspFlashRead
    | unfold execGspFlashErase
    | unfold execGspFlashProgram
    | unfold execGspJournalRead
  all_goals refine ⟨_, rfl, onlyChanges_of_within ?_ _⟩
  all_goals repeat' first
    | with_reducible exact within_skip
    | with_reducible exact within_all_nil
    | with_reducible refine within_all_cons ?_ ?_
    | with_reducible refine within_seq ?_ ?_
    | with_reducible refine within_look fun _ => ?_
    | with_reducible refine within_when ?_
    | ((with_reducible refine within_gspRow ?_); exact (by decide +kernel))
    | ((with_reducible refine within_foldl ?_ fun _ _ hs => ?_); (· exact within_skip); refine within_seq hs ?_)
    | with_reducible refine within_ite ?_ ?_
    | with_reducible refine within_progIte ?_ ?_
    | with_reducible refine within_each fun _ => ?_
    | with_reducible refine within_all_map fun _ => ?_
    | with_reducible refine within_all_replicate ?_
    | split
    | (dsimp only; split)
    | dsimp only

/-- What `gspRestart` to `servicePortDisable` may change. -/
theorem keeps_gspRows_3 :
    (∀ a b c s, Ends (.gspRestart a b c) s fun t =>
    s.onlyChanges [.mem .plaza, .mem .lpddr, .mem .retA, .mem .retB, .mem .icon, .mem .otp, .mem
          .img, .allRegs, .pend, .bus, .ring, .leases, .lamp, .rcl, .boot, .ave, .xlt, .wrd, .xng,
          .cam, .ras, .dst, .rbt, .sco, .sgn, .hv, .can, .svc, .ports, .brg] t)
    ∧ (∀ a b c s, Ends (.gspOtpKey a b c) s fun t =>
    s.onlyChanges [.mem .plaza, .mem .lpddr, .mem .retA, .mem .retB, .mem .icon, .mem .otp, .mem
          .img, .allRegs, .pend, .bus, .ring, .leases, .lamp, .rcl, .boot, .ave, .xlt, .wrd, .xng,
          .cam, .ras, .dst, .rbt, .sco, .sgn, .hv, .can, .svc, .ports, .brg] t)
    ∧ (∀ a b c s, Ends (.gspOtpRevoke a b c) s fun t =>
    s.onlyChanges [.mem .plaza, .mem .lpddr, .mem .retA, .mem .retB, .mem .icon, .mem .otp, .mem
          .img, .allRegs, .pend, .bus, .ring, .leases, .lamp, .rcl, .boot, .ave, .xlt, .wrd, .xng,
          .cam, .ras, .dst, .rbt, .sco, .sgn, .hv, .can, .svc, .ports, .brg] t)
    ∧ (∀ a b c s, Ends (.gspIntakeEvent a b c) s fun t =>
    s.onlyChanges [.mem .plaza, .mem .lpddr, .mem .retA, .mem .retB, .mem .icon, .mem .otp, .mem
          .img, .allRegs, .pend, .bus, .ring, .leases, .lamp, .rcl, .boot, .ave, .xlt, .wrd, .xng,
          .cam, .ras, .dst, .rbt, .sco, .sgn, .hv, .can, .svc, .ports, .brg] t)
    ∧ (∀ a b c s, Ends (.gspResult a b c) s fun t =>
    s.onlyChanges [.mem .plaza, .mem .lpddr, .mem .retA, .mem .retB, .mem .icon, .mem .otp, .mem
          .img, .allRegs, .pend, .bus, .ring, .leases, .lamp, .rcl, .boot, .ave, .xlt, .wrd, .xng,
          .cam, .ras, .dst, .rbt, .sco, .sgn, .hv, .can, .svc, .ports, .brg] t)
    ∧ (∀ a b c d s, Ends (.gspBadCmd a b c d) s fun t =>
    s.onlyChanges [.mem .plaza, .mem .lpddr, .mem .retA, .mem .retB, .mem .icon, .mem .otp, .mem
          .img, .allRegs, .pend, .bus, .ring, .leases, .lamp, .rcl, .boot, .ave, .xlt, .wrd, .xng,
          .cam, .ras, .dst, .rbt, .sco, .sgn, .hv, .can, .svc, .ports, .brg] t)
    ∧ (∀ s, Ends (.vehicleStationary) s fun t =>
    s.onlyChanges [.mem .plaza, .mem .lpddr, .mem .retA, .mem .retB, .mem .icon, .mem .otp, .mem
          .img, .allRegs, .pend, .bus, .ring, .leases, .lamp, .rcl, .boot, .ave, .xlt, .wrd, .xng,
          .cam, .ras, .dst, .rbt, .sco, .sgn, .hv, .can, .svc, .ports, .brg] t)
    ∧ (∀ a s, Ends (.servicePortDisable a) s fun t =>
    s.onlyChanges [.mem .retA, .mem .retB, .allRegs, .ring, .lamp, .rcl, .can, .svc] t) := by
  refine ⟨fun a b c s => ends_of (o := execGspRestart a b c s) rfl ?_,
    fun a b c s => ends_of (o := execGspOtpKey a b c s) rfl ?_,
    fun a b c s => ends_of (o := execGspOtpRevoke a b c s) rfl ?_,
    fun a b c s => ends_of (o := execGspIntakeEvent a b c s) rfl ?_,
    fun a b c s => ends_of (o := execGspResult a b c s) rfl ?_,
    fun a b c d s => ends_of (o := execGspBadCmd a b c d s) rfl ?_,
    fun s => ends_of (o := execVehicleStationary s) rfl ?_,
    fun a s => ends_of (o := execServicePortDisable a s) rfl ?_⟩
  all_goals first
    | unfold execGspRestart
    | unfold execGspOtpKey
    | unfold execGspOtpRevoke
    | unfold execGspIntakeEvent
    | unfold execGspResult
    | unfold execGspBadCmd
    | unfold execVehicleStationary
    | unfold execServicePortDisable
  all_goals refine ⟨_, rfl, onlyChanges_of_within ?_ _⟩
  all_goals repeat' first
    | with_reducible exact within_skip
    | with_reducible exact within_all_nil
    | with_reducible refine within_all_cons ?_ ?_
    | with_reducible refine within_seq ?_ ?_
    | with_reducible refine within_look fun _ => ?_
    | with_reducible refine within_when ?_
    | ((with_reducible refine within_gspRow ?_); exact (by decide +kernel))
    | ((with_reducible refine within_modSvc ?_); exact (by decide +kernel))
    | ((with_reducible refine within_ijWrite ?_); exact (by decide +kernel))
    | ((with_reducible refine within_runCmds ?_); exact (by decide +kernel))
    | ((with_reducible refine within_portCommit ?_); exact (by decide +kernel))
    | ((with_reducible refine within_foldl ?_ fun _ _ hs => ?_); (· exact within_skip); refine within_seq hs ?_)
    | with_reducible refine within_ite ?_ ?_
    | with_reducible refine within_progIte ?_ ?_
    | with_reducible refine within_each fun _ => ?_
    | with_reducible refine within_all_map fun _ => ?_
    | with_reducible refine within_all_replicate ?_
    | split
    | (dsimp only; split)
    | dsimp only

end Sys2Proof.Machine
end

