-- ==== Sys2Proof/Laws/KeepsHighVoltage.lean ====
section
/-! SUPPORT. What each command of HighVoltage may change. -/

set_option Elab.async false
set_option linter.unreachableTactic false
set_option linter.unusedTactic false

namespace Sys2Proof.Machine

/-- What `hvStatus` may change. -/
theorem keeps_hvStatus : ∀ a b s, Ends (.hvStatus a b) s fun t => s.onlyChanges [.regs 0x50] t := by
  intro a b s
  refine ends_of (o := execHvStatus a b s) rfl ⟨_, rfl, onlyChanges_of_within ?_ s⟩
  by_cases h : statusIndexes.contains a = true
  · simp only [Prog.when, h, if_true]
    refine within_act ?_ fun _ _ e => by cases e
    simp [statusIndexes] at h
    rcases h with rfl | rfl | rfl | rfl | rfl | rfl | rfl | rfl | rfl | rfl | rfl <;> rfl
  · simp only [Prog.when, h]
    exact within_skip

/-- What `killLineAssert` to `hvResync` may change. -/
theorem keeps_highVoltage_0 :
    (∀ s, Ends (.killLineAssert) s fun t =>
    s.onlyChanges [.hv] t)
    ∧ (∀ s, Ends (.killLineRelease) s fun t =>
    s.onlyChanges [.hv] t)
    ∧ (∀ a b s, Ends (.rangeChange a b) s fun t =>
    s.onlyChanges [.allRegs, .free, .hv] t)
    ∧ (∀ a s, Ends (.rangeSettled a) s fun t =>
    s.onlyChanges [.mem .retA, .mem .retB, .regs 0x50, .lamp, .hv] t)
    ∧ (∀ a b c s, Ends (.hvWrite a b c) s fun t =>
    s.onlyChanges [.mem .retA, .mem .retB, .allRegs, .free, .ring, .lamp, .rcl, .hv] t)
    ∧ (∀ a s, Ends (.hvAck a) s fun t =>
    s.onlyChanges [.regs 0x50, .hv] t)
    ∧ (∀ a s, Ends (.hvHeartbeat a) s fun t =>
    s.onlyChanges [.hv] t)
    ∧ (∀ a s, Ends (.hvResync a) s fun t =>
    s.onlyChanges [.hv] t) := by
  refine ⟨fun s => ends_of (o := execKillLineAssert s) rfl ?_,
    fun s => ends_of (o := execKillLineRelease s) rfl ?_,
    fun a b s => ends_of (o := execRangeChange a b s) rfl ?_,
    fun a s => ends_of (o := execRangeSettled a s) rfl ?_,
    fun a b c s => ends_of (o := execHvWrite a b c s) rfl ?_,
    fun a s => ends_of (o := execHvAck a s) rfl ?_,
    fun a s => ends_of (o := execHvHeartbeat a s) rfl ?_,
    fun a s => ends_of (o := execHvResync a s) rfl ?_⟩
  all_goals first
    | unfold execKillLineAssert
    | unfold execKillLineRelease
    | unfold execRangeChange
    | unfold execRangeSettled
    | unfold execHvWrite
    | unfold execHvAck
    | unfold execHvHeartbeat
    | unfold execHvResync
  all_goals refine ⟨_, rfl, onlyChanges_of_within ?_ _⟩
  all_goals repeat' first
    | with_reducible exact within_skip
    | with_reducible exact within_all_nil
    | with_reducible refine within_all_cons ?_ ?_
    | with_reducible refine within_seq ?_ ?_
    | with_reducible refine within_look fun _ => ?_
    | with_reducible refine within_when ?_
    | ((with_reducible refine within_assertKill ?_); exact (by decide +kernel))
    | ((with_reducible refine within_modHv ?_); exact (by decide +kernel))
    | ((with_reducible refine within_applySink ?_); exact (by decide +kernel))
    | ((with_reducible refine within_hvsCommit ?_); exact (by decide +kernel))
    | ((with_reducible refine within_modSink ?_); exact (by decide +kernel))
    | ((with_reducible refine within_switchRange ?_); exact (by decide +kernel))
    | ((with_reducible refine within_boostStart ?_); exact (by decide +kernel))
    | ((with_reducible refine within_hvApply ?_); exact (by decide +kernel))
    | ((with_reducible refine within_hvSend ?_); exact (by decide +kernel))
    | ((with_reducible refine within_settleSinks ?_); exact (by decide +kernel))
    | ((with_reducible refine within_useHvs ?_); exact (by decide +kernel))
    | ((with_reducible refine within_setF rfl ?_); exact (by decide +kernel))
    | ((with_reducible refine within_hvsPump ?_); exact (by decide +kernel))
    | ((with_reducible refine within_foldl ?_ fun _ _ hs => ?_); (· exact within_skip); refine within_seq hs ?_)
    | with_reducible refine within_ite ?_ ?_
    | with_reducible refine within_progIte ?_ ?_
    | with_reducible refine within_each fun _ => ?_
    | with_reducible refine within_all_map fun _ => ?_
    | with_reducible refine within_all_replicate ?_
    | split
    | (dsimp only; split)
    | dsimp only

/-- What `hvAckTimeout` to `vbatConversion` may change. -/
theorem keeps_highVoltage_1 :
    (∀ s, Ends (.hvAckTimeout) s fun t =>
    s.onlyChanges [.regs 0x50, .hv] t)
    ∧ (∀ s, Ends (.hvHeartbeatTimer) s fun t =>
    s.onlyChanges [.hv] t)
    ∧ (∀ s, Ends (.hvSideLinkLoss) s fun t =>
    s.onlyChanges [.hv] t)
    ∧ (∀ s, Ends (.safeHoldExpire) s fun t =>
    s.onlyChanges [.hv] t)
    ∧ (∀ s, Ends (.hvLinkLost) s fun t =>
    s.onlyChanges [.mem .retA, .mem .retB, .regs 0x50, .regs 0x90, .ring, .lamp, .rcl, .hv] t)
    ∧ (∀ s, Ends (.hvResyncTimer) s fun t =>
    s.onlyChanges [.hv] t)
    ∧ (∀ s, Ends (.hvFrameMismatch) s fun t =>
    s.onlyChanges [.mem .retA, .mem .retB, .regs 0x50, .regs 0x90, .ring, .lamp, .rcl] t)
    ∧ (∀ a s, Ends (.vbatConversion a) s fun t =>
    s.onlyChanges [.mem .retA, .mem .retB, .regs 0x50, .regs 0x90, .ring, .lamp, .rcl, .hv] t) := by
  refine ⟨fun s => ends_of (o := execHvAckTimeout s) rfl ?_,
    fun s => ends_of (o := execHvHeartbeatTimer s) rfl ?_,
    fun s => ends_of (o := execHvSideLinkLoss s) rfl ?_,
    fun s => ends_of (o := execSafeHoldExpire s) rfl ?_,
    fun s => ends_of (o := execHvLinkLost s) rfl ?_,
    fun s => ends_of (o := execHvResyncTimer s) rfl ?_,
    fun s => ends_of (o := execHvFrameMismatch s) rfl ?_,
    fun a s => ends_of (o := execVbatConversion a s) rfl ?_⟩
  all_goals first
    | unfold execHvAckTimeout
    | unfold execHvHeartbeatTimer
    | unfold execHvSideLinkLoss
    | unfold execSafeHoldExpire
    | unfold execHvLinkLost
    | unfold execHvResyncTimer
    | unfold execHvFrameMismatch
    | unfold execVbatConversion
  all_goals refine ⟨_, rfl, onlyChanges_of_within ?_ _⟩
  all_goals repeat' first
    | with_reducible exact within_skip
    | with_reducible exact within_all_nil
    | with_reducible refine within_all_cons ?_ ?_
    | with_reducible refine within_seq ?_ ?_
    | with_reducible refine within_look fun _ => ?_
    | with_reducible refine within_when ?_
    | ((with_reducible refine within_modHv ?_); exact (by decide +kernel))
    | ((with_reducible refine within_bump rfl ?_); exact (by decide +kernel))
    | ((with_reducible refine within_hvsPump ?_); exact (by decide +kernel))
    | ((with_reducible refine within_hvsSend ?_); exact (by decide +kernel))
    | ((with_reducible refine within_boostStop ?_); exact (by decide +kernel))
    | ((with_reducible refine within_sinksOff ?_); exact (by decide +kernel))
    | ((with_reducible refine within_setF rfl ?_); exact (by decide +kernel))
    | ((with_reducible refine within_raise ?_ ?_) <;> first | exact (by decide +kernel) | exact partsLe_trans (event_le _) ((by decide +kernel)))
    | ((with_reducible refine within_raiseSecond ?_ ?_) <;> first | exact (by decide +kernel) | exact partsLe_trans (event_le _) ((by decide +kernel)))
    | ((with_reducible refine within_boostStart ?_); exact (by decide +kernel))
    | ((with_reducible refine within_settleSinks ?_); exact (by decide +kernel))
    | ((with_reducible refine within_foldl ?_ fun _ _ hs => ?_); (· exact within_skip); refine within_seq hs ?_)
    | with_reducible refine within_ite ?_ ?_
    | with_reducible refine within_progIte ?_ ?_
    | with_reducible refine within_each fun _ => ?_
    | with_reducible refine within_all_map fun _ => ?_
    | with_reducible refine within_all_replicate ?_
    | split
    | (dsimp only; split)
    | dsimp only

/-- What `headroomUpdate` to `pwmPeriodStart` may change. -/
theorem keeps_highVoltage_2 :
    (∀ a s, Ends (.headroomUpdate a) s fun t =>
    s.onlyChanges [.hv] t)
    ∧ (∀ s, Ends (.boostSoftStartDone) s fun t =>
    s.onlyChanges [.hv] t)
    ∧ (∀ s, Ends (.boostIdleStop) s fun t =>
    s.onlyChanges [.hv] t)
    ∧ (∀ a s, Ends (.boostOvervoltage a) s fun t =>
    s.onlyChanges [.mem .retA, .mem .retB, .regs 0x50, .regs 0x90, .ring, .lamp, .rcl, .hv] t)
    ∧ (∀ s, Ends (.boostNoRegulation) s fun t =>
    s.onlyChanges [.mem .retA, .mem .retB, .regs 0x50, .regs 0x90, .ring, .lamp, .rcl, .hv] t)
    ∧ (∀ s, Ends (.boostRestart) s fun t =>
    s.onlyChanges [.hv] t)
    ∧ (∀ s, Ends (.hvsClear) s fun t =>
    s.onlyChanges [.hv] t)
    ∧ (∀ s, Ends (.pwmPeriodStart) s fun t =>
    s.onlyChanges [.mem .retA, .mem .retB, .allRegs, .ring, .lamp, .rcl, .hv] t) := by
  refine ⟨fun a s => ends_of (o := execHeadroomUpdate a s) rfl ?_,
    fun s => ends_of (o := execBoostSoftStartDone s) rfl ?_,
    fun s => ends_of (o := execBoostIdleStop s) rfl ?_,
    fun a s => ends_of (o := execBoostOvervoltage a s) rfl ?_,
    fun s => ends_of (o := execBoostNoRegulation s) rfl ?_,
    fun s => ends_of (o := execBoostRestart s) rfl ?_,
    fun s => ends_of (o := execHvsClear s) rfl ?_,
    fun s => ends_of (o := execPwmPeriodStart s) rfl ?_⟩
  all_goals first
    | unfold execHeadroomUpdate
    | unfold execBoostSoftStartDone
    | unfold execBoostIdleStop
    | unfold execBoostOvervoltage
    | unfold execBoostNoRegulation
    | unfold execBoostRestart
    | unfold execHvsClear
    | unfold execPwmPeriodStart
  all_goals refine ⟨_, rfl, onlyChanges_of_within ?_ _⟩
  all_goals repeat' first
    | with_reducible exact within_skip
    | with_reducible exact within_all_nil
    | with_reducible refine within_all_cons ?_ ?_
    | with_reducible refine within_seq ?_ ?_
    | with_reducible refine within_look fun _ => ?_
    | with_reducible refine within_when ?_
    | ((with_reducible refine within_modHv ?_); exact (by decide +kernel))
    | ((with_reducible refine within_settleSinks ?_); exact (by decide +kernel))
    | ((with_reducible refine within_boostStop ?_); exact (by decide +kernel))
    | ((with_reducible refine within_bump rfl ?_); exact (by decide +kernel))
    | ((with_reducible refine within_raiseSecond ?_ ?_) <;> first | exact (by decide +kernel) | exact partsLe_trans (event_le _) ((by decide +kernel)))
    | ((with_reducible refine within_raise ?_ ?_) <;> first | exact (by decide +kernel) | exact partsLe_trans (event_le _) ((by decide +kernel)))
    | ((with_reducible refine within_sinksOff ?_); exact (by decide +kernel))
    | ((with_reducible refine within_hvsClear ?_); exact (by decide +kernel))
    | ((with_reducible refine within_useHvs ?_); exact (by decide +kernel))
    | ((with_reducible refine within_foldl ?_ fun _ _ hs => ?_); (· exact within_skip); refine within_seq hs ?_)
    | with_reducible refine within_ite ?_ ?_
    | with_reducible refine within_progIte ?_ ?_
    | with_reducible refine within_each fun _ => ?_
    | with_reducible refine within_all_map fun _ => ?_
    | with_reducible refine within_all_replicate ?_
    | split
    | (dsimp only; split)
    | dsimp only

/-- What `sinkOnTimeEnd` to `blOnDelayExpire` may change. -/
theorem keeps_highVoltage_3 :
    (∀ a b s, Ends (.sinkOnTimeEnd a b) s fun t =>
    s.onlyChanges [.mem .retA, .mem .retB, .regs 0x50, .regs 0x90, .ring, .lamp, .rcl, .hv] t)
    ∧ (∀ a s, Ends (.sinkZeroTimeout a) s fun t =>
    s.onlyChanges [.mem .retA, .mem .retB, .regs 0x50, .lamp, .hv] t)
    ∧ (∀ a s, Ends (.ntcConversionStart a) s fun t =>
    s.onlyChanges [.hv] t)
    ∧ (∀ a b c s, Ends (.ntcConversionEnd a b c) s fun t =>
    s.onlyChanges [.mem .retA, .mem .retB, .regs 0x50, .regs 0x90, .ring, .lamp, .rcl, .hv] t)
    ∧ (∀ a s, Ends (.blOnDelayExpire a) s fun t =>
    s.onlyChanges [.regs 0x2, .sco, .hv] t) := by
  refine ⟨fun a b s => ends_of (o := execSinkOnTimeEnd a b s) rfl ?_,
    fun a s => ends_of (o := execSinkZeroTimeout a s) rfl ?_,
    fun a s => ends_of (o := execNtcConversionStart a s) rfl ?_,
    fun a b c s => ends_of (o := execNtcConversionEnd a b c s) rfl ?_,
    fun a s => ends_of (o := execBlOnDelayExpire a s) rfl ?_⟩
  all_goals first
    | unfold execSinkOnTimeEnd
    | unfold execSinkZeroTimeout
    | unfold execNtcConversionStart
    | unfold execNtcConversionEnd
    | unfold execBlOnDelayExpire
  all_goals refine ⟨_, rfl, onlyChanges_of_within ?_ _⟩
  all_goals repeat' first
    | with_reducible exact within_skip
    | with_reducible exact within_all_nil
    | with_reducible refine within_all_cons ?_ ?_
    | with_reducible refine within_seq ?_ ?_
    | with_reducible refine within_look fun _ => ?_
    | with_reducible refine within_when ?_
    | ((with_reducible refine within_detectString ?_); exact (by decide +kernel))
    | ((with_reducible refine within_endOnTime ?_); exact (by decide +kernel))
    | ((with_reducible refine within_modNtc ?_); exact (by decide +kernel))
    | ((with_reducible refine within_raise ?_ ?_) <;> first | exact (by decide +kernel) | exact partsLe_trans (event_le _) ((by decide +kernel)))
    | ((with_reducible refine within_raiseSecond ?_ ?_) <;> first | exact (by decide +kernel) | exact partsLe_trans (event_le _) ((by decide +kernel)))
    | ((with_reducible refine within_settleSinks ?_); exact (by decide +kernel))
    | ((with_reducible refine within_setReg rfl ?_); exact (by decide +kernel))
    | ((with_reducible refine within_giveBacklight ?_); exact (by decide +kernel))
    | ((with_reducible refine within_foldl ?_ fun _ _ hs => ?_); (· exact within_skip); refine within_seq hs ?_)
    | with_reducible refine within_ite ?_ ?_
    | with_reducible refine within_progIte ?_ ?_
    | with_reducible refine within_each fun _ => ?_
    | with_reducible refine within_all_map fun _ => ?_
    | with_reducible refine within_all_replicate ?_
    | split
    | (dsimp only; split)
    | dsimp only

end Sys2Proof.Machine
end

