-- ==== Sys2Proof/Laws/KeepsLamplight.lean ====
section
/-! SUPPORT. What each command of Lamplight may change. -/

set_option Elab.async false
set_option linter.unreachableTactic false
set_option linter.unusedTactic false

namespace Sys2Proof.Machine

/-- What `porAssert` to `refCountFail` may change. -/
theorem keeps_lamplight_0 :
    (∀ s, Ends (.porAssert) s fun t =>
    s.onlyChanges [.mem .retA, .mem .retB, .mem .icon, .mem .img, .allRegs, .pend, .ring, .leases,
          .lamp, .rcl, .boot, .ave, .xlt, .wrd, .xng, .cam, .ras, .dst, .rbt, .sco, .sgn, .hv, .can,
          .svc, .ports, .brg] t)
    ∧ (∀ a s, Ends (.porRelease a) s fun t =>
    s.onlyChanges [.mem .retA, .mem .retB, .free, .lamp] t)
    ∧ (∀ s, Ends (.x32CrystalLock) s fun t =>
    s.onlyChanges [.lamp] t)
    ∧ (∀ s, Ends (.x32EdgeMissed) s fun t =>
    s.onlyChanges [.lamp] t)
    ∧ (∀ s, Ends (.x32Fail) s fun t =>
    s.onlyChanges [.mem .retA, .mem .retB, .regs 0x1, .regs 0x90, .ring, .lamp, .rcl] t)
    ∧ (∀ s, Ends (.x32EdgeReturn) s fun t =>
    s.onlyChanges [.lamp] t)
    ∧ (∀ s, Ends (.refStartTimeout) s fun t =>
    s.onlyChanges [.mem .retA, .mem .retB, .mem .icon, .mem .img, .allRegs, .pend, .ring, .leases,
          .lamp, .rcl, .boot, .ave, .xlt, .wrd, .xng, .cam, .ras, .dst, .rbt, .sco, .sgn, .hv, .can,
          .svc, .ports, .brg] t)
    ∧ (∀ s, Ends (.refCountFail) s fun t =>
    s.onlyChanges [.mem .retA, .mem .retB, .mem .icon, .mem .img, .allRegs, .pend, .ring, .leases,
          .lamp, .rcl, .boot, .ave, .xlt, .wrd, .xng, .cam, .ras, .dst, .rbt, .sco, .sgn, .hv, .can,
          .svc, .ports, .brg] t) := by
  refine ⟨fun s => ends_of (o := execPorAssert s) rfl ?_,
    fun a s => ends_of (o := execPorRelease a s) rfl ?_,
    fun s => ends_of (o := execX32CrystalLock s) rfl ?_,
    fun s => ends_of (o := execX32EdgeMissed s) rfl ?_,
    fun s => ends_of (o := execX32Fail s) rfl ?_,
    fun s => ends_of (o := execX32EdgeReturn s) rfl ?_,
    fun s => ends_of (o := execRefStartTimeout s) rfl ?_,
    fun s => ends_of (o := execRefCountFail s) rfl ?_⟩
  all_goals first
    | unfold execPorAssert
    | unfold execPorRelease
    | unfold execX32CrystalLock
    | unfold execX32EdgeMissed
    | unfold execX32Fail
    | unfold execX32EdgeReturn
    | unfold execRefStartTimeout
    | unfold execRefCountFail
  all_goals refine ⟨_, rfl, onlyChanges_of_within ?_ _⟩
  all_goals repeat' first
    | with_reducible exact within_skip
    | with_reducible exact within_all_nil
    | with_reducible refine within_all_cons ?_ ?_
    | with_reducible refine within_seq ?_ ?_
    | with_reducible refine within_look fun _ => ?_
    | with_reducible refine within_when ?_
    | ((with_reducible refine within_clearRegs ?_ ?_) <;> exact (by decide +kernel))
    | ((with_reducible refine within_act ?_ ?_) <;> first | exact rfl | exact fun _ _ e => by cases e)
    | ((with_reducible refine within_logicReset ?_); exact (by decide +kernel))
    | ((with_reducible refine within_modLamp ?_); exact (by decide +kernel))
    | ((with_reducible refine within_retWrite ?_); exact (by decide +kernel))
    | ((with_reducible refine within_setF rfl ?_); exact (by decide +kernel))
    | ((with_reducible refine within_raise ?_ ?_) <;> first | exact (by decide +kernel) | exact partsLe_trans (event_le _) ((by decide +kernel)))
    | ((with_reducible refine within_refFail ?_); exact (by decide +kernel))
    | ((with_reducible refine within_foldl ?_ fun _ _ hs => ?_); (· exact within_skip); refine within_seq hs ?_)
    | with_reducible refine within_ite ?_ ?_
    | with_reducible refine within_progIte ?_ ?_
    | with_reducible refine within_each fun _ => ?_
    | with_reducible refine within_all_map fun _ => ?_
    | with_reducible refine within_all_replicate ?_
    | split
    | (dsimp only; split)
    | dsimp only

/-- What `pllLocked` to `pwrGoodTimeout` may change. -/
theorem keeps_lamplight_1 :
    (∀ a s, Ends (.pllLocked a) s fun t =>
    s.onlyChanges [.regs 0x0, .regs 0x41, .lamp, .sco] t)
    ∧ (∀ s, Ends (.sysPllLossOfLock) s fun t =>
    s.onlyChanges [.mem .retA, .mem .retB, .mem .icon, .mem .img, .allRegs, .pend, .ring, .leases,
          .lamp, .rcl, .boot, .ave, .xlt, .wrd, .xng, .cam, .ras, .dst, .rbt, .sco, .sgn, .hv, .can,
          .svc, .ports, .brg] t)
    ∧ (∀ a s, Ends (.pllLossOfLock a) s fun t =>
    s.onlyChanges [.mem .plaza, .mem .lpddr, .mem .retA, .mem .retB, .mem .icon, .mem .img,
          .allRegs, .pend, .ring, .leases, .lamp, .rcl, .boot, .ave, .xlt, .wrd, .xng, .cam, .ras,
          .dst, .rbt, .sco, .sgn, .hv, .can, .svc, .ports, .brg] t)
    ∧ (∀ a b s, Ends (.wakeInputEdge a b) s fun t =>
    s.onlyChanges [.mem .icon, .mem .img, .allRegs, .pend, .leases, .lamp, .rcl, .boot, .ave, .xlt,
          .wrd, .xng, .cam, .ras, .dst, .rbt, .sco, .sgn, .hv, .can, .svc, .ports, .brg] t)
    ∧ (∀ a s, Ends (.wakeFilterElapsed a) s fun t =>
    s.onlyChanges [.mem .retA, .mem .retB, .regs 0x0, .regs 0x1, .regs 0x6, .regs 0x10, .regs 0x20,
          .regs 0x31, .regs 0x40, .regs 0x41, .regs 0x42, .regs 0x50, .regs 0x60, .regs 0x62, .regs
          0x70, .regs 0x90, .ring, .leases, .lamp, .rcl, .ave, .wrd, .xng, .dst, .sco, .hv, .ports]
          t)
    ∧ (∀ s, Ends (.timerAlarm) s fun t =>
    s.onlyChanges [.mem .retA, .mem .retB, .regs 0x0, .regs 0x1, .regs 0x6, .regs 0x10, .regs 0x20,
          .regs 0x31, .regs 0x40, .regs 0x41, .regs 0x42, .regs 0x50, .regs 0x60, .regs 0x62, .regs
          0x70, .regs 0x90, .ring, .leases, .lamp, .rcl, .ave, .wrd, .xng, .dst, .sco, .hv, .ports]
          t)
    ∧ (∀ a s, Ends (.pwrGoodRise a) s fun t =>
    s.onlyChanges [.lamp, .ports] t)
    ∧ (∀ s, Ends (.pwrGoodTimeout) s fun t =>
    s.onlyChanges [.mem .retA, .mem .retB, .mem .icon, .mem .img, .allRegs, .pend, .ring, .leases,
          .lamp, .rcl, .boot, .ave, .xlt, .wrd, .xng, .cam, .ras, .dst, .rbt, .sco, .sgn, .hv, .can,
          .svc, .ports, .brg] t) := by
  refine ⟨fun a s => ends_of (o := execPllLocked a s) rfl ?_,
    fun s => ends_of (o := execSysPllLossOfLock s) rfl ?_,
    fun a s => ends_of (o := execPllLossOfLock a s) rfl ?_,
    fun a b s => ends_of (o := execWakeInputEdge a b s) rfl ?_,
    fun a s => ends_of (o := execWakeFilterElapsed a s) rfl ?_,
    fun s => ends_of (o := execTimerAlarm s) rfl ?_,
    fun a s => ends_of (o := execPwrGoodRise a s) rfl ?_,
    fun s => ends_of (o := execPwrGoodTimeout s) rfl ?_⟩
  all_goals first
    | unfold execPllLocked
    | unfold execSysPllLossOfLock
    | unfold execPllLossOfLock
    | unfold execWakeInputEdge
    | unfold execWakeFilterElapsed
    | unfold execTimerAlarm
    | unfold execPwrGoodRise
    | unfold execPwrGoodTimeout
  all_goals refine ⟨_, rfl, onlyChanges_of_within ?_ _⟩
  all_goals repeat' first
    | with_reducible exact within_skip
    | with_reducible exact within_all_nil
    | with_reducible refine within_all_cons ?_ ?_
    | with_reducible refine within_seq ?_ ?_
    | with_reducible refine within_look fun _ => ?_
    | with_reducible refine within_when ?_
    | ((with_reducible refine within_modLamp ?_); exact (by decide +kernel))
    | ((with_reducible refine within_setFBit rfl ?_); exact (by decide +kernel))
    | ((with_reducible refine within_armWaiting ?_); exact (by decide +kernel))
    | ((with_reducible refine within_reclockUnits ?_); exact (by decide +kernel))
    | ((with_reducible refine within_raise ?_ ?_) <;> first | exact (by decide +kernel) | exact partsLe_trans (event_le _) ((by decide +kernel)))
    | ((with_reducible refine within_warmReset ?_); exact (by decide +kernel))
    | ((with_reducible refine within_setReg rfl ?_); exact (by decide +kernel))
    | ((with_reducible refine within_escalate ?_); exact (by decide +kernel))
    | ((with_reducible refine within_fenceWith ?_); exact (by decide +kernel))
    | ((with_reducible refine within_unlockPlls ?_); exact (by decide +kernel))
    | ((with_reducible refine within_modHv ?_); exact (by decide +kernel))
    | ((with_reducible refine within_modWake ?_); exact (by decide +kernel))
    | ((with_reducible refine within_usePair rfl ?_ ?_) <;> first | exact (by decide +kernel) | exact (by decide +kernel))
    | ((with_reducible refine within_leaveQuiet ?_); exact (by decide +kernel))
    | ((with_reducible refine within_wakeEvent ?_); exact (by decide +kernel))
    | ((with_reducible refine within_releaseLogic ?_); exact (by decide +kernel))
    | ((with_reducible refine within_failWaking ?_); exact (by decide +kernel))
    | ((with_reducible refine within_foldl ?_ fun _ _ hs => ?_); (· exact within_skip); refine within_seq hs ?_)
    | with_reducible refine within_ite ?_ ?_
    | with_reducible refine within_progIte ?_ ?_
    | with_reducible refine within_each fun _ => ?_
    | with_reducible refine within_all_map fun _ => ?_
    | with_reducible refine within_all_replicate ?_
    | split
    | (dsimp only; split)
    | dsimp only

/-- What `wakingRetry` to `parkPowerOff` may change. -/
theorem keeps_lamplight_2 :
    (∀ s, Ends (.wakingRetry) s fun t =>
    s.onlyChanges [.lamp, .hv] t)
    ∧ (∀ a s, Ends (.pwrReqRunning a) s fun t =>
    s.onlyChanges [.mem .retA, .mem .retB, .regs 0x0, .regs 0x4, .regs 0x5, .regs 0x6, .regs 0x10,
          .regs 0x20, .regs 0x31, .regs 0x40, .regs 0x41, .regs 0x42, .regs 0x50, .regs 0x60, .regs
          0x62, .regs 0x70, .regs 0x90, .ring, .leases, .lamp, .rcl, .boot, .ave, .xlt, .wrd, .xng,
          .ras, .dst, .rbt, .sco, .hv, .ports, .brg] t)
    ∧ (∀ a s, Ends (.pwrReqQuiet a) s fun t =>
    s.onlyChanges [.mem .retA, .mem .retB, .regs 0x0, .regs 0x4, .regs 0x5, .regs 0x6, .regs 0x10,
          .regs 0x20, .regs 0x31, .regs 0x40, .regs 0x41, .regs 0x42, .regs 0x50, .regs 0x60, .regs
          0x62, .regs 0x70, .regs 0x90, .ring, .leases, .lamp, .rcl, .boot, .ave, .xlt, .wrd, .xng,
          .ras, .dst, .rbt, .sco, .hv, .ports, .brg] t)
    ∧ (∀ a s, Ends (.pwrReqParked a) s fun t =>
    s.onlyChanges [.mem .retA, .mem .retB, .regs 0x0, .regs 0x4, .regs 0x5, .regs 0x6, .regs 0x10,
          .regs 0x20, .regs 0x31, .regs 0x40, .regs 0x41, .regs 0x42, .regs 0x50, .regs 0x60, .regs
          0x62, .regs 0x70, .regs 0x90, .ring, .leases, .lamp, .rcl, .boot, .ave, .xlt, .wrd, .xng,
          .ras, .dst, .rbt, .sco, .hv, .ports, .brg] t)
    ∧ (∀ s, Ends (.ignOffDelayExpire) s fun t =>
    s.onlyChanges [.mem .retA, .mem .retB, .regs 0x0, .regs 0x1, .regs 0x4, .regs 0x5, .regs 0x6,
          .regs 0x10, .regs 0x20, .regs 0x31, .regs 0x40, .regs 0x41, .regs 0x42, .regs 0x50, .regs
          0x60, .regs 0x62, .regs 0x70, .regs 0x90, .ring, .leases, .lamp, .rcl, .boot, .ave, .xlt,
          .wrd, .xng, .ras, .dst, .rbt, .sco, .hv, .ports, .brg] t)
    ∧ (∀ s, Ends (.quietTimeout) s fun t =>
    s.onlyChanges [.mem .retA, .mem .retB, .regs 0x0, .regs 0x1, .regs 0x4, .regs 0x5, .regs 0x6,
          .regs 0x10, .regs 0x20, .regs 0x31, .regs 0x40, .regs 0x41, .regs 0x42, .regs 0x50, .regs
          0x60, .regs 0x62, .regs 0x70, .regs 0x90, .ring, .leases, .lamp, .rcl, .boot, .ave, .xlt,
          .wrd, .xng, .ras, .dst, .rbt, .sco, .hv, .ports, .brg] t)
    ∧ (∀ s, Ends (.parkDrainEnd) s fun t =>
    s.onlyChanges [.mem .retA, .mem .retB, .regs 0x4, .regs 0x5, .regs 0x6, .regs 0x10, .regs 0x20,
          .regs 0x31, .regs 0x40, .regs 0x41, .regs 0x42, .regs 0x50, .regs 0x60, .regs 0x62, .regs
          0x70, .regs 0x90, .ring, .leases, .lamp, .rcl, .boot, .ave, .xlt, .wrd, .xng, .ras, .dst,
          .rbt, .brg] t)
    ∧ (∀ s, Ends (.parkPowerOff) s fun t =>
    s.onlyChanges [.mem .icon, .mem .img, .allRegs, .pend, .leases, .lamp, .rcl, .boot, .ave, .xlt,
          .wrd, .xng, .cam, .ras, .dst, .rbt, .sco, .sgn, .hv, .can, .svc, .ports, .brg] t) := by
  refine ⟨fun s => ends_of (o := execWakingRetry s) rfl ?_,
    fun a s => ends_of (o := execPwrReqRunning a s) rfl ?_,
    fun a s => ends_of (o := execPwrReqQuiet a s) rfl ?_,
    fun a s => ends_of (o := execPwrReqParked a s) rfl ?_,
    fun s => ends_of (o := execIgnOffDelayExpire s) rfl ?_,
    fun s => ends_of (o := execQuietTimeout s) rfl ?_,
    fun s => ends_of (o := execParkDrainEnd s) rfl ?_,
    fun s => ends_of (o := execParkPowerOff s) rfl ?_⟩
  all_goals first
    | unfold execWakingRetry
    | unfold execPwrReqRunning
    | unfold execPwrReqQuiet
    | unfold execPwrReqParked
    | unfold execIgnOffDelayExpire
    | unfold execQuietTimeout
    | unfold execParkDrainEnd
    | unfold execParkPowerOff
  all_goals refine ⟨_, rfl, onlyChanges_of_within ?_ _⟩
  all_goals repeat' first
    | with_reducible exact within_skip
    | with_reducible exact within_all_nil
    | with_reducible refine within_all_cons ?_ ?_
    | with_reducible refine within_seq ?_ ?_
    | with_reducible refine within_look fun _ => ?_
    | with_reducible refine within_when ?_
    | ((with_reducible refine within_enterWaking ?_); exact (by decide +kernel))
    | ((with_reducible refine within_pwrCommit ?_); exact (by decide +kernel))
    | ((with_reducible refine within_usePair rfl ?_ ?_) <;> first | exact (by decide +kernel) | exact (by decide +kernel))
    | ((with_reducible refine within_requestPower ?_); exact (by decide +kernel))
    | ((with_reducible refine within_useRegs (partsLe_refl _) (by decide +kernel) ?_); exact (by decide +kernel))
    | ((with_reducible refine within_startPark ?_); exact (by decide +kernel))
    | ((with_reducible refine within_parkDrained ?_); exact (by decide +kernel))
    | ((with_reducible refine within_modHv ?_); exact (by decide +kernel))
    | ((with_reducible refine within_modLamp ?_); exact (by decide +kernel))
    | ((with_reducible refine within_logicReset ?_); exact (by decide +kernel))
    | ((with_reducible refine within_foldl ?_ fun _ _ hs => ?_); (· exact within_skip); refine within_seq hs ?_)
    | with_reducible refine within_ite ?_ ?_
    | with_reducible refine within_progIte ?_ ?_
    | with_reducible refine within_each fun _ => ?_
    | with_reducible refine within_all_map fun _ => ?_
    | with_reducible refine within_all_replicate ?_
    | split
    | (dsimp only; split)
    | dsimp only

/-- What `latchedWakeStart` to `retentionScrub` may change. -/
theorem keeps_lamplight_3 :
    (∀ s, Ends (.latchedWakeStart) s fun t =>
    s.onlyChanges [.lamp, .hv] t)
    ∧ (∀ a s, Ends (.unitClockStarted a) s fun t =>
    s.onlyChanges [.regs 0x0, .wrd] t)
    ∧ (∀ a s, Ends (.autoGateIdle a) s fun t =>
    s.onlyChanges [.regs 0x0] t)
    ∧ (∀ s, Ends (.resetNAssert) s fun t =>
    s.onlyChanges [.mem .icon, .mem .img, .allRegs, .pend, .leases, .lamp, .rcl, .boot, .ave, .xlt,
          .wrd, .xng, .cam, .ras, .dst, .rbt, .sco, .sgn, .hv, .can, .svc, .ports, .brg] t)
    ∧ (∀ a s, Ends (.resetNRelease a) s fun t =>
    s.onlyChanges [.lamp, .ports] t)
    ∧ (∀ s, Ends (.warmResetCommand) s fun t =>
    s.onlyChanges [.mem .icon, .mem .img, .allRegs, .pend, .leases, .lamp, .rcl, .boot, .ave, .xlt,
          .wrd, .xng, .cam, .ras, .dst, .rbt, .sco, .sgn, .hv, .can, .svc, .ports, .brg] t)
    ∧ (∀ s, Ends (.pwrGoodFall) s fun t =>
    s.onlyChanges [.mem .retA, .mem .retB, .mem .icon, .mem .img, .allRegs, .pend, .ring, .leases,
          .lamp, .rcl, .boot, .ave, .xlt, .wrd, .xng, .cam, .ras, .dst, .rbt, .sco, .sgn, .hv, .can,
          .svc, .ports, .brg] t)
    ∧ (∀ a s, Ends (.retentionScrub a) s fun t =>
    s.onlyChanges [.mem .retA, .mem .retB, .regs 0x1, .regs 0x90, .ring, .lamp, .rcl] t) := by
  refine ⟨fun s => ends_of (o := execLatchedWakeStart s) rfl ?_,
    fun a s => ends_of (o := execUnitClockStarted a s) rfl ?_,
    fun a s => ends_of (o := execAutoGateIdle a s) rfl ?_,
    fun s => ends_of (o := execResetNAssert s) rfl ?_,
    fun a s => ends_of (o := execResetNRelease a s) rfl ?_,
    fun s => ends_of (o := execWarmResetCommand s) rfl ?_,
    fun s => ends_of (o := execPwrGoodFall s) rfl ?_,
    fun a s => ends_of (o := execRetentionScrub a s) rfl ?_⟩
  all_goals first
    | unfold execLatchedWakeStart
    | unfold execUnitClockStarted
    | unfold execAutoGateIdle
    | unfold execResetNAssert
    | unfold execResetNRelease
    | unfold execWarmResetCommand
    | unfold execPwrGoodFall
    | unfold execRetentionScrub
  all_goals refine ⟨_, rfl, onlyChanges_of_within ?_ _⟩
  all_goals repeat' first
    | with_reducible exact within_skip
    | with_reducible exact within_all_nil
    | with_reducible refine within_all_cons ?_ ?_
    | with_reducible refine within_seq ?_ ?_
    | with_reducible refine within_look fun _ => ?_
    | with_reducible refine within_when ?_
    | ((with_reducible refine within_modLamp ?_); exact (by decide +kernel))
    | ((with_reducible refine within_enterWaking ?_); exact (by decide +kernel))
    | ((with_reducible refine within_modWrd ?_); exact (by decide +kernel))
    | ((with_reducible refine within_setReg rfl ?_); exact (by decide +kernel))
    | ((with_reducible refine within_logicSideReset ?_); exact (by decide +kernel))
    | ((with_reducible refine within_releaseLogic ?_); exact (by decide +kernel))
    | ((with_reducible refine within_resetCtrlWrite ?_); exact (by decide +kernel))
    | ((with_reducible refine within_raise ?_ ?_) <;> first | exact (by decide +kernel) | exact partsLe_trans (event_le _) ((by decide +kernel)))
    | ((with_reducible refine within_readBanks ?_); exact (by decide +kernel))
    | ((with_reducible refine within_retentionLost ?_); exact (by decide +kernel))
    | ((with_reducible refine within_retireBank ?_); exact (by decide +kernel))
    | ((with_reducible refine within_foldl ?_ fun _ _ hs => ?_); (· exact within_skip); refine within_seq hs ?_)
    | with_reducible refine within_ite ?_ ?_
    | with_reducible refine within_progIte ?_ ?_
    | with_reducible refine within_each fun _ => ?_
    | with_reducible refine within_all_map fun _ => ?_
    | with_reducible refine within_all_replicate ?_
    | split
    | (dsimp only; split)
    | dsimp only

/-- What `thermalSample` to `thermalWakeHoldEnd` may change. -/
theorem keeps_lamplight_4 :
    (∀ a s, Ends (.thermalSample a) s fun t =>
    s.onlyChanges [.mem .retA, .mem .retB, .regs 0x0, .regs 0x1, .regs 0x4, .regs 0x5, .regs 0x6,
          .regs 0x10, .regs 0x20, .regs 0x31, .regs 0x40, .regs 0x41, .regs 0x42, .regs 0x50, .regs
          0x60, .regs 0x62, .regs 0x70, .regs 0x90, .ring, .leases, .lamp, .rcl, .boot, .ave, .xlt,
          .wrd, .xng, .ras, .dst, .rbt, .sco, .hv, .ports, .brg] t)
    ∧ (∀ s, Ends (.thermalWakeHoldEnd) s fun t =>
    s.onlyChanges [.lamp] t) := by
  refine ⟨fun a s => ends_of (o := execThermalSample a s) rfl ?_,
    fun s => ends_of (o := execThermalWakeHoldEnd s) rfl ?_⟩
  all_goals first
    | unfold execThermalSample
    | unfold execThermalWakeHoldEnd
  all_goals refine ⟨_, rfl, onlyChanges_of_within ?_ _⟩
  all_goals repeat' first
    | with_reducible exact within_skip
    | with_reducible exact within_all_nil
    | with_reducible refine within_all_cons ?_ ?_
    | with_reducible refine within_seq ?_ ?_
    | with_reducible refine within_look fun _ => ?_
    | with_reducible refine within_when ?_
    | ((with_reducible refine within_modLamp ?_); exact (by decide +kernel))
    | ((with_reducible refine within_setF rfl ?_); exact (by decide +kernel))
    | ((with_reducible refine within_raise ?_ ?_) <;> first | exact (by decide +kernel) | exact partsLe_trans (event_le _) ((by decide +kernel)))
    | ((with_reducible refine within_usePair rfl ?_ ?_) <;> first | exact (by decide +kernel) | exact (by decide +kernel))
    | ((with_reducible refine within_thermChange ?_); exact (by decide +kernel))
    | ((with_reducible refine within_thermShutdown ?_); exact (by decide +kernel))
    | ((with_reducible refine within_thermalTriggers ?_); exact (by decide +kernel))
    | ((with_reducible refine within_foldl ?_ fun _ _ hs => ?_); (· exact within_skip); refine within_seq hs ?_)
    | with_reducible refine within_ite ?_ ?_
    | with_reducible refine within_progIte ?_ ?_
    | with_reducible refine within_each fun _ => ?_
    | with_reducible refine within_all_map fun _ => ?_
    | with_reducible refine within_all_replicate ?_
    | split
    | (dsimp only; split)
    | dsimp only

end Sys2Proof.Machine
end

