-- ==== Sys2Proof/Laws/KeepsLoaderRows.lean ====
section
/-! SUPPORT. What each command of LoaderRows may change. -/

set_option Elab.async false
set_option linter.unreachableTactic false
set_option linter.unusedTactic false

namespace Sys2Proof.Machine

/-- What `selfTestDone` to `configDdr` may change. -/
theorem keeps_loaderRows_0 :
    (∀ a b s, Ends (.selfTestDone a b) s fun t =>
    s.onlyChanges [.mem .retA, .mem .retB, .mem .icon, .mem .img, .allRegs, .pend, .ring, .leases,
          .lamp, .rcl, .boot, .ave, .xlt, .wrd, .xng, .cam, .ras, .dst, .rbt, .sco, .sgn, .hv, .can,
          .svc, .ports, .brg] t)
    ∧ (∀ s, Ends (.flashResetWaitEnd) s fun t =>
    s.onlyChanges [.boot] t)
    ∧ (∀ a b s, Ends (.imageVerify a b) s fun t =>
    s.onlyChanges [.mem .retA, .mem .retB, .allRegs, .pend, .ring, .leases, .lamp, .rcl, .boot,
          .ave, .xlt, .wrd, .xng, .ras, .dst, .rbt, .sco, .hv, .can, .svc, .ports, .brg] t)
    ∧ (∀ a s, Ends (.configSectionCheck a) s fun t =>
    s.onlyChanges [.mem .plaza, .mem .lpddr, .mem .retA, .mem .retB, .mem .icon, .mem .img,
          .allRegs, .pend, .ring, .leases, .lamp, .rcl, .boot, .ave, .xlt, .wrd, .xng, .cam, .ras,
          .dst, .rbt, .sco, .sgn, .hv, .can, .svc, .ports, .brg] t)
    ∧ (∀ s, Ends (.configRegWrite) s fun t =>
    s.onlyChanges [.mem .plaza, .mem .lpddr, .mem .flash, .mem .retA, .mem .retB, .mem .icon, .mem
          .img, .allRegs, .pend, .bus, .free, .ring, .leases, .lamp, .rcl, .boot, .ave, .xlt, .wrd,
          .xng, .cam, .ras, .dst, .rbt, .sco, .sgn, .hv, .can, .svc, .ports, .brg] t)
    ∧ (∀ s, Ends (.configProfile) s fun t =>
    s.onlyChanges [.mem .flash, .mem .retA, .mem .retB, .free, .lamp, .boot] t)
    ∧ (∀ s, Ends (.configLoader) s fun t =>
    s.onlyChanges [.mem .flash, .mem .retA, .mem .retB, .free, .lamp, .boot] t)
    ∧ (∀ s, Ends (.configDdr) s fun t =>
    s.onlyChanges [.mem .flash, .mem .retA, .mem .retB, .free, .lamp, .boot, .ports] t) := by
  refine ⟨fun a b s => ends_of (o := execSelfTestDone a b s) rfl ?_,
    fun s => ends_of (o := execFlashResetWaitEnd s) rfl ?_,
    fun a b s => ends_of (o := execImageVerify a b s) rfl ?_,
    fun a s => ends_of (o := execConfigSectionCheck a s) rfl ?_,
    fun s => ends_of (o := execConfigRegWrite s) rfl ?_,
    fun s => ends_of (o := execConfigProfile s) rfl ?_,
    fun s => ends_of (o := execConfigLoader s) rfl ?_,
    fun s => ends_of (o := execConfigDdr s) rfl ?_⟩
  all_goals first
    | unfold execSelfTestDone
    | unfold execFlashResetWaitEnd
    | unfold execImageVerify
    | unfold execConfigSectionCheck
    | unfold execConfigRegWrite
    | unfold execConfigProfile
    | unfold execConfigLoader
    | unfold execConfigDdr
  all_goals refine ⟨_, rfl, onlyChanges_of_within ?_ _⟩
  all_goals repeat' first
    | with_reducible exact within_skip
    | with_reducible exact within_all_nil
    | with_reducible refine within_all_cons ?_ ?_
    | with_reducible refine within_seq ?_ ?_
    | with_reducible refine within_look fun _ => ?_
    | with_reducible refine within_when ?_
    | ((with_reducible refine within_modLamp ?_); exact (by decide +kernel))
    | ((with_reducible refine within_modRcl ?_); exact (by decide +kernel))
    | ((with_reducible refine within_failWaking ?_); exact (by decide +kernel))
    | ((with_reducible refine within_loaderStart ?_); exact (by decide +kernel))
    | ((with_reducible refine within_readBanks ?_); exact (by decide +kernel))
    | ((with_reducible refine within_usePairs ?_); exact (by decide +kernel))
    | ((with_reducible refine within_modBoot ?_); exact (by decide +kernel))
    | ((with_reducible refine within_imageVerify ?_); exact (by decide +kernel))
    | ((with_reducible refine within_setF rfl ?_); exact (by decide +kernel))
    | ((with_reducible refine within_bootFault ?_); exact (by decide +kernel))
    | ((with_reducible refine within_imageFails ?_); exact (by decide +kernel))
    | ((with_reducible refine within_modSect ?_); exact (by decide +kernel))
    | ((with_reducible refine within_sectFails ?_); exact (by decide +kernel))
    | ((with_reducible refine within_sectMismatch ?_); exact (by decide +kernel))
    | ((with_reducible refine within_startPorts ?_); exact (by decide +kernel))
    | ((with_reducible refine within_appendChange ?_); exact (by decide +kernel))
    | ((with_reducible refine within_appendVoid ?_); exact (by decide +kernel))
    | ((with_reducible refine within_onRecord ?_ (fun _ => ?_)); exact (by decide +kernel))
    | ((with_reducible refine within_recDone ?_); exact (by decide +kernel))
    | ((with_reducible refine within_writeWords ?_ (fun _ => ?_) ?_); exact (by decide +kernel))
    | ((with_reducible refine within_firstWrite ?_); exact (by decide +kernel))
    | ((with_reducible refine within_requestPlls ?_); exact (by decide +kernel))
    | ((with_reducible refine within_foldl ?_ fun _ _ hs => ?_); (· exact within_skip); refine within_seq hs ?_)
    | with_reducible refine within_ite ?_ ?_
    | with_reducible refine within_progIte ?_ ?_
    | with_reducible refine within_each fun _ => ?_
    | with_reducible refine within_all_map fun _ => ?_
    | with_reducible refine within_all_replicate ?_
    | split
    | (dsimp only; split)
    | dsimp only

/-- What `configEnd` to `repairReadDone` may change. -/
theorem keeps_loaderRows_1 :
    (∀ s, Ends (.configEnd) s fun t =>
    s.onlyChanges [.mem .plaza, .mem .lpddr, .mem .flash, .mem .retA, .mem .retB, .mem .icon, .mem
          .img, .allRegs, .pend, .free, .ring, .leases, .lamp, .rcl, .boot, .ave, .xlt, .wrd, .xng,
          .cam, .ras, .dst, .rbt, .sco, .sgn, .hv, .can, .svc, .ports, .brg] t)
    ∧ (∀ a b s, Ends (.sectionLoaded a b) s fun t =>
    s.onlyChanges [.mem .plaza, .mem .lpddr, .mem .retA, .mem .retB, .mem .icon, .mem .img,
          .allRegs, .pend, .free, .ring, .leases, .lamp, .rcl, .boot, .ave, .xlt, .wrd, .xng, .cam,
          .ras, .dst, .rbt, .sco, .sgn, .hv, .can, .svc, .ports, .brg] t)
    ∧ (∀ a b s, Ends (.lpddrTrainingDone a b) s fun t =>
    s.onlyChanges [.mem .plaza, .mem .lpddr, .mem .retA, .mem .retB, .mem .icon, .mem .img,
          .allRegs, .pend, .ring, .leases, .lamp, .rcl, .boot, .ave, .xlt, .wrd, .xng, .cam, .ras,
          .dst, .rbt, .sco, .sgn, .hv, .can, .svc, .ports, .brg] t)
    ∧ (∀ a s, Ends (.startCalibrationDone a) s fun t =>
    s.onlyChanges [.mem .plaza, .mem .lpddr, .mem .retA, .mem .retB, .mem .icon, .mem .img,
          .allRegs, .pend, .ring, .leases, .lamp, .rcl, .boot, .ave, .xlt, .wrd, .xng, .cam, .ras,
          .dst, .rbt, .sco, .sgn, .hv, .can, .svc, .ports, .brg] t)
    ∧ (∀ s, Ends (.splashHoldElapsed) s fun t =>
    s.onlyChanges [.boot] t)
    ∧ (∀ s, Ends (.bridgeBootTimeout) s fun t =>
    s.onlyChanges [.mem .retA, .mem .retB, .allRegs, .pend, .ring, .leases, .lamp, .rcl, .boot,
          .ave, .xlt, .wrd, .xng, .ras, .dst, .rbt, .sco, .hv, .can, .svc, .ports, .brg] t)
    ∧ (∀ a b c s, Ends (.lineStart a b c) s fun t =>
    s.onlyChanges [.mem .plaza, .mem .lpddr, .mem .retA, .mem .retB, .mem .icon, .mem .img,
          .allRegs, .pend, .ring, .leases, .lamp, .rcl, .boot, .ave, .xlt, .wrd, .xng, .cam, .ras,
          .dst, .rbt, .sco, .sgn, .hv, .can, .svc, .ports, .brg] t)
    ∧ (∀ a s, Ends (.repairReadDone a) s fun t =>
    s.onlyChanges [.mem .plaza, .mem .lpddr, .mem .retA, .mem .retB, .mem .icon, .mem .img,
          .allRegs, .pend, .ring, .leases, .lamp, .rcl, .boot, .ave, .xlt, .wrd, .xng, .cam, .ras,
          .dst, .rbt, .sco, .sgn, .hv, .can, .svc, .ports, .brg] t) := by
  refine ⟨fun s => ends_of (o := execConfigEnd s) rfl ?_,
    fun a b s => ends_of (o := execSectionLoaded a b s) rfl ?_,
    fun a b s => ends_of (o := execLpddrTrainingDone a b s) rfl ?_,
    fun a s => ends_of (o := execStartCalibrationDone a s) rfl ?_,
    fun s => ends_of (o := execSplashHoldElapsed s) rfl ?_,
    fun s => ends_of (o := execBridgeBootTimeout s) rfl ?_,
    fun a b c s => ends_of (o := execLineStart a b c s) rfl ?_,
    fun a s => ends_of (o := execRepairReadDone a s) rfl ?_⟩
  all_goals first
    | unfold execConfigEnd
    | unfold execSectionLoaded
    | unfold execLpddrTrainingDone
    | unfold execStartCalibrationDone
    | unfold execSplashHoldElapsed
    | unfold execBridgeBootTimeout
    | unfold execLineStart
    | unfold execRepairReadDone
  all_goals refine ⟨_, rfl, onlyChanges_of_within ?_ _⟩
  all_goals repeat' first
    | with_reducible exact within_skip
    | with_reducible exact within_all_nil
    | with_reducible refine within_all_cons ?_ ?_
    | with_reducible refine within_seq ?_ ?_
    | with_reducible refine within_look fun _ => ?_
    | with_reducible refine within_when ?_
    | ((with_reducible refine within_modBoot ?_); exact (by decide +kernel))
    | ((with_reducible refine within_modSvc ?_); exact (by decide +kernel))
    | ((with_reducible refine within_bootFault ?_); exact (by decide +kernel))
    | ((with_reducible refine within_deviceSet ?_); exact (by decide +kernel))
    | ((with_reducible refine within_firstWrite ?_); exact (by decide +kernel))
    | ((with_reducible refine within_loaderProgress ?_); exact (by decide +kernel))
    | ((with_reducible refine within_onRecord ?_ (fun _ => ?_)); exact (by decide +kernel))
    | ((with_reducible refine within_act ?_ ?_) <;> first | exact rfl | exact fun _ _ e => by cases e)
    | ((with_reducible refine within_landSection ?_); exact (by decide +kernel))
    | ((with_reducible refine within_sectFails ?_); exact (by decide +kernel))
    | ((with_reducible refine within_sectMatched ?_); exact (by decide +kernel))
    | ((with_reducible refine within_sectMismatch ?_); exact (by decide +kernel))
    | ((with_reducible refine within_modAve ?_); exact (by decide +kernel))
    | ((with_reducible refine within_setReg rfl ?_); exact (by decide +kernel))
    | ((with_reducible refine within_setF rfl ?_); exact (by decide +kernel))
    | ((with_reducible refine within_raise ?_ ?_) <;> first | exact (by decide +kernel) | exact partsLe_trans (event_le _) ((by decide +kernel)))
    | ((with_reducible refine within_startCalibration ?_); exact (by decide +kernel))
    | ((with_reducible refine within_serviceWait ?_); exact (by decide +kernel))
    | ((with_reducible refine within_lineStart ?_); exact (by decide +kernel))
    | ((with_reducible refine within_usePairs ?_); exact (by decide +kernel))
    | ((with_reducible refine within_bump rfl ?_); exact (by decide +kernel))
    | ((with_reducible refine within_repairFails ?_); exact (by decide +kernel))
    | ((with_reducible refine within_resumeBadStops ?_); exact (by decide +kernel))
    | ((with_reducible refine within_rewriteSectPage ?_); exact (by decide +kernel))
    | ((with_reducible refine within_foldl ?_ fun _ _ hs => ?_); (· exact within_skip); refine within_seq hs ?_)
    | with_reducible refine within_ite ?_ ?_
    | with_reducible refine within_progIte ?_ ?_
    | with_reducible refine within_each fun _ => ?_
    | with_reducible refine within_all_map fun _ => ?_
    | with_reducible refine within_all_replicate ?_
    | split
    | (dsimp only; split)
    | dsimp only

end Sys2Proof.Machine
end

