-- ==== Sys2Proof/Laws/KeepsMemoryRows.lean ====
section
/-! SUPPORT. What each command of MemoryRows may change. -/

set_option Elab.async false
set_option linter.unreachableTactic false
set_option linter.unusedTactic false

namespace Sys2Proof.Machine

/-- What `plazaInitDone` to `xltRootCommit` may change. -/
theorem keeps_memoryRows_0 :
    (∀ a b s, Ends (.plazaInitDone a b) s fun t =>
    s.onlyChanges [.mem .plaza, .mem .retA, .mem .retB, .regs 0x90, .ring, .lamp, .rcl, .ave] t)
    ∧ (∀ a b s, Ends (.patrolScrub a b) s fun t =>
    s.onlyChanges [.mem .retA, .mem .retB, .mem .icon, .mem .img, .allRegs, .pend, .ring, .leases,
          .lamp, .rcl, .boot, .ave, .xlt, .wrd, .xng, .cam, .ras, .dst, .rbt, .sco, .sgn, .hv, .can,
          .svc, .ports, .brg] t)
    ∧ (∀ a b c d s, Ends (.linkParityError a b c d) s fun t =>
    s.onlyChanges [.mem .retA, .mem .retB, .mem .icon, .mem .img, .allRegs, .pend, .ring, .leases,
          .lamp, .rcl, .boot, .ave, .xlt, .wrd, .xng, .cam, .ras, .dst, .rbt, .sco, .sgn, .hv, .can,
          .svc, .ports, .brg] t)
    ∧ (∀ a b c s, Ends (.lpddrMr4Poll a b c) s fun t =>
    s.onlyChanges [.mem .retA, .mem .retB, .regs 0x80, .regs 0x90, .ring, .lamp, .rcl] t)
    ∧ (∀ a s, Ends (.poisonClear a) s fun t =>
    s.onlyChanges [.ave] t)
    ∧ (∀ a s, Ends (.xltInvalidate a) s fun t =>
    s.onlyChanges [.mem .retA, .mem .retB, .regs 0x4, .regs 0x6, .regs 0x10, .regs 0x20, .regs 0x31,
          .regs 0x40, .regs 0x41, .regs 0x42, .regs 0x50, .regs 0x60, .regs 0x62, .regs 0x70, .regs
          0x90, .ring, .leases, .lamp, .rcl, .xlt, .wrd, .xng, .brg] t)
    ∧ (∀ a b s, Ends (.xltRootCommit a b) s fun t =>
    s.onlyChanges [.mem .retA, .mem .retB, .regs 0x4, .regs 0x6, .regs 0x10, .regs 0x20, .regs 0x31,
          .regs 0x40, .regs 0x41, .regs 0x42, .regs 0x50, .regs 0x60, .regs 0x62, .regs 0x70, .regs
          0x90, .ring, .leases, .lamp, .rcl, .xlt, .wrd, .xng, .brg] t) := by
  refine ⟨fun a b s => ends_of (o := execPlazaInitDone a b s) rfl ?_,
    fun a b s => ends_of (o := execPatrolScrub a b s) rfl ?_,
    fun a b c d s => ends_of (o := execLinkParityError a b c d s) rfl ?_,
    fun a b c s => ends_of (o := execLpddrMr4Poll a b c s) rfl ?_,
    fun a s => ends_of (o := execPoisonClear a s) rfl ?_,
    fun a s => ends_of (o := execXltInvalidate a s) rfl ?_,
    fun a b s => ends_of (o := execXltRootCommit a b s) rfl ?_⟩
  all_goals first
    | unfold execPlazaInitDone
    | unfold execPatrolScrub
    | unfold execLinkParityError
    | unfold execLpddrMr4Poll
    | unfold execPoisonClear
    | unfold execXltInvalidate
    | unfold execXltRootCommit
  all_goals refine ⟨_, rfl, onlyChanges_of_within ?_ _⟩
  all_goals repeat' first
    | with_reducible exact within_skip
    | with_reducible exact within_all_nil
    | with_reducible refine within_all_cons ?_ ?_
    | with_reducible refine within_seq ?_ ?_
    | with_reducible refine within_look fun _ => ?_
    | with_reducible refine within_when ?_
    | ((with_reducible refine within_modAve ?_); exact (by decide +kernel))
    | ((with_reducible refine within_modRcl ?_); exact (by decide +kernel))
    | ((with_reducible refine within_act ?_ ?_) <;> first | exact rfl | exact fun _ _ e => by cases e)
    | ((with_reducible refine within_raise ?_ ?_) <;> first | exact (by decide +kernel) | exact partsLe_trans (event_le _) ((by decide +kernel)))
    | ((with_reducible refine within_usePair rfl ?_ ?_) <;> first | exact (by decide +kernel) | exact (by decide +kernel))
    | ((with_reducible refine within_scrubLine ?_); exact (by decide +kernel))
    | ((with_reducible refine within_setF rfl ?_); exact (by decide +kernel))
    | ((with_reducible refine within_bump rfl ?_); exact (by decide +kernel))
    | ((with_reducible refine within_linkFails ?_); exact (by decide +kernel))
    | ((with_reducible refine within_poisonClearWrite ?_); exact (by decide +kernel))
    | ((with_reducible refine within_invalWrite ?_); exact (by decide +kernel))
    | ((with_reducible refine within_rootWrite ?_); exact (by decide +kernel))
    | ((with_reducible refine within_foldl ?_ fun _ _ hs => ?_); (· exact within_skip); refine within_seq hs ?_)
    | with_reducible refine within_ite ?_ ?_
    | with_reducible refine within_progIte ?_ ?_
    | with_reducible refine within_each fun _ => ?_
    | with_reducible refine within_all_map fun _ => ?_
    | with_reducible refine within_all_replicate ?_
    | split
    | (dsimp only; split)
    | dsimp only

end Sys2Proof.Machine
end

