-- ==== Sys2Proof/Laws/KeepsNeural.lean ====
section
/-! SUPPORT. What each command of Neural may change. -/

set_option Elab.async false
set_option linter.unreachableTactic false
set_option linter.unusedTactic false

namespace Sys2Proof.Machine

/-- What `arrayLayer` to `arrayPass` may change. -/
theorem keeps_neural_0 :
    (∀ a b s, Ends (.arrayLayer a b) s fun t =>
    s.onlyChanges [.mem .plaza, .mem .lpddr, .mem .retA, .mem .retB, .mem .icon, .mem .img,
          .allRegs, .pend, .ring, .leases, .lamp, .rcl, .boot, .ave, .xlt, .wrd, .xng, .cam, .ras,
          .dst, .rbt, .sco, .sgn, .hv, .can, .svc, .ports, .brg] t)
    ∧ (∀ a b c d s, Ends (.arrayPass a b c d) s fun t =>
    s.onlyChanges [.mem .retA, .mem .retB, .mem .icon, .mem .img, .allRegs, .pend, .ring, .leases,
          .lamp, .rcl, .boot, .ave, .xlt, .wrd, .xng, .cam, .ras, .dst, .rbt, .sco, .sgn, .hv, .can,
          .svc, .ports, .brg] t) := by
  refine ⟨fun a b s => ends_of (o := execArrayLayer a b s) rfl ?_,
    fun a b c d s => ends_of (o := execArrayPass a b c d s) rfl ?_⟩
  all_goals first
    | unfold execArrayLayer
    | unfold execArrayPass
  all_goals refine ⟨_, rfl, onlyChanges_of_within ?_ _⟩
  all_goals repeat' first
    | with_reducible exact within_skip
    | with_reducible exact within_all_nil
    | with_reducible refine within_all_cons ?_ ?_
    | with_reducible refine within_seq ?_ ?_
    | with_reducible refine within_look fun _ => ?_
    | with_reducible refine within_when ?_
    | ((with_reducible refine within_finishWork ?_); exact (by decide +kernel))
    | ((with_reducible refine within_layerWork ?_); exact (by decide +kernel))
    | ((with_reducible refine within_runStopOn ?_ (fun _ _ => ?_) ?_); exact (by decide +kernel))
    | ((with_reducible refine within_unitFault ?_); exact (by decide +kernel))
    | ((with_reducible refine within_checkEntry ?_ (fun _ => ?_)); exact (by decide +kernel))
    | ((with_reducible refine within_modArr ?_); exact (by decide +kernel))
    | ((with_reducible refine within_runPass ?_); exact (by decide +kernel))
    | ((with_reducible refine within_foldl ?_ fun _ _ hs => ?_); (· exact within_skip); refine within_seq hs ?_)
    | with_reducible refine within_ite ?_ ?_
    | with_reducible refine within_progIte ?_ ?_
    | with_reducible refine within_each fun _ => ?_
    | with_reducible refine within_all_map fun _ => ?_
    | with_reducible refine within_all_replicate ?_
    | split
    | (dsimp only; split)
    | dsimp only

end Sys2Proof.Machine
end

