-- ==== Sys2Proof/Laws/KeepsRaster.lean ====
section
/-! SUPPORT. What each command of Raster may change. -/

set_option Elab.async false
set_option linter.unreachableTactic false
set_option linter.unusedTactic false

namespace Sys2Proof.Machine

/-- What `frontEndPassTaken` to `rasterPass` may change. -/
theorem keeps_raster_0 :
    (∀ s, Ends (.frontEndPassTaken) s fun t =>
    s.onlyChanges [.ras] t)
    ∧ (∀ s, Ends (.rasterBinPhaseDone) s fun t =>
    s.onlyChanges [.mem .plaza, .mem .lpddr, .mem .retA, .mem .retB, .regs 0x4, .regs 0x5, .regs
          0x6, .regs 0x10, .regs 0x20, .regs 0x21, .regs 0x31, .regs 0x40, .regs 0x41, .regs 0x42,
          .regs 0x50, .regs 0x60, .regs 0x62, .regs 0x70, .regs 0x90, .free, .ring, .leases, .lamp,
          .rcl, .boot, .ave, .xlt, .wrd, .xng, .ras, .dst, .rbt, .brg] t)
    ∧ (∀ a s, Ends (.rasterPass a) s fun t =>
    s.onlyChanges [.mem .plaza, .mem .lpddr, .mem .retA, .mem .retB, .mem .icon, .mem .img,
          .allRegs, .pend, .free, .ring, .leases, .lamp, .rcl, .boot, .ave, .xlt, .wrd, .xng, .cam,
          .ras, .dst, .rbt, .sco, .sgn, .hv, .can, .svc, .ports, .brg] t) := by
  refine ⟨fun s => ends_of (o := execFrontEndPassTaken s) rfl ?_,
    fun s => ends_of (o := execRasterBinPhaseDone s) rfl ?_,
    fun a s => ends_of (o := execRasterPass a s) rfl ?_⟩
  all_goals first
    | unfold execFrontEndPassTaken
    | unfold execRasterBinPhaseDone
    | unfold execRasterPass
  all_goals refine ⟨_, rfl, onlyChanges_of_within ?_ _⟩
  all_goals repeat' first
    | with_reducible exact within_skip
    | with_reducible exact within_all_nil
    | with_reducible refine within_all_cons ?_ ?_
    | with_reducible refine within_seq ?_ ?_
    | with_reducible refine within_look fun _ => ?_
    | with_reducible refine within_when ?_
    | ((with_reducible refine within_modRas ?_); exact (by decide +kernel))
    | ((with_reducible refine within_loadCores ?_); exact (by decide +kernel))
    | ((with_reducible refine within_usePair rfl ?_ ?_) <;> first | exact (by decide +kernel) | exact (by decide +kernel))
    | ((with_reducible refine within_binPhase ?_); exact (by decide +kernel))
    | ((with_reducible refine within_bump rfl ?_); exact (by decide +kernel))
    | ((with_reducible refine within_renderPass ?_); exact (by decide +kernel))
    | ((with_reducible refine within_runStop ?_ (fun _ _ => ?_)); exact (by decide +kernel))
    | ((with_reducible refine within_foldl ?_ fun _ _ hs => ?_); (· exact within_skip); refine within_seq hs ?_)
    | with_reducible refine within_ite ?_ ?_
    | with_reducible refine within_progIte ?_ ?_
    | with_reducible refine within_each fun _ => ?_
    | with_reducible refine within_all_map fun _ => ?_
    | with_reducible refine within_all_replicate ?_
    | split
    | (dsimp only; split)
    | dsimp only

end Sys2Proof.Machine
end

