-- ==== Sys2Proof/Laws/KeepsRecovery.lean ====
section
/-! SUPPORT. What each command of Recovery may change. -/

set_option Elab.async false
set_option linter.unreachableTactic false
set_option linter.unusedTactic false

namespace Sys2Proof.Machine

/-- What `recoveryNext` to `queueLeaseExpire` may change. -/
theorem keeps_recovery_0 :
    (∀ s, Ends (.recoveryNext) s fun t =>
    s.onlyChanges [.leases, .rcl, .ave] t)
    ∧ (∀ s, Ends (.recoveryWithdrawDone) s fun t =>
    s.onlyChanges [.mem .retA, .mem .retB, .mem .icon, .mem .img, .allRegs, .pend, .ring, .leases,
          .lamp, .rcl, .boot, .ave, .xlt, .wrd, .xng, .cam, .ras, .dst, .rbt, .sco, .sgn, .hv, .can,
          .svc, .ports, .brg] t)
    ∧ (∀ a b s, Ends (.unitCheckDone a b) s fun t =>
    s.onlyChanges [.mem .plaza, .mem .lpddr, .mem .retA, .mem .retB, .mem .icon, .mem .img,
          .allRegs, .pend, .ring, .leases, .lamp, .rcl, .boot, .ave, .xlt, .wrd, .xng, .cam, .ras,
          .dst, .rbt, .sco, .sgn, .hv, .can, .svc, .ports, .brg] t)
    ∧ (∀ a s, Ends (.faultMessage a) s fun t =>
    s.onlyChanges [.mem .plaza, .mem .lpddr, .mem .retA, .mem .retB, .mem .icon, .mem .img,
          .allRegs, .pend, .ring, .leases, .lamp, .rcl, .boot, .ave, .xlt, .wrd, .xng, .cam, .ras,
          .dst, .rbt, .sco, .sgn, .hv, .can, .svc, .ports, .brg] t)
    ∧ (∀ a s, Ends (.faultInject a) s fun t =>
    s.onlyChanges [.mem .plaza, .mem .lpddr, .mem .retA, .mem .retB, .mem .icon, .mem .img,
          .allRegs, .pend, .ring, .leases, .lamp, .rcl, .boot, .ave, .xlt, .wrd, .xng, .cam, .ras,
          .dst, .rbt, .sco, .sgn, .hv, .can, .svc, .ports, .brg] t)
    ∧ (∀ a s, Ends (.unitHeartbeat a) s fun t =>
    s.onlyChanges [.leases] t)
    ∧ (∀ a s, Ends (.unitLeaseExpire a) s fun t =>
    s.onlyChanges [.mem .plaza, .mem .lpddr, .mem .retA, .mem .retB, .mem .icon, .mem .img,
          .allRegs, .pend, .ring, .leases, .lamp, .rcl, .boot, .ave, .xlt, .wrd, .xng, .cam, .ras,
          .dst, .rbt, .sco, .sgn, .hv, .can, .svc, .ports, .brg] t)
    ∧ (∀ a s, Ends (.queueLeaseExpire a) s fun t =>
    s.onlyChanges [.mem .retA, .mem .retB, .regs 0x4, .regs 0x5, .regs 0x6, .regs 0x10, .regs 0x20,
          .regs 0x31, .regs 0x40, .regs 0x41, .regs 0x42, .regs 0x50, .regs 0x60, .regs 0x62, .regs
          0x70, .regs 0x90, .ring, .leases, .lamp, .rcl, .boot, .ave, .xlt, .wrd, .xng, .ras, .dst,
          .rbt, .brg] t) := by
  refine ⟨fun s => ends_of (o := execRecoveryNext s) rfl ?_,
    fun s => ends_of (o := execRecoveryWithdrawDone s) rfl ?_,
    fun a b s => ends_of (o := execUnitCheckDone a b s) rfl ?_,
    fun a s => ends_of (o := execFaultMessage a s) rfl ?_,
    fun a s => ends_of (o := execFaultInject a s) rfl ?_,
    fun a s => ends_of (o := execUnitHeartbeat a s) rfl ?_,
    fun a s => ends_of (o := execUnitLeaseExpire a s) rfl ?_,
    fun a s => ends_of (o := execQueueLeaseExpire a s) rfl ?_⟩
  all_goals first
    | unfold execRecoveryNext
    | unfold execRecoveryWithdrawDone
    | unfold execUnitCheckDone
    | unfold execFaultMessage
    | unfold execFaultInject
    | unfold execUnitHeartbeat
    | unfold execUnitLeaseExpire
    | unfold execQueueLeaseExpire
  all_goals refine ⟨_, rfl, onlyChanges_of_within ?_ _⟩
  all_goals repeat' first
    | with_reducible exact within_skip
    | with_reducible exact within_all_nil
    | with_reducible refine within_all_cons ?_ ?_
    | with_reducible refine within_seq ?_ ?_
    | with_reducible refine within_look fun _ => ?_
    | with_reducible refine within_when ?_
    | ((with_reducible refine within_modRcl ?_); exact (by decide +kernel))
    | ((with_reducible refine within_freeLease ?_); exact (by decide +kernel))
    | ((with_reducible refine within_transferRecords ?_); exact (by decide +kernel))
    | ((with_reducible refine within_failStop ?_); exact (by decide +kernel))
    | ((with_reducible refine within_recoveryFails ?_); exact (by decide +kernel))
    | ((with_reducible refine within_recoveryEscalates ?_); exact (by decide +kernel))
    | ((with_reducible refine within_recoveryReturns ?_); exact (by decide +kernel))
    | ((with_reducible refine within_wardenTested ?_); exact (by decide +kernel))
    | ((with_reducible refine within_bump rfl ?_); exact (by decide +kernel))
    | ((with_reducible refine within_raise ?_ ?_) <;> first | exact (by decide +kernel) | exact partsLe_trans (event_le _) ((by decide +kernel)))
    | ((with_reducible refine within_bankDown ?_); exact (by decide +kernel))
    | ((with_reducible refine within_recoverWith ?_); exact (by decide +kernel))
    | ((with_reducible refine within_injectFault ?_); exact (by decide +kernel))
    | ((with_reducible refine within_renewOwner ?_); exact (by decide +kernel))
    | ((with_reducible refine within_setF rfl ?_); exact (by decide +kernel))
    | ((with_reducible refine within_checkCrossing ?_); exact (by decide +kernel))
    | ((with_reducible refine within_freeLock ?_); exact (by decide +kernel))
    | ((with_reducible refine within_notifyWardens ?_); exact (by decide +kernel))
    | ((with_reducible refine within_putCrossing ?_); exact (by decide +kernel))
    | ((with_reducible refine within_withdrawQueue ?_); exact (by decide +kernel))
    | ((with_reducible refine within_foldl ?_ fun _ _ hs => ?_); (· exact within_skip); refine within_seq hs ?_)
    | with_reducible refine within_ite ?_ ?_
    | with_reducible refine within_progIte ?_ ?_
    | with_reducible refine within_each fun _ => ?_
    | with_reducible refine within_all_map fun _ => ?_
    | with_reducible refine within_all_replicate ?_
    | split
    | (dsimp only; split)
    | dsimp only

/-- What `reclaimerDivergence` to `granuleAbort` may change. -/
theorem keeps_recovery_1 :
    (∀ s, Ends (.reclaimerDivergence) s fun t =>
    s.onlyChanges [.mem .retA, .mem .retB, .mem .icon, .mem .img, .allRegs, .pend, .ring, .leases,
          .lamp, .rcl, .boot, .ave, .xlt, .wrd, .xng, .cam, .ras, .dst, .rbt, .sco, .sgn, .hv, .can,
          .svc, .ports, .brg] t)
    ∧ (∀ s, Ends (.detourHoldRelease) s fun t =>
    s.onlyChanges [.rcl] t)
    ∧ (∀ a b s, Ends (.stopWatchdogExpire a b) s fun t =>
    s.onlyChanges [.mem .plaza, .mem .lpddr, .mem .retA, .mem .retB, .mem .icon, .mem .img,
          .allRegs, .pend, .ring, .leases, .lamp, .rcl, .boot, .ave, .xlt, .wrd, .xng, .cam, .ras,
          .dst, .rbt, .sco, .sgn, .hv, .can, .svc, .ports, .brg] t)
    ∧ (∀ a b s, Ends (.granuleOverrun a b) s fun t =>
    s.onlyChanges [.mem .retA, .mem .retB, .regs 0x5, .regs 0x90, .ring, .lamp, .rcl] t)
    ∧ (∀ a s, Ends (.granuleAbort a) s fun t =>
    s.onlyChanges [.mem .plaza, .mem .lpddr, .mem .retA, .mem .retB, .mem .icon, .mem .img,
          .allRegs, .pend, .ring, .leases, .lamp, .rcl, .boot, .ave, .xlt, .wrd, .xng, .cam, .ras,
          .dst, .rbt, .sco, .sgn, .hv, .can, .svc, .ports, .brg] t) := by
  refine ⟨fun s => ends_of (o := execReclaimerDivergence s) rfl ?_,
    fun s => ends_of (o := execDetourHoldRelease s) rfl ?_,
    fun a b s => ends_of (o := execStopWatchdogExpire a b s) rfl ?_,
    fun a b s => ends_of (o := execGranuleOverrun a b s) rfl ?_,
    fun a s => ends_of (o := execGranuleAbort a s) rfl ?_⟩
  all_goals first
    | unfold execReclaimerDivergence
    | unfold execDetourHoldRelease
    | unfold execStopWatchdogExpire
    | unfold execGranuleOverrun
    | unfold execGranuleAbort
  all_goals refine ⟨_, rfl, onlyChanges_of_within ?_ _⟩
  all_goals repeat' first
    | with_reducible exact within_skip
    | with_reducible exact within_all_nil
    | with_reducible refine within_all_cons ?_ ?_
    | with_reducible refine within_seq ?_ ?_
    | with_reducible refine within_look fun _ => ?_
    | with_reducible refine within_when ?_
    | ((with_reducible refine within_modRcl ?_); exact (by decide +kernel))
    | ((with_reducible refine within_raise ?_ ?_) <;> first | exact (by decide +kernel) | exact partsLe_trans (event_le _) ((by decide +kernel)))
    | ((with_reducible refine within_logicSideReset ?_); exact (by decide +kernel))
    | ((with_reducible refine within_setF rfl ?_); exact (by decide +kernel))
    | ((with_reducible refine within_failStop ?_); exact (by decide +kernel))
    | ((with_reducible refine within_recoverWith ?_); exact (by decide +kernel))
    | ((with_reducible refine within_keepMax rfl ?_); exact (by decide +kernel))
    | ((with_reducible refine within_foldl ?_ fun _ _ hs => ?_); (· exact within_skip); refine within_seq hs ?_)
    | with_reducible refine within_ite ?_ ?_
    | with_reducible refine within_progIte ?_ ?_
    | with_reducible refine within_each fun _ => ?_
    | with_reducible refine within_all_map fun _ => ?_
    | with_reducible refine within_all_replicate ?_
    | split
    | (dsimp only; split)
    | dsimp only

end Sys2Proof.Machine
end

