-- ==== Sys2Proof/Laws/KeepsRegAccess.lean ====
section
/-! SUPPORT. What each command of RegAccess may change. -/

set_option Elab.async false
set_option linter.unreachableTactic false
set_option linter.unusedTactic false

namespace Sys2Proof.Machine

/-- What `rwpValueWrite` to `registerWrite` may change. -/
theorem keeps_regAccess_0 :
    (∀ a b c s, Ends (.rwpValueWrite a b c) s fun t =>
    s.onlyChanges [.mem .plaza, .mem .lpddr, .mem .retA, .mem .retB, .mem .icon, .mem .img,
          .allRegs, .pend, .bus, .ring, .leases, .lamp, .rcl, .boot, .ave, .xlt, .wrd, .xng, .cam,
          .ras, .dst, .rbt, .sco, .sgn, .hv, .can, .svc, .ports, .brg] t)
    ∧ (∀ a b c s, Ends (.rwpComplementWrite a b c) s fun t =>
    s.onlyChanges [.mem .plaza, .mem .lpddr, .mem .retA, .mem .retB, .mem .icon, .mem .img,
          .allRegs, .pend, .bus, .ring, .leases, .lamp, .rcl, .boot, .ave, .xlt, .wrd, .xng, .cam,
          .ras, .dst, .rbt, .sco, .sgn, .hv, .can, .svc, .ports, .brg] t)
    ∧ (∀ a b s, Ends (.rwpWordRead a b) s fun t =>
    s.onlyChanges [.mem .retA, .mem .retB, .mem .icon, .allRegs, .bus, .ring, .leases, .lamp, .rcl,
          .wrd, .xng, .hv] t)
    ∧ (∀ a b c s, Ends (.registerWrite a b c) s fun t =>
    s.onlyChanges [.mem .plaza, .mem .lpddr, .mem .retA, .mem .retB, .mem .icon, .mem .img,
          .allRegs, .pend, .bus, .ring, .leases, .lamp, .rcl, .boot, .ave, .xlt, .wrd, .xng, .cam,
          .ras, .dst, .rbt, .sco, .sgn, .hv, .can, .svc, .ports, .brg] t) := by
  refine ⟨fun a b c s => ends_of (o := execRwpValueWrite a b c s) rfl ?_,
    fun a b c s => ends_of (o := execRwpComplementWrite a b c s) rfl ?_,
    fun a b s => ends_of (o := execRwpWordRead a b s) rfl ?_,
    fun a b c s => ends_of (o := execRegisterWrite a b c s) rfl ?_⟩
  all_goals first
    | unfold execRwpValueWrite
    | unfold execRwpComplementWrite
    | unfold execRwpWordRead
    | unfold execRegisterWrite
  all_goals refine ⟨_, rfl, onlyChanges_of_within ?_ _⟩
  all_goals repeat' first
    | with_reducible exact within_skip
    | with_reducible exact within_all_nil
    | with_reducible refine within_all_cons ?_ ?_
    | with_reducible refine within_seq ?_ ?_
    | with_reducible refine within_look fun _ => ?_
    | with_reducible refine within_when ?_
    | ((with_reducible refine within_busWrite ?_); exact (by decide +kernel))
    | ((with_reducible refine within_sizedAccess ?_ ?_); exact (by decide +kernel))
    | ((with_reducible refine within_busRead ?_); exact (by decide +kernel))
    | ((with_reducible refine within_foldl ?_ fun _ _ hs => ?_); (· exact within_skip); refine within_seq hs ?_)
    | with_reducible refine within_ite ?_ ?_
    | with_reducible refine within_progIte ?_ ?_
    | with_reducible refine within_each fun _ => ?_
    | with_reducible refine within_all_map fun _ => ?_
    | with_reducible refine within_all_replicate ?_
    | split
    | (dsimp only; split)
    | dsimp only

end Sys2Proof.Machine
end

