-- ==== Sys2Proof/Laws/KeepsRoundabout.lean ====
section
/-! SUPPORT. What each command of Roundabout may change. -/

set_option Elab.async false
set_option linter.unreachableTactic false
set_option linter.unusedTactic false

namespace Sys2Proof.Machine

/-- What `trackEnable` to `gateWaitLimit` may change. -/
theorem keeps_roundabout_0 :
    (∀ a b s, Ends (.trackEnable a b) s fun t =>
    s.onlyChanges [.mem .retA, .mem .retB, .regs 0x10, .regs 0x20, .regs 0x31, .regs 0x40, .regs
          0x41, .regs 0x42, .regs 0x50, .regs 0x60, .regs 0x62, .regs 0x70, .regs 0x90, .bus, .ring,
          .lamp, .rcl, .rbt] t)
    ∧ (∀ a b s, Ends (.trackDisable a b) s fun t =>
    s.onlyChanges [.mem .retA, .mem .retB, .regs 0x10, .regs 0x20, .regs 0x31, .regs 0x40, .regs
          0x41, .regs 0x42, .regs 0x50, .regs 0x60, .regs 0x62, .regs 0x70, .regs 0x90, .bus, .ring,
          .lamp, .rcl, .rbt] t)
    ∧ (∀ a s, Ends (.offer a) s fun t =>
    s.onlyChanges [.mem .retA, .mem .retB, .regs 0x3, .regs 0x4, .regs 0x5, .regs 0x6, .regs 0x10,
          .regs 0x20, .regs 0x31, .regs 0x40, .regs 0x41, .regs 0x42, .regs 0x50, .regs 0x60, .regs
          0x62, .regs 0x70, .regs 0x90, .ring, .leases, .lamp, .rcl, .boot, .ave, .xlt, .wrd, .xng,
          .ras, .dst, .rbt, .brg] t)
    ∧ (∀ a b s, Ends (.generate a b) s fun t =>
    s.onlyChanges [.mem .plaza, .mem .lpddr, .mem .retA, .mem .retB, .mem .icon, .mem .img,
          .allRegs, .pend, .ring, .leases, .lamp, .rcl, .boot, .ave, .xlt, .wrd, .xng, .cam, .ras,
          .dst, .rbt, .sco, .sgn, .hv, .can, .svc, .ports, .brg] t)
    ∧ (∀ a s, Ends (.relocationCopyDone a) s fun t =>
    s.onlyChanges [.mem .plaza, .mem .lpddr, .mem .retA, .mem .retB, .mem .icon, .mem .img,
          .allRegs, .pend, .ring, .leases, .lamp, .rcl, .boot, .ave, .xlt, .wrd, .xng, .cam, .ras,
          .dst, .rbt, .sco, .sgn, .hv, .can, .svc, .ports, .brg] t)
    ∧ (∀ a s, Ends (.gateIterationStart a) s fun t =>
    s.onlyChanges [.rbt] t)
    ∧ (∀ a s, Ends (.gateBindSequence a) s fun t =>
    s.onlyChanges [.mem .plaza, .mem .lpddr, .mem .retA, .mem .retB, .mem .icon, .mem .img,
          .allRegs, .pend, .ring, .leases, .lamp, .rcl, .boot, .ave, .xlt, .wrd, .xng, .cam, .ras,
          .dst, .rbt, .sco, .sgn, .hv, .can, .svc, .ports, .brg] t)
    ∧ (∀ a s, Ends (.gateWaitLimit a) s fun t =>
    s.onlyChanges [.mem .plaza, .mem .lpddr, .mem .retA, .mem .retB, .mem .icon, .mem .img,
          .allRegs, .pend, .ring, .leases, .lamp, .rcl, .boot, .ave, .xlt, .wrd, .xng, .cam, .ras,
          .dst, .rbt, .sco, .sgn, .hv, .can, .svc, .ports, .brg] t) := by
  refine ⟨fun a b s => ends_of (o := execTrackEnable a b s) rfl ?_,
    fun a b s => ends_of (o := execTrackDisable a b s) rfl ?_,
    fun a s => ends_of (o := execOffer a s) rfl ?_,
    fun a b s => ends_of (o := execGenerate a b s) rfl ?_,
    fun a s => ends_of (o := execRelocationCopyDone a s) rfl ?_,
    fun a s => ends_of (o := execGateIterationStart a s) rfl ?_,
    fun a s => ends_of (o := execGateBindSequence a s) rfl ?_,
    fun a s => ends_of (o := execGateWaitLimit a s) rfl ?_⟩
  all_goals first
    | unfold execTrackEnable
    | unfold execTrackDisable
    | unfold execOffer
    | unfold execGenerate
    | unfold execRelocationCopyDone
    | unfold execGateIterationStart
    | unfold execGateBindSequence
    | unfold execGateWaitLimit
  all_goals refine ⟨_, rfl, onlyChanges_of_within ?_ _⟩
  all_goals repeat' first
    | with_reducible exact within_skip
    | with_reducible exact within_all_nil
    | with_reducible refine within_all_cons ?_ ?_
    | with_reducible refine within_seq ?_ ?_
    | with_reducible refine within_look fun _ => ?_
    | with_reducible refine within_when ?_
    | ((with_reducible refine within_trkCommit ?_); exact (by decide +kernel))
    | ((with_reducible refine within_offerStand ?_); exact (by decide +kernel))
    | ((with_reducible refine within_raise ?_ ?_) <;> first | exact (by decide +kernel) | exact partsLe_trans (event_le _) ((by decide +kernel)))
    | ((with_reducible refine within_failStop ?_); exact (by decide +kernel))
    | ((with_reducible refine within_generateEnd ?_); exact (by decide +kernel))
    | ((with_reducible refine within_generateWork ?_); exact (by decide +kernel))
    | ((with_reducible refine within_runStopOn ?_ (fun _ _ => ?_) ?_); exact (by decide +kernel))
    | ((with_reducible refine within_modAve ?_); exact (by decide +kernel))
    | ((with_reducible refine within_memWrite ?_); exact (by decide +kernel))
    | ((with_reducible refine within_modTrack ?_); exact (by decide +kernel))
    | ((with_reducible refine within_poisonRange ?_); exact (by decide +kernel))
    | ((with_reducible refine within_readEffects ?_); exact (by decide +kernel))
    | ((with_reducible refine within_modGate ?_); exact (by decide +kernel))
    | ((with_reducible refine within_bindSource ?_ ?_); exact (by decide +kernel))
    | ((with_reducible refine within_replayUsed ?_); exact (by decide +kernel))
    | ((with_reducible refine within_foldl ?_ fun _ _ hs => ?_); (· exact within_skip); refine within_seq hs ?_)
    | with_reducible refine within_ite ?_ ?_
    | with_reducible refine within_progIte ?_ ?_
    | with_reducible refine within_each fun _ => ?_
    | with_reducible refine within_all_map fun _ => ?_
    | with_reducible refine within_all_replicate ?_
    | split
    | (dsimp only; split)
    | dsimp only

/-- What `gateBindIntake` to `compose` may change. -/
theorem keeps_roundabout_1 :
    (∀ a s, Ends (.gateBindIntake a) s fun t =>
    s.onlyChanges [.mem .plaza, .mem .lpddr, .mem .retA, .mem .retB, .mem .icon, .mem .img,
          .allRegs, .pend, .free, .ring, .leases, .lamp, .rcl, .boot, .ave, .xlt, .wrd, .xng, .cam,
          .ras, .dst, .rbt, .sco, .sgn, .hv, .can, .svc, .ports, .brg] t)
    ∧ (∀ a s, Ends (.compose a) s fun t =>
    s.onlyChanges [.mem .plaza, .mem .lpddr, .mem .retA, .mem .retB, .mem .icon, .mem .img,
          .allRegs, .pend, .ring, .leases, .lamp, .rcl, .boot, .ave, .xlt, .wrd, .xng, .cam, .ras,
          .dst, .rbt, .sco, .sgn, .hv, .can, .svc, .ports, .brg] t) := by
  refine ⟨fun a s => ends_of (o := execGateBindIntake a s) rfl ?_,
    fun a s => ends_of (o := execCompose a s) rfl ?_⟩
  all_goals first
    | unfold execGateBindIntake
    | unfold execCompose
  all_goals refine ⟨_, rfl, onlyChanges_of_within ?_ _⟩
  all_goals repeat' first
    | with_reducible exact within_skip
    | with_reducible exact within_all_nil
    | with_reducible refine within_all_cons ?_ ?_
    | with_reducible refine within_seq ?_ ?_
    | with_reducible refine within_look fun _ => ?_
    | with_reducible refine within_when ?_
    | ((with_reducible refine within_bindSnapshot ?_ ?_); exact (by decide +kernel))
    | ((with_reducible refine within_diverge ?_); exact (by decide +kernel))
    | ((with_reducible refine within_replayUsed ?_); exact (by decide +kernel))
    | ((with_reducible refine within_composeWork ?_); exact (by decide +kernel))
    | ((with_reducible refine within_finishWork ?_); exact (by decide +kernel))
    | ((with_reducible refine within_runStopOn ?_ (fun _ _ => ?_) ?_); exact (by decide +kernel))
    | ((with_reducible refine within_foldl ?_ fun _ _ hs => ?_); (· exact within_skip); refine within_seq hs ?_)
    | with_reducible refine within_ite ?_ ?_
    | with_reducible refine within_progIte ?_ ?_
    | with_reducible refine within_each fun _ => ?_
    | with_reducible refine within_all_map fun _ => ?_
    | with_reducible refine within_all_replicate ?_
    | split
    | (dsimp only; split)
    | dsimp only

end Sys2Proof.Machine
end

