-- ==== Sys2Proof/Laws/KeepsScanOut.lean ====
section
/-! SUPPORT. What each command of ScanOut may change. -/

set_option Elab.async false
set_option linter.unreachableTactic false
set_option linter.unusedTactic false

namespace Sys2Proof.Machine

/-- What `modeChangeIdleEnd` to `teBMissing` may change. -/
theorem keeps_scanOut_0 :
    (∀ a s, Ends (.modeChangeIdleEnd a) s fun t =>
    s.onlyChanges [.mem .retA, .mem .retB, .regs 0x0, .regs 0x10, .regs 0x20, .regs 0x31, .regs
          0x40, .regs 0x41, .regs 0x42, .regs 0x50, .regs 0x60, .regs 0x62, .regs 0x70, .regs 0x90,
          .ring, .leases, .lamp, .rcl, .ave, .sco, .ports] t)
    ∧ (∀ a s, Ends (.outputEnable a) s fun t =>
    s.onlyChanges [.mem .retA, .mem .retB, .regs 0x10, .regs 0x20, .regs 0x31, .regs 0x40, .regs
          0x41, .regs 0x42, .regs 0x50, .regs 0x60, .regs 0x62, .regs 0x70, .regs 0x90, .ring,
          .leases, .lamp, .rcl, .ave, .sco, .hv, .ports] t)
    ∧ (∀ a s, Ends (.outputDisable a) s fun t =>
    s.onlyChanges [.mem .retA, .mem .retB, .regs 0x10, .regs 0x20, .regs 0x31, .regs 0x40, .regs
          0x41, .regs 0x42, .regs 0x50, .regs 0x60, .regs 0x62, .regs 0x70, .regs 0x90, .ring,
          .leases, .lamp, .rcl, .ave, .sco, .hv, .ports] t)
    ∧ (∀ a b s, Ends (.displayModeChange a b) s fun t =>
    s.onlyChanges [.mem .retA, .mem .retB, .regs 0x41, .regs 0x90, .ring, .lamp, .rcl, .sco, .hv,
          .ports] t)
    ∧ (∀ a b s, Ends (.colourRangeChange a b) s fun t =>
    s.onlyChanges [.mem .retA, .mem .retB, .regs 0x41, .regs 0x90, .ring, .lamp, .rcl, .sco, .hv,
          .ports] t)
    ∧ (∀ a s, Ends (.panelSequenceWaitEnd a) s fun t =>
    s.onlyChanges [.mem .retA, .mem .retB, .regs 0x10, .regs 0x20, .regs 0x31, .regs 0x40, .regs
          0x41, .regs 0x42, .regs 0x50, .regs 0x60, .regs 0x62, .regs 0x70, .regs 0x90, .ring,
          .leases, .lamp, .rcl, .ave, .sco, .ports] t)
    ∧ (∀ a b c s, Ends (.teEdge a b c) s fun t =>
    s.onlyChanges [.mem .retA, .mem .retB, .regs 0x41, .regs 0x90, .ring, .lamp, .rcl, .sco, .ports]
          t)
    ∧ (∀ s, Ends (.teBMissing) s fun t =>
    s.onlyChanges [.mem .retA, .mem .retB, .regs 0x41, .regs 0x90, .free, .ring, .lamp, .rcl, .sco]
          t) := by
  refine ⟨fun a s => ends_of (o := execModeChangeIdleEnd a s) rfl ?_,
    fun a s => ends_of (o := execOutputEnable a s) rfl ?_,
    fun a s => ends_of (o := execOutputDisable a s) rfl ?_,
    fun a b s => ends_of (o := execDisplayModeChange a b s) rfl ?_,
    fun a b s => ends_of (o := execColourRangeChange a b s) rfl ?_,
    fun a s => ends_of (o := execPanelSequenceWaitEnd a s) rfl ?_,
    fun a b c s => ends_of (o := execTeEdge a b c s) rfl ?_,
    fun s => ends_of (o := execTeBMissing s) rfl ?_⟩
  all_goals first
    | unfold execModeChangeIdleEnd
    | unfold execOutputEnable
    | unfold execOutputDisable
    | unfold execDisplayModeChange
    | unfold execColourRangeChange
    | unfold execPanelSequenceWaitEnd
    | unfold execTeEdge
    | unfold execTeBMissing
  all_goals refine ⟨_, rfl, onlyChanges_of_within ?_ _⟩
  all_goals repeat' first
    | with_reducible exact within_skip
    | with_reducible exact within_all_nil
    | with_reducible refine within_all_cons ?_ ?_
    | with_reducible refine within_seq ?_ ?_
    | with_reducible refine within_look fun _ => ?_
    | with_reducible refine within_when ?_
    | ((with_reducible refine within_reprogram ?_); exact (by decide +kernel))
    | ((with_reducible refine within_scoCtrlCommit ?_); exact (by decide +kernel))
    | ((with_reducible refine within_scoCfgCommit ?_); exact (by decide +kernel))
    | ((with_reducible refine within_scoDphyCommit ?_); exact (by decide +kernel))
    | ((with_reducible refine within_scoTimingCommit ?_); exact (by decide +kernel))
    | ((with_reducible refine within_modPorts ?_); exact (by decide +kernel))
    | ((with_reducible refine within_launchOutput ?_); exact (by decide +kernel))
    | ((with_reducible refine within_modOut ?_); exact (by decide +kernel))
    | ((with_reducible refine within_startOutput ?_); exact (by decide +kernel))
    | ((with_reducible refine within_modSco ?_); exact (by decide +kernel))
    | ((with_reducible refine within_bump rfl ?_); exact (by decide +kernel))
    | ((with_reducible refine within_raise ?_ ?_) <;> first | exact (by decide +kernel) | exact partsLe_trans (event_le _) ((by decide +kernel)))
    | ((with_reducible refine within_teSkew ?_); exact (by decide +kernel))
    | ((with_reducible refine within_act ?_ ?_) <;> first | exact rfl | exact fun _ _ e => by cases e)
    | ((with_reducible refine within_foldl ?_ fun _ _ hs => ?_); (· exact within_skip); refine within_seq hs ?_)
    | with_reducible refine within_ite ?_ ?_
    | with_reducible refine within_progIte ?_ ?_
    | with_reducible refine within_each fun _ => ?_
    | with_reducible refine within_all_map fun _ => ?_
    | with_reducible refine within_all_replicate ?_
    | split
    | (dsimp only; split)
    | dsimp only

/-- What `teTimeout` to `dsiTxGo` may change. -/
theorem keeps_scanOut_1 :
    (∀ s, Ends (.teTimeout) s fun t =>
    s.onlyChanges [.mem .retA, .mem .retB, .regs 0x41, .regs 0x90, .ring, .lamp, .rcl, .sco] t)
    ∧ (∀ s, Ends (.freerunFrameStart) s fun t =>
    s.onlyChanges [.sco] t)
    ∧ (∀ a s, Ends (.dsiTxGo a) s fun t =>
    s.onlyChanges [.regs 0x41, .sco] t) := by
  refine ⟨fun s => ends_of (o := execTeTimeout s) rfl ?_,
    fun s => ends_of (o := execFreerunFrameStart s) rfl ?_,
    fun a s => ends_of (o := execDsiTxGo a s) rfl ?_⟩
  all_goals first
    | unfold execTeTimeout
    | unfold execFreerunFrameStart
    | unfold execDsiTxGo
  all_goals refine ⟨_, rfl, onlyChanges_of_within ?_ _⟩
  all_goals repeat' first
    | with_reducible exact within_skip
    | with_reducible exact within_all_nil
    | with_reducible refine within_all_cons ?_ ?_
    | with_reducible refine within_seq ?_ ?_
    | with_reducible refine within_look fun _ => ?_
    | with_reducible refine within_when ?_
    | ((with_reducible refine within_modSco ?_); exact (by decide +kernel))
    | ((with_reducible refine within_bump rfl ?_); exact (by decide +kernel))
    | ((with_reducible refine within_raise ?_ ?_) <;> first | exact (by decide +kernel) | exact partsLe_trans (event_le _) ((by decide +kernel)))
    | ((with_reducible refine within_dsiGo ?_); exact (by decide +kernel))
    | ((with_reducible refine within_foldl ?_ fun _ _ hs => ?_); (· exact within_skip); refine within_seq hs ?_)
    | with_reducible refine within_ite ?_ ?_
    | with_reducible refine within_progIte ?_ ?_
    | with_reducible refine within_each fun _ => ?_
    | with_reducible refine within_all_map fun _ => ?_
    | with_reducible refine within_all_replicate ?_
    | split
    | (dsimp only; split)
    | dsimp only

end Sys2Proof.Machine
end

