-- ==== Sys2Proof/Laws/KeepsScriptRows.lean ====
section
/-! SUPPORT. What each command of ScriptRows may change. -/

set_option Elab.async false
set_option linter.unreachableTactic false
set_option linter.unusedTactic false

namespace Sys2Proof.Machine

/-- What `i2cWrite` to `scriptTimeout` may change. -/
theorem keeps_scriptRows_0 :
    (∀ a s, Ends (.i2cWrite a) s fun t =>
    s.onlyChanges [.mem .plaza, .mem .lpddr, .mem .retA, .mem .retB, .mem .icon, .mem .img,
          .allRegs, .pend, .ring, .leases, .lamp, .rcl, .boot, .ave, .xlt, .wrd, .xng, .cam, .ras,
          .dst, .rbt, .sco, .sgn, .hv, .can, .svc, .ports, .brg] t)
    ∧ (∀ a s, Ends (.i2cExpect a) s fun t =>
    s.onlyChanges [.mem .plaza, .mem .lpddr, .mem .retA, .mem .retB, .mem .icon, .mem .img,
          .allRegs, .pend, .ring, .leases, .lamp, .rcl, .boot, .ave, .xlt, .wrd, .xng, .cam, .ras,
          .dst, .rbt, .sco, .sgn, .hv, .can, .svc, .ports, .brg] t)
    ∧ (∀ a s, Ends (.wait a) s fun t =>
    s.onlyChanges [.mem .plaza, .mem .lpddr, .mem .retA, .mem .retB, .mem .icon, .mem .img,
          .allRegs, .pend, .ring, .leases, .lamp, .rcl, .boot, .ave, .xlt, .wrd, .xng, .cam, .ras,
          .dst, .rbt, .sco, .sgn, .hv, .can, .svc, .ports, .brg] t)
    ∧ (∀ a s, Ends (.pinSet a) s fun t =>
    s.onlyChanges [.mem .plaza, .mem .lpddr, .mem .retA, .mem .retB, .mem .icon, .mem .img,
          .allRegs, .pend, .ring, .leases, .lamp, .rcl, .boot, .ave, .xlt, .wrd, .xng, .cam, .ras,
          .dst, .rbt, .sco, .sgn, .hv, .can, .svc, .ports, .brg] t)
    ∧ (∀ a s, Ends (.pinWait a) s fun t =>
    s.onlyChanges [.mem .plaza, .mem .lpddr, .mem .retA, .mem .retB, .mem .icon, .mem .img,
          .allRegs, .pend, .ring, .leases, .lamp, .rcl, .boot, .ave, .xlt, .wrd, .xng, .cam, .ras,
          .dst, .rbt, .sco, .sgn, .hv, .can, .svc, .ports, .brg] t)
    ∧ (∀ a s, Ends (.dsiCmd a) s fun t =>
    s.onlyChanges [.mem .plaza, .mem .lpddr, .mem .retA, .mem .retB, .mem .icon, .mem .img,
          .allRegs, .pend, .ring, .leases, .lamp, .rcl, .boot, .ave, .xlt, .wrd, .xng, .cam, .ras,
          .dst, .rbt, .sco, .sgn, .hv, .can, .svc, .ports, .brg] t)
    ∧ (∀ a s, Ends (.scriptEnd a) s fun t =>
    s.onlyChanges [.mem .plaza, .mem .lpddr, .mem .retA, .mem .retB, .mem .icon, .mem .img,
          .allRegs, .pend, .ring, .leases, .lamp, .rcl, .boot, .ave, .xlt, .wrd, .xng, .cam, .ras,
          .dst, .rbt, .sco, .sgn, .hv, .can, .svc, .ports, .brg] t)
    ∧ (∀ a s, Ends (.scriptTimeout a) s fun t =>
    s.onlyChanges [.mem .plaza, .mem .lpddr, .mem .retA, .mem .retB, .mem .icon, .mem .img,
          .allRegs, .pend, .ring, .leases, .lamp, .rcl, .boot, .ave, .xlt, .wrd, .xng, .cam, .ras,
          .dst, .rbt, .sco, .sgn, .hv, .can, .svc, .ports, .brg] t) := by
  refine ⟨fun a s => ends_of (o := execI2cWrite a s) rfl ?_,
    fun a s => ends_of (o := execI2cExpect a s) rfl ?_,
    fun a s => ends_of (o := execWait a s) rfl ?_,
    fun a s => ends_of (o := execPinSet a s) rfl ?_,
    fun a s => ends_of (o := execPinWait a s) rfl ?_,
    fun a s => ends_of (o := execDsiCmd a s) rfl ?_,
    fun a s => ends_of (o := execScriptEnd a s) rfl ?_,
    fun a s => ends_of (o := execScriptTimeout a s) rfl ?_⟩
  all_goals first
    | unfold execI2cWrite
    | unfold execI2cExpect
    | unfold execWait
    | unfold execPinSet
    | unfold execPinWait
    | unfold execDsiCmd
    | unfold execScriptEnd
    | unfold execScriptTimeout
  all_goals refine ⟨_, rfl, onlyChanges_of_within ?_ _⟩
  all_goals repeat' first
    | with_reducible exact within_skip
    | with_reducible exact within_all_nil
    | with_reducible refine within_all_cons ?_ ?_
    | with_reducible refine within_seq ?_ ?_
    | with_reducible refine within_look fun _ => ?_
    | with_reducible refine within_when ?_
    | ((with_reducible refine within_doOp ?_ (fun _ => ?_)); exact (by decide +kernel))
    | ((with_reducible refine within_modThread ?_); exact (by decide +kernel))
    | ((with_reducible refine within_startI2c ?_); exact (by decide +kernel))
    | ((with_reducible refine within_drivePin ?_); exact (by decide +kernel))
    | ((with_reducible refine within_nextOp ?_); exact (by decide +kernel))
    | ((with_reducible refine within_firstWrite ?_); exact (by decide +kernel))
    | ((with_reducible refine within_lpSend ?_); exact (by decide +kernel))
    | ((with_reducible refine within_modOut ?_); exact (by decide +kernel))
    | ((with_reducible refine within_scriptEnds ?_); exact (by decide +kernel))
    | ((with_reducible refine within_scriptFails ?_); exact (by decide +kernel))
    | ((with_reducible refine within_foldl ?_ fun _ _ hs => ?_); (· exact within_skip); refine within_seq hs ?_)
    | with_reducible refine within_ite ?_ ?_
    | with_reducible refine within_progIte ?_ ?_
    | with_reducible refine within_each fun _ => ?_
    | with_reducible refine within_all_map fun _ => ?_
    | with_reducible refine within_all_replicate ?_
    | split
    | (dsimp only; split)
    | dsimp only

/-- What `scriptWaitElapsed` to `i2cExpectRetryInterval` may change. -/
theorem keeps_scriptRows_1 :
    (∀ a s, Ends (.scriptWaitElapsed a) s fun t =>
    s.onlyChanges [.boot] t)
    ∧ (∀ a s, Ends (.pinLevelReached a) s fun t =>
    s.onlyChanges [.boot, .ports] t)
    ∧ (∀ a s, Ends (.pinWaitTimeout a) s fun t =>
    s.onlyChanges [.mem .plaza, .mem .lpddr, .mem .retA, .mem .retB, .mem .icon, .mem .img,
          .allRegs, .pend, .ring, .leases, .lamp, .rcl, .boot, .ave, .xlt, .wrd, .xng, .cam, .ras,
          .dst, .rbt, .sco, .sgn, .hv, .can, .svc, .ports, .brg] t)
    ∧ (∀ a s, Ends (.dsiLpPacketSent a) s fun t =>
    s.onlyChanges [.boot, .sco] t)
    ∧ (∀ a b c s, Ends (.i2cTransferDone a b c) s fun t =>
    s.onlyChanges [.mem .plaza, .mem .lpddr, .mem .retA, .mem .retB, .mem .icon, .mem .img,
          .allRegs, .pend, .ring, .leases, .lamp, .rcl, .boot, .ave, .xlt, .wrd, .xng, .cam, .ras,
          .dst, .rbt, .sco, .sgn, .hv, .can, .svc, .ports, .brg] t)
    ∧ (∀ a s, Ends (.i2cRetryInterval a) s fun t =>
    s.onlyChanges [.ports] t)
    ∧ (∀ a s, Ends (.i2cStretchTimeout a) s fun t =>
    s.onlyChanges [.mem .plaza, .mem .lpddr, .mem .retA, .mem .retB, .mem .icon, .mem .img,
          .allRegs, .pend, .ring, .leases, .lamp, .rcl, .boot, .ave, .xlt, .wrd, .xng, .cam, .ras,
          .dst, .rbt, .sco, .sgn, .hv, .can, .svc, .ports, .brg] t)
    ∧ (∀ a s, Ends (.i2cExpectRetryInterval a) s fun t =>
    s.onlyChanges [.regs 0x63, .boot, .ports] t) := by
  refine ⟨fun a s => ends_of (o := execScriptWaitElapsed a s) rfl ?_,
    fun a s => ends_of (o := execPinLevelReached a s) rfl ?_,
    fun a s => ends_of (o := execPinWaitTimeout a s) rfl ?_,
    fun a s => ends_of (o := execDsiLpPacketSent a s) rfl ?_,
    fun a b c s => ends_of (o := execI2cTransferDone a b c s) rfl ?_,
    fun a s => ends_of (o := execI2cRetryInterval a s) rfl ?_,
    fun a s => ends_of (o := execI2cStretchTimeout a s) rfl ?_,
    fun a s => ends_of (o := execI2cExpectRetryInterval a s) rfl ?_⟩
  all_goals first
    | unfold execScriptWaitElapsed
    | unfold execPinLevelReached
    | unfold execPinWaitTimeout
    | unfold execDsiLpPacketSent
    | unfold execI2cTransferDone
    | unfold execI2cRetryInterval
    | unfold execI2cStretchTimeout
    | unfold execI2cExpectRetryInterval
  all_goals refine ⟨_, rfl, onlyChanges_of_within ?_ _⟩
  all_goals repeat' first
    | with_reducible exact within_skip
    | with_reducible exact within_all_nil
    | with_reducible refine within_all_cons ?_ ?_
    | with_reducible refine within_seq ?_ ?_
    | with_reducible refine within_look fun _ => ?_
    | with_reducible refine within_when ?_
    | ((with_reducible refine within_nextOp ?_); exact (by decide +kernel))
    | ((with_reducible refine within_seePin ?_); exact (by decide +kernel))
    | ((with_reducible refine within_scriptFails ?_); exact (by decide +kernel))
    | ((with_reducible refine within_modOut ?_); exact (by decide +kernel))
    | ((with_reducible refine within_i2cDone ?_); exact (by decide +kernel))
    | ((with_reducible refine within_i2cFails ?_); exact (by decide +kernel))
    | ((with_reducible refine within_setI2c ?_); exact (by decide +kernel))
    | ((with_reducible refine within_modThread ?_); exact (by decide +kernel))
    | ((with_reducible refine within_startI2c ?_); exact (by decide +kernel))
    | ((with_reducible refine within_foldl ?_ fun _ _ hs => ?_); (· exact within_skip); refine within_seq hs ?_)
    | with_reducible refine within_ite ?_ ?_
    | with_reducible refine within_progIte ?_ ?_
    | with_reducible refine within_each fun _ => ?_
    | with_reducible refine within_all_map fun _ => ?_
    | with_reducible refine within_all_replicate ?_
    | split
    | (dsimp only; split)
    | dsimp only

/-- What `i2cXferStart` may change. -/
theorem keeps_scriptRows_2 :
    (∀ a b s, Ends (.i2cXferStart a b) s fun t =>
    s.onlyChanges [.regs 0x63, .bus, .ports] t) := by
  refine fun a b s => ends_of (o := execI2cXferStart a b s) rfl ?_
  all_goals first
    | unfold execI2cXferStart
  all_goals refine ⟨_, rfl, onlyChanges_of_within ?_ _⟩
  all_goals repeat' first
    | with_reducible exact within_skip
    | with_reducible exact within_all_nil
    | with_reducible refine within_all_cons ?_ ?_
    | with_reducible refine within_seq ?_ ?_
    | with_reducible refine within_look fun _ => ?_
    | with_reducible refine within_when ?_
    | ((with_reducible refine within_i2cXfer ?_); exact (by decide +kernel))
    | ((with_reducible refine within_respond ?_); exact (by decide +kernel))
    | ((with_reducible refine within_foldl ?_ fun _ _ hs => ?_); (· exact within_skip); refine within_seq hs ?_)
    | with_reducible refine within_ite ?_ ?_
    | with_reducible refine within_progIte ?_ ?_
    | with_reducible refine within_each fun _ => ?_
    | with_reducible refine within_all_map fun _ => ?_
    | with_reducible refine within_all_replicate ?_
    | split
    | (dsimp only; split)
    | dsimp only

end Sys2Proof.Machine
end

