-- ==== Sys2Proof/Laws/KeepsSignpost.lean ====
section
/-! SUPPORT. What each command of Signpost may change. -/

set_option Elab.async false
set_option linter.unreachableTactic false
set_option linter.unusedTactic false

namespace Sys2Proof.Machine

/-- What `signpostStatusRepeat` to `sgnSramAccess` may change. -/
theorem keeps_signpost_0 :
    (∀ s, Ends (.signpostStatusRepeat) s fun t =>
    s.onlyChanges [.mem .retA, .mem .retB, .regs 0x10, .regs 0x20, .regs 0x31, .regs 0x40, .regs
          0x41, .regs 0x42, .regs 0x50, .regs 0x60, .regs 0x62, .regs 0x70, .regs 0x90, .ring,
          .lamp, .rcl, .can] t)
    ∧ (∀ a b s, Ends (.iconEnable a b) s fun t =>
    s.onlyChanges [.mem .retA, .mem .retB, .regs 0x42, .regs 0x90, .ring, .lamp, .rcl] t)
    ∧ (∀ a b s, Ends (.sgnSramAccess a b) s fun t =>
    s.onlyChanges [.mem .icon, .regs 0x42, .bus] t) := by
  refine ⟨fun s => ends_of (o := execSignpostStatusRepeat s) rfl ?_,
    fun a b s => ends_of (o := execIconEnable a b s) rfl ?_,
    fun a b s => ends_of (o := execSgnSramAccess a b s) rfl ?_⟩
  all_goals first
    | unfold execSignpostStatusRepeat
    | unfold execIconEnable
    | unfold execSgnSramAccess
  all_goals refine ⟨_, rfl, onlyChanges_of_within ?_ _⟩
  all_goals repeat' first
    | with_reducible exact within_skip
    | with_reducible exact within_all_nil
    | with_reducible refine within_all_cons ?_ ?_
    | with_reducible refine within_seq ?_ ?_
    | with_reducible refine within_look fun _ => ?_
    | with_reducible refine within_when ?_
    | ((with_reducible refine within_queueStatus ?_); exact (by decide +kernel))
    | ((with_reducible refine within_iconPosCommit ?_); exact (by decide +kernel))
    | ((with_reducible refine within_sramAccess ?_); exact (by decide +kernel))
    | ((with_reducible refine within_foldl ?_ fun _ _ hs => ?_); (· exact within_skip); refine within_seq hs ?_)
    | with_reducible refine within_ite ?_ ?_
    | with_reducible refine within_progIte ?_ ?_
    | with_reducible refine within_each fun _ => ?_
    | with_reducible refine within_all_map fun _ => ?_
    | with_reducible refine within_all_replicate ?_
    | split
    | (dsimp only; split)
    | dsimp only

end Sys2Proof.Machine
end

