-- ==== Sys2Proof/Laws/KeepsVehicle.lean ====
section
/-! SUPPORT. What each command of Vehicle may change. -/

set_option Elab.async false
set_option linter.unreachableTactic false
set_option linter.unusedTactic false

namespace Sys2Proof.Machine

/-- What `canDisable` to `signalStale` may change. -/
theorem keeps_vehicle_0 :
    (∀ a s, Ends (.canDisable a) s fun t =>
    s.onlyChanges [.regs 0x60, .can] t)
    ∧ (∀ a s, Ends (.canFrameTransmitted a) s fun t =>
    s.onlyChanges [.can] t)
    ∧ (∀ a s, Ends (.canBusOff a) s fun t =>
    s.onlyChanges [.mem .retA, .mem .retB, .regs 0x10, .regs 0x20, .regs 0x31, .regs 0x40, .regs
          0x41, .regs 0x42, .regs 0x50, .regs 0x60, .regs 0x62, .regs 0x70, .regs 0x90, .ring,
          .lamp, .rcl, .can] t)
    ∧ (∀ a s, Ends (.canBusOffRecovery a) s fun t =>
    s.onlyChanges [.regs 0x60, .can] t)
    ∧ (∀ a s, Ends (.canHoldoffEnd a) s fun t =>
    s.onlyChanges [.regs 0x60, .can] t)
    ∧ (∀ a s, Ends (.canTxAbandon a) s fun t =>
    s.onlyChanges [.regs 0x60, .can] t)
    ∧ (∀ a b c s, Ends (.canErrorPassive a b c) s fun t =>
    s.onlyChanges [.mem .retA, .mem .retB, .regs 0x10, .regs 0x20, .regs 0x31, .regs 0x40, .regs
          0x41, .regs 0x42, .regs 0x50, .regs 0x60, .regs 0x62, .regs 0x70, .regs 0x90, .ring,
          .lamp, .rcl, .can] t)
    ∧ (∀ a s, Ends (.signalStale a) s fun t =>
    s.onlyChanges [.mem .retA, .mem .retB, .regs 0x6, .regs 0x10, .regs 0x20, .regs 0x31, .regs
          0x40, .regs 0x41, .regs 0x42, .regs 0x50, .regs 0x60, .regs 0x62, .regs 0x70, .regs 0x90,
          .ring, .leases, .lamp, .rcl, .wrd, .xng, .svc, .brg] t) := by
  refine ⟨fun a s => ends_of (o := execCanDisable a s) rfl ?_,
    fun a s => ends_of (o := execCanFrameTransmitted a s) rfl ?_,
    fun a s => ends_of (o := execCanBusOff a s) rfl ?_,
    fun a s => ends_of (o := execCanBusOffRecovery a s) rfl ?_,
    fun a s => ends_of (o := execCanHoldoffEnd a s) rfl ?_,
    fun a s => ends_of (o := execCanTxAbandon a s) rfl ?_,
    fun a b c s => ends_of (o := execCanErrorPassive a b c s) rfl ?_,
    fun a s => ends_of (o := execSignalStale a s) rfl ?_⟩
  all_goals first
    | unfold execCanDisable
    | unfold execCanFrameTransmitted
    | unfold execCanBusOff
    | unfold execCanBusOffRecovery
    | unfold execCanHoldoffEnd
    | unfold execCanTxAbandon
    | unfold execCanErrorPassive
    | unfold execSignalStale
  all_goals refine ⟨_, rfl, onlyChanges_of_within ?_ _⟩
  all_goals repeat' first
    | with_reducible exact within_skip
    | with_reducible exact within_all_nil
    | with_reducible refine within_all_cons ?_ ?_
    | with_reducible refine within_seq ?_ ?_
    | with_reducible refine within_look fun _ => ?_
    | with_reducible refine within_when ?_
    | ((with_reducible refine within_canCtrlCommit ?_); exact (by decide +kernel))
    | ((with_reducible refine within_modCanAt ?_); exact (by decide +kernel))
    | ((with_reducible refine within_bump rfl ?_); exact (by decide +kernel))
    | ((with_reducible refine within_raise ?_ ?_) <;> first | exact (by decide +kernel) | exact partsLe_trans (event_le _) ((by decide +kernel)))
    | ((with_reducible refine within_canRecovered ?_); exact (by decide +kernel))
    | ((with_reducible refine within_abandonFrames ?_); exact (by decide +kernel))
    | ((with_reducible refine within_setF rfl ?_); exact (by decide +kernel))
    | ((with_reducible refine within_ijWrite ?_); exact (by decide +kernel))
    | ((with_reducible refine within_newSnapshot ?_); exact (by decide +kernel))
    | ((with_reducible refine within_settleMoving ?_); exact (by decide +kernel))
    | ((with_reducible refine within_useSignals ?_); exact (by decide +kernel))
    | ((with_reducible refine within_writeIconState ?_); exact (by decide +kernel))
    | ((with_reducible refine within_foldl ?_ fun _ _ hs => ?_); (· exact within_skip); refine within_seq hs ?_)
    | with_reducible refine within_ite ?_ ?_
    | with_reducible refine within_progIte ?_ ?_
    | with_reducible refine within_each fun _ => ?_
    | with_reducible refine within_all_map fun _ => ?_
    | with_reducible refine within_all_replicate ?_
    | split
    | (dsimp only; split)
    | dsimp only

end Sys2Proof.Machine
end

