-- ==== Sys2Proof/Laws/KeepsWardens.lean ====
section
/-! SUPPORT. What each command of Wardens may change. -/

set_option Elab.async false
set_option linter.unreachableTactic false
set_option linter.unusedTactic false

namespace Sys2Proof.Machine

/-- What `stopEnqueue` to `copy` may change. -/
theorem keeps_wardens_0 :
    (∀ a s, Ends (.stopEnqueue a) s fun t =>
    s.onlyChanges [.mem .plaza, .mem .lpddr, .mem .retA, .mem .retB, .mem .icon, .mem .img,
          .allRegs, .pend, .ring, .leases, .lamp, .rcl, .boot, .ave, .xlt, .wrd, .xng, .cam, .ras,
          .dst, .rbt, .sco, .sgn, .hv, .can, .svc, .ports, .brg] t)
    ∧ (∀ s, Ends (.runListPoolRoom) s fun t =>
    s.onlyChanges [.mem .plaza, .mem .lpddr, .mem .retA, .mem .retB, .mem .icon, .mem .img,
          .allRegs, .pend, .ring, .leases, .lamp, .rcl, .boot, .ave, .xlt, .wrd, .xng, .cam, .ras,
          .dst, .rbt, .sco, .sgn, .hv, .can, .svc, .ports, .brg] t)
    ∧ (∀ a b s, Ends (.stopDispatch a b) s fun t =>
    s.onlyChanges [.mem .plaza, .mem .lpddr, .mem .retA, .mem .retB, .mem .icon, .mem .img,
          .allRegs, .pend, .ring, .leases, .lamp, .rcl, .boot, .ave, .xlt, .wrd, .xng, .cam, .ras,
          .dst, .rbt, .sco, .sgn, .hv, .can, .svc, .ports, .brg] t)
    ∧ (∀ a s, Ends (.nop a) s fun t =>
    s.onlyChanges [.mem .retA, .mem .retB, .regs 0x4, .regs 0x5, .regs 0x6, .regs 0x10, .regs 0x20,
          .regs 0x31, .regs 0x40, .regs 0x41, .regs 0x42, .regs 0x50, .regs 0x60, .regs 0x62, .regs
          0x70, .regs 0x90, .ring, .leases, .lamp, .rcl, .boot, .ave, .xlt, .wrd, .xng, .ras, .dst,
          .rbt, .svc, .brg] t)
    ∧ (∀ a s, Ends (.startRoute a) s fun t =>
    s.onlyChanges [.mem .retA, .mem .retB, .regs 0x4, .regs 0x5, .regs 0x6, .regs 0x10, .regs 0x20,
          .regs 0x31, .regs 0x40, .regs 0x41, .regs 0x42, .regs 0x50, .regs 0x60, .regs 0x62, .regs
          0x70, .regs 0x90, .ring, .leases, .lamp, .rcl, .boot, .ave, .xlt, .wrd, .xng, .ras, .dst,
          .rbt, .svc, .brg] t)
    ∧ (∀ a s, Ends (.lock a) s fun t =>
    s.onlyChanges [.mem .retA, .mem .retB, .regs 0x4, .regs 0x5, .regs 0x6, .regs 0x10, .regs 0x20,
          .regs 0x31, .regs 0x40, .regs 0x41, .regs 0x42, .regs 0x50, .regs 0x60, .regs 0x62, .regs
          0x70, .regs 0x90, .ring, .leases, .lamp, .rcl, .boot, .ave, .xlt, .wrd, .xng, .ras, .dst,
          .rbt, .svc, .brg] t)
    ∧ (∀ a s, Ends (.unlock a) s fun t =>
    s.onlyChanges [.mem .retA, .mem .retB, .regs 0x4, .regs 0x5, .regs 0x6, .regs 0x10, .regs 0x20,
          .regs 0x31, .regs 0x40, .regs 0x41, .regs 0x42, .regs 0x50, .regs 0x60, .regs 0x62, .regs
          0x70, .regs 0x90, .ring, .leases, .lamp, .rcl, .boot, .ave, .xlt, .wrd, .xng, .ras, .dst,
          .rbt, .svc, .brg] t)
    ∧ (∀ a s, Ends (.copy a) s fun t =>
    s.onlyChanges [.mem .plaza, .mem .lpddr, .mem .retA, .mem .retB, .mem .icon, .mem .img,
          .allRegs, .pend, .ring, .leases, .lamp, .rcl, .boot, .ave, .xlt, .wrd, .xng, .cam, .ras,
          .dst, .rbt, .sco, .sgn, .hv, .can, .svc, .ports, .brg] t) := by
  refine ⟨fun a s => ends_of (o := execStopEnqueue a s) rfl ?_,
    fun s => ends_of (o := execRunListPoolRoom s) rfl ?_,
    fun a b s => ends_of (o := execStopDispatch a b s) rfl ?_,
    fun a s => ends_of (o := execNop a s) rfl ?_,
    fun a s => ends_of (o := execStartRoute a s) rfl ?_,
    fun a s => ends_of (o := execLock a s) rfl ?_,
    fun a s => ends_of (o := execUnlock a s) rfl ?_,
    fun a s => ends_of (o := execCopy a s) rfl ?_⟩
  all_goals first
    | unfold execStopEnqueue
    | unfold execRunListPoolRoom
    | unfold execStopDispatch
    | unfold execNop
    | unfold execStartRoute
    | unfold execLock
    | unfold execUnlock
    | unfold execCopy
  all_goals refine ⟨_, rfl, onlyChanges_of_within ?_ _⟩
  all_goals repeat' first
    | with_reducible exact within_skip
    | with_reducible exact within_all_nil
    | with_reducible refine within_all_cons ?_ ?_
    | with_reducible refine within_seq ?_ ?_
    | with_reducible refine within_look fun _ => ?_
    | with_reducible refine within_when ?_
    | ((with_reducible refine within_setF rfl ?_); exact (by decide +kernel))
    | ((with_reducible refine within_enqueueNext ?_); exact (by decide +kernel))
    | ((with_reducible refine within_retranslateOldest ?_); exact (by decide +kernel))
    | ((with_reducible refine within_keepMax rfl ?_); exact (by decide +kernel))
    | ((with_reducible refine within_dispatchTo ?_); exact (by decide +kernel))
    | ((with_reducible refine within_settleDecision ?_); exact (by decide +kernel))
    | ((with_reducible refine within_dispatchOf ?_); exact (by decide +kernel))
    | ((with_reducible refine within_runStop ?_ (fun _ _ => ?_)); exact (by decide +kernel))
    | ((with_reducible refine within_stopWrite ?_); exact (by decide +kernel))
    | ((with_reducible refine within_foldl ?_ fun _ _ hs => ?_); (· exact within_skip); refine within_seq hs ?_)
    | with_reducible refine within_ite ?_ ?_
    | with_reducible refine within_progIte ?_ ?_
    | with_reducible refine within_each fun _ => ?_
    | with_reducible refine within_all_map fun _ => ?_
    | with_reducible refine within_all_replicate ?_
    | split
    | (dsimp only; split)
    | dsimp only

/-- What `fill` to `queueResume` may change. -/
theorem keeps_wardens_1 :
    (∀ a s, Ends (.fill a) s fun t =>
    s.onlyChanges [.mem .plaza, .mem .lpddr, .mem .retA, .mem .retB, .mem .icon, .mem .img,
          .allRegs, .pend, .ring, .leases, .lamp, .rcl, .boot, .ave, .xlt, .wrd, .xng, .cam, .ras,
          .dst, .rbt, .sco, .sgn, .hv, .can, .svc, .ports, .brg] t)
    ∧ (∀ a s, Ends (.stopComplete a) s fun t =>
    s.onlyChanges [.mem .retA, .mem .retB, .regs 0x4, .regs 0x5, .regs 0x6, .regs 0x10, .regs 0x20,
          .regs 0x31, .regs 0x40, .regs 0x41, .regs 0x42, .regs 0x50, .regs 0x60, .regs 0x62, .regs
          0x70, .regs 0x90, .ring, .leases, .lamp, .rcl, .boot, .ave, .xlt, .wrd, .xng, .ras, .dst,
          .rbt, .svc, .brg] t)
    ∧ (∀ a b c s, Ends (.signalAdd a b c) s fun t =>
    s.onlyChanges [.mem .retA, .mem .retB, .regs 0x6, .regs 0x10, .regs 0x20, .regs 0x31, .regs
          0x40, .regs 0x41, .regs 0x42, .regs 0x50, .regs 0x60, .regs 0x62, .regs 0x70, .regs 0x90,
          .ring, .leases, .lamp, .rcl, .wrd, .xng, .brg] t)
    ∧ (∀ a b c s, Ends (.signalSet a b c) s fun t =>
    s.onlyChanges [.mem .retA, .mem .retB, .regs 0x6, .regs 0x10, .regs 0x20, .regs 0x31, .regs
          0x40, .regs 0x41, .regs 0x42, .regs 0x50, .regs 0x60, .regs 0x62, .regs 0x70, .regs 0x90,
          .ring, .leases, .lamp, .rcl, .wrd, .xng, .brg] t)
    ∧ (∀ a b s, Ends (.signalRelease a b) s fun t =>
    s.onlyChanges [.mem .retA, .mem .retB, .regs 0x6, .regs 0x10, .regs 0x20, .regs 0x31, .regs
          0x40, .regs 0x41, .regs 0x42, .regs 0x50, .regs 0x60, .regs 0x62, .regs 0x70, .regs 0x90,
          .ring, .leases, .lamp, .rcl, .wrd, .xng] t)
    ∧ (∀ a b s, Ends (.xngSet a b) s fun t =>
    s.onlyChanges [.mem .retA, .mem .retB, .regs 0x6, .regs 0x10, .regs 0x20, .regs 0x31, .regs
          0x40, .regs 0x41, .regs 0x42, .regs 0x50, .regs 0x60, .regs 0x62, .regs 0x70, .regs 0x90,
          .bus, .ring, .leases, .lamp, .rcl, .wrd, .xng, .brg] t)
    ∧ (∀ a s, Ends (.queueHalt a) s fun t =>
    s.onlyChanges [.mem .retA, .mem .retB, .regs 0x4, .regs 0x5, .regs 0x6, .regs 0x10, .regs 0x20,
          .regs 0x31, .regs 0x40, .regs 0x41, .regs 0x42, .regs 0x50, .regs 0x60, .regs 0x62, .regs
          0x70, .regs 0x90, .ring, .leases, .lamp, .rcl, .boot, .xlt, .wrd, .xng, .brg] t)
    ∧ (∀ a s, Ends (.queueResume a) s fun t =>
    s.onlyChanges [.mem .retA, .mem .retB, .regs 0x6, .regs 0x10, .regs 0x20, .regs 0x31, .regs
          0x40, .regs 0x41, .regs 0x42, .regs 0x50, .regs 0x60, .regs 0x62, .regs 0x70, .regs 0x90,
          .ring, .leases, .lamp, .rcl, .wrd, .xng] t) := by
  refine ⟨fun a s => ends_of (o := execFill a s) rfl ?_,
    fun a s => ends_of (o := execStopComplete a s) rfl ?_,
    fun a b c s => ends_of (o := execSignalAdd a b c s) rfl ?_,
    fun a b c s => ends_of (o := execSignalSet a b c s) rfl ?_,
    fun a b s => ends_of (o := execSignalRelease a b s) rfl ?_,
    fun a b s => ends_of (o := execXngSet a b s) rfl ?_,
    fun a s => ends_of (o := execQueueHalt a s) rfl ?_,
    fun a s => ends_of (o := execQueueResume a s) rfl ?_⟩
  all_goals first
    | unfold execFill
    | unfold execStopComplete
    | unfold execSignalAdd
    | unfold execSignalSet
    | unfold execSignalRelease
    | unfold execXngSet
    | unfold execQueueHalt
    | unfold execQueueResume
  all_goals refine ⟨_, rfl, onlyChanges_of_within ?_ _⟩
  all_goals repeat' first
    | with_reducible exact within_skip
    | with_reducible exact within_all_nil
    | with_reducible refine within_all_cons ?_ ?_
    | with_reducible refine within_seq ?_ ?_
    | with_reducible refine within_look fun _ => ?_
    | with_reducible refine within_when ?_
    | ((with_reducible refine within_runStop ?_ (fun _ _ => ?_)); exact (by decide +kernel))
    | ((with_reducible refine within_stopWrite ?_); exact (by decide +kernel))
    | ((with_reducible refine within_completeStop ?_); exact (by decide +kernel))
    | ((with_reducible refine within_signalCounter ?_); exact (by decide +kernel))
    | ((with_reducible refine within_signalRelease ?_); exact (by decide +kernel))
    | ((with_reducible refine within_setReg rfl ?_); exact (by decide +kernel))
    | ((with_reducible refine within_gspSet ?_); exact (by decide +kernel))
    | ((with_reducible refine within_fallbackStep ?_); exact (by decide +kernel))
    | ((with_reducible refine within_queueCtrl ?_); exact (by decide +kernel))
    | ((with_reducible refine within_settleInvalidations ?_); exact (by decide +kernel))
    | ((with_reducible refine within_foldl ?_ fun _ _ hs => ?_); (· exact within_skip); refine within_seq hs ?_)
    | with_reducible refine within_ite ?_ ?_
    | with_reducible refine within_progIte ?_ ?_
    | with_reducible refine within_each fun _ => ?_
    | with_reducible refine within_all_map fun _ => ?_
    | with_reducible refine within_all_replicate ?_
    | split
    | (dsimp only; split)
    | dsimp only

/-- What `queueDrainExpire` to `wardenTakeover` may change. -/
theorem keeps_wardens_2 :
    (∀ a s, Ends (.queueDrainExpire a) s fun t =>
    s.onlyChanges [.mem .retA, .mem .retB, .regs 0x4, .regs 0x5, .regs 0x6, .regs 0x10, .regs 0x20,
          .regs 0x31, .regs 0x40, .regs 0x41, .regs 0x42, .regs 0x50, .regs 0x60, .regs 0x62, .regs
          0x70, .regs 0x90, .ring, .leases, .lamp, .rcl, .boot, .ave, .xlt, .wrd, .xng, .ras, .dst,
          .rbt, .brg] t)
    ∧ (∀ a b c s, Ends (.granuleBoundary a b c) s fun t =>
    s.onlyChanges [.mem .plaza, .mem .lpddr, .mem .retA, .mem .retB, .mem .icon, .mem .img,
          .allRegs, .pend, .free, .ring, .leases, .lamp, .rcl, .boot, .ave, .xlt, .wrd, .xng, .cam,
          .ras, .dst, .rbt, .sco, .sgn, .hv, .can, .svc, .ports, .brg] t)
    ∧ (∀ a s, Ends (.wardenDivergence a) s fun t =>
    s.onlyChanges [.mem .retA, .mem .retB, .mem .icon, .mem .img, .allRegs, .pend, .ring, .leases,
          .lamp, .rcl, .boot, .ave, .xlt, .wrd, .xng, .cam, .ras, .dst, .rbt, .sco, .sgn, .hv, .can,
          .svc, .ports, .brg] t)
    ∧ (∀ s, Ends (.wardenTakeover) s fun t =>
    s.onlyChanges [.mem .retA, .mem .retB, .regs 0x5, .regs 0x10, .regs 0x20, .regs 0x31, .regs
          0x40, .regs 0x41, .regs 0x42, .regs 0x50, .regs 0x60, .regs 0x62, .regs 0x70, .regs 0x90,
          .ring, .leases, .lamp, .rcl, .ave, .wrd, .ras, .dst, .rbt, .brg] t) := by
  refine ⟨fun a s => ends_of (o := execQueueDrainExpire a s) rfl ?_,
    fun a b c s => ends_of (o := execGranuleBoundary a b c s) rfl ?_,
    fun a s => ends_of (o := execWardenDivergence a s) rfl ?_,
    fun s => ends_of (o := execWardenTakeover s) rfl ?_⟩
  all_goals first
    | unfold execQueueDrainExpire
    | unfold execGranuleBoundary
    | unfold execWardenDivergence
    | unfold execWardenTakeover
  all_goals refine ⟨_, rfl, onlyChanges_of_within ?_ _⟩
  all_goals repeat' first
    | with_reducible exact within_skip
    | with_reducible exact within_all_nil
    | with_reducible refine within_all_cons ?_ ?_
    | with_reducible refine within_seq ?_ ?_
    | with_reducible refine within_look fun _ => ?_
    | with_reducible refine within_when ?_
    | ((with_reducible refine within_withdrawQueue ?_); exact (by decide +kernel))
    | ((with_reducible refine within_keepMax rfl ?_); exact (by decide +kernel))
    | ((with_reducible refine within_granuleYield ?_); exact (by decide +kernel))
    | ((with_reducible refine within_tileCorrected ?_); exact (by decide +kernel))
    | ((with_reducible refine within_setF rfl ?_); exact (by decide +kernel))
    | ((with_reducible refine within_raise ?_ ?_) <;> first | exact (by decide +kernel) | exact partsLe_trans (event_le _) ((by decide +kernel)))
    | ((with_reducible refine within_wardenFault ?_); exact (by decide +kernel))
    | ((with_reducible refine within_modWrd ?_); exact (by decide +kernel))
    | ((with_reducible refine within_takeOver ?_); exact (by decide +kernel))
    | ((with_reducible refine within_foldl ?_ fun _ _ hs => ?_); (· exact within_skip); refine within_seq hs ?_)
    | with_reducible refine within_ite ?_ ?_
    | with_reducible refine within_progIte ?_ ?_
    | with_reducible refine within_each fun _ => ?_
    | with_reducible refine within_all_map fun _ => ?_
    | with_reducible refine within_all_replicate ?_
    | split
    | (dsimp only; split)
    | dsimp only

end Sys2Proof.Machine
end

