-- ==== Sys2Proof/Laws/Sound.lean ====
section
/-! SUPPORT. Every act, and so every micro-program, keeps a state sound. -/

set_option Elab.async false

namespace Sys2Proof.Machine

theorem mem_keyPut {α : Type} {l : List (Nat × α)} {k : Nat} {v : α} {e : Nat × α}
    (h : e ∈ keyPut l k v) : e = (k, v) ∨ e ∈ l := by
  induction l with
  | nil => simpa [keyPut] using h
  | cons x t ih =>
    obtain ⟨y, w⟩ := x
    unfold keyPut at h
    split at h
    · simpa using h
    · split at h
      · rcases List.mem_cons.mp h with h | h
        · exact .inl h
        · exact .inr (List.mem_cons_of_mem _ h)
      · rcases List.mem_cons.mp h with h | h
        · exact .inr (h ▸ List.mem_cons_self)
        · exact (ih h).imp_right (List.mem_cons_of_mem _)

theorem mem_keyDel {α : Type} {l : List (Nat × α)} {k : Nat} {e : Nat × α}
    (h : e ∈ keyDel l k) : e ∈ l := (List.mem_filter.mp h).1

theorem memsOk_setMem {s : State} {id : MemId} {m : Memory} (h : s.memsOk)
    (hm : Memory.wf id m = true) : (s.setMem id m).memsOk := by
  intro j
  by_cases hj : id = j
  · subst hj; rw [mem_setMem_self]; exact hm
  · rw [mem_setMem s id j m hj]; exact h j

theorem length_pushRing (l : List FaultRec) (r : FaultRec) (h : l.length ≤ 64) :
    (pushRing l r).length ≤ 64 := by
  unfold pushRing
  rw [List.length_drop, List.length_append, List.length_singleton]
  omega

/-- Acts other than those on registers, memories, leases and the ring cannot unsettle a
state. -/
theorem sound_congr {s t : State} (h : s.Sound) (hm : ∀ id, t.mem id = s.mem id)
    (hr : t.regs = s.regs) (hp : t.rwpPend = s.rwpPend) (hl : t.leases = s.leases)
    (hg : t.ring = s.ring) : t.Sound := by
  refine ⟨fun id => ?_, ?_, ?_, ?_⟩
  · rw [hm]; exact h.mems id
  · unfold State.keysOk; rw [hr, hp, hl]; exact h.keys
  · unfold State.wordsOk; rw [hr]; exact h.words
  · unfold State.ringFits; rw [hg]; exact h.ring

theorem act_sound {s : State} (a : Act) (h : s.Sound) : (a.apply s).Sound := by
  obtain ⟨hm, ⟨hk, hp, hl, h256⟩, hw, hr⟩ := h
  have hmem : ∀ id, a.part ≠ .mem id → (a.apply s).mem id = s.mem id := fun id =>
    mem_act_other s
  cases a with
  | reg addr v =>
    refine ⟨fun id => ?_, ⟨?_, hp, hl, h256⟩, ?_, hr⟩
    · rw [hmem id (by simp [Act.part])]; exact hm id
    · rw [act_reg_regs]; exact keysWf_keyPut (Nat.zero_le _) hk
    · intro e he
      rw [act_reg_regs] at he
      rcases mem_keyPut he with rfl | he
      · exact Nat.mod_lt _ (by positivity)
      · exact hw e he
  | pend addr v =>
    refine ⟨fun id => ?_, ⟨hk, ?_, hl, h256⟩, hw, hr⟩
    · rw [hmem id (by simp [Act.part])]; exact hm id
    · cases v
      · exact keysWf_keyDel hp
      · exact keysWf_keyPut (Nat.zero_le _) hp
  | clearRegs lo hi =>
    refine ⟨fun id => ?_, ⟨keysWf_filter _ hk, keysWf_filter _ hp, hl, h256⟩, ?_, hr⟩
    · rw [hmem id (by simp [Act.part])]; exact hm id
    · exact fun e he => hw e (List.mem_filter.mp he).1
  | store id x y =>
    refine ⟨?_, ⟨?_, ?_, ?_, ?_⟩, ?_, ?_⟩
    · exact memsOk_setMem hm (wfFrom_store (hm id))
    · simpa using hk
    · simpa using hp
    · simpa using hl
    · simpa using h256
    · have e : ((Act.store id x y).apply s).regs = s.regs := by simp
      unfold State.wordsOk; rw [e]; exact hw
    · have e : ((Act.store id x y).apply s).ring = s.ring := by simp
      unfold State.ringFits; rw [e]; exact hr
  | wipe id =>
    refine ⟨?_, ⟨?_, ?_, ?_, ?_⟩, ?_, ?_⟩
    · exact memsOk_setMem hm rfl
    · simpa using hk
    · simpa using hp
    · simpa using hl
    · simpa using h256
    · have e : ((Act.wipe id).apply s).regs = s.regs := by simp
      unfold State.wordsOk; rw [e]; exact hw
    · have e : ((Act.wipe id).apply s).ring = s.ring := by simp
      unfold State.ringFits; rw [e]; exact hr
  | record r =>
    refine ⟨fun id => ?_, ⟨hk, hp, hl, h256⟩, hw, ?_⟩
    · rw [hmem id (by simp [Act.part])]; exact hm id
    · exact length_pushRing _ _ hr
  | clearRing =>
    refine ⟨fun id => ?_, ⟨hk, hp, hl, h256⟩, hw, ?_⟩
    · rw [hmem id (by simp [Act.part])]; exact hm id
    · unfold State.ringFits; simp
  | lease n l =>
    refine ⟨fun id => ?_, ⟨hk, hp, ?_, ?_⟩, hw, hr⟩
    · rw [hmem id (by simp [Act.part])]; exact hm id
    · cases l with
      | none => exact keysWf_keyDel hl
      | some x =>
        show keysWf 0 (if n < 256 then keyPut s.leases n x else s.leases) = true
        split
        · exact keysWf_keyPut (Nat.zero_le _) hl
        · exact hl
    · cases l with
      | none => exact fun e he => h256 e (mem_keyDel he)
      | some x =>
        show ∀ e ∈ (if n < 256 then keyPut s.leases n x else s.leases), e.1 < 256
        split
        · intro e he
          rcases mem_keyPut he with rfl | he
          · assumption
          · exact h256 e he
        · exact h256
  | clearLeases =>
    refine ⟨fun id => ?_, ⟨hk, hp, ?_, ?_⟩, hw, hr⟩
    · rw [hmem id (by simp [Act.part])]; exact hm id
    · simp [keysWf]
    · simp
  | _ =>
    exact sound_congr ⟨hm, ⟨hk, hp, hl, h256⟩, hw, hr⟩
      (fun id => hmem id (by simp [Act.part])) (by simp) (by simp) (by simp) (by simp)

theorem run_sound {s : State} (p : Prog) (h : s.Sound) : (p.run s).Sound := by
  induction p generalizing s with
  | skip => exact h
  | act a => exact act_sound a h
  | seq p q hp hq => exact hq (hp h)
  | look k ih => exact ih s h

end Sys2Proof.Machine
end

