-- ==== Sys2Proof/Laws/Resets.lean ====
section
/-! SUPPORT. What a reset of the logic side leaves: the lamplight domain, the flash and the OTP
as they were, the loader's state and the lease table as after reset. -/

set_option Elab.async false

namespace Sys2Proof.Machine

variable (s : State)

@[simp] theorem clearLogicRegs_lamp : (clearLogicRegs.run s).lamp = s.lamp := by
  unfold clearLogicRegs
  simp

@[simp] theorem logicReset_lamp : (logicReset.run s).lamp
    = { s.lamp with tempValid := List.replicate 12 true, quietGated := false } := by
  unfold logicReset
  simp

@[simp] theorem logicReset_boot : (logicReset.run s).boot = Boot.reset := by
  unfold logicReset
  simp

@[simp] theorem logicReset_leases : (logicReset.run s).leases = [] := by
  unfold logicReset
  simp

@[simp] theorem logicReset_flash : (logicReset.run s).flash = s.flash :=
  same_after (q := .mem .flash) (within_logicReset (by decide +kernel)) (by decide +kernel) s

@[simp] theorem logicReset_otp : (logicReset.run s).otp = s.otp :=
  same_after (q := .mem .otp) (within_logicReset (by decide +kernel)) (by decide +kernel) s

@[simp] theorem logicReset_ring : (logicReset.run s).ring = s.ring :=
  (same_after (q := .ring) (within_logicReset (by decide +kernel)) (by decide +kernel) s).1

@[simp] theorem logicReset_nextSeq : (logicReset.run s).nextSeq = s.nextSeq :=
  (same_after (q := .ring) (within_logicReset (by decide +kernel)) (by decide +kernel) s).2

theorem keyGet_filter {α : Type} (l : List (Nat × α)) (p : Nat × α → Bool) (k : Nat)
    (hp : ∀ v, p (k, v) = true) (hk : keysWf 0 l = true) :
    keyGet (l.filter p) k = keyGet l k := by
  have h : ∀ lo, keysWf lo l = true → keyGet (l.filter p) k = keyGet l k := by
    clear hk
    induction l with
    | nil => intro _ _; rfl
    | cons e t ih =>
      obtain ⟨x, v⟩ := e
      intro lo hl
      simp only [keysWf, Bool.and_eq_true, decide_eq_true_eq] at hl
      rw [List.filter_cons]
      by_cases hx : k = x
      · subst hx
        rw [if_pos (hp v)]
        simp [keyGet]
      · split
        · simp only [keyGet, if_neg hx, ih _ hl.2]
        · rw [ih _ hl.2, keyGet, if_neg hx]
          split
          · have : ∀ (m : List (Nat × α)) lo, k < lo → keysWf lo m = true → keyGet m k = none := by
              intro m lo hlo hm
              cases m with
              | nil => rfl
              | cons e t =>
                simp only [keysWf, Bool.and_eq_true, decide_eq_true_eq] at hm
                simp only [keyGet]
                rw [if_neg (by omega), if_pos (by omega)]
            exact this t (x + 1) (by omega) hl.2
          · rfl
  exact h 0 hk

theorem keysWf_regs {s : State} (h : s.Sound) : keysWf 0 s.regs = true := h.keys.1

/-- The lamplight domain's and the reclaimer's registers stay over a reset of the logic side. -/
theorem logicReset_rd {s : State} (h : s.Sound) (r : Reg) (i j : Nat)
    (hr : ∀ a, a = r.at i j ∨ a = r.at i j + 4 →
      (0xF0010000 ≤ a ∧ a < 0xF0020000) ∨ 0xF0900000 ≤ a) :
    (logicReset.run s).rd r i j = s.rd r i j := by
  have e : (logicReset.run s).regs
      = (s.regs.filter fun e => e.1 < 0xF0000000 || 0xF0010000 ≤ e.1).filter
          fun e => e.1 < 0xF0020000 || 0xF0900000 ≤ e.1 := by
    unfold logicReset clearLogicRegs
    simp [Act.apply]
  have k : ∀ a, ((0xF0010000 ≤ a ∧ a < 0xF0020000) ∨ 0xF0900000 ≤ a) →
      keyGet (logicReset.run s).regs a = keyGet s.regs a := by
    intro a ha
    rw [e, keyGet_filter _ _ _ (fun v => by simp; omega) (keysWf_filter _ (keysWf_regs h)),
      keyGet_filter _ _ _ (fun v => by simp; omega) (keysWf_regs h)]
  exact rd_congr (run_frame _ s).2.1 (k _ (hr _ (.inl rfl))) (k _ (hr _ (.inr rfl)))

/-- Discarding the pending values changes nothing else of the state. -/
theorem dropPending_keeps {α : Type} {π : State → α} (h : ∀ s e, π ((Act.pend e none).apply s) = π s)
    (bit : Nat) : (Prog.when (warmCause bit = true) dropPending).Keeps π := by
  unfold dropPending
  exact keeps_when fun _ => keeps_look fun _ => keeps_each fun _ => keeps_act fun _ => h _ _

/-- What every reset of the logic side leaves. -/
theorem logicSideReset_restarted {s : State} (h : s.Sound) {bit : Nat} (hb : bit < 10) :
    s.restarted ((logicSideReset bit).run s) bit := by
  unfold logicSideReset recordCause releaseLogic
  simp only [run_all_cons, run_all_nil, run_look, run_seq, modLamp, modPorts, run_act]
  have hs1 : ∀ (t : State) (c : Lamp), ((Act.lamp c).apply t).rd R.LAMP_RESET_CAUSE
      = t.rd R.LAMP_RESET_CAUSE := fun t c => rd_congr rfl (by simp) (by simp)
  have hs2 : ∀ (t : State) (c : Ports), ((Act.ports c).apply t).rd R.LAMP_RESET_CAUSE
      = t.rd R.LAMP_RESET_CAUSE := fun t c => rd_congr rfl (by simp) (by simp)
  have hs3 := dropPending_keeps (π := fun t => t.rd R.LAMP_RESET_CAUSE)
    (fun s e => rd_congr rfl (by simp) (by simp)) bit
  have hs4 := dropPending_keeps (π := State.lamp) (fun _ _ => rfl) bit
  have hs5 := dropPending_keeps (π := State.flash) (fun _ _ => rfl) bit
  have hs6 := dropPending_keeps (π := State.otp) (fun _ _ => rfl) bit
  simp only [Prog.Keeps] at hs3 hs4 hs5 hs6
  refine ⟨by simp, by simp [hs4], ?_, ?_, by simp [hs4], by simp [hs4], by simp, by simp,
    by simp [hs5], by simp [hs6]⟩
  · rw [hs2, hs1, hs1, logicReset_rd, hs3, hs1, rd_setReg_self, bitN_mod _ _ (by omega)]
    · exact bitN_or_self _ _
    · exact run_sound _ (act_sound _ (run_sound _ h))
    · rintro a (rfl | rfl) <;> decide
  · intro hc
    have e : ∀ v, bitN (v % 256) bit = bitN v bit := fun v => by
      unfold bitN
      interval_cases bit <;> omega
    simp [hs4, e, bitN_or_self]

end Sys2Proof.Machine
end

