-- ==== Sys2Proof/Tests/Slice0.lean ====
section
/-! SUPPORT. Tests of the model: ill-formed commands that the check refuses, single commands
against the spec, and for every statement with hypotheses a case that meets them, clause by
clause. -/

namespace Sys2Proof.Tests
open Machine

set_option Elab.async false
set_option maxRecDepth 100000

/-! ### States the tests start from -/

/-- `s` with this value in a register. -/
def putReg (r : Reg) (v : Nat) (s : State) (i : Nat := 0) (j : Nat := 0) : State :=
  (setReg r v i j).run s

/-- `s` with this value in a field of a register. -/
def putFld (f : Field) (v : Nat) (s : State) (i : Nat := 0) (j : Nat := 0) : State :=
  (setF f v i j).run s

/-- In RUNNING; the rest as after reset. -/
def up : State := { State.reset with lamp.power := .running }

/-- In WAKING at this step; the rest as after reset. -/
def waking (n : Nat) : State :=
  { State.reset with lamp.power := .waking, lamp.wakingStep := n }

/-- In PARKED; the rest as after reset. -/
def parked : State := { State.reset with lamp.power := .parked }

/-- A stop of queue `q` with this opcode, descriptor and run list. -/
def stopOf (op q : Nat) (desc : List Byte) (runs : Option RunList) : Stop :=
  ⟨0, 0, 0, q, 0, leBytes 4 (op + q * 2 ^ 24) ++ zeros 60, desc, runs, .released, .released, false⟩

/-- The open stop that slot `i` executes on these units. -/
def opened (i : Nat) (units : List Nat) (st : Stop) : OpenStop :=
  ⟨i, st, units, [], true, 0, [], 0, none, [], 0, false, false, false, none, []⟩

/-- `s` with this open stop in its slot. -/
def withStop (o : OpenStop) (s : State) : State :=
  { s with wrd.slots := s.wrd.slots.set o.slot (some o) }

/-- `s` with this queue changed. -/
def withQueue (q : Nat) (f : Queue → Queue) (s : State) : State :=
  { s with wrd.queues := s.wrd.queues.set q (f (s.queue q)) }

/-- A pending recovery of unit `u`. -/
def recoveryOf (u step : Nat) : Recovery := ⟨[u], 0x3004, 0, step, 0, [], [], []⟩

/-- A running list of one page run that covers all of Plaza's first 36 MiB, for ranges `r`. -/
def wholePlaza (rs : List Nat) : RunList :=
  ⟨rs.map fun r => ⟨0, 9216, true, true, r⟩, rs.length, 9216, 0, 0, 0, 1⟩

/-- A descriptor with these 52 PARAM bytes at most and these ranges (address, length, RD and WR
bits). -/
def descOf (p : List Byte) (rs : List (Nat × Nat × Nat)) : List Byte :=
  leBytes 2 rs.length ++ zeros 2 ++ leBytes 2 64 ++ (p ++ zeros (58 - p.length))
    ++ (rs.map fun r => leBytes 8 r.1 ++ leBytes 4 r.2.1 ++ leBytes 4 r.2.2).flatten

/-- The 64 bytes of a NOP stop of queue `q`. -/
def nopWords (q : Nat) : List Byte :=
  let w := leBytes 4 (q * 2 ^ 24) ++ leBytes 4 (inv32 (q * 2 ^ 24)) ++ zeros 4
    ++ leBytes 4 (inv32 0) ++ zeros 44
  w ++ leBytes 4 (crc32 w)

theorem sound_of {s : State}
    (h : (([.plaza, .lpddr, .flash, .retA, .retB, .icon, .otp, .img] : List MemId).all fun i =>
      Memory.wf i (s.mem i)) = true ∧ keysWf 0 s.regs = true ∧ keysWf 0 s.rwpPend = true
      ∧ keysWf 0 s.leases = true ∧ (s.leases.all fun e => decide (e.1 < 256)) = true
      ∧ (s.regs.all fun e => decide (e.2 < 2 ^ 32)) = true ∧ s.ring.length ≤ 64) : s.Sound := by
  obtain ⟨hm, h1, h2, h3, h4, hw, hr⟩ := h
  refine ⟨?_, ⟨h1, h2, h3, ?_⟩, ?_, hr⟩
  · intro id
    exact List.all_eq_true.mp hm id (by cases id <;> decide)
  · exact fun e he => by simpa using List.all_eq_true.mp h4 e he
  · exact fun e he => by simpa using List.all_eq_true.mp hw e he

theorem plainAt_of {s : State} {addr : Nat} {h : RegHit}
    (c : findHit addr = some h ∧ h.r.rwp = false ∧ (h.r.rw ≠ 0 ∨ h.r.w1c ≠ 0)
      ∧ ([R.SYS_RESET_CTRL, R.AVE_POISON_CLR, R.XLT_INVAL, R.XLT_ROOT_LO, R.XLT_ROOT_HI,
        R.WRD_Q_CTRL, R.SCO_DSI_TX_GO, R.SGN_SRAM_DATA, R.HVS_CMD, R.I2C_XFER, R.BRG_CMD,
        R.RCL_INJECT].contains h.r) = false
      ∧ addr % 4 = 0 ∧ s.place addr = .block addr ∧ s.blockGated (slotOfAddr addr) = false
      ∧ slotOfAddr addr ≠ 0x70 ∧ s.writeRefused h = false) : s.plainAt addr h :=
  ⟨c.1, c.2.1, c.2.2.1, by simpa using c.2.2.2.1, c.2.2.2.2.1, ⟨addr, c.2.2.2.2.2.1⟩,
    c.2.2.2.2.2.2.1, fun e => absurd e c.2.2.2.2.2.2.2.1, c.2.2.2.2.2.2.2.2⟩

theorem takes_of {s : State} {p : Nat} {m : GspMsg}
    (c : s.portTakes p = true ∧ ((s.port p).executing = none ∧ (s.port p).waiting = none)
      ∧ (s.svc.ports.length = 4 ∧ s.can.length = 2)
      ∧ (s.svc.order = [] ∧ s.boot.flashOp = none ∧ s.lamp.parkStep ≠ 6)
      ∧ (s.port p).rateCount < zeroAsOne (s.fld F.SVC_PORTS_RATE)
      ∧ (1 ≤ m.cmd ∧ m.cmd ≤ 0x10) ∧ (m.plain = true ∧ m.req = 0 ∧ s.argsOk m = true)
      ∧ (s.settled = true ∧ s.lamp.retUnusable = false) ∧ s.holds m = false
      ∧ s.cjUnmirrored + m.entries ≤ 196) : s.takesCmd p m :=
  ⟨c.1, c.2.1, c.2.2.1, c.2.2.2.1, c.2.2.2.2.1, c.2.2.2.2.2.1, c.2.2.2.2.2.2.1, c.2.2.2.2.2.2.2.1,
    c.2.2.2.2.2.2.2.2.1, c.2.2.2.2.2.2.2.2.2⟩

theorem idle_of {s : State} {link : Nat} {d : Side}
    (c : s.brg.link = link ∧ s.brg.queue = [] ∧ s.brg.unacked = [] ∧ s.brg.credits = 64
      ∧ d.seq % 256 = s.brg.rxSeq ∧ d.nak = false) : s.linkIdle link d := c

theorem runsPa_in {b : Nat} (hb : 0 < b) : ∀ (rs : List Run) (off : Nat),
    (∀ r ∈ rs, (r.pfn + r.count) * 4096 ≤ b) → runsPa rs off < b
  | [], _, _ => hb
  | r :: t, off, h => by
    have h1 := h r (by simp)
    have h2 := runsPa_in hb t (off - r.count * 4096) fun x hx => h x (by simp [hx])
    rw [runsPa]
    split <;> omega

/-- Every address of a stop whose runs lie in Plaza is in Plaza. -/
theorem onChip_of {s : State} {st : Stop} (h : ∀ k, ∀ r ∈ st.runsOf k, (r.pfn + r.count) * 4096 ≤ s.plazaTop) :
    ∀ k off, onChip (s.place (st.pa k off)) = true := by
  intro k off
  have hp : 0 < s.plazaTop := by unfold State.plazaTop; split <;> decide
  have := runsPa_in hp (st.runsOf k) (off + (rangeAt st.desc k).va % 4096) (h k)
  simp [Stop.pa, State.place, this, onChip]

/-- Queue 15 runs, with this stop at its head. -/
def enqueued (op : Nat) : State :=
  withQueue 15 (fun x => { x with state := 1, enq := [stopOf op 15 [] none] }) up

/-- In RUNNING, with this crossing. -/
def withCrossing (n : Nat) (v : Nat) : State :=
  { up with xng.cells := [(n, Crossing.fresh v)] }

/-- A display mode of 1280 × 720 pixels at 74.25 MHz is committed, for four lanes of 500 Mb/s. -/
def display : State :=
  putReg R.SCO_H_TIM (1280 + 1650 * 2 ^ 16) <| putReg R.SCO_H_SYNC (40 + 220 * 2 ^ 16) <|
  putReg R.SCO_V_TIM (720 + 750 * 2 ^ 16) <| putReg R.SCO_V_SYNC (5 + 20 * 2 ^ 16) <|
  putReg R.SCO_PCLK 74250 <| putFld F.SCO_DPHY_RATE 500 (putFld F.SCO_DPHY_RATE 500 up) 1

/-- `s` with output 1 changed. -/
def withOutput (f : Output → Output) (s : State) : State :=
  { s with sco.outs := [Output.reset, f Output.reset] }

/-- `s` with the HV side powered and its kill line released. -/
def withHv (f : Hv → Hv) (s : State) : State :=
  { s with hv := f { s.hv with powered := true, kill := false } }

/-- `s` with LED sink 3 changed. -/
def withSink (f : Sink → Sink) (s : State) : State :=
  { s with hv.sinks := [Sink.reset, Sink.reset, Sink.reset, f Sink.reset] }

/-- Queue 15 runs and its next stop is the NOP at byte 64 of Plaza. -/
def fetching : State :=
  withQueue 15 (fun x => { x with state := 1, first := 1, count := 1 })
    { up with plaza := Memory.store 0 MemId.plaza.size [] 64 (nopWords 15) }

/-- Queue 15 runs, its next stop is damaged, and the loader can repair its section. -/
def badFetch : State :=
  putFld F.BOOT_REPAIR_CTRL_REPAIR_EN 1
    { fetching with plaza := []
                    boot.sects := [⟨3, 1, 1, 0, 0, 4, 0, 128, 0, 0, [], 2⟩] }

/-- A FILL stop of queue 15 with one range, its page run, and queue 15 waiting for pool room. -/
def waitingStop : Stop := stopOf 0x03 15 (descOf [0] [(0, 64, 2)]) none
def waitingRuns : RunList := ⟨[⟨0, 1, false, true, 0⟩], 1, 1, 0, 0, 0, 1⟩
def waitingForRoom : State :=
  withQueue 15 (fun x => { x with state := 1, enq := [waitingStop] })
    { up with xlt.waiting := [15] }

/-- The generator runs and output 1 shows content in command mode. -/
def cmdMode : State :=
  { withOutput (fun o => { o with phase := 2, outCfg := 0x1E0601 }) display with
    sco.genRun := true, sco.timing := [1280 + 1650 * 2 ^ 16, 40 + 220 * 2 ^ 16,
      720 + 750 * 2 ^ 16, 5 + 20 * 2 ^ 16, 74250, 0] }

/-- A FILL of the 64 bytes at 4096, and a COPY of them to 8192, each in slot 15. -/
def fillStop : OpenStop :=
  opened 15 [] (stopOf 0x03 15 (descOf [0, 0, 7] [(4096, 64, 2)])
    (some ⟨[⟨1, 1, false, true, 0⟩], 1, 1, 0, 0, 0, 1⟩))
def copyStop : OpenStop :=
  opened 15 [] (stopOf 0x02 15 (descOf [0, 1] [(4096, 64, 1), (8192, 64, 2)])
    (some ⟨[⟨1, 1, true, false, 0⟩, ⟨2, 1, false, true, 1⟩], 2, 2, 0, 0, 0, 1⟩))
def filling : State := withStop fillStop up
def copying : State := withStop copyStop up

theorem filling_ready : filling.ready 15 0x03 fillStop :=
  ⟨by decide +kernel, by decide +kernel, by decide +kernel, by decide +kernel, by decide +kernel,
    by decide +kernel, onChip_of (by
      intro k r h
      simp only [fillStop, opened, stopOf, Stop.runsOf, List.mem_filter, List.mem_singleton] at h
      obtain ⟨rfl, -⟩ := h
      decide), by decide +kernel⟩

theorem copying_ready : copying.ready 15 0x02 copyStop :=
  ⟨by decide +kernel, by decide +kernel, by decide +kernel, by decide +kernel, by decide +kernel,
    by decide +kernel, onChip_of (by
      intro k r h
      simp only [copyStop, opened, stopOf, Stop.runsOf, List.mem_filter, List.mem_cons] at h
      obtain ⟨rfl | rfl | h, -⟩ := h
      · decide
      · decide
      · exact absurd h List.not_mem_nil), by decide +kernel⟩

/-- A stop whose descriptor has no range executes as its work alone decides. -/
theorem ready_plain {s : State} {i op : Nat} {o : OpenStop} (hr : o.stop.runs = none)
    (h : s.live = true ∧ s.executing i op = some o ∧ o.errorSeen = false ∧ o.poisonSeen = false
      ∧ s.ave.plazaErrs = [] ∧ s.ave.ddrErrs = []
      ∧ ∀ p ∈ o.stop.piecesOf false, (s.readMark p.1 p.2).poison = false) : s.ready i op o :=
  ⟨h.1, h.2.1, h.2.2.1, h.2.2.2.1, h.2.2.2.2.1, h.2.2.2.2.2.1,
    onChip_of (by intro k r hm; simp [Stop.runsOf, hr] at hm), h.2.2.2.2.2.2⟩

/-- Nothing reads as poisoned where no tag is set and no error is recorded. -/
theorem noPoison {s : State} {st : Stop} (h1 : s.ave.plazaPoison = ⟨[], []⟩)
    (h2 : s.ave.ddrPoison = ⟨[], []⟩) (h3 : s.ave.plazaErrs = []) (h4 : s.ave.ddrErrs = []) :
    ∀ k off n, (s.readMark (st.pa k off) n).poison = false := by
  intro k off n
  have hp : ∀ a, s.poisonedAt a = false := fun a => by
    unfold State.poisonedAt
    split <;> simp [h1, h2, PoisonTags.has]
  unfold State.readMark
  simp only [hp, h3, h4, errsIn, Bool.or_eq_false_iff]
  refine ⟨by simp, ?_⟩
  split <;> simp

/-- A stop of queue 15 with an empty descriptor, executed in slot 15. -/
def plain (op : Nat) : OpenStop := opened 15 [] (stopOf op 15 [] none)

/-- An OFFER (action 0) or GENERATE (action 1) stop for track 5. -/
def rbtStop (action : Nat) : OpenStop :=
  opened 15 [] (stopOf 0x40 15 (descOf [action, 5] []) none)

/-- A GENERATE stop that generates on stand 1 of track 5. -/
def generating : OpenStop :=
  opened 15 [] (stopOf 0x40 15 (descOf [1, 5, 1] [(0, 64, 1)])
    (some ⟨[⟨0, 1, true, false, 0⟩], 1, 1, 0, 0, 0, 1⟩))

/-- A binned RASTER_PASS stop whose command range is the zeros at 0. -/
def binStop : OpenStop :=
  opened 15 [] (stopOf 0x10 15 (descOf [] [(0, 4096, 1)])
    (some ⟨[⟨0, 1, true, false, 0⟩], 1, 1, 0, 0, 0, 1⟩))

/-- `s` with track 5 changed. -/
def withTrack (f : Track → Track) (s : State) : State :=
  { s with rbt.tracks := List.replicate 5 Track.reset ++ [f Track.reset] }

theorem generating_ready {s : State} (h : s.live = true ∧ s.executing 15 0x40 = some generating
    ∧ s.ave.plazaErrs = [] ∧ s.ave.ddrErrs = [] ∧ 4096 ≤ s.plazaTop
    ∧ ∀ p ∈ generating.stop.piecesOf false, (s.readMark p.1 p.2).poison = false) :
    s.ready 15 0x40 generating :=
  ⟨h.1, h.2.1, rfl, rfl, h.2.2.1, h.2.2.2.1, onChip_of (by
    intro k r m
    simp only [generating, opened, stopOf, Stop.runsOf, List.mem_filter, List.mem_singleton] at m
    obtain ⟨rfl, -⟩ := m
    exact h.2.2.2.2.1), h.2.2.2.2.2⟩

/-- Gate 15, of this kind, with its record in Plaza. -/
def gated (kind : Nat) (started : Bool) : State :=
  { up with rbt.gateCount := 16, rbt.gates := List.replicate 15 Gate.reset ++ [⟨0, started, 0⟩],
            plaza := Memory.store 0 MemId.plaza.size [] 960
              ([BitVec.ofNat 8 kind, 1, 1, 0] ++ leBytes 2 20 ++ leBytes 2 21 ++ leBytes 2 16
                ++ leBytes 2 17 ++ zeros 6 ++ leBytes 2 1 ++ leBytes 4 0 ++ leBytes 4 1000 ++ leBytes 4 8
                ++ leBytes 8 8192 ++ leBytes 8 16384) }

/-- The camera receiver is set up for a window of 16 × 16 pixels. -/
def camera : State :=
  putFld F.CAM_WINDOW_WIDTH 16 <| putFld F.CAM_WINDOW_HEIGHT 16 <| putFld F.CAM_PITCH_BYTES 64 <|
  putFld F.CAM_SLOT_SIZE_BYTES 4096 <| putFld F.CAM_MIN_PERIOD_US 15000 <|
  putFld F.CAM_PHY_CFG_RATE 80 { up with cam.held := false }
def running : State := { putFld F.CAM_STATUS_RUNNING 1 camera with cam.ctrl := 0x102011 }
def camFrame : CamFrame := ⟨1, 0, 16, 16, 15, 15, false, false, false, 0, 0, 0⟩
def inFrame : State := { running with cam.frame := some camFrame }

/-- A combiner instruction that writes all of r7. -/
def someIns : CombIns := ⟨false, 7, 15, ⟨0, 0xE4, false⟩, ⟨1, 0xE4, true⟩, ⟨2, 0, false⟩, 3⟩

/-- `s` with array 199 changed. -/
def withArr (f : Arr → Arr) (s : State) : State :=
  { s with dst.arrs := List.replicate 199 Arr.reset ++ [f Arr.reset] }

/-- Measurements of a column that limits the array to no exact rows. -/
def badCols : List (Nat × List Int) := [(520, [13])]

/-- An ARRAY_LAYER stop and a PAGE_WRITE stop with one map entry each, for logical array 0. -/
def layerStop : OpenStop :=
  opened 15 [] (stopOf 0x20 15 (descOf ([0, 0, 0, 0] ++ leBytes 2 128 ++ leBytes 2 1 ++ zeros 26
    ++ leBytes 2 6 ++ leBytes 2 1 ++ leBytes 2 1) []) none)
def writeStop : OpenStop :=
  opened 15 [] (stopOf 0x21 15 (descOf ([0, 0] ++ leBytes 2 1 ++ leBytes 2 128) []) none)

/-- `s` with CAN controller 1 enabled and changed. -/
def withCan (f : CanCtl → CanCtl) (s : State) : State :=
  { putFld F.CAN_CTRL_EN 1 s 1 with can := [CanCtl.reset, f CanCtl.reset] }
def someTx : CanTx := ⟨false, 0x123, false, true, true, [1, 2], 0⟩

/-- Script thread 3 runs a script of the camera (target 3) with these bytes. -/
def withScript (w : ScriptWait) (bytes : List Byte) : State :=
  { up with boot.scriptBytes := bytes,
            boot.threads := [Thread.idle, Thread.idle, Thread.idle,
              { Thread.idle with scripts := [⟨3, 0, 3, 1000, 0, max 4 bytes.length⟩], wait := w }] }

/-- The bytes of a script operation. -/
def opBytes (code arg : Nat) (data : List Byte) : List Byte :=
  leBytes 4 (code + arg * 2 ^ 8 + data.length * 2 ^ 16) ++ data

/-- Thread 3 is ready for this operation. -/
def scripting (code arg : Nat) (data : List Byte) : State := withScript .none (opBytes code arg data)

/-- Thread 3 waits within a WAIT operation, or within this one. -/
def waitingFor (w : ScriptWait) : State := withScript w (opBytes 3 0 (leBytes 4 5))
def waitingOn (w : ScriptWait) (code arg : Nat) (data : List Byte) : State :=
  withScript w (opBytes code arg data)

/-- An I2C_EXPECT of the value 5 in one byte, with one retry. -/
def expectData : List Byte := [0x50, 1, 0, 0, 1, 1, 0, 0, 0xFF, 0, 0, 0, 5, 0, 0, 0]
def expecting : State := scripting 2 1 expectData

/-- `s` with this transfer on I2C controller 1. -/
def transfer (x : I2cXfer) (s : State) : State := { s with ports.i2c := [none, some x] }

/-- A record of the CONFIG section with its complement (Table 03-11). -/
def confRec (typ id : Nat) (payload : List Byte) : List Byte :=
  let b := leBytes 2 typ ++ leBytes 2 id ++ leBytes 4 payload.length ++ payload
  b ++ b.map (~~~·)

/-- The END record. -/
def endRec : List Byte := confRec 0xFF 1 (zeros 4)

/-- The loader is in this phase with a readable flash. -/
def loading (phase : Nat) : State := { up with boot.phase := phase, boot.flashReady := true }

/-- Bytes from an address on, as memory cells. -/
def cells (at_ : Nat) (bs : List Byte) : Memory := ((upTo bs.length).map (at_ + ·)).zip bs

/-- An image of three sections whose key makes its signature valid: the hash is both r and s, and
the key is the point with that x coordinate less the base point. Address, count, and the bytes as
a number, highest first; every other byte is 0xFF. -/
def imageWords : List (Nat × Nat × Nat) :=
  [(0, 16, 0x4452545501000001c302000003000000),
   (24, 20, 0x1000003004000c00100000000000000000000),
   (48, 4, 0x8004),
   (252, 20, 0xc54984c10100010000000002c002000001000000),
   (320, 16, 0x200020000000002c102000001000000),
   (384, 16, 0x400030000000001c202000001000000),
   (448, 32, 0x445349470100ffff0cb42643cfbf70df622ff1319cae08e515694d4570a404e4),
   (480, 32, 0x5c2bd41fb0e1f5d61454bf98da5484f0383ff7d9a74b89e79d06852dd906ad0a),
   (512, 32, 0xbe6e49c072ef546caa66f7a4535ef4165b15d53a6ecae861ef4b215731a7bad4),
   (544, 32, 0xdb18d295b59a08a9aa66f7a4535ef4165b15d53a6ecae861ef4b215731a7bad4),
   (576, 8, 0xdb18d295b59a08a9)]
def goodFlash : Memory := (imageWords.map fun w => cells w.1 (beBytes w.2.1 w.2.2)).flatten

/-- The CONFIG section at byte 64 of the flash holds an END record. -/
def configChecking : State :=
  { loading 2 with flash := cells 64 endRec
                   boot.sects := [⟨1, 1, 0, 1, 0, 2, 64, 24, 0, 0, sha256 endRec, 0⟩] }

/-- The loader applies this record. -/
def applying (typ : Nat) (payload : List Byte) : State :=
  { loading 2 with boot.config := confRec typ 1 payload }

/-- The payload of a DDR record: two channels of 512 MiB at 4266 MT/s or no memory. -/
def ddrPayload (present : Nat) : List Byte :=
  leBytes 1 present ++ [1] ++ leBytes 2 4266 ++ leBytes 2 512 ++ [2] ++ zeros 25

/-- An ICON section of the EARLY phase, and the loader loading it. -/
def iconSect : Sect := ⟨4, 1, 0, 1, 1, 1, 64, 4, 0, 0, sha256 (List.replicate 4 0xFF), 0⟩
def sectionLoading : State := { loading 3 with boot.sects := [iconSect] }

/-- A section of four bytes in repair. -/
def repairedSect : Sect := ⟨3, 1, 0, 0, 0, 4, 64, 4, 0, 0, sha256 (List.replicate 4 0xFF), 2⟩
def repairing : State := { up with boot.sects := [repairedSect], boot.repairs := [⟨0, [], 0⟩] }

theorem notBad {s : State} (h : (s.wrd.queues.all fun x => !x.badStop) = true) :
    ∀ q, (s.queue q).badStop = false := by
  intro q
  unfold State.queue nth
  rw [List.getD_eq_getElem?_getD]
  cases hq : s.wrd.queues[q]? with
  | none => rfl
  | some x => simpa using List.all_eq_true.mp h x (List.mem_of_getElem? hq)

theorem noneHeld {s : State} (h : (s.svc.ports.all fun x => x.held.isNone) = true) :
    ∀ p, (s.port p).held = none := by
  intro p
  unfold State.port nth
  rw [List.getD_eq_getElem?_getD]
  cases hp : s.svc.ports[p]? with
  | none => rfl
  | some x => simpa using List.all_eq_true.mp h x (List.mem_of_getElem? hp)

/-- The loader has settled and the service ports run. -/
def serving : State := { loading 6 with svc.portsRun := true }

/-- CAN controller 1 takes signal 63 from a frame with identifier 5. -/
def intaking : State :=
  putReg R.SVC_SIG_ID (2 ^ 31 + identWord 1 5 false) (putReg R.SVC_SIG_MAX 9
    { withCan id up with svc.intakeRun := true } 63) 63

/-- An IDENT request with REQ 7, as the SPI carries it. -/
def spiIdent : List Byte :=
  let b : List Byte := [1, 1, 0, 0] ++ leBytes 4 7 ++ zeros 4
  b ++ leBytes 4 (crc32 b)

/-- The loader may mirror; an operation of this user is in progress on the flash. -/
def mirroring : State := { serving with boot.persistLen := 4096, boot.sects := [iconSect] }
def flashing (u : FlashUser) : State :=
  { serving with boot.flashOp := some ⟨u, false, 4096, 1, [1], 0⟩, svc.mirror := some ⟨1, 5, []⟩ }

/-- The Bridge in this state; in the primary and in the secondary role. -/
def bridge (link : Nat) : State := { up with brg.link := link }
def primary (link : Nat) : State :=
  putFld F.SYS_STATE_ROLE 1 { bridge link with boot.buildId := 5 }
def secondary (link : Nat) : State := putFld F.SYS_STATE_ROLE 2 (bridge link)
def somePkt : Pkt := ⟨0x10, 0, 0, 0, 0, []⟩
def someProfile : Profile := ⟨1, 2, 1, 0, 0, 0, 0, 0, 0, 0, 0, 0, 0, 0, 0⟩

/-- The Bridge with a mailbox of four pages at 1 MiB. -/
def mailed (link : Nat) : State :=
  { putFld F.BRG_MBX_BASE_PFN 256 (putFld F.BRG_MBX_SIZE_PAGES 4 (bridge link)) with
    time := 1000 }

/-- Queue 15 runs, with a LOCK or UNLOCK stop of page 0 at its head. -/
def lockStop (op : Nat) : Stop := stopOf op 15 (descOf [2] [(0, 64, 2)]) (some waitingRuns)
def lockQueue (op : Nat) : State :=
  withQueue 15 (fun x => { x with state := 1, enq := [lockStop op] }) up

/-- Core 15 runs a fragment program of the raster stop in slot 15, with four textures. -/
def shading : State :=
  { withStop (plain 0x10) up with
    ras.cores := List.replicate 15 Core.reset
      ++ [{ Core.reset with slot := some 15, fragment := true, tex := [0, 1, 2, 3] }] }

/-- A compute stop with this operation. -/
def computing (op : Nat) : OpenStop :=
  opened 15 [] (stopOf 0x11 15 (descOf [BitVec.ofNat 8 op] []) none)

/-! ### Ill-formed commands -/

theorem test_ill_formed_0 :
    ¬ (Instr.pllLocked 9).WellFormed ∧ ¬ (Instr.pllLossOfLock 0).WellFormed ∧ ¬
    (Instr.pllLossOfLock 9).WellFormed ∧ ¬ (Instr.wakeInputEdge 3 false).WellFormed ∧ ¬
    (Instr.wakeFilterElapsed 3).WellFormed ∧ ¬ (Instr.pwrGoodRise ⟨4, false, false,
    false⟩).WellFormed ∧ ¬ (Instr.unitClockStarted 256).WellFormed ∧ ¬ (Instr.autoGateIdle
    256).WellFormed ∧ ¬ (Instr.resetNRelease ⟨4, false, false, false⟩).WellFormed ∧ ¬
    (Instr.i2cWrite 4).WellFormed ∧ ¬ (Instr.i2cExpect 4).WellFormed ∧ ¬ (Instr.wait
    4).WellFormed ∧ ¬ (Instr.pinSet 4).WellFormed ∧ ¬ (Instr.pinWait 4).WellFormed ∧ ¬
    (Instr.dsiCmd 4).WellFormed ∧ ¬ (Instr.scriptEnd 4).WellFormed ∧ ¬ (Instr.scriptTimeout
    4).WellFormed ∧ ¬ (Instr.pinWaitTimeout 4).WellFormed ∧ ¬ (Instr.i2cTransferDone 2 false
    []).WellFormed ∧ ¬ (Instr.i2cRetryInterval 2).WellFormed := by
  and_intros <;> decide +kernel

theorem test_ill_formed_1 :
    ¬ (Instr.i2cStretchTimeout 2).WellFormed ∧ ¬ (Instr.i2cXferStart 2 0).WellFormed ∧ ¬
    (Instr.i2cXferStart 0 (2 ^ 32)).WellFormed ∧ ¬ (Instr.linkParityError 36 0 false
    []).WellFormed ∧ ¬ (Instr.linkParityError 0 4 false []).WellFormed ∧ ¬ (Instr.lpddrMr4Poll 8
    0 false).WellFormed ∧ ¬ (Instr.lpddrMr4Poll 0 3 false).WellFormed ∧ ¬ (Instr.xltInvalidate
    16).WellFormed ∧ ¬ (Instr.xltRootCommit 16 0).WellFormed ∧ ¬ (Instr.xltRootCommit 0 (2 ^
    32)).WellFormed ∧ ¬ (Instr.poisonClear (2 ^ 32)).WellFormed ∧ ¬ (Instr.wardenDivergence
    2).WellFormed ∧ ¬ (Instr.stopEnqueue 16).WellFormed ∧ ¬ (Instr.stopDispatch 2 0).WellFormed
    ∧ ¬ (Instr.stopComplete 64).WellFormed ∧ ¬ (Instr.stopWatchdogExpire 64 0).WellFormed ∧ ¬
    (Instr.stopWatchdogExpire 0 256).WellFormed ∧ ¬ (Instr.granuleOverrun 16 0).WellFormed ∧ ¬
    (Instr.granuleAbort 16).WellFormed ∧ ¬ (Instr.granuleBoundary 16 ⟨0, 0, 0, 0⟩ 0).WellFormed := by
  and_intros <;> decide +kernel

theorem test_ill_formed_2 :
    ¬ (Instr.signalAdd 1024 0 false).WellFormed ∧ ¬ (Instr.signalAdd 0 (2 ^ 32)
    false).WellFormed ∧ ¬ (Instr.signalSet 1024 0 false).WellFormed ∧ ¬ (Instr.signalSet 0 (2 ^
    32) false).WellFormed ∧ ¬ (Instr.signalRelease 1024 0).WellFormed ∧ ¬ (Instr.signalRelease 0
    16).WellFormed ∧ ¬ (Instr.queueLeaseExpire 256).WellFormed ∧ ¬ (Instr.queueHalt
    16).WellFormed ∧ ¬ (Instr.queueResume 16).WellFormed ∧ ¬ (Instr.queueDrainExpire
    16).WellFormed ∧ ¬ (Instr.xngSet 1024 0).WellFormed ∧ ¬ (Instr.xngSet 0 (2 ^ 32)).WellFormed
    ∧ ¬ (Instr.nop 16).WellFormed ∧ ¬ (Instr.startRoute 16).WellFormed ∧ ¬ (Instr.copy
    64).WellFormed ∧ ¬ (Instr.fill 64).WellFormed ∧ ¬ (Instr.lock 16).WellFormed ∧ ¬
    (Instr.unlock 16).WellFormed ∧ ¬ (Instr.rasterPass 64).WellFormed ∧ ¬ (Instr.computeAdd
    64).WellFormed := by
  and_intros <;> decide +kernel

theorem test_ill_formed_3 :
    ¬ (Instr.computeSub 64).WellFormed ∧ ¬ (Instr.computeMul 64).WellFormed ∧ ¬
    (Instr.computeMax 64).WellFormed ∧ ¬ (Instr.computeMin 64).WellFormed ∧ ¬ (Instr.computeRelu
    64).WellFormed ∧ ¬ (Instr.computeCvt 64).WellFormed ∧ ¬ (Instr.computeBlend 64).WellFormed ∧
    ¬ (Instr.computeResample 64).WellFormed ∧ ¬ (Instr.computeNorm 64).WellFormed ∧ ¬
    (Instr.computeSoftmax 64).WellFormed ∧ ¬ (Instr.compose 64).WellFormed ∧ ¬ (Instr.mov 16
    ⟨false, 0, 0, ⟨0, 0, false⟩, ⟨0, 0, false⟩, ⟨0, 0, false⟩, 0⟩).WellFormed ∧ ¬ (Instr.mov 0
    ⟨false, 64, 0, ⟨0, 0, false⟩, ⟨0, 0, false⟩, ⟨0, 0, false⟩, 0⟩).WellFormed ∧ ¬ (Instr.mov 0
    ⟨false, 0, 16, ⟨0, 0, false⟩, ⟨0, 0, false⟩, ⟨0, 0, false⟩, 0⟩).WellFormed ∧ ¬ (Instr.mov 0
    ⟨false, 0, 0, ⟨64, 0, false⟩, ⟨0, 0, false⟩, ⟨0, 0, false⟩, 0⟩).WellFormed ∧ ¬ (Instr.mov 0
    ⟨false, 0, 0, ⟨0, 256, false⟩, ⟨0, 0, false⟩, ⟨0, 0, false⟩, 0⟩).WellFormed ∧ ¬ (Instr.mov 0
    ⟨false, 0, 0, ⟨0, 0, false⟩, ⟨64, 0, false⟩, ⟨0, 0, false⟩, 0⟩).WellFormed ∧ ¬ (Instr.mov 0
    ⟨false, 0, 0, ⟨0, 0, false⟩, ⟨0, 256, false⟩, ⟨0, 0, false⟩, 0⟩).WellFormed ∧ ¬ (Instr.mov 0
    ⟨false, 0, 0, ⟨0, 0, false⟩, ⟨0, 0, false⟩, ⟨64, 0, false⟩, 0⟩).WellFormed ∧ ¬ (Instr.mov 0
    ⟨false, 0, 0, ⟨0, 0, false⟩, ⟨0, 0, false⟩, ⟨0, 256, false⟩, 0⟩).WellFormed := by
  and_intros <;> decide +kernel

theorem test_ill_formed_4 :
    ¬ (Instr.mov 0 ⟨false, 0, 0, ⟨0, 0, false⟩, ⟨0, 0, false⟩, ⟨0, 0, false⟩, 4⟩).WellFormed ∧ ¬
    (Instr.add 16 ⟨false, 0, 0, ⟨0, 0, false⟩, ⟨0, 0, false⟩, ⟨0, 0, false⟩, 0⟩).WellFormed ∧ ¬
    (Instr.add 0 ⟨false, 64, 0, ⟨0, 0, false⟩, ⟨0, 0, false⟩, ⟨0, 0, false⟩, 0⟩).WellFormed ∧ ¬
    (Instr.sub 16 ⟨false, 0, 0, ⟨0, 0, false⟩, ⟨0, 0, false⟩, ⟨0, 0, false⟩, 0⟩).WellFormed ∧ ¬
    (Instr.sub 0 ⟨false, 64, 0, ⟨0, 0, false⟩, ⟨0, 0, false⟩, ⟨0, 0, false⟩, 0⟩).WellFormed ∧ ¬
    (Instr.mul 16 ⟨false, 0, 0, ⟨0, 0, false⟩, ⟨0, 0, false⟩, ⟨0, 0, false⟩, 0⟩).WellFormed ∧ ¬
    (Instr.mul 0 ⟨false, 64, 0, ⟨0, 0, false⟩, ⟨0, 0, false⟩, ⟨0, 0, false⟩, 0⟩).WellFormed ∧ ¬
    (Instr.mad 16 ⟨false, 0, 0, ⟨0, 0, false⟩, ⟨0, 0, false⟩, ⟨0, 0, false⟩, 0⟩).WellFormed ∧ ¬
    (Instr.mad 0 ⟨false, 64, 0, ⟨0, 0, false⟩, ⟨0, 0, false⟩, ⟨0, 0, false⟩, 0⟩).WellFormed ∧ ¬
    (Instr.lrp 16 ⟨false, 0, 0, ⟨0, 0, false⟩, ⟨0, 0, false⟩, ⟨0, 0, false⟩, 0⟩).WellFormed ∧ ¬
    (Instr.lrp 0 ⟨false, 64, 0, ⟨0, 0, false⟩, ⟨0, 0, false⟩, ⟨0, 0, false⟩, 0⟩).WellFormed ∧ ¬
    (Instr.min 16 ⟨false, 0, 0, ⟨0, 0, false⟩, ⟨0, 0, false⟩, ⟨0, 0, false⟩, 0⟩).WellFormed ∧ ¬
    (Instr.min 0 ⟨false, 64, 0, ⟨0, 0, false⟩, ⟨0, 0, false⟩, ⟨0, 0, false⟩, 0⟩).WellFormed ∧ ¬
    (Instr.max 16 ⟨false, 0, 0, ⟨0, 0, false⟩, ⟨0, 0, false⟩, ⟨0, 0, false⟩, 0⟩).WellFormed ∧ ¬
    (Instr.max 0 ⟨false, 64, 0, ⟨0, 0, false⟩, ⟨0, 0, false⟩, ⟨0, 0, false⟩, 0⟩).WellFormed ∧ ¬
    (Instr.clmp 16 ⟨false, 0, 0, ⟨0, 0, false⟩, ⟨0, 0, false⟩, ⟨0, 0, false⟩, 0⟩).WellFormed ∧ ¬
    (Instr.clmp 0 ⟨false, 64, 0, ⟨0, 0, false⟩, ⟨0, 0, false⟩, ⟨0, 0, false⟩, 0⟩).WellFormed ∧ ¬
    (Instr.dp2 16 ⟨false, 0, 0, ⟨0, 0, false⟩, ⟨0, 0, false⟩, ⟨0, 0, false⟩, 0⟩).WellFormed ∧ ¬
    (Instr.dp2 0 ⟨false, 64, 0, ⟨0, 0, false⟩, ⟨0, 0, false⟩, ⟨0, 0, false⟩, 0⟩).WellFormed ∧ ¬
    (Instr.dp3 16 ⟨false, 0, 0, ⟨0, 0, false⟩, ⟨0, 0, false⟩, ⟨0, 0, false⟩, 0⟩).WellFormed := by
  and_intros <;> decide +kernel

theorem test_ill_formed_5 :
    ¬ (Instr.dp3 0 ⟨false, 64, 0, ⟨0, 0, false⟩, ⟨0, 0, false⟩, ⟨0, 0, false⟩, 0⟩).WellFormed ∧
    ¬ (Instr.dp4 16 ⟨false, 0, 0, ⟨0, 0, false⟩, ⟨0, 0, false⟩, ⟨0, 0, false⟩, 0⟩).WellFormed ∧
    ¬ (Instr.dp4 0 ⟨false, 64, 0, ⟨0, 0, false⟩, ⟨0, 0, false⟩, ⟨0, 0, false⟩, 0⟩).WellFormed ∧
    ¬ (Instr.rcp 16 ⟨false, 0, 0, ⟨0, 0, false⟩, ⟨0, 0, false⟩, ⟨0, 0, false⟩, 0⟩).WellFormed ∧
    ¬ (Instr.rcp 0 ⟨false, 64, 0, ⟨0, 0, false⟩, ⟨0, 0, false⟩, ⟨0, 0, false⟩, 0⟩).WellFormed ∧
    ¬ (Instr.rsq 16 ⟨false, 0, 0, ⟨0, 0, false⟩, ⟨0, 0, false⟩, ⟨0, 0, false⟩, 0⟩).WellFormed ∧
    ¬ (Instr.rsq 0 ⟨false, 64, 0, ⟨0, 0, false⟩, ⟨0, 0, false⟩, ⟨0, 0, false⟩, 0⟩).WellFormed ∧
    ¬ (Instr.exp2 16 ⟨false, 0, 0, ⟨0, 0, false⟩, ⟨0, 0, false⟩, ⟨0, 0, false⟩, 0⟩).WellFormed ∧
    ¬ (Instr.exp2 0 ⟨false, 64, 0, ⟨0, 0, false⟩, ⟨0, 0, false⟩, ⟨0, 0, false⟩, 0⟩).WellFormed ∧
    ¬ (Instr.log2 16 ⟨false, 0, 0, ⟨0, 0, false⟩, ⟨0, 0, false⟩, ⟨0, 0, false⟩, 0⟩).WellFormed ∧
    ¬ (Instr.log2 0 ⟨false, 64, 0, ⟨0, 0, false⟩, ⟨0, 0, false⟩, ⟨0, 0, false⟩, 0⟩).WellFormed ∧
    ¬ (Instr.frc 16 ⟨false, 0, 0, ⟨0, 0, false⟩, ⟨0, 0, false⟩, ⟨0, 0, false⟩, 0⟩).WellFormed ∧
    ¬ (Instr.frc 0 ⟨false, 64, 0, ⟨0, 0, false⟩, ⟨0, 0, false⟩, ⟨0, 0, false⟩, 0⟩).WellFormed ∧
    ¬ (Instr.flr 16 ⟨false, 0, 0, ⟨0, 0, false⟩, ⟨0, 0, false⟩, ⟨0, 0, false⟩, 0⟩).WellFormed ∧
    ¬ (Instr.flr 0 ⟨false, 64, 0, ⟨0, 0, false⟩, ⟨0, 0, false⟩, ⟨0, 0, false⟩, 0⟩).WellFormed ∧
    ¬ (Instr.slt 16 ⟨false, 0, 0, ⟨0, 0, false⟩, ⟨0, 0, false⟩, ⟨0, 0, false⟩, 0⟩).WellFormed ∧
    ¬ (Instr.slt 0 ⟨false, 64, 0, ⟨0, 0, false⟩, ⟨0, 0, false⟩, ⟨0, 0, false⟩, 0⟩).WellFormed ∧
    ¬ (Instr.sge 16 ⟨false, 0, 0, ⟨0, 0, false⟩, ⟨0, 0, false⟩, ⟨0, 0, false⟩, 0⟩).WellFormed ∧
    ¬ (Instr.sge 0 ⟨false, 64, 0, ⟨0, 0, false⟩, ⟨0, 0, false⟩, ⟨0, 0, false⟩, 0⟩).WellFormed ∧
    ¬ (Instr.cmp 16 ⟨false, 0, 0, ⟨0, 0, false⟩, ⟨0, 0, false⟩, ⟨0, 0, false⟩, 0⟩).WellFormed := by
  and_intros <;> decide +kernel

theorem test_ill_formed_6 :
    ¬ (Instr.cmp 0 ⟨false, 64, 0, ⟨0, 0, false⟩, ⟨0, 0, false⟩, ⟨0, 0, false⟩, 0⟩).WellFormed ∧
    ¬ (Instr.tex 16 ⟨false, 0, 0, ⟨0, 0, false⟩, ⟨0, 0, false⟩, ⟨0, 0, false⟩, 0⟩).WellFormed ∧
    ¬ (Instr.tex 0 ⟨false, 64, 0, ⟨0, 0, false⟩, ⟨0, 0, false⟩, ⟨0, 0, false⟩, 0⟩).WellFormed ∧
    ¬ (Instr.scs 16 ⟨false, 0, 0, ⟨0, 0, false⟩, ⟨0, 0, false⟩, ⟨0, 0, false⟩, 0⟩).WellFormed ∧
    ¬ (Instr.scs 0 ⟨false, 64, 0, ⟨0, 0, false⟩, ⟨0, 0, false⟩, ⟨0, 0, false⟩, 0⟩).WellFormed ∧
    ¬ (Instr.kil 16 ⟨false, 0, 0, ⟨0, 0, false⟩, ⟨0, 0, false⟩, ⟨0, 0, false⟩, 0⟩).WellFormed ∧
    ¬ (Instr.kil 0 ⟨false, 64, 0, ⟨0, 0, false⟩, ⟨0, 0, false⟩, ⟨0, 0, false⟩, 0⟩).WellFormed ∧
    ¬ (Instr.arrayLayer 64 ⟨none, []⟩).WellFormed ∧ ¬ (Instr.arrayPass 64 0 0 ⟨[], [], [],
    []⟩).WellFormed ∧ ¬ (Instr.pageWrite 64).WellFormed ∧ ¬ (Instr.pageWriteDone 200
    false).WellFormed ∧ ¬ (Instr.calibrationPeriodExpire 200).WellFormed ∧ ¬
    (Instr.calibrationGraceExpire 200).WellFormed ∧ ¬ (Instr.calibrationDone 200 []).WellFormed
    ∧ ¬ (Instr.sweepStep 200 ⟨[], []⟩ []).WellFormed ∧ ¬ (Instr.warp 64 false).WellFormed ∧ ¬
    (Instr.pyramid 64 false).WellFormed ∧ ¬ (Instr.motion 64 false).WellFormed ∧ ¬ (Instr.stats
    64 false).WellFormed ∧ ¬ (Instr.csiFrameStart ⟨4, 0⟩ 0).WellFormed := by
  and_intros <;> decide +kernel

theorem test_ill_formed_7 :
    ¬ (Instr.csiFrameStart ⟨0, 3⟩ 0).WellFormed ∧ ¬ (Instr.csiFrameStart ⟨0, 0⟩
    65536).WellFormed ∧ ¬ (Instr.csiFrameEnd ⟨4, 0⟩).WellFormed ∧ ¬ (Instr.csiLongPacket 4 0 0
    [] false).WellFormed ∧ ¬ (Instr.csiLongPacket 0 64 0 [] false).WellFormed ∧ ¬
    (Instr.csiLongPacket 0 0 3 [] false).WellFormed ∧ ¬ (Instr.csiLongPacket 0 0 0
    (List.replicate 65536 0) false).WellFormed ∧ ¬ (Instr.csiIgnoredPacket ⟨4, 0⟩).WellFormed ∧
    ¬ (Instr.camStart (2 ^ 32)).WellFormed ∧ ¬ (Instr.camStop (2 ^ 32)).WellFormed ∧ ¬
    (Instr.offer 64).WellFormed ∧ ¬ (Instr.generate 64 false).WellFormed ∧ ¬
    (Instr.relocationCopyDone 6).WellFormed ∧ ¬ (Instr.gateIterationStart 16).WellFormed ∧ ¬
    (Instr.gateBindSequence 16).WellFormed ∧ ¬ (Instr.gateBindIntake 16).WellFormed ∧ ¬
    (Instr.gateWaitLimit 16).WellFormed ∧ ¬ (Instr.trackEnable 6 0).WellFormed ∧ ¬
    (Instr.trackEnable 0 (2 ^ 32)).WellFormed ∧ ¬ (Instr.trackDisable 6 0).WellFormed := by
  and_intros <;> decide +kernel

theorem test_ill_formed_8 :
    ¬ (Instr.trackDisable 0 (2 ^ 32)).WellFormed ∧ ¬ (Instr.teEdge 2 false 0).WellFormed ∧ ¬
    (Instr.outputEnable 2).WellFormed ∧ ¬ (Instr.outputDisable 2).WellFormed ∧ ¬
    (Instr.displayModeChange 10 0).WellFormed ∧ ¬ (Instr.displayModeChange 0 (2 ^
    32)).WellFormed ∧ ¬ (Instr.colourRangeChange 2 0).WellFormed ∧ ¬ (Instr.colourRangeChange 0
    2).WellFormed ∧ ¬ (Instr.modeChangeIdleEnd 2).WellFormed ∧ ¬ (Instr.panelSequenceWaitEnd
    2).WellFormed ∧ ¬ (Instr.dsiTxGo 2).WellFormed ∧ ¬ (Instr.iconEnable 64 0).WellFormed ∧ ¬
    (Instr.iconEnable 0 (2 ^ 32)).WellFormed ∧ ¬ (Instr.sgnSramAccess false (2 ^ 32)).WellFormed
    ∧ ¬ (Instr.hvWrite 16 0 0).WellFormed ∧ ¬ (Instr.hvWrite 0 256 0).WellFormed ∧ ¬
    (Instr.hvWrite 0 0 (2 ^ 32)).WellFormed ∧ ¬ (Instr.hvAck 16).WellFormed ∧ ¬ (Instr.hvStatus
    256 0).WellFormed ∧ ¬ (Instr.hvStatus 0 (2 ^ 32)).WellFormed := by
  and_intros <;> decide +kernel

theorem test_ill_formed_9 :
    ¬ (Instr.hvHeartbeat 16).WellFormed ∧ ¬ (Instr.hvResync 16).WellFormed ∧ ¬
    (Instr.vbatConversion (2 ^ 12)).WellFormed ∧ ¬ (Instr.sinkOnTimeEnd 4 0).WellFormed ∧ ¬
    (Instr.sinkZeroTimeout 4).WellFormed ∧ ¬ (Instr.rangeChange 4 0).WellFormed ∧ ¬
    (Instr.rangeChange 0 (2 ^ 32)).WellFormed ∧ ¬ (Instr.rangeSettled 4).WellFormed ∧ ¬
    (Instr.ntcConversionStart 3).WellFormed ∧ ¬ (Instr.ntcConversionEnd 3 0 0).WellFormed ∧ ¬
    (Instr.ntcConversionEnd 0 4096 0).WellFormed ∧ ¬ (Instr.ntcConversionEnd 0 0
    4096).WellFormed ∧ ¬ (Instr.blOnDelayExpire 2).WellFormed ∧ ¬ (Instr.canFrameReceived 2 0
    false false [] false).WellFormed ∧ ¬ (Instr.canFrameReceived 0 (2 ^ 11) false false []
    false).WellFormed ∧ ¬ (Instr.canFrameReceived 0 (2 ^ 29) true false [] false).WellFormed ∧ ¬
    (Instr.canFrameReceived 0 0 false false (List.replicate 65 0) false).WellFormed ∧ ¬
    (Instr.canFrameTransmitted 2).WellFormed ∧ ¬ (Instr.canBusOff 2).WellFormed ∧ ¬
    (Instr.canBusOffRecovery 2).WellFormed := by
  and_intros <;> decide +kernel

theorem test_ill_formed_10 :
    ¬ (Instr.canHoldoffEnd 2).WellFormed ∧ ¬ (Instr.canTxAbandon 2).WellFormed ∧ ¬
    (Instr.signalStale 64).WellFormed ∧ ¬ (Instr.gspSegmentTimeout 2).WellFormed ∧ ¬
    (Instr.gspIdent 4 0 []).WellFormed ∧ ¬ (Instr.gspIdent 0 (2 ^ 32) []).WellFormed ∧ ¬
    (Instr.gspIdent 0 0 (List.replicate 1025 0)).WellFormed ∧ ¬ (Instr.gspRegRead 4 0
    []).WellFormed ∧ ¬ (Instr.gspRegRead 0 (2 ^ 32) []).WellFormed ∧ ¬ (Instr.gspRegRead 0 0
    (List.replicate 1025 0)).WellFormed ∧ ¬ (Instr.gspRegWrite 4 0 []).WellFormed ∧ ¬
    (Instr.gspRegWrite 0 (2 ^ 32) []).WellFormed ∧ ¬ (Instr.gspRegWrite 0 0 (List.replicate 1025
    0)).WellFormed ∧ ¬ (Instr.gspMemRead 4 0 []).WellFormed ∧ ¬ (Instr.gspMemRead 0 (2 ^ 32)
    []).WellFormed ∧ ¬ (Instr.gspMemRead 0 0 (List.replicate 1025 0)).WellFormed ∧ ¬
    (Instr.gspMemWrite 4 0 []).WellFormed ∧ ¬ (Instr.gspMemWrite 0 (2 ^ 32) []).WellFormed ∧ ¬
    (Instr.gspMemWrite 0 0 (List.replicate 1025 0)).WellFormed ∧ ¬ (Instr.gspConfigApply 4 0
    []).WellFormed := by
  and_intros <;> decide +kernel

theorem test_ill_formed_11 :
    ¬ (Instr.gspConfigApply 0 (2 ^ 32) []).WellFormed ∧ ¬ (Instr.gspConfigApply 0 0
    (List.replicate 1025 0)).WellFormed ∧ ¬ (Instr.gspConfigRead 4 0 [] false).WellFormed ∧ ¬
    (Instr.gspConfigRead 0 (2 ^ 32) [] false).WellFormed ∧ ¬ (Instr.gspConfigRead 0 0
    (List.replicate 1025 0) false).WellFormed ∧ ¬ (Instr.gspFlashRead 4 0 [] false).WellFormed ∧
    ¬ (Instr.gspFlashRead 0 (2 ^ 32) [] false).WellFormed ∧ ¬ (Instr.gspFlashRead 0 0
    (List.replicate 1025 0) false).WellFormed ∧ ¬ (Instr.gspFlashErase 4 0 []).WellFormed ∧ ¬
    (Instr.gspFlashErase 0 (2 ^ 32) []).WellFormed ∧ ¬ (Instr.gspFlashErase 0 0 (List.replicate
    1025 0)).WellFormed ∧ ¬ (Instr.gspFlashProgram 4 0 []).WellFormed ∧ ¬ (Instr.gspFlashProgram
    0 (2 ^ 32) []).WellFormed ∧ ¬ (Instr.gspFlashProgram 0 0 (List.replicate 1025 0)).WellFormed
    ∧ ¬ (Instr.gspJournalRead 4 0 [] false).WellFormed ∧ ¬ (Instr.gspJournalRead 0 (2 ^ 32) []
    false).WellFormed ∧ ¬ (Instr.gspJournalRead 0 0 (List.replicate 1025 0) false).WellFormed ∧
    ¬ (Instr.gspRestart 4 0 []).WellFormed ∧ ¬ (Instr.gspRestart 0 (2 ^ 32) []).WellFormed ∧ ¬
    (Instr.gspRestart 0 0 (List.replicate 1025 0)).WellFormed := by
  and_intros <;> decide +kernel

theorem test_ill_formed_12 :
    ¬ (Instr.gspOtpKey 4 0 []).WellFormed ∧ ¬ (Instr.gspOtpKey 0 (2 ^ 32) []).WellFormed ∧ ¬
    (Instr.gspOtpKey 0 0 (List.replicate 1025 0)).WellFormed ∧ ¬ (Instr.gspOtpRevoke 4 0
    []).WellFormed ∧ ¬ (Instr.gspOtpRevoke 0 (2 ^ 32) []).WellFormed ∧ ¬ (Instr.gspOtpRevoke 0 0
    (List.replicate 1025 0)).WellFormed ∧ ¬ (Instr.gspIntakeEvent 4 0 []).WellFormed ∧ ¬
    (Instr.gspIntakeEvent 0 (2 ^ 32) []).WellFormed ∧ ¬ (Instr.gspIntakeEvent 0 0
    (List.replicate 1025 0)).WellFormed ∧ ¬ (Instr.gspResult 4 0 []).WellFormed ∧ ¬
    (Instr.gspResult 0 (2 ^ 32) []).WellFormed ∧ ¬ (Instr.gspResult 0 0 (List.replicate 1025
    0)).WellFormed ∧ ¬ (Instr.canDisable 2).WellFormed ∧ ¬ (Instr.servicePortDisable
    4).WellFormed ∧ ¬ (Instr.bridgeIdle ⟨256, 0, 0, false, false⟩).WellFormed ∧ ¬
    (Instr.bridgeIdle ⟨0, 256, 0, false, false⟩).WellFormed ∧ ¬ (Instr.bridgeIdle ⟨0, 0, 64,
    false, false⟩).WellFormed ∧ ¬ (Instr.bridgeHello (2 ^ 16) 0 false 0 0).WellFormed ∧ ¬
    (Instr.bridgeHello 0 4 false 0 0).WellFormed ∧ ¬ (Instr.bridgeHello 0 0 false (2 ^ 64)
    0).WellFormed := by
  and_intros <;> decide +kernel

theorem test_ill_formed_13 :
    ¬ (Instr.bridgeHello 0 0 false 0 (2 ^ 64)).WellFormed ∧ ¬ (Instr.bridgeHeart ⟨256, 0, 0,
    false, false⟩).WellFormed ∧ ¬ (Instr.bridgeWrite ⟨256, 0, 0, false, false⟩ 0 0
    []).WellFormed ∧ ¬ (Instr.bridgeWrite ⟨0, 0, 0, false, false⟩ 256 0 []).WellFormed ∧ ¬
    (Instr.bridgeWrite ⟨0, 0, 0, false, false⟩ 0 (2 ^ 36) []).WellFormed ∧ ¬ (Instr.bridgeWrite
    ⟨0, 0, 0, false, false⟩ 0 0 (List.replicate 257 0)).WellFormed ∧ ¬ (Instr.bridgeWack ⟨256,
    0, 0, false, false⟩ 0 0).WellFormed ∧ ¬ (Instr.bridgeWack ⟨0, 0, 0, false, false⟩ 256
    0).WellFormed ∧ ¬ (Instr.bridgeRead ⟨256, 0, 0, false, false⟩ 0 0 0).WellFormed ∧ ¬
    (Instr.bridgeRead ⟨0, 0, 0, false, false⟩ 256 0 0).WellFormed ∧ ¬ (Instr.bridgeRead ⟨0, 0,
    0, false, false⟩ 0 (2 ^ 36) 0).WellFormed ∧ ¬ (Instr.bridgeRdata ⟨256, 0, 0, false, false⟩ 0
    0 []).WellFormed ∧ ¬ (Instr.bridgeRdata ⟨0, 0, 0, false, false⟩ 256 0 []).WellFormed ∧ ¬
    (Instr.bridgeSignal ⟨256, 0, 0, false, false⟩ 0 0 0).WellFormed ∧ ¬ (Instr.bridgeSignal ⟨0,
    0, 0, false, false⟩ 256 0 0).WellFormed ∧ ¬ (Instr.bridgeSignal ⟨0, 0, 0, false, false⟩ 0
    256 0).WellFormed ∧ ¬ (Instr.bridgeSignal ⟨0, 0, 0, false, false⟩ 0 0 (2 ^ 32)).WellFormed ∧
    ¬ (Instr.bridgeResetReq ⟨256, 0, 0, false, false⟩ 0).WellFormed ∧ ¬ (Instr.bridgeResetReq
    ⟨0, 0, 0, false, false⟩ (2 ^ 32)).WellFormed ∧ ¬ (Instr.bridgeImage ⟨256, 0, 0, false,
    false⟩ 0 []).WellFormed := by
  and_intros <;> decide +kernel

theorem test_ill_formed_14 :
    ¬ (Instr.bridgeImageEnd ⟨256, 0, 0, false, false⟩ 0).WellFormed ∧ ¬ (Instr.bridgeImageNak
    ⟨256, 0, 0, false, false⟩ 0).WellFormed ∧ ¬ (Instr.bridgeImageDone ⟨256, 0, 0, false, false⟩
    0).WellFormed ∧ ¬ (Instr.bridgeNak ⟨256, 0, 0, false, false⟩).WellFormed ∧ ¬
    (Instr.bridgeLaneLockLoss 2).WellFormed ∧ ¬ (Instr.bridgeTokenExpire 64).WellFormed ∧ ¬
    (Instr.faultMessage ⟨2 ^ 16, 0, 0, 0, 0, 0⟩).WellFormed ∧ ¬ (Instr.faultMessage ⟨0, 256, 0,
    0, 0, 0⟩).WellFormed ∧ ¬ (Instr.faultMessage ⟨0, 0, 2 ^ 32, 0, 0, 0⟩).WellFormed ∧ ¬
    (Instr.unitHeartbeat 256).WellFormed ∧ ¬ (Instr.unitLeaseExpire 256).WellFormed ∧ ¬
    (Instr.faultInject (2 ^ 32)).WellFormed ∧ ¬ (Instr.rwpValueWrite (2 ^ 36) 0 0).WellFormed ∧
    ¬ (Instr.rwpValueWrite 0 0 (2 ^ 32)).WellFormed ∧ ¬ (Instr.rwpComplementWrite (2 ^ 36) 0
    0).WellFormed ∧ ¬ (Instr.rwpComplementWrite 0 0 (2 ^ 32)).WellFormed ∧ ¬ (Instr.rwpWordRead
    (2 ^ 36) 0).WellFormed ∧ ¬ (Instr.registerWrite (2 ^ 36) 0 0).WellFormed ∧ ¬
    (Instr.registerWrite 0 0 (2 ^ 32)).WellFormed ∧ ¬ (Instr.sweepForceExpire 200).WellFormed := by
  and_intros <;> decide +kernel

theorem test_ill_formed_15 :
    ¬ (Instr.canErrorPassive 2 0 0).WellFormed ∧ ¬ (Instr.gspBadCmd 4 0 0 []).WellFormed ∧ ¬
    (Instr.gspBadCmd 0 256 0 []).WellFormed ∧ ¬ (Instr.gspBadCmd 0 0 (2 ^ 32) []).WellFormed ∧ ¬
    (Instr.gspBadCmd 0 0 0 (List.replicate 1025 0)).WellFormed ∧ ¬ (Instr.bridgeMalformedPacket
    ⟨256, 0, 0, false, false⟩ false 0 0 0).WellFormed ∧ ¬ (Instr.bridgeMalformedPacket ⟨0, 0, 0,
    false, false⟩ false 10 0 0).WellFormed ∧ ¬ (Instr.bridgeMalformedPacket ⟨0, 0, 0, false,
    false⟩ false 0 16 0).WellFormed ∧ ¬ (Instr.bridgeMalformedPacket ⟨0, 0, 0, false, false⟩
    false 0 0 256).WellFormed ∧ ¬ (Instr.pinLevelReached 4).WellFormed ∧ ¬
    (Instr.i2cExpectRetryInterval 4).WellFormed ∧ ¬ (Instr.scriptWaitElapsed 4).WellFormed ∧ ¬
    (Instr.dsiLpPacketSent 2).WellFormed := by
  and_intros <;> decide +kernel

/-! ### Single commands -/

/-- The state after a command. -/
def after (c : Instr) (s : State) : State :=
  match exec c s with
  | .next t => t
  | _ => s

theorem test_no_word_is_a_command : decodeTableWord 32 0x12345678 = none := by decide

theorem test_reset_in_off : State.reset.lamp.power = .off ∧ State.reset.pending = [] := by decide

/-- R30: the end of a power-on reset leads to PARKED. -/
theorem test_por_release : (after (.porRelease false) State.reset).lamp.power = .parked := by
  decide +kernel

/-- Table 05-11: ADD counts modulo 2^32. -/
theorem test_signal_add_wraps :
    ((after (.signalAdd 16 5 false) (withCrossing 16 0xFFFFFFFF)).crossing 16).value = 4 := by
  decide +kernel

/-- R162: crossings 0 to 15 are the device's own and take no signal. -/
theorem test_device_crossing_refuses :
    ((after (.signalSet 15 5 false) up).crossing 15).value = 0 := by decide +kernel

/-- FILL writes its pattern into its range and nowhere else. -/
theorem test_fill_writes_its_range :
    (after (.fill 15) filling).paBytes 4095 3 = [0, 7, 0]
    ∧ (after (.fill 15) filling).paBytes 4159 2 = [0, 0] := by decide +kernel

/-- COPY copies the bytes of its source. -/
theorem test_copy_moves_bytes :
    (after (.copy 15) { copying with plaza := [(4096, 0x5A), (4159, 0xA5)] }).paBytes 8192 64
      = 0x5A :: List.replicate 62 0 ++ [0xA5] := by decide +kernel

/-- R213: 1 + 1 = 2, and the largest finite value plus itself is infinity. -/
theorem test_fp16_add : combAdd ⟨0x3C00, 0x7BFF, 0, 0x8000⟩ ⟨0x3C00, 0x7BFF, 0x8000, 0x8000⟩
    = ⟨0x4000, 0x7C00, 0, 0x8000⟩ := by decide +kernel

/-- R213: 1 / 3 rounds to nearest. -/
theorem test_fp16_mul : combMul ⟨0x3555, 0xBC00, 0, 0⟩ ⟨0x4200, 0x3C00, 0x3C00, 0⟩
    = ⟨0x3C00, 0xBC00, 0, 0⟩ := by decide +kernel

/-- The check value of CRC-32 (Table 03-7) for the digits 1 to 9. -/
theorem test_crc32 : crc32 [0x31, 0x32, 0x33, 0x34, 0x35, 0x36, 0x37, 0x38, 0x39] = 0xCBF43926 := by
  decide +kernel

/-- SHA-256 of "abc" begins with BA 78 16 BF (FIPS 180-4). -/
theorem test_sha256 : (sha256 [0x61, 0x62, 0x63]).take 4 = [0xBA, 0x78, 0x16, 0xBF] := by
  decide +kernel

/-- R17: a complement pair is committed by the complement of the pending value only. -/
theorem test_pair_commits :
    (after (.rwpComplementWrite (R.CAM_WINDOW.addr + 4) 4 (0xFFFFFFFF - 0x01000100))
      (after (.rwpValueWrite R.CAM_WINDOW.addr 4 0x01000100) up)).rd R.CAM_WINDOW = 0x01000100 := by
  decide +kernel
theorem test_pair_mismatch_keeps :
    (after (.rwpComplementWrite (R.CAM_WINDOW.addr + 4) 4 0)
      (after (.rwpValueWrite R.CAM_WINDOW.addr 4 0x01000100) up)).rd R.CAM_WINDOW
      = up.rd R.CAM_WINDOW := by decide +kernel

/-- R14: an access that is not one aligned word is answered with an error. -/
theorem test_narrow_access_fails :
    (after (.registerWrite R.AVE_WRR.addr 2 5) up).bus.ok = false := by decide +kernel

/-- R350: the kill line stops the boost converter. -/
theorem test_kill_line : (after .killLineAssert
    (withHv (fun h => { h with boost := 2 }) up)).hv.boost = 0 := by decide +kernel

/-- R378: the eighth bus-off within one second starts the hold-off. -/
theorem test_bus_off_holdoff : ((after (.canBusOff 1)
    (withCan (fun x => { x with busOffs := [1, 2, 3, 4, 5, 6, 7] }) up)).canCtl 1).holdoff = true := by
  decide +kernel

/-- Table 13-9: IDENT answers with SYS_ID first. -/
theorem test_ident : ((after (.gspIdent 3 0 []) serving).port 3).ready.map
    (fun r => (r.status, r.payload.take 4)) = [(0, [0x20, 0x20, 0x80, 0x04])] := by decide +kernel

/-- R41: the self-test that passes leads to RUNNING. -/
theorem test_self_test : (after (.selfTestDone true [])
    { waking 4 with ave.initDone := true }).lamp.power = .running := by decide +kernel


/-! ### The hypotheses of every statement can be met -/

theorem wit_StepRunsFrontCommandOrPassesTime :
    (∃ s : State, s.pending = [] ∧ s.lamp.power = .off)
    ∧ (∃ s : State, s.pending = [] ∧ s.lamp.power ≠ .off) :=
  ⟨⟨State.reset, by decide +kernel⟩,
   ⟨up, by decide +kernel⟩⟩

theorem wit_EveryStepKeepsSoundness :
    (∃ s : State, ∃ t : State, s.Sound ∧ step s = .next t) :=
  ⟨State.reset, { State.reset with time := 1 }, sound_of (by decide +kernel), rfl⟩

theorem wit_PowerOnResetLosesAllButFlashAndOtp :
    (∃ s : State, s.lamp.power = .off) :=
  ⟨State.reset, by decide +kernel⟩

theorem wit_ClockSourceFollowsTheCrystal :
    (∃ s : State, s.lamp.power ≠ .off)
    ∧ (∃ s : State, s.lamp.power ≠ .off ∧ s.lamp.x32OnRc = false)
    ∧ (∃ s : State, s.lamp.power ≠ .off ∧ s.lamp.x32Grace = true)
    ∧ (∃ s : State, s.lamp.power ≠ .off ∧ s.lamp.x32Grace = true) :=
  ⟨⟨up, by decide +kernel⟩,
   ⟨{ up with lamp.x32OnRc := false }, by decide +kernel⟩,
   ⟨{ up with lamp.x32Grace := true }, by decide +kernel⟩,
   ⟨{ up with lamp.x32Grace := true }, by decide +kernel⟩⟩

theorem wit_ReferenceAndPllsInWaking :
    (∃ s : State, s.lamp.power = .waking ∧ s.lamp.refOnRc = false)
    ∧ (∃ s : State, ∃ p, p < 9 ∧ bitN s.lamp.pllReq p = 1 ∧ s.resettable = true ∧ s.lamp.resetNLow
      = false ∧ s.lamp.pwrGood = true ∧ ((s.lamp.power = .waking → 3 ≤ s.lamp.wakingStep)))
    ∧ (∃ s : State, ∃ p, p < 9 ∧ bitN s.lamp.pllReq p = 1 ∧ s.resettable = true ∧ s.lamp.resetNLow
      = false ∧ s.lamp.pwrGood = true ∧ ((s.lamp.power = .waking → 3 ≤ s.lamp.wakingStep)) ∧ (p =
      0 ∧ s.lamp.power = .waking ∧ s.lamp.wakingStep = 3)) :=
  ⟨⟨waking 3, by decide +kernel⟩,
   ⟨{ waking 3 with lamp.pllReq := 257, lamp.pwrGood := true }, 8, by decide +kernel⟩,
   ⟨{ waking 3 with lamp.pllReq := 257, lamp.pwrGood := true }, 0, by decide +kernel⟩⟩

theorem wit_LogicSideResetsRestartWaking :
    (∃ s : State, s.Sound ∧ s.live = true)
    ∧ (∃ s : State, s.Sound ∧ s.live = true ∧ s.lamp.refOnRc = false)
    ∧ (∃ s : State, s.Sound ∧ s.live = true)
    ∧ (∃ s : State, s.Sound ∧ s.resettable = true)
    ∧ (∃ s : State, s.Sound ∧ s.resettable = true ∧ s.lamp.pwrGood = true) :=
  ⟨⟨up, sound_of (by decide +kernel), by decide +kernel⟩,
   ⟨up, sound_of (by decide +kernel), by decide +kernel, by decide +kernel⟩,
   ⟨up, sound_of (by decide +kernel), by decide +kernel⟩,
   ⟨waking 2, sound_of (by decide +kernel), by decide +kernel⟩,
   ⟨{ up with lamp.pwrGood := true }, sound_of (by decide +kernel), by decide +kernel,
     by decide +kernel⟩⟩

theorem wit_ResetNReleaseSamplesStraps :
    (∃ s : State, s.lamp.resetNLow = true ∧ s.lamp.power = .waking ∧ s.lamp.wakingStep = 3 ∧
      s.lamp.pwrGood = true) :=
  ⟨{ waking 3 with lamp.resetNLow := true, lamp.pwrGood := true }, by decide +kernel⟩

theorem wit_WakingStartsAndFails :
    (∃ s : State, s.lamp.power = .parked ∧ s.lamp.retryDue = true)
    ∧ (∃ s : State, s.lamp.power = .parked ∧ s.lamp.latchedWake = true ∧ s.lamp.pwrGood = false)
    ∧ (∃ s : State, s.lamp.power = .parked ∧ s.wakeEnabled 3 = true ∧ s.rd R.LAMP_TIMER_ALARM ≠ 0
      ∧ s.pairOk R.LAMP_WAKE_EN 0 0 = true ∧ s.lamp.thermHold = false ∧ s.railsUp = false)
    ∧ (∃ s : State, ∃ k, s.lamp.power = .parked ∧ s.wakeSource k = true ∧ s.wakeEnabled k = true ∧
      s.pairOk R.LAMP_WAKE_EN 0 0 = true ∧ (s.wakeFilter k).raw = true ∧ (s.wakeFilter k).filtered
      = false ∧ s.lamp.thermHold = false ∧ s.railsUp = false)
    ∧ (∃ s : State, s.lamp.power = .waking ∧ s.lamp.wakingStep < 4 ∧ s.lamp.resetNLow = false)
    ∧ (∃ s : State, s.lamp.power = .waking ∧ s.lamp.wakingStep < 4 ∧ s.lamp.resetNLow = true)
    ∧ (∃ s : State, s.lamp.power = .waking ∧ s.lamp.wakingStep = 2 ∧ s.lamp.pwrGood = false)
    ∧ (∃ s : State, ∃ k, ∃ v, s.wakeSource k = true ∧ (s.wakeFilter k).raw ≠ v) :=
  ⟨⟨{ parked with lamp.retryDue := true }, by decide +kernel⟩,
   ⟨{ parked with lamp.latchedWake := true }, by decide +kernel⟩,
   ⟨putReg R.LAMP_TIMER_ALARM 1 (putReg R.LAMP_WAKE_EN 8 parked), by decide +kernel⟩,
   ⟨{ parked with lamp.ign.raw := true }, 0, by decide +kernel⟩,
   ⟨waking 2, by decide +kernel⟩,
   ⟨{ waking 3 with lamp.resetNLow := true }, by decide +kernel⟩,
   ⟨waking 2, by decide +kernel⟩,
   ⟨parked, 2, true, by decide +kernel⟩⟩

theorem wit_QuietAndPark :
    (∃ s : State, s.lamp.power = .running)
    ∧ (∃ s : State, s.lamp.power = .quiet ∧ s.lamp.parkStep = 0)
    ∧ (∃ s : State, s.live = true ∧ s.settled = false)
    ∧ (∃ s : State, s.live = true ∧ s.settled = false)
    ∧ (∃ s : State, s.lamp.power = .running ∧ s.lamp.parkStep = 0 ∧ s.settled = true)
    ∧ (∃ s : State, s.live = true ∧ s.lamp.parkStep = 0 ∧ s.settled = true ∧ s.openStops = [])
    ∧ (∃ s : State, s.lamp.power = .running ∧ s.lamp.parkStep = 0 ∧ s.settled = true ∧ s.pairOk
      R.LAMP_PARK_POLICY 0 0 = true ∧ s.flag F.LAMP_PARK_POLICY_IGN_QUIET = true ∧ s.ignLevel =
      false)
    ∧ (∃ s : State, s.lamp.power = .quiet ∧ s.lamp.parkStep = 0 ∧ s.openStops ≠ [] ∧ s.pairOk
      R.LAMP_PARK_POLICY 0 0 = true ∧ s.pairOk R.LAMP_WAKE_EN 0 0 = true ∧ s.fld
      F.LAMP_PARK_POLICY_QUIET_TIMEOUT ≠ 0 ∧ ((upTo 3).all fun k => !s.wakeEnabled k ||
      !(s.wakeFilter k).filtered) = true)
    ∧ (∃ s : State, s.lamp.parkStep = 3 ∧ s.openStops = [])
    ∧ (∃ s : State, s.live = true ∧ s.lamp.parkStep = 6 ∧ s.boot.flashOp = none) :=
  ⟨⟨up, by decide +kernel⟩,
   ⟨{ up with lamp.power := .quiet }, by decide +kernel⟩,
   ⟨up, by decide +kernel⟩,
   ⟨up, by decide +kernel⟩,
   ⟨{ up with boot.phase := 6 }, by decide +kernel⟩,
   ⟨{ up with boot.phase := 6 }, by decide +kernel⟩,
   ⟨{ putFld F.LAMP_PARK_POLICY_IGN_QUIET 1 up with boot.phase := 6 }, by decide +kernel⟩,
   ⟨withStop (opened 0 [] (stopOf 0 1 [] none)) (putFld F.LAMP_PARK_POLICY_QUIET_TIMEOUT 1
     { up with lamp.power := .quiet }), by decide +kernel⟩,
   ⟨{ up with lamp.parkStep := 3 }, by decide +kernel⟩,
   ⟨{ up with lamp.parkStep := 6 }, by decide +kernel⟩⟩

theorem wit_UnitClocks :
    (∃ s : State, ∃ u, ∃ b, s.lamp.power = .running ∧ s.unitLocked u = true ∧ gateBit u = some b)
    ∧ (∃ s : State, ∃ u, ∃ b, s.lamp.power = .running ∧ gateBit u = some b ∧ s.flag
      F.SYS_GATE_CTRL_GATE_EN = true ∧ s.fld F.SYS_GATE_CTRL_IDLE_TICKS ≠ 0 ∧ s.unitBusy u =
      false) :=
  ⟨⟨putFld F.SYS_PLL_STATUS_LOCK 7 up, 27, 23, by decide +kernel⟩,
   ⟨putFld F.SYS_GATE_CTRL_GATE_EN 1 (putFld F.SYS_GATE_CTRL_IDLE_TICKS 1 up), 4, 0,
     by decide +kernel⟩⟩

theorem wit_PllLossRetentionScrubAndThermalSample :
    (∃ s : State, ∃ p, 1 ≤ p ∧ p < 9 ∧ p ≠ 7 ∧ s.live = true ∧ bitN (s.fld F.SYS_PLL_STATUS_LOCK)
      p = 1 ∧ s.rcl.escalating = false ∧ s.rcl.pending.length < 8 ∧ ((∀ u ∈ pllUnits p, u ∉
      s.rcl.fenced)) ∧ ((3 ≤ p → (s.output 0).active = false ∧ (s.output 0).phase = 0 ∧ (s.output
      1).active = false ∧ (s.output 1).phase = 0 ∧ s.brg.link = 0)))
    ∧ (∃ s : State, ∃ p, 1 ≤ p ∧ p < 9 ∧ p ≠ 7 ∧ s.live = true ∧ bitN (s.fld
      F.SYS_PLL_STATUS_LOCK) p = 1 ∧ s.rcl.escalating = false ∧ s.rcl.pending.length < 8 ∧ ((∀ u ∈
      pllUnits p, u ∉ s.rcl.fenced)) ∧ ((3 ≤ p → (s.output 0).active = false ∧ (s.output 0).phase
      = 0 ∧ (s.output 1).active = false ∧ (s.output 1).phase = 0 ∧ s.brg.link = 0)) ∧ (p = 1))
    ∧ (∃ s : State, ∃ p, 1 ≤ p ∧ p < 9 ∧ p ≠ 7 ∧ s.live = true ∧ bitN (s.fld
      F.SYS_PLL_STATUS_LOCK) p = 1 ∧ s.rcl.escalating = false ∧ s.rcl.pending.length < 8 ∧ ((∀ u ∈
      pllUnits p, u ∉ s.rcl.fenced)) ∧ ((3 ≤ p → (s.output 0).active = false ∧ (s.output 0).phase
      = 0 ∧ (s.output 1).active = false ∧ (s.output 1).phase = 0 ∧ s.brg.link = 0)) ∧ (p = 3))
    ∧ (∃ s : State, s.Sound ∧ s.live = true ∧ bitN (s.fld F.SYS_PLL_STATUS_LOCK) 7 = 1)
    ∧ (∃ s : State, ∃ es, s.lamp.power ≠ .off ∧ s.lamp.retUnusable = false ∧ ((s.lamp.retARetired
      = false ∨ s.lamp.retBRetired = false)) ∧ ((∀ e ∈ s.lamp.retErrs ++ es, e.uncorrectable =
      false)))
    ∧ (∃ s : State, ∃ x, s.live = true ∧ s.pairOk R.SYS_THERM_CTRL 0 0 = true ∧ s.dst.mapped =
      false ∧ s.badPairs [0x10] = [] ∧ s.lamp.tempValid = List.replicate 12 true ∧ validTemps
      (List.replicate 12 x) = List.replicate 12 true ∧ x < 135 ∧ s.thermTarget x =
      s.lamp.thermStep)
    ∧ (∃ s : State, ∃ x, s.live = true ∧ s.pairOk R.SYS_THERM_CTRL 0 0 = true ∧ s.dst.mapped =
      false ∧ s.badPairs [0x10] = [] ∧ s.lamp.tempValid = List.replicate 12 true ∧ validTemps
      (List.replicate 12 x) = List.replicate 12 true ∧ x < 135 ∧ s.lamp.thermChangedAt = none) :=
  ⟨⟨putFld F.SYS_PLL_STATUS_LOCK 256 up, 8, by decide +kernel⟩,
   ⟨putFld F.SYS_PLL_STATUS_LOCK 2 up, 1, by decide +kernel⟩,
   ⟨putFld F.SYS_PLL_STATUS_LOCK 8 up, 3, by decide +kernel⟩,
   ⟨putFld F.SYS_PLL_STATUS_LOCK 128 up, sound_of (by decide +kernel), by decide +kernel,
     by decide +kernel⟩,
   ⟨up, [⟨false, 7, false⟩], by decide +kernel⟩,
   ⟨up, 25, by decide +kernel⟩,
   ⟨up, 120, by decide +kernel⟩⟩

theorem wit_PlazaInitialisationClearsPlaza :
    (∃ s : State, s.lamp.power = .waking ∧ 3 ≤ s.lamp.wakingStep ∧ s.lamp.resetNLow = false ∧
      s.ave.initDone = false) :=
  ⟨waking 3, by decide +kernel⟩

theorem wit_ScrubAndLinkReplay :
    (∃ s : State, ∃ w, s.live = true ∧ s.pairOk R.AVE_SCRUB_CTRL 0 0 = true ∧ s.flag
      F.AVE_SCRUB_CTRL_EN = true ∧ s.ave.plazaErrs = [] ∧ 64 * (w / 8) < s.plazaTop)
    ∧ (∃ s : State, ∃ n, ∃ p, s.live = true ∧ n < 36 ∧ p < 4 ∧ ⟨n, p⟩ ∉ s.ave.failedLinks)
    ∧ (∃ s : State, ∃ n, ∃ p, s.live = true ∧ n < 36 ∧ p < 4 ∧ s.ave.failedLinks = [] ∧
      s.ave.replayFails.find? (fun e => e.1 == ⟨n, p⟩) = some (⟨n, p⟩, 2)) :=
  ⟨⟨putFld F.AVE_SCRUB_CTRL_EN 1 up, 5242879, by decide +kernel⟩,
   ⟨up, 35, 3, by decide +kernel⟩,
   ⟨{ up with ave.replayFails := [(⟨35, 3⟩, 2)] }, 35, 3, by decide +kernel⟩⟩

theorem wit_PoisonClearAndMr4 :
    (∃ s : State, ∃ i, s.live = true ∧ i < 2 ^ 24 ∧ 4096 * i < s.plazaTop)
    ∧ (∃ s : State, ∃ i, s.live = true ∧ i < 2 ^ 24 ∧ 65536 * i < s.ave.ddrBytes)
    ∧ (∃ s : State, s.live = true ∧ s.ave.ddrInit = true ∧ s.ave.ddrSelfRefresh = false)
    ∧ (∃ s : State, ∃ hot, s.live = true ∧ s.ave.ddrInit = true ∧ s.ave.ddrSelfRefresh = false ∧
      (hot = false)) :=
  ⟨⟨up, 10239, by decide +kernel⟩,
   ⟨{ up with ave.ddrBytes := 65536 }, 0, by decide +kernel⟩,
   ⟨{ up with ave.ddrInit := true }, by decide +kernel⟩,
   ⟨{ up with ave.ddrInit := true }, false, by decide +kernel⟩⟩

theorem wit_InvalidationAndRootCommit :
    (∃ s : State, ∃ a, s.live = true ∧ 1 ≤ a ∧ a < 16 ∧ s.xlt.deferred = [] ∧ s.holdsRun a (fun l
      => l.gen == (s.gen a + 1) % 2 ^ 32) = false)
    ∧ (∃ s : State, ∃ a, s.live = true ∧ 1 ≤ a ∧ a < 16 ∧ s.xlt.deferred = [] ∧ s.xlt.roots.length
      = 16 ∧ s.holdsRun a (fun l => l.gen == (s.gen a + 1) % 2 ^ 32) = false) :=
  ⟨⟨up, 15, by decide +kernel⟩,
   ⟨up, 15, by decide +kernel⟩⟩

theorem wit_RecoveryRunsItsSteps :
    (∃ s : State, ∃ r, ∃ rest, s.live = true ∧ s.rcl.escalating = false ∧ s.rcl.current = none ∧
      s.rcl.pending = r :: rest)
    ∧ (∃ s : State, ∃ r, s.rcl.current = some r ∧ r.step = 3 ∧ ((∀ i ∈ r.executing, s.stillServes
      r.units i = false)) ∧ ((∀ u ∈ r.units, s.recoveries u < 3)))
    ∧ (∃ s : State, ∃ r, s.rcl.current = some r ∧ r.step = 6 ∧ s.unitsClocked r = true)
    ∧ (∃ s : State, ∃ r, s.Sound ∧ s.live = true ∧ s.rcl.current = some r) :=
  ⟨⟨{ up with rcl.pending := [recoveryOf 28 2] }, recoveryOf 28 2, [], by decide +kernel⟩,
   ⟨{ up with rcl.current := some (recoveryOf 28 3) }, recoveryOf 28 3, by decide +kernel⟩,
   ⟨{ up with rcl.current := some (recoveryOf 28 6) }, recoveryOf 28 6, by decide +kernel⟩,
   ⟨{ up with rcl.current := some (recoveryOf 28 6) }, recoveryOf 28 6, sound_of
     (by decide +kernel), by decide +kernel, by decide +kernel⟩⟩

theorem wit_FaultMessagesAndInjection :
    (∃ s : State, ∃ m : FaultMsg, s.live = true ∧ isUnit m.unit = true ∧ isFaultCode m.code = true
      ∧ isUnitFault m.code = false)
    ∧ (∃ s : State, ∃ m : FaultMsg, s.live = true ∧ 12 ≤ m.unit ∧ m.unit < 28 ∧ isFaultCode m.code
      = true ∧ isUnitFault m.code = true ∧ s.faultsInCheck m.unit = none ∧ s.rcl.escalating =
      false ∧ s.rcl.pending.length < 8 ∧ m.unit ∉ s.rcl.fenced)
    ∧ (∃ s : State, ∃ u, s.live = true ∧ 12 ≤ u ∧ u < 28 ∧ s.faultsInCheck u = none ∧
      s.rcl.escalating = false ∧ s.rcl.pending.length < 8 ∧ u ∉ s.rcl.fenced) :=
  ⟨⟨up, ⟨0x9001, 36, 0, 0, 0, 0⟩, by decide +kernel⟩,
   ⟨up, ⟨0x2001, 27, 0, 0, 0, 0⟩, by decide +kernel⟩,
   ⟨up, 12, by decide +kernel⟩⟩

theorem wit_LeasesRenewedAndExpired :
    (∃ s : State, s.Sound ∧ s.live = true)
    ∧ (∃ s : State, s.Sound ∧ s.live = true ∧ ((keyGet s.leases 191).isSome = true))
    ∧ (∃ s : State, ∃ n, ∃ l, s.live = true ∧ keyGet s.leases n = some l ∧ l.ownerKind = 3 ∧
      l.term ≠ 0 ∧ 12 ≤ l.owner ∧ l.owner < 28 ∧ s.rcl.escalating = false ∧ s.rcl.pending.length <
      8 ∧ l.owner ∉ s.rcl.fenced)
    ∧ (∃ s : State, ∃ n, ∃ l, s.live = true ∧ keyGet s.leases n = some l ∧ l.ownerKind = 1 ∧
      l.term ≠ 0 ∧ s.openOf l.owner = [])
    ∧ (∃ s : State, ∃ n, ∃ l, s.live = true ∧ keyGet s.leases n = some l ∧ l.ownerKind = 1 ∧
      l.term ≠ 0 ∧ s.openOf l.owner = [] ∧ (l.kind ≠ 1)) :=
  ⟨⟨up, sound_of (by decide +kernel), by decide +kernel⟩,
   ⟨{ up with leases := [(191, ⟨4, 3, 27, 500, 5, 5⟩)] }, sound_of (by decide +kernel),
     by decide +kernel, by decide +kernel⟩,
   ⟨{ up with leases := [(64, ⟨2, 3, 27, 27, 5, 5⟩)] }, 64, ⟨2, 3, 27, 27, 5, 5⟩,
     by decide +kernel⟩,
   ⟨{ up with leases := [(0, ⟨1, 1, 15, 0, 5, 5⟩)] }, 0, ⟨1, 1, 15, 0, 5, 5⟩, by decide +kernel⟩,
   ⟨{ up with leases := [(191, ⟨3, 1, 15, 500, 5, 5⟩)], xng.mutexes := [500] }, 191, ⟨3, 1, 15,
     500, 5, 5⟩, by decide +kernel⟩⟩

theorem wit_DivergenceWatchdogsAndGranules :
    (∃ s : State, s.Sound ∧ s.live = true ∧ s.rcl.pairOk = true)
    ∧ (∃ s : State, s.rcl.detour = true)
    ∧ (∃ s : State, ∃ i, ∃ o, s.live = true ∧ s.slotOf i = some o ∧ o.units = [] ∧ o.withdraw =
      none ∧ s.brg.fallbackDue = false)
    ∧ (∃ s : State, ∃ i, ∃ u, ∃ o, s.live = true ∧ s.slotOf i = some o ∧ o.units.contains u = true
      ∧ 12 ≤ u ∧ u < 28 ∧ s.rcl.escalating = false ∧ s.rcl.pending.length < 8 ∧ u ∉ s.rcl.fenced)
    ∧ (∃ s : State, ∃ c, ∃ o, s.coreSlot c = some o)
    ∧ (∃ s : State, ∃ c, ∃ o, s.coreSlot c = some o) :=
  ⟨⟨up, sound_of (by decide +kernel), by decide +kernel, by decide +kernel⟩,
   ⟨{ up with rcl.detour := true }, by decide +kernel⟩,
   ⟨withStop (opened 63 [] (stopOf 0 1 [] none)) up, 63, opened 63 [] (stopOf 0 1 [] none),
     by decide +kernel⟩,
   ⟨withStop (opened 63 [15] (stopOf 0 1 [] none)) up, 63, 15, opened 63 [15] (stopOf 0 1 []
     none), by decide +kernel⟩,
   ⟨withStop (opened 0 [unitTile 15] (stopOf 0x10 1 [] none)) up, 15, opened 0 [unitTile 15]
     (stopOf 0x10 1 [] none), by decide +kernel⟩,
   ⟨withStop (opened 0 [unitTile 0] (stopOf 0x10 1 [] none)) up, 0, opened 0 [unitTile 0] (stopOf
     0x10 1 [] none), by decide +kernel⟩⟩

theorem wit_QueuesFetchTheirStops :
    (∃ s : State, ∃ q, ∃ pos, ∃ iter, ∃ l, q < 16 ∧ s.wrd.queues.length = 16 ∧ s.live = true ∧
      let u := (setF F.SYS_GATE_STATUS_PXL_CLK 1).run s; (u.queue q).state = 1 ∧ u.wrd.closed =
        false ∧ u.wardenOk (u.queue q).owner = true ∧ (u.queue q).enq.length < 8 ∧ (u.queue
        q).nextStop = some (pos, iter) ∧ u.ave.plazaErrs = [] ∧ u.ave.ddrErrs = [] ∧ (u.fetchStop
        q pos iter).bad = none ∧ u.attach (u.fetchStop q pos iter).stop = .ok l)
    ∧ (∃ s : State, ∃ q, ∃ pos, ∃ iter, ∃ line, q < 16 ∧ s.wrd.queues.length = 16 ∧ s.live = true
      ∧
      let u := (setF F.SYS_GATE_STATUS_PXL_CLK 1).run s; (u.queue q).state = 1 ∧ u.wrd.closed =
        false ∧ u.wardenOk (u.queue q).owner = true ∧ (u.queue q).enq.length < 8 ∧ (u.queue
        q).nextStop = some (pos, iter) ∧ u.ave.plazaErrs = [] ∧ u.ave.ddrErrs = [] ∧ (u.fetchStop
        q pos iter).bad = some line ∧ u.canRepair line = true)
    ∧ (∃ s : State, ∃ q, ∃ w, ∃ st, ∃ rest, ∃ l, q < 16 ∧ s.wrd.queues.length = 16 ∧ s.live = true
      ∧ s.xlt.waiting = q :: w ∧ (s.queue q).enq = st :: rest ∧ st.queue = q ∧ st.runs = none ∧
      s.ave.plazaErrs = [] ∧ s.ave.ddrErrs = [] ∧ st.ranges ≠ [] ∧ s.attach st = .ok l) :=
  ⟨⟨fetching, 15, 0, 0, none, by decide +kernel, by decide +kernel, by decide +kernel,
     by decide +kernel, by decide +kernel, by decide +kernel, by decide +kernel,
     by decide +kernel, by decide +kernel, by decide +kernel, by decide +kernel, by rfl⟩,
   ⟨badFetch, 15, 0, 0, 64, by decide +kernel⟩,
   ⟨waitingForRoom, 15, [], waitingStop, [], waitingRuns, by decide +kernel, by decide +kernel,
     by decide +kernel, by decide +kernel, by decide +kernel, by decide +kernel,
     by decide +kernel, by decide +kernel, by decide +kernel, by decide +kernel, by rfl⟩⟩

theorem wit_DispatchAndWardenOpcodes :
    (∃ s : State, ∃ w, ∃ q, ∃ st, ∃ rest, ∃ units,
      let u := (Prog.each ((upTo 16).filter fun q => (s.queue q).owner == w) settleDecision).run
        s; w < 2 ∧ s.live = true ∧ s.wardenOk w = true ∧ u.scheduled w = some q ∧ q < 16 ∧
        u.wrd.queues.length = 16 ∧ u.wrd.slots.length = 64 ∧ (u.queue q).enq = st :: rest ∧
        st.queue = q ∧ u.decideDispatch q = .go st units ∧ opcodeKind st.opcode ≠ some 0 ∧
        ((st.opcode = 0x20 → layerOk st.descLines st.desc = true)))
    ∧ (∃ s : State, ∃ q, ∃ st, ∃ rest, q < 16 ∧ s.wrd.queues.length = 16 ∧ s.brg.fallbackDue =
      false ∧ ((∀ n, (s.crossing n).pairsOk = true)) ∧ s.pairOk R.WRD_Q_CFG q 0 = true ∧ (s.queue
      q).enq = st :: rest ∧ st.queue = q ∧ s.dispatches q 0x00 = true)
    ∧ (∃ s : State, ∃ q, ∃ st, ∃ rest, q < 16 ∧ s.wrd.queues.length = 16 ∧ s.brg.fallbackDue =
      false ∧ ((∀ n, (s.crossing n).pairsOk = true)) ∧ s.pairOk R.WRD_Q_CFG q 0 = true ∧ (s.queue
      q).enq = st :: rest ∧ st.queue = q ∧ s.dispatches q 0x01 = true ∧ (s.queue ((s.routeEntry
      (param st.desc 0 2)).queue % 16)).state = 0)
    ∧ (∃ s : State, ∃ q, ∃ st, ∃ rest, q < 16 ∧ s.wrd.queues.length = 16 ∧ s.brg.fallbackDue =
      false ∧ ((∀ n, (s.crossing n).pairsOk = true)) ∧ s.pairOk R.WRD_Q_CFG q 0 = true ∧ (s.queue
      q).enq = st :: rest ∧ st.queue = q ∧ s.dispatches q 0x01 = true ∧ (s.queue ((s.routeEntry
      (param st.desc 0 2)).queue % 16)).state ≠ 0)
    ∧ (∃ s : State, ∃ q, ∃ st, ∃ rest, q < 16 ∧ s.wrd.queues.length = 16 ∧ s.brg.fallbackDue =
      false ∧ ((∀ n, (s.crossing n).pairsOk = true)) ∧ s.pairOk R.WRD_Q_CFG q 0 = true ∧ (s.queue
      q).enq = st :: rest ∧ st.queue = q ∧ s.dispatches q 0x04 = true ∧ s.ave.locks.length = 64)
    ∧ (∃ s : State, ∃ q, ∃ st, ∃ rest, q < 16 ∧ s.wrd.queues.length = 16 ∧ s.brg.fallbackDue =
      false ∧ ((∀ n, (s.crossing n).pairsOk = true)) ∧ s.pairOk R.WRD_Q_CFG q 0 = true ∧ (s.queue
      q).enq = st :: rest ∧ st.queue = q ∧ s.dispatches q 0x04 = true ∧ s.ave.locks.length = 64 ∧
      (st.runs = some waitingRuns))
    ∧ (∃ s : State, ∃ q, ∃ st, ∃ rest, q < 16 ∧ s.wrd.queues.length = 16 ∧ s.brg.fallbackDue =
      false ∧ ((∀ n, (s.crossing n).pairsOk = true)) ∧ s.pairOk R.WRD_Q_CFG q 0 = true ∧ (s.queue
      q).enq = st :: rest ∧ st.queue = q ∧ s.dispatches q 0x05 = true)
    ∧ (∃ s : State, ∃ q, ∃ st, ∃ rest, q < 16 ∧ s.wrd.queues.length = 16 ∧ s.brg.fallbackDue =
      false ∧ ((∀ n, (s.crossing n).pairsOk = true)) ∧ s.pairOk R.WRD_Q_CFG q 0 = true ∧ (s.queue
      q).enq = st :: rest ∧ st.queue = q ∧ s.dispatches q 0x05 = true ∧ (st.runs = some
      waitingRuns)) :=
  ⟨⟨withQueue 15 (fun x => { x with state := 1, enq := [stopOf 0x30 15 [] none] }) (putFld
     F.WRD_RCLASS_KIND_KIND 3 (putFld F.WRD_RCLASS_KIND_COUNT 1 (putReg R.WRD_RCLASS_MASK 1 up))),
     1, 15, stopOf 0x30 15 [] none, [], [unitVis 0], by decide +kernel⟩,
   ⟨enqueued 0x00, 15, stopOf 0x00 15 [] none, [], by decide +kernel, by decide +kernel,
     by decide +kernel, fun _ => (by decide +kernel : (Crossing.fresh 0).pairsOk = true),
     by decide +kernel, by decide +kernel, by decide +kernel, by decide +kernel⟩,
   ⟨enqueued 0x01, 15, stopOf 0x01 15 [] none, [], by decide +kernel, by decide +kernel,
     by decide +kernel, fun _ => (by decide +kernel : (Crossing.fresh 0).pairsOk = true),
     by decide +kernel, by decide +kernel, by decide +kernel, by decide +kernel,
     by decide +kernel⟩,
   ⟨withQueue 0 (fun x => { x with state := 1 }) (enqueued 0x01), 15, stopOf 0x01 15 [] none, [],
     by decide +kernel, by decide +kernel, by decide +kernel, fun _ =>
     (by decide +kernel : (Crossing.fresh 0).pairsOk = true), by decide +kernel,
     by decide +kernel, by decide +kernel, by decide +kernel, by decide +kernel⟩,
   ⟨enqueued 0x04, 15, stopOf 0x04 15 [] none, [], by decide +kernel, by decide +kernel,
     by decide +kernel, fun _ => (by decide +kernel : (Crossing.fresh 0).pairsOk = true),
     by decide +kernel, by decide +kernel, by decide +kernel, by decide +kernel,
     by decide +kernel⟩,
   ⟨lockQueue 0x04, 15, lockStop 0x04, [], by decide +kernel, by decide +kernel,
     by decide +kernel, fun _ => (by decide +kernel : (Crossing.fresh 0).pairsOk = true),
     by decide +kernel, by decide +kernel, by decide +kernel, by decide +kernel,
     by decide +kernel, by decide +kernel⟩,
   ⟨enqueued 0x05, 15, stopOf 0x05 15 [] none, [], by decide +kernel, by decide +kernel,
     by decide +kernel, fun _ => (by decide +kernel : (Crossing.fresh 0).pairsOk = true),
     by decide +kernel, by decide +kernel, by decide +kernel, by decide +kernel⟩,
   ⟨{ lockQueue 0x05 with ave.locks := some ⟨0, 1, 2, .queue 15, false⟩ :: List.replicate 63 none },
     15, lockStop 0x05, [], by decide +kernel, by decide +kernel, by decide +kernel, fun _ =>
     (by decide +kernel : (Crossing.fresh 0).pairsOk = true), by decide +kernel,
     by decide +kernel, by decide +kernel, by decide +kernel, by decide +kernel⟩⟩

theorem wit_CopyFillAndCompletion :
    (∃ s : State, ∃ i, ∃ o, s.ready i 0x03 o ∧ s.slotOwned i = true)
    ∧ (∃ s : State, ∃ i, ∃ o, s.ready i 0x02 o ∧ s.slotOwned i = true)
    ∧ (∃ s : State, ∃ i, ∃ o, s.slotOf i = some o ∧ s.live = true ∧ o.done = true ∧ o.withdraw =
      none ∧ s.remotesOf i = [] ∧ o.units.any s.rcl.fenced.contains = false ∧ ((s.wardenOk
      (s.queue o.stop.queue).owner = true ∨ o.units ≠ [])) ∧ s.brg.fallbackDue = false) :=
  ⟨⟨filling, 15, fillStop, filling_ready, by decide +kernel⟩,
   ⟨copying, 15, copyStop, copying_ready, by decide +kernel⟩,
   ⟨withStop { opened 63 [] (stopOf 0 15 [] none) with done := true } up, 63,
     { opened 63 [] (stopOf 0 15 [] none) with done := true }, by decide +kernel⟩⟩

theorem wit_StopWritesStayInTheirRange :
    (∃ s : State, ∃ st : Stop, ∃ k, ∃ off, ∃ bs : List Byte, ∃ a, s.ave.plazaErrs = [] ∧
      s.ave.ddrErrs = [] ∧ ((∀ x y, onChip (s.place (st.pa x y)) = true)) ∧ ((∀ p ∈ st.pieces k
      (bs.length / 4096 + 2) off bs.length, ¬ (p.1 ≤ a ∧ a < p.1 + p.2))) ∧ a < s.plazaTop) :=
  ⟨up, stopOf 0x03 15 (descOf [0] [(4096, 64, 2)]) (some ⟨[⟨1, 1, false, true, 0⟩], 1, 1, 0, 0, 0,
    1⟩), 0, 4, [1], 4095, by decide +kernel, by decide +kernel, onChip_of
    (by intro k r h; simp [stopOf, Stop.runsOf] at h; obtain ⟨rfl, -⟩ := h; decide),
    by decide +kernel, by decide +kernel⟩

theorem wit_SignalsAndCrossings :
    (∃ s : State, ∃ n, s.live = true ∧ 16 ≤ n ∧ n < 1024 ∧ (s.crossing n).pairsOk = true ∧
      s.isMutex n = false ∧ (s.crossing n).broken = false)
    ∧ (∃ s : State, ∃ n, ∃ failed, s.live = true ∧ 16 ≤ n ∧ n < 1024 ∧ (s.crossing n).pairsOk =
      true ∧ s.isMutex n = false ∧ (s.crossing n).broken = false ∧ (failed = true))
    ∧ (∃ s : State, ∃ n, s.live = true ∧ 16 ≤ n ∧ n < 1024 ∧ (s.crossing n).pairsOk = true ∧
      s.isMutex n = false ∧ (s.crossing n).broken = false)
    ∧ (∃ s : State, ∃ n, ∃ failed, s.live = true ∧ 16 ≤ n ∧ n < 1024 ∧ (s.crossing n).pairsOk =
      true ∧ s.isMutex n = false ∧ (s.crossing n).broken = false ∧ (failed = true))
    ∧ (∃ s : State, ∃ n, s.live = true ∧ n < 16)
    ∧ (∃ s : State, ∃ n, s.live = true ∧ n < 16)
    ∧ (∃ s : State, ∃ n, ∃ q, s.live = true ∧ 16 ≤ n ∧ n < 1024 ∧ q < 16 ∧ (s.crossing n).pairsOk
      = true ∧ s.isMutex n = true ∧ (s.crossing n).broken = false ∧ (s.crossing n).value =
      0x80000000 + q)
    ∧ (∃ s : State, ∃ n, ∃ q, s.live = true ∧ 16 ≤ n ∧ n < 1024 ∧ q < 16 ∧ (s.crossing n).pairsOk
      = true ∧ s.isMutex n = true ∧ (s.crossing n).broken = false ∧ (s.crossing n).value ≠
      0x80000000 + q ∧ (s.crossing n).value ≠ 0)
    ∧ (∃ s : State, ∃ n, s.live = true ∧ n < 1024 ∧ 16 ≤ n ∧ s.isMutex n = false)
    ∧ (∃ s : State, ∃ n, s.live = true ∧ n < 1024 ∧ n < 16) :=
  ⟨⟨up, 1023, by decide +kernel⟩,
   ⟨withCrossing 16 0xFFFFFFFF, 16, true, by decide +kernel⟩,
   ⟨up, 1023, by decide +kernel⟩,
   ⟨withCrossing 16 0xFFFFFFFF, 16, true, by decide +kernel⟩,
   ⟨up, 15, by decide +kernel⟩,
   ⟨up, 15, by decide +kernel⟩,
   ⟨{ withCrossing 1023 0x8000000F with xng.mutexes := [1023] }, 1023, 15, by decide +kernel⟩,
   ⟨{ withCrossing 1023 0x80000000 with xng.mutexes := [1023] }, 1023, 15, by decide +kernel⟩,
   ⟨up, 1023, by decide +kernel⟩,
   ⟨up, 15, by decide +kernel⟩⟩

theorem wit_HaltResumeAndPreemption :
    (∃ s : State, ∃ q, q < 16 ∧ s.live = true ∧ s.wrd.queues.length = 16 ∧ s.brg.fallbackDue =
      false ∧ s.xlt.deferred = [] ∧ (s.queue q).state = 1)
    ∧ (∃ s : State, ∃ q, q < 16 ∧ s.live = true ∧ s.wrd.queues.length = 16 ∧ (s.queue q).state =
      3)
    ∧ (∃ s : State, ∃ q, q < 16 ∧ s.live = true ∧ s.wrd.queues.length = 16 ∧ (s.queue q).state =
      2)
    ∧ (∃ s : State, ∃ q, ∃ o, q < 16 ∧ s.live = true ∧ s.wrd.queues.length = 16 ∧
      s.brg.fallbackDue = false ∧ (s.queue q).state = 3 ∧ s.openOf q = [o] ∧ s.slotOf o.slot =
      some o ∧ o.withdraw = none ∧ ((∀ u ∈ o.units, ¬ (12 ≤ u ∧ u < 28))))
    ∧ (∃ s : State, ∃ q, ∃ o, q < 16 ∧ s.live = true ∧ s.wrd.queues.length = 16 ∧
      s.brg.fallbackDue = false ∧ (s.queue q).state = 3 ∧ s.openOf q = [o] ∧ s.slotOf o.slot =
      some o ∧ o.withdraw = none ∧ ∃ u, u ∈ o.units ∧ 12 ≤ u ∧ u < 28 ∧ o.started = true)
    ∧ (∃ s : State, ∃ c, ∃ o, c < 16 ∧ s.live = true ∧ s.ave.plazaErrs = [] ∧ s.ave.ddrErrs = [] ∧
      s.slotOf o.slot = some o ∧ s.openStops.find? (fun o => o.units.contains (unitTile c) &&
      (o.preempt.contains (unitTile c) || o.withdraw.isSome)) = some o ∧ o.withdraw = none ∧
      s.pairOk R.TILE_SAVE_BASE 0 0 = true)
    ∧ (∃ s : State, ∃ c, ∃ o, c < 16 ∧ s.live = true ∧ s.ave.plazaErrs = [] ∧ s.ave.ddrErrs = [] ∧
      s.slotOf o.slot = some o ∧ s.openStops.find? (fun o => o.units.contains (unitTile c) &&
      (o.preempt.contains (unitTile c) || o.withdraw.isSome)) = some o ∧ ∃ k, o.withdraw = some k
      ∧ o.units = [unitTile c])
    ∧ (∃ s : State, ∃ c, ∃ g : GranuleSeen, c < 16 ∧ s.live = true ∧ g.corrected = 0 ∧ ((∃ o ∈
      s.openStops, unitTile c ∈ o.units)) ∧ ((∀ o ∈ s.openStops, unitTile c ∈ o.units → o.preempt
      = [] ∧ o.withdraw = none))) :=
  ⟨⟨withQueue 15 (fun x => { x with state := 1 }) up, 15, by decide +kernel⟩,
   ⟨withQueue 15 (fun x => { x with state := 3 }) up, 15, by decide +kernel⟩,
   ⟨withQueue 15 (fun x => { x with state := 2 }) up, 15, by decide +kernel⟩,
   ⟨withStop (opened 63 [] (stopOf 0 15 [] none)) (withQueue 15 (fun x => { x with state := 3 })
     up), 15, opened 63 [] (stopOf 0 15 [] none), by decide +kernel⟩,
   ⟨withStop (opened 63 [27] (stopOf 0x10 15 [] none)) (withQueue 15 (fun x =>
     { x with state := 3 }) up), 15, opened 63 [27] (stopOf 0x10 15 [] none), by decide +kernel,
     by decide +kernel, by decide +kernel, by decide +kernel, by decide +kernel,
     by decide +kernel, by decide +kernel, by decide +kernel, 27, by decide +kernel,
     by decide +kernel, by decide +kernel, by decide +kernel⟩,
   ⟨withStop { opened 63 [unitTile 15] (stopOf 0x10 15 [] none) with preempt := [unitTile 15] }
     up, 15, { opened 63 [unitTile 15] (stopOf 0x10 15 [] none) with preempt := [unitTile 15] },
     by decide +kernel⟩,
   ⟨withStop { opened 63 [unitTile 15] (stopOf 0x10 15 [] none) with withdraw := some 8 } up, 15,
     { opened 63 [unitTile 15] (stopOf 0x10 15 [] none) with withdraw := some 8 },
     by decide +kernel, by decide +kernel, by decide +kernel, by decide +kernel,
     by decide +kernel, by decide +kernel, 8, by decide +kernel, by decide +kernel⟩,
   ⟨withStop (opened 63 [unitTile 15] (stopOf 0x10 15 [] none)) up, 15, ⟨3, 4, 7, 0⟩,
     by decide +kernel⟩⟩

theorem wit_WardenTakeoverMovesEveryQueue :
    (∃ s : State, ∃ w, w < 2 ∧ s.live = true ∧ s.wardenOk w = true ∧ s.wardenOk (1 - w) = true ∧
      s.wrd.takeover = false)
    ∧ (∃ s : State, ∃ w, s.live = true ∧ s.wrd.diverged = some w) :=
  ⟨⟨up, 1, by decide +kernel⟩,
   ⟨{ up with wrd.diverged := some 1 }, 1, by decide +kernel⟩⟩

theorem wit_KillLineAndBoost :
    (∃ s : State, s.live = true)
    ∧ (∃ s : State, s.hv.boost = 1)
    ∧ (∃ s : State, s.anyOutput = false ∧ s.hv.sinks.all (fun x => !x.on) = true ∧ ((s.hv.boost =
      1 ∨ s.hv.boost = 2)))
    ∧ (∃ s : State, s.hv.restartDue = true ∧ s.hvUp = true)
    ∧ (∃ s : State, s.hv.boost = 2)
    ∧ (∃ s : State, s.hv.boost = 2 ∧ (s.hv.retries = 3))
    ∧ (∃ s : State, s.hv.overvoltage = false ∧ s.hvUp = true)
    ∧ (∃ s : State, (s.hv.boost = 3)) :=
  ⟨⟨up, by decide +kernel⟩,
   ⟨withHv (fun h => { h with boost := 1 }) up, by decide +kernel⟩,
   ⟨withHv (fun h => { h with boost := 1 }) up, by decide +kernel⟩,
   ⟨withHv (fun h => { h with restartDue := true }) up, by decide +kernel⟩,
   ⟨withHv (fun h => { h with boost := 2 }) up, by decide +kernel⟩,
   ⟨withHv (fun h => { h with boost := 2, retries := 3 }) up, by decide +kernel⟩,
   ⟨withHv id up, by decide +kernel⟩,
   ⟨withHv (fun h => { h with boost := 3 }) up, by decide +kernel⟩⟩

theorem wit_HvFramesCrossTheLink :
    (∃ s : State, ∃ q, ∃ a, s.hv.powered = true ∧ s.badPairs [0x50] = [] ∧ s.hv.kill = false ∧
      s.hv.lastSeq ≠ some (q % 16) ∧ hvsRegOf a ≠ none)
    ∧ (∃ s : State, ∃ q, s.hv.powered = true ∧ s.badPairs [0x50] = [] ∧ s.hv.kill = false ∧
      s.hv.lastSeq = some (q % 16))
    ∧ (∃ s : State, ∃ f, ∃ q, s.hv.linkLost = false ∧ s.hv.unacked = some f ∧ f.seq = q % 16)
    ∧ (∃ s : State, ∃ f, ∃ q, s.hv.linkLost = false ∧ s.hv.unacked = some f ∧ f.seq = q % 16 ∧
      (s.hv.waiting = [(4, 5)]))
    ∧ (∃ s : State, s.hv.linkLost = true)
    ∧ (∃ s : State, ∃ f, s.hv.unacked = some f)
    ∧ (∃ s : State, ∃ f, s.hv.unacked = some f ∧ (s.hv.resends = 3 ∧ s.hv.waiting = []))
    ∧ (∃ i, i ∈ statusIndexes)
    ∧ (∃ s : State, s.hv.powered = true)
    ∧ (∃ s : State, s.hv.powered = true)
    ∧ (∃ s : State, s.live = true)
    ∧ (∃ s : State, s.hv.linkLost = true) :=
  ⟨⟨withHv id up, 15, 18, by decide +kernel⟩,
   ⟨withHv (fun h => { h with lastSeq := some 15 }) up, 15, by decide +kernel⟩,
   ⟨withHv (fun h => { h with unacked := some ⟨1, 15, 4, 0⟩ }) up, ⟨1, 15, 4, 0⟩, 15,
     by decide +kernel⟩,
   ⟨withHv (fun h => { h with unacked := some ⟨1, 15, 4, 0⟩, waiting := [(4, 5)] }) up, ⟨1, 15, 4,
     0⟩, 15, by decide +kernel⟩,
   ⟨withHv (fun h => { h with linkLost := true }) up, by decide +kernel⟩,
   ⟨withHv (fun h => { h with unacked := some ⟨1, 15, 4, 0⟩ }) up, ⟨1, 15, 4, 0⟩,
     by decide +kernel⟩,
   ⟨withHv (fun h => { h with unacked := some ⟨1, 15, 4, 0⟩, resends := 3 }) up, ⟨1, 15, 4, 0⟩,
     by decide +kernel⟩,
   ⟨13, by decide +kernel⟩,
   ⟨withHv id up, by decide +kernel⟩,
   ⟨withHv id up, by decide +kernel⟩,
   ⟨up, by decide +kernel⟩,
   ⟨withHv (fun h => { h with linkLost := true }) up, by decide +kernel⟩⟩

theorem wit_HvLinkLossLeadsToSafe :
    (∃ s : State, s.live = true ∧ s.hv.linkLost = false)
    ∧ (∃ s : State, s.hvUp = true ∧ s.hv.safe = false)
    ∧ (∃ s : State, s.hv.safe = true) :=
  ⟨⟨withHv id up, by decide +kernel⟩,
   ⟨withHv id up, by decide +kernel⟩,
   ⟨withHv (fun h => { h with safe := true }) up, by decide +kernel⟩⟩

theorem wit_SinksAndRanges :
    (∃ s : State, s.hvUp = true ∧ s.badPairs [0x50] = [])
    ∧ (∃ s : State, ∃ k, k < 4 ∧ (s.sink k).on = true ∧ s.hv.sinks.length = 4)
    ∧ (∃ s : State, ∃ k, k < 4 ∧ (s.sink k).on = true ∧ (s.sink k).zeroReq = true ∧
      s.hv.sinks.length = 4)
    ∧ (∃ s : State, ∃ k, ∃ v, k < 4 ∧ bitN v 12 ≠ s.fld F.HVS_SINK_RANGE k)
    ∧ (∃ s : State, ∃ k, ∃ v, k < 4 ∧ bitN v 12 ≠ s.fld F.HVS_SINK_RANGE k ∧ (s.hvUp = true ∧
      s.hv.sinks.length = 4 ∧ bitN v 12 ≠ (s.sink k).range))
    ∧ (∃ s : State, ∃ k, k < 4 ∧ (s.sink k).settling = true ∧ s.hv.sinks.length = 4 ∧ (s.sink
      k).on = true)
    ∧ (∃ s : State, ∃ k, k < 4 ∧ (s.sink k).settling = true ∧ s.hv.sinks.length = 4 ∧ (s.sink
      k).on = false)
    ∧ (∃ s : State, ∃ x, x < 2 ∧ s.sco.outs.length = 2 ∧ (s.output x).blDelay = true) :=
  ⟨⟨withHv id up, by decide +kernel⟩,
   ⟨withSink (fun x => { x with on := true }) up, 3, by decide +kernel⟩,
   ⟨withSink (fun x => { x with on := true, zeroReq := true }) up, 3, by decide +kernel⟩,
   ⟨up, 3, 4096, by decide +kernel⟩,
   ⟨withHv id up, 3, 4096, by decide +kernel⟩,
   ⟨withSink (fun x => { x with settling := true, on := true }) up, 3, by decide +kernel⟩,
   ⟨withSink (fun x => { x with settling := true }) up, 3, by decide +kernel⟩,
   ⟨withOutput (fun o => { o with blDelay := true }) up, 1, by decide +kernel⟩⟩

theorem wit_SupplyHeadroomAndNtc :
    (∃ s : State, ∃ c, s.hvUp = true ∧ s.hv.vbatStop = false ∧ ((min c 4095 < s.uvLimit ∨
      s.ovLimit < min c 4095)) ∧ s.hv.vbatOut = 0)
    ∧ (∃ s : State, ∃ c, s.hvUp = true ∧ s.hv.vbatStop = false ∧ ((min c 4095 < s.uvLimit ∨
      s.ovLimit < min c 4095)) ∧ s.hv.vbatOut = 1)
    ∧ (∃ s : State, ∃ c, s.hvUp = true ∧ s.hv.vbatOk = false ∧ s.hv.vbatIn = 9 ∧ s.uvLimit ≤ min c
      4095 ∧ min c 4095 ≤ s.ovLimit ∧ s.uvLimit + 50 ≤ min c 4095 ∧ min c 4095 + 50 ≤ s.ovLimit)
    ∧ (∃ s : State, ∃ k, s.hvUp = true ∧ s.hv.boost = 2 ∧ (s.sink k).en = true ∧ (s.sink k).isOpen
      = false ∧ (s.sink k).isShort = false)
    ∧ (∃ s : State, ∃ c, c < 3 ∧ s.hvUp = true ∧ s.hvFld F.HVS_NTC_CFG_EN c = 1)
    ∧ (∃ s : State, ∃ c, c < 3 ∧ s.hv.ntcs.length = 3 ∧ (s.ntc c).converting = true) :=
  ⟨⟨withHv id up, 499, by decide +kernel⟩,
   ⟨withHv (fun h => { h with vbatOut := 1 }) up, 499, by decide +kernel⟩,
   ⟨withHv (fun h => { h with vbatIn := 9 }) up, 1200, by decide +kernel⟩,
   ⟨withSink (fun x => { x with en := true }) (withHv (fun h => { h with boost := 2 }) up), 3,
     by decide +kernel⟩,
   ⟨withHv (fun h => { h with hvRegs := [(16, 1)] }) up, 2, by decide +kernel⟩,
   ⟨{ up with hv.ntcs := [Ntc.reset, Ntc.reset, { Ntc.reset with converting := true }] }, 2,
     by decide +kernel⟩⟩

theorem wit_ScanOutCommits :
    (∃ s : State, ∃ x, x < 2 ∧ s.sco.outs.length = 2 ∧ bitN (s.rd R.SCO_CTRL) x = 0 ∧
      let v := setBits (s.rd R.SCO_CTRL) x x 1;
      let u := (setReg R.SCO_CTRL v).run s; u.scoOk ((u.outsInUse ++ [x]).dedup) u.fetchSet = true
        ∧ (s.output x).active = false ∧ s.secondary = false ∧ s.lamp.power = .running ∧
        u.outputsAllowed x = true ∧ unitSco x ∉ s.rcl.retired)
    ∧ (∃ s : State, ∃ x, x < 2 ∧ s.sco.outs.length = 2 ∧ bitN (s.rd R.SCO_CTRL) x = 0 ∧
      let v := setBits (s.rd R.SCO_CTRL) x x 1;
      let u := (setReg R.SCO_CTRL v).run s; u.scoOk ((u.outsInUse ++ [x]).dedup) u.fetchSet = true
        ∧ (s.output x).active = false ∧ s.secondary = false ∧ s.lamp.power = .running ∧
        u.outputsAllowed x = true ∧ unitSco x ∉ s.rcl.retired ∧ ((s.output x).panelOff = true ∧
        s.ports.panelEn.length = 2))
    ∧ (∃ s : State, ∃ x, x < 2 ∧ s.sco.outs.length = 2 ∧ bitN (s.rd R.SCO_CTRL) x = 0 ∧
      let v := setBits (s.rd R.SCO_CTRL) x x 1;
      let u := (setReg R.SCO_CTRL v).run s; u.scoOk ((u.outsInUse ++ [x]).dedup) u.fetchSet =
        false)
    ∧ (∃ s : State, ∃ x, x < 2 ∧ s.sco.outs.length = 2 ∧ bitN (s.rd R.SCO_CTRL) x = 1 ∧
      (((s.output x).phase = 1 ∨ (s.output x).phase = 2)))
    ∧ (∃ s : State, ∃ k, ∃ v, k < 6 ∧
      let w := v &&& (timingReg k).rw;
      let u := (setReg (timingReg k) w).run s; ((k == 5 || w != 0) && u.scoHeld) = true)
    ∧ (∃ s : State, ∃ k, ∃ v, k < 6 ∧
      let w := v &&& (timingReg k).rw;
      let u := (setReg (timingReg k) w).run s; ((k == 5 || w != 0) && u.scoHeld) = false)
    ∧ (∃ s : State, ∃ x, ∃ v, x < 2 ∧
      let w := v &&& R.SCO_OUT_CFG.rw;
      let u := (setReg R.SCO_OUT_CFG w x).run s; (ifaceOk (s.lvdsStrap x) w && u.scoHeld &&
        u.prefillFits x) = true)
    ∧ (∃ s : State, ∃ x, ∃ v, x < 2 ∧
      let w := v &&& R.SCO_OUT_CFG.rw;
      let u := (setReg R.SCO_OUT_CFG w x).run s; (ifaceOk (s.lvdsStrap x) w && u.scoHeld &&
        u.prefillFits x) = false)
    ∧ (∃ s : State, ∃ x, ∃ r, x < 2 ∧
      let w := setBits (s.rd R.SCO_OUT_CFG x) 7 7 r;
      let u := (setReg R.SCO_OUT_CFG w x).run s; (ifaceOk (s.lvdsStrap x) w && u.scoHeld &&
        u.prefillFits x) = true)
    ∧ (∃ s : State, ∃ x, ∃ v, x < 2 ∧
      let w := v &&& R.SCO_DPHY.rw;
      let u := (setReg R.SCO_DPHY w x).run s; ((u.lvdsStrap x || u.fld F.SCO_DPHY_RATE x != 0) &&
        u.scoHeld) = true)
    ∧ (∃ s : State, ∃ x, ∃ v, x < 2 ∧
      let w := v &&& R.SCO_DPHY.rw;
      let u := (setReg R.SCO_DPHY w x).run s; ((u.lvdsStrap x || u.fld F.SCO_DPHY_RATE x != 0) &&
        u.scoHeld) = false) :=
  ⟨⟨{ display with boot.outStartedB := true, boot.phase := 6 }, 1, by decide +kernel⟩,
   ⟨{ withOutput (fun o => { o with panelOff := true }) display with boot.outStartedB := true, boot.phase := 6 },
     1, by decide +kernel⟩,
   ⟨up, 1, by decide +kernel⟩,
   ⟨putReg R.SCO_CTRL 2 (withOutput (fun o => { o with phase := 1 }) display), 1,
     by decide +kernel⟩,
   ⟨withOutput (fun o => { o with phase := 2 }) display, 5, 1, by decide +kernel⟩,
   ⟨withOutput (fun o => { o with phase := 2 }) display, 4, 5, by decide +kernel⟩,
   ⟨withOutput (fun o => { o with phase := 2 }) display, 1, 0x1E0600, by decide +kernel⟩,
   ⟨display, 1, 0x1E0602, by decide +kernel⟩,
   ⟨withOutput (fun o => { o with phase := 2 }) display, 1, 1, by decide +kernel⟩,
   ⟨withOutput (fun o => { o with phase := 2 }) display, 1, 600, by decide +kernel⟩,
   ⟨withOutput (fun o => { o with phase := 2 }) display, 1, 79, by decide +kernel⟩⟩

theorem wit_PanelSequencesAndChanges :
    (∃ s : State, ∃ x, x < 2 ∧ s.sco.outs.length = 2 ∧ (s.output x).panel = .wake)
    ∧ (∃ s : State, ∃ x, x < 2 ∧ s.sco.outs.length = 2 ∧ (s.output x).panel = .upEn ∧
      s.ports.panelRst.length = 2)
    ∧ (∃ s : State, ∃ x, x < 2 ∧ s.sco.outs.length = 2 ∧ (s.output x).panel = .upRst ∧ s.usesDcs x
      = true)
    ∧ (∃ s : State, ∃ x, x < 2 ∧ s.sco.outs.length = 2 ∧ (s.output x).panel = .upRst ∧ s.usesDcs x
      = false ∧ s.secondary = false)
    ∧ (∃ s : State, ∃ x, x < 2 ∧ s.sco.outs.length = 2 ∧ (s.output x).panel = .upSleep)
    ∧ (∃ s : State, ∃ x, x < 2 ∧ s.sco.outs.length = 2 ∧ (s.output x).panel = .downRst ∧
      s.ports.panelEn.length = 2 ∧ bitN (s.rd R.SCO_CTRL) x = 0)
    ∧ (∃ s : State, ∃ x, x < 2 ∧ s.sco.outs.length = 2 ∧ (s.output x).idleHold = true ∧ (s.output
      x).stop = .changeOne ∧ s.secondary = false)
    ∧ (∃ s : State, ∃ x, x < 2 ∧ s.sco.outs.length = 2 ∧
      let len := s.fld F.SCO_DSI_TX_HDR_LEN x;
      let dt := s.fld F.SCO_DSI_TX_HDR_DT x; (lpTypes.contains dt = false ∨ 64 < len ∨ s.lvdsStrap
        x = true))
    ∧ (∃ s : State, ∃ x, x < 2 ∧ s.sco.outs.length = 2 ∧
      let len := s.fld F.SCO_DSI_TX_HDR_LEN x;
      let dt := s.fld F.SCO_DSI_TX_HDR_DT x; lpTypes.contains dt = true ∧ len ≤ 64 ∧ s.lvdsStrap x
        = false ∧ (s.output x).dphyOn = true ∧ (s.output x).lpBytes = []) :=
  ⟨⟨withOutput (fun o => { o with panel := .wake }) up, 1, by decide +kernel⟩,
   ⟨withOutput (fun o => { o with panel := .upEn }) up, 1, by decide +kernel⟩,
   ⟨putFld F.SCO_PANEL_SEQ_DCS 1 (withOutput (fun o => { o with panel := .upRst }) up) 1, 1,
     by decide +kernel⟩,
   ⟨{ withOutput (fun o => { o with panel := .upRst }) up with lamp.straps := ⟨0, true, true, false⟩ },
     1, by decide +kernel⟩,
   ⟨withOutput (fun o => { o with panel := .upSleep }) up, 1, by decide +kernel⟩,
   ⟨withOutput (fun o => { o with panel := .downRst }) up, 1, by decide +kernel⟩,
   ⟨withOutput (fun o => { o with idleHold := true, stop := .changeOne }) up, 1,
     by decide +kernel⟩,
   ⟨putFld F.SCO_DSI_TX_HDR_LEN 65 up 1, 1, by decide +kernel⟩,
   ⟨putFld F.SCO_DSI_TX_HDR_DT 0x05 (putFld F.SCO_DSI_TX_HDR_LEN 64 (withOutput (fun o =>
     { o with dphyOn := true }) up) 1) 1, 1, by decide +kernel⟩⟩

theorem wit_TeEdgesStartFrames :
    (∃ s : State, ∃ x, ∃ v, x < 2 ∧ s.sco.genRun = true ∧ s.commandMode = true ∧ (v = (bitN (nth 0
      s.sco.timing 5) x == 0)) ∧ s.teOutput = x ∧ s.transmitting = false ∧ s.tooEarly = false)
    ∧ (∃ s : State, ∃ x, ∃ v, x < 2 ∧ s.sco.genRun = true ∧ s.commandMode = true ∧ (v = (bitN (nth
      0 s.sco.timing 5) x == 0)) ∧ s.teOutput = x ∧ s.transmitting = false ∧ s.tooEarly = true)
    ∧ (∃ s : State, ∃ x, ∃ v, ∃ k : Int, x < 2 ∧ s.sco.genRun = true ∧ s.commandMode = true ∧ (v =
      (bitN (nth 0 s.sco.timing 5) x == 0)) ∧ s.teOutput ≠ x ∧ (s.output 0).phase ≠ 0 ∧ (s.output
      1).phase ≠ 0 ∧ s.sco.teWait.isSome = true ∧ k.natAbs ≤ s.timing.htotal)
    ∧ (∃ s : State, s.sco.teWait.isSome = true)
    ∧ (∃ s : State, s.sco.genRun = true ∧ s.commandMode = true ∧ s.sco.freerun = false ∧ s.sco.due
      = false)
    ∧ (∃ s : State, s.sco.genRun = true ∧ s.sco.freerun = true) :=
  ⟨⟨{ cmdMode with sco.frameAt := none }, 1, true, by decide +kernel⟩,
   ⟨{ cmdMode with sco.frameAt := some 0 }, 1, true, by decide +kernel⟩,
   ⟨{ cmdMode with sco.outs := [{ Output.reset with phase := 2, outCfg := 0x1E0601 }, { Output.reset with phase := 2, outCfg := 0x1E0601 }], sco.teWait := some 5 },
     1, true, 3, by decide +kernel⟩,
   ⟨{ up with sco.teWait := some 5 }, by decide +kernel⟩,
   ⟨cmdMode, by decide +kernel⟩,
   ⟨{ cmdMode with sco.freerun := true }, by decide +kernel⟩⟩

theorem wit_IconsAndTheirSram :
    (∃ s : State, ∃ n, ∃ v, n < 64 ∧
      let w := (v &&& 0x5FFF0FFF) ||| 0x80000000; s.iconPlaceOk n { s.iconRect n with pos := w } =
        true)
    ∧ (∃ s : State, ∃ n, ∃ v, n < 64 ∧
      let w := (v &&& 0x5FFF0FFF) ||| 0x80000000; s.iconPlaceOk n { s.iconRect n with pos := w } =
        false)
    ∧ (∃ s : State, s.memsOk ∧ (s.iconRect (s.fld F.SGN_SRAM_ADDR_WORD * 4 / 4096)).en = false)
    ∧ (∃ s : State, (s.iconRect (s.fld F.SGN_SRAM_ADDR_WORD * 4 / 4096)).en = true)
    ∧ (∃ s : State, ∃ c, c < 2 ∧ s.can.length = 2 ∧ s.anyIconFailed = true ∧ 2 ≤ s.boot.phase ∧
      s.secondary = false ∧ bitN (s.fld F.SVC_STATUS_MSG_CTRL) c = 1 ∧ s.flag F.CAN_CTRL_EN c =
      true) :=
  ⟨⟨display, 63, 0, by decide +kernel⟩,
   ⟨up, 63, 0, by decide +kernel⟩,
   ⟨up, (sound_of (by decide +kernel)).mems, by decide +kernel⟩,
   ⟨putReg R.SGN_ICON_POS 0x80000000 up, by decide +kernel⟩,
   ⟨putReg R.SGN_FAIL_HI 0x80000000 <| putFld F.SVC_STATUS_MSG_CTRL 2 <| putFld F.CAN_CTRL_EN 1
     { up with boot.phase := 2 } 1, 1, by decide +kernel⟩⟩

theorem wit_TracksAndOffers :
    (∃ s : State, ∃ t, ∃ v, t < 6 ∧ s.rbt.tracks.length = 6 ∧ s.badPairs [0x40] = [] ∧
      let w := trkWord (setBits v 0 0 1);
      let u := (setReg R.RBT_TRK_CFG w t).run s; s.flag F.RBT_TRK_CFG_EN t = false ∧ (s.track
        t).enabled = false ∧ u.trackOk t = true)
    ∧ (∃ s : State, ∃ t, ∃ v, t < 6 ∧ s.rbt.tracks.length = 6 ∧ s.badPairs [0x40] = [] ∧
      let w := trkWord (setBits v 0 0 1);
      let u := (setReg R.RBT_TRK_CFG w t).run s; s.flag F.RBT_TRK_CFG_EN t = false ∧ (s.track
        t).enabled = false ∧ u.trackOk t = false)
    ∧ (∃ s : State, ∃ t, ∃ v, t < 6 ∧ s.rbt.tracks.length = 6 ∧ s.badPairs [0x40] = [] ∧
      let w := trkWord (setBits v 0 0 1); s.flag F.RBT_TRK_CFG_EN t = true ∧ bits w 11 8 ≠ s.fld
        F.RBT_TRK_CFG_STANDS t)
    ∧ (∃ s : State, ∃ t, ∃ v, t < 6 ∧ s.rbt.tracks.length = 6 ∧ s.badPairs [0x40] = [] ∧
      let w := trkWord (setBits v 0 0 0); bits w 11 8 = s.fld F.RBT_TRK_CFG_STANDS t)
    ∧ (∃ s : State, ∃ t, ∃ v, t < 6 ∧ s.rbt.tracks.length = 6 ∧ s.badPairs [0x40] = [] ∧
      let w := trkWord (setBits v 0 0 0); s.flag F.RBT_TRK_CFG_EN t = true ∧ bits w 11 8 ≠ s.fld
        F.RBT_TRK_CFG_STANDS t)
    ∧ (∃ s : State, ∃ i, ∃ o, ∃ n, s.executing i 0x40 = some o ∧ (offerParam o.stop.desc).action =
      0 ∧
      let p := offerParam o.stop.desc; p.track < s.rbt.tracks.length ∧ s.freeLock = some n ∧
        s.badPairs [0x40] = [] ∧ s.standPoisoned p.track p.stand = false ∧ o.withdraw = none ∧
        s.offerRefused i p.track p.stand p.kind o.stop.pn = false)
    ∧ (∃ s : State, ∃ i, ∃ o, ∃ n, s.executing i 0x40 = some o ∧ (offerParam o.stop.desc).action =
      0 ∧
      let p := offerParam o.stop.desc; p.track < s.rbt.tracks.length ∧ s.freeLock = some n ∧
        s.badPairs [0x40] = [] ∧ s.standPoisoned p.track p.stand = false ∧ o.withdraw = none ∧
        s.offerRefused i p.track p.stand p.kind o.stop.pn = true ∧ s.brg.fallbackDue = false) :=
  ⟨⟨up, 5, 2, by decide +kernel⟩,
   ⟨putFld F.RBT_TRK_BASE_HI_BASE 15 up 5, 5, 2, by decide +kernel⟩,
   ⟨putFld F.RBT_TRK_CFG_EN 1 up 5, 5, 0x300, by decide +kernel⟩,
   ⟨withTrack (fun x => { x with enabled := true }) up, 5, 0x200, by decide +kernel⟩,
   ⟨putFld F.RBT_TRK_CFG_EN 1 up 5, 5, 0x300, by decide +kernel⟩,
   ⟨withStop (rbtStop 0) (withTrack (fun x => { x with enabled := true }) up), 15, rbtStop 0, 0,
     by decide +kernel⟩,
   ⟨withStop (rbtStop 0) up, 15, rbtStop 0, 0, by decide +kernel⟩⟩

theorem wit_GenerateRelocateCompose :
    (∃ s : State, ∃ i, ∃ o, ∃ c, s.ready i 0x40 o ∧ (offerParam o.stop.desc).action = 1 ∧
      let p := offerParam o.stop.desc; p.track < s.rbt.tracks.length ∧ s.freeLock.isSome = true ∧
        s.badPairs [0x40] = [] ∧ s.standPoisoned p.track p.stand = false ∧ s.genSource o p = some
        c ∧ s.offerRefused i p.track p.stand 2 c.pn = false)
    ∧ (∃ s : State, ∃ i, ∃ o, s.executing i 0x40 = some o ∧ (offerParam o.stop.desc).action = 1)
    ∧ (∃ s : State, ∃ t, ∃ r : Reloc, s.rbt.tracks.length = 6 ∧ t < 6 ∧ (s.track t).reloc = some r
      ∧ r.copied = false ∧ s.ave.plazaErrs = [] ∧ s.ave.ddrErrs = [])
    ∧ (∃ s : State, ∃ i, ∃ o, s.ready i 0x12 o ∧ ((∀ p ∈ composePieces s o, (s.readMark p.1
      p.2).poison = false))) :=
  ⟨⟨withStop generating (withTrack (fun x =>
     { x with enabled := true, pending := [⟨0, 0, 0, 0, 0⟩] }) up), 15, generating, ⟨0, 0, 0, 0,
     0⟩, generating_ready (by decide +kernel), by decide +kernel, by decide +kernel,
     by decide +kernel, by decide +kernel, by decide +kernel, by decide +kernel,
     by decide +kernel⟩,
   ⟨withStop (rbtStop 1) up, 15, rbtStop 1, by decide +kernel⟩,
   ⟨withTrack (fun x => { x with reloc := some ⟨1, 2, false⟩ }) up, 5, ⟨1, 2, false⟩,
     by decide +kernel⟩,
   ⟨withStop (plain 0x12) up, 15, plain 0x12, ready_plain rfl (by decide +kernel),
     by decide +kernel⟩⟩

theorem wit_GatesBindTheirInputs :
    (∃ s : State, ∃ g, g < s.rbt.gateCount ∧ (s.gateRec g).kind ≠ 0 ∧ (s.gate g).started = false ∧
      atLeast (s.crossing (s.gateRec g).trig).value ((s.gateRec g).t0 + (s.gate g).p * (s.gateRec
      g).tstep) = true ∧ ((s.gate g).p + 2 ^ 32 - (s.crossing (s.gateRec g).rel).value) % 2 ^ 32 <
      (s.gateRec g).boundSlots)
    ∧ (∃ s : State, ∃ g, s.bindable g ∧ (s.gateRec g).kind = 1 ∧
      let p := (s.gate g).p;
      let e := (s.gateRec g).expected p;
      let v := (s.crossing (s.gateRec g).src).value; atLeast v e = true ∧ s.sourceApart g e)
    ∧ (∃ s : State, ∃ g, s.bindable g ∧ (s.gateRec g).kind = 1 ∧
      let p := (s.gate g).p;
      let e := (s.gateRec g).expected p;
      let v := (s.crossing (s.gateRec g).src).value; atLeast v e = false ∧ v ≠ 0 ∧ s.sourceApart g
        v)
    ∧ (∃ s : State, ∃ g, s.bindable g ∧ (s.gateRec g).kind = 1 ∧
      let p := (s.gate g).p;
      let e := (s.gateRec g).expected p;
      let v := (s.crossing (s.gateRec g).src).value; atLeast v e = false ∧ v = 0)
    ∧ (∃ s : State, ∃ g, s.bindable g ∧ (s.gateRec g).kind = 2) :=
  ⟨⟨gated 1 false, 15, by decide +kernel⟩,
   ⟨gated 1 true, 15, (by unfold State.bindable; decide +kernel), by decide +kernel,
     by decide +kernel, (by unfold State.sourceApart; decide +kernel)⟩,
   ⟨{ gated 1 true with xng.cells := [(21, Crossing.fresh 0xFFFFFFFF)] }, 15,
     (by unfold State.bindable; decide +kernel), by decide +kernel, by decide +kernel,
     by decide +kernel, (by unfold State.sourceApart; decide +kernel)⟩,
   ⟨{ gated 1 true with rbt.gates := List.replicate 15 Gate.reset ++ [⟨1, true, 0⟩] }, 15,
     (by unfold State.bindable; decide +kernel), by decide +kernel, by decide +kernel,
     by decide +kernel⟩,
   ⟨gated 2 true, 15, (by unfold State.bindable; decide +kernel), by decide +kernel⟩⟩

theorem wit_CameraStartsAndStops :
    (∃ s : State, ∃ v, s.flag F.CAM_STATUS_RUNNING = false ∧ s.flag F.CAM_STATUS_ABSENT = false ∧
      s.cam.held = false ∧ s.lamp.power = .running ∧ s.secondary = false ∧
      let w := camCtrlWord v 1;
      let u := (setReg R.CAM_CTRL w).run s; u.camStartOk w = true ∧ s.badPairs [0x31] = [])
    ∧ (∃ s : State, ∃ v, s.flag F.CAM_STATUS_RUNNING = false ∧ s.flag F.CAM_STATUS_ABSENT = false
      ∧ s.cam.held = false ∧ s.lamp.power = .running ∧ s.secondary = false ∧
      let w := camCtrlWord v 1;
      let u := (setReg R.CAM_CTRL w).run s; u.camStartOk w = false)
    ∧ (∃ s : State, s.flag F.CAM_STATUS_RUNNING = true ∧ s.cam.frame = none)
    ∧ (∃ s : State, s.flag F.CAM_STATUS_RUNNING = true ∧ s.cam.frame ≠ none) :=
  ⟨⟨camera, 0x102000, by decide +kernel⟩,
   ⟨{ up with cam.held := false }, 0x10012, by decide +kernel⟩,
   ⟨putFld F.CAM_STATUS_RUNNING 1 camera, by decide +kernel⟩,
   ⟨inFrame, by decide +kernel⟩⟩

theorem wit_CameraFrames :
    (∃ s : State, ∃ h, s.camRuns = true ∧ s.cam.closing = false ∧ h < 2 ∧
      let room := (s.rd R.CAM_PUBLISHED + 2 ^ 32 - (s.crossing (s.camCtrl
        F.CAM_CTRL_REL_XNG)).value) % 2 ^ 32; s.cam.lastStart = none ∧ s.cam.frame = none ∧
        s.badPairs [0x31] = [] ∧ room < s.camCtrl F.CAM_CTRL_SLOTS)
    ∧ (∃ s : State, ∃ h, s.camRuns = true ∧ s.cam.closing = false ∧ h < 2 ∧
      let room := (s.rd R.CAM_PUBLISHED + 2 ^ 32 - (s.crossing (s.camCtrl
        F.CAM_CTRL_REL_XNG)).value) % 2 ^ 32; s.cam.lastStart = none ∧ s.cam.frame = none ∧
        s.camCtrl F.CAM_CTRL_SLOTS ≤ room)
    ∧ (∃ s : State, ∃ h, s.camRuns = true ∧ s.cam.closing = false ∧ h < 2 ∧ ∃ a, s.cam.lastStart =
      some a ∧ s.time < a + usTicks (s.fld F.CAM_MIN_PERIOD_US))
    ∧ (∃ s : State, ∃ h, s.camRuns = true ∧ h < 2 ∧ s.cam.frame ≠ none ∧ s.cam.dropping = false)
    ∧ (∃ s : State, s.camRuns = true ∧ s.cam.frame ≠ none) :=
  ⟨⟨running, 1, by decide +kernel⟩,
   ⟨{ running with cam.ctrl := 0x10011 }, 1, by decide +kernel⟩,
   ⟨{ running with cam.lastStart := some 0 }, 1, by decide +kernel, by decide +kernel,
     by decide +kernel, 0, by decide +kernel, by decide +kernel⟩,
   ⟨inFrame, 1, by decide +kernel⟩,
   ⟨inFrame, by decide +kernel⟩⟩

theorem wit_CameraPackets :
    (∃ s : State, ∃ f, s.camRuns = true ∧ s.cam.frame = some f ∧ f.line < f.height ∧
      s.cam.dropping = false)
    ∧ (∃ s : State, ∃ f, s.camRuns = true ∧ s.cam.frame = some f)
    ∧ (∃ s : State, s.camRuns = true)
    ∧ (∃ s : State, ∃ vc, s.camRuns = true ∧ (vc = s.camCtrl F.CAM_CTRL_VC))
    ∧ (∃ s : State, ∃ vc, ∃ dt, ∃ h, s.camRuns = true ∧ h < 2 ∧ (vc ≠ s.camCtrl F.CAM_CTRL_VC ∨ dt
      ≠ camType (s.camCtrl F.CAM_CTRL_FMT)))
    ∧ (∃ s : State, ∃ vc, ∃ dt, ∃ h, s.camRuns = true ∧ h < 2 ∧ (vc ≠ s.camCtrl F.CAM_CTRL_VC ∨ dt
      ≠ camType (s.camCtrl F.CAM_CTRL_FMT)) ∧ (vc = s.camCtrl F.CAM_CTRL_VC ∧ h = 1))
    ∧ (∃ s : State, s.flag F.CAM_CTRL_EN = true ∧ s.lamp.power = .running ∧ s.flag
      F.CAM_STATUS_STALE = false)
    ∧ (∃ s : State, s.camRuns = true) :=
  ⟨⟨inFrame, camFrame, by decide +kernel⟩,
   ⟨inFrame, camFrame, by decide +kernel⟩,
   ⟨running, by decide +kernel⟩,
   ⟨running, 1, by decide +kernel⟩,
   ⟨running, 3, 0x2A, 0, by decide +kernel⟩,
   ⟨running, 1, 0x12, 1, by decide +kernel⟩,
   ⟨putFld F.CAM_CTRL_EN 1 running, by decide +kernel⟩,
   ⟨running, by decide +kernel⟩⟩

theorem wit_VisionEnginesRunTheirStops :
    (∃ s : State, ∃ i, ∃ o, s.ready i 0x30 o)
    ∧ (∃ s : State, ∃ i, ∃ o, s.ready i 0x31 o)
    ∧ (∃ s : State, ∃ i, ∃ o, s.ready i 0x32 o)
    ∧ (∃ s : State, ∃ i, ∃ o, s.ready i 0x33 o)
    ∧ (∃ s : State, ∃ i, ∃ o, ∃ e, ∃ c, (e, c) ∈ [(0, Instr.warp i true), (1, .pyramid i true),
      (2, .motion i true), (3, .stats i true)] ∧ s.live = true ∧ s.executing i (0x30 + e) = some o
      ∧ s.rcl.escalating = false ∧ s.rcl.pending.length < 8 ∧ unitVis e ∉ s.rcl.fenced) :=
  ⟨⟨withStop (plain 0x30) up, 15, plain 0x30, ready_plain rfl (by decide +kernel)⟩,
   ⟨withStop (plain 0x31) up, 15, plain 0x31, ready_plain rfl (by decide +kernel)⟩,
   ⟨withStop (plain 0x32) up, 15, plain 0x32, ready_plain rfl (by decide +kernel)⟩,
   ⟨withStop (plain 0x33) up, 15, plain 0x33, ready_plain rfl (by decide +kernel)⟩,
   ⟨withStop (plain 0x33) up, 15, plain 0x33, 3, .stats 15 true, by decide +kernel⟩⟩

theorem wit_ComputeOperationsWriteTheirOutput :
    (∀ k < 11, ∃ (s : State) (i : Nat) (o : OpenStop),       s.ready i 0x11 o ∧ (opParam
      o.stop.desc).op = k) :=
  fun k hk => ⟨withStop (computing k) up, 15, computing k,       ready_plain rfl
    (by interval_cases k <;> decide +kernel),       by interval_cases k <;> decide +kernel⟩

theorem wit_CombinerInstructions :
    (∃ (s : State) (n i : Nat) (ins : CombIns) (o : OpenStop),       (nth Core.reset s.ras.cores
      n).slot = some i ∧ s.slotOf i = some o       ∧ (nth Core.reset s.ras.cores n).fragment =
      true       ∧ nth 0xFF (nth Core.reset s.ras.cores n).tex ins.sampler ≠ 0xFF) :=
  ⟨shading, 15, 15, someIns, plain 0x10, by decide +kernel⟩

theorem wit_LaneWritesItsDestinationOnly :
    (∃ l : Lane, l.temps.length = 8 ∧ l.outs.length = 8)
    ∧ (∃ l : Lane, l.temps.length = 8 ∧ l.outs.length = 8)
    ∧ (∃ ins : CombIns, ∃ l : Lane, l.temps.length = 8 ∧ l.outs.length = 8 ∧ ∃ k, k ≠ ins.dst)
    ∧ (∃ ins : CombIns, ∃ l : Lane, l.temps.length = 8 ∧ l.outs.length = 8 ∧ ∃ k, k + 48 ≠
      ins.dst)
    ∧ (∃ ins : CombIns, ∃ l : Lane, l.temps.length = 8 ∧ l.outs.length = 8 ∧ bitN ins.wmask 0 = 0)
    ∧ (∃ ins : CombIns, ∃ l : Lane, l.temps.length = 8 ∧ l.outs.length = 8 ∧ ins.dst < 8 ∧ ins.sat
      = false ∧ ins.wmask % 16 = 15) :=
  ⟨⟨Lane.reset, by decide +kernel⟩,
   ⟨Lane.reset, by decide +kernel⟩,
   ⟨someIns, Lane.reset, by decide +kernel, by decide +kernel, 6, by decide +kernel⟩,
   ⟨someIns, Lane.reset, by decide +kernel, by decide +kernel, 7, by decide +kernel⟩,
   ⟨{ someIns with wmask := 14 }, Lane.reset, by decide +kernel⟩,
   ⟨someIns, Lane.reset, by decide +kernel⟩⟩

theorem wit_RasterPassRunsToItsEnd :
    (∃ s : State, ∃ i, ∃ w, s.ras.held = none ∧ s.ras.waiting = i :: w)
    ∧ (∃ s : State, ∃ i, ∃ o, s.ras.held = some i ∧ s.executing i 0x10 = some o ∧
      let p := passParam o.stop.desc; p.direct = false ∧ s.ras.binDone = false ∧ lotBytes p
        (livePrims (s.passPrims o p (s.cmdHead o p))) ≤ s.rd R.RAS_LOT_SIZE)
    ∧ (∃ s : State, ∃ i, ∃ o, s.ras.held = some i ∧ s.ready i 0x10 o ∧ (((passParam
      o.stop.desc).direct = true ∨ s.ras.binDone = true))) :=
  ⟨⟨{ up with ras.waiting := [15] }, 15, [], by decide +kernel⟩,
   ⟨setReg R.RAS_LOT_SIZE 0x100000 |>.run { withStop binStop up with ras.held := some 15 }, 15,
     binStop, by decide +kernel⟩,
   ⟨{ withStop (plain 0x10) up with ras.held := some 15, ras.binDone := true }, 15, plain 0x10,
     by decide +kernel, ready_plain rfl (by decide +kernel), by decide +kernel⟩⟩

theorem wit_CalibrationAndSweep :
    (∃ s : State, ∃ p, p < 200 ∧ s.dst.arrs.length = 200 ∧ s.dst.mapped = true ∧ (s.arr p).retired
      = false)
    ∧ (∃ s : State, ∃ p, p < 200 ∧ s.dst.arrs.length = 200 ∧ (s.arr p).retired = false ∧ (s.arr
      p).calDue = true ∧ (s.arr p).calForced = false ∧ (s.arr p).calRunning = false)
    ∧ (∃ s : State, ∃ p, ∃ cols, p < 200 ∧ s.dst.arrs.length = 200 ∧ (s.arr p).calRunning = true ∧
      16 ≤ (arrayN cols).1)
    ∧ (∃ s : State, ∃ p, ∃ cols, p < 200 ∧ s.dst.arrs.length = 200 ∧ (s.arr p).calRunning = true ∧
      (s.arr p).retired = false ∧ (s.arr p).backs = none ∧ (arrayN cols).1 < 16)
    ∧ (∃ s : State, ∃ p, ∃ c : SweepSeen, p < 200 ∧ s.dst.mapped = true ∧ (s.arr p).retired =
      false ∧ (s.arrayInUse p = false ∨ (s.arr p).sweepForced = true) ∧ (s.arr p).sweepMismatch
      c.first = false)
    ∧ (∃ s : State, ∃ p, p < 200 ∧ s.dst.mapped = true ∧ (s.arr p).retired = false ∧ s.arrayInUse
      p = true ∧ (s.arr p).sweepForced = false)
    ∧ (∃ s : State, ∃ p, p < 200 ∧ (s.arr p).sweepHeld = true) :=
  ⟨⟨{ up with dst.mapped := true }, 199, by decide +kernel⟩,
   ⟨withArr (fun x => { x with calDue := true }) up, 199, by decide +kernel⟩,
   ⟨withArr (fun x => { x with calRunning := true }) up, 199, [], by decide +kernel⟩,
   ⟨withArr (fun x => { x with calRunning := true }) up, 199, badCols, by decide +kernel⟩,
   ⟨{ up with dst.mapped := true }, 199, ⟨[], []⟩, by decide +kernel⟩,
   ⟨{ withStop { layerStop with units := [unitDst 7] } (withArr (fun x => { x with backs := some 0 }) up) with dst.mapped := true },
     199, by decide +kernel⟩,
   ⟨withArr (fun x => { x with sweepHeld := true }) up, 199, by decide +kernel⟩⟩

theorem wit_PageWritesRecordTheirPages :
    (∃ s : State, ∃ i, ∃ o, s.ready i 0x21 o ∧ ((∀ k off n, (s.readMark (o.stop.pa k off)
      n).poison = false)) ∧ ((upTo (writeEntries o.stop.desc)).all fun n => s.dst.pwDone.contains
      (i, n)) = true)
    ∧ (∃ s : State, ∃ i, ∃ o, ∃ n, ∃ p, s.ready i 0x21 o ∧ ((∀ k off n, (s.readMark (o.stop.pa k
      off) n).poison = false)) ∧ ((upTo (writeEntries o.stop.desc)).all fun n =>
      s.dst.pwDone.contains (i, n)) = false ∧ ((upTo (writeEntries o.stop.desc)).any fun n =>
      !s.dst.pwDone.contains (i, n) && (s.backing (mapEntry o.stop.desc n).logical).isNone) =
      false ∧ s.dueWrites i o.stop.desc = [(n, p)] ∧ p < s.dst.arrs.length)
    ∧ (∃ s : State, ∃ p, ∃ w, p < s.dst.arrs.length ∧ (s.arr p).writing = some w ∧ w.slot = none ∧
      (s.arr p).rewrites = [] ∧ w.page < (s.arr p).pages.length)
    ∧ (∃ s : State, ∃ p, ∃ w, p < s.dst.arrs.length ∧ (s.arr p).writing = some w ∧ ∃ i, w.slot =
      some i ∧ w.shuttle = none ∧ s.slotOf i = none)
    ∧ (∃ s : State, ∃ p, ∃ w, p < s.dst.arrs.length ∧ (s.arr p).writing = some w ∧ w.second =
      false)
    ∧ (∃ s : State, ∃ p, ∃ w, p < s.dst.arrs.length ∧ (s.arr p).writing = some w ∧ w.second = true
      ∧ w.slot = none ∧ (s.arr p).retired = false ∧ (s.arr p).backs = none) :=
  ⟨⟨withStop (plain 0x21) up, 15, plain 0x21, ready_plain rfl (by decide +kernel), noPoison rfl
     rfl rfl rfl, by decide +kernel⟩,
   ⟨withStop writeStop (withArr (fun x => { x with backs := some 0 }) up), 15, writeStop, 0, 199,
     ready_plain rfl (by decide +kernel), noPoison rfl rfl rfl rfl, by decide +kernel,
     by decide +kernel, by decide +kernel, by decide +kernel⟩,
   ⟨withArr (fun x => { x with writing := some ⟨1, 2, 3, false, none, none, 0, []⟩ }) up, 199, ⟨1,
     2, 3, false, none, none, 0, []⟩, by decide +kernel⟩,
   ⟨withArr (fun x => { x with writing := some ⟨1, 2, 3, false, some 63, none, 0, []⟩ }) up, 199,
     ⟨1, 2, 3, false, some 63, none, 0, []⟩, by decide +kernel, by decide +kernel, 63,
     by decide +kernel, by decide +kernel, by decide +kernel⟩,
   ⟨withArr (fun x => { x with writing := some ⟨1, 2, 3, false, none, none, 0, []⟩ }) up, 199, ⟨1,
     2, 3, false, none, none, 0, []⟩, by decide +kernel⟩,
   ⟨withArr (fun x => { x with writing := some ⟨1, 2, 3, true, none, none, 0, []⟩ }) up, 199, ⟨1,
     2, 3, true, none, none, 0, []⟩, by decide +kernel⟩⟩

theorem wit_LayersAndPasses :
    (∃ s : State, ∃ i, ∃ o, s.ready i 0x20 o ∧ ((∀ p ∈ layerPieces s o, (s.readMark p.1
      p.2).poison = false)) ∧
      let es := layerEntries o.stop.desc; s.layerFree es = true ∧ ((∀ e ∈ es, ∃ p, s.backing
        e.logical = some p ∧ (e.shuttle = false → (nth Page.reset (s.arr p).pages e.page).tag =
        some e.tag))) ∧ ((∀ e ∈ es, ∀ f ∈ es, e.shuttle = true → f.shuttle = false → (e.logical,
        e.page) ≠ (f.logical, f.page))))
    ∧ (∃ s : State, ∃ i, ∃ o, ∃ d, s.live = true ∧ s.executing i 0x20 = some o ∧ d < 8 ∧
      s.rcl.escalating = false ∧ s.rcl.pending.length < 8 ∧ unitDst d ∉ s.rcl.fenced)
    ∧ (∃ s : State, ∃ i, ∃ o, ∃ n, ∃ v, ∃ p, ∃ e : MapEntry, s.executing i 0x20 = some o ∧
      let l := layerOf o.stop.desc;
      let es := layerEntries o.stop.desc;
      let g := nth Page.reset (s.arr p).pages e.page;
      let x := s.tileInput o l e (l.vector v);
      let q := (s.arr p).suspect.bind fun q => if q.1 = e.page then some q.2 else none;
      let r := g.convertPass q (s.arr p).nExact l.p x l.p []; es[n]? = some e ∧ e.shuttle = false
        ∧ s.passDue i l es n v = true ∧ s.backing e.logical = some p ∧ p < s.dst.arrs.length ∧
        e.page < (s.arr p).pages.length ∧ (s.arr p).held = false ∧ (s.arr p).pageBusy e.page =
        false ∧ (s.arr p).retired = false ∧ g.tag = some e.tag ∧ g.sumsBad = false ∧ r.last =
        .checked ∧ r.fails = 0 ∧ r.cals = 0) :=
  ⟨⟨withStop (plain 0x20) up, 15, plain 0x20, ready_plain rfl (by decide +kernel),
     by decide +kernel, by decide +kernel, by decide +kernel, by decide +kernel⟩,
   ⟨withStop (plain 0x20) up, 15, plain 0x20, 7, by decide +kernel⟩,
   ⟨withStop layerStop (withArr (fun x =>
     { x with backs := some 0, pages := [⟨some 0, 0, [], [], []⟩, Page.reset] }) up), 15,
     layerStop, 0, 0, 199, mapEntry layerStop.stop.desc 0, by decide +kernel⟩⟩

theorem wit_CanControllersAndStaleSignals :
    (∃ s : State, ∃ c, c < 2 ∧ s.can.length = 2)
    ∧ (∃ s : State, ∃ c, c < 2 ∧ s.can.length = 2 ∧ (s.flag F.CAN_CTRL_EN c = true))
    ∧ (∃ s : State, ∃ c, ∃ f, ∃ q, c < 2 ∧ s.can.length = 2 ∧ s.canTalks c = true ∧ 2 ≤
      s.boot.phase ∧ (s.canCtl c).queue = f :: q)
    ∧ (∃ s : State, ∃ c, c < 2 ∧ s.can.length = 2 ∧ s.canOn c = true)
    ∧ (∃ s : State, ∃ c, c < 2 ∧ s.can.length = 2 ∧ s.canOn c = true ∧ ((s.canCtl
      c).busOffs.length = 7 ∧ ∀ x ∈ (s.canCtl c).busOffs, s.time < x + 25000000))
    ∧ (∃ s : State, ∃ c, c < 2 ∧ s.can.length = 2 ∧ (s.canCtl c).state = 2 ∧ (s.canCtl c).holdoff
      = false)
    ∧ (∃ s : State, ∃ c, c < 2 ∧ s.can.length = 2 ∧ (s.canCtl c).state = 2 ∧ (s.canCtl c).holdoff
      = true)
    ∧ (∃ s : State, ∃ c, c < 2 ∧ s.can.length = 2 ∧ (s.canCtl c).state = 2 ∧ (s.canCtl c).holdoff
      = true)
    ∧ (∃ s : State, ∃ c, ∃ f, ∃ q, c < 2 ∧ s.can.length = 2 ∧ (s.canCtl c).queue = f :: q ∧ ((∀ g
      ∈ q, f.queuedAt ≤ g.queuedAt)))
    ∧ (∃ s : State, ∃ c, c < 2 ∧ s.can.length = 2 ∧ s.canOn c = true ∧ (s.canCtl c).state = 0)
    ∧ (∃ s : State, ∃ n, n < 64 ∧ s.svc.intakeRun = true ∧ s.flag F.SVC_SIG_ID_EN n = true ∧ s.fld
      F.SVC_SIG_TIM_STALE n ≠ 0 ∧ bitN (s.snap n 0x0C 2) 1 = 0 ∧ s.memsOk ∧ s.lamp.retARetired =
      false) :=
  ⟨⟨up, 1, by decide +kernel⟩,
   ⟨withCan (fun x => { x with queue := [someTx] }) up, 1, by decide +kernel⟩,
   ⟨withCan (fun x => { x with queue := [someTx] }) { up with boot.phase := 2 }, 1, someTx, [],
     by decide +kernel⟩,
   ⟨withCan id up, 1, by decide +kernel⟩,
   ⟨withCan (fun x => { x with busOffs := [1, 2, 3, 4, 5, 6, 7] }) up, 1, by decide +kernel⟩,
   ⟨withCan (fun x => { x with state := 2 }) up, 1, by decide +kernel⟩,
   ⟨withCan (fun x => { x with state := 2, holdoff := true }) up, 1, by decide +kernel⟩,
   ⟨withCan (fun x => { x with state := 2, holdoff := true }) up, 1, by decide +kernel⟩,
   ⟨withCan (fun x => { x with queue := [someTx] }) up, 1, someTx, [], by decide +kernel⟩,
   ⟨withCan id up, 1, by decide +kernel⟩,
   ⟨putFld F.SVC_SIG_ID_EN 1 (putFld F.SVC_SIG_TIM_STALE 1 { up with svc.intakeRun := true } 63)
     63, 63, by decide +kernel, by decide +kernel, by decide +kernel, by decide +kernel,
     by decide +kernel, (sound_of (by decide +kernel)).mems, by decide +kernel⟩⟩

theorem wit_ScriptOperations :
    (∃ s : State, ∃ i, ∃ o, s.opReady i 1 = some o ∧ o.arg < 2 ∧ 5 ≤ o.len ∧ o.len ≤ 244 ∧ fieldAt
      o.data 0 1 < 128 ∧ fieldAt o.data 1 1 ≤ 2 ∧ s.i2c o.arg = none ∧ s.ports.i2c.length = 2 ∧
      s.boot.threads.length = 4)
    ∧ (∃ s : State, ∃ i, ∃ o, s.opReady i 2 = some o ∧ o.arg < 2 ∧ o.len = 16 ∧ fieldAt o.data 0 1
      < 128 ∧ fieldAt o.data 1 1 ≤ 2 ∧ 1 ≤ fieldAt o.data 4 1 ∧ fieldAt o.data 4 1 ≤ 4 ∧ s.i2c
      o.arg = none ∧ s.ports.i2c.length = 2 ∧ s.boot.threads.length = 4)
    ∧ (∃ s : State, ∃ i, ∃ o, s.opReady i 3 = some o ∧ o.len = 4 ∧ 1 ≤ fieldAt o.data 0 4 ∧
      fieldAt o.data 0 4 ≤ 1000000 ∧ s.boot.threads.length = 4)
    ∧ (∃ s : State, ∃ i, ∃ o, s.opReady i 4 = some o ∧ o.len = 1 ∧ fieldAt o.data 0 1 ≤ 1 ∧
      s.boot.threads.length = 4 ∧ s.ports.panelEn.length = 2 ∧ s.ports.panelRst.length = 2 ∧
      (((o.arg < 4 ∧ s.localRole ≠ 2) ∨ (0x10 ≤ o.arg ∧ o.arg < 0x20))))
    ∧ (∃ s : State, ∃ i, ∃ o, s.opReady i 5 = some o ∧ o.len = 4 ∧ fieldAt o.data 0 1 ≤ 1 ∧
      pinReadable o.arg = true ∧ s.boot.threads.length = 4)
    ∧ (∃ s : State, ∃ i, ∃ o, s.opReady i 5 = some o ∧ o.len = 4 ∧ fieldAt o.data 0 1 ≤ 1 ∧
      pinReadable o.arg = true ∧ s.boot.threads.length = 4 ∧ (s.pinLevel o.arg = (fieldAt o.data 0
      1 == 1)))
    ∧ (∃ s : State, ∃ i, ∃ o, s.opReady i 5 = some o ∧ o.len = 4 ∧ fieldAt o.data 0 1 ≤ 1 ∧
      pinReadable o.arg = true ∧ s.boot.threads.length = 4 ∧ (s.pinLevel o.arg ≠ (fieldAt o.data 0
      1 == 1)))
    ∧ (∃ s : State, ∃ i, ∃ o, s.opReady i 6 = some o ∧ o.arg < 2 ∧ 1 ≤ o.len ∧ o.len ≤ 65 ∧
      lpTypes.contains (fieldAt o.data 0 1) = true ∧ s.lvdsStrap o.arg = false ∧ s.localRole ≠ 2 ∧
      (s.output o.arg).lpBytes = [] ∧ s.boot.threads.length = 4 ∧ s.sco.outs.length = 2)
    ∧ (∃ s : State, ∃ i, ∃ o, ∃ c, ∃ l, s.opReady i 0 = some o ∧ (s.thread i).scripts = c :: l ∧
      s.boot.threads.length = 4)
    ∧ (∃ s : State, ∃ i, ∃ o, s.boot.threads.length = 4 ∧ s.scriptOp i = some o ∧ i < 4 ∧
      (s.thread i).wait = .time)
    ∧ (∃ s : State, ∃ i, ∃ o, s.boot.threads.length = 4 ∧ s.scriptOp i = some o ∧ i < 4 ∧ ∃ p, ∃
      l, (s.thread i).wait = .pin p l)
    ∧ (∃ s : State, ∃ i, ∃ p, ∃ l, ∃ c, ∃ w, i < 4 ∧ s.boot.threads.length = 4 ∧ (s.thread
      i).scripts = c :: w ∧ c.target = 3 ∧ (s.thread i).wait = .pin p l)
    ∧ (∃ s : State, ∃ i, ∃ p, ∃ l, ∃ c, ∃ w, i < 4 ∧ s.boot.threads.length = 4 ∧ (s.thread
      i).scripts = c :: w ∧ c.target = 3 ∧ (s.thread i).wait = .pin p l)
    ∧ (∃ s : State, ∃ x, x < 2 ∧ s.sco.outs.length = 2 ∧ (s.output x).lpBytes ≠ [])
    ∧ (∃ s : State, ∃ x, x < 2 ∧ s.sco.outs.length = 2 ∧ (s.output x).lpBytes ≠ [] ∧ ((s.output
      x).lpScript = true ∧ (s.thread 3).wait = .dsi x ∧ (s.scriptOp 3).isSome = true)) :=
  ⟨⟨scripting 1 1 ([0x50, 1, 7, 0] ++ zeros 240), 3, ⟨1, 1, 244, [0x50, 1, 7, 0] ++ zeros 240⟩,
     by decide +kernel⟩,
   ⟨scripting 2 1 ([0x50, 1, 0, 0, 4, 1] ++ zeros 10), 3, ⟨2, 1, 16, [0x50, 1, 0, 0, 4, 1] ++
     zeros 10⟩, by decide +kernel⟩,
   ⟨scripting 3 0 (leBytes 4 1000000), 3, ⟨3, 0, 4, leBytes 4 1000000⟩, by decide +kernel⟩,
   ⟨scripting 4 31 [1], 3, ⟨4, 31, 1, [1]⟩, by decide +kernel⟩,
   ⟨scripting 5 39 [1, 0, 0, 0], 3, ⟨5, 39, 4, [1, 0, 0, 0]⟩, by decide +kernel⟩,
   ⟨scripting 5 39 [0, 0, 0, 0], 3, ⟨5, 39, 4, [0, 0, 0, 0]⟩, by decide +kernel⟩,
   ⟨scripting 5 39 [1, 0, 0, 0], 3, ⟨5, 39, 4, [1, 0, 0, 0]⟩, by decide +kernel⟩,
   ⟨scripting 6 1 (0x05 :: zeros 64), 3, ⟨6, 1, 65, 0x05 :: zeros 64⟩, by decide +kernel⟩,
   ⟨scripting 0 0 [], 3, ⟨0, 0, 0, []⟩, ⟨3, 0, 3, 1000, 0, 4⟩, [], by decide +kernel⟩,
   ⟨waitingFor .time, 3, ⟨3, 0, 4, leBytes 4 5⟩, by decide +kernel⟩,
   ⟨waitingFor (.pin 2 true), 3, ⟨3, 0, 4, leBytes 4 5⟩, by decide +kernel, by decide +kernel,
     by decide +kernel, 2, true, by decide +kernel⟩,
   ⟨waitingFor (.pin 2 true), 3, 2, true, ⟨3, 0, 3, 1000, 0, 8⟩, [], by decide +kernel⟩,
   ⟨waitingFor (.pin 2 true), 3, 2, true, ⟨3, 0, 3, 1000, 0, 8⟩, [], by decide +kernel⟩,
   ⟨withOutput (fun o => { o with lpBytes := [1] }) up, 1, by decide +kernel⟩,
   ⟨withOutput (fun o => { o with lpBytes := [1], lpScript := true }) (waitingFor (.dsi 1)), 1,
     by decide +kernel⟩⟩

theorem wit_I2cTransfers :
    (∃ s : State, ∃ c, ∃ x, c < 2 ∧ s.ports.i2c.length = 2 ∧ s.i2c c = some x ∧ x.waiting = false
      ∧ x.thread = none)
    ∧ (∃ s : State, ∃ c, ∃ x, c < 2 ∧ s.ports.i2c.length = 2 ∧ s.i2c c = some x ∧ x.waiting =
      false ∧ x.thread = none ∧ (x.read = true ∧ x.count = 4))
    ∧ (∃ s : State, ∃ c, ∃ x, c < 2 ∧ s.ports.i2c.length = 2 ∧ s.i2c c = some x ∧ x.waiting =
      false ∧ ∃ i, ∃ o, x.thread = some i ∧ i < 4 ∧ s.boot.threads.length = 4 ∧ s.scriptOp i =
      some o ∧ x.read = false)
    ∧ (∃ s : State, ∃ c, ∃ x, ∃ d, c < 2 ∧ s.ports.i2c.length = 2 ∧ s.i2c c = some x ∧ x.waiting =
      false ∧ ∃ i, ∃ o, x.thread = some i ∧ i < 4 ∧ s.boot.threads.length = 4 ∧ s.scriptOp i =
      some o ∧ ∃ got, x.read = true ∧ got = ((leNat ((upTo x.count).map fun i => nth 0 d i)) &&&
      (fieldAt o.data 8 4)) ∧ got = fieldAt o.data 12 4)
    ∧ (∃ s : State, ∃ c, ∃ x, ∃ d, c < 2 ∧ s.ports.i2c.length = 2 ∧ s.i2c c = some x ∧ x.waiting =
      false ∧ ∃ i, ∃ o, x.thread = some i ∧ i < 4 ∧ s.boot.threads.length = 4 ∧ s.scriptOp i =
      some o ∧ ∃ got, x.read = true ∧ got = ((leNat ((upTo x.count).map fun i => nth 0 d i)) &&&
      (fieldAt o.data 8 4)) ∧ got ≠ fieldAt o.data 12 4 ∧ (s.thread i).expectRetries < fieldAt
      o.data 5 1)
    ∧ (∃ s : State, ∃ c, ∃ x, c < 2 ∧ s.ports.i2c.length = 2 ∧ s.i2c c = some x ∧ x.waiting =
      false ∧ x.retries < 3)
    ∧ (∃ s : State, ∃ c, ∃ x, c < 2 ∧ s.ports.i2c.length = 2 ∧ s.i2c c = some x ∧ x.waiting =
      false ∧ 3 ≤ x.retries ∧ x.thread = none)
    ∧ (∃ s : State, ∃ c, ∃ x, c < 2 ∧ s.ports.i2c.length = 2 ∧ s.i2c c = some x ∧ x.waiting =
      false ∧ x.thread = none)
    ∧ (∃ s : State, ∃ c, ∃ x, c < 2 ∧ s.ports.i2c.length = 2 ∧ s.i2c c = some x ∧ x.waiting =
      true)
    ∧ (∃ s : State, ∃ i, ∃ c, ∃ o, c < 2 ∧ i < 4 ∧ s.ports.i2c.length = 2 ∧ s.boot.threads.length
      = 4 ∧ (s.thread i).wait = .expectRetry c ∧ s.scriptOp i = some o ∧ s.i2c c = none)
    ∧ (∃ s : State, ∃ c, c < 2 ∧ s.live = true ∧ s.ports.i2c.length = 2 ∧ s.i2cByScript c = false
      ∧ s.i2c c = none)
    ∧ (∃ s : State, ∃ c, c < 2 ∧ s.live = true ∧ s.ports.i2c.length = 2 ∧ s.i2cByScript c = false
      ∧ s.i2c c ≠ none) :=
  ⟨⟨transfer ⟨0x50, false, [1], 0, none, 0, false⟩ up, 1, ⟨0x50, false, [1], 0, none, 0, false⟩,
     by decide +kernel⟩,
   ⟨transfer ⟨0x50, true, [1], 4, none, 0, false⟩ up, 1, ⟨0x50, true, [1], 4, none, 0, false⟩,
     by decide +kernel⟩,
   ⟨transfer ⟨0x50, false, [1], 0, some 3, 0, false⟩ (scripting 1 1 [0x50, 1, 7, 0, 9]), 1, ⟨0x50,
     false, [1], 0, some 3, 0, false⟩, by decide +kernel, by decide +kernel, by decide +kernel,
     by decide +kernel, 3, ⟨1, 1, 5, [0x50, 1, 7, 0, 9]⟩, by decide +kernel, by decide +kernel,
     by decide +kernel, by decide +kernel, by decide +kernel⟩,
   ⟨transfer ⟨0x50, true, [1], 1, some 3, 0, false⟩ expecting, 1, ⟨0x50, true, [1], 1, some 3, 0,
     false⟩, [5], by decide +kernel, by decide +kernel, by decide +kernel, by decide +kernel, 3,
     ⟨2, 1, 16, expectData⟩, by decide +kernel, by decide +kernel, by decide +kernel,
     by decide +kernel, 5, by decide +kernel, by decide +kernel, by decide +kernel⟩,
   ⟨transfer ⟨0x50, true, [1], 1, some 3, 0, false⟩ expecting, 1, ⟨0x50, true, [1], 1, some 3, 0,
     false⟩, [6], by decide +kernel, by decide +kernel, by decide +kernel, by decide +kernel, 3,
     ⟨2, 1, 16, expectData⟩, by decide +kernel, by decide +kernel, by decide +kernel,
     by decide +kernel, 6, by decide +kernel, by decide +kernel, by decide +kernel,
     by decide +kernel⟩,
   ⟨transfer ⟨0x50, false, [1], 0, none, 2, false⟩ up, 1, ⟨0x50, false, [1], 0, none, 2, false⟩,
     by decide +kernel⟩,
   ⟨transfer ⟨0x50, false, [1], 0, none, 3, false⟩ up, 1, ⟨0x50, false, [1], 0, none, 3, false⟩,
     by decide +kernel⟩,
   ⟨transfer ⟨0x50, false, [1], 0, none, 3, false⟩ up, 1, ⟨0x50, false, [1], 0, none, 3, false⟩,
     by decide +kernel⟩,
   ⟨transfer ⟨0x50, false, [1], 0, none, 3, true⟩ up, 1, ⟨0x50, false, [1], 0, none, 3, true⟩,
     by decide +kernel⟩,
   ⟨waitingOn (.expectRetry 1) 2 1 expectData, 3, 1, ⟨2, 1, 16, expectData⟩, by decide +kernel⟩,
   ⟨up, 1, by decide +kernel⟩,
   ⟨transfer ⟨0x50, false, [1], 0, none, 3, true⟩ up, 1, by decide +kernel⟩⟩

theorem wit_LoaderStepsAndRecords :
    (∃ s : State, ∃ temps : List Nat, s.lamp.power = .waking ∧ s.lamp.wakingStep = 4 ∧
      s.ave.initDone = true ∧ s.lamp.resetNLow = false ∧ ((∀ x ∈ temps, x < 115)) ∧ s.lamp.retErrs
      = [] ∧ s.badPairs [1] = [])
    ∧ (∃ s : State, s.ports.xspiRstN = true)
    ∧ (∃ s : State, s.boot.phase = 1 ∧ s.boot.flashReady = true ∧ s.boot.overBridge = false ∧
      s.lamp.straps.bootsel = 0 ∧
      let h := s.imgBytes 0 256;
      let ok := sectTableOk (fieldAt h 8 4) (fieldAt h 0x24 4) (fieldAt h 0x28 4) s.boot.imageBase
        (s.sectTable h); s.headerOk h = true ∧ ok = true ∧ s.signatureFault h = 0)
    ∧ (∃ s : State, s.boot.phase = 1 ∧ s.boot.flashReady = true ∧ s.boot.overBridge = false ∧
      s.lamp.straps.bootsel = 0 ∧
      let h := s.imgBytes 0 256;
      let ok := sectTableOk (fieldAt h 8 4) (fieldAt h 0x24 4) (fieldAt h 0x28 4) s.boot.imageBase
        (s.sectTable h); (s.headerOk h = false ∨ ok = false ∨ s.signatureFault h ≠ 0) ∧
        s.boot.imageAlt = false ∧ s.altOffset ≠ 0)
    ∧ (∃ s : State, ∃ x : Sect, s.boot.sects[0]? = some x ∧ s.boot.phase = 2 ∧ s.boot.config = []
      ∧ s.sectDue x = true ∧ x.chipsOk s.ident.order = true ∧ s.digestOk x true = true ∧ confOk
      (s.imgBytes x.offset x.length) = true)
    ∧ (∃ s : State, ∃ r, ∃ a, ∃ h, ∃ w, s.nextRec = some r ∧ r.typ = 1 ∧ fieldAt r.payload 0 4 = a
      ∧ r.payload.drop 4 = leBytes 4 w ∧ w < 2 ^ 32 ∧ s.plainAt a h ∧ confWritable a = true ∧
      s.live = true ∧ slotOfAddr a ≠ 0x62)
    ∧ (∃ s : State, ∃ r, s.nextRec = some r ∧ r.typ = 2)
    ∧ (∃ s : State, ∃ r, s.nextRec = some r ∧ r.typ = 3)
    ∧ (∃ s : State, ∃ r, s.nextRec = some r ∧ r.typ = 4 ∧ ddrRecOk r.payload = true ∧ fieldAt
      r.payload 0 1 = 0)
    ∧ (∃ s : State, ∃ r, s.nextRec = some r ∧ r.typ = 4 ∧ ddrRecOk r.payload = true ∧ fieldAt
      r.payload 0 1 = 1)
    ∧ (∃ s : State, ∃ r, s.nextRec = some r ∧ r.typ = 0xFF)
    ∧ (∃ s : State, ∃ i : Nat, ∃ x : Sect, s.boot.sects[i]? = some x ∧ s.sectWanted x = true ∧
      s.sectDue x = true ∧ sectOutOfPlace x = false ∧ x.chipsOk s.ident.order = true ∧ s.digestOk
      x true = true ∧ x.kind ≠ 2 ∧ x.kind ≠ 3)
    ∧ (∃ s : State, ∃ i : Nat, ∃ x : Sect, s.boot.sects[i]? = some x ∧ s.sectWanted x = true ∧
      s.sectDue x = true ∧ sectOutOfPlace x = false ∧ x.chipsOk s.ident.order = true ∧ s.digestOk
      x true = true ∧ x.kind ≠ 2 ∧ x.kind ≠ 3 ∧ (x.destSel = 0))
    ∧ (∃ s : State, s.live = true ∧ s.boot.ddrDeclared = true ∧ s.boot.lpddrKnown = false)
    ∧ (∃ s : State, s.live = true ∧ s.boot.ddrDeclared = true ∧ s.boot.lpddrKnown = false ∧
      s.boot.trainAttempt = 0 ∧ s.boot.ddrRate ≠ 0)
    ∧ (∃ s : State, s.live = true ∧ s.boot.ddrDeclared = true ∧ s.boot.lpddrKnown = false ∧
      s.boot.trainAttempt = 1)
    ∧ (∃ s : State, s.boot.phase = 4 ∧ s.boot.calDone = false ∧ bitN (s.fld F.SYS_PLL_STATUS_LOCK)
      2 = 1)
    ∧ (∃ s : State, s.live = true)
    ∧ (∃ s : State, s.boot.phase = 9 ∧ s.boot.heldRequest = 0)
    ∧ (∃ s : State, s.live = true ∧ s.badPairs [0x40, 0x41, 0x42] = [] ∧ s.nextLine = none)
    ∧ (∃ s : State, s.live = true ∧ s.badPairs [0x40, 0x41, 0x42] = [] ∧ ∃ n, s.nextLine = some n
      ∧ n ≠ 0 ∧ (s.output 0).phase = 0 ∧ (s.output 1).phase = 0)
    ∧ (∃ s : State, ∃ r, ∃ l, ∃ x, s.boot.repairs = r :: l ∧ s.boot.sects[r.sect]? = some x ∧
      s.live = true ∧ s.boot.flashOp = none ∧ s.repairLocked x r = true ∧ r.tries = 0)
    ∧ (∃ s : State, ∃ r, ∃ l, ∃ x, s.boot.repairs = r :: l ∧ s.boot.sects[r.sect]? = some x ∧
      s.live = true ∧ s.boot.flashOp = none ∧ s.repairLocked x r = true ∧ sha256 (s.sectBytes x 0
      x.length) = x.digest ∧ ((∀ q, (s.queue q).badStop = false)))
    ∧ (∃ s : State, ∃ r, ∃ l, ∃ x, s.boot.repairs = r :: l ∧ s.boot.sects[r.sect]? = some x ∧
      s.live = true ∧ s.boot.flashOp = none ∧ s.repairLocked x r = true ∧ sha256 (s.sectBytes x 0
      x.length) = x.digest ∧ ((∀ q, (s.queue q).badStop = false)) ∧ (x.destSel = 1)) :=
  ⟨⟨{ (waking 4) with ave.initDone := true }, [114], by decide +kernel⟩,
   ⟨{ up with ports.xspiRstN := true }, by decide +kernel⟩,
   ⟨{ loading 1 with flash := goodFlash }, by decide +kernel⟩,
   ⟨{ loading 1 with otp := Memory.store 0 MemId.otp.size [] 132 [1] }, by decide +kernel⟩,
   ⟨configChecking, ⟨1, 1, 0, 1, 0, 2, 64, 24, 0, 0, sha256 endRec, 0⟩, by decide +kernel⟩,
   ⟨applying 1 (leBytes 4 0xF0030024 ++ leBytes 4 5), ⟨1, 1, leBytes 4 0xF0030024 ++ leBytes 4 5⟩,
     0xF0030024, ⟨R.AVE_WRR, 0, 0, false⟩, 5, by decide +kernel, by decide +kernel,
     by decide +kernel, by decide +kernel, by decide +kernel, plainAt_of (by decide +kernel),
     by decide +kernel, by decide +kernel, by decide +kernel⟩,
   ⟨applying 2 (1 :: zeros 47), ⟨2, 1, 1 :: zeros 47⟩, by decide +kernel⟩,
   ⟨applying 3 (leBytes 2 500 ++ zeros 2), ⟨3, 1, leBytes 2 500 ++ zeros 2⟩, by decide +kernel⟩,
   ⟨applying 4 (ddrPayload 0), ⟨4, 1, ddrPayload 0⟩, by decide +kernel⟩,
   ⟨applying 4 (ddrPayload 1), ⟨4, 1, ddrPayload 1⟩, by decide +kernel⟩,
   ⟨applying 0xFF (zeros 4), ⟨0xFF, 1, zeros 4⟩, by decide +kernel⟩,
   ⟨sectionLoading, 0, iconSect, by decide +kernel⟩,
   ⟨{ loading 3 with boot.sects := [{ iconSect with flags := 0 }] }, 0,
     { iconSect with flags := 0 }, by decide +kernel⟩,
   ⟨{ up with boot.ddrDeclared := true }, by decide +kernel⟩,
   ⟨{ up with boot.ddrDeclared := true, boot.ddrRate := 4 }, by decide +kernel⟩,
   ⟨{ up with boot.ddrDeclared := true, boot.trainAttempt := 1 }, by decide +kernel⟩,
   ⟨putFld F.SYS_PLL_STATUS_LOCK 4 (loading 4), by decide +kernel⟩,
   ⟨up, by decide +kernel⟩,
   ⟨loading 9, by decide +kernel⟩,
   ⟨up, by decide +kernel⟩,
   ⟨{ up with sco.genRun := true, sco.timing := [0, 0, 720 + 750 * 2 ^ 16, 0, 0, 0] },
     by decide +kernel, by decide +kernel, 1, by decide +kernel, by decide +kernel,
     by decide +kernel, by decide +kernel⟩,
   ⟨repairing, ⟨0, [], 0⟩, [], repairedSect, by decide +kernel⟩,
   ⟨repairing, ⟨0, [], 0⟩, [], repairedSect, by decide +kernel, by decide +kernel,
     by decide +kernel, by decide +kernel, by decide +kernel, by decide +kernel, notBad
     (by decide +kernel)⟩,
   ⟨{ up with boot.sects := [{ repairedSect with flags := 5 }], boot.repairs := [⟨0, [63], 0⟩] },
     ⟨0, [63], 0⟩, [], { repairedSect with flags := 5 }, by decide +kernel, by decide +kernel,
     by decide +kernel, by decide +kernel, by decide +kernel, by decide +kernel, notBad
     (by decide +kernel), by decide +kernel⟩⟩

theorem wit_ServiceCommands :
    (∃ s : State, ∃ p, s.takesCmd p ⟨1, 0, [], true, true⟩)
    ∧ (∃ s : State, ∃ p, ∃ b, s.takesCmd p ⟨2, 0, b, true, true⟩ ∧ fieldAt b 0 4 = R.SYS_ID.addr ∧
      fieldAt b 4 2 = 1 ∧ ((∃ k, s.place R.SYS_ID.addr = .block k)))
    ∧ (∃ s : State, ∃ p, ∃ b, ∃ h, ∃ w, s.takesCmd p ⟨3, 0, b, true, true⟩ ∧ s.plainAt (fieldAt b
      0 4) h ∧ b.drop 4 = leBytes 4 w ∧ w < 2 ^ 32 ∧ h.r.wo = 0 ∧ slotOfAddr (fieldAt b 0 4) ∉
      [0x01, 0x60, 0x61, 0x62])
    ∧ (∃ s : State, ∃ p, ∃ b, s.takesCmd p ⟨4, 0, b, true, true⟩ ∧ s.directConflict (fieldAt b 0
      8) (fieldAt b 8 4) false = false ∧ s.ave.plazaErrs = [] ∧ s.ave.ddrErrs = [] ∧ ((touched 64
      (fieldAt b 0 8) (fieldAt b 8 4)).any fun c => s.poisonedAt (64 * c)) = false)
    ∧ (∃ s : State, ∃ p, ∃ b, s.takesCmd p ⟨5, 0, b, true, true⟩ ∧ s.directConflict (fieldAt b 0
      8) (b.length - 8) true = false ∧ s.ave.plazaErrs = [] ∧ s.ave.ddrErrs = [])
    ∧ (∃ s : State, ∃ p, ∃ b, ∃ h, ∃ w, s.takesCmd p ⟨6, 0, b, true, true⟩ ∧
      let r := confRecAt b 0; s.plainAt (fieldAt r.payload 0 4) h ∧ r.payload.drop 4 = leBytes 4 w
        ∧ w < 2 ^ 32 ∧ slotOfAddr (fieldAt r.payload 0 4) ∉ [0x60, 0x61, 0x62] ∧ confWritable
        (fieldAt r.payload 0 4) = true)
    ∧ (∃ s : State, ∃ p, ∃ b, ∃ h, ∃ w, s.takesCmd p ⟨6, 0, b, true, true⟩ ∧
      let r := confRecAt b 0; s.plainAt (fieldAt r.payload 0 4) h ∧ r.payload.drop 4 = leBytes 4 w
        ∧ w < 2 ^ 32 ∧ slotOfAddr (fieldAt r.payload 0 4) ∉ [0x60, 0x61, 0x62] ∧ confWritable
        (fieldAt r.payload 0 4) = false)
    ∧ (∃ s : State, ∃ p, ∃ b, ∃ x : Sect, ∃ v, s.takesCmd p ⟨7, 0, b, true, true⟩ ∧
      s.boot.sects[0]? = some x ∧ findRec (x.length / 24 + 1) (s.sectBytes x 0 x.length) 0
      (fieldAt b 0 2) = some v ∧ v.length ≤ 1024)
    ∧ (∃ s : State, ∃ p, ∃ b, s.takesCmd p ⟨8, 0, b, true, true⟩)
    ∧ (∃ s : State, ∃ p, ∃ b, s.takesCmd p ⟨9, 0, b, true, true⟩ ∧
      let span := GspMsg.flashSpan ⟨9, 0, b, true, true⟩; spansMeet span (s.boot.persistOff,
        s.boot.persistLen) = true)
    ∧ (∃ s : State, ∃ p, ∃ b, s.takesCmd p ⟨9, 0, b, true, true⟩ ∧
      let span := GspMsg.flashSpan ⟨9, 0, b, true, true⟩; spansMeet span (s.boot.persistOff,
        s.boot.persistLen) = false)
    ∧ (∃ s : State, ∃ p, ∃ b, s.takesCmd p ⟨0x0A, 0, b, true, true⟩ ∧
      let span := GspMsg.flashSpan ⟨0x0A, 0, b, true, true⟩; spansMeet span (s.boot.persistOff,
        s.boot.persistLen) = true)
    ∧ (∃ s : State, ∃ p, ∃ b, s.takesCmd p ⟨0x0A, 0, b, true, true⟩ ∧
      let span := GspMsg.flashSpan ⟨0x0A, 0, b, true, true⟩; spansMeet span (s.boot.persistOff,
        s.boot.persistLen) = false)
    ∧ (∃ s : State, ∃ p, ∃ b, s.takesCmd p ⟨0x0B, 0, b, true, true⟩ ∧ fieldAt b 0 1 = 2 ∧ 1 ≤
      fieldAt b 5 1 ∧ fieldAt b 5 1 ≤ 15 ∧ fieldAt b 1 4 + fieldAt b 5 1 ≤ 17)
    ∧ (∃ s : State, ∃ p, s.Sound ∧ s.takesCmd p ⟨0x0C, 0, [], true, true⟩)
    ∧ (∃ s : State, ∃ p, ∃ b, s.memsOk ∧ s.takesCmd p ⟨0x0D, 0, b, true, true⟩ ∧ s.otpBlank
      (fieldAt b 0 1) = true)
    ∧ (∃ s : State, ∃ p, ∃ b, s.memsOk ∧ s.takesCmd p ⟨0x0D, 0, b, true, true⟩ ∧ s.otpBlank
      (fieldAt b 0 1) = false)
    ∧ (∃ s : State, ∃ p, ∃ b, s.memsOk ∧ s.takesCmd p ⟨0x0E, 0, b, true, true⟩)
    ∧ (∃ s : State, ∃ p, ∃ b, s.takesCmd p ⟨0x0F, 0, b, true, true⟩ ∧
      let n := fieldAt b 0 1;
      let v := fieldAt b 1 4; (s.plausible n v = false ∨ s.rateOk n = false))
    ∧ (∃ s : State, ∃ p, ∃ b, s.takesCmd p ⟨0x0F, 0, b, true, true⟩ ∧
      let n := fieldAt b 0 1;
      let v := fieldAt b 1 4; s.plausible n v = true ∧ s.rateOk n = true ∧ s.ijFree ≠ none ∧
        s.svc.sigs.length = 64 ∧ s.flag F.SVC_SIG_FMT_WAKE n = false)
    ∧ (∃ s : State, ∃ p, ∃ b, s.takesCmd p ⟨0x10, 0, b, true, true⟩)
    ∧ (∃ s : State, ∃ p, ∃ k, s.portTakes p = true ∧ s.svc.ports.length = 4 ∧ s.can.length = 2 ∧
      (s.port p).executing = none ∧ (s.port p).waiting = none ∧ s.svc.order = [] ∧ s.svcBusy =
      false ∧ (s.port p).rateCount < zeroAsOne (s.fld F.SVC_PORTS_RATE) ∧ ((k = 0 ∨ (0x10 < k ∧ k
      < 256))))
    ∧ (∃ s : State, ∃ p, ∃ b, ∃ q, q ≠ 0 ∧ q < 2 ^ 32 ∧ s.portTakes p = true ∧ s.svc.ports.length
      = 4 ∧ s.can.length = 2 ∧ (s.port p).executing = none ∧ (s.port p).waiting = none ∧ (s.port
      p).held = none ∧ s.svc.order = [] ∧ s.svcBusy = false ∧ s.settled = true ∧
      s.lamp.retUnusable = false ∧ (s.port p).rateCount < zeroAsOne (s.fld F.SVC_PORTS_RATE) ∧
      s.svcEntry p q = none ∧ s.argsOk ⟨5, q, b, true, true⟩ = true ∧ s.holds ⟨5, q, b, true,
      true⟩ = true) :=
  ⟨⟨serving, 3, takes_of (by decide +kernel)⟩,
   ⟨serving, 3, leBytes 4 R.SYS_ID.addr ++ leBytes 2 1, takes_of (by decide +kernel),
     by decide +kernel, by decide +kernel, ⟨R.SYS_ID.addr, by decide +kernel⟩⟩,
   ⟨serving, 3, leBytes 4 0xF0030024 ++ leBytes 4 5, ⟨R.AVE_WRR, 0, 0, false⟩, 5, takes_of
     (by decide +kernel), plainAt_of (by decide +kernel), by decide +kernel, by decide +kernel,
     by decide +kernel, by decide +kernel⟩,
   ⟨serving, 3, leBytes 8 0x27FFC00 ++ leBytes 4 1024, takes_of (by decide +kernel),
     by decide +kernel, by decide +kernel, by decide +kernel, by decide +kernel⟩,
   ⟨serving, 3, leBytes 8 0x27FFFFF ++ [9], takes_of (by decide +kernel), by decide +kernel,
     by decide +kernel, by decide +kernel⟩,
   ⟨serving, 3, confRec 1 7 (leBytes 4 0xF0030024 ++ leBytes 4 5), ⟨R.AVE_WRR, 0, 0, false⟩, 5,
     takes_of (by decide +kernel), plainAt_of (by decide +kernel), by decide +kernel,
     by decide +kernel, by decide +kernel, by decide +kernel⟩,
   ⟨serving, 3, confRec 1 7 (leBytes 4 0xF0010020 ++ leBytes 4 5), ⟨R.LAMP_TIMER_ALARM, 0, 0,
     false⟩, 5, takes_of (by decide +kernel), plainAt_of (by decide +kernel), by decide +kernel,
     by decide +kernel, by decide +kernel, by decide +kernel⟩,
   ⟨{ configChecking with boot.phase := 6, svc.portsRun := true }, 3, leBytes 2 1, ⟨1, 1, 0, 1, 0,
     2, 64, 24, 0, 0, sha256 endRec, 0⟩, endRec, takes_of (by decide +kernel), by decide +kernel,
     by decide +kernel, by decide +kernel⟩,
   ⟨serving, 3, leBytes 4 0 ++ leBytes 2 1, takes_of (by decide +kernel)⟩,
   ⟨{ serving with boot.persistOff := 4096, boot.persistLen := 4096 }, 3, leBytes 4 4096 ++
     leBytes 2 1, takes_of (by decide +kernel), by decide +kernel⟩,
   ⟨serving, 3, leBytes 4 4096 ++ leBytes 2 1, takes_of (by decide +kernel), by decide +kernel⟩,
   ⟨{ serving with boot.persistOff := 4096, boot.persistLen := 4096 }, 3, leBytes 4 4096 ++ [7],
     takes_of (by decide +kernel), by decide +kernel⟩,
   ⟨serving, 3, leBytes 4 4096 ++ [7], takes_of (by decide +kernel), by decide +kernel⟩,
   ⟨serving, 3, [2] ++ leBytes 4 2 ++ [15], takes_of (by decide +kernel), by decide +kernel,
     by decide +kernel, by decide +kernel, by decide +kernel⟩,
   ⟨serving, 3, sound_of (by decide +kernel), takes_of (by decide +kernel)⟩,
   ⟨serving, 3, 3 :: List.replicate 32 1, (sound_of (by decide +kernel)).mems, takes_of
     (by decide +kernel), by decide +kernel⟩,
   ⟨{ serving with otp := Memory.store 0 MemId.otp.size [] 0 (List.replicate 128 1) }, 3, 3 ::
     List.replicate 32 1, (sound_of (by decide +kernel)).mems, takes_of (by decide +kernel),
     by decide +kernel⟩,
   ⟨serving, 3, [3], (sound_of (by decide +kernel)).mems, takes_of (by decide +kernel)⟩,
   ⟨putReg R.SVC_SIG_MAX 4 (putFld F.SVC_SIG_FMT_KIND 1 serving 63) 63, 3, [63] ++ leBytes 4 5,
     takes_of (by decide +kernel), by decide +kernel⟩,
   ⟨putReg R.SVC_SIG_MAX 5 (putFld F.SVC_SIG_FMT_KIND 1 serving 63) 63, 3, [63] ++ leBytes 4 5,
     takes_of (by decide +kernel), by decide +kernel, by decide +kernel, by decide +kernel,
     by decide +kernel, by decide +kernel⟩,
   ⟨serving, 3, leBytes 4 5, takes_of (by decide +kernel)⟩,
   ⟨serving, 3, 255, by decide +kernel⟩,
   ⟨{ putFld F.SVC_INTERLOCK_EN 1 (putFld F.SVC_INTERLOCK_CLASSES 8 serving) with svc.moving := true },
     3, leBytes 8 4096 ++ [9], 4294967295, by decide +kernel⟩⟩

theorem wit_PortsMirrorsAndFrames :
    (∃ s : State, ∃ c, c < 2 ∧ s.live = true ∧ s.canOn c = true)
    ∧ (∃ s : State, ∃ c, ∃ n, ∃ d, c < 2 ∧ s.live = true ∧ s.canOn c = true ∧ ∃ k, s.isGspFrame c
      n false = false ∧ s.svc.intakeRun = true ∧ s.lamp.retUnusable = false ∧ s.recordsOf
      (identWord c n false) = [k] ∧ k < 64 ∧ s.flag F.SVC_SIG_FMT_CRC_EN k = false ∧ s.flag
      F.SVC_SIG_FMT_ALIVE_EN k = false ∧ s.frameNeeds [k] false false ≤ d.length ∧ s.plausible k
      (s.extract k d) = true ∧ s.rateOk k = true ∧ s.sigKind k = 0 ∧ s.svc.sigs.length = 64)
    ∧ (∃ s : State, ∃ c, s.svc.ports.length = 4 ∧ c < 2)
    ∧ (∃ s : State, s.svc.ports.length = 4)
    ∧ (∃ s : State, s.portTakes 2 = true)
    ∧ (∃ s : State, ∃ b, s.portTakes 3 = true ∧ parseMsg b true = none)
    ∧ (∃ s : State, ∃ b, s.portTakes 3 = true ∧ ∃ q, parseMsg b true = some ⟨1, q, [], true,
      true⟩)
    ∧ (∃ s : State, s.portTakes 3 = true ∧ s.svc.ports.length = 4 ∧ (s.port 3).ready = [])
    ∧ (∃ s : State, s.portTakes 3 = true ∧ s.svc.ports.length = 4 ∧ ∃ r, ∃ l, (s.port 3).ready = r
      :: l)
    ∧ (∃ s : State, s.portTakes 3 = true ∧ s.svc.ports.length = 4)
    ∧ (∃ s : State, s.mayMirror = true ∧ s.svc.intakeDirty = true)
    ∧ (∃ s : State, s.mayMirror = true ∧ s.cjUnmirrored ≠ 0)
    ∧ (∃ s : State, s.mayMirror = true ∧ s.svc.retireDirty = true)
    ∧ (∃ s : State, ∃ p, ∃ m, ∃ o, s.memsOk ∧ s.live = true ∧ 2 ≤ p ∧ p < 4 ∧ s.svc.ports.length =
      4 ∧ s.boot.flashOp = some o ∧ o.user = .gsp p ∧ (s.port p).executing = some m ∧ (s.port
      p).waiting = none ∧ m.req = 0 ∧ s.svc.order = [] ∧ s.svc.mirror = none)
    ∧ (∃ s : State, ∃ o, ∃ j, s.live = true ∧ s.lamp.parkStep ≠ 6 ∧ s.boot.flashOp = some o ∧ ((∀
      k, o.user ≠ .gsp k)) ∧ s.svc.mirror = some j ∧ j.rest = [] ∧ s.svc.order = [])
    ∧ (∃ s : State, ∃ o, ∃ j, s.live = true ∧ s.lamp.parkStep ≠ 6 ∧ s.boot.flashOp = some o ∧ ((∀
      k, o.user ≠ .gsp k)) ∧ s.svc.mirror = some j ∧ j.rest = [] ∧ s.svc.order = [] ∧ (j.kind =
      0))
    ∧ (∃ s : State, ∃ o, ∃ j, s.live = true ∧ s.lamp.parkStep ≠ 6 ∧ s.boot.flashOp = some o ∧ ((∀
      k, o.user ≠ .gsp k)) ∧ s.svc.mirror = some j ∧ j.rest = [] ∧ s.svc.order = [] ∧ (j.kind =
      2))
    ∧ (∃ s : State, ∃ o, ∃ j, s.live = true ∧ s.lamp.parkStep ≠ 6 ∧ s.boot.flashOp = some o ∧ ((∀
      k, o.user ≠ .gsp k)) ∧ s.svc.mirror = some j ∧ j.rest = [] ∧ s.svc.order = [])
    ∧ (∃ s : State, ∃ o, ∃ j, s.live = true ∧ s.lamp.parkStep ≠ 6 ∧ s.boot.flashOp = some o ∧ ((∀
      k, o.user ≠ .gsp k)) ∧ s.svc.mirror = some j ∧ j.rest = [] ∧ s.svc.order = [] ∧ (j.kind =
      0))
    ∧ (∃ s : State, s.live = true ∧ s.boot.flashRetries < 3)
    ∧ (∃ s : State, s.live = true ∧ 3 ≤ s.boot.flashRetries ∧ s.boot.flashOp = none ∧ s.boot.phase
      = 1 ∧ s.boot.overBridge = false ∧ s.boot.imageAlt = false ∧ s.altOffset ≠ 0)
    ∧ (∃ s : State, s.live = true ∧ s.svc.moving = true ∧ s.svc.zeroSince.isSome = true ∧
      s.svc.order = [] ∧ ((∀ p, (s.port p).held = none)))
    ∧ (∃ s : State, ∃ p, p < 4 ∧ s.live = true ∧ s.svc.ports.length = 4 ∧ (s.port p).waiting =
      none)
    ∧ (∃ s : State, ∃ p, p < 4 ∧ s.live = true ∧ s.svc.ports.length = 4 ∧ (s.port p).waiting =
      none ∧ (s.svc.portsRun = true ∧ s.portOn p = true)) :=
  ⟨⟨withCan id up, 1, by decide +kernel⟩,
   ⟨intaking, 1, 5, [9], by decide +kernel, by decide +kernel, by decide +kernel, 63,
     by decide +kernel, by decide +kernel, by decide +kernel, by decide +kernel,
     by decide +kernel, by decide +kernel, by decide +kernel, by decide +kernel,
     by decide +kernel, by decide +kernel, by decide +kernel, by decide +kernel⟩,
   ⟨up, 1, by decide +kernel⟩,
   ⟨up, by decide +kernel⟩,
   ⟨serving, by decide +kernel⟩,
   ⟨serving, [], by decide +kernel⟩,
   ⟨serving, spiIdent, by decide +kernel, 7, by decide +kernel⟩,
   ⟨serving, by decide +kernel⟩,
   ⟨{ serving with svc.ports := [Port.reset, Port.reset, Port.reset, { Port.reset with ready := [⟨1, 2, 0, false, []⟩] }] },
     by decide +kernel, by decide +kernel, ⟨1, 2, 0, false, []⟩, [], by decide +kernel⟩,
   ⟨serving, by decide +kernel⟩,
   ⟨{ mirroring with svc.intakeDirty := true }, by decide +kernel⟩,
   ⟨{ mirroring with retA := [(0x5804, 1)] }, by decide +kernel⟩,
   ⟨{ mirroring with svc.retireDirty := true }, by decide +kernel⟩,
   ⟨{ flashing (.gsp 3) with svc.mirror := none, svc.ports := [Port.reset, Port.reset, Port.reset, { Port.reset with executing := some ⟨9, 0, [], true, true⟩ }] },
     3, ⟨9, 0, [], true, true⟩, ⟨.gsp 3, false, 4096, 1, [1], 0⟩, (sound_of
     (by decide +kernel)).mems, by decide +kernel, by decide +kernel, by decide +kernel,
     by decide +kernel, by decide +kernel, by decide +kernel, by decide +kernel,
     by decide +kernel, by decide +kernel, by decide +kernel, by decide +kernel⟩,
   ⟨flashing .changeMirror, ⟨.changeMirror, false, 4096, 1, [1], 0⟩, ⟨1, 5, []⟩,
     by decide +kernel, by decide +kernel, by decide +kernel, nofun, by decide +kernel,
     by decide +kernel, by decide +kernel⟩,
   ⟨{ flashing .intakeMirror with svc.mirror := some ⟨0, 5, []⟩ }, ⟨.intakeMirror, false, 4096, 1,
     [1], 0⟩, ⟨0, 5, []⟩, by decide +kernel, by decide +kernel, by decide +kernel, nofun,
     by decide +kernel, by decide +kernel, by decide +kernel, by decide +kernel⟩,
   ⟨{ flashing .retirement with svc.mirror := some ⟨2, 5, []⟩ }, ⟨.retirement, false, 4096, 1,
     [1], 0⟩, ⟨2, 5, []⟩, by decide +kernel, by decide +kernel, by decide +kernel, nofun,
     by decide +kernel, by decide +kernel, by decide +kernel, by decide +kernel⟩,
   ⟨flashing .changeMirror, ⟨.changeMirror, false, 4096, 1, [1], 0⟩, ⟨1, 5, []⟩,
     by decide +kernel, by decide +kernel, by decide +kernel, nofun, by decide +kernel,
     by decide +kernel, by decide +kernel⟩,
   ⟨{ flashing .intakeMirror with svc.mirror := some ⟨0, 5, []⟩ }, ⟨.intakeMirror, false, 4096, 1,
     [1], 0⟩, ⟨0, 5, []⟩, by decide +kernel, by decide +kernel, by decide +kernel, nofun,
     by decide +kernel, by decide +kernel, by decide +kernel, by decide +kernel⟩,
   ⟨{ up with boot.flashRetries := 2 }, by decide +kernel⟩,
   ⟨{ loading 1 with boot.flashRetries := 3, otp := Memory.store 0 MemId.otp.size [] 132 [1] },
     by decide +kernel⟩,
   ⟨{ up with svc.moving := true, svc.zeroSince := some 0 }, by decide +kernel, by decide +kernel,
     by decide +kernel, by decide +kernel, noneHeld (by decide +kernel)⟩,
   ⟨up, 3, by decide +kernel⟩,
   ⟨serving, 3, by decide +kernel⟩⟩

theorem wit_BridgeLinkStates :
    (∃ s : State, ∃ part, ((s.brg.link = 2 ∨ s.brg.link = 6)) ∧ s.brg.dead = false ∧ part ≠ 0x480)
    ∧ (∃ s : State, ∃ role, ((s.brg.link = 2 ∨ s.brg.link = 6)) ∧ s.brg.dead = false ∧ s.localRole
      = role)
    ∧ (∃ s : State, ∃ n, ((s.brg.link = 2 ∨ s.brg.link = 6)) ∧ s.brg.dead = false ∧
      s.boot.overBridge = false ∧ s.localRole = 1 ∧ n ≠ s.boot.buildId)
    ∧ (∃ s : State, ((s.brg.link = 2 ∨ s.brg.link = 6)) ∧ s.brg.dead = false ∧ s.boot.overBridge =
      false ∧ s.localRole = 1 ∧ s.brg.remotes = [] ∧ s.flag F.BRG_XSIG_EN = false)
    ∧ (∃ s : State, ∃ d : Side, s.brg.session = true ∧ s.brg.queue = [] ∧ d.nak = false)
    ∧ (∃ s : State, ∃ d : Side, s.brg.session = true ∧ s.brg.queue = [] ∧ d.nak = false ∧ (d.ackv
      = true))
    ∧ (∃ s : State, ∃ d : Side, s.brg.session = true ∧ s.brg.queue = [] ∧ d.nak = false)
    ∧ (∃ s : State, ((s.brg.link = 2 ∨ s.brg.link = 6)))
    ∧ (∃ s : State, s.brg.session = true)
    ∧ (∃ s : State, s.brg.link = 1 ∧ s.brg.dead = false ∧ bitN (s.fld F.SYS_PLL_STATUS_LOCK) 8 = 1
      ∧ s.flag F.BRG_CTRL_ONE_LANE_ONLY = false)
    ∧ (∃ s : State, s.brg.link = 1 ∧ s.brg.dead = false ∧ bitN (s.fld F.SYS_PLL_STATUS_LOCK) 8 =
      1)
    ∧ (∃ s : State, s.brg.link = 1)
    ∧ (∃ s : State, ∃ n, n < 2 ∧ ((s.brg.link = 3 ∨ s.brg.link = 4)))
    ∧ (∃ s : State, s.brg.link = 5 ∧ s.brg.queue = [])
    ∧ (∃ s : State, s.brg.link = 5 ∧ s.brg.queue = [])
    ∧ (∃ s : State, s.brg.session = true ∧ s.localRole = 1 ∧ s.boot.handedOver = false ∧
      s.brg.remotes = [])
    ∧ (∃ s : State, s.brg.session = true ∧ s.localRole = 2 ∧ s.brg.remotes = [] ∧
      s.wrd.queues.length = 16)
    ∧ (∃ s : State, ∃ d : Side, s.brg.session = true ∧ s.brg.queue = [] ∧ d.ackv = false ∧
      s.brg.unacked ≠ [] ∧ s.brg.episodes < 7)
    ∧ (∃ s : State, ∃ d : Side, s.brg.session = true ∧ s.brg.queue = [] ∧ d.ackv = false ∧
      s.brg.unacked ≠ [] ∧ s.brg.episodes < 7 ∧ s.brg.link ≠ 5)
    ∧ (∃ s : State, s.brg.link = 4 ∧ s.brg.unacked ≠ [] ∧ s.brg.episodes = 7)
    ∧ (∃ s : State, s.brg.session = true ∧ s.brg.nakSent = false)
    ∧ (∃ s : State, s.brg.session = true ∧ s.brg.nakSent = true)
    ∧ (∃ s : State, ∃ d, s.linkIdle 4 d)
    ∧ (∃ s : State, ∃ p, s.profile s.boot.choosing = some p ∧ s.boot.phase = 5 ∧ s.brg.waitOver =
      false ∧ s.partnerReady p = false)
    ∧ (∃ s : State, s.Sound ∧ s.live = true ∧ s.localRole = 2 ∧ s.brg.link = 7 ∧ s.flag
      F.BRG_CTRL_FOLLOW = true)
    ∧ (∃ s : State, s.live = true ∧ s.ident.order = .qt2 ∧ ((s.brg.link = 0 ∨ s.brg.link = 7)))
    ∧ (∃ s : State, s.live = true ∧ s.ident.order = .qt2 ∧ s.brg.link ≠ 0 ∧ s.brg.link ≠ 7 ∧
      s.localRole = 1 ∧ s.boot.handedOver = false ∧ s.brg.remotes = [] ∧ s.flag F.BRG_CTRL_EN =
      true)
    ∧ (∃ s : State, ∃ i, i < 64 ∧ (keyGet s.leases (192 + i)).isSome = true)
    ∧ (∃ s : State, s.Sound ∧ s.live = true ∧ s.ident.order = .qt2 ∧ s.boot.phase = 8 ∧
      s.boot.overBridge = true ∧ (s.wakeFilter 2).raw = false) :=
  ⟨⟨bridge 2, 0x481, by decide +kernel⟩,
   ⟨primary 6, 1, by decide +kernel⟩,
   ⟨primary 2, 1, by decide +kernel⟩,
   ⟨primary 6, by decide +kernel⟩,
   ⟨bridge 4, ⟨0, 0, 0, false, false⟩, by decide +kernel⟩,
   ⟨{ bridge 4 with brg.unacked := [(0, somePkt)], brg.credits := 63 }, ⟨0, 0, 1, true, false⟩,
     by decide +kernel⟩,
   ⟨bridge 4, ⟨0, 0, 0, false, false⟩, by decide +kernel⟩,
   ⟨bridge 6, by decide +kernel⟩,
   ⟨bridge 4, by decide +kernel⟩,
   ⟨putFld F.SYS_PLL_STATUS_LOCK 256 (bridge 1), by decide +kernel⟩,
   ⟨putFld F.SYS_PLL_STATUS_LOCK 256 (bridge 1), by decide +kernel⟩,
   ⟨bridge 1, by decide +kernel⟩,
   ⟨bridge 4, 1, by decide +kernel⟩,
   ⟨bridge 5, by decide +kernel⟩,
   ⟨bridge 5, by decide +kernel⟩,
   ⟨primary 4, by decide +kernel⟩,
   ⟨secondary 4, by decide +kernel⟩,
   ⟨{ bridge 4 with brg.unacked := [(0, somePkt)], brg.episodes := 6 }, ⟨0, 0, 0, false, false⟩,
     by decide +kernel⟩,
   ⟨{ bridge 4 with brg.unacked := [(0, somePkt)], brg.episodes := 6 }, ⟨0, 0, 0, false, false⟩,
     by decide +kernel⟩,
   ⟨{ bridge 4 with brg.unacked := [(0, somePkt)], brg.episodes := 7 }, by decide +kernel⟩,
   ⟨bridge 4, by decide +kernel⟩,
   ⟨{ bridge 4 with brg.nakSent := true }, by decide +kernel⟩,
   ⟨bridge 4, ⟨0, 0, 0, false, false⟩, idle_of (by decide +kernel)⟩,
   ⟨{ bridge 4 with boot.profiles := [someProfile], boot.choosing := some 1, boot.phase := 5, brg.link := 2 },
     someProfile, by decide +kernel⟩,
   ⟨putFld F.BRG_CTRL_FOLLOW 1 (secondary 7), sound_of (by decide +kernel), by decide +kernel,
     by decide +kernel, by decide +kernel, by decide +kernel⟩,
   ⟨bridge 7, by decide +kernel⟩,
   ⟨putFld F.BRG_CTRL_EN 1 (primary 4), by decide +kernel⟩,
   ⟨{ bridge 4 with leases := [(255, ⟨5, 3, 12, 63, 5, 5⟩)] }, 63, by decide +kernel⟩,
   ⟨{ secondary 0 with boot.phase := 8, boot.overBridge := true }, sound_of (by decide +kernel),
     by decide +kernel, by decide +kernel, by decide +kernel, by decide +kernel,
     by decide +kernel⟩⟩

theorem wit_BridgePackets :
    (∃ s : State, ∃ d, ∃ a, ∃ b : List Byte, s.linkIdle 4 d ∧ accessOk a b.length = true ∧
      s.brg.winAt + 250 ≤ s.time ∧ s.mailbox.1 + 1024 ≤ a ∧ a + b.length ≤ s.mailbox.1 +
      s.mailbox.2 ∧ s.ave.plazaErrs = [] ∧ s.ave.ddrErrs = [] ∧ s.directConflict a b.length true =
      false)
    ∧ (∃ s : State, ∃ d, ∃ a, ∃ b : List Byte, s.linkIdle 4 d ∧ accessOk a b.length = true ∧
      s.brg.winAt + 250 ≤ s.time ∧ s.mailbox.1 + s.mailbox.2 ≤ a)
    ∧ (∃ s : State, ∃ d, ∃ a, ∃ n, s.linkIdle 4 d ∧ accessOk a n = true ∧ s.brg.winAt + 250 ≤
      s.time ∧ s.mailbox.1 ≤ a ∧ a + n ≤ s.mailbox.1 + s.mailbox.2 ∧ s.ave.plazaErrs = [] ∧
      s.ave.ddrErrs = [] ∧ s.directConflict a n false = false ∧ (s.readMark a n).poison = false)
    ∧ (∃ s : State, ∃ d, ∃ a, ∃ n, s.linkIdle 4 d ∧ accessOk a n = true ∧ s.brg.winAt + 250 ≤
      s.time ∧ a = R.SYS_STATE.addr ∧ n = 4 ∧ s.mailbox.1 + s.mailbox.2 ≤ a)
    ∧ (∃ s : State, ∃ d, ∃ tag, ∃ r, s.linkIdle 4 d ∧ s.remoteOf tag true = some r)
    ∧ (∃ s : State, ∃ d, ∃ tag, ∃ r, s.linkIdle 4 d ∧ s.remoteOf tag true = some r)
    ∧ (∃ s : State, ∃ d, ∃ tag, ∃ r, ∃ o, s.linkIdle 4 d ∧ s.remoteOf tag false = some r ∧ r.slot
      < 64 ∧ s.wrd.slots.length = 64 ∧ s.slotOf r.slot = some o)
    ∧ (∃ s : State, ∃ d, ∃ k, s.linkIdle 4 d ∧ k < 8 ∧ s.flag F.BRG_XSIG_EN = true ∧ s.brg.winAt +
      250 ≤ s.time ∧ 16 ≤ s.fld F.BRG_XSIG_IMPORT_BASE ∧ s.fld F.BRG_XSIG_IMPORT_BASE + 8 ≤ 1024)
    ∧ (∃ s : State, ∃ d, s.linkIdle 4 d ∧ s.Sound ∧ s.live = true ∧ s.localRole = 2 ∧ ((∀ a,
      s.brg.resetAt = some a → a + 25000000 ≤ s.time)))
    ∧ (∃ s : State, ∃ d, s.linkIdle 4 d ∧ ∃ a, s.brg.resetAt = some a ∧ s.time < a + 25000000)
    ∧ (∃ s : State, ∃ d, s.linkIdle 4 d ∧ s.localRole ≠ 2)
    ∧ (∃ s : State, s.brg.session = false)
    ∧ (∃ s : State, ∃ d, (s.linkIdle 3 d ∨ s.linkIdle 5 d))
    ∧ (∃ s : State, s.live = true ∧ s.localRole = 1 ∧ s.brg.link = 4 ∧ s.brg.queue = [] ∧
      s.brg.unacked = [] ∧ s.brg.credits = 64)
    ∧ (∃ s : State, ∃ d, ∃ off, ∃ b : List Byte, s.linkIdle 3 d ∧ s.boot.overBridge = true ∧
      s.memsOk ∧ off % 32 = 0 ∧ b ≠ [] ∧ off % 256 + b.length ≤ 256 ∧ off + b.length ≤
      MemId.img.size)
    ∧ (∃ s : State, ∃ d, ∃ off, ∃ b : List Byte, s.linkIdle 3 d ∧ s.boot.overBridge = true ∧
      s.memsOk ∧ off % 32 = 0 ∧ b ≠ [] ∧ off % 256 + b.length ≤ 256 ∧ off + b.length ≤
      MemId.img.size ∧ (s.boot.phase = 9))
    ∧ (∃ s : State, ∃ d, s.linkIdle 3 d ∧ s.boot.overBridge = true)
    ∧ (∃ s : State, ∃ d, ∃ k, s.linkIdle 3 d ∧ s.localRole = 1 ∧ s.boot.handedOver = false ∧
      s.brg.resent.contains k = true)
    ∧ (∃ s : State, ∃ d, ∃ k, s.linkIdle 3 d ∧ s.localRole = 1 ∧ s.boot.handedOver = false ∧ ∃ x,
      s.brg.resent.contains k = false ∧ (s.boot.sects.find? fun x => x.sectId == k && bitN x.roles
      2 == 1 && x.kind != 3) = some x)
    ∧ (∃ s : State, ∃ d, ∃ k, s.linkIdle 3 d ∧ s.localRole = 1 ∧ k < 2)
    ∧ (∃ s : State, ∃ i : Nat, ∃ x : Sect, s.boot.sects[i]? = some x ∧ s.boot.overBridge = true ∧
      x.state = 1 ∧ s.brg.naked.contains x.sectId = true ∧ s.imgHas x.offset x.length = false ∧
      x.kind ∉ [1, 2, 4]) :=
  ⟨⟨mailed 4, ⟨0, 0, 0, false, false⟩, 0x102000, [1], idle_of (by decide +kernel),
     by decide +kernel, by decide +kernel, by decide +kernel, by decide +kernel,
     by decide +kernel, by decide +kernel, by decide +kernel⟩,
   ⟨mailed 4, ⟨0, 0, 0, false, false⟩, 0x200000, [1], idle_of (by decide +kernel),
     by decide +kernel, by decide +kernel, by decide +kernel⟩,
   ⟨mailed 4, ⟨0, 0, 0, false, false⟩, 0x103FFF, 1, idle_of (by decide +kernel),
     by decide +kernel, by decide +kernel, by decide +kernel, by decide +kernel,
     by decide +kernel, by decide +kernel, by decide +kernel, by decide +kernel⟩,
   ⟨mailed 4, ⟨0, 0, 0, false, false⟩, R.SYS_STATE.addr, 4, idle_of (by decide +kernel),
     by decide +kernel, by decide +kernel, by decide +kernel, by decide +kernel,
     by decide +kernel⟩,
   ⟨{ mailed 4 with brg.remotes := [⟨7, 63, true, 0, 1, false⟩] }, ⟨0, 0, 0, false, false⟩, 7, ⟨7,
     63, true, 0, 1, false⟩, idle_of (by decide +kernel), by decide +kernel⟩,
   ⟨{ mailed 4 with brg.remotes := [⟨7, 63, true, 0, 1, false⟩] }, ⟨0, 0, 0, false, false⟩, 7, ⟨7,
     63, true, 0, 1, false⟩, idle_of (by decide +kernel), by decide +kernel⟩,
   ⟨{ withStop (opened 63 [] (stopOf 2 15 [] none)) (mailed 4) with brg.remotes := [⟨7, 63, false, 0, 1, false⟩] },
     ⟨0, 0, 0, false, false⟩, 7, ⟨7, 63, false, 0, 1, false⟩, opened 63 [] (stopOf 2 15 [] none),
     idle_of (by decide +kernel), by decide +kernel, by decide +kernel, by decide +kernel,
     by decide +kernel⟩,
   ⟨putFld F.BRG_XSIG_IMPORT_BASE 1016 (putFld F.BRG_XSIG_EN 1 (mailed 4)), ⟨0, 0, 0, false,
     false⟩, 7, idle_of (by decide +kernel), by decide +kernel, by decide +kernel,
     by decide +kernel, by decide +kernel, by decide +kernel⟩,
   ⟨secondary 4, ⟨0, 0, 0, false, false⟩, idle_of (by decide +kernel), sound_of
     (by decide +kernel), by decide +kernel, by decide +kernel, (by intro a h; cases h)⟩,
   ⟨{ secondary 4 with brg.resetAt := some 0 }, ⟨0, 0, 0, false, false⟩, idle_of
     (by decide +kernel), 0, by decide +kernel, by decide +kernel⟩,
   ⟨primary 4, ⟨0, 0, 0, false, false⟩, idle_of (by decide +kernel), by decide +kernel⟩,
   ⟨secondary 0, by decide +kernel⟩,
   ⟨secondary 3, ⟨0, 0, 0, false, false⟩, .inl (idle_of (by decide +kernel))⟩,
   ⟨primary 4, by decide +kernel⟩,
   ⟨{ bridge 3 with boot.overBridge := true }, ⟨0, 0, 0, false, false⟩, 0xFFFF00, [1], idle_of
     (by decide +kernel), by decide +kernel, (sound_of (by decide +kernel)).mems,
     by decide +kernel, by decide +kernel, by decide +kernel, by decide +kernel⟩,
   ⟨{ bridge 3 with boot.overBridge := true, boot.phase := 9 }, ⟨0, 0, 0, false, false⟩, 0, [1],
     idle_of (by decide +kernel), by decide +kernel, (sound_of (by decide +kernel)).mems,
     by decide +kernel, by decide +kernel, by decide +kernel, by decide +kernel,
     by decide +kernel⟩,
   ⟨{ bridge 3 with boot.overBridge := true }, ⟨0, 0, 0, false, false⟩, idle_of
     (by decide +kernel), by decide +kernel⟩,
   ⟨{ primary 3 with brg.resent := [5] }, ⟨0, 0, 0, false, false⟩, 5, idle_of (by decide +kernel),
     by decide +kernel, by decide +kernel, by decide +kernel⟩,
   ⟨{ primary 3 with boot.sects := [⟨0x10, 5, 1, 0, 4, 0, 0, 4, 0, 0, [], 0⟩] }, ⟨0, 0, 0, false,
     false⟩, 5, idle_of (by decide +kernel), by decide +kernel, by decide +kernel, ⟨0x10, 5, 1, 0,
     4, 0, 0, 4, 0, 0, [], 0⟩, by decide +kernel, by decide +kernel⟩,
   ⟨primary 3, ⟨0, 0, 0, false, false⟩, 1, idle_of (by decide +kernel), by decide +kernel,
     by decide +kernel⟩,
   ⟨{ bridge 3 with boot.overBridge := true, brg.naked := [5], boot.sects := [⟨0x10, 5, 1, 0, 4, 0, 0, 4, 0, 0, [], 1⟩] },
     0, ⟨0x10, 5, 1, 0, 4, 0, 0, 4, 0, 0, [], 1⟩, by decide +kernel⟩⟩

theorem wit_RegisterAccess :
    (∃ s : State, ∃ a, ∃ n, s.live = true ∧ (n ≠ 4 ∨ a % 4 ≠ 0) ∧ hitKind a true false = true)
    ∧ (∃ s : State, ∃ a, ∃ n, s.live = true ∧ (n ≠ 4 ∨ a % 4 ≠ 0) ∧ hitKind a true true = true)
    ∧ (∃ s : State, ∃ a, ∃ n, s.live = true ∧ (n ≠ 4 ∨ a % 4 ≠ 0) ∧ hitKind a true false = true)
    ∧ (∃ s : State, ∃ a, ∃ n, s.live = true ∧ (n ≠ 4 ∨ a % 4 ≠ 0) ∧ hitKind a false false = true)
    ∧ (∃ s : State, ∃ a, ∃ h, ∃ b, s.live = true ∧ findHit a = some h ∧ h.r.rwp = true ∧ a % 4 = 0
      ∧ s.place a = .block b ∧ s.blockGated (slotOfAddr a) = false ∧ s.writeRefused h = false ∧
      slotOfAddr a ≠ 0x70 ∧ h.comp = false)
    ∧ (∃ s : State, ∃ a, ∃ h, ∃ v, ∃ b, s.live = true ∧ findHit a = some h ∧ h.r.rwp = true ∧ a %
      4 = 0 ∧ s.place a = .block b ∧ s.blockGated (slotOfAddr a) = false ∧ s.writeRefused h =
      false ∧ slotOfAddr a ≠ 0x70 ∧ h.comp = true ∧ ∃ p, keyGet s.rwpPend (h.r.at h.i h.j) = some
      p ∧ v % 2 ^ 32 = inv32 p ∧ h.r ∈ [R.AVE_SCRUB_CTRL, R.DST_CAL_CTRL, R.CAM_WINDOW, R.SCO_BG,
      R.CAN_NBT, R.SVC_SIG_MIN, R.RCL_FAULTN_CODE])
    ∧ (∃ s : State, ∃ a, ∃ h, ∃ v, ∃ b, s.live = true ∧ findHit a = some h ∧ h.r.rwp = true ∧ a %
      4 = 0 ∧ s.place a = .block b ∧ s.blockGated (slotOfAddr a) = false ∧ s.writeRefused h =
      false ∧ slotOfAddr a ≠ 0x70 ∧ h.comp = true ∧ ∃ p, keyGet s.rwpPend (h.r.at h.i h.j) = some
      p ∧ v % 2 ^ 32 ≠ inv32 p)
    ∧ (∃ s : State, ∃ a, ∃ h, ∃ b, s.live = true ∧ findHit a = some h ∧ h.r.rwp = true ∧ a % 4 = 0
      ∧ s.place a = .block b ∧ s.blockGated (slotOfAddr a) = false ∧ s.writeRefused h = false ∧
      slotOfAddr a ≠ 0x70 ∧ h.comp = true ∧ keyGet s.rwpPend (h.r.at h.i h.j) = none)
    ∧ (∃ s : State, ∃ a, ∃ h, ∃ b, s.live = true ∧ findHit a = some h ∧ h.r.rwp = true ∧ a % 4 = 0
      ∧ s.place a = .block b ∧ s.blockGated (slotOfAddr a) = false ∧ s.writeRefused h = false ∧
      slotOfAddr a ≠ 0x70 ∧ s.pairOk h.r h.i h.j = true)
    ∧ (∃ s : State, ∃ a, ∃ h, s.live = true ∧ s.plainAt a h) :=
  ⟨⟨up, R.CAM_WINDOW.addr, 2, by decide +kernel⟩,
   ⟨up, R.CAM_WINDOW.addr + 4, 2, by decide +kernel⟩,
   ⟨up, R.CAM_WINDOW.addr + 1, 4, by decide +kernel⟩,
   ⟨up, R.AVE_WRR.addr, 1, by decide +kernel⟩,
   ⟨up, R.CAM_WINDOW.addr, ⟨R.CAM_WINDOW, 0, 0, false⟩, R.CAM_WINDOW.addr, by decide +kernel⟩,
   ⟨{ up with rwpPend := [(R.CAM_WINDOW.addr, 5)] }, R.CAM_WINDOW.addr + 4, ⟨R.CAM_WINDOW, 0, 0,
     true⟩, 0xFFFFFFFA, R.CAM_WINDOW.addr + 4, by decide +kernel, by decide +kernel,
     by decide +kernel, by decide +kernel, by decide +kernel, by decide +kernel,
     by decide +kernel, by decide +kernel, by decide +kernel, 5, by decide +kernel,
     by decide +kernel, by decide +kernel⟩,
   ⟨{ up with rwpPend := [(R.CAM_WINDOW.addr, 5)] }, R.CAM_WINDOW.addr + 4, ⟨R.CAM_WINDOW, 0, 0,
     true⟩, 0xFFFFFFFB, R.CAM_WINDOW.addr + 4, by decide +kernel, by decide +kernel,
     by decide +kernel, by decide +kernel, by decide +kernel, by decide +kernel,
     by decide +kernel, by decide +kernel, by decide +kernel, 5, by decide +kernel,
     by decide +kernel⟩,
   ⟨up, R.CAM_WINDOW.addr + 4, ⟨R.CAM_WINDOW, 0, 0, true⟩, R.CAM_WINDOW.addr + 4,
     by decide +kernel⟩,
   ⟨up, R.CAM_WINDOW.addr + 4, ⟨R.CAM_WINDOW, 0, 0, true⟩, R.CAM_WINDOW.addr + 4,
     by decide +kernel⟩,
   ⟨up, R.AVE_WRR.addr, ⟨R.AVE_WRR, 0, 0, false⟩, by decide +kernel, plainAt_of
     (by decide +kernel)⟩⟩

end Sys2Proof.Tests
end

section
/-! PROOFS. Access to the registers (chapter 00): what a write of a plain register does, and why
its frame is wider than `Obligations.RegisterAccess` says. -/

set_option Elab.async false

namespace Sys2Proof.Machine

variable {s t : State} {a v : Nat} {h : RegHit}

/-! ### From the command to the register -/

theorem exec_registerWrite (addr size v : Nat) (s : State) :
    exec (.registerWrite addr size v) s = execRegisterWrite addr size v s := by
  rfl

/-- An aligned access to a block with an open gate reaches the block (R14, R131). -/
theorem run_onBus_block {b : Nat} (hb : s.place a = .block b) (ha : a % 4 = 0)
    (hg : s.blockGated (slotOfAddr a) = false) (p : State → Prog) :
    (onBus a p).run s = (p s).run s := by
  simp [onBus, hb, ha, hg]

/-- What kind of word an access names. Stated of the function `hitKind a`, not of its values: to
compare a value with the match it comes from, the kernel would run `findHit` on an open address. -/
theorem hitKind_of_findHit (hf : findHit (a / 4 * 4) = some h) :
    hitKind a = fun rwp comp => h.r.rwp == rwp && (!rwp || h.comp == comp) := by
  delta hitKind
  simp only [hf]

theorem State.plainAt.hitKind (hp : s.plainAt a h) : hitKind a false false = true := by
  have hword : a / 4 * 4 = a := Nat.div_mul_cancel (Nat.dvd_of_mod_eq_zero hp.aligned)
  simp [hitKind_of_findHit (hword.symm ▸ hp.hit), hp.plain]

/-- A complement word belongs to a pair, so a plain register has none. -/
theorem Reg.hit_comp {r : Reg} (hr : r.hit a = some h) (hc : h.comp = true) : h.r.rwp = true := by
  simp only [Reg.hit, Option.ite_none_left_eq_some] at hr
  obtain ⟨_, _, hr⟩ := hr
  rcases ite_eq_iff.mp hr with ⟨_, hvalue⟩ | ⟨_, hpair⟩
  · cases hvalue
    cases hc
  · obtain ⟨⟨_, hrwp⟩, hword⟩ := Option.ite_none_right_eq_some.mp hpair
    cases hword
    exact hrwp

theorem findHit_comp (hh : findHit a = some h) (hc : h.comp = true) : h.r.rwp = true := by
  obtain ⟨_, _, hr⟩ := List.exists_of_findSome?_eq_some hh
  exact Reg.hit_comp hr hc

theorem State.plainAt.comp (hp : s.plainAt a h) : h.comp = false := by
  by_contra hc
  have := findHit_comp hp.hit (by simpa using hc)
  simp [hp.plain] at this

theorem run_busWrite_plain (hp : s.plainAt a h) :
    (busWrite a v).run s = (plainWrite h (v % 2 ^ 32)).run s := by
  obtain ⟨b, hb⟩ := hp.block
  rw [busWrite, run_onBus_block hb hp.aligned hp.gate]
  have hbrg : ¬ (slotOfAddr a = 0x70 ∧ s.ident.order = .qs2) := fun ⟨h1, h2⟩ => hp.present h1 h2
  simp only [if_neg hbrg, hp.hit, hp.allowed, hp.comp, hp.plain, Bool.false_eq_true, if_false]

/-! ### What a plain write does -/

/-- The GPIO pins come under their block's control with the first write of the block (R101). -/
def gpioFirstWrite (h : RegHit) : Prog :=
  Prog.when (slotOfAddr h.r.addr = 0x64) (firstWrite ((upTo 24).map PinGroup.gpio))

/-- A write of a plain register is answered, begins the GPIO pins where the register is one of
theirs, and stores the word that the access codes leave (Table 00-5). -/
theorem run_plainWrite (hp : s.plainAt a h) :
    (plainWrite h v).run s
      = (setReg h.r (storedWord h.r (s.readWord h.r h.i h.j) v) h.i h.j).run
          ((gpioFirstWrite h).run { s with bus := ⟨true, 0⟩ }) := by
  have hstarts := hp.starts
  simp only [List.mem_cons, List.not_mem_nil, or_false, not_or] at hstarts
  obtain ⟨h1, h2, h3, h4, h5, h6, h7, h8, h9, h10, h11, h12⟩ := hstarts
  simp only [plainWrite, h1, h2, h3, h4, h5, h6, h7, h8, h9, h10, h11, h12, false_and, if_false,
    run_seq, run_look, run_when_pos hp.stored]
  rfl

theorem exec_registerWrite_plain (hl : s.live = true) (hp : s.plainAt a h) :
    exec (.registerWrite a 4 v) s
      = .next ((setReg h.r (storedWord h.r (s.readWord h.r h.i h.j) (v % 2 ^ 32)) h.i h.j).run
          ((gpioFirstWrite h).run { s with bus := ⟨true, 0⟩ })) := by
  rw [exec_registerWrite, execRegisterWrite, run_when_pos ⟨hl, hp.hitKind⟩, sizedAccess,
    if_pos ⟨rfl, hp.aligned⟩, outcome_eq, run_busWrite_plain hp, run_plainWrite hp]

/-! ### The first write of the GPIO block -/

theorem mem_begun_firstWrite {gs : List PinGroup} {g : PinGroup} (hg : g ∈ gs) (s : State) :
    g ∈ ((firstWrite gs).run s).ports.begun := by
  by_cases hb : g ∈ s.ports.begun <;> simp [firstWrite, modPorts, Act.apply, hg, hb]

/-- R101: after a write to a register of the GPIO block every GPIO pin has begun. -/
theorem registerWrite_gpio_begun (hl : s.live = true) (hp : s.plainAt a h)
    (hgpio : slotOfAddr h.r.addr = 0x64) (ht : exec (.registerWrite a 4 v) s = .next t)
    {n : Nat} (hn : n < 24) : PinGroup.gpio n ∈ t.ports.begun := by
  rw [exec_registerWrite_plain hl hp, Host.Outcome.next.injEq] at ht
  have hmem : PinGroup.gpio n ∈ (upTo 24).map PinGroup.gpio :=
    List.mem_map_of_mem (List.mem_range.mpr hn)
  rw [← ht, setReg_ports, gpioFirstWrite, run_when_pos hgpio]
  exact mem_begun_firstWrite hmem _

/-- A running device whose GPIO pins nothing has written yet; the rest as after reset. -/
def gpioUntouched : State := { State.reset with lamp.power := .running }

theorem gpioUntouched_sound : gpioUntouched.Sound where
  mems id := by cases id <;> decide
  keys := ⟨by decide, by decide, by decide, by decide⟩
  words := by simp [State.wordsOk, gpioUntouched, State.reset]
  ring := by simp [State.ringFits, gpioUntouched, State.reset]

theorem gpioUntouched_plainAt : gpioUntouched.plainAt R.GPIO_DIR.addr ⟨R.GPIO_DIR, 0, 0, false⟩ where
  hit := by decide
  plain := rfl
  stored := by decide
  starts := by decide
  aligned := by decide
  block := ⟨R.GPIO_DIR.addr, by decide⟩
  gate := by decide
  present := by decide
  allowed := by decide

/-- A plain write in a sound state can change the pins as well as the register and the answer. -/
theorem registerWrite_changes_ports :
    ∃ s a h, s.Sound ∧ s.live = true ∧ s.plainAt a h ∧
      ∀ v t, exec (.registerWrite a 4 v) s = .next t → t.ports ≠ s.ports := by
  refine ⟨gpioUntouched, _, _, gpioUntouched_sound, rfl, gpioUntouched_plainAt, ?_⟩
  intro v t ht hsame
  have hbegun : PinGroup.gpio 0 ∈ t.ports.begun :=
    registerWrite_gpio_begun rfl gpioUntouched_plainAt (by decide) ht (by decide)
  have hnone : PinGroup.gpio 0 ∉ gpioUntouched.ports.begun := by decide
  exact hnone (hsame ▸ hbegun)

/-- Refutes O60: the last clause lets a plain write change the answer and the register's block
only, but the first write to GPIO_DIR after reset also begins the GPIO pins, as R101 and Table
03-18 ask. The state of the counterexample is sound. -/
theorem not_registerAccess : ¬ Obligations.RegisterAccess := by
  rintro ⟨_, _, hplain⟩
  obtain ⟨s, a, h, _, hl, hp, hports⟩ := registerWrite_changes_ports
  obtain ⟨t, ht, _, _, hframe, _⟩ := hplain s a h 0 hl hp
  exact hports 0 t ht (hframe .ports rfl)

end Sys2Proof.Machine
end

section
/-! PROOFS. Packets of the Bridge link (chapter 14): what serving a remote READ leaves in the fault
ring, and why its frame is wider than `Obligations.BridgePackets` says. -/

set_option Elab.async false

namespace Sys2Proof.Machine

variable {s t : State} {d : Side}

/-! ### From the command to the packet -/

theorem exec_bridgeRead (d : Side) (tag addr len : Nat) (s : State) :
    exec (.bridgeRead d tag addr len) s = .next ((receive d 1 (serveRead tag addr len)).run s) := by
  rfl

/-- Without a NAK the sideband of a flit concerns the Bridge node alone (R410, R411). -/
theorem run_takeSide_of_not_nak (hnak : d.nak = false) (s : State) :
    ∃ b, (takeSide d).run s = { s with brg := b } := by
  rw [takeSide, run_when_neg (by simp [hnak])]
  exact ⟨_, rfl⟩

/-- A packet in order reaches what serves it; up to there only the Bridge node changes. -/
theorem run_receive_linkIdle (hi : s.linkIdle 4 d) (n : Nat) (p : Prog) :
    ∃ b, (receive d n p).run s = p.run { s with brg := b } := by
  obtain ⟨hlink, _, _, _, hseq, hnak⟩ := hi
  obtain ⟨b, hside⟩ := run_takeSide_of_not_nak hnak s
  have hsession : s.brg.session = true := by simp [Brg.session, hlink]
  rw [receive, run_look, run_when_pos hsession, if_neg (not_not.mpr hseq), run_all_cons, hside]
  exact ⟨_, rfl⟩

/-! ### The number of the next fault record -/

theorem Prog.Within.nextSeq_eq {W : List Part} {p : Prog} (hp : p.Within W)
    (hW : coveredBy W .ring = false) (s : State) : (p.run s).nextSeq = s.nextSeq :=
  (hp s .ring hW).2

theorem raise_nextSeq_lt (code unit detail queue tag status : Nat) (s : State) :
    s.nextSeq < ((raise code unit detail queue tag status).run s).nextSeq := by
  rw [raise, run_seq, takeMessage_nextSeq]
  exact Nat.lt_succ_of_le (useFaultnCodes_nextSeq s)

theorem raiseSecond_nextSeq_le (code unit detail key : Nat) (s : State) :
    s.nextSeq ≤ ((raiseSecond code unit detail key).run s).nextSeq := by
  rw [raiseSecond, raiseLimited, run_look, Prog.when]
  split
  · rw [run_seq, run_modRcl]
    exact (act_rcl_nextSeq ..).symm.le.trans (raise_nextSeq_lt ..).le
  · exact le_rfl

theorem countRefusal_nextSeq_le (st addr : Nat) (s : State) :
    s.nextSeq ≤ ((countRefusal st addr).run s).nextSeq := by
  unfold countRefusal
  split_ifs
  · rw [run_seq]
    exact (bump_nextSeq ..).symm.le.trans (raiseSecond_nextSeq_le ..)
  · rw [run_seq]
    exact (bump_nextSeq ..).symm.le.trans (raiseSecond_nextSeq_le ..)
  · rw [regionConflict, run_seq]
    exact (setF_nextSeq ..).symm.le.trans (raise_nextSeq_lt ..).le
  · exact le_rfl

theorem sendRdata_nextSeq (tag st : Nat) (data : List Byte) (s : State) :
    ((sendRdata tag st data).run s).nextSeq = s.nextSeq :=
  (within_sendPkt (partsLe_refl _)).nextSeq_eq rfl s

/-! ### Uses of complement pairs (R19) -/

/-- The mismatch of a pair that disagrees is recorded at its use. -/
theorem usePair_nextSeq_lt {r : Reg} {i j : Nat} (hp : s.pairOk r i j = false) :
    s.nextSeq < ((usePair r i j).run s).nextSeq := by
  rw [usePair, run_look, run_when_pos hp, run_all_cons, run_all_cons, run_all_nil, setReg_nextSeq]
  exact raise_nextSeq_lt ..

theorem usePair_nextSeq_le (r : Reg) (i j : Nat) (s : State) :
    s.nextSeq ≤ ((usePair r i j).run s).nextSeq := by
  cases hp : s.pairOk r i j with
  | false => exact (usePair_nextSeq_lt hp).le
  | true => rw [usePair, run_look, run_when_neg (by simp [hp]), run_skip]

/-- A stored word of one of the registers `rs` belongs to a pair that disagrees. -/
def State.pairBroken (s : State) (rs : List Reg) : Prop :=
  ∃ e ∈ s.regs, 0xF0000000 ≤ e.1 ∧ ∃ h, findHit e.1 = some h ∧ h.r ∈ rs
    ∧ s.pairOk h.r h.i h.j = false

theorem useRegs_nextSeq_lt {rs : List Reg} (hb : s.pairBroken rs) :
    s.nextSeq < ((useRegs rs).run s).nextSeq := by
  obtain ⟨e, he, hlow, h, hhit, hr, hpair⟩ := hb
  rw [useRegs, run_look]
  generalize hl : List.filter _ _ = l
  have hmem : h ∈ l := by
    rw [← hl, List.mem_filter, List.mem_filterMap]
    exact ⟨⟨e, he, by rw [if_pos hlow, hhit]⟩, by simp [hr, hpair]⟩
  cases l with
  | nil => cases hmem
  | cons g gs =>
    have hg : s.pairOk g.r g.i g.j = false := by
      have hfound := (List.mem_filter.mp (hl ▸ List.mem_cons_self : g ∈ List.filter _ _)).2
      rw [Bool.and_eq_true, Bool.not_eq_true'] at hfound
      exact hfound.2
    rw [run_each_cons]
    exact (usePair_nextSeq_lt hg).trans_le (nextSeq_le_each (fun _ _ => usePair_nextSeq_le ..) _)

/-! ### A READ of SYS_STATE -/

/-- The complement pairs of the mailbox window. -/
def mailboxRegs : List Reg :=
  [R.BRG_MBX_BASE, R.BRG_MBX_SIZE, R.BRG_MBX_RATE, R.BRG_SUB_SIGS_LO, R.BRG_SUB_SIGS_HI]

theorem useMailbox_eq : useMailbox = useRegs mailboxRegs := by
  rfl

/-- A register is no memory word, so reading it meets no stored error. -/
theorem run_readEffects_sysState (s : State) :
    (readEffects R.SYS_STATE.addr 4).run s = s := by
  have htop : ¬ R.SYS_STATE.addr < s.plazaTop := by
    unfold State.plazaTop
    split <;> decide
  have hplace : s.place R.SYS_STATE.addr = .block R.SYS_STATE.addr := by
    rw [State.place, if_neg htop, if_pos (by decide), if_pos (by decide)]
  rw [readEffects, run_look, hplace]
  rfl

/-- Serving the READ uses the pairs of the mailbox window, whatever it then answers (R19, R417). -/
theorem serveRead_sysState_nextSeq_lt (tag : Nat) (hb : s.pairBroken mailboxRegs) :
    s.nextSeq < ((serveRead tag R.SYS_STATE.addr 4).run s).nextSeq := by
  rw [serveRead, if_neg (by decide), run_seq, run_seq, useMailbox_eq]
  have huse : s.nextSeq < ((useRegs mailboxRegs).run ((countRequest false).run s)).nextSeq :=
    useRegs_nextSeq_lt (s := (countRequest false).run s) hb
  refine huse.trans_le ?_
  rw [run_look]
  dsimp only
  split_ifs
  · rw [run_seq, sendRdata_nextSeq]
    exact countRefusal_nextSeq_le ..
  · rw [run_seq, run_readEffects_sysState, sendRdata_nextSeq]
  · rw [run_seq, run_readEffects_sysState, sendRdata_nextSeq]
  · rw [sendRdata_nextSeq]

/-- R19: a READ that meets a broken pair of the mailbox window leaves a record in the fault ring. -/
theorem bridgeRead_sysState_nextSeq_lt {tag : Nat} (hi : s.linkIdle 4 d)
    (hb : s.pairBroken mailboxRegs)
    (ht : exec (.bridgeRead d tag R.SYS_STATE.addr 4) s = .next t) : s.nextSeq < t.nextSeq := by
  obtain ⟨b, hrun⟩ := run_receive_linkIdle hi 1 (serveRead tag R.SYS_STATE.addr 4)
  rw [exec_bridgeRead, Host.Outcome.next.injEq, hrun] at ht
  exact ht ▸ serveRead_sysState_nextSeq_lt (s := { s with brg := b }) tag hb

/-- A running device with an idle link in UP, whose BRG_SUB_SIGS_LO holds a value word that its
complement word does not match; the rest as after reset. -/
def subSigsBroken : State :=
  { State.reset with
    time := 250
    lamp := { Lamp.reset with power := .running }
    regs := [(R.BRG_SUB_SIGS_LO.addr, 1)]
    brg := { Brg.reset with link := 4 } }

theorem subSigsBroken_sound : subSigsBroken.Sound where
  mems id := by cases id <;> decide
  keys := ⟨by decide, by decide, by decide, by decide⟩
  words := by simp [State.wordsOk, subSigsBroken]
  ring := by simp [State.ringFits, subSigsBroken, State.reset]

theorem subSigsBroken_linkIdle : subSigsBroken.linkIdle 4 ⟨0, 0, 0, false, false⟩ :=
  ⟨rfl, rfl, rfl, rfl, rfl, rfl⟩

theorem subSigsBroken_pairBroken : subSigsBroken.pairBroken mailboxRegs :=
  ⟨(R.BRG_SUB_SIGS_LO.addr, 1), by decide, by decide, ⟨R.BRG_SUB_SIGS_LO, 0, 0, false⟩,
    by decide, by decide, by decide⟩

/-- Some READ of SYS_STATE in a sound state changes more than the Bridge node. -/
theorem bridgeRead_changes_ring :
    ∃ s d, s.Sound ∧ s.linkIdle 4 d ∧ s.brg.winAt + 250 ≤ s.time
      ∧ s.mailbox.1 + s.mailbox.2 ≤ R.SYS_STATE.addr
      ∧ ∀ tag t, exec (.bridgeRead d tag R.SYS_STATE.addr 4) s = .next t → t.nextSeq ≠ s.nextSeq :=
  ⟨subSigsBroken, _, subSigsBroken_sound, subSigsBroken_linkIdle, by decide, by decide,
    fun _ _ ht =>
      (bridgeRead_sysState_nextSeq_lt subSigsBroken_linkIdle subSigsBroken_pairBroken ht).ne'⟩

/-- Refutes O59: its READ clause lets the Bridge node alone change, but serving the READ uses the
pairs of the mailbox window, and one that disagrees is repaired and its fault recorded, as R19 asks.
The state of the counterexample is sound. -/
theorem not_bridgePackets : ¬ Obligations.BridgePackets := by
  rintro ⟨_, hread, _⟩
  obtain ⟨s, d, _, hidle, hwindow, hmailbox, hring⟩ := bridgeRead_changes_ring
  obtain ⟨t, ht, _, hframe, _⟩ :=
    (hread s d 0 R.SYS_STATE.addr 4 hidle (by decide) hwindow).2 rfl rfl hmailbox
  exact hring 0 t ht (hframe .ring rfl).2

end Sys2Proof.Machine
end

section
/-! PROOFS. Predicates that a micro-program preserves, and what the Bridge node sends and receives
(chapter 14, R409 to R411). -/

set_option Elab.async false

namespace Sys2Proof.Machine

/-! ### Predicates that a micro-program preserves -/

/-- The micro-program leads from every state with the property `P` to one with `P`. -/
def Prog.Preserves (P : State → Prop) (p : Prog) : Prop := ∀ s, P s → P (p.run s)

section preserves
variable {P : State → Prop}

theorem preserves_skip : Prog.skip.Preserves P := fun _ h => h

theorem preserves_seq {p q : Prog} (hp : p.Preserves P) (hq : q.Preserves P) :
    (Prog.seq p q).Preserves P := fun s h => hq _ (hp s h)

theorem preserves_look {k : State → Prog} (h : ∀ s, (k s).Preserves P) :
    (Prog.look k).Preserves P := fun s => h s s

theorem preserves_all_nil : (Prog.all []).Preserves P := preserves_skip

theorem preserves_all_cons {p : Prog} {ps : List Prog} (hp : p.Preserves P)
    (h : (Prog.all ps).Preserves P) : (Prog.all (p :: ps)).Preserves P := preserves_seq hp h

theorem preserves_when {c : Prop} [Decidable c] {p : Prog} (h : p.Preserves P) :
    (Prog.when c p).Preserves P := by
  unfold Prog.when
  split
  · exact h
  · exact preserves_skip

theorem preserves_ite {c : Prop} [Decidable c] {p q : Prog} (hp : p.Preserves P)
    (hq : q.Preserves P) : (if c then p else q).Preserves P := by
  split
  · exact hp
  · exact hq

theorem preserves_each_mem {β : Type} {l : List β} {f : β → Prog}
    (h : ∀ x ∈ l, (f x).Preserves P) : (Prog.each l f).Preserves P := by
  induction l with
  | nil => exact preserves_skip
  | cons x t ih =>
    exact preserves_seq (h x List.mem_cons_self) (ih fun y hy => h y (List.mem_cons_of_mem x hy))

theorem preserves_each {β : Type} {l : List β} {f : β → Prog} (h : ∀ x, (f x).Preserves P) :
    (Prog.each l f).Preserves P := preserves_each_mem fun x _ => h x

end preserves

/-- A program for entries that are known to stand in the list. -/
theorem keeps_each_mem {α β : Type} {π : State → α} {l : List β} {f : β → Prog}
    (h : ∀ x ∈ l, (f x).Keeps π) : (Prog.each l f).Keeps π := by
  induction l with
  | nil => exact keeps_skip
  | cons x t ih =>
    exact keeps_seq (h x List.mem_cons_self) (ih fun y hy => h y (List.mem_cons_of_mem x hy))

/-! ### Packets sent -/

section sending
variable {b : Brg} {p : Pkt} {s : State} {d : Side}

theorem getLast?_noteSent (l : List Pkt) (p : Pkt) : (noteSent l p).getLast? = some p := by
  rw [noteSent, List.drop_append_of_le_length (Nat.sub_le ..), List.getLast?_concat]

/-- Packets sent one after the other: the last of them was sent last. -/
theorem getLast?_foldl_noteSent (l : List (Nat × Pkt)) (sent : List Pkt) (hl : l ≠ []) :
    (l.foldl (fun m e => noteSent m e.2) sent).getLast? = (l.map fun e => e.2).getLast? := by
  rw [← List.dropLast_append_getLast hl]
  simp [getLast?_noteSent]

/-- With nothing queued, credits that come release nothing. -/
theorem pump_of_queue_nil (hq : b.queue = []) (n : Nat) : b.pump n = b := by
  cases n with
  | zero => rfl
  | succ n => simp [Brg.pump, Brg.nextOut, hq, upTo]

/-- With nothing queued before it, a packet that can be sent is sent at once. -/
theorem enqueue_of_canSend (hq : b.queue = []) (hp : b.canSend p = true) :
    b.enqueue p = b.transmit p := by
  have hsend : ({ b with queue := [p] } : Brg).canSend p = true := hp
  have hnext : ({ b with queue := [p] } : Brg).nextOut = some 0 := by
    simp [Brg.nextOut, upTo, hsend]
  simp only [Brg.enqueue, hq, List.nil_append, List.length_nil, Brg.pump, hnext]
  cases b
  cases hq
  rfl

theorem pump_remotes (n : Nat) (b : Brg) : (b.pump n).remotes = b.remotes := by
  induction n generalizing b with
  | zero => rfl
  | succ n ih =>
    unfold Brg.pump
    split
    · rfl
    · split
      · rfl
      · exact ih _

theorem enqueue_remotes (b : Brg) (p : Pkt) : (b.enqueue p).remotes = b.remotes :=
  pump_remotes _ _

/-! ### The sideband of a received flit -/

/-- The Bridge node after the sideband of a flit, with nothing queued: acknowledged packets leave
the replay buffer, and credits come back (R410, R411). -/
def Brg.afterSide (b : Brg) (d : Side) : Brg :=
  let rest := if d.ackv then b.unacked.filter fun e => !ackCovers d.ack e else b.unacked
  { b with
    unacked := rest
    episodes := if rest.length < b.unacked.length then 0 else b.episodes
    credits := min 64 (b.credits + d.credit % 64) }

theorem run_takeSide (hq : s.brg.queue = []) :
    (takeSide d).run s
      = (Prog.when (d.nak = true) replayFlits).run { s with brg := s.brg.afterSide d } := by
  have hpump : ∀ n, (s.brg.afterSide d).pump n = s.brg.afterSide d := pump_of_queue_nil hq
  rw [takeSide, run_seq]
  congr 1
  exact congrArg (fun b => { s with brg := b }) (hpump _)

theorem run_takeSide_plain (hq : s.brg.queue = []) (hn : d.nak = false) :
    (takeSide d).run s = { s with brg := s.brg.afterSide d } := by
  rw [run_takeSide hq, run_when_neg (by simp [hn]), run_skip]

/-- A flit that acknowledges nothing leaves the replay buffer and the count of episodes. -/
theorem afterSide_of_not_ackv (ha : d.ackv = false) :
    b.afterSide d = { b with credits := min 64 (b.credits + d.credit % 64) } := by
  simp [Brg.afterSide, ha]

/-- The Bridge node after a packet of `n` flits taken in order, with nothing queued. -/
def Brg.accepted (b : Brg) (d : Side) (n : Nat) : Brg :=
  { b.afterSide d with
    rxSeq := (b.rxSeq + n) % 256
    nakSent := false
    creditsOwed := b.creditsOwed + n }

/-- A packet in order reaches what takes it. -/
theorem run_receive_inOrder {link : Nat} (hi : s.linkIdle link d) (hs : s.brg.session = true)
    (n : Nat) (p : Prog) :
    (receive d n p).run s = p.run { s with brg := s.brg.accepted d n } := by
  obtain ⟨_, hq, _, _, hseq, hnak⟩ := hi
  rw [receive, run_look, run_when_pos hs, if_neg (not_not.mpr hseq), run_all_cons,
    run_takeSide_plain hq hnak]
  rfl

end sending

end Sys2Proof.Machine
end

section
/-! PROOFS. What the operations of the link leave of the Bridge node: its own state and the
registers of its block that no fault message writes. -/

set_option Elab.async false

namespace Sys2Proof.Machine

variable {s t : State}

/-! ### The words of a register -/

/-- Addresses of the words that a register's element stands in: a complement pair has two (R17). -/
def Reg.words (r : Reg) (i j : Nat) : List Nat :=
  if r.rwp then [r.at i j, r.at i j + 4] else [r.at i j]

theorem rd_congr_words {r : Reg} {i j : Nat} (hi : t.ident = s.ident)
    (h : ∀ a ∈ r.words i j, keyGet t.regs a = keyGet s.regs a) : t.rd r i j = s.rd r i j := by
  unfold Reg.words at h
  cases hr : r.rwp <;> simp only [hr, if_true, Bool.false_eq_true, if_false, List.mem_cons,
    List.not_mem_nil, or_false, forall_eq_or_imp, forall_eq] at h
  · simp [State.rd, State.pairOk, State.rawReg, hi, h, hr]
  · exact rd_congr hi h.1 h.2

theorem keyGet_setReg_other {r : Reg} {v i j a : Nat} (h : a ∉ r.words i j) :
    keyGet ((setReg r v i j).run s).regs a = keyGet s.regs a := by
  unfold Reg.words at h
  unfold setReg
  cases hr : r.rwp <;> simp only [hr, if_true, Bool.false_eq_true, if_false, List.mem_cons,
    List.not_mem_nil, or_false, not_or] at h <;>
    simp only [Bool.false_eq_true, if_false, if_true, run_seq, run_act, run_skip, act_reg_regs]
  · exact keyGet_keyPut_other h
  · rw [keyGet_keyPut_other h.2, keyGet_keyPut_other h.1]

/-- A register none of whose words is written reads as before. -/
theorem rd_setReg_words {r q : Reg} {v i j k l : Nat}
    (h : ∀ a ∈ q.words k l, a ∉ r.words i j) : ((setReg r v i j).run s).rd q k l = s.rd q k l :=
  rd_congr_words (run_ident s _) fun a ha => keyGet_setReg_other (h a ha)

/-! ### The Bridge node and its registers -/

/-- Registers of the Bridge block that no fault message writes: all but BRG_EVENT. -/
def bridgeWords : List Reg :=
  [R.BRG_CTRL, R.BRG_XSIG, R.BRG_PARTNER_BUILD_LO, R.BRG_REPLAY_COUNT, R.BRG_ABSENT_TICK]

/-- The Bridge node's state, and the words of its registers. -/
def State.node (s : State) : Brg × List Nat := (s.brg, bridgeWords.map fun q => s.rd q)

theorem brg_of_node (h : t.node = s.node) : t.brg = s.brg := congrArg Prod.fst h

theorem rd_of_node {q : Reg} (hq : q ∈ bridgeWords) (h : t.node = s.node) : t.rd q = s.rd q := by
  have hwords : bridgeWords.map (fun r => t.rd r) = bridgeWords.map (fun r => s.rd r) :=
    congrArg Prod.snd h
  exact List.map_inj_left.mp hwords q hq

theorem node_eq (hb : t.brg = s.brg) (hr : ∀ q ∈ bridgeWords, t.rd q = s.rd q) :
    t.node = s.node :=
  Prod.ext hb (List.map_inj_left.mpr hr)

theorem bridgeWords_slot : ∀ q ∈ bridgeWords, q.oneSlot = true ∧ regSlot q.addr = 0x70 := by
  decide

/-- A micro-program that changes neither the Bridge node nor its block's registers. -/
theorem keepsNode_of_within {W : List Part} {p : Prog} (hp : p.Within W)
    (hb : coveredBy W .brg = false) (hr : coveredBy W (.regs 0x70) = false) :
    p.Keeps State.node := by
  intro s
  refine node_eq (hp s .brg hb) fun q hq => ?_
  obtain ⟨hone, hslot⟩ := bridgeWords_slot q hq
  exact rd_of_within hp hone (hslot ▸ hr) s 0 0

/-! ### Fault messages -/

theorem eventTable_apart :
    ∀ e ∈ eventTable, ∀ q ∈ bridgeWords, ∀ a ∈ q.words 0 0, a ∉ e.2.1.reg.words e.2.2 0 := by
  decide

/-- Setting a bit of a field whose word lies apart from those of the Bridge node. -/
theorem setFBit_keeps_node {f : Field} {i : Nat}
    (h : ∀ q ∈ bridgeWords, ∀ a ∈ q.words 0 0, a ∉ f.reg.words i 0)
    (n : Nat) (v : Bool) : (setFBit f n v i).Keeps State.node :=
  fun s => node_eq (setFBit_brg s f n v i 0) fun q hq => rd_setReg_words (h q hq)

theorem setEventBit_keeps_node (code : Nat) : (setEventBit code).Keeps State.node := by
  unfold setEventBit
  split
  · exact keeps_skip
  next f i base hfield =>
    refine keeps_when fun _ => ?_
    simp only [eventField] at hfield
    split at hfield
    · obtain ⟨rfl, _⟩ := Prod.mk.inj (Option.some.inj hfield)
      exact keepsNode_of_within (W := [.regs 0x10]) (within_setFBit rfl (by decide +kernel)) rfl rfl
    · obtain ⟨e, he, hbit⟩ := Option.map_eq_some_iff.mp hfield
      cases hbit
      exact setFBit_keeps_node (eventTable_apart e (List.mem_of_find?_eq_some he)) _ _

theorem takeMessage_keeps_node (code unit detail queue tag status : Nat) :
    (takeMessage code unit detail queue tag status).Keeps State.node :=
  keeps_all_cons
    (keepsNode_of_within (W := [.mem .retA, .mem .retB, .ring, .lamp, .rcl])
      (within_appendRecord (partsLe_refl _)) rfl rfl) <|
  keeps_all_cons (setEventBit_keeps_node code) <|
  keeps_all_cons
    (keepsNode_of_within (W := [.regs 0x90]) (within_look fun _ => within_each fun _ =>
      within_when (within_setFBit rfl (by decide +kernel))) rfl rfl)
  keeps_all_nil

theorem raise_keeps_node (code unit detail queue tag status : Nat) :
    (raise code unit detail queue tag status).Keeps State.node :=
  keeps_seq (keepsNode_of_within (within_useFaultnCodes (partsLe_refl _)) rfl rfl)
    (takeMessage_keeps_node _ _ _ _ _ _)

theorem raiseSecond_keeps_node (code unit detail key : Nat) :
    (raiseSecond code unit detail key).Keeps State.node :=
  keeps_look fun _ => keeps_when fun _ => keeps_seq
    (keepsNode_of_within (W := [.rcl]) (within_modRcl rfl) rfl rfl) (raise_keeps_node _ _ _ _ _ _)

/-! ### The pair of BRG_XSIG -/

theorem bridgeWords_apart_xsig :
    ∀ q ∈ bridgeWords, q ≠ R.BRG_XSIG → ∀ a ∈ q.words 0 0, a ∉ R.BRG_XSIG.words 0 0 := by
  decide

/-- A use of the pair leaves its word: one that disagrees is used at its reset value and repaired
to it (R19). -/
theorem usePair_xsig_keeps_node : (usePair R.BRG_XSIG).Keeps State.node := by
  intro s
  rw [usePair, run_look, Prog.when]
  split
  next hpair =>
    rw [run_all_cons, run_all_cons, run_all_nil]
    have hnode : ((raiseMismatch (R.BRG_XSIG.at 0 0)).run s).node = s.node :=
      raise_keeps_node _ _ _ _ _ _ s
    refine node_eq ((setReg_brg ..).trans (brg_of_node hnode)) fun q hq => ?_
    by_cases hx : q = R.BRG_XSIG
    · subst hx
      rw [rd_setReg_self, State.rd, hpair]
      rfl
    · rw [rd_setReg_words (bridgeWords_apart_xsig q hq hx)]
      exact rd_of_node hq hnode
  · rfl

/-- The register has one copy, whatever its index. -/
theorem usePair_xsig_index (i j : Nat) : usePair R.BRG_XSIG i j = usePair R.BRG_XSIG := by
  have hat : R.BRG_XSIG.at i j = R.BRG_XSIG.at 0 0 := by simp [Reg.at, R.BRG_XSIG]
  simp only [usePair, setReg, State.pairOk, State.rawReg, State.rawComp, hat]
  rfl

theorem useRegs_xsig_keeps_node : (useRegs [R.BRG_XSIG]).Keeps State.node := by
  refine keeps_look fun _ => keeps_each_mem fun h hh => ?_
  have hr : h.r = R.BRG_XSIG := by
    have hfound := (List.mem_filter.mp hh).2
    rw [Bool.and_eq_true, List.contains_iff_mem, List.mem_singleton] at hfound
    exact hfound.1
  rw [hr, usePair_xsig_index]
  exact usePair_xsig_keeps_node

end Sys2Proof.Machine
end

section
/-! PROOFS. Sessions and the absence of the partner (R412, R413, R421, R426): what they leave of the
Bridge node and of the queues. -/

set_option Elab.async false

namespace Sys2Proof.Machine

variable {s t : State}

/-! ### Signals of crossings that are sent to the partner -/

/-- A crossing's change can be sent to the partner now (R420). -/
def State.exports (s : State) : Bool := s.brg.session && s.flag F.BRG_XSIG_EN

theorem xsigEn_of_node (h : t.node = s.node) : t.flag F.BRG_XSIG_EN = s.flag F.BRG_XSIG_EN := by
  have hrd : t.rd R.BRG_XSIG = s.rd R.BRG_XSIG := rd_of_node (by decide) h
  exact congrArg (· != 0) (fld_congr hrd)

theorem exports_of_node (h : t.node = s.node) : t.exports = s.exports := by
  rw [State.exports, State.exports, brg_of_node h, xsigEn_of_node h]

theorem exportSignal_node (h : s.exports = false) (n v : Nat) (failed : Bool) :
    ((exportSignal n v failed).run s).node = s.node := by
  have huse := useRegs_xsig_keeps_node s
  rw [exportSignal, run_seq, run_look]
  generalize (useRegs [R.BRG_XSIG]).run s = u at huse ⊢
  split
  · exact huse
  next j hj =>
    have hen : u.flag F.BRG_XSIG_EN = true := by
      simp only [State.exportIndex, Option.ite_none_right_eq_some, Bool.and_eq_true] at hj
      exact hj.1.1.1
    have hquiet : u.brg.session = false := by
      rw [← exports_of_node huse, State.exports, hen, Bool.and_true] at h
      exact h
    rw [run_when_neg (by simp [hquiet])]
    exact huse

/-! ### Device crossings and imports -/

theorem checkCrossing_keeps_node (n : Nat) : (checkCrossing n).Keeps State.node :=
  keepsNode_of_within (within_checkCrossing (partsLe_refl _)) rfl rfl

theorem putCrossing_keeps_node (n : Nat) (c : Crossing) : (putCrossing n c).Keeps State.node :=
  keepsNode_of_within (within_putCrossing (partsLe_refl _)) rfl rfl

theorem notifyWardens_keeps_node : notifyWardens.Keeps State.node :=
  keepsNode_of_within (within_notifyWardens (partsLe_refl _)) rfl rfl

theorem changeCounter_node (h : s.exports = false) (n v : Nat) (failed set : Bool) :
    ((changeCounter n v failed set).run s).node = s.node := by
  rw [changeCounter, run_look, run_all_cons, run_all_cons, run_all_cons, run_all_nil]
  have hstored : ∀ c, (notifyWardens.run ((putCrossing n c).run s)).node = s.node := fun c =>
    (notifyWardens_keeps_node _).trans (putCrossing_keeps_node n c s)
  exact (exportSignal_node ((exports_of_node (hstored _)).trans h) ..).trans (hstored _)

/-- A device event that is not exported leaves the Bridge node alone. -/
theorem deviceEvent_node (h : s.exports = false) (n : Nat) (failed : Bool) :
    ((deviceEvent n failed).run s).node = s.node := by
  rw [deviceEvent, run_all_cons, run_all_cons, run_all_cons, run_all_nil, run_look]
  have hcounted := (keepsNode_of_within (W := [.xng]) (within_modXng rfl
    (f := fun x => { x with device := upd x.device n ((nth 0 x.device n + 1) % 2 ^ 32) })) rfl rfl
    _).trans (checkCrossing_keeps_node n s)
  exact (changeCounter_node ((exports_of_node hcounted).trans h) ..).trans hcounted

theorem breakImports_keeps_node : breakImports.Keeps State.node :=
  keeps_seq usePair_xsig_keeps_node <| keeps_look fun _ => keeps_when fun _ => keeps_seq
    (keeps_each fun _ => keeps_look fun _ => keeps_when fun _ => putCrossing_keeps_node _ _)
    notifyWardens_keeps_node

/-- With no remote access outstanding there is no token to revoke. -/
theorem run_revokeTokens (h : s.brg.remotes = []) : revokeTokens.run s = s := by
  rw [revokeTokens, run_look, h]
  rfl

/-! ### The partner's absence -/

/-- The Bridge node as it declares its partner absent at time `now`. -/
def Brg.absent (b : Brg) (now : Nat) : Brg :=
  { b with link := 7, absentAt := now, queue := [], unacked := [] }

/-- The state in which the absence is recorded and reported (R414). -/
def State.absenceReported (s : State) : State :=
  (raise 0x7004 unitBrg).run ((setReg R.BRG_ABSENT_TICK (s.lamp.tick % 2 ^ 32)).run
    { s with brg := s.brg.absent s.time })

/-- What a session's end does beyond the Bridge node: the device event of crossing 15, and the
imports broken. -/
def endSession (session : Bool) : Prog :=
  .seq (Prog.when (session = true) (deviceEvent 15)) breakImports

theorem absenceReported_node : s.absenceReported.node
    = ((setReg R.BRG_ABSENT_TICK (s.lamp.tick % 2 ^ 32)).run
        { s with brg := s.brg.absent s.time }).node :=
  raise_keeps_node _ _ _ _ _ _ _

theorem absenceReported_brg : s.absenceReported.brg = s.brg.absent s.time :=
  (brg_of_node absenceReported_node).trans (setReg_brg ..)

theorem absenceReported_exports : s.absenceReported.exports = false := by
  rw [State.exports, absenceReported_brg]
  rfl

theorem endSession_node (session : Bool) (h : s.exports = false) :
    ((endSession session).run s).node = s.node := by
  rw [endSession, run_seq]
  refine (breakImports_keeps_node _).trans ?_
  rw [Prog.when]
  split
  · exact deviceEvent_node h 15 false
  · rfl

/-- What a chip does in the end that has declared its partner absent, before the hand-over or as a
secondary: a secondary's queues halt (R426). -/
theorem run_declareAbsent (hr : s.brg.remotes = [])
    (hh : s.localRole = 2 ∨ s.boot.handedOver = false) :
    declareAbsent.run s = (Prog.when (s.localRole = 2) haltAll).run
      ((endSession s.brg.session).run s.absenceReported) := by
  have hnode := endSession_node s.brg.session (absenceReported_exports (s := s))
  have htokens : ((endSession s.brg.session).run s.absenceReported).brg.remotes = [] := by
    rw [brg_of_node hnode, absenceReported_brg]
    exact hr
  have hrun : declareAbsent.run s = (if s.localRole = 2 then haltAll else
      Prog.when (s.boot.handedOver = true ∧ ((s.profile s.boot.running).map fun p =>
        p.chips == 2 && p.role == 1 && bitN p.flags 2 == 0).getD false = true) <| Prog.all [
          modBrg fun b => { b with fallbackDue := true },
          haltAll,
          fallbackStep]).run
      (revokeTokens.run ((endSession s.brg.session).run s.absenceReported)) := rfl
  rw [hrun, run_revokeTokens htokens]
  rcases hh with hh | hh
  · rw [if_pos hh, run_when_pos hh]
  · by_cases hrole : s.localRole = 2
    · rw [if_pos hrole, run_when_pos hrole]
    · rw [if_neg hrole, run_when_neg hrole, run_when_neg (by simp [hh])]

theorem haltAll_keeps_node : haltAll.Keeps State.node :=
  keepsNode_of_within (within_haltAll (partsLe_refl _)) rfl rfl

theorem declareAbsent_node (hr : s.brg.remotes = [])
    (hh : s.localRole = 2 ∨ s.boot.handedOver = false) :
    (declareAbsent.run s).node = s.absenceReported.node := by
  rw [run_declareAbsent hr hh]
  refine (keeps_when (fun _ => haltAll_keeps_node) _).trans ?_
  exact endSession_node _ absenceReported_exports

theorem declareAbsent_brg (hr : s.brg.remotes = [])
    (hh : s.localRole = 2 ∨ s.boot.handedOver = false) :
    (declareAbsent.run s).brg = s.brg.absent s.time :=
  (brg_of_node (declareAbsent_node hr hh)).trans absenceReported_brg

theorem declareAbsent_absentTick (hr : s.brg.remotes = [])
    (hh : s.localRole = 2 ∨ s.boot.handedOver = false) :
    (declareAbsent.run s).rd R.BRG_ABSENT_TICK = s.lamp.tick % 2 ^ 32 := by
  rw [rd_of_node (by decide) ((declareAbsent_node hr hh).trans absenceReported_node),
    rd_setReg_self, Nat.mod_mod]

theorem declareAbsent_ctrl (hr : s.brg.remotes = [])
    (hh : s.localRole = 2 ∨ s.boot.handedOver = false) :
    (declareAbsent.run s).rd R.BRG_CTRL = s.rd R.BRG_CTRL := by
  rw [rd_of_node (by decide) ((declareAbsent_node hr hh).trans absenceReported_node),
    rd_setReg_words (by decide)]
  rfl

/-! ### Queues halted -/

/-- Number of queues that the wardens hold. -/
def State.queueCount (s : State) : Nat := s.wrd.queues.length

theorem queueCount_of_within {W : List Part} {p : Prog} (hp : p.Within W)
    (h : coveredBy W .wrd = false) : p.Keeps State.queueCount :=
  fun s => congrArg (fun w : Wrd => w.queues.length) (hp s .wrd h)

theorem notifyWardens_keeps_queueCount : notifyWardens.Keeps State.queueCount := fun s => by
  simp [State.queueCount, notifyWardens]

theorem putCrossing_keeps_queueCount {n : Nat} {c : Crossing} :
    (putCrossing n c).Keeps State.queueCount :=
  queueCount_of_within (within_putCrossing (partsLe_refl _)) rfl

theorem checkCrossing_keeps_queueCount {n : Nat} : (checkCrossing n).Keeps State.queueCount :=
  keeps_look fun _ => keeps_when fun _ =>
    keeps_all_cons (queueCount_of_within (raise_within _ _ _ _ _ _) rfl) <|
    keeps_all_cons (queueCount_of_within (setF_within _ _ _ _) rfl) <|
    keeps_all_cons (queueCount_of_within (setF_within _ _ _ _) rfl) <|
    keeps_all_cons
      (keeps_ite putCrossing_keeps_queueCount <|
        keeps_ite putCrossing_keeps_queueCount <|
        keeps_ite
          (keeps_seq (queueCount_of_within (within_freeMutexRecord (partsLe_refl _)) rfl)
            putCrossing_keeps_queueCount)
          putCrossing_keeps_queueCount) <|
    keeps_all_cons notifyWardens_keeps_queueCount keeps_all_nil

theorem changeCounter_keeps_queueCount {n v : Nat} {failed set : Bool} :
    (changeCounter n v failed set).Keeps State.queueCount :=
  keeps_look fun _ =>
    keeps_all_cons putCrossing_keeps_queueCount <|
    keeps_all_cons notifyWardens_keeps_queueCount <|
    keeps_all_cons (queueCount_of_within (within_exportSignal (partsLe_refl _)) rfl) keeps_all_nil

theorem deviceEvent_keeps_queueCount {n : Nat} {failed : Bool} :
    (deviceEvent n failed).Keeps State.queueCount :=
  keeps_all_cons checkCrossing_keeps_queueCount <|
  keeps_all_cons (queueCount_of_within (W := [.xng]) (within_modXng rfl) rfl) <|
  keeps_all_cons (keeps_look fun _ => changeCounter_keeps_queueCount) keeps_all_nil

theorem breakImports_keeps_queueCount : breakImports.Keeps State.queueCount :=
  keeps_seq (queueCount_of_within (W := raiseAny)
    (within_usePair rfl (by decide +kernel) (by decide +kernel)) rfl) <|
  keeps_look fun _ => keeps_when fun _ => keeps_seq
    (keeps_each fun _ => keeps_look fun _ => keeps_when fun _ => putCrossing_keeps_queueCount)
    notifyWardens_keeps_queueCount

theorem absenceReported_queueCount : s.absenceReported.queueCount = s.queueCount := by
  simp [State.absenceReported, State.queueCount]

theorem endSession_keeps_queueCount {session : Bool} :
    (endSession session).Keeps State.queueCount :=
  keeps_seq (keeps_when fun _ => deviceEvent_keeps_queueCount) breakImports_keeps_queueCount

theorem queue_modQueue_self {q : Nat} (hq : q < s.queueCount) (f : Queue → Queue) :
    ((modQueue q f).run s).queue q = f (s.queue q) := by
  have hq' : q < s.wrd.queues.length := hq
  simp [State.queue, modQueue, nth, upd, hq']

theorem queue_modQueue_other {q r : Nat} (h : r ≠ q) (f : Queue → Queue) :
    ((modQueue q f).run s).queue r = s.queue r := by
  simp [State.queue, modQueue, nth, upd, List.getElem?_set_ne h.symm]

/-- Halting a queue closes it (R181). -/
theorem haltQueue_closed {q : Nat} (hq : q < s.queueCount) :
    (((haltQueue q).run s).queue q).state ≠ 1 := by
  rw [haltQueue, run_look, Prog.when]
  split
  · rw [queue_modQueue_self hq]
    dsimp only
    split <;> decide
  · assumption

/-- Halting a queue opens no other. -/
theorem haltQueue_preserves_closed (q r : Nat) :
    (haltQueue q).Preserves fun s => (s.queue r).state ≠ 1 := by
  intro s h
  rw [haltQueue, run_look, Prog.when]
  split
  next hopen =>
    rw [queue_modQueue_other (by rintro rfl; exact h hopen)]
    exact h
  · exact h

theorem haltQueue_keeps_queueCount (q : Nat) : (haltQueue q).Keeps State.queueCount := by
  intro s
  rw [haltQueue, run_look, Prog.when]
  split
  · simp [State.queueCount, modQueue, upd]
  · rfl

theorem each_haltQueue_closed (l : List Nat) {q : Nat} (hl : q ∈ l) (hq : q < s.queueCount) :
    (((Prog.each l haltQueue).run s).queue q).state ≠ 1 := by
  induction l generalizing s with
  | nil => cases hl
  | cons x xs ih =>
    rw [run_each_cons]
    rcases List.mem_cons.mp hl with rfl | hl
    · exact preserves_each (fun x => haltQueue_preserves_closed x q) _ (haltQueue_closed hq)
    · exact ih hl ((haltQueue_keeps_queueCount x s).symm ▸ hq)

/-- A secondary that has declared its primary absent runs no queue (R426). -/
theorem declareAbsent_closed (hr : s.brg.remotes = []) (hrole : s.localRole = 2) {q : Nat}
    (hq : q < 16) (hcount : s.queueCount = 16) : ((declareAbsent.run s).queue q).state ≠ 1 := by
  rw [run_declareAbsent hr (.inl hrole), run_when_pos hrole]
  refine each_haltQueue_closed (upTo 16) (List.mem_range.mpr hq) ?_
  rwa [endSession_keeps_queueCount, absenceReported_queueCount, hcount]

end Sys2Proof.Machine
end

section
/-! PROOFS. A Bridge token that is revoked (R419): nothing that follows the failure of its stop
takes its lease record again or adds a remote access. -/

set_option Elab.async false

namespace Sys2Proof.Machine

variable {s : State} {i : Nat}

/-- The token of open-stop slot `i` is free, and the slot has no remote access outstanding. -/
def State.tokenFree (i : Nat) (s : State) : Prop :=
  (∀ e ∈ s.leases, e.1 ≠ 192 + i) ∧ ∀ r ∈ s.brg.remotes, r.slot ≠ i

theorem keyGet_eq_none {α : Type} {l : List (Nat × α)} {k : Nat} (h : ∀ e ∈ l, e.1 ≠ k) :
    keyGet l k = none := by
  induction l with
  | nil => rfl
  | cons e t ih =>
    obtain ⟨x, v⟩ := e
    have hx : k ≠ x := (h _ List.mem_cons_self).symm
    rw [keyGet, if_neg hx, ih fun e he => h e (List.mem_cons_of_mem _ he), ite_self]

/-! ### Acts on leases and on the remote accesses -/

theorem tokenFree_of_within {W : List Part} {p : Prog} (hp : p.Within W)
    (hl : coveredBy W .leases = false) (hb : coveredBy W .brg = false) :
    p.Preserves (State.tokenFree i) := by
  rintro s ⟨hlease, hremote⟩
  have hleases : (p.run s).leases = s.leases := hp s .leases hl
  have hbrg : (p.run s).brg = s.brg := hp s .brg hb
  exact ⟨hleases ▸ hlease, hbrg ▸ hremote⟩

/-- Of the Bridge node only the remote accesses matter, and fewer of them do no harm. -/
theorem modBrg_tokenFree {f : Brg → Brg} (hf : ∀ b, (f b).remotes ⊆ b.remotes) :
    (modBrg f).Preserves (State.tokenFree i) :=
  fun _ ⟨hlease, hremote⟩ => ⟨hlease, fun r hr => hremote r (hf _ hr)⟩

theorem freeLease_tokenFree (n : Nat) : (freeLease n).Preserves (State.tokenFree i) :=
  fun _ ⟨hlease, hremote⟩ => ⟨fun e he => hlease e (mem_keyDel he), hremote⟩

/-- Record numbers from 192 on are those of the Bridge tokens (Table 16-6). -/
theorem takeLease_tokenFree {n kind ownerKind owner resource term : Nat} (hn : n < 192) :
    (takeLease n kind ownerKind owner resource term).Preserves (State.tokenFree i) := by
  rintro s ⟨hlease, hremote⟩
  refine ⟨fun e he => ?_, hremote⟩
  simp only [takeLease, run_look, run_act, Act.apply, if_pos (show n < 256 by omega)] at he
  rcases mem_keyPut he with rfl | he
  · exact fun h => by omega
  · exact hlease e he

theorem freeMutexRecord_tokenFree (n : Nat) :
    (freeMutexRecord n).Preserves (State.tokenFree i) :=
  preserves_look fun _ => by
    split
    · exact preserves_skip
    · exact freeLease_tokenFree _

/-! ### Region locks that a stand held -/

theorem takeLock_tokenFree {n base pages mode : Nat} {holder : Holder} (hn : n < 192) :
    (takeLock n base pages mode holder).Preserves (State.tokenFree i) :=
  preserves_look fun _ => preserves_seq
    (tokenFree_of_within (W := [.ave]) (within_modAve rfl) rfl rfl) <| by
    cases holder with
    | queue q => exact takeLease_tokenFree hn
    | unit u =>
      exact preserves_seq (tokenFree_of_within (W := .allRegs :: raiseAny)
        (within_usePair_all (by decide +kernel) (by decide +kernel)) rfl rfl)
        (takeLease_tokenFree hn)
    | loader => exact takeLease_tokenFree hn

theorem freeLock_tokenFree {n : Nat} (hn : n < 192) :
    (freeLock n).Preserves (State.tokenFree i) :=
  preserves_all_cons (tokenFree_of_within (W := [.ave]) (within_modAve rfl) rfl rfl) <|
  preserves_all_cons (freeLease_tokenFree n) <|
  preserves_all_cons (preserves_look fun _ => by
    split
    · exact preserves_skip
    · exact preserves_seq (tokenFree_of_within (W := [.ave]) (within_modAve rfl) rfl rfl)
        (takeLock_tokenFree hn))
  preserves_all_nil

theorem lockEntries_lt {who : Holder} {base pages n : Nat}
    (h : n ∈ s.lockEntries who base pages) : n < 64 :=
  List.mem_range.mp (List.mem_filter.mp (List.mem_filter.mp h).1).1

theorem releaseLock_tokenFree (who : Holder) (base pages : Nat) :
    (releaseLock who base pages).Preserves (State.tokenFree i) :=
  preserves_look fun s => by
    split
    next n rest hentries =>
      have hn : n < 64 := lockEntries_lt (hentries ▸ List.mem_cons_self)
      exact freeLock_tokenFree (by omega)
    · exact tokenFree_of_within (W := [.ave]) (within_modAve rfl) rfl rfl

theorem releaseStands_tokenFree (t : Nat) : (releaseStands t).Preserves (State.tokenFree i) :=
  preserves_look fun _ => preserves_seq
    (preserves_each fun _ => preserves_look fun _ => releaseLock_tokenFree _ _ _)
    (tokenFree_of_within (within_modTrack (partsLe_refl _)) rfl rfl)

/-! ### The units of the stop -/

theorem dropUnitWork_tokenFree (j : Nat) : (dropUnitWork j).Preserves (State.tokenFree i) :=
  preserves_all_cons (tokenFree_of_within (W := [.ras]) (within_modRas rfl) rfl rfl) <|
  preserves_all_cons (tokenFree_of_within (W := [.rbt]) (within_modRbt rfl) rfl rfl) <|
  preserves_all_cons (tokenFree_of_within (W := [.dst]) (within_modDst rfl) rfl rfl) <|
  preserves_all_cons (modBrg_tokenFree fun _ => List.filter_sublist.subset) <|
  preserves_all_cons (freeLease_tokenFree _) <|
  preserves_all_cons (preserves_each fun _ => releaseStands_tokenFree _)
  preserves_all_nil

/-- Unit numbers of Table 16-8 that a resource class can name. -/
theorem unitsOfClass_lt {kind mask u : Nat} (h : u ∈ unitsOfClass kind mask) : u < 128 := by
  have hbits : ∀ m ∈ (upTo 16).filter fun k => bitN mask k == 1, m < 16 := fun m hm =>
    List.mem_range.mp (List.mem_filter.mp hm).1
  simp only [unitsOfClass] at h
  split at h
  · obtain ⟨m, hm, rfl⟩ := List.mem_map.mp h
    have := hbits m hm
    unfold unitTile
    omega
  · split at h
    · obtain ⟨m, hm, rfl⟩ := List.mem_map.mp h
      have := hbits m (List.mem_filter.mp hm).1
      unfold unitDst
      omega
    · split at h
      · split at h
        · rw [List.mem_singleton.mp h]
          unfold unitVis
          omega
        · cases h
      · split at h
        · split at h
          · rw [List.mem_singleton.mp h]
            decide
          · cases h
        · cases h

theorem freeUnits_lt {st : Stop} {u : Nat} (h : u ∈ s.freeUnits st) : u < 128 :=
  unitsOfClass_lt (List.mem_filter.mp h).1

theorem regainCores_tokenFree (j : Nat) : (regainCores j).Preserves (State.tokenFree i) :=
  preserves_look fun s => by
    split
    · exact preserves_skip
    next o _ =>
      refine preserves_when ?_
      refine preserves_all_cons (preserves_when
        (tokenFree_of_within (within_requestPlls (partsLe_refl _)) rfl rfl)) ?_
      refine preserves_all_cons (preserves_each_mem fun u hu => ?_) ?_
      · have := freeUnits_lt (List.mem_of_mem_take hu)
        exact takeLease_tokenFree (by omega)
      · exact preserves_all_cons (tokenFree_of_within (within_modSlot (partsLe_refl _)) rfl rfl) <|
          preserves_all_cons (preserves_each fun _ =>
            tokenFree_of_within (within_resumeCore (partsLe_refl _)) rfl rfl) preserves_all_nil

theorem releaseUnits_tokenFree (j : Nat) : (releaseUnits j).Preserves (State.tokenFree i) :=
  preserves_look fun s => by
    split
    · exact preserves_skip
    · exact preserves_all_cons (preserves_each fun _ => freeLease_tokenFree _) <|
        preserves_all_cons (dropUnitWork_tokenFree j) <|
        preserves_all_cons (tokenFree_of_within (within_modSlot (partsLe_refl _)) rfl rfl) <|
        preserves_all_cons (preserves_each fun _ => regainCores_tokenFree _) <|
        preserves_all_cons (tokenFree_of_within (within_startCalibrations (partsLe_refl _)) rfl rfl)
        preserves_all_nil

/-! ### Crossings and signals -/

theorem putCrossing_tokenFree (n : Nat) (c : Crossing) :
    (putCrossing n c).Preserves (State.tokenFree i) :=
  tokenFree_of_within (within_putCrossing (partsLe_refl _)) rfl rfl

theorem notifyWardens_tokenFree : notifyWardens.Preserves (State.tokenFree i) :=
  tokenFree_of_within (within_notifyWardens (partsLe_refl _)) rfl rfl

theorem raise_tokenFree (code unit detail queue tag status : Nat) :
    (raise code unit detail queue tag status).Preserves (State.tokenFree i) :=
  tokenFree_of_within (raise_within _ _ _ _ _ _) rfl rfl

theorem setF_tokenFree (f : Field) (v j k : Nat) :
    (setF f v j k).Preserves (State.tokenFree i) :=
  tokenFree_of_within (setF_within _ _ _ _) rfl rfl

theorem setReg_tokenFree (r : Reg) (v j k : Nat) :
    (setReg r v j k).Preserves (State.tokenFree i) :=
  tokenFree_of_within (setReg_within _ _ _ _) rfl rfl

theorem refuseSignal_tokenFree (n code : Nat) :
    (refuseSignal n code).Preserves (State.tokenFree i) :=
  tokenFree_of_within (within_refuseSignal (partsLe_refl _)) rfl rfl

theorem checkCrossing_tokenFree (n : Nat) : (checkCrossing n).Preserves (State.tokenFree i) :=
  preserves_look fun _ => preserves_when <|
    preserves_all_cons (raise_tokenFree _ _ _ _ _ _) <|
    preserves_all_cons (setF_tokenFree _ _ _ _) <|
    preserves_all_cons (setF_tokenFree _ _ _ _) <|
    preserves_all_cons
      (preserves_ite (putCrossing_tokenFree _ _) <|
        preserves_ite (putCrossing_tokenFree _ _) <|
        preserves_ite
          (preserves_seq (freeMutexRecord_tokenFree n) (putCrossing_tokenFree _ _))
          (putCrossing_tokenFree _ _)) <|
    preserves_all_cons notifyWardens_tokenFree preserves_all_nil

theorem sendPkt_tokenFree (p : Pkt) : (sendPkt p).Preserves (State.tokenFree i) :=
  modBrg_tokenFree fun b _ hr => enqueue_remotes b p ▸ hr

theorem exportSignal_tokenFree (n v : Nat) (failed : Bool) :
    (exportSignal n v failed).Preserves (State.tokenFree i) :=
  preserves_seq
    (tokenFree_of_within (W := raiseAny)
      (within_useRegs (partsLe_refl _) (by decide +kernel) (by decide +kernel)) rfl rfl) <|
  preserves_look fun _ => by
    split
    · exact preserves_skip
    · exact preserves_when (sendPkt_tokenFree _)

theorem changeCounter_tokenFree (n v : Nat) (failed set : Bool) :
    (changeCounter n v failed set).Preserves (State.tokenFree i) :=
  preserves_look fun _ =>
    preserves_all_cons (putCrossing_tokenFree _ _) <|
    preserves_all_cons notifyWardens_tokenFree <|
    preserves_all_cons (exportSignal_tokenFree _ _ _) preserves_all_nil

theorem deviceEvent_tokenFree (n : Nat) (failed : Bool) :
    (deviceEvent n failed).Preserves (State.tokenFree i) :=
  preserves_all_cons (checkCrossing_tokenFree n) <|
  preserves_all_cons (tokenFree_of_within (W := [.xng]) (within_modXng rfl) rfl rfl) <|
  preserves_all_cons (preserves_look fun _ => changeCounter_tokenFree _ _ _ _) preserves_all_nil

theorem signalCounter_tokenFree (n operand : Nat) (set failed : Bool) :
    (signalCounter n operand set failed).Preserves (State.tokenFree i) :=
  preserves_ite (refuseSignal_tokenFree _ _) <|
  preserves_seq (checkCrossing_tokenFree n) <| preserves_look fun _ =>
    preserves_ite (refuseSignal_tokenFree _ _) <|
    preserves_ite preserves_skip (changeCounter_tokenFree _ _ _ _)

theorem signalRelease_tokenFree (n q : Nat) :
    (signalRelease n q).Preserves (State.tokenFree i) :=
  preserves_ite (refuseSignal_tokenFree _ _) <|
  preserves_seq (checkCrossing_tokenFree n) <| preserves_look fun _ =>
    preserves_ite (refuseSignal_tokenFree _ _) <|
    preserves_ite preserves_skip <|
    preserves_ite
      (preserves_all_cons (freeMutexRecord_tokenFree n) <|
        preserves_all_cons (putCrossing_tokenFree _ _) <|
        preserves_all_cons notifyWardens_tokenFree preserves_all_nil)
      (preserves_seq (setF_tokenFree _ _ _ _) (raise_tokenFree _ _ _ _ _ _))

theorem performSignal_tokenFree (sig : Slot) (q : Nat) (failed : Bool) :
    (performSignal sig q failed).Preserves (State.tokenFree i) :=
  preserves_ite preserves_skip <|
  preserves_ite (signalCounter_tokenFree _ _ _ _) <|
  preserves_ite (signalCounter_tokenFree _ _ _ _) <|
  preserves_ite (signalRelease_tokenFree _ _) <|
  preserves_ite (refuseSignal_tokenFree _ _) (refuseSignal_tokenFree _ _)

theorem slotSignal_tokenFree (j k : Nat) (g : Slot) (q : Nat) (failed : Bool) :
    (slotSignal j k g q failed).Preserves (State.tokenFree i) :=
  preserves_look fun _ => preserves_when <| preserves_seq (performSignal_tokenFree _ _ _)
    (tokenFree_of_within (within_modSlot (partsLe_refl _)) rfl rfl)

theorem failSignals_tokenFree (j : Nat) (st : Stop) :
    (failSignals j st).Preserves (State.tokenFree i) :=
  preserves_seq (preserves_each fun _ => slotSignal_tokenFree _ _ _ _ _)
    (preserves_each fun _ => slotSignal_tokenFree _ _ _ _ _)

/-! ### What follows the end of a stop -/

theorem bumpGeneration_tokenFree (a : Nat) :
    (bumpGeneration a).Preserves (State.tokenFree i) :=
  tokenFree_of_within (within_bumpGeneration (partsLe_refl _)) rfl rfl

theorem settleInvalidations_tokenFree : settleInvalidations.Preserves (State.tokenFree i) :=
  preserves_look fun _ =>
    preserves_all_cons (tokenFree_of_within (W := [.xlt]) (within_modXlt rfl) rfl rfl) <|
    preserves_all_cons (preserves_each bumpGeneration_tokenFree) <|
    preserves_all_cons (preserves_each fun _ => preserves_look fun _ => preserves_when <|
      preserves_all_cons (setReg_tokenFree _ _ _ _) <|
      preserves_all_cons (setF_tokenFree _ _ _ _) <|
      preserves_all_cons (deviceEvent_tokenFree _ _) preserves_all_nil)
    preserves_all_nil

theorem updateShadow_tokenFree (q : Nat) : (updateShadow q).Preserves (State.tokenFree i) :=
  tokenFree_of_within (within_updateShadow (partsLe_refl _)) rfl rfl

theorem freeRunList_tokenFree (st : Stop) : (freeRunList st).Preserves (State.tokenFree i) :=
  tokenFree_of_within (within_freeRunList (partsLe_refl _)) rfl rfl

theorem fallbackStep_tokenFree : fallbackStep.Preserves (State.tokenFree i) := by
  have hdone : (modBrg fun b => { b with fallbackDue := false }).Preserves (State.tokenFree i) :=
    modBrg_tokenFree fun _ => List.Subset.refl _
  refine preserves_look fun _ => preserves_when ?_
  split
  · exact hdone
  · split
    · exact hdone
    · exact preserves_all_cons (preserves_each freeRunList_tokenFree) <|
        preserves_all_cons (tokenFree_of_within (W := [.xlt]) (within_modXlt rfl) rfl rfl) <|
        preserves_all_cons (tokenFree_of_within (W := [.wrd]) (within_modWrd rfl) rfl rfl) <|
        preserves_all_cons (preserves_each updateShadow_tokenFree) <|
        preserves_all_cons hdone <|
        preserves_all_cons (tokenFree_of_within (W := [.boot]) (within_modBoot rfl) rfl rfl) <|
        preserves_all_cons (preserves_when (raise_tokenFree _ _ _ _ _ _)) <|
        preserves_all_cons
          (tokenFree_of_within (within_selectRouteSection (partsLe_refl _)) rfl rfl) <|
        preserves_all_cons (tokenFree_of_within (within_startRoute (partsLe_refl _)) rfl rfl) <|
        preserves_all_cons settleInvalidations_tokenFree preserves_all_nil

theorem afterStop_tokenFree (q : Nat) : (afterStop q).Preserves (State.tokenFree i) :=
  preserves_all_cons (tokenFree_of_within (within_settleQueue (partsLe_refl _)) rfl rfl) <|
  preserves_all_cons settleInvalidations_tokenFree <|
  preserves_all_cons fallbackStep_tokenFree <|
  preserves_all_cons (tokenFree_of_within (within_parkWithdrawn (partsLe_refl _)) rfl rfl)
  preserves_all_nil

theorem failStop_tokenFree (j code : Nat) : (failStop j code).Preserves (State.tokenFree i) :=
  preserves_look fun _ => by
    split
    · exact preserves_skip
    · exact preserves_all_cons
          (tokenFree_of_within (within_poisonOutputs (partsLe_refl _)) rfl rfl) <|
        preserves_all_cons (releaseUnits_tokenFree j) <|
        preserves_all_cons (failSignals_tokenFree _ _) <|
        preserves_all_cons (tokenFree_of_within (within_recordFail (partsLe_refl _)) rfl rfl) <|
        preserves_all_cons (freeRunList_tokenFree _) <|
        preserves_all_cons (tokenFree_of_within (within_setSlot (partsLe_refl _)) rfl rfl) <|
        preserves_all_cons (updateShadow_tokenFree _) <|
        preserves_all_cons (preserves_when
          (tokenFree_of_within (within_modQueue (partsLe_refl _)) rfl rfl)) <|
        preserves_all_cons (preserves_when
          (tokenFree_of_within (within_haltQueue (partsLe_refl _)) rfl rfl)) <|
        preserves_all_cons (afterStop_tokenFree _) preserves_all_nil

/-- A revoked token is free, and the slot's remote accesses are dropped (R419). -/
theorem revokeToken_tokenFree (i : Nat) (s : State) :
    ((revokeToken i).run s).tokenFree i := by
  have hfreed : ((freeLease (192 + i)).run ((modBrg fun b =>
      { b with remotes := b.remotes.filter fun r => r.slot != i }).run s)).tokenFree i := by
    refine ⟨fun e he => ?_, fun r hr => ?_⟩
    · exact of_decide_eq_true (List.mem_filter.mp he).2
    · exact bne_iff_ne.mp (List.mem_filter.mp hr).2
  rw [revokeToken, run_all_cons, run_all_cons, run_all_cons, run_all_cons, run_all_nil]
  exact failStop_tokenFree i 9 _ (raise_tokenFree _ _ _ _ _ _ _ hfreed)

end Sys2Proof.Machine
end

section
/-! PROOFS. HELLO on the Bridge link (chapter 14, R412 to R414): how a partner is refused, and how a
session with it begins. -/

set_option Elab.async false

namespace Sys2Proof.Machine

variable {s : State} {d : Side}

/-! ### What changes the Bridge node alone -/

theorem onlyChanges_brg (s : State) (b : Brg) : s.onlyChanges [.brg] { s with brg := b } :=
  onlyChanges_of_within (W := [.brg]) (p := modBrg fun _ => b) (within_modBrg rfl) s

/-! ### HELLO (R413, R414) -/

/-- The state in which a HELLO has been noted and is to be checked. -/
def State.helloNoted (s : State) (role : Nat) (booting : Bool) (build : Nat) : State :=
  (setReg R.BRG_PARTNER_BUILD_HI (build / 2 ^ 32 % 2 ^ 32)).run
    ((setReg R.BRG_PARTNER_BUILD_LO (build % 2 ^ 32)).run
      { s with brg := { s.brg with partnerRole := role % 4, partnerBooting := booting } })

theorem exec_bridgeHello (hl : s.brg.link = 2 ∨ s.brg.link = 6) (hd : s.brg.dead = false)
    (part role : Nat) (booting : Bool) (build epoch : Nat) :
    exec (.bridgeHello part role booting build epoch) s
      = .next ((checkHello part role booting build epoch).run
          (s.helloNoted role booting build)) := by
  have hexec : exec (.bridgeHello part role booting build epoch) s
      = execBridgeHello part role booting build epoch s := by rfl
  rw [hexec, execBridgeHello, run_when_pos ⟨hl, hd⟩]
  rfl

section hello
variable {role : Nat} {booting : Bool} {build : Nat}

theorem helloNoted_brg : (s.helloNoted role booting build).brg
    = { s.brg with partnerRole := role % 4, partnerBooting := booting } := by
  simp [State.helloNoted]

theorem helloNoted_boot : (s.helloNoted role booting build).boot = s.boot := by
  simp [State.helloNoted]

theorem helloNoted_nextSeq : (s.helloNoted role booting build).nextSeq = s.nextSeq := by
  simp [State.helloNoted]

theorem helloNoted_buildLo :
    (s.helloNoted role booting build).rd R.BRG_PARTNER_BUILD_LO = build % 2 ^ 32 := by
  rw [State.helloNoted, rd_setReg_words (by decide), rd_setReg_self, Nat.mod_mod]

theorem helloNoted_localRole : (s.helloNoted role booting build).localRole = s.localRole := by
  have hrole : (s.helloNoted role booting build).fld F.SYS_STATE_ROLE = s.fld F.SYS_STATE_ROLE := by
    refine fld_congr ?_
    rw [State.helloNoted, rd_setReg_words (by decide), rd_setReg_words (by decide)]
    rfl
  rw [State.localRole, State.localRole, helloNoted_boot, hrole]

theorem helloNoted_xsigEn :
    (s.helloNoted role booting build).flag F.BRG_XSIG_EN = s.flag F.BRG_XSIG_EN := by
  refine congrArg (· != 0) (fld_congr ?_)
  rw [State.helloNoted, rd_setReg_words (by decide), rd_setReg_words (by decide)]
  rfl

end hello

/-- The Bridge node that refuses its partner, with the reasons BRG_STATUS shows. -/
def Brg.refusing (b : Brg) (part same build : Bool) : Brg :=
  { b with link := 6, partDiff := part, sameRole := same, buildDiff := build }

section refused
variable {part same build : Bool} {u : State}

theorem run_refuseHello : (refuseHello part same build).run u
    = (raise 0x700B unitBrg).run { u with brg := u.brg.refusing part same build } := by
  rw [refuseHello, run_seq, run_modBrg]
  rfl

theorem refuseHello_node : ((refuseHello part same build).run u).node
    = { u with brg := u.brg.refusing part same build }.node := by
  rw [run_refuseHello, raise_keeps_node]

theorem refuseHello_brg :
    ((refuseHello part same build).run u).brg = u.brg.refusing part same build :=
  brg_of_node refuseHello_node

theorem refuseHello_reports (h : u.nextSeq = s.nextSeq) :
    s.reports ((refuseHello part same build).run u) 0x700B unitBrg := by
  rw [run_refuseHello]
  exact reports_after h

end refused

/-- The roles of the two chips are those of a pair. -/
def State.pairsWith (s : State) (role : Nat) : Bool :=
  (s.localRole == 1 && role == 2) || (s.localRole == 2 && role == 1)

theorem checkHello_of_unpaired {part role : Nat} {u : State}
    (h : part ≠ 0x480 ∨ u.pairsWith role = false) (booting : Bool) (build epoch : Nat) :
    (checkHello part role booting build epoch).run u
      = (refuseHello (part != 0x480) (!u.pairsWith role) false).run u := by
  rw [checkHello, run_look]
  exact congrArg (fun p : Prog => p.run u) (if_pos h)

/-- A primary that boots from its own flash compares the builds. -/
theorem checkHello_of_paired {u : State} (hboot : u.boot.overBridge = false)
    (hrole : u.localRole = 1) (build epoch : Nat) :
    (checkHello 0x480 2 false build epoch).run u = (if build = u.boot.buildId then Prog.all [
        modBrg fun b => { b with partDiff := false, sameRole := false, buildDiff := false },
        newSession,
        takeEpoch epoch,
        enterUp,
        loaderProgress]
      else refuseHello false false true).run u := by
  simp [checkHello, hboot, hrole]

theorem hello_otherPart (hl : s.brg.link = 2 ∨ s.brg.link = 6) (hd : s.brg.dead = false)
    {part : Nat} (hp : part ≠ 0x480) (role : Nat) (booting : Bool) (n e : Nat) :
    ∃ t, exec (.bridgeHello part role booting n e) s = .next t ∧ t.brg.link = 6
      ∧ t.brg.partDiff = true ∧ t.brg.partnerRole = role % 4 ∧ s.reports t 0x700B unitBrg
      ∧ t.rd R.BRG_PARTNER_BUILD_LO = n % 2 ^ 32 := by
  refine ⟨_, exec_bridgeHello hl hd .., ?_⟩
  rw [checkHello_of_unpaired (.inl hp)]
  refine ⟨?_, ?_, ?_, refuseHello_reports helloNoted_nextSeq, ?_⟩
  · rw [refuseHello_brg]
    rfl
  · rw [refuseHello_brg]
    exact bne_iff_ne.mpr hp
  · rw [refuseHello_brg, helloNoted_brg]
    rfl
  · rw [rd_of_node (q := R.BRG_PARTNER_BUILD_LO) (by decide) refuseHello_node]
    exact helloNoted_buildLo

theorem hello_sameRole (hl : s.brg.link = 2 ∨ s.brg.link = 6) (hd : s.brg.dead = false)
    {role : Nat} (hr : s.localRole = role) (booting : Bool) (n e : Nat) :
    ∃ t, exec (.bridgeHello 0x480 role booting n e) s = .next t ∧ t.brg.link = 6
      ∧ t.brg.sameRole = true ∧ s.reports t 0x700B unitBrg := by
  have hpair : (s.helloNoted role booting n).pairsWith role = false := by
    rw [State.pairsWith, helloNoted_localRole, hr, Bool.or_eq_false_iff]
    simp only [Bool.and_eq_false_iff, beq_eq_false_iff_ne]
    omega
  refine ⟨_, exec_bridgeHello hl hd .., ?_⟩
  rw [checkHello_of_unpaired (.inr hpair)]
  refine ⟨?_, ?_, refuseHello_reports helloNoted_nextSeq⟩
  · rw [refuseHello_brg]
    rfl
  · rw [refuseHello_brg, hpair]
    rfl

theorem hello_otherBuild (hl : s.brg.link = 2 ∨ s.brg.link = 6) (hd : s.brg.dead = false)
    (hboot : s.boot.overBridge = false) (hrole : s.localRole = 1) {n : Nat}
    (hn : n ≠ s.boot.buildId) (e : Nat) :
    ∃ t, exec (.bridgeHello 0x480 2 false n e) s = .next t ∧ t.brg.link = 6
      ∧ t.brg.buildDiff = true ∧ t.brg.sameRole = false ∧ s.reports t 0x700B unitBrg := by
  refine ⟨_, exec_bridgeHello hl hd .., ?_⟩
  rw [checkHello_of_paired (by rwa [helloNoted_boot]) (by rwa [helloNoted_localRole]),
    helloNoted_boot, if_neg hn]
  refine ⟨?_, ?_, ?_, refuseHello_reports helloNoted_nextSeq⟩ <;> rw [refuseHello_brg] <;> rfl

/-! ### A session begins (R412) -/

/-- The Bridge node at the start of a session. -/
def Brg.newSession (b : Brg) : Brg :=
  { b with txSeq := 0, rxSeq := 0, credits := 64, creditsOwed := 0, nakSent := false,
           episodes := 0, unacked := [], queue := [] }

theorem newSession_node (h : s.brg.remotes = []) :
    (newSession.run s).node = { s with brg := s.brg.newSession }.node := by
  have himports : (breakImports.run { s with brg := s.brg.newSession }).node
      = { s with brg := s.brg.newSession }.node := breakImports_keeps_node _
  have hremotes : (breakImports.run { s with brg := s.brg.newSession }).brg.remotes = [] := by
    rw [brg_of_node himports]
    exact h
  have hrun : newSession.run s
      = revokeTokens.run (breakImports.run { s with brg := s.brg.newSession }) := rfl
  rw [hrun, run_revokeTokens hremotes, himports]

theorem takeEpoch_keeps_node (epoch : Nat) : (takeEpoch epoch).Keeps State.node :=
  keepsNode_of_within (within_takeEpoch (partsLe_refl _)) rfl rfl

theorem xsigEn_brg (b : Brg) :
    State.flag { s with brg := b } F.BRG_XSIG_EN = s.flag F.BRG_XSIG_EN := rfl

/-- Entering UP while no crossing is exported only sets the link's state. -/
theorem enterUp_brg (h : s.flag F.BRG_XSIG_EN = false) :
    (enterUp.run s).brg = { s.brg with link := 4 } := by
  have hquiet : State.exports { s with brg := { s.brg with link := 4 } } = false := by
    rw [State.exports, xsigEn_brg, h, Bool.and_false]
  exact brg_of_node (deviceEvent_node hquiet 15 false)

/-- A chip that meets its partner in UP has a new session. -/
theorem meet_brg (hr : s.brg.remotes = []) (hx : s.flag F.BRG_XSIG_EN = false) (e : Nat) :
    (enterUp.run ((takeEpoch e).run (newSession.run s))).brg
      = { s.brg.newSession with link := 4 } := by
  have hsession := (takeEpoch_keeps_node e _).trans (newSession_node hr)
  rw [enterUp_brg ((xsigEn_of_node hsession).trans hx), brg_of_node hsession]

theorem hello_newSession (hl : s.brg.link = 2 ∨ s.brg.link = 6) (hd : s.brg.dead = false)
    (hboot : s.boot.overBridge = false) (hrole : s.localRole = 1) (hr : s.brg.remotes = [])
    (hx : s.flag F.BRG_XSIG_EN = false) (e : Nat) :
    ∃ t, exec (.bridgeHello 0x480 2 false s.boot.buildId e) s = .next t
      ∧ (State.loaderGoesOn fun u =>
        u.brg.link = 4 ∧ u.brg.txSeq = 0 ∧ u.brg.rxSeq = 0 ∧ u.brg.credits = 64
          ∧ u.brg.unacked = [] ∧ u.brg.partnerRole = 2) t := by
  have hnoted := helloNoted_brg (s := s) (role := 2) (booting := false) (build := s.boot.buildId)
  have hen := helloNoted_xsigEn (s := s) (role := 2) (booting := false) (build := s.boot.buildId)
  refine ⟨_, exec_bridgeHello hl hd .., ?_⟩
  rw [checkHello_of_paired (by rwa [helloNoted_boot]) (by rwa [helloNoted_localRole]),
    helloNoted_boot, if_pos rfl]
  generalize s.helloNoted 2 false s.boot.buildId = v at hnoted hen ⊢
  simp only [run_all_cons, run_all_nil, run_modBrg]
  refine ⟨_, ?_, rfl⟩
  dsimp only
  rw [meet_brg, act_brg_brg, hnoted]
  · exact ⟨rfl, rfl, rfl, rfl, rfl, rfl⟩
  · rw [act_brg_brg, hnoted]
    exact hr
  · exact hen.trans hx

end Sys2Proof.Machine
end

section
/-! PROOFS. The states of the Bridge link (chapter 14, Table 14-6): flits, training, the absence of the
partner, discards and replays, the restart of a stranded secondary, and O58. -/

set_option Elab.async false

namespace Sys2Proof.Machine

variable {s : State} {d : Side}

/-! ### Flits in a session (R411) -/

theorem idle_sideband (hs : s.brg.session = true) (hq : s.brg.queue = []) (hn : d.nak = false) :
    ∃ t, exec (.bridgeIdle d) s = .next t
      ∧ t.brg.credits = min 64 (s.brg.credits + d.credit % 64)
      ∧ (d.ackv = false → t.brg.unacked = s.brg.unacked)
      ∧ (d.ackv = true → t.brg.unacked = s.brg.unacked.filter fun e => !ackCovers d.ack e)
      ∧ s.onlyChanges [.brg] t := by
  have hexec : exec (.bridgeIdle d) s = execBridgeIdle d s := by rfl
  refine ⟨{ s with brg := s.brg.afterSide d }, ?_, rfl, fun ha => ?_, fun ha => ?_,
    onlyChanges_brg s _⟩
  · rw [hexec, execBridgeIdle, run_when_pos hs, outcome_eq, run_takeSide_plain hq hn]
  · simp [Brg.afterSide, ha]
  · simp [Brg.afterSide, ha]

/-- A HEART's own contents are not kept (the model's choice 107). -/
theorem heart_sideband (hs : s.brg.session = true) (hq : s.brg.queue = []) (hn : d.nak = false) :
    ∃ t, exec (.bridgeHeart d) s = .next t
      ∧ t.brg.credits = min 64 (s.brg.credits + d.credit % 64) ∧ s.onlyChanges [.brg] t := by
  have hexec : exec (.bridgeHeart d) s = execBridgeHeart d s := by rfl
  refine ⟨{ s with brg := s.brg.afterSide d }, ?_, rfl, onlyChanges_brg s _⟩
  rw [hexec, execBridgeHeart, run_when_pos hs, outcome_eq, run_takeSide_plain hq hn]

theorem helloSend_sent (hl : s.brg.link = 2 ∨ s.brg.link = 6) :
    ∃ t, exec .bridgeHelloSend s = .next t ∧ t.brg.sent.getLast? = some s.helloPkt
      ∧ t.brg.queue = s.brg.queue ∧ s.onlyChanges [.brg] t := by
  have hexec : exec .bridgeHelloSend s = execBridgeHelloSend s := by rfl
  refine ⟨(sendFree s.helloPkt).run s, ?_, getLast?_noteSent _ _, rfl,
    onlyChanges_of_within (within_sendFree (partsLe_refl _)) s⟩
  rw [hexec, execBridgeHelloSend, run_when_pos hl, outcome_eq]

theorem heartSend_sent (hs : s.brg.session = true) :
    ∃ t, exec .bridgeHeartSend s = .next t ∧ t.brg.sent.getLast? = some s.heartPkt
      ∧ t.brg.txSeq = s.brg.txSeq ∧ s.onlyChanges [.brg] t := by
  have hexec : exec .bridgeHeartSend s = execBridgeHeartSend s := by rfl
  refine ⟨(sendFree s.heartPkt).run s, ?_, getLast?_noteSent _ _, rfl,
    onlyChanges_of_within (within_sendFree (partsLe_refl _)) s⟩
  rw [hexec, execBridgeHeartSend, run_when_pos hs, outcome_eq]

/-! ### Training (Table 14-6, R415) -/

section training
variable (hl : s.brg.link = 1) (hd : s.brg.dead = false)
  (hpll : bitN (s.fld F.SYS_PLL_STATUS_LOCK) 8 = 1)
include hl hd hpll

/-- Training ends in HELLO, on two lanes or, with a fault message, on one. -/
theorem exec_bridgeTrainDone {two one : Bool}
    (hone : (!two || s.flag F.BRG_CTRL_ONE_LANE_ONLY) = one) :
    exec (.bridgeTrainDone two) s = .next ((Prog.when (one = true) (raise 0x7003 unitBrg)).run
      { s with brg := { s.brg with link := 2, oneLane := one } }) := by
  have hexec : exec (.bridgeTrainDone two) s = execBridgeTrainDone two s := by rfl
  rw [hexec, execBridgeTrainDone]
  dsimp only
  rw [run_when_pos ⟨hl, hd, hpll⟩, hone]
  rfl

theorem trainDone_twoLanes (hone : s.flag F.BRG_CTRL_ONE_LANE_ONLY = false) :
    ∃ t, exec (.bridgeTrainDone true) s = .next t
      ∧ t = { s with brg := { s.brg with link := 2, oneLane := false } } :=
  ⟨_, exec_bridgeTrainDone hl hd hpll hone, rfl⟩

/-- One lane at the end of training raises 0x7003 (the model's choice 105). -/
theorem trainDone_oneLane :
    ∃ t, exec (.bridgeTrainDone false) s = .next t ∧ t.brg.link = 2 ∧ t.brg.oneLane = true
      ∧ s.reports t 0x7003 unitBrg := by
  refine ⟨_, exec_bridgeTrainDone (one := true) hl hd hpll rfl, ?_⟩
  rw [run_when_pos rfl, raise_brg]
  exact ⟨rfl, rfl, reports_after rfl⟩

end training

theorem trainTimeout_again (hl : s.brg.link = 1) : ∃ t, exec .bridgeTrainTimeout s = .next t
    ∧ t = { s with brg := { s.brg with oneLane := false } } := by
  have hexec : exec .bridgeTrainTimeout s = execBridgeTrainTimeout s := by rfl
  refine ⟨_, ?_, rfl⟩
  rw [hexec, execBridgeTrainTimeout, run_when_pos hl]
  rfl

/-! ### Retraining (R410, R415) -/

theorem enterRetrain_brg (hl : s.brg.link = 3 ∨ s.brg.link = 4) :
    (enterRetrain.run s).brg = { s.brg with retrainFrom := s.brg.link, link := 5 } := by
  rw [enterRetrain, run_look, run_when_pos hl, run_seq, raiseSecond_brg]
  rfl

theorem laneLockLoss_retrains {n : Nat} (hn : n < 2) (hl : s.brg.link = 3 ∨ s.brg.link = 4) :
    ∃ t, exec (.bridgeLaneLockLoss n) s = .next t
      ∧ t.brg = { s.brg with link := 5, retrainFrom := s.brg.link,
                             lanesLost := s.brg.lanesLost ++ [n] } := by
  have hexec : exec (.bridgeLaneLockLoss n) s = execBridgeLaneLockLoss n s := by rfl
  refine ⟨enterRetrain.run { s with brg := { s.brg with lanesLost := s.brg.lanesLost ++ [n] } },
    ?_, enterRetrain_brg hl⟩
  rw [hexec, execBridgeLaneLockLoss, run_when_pos ⟨hn, hl⟩]
  rfl

/-- The Bridge node out of RETRAIN, in the state it came from. -/
def Brg.retrained (b : Brg) (lost : Bool) : Brg :=
  { b with link := b.retrainFrom, lanesLost := [], oneLane := b.oneLane || lost, episodes := 0 }

theorem exec_bridgeRetrainDone (hl : s.brg.link = 5) (hq : s.brg.queue = []) {lane0 lane1 : Bool}
    (hlanes : (lane0 || lane1) = true) :
    exec (.bridgeRetrainDone lane0 lane1) s = .next ((Prog.when
      ((!(lane0 && lane1)) = true ∧ s.brg.oneLane = false) (raise 0x7003 unitBrg)).run
        { s with brg := s.brg.retrained (!(lane0 && lane1)) }) := by
  have hexec : exec (.bridgeRetrainDone lane0 lane1) s
    = execBridgeRetrainDone lane0 lane1 s := by rfl
  have hpump : ∀ n lost, (s.brg.retrained lost).pump n = s.brg.retrained lost :=
    fun n lost => pump_of_queue_nil (b := s.brg.retrained lost) hq n
  rw [hexec, execBridgeRetrainDone, run_when_pos ⟨hl, hlanes⟩, outcome_eq, run_seq]
  congr 2
  exact congrArg (fun b => { s with brg := b }) (hpump _ _)

theorem retrainDone_bothLanes (hl : s.brg.link = 5) (hq : s.brg.queue = []) :
    ∃ t, exec (.bridgeRetrainDone true true) s = .next t ∧ t = { s with brg := { s.brg with
      link := s.brg.retrainFrom, lanesLost := [], episodes := 0 } } := by
  refine ⟨_, exec_bridgeRetrainDone hl hq rfl, ?_⟩
  rw [run_when_neg (by simp), run_skip]
  simp [Brg.retrained]

theorem retrainDone_laneDropped (hl : s.brg.link = 5) (hq : s.brg.queue = []) :
    ∃ t, exec (.bridgeRetrainDone false true) s = .next t ∧ t.brg.link = s.brg.retrainFrom
      ∧ t.brg.oneLane = true ∧ (s.brg.oneLane = false → s.reports t 0x7003 unitBrg) := by
  refine ⟨_, exec_bridgeRetrainDone hl hq rfl, ?_⟩
  have hbrg : ∀ (c : Prop) [Decidable c] (u : State),
      ((Prog.when c (raise 0x7003 unitBrg)).run u).brg = u.brg := fun c _ u =>
    keeps_when (π := State.brg) (fun _ u => raise_brg u ..) u
  refine ⟨?_, ?_, fun hone => ?_⟩
  · rw [hbrg]
    rfl
  · rw [hbrg]
    exact Bool.or_true _
  · rw [run_when_pos ⟨rfl, hone⟩]
    exact reports_after rfl

/-! ### The absence of the partner (R414, R426, R460) -/

theorem partnerTimeout_primary (hs : s.brg.session = true)
    (hh : s.boot.handedOver = false) (hr : s.brg.remotes = []) :
    ∃ t, exec .bridgePartnerTimeout s = .next t ∧ t.brg.link = 7 ∧ t.brg.unacked = []
      ∧ t.brg.queue = [] ∧ t.brg.absentAt = s.time
      ∧ t.rd R.BRG_ABSENT_TICK = s.lamp.tick % 2 ^ 32 := by
  have hexec : exec .bridgePartnerTimeout s = execBridgePartnerTimeout s := by rfl
  have hbrg := declareAbsent_brg hr (.inr hh)
  refine ⟨declareAbsent.run s, ?_, ?_, ?_, ?_, ?_, declareAbsent_absentTick hr (.inr hh)⟩
  · rw [hexec, execBridgePartnerTimeout, run_when_pos hs, outcome_eq]
  all_goals
    rw [hbrg]
    rfl

theorem partnerTimeout_secondary (hs : s.brg.session = true) (hrole : s.localRole = 2)
    (hr : s.brg.remotes = []) (hcount : s.wrd.queues.length = 16) :
    ∃ t, exec .bridgePartnerTimeout s = .next t ∧ t.brg.link = 7
      ∧ ∀ q, q < 16 → (t.queue q).state ≠ 1 := by
  have hexec : exec .bridgePartnerTimeout s = execBridgePartnerTimeout s := by rfl
  refine ⟨declareAbsent.run s, ?_, ?_, fun q hq => declareAbsent_closed hr hrole hq hcount⟩
  · rw [hexec, execBridgePartnerTimeout, run_when_pos hs, outcome_eq]
  · rw [declareAbsent_brg hr (.inl hrole)]
    rfl

/-- The word that BRIDGE_DISABLE commits has EN clear. -/
theorem bits_disabled (v : Nat) : bits (setBits v 0 0 0) 0 0 = 0 := bits_setBits v 0 0 0

theorem disable_idle (hlive : s.live = true) (ho : s.ident.order = .qt2)
    (hl : s.brg.link = 0 ∨ s.brg.link = 7) :
    ∃ t, exec .bridgeDisable s = .next t ∧ t.fld F.BRG_CTRL_EN = 0
      ∧ s.onlyChanges [.regs 0x70] t := by
  have hexec : exec .bridgeDisable s = execBridgeDisable s := by rfl
  refine ⟨(setReg R.BRG_CTRL (setBits (s.rd R.BRG_CTRL) 0 0 0)).run s, ?_, ?_,
    onlyChanges_of_within (within_setReg rfl (by decide +kernel)) s⟩
  · rw [hexec, execBridgeDisable, run_when_pos hlive, brgCtrlCommit, outcome_eq, run_look,
      run_when_pos ho, run_seq, run_when_neg (by omega), run_skip]
  · exact (fld_setReg_self s F.BRG_CTRL_EN rfl _ 0 0).trans (bits_disabled _)

theorem disable_absent (hlive : s.live = true) (ho : s.ident.order = .qt2)
    (h0 : s.brg.link ≠ 0) (h7 : s.brg.link ≠ 7) (hh : s.boot.handedOver = false)
    (hr : s.brg.remotes = []) (hen : s.flag F.BRG_CTRL_EN = true) :
    ∃ t, exec .bridgeDisable s = .next t ∧ t.fld F.BRG_CTRL_EN = 0 ∧ t.brg.link = 7 := by
  have hexec : exec .bridgeDisable s = execBridgeDisable s := by rfl
  have hbit : bitN (setBits (s.rd R.BRG_CTRL) 0 0 0) 0 = 0 := bitN_setBits _ 0 0
  have hr' : ((setReg R.BRG_CTRL (setBits (s.rd R.BRG_CTRL) 0 0 0)).run s).brg.remotes = [] := by
    rwa [setReg_brg]
  have hh' : ((setReg R.BRG_CTRL (setBits (s.rd R.BRG_CTRL) 0 0 0)).run s).boot.handedOver
      = false := by
    rwa [setReg_boot]
  refine ⟨declareAbsent.run ((setReg R.BRG_CTRL (setBits (s.rd R.BRG_CTRL) 0 0 0)).run s),
    ?_, ?_, ?_⟩
  · rw [hexec, execBridgeDisable, run_when_pos hlive, brgCtrlCommit, outcome_eq, run_look,
      run_when_pos ho, run_seq, run_when_pos ⟨hen, hbit, h0, h7⟩]
  · rw [fld_congr (f := F.BRG_CTRL_EN) (declareAbsent_ctrl hr' (.inr hh'))]
    exact (fld_setReg_self s F.BRG_CTRL_EN rfl _ 0 0).trans (bits_disabled _)
  · rw [declareAbsent_brg hr' (.inr hh')]
    rfl

/-! ### Discards and replays (R409, R410) -/

/-- The Bridge node after it has sent its replay buffer again. -/
def Brg.replayed (b : Brg) : Brg :=
  { b with
    sent := b.unacked.foldl (fun l e => noteSent l e.2) b.sent
    episodes := b.episodes + 1 }

/-- The state in which a replay has been counted and reported. -/
def State.replayReported (s : State) : State :=
  (raiseSecond 0x7001 unitBrg).run
    ((bump F.BRG_REPLAY_COUNT_COUNT).run { s with brg := s.brg.replayed })

theorem replayReported_brg : s.replayReported.brg = s.brg.replayed := by
  rw [State.replayReported, raiseSecond_brg, bump_brg]

theorem replayReported_count : s.replayReported.fld F.BRG_REPLAY_COUNT_COUNT
    = min F.BRG_REPLAY_COUNT_COUNT.max (s.fld F.BRG_REPLAY_COUNT_COUNT + 1) := by
  have hword : s.replayReported.rd R.BRG_REPLAY_COUNT
      = ((bump F.BRG_REPLAY_COUNT_COUNT).run { s with brg := s.brg.replayed }).rd
          R.BRG_REPLAY_COUNT :=
    rd_of_node (by decide) (raiseSecond_keeps_node _ _ _ _ _)
  exact (fld_congr (f := F.BRG_REPLAY_COUNT_COUNT) hword).trans (fld_bump_self _ _ rfl 1 0 0)

/-- Eight replays in a row retrain the link. -/
theorem run_replayFlits (hs : s.brg.session = true) (hu : s.brg.unacked ≠ []) :
    replayFlits.run s
      = (Prog.when (8 ≤ s.brg.episodes + 1) enterRetrain).run s.replayReported := by
  have hepisodes : s.replayReported.brg.episodes = s.brg.episodes + 1 := by
    rw [replayReported_brg]
    rfl
  have hrun : replayFlits.run s
      = (Prog.when (8 ≤ s.replayReported.brg.episodes) enterRetrain).run s.replayReported := by
    rw [replayFlits, run_look, run_when_pos ⟨hs, hu⟩]
    rfl
  rw [hrun, hepisodes]

theorem run_replayFlits_few (hs : s.brg.session = true) (hu : s.brg.unacked ≠ [])
    (he : s.brg.episodes < 7) : replayFlits.run s = s.replayReported := by
  rw [run_replayFlits hs hu, run_when_neg (by omega), run_skip]

theorem nak_replays (hs : s.brg.session = true) (hq : s.brg.queue = []) (ha : d.ackv = false)
    (hu : s.brg.unacked ≠ []) (he : s.brg.episodes < 7) :
    ∃ t, exec (.bridgeNak d) s = .next t ∧ t.brg.episodes = s.brg.episodes + 1
      ∧ t.brg.link = s.brg.link ∧ t.brg.unacked = s.brg.unacked
      ∧ t.fld F.BRG_REPLAY_COUNT_COUNT
        = min F.BRG_REPLAY_COUNT_COUNT.max (s.fld F.BRG_REPLAY_COUNT_COUNT + 1) := by
  have hexec : exec (.bridgeNak d) s = execBridgeNak d s := by rfl
  have hside : s.brg.afterSide { d with nak := true }
      = { s.brg with credits := min 64 (s.brg.credits + d.credit % 64) } :=
    afterSide_of_not_ackv ha
  refine ⟨State.replayReported { s with
      brg := { s.brg with credits := min 64 (s.brg.credits + d.credit % 64) } }, ?_, ?_, ?_, ?_,
    replayReported_count⟩
  · rw [hexec, execBridgeNak, run_when_pos hs, outcome_eq, run_takeSide hq, hside,
      run_when_pos rfl, run_replayFlits_few]
    · exact hs
    · exact hu
    · exact he
  all_goals
    rw [replayReported_brg]
    rfl

theorem replayTimeout_replays (hs : s.brg.session = true) (hu : s.brg.unacked ≠ [])
    (he : s.brg.episodes < 7) (hl : s.brg.link ≠ 5) :
    ∃ t, exec .bridgeReplayTimeout s = .next t ∧ t.brg.episodes = s.brg.episodes + 1
      ∧ t.brg.unacked = s.brg.unacked
      ∧ t.brg.sent.getLast? = (s.brg.unacked.map fun e => e.2).getLast? := by
  have hexec : exec .bridgeReplayTimeout s = execBridgeReplayTimeout s := by rfl
  have hlink : s.brg.link = 3 ∨ s.brg.link = 4 := by
    simp only [Brg.session, Bool.or_eq_true, beq_iff_eq] at hs
    omega
  refine ⟨s.replayReported, ?_, ?_⟩
  · rw [hexec, execBridgeReplayTimeout, run_when_pos hlink, outcome_eq,
      run_replayFlits_few hs hu he]
  · rw [replayReported_brg]
    exact ⟨rfl, rfl, getLast?_foldl_noteSent _ _ hu⟩

theorem replayTimeout_retrains (hl : s.brg.link = 4) (hu : s.brg.unacked ≠ [])
    (he : s.brg.episodes = 7) :
    ∃ t, exec .bridgeReplayTimeout s = .next t ∧ t.brg.link = 5 ∧ t.brg.retrainFrom = 4 := by
  have hexec : exec .bridgeReplayTimeout s = execBridgeReplayTimeout s := by rfl
  have hs : s.brg.session = true := by simp [Brg.session, hl]
  have hlink : s.replayReported.brg.link = 4 := by
    rw [replayReported_brg]
    exact hl
  refine ⟨enterRetrain.run s.replayReported, ?_, ?_⟩
  · rw [hexec, execBridgeReplayTimeout, run_when_pos (.inr hl), outcome_eq,
      run_replayFlits hs hu, run_when_pos (by omega)]
  · rw [enterRetrain_brg (.inr hlink)]
    exact ⟨rfl, hlink⟩

theorem flitDiscard_nak (hs : s.brg.session = true) (hn : s.brg.nakSent = false) :
    ∃ t, exec .bridgeFlitDiscard s = .next t ∧ t.brg.nakSent = true ∧ t.brg.side.nak = true
      ∧ t.brg.side.ack = (s.brg.rxSeq + 255) % 256 ∧ s.onlyChanges [.brg] t := by
  have hexec : exec .bridgeFlitDiscard s = execBridgeFlitDiscard s := by rfl
  refine ⟨discardFlit.run s, by rw [hexec]; rfl, ?_⟩
  have honly : s.onlyChanges [.brg] (discardFlit.run s) :=
    onlyChanges_of_within (within_discardFlit (partsLe_refl _)) s
  have hrun : discardFlit.run s = (sendFree ⟨0, 0, 0, 0, 0, []⟩ true).run
      { s with brg := { s.brg with nakSent := true } } := by
    rw [discardFlit, run_look, run_when_pos ⟨hs, hn⟩]
    rfl
  refine ⟨?_, ?_, ?_, honly⟩ <;> rw [hrun] <;> rfl

theorem flitDiscard_again (hn : s.brg.nakSent = true) :
    ∃ t, exec .bridgeFlitDiscard s = .next t ∧ t = s := by
  have hexec : exec .bridgeFlitDiscard s = execBridgeFlitDiscard s := by rfl
  refine ⟨s, ?_, rfl⟩
  rw [hexec, execBridgeFlitDiscard, discardFlit, outcome_eq, run_look,
    run_when_neg (by simp [hn]), run_skip]

/-- An idle link with its credits can carry a response at once. -/
theorem canSend_accepted {n : Nat} (hi : s.linkIdle 4 d) (p : Pkt) (hp : isResponse p.typ = true)
    (hdata : p.data = []) : (s.brg.accepted d n).canSend p = true := by
  obtain ⟨hlink, _, hunacked, hcredits, _, _⟩ := hi
  simp [Brg.canSend, Brg.accepted, Brg.afterSide, Brg.unackedFlits, Pkt.flits, hlink, hunacked,
    hcredits, hp, hdata]

theorem malformedWrite_answered (hi : s.linkIdle 4 d) (n tag : Nat) :
    ∃ t, exec (.bridgeMalformedPacket d true n 3 tag) s = .next t
      ∧ t.brg.sent.getLast? = some ⟨4, tag % 256, 0, 7, 0, []⟩
      ∧ t.brg.rxSeq = (s.brg.rxSeq + max 1 n) % 256 := by
  have hexec : exec (.bridgeMalformedPacket d true n 3 tag) s
      = .next ((receive d (max 1 n) (malformedPacket 3 tag)).run s) := by rfl
  have hs : s.brg.session = true := by simp [Brg.session, hi.1]
  have hq : (s.brg.accepted d (max 1 n)).queue = [] := hi.2.1
  refine ⟨_, hexec, ?_⟩
  have hbrg : ((receive d (max 1 n) (malformedPacket 3 tag)).run s).brg
      = (s.brg.accepted d (max 1 n)).transmit ⟨4, tag % 256, 0, 7, 0, []⟩ := by
    rw [run_receive_inOrder hi hs, malformedPacket, run_seq, if_pos rfl, sendWack, sendPkt,
      run_modBrg, act_brg_brg, malformed, raiseSecond_brg]
    exact enqueue_of_canSend hq (canSend_accepted hi _ rfl rfl)
  rw [hbrg]
  exact ⟨getLast?_noteSent _ _, rfl⟩

/-! ### Waits and resets (R425, R427, R430) -/

/-- The wait's end fixes the FALLBACK route for the whole start (the model's choice 107). -/
theorem waitExpire_reported {p : Profile} (hp : s.profile s.boot.choosing = some p)
    (h5 : s.boot.phase = 5) (hw : s.brg.waitOver = false) (hready : s.partnerReady p = false) :
    ∃ t, exec .bridgeWaitExpire s = .next t ∧ ∃ u, u.brg.waitOver = true
      ∧ s.reports u 0x7004 unitBrg ∧ u.boot = s.boot ∧ t = handOverWhenReady.run u := by
  have hexec : exec .bridgeWaitExpire s = execBridgeWaitExpire s := by rfl
  refine ⟨handOverWhenReady.run ((modBrg fun b => { b with waitOver := true }).run
    ((raise 0x7004 unitBrg).run s)), ?_, _, ?_, ?_, ?_, rfl⟩
  · rw [hexec, execBridgeWaitExpire, hp]
    dsimp only
    rw [run_when_pos ⟨h5, hw, hready⟩, outcome_eq, run_all_cons, run_all_cons, run_all_cons,
      run_all_nil]
  · rw [run_modBrg, act_brg_brg]
  · exact reports_of_ring (raise_reports s 0x7004 unitBrg 0 0xFF 0 0xFF)
      (by rw [run_modBrg, act_brg_ring])
  · rw [run_modBrg, act_brg_boot, raise_boot]

theorem run_warmReset (hlive : s.live = true) (cause : Nat) :
    (warmReset cause).run s = (logicSideReset cause).run s := by
  have hreset : s.resettable = true := by
    simp only [State.live, Bool.or_eq_true] at hlive
    simp only [State.resettable, Bool.or_eq_true]
    tauto
  rw [warmReset, run_look, run_when_pos hreset]

theorem followReset_restarts (hsound : s.Sound) (hlive : s.live = true) (hrole : s.localRole = 2)
    (hl : s.brg.link = 7) (hf : s.flag F.BRG_CTRL_FOLLOW = true) :
    ∃ t, exec .followResetTimer s = .next t ∧ s.restarted t causeBridge := by
  have hexec : exec .followResetTimer s = execFollowResetTimer s := by rfl
  refine ⟨_, ?_, logicSideReset_restarted hsound (by decide)⟩
  rw [hexec, execFollowResetTimer, run_when_pos ⟨hrole, hl, hf⟩, outcome_eq, run_warmReset hlive]

theorem tokenExpire_revokes {i : Nat} (hi : i < 64)
    (ht : (keyGet s.leases (192 + i)).isSome = true) :
    ∃ t, exec (.bridgeTokenExpire i) s = .next t
      ∧ keyGet t.leases (192 + i) = none ∧ ∀ r ∈ t.brg.remotes, r.slot ≠ i := by
  have hexec : exec (.bridgeTokenExpire i) s = execBridgeTokenExpire i s := by rfl
  obtain ⟨hlease, hremotes⟩ := revokeToken_tokenFree i s
  refine ⟨(revokeToken i).run s, ?_, keyGet_eq_none hlease, hremotes⟩
  rw [hexec, execBridgeTokenExpire, run_when_pos ⟨hi, ht⟩, outcome_eq]

/-- The state in which the wake logic has seen the rising edge of BRG_WAKE. -/
def State.wakeRaised (s : State) : State :=
  (modWake 2 fun f => { f with raw := true, since := s.lamp.tick, porArmed := false }).run s

/-- R430: each rising edge of BRG_WAKE restarts a secondary in service wait after its Bridge boot
wait. -/
theorem wakeEdge_restarts (hsound : s.Sound) (hlive : s.live = true) (ho : s.ident.order = .qt2)
    (h8 : s.boot.phase = 8) (hb : s.boot.overBridge = true) (hraw : (s.wakeFilter 2).raw = false) :
    ∃ t, exec (.wakeInputEdge 2 true) s = .next t ∧ s.restarted t causeBridge := by
  have hexec : exec (.wakeInputEdge 2 true) s = execWakeInputEdge 2 true s := by rfl
  have hsource : s.wakeSource 2 = true := by simp [State.wakeSource, ho]
  have hraised : s.wakeRaised.restarted ((logicSideReset causeBridge).run s.wakeRaised)
      causeBridge := logicSideReset_restarted (run_sound _ hsound) (by decide)
  have hlive' : s.wakeRaised.live = true := hlive
  refine ⟨(logicSideReset causeBridge).run s.wakeRaised, ?_, hraised⟩
  rw [hexec, execWakeInputEdge, run_when_pos ⟨hsource, by simp [hraw]⟩, outcome_eq, run_all_cons,
    run_all_cons, run_all_cons, run_all_nil, run_when_neg (show ¬ (2 : Nat) = 0 by decide),
    run_skip,
    run_when_pos (show (2 : Nat) = 2 ∧ true = true ∧ _ ∧ _ from ⟨rfl, rfl, h8, hb⟩),
    ← run_warmReset hlive']
  rfl

/-! ### The obligation -/

/-- Settles O58, event by event: each clause is one of the theorems on the link's events. -/
theorem bridgeLinkStates : Obligations.BridgeLinkStates := by
  refine ⟨fun s part role b n e hl hd => ⟨fun hp => hello_otherPart hl hd hp role b n e,
      fun hr => hello_sameRole hl hd hr b n e,
      fun hboot hrole hn => hello_otherBuild hl hd hboot hrole hn e,
      fun hboot hrole hr hx => hello_newSession hl hd hboot hrole hr hx e⟩,
    fun s d hs hq hn => ⟨idle_sideband hs hq hn, heart_sideband hs hq hn⟩,
    fun s hl => helloSend_sent hl,
    fun s hs => heartSend_sent hs,
    fun s hl hd hpll => ⟨trainDone_twoLanes hl hd hpll, trainDone_oneLane hl hd hpll⟩,
    fun s hl => trainTimeout_again hl,
    fun s n hn hl => laneLockLoss_retrains hn hl,
    fun s hl hq => ⟨retrainDone_bothLanes hl hq, retrainDone_laneDropped hl hq⟩,
    fun s hs _ hh hr => partnerTimeout_primary hs hh hr,
    fun s hs hrole hr hcount => partnerTimeout_secondary hs hrole hr hcount,
    fun s d hs hq ha hu he => ⟨nak_replays hs hq ha hu he, replayTimeout_replays hs hu he⟩,
    fun s hl hu he => replayTimeout_retrains hl hu he,
    fun s hs => ⟨flitDiscard_nak hs, flitDiscard_again⟩,
    fun s d n tag hi => malformedWrite_answered hi n tag,
    fun s p hp h5 hw hready => waitExpire_reported hp h5 hw hready,
    fun s hsound hlive hrole hl hf => followReset_restarts hsound hlive hrole hl hf,
    fun s hlive ho hl => disable_idle hlive ho hl,
    fun s hlive ho h0 h7 _ hh hr hen => disable_absent hlive ho h0 h7 hh hr hen,
    fun s i hi ht => tokenExpire_revokes hi ht,
    fun s hsound hlive ho h8 hb hraw => wakeEdge_restarts hsound hlive ho h8 hb hraw⟩

end Sys2Proof.Machine
end

section
/-! PROOFS. A step of the device (chapter 00): what it does with the queue of commands, that it keeps
a sound state sound, and O1 to O3. -/

set_option Elab.async false

namespace Sys2Proof.Machine

variable {s t : State}

/-! ### Every command is a micro-program -/

/-- Whatever its operands and the state, a command's meaning is the run of some micro-program: no
command stops the device. -/
theorem exec_eq_run (c : Instr) (s : State) : ∃ p : Prog, exec c s = .next (p.run s) := by
  cases c <;> exact ⟨_, rfl⟩

theorem exec_sound {c : Instr} (hs : s.Sound) (ht : exec c s = .next t) : t.Sound := by
  obtain ⟨p, hp⟩ := exec_eq_run c s
  rw [hp, Host.Outcome.next.injEq] at ht
  exact ht ▸ run_sound p hs

/-! ### The two kinds of step -/

theorem step_cons (s : State) (c : Instr) (l : List Instr) :
    step { s with pending := c :: l } = exec c { s with pending := l } := rfl

theorem step_nil (hp : s.pending = []) : step s = .next s.advance := by
  simp [step, hp]

theorem step_of_pending {c : Instr} {l : List Instr} (hp : s.pending = c :: l) :
    step s = exec c { s with pending := l } := by
  simp [step, hp]

/-- Neither the queue of commands nor the time bears on soundness. -/
theorem sound_pending (hs : s.Sound) (l : List Instr) : State.Sound { s with pending := l } :=
  sound_congr hs (fun id => by cases id <;> rfl) rfl rfl rfl rfl

theorem advance_of_off (h : s.lamp.power = .off) : s.advance = { s with time := s.time + 1 } :=
  if_pos h

theorem advance_of_on (h : s.lamp.power ≠ .off) : s.advance = { s with
    time := s.time + 1
    phase := (s.phase + lampHz) % refHz
    lamp := s.lamp.advance s.lampDue } :=
  if_neg h

theorem advance_sound (hs : s.Sound) : s.advance.Sound := by
  by_cases h : s.lamp.power = .off
  · rw [advance_of_off h]
    exact sound_congr hs (fun id => by cases id <;> rfl) rfl rfl rfl rfl
  · rw [advance_of_on h]
    exact sound_congr hs (fun id => by cases id <;> rfl) rfl rfl rfl rfl

/-- Out of OFF the lamplight domain alone counts the tick. -/
theorem advance_same (h : s.lamp.power ≠ .off) {p : Part} (hp : p ≠ .lamp) :
    p.same s s.advance := by
  rw [advance_of_on h]
  cases p with
  | lamp => exact absurd rfl hp
  | mem id => cases id <;> rfl
  | regs b => exact fun _ _ => rfl
  | ring => exact ⟨rfl, rfl⟩
  | allRegs => trivial
  | _ => rfl

/-- Settles O1: the two equations of `step`, and what a tick changes. -/
theorem stepRunsFrontCommandOrPassesTime : Obligations.StepRunsFrontCommandOrPassesTime := by
  refine ⟨step_cons, fun s hp hoff => ?_, fun s hp hon => ⟨s.advance, step_nil hp, ?_⟩⟩
  · rw [step_nil hp, advance_of_off hoff]
  · refine ⟨?_, ?_, ?_, fun p => advance_same hon⟩ <;> rw [advance_of_on hon]
    · rfl
    · simp [Lamp.advance, State.lampDue, lampHz, refHz]

/-! ### The state after reset -/

theorem reset_sound : State.reset.Sound where
  mems id := by cases id <;> decide
  keys := ⟨by decide, by decide, by decide, by decide⟩
  words := by simp [State.wordsOk, State.reset]
  ring := by simp [State.ringFits, State.reset]

/-- With no word stored, every complement pair agrees at its reset word. -/
theorem rd_of_regs_nil (hr : s.regs = []) (r : Reg) (i j : Nat) :
    s.rd r i j = resetWord s.ident r (r.at i j) := by
  simp [State.rd, State.rawReg, hr, keyGet]

/-- Settles O2: the reset state, field by field. -/
theorem resetStateIsSound : Obligations.ResetStateIsSound :=
  ⟨reset_sound, rfl, rfl, rfl, rfl, rfl, rd_of_regs_nil rfl⟩

/-! ### Soundness is kept -/

/-- Settles O3: a command is a micro-program, whose acts keep soundness one by one; a tick changes
nothing that soundness speaks of. -/
theorem everyStepKeepsSoundness : Obligations.EveryStepKeepsSoundness := by
  intro s t hs ht
  cases hp : s.pending with
  | nil =>
    rw [step_nil hp, Host.Outcome.next.injEq] at ht
    exact ht ▸ advance_sound hs
  | cons c l =>
    rw [step_of_pending hp] at ht
    exact exec_sound (sound_pending hs l) ht

end Sys2Proof.Machine
end

section
/-! PROOFS. What each command may change (the table `mayChange`), and O4. -/

set_option Elab.async false

namespace Sys2Proof.Machine

/-- Settles O4: the rules of each block's commands (`keeps_…`, Laws/Keeps*.lean), one per command. -/
theorem everyCommandKeepsToItsParts : Obligations.EveryCommandKeepsToItsParts := by
  intro c s
  obtain ⟨calibrationPeriodExpire, calibrationGraceExpire, calibrationDone, sweepStep,
    sweepForceExpire, pageWrite, pageWriteDone⟩ := keeps_arrays_0
  obtain ⟨bridgeHello, bridgeIdle, bridgeHeart, bridgeHelloSend, bridgeHeartSend, bridgeTrainDone,
    bridgeTrainTimeout, bridgeLaneLockLoss⟩ := keeps_bridgeRows_0
  obtain ⟨bridgeRetrainDone, bridgePartnerTimeout, bridgeWrite, bridgeWack, bridgeRead,
    bridgeRdata, bridgeSignal, bridgeTokenExpire⟩ := keeps_bridgeRows_1
  obtain ⟨bridgeResetReq, resetPartner, bridgeImage, bridgeImageEnd, bridgeImageNak,
    bridgeImageDone, imageResendTimeout, bridgeNak⟩ := keeps_bridgeRows_2
  obtain ⟨bridgeReplayTimeout, bridgeFlitDiscard, bridgeMalformedPacket, bridgeWaitExpire,
    followResetTimer, bridgeDisable⟩ := keeps_bridgeRows_3
  obtain ⟨camStart, camStop, csiFrameStart, csiFrameEnd, csiLongPacket, csiIgnoredPacket,
    camFrameTimeout, camStaleTimeout⟩ := keeps_camera_0
  have csiPhyError := keeps_camera_1
  obtain ⟨mov, add, sub, mul, mad, lrp, min, max⟩ := keeps_combiner_0
  obtain ⟨clmp, dp2, dp3, dp4, rcp, rsq, exp2, log2⟩ := keeps_combiner_1
  obtain ⟨frc, flr, slt, sge, cmp, scs, tex, kil⟩ := keeps_combiner_2
  obtain ⟨computeAdd, computeSub, computeMul, computeMax, computeMin, computeRelu, computeCvt,
    computeBlend⟩ := keeps_compute_0
  obtain ⟨computeResample, computeNorm, computeSoftmax⟩ := keeps_compute_1
  obtain ⟨intakeMirror, changeJournalMirror, retirementMirror, flashOperationDone,
    mirrorOperationDone, flashCommandTimeout, canFrameReceived, gspSegmentTimeout⟩ :=
    keeps_gspRows_0
  obtain ⟨uartGapTimeout, uartMessageDiscard, spiWrite, spiRead, spiStatus, gspIdent, gspRegRead,
    gspRegWrite⟩ := keeps_gspRows_1
  obtain ⟨gspMemRead, gspMemWrite, gspConfigApply, gspConfigRead, gspFlashRead, gspFlashErase,
    gspFlashProgram, gspJournalRead⟩ := keeps_gspRows_2
  obtain ⟨gspRestart, gspOtpKey, gspOtpRevoke, gspIntakeEvent, gspResult, gspBadCmd,
    vehicleStationary, servicePortDisable⟩ := keeps_gspRows_3
  have hvStatus := keeps_hvStatus
  obtain ⟨killLineAssert, killLineRelease, rangeChange, rangeSettled, hvWrite, hvAck, hvHeartbeat,
    hvResync⟩ := keeps_highVoltage_0
  obtain ⟨hvAckTimeout, hvHeartbeatTimer, hvSideLinkLoss, safeHoldExpire, hvLinkLost,
    hvResyncTimer, hvFrameMismatch, vbatConversion⟩ := keeps_highVoltage_1
  obtain ⟨headroomUpdate, boostSoftStartDone, boostIdleStop, boostOvervoltage, boostNoRegulation,
    boostRestart, hvsClear, pwmPeriodStart⟩ := keeps_highVoltage_2
  obtain ⟨sinkOnTimeEnd, sinkZeroTimeout, ntcConversionStart, ntcConversionEnd, blOnDelayExpire⟩
    := keeps_highVoltage_3
  obtain ⟨porAssert, porRelease, x32CrystalLock, x32EdgeMissed, x32Fail, x32EdgeReturn,
    refStartTimeout, refCountFail⟩ := keeps_lamplight_0
  obtain ⟨pllLocked, sysPllLossOfLock, pllLossOfLock, wakeInputEdge, wakeFilterElapsed,
    timerAlarm, pwrGoodRise, pwrGoodTimeout⟩ := keeps_lamplight_1
  obtain ⟨wakingRetry, pwrReqRunning, pwrReqQuiet, pwrReqParked, ignOffDelayExpire, quietTimeout,
    parkDrainEnd, parkPowerOff⟩ := keeps_lamplight_2
  obtain ⟨latchedWakeStart, unitClockStarted, autoGateIdle, resetNAssert, resetNRelease,
    warmResetCommand, pwrGoodFall, retentionScrub⟩ := keeps_lamplight_3
  obtain ⟨thermalSample, thermalWakeHoldEnd⟩ := keeps_lamplight_4
  obtain ⟨selfTestDone, flashResetWaitEnd, imageVerify, configSectionCheck, configRegWrite,
    configProfile, configLoader, configDdr⟩ := keeps_loaderRows_0
  obtain ⟨configEnd, sectionLoaded, lpddrTrainingDone, startCalibrationDone, splashHoldElapsed,
    bridgeBootTimeout, lineStart, repairReadDone⟩ := keeps_loaderRows_1
  obtain ⟨plazaInitDone, patrolScrub, linkParityError, lpddrMr4Poll, poisonClear, xltInvalidate,
    xltRootCommit⟩ := keeps_memoryRows_0
  obtain ⟨arrayLayer, arrayPass⟩ := keeps_neural_0
  obtain ⟨frontEndPassTaken, rasterBinPhaseDone, rasterPass⟩ := keeps_raster_0
  obtain ⟨recoveryNext, recoveryWithdrawDone, unitCheckDone, faultMessage, faultInject,
    unitHeartbeat, unitLeaseExpire, queueLeaseExpire⟩ := keeps_recovery_0
  obtain ⟨reclaimerDivergence, detourHoldRelease, stopWatchdogExpire, granuleOverrun,
    granuleAbort⟩ := keeps_recovery_1
  obtain ⟨rwpValueWrite, rwpComplementWrite, rwpWordRead, registerWrite⟩ := keeps_regAccess_0
  obtain ⟨trackEnable, trackDisable, offer, generate, relocationCopyDone, gateIterationStart,
    gateBindSequence, gateWaitLimit⟩ := keeps_roundabout_0
  obtain ⟨gateBindIntake, compose⟩ := keeps_roundabout_1
  obtain ⟨modeChangeIdleEnd, outputEnable, outputDisable, displayModeChange, colourRangeChange,
    panelSequenceWaitEnd, teEdge, teBMissing⟩ := keeps_scanOut_0
  obtain ⟨teTimeout, freerunFrameStart, dsiTxGo⟩ := keeps_scanOut_1
  obtain ⟨i2cWrite, i2cExpect, wait, pinSet, pinWait, dsiCmd, scriptEnd, scriptTimeout⟩ :=
    keeps_scriptRows_0
  obtain ⟨scriptWaitElapsed, pinLevelReached, pinWaitTimeout, dsiLpPacketSent, i2cTransferDone,
    i2cRetryInterval, i2cStretchTimeout, i2cExpectRetryInterval⟩ := keeps_scriptRows_1
  have i2cXferStart := keeps_scriptRows_2
  obtain ⟨signpostStatusRepeat, iconEnable, sgnSramAccess⟩ := keeps_signpost_0
  obtain ⟨canDisable, canFrameTransmitted, canBusOff, canBusOffRecovery, canHoldoffEnd,
    canTxAbandon, canErrorPassive, signalStale⟩ := keeps_vehicle_0
  obtain ⟨warp, pyramid, motion, stats⟩ := keeps_vision_0
  obtain ⟨stopEnqueue, runListPoolRoom, stopDispatch, nop, startRoute, lock, unlock, copy⟩ :=
    keeps_wardens_0
  obtain ⟨fill, stopComplete, signalAdd, signalSet, signalRelease, xngSet, queueHalt, queueResume⟩
    := keeps_wardens_1
  obtain ⟨queueDrainExpire, granuleBoundary, wardenDivergence, wardenTakeover⟩ := keeps_wardens_2
  cases c with
  | porAssert => exact porAssert s
  | porRelease _ => exact porRelease _ s
  | x32CrystalLock => exact x32CrystalLock s
  | x32EdgeMissed => exact x32EdgeMissed s
  | x32Fail => exact x32Fail s
  | x32EdgeReturn => exact x32EdgeReturn s
  | refStartTimeout => exact refStartTimeout s
  | refCountFail => exact refCountFail s
  | pllLocked _ => exact pllLocked _ s
  | sysPllLossOfLock => exact sysPllLossOfLock s
  | pllLossOfLock _ => exact pllLossOfLock _ s
  | wakeInputEdge _ _ => exact wakeInputEdge _ _ s
  | wakeFilterElapsed _ => exact wakeFilterElapsed _ s
  | timerAlarm => exact timerAlarm s
  | pwrGoodRise _ => exact pwrGoodRise _ s
  | pwrGoodTimeout => exact pwrGoodTimeout s
  | selfTestDone _ _ => exact selfTestDone _ _ s
  | wakingRetry => exact wakingRetry s
  | pwrReqRunning _ => exact pwrReqRunning _ s
  | pwrReqQuiet _ => exact pwrReqQuiet _ s
  | pwrReqParked _ => exact pwrReqParked _ s
  | ignOffDelayExpire => exact ignOffDelayExpire s
  | quietTimeout => exact quietTimeout s
  | parkDrainEnd => exact parkDrainEnd s
  | parkPowerOff => exact parkPowerOff s
  | latchedWakeStart => exact latchedWakeStart s
  | unitClockStarted _ => exact unitClockStarted _ s
  | autoGateIdle _ => exact autoGateIdle _ s
  | resetNAssert => exact resetNAssert s
  | resetNRelease _ => exact resetNRelease _ s
  | warmResetCommand => exact warmResetCommand s
  | pwrGoodFall => exact pwrGoodFall s
  | retentionScrub _ => exact retentionScrub _ s
  | thermalSample _ => exact thermalSample _ s
  | thermalWakeHoldEnd => exact thermalWakeHoldEnd s
  | flashResetWaitEnd => exact flashResetWaitEnd s
  | imageVerify _ _ => exact imageVerify _ _ s
  | configSectionCheck _ => exact configSectionCheck _ s
  | configRegWrite => exact configRegWrite s
  | configProfile => exact configProfile s
  | configLoader => exact configLoader s
  | configDdr => exact configDdr s
  | configEnd => exact configEnd s
  | sectionLoaded _ _ => exact sectionLoaded _ _ s
  | flashCommandTimeout _ => exact flashCommandTimeout _ s
  | i2cWrite _ => exact i2cWrite _ s
  | i2cExpect _ => exact i2cExpect _ s
  | wait _ => exact wait _ s
  | pinSet _ => exact pinSet _ s
  | pinWait _ => exact pinWait _ s
  | dsiCmd _ => exact dsiCmd _ s
  | scriptEnd _ => exact scriptEnd _ s
  | scriptTimeout _ => exact scriptTimeout _ s
  | pinWaitTimeout _ => exact pinWaitTimeout _ s
  | i2cTransferDone _ _ _ => exact i2cTransferDone _ _ _ s
  | i2cRetryInterval _ => exact i2cRetryInterval _ s
  | i2cStretchTimeout _ => exact i2cStretchTimeout _ s
  | i2cXferStart _ _ => exact i2cXferStart _ _ s
  | lpddrTrainingDone _ _ => exact lpddrTrainingDone _ _ s
  | bridgeBootTimeout => exact bridgeBootTimeout s
  | splashHoldElapsed => exact splashHoldElapsed s
  | repairReadDone _ => exact repairReadDone _ s
  | plazaInitDone _ _ => exact plazaInitDone _ _ s
  | patrolScrub _ _ => exact patrolScrub _ _ s
  | linkParityError _ _ _ _ => exact linkParityError _ _ _ _ s
  | lpddrMr4Poll _ _ _ => exact lpddrMr4Poll _ _ _ s
  | runListPoolRoom => exact runListPoolRoom s
  | xltInvalidate _ => exact xltInvalidate _ s
  | xltRootCommit _ _ => exact xltRootCommit _ _ s
  | poisonClear _ => exact poisonClear _ s
  | wardenDivergence _ => exact wardenDivergence _ s
  | wardenTakeover => exact wardenTakeover s
  | stopEnqueue _ => exact stopEnqueue _ s
  | stopDispatch _ _ => exact stopDispatch _ _ s
  | stopComplete _ => exact stopComplete _ s
  | stopWatchdogExpire _ _ => exact stopWatchdogExpire _ _ s
  | granuleOverrun _ _ => exact granuleOverrun _ _ s
  | granuleAbort _ => exact granuleAbort _ s
  | granuleBoundary _ _ _ => exact granuleBoundary _ _ _ s
  | signalAdd _ _ _ => exact signalAdd _ _ _ s
  | signalSet _ _ _ => exact signalSet _ _ _ s
  | signalRelease _ _ => exact signalRelease _ _ s
  | queueLeaseExpire _ => exact queueLeaseExpire _ s
  | queueHalt _ => exact queueHalt _ s
  | queueResume _ => exact queueResume _ s
  | queueDrainExpire _ => exact queueDrainExpire _ s
  | xngSet _ _ => exact xngSet _ _ s
  | nop _ => exact nop _ s
  | startRoute _ => exact startRoute _ s
  | copy _ => exact copy _ s
  | fill _ => exact fill _ s
  | lock _ => exact lock _ s
  | unlock _ => exact unlock _ s
  | rasterPass _ => exact rasterPass _ s
  | frontEndPassTaken => exact frontEndPassTaken s
  | rasterBinPhaseDone => exact rasterBinPhaseDone s
  | computeAdd _ => exact computeAdd _ s
  | computeSub _ => exact computeSub _ s
  | computeMul _ => exact computeMul _ s
  | computeMax _ => exact computeMax _ s
  | computeMin _ => exact computeMin _ s
  | computeRelu _ => exact computeRelu _ s
  | computeCvt _ => exact computeCvt _ s
  | computeBlend _ => exact computeBlend _ s
  | computeResample _ => exact computeResample _ s
  | computeNorm _ => exact computeNorm _ s
  | computeSoftmax _ => exact computeSoftmax _ s
  | compose _ => exact compose _ s
  | mov _ _ => exact mov _ _ s
  | add _ _ => exact add _ _ s
  | sub _ _ => exact sub _ _ s
  | mul _ _ => exact mul _ _ s
  | mad _ _ => exact mad _ _ s
  | lrp _ _ => exact lrp _ _ s
  | min _ _ => exact min _ _ s
  | max _ _ => exact max _ _ s
  | clmp _ _ => exact clmp _ _ s
  | dp2 _ _ => exact dp2 _ _ s
  | dp3 _ _ => exact dp3 _ _ s
  | dp4 _ _ => exact dp4 _ _ s
  | rcp _ _ => exact rcp _ _ s
  | rsq _ _ => exact rsq _ _ s
  | exp2 _ _ => exact exp2 _ _ s
  | log2 _ _ => exact log2 _ _ s
  | frc _ _ => exact frc _ _ s
  | flr _ _ => exact flr _ _ s
  | slt _ _ => exact slt _ _ s
  | sge _ _ => exact sge _ _ s
  | cmp _ _ => exact cmp _ _ s
  | tex _ _ => exact tex _ _ s
  | scs _ _ => exact scs _ _ s
  | kil _ _ => exact kil _ _ s
  | arrayLayer _ _ => exact arrayLayer _ _ s
  | arrayPass _ _ _ _ => exact arrayPass _ _ _ _ s
  | pageWrite _ => exact pageWrite _ s
  | pageWriteDone _ _ => exact pageWriteDone _ _ s
  | calibrationPeriodExpire _ => exact calibrationPeriodExpire _ s
  | calibrationGraceExpire _ => exact calibrationGraceExpire _ s
  | calibrationDone _ _ => exact calibrationDone _ _ s
  | startCalibrationDone _ => exact startCalibrationDone _ s
  | sweepStep _ _ _ => exact sweepStep _ _ _ s
  | retirementMirror => exact retirementMirror s
  | warp _ _ => exact warp _ _ s
  | pyramid _ _ => exact pyramid _ _ s
  | motion _ _ => exact motion _ _ s
  | stats _ _ => exact stats _ _ s
  | csiFrameStart _ _ => exact csiFrameStart _ _ s
  | csiFrameEnd _ => exact csiFrameEnd _ s
  | csiLongPacket _ _ _ _ _ => exact csiLongPacket _ _ _ _ _ s
  | csiIgnoredPacket _ => exact csiIgnoredPacket _ s
  | camFrameTimeout => exact camFrameTimeout s
  | camStaleTimeout => exact camStaleTimeout s
  | camStart _ => exact camStart _ s
  | camStop _ => exact camStop _ s
  | offer _ => exact offer _ s
  | generate _ _ => exact generate _ _ s
  | relocationCopyDone _ => exact relocationCopyDone _ s
  | gateIterationStart _ => exact gateIterationStart _ s
  | gateBindSequence _ => exact gateBindSequence _ s
  | gateBindIntake _ => exact gateBindIntake _ s
  | gateWaitLimit _ => exact gateWaitLimit _ s
  | trackEnable _ _ => exact trackEnable _ _ s
  | trackDisable _ _ => exact trackDisable _ _ s
  | lineStart _ _ _ => exact lineStart _ _ _ s
  | teEdge _ _ _ => exact teEdge _ _ _ s
  | teBMissing => exact teBMissing s
  | teTimeout => exact teTimeout s
  | freerunFrameStart => exact freerunFrameStart s
  | outputEnable _ => exact outputEnable _ s
  | outputDisable _ => exact outputDisable _ s
  | displayModeChange _ _ => exact displayModeChange _ _ s
  | colourRangeChange _ _ => exact colourRangeChange _ _ s
  | modeChangeIdleEnd _ => exact modeChangeIdleEnd _ s
  | panelSequenceWaitEnd _ => exact panelSequenceWaitEnd _ s
  | dsiTxGo _ => exact dsiTxGo _ s
  | iconEnable _ _ => exact iconEnable _ _ s
  | sgnSramAccess _ _ => exact sgnSramAccess _ _ s
  | signpostStatusRepeat => exact signpostStatusRepeat s
  | killLineAssert => exact killLineAssert s
  | killLineRelease => exact killLineRelease s
  | hvWrite _ _ _ => exact hvWrite _ _ _ s
  | hvAck _ => exact hvAck _ s
  | hvStatus _ _ => exact hvStatus _ _ s
  | hvHeartbeat _ => exact hvHeartbeat _ s
  | hvResync _ => exact hvResync _ s
  | hvAckTimeout => exact hvAckTimeout s
  | hvHeartbeatTimer => exact hvHeartbeatTimer s
  | hvSideLinkLoss => exact hvSideLinkLoss s
  | safeHoldExpire => exact safeHoldExpire s
  | hvLinkLost => exact hvLinkLost s
  | hvResyncTimer => exact hvResyncTimer s
  | vbatConversion _ => exact vbatConversion _ s
  | headroomUpdate _ => exact headroomUpdate _ s
  | boostSoftStartDone => exact boostSoftStartDone s
  | boostIdleStop => exact boostIdleStop s
  | boostOvervoltage _ => exact boostOvervoltage _ s
  | boostNoRegulation => exact boostNoRegulation s
  | boostRestart => exact boostRestart s
  | pwmPeriodStart => exact pwmPeriodStart s
  | sinkOnTimeEnd _ _ => exact sinkOnTimeEnd _ _ s
  | sinkZeroTimeout _ => exact sinkZeroTimeout _ s
  | rangeChange _ _ => exact rangeChange _ _ s
  | rangeSettled _ => exact rangeSettled _ s
  | ntcConversionStart _ => exact ntcConversionStart _ s
  | ntcConversionEnd _ _ _ => exact ntcConversionEnd _ _ _ s
  | hvsClear => exact hvsClear s
  | blOnDelayExpire _ => exact blOnDelayExpire _ s
  | canFrameReceived _ _ _ _ _ _ => exact canFrameReceived _ _ _ _ _ _ s
  | canFrameTransmitted _ => exact canFrameTransmitted _ s
  | canBusOff _ => exact canBusOff _ s
  | canBusOffRecovery _ => exact canBusOffRecovery _ s
  | canHoldoffEnd _ => exact canHoldoffEnd _ s
  | canTxAbandon _ => exact canTxAbandon _ s
  | signalStale _ => exact signalStale _ s
  | gspSegmentTimeout _ => exact gspSegmentTimeout _ s
  | uartGapTimeout => exact uartGapTimeout s
  | spiWrite _ _ => exact spiWrite _ _ s
  | spiRead => exact spiRead s
  | spiStatus => exact spiStatus s
  | gspIdent _ _ _ => exact gspIdent _ _ _ s
  | gspRegRead _ _ _ => exact gspRegRead _ _ _ s
  | gspRegWrite _ _ _ => exact gspRegWrite _ _ _ s
  | gspMemRead _ _ _ => exact gspMemRead _ _ _ s
  | gspMemWrite _ _ _ => exact gspMemWrite _ _ _ s
  | gspConfigApply _ _ _ => exact gspConfigApply _ _ _ s
  | gspConfigRead _ _ _ _ => exact gspConfigRead _ _ _ _ s
  | gspFlashRead _ _ _ _ => exact gspFlashRead _ _ _ _ s
  | gspFlashErase _ _ _ => exact gspFlashErase _ _ _ s
  | gspFlashProgram _ _ _ => exact gspFlashProgram _ _ _ s
  | flashOperationDone _ => exact flashOperationDone _ s
  | gspJournalRead _ _ _ _ => exact gspJournalRead _ _ _ _ s
  | gspRestart _ _ _ => exact gspRestart _ _ _ s
  | gspOtpKey _ _ _ => exact gspOtpKey _ _ _ s
  | gspOtpRevoke _ _ _ => exact gspOtpRevoke _ _ _ s
  | gspIntakeEvent _ _ _ => exact gspIntakeEvent _ _ _ s
  | gspResult _ _ _ => exact gspResult _ _ _ s
  | intakeMirror => exact intakeMirror s
  | changeJournalMirror => exact changeJournalMirror s
  | vehicleStationary => exact vehicleStationary s
  | canDisable _ => exact canDisable _ s
  | servicePortDisable _ => exact servicePortDisable _ s
  | bridgeDisable => exact bridgeDisable s
  | bridgeIdle _ => exact bridgeIdle _ s
  | bridgeHello _ _ _ _ _ => exact bridgeHello _ _ _ _ _ s
  | bridgeHeart _ => exact bridgeHeart _ s
  | bridgeWrite _ _ _ _ => exact bridgeWrite _ _ _ _ s
  | bridgeWack _ _ _ => exact bridgeWack _ _ _ s
  | bridgeRead _ _ _ _ => exact bridgeRead _ _ _ _ s
  | bridgeRdata _ _ _ _ => exact bridgeRdata _ _ _ _ s
  | bridgeSignal _ _ _ _ => exact bridgeSignal _ _ _ _ s
  | bridgeResetReq _ _ => exact bridgeResetReq _ _ s
  | bridgeImage _ _ _ => exact bridgeImage _ _ _ s
  | bridgeImageEnd _ _ => exact bridgeImageEnd _ _ s
  | bridgeImageNak _ _ => exact bridgeImageNak _ _ s
  | bridgeImageDone _ _ => exact bridgeImageDone _ _ s
  | bridgeNak _ => exact bridgeNak _ s
  | bridgeReplayTimeout => exact bridgeReplayTimeout s
  | bridgeHelloSend => exact bridgeHelloSend s
  | bridgeHeartSend => exact bridgeHeartSend s
  | bridgeTrainDone _ => exact bridgeTrainDone _ s
  | bridgeTrainTimeout => exact bridgeTrainTimeout s
  | bridgeLaneLockLoss _ => exact bridgeLaneLockLoss _ s
  | bridgeRetrainDone _ _ => exact bridgeRetrainDone _ _ s
  | bridgePartnerTimeout => exact bridgePartnerTimeout s
  | bridgeTokenExpire _ => exact bridgeTokenExpire _ s
  | bridgeWaitExpire => exact bridgeWaitExpire s
  | followResetTimer => exact followResetTimer s
  | imageResendTimeout _ => exact imageResendTimeout _ s
  | resetPartner => exact resetPartner s
  | faultMessage _ => exact faultMessage _ s
  | unitHeartbeat _ => exact unitHeartbeat _ s
  | unitLeaseExpire _ => exact unitLeaseExpire _ s
  | recoveryNext => exact recoveryNext s
  | recoveryWithdrawDone => exact recoveryWithdrawDone s
  | unitCheckDone _ _ => exact unitCheckDone _ _ s
  | reclaimerDivergence => exact reclaimerDivergence s
  | detourHoldRelease => exact detourHoldRelease s
  | faultInject _ => exact faultInject _ s
  | rwpValueWrite _ _ _ => exact rwpValueWrite _ _ _ s
  | rwpComplementWrite _ _ _ => exact rwpComplementWrite _ _ _ s
  | rwpWordRead _ _ => exact rwpWordRead _ _ s
  | registerWrite _ _ _ => exact registerWrite _ _ _ s
  | csiPhyError => exact csiPhyError s
  | sweepForceExpire _ => exact sweepForceExpire _ s
  | hvFrameMismatch => exact hvFrameMismatch s
  | canErrorPassive _ _ _ => exact canErrorPassive _ _ _ s
  | uartMessageDiscard => exact uartMessageDiscard s
  | gspBadCmd _ _ _ _ => exact gspBadCmd _ _ _ _ s
  | bridgeFlitDiscard => exact bridgeFlitDiscard s
  | bridgeMalformedPacket _ _ _ _ _ => exact bridgeMalformedPacket _ _ _ _ _ s
  | mirrorOperationDone _ => exact mirrorOperationDone _ s
  | pinLevelReached _ => exact pinLevelReached _ s
  | i2cExpectRetryInterval _ => exact i2cExpectRetryInterval _ s
  | scriptWaitElapsed _ => exact scriptWaitElapsed _ s
  | dsiLpPacketSent _ => exact dsiLpPacketSent _ s

end Sys2Proof.Machine
end

section
/-! PROOFS. The lamplight domain (chapter 02): the power-on reset, the clocks, the release of RESET_N and
the unit clocks: O5, O6, O7, O9 and O12. -/

set_option Elab.async false

namespace Sys2Proof.Machine

variable {s t : State}

/-! ### From a command to its micro-program -/

/-- A command whose guard holds runs its micro-program. -/
theorem outcome_when {c : Prop} [Decidable c] (h : c) (p : Prog) (s : State) :
    Prog.outcome (Prog.when c p) s = .next (p.run s) := by
  rw [run_when_pos h, outcome_eq]

/-- What a command leaves is within the parts its row of `mayChange` names. -/
theorem exec_onlyChanges {c : Instr} (ht : exec c s = .next t) :
    s.onlyChanges (mayChange c) t := by
  obtain ⟨u, hu, honly⟩ := everyCommandKeepsToItsParts c s
  rw [ht, Host.Outcome.next.injEq] at hu
  exact hu ▸ honly

/-! ### The power-on reset (R30, Table 02-10) -/

theorem porAssert_rd (ht : exec .porAssert s = .next t) {r : Reg} {i j : Nat}
    (hr : r.at i j + 4 < 2 ^ 32) : t.rd r i j = resetWord t.ident r (r.at i j) := by
  have hnone : ∀ a, a < 2 ^ 32 → keyGet t.regs a = none := by
    obtain rfl := Host.Outcome.next.inj ht
    intro a ha
    refine keyGet_eq_none fun e he => ?_
    have hfar := (List.mem_filter.mp he).2
    simp only [Bool.or_eq_true, decide_eq_true_eq] at hfar
    omega
  simp [State.rd, State.rawReg, hnone (r.at i j) (by omega)]

theorem porAssert_reset (s : State) : ∃ t, exec .porAssert s = .next t ∧
    t.lamp.power = .off ∧ t.lamp.pmicEn = false ∧ t.lamp.tick = 0
    ∧ (∀ r i j, r.at i j + 4 < 2 ^ 32 → t.rd r i j = resetWord t.ident r (r.at i j))
    ∧ t.rd R.LAMP_RESET_CAUSE = 1 ∧ t.lamp.sysCause = 1
    ∧ t.ring = [] ∧ t.nextSeq = 1 ∧ t.retA = [] ∧ t.retB = [] ∧ t.leases = []
    ∧ t.boot = Boot.reset ∧ t.rcl = Rcl.reset ∧ t.ave = Ave.reset ∧ t.xlt = Xlt.reset
    ∧ t.wrd = Wrd.reset ∧ t.xng = Xng.reset ∧ t.cam = Cam.reset ∧ t.ras = Ras.reset
    ∧ t.dst = Dst.reset ∧ t.rbt = Rbt.reset ∧ t.sco = Sco.reset ∧ t.sgn = Sgn.reset
    ∧ t.svc = Svc.reset ∧ t.brg = Brg.reset ∧ t.can = [CanCtl.reset, CanCtl.reset]
    ∧ t.hv = { Hv.reset with ign := s.hv.ign }
    ∧ t.flash = s.flash ∧ t.otp = s.otp := by
  have ht : exec .porAssert s = .next _ := rfl
  refine ⟨_, ht, ?_, ?_, ?_, fun r i j => porAssert_rd ht,
    (porAssert_rd ht (by decide)).trans rfl, ?_⟩
  all_goals simp [logicReset, clearLogicRegs, Lamp.reset]

theorem porRelease_parks (v : Bool) (hoff : s.lamp.power = .off) :
    ∃ t, exec (.porRelease v) s = .next t ∧ t.lamp.power = .parked ∧ t.lamp.vhvLow = v
      ∧ t.lamp.tick = s.lamp.tick ∧ t.lamp.pmicEn = s.lamp.pmicEn
      ∧ s.onlyChanges [.mem .retA, .mem .retB, .free, .lamp] t := by
  have ht : exec (.porRelease v) s = .next _ := outcome_when hoff _ _
  refine ⟨_, ht, ?_, ?_, ?_, ?_, exec_onlyChanges ht⟩ <;> simp

/-- Settles O5: both commands are straight micro-programs, whose final state is read off. -/
theorem powerOnResetLosesAllButFlashAndOtp : Obligations.PowerOnResetLosesAllButFlashAndOtp :=
  ⟨porAssert_reset, fun _ v hoff => porRelease_parks v hoff⟩

/-! ### The lamplight clock (R32, R33) -/

/-- A fault message without an event bit leaves the registers of every block but the reclaimer's. -/
theorem fld_raise_of_no_event {code unit : Nat} {f : Field} (he : eventParts code = [])
    (hf : f.reg.oneSlot = true) (hslot : regSlot f.reg.addr ≠ 0x90) (s : State) :
    ((raise code unit).run s).fld f = s.fld f := by
  refine fld_of_within (W := raiseBase)
    (within_raise (partsLe_refl _) (by rw [he]; rfl)) hf ?_ s 0 0
  simp [coveredBy, raiseBase, hslot]

theorem x32Fail_reported (hon : s.lamp.power ≠ .off) (hg : s.lamp.x32Grace = true) :
    ∃ t, exec .x32Fail s = .next t ∧ t.lamp.x32OnRc = true ∧ t.lamp.x32Grace = false
      ∧ t.fld F.LAMP_CLK_EVENT_X32_FAIL = 1 ∧ s.reports t 0x0101 unitNone
      ∧ s.onlyChanges [.mem .retA, .mem .retB, .regs 0x01, .regs 0x90, .ring, .lamp, .rcl] t := by
  have ht : exec .x32Fail s = .next _ := outcome_when ⟨hon, hg⟩ _ _
  refine ⟨_, ht, ?_, ?_, ?_, ?_, exec_onlyChanges ht⟩ <;>
    rw [run_all_cons, run_all_cons, run_all_cons, run_all_nil]
  · simp
  · simp
  · rw [fld_raise_of_no_event rfl rfl (by decide), fld_setF_self _ _ rfl]
    rfl
  · exact reports_after (by simp)

/-- Settles O6: the crystal's events set the two flags of the clock source. -/
theorem clockSourceFollowsTheCrystal : Obligations.ClockSourceFollowsTheCrystal :=
  fun _ hon => ⟨⟨_, outcome_when hon _ _, rfl⟩, fun hx => ⟨_, outcome_when ⟨hon, hx⟩ _ _, rfl⟩,
    fun hg => ⟨⟨_, outcome_when ⟨hon, hg⟩ _ _, rfl⟩, x32Fail_reported hon hg⟩⟩

/-! ### The reference and the PLLs (R34, R36, R41) -/

/-- In WAKING a failed reference is replaced by the RC oscillator and reported. -/
theorem run_refFail_waking (hw : s.lamp.power = .waking) :
    refFail.run s = (modLamp fun l => { l with refOnRc := true }).run
      ((raise 0x0001 unitNone).run ((setF F.LAMP_CLK_EVENT_REF_FAIL 1).run s)) := by
  rw [refFail, run_look, if_pos hw]
  rfl

theorem refStartTimeout_reported (hw : s.lamp.power = .waking) (hrc : s.lamp.refOnRc = false) :
    ∃ t, exec .refStartTimeout s = .next t ∧ t.lamp.power = .waking ∧ t.lamp.refOnRc = true
      ∧ t.fld F.LAMP_CLK_EVENT_REF_FAIL = 1 ∧ s.reports t 0x0001 unitNone
      ∧ s.onlyChanges [.mem .retA, .mem .retB, .regs 0x01, .regs 0x90, .ring, .lamp, .rcl] t := by
  have hwithin : (Prog.all [setF F.LAMP_CLK_EVENT_REF_FAIL 1, raise 0x0001 unitNone,
      modLamp fun l => { l with refOnRc := true }]).Within
      [.mem .retA, .mem .retB, .regs 0x01, .regs 0x90, .ring, .lamp, .rcl] :=
    within_all_cons (within_setF rfl (by decide +kernel)) <|
    within_all_cons (within_raise (by decide +kernel) (by decide +kernel)) <|
    within_all_cons (within_modLamp rfl) within_all_nil
  refine ⟨_, outcome_when ⟨hw, hrc⟩ _ _, ?_⟩
  rw [run_refFail_waking hw]
  refine ⟨by simp [hw], by simp, ?_, ?_, onlyChanges_of_within hwithin s⟩ <;> rw [run_modLamp]
  · rw [act_lamp_fld, fld_raise_of_no_event rfl rfl (by decide),
      fld_setF_self _ _ rfl]
    rfl
  · exact reports_of_ring (reports_after (by simp)) (act_lamp_ring ..)

theorem pllLocked_shown {p : Nat} (hp : p < 9) (hreq : bitN s.lamp.pllReq p = 1)
    (hr : s.resettable = true) (hn : s.lamp.resetNLow = false) (hg : s.lamp.pwrGood = true)
    (hstep : s.lamp.power = .waking → 3 ≤ s.lamp.wakingStep) :
    ∃ t, exec (.pllLocked p) s = .next t ∧ bitN (t.fld F.SYS_PLL_STATUS_LOCK) p = 1
      ∧ (p = 0 → s.lamp.power = .waking → s.lamp.wakingStep = 3 → t.lamp.wakingStep = 4)
      ∧ s.onlyChanges [.regs 0x00, .regs 0x41, .lamp, .sco] t := by
  have harm : ∀ u : State, (armWaiting.run u).lamp = u.lamp
      ∧ (armWaiting.run u).fld F.SYS_PLL_STATUS_LOCK = u.fld F.SYS_PLL_STATUS_LOCK := fun u =>
    ⟨within_armWaiting (partsLe_refl _) u .lamp rfl,
      fld_of_within (within_armWaiting (partsLe_refl _)) rfl (by decide) u 0 0⟩
  have hclock : ∀ u : State, ((Prog.when (s.lamp.power = .running) reclockUnits).run u).lamp = u.lamp
      ∧ ((Prog.when (s.lamp.power = .running) reclockUnits).run u).fld F.SYS_PLL_STATUS_LOCK
        = u.fld F.SYS_PLL_STATUS_LOCK := by
    intro u
    by_cases h : s.lamp.power = .running
    · rw [run_when_pos h]
      exact ⟨setReg_lamp .., fld_congr (rd_setReg_words (by decide))⟩
    · rw [run_when_neg h]
      exact ⟨rfl, rfl⟩
  have ht : exec (.pllLocked p) s = .next _ := outcome_when ⟨hp, hreq, hr, hn, hg, hstep⟩ _ _
  refine ⟨_, ht, ?_, fun h0 hw h3 => ?_, exec_onlyChanges ht⟩ <;>
    rw [run_all_cons, run_all_cons, run_all_cons, run_all_cons, run_all_nil]
  · have hlock : F.SYS_PLL_STATUS_LOCK.lo + p ≤ F.SYS_PLL_STATUS_LOCK.hi :=
      Nat.le_of_lt_succ (by simpa [F.SYS_PLL_STATUS_LOCK] using by omega)
    have hmod : ∀ (c : Prop) [Decidable c] (u : State), ((Prog.when c
        (modLamp fun l => { l with wakingStep := 4 })).run u).fld F.SYS_PLL_STATUS_LOCK
        = u.fld F.SYS_PLL_STATUS_LOCK := by
      intro c _ u
      rw [Prog.when]
      split
      · exact act_lamp_fld ..
      · rfl
    rw [(harm _).2, hmod, (hclock _).2, fld_setFBit_self _ _ rfl _ _ _ _ hlock]
    rfl
  · rw [(harm _).1, run_when_pos ⟨h0, hw, h3⟩, run_modLamp, act_lamp_lamp]

/-- Settles O7. -/
theorem referenceAndPllsInWaking : Obligations.ReferenceAndPllsInWaking :=
  ⟨fun _ hw hrc => refStartTimeout_reported hw hrc,
    fun _ _ hp hreq hr hn hg hstep => pllLocked_shown hp hreq hr hn hg hstep,
    fun _ => ⟨_, rfl, rfl⟩⟩

/-! ### RESET_N (R54, R70) -/

/-- Settles O9: with PWR_GOOD high the release of RESET_N releases the logic side. -/
theorem resetNReleaseSamplesStraps : Obligations.ResetNReleaseSamplesStraps := by
  intro s x hn hw h3 hg
  refine ⟨_, outcome_when hn _ _, ?_⟩
  rw [run_seq, run_when_pos ⟨hw, h3⟩]
  simp [releaseLogic, Act.apply, hg]

/-! ### Unit clocks (R49, R50) -/

theorem gateBit_lt {u b : Nat} (hb : gateBit u = some b) : b < 32 := by
  unfold gateBit at hb
  split_ifs at hb <;> simp only [Option.some.injEq] at hb <;> omega

/-- The bit of a unit in SYS_GATE_STATUS, as a command writes it. -/
theorem bitN_gateStatus {b : Nat} (hb : b < 32) (x : Nat) (s : State) :
    bitN (((setReg R.SYS_GATE_STATUS (setBits (s.rd R.SYS_GATE_STATUS) b b x)).run s).rd
      R.SYS_GATE_STATUS) b = x % 2 := by
  rw [rd_setReg_self, bitN_mod _ _ hb, bitN_setBits]

/-- Settles O12. -/
theorem unitClocks : Obligations.UnitClocks := by
  refine ⟨fun s u b hr hl hb => ?_, fun s u b hr hb hen hticks hidle => ?_⟩
  · have ht : exec (.unitClockStarted u) s = _ := outcome_when ⟨hr, hl⟩ _ _
    refine ⟨_, ht, ?_, exec_onlyChanges ht⟩
    rw [hb, run_seq, run_modWrd, act_wrd_rd, bitN_gateStatus (gateBit_lt hb)]
  · have ht : exec (.autoGateIdle u) s = _ := outcome_when ⟨hr, hen, hticks, hidle⟩ _ _
    refine ⟨_, ht, ?_, exec_onlyChanges ht⟩
    rw [hb, bitN_gateStatus (gateBit_lt hb)]

end Sys2Proof.Machine
end

section
/-! PROOFS. Resets of the logic side, and the start and failure of WAKING (chapter 02): O8 and O10. -/

set_option Elab.async false

namespace Sys2Proof.Machine

variable {s t : State}

/-! ### Resets of the logic side (R53 to R57) -/

theorem resettable_of_live (h : s.live = true) : s.resettable = true := by
  simp only [State.live, Bool.or_eq_true] at h
  simp only [State.resettable, Bool.or_eq_true]
  tauto

theorem not_waking_of_live (h : s.live = true) : s.lamp.power ≠ .waking := by
  intro hw
  simp [State.live, hw] at h

/-- What a restart keeps of the state before it depends on four of that state's fields alone. -/
theorem restarted_of_keeps {u : State} {cause : Nat} (h : u.restarted t cause)
    (hlamp : u.lampCore = s.lampCore) (hflash : u.flash = s.flash) (hotp : u.otp = s.otp) :
    s.restarted t cause := by
  have hg : u.lamp.pwrGood = s.lamp.pwrGood := congrArg (·.pwrGood) hlamp
  have ht : u.lamp.tick = s.lamp.tick := congrArg (·.tick) hlamp
  have hp : u.lamp.pmicEn = s.lamp.pmicEn := congrArg (·.pmicEn) hlamp
  unfold State.restarted at h ⊢
  rwa [hg, ht, hp, hflash, hotp] at h

theorem warmReset_restarted (hs : s.Sound) (hl : s.live = true) {cause : Nat} (hc : cause < 10) :
    s.restarted ((warmReset cause).run s) cause := by
  rw [run_warmReset hl]
  exact logicSideReset_restarted hs hc

theorem raise_live (code unit detail queue tag status : Nat) (s : State) :
    ((raise code unit detail queue tag status).run s).live = s.live := by
  simp [State.live]

theorem refCountFail_restarts (hs : s.Sound) (hl : s.live = true) (hrc : s.lamp.refOnRc = false) :
    ∃ t, exec .refCountFail s = .next t ∧ s.restarted t causeRefFail ∧ t.lamp.refOnRc = true := by
  have ht : exec .refCountFail s = .next _ := outcome_when ⟨resettable_of_live hl, hrc⟩ _ _
  refine ⟨_, ht, ?_⟩
  rw [refFail, run_look, if_neg (not_waking_of_live hl), run_all_cons, run_all_cons, run_all_cons,
    run_all_nil]
  have hsound : ((raise 0x0001 unitNone).run ((setF F.LAMP_CLK_EVENT_REF_FAIL 1).run s)).Sound :=
    run_sound _ (run_sound _ hs)
  have hcore : ((raise 0x0001 unitNone).run ((setF F.LAMP_CLK_EVENT_REF_FAIL 1).run s)).lampCore
      = s.lampCore := (raise_lampCore _ _ _ _ _ _ _).trans (lampCore_of_lamp (setF_lamp ..))
  have hlive : ((raise 0x0001 unitNone).run
      ((setF F.LAMP_CLK_EVENT_REF_FAIL 1).run s)).live = true := by
    simpa [State.live] using hl
  refine ⟨restarted_of_keeps (warmReset_restarted hsound hlive (by decide)) hcore (by simp)
    (by simp), ?_⟩
  rw [run_warmReset hlive]
  simp [logicSideReset, releaseLogic, causeRefFail]

theorem sysPllLoss_restarts (hs : s.Sound) (hl : s.live = true) :
    ∃ t, exec .sysPllLossOfLock s = .next t ∧ s.restarted t causeSysPll := by
  have hstep : 3 < s.lamp.wakingStep + 4 * (if s.live then 1 else 0) := by
    rw [if_pos hl]
    omega
  have ht : exec .sysPllLossOfLock s = .next _ := outcome_when ⟨resettable_of_live hl, hstep⟩ _ _
  refine ⟨_, ht, ?_⟩
  rw [run_seq]
  have hlive : ((raise 0x0002 unitNone).run s).live = true := by rwa [raise_live]
  exact restarted_of_keeps (warmReset_restarted (run_sound _ hs) hlive (by decide))
    (raise_lampCore _ _ _ _ _ _ s) (by simp) (by simp)

theorem resetNAssert_restarts (hs : s.Sound) (hr : s.resettable = true) :
    ∃ t, exec .resetNAssert s = .next t ∧ s.restarted t causePin ∧ t.lamp.resetNLow = true
      ∧ t.ports.xspiRstN = false := by
  have ht : exec .resetNAssert s = .next _ := outcome_when hr _ _
  refine ⟨_, ht, ?_⟩
  rw [run_seq]
  have hlow := logicSideReset_restarted (bit := causePin)
    (run_sound (modLamp fun l => { l with resetNLow := true }) hs) (by decide)
  refine ⟨hlow, ?_, ?_⟩ <;>
    simp [logicSideReset, recordCause, releaseLogic, causePin, warmCause, Prog.when]

theorem pwrGoodFall_restarts (hs : s.Sound) (hr : s.resettable = true)
    (hg : s.lamp.pwrGood = true) : ∃ t, exec .pwrGoodFall s = .next t
      ∧ State.restarted { s with lamp := { s.lamp with pwrGood := false } } t causePgLoss
      ∧ t.lamp.pwrGood = false ∧ t.lamp.wakingStep = 2 := by
  have ht : exec .pwrGoodFall s = .next _ := outcome_when hg _ _
  refine ⟨_, ht, ?_⟩
  rw [run_seq, run_when_pos hr, run_seq]
  have hfall : ((raise 0x0104 unitNone).run ((modLamp fun l =>
      { l with pwrGood := false, pgFellAt := some l.tick }).run s)).restarted _ causePgLoss :=
    logicSideReset_restarted (run_sound _ (run_sound _ hs)) (by decide)
  obtain ⟨hpower, hstep, hcause, hsince, htick, hpmic, hboot, hleases, hflash, hotp⟩ := hfall
  refine ⟨⟨hpower, ?_, hcause, hsince, ?_, ?_, hboot, hleases, ?_, ?_⟩, ?_, ?_⟩
  · simpa using hstep
  · simpa using htick
  · simpa using hpmic
  · simpa using hflash
  · simpa using hotp
  · simp [logicSideReset, recordCause, releaseLogic, dropPending_keeps (π := State.lamp)
      (fun _ _ => rfl) causePgLoss _]
  · simpa [causePgLoss, causePin] using hstep

/-- Settles O8: each reset is `logicSideReset` with its cause, after at most a fault message. -/
theorem logicSideResetsRestartWaking : Obligations.LogicSideResetsRestartWaking :=
  ⟨fun _ hs hl => ⟨_, outcome_when hl _ _, warmReset_restarted hs hl (by decide)⟩,
    fun _ hs hl hrc => refCountFail_restarts hs hl hrc,
    fun _ hs hl => sysPllLoss_restarts hs hl,
    fun _ hs hr => resetNAssert_restarts hs hr,
    fun _ hs hr hg => pwrGoodFall_restarts hs hr hg⟩

/-! ### Wake events (R39, R40) -/

theorem run_usePair_of_pairOk {r : Reg} {i j : Nat} (h : s.pairOk r i j = true) :
    (usePair r i j).run s = s := by
  rw [usePair, run_look, run_when_neg (by simp [h]), run_skip]

theorem run_leaveQuiet_of_ne (h : s.lamp.power ≠ .quiet) : leaveQuiet.run s = s := by
  rw [leaveQuiet, run_look, run_when_neg h, run_skip]

theorem wakeFilter_modWake (k : Nat) (f : WakeFilter → WakeFilter) (s : State) :
    ((modWake k f).run s).wakeFilter k = f (s.wakeFilter k) := by
  unfold modWake State.wakeFilter
  rw [run_modLamp, act_lamp_lamp]
  split_ifs <;> rfl

/-- A wake filter's state is apart from the rest of the lamplight domain. -/
theorem modWake_lamp (k : Nat) (f : WakeFilter → WakeFilter) (s : State) :
    ∃ a b c, ((modWake k f).run s).lamp = { s.lamp with ign := a, can := b, brg := c } := by
  unfold modWake
  rw [run_modLamp, act_lamp_lamp]
  split_ifs
  exacts [⟨_, _, _, rfl⟩, ⟨_, _, _, rfl⟩, ⟨_, _, _, rfl⟩]

theorem wakeFilter_congr (h : t.lampCore = s.lampCore) (k : Nat) :
    t.wakeFilter k = s.wakeFilter k := by
  have hign : t.lamp.ign = s.lamp.ign := congrArg (·.ign) h
  have hcan : t.lamp.can = s.lamp.can := congrArg (·.can) h
  have hbrg : t.lamp.brg = s.lamp.brg := congrArg (·.brg) h
  simp only [State.wakeFilter, hign, hcan, hbrg]

theorem railsUp_congr (h : t.lampCore = s.lampCore) : t.railsUp = s.railsUp := by
  have hgood : t.lamp.pwrGood = s.lamp.pwrGood := congrArg (·.pwrGood) h
  have hfell : t.lamp.pgFellAt = s.lamp.pgFellAt := congrArg (·.pgFellAt) h
  have htick : t.lamp.tick = s.lamp.tick := congrArg (·.tick) h
  simp only [State.railsUp, hgood, hfell, htick]

/-- The state in which a wake event of source `src` has been counted and kept in the retention
RAM. -/
def State.wakeCounted (s : State) (src : Nat) (por : Bool) : State :=
  (Prog.all [
    setReg R.LAMP_WAKE_CAUSE (2 ^ src + if por then 16 else 0),
    bump F.LAMP_WAKE_COUNT_COUNT,
    .look fun t => retWrite 0x0C (leBytes 4 (t.rd R.LAMP_WAKE_COUNT))]).run s

section counted
variable (src : Nat) (por : Bool)

theorem wakeCounted_lampCore : (s.wakeCounted src por).lampCore = s.lampCore :=
  (retWrite_lampCore _ _ _).trans (lampCore_of_lamp (by simp))

theorem wakeCounted_cause (hsrc : src < 4) :
    (s.wakeCounted src por).rd R.LAMP_WAKE_CAUSE = 2 ^ src + if por then 16 else 0 := by
  rw [State.wakeCounted, run_all_cons, run_all_cons, run_all_cons, run_all_nil, run_look,
    retWrite_rd, rd_bump_other _ (by decide), rd_setReg_self]
  refine Nat.mod_eq_of_lt ?_
  have hpow : 2 ^ src ≤ 2 ^ 3 := Nat.pow_le_pow_right (by decide) (by omega)
  split <;> omega

/-- A counted wake event starts WAKING in PARKED, with the rails down (R40, R48). -/
theorem run_wakeEvent_parked (hp : s.lamp.power = .parked) (hh : s.lamp.thermHold = false)
    (hr : s.railsUp = false) :
    (wakeEvent src por).run s = enterWaking.run ((modLamp fun l => { l with attempts := 0 }).run
      (s.wakeCounted src por)) := by
  rw [wakeEvent, run_look, run_when_pos ⟨hh, by simp [hp]⟩, if_pos hp, hr]
  rfl

theorem enterWaking_cause : (enterWaking.run s).rd R.LAMP_WAKE_CAUSE = s.rd R.LAMP_WAKE_CAUSE := by
  simp [enterWaking]

theorem enterWaking_wakeFilter (k : Nat) : (enterWaking.run s).wakeFilter k = s.wakeFilter k := by
  simp [enterWaking, State.wakeFilter]

theorem wakeEvent_parked (hp : s.lamp.power = .parked) (hh : s.lamp.thermHold = false)
    (hr : s.railsUp = false) (hsrc : src < 4) :
    ((wakeEvent src por).run s).lamp.power = .waking
      ∧ ((wakeEvent src por).run s).lamp.pmicEn = true
      ∧ ((wakeEvent src por).run s).rd R.LAMP_WAKE_CAUSE = 2 ^ src + (if por then 16 else 0)
      ∧ ∀ k, ((wakeEvent src por).run s).wakeFilter k = s.wakeFilter k := by
  rw [run_wakeEvent_parked src por hp hh hr]
  refine ⟨by simp [enterWaking], by simp [enterWaking], ?_, fun k => ?_⟩
  · rw [enterWaking_cause, run_modLamp, act_lamp_rd, wakeCounted_cause src por hsrc]
  · rw [enterWaking_wakeFilter]
    exact wakeFilter_congr (wakeCounted_lampCore src por) k

end counted

theorem timerAlarm_wakes (hp : s.lamp.power = .parked) (he : s.wakeEnabled 3 = true)
    (ha : s.rd R.LAMP_TIMER_ALARM ≠ 0) (hpair : s.pairOk R.LAMP_WAKE_EN 0 0 = true)
    (hh : s.lamp.thermHold = false) (hr : s.railsUp = false) :
    ∃ t, exec .timerAlarm s = .next t ∧ t.lamp.power = .waking ∧ t.lamp.pmicEn = true
      ∧ t.rd R.LAMP_WAKE_CAUSE = 8 := by
  have ht : exec .timerAlarm s = .next _ := outcome_when ⟨hp, ha⟩ _ _
  refine ⟨_, ht, ?_⟩
  rw [run_seq, run_usePair_of_pairOk hpair, run_when_pos he]
  obtain ⟨hpower, hpmic, hcause, _⟩ := wakeEvent_parked 3 false hp hh hr (by decide)
  exact ⟨hpower, hpmic, hcause⟩

theorem wakeFilterElapsed_wakes {k : Nat} (hp : s.lamp.power = .parked)
    (hk : s.wakeSource k = true) (he : s.wakeEnabled k = true)
    (hpair : s.pairOk R.LAMP_WAKE_EN 0 0 = true) (hraw : (s.wakeFilter k).raw = true)
    (hfil : (s.wakeFilter k).filtered = false) (hh : s.lamp.thermHold = false)
    (hr : s.railsUp = false) :
    ∃ t, exec (.wakeFilterElapsed k) s = .next t ∧ t.lamp.power = .waking ∧ t.lamp.pmicEn = true
      ∧ (t.wakeFilter k).filtered = true
      ∧ t.rd R.LAMP_WAKE_CAUSE = 2 ^ k + if (s.wakeFilter k).porArmed then 16 else 0 := by
  have ht : exec (.wakeFilterElapsed k) s = .next _ :=
    outcome_when ⟨hk, ne_of_eq_of_ne hp (by decide), ne_of_eq_of_ne hraw (by simp [hfil])⟩ _ _
  refine ⟨_, ht, ?_⟩
  have hk4 : k < 4 := by
    simp only [State.wakeSource, Bool.or_eq_true, Bool.and_eq_true, decide_eq_true_eq,
      beq_iff_eq] at hk
    omega
  obtain ⟨a, b, c, hlamp⟩ := modWake_lamp k
    (fun f => { f with filtered := f.raw, porArmed := false }) s
  have hfilter := wakeFilter_modWake k
    (fun f => { f with filtered := f.raw, porArmed := false }) s
  have hpair' : ((modWake k fun f => { f with filtered := f.raw, porArmed := false }).run s).pairOk
      R.LAMP_WAKE_EN 0 0 = true := hpair
  rw [run_all_cons, run_all_cons, run_all_cons, run_all_cons, run_all_nil, run_when_pos hraw,
    run_when_pos (show _ ∧ s.wakeEnabled k = true from ⟨hraw, he⟩)]
  generalize (modWake k fun f => { f with filtered := f.raw, porArmed := false }).run s = u
    at hlamp hfilter hpair' ⊢
  rw [run_usePair_of_pairOk hpair']
  have hru : u.railsUp = false := by
    rw [← hr]
    simp only [State.railsUp, hlamp]
  obtain ⟨hpower, hpmic, hcause, hfilters⟩ := wakeEvent_parked (s := u) k (s.wakeFilter k).porArmed
    (by rw [hlamp]; exact hp) (by rw [hlamp]; exact hh) hru hk4
  have hstay : ∀ v : State, v.lamp.power = .waking → ((Prog.when ((s.wakeFilter k).raw = true
      ∧ k = 0 ∧ s.lamp.parkStep = 0) leaveQuiet).run v) = v := by
    intro v hv
    rw [Prog.when]
    split
    · exact run_leaveQuiet_of_ne (by simp [hv])
    · rfl
  rw [hstay _ hpower]
  refine ⟨hpower, hpmic, ?_, hcause⟩
  rw [hfilters, hfilter]
  exact hraw

/-! ### WAKING begins, goes on and fails (R41, R42) -/

theorem pwrGoodTimeout_fails (hw : s.lamp.power = .waking) (h2 : s.lamp.wakingStep = 2)
    (hg : s.lamp.pwrGood = false) : ∃ t, exec .pwrGoodTimeout s = .next t
      ∧ t.lamp.power = .parked ∧ t.lamp.pmicEn = false ∧ t.lamp.attempts = s.lamp.attempts + 1
      ∧ t.lamp.retryDue = decide (s.lamp.attempts + 1 < 3) ∧ s.reports t 0x0105 unitNone := by
  have ht : exec .pwrGoodTimeout s = .next _ := outcome_when ⟨hw, by omega, hg⟩ _ _
  refine ⟨_, ht, ?_⟩
  rw [failWaking, run_all_cons, run_all_cons, run_all_cons, run_all_cons, run_all_cons,
    run_all_nil, run_look]
  refine ⟨?_, ?_, ?_, ?_, reports_after ?_⟩ <;> simp [recordCause]

theorem run_releaseLogic (s : State) : releaseLogic.run s = { s with
    lamp := { s.lamp with
      straps := if s.lamp.pwrGood && !s.lamp.resetNLow then s.lamp.strapBalls else s.lamp.straps }
    ports := { s.ports with xspiRstN := s.lamp.pwrGood && !s.lamp.resetNLow } } := rfl

theorem pwrGoodRise_goesOn (x : Straps) (hw : s.lamp.power = .waking) (h4 : s.lamp.wakingStep < 4) :
    ∃ t, exec (.pwrGoodRise x) s = .next t ∧ t.lamp.pwrGood = true ∧ t.lamp.wakingStep = 3
      ∧ t.lamp.straps = (if s.lamp.resetNLow then s.lamp.straps else x)
      ∧ t.ports.xspiRstN = !s.lamp.resetNLow ∧ s.onlyChanges [.lamp, .ports] t := by
  have ht : exec (.pwrGoodRise x) s = .next _ := rfl
  refine ⟨_, ht, ?_, ?_, ?_, ?_, exec_onlyChanges ht⟩ <;>
    rw [run_seq, run_when_pos ⟨hw, h4⟩, run_seq, run_releaseLogic]
  · rfl
  · rfl
  · cases hn : s.lamp.resetNLow <;> simp [Act.apply, hn]
  · simp

theorem wakeInputEdge_filters {k : Nat} {v : Bool} (hk : s.wakeSource k = true)
    (hv : (s.wakeFilter k).raw ≠ v) : ∃ t, exec (.wakeInputEdge k v) s = .next t
      ∧ (t.wakeFilter k).raw = v ∧ (t.wakeFilter k).since = s.lamp.tick := by
  have ht : exec (.wakeInputEdge k v) s = .next _ := outcome_when ⟨hk, hv⟩ _ _
  have hkeep : ∀ u : State, ((warmReset causeBridge).run u).wakeFilter k = u.wakeFilter k := by
    intro u
    rw [warmReset, run_look, Prog.when]
    split
    · simp [logicSideReset, recordCause, releaseLogic, warmCause, causeBridge, State.wakeFilter,
        Prog.when]
    · rfl
  have hfilter := wakeFilter_modWake k
    (fun f => { f with raw := v, since := s.lamp.tick, porArmed := false }) s
  refine ⟨_, ht, ?_⟩
  have hall : (Prog.all [Prog.when (k = 0) (modHv fun h => { h with ign := v }),
      Prog.when (k = 2 ∧ v = true ∧ s.boot.phase = 8 ∧ s.boot.overBridge = true)
        (warmReset causeBridge)]).Keeps fun u => u.wakeFilter k :=
    keeps_all_cons (keeps_when fun _ _ => rfl) <|
      keeps_all_cons (keeps_when fun _ => hkeep) keeps_all_nil
  exact ⟨congrArg (·.raw) ((hall _).trans hfilter), congrArg (·.since) ((hall _).trans hfilter)⟩

/-- Settles O10. -/
theorem wakingStartsAndFails : Obligations.WakingStartsAndFails := by
  refine ⟨fun s hp hr => ?_, fun s hp hl hg => ?_,
    fun s hp he ha hpair hh hr => timerAlarm_wakes hp he ha hpair hh hr,
    fun s k hp hk he hpair hraw hfil hh hr => wakeFilterElapsed_wakes hp hk he hpair hraw hfil hh hr,
    fun s x hw h4 hn => ?_, fun s x hw h4 hn => ?_,
    fun s hw h2 hg => pwrGoodTimeout_fails hw h2 hg, fun s k v hk hv => wakeInputEdge_filters hk hv⟩
  · have ht : exec .wakingRetry s = .next _ := outcome_when ⟨hp, hr⟩ _ _
    exact ⟨_, ht, rfl, rfl, rfl, rfl, exec_onlyChanges ht⟩
  · have ht : exec .latchedWakeStart s = .next _ := outcome_when ⟨hp, hl, hg⟩ _ _
    exact ⟨_, ht, rfl, rfl, rfl, rfl, rfl, exec_onlyChanges ht⟩
  · have h := pwrGoodRise_goesOn x hw h4
    rwa [hn] at h
  · have h := pwrGoodRise_goesOn x hw h4
    rwa [hn] at h

end Sys2Proof.Machine
end

section
/-! PROOFS. QUIET, the park sequence and held power requests (chapter 02, R43 to R48, R77): O11. -/

set_option Elab.async false

namespace Sys2Proof.Machine

variable {s t : State}

/-! ### Uses of complement pairs -/

section uses
variable {α : Type} {π : State → α} (hraise : ∀ a, (raiseMismatch a).Keeps π)
  (hset : ∀ r v i j, (setReg r v i j).Keeps π)
include hraise hset

theorem usePair_keeps (r : Reg) (i j : Nat) : (usePair r i j).Keeps π :=
  keeps_look fun _ => keeps_when fun _ =>
    keeps_all_cons (hraise _) (keeps_all_cons (hset _ _ _ _) keeps_all_nil)

theorem useRegs_keeps (rs : List Reg) : (useRegs rs).Keeps π :=
  keeps_look fun _ => keeps_each fun _ => usePair_keeps hraise hset _ _ _

end uses

/-! ### The power-state controller's own state -/

/-- What displays and fault messages leave of the lamplight domain and of the LPDDR4X: all but the
PLLs requested and the retention words in error, and the self-refresh. -/
def State.powerState (s : State) : Lamp × Bool :=
  ({ s.lamp with retErrs := [], pllReq := 0 }, s.ave.ddrSelfRefresh)

theorem powerState_of_lampCore (hl : t.lampCore = s.lampCore)
    (ha : t.ave.ddrSelfRefresh = s.ave.ddrSelfRefresh) : t.powerState = s.powerState :=
  Prod.ext (congrArg (fun l : Lamp => { l with pllReq := 0 }) hl) ha

theorem keepsPower_of_within {W : List Part} {p : Prog} (hp : p.Within W)
    (hl : coveredBy W .lamp = false) (ha : coveredBy W .ave = false) : p.Keeps State.powerState :=
  fun s => powerState_of_lampCore (lampCore_of_lamp (hp s .lamp hl))
    (congrArg (·.ddrSelfRefresh) (hp s .ave ha))

theorem power_of_powerState (h : t.powerState = s.powerState) : t.lamp.power = s.lamp.power :=
  congrArg (·.1.power) h

theorem parkStep_of_powerState (h : t.powerState = s.powerState) :
    t.lamp.parkStep = s.lamp.parkStep :=
  congrArg (·.1.parkStep) h

theorem selfRefresh_of_powerState (h : t.powerState = s.powerState) :
    t.ave.ddrSelfRefresh = s.ave.ddrSelfRefresh :=
  congrArg (·.2) h

theorem setReg_keepsPower (r : Reg) (v i j : Nat) : (setReg r v i j).Keeps State.powerState :=
  keepsPower_of_within (setReg_within _ _ _ _) rfl rfl

theorem raise_keepsPower (code unit detail queue tag status : Nat) :
    (raise code unit detail queue tag status).Keeps State.powerState :=
  fun s => powerState_of_lampCore (raise_lampCore _ _ _ _ _ _ s) (by simp)

theorem usePair_keepsPower (r : Reg) (i j : Nat) : (usePair r i j).Keeps State.powerState :=
  usePair_keeps (fun _ => raise_keepsPower _ _ _ _ _ _) setReg_keepsPower r i j

theorem useRegs_keepsPower (rs : List Reg) : (useRegs rs).Keeps State.powerState :=
  useRegs_keeps (fun _ => raise_keepsPower _ _ _ _ _ _) setReg_keepsPower rs

/-! ### Displays that start -/

theorem takeLock_keepsPower (n base pages mode : Nat) (who : Holder) :
    (takeLock n base pages mode who).Keeps State.powerState := by
  refine keeps_look fun _ => keeps_seq (fun _ => rfl) ?_
  split
  · exact fun _ => rfl
  · exact keeps_seq (usePair_keepsPower _ _ _) fun _ => rfl
  · exact fun _ => rfl

theorem acquireLock_keepsPower (base pages mode : Nat) (who : Holder) :
    (acquireLock base pages mode who).Keeps State.powerState :=
  keeps_look fun _ => by
    split
    · exact takeLock_keepsPower _ _ _ _ _
    · exact fun _ => rfl

theorem lockSplash_keepsPower (x : Nat) : (lockSplash x).Keeps State.powerState :=
  keeps_look fun _ => by
    split
    · exact keeps_skip
    · exact keeps_when fun _ => keeps_seq (acquireLock_keepsPower _ _ _ _) fun _ => rfl

theorem launchOutput_keepsPower (x black : Nat) (blFirst restore : Bool) :
    (launchOutput x black blFirst restore).Keeps State.powerState :=
  keeps_look fun _ => keeps_when fun _ => keeps_seq (fun _ => rfl) <| keeps_seq (fun _ => rfl) <|
    keeps_seq (fun _ => rfl) <| keeps_seq (lockSplash_keepsPower _) <| keeps_when fun _ =>
      keepsPower_of_within (within_armOutput (partsLe_refl _)) rfl rfl

theorem startOutput_keepsPower (x : Nat) : (startOutput x).Keeps State.powerState :=
  keeps_look fun _ => keeps_when fun _ =>
    keeps_ite (keeps_seq (fun _ => rfl) fun _ => rfl) (launchOutput_keepsPower _ _ _ _)

theorem restartDisplays_keepsPower : restartDisplays.Keeps State.powerState :=
  keeps_each fun _ => keeps_look fun _ => keeps_when fun _ =>
    keeps_ite (launchOutput_keepsPower _ _ _ _) (startOutput_keepsPower _)

theorem restartDisplays_boot (s : State) : (restartDisplays.run s).boot = s.boot :=
  within_restartDisplays (partsLe_refl _) s .boot rfl

theorem stopDisplays_keepsPower (k : StopKind) : (stopDisplays k).Keeps State.powerState :=
  keepsPower_of_within (within_stopDisplays (partsLe_refl _)) rfl rfl

/-! ### QUIET (R43, R44) -/

/-- From QUIET back to RUNNING: the displays' restart is the last step. -/
theorem run_leaveQuiet (hq : s.lamp.power = .quiet) : ∃ u : State, leaveQuiet.run s
      = restartDisplays.run u ∧ u.lamp.power = .running ∧ u.ave.ddrSelfRefresh = false
      ∧ u.boot = s.boot := by
  refine ⟨_, by rw [leaveQuiet, run_look, run_when_pos hq, run_all_cons, run_all_cons,
    run_all_cons, run_all_cons, run_all_cons, run_all_cons, run_all_nil], ?_⟩
  have hdue : ∀ u : State, (allDue.run u).lamp = u.lamp ∧ (allDue.run u).ave = u.ave
      ∧ (allDue.run u).boot = u.boot := fun u =>
    ⟨within_allDue (partsLe_refl _) u .lamp rfl, within_allDue (partsLe_refl _) u .ave rfl,
      within_allDue (partsLe_refl _) u .boot rfl⟩
  have hclock : ∀ u : State, (reclockUnits.run u).lamp = u.lamp ∧ (reclockUnits.run u).ave = u.ave
      ∧ (reclockUnits.run u).boot = u.boot := fun u =>
    ⟨setReg_lamp .., setReg_ave .., setReg_boot ..⟩
  refine ⟨?_, ?_, ?_⟩
  · rw [(hdue _).1, (hclock _).1]
    rfl
  · rw [(hdue _).2.1, (hclock _).2.1]
    rfl
  · rw [(hdue _).2.2, (hclock _).2.2]
    rfl

theorem leaveQuiet_runs (hq : s.lamp.power = .quiet) : (leaveQuiet.run s).lamp.power = .running
    ∧ (leaveQuiet.run s).ave.ddrSelfRefresh = false ∧ (leaveQuiet.run s).boot = s.boot := by
  obtain ⟨u, hrun, hpower, hrefresh, hboot⟩ := run_leaveQuiet hq
  have hkeep := restartDisplays_keepsPower u
  rw [hrun]
  exact ⟨(power_of_powerState hkeep).trans hpower, (selfRefresh_of_powerState hkeep).trans hrefresh,
    (restartDisplays_boot u).trans hboot⟩

theorem enterQuiet_quiet (hr : s.lamp.power = .running) (hp : s.lamp.parkStep = 0) :
    (enterQuiet.run s).lamp.power = .quiet := by
  have hgate : ∀ u : State, (quietGate.run u).lamp.power = u.lamp.power := by
    intro u
    rw [quietGate, run_look, Prog.when]
    split
    · simp [stopPlls, unlockPlls]
    · rfl
  rw [enterQuiet, run_look, run_when_pos ⟨hr, hp⟩, run_all_cons, run_all_cons, run_all_cons,
    run_all_nil, hgate, power_of_powerState (stopDisplays_keepsPower _ _)]
  rfl

/-! ### The park sequence (R46) -/

theorem openStops_eq (h : t.wrd.slots = s.wrd.slots) : t.openStops = s.openStops := by
  rw [State.openStops, State.openStops, h]

/-- With no open stop there is none to withdraw. -/
theorem run_withdrawQueue (h : s.openStops = []) (q status : Nat) :
    (withdrawQueue q status).run s = s := by
  rw [withdrawQueue, run_look, State.openOf, h]
  rfl

theorem run_withdrawQueues (h : s.openStops = []) (l : List Nat) (status : Nat) :
    (Prog.each l fun q => withdrawQueue q status).run s = s := by
  induction l with
  | nil => rfl
  | cons q l ih => rw [run_each_cons, run_withdrawQueue h, ih]

theorem run_parkDrained (h3 : s.lamp.parkStep = 3) (h : s.openStops = []) : parkDrained.run s
    = (Prog.seq (Prog.when (s.boot.handedOver = true) (retWrite 0x20 (leBytes 8 s.boot.buildId)))
        (modLamp fun l => { l with parkStep := 6 })).run
      ((modLamp fun l => { l with parkStep := 4 }).run s) := by
  have hopen : ((modLamp fun l => { l with parkStep := 4 }).run s).openStops = [] := h
  have hstep : ((modLamp fun l => { l with parkStep := 4 }).run s).lamp.parkStep = 4 := rfl
  rw [parkDrained, run_look, run_when_pos h3, run_all_cons, run_all_cons, run_all_cons,
    run_all_nil, run_withdrawQueues hopen, parkWithdrawn, run_look, run_when_pos ⟨hstep, hopen⟩]
  rfl

theorem parkDrained_done (h3 : s.lamp.parkStep = 3) (h : s.openStops = []) :
    (parkDrained.run s).lamp.parkStep = 6 ∧ (parkDrained.run s).wrd = s.wrd
      ∧ s.onlyChanges [.mem .retA, .mem .retB, .lamp] (parkDrained.run s) := by
  have hwithin : (Prog.seq (modLamp fun l => { l with parkStep := 4 }) (Prog.seq
      (Prog.when (s.boot.handedOver = true) (retWrite 0x20 (leBytes 8 s.boot.buildId)))
      (modLamp fun l => { l with parkStep := 6 }))).Within [.mem .retA, .mem .retB, .lamp] :=
    within_seq (within_modLamp rfl) <|
      within_seq (within_when (within_retWrite (partsLe_refl _))) (within_modLamp rfl)
  rw [run_parkDrained h3 h]
  exact ⟨rfl, hwithin s .wrd rfl, onlyChanges_of_within hwithin s⟩

/-- The park decision in a live device with no park sequence under way. -/
theorem run_startPark (hl : s.live = true) (hp : s.lamp.parkStep = 0) (drain : Nat) :
    ∃ u : State, (startPark drain).run s
        = (Prog.when (drain = 0 ∨ s.openStops = []) parkDrained).run u
      ∧ u.lamp.parkStep = 3 ∧ u.wrd.closed = true ∧ u.openStops = s.openStops := by
  have hwrd : ∀ (k : StopKind) (u : State), ((stopDisplays k).run u).wrd = u.wrd := fun k u =>
    within_stopDisplays (partsLe_refl _) u .wrd rfl
  refine ⟨_, by rw [startPark, run_look, run_when_pos ⟨hl, hp⟩, run_all_cons, run_all_cons,
    run_all_cons, run_all_cons, run_all_nil], ?_, rfl, openStops_eq ?_⟩
  · rw [run_modWrd, act_wrd_lamp, parkStep_of_powerState (stopDisplays_keepsPower _ _)]
    rfl
  · rw [run_modWrd, act_wrd_wrd, hwrd]
    rfl

/-! ### Requests (R45, R77) -/

/-- The word that a power request commits has the target in its low bits. -/
theorem bits_target {target : Nat} (h : target < 3) (drain : Nat) :
    bits (target + drain % 256 * 256) 1 0 = target := by
  unfold bits
  omega

section request
variable {drain : Nat}

theorem exec_pwrReqRunning (hl : s.live = true) (drain : Nat) :
    exec (.pwrReqRunning drain) s = .next ((Prog.when (s.lamp.parkStep = 0) leaveQuiet).run
      ((modBoot fun b => { b with heldRequest := 0 }).run
        ((setReg R.SYS_PWR_REQ (drain % 256 * 256)).run s))) := by
  have ht : exec (.pwrReqRunning drain) s = .next _ := outcome_when hl _ _
  have htarget : bits (drain % 256 * 256) 1 0 = 0 := by simpa using bits_target (target := 0) (by decide) drain
  rw [ht, pwrCommit, run_seq, run_look]
  dsimp only
  rw [if_pos htarget, run_seq, setReg_lamp]

theorem pwrReqRunning_stays (hr : s.lamp.power = .running) (drain : Nat) :
    ∃ t, exec (.pwrReqRunning drain) s = .next t ∧ t.lamp.power = .running
      ∧ t.boot.heldRequest = 0 := by
  have hl : s.live = true := by simp [State.live, hr]
  refine ⟨_, exec_pwrReqRunning hl drain, ?_⟩
  have hstay : ∀ u : State, u.lamp.power = .running →
      (Prog.when (s.lamp.parkStep = 0) leaveQuiet).run u = u := by
    intro u hu
    rw [Prog.when]
    split
    · exact run_leaveQuiet_of_ne (by simp [hu])
    · rfl
  rw [hstay _ (by simp [hr])]
  exact ⟨by simp [hr], rfl⟩

theorem pwrReqRunning_leavesQuiet (hq : s.lamp.power = .quiet) (hp : s.lamp.parkStep = 0)
    (drain : Nat) : ∃ t, exec (.pwrReqRunning drain) s = .next t ∧ t.lamp.power = .running
      ∧ t.boot.heldRequest = 0 ∧ t.ave.ddrSelfRefresh = false := by
  have hl : s.live = true := by simp [State.live, hq]
  refine ⟨_, exec_pwrReqRunning hl drain, ?_⟩
  rw [run_when_pos hp]
  obtain ⟨hpower, hrefresh, hboot⟩ := leaveQuiet_runs (s := (modBoot fun b =>
    { b with heldRequest := 0 }).run ((setReg R.SYS_PWR_REQ (drain % 256 * 256)).run s))
    (by simp [hq])
  exact ⟨hpower, by rw [hboot]; rfl, hrefresh⟩

/-- A request for QUIET or PARKED reaches the power-state controller. -/
theorem run_pwrCommit {target : Nat} (ht : target = 1 ∨ target = 2) (drain : Nat) (s : State) :
    (pwrCommit (target + drain % 256 * 256)).run s = (requestPower target
      ((setReg R.SYS_PWR_REQ (target + drain % 256 * 256)).run s).parkDrain).run
      ((setReg R.SYS_PWR_REQ (target + drain % 256 * 256)).run s) := by
  rw [pwrCommit, run_seq, run_look]
  dsimp only
  rw [bits_target (by omega), if_neg (by omega), if_neg (by omega)]

theorem settled_setReg (r : Reg) (v : Nat) (s : State) : ((setReg r v).run s).settled = s.settled := by
  simp [State.settled]

/-- Before the loader has settled a request is held (R77). -/
theorem pwrCommit_held {target : Nat} (ht : target = 1 ∨ target = 2) (hs : s.settled = false)
    (drain : Nat) : ((pwrCommit (target + drain % 256 * 256)).run s).boot.heldRequest = target
      ∧ ((pwrCommit (target + drain % 256 * 256)).run s).lamp = s.lamp := by
  rw [run_pwrCommit ht, requestPower, run_look, if_pos (by rwa [settled_setReg])]
  exact ⟨rfl, by simp⟩

theorem run_requestPower_quiet (hs : s.settled = true) (drain : Nat) :
    (requestPower 1 drain).run s = enterQuiet.run s := by
  rw [requestPower, run_look, if_neg (by simp [hs]), if_pos rfl]

theorem run_requestPower_parked (hs : s.settled = true) (drain : Nat) :
    (requestPower 2 drain).run s = (startPark drain).run s := by
  rw [requestPower, run_look, if_neg (by simp [hs]), if_neg (by decide), run_when_pos rfl]

end request

theorem pwrReqQuiet_quiet (hr : s.lamp.power = .running) (hp : s.lamp.parkStep = 0)
    (hs : s.settled = true) (drain : Nat) :
    ∃ t, exec (.pwrReqQuiet drain) s = .next t ∧ t.lamp.power = .quiet := by
  have hl : s.live = true := by simp [State.live, hr]
  refine ⟨_, outcome_when hl _ _, ?_⟩
  rw [run_pwrCommit (.inl rfl), run_requestPower_quiet (by rwa [settled_setReg])]
  exact enterQuiet_quiet (by simp [hr]) (by simp [hp])

theorem pwrReqParked_parks (hl : s.live = true) (hp : s.lamp.parkStep = 0) (hs : s.settled = true)
    (ho : s.openStops = []) (drain : Nat) :
    ∃ t, exec (.pwrReqParked drain) s = .next t ∧ t.lamp.parkStep = 6 ∧ t.wrd.closed = true := by
  refine ⟨_, outcome_when hl _ _, ?_⟩
  rw [run_pwrCommit (.inr rfl), run_requestPower_parked (by rwa [settled_setReg])]
  generalize hu : (setReg R.SYS_PWR_REQ (2 + drain % 256 * 256)).run s = u
  have hopen : u.openStops = [] := by rw [← ho, ← hu]; exact openStops_eq (by simp)
  obtain ⟨v, hv, h3, hclosed, hvopen⟩ := run_startPark (s := u)
    (by rw [← hu]; simpa [State.live] using hl) (by rw [← hu]; simpa using hp) u.parkDrain
  obtain ⟨h6, hwrd, _⟩ := parkDrained_done h3 (hvopen.trans hopen)
  rw [hv, run_when_pos (.inr hopen)]
  exact ⟨h6, by rw [hwrd]; exact hclosed⟩

theorem ignOffDelay_quiet (hr : s.lamp.power = .running) (hp : s.lamp.parkStep = 0)
    (hs : s.settled = true) (hpair : s.pairOk R.LAMP_PARK_POLICY 0 0 = true)
    (hf : s.flag F.LAMP_PARK_POLICY_IGN_QUIET = true) (hi : s.ignLevel = false) :
    ∃ t, exec .ignOffDelayExpire s = .next t ∧ t.lamp.power = .quiet := by
  have ht : exec .ignOffDelayExpire s = .next _ := outcome_when ⟨hr, hi⟩ _ _
  refine ⟨_, ht, ?_⟩
  rw [run_seq, run_usePair_of_pairOk hpair, run_when_pos hf, run_requestPower_quiet hs]
  exact enterQuiet_quiet hr hp

/-- The QUIET time-out starts the park sequence, which waits while a stop is open. -/
theorem quietTimeout_parks (hq : s.lamp.power = .quiet) (hp : s.lamp.parkStep = 0)
    (ho : s.openStops ≠ []) (hticks : s.fld F.LAMP_PARK_POLICY_QUIET_TIMEOUT ≠ 0)
    (hlow : ((upTo 3).all fun k => !s.wakeEnabled k || !(s.wakeFilter k).filtered) = true) :
    ∃ t, exec .quietTimeout s = .next t ∧ t.lamp.parkStep = 3 ∧ t.wrd.closed = true := by
  have ht : exec .quietTimeout s = .next _ := outcome_when hq _ _
  refine ⟨_, ht, ?_⟩
  rw [run_seq, run_when_pos ⟨hticks, hlow⟩]
  have hkeep := useRegs_keepsPower [R.LAMP_PARK_POLICY, R.LAMP_WAKE_EN, R.SYS_PWR_REQ] s
  have hwrd : ((useRegs [R.LAMP_PARK_POLICY, R.LAMP_WAKE_EN, R.SYS_PWR_REQ]).run s).wrd = s.wrd :=
    useRegs_keeps (fun _ s => raise_wrd s _ _ _ _ _ _) (fun r v i j s => setReg_wrd s r v i j) _ s
  generalize (useRegs [R.LAMP_PARK_POLICY, R.LAMP_WAKE_EN, R.SYS_PWR_REQ]).run s = u
    at hkeep hwrd ⊢
  have hopen : u.openStops ≠ [] := by rwa [openStops_eq (congrArg (·.slots) hwrd)]
  have hdrain : s.parkDrain ≠ 0 := by
    unfold State.parkDrain zeroAsOne
    split <;> omega
  obtain ⟨v, hv, h3, hclosed, _⟩ := run_startPark (s := u)
    (by simp [State.live, power_of_powerState hkeep, hq])
    ((parkStep_of_powerState hkeep).trans hp) s.parkDrain
  rw [hv, run_when_neg (by tauto), run_skip]
  exact ⟨h3, hclosed⟩

theorem parkPowerOff_parks (hl : s.live = true) (h6 : s.lamp.parkStep = 6)
    (hf : s.boot.flashOp = none) : ∃ t, exec .parkPowerOff s = .next t
      ∧ t.lamp.power = .parked ∧ t.lamp.pmicEn = false ∧ t.leases = [] ∧ t.boot = Boot.reset
      ∧ t.flash = s.flash ∧ t.retA = s.retA ∧ t.retB = s.retB := by
  have ht : exec .parkPowerOff s = .next _ := outcome_when ⟨hl, h6, hf⟩ _ _
  have hmem : ∀ id, coveredBy (allBut (.mem id)) (.mem id) = false →
      partsLe [.mem .icon, .mem .img, .allRegs, .pend, .leases, .lamp, .rcl, .boot, .ave, .xlt, .wrd,
        .xng, .cam, .ras, .dst, .rbt, .sco, .sgn, .hv, .can, .svc, .ports, .brg]
        (allBut (.mem id)) = true → (logicReset.run s).mem id = s.mem id :=
    fun id hq hle => same_after (q := .mem id) (within_logicReset hle) hq s
  refine ⟨_, ht, ?_⟩
  rw [run_all_cons, run_all_cons, run_all_cons, run_all_nil]
  exact ⟨by simp, by simp, by simp, by simp, by simp, hmem .retA (by decide) (by decide),
    hmem .retB (by decide) (by decide)⟩

/-- Settles O11. -/
theorem quietAndPark : Obligations.QuietAndPark :=
  ⟨fun _ d hr => pwrReqRunning_stays hr d,
    fun _ d hq hp => pwrReqRunning_leavesQuiet hq hp d,
    fun _ d hl hs => ⟨⟨_, outcome_when hl _ _, pwrCommit_held (.inl rfl) hs d⟩,
      _, outcome_when hl _ _, pwrCommit_held (.inr rfl) hs d⟩,
    fun _ d hr hp hs => pwrReqQuiet_quiet hr hp hs d,
    fun _ d hl hp hs ho => pwrReqParked_parks hl hp hs ho d,
    fun _ hr hp hs hpair hf hi => ignOffDelay_quiet hr hp hs hpair hf hi,
    fun _ hq hp ho _ _ hticks hlow => quietTimeout_parks hq hp ho hticks hlow,
    fun _ h3 ho => by
      obtain ⟨h6, _, honly⟩ := parkDrained_done h3 ho
      exact ⟨_, rfl, h6, honly⟩,
    fun _ hl h6 hf => parkPowerOff_parks hl h6 hf⟩

end Sys2Proof.Machine
end

section
/-! PROOFS. Statements that a concrete state refutes: a thermal sample that meets a disagreeing pair
of another district (O13), and a lease that ends while a lock is waited for (O20). -/

set_option Elab.async false

namespace Sys2Proof.Machine

/-- The state that a command leaves, where it answers one. -/
def State.after (s : State) (c : Instr) : State :=
  match exec c s with
  | .next t => t
  | _ => s

theorem after_eq {s t : State} {c : Instr} (h : exec c s = .next t) : s.after c = t := by
  rw [State.after, h]

/-! ### A thermal sample and the other districts' calibration pairs (O13) -/

/-- The device in RUNNING, otherwise as after reset. -/
def State.up : State := { State.reset with lamp := { Lamp.reset with power := .running } }

/-- RUNNING, with district 1's DST_CAL_CTRL pair in disagreement. -/
def State.calPairBroken : State := { State.up with regs := [(R.DST_CAL_CTRL.at 1 0, 1)] }

/-- A sample reads DST_CAL_CTRL of every district, so that district 1's pair raises its fault. -/
theorem calPairBroken_raises :
    (State.calPairBroken.after (.thermalSample (List.replicate 12 20))).nextSeq = 2 := by
  decide +kernel

/-- Refutes O13: a thermal sample uses the calibration pairs of all eight districts, and the
statement asks only that district 0's agree. -/
theorem not_pllLossRetentionScrubAndThermalSample :
    ¬ Obligations.PllLossRetentionScrubAndThermalSample := by
  intro h
  obtain ⟨-, -, -, hsample⟩ := h
  obtain ⟨t, ht, heq⟩ := (hsample State.calPairBroken 20 rfl (by decide +kernel) rfl
    (by decide +kernel) rfl (by decide +kernel) (by decide)).1 (by decide +kernel)
  have hseq := calPairBroken_raises
  rw [after_eq ht, heq] at hseq
  exact absurd hseq (by decide)

/-! ### A lock that is waited for (O20) -/

/-- The lease of a region lock that queue 0 holds. -/
def lockLease : Lease := ⟨1, 1, 0, 0, 1, 0⟩

/-- RUNNING, with every lock entry taken by queue 0 and one acquisition of queue 1 waiting. -/
def State.locksFull : State :=
  { State.up with
    leases := [(0, lockLease)]
    ave := { Ave.reset with
      locks := List.replicate 64 (some ⟨0, 1, 1, .queue 0, false⟩)
      lockWait := [⟨1, 1, 1, .queue 1, false⟩] } }

/-- R122: the freed entry goes to the acquisition that waits. -/
theorem locksFull_hands_on :
    nth none (State.locksFull.after (.queueLeaseExpire 0)).ave.locks 0
      = some ⟨1, 1, 1, .queue 1, false⟩ := by
  decide +kernel

/-- Refutes O20: a lock entry that an expired lease frees goes at once to the acquisition that has
waited longest for one (R122), and is then not free. -/
theorem not_leasesRenewedAndExpired : ¬ Obligations.LeasesRenewedAndExpired := by
  intro h
  obtain ⟨-, -, hexpire⟩ := h
  obtain ⟨t, ht, hlock, -⟩ := hexpire State.locksFull 0 lockLease rfl rfl rfl (by decide)
    (by decide +kernel)
  have hgone := (hlock rfl (by decide)).1
  rw [← after_eq ht, locksFull_hands_on] at hgone
  exact absurd hgone (by decide)

end Sys2Proof.Machine
end

section
/-! PROOFS. Statements that a concrete state refutes: a store to a memory that is not in canonical
form (O25), an UNLOCK with an acquisition waiting (O23), a secondary's DSI packet (O35), a status
message on one of two CAN controllers (O37), a GENERATE onto its own descriptor's source (O39), and a
calibration period whose control pair disagrees (O49). -/

set_option Elab.async false

namespace Sys2Proof.Machine

/-! ### Plaza outside canonical form (O25) -/

/-- Plaza with the byte of address 3 behind that of address 4096, where a read does not find it. -/
def State.plazaUnsorted : State := { State.up with plaza := [(4096, 1), (3, 7)] }

/-- A stop of queue 0 whose range 0 is the page at 4096. -/
def pageStop : Stop where
  route := 0
  pos := 0
  index := 0
  queue := 0
  iter := 0
  words := []
  desc := []
  runs := some ⟨[⟨1, 1, true, true, 0⟩], 1, 1, 0, 0, 0, 0⟩
  wait0 := .open
  wait1 := .open
  rerun := false

theorem pageStop_pa_lt (x y : Nat) : pageStop.pa x y < 8192 := by
  have hrun : ∀ off, runsPa [(⟨1, 1, true, true, 0⟩ : Run)] off < 8192 := by
    intro off
    simp only [runsPa]
    split <;> omega
  simp only [Stop.pa, Stop.runsOf, pageStop, List.filter]
  split
  · exact hrun _
  · simp [runsPa]

theorem plazaUnsorted_reveals :
    ((stopWrite 0 pageStop 0 0 [0]).run State.plazaUnsorted).paByte 3 = 7 := by
  decide +kernel

/-- Refutes O25: the statement does not ask for a Plaza in canonical form, and the removal of its first
entry lets a later one be read. -/
theorem not_stopWritesStayInTheirRange : ¬ Obligations.StopWritesStayInTheirRange := by
  intro h
  have hpieces : ∀ p ∈ pageStop.pieces 0 ([0].length / 4096 + 2) 0 [(0 : Byte)].length,
      ¬ (p.1 ≤ 3 ∧ 3 < p.1 + p.2) := by decide +kernel
  have hchip (x y : Nat) : onChip (State.plazaUnsorted.place (pageStop.pa x y)) = true := by
    have htop : State.plazaUnsorted.plazaTop = 0x2800000 := by decide +kernel
    have hlt := pageStop_pa_lt x y
    rw [State.place, htop, if_pos (by omega)]
    rfl
  have hkept := h State.plazaUnsorted 0 pageStop 0 0 [0] 3 rfl rfl hchip hpieces
    (by decide +kernel)
  rw [plazaUnsorted_reveals] at hkept
  exact absurd hkept (by decide +kernel)

/-! ### An UNLOCK with an acquisition waiting (O23) -/

/-- The page that queue 0 has locked, and locks a second time as soon as an entry is free. -/
def heldPage : RegionLock := ⟨1, 1, 1, .queue 0, false⟩

/-- An UNLOCK of that page. -/
def unlockStop : Stop := { pageStop with words := [5] }

/-- RUNNING, with the UNLOCK as queue 0's oldest stop and a second acquisition of its page waiting. -/
def State.unlockDue : State :=
  { State.up with
    wrd := { Wrd.reset with
      queues := { Queue.reset 0 with state := 1, enq := [unlockStop] }
        :: (List.range' 1 15).map Queue.reset }
    ave := { Ave.reset with
      locks := some heldPage :: List.replicate 63 none
      lockWait := [heldPage] } }

/-- R122: the entry that the UNLOCK frees goes to the acquisition that waits. -/
theorem unlockDue_takes_again :
    nth none (State.unlockDue.after (.unlock 0)).ave.locks 0 = some heldPage := by
  decide +kernel

theorem unlockDue_crossing (n : Nat) : (State.unlockDue.crossing n).pairsOk = true := by
  have hcells : State.unlockDue.xng.cells = [] := rfl
  simp only [State.crossing, hcells, keyGet]
  decide +kernel

/-- Refutes O23: an entry that UNLOCK frees goes at once to the acquisition that has waited longest
for one (R122), which may be the same queue's for the same pages. -/
theorem not_dispatchAndWardenOpcodes : ¬ Obligations.DispatchAndWardenOpcodes := by
  intro h
  obtain ⟨-, hops⟩ := h
  obtain ⟨-, -, -, -, hunlock⟩ := hops State.unlockDue 0 unlockStop [] (by decide) rfl rfl
    unlockDue_crossing (by decide +kernel) rfl rfl
  obtain ⟨t, ht, -, hfree⟩ := hunlock (by decide +kernel)
  have hgone := hfree _ ⟨1, 1, true, true, 0⟩ 0 heldPage rfl (by simp) (by decide)
  rw [← after_eq ht] at hgone
  exact hgone unlockDue_takes_again rfl ⟨rfl, rfl⟩

/-! ### A DSI packet on a secondary (O35) -/

/-- A secondary whose output 0 drives its idle D-PHY, with a packet of type 0x05 in its registers. -/
def State.secondaryDsi : State :=
  { State.up with
    regs := [(R.SYS_STATE.at 0 0, 0x1003), (R.SCO_DSI_TX_HDR.at 0 0, 0x05)]
    sco := { Sco.reset with outs := { Output.reset with dphyOn := true } :: [Output.reset] } }

theorem secondaryDsi_refuses :
    (State.secondaryDsi.after (.dsiTxGo 0)).fld F.SCO_DSI_TX_STATUS_ERR 0 = 1 := by
  decide +kernel

/-- Refutes O35: a secondary sends no DSI packet (R425) and shows ERR, and the statement does not leave
the secondary out. -/
theorem not_panelSequencesAndChanges : ¬ Obligations.PanelSequencesAndChanges := by
  intro h
  obtain ⟨-, -, hdsi⟩ := h
  obtain ⟨t, ht, herr, -⟩ := (hdsi State.secondaryDsi 0 (by decide) rfl).2 (by decide +kernel)
    (by decide +kernel) (by decide +kernel) rfl rfl
  rw [← after_eq ht, secondaryDsi_refuses] at herr
  exact absurd herr (by decide)

/-! ### The status message and the other CAN controller (O37) -/

/-- An icon has failed and controller 0 sends the message, with controller 1's CAN_CTRL pair in
disagreement. -/
def State.canPairBroken : State :=
  { State.up with
    regs := [(R.SGN_FAIL_LO.at 0 0, 1), (R.CAN_CTRL.at 1 0, 1)]
    boot := { Boot.reset with phase := 2 } }

theorem canPairBroken_raises :
    (State.canPairBroken.after .signpostStatusRepeat).nextSeq = 2 := by
  decide +kernel

/-- Refutes O37: the status message uses CAN_CTRL of both controllers, and a pair that disagrees is
recorded in the fault ring, which the statement says is unchanged. -/
theorem not_iconsAndTheirSram : ¬ Obligations.IconsAndTheirSram := by
  intro h
  obtain ⟨-, -, -, -, hstatus⟩ := h
  obtain ⟨t, ht, -, hframe⟩ := hstatus State.canPairBroken 0 (by decide) rfl (by decide +kernel)
    (by decide) (by decide +kernel) (by decide +kernel) (by decide +kernel)
  have hseq := canPairBroken_raises
  rw [after_eq ht] at hseq
  obtain ⟨-, hkept⟩ := hframe.1 .ring (by decide)
  exact absurd (hkept.symm.trans hseq) (by decide)

/-! ### A GENERATE that overwrites its own source (O39) -/

/-- A GENERATE for stand 1 of track 0 whose image, vector field and source all stand at address 0. -/
def generateOverSource : Stop :=
  { pageStop with
    words := [0x40]
    desc := [0, 0, 0, 0, 64, 0, 1, 0, 1] ++ zeros 63 ++ [16]
    runs := none }

/-- That GENERATE in slot 0, executing. -/
def generateSlot : OpenStop :=
  ⟨0, generateOverSource, [], [], true, 0, [], 0, none, [], 0, false, false, false, none, []⟩

/-- The candidate on stand 0, with the PN that the vector field names. -/
def sourceCand : Cand := ⟨0, 0, 0, 0x01010101, 0⟩

/-- RUNNING, with the GENERATE in slot 0 and its source pending on track 0. -/
def State.generating : State :=
  { State.up with
    plaza := [(0, 1)]
    wrd := { Wrd.reset with slots := some generateSlot :: List.replicate 63 none }
    rbt := { Rbt.reset with
      tracks := { Track.reset with enabled := true, pending := [sourceCand] }
        :: List.replicate 5 Track.reset } }

theorem generating_ends_without_source :
    (State.generating.after (.generate 0 false)).slotOf 0 = some generateSlot := by
  decide +kernel

theorem generating_ready : State.generating.ready 0 0x40 generateSlot := by
  refine ⟨by decide +kernel, by decide +kernel, rfl, rfl, rfl, rfl, fun k off => ?_,
    by decide +kernel⟩
  have hpa : generateSlot.stop.pa k off = 0 := rfl
  rw [hpa]
  decide +kernel

/-- Refutes O39: a GENERATE whose image overwrites the PN of its vector field finds no source at its
end, and registers no candidate. -/
theorem not_generateRelocateCompose : ¬ Obligations.GenerateRelocateCompose := by
  intro h
  obtain ⟨t, ht, hdone, -⟩ := h.1 State.generating 0 generateSlot sourceCand generating_ready
    (by decide +kernel) (by decide +kernel) (by decide +kernel) (by decide +kernel)
    (by decide +kernel) (by decide +kernel) (by decide +kernel)
  rw [← after_eq ht, generating_ends_without_source] at hdone
  exact absurd hdone (by decide +kernel)

/-! ### A calibration period with its control pair in disagreement (O49) -/

/-- Array 0 mapped, with its district's DST_CAL_CTRL pair in disagreement. -/
def State.periodEnds : State :=
  { State.up with
    regs := [(R.DST_CAL_CTRL.at 0 0, 1)]
    dst := { Dst.reset with mapped := true } }

theorem periodEnds_raises :
    (State.periodEnds.after (.calibrationPeriodExpire 0)).nextSeq = 2 := by
  decide +kernel

/-- Refutes O49: the end of a calibration period uses DST_CAL_CTRL, and a pair that disagrees is
recorded in the fault ring, which the statement says is unchanged. -/
theorem not_calibrationAndSweep : ¬ Obligations.CalibrationAndSweep := by
  intro h
  obtain ⟨t, ht, -, -, hframe⟩ := h.1 State.periodEnds 0 (by decide) (by decide +kernel) rfl
    (by decide +kernel)
  have hseq := periodEnds_raises
  rw [after_eq ht] at hseq
  obtain ⟨-, hkept⟩ := hframe.1 .ring (by decide)
  exact absurd (hkept.symm.trans hseq) (by decide)

end Sys2Proof.Machine
end

section
/-! PROOFS. Statements about the service ports and the intake that a disagreeing complement pair
refutes (O56, O57). -/

set_option Elab.async false

namespace Sys2Proof.Machine

/-! ### An IDENT and the interlock's pair (O56) -/

/-- The device after its hand-over, with SVC_INTERLOCK's pair in disagreement. -/
def State.interlockPairBroken : State :=
  { State.up with
    regs := [(R.SVC_INTERLOCK.at 0 0, 5)]
    boot := { Boot.reset with phase := 6 }
    svc := { Svc.reset with portsRun := true } }

theorem interlockPairBroken_takes :
    State.interlockPairBroken.takesCmd 2 ⟨1, 0, [], true, true⟩ where
  takes := by decide +kernel
  idle := by decide +kernel
  ports := by decide +kernel
  order := by decide +kernel
  rate := by decide +kernel
  known := by decide
  args := by decide +kernel
  settled := by decide +kernel
  free := by decide +kernel
  room := by decide +kernel

theorem interlockPairBroken_raises :
    (State.interlockPairBroken.after (.gspIdent 2 0 [])).nextSeq = 2 := by
  decide +kernel

/-- Refutes O56: every command uses SVC_INTERLOCK, and a pair that disagrees is recorded in the fault
ring, which the statement says IDENT leaves unchanged. -/
theorem not_serviceCommands : ¬ Obligations.ServiceCommands := by
  intro h
  obtain ⟨t, ht, -, hframe⟩ := h.1 State.interlockPairBroken 2 interlockPairBroken_takes
  have hseq := interlockPairBroken_raises
  rw [after_eq ht] at hseq
  obtain ⟨-, hkept⟩ := hframe.1 .ring (by decide)
  exact absurd (hkept.symm.trans hseq) (by decide)

/-! ### A remote frame and the pair of the request identifier (O57) -/

/-- RUNNING, with CAN0_GSP_ID's pair in disagreement. -/
def State.gspIdPairBroken : State := { State.up with regs := [(R.CAN_GSP_ID.at 0 0, 5)] }

theorem gspIdPairBroken_raises :
    (State.gspIdPairBroken.after (.canFrameReceived 0 1 false true [] true)).nextSeq = 2 := by
  decide +kernel

/-- Refutes O57: a frame received uses CAN_GSP_ID, and a pair that disagrees is recorded in the fault
ring, which the statement says a remote frame leaves unchanged. -/
theorem not_portsMirrorsAndFrames : ¬ Obligations.PortsMirrorsAndFrames := by
  intro h
  obtain ⟨⟨t, ht, -, -, hframe⟩, -⟩ := h.1 State.gspIdPairBroken 0 1 [] (by decide)
    (by decide +kernel) (by decide +kernel)
  have hseq := gspIdPairBroken_raises
  rw [after_eq ht] at hseq
  obtain ⟨-, hkept⟩ := hframe.1 .ring (by decide)
  exact absurd (hkept.symm.trans hseq) (by decide)

end Sys2Proof.Machine
end

section
/-! PROOFS. The instructions of the combiner (O46). -/

set_option Elab.async false

namespace Sys2Proof.Machine

/-- Core `n` after an operation on every lane. -/
def State.withLanes (s : State) (n : Nat) (f : Lane → Lane) : State :=
  let core := nth Core.reset s.ras.cores n
  { s with ras := { s.ras with
    cores := upd s.ras.cores n { core with lanes := core.lanes.map f } } }

theorem run_combStep (n : Nat) (ins : CombIns) (f : V4 → V4 → V4 → V4) (s : State) :
    (combStep n ins f).run s = s.withLanes n fun l =>
      laneWrite ins (f (laneSrc (nth Core.reset s.ras.cores n).consts l ins.a)
        (laneSrc (nth Core.reset s.ras.cores n).consts l ins.b)
        (laneSrc (nth Core.reset s.ras.cores n).consts l ins.c)) l := rfl

/-- TEX on a core that runs the fragments of slot `i` samples the texture of its draw. -/
theorem exec_tex {s : State} {n i : Nat} {ins : CombIns} {o : OpenStop}
    (hslot : (nth Core.reset s.ras.cores n).slot = some i) (ho : s.slotOf i = some o)
    (hf : (nth Core.reset s.ras.cores n).fragment = true)
    (ht : nth 0xFF (nth Core.reset s.ras.cores n).tex ins.sampler ≠ 0xFF) :
    exec (.tex n ins) s = .next ((combStep n ins fun a _ _ =>
      s.sampleTex o (s.coreTex (nth Core.reset s.ras.cores n) o ins.sampler) a.x a.y).run s) := by
  show execTex n ins s = _
  rw [execTex, Prog.outcome, run_look]
  dsimp only
  rw [hslot, Option.bind_some, ho]
  dsimp only
  rw [run_when_pos ⟨hf, ht⟩]

theorem exec_kil {s : State} {n : Nat} {ins : CombIns}
    (hf : (nth Core.reset s.ras.cores n).fragment = true) :
    exec (.kil n ins) s = .next (s.withLanes n fun l => { l with
      discarded := l.discarded
        || combKil (laneSrc (nth Core.reset s.ras.cores n).consts l ins.a) }) := by
  show execKil n ins s = _
  rw [execKil, Prog.outcome, modCore, run_modRas, if_pos hf]
  rfl

/-- Settles O46: the 22 operations that only compute are `combStep` of their own function. -/
theorem combinerInstructions : Obligations.CombinerInstructions := by
  unfold Obligations.CombinerInstructions
  intro s n ins
  refine ⟨⟨_, rfl, rfl⟩, ⟨_, rfl, rfl⟩, ⟨_, rfl, rfl⟩, ⟨_, rfl, rfl⟩, ⟨_, rfl, rfl⟩, ⟨_, rfl, rfl⟩,
    ⟨_, rfl, rfl⟩, ⟨_, rfl, rfl⟩, ⟨_, rfl, rfl⟩, ⟨_, rfl, rfl⟩, ⟨_, rfl, rfl⟩, ⟨_, rfl, rfl⟩,
    ⟨_, rfl, rfl⟩, ⟨_, rfl, rfl⟩, ⟨_, rfl, rfl⟩, ⟨_, rfl, rfl⟩, ⟨_, rfl, rfl⟩, ⟨_, rfl, rfl⟩,
    ⟨_, rfl, rfl⟩, ⟨_, rfl, rfl⟩, ⟨_, rfl, rfl⟩, ⟨_, rfl, rfl⟩, ?_, ?_⟩
  · intro i o hslot ho hf ht
    exact ⟨_, exec_tex hslot ho hf ht, run_combStep n ins _ s⟩
  · intro hf
    exact ⟨_, exec_kil hf, rfl⟩

end Sys2Proof.Machine
end

section
/-! PROOFS. The high-voltage side (chapter 12): the sinks, the boost, the crossing and the
conversions: O29 to O33. -/

set_option Elab.async false

namespace Sys2Proof.Machine

variable {s t : State}

/-! ### Entries of a list -/

section lists
variable {α : Type}

theorem nth_upd (d x : α) (l : List α) (i j : Nat) :
    nth d (upd l i x) j = if i = j ∧ i < l.length then x else nth d l j := by
  simp only [nth, upd, List.getD_eq_getElem?_getD, List.getElem?_set]
  by_cases hij : i = j
  · subst hij
    by_cases hi : i < l.length <;> simp [hi]
  · simp [hij]

theorem nth_upd_self {d x : α} {l : List α} {i : Nat} (h : i < l.length) :
    nth d (upd l i x) i = x := by
  rw [nth_upd, if_pos ⟨rfl, h⟩]

theorem nth_upd_ne {d x : α} {l : List α} {i j : Nat} (h : i ≠ j) :
    nth d (upd l i x) j = nth d l j := by
  rw [nth_upd, if_neg fun hij => h hij.1]

@[simp] theorem length_upd (l : List α) (i : Nat) (x : α) : (upd l i x).length = l.length :=
  List.length_set

theorem mem_upd {l : List α} {i : Nat} {x y : α} (h : y ∈ upd l i x) : y ∈ l ∨ y = x :=
  List.mem_or_eq_of_mem_set h

theorem nth_mem_or_default (d : α) (l : List α) (i : Nat) : nth d l i ∈ l ∨ nth d l i = d := by
  rw [nth, List.getD_eq_getElem?_getD]
  cases h : l[i]? with
  | none => exact .inr rfl
  | some x => exact .inl (List.mem_of_getElem? h)

end lists

/-! ### Registers that a fault message leaves alone -/

/-- The block's event word for a fault code lies elsewhere than register `r`. -/
def eventApart (code : Nat) (r : Reg) (i j : Nat) : Bool :=
  (eventField code).all fun x => (r.words i j).all fun a => !(x.1.reg.words x.2.1 0).contains a

section raiseRegs
variable {r : Reg} {i j code u d q g st : Nat}

theorem setEventBit_keeps_rd (h : eventApart code r i j = true) :
    (setEventBit code).Keeps fun s => s.rd r i j := by
  unfold setEventBit
  unfold eventApart at h
  split
  · exact keeps_skip
  · next hx =>
    rw [hx] at h
    refine keeps_when fun _ s => rd_setReg_words fun a ha => ?_
    simpa using List.all_eq_true.mp h a ha

theorem takeMessage_keeps_rd (hr : r.oneSlot = true) (hslot : regSlot r.addr ≠ 0x90)
    (h : eventApart code r i j = true) :
    (takeMessage code u d q g st).Keeps fun s => s.rd r i j := by
  have hlatch : ∀ n s, ((setFBit F.RCL_FAULTN_LATCH_LATCH n true).run s).rd r i j = s.rd r i j := by
    intro n s
    have hw : (setFBit F.RCL_FAULTN_LATCH_LATCH n true).Within raiseBase :=
      within_setFBit rfl (by decide +kernel)
    exact rd_of_within hw hr (by simp [coveredBy, raiseBase, hslot]) s i j
  have hrec : ∀ c u d q g st k, (appendRecord c u d q g st k).Keeps fun s => s.rd r i j :=
    fun _ _ _ _ _ _ _ s => rd_of_within (within_appendRecord (partsLe_refl _)) hr rfl s i j
  exact keeps_all_cons (hrec _ _ _ _ _ _ _) <|
 keeps_all_cons (setEventBit_keeps_rd h) <|
    keeps_all_cons (keeps_look fun _ => keeps_each fun n => keeps_when fun _ => hlatch n) keeps_all_nil

/-- A fault message leaves every register outside the reclaimer but the block's event word. -/
theorem raise_keeps_rd (hr : r.oneSlot = true) (hslot : regSlot r.addr ≠ 0x90)
    (h : eventApart code r i j = true) (s : State) :
    ((raise code u d q g st).run s).rd r i j = s.rd r i j := by
  have hcodes : useFaultnCodes.Keeps fun s => s.rd r i j := fun s =>
    rd_of_within (within_useFaultnCodes (partsLe_refl _)) hr
      (by simp [coveredBy, raiseBase, hslot]) s i j
  rw [raise, run_seq]
  exact (takeMessage_keeps_rd hr hslot h _).trans (hcodes s)

theorem raiseSecond_keeps_rd {k : Nat} (hr : r.oneSlot = true) (hslot : regSlot r.addr ≠ 0x90)
    (h : eventApart code r i j = true) (s : State) :
    ((raiseSecond code u d k).run s).rd r i j = s.rd r i j := by
  refine keeps_look (π := fun s => s.rd r i j) (fun _ => keeps_when fun _ s => ?_) s
  rw [run_seq, raise_keeps_rd hr hslot h]
  simp

end raiseRegs

/-! ### The sinks -/

/-- Everything of the HV side but the sinks, and how many there are. -/
def State.noSinks (s : State) : Hv × Nat := ({ s.hv with sinks := [] }, s.hv.sinks.length)

theorem modSink_noSinks (k : Nat) (f : Sink → Sink) : (modSink k f).Keeps State.noSinks :=
  fun s => Prod.ext rfl (length_upd s.hv.sinks k _)

theorem settleSink_noSinks (k : Nat) : (settleSink k).Keeps State.noSinks :=
  keeps_look fun _ => modSink_noSinks _ _

theorem settleSinks_noSinks : settleSinks.Keeps State.noSinks :=
  keeps_each fun _ => settleSink_noSinks _

theorem sinksOff_noSinks : sinksOff.Keeps State.noSinks :=
  fun _ => Prod.ext rfl (List.length_map ..)

section keptBySinks
variable {p : Prog} (hp : p.Keeps State.noSinks) (s : State)
include hp

theorem boost_of_noSinks : (p.run s).hv.boost = s.hv.boost := congrArg (·.1.boost) (hp s)

theorem retries_of_noSinks : (p.run s).hv.retries = s.hv.retries := congrArg (·.1.retries) (hp s)

theorem restartDue_of_noSinks : (p.run s).hv.restartDue = s.hv.restartDue :=
  congrArg (·.1.restartDue) (hp s)

theorem sinksLength_of_noSinks : (p.run s).hv.sinks.length = s.hv.sinks.length :=
  congrArg (·.2) (hp s)

end keptBySinks

@[simp] theorem settleSinks_boost (s : State) : (settleSinks.run s).hv.boost = s.hv.boost :=
  boost_of_noSinks settleSinks_noSinks s

@[simp] theorem settleSinks_retries (s : State) : (settleSinks.run s).hv.retries = s.hv.retries :=
  retries_of_noSinks settleSinks_noSinks s

@[simp] theorem sinksOff_boost (s : State) : (sinksOff.run s).hv.boost = s.hv.boost :=
  boost_of_noSinks sinksOff_noSinks s

@[simp] theorem sinksOff_restartDue (s : State) :
    (sinksOff.run s).hv.restartDue = s.hv.restartDue :=
  restartDue_of_noSinks sinksOff_noSinks s

@[simp] theorem sinksOff_ring (s : State) : (sinksOff.run s).ring = s.ring := rfl

/-- A property of a sink that an update of it keeps holds of every sink after the update. -/
theorem modSink_forall {P : Sink → Prop} (k : Nat) {f : Sink → Sink} (h0 : P Sink.reset)
    (hf : ∀ x, P x → P (f x)) : (modSink k f).Preserves fun s => ∀ x ∈ s.hv.sinks, P x := by
  intro s hs x hx
  rcases mem_upd hx with hmem | rfl
  · exact hs x hmem
  · rcases nth_mem_or_default Sink.reset s.hv.sinks k with hk | hk
    · exact hf _ (hs _ hk)
    · exact hf _ (by rw [hk]; exact h0)

/-- Settling leaves the failures of the strings as they are. -/
theorem settleSinks_failures : settleSinks.Preserves
    fun s => ∀ x ∈ s.hv.sinks, x.isOpen = false ∧ x.isShort = false :=
  preserves_each fun k => preserves_look fun _ => modSink_forall k ⟨rfl, rfl⟩ fun x hx => by
    split <;> exact hx

theorem sinksOff_dark (s : State) :
    ∀ x ∈ (sinksOff.run s).hv.sinks, x.on = false ∧ x.gated = false := by
  intro x hx
  obtain ⟨y, -, rfl⟩ := List.mem_map.mp hx
  exact ⟨rfl, rfl⟩

/-! ### The kill line and the boost (R350, R356, R359, R360) -/

theorem killLine_resets (s : State) : ∃ t, exec .killLineAssert s = .next t ∧ t.hv.kill = true
    ∧ t.hv.boost = 0 ∧ t.hv.hvRegs = [] ∧ t.hv.sinks = List.replicate 4 Sink.reset
    ∧ t.hv.ntcs = List.replicate 3 Ntc.reset ∧ s.onlyChanges [.hv] t := by
  have ht : exec .killLineAssert s = .next _ := rfl
  exact ⟨_, ht, rfl, rfl, rfl, rfl, rfl, exec_onlyChanges ht⟩

theorem boostSoftStart_ends (hb : s.hv.boost = 1) : ∃ t, exec .boostSoftStartDone s = .next t
    ∧ t.hv.boost = 2 ∧ t.hv.retries = s.hv.retries ∧ s.onlyChanges [.hv] t := by
  have ht : exec .boostSoftStartDone s = .next _ := outcome_when hb _ _
  refine ⟨_, ht, ?_, ?_, exec_onlyChanges ht⟩ <;> rw [run_seq] <;> simp

@[simp] theorem boostStop_boost (s : State) :
    (boostStop.run s).hv.boost = if s.hv.boost = 3 then 3 else 0 := by
  rw [boostStop, run_seq]
  simp

@[simp] theorem boostStop_retries (s : State) : (boostStop.run s).hv.retries = 0 := by
  rw [boostStop, run_seq]
  simp

theorem boostIdle_stops (ho : s.anyOutput = false)
    (hs : s.hv.sinks.all (fun x => !x.on) = true) (hb : s.hv.boost = 1 ∨ s.hv.boost = 2) :
    ∃ t, exec .boostIdleStop s = .next t ∧ t.hv.boost = 0 ∧ t.hv.retries = 0
      ∧ s.onlyChanges [.hv] t := by
  have ht : exec .boostIdleStop s = .next _ := outcome_when ⟨ho, hs, hb⟩ _ _
  refine ⟨_, ht, ?_, boostStop_retries s, exec_onlyChanges ht⟩
  rw [boostStop_boost, if_neg (by omega)]

theorem boostFault_retries_or_latches (hb : s.hv.boost = 2) :
    ∃ t, exec .boostNoRegulation s = .next t
      ∧ (s.hv.retries < 3 → t.hv.boost = 0 ∧ t.hv.restartDue = true ∧ s.reports t 0x5006 unitHub)
      ∧ (3 ≤ s.hv.retries → t.hv.boost = 3 ∧ t.hv.restartDue = false
        ∧ s.reports t 0x5007 unitHub)
      ∧ ∀ x ∈ t.hv.sinks, x.on = false ∧ x.gated = false := by
  refine ⟨_, outcome_when hb _ _, ?_, ?_, ?_⟩ <;>
    rw [run_all_cons, run_all_cons, run_all_cons, run_all_cons, run_all_nil]
  · intro hr
    rw [if_neg (by omega)]
    refine ⟨by simp, by simp, ?_⟩
    exact reports_of_ring (raise_reports s 0x5006 unitHub 0 0xFF 0 0xFF) (by simp)
  · intro hr
    rw [if_pos hr, run_seq]
    refine ⟨by simp, by simp, ?_⟩
    obtain ⟨r, hmem, hcode, hunit, hseq⟩ := raise_reports ((modHv fun h =>
      { h with boost := 3, restartDue := false }).run ((bump F.HVS_BOOST_COUNT_FAULTS).run
        ((raise 0x5006 unitHub).run s))) 0x5007 unitHub 0 0xFF 0 0xFF
    exact ⟨r, hmem, hcode, hunit, le_trans (Nat.le_of_lt (raise_nextSeq_lt _ _ _ _ _ _ s))
 (by simpa using hseq)⟩
  · exact sinksOff_dark _

theorem overvoltage_counted (hv : s.hv.overvoltage = false) (hu : s.hvUp = true) :
    ∃ t, exec (.boostOvervoltage true) s = .next t ∧ t.hv.overvoltage = true
      ∧ t.fld F.HVS_BOOST_COUNT_OVP
        = min F.HVS_BOOST_COUNT_OVP.max (s.fld F.HVS_BOOST_COUNT_OVP + 1) := by
  refine ⟨_, outcome_when ⟨hv, hu⟩ _ _, ?_, ?_⟩ <;>
    rw [run_all_cons, run_all_cons, run_all_cons, run_all_nil]
  · simp
  · rw [fld_congr (raiseSecond_keeps_rd rfl (by decide) (by decide) _), fld_bump_self _ _ rfl]
    simp

theorem clear_unlatches (s : State) : ∃ t, exec .hvsClear s = .next t
    ∧ (s.hv.boost = 3 → t.hv.boost = 0 ∧ t.hv.retries = 0)
    ∧ (s.hv.boost ≠ 3 → t.hv.boost = s.hv.boost)
    ∧ (∀ x ∈ t.hv.sinks, x.isOpen = false ∧ x.isShort = false)
    ∧ s.onlyChanges [.hv] t := by
  have ht : exec .hvsClear s = .next _ := rfl
  refine ⟨_, ht, fun h3 => ⟨?_, ?_⟩, fun h3 => ?_, ?_, exec_onlyChanges ht⟩ <;>
    rw [hvsClear, run_seq]
  · simp [h3]
  · simp [h3]
  · simp [h3]
  · refine settleSinks_failures _ fun x hx => ?_
    obtain ⟨y, -, rfl⟩ := List.mem_map.mp hx
    exact ⟨rfl, rfl⟩

/-- Settles O29: each clause reads off its command's program. -/
theorem killLineAndBoost : Obligations.KillLineAndBoost :=
  ⟨killLine_resets, fun _ hlive => ⟨_, outcome_when hlive _ _, rfl⟩,
    fun _ hb => boostSoftStart_ends hb, fun _ ho hs hb => boostIdle_stops ho hs hb,
    fun _ hd hu => ⟨_, outcome_when ⟨hd, hu⟩ _ _, rfl⟩,
    fun _ hb => boostFault_retries_or_latches hb, fun _ hv hu => overvoltage_counted hv hu,
    fun _ => ⟨_, rfl, rfl⟩, clear_unlatches⟩


/-! ### The crossing (R351 to R353) -/

theorem getLast?_noteFrame (l : List XFrame) (f : XFrame) : (noteFrame l f).getLast? = some f := by
  rw [noteFrame, List.drop_append_of_le_length (Nat.sub_le ..), List.getLast?_concat]

theorem run_useHvs (h : s.badPairs [0x50] = []) : useHvs.run s = s := by
  rw [useHvs, run_look, h, run_each_nil]

/-- What the HV side has applied: its register words, and the SEQ of the last WRITE. -/
def State.applied (s : State) : List (Nat × Nat) × Option Nat := (s.hv.hvRegs, s.hv.lastSeq)

theorem applied_of_noSinks {p : Prog} (hp : p.Keeps State.noSinks) : p.Keeps State.applied :=
  fun s => congrArg (fun h => (h.1.hvRegs, h.1.lastSeq)) (hp s)

theorem modSink_applied (k : Nat) (f : Sink → Sink) : (modSink k f).Keeps State.applied :=
  applied_of_noSinks (modSink_noSinks k f)

theorem settleSink_applied (k : Nat) : (settleSink k).Keeps State.applied :=
  applied_of_noSinks (settleSink_noSinks k)

theorem boostStart_applied : boostStart.Keeps State.applied :=
  keeps_look fun _ => keeps_when fun _ _ => rfl

theorem applySink_applied (k v : Nat) (s : State) : ((applySink k v).run s).applied
    = (keyPut s.hv.hvRegs (4 + 2 * k) v, s.hv.lastSeq) := by
  have hclamp : (setF F.HVS_EVENT_CLAMP 1).Keeps State.applied := fun u => by
    simp [State.applied]
  rw [applySink, run_look, run_seq]
  refine (keeps_ite ?_ ?_ : Prog.Keeps State.applied (ite ..)) _
  · exact keeps_all_cons (fun _ => rfl) <| keeps_all_cons (modSink_applied k _) <|
      keeps_all_cons (keeps_when fun _ => hclamp) <|
        keeps_all_cons (settleSink_applied k) keeps_all_nil
  · exact keeps_seq (modSink_applied k _) (settleSink_applied k)

/-- A WRITE's word is the one in force at its address. -/
theorem hvApply_applied {a : Nat} (v : Nat) (ha : hvsRegOf a ≠ none) (s : State) :
    ((hvApply a v).run s).applied = (keyPut s.hv.hvRegs a v, s.hv.lastSeq) := by
  obtain ⟨x, hx⟩ := Option.ne_none_iff_exists'.mp ha
  rw [hvApply, hx]
  dsimp only
  split
  · rw [applySink_applied, show 4 + 2 * ((a - 4) / 2) = a by omega]
  · rw [run_all_cons]
    exact keeps_all_cons (keeps_when fun _ _ => rfl)
      (keeps_all_cons (applied_of_noSinks settleSinks_noSinks) keeps_all_nil) _

theorem hvWrite_applies {q a v : Nat} (hp : s.hv.powered = true) (hb : s.badPairs [0x50] = [])
    (hk : s.hv.kill = false) (hq : s.hv.lastSeq ≠ some (q % 16)) (ha : hvsRegOf a ≠ none) :
    ∃ t, exec (.hvWrite q a v) s = .next t ∧ keyGet t.hv.hvRegs a = some v
      ∧ t.hv.lastSeq = some (q % 16) ∧ t.hv.hvTx.getLast? = some ⟨2, q % 16, 0, 0⟩ := by
  refine ⟨_, outcome_when hp _ _, ?_⟩
  rw [run_all_cons, run_useHvs hb, run_when_pos hq, run_when_pos hk, run_all_cons, run_all_cons,
    run_all_cons]
  have hsafe : ∀ u, ((Prog.all [Prog.when (s.hv.resyncing = true ∧ s.hv.waiting = [])
      (.seq (modHv fun h => { h with safe := false, safeExpired := false })
        (.seq (if s.anyOutput then boostStart else .skip) settleSinks))]).run u).applied
        = u.applied :=
    keeps_all_cons (keeps_when fun _ => keeps_seq (fun _ => rfl) (keeps_seq
      (keeps_ite boostStart_applied keeps_skip) (applied_of_noSinks settleSinks_noSinks)))
      keeps_all_nil
  have happ := (hsafe _).trans (hvApply_applied v ha
    ((modHv fun h => { h with lastSeq := some (q % 16) }).run s))
  refine ⟨?_, congrArg (·.2) happ, getLast?_noteFrame _ _⟩
  exact (congrArg (fun m => keyGet m.1 a) happ).trans keyGet_keyPut_self

theorem hvWrite_repeated {q a v : Nat} (hp : s.hv.powered = true) (hb : s.badPairs [0x50] = [])
    (hq : s.hv.lastSeq = some (q % 16)) : ∃ t, exec (.hvWrite q a v) s = .next t ∧
      t = { s with hv := { s.hv with hvTx := noteFrame s.hv.hvTx ⟨2, q % 16, 0, 0⟩ } } := by
  refine ⟨_, outcome_when hp _ _, ?_⟩
  rw [run_all_cons, run_useHvs hb, run_when_neg (fun h => h hq)]
  rfl

theorem hvAck_goesOn {f : XFrame} {q : Nat} (hl : s.hv.linkLost = false)
    (hu : s.hv.unacked = some f) (hq : f.seq = q % 16) :
    ∃ t, exec (.hvAck q) s = .next t ∧ (s.hv.waiting = [] → t.hv.unacked = none)
      ∧ ∀ a v w, s.hv.waiting = (a, v) :: w →
        t.hv.unacked = some ⟨1, s.hv.seq % 16, a, v⟩ ∧ t.hv.waiting = w
          ∧ t.hv.hvsTx.getLast? = t.hv.unacked := by
  have ht : exec (.hvAck q) s = .next (hvsPump.run ((modHv fun h => { h with
      unacked := none, resends := 0, resyncing := h.resyncing && h.waiting != [] }).run s)) := by
    show Prog.outcome _ s = _
    rw [if_neg (by simp [hl]), hu]
    exact outcome_when hq _ _
  refine ⟨_, ht, fun hw => ?_, fun a v w hw => ?_⟩
  · simp [hvsPump, hw]
  · simp [hvsPump, hw, getLast?_noteFrame]

@[simp] theorem hvsPump_linkLost (s : State) : (hvsPump.run s).hv.linkLost = s.hv.linkLost := by
  rw [hvsPump, run_modHv]
  split <;> rfl

@[simp] theorem hvsPump_resyncing (s : State) :
    (hvsPump.run s).hv.resyncing = s.hv.resyncing := by
  rw [hvsPump, run_modHv]
  split <;> rfl

theorem hvAck_resynchronises {q : Nat} (hl : s.hv.linkLost = true) :
    ∃ t, exec (.hvAck q) s = .next t ∧ t.hv.linkLost = false ∧ t.hv.resyncing = true
      ∧ t.fld F.HVS_STATUS_LINK_LOST = 0 := by
  have ht : exec (.hvAck q) s = .next (hvsPump.run ((setF F.HVS_STATUS_LINK_LOST 0).run
      ((modHv fun h => { h with
        linkLost := false, resyncing := true, unacked := none, resends := 0
        waiting := s.hvsWords }).run s))) := by

    show Prog.outcome _ s = _
    rw [if_pos hl]
    rfl
  refine ⟨_, ht, by simp, by simp, ?_⟩

  rw [fld_of_within (within_hvsPump (partsLe_refl _)) rfl rfl]
  exact fld_setF_self _ _ rfl ..

theorem hvAckTimeout_resends {f : XFrame} (hu : s.hv.unacked = some f) :
    ∃ t, exec .hvAckTimeout s = .next t ∧
      (s.hv.resends < 3 → t.hv.resends = s.hv.resends + 1 ∧ t.hv.hvsTx.getLast? = some f
        ∧ t.fld F.HVS_XING_COUNT_RESEND
          = min F.HVS_XING_COUNT_RESEND.max (s.fld F.HVS_XING_COUNT_RESEND + 1))
      ∧ (3 ≤ s.hv.resends → s.hv.waiting = [] → t.hv.unacked = none ∧ t.hv.resends = 0) := by
  have ht : exec .hvAckTimeout s = .next _ := rfl
  refine ⟨_, ht, fun hr => ?_, fun hr hw => ?_⟩ <;> rw [hu] <;> dsimp only
  · rw [if_pos hr, run_seq]
    refine ⟨by simp, by simp [getLast?_noteFrame], ?_⟩
    rw [fld_bump_self _ _ rfl]
    rfl
  · rw [if_neg (by omega), run_seq]
    simp [hvsPump, hw]

theorem hvStatus_keepsCopy {i v : Nat} (hi : i ∈ statusIndexes) :
    ∃ t, exec (.hvStatus i v) s = .next t ∧ keyGet t.regs (0xF05000A0 + 4 * i)
        = some ((if i = 0 then setBits v 1 1 (s.fld F.HVS_STATUS_LINK_LOST) else v) % 2 ^ 32)
      ∧ s.onlyChanges [.regs 0x50] t := by
  have ht : exec (.hvStatus i v) s = .next _ :=
    outcome_when (List.contains_iff_mem.mpr hi) _ _
  refine ⟨_, ht, ?_, exec_onlyChanges ht⟩
  rw [run_act, act_reg_regs, keyGet_keyPut_self]

/-- Settles O30: each frame and timer by its program; a WRITE's word stays through the settling
of the sinks, which touches no register of the HV side. -/
theorem hvFramesCrossTheLink : Obligations.HvFramesCrossTheLink := by
  refine ⟨fun s q a v hp hb hk => ⟨hvWrite_applies hp hb hk, hvWrite_repeated hp hb⟩,
    fun s f q => hvAck_goesOn, fun s q => hvAck_resynchronises, fun s f => hvAckTimeout_resends,
    fun s i v => hvStatus_keepsCopy, fun s q hp => ⟨?_, ⟨_, outcome_when hp _ _, rfl⟩⟩,
    fun s hlive => ⟨_, outcome_when hlive _ _, rfl⟩, fun s hl => ⟨_, outcome_when hl _ _, rfl⟩⟩
  have ht : exec (.hvHeartbeat q) s = .next _ := outcome_when hp _ _
  have hlast : ∀ u, ((hvSend 3 (q % 16) 13 (s.hvStatusWord 13)).run u).hv.hvTx.getLast?
      = some ⟨3, q % 16, 13, s.hvStatusWord 13⟩ := fun u => getLast?_noteFrame _ _
  refine ⟨_, ht, ?_, exec_onlyChanges ht⟩
  simp only [statusIndexes, run_each_cons, run_each_nil]
  exact hlast _


/-! ### The loss of the link (R351, R353, R354) -/

theorem hvLinkLost_reported (hlive : s.live = true) (hl : s.hv.linkLost = false) :
    ∃ t, exec .hvLinkLost s = .next t ∧ t.hv.linkLost = true ∧ t.hv.unacked = none
      ∧ t.hv.waiting = [] ∧ t.fld F.HVS_STATUS_LINK_LOST = 1 ∧ s.reports t 0x5002 unitHub
      ∧ t.hv.hvsTx.getLast? = some ⟨5, s.hv.seq % 16, 0, 0⟩ := by
  refine ⟨_, outcome_when ⟨hlive, hl⟩ _ _, ?_⟩
  rw [run_all_cons, run_all_cons, run_all_cons, run_all_cons, run_all_nil]
  refine ⟨by simp [hvsSend], by simp [hvsSend], by simp [hvsSend], ?_, ?_,
    by simp [hvsSend, getLast?_noteFrame]⟩
  · rw [fld_of_within (within_hvsSend (partsLe_refl _)) rfl rfl,
      fld_congr (raise_keeps_rd rfl (by decide) (by decide) _), fld_setF_self _ _ rfl]
    rfl
  · exact reports_of_ring (reports_after (by simp)) rfl

theorem safeHoldExpire_switchesOff (hs : s.hv.safe = true) :
    ∃ t, exec .safeHoldExpire s = .next t ∧ t.hv.safeExpired = true
      ∧ (s.hv.boost ≠ 3 → t.hv.boost = 0) ∧ (∀ x ∈ t.hv.sinks, x.on = false ∧ x.gated = false)
      ∧ s.onlyChanges [.hv] t := by
  have ht : exec .safeHoldExpire s = .next _ := outcome_when hs _ _
  refine ⟨_, ht, ?_, fun h3 => ?_, ?_, exec_onlyChanges ht⟩ <;>
    rw [run_all_cons, run_all_cons, run_all_cons, run_all_nil]
  · exact congrArg (·.1.safeExpired) ((sinksOff_noSinks _).trans (settleSinks_noSinks _))
  · simp [h3]
  · exact sinksOff_dark _

/-- Settles O31: the loss of the link and what SAFE does. -/
theorem hvLinkLossLeadsToSafe : Obligations.HvLinkLossLeadsToSafe := by
  refine ⟨fun s => hvLinkLost_reported, fun s hu hs => ⟨_, outcome_when ⟨hu, hs⟩ _ _, rfl⟩,
    fun s => safeHoldExpire_switchesOff, fun s => ⟨_, rfl, ?_⟩⟩
  rw [run_seq, fld_congr (raiseSecond_keeps_rd rfl (by decide) (by decide) _),
    fld_bump_self _ _ rfl]

end Sys2Proof.Machine
end

section
/-! PROOFS. The high-voltage side: the sinks and their range changes, the supply and the NTC
channels (chapter 12): O32 and O33. -/

set_option Elab.async false

namespace Sys2Proof.Machine

variable {s t : State} {k : Nat}

/-! ### One sink after an update -/

theorem sink_modSink_self (f : Sink → Sink) (h : k < s.hv.sinks.length) :
    ((modSink k f).run s).sink k = f (s.sink k) := nth_upd_self h

/-- An update of any sink that keeps a property of sinks keeps it of sink `k`. -/
theorem modSink_keeps_sink {α : Type} (g : Sink → α) (j : Nat) {f : Sink → Sink}
    (hf : ∀ x, g (f x) = g x) : (modSink j f).Keeps fun s => g (s.sink k) := fun s => by
  show g (nth Sink.reset (upd s.hv.sinks j _) k) = _
  rw [nth_upd]
  split
  · next h => rw [hf, h.1]; rfl
  · rfl

section settled
variable {α : Type} (g : Sink → α)

/-- Settling updates none of a sink's on-time and range change. -/
theorem settleSink_keeps_sink (j : Nat)
    (hg : ∀ (x : Sink) (a b : Bool) (c d e f i l : Nat) (z : Bool), g { x with
      gated := a, en := b, phase := c, code := d, range := e, duty := f, pct := i, dutyEff := l
      zeroReq := z } = g x) : (settleSink j).Keeps fun s => g (s.sink k) :=
  keeps_look fun s => modSink_keeps_sink g j fun x => by
    split
    · exact hg x x.gated x.en x.phase x.code x.range x.duty x.pct x.dutyEff _
    · exact hg x _ _ _ _ _ _ _ _ _

end settled

theorem settleSink_on (j : Nat) : (settleSink j).Keeps fun s => (s.sink k).on :=
  settleSink_keeps_sink _ j fun _ _ _ _ _ _ _ _ _ _ => rfl

theorem settleSink_settling (j : Nat) : (settleSink j).Keeps fun s => (s.sink k).settling :=
  settleSink_keeps_sink _ j fun _ _ _ _ _ _ _ _ _ _ => rfl

theorem settleSink_settled (j : Nat) : (settleSink j).Keeps fun s => (s.sink k).settled :=
  settleSink_keeps_sink _ j fun _ _ _ _ _ _ _ _ _ _ => rfl

theorem appendChange_hv (c : Change) (s : State) : ((appendChange c).run s).hv = s.hv :=
  within_appendChange (partsLe_refl _) s .hv rfl

theorem keeps_sink_of_hv {α : Type} (g : Sink → α) {p : Prog} (hp : p.Keeps State.hv) :
    p.Keeps fun s => g (s.sink k) := fun u => by
  show g (nth Sink.reset (p.run u).hv.sinks k) = _
  rw [show (p.run u).hv = u.hv from hp u]
  rfl

theorem switchRange_on (j : Nat) : (switchRange j).Keeps fun s => (s.sink k).on :=
  keeps_look fun _ => keeps_all_cons (keeps_sink_of_hv _ (appendChange_hv _)) <|
    keeps_all_cons (keeps_sink_of_hv _ fun _ => setReg_hv ..)
 <|
    keeps_all_cons (fun _ => rfl) <| keeps_all_cons (modSink_keeps_sink _ j fun _ => rfl) <|
    keeps_all_cons (settleSink_on j) keeps_all_nil

/-- The end of an on-time leaves the sink off. -/
theorem endOnTime_off (h : k < s.hv.sinks.length) : (((endOnTime k).run s).sink k).on = false := by
  rw [endOnTime, run_seq, run_look]
  refine ((keeps_ite (switchRange_on k) (settleSink_on k) : Prog.Keeps _ (ite ..)) _).trans ?_
  exact congrArg Sink.on (sink_modSink_self (fun x => { x with on := false }) h)

theorem detectString_length (j mv : Nat) :
    (detectString j mv).Keeps fun s => s.hv.sinks.length :=
  keeps_look fun _ => keeps_when fun _ => keeps_all_cons (fun u => length_upd ..) <|
    keeps_all_cons (keeps_when fun _ u => by simp) <|
    keeps_all_cons (keeps_when fun _ u => by simp) keeps_all_nil

/-! ### A change of range (R365) -/

/-- The last steps of a switch end the change. -/
theorem switch_ends {u : State} (h : k < u.hv.sinks.length) :
    (((settleSink k).run ((modSink k fun x => { x with settling := false, settled := false }).run
      u)).sink k).settling = false
    ∧ (((settleSink k).run ((modSink k fun x => { x with settling := false, settled := false }).run
      u)).sink k).settled = false :=
  ⟨(settleSink_settling k _).trans (congrArg Sink.settling (sink_modSink_self _ h)),
    (settleSink_settled k _).trans (congrArg Sink.settled (sink_modSink_self _ h))⟩

theorem switchRange_switches (h : k < s.hv.sinks.length) :
    ((switchRange k).run s).rd R.HVS_DUTY k = (s.sink k).newDuty % 2 ^ 32
      ∧ (((switchRange k).run s).sink k).settling = false
      ∧ (((switchRange k).run s).sink k).settled = false := by
  rw [switchRange, run_look]
  dsimp only
  rw [run_all_cons, run_all_cons, run_all_cons, run_all_cons, run_all_cons, run_all_nil]
  refine ⟨?_, switch_ends (by simpa [appendChange_hv] using h)⟩
  rw [rd_of_within (within_settleSink (partsLe_refl _)) rfl rfl]
  rw [modSink, run_modHv, act_hv_rd, run_modHv, act_hv_rd, rd_setReg_self]

/-- A WRITE that changes RANGE starts a change, which settles. -/
theorem applySink_settles {v : Nat} (h : k < s.hv.sinks.length)
    (hr : bitN v 12 ≠ (s.sink k).range) : (((applySink k v).run s).sink k).settling = true := by
  have hclamp : (setF F.HVS_EVENT_CLAMP 1).Keeps fun u => (u.sink k).settling := fun u => by
    simp [State.sink]
  rw [applySink, run_look, run_seq, if_pos hr, run_all_cons, run_all_cons]
  refine (keeps_all_cons (keeps_when fun _ => hclamp)
    (keeps_all_cons (settleSink_settling k) keeps_all_nil) _).trans ?_
  exact congrArg Sink.settling (sink_modSink_self (s := (Prog.act (.draw 1)).run
    ((modHv fun h => { h with hvRegs := keyPut h.hvRegs (4 + 2 * k) v }).run s)) _ h)

theorem hvsRegOf_sink (hk : k < 4) : hvsRegOf (4 + 2 * k) = some (R.HVS_SINK, k) := by
  interval_cases k <;> rfl

theorem bitN_and (v m n : Nat) (hm : m.testBit n = true) : bitN (v &&& m) n = bitN v n := by
  have hb : ∀ x, bitN x n = (x.testBit n).toNat := fun x => by
    rw [Nat.toNat_testBit, bitN, Nat.shiftRight_eq_div_pow]
  rw [hb, hb, Nat.testBit_and, hm, Bool.and_true]

theorem applySink_keeps_rd (hk : k < 4) (v : Nat) :
    (applySink k v).Keeps fun u => u.rd R.HVS_SINK k := by
  have hclamp : (setF F.HVS_EVENT_CLAMP 1).Keeps fun u => u.rd R.HVS_SINK k := fun u =>
    rd_setReg_words (by interval_cases k <;> decide)
  have hsettle : (settleSink k).Keeps fun u => u.rd R.HVS_SINK k := fun u =>
    rd_of_within (within_settleSink (partsLe_refl _)) rfl rfl u k 0
  refine keeps_look fun _ => keeps_seq (fun _ => rfl) (keeps_ite ?_ ?_)
  · exact keeps_all_cons (fun _ => rfl) <| keeps_all_cons (fun _ => rfl) <|
      keeps_all_cons (keeps_when fun _ => hclamp) <| keeps_all_cons hsettle keeps_all_nil
  · exact keeps_seq (fun _ => rfl) hsettle

theorem hvsForward_sinks (a v : Nat) : (hvsForward a v).Keeps fun u => (u.hv.sinks, u.hvUp) :=
  keeps_seq (fun _ => rfl) fun u => by
    show ((hvsPump.run u).hv.sinks, (hvsPump.run u).hvUp) = _
    rw [hvsPump, run_modHv]
    split <;> rfl

theorem rangeChange_starts {v : Nat} (hk : k < 4) (hr : bitN v 12 ≠ s.fld F.HVS_SINK_RANGE k) :
    ∃ t, exec (.rangeChange k v) s = .next t ∧ t.rd R.HVS_SINK k = v &&& 0xFF33FF
      ∧ (s.hvUp = true → s.hv.sinks.length = 4 → bitN v 12 ≠ (s.sink k).range →
        (t.sink k).settling = true) := by
  refine ⟨_, outcome_when ⟨hk, hr⟩ _ _, ?_, fun hu hlen hrange => ?_⟩ <;>
    rw [run_seq, run_look, hvsCommit, hvsRegOf_sink hk] <;> dsimp only
  · have hword : v &&& 0xFF33FF < 2 ^ 32 := lt_of_le_of_lt Nat.and_le_right (by decide)
    refine (keeps_when (fun _ => applySink_keeps_rd hk _) _).trans ?_
    rw [run_seq, rd_of_within (within_hvsForward (partsLe_refl _)) rfl rfl, rd_setReg_self,
      Nat.mod_eq_of_lt hword]
  · have hkept := (hvsForward_sinks (4 + 2 * k) (v &&& 0xFF33FF) ((setReg R.HVS_SINK
      (v &&& 0xFF33FF) k).run s)).trans
        (show _ = (s.hv.sinks, s.hvUp) by simp [State.hvUp])
    obtain ⟨hsinks, hup⟩ := Prod.mk.inj hkept
    rw [run_seq, run_when_pos (hup.trans hu)]

    refine applySink_settles (by rw [hsinks]; omega) ?_
    rw [State.sink, hsinks, bitN_and _ _ _ (by decide)]
    exact hrange

theorem rangeSettled_switches (hk : k < 4) (hs : (s.sink k).settling = true)
    (hlen : s.hv.sinks.length = 4) :
    ((s.sink k).on = true → ∃ t, exec (.rangeSettled k) s = .next t ∧ t = { s with hv := { s.hv with
        sinks := upd s.hv.sinks k { s.sink k with settled := true } } })
    ∧ ((s.sink k).on = false → ∃ t, exec (.rangeSettled k) s = .next t ∧
      t.rd R.HVS_DUTY k = (s.sink k).newDuty % 2 ^ 32 ∧ (t.sink k).settling = false
        ∧ (t.sink k).settled = false) := by
  refine ⟨fun hon => ⟨_, outcome_when ⟨hk, hs⟩ _ _, ?_⟩,
    fun hoff => ⟨_, outcome_when ⟨hk, hs⟩ _ _, ?_⟩⟩
  · rw [if_pos hon]
    rfl
  · rw [if_neg (by simp [hoff])]
    exact switchRange_switches (by omega)

/-! ### Periods and on-times (R363, R364) -/

theorem pwmPeriod_starts (hu : s.hvUp = true) (hb : s.badPairs [0x50] = []) :
    ∃ t, exec .pwmPeriodStart s = .next t ∧ t.hv.period = s.pwmPeriod ∧ t.hv.sinks.length = 4
      ∧ t.hv.boost = s.hv.boost := by
  refine ⟨_, outcome_when hu _ _, ?_⟩
  rw [run_all_cons, run_useHvs hb, run_all_cons, run_all_cons, run_all_cons, run_all_nil, run_look]
  refine ⟨?_, ?_, ?_⟩
  · exact congrArg (·.1.period) (settleSinks_noSinks _)
  · simp [upTo]
  · exact congrArg (·.1.boost) (settleSinks_noSinks _)

theorem blOnDelay_ends {x : Nat} (hx : x < 2) (hlen : s.sco.outs.length = 2)
    (hd : (s.output x).blDelay = true) : ∃ t, exec (.blOnDelayExpire x) s = .next t
      ∧ (t.output x).blEnable = true ∧ (t.output x).holdSinks = false
      ∧ (t.output x).blDelay = false := by
  have hgive : ∀ u : State, u.sco = s.sco → ((giveBacklight x).run u).output x = { s.output x with
      blEnable := true, holdSinks := false, blDelay := false } := fun u hu => by
    have hsco : ((giveBacklight x).run u).sco = ((modOut x fun o => { o with
      blEnable := true, holdSinks := false, blDelay := false }).run u).sco :=
      within_settleSinks (partsLe_refl _) _ .sco rfl
    rw [State.output, hsco]
    refine (nth_upd_self (by rw [hu]; omega)).trans ?_
    rw [hu]
    rfl
  refine ⟨_, outcome_when ⟨hx, hd⟩ _ _, ?_⟩
  rw [run_all_cons, run_all_cons, run_all_nil, hgive]
  · exact ⟨rfl, rfl, rfl⟩
  · exact keeps_when (π := State.sco) (fun _ u => by simp) s

/-- Settles O32: what settling and switching keep of a sink. -/
theorem sinksAndRanges : Obligations.SinksAndRanges := by
  refine ⟨fun s => pwmPeriod_starts, fun s k mv hk hon hlen => ?_, fun s k hk hon hz hlen => ?_,
    fun s k v => rangeChange_starts, fun s k hk hs hlen => rangeSettled_switches hk hs hlen,
    fun s x => blOnDelay_ends⟩
  · refine ⟨_, outcome_when ⟨hk, hon⟩ _ _, ?_⟩
    rw [run_seq]
    exact endOnTime_off (lt_of_lt_of_eq hk ((detectString_length k mv s).trans hlen).symm)
  · exact ⟨_, outcome_when ⟨hk, hon, hz⟩ _ _, endOnTime_off (by omega)⟩

/-! ### The supply and the headroom (R356, R358) -/

theorem vbat_outside_once {c : Nat} (hu : s.hvUp = true)
    (hc : min c 4095 < s.uvLimit ∨ s.ovLimit < min c 4095) (ho : s.hv.vbatOut = 0) :
    ∃ t, exec (.vbatConversion c) s = .next t ∧ t.hv.vbatOut = 1 ∧ t.hv.vbatCode = min c 4095
      ∧ t.hv.boost = s.hv.boost ∧ t.ring = s.ring := by
  have hout : (decide (min c 4095 < s.uvLimit) || decide (s.ovLimit < min c 4095)) = true := by
    simpa using hc
  have hin : (decide (s.uvLimit + 50 ≤ min c 4095) && decide (min c 4095 + 50 ≤ s.ovLimit))
      = false := by
    simp only [Bool.and_eq_false_iff, decide_eq_false_iff_not]
    omega
  refine ⟨_, outcome_when hu _ _, ?_⟩
  rw [run_all_cons, run_all_cons, run_all_nil, run_look, hout, hin, if_neg (by simp [ho]),
    run_when_neg (by simp)]
  simp [ho]

theorem vbat_outside_twice {c : Nat} (hu : s.hvUp = true) (hs : s.hv.vbatStop = false)
    (hc : min c 4095 < s.uvLimit ∨ s.ovLimit < min c 4095) (ho : s.hv.vbatOut = 1) :
    ∃ t, exec (.vbatConversion c) s = .next t ∧ t.hv.vbatStop = true ∧ t.hv.vbatOk = false
      ∧ s.reports t 0x500B unitHub ∧ t.hv.boost = (if s.hv.boost = 3 then 3 else 0)
      ∧ ∀ x ∈ t.hv.sinks, x.on = false ∧ x.gated = false := by
  have hout : (decide (min c 4095 < s.uvLimit) || decide (s.ovLimit < min c 4095)) = true := by
    simpa using hc
  refine ⟨_, outcome_when hu _ _, ?_⟩
  rw [run_all_cons, run_all_cons, run_all_nil, run_look, hout, if_pos (by simp [ho, hs]),
    run_all_cons, run_all_cons, run_all_cons, run_all_cons, run_all_nil]
  refine ⟨by simp [sinksOff], by simp [sinksOff], reports_after (by simp [sinksOff]), ?_, ?_⟩ <;>
    rw [raise_hv, bump_hv]
  · exact sinksOff_boost _
  · exact sinksOff_dark _

theorem resumeBoost_keeps_vbat (b : Bool) :
    (Prog.all [if b then boostStart else .skip, settleSinks]).Keeps
      fun u => (u.hv.vbatOk, u.hv.vbatStop, u.hv.vbatIn) :=
  keeps_all_cons (keeps_ite (keeps_look fun _ => keeps_when fun _ _ => rfl) keeps_skip) <|
    keeps_all_cons (fun u => congrArg (fun h => (h.1.vbatOk, h.1.vbatStop, h.1.vbatIn))
      (settleSinks_noSinks u)) keeps_all_nil

theorem vbat_allowed_again {c : Nat} (hu : s.hvUp = true) (hk : s.hv.vbatOk = false)
    (hn : s.hv.vbatIn = 9)
    (h3 : s.uvLimit + 50 ≤ min c 4095) (h4 : min c 4095 + 50 ≤ s.ovLimit) :
    ∃ t, exec (.vbatConversion c) s = .next t ∧ t.hv.vbatOk = true ∧ t.hv.vbatStop = false
      ∧ t.hv.vbatIn = 10 := by
  have hout : (decide (min c 4095 < s.uvLimit) || decide (s.ovLimit < min c 4095)) = false := by
    simp only [Bool.or_eq_false_iff, decide_eq_false_iff_not]
    omega
  have hin : (decide (s.uvLimit + 50 ≤ min c 4095) && decide (min c 4095 + 50 ≤ s.ovLimit))
      = true := by simp [h3, h4]
  refine ⟨_, outcome_when hu _ _, ?_⟩
  rw [run_all_cons, run_all_cons, run_all_nil, run_look, hout, hin, if_neg (by simp),
    run_when_pos (by simp [hn, hk]), run_all_cons]
  generalize hu' : (modHv fun h => { h with vbatStop := false, vbatOk := true }).run _ = u
  have hkept := resumeBoost_keeps_vbat ((modHv fun h => { h with
    vbatCode := min c 4095, vbatOut := 0, vbatIn := min 10 (h.vbatIn + 1) }).run s).anyOutput u
  obtain ⟨hok, hstop, hin⟩ := by simpa only [Prod.mk.injEq] using hkept
  refine ⟨hok.trans ?_, hstop.trans ?_, hin.trans ?_⟩ <;> simp [← hu', hn]

theorem headroom_moves_target {v : Nat} (hu : s.hvUp = true) (hb : s.hv.boost = 2)
    (he : (s.sink k).en = true) (ho : (s.sink k).isOpen = false)
    (hs : (s.sink k).isShort = false) :
    let goal := 10 * clampNat 50 150 (s.hvFld F.HVS_BOOST_CFG_HEADROOM)
    ∃ t, exec (.headroomUpdate [(k, v)]) s = .next t ∧ t = { s with hv := { s.hv with target :=
      (if v < goal then clampNat 200 1200 (s.hv.target + 5)
        else if goal < v then clampNat 200 1200 (s.hv.target - 5) else s.hv.target) } } := by
  refine ⟨_, outcome_when ⟨hu, hb⟩ _ _, ?_⟩
  rw [List.filter_cons_of_pos (by simp [he, ho, hs])]
  rfl

/-! ### NTC channels (R370, R371) -/

theorem after_ends (x : Ntc) (a b : Nat) :
    (x.after a b).converting = false ∧ (x.after a b).cls = ntcClass a b := by
  unfold Ntc.after
  dsimp only
  split
  · next h => exact ⟨rfl, h.symm⟩
  · exact ⟨rfl, rfl⟩

/-- A channel's conversion: what the check for derating leaves as it is. -/
def Ntc.measured (x : Ntc) : Nat × Nat × Nat × Bool := (x.value, x.state, x.cls, x.converting)

theorem Ntc.measured_eq {x y : Ntc} : x.measured = y.measured ↔ x.value = y.value
    ∧ x.state = y.state ∧ x.cls = y.cls ∧ x.converting = y.converting := by
  simp [Ntc.measured]

theorem keeps_ntc_of_ntcs {c : Nat} {p : Prog} (hp : p.Keeps fun u => u.hv.ntcs) :
    p.Keeps fun u => (u.ntc c).measured :=
  fun u => congrArg (fun l => (nth Ntc.reset l c).measured) (hp u)

theorem modNtc_derated (c : Nat) (b : Bool) : (modNtc c fun z => { z with derated := b }).Keeps
    fun u => (u.ntc c).measured := fun u => by
  show (nth Ntc.reset (upd u.hv.ntcs c _) c).measured = _
  rw [nth_upd]
  split <;> rfl

theorem ntcConversion_classed
 {c a b : Nat} (hc : c < 3) (hlen : s.hv.ntcs.length = 3)
    (hconv : (s.ntc c).converting = true) : ∃ t, exec (.ntcConversionEnd c a b) s = .next t
      ∧ (t.ntc c).converting = false
      ∧ (t.ntc c).state = ((s.ntc c).after (min a 4095) (min b 4095)).state
      ∧ (t.ntc c).value = ((s.ntc c).after (min a 4095) (min b 4095)).value
      ∧ (t.ntc c).cls = ntcClass (min a 4095) (min b 4095) := by
  refine ⟨_, outcome_when ⟨hc, hconv⟩ _ _, ?_⟩
  rw [run_all_cons]
  generalize hy : (s.ntc c).after (min a 4095) (min b 4095) = y
  have hrest : (Prog.all [Prog.when (y.cls ≠ 0) (raiseSecond 0x5008 unitHub c c),
      Prog.when (y.state = 3 ∧ (s.ntc c).state ≠ 3) (raise 0x5009 unitHub c),
      .look fun t =>
        let low := y.state != 3 && decide (t.ntcPct c < 100)
        Prog.when (y.state ≠ 3) <| .seq
          (Prog.when (low = true ∧ (s.ntc c).derated = false) (raise 0x500A unitHub c))
          (modNtc c fun z => { z with derated := low }),
      settleSinks]).Keeps fun u => (u.ntc c).measured :=
    keeps_all_cons (keeps_when fun _ => keeps_ntc_of_ntcs fun u => by simp) <|
    keeps_all_cons (keeps_when fun _ => keeps_ntc_of_ntcs fun u => by simp) <|
    keeps_all_cons (keeps_look fun _ => keeps_when fun _ => keeps_seq
      (keeps_when fun _ => keeps_ntc_of_ntcs fun u => by simp) (modNtc_derated c _)) <|
    keeps_all_cons (keeps_ntc_of_ntcs fun u => congrArg (·.1.ntcs) (settleSinks_noSinks u))
      keeps_all_nil
  have hkept := (hrest ((modNtc c fun _ => y).run s)).trans
    (congrArg Ntc.measured (nth_upd_self (by omega)))
  obtain ⟨hend, hcls⟩ := after_ends (s.ntc c) (min a 4095) (min b 4095)
  rw [hy] at hend hcls
  obtain ⟨hvalue, hstate, hclass, hconv⟩ := Ntc.measured_eq.mp hkept
  exact ⟨hconv.trans hend, hstate, hvalue, hclass.trans hcls⟩

/-- Settles O33: supply, headroom and NTC conversions. -/
theorem supplyHeadroomAndNtc : Obligations.SupplyHeadroomAndNtc :=
  ⟨fun _ _ hu hs hc => ⟨vbat_outside_once hu hc, vbat_outside_twice hu hs hc⟩,
    fun _ _ hu hk hn _ _ => vbat_allowed_again hu hk hn,
 fun _ _ _ => headroom_moves_target,
    fun _ _ hc hu he => ⟨_, outcome_when ⟨hc, hu, he⟩ _ _, rfl⟩,
    fun _ _ _ _ => ntcConversion_classed⟩

end Sys2Proof.Machine
end

section
/-! PROOFS. The I2C controllers (chapters 03 and 13): O54. -/

set_option Elab.async false

namespace Sys2Proof.Machine

variable {s t : State} {c i : Nat} {x : I2cXfer} {o : ScriptOp}

theorem leNat_lt (l : List Byte) : leNat l < 256 ^ l.length := by
  induction l with
  | nil => exact Nat.one_pos
  | cons b l ih =>
    have hb : b.toNat < 256 := b.isLt
    show b.toNat + 256 * leNat l < 256 ^ (l.length + 1)
    rw [pow_succ]
    omega

/-! ### One transfer and one thread -/

theorem setI2c_i2c (y : Option I2cXfer) (hc : c < s.ports.i2c.length) :
    ((setI2c c y).run s).i2c c = y := nth_upd_self hc

theorem i2c_of_ports (h : t.ports = s.ports) : t.i2c c = s.i2c c := by
  rw [State.i2c, h]
  rfl

theorem thread_of_boot (h : t.boot = s.boot) : t.thread i = s.thread i := by
  rw [State.thread, h]
  rfl

theorem scriptOp_of_boot (h : t.boot = s.boot) : t.scriptOp i = s.scriptOp i := by
  unfold State.scriptOp
  rw [thread_of_boot h, h]

theorem thread_modThread {f : Thread → Thread} (hi : i < s.boot.threads.length) :
    ((modThread i f).run s).thread i = f (s.thread i) := nth_upd_self hi

theorem nextOp_goesOn (hi : i < s.boot.threads.length) (ho : s.scriptOp i = some o) :
    (((nextOp i).run s).thread i).pc = (s.thread i).pc + o.size
      ∧ (((nextOp i).run s).thread i).wait = .none := by
  rw [nextOp, run_look, ho]
  dsimp only
  rw [thread_modThread hi]
  exact ⟨rfl, rfl⟩

section ending
variable (nack fail : Bool)

theorem endI2c_boot : ((endI2c c nack fail).run s).boot = s.boot :=
  within_endI2c (partsLe_refl _) s .boot rfl

theorem endI2c_i2c (hc : c < s.ports.i2c.length) : ((endI2c c nack fail).run s).i2c c = none := by
  rw [endI2c, run_seq, run_seq]
  refine (i2c_of_ports ?_).trans (setI2c_i2c none hc)
  exact (keeps_when (π := State.ports) (fun _ u => raise_ports ..) _).trans (setReg_ports ..)

theorem endI2c_status : ((endI2c c nack fail).run s).rd R.I2C_STATUS c
    = (if nack then 2 else 0) + if fail then 4 else 0 := by
  rw [endI2c, run_seq, run_seq]
  refine (keeps_when (π := fun u => u.rd R.I2C_STATUS c)
    (fun _ u => raise_keeps_rd rfl (by decide) rfl u) _).trans ?_
  refine (rd_setReg_self ..).trans ?_
  cases nack <;> cases fail <;> rfl

end ending

/-- A transfer that ends without a failure changes its controller only. -/
theorem within_endI2c_ok : (endI2c c false false).Within [.regs 0x63, .ports] := by
  rw [endI2c, run_when_neg (by decide)]
  exact within_seq (within_setI2c (by decide +kernel)) <|
    within_seq (within_setReg rfl (by decide +kernel)) within_skip

/-! ### The ends of a transfer -/

/-- The bytes a transfer read. -/
def I2cXfer.got (x : I2cXfer) (d : List Byte) : List Byte := (upTo x.count).map fun i => nth 0 d i

section acknowledged
variable {d : List Byte} (hc : c < 2) (hlen : s.ports.i2c.length = 2) (hx : s.i2c c = some x)
  (hw : x.waiting = false)
include hc hx hw

theorem exec_i2cTransferDone (b : Bool) : exec (.i2cTransferDone c b d) s = .next ((
    if b then i2cDone c x d
    else if x.retries < 3 then setI2c c (some { x with waiting := true, retries := x.retries + 1 })
    else i2cFails c x true).run s) := by
  show Prog.outcome _ s = _
  rw [hx]
  exact outcome_when ⟨hc, hw⟩ _ _

theorem exec_i2cDone : exec (.i2cTransferDone c true d) s = .next ((i2cDone c x d).run s) :=
  exec_i2cTransferDone hc hx hw true

include hlen

theorem i2cDone_register (ht : x.thread = none) :
    ∃ t, exec (.i2cTransferDone c true d) s = .next t ∧ t.i2c c = none
      ∧ t.rd R.I2C_STATUS c = 0 ∧ s.onlyChanges [.regs 0x63, .ports] t
      ∧ (x.read = true → x.count ≤ 4 →
        t.rd R.I2C_DATA c = leNat ((upTo x.count).map fun i => nth 0 d i))
      ∧ (x.read = false → t.rd R.I2C_DATA c = s.rd R.I2C_DATA c) := by
  have hlt : x.count ≤ 4 → leNat (x.got d) < 2 ^ 32 := fun h => by
    refine lt_of_lt_of_le (leNat_lt _) ?_
    exact le_trans (Nat.pow_le_pow_right (by omega) (by simpa [I2cXfer.got, upTo] using h))
      (le_of_eq (by decide))
  have hrun : (i2cDone c x d).run s = (Prog.when (x.read = true)
      (setReg R.I2C_DATA (leNat (x.got d)) c)).run ((endI2c c false false).run s) := by
    rw [i2cDone, run_seq, ht]
    rfl
  have hother : (setReg R.I2C_DATA (leNat (x.got d)) c).Keeps fun u => u.rd R.I2C_STATUS c :=
    fun u => rd_setReg_words (by interval_cases c <;> decide)
  have hwithin : (Prog.seq (endI2c c false false) (Prog.when (x.read = true)
      (setReg R.I2C_DATA (leNat (x.got d)) c))).Within [.regs 0x63, .ports] :=
    within_seq within_endI2c_ok (within_when (within_setReg rfl (by decide +kernel)))
  refine ⟨_, exec_i2cDone hc hx hw, ?_⟩
  rw [hrun]
  refine ⟨?_, (keeps_when (fun _ => hother) _).trans (endI2c_status false false),
    onlyChanges_of_within hwithin s, fun hr hn => ?_, fun hr => ?_⟩
  · exact (i2c_of_ports (keeps_when (π := State.ports) (fun _ u => setReg_ports ..) _)).trans
      (endI2c_i2c _ _ (by omega))
  · rw [run_when_pos hr, rd_setReg_self]
    exact Nat.mod_eq_of_lt (hlt hn)
  · rw [run_when_neg (by simp [hr]), run_skip, endI2c, run_seq, run_seq, run_when_neg (by simp),
      run_skip, rd_setReg_words (by interval_cases c <;> decide)]
    rfl

theorem i2cDone_script (hi : i < 4) (hth : s.boot.threads.length = 4) (ht : x.thread = some i)
    (ho : s.scriptOp i = some o) (hr : x.read = false) :
    ∃ t, exec (.i2cTransferDone c true d) s = .next t ∧ t.i2c c = none
      ∧ (t.thread i).pc = (s.thread i).pc + o.size ∧ (t.thread i).wait = .none := by
  have hb := endI2c_boot (s := s) (c := c) false false
  refine ⟨_, exec_i2cDone hc hx hw, ?_⟩
  rw [i2cDone, run_seq, ht]
  dsimp only
  rw [if_neg (by simp [hr]), ← thread_of_boot hb]
  refine ⟨?_, nextOp_goesOn (by rw [hb]; omega) ((scriptOp_of_boot hb).trans ho)⟩
  rw [i2c_of_ports (within_nextOp (partsLe_refl _) _ .ports rfl)]
  exact endI2c_i2c _ _ (by omega)

omit hlen in
theorem i2cDone_expect (hi : i < 4) (hth : s.boot.threads.length = 4) (ht : x.thread = some i)
    (ho : s.scriptOp i = some o) (hr : x.read = true) {got : Nat}
    (hg : got = ((leNat ((upTo x.count).map fun i => nth 0 d i)) &&& (fieldAt o.data 8 4))) :
    (got = fieldAt o.data 12 4 → ∃ t, exec (.i2cTransferDone c true d) s = .next t ∧
      (t.thread i).pc = (s.thread i).pc + o.size ∧ (t.thread i).wait = .none)
    ∧ (got ≠ fieldAt o.data 12 4 → (s.thread i).expectRetries < fieldAt o.data 5 1 →
      ∃ t, exec (.i2cTransferDone c true d) s = .next t ∧ (t.thread i).wait = .expectRetry c
        ∧ (t.thread i).expectRetries = (s.thread i).expectRetries + 1) := by
  have hb := endI2c_boot (s := s) (c := c) false false
  have hop := (scriptOp_of_boot (i := i) hb).trans ho
  have hrun : (i2cDone c x d).run s = (expectData i c (x.got d)).run
      ((endI2c c false false).run s) := by
    rw [i2cDone, run_seq, ht]
    dsimp only
    rw [if_pos hr]
    rfl
  refine ⟨fun he => ⟨_, exec_i2cDone hc hx hw, ?_⟩, fun hne hret =>
    ⟨_, exec_i2cDone hc hx hw, ?_⟩⟩ <;>
    rw [hrun, expectData, run_look, hop] <;> dsimp only <;> rw [I2cXfer.got, ← hg]
  · rw [if_pos he, ← thread_of_boot hb]
    exact nextOp_goesOn (by rw [hb]; omega) hop
  · rw [if_neg hne, if_pos (by rw [thread_of_boot hb]; exact hret),
      thread_modThread (by rw [hb]; omega)]
    exact ⟨rfl, by rw [thread_of_boot hb]⟩

theorem i2c_notAcknowledged (hr : x.retries < 3) :
    ∃ t, exec (.i2cTransferDone c false d) s = .next t
      ∧ t.i2c c = some { x with waiting := true, retries := x.retries + 1 }
      ∧ s.onlyChanges [.ports] t := by
  have ht : exec (.i2cTransferDone c false d) s = .next ((setI2c c (some { x with
      waiting := true, retries := x.retries + 1 })).run s) := by
    rw [exec_i2cTransferDone hc hx hw, if_neg (by simp), if_pos hr]
  exact ⟨_, ht, setI2c_i2c _ (by omega), onlyChanges_of_within (within_setI2c (partsLe_refl _)) s⟩

omit hx hw in
/-- A transfer of no script that fails ends with the fault. -/
theorem i2cFails_reported (nack : Bool) (ht : x.thread = none) :
    ((i2cFails c x nack).run s).i2c c = none
      ∧ ((i2cFails c x nack).run s).rd R.I2C_STATUS c = (if nack then 2 else 0) + 4
      ∧ s.reports ((i2cFails c x nack).run s) 0x6301 unitHub := by
  rw [i2cFails, run_seq, ht]
  refine ⟨endI2c_i2c _ _ (by omega), endI2c_status _ _, ?_⟩
  dsimp only
  rw [run_skip, endI2c, run_seq, run_seq, run_when_pos rfl]
  exact reports_after (by simp [setI2c])

theorem i2cFails_ends (ht : x.thread = none) :
    (3 ≤ x.retries → ∃ t, exec (.i2cTransferDone c false d) s = .next t ∧ t.i2c c = none
      ∧ t.rd R.I2C_STATUS c = 6 ∧ s.reports t 0x6301 unitHub)
    ∧ ∃ t, exec (.i2cStretchTimeout c) s = .next t ∧ t.i2c c = none ∧ t.rd R.I2C_STATUS c = 4
      ∧ s.reports t 0x6301 unitHub := by
  refine ⟨fun hr => ⟨(i2cFails c x true).run s, ?_, i2cFails_reported hc hlen true ht⟩,
    (i2cFails c x false).run s, ?_, i2cFails_reported hc hlen false ht⟩
  · rw [exec_i2cTransferDone hc hx hw, if_neg (by simp), if_neg (by omega)]
  · show Prog.outcome _ s = _
    rw [hx]
    exact outcome_when ⟨hc, hw⟩ _ _

end acknowledged

/-! ### Retries and starts -/

theorem i2cRetry_resumes (hc : c < 2) (hlen : s.ports.i2c.length = 2) (hx : s.i2c c = some x)
    (hw : x.waiting = true) : ∃ t, exec (.i2cRetryInterval c) s = .next t
      ∧ t.i2c c = some { x with waiting := false } ∧ s.onlyChanges [.ports] t := by
  have ht : exec (.i2cRetryInterval c) s
      = .next ((setI2c c (some { x with waiting := false })).run s) := by
    show Prog.outcome _ s = _
    rw [hx]
    exact outcome_when ⟨hc, hw⟩ _ _
  exact ⟨_, ht, setI2c_i2c _ (by omega), onlyChanges_of_within (within_setI2c (partsLe_refl _)) s⟩

theorem startI2c_starts (hc : c < s.ports.i2c.length) :
    ((startI2c c x).run s).i2c c = some x ∧ ((startI2c c x).run s).rd R.I2C_STATUS c = 1 := by
  rw [startI2c, run_seq, run_seq]
  exact ⟨(i2c_of_ports (setReg_ports ..)).trans (setI2c_i2c _ hc), rd_setReg_self ..⟩

theorem i2cExpectRetry_readsAgain (hc : c < 2) (hi : i < 4) (hlen : s.ports.i2c.length = 2)
    (hth : s.boot.threads.length = 4) (hw : (s.thread i).wait = .expectRetry c)
    (ho : s.scriptOp i = some o) (hfree : s.i2c c = none) :
    ∃ t, exec (.i2cExpectRetryInterval i) s = .next t ∧ t.i2c c = some (expectXfer i o.data)
      ∧ (t.thread i).wait = .i2c c ∧ t.rd R.I2C_STATUS c = 1
      ∧ s.onlyChanges [.regs 0x63, .boot, .ports] t := by
  have ht : exec (.i2cExpectRetryInterval i) s = .next ((modThread i fun x => { x with
      wait := .i2c c }).run ((startI2c c (expectXfer i o.data)).run s)) := by
    show Prog.outcome _ s = _
    rw [hw, ho]
    dsimp only
    rw [run_when_pos hfree]
    rfl
  have hb : ((startI2c c (expectXfer i o.data)).run s).boot = s.boot :=
    within_startI2c (partsLe_refl _) s .boot rfl
  obtain ⟨hxfer, hstatus⟩ := startI2c_starts (x := expectXfer i o.data) (s := s) (c := c) (by omega)
  refine ⟨_, ht, (i2c_of_ports rfl).trans hxfer, ?_, hstatus, exec_onlyChanges ht⟩
  rw [thread_modThread (by rw [hb]; omega)]

theorem i2cXfer_starts {v : Nat} (hc : c < 2) (hlive : s.live = true)
    (hlen : s.ports.i2c.length = 2) (hscript : s.i2cByScript c = false) (hfree : s.i2c c = none) :
    ∃ t, exec (.i2cXferStart c v) s = .next t ∧ t.bus.ok = true ∧ t.rd R.I2C_STATUS c = 1
      ∧ (t.i2c c).map (fun x => (x.addr, x.read, x.thread)) = some (bits v 6 0, bitN v 7 == 1, none)
      ∧ s.onlyChanges [.regs 0x63, .bus, .ports] t := by
  have ht : exec (.i2cXferStart c v) s = .next ((i2cXfer c v).run ((respond 0).run s)) :=
    outcome_when ⟨hc, hlive⟩ _ _
  refine ⟨_, ht, ?_⟩
  have hfree' : (((respond 0).run s).i2cByScript c || (((respond 0).run s).i2c c).isSome) ≠ true := by
    show (s.i2cByScript c || (s.i2c c).isSome) ≠ true
    simp [hscript, hfree]
  have hstart : ∀ y, (((startI2c c y).run ((respond 0).run s)).bus.ok = true) := fun y =>
    congrArg BusResp.ok (within_startI2c (partsLe_refl _) _ .bus rfl)
  have honly := exec_onlyChanges ht
  rw [i2cXfer, run_look, if_neg hfree'] at honly ⊢
  by_cases hv : bitN v 7 = 1
  · rw [if_pos hv] at honly ⊢
    obtain ⟨hxfer, hstatus⟩ := startI2c_starts (s := (respond 0).run s) (c := c)
      (x := ⟨bits v 6 0, true, _, _, none, 0, false⟩) (by exact hlen ▸ hc)
    exact ⟨hstart _, hstatus, by rw [hxfer, hv]; rfl, honly⟩
  · rw [if_neg hv] at honly ⊢
    obtain ⟨hxfer, hstatus⟩ := startI2c_starts (s := (respond 0).run s) (c := c)
      (x := ⟨bits v 6 0, false, _, _, none, 0, false⟩) (by exact hlen ▸ hc)
    exact ⟨hstart _, hstatus, by rw [hxfer]; simp [hv], honly⟩

theorem i2cXfer_refused {v : Nat} (hc : c < 2) (hlive : s.live = true)
    (hused : s.i2c c ≠ none) :
    ∃ t, exec (.i2cXferStart c v) s = .next t ∧ t = { s with bus := ⟨false, 0⟩ } := by
  have ht : exec (.i2cXferStart c v) s = .next ((i2cXfer c v).run ((respond 0).run s)) :=
    outcome_when ⟨hc, hlive⟩ _ _
  refine ⟨_, ht, ?_⟩
  have hused' : (((respond 0).run s).i2cByScript c || (((respond 0).run s).i2c c).isSome)
      = true := by
    rw [Bool.or_eq_true]
    exact .inr (Option.isSome_iff_ne_none.mpr hused)
  rw [i2cXfer, run_look, if_pos hused']
  rfl

/-- Settles O54: the ends of a transfer, its retries, and its starts. -/
theorem i2cTransfers : Obligations.I2cTransfers :=
  ⟨fun _ _ _ _ hc hlen hx hw => ⟨i2cDone_register hc hlen hx hw,
    fun _ _ ht hi hth ho => ⟨i2cDone_script hc hlen hx hw hi hth ht ho,
      fun _ hr hg => i2cDone_expect hc hx hw hi hth ht ho hr hg⟩,
    i2c_notAcknowledged hc hlen hx hw,
    fun hr ht => (i2cFails_ends hc hlen hx hw ht).1 hr,
    fun ht => (i2cFails_ends (d := []) hc hlen hx hw ht).2⟩,
    fun _ _ _ => i2cRetry_resumes, fun _ _ _ _ => i2cExpectRetry_readsAgain,
    fun _ _ _ hc hlive hlen hscript => ⟨i2cXfer_starts hc hlive hlen hscript,
      i2cXfer_refused hc hlive⟩⟩

end Sys2Proof.Machine
end

section
/-! PROOFS. What the uses of complement pairs leave of the registers (R19), and what the writes of
a memory leave of its bytes. -/

set_option Elab.async false

namespace Sys2Proof.Machine

variable {s t : State} {p q : Prog}

/-! ### Uses of complement pairs leave what the blocks read -/

/-- Words that a fault message writes outside the reclaimer's block. -/
def eventWords : List Nat :=
  (eventTable.flatMap fun e => e.2.1.reg.words e.2.2 0)
    ++ (upTo 8).flatMap fun d => R.DST_EVENT.words d 0

/-- No fault message writes the register. -/
def Reg.quiet (r : Reg) (i j : Nat) : Prop :=
  r.oneSlot = true ∧ regSlot r.addr ≠ 0x90 ∧ ∀ a ∈ r.words i j, a ∉ eventWords

theorem eventField_words {code : Nat} {x : Field × Nat × Nat} (hx : eventField code = some x) :
    ∀ a ∈ x.1.reg.words x.2.1 0, a ∈ eventWords := by
  unfold eventField at hx
  dsimp only at hx
  intro a ha
  split at hx
  · next h =>
    obtain rfl := Option.some.inj hx
    exact List.mem_append_right _ (List.mem_flatMap.mpr
      ⟨code / 256 - 0x10, List.mem_range.mpr (by omega), ha⟩)
  · obtain ⟨e, he, rfl⟩ := Option.map_eq_some_iff.mp hx
    exact List.mem_append_left _ (List.mem_flatMap.mpr ⟨e, List.mem_of_find?_eq_some he, ha⟩)

theorem eventApart_of_quiet {r : Reg} {i j : Nat} (h : r.quiet i j) (code : Nat) :
    eventApart code r i j = true := by
  unfold eventApart
  cases hx : eventField code with
  | none => rfl
  | some x =>
    refine List.all_eq_true.mpr fun a ha => ?_
    have : a ∉ x.1.reg.words x.2.1 0 := fun hw => h.2.2 a ha (eventField_words hx a hw)
    simpa using this

/-- A register of a span without event words. -/
theorem quiet_of_span {r : Reg} {i j lo hi : Nat} (h1 : r.oneSlot = true)
    (h2 : regSlot r.addr ≠ 0x90) (hspan : ∀ a ∈ eventWords, a < lo ∨ hi ≤ a)
    (hw : ∀ a ∈ r.words i j, lo ≤ a ∧ a < hi) : r.quiet i j :=
  ⟨h1, h2, fun a ha he => by have := hspan a he; have := hw a ha; omega⟩

section quiet
variable {r r' : Reg} {i j k l : Nat} (hq : r.quiet i j)
include hq

theorem raise_rd_quiet (c u d x g st : Nat) : (raise c u d x g st).Keeps fun s => s.rd r i j :=
  raise_keeps_rd hq.1 hq.2.1 (eventApart_of_quiet hq c)

theorem raiseSecond_rd_quiet (c u d x : Nat) :
    (raiseSecond c u d x).Keeps fun s => s.rd r i j :=
  raiseSecond_keeps_rd hq.1 hq.2.1 (eventApart_of_quiet hq c)

/-- The repair of a pair leaves what every block reads: the repaired register was read at its reset
value before. -/
theorem usePair_keeps_rd (hr : ∀ id, resetWord id r (r.at i j) < 2 ^ 32)
    (h : (∀ a ∈ r.words i j, a ∉ r'.words k l) ∨ r' = r ∧ r'.at k l = r.at i j) :
    (usePair r' k l).Keeps fun s => s.rd r i j := by
  intro s
  show ((usePair r' k l).run s).rd r i j = s.rd r i j
  rw [usePair, run_look]
  by_cases hp : s.pairOk r' k l = false
  · have hraise : ∀ a, (raiseMismatch a).Keeps fun s => s.rd r i j :=
      fun _ => raise_rd_quiet hq _ _ _ _ _ _
    rw [run_when_pos hp, run_all_cons, run_all_cons, run_all_nil]
    rcases h with h | ⟨rfl, hat⟩
    · rw [rd_setReg_words h]
      exact hraise _ s
    · have hself : ∀ (u : State) v, ((setReg r' v k l).run u).rd r' i j = v % 2 ^ 32 := by
        intro u v
        refine Eq.trans ?_ (rd_setReg_self u r' v k l)
        rw [State.rd, State.rd, State.pairOk, State.pairOk, State.rawReg, State.rawReg,
          State.rawComp, State.rawComp, hat]
      rw [hself, hat, Nat.mod_eq_of_lt (hr _), State.rd, if_neg]
      rw [State.pairOk, State.rawReg, State.rawComp, ← hat]
      simpa [State.pairOk, State.rawReg, State.rawComp] using hp
  · rw [run_when_neg hp, run_skip]

theorem useRegs_keeps_rd {rs : List Reg} (hr : ∀ id, resetWord id r (r.at i j) < 2 ^ 32)
    (h : ∀ r' ∈ rs, ∀ k l, (∀ a ∈ r.words i j, a ∉ r'.words k l)
      ∨ r' = r ∧ r'.at k l = r.at i j) : (useRegs rs).Keeps fun s => s.rd r i j := by
  refine fun s => keeps_each_mem (π := fun s => s.rd r i j) (fun x hx => ?_) s
  have hmem := (List.mem_filter.mp hx).2
  rw [Bool.and_eq_true, List.contains_iff_mem] at hmem
  exact usePair_keeps_rd hq hr (h x.r hmem.1 x.i x.j)

end quiet

/-! ### Bytes of a memory after a store -/

theorem act_memsOk (a : Act) (h : s.memsOk) : (a.apply s).memsOk := by
  cases a with
  | store id x y => exact memsOk_setMem h (wfFrom_store (h id))
  | wipe id => exact memsOk_setMem h rfl
  | _ => exact fun id => by rw [mem_act_other s (by simp [Act.part])]; exact h id

theorem run_memsOk (p : Prog) (h : s.memsOk) : (p.run s).memsOk := by
  induction p generalizing s with
  | skip => exact h
  | act a => exact act_memsOk a h
  | seq p q hp hq => exact hq (hp h)
  | look k ih => exact ih s h

theorem byte_of_mem {id : MemId} (h : t.mem id = s.mem id) (a : Nat) :
    t.byte id a = s.byte id a := by
  rw [State.byte, h]
  rfl

theorem byte_store_outside {id : MemId} {a c : Nat} {bs : List Byte} (h : s.memsOk)
    (hc : c < a ∨ a + bs.length ≤ c) : ((store id a bs).run s).byte id c = s.byte id c := by
  rw [State.byte, show ((store id a bs).run s).mem id = _ from mem_setMem_self ..]
  exact get_store_outside hc (h id)

theorem byte_store_other {id j : MemId} {a c : Nat} {bs : List Byte} (hj : id ≠ j) :
    ((store id a bs).run s).byte j c = s.byte j c := byte_of_mem (mem_setMem _ _ _ _ hj) c

theorem byte_store_inside {id : MemId} {a i : Nat} {bs : List Byte} (h : s.memsOk)
    (hi : i < bs.length) (ha : a + i < id.size) :
    ((store id a bs).run s).byte id (a + i) = bs[i] := by
  rw [State.byte, show ((store id a bs).run s).mem id = _ from mem_setMem_self ..]
  exact get_store_inside hi ha (h id)

/-- The bytes stored are the ones read back. -/
theorem bytes_store {id : MemId} {a : Nat} {bs : List Byte} (h : s.memsOk)
    (ha : a + bs.length ≤ id.size) : ((store id a bs).run s).bytes id a bs.length = bs := by
  refine List.ext_getElem (by simp [State.bytes, upTo]) fun i h1 h2 => ?_
  simp only [State.bytes, upTo, List.getElem_map, List.getElem_range]
  exact byte_store_inside h h2 (by omega)

theorem bytes_congr {id : MemId} {a n : Nat}
    (h : ∀ c, a ≤ c → c < a + n → t.byte id c = s.byte id c) :
    t.bytes id a n = s.bytes id a n := by
  refine List.map_congr_left fun i hi => h _ (by omega) ?_
  have := List.mem_range.mp hi
  omega

@[simp] theorem length_leBytes (n v : Nat) : (leBytes n v).length = n := by
  induction n generalizing v with
  | zero => rfl
  | succ n ih => simp [leBytes, ih]

@[simp] theorem length_zeros (n : Nat) : (zeros n).length = n := by simp [zeros]

/-! ### Retention cells -/

/-- What the retention RAM holds at an address: both banks' bytes, their retirement, and whether
the word is in error. -/
def State.retCell (s : State) (a : Nat) : Byte × Byte × Bool × Bool × Bool :=
  (s.byte .retA a, s.byte .retB a, s.lamp.retARetired, s.lamp.retBRetired,
    s.lamp.retErrs.any fun e => !e.bankB && e.uncorrectable && e.word == a / 8)

theorem retByte_of_retCell {a : Nat} (h : t.retCell a = s.retCell a) : t.retByte a = s.retByte a := by
  simp only [State.retCell, Prod.mk.injEq] at h
  obtain ⟨ha, hb, hra, hrb, hue⟩ := h
  rw [State.retByte, State.retByte, ha, hb, hra, hrb, hue]

theorem retCell_of_parts {a : Nat} (hA : t.mem .retA = s.mem .retA) (hB : t.mem .retB = s.mem .retB)
    (hl : t.lamp = s.lamp) : t.retCell a = s.retCell a := by
  rw [State.retCell, State.retCell, byte_of_mem hA, byte_of_mem hB, hl]

theorem retWrite_retCell {a b : Nat} {bs : List Byte} (h : s.memsOk)
    (ha : a < b ∨ b + bs.length ≤ a) : ((retWrite b bs).run s).retCell a = s.retCell a := by
  have hstore : ∀ (c : Bool) (id : MemId) (u : State), u.memsOk →
      ((Prog.when (c = true) (store id b bs)).run u).memsOk
        ∧ ((Prog.when (c = true) (store id b bs)).run u).retCell a = u.retCell a := by
    intro c id u hu
    refine ⟨run_memsOk _ hu, ?_⟩
    cases c with
    | false => rfl
    | true =>
      have hbyte : ∀ j, ((store id b bs).run u).byte j a = u.byte j a := fun j => by
        by_cases hj : id = j
        · exact hj ▸ byte_store_outside hu ha
        · exact byte_store_other hj
      have hlamp : ((store id b bs).run u).lamp = u.lamp := by cases id <;> rfl
      rw [run_when_pos rfl, State.retCell, State.retCell, hbyte, hbyte, hlamp]
  obtain ⟨h1, hc1⟩ := hstore (!s.lamp.retARetired) .retA s h
  obtain ⟨-, hc2⟩ := hstore (!s.lamp.retBRetired) .retB _ h1
  rw [← hc1, ← hc2, retWrite, run_look, run_all_cons, run_all_cons, run_all_cons, run_all_nil]
  refine Prod.ext rfl (Prod.ext rfl (Prod.ext rfl (Prod.ext rfl ?_)))
  rw [Bool.eq_iff_iff]
  simp only [State.retCell, run_modLamp, act_lamp_lamp, List.any_filter, List.any_eq_true,
    Bool.and_eq_true, Bool.not_eq_true', beq_iff_eq, Bool.and_eq_false_iff,
    decide_eq_false_iff_not]
  constructor
  · rintro ⟨e, he, -, hu⟩
    exact ⟨e, he, hu⟩
  · rintro ⟨e, he, hu, hw⟩
    exact ⟨e, he, by omega, hu, hw⟩

/-- The state's memories are canonical, and a retention cell holds `v`. -/
def holdsCell (a : Nat) (v : Byte × Byte × Bool × Bool × Bool) (s : State) : Prop :=
  s.memsOk ∧ s.retCell a = v

section cells
variable {a : Nat} {v : Byte × Byte × Bool × Bool × Bool}

theorem retWrite_holdsCell {b : Nat} {bs : List Byte} (ha : a < b ∨ b + bs.length ≤ a) :
    (retWrite b bs).Preserves (holdsCell a v) :=
  fun _ h => ⟨run_memsOk _ h.1, (retWrite_retCell h.1 ha).trans h.2⟩

theorem holdsCell_of_within {W : List Part} (hp : p.Within W) (hA : coveredBy W (.mem .retA) = false)
    (hB : coveredBy W (.mem .retB) = false) (hl : coveredBy W .lamp = false) :
    p.Preserves (holdsCell a v) := fun s h =>
  ⟨run_memsOk _ h.1, (retCell_of_parts (hp s _ hA) (hp s _ hB) (hp s _ hl)).trans h.2⟩

/-- The fault history of the retention RAM is all that a fault message writes there (R444). -/
theorem raise_holdsCell (ha : a < 0x100 ∨ 0x400 ≤ a) (c u d x g st : Nat) :
    (raise c u d x g st).Preserves (holdsCell a v) := by
  have hreg : ∀ r w i j, (setReg r w i j).Preserves (holdsCell a v) := fun r w i j =>
    holdsCell_of_within (setReg_within r w i j) rfl rfl rfl
  have hrec : ∀ c u d x g st k, (appendRecord c u d x g st k).Preserves (holdsCell a v) := by
    intro c u d x g st k
    refine preserves_look fun s => preserves_all_cons (preserves_when ?_) <|
      preserves_all_cons ?_ <| preserves_all_cons (preserves_when (retWrite_holdsCell ?_))
        preserves_all_nil
    · exact holdsCell_of_within (W := [.rcl]) (within_modRcl rfl) rfl rfl rfl
    · exact fun _ h => h
    · have : s.nextSeq % 32 < 32 := Nat.mod_lt _ (by decide)
      simp only [FaultRec.bytes, List.length_append, length_leBytes, length_zeros]
      omega
  have htake : ∀ c u d x g st, (takeMessage c u d x g st).Preserves (holdsCell a v) := by
    intro c u d x g st
    refine preserves_all_cons (hrec _ _ _ _ _ _ _) <| preserves_all_cons ?_ <|
      preserves_all_cons (preserves_look fun _ => preserves_each fun _ => preserves_when <|
        preserves_look fun _ => hreg _ _ _ _) preserves_all_nil
    unfold setEventBit
    split
    · exact preserves_skip
    · exact preserves_when (preserves_look fun _ => hreg _ _ _ _)
  exact preserves_seq (preserves_each fun _ => preserves_look fun _ => preserves_when <|
    preserves_seq (hreg _ _ _ _) (htake _ _ _ _ _ _)) (htake _ _ _ _ _ _)

theorem usePair_holdsCell (ha : a < 0x100 ∨ 0x400 ≤ a) (r : Reg) (i j : Nat) :
    (usePair r i j).Preserves (holdsCell a v) :=
  preserves_look fun _ => preserves_when <| preserves_all_cons (raise_holdsCell ha _ _ _ _ _ _) <|
    preserves_all_cons (holdsCell_of_within (setReg_within r _ i j) rfl rfl rfl)
      preserves_all_nil

theorem useRegs_holdsCell (ha : a < 0x100 ∨ 0x400 ≤ a) (rs : List Reg) :
    (useRegs rs).Preserves (holdsCell a v) :=
  preserves_look fun _ => preserves_each fun _ => usePair_holdsCell ha _ _ _

end cells

end Sys2Proof.Machine
end

section
/-! PROOFS. The CAN FD controllers and stale signals (chapter 13): O52. -/

set_option Elab.async false

namespace Sys2Proof.Machine

variable {s t : State} {c : Nat}

/-! ### One controller -/

theorem canCtl_modCanAt {f : CanCtl → CanCtl} (hc : c < s.can.length) :
    ((modCanAt c f).run s).canCtl c = f (s.canCtl c) := nth_upd_self hc

theorem canCtl_of_can (h : t.can = s.can) : t.canCtl c = s.canCtl c := by
  rw [State.canCtl, h]
  rfl

theorem modCanAt_fld (f : CanCtl → CanCtl) (g : Field) (i : Nat) :
    ((modCanAt c f).run s).fld g i = s.fld g i := act_can_fld ..

theorem abandonFrames_canCtl (keep : List CanTx) (hc : c < s.can.length) :
    ((abandonFrames c keep).run s).canCtl c = { s.canCtl c with queue := keep } := by
  rw [abandonFrames, run_look, run_seq]
  exact (canCtl_of_can (bump_can ..)).trans (canCtl_modCanAt hc)

theorem abandonFrames_length (keep : List CanTx) :
    ((abandonFrames c keep).run s).can.length = s.can.length := by
  rw [abandonFrames, run_look, run_seq, bump_can]
  exact length_upd ..

theorem abandonFrames_counts (keep : List CanTx) :
    ((abandonFrames c keep).run s).fld F.CAN_ERR_COUNT_TX_ABANDON c
      = min F.CAN_ERR_COUNT_TX_ABANDON.max (s.fld F.CAN_ERR_COUNT_TX_ABANDON c
        + ((s.canCtl c).queue.length - keep.length)) := by
  rw [abandonFrames, run_look, run_seq, fld_bump_self _ _ rfl]
  rfl

theorem bitN_setBits_zero (v : Nat) : bitN (setBits v 0 0 0) 0 = 0 := by
  rw [bitN_setBits]

/-- The state of a controller that a commit with EN = 0 closes. -/
theorem canDisable_closes (hc : c < 2) (hlen : s.can.length = 2) :
    ∃ t, exec (.canDisable c) s = .next t ∧ t.fld F.CAN_CTRL_EN c = 0
      ∧ s.onlyChanges [.regs 0x60, .can] t
      ∧ (s.flag F.CAN_CTRL_EN c = true → (t.canCtl c).state = 3 ∧ (t.canCtl c).queue = []
        ∧ t.fld F.CAN_ERR_COUNT_TX_ABANDON c = min F.CAN_ERR_COUNT_TX_ABANDON.max
            (s.fld F.CAN_ERR_COUNT_TX_ABANDON c + (s.canCtl c).queue.length))
      ∧ (s.flag F.CAN_CTRL_EN c = false → t.can = s.can) := by
  have ht : exec (.canDisable c) s = .next _ := outcome_when hc _ _
  refine ⟨_, ht, ?_, exec_onlyChanges ht, fun hen => ?_, fun hen => ?_⟩ <;>
    rw [canCtrlCommit, run_look, run_seq, if_pos (bitN_setBits_zero _)]
  · have hother : (Prog.seq (abandonFrames c []) (modCanAt c fun k => { k with
        state := 3, holdoff := false, busOffs := [] })).Keeps fun u => u.rd R.CAN_CTRL c :=
      keeps_seq (keeps_look fun _ => keeps_seq (fun _ => rfl) fun u => rd_setReg_words
        (by interval_cases c <;> decide)) fun _ => rfl
    rw [fld_congr (f := F.CAN_CTRL_EN) (keeps_when (fun _ => hother) _)]
    show ((setReg F.CAN_CTRL_EN.reg _ c).run s).fld F.CAN_CTRL_EN c = 0
    rw [fld_setReg_self _ _ rfl]
    exact bits_setBits (s.rd R.CAN_CTRL c) 0 0 0
  · rw [run_when_pos hen, run_seq]
    have hlen' : c < ((setReg R.CAN_CTRL (setBits (s.rd R.CAN_CTRL c) 0 0 0) c).run s).can.length := by
      rw [setReg_can]; omega
    have hlen'' : c < ((abandonFrames c []).run ((setReg R.CAN_CTRL
        (setBits (s.rd R.CAN_CTRL c) 0 0 0) c).run s)).can.length := by
      rw [abandonFrames_length]; exact hlen'
    rw [canCtl_modCanAt hlen'', abandonFrames_canCtl [] hlen']
    refine ⟨rfl, rfl, ?_⟩
    rw [modCanAt_fld, abandonFrames_counts, fld_congr (f := F.CAN_ERR_COUNT_TX_ABANDON) (rd_setReg_words
      (by interval_cases c <;> decide)), canCtl_of_can (setReg_can ..), List.length_nil, Nat.sub_zero]
  · rw [run_when_neg (by simp [hen]), run_skip, setReg_can]

theorem canFrame_sent {f : CanTx} {q : List CanTx} (hc : c < 2) (hlen : s.can.length = 2)
    (ht : s.canTalks c = true) (hp : 2 ≤ s.boot.phase) (hq : (s.canCtl c).queue = f :: q) :
    ∃ t, exec (.canFrameTransmitted c) s = .next t ∧ (t.canCtl c).queue = q
      ∧ (t.canCtl c).sent = some f ∧ s.onlyChanges [.can] t := by
  have hx : exec (.canFrameTransmitted c) s = .next _ := outcome_when ⟨hc, ht, hp⟩ _ _
  refine ⟨_, hx, ?_, ?_, exec_onlyChanges hx⟩ <;> rw [canCtl_modCanAt (by omega), hq]

/-! ### Bus-off (Table 13-1) -/

theorem canBusOff_reported (hc : c < 2) (hlen : s.can.length = 2) (ho : s.canOn c = true) :
    ∃ t, exec (.canBusOff c) s = .next t ∧ (t.canCtl c).state = 2
      ∧ s.reports t (0x6001 + 0x100 * c) unitHub
      ∧ t.fld F.CAN_ERR_COUNT_BUS_OFF c = min F.CAN_ERR_COUNT_BUS_OFF.max
          (s.fld F.CAN_ERR_COUNT_BUS_OFF c + 1)
      ∧ ((s.canCtl c).busOffs = [] → (t.canCtl c).holdoff = false)
      ∧ ((s.canCtl c).busOffs.length = 7 → (∀ x ∈ (s.canCtl c).busOffs, s.time < x + 25000000) →
        (t.canCtl c).holdoff = true) := by
  refine ⟨_, outcome_when ⟨hc, ho⟩ _ _, ?_⟩
  rw [run_all_cons, run_all_cons, run_all_cons, run_all_nil]
  rw [canCtl_of_can (raise_can ..), canCtl_of_can (bump_can ..), canCtl_modCanAt (by omega)]
  refine ⟨rfl, reports_after (by simp [modCanAt]), ?_, fun hb => ?_, fun h7 hall => ?_⟩
  · rw [fld_congr (f := F.CAN_ERR_COUNT_BUS_OFF) (raise_keeps_rd rfl (by decide)
      (by interval_cases c <;> decide) _), fld_bump_self _ _ rfl]
    rfl
  · simp [hb]
  · have hf : (s.canCtl c).busOffs.filter (fun t => decide (s.time < t + 25000000))
        = (s.canCtl c).busOffs := List.filter_eq_self.mpr fun x hx => by simpa using hall x hx
    simp [hf, h7]

theorem tec_setRec (v : Nat) :
    ((setF F.CAN_STATUS_REC v c).run s).fld F.CAN_STATUS_TEC c = s.fld F.CAN_STATUS_TEC c :=
  fld_setF_other s (.inr ⟨rfl, rfl, rfl, by decide, by decide, by decide⟩)

theorem canRecovered_ends (hc : c < 2) (hlen : s.can.length = 2) :
    ((canRecovered c).run s).canCtl c = { s.canCtl c with state := 0, holdoff := false }
      ∧ ((canRecovered c).run s).fld F.CAN_STATUS_TEC c = 0
      ∧ ((canRecovered c).run s).fld F.CAN_STATUS_REC c = 0 := by
  rw [canRecovered, run_all_cons, run_all_cons, run_all_cons, run_all_nil]
  refine ⟨?_, ?_, ?_⟩
  · rw [canCtl_of_can (setF_can ..), canCtl_of_can (setF_can ..), canCtl_modCanAt (by omega)]
  · rw [tec_setRec, fld_setF_self _ _ rfl]
    rfl
  · rw [fld_setF_self _ _ rfl]
    rfl

theorem canBusOff_recovers (hc : c < 2) (hlen : s.can.length = 2) (h2 : (s.canCtl c).state = 2) :
    ((s.canCtl c).holdoff = false → ∃ t, exec (.canBusOffRecovery c) s = .next t ∧
      (t.canCtl c).state = 0 ∧ t.fld F.CAN_STATUS_TEC c = 0 ∧ t.fld F.CAN_STATUS_REC c = 0
        ∧ s.onlyChanges [.regs 0x60, .can] t)
    ∧ ((s.canCtl c).holdoff = true → (∃ t, exec (.canBusOffRecovery c) s = .next t ∧ t = s)
      ∧ ∃ t, exec (.canHoldoffEnd c) s = .next t ∧ (t.canCtl c).state = 0
        ∧ (t.canCtl c).holdoff = false
        ∧ (t.canCtl c).busOffs = [] ∧ t.fld F.CAN_STATUS_TEC c = 0
        ∧ s.onlyChanges [.regs 0x60, .can] t) := by
  refine ⟨fun hh => ?_, fun hh => ⟨⟨s, ?_, rfl⟩, ?_⟩⟩
  · have ht : exec (.canBusOffRecovery c) s = .next _ := outcome_when ⟨hc, h2, hh⟩ _ _
    obtain ⟨hctl, htec, hrec⟩ := canRecovered_ends hc hlen
    exact ⟨_, ht, by rw [hctl], htec, hrec, exec_onlyChanges ht⟩
  · show Prog.outcome _ s = _
    rw [run_when_neg (by simp [hh])]
    rfl
  · have ht : exec (.canHoldoffEnd c) s = .next _ := outcome_when ⟨hc, h2, hh⟩ _ _
    obtain ⟨hctl, htec, -⟩ := canRecovered_ends (s := (modCanAt c fun k => { k with
      busOffs := [] }).run s) hc ((length_upd ..).trans hlen)
    have hoffs := canCtl_modCanAt (s := s) (f := fun k => { k with busOffs := [] })
      (show c < s.can.length by omega)
    exact ⟨_, ht, by rw [run_seq, hctl], by rw [run_seq, hctl], by rw [run_seq, hctl, hoffs],
      by rw [run_seq]; exact htec, exec_onlyChanges ht⟩

/-! ### The transmit queue -/

/-- A queue in order of queuing: its first frame has waited longest. -/
theorem oldestFrame_first {f : CanTx} {q : List CanTx} (h : ∀ g ∈ q, f.queuedAt ≤ g.queuedAt) :
    oldestFrame (f :: q) = some 0 := by
  have hstay : ∀ (l : List Nat), l.foldl (fun (b : Option Nat) i => match b with
      | none => some i
      | some j => match (f :: q)[i]?, (f :: q)[j]? with
        | some f, some g => if f.queuedAt < g.queuedAt then some i else some j
        | _, _ => some j) (some 0) = some 0 := by
    intro l
    induction l with
    | nil => rfl
    | cons i l ih =>
      rw [List.foldl_cons]
      have hi : ∀ g, (f :: q)[i]? = some g → f.queuedAt ≤ g.queuedAt := fun g hg => by
        rcases List.mem_cons.mp (List.mem_of_getElem? hg) with rfl | hm
        · exact le_refl _
        · exact h g hm
      cases hg : (f :: q)[i]? with
      | none => exact ih
      | some g =>
        dsimp only [List.getElem?_cons_zero]
        rw [if_neg (by have := hi g hg; omega)]
        exact ih
  rw [oldestFrame, upTo, List.length_cons, List.range_succ_eq_map]
  exact hstay _

theorem canTx_abandoned {f : CanTx} {q : List CanTx} (hc : c < 2) (hlen : s.can.length = 2)
    (hq : (s.canCtl c).queue = f :: q) (ho : ∀ g ∈ q, f.queuedAt ≤ g.queuedAt) :
    ∃ t, exec (.canTxAbandon c) s = .next t ∧ (t.canCtl c).queue = q
      ∧ t.fld F.CAN_ERR_COUNT_TX_ABANDON c
          = min F.CAN_ERR_COUNT_TX_ABANDON.max (s.fld F.CAN_ERR_COUNT_TX_ABANDON c + 1)
      ∧ s.onlyChanges [.regs 0x60, .can] t := by
  have ht : exec (.canTxAbandon c) s = .next ((abandonFrames c q).run s) := by
    refine (outcome_when hc _ _).trans ?_
    rw [hq, oldestFrame_first ho]
    rfl
  refine ⟨_, ht, by rw [abandonFrames_canCtl q (by omega)], ?_, exec_onlyChanges ht⟩
  rw [abandonFrames_counts, hq, List.length_cons, Nat.add_sub_cancel_left]

theorem canPassive_reported {x y : Nat} (hc : c < 2) (hlen : s.can.length = 2)
    (ho : s.canOn c = true) (h0 : (s.canCtl c).state = 0) :
    ∃ t, exec (.canErrorPassive c x y) s = .next t ∧ (t.canCtl c).state = 1
      ∧ t.fld F.CAN_STATUS_TEC c = min x 255 ∧ t.fld F.CAN_STATUS_REC c = min y 255
      ∧ s.reports t (0x6002 + 0x100 * c) unitHub := by
  refine ⟨_, outcome_when ⟨hc, ho, h0⟩ _ _, ?_⟩
  rw [run_all_cons, run_all_cons, run_all_cons, run_all_cons, run_all_nil]
  have hraise : ∀ u : State, ((raise (0x6002 + 0x100 * c) unitHub).run u).rd R.CAN_STATUS c
      = u.rd R.CAN_STATUS c :=
    raise_keeps_rd rfl (by decide) (by interval_cases c <;> decide)
  refine ⟨?_, ?_, ?_, reports_after (by simp [modCanAt])⟩
  · rw [canCtl_of_can (raise_can ..), canCtl_of_can (setF_can ..), canCtl_of_can (setF_can ..),
      canCtl_modCanAt (by omega)]
  · rw [fld_congr (f := F.CAN_STATUS_TEC) (hraise _), tec_setRec, fld_setF_self _ _ rfl]
    exact Nat.mod_eq_of_lt (lt_of_le_of_lt (Nat.min_le_right ..) (by decide))
  · rw [fld_congr (f := F.CAN_STATUS_REC) (hraise _), fld_setF_self _ _ rfl]
    exact Nat.mod_eq_of_lt (lt_of_le_of_lt (Nat.min_le_right ..) (by decide))

/-! ### Stale signals (R385) -/

/-- Addresses of a signal's flags in the snapshot. -/
def flagCell (n i : Nat) : Nat := snapBase + 0x4C + 16 * n + i

theorem snapFlags_of_cells {n : Nat} (h : ∀ i < 2, t.retCell (flagCell n i) = s.retCell (flagCell n i)) :
    t.snap n 0x0C 2 = s.snap n 0x0C 2 := by
  unfold State.snap State.retNum State.retBytes
  refine congrArg leNat (List.map_congr_left fun i hi => ?_)
  have hcell := h i (List.mem_range.mp hi)
  rw [flagCell, show snapBase + 0x4C + 16 * n + i = snapBase + 0x40 + 16 * n + 0x0C + i by omega]
    at hcell
  exact retByte_of_retCell hcell

theorem ijWrite_holdsCell {a b : Nat} {v : Byte × Byte × Bool × Bool × Bool} {bs : List Byte}
    (ha : a < b ∨ b + bs.length ≤ a) : (ijWrite b bs).Preserves (holdsCell a v) :=
  preserves_seq (retWrite_holdsCell ha) fun _ h => h

section device
variable {a : Nat} {v : Byte × Byte × Bool × Bool × Bool}

theorem putCrossing_holdsCell {n : Nat} (x : Crossing) (ha : 0x1000 ≤ a) (hn : n < 16) :
    (putCrossing n x).Preserves (holdsCell a v) :=
  preserves_look fun _ => preserves_seq (fun _ h => h) <| preserves_when <|
    retWrite_holdsCell (.inr (by simp only [List.length_append, length_leBytes]; omega))

theorem checkCrossing_holdsCell {n : Nat} (ha : 0x1000 ≤ a) (hn : n < 16) :
    (checkCrossing n).Preserves (holdsCell a v) := by
  have hset : ∀ f w, (setF f w).Preserves (holdsCell a v) := fun f w =>
    holdsCell_of_within (W := [.allRegs]) (setF_within f w 0 0) rfl rfl rfl
  refine preserves_look fun s => preserves_when <| preserves_all_cons
    (raise_holdsCell (by omega) _ _ _ _ _ _) <| preserves_all_cons (hset _ _) <|
    preserves_all_cons (hset _ _) <| preserves_all_cons ?_ <|
    preserves_all_cons (fun _ h => h) preserves_all_nil
  rw [if_pos hn]
  exact putCrossing_holdsCell _ ha hn

/-- A device event writes nothing of the retention RAM past the persistent crossings. -/
theorem deviceEvent_holdsCell {n : Nat} {b : Bool} (ha : 0x1000 ≤ a) (hn : n < 16) :
    (deviceEvent n b).Preserves (holdsCell a v) := by
  refine preserves_all_cons (checkCrossing_holdsCell ha hn) <| preserves_all_cons (fun _ h => h) <|
    preserves_all_cons (preserves_look fun s => preserves_look fun u =>
      preserves_all_cons (putCrossing_holdsCell _ ha hn) <| preserves_all_cons (fun _ h => h) <|
      preserves_all_cons (preserves_seq (useRegs_holdsCell (by omega) _) ?_) preserves_all_nil)
      preserves_all_nil
  refine preserves_look fun s => ?_
  split
  · exact preserves_skip
  · exact preserves_when fun _ h => h

theorem newSnapshot_holdsCell (ha : snapBase + 0x0D ≤ a) : newSnapshot.Preserves (holdsCell a v) := by
  refine preserves_look fun s => preserves_all_cons (ijWrite_holdsCell (.inr ?_)) <|
    preserves_all_cons (deviceEvent_holdsCell (by unfold snapBase at ha; omega) (by decide))
      preserves_all_nil
  simp only [List.length_append, length_leBytes]
  omega

theorem settleMoving_holdsCell (ha : snapBase + 0x0D ≤ a) :
    settleMoving.Preserves (holdsCell a v) :=
  preserves_look fun _ => preserves_seq (fun _ h => h) <| preserves_when <|
    ijWrite_holdsCell (.inr (by simp only [List.length_singleton]; omega))

end device

/-! The intake reads its signal records as before its uses of their pairs. -/

theorem eventWords_signals : ∀ a ∈ eventWords, a < 0xF0621000 ∨ 0xF0622000 ≤ a := by decide

section signals
variable {n : Nat} {r : Reg}

/-- Registers of a signal record. -/
def signalRegs : List Reg :=
  [R.SVC_SIG_ID, R.SVC_SIG_FMT, R.SVC_SIG_MIN, R.SVC_SIG_MAX, R.SVC_SIG_TIM]

theorem signalRegs_at {r : Reg} (hr : r ∈ signalRegs) (i j : Nat) :
    r.at i j = r.addr + 0x40 * (i % 64) := by
  have h : ∀ r ∈ signalRegs, r.n1 = 64 ∧ r.s1 = 0x40 ∧ r.s2 = 0 := by decide
  obtain ⟨h1, h2, h3⟩ := h r hr
  rw [Reg.at, h1, h2, h3, Nat.zero_mul, Nat.add_zero]

/-- The words of signal records, and the interlock's, do not overlap. -/
theorem signalRegs_apart {r r' : Reg} (hr : r ∈ signalRegs) (hr' : r' ∈ signalRegs) (k l : Nat) :
    (r' = r ∧ r'.at k l = r.at n 0) ∨ r.at n 0 + 8 ≤ r'.at k l ∨ r'.at k l + 8 ≤ r.at n 0 := by
  have h : ∀ r ∈ signalRegs, ∀ r' ∈ signalRegs, r' = r ∨ (r.addr + 8 ≤ r'.addr
      ∧ r'.addr + 8 ≤ r.addr + 0x40) ∨ (r'.addr + 8 ≤ r.addr ∧ r.addr + 8 ≤ r'.addr + 0x40) := by
    decide
  rw [signalRegs_at hr, signalRegs_at hr']
  rcases h r hr r' hr' with rfl | h | h
  · simp only [true_and]
    omega
  · omega
  · omega

theorem words_apart {r r' : Reg} {i j k l : Nat}
    (h : r.at i j + 8 ≤ r'.at k l ∨ r'.at k l + 8 ≤ r.at i j) :
    ∀ a ∈ r.words i j, a ∉ r'.words k l := by
  have hspan : ∀ (r : Reg) i j, ∀ a ∈ r.words i j, a = r.at i j ∨ a = r.at i j + 4 := by
    intro r i j a ha
    unfold Reg.words at ha
    split at ha <;> simp only [List.mem_cons, List.not_mem_nil, or_false] at ha <;> omega
  intro a ha ha'
  have h1 := hspan _ _ _ a ha
  have h2 := hspan _ _ _ a ha'
  omega

theorem resetWord_lt {r : Reg} (h : r.reset < 2 ^ 32) (id : Ident) (a : Nat) :
    resetWord id r a < 2 ^ 32 := by
  unfold resetWord
  split_ifs <;> omega

/-- The intake's uses of its pairs leave the signal records as it reads them. -/
theorem useSignals_keeps_rd (hr : r ∈ signalRegs) : useSignals.Keeps fun s => s.rd r n := by
  have hfacts : ∀ r ∈ signalRegs, r.oneSlot = true ∧ regSlot r.addr ≠ 0x90 ∧ r.reset < 2 ^ 32
      ∧ 0xF0621000 ≤ r.addr ∧ r.addr + 0x40 * 63 + 4 < 0xF0622000 := by decide
  obtain ⟨h1, h2, h3, hlo, hhi⟩ := hfacts r hr
  have hmod : n % 64 < 64 := Nat.mod_lt _ (by decide)
  have hq : r.quiet n 0 := quiet_of_span h1 h2 eventWords_signals fun a ha => by
    unfold Reg.words at ha
    rw [signalRegs_at hr] at ha
    split at ha <;> simp only [List.mem_cons, List.not_mem_nil, or_false] at ha <;> omega
  refine useRegs_keeps_rd hq (fun id => resetWord_lt h3 id _) fun r' hr' k l => ?_
  by_cases hm : r' ∈ signalRegs
  · rcases signalRegs_apart (n := n) hr hm k l with h | h
    · exact .inr h
    · exact .inl (words_apart h)
  · have hsplit : r' ∈ signalRegs ++ [R.SVC_INTERLOCK] := hr'
    have hi : r' = R.SVC_INTERLOCK :=
      List.mem_singleton.mp ((List.mem_append.mp hsplit).resolve_left hm)
    refine .inl (words_apart (.inr ?_))
    rw [hi, signalRegs_at hr]
    have : R.SVC_INTERLOCK.at k l = 0xF0620018 := by
      rw [Reg.at, show R.SVC_INTERLOCK.s1 = 0 from rfl, show R.SVC_INTERLOCK.s2 = 0 from rfl,
        Nat.zero_mul, Nat.zero_mul]
      rfl
    omega

theorem useSignals_svc : useSignals.Keeps State.svc := fun s =>
  within_useSignals (partsLe_refl _) s .svc rfl

end signals

/-- What the intake's store writes is read back from bank A. -/
theorem ijWrite_bytes {a : Nat} {bs : List Byte} (hm : s.memsOk) (hA : s.lamp.retARetired = false)
    (ha : a + bs.length ≤ MemId.size .retA) :
    ((ijWrite a bs).run s).bytes .retA a bs.length = bs := by
  have hB : ∀ u : State, ((Prog.when (!s.lamp.retBRetired) (store .retB a bs)).run u).retA
      = u.retA := keeps_when (π := State.retA) fun _ _ => rfl
  refine (bytes_congr fun c _ _ => byte_of_mem ?_ c).trans (bytes_store hm ha)
  rw [ijWrite, run_seq, retWrite, run_look, run_all_cons, run_all_cons, run_all_cons, run_all_nil,
    run_when_pos (show (!s.lamp.retARetired) = true by simp [hA])]
  exact hB _

theorem signalStale_marked {n : Nat} (hn : n < 64) (hrun : s.svc.intakeRun = true)
    (hen : s.flag F.SVC_SIG_ID_EN n = true) (hst : s.fld F.SVC_SIG_TIM_STALE n ≠ 0)
    (hf : bitN (s.snap n 0x0C 2) 1 = 0) (hm : s.memsOk) (hA : s.lamp.retARetired = false) :
    ∃ t, exec (.signalStale n) s = .next t ∧ t.bytes .retA (snapBase + 0x4C + 16 * n) 2
        = leBytes 2 (setBits (s.snap n 0x0C 2) 1 1 1) := by
  obtain ⟨u, hu⟩ : ∃ u, useSignals.run s = u := ⟨_, rfl⟩
  have hrd : ∀ r ∈ signalRegs, u.rd r n = s.rd r n := fun r hr =>
    hu ▸ useSignals_keeps_rd hr s
  have hcells : ∀ i, holdsCell (flagCell n i) (s.retCell (flagCell n i)) u := fun i =>
    hu ▸ useRegs_holdsCell (.inr (by unfold flagCell snapBase; omega)) _ s ⟨hm, rfl⟩
  have hsnap : u.snap n 0x0C 2 = s.snap n 0x0C 2 := snapFlags_of_cells fun i _ => (hcells i).2
  have huA : u.lamp.retARetired = false := (congrArg (·.2.2.1) (hcells 0).2).trans hA
  refine ⟨_, rfl, ?_⟩
  rw [run_seq, run_look, hu, run_when_pos, run_all_cons, run_all_cons, hsnap]
  · obtain ⟨u1, hu1⟩ : ∃ u1, (Prog.when (u.sigKind n = 2) (writeIconState n 1)).run u = u1 :=
      ⟨_, rfl⟩
    have hok1 : u1.memsOk := hu1 ▸ run_memsOk _ (hcells 0).1
    have hA1 : u1.lamp.retARetired = false := by
      have hw : (Prog.when (u.sigKind n = 2) (writeIconState n 1)).Within [.regs 0x42] :=
        within_when (within_writeIconState (partsLe_refl _))
      rw [← hu1, show _ = u.lamp from hw u .lamp rfl, huA]
    rw [hu1]
    obtain ⟨u2, hu2⟩ : ∃ u2, (ijWrite (snapBase + 0x40 + 16 * n + 0x0C)
        (leBytes 2 (setBits (s.snap n 0x0C 2) 1 1 1))).run u1 = u2 := ⟨_, rfl⟩
    have hwritten : u2.bytes .retA (snapBase + 0x4C + 16 * n) 2
        = leBytes 2 (setBits (s.snap n 0x0C 2) 1 1 1) := by
      have := ijWrite_bytes (a := snapBase + 0x4C + 16 * n)
        (bs := leBytes 2 (setBits (s.snap n 0x0C 2) 1 1 1)) hok1 hA1
        (by rw [length_leBytes]; unfold snapBase; simp only [MemId.size]; omega)
      rw [length_leBytes] at this
      rwa [← hu2, show snapBase + 0x40 + 16 * n + 0x0C = snapBase + 0x4C + 16 * n by omega]
    rw [hu2, ← hwritten]
    refine bytes_congr fun a ha ha' => ?_
    have hlast : snapBase + 0x0D ≤ a := by omega
    have hrest := preserves_all_cons (raise_holdsCell (a := a) (v := u2.retCell a)
      (.inr (by unfold snapBase at hlast; omega)) (0x6007 + 0x100 * u.sigCtrl n) unitHub 0 0xFF 0 0xFF) <|
      preserves_all_cons (preserves_when (c := n = u.fld F.SVC_INTERLOCK_SPEED_SIG)
        (settleMoving_holdsCell hlast)) <|
      preserves_all_cons (newSnapshot_holdsCell hlast) preserves_all_nil
    exact congrArg (·.1) (hrest u2 ⟨hu2 ▸ run_memsOk _ hok1, rfl⟩).2
  · refine ⟨hn, (congrArg (·.intakeRun) (hu ▸ useSignals_svc s)).trans hrun, ?_, ?_, hsnap ▸ hf⟩
    · rw [State.flag, fld_congr (f := F.SVC_SIG_ID_EN) (hrd _ (by decide))]
      exact hen
    · rw [fld_congr (f := F.SVC_SIG_TIM_STALE) (hrd _ (by decide))]
      exact hst

/-- Settles O52: a controller's states and queue, and the mark of a stale signal, which the rest of
the snapshot's writes leave. -/
theorem canControllersAndStaleSignals : Obligations.CanControllersAndStaleSignals :=
  ⟨fun _ _ => canDisable_closes, fun _ _ _ _ => canFrame_sent, fun _ _ => canBusOff_reported,
    fun _ _ => canBusOff_recovers, fun _ _ _ _ => canTx_abandoned,
    fun _ _ _ _ => canPassive_reported, fun _ _ => signalStale_marked⟩

end Sys2Proof.Machine
end

section
/-! PROOFS. TE edges (R317 to R319): O36. The start and the stop of the camera (R194 to R196): O41. -/

set_option Elab.async false

namespace Sys2Proof.Machine

variable {s t : State} {x : Nat} {v : Bool} {k : Int}

/-- A message stays reported through a program that leaves the ring. -/
theorem reports_run {p : Prog} {c u : Nat} (hr : (p.run t).ring = t.ring) (h : s.reports t c u) :
    s.reports (p.run t) c u := reports_of_ring h hr

/-- The model's test for an active edge. -/
theorem edge_active (hv : v = (bitN (nth 0 s.sco.timing 5) x == 0)) :
    (v == (bitN (nth 0 s.sco.timing 5) x == 0)) = true := beq_iff_eq.mpr hv

section edges
variable (hx : x < 2) (hg : s.sco.genRun = true) (hc : s.commandMode = true)
  (hv : v = (bitN (nth 0 s.sco.timing 5) x == 0))
include hx hg hc hv

theorem teEdge_frameDue (hsel : s.teOutput = x) (htr : s.transmitting = false)
    (he : s.tooEarly = false) : ∃ t, exec (.teEdge x v k) s = .next t ∧ t.sco.due = true
      ∧ t.sco.freerun = false ∧ t.sco.outs = s.sco.outs := by
  refine ⟨_, rfl, ?_⟩
  rw [run_seq, run_when_pos ⟨hx, hg, hc, edge_active hv⟩, if_pos hsel.symm,
    if_neg (by simp [htr]), if_neg (by simp [he])]
  exact ⟨rfl, rfl, rfl⟩

theorem teEdge_tooEarly (hsel : s.teOutput = x) (htr : s.transmitting = false)
    (he : s.tooEarly = true) : ∃ t, exec (.teEdge x v k) s = .next t ∧ t.sco = s.sco
      ∧ s.reports t 0x4105 (unitSco x) := by
  refine ⟨_, rfl, ?_⟩
  rw [run_seq, run_when_pos ⟨hx, hg, hc, edge_active hv⟩, if_pos hsel.symm,
    if_neg (by simp [htr]), if_pos he, run_seq]
  exact ⟨by simp, reports_after (by simp)⟩

theorem teEdge_otherOutput (hsel : s.teOutput ≠ x) (h0 : (s.output 0).phase ≠ 0)
    (h1 : (s.output 1).phase ≠ 0) (hw : s.sco.teWait.isSome = true)
    (hk : k.natAbs ≤ s.timing.htotal) :
    ∃ t, exec (.teEdge x v k) s = .next t ∧ t.sco = { s.sco with teWait := none } := by
  have hboth : ((s.output 0).phase != 0 && (s.output 1).phase != 0) = true := by
    simp [h0, h1]
  refine ⟨_, rfl, ?_⟩
  rw [run_seq, run_when_pos ⟨hx, hg, hc, edge_active hv⟩, if_neg (fun h => hsel h.symm),
    run_when_pos ⟨hboth, .inl hw⟩, if_neg (by omega)]
  rfl

end edges

theorem teBMissing_reported (hw : s.sco.teWait.isSome = true) :
    ∃ t, exec .teBMissing s = .next t ∧ t.sco.teWait = none ∧ t.free = s.free + 1
      ∧ s.reports t 0x4102 (unitSco 1) := by
  refine ⟨_, outcome_when hw _ _, ?_⟩
  rw [run_seq, teSkew, run_all_cons, run_all_cons, run_all_cons, run_all_cons, run_all_nil]
  exact ⟨by simp, by simp, reports_run (by simp) (reports_run (by simp) (reports_after (by simp)))⟩

theorem teTimeout_runsFreely (hg : s.sco.genRun = true) (hc : s.commandMode = true)
    (hf : s.sco.freerun = false) (hd : s.sco.due = false) :
    ∃ t, exec .teTimeout s = .next t ∧ t.sco.freerun = true ∧ t.sco.due = true
      ∧ s.reports t 0x4103 (unitSco s.teOutput) ∧ t.fld F.SCO_FREERUN_COUNT_COUNT
        = min F.SCO_FREERUN_COUNT_COUNT.max (s.fld F.SCO_FREERUN_COUNT_COUNT + 1) := by
  refine ⟨_, outcome_when ⟨hg, hc, hf, hd⟩ _ _, ?_⟩
  rw [run_all_cons, run_all_cons, run_all_cons, run_all_nil]
  refine ⟨by simp, by simp, reports_after (by simp), ?_⟩
  rw [fld_congr (raise_keeps_rd rfl (by decide) (by decide) _), fld_bump_self _ _ rfl]
  rfl

/-- Settles O36: each case of a TE edge, and the two timers that stand in for one. -/
theorem teEdgesStartFrames : Obligations.TeEdgesStartFrames :=
  ⟨fun _ _ _ _ hx hg hc hv hsel htr => ⟨teEdge_frameDue hx hg hc hv hsel htr,
    teEdge_tooEarly hx hg hc hv hsel htr⟩,
    fun _ _ _ _ => teEdge_otherOutput, fun _ => teBMissing_reported,
    fun _ => teTimeout_runsFreely, fun _ hg hf => ⟨_, outcome_when ⟨hg, hf⟩ _ _, rfl⟩⟩

/-! ### The camera -/

theorem bitN_camCtrlWord (v en : Nat) (h : en < 2) : bitN (camCtrlWord v en) 0 = en := by
  have hb : ∀ x, bitN x 0 = (x.testBit 0).toNat := fun x => by
    rw [Nat.toNat_testBit, bitN, Nat.shiftRight_eq_div_pow]
  rw [hb, camCtrlWord, Nat.testBit_or, Nat.testBit_and]
  interval_cases en <;> simp

section camera
variable {v : Nat}

theorem running_of_flag (h : s.flag F.CAM_STATUS_RUNNING = true) :
    s.fld F.CAM_STATUS_RUNNING = 1 := by
  have hle := fld_le_max s F.CAM_STATUS_RUNNING 0 0
  have hmax : F.CAM_STATUS_RUNNING.max = 1 := by decide
  have hne : s.fld F.CAM_STATUS_RUNNING ≠ 0 := by simpa [State.flag] using h
  omega

theorem stopped_of_flag (h : s.flag F.CAM_STATUS_RUNNING = false) :
    s.fld F.CAM_STATUS_RUNNING = 0 := by simpa [State.flag] using h

/-- A commit of CAM_CTRL leaves the other words that it is decided on. -/
theorem rd_setCamCtrl (w : Nat) : ∀ q ∈ [R.CAM_STATUS, R.SYS_STATE, R.CAM_LANE, R.CAM_PHY_CFG],
    ((setReg R.CAM_CTRL w).run s).rd q = s.rd q := fun q hq => rd_setReg_words (by revert q; decide)

theorem camStatus_setCamCtrl (w : Nat) (f : Field) (hf : f.reg = R.CAM_STATUS) :
    ((setReg R.CAM_CTRL w).run s).fld f = s.fld f :=
  fld_congr (hf ▸ rd_setCamCtrl w _ (by decide))

theorem secondary_setCamCtrl (w : Nat) :
    ((setReg R.CAM_CTRL w).run s).secondary = s.secondary := by
  rw [State.secondary, fld_congr (f := F.SYS_STATE_ROLE) (rd_setCamCtrl w _ (by decide))]
  rfl

section starting
variable (hr : s.flag F.CAM_STATUS_RUNNING = false) (ha : s.flag F.CAM_STATUS_ABSENT = false)
  (hh : s.cam.held = false) (hp : s.lamp.power = .running) (hs : s.secondary = false)
include hr ha hh hp hs

/-- The commit of a start comes down to the receiver's checks. -/
theorem run_camStart : (camCtrlCommit (camCtrlWord v 1)).run s =
    (let u := (setReg R.CAM_CTRL (camCtrlWord v 1)).run s
    (if u.camStartOk (camCtrlWord v 1) then Prog.all [
      usePair R.CAM_CTRL,
      usePair R.CAM_WINDOW,
      setF F.CAM_STATUS_RUNNING 1,
      firstWrite [.csi],
      modCam fun c => { c with ctrl := camCtrlWord v 1, lane := u.rd R.CAM_LANE,
                               phy := u.rd R.CAM_PHY_CFG, closing := false, frame := none,
                               dropping := false, lastPub := u.time }]
    else raise 0x310B unitCam).run u) := by
  rw [camCtrlCommit, run_look, run_when_pos (.inr ha), run_seq, camCommit, run_look,
    if_neg, if_neg]
  · rw [bitN_camCtrlWord v 1 (by decide), setReg_cam, setReg_lamp, secondary_setCamCtrl]
    simp [hh, hp, hs]
  · rw [State.flag, camStatus_setCamCtrl _ _ rfl]
    simpa [State.flag] using hr

theorem camStart_starts
    (hok : ((setReg R.CAM_CTRL (camCtrlWord v 1)).run s).camStartOk (camCtrlWord v 1) = true) :
    ∃ t, exec (.camStart v) s = .next t ∧ t.fld F.CAM_STATUS_RUNNING = 1
      ∧ t.cam.ctrl = camCtrlWord v 1 ∧ t.cam.lane = s.rd R.CAM_LANE
      ∧ t.cam.phy = s.rd R.CAM_PHY_CFG ∧ t.cam.closing = false ∧ t.cam.frame = none
      ∧ t.cam.lastPub = s.time := by
  refine ⟨_, rfl, ?_⟩
  rw [run_camStart hr ha hh hp hs]
  dsimp only
  rw [if_pos hok, rd_setCamCtrl _ _ (by decide), rd_setCamCtrl _ _ (by decide), run_all_cons,
    run_all_cons, run_all_cons, run_all_cons, run_all_cons, run_all_nil]
  refine ⟨?_, rfl, rfl, rfl, rfl, rfl, run_time _ _⟩
  rw [run_modCam, act_cam_fld, fld_of_within (within_firstWrite (partsLe_refl _)) rfl rfl,
    fld_setF_self _ _ rfl]
  rfl

theorem camStart_refused
    (hok : ((setReg R.CAM_CTRL (camCtrlWord v 1)).run s).camStartOk (camCtrlWord v 1) = false) :
    ∃ t, exec (.camStart v) s = .next t ∧ t.cam = s.cam ∧ t.fld F.CAM_STATUS_RUNNING = 0
      ∧ s.reports t 0x310B unitCam := by
  refine ⟨_, rfl, ?_⟩
  rw [run_camStart hr ha hh hp hs]
  dsimp only
  rw [if_neg (by simp [hok])]
  refine ⟨by simp, ?_, reports_after (by simp)⟩
  rw [fld_congr (raise_keeps_rd rfl (by decide) (by decide) _), camStatus_setCamCtrl _ _ rfl]
  exact stopped_of_flag hr

end starting

section stopping
variable (hr : s.flag F.CAM_STATUS_RUNNING = true)
include hr

theorem run_camStop : (camCtrlCommit (camCtrlWord v 0)).run s =
    (if s.cam.frame = none then camStopNow else modCam fun c => { c with closing := true }).run
      ((setReg R.CAM_CTRL (camCtrlWord v 0)).run s) := by
  have h0 := bitN_camCtrlWord v 0 (by decide)
  rw [camCtrlCommit, run_look, run_when_pos (.inl h0), run_seq, camCommit, run_look, if_pos,
    if_neg (by rw [h0]; decide), setReg_cam]
  rw [State.flag, camStatus_setCamCtrl _ _ rfl]
  exact hr

theorem camStop_stops (hf : s.cam.frame = none) : ∃ t, exec (.camStop v) s = .next t
    ∧ t.fld F.CAM_STATUS_RUNNING = 0 ∧ t.cam = { s.cam with closing := false, dropping := false }
    ∧ s.onlyChanges [.regs 0x31, .cam] t := by
  have ht : exec (.camStop v) s = .next (((setReg R.CAM_CTRL (camCtrlWord v 0)).seq
      camStopNow).run s) := by
    show Prog.outcome _ s = _
    rw [Prog.outcome, run_camStop hr, if_pos hf]
    rfl
  have hwithin : ((setReg R.CAM_CTRL (camCtrlWord v 0)).seq camStopNow).Within
      [.regs 0x31, .cam] :=
    within_seq (within_setReg rfl (by decide +kernel)) <|
      within_seq (within_setF rfl (by decide +kernel)) (within_modCam (by decide +kernel))
  refine ⟨_, ht, ?_, ?_, onlyChanges_of_within hwithin s⟩ <;> rw [run_seq, camStopNow, run_seq]
  · rw [run_modCam, act_cam_fld, fld_setF_self _ _ rfl]
    rfl
  · simp

theorem camStop_closes (hf : s.cam.frame ≠ none) : ∃ t, exec (.camStop v) s = .next t
    ∧ t.fld F.CAM_STATUS_RUNNING = 1 ∧ t.cam = { s.cam with closing := true } := by
  refine ⟨_, rfl, ?_⟩
  rw [run_camStop hr, if_neg hf]
  refine ⟨?_, by simp⟩
  rw [run_modCam, act_cam_fld, camStatus_setCamCtrl _ _ rfl]
  exact running_of_flag hr

end stopping
end camera

/-- Settles O41: a start comes down to its checks, a stop to the frame in progress. -/
theorem cameraStartsAndStops : Obligations.CameraStartsAndStops :=
  ⟨fun _ _ hr ha hh hp hs => ⟨fun hok _ => camStart_starts hr ha hh hp hs hok,
    camStart_refused hr ha hh hp hs⟩,
    fun _ _ hr => ⟨camStop_stops hr, camStop_closes hr⟩⟩

end Sys2Proof.Machine
end

section
/-! PROOFS. Plaza, the Avenue, the LPDDR4X's temperature and translation (chapter 04): O14 to O17. -/

set_option Elab.async false

namespace Sys2Proof.Machine

variable {s t : State}

/-! ### Fault messages: order of reports, and the reclaimer's own state -/

theorem reports_later {u : State} {c n : Nat} (h : s.nextSeq ≤ t.nextSeq) (hr : t.reports u c n) :
    s.reports u c n := by
  obtain ⟨r, hmem, hcode, hunit, hseq⟩ := hr
  exact ⟨r, hmem, hcode, hunit, le_trans h hseq⟩

/-- A fault message is reported by a state whose record numbers have not gone back. -/
theorem reports_raise {c u d q g st : Nat} (h : s.nextSeq ≤ t.nextSeq) :
    s.reports ((raise c u d q g st).run t) c u :=
  reports_later h (raise_reports t c u d q g st)

/-- The reclaimer's state but for the mark that the ring has wrapped. -/
def State.rclCore (s : State) : Rcl := { s.rcl with ringWrap := false }

theorem rclCore_of_rcl (h : t.rcl = s.rcl) : t.rclCore = s.rclCore := by
  rw [State.rclCore, h]
  rfl

theorem setReg_rclCore (r : Reg) (v i j : Nat) : (setReg r v i j).Keeps State.rclCore :=
  fun _ => rclCore_of_rcl (setReg_rcl ..)

theorem takeMessage_rclCore (c u d q g st : Nat) :
    (takeMessage c u d q g st).Keeps State.rclCore := by
  have hret : ∀ a bs, (retWrite a bs).Keeps State.rclCore := fun a bs s =>
    rclCore_of_rcl (retWrite_rcl ..)
  refine keeps_all_cons (keeps_look fun _ => keeps_all_cons (keeps_when fun _ _ => rfl) <|
    keeps_all_cons (fun _ => rfl) <| keeps_all_cons (keeps_when fun _ => hret _ _) keeps_all_nil) <|
    keeps_all_cons ?_ <| keeps_all_cons (keeps_look fun _ => keeps_each fun _ => keeps_when fun _ =>
      keeps_look fun _ => setReg_rclCore _ _ _ _) keeps_all_nil
  unfold setEventBit
  split
  · exact keeps_skip
  · exact keeps_when fun _ => keeps_look fun _ => setReg_rclCore _ _ _ _

/-- Of the reclaimer a fault message changes the ring's mark only. -/
theorem raise_rclCore (c u d q g st : Nat) : (raise c u d q g st).Keeps State.rclCore :=
  keeps_seq (keeps_each fun _ => keeps_look fun _ => keeps_when fun _ =>
    keeps_seq (setReg_rclCore _ _ _ _) (takeMessage_rclCore _ _ _ _ _ _))
    (takeMessage_rclCore _ _ _ _ _ _)

/-! ### Two fields of one register -/

/-- The fields' bits lie side by side. -/
def Field.beside (g f : Field) : Bool :=
  decide ((g.hi < f.lo ∨ f.hi < g.lo) ∧ f.lo ≤ f.hi ∧ g.hi < 32)

theorem fld_setF_beside {g f : Field} (hreg : g.reg = f.reg) (h : g.beside f = true)
    (v i j : Nat) : ((setF f v i j).run s).fld g i j = s.fld g i j := by
  obtain ⟨h1, h2, h3⟩ := of_decide_eq_true h
  exact fld_setF_other s (.inr ⟨hreg, rfl, rfl, h1, h2, h3⟩)

/-! ### The initialisation of Plaza (R109, R111, R112, R459) -/

/-- The reports of the initialisation leave what it wrote. -/
theorem plazaInitReports_keep (bad : List Nat) (failed : List Link) :
    (Prog.all [(match bad with
      | [b] => raise 0x0304 (unitBank b) b
      | _ => .skip),
    (match failed with
      | [l] => .seq (modRcl fun c => { c with detour := true })
          (raise 0x9006 (unitRouter l.node) (l.node + l.port * 2 ^ 8))
      | _ => .skip)]).Keeps fun u => (u.plaza, u.ave) := by
  refine keeps_all_cons ?_ (keeps_all_cons ?_ keeps_all_nil) <;> split
  · exact fun u => by simp
  · exact keeps_skip
  · exact fun u => by simp
  · exact keeps_skip

theorem plazaInit_runs {banks : List Nat} {links : List Link} (hp : s.lamp.power = .waking)
    (hw : 3 ≤ s.lamp.wakingStep) (hn : s.lamp.resetNLow = false) (hi : s.ave.initDone = false) :
    ∃ t, exec (.plazaInitDone banks links) s = .next t ∧ t.plaza = []
      ∧ t.ave = { s.ave with
          locks := List.replicate 64 none, plazaErrs := [], plazaPoison := ⟨[], []⟩
          failedBanks := (banks.filter (· < 32)).dedup, failedLinks := links.dedup
          initDone := true }
      ∧ ∀ b, (banks.filter (· < 32)).dedup = [b] → links.dedup = [] →
        s.reports t 0x0304 (unitBank b) := by
  have ht : exec (.plazaInitDone banks links) s = .next _ := outcome_when ⟨hp, hw, hn, hi⟩ _ _
  obtain ⟨bad, hbad⟩ : ∃ bad, (banks.filter (· < 32)).dedup = bad := ⟨_, rfl⟩
  obtain ⟨failed, hfailed⟩ : ∃ failed, links.dedup = failed := ⟨_, rfl⟩
  rw [run_all_cons, run_all_cons, hbad, hfailed] at ht
  rw [hbad, hfailed]
  generalize hu : (modAve _).run _ = u at ht
  obtain ⟨hplaza, have'⟩ := Prod.mk.inj (plazaInitReports_keep bad failed u)
  refine ⟨_, ht, hplaza.trans (hu ▸ rfl), have'.trans (hu ▸ rfl), ?_⟩
  rintro b rfl rfl
  have hseq : u.nextSeq = s.nextSeq := hu ▸ rfl
  dsimp only
  rw [run_all_cons, run_all_cons, run_all_nil, run_skip]
  exact reports_raise hseq.ge

/-- Settles O14: what the initialisation writes stays through its reports. -/
theorem plazaInitialisationClearsPlaza : Obligations.PlazaInitialisationClearsPlaza := by
  intro s banks links hp hw hn hi
  obtain ⟨t, ht, hplaza, have', hreports⟩ := plazaInit_runs (banks := banks) (links := links)
    hp hw hn hi
  refine ⟨t, ht, hplaza, ?_⟩
  rw [have']
  refine ⟨rfl, rfl, rfl, rfl, fun b => ?_, fun l => List.mem_dedup, fun b hb hbanks hlinks => ?_,
    exec_onlyChanges ht⟩
  · rw [List.mem_dedup, List.mem_filter, decide_eq_true_eq]
  · exact hreports b (by simp [hbanks, hb]) (by rw [hlinks]; rfl)

theorem modAve_errs_restore {g h : List MemErr → List MemErr}
    (hgh : h (g s.ave.plazaErrs) = s.ave.plazaErrs) :
    (modAve fun v => { v with plazaErrs := h v.plazaErrs }).run
      ((modAve fun v => { v with plazaErrs := g v.plazaErrs }).run s) = s := by
  show { s with ave := { s.ave with plazaErrs := h (g s.ave.plazaErrs) } } = s
  rw [hgh]

/-! ### The patrol scrub (R113, R115) -/

/-- Errors without the single-bit error of one word. -/
def withoutErr (w : Nat) (l : List MemErr) : List MemErr :=
  l.filter fun e => !([⟨w, false⟩] : List MemErr).contains e

theorem scrub_corrects {w : Nat} (hlive : s.live = true)
    (hpair : s.pairOk R.AVE_SCRUB_CTRL 0 0 = true) (hen : s.flag F.AVE_SCRUB_CTRL_EN = true)
    (herr : s.ave.plazaErrs = []) (hw : 64 * (w / 8) < s.plazaTop) :
    ∃ t, exec (.patrolScrub [w / 8] [⟨w, false⟩]) s = .next t ∧ t.ave = s.ave
      ∧ t.fld F.AVE_PLZ_ERR_COUNT_CE
        = min F.AVE_PLZ_ERR_COUNT_CE.max (s.fld F.AVE_PLZ_ERR_COUNT_CE + 1)
      ∧ t.fld F.AVE_EVENT_PLZ_CE = 1 ∧ s.onlyChanges [.regs 0x03] t := by
  have hnew : newErrs [w / 8] [⟨w, false⟩] [] = [⟨w, false⟩] := by simp [newErrs]
  have hin : errsIn [⟨w, false⟩] (64 * (w / 8)) 64 = [⟨w, false⟩] := by
    rw [errsIn, List.filter_cons_of_pos (by simp; omega), List.filter_nil]
  have hline : ∀ u : State, u.ave.plazaErrs = [⟨w, false⟩] →
      (scrubLine (w / 8)).run u = (Prog.all [
        modAve fun v => { v with plazaErrs := withoutErr w v.plazaErrs },
        bump F.AVE_PLZ_ERR_COUNT_CE 1,
        setF F.AVE_EVENT_PLZ_CE 1]).run u := by
    intro u hu
    rw [scrubLine, run_look, hu, hin]
    rfl
  have hback : (modAve fun v => { v with plazaErrs := withoutErr w v.plazaErrs }).run
      ((modAve fun v => { v with
        plazaErrs := v.plazaErrs ++ newErrs [w / 8] [⟨w, false⟩] v.plazaErrs }).run s) = s := by
    refine modAve_errs_restore (g := fun l => l ++ newErrs [w / 8] [⟨w, false⟩] l) ?_
    rw [herr, hnew]
    simp [withoutErr]
  have hwithin : Prog.Within [.regs 0x03] (.seq (bump F.AVE_PLZ_ERR_COUNT_CE 1)
      (setF F.AVE_EVENT_PLZ_CE 1)) :=
    within_seq (within_bump rfl (by decide +kernel)) (within_setF rfl (by decide +kernel))
  have ht : exec (.patrolScrub [w / 8] [⟨w, false⟩]) s
      = .next ((setF F.AVE_EVENT_PLZ_CE 1).run ((bump F.AVE_PLZ_ERR_COUNT_CE 1).run s)) := by
    refine (outcome_when hlive _ _).trans ?_
    rw [run_seq, run_usePair_of_pairOk hpair, run_look, run_when_pos hen, run_seq,
      List.filter_cons_of_pos (by simpa using hw), List.filter_nil, run_each_cons, run_each_nil,
      hline _ (by simp [herr, hnew]), run_all_cons, run_all_cons, run_all_cons, run_all_nil, hback]
  refine ⟨_, ht, by simp, ?_, ?_, onlyChanges_of_within hwithin s⟩
  · rw [fld_setF_other _ (.inl (by decide)), fld_bump_self _ _ rfl]
  · rw [fld_setF_self _ _ rfl]
    rfl

/-! ### Link parity (R130, R458) -/

theorem linkParity_replayed {n p : Nat} (lost : List Nat) (hlive : s.live = true) (hn : n < 36)
    (hp : p < 4) (hl : ⟨n, p⟩ ∉ s.ave.failedLinks) :
    ∃ t, exec (.linkParityError n p false lost) s = .next t ∧ t.fld F.AVE_EVENT_LINK_REPLAY = 1
      ∧ t.fld F.AVE_REPLAY_COUNT_COUNT
          = min F.AVE_REPLAY_COUNT_COUNT.max (s.fld F.AVE_REPLAY_COUNT_COUNT + 1)
      ∧ t.ave.failedLinks = s.ave.failedLinks ∧ s.onlyChanges [.regs 0x03, .ave] t := by
  have hl' : s.ave.failedLinks.contains ⟨n, p⟩ = false := by simpa using hl
  have hwithin : (Prog.all [bump F.AVE_REPLAY_COUNT_COUNT, setF F.AVE_EVENT_LINK_REPLAY 1,
      modAve fun v => { v with
        replayFails := (⟨n, p⟩, 0) :: v.replayFails.filter fun e => e.1 != ⟨n, p⟩ }]).Within
      [.regs 0x03, .ave] :=
    within_all_cons (within_bump rfl (by decide +kernel)) <|
      within_all_cons (within_setF rfl (by decide +kernel)) <|
        within_all_cons (within_modAve (by decide +kernel)) within_all_nil
  refine ⟨_, outcome_when ⟨hlive, hn, hp, hl'⟩ _ _, ?_, ?_, ?_, onlyChanges_of_within hwithin s⟩ <;>
    rw [run_all_cons, run_all_cons, run_all_cons, run_all_cons, run_all_nil, if_neg (by decide),
      run_when_neg (by decide), run_skip, run_modAve]
  · rw [act_ave_fld, fld_setF_self _ _ rfl]
    rfl
  · rw [act_ave_fld, fld_setF_other _ (.inl (by decide)), fld_bump_self _ _ rfl]
  · simp

theorem injectionHold_of_rclCore (h : t.rclCore = s.rclCore) :
    t.rcl.injectionHold = s.rcl.injectionHold ∧ t.rcl.detour = s.rcl.detour :=
  ⟨(congrArg Rcl.injectionHold h : t.rclCore.injectionHold = s.rclCore.injectionHold),
    (congrArg Rcl.detour h : t.rclCore.detour = s.rclCore.detour)⟩

theorem linkParity_fails {n p : Nat} (hlive : s.live = true) (hn : n < 36) (hp : p < 4)
    (hl : s.ave.failedLinks = [])
    (hf : s.ave.replayFails.find? (fun e => e.1 == ⟨n, p⟩) = some (⟨n, p⟩, 2)) :
    ∃ t, exec (.linkParityError n p true []) s = .next t ∧ t.ave.failedLinks = [⟨n, p⟩]
      ∧ t.rcl.injectionHold = true ∧ t.rcl.detour = true ∧ s.reports t 0x9006 (unitRouter n) := by
  have hl' : s.ave.failedLinks.contains ⟨n, p⟩ = false := by rw [hl]; rfl
  refine ⟨_, outcome_when ⟨hlive, hn, hp, hl'⟩ _ _, ?_⟩
  rw [run_all_cons, run_all_cons, run_all_cons, run_all_cons, run_all_nil, hf, if_pos rfl,
    run_when_pos (c := 3 ≤ _) (by show 3 ≤ 2 + 1; decide), linkFails, run_look, if_neg (by simp [hl])]
  simp only [run_all_cons, run_all_nil, run_each_nil]
  obtain ⟨hhold, hdetour⟩ := injectionHold_of_rclCore (raise_rclCore 0x9006 (unitRouter n)
    (n + p * 2 ^ 8) 0xFF 0 0xFF ((modRcl fun c => { c with
      injectionHold := true, detour := true }).run _))
  refine ⟨by simp [hl], hhold, hdetour, reports_raise ?_⟩
  have hseq := raise_nextSeq_lt 0x0308 (unitRouter n) 0 0xFF 0 0xFF
  simp only [run_modRcl, act_rcl_nextSeq, run_modAve, act_ave_nextSeq]
  refine le_trans ?_ (hseq _).le
  simp

/-- Settles O15: the scrubbed word, the replay that mends, and the third that fails. -/
theorem scrubAndLinkReplay : Obligations.ScrubAndLinkReplay :=
  ⟨fun _ _ => scrub_corrects, fun _ _ _ lost => linkParity_replayed lost,
    fun _ _ _ => linkParity_fails⟩

/-! ### Poison tags and MR4 (R125, R138) -/

theorem bits_low {i : Nat} (hi : i < 2 ^ 24) : bits i 23 0 = i := Nat.mod_eq_of_lt hi

/-- Settles O16: a tag is cleared where its memory holds it; a reading goes to its fields. -/
theorem poisonClearAndMr4 : Obligations.PoisonClearAndMr4 := by
  refine ⟨fun s i hlive hi => ⟨fun hp => ⟨_, outcome_when hlive _ _, ?_⟩,
    fun hd => ⟨_, outcome_when hlive _ _, ?_⟩⟩, fun s m k hot hlive hd hr => ?_⟩
  · have h0 : bitN i 31 = 0 := by
      rw [bitN, Nat.shiftRight_eq_div_pow]
      omega
    rw [poisonClearWrite, bits_low hi]
    dsimp only
    rw [run_look, run_modAve, if_pos h0, if_pos hp]
    rfl
  · have h1 : bitN (i + 2 ^ 31) 31 = 1 := by
      rw [bitN, Nat.shiftRight_eq_div_pow]
      omega
    have hb : bits (i + 2 ^ 31) 23 0 = i := by
      rw [bits, Nat.shiftRight_zero]
      omega
    rw [poisonClearWrite, hb]
    dsimp only
    rw [run_look, run_modAve, if_neg (by rw [h1]; decide), if_pos hd]
    rfl
  · have ht : exec (.lpddrMr4Poll m k hot) s = .next _ := outcome_when ⟨hlive, hd, hr⟩ _ _
    have hevent : (Prog.when (hot = true) (.seq (setF F.DDR_EVENT_TEMP_HIGH 1)
        (raise 0x8003 unitDdr))).Keeps fun u => u.rd R.DDR_STATUS := keeps_when fun _ =>
      keeps_seq (fun u => rd_setReg_words (by decide)) (raise_keeps_rd rfl (by decide) (by decide))
    refine ⟨_, ht, ?_, ?_, fun hhot => ?_, fun hhot => ?_⟩
    · rw [run_all_cons, run_all_cons, run_all_cons, run_all_nil,
        fld_congr (f := F.DDR_STATUS_MR4_RATE) (hevent _), fld_setF_beside (g := F.DDR_STATUS_MR4_RATE)
          (f := F.DDR_STATUS_REF_MULT) rfl rfl, fld_setF_self _ _ rfl]
      exact Nat.mod_mod ..
    · rw [run_all_cons, run_all_cons, run_all_cons, run_all_nil,
        fld_congr (f := F.DDR_STATUS_REF_MULT) (hevent _), fld_setF_self _ _ rfl]
      have hw : 2 ^ F.DDR_STATUS_REF_MULT.width = 4 := rfl
      rw [hw]
      split <;> omega
    · rw [run_all_cons, run_all_cons, run_all_cons, run_all_nil, run_when_pos hhot, run_seq]
      refine ⟨?_, reports_after (by simp)⟩
      rw [fld_congr (f := F.DDR_EVENT_TEMP_HIGH) (raise_keeps_rd rfl (by decide) (by decide) _),
        fld_setF_self _ _ rfl]
      rfl
    · have hwithin : (Prog.seq (setF F.DDR_STATUS_MR4_RATE (m % 8))
          (setF F.DDR_STATUS_REF_MULT (if hot then 2 else min k 2))).Within [.regs 0x80] :=
        within_seq (within_setF rfl (by decide +kernel)) (within_setF rfl (by decide +kernel))
      rw [run_all_cons, run_all_cons, run_all_cons, run_all_nil, run_when_neg (by simp [hhot]),
        run_skip]
      exact onlyChanges_of_within hwithin s

/-! ### Invalidations and roots (R147, R149) -/

/-- The translation unit's words and roots of one ASID. -/
def State.asidWords (s : State) (a : Nat) : Nat × Nat × List (Nat × Bool) :=
  (s.rd R.XLT_GEN a, s.rd R.XLT_ROOT_HI a, s.xlt.roots)

section asid
variable {a : Nat} (ha : a < 16)

theorem asidWords_eq (hg : t.rd R.XLT_GEN a = s.rd R.XLT_GEN a)
    (hhi : t.rd R.XLT_ROOT_HI a = s.rd R.XLT_ROOT_HI a) (hr : t.xlt.roots = s.xlt.roots) :
    t.asidWords a = s.asidWords a := by
  rw [State.asidWords, hg, hhi, hr]
  rfl

theorem deviceEvent_asidWords (n : Nat) : (deviceEvent n).Keeps fun s => s.asidWords a := by
  intro s
  have hw := within_deviceEvent (a := n) (b := false) (partsLe_refl _)
  exact asidWords_eq (rd_of_within hw rfl (by decide +kernel) s a 0)
    (rd_of_within hw rfl (by decide +kernel) s a 0)
    (congrArg (fun x : Xlt => x.roots) (hw s .xlt (by decide +kernel)))

include ha

theorem setReg_asidWords {r : Reg} (hr : r ∈ [R.XLT_INVAL_PEND, R.XLT_EVENT]) (v : Nat) :
    (setReg r v).Keeps fun s => s.asidWords a := by
  have hap : ∀ a < 16, ∀ r ∈ [R.XLT_INVAL_PEND, R.XLT_EVENT],
      (∀ w ∈ R.XLT_GEN.words a 0, w ∉ r.words 0 0)
        ∧ ∀ w ∈ R.XLT_ROOT_HI.words a 0, w ∉ r.words 0 0 := by
    decide
  obtain ⟨hg, hhi⟩ := hap a ha r hr
  exact fun s => asidWords_eq (rd_setReg_words hg) (rd_setReg_words hhi) (by rw [setReg_xlt])

theorem settleInvalidations_asidWords (hd : s.xlt.deferred = []) :
    (settleInvalidations.run s).asidWords a = s.asidWords a := by
  rw [settleInvalidations, run_look, hd]
  refine keeps_all_cons (π := fun s => s.asidWords a) (fun _ => rfl) (keeps_all_cons keeps_skip
    (keeps_all_cons (keeps_each fun _ => keeps_look fun _ => keeps_when fun _ => ?_)
      keeps_all_nil)) s
  exact keeps_all_cons (setReg_asidWords ha (by decide) _) <|
    keeps_all_cons (keeps_look fun _ => setReg_asidWords ha (by decide) _) <|
    keeps_all_cons (deviceEvent_asidWords 13) keeps_all_nil

/-- An invalidation that nothing holds back advances the generation at once. -/
theorem invalidate_advances (h1 : 1 ≤ a) (hd : s.xlt.deferred = [])
    (hh : s.holdsRun a (fun l => l.gen == (s.gen a + 1) % 2 ^ 32) = false) :
    ((invalidate a).run s).asidWords a
      = ((s.rd R.XLT_GEN a + 1) % 2 ^ 32, s.rd R.XLT_ROOT_HI a, s.xlt.roots) := by
  have hgen : s.gen a = s.rd R.XLT_GEN a := if_neg (by omega)
  have hap : ∀ a < 16, ∀ w ∈ R.XLT_ROOT_HI.words a 0, w ∉ R.XLT_GEN.words a 0 := by decide
  have hset := setReg_asidWords ha (r := R.XLT_INVAL_PEND) (by decide)
    (s.rd R.XLT_INVAL_PEND ||| 2 ^ a) s
  simp only [State.asidWords, Prod.mk.injEq] at hset
  obtain ⟨-, hhi, hroots⟩ := hset
  have hnot : ¬ (s.holdsRun a fun l => l.gen == (s.gen a + 1) % 2 ^ 32) = true := by
    rw [hh]; decide
  rw [invalidate, if_neg (by omega), run_seq, bumpGeneration, run_look, run_seq, if_neg hnot,
    settleInvalidations_asidWords ha (by rw [setReg_xlt, setReg_xlt, hd]), State.asidWords,
    rd_setReg_self, rd_setReg_words (hap a ha), setReg_xlt, hhi, hroots, hgen,
    Nat.mod_mod]

theorem inval_advances (hlive : s.live = true) (h1 : 1 ≤ a) (hd : s.xlt.deferred = [])
    (hh : s.holdsRun a (fun l => l.gen == (s.gen a + 1) % 2 ^ 32) = false) :
    ∃ t, exec (.xltInvalidate a) s = .next t
      ∧ t.rd R.XLT_GEN a = (s.rd R.XLT_GEN a + 1) % 2 ^ 32 := by
  have hone : ∀ a < 16, (upTo 16).filter (fun b => bitN (2 ^ a) b == 1) = [a] := by decide
  refine ⟨_, outcome_when ⟨hlive, ha⟩ _ _, ?_⟩
  rw [invalWrite, hone a ha, run_each_cons, run_each_nil]
  exact congrArg Prod.fst (invalidate_advances ha h1 hd hh)

theorem rootCommit_takes {v : Nat} (hlive : s.live = true) (h1 : 1 ≤ a)
    (hd : s.xlt.deferred = []) (hlen : s.xlt.roots.length = 16)
    (hh : s.holdsRun a (fun l => l.gen == (s.gen a + 1) % 2 ^ 32) = false) :
    ∃ t, exec (.xltRootCommit a v) s = .next t ∧ t.rd R.XLT_ROOT_HI a = v % 2 ^ 32 &&& 0x10F
      ∧ nth (0, false) t.xlt.roots a
          = (s.fld F.XLT_ROOT_LO_ROOT a * 4096 + v % 16 * 2 ^ 32, bitN v 8 == 1)
      ∧ t.rd R.XLT_GEN a = (s.rd R.XLT_GEN a + 1) % 2 ^ 32 := by
  have hap : ∀ a < 16, (∀ w ∈ R.XLT_GEN.words a 0, w ∉ R.XLT_ROOT_HI.words a 0)
      ∧ ∀ w ∈ R.XLT_ROOT_LO.words a 0, w ∉ R.XLT_ROOT_HI.words a 0 := by decide
  obtain ⟨hgenw, hlow⟩ := hap a ha
  obtain ⟨u, hu⟩ : ∃ u, (setReg R.XLT_ROOT_HI (v % 2 ^ 32 &&& 0x10F) a).run s = u := ⟨_, rfl⟩
  have hgen : u.rd R.XLT_GEN a = s.rd R.XLT_GEN a := hu ▸ rd_setReg_words hgenw
  have hlo : u.rd R.XLT_ROOT_LO a = s.rd R.XLT_ROOT_LO a := hu ▸ rd_setReg_words hlow
  have hxlt : u.xlt = s.xlt := hu ▸ setReg_xlt ..
  have hwrd : u.wrd = s.wrd := hu ▸ setReg_wrd ..
  have hhi : u.rd R.XLT_ROOT_HI a = v % 2 ^ 32 &&& 0x10F := by
    rw [← hu, rd_setReg_self]
    exact Nat.mod_eq_of_lt (lt_of_le_of_lt Nat.and_le_right (by decide))
  refine ⟨_, outcome_when hlive _ _, ?_⟩
  rw [rootWrite, run_when_pos ⟨h1, ha⟩, run_all_cons, run_all_cons, run_all_cons, run_all_nil, hu,
    run_look, run_modXlt, hlo]
  generalize hw : (Act.xlt _).apply u = w
  have hwgen : w.gen a = s.gen a := by
    rw [State.gen, State.gen, ← hw, act_xlt_rd, hgen]
  have hwholds : w.holdsRun a (fun l => l.gen == (w.gen a + 1) % 2 ^ 32) = false := by
    have hholders : w.runHolders = s.runHolders := by
      rw [State.runHolders, State.runHolders, State.openStops, State.openStops, ← hw,
        act_xlt_wrd, hwrd]
    rw [hwgen, ← hh, State.holdsRun, State.holdsRun, hholders]
  have hdone := invalidate_advances ha h1 (s := w) (by rw [← hw]; exact hxlt ▸ hd) hwholds
  simp only [State.asidWords, Prod.mk.injEq] at hdone
  obtain ⟨hg, hr, hroots⟩ := hdone
  rw [hg, hr, hroots, ← hw, act_xlt_rd, act_xlt_rd, hhi, hgen]
  refine ⟨rfl, ?_, rfl⟩
  exact nth_upd_self (by rw [hxlt, hlen]; exact ha)

end asid

/-- Settles O17: nothing holds the increment back, and what settles after it leaves the words. -/
theorem invalidationAndRootCommit : Obligations.InvalidationAndRootCommit :=
  ⟨fun _ _ hlive h1 ha => inval_advances ha hlive h1,
    fun _ _ _ hlive h1 ha => rootCommit_takes ha hlive h1⟩

end Sys2Proof.Machine
end

section
/-! PROOFS. The reclaimer's fences and the wardens' takeover (chapters 05 and 16): O19, O28. -/

set_option Elab.async false

namespace Sys2Proof.Machine

variable {s t : State}

/-! ### The fence of a tile core (R451, R455) -/

/-- A tile core is recovered in place, and its fence does nothing more at once. -/
theorem tile_recovery {u : Nat} (h1 : 12 ≤ u) (h2 : u < 28) (code status : Nat) :
    recoverWith u code status = fenceWith [u] code status ∧ fencedNow u = .look fun _ => .skip := by
  constructor
  · rw [recoverWith, if_neg (by omega), if_pos]
    interval_cases u <;> rfl
  · interval_cases u <;> rfl

/-- The fence of a tile core that is not fenced yet. -/
theorem fence_tile {u code status : Nat} (h1 : 12 ≤ u) (h2 : u < 28) (hlive : s.live = true)
    (he : s.rcl.escalating = false) (hp : s.rcl.pending.length < 8) (hf : u ∉ s.rcl.fenced) :
    (recoverWith u code status).run s = (Prog.seq
      (modRcl fun c => { c with
        fenced := c.fenced ++ [u]
        pending := c.pending ++ [⟨[u], code, status, 1, s.time, s.servedBy [u] true,
          s.servedBy [u] false, []⟩] })
      (modAve fun v => { v with gates := v.gates ++ [u] })).run s := by
  obtain ⟨hrec, hnow⟩ := tile_recovery h1 h2 code status
  have hnew : [u].filter (fun u => !s.rcl.fenced.contains u) = [u] := by
    simp [hf]
  rw [hrec, fenceWith, run_look, run_seq, fenceUnits, run_look, hnew]
  dsimp only
  rw [run_when_pos (show [u] ≠ [] ∧ s.live = true ∧ s.rcl.escalating = false from
    ⟨by simp, hlive, he⟩), run_when_pos (show s.live = true ∧ s.rcl.escalating = false from
    ⟨hlive, he⟩), run_all_cons, run_all_cons, run_all_cons, run_all_nil,
    run_when_neg (show ¬8 < s.rcl.pending.length + 1 by omega), run_skip, run_each_cons,
    run_each_nil, hnow]
  rfl

/-- A tile core's own fault is recorded, and the core fenced with one recovery pending. -/
theorem faultOfTile {u code d q g st : Nat} (h1 : 12 ≤ u) (h2 : u < 28) (hlive : s.live = true)
    (he : s.rcl.escalating = false) (hp : s.rcl.pending.length < 8) (hf : u ∉ s.rcl.fenced)
    {p : Prog} (hlp : p.Within [.regs 0x20]) :
    let t := (recoverWith u code 0x0A).run (p.run ((raise code u d q g st).run s))
    s.reports t code u ∧ t.rcl.fenced = s.rcl.fenced ++ [u]
      ∧ t.rcl.pending.length = s.rcl.pending.length + 1 := by
  obtain ⟨v, hv⟩ : ∃ v, p.run ((raise code u d q g st).run s) = v := ⟨_, rfl⟩
  have hrcl : v.rclCore = s.rclCore :=
    (rclCore_of_rcl (hv ▸ hlp _ .rcl rfl)).trans (raise_rclCore code u d q g st s)
  have hfenced : v.rcl.fenced = s.rcl.fenced :=
    (congrArg Rcl.fenced hrcl : v.rclCore.fenced = s.rclCore.fenced)
  have hpending : v.rcl.pending = s.rcl.pending :=
    (congrArg Rcl.pending hrcl : v.rclCore.pending = s.rclCore.pending)
  have hesc : v.rcl.escalating = s.rcl.escalating :=
    (congrArg Rcl.escalating hrcl : v.rclCore.escalating = s.rclCore.escalating)
  have hvlive : v.live = true := by
    have hlamp : v.lamp = ((raise code u d q g st).run s).lamp := hv ▸ hlp _ .lamp rfl
    rw [State.live, hlamp]
    exact (raise_live code u d q g st s).trans hlive
  have hring : v.ring = ((raise code u d q g st).run s).ring := hv ▸ (hlp _ .ring rfl).1
  dsimp only
  rw [hv, fence_tile h1 h2 hvlive (hesc.trans he) (by rw [hpending]; exact hp)
    (by rw [hfenced]; exact hf), run_seq]
  refine ⟨reports_of_ring (raise_reports s code u d q g st) hring, ?_, ?_⟩
  · simp [hfenced]
  · simp [hpending]

/-! ### Messages and injection (R443, R451) -/

theorem faultMessage_recorded {m : FaultMsg} (hlive : s.live = true) (hu : isUnit m.unit = true)
    (hc : isFaultCode m.code = true) (hown : isUnitFault m.code = false) :
    ∃ t, exec (.faultMessage m) s = .next t ∧ s.reports t m.code m.unit := by
  have hbank : ∀ u : State, (bankDown.run u).ring = u.ring := fun u => by
    rw [bankDown, run_seq]
    refine (within_escalate (partsLe_refl _) _ .ring rfl).1.trans ?_
    simp
  refine ⟨_, outcome_when ⟨hlive, hu, hc⟩ _ _, ?_⟩
  rw [run_seq]
  refine reports_run ?_ (raise_reports ..)
  split
  · exact hbank _
  · rw [run_seq, run_when_neg (by simp [hown]), run_skip]
    exact keeps_when (π := State.ring) (fun _ _ => by simp) _

theorem faultMessage_fences {m : FaultMsg} (hlive : s.live = true) (h1 : 12 ≤ m.unit)
    (h2 : m.unit < 28) (hc : isFaultCode m.code = true) (hown : isUnitFault m.code = true)
    (hcheck : s.faultsInCheck m.unit = none) (he : s.rcl.escalating = false)
    (hp : s.rcl.pending.length < 8) (hf : m.unit ∉ s.rcl.fenced) :
    ∃ t, exec (.faultMessage m) s = .next t ∧ s.reports t m.code m.unit
      ∧ t.rcl.fenced = s.rcl.fenced ++ [m.unit]
      ∧ t.rcl.pending.length = s.rcl.pending.length + 1 := by
  have hu : isUnit m.unit = true := by
    rw [isUnit, Bool.or_eq_true, decide_eq_true_eq]
    omega
  have hne : m.code ≠ 0x0303 := fun h => by
    rw [h] at hown
    exact absurd hown (by decide)
  have hcount : (Prog.when (m.code = 0x2001) (bump F.TILE_ERR_COUNT_UE)).Within [.regs 0x20] :=
    within_when (within_bump rfl (by decide +kernel))
  refine ⟨_, outcome_when ⟨hlive, hu, hc⟩ _ _, ?_⟩
  rw [run_seq, if_neg hne, run_seq, run_when_pos hown, hcheck]
  exact faultOfTile h1 h2 hlive he hp hf hcount

/-- The word of RCL_INJECT that names unit `u`. -/
theorem injectWord {u : Nat} (h2 : u < 28) : bits (0xA5000000 + u) 6 0 = u
    ∧ bits (0xA5000000 + u) 31 24 = 0xA5 ∧ isUnit u = true := by
  have hall : ∀ u < 28, bits (0xA5000000 + u) 6 0 = u ∧ bits (0xA5000000 + u) 31 24 = 0xA5
      ∧ isUnit u = true := by decide +kernel
  exact hall u h2

theorem faultInject_fences {u v : Nat} (hlow : bits v 6 0 = u) (hkey : bits v 31 24 = 0xA5)
    (hu : isUnit u = true) (hlive : s.live = true) (h1 : 12 ≤ u) (h2 : u < 28)
    (hcheck : s.faultsInCheck u = none) (he : s.rcl.escalating = false)
    (hp : s.rcl.pending.length < 8) (hf : u ∉ s.rcl.fenced) :
    ∃ t, exec (.faultInject v) s = .next t ∧ s.reports t 0x900B u
      ∧ t.rcl.fenced = s.rcl.fenced ++ [u] ∧ t.rcl.pending.length = s.rcl.pending.length + 1 := by
  have ht : exec (.faultInject v) s = .next ((injectFault v).run s) := rfl
  refine ⟨_, ht, ?_⟩
  rw [injectFault, hlow, run_look, run_when_pos ⟨hlive, hkey, hu⟩, run_seq, hcheck]
  dsimp only
  rw [← run_skip ((raise 0x900B u).run s)]
  exact faultOfTile h1 h2 hlive he hp hf within_skip

/-- Settles O19: a message leaves its record, and a tile core's own fault also its fence. -/
theorem faultMessagesAndInjection : Obligations.FaultMessagesAndInjection := by
  refine ⟨fun _ _ => faultMessage_recorded, fun _ _ => faultMessage_fences, ?_⟩
  intro s u hlive h1 h2
  obtain ⟨hlow, hkey, hu⟩ := injectWord h2
  generalize 0xA5000000 + u = v at hlow hkey ⊢
  exact faultInject_fences hlow hkey hu hlive h1 h2

/-! ### The takeover (R155, R156) -/

/-- The wardens' state but for the slots and the shadows. -/
def State.desk (s : State) : Wrd := { s.wrd with slots := [], shadows := [] }

theorem desk_of_wrd (h : t.wrd = s.wrd) : t.desk = s.desk := by
  rw [State.desk, h]
  rfl

theorem keeps_desk_of_within {p : Prog} {W : List Part} (hp : p.Within W)
    (hw : coveredBy W .wrd = false) : p.Keeps State.desk :=
  fun s => desk_of_wrd (hp s .wrd hw)

theorem modSlot_desk (i : Nat) (f : OpenStop → OpenStop) : (modSlot i f).Keeps State.desk :=
  fun _ => rfl

theorem setSlot_desk (i : Nat) (o : Option OpenStop) : (setSlot i o).Keeps State.desk :=
  fun _ => rfl

theorem updateShadow_desk (q : Nat) : (updateShadow q).Keeps State.desk := fun _ => rfl

theorem regainCores_desk (i : Nat) : (regainCores i).Keeps State.desk :=
  keeps_look fun s => by
    split
    · exact keeps_skip
    · refine keeps_when fun _ => keeps_all_cons
        (keeps_when fun _ => keeps_desk_of_within (within_requestPlls (partsLe_refl _)) rfl) <|
        keeps_all_cons (keeps_each fun _ =>
          keeps_desk_of_within (within_takeLease (partsLe_refl _)) rfl) <|
        keeps_all_cons (modSlot_desk _ _) <| keeps_all_cons (keeps_each fun _ =>
          keeps_desk_of_within (within_resumeCore (partsLe_refl _)) rfl) keeps_all_nil

theorem releaseUnits_desk (i : Nat) : (releaseUnits i).Keeps State.desk :=
  keeps_look fun s => by
    split
    · exact keeps_skip
    · exact keeps_all_cons (keeps_each fun _ => fun _ => rfl) <|
        keeps_all_cons (keeps_desk_of_within (within_dropUnitWork (partsLe_refl _)) rfl) <|
        keeps_all_cons (modSlot_desk _ _) <|
        keeps_all_cons (keeps_each regainCores_desk) <|
        keeps_all_cons (keeps_desk_of_within (within_startCalibrations (partsLe_refl _)) rfl)
        keeps_all_nil

/-- What a takeover settles: that it ran, that no warden waits for one, and who owns a queue. -/
def State.watch (s : State) : Bool × Option Nat × (Nat → Nat) :=
  (s.wrd.takeover, s.wrd.diverged, fun q => (s.queue q).owner)

theorem watch_of_desk (h : t.desk = s.desk) : t.watch = s.watch :=
  congrArg (a₁ := t.desk) (a₂ := s.desk) (fun w =>
    (w.takeover, w.diverged, fun q => (nth (Queue.reset q) w.queues q).owner)) h

theorem modQueue_watch {q : Nat} {f : Queue → Queue} (hf : ∀ x, (f x).owner = x.owner) :
    (modQueue q f).Keeps State.watch := fun s => by
  refine Prod.ext rfl (Prod.ext rfl (funext fun i => ?_))
  change (nth (Queue.reset i) (upd s.wrd.queues q _) i).owner = (nth _ s.wrd.queues i).owner
  rw [nth_upd]
  split
  · next h => rw [hf, h.1]
  · rfl

theorem requeueStop_watch (i : Nat) : (requeueStop i).Keeps State.watch :=
  keeps_look fun s => by
    split
    · exact keeps_skip
    · exact keeps_all_cons (fun s => watch_of_desk (releaseUnits_desk i s)) <|
        keeps_all_cons (fun s => watch_of_desk (setSlot_desk i none s)) <|
        keeps_all_cons (modQueue_watch fun _ => rfl) <|
        keeps_all_cons (fun s => watch_of_desk (updateShadow_desk _ s)) keeps_all_nil

theorem takeOver_watch (o : OpenStop) : (takeOver o).Keeps State.watch :=
  keeps_ite (requeueStop_watch _) <| keeps_when fun _ =>
    keeps_seq (fun s => watch_of_desk (modSlot_desk _ _ s)) fun _ => rfl

/-! ### The records of the ring only grow in number -/

/-- The next record's number is `n` or later. -/
def State.seqFrom (n : Nat) (s : State) : Prop := n ≤ s.nextSeq

section seqFrom
variable {n : Nat}

theorem seqFrom_of_within {p : Prog} {W : List Part} (hp : p.Within W)
    (hw : coveredBy W .ring = false) : p.Preserves (State.seqFrom n) := fun s h => by
  rw [State.seqFrom, (hp s .ring hw).2]
  exact h

theorem raise_seqFrom (c u d q g st : Nat) : (raise c u d q g st).Preserves (State.seqFrom n) :=
  fun s h => le_trans h (raise_nextSeq_lt c u d q g st s).le

theorem usePair_seqFrom (r : Reg) (i j : Nat) : (usePair r i j).Preserves (State.seqFrom n) :=
  preserves_look fun _ => preserves_when <| preserves_all_cons
    (raise_seqFrom _ _ _ _ _ _) <| preserves_all_cons (fun s h => by rw [State.seqFrom, setReg_nextSeq]; exact h) preserves_all_nil

theorem takeLease_seqFrom (k a b c d e : Nat) :
    (takeLease k a b c d e).Preserves (State.seqFrom n) :=
  seqFrom_of_within (within_takeLease (partsLe_refl _)) rfl

theorem modAve_seqFrom (f : Ave → Ave) : (modAve f).Preserves (State.seqFrom n) := fun _ h => h

theorem takeLock_seqFrom (k base pages mode : Nat) (holder : Holder) :
    (takeLock k base pages mode holder).Preserves (State.seqFrom n) :=
  preserves_look fun _ => preserves_seq (modAve_seqFrom _) <| by
    cases holder with
    | queue q => exact takeLease_seqFrom _ _ _ _ _ _
    | unit u => exact preserves_seq (usePair_seqFrom _ _ _) (takeLease_seqFrom _ _ _ _ _ _)
    | loader => exact takeLease_seqFrom _ _ _ _ _ _

theorem releaseLock_seqFrom (who : Holder) (base pages : Nat) :
    (releaseLock who base pages).Preserves (State.seqFrom n) :=
  preserves_look fun s => by
    split
    · exact preserves_all_cons (modAve_seqFrom _) <| preserves_all_cons (fun _ h => h) <|
        preserves_all_cons (preserves_look fun _ => by
          split
          · exact preserves_skip
          · exact preserves_seq (modAve_seqFrom _) (takeLock_seqFrom _ _ _ _ _)) preserves_all_nil
    · exact modAve_seqFrom _

theorem dropUnitWork_seqFrom (i : Nat) : (dropUnitWork i).Preserves (State.seqFrom n) :=
  preserves_all_cons (fun _ h => h) <| preserves_all_cons (fun _ h => h) <|
  preserves_all_cons (fun _ h => h) <| preserves_all_cons (fun _ h => h) <|
  preserves_all_cons (fun _ h => h) <|
  preserves_all_cons (preserves_each fun _ => preserves_look fun _ => preserves_seq
    (preserves_each fun _ => preserves_look fun _ => releaseLock_seqFrom _ _ _) (fun _ h => h))
  preserves_all_nil

theorem releaseUnits_seqFrom (i : Nat) : (releaseUnits i).Preserves (State.seqFrom n) :=
  preserves_look fun s => by
    split
    · exact preserves_skip
    · exact preserves_all_cons (preserves_each fun _ => fun _ h => h) <|
        preserves_all_cons (dropUnitWork_seqFrom i) <| preserves_all_cons (fun _ h => h) <|
        preserves_all_cons (preserves_each fun _ =>
          seqFrom_of_within (within_regainCores (partsLe_refl _)) rfl) <|
        preserves_all_cons (seqFrom_of_within (within_startCalibrations (partsLe_refl _)) rfl)
        preserves_all_nil

theorem requeueStop_seqFrom (i : Nat) : (requeueStop i).Preserves (State.seqFrom n) :=
  preserves_look fun s => by
    split
    · exact preserves_skip
    · exact preserves_all_cons (releaseUnits_seqFrom i) <| preserves_all_cons (fun _ h => h) <|
        preserves_all_cons (fun _ h => h) <| preserves_all_cons (fun _ h => h) preserves_all_nil

theorem takeOver_seqFrom (o : OpenStop) : (takeOver o).Preserves (State.seqFrom n) :=
  preserves_ite (requeueStop_seqFrom _) <| preserves_when <|
    preserves_seq (fun _ h => h) fun _ h => h

end seqFrom

/-- The takeover gives every queue to the survivor. -/
theorem takeover_queue {w q : Nat} (hq : q < 16) {f : Nat → Queue}
    (hf : ∀ q, (f q).owner = 1 - w) :
    (nth (Queue.reset q) ((upTo 16).map f) q).owner = 1 - w := by
  rw [nth, upTo, List.getD_eq_getElem?_getD, List.getElem?_map, List.getElem?_range hq]
  exact hf q

theorem takeover_moves {w : Nat} (hlive : s.live = true) (hd : s.wrd.diverged = some w) :
    ∃ t, exec .wardenTakeover s = .next t ∧ t.wrd.takeover = true ∧ t.wrd.diverged = none
      ∧ (∀ q, q < 16 → (t.queue q).owner = 1 - w) ∧ t.fld F.WRD_EVENT_TAKEOVER = 1
      ∧ s.reports t 0x0506 (1 - w) := by
  refine ⟨_, outcome_when hlive _ _, ?_⟩
  rw [hd]
  dsimp only
  rw [run_all_cons, run_all_cons, run_all_cons, run_all_cons, run_all_nil]
  obtain ⟨mine, hmine⟩ : ∃ l, (s.openStops.filter fun o => (s.queue o.stop.queue).owner == w) = l :=
    ⟨_, rfl⟩
  rw [hmine]
  generalize hv : (modWrd _).run s = v
  have hwatch : v.wrd.takeover = true ∧ v.wrd.diverged = none
      ∧ ∀ q, q < 16 → (v.queue q).owner = 1 - w := by
    rw [← hv, run_modWrd]
    refine ⟨rfl, rfl, fun q hq => ?_⟩
    rw [State.queue, act_wrd_wrd]
    dsimp only
    exact takeover_queue hq fun _ => rfl
  have hseq : s.nextSeq ≤ v.nextSeq := by
    rw [← hv]
    exact le_rfl
  obtain ⟨u, hu⟩ : ∃ u, (Prog.each mine takeOver).run v = u := ⟨_, rfl⟩
  have hkeeps : u.watch = v.watch := hu ▸ keeps_each takeOver_watch v
  have hgrow : s.nextSeq ≤ u.nextSeq := hu ▸ preserves_each takeOver_seqFrom v hseq
  have hfld : ((setF F.WRD_EVENT_TAKEOVER 1).run u).fld F.WRD_EVENT_TAKEOVER = 1 :=
    (fld_setF_self _ _ rfl _ _ _).trans rfl
  rw [hu]
  refine ⟨?_, ?_, fun q hq => ?_, ?_, reports_raise (by rw [setF_nextSeq]; exact hgrow)⟩
  · rw [raise_wrd, setF_wrd]
    exact (congrArg (·.1) hkeeps).trans hwatch.1
  · rw [raise_wrd, setF_wrd]
    exact (congrArg (·.2.1) hkeeps).trans hwatch.2.1
  · rw [State.queue, raise_wrd, setF_wrd]
    exact (congrFun (congrArg (·.2.2) hkeeps) q).trans (hwatch.2.2 q hq)
  · exact (fld_raise_of_no_event rfl rfl (by decide) _).trans hfld

theorem divergence_fences {w : Nat} (hw : w < 2) (hlive : s.live = true)
    (hok : s.wardenOk w = true) (hother : s.wardenOk (1 - w) = true)
    (ht : s.wrd.takeover = false) :
    ∃ t, exec (.wardenDivergence w) s = .next t ∧ t.wardenOk w = false
      ∧ t.wardenOk (1 - w) = true ∧ t.wrd.diverged = some w ∧ w ∈ t.ave.gates
      ∧ t.fld F.WRD_EVENT_DIVERGE = 1 ∧ s.reports t 0x0501 w := by
  obtain ⟨v, hv⟩ : ∃ v, (raise 0x0501 w).run ((setF F.WRD_EVENT_DIVERGE 1).run s) = v := ⟨_, rfl⟩
  have hwrd : v.wrd = s.wrd := by rw [← hv]; simp
  have hvok : ∀ x, v.wardenOk x = s.wardenOk x := fun x => by
    rw [State.wardenOk, State.wardenOk, hwrd]
  refine ⟨_, outcome_when ⟨hw, hlive, hok⟩ _ _, ?_⟩
  rw [run_all_cons, run_all_cons, run_all_cons, run_all_nil, hv, wardenFault, run_look,
    run_when_pos ((hvok w).trans hok), run_all_cons, run_all_cons, run_all_cons, run_all_nil,
    run_when_neg (by rw [hwrd, hvok, ht, hother]; decide), run_skip]
  have hfld : v.fld F.WRD_EVENT_DIVERGE = 1 := by
    rw [← hv, fld_raise_of_no_event rfl rfl (by decide), fld_setF_self _ _ rfl]
    rfl
  have hring : s.reports v 0x0501 w := by
    rw [← hv]
    exact reports_after (by simp)
  interval_cases w
  · exact ⟨rfl, (hvok 1).trans hother, rfl, List.mem_append_right _ (List.mem_singleton.mpr rfl),
      hfld, hring⟩
  · exact ⟨rfl, (hvok 0).trans hother, rfl, List.mem_append_right _ (List.mem_singleton.mpr rfl),
      hfld, hring⟩

/-- Settles O28: a diverging warden is fenced, and the survivor takes every queue. -/
theorem wardenTakeoverMovesEveryQueue : Obligations.WardenTakeoverMovesEveryQueue :=
  ⟨fun _ _ hw => divergence_fences hw, fun _ _ hlive => takeover_moves hlive⟩

end Sys2Proof.Machine
end

section
/-! PROOFS. The crossing unit (chapter 05, R171 to R174, R176): O26. -/

set_option Elab.async false

namespace Sys2Proof.Machine

variable {s t : State} {n : Nat}

/-! ### One crossing at a time -/

theorem inv32_mod (v : Nat) : inv32 (v % 2 ^ 32) = inv32 v := by
  unfold inv32
  omega

theorem crossing_of_xng (h : t.xng = s.xng) : t.crossing n = s.crossing n := by
  unfold State.crossing
  rw [h]

theorem crossing_of_within {p : Prog} {W : List Part} (hp : p.Within W)
    (hw : coveredBy W .xng = false) (s : State) : (p.run s).crossing n = s.crossing n :=
  crossing_of_xng (hp s .xng hw)

theorem crossing_putCrossing (c : Crossing) : ((putCrossing n c).run s).crossing n = c := by
  rw [putCrossing, run_look, run_seq]
  refine (crossing_of_xng
    (keeps_when (π := State.xng) (fun _ s => retWrite_xng _ _ _) _)).trans ?_
  exact congrArg (Option.getD · (Crossing.fresh 0)) keyGet_keyPut_self

theorem checkCrossing_ok (h : (s.crossing n).pairsOk = true) : (checkCrossing n).run s = s := by
  rw [checkCrossing, run_look, run_when_neg (by simp [h]), run_skip]

theorem changeCounter_crossing (new : Nat) (failed set : Bool) :
    ((changeCounter n new failed set).run s).crossing n
      = if failed then (s.crossing n).withValue new
          (if (s.crossing n).value = new % 2 ^ 32 then none
           else some ((s.crossing n).value, new % 2 ^ 32))
        else if set then (s.crossing n).withValue new none
        else (s.crossing n).keepWin new := by
  rw [changeCounter, run_look, run_all_cons, run_all_cons, run_all_cons, run_all_nil,
    crossing_of_within (within_exportSignal (partsLe_refl _)) rfl,
    crossing_of_within (within_notifyWardens (partsLe_refl _)) rfl, crossing_putCrossing]

theorem withValue_value (c : Crossing) (v : Nat) (w : Option (Nat × Nat)) :
    (c.withValue v w).value = v % 2 ^ 32 := by
  cases w <;> rfl

theorem withValue_pairsOk (c : Crossing) (v : Nat) (w : Option (Nat × Nat)) :
    (c.withValue v w).pairsOk = true := by
  have hv := inv32_mod v
  cases w <;> simpa [Crossing.withValue, Crossing.pairsOk] using hv.symm

theorem keepWin_pairsOk {c : Crossing} (h : c.pairsOk = true) (v : Nat) :
    (c.keepWin v).pairsOk = true := by
  simp only [Crossing.pairsOk, Bool.and_eq_true, beq_iff_eq] at h ⊢
  obtain ⟨⟨⟨-, hlo⟩, hhi⟩, hst⟩ := h
  exact ⟨⟨⟨(inv32_mod v).symm, hlo⟩, hhi⟩, hst⟩

theorem fresh_mod (v : Nat) : Crossing.fresh (v % 2 ^ 32) = Crossing.fresh v := by
  rw [Crossing.fresh, inv32_mod, Nat.mod_mod]
  rfl

/-! ### Signals on a counter (R171, R176) -/

section counter
variable {operand : Nat} {failed : Bool}

/-- An ADD or a SET of a consistent counter above the device crossings changes it at once. -/
theorem signalCounter_changes (h16 : 16 ≤ n) (hok : (s.crossing n).pairsOk = true)
    (hm : s.isMutex n = false) (hb : (s.crossing n).broken = false) (set : Bool) :
    (signalCounter n operand set failed).run s
      = (changeCounter n (if set then operand else (s.crossing n).value + operand) failed set).run
        s := by
  rw [signalCounter, if_neg (by omega), run_seq, checkCrossing_ok hok, run_look, hm, hb]
  rfl

theorem failed_window {c : Crossing} {new : Nat} (h : new % 2 ^ 32 ≠ c.value) :
    (c.withValue new (if c.value = new % 2 ^ 32 then none else some (c.value, new % 2 ^ 32))).winLo
      = c.value
    ∧ (c.withValue new
      (if c.value = new % 2 ^ 32 then none else some (c.value, new % 2 ^ 32))).winValid = true := by
  rw [if_neg h.symm]
  exact ⟨rfl, rfl⟩

theorem signalAdd_adds (hlive : s.live = true) (h16 : 16 ≤ n) (hn : n < 1024)
    (hok : (s.crossing n).pairsOk = true) (hm : s.isMutex n = false)
    (hb : (s.crossing n).broken = false) :
    ∃ t, exec (.signalAdd n operand failed) s = .next t
      ∧ (t.crossing n).value = ((s.crossing n).value + operand) % 2 ^ 32
      ∧ (t.crossing n).pairsOk = true
      ∧ (failed = true → ((s.crossing n).value + operand) % 2 ^ 32 ≠ (s.crossing n).value →
        (t.crossing n).winLo = (s.crossing n).value ∧ (t.crossing n).winValid = true) := by
  refine ⟨_, outcome_when ⟨hlive, hn⟩ _ _, ?_⟩
  rw [signalCounter_changes h16 hok hm hb, changeCounter_crossing]
  cases failed with
  | true =>
    rw [if_pos rfl]
    exact ⟨withValue_value .., withValue_pairsOk .., fun _ h => failed_window h⟩
  | false => exact ⟨rfl, keepWin_pairsOk hok _, fun h => absurd h (by decide)⟩

theorem signalSet_sets (hlive : s.live = true) (h16 : 16 ≤ n) (hn : n < 1024)
    (hok : (s.crossing n).pairsOk = true) (hm : s.isMutex n = false)
    (hb : (s.crossing n).broken = false) :
    ∃ t, exec (.signalSet n operand failed) s = .next t
      ∧ (t.crossing n).value = operand % 2 ^ 32
      ∧ (failed = true → operand % 2 ^ 32 ≠ (s.crossing n).value →
        (t.crossing n).winLo = (s.crossing n).value ∧ (t.crossing n).winValid = true)
      ∧ (failed = false → (t.crossing n).winValid = false) := by
  refine ⟨_, outcome_when ⟨hlive, hn⟩ _ _, ?_⟩
  rw [signalCounter_changes h16 hok hm hb, changeCounter_crossing]
  cases failed with
  | true =>
    rw [if_pos rfl]
    exact ⟨withValue_value .., fun _ h => failed_window h, fun h => absurd h (by decide)⟩
  | false => exact ⟨rfl, fun h => absurd h (by decide), fun _ => rfl⟩

end counter

/-! ### Refusals (R173, R174) -/

theorem refuseSignal_device : ((refuseSignal n 0x0604).run s).fld F.XNG_EVENT_DEVICE_SET = 1
    ∧ s.reports ((refuseSignal n 0x0604).run s) 0x0604 unitXng
    ∧ ((refuseSignal n 0x0604).run s).xng = s.xng := by
  rw [refuseSignal, if_pos rfl, run_seq]
  have hset : ((setF F.XNG_EVENT_DEVICE_SET 1).run s).fld F.XNG_EVENT_DEVICE_SET = 1 :=
    (fld_setF_self _ _ rfl _ _ _).trans rfl
  refine ⟨?_, reports_after (by simp), by simp⟩
  exact (fld_congr (raise_keeps_rd rfl (by decide) (by decide) _)).trans hset

theorem signalAdd_device {v : Nat} {failed : Bool} (hlive : s.live = true) (hn : n < 16) :
    ∃ t, exec (.signalAdd n v failed) s = .next t ∧ t.fld F.XNG_EVENT_DEVICE_SET = 1
      ∧ s.reports t 0x0604 unitXng ∧ t.xng = s.xng := by
  refine ⟨_, outcome_when ⟨hlive, by omega⟩ _ _, ?_⟩
  rw [signalCounter, if_pos hn]
  exact refuseSignal_device

theorem signalSet_device {v : Nat} {failed : Bool} (hlive : s.live = true) (hn : n < 16) :
    ∃ t, exec (.signalSet n v failed) s = .next t ∧ t.fld F.XNG_EVENT_DEVICE_SET = 1
      ∧ s.reports t 0x0604 unitXng ∧ t.xng = s.xng := by
  refine ⟨_, outcome_when ⟨hlive, by omega⟩ _ _, ?_⟩
  rw [signalCounter, if_pos hn]
  exact refuseSignal_device

/-! ### RELEASE of a mutex (R173) -/

section mutex
variable {q : Nat}

theorem release_frees (hlive : s.live = true) (h16 : 16 ≤ n) (hn : n < 1024) (hq : q < 16)
    (hok : (s.crossing n).pairsOk = true) (hm : s.isMutex n = true)
    (hb : (s.crossing n).broken = false) (hv : (s.crossing n).value = 0x80000000 + q) :
    ∃ t, exec (.signalRelease n q) s = .next t ∧ (t.crossing n).value = 0 := by
  refine ⟨_, outcome_when ⟨hlive, hn, hq⟩ _ _, ?_⟩
  rw [signalRelease, if_neg (by omega), run_seq, checkCrossing_ok hok, run_look,
    if_neg (by simp [hm]), if_neg (by rw [hb, hv]; simp), if_pos hv, run_all_cons, run_all_cons,
    run_all_cons, run_all_nil, crossing_of_within (within_notifyWardens (partsLe_refl _)) rfl,
    crossing_putCrossing]
  exact withValue_value ..

theorem release_refused (hlive : s.live = true) (h16 : 16 ≤ n) (hn : n < 1024) (hq : q < 16)
    (hok : (s.crossing n).pairsOk = true) (hm : s.isMutex n = true)
    (hb : (s.crossing n).broken = false) (hv : (s.crossing n).value ≠ 0x80000000 + q)
    (h0 : (s.crossing n).value ≠ 0) :
    ∃ t, exec (.signalRelease n q) s = .next t ∧ t.xng = s.xng
      ∧ s.reports t 0x0602 unitXng := by
  refine ⟨_, outcome_when ⟨hlive, hn, hq⟩ _ _, ?_⟩
  rw [signalRelease, if_neg (by omega), run_seq, checkCrossing_ok hok, run_look,
    if_neg (by simp [hm]), if_neg (by rw [hb]; simpa using h0), if_neg hv, run_seq]
  exact ⟨by simp, reports_after (by simp)⟩

end mutex

/-! ### XNG_SET (R172, R174) -/

section command
variable {v : Nat}

theorem xngSet_run (hn : n < 1024) :
    exec (.xngSet n v) s = Prog.outcome (Prog.when (s.live = true) (Prog.all [
      setReg R.XNG_SET_VAL v, setReg R.XNG_SET_CMD n, gspSet n (v % 2 ^ 32)])) s := by
  rw [show exec (.xngSet n v) s = execXngSet n v s from rfl, execXngSet, Nat.mod_eq_of_lt hn]

theorem rd_setF_words {q : Reg} {f : Field} {k l i j w : Nat}
    (h : ∀ a ∈ q.words k l, a ∉ f.reg.words i j) : ((setF f w i j).run s).rd q k l = s.rd q k l := by
  rw [setF, run_look, rd_setReg_words h]

/-- The check of a crossing leaves the value register and the modes. -/
theorem checkCrossing_rdValue : (checkCrossing n).Keeps (State.rd · R.XNG_SET_VAL) := by
  have hput : ∀ c, (putCrossing n c).Keeps (State.rd · R.XNG_SET_VAL) := fun c s =>
    rd_of_within (within_putCrossing (partsLe_refl _)) rfl (by decide +kernel) s 0 0
  have hfree : (freeMutexRecord n).Keeps (State.rd · R.XNG_SET_VAL) := fun s =>
    rd_of_within (within_freeMutexRecord (partsLe_refl _)) rfl (by decide +kernel) s 0 0
  exact keeps_look fun _ => keeps_when fun _ =>
    keeps_all_cons (fun _ => raise_keeps_rd rfl (by decide) (by decide) _) <|
    keeps_all_cons (fun _ => rd_setF_words (by decide)) <|
    keeps_all_cons (fun _ => rd_setF_words (by decide)) <|
    keeps_all_cons (keeps_ite (hput _) <| keeps_ite (hput _) <|
      keeps_ite (keeps_seq hfree (hput _)) (hput _)) <|
    keeps_all_cons (fun _ => rfl) keeps_all_nil

theorem putCrossing_mutexes (c : Crossing) : (putCrossing n c).Keeps (·.xng.mutexes) :=
  keeps_look fun _ => keeps_seq (fun _ => rfl) <| keeps_when fun _ _ =>
    congrArg Xng.mutexes (retWrite_xng _ _ _)

theorem checkCrossing_mutexes : (checkCrossing n).Keeps (·.xng.mutexes) :=
  keeps_look fun _ => keeps_when fun _ =>
    keeps_all_cons (fun _ => congrArg Xng.mutexes (raise_xng ..)) <|
    keeps_all_cons (fun _ => congrArg Xng.mutexes (setF_xng ..)) <|
    keeps_all_cons (fun _ => congrArg Xng.mutexes (setF_xng ..)) <|
    keeps_all_cons (keeps_ite (putCrossing_mutexes _) <| keeps_ite (putCrossing_mutexes _) <|
      keeps_ite (keeps_seq (fun s => congrArg Xng.mutexes
        (within_freeMutexRecord (partsLe_refl _) s .xng rfl)) (putCrossing_mutexes _))
        (putCrossing_mutexes _)) <|
    keeps_all_cons (fun _ => rfl) keeps_all_nil

theorem xngSet_sets (hlive : s.live = true) (hn : n < 1024) (h16 : 16 ≤ n)
    (hm : s.isMutex n = false) :
    ∃ t, exec (.xngSet n v) s = .next t ∧ t.crossing n = Crossing.fresh v
      ∧ t.rd R.XNG_SET_VAL = v % 2 ^ 32 := by
  obtain ⟨u, hu⟩ : ∃ u, (setReg R.XNG_SET_CMD n).run ((setReg R.XNG_SET_VAL v).run s) = u :=
    ⟨_, rfl⟩
  have hval : u.rd R.XNG_SET_VAL = v % 2 ^ 32 := by
    rw [← hu, rd_setReg_words (by decide), rd_setReg_self]
  have hmutex : ((checkCrossing n).run u).isMutex n = false := by
    have hmutexes : ((checkCrossing n).run u).xng.mutexes = s.xng.mutexes :=
      (checkCrossing_mutexes u).trans (by
        dsimp only
        rw [← hu, setReg_xng, setReg_xng])
    rw [State.isMutex, hmutexes]
    exact hm
  refine ⟨_, (xngSet_run hn).trans (outcome_when hlive _ _), ?_⟩
  rw [run_all_cons, run_all_cons, run_all_cons, run_all_nil, hu, gspSet, if_neg (by omega), run_seq,
    run_look, if_pos hmutex, run_all_cons, run_all_cons, run_all_cons, run_all_nil]
  constructor
  · rw [crossing_of_within (within_exportSignal (partsLe_refl _)) rfl,
      crossing_of_within (within_notifyWardens (partsLe_refl _)) rfl, crossing_putCrossing,
      fresh_mod]
  · rw [rd_of_within (within_exportSignal (partsLe_refl _)) rfl (by decide +kernel),
      rd_of_within (within_notifyWardens (partsLe_refl _)) rfl (by decide +kernel),
      rd_of_within (within_putCrossing (partsLe_refl _)) rfl (by decide +kernel)]
    exact (checkCrossing_rdValue u).trans hval

theorem xngSet_device (hlive : s.live = true) (hn : n < 16) :
    ∃ t, exec (.xngSet n v) s = .next t ∧ t.xng = s.xng ∧ s.reports t 0x0604 unitXng := by
  obtain ⟨u, hu⟩ : ∃ u, (setReg R.XNG_SET_CMD n).run ((setReg R.XNG_SET_VAL v).run s) = u :=
    ⟨_, rfl⟩
  have hxng : u.xng = s.xng := by rw [← hu, setReg_xng, setReg_xng]
  have hseq : u.nextSeq = s.nextSeq := by rw [← hu, setReg_nextSeq, setReg_nextSeq]
  obtain ⟨-, hrep, hkeep⟩ := refuseSignal_device (s := u) (n := n)
  refine ⟨_, (xngSet_run (by omega)).trans (outcome_when hlive _ _), ?_⟩
  rw [run_all_cons, run_all_cons, run_all_cons, run_all_nil, hu, gspSet, if_pos hn, run_seq]
  exact ⟨hkeep.trans hxng, reports_later hseq.ge hrep⟩

end command

/-- Settles O26: what an operation does to its own crossing, and what a refusal leaves. -/
theorem signalsAndCrossings : Obligations.SignalsAndCrossings :=
  ⟨fun _ _ _ _ hlive h16 hn hok hm hb => ⟨signalAdd_adds hlive h16 hn hok hm hb,
      signalSet_sets hlive h16 hn hok hm hb⟩,
    fun _ _ _ _ hlive hn => ⟨signalAdd_device hlive hn, signalSet_device hlive hn⟩,
    fun _ _ _ hlive h16 hn hq hok hm hb => ⟨release_frees hlive h16 hn hq hok hm hb,
      release_refused hlive h16 hn hq hok hm hb⟩,
    fun _ _ _ hlive hn => ⟨xngSet_sets hlive hn, xngSet_device hlive⟩⟩

end Sys2Proof.Machine
end

section
/-! PROOFS. The steps of a recovery (chapter 16, R451 to R457): O18. -/

set_option Elab.async false

namespace Sys2Proof.Machine

variable {s t : State}

/-! ### Operations under which no recovery starts -/

/-- No recovery is running. -/
def State.atRest (s : State) : Prop := s.rcl.current = none

theorem atRest_of_within {p : Prog} {W : List Part} (hp : p.Within W)
    (hw : coveredBy W .rcl = false) : p.Preserves State.atRest := fun s h => by
  rw [State.atRest, hp s .rcl hw]
  exact h

theorem raise_atRest (c u d q g st : Nat) : (raise c u d q g st).Preserves State.atRest :=
  fun s h => (congrArg Rcl.current (raise_rclCore c u d q g st s) :
    ((raise c u d q g st).run s).rclCore.current = s.rclCore.current).trans h

theorem raiseSecond_atRest (c u d k : Nat) : (raiseSecond c u d k).Preserves State.atRest :=
  preserves_look fun _ => preserves_when <| preserves_seq (fun _ h => h) (raise_atRest _ _ _ _ _ _)

theorem setReg_atRest (r : Reg) (v i j : Nat) : (setReg r v i j).Preserves State.atRest :=
  fun s h => by rwa [State.atRest, setReg_rcl]

theorem setF_atRest (f : Field) (v i j : Nat) : (setF f v i j).Preserves State.atRest :=
  fun s h => by rwa [State.atRest, setF_rcl]

theorem bump_atRest (f : Field) (v i j : Nat) : (bump f v i j).Preserves State.atRest :=
  fun s h => by rwa [State.atRest, bump_rcl]

theorem retWrite_atRest (a : Nat) (bs : List Byte) : (retWrite a bs).Preserves State.atRest :=
  fun s h => by rwa [State.atRest, retWrite_rcl]

theorem usePair_atRest (r : Reg) (i j : Nat) : (usePair r i j).Preserves State.atRest :=
  preserves_look fun _ => preserves_when <| preserves_all_cons (raise_atRest _ _ _ _ _ _) <|
    preserves_all_cons (setReg_atRest _ _ _ _) preserves_all_nil

/-! ### Region locks -/

theorem takeLease_atRest (k a b c d e : Nat) : (takeLease k a b c d e).Preserves State.atRest :=
  atRest_of_within (within_takeLease (partsLe_refl _)) rfl

theorem takeLock_atRest (k base pages mode : Nat) (holder : Holder) :
    (takeLock k base pages mode holder).Preserves State.atRest :=
  preserves_look fun _ => preserves_seq (fun _ h => h) <| by
    cases holder with
    | queue q => exact takeLease_atRest _ _ _ _ _ _
    | unit u => exact preserves_seq (usePair_atRest _ _ _) (takeLease_atRest _ _ _ _ _ _)
    | loader => exact takeLease_atRest _ _ _ _ _ _

theorem acquireLock_atRest (base pages mode : Nat) (holder : Holder) :
    (acquireLock base pages mode holder).Preserves State.atRest :=
  preserves_look fun _ => by
    split
    · exact takeLock_atRest _ _ _ _ _
    · exact fun _ h => h

theorem releaseLock_atRest (who : Holder) (base pages : Nat) :
    (releaseLock who base pages).Preserves State.atRest :=
  preserves_look fun s => by
    split
    · exact preserves_all_cons (fun _ h => h) <| preserves_all_cons (fun _ h => h) <|
        preserves_all_cons (preserves_look fun _ => by
          split
          · exact preserves_skip
          · exact preserves_seq (fun _ h => h) (takeLock_atRest _ _ _ _ _)) preserves_all_nil
    · exact fun _ h => h

/-! ### Errors of stored words, and the reset they may end in -/

theorem logicReset_atRest : logicReset.Preserves State.atRest := by
  refine preserves_look fun s => preserves_all_cons
    (atRest_of_within (within_clearLogicRegs (partsLe_refl _)) rfl) ?_
  intro t _
  exact rfl

theorem logicSideReset_atRest (bit : Nat) : (logicSideReset bit).Preserves State.atRest :=
  preserves_all_cons (atRest_of_within (within_recordCause (partsLe_refl _)) rfl) <|
  preserves_all_cons (preserves_when <|
    atRest_of_within (within_dropPending (partsLe_refl _)) rfl) <|
  preserves_all_cons logicReset_atRest <| preserves_all_cons (fun _ h => h) <|
  preserves_all_cons (atRest_of_within (within_releaseLogic (partsLe_refl _)) rfl)
    preserves_all_nil

theorem escalate_atRest : escalate.Preserves State.atRest :=
  preserves_look fun _ => preserves_when <| preserves_seq (fun _ h => h) <|
    preserves_seq (bump_atRest _ _ _ _) (logicSideReset_atRest _)

theorem requestRepair_atRest (pa : Nat) : (requestRepair pa).Preserves State.atRest :=
  preserves_seq (usePair_atRest _ _ _) <| preserves_look fun _ => preserves_when <| by
    split
    · exact preserves_skip
    · exact preserves_look fun _ => preserves_ite preserves_skip <|
        preserves_seq (preserves_when (acquireLock_atRest _ _ _ _)) fun _ h => h

theorem poisonRange_atRest (pa n : Nat) : (poisonRange pa n).Preserves State.atRest :=
  atRest_of_within (within_poisonRange (partsLe_refl _)) rfl

theorem bankFail_atRest (bank : Nat) : (bankFail bank).Preserves State.atRest :=
  preserves_seq (raise_atRest _ _ _ _ _ _) <| preserves_seq (setF_atRest _ _ _ _) escalate_atRest

theorem plazaUe_atRest (scrub : Bool) (word : Nat) : (plazaUe scrub word).Preserves State.atRest :=
  preserves_look fun _ =>
    preserves_all_cons (poisonRange_atRest _ _) <| preserves_all_cons (setReg_atRest _ _ _ _) <|
    preserves_all_cons (bump_atRest _ _ _ _) <|
    preserves_all_cons (preserves_ite (setF_atRest _ _ _ _) (setF_atRest _ _ _ _)) <|
    preserves_all_cons (fun _ h => h) <| preserves_all_cons (raise_atRest _ _ _ _ _ _) <|
    preserves_all_cons (requestRepair_atRest _) <|
    preserves_all_cons (preserves_when (bankFail_atRest _)) preserves_all_nil

theorem ddrUe_atRest (word : Nat) : (ddrUe word).Preserves State.atRest :=
  preserves_all_cons (poisonRange_atRest _ _) <| preserves_all_cons (setReg_atRest _ _ _ _) <|
  preserves_all_cons (setReg_atRest _ _ _ _) <| preserves_all_cons (bump_atRest _ _ _ _) <|
  preserves_all_cons (setF_atRest _ _ _ _) <| preserves_all_cons (raise_atRest _ _ _ _ _ _) <|
  preserves_all_cons (requestRepair_atRest _) preserves_all_nil

theorem paStore_atRest (pa : Nat) (bs : List Byte) : (paStore pa bs).Preserves State.atRest :=
  atRest_of_within (within_paStore (partsLe_refl _)) rfl

theorem memWrite_atRest (pa : Nat) (bs : List Byte) : (memWrite pa bs).Preserves State.atRest :=
  preserves_look fun _ => preserves_seq
    (preserves_look fun _ => preserves_seq
      (atRest_of_within (within_correctErrs (partsLe_refl _)) rfl)
      (preserves_each fun _ => preserves_ite (plazaUe_atRest _ _) (ddrUe_atRest _)))
    (preserves_ite (paStore_atRest _ _) <| preserves_look fun _ => preserves_each fun _ =>
      paStore_atRest _ _)

theorem engineWrite_atRest {fail : Prog} (hf : fail.Preserves State.atRest) (pa : Nat)
    (bs : List Byte) : (engineWrite pa bs fail).Preserves State.atRest :=
  preserves_look fun _ => preserves_ite
    (preserves_seq (preserves_seq (setF_atRest _ _ _ _) (raise_atRest _ _ _ _ _ _)) hf) <|
    preserves_ite
      (preserves_seq (preserves_seq (setF_atRest _ _ _ _) (raise_atRest _ _ _ _ _ _)) hf) <|
      preserves_look fun _ => preserves_seq (memWrite_atRest _ _) (preserves_when hf)

/-! ### The units that are returned -/

theorem logEntry_atRest (kind unit choice stand n pn : Nat) :
    (logEntry kind unit choice stand n pn).Preserves State.atRest :=
  preserves_seq (usePair_atRest _ _ _) <| preserves_look fun _ => preserves_when <|
    preserves_all_cons (engineWrite_atRest (raise_atRest _ _ _ _ _ _) _ _) <|
    preserves_all_cons (retWrite_atRest _ _) <| preserves_all_cons (retWrite_atRest _ _)
    preserves_all_nil

theorem releaseSplash_atRest (x : Nat) : (releaseSplash x).Preserves State.atRest :=
  preserves_look fun _ => preserves_when <| preserves_seq (by
    split
    · exact preserves_skip
    · exact preserves_when (releaseLock_atRest _ _ _)) fun _ h => h

theorem applyChoice_atRest (t n choice : Nat) (new : Option Cand) (counted : Bool) :
    (applyChoice t n choice new counted).Preserves State.atRest :=
  preserves_look fun _ => preserves_all_cons (by
      split
      · exact preserves_when (setF_atRest _ _ _ _)
      · exact preserves_skip) <|
    preserves_all_cons (fun _ h => h) <|
    preserves_all_cons (preserves_when <|
      atRest_of_within (within_countChoice (partsLe_refl _)) rfl) <|
    preserves_all_cons (preserves_when (raiseSecond_atRest _ _ _ _)) <|
    preserves_all_cons (logEntry_atRest _ _ _ _ _ _) <|
    preserves_all_cons (preserves_when (releaseSplash_atRest _)) preserves_all_nil

theorem repeatChoice_atRest (t n : Nat) (counted : Bool) :
    (repeatChoice t n counted).Preserves State.atRest :=
  preserves_look fun _ => by
    split
    · exact preserves_ite (applyChoice_atRest _ _ _ _ _) (applyChoice_atRest _ _ _ _ _)
    · exact applyChoice_atRest _ _ _ _ _

theorem launchOutput_atRest (x black : Nat) (blFirst restore : Bool) :
    (launchOutput x black blFirst restore).Preserves State.atRest :=
  preserves_look fun _ => preserves_when <| preserves_seq
    (atRest_of_within (within_firstWrite (partsLe_refl _)) rfl) <|
    preserves_seq (fun _ h => h) <| preserves_seq
      (atRest_of_within (within_requestPlls (partsLe_refl _)) rfl) <|
      preserves_seq (preserves_look fun _ => by
        split
        · exact preserves_skip
        · exact preserves_when <| preserves_seq (acquireLock_atRest _ _ _ _) fun _ h => h) <|
      preserves_when (atRest_of_within (within_armOutput (partsLe_refl _)) rfl)

theorem returnUnit_atRest (u : Nat) : (returnUnit u).Preserves State.atRest :=
  preserves_look fun _ =>
    preserves_ite (preserves_seq (preserves_each fun _ => fun _ h => h)
      (preserves_each fun _ =>
        atRest_of_within (within_dueCalibration (partsLe_refl _)) rfl)) <|
    preserves_ite (fun _ h => h) <| preserves_ite (fun _ h => h) <|
    preserves_ite (preserves_when <| preserves_seq (setF_atRest _ _ _ _) fun _ h => h) <|
    preserves_ite (preserves_seq (preserves_each fun _ => preserves_each fun _ =>
      preserves_when (repeatChoice_atRest _ _ _)) fun _ h => h) <|
    preserves_ite (preserves_when (launchOutput_atRest _ _ _ _)) preserves_skip

/-! ### The steps (Table 16-9) -/

theorem recoveryReturns_ends (r : Recovery) (s : State) :
    ((recoveryReturns r).run s).rcl.current = none := by
  rw [recoveryReturns, run_look, run_all_cons, run_all_cons, run_all_cons, run_all_cons]
  refine (preserves_all_cons (preserves_each returnUnit_atRest) <|
    preserves_all_cons (preserves_each fun _ =>
      atRest_of_within (within_regainCores (partsLe_refl _)) rfl) <|
    preserves_all_cons (bump_atRest _ _ _ _) <| preserves_all_cons (setReg_atRest _ _ _ _) <|
    preserves_all_cons (preserves_each fun _ => raise_atRest _ _ _ _ _ _) preserves_all_nil) _ ?_
  rfl

theorem unitCheckDone_ends {r : Recovery} (hcur : s.rcl.current = some r) (h6 : r.step = 6)
    (hclk : s.unitsClocked r = true) :
    ∃ t, exec (.unitCheckDone true true) s = .next t ∧ t.rcl.current = none := by
  refine ⟨_, rfl, ?_⟩
  rw [hcur]
  dsimp only
  rw [if_neg (by decide), run_when_pos ⟨h6, hclk⟩, if_pos rfl]
  exact recoveryReturns_ends _ _

theorem recoveryEscalates_restarts (hs : s.Sound) (hlive : s.live = true) (u step : Nat) :
    s.restarted ((recoveryEscalates u step).run s) causeEscalate := by
  obtain ⟨v, hv⟩ : ∃ v, (raise 0x9004 u step).run s = v := ⟨_, rfl⟩
  have hres : v.resettable = true := resettable_of_live (by rwa [← hv, raise_live])
  rw [recoveryEscalates, run_seq, hv, escalate, run_look, run_when_pos hres, run_seq, run_seq]
  refine restarted_of_keeps (logicSideReset_restarted (run_sound _ (run_sound _ ?_)) (by decide))
    ?_ ?_ ?_
  · exact hv ▸ run_sound _ hs
  · refine (lampCore_of_lamp (bump_lamp ..)).trans ?_
    exact hv ▸ raise_lampCore _ _ _ _ _ _ s
  · rw [bump_flash, run_modRcl, act_rcl_flash, ← hv, raise_flash]
  · rw [bump_otp, run_modRcl, act_rcl_otp, ← hv, raise_otp]

theorem recoveryNext_starts {r : Recovery} {rest : List Recovery} (hlive : s.live = true)
    (he : s.rcl.escalating = false) (hcur : s.rcl.current = none)
    (hpend : s.rcl.pending = r :: rest) :
    ∃ t, exec .recoveryNext s = .next t ∧ t.rcl.pending = rest
      ∧ (∃ c, t.rcl.current = some c ∧ c.units = r.units ∧ c.step = 3 ∧ c.executing = r.executing)
      ∧ s.onlyChanges [.leases, .rcl, .ave] t := by
  suffices h : ∃ t, exec .recoveryNext s = .next t ∧ t.rcl.pending = rest
      ∧ ∃ c, t.rcl.current = some c ∧ c.units = r.units ∧ c.step = 3 ∧ c.executing = r.executing by
    obtain ⟨t, ht, hrest, hstep⟩ := h
    exact ⟨t, ht, hrest, hstep, exec_onlyChanges ht⟩
  rw [show exec .recoveryNext s = execRecoveryNext s from rfl, execRecoveryNext, hcur, hpend]
  refine ⟨_, outcome_when ⟨hlive, he⟩ _ _, ?_⟩
  rw [run_all_cons, run_all_cons, run_all_cons, run_all_cons, run_all_nil]
  exact ⟨rfl, _, rfl, rfl, rfl, rfl⟩

theorem withdrawDone_goesOn {r : Recovery} (hcur : s.rcl.current = some r) (h3 : r.step = 3)
    (hserve : ∀ i ∈ r.executing, s.stillServes r.units i = false)
    (hrec : ∀ u ∈ r.units, s.recoveries u < 3) :
    ∃ t, exec .recoveryWithdrawDone s = .next t
      ∧ t = { s with rcl := { s.rcl with current := some { r with step := 6 } } } := by
  have hnone : ∀ l : List Nat, (∀ i ∈ l, s.stillServes r.units i = false) →
      (Prog.each l fun i => .look fun t => Prog.when (t.stillServes r.units i = true)
        (failStop i (if r.status = 0xFF then 0x0A else r.status))).run s = s := by
    intro l hl
    induction l with
    | nil => rfl
    | cons i l ih =>
      rw [run_each_cons, run_look, run_when_neg (by simp [hl i List.mem_cons_self]), run_skip]
      exact ih fun j hj => hl j (List.mem_cons_of_mem i hj)
  have hfew : ¬(r.units.any fun u => decide (3 ≤ s.recoveries u)) = true := by
    simpa using hrec
  refine ⟨_, rfl, ?_⟩
  rw [hcur]
  dsimp only
  rw [run_when_pos h3, run_seq, hnone _ hserve, run_look, if_neg hfew]
  rfl

/-- Settles O18: the steps of Table 16-9, and the warm reset where a unit does not answer. -/
theorem recoveryRunsItsSteps : Obligations.RecoveryRunsItsSteps :=
  ⟨fun _ _ _ => recoveryNext_starts, fun _ _ => withdrawDone_goesOn, fun _ _ => unitCheckDone_ends,
    fun _ r ok hs hlive hcur => by
      refine ⟨_, rfl, ?_⟩
      rw [hcur]
      exact recoveryEscalates_restarts hs hlive _ _⟩

end Sys2Proof.Machine
end

section
/-! PROOFS. Commits of the scan-out's registers (chapter 11, R310, R312, R313, R344 to R347): O34. -/

set_option Elab.async false

namespace Sys2Proof.Machine

variable {s t : State} {x : Nat}

/-! ### The registers committed -/

theorem scoCtrl_quiet : R.SCO_CTRL.quiet 0 0 := ⟨rfl, by decide, by decide⟩

theorem scoOutCfg_quiet (hx : x < 2) : R.SCO_OUT_CFG.quiet x 0 :=
  ⟨rfl, by decide, by interval_cases x <;> decide⟩

theorem scoDphy_quiet (hx : x < 2) : R.SCO_DPHY.quiet x 0 :=
  ⟨rfl, by decide, by interval_cases x <;> decide⟩

theorem timingReg_quiet {k : Nat} (hk : k < 6) : (timingReg k).quiet 0 0 := by
  interval_cases k <;> exact ⟨rfl, by decide, by decide⟩

/-- A commit masked to its register's writable bits is stored whole. -/
theorem masked_lt {v m : Nat} (hm : m < 2 ^ 32) : (v &&& m) % 2 ^ 32 = v &&& m :=
  Nat.mod_eq_of_lt (Nat.lt_of_le_of_lt Nat.and_le_right hm)

theorem timingReg_rw {k : Nat} (hk : k < 6) : (timingReg k).rw < 2 ^ 32 := by
  interval_cases k <;> decide

/-! ### The guard of a commit (R312) -/

section guard
variable {set after : Prog} {ok : State → Bool}

theorem scoGuard_ok (h : ok (set.run s) = true) :
    (scoGuard x set ok after).run s = after.run (set.run s) := by
  rw [scoGuard, run_look, if_pos h, run_seq]

/-- A commit that breaks the rules is discarded with its fault. -/
theorem scoGuard_refused {r : Reg} {i : Nat} (hq : r.quiet i 0) (h : ok (set.run s) = false) :
    s.reports ((scoGuard x set ok after).run s) 0x4106 (unitSco x)
      ∧ ((scoGuard x set ok after).run s).rd r i = s.rd r i
      ∧ ((scoGuard x set ok after).run s).sco = s.sco := by
  rw [scoGuard, run_look, if_neg (by simp [h])]
  exact ⟨reports_after rfl, raise_rd_quiet hq _ _ _ _ _ _ s, raise_sco ..⟩

end guard

/-! ### The outputs switched on and off by a commit of SCO_CTRL -/

theorem bitN_eq_bits (v n : Nat) : bitN v n = bits v n n := by
  rw [bits, bitN, show n + 1 - n = 1 by omega, Nat.pow_one]

theorem bitN_setBits_other {v n m b : Nat} (h : m ≠ n) : bitN (setBits v n n b) m = bitN v m := by
  rw [bitN_eq_bits, bitN_eq_bits, bits_setBits_other _ _ (by omega) (by omega)]

theorem filter_only {p : Nat → Bool} (hx : x < 2) (h : ∀ y, p y = true ↔ y = x) :
    (upTo 2).filter p = [x] := by
  have hp : p = fun y => decide (y = x) := funext fun y => by
    rw [Bool.eq_iff_iff, h, decide_eq_true_eq]
  rw [hp]
  interval_cases x <;> rfl

/-- The outputs whose enable a commit that sets bit `x` switches. -/
theorem switchedOn {v : Nat} (hx : x < 2) (h : bitN v x = 0) :
    (upTo 2).filter (fun y => decide (bitN (setBits v x x 1) y = 1 ∧ bitN v y = 0)) = [x]
    ∧ (upTo 2).filter (fun y => decide (bitN (setBits v x x 1) y = 0 ∧ bitN v y = 1)) = [] := by
  have hbit : ∀ y, bitN (setBits v x x 1) y = if y = x then 1 else bitN v y := fun y => by
    split
    · next hy => rw [hy, bitN_setBits]
    · next hy => exact bitN_setBits_other hy
  constructor
  · refine filter_only hx fun y => ?_
    rw [decide_eq_true_eq, hbit]
    split
    · next hy => simp [hy, h]
    · omega
  · refine List.filter_eq_nil_iff.mpr fun y _ => ?_
    rw [decide_eq_true_eq, hbit]
    split <;> omega

/-- The outputs whose enable a commit that clears bit `x` switches. -/
theorem switchedOff {v : Nat} (hx : x < 2) (h : bitN v x = 1) :
    (upTo 2).filter (fun y => decide (bitN (setBits v x x 0) y = 1 ∧ bitN v y = 0)) = []
    ∧ (upTo 2).filter (fun y => decide (bitN (setBits v x x 0) y = 0 ∧ bitN v y = 1)) = [x] := by
  have hbit : ∀ y, bitN (setBits v x x 0) y = if y = x then 0 else bitN v y := fun y => by
    split
    · next hy => rw [hy, bitN_setBits]
    · next hy => exact bitN_setBits_other hy
  constructor
  · refine List.filter_eq_nil_iff.mpr fun y _ => ?_
    rw [decide_eq_true_eq, hbit]
    split <;> omega
  · refine filter_only hx fun y => ?_
    rw [decide_eq_true_eq, hbit]
    split
    · next hy => simp [hy, h]
    · omega

/-! ### The start of an output (R345, R347) -/

theorem acquireLock_scoCtrl (base pages mode : Nat) (holder : Holder) :
    (acquireLock base pages mode holder).Keeps (State.rd · R.SCO_CTRL) := by
  have hlease : ∀ k a b c d e, (takeLease k a b c d e).Keeps (State.rd · R.SCO_CTRL) :=
    fun k a b c d e s => rd_of_within (within_takeLease (partsLe_refl _)) rfl rfl s 0 0
  have huse : (usePair R.RCL_CTRL).Keeps (State.rd · R.SCO_CTRL) :=
    usePair_keeps_rd scoCtrl_quiet (fun id => resetWord_lt (by decide) id _) (.inl (by decide))
  have hlock : ∀ n, (takeLock n base pages mode holder).Keeps (State.rd · R.SCO_CTRL) := fun n =>
    keeps_look fun _ => keeps_seq (fun _ => rfl) <| by
      cases holder with
      | queue q => exact hlease _ _ _ _ _ _
      | unit u => exact keeps_seq huse (hlease _ _ _ _ _ _)
      | loader => exact hlease _ _ _ _ _ _
  exact keeps_look fun _ => by
    split
    · exact hlock _
    · exact fun _ => rfl

theorem lockSplash_scoCtrl : (lockSplash x).Keeps (State.rd · R.SCO_CTRL) :=
  keeps_look fun _ => by
    split
    · exact keeps_skip
    · exact keeps_when fun _ => keeps_seq (acquireLock_scoCtrl _ _ _ _) fun _ => rfl

theorem launchOutput_scoCtrl (black : Nat) (blFirst restore : Bool) :
    (launchOutput x black blFirst restore).Keeps (State.rd · R.SCO_CTRL) :=
  keeps_look fun _ => keeps_when fun _ =>
    keeps_seq (fun s => rd_of_within (within_firstWrite (partsLe_refl _)) rfl rfl s 0 0) <|
    keeps_seq (fun _ => rfl) <|
    keeps_seq (fun s => rd_of_within (within_requestPlls (partsLe_refl _)) rfl rfl s 0 0) <|
    keeps_seq lockSplash_scoCtrl <| keeps_when fun _ =>
    keeps_all_cons (fun _ => rfl) <| keeps_all_cons (keeps_look fun _ => keeps_when fun _ =>
      keeps_look fun _ => keeps_seq (fun _ => rd_setReg_words (by decide)) fun _ => rfl)
    keeps_all_nil

/-- What an output is launched with. -/
def State.launch (x : Nat) (s : State) : Bool × Nat × Nat :=
  ((s.output x).blFirst, (s.output x).outCfg, (s.output x).dphy)

theorem launch_of_sco (h : t.sco = s.sco) : t.launch x = s.launch x := by
  rw [State.launch, State.output, h]
  rfl

theorem modOut_launch {f : Output → Output} (h : ∀ o, (f o).blFirst = o.blFirst
    ∧ (f o).outCfg = o.outCfg ∧ (f o).dphy = o.dphy) : (modOut x f).Keeps (State.launch x) := by
  intro s
  have hout : ((modOut x f).run s).output x = f (s.output x)
      ∨ ((modOut x f).run s).output x = s.output x := by
    rw [modOut, run_modSco, State.output, act_sco_sco, nth_upd]
    split
    · exact .inl rfl
    · exact .inr rfl
  obtain ⟨h1, h2, h3⟩ := h (s.output x)
  rcases hout with hout | hout
  · rw [State.launch, hout, h1, h2, h3]
    rfl
  · rw [State.launch, hout]
    rfl

theorem output_modOut (hx : x < s.sco.outs.length) (f : Output → Output) :
    ((modOut x f).run s).output x = f (s.output x) := by
  rw [modOut, run_modSco, State.output, act_sco_sco]
  exact nth_upd_self hx

theorem acquireLock_launch (base pages mode : Nat) (holder : Holder) :
    (acquireLock base pages mode holder).Keeps (State.launch x) :=
  fun s => launch_of_sco (within_acquireLock (partsLe_refl _) s .sco rfl)

theorem launchOutput_launches (hlen : s.sco.outs.length = 2) (hx : x < 2)
    (hsec : s.secondary = false) (black : Nat) (blFirst restore : Bool) :
    ((launchOutput x black blFirst restore).run s).launch x
      = (blFirst, s.rd R.SCO_OUT_CFG x, s.rd R.SCO_DPHY x) := by
  rw [launchOutput, run_look, run_when_pos hsec, run_seq, run_seq, run_seq, run_seq]
  have harm : (armOutput x).Keeps (State.launch x) :=
    keeps_all_cons (modOut_launch fun _ => ⟨rfl, rfl, rfl⟩) <|
    keeps_all_cons (keeps_look fun _ => keeps_when fun _ => keeps_look fun _ =>
      keeps_seq (fun _ => launch_of_sco (setReg_sco ..)) fun _ => rfl) keeps_all_nil
  have hsplash : (lockSplash x).Keeps (State.launch x) := keeps_look fun _ => by
    split
    · exact keeps_skip
    · exact keeps_when fun _ => keeps_seq (acquireLock_launch _ _ _ _)
        (modOut_launch fun _ => ⟨rfl, rfl, rfl⟩)
  refine (keeps_when (fun _ => harm) _).trans ((hsplash _).trans ?_)
  refine (launch_of_sco (within_requestPlls (partsLe_refl _) _ .sco rfl)).trans ?_
  have hfirst : ∀ gs, x < ((firstWrite gs).run s).sco.outs.length := fun gs => by
    rw [within_firstWrite (partsLe_refl _) s .sco rfl, hlen]
    exact hx
  rw [State.launch, output_modOut (hfirst _)]

/-! ### SCO_CTRL -/

section control
variable (hx : x < 2)
include hx

theorem run_enable (hoff : bitN (s.rd R.SCO_CTRL) x = 0) :
    exec (.outputEnable x) s = .next ((scoGuard 0
      (setReg R.SCO_CTRL (setBits (s.rd R.SCO_CTRL) x x 1))
      (fun t => t.scoOk ((t.outsInUse ++ [x]).dedup) t.fetchSet)
      (.seq .skip (.seq (startOutput x) .skip))).run s) := by
  obtain ⟨hon, hoffs⟩ := switchedOn hx hoff
  refine (outcome_when hx _ _).trans (congrArg _ ?_)
  rw [scoCtrlCommit, run_look]
  dsimp only
  rw [hon, hoffs]
  rfl

theorem run_disable (hon : bitN (s.rd R.SCO_CTRL) x = 1) :
    exec (.outputDisable x) s = .next ((stopOutput x .disable).run
      ((setReg R.SCO_CTRL (setBits (s.rd R.SCO_CTRL) x x 0)).run s)) := by
  obtain ⟨hons, hoffs⟩ := switchedOff hx hon
  refine (outcome_when hx _ _).trans (congrArg _ ?_)
  rw [scoCtrlCommit, run_look]
  dsimp only
  rw [hons, hoffs, scoGuard_ok rfl]
  rfl

/-- The word that a commit of SCO_CTRL leaves. -/
theorem bitN_scoCtrl {u : State} (b : Nat)
    (hu : u.rd R.SCO_CTRL = setBits (s.rd R.SCO_CTRL) x x b % 2 ^ 32) :
    bitN (u.rd R.SCO_CTRL) x = b % 2 := by
  rw [hu, bitN_mod _ _ (by omega), bitN_setBits]

theorem outputEnable_refused (hoff : bitN (s.rd R.SCO_CTRL) x = 0)
    (hok : (fun t : State => t.scoOk ((t.outsInUse ++ [x]).dedup) t.fetchSet)
      ((setReg R.SCO_CTRL (setBits (s.rd R.SCO_CTRL) x x 1)).run s) = false) :
    ∃ t, exec (.outputEnable x) s = .next t ∧ s.reports t 0x4106 (unitSco 0)
      ∧ t.rd R.SCO_CTRL = s.rd R.SCO_CTRL ∧ t.sco = s.sco :=
  ⟨_, run_enable hx hoff, scoGuard_refused scoCtrl_quiet hok⟩

theorem outputEnable_starts (hlen : s.sco.outs.length = 2) (hoff : bitN (s.rd R.SCO_CTRL) x = 0)
    (hok : (fun t : State => t.scoOk ((t.outsInUse ++ [x]).dedup) t.fetchSet)
      ((setReg R.SCO_CTRL (setBits (s.rd R.SCO_CTRL) x x 1)).run s) = true)
    (hact : (s.output x).active = false) (hsec : s.secondary = false)
    (hrun : s.lamp.power = .running)
    (hallow : ((setReg R.SCO_CTRL (setBits (s.rd R.SCO_CTRL) x x 1)).run s).outputsAllowed x = true)
    (hret : unitSco x ∉ s.rcl.retired) :
    ∃ t, exec (.outputEnable x) s = .next t ∧ bitN (t.rd R.SCO_CTRL) x = 1
      ∧ ((s.output x).panelOff = true → s.ports.panelEn.length = 2 →
        nth false t.ports.panelEn x = true ∧ (t.output x).panel = .upEn)
      ∧ ((s.output x).panelOff = false → (t.output x).blFirst = true
        ∧ (t.output x).outCfg = s.rd R.SCO_OUT_CFG x ∧ (t.output x).dphy = s.rd R.SCO_DPHY x) := by
  refine ⟨_, run_enable hx hoff, ?_⟩
  rw [scoGuard_ok hok, run_seq, run_skip, run_seq, run_skip]
  obtain ⟨u, hu⟩ : ∃ u, (setReg R.SCO_CTRL (setBits (s.rd R.SCO_CTRL) x x 1)).run s = u := ⟨_, rfl⟩
  rw [hu] at hallow ⊢
  have hword : u.rd R.SCO_CTRL = setBits (s.rd R.SCO_CTRL) x x 1 % 2 ^ 32 := by
    rw [← hu, rd_setReg_self]
  have hsco : u.sco = s.sco := by rw [← hu, setReg_sco]
  have hout : u.output x = s.output x := by rw [State.output, hsco, State.output]
  have hports : u.ports = s.ports := by rw [← hu, setReg_ports]
  have husec : u.secondary = false := by
    rw [State.secondary, ← hu, show (_ : State).fld F.SYS_STATE_ROLE = s.fld F.SYS_STATE_ROLE from
      fld_congr (rd_setReg_words (by decide))]
    exact hsec
  have hcfg : u.rd R.SCO_OUT_CFG x = s.rd R.SCO_OUT_CFG x := by
    rw [← hu, rd_setReg_words (by interval_cases x <;> decide)]
  have hdphy : u.rd R.SCO_DPHY x = s.rd R.SCO_DPHY x := by
    rw [← hu, rd_setReg_words (by interval_cases x <;> decide)]
  have hcond : (u.output x).active = false ∧ u.secondary = false ∧ u.outputsAllowed x = true
      ∧ u.lamp.power = .running ∧ u.rcl.retired.contains (unitSco x) = false := by
    refine ⟨hout ▸ hact, husec, hallow, ?_, ?_⟩
    · rw [← hu, setReg_lamp]
      exact hrun
    · rw [← hu, setReg_rcl]
      simpa using hret
  rw [startOutput, run_look, run_when_pos hcond, hout]
  cases hp : (s.output x).panelOff with
  | true =>
    rw [if_pos rfl, run_seq]
    refine ⟨bitN_scoCtrl hx 1 hword, fun _ hen => ⟨?_, ?_⟩, fun h => absurd h (by decide)⟩
    · exact nth_upd_self (by rw [hports, hen]; exact hx)
    · rw [output_modOut (by
        rw [run_modPorts, act_ports_sco, hsco, hlen]
        exact hx)]
  | false =>
    rw [if_neg (by decide)]
    have hlaunch := launchOutput_launches (s := u) (by rw [hsco, hlen]) hx husec 0 true false
    rw [hcfg, hdphy] at hlaunch
    refine ⟨bitN_scoCtrl hx 1 ((launchOutput_scoCtrl _ _ _ u).trans hword),
      fun h => absurd h (by decide), fun _ => ⟨?_, ?_, ?_⟩⟩
    · exact congrArg (·.1) hlaunch
    · exact congrArg (·.2.1) hlaunch
    · exact congrArg (·.2.2) hlaunch

theorem outputDisable_stops (hlen : s.sco.outs.length = 2) (hon : bitN (s.rd R.SCO_CTRL) x = 1)
    (hph : (s.output x).phase = 1 ∨ (s.output x).phase = 2) :
    ∃ t, exec (.outputDisable x) s = .next t ∧ bitN (t.rd R.SCO_CTRL) x = 0
      ∧ (t.output x).phase = 3 ∧ (t.output x).stop = .disable ∧ (t.output x).holdSinks = true := by
  refine ⟨_, run_disable hx hon, ?_⟩
  obtain ⟨u, hu⟩ : ∃ u, (setReg R.SCO_CTRL (setBits (s.rd R.SCO_CTRL) x x 0)).run s = u := ⟨_, rfl⟩
  rw [hu]
  have hword : u.rd R.SCO_CTRL = setBits (s.rd R.SCO_CTRL) x x 0 % 2 ^ 32 := by
    rw [← hu, rd_setReg_self]
  have hsco : u.sco = s.sco := by rw [← hu, setReg_sco]
  have hout : u.output x = s.output x := by rw [State.output, hsco, State.output]
  constructor
  · exact bitN_scoCtrl hx 0
      ((rd_of_within (within_stopOutput (partsLe_refl _)) rfl rfl u 0 0).trans hword)
  · rw [stopOutput, run_look, hout, if_neg (by omega), if_pos (by omega), run_seq, State.output,
      within_settleSinks (partsLe_refl _) _ .sco rfl, ← State.output,
      output_modOut (by rw [hsco, hlen]; exact hx)]
    exact ⟨rfl, rfl, rfl⟩

end control

/-! ### Timing, configuration and D-PHY registers -/

theorem timingChange_stored {k v : Nat} (hk : k < 6)
    (hok : (fun t : State => (k == 5 || (v &&& (timingReg k).rw) != 0) && t.scoHeld)
      ((setReg (timingReg k) (v &&& (timingReg k).rw)).run s) = true) :
    ∃ t, exec (.displayModeChange k v) s = .next t
      ∧ t.rd (timingReg k) = v &&& (timingReg k).rw := by
  have ht : exec (.displayModeChange k v) s
      = .next ((scoTimingCommit k (v &&& (timingReg k).rw)).run s) := by
    rw [show exec (.displayModeChange k v) s = execDisplayModeChange k v s from rfl,
      execDisplayModeChange, if_pos hk]
    rfl
  refine ⟨_, ht, ?_⟩
  obtain ⟨hone, hslot, -⟩ := timingReg_quiet hk
  rw [scoTimingCommit, scoGuard_ok hok,
    rd_of_within (within_changeBoth (partsLe_refl _)) hone (by simp [coveredBy]) _ 0 0,
    rd_setReg_self, masked_lt (timingReg_rw hk)]

theorem timingChange_refused {k v : Nat} (hk : k < 6)
    (hok : (fun t : State => (k == 5 || (v &&& (timingReg k).rw) != 0) && t.scoHeld)
      ((setReg (timingReg k) (v &&& (timingReg k).rw)).run s) = false) :
    ∃ t, exec (.displayModeChange k v) s = .next t ∧ s.reports t 0x4106 (unitSco 0)
      ∧ t.rd (timingReg k) = s.rd (timingReg k) ∧ t.sco = s.sco := by
  have ht : exec (.displayModeChange k v) s
      = .next ((scoTimingCommit k (v &&& (timingReg k).rw)).run s) := by
    rw [show exec (.displayModeChange k v) s = execDisplayModeChange k v s from rfl,
      execDisplayModeChange, if_pos hk]
    rfl
  exact ⟨_, ht, scoGuard_refused (timingReg_quiet hk) hok⟩

/-- A change of one output's own register leaves the registers of scan-out. -/
theorem changeOne_rd {r : Reg} {i : Nat} (hone : r.oneSlot = true) (s : State) :
    ((changeOne x).run s).rd r i = s.rd r i :=
  rd_of_within (within_changeOne (partsLe_refl _)) hone (by simp [coveredBy]) s i 0

theorem cfgCommit_stored {w : Nat}
    (hok : (fun t : State => ifaceOk (s.lvdsStrap x) w && t.scoHeld && t.prefillFits x)
      ((setReg R.SCO_OUT_CFG w x).run s) = true) :
    ((scoCfgCommit x w).run s).rd R.SCO_OUT_CFG x = w % 2 ^ 32 := by
  rw [scoCfgCommit, run_look, scoGuard_ok hok, changeOne_rd rfl, rd_setReg_self]

section commits
variable (hx : x < 2)
include hx

theorem run_cfgChange (v : Nat) : exec (.displayModeChange (6 + x) v) s
    = .next ((scoCfgCommit x (v &&& R.SCO_OUT_CFG.rw)).run s) := by
  rw [show exec (.displayModeChange (6 + x) v) s = execDisplayModeChange (6 + x) v s from rfl,
    execDisplayModeChange, if_neg (by omega), if_pos (by omega), Nat.add_sub_cancel_left]
  rfl

theorem run_dphyChange (v : Nat) : exec (.displayModeChange (8 + x) v) s
    = .next ((scoDphyCommit x (v &&& R.SCO_DPHY.rw)).run s) := by
  rw [show exec (.displayModeChange (8 + x) v) s = execDisplayModeChange (8 + x) v s from rfl,
    execDisplayModeChange, if_neg (by omega), if_neg (by omega), Nat.add_sub_cancel_left]
  exact outcome_when (by omega) _ _

theorem cfgChange_settles (v : Nat) :
    let w := v &&& R.SCO_OUT_CFG.rw
    let u := (setReg R.SCO_OUT_CFG w x).run s
    ((ifaceOk (s.lvdsStrap x) w && u.scoHeld && u.prefillFits x) = true →
      ∃ t, exec (.displayModeChange (6 + x) v) s = .next t ∧ t.rd R.SCO_OUT_CFG x = w)
    ∧ ((ifaceOk (s.lvdsStrap x) w && u.scoHeld && u.prefillFits x) = false →
      ∃ t, exec (.displayModeChange (6 + x) v) s = .next t ∧ s.reports t 0x4106 (unitSco x)
        ∧ t.rd R.SCO_OUT_CFG x = s.rd R.SCO_OUT_CFG x ∧ t.sco = s.sco) := by
  refine ⟨fun hok => ⟨_, run_cfgChange hx v, ?_⟩, fun hok => ⟨_, run_cfgChange hx v, ?_⟩⟩
  · exact (cfgCommit_stored hok).trans (masked_lt (by decide))
  · rw [scoCfgCommit, run_look]
    exact scoGuard_refused (scoOutCfg_quiet hx) hok

theorem dphyChange_settles (v : Nat) :
    let w := v &&& R.SCO_DPHY.rw
    let u := (setReg R.SCO_DPHY w x).run s
    (((u.lvdsStrap x || u.fld F.SCO_DPHY_RATE x != 0) && u.scoHeld) = true →
      ∃ t, exec (.displayModeChange (8 + x) v) s = .next t ∧ t.rd R.SCO_DPHY x = w)
    ∧ (((u.lvdsStrap x || u.fld F.SCO_DPHY_RATE x != 0) && u.scoHeld) = false →
      ∃ t, exec (.displayModeChange (8 + x) v) s = .next t ∧ s.reports t 0x4106 (unitSco x)
        ∧ t.rd R.SCO_DPHY x = s.rd R.SCO_DPHY x ∧ t.sco = s.sco) := by
  refine ⟨fun hok => ⟨_, run_dphyChange hx v, ?_⟩, fun hok => ⟨_, run_dphyChange hx v, ?_⟩⟩
  · rw [scoDphyCommit, scoGuard_ok hok, changeOne_rd rfl, rd_setReg_self, masked_lt (by decide)]
  · exact scoGuard_refused (scoDphy_quiet hx) hok

theorem colourRange_stored (r : Nat) :
    let w := setBits (s.rd R.SCO_OUT_CFG x) 7 7 r
    let u := (setReg R.SCO_OUT_CFG w x).run s
    (ifaceOk (s.lvdsStrap x) w && u.scoHeld && u.prefillFits x) = true →
      ∃ t, exec (.colourRangeChange x r) s = .next t ∧ t.rd R.SCO_OUT_CFG x = w % 2 ^ 32 :=
  fun hok => ⟨_, outcome_when hx _ _, cfgCommit_stored hok⟩

end commits

/-- Settles O34: the guard's two outcomes for each register of scan-out. -/
theorem scanOutCommits : Obligations.ScanOutCommits :=
  ⟨fun _ _ hx hlen hoff =>
      ⟨fun hok hact hsec hrun hallow hret =>
        outputEnable_starts hx hlen hoff hok hact hsec hrun hallow hret,
      fun hok => outputEnable_refused hx hoff hok⟩,
    fun _ _ hx hlen hon hph => outputDisable_stops hx hlen hon hph,
    fun _ _ _ hk => ⟨fun hok => timingChange_stored hk hok, fun hok => timingChange_refused hk hok⟩,
    fun _ _ v hx => cfgChange_settles hx v, fun _ _ r hx => colourRange_stored hx r,
    fun _ _ v hx => dphyChange_settles hx v⟩

end Sys2Proof.Machine
end

section
/-! PROOFS. The work of an executing stop (chapters 05, 06 and 07): O44 and O45, and the rules that
every stop's work shares. -/

set_option Elab.async false

namespace Sys2Proof.Machine

variable {s t : State} {i : Nat} {o : OpenStop}

/-! ### Memory without errors -/

/-- No word of Plaza or the LPDDR4X is in error. -/
def State.errFree (s : State) : Prop := s.ave.plazaErrs = [] ∧ s.ave.ddrErrs = []

/-- A micro-program that has only stored bytes and written registers: the wardens' and the Avenue's
state are those of `s`. -/
def State.stored (s t : State) : Prop := t.wrd = s.wrd ∧ t.ave = s.ave

theorem stored_refl (s : State) : s.stored s := ⟨rfl, rfl⟩

theorem stored_of_within {p : Prog} {W : List Part} (hp : p.Within W)
    (hw : coveredBy W .wrd = false) (ha : coveredBy W .ave = false) : p.Preserves s.stored :=
  fun t h => ⟨(hp t .wrd hw).trans h.1, (hp t .ave ha).trans h.2⟩

theorem place_of_ave (h : t.ave = s.ave) (pa : Nat) : t.place pa = s.place pa := by
  unfold State.place State.plazaTop
  rw [h]

theorem errFree_of_stored (h : s.stored t) (he : s.errFree) : t.errFree := by
  rw [State.errFree, h.2]
  exact he

theorem readEffects_errFree (he : s.errFree) (pa n : Nat) : (readEffects pa n).run s = s := by
  obtain ⟨hp, hd⟩ := he
  rw [readEffects, run_look]
  split
  · rw [hp]
    rfl
  · rw [hd]
    rfl
  · rfl

theorem rmwErrs_errFree (he : s.errFree) (pa n : Nat) : s.rmwErrs pa n = [] := by
  obtain ⟨hp, hd⟩ := he
  unfold State.rmwErrs State.partWords
  split <;> simp [hp, hd, errsIn]

theorem rmwReads_errFree (he : s.errFree) (pa n : Nat) : (rmwReads pa n).run s = s := by
  have hparts : s.partWords pa n = [] := by
    obtain ⟨hp, hd⟩ := he
    unfold State.partWords
    split <;> simp [hp, hd, errsIn]
  rw [rmwReads, run_look, run_seq, hparts, rmwErrs_errFree he]
  rfl

theorem memWrite_errFree (he : s.errFree) (pa : Nat) (bs : List Byte) :
    (memWrite pa bs).run s = (paStore pa bs).run s := by
  rw [memWrite, run_look, run_seq, rmwReads_errFree he, rmwErrs_errFree he, if_pos rfl]

theorem paStore_ave (he : s.errFree) (pa : Nat) (bs : List Byte) :
    ((paStore pa bs).run s).ave = s.ave := by
  obtain ⟨hp, hd⟩ := he
  rw [paStore, run_look]
  split
  · rw [run_seq, run_modAve, act_ave_ave, store_ave, hp]
    exact congrArg (fun l => { s.ave with plazaErrs := l }) hp.symm
  · rw [run_seq, run_modAve, act_ave_ave, store_ave, hd]
    exact congrArg (fun l => { s.ave with ddrErrs := l }) hd.symm
  · rfl

/-! ### What a stop writes -/

section writes
variable (he : s.errFree)
include he

theorem memWrite_stored (pa : Nat) (bs : List Byte) : (memWrite pa bs).Preserves s.stored :=
  fun t h => by
    have het := errFree_of_stored h he
    rw [memWrite_errFree het]
    exact ⟨(within_paStore (partsLe_refl _) t .wrd rfl).trans h.1,
      (paStore_ave het pa bs).trans h.2⟩

theorem writePiece_stored {pa : Nat} (hpa : onChip (s.place pa) = true) (bs : List Byte) :
    (writePiece i pa bs).Preserves s.stored := fun t h => by
  have hwrite : ((Prog.seq (memWrite pa bs)
      (Prog.when (t.rmwErrs pa bs.length ≠ []) (markPoison i))).run t) = (memWrite pa bs).run t := by
    rw [run_seq, rmwErrs_errFree (errFree_of_stored h he)]
    rfl
  have hplace := place_of_ave h.2 pa
  rw [writePiece, run_look]
  split
  · rw [hwrite]
    exact memWrite_stored he pa bs t h
  · rw [hwrite]
    exact memWrite_stored he pa bs t h
  · next hp =>
      rw [← hplace, hp] at hpa
      cases hpa
  · next h1 h2 _ =>
      rw [← hplace] at hpa
      cases hp : t.place pa with
      | plaza a => exact absurd hp (h1 a)
      | lpddr a => exact absurd hp (h2 a)
      | _ => rw [hp] at hpa; cases hpa

theorem foldPieces_stored {ps : List (Nat × Nat)} (hps : ∀ p ∈ ps, onChip (s.place p.1) = true)
    {acc : Prog × List Byte} (hacc : acc.1.Preserves s.stored) :
    (ps.foldl (fun (acc : Prog × List Byte) p =>
      (.seq acc.1 (writePiece i p.1 (acc.2.take p.2)), acc.2.drop p.2)) acc).1.Preserves
        s.stored := by
  induction ps generalizing acc with
  | nil => exact hacc
  | cons p ps ih =>
    refine ih (fun q hq => hps q (List.mem_cons_of_mem p hq)) (preserves_seq hacc ?_)
    exact writePiece_stored he (hps p List.mem_cons_self) _

end writes

theorem pieces_onChip {st : Stop} {k : Nat} (h : ∀ off, onChip (s.place (st.pa k off)) = true)
    (fuel : Nat) : ∀ off n, ∀ p ∈ st.pieces k fuel off n, onChip (s.place p.1) = true := by
  induction fuel with
  | zero => exact fun _ _ _ hp => absurd hp List.not_mem_nil
  | succ m ih =>
    intro off n p hp
    rw [Stop.pieces] at hp
    split at hp
    · exact absurd hp List.not_mem_nil
    · rcases List.mem_cons.mp hp with rfl | hp
      · exact h off
      · exact ih _ _ p hp

section writes
variable (he : s.errFree) (hpa : ∀ k off, onChip (s.place (o.stop.pa k off)) = true)
include he hpa

theorem stopWrite_stored (k off : Nat) (bs : List Byte) :
    (stopWrite i o.stop k off bs).Preserves s.stored :=
  foldPieces_stored he (pieces_onChip (hpa k) _ _ _) fun _ h => h

theorem writeWhole_stored (k : Nat) (bs : List Byte) :
    (writeWhole i o k bs).Preserves s.stored := stopWrite_stored he hpa _ _ _

theorem visWrite_stored (k : Nat) (bs : List Byte) : (visWrite i o k bs).Preserves s.stored :=
  preserves_seq (preserves_each fun _ => writeWhole_stored he hpa _ _) (writeWhole_stored he hpa _ _)

end writes

/-! ### A stop that runs to its end -/

theorem slotOf_of_executing {op : Nat} (h : s.executing i op = some o) : s.slotOf i = some o := by
  rw [State.executing] at h
  split at h
  · cases h
  · next o' hs =>
    split at h
    · rw [hs, ← h]
    · cases h

theorem slot_lt (h : s.slotOf i = some o) : i < s.wrd.slots.length := by
  by_contra hlt
  have hnone : s.slotOf i = none := by
    rw [State.slotOf, nth, List.getD_eq_getElem?_getD, List.getElem?_eq_none (by omega)]
    rfl
  rw [hnone] at h
  cases h

theorem slotOf_modSlot (h : s.slotOf i = some o) (f : OpenStop → OpenStop) :
    ((modSlot i f).run s).slotOf i = some (f o) := by
  rw [modSlot, run_modWrd, State.slotOf, act_wrd_wrd, nth_upd_self (slot_lt h)]
  exact congrArg (Option.map f) h

theorem finishWork_done (hslot : s.slotOf i = some o) (he : o.errorSeen = false)
    (hp : o.poisonSeen = false) :
    (finishWork i).run s = (modSlot i fun x => { x with done := true }).run s := by
  rw [finishWork, run_look, hslot]
  dsimp only
  rw [he, hp]
  rfl

theorem checkAccess_passes (hslot : s.slotOf i = some o) (he : o.errorSeen = false)
    (hp : o.poisonSeen = false) : (checkAccess i).run s = s := by
  rw [checkAccess, run_look, hslot]
  dsimp only
  rw [he, hp]
  rfl

section ready
variable {op : Nat} (hr : s.ready i op o)
include hr

theorem ready_errFree : s.errFree := by
  obtain ⟨-, -, -, -, hp, hd, -⟩ := hr
  exact ⟨hp, hd⟩

theorem ready_slot : s.slotOf i = some o := by
  obtain ⟨-, hx, -⟩ := hr
  exact slotOf_of_executing hx

theorem ready_onChip (k off : Nat) : onChip (s.place (o.stop.pa k off)) = true := by
  obtain ⟨-, -, -, -, -, -, hpa, -⟩ := hr
  exact hpa k off

theorem ready_slot_of_stored (h : s.stored t) : t.slotOf i = some o := by
  rw [State.slotOf, h.1]
  exact ready_slot hr

/-- A stop that is ready reads its pieces without effect, and then does its work. -/
theorem run_runStopOn {pieces : State → OpenStop → List (Nat × Nat)}
    {work : State → OpenStop → Prog} {fin : Prog}
    (hon : ∀ p ∈ pieces s o, onChip (s.place p.1) = true)
    (hclean : ∀ p ∈ pieces s o, (s.readMark p.1 p.2).poison = false) :
    (runStopOn i op pieces work fin).run s = fin.run ((work s o).run s) := by
  have hfree := ready_errFree hr
  have hslot := ready_slot hr
  obtain ⟨-, hx, -⟩ := hr
  have hremote : s.remoteParts (pieces s o) = [] := by
    rw [State.remoteParts, List.flatten_eq_nil_iff]
    intro l hl
    obtain ⟨p, hp, rfl⟩ := List.mem_map.mp hl
    have hplace := hon p hp
    split
    · next h => rw [h] at hplace; cases hplace
    · rfl
  have hreads : ∀ l : List (Nat × Nat), (Prog.each l fun p => readEffects p.1 p.2).run s = s := by
    intro l
    induction l with
    | nil => rfl
    | cons p l ih => rw [run_each_cons, readEffects_errFree hfree, ih]
  rw [runStopOn, run_look, hx]
  dsimp only
  rw [hremote]
  split
  · next p l h =>
    obtain ⟨hp, hb⟩ := List.mem_filter.mp (h ▸ List.mem_cons_self : p ∈ (pieces s o).filter _)
    have hplace := hon p hp
    cases hpl : s.place p.1 with
    | plaza a => rw [hpl] at hb; cases hb
    | lpddr a => rw [hpl] at hb; cases hb
    | _ => rw [hpl] at hplace; cases hplace
  · rw [if_neg (by simp), run_seq, hreads, if_neg, run_seq, run_look, hslot]
    rw [List.any_eq_true]
    rintro ⟨p, hp, h⟩
    rw [hclean p hp, Bool.false_and] at h
    cases h

theorem run_runStop {work : State → OpenStop → Prog} :
    (runStop i op work).run s = (finishWork i).run ((work s o).run s) := by
  obtain ⟨-, -, -, -, -, -, hpa, hclean⟩ := id hr
  refine run_runStopOn hr (fun p hp => ?_) hclean
  obtain ⟨l, hl, hpl⟩ := List.mem_flatten.mp hp
  obtain ⟨k, -, rfl⟩ := List.mem_map.mp hl
  replace hpl : p ∈ if (rangeAt o.stop.desc k).rd then o.stop.rangePieces k else [] := hpl
  split at hpl
  · exact pieces_onChip (hpa k) _ _ _ p hpl
  · exact absurd hpl List.not_mem_nil

/-- A stop whose work stores bytes and writes registers is done with that work. -/
theorem runStop_worked {work : State → OpenStop → Prog} {p after : Prog}
    (hrun : (work s o).run s = after.run (p.run s)) (hp : p.Preserves s.stored)
    (hafter : after.Within [.allRegs, .free]) :
    s.worked i o p ((runStop i op work).run s) := by
  have hst : s.stored (after.run (p.run s)) :=
    stored_of_within hafter rfl rfl _ (hp s (stored_refl s))
  obtain ⟨-, -, herr, hpoi, -⟩ := id hr
  rw [run_runStop hr, hrun, finishWork_done (ready_slot_of_stored hr hst) herr hpoi]
  refine ⟨slotOf_modSlot (ready_slot_of_stored hr hst) _, ?_, ?_⟩
  · exact hafter _ (.mem .plaza) rfl
  · exact hafter _ (.mem .lpddr) rfl

end ready

/-! ### The compute operators (R234, R235) -/

/-- Each operator's command runs its own operator, and that one writes the output range. -/
theorem computeOp_works {op : Nat} {f : State → OpenStop → OpParam → List Byte}
    (hr : s.ready i 0x11 o) (hop : (opParam o.stop.desc).op = op) :
    ∃ t, Prog.outcome (Prog.when (s.opIs i op) (computeOp i op f)) s = .next t
      ∧ s.worked i o (writeWhole i o (opParam o.stop.desc).out (f s o (opParam o.stop.desc))) t := by
  have his : s.opIs i op = true := by
    rw [State.opIs, ready_slot hr]
    exact beq_iff_eq.mpr hop
  refine ⟨_, outcome_when his _ _, runStop_worked (after := .skip) hr ?_
    (writeWhole_stored (ready_errFree hr) (ready_onChip hr) _ _) within_skip⟩
  dsimp only
  rw [if_pos hop]
  rfl

/-- Settles O45: eleven operators, one command each. -/
theorem computeOperationsWriteTheirOutput : Obligations.ComputeOperationsWriteTheirOutput :=
  fun _ _ _ hr => ⟨computeOp_works hr, computeOp_works hr, computeOp_works hr, computeOp_works hr,
    computeOp_works hr, computeOp_works hr, computeOp_works hr, computeOp_works hr,
    computeOp_works hr, computeOp_works hr, computeOp_works hr⟩

/-! ### The vision engines (R199, R201, R205, R208, R210) -/

/-- A vision engine's stop without a parity error does its work, and the engine counts it. -/
theorem visStop_works {e op : Nat} {work : State → OpenStop → Prog} (hr : s.ready i op o)
    (hwork : (work s o).Preserves s.stored) :
    s.worked i o (work s o) ((visStop i e op false work).run s) := by
  obtain ⟨-, hx, -⟩ := id hr
  rw [visStop, run_look, hx]
  refine runStop_worked (after := visDone e) hr rfl hwork ?_
  exact within_visDone (by decide +kernel)

theorem warpWork_stored (he : s.errFree) (hpa : ∀ k off, onChip (s.place (o.stop.pa k off)) = true) :
    (warpWork i s o).Preserves s.stored :=
  preserves_seq (visWrite_stored he hpa _ _) <| preserves_each fun _ => preserves_all_cons
    (stored_of_within (setF_within _ _ _ _) rfl rfl) <| preserves_all_cons
    (stored_of_within (setReg_within _ _ _ _) rfl rfl) <| preserves_all_cons
    (stored_of_within (raise_within _ _ _ _ _ _) rfl rfl) preserves_all_nil

theorem statsWork_stored (he : s.errFree) (hpa : ∀ k off, onChip (s.place (o.stop.pa k off)) = true) :
    (statsWork i s o).Preserves s.stored :=
  preserves_seq (visWrite_stored he hpa _ _) <| preserves_each fun _ => preserves_seq
    (stored_of_within (setF_within _ _ _ _) rfl rfl)
    (stored_of_within (raise_within _ _ _ _ _ _) rfl rfl)

/-- The fence of one unit that is not fenced yet. -/
theorem run_fenceUnits_one {u code status : Nat} (hlive : s.live = true)
    (he : s.rcl.escalating = false) (hp : s.rcl.pending.length < 8) (hf : u ∉ s.rcl.fenced) :
    (fenceUnits [u] code status).run s = (Prog.seq
      (modRcl fun c => { c with
        fenced := c.fenced ++ [u]
        pending := c.pending ++ [⟨[u], code, status, 1, s.time, s.servedBy [u] true,
          s.servedBy [u] false, []⟩] })
      (modAve fun v => { v with gates := v.gates ++ [u] })).run s := by
  have hnew : [u].filter (fun u => !s.rcl.fenced.contains u) = [u] := by
    simp [hf]
  rw [fenceUnits, run_look, hnew]
  dsimp only
  rw [run_when_pos (show [u] ≠ [] ∧ s.live = true ∧ s.rcl.escalating = false from
    ⟨by simp, hlive, he⟩), run_all_cons, run_all_cons, run_all_cons, run_all_nil,
    run_when_neg (show ¬8 < s.rcl.pending.length + 1 by omega), run_skip]
  rfl

/-- A unit's own fault leaves its record and fences it; the registers are as the message leaves them. -/
theorem unitFault_fences {u code d q g st : Nat} (hu : recoveredInPlace u = true)
    (hlive : s.live = true) (he : s.rcl.escalating = false) (hp : s.rcl.pending.length < 8)
    (hf : u ∉ s.rcl.fenced) :
    ∃ v, (unitFault u code d q g st).run s = v ∧ s.reports v code u
      ∧ v.rcl.fenced = s.rcl.fenced ++ [u]
      ∧ ∀ r i, v.rd r i = ((raise code u d q g st).run s).rd r i := by
  obtain ⟨t, ht⟩ : ∃ t, (raise code u d q g st).run s = t := ⟨_, rfl⟩
  have hrcl : t.rclCore = s.rclCore := ht ▸ raise_rclCore code u d q g st s
  have hfenced : t.rcl.fenced = s.rcl.fenced :=
    (congrArg Rcl.fenced hrcl : t.rclCore.fenced = s.rclCore.fenced)
  have hpending : t.rcl.pending = s.rcl.pending :=
    (congrArg Rcl.pending hrcl : t.rclCore.pending = s.rclCore.pending)
  have hesc : t.rcl.escalating = s.rcl.escalating :=
    (congrArg Rcl.escalating hrcl : t.rclCore.escalating = s.rclCore.escalating)
  have htlive : t.live = true := by rwa [← ht, raise_live]
  have hrep : s.reports t code u := ht ▸ raise_reports s code u d q g st
  refine ⟨_, rfl, ?_⟩
  rw [unitFault, run_seq, ht, recoverUnit, if_pos hu, run_fenceUnits_one htlive (hesc.trans he)
    (by rw [hpending]; exact hp) (by rw [hfenced]; exact hf), run_seq]
  exact ⟨hrep, congrArg (· ++ [u]) hfenced, fun _ _ => rfl⟩

theorem visStop_parity {e op : Nat} {work : State → OpenStop → Prog} (h4 : e < 4)
    (hlive : s.live = true) (hx : s.executing i op = some o) (he : s.rcl.escalating = false)
    (hp : s.rcl.pending.length < 8) (hf : unitVis e ∉ s.rcl.fenced) :
    ∃ t, Prog.outcome (visStop i e op true work) s = .next t ∧ t.fld F.VIS_EVENT_PARITY = 1
      ∧ s.reports t 0x3004 (unitVis e) ∧ t.rcl.fenced = s.rcl.fenced ++ [unitVis e] := by
  have hin : recoveredInPlace (unitVis e) = true := by
    interval_cases e <;> rfl
  obtain ⟨v, hv⟩ : ∃ v, (setF F.VIS_EVENT_PARITY 1).run s = v := ⟨_, rfl⟩
  have hset : v.fld F.VIS_EVENT_PARITY = 1 := by
    rw [← hv, fld_setF_self _ _ rfl]
    rfl
  have hrcl : v.rcl = s.rcl := by rw [← hv, setF_rcl]
  obtain ⟨t, ht, hrep, hfen, hrd⟩ := unitFault_fences (s := v) (code := 0x3004) (d := 0)
    (q := o.stop.queue) (g := o.stop.tag) (st := 0x0A) hin
    (by rwa [← hv, State.live, setF_lamp]) (by rwa [hrcl]) (by rwa [hrcl]) (by rwa [hrcl])
  refine ⟨t, ?_, ?_, reports_later (by rw [← hv, setF_nextSeq]) hrep, by rw [hfen, hrcl]⟩
  · rw [Prog.outcome, visStop, run_look, hx]
    dsimp only
    rw [if_pos rfl, run_seq, hv, ht]
  · rw [fld_congr (hrd _ _), fld_congr (raise_keeps_rd rfl (by decide) (by decide) _)]
    exact hset

/-- Settles O44: the four engines, with and without a parity error. -/
theorem visionEnginesRunTheirStops : Obligations.VisionEnginesRunTheirStops := by
  refine ⟨fun s i o hr => ⟨_, rfl, visStop_works hr
      (warpWork_stored (ready_errFree hr) (ready_onChip hr))⟩,
    fun s i o hr => ⟨_, rfl, visStop_works hr
      (visWrite_stored (ready_errFree hr) (ready_onChip hr) _ _)⟩,
    fun s i o hr => ⟨_, rfl, visStop_works hr
      (visWrite_stored (ready_errFree hr) (ready_onChip hr) _ _)⟩,
    fun s i o hr => ⟨_, rfl, visStop_works hr
      (statsWork_stored (ready_errFree hr) (ready_onChip hr))⟩, ?_⟩
  intro s i o e c hc hlive hx he hp hf
  simp only [List.mem_cons, Prod.mk.injEq, List.not_mem_nil, or_false] at hc
  rcases hc with ⟨rfl, rfl⟩ | ⟨rfl, rfl⟩ | ⟨rfl, rfl⟩ | ⟨rfl, rfl⟩
  · exact visStop_parity (by decide) hlive hx he hp hf
  · exact visStop_parity (by decide) hlive hx he hp hf
  · exact visStop_parity (by decide) hlive hx he hp hf
  · exact visStop_parity (by decide) hlive hx he hp hf

end Sys2Proof.Machine
end

section
/-! PROOFS. What the operations at the end of a stop leave of the wardens' state (chapter 05, R168,
R175, R176, R181), and the completion of a stop: O24. -/

set_option Elab.async false

namespace Sys2Proof.Machine

variable {s t : State} {i : Nat} {o : OpenStop} {P Q : State → Prop}

/-! ### Properties that the operations around a stop leave -/

/-- A property of the wardens' state, of their registers and of the hand-over that the Bridge holds
back, which a signal, a release of units and a change of an open stop's record all leave. -/
structure Lasting (P : State → Prop) : Prop where
  away : ∀ {p : Prog} {W : List Part}, p.Within W → coveredBy W .wrd = false →
    coveredBy W .brg = false → coveredBy W (.regs 5) = false → p.Preserves P
  link : ∀ f : Brg → Brg, (∀ b, (f b).fallbackDue = b.fallbackDue) → (modBrg f).Preserves P
  slot : ∀ i f, (∀ o, (f o).stop = o.stop) → (modSlot i f).Preserves P
  waits : notifyWardens.Preserves P
  shadow : ∀ q, (updateShadow q).Preserves P

theorem preserves_and {p : Prog} (hp : p.Preserves P) (hq : p.Preserves Q) :
    p.Preserves fun s => P s ∧ Q s := fun s h => ⟨hp s h.1, hq s h.2⟩

theorem Lasting.and (hP : Lasting P) (hQ : Lasting Q) : Lasting fun s => P s ∧ Q s where
  away := fun hp h1 h2 h3 => preserves_and (hP.away hp h1 h2 h3) (hQ.away hp h1 h2 h3)
  link := fun f hf => preserves_and (hP.link f hf) (hQ.link f hf)
  slot := fun i f hf => preserves_and (hP.slot i f hf) (hQ.slot i f hf)
  waits := preserves_and hP.waits hQ.waits
  shadow := fun q => preserves_and (hP.shadow q) (hQ.shadow q)

theorem fallbackDue_pump (n : Nat) (b : Brg) : (b.pump n).fallbackDue = b.fallbackDue := by
  induction n generalizing b with
  | zero => rfl
  | succ n ih =>
    unfold Brg.pump
    split
    · rfl
    · split
      · rfl
      · exact ih _

section lasting
variable (h : Lasting P)
include h

/-! ### Crossings and signals -/

theorem raise_lasting (c u d q g st : Nat) : (raise c u d q g st).Preserves P :=
  h.away (raise_within c u d q g st) rfl rfl rfl

theorem putCrossing_lasting (n : Nat) (c : Crossing) : (putCrossing n c).Preserves P :=
  h.away (within_putCrossing (partsLe_refl _)) rfl rfl rfl

theorem freeMutexRecord_lasting (n : Nat) : (freeMutexRecord n).Preserves P :=
  h.away (within_freeMutexRecord (partsLe_refl _)) rfl rfl rfl

theorem setXngF_lasting {f : Field} (hf : f.reg.oneSlot = true) (hs : regSlot f.reg.addr = 6)
    (v : Nat) : (setF f v).Preserves P :=
  h.away (W := [.regs 6]) (within_setF hf (by rw [hs]; rfl)) rfl rfl rfl

theorem refuseSignal_lasting (n code : Nat) : (refuseSignal n code).Preserves P :=
  h.away (within_refuseSignal (partsLe_refl _)) rfl rfl rfl

theorem checkCrossing_lasting (n : Nat) : (checkCrossing n).Preserves P :=
  preserves_look fun _ => preserves_when <|
    preserves_all_cons (raise_lasting h _ _ _ _ _ _) <|
    preserves_all_cons (setXngF_lasting h (by decide) (by decide) _) <|
    preserves_all_cons (setXngF_lasting h (by decide) (by decide) _) <|
    preserves_all_cons (preserves_ite (putCrossing_lasting h _ _) <|
      preserves_ite (putCrossing_lasting h _ _) <|
      preserves_ite (preserves_seq (freeMutexRecord_lasting h n) (putCrossing_lasting h _ _))
        (putCrossing_lasting h _ _)) <|
    preserves_all_cons h.waits preserves_all_nil

theorem exportSignal_lasting (n v : Nat) (failed : Bool) : (exportSignal n v failed).Preserves P :=
  preserves_seq (h.away (W := raiseAny)
    (within_useRegs (partsLe_refl _) (by decide +kernel) (by decide +kernel)) rfl rfl rfl) <|
  preserves_look fun _ => by
    split
    · exact preserves_skip
    · exact preserves_when (h.link _ fun b => fallbackDue_pump _ _)

theorem changeCounter_lasting (n v : Nat) (failed set : Bool) :
    (changeCounter n v failed set).Preserves P :=
  preserves_look fun _ => preserves_all_cons (putCrossing_lasting h _ _) <|
    preserves_all_cons h.waits <| preserves_all_cons (exportSignal_lasting h _ _ _)
    preserves_all_nil

theorem deviceEvent_lasting (n : Nat) (failed : Bool) : (deviceEvent n failed).Preserves P :=
  preserves_all_cons (checkCrossing_lasting h n) <|
  preserves_all_cons (h.away (W := [.xng]) (within_modXng rfl) rfl rfl rfl) <|
  preserves_all_cons (preserves_look fun _ => changeCounter_lasting h _ _ _ _) preserves_all_nil

theorem signalCounter_lasting (n operand : Nat) (set failed : Bool) :
    (signalCounter n operand set failed).Preserves P :=
  preserves_ite (refuseSignal_lasting h _ _) <|
  preserves_seq (checkCrossing_lasting h n) <| preserves_look fun _ =>
    preserves_ite (refuseSignal_lasting h _ _) <|
    preserves_ite preserves_skip (changeCounter_lasting h _ _ _ _)

theorem signalRelease_lasting (n q : Nat) : (signalRelease n q).Preserves P :=
  preserves_ite (refuseSignal_lasting h _ _) <|
  preserves_seq (checkCrossing_lasting h n) <| preserves_look fun _ =>
    preserves_ite (refuseSignal_lasting h _ _) <| preserves_ite preserves_skip <| preserves_ite
      (preserves_all_cons (freeMutexRecord_lasting h n) <|
        preserves_all_cons (putCrossing_lasting h _ _) <| preserves_all_cons h.waits
        preserves_all_nil)
      (preserves_seq (setXngF_lasting h (by decide) (by decide) _) (raise_lasting h _ _ _ _ _ _))

theorem slotSignal_lasting (j k : Nat) (g : Slot) (q : Nat) (failed : Bool) :
    (slotSignal j k g q failed).Preserves P :=
  preserves_look fun _ => preserves_when <| preserves_seq
    (preserves_ite preserves_skip <| preserves_ite (signalCounter_lasting h _ _ _ _) <|
      preserves_ite (signalCounter_lasting h _ _ _ _) <|
      preserves_ite (signalRelease_lasting h _ _) <|
      preserves_ite (refuseSignal_lasting h _ _) (refuseSignal_lasting h _ _)) (h.slot _ _ fun _ => rfl)

theorem performSignals_lasting (j : Nat) (st : Stop) : (performSignals j st).Preserves P :=
  preserves_seq (slotSignal_lasting h _ _ _ _ _) (slotSignal_lasting h _ _ _ _ _)

theorem failSignals_lasting (j : Nat) (st : Stop) : (failSignals j st).Preserves P :=
  preserves_seq (preserves_each fun _ => slotSignal_lasting h _ _ _ _ _)
    (preserves_each fun _ => slotSignal_lasting h _ _ _ _ _)

/-! ### Units, stamps and outputs -/

theorem releaseUnits_lasting (j : Nat) : (releaseUnits j).Preserves P := by
  have hdrop : (dropUnitWork j).Preserves P :=
    preserves_all_cons (h.away (W := [.ras]) (within_modRas rfl) rfl rfl rfl) <|
    preserves_all_cons (h.away (W := [.rbt]) (within_modRbt rfl) rfl rfl rfl) <|
    preserves_all_cons (h.away (W := [.dst]) (within_modDst rfl) rfl rfl rfl) <|
    preserves_all_cons (h.link _ fun _ => rfl) <|
    preserves_all_cons (h.away (within_freeLease (partsLe_refl _)) rfl rfl rfl) <|
    preserves_all_cons (preserves_each fun _ =>
      h.away (within_releaseStands (partsLe_refl _)) rfl rfl rfl) preserves_all_nil
  have hregain : ∀ k, (regainCores k).Preserves P := fun k => preserves_look fun _ => by
    split
    · exact preserves_skip
    · exact preserves_when <| preserves_all_cons
        (preserves_when <| h.away (within_requestPlls (partsLe_refl _)) rfl rfl rfl) <|
        preserves_all_cons (preserves_each fun _ =>
          h.away (within_takeLease (partsLe_refl _)) rfl rfl rfl) <|
        preserves_all_cons (h.slot _ _ fun _ => rfl) <| preserves_all_cons (preserves_each fun _ =>
          h.away (within_resumeCore (partsLe_refl _)) rfl rfl rfl) preserves_all_nil
  refine preserves_look fun _ => ?_
  split
  · exact preserves_skip
  · exact preserves_all_cons (preserves_each fun _ =>
        h.away (within_freeLease (partsLe_refl _)) rfl rfl rfl) <|
      preserves_all_cons hdrop <| preserves_all_cons (h.slot _ _ fun _ => rfl) <|
      preserves_all_cons (preserves_each hregain) <|
      preserves_all_cons (h.away (within_startCalibrations (partsLe_refl _)) rfl rfl rfl)
      preserves_all_nil

theorem stampStop_lasting (st : Stop) : (stampStop st).Preserves P := by
  have hwrite : ∀ a bs, (ijWrite a bs).Preserves P := fun _ _ =>
    h.away (within_ijWrite (partsLe_refl _)) rfl rfl rfl
  refine preserves_when <| preserves_seq (h.away (W := raiseAny)
    (within_useRegs (partsLe_refl _) (by decide +kernel) (by decide +kernel)) rfl rfl rfl) <|
    preserves_look fun _ => preserves_when <| preserves_each fun _ => preserves_look fun _ => ?_
  refine preserves_ite (raise_lasting h _ _ _ _ _ _) ?_
  dsimp only
  split
  · exact preserves_skip
  · exact preserves_all_cons (hwrite _ _) <| preserves_all_cons (hwrite _ _) <|
      preserves_all_cons (h.away (within_presentEvents (partsLe_refl _)) rfl rfl rfl) <|
      preserves_all_cons (preserves_look fun _ => preserves_all_cons (hwrite _ _) <|
        preserves_all_cons (deviceEvent_lasting h _ _) preserves_all_nil) preserves_all_nil

theorem freeRunList_lasting (st : Stop) : (freeRunList st).Preserves P :=
  h.away (within_freeRunList (partsLe_refl _)) rfl rfl rfl

/-! ### What follows the end of a stop -/

theorem settleInvalidations_lasting : settleInvalidations.Preserves P :=
  preserves_look fun _ =>
    preserves_all_cons (h.away (W := [.xlt]) (within_modXlt rfl) rfl rfl rfl) <|
    preserves_all_cons (preserves_each fun _ =>
      h.away (within_bumpGeneration (partsLe_refl _)) rfl rfl rfl) <|
    preserves_all_cons (preserves_each fun _ => preserves_look fun _ => preserves_when <|
      preserves_all_cons (h.away (W := [.regs 4])
        (within_setReg rfl (by decide +kernel)) rfl rfl rfl) <|
      preserves_all_cons (h.away (W := [.regs 4])
        (within_setF rfl (by decide +kernel)) rfl rfl rfl) <|
      preserves_all_cons (deviceEvent_lasting h _ _) preserves_all_nil)
    preserves_all_nil

theorem parkWithdrawn_lasting : parkWithdrawn.Preserves P :=
  h.away (within_parkWithdrawn (partsLe_refl _)) rfl rfl rfl

/-- Nothing else follows a stop's end for a property that the settling of its queue keeps and, where
the Bridge holds a hand-over back, the hand-over. -/
theorem afterStop_lasting {q : Nat} (hq : (settleQueue q).Preserves P)
    (hf : fallbackStep.Preserves P) : (afterStop q).Preserves P :=
  preserves_all_cons hq <| preserves_all_cons (settleInvalidations_lasting h) <|
    preserves_all_cons hf <| preserves_all_cons (parkWithdrawn_lasting h) preserves_all_nil

end lasting

/-! ### An open-stop slot that is empty -/

/-- Slot `i` holds no stop. -/
def State.slotEmpty (i : Nat) (s : State) : Prop := s.slotOf i = none

theorem slotEmpty_of_slots (hs : t.wrd.slots = s.wrd.slots) (h : s.slotEmpty i) : t.slotEmpty i := by
  rw [State.slotEmpty, State.slotOf, hs]
  exact h

theorem modSlot_slotEmpty (j : Nat) (f : OpenStop → OpenStop) :
    (modSlot j f).Preserves (State.slotEmpty i) := fun s h => by
  rw [State.slotEmpty, State.slotOf, modSlot, run_modWrd, act_wrd_wrd, nth_upd]
  split
  · next hij => rw [hij.1, show nth none s.wrd.slots i = none from h]; rfl
  · exact h

theorem modQueue_slotEmpty (q : Nat) (f : Queue → Queue) :
    (modQueue q f).Preserves (State.slotEmpty i) := fun _ h => h

theorem slotEmpty_lasting (i : Nat) : Lasting (State.slotEmpty i) where
  away := fun hp hw _ _ s => slotEmpty_of_slots (congrArg Wrd.slots (hp s .wrd hw))
  link := fun _ _ _ h => h
  slot := fun j f _ => modSlot_slotEmpty j f
  waits := fun _ h => h
  shadow := fun _ _ h => h

theorem settleQueue_slotEmpty (q : Nat) : (settleQueue q).Preserves (State.slotEmpty i) :=
  preserves_look fun _ => preserves_ite preserves_skip <| preserves_ite (modQueue_slotEmpty _ _) <|
    preserves_ite (modQueue_slotEmpty _ _) preserves_skip

theorem setReg_slotEmpty (r : Reg) (v j k : Nat) :
    (setReg r v j k).Preserves (State.slotEmpty i) :=
  fun _ => slotEmpty_of_slots (congrArg Wrd.slots (setReg_wrd ..))

theorem fallbackStep_slotEmpty : fallbackStep.Preserves (State.slotEmpty i) := by
  refine preserves_look fun _ => preserves_when ?_
  split
  · exact fun _ h => h
  · split
    · exact fun _ h => h
    · exact preserves_all_cons
          (preserves_each fun _ => freeRunList_lasting (slotEmpty_lasting i) _) <|
        preserves_all_cons (fun _ h => h) <| preserves_all_cons (fun _ h => h) <|
        preserves_all_cons (preserves_each fun _ => (slotEmpty_lasting i).shadow _) <|
        preserves_all_cons (fun _ h => h) <| preserves_all_cons (fun _ h => h) <|
        preserves_all_cons (preserves_when (raise_lasting (slotEmpty_lasting i) _ _ _ _ _ _)) <|
        preserves_all_cons (preserves_look fun _ => by
          split
          · exact preserves_skip
          · exact preserves_seq (fun _ h => h) <| preserves_look fun _ => preserves_each fun _ =>
              preserves_seq (setReg_slotEmpty _ _ _ _) (setReg_slotEmpty _ _ _ _)) <|
        preserves_all_cons (preserves_look fun _ => preserves_all_cons
          (setReg_slotEmpty _ _ _ _) <| preserves_all_cons (modQueue_slotEmpty _ _) <|
          preserves_all_cons ((slotEmpty_lasting i).shadow _) preserves_all_nil) <|
        preserves_all_cons (settleInvalidations_lasting (slotEmpty_lasting i)) preserves_all_nil

theorem afterStop_slotEmpty (q : Nat) : (afterStop q).Preserves (State.slotEmpty i) :=
  afterStop_lasting (slotEmpty_lasting i) (settleQueue_slotEmpty q) fallbackStep_slotEmpty

theorem setSlot_none_slotEmpty (s : State) : ((setSlot i none).run s).slotEmpty i := by
  rw [State.slotEmpty, State.slotOf, setSlot, run_modWrd, act_wrd_wrd, nth_upd]
  split
  · rfl
  · next h =>
    rw [nth, List.getD_eq_getElem?_getD, List.getElem?_eq_none (by omega)]
    rfl

/-! ### FILL, COPY and completion (R164, R175) -/

theorem slotOwned_stop_works {op : Nat} {work : State → OpenStop → Prog} (hr : s.ready i op o)
    (howned : s.slotOwned i = true) (hwork : (work s o).Preserves s.stored) :
    ∃ t, Prog.outcome (Prog.when (s.live = true ∧ s.slotOwned i = true) (runStop i op work)) s
        = .next t ∧ s.worked i o (work s o) t := by
  obtain ⟨hlive, -⟩ := id hr
  exact ⟨_, outcome_when ⟨hlive, howned⟩ _ _,
    runStop_worked (after := .skip) hr rfl hwork within_skip⟩

theorem stopComplete_gives_up (hslot : s.slotOf i = some o) (hlive : s.live = true)
    (hdone : o.done = true) (hw : o.withdraw = none) (hrem : s.remotesOf i = [])
    (hfen : o.units.any s.rcl.fenced.contains = false)
    (hown : s.wardenOk (s.queue o.stop.queue).owner = true ∨ o.units ≠ []) :
    ∃ t, exec (.stopComplete i) s = .next t ∧ t.slotOf i = none := by
  rw [show exec (.stopComplete i) s = execStopComplete i s from rfl, execStopComplete, hslot]
  refine ⟨_, outcome_when ⟨hlive, hdone, hw, hrem, hfen, hown⟩ _ _, ?_⟩
  rw [completeStop, run_look, hslot]
  dsimp only
  rw [run_all_cons, run_all_cons, run_all_cons, run_all_cons, run_all_cons, run_all_cons,
    run_all_cons, run_all_cons, run_all_cons, run_all_nil]
  exact afterStop_slotEmpty _ _
    ((slotEmpty_lasting i).shadow _ _ (setSlot_none_slotEmpty _))

/-- Settles O24: the copy engine's two opcodes, and what a completed stop gives up. -/
theorem copyFillAndCompletion : Obligations.CopyFillAndCompletion :=
  ⟨fun _ _ _ hr howned => slotOwned_stop_works hr howned
      (stopWrite_stored (ready_errFree hr) (ready_onChip hr) _ _ _),
    fun _ _ _ hr howned => slotOwned_stop_works hr howned
      (stopWrite_stored (ready_errFree hr) (ready_onChip hr) _ _ _),
    fun _ _ _ hslot hlive hdone hw hrem hfen hown _ =>
      stopComplete_gives_up hslot hlive hdone hw hrem hfen hown⟩

end Sys2Proof.Machine
end

section
/-! PROOFS. Halting a queue, resuming it, the end of its drain, and pre-emption (chapter 05, R169,
R181, R238): O27. -/

set_option Elab.async false

namespace Sys2Proof.Machine

variable {s t : State} {q : Nat} {o : OpenStop}

/-! ### A queue and the number of its open stops -/

/-- The slot holds a stop of queue `q`. -/
def openIn (q : Nat) (x : Option OpenStop) : Bool := (x.map fun o => o.stop.queue == q).getD false

/-- Open stops of queue `q`. -/
def State.openCount (s : State) (q : Nat) : Nat := s.wrd.slots.countP (openIn q)

theorem length_openOf : (s.openOf q).length = s.openCount q := by
  rw [State.openOf, State.openStops, ← List.countP_eq_length_filter, List.countP_filterMap]
  rfl

theorem openOf_eq_nil : s.openOf q = [] ↔ s.openCount q = 0 := by
  rw [← length_openOf, List.length_eq_zero_iff]

theorem openCount_upd {i : Nat} {x : Option OpenStop} (hi : i < s.wrd.slots.length) :
    (upd s.wrd.slots i x).countP (openIn q) + (if openIn q (s.slotOf i) then 1 else 0)
      = s.openCount q + if openIn q x then 1 else 0 := by
  have hget : s.wrd.slots[i] = s.slotOf i := by
    rw [State.slotOf, nth, List.getD_eq_getElem?_getD, List.getElem?_eq_getElem hi]
    rfl
  have hpos : openIn q s.wrd.slots[i] = true → 0 < s.wrd.slots.countP (openIn q) := fun h =>
    List.countP_pos_iff.mpr ⟨_, List.getElem_mem hi, h⟩
  rw [upd, List.countP_set hi, hget, State.openCount]
  rw [hget] at hpos
  split
  · next h =>
    have := hpos h
    omega
  · omega

theorem modSlot_openCount {i : Nat} {f : OpenStop → OpenStop} (hf : ∀ o, (f o).stop = o.stop) :
    (modSlot i f).Keeps (State.openCount · q) := fun s => by
  by_cases hi : i < s.wrd.slots.length
  · have h := openCount_upd (q := q) (x := (s.slotOf i).map f) hi
    have hsame : openIn q ((s.slotOf i).map f) = openIn q (s.slotOf i) := by
      cases hs : s.slotOf i with
      | none => rfl
      | some o => simp [openIn, hf]
    rw [hsame] at h
    exact Nat.add_right_cancel h
  · change (upd s.wrd.slots i _).countP (openIn q) = s.wrd.slots.countP (openIn q)
    rw [upd, List.set_eq_of_length_le (by omega)]

/-- What a queue's end of drain turns on: its state, the number of its withdrawn and of its open
stops, and that no hand-over waits. -/
structure QueueAt (q st n c : Nat) (s : State) : Prop where
  state : (s.queue q).state = st
  count : s.wrd.queues.length = 16
  kept : (s.queue q).withdrawn.length = n
  opened : s.openCount q = c
  due : s.brg.fallbackDue = false

section queueAt
variable {st n c : Nat}

theorem queueAt_congr (hw : t.wrd = s.wrd) (hb : t.brg.fallbackDue = s.brg.fallbackDue)
    (h : QueueAt q st n c s) : QueueAt q st n c t := by
  obtain ⟨h1, h2, h3, h4, h5⟩ := h
  constructor
  · rwa [State.queue, hw]
  · rwa [hw]
  · rwa [State.queue, hw]
  · rwa [State.openCount, hw]
  · rwa [hb]

theorem queue_notifyWardens : (notifyWardens.run s).queue q
    = { s.queue q with enq := (s.queue q).enq.map s.updateWaits } := by
  rw [notifyWardens, run_look, run_modWrd, State.queue, act_wrd_wrd]
  dsimp only
  rw [nth, List.getD_eq_getElem?_getD, List.getElem?_map, State.queue, nth,
    List.getD_eq_getElem?_getD]
  cases s.wrd.queues[q]? <;> rfl

theorem queueAt_lasting : Lasting (QueueAt q st n c) where
  away := fun hp hw hb _ s =>
    queueAt_congr (hp s .wrd hw) (congrArg Brg.fallbackDue (hp s .brg hb))
  link := fun f hf s => queueAt_congr rfl (hf s.brg)
  slot := fun i f hf s h => ⟨h.1, h.2, h.3, (modSlot_openCount hf s).trans h.4, h.5⟩
  waits := fun s h => by
    refine ⟨?_, ?_, ?_, h.4, h.5⟩
    · rw [queue_notifyWardens]
      exact h.1
    · exact (List.length_map _).trans h.2
    · rw [queue_notifyWardens]
      exact h.3
  shadow := fun _ _ h => ⟨h.1, h.2, h.3, h.4, h.5⟩

theorem fallbackStep_notDue (h : s.brg.fallbackDue = false) : fallbackStep.run s = s := by
  rw [fallbackStep, run_look, run_when_neg (by simp [h]), run_skip]

theorem fallbackStep_queueAt : fallbackStep.Preserves (QueueAt q st n c) := fun s h => by
  rw [fallbackStep_notDue h.due]
  exact h

end queueAt

/-- The slot holds this stop. -/
def State.slotStop (i : Nat) (st : Stop) (s : State) : Prop := ∃ o, s.slotOf i = some o ∧ o.stop = st

theorem slotStop_lasting (i : Nat) (st : Stop) : Lasting (State.slotStop i st) where
  away := fun hp hw _ _ s h => by
    rwa [State.slotStop, State.slotOf, hp s .wrd hw]
  link := fun _ _ _ h => h
  slot := fun j f hf s h => by
    obtain ⟨o, ho, hst⟩ := h
    by_cases hij : j = i
    · subst hij
      exact ⟨f o, slotOf_modSlot ho f, (hf o).trans hst⟩
    · refine ⟨o, ?_, hst⟩
      rw [State.slotOf, modSlot, run_modWrd, act_wrd_wrd, nth_upd_ne hij]
      exact ho
  waits := fun _ h => h
  shadow := fun _ _ h => h

theorem lt_queueCount (hlen : s.wrd.queues.length = 16) (hq : q < 16) : q < s.queueCount := by
  rw [State.queueCount, hlen]
  exact hq

/-! ### HALT and RESUME (R181) -/

theorem queueHalt_closes (hq : q < 16) (hlive : s.live = true) (hlen : s.wrd.queues.length = 16)
    (hdue : s.brg.fallbackDue = false) (h1 : (s.queue q).state = 1) :
    ∃ t, exec (.queueHalt q) s = .next t
      ∧ (t.queue q).state = if s.openOf q = [] then 2 else 3 := by
  refine ⟨_, outcome_when ⟨hq, hlive⟩ _ _, ?_⟩
  have hclosed : QueueAt q (if s.openOf q = [] then 2 else 3) (s.queue q).withdrawn.length
      (s.openCount q) ((haltQueue q).run s) := by
    have hqueue := queue_modQueue_self (s := s) (q := q) (lt_queueCount hlen hq)
      fun x => { x with state := if s.openOf q = [] then 2 else 3 }
    rw [haltQueue, run_look, run_when_pos h1]
    refine ⟨by rw [hqueue], (length_upd ..).trans hlen, by rw [hqueue], rfl, hdue⟩
  rw [run_all_cons, run_all_cons, run_all_cons, run_all_nil, queueCtrl, if_pos rfl]
  exact (fallbackStep_queueAt _ (settleInvalidations_lasting queueAt_lasting _ hclosed)).state

theorem run_queueResume (hq : q < 16) (hlive : s.live = true) :
    exec (.queueResume q) s = .next ((resumeQueue q).run s) := by
  refine (outcome_when ⟨hq, hlive⟩ _ _).trans (congrArg _ ?_)
  rw [queueCtrl, if_neg (by decide), run_when_pos rfl]

theorem queueResume_draining (hq : q < 16) (hlive : s.live = true) (hlen : s.wrd.queues.length = 16)
    (h3 : (s.queue q).state = 3) :
    ∃ t, exec (.queueResume q) s = .next t ∧ (t.queue q).state = 1 ∧ s.onlyChanges [.wrd] t := by
  refine ⟨_, run_queueResume hq hlive, ?_⟩
  rw [resumeQueue, run_look, if_pos h3]
  exact ⟨by rw [queue_modQueue_self (lt_queueCount hlen hq)],
    onlyChanges_of_within (within_modQueue (partsLe_refl _)) s⟩

theorem length_insertStop (st : Stop) (l : List Stop) : (insertStop st l).length = l.length + 1 := by
  induction l with
  | nil => rfl
  | cons x l ih =>
    rw [insertStop]
    split
    · rfl
    · rw [List.length_cons, ih, List.length_cons]

theorem length_foldr_insertStop (l : List Stop) : (l.foldr insertStop []).length = l.length := by
  induction l with
  | nil => rfl
  | cons x l ih => rw [List.foldr_cons, length_insertStop, ih, List.length_cons]

/-- The queue table keeps its length, and queue `q` the number of its undispatched stops. -/
def State.waitingAt (q n : Nat) (s : State) : Prop :=
  s.wrd.queues.length = 16 ∧ (s.queue q).enq.length = n

theorem waitingAt_lasting (q n : Nat) : Lasting (State.waitingAt q n) where
  away := fun hp hw _ _ s h => by
    rwa [State.waitingAt, State.queue, hp s .wrd hw]
  link := fun _ _ _ h => h
  slot := fun _ _ _ _ h => h
  waits := fun s h => by
    refine ⟨(List.length_map _).trans h.1, ?_⟩
    rw [queue_notifyWardens]
    exact (List.length_map _).trans h.2
  shadow := fun _ _ h => h

theorem accessWaits_lasting {P : State → Prop} (h : Lasting P) (st : Stop) :
    (accessWaits st).Preserves P :=
  preserves_each fun _ => preserves_when <| preserves_seq (checkCrossing_lasting h _) <|
    preserves_look fun _ => preserves_when (refuseSignal_lasting h _ _)

theorem queueResume_halted (hq : q < 16) (hlive : s.live = true) (hlen : s.wrd.queues.length = 16)
    (h2 : (s.queue q).state = 2) :
    ∃ t, exec (.queueResume q) s = .next t ∧ (t.queue q).state = 1 ∧ (t.queue q).withdrawn = []
      ∧ (t.queue q).enq.length = (s.queue q).withdrawn.length + (s.queue q).enq.length := by
  refine ⟨_, run_queueResume hq hlive, ?_⟩
  rw [resumeQueue, run_look, if_neg (by omega), run_when_pos h2, resumeHalted, run_look,
    run_all_cons, run_all_cons, run_all_cons, run_all_nil, run_look]
  obtain ⟨hlen', henq⟩ := preserves_each (P := State.waitingAt q (s.queue q).enq.length)
    (fun st => accessWaits_lasting (waitingAt_lasting q _) st)
    (l := (s.queue q).withdrawn.foldr insertStop []) s ⟨hlen, rfl⟩
  generalize (Prog.each ((s.queue q).withdrawn.foldr insertStop []) accessWaits).run s = u
    at hlen' henq ⊢
  have hqueue := queue_modQueue_self (s := u) (q := q) (lt_queueCount hlen' hq)
  have hshadow : ∀ v : State, ((updateShadow q).run v).queue q = v.queue q := fun _ => rfl
  rw [hshadow, hqueue]
  refine ⟨rfl, rfl, ?_⟩
  rw [List.length_append, List.length_map, length_foldr_insertStop, henq]

/-! ### The end of the drain (R181) -/

theorem run_queueDrainExpire (hq : q < 16) (hlive : s.live = true) (h3 : (s.queue q).state = 3)
    (hopen : s.openOf q = [o]) :
    exec (.queueDrainExpire q) s = .next ((withdrawStop o.slot 7).run s) := by
  refine (outcome_when ⟨hq, hlive, h3⟩ _ _).trans (congrArg _ ?_)
  rw [withdrawQueue, run_look, hopen]
  rfl

theorem drain_marks (hq : q < 16) (hlive : s.live = true) (h3 : (s.queue q).state = 3)
    (hopen : s.openOf q = [o]) (hslot : s.slotOf o.slot = some o) (hw : o.withdraw = none) {u : Nat}
    (hu : u ∈ o.units) (hlo : 12 ≤ u) (hhi : u < 28) (hst : o.started = true) :
    ∃ t, exec (.queueDrainExpire q) s = .next t
      ∧ t.slotOf o.slot = some { o with withdraw := some 7 } ∧ s.onlyChanges [.wrd] t := by
  refine ⟨_, run_queueDrainExpire hq hlive h3 hopen, ?_⟩
  have htile : (o.units.any fun u => 12 ≤ u && u < 28) = true :=
    List.any_eq_true.mpr ⟨u, hu, by simp [hlo, hhi]⟩
  rw [withdrawStop, run_look, hslot]
  dsimp only
  rw [if_pos ⟨hst, htile⟩]
  refine ⟨(slotOf_modSlot hslot _).trans ?_, onlyChanges_of_within (within_modSlot (partsLe_refl _)) s⟩
  rw [hw]
  rfl

theorem recordFail_queueAt {st n c : Nat} (x tag status : Nat) :
    (recordFail x tag status).Preserves (QueueAt q st n c) := fun s =>
  queueAt_congr (within_recordFail (partsLe_refl _) s .wrd rfl)
    (congrArg Brg.fallbackDue (within_recordFail (partsLe_refl _) s .brg rfl))

theorem recordFail_slotStop {i : Nat} {st : Stop} (x tag status : Nat) :
    (recordFail x tag status).Preserves (State.slotStop i st) := fun s h => by
  rwa [State.slotStop, State.slotOf, within_recordFail (partsLe_refl _) s .wrd rfl]

/-- A draining queue without open stops is halted. -/
theorem afterStop_halts (hq : q < 16) {n : Nat} (h : QueueAt q 3 n 0 s) :
    QueueAt q 2 n 0 ((afterStop q).run s) := by
  have hsettled : QueueAt q 2 n 0 ((settleQueue q).run s) := by
    have hopen : s.openOf q = [] := openOf_eq_nil.mpr h.opened
    have hqueue := queue_modQueue_self (s := s) (lt_queueCount h.count hq)
      fun y => { y with state := 2 }
    rw [settleQueue, run_look]
    dsimp only
    rw [if_neg (by simp [hopen]), if_pos h.state]
    exact ⟨by rw [hqueue], (length_upd ..).trans h.count, by rw [hqueue]; exact h.kept, h.opened,
      h.due⟩
  rw [afterStop, run_all_cons, run_all_cons, run_all_cons, run_all_cons, run_all_nil]
  exact parkWithdrawn_lasting queueAt_lasting _ <| fallbackStep_queueAt _ <|
    settleInvalidations_lasting queueAt_lasting _ hsettled

/-- What a failing stop does before it gives up its slot (R176, steps 1 to 6). -/
theorem failBefore_preserves {P : State → Prop} (h : Lasting P)
    (hrec : ∀ x tag status, (recordFail x tag status).Preserves P) (i : Nat) (st : Stop)
    (status : Nat) (hs : P s) :
    P ((freeRunList st).run ((recordFail st.queue st.tag status).run ((failSignals i st).run
      ((releaseUnits i).run ((poisonOutputs st).run s))))) :=
  freeRunList_lasting h st _ <| hrec _ _ _ _ <| failSignals_lasting h i st _ <|
    releaseUnits_lasting h i _ <| h.away (within_poisonOutputs (partsLe_refl _)) rfl rfl rfl s hs

/-- A draining queue's last open stop that is withdrawn leaves its slot and the queue halted. -/
theorem withdrawStop_ends (hq : q < 16) {n : Nat} (hat : QueueAt q 3 n 1 s)
    (hslot : s.slotOf o.slot = some o) (hstq : o.stop.queue = q) (hw : o.withdraw = none) :
    QueueAt q 2 (n + 1) 0 ((failStop o.slot 7).run s)
      ∧ ((failStop o.slot 7).run s).slotEmpty o.slot := by
  have hbefore := failBefore_preserves (queueAt_lasting.and (slotStop_lasting _ _))
    (fun x tag status => preserves_and (recordFail_queueAt x tag status)
      (recordFail_slotStop x tag status)) o.slot o.stop 7 ⟨hat, o, hslot, rfl⟩
  rw [failStop, run_look, hslot]
  dsimp only
  rw [hw, Option.getD_none, run_all_cons, run_all_cons, run_all_cons, run_all_cons, run_all_cons,
    run_all_cons, run_all_cons, run_all_cons, run_all_cons, run_all_cons, run_all_nil,
    run_when_neg (show ¬(o.stop.failHalt = true ∧ ¬(7 = 7 ∨ 7 = 8)) by simp), run_skip,
    run_when_pos (show 7 = 7 ∨ 7 = 8 from .inl rfl)]
  generalize (freeRunList o.stop).run _ = u at hbefore ⊢
  obtain ⟨hu, o', ho', hst'⟩ := hbefore
  have hin : openIn q (u.slotOf o.slot) = true := by
    rw [ho', openIn, Option.map_some, Option.getD_some, hst', hstq, beq_self_eq_true]
  have hgone : QueueAt q 3 n 0 ((setSlot o.slot none).run u) := by
    have h := openCount_upd (q := q) (x := none) (slot_lt ho')
    rw [if_pos hin, if_neg (show ¬openIn q none = true from Bool.false_ne_true), hu.opened] at h
    exact ⟨hu.state, hu.count, hu.kept, Nat.succ.inj h, hu.due⟩
  have hempty : ((setSlot o.slot none).run u).slotEmpty o.slot := setSlot_none_slotEmpty u
  generalize (setSlot o.slot none).run u = v at hgone hempty ⊢
  rw [hstq]
  have hkept : ∀ f : Queue → Queue, (∀ x, (f x).state = x.state) →
      (∀ x, (f x).withdrawn.length = x.withdrawn.length + 1) →
      QueueAt q 3 (n + 1) 0 ((modQueue q f).run ((updateShadow q).run v)) := fun f hf hw => by
    have hqueue := queue_modQueue_self (s := (updateShadow q).run v) (lt_queueCount hgone.count hq) f
    refine ⟨?_, (length_upd ..).trans hgone.count, ?_, hgone.opened, hgone.due⟩
    · rw [hqueue, hf]
      exact hgone.state
    · rw [hqueue, hw]
      exact congrArg (· + 1) hgone.kept
  refine ⟨afterStop_halts hq (hkept _ ?_ ?_), afterStop_slotEmpty q _ hempty⟩
  · exact fun _ => rfl
  · exact fun _ => List.length_append

theorem drain_withdraws (hq : q < 16) (hlive : s.live = true) (hlen : s.wrd.queues.length = 16)
    (hdue : s.brg.fallbackDue = false) (h3 : (s.queue q).state = 3) (hopen : s.openOf q = [o])
    (hslot : s.slotOf o.slot = some o) (hw : o.withdraw = none)
    (hunits : ∀ u ∈ o.units, ¬(12 ≤ u ∧ u < 28)) :
    ∃ t, exec (.queueDrainExpire q) s = .next t ∧ t.slotOf o.slot = none ∧ (t.queue q).state = 2
      ∧ (t.queue q).withdrawn.length = (s.queue q).withdrawn.length + 1 := by
  have hmem : o ∈ s.openOf q := by rw [hopen]; exact List.mem_cons_self
  have hstq : o.stop.queue = q := beq_iff_eq.mp (List.mem_filter.mp hmem).2
  have htile : ¬(o.units.any fun u => 12 ≤ u && u < 28) = true := by
    simpa using hunits
  obtain ⟨hat, hempty⟩ := withdrawStop_ends hq
    ⟨h3, hlen, rfl, by rw [← length_openOf, hopen]; rfl, hdue⟩ hslot hstq hw
  refine ⟨_, run_queueDrainExpire hq hlive h3 hopen, ?_⟩
  rw [withdrawStop, run_look, hslot]
  dsimp only
  rw [if_neg fun h => htile h.2]
  exact ⟨hempty, hat.state, hat.kept⟩

/-! ### Granule boundaries (R169, R238) -/

/-- The stored words of a register, and the identity that its reset word depends on. -/
def State.wordsOf (q : Reg) (s : State) : Ident × List (Option Nat) :=
  (s.ident, (q.words 0 0).map fun a => keyGet s.regs a)

section wordsOf
variable {r : Reg}

theorem wordsOf_get (h : t.wordsOf r = s.wordsOf r) :
    t.ident = s.ident ∧ ∀ a ∈ r.words 0 0, keyGet t.regs a = keyGet s.regs a :=
  ⟨congrArg Prod.fst h, List.map_inj_left.mp (congrArg Prod.snd h)⟩

theorem rd_of_wordsOf (h : t.wordsOf r = s.wordsOf r) : t.rd r = s.rd r :=
  rd_congr_words (wordsOf_get h).1 (wordsOf_get h).2

theorem pairOk_of_wordsOf (h : t.wordsOf r = s.wordsOf r) : t.pairOk r 0 0 = s.pairOk r 0 0 := by
  obtain ⟨hi, hw⟩ := wordsOf_get h
  unfold Reg.words at hw
  cases hr : r.rwp
  · simp [State.pairOk, hr]
  · simp only [hr, if_true, List.mem_cons, List.not_mem_nil, or_false, forall_eq_or_imp,
      forall_eq] at hw
    simp [State.pairOk, State.rawReg, State.rawComp, hi, hw]

theorem setReg_wordsOf {q : Reg} (h : ∀ a ∈ r.words 0 0, a ∉ q.words 0 0) (v : Nat) :
    (setReg q v).Keeps (State.wordsOf r) := fun s =>
  Prod.ext (run_ident s _) (List.map_inj_left.mpr fun a ha => keyGet_setReg_other (h a ha))

theorem setF_wordsOf {f : Field} (h : ∀ a ∈ r.words 0 0, a ∉ f.reg.words 0 0) (v : Nat) :
    (setF f v).Keeps (State.wordsOf r) := keeps_look fun _ => setReg_wordsOf h _

theorem bump_wordsOf {f : Field} (h : ∀ a ∈ r.words 0 0, a ∉ f.reg.words 0 0) (v : Nat) :
    (bump f v).Keeps (State.wordsOf r) := keeps_look fun _ => setF_wordsOf h _

theorem keepMax_wordsOf {f : Field} (h : ∀ a ∈ r.words 0 0, a ∉ f.reg.words 0 0) (v : Nat) :
    (keepMax f v).Keeps (State.wordsOf r) := keeps_look fun _ => setF_wordsOf h _

end wordsOf

theorem fld_le_keepMax {f : Field} (hf : f.fits = true) (v : Nat) :
    s.fld f ≤ ((keepMax f v).run s).fld f := by
  have hle : max (s.fld f) (min v f.max) ≤ f.max :=
    max_le (fld_le_max s f 0 0) (min_le_right _ _)
  have hlt : f.max < 2 ^ f.width := Nat.sub_lt (Nat.two_pow_pos _) Nat.one_pos
  rw [keepMax, run_look, fld_setF_self s f hf, Nat.mod_eq_of_lt (hle.trans_lt hlt)]
  exact le_max_left _ _

section boundary
variable {c ticks : Nat} {g : GranuleSeen}

/-- What a granule boundary records before the core gives way. -/
def boundaryRecord (n ticks : Nat) : Prog :=
  .seq (tileCorrected n) (keepMax F.WRD_GRAN_MAX_TICKS ticks)

theorem boundaryRecord_within (n ticks : Nat) :
    (boundaryRecord n ticks).Within [.regs 0x20, .regs 0x05] :=
  within_seq (within_when (within_seq (within_setF rfl (by decide +kernel))
    (within_bump rfl (by decide +kernel)))) (within_keepMax rfl (by decide +kernel))

theorem boundaryRecord_wordsOf {r : Reg} (hr : r = R.TILE_SAVE_BASE ∨ r = R.TILE_PREEMPT_COUNT)
    (n ticks : Nat) : (boundaryRecord n ticks).Keeps (State.wordsOf r) := by
  have h : (∀ a ∈ r.words 0 0, a ∉ R.TILE_EVENT.words 0 0)
      ∧ (∀ a ∈ r.words 0 0, a ∉ R.TILE_ERR_COUNT.words 0 0)
      ∧ (∀ a ∈ r.words 0 0, a ∉ R.WRD_GRAN_MAX.words 0 0) := by
    rcases hr with rfl | rfl <;> decide
  obtain ⟨h1, h2, h3⟩ := h
  exact keeps_seq (keeps_when fun _ => keeps_seq (setF_wordsOf h1 _) (bump_wordsOf h2 _))
    (keepMax_wordsOf h3 _)

theorem run_granuleBoundary (hc : c < 16) (hlive : s.live = true)
    (hserve : (s.openStops.any fun o => o.units.contains (unitTile c)) = true) :
    exec (.granuleBoundary c g ticks) s = .next ((granuleYield c g.granule g.draw g.ns).run
      ((boundaryRecord g.corrected ticks).run s)) :=
  outcome_when ⟨hc, hlive, hserve⟩ _ _

theorem serves_of_find {p : OpenStop → Bool}
    (h : s.openStops.find? (fun o => o.units.contains (unitTile c) && p o) = some o) :
    (s.openStops.any fun o => o.units.contains (unitTile c)) = true := by
  have hp := List.find?_some h
  rw [Bool.and_eq_true] at hp
  exact List.any_eq_true.mpr ⟨o, List.mem_of_find?_eq_some h, hp.1⟩

theorem openStops_of_wrd (h : t.wrd = s.wrd) : t.openStops = s.openStops := by
  rw [State.openStops, h, State.openStops]

theorem failStop_slotEmpty (i code : Nat) (s : State) : ((failStop i code).run s).slotEmpty i := by
  rw [failStop, run_look]
  split
  · assumption
  · rw [run_all_cons, run_all_cons, run_all_cons, run_all_cons, run_all_cons, run_all_cons,
      run_all_cons, run_all_cons, run_all_cons, run_all_cons, run_all_nil]
    refine afterStop_slotEmpty _ _ <| preserves_when ?_ _ <| preserves_when ?_ _ <|
      (slotEmpty_lasting i).shadow _ _ (setSlot_none_slotEmpty _)
    · exact preserves_look fun _ => preserves_when (modQueue_slotEmpty _ _)
    · exact modQueue_slotEmpty _ _

theorem boundary_ends_withdrawn (hc : c < 16) (hlive : s.live = true)
    (hfind : s.openStops.find? (fun o => o.units.contains (unitTile c)
      && (o.preempt.contains (unitTile c) || o.withdraw.isSome)) = some o) {k : Nat}
    (hw : o.withdraw = some k) (hunits : o.units = [unitTile c]) :
    ∃ t, exec (.granuleBoundary c g ticks) s = .next t ∧ t.slotOf o.slot = none := by
  refine ⟨_, run_granuleBoundary hc hlive (serves_of_find hfind), ?_⟩
  rw [granuleYield]
  dsimp only
  rw [run_look, openStops_of_wrd (boundaryRecord_within _ _ s .wrd rfl), hfind]
  dsimp only
  rw [hw]
  dsimp only
  rw [if_pos hunits]
  exact failStop_slotEmpty _ _ _

/-- A core's context that is saved leaves the registers, where its base's pair agrees and no word
of memory is in error. -/
theorem saveContext_rd {r : Reg} (hok : s.pairOk R.TILE_SAVE_BASE 0 0 = true) (he : s.errFree)
    (hr : r.oneSlot = true) (granule draw : Nat) :
    ((saveContext c granule draw o).run s).rd r = s.rd r := by
  rw [saveContext, run_seq, run_usePair_of_pairOk hok, run_look, run_all_cons, run_all_cons,
    run_all_cons, run_all_nil, memWrite_errFree he]
  exact rd_of_within (within_paStore (partsLe_refl _)) hr rfl s 0 0

/-- What a boundary at which its core gives way records leaves the event and the count, whatever
state the core's context was saved in. -/
theorem preempt_counted (ns : Nat) {v : State}
    (hv : v.rd R.TILE_PREEMPT_COUNT = s.rd R.TILE_PREEMPT_COUNT) :
    let t := (Prog.each (upTo 64) regainCores).run ((keepMax F.TILE_PREEMPT_MAX_NS ns).run
      ((bump F.TILE_PREEMPT_COUNT_COUNT).run ((setF F.TILE_EVENT_PREEMPT 1).run v)))
    t.fld F.TILE_EVENT_PREEMPT = 1 ∧ t.fld F.TILE_PREEMPT_COUNT_COUNT
      = min F.TILE_PREEMPT_COUNT_COUNT.max (s.fld F.TILE_PREEMPT_COUNT_COUNT + 1) := by
  have hregain : ∀ (f : Field) (w : State), f.reg.oneSlot = true →
      ((Prog.each (upTo 64) regainCores).run w).fld f = w.fld f := fun f w hf =>
    fld_congr (rd_of_within (within_each fun _ => within_regainCores (partsLe_refl _)) hf rfl w 0 0)
  have hmax : ∀ r : Reg, (∀ a ∈ r.words 0 0, a ∉ R.TILE_PREEMPT_MAX.words 0 0) → ∀ w : State,
      ((keepMax F.TILE_PREEMPT_MAX_NS ns).run w).rd r = w.rd r := fun r hr w =>
    rd_of_wordsOf (keepMax_wordsOf (f := F.TILE_PREEMPT_MAX_NS) hr ns w)
  have hbump : ∀ w : State, ((bump F.TILE_PREEMPT_COUNT_COUNT).run w).rd R.TILE_EVENT
      = w.rd R.TILE_EVENT := fun w =>
    rd_of_wordsOf (bump_wordsOf (f := F.TILE_PREEMPT_COUNT_COUNT) (by decide) 1 w)
  have hset : ∀ w : State, ((setF F.TILE_EVENT_PREEMPT 1).run w).rd R.TILE_PREEMPT_COUNT
      = w.rd R.TILE_PREEMPT_COUNT := fun w =>
    rd_of_wordsOf (setF_wordsOf (f := F.TILE_EVENT_PREEMPT) (by decide) 1 w)
  dsimp only
  rw [hregain F.TILE_EVENT_PREEMPT _ rfl, hregain F.TILE_PREEMPT_COUNT_COUNT _ rfl,
    fld_congr (f := F.TILE_EVENT_PREEMPT) (hmax R.TILE_EVENT (by decide) _),
    fld_congr (f := F.TILE_PREEMPT_COUNT_COUNT) (hmax R.TILE_PREEMPT_COUNT (by decide) _),
    fld_congr (f := F.TILE_EVENT_PREEMPT) (hbump _), fld_setF_self _ F.TILE_EVENT_PREEMPT rfl,
    fld_bump_self _ F.TILE_PREEMPT_COUNT_COUNT rfl,
    fld_congr (f := F.TILE_PREEMPT_COUNT_COUNT) (hset _),
    fld_congr (f := F.TILE_PREEMPT_COUNT_COUNT) hv]
  exact ⟨Nat.mod_eq_of_lt (by decide), rfl⟩

theorem boundary_preempts (hc : c < 16) (hlive : s.live = true) (he : s.errFree)
    (hfind : s.openStops.find? (fun o => o.units.contains (unitTile c)
      && (o.preempt.contains (unitTile c) || o.withdraw.isSome)) = some o)
    (hw : o.withdraw = none) (hok : s.pairOk R.TILE_SAVE_BASE 0 0 = true) :
    ∃ t, exec (.granuleBoundary c g ticks) s = .next t ∧ t.fld F.TILE_EVENT_PREEMPT = 1
      ∧ t.fld F.TILE_PREEMPT_COUNT_COUNT
        = min F.TILE_PREEMPT_COUNT_COUNT.max (s.fld F.TILE_PREEMPT_COUNT_COUNT + 1) := by
  refine ⟨_, run_granuleBoundary hc hlive (serves_of_find hfind), ?_⟩
  have hrecord := boundaryRecord_within g.corrected ticks
  have hopen := openStops_of_wrd (hrecord s .wrd rfl)
  have hpair := (pairOk_of_wordsOf (boundaryRecord_wordsOf (.inl rfl) g.corrected ticks s)).trans hok
  have hcount := rd_of_wordsOf (boundaryRecord_wordsOf (.inr rfl) g.corrected ticks s)
  have hfree : ((boundaryRecord g.corrected ticks).run s).errFree := by
    rw [State.errFree, hrecord s .ave rfl]
    exact he
  generalize (boundaryRecord g.corrected ticks).run s = u at hopen hpair hcount hfree ⊢
  rw [granuleYield]
  dsimp only
  rw [run_look, hopen, hfind]
  dsimp only
  rw [hw]
  dsimp only
  rw [run_all_cons, run_all_cons, run_all_cons, run_all_cons, run_all_cons, run_all_cons,
    run_all_cons, run_all_nil]
  obtain ⟨v, hv⟩ : ∃ v, (modSlot o.slot fun x => { x with yielded := x.yielded + 1 }).run
      ((leaveSlot c o.slot).run ((saveContext c g.granule g.draw o).run u)) = v := ⟨_, rfl⟩
  have hvcount : v.rd R.TILE_PREEMPT_COUNT = s.rd R.TILE_PREEMPT_COUNT := by
    rw [← hv, rd_of_within (within_modSlot (partsLe_refl _)) rfl rfl _ 0 0,
      rd_of_within (within_leaveSlot (partsLe_refl _)) rfl rfl _ 0 0,
      saveContext_rd hpair hfree rfl, hcount]
  rw [hv]
  exact preempt_counted g.ns hvcount

theorem boundary_records (hc : c < 16) (hlive : s.live = true) (hg : g.corrected = 0)
    (hserve : ∃ o ∈ s.openStops, unitTile c ∈ o.units)
    (hnone : ∀ o ∈ s.openStops, unitTile c ∈ o.units → o.preempt = [] ∧ o.withdraw = none) :
    ∃ t, exec (.granuleBoundary c g ticks) s = .next t
      ∧ s.fld F.WRD_GRAN_MAX_TICKS ≤ t.fld F.WRD_GRAN_MAX_TICKS ∧ s.onlyChanges [.regs 0x05] t := by
  obtain ⟨o, ho, hu⟩ := hserve
  refine ⟨_, run_granuleBoundary hc hlive
    (List.any_eq_true.mpr ⟨o, ho, List.contains_iff_mem.mpr hu⟩), ?_⟩
  have hfind : s.openStops.find? (fun o => o.units.contains (unitTile c)
      && (o.preempt.contains (unitTile c) || o.withdraw.isSome)) = none := by
    refine List.find?_eq_none.mpr fun o ho h => ?_
    rw [Bool.and_eq_true, List.contains_iff_mem] at h
    obtain ⟨hp, hw⟩ := hnone o ho h.1
    rw [hp, hw] at h
    exact absurd h.2 Bool.false_ne_true
  rw [granuleYield]
  dsimp only
  rw [run_look, openStops_of_wrd (boundaryRecord_within _ _ s .wrd rfl), hfind]
  dsimp only
  rw [run_skip, boundaryRecord, run_seq, tileCorrected, run_when_neg (by simp [hg]), run_skip]
  exact ⟨fld_le_keepMax rfl ticks,
    onlyChanges_of_within (within_keepMax rfl (by decide +kernel)) s⟩

end boundary

/-- Settles O27: HALT, RESUME, the end of the drain, and granule boundaries. -/
theorem haltResumeAndPreemption : Obligations.HaltResumeAndPreemption :=
  ⟨fun _ _ hq hlive hlen hdue _ h1 => queueHalt_closes hq hlive hlen hdue h1,
    fun _ _ hq hlive hlen => ⟨queueResume_draining hq hlive hlen, queueResume_halted hq hlive hlen⟩,
    fun _ _ _ hq hlive hlen hdue h3 hopen hslot hw =>
      ⟨drain_withdraws hq hlive hlen hdue h3 hopen hslot hw,
        fun _ hu hlo hhi hst => drain_marks hq hlive h3 hopen hslot hw hu hlo hhi hst⟩,
    fun _ _ _ _ _ hc hlive hp hd _ hfind =>
      ⟨fun hw hok => boundary_preempts hc hlive ⟨hp, hd⟩ hfind hw hok,
        fun _ hw hunits => boundary_ends_withdrawn hc hlive hfind hw hunits⟩,
    fun _ _ _ _ hc hlive hg hserve hnone => boundary_records hc hlive hg hserve hnone⟩

end Sys2Proof.Machine
end

section
/-! PROOFS. How a queue fetches, checks and translates its stops (chapters 04 and 05, R143, R146,
R160): O22. -/

set_option Elab.async false

namespace Sys2Proof.Machine

variable {s t : State} {q : Nat}

/-! ### Writes of the device's own engines -/

/-- Parts that a direct write of an engine changes where no word of memory is in error. -/
def engineParts : List Part :=
  [.mem .plaza, .mem .lpddr, .mem .retA, .mem .retB, .regs 3, .regs 0x90, .ring, .lamp, .rcl, .ave]

/-- Such a write is refused for a region lock or an unmapped address, or stores its bytes. -/
theorem engineWrite_cases (he : s.errFree) (pa : Nat) (bs : List Byte) (fail : Prog) :
    (engineWrite pa bs fail).run s = (Prog.seq (regionConflict pa) fail).run s
      ∨ (engineWrite pa bs fail).run s = (Prog.seq (unmappedAccess pa) fail).run s
      ∨ (engineWrite pa bs fail).run s = (paStore pa bs).run s := by
  rw [engineWrite, engineAccess, run_look]
  split
  · exact .inl rfl
  · split
    · exact .inr (.inl rfl)
    · refine .inr (.inr ?_)
      rw [run_look, run_seq, rmwErrs_errFree he, run_when_neg (fun h => h rfl), run_skip,
        memWrite_errFree he]

theorem engineWrite_errFree (he : s.errFree) (pa : Nat) (bs : List Byte) :
    ∃ p : Prog, p.Within engineParts ∧ (engineWrite pa bs).run s = p.run s := by
  rcases engineWrite_cases he pa bs .skip with h | h | h
  · exact ⟨_, within_seq (within_regionConflict (by decide +kernel)) within_skip, h⟩
  · exact ⟨_, within_seq (within_unmappedAccess (by decide +kernel)) within_skip, h⟩
  · exact ⟨_, within_paStore (by decide +kernel), h⟩

theorem placeRunList_errFree (he : s.errFree) (l : Option RunList) :
    ∃ p : Prog, p.Within (.xlt :: engineParts) ∧ (placeRunList l).run s = p.run s := by
  unfold placeRunList
  split
  · exact ⟨.skip, within_skip, rfl⟩
  · next l =>
    rw [run_look, run_seq]
    obtain ⟨p, hp, heq⟩ := engineWrite_errFree
      (s := (modXlt fun x => { x with allocs := (l.poolAt, l.poolUnits) :: x.allocs }).run s) he
      (65536 * s.fld F.XLT_POOL_BASE_BASE_64K + 64 * l.poolAt) l.bytes
    exact ⟨_, within_seq (within_modXlt (by decide +kernel))
      (hp.mono (by decide +kernel)), heq⟩

theorem placeRunList_waiting (he : s.errFree) (l : Option RunList) :
    ((placeRunList l).run s).xlt.waiting = s.xlt.waiting := by
  unfold placeRunList
  split
  · rfl
  · next l =>
    rw [run_look, run_seq]
    obtain ⟨p, hp, heq⟩ := engineWrite_errFree
      (s := (modXlt fun x => { x with allocs := (l.poolAt, l.poolUnits) :: x.allocs }).run s) he
      (65536 * s.fld F.XLT_POOL_BASE_BASE_64K + 64 * l.poolAt) l.bytes
    rw [heq, hp _ .xlt rfl]
    rfl

theorem placeRunList_lasting {P : State → Prop} (h : Lasting P) (he : s.errFree)
    (l : Option RunList) (hs : P s) : P ((placeRunList l).run s) := by
  obtain ⟨p, hp, heq⟩ := placeRunList_errFree he l
  rw [heq]
  exact h.away hp rfl rfl rfl s hs

/-! ### The fetch of the next stop -/

/-- Queue `q` of a full queue table holds `n` undispatched stops and goes on at `next` of `iter`. -/
structure FetchAt (q n next iter : Nat) (s : State) : Prop where
  count : s.wrd.queues.length = 16
  held : (s.queue q).enq.length = n
  next : (s.queue q).next = next
  iter : (s.queue q).iter = iter

theorem fetchAt_lasting (q n next iter : Nat) : Lasting (FetchAt q n next iter) where
  away := fun hp hw _ _ s h => by
    have hwrd : (Prog.run _ s).wrd = s.wrd := hp s .wrd hw
    have hq : (Prog.run _ s).queue q = s.queue q := congrArg (fun x : Wrd => nth (Queue.reset q) x.queues q) hwrd
    exact ⟨hwrd ▸ h.count, hq ▸ h.held, hq ▸ h.next, hq ▸ h.iter⟩
  link := fun _ _ _ h => ⟨h.1, h.2, h.3, h.4⟩
  slot := fun _ _ _ _ h => ⟨h.1, h.2, h.3, h.4⟩
  waits := fun s h => by
    refine ⟨(List.length_map _).trans h.1, ?_, ?_, ?_⟩ <;> rw [queue_notifyWardens]
    · exact (List.length_map _).trans h.2
    · exact h.3
    · exact h.4
  shadow := fun _ _ h => ⟨h.1, h.2, h.3, h.4⟩

theorem not_mem_leavePool : q ∉ ((leavePool q).run s).xlt.waiting := fun h => by
  have := (List.mem_filter.mp h).2
  simp at this

theorem readEntries_errFree (he : s.errFree) (l : List Nat) :
    (Prog.each l fun a => readEffects a 8).run s = s := by
  induction l with
  | nil => rfl
  | cons a l ih => rw [run_each_cons, readEffects_errFree he, ih]

theorem fetchReads_errFree (he : s.errFree) (f : Fetched) : (fetchReads f).run s = s := by
  rw [fetchReads, run_look, run_all_cons, run_all_cons, run_all_cons, run_all_nil,
    readEffects_errFree he]
  unfold Prog.when
  split <;> split <;> simp only [run_skip, readEffects_errFree he, readEntries_errFree he]

theorem fetchStop_queue (s : State) (q pos iter : Nat) : (s.fetchStop q pos iter).stop.queue = q := by
  unfold State.fetchStop
  dsimp only
  split
  · rfl
  · split
    · rfl
    · split <;> rfl

section enqueue
variable {pos iter : Nat}

/-- A running queue with room, an alive warden and a stop to fetch goes on with the fetched stop. -/
theorem run_enqueueNext (h1 : (s.queue q).state = 1) (hclosed : s.wrd.closed = false)
    (hok : s.wardenOk (s.queue q).owner = true) (hroom : (s.queue q).enq.length < 8)
    (hnext : (s.queue q).nextStop = some (pos, iter)) (he : s.errFree) :
    (enqueueNext q).run s = (match (s.fetchStop q pos iter).bad with
      | some line => .seq (leavePool q) (badStop (s.fetchStop q pos iter).stop line)
      | none => match s.attach (s.fetchStop q pos iter).stop with
        | .wait => waitForPool q
        | .fail status p => Prog.all [p, leavePool q,
            modQueue q fun y => { y with next := pos + 1, iter := iter },
            failUndispatched (s.fetchStop q pos iter).stop status]
        | .ok l => Prog.all [
            modQueue q fun y => { y with next := pos + 1, iter := iter },
            placeRunList l,
            leavePool q,
            accessWaits (s.fetchStop q pos iter).stop,
            .look fun t => modQueue q fun y => { y with
              enq := y.enq ++ [t.updateWaits { (s.fetchStop q pos iter).stop with runs := l }] },
            updateShadow q] : Prog).run s := by
  rw [enqueueNext, run_look]
  dsimp only
  rw [if_neg (by rw [h1, hclosed, hok]; simp; omega), hnext]
  dsimp only
  rw [run_seq, fetchReads_errFree he] <;> rfl

theorem enqueueNext_takes (hlen : s.wrd.queues.length = 16) (hq : q < 16)
    (h1 : (s.queue q).state = 1) (hclosed : s.wrd.closed = false)
    (hok : s.wardenOk (s.queue q).owner = true) (hroom : (s.queue q).enq.length < 8)
    (hnext : (s.queue q).nextStop = some (pos, iter)) (he : s.errFree)
    (hgood : (s.fetchStop q pos iter).bad = none) {l : Option RunList}
    (hl : s.attach (s.fetchStop q pos iter).stop = .ok l) :
    FetchAt q ((s.queue q).enq.length + 1) (pos + 1) iter ((enqueueNext q).run s)
      ∧ q ∉ ((enqueueNext q).run s).xlt.waiting := by
  rw [run_enqueueNext h1 hclosed hok hroom hnext he, hgood]
  dsimp only
  rw [hl]
  dsimp only
  rw [run_all_cons, run_all_cons, run_all_cons, run_all_cons, run_all_cons, run_all_cons,
    run_all_nil]
  have hadvance : FetchAt q (s.queue q).enq.length (pos + 1) iter
      ((modQueue q fun y => { y with next := pos + 1, iter := iter }).run s) := by
    have hqueue := queue_modQueue_self (s := s) (lt_queueCount hlen hq)
      fun y => { y with next := pos + 1, iter := iter }
    constructor
    · exact (length_upd ..).trans hlen
    all_goals rw [hqueue]
  have hplaced := placeRunList_lasting (s := (modQueue q _).run s) (fetchAt_lasting ..) he l hadvance
  generalize (placeRunList l).run _ = u at hplaced
  have hleft : FetchAt q (s.queue q).enq.length (pos + 1) iter ((leavePool q).run u) :=
    ⟨hplaced.1, hplaced.2, hplaced.3, hplaced.4⟩
  have hout : q ∉ ((leavePool q).run u).xlt.waiting := not_mem_leavePool
  generalize (leavePool q).run u = v at hleft hout
  have hchecked := accessWaits_lasting (fetchAt_lasting ..) (s.fetchStop q pos iter).stop v hleft
  have hkept := (within_accessWaits (partsLe_refl _) (a := (s.fetchStop q pos iter).stop)) v .xlt rfl
  generalize (accessWaits (s.fetchStop q pos iter).stop).run v = w at hchecked hkept
  obtain ⟨hcount, hheld, hnext', hiter⟩ := hchecked
  rw [run_look]
  have hqueue := queue_modQueue_self (s := w) (lt_queueCount hcount hq)
    fun y => { y with enq := y.enq ++ [w.updateWaits { (s.fetchStop q pos iter).stop with runs := l }] }
  refine ⟨(fetchAt_lasting ..).shadow q _ ⟨(length_upd ..).trans hcount, ?_, ?_, ?_⟩, ?_⟩
  · rw [hqueue, List.length_append, hheld]
    rfl
  · rw [hqueue]
    exact hnext'
  · rw [hqueue]
    exact hiter
  · exact fun h => hout (by rw [← hkept]; exact h)

/-! ### A stop that fails its checks -/

/-- A queue whose record says that a stop of it was bad and which does not run. -/
def State.badHalted (q : Nat) (s : State) : Prop := (s.queue q).badStop = true ∧ (s.queue q).state ≠ 1

theorem haltQueue_stops (hlen : s.wrd.queues.length = 16) (hq : q < 16) :
    (((haltQueue q).run s).queue q).state ≠ 1 := by
  rw [haltQueue, run_look]
  by_cases h1 : (s.queue q).state = 1
  · rw [run_when_pos h1, queue_modQueue_self (lt_queueCount hlen hq)]
    dsimp only
    split <;> decide
  · rwa [run_when_neg h1, run_skip]

theorem haltQueue_count (hlen : s.wrd.queues.length = 16) :
    ((haltQueue q).run s).wrd.queues.length = 16 := by
  rw [haltQueue, run_look]
  by_cases h1 : (s.queue q).state = 1
  · rw [run_when_pos h1]
    exact (length_upd ..).trans hlen
  · rwa [run_when_neg h1, run_skip]

theorem badStop_halts (hlen : s.wrd.queues.length = 16) {st : Stop} (hq : st.queue < 16)
    {line : Nat} (hrepair : s.canRepair line = true) :
    ((badStop st line).run s).badHalted st.queue := by
  rw [badStop, run_look, if_pos hrepair, run_all_cons, run_all_cons, run_all_cons, run_all_cons,
    run_all_cons, run_all_cons, run_all_nil]
  have hrecord : ((recordFail st.queue st.tag 4).run ((raise 0x0502 (s.queue st.queue).owner st.index
      st.queue st.tag 4).run ((setF F.WRD_EVENT_BAD_STOP 1).run s))).wrd = s.wrd := by
    rw [within_recordFail (partsLe_refl _) _ .wrd rfl, raise_within _ _ _ _ _ _ _ .wrd rfl]
    rfl
  generalize (recordFail st.queue st.tag 4).run _ = u at hrecord
  have hlen' : u.wrd.queues.length = 16 := by rwa [hrecord]
  have hstops := haltQueue_stops (s := u) hlen' hq
  have hcount := haltQueue_count (s := u) (q := st.queue) hlen'
  generalize (haltQueue st.queue).run u = v at hstops hcount
  have hqueue := queue_modQueue_self (s := v) (lt_queueCount hcount hq)
    fun q => { q with badStop := true, badSect := s.sectAt line }
  rw [State.badHalted, State.queue, within_requestRepair (partsLe_refl _) _ .wrd rfl]
  change ((State.queue _ _).badStop = true ∧ (State.queue _ _).state ≠ 1)
  rw [hqueue]
  exact ⟨rfl, hstops⟩

theorem enqueueNext_halts (hlen : s.wrd.queues.length = 16) (hq : q < 16)
    (h1 : (s.queue q).state = 1) (hclosed : s.wrd.closed = false)
    (hok : s.wardenOk (s.queue q).owner = true) (hroom : (s.queue q).enq.length < 8)
    (hnext : (s.queue q).nextStop = some (pos, iter)) (he : s.errFree) {line : Nat}
    (hbad : (s.fetchStop q pos iter).bad = some line) (hrepair : s.canRepair line = true) :
    ((enqueueNext q).run s).badHalted q := by
  rw [run_enqueueNext h1 hclosed hok hroom hnext he, hbad]
  dsimp only
  have hstq := fetchStop_queue s q pos iter
  generalize (s.fetchStop q pos iter).stop = st at hstq
  subst hstq
  exact badStop_halts (s := (leavePool st.queue).run s) hlen hq hrepair

end enqueue

/-! ### A stop translated once there is room -/

/-- Queue `q` of a full queue table holds an oldest stop with run list `l`. -/
def State.oldestRuns (q : Nat) (l : Option RunList) (s : State) : Prop :=
  ((s.queue q).enq.head?).map (fun x => x.runs) = some l

theorem oldestRuns_lasting (q : Nat) (l : Option RunList) : Lasting (State.oldestRuns q l) where
  away := fun hp hw _ _ s h => by
    rwa [State.oldestRuns, State.queue, hp s .wrd hw]
  link := fun _ _ _ h => h
  slot := fun _ _ _ _ h => h
  waits := fun s h => by
    rw [State.oldestRuns, queue_notifyWardens, List.head?_map, Option.map_map]
    exact h
  shadow := fun _ _ h => h

theorem settleInvalidations_waiting : settleInvalidations.Keeps fun s => s.xlt.waiting := by
  have haway : ∀ {p : Prog} {W : List Part}, p.Within W → coveredBy W .xlt = false →
      p.Keeps fun s => s.xlt.waiting := fun hp hx s => congrArg Xlt.waiting (hp s .xlt hx)
  refine keeps_look fun s => keeps_all_cons (fun _ => rfl) <| keeps_all_cons (keeps_each fun a => ?_) <|
    keeps_all_cons (keeps_each fun a => keeps_look fun _ => keeps_when fun _ => ?_) keeps_all_nil
  · refine keeps_look fun _ => keeps_seq (haway (within_setReg (W := [.regs 4]) rfl
      (by decide +kernel)) rfl) ?_
    split
    · exact fun _ => rfl
    · exact haway (within_setReg (W := [.regs 4]) rfl (by decide +kernel)) rfl
  · exact keeps_all_cons (haway (within_setReg (W := [.regs 4]) rfl (by decide +kernel)) rfl) <|
      keeps_all_cons (haway (within_setF (W := [.regs 4]) rfl (by decide +kernel)) rfl) <|
      keeps_all_cons (haway (within_deviceEvent (partsLe_refl _)) rfl) keeps_all_nil

theorem retranslateOldest_translates (hlen : s.wrd.queues.length = 16) {st : Stop}
    (hq : st.queue < 16) (hruns : st.runs = none)
    (he : s.errFree) {l : Option RunList} (hl : s.attach st = .ok l) :
    st.queue ∉ ((retranslateOldest st).run s).xlt.waiting
      ∧ ((retranslateOldest st).run s).oldestRuns st.queue l := by
  rw [retranslateOldest, run_seq, freeRunList, hruns]
  dsimp only
  rw [run_skip, run_look, run_seq, readEntries_errFree he, hl]
  dsimp only
  rw [run_all_cons, run_all_cons, run_all_cons, run_all_cons, run_all_cons, run_all_nil]
  have hcount := placeRunList_lasting (P := FetchAt st.queue (s.queue st.queue).enq.length _ _)
    (fetchAt_lasting ..) he l ⟨hlen, rfl, rfl, rfl⟩
  generalize (placeRunList l).run s = u at hcount
  have hqueue := queue_modQueue_self (s := u) (lt_queueCount hcount.count hq)
    fun q => { q with enq := { st with runs := l } :: q.enq.drop 1 }
  refine ⟨?_, settleInvalidations_lasting (oldestRuns_lasting ..) _ ?_⟩
  · have hkept := settleInvalidations_waiting ((updateShadow st.queue).run ((leavePool st.queue).run
      ((modQueue st.queue fun q => { q with enq := { st with runs := l } :: q.enq.drop 1 }).run u)))
    dsimp only at hkept
    rw [hkept]
    exact not_mem_leavePool
  refine (oldestRuns_lasting ..).shadow _ _ ((oldestRuns_lasting ..).away
    (within_leavePool (partsLe_refl _)) rfl rfl rfl _ ?_)
  rw [State.oldestRuns, hqueue]
  rfl

/-- Settles O22: a fetch takes, or halts on, the next stop, and room lets a waiting stop be
translated. -/
theorem queuesFetchTheirStops : Obligations.QueuesFetchTheirStops := by
  refine ⟨fun s q pos iter l hq hlen hlive h1 hclosed hok hroom hnext hp hd hgood hl => ?_,
    fun s q pos iter line hq hlen hlive h1 hclosed hok hroom hnext hp hd hbad hrepair => ?_,
    fun s q w st rest l hq hlen hlive hwait henq hstq hruns hp hd hranges hl => ?_⟩
  · obtain ⟨hat, hout⟩ := enqueueNext_takes (s := (setF F.SYS_GATE_STATUS_PXL_CLK 1).run s) hlen hq h1 hclosed hok hroom hnext ⟨hp, hd⟩ hgood hl
    exact ⟨_, outcome_when ⟨hq, hlive⟩ _ _, hat.held, hat.next, hat.iter, hout⟩
  · exact ⟨_, outcome_when ⟨hq, hlive⟩ _ _,
      enqueueNext_halts (s := (setF F.SYS_GATE_STATUS_PXL_CLK 1).run s) hlen hq h1 hclosed hok hroom hnext ⟨hp, hd⟩ hbad hrepair⟩
  · subst hstq
    refine ⟨_, outcome_when hlive _ _, ?_⟩
    rw [hwait]
    dsimp only
    rw [henq]
    dsimp only
    rw [if_pos ⟨by rw [hruns]; rfl, hranges⟩]
    exact retranslateOldest_translates hlen hq hruns ⟨hp, hd⟩ hl

end Sys2Proof.Machine
end

section
/-! PROOFS. Tracks and offers (chapter 10, R291, R292, R309): O38. -/

set_option Elab.async false

namespace Sys2Proof.Machine

variable {s t : State} {i k : Nat} {o : OpenStop}

/-! ### Registers of a block whose pairs agree -/

theorem reg_of_hit {r : Reg} {a : Nat} {x : RegHit} (h : r.hit a = some x) : x.r = r := by
  unfold Reg.hit at h
  dsimp only at h
  split_ifs at h
  all_goals exact (congrArg RegHit.r (Option.some.inj h)).symm

/-- Uses of registers of one block change nothing where the pairs of that block agree. -/
theorem run_useRegs_of_block {rs : List Reg} (h : s.badPairs [k] = [])
    (hrs : ∀ n, ∀ r ∈ blockRegs n, r ∈ rs → n = k) : (useRegs rs).run s = s := by
  have hnil : ((s.regs.filterMap fun e => if 0xF0000000 ≤ e.1 then findHit e.1 else none).filter
      fun h => rs.contains h.r && !s.pairOk h.r h.i h.j) = [] := by
    refine List.filter_eq_nil_iff.mpr fun x hx hbad => ?_
    rw [Bool.and_eq_true, List.contains_iff_mem] at hbad
    obtain ⟨e, he, hfound⟩ := List.mem_filterMap.mp hx
    split at hfound
    · next hge =>
      have hslot : slotOfAddr e.1 = k := by
        obtain ⟨r, hr, hit⟩ := List.exists_of_findSome?_eq_some hfound
        exact hrs _ r hr (reg_of_hit hit ▸ hbad.1)
      have hin : x ∈ s.badPairs [k] := List.mem_filter.mpr ⟨List.mem_filterMap.mpr ⟨e, he, by
        rw [if_pos (by simp [hslot, hge])]
        exact hfound⟩, hbad.2⟩
      rw [h] at hin
      cases hin
    · cases hfound
  rw [useRegs, run_look, hnil, run_each_nil]

theorem blockRegs_high {n : Nat} (h : 0x90 < n) : blockRegs n = [] := by
  unfold blockRegs
  repeat rw [if_neg (by omega)]

theorem trkCfg_block : ∀ n, ∀ r ∈ blockRegs n, r ∈ [R.RBT_TRK_CFG] → n = 0x40 := by
  have hlow : ∀ n < 0x91, ∀ r ∈ blockRegs n, r ∈ [R.RBT_TRK_CFG] → n = 0x40 := by decide +kernel
  intro n r hr
  by_cases hn : n < 0x91
  · exact hlow n hn r hr
  · rw [blockRegs_high (by omega)] at hr
    cases hr

theorem run_useTrkCfg (h : s.badPairs [0x40] = []) : (useRegs [R.RBT_TRK_CFG]).run s = s :=
  run_useRegs_of_block h trkCfg_block

/-! ### Commits of a track's configuration -/

theorem trkWord_lt (v : Nat) : trkWord v < 2 ^ 32 := by
  have hw : v % 2 ^ 32 &&& R.RBT_TRK_CFG.rw ≤ 0xF1F := Nat.and_le_right
  have hx := Nat.mod_lt (clampNat 2 8 (bits (v % 2 ^ 32 &&& R.RBT_TRK_CFG.rw) 11 8))
    (show 0 < 2 ^ (11 + 1 - 8) by decide)
  rw [trkWord, setBits]
  omega

theorem bitN_trkWord (v : Nat) : bitN (trkWord v) 0 = bitN v 0 := by
  rw [bitN_eq_bits, trkWord, bits_setBits_other _ _ (by decide) (by decide), ← bitN_eq_bits, bitN,
    bitN, Nat.shiftRight_zero, Nat.shiftRight_zero]
  change _ % 2 ^ 1 = v % 2 ^ 1
  rw [Nat.and_mod_two_pow, show R.RBT_TRK_CFG.rw % 2 ^ 1 = 1 from rfl, Nat.and_one_is_mod,
    Nat.mod_mod, Nat.mod_mod_of_dvd _ (by decide)]

theorem trkEnable_bit (v : Nat) : bitN (trkWord (setBits v 0 0 1)) 0 = 1 := by
  rw [bitN_trkWord, bitN_eq_bits, bits_setBits]
  rfl

theorem trkDisable_bit (v : Nat) : bitN (trkWord (setBits v 0 0 0)) 0 = 0 := by
  rw [bitN_trkWord, bitN_eq_bits, bits_setBits]
  rfl

theorem track_modTrack (hk : k < s.rbt.tracks.length) (f : Track → Track) :
    ((modTrack k f).run s).track k = f (s.track k) := by
  rw [modTrack, run_modRbt, State.track, act_rbt_rbt, nth_upd_self hk]
  rfl

theorem track_modTrack_ne {j : Nat} (h : k ≠ j) (f : Track → Track) :
    ((modTrack k f).run s).track j = s.track j := by
  rw [modTrack, run_modRbt, State.track, act_rbt_rbt, nth_upd_ne h]
  rfl

section commit
variable {n word : Nat}

theorem trkCommit_refused (hb : s.badPairs [0x40] = []) (hen : s.flag F.RBT_TRK_CFG_EN n = true)
    (hne : bits (trkWord word) 11 8 ≠ s.fld F.RBT_TRK_CFG_STANDS n) :
    (trkCommit n word).run s = { s with bus := ⟨false, 0⟩ } := by
  rw [trkCommit]
  dsimp only
  rw [run_seq, run_useTrkCfg hb, run_look, if_pos ⟨hen, hne⟩]
  rfl

theorem run_trkCommit (hb : s.badPairs [0x40] = []) (hfree : s.flag F.RBT_TRK_CFG_EN n = false
    ∨ bits (trkWord word) 11 8 = s.fld F.RBT_TRK_CFG_STANDS n) :
    (trkCommit n word).run s = (Prog.look fun s =>
      if bitN (trkWord word) 0 = 1 then
        (if (s.track n).enabled && !(s.track n).closing then .skip
         else if s.trackOk n then modTrack n fun y => { y with
           enabled := true
           closing := false
           cfg := s.rd R.RBT_TRK_CFG n
           shown := if n % 3 = 0 ∧ y.shown = none ∧ s.showedSplash (n / 3) = true
               ∧ (nth Output.reset s.sco.outs (n / 3)).splashGone = false
             then some splashCand else y.shown }
         else raise 0x4006 unitRbt)
      else modTrack n fun y => { y with closing := y.enabled }).run
      ((setReg R.RBT_TRK_CFG (trkWord word) n).run s) := by
  rw [trkCommit]
  dsimp only
  rw [run_seq, run_useTrkCfg hb, run_look, if_neg, run_seq]
  rintro ⟨hen, hne⟩
  rcases hfree with h | h
  · rw [h] at hen
    cases hen
  · exact hne h

/-- A program from a state that itself came about within the parts. -/
theorem onlyChanges_then {W : List Part} {p q : Prog} (hp : p.Within W) (hq : q.Within W)
    (s : State) : s.onlyChanges W (q.run (p.run s)) := onlyChanges_of_within (within_seq hp hq) s

theorem trkCommit_opens {v : Nat} (hn : n < s.rbt.tracks.length) (hb : s.badPairs [0x40] = [])
    (hen : s.flag F.RBT_TRK_CFG_EN n = false) (hclosed : (s.track n).enabled = false)
    (hok : ((setReg R.RBT_TRK_CFG (trkWord (setBits v 0 0 1)) n).run s).trackOk n = true) :
    let r := (trkCommit n (setBits v 0 0 1)).run s
    (r.track n).enabled = true ∧ (r.track n).closing = false
      ∧ (r.track n).cfg = trkWord (setBits v 0 0 1)
      ∧ r.rd R.RBT_TRK_CFG n = trkWord (setBits v 0 0 1) ∧ s.onlyChanges [.regs 0x40, .rbt] r := by
  have hrd := (rd_setReg_self s R.RBT_TRK_CFG (trkWord (setBits v 0 0 1)) n 0).trans
    (Nat.mod_eq_of_lt (trkWord_lt _))
  have hsame : ((setReg R.RBT_TRK_CFG (trkWord (setBits v 0 0 1)) n).run s).rbt = s.rbt :=
    setReg_rbt ..
  dsimp only
  rw [run_trkCommit hb (.inl hen), run_look, if_pos (trkEnable_bit v)]
  have htrack : ((setReg R.RBT_TRK_CFG (trkWord (setBits v 0 0 1)) n).run s).track n = s.track n :=
    congrArg (fun r : Rbt => nth Track.reset r.tracks n) hsame
  rw [htrack, hclosed, Bool.false_and, if_neg Bool.false_ne_true, if_pos hok,
    track_modTrack (hsame ▸ hn)]
  exact ⟨rfl, rfl, hrd, hrd, onlyChanges_then (within_setReg rfl (by decide +kernel))
    (within_modTrack (by decide +kernel)) s⟩

theorem trkCommit_opensNothing {v : Nat} (hb : s.badPairs [0x40] = [])
    (hen : s.flag F.RBT_TRK_CFG_EN n = false) (hclosed : (s.track n).enabled = false)
    (hok : ((setReg R.RBT_TRK_CFG (trkWord (setBits v 0 0 1)) n).run s).trackOk n = false) :
    let r := (trkCommit n (setBits v 0 0 1)).run s
    r.rbt = s.rbt ∧ s.reports r 0x4006 unitRbt := by
  have hsame : ((setReg R.RBT_TRK_CFG (trkWord (setBits v 0 0 1)) n).run s).rbt = s.rbt :=
    setReg_rbt ..
  have htrack : ((setReg R.RBT_TRK_CFG (trkWord (setBits v 0 0 1)) n).run s).track n = s.track n :=
    congrArg (fun r : Rbt => nth Track.reset r.tracks n) hsame
  dsimp only
  rw [run_trkCommit hb (.inl hen), run_look, if_pos (trkEnable_bit v), htrack, hclosed,
    Bool.false_and, if_neg Bool.false_ne_true, if_neg (by rw [hok]; exact Bool.false_ne_true)]
  exact ⟨(raise_rbt ..).trans hsame, reports_after (setReg_nextSeq ..)⟩

theorem trkCommit_closes {v : Nat} (hn : n < s.rbt.tracks.length) (hb : s.badPairs [0x40] = [])
    (hsame : bits (trkWord (setBits v 0 0 0)) 11 8 = s.fld F.RBT_TRK_CFG_STANDS n) :
    let r := (trkCommit n (setBits v 0 0 0)).run s
    r.track n = { s.track n with closing := (s.track n).enabled }
      ∧ r.rd R.RBT_TRK_CFG n = trkWord (setBits v 0 0 0)
      ∧ (∀ k, k ≠ n → r.track k = s.track k) ∧ s.onlyChanges [.regs 0x40, .rbt] r := by
  have hrd := (rd_setReg_self s R.RBT_TRK_CFG (trkWord (setBits v 0 0 0)) n 0).trans
    (Nat.mod_eq_of_lt (trkWord_lt _))
  have hrbt : ((setReg R.RBT_TRK_CFG (trkWord (setBits v 0 0 0)) n).run s).rbt = s.rbt :=
    setReg_rbt ..
  have htrack : ∀ k, ((setReg R.RBT_TRK_CFG (trkWord (setBits v 0 0 0)) n).run s).track k
      = s.track k := fun k => congrArg (fun r : Rbt => nth Track.reset r.tracks k) hrbt
  dsimp only
  rw [run_trkCommit hb (.inr hsame), run_look,
    if_neg (by rw [trkDisable_bit]; exact Nat.zero_ne_one), track_modTrack (hrbt ▸ hn), htrack]
  exact ⟨rfl, hrd, fun k hk => (track_modTrack_ne hk.symm _).trans (htrack k),
    onlyChanges_then (within_setReg rfl (by decide +kernel)) (within_modTrack (by decide +kernel)) s⟩

end commit

/-! ### The last failure of a queue (R168, R176) -/

/-- Queue `q`'s last failure is `v`, and no hand-over waits for the queues to stop. -/
def State.lastFail (q v : Nat) (s : State) : Prop :=
  s.rd R.WRD_Q_LASTFAIL q = v ∧ s.brg.fallbackDue = false

theorem lastFail_congr {q v : Nat} (hr : t.rd R.WRD_Q_LASTFAIL q = s.rd R.WRD_Q_LASTFAIL q)
    (hb : t.brg.fallbackDue = s.brg.fallbackDue) (h : s.lastFail q v) : t.lastFail q v :=
  ⟨hr.trans h.1, hb.trans h.2⟩

theorem lastFail_of_within {q v : Nat} {p : Prog} {W : List Part} (hp : p.Within W)
    (hb : coveredBy W .brg = false) (hw : coveredBy W (.regs 5) = false) :
    p.Preserves (State.lastFail q v) := fun s =>
  lastFail_congr (rd_of_within hp (by decide +kernel)
    (by rw [show regSlot R.WRD_Q_LASTFAIL.addr = 5 from by decide +kernel]; exact hw) s q 0)
    (congrArg Brg.fallbackDue (hp s .brg hb))

theorem lastFail_lasting (q v : Nat) : Lasting (State.lastFail q v) where
  away := fun hp _ hb hw => lastFail_of_within hp hb hw
  link := fun _ hf s => lastFail_congr
    (rd_of_within (within_modBrg (W := [.brg]) rfl) (by decide +kernel) (by decide +kernel) s q 0)
    (hf s.brg)
  slot := fun _ _ _ => lastFail_of_within (within_modSlot (partsLe_refl _)) rfl rfl
  waits := lastFail_of_within (within_notifyWardens (partsLe_refl _)) rfl rfl
  shadow := fun _ => lastFail_of_within (within_updateShadow (partsLe_refl _)) rfl rfl

theorem notDue_lasting : Lasting fun s => s.brg.fallbackDue = false where
  away := fun hp _ hb _ s h => (congrArg Brg.fallbackDue (hp s .brg hb)).trans h
  link := fun _ hf s h => (hf s.brg).trans h
  slot := fun _ _ _ _ h => h
  waits := fun _ h => h
  shadow := fun _ _ h => h

theorem modQueue_lastFail (q v p : Nat) (f : Queue → Queue) :
    (modQueue p f).Preserves (State.lastFail q v) :=
  lastFail_of_within (within_modQueue (partsLe_refl _)) rfl rfl
theorem fallbackStep_lastFail (q v : Nat) : fallbackStep.Preserves (State.lastFail q v) :=
  fun s h => by
    rw [fallbackStep_notDue h.2]
    exact h

theorem recordFail_lastFail (q tag : Nat) {code : Nat} (hc : code < 2 ^ 16)
    (h : s.brg.fallbackDue = false) :
    ((recordFail q tag code).run s).lastFail q (tag % 2 ^ 16 + code * 2 ^ 16) := by
  rw [recordFail, run_seq]
  refine ⟨?_, h⟩
  rw [bump, run_look, rd_setF_words (i := 0) (j := 0), rd_setReg_self, Nat.mod_eq_of_lt (by omega)]
  simp [Reg.words, Reg.at, R.WRD_Q_LASTFAIL, F.WRD_FAIL_COUNT_COUNT, R.WRD_FAIL_COUNT]
  omega

/-- A stop that fails on its own is the last failure of its queue. -/
theorem failStop_lastFail (hslot : s.slotOf i = some o) (hw : o.withdraw = none)
    (hdue : s.brg.fallbackDue = false) {code : Nat} (hc : code < 2 ^ 16) :
    ((failStop i code).run s).lastFail o.stop.queue (o.stop.tag % 2 ^ 16 + code * 2 ^ 16) := by
  have hkept := lastFail_lasting o.stop.queue (o.stop.tag % 2 ^ 16 + code * 2 ^ 16)
  have hbefore := failSignals_lasting notDue_lasting i o.stop _ <|
    releaseUnits_lasting notDue_lasting i _ <|
    notDue_lasting.away (within_poisonOutputs (a := o.stop) (partsLe_refl _)) rfl rfl rfl s hdue
  rw [failStop, run_look, hslot]
  dsimp only
  rw [hw, Option.getD_none, run_all_cons, run_all_cons, run_all_cons, run_all_cons]
  refine preserves_all_cons (freeRunList_lasting hkept o.stop) (preserves_all_cons
    (lastFail_of_within (W := [.wrd]) (within_modWrd rfl) rfl rfl) <|
    preserves_all_cons (hkept.shadow _) <| preserves_all_cons (preserves_when (modQueue_lastFail _ _ _ _)) <|
    preserves_all_cons (preserves_when
      (lastFail_of_within (within_haltQueue (partsLe_refl _)) rfl rfl)) <| preserves_all_cons
      (afterStop_lasting hkept (lastFail_of_within (within_settleQueue (partsLe_refl _)) rfl rfl) (fallbackStep_lastFail _ _))
      preserves_all_nil) _ (recordFail_lastFail _ _ hc hbefore)

/-! ### Offers -/

section offer
variable {n : Nat}

theorem registerOffer_registers (hslot : s.slotOf i = some o) (hlock : s.freeLock = some n)
    (hk : k < s.rbt.tracks.length) (stand kind cls pn : Nat) :
    let t := (registerOffer i k stand kind cls pn).run s
    t.slotOf i = some { o with done := true }
      ∧ (t.track k).pending = (s.track k).pending ++ [⟨stand, kind, cls, pn, s.time⟩] := by
  have hlocked := within_takeLock (partsLe_refl _) (a := n) (b := s.standPa k stand / 4096)
    (c := s.trkStride k / 4096) (d := 1) (e := .unit unitRbt) s
  have hwrd := hlocked .wrd rfl
  have hrbt := hlocked .rbt rfl
  dsimp only
  rw [registerOffer, run_look, hlock]
  dsimp only
  rw [run_all_cons, run_all_cons, run_all_cons, run_all_nil]
  generalize (takeLock n _ _ 1 _).run s = u at hwrd hrbt
  have htrack : u.track k = s.track k := congrArg (fun r : Rbt => nth Track.reset r.tracks k) hrbt
  have hopen : u.slotOf i = some o := (congrArg (fun w : Wrd => nth none w.slots i) hwrd).trans hslot
  refine ⟨slotOf_modSlot (by exact hopen) _, ?_⟩
  have hslots : ∀ (f : OpenStop → OpenStop) (w : State), ((modSlot i f).run w).track k = w.track k :=
    fun _ _ => rfl
  rw [hslots, track_modTrack (by rw [hrbt]; exact hk), htrack]

theorem run_offerStand {p : OfferParam} {kind pn : Nat} (hb : s.badPairs [0x40] = [])
    (hclean : s.standPoisoned p.track p.stand = false) :
    (offerStand i p kind pn).run s = (if s.offerRefused i p.track p.stand kind pn then refuseOffer i
      else registerOffer i p.track p.stand kind p.cls pn).run s := by
  rw [offerStand, run_seq, run_useTrkCfg hb, run_look, if_neg (by rw [hclean]; exact Bool.false_ne_true)]

theorem run_offer (hx : s.executing i 0x40 = some o) (ha : (offerParam o.stop.desc).action = 0) :
    exec (.offer i) s = .next
      ((offerStand i (offerParam o.stop.desc) (offerParam o.stop.desc).kind o.stop.pn).run s) := by
  rw [show exec (.offer i) s = execOffer i s from rfl, execOffer, hx]
  exact outcome_when ha _ _

theorem refuseOffer_fails (hslot : s.slotOf i = some o) (hw : o.withdraw = none)
    (hdue : s.brg.fallbackDue = false) :
    let t := (refuseOffer i).run s
    t.slotOf i = none ∧ t.rd R.WRD_Q_LASTFAIL o.stop.queue = o.stop.tag % 2 ^ 16 + 0x0D * 2 ^ 16 := by
  have hraised := within_raiseSecond (W := raiseAny) (c := 0x4001) (u := unitRbt) (d := 0) (k := 0)
    (by decide +kernel) (by decide +kernel) s
  dsimp only
  rw [refuseOffer, run_seq]
  refine ⟨failStop_slotEmpty _ _ _, (failStop_lastFail ?_ hw ?_ (by decide)).1⟩
  · rw [State.slotOf, hraised .wrd rfl]
    exact hslot
  · rw [hraised .brg rfl]
    exact hdue

end offer

/-- Settles O38: commits of a track's configuration, and offers. -/
theorem tracksAndOffers : Obligations.TracksAndOffers := by
  refine ⟨fun s n v hn hlen hb => ⟨fun hen hclosed hok => ?_, fun hen hclosed hok => ?_,
      fun hen hne => ⟨_, outcome_when hn _ _, trkCommit_refused hb hen hne⟩⟩,
    fun s n v hn hlen hb => ⟨fun hsame => ?_,
      fun hen hne => ⟨_, outcome_when hn _ _, trkCommit_refused hb hen hne⟩⟩,
    fun s i o n hx ha hk hlock hb hclean hw => ⟨fun hno => ?_, fun hyes hdue => ?_⟩⟩
  · exact ⟨_, outcome_when hn _ _, trkCommit_opens (hlen ▸ hn) hb hen hclosed hok⟩
  · exact ⟨_, outcome_when hn _ _, trkCommit_opensNothing hb hen hclosed hok⟩
  · exact ⟨_, outcome_when hn _ _, trkCommit_closes (hlen ▸ hn) hb hsame⟩
  · refine ⟨_, run_offer hx ha, ?_⟩
    rw [run_offerStand hb hclean, if_neg (by rw [hno]; exact Bool.false_ne_true)]
    exact registerOffer_registers (slotOf_of_executing hx) hlock hk ..
  · refine ⟨_, run_offer hx ha, ?_⟩
    rw [run_offerStand hb hclean, if_pos hyes]
    exact refuseOffer_fails (slotOf_of_executing hx) hw hdue

end Sys2Proof.Machine
end

section
/-! PROOFS. How a gate binds its input (chapter 10, R303 to R306): O40. -/

set_option Elab.async false

namespace Sys2Proof.Machine

variable {s t u : State} {g n : Nat}

/-! ### Registers of the roundabout that only its own operations write -/

/-- A register of the roundabout that no fault message writes. -/
structure Reg.steady (r : Reg) (i : Nat) : Prop where
  quiet : r.quiet i 0
  reset : r.reset < 2 ^ 32
  slot : regSlot r.addr = 0x40
  ctrl : r = R.RBT_CTRL ∧ i = 0 ∨ R.RBT_CTRL.at 0 0 + 8 ≤ r.at i 0
  lo : 0xF0400000 ≤ r.at i 0
  hi : r.at i 0 + 8 ≤ 0xF0410000

theorem eventWords_apart : ∀ a ∈ eventWords,
    (a < 0xF0400000 ∨ 0xF0400008 ≤ a) ∧ (a < 0xF0400038 ∨ 0xF0400044 ≤ a)
      ∧ (a < 0xF0400300 ∨ 0xF0400380 ≤ a) := by decide +kernel

theorem quiet_of_hole {r : Reg} {i lo hi : Nat} (h1 : r.oneSlot = true) (h2 : regSlot r.addr ≠ 0x90)
    (hspan : ∀ a ∈ eventWords, a < lo ∨ hi ≤ a) (hrwp : r.rwp = false) (hlo : lo ≤ r.at i 0)
    (hhi : r.at i 0 < hi) : r.quiet i 0 :=
  quiet_of_span h1 h2 hspan fun a ha => by
    simp only [Reg.words, hrwp, Bool.false_eq_true, if_false, List.mem_singleton] at ha
    omega

theorem ctrl_steady : R.RBT_CTRL.steady 0 where
  quiet := ⟨rfl, by decide, by decide +kernel⟩
  reset := by decide
  slot := by decide
  ctrl := .inl ⟨rfl, rfl⟩
  lo := by decide
  hi := by decide

theorem gateIter_at (g : Nat) : R.RBT_GATE_ITER.at g 0 = 0xF0400300 + 8 * (g % 16) := rfl

theorem gateSubst_at (g : Nat) : R.RBT_GATE_SUBST.at g 0 = 0xF0400304 + 8 * (g % 16) := rfl

theorem gateIter_steady (g : Nat) : R.RBT_GATE_ITER.steady g where
  quiet := quiet_of_hole (by decide +kernel) (by decide +kernel)
    (fun a ha => (eventWords_apart a ha).2.2) rfl (by rw [gateIter_at]; omega)
    (by rw [gateIter_at]; omega)
  reset := by decide
  slot := by decide
  ctrl := .inr (by rw [gateIter_at, show R.RBT_CTRL.at 0 0 = 0xF0400000 from rfl]; omega)
  lo := by rw [gateIter_at]; omega
  hi := by rw [gateIter_at]; omega

theorem gateSubst_steady (g : Nat) : R.RBT_GATE_SUBST.steady g where
  quiet := quiet_of_hole (by decide +kernel) (by decide +kernel)
    (fun a ha => (eventWords_apart a ha).2.2) rfl (by rw [gateSubst_at]; omega)
    (by rw [gateSubst_at]; omega)
  reset := by decide
  slot := by decide
  ctrl := .inr (by rw [gateSubst_at, show R.RBT_CTRL.at 0 0 = 0xF0400000 from rfl]; omega)
  lo := by rw [gateSubst_at]; omega
  hi := by rw [gateSubst_at]; omega

theorem gateBase_steady {r : Reg} (hr : r = R.RBT_GATE_BASE_LO ∨ r = R.RBT_GATE_BASE_HI) :
    r.steady 0 := by
  rcases hr with rfl | rfl
  all_goals exact ⟨⟨by decide, by decide, by decide +kernel⟩, by decide, by decide,
    .inr (by decide), by decide, by decide⟩

section steady
variable {r : Reg} {i : Nat} (h : r.steady i)
include h

theorem steady_of_within {p : Prog} {W : List Part} (hp : p.Within W)
    (hw : coveredBy W (.regs 0x40) = false) : p.Keeps fun s => s.rd r i := fun s =>
  rd_of_within hp h.quiet.1 (by rw [h.slot]; exact hw) s i 0

theorem usePair_steady {q : Reg} {k l : Nat} (hq : q.at k l + 8 ≤ 0xF0400000
    ∨ 0xF0410000 ≤ q.at k l) : (usePair q k l).Keeps fun s => s.rd r i :=
  usePair_keeps_rd h.quiet (fun id => resetWord_lt h.reset id _) <| .inl <| words_apart (by
    have := h.lo
    have := h.hi
    omega)

theorem useCtrl_steady : (usePair R.RBT_CTRL).Keeps fun s => s.rd r i := by
  refine usePair_keeps_rd h.quiet (fun id => resetWord_lt h.reset id _) ?_
  rcases h.ctrl with ⟨rfl, rfl⟩ | hc
  · exact .inr ⟨rfl, rfl⟩
  · exact .inl (words_apart (.inr hc))

theorem raise_steady (c u d x y st : Nat) : (raise c u d x y st).Keeps fun s => s.rd r i :=
  raise_rd_quiet h.quiet c u d x y st

theorem takeLock_steady (n base pages mode : Nat) (who : Holder) :
    (takeLock n base pages mode who).Keeps fun s => s.rd r i := by
  refine keeps_look fun _ => keeps_seq (steady_of_within h (within_modAve (W := [.ave]) rfl) rfl) ?_
  have hlease : ∀ a b c d e f, (takeLease a b c d e f).Keeps fun s => s.rd r i := fun _ _ _ _ _ _ =>
    steady_of_within h (within_takeLease (partsLe_refl _)) rfl
  cases who with
  | queue q => exact hlease _ _ _ _ _ _
  | unit u => exact keeps_seq (usePair_steady h (.inr (by decide))) (hlease _ _ _ _ _ _)
  | loader => exact hlease _ _ _ _ _ _

theorem freeLock_steady (n : Nat) : (freeLock n).Keeps fun s => s.rd r i := by
  refine keeps_all_cons (steady_of_within h (within_modAve (W := [.ave]) rfl) rfl) <|
    keeps_all_cons (steady_of_within h (within_freeLease (partsLe_refl _)) rfl) <|
    keeps_all_cons (keeps_look fun s => ?_) keeps_all_nil
  split
  · exact keeps_skip
  · exact keeps_seq (steady_of_within h (within_modAve (W := [.ave]) rfl) rfl)
      (takeLock_steady h _ _ _ _ _)

theorem checkCrossing_steady (n : Nat) : (checkCrossing n).Keeps fun s => s.rd r i := by
  have hput : ∀ c, (putCrossing n c).Keeps fun s => s.rd r i := fun _ =>
    steady_of_within h (within_putCrossing (partsLe_refl _)) rfl
  refine keeps_look fun s => keeps_when fun _ => keeps_all_cons (raise_steady h _ _ _ _ _ _) <|
    keeps_all_cons (steady_of_within h (W := [.regs 6]) (within_setF rfl (by decide +kernel)) rfl) <|
    keeps_all_cons (steady_of_within h (W := [.regs 6]) (within_setF rfl (by decide +kernel)) rfl) <|
    keeps_all_cons ?_ <|
    keeps_all_cons (steady_of_within h (within_notifyWardens (partsLe_refl _)) rfl) keeps_all_nil
  split
  · exact hput _
  · split
    · exact hput _
    · split
      · exact keeps_seq (steady_of_within h (within_freeMutexRecord (partsLe_refl _)) rfl) (hput _)
      · exact hput _

theorem exportSignal_steady (n v : Nat) (failed : Bool) :
    (exportSignal n v failed).Keeps fun s => s.rd r i := by
  have hlo := h.lo
  have hhi := h.hi
  refine keeps_seq (useRegs_keeps_rd h.quiet (fun id => resetWord_lt h.reset id _)
    fun q hq k l => .inl (words_apart (.inl ?_))) (keeps_look fun s => ?_)
  · have hat : 0xF0700020 ≤ q.at k l := by
      rw [List.mem_singleton.mp hq, Reg.at, show R.BRG_XSIG.addr = 0xF0700020 from rfl]
      omega
    omega
  · split
    · exact keeps_skip
    · exact keeps_when fun _ => steady_of_within h (W := [.brg]) (within_modBrg rfl) rfl

theorem deviceEvent_steady (n : Nat) : (deviceEvent n).Keeps fun s => s.rd r i :=
  keeps_all_cons (checkCrossing_steady h n) <|
  keeps_all_cons (steady_of_within h (W := [.xng]) (within_modXng rfl) rfl) <|
  keeps_all_cons (keeps_look fun _ => keeps_look fun _ =>
    keeps_all_cons (steady_of_within h (within_putCrossing (partsLe_refl _)) rfl) <|
    keeps_all_cons (steady_of_within h (within_notifyWardens (partsLe_refl _)) rfl) <|
    keeps_all_cons (exportSignal_steady h _ _ _) keeps_all_nil) keeps_all_nil

theorem retWrite_steady (a : Nat) (bs : List Byte) : (retWrite a bs).Keeps fun s => s.rd r i :=
  steady_of_within h (within_retWrite (partsLe_refl _)) rfl

end steady

/-! ### The decision log (R307) -/

/-- A log entry written where no word of memory is in error keeps what its writes keep. -/
theorem logEntry_keeps {α : Type} {π : State → α} (hpair : (usePair R.RBT_CTRL).Keeps π)
    (hrefused : ∀ pa, (regionConflict pa).Keeps π ∧ (unmappedAccess pa).Keeps π)
    (hraise : (raise 0x4007 unitRbt).Keeps π) (hstore : ∀ pa bs, (paStore pa bs).Keeps π)
    (hret : ∀ a bs, (retWrite a bs).Keeps π) (he : s.errFree) (kind unit choice stand n pn : Nat) :
    π ((logEntry kind unit choice stand n pn).run s) = π s := by
  have heu : ((usePair R.RBT_CTRL).run s).errFree := by
    rw [State.errFree, within_usePair (W := raiseAny) rfl (by decide +kernel) (partsLe_refl _) s .ave rfl]
    exact he
  rw [logEntry, run_seq, run_look]
  refine Eq.trans ?_ (hpair s)
  generalize (usePair R.RBT_CTRL).run s = u at heu
  by_cases hl : u.flag F.RBT_CTRL_LOG_EN = true
  · rw [run_when_pos hl, run_all_cons, run_all_cons, run_all_cons, run_all_nil, hret, hret]
    rcases engineWrite_cases heu _ _ (raise 0x4007 unitRbt) with h | h | h
    · rw [h, run_seq, hraise, (hrefused _).1]
    · rw [h, run_seq, hraise, (hrefused _).2]
    · rw [h, hstore]
  · rw [run_when_neg hl, run_skip]

/-- What a gate's log program leaves: the gates, the registers that steer them, the counter but for
`f`, and Plaza where nothing is logged. -/
structure GateLog (g : Nat) (f : Nat → Nat) (log : Prog) : Prop where
  rbt : ∀ s : State, s.errFree → (log.run s).rbt = s.rbt
  iter : ∀ s : State, s.errFree → (log.run s).rd R.RBT_GATE_ITER g = s.rd R.RBT_GATE_ITER g
  subst : ∀ s : State, s.errFree → (log.run s).fld F.RBT_GATE_SUBST_COUNT g
    = f (s.fld F.RBT_GATE_SUBST_COUNT g)
  plaza : ∀ s : State, s.errFree → s.flag F.RBT_CTRL_LOG_EN = false → (log.run s).plaza = s.plaza

theorem useCtrl_within : (usePair R.RBT_CTRL).Within raiseAny :=
  within_usePair rfl (by decide +kernel) (partsLe_refl _)

theorem flag_congr_rd {f : Field} (h : t.rd f.reg = s.rd f.reg) : t.flag f = s.flag f := by
  rw [State.flag, State.flag, State.fld, State.fld, h]

theorem logEntry_rd {r : Reg} {i : Nat} (h : r.steady i) (he : s.errFree)
    (kind unit choice stand n pn : Nat) :
    ((logEntry kind unit choice stand n pn).run s).rd r i = s.rd r i :=
  logEntry_keeps (π := fun s => s.rd r i) (useCtrl_steady h)
    (fun _ => ⟨steady_of_within h (within_regionConflict (partsLe_refl _)) rfl,
      steady_of_within h (within_unmappedAccess (partsLe_refl _)) rfl⟩)
    (raise_steady h _ _ _ _ _ _) (fun _ _ => steady_of_within h (within_paStore (partsLe_refl _)) rfl)
    (fun _ _ => steady_of_within h (within_retWrite (partsLe_refl _)) rfl) he _ _ _ _ _ _

theorem logEntry_gateLog (g kind unit choice stand n pn : Nat) :
    GateLog g id (logEntry kind unit choice stand n pn) where
  rbt := fun _ he => logEntry_keeps (π := State.rbt) (fun s => useCtrl_within s .rbt rfl)
    (fun _ => ⟨fun s => within_regionConflict (partsLe_refl _) s .rbt rfl,
      fun s => within_unmappedAccess (partsLe_refl _) s .rbt rfl⟩)
    (fun _ => raise_rbt ..) (fun _ _ s => within_paStore (partsLe_refl _) s .rbt rfl)
    (fun _ _ s => within_retWrite (partsLe_refl _) s .rbt rfl) he _ _ _ _ _ _
  iter := fun _ he => logEntry_rd (gateIter_steady g) he _ _ _ _ _ _
  subst := fun _ he => congrArg (bits · _ _) (logEntry_rd (gateSubst_steady g) he _ _ _ _ _ _)
  plaza := fun s he hl => by
    have hflag : ((usePair R.RBT_CTRL).run s).flag F.RBT_CTRL_LOG_EN = false := by
      rw [flag_congr_rd (useCtrl_steady ctrl_steady s), hl]
    rw [logEntry, run_seq, run_look, run_when_neg (by rw [hflag]; exact Bool.false_ne_true), run_skip]
    exact useCtrl_within s (.mem .plaza) rfl

theorem gateLog_skip {f : Nat → Nat} {log : Prog} (h : GateLog g f log) :
    GateLog g f (.seq log .skip) := ⟨h.rbt, h.iter, h.subst, h.plaza⟩

theorem gateIter_apart (g : Nat) : ∀ a ∈ R.RBT_GATE_ITER.words g 0, a ∉ R.RBT_GATE_SUBST.words g 0 := by
  have h1 : R.RBT_GATE_ITER.words g 0 = [R.RBT_GATE_ITER.at g 0] := rfl
  have h2 : R.RBT_GATE_SUBST.words g 0 = [R.RBT_GATE_SUBST.at g 0] := rfl
  rw [h1, h2, gateIter_at, gateSubst_at]
  intro a ha hb
  rw [List.mem_singleton] at ha hb
  omega

theorem ctrl_apart {r : Reg} {i : Nat} (h : R.RBT_CTRL.at 0 0 + 8 ≤ r.at i 0) :
    ∀ a ∈ R.RBT_CTRL.words 0 0, a ∉ r.words i 0 := words_apart (.inl h)

/-- A substitution, counted and reported. -/
def countSubst (g : Nat) : Prog :=
  .seq (bump F.RBT_GATE_SUBST_COUNT 1 g) (raiseSecond 0x4003 unitRbt)

theorem countSubst_within (g : Nat) : (countSubst g).Within raiseAny :=
  within_seq (within_bump (by decide +kernel) (by decide +kernel))
    (within_raiseSecond (by decide +kernel) (by decide +kernel))

theorem countSubst_rd {r : Reg} {i : Nat} (h : r.steady i)
    (hw : ∀ a ∈ r.words i 0, a ∉ R.RBT_GATE_SUBST.words g 0) :
    (countSubst g).Keeps fun s => s.rd r i :=
  keeps_seq (keeps_look fun _ _ => rd_setF_words hw) (raiseSecond_rd_quiet h.quiet _ _ _ _)

theorem countSubst_count (s : State) : ((countSubst g).run s).fld F.RBT_GATE_SUBST_COUNT g
    = min F.RBT_GATE_SUBST_COUNT.max (s.fld F.RBT_GATE_SUBST_COUNT g + 1) := by
  refine Eq.trans ?_ (fld_bump_self s F.RBT_GATE_SUBST_COUNT (by decide +kernel) 1 g 0)
  exact congrArg (bits · _ _) (raiseSecond_rd_quiet (gateSubst_steady g).quiet _ _ _ _ _)

theorem countSubst_errFree (he : s.errFree) : ((countSubst g).run s).errFree := by
  rw [State.errFree, countSubst_within g s .ave rfl]
  exact he

/-- The log of a substituted input counts and reports it first (R305). -/
theorem substLog_gateLog (g choice stand n pn : Nat) :
    GateLog g (fun c => min F.RBT_GATE_SUBST_COUNT.max (c + 1)) (Prog.all [
      bump F.RBT_GATE_SUBST_COUNT 1 g, raiseSecond 0x4003 unitRbt,
      logEntry 3 g choice stand n pn]) := by
  have hlog := logEntry_gateLog g 3 g choice stand n pn
  have hrun : ∀ s : State, (Prog.all [bump F.RBT_GATE_SUBST_COUNT 1 g, raiseSecond 0x4003 unitRbt,
      logEntry 3 g choice stand n pn]).run s
      = (logEntry 3 g choice stand n pn).run ((countSubst g).run s) := fun _ => rfl
  constructor
  · intro s he
    rw [hrun, hlog.rbt _ (countSubst_errFree he)]
    exact countSubst_within g s .rbt rfl
  · intro s he
    rw [hrun, hlog.iter _ (countSubst_errFree he)]
    exact countSubst_rd (gateIter_steady g) (gateIter_apart g) s
  · intro s he
    rw [hrun, hlog.subst _ (countSubst_errFree he)]
    exact countSubst_count s
  · intro s he hl
    rw [hrun, hlog.plaza _ (countSubst_errFree he)]
    · exact countSubst_within g s (.mem .plaza) rfl
    · rw [flag_congr_rd (countSubst_rd ctrl_steady (ctrl_apart (by
        rw [gateSubst_at, show R.RBT_CTRL.at 0 0 = 0xF0400000 from rfl]
        omega)) s), hl]

theorem gateLog_congr {f : Nat → Nat} {log log' : Prog} (h : GateLog g f log)
    (heq : ∀ s, log'.run s = log.run s) : GateLog g f log' :=
  ⟨fun s he => by rw [heq, h.rbt s he], fun s he => by rw [heq, h.iter s he],
    fun s he => by rw [heq, h.subst s he], fun s he hl => by rw [heq, h.plaza s he hl]⟩

/-- The log program of a source that stands in for the one waited for, and of any other. -/
theorem sourceLog_gateLog (g choice stand n pn : Nat) (subst : Bool) :
    GateLog g (fun c => if subst then min F.RBT_GATE_SUBST_COUNT.max (c + 1) else c)
      (.seq (Prog.when (subst = true) <| Prog.all [bump F.RBT_GATE_SUBST_COUNT 1 g,
        raiseSecond 0x4003 unitRbt, logEntry 3 g choice stand n pn]) .skip) := by
  cases subst with
  | false => exact ⟨fun _ _ => rfl, fun _ _ => rfl, fun _ _ => rfl, fun _ _ _ => rfl⟩
  | true =>
    refine gateLog_congr (substLog_gateLog g choice stand n pn) fun s => ?_
    rw [run_seq, run_skip, run_when_pos rfl]

/-! ### Binding (R304) -/

/-- A gate's iteration has ended with the count `p`. -/
structure GateAt (g p : Nat) (s : State) : Prop where
  count : (s.gate g).p = p
  ended : (s.gate g).started = false
  iter : s.rd R.RBT_GATE_ITER g = p

theorem gateAt_of_keeps {p : Nat} {q : Prog} (hrbt : (q.run s).rbt = s.rbt)
    (hiter : (q.run s).rd R.RBT_GATE_ITER g = s.rd R.RBT_GATE_ITER g) (h : GateAt g p s) :
    GateAt g p (q.run s) := by
  obtain ⟨h1, h2, h3⟩ := h
  have hgate : (q.run s).gate g = s.gate g := congrArg (fun r : Rbt => nth Gate.reset r.gates g) hrbt
  exact ⟨by rw [hgate, h1], by rw [hgate, h2], hiter.trans h3⟩

/-- What a bound slot takes (Table 10-4). -/
theorem length_boundBytes (p e v flags : Nat) (data : List Byte) :
    (boundBytes p e v flags data).length = 64 + data.length := by
  simp only [boundBytes, List.length_append, length_leBytes, length_zeros]

section bind
variable {e v flags : Nat} {data : List Byte} {poison : Bool} {f : Nat → Nat} {log : Prog}

theorem run_engineAccess {pa n : Nat} {write : Bool} {ok fail : Prog}
    (hfree : s.directConflict pa n write = false) (hmap : s.mapped pa n = true) :
    (engineAccess pa n write ok fail).run s = ok.run s := by
  rw [engineAccess, run_look, if_neg (by rw [hfree]; exact Bool.false_ne_true),
    if_neg (by rw [hmap]; exact Bool.noConfusion)]

/-- Iteration `p` of gate `g` ends. -/
def endIteration (g p : Nat) : Prog := .seq
  (modGate g fun y => { y with p := (y.p + 1) % 2 ^ 32, started := false })
  (setReg R.RBT_GATE_ITER (p + 1) g)

theorem endIteration_within (g p : Nat) : (endIteration g p).Within [.regs 0x40, .rbt] :=
  within_seq (within_modGate (by decide +kernel)) (within_setReg (by decide +kernel) (by decide +kernel))

theorem endIteration_gateAt {p : Nat} (hg : g < s.rbt.gates.length) (hp : (s.gate g).p = p) :
    GateAt g ((p + 1) % 2 ^ 32) ((endIteration g p).run s) := by
  have hgate : ((modGate g fun y => { y with p := (y.p + 1) % 2 ^ 32, started := false }).run s).gate g
      = { s.gate g with p := ((s.gate g).p + 1) % 2 ^ 32, started := false } := nth_upd_self hg
  have hrbt : ∀ w : State, ((setReg R.RBT_GATE_ITER (p + 1) g).run w).gate g = w.gate g := fun w =>
    congrArg (fun r : Rbt => nth Gate.reset r.gates g) (setReg_rbt ..)
  refine ⟨?_, ?_, rd_setReg_self ..⟩
  · rw [endIteration, run_seq, hrbt, hgate, hp]
  · rw [endIteration, run_seq, hrbt, hgate]

theorem endIteration_rd {r : Reg} {i : Nat} (p : Nat)
    (hw : ∀ a ∈ r.words i 0, a ∉ R.RBT_GATE_ITER.words g 0) :
    (endIteration g p).Keeps fun s => s.rd r i := fun _ => rd_setReg_words hw

theorem run_bindGate (he : s.errFree)
    (hfree : s.directConflict (s.gateSlot g) (64 + data.length) true = false)
    (hmap : s.mapped (s.gateSlot g) (64 + data.length) = true) :
    (bindGate g e v flags data poison log).run s = (deviceEvent (s.gateRec g).out).run (log.run
      ((endIteration g (s.gate g).p).run ((Prog.when (poison = true) (poisonRange (s.gateSlot g)
        (boundBytes (s.gate g).p e v flags data).length)).run
        ((paStore (s.gateSlot g) (boundBytes (s.gate g).p e v flags data)).run s)))) := by
  have hopen : (bindGate g e v flags data poison log).run s = (Prog.all [
      memWrite (s.gateSlot g) (boundBytes (s.gate g).p e v flags data),
      Prog.when (poison = true) (poisonRange (s.gateSlot g)
        (boundBytes (s.gate g).p e v flags data).length),
      modGate g fun y => { y with p := (y.p + 1) % 2 ^ 32, started := false },
      setReg R.RBT_GATE_ITER ((s.gate g).p + 1) g,
      log,
      deviceEvent (s.gateRec g).out]).run s := by
    rw [← length_boundBytes (s.gate g).p e v flags data] at hfree hmap
    exact run_engineAccess hfree hmap
  rw [hopen, run_all_cons, run_all_cons, run_all_cons, run_all_cons, run_all_cons, run_all_cons,
    run_all_nil, memWrite_errFree he, endIteration, run_seq]

theorem poisonRange_errFree (he : s.errFree) (pa n : Nat) : ((poisonRange pa n).run s).errFree := by
  rw [poisonRange, run_look]
  split <;> exact he

/-- The write of a bound slot leaves the gates and the registers that steer them. -/
theorem slotWritten (he : s.errFree) (pa n : Nat) (bs : List Byte) :
    let w := (Prog.when (poison = true) (poisonRange pa n)).run ((paStore pa bs).run s)
    w.errFree ∧ w.rbt = s.rbt ∧ w.plaza = ((paStore pa bs).run s).plaza
      ∧ ∀ (r : Reg) i, r.steady i → w.rd r i = s.rd r i := by
  have hin : (Prog.seq (paStore pa bs) (Prog.when (poison = true) (poisonRange pa n))).Within
      [.mem .plaza, .mem .lpddr, .ave] := within_seq (within_paStore (partsLe_refl _))
    (within_when (within_poisonRange (by decide +kernel)))
  have hstored : ((paStore pa bs).run s).errFree := by
    rw [State.errFree, paStore_ave he]
    exact he
  refine ⟨?_, hin s .rbt rfl,
    within_when (within_poisonRange (partsLe_refl _)) _ (.mem .plaza) rfl,
    fun r i h => steady_of_within h hin rfl s⟩
  unfold Prog.when
  split
  · exact poisonRange_errFree hstored _ _
  · exact hstored

/-- A bound slot that no region lock keeps takes its bytes, and the iteration ends. -/
theorem bindGate_binds (hg : g < s.rbt.gates.length) (he : s.errFree)
    (hfree : s.directConflict (s.gateSlot g) (64 + data.length) true = false)
    (hmap : s.mapped (s.gateSlot g) (64 + data.length) = true) (hlog : GateLog g f log) :
    let t := (bindGate g e v flags data poison log).run s
    GateAt g (((s.gate g).p + 1) % 2 ^ 32) t
      ∧ t.fld F.RBT_GATE_SUBST_COUNT g = f (s.fld F.RBT_GATE_SUBST_COUNT g)
      ∧ (s.flag F.RBT_CTRL_LOG_EN = false → t.plaza
        = ((paStore (s.gateSlot g) (boundBytes (s.gate g).p e v flags data)).run s).plaza) := by
  dsimp only
  obtain ⟨hfreeW, hrbtW, hplazaW, hrdW⟩ := slotWritten (poison := poison) he (s.gateSlot g)
    (boundBytes (s.gate g).p e v flags data).length (boundBytes (s.gate g).p e v flags data)
  rw [run_bindGate he hfree hmap]
  generalize (Prog.when (poison = true) _).run ((paStore (s.gateSlot g) _).run s) = w
    at hfreeW hrbtW hplazaW hrdW ⊢
  have hgate : w.gate g = s.gate g := congrArg (fun r : Rbt => nth Gate.reset r.gates g) hrbtW
  have hend := endIteration_gateAt (s := w) (hrbtW ▸ hg) (congrArg Gate.p hgate)
  have hsubst := (endIteration_rd (s.gate g).p (fun a ha hb => gateIter_apart g a hb ha) w).trans
    (hrdW _ _ (gateSubst_steady g))
  have hctrl := (endIteration_rd (s.gate g).p (ctrl_apart (i := g) (by
      rw [gateIter_at, show R.RBT_CTRL.at 0 0 = 0xF0400000 from rfl]
      omega)) w).trans (hrdW _ _ ctrl_steady)
  have hin := endIteration_within g (s.gate g).p w
  have hfreeX : ((endIteration g (s.gate g).p).run w).errFree := by
    rw [State.errFree, hin .ave rfl]
    exact hfreeW
  have hplazaX := hin (.mem .plaza) rfl
  generalize (endIteration g (s.gate g).p).run w = x at hend hsubst hctrl hfreeX hplazaX ⊢
  have hevent := within_deviceEvent (partsLe_refl _) (a := (s.gateRec g).out) (b := false) (log.run x)
  refine ⟨gateAt_of_keeps (hevent .rbt rfl) (deviceEvent_steady (gateIter_steady g) _ _)
    (gateAt_of_keeps (hlog.rbt x hfreeX) (hlog.iter x hfreeX) hend), ?_, fun hl => ?_⟩
  · refine (congrArg (bits · _ _) (deviceEvent_steady (gateSubst_steady g) _ _)).trans <|
      (hlog.subst x hfreeX).trans (congrArg f ?_)
    exact congrArg (bits · _ _) hsubst
  · refine (hevent (.mem .plaza) rfl).trans <| (hlog.plaza x hfreeX ?_).trans <|
      hplazaX.trans hplazaW
    rw [flag_congr_rd hctrl, hl]

end bind

/-! ### A lock on the source slot (R120, R122) -/

/-- What the addresses, and the bytes and errors behind them, are. -/
def State.world (s : State) : (Memory × Memory) × (List Nat × Nat) × List MemErr × List MemErr :=
  ((s.plaza, s.lpddr), (s.ave.failedBanks, s.ave.ddrBytes), s.ave.plazaErrs, s.ave.ddrErrs)

section world
variable (h : t.world = s.world)
include h

theorem world_parts : t.plaza = s.plaza ∧ t.lpddr = s.lpddr ∧ t.ave.failedBanks = s.ave.failedBanks
    ∧ t.ave.ddrBytes = s.ave.ddrBytes ∧ t.ave.plazaErrs = s.ave.plazaErrs
    ∧ t.ave.ddrErrs = s.ave.ddrErrs := by
  simpa [State.world, and_assoc] using h

theorem place_of_world (pa : Nat) : t.place pa = s.place pa := by
  obtain ⟨-, -, hb, hd, -, -⟩ := world_parts h
  rw [State.place, State.place, State.plazaTop, State.plazaTop, hb, hd]

theorem paBytes_of_world (pa n : Nat) : t.paBytes pa n = s.paBytes pa n := by
  obtain ⟨hp, hl, -, -, -, -⟩ := world_parts h
  refine List.map_congr_left fun i _ => ?_
  rw [State.paByte, State.paByte, place_of_world h]
  split
  · rw [State.byte, State.byte, State.mem, State.mem, hp]
  · rw [State.byte, State.byte, State.mem, State.mem, hl]
  · rfl

theorem mapped_of_world (pa n : Nat) : t.mapped pa n = s.mapped pa n := by
  rw [State.mapped, State.mapped]
  simp only [place_of_world h]

theorem errFree_of_world (he : s.errFree) : t.errFree := by
  obtain ⟨-, -, -, -, hp, hd⟩ := world_parts h
  exact ⟨hp.trans he.1, hd.trans he.2⟩

theorem paStore_mems_of_world (pa : Nat) (bs : List Byte) :
    ((paStore pa bs).run t).plaza = ((paStore pa bs).run s).plaza
      ∧ ((paStore pa bs).run t).lpddr = ((paStore pa bs).run s).lpddr := by
  obtain ⟨hp, hl, hb, hd, -, -⟩ := world_parts h
  have hplaza : ∀ (w : State) a b, ((store .plaza a b).run w).plaza
      = Memory.store (MemId.dflt .plaza) (MemId.size .plaza) w.plaza a b := fun _ _ _ => rfl
  have hlpddr : ∀ (w : State) a b, ((store .lpddr a b).run w).lpddr
      = Memory.store (MemId.dflt .lpddr) (MemId.size .lpddr) w.lpddr a b := fun _ _ _ => rfl
  rw [paStore, run_look, run_look, place_of_world h]
  split
  · refine ⟨?_, hl⟩
    change ((store .plaza _ _).run t).plaza = ((store .plaza _ _).run s).plaza
    rw [hplaza, hplaza, hp, State.plazaTop, State.plazaTop, hb]
  · refine ⟨hp, ?_⟩
    change ((store .lpddr _ _).run t).lpddr = ((store .lpddr _ _).run s).lpddr
    rw [hlpddr, hlpddr, hl, hd]
  · exact ⟨hp, hl⟩

theorem gateRec_of_world (hlo : t.rd R.RBT_GATE_BASE_LO = s.rd R.RBT_GATE_BASE_LO)
    (hhi : t.rd R.RBT_GATE_BASE_HI = s.rd R.RBT_GATE_BASE_HI) (g : Nat) :
    t.gateRec g = s.gateRec g := by
  rw [State.gateRec, State.gateRec, paBytes_of_world h, hlo, hhi]

end world

/-- The entry that the roundabout's lock takes. -/
theorem takeLock_ave (n base pages mode who : Nat) :
    ((takeLock n base pages mode (.unit who)).run s).ave
      = { s.ave with locks := upd s.ave.locks n (some ⟨base, pages, mode, .unit who, false⟩) } := by
  have hin : (Prog.seq (usePair R.RCL_CTRL) (takeLease n 1 3 who n s.unitTerm)).Within
      (.leases :: raiseAny) := within_seq
    (within_usePair rfl (by decide +kernel) (by decide +kernel)) (within_takeLease (by decide +kernel))
  exact hin _ .ave rfl

theorem takeLock_world (n base pages mode who : Nat) :
    (takeLock n base pages mode (.unit who)).Keeps State.world := fun s => by
  have hin := within_takeLock (partsLe_refl _) (a := n) (b := base) (c := pages) (d := mode)
    (e := .unit who) s
  have hp : ((takeLock n base pages mode (.unit who)).run s).plaza = s.plaza := hin (.mem .plaza) rfl
  have hl : ((takeLock n base pages mode (.unit who)).run s).lpddr = s.lpddr := hin (.mem .lpddr) rfl
  simp only [State.world, takeLock_ave, hp, hl]

section lock
variable (hlocks : s.ave.locks = List.replicate 64 none)
include hlocks

theorem lockConflict_none (who : Option Holder) (base pages : Nat) (write : Bool) :
    s.lockConflict who base pages write = false := by
  rw [State.lockConflict, hlocks, List.any_eq_false]
  intro x hx
  rw [List.eq_of_mem_replicate hx]
  exact Bool.false_ne_true

theorem directConflict_none (pa n : Nat) (write : Bool) : s.directConflict pa n write = false := by
  rw [State.directConflict, lockConflict_none hlocks, Bool.and_false]

theorem freeLock_first : s.freeLock = some 0 := by
  rw [State.freeLock, hlocks]
  rfl

/-- Where only entry 0 is taken, a read beside a STABLE lock and an access to other pages pass. -/
theorem directConflict_first {l : RegionLock} (hu : u.ave.locks = upd s.ave.locks 0 (some l))
    {pa n : Nat} {write : Bool} (h : write = false ∧ l.mode = 1 ∨ l.base + l.pages ≤ pa / 4096
      ∨ (pa + n - 1) / 4096 < l.base) : u.directConflict pa n write = false := by
  have hlocked : upd s.ave.locks 0 (some l) = some l :: List.replicate 63 none := by
    rw [hlocks]
    rfl
  rw [State.directConflict, Bool.and_eq_false_imp]
  intro hn
  have hn : n ≠ 0 := by simpa using hn
  have hle : pa / 4096 ≤ (pa + n - 1) / 4096 := Nat.div_le_div_right (by omega)
  rw [State.lockConflict, hu, hlocked, List.any_eq_false]
  intro x hx hbad
  rcases List.mem_cons.mp hx with rfl | hx
  · simp only [Bool.and_eq_true, Bool.or_eq_true, decide_eq_true_eq, beq_iff_eq] at hbad
    obtain ⟨⟨⟨-, hmode⟩, hlo⟩, hhi⟩ := hbad
    rcases h with ⟨hw, hm⟩ | h | h
    · rw [hw, hm] at hmode
      rcases hmode with h | h <;> cases h
    · omega
    · omega
  · rw [List.eq_of_mem_replicate hx] at hbad
    cases hbad

end lock

/-! ### The source of an iteration (R304 to R306) -/

theorem length_paBytes (pa n : Nat) : (s.paBytes pa n).length = n := by
  rw [State.paBytes, List.length_map, upTo, List.length_range]

/-- What a gate's binding leaves, with `bs` in its bound slot. -/
structure Bound (s : State) (g : Nat) (f : Nat → Nat) (bs : List Byte) (t : State) : Prop where
  at_ : GateAt g (((s.gate g).p + 1) % 2 ^ 32) t
  count : t.fld F.RBT_GATE_SUBST_COUNT g = f (s.fld F.RBT_GATE_SUBST_COUNT g)
  bytes : s.flag F.RBT_CTRL_LOG_EN = false
    → t.plaza = ((memWrite (s.gateSlot g) bs).run s).plaza

section source
variable {e v flags : Nat} {f : Nat → Nat} {log : Prog}

/-- A binding without a source of its own, where no region is locked. -/
theorem bindGate_bound (hb : s.bindable g) {data : List Byte} {poison : Bool}
    (hdata : data.length = (s.gateRec g).size) (hlog : GateLog g f log) :
    Bound s g f (boundBytes (s.gate g).p e v flags data)
      ((bindGate g e v flags data poison log).run s) := by
  obtain ⟨-, hg, -, -, hlocks, hp, hd, hmap⟩ := hb
  obtain ⟨hat, hcount, hbytes⟩ := bindGate_binds (e := e) (v := v) (flags := flags) (poison := poison)
    hg ⟨hp, hd⟩ (directConflict_none hlocks _ _ _) (hdata ▸ hmap) hlog
  exact ⟨hat, hcount, fun hl => by rw [memWrite_errFree ⟨hp, hd⟩, hbytes hl]⟩

/-- The roundabout's lock on the source slot. -/
def lockSource (s : State) (g v : Nat) : Prog :=
  takeLock 0 (s.gateSrc g v / 4096)
    ((s.gateSrc g v + (s.gateRec g).size - 1) / 4096 - s.gateSrc g v / 4096 + 1) 1 (.unit unitRbt)

theorem bound_afterwards {bs : List Byte} (n : Nat) (h : Bound s g f bs t) :
    Bound s g f bs ((freeLock n).run t) := by
  have hin := within_freeLock (partsLe_refl _) (a := n) t
  exact ⟨gateAt_of_keeps (hin .rbt rfl) (freeLock_steady (gateIter_steady g) n t) h.at_,
    (congrArg (bits · _ _) (freeLock_steady (gateSubst_steady g) n t)).trans h.count,
    fun hl => (hin (.mem .plaza) rfl).trans (h.bytes hl)⟩

/-- Under its lock the source is read, and the bound slot takes its bytes. -/
theorem bindLocked_bound (hb : s.bindable g) (hapart : s.sourceApart g v) {poison : State → Bool}
    (hlog : GateLog g f log) :
    Bound s g f (boundBytes (s.gate g).p e v flags (s.paBytes (s.gateSrc g v) (s.gateRec g).size))
      ((engineAccess (s.gateSrc g v) (s.gateRec g).size false
        (.seq (readEffects (s.gateSrc g v) (s.gateRec g).size) (.look fun u =>
          bindGate g e v flags (u.paBytes (s.gateSrc g v) (s.gateRec g).size) (poison u) log))
        .skip).run ((lockSource s g v).run s)) := by
  obtain ⟨-, hg, -, -, hlocks, hp, hd, hmap⟩ := hb
  obtain ⟨hsize, hsrc, hsep⟩ := hapart
  have hworld : ((lockSource s g v).run s).world = s.world := takeLock_world _ _ _ _ _ s
  have hrbt : ((lockSource s g v).run s).rbt = s.rbt := within_takeLock (partsLe_refl _) s .rbt rfl
  have hentry : ((lockSource s g v).run s).ave.locks = _ := congrArg Ave.locks (takeLock_ave ..)
  have hsteady : ∀ (r : Reg) i, r.steady i → ((lockSource s g v).run s).rd r i = s.rd r i :=
    fun r i h => takeLock_steady h _ _ _ _ _ s
  generalize (lockSource s g v).run s = u at hworld hrbt hentry hsteady
  have he : u.errFree := errFree_of_world hworld ⟨hp, hd⟩
  have hrec : u.gateRec g = s.gateRec g := gateRec_of_world hworld
    (hsteady _ _ (gateBase_steady (.inl rfl))) (hsteady _ _ (gateBase_steady (.inr rfl))) g
  have hgate : u.gate g = s.gate g := congrArg (fun r : Rbt => nth Gate.reset r.gates g) hrbt
  have hslot : u.gateSlot g = s.gateSlot g := by rw [State.gateSlot, State.gateSlot, hrec, hgate]
  rw [run_engineAccess (directConflict_first hlocks hentry (.inl ⟨rfl, rfl⟩))
    (by rw [mapped_of_world hworld, hsrc]), run_seq, readEffects_errFree he, run_look,
    paBytes_of_world hworld]
  have hlen := length_paBytes (s := s) (s.gateSrc g v) (s.gateRec g).size
  obtain ⟨hat, hcount, hbytes⟩ := bindGate_binds (s := u) (e := e) (v := v) (flags := flags)
    (data := s.paBytes (s.gateSrc g v) (s.gateRec g).size) (poison := poison u) (by rw [hrbt]; exact hg)
    he (directConflict_first hlocks hentry (.inr (by
      rw [hslot, hlen]
      dsimp only
      omega))) (by rw [mapped_of_world hworld, hslot, hlen, hmap]) hlog
  rw [hgate] at hat hbytes
  refine ⟨hat, ?_, fun hl => ?_⟩
  · exact hcount.trans (congrArg (fun x => f (bits x _ _)) (hsteady _ _ (gateSubst_steady g)))
  · have hflag : u.flag F.RBT_CTRL_LOG_EN = false :=
      (flag_congr_rd (f := F.RBT_CTRL_LOG_EN) (hsteady _ _ ctrl_steady)).trans hl
    rw [memWrite_errFree ⟨hp, hd⟩, hbytes hflag, hslot, (paStore_mems_of_world hworld _ _).1]

end source

/-! ### The commands (R303 to R306) -/

/-- Binding a source value that its gate has or takes instead (R304, R305). -/
theorem bindSource_bound {v : Nat} {subst : Bool} (hb : s.bindable g)
    (hapart : s.sourceApart g v) (hv : ¬(v = 0 ∧ subst = true)) :
    Bound s g (fun c => if subst then min F.RBT_GATE_SUBST_COUNT.max (c + 1) else c) (boundBytes (s.gate g).p ((s.gateRec g).expected (s.gate g).p) v
      (if subst then 1 else 0) (s.paBytes (s.gateSrc g v) (s.gateRec g).size))
      ((bindSource g v subst).run s) := by
  have hopen := hb
  obtain ⟨-, -, -, -, hlocks, -, -, -⟩ := hopen
  rw [bindSource, run_look]
  dsimp only
  rw [if_neg hv, run_when_pos (lockConflict_none hlocks _ _ _ _), freeLock_first hlocks]
  dsimp only
  rw [run_all_cons, run_all_cons, run_all_cons, run_all_nil]
  exact bound_afterwards 0 (bindLocked_bound hb hapart
    (poison := fun u => (u.readMark (s.gateSrc g v) (s.gateRec g).size).poison)
    (sourceLog_gateLog ..))

/-- No input has ever come: the bound slot takes zeros (R305). -/
theorem bindNothing_bound (hb : s.bindable g) :
    Bound s g (fun c => if true then min F.RBT_GATE_SUBST_COUNT.max (c + 1) else c)
      (boundBytes (s.gate g).p ((s.gateRec g).expected (s.gate g).p) 0 3 (zeros (s.gateRec g).size))
      ((bindSource g 0 true).run s) := by
  rw [bindSource, run_look]
  dsimp only
  rw [if_pos ⟨rfl, rfl⟩]
  exact bindGate_bound hb (length_zeros _) (sourceLog_gateLog g _ _ _ _ true)

/-- A free value leaves a gate bindable, and its slot where it is. -/
theorem draw_gate (k : Nat) : ((Prog.act (.draw k)).run s).gateRec g = s.gateRec g
    ∧ ((Prog.act (.draw k)).run s).gateSlot g = s.gateSlot g := by
  have hin : (Prog.act (.draw k)).Within [.free] := within_act rfl fun _ _ e => by cases e
  have hworld : ((Prog.act (.draw k)).run s).world = s.world := rfl
  have hrec := gateRec_of_world hworld (steady_of_within (gateBase_steady (.inl rfl)) hin rfl s)
    (steady_of_within (gateBase_steady (.inr rfl)) hin rfl s) g
  refine ⟨hrec, ?_⟩
  rw [State.gateSlot, State.gateSlot, hrec]
  rfl

theorem draw_bindable (k : Nat) (hb : s.bindable g) : ((Prog.act (.draw k)).run s).bindable g := by
  obtain ⟨hg, hlen, hstart, hreplay, hlocks, hp, hd, hmap⟩ := hb
  obtain ⟨hrec, hslot⟩ := draw_gate (s := s) (g := g) k
  refine ⟨hg, hlen, hstart, hreplay, hlocks, hp, hd, ?_⟩
  rw [hrec, hslot]
  exact (mapped_of_world (t := (Prog.act (.draw k)).run s) rfl _ _).trans hmap

theorem bindSnapshot_gateAt (hb : s.bindable g) :
    GateAt g (((s.gate g).p + 1) % 2 ^ 32) ((bindSnapshot g).run s) := by
  have hdrawn := draw_bindable 4 hb
  have hrec := (draw_gate (s := s) (g := g) 4).1
  rw [bindSnapshot, run_look]
  dsimp only
  rw [run_seq]
  have hgate : ((Prog.act (.draw 4)).run s).gate g = s.gate g := rfl
  rw [← hgate]
  generalize (Prog.act (.draw 4)).run s = u at hdrawn hrec ⊢
  refine (bindGate_bound hdrawn ?_ (gateLog_skip (logEntry_gateLog g 2 g 0 _ _ _))).at_
  rw [hrec, List.length_take, List.length_append, length_zeros]
  exact Nat.min_eq_left (Nat.le_add_left _ _)

/-- Settles O40: a gate's iterations start, bind and count. -/
theorem gatesBindTheirInputs : Obligations.GatesBindTheirInputs := by
  refine ⟨fun s g h1 h2 h3 h4 h5 => ⟨_, outcome_when ⟨h1, h2, h3, h4, h5⟩ _ _, rfl⟩,
    fun s g hb hk => ⟨fun hv hapart => ?_, fun hv h0 hapart => ?_, fun hv h0 => ?_⟩,
    fun s g hb hk => ?_⟩
  all_goals
    have hopen := hb
    obtain ⟨hg, -, hstart, hreplay, -, -, -, -⟩ := hopen
  · refine ⟨_, outcome_when ⟨hg, hk, hstart⟩ _ _, ?_⟩
    rw [hreplay, if_neg Bool.false_ne_true]
    dsimp only
    rw [run_when_pos hv]
    obtain ⟨⟨h1, h2, h3⟩, -, h5⟩ := bindSource_bound (subst := false) hb hapart
      fun h => Bool.false_ne_true h.2
    exact ⟨h1, h2, h3, h5⟩
  · obtain ⟨⟨h1, h2, h3⟩, h4, h5⟩ := bindSource_bound (subst := true) hb hapart fun h => h0 h.1
    exact ⟨_, outcome_when ⟨hg, hk, hstart, hreplay, hv⟩ _ _, h1, h2, h3, h5, h4⟩
  · obtain ⟨⟨h1, h2, -⟩, -, h5⟩ := bindNothing_bound hb
    refine ⟨_, outcome_when ⟨hg, hk, hstart, hreplay, hv⟩ _ _, ?_⟩
    rw [h0]
    exact ⟨h1, h2, h5⟩
  · refine ⟨_, outcome_when ⟨hg, hk, hstart⟩ _ _, ?_⟩
    rw [hreplay, if_neg Bool.false_ne_true]
    obtain ⟨h1, h2, h3⟩ := bindSnapshot_gateAt hb
    exact ⟨h1, h2, h3⟩

end Sys2Proof.Machine
end

section
/-! PROOFS. A raster pass (chapter 07, R216 to R225): O48. -/

set_option Elab.async false

namespace Sys2Proof.Machine

variable {s t u : State} {i : Nat} {o : OpenStop}

/-! ### What a pass reads -/

theorem readByte_of_world (h : t.world = s.world) (o : OpenStop) (pa : Nat) :
    t.readByte o pa = s.readByte o pa := by
  have hbyte : t.paByte pa = s.paByte pa := by
    have := paBytes_of_world h pa 1
    simpa [State.paBytes, upTo] using this
  rw [State.readByte, State.readByte, place_of_world h, hbyte]

theorem rangeByte_of_world (h : t.world = s.world) : State.rangeByte t = State.rangeByte s := by
  funext o k off
  simp only [State.rangeByte, readByte_of_world h]

section reads
variable (h : State.rangeByte t = State.rangeByte s)
include h

theorem rb_of_rangeByte : State.rb t = State.rb s := by
  funext o k off
  simp only [State.rb, h]

theorem rbs_of_rangeByte : State.rbs t = State.rbs s := by
  funext o k off n
  simp only [State.rbs, h]

theorem rn_of_rangeByte : State.rn t = State.rn s := by
  funext o k off n
  simp only [State.rn, rbs_of_rangeByte h]

theorem cmdHead_of_rangeByte : State.cmdHead t = State.cmdHead s := by
  funext o p
  simp only [State.cmdHead, rbs_of_rangeByte h]

theorem drawRec_of_rangeByte : State.drawRec t = State.drawRec s := by
  funext o p d n
  simp only [State.drawRec, rbs_of_rangeByte h]

theorem progRec_of_rangeByte : State.progRec t = State.progRec s := by
  funext o p d n
  simp only [State.progRec, rbs_of_rangeByte h, rn_of_rangeByte h]

theorem texRec_of_rangeByte : State.texRec t = State.texRec s := by
  funext o p d n
  simp only [State.texRec, rbs_of_rangeByte h]

theorem goodDraws_of_rangeByte : State.goodDraws t = State.goodDraws s := by
  funext o p d
  simp only [State.goodDraws, State.drawOk, State.progWhole, State.texWhole, State.vertexIndex,
    drawRec_of_rangeByte h, progRec_of_rangeByte h, texRec_of_rangeByte h, rn_of_rangeByte h]

theorem shadeVertex_of_rangeByte : State.shadeVertex t = State.shadeVertex s := by
  funext o p d r k
  simp only [State.shadeVertex, State.drawConsts, State.vertexLane, State.vertexIndex,
    progRec_of_rangeByte h, rbs_of_rangeByte h, rn_of_rangeByte h]

theorem drawPrims_of_rangeByte : State.drawPrims t = State.drawPrims s := by
  funext o p d n
  simp only [State.drawPrims, drawRec_of_rangeByte h, shadeVertex_of_rangeByte h]

theorem passPrims_of_rangeByte : State.passPrims t = State.passPrims s := by
  funext o p d
  simp only [State.passPrims, goodDraws_of_rangeByte h, drawPrims_of_rangeByte h]

theorem sampleTex_of_rangeByte : State.sampleTex t = State.sampleTex s := by
  funext o r a b
  simp only [State.sampleTex, State.texel, rb_of_rangeByte h, rn_of_rangeByte h]

theorem fragLane_of_rangeByte : State.fragLane t = State.fragLane s := by
  funext o p d r x y
  simp only [State.fragLane, State.drawConsts, drawRec_of_rangeByte h, progRec_of_rangeByte h,
    texRec_of_rangeByte h, sampleTex_of_rangeByte h, rbs_of_rangeByte h]

theorem pixelAfter_of_rangeByte : State.pixelAfter t = State.pixelAfter s := by
  funext o p d ts x y c
  simp only [State.pixelAfter, drawRec_of_rangeByte h, fragLane_of_rangeByte h]

theorem targetPix_of_rangeByte : State.targetPix t = State.targetPix s := by
  funext o p x y
  simp only [State.targetPix, rbs_of_rangeByte h]

theorem pixelTouched_of_rangeByte : State.pixelTouched t = State.pixelTouched s := by
  funext o p d ts x y
  simp only [State.pixelTouched, drawRec_of_rangeByte h, fragLane_of_rangeByte h]

theorem directWrites_of_rangeByte : directWrites i t = directWrites i s := by
  funext o p d ts
  rw [directWrites, directWrites, pixelTouched_of_rangeByte h, pixelAfter_of_rangeByte h,
    targetPix_of_rangeByte h]

theorem binnedBytes_of_rangeByte : State.binnedBytes t = State.binnedBytes s := by
  funext o p d l
  simp only [State.binnedBytes, pixelAfter_of_rangeByte h, targetPix_of_rangeByte h]

end reads

section lot
variable (h : t.world = s.world)
include h

theorem paNum_of_world : State.paNum t = State.paNum s := by
  funext a n
  simp only [State.paNum, paBytes_of_world h]

theorem lotChain_of_world (base fuel b : Nat) : t.lotChain base fuel b = s.lotChain base fuel b := by
  induction fuel generalizing b with
  | zero => rfl
  | succ n ih => simp only [State.lotChain, paNum_of_world h, ih]

theorem lotTiles_of_world (hl : t.rd R.RAS_LOT_BASE = s.rd R.RAS_LOT_BASE) :
    State.lotTiles t = State.lotTiles s := by
  funext p n
  have hbase : t.lotBase = s.lotBase := congrArg (fun v => 65536 * bits v _ _) hl
  simp only [State.lotTiles, State.lotPrim, State.lotVertex, hbase, paNum_of_world h,
    lotChain_of_world h]

theorem renderPass_of_world (hl : t.rd R.RAS_LOT_BASE = s.rd R.RAS_LOT_BASE)
    (hr : t.ras = s.ras) : renderPass i t o = renderPass i s o := by
  have hb := rangeByte_of_world h
  simp only [renderPass, cmdHead_of_rangeByte hb, goodDraws_of_rangeByte hb,
    passPrims_of_rangeByte hb, directWrites_of_rangeByte hb, binnedBytes_of_rangeByte hb,
    lotTiles_of_world h hl, hr]

end lot

/-! ### Writes on two states of one world -/

/-- From states with the wardens' and the Avenue's state of `s` and equal memories, a program leaves
such states again. -/
structure Prog.Alike (s : State) (p : Prog) : Prop where
  stored : p.Preserves s.stored
  world : ∀ t u : State, s.stored t → s.stored u → t.world = u.world →
    (p.run t).world = (p.run u).world

theorem world_of_within {p : Prog} {W : List Part} (hp : p.Within W)
    (h1 : coveredBy W (.mem .plaza) = false) (h2 : coveredBy W (.mem .lpddr) = false)
    (h3 : coveredBy W .ave = false) : p.Keeps State.world := fun s => by
  have hplaza : (p.run s).plaza = s.plaza := hp s (.mem .plaza) h1
  have hlpddr : (p.run s).lpddr = s.lpddr := hp s (.mem .lpddr) h2
  have hout : (p.run s).ave = s.ave := hp s .ave h3
  simp only [State.world, hplaza, hlpddr, hout]

theorem alike_skip : Prog.skip.Alike s := ⟨fun _ h => h, fun _ _ _ _ h => h⟩

theorem alike_seq {p q : Prog} (hp : p.Alike s) (hq : q.Alike s) : (Prog.seq p q).Alike s :=
  ⟨preserves_seq hp.stored hq.stored, fun t u ht hu h =>
    hq.world _ _ (hp.stored t ht) (hp.stored u hu) (hp.world t u ht hu h)⟩

theorem alike_each {α : Type} {l : List α} {f : α → Prog} (h : ∀ x, (f x).Alike s) :
    (Prog.each l f).Alike s := by
  induction l with
  | nil => exact alike_skip
  | cons x l ih => exact alike_seq (h x) ih

theorem alike_when {c : Prop} [Decidable c] {p : Prog} (h : p.Alike s) : (Prog.when c p).Alike s := by
  unfold Prog.when
  split
  · exact h
  · exact alike_skip

theorem alike_of_within {p : Prog} {W : List Part} (hp : p.Within W) (h0 : coveredBy W .wrd = false)
    (h1 : coveredBy W (.mem .plaza) = false) (h2 : coveredBy W (.mem .lpddr) = false)
    (h3 : coveredBy W .ave = false) : p.Alike s :=
  ⟨stored_of_within hp h0 h3, fun t u _ _ h =>
    (world_of_within hp h1 h2 h3 t).trans (h.trans (world_of_within hp h1 h2 h3 u).symm)⟩

section writes
variable (he : s.errFree)
include he

theorem memWrite_alike (pa : Nat) (bs : List Byte) : (memWrite pa bs).Alike s := by
  refine ⟨memWrite_stored he pa bs, fun t u ht hu h => ?_⟩
  have het := errFree_of_stored ht he
  have heu := errFree_of_stored hu he
  obtain ⟨hp, hl⟩ := paStore_mems_of_world h pa bs
  obtain ⟨-, -, h3, h4, h5, h6⟩ := world_parts h
  rw [memWrite_errFree het, memWrite_errFree heu]
  simp only [State.world, paStore_ave het, paStore_ave heu, hp, hl, h3, h4, h5, h6]

theorem run_writePiece {pa : Nat} (hpa : onChip (s.place pa) = true) (bs : List Byte)
    (ht : s.stored t) : (writePiece i pa bs).run t = (memWrite pa bs).run t := by
  have hwrite : ((Prog.seq (memWrite pa bs)
      (Prog.when (t.rmwErrs pa bs.length ≠ []) (markPoison i))).run t) = (memWrite pa bs).run t := by
    rw [run_seq, rmwErrs_errFree (errFree_of_stored ht he)]
    rfl
  rw [← place_of_ave ht.2] at hpa
  rw [writePiece, run_look]
  cases hp : t.place pa with
  | plaza a => exact hwrite
  | lpddr a => exact hwrite
  | _ => rw [hp] at hpa; cases hpa

theorem writePiece_alike {pa : Nat} (hpa : onChip (s.place pa) = true) (bs : List Byte) :
    (writePiece i pa bs).Alike s :=
  ⟨writePiece_stored he hpa bs, fun t u ht hu h => by
    rw [run_writePiece he hpa bs ht, run_writePiece he hpa bs hu]
    exact (memWrite_alike he pa bs).world t u ht hu h⟩

theorem foldPieces_alike {ps : List (Nat × Nat)} (hps : ∀ p ∈ ps, onChip (s.place p.1) = true)
    {acc : Prog × List Byte} (hacc : acc.1.Alike s) :
    (ps.foldl (fun (acc : Prog × List Byte) p =>
      (.seq acc.1 (writePiece i p.1 (acc.2.take p.2)), acc.2.drop p.2)) acc).1.Alike s := by
  induction ps generalizing acc with
  | nil => exact hacc
  | cons p ps ih =>
    exact ih (fun q hq => hps q (List.mem_cons_of_mem p hq))
      (alike_seq hacc (writePiece_alike he (hps p List.mem_cons_self) _))

theorem stopWrite_alike (hpa : ∀ k off, onChip (s.place (o.stop.pa k off)) = true) (k off : Nat)
    (bs : List Byte) : (stopWrite i o.stop k off bs).Alike s :=
  foldPieces_alike he (pieces_onChip (hpa k) _ _ _) alike_skip

theorem renderPass_alike (hpa : ∀ k off, onChip (s.place (o.stop.pa k off)) = true) :
    (renderPass i s o).Alike s := by
  unfold renderPass
  dsimp only
  split
  · exact alike_seq (alike_of_within (within_countGeometry (partsLe_refl _)) rfl rfl rfl rfl) <|
      alike_each fun _ => alike_each fun _ => alike_when (stopWrite_alike he hpa _ _ _)
  · exact stopWrite_alike he hpa _ _ _

end writes

/-! ### The count of passes -/

theorem passCount_quiet : R.RAS_PASS_COUNT.quiet 0 0 := ⟨rfl, by decide, by decide +kernel⟩

theorem countGeometry_passCount (bad guards : Nat) :
    (countGeometry o bad guards).Keeps fun s => s.rd R.RAS_PASS_COUNT := by
  have hset : ∀ (f : Field) v, (∀ a ∈ R.RAS_PASS_COUNT.words 0 0, a ∉ f.reg.words 0 0) →
      (setF f v).Keeps fun s => s.rd R.RAS_PASS_COUNT := fun _ _ h _ => rd_setF_words h
  have hbump : ∀ (f : Field) v, (∀ a ∈ R.RAS_PASS_COUNT.words 0 0, a ∉ f.reg.words 0 0) →
      (bump f v).Keeps fun s => s.rd R.RAS_PASS_COUNT := fun f _ h => keeps_look fun _ => hset f _ h
  exact keeps_seq
    (keeps_when fun _ => keeps_all_cons (hbump _ _ (by decide)) <|
      keeps_all_cons (hset _ _ (by decide)) <|
      keeps_all_cons (raiseSecond_rd_quiet passCount_quiet _ _ _ _) keeps_all_nil)
    (keeps_when fun _ => keeps_all_cons (hbump _ _ (by decide)) <|
      keeps_all_cons (hset _ _ (by decide)) <|
      keeps_all_cons (keeps_each fun _ => raise_rd_quiet passCount_quiet _ _ _ _ _ _) keeps_all_nil)

/-- What every write to a piece keeps, a stop's write keeps. -/
theorem stopWrite_preserves {P : State → Prop}
    (hpa : ∀ k off, onChip (s.place (o.stop.pa k off)) = true) (hpiece : ∀ pa bs, onChip (s.place pa) = true →
    (writePiece i pa bs).Preserves P) (k off : Nat) (bs : List Byte) :
    (stopWrite i o.stop k off bs).Preserves P := by
  have hfold : ∀ (ps : List (Nat × Nat)), (∀ p ∈ ps, onChip (s.place p.1) = true) →
      ∀ acc : Prog × List Byte, acc.1.Preserves P →
      (ps.foldl (fun (acc : Prog × List Byte) p =>
        (.seq acc.1 (writePiece i p.1 (acc.2.take p.2)), acc.2.drop p.2)) acc).1.Preserves P := by
    intro ps hps
    induction ps with
    | nil => exact fun acc h => h
    | cons p ps ih =>
      exact fun acc h => ih (fun q hq => hps q (List.mem_cons_of_mem p hq)) _
        (preserves_seq h (hpiece _ _ (hps p List.mem_cons_self)))
  exact hfold _ (pieces_onChip (hpa k) _ _ _) _ fun _ h => h

section count
variable (he : s.errFree) (hpa : ∀ k off, onChip (s.place (o.stop.pa k off)) = true)
include he hpa

theorem stopWrite_keeps_rd {r : Reg} (hr : r.oneSlot = true) (v k off : Nat) (bs : List Byte) :
    (stopWrite i o.stop k off bs).Preserves fun t => s.stored t ∧ t.rd r = v :=
  stopWrite_preserves hpa (fun pa bs hpa t h => by
    refine ⟨writePiece_stored he hpa bs t h.1, ?_⟩
    rw [run_writePiece he hpa bs h.1, memWrite_errFree (errFree_of_stored h.1 he)]
    exact (rd_of_within (within_paStore (partsLe_refl _)) hr rfl t 0 0).trans h.2) k off bs

theorem renderPass_passCount (v : Nat) (t : State) :
    (renderPass i t o).Preserves fun u => s.stored u ∧ u.rd R.RAS_PASS_COUNT = v := by
  unfold renderPass
  dsimp only
  split
  · refine preserves_seq (fun u h => ⟨stored_of_within
      (within_countGeometry (partsLe_refl _)) rfl rfl u h.1, (countGeometry_passCount _ _ u).trans h.2⟩) ?_
    exact preserves_each fun _ => preserves_each fun _ => preserves_when
      (stopWrite_keeps_rd he hpa rfl v _ _ _)
  · exact stopWrite_keeps_rd he hpa rfl v _ _ _

end count

/-! ### The lot's base, used (R230) -/

theorem useLot_within : (usePair R.RAS_LOT_BASE).Within (.regs 0x21 :: raiseAny) :=
  within_usePair rfl (by decide +kernel) (by decide +kernel)

theorem useLot_rd {r : Reg} (hq : r.quiet 0 0) (hreset : r.reset < 2 ^ 32)
    (h : (∀ a ∈ r.words 0 0, a ∉ R.RAS_LOT_BASE.words 0 0) ∨ r = R.RAS_LOT_BASE) :
    (usePair R.RAS_LOT_BASE).Keeps fun s => s.rd r :=
  usePair_keeps_rd hq (fun id => resetWord_lt hreset id _) (h.imp_right fun h => ⟨h.symm, by rw [h]⟩)

/-- The use of the lot's base leaves a stop that executes executing. -/
theorem useLot_executing (op : Nat) :
    ((usePair R.RAS_LOT_BASE).run s).executing i op = s.executing i op := by
  have hslot : ((usePair R.RAS_LOT_BASE).run s).slotOf i = s.slotOf i :=
    congrArg (fun w : Wrd => nth none w.slots i) (useLot_within s .wrd rfl)
  have hcore := usePair_keeps (π := State.rclCore) (fun _ => raise_rclCore _ _ _ _ _ _)
    setReg_rclCore R.RAS_LOT_BASE 0 0 s
  have hfenced := congrArg (fun c : Rcl => c.fenced) hcore
  change ((usePair R.RAS_LOT_BASE).run s).rcl.fenced = s.rcl.fenced at hfenced
  have hclock : ((usePair R.RAS_LOT_BASE).run s).rd R.SYS_GATE_STATUS = s.rd R.SYS_GATE_STATUS :=
    rd_of_within useLot_within (by decide +kernel) (by decide +kernel) s 0 0
  have hclocked : State.unitClocked ((usePair R.RAS_LOT_BASE).run s) = State.unitClocked s := by
    funext u
    simp only [State.unitClocked, hclock]
  simp only [State.executing, hslot, hfenced, hclocked]

theorem useLot_ready {op : Nat} (hr : s.ready i op o) :
    ((usePair R.RAS_LOT_BASE).run s).ready i op o := by
  obtain ⟨hlive, hx, herr, hpoi, hp, hd, hpa, hclean⟩ := hr
  have hsame : ((usePair R.RAS_LOT_BASE).run s).ave = s.ave := useLot_within s .ave rfl
  have hpower := congrArg (fun l : Lamp × Bool => l.1.power) (usePair_keepsPower R.RAS_LOT_BASE 0 0 s)
  have hplace := fun pa => place_of_ave hsame pa
  refine ⟨?_, (useLot_executing op).trans hx, herr, hpoi, by rw [hsame, hp], by rw [hsame, hd],
    fun k off => by rw [hplace, hpa], fun p hp => ?_⟩
  · rw [State.live, show ((usePair R.RAS_LOT_BASE).run s).lamp.power = s.lamp.power from hpower]
    exact hlive
  · refine Eq.trans ?_ (hclean p hp)
    simp only [State.readMark, State.poisonedAt, hplace, hsame]

/-! ### The passes (R216, R218) -/

theorem lotSize_quiet : R.RAS_LOT_SIZE.quiet 0 0 := ⟨rfl, by decide, by decide +kernel⟩

theorem lotBase_quiet : R.RAS_LOT_BASE.quiet 0 0 := ⟨rfl, by decide, by decide +kernel⟩

theorem frontEnd_takes {w : List Nat} (hheld : s.ras.held = none) (hwait : s.ras.waiting = i :: w) :
    ∃ t, exec .frontEndPassTaken s = .next t ∧ t.ras.held = some i ∧ t.ras.waiting = w
      ∧ t.ras.binDone = false ∧ s.onlyChanges [.ras] t := by
  have hcores : ∀ o, (loadCores s o).Keeps fun t => (t.ras.held, t.ras.waiting, t.ras.binDone) :=
    fun o => keeps_each fun u _ => rfl
  have hload : ∀ o, (loadCores s o).Within [.ras] := fun o =>
    within_each fun u => within_modCore (partsLe_refl _)
  rw [show exec .frontEndPassTaken s = execFrontEndPassTaken s from rfl, execFrontEndPassTaken, hheld,
    hwait]
  refine ⟨_, rfl, ?_⟩
  have hkeeps : (match s.slotOf i with
      | none => Prog.skip
      | some o => loadCores s o).Keeps fun t => (t.ras.held, t.ras.waiting, t.ras.binDone) := by
    split
    · exact keeps_skip
    · exact hcores _
  have hin : (match s.slotOf i with
      | none => Prog.skip
      | some o => loadCores s o).Within [.ras] := by
    split
    · exact within_skip
    · exact hload _
  have h := hkeeps ((modRas fun r => { r with
    held := some i, waiting := r.waiting.drop 1, binDone := false }).run s)
  obtain ⟨h1, h2, h3⟩ : _ = _ ∧ _ = _ ∧ _ = _ := by simpa only [Prod.mk.injEq] using h
  exact ⟨h1, h2.trans (congrArg (List.drop 1) hwait), h3,
    onlyChanges_of_within (within_seq (within_modRas rfl) hin) s⟩

/-- The records of a bin phase change the front end's state last, and no slot. -/
theorem run_binned (x y n a : Nat) (bs : List Byte) (f : Ras → Ras) :
    let t := (Prog.seq (countGeometry o x y) (Prog.all [setF F.RAS_LOT_LAST_BYTES n,
      keepMax F.RAS_LOT_PEAK_BYTES n, paStore a bs, .act (.draw n), modRas f])).run s
    t.ras = f s.ras ∧ t.slotOf i = s.slotOf i := by
  have hin : (Prog.seq (countGeometry o x y) (.seq (setF F.RAS_LOT_LAST_BYTES n) (.seq
      (keepMax F.RAS_LOT_PEAK_BYTES n) (.seq (paStore a bs) (.act (.draw n)))))).Within
      [.mem .plaza, .mem .lpddr, .ave, .free, .mem .retA, .mem .retB, .regs 0x21, .regs 0x90, .ring,
        .lamp, .rcl] :=
    within_seq (within_countGeometry (by decide +kernel)) <|
      within_seq (within_setF rfl (by decide +kernel)) <|
      within_seq (within_keepMax rfl (by decide +kernel)) <|
      within_seq (within_paStore (by decide +kernel)) (within_act rfl fun _ _ e => by cases e)
  exact ⟨congrArg f (hin s .ras rfl), congrArg (fun w : Wrd => nth none w.slots i) (hin s .wrd rfl)⟩

/-- The bin phase of a pass whose lot has room. -/
theorem binPhase_bins (hx : s.slotOf i = some o) (hheld : s.ras.held = some i)
    (hroom : lotBytes (passParam o.stop.desc) (livePrims (s.passPrims o (passParam o.stop.desc)
      (s.cmdHead o (passParam o.stop.desc)))) ≤ s.rd R.RAS_LOT_SIZE) :
    let t := (binPhase i s o).run s
    t.ras.binDone = true ∧ t.ras.held = some i ∧ t.ras.prims = (livePrims (s.passPrims o
      (passParam o.stop.desc) (s.cmdHead o (passParam o.stop.desc)))).length ∧ t.slotOf i = some o := by
  dsimp only
  unfold binPhase
  dsimp only
  rw [if_neg (by omega), (run_binned (i := i) ..).1, (run_binned ..).2]
  exact ⟨rfl, hheld, rfl, hx⟩

theorem useLot_world : (usePair R.RAS_LOT_BASE).Keeps State.world :=
  world_of_within useLot_within rfl rfl rfl

/-- R216: the pass the front end holds ends its bin phase. -/
theorem binPhaseDone_bins (hheld : s.ras.held = some i) (hx : s.executing i 0x10 = some o)
    (hd : (passParam o.stop.desc).direct = false) (hb : s.ras.binDone = false)
    (hroom : lotBytes (passParam o.stop.desc) (livePrims (s.passPrims o (passParam o.stop.desc)
      (s.cmdHead o (passParam o.stop.desc)))) ≤ s.rd R.RAS_LOT_SIZE) :
    ∃ t, exec .rasterBinPhaseDone s = .next t ∧ t.ras.binDone = true ∧ t.ras.held = some i
      ∧ t.ras.prims = (livePrims (s.passPrims o (passParam o.stop.desc)
        (s.cmdHead o (passParam o.stop.desc)))).length ∧ t.slotOf i = some o := by
  have hux := (useLot_executing (s := s) (i := i) 0x10).trans hx
  have hras : ((usePair R.RAS_LOT_BASE).run s).ras = s.ras := useLot_within s .ras rfl
  have hsize := useLot_rd lotSize_quiet (by decide) (.inl (by decide)) s
  have hbytes := rangeByte_of_world (useLot_world s)
  have hcmd := cmdHead_of_rangeByte hbytes
  have hprims := passPrims_of_rangeByte hbytes
  refine ⟨_, rfl, ?_⟩
  rw [run_seq, run_look]
  dsimp only at hsize ⊢
  generalize (usePair R.RAS_LOT_BASE).run s = u at hux hras hsize hcmd hprims ⊢
  rw [← hcmd, ← hprims, ← hsize] at hroom
  rw [← hcmd, ← hprims, hras, hheld]
  dsimp only
  rw [hux]
  dsimp only
  rw [run_when_pos ⟨hd, hb⟩]
  exact binPhase_bins (slotOf_of_executing hux) (hras ▸ hheld) hroom

/-- The work of a pass whose bin phase, where it has one, is over. -/
def passWork (i : Nat) (t : State) (o : OpenStop) : Prog := .seq
  (Prog.when ((passParam o.stop.desc).direct = false ∧ t.ras.binDone = false) (binPhase i t o))
  (.look fun u => match u.slotOf i with
    | none => .skip
    | some o' => Prog.when ((passParam o'.stop.desc).direct = true ∨ u.ras.binDone = true)
        (.seq (renderPass i u o') (bump F.RAS_PASS_COUNT_COUNT)))

theorem run_passWork (hslot : s.slotOf i = some o)
    (hrun : (passParam o.stop.desc).direct = true ∨ s.ras.binDone = true) :
    (passWork i s o).run s = (bump F.RAS_PASS_COUNT_COUNT).run ((renderPass i s o).run s) := by
  have hno : ¬((passParam o.stop.desc).direct = false ∧ s.ras.binDone = false) := by
    rintro ⟨h1, h2⟩
    rw [h1, h2] at hrun
    rcases hrun with h | h <;> cases h
  rw [passWork, run_seq, run_when_neg hno, run_skip, run_look, hslot]
  dsimp only
  rw [run_when_pos hrun, run_seq]

/-- R218: a pass renders and is counted. -/
theorem rasterPass_renders (hheld : s.ras.held = some i) (hr : s.ready i 0x10 o)
    (hrun : (passParam o.stop.desc).direct = true ∨ s.ras.binDone = true) :
    ∃ t, exec (.rasterPass i) s = .next t ∧ s.worked i o (renderPass i s o) t
      ∧ t.fld F.RAS_PASS_COUNT_COUNT
        = min F.RAS_PASS_COUNT_COUNT.max (s.fld F.RAS_PASS_COUNT_COUNT + 1) := by
  refine ⟨_, outcome_when hheld _ _, ?_⟩
  change s.worked i o _ ((runStop i 0x10 (passWork i)).run ((usePair R.RAS_LOT_BASE).run s)) ∧
    State.fld ((runStop i 0x10 (passWork i)).run ((usePair R.RAS_LOT_BASE).run s)) _ = _
  have hru := useLot_ready hr
  have hras : ((usePair R.RAS_LOT_BASE).run s).ras = s.ras := useLot_within s .ras rfl
  have hcount := useLot_rd passCount_quiet (by decide) (.inl (by decide)) s
  have hbase := useLot_rd lotBase_quiet (by decide) (.inr rfl) s
  have hst : s.stored ((usePair R.RAS_LOT_BASE).run s) :=
    stored_of_within useLot_within rfl rfl s (stored_refl s)
  have hworld := useLot_world s
  dsimp only at hcount hbase
  generalize (usePair R.RAS_LOT_BASE).run s = u at hru hras hcount hbase hst hworld ⊢
  rw [← hras] at hrun
  have hwork := run_passWork (ready_slot hru) hrun
  have hrender : renderPass i u o = renderPass i s o := renderPass_of_world hworld hbase hras
  have halike := renderPass_alike (i := i) (ready_errFree hr) (ready_onChip hr)
  have hworked := runStop_worked (after := bump F.RAS_PASS_COUNT_COUNT) hru hwork
    (renderPass_alike (ready_errFree hru) (ready_onChip hru)).stored
    (within_bump (by decide +kernel) (by decide +kernel))
  obtain ⟨hslot, hplaza, hlpddr⟩ := hworked
  obtain ⟨hp, hl, -⟩ := world_parts (halike.world u s hst (stored_refl s) hworld)
  refine ⟨⟨hslot, by rw [hplaza, hrender, hp], by rw [hlpddr, hrender, hl]⟩, ?_⟩
  have hkept := (renderPass_passCount (i := i) (ready_errFree hr) (ready_onChip hr)
    (s.rd R.RAS_PASS_COUNT) s u ⟨hst, hcount⟩)
  have hafter := (renderPass_alike (i := i) (ready_errFree hru) (ready_onChip hru)).stored u
    (stored_refl u)
  obtain ⟨-, -, herr, hpoi, -⟩ := id hru
  have hdone := finishWork_done (s := (bump F.RAS_PASS_COUNT_COUNT).run ((renderPass i u o).run u))
    (ready_slot_of_stored hru (stored_of_within (W := [.regs 0x21])
      (within_bump (by decide +kernel) (by decide +kernel)) rfl rfl _ hafter)) herr hpoi
  rw [run_runStop hru, hwork, hdone, hrender]
  generalize (renderPass i s o).run u = v at hkept
  calc _ = ((bump F.RAS_PASS_COUNT_COUNT).run v).fld F.RAS_PASS_COUNT_COUNT :=
        fld_congr (rd_of_within (within_modSlot (partsLe_refl _)) rfl (by decide +kernel) _ 0 0)
    _ = min F.RAS_PASS_COUNT_COUNT.max (v.fld F.RAS_PASS_COUNT_COUNT + 1) := fld_bump_self _ _ rfl 1 0 0
    _ = _ := by rw [fld_congr (f := F.RAS_PASS_COUNT_COUNT) hkept.2]

/-- Settles O48: the front end's three commands. -/
theorem rasterPassRunsToItsEnd : Obligations.RasterPassRunsToItsEnd := by
  refine ⟨fun s i w hheld hwait => ?_, fun s i o hheld hx hd hb hroom => ?_,
    fun s i o hheld hr hrun => ?_⟩
  · exact frontEnd_takes hheld hwait
  · exact binPhaseDone_bins hheld hx hd hb hroom
  · exact rasterPass_renders hheld hr hrun

end Sys2Proof.Machine
end

section
/-! PROOFS. Page writes of the charge arrays (chapter 08, R257): O50. -/

set_option Elab.async false

namespace Sys2Proof.Machine

variable {s t : State} {i p : Nat} {o : OpenStop}

/-! ### Arrays -/

theorem arr_modArr_self (hp : p < s.dst.arrs.length) (f : Arr → Arr) :
    ((modArr p f).run s).arr p = f (s.arr p) := by
  rw [modArr, run_modDst, State.arr, act_dst_dst, nth_upd_self hp]
  rfl

theorem length_arrs_modArr (p : Nat) (f : Arr → Arr) :
    ((modArr p f).run s).dst.arrs.length = s.dst.arrs.length := length_upd ..

/-- A start of the calibrations that are due sets no more than that an array's runs. -/
theorem arr_startCalibrations (hp : p < s.dst.arrs.length) :
    (startCalibrations.run s).arr p = s.arr p
      ∨ (startCalibrations.run s).arr p = { s.arr p with calRunning := true } := by
  rw [startCalibrations, run_look]
  by_cases h : (s.dst.arrs.any fun a => a.calDue && !a.calRunning) = true
  · have hget : ∀ f : Nat → Arr, nth Arr.reset ((upTo s.dst.arrs.length).map f) p = f p := fun f => by
      rw [nth, List.getD_eq_getElem?_getD, List.getElem?_map, upTo, List.getElem?_range hp]
      rfl
    rw [run_when_pos h, run_modDst, State.arr, act_dst_dst]
    rw [hget]
    dsimp only
    split
    · exact .inr rfl
    · exact .inl rfl
  · rw [run_when_neg h]
    exact .inl rfl

theorem startCalibrations_pwDone : startCalibrations.Keeps fun s => s.dst.pwDone :=
  keeps_look fun _ => keeps_when fun _ _ => rfl

theorem startRewrites_pwDone (p : Nat) : (startRewrites p).Keeps fun s => s.dst.pwDone := by
  refine keeps_look fun s => ?_
  dsimp only
  split
  · exact keeps_skip
  · exact keeps_when fun _ _ => rfl

theorem startRewrites_none (h : (s.arr p).rewrites = []) : (startRewrites p).run s = s := by
  rw [startRewrites, run_look]
  dsimp only
  rw [h]
  rfl

/-! ### PAGE_WRITE (R257) -/

/-- Pieces of the page images that a PAGE_WRITE reads. -/
def writePieces (_ : State) (o : OpenStop) : List (Nat × Nat) :=
  ((upTo (writeEntries o.stop.desc)).map fun n =>
    o.stop.pieces (param o.stop.desc 0 1) 4 (8192 * (mapEntry o.stop.desc n).src8k) 8192).flatten

theorem mem_pieces {st : Stop} {k fuel : Nat} : ∀ {off n : Nat} {x : Nat × Nat},
    x ∈ st.pieces k fuel off n → ∃ off', x.1 = st.pa k off' := by
  induction fuel with
  | zero => exact fun h => absurd h List.not_mem_nil
  | succ m ih =>
    intro off n x h
    rw [Stop.pieces] at h
    split at h
    · exact absurd h List.not_mem_nil
    · rcases List.mem_cons.mp h with rfl | h
      · exact ⟨off, rfl⟩
      · exact ih h

theorem run_pageWrite (hr : s.ready i 0x21 o)
    (hclean : ∀ k off n, (s.readMark (o.stop.pa k off) n).poison = false) :
    exec (.pageWrite i) s = .next ((checkAccess i).run ((issueWrites i).run s)) := by
  have hat : ∀ x ∈ writePieces s o, ∃ k off, x.1 = o.stop.pa k off := fun x hx => by
    obtain ⟨l, hl, hxl⟩ := List.mem_flatten.mp hx
    obtain ⟨n, -, rfl⟩ := List.mem_map.mp hl
    exact ⟨_, mem_pieces hxl⟩
  have hrun := run_runStopOn (pieces := writePieces) (work := fun _ _ => issueWrites i)
    (fin := checkAccess i) hr
    (fun x hx => by
      obtain ⟨k, off, h⟩ := hat x hx
      rw [h]
      exact ready_onChip hr k off)
    (fun x hx => by
      obtain ⟨k, off, h⟩ := hat x hx
      rw [h]
      exact hclean k off x.2)
  exact congrArg Host.Outcome.next hrun

theorem checkAccess_ready (hr : s.ready i 0x21 o) {o' : OpenStop} (hslot : t.slotOf i = some o')
    (he : o'.errorSeen = o.errorSeen) (hp : o'.poisonSeen = o.poisonSeen) :
    (checkAccess i).run t = t := by
  obtain ⟨-, -, herr, hpoi, -⟩ := hr
  exact checkAccess_passes hslot (he.trans herr) (hp.trans hpoi)

/-- Every entry is written. -/
theorem issueWrites_done (hslot : s.slotOf i = some o)
    (hall : ((upTo (writeEntries o.stop.desc)).all fun n => s.dst.pwDone.contains (i, n)) = true) :
    (issueWrites i).run s = (modSlot i fun x => { x with done := true }).run s := by
  have hno : ¬((upTo (writeEntries o.stop.desc)).any fun n => !s.dst.pwDone.contains (i, n)
      && (s.backing (mapEntry o.stop.desc n).logical).isNone) = true := fun h => by
    obtain ⟨n, hn, hb⟩ := List.any_eq_true.mp h
    rw [List.all_eq_true.mp hall n hn] at hb
    cases hb
  rw [issueWrites, run_look, hslot]
  dsimp only
  rw [if_neg hno, if_pos hall]

/-- One entry that is due starts on its array. -/
theorem issueWrites_one {n : Nat} (hslot : s.slotOf i = some o)
    (hall : ((upTo (writeEntries o.stop.desc)).all fun n => s.dst.pwDone.contains (i, n)) = false)
    (hback : ((upTo (writeEntries o.stop.desc)).any fun n => !s.dst.pwDone.contains (i, n)
      && (s.backing (mapEntry o.stop.desc n).logical).isNone) = false)
    (hdue : s.dueWrites i o.stop.desc = [(n, p)]) :
    (issueWrites i).run s = (modArr p fun a => { a with
      writing := some ⟨(mapEntry o.stop.desc n).page, (mapEntry o.stop.desc n).tag,
        o.stop.pa (param o.stop.desc 0 1) (8192 * (mapEntry o.stop.desc n).src8k), false, some i, none,
        n, s.rbs o (param o.stop.desc 0 1) (8192 * (mapEntry o.stop.desc n).src8k) 8192⟩
      pages := upd a.pages (mapEntry o.stop.desc n).page
        { nth Page.reset a.pages (mapEntry o.stop.desc n).page with tag := none } }).run s := by
  rw [issueWrites, run_look, hslot]
  dsimp only
  rw [if_neg (by rw [hback]; exact Bool.false_ne_true), if_neg (by rw [hall]; exact Bool.false_ne_true),
    hdue, run_each_cons, run_each_nil]

/-! ### The end of a page write (R257) -/

section done
variable {w : PageWriting}

theorem pageWriteDone_stores (hp : p < s.dst.arrs.length) (hw : (s.arr p).writing = some w)
    (hslot : w.slot = none) (hre : (s.arr p).rewrites = []) (hpage : w.page < (s.arr p).pages.length) :
    ∃ t, exec (.pageWriteDone p true) s = .next t ∧ (t.arr p).writing = none
      ∧ nth Page.reset (t.arr p).pages w.page = ⟨some w.tag, w.source, w.image, parityCells w.image, []⟩
      ∧ s.onlyChanges [.dst] t := by
  have hended : ((modArr p fun a => { a with writing := none }).run
      ((storePage p w.page w.tag w.source w.image).run s)).arr p = { s.arr p with
        pages := upd (s.arr p).pages w.page ⟨some w.tag, w.source, w.image, parityCells w.image, []⟩
        writing := none } := by
    rw [arr_modArr_self (by rw [storePage, length_arrs_modArr]; exact hp), storePage,
      arr_modArr_self hp]
  have hin : (Prog.seq (storePage p w.page w.tag w.source w.image) (.seq
      (modArr p fun a => { a with writing := none }) startCalibrations)).Within [.dst] :=
    within_seq (within_storePage (partsLe_refl _)) <|
      within_seq (within_modArr (partsLe_refl _)) (within_startCalibrations (partsLe_refl _))
  have hchanges := onlyChanges_of_within hin s
  rw [run_seq, run_seq] at hchanges
  have hlen : p < ((modArr p fun a => { a with writing := none }).run
      ((storePage p w.page w.tag w.source w.image).run s)).dst.arrs.length := by
    rw [length_arrs_modArr, storePage, length_arrs_modArr]
    exact hp
  have hkept := arr_startCalibrations hlen
  rw [show exec (.pageWriteDone p true) s = execPageWriteDone p true s from rfl, execPageWriteDone, hw]
  refine ⟨_, rfl, ?_⟩
  dsimp only
  rw [if_pos rfl, hslot, writeGoesOn, hslot, run_all_cons, run_all_cons, run_all_cons, run_all_cons,
    run_all_cons, run_all_cons, run_all_nil]
  dsimp only
  rw [run_skip, run_skip]
  generalize (modArr p fun a => { a with writing := none }).run _ = u at hended hchanges hkept ⊢
  generalize startCalibrations.run u = v at hchanges hkept ⊢
  have hrest : (startRewrites p).run v = v := startRewrites_none (by
    rcases hkept with h | h <;> rw [h, hended] <;> exact hre)
  rw [hrest]
  rcases hkept with h | h <;> rw [h, hended] <;> exact ⟨rfl, nth_upd_self hpage, hchanges⟩

theorem pageWriteDone_recorded (hw : (s.arr p).writing = some w) (hslot : w.slot = some i)
    (hsh : w.shuttle = none) (hgone : s.slotOf i = none) :
    ∃ t, exec (.pageWriteDone p true) s = .next t ∧ (i, w.entry) ∈ t.dst.pwDone := by
  rw [show exec (.pageWriteDone p true) s = execPageWriteDone p true s from rfl, execPageWriteDone, hw]
  refine ⟨_, rfl, ?_⟩
  dsimp only
  rw [if_pos rfl, hslot, hsh, writeGoesOn, hslot, hsh, run_all_cons, run_all_cons, run_all_cons,
    run_all_cons, run_all_cons, run_all_cons, run_all_nil]
  dsimp only
  have hin : (Prog.seq (storePage p w.page w.tag w.source w.image) (.seq
      (modArr p fun a => { a with writing := none }) (.seq
      (modDst fun d => { d with pwDone := d.pwDone ++ [(i, w.entry)] }) (.seq startCalibrations
      (startRewrites p))))).Within [.dst] :=
    within_seq (within_storePage (partsLe_refl _)) <|
      within_seq (within_modArr (partsLe_refl _)) <| within_seq (within_modDst rfl) <|
      within_seq (within_startCalibrations (partsLe_refl _)) (within_startRewrites (partsLe_refl _))
  have hwrd := hin s .wrd rfl
  rw [run_seq, run_seq, run_seq, run_seq] at hwrd
  have hdone : ∀ u : State, (i, w.entry) ∈ ((startRewrites p).run (startCalibrations.run
      ((modDst fun d => { d with pwDone := d.pwDone ++ [(i, w.entry)] }).run u))).dst.pwDone :=
    fun u => by
      have h1 := startRewrites_pwDone p (startCalibrations.run
        ((modDst fun d => { d with pwDone := d.pwDone ++ [(i, w.entry)] }).run u))
      have h2 := startCalibrations_pwDone
        ((modDst fun d => { d with pwDone := d.pwDone ++ [(i, w.entry)] }).run u)
      have h := h1.trans h2
      dsimp only at h
      rw [h]
      exact List.mem_append_right _ (List.mem_singleton.mpr rfl)
  generalize hv : (startRewrites p).run _ = v at hwrd
  have hout : v.slotOf i = none := (congrArg (fun w : Wrd => nth none w.slots i) hwrd).trans hgone
  rw [issueWrites, run_look, hout, ← hv]
  exact hdone _

theorem pageWriteDone_again (hw : (s.arr p).writing = some w) (h2 : w.second = false) :
    ∃ t, exec (.pageWriteDone p false) s = .next t ∧ t = { s with dst := { s.dst with
      arrs := upd s.dst.arrs p { s.arr p with writing := some { w with second := true } } } } := by
  rw [show exec (.pageWriteDone p false) s = execPageWriteDone p false s from rfl, execPageWriteDone, hw]
  dsimp only
  rw [if_neg Bool.false_ne_true, if_neg (by rw [h2]; exact Bool.false_ne_true)]
  exact ⟨_, rfl, rfl⟩

/-- An array that backs no logical array retires alone. -/
theorem retireArray_retires (hp : p < s.dst.arrs.length) (hno : (s.arr p).retired = false)
    (hbacks : (s.arr p).backs = none) (cause : Nat) :
    (((retireArray p cause).run s).arr p).retired = true := by
  rw [retireArray, run_look]
  dsimp only
  rw [run_when_pos hno, hbacks, run_all_cons]
  dsimp only
  have hrest : (Prog.all [Prog.when (62 ≤ s.retireCount) (dstRaise (districtOf p) 0x0B),
      appendRetirement p cause (s.arr p).nExact, dstRaise (districtOf p) 4]).Within
      (.svc :: raiseAny) :=
    within_all_cons (within_when (within_dstRaise (by decide +kernel))) <|
      within_all_cons (within_appendRetirement (by decide +kernel)) <|
      within_all_cons (within_dstRaise (by decide +kernel)) within_all_nil
  rw [State.arr, hrest _ .dst rfl]
  exact congrArg Arr.retired (arr_modArr_self hp _)

theorem pageWriteDone_retires (hp : p < s.dst.arrs.length) (hw : (s.arr p).writing = some w)
    (h2 : w.second = true) (hslot : w.slot = none) (hno : (s.arr p).retired = false)
    (hbacks : (s.arr p).backs = none) :
    ∃ t, exec (.pageWriteDone p false) s = .next t ∧ (t.arr p).retired = true := by
  rw [show exec (.pageWriteDone p false) s = execPageWriteDone p false s from rfl, execPageWriteDone, hw]
  refine ⟨_, rfl, ?_⟩
  dsimp only
  rw [if_neg Bool.false_ne_true, if_pos h2, writeGoesOn, hslot, run_all_cons, run_all_cons,
    run_all_cons, run_all_nil]
  dsimp only
  rw [run_skip]
  have hdst := within_dstRaise (partsLe_refl _) (a := districtOf p) (b := 8) (c := 0) (d := 0xFF)
    (e := 0) (f := 0xFF) s .dst rfl
  generalize (dstRaise (districtOf p) 8).run s = u at hdst ⊢
  have harr : u.arr p = s.arr p := congrArg (fun d : Dst => nth Arr.reset d.arrs p) hdst
  exact retireArray_retires (hdst ▸ hp) (harr ▸ hno) (harr ▸ hbacks) 4

end done

/-- Settles O50: page writes are issued, recorded, made again, and end in a retirement. -/
theorem pageWritesRecordTheirPages : Obligations.PageWritesRecordTheirPages := by
  refine ⟨fun s i o hr hclean hall => ⟨_, run_pageWrite hr hclean, ?_⟩,
    fun s i o n p hr hclean hall hback hdue hp => ⟨_, run_pageWrite hr hclean, ?_⟩,
    fun s p w hp hw => ⟨fun hslot hre hpage => pageWriteDone_stores hp hw hslot hre hpage,
      fun i hslot hsh hgone => pageWriteDone_recorded hw hslot hsh hgone,
      fun h2 => pageWriteDone_again hw h2,
      fun h2 hslot hno hbacks => pageWriteDone_retires hp hw h2 hslot hno hbacks⟩⟩
  · have hslot := slotOf_modSlot (ready_slot hr) fun x => { x with done := true }
    rw [issueWrites_done (ready_slot hr) hall, checkAccess_ready hr hslot rfl rfl]
    exact hslot
  · have hslot : ∀ f : Arr → Arr, ((modArr p f).run s).slotOf i = some o := fun f => ready_slot hr
    rw [issueWrites_one (ready_slot hr) hall hback hdue, checkAccess_ready hr (hslot _) rfl rfl,
      arr_modArr_self hp]
    exact ⟨rfl, hslot _⟩

end Sys2Proof.Machine
end

section
/-! PROOFS. Layers and passes of the charge arrays (chapters 08 and 09, R242, R244, R265): O51. -/

set_option Elab.async false

namespace Sys2Proof.Machine

variable {s t : State} {i p : Nat} {o : OpenStop}

/-! ### The arrays behind a layer's entries (R260, R262) -/

theorem arr_modArr_ne {q : Nat} (h : q ≠ p) (f : Arr → Arr) : ((modArr q f).run s).arr p = s.arr p := by
  rw [modArr, run_modDst, State.arr, act_dst_dst, nth_upd_ne h]
  rfl

theorem backs_modArr {q : Nat} {f : Arr → Arr} (hf : ∀ a, (f a).backs = a.backs) (p : Nat) :
    (((modArr q f).run s).arr p).backs = (s.arr p).backs := by
  rw [modArr, run_modDst, State.arr, act_dst_dst, nth_upd]
  split
  · next h => rw [hf, h.1]; rfl
  · rfl

theorem backing_modArr {q : Nat} {f : Arr → Arr} (hf : ∀ a, (f a).backs = a.backs) (a : Nat) :
    ((modArr q f).run s).backing a = s.backing a := by
  unfold State.backing
  refine congrArg (List.find? · _) (funext fun p => ?_)
  exact congrArg (· == some a) (backs_modArr hf p)

theorem backs_of_backing {a : Nat} (h : s.backing a = some p) : (s.arr p).backs = some a := by
  have := List.find?_some h
  simpa [State.arr] using this

/-- Every entry's array is backed, and a resident entry's page holds its tag. -/
def Reached (es : List MapEntry) (s : State) : Prop := ∀ e ∈ es, ∃ p, s.backing e.logical = some p
  ∧ (e.shuttle = false → (nth Page.reset (s.arr p).pages e.page).tag = some e.tag)

theorem page_storePage {q page page' tag source : Nat} {image : List Byte} (h : q = p → page ≠ page') :
    nth Page.reset (((storePage q page tag source image).run s).arr p).pages page'
      = nth Page.reset (s.arr p).pages page' := by
  by_cases hlen : q < s.dst.arrs.length
  · by_cases hpq : q = p
    · subst hpq
      rw [storePage, arr_modArr_self hlen]
      exact nth_upd_ne (h rfl)
    · rw [storePage, arr_modArr_ne hpq]
  · rw [storePage, modArr, run_modDst, State.arr, act_dst_dst]
    dsimp only
    rw [upd, List.set_eq_of_length_le (by omega)]
    rfl

theorem backing_storePage {q page tag source : Nat} {image : List Byte} (a : Nat) :
    ((storePage q page tag source image).run s).backing a = s.backing a :=
  backing_modArr (f := fun x => { x with
    pages := upd x.pages page ⟨some tag, source, image, parityCells image, []⟩ }) (fun _ => rfl) a

theorem storePage_reached {es : List MapEntry} {e : MapEntry} {q tag source : Nat} {image : List Byte}
    (hq : s.backing e.logical = some q) (hap : ∀ f ∈ es, f.shuttle = false →
      (e.logical, e.page) ≠ (f.logical, f.page)) (h : Reached es s) :
    Reached es ((storePage q e.page tag source image).run s) := by
  intro f hf
  obtain ⟨p, hp, htag⟩ := h f hf
  refine ⟨p, (backing_storePage _).trans hp, fun hsh => ?_⟩
  rw [page_storePage fun hpq hpage => hap f hf hsh ?_]
  · exact htag hsh
  · subst hpq
    rw [hpage, Option.some.inj ((backs_of_backing hq).symm.trans (backs_of_backing hp))]

theorem reachEntries_goes {l : Layer2} {go : Prog} {es : List MapEntry} {n : Nat}
    (hreach : Reached es t) (hap : ∀ e ∈ es, ∀ f ∈ es, e.shuttle = true → f.shuttle = false →
      (e.logical, e.page) ≠ (f.logical, f.page)) (hst : s.stored t) :
    ∃ u, s.stored u ∧ (reachEntries i o l [] n es go).run t = go.run u := by
  induction es generalizing t n with
  | nil => exact ⟨t, hst, rfl⟩
  | cons e es ih =>
    obtain ⟨p, hp, htag⟩ := hreach e List.mem_cons_self
    have hrest : Reached es t := fun f hf => hreach f (List.mem_cons_of_mem e hf)
    have hap' := fun e he f hf => hap e (List.mem_cons_of_mem _ he) f (List.mem_cons_of_mem _ hf)
    have hgood : ¬((t.passesDone i n == 0) = true ∧ e.shuttle = false
        ∧ (nth Page.reset (t.arr p).pages e.page).tag ≠ some e.tag) := fun h => h.2.2 (htag h.2.1)
    rw [reachEntries, run_look, checkEntry, run_look, hp]
    dsimp only
    rw [if_neg hgood, run_seq]
    by_cases hsh : e.shuttle = true
    · rw [run_when_pos hsh, List.find?_nil, Option.map_none, Option.getD_none, shuttleWrite,
        if_pos (by decide), run_look, hp]
      exact ih (storePage_reached hp (fun f hf hfs =>
          hap e List.mem_cons_self f (List.mem_cons_of_mem e hf) hsh hfs) hrest) hap'
        (stored_of_within (within_storePage (partsLe_refl _)) rfl rfl t hst)
    · rw [run_when_neg hsh, run_skip]
      exact ih hrest hap' hst

/-! ### The layer's work (R265) -/

/-- What a layer does once its entries are reached. -/
def layerRest (i : Nat) (s : State) (o : OpenStop) : Prog :=
  let d := o.stop.desc
  let l := layerOf d
  let es := layerEntries d
  Prog.all [
    Prog.each (upTo es.length) fun n => match es[n]? with
      | none => .skip
      | some e => countPasses i n l.vectors e,
    clearAccs es,
    modDst fun x => { x with
      passes := x.passes.filter fun e => e.1 ≠ i
      shuttled := x.shuttled.filter fun e => e.1 ≠ i },
    Prog.each (s.badBiasDistricts o l es) fun d' => dstRaise d' 0x0D 0 o.stop.queue o.stop.tag,
    Prog.when (l.whole = true) (stopWrite i o.stop l.outRange 0 (zeros (rangeAt d l.outRange).len)),
    Prog.each (s.layerWrites o l es) fun w => stopWrite i o.stop l.outRange w.1 w.2]

theorem layerRest_stored (he : s.errFree) (hpa : ∀ k off, onChip (s.place (o.stop.pa k off)) = true) :
    (layerRest i s o).Preserves s.stored := by
  have hwrite := fun k off bs => stopWrite_stored (i := i) he hpa k off bs
  have hdst : ∀ f, (modDst f).Preserves s.stored := fun f =>
    stored_of_within (within_modDst (W := [.dst]) rfl) rfl rfl
  refine preserves_all_cons (preserves_each fun n => ?_) <| preserves_all_cons (hdst _) <|
    preserves_all_cons (hdst _) <| preserves_all_cons (preserves_each fun _ =>
      stored_of_within (within_dstRaise (partsLe_refl _)) rfl rfl) <|
    preserves_all_cons (preserves_when (hwrite _ _ _)) <|
    preserves_all_cons (preserves_each fun _ => hwrite _ _ _) preserves_all_nil
  split
  · exact preserves_skip
  · refine preserves_look fun t => ?_
    split
    · exact preserves_skip
    · exact stored_of_within (W := [.regs 0x10]) (within_bump (by decide +kernel) (by decide +kernel))
        rfl rfl

theorem layerPieces_pa {x : Nat × Nat} (h : x ∈ layerPieces s o) : ∃ k off, x.1 = o.stop.pa k off := by
  have hat : ∀ {k fuel off n}, x ∈ o.stop.pieces k fuel off n → ∃ k off, x.1 = o.stop.pa k off :=
    fun h => ⟨_, mem_pieces h⟩
  unfold layerPieces at h
  simp only [List.mem_append, List.mem_flatMap] at h
  rcases h with (h | ⟨e, -, h⟩) | ⟨y, -, x', -, c, -, h⟩
  · exact hat h
  · exact hat h
  · exact hat h

theorem layerWork_worked (hr : s.ready i 0x20 o)
    (hclean : ∀ p ∈ layerPieces s o, (s.readMark p.1 p.2).poison = false)
    (hfree : s.layerFree (layerEntries o.stop.desc) = true) (hreach : Reached (layerEntries o.stop.desc) s)
    (hap : ∀ e ∈ layerEntries o.stop.desc, ∀ f ∈ layerEntries o.stop.desc, e.shuttle = true →
      f.shuttle = false → (e.logical, e.page) ≠ (f.logical, f.page)) :
    ∃ t, exec (.arrayLayer i ⟨none, []⟩) s = .next t ∧ s.worked i o (layerWork i [] s o) t := by
  obtain ⟨-, hx, herr, hpoi, -⟩ := id hr
  have hwork : s.stored ((layerWork i [] s o).run s) := by
    obtain ⟨u, hu, hrun⟩ := reachEntries_goes (i := i) (o := o) (l := layerOf o.stop.desc) (n := 0)
      (go := layerRest i s o) hreach hap (stored_refl s)
    rw [layerWork]
    change s.stored ((reachEntries i o (layerOf o.stop.desc) [] 0 (layerEntries o.stop.desc)
      (layerRest i s o)).run s)
    rw [hrun]
    exact layerRest_stored (ready_errFree hr) (ready_onChip hr) u hu
  have hrun := run_runStopOn (pieces := layerPieces) (work := layerWork i []) (fin := finishWork i) hr
    (fun x hx => by
      obtain ⟨k, off, h⟩ := layerPieces_pa hx
      rw [h]
      exact ready_onChip hr k off) hclean
  have hslot := ready_slot_of_stored hr hwork
  rw [show exec (.arrayLayer i ⟨none, []⟩) s = execArrayLayer i ⟨none, []⟩ s from rfl, execArrayLayer, hx]
  refine ⟨_, outcome_when hfree _ _, ?_⟩
  rw [hrun, finishWork_done hslot herr hpoi]
  exact ⟨slotOf_modSlot hslot _, rfl, rfl⟩

/-- A district's parity error fences it (R242, R267). -/
theorem layerParity_fences {d : Nat} {m : List (Nat × Nat)} (hlive : s.live = true)
    (hx : s.executing i 0x20 = some o) (hd : d < 8) (he : s.rcl.escalating = false)
    (hp : s.rcl.pending.length < 8) (hf : unitDst d ∉ s.rcl.fenced) :
    ∃ t, exec (.arrayLayer i ⟨some d, m⟩) s = .next t ∧ s.reports t (0x1002 + 0x100 * d) (unitDst d)
      ∧ t.rcl.fenced = s.rcl.fenced ++ [unitDst d] := by
  have hin : recoveredInPlace (unitDst d) = true := by
    interval_cases d <;> rfl
  obtain ⟨t, ht, hrep, hfen, -⟩ := unitFault_fences (code := 0x1002 + 0x100 * d) (d := 0)
    (q := o.stop.queue) (g := o.stop.tag) (st := 0x0A) hin hlive he hp hf
  rw [show exec (.arrayLayer i ⟨some d, m⟩) s = execArrayLayer i ⟨some d, m⟩ s from rfl, execArrayLayer, hx]
  exact ⟨_, outcome_when hd _ _, by rw [ht]; exact hrep, by rw [ht]; exact hfen⟩


/-! ### One pass (R244, R265) -/

theorem upd_nth {α : Type} (d : α) (l : List α) (k : Nat) : upd l k (nth d l k) = l := by
  by_cases h : k < l.length
  · rw [upd, nth, List.getD_eq_getElem _ _ h, List.set_getElem_self]
  · rw [upd, List.set_eq_of_length_le (by omega)]

/-- A page found as it was stored stays as it is. -/
theorem modArr_unflipped (page : Nat) : (modArr p fun a => { a with
    pages := upd a.pages page (((nth Page.reset a.pages page).flip []).setSums []) }).run s = s := by
  have hpage : ∀ g : Page, (g.flip []).setSums [] = g := fun g => by
    rw [Page.flip, if_pos rfl, Page.setSums]
    simp
  rw [modArr, run_modDst, hpage, upd_nth, upd_nth]
  rfl

theorem suspectRow_eq (x : Option (Nat × Nat)) (page : Nat) :
    ((x.filter fun q => q.1 == page).map fun q => q.2)
      = x.bind fun q => if q.1 = page then some q.2 else none := by
  cases x with
  | none => rfl
  | some q => by_cases h : q.1 = page <;> simp [Option.filter, h]

theorem passesDone_put (n v : Nat) (l : List (Nat × Nat × Nat)) :
    (((l.filter (fun m => !(m.1 == i && m.2.1 == n)) ++ [(i, n, v)]).find?
      fun e => e.1 == i && e.2.1 == n).map fun e => e.2.2).getD 0 = v := by
  have hnone : (l.filter (fun m => !(m.1 == i && m.2.1 == n))).find?
      (fun e => e.1 == i && e.2.1 == n) = none :=
    List.find?_eq_none.mpr fun e he => by
        simpa [Decidable.not_or_of_imp, imp_iff_not_or] using (List.mem_filter.mp he).2
  rw [List.find?_append, hnone]
  simp

theorem run_runPass {n v : Nat} {e : MapEntry} {r : Conv}
    (hr : (nth Page.reset (s.arr p).pages e.page).convertPass
      ((s.arr p).suspect.bind fun q => if q.1 = e.page then some q.2 else none) (s.arr p).nExact
      (layerOf o.stop.desc).p (s.tileInput o (layerOf o.stop.desc) e ((layerOf o.stop.desc).vector v))
      (layerOf o.stop.desc).p [] = r)
    (hret : (s.arr p).retired = false) (hsum : (nth Page.reset (s.arr p).pages e.page).sumsBad = false)
    (hlast : r.last = .checked) (hfails : r.fails = 0) (hcals : r.cals = 0) :
    (runPass i n v p o e ⟨[], [], [], []⟩).run s = startCalibrations.run
      ((passDone i n p (layerOf o.stop.desc) (layerEntries o.stop.desc) e v (s.arr p).nExact
        s.lamp.thermStep (s.tileInput o (layerOf o.stop.desc) e ((layerOf o.stop.desc).vector v))
        (nth Page.reset (s.arr p).pages e.page).image r.devs).run s) := by
  rw [runPass, run_seq, modArr_unflipped, run_look]
  dsimp only
  rw [suspectRow_eq, hsum, Bool.and_false, if_neg Bool.false_ne_true, hr, run_all_cons,
    run_when_neg (fun h => Bool.false_ne_true h.2), hfails, hcals, run_all_cons, checkFailed,
    run_when_neg (Nat.lt_irrefl 0), run_all_cons, show upTo 0 = [] from rfl, run_each_nil, run_all_cons,
    run_look, run_skip, run_skip, run_when_pos hret, hlast, run_all_cons, run_all_nil]


theorem passDone_counts (n : Nat) (l : Layer2) (es : List MapEntry) (e : MapEntry) (v nExact therm : Nat)
    (x : List Int) (image : List Byte) (devs : List (Nat × Int)) (hp : p < s.dst.arrs.length) :
    let t := (passDone i n p l es e v nExact therm x image devs).run s
    t.fld F.DST_PASS_COUNT_COUNT (districtOf p)
        = min F.DST_PASS_COUNT_COUNT.max (s.fld F.DST_PASS_COUNT_COUNT (districtOf p) + 1)
      ∧ p < t.dst.arrs.length
      ∧ (t.arr p).passCycles = passTime nExact l.p therm x
      ∧ t.passesDone i n = v + 1
      ∧ (v % zeroAsOne l.block ≠ 0 → t.dst.acc = (upTo l.opt).foldl (fun acc k =>
          keyPut acc (accKey es l e.nt v k) ((keyGet acc (accKey es l e.nt v k)).getD 0
            + passOut image l.q k x + outDev l.q k devs)) s.dst.acc) := by
  have hclear : ∃ acc, (Prog.look fun s => Prog.when (v % zeroAsOne l.block = 0
      ∧ ((upTo es.length).all fun m => s.passesDone i m ≤ v) = true) (clearAccs es)).run s
        = { s with dst := { s.dst with acc } } ∧ (v % zeroAsOne l.block ≠ 0 → acc = s.dst.acc) := by
    rw [run_look]
    by_cases h : v % zeroAsOne l.block = 0 ∧ ((upTo es.length).all fun m => s.passesDone i m ≤ v) = true
    · rw [run_when_pos h]
      exact ⟨_, rfl, fun hv => absurd h.1 hv⟩
    · rw [run_when_neg h]
      exact ⟨_, rfl, fun _ => rfl⟩
  obtain ⟨acc, hrun, hacc⟩ := hclear
  dsimp only
  rw [passDone, run_all_cons, hrun, run_all_cons, run_all_cons, run_all_cons, run_all_nil]
  have hfld := fld_bump_self { s with dst := { s.dst with acc } } F.DST_PASS_COUNT_COUNT rfl 1
    (districtOf p) 0
  have hdst := bump_dst { s with dst := { s.dst with acc } } F.DST_PASS_COUNT_COUNT 1 (districtOf p) 0
  generalize (bump F.DST_PASS_COUNT_COUNT 1 (districtOf p)).run _ = u at hfld hdst ⊢
  dsimp only at hdst
  have hlen : p < u.dst.arrs.length := by rw [hdst]; exact hp
  have harr := arr_modArr_self hlen (f := fun a => { a with
    passCycles := passTime nExact l.p therm x, suspect := none })
  have hfld' : ((modArr p fun a => { a with
    passCycles := passTime nExact l.p therm x, suspect := none }).run u).fld F.DST_PASS_COUNT_COUNT
      (districtOf p) = u.fld F.DST_PASS_COUNT_COUNT (districtOf p) := rfl
  have hacc' : ((modArr p fun a => { a with
    passCycles := passTime nExact l.p therm x, suspect := none }).run u).dst.acc = u.dst.acc := rfl
  have hlen' := length_arrs_modArr (s := u) (p := p) (f := fun a => { a with
    passCycles := passTime nExact l.p therm x, suspect := none })
  generalize (modArr p _).run u = w at harr hfld' hacc' hlen' ⊢
  refine ⟨hfld'.trans hfld, ?_, ?_, passesDone_put n (v + 1) w.dst.passes, fun hv => ?_⟩
  · rw [run_modDst, act_dst_dst, hlen']
    exact hlen
  · rw [run_modDst, State.arr, act_dst_dst]
    exact congrArg Arr.passCycles harr
  · rw [run_modDst, act_dst_dst]
    dsimp only
    rw [hacc', hdst]
    dsimp only
    rw [hacc hv]

theorem arrayPass_counts {n v : Nat} {e : MapEntry} {r : Conv} (hx : s.executing i 0x20 = some o)
    (hr : (nth Page.reset (s.arr p).pages e.page).convertPass
      ((s.arr p).suspect.bind fun q => if q.1 = e.page then some q.2 else none) (s.arr p).nExact
      (layerOf o.stop.desc).p (s.tileInput o (layerOf o.stop.desc) e ((layerOf o.stop.desc).vector v))
      (layerOf o.stop.desc).p [] = r)
    (he : (layerEntries o.stop.desc)[n]? = some e) (hsh : e.shuttle = false)
    (hdue : s.passDue i (layerOf o.stop.desc) (layerEntries o.stop.desc) n v = true)
    (hback : s.backing e.logical = some p) (hheld : (s.arr p).held = false)
    (hbusy : (s.arr p).pageBusy e.page = false) (hret : (s.arr p).retired = false)
    (htag : (nth Page.reset (s.arr p).pages e.page).tag = some e.tag)
    (hsum : (nth Page.reset (s.arr p).pages e.page).sumsBad = false)
    (hlast : r.last = .checked) (hfails : r.fails = 0) (hcals : r.cals = 0) :
    exec (.arrayPass i n v ⟨[], [], [], []⟩) s = .next (startCalibrations.run
      ((passDone i n p (layerOf o.stop.desc) (layerEntries o.stop.desc) e v (s.arr p).nExact
        s.lamp.thermStep (s.tileInput o (layerOf o.stop.desc) e ((layerOf o.stop.desc).vector v))
        (nth Page.reset (s.arr p).pages e.page).image r.devs).run s)) := by
  rw [← run_runPass hr hret hsum hlast hfails hcals,
    show exec (.arrayPass i n v ⟨[], [], [], []⟩) s = execArrayPass i n v ⟨[], [], [], []⟩ s from rfl,
    execArrayPass, hx]
  dsimp only
  rw [he]
  dsimp only
  rw [hsh, Bool.false_and, if_neg Bool.false_ne_true, hback, outcome_when ⟨hdue, by simp [hheld, hbusy]⟩,
    checkEntry, run_look, hback]
  dsimp only
  rw [if_neg fun h => h.2.2 htag, if_neg Bool.false_ne_true]

/-- Settles O51: the layer's work step by step, the district's fault by `unitFault_fences`, and the pass by
what it leaves in the counters and accumulators. -/
theorem layersAndPasses : Obligations.LayersAndPasses := by
  unfold Obligations.LayersAndPasses
  refine ⟨fun s i o hr hclean hfree hreach hap => layerWork_worked hr hclean hfree hreach hap,
    fun s i o d m hlive hx hd he hp hf => layerParity_fences hlive hx hd he hp hf, ?_⟩
  intro s i o n v p e hx l es g x q r hen hsh hdue hback hlen _ hheld hbusy hret htag hsum hlast hfails hcals
  refine ⟨_, arrayPass_counts hx rfl hen hsh hdue hback hheld hbusy hret htag hsum hlast hfails hcals, ?_⟩
  have hin : (Prog.seq (passDone i n p l es e v (s.arr p).nExact s.lamp.thermStep x g.image r.devs)
      startCalibrations).Within [.regs 0x10, .dst] :=
    within_seq (within_passDone rfl) (within_startCalibrations rfl)
  have hch := onlyChanges_of_within hin s
  have hwrd : (Prog.run _ s).wrd = s.wrd := hin s .wrd rfl
  rw [run_seq] at hch hwrd
  have hcount := passDone_counts (i := i) n l es e v (s.arr p).nExact s.lamp.thermStep x g.image r.devs hlen
  dsimp only at hcount
  change (startCalibrations.run _).fld _ _ = _ ∧ _
  generalize (passDone i n p l es e v (s.arr p).nExact s.lamp.thermStep x g.image r.devs).run s = u at *
  obtain ⟨hfld, hlen', hcyc, hdone, hacc⟩ := hcount
  have hkeep : (startCalibrations.run u).rd F.DST_PASS_COUNT_COUNT.reg (districtOf p)
        = u.rd F.DST_PASS_COUNT_COUNT.reg (districtOf p) ∧ (startCalibrations.run u).dst.passes = u.dst.passes
      ∧ (startCalibrations.run u).dst.acc = u.dst.acc := by
    rw [startCalibrations, run_look, Prog.when]
    split <;> exact ⟨rfl, rfl, rfl⟩
  obtain ⟨hrd, hpasses, hacc'⟩ := hkeep
  refine ⟨?_, ?_, ?_, fun hv => hacc'.trans (hacc hv), hwrd, hch⟩
  · exact (fld_congr (f := F.DST_PASS_COUNT_COUNT) hrd).trans hfld
  · rcases arr_startCalibrations hlen' with h | h <;> rw [h] <;> exact hcyc
  · rw [State.passesDone, hpasses]
    exact hdone

end Sys2Proof.Machine
end

section
/-! PROOFS. Diverging reclaimers, watchdogs and granule limits (chapters 05 and 16): O21. -/

set_option Elab.async false

namespace Sys2Proof.Machine

variable {s t : State} {i u n m k : Nat} {o : OpenStop}

/-! ### The complement pairs that a stop's failure uses -/

/-- The pairs that a stop's failure, or a fault message in it, may find disagreeing. -/
def watched : List (Reg × Nat) :=
  (R.RCL_CTRL, 0) :: (R.BRG_XSIG, 0) :: (upTo 8).map fun n => (R.RCL_FAULTN_CODE, n)

/-- How many of them disagree. -/
def State.unmended (s : State) : Nat := watched.countP fun x => !s.pairOk x.1 x.2 0

/-- The stored words of these pairs, and the identity that their reset words depend on. -/
def State.watchedWords (s : State) : Ident × List (Option Nat) :=
  (s.ident, (watched.flatMap fun x => x.1.words x.2 0).map fun a => keyGet s.regs a)

theorem pairOk_congr_words {r : Reg} {i j : Nat} (hi : t.ident = s.ident)
    (h : ∀ a ∈ r.words i j, keyGet t.regs a = keyGet s.regs a) : t.pairOk r i j = s.pairOk r i j := by
  unfold Reg.words at h
  cases hr : r.rwp
  · simp [State.pairOk, hr]
  · simp only [hr, if_true, List.mem_cons, List.not_mem_nil, or_false, forall_eq_or_imp, forall_eq] at h
    simp [State.pairOk, State.rawReg, State.rawComp, hi, h]

theorem pairOk_setReg_self (s : State) (r : Reg) (v i j : Nat) :
    ((setReg r v i j).run s).pairOk r i j = true := by
  unfold setReg
  cases h : r.rwp
  · simp [State.pairOk, h]
  · simp only [if_true, run_seq, run_act]
    rw [State.pairOk, State.rawReg, State.rawComp, act_reg_regs, keyGet_keyPut_other (by omega),
      act_reg_regs, keyGet_keyPut_self, keyGet_keyPut_self, Option.getD_some, Option.getD_some,
      inv32_inv32]
    simp

theorem unmended_congr (h : t.watchedWords = s.watchedWords) : t.unmended = s.unmended := by
  refine List.countP_congr fun x hx => ?_
  rw [pairOk_congr_words (congrArg Prod.fst h) fun a ha =>
    List.map_inj_left.mp (congrArg Prod.snd h) a (List.mem_flatMap.mpr ⟨x, hx, ha⟩)]

theorem watched_apart : ∀ x ∈ watched, ∀ y ∈ watched, y = x ∨ ∀ a ∈ y.1.words y.2 0, a ∉ x.1.words x.2 0 := by
  decide +kernel

theorem countP_lt_of_mem {α : Type} {p q : α → Bool} {l : List α} {x : α} (hx : x ∈ l) (hp : p x = true)
    (hq : q x = false) (h : ∀ y ∈ l, q y = true → p y = true) : l.countP q < l.countP p := by
  induction l with
  | nil => cases hx
  | cons y l ih =>
    have hle := List.countP_mono_left fun z hz => h z (List.mem_cons_of_mem y hz)
    rw [List.countP_cons, List.countP_cons]
    rcases List.mem_cons.mp hx with rfl | hx
    · rw [hp, hq]
      simpa using Nat.lt_succ_of_le hle
    · have := ih hx fun z hz => h z (List.mem_cons_of_mem y hz)
      have := h y List.mem_cons_self
      split_ifs <;> simp_all

/-- The repair of a watched pair. -/
theorem unmended_mend {x : Reg × Nat} (hx : x ∈ watched) (h : s.pairOk x.1 x.2 0 = false) (v : Nat) :
    ((setReg x.1 v x.2).run s).unmended < s.unmended := by
  refine countP_lt_of_mem hx (by rw [h]; rfl) (by rw [pairOk_setReg_self]; rfl) fun y hy hbad => ?_
  rcases watched_apart x hx y hy with rfl | hap
  · rw [h]
    rfl
  · rwa [pairOk_congr_words (run_ident s _) fun a ha => keyGet_setReg_other (hap a ha)] at hbad

/-! ### A record that stays in the ring -/

/-- The record is in the ring, and later ones with the watched pairs that disagree number at most `n`;
what a fence reads is as given. -/
structure Logged (r : FaultRec) (c : Rcl) (n : Nat) (s : State) : Prop where
  core : s.rclCore = c
  live : s.live = true
  ring : ∃ l₁ l₂, s.ring = l₁ ++ r :: l₂ ∧ l₂.length + s.unmended ≤ n

variable {r : FaultRec} {c : Rcl}

theorem Logged.mono (h : Logged r c n s) (hn : n ≤ m) : Logged r c m s := by
  obtain ⟨hc, hl, l₁, l₂, hr, hk⟩ := h
  exact ⟨hc, hl, l₁, l₂, hr, hk.trans hn⟩

theorem Logged.congr (h : Logged r c n s) (hc : t.rclCore = s.rclCore) (hl : t.live = s.live)
    (hr : t.ring = s.ring) (hw : t.watchedWords = s.watchedWords) : Logged r c n t := by
  obtain ⟨hc', hl', l₁, l₂, hr', hk⟩ := h
  exact ⟨hc.trans hc', hl.trans hl', l₁, l₂, hr.trans hr', by rwa [unmended_congr hw]⟩

/-- The micro-program adds at most `k` records, apart from those of watched pairs. -/
def Costs (r : FaultRec) (c : Rcl) (k : Nat) (p : Prog) : Prop :=
  ∀ n s, n + k ≤ 62 → Logged r c n s → Logged r c (n + k) (p.run s)

section costs
variable {p q : Prog} {a b : Nat}

theorem costs_skip : Costs r c 0 .skip := fun _ _ _ h => h

theorem Costs.mono (hp : Costs r c a p) (h : a ≤ b) : Costs r c b p := fun n s hn hs =>
  (hp n s (by omega) hs).mono (by omega)

theorem costs_seq (hp : Costs r c a p) (hq : Costs r c b q) : Costs r c (a + b) (.seq p q) :=
  fun n s hn hs => by
    rw [run_seq, ← Nat.add_assoc]
    exact hq _ _ (by omega) (hp n s (by omega) hs)

theorem costs_look {f : State → Prog} (h : ∀ s, Costs r c k (f s)) : Costs r c k (.look f) :=
  fun n s => h s n s

theorem costs_ite {P : Prop} [Decidable P] (hp : Costs r c k p) (hq : Costs r c k q) :
    Costs r c k (if P then p else q) := by
  split
  · exact hp
  · exact hq

theorem costs_when {P : Prop} [Decidable P] (hp : Costs r c k p) : Costs r c k (Prog.when P p) :=
  costs_ite hp (costs_skip.mono k.zero_le)

theorem costs_all_nil : Costs r c 0 (Prog.all []) := costs_skip

theorem costs_all_cons {ps : List Prog} (hp : Costs r c a p) (hps : Costs r c b (Prog.all ps)) :
    Costs r c (a + b) (Prog.all (p :: ps)) := costs_seq hp hps

/-- What follows is free. -/
theorem costs_seq_left (hp : Costs r c k p) (hq : Costs r c 0 q) : Costs r c k (.seq p q) := costs_seq hp hq

/-- What comes first is free. -/
theorem costs_seq_right (hp : Costs r c 0 p) (hq : Costs r c k q) : Costs r c k (.seq p q) :=
  (costs_seq hp hq).mono (by omega)

theorem costs_all_free {ps : List Prog} (hp : Costs r c 0 p) (hps : Costs r c k (Prog.all ps)) :
    Costs r c k (Prog.all (p :: ps)) := costs_seq_right hp hps

theorem costs_each {β : Type} {l : List β} {f : β → Prog} (h : ∀ x, Costs r c k (f x)) :
    Costs r c (l.length * k) (Prog.each l f) := by
  induction l with
  | nil => exact costs_skip.mono (by simp)
  | cons x l ih =>
    refine (costs_seq (h x) ih).mono ?_
    rw [List.length_cons, Nat.succ_mul]
    omega

theorem costs_each_free {β : Type} {l : List β} {f : β → Prog} (h : ∀ x, Costs r c 0 (f x)) :
    Costs r c 0 (Prog.each l f) := (costs_each h).mono (by simp)

/-- A micro-program within these parts writes neither the ring, the reclaimer's state nor the two blocks
of the watched pairs. -/
def silent (W : List Part) : Bool :=
  [Part.ring, .rcl, .regs 0x70, .regs 0x90].all fun p => !coveredBy W p

theorem costs_of_live {W : List Part} (hp : p.Within W) (h : silent W = true) (hlive : p.Keeps State.live) :
    Costs r c 0 p := fun n s _ hs => by
  simp only [silent, List.all_cons, List.all_nil, Bool.and_true, Bool.and_eq_true, Bool.not_eq_true'] at h
  obtain ⟨hring, hrcl, h7, h9⟩ := h
  refine hs.congr (rclCore_of_rcl (hp s .rcl hrcl)) (hlive s) (hp s .ring hring).1 <|
    Prod.ext (run_ident s p) <| List.map_inj_left.mpr fun a ha => ?_
  have hslot : ∀ a ∈ watched.flatMap fun x => x.1.words x.2 0, regSlot a = 0x70 ∨ regSlot a = 0x90 := by
    decide +kernel
  rcases hslot a ha with h | h
  · exact hp s _ h7 a h
  · exact hp s _ h9 a h

theorem costs_of_within {W : List Part} (hp : p.Within W) (h : silent W = true)
    (hlamp : coveredBy W .lamp = false) : Costs r c 0 p :=
  costs_of_live hp h fun s => by rw [State.live, hp s .lamp hlamp]; rfl

end costs

/-! ### Fault messages -/

theorem ring_pushRing {l₁ l₂ : List FaultRec} (x : FaultRec) (h : l₂.length ≤ 62) :
    ∃ l, pushRing (l₁ ++ r :: l₂) x = l ++ r :: (l₂ ++ [x]) := by
  refine ⟨l₁.drop ((l₁ ++ r :: l₂).length - 63), ?_⟩
  rw [pushRing, List.append_assoc, List.drop_append_of_le_length]
  · rfl
  · rw [List.length_append, List.length_cons]
    omega

theorem setReg_watchedWords {q : Reg} {i j : Nat}
    (h : ∀ a ∈ watched.flatMap fun x => x.1.words x.2 0, a ∉ q.words i j) (v : Nat) :
    (setReg q v i j).Keeps State.watchedWords := fun s =>
  Prod.ext (run_ident s _) (List.map_inj_left.mpr fun a ha => keyGet_setReg_other (h a ha))

theorem watched_events : ∀ a ∈ watched.flatMap fun x => x.1.words x.2 0, a ∉ eventWords := by
  decide +kernel

theorem setEventBit_watchedWords (code : Nat) : (setEventBit code).Keeps State.watchedWords := by
  unfold setEventBit
  split
  · exact keeps_skip
  · next f k base hx =>
    exact keeps_when fun _ => keeps_look fun _ => setReg_watchedWords
      (fun a ha hw => watched_events a ha (eventField_words hx a hw)) _

theorem retWrite_watchedWords (a : Nat) (bs : List Byte) : (retWrite a bs).Keeps State.watchedWords :=
  keeps_look fun _ => keeps_all_cons (keeps_when fun _ _ => rfl) <|
    keeps_all_cons (keeps_when fun _ _ => rfl) <| keeps_all_cons (fun _ => rfl) keeps_all_nil

theorem takeMessage_watchedWords (code unit d q g st : Nat) :
    (takeMessage code unit d q g st).Keeps State.watchedWords := by
  have hlatch : ∀ a ∈ watched.flatMap fun x => x.1.words x.2 0, a ∉ R.RCL_FAULTN_LATCH.words 0 0 := by
    decide +kernel
  exact keeps_all_cons (keeps_look fun _ => keeps_all_cons (keeps_when fun _ _ => rfl) <|
      keeps_all_cons (fun _ => rfl) <| keeps_all_cons (keeps_when fun _ => retWrite_watchedWords _ _)
      keeps_all_nil) <|
    keeps_all_cons (setEventBit_watchedWords _) <| keeps_all_cons (keeps_look fun _ => keeps_each fun _ =>
      keeps_when fun _ => keeps_look fun _ => setReg_watchedWords hlatch _) keeps_all_nil

/-- The record of a fault message. -/
theorem takeMessage_ring (code unit d q g st : Nat) (s : State) :
    ∃ x : FaultRec, x.code = code ∧ x.unit = unit ∧ x.seq = s.nextSeq
      ∧ ((takeMessage code unit d q g st).run s).ring = pushRing s.ring x := by
  have hlatches : ∀ t : State, (Prog.each (upTo 8) fun n => Prog.when (t.faultnMatch code n = true)
      (setFBit F.RCL_FAULTN_LATCH_LATCH n true)).Keeps State.ring := fun t s =>
    (within_each (W := [.regs 0x90]) (fun _ => within_when (within_setFBit rfl (by decide +kernel))) s
      .ring rfl).1
  have hret : ∀ (P : Prop) [Decidable P] a bs, (Prog.when P (retWrite a bs)).Keeps State.ring :=
    fun _ _ _ _ s => (within_when (within_retWrite (partsLe_refl _)) s .ring rfl).1
  have hevent : (setEventBit code).Keeps State.ring := fun s =>
    (within_setEventBit (event_le code) s .ring rfl).1
  unfold takeMessage appendRecord
  generalize (if recoveryCodes.contains code then 2 else 0) = k
  refine ⟨⟨s.nextSeq, s.lamp.tick % 2 ^ 48, code, unit, q, if q = 0xFF then 0 else g, d % 2 ^ 32, st, k⟩,
    rfl, rfl, rfl, ?_⟩
  rw [run_all_cons, run_all_cons, run_all_cons, run_all_nil, run_look, run_look, run_all_cons,
    run_all_cons, run_all_cons, run_all_nil]
  refine (hlatches _ _).trans ((hevent _).trans ((hret _ _ _ _).trans ?_))
  by_cases h : 64 ≤ s.ring.length
  · rw [run_when_pos h]
    rfl
  · rw [run_when_neg h]
    rfl

theorem takeMessage_logged {code unit d q g st : Nat} (h : Logged r c n s) (hn : n ≤ 62) :
    Logged r c (n + 1) ((takeMessage code unit d q g st).run s) := by
  obtain ⟨x, -, -, -, hring⟩ := takeMessage_ring code unit d q g st s
  obtain ⟨hc, hl, l₁, l₂, hr, hk⟩ := h
  obtain ⟨l, hl'⟩ := ring_pushRing (r := r) (l₁ := l₁) (l₂ := l₂) x (by omega)
  refine ⟨(takeMessage_rclCore _ _ _ _ _ _ s).trans hc, ?_, l, l₂ ++ [x], ?_, ?_⟩
  · rw [State.live, show ((takeMessage code unit d q g st).run s).lamp.power = s.lamp.power from
      congrArg (a₁ := State.lampCore _) (a₂ := s.lampCore) Lamp.power (takeMessage_lampCore _ _ _ _ _ _ s)]
    exact hl
  · rw [hring, hr, hl']
  · rw [unmended_congr (takeMessage_watchedWords _ _ _ _ _ _ s), List.length_append]
    change l₂.length + 1 + _ ≤ _
    omega

theorem mend_logged {x : Reg × Nat} (hx : x ∈ watched) (hbad : s.pairOk x.1 x.2 0 = false) (v : Nat)
    (h : Logged r c n s) : 1 ≤ n ∧ Logged r c (n - 1) ((setReg x.1 v x.2).run s) := by
  obtain ⟨hc, hl, l₁, l₂, hr, hk⟩ := h
  have hmend := unmended_mend hx hbad v
  refine ⟨by omega, (setReg_rclCore _ _ _ _ s).trans hc, ?_, l₁, l₂, ?_, by omega⟩
  · rw [State.live, setReg_lamp]
    exact hl
  · rw [setReg_ring, hr]

theorem useFaultnCodes_costs : Costs r c 0 useFaultnCodes := by
  have hone : ∀ k < 8, (R.RCL_FAULTN_CODE, k) ∈ watched := by decide +kernel
  have heach : ∀ l : List Nat, (∀ k ∈ l, k < 8) → Costs r c 0 (Prog.each l fun n => .look fun s =>
      Prog.when (s.pairOk R.RCL_FAULTN_CODE n 0 = false) <| .seq
        (setReg R.RCL_FAULTN_CODE (resetWord s.ident R.RCL_FAULTN_CODE (R.RCL_FAULTN_CODE.at n 0)) n)
        (takeMessage 0x90FF unitNone (R.RCL_FAULTN_CODE.at n 0 % 0x10000) 0xFF 0 0xFF)) := by
    intro l
    induction l with
    | nil => exact fun _ => costs_skip
    | cons k l ih =>
      intro hl
      refine costs_seq (a := 0) (b := 0) (fun n s hn h => ?_) (ih fun x hx => hl x (List.mem_cons_of_mem k hx))
      rw [run_look]
      by_cases hbad : s.pairOk R.RCL_FAULTN_CODE k 0 = false
      · rw [run_when_pos hbad, run_seq]
        obtain ⟨h1, hm⟩ := mend_logged (hone k (hl k List.mem_cons_self)) hbad _ h
        exact (takeMessage_logged hm (by omega)).mono (by omega)
      · rw [run_when_neg hbad]
        exact h
  exact heach _ fun k hk => List.mem_range.mp hk

theorem raise_logged {code unit d q g st : Nat} (h : Logged r c n s) (hn : n ≤ 62) :
    Logged r c (n + 1) ((raise code unit d q g st).run s) := by
  rw [raise, run_seq]
  exact takeMessage_logged (useFaultnCodes_costs n s hn h) hn

theorem raise_costs (code unit d q g st : Nat) : Costs r c 1 (raise code unit d q g st) :=
  fun _ _ hn h => raise_logged h (by omega)

/-- A fault message mends no watched pair but those of the fault codes. -/
theorem raise_pairOk {x : Reg × Nat} (hx : x ∈ watched) (hne : x.1 ≠ R.RCL_FAULTN_CODE)
    (code unit d q g st : Nat) : (raise code unit d q g st).Keeps fun s => s.pairOk x.1 x.2 0 := by
  have htake : ∀ code unit d q g st, (takeMessage code unit d q g st).Keeps fun s => s.pairOk x.1 x.2 0 :=
    fun code unit d q g st s => pairOk_congr_words (run_ident s _) fun a ha =>
      List.map_inj_left.mp (congrArg Prod.snd (takeMessage_watchedWords code unit d q g st s :
        ((takeMessage code unit d q g st).run s).watchedWords = s.watchedWords)) a
        (List.mem_flatMap.mpr ⟨x, hx, ha⟩)
  refine keeps_seq (keeps_each_mem fun k hk => keeps_look fun _ => keeps_when fun _ =>
    keeps_seq (fun s => ?_) (htake _ _ _ _ _ _)) (htake _ _ _ _ _ _)
  have hmem : (R.RCL_FAULTN_CODE, k) ∈ watched :=
    List.mem_cons_of_mem _ (List.mem_cons_of_mem _ (List.mem_map.mpr ⟨k, hk, rfl⟩))
  refine pairOk_congr_words (run_ident s _) fun a ha => keyGet_setReg_other ?_
  rcases watched_apart _ hmem x hx with h | h
  · exact absurd (congrArg Prod.fst h) hne
  · exact h a ha


theorem usePair_costs {x : Reg × Nat} (hx : x ∈ watched) (hne : x.1 ≠ R.RCL_FAULTN_CODE) :
    Costs r c 0 (usePair x.1 x.2) := fun n s hn h => by
  rw [usePair, run_look]
  by_cases hbad : s.pairOk x.1 x.2 0 = false
  · rw [run_when_pos hbad, run_all_cons, run_all_cons, run_all_nil]
    obtain ⟨-, hm⟩ := mend_logged hx ((raise_pairOk hx hne _ _ _ _ _ _ s).trans hbad) _
      (raise_logged h (by omega))
    exact hm
  · rw [run_when_neg hbad]
    exact h

/-- A register of one copy is used alike under every index. -/
theorem usePair_single {q : Reg} (h1 : q.n1 = 1) (h2 : q.n2 = 1) (j l : Nat) : usePair q j l = usePair q := by
  have hat : q.at j l = q.at 0 0 := by
    rw [Reg.at, Reg.at, h1, h2, Nat.mod_one, Nat.mod_one, Nat.zero_mod]
  unfold usePair State.pairOk State.rawReg State.rawComp setReg
  rw [hat]

/-! ### What a stop's failure records -/

theorem retWrite_costs (a : Nat) (bs : List Byte) : Costs r c 0 (retWrite a bs) :=
  costs_of_live (within_retWrite (partsLe_refl _)) rfl fun s => by simp [State.live]

theorem putCrossing_costs (k : Nat) (x : Crossing) : Costs r c 0 (putCrossing k x) :=
  costs_look fun _ => costs_seq_right (costs_of_within (within_modXng (W := [.xng]) rfl) rfl rfl)
    (costs_when (retWrite_costs _ _))

theorem notifyWardens_costs : Costs r c 0 notifyWardens :=
  costs_of_within (within_notifyWardens (partsLe_refl _)) rfl rfl

theorem takeLock_costs (k base pages mode : Nat) (who : Holder) :
    Costs r c 0 (takeLock k base pages mode who) := by
  have hlease : ∀ a b d e f g, Costs r c 0 (takeLease a b d e f g) := fun _ _ _ _ _ _ =>
    costs_of_within (within_takeLease (partsLe_refl _)) rfl rfl
  have hctrl : Costs r c 0 (usePair R.RCL_CTRL) :=
    usePair_costs (x := (R.RCL_CTRL, 0)) (by decide +kernel) (by decide)
  refine costs_look fun _ =>
    costs_seq_right (costs_of_within (within_modAve (W := [.ave]) rfl) rfl rfl) ?_
  cases who with
  | queue q => exact hlease _ _ _ _ _ _
  | unit u => exact costs_seq_right hctrl (hlease _ _ _ _ _ _)
  | loader => exact hlease _ _ _ _ _ _

theorem freeLock_costs (k : Nat) : Costs r c 0 (freeLock k) :=
  costs_all_free (costs_of_within (within_modAve (W := [.ave]) rfl) rfl rfl) <|
  costs_all_free (costs_of_within (within_freeLease (partsLe_refl _)) rfl rfl) <|
  costs_all_free (costs_look fun _ => by
    split
    · exact costs_skip
    · exact costs_seq_right (costs_of_within (within_modAve (W := [.ave]) rfl) rfl rfl)
        (takeLock_costs _ _ _ _ _)) costs_all_nil

theorem releaseStands_costs (t : Nat) : Costs r c 0 (releaseStands t) :=
  costs_look fun _ => costs_seq_right (costs_each_free fun _ => costs_look fun _ => costs_look fun _ => by
    split
    · exact freeLock_costs _
    · exact costs_of_within (within_modAve (W := [.ave]) rfl) rfl rfl)
    (costs_of_within (within_modTrack (partsLe_refl _)) rfl rfl)

theorem dropUnitWork_costs (i : Nat) : Costs r c 0 (dropUnitWork i) :=
  costs_all_free (costs_of_within (within_modRas (W := [.ras]) rfl) rfl rfl) <|
  costs_all_free (costs_of_within (within_modRbt (W := [.rbt]) rfl) rfl rfl) <|
  costs_all_free (costs_of_within (within_modDst (W := [.dst]) rfl) rfl rfl) <|
  costs_all_free (costs_of_within (within_modBrg (W := [.brg]) rfl) rfl rfl) <|
  costs_all_free (costs_of_within (within_freeLease (partsLe_refl _)) rfl rfl) <|
  costs_all_free (costs_each_free releaseStands_costs) costs_all_nil

theorem regainCores_costs (i : Nat) : Costs r c 0 (regainCores i) :=
  costs_look fun _ => by
    split
    · exact costs_skip
    · exact costs_when <|
        costs_all_free (costs_when <| costs_of_live (within_requestPlls (partsLe_refl _)) rfl fun _ => rfl) <|
        costs_all_free (costs_each_free fun _ =>
          costs_of_within (within_takeLease (partsLe_refl _)) rfl rfl) <|
        costs_all_free (costs_of_within (within_modSlot (partsLe_refl _)) rfl rfl) <|
        costs_all_free (costs_each_free fun _ =>
          costs_of_within (within_resumeCore (partsLe_refl _)) rfl rfl) costs_all_nil

theorem releaseUnits_costs (i : Nat) : Costs r c 0 (releaseUnits i) :=
  costs_look fun _ => by
    split
    · exact costs_skip
    · exact costs_all_free (costs_each_free fun _ =>
          costs_of_within (within_freeLease (partsLe_refl _)) rfl rfl) <|
        costs_all_free (dropUnitWork_costs i) <|
        costs_all_free (costs_of_within (within_modSlot (partsLe_refl _)) rfl rfl) <|
        costs_all_free (costs_each_free regainCores_costs) <|
        costs_all_free (costs_of_within (within_startCalibrations (partsLe_refl _)) rfl rfl) costs_all_nil

theorem refuseSignal_costs (n code : Nat) : Costs r c 1 (refuseSignal n code) :=
  costs_seq_right (costs_ite
    (costs_of_within (W := [.regs 6]) (within_setF rfl (by decide +kernel)) rfl rfl)
    (costs_of_within (W := [.regs 6]) (within_setF rfl (by decide +kernel)) rfl rfl))
    (raise_costs _ _ _ _ _ _)

theorem checkCrossing_costs (n : Nat) : Costs r c 1 (checkCrossing n) := by
  refine costs_look fun _ => costs_when <| costs_seq_left (raise_costs _ _ _ _ _ _) <|
    costs_all_free (costs_of_within (W := [.regs 6]) (within_setF rfl (by decide +kernel)) rfl rfl) <|
    costs_all_free (costs_of_within (W := [.regs 6]) (within_setF rfl (by decide +kernel)) rfl rfl) <|
    costs_all_free (costs_ite (putCrossing_costs _ _) <| costs_ite (putCrossing_costs _ _) <|
      costs_ite (costs_seq_right ?_ (putCrossing_costs _ _)) (putCrossing_costs _ _)) <|
    costs_all_free notifyWardens_costs costs_all_nil
  exact costs_of_within (within_freeMutexRecord (partsLe_refl _)) rfl rfl

theorem exportSignal_costs (n v : Nat) (failed : Bool) : Costs r c 0 (exportSignal n v failed) := by
  refine costs_seq_right (fun n s hn h => ?_) (costs_look fun s => ?_)
  · rw [useRegs, run_look]
    have heach : ∀ l : List RegHit, (∀ h ∈ l, h.r = R.BRG_XSIG) →
        Costs r c 0 (Prog.each l fun h => usePair h.r h.i h.j) := fun l => by
      induction l with
      | nil => exact fun _ => costs_skip
      | cons x l ih =>
        intro hl
        refine costs_seq_right ?_ (ih fun y hy => hl y (List.mem_cons_of_mem x hy))
        change Costs r c 0 (usePair x.r x.i x.j)
        rw [hl x List.mem_cons_self, usePair_single rfl rfl]
        exact usePair_costs (x := (R.BRG_XSIG, 0)) (by decide +kernel) (by decide)
    refine heach _ (fun x hx => ?_) n s hn h
    have hmem := (List.mem_filter.mp hx).2
    rw [Bool.and_eq_true, List.contains_iff_mem] at hmem
    exact List.mem_singleton.mp hmem.1
  · split
    · exact costs_skip
    · exact costs_when (costs_of_within (within_sendPkt (partsLe_refl _)) rfl rfl)

theorem changeCounter_costs (n v : Nat) (failed set : Bool) : Costs r c 0 (changeCounter n v failed set) :=
  costs_look fun _ => costs_all_free (putCrossing_costs _ _) <| costs_all_free notifyWardens_costs <|
    costs_all_free (exportSignal_costs _ _ _) costs_all_nil

theorem deviceEvent_costs (n : Nat) (failed : Bool) : Costs r c 1 (deviceEvent n failed) :=
  costs_seq_left (checkCrossing_costs n) <|
    costs_all_free (costs_of_within (within_modXng (W := [.xng]) rfl) rfl rfl) <|
    costs_all_free (costs_look fun _ => changeCounter_costs _ _ _ _) costs_all_nil

theorem signalCounter_costs (n operand : Nat) (set failed : Bool) :
    Costs r c 2 (signalCounter n operand set failed) :=
  costs_ite ((refuseSignal_costs _ _).mono (by omega)) <|
    costs_seq (a := 1) (b := 1) (checkCrossing_costs n) <| costs_look fun _ =>
      costs_ite (refuseSignal_costs _ _) <| costs_ite (costs_skip.mono (by omega)) <|
        (changeCounter_costs _ _ _ _).mono (by omega)

theorem signalRelease_costs (n q : Nat) : Costs r c 2 (signalRelease n q) :=
  costs_ite ((refuseSignal_costs _ _).mono (by omega)) <|
    costs_seq (a := 1) (b := 1) (checkCrossing_costs n) <| costs_look fun _ =>
      costs_ite (refuseSignal_costs _ _) <| costs_ite (costs_skip.mono (by omega)) <|
        costs_ite (Costs.mono (a := 0) (costs_all_free
            (costs_of_within (within_freeMutexRecord (partsLe_refl _)) rfl rfl) <|
          costs_all_free (putCrossing_costs _ _) <| costs_all_free notifyWardens_costs costs_all_nil)
            (by omega)) <|
        costs_seq_right (costs_of_within (W := [.regs 6]) (within_setF rfl (by decide +kernel)) rfl rfl)
          (raise_costs _ _ _ _ _ _)

theorem slotSignal_costs (i k : Nat) (g : Slot) (q : Nat) (failed : Bool) :
    Costs r c 2 (slotSignal i k g q failed) :=
  costs_look fun _ => costs_when <| costs_seq_left
    (costs_ite (costs_skip.mono (by omega)) <| costs_ite (signalCounter_costs _ _ _ _) <|
      costs_ite (signalCounter_costs _ _ _ _) <| costs_ite (signalRelease_costs _ _) <|
      costs_ite ((refuseSignal_costs _ _).mono (by omega)) ((refuseSignal_costs _ _).mono (by omega)))
    (costs_of_within (within_modSlot (partsLe_refl _)) rfl rfl)

theorem failSignals_costs (i : Nat) (st : Stop) : Costs r c 8 (failSignals i st) := by
  have hsome : ∀ P : Nat × Slot → Bool, Costs r c 4 (Prog.each
      ([(0, st.sig0), (1, st.sig1)].filter P) fun x => slotSignal i x.1 x.2 st.queue true) := fun P =>
    (costs_each fun _ => slotSignal_costs _ _ _ _ _).mono
      (Nat.mul_le_mul_right 2 (List.length_filter_le _ _))
  exact costs_seq (a := 4) (b := 4) (hsome _) (hsome _)

theorem settleInvalidations_costs : Costs r c 15 settleInvalidations :=
  costs_look fun _ => costs_all_free (costs_of_within (within_modXlt (W := [.xlt]) rfl) rfl rfl) <|
    costs_all_free (costs_each_free fun _ =>
      costs_of_within (within_bumpGeneration (partsLe_refl _)) rfl rfl) <|
    costs_seq_left (by
      refine Costs.mono (a := ((upTo 16).filter (0 < ·)).length * 1) (costs_each fun _ => ?_) (by decide)
      exact costs_look fun _ => costs_when <|
        costs_all_free (costs_of_within (W := [.regs 4]) (within_setReg rfl (by decide +kernel)) rfl rfl) <|
        costs_all_free (costs_of_within (W := [.regs 4]) (within_setF rfl (by decide +kernel)) rfl rfl) <|
        costs_seq_left (deviceEvent_costs _ _) costs_all_nil) costs_all_nil

theorem fallbackStep_costs : Costs r c 16 fallbackStep := by
  have hlink : ∀ f, Costs r c 0 (modBrg f) := fun _ =>
    costs_of_within (within_modBrg (W := [.brg]) rfl) rfl rfl
  refine costs_look fun _ => costs_when ?_
  split
  · exact (hlink _).mono (by omega)
  · split
    · exact (hlink _).mono (by omega)
    · exact costs_all_free (costs_each_free fun _ =>
          costs_of_within (within_freeRunList (partsLe_refl _)) rfl rfl) <|
        costs_all_free (costs_of_within (within_modXlt (W := [.xlt]) rfl) rfl rfl) <|
        costs_all_free (costs_of_within (within_modWrd (W := [.wrd]) rfl) rfl rfl) <|
        costs_all_free (costs_each_free fun _ =>
          costs_of_within (within_updateShadow (partsLe_refl _)) rfl rfl) <|
        costs_all_free (hlink _) <|
        costs_all_free (costs_of_within (within_modBoot (W := [.boot]) rfl) rfl rfl) <|
        costs_all_cons (a := 1) (b := 15) (costs_when (raise_costs _ _ _ _ _ _)) <|
        costs_all_free (costs_of_within (within_selectRouteSection (partsLe_refl _)) rfl rfl) <|
        costs_all_free (costs_of_within (within_startRoute (partsLe_refl _)) rfl rfl) <|
        costs_seq_left settleInvalidations_costs costs_all_nil

theorem parkWithdrawn_costs : Costs r c 0 parkWithdrawn :=
  costs_look fun _ => costs_when <| costs_seq_right (costs_when (retWrite_costs _ _)) <|
    costs_of_live (within_modLamp (W := [.lamp]) rfl) rfl fun _ => rfl

theorem afterStop_costs (q : Nat) : Costs r c 31 (afterStop q) :=
  costs_all_free (costs_of_within (within_settleQueue (partsLe_refl _)) rfl rfl) <|
  costs_all_cons (a := 15) (b := 16) settleInvalidations_costs <|
  costs_seq_left fallbackStep_costs <| costs_all_free parkWithdrawn_costs costs_all_nil

/-- A stop's failure leaves at most 39 records in the ring besides those of the pairs it mends. -/
theorem failStop_costs (i code : Nat) : Costs r c 39 (failStop i code) := by
  refine costs_look fun _ => ?_
  split
  · exact costs_skip.mono (by omega)
  · exact costs_all_free (costs_of_within (within_poisonOutputs (partsLe_refl _)) rfl rfl) <|
      costs_all_free (releaseUnits_costs i) <|
      costs_all_cons (a := 8) (b := 31) (failSignals_costs i _) <|
      costs_all_free (costs_of_within (within_recordFail (partsLe_refl _)) rfl rfl) <|
      costs_all_free (costs_of_within (within_freeRunList (partsLe_refl _)) rfl rfl) <|
      costs_all_free (costs_of_within (within_setSlot (partsLe_refl _)) rfl rfl) <|
      costs_all_free (costs_of_within (within_updateShadow (partsLe_refl _)) rfl rfl) <|
      costs_all_free (costs_when (costs_of_within (within_modQueue (partsLe_refl _)) rfl rfl)) <|
      costs_all_free (costs_when (costs_of_within (within_haltQueue (partsLe_refl _)) rfl rfl)) <|
      costs_seq_left (afterStop_costs _) costs_all_nil


/-! ### A slot stays empty in a unit's recovery -/

theorem slotEmpty_of_within {p : Prog} {W : List Part} (hp : p.Within W) (hw : coveredBy W .wrd = false) :
    p.Preserves (State.slotEmpty i) := fun s => slotEmpty_of_slots (congrArg Wrd.slots (hp s .wrd hw))

theorem setSlot_none_preserves (j : Nat) : (setSlot j none).Preserves (State.slotEmpty i) := fun s h => by
  rw [State.slotEmpty, State.slotOf, setSlot, run_modWrd, act_wrd_wrd, nth_upd]
  split
  · rfl
  · exact h

theorem haltQueue_slotEmpty (q : Nat) : (haltQueue q).Preserves (State.slotEmpty i) :=
  preserves_look fun _ => preserves_when (modQueue_slotEmpty _ _)

theorem failStop_preserves_slotEmpty (j code : Nat) : (failStop j code).Preserves (State.slotEmpty i) := by
  have hl := slotEmpty_lasting i
  refine preserves_look fun _ => ?_
  split
  · exact preserves_skip
  · exact preserves_all_cons (slotEmpty_of_within (within_poisonOutputs (partsLe_refl _)) rfl) <|
      preserves_all_cons (releaseUnits_lasting hl _) <| preserves_all_cons (failSignals_lasting hl _ _) <|
      preserves_all_cons (slotEmpty_of_within (within_recordFail (partsLe_refl _)) rfl) <|
      preserves_all_cons (freeRunList_lasting hl _) <| preserves_all_cons (setSlot_none_preserves _) <|
      preserves_all_cons (hl.shadow _) <| preserves_all_cons (preserves_when (modQueue_slotEmpty _ _)) <|
      preserves_all_cons (preserves_when (haltQueue_slotEmpty _)) <|
      preserves_all_cons (afterStop_slotEmpty _) preserves_all_nil

theorem declareAbsent_slotEmpty : declareAbsent.Preserves (State.slotEmpty i) := by
  have hl := slotEmpty_lasting i
  have hhalt : haltAll.Preserves (State.slotEmpty i) := preserves_each haltQueue_slotEmpty
  have hbreak : breakImports.Preserves (State.slotEmpty i) := by
    refine preserves_seq (preserves_look fun _ => preserves_when <| preserves_all_cons
      (raise_lasting hl _ _ _ _ _ _) <| preserves_all_cons (setReg_slotEmpty _ _ _ _) preserves_all_nil) ?_
    refine preserves_look fun _ => preserves_when <| preserves_seq
      (preserves_each fun _ => preserves_look fun _ => ?_) hl.waits
    exact preserves_when (putCrossing_lasting hl _ _)
  refine preserves_look fun _ => preserves_all_cons (fun _ h => h) <|
    preserves_all_cons (setReg_slotEmpty _ _ _ _) <| preserves_all_cons (raise_lasting hl _ _ _ _ _ _) <|
    preserves_all_cons (preserves_when (deviceEvent_lasting hl _ _)) <|
    preserves_all_cons hbreak <|
    preserves_all_cons (preserves_look fun _ => preserves_each fun _ =>
      preserves_all_cons (fun _ h => h) <| preserves_all_cons (fun _ h => h) <|
      preserves_all_cons (raise_lasting hl _ _ _ _ _ _) <|
      preserves_all_cons (failStop_preserves_slotEmpty _ _) preserves_all_nil) <|
    preserves_all_cons (preserves_ite hhalt <| preserves_when <| preserves_all_cons (fun _ h => h) <|
      preserves_all_cons hhalt <| preserves_all_cons fallbackStep_slotEmpty preserves_all_nil)
    preserves_all_nil

theorem camPublish_slotEmpty (f : CamFrame) (crc repeats : Nat) :
    (camPublish f crc repeats).Preserves (State.slotEmpty i) := by
  have hl := slotEmpty_lasting i
  have hset : ∀ f v, (setF f v).Preserves (State.slotEmpty i) := fun _ _ =>
    preserves_look fun _ => setReg_slotEmpty _ _ _ _
  refine preserves_look fun _ => preserves_all_cons (setReg_slotEmpty _ _ _ _) <|
    preserves_all_cons (deviceEvent_lasting hl _ _) <| preserves_all_cons (hset _ _) <|
    preserves_all_cons (hset _ _) <| preserves_all_cons (hset _ _) <|
    preserves_all_cons (fun _ h => h) <| preserves_all_cons (preserves_look fun _ => ?_) preserves_all_nil
  dsimp only
  exact preserves_when <| preserves_seq (hset _ _) (raise_lasting hl _ _ _ _ _ _)

theorem camClose_slotEmpty (incomplete : Bool) : (camClose incomplete).Preserves (State.slotEmpty i) := by
  have hset : ∀ f v, (setF f v).Preserves (State.slotEmpty i) := fun _ _ =>
    preserves_look fun _ => setReg_slotEmpty _ _ _ _
  have hbump : ∀ f n, (bump f n).Preserves (State.slotEmpty i) := fun _ _ => preserves_look fun _ => hset _ _
  have hstore : ∀ a bs, (paStore a bs).Preserves (State.slotEmpty i) := fun _ _ =>
    slotEmpty_of_within (within_paStore (partsLe_refl _)) rfl
  have hraise : ∀ code u d k, (raiseSecond code u d k).Preserves (State.slotEmpty i) := fun _ _ _ _ =>
    preserves_look fun _ => preserves_when <| preserves_seq (fun _ h => h)
      (raise_lasting (slotEmpty_lasting i) _ _ _ _ _ _)
  refine preserves_look fun _ => ?_
  split
  · exact preserves_skip
  · exact preserves_all_cons (hstore _ _) <| preserves_all_cons (hstore _ _) <|
      preserves_all_cons (fun _ h => h) <| preserves_all_cons (hset _ _) <|
      preserves_all_cons (preserves_look fun _ => preserves_all_cons (hstore _ _) <|
        preserves_all_cons (slotEmpty_of_within (within_cleanRange (partsLe_refl _)) rfl) <|
        preserves_all_cons (preserves_when (hraise _ _ _ _)) <|
        preserves_all_cons (preserves_when (hraise _ _ _ _)) <|
        preserves_all_cons (preserves_when (hraise _ _ _ _)) <|
        preserves_all_cons (preserves_look fun _ => preserves_seq (preserves_when (hset _ _)) <|
          preserves_ite (preserves_seq (preserves_when (hbump _ _)) (preserves_when (hbump _ _)))
            (camPublish_slotEmpty _ _ _)) preserves_all_nil) <|
      preserves_all_cons (preserves_when <| preserves_seq (hset _ _) fun _ h => h) preserves_all_nil

theorem slotEmpty_of_reset (h : s.wrd = Wrd.reset) : s.slotEmpty i := by
  rw [State.slotEmpty, State.slotOf, h]
  change nth none (List.replicate 64 none) i = none
  rw [nth, List.getD_eq_getElem?_getD, List.getElem?_replicate]
  split <;> rfl

theorem escalate_slotEmpty : escalate.Preserves (State.slotEmpty i) := by
  have haway : ∀ {p : Prog} {W : List Part}, p.Within W → coveredBy W .wrd = false →
      p.Preserves (State.slotEmpty i) := slotEmpty_of_within
  have hreset : logicReset.Preserves (State.slotEmpty i) := by
    refine preserves_look fun s => preserves_all_cons
      (haway (within_clearLogicRegs (partsLe_refl _)) rfl) ?_
    intro t _
    exact slotEmpty_of_reset rfl
  refine preserves_look fun _ => preserves_when <| preserves_seq (fun _ h => h) <| preserves_seq
    (preserves_look fun _ => preserves_look fun _ => setReg_slotEmpty _ _ _ _) <|
    preserves_all_cons (haway (within_recordCause (partsLe_refl _)) rfl) <|
    preserves_all_cons (preserves_when <| haway (within_dropPending (partsLe_refl _)) rfl) <|
    preserves_all_cons hreset <| preserves_all_cons (fun _ h => h) <|
    preserves_all_cons (haway (within_releaseLogic (partsLe_refl _)) rfl) preserves_all_nil

theorem fencedNow_slotEmpty (u : Nat) : (fencedNow u).Preserves (State.slotEmpty i) :=
  preserves_look fun _ => preserves_ite
    (preserves_when <| preserves_seq (camClose_slotEmpty _) <| preserves_look fun _ =>
      setReg_slotEmpty _ _ _ _) <|
    preserves_ite (preserves_seq (slotEmpty_of_within (within_stopOutput (partsLe_refl _)) rfl) <|
      preserves_look fun _ => preserves_when <| preserves_seq (fun _ h => h)
        (slotEmpty_of_within (within_finishStop (partsLe_refl _)) rfl)) <|
    preserves_ite (preserves_seq (fun _ h => h) (preserves_when declareAbsent_slotEmpty)) preserves_skip

theorem fenceUnits_slotEmpty (us : List Nat) (code status : Nat) :
    (fenceUnits us code status).Preserves (State.slotEmpty i) :=
  preserves_look fun _ => preserves_when <| preserves_all_cons (fun _ h => h) <|
    preserves_all_cons (fun _ h => h) <| preserves_all_cons (preserves_when <|
      preserves_seq (raise_lasting (slotEmpty_lasting i) _ _ _ _ _ _) escalate_slotEmpty) preserves_all_nil

theorem recoverWith_slotEmpty (u code status : Nat) : (recoverWith u code status).Preserves (State.slotEmpty i) :=
  preserves_ite
    (preserves_look fun _ => preserves_when <| preserves_all_cons (fun _ h => by
      split <;> exact h) <| preserves_all_cons (fun _ h => h) <|
      preserves_all_cons (preserves_when escalate_slotEmpty) preserves_all_nil) <|
  preserves_ite (preserves_look fun _ => preserves_seq (fenceUnits_slotEmpty _ _ _) <| preserves_when <|
    preserves_each fencedNow_slotEmpty) <|
  preserves_ite (preserves_ite
    (preserves_seq (raise_lasting (slotEmpty_lasting i) _ _ _ _ _ _) <|
      preserves_seq (preserves_look fun _ => setReg_slotEmpty _ _ _ _) escalate_slotEmpty)
    escalate_slotEmpty) <|
  preserves_ite escalate_slotEmpty preserves_skip

/-! ### The obligations' commands -/

theorem logicSideReset_pairOk (bit : Nat) :
    (logicSideReset bit).Preserves fun s => s.rcl.pairOk = false := by
  have haway : ∀ {p : Prog} {W : List Part}, p.Within W → coveredBy W .rcl = false →
      p.Preserves fun s => s.rcl.pairOk = false := fun hp hw s h =>
    (congrArg Rcl.pairOk (hp s .rcl hw)).trans h
  refine preserves_all_cons (haway (within_recordCause (partsLe_refl _)) rfl) <|
    preserves_all_cons (preserves_when <| haway (within_dropPending (partsLe_refl _)) rfl) <|
    preserves_all_cons (preserves_look fun s => preserves_all_cons
      (haway (within_clearLogicRegs (partsLe_refl _)) rfl) ?_) <|
    preserves_all_cons (fun _ h => h) <|
    preserves_all_cons (haway (within_releaseLogic (partsLe_refl _)) rfl) preserves_all_nil
  exact fun _ h => h

theorem reclaimerDivergence_restarts (hs : s.Sound) (hlive : s.live = true)
    (hok : s.rcl.pairOk = true) : ∃ t, exec .reclaimerDivergence s = .next t
      ∧ s.restarted t causeEscalate ∧ t.rcl.pairOk = false := by
  refine ⟨_, outcome_when ⟨hlive, hok⟩ _ _, ?_⟩
  rw [run_all_cons, run_all_cons, run_all_cons, run_all_nil]
  obtain ⟨v, hv⟩ : ∃ v, (raise 0x9001 unitNone).run s = v := ⟨_, rfl⟩
  rw [hv]
  refine ⟨restarted_of_keeps (logicSideReset_restarted (run_sound _ (hv ▸ run_sound _ hs)) (by decide))
    ?_ ?_ ?_, logicSideReset_pairOk _ _ rfl⟩
  · exact hv ▸ raise_lampCore _ _ _ _ _ _ s
  · rw [run_modRcl, act_rcl_flash, ← hv, raise_flash]
  · rw [run_modRcl, act_rcl_otp, ← hv, raise_otp]

theorem raise_starts (code unit d q g st : Nat) (hlive : s.live = true) : ∃ r : FaultRec, r.code = code
    ∧ r.unit = unit ∧ s.nextSeq ≤ r.seq
    ∧ Logged r s.rclCore 10 ((raise code unit d q g st).run s) := by
  obtain ⟨r, hcode, hunit, hseq, hring⟩ := takeMessage_ring code unit d q g st (useFaultnCodes.run s)
  have hlast : ((raise code unit d q g st).run s).ring
      = (useFaultnCodes.run s).ring.drop ((useFaultnCodes.run s).ring.length - 63) ++ [r] := by
    rw [raise, run_seq, hring, pushRing, List.drop_append_of_le_length (Nat.sub_le _ _)]
  have hfew : ((raise code unit d q g st).run s).unmended ≤ 10 := List.countP_le_length
  exact ⟨r, hcode, hunit, (useFaultnCodes_nextSeq s).trans_eq hseq.symm,
    raise_rclCore _ _ _ _ _ _ s, (raise_live _ _ _ _ _ _ s).trans hlive, _, [], hlast, by
      rwa [List.length_nil, Nat.zero_add]⟩

theorem stopWatchdog_fails (hlive : s.live = true) (hslot : s.slotOf i = some o) (hu : o.units = [])
    (hw : o.withdraw = none) (hdue : s.brg.fallbackDue = false) :
    ∃ t, exec (.stopWatchdogExpire i u) s = .next t ∧ t.slotOf i = none
      ∧ t.rd R.WRD_Q_LASTFAIL o.stop.queue = o.stop.tag % 2 ^ 16 + 6 * 2 ^ 16 := by
  rw [show exec (.stopWatchdogExpire i u) s = execStopWatchdogExpire i u s from rfl,
    execStopWatchdogExpire, hslot]
  refine ⟨_, outcome_when ⟨hlive, .inl hu⟩ _ _, ?_⟩
  rw [run_all_cons, run_all_cons, run_all_cons, run_all_cons, run_all_nil, run_when_neg (by simp [hu]),
    run_skip]
  refine ⟨failStop_slotEmpty _ _ _, (failStop_lastFail ?_ hw ?_ (by decide)).1⟩
  · rw [State.slotOf, raise_wrd, setF_wrd]
    exact hslot
  · rw [raise_brg, setF_brg]
    exact hdue

theorem stopWatchdog_fences (hlive : s.live = true) (hslot : s.slotOf i = some o)
    (hu : o.units.contains u = true) (h1 : 12 ≤ u) (h2 : u < 28) (he : s.rcl.escalating = false)
    (hp : s.rcl.pending.length < 8) (hf : u ∉ s.rcl.fenced) :
    ∃ t, exec (.stopWatchdogExpire i u) s = .next t ∧ t.slotOf i = none
      ∧ t.rcl.fenced = s.rcl.fenced ++ [u] ∧ s.reports t 0x0505 u := by
  have hne : o.units ≠ [] := fun h => by simp [h] at hu
  rw [show exec (.stopWatchdogExpire i u) s = execStopWatchdogExpire i u s from rfl,
    execStopWatchdogExpire, hslot]
  refine ⟨_, outcome_when ⟨hlive, .inr hu⟩ _ _, ?_⟩
  rw [run_all_cons, run_all_cons, run_all_cons, run_all_cons, run_all_nil, run_when_pos hne, if_neg hne]
  have hset : (setF F.WRD_EVENT_STOP_TIMEOUT 1).Within [.regs 5] := within_setF rfl (by decide +kernel)
  obtain ⟨v, hv⟩ : ∃ v, (setF F.WRD_EVENT_STOP_TIMEOUT 1).run s = v := ⟨_, rfl⟩
  have hvlive : v.live = true := by
    rw [State.live, ← hv, setF_lamp]
    exact hlive
  obtain ⟨r, hcode, hunit, hseq, hlog⟩ := raise_starts 0x0505 u 0 o.stop.queue o.stop.tag 6 hvlive
  rw [hv]
  have hempty := failStop_slotEmpty i 6 ((raise 0x0505 u 0 o.stop.queue o.stop.tag 6).run v)
  have hend := failStop_costs i 6 10 _ (by decide) hlog
  generalize (failStop i 6).run _ = w at hempty hend ⊢
  obtain ⟨hcore, hwlive, l₁, l₂, hring, -⟩ := hend
  have hrcl : w.rclCore = s.rclCore := hcore.trans (rclCore_of_rcl (hv ▸ hset s .rcl rfl))
  have hfenced : w.rcl.fenced = s.rcl.fenced :=
    congrArg (a₁ := w.rclCore) (a₂ := s.rclCore) Rcl.fenced hrcl
  have hpending : w.rcl.pending = s.rcl.pending :=
    congrArg (a₁ := w.rclCore) (a₂ := s.rclCore) Rcl.pending hrcl
  have hesc : w.rcl.escalating = s.rcl.escalating :=
    congrArg (a₁ := w.rclCore) (a₂ := s.rclCore) Rcl.escalating hrcl
  rw [fence_tile h1 h2 hwlive (hesc.trans he) (hpending ▸ hp) (hfenced ▸ hf), run_seq]
  refine ⟨hempty, ?_, r, ?_, hcode, hunit, ?_⟩
  · rw [← hfenced]
    rfl
  · exact hring ▸ List.mem_append_right _ List.mem_cons_self
  · exact (show s.nextSeq = v.nextSeq by rw [← hv, setF_nextSeq]).trans_le hseq

theorem granuleOverrun_counted {core ticks : Nat} (hcore : s.coreSlot core = some o) :
    ∃ t, exec (.granuleOverrun core ticks) s = .next t ∧ t.fld F.WRD_EVENT_GRAN_OVER = 1
      ∧ s.reports t 0x0503 (unitTile core) ∧ s.fld F.WRD_GRAN_MAX_TICKS ≤ t.fld F.WRD_GRAN_MAX_TICKS
      ∧ s.onlyChanges [.mem .retA, .mem .retB, .regs 0x05, .regs 0x90, .ring, .lamp, .rcl] t := by
  suffices h : ∃ t, exec (.granuleOverrun core ticks) s = .next t ∧ t.fld F.WRD_EVENT_GRAN_OVER = 1
      ∧ s.reports t 0x0503 (unitTile core)
      ∧ s.fld F.WRD_GRAN_MAX_TICKS ≤ t.fld F.WRD_GRAN_MAX_TICKS by
    obtain ⟨t, ht, h1, h2, h3⟩ := h
    exact ⟨t, ht, h1, h2, h3, exec_onlyChanges ht⟩
  rw [show exec (.granuleOverrun core ticks) s = execGranuleOverrun core ticks s from rfl,
    execGranuleOverrun, hcore]
  refine ⟨_, rfl, ?_⟩
  rw [run_all_cons, run_all_cons, run_all_cons, run_all_nil]
  have hmax := rd_of_wordsOf (setF_wordsOf (f := F.WRD_EVENT_GRAN_OVER) (r := R.WRD_GRAN_MAX)
    (by decide) 1 s)
  have hset : ((setF F.WRD_EVENT_GRAN_OVER 1).run s).fld F.WRD_EVENT_GRAN_OVER = 1 :=
    (fld_setF_self _ _ rfl _ _ _).trans rfl
  have hseq := setF_nextSeq s F.WRD_EVENT_GRAN_OVER 1 0 0
  generalize (setF F.WRD_EVENT_GRAN_OVER 1).run s = v at hmax hset hseq ⊢
  have hkept := rd_of_wordsOf (keepMax_wordsOf (f := F.WRD_GRAN_MAX_TICKS) (r := R.WRD_EVENT)
    (by decide) (max 64 ticks) v)
  have hle := fld_le_keepMax (s := v) (f := F.WRD_GRAN_MAX_TICKS) rfl (max 64 ticks)
  have hseq' : ((keepMax F.WRD_GRAN_MAX_TICKS (max 64 ticks)).run v).nextSeq = v.nextSeq :=
    (within_keepMax (W := [.regs 5]) rfl (by decide +kernel) v .ring rfl).2
  generalize (keepMax F.WRD_GRAN_MAX_TICKS (max 64 ticks)).run v = w at hkept hle hseq' ⊢
  have hevent := raise_rd_quiet (r := R.WRD_EVENT) (i := 0) (j := 0) ⟨rfl, by decide, by decide +kernel⟩
    0x0503 (unitTile core) 0 o.stop.queue o.stop.tag 0xFF w
  have hgran := raise_rd_quiet (r := R.WRD_GRAN_MAX) (i := 0) (j := 0) ⟨rfl, by decide, by decide +kernel⟩
    0x0503 (unitTile core) 0 o.stop.queue o.stop.tag 0xFF w
  refine ⟨?_, reports_after (hseq'.trans hseq), ?_⟩
  · exact (fld_congr (f := F.WRD_EVENT_GRAN_OVER) hevent).trans
      ((fld_congr (f := F.WRD_EVENT_GRAN_OVER) hkept).trans hset)
  · exact (fld_congr (f := F.WRD_GRAN_MAX_TICKS) hmax).symm.trans_le
      (hle.trans_eq (fld_congr (f := F.WRD_GRAN_MAX_TICKS) hgran).symm)

theorem granuleAbort_ends {core : Nat} (hcore : s.coreSlot core = some o) :
    ∃ t, exec (.granuleAbort core) s = .next t ∧ t.slotOf o.slot = none := by
  rw [show exec (.granuleAbort core) s = execGranuleAbort core s from rfl, execGranuleAbort, hcore]
  refine ⟨_, rfl, ?_⟩
  rw [run_all_cons, run_all_cons, run_all_cons, run_all_cons, run_all_cons, run_all_nil]
  exact recoverWith_slotEmpty _ _ _ _ (failStop_slotEmpty _ _ _)

/-- Settles O21: the watchdog's report outlives the stop's failure, whose records are few. -/
theorem divergenceWatchdogsAndGranules : Obligations.DivergenceWatchdogsAndGranules := by
  unfold Obligations.DivergenceWatchdogsAndGranules
  refine ⟨fun s hs hlive hok => reclaimerDivergence_restarts hs hlive hok,
    fun s hd => ⟨_, outcome_when hd _ _, rfl⟩,
    fun s i u o hlive hslot => ⟨fun hu hw hdue => stopWatchdog_fails hlive hslot hu hw hdue,
      fun hu h1 h2 he hp hf => stopWatchdog_fences hlive hslot hu h1 h2 he hp hf⟩,
    fun s c n o hc => granuleOverrun_counted hc, fun s c o hc => granuleAbort_ends hc⟩

end Sys2Proof.Machine
end

section
/-! PROOFS. The end of a camera's MAIN script starts a camera that was held, which the statement about
the scripts' ends leaves out (chapter 03, R98, and chapter 06, R196): O53. -/

set_option Elab.async false

namespace Sys2Proof.Machine

variable {s t : State}

/-! ### The loader goes on to no Bridge boot that ran out of time -/

/-- The loader is not in the phase of Table 03-1 in which it has stopped (8). -/
def State.notStopped (s : State) : Prop := s.boot.phase ≠ 8

theorem notStopped_of_within {p : Prog} {W : List Part} (hp : p.Within W) (hw : coveredBy W .boot = false) :
    p.Preserves State.notStopped := fun s h => by
  rw [State.notStopped, hp s .boot hw]
  exact h

theorem setReg_notStopped (r : Reg) (v i j : Nat) : (setReg r v i j).Preserves State.notStopped :=
  fun s h => by rwa [State.notStopped, setReg_boot]

theorem setF_notStopped (f : Field) (v i j : Nat) : (setF f v i j).Preserves State.notStopped :=
  preserves_look fun _ => setReg_notStopped _ _ _ _

theorem bump_notStopped (f : Field) (v i j : Nat) : (bump f v i j).Preserves State.notStopped :=
  preserves_look fun _ => setF_notStopped _ _ _ _

theorem raise_notStopped (c u d q g st : Nat) : (raise c u d q g st).Preserves State.notStopped :=
  fun s h => by rwa [State.notStopped, raise_boot]

theorem retWrite_notStopped (a : Nat) (bs : List Byte) : (retWrite a bs).Preserves State.notStopped :=
  notStopped_of_within (within_retWrite (partsLe_refl _)) rfl

theorem usePair_notStopped (r : Reg) (i j : Nat) : (usePair r i j).Preserves State.notStopped :=
  preserves_look fun _ => preserves_when <| preserves_all_cons (raise_notStopped _ _ _ _ _ _) <|
    preserves_all_cons (setReg_notStopped _ _ _ _) preserves_all_nil

theorem acquireLock_notStopped (base pages mode : Nat) (who : Holder) :
    (acquireLock base pages mode who).Preserves State.notStopped :=
  notStopped_of_within (within_acquireLock (partsLe_refl _)) rfl

/-! ### The writes of the engines -/

theorem escalate_notStopped : escalate.Preserves State.notStopped := by
  have hreset : logicReset.Preserves State.notStopped := by
    refine preserves_look fun s => preserves_all_cons
      (notStopped_of_within (within_clearLogicRegs (partsLe_refl _)) rfl) ?_
    intro t _
    exact (by decide : (0 : Nat) ≠ 8)
  exact preserves_look fun _ => preserves_when <| preserves_seq (fun _ h => h) <|
    preserves_seq (bump_notStopped _ _ _ _) <|
    preserves_all_cons (notStopped_of_within (within_recordCause (partsLe_refl _)) rfl) <|
    preserves_all_cons (preserves_when <| notStopped_of_within (within_dropPending (partsLe_refl _)) rfl) <|
    preserves_all_cons hreset <| preserves_all_cons (fun _ h => h) <|
    preserves_all_cons (notStopped_of_within (within_releaseLogic (partsLe_refl _)) rfl) preserves_all_nil

theorem requestRepair_notStopped (pa : Nat) : (requestRepair pa).Preserves State.notStopped :=
  preserves_seq (usePair_notStopped _ _ _) <| preserves_look fun _ => preserves_when <| by
    split
    · exact preserves_skip
    · exact preserves_look fun _ => preserves_ite preserves_skip <|
        preserves_seq (preserves_when (acquireLock_notStopped _ _ _ _)) fun _ h => h

theorem plazaUe_notStopped (scrub : Bool) (word : Nat) : (plazaUe scrub word).Preserves State.notStopped :=
  preserves_look fun _ =>
    preserves_all_cons (notStopped_of_within (within_poisonRange (partsLe_refl _)) rfl) <|
    preserves_all_cons (setReg_notStopped _ _ _ _) <| preserves_all_cons (bump_notStopped _ _ _ _) <|
    preserves_all_cons (preserves_ite (setF_notStopped _ _ _ _) (setF_notStopped _ _ _ _)) <|
    preserves_all_cons (fun _ h => h) <| preserves_all_cons (raise_notStopped _ _ _ _ _ _) <|
    preserves_all_cons (requestRepair_notStopped _) <|
    preserves_all_cons (preserves_when <| preserves_seq (raise_notStopped _ _ _ _ _ _) <|
      preserves_seq (setF_notStopped _ _ _ _) escalate_notStopped) preserves_all_nil

theorem ddrUe_notStopped (word : Nat) : (ddrUe word).Preserves State.notStopped :=
  preserves_all_cons (notStopped_of_within (within_poisonRange (partsLe_refl _)) rfl) <|
  preserves_all_cons (setReg_notStopped _ _ _ _) <| preserves_all_cons (setReg_notStopped _ _ _ _) <|
  preserves_all_cons (bump_notStopped _ _ _ _) <| preserves_all_cons (setF_notStopped _ _ _ _) <|
  preserves_all_cons (raise_notStopped _ _ _ _ _ _) <|
  preserves_all_cons (requestRepair_notStopped _) preserves_all_nil

theorem memWrite_notStopped (pa : Nat) (bs : List Byte) : (memWrite pa bs).Preserves State.notStopped := by
  have hstore : ∀ a bs, (paStore a bs).Preserves State.notStopped := fun _ _ =>
    notStopped_of_within (within_paStore (partsLe_refl _)) rfl
  exact preserves_look fun _ => preserves_seq
    (preserves_look fun _ => preserves_seq
      (notStopped_of_within (within_correctErrs (partsLe_refl _)) rfl)
      (preserves_each fun _ => preserves_ite (plazaUe_notStopped _ _) (ddrUe_notStopped _)))
    (preserves_ite (hstore _ _) <| preserves_look fun _ => preserves_each fun _ => hstore _ _)

theorem logEntry_notStopped (kind unit choice stand n pn : Nat) :
    (logEntry kind unit choice stand n pn).Preserves State.notStopped := by
  have hfail := raise_notStopped 0x4007 unitRbt 0 0xFF 0 0xFF
  refine preserves_seq (usePair_notStopped _ _ _) <| preserves_look fun _ => preserves_when <|
    preserves_all_cons (preserves_look fun _ => preserves_ite ?_ <| preserves_ite ?_ <|
      preserves_look fun _ => preserves_seq (memWrite_notStopped _ _) (preserves_when hfail)) <|
    preserves_all_cons (retWrite_notStopped _ _) <| preserves_all_cons (retWrite_notStopped _ _)
    preserves_all_nil
  · exact preserves_seq (preserves_seq (setF_notStopped _ _ _ _) (raise_notStopped _ _ _ _ _ _)) hfail
  · exact preserves_seq (preserves_seq (setF_notStopped _ _ _ _) (raise_notStopped _ _ _ _ _ _)) hfail

/-! ### Requests for a power state -/

theorem fallbackStep_notStopped : fallbackStep.Preserves State.notStopped := by
  refine preserves_look fun _ => preserves_when ?_
  split
  · exact fun _ h => h
  · split
    · exact fun _ h => h
    · exact preserves_all_cons (preserves_each fun _ =>
          notStopped_of_within (within_freeRunList (partsLe_refl _)) rfl) <|
        preserves_all_cons (fun _ h => h) <| preserves_all_cons (fun _ h => h) <|
        preserves_all_cons (preserves_each fun _ =>
          notStopped_of_within (within_updateShadow (partsLe_refl _)) rfl) <|
        preserves_all_cons (fun _ h => h) <| preserves_all_cons (fun _ h => h) <|
        preserves_all_cons (preserves_when (raise_notStopped _ _ _ _ _ _)) <|
        preserves_all_cons (notStopped_of_within (within_selectRouteSection (partsLe_refl _)) rfl) <|
        preserves_all_cons (notStopped_of_within (within_startRoute (partsLe_refl _)) rfl) <|
        preserves_all_cons (notStopped_of_within (within_settleInvalidations (partsLe_refl _)) rfl)
        preserves_all_nil

theorem failStop_notStopped (i code : Nat) : (failStop i code).Preserves State.notStopped := by
  refine preserves_look fun _ => ?_
  split
  · exact preserves_skip
  · exact preserves_all_cons (notStopped_of_within (within_poisonOutputs (partsLe_refl _)) rfl) <|
      preserves_all_cons (notStopped_of_within (within_releaseUnits (partsLe_refl _)) rfl) <|
      preserves_all_cons (notStopped_of_within (within_failSignals (partsLe_refl _)) rfl) <|
      preserves_all_cons (notStopped_of_within (within_recordFail (partsLe_refl _)) rfl) <|
      preserves_all_cons (notStopped_of_within (within_freeRunList (partsLe_refl _)) rfl) <|
      preserves_all_cons (fun _ h => h) <| preserves_all_cons (fun _ h => h) <|
      preserves_all_cons (preserves_when fun _ h => h) <|
      preserves_all_cons (preserves_when <|
        notStopped_of_within (within_haltQueue (partsLe_refl _)) rfl) <|
      preserves_all_cons (preserves_all_cons
        (notStopped_of_within (within_settleQueue (partsLe_refl _)) rfl) <|
        preserves_all_cons (notStopped_of_within (within_settleInvalidations (partsLe_refl _)) rfl) <|
        preserves_all_cons fallbackStep_notStopped <|
        preserves_all_cons (notStopped_of_within (within_parkWithdrawn (partsLe_refl _)) rfl)
        preserves_all_nil) preserves_all_nil

theorem withdrawQueue_notStopped (q status : Nat) : (withdrawQueue q status).Preserves State.notStopped :=
  preserves_look fun _ => preserves_each fun _ => preserves_look fun _ => by
    split
    · exact preserves_skip
    · exact preserves_ite (fun _ h => h) (failStop_notStopped _ _)

theorem startPark_notStopped (drainMs : Nat) : (startPark drainMs).Preserves State.notStopped :=
  preserves_look fun _ => preserves_when <| preserves_all_cons (fun _ h => h) <|
    preserves_all_cons (notStopped_of_within (within_stopDisplays (partsLe_refl _)) rfl) <|
    preserves_all_cons (fun _ h => h) <| preserves_all_cons (preserves_when <|
      preserves_look fun _ => preserves_when <| preserves_all_cons (fun _ h => h) <|
      preserves_all_cons (preserves_each fun _ => withdrawQueue_notStopped _ _) <|
      preserves_all_cons (notStopped_of_within (within_parkWithdrawn (partsLe_refl _)) rfl)
      preserves_all_nil) preserves_all_nil

theorem takeHeldRequest_notStopped : takeHeldRequest.Preserves State.notStopped :=
  preserves_look fun _ => preserves_when <| preserves_seq (fun _ h => h) <| preserves_look fun _ =>
    preserves_ite (fun _ h => h) <| preserves_ite
      (notStopped_of_within (within_enterQuiet (partsLe_refl _)) rfl)
      (preserves_when (startPark_notStopped _))

/-! ### The loader's rounds (Table 03-1) -/

theorem bootFault_notStopped (code sect detail : Nat) :
    (bootFault code sect detail).Preserves State.notStopped :=
  preserves_seq (raise_notStopped _ _ _ _ _ _) <| preserves_look fun _ =>
    preserves_when (setReg_notStopped _ _ _ _)

theorem deviceSet_notStopped (n v : Nat) (failed : Bool) : (deviceSet n v failed).Preserves State.notStopped :=
  notStopped_of_within (within_deviceSet (partsLe_refl _)) rfl

/-- A write of the loader's state that gives the phase another value than 8. -/
theorem modBoot_notStopped {f : Boot → Boot} {n : Nat} (hf : ∀ b, (f b).phase = n) (hn : n ≠ 8) :
    (modBoot f).Preserves State.notStopped := fun s _ => (hf s.boot).trans_ne hn

theorem fallbackDisplay_notStopped : fallbackDisplay.Preserves State.notStopped :=
  preserves_all_cons (modBoot_notStopped (fun _ => rfl) (by decide)) <|
    preserves_all_cons (bootFault_notStopped _ _ _) <|
    preserves_all_cons (notStopped_of_within (within_imageDone (partsLe_refl _)) rfl) <|
    preserves_all_cons takeHeldRequest_notStopped preserves_all_nil

theorem refuseProfile_notStopped (n reason sect : Nat) :
    (refuseProfile n reason sect).Preserves State.notStopped :=
  preserves_all_cons (setReg_notStopped _ _ _ _) <|
    preserves_all_cons (preserves_look fun _ => setReg_notStopped _ _ _ _) <|
    preserves_all_cons (setReg_notStopped _ _ _ _) <|
    preserves_all_cons (modBoot_notStopped (fun _ => rfl) (by decide)) preserves_all_nil

theorem choose_notStopped (p : Profile) : (choose p).Preserves State.notStopped :=
  preserves_look fun _ => preserves_all_cons (modBoot_notStopped (fun _ => rfl) (by decide)) <|
    preserves_all_cons (deviceSet_notStopped _ _ _) <| preserves_all_cons (setReg_notStopped _ _ _ _) <|
    preserves_all_cons (preserves_ite
      (preserves_all_cons (preserves_when fun _ h => h) <| preserves_all_cons (fun _ h => h) <|
        preserves_all_cons (notStopped_of_within (within_linkStart (partsLe_refl _)) rfl) preserves_all_nil)
      (preserves_all_cons (fun _ h => h) <|
        preserves_all_cons (notStopped_of_within (within_setLink (partsLe_refl _)) rfl) <|
        preserves_all_cons (notStopped_of_within (within_stopPlls (partsLe_refl _)) rfl)
        preserves_all_nil)) preserves_all_nil

theorem tryProfile_notStopped (n : Nat) : (tryProfile n).Preserves State.notStopped :=
  preserves_look fun _ => preserves_when <| by
    split
    · exact preserves_skip
    · exact preserves_ite (refuseProfile_notStopped _ _ _) <|
        preserves_ite (refuseProfile_notStopped _ _ _) <|
        preserves_ite (refuseProfile_notStopped _ _ _) (choose_notStopped _)

theorem startScripts_notStopped (phase : Nat) : (startScripts phase).Preserves State.notStopped :=
  preserves_look fun _ => preserves_each fun _ => preserves_when <| preserves_seq (fun _ h => h)
    (preserves_when (setReg_notStopped _ _ _ _))

theorem chooseProfile_notStopped : chooseProfile.Preserves State.notStopped :=
  preserves_look fun _ => preserves_when <| preserves_all_cons
    (preserves_when <| preserves_all_cons (startScripts_notStopped _) <|
      preserves_all_cons (fun _ h => h) <| preserves_all_cons (preserves_look fun _ => preserves_when <|
        notStopped_of_within (within_camRelease (partsLe_refl _)) rfl) preserves_all_nil) <|
    preserves_all_cons (preserves_ite fallbackDisplay_notStopped <| preserves_ite
      (preserves_seq (raise_notStopped _ _ _ _ _ _) fallbackDisplay_notStopped) <|
      preserves_seq (preserves_each tryProfile_notStopped) <| preserves_look fun _ =>
        preserves_when fallbackDisplay_notStopped) preserves_all_nil

theorem settleProfile_notStopped : settleProfile.Preserves State.notStopped :=
  preserves_look fun _ => preserves_when <| by
    split
    · exact preserves_skip
    · split
      · exact refuseProfile_notStopped _ _ _
      · refine preserves_when <| preserves_seq
          (notStopped_of_within (within_usePairs (W := [.mem .retA, .mem .retB, .allRegs, .ring, .lamp, .rcl])
            (by decide +kernel)) rfl) ?_
        split
        · exact refuseProfile_notStopped _ _ _
        · exact preserves_ite (refuseProfile_notStopped _ _ _) <| preserves_seq (fun _ h => h)
            (notStopped_of_within (within_imageDone (partsLe_refl _)) rfl)

theorem handOver_notStopped (p : Profile) (sects : List Sect) :
    (handOver p sects).Preserves State.notStopped :=
  preserves_look fun _ => preserves_all_cons (modBoot_notStopped (fun _ => rfl) (by decide)) <|
    preserves_all_cons (setReg_notStopped _ _ _ _) <| preserves_all_cons (setReg_notStopped _ _ _ _) <|
    preserves_all_cons (notStopped_of_within (within_selectRouteSection (partsLe_refl _)) rfl) <|
    preserves_all_cons (notStopped_of_within (within_startCrossings (partsLe_refl _)) rfl) <|
    preserves_all_cons (setReg_notStopped _ _ _ _) <| preserves_all_cons (setF_notStopped _ _ _ _) <|
    preserves_all_cons (notStopped_of_within (within_handOverLocks (partsLe_refl _)) rfl) <|
    preserves_all_cons (notStopped_of_within (within_handOverModes (partsLe_refl _)) rfl) <|
    preserves_all_cons (notStopped_of_within (within_takeLease (partsLe_refl _)) rfl) <|
    preserves_all_cons (notStopped_of_within (within_takeLease (partsLe_refl _)) rfl) <|
    preserves_all_cons (preserves_all_cons (preserves_each fun _ => preserves_look fun _ =>
        preserves_when <| preserves_seq (fun _ h => h) (raise_notStopped _ _ _ _ _ _)) <|
      preserves_all_cons (preserves_each fun _ => preserves_look fun _ => preserves_when fun _ h => h) <|
      preserves_all_cons (fun _ h => h) <|
      preserves_all_cons (notStopped_of_within (within_replayStart (partsLe_refl _)) rfl) <|
      preserves_all_cons (preserves_look fun _ => logEntry_notStopped _ _ _ _ _ _) preserves_all_nil) <|
    preserves_all_cons (deviceSet_notStopped _ _ _) <|
    preserves_all_cons (notStopped_of_within (within_startRoute (partsLe_refl _)) rfl) <|
    preserves_all_cons (preserves_when (bootFault_notStopped _ _ _)) <|
    preserves_all_cons takeHeldRequest_notStopped preserves_all_nil

theorem startSplash_notStopped (x : Nat) : (startSplash x).Preserves State.notStopped :=
  preserves_look fun _ => preserves_when <| preserves_all_cons (fun _ h => by
      rw [run_modBoot]
      split <;> exact h) <|
    preserves_all_cons (preserves_when (setF_notStopped _ _ _ _)) <|
    preserves_all_cons (preserves_ite
      (preserves_when (notStopped_of_within (within_startOutput (partsLe_refl _)) rfl))
      (notStopped_of_within (within_scoCtrlCommit (partsLe_refl _)) rfl)) preserves_all_nil

theorem loaderRound_notStopped : loaderRound.Preserves State.notStopped :=
  preserves_all_cons (preserves_each startSplash_notStopped) <|
  preserves_all_cons (preserves_look fun _ => preserves_when <| preserves_seq (fun _ h => h)
    (deviceSet_notStopped _ _ _)) <|
  preserves_all_cons (preserves_look fun _ => preserves_when <| preserves_seq
    (modBoot_notStopped (fun _ => rfl) (by decide)) fun _ h => h) <|
  preserves_all_cons chooseProfile_notStopped <| preserves_all_cons settleProfile_notStopped <|
  preserves_all_cons (preserves_look fun _ => preserves_when <| by
    split
    · exact preserves_skip
    · exact handOver_notStopped _ _) preserves_all_nil

theorem preserves_all_replicate {P : State → Prop} {p : Prog} (hp : p.Preserves P) (n : Nat) :
    (Prog.all (List.replicate n p)).Preserves P := by
  induction n with
  | zero => exact preserves_all_nil
  | succ n ih => exact preserves_all_cons hp ih

theorem loaderProgress_notStopped : loaderProgress.Preserves State.notStopped :=
  preserves_all_replicate loaderRound_notStopped 8

/-! ### The loader that has stopped -/

/-- The loader has stopped and has ended its displays' step, or it is as it was. -/
def State.idleSince (u s : State) : Prop :=
  s = u ∨ (s.boot.phase = 8 ∧ s.boot.displaysDone = true)

theorem loaderRound_idles (h : s.boot.phase = 8) :
    loaderRound.run s = endDisplays.run s := by
  have hsplash : ∀ x, (startSplash x).run s = s := fun x => by
    rw [startSplash, run_look, run_when_neg (by rw [h]; simp), run_skip]
  have hend : ∃ t, endDisplays.run s = t ∧ t.boot.phase = 8 := by
    refine ⟨_, rfl, ?_⟩
    rw [endDisplays, run_look]
    unfold Prog.when
    split
    · rw [run_seq, show ∀ v : State, ((deviceSet 10 1).run v).boot = v.boot from
        fun v => within_deviceSet (partsLe_refl _) v .boot rfl]
      exact h
    · exact h
  obtain ⟨t, ht, h8⟩ := hend
  rw [loaderRound, run_all_cons, show upTo 2 = [0, 1] from rfl, run_each_cons, run_each_cons, run_each_nil,
    hsplash, hsplash, run_all_cons, ht, run_all_cons, endEarly, run_look, run_when_neg (by rw [h8]; simp),
    run_skip, run_all_cons, chooseProfile, run_look, run_when_neg (by rw [h8]; simp), run_skip,
    run_all_cons, settleProfile, run_look, run_when_neg (by rw [h8]; simp), run_skip, run_all_cons,
    handOverWhenReady, run_look, run_when_neg (by rw [h8]; simp), run_skip, run_all_nil]

theorem loaderRound_idleSince (u : State) (hu : u.boot.phase = 8) :
    loaderRound.Preserves (u.idleSince) := fun s h => by
  have h8 : s.boot.phase = 8 := by
    rcases h with rfl | h
    · exact hu
    · exact h.1
  rw [loaderRound_idles h8, endDisplays, run_look]
  unfold Prog.when
  split
  · refine .inr ?_
    rw [run_seq, show ∀ v : State, ((deviceSet 10 1).run v).boot = v.boot from
      fun v => within_deviceSet (partsLe_refl _) v .boot rfl]
    exact ⟨h8, rfl⟩
  · exact h

/-- From a state of the stopped loader whose displays are not done, the loader went on from that very
state. -/
theorem loaderProgress_back {u : State} (h8 : (loaderProgress.run u).boot.phase = 8)
    (hd : (loaderProgress.run u).boot.displaysDone = false) : loaderProgress.run u = u := by
  have hu : u.boot.phase = 8 := by
    by_contra hne
    exact loaderProgress_notStopped u hne h8
  have hidle : u.idleSince (loaderProgress.run u) := by
    rw [loaderProgress]
    exact preserves_all_replicate (P := u.idleSince) (loaderRound_idleSince u hu) 8 u (Or.inl rfl)
  rcases hidle with h | h
  · exact h
  · exact absurd (h.2.symm.trans hd) (by decide)

/-! ### The held camera -/

/-- The loader has stopped, output 0's EARLY script is still to run, and the camera's MAIN script has
reached its end; a start of the camera that was committed meanwhile is held. -/
def State.cameraHeld : State :=
  { State.up with
    regs := [(R.CAM_CTRL.at 0 0, 1), (R.CAM_CTRL.at 0 0 + 4, inv32 1)]
    cam := { Cam.reset with held := true }
    boot := { Boot.reset with
      phase := 8
      threads := [Thread.idle, Thread.idle, { Thread.idle with scripts := [⟨2, 0, 0, 1000, 0, 4⟩] },
        { Thread.idle with scripts := [⟨3, 1, 2, 1000, 0, 0⟩] }] } }

/-- R196: the start takes effect, and its failure is recorded with fault 0x310B. -/
theorem cameraHeld_records : (State.cameraHeld.after (.scriptEnd 3)).nextSeq = 2
    ∧ (State.cameraHeld.after (.scriptEnd 3)).boot.phase = 8
    ∧ (State.cameraHeld.after (.scriptEnd 3)).boot.displaysDone = false := by
  decide +kernel

/-- Refutes O53: the end of the camera's last MAIN script takes a held start of the camera into effect,
which here fails and leaves a record in the fault ring; the statement lets only the loader's registers,
its state and the camera's change. -/
theorem not_scriptOperations : ¬ Obligations.ScriptOperations := by
  intro h
  obtain ⟨-, -, -, -, -, -, hend, -⟩ := h
  have hready : State.cameraHeld.opReady 3 0 = some ⟨0, 0, 0, []⟩ := by decide +kernel
  have hscripts : (State.cameraHeld.thread 3).scripts = [⟨3, 1, 2, 1000, 0, 0⟩] := by decide +kernel
  have hfour : State.cameraHeld.boot.threads.length = 4 := by decide +kernel
  obtain ⟨t, ht, u, hu, hgo⟩ := hend State.cameraHeld 3 _ _ [] hready hscripts hfour
  have hkept := hu.2.2.2.2
  obtain ⟨hseq, h8, hd⟩ := cameraHeld_records
  rw [after_eq ht, hgo] at hseq h8 hd
  rw [loaderProgress_back h8 hd, (hkept.1 .ring (by decide)).2] at hseq
  exact absurd hseq (by decide +kernel)

end Sys2Proof.Machine
end

section
/-! PROOFS. The loader's steps: the self-test that starts it, the records of the CONFIG section, the timers,
the calibration, the LPDDR training and a line's start (chapter 03, R41, R72, R80 to R90, R112, R133). -/

set_option Elab.async false

namespace Sys2Proof.Machine

variable {s t : State}

/-! ### The end of the self-test (R41) -/

theorem run_usePairs {l : List Nat} (h : s.badPairs l = []) : (usePairs l).run s = s := by
  rw [usePairs, run_look, h, run_each_nil]

theorem retFound_nil (h : s.lamp.retErrs = []) : s.retFound [] = [] := by
  rw [State.retFound, h]
  rfl

/-- Reading banks without a word in error counts nothing. -/
theorem run_readBanks_clean (h : s.lamp.retErrs = []) :
    (readBanks []).run s = if s.lamp.retUnusable = false then
      (bump F.LAMP_RET_STATUS_UE_COUNT 0).run ((bump F.LAMP_RET_STATUS_CE_COUNT 0).run s) else s := by
  split
  case isFalse hu => rw [readBanks, run_look, run_when_neg hu, run_skip]
  case isTrue hu =>
    have hl : ((modLamp fun l => { l with retErrs := [] }).run
        ((bump F.LAMP_RET_STATUS_UE_COUNT 0).run ((bump F.LAMP_RET_STATUS_CE_COUNT 0).run s)))
        = (bump F.LAMP_RET_STATUS_UE_COUNT 0).run ((bump F.LAMP_RET_STATUS_CE_COUNT 0).run s) := by
      generalize hv : (bump F.LAMP_RET_STATUS_UE_COUNT 0).run _ = v
      have hlamp : v.lamp = s.lamp := by rw [← hv, bump_lamp, bump_lamp]
      have he : v.lamp = { v.lamp with retErrs := [] } := by
        rw [hlamp]
        exact congrArg (fun e => ({ s.lamp with retErrs := e } : Lamp)) h
      rw [run_modLamp]
      exact congrArg (fun l => { v with lamp := l }) he.symm
    rw [readBanks, run_look, run_when_pos hu, retFound_nil h]
    simp only [run_all_cons, run_all_nil]
    rw [run_when_neg (c := s.retFatal (List.filter (fun e => e.uncorrectable) []) = true) Bool.false_ne_true]
    exact hl

theorem lamp_readBanks_clean (h : s.lamp.retErrs = []) : ((readBanks []).run s).lamp = s.lamp := by
  rw [run_readBanks_clean h]
  split
  · rw [bump_lamp, bump_lamp]
  · rfl

theorem rcl_readBanks_clean (h : s.lamp.retErrs = []) : ((readBanks []).run s).rcl = s.rcl := by
  rw [run_readBanks_clean h]
  split
  · rw [bump_rcl, bump_rcl]
  · rfl

/-- The complement pairs of the LAMP block stand alone, apart from LAMP_RET_STATUS. -/
theorem lampPairs_apart : ∀ r ∈ blockRegs 1, r.rwp = true →
    r.n1 = 1 ∧ r.n2 = 1 ∧ R.LAMP_RET_STATUS.addr ∉ r.words 0 0 := by
  decide +kernel

theorem hit_single {r : Reg} {a : Nat} {x : RegHit} (h : r.hit a = some x) (h1 : r.n1 = 1)
    (h2 : r.n2 = 1) : x.i = 0 ∧ x.j = 0 := by
  unfold Reg.hit at h
  dsimp only at h
  split_ifs at h
  all_goals
    have hx := Option.some.inj h
    subst hx
    obtain ⟨hi, hj⟩ := not_or.mp ‹¬ (r.n1 ≤ _ ∨ r.n2 ≤ _)›
    rw [h1, not_le, Nat.lt_one_iff] at hi
    rw [h2, not_le, Nat.lt_one_iff] at hj
    exact ⟨hi, hj⟩

/-- A count in LAMP_RET_STATUS leaves the LAMP pairs as they are. -/
theorem badPairs_setRetStatus (h : s.badPairs [1] = []) (v : Nat) :
    ((setReg R.LAMP_RET_STATUS v).run s).badPairs [1] = [] := by
  refine List.filter_eq_nil_iff.mpr fun x hx hbad => ?_
  obtain ⟨e, he, hfound⟩ := List.mem_filterMap.mp hx
  split at hfound
  case isFalse => cases hfound
  case isTrue hslot =>
    have hslot' := hslot
    simp only [Bool.and_eq_true, List.contains_iff_mem, List.mem_singleton, decide_eq_true_eq] at hslot'
    obtain ⟨r, hr, hit⟩ := List.exists_of_findSome?_eq_some hfound
    rw [hslot'.1] at hr
    have hxr : x.r = r := reg_of_hit hit
    by_cases hrwp : r.rwp = true
    case neg => simp [State.pairOk, hxr, hrwp] at hbad
    obtain ⟨h1, h2, hapart⟩ := lampPairs_apart r hr hrwp
    obtain ⟨hi, hj⟩ := hit_single hit h1 h2
    have hput : ((setReg R.LAMP_RET_STATUS v).run s).regs
        = keyPut s.regs R.LAMP_RET_STATUS.addr (v % 2 ^ 32) := rfl
    have hsame : ((setReg R.LAMP_RET_STATUS v).run s).pairOk x.r x.i x.j = s.pairOk x.r x.i x.j := by
      refine pairOk_congr_words rfl fun a ha => ?_
      rw [hput]
      refine keyGet_keyPut_other fun hae => hapart ?_
      rw [← hae, ← hxr]
      rwa [hi, hj] at ha
    rcases mem_keyPut (hput ▸ he) with rfl | hes
    · have hfix : findHit R.LAMP_RET_STATUS.addr = some ⟨R.LAMP_RET_STATUS, 0, 0, false⟩ := by decide +kernel
      have hx := Option.some.inj (hfix.symm.trans hfound)
      rw [← hxr, ← hx] at hrwp
      cases hrwp
    · have hin : x ∈ s.badPairs [1] := List.mem_filter.mpr ⟨List.mem_filterMap.mpr ⟨e, hes, by
        rw [if_pos hslot]
        exact hfound⟩, hsame ▸ hbad⟩
      rw [h] at hin
      cases hin


theorem badPairs_readBanks (h : s.badPairs [1] = []) (he : s.lamp.retErrs = []) :
    ((readBanks []).run s).badPairs [1] = [] := by
  rw [run_readBanks_clean he]
  split
  · exact badPairs_setRetStatus (badPairs_setRetStatus h _) _
  · exact h

/-- The self-test leaves WAKING for RUNNING (R41). -/
def selfTestPassed : Prog := Prog.all [
  modLamp fun l => { l with
    power := .running
    wakingStep := 0
    refCount := 0
    attempts := 0
    thermCheck := false
    resetHold := false
    parkedHold := false },
  modRcl fun r => { r with pairOk := true, escalating := false },
  loaderStart]

theorem run_selfTestPassed (s : State) : selfTestPassed.run s = loaderStart.run { s with
    lamp := { s.lamp with
      power := .running, wakingStep := 0, refCount := 0, attempts := 0, thermCheck := false,
      resetHold := false, parkedHold := false },
    rcl := { s.rcl with pairOk := true, escalating := false } } := by
  rw [selfTestPassed, run_all_cons, run_all_cons, run_all_cons, run_all_nil, run_modLamp, run_modRcl]
  rfl

theorem not_hot {temps : List Int} (h : ∀ x ∈ temps, x < 115) (valid : List Bool) :
    ((upTo 12).any fun i => nth false valid i && decide (115 ≤ nth 0 temps i)) = false := by
  refine List.any_eq_false.mpr fun i _ => ?_
  have hlt : nth 0 temps i < 115 := by
    rw [nth, List.getD_eq_getElem?_getD]
    cases hi : temps[i]? with
    | none => decide
    | some x => exact h x (List.mem_of_getElem? hi)
  simp [hlt]

theorem selfTestDone_starts {temps : List Int} (hw : s.lamp.power = .waking) (h4 : s.lamp.wakingStep = 4)
    (hi : s.ave.initDone = true) (hn : s.lamp.resetNLow = false) (ht : ∀ x ∈ temps, x < 115)
    (he : s.lamp.retErrs = []) (hb : s.badPairs [1] = []) :
    exec (.selfTestDone true temps) s = .next (selfTestPassed.run ((readBanks []).run s)) := by
  rw [show exec (.selfTestDone true temps) s = execSelfTestDone true temps s from rfl, execSelfTestDone]
  refine (outcome_when ⟨hw, h4, hi, hn⟩ _ s).trans (congrArg Host.Outcome.next ?_)
  have hlost : (!s.lamp.retUnusable
      && s.retFatal ((s.retFound []).filter fun e => e.uncorrectable)) = false := by
    rw [retFound_nil he]
    exact Bool.and_false _
  rw [run_all_cons, run_all_cons, run_all_cons, run_all_nil, run_usePairs (badPairs_readBanks hb he),
    if_neg ?_]
  · rfl
  · rw [hlost, not_hot ht, hb]
    simp


/-! ### What the change journal and its mirror leave (R400) -/

/-- `t` is `s` after writes of the retention RAM and of the flash. -/
def State.journalled (s t : State) : Prop := ∃ fl ra rb fr es,
  t = { s with flash := fl, retA := ra, retB := rb, free := fr, lamp := { s.lamp with retErrs := es } }

theorem journalled_refl (s : State) : s.journalled s := ⟨s.flash, s.retA, s.retB, s.free, s.lamp.retErrs, rfl⟩

theorem retWrite_journalled (a : Nat) (bs : List Byte) : (retWrite a bs).Preserves s.journalled := by
  refine preserves_look fun v => preserves_all_cons (preserves_when ?_) <|
    preserves_all_cons (preserves_when ?_) <| preserves_all_cons ?_ preserves_all_nil
  · rintro _ ⟨fl, ra, rb, fr, es, rfl⟩
    exact ⟨fl, _, rb, fr, es, rfl⟩
  · rintro _ ⟨fl, ra, rb, fr, es, rfl⟩
    exact ⟨fl, ra, _, fr, es, rfl⟩
  · rintro _ ⟨fl, ra, rb, fr, es, rfl⟩
    exact ⟨fl, ra, rb, fr, _, rfl⟩

theorem storeFlash_journalled (a : Nat) (bs : List Byte) : (store .flash a bs).Preserves s.journalled := by
  rintro _ ⟨fl, ra, rb, fr, es, rfl⟩
  exact ⟨_, ra, rb, fr, es, rfl⟩

theorem flashProgram_journalled (a : Nat) (bs : List Byte) : (flashProgram a bs).Preserves s.journalled := by
  refine preserves_look fun v => preserves_seq (storeFlash_journalled _ _) ?_
  rintro _ ⟨fl, ra, rb, fr, es, rfl⟩
  exact ⟨fl, ra, rb, _, es, rfl⟩

theorem loaderMirror_journalled : loaderMirror.Preserves s.journalled :=
  preserves_look fun _ => preserves_when <| preserves_each fun _ => preserves_look fun _ =>
    preserves_all_cons (preserves_when <|
      preserves_seq (storeFlash_journalled _ _) (flashProgram_journalled _ _)) <|
    preserves_all_cons (flashProgram_journalled _ _) <|
    preserves_all_cons (retWrite_journalled _ _) preserves_all_nil

theorem appendChange_journalled (c : Change) : (appendChange c).Preserves s.journalled :=
  preserves_look fun _ => preserves_when <| preserves_seq (retWrite_journalled _ _) <|
    preserves_seq (retWrite_journalled _ _) (retWrite_journalled _ _)

theorem journalled_boot (h : s.journalled t) : t.boot = s.boot := by
  obtain ⟨_, _, _, _, _, rfl⟩ := h
  rfl

/-- Registers that show what the retention RAM holds. -/
def retentionRegs : List Reg := [R.LAMP_RET_STATUS, R.RBT_LOG_SEQ, R.BRG_KEY, R.SVC_STATUS,
  R.SVC_INTAKE_USED, R.SVC_ISEQ, R.SVC_SNAP_SEQ, R.SVC_CJ_NEXT, R.SVC_CJ_UNMIRRORED, R.SVC_CJ_HASH_LO,
  R.SVC_CJ_HASH_HI]

theorem journalled_readWord (h : s.journalled t) {r : Reg} (hr : r ∉ retentionRegs) (i j : Nat) :
    t.readWord r i j = s.readWord r i j := by
  simp only [retentionRegs, List.mem_cons, List.not_mem_nil, or_false, not_or] at hr
  obtain ⟨h1, h2, h3, h4, h5, h6, h7, h8, h9, h10, h11⟩ := hr
  obtain ⟨_, _, _, _, _, rfl⟩ := h
  simp only [State.readWord, State.liveLamp, State.liveRbt, State.liveBrg, State.liveSvc, h1, h2, h3, h4, h5,
    h6, h7, h8, h9, h10, h11, if_false]
  rfl


/-! ### The records of the CONFIG section (R89, R90) -/

theorem leNat_leBytes (n v : Nat) : leNat (leBytes n v) = v % 256 ^ n := by
  induction n generalizing v with
  | zero => simp [leBytes, leNat, Nat.mod_one]
  | succ k ih =>
    have hcons : leNat (leBytes (k + 1) v) = (BitVec.ofNat 8 v).toNat + 256 * leNat (leBytes k (v / 256)) := rfl
    rw [hcons, ih, BitVec.toNat_ofNat, pow_succ' 256 k, Nat.mod_mul]

theorem fieldAt_leBytes {n v : Nat} (hv : v < 256 ^ n) : fieldAt (leBytes n v) 0 n = v := by
  have hwhole : slice (leBytes n v) 0 n = leBytes n v := List.take_of_length_le (by simp)
  rw [fieldAt, hwhole, leNat_leBytes, Nat.mod_eq_of_lt hv]

theorem outcome_onRecord {typ : Nat} {r : ConfRec} (hr : s.nextRec = some r) (ht : r.typ = typ)
    (work : ConfRec → Prog) :
    Prog.outcome (onRecord typ work) s = .next ((work r).run (loaderMirror.run s)) := by
  have hrun : (onRecord typ work).run s = (work r).run (loaderMirror.run s) := by
    rw [onRecord, run_look, hr]
    dsimp only
    rw [run_when_pos ht, run_seq]
  rw [outcome_eq, hrun]

theorem boot_loaderMirror (s : State) : (loaderMirror.run s).boot = s.boot :=
  journalled_boot (loaderMirror_journalled s (journalled_refl s))

/-- What CONFIG_PROFILE does with its record. -/
def declareProfile (r : ConfRec) : Prog :=
  .seq (modBoot fun b => { b with profiles := b.profiles ++ [profileOf r.payload] }) (recDone r)

theorem declareProfile_boot (r : ConfRec) (s : State) : ((declareProfile r).run s).boot = { s.boot with
    profiles := s.boot.profiles ++ [profileOf r.payload], configAt := s.boot.configAt + r.size } := rfl

theorem exec_configProfile {r : ConfRec} (hr : s.nextRec = some r) (ht : r.typ = 2) :
    exec .configProfile s = .next ((declareProfile r).run (loaderMirror.run s)) :=
  outcome_onRecord hr ht declareProfile

theorem configProfile_declares {r : ConfRec} (hr : s.nextRec = some r) (ht : r.typ = 2) :
    ∃ t, exec .configProfile s = .next t ∧ t.boot.profiles = s.boot.profiles ++ [profileOf r.payload]
      ∧ t.boot.configAt = s.boot.configAt + r.size
      ∧ s.onlyChanges [.mem .flash, .mem .retA, .mem .retB, .free, .lamp, .boot] t := by
  have hx := exec_configProfile hr ht
  refine ⟨_, hx, ?_, ?_, exec_onlyChanges hx⟩
  all_goals rw [declareProfile_boot, boot_loaderMirror]

/-- What CONFIG_LOADER does with its record. -/
def setSplashHold (r : ConfRec) : Prog :=
  .seq (modBoot fun b => { b with splashHoldMs := fieldAt r.payload 0 2 }) (recDone r)

theorem setSplashHold_boot (r : ConfRec) (s : State) : ((setSplashHold r).run s).boot = { s.boot with
    splashHoldMs := fieldAt r.payload 0 2, configAt := s.boot.configAt + r.size } := rfl

theorem exec_configLoader {r : ConfRec} (hr : s.nextRec = some r) (ht : r.typ = 3) :
    exec .configLoader s = .next ((setSplashHold r).run (loaderMirror.run s)) :=
  outcome_onRecord hr ht setSplashHold

theorem configLoader_sets {r : ConfRec} (hr : s.nextRec = some r) (ht : r.typ = 3) :
    ∃ t, exec .configLoader s = .next t ∧ t.boot.splashHoldMs = fieldAt r.payload 0 2
      ∧ t.boot.configAt = s.boot.configAt + r.size
      ∧ s.onlyChanges [.mem .flash, .mem .retA, .mem .retB, .free, .lamp, .boot] t := by
  have hx := exec_configLoader hr ht
  refine ⟨_, hx, ?_, ?_, exec_onlyChanges hx⟩
  all_goals rw [setSplashHold_boot]
  rw [boot_loaderMirror]

/-- What CONFIG_DDR does with a record that declares the LPDDR4X, and with one that declares none. -/
def declareDdr (r : ConfRec) : Prog := Prog.all [
  modBoot fun b => { b with
    ddrDeclared := true
    ddrRate := ddrRates.idxOf (fieldAt r.payload 2 2)
    ddrRanks := fieldAt r.payload 1 1
    ddrMib := fieldAt r.payload 4 2
    trainAttempt := 0
    lpddrKnown := false },
  firstWrite [.ddrReset, .ddrOthers],
  requestPlls 0x80,
  recDone r]
def declareNoDdr (r : ConfRec) : Prog :=
  .seq (modBoot fun b => { b with ddrDeclared := false, lpddrKnown := true }) (recDone r)

theorem declareNoDdr_boot (r : ConfRec) (s : State) : ((declareNoDdr r).run s).boot = { s.boot with
    ddrDeclared := false, lpddrKnown := true, configAt := s.boot.configAt + r.size } := rfl

theorem declareDdr_boot (r : ConfRec) (s : State) : ((declareDdr r).run s).boot = { s.boot with
    ddrDeclared := true
    ddrRate := ddrRates.idxOf (fieldAt r.payload 2 2)
    ddrRanks := fieldAt r.payload 1 1
    ddrMib := fieldAt r.payload 4 2
    trainAttempt := 0
    lpddrKnown := false
    configAt := s.boot.configAt + r.size } := rfl

theorem declareDdr_pllReq (r : ConfRec) (s : State) :
    ((declareDdr r).run s).lamp.pllReq = s.lamp.pllReq ||| 0x80 := rfl

theorem exec_configDdr {r : ConfRec} (hr : s.nextRec = some r) (ht : r.typ = 4) :
    exec .configDdr s = .next ((if fieldAt r.payload 0 1 = 0 then declareNoDdr r else declareDdr r).run
      (loaderMirror.run s)) :=
  outcome_onRecord hr ht fun r => if fieldAt r.payload 0 1 = 0 then declareNoDdr r else declareDdr r

theorem configDdr_absent {r : ConfRec} (hr : s.nextRec = some r) (ht : r.typ = 4)
    (h0 : fieldAt r.payload 0 1 = 0) :
    ∃ t, exec .configDdr s = .next t ∧ t.boot.ddrDeclared = false ∧ t.boot.lpddrKnown = true
      ∧ t.boot.configAt = s.boot.configAt + r.size := by
  have hx := exec_configDdr hr ht
  rw [if_pos h0] at hx
  refine ⟨_, hx, ?_, ?_, ?_⟩
  all_goals rw [declareNoDdr_boot]
  rw [boot_loaderMirror]

theorem ddrRates_idxOf {p : List Byte} (h : ddrRecOk p = true) :
    ddrRates[ddrRates.idxOf (fieldAt p 2 2)]? = some (fieldAt p 2 2) := by
  have hmem : fieldAt p 2 2 ∈ ddrRates := by
    simp only [ddrRecOk, Bool.and_eq_true, List.contains_iff_mem] at h
    exact h.1.1.1.1.1.1.2
  rw [List.getElem?_eq_getElem (List.idxOf_lt_length_of_mem hmem), List.getElem_idxOf]

theorem pllReq_loaderMirror (s : State) : (loaderMirror.run s).lamp.pllReq = s.lamp.pllReq := by
  obtain ⟨_, _, _, _, _, he⟩ := loaderMirror_journalled s (journalled_refl s)
  rw [he]

theorem configDdr_declares {r : ConfRec} (hr : s.nextRec = some r) (ht : r.typ = 4)
    (hok : ddrRecOk r.payload = true) (h1 : fieldAt r.payload 0 1 = 1) :
    ∃ t, exec .configDdr s = .next t ∧ t.boot.ddrDeclared = true
      ∧ ddrRates[t.boot.ddrRate]? = some (fieldAt r.payload 2 2)
      ∧ t.boot.ddrRanks = fieldAt r.payload 1 1 ∧ t.boot.ddrMib = fieldAt r.payload 4 2
      ∧ t.boot.lpddrKnown = false ∧ t.lamp.pllReq = s.lamp.pllReq ||| 0x80
      ∧ t.boot.configAt = s.boot.configAt + r.size := by
  have hx := exec_configDdr hr ht
  rw [if_neg (by rw [h1]; decide)] at hx
  refine ⟨_, hx, ?_⟩
  rw [declareDdr_boot, declareDdr_pllReq, boot_loaderMirror, pllReq_loaderMirror]
  exact ⟨rfl, ddrRates_idxOf hok, rfl, rfl, rfl, rfl, rfl⟩

end Sys2Proof.Machine
end

section
/-! PROOFS. The words of the CONFIG section and its end (chapter 03, R26, R27, R90). -/

set_option Elab.async false

namespace Sys2Proof.Machine

variable {s t : State}

/-! ### A REG_WRITE record (R90) -/

/-- What CONFIG_REG_WRITE does with its record. -/
def writeRecord (r : ConfRec) : Prog := .look fun t =>
  let addr := fieldAt r.payload 0 4
  let n := r.payload.length / 4 - 1
  let ws := wordsOf n (r.payload.drop 4)
  let c : Change := ⟨0, 3, 0, r.recId, changeWord (t.peekBytes addr n), changeWord (r.payload.drop 4),
    4 * n, 0⟩
  let first := t.cjNext
  .seq (appendChange c) (writeWords confWritable addr ws 0
    (fun _ => Prog.all [appendVoid c first, bootFault 0x0206 t.confSect, imageFails])
    (recDone r))

theorem exec_configRegWrite {r : ConfRec} (hr : s.nextRec = some r) (ht : r.typ = 1) :
    exec .configRegWrite s = .next ((writeRecord r).run (loaderMirror.run s)) :=
  outcome_onRecord hr ht writeRecord

theorem recDone_configAt (r : ConfRec) (s : State) :
    ((recDone r).run s).boot.configAt = s.boot.configAt + r.size := rfl

theorem recDone_rd (r : ConfRec) (s : State) (g : Reg) (i j : Nat) :
    ((recDone r).run s).rd g i j = s.rd g i j := rfl

/-- A single word of a list of words is written where the loader may and the block answers. -/
theorem run_writeWords_single {allowed : Nat → Bool} {a w : Nat} (ha : allowed a = true)
    (hl : ((busWrite a w).run s).live = true) (hb : ((busWrite a w).run s).bus.ok = true) (i : Nat)
    (fail : Nat → Prog) (done : Prog) :
    (writeWords allowed a [w] i fail done).run s = done.run ((busWrite a w).run s) := by
  rw [writeWords, if_neg (by rw [ha]; decide), run_seq, run_look, if_neg (by rw [hl]; decide),
    if_neg (by rw [hb]; decide), writeWords]

theorem journalled_plainAt (h : s.journalled t) {a : Nat} {x : RegHit} (hp : s.plainAt a x) :
    t.plainAt a x := by
  obtain ⟨_, _, _, _, _, rfl⟩ := h
  exact { hp with }

/-- A plain register whose word shows the retention RAM belongs to the LAMP or the SVC block. -/
theorem retentionRegs_block : ∀ r ∈ retentionRegs, (r.rw ≠ 0 ∨ r.w1c ≠ 0) →
    r = R.LAMP_RET_STATUS ∨ r = R.SVC_STATUS := by
  decide +kernel


theorem retStatus_slot : ∀ n ∈ blockSlots, ∀ r ∈ blockRegs n, (r = R.LAMP_RET_STATUS → n = 1)
    ∧ (r = R.SVC_STATUS → n = 0x62) := by
  decide +kernel

/-- The word of a register that the CONFIG section may write does not come from the retention RAM, but in
the SVC block. -/
theorem confWritable_apart {a : Nat} {x : RegHit} (hp : s.plainAt a x) (hw : confWritable a = true)
    (h62 : slotOfAddr a ≠ 0x62) : x.r ∉ retentionRegs := fun hin => by
  obtain ⟨r, hr, hit⟩ := List.exists_of_findSome?_eq_some hp.hit
  have hxr := reg_of_hit hit
  simp only [confWritable, Bool.and_eq_true, List.contains_iff_mem, bne_iff_ne, ne_eq] at hw
  obtain ⟨⟨⟨-, hslot⟩, h1⟩, -⟩ := hw
  obtain ⟨hlamp, hsvc⟩ := retStatus_slot _ hslot r hr
  rcases retentionRegs_block x.r hin hp.stored with h | h
  · exact h1 (hlamp (hxr.symm.trans h))
  · exact h62 (hsvc (hxr.symm.trans h))

theorem gpioFirstWrite_keeps (x : RegHit) (s : State) : ((gpioFirstWrite x).run s).lamp = s.lamp
    ∧ ((gpioFirstWrite x).run s).bus = s.bus ∧ ((gpioFirstWrite x).run s).boot = s.boot := by
  have hpins : (gpioFirstWrite x).Within [.ports] := within_when (within_firstWrite (partsLe_refl _))
  exact ⟨hpins s .lamp rfl, hpins s .bus rfl, hpins s .boot rfl⟩

theorem busWrite_stores {a w : Nat} {x : RegHit} (hp : s.plainAt a x) (hw : w < 2 ^ 32) :
    let d := (busWrite a w).run s
    d.lamp = s.lamp ∧ d.bus.ok = true ∧ d.boot = s.boot
      ∧ d.rd x.r x.i x.j = storedWord x.r (s.readWord x.r x.i x.j) w % 2 ^ 32 := by
  dsimp only
  obtain ⟨hlamp, hans, hbt⟩ := gpioFirstWrite_keeps x { s with bus := ⟨true, 0⟩ }
  rw [run_busWrite_plain hp, Nat.mod_eq_of_lt hw, run_plainWrite hp]
  generalize (gpioFirstWrite x).run { s with bus := ⟨true, 0⟩ } = u at hlamp hans hbt
  exact ⟨(setReg_lamp u ..).trans hlamp, congrArg BusResp.ok ((setReg_bus u ..).trans hans),
    (setReg_boot u ..).trans hbt, rd_setReg_self u ..⟩

/-- A record of one word is written where the loader may. -/
theorem configRegWrite_writes {r : ConfRec} {a w : Nat} {x : RegHit} (hr : s.nextRec = some r)
    (ht : r.typ = 1) (ha : fieldAt r.payload 0 4 = a) (hpay : r.payload.drop 4 = leBytes 4 w)
    (hw : w < 2 ^ 32) (hp : s.plainAt a x) (hc : confWritable a = true) (hl : s.live = true)
    (h62 : slotOfAddr a ≠ 0x62) :
    ∃ t, exec .configRegWrite s = .next t ∧ t.boot.configAt = s.boot.configAt + r.size
      ∧ t.rd x.r x.i x.j = storedWord x.r (s.readWord x.r x.i x.j) w % 2 ^ 32 := by
  have hlen : r.payload.length / 4 - 1 = 1 := by
    have h := congrArg List.length hpay
    rw [List.length_drop, length_leBytes] at h
    omega
  have hword : wordsOf 1 (r.payload.drop 4) = [w] := by
    rw [hpay]
    exact congrArg (· :: []) (fieldAt_leBytes hw)
  have hx := exec_configRegWrite hr ht
  rw [writeRecord, run_look] at hx
  dsimp only at hx
  rw [hlen, ha, hword, run_seq] at hx
  refine ⟨_, hx, ?_⟩
  generalize hv : Prog.run _ (loaderMirror.run s) = v
  have hj : s.journalled v := hv ▸ appendChange_journalled _ _ (loaderMirror_journalled s (journalled_refl s))
  have hboot := journalled_boot hj
  have hread := journalled_readWord hj (confWritable_apart hp hc h62) x.i x.j
  obtain ⟨hlamp, hans, hbt, hrd⟩ := busWrite_stores (journalled_plainAt hj hp) hw
  have hpower : v.live = true := by
    obtain ⟨_, _, _, _, _, rfl⟩ := hj
    exact hl
  have hlive : ((busWrite a w).run v).live = true := by
    rw [State.live, hlamp]
    exact hpower
  rw [run_writeWords_single hc hlive hans]
  generalize (busWrite a w).run v = d at hbt hrd
  exact ⟨by rw [recDone_configAt r d, hbt, hboot], by rw [recDone_rd r d, hrd, hread]⟩

/-! ### The END record (R27) -/

/-- What CONFIG_END does before the loader goes on; `t`: the state it finds. -/
def endConfig (t : State) : List Prog := [
  modBoot fun b => { b with
    phase := 3
    lpddrKnown := b.lpddrKnown || !b.ddrDeclared },
  deviceSet 9 1,
  modSvc fun v => { v with intakeRun := t.localRole != 2 },
  Prog.when (t.localRole ≠ 2) (firstWrite [.canTx 0, .canTx 1]),
  Prog.when (t.boot.imageAlt = true) (bootFault 0x020D)]

/-- A command whose last part is the loader's going on. -/
theorem run_all_snoc (ps : List Prog) (p : Prog) (s : State) :
    (Prog.all (ps ++ [p])).run s = p.run ((Prog.all ps).run s) := by
  induction ps generalizing s with
  | nil => rw [List.nil_append, run_all_cons, run_all_nil, run_all_nil]
  | cons q ps ih => rw [List.cons_append, run_all_cons, ih, run_all_cons]

theorem exec_configEnd {r : ConfRec} (hr : s.nextRec = some r) (ht : r.typ = 0xFF) :
    exec .configEnd s = .next ((Prog.all (endConfig (loaderMirror.run s) ++ [loaderProgress])).run
      (loaderMirror.run s)) := by
  have hx : exec .configEnd s = execConfigEnd s := rfl
  rw [execConfigEnd, outcome_onRecord hr ht, run_look] at hx
  exact hx.trans (congrArg (fun l => Host.Outcome.next ((Prog.all l).run (loaderMirror.run s)))
    (List.append_assoc [_, _, _, _] [_] [_]).symm)

theorem journalled_localRole (h : s.journalled t) : t.localRole = s.localRole := by
  obtain ⟨_, _, _, _, _, rfl⟩ := h
  rfl

theorem endConfig_phase (s : State) : ((Prog.all (endConfig s)).run s).boot.phase = 3
    ∧ ((Prog.all (endConfig s)).run s).svc.intakeRun = (s.localRole != 2) := by
  have hset : ∀ u, ((deviceSet 9 1).run u).boot = u.boot := fun u =>
    within_deviceSet (partsLe_refl _) u .boot rfl
  have hpins : ∀ u, let v := (Prog.when (s.localRole ≠ 2) (firstWrite [.canTx 0, .canTx 1])).run u
      v.boot = u.boot ∧ v.svc = u.svc := fun u =>
    have h := within_when (within_firstWrite (partsLe_refl _)) u
    ⟨h .boot rfl, h .svc rfl⟩
  have hfault : ∀ u, let v := (Prog.when (s.boot.imageAlt = true) (bootFault 0x020D)).run u
      v.boot = u.boot ∧ v.svc = u.svc := fun u =>
    have h := within_when (within_bootFault (partsLe_refl _)) u
    ⟨h .boot rfl, h .svc rfl⟩
  rw [endConfig, run_all_cons, run_all_cons, run_all_cons, run_all_cons, run_all_cons, run_all_nil,
    (hfault _).1, (hfault _).2, (hpins _).1, (hpins _).2]
  exact ⟨congrArg Boot.phase (hset _), rfl⟩

theorem configEnd_ends {r : ConfRec} (hr : s.nextRec = some r) (ht : r.typ = 0xFF) :
    ∃ t, exec .configEnd s = .next t ∧ (State.loaderGoesOn fun u =>
      u.boot.phase = 3 ∧ u.svc.intakeRun = (s.localRole != 2)) t := by
  have hrole := journalled_localRole (loaderMirror_journalled s (journalled_refl s))
  have hends := endConfig_phase (loaderMirror.run s)
  rw [hrole] at hends
  have hx := exec_configEnd hr ht
  rw [run_all_snoc] at hx
  exact ⟨_, hx, _, hends, rfl⟩

end Sys2Proof.Machine
end

section
/-! PROOFS. The image and its sections: what the loader takes over, where it turns to the alternate image,
and what it has loaded (chapter 03, R83 to R88). -/

set_option Elab.async false

namespace Sys2Proof.Machine

variable {s t : State}

/-! ### The image (R83 to R86) -/

/-- The loader gives a failed image up for the alternate one, with nothing in flash or OTP changed. -/
def State.turnsTo (s : State) (alt : Nat) (t : State) : Prop :=
  t.boot.phase = 1 ∧ t.boot.imageAlt = true ∧ t.boot.imageBase = alt ∧ t.boot.sects = []
    ∧ t.flash = s.flash ∧ t.otp = s.otp

theorem run_imageFails (hb : s.boot.overBridge = false) (hi : s.boot.imageAlt = false)
    (ha : s.altOffset ≠ 0) : imageFails.run s = (Prog.all [
      killThreads,
      Prog.each (upTo 2) outputPinsOff,
      modSvc fun v => { v with intakeRun := false },
      modAve fun v => { v with ddrBytes := 0, ddrInit := false },
      setF F.BOOT_STATUS_QUAD_FALLBACK 0,
      setF F.BOOT_STATUS_LPDDR_TRAINED 0,
      modBoot fun b => b.newImage s.altOffset true]).run s := by
  rw [imageFails, run_look, if_neg (by simp [hb, hi, ha])]

theorem imageFails_turnsTo (hb : s.boot.overBridge = false) (hi : s.boot.imageAlt = false)
    (ha : s.altOffset ≠ 0) : s.turnsTo s.altOffset (imageFails.run s) := by
  have hw := within_imageFails (partsLe_refl _) s
  have hflash : (imageFails.run s).flash = s.flash := hw (.mem .flash) (by decide)
  have hotp : (imageFails.run s).otp = s.otp := hw (.mem .otp) (by decide)
  have hboot : ∃ b : Boot, (imageFails.run s).boot = b.newImage s.altOffset true := by
    rw [run_imageFails hb hi ha]
    simp only [run_all_cons, run_all_nil]
    exact ⟨_, rfl⟩
  obtain ⟨b, hboot⟩ := hboot
  refine ⟨?_, ?_, ?_, ?_, hflash, hotp⟩ <;> rw [hboot] <;> rfl

theorem bootFault_keeps (code sect : Nat) (s : State) : let u := (bootFault code sect).run s
    u.boot = s.boot ∧ u.flash = s.flash ∧ u.otp = s.otp := by
  have h := within_bootFault (partsLe_refl _) (a := code) (b := sect) (c := 0) s
  exact ⟨h .boot rfl, h (.mem .flash) rfl, h (.mem .otp) rfl⟩

theorem altOffset_congr (h : t.otp = s.otp) : t.altOffset = s.altOffset := by
  unfold State.altOffset State.num State.bytes State.byte State.mem
  rw [h]

theorem imageFault_turnsTo (hb : s.boot.overBridge = false) (hi : s.boot.imageAlt = false)
    (ha : s.altOffset ≠ 0) (code : Nat) :
    s.turnsTo s.altOffset ((Prog.seq (bootFault code) imageFails).run s) := by
  obtain ⟨hboot, hflash, hotp⟩ := bootFault_keeps code 0 s
  rw [run_seq]
  generalize (bootFault code).run s = u at hboot hflash hotp
  have halt := altOffset_congr hotp
  obtain ⟨h1, h2, h3, h4, h5, h6⟩ := imageFails_turnsTo (s := u) (hboot ▸ hb) (hboot ▸ hi) (halt ▸ ha)
  exact ⟨h1, h2, h3.trans halt, h4, h5.trans hflash, h6.trans hotp⟩


/-- What step 1 does once a header can be read. -/
def State.verdict (s : State) : Prog :=
  let h := s.imgBytes 0 256
  if s.headerOk h = false ∨ sectTableOk (fieldAt h 8 4) (fieldAt h 0x24 4) (fieldAt h 0x28 4)
      s.boot.imageBase (s.sectTable h) = false then .seq (bootFault 0x0201) imageFails
  else if s.signatureFault h ≠ 0 then .seq (bootFault (s.signatureFault h)) imageFails
  else acceptImage h false

/-- No flash operation of the loader has been tried again. -/
def State.retriesCleared (s : State) : State := { s with boot := { s.boot with flashRetries := 0 } }

theorem imgHas_flash (hb : s.boot.overBridge = false) (off n : Nat) : s.imgHas off n = true := by
  simp [State.imgHas, hb]

theorem exec_imageVerify (hp : s.boot.phase = 1) (hr : s.boot.flashReady = true)
    (hb : s.boot.overBridge = false) (hsel : s.lamp.straps.bootsel = 0) :
    exec (.imageVerify true true) s = .next (s.verdict.run s.retriesCleared) := by
  have hx : exec (.imageVerify true true) s = execImageVerify true true s := rfl
  have hhas := imgHas_flash hb
  have hdue : ∀ off n, s.imgDue off n = true := fun off n => by simp [State.imgDue, hhas]
  rw [execImageVerify, outcome_eq, imageVerify, run_look] at hx
  simp only [hb, hsel, hhas, hdue, hp, hr, Bool.false_or, Bool.true_or, Bool.not_false, Bool.true_and,
    Bool.not_true, Bool.and_true, true_or, and_true, implies_true, if_true, Prog.when,
    zero_ne_one, if_false, reduceCtorEq, false_or] at hx
  rw [run_all_cons, run_all_cons, run_all_nil, run_modBoot] at hx
  exact hx


/-- The registers that name the build that runs are no others of the BOOT block. -/
theorem buildRegs_apart : (∀ a ∈ R.BOOT_BUILD_LO.words 0 0, a ∉ R.BOOT_BUILD_HI.words 0 0)
    ∧ (∀ a ∈ R.BOOT_BUILD_LO.words 0 0, a ∉ R.BOOT_IMAGE_OFFSET.words 0 0)
    ∧ ∀ a ∈ R.BOOT_BUILD_HI.words 0 0, a ∉ R.BOOT_IMAGE_OFFSET.words 0 0 := by
  decide +kernel

theorem acceptImage_takesOver (h : List Byte) : let t := (acceptImage h false).run s
    t.boot.phase = 2 ∧ t.boot.sects = s.sectTable h ∧ t.boot.imageLen = fieldAt h 8 4
      ∧ t.boot.quad = false ∧ t.rd R.BOOT_BUILD_LO = fieldAt h 0x10 4 % 2 ^ 32
      ∧ t.rd R.BOOT_BUILD_HI = fieldAt h 0x14 4 % 2 ^ 32 := by
  obtain ⟨hlohi, hlo, hhi⟩ := buildRegs_apart
  have hlater : (Prog.seq (deviceSet 8 1) initRetention).Within _ :=
    within_seq (within_deviceSet (partsLe_refl _))
      (Prog.Within.mono (within_initRetention (partsLe_refl _)) (by decide +kernel))
  have hblank : ∀ u, ((Prog.when ((upTo 4).all (fun i => s.otpBlank i) = true)
      (.seq (setF F.BOOT_STATUS_OTP_BLANK 1) (bootFault 0x020E))).run u).boot = u.boot := by
    refine keeps_when fun _ => keeps_seq (fun u => setF_boot u ..) fun u => (bootFault_keeps 0x020E 0 u).1
  dsimp only
  rw [acceptImage, run_look, run_all_cons,
    run_when_neg (c := false = true ∧ s.lamp.straps.bootsel ≠ 1) (fun hq => Bool.false_ne_true hq.1), run_skip, run_all_cons, run_all_cons,
    run_all_cons, run_all_cons, run_all_cons, run_all_cons, run_all_cons, run_all_nil, run_modBoot]
  generalize hv : (Prog.when ((upTo 4).all (fun i => s.otpBlank i) = true)
    (.seq (setF F.BOOT_STATUS_OTP_BLANK 1) (bootFault 0x020E))).run _ = v
  have hboot := hv ▸ hblank _
  generalize hw : (setReg R.BOOT_IMAGE_OFFSET _).run _ = w
  have hwboot : w.boot = v.boot := by rw [← hw, setReg_boot, setReg_boot, setReg_boot]
  have hwlo : w.rd R.BOOT_BUILD_LO = fieldAt h 0x10 4 % 2 ^ 32 := by
    rw [← hw, rd_setReg_words hlo, rd_setReg_words hlohi, rd_setReg_self]
  have hwhi : w.rd R.BOOT_BUILD_HI = fieldAt h 0x14 4 % 2 ^ 32 := by
    rw [← hw, rd_setReg_words hhi, rd_setReg_self]
  have hend : (initRetention.run ((deviceSet 8 1).run w)).boot = w.boot := hlater w .boot rfl
  rw [hend, hwboot, hboot]
  exact ⟨rfl, rfl, rfl, rfl, (rd_of_within hlater rfl (by decide +kernel) w 0 0).trans hwlo,
    (rd_of_within hlater rfl (by decide +kernel) w 0 0).trans hwhi⟩


theorem fieldAt_lt (b : List Byte) (off : Nat) : fieldAt b off 4 < 2 ^ 32 := by
  have hlen : (slice b off 4).length ≤ 4 := (List.length_take ..).trans_le (Nat.min_le_left _ _)
  exact (leNat_lt _).trans_le ((Nat.pow_le_pow_right (by decide) hlen).trans (by decide))

theorem imageVerify_accepts (hp : s.boot.phase = 1) (hr : s.boot.flashReady = true)
    (hb : s.boot.overBridge = false) (hsel : s.lamp.straps.bootsel = 0) :
    let h := s.imgBytes 0 256
    s.headerOk h = true → sectTableOk (fieldAt h 8 4) (fieldAt h 0x24 4) (fieldAt h 0x28 4)
      s.boot.imageBase (s.sectTable h) = true → s.signatureFault h = 0 →
    ∃ t, exec (.imageVerify true true) s = .next t ∧
      t.boot.phase = 2 ∧ t.boot.sects = s.sectTable h ∧ t.boot.imageLen = fieldAt h 8 4
        ∧ t.boot.quad = false ∧ t.rd R.BOOT_BUILD_LO = fieldAt h 0x10 4
        ∧ t.rd R.BOOT_BUILD_HI = fieldAt h 0x14 4 := by
  intro h hhead htable hsig
  refine ⟨_, exec_imageVerify hp hr hb hsel, ?_⟩
  have hv : s.verdict = acceptImage h false := by
    rw [State.verdict, if_neg (not_or.mpr ⟨by rw [hhead]; decide, by rw [htable]; decide⟩),
      if_neg (not_not.mpr hsig)]
  have ht := acceptImage_takesOver (s := s.retriesCleared) h
  rw [Nat.mod_eq_of_lt (fieldAt_lt h _), Nat.mod_eq_of_lt (fieldAt_lt h _)] at ht
  rw [hv]
  exact ht

theorem imageVerify_turnsTo (hp : s.boot.phase = 1) (hr : s.boot.flashReady = true)
    (hb : s.boot.overBridge = false) (hsel : s.lamp.straps.bootsel = 0) :
    let h := s.imgBytes 0 256
    s.headerOk h = false ∨ sectTableOk (fieldAt h 8 4) (fieldAt h 0x24 4) (fieldAt h 0x28 4)
      s.boot.imageBase (s.sectTable h) = false ∨ s.signatureFault h ≠ 0 → s.boot.imageAlt = false →
    s.altOffset ≠ 0 → ∃ t, exec (.imageVerify true true) s = .next t ∧ s.turnsTo s.altOffset t := by
  intro h hbad hi ha
  refine ⟨_, exec_imageVerify hp hr hb hsel, ?_⟩
  have hfault : ∀ code, s.turnsTo s.altOffset ((Prog.seq (bootFault code) imageFails).run s.retriesCleared) :=
    fun code => imageFault_turnsTo (s := s.retriesCleared) hb hi ha code
  by_cases hhead : s.headerOk h = false ∨ sectTableOk (fieldAt h 8 4) (fieldAt h 0x24 4) (fieldAt h 0x28 4)
      s.boot.imageBase (s.sectTable h) = false
  · rw [State.verdict, if_pos hhead]
    exact hfault _
  · have hsig : s.signatureFault h ≠ 0 := by
      rcases hbad with hh | hh | hh
      · exact absurd (.inl hh) hhead
      · exact absurd (.inr hh) hhead
      · exact hh
    rw [State.verdict, if_neg hhead, if_pos hsig]
    exact hfault _


/-! ### The CONFIG section (R26, R88) -/

theorem modSect_get {i : Nat} {x : Sect} (hx : s.boot.sects[i]? = some x) (f : Sect → Sect) :
    ((modSect i f).run s).boot.sects[i]? = some (f x) := by
  have hi : i < s.boot.sects.length := (List.getElem?_eq_some_iff.mp hx).1
  have hsome : ∀ k ∈ upTo s.boot.sects.length, (s.boot.sects[k]?).map (fun y => if k = i then f y else y)
      = some (if k = i then f (s.boot.sects.getD k x) else s.boot.sects.getD k x) := fun k hk => by
    have hk' := List.mem_range.mp hk
    rw [List.getD_eq_getElem?_getD, List.getElem?_eq_getElem hk']
    rfl
  have hlist : ((modSect i f).run s).boot.sects = (upTo s.boot.sects.length).map fun k =>
      if k = i then f (s.boot.sects.getD k x) else s.boot.sects.getD k x := by
    rw [modSect, run_modBoot]
    exact (List.filterMap_congr hsome).trans (congrFun (List.filterMap_eq_map ..) _)
  rw [hlist, List.getElem?_map, upTo, List.getElem?_range hi, Option.map_some, if_pos rfl,
    List.getD_eq_getElem?_getD, hx, Option.getD_some]

/-- The service ports run. -/
def State.portsOpen (s : State) : Prop := s.svc.portsRun = true

theorem portsOpen_of_within {W : List Part} {p : Prog} (hp : p.Within W) (hw : coveredBy W .svc = false) :
    p.Preserves State.portsOpen := fun s h => by
  rw [State.portsOpen, hp s .svc hw]
  exact h

theorem startPorts_opens (s : State) : (startPorts.run s).portsOpen := by
  rw [startPorts, run_look]
  by_cases hrun : s.svc.portsRun = false
  case neg =>
    rw [run_when_neg hrun, run_skip]
    exact (Bool.not_eq_false _).mp hrun
  case pos =>
    have hword : ∀ a bs, (ijWrite a bs).Preserves State.portsOpen := fun a bs =>
      preserves_seq (portsOpen_of_within (within_retWrite (partsLe_refl _)) rfl) fun _ h => h
    have hdone : ∀ i, (svcDone i 0x0B).Preserves State.portsOpen := fun i => preserves_look fun _ =>
      preserves_all_cons (hword _ _) <| preserves_all_cons (hword _ _) <|
      preserves_all_cons (fun _ h => h) preserves_all_nil
    have hrest : ∀ c, (Prog.all [firstWrite [.uartTx, .spiMiso],
        Prog.when (s.lamp.retUnusable = false) (Prog.each (upTo ijSlots) fun i =>
          Prog.when (s.ij i 4 1 = 2 ∧ s.ij i 7 1 = 1) (svcDone i 0x0B)),
        appendChange c]).Preserves State.portsOpen := fun c =>
      preserves_all_cons (portsOpen_of_within (within_firstWrite (partsLe_refl _)) rfl) <|
      preserves_all_cons (preserves_when <| preserves_each fun _ => preserves_when (hdone _)) <|
      preserves_all_cons (portsOpen_of_within (within_appendChange (partsLe_refl _)) rfl) preserves_all_nil
    rw [run_when_pos hrun, run_all_cons]
    refine hrest _ _ ?_
    rfl


/-- What CONFIG_SECTION_CHECK does with a CONFIG section `b` that passes; `role`: what it declares. -/
def takeConfig (b : List Byte) (role : Nat) : Prog := Prog.all [
  modSect 0 fun y => { y with state := 2 },
  modBoot fun v => { v with config := b, configAt := 0 },
  setF F.SYS_STATE_ROLE role,
  startPorts]

theorem exec_configSectionCheck {x : Sect} (hx : s.boot.sects[0]? = some x) (hp : s.boot.phase = 2)
    (hc : s.boot.config = []) (hdue : s.sectDue x = true) (hchips : x.chipsOk s.ident.order = true)
    (hd : s.digestOk x true = true) (hok : confOk (s.imgBytes x.offset x.length) = true) :
    exec (.configSectionCheck true) s = .next ((takeConfig (s.imgBytes x.offset x.length)
      (s.declaredRole (s.imgBytes x.offset x.length))).run s.retriesCleared) := by
  have he : exec (.configSectionCheck true) s = execConfigSectionCheck true s := rfl
  rw [execConfigSectionCheck, hx] at he
  dsimp only at he
  rw [if_neg (by rw [hchips]; decide), if_neg (by rw [hd]; decide), if_neg (by rw [hok]; decide),
    outcome_when ⟨hp, hc, hdue⟩, run_all_cons, run_all_cons, run_all_nil, run_modBoot] at he
  exact he

theorem declaredRole_lt (b : List Byte) : s.declaredRole b < 4 := by
  unfold State.declaredRole
  dsimp only
  split_ifs
  · decide
  · decide
  · split
    · decide
    · split_ifs
      · omega
      · decide

theorem takeConfig_takes {x : Sect} (hx : s.boot.sects[0]? = some x) (b : List Byte) {role : Nat}
    (hr : role < 4) : let t := (takeConfig b role).run s
    t.boot.config = b ∧ t.fld F.SYS_STATE_ROLE = role ∧ t.boot.configAt = 0
      ∧ (t.boot.sects[0]?).map (fun y => y.state) = some 2 ∧ t.svc.portsRun = true := by
  have hsect := modSect_get hx fun y => { y with state := 2 }
  have hports : startPorts.Within _ := within_startPorts (partsLe_refl _)
  dsimp only
  rw [takeConfig, run_all_cons, run_all_cons, run_all_cons, run_all_cons, run_all_nil]
  generalize (modSect 0 fun y => { y with state := 2 }).run s = u at hsect
  rw [run_modBoot]
  generalize hw : (Act.boot { u.boot with config := b, configAt := 0 }).apply u = w
  have hwb : w.boot = { u.boot with config := b, configAt := 0 } := by rw [← hw]; rfl
  have hset : ((setF F.SYS_STATE_ROLE role).run w).boot = w.boot := setF_boot w ..
  have hfld := fld_setF_self w F.SYS_STATE_ROLE rfl role 0 0
  generalize (setF F.SYS_STATE_ROLE role).run w = v at hset hfld
  rw [hports v .boot rfl, fld_of_within hports rfl (by decide +kernel), hset, hfld, hwb]
  exact ⟨rfl, Nat.mod_eq_of_lt hr, rfl, by rw [hsect]; rfl, startPorts_opens v⟩

theorem configSectionCheck_takes {x : Sect} (hx : s.boot.sects[0]? = some x) (hp : s.boot.phase = 2)
    (hc : s.boot.config = []) (hdue : s.sectDue x = true) (hchips : x.chipsOk s.ident.order = true)
    (hd : s.digestOk x true = true) (hok : confOk (s.imgBytes x.offset x.length) = true) :
    ∃ t, exec (.configSectionCheck true) s = .next t ∧ t.boot.config = s.imgBytes x.offset x.length
      ∧ t.fld F.SYS_STATE_ROLE = s.declaredRole (s.imgBytes x.offset x.length)
      ∧ t.boot.configAt = 0 ∧ (t.boot.sects[0]?).map (fun y => y.state) = some 2
      ∧ t.svc.portsRun = true :=
  ⟨_, exec_configSectionCheck hx hp hc hdue hchips hd hok,
    takeConfig_takes (s := s.retriesCleared) hx _ (declaredRole_lt _)⟩

end Sys2Proof.Machine
end

section
/-! PROOFS. The loader's sections, the LPDDR training, the start calibration, the Bridge boot that runs out of
time and a line's start (chapter 03, R73, R87, R133; chapter 08, R254; chapter 11, R314). -/

set_option Elab.async false

namespace Sys2Proof.Machine

variable {s t : State}

/-! ### Sections (R87) -/

/-- The entry of a section of Plaza whose bytes land: those that lay there are no longer loaded. -/
def displaced (x y : Sect) : Sect :=
  if y.destSel = 0 ∧ y.sectId ≠ x.sectId ∧ y.state = 2 ∧ spansMeet y.span x.span = true
  then { y with state := 0 } else y

theorem run_landSection_plaza {x : Sect} (h : x.destSel = 0) (bs : List Byte) :
    (landSection x bs).run s = (modBoot fun b => { b with sects := b.sects.map (displaced x) }).run
      ((cleanRange x.dest bs.length).run ((paStore x.dest bs).run s)) := by
  rw [landSection, if_pos h]
  rfl

theorem run_landSection_icon {x : Sect} (h : x.destSel = 1) (bs : List Byte) :
    (landSection x bs).run s = (store .icon x.dest bs).run s := by
  rw [landSection, if_neg (by omega), if_pos h]

theorem landSection_sects {i : Nat} {x : Sect} (hx : s.boot.sects[i]? = some x) (bs : List Byte) :
    ((landSection x bs).run s).boot.sects[i]? = some x := by
  by_cases h0 : x.destSel = 0
  case pos =>
    rw [run_landSection_plaza h0, run_modBoot]
    have hb : ((cleanRange x.dest bs.length).run ((paStore x.dest bs).run s)).boot = s.boot :=
      (within_seq (within_paStore (partsLe_refl _))
        (Prog.Within.mono (within_cleanRange (partsLe_refl _)) (by decide)) : Prog.Within _ _) s .boot rfl
    have hown : displaced x x = x := if_neg fun h => h.2.1 rfl
    generalize (cleanRange x.dest bs.length).run ((paStore x.dest bs).run s) = u at hb
    have hget : (u.boot.sects.map (displaced x))[i]? = some x := by
      rw [List.getElem?_map, hb, hx, Option.map_some, hown]
    exact hget
  case neg =>
    rw [landSection, if_neg h0]
    split
    · exact hx
    · exact hx

theorem landSection_icon {x : Sect} (hm : s.memsOk) (h1 : x.destSel = 1) {bs : List Byte}
    (hfit : x.dest + bs.length ≤ 0x40000) :
    ((landSection x bs).run s).bytes .icon x.dest bs.length = bs := by
  rw [run_landSection_icon h1]
  exact bytes_store hm hfit

theorem landSection_plaza {x : Sect} (h0 : x.destSel = 0) (bs : List Byte) :
    ((landSection x bs).run s).plaza = ((paStore x.dest bs).run s).plaza := by
  rw [run_landSection_plaza h0, run_modBoot]
  generalize (paStore x.dest bs).run s = u
  exact (within_cleanRange (partsLe_refl _) : (cleanRange x.dest bs.length).Within _) u (.mem .plaza) rfl

/-- Section `i` lies where it belongs, and is marked loaded. -/
def takeSection (i : Nat) (x : Sect) (bs : List Byte) : Prog :=
  .seq (landSection x bs) (modSect i fun y => { y with state := 2 })

theorem exec_sectionLoaded {i : Nat} {x : Sect} (hx : s.boot.sects[i]? = some x)
    (hw : s.sectWanted x = true) (hdue : s.sectDue x = true) (hplace : sectOutOfPlace x = false)
    (hchips : x.chipsOk s.ident.order = true) (hd : s.digestOk x true = true) (h2 : x.kind ≠ 2)
    (h3 : x.kind ≠ 3) : exec (.sectionLoaded i true) s = .next (loaderProgress.run
      ((takeSection i x (s.imgBytes x.offset x.length)).run s.retriesCleared)) := by
  have hread : s.sectRead x true = s.imgBytes x.offset x.length := by
    simp only [State.digestOk, Bool.and_eq_true] at hd
    rw [State.sectRead, if_pos (by rw [hd.1.2]; rfl)]
  have hmatch : ∀ v bs, (sectMatched i x bs).run v
      = loaderProgress.run ((modSect i fun y => { y with state := 2 }).run v) := fun v bs => by
    rw [sectMatched, run_look, if_neg h2, if_neg fun h => h3 h.1, run_seq]
  have he : exec (.sectionLoaded i true) s = execSectionLoaded i true s := rfl
  rw [execSectionLoaded, hx] at he
  dsimp only at he
  rw [hplace, hchips, outcome_when ⟨hw, hdue⟩, run_seq, run_modBoot, hread] at he
  simp only [Bool.not_true, Bool.or_false, Bool.false_eq_true, if_false, hd, if_true] at he
  rw [run_all_cons, run_all_cons, run_all_cons, run_all_nil, run_when_neg (by decide), run_skip, hmatch] at he
  exact he


theorem length_imgBytes (s : State) (off n : Nat) : (s.imgBytes off n).length = n := by
  rw [State.imgBytes]
  split <;> simp [State.bytes, upTo]

theorem sectionLoaded_loads {i : Nat} {x : Sect} (hx : s.boot.sects[i]? = some x)
    (hw : s.sectWanted x = true) (hdue : s.sectDue x = true) (hplace : sectOutOfPlace x = false)
    (hchips : x.chipsOk s.ident.order = true) (hd : s.digestOk x true = true) (h2 : x.kind ≠ 2)
    (h3 : x.kind ≠ 3) : ∃ t, exec (.sectionLoaded i true) s = .next t ∧ (State.loaderGoesOn fun u =>
      (u.boot.sects[i]?).map (fun y => y.state) = some 2
        ∧ (x.destSel = 1 → s.memsOk → x.dest + x.length ≤ 0x40000 →
          u.bytes .icon x.dest x.length = s.imgBytes x.offset x.length)
        ∧ (x.destSel = 0 → u.plaza = ((paStore x.dest (s.imgBytes x.offset x.length)).run
          s).plaza)) t := by
  refine ⟨_, exec_sectionLoaded hx hw hdue hplace hchips hd h2 h3, _, ⟨?_, fun h1 hm hfit => ?_, fun h0 => ?_⟩,
    rfl⟩
  · have hget := modSect_get (landSection_sects (s := s.retriesCleared) hx (s.imgBytes x.offset x.length))
      fun y => { y with state := 2 }
    rw [takeSection, run_seq, hget]
    rfl
  · have hlen := length_imgBytes s x.offset x.length
    have hland := landSection_icon (s := s.retriesCleared) (bs := s.imgBytes x.offset x.length) hm h1
      (by rw [hlen]; exact hfit)
    rw [hlen] at hland
    exact hland
  · have hboot := (paStore_mems_of_world (s := s) (t := s.retriesCleared) rfl x.dest
      (s.imgBytes x.offset x.length)).1
    exact (landSection_plaza h0 _).trans hboot

/-! ### The LPDDR training (R133) -/

/-- What LPDDR_TRAINING_DONE does with a training that succeeds, before the loader goes on. -/
def trained (mib : Nat) : List Prog := [
  modAve fun v => { v with
    ddrBytes := mib * 2 ^ 20 / 8 * 7
    ddrInit := true
    ddrPoison := ⟨[], []⟩ },
  setF F.BOOT_STATUS_LPDDR_TRAINED 1,
  modBoot fun b => { b with lpddrKnown := true }]

/-- What it does with the last training that fails. -/
def untrained : List Prog := [
  setF F.DDR_EVENT_TRAIN_FAIL 1,
  raise 0x8001 unitDdr,
  modBoot fun b => { b with lpddrKnown := true }]

/-- A training ends `us` microseconds after its start. -/
def State.trainTimed (s : State) (us : Nat) : State := (setReg R.DDR_TRAIN_TIME (us % 2 ^ 32)).run s

theorem exec_lpddrTrainingDone (hl : s.live = true) (hd : s.boot.ddrDeclared = true)
    (hk : s.boot.lpddrKnown = false) (ok : Bool) (us : Nat) :
    exec (.lpddrTrainingDone ok us) s = .next ((if ok then Prog.all (trained s.boot.ddrMib ++ [loaderProgress])
      else if s.boot.trainAttempt = 0 ∧ s.boot.ddrRate ≠ 0 then Prog.all [
        modBoot fun b => { b with trainAttempt := 1, ddrRate := b.ddrRate - 1 },
        setF F.DDR_EVENT_RATE_DOWN 1,
        raise 0x8004 unitDdr]
      else Prog.all (untrained ++ [loaderProgress])).run (s.trainTimed us)) :=
  outcome_when ⟨hl, hd, hk⟩ _ s


theorem trained_knows (mib us : Nat) : let u := (Prog.all (trained mib)).run (s.trainTimed us)
    u.ave.ddrBytes = mib * 2 ^ 20 / 8 * 7 ∧ u.ave.ddrInit = true
      ∧ u.fld F.BOOT_STATUS_LPDDR_TRAINED = 1 ∧ u.boot.lpddrKnown = true
      ∧ u.rd R.DDR_TRAIN_TIME = us % 2 ^ 32 := by
  have htime : (s.trainTimed us).rd R.DDR_TRAIN_TIME = us % 2 ^ 32 := by
    rw [State.trainTimed, rd_setReg_self, Nat.mod_mod]
  dsimp only
  rw [trained, run_all_cons, run_all_cons, run_all_cons, run_all_nil, run_modAve]
  generalize hv : (Act.ave _).apply (s.trainTimed us) = v
  have hva : v.ave.ddrBytes = mib * 2 ^ 20 / 8 * 7 ∧ v.ave.ddrInit = true := by
    rw [← hv]
    exact ⟨rfl, rfl⟩
  have hvt : v.rd R.DDR_TRAIN_TIME = us % 2 ^ 32 := by
    rw [← htime, ← hv]
    rfl
  have hwa := setF_ave v F.BOOT_STATUS_LPDDR_TRAINED 1 0 0
  have hwf := fld_setF_self v F.BOOT_STATUS_LPDDR_TRAINED rfl 1 0 0
  have hwt : ((setF F.BOOT_STATUS_LPDDR_TRAINED 1).run v).rd R.DDR_TRAIN_TIME = us % 2 ^ 32 := by
    rw [setF, run_look, rd_setReg_words (by decide), hvt]
  generalize (setF F.BOOT_STATUS_LPDDR_TRAINED 1).run v = w at hwa hwf hwt
  rw [run_modBoot]
  exact ⟨(congrArg Ave.ddrBytes hwa).trans hva.1, (congrArg Ave.ddrInit hwa).trans hva.2, hwf, rfl, hwt⟩

theorem lpddrTrainingDone_succeeds (hl : s.live = true) (hd : s.boot.ddrDeclared = true)
    (hk : s.boot.lpddrKnown = false) (us : Nat) :
    ∃ t, exec (.lpddrTrainingDone true us) s = .next t ∧ (State.loaderGoesOn fun u =>
      u.ave.ddrBytes = s.boot.ddrMib * 2 ^ 20 / 8 * 7 ∧ u.ave.ddrInit = true
        ∧ u.fld F.BOOT_STATUS_LPDDR_TRAINED = 1 ∧ u.boot.lpddrKnown = true
        ∧ u.rd R.DDR_TRAIN_TIME = us % 2 ^ 32) t := by
  have hx := exec_lpddrTrainingDone hl hd hk true us
  rw [if_pos rfl, run_all_snoc] at hx
  exact ⟨_, hx, _, trained_knows _ _, rfl⟩

theorem lpddrTrainingDone_stepsDown (hl : s.live = true) (hd : s.boot.ddrDeclared = true)
    (hk : s.boot.lpddrKnown = false) (us : Nat) (ha : s.boot.trainAttempt = 0) (hr : s.boot.ddrRate ≠ 0) :
    ∃ t, exec (.lpddrTrainingDone false us) s = .next t ∧
      t.boot.trainAttempt = 1 ∧ t.boot.ddrRate = s.boot.ddrRate - 1 ∧ t.boot.lpddrKnown = false
        ∧ t.fld F.DDR_EVENT_RATE_DOWN = 1 ∧ s.reports t 0x8004 unitDdr := by
  have hx := exec_lpddrTrainingDone hl hd hk false us
  rw [if_neg (by decide), if_pos ⟨ha, hr⟩, run_all_cons, run_all_cons, run_all_cons, run_all_nil,
    run_modBoot] at hx
  refine ⟨_, hx, ?_⟩
  have htb : (s.trainTimed us).boot = s.boot := setReg_boot s ..
  have hts : (s.trainTimed us).nextSeq = s.nextSeq := setReg_nextSeq s ..
  generalize hv : (Act.boot _).apply (s.trainTimed us) = v
  have hvb : v.boot = { s.boot with trainAttempt := 1, ddrRate := s.boot.ddrRate - 1 } := by
    rw [← hv, ← htb]
    rfl
  have hvs : v.nextSeq = s.nextSeq := by
    rw [← hv, ← hts]
    rfl
  have hwb := setF_boot v F.DDR_EVENT_RATE_DOWN 1 0 0
  have hwf := fld_setF_self v F.DDR_EVENT_RATE_DOWN rfl 1 0 0
  have hws := setF_nextSeq v F.DDR_EVENT_RATE_DOWN 1 0 0
  generalize (setF F.DDR_EVENT_RATE_DOWN 1).run v = w at hwb hwf hws
  rw [raise_boot, hwb, hvb]
  exact ⟨rfl, rfl, hk, (fld_raise_of_no_event (by decide) rfl (by decide) w).trans hwf,
    reports_after (hws.trans hvs)⟩

theorem untrained_knows (us : Nat) : let u := (Prog.all untrained).run (s.trainTimed us)
    u.boot.lpddrKnown = true ∧ u.ave = s.ave ∧ u.fld F.DDR_EVENT_TRAIN_FAIL = 1
      ∧ s.reports u 0x8001 unitDdr := by
  have hta : (s.trainTimed us).ave = s.ave := setReg_ave s ..
  have hts : (s.trainTimed us).nextSeq = s.nextSeq := setReg_nextSeq s ..
  dsimp only
  rw [untrained, run_all_cons, run_all_cons, run_all_cons, run_all_nil]
  have hwa := setF_ave (s.trainTimed us) F.DDR_EVENT_TRAIN_FAIL 1 0 0
  have hwf := fld_setF_self (s.trainTimed us) F.DDR_EVENT_TRAIN_FAIL rfl 1 0 0
  have hws := setF_nextSeq (s.trainTimed us) F.DDR_EVENT_TRAIN_FAIL 1 0 0
  generalize (setF F.DDR_EVENT_TRAIN_FAIL 1).run (s.trainTimed us) = w at hwa hwf hws
  have hra := raise_ave w 0x8001 unitDdr 0 0xFF 0 0xFF
  have hrf := fld_raise_of_no_event (code := 0x8001) (unit := unitDdr) (by decide)
    (f := F.DDR_EVENT_TRAIN_FAIL) rfl (by decide) w
  have hrs : s.reports ((raise 0x8001 unitDdr).run w) 0x8001 unitDdr := reports_after (hws.trans hts)
  generalize (raise 0x8001 unitDdr).run w = r at hra hrf hrs
  rw [run_modBoot]
  exact ⟨rfl, hra.trans (hwa.trans hta), hrf.trans hwf, reports_of_ring hrs rfl⟩

theorem lpddrTrainingDone_fails (hl : s.live = true) (hd : s.boot.ddrDeclared = true)
    (hk : s.boot.lpddrKnown = false) (us : Nat) (ha : s.boot.trainAttempt = 1) :
    ∃ t, exec (.lpddrTrainingDone false us) s = .next t ∧ (State.loaderGoesOn fun u =>
      u.boot.lpddrKnown = true ∧ u.ave = s.ave ∧ u.fld F.DDR_EVENT_TRAIN_FAIL = 1
        ∧ s.reports u 0x8001 unitDdr) t := by
  have hx := exec_lpddrTrainingDone hl hd hk false us
  rw [if_neg (by decide), if_neg (by rw [ha]; exact fun h => one_ne_zero h.1), run_all_snoc] at hx
  exact ⟨_, hx, _, untrained_knows _, rfl⟩


/-! ### The start calibration (chapter 08, R253, R254) -/

theorem startCalibration_maps (l : List (Nat × List (Nat × List Int))) :
    let u := (startCalibration l).run s
    u.dst.mapped = true ∧ u.dst.arrs.length = 200 := by
  have hret : ∀ p c n, (appendRetirement p c n).Keeps State.dst := fun _ _ _ s =>
    within_appendRetirement (partsLe_refl _) s .dst rfl
  have hraise : ∀ d n, (dstRaise d n).Keeps State.dst := fun d n s => raise_dst s ..
  have hbump : ∀ f n i j, (bump f n i j).Keeps State.dst := fun f n i j s => bump_dst s f n i j
  dsimp only
  rw [startCalibration, run_look]
  dsimp only
  rw [run_all_cons, run_modDst]
  refine and_comm.mp ?_
  have hrest : ∀ (b m e : List Nat) (g : Nat → Nat), (Prog.all [
      Prog.each b fun p => bump F.DST_CAL_COUNT_DONE 1 (districtOf p),
      Prog.each m fun p => dstRaise (districtOf p) 3,
      Prog.each e fun p => .seq
        (.look fun t => Prog.when (62 ≤ t.retireCount) (dstRaise (districtOf p) 0x0B))
        (appendRetirement p 1 (g p))]).Keeps State.dst := fun b m e g =>
    keeps_all_cons (keeps_each fun _ => hbump _ _ _ _) <|
    keeps_all_cons (keeps_each fun _ => hraise _ _) <|
    keeps_all_cons (keeps_each fun _ => keeps_seq (keeps_look fun _ => keeps_when fun _ => hraise _ _)
      (hret _ _ _)) keeps_all_nil
  rw [hrest]
  exact ⟨by simp [Act.apply, upTo], rfl⟩

theorem startCalibrationDone_maps (l : List (Nat × List (Nat × List Int))) (hp : s.boot.phase = 4)
    (hc : s.boot.calDone = false) (hlock : bitN (s.fld F.SYS_PLL_STATUS_LOCK) 2 = 1) :
    ∃ t, exec (.startCalibrationDone l) s = .next t ∧ (State.loaderGoesOn fun u =>
      u.boot.calDone = true ∧ u.dst.mapped = true ∧ u.dst.arrs.length = 200) t := by
  have hx : exec (.startCalibrationDone l) s = execStartCalibrationDone l s := rfl
  rw [execStartCalibrationDone, outcome_when ⟨hp, hc, hlock⟩, run_all_cons, run_all_cons, run_all_cons,
    run_all_nil] at hx
  have hmap := startCalibration_maps (s := s) l
  dsimp only at hmap
  generalize (startCalibration l).run s = v at hx hmap
  exact ⟨_, hx, (modBoot fun b => { b with calDone := true }).run v, ⟨rfl, hmap⟩, rfl⟩

/-! ### A Bridge boot that runs out of time (R73) -/

/-- The intake takes events. -/
def State.intakeOn (s : State) : Bool := s.svc.intakeRun

theorem intakeOn_of_within {W : List Part} {p : Prog} (hp : p.Within W) (hw : coveredBy W .svc = false) :
    p.Keeps State.intakeOn := fun s => by
  rw [State.intakeOn, hp s .svc hw]
  rfl

theorem intakeOn_modSvc {f : Svc → Svc} (h : ∀ v, (f v).intakeRun = v.intakeRun) :
    (modSvc f).Keeps State.intakeOn := fun s => h s.svc

theorem startPorts_intakeOn : startPorts.Keeps State.intakeOn := by
  have hword : ∀ a bs, (ijWrite a bs).Keeps State.intakeOn := fun a bs =>
    keeps_seq (intakeOn_of_within (within_retWrite (partsLe_refl _)) rfl) (intakeOn_modSvc fun _ => rfl)
  have hdone : ∀ i st, (svcDone i st).Keeps State.intakeOn := fun i st => keeps_look fun _ =>
    keeps_all_cons (hword _ _) <| keeps_all_cons (hword _ _) <|
    keeps_all_cons (intakeOn_modSvc fun _ => rfl) keeps_all_nil
  exact keeps_look fun s => keeps_when fun _ => keeps_all_cons (intakeOn_modSvc fun _ => rfl) <|
    keeps_all_cons (intakeOn_of_within (within_firstWrite (partsLe_refl _)) rfl) <|
    keeps_all_cons (keeps_when fun _ => keeps_each fun i => keeps_when fun _ => hdone _ _) <|
    keeps_all_cons (intakeOn_of_within (within_appendChange (partsLe_refl _)) rfl) keeps_all_nil

theorem run_takeHeldRequest (h : s.boot.heldRequest = 0) : takeHeldRequest.run s = s := by
  rw [takeHeldRequest, run_look, run_when_neg fun hq => hq.2 h, run_skip]

theorem killThreads_boot (s : State) : (killThreads.run s).boot
    = { s.boot with threads := List.replicate 4 Thread.idle } := by
  have hi2c : (Prog.each (upTo 2) fun c => .look fun s => Prog.when
      (((s.i2c c).bind fun x => x.thread).isSome = true)
      (.seq (setI2c c none) (setReg R.I2C_STATUS 0 c))).Keeps State.boot :=
    keeps_each fun c => keeps_look fun u => keeps_when fun _ =>
      keeps_seq (fun _ => rfl) fun v => setReg_boot v ..
  rw [killThreads, run_seq, hi2c, run_modBoot]
  rfl


/-- What service wait leaves the loader and its ports in. -/
def State.waits (t : State) : Prop :=
  t.boot.phase = 8 ∧ t.boot.threads = List.replicate 4 Thread.idle
    ∧ t.can = [CanCtl.reset, CanCtl.reset] ∧ t.svc.intakeRun = false ∧ t.svc.portsRun = true

/-- The first steps of service wait. -/
def stopForService : List Prog := [
  killThreads,
  Prog.each (upTo 2) outputPinsOff,
  modBoot fun b => { b with phase := 8 },
  .act (.clearRegs 0xF0600000 0xF0630000),
  .act (.can [CanCtl.reset, CanCtl.reset]),
  modSvc fun v => { v with intakeRun := false }]

theorem stopForService_stops (s : State) : let u := (Prog.all stopForService).run s
    u.boot = { s.boot with threads := List.replicate 4 Thread.idle, phase := 8 }
      ∧ u.can = [CanCtl.reset, CanCtl.reset] ∧ u.intakeOn = false := by
  have hpins : ∀ v, ((Prog.each (upTo 2) outputPinsOff).run v).boot = v.boot := fun v =>
    (within_each fun x => within_outputPinsOff (partsLe_refl _) : Prog.Within _ _) v .boot rfl
  have hkill := killThreads_boot s
  dsimp only
  rw [stopForService, run_all_cons, run_all_cons, run_all_cons, run_all_cons, run_all_cons, run_all_cons,
    run_all_nil]
  have hu := hpins (killThreads.run s)
  generalize (Prog.each (upTo 2) outputPinsOff).run (killThreads.run s) = u at hu
  refine ⟨?_, rfl, rfl⟩
  have hb : ({ u.boot with phase := 8 } : Boot)
      = { s.boot with threads := List.replicate 4 Thread.idle, phase := 8 } := by
    rw [hu, hkill]
  exact hb

theorem run_serviceWait (s : State) : serviceWait.run s = takeHeldRequest.run ((imageDone 1).run
    (startPorts.run (initRetention.run ((Prog.all stopForService).run s)))) := by
  rw [stopForService, serviceWait]
  simp only [run_all_cons, run_all_nil]

theorem serviceWait_waits (hheld : s.boot.heldRequest = 0) : (serviceWait.run s).waits := by
  obtain ⟨hb, hcan, hin⟩ := stopForService_stops s
  rw [run_serviceWait]
  generalize (Prog.all stopForService).run s = u at hb hcan hin
  have hret : initRetention.Within _ := within_initRetention (partsLe_refl _)
  have hports : startPorts.Within _ := within_startPorts (partsLe_refl _)
  have hdone : (imageDone 1).Within _ := within_imageDone (partsLe_refl _)
  have hopen := startPorts_opens (initRetention.run u)
  have hkeep := startPorts_intakeOn (initRetention.run u)
  have hboot : (startPorts.run (initRetention.run u)).boot = u.boot :=
    (hports _ .boot rfl).trans (hret u .boot rfl)
  have hcans : (startPorts.run (initRetention.run u)).can = u.can :=
    (hports _ .can rfl).trans (hret u .can rfl)
  have hoff : (startPorts.run (initRetention.run u)).intakeOn = false :=
    hkeep.trans ((intakeOn_of_within hret rfl u).trans hin)
  generalize startPorts.run (initRetention.run u) = v at hopen hboot hcans hoff
  have hend : ((imageDone 1).run v).boot = v.boot := hdone v .boot rfl
  have hheld' : ((imageDone 1).run v).boot.heldRequest = 0 := by rw [hend, hboot, hb, hheld]
  have hsvc : ((imageDone 1).run v).svc = v.svc := hdone v .svc rfl
  have hc : ((imageDone 1).run v).can = v.can := hdone v .can rfl
  rw [run_takeHeldRequest hheld', State.waits, hend, hboot, hb, hc, hcans, hcan, hsvc]
  exact ⟨rfl, rfl, rfl, hoff, hopen⟩

theorem bridgeBootTimeout_waits (hp : s.boot.phase = 9) (hheld : s.boot.heldRequest = 0) :
    ∃ t, exec .bridgeBootTimeout s = .next t ∧ t.waits :=
  ⟨_, outcome_when hp serviceWait s, serviceWait_waits hheld⟩

/-! ### A line starts (chapter 11, R314) -/

theorem exec_lineStart (hl : s.live = true) (hb : s.badPairs [0x40, 0x41, 0x42] = [])
    (l : List (Option Nat)) (a b : List Nat) :
    exec (.lineStart l a b) s = .next (loaderProgress.run ((lineStart l a b).run s)) := by
  have hx : exec (.lineStart l a b) s = execLineStart l a b s := rfl
  rw [execLineStart, outcome_when hl, run_all_cons, run_all_cons, run_all_cons, run_all_nil,
    run_usePairs hb] at hx
  exact hx

theorem run_lineStart_none (h : s.nextLine = none) (l : List (Option Nat)) (a b : List Nat) :
    (lineStart l a b).run s = s := by
  rw [lineStart, run_look, h]
  rfl

theorem run_each_idle {α : Type} {l : List α} {f : α → Prog} (h : ∀ x ∈ l, (f x).run s = s) :
    (Prog.each l f).run s = s := by
  induction l with
  | nil => exact run_each_nil ..
  | cons x xs ih =>
    rw [run_each_cons, h x List.mem_cons_self, ih fun y hy => h y (List.mem_cons_of_mem _ hy)]

/-- A line of dark outputs. -/
theorem run_lineStart_dark {n : Nat} (h : s.nextLine = some n) (hn : n ≠ 0) (h0 : (s.output 0).phase = 0)
    (h1 : (s.output 1).phase = 0) (l : List (Option Nat)) (a b : List Nat) :
    (lineStart l a b).run s = latchIcons.run { s with sco := { s.sco with line := n, due := false } } := by
  have hdark : ∀ v : State, v.sco.outs = s.sco.outs → ∀ x ∈ upTo 2, (v.output x).phase = 0 := by
    intro v hv x hx
    have hout : ∀ y, v.output y = s.output y := fun y => by rw [State.output, State.output, hv]
    rcases List.mem_range.mp hx with hx
    interval_cases x
    · rw [hout, h0]
    · rw [hout, h1]
  have hskip : ∀ (v : State) (p : Nat → Prog) (c : Nat → Prop) [∀ x, Decidable (c x)],
      v.sco.outs = s.sco.outs →
      (Prog.each (upTo 2) fun x => Prog.when ((v.output x).phase ≠ 0 ∧ c x) (p x)).run v = v := by
    intro v p c _ hv
    refine run_each_idle fun x hx => ?_
    rw [run_when_neg fun hc => hc.1 (hdark v hv x hx), run_skip]
  have hlast : ∀ v : State, v.sco.outs = s.sco.outs →
      (Prog.each (upTo 2) fun x => outputLine x n (nth none l x) (nth 16 a x) b).run v = v := by
    intro v hv
    refine run_each_idle fun x hx => ?_
    rw [outputLine, run_look, run_when_neg (not_not.mpr (hdark v hv x hx)), run_skip]
  have hicons : ∀ v, (latchIcons.run v).sco = v.sco := fun v =>
    within_latchIcons (partsLe_refl _) v .sco rfl
  rw [lineStart, run_look, h]
  dsimp only
  rw [run_all_cons, run_all_cons, run_all_cons, run_all_cons, run_all_cons, run_all_cons, run_all_cons,
    run_all_nil, run_when_neg hn, run_when_neg hn, run_skip, run_skip, run_look, run_look]
  generalize hv : (modSco fun c => { c with line := n, due := false }).run s = v
  have hvs : v = { s with sco := { s.sco with line := n, due := false } } := by rw [← hv]; rfl
  have hvo : v.sco.outs = s.sco.outs := by rw [hvs]
  rw [hskip v _ _ hvo, hskip v _ _ hvo, hlast _ (by rw [hicons, hvo]), hvs]


theorem latchIcons_length (s : State) : (latchIcons.run s).sgn.icons.length = 64 := by
  have hraise : ∀ (v : State), (Prog.each (upTo 64) fun n => Prog.when ((v.iconAt n).en = true
      ∧ (v.iconAt n).pairOk = false) (raiseSecond 0x4205 unitSgn 0 n)).Keeps State.sgn := fun v =>
    keeps_each fun n => keeps_when fun _ => fun u => raiseSecond_sgn u ..
  rw [latchIcons, run_look, run_seq, run_look, hraise, run_modSgn]
  exact (List.length_map _).trans List.length_range

theorem lineStart_idle (hl : s.live = true) (hb : s.badPairs [0x40, 0x41, 0x42] = [])
    (h : s.nextLine = none) (l : List (Option Nat)) (a b : List Nat) :
    ∃ t, exec (.lineStart l a b) s = .next t ∧ (State.loaderGoesOn fun u => u = s) t := by
  have hx := exec_lineStart hl hb l a b
  rw [run_lineStart_none h] at hx
  exact ⟨_, hx, s, rfl, rfl⟩

theorem lineStart_dark {n : Nat} (hl : s.live = true) (hb : s.badPairs [0x40, 0x41, 0x42] = [])
    (h : s.nextLine = some n) (hn : n ≠ 0) (h0 : (s.output 0).phase = 0) (h1 : (s.output 1).phase = 0)
    (l : List (Option Nat)) (a b : List Nat) :
    ∃ t, exec (.lineStart l a b) s = .next t ∧ (State.loaderGoesOn fun u =>
      u.sco = { s.sco with line := n, due := false } ∧ u.sgn.icons.length = 64) t := by
  have hx := exec_lineStart hl hb l a b
  rw [run_lineStart_dark h hn h0 h1] at hx
  have hsco : ∀ v, (latchIcons.run v).sco = v.sco := fun v => within_latchIcons (partsLe_refl _) v .sco rfl
  exact ⟨_, hx, latchIcons.run { s with sco := { s.sco with line := n, due := false } },
    ⟨hsco _, latchIcons_length _⟩, rfl⟩

end Sys2Proof.Machine
end

section
/-! PROOFS. The loader's steps and records (chapter 03): its repair reads (R103 to R105), and the statement
as a whole, O55. -/

set_option Elab.async false

namespace Sys2Proof.Machine

variable {s t : State}

/-! ### Repair reads (R103 to R105) -/

/-- What a repair read does: `r` is the first repair, of section `x`, and `l` those after it. -/
def repairRead (s : State) (readOk : Bool) (r : Repair) (l : List Repair) (x : Sect) : Prog :=
  if readOk = true ∧ sha256 (s.sectBytes x 0 x.length) = x.digest then Prog.all [
    Prog.each r.pages (rewriteSectPage x),
    modBoot fun b => { b with repairs := l },
    bump F.BOOT_REPAIR_COUNT_DONE,
    setF F.BOOT_REPAIR_EVENT_DONE 1,
    resumeBadStops r.sect]
  else if r.tries = 0 then modBoot fun b => { b with repairs := { r with tries := 1 } :: l }
  else repairFails x

theorem exec_repairReadDone {r : Repair} {l : List Repair} {x : Sect} (hr : s.boot.repairs = r :: l)
    (hx : s.boot.sects[r.sect]? = some x) (hl : s.live = true) (hf : s.boot.flashOp = none)
    (hk : s.repairLocked x r = true) (readOk : Bool) :
    exec (.repairReadDone readOk) s = .next ((repairRead s readOk r l x).run s.retriesCleared) := by
  have he : exec (.repairReadDone readOk) s = execRepairReadDone readOk s := rfl
  rw [execRepairReadDone, hr] at he
  dsimp only at he
  rw [hx] at he
  dsimp only at he
  rw [outcome_when ⟨hl, hf, hk⟩, run_seq, run_modBoot] at he
  exact he

theorem repairReadDone_retries {r : Repair} {l : List Repair} {x : Sect} (hr : s.boot.repairs = r :: l)
    (hx : s.boot.sects[r.sect]? = some x) (hl : s.live = true) (hf : s.boot.flashOp = none)
    (hk : s.repairLocked x r = true) (h0 : r.tries = 0) :
    ∃ t, exec (.repairReadDone false) s = .next t ∧ t = { s with boot := { s.boot with
      flashRetries := 0, repairs := { r with tries := 1 } :: l } } := by
  have he := exec_repairReadDone hr hx hl hf hk false
  rw [repairRead, if_neg fun h => Bool.false_ne_true h.1, if_pos h0, run_modBoot] at he
  exact ⟨_, he, rfl⟩

theorem rewriteSectPage_repaired {x : Sect} (h1 : x.destSel = 1) (p : Nat) (s : State) :
    ((rewriteSectPage x p).run s).sgn.repaired.map (fun e => e.1)
      = s.sgn.repaired.map (fun e => e.1) ++ [p] := by
  rw [rewriteSectPage, run_look, if_pos h1, run_modSgn]
  exact List.map_append ..

theorem rewritePages_repaired {x : Sect} (h1 : x.destSel = 1) (ps : List Nat) (s : State) :
    ((Prog.each ps (rewriteSectPage x)).run s).sgn.repaired.map (fun e => e.1)
      = s.sgn.repaired.map (fun e => e.1) ++ ps := by
  induction ps generalizing s with
  | nil => rw [run_each_nil, List.append_nil]
  | cons p ps ih => rw [run_each_cons, ih, rewriteSectPage_repaired h1, List.append_assoc, List.singleton_append]

theorem run_resumeBadStops (h : ∀ q, (s.queue q).badStop = false) (i : Nat) :
    (resumeBadStops i).run s = s := by
  have hnone : ((upTo 16).filter fun q => (s.queue q).badStop && (s.queue q).badSect == some i) = [] :=
    List.filter_eq_nil_iff.mpr fun q _ hq => by simp [h q] at hq
  rw [resumeBadStops, run_look, hnone, run_each_nil]

/-- A section that a repair has rewritten: the repair is counted, and no queue waits for it. -/
theorem repairRead_mends {r : Repair} {l : List Repair} {x : Sect}
    (hok : sha256 (s.sectBytes x 0 x.length) = x.digest) (hq : ∀ q, (t.queue q).badStop = false) :
    let u := (repairRead s true r l x).run t
    u.boot.repairs = l ∧ u.fld F.BOOT_REPAIR_EVENT_DONE = 1
      ∧ u.fld F.BOOT_REPAIR_COUNT_DONE = min F.BOOT_REPAIR_COUNT_DONE.max
          (t.fld F.BOOT_REPAIR_COUNT_DONE + 1)
      ∧ (x.destSel = 1 → u.sgn.repaired.map (fun p => p.1)
        = t.sgn.repaired.map (fun p => p.1) ++ r.pages) := by
  have hw : (Prog.each r.pages (rewriteSectPage x)).Within _ :=
    within_each fun p => within_rewriteSectPage (partsLe_refl _)
  have hwrd : ((Prog.each r.pages (rewriteSectPage x)).run t).wrd = t.wrd := hw t .wrd rfl
  have hcount := fld_of_within hw (f := F.BOOT_REPAIR_COUNT_DONE) rfl (by decide +kernel) t 0 0
  have hpages := fun h1 : x.destSel = 1 => rewritePages_repaired h1 r.pages t
  dsimp only
  rw [repairRead, if_pos ⟨rfl, hok⟩, run_all_cons, run_all_cons, run_all_cons, run_all_cons, run_all_cons,
    run_all_nil]
  generalize (Prog.each r.pages (rewriteSectPage x)).run t = v at hwrd hcount hpages
  generalize hb : (modBoot fun b => { b with repairs := l }).run v = w
  have hwb : w.boot.repairs = l ∧ w.wrd = v.wrd ∧ w.sgn = v.sgn
      ∧ w.fld F.BOOT_REPAIR_COUNT_DONE = v.fld F.BOOT_REPAIR_COUNT_DONE := by
    rw [← hb]
    exact ⟨rfl, rfl, rfl, rfl⟩
  obtain ⟨hrep, hwwrd, hwsgn, hwfld⟩ := hwb
  have hcb := fld_bump_self w F.BOOT_REPAIR_COUNT_DONE rfl 1 0 0
  have hcboot := bump_boot w F.BOOT_REPAIR_COUNT_DONE 1 0 0
  have hcwrd := bump_wrd w F.BOOT_REPAIR_COUNT_DONE 1 0 0
  have hcsgn := bump_sgn w F.BOOT_REPAIR_COUNT_DONE 1 0 0
  generalize (bump F.BOOT_REPAIR_COUNT_DONE).run w = c at hcb hcboot hcwrd hcsgn
  have hef := fld_setF_self c F.BOOT_REPAIR_EVENT_DONE rfl 1 0 0
  have hec : ((setF F.BOOT_REPAIR_EVENT_DONE 1).run c).fld F.BOOT_REPAIR_COUNT_DONE
      = c.fld F.BOOT_REPAIR_COUNT_DONE :=
    fld_congr (f := F.BOOT_REPAIR_COUNT_DONE) (rd_setReg_words (by decide))
  have heboot := setF_boot c F.BOOT_REPAIR_EVENT_DONE 1 0 0
  have hewrd := setF_wrd c F.BOOT_REPAIR_EVENT_DONE 1 0 0
  have hesgn := setF_sgn c F.BOOT_REPAIR_EVENT_DONE 1 0 0
  generalize (setF F.BOOT_REPAIR_EVENT_DONE 1).run c = e at hef hec heboot hewrd hesgn
  have hequeue : ∀ q, (e.queue q).badStop = false := fun q => by
    rw [State.queue, hewrd, hcwrd, hwwrd, hwrd]
    exact hq q
  rw [run_resumeBadStops hequeue, heboot, hcboot, hesgn, hcsgn, hwsgn, hec, hcb, hwfld, hcount]
  exact ⟨hrep, hef, rfl, hpages⟩

theorem repairReadDone_mends {r : Repair} {l : List Repair} {x : Sect} (hr : s.boot.repairs = r :: l)
    (hx : s.boot.sects[r.sect]? = some x) (hl : s.live = true) (hf : s.boot.flashOp = none)
    (hk : s.repairLocked x r = true) (hok : sha256 (s.sectBytes x 0 x.length) = x.digest)
    (hq : ∀ q, (s.queue q).badStop = false) :
    ∃ t, exec (.repairReadDone true) s = .next t ∧
      t.boot.repairs = l ∧ t.fld F.BOOT_REPAIR_EVENT_DONE = 1
          ∧ t.fld F.BOOT_REPAIR_COUNT_DONE = min F.BOOT_REPAIR_COUNT_DONE.max
              (s.fld F.BOOT_REPAIR_COUNT_DONE + 1)
          ∧ (x.destSel = 1 → t.sgn.repaired.map (fun p => p.1)
            = s.sgn.repaired.map (fun p => p.1) ++ r.pages) :=
  ⟨_, exec_repairReadDone hr hx hl hf hk true, repairRead_mends (t := s.retriesCleared) hok hq⟩


/-! ### The statement -/

theorem selfTestDone_runs {temps : List Int} (hw : s.lamp.power = .waking) (h4 : s.lamp.wakingStep = 4)
    (hi : s.ave.initDone = true) (hn : s.lamp.resetNLow = false) (ht : ∀ x ∈ temps, x < 115)
    (he : s.lamp.retErrs = []) (hb : s.badPairs [1] = []) :
    let u := (readBanks []).run s
    ∃ t, exec (.selfTestDone true temps) s = .next t ∧
      t = loaderStart.run { u with
        lamp := { s.lamp with
          power := .running, wakingStep := 0, refCount := 0, attempts := 0, thermCheck := false,
          resetHold := false, parkedHold := false },
        rcl := { s.rcl with pairOk := true, escalating := false } } := by
  have hlamp := lamp_readBanks_clean he
  have hrcl := rcl_readBanks_clean he
  refine ⟨_, selfTestDone_starts hw h4 hi hn ht he hb, ?_⟩
  rw [run_selfTestPassed, hlamp, hrcl]

/-- Settles O55: each command's program is named and what it leaves is read off step by step; the words that
the journal and its mirror write are shown by no register that a record may set. -/
theorem loaderStepsAndRecords : Obligations.LoaderStepsAndRecords := by
  refine ⟨fun s temps hw h4 hi hn ht he hb => selfTestDone_runs hw h4 hi hn ht he hb,
    fun s h => ⟨_, outcome_when h _ s, rfl⟩,
    fun s hp hr hb hsel => ⟨imageVerify_accepts hp hr hb hsel, imageVerify_turnsTo hp hr hb hsel⟩,
    fun s x hx hp hc hdue hchips hd hok => configSectionCheck_takes hx hp hc hdue hchips hd hok,
    fun s r a h w hr ht ha hpay hw hp hc hl h62 => configRegWrite_writes hr ht ha hpay hw hp hc hl h62,
    fun s r hr ht => configProfile_declares hr ht,
    fun s r hr ht => configLoader_sets hr ht,
    fun s r hr ht hok => ⟨configDdr_absent hr ht, configDdr_declares hr ht hok⟩,
    fun s r hr ht => configEnd_ends hr ht,
    fun s i x hx hw hdue hplace hchips hd h2 h3 => sectionLoaded_loads hx hw hdue hplace hchips hd h2 h3,
    fun s us hl hd hk => ⟨lpddrTrainingDone_succeeds hl hd hk us, lpddrTrainingDone_stepsDown hl hd hk us,
      lpddrTrainingDone_fails hl hd hk us⟩,
    fun s l hp hc hlock => startCalibrationDone_maps l hp hc hlock,
    fun s hl => ⟨_, outcome_when hl _ s, rfl⟩,
    fun s hp hheld => bridgeBootTimeout_waits hp hheld,
    fun s l a b hl hb => ⟨fun h => lineStart_idle hl hb h l a b,
      fun n h hn h0 h1 => lineStart_dark hl hb h hn h0 h1 l a b⟩,
    fun s r l x hr hx hl hf hk => ⟨repairReadDone_retries hr hx hl hf hk, repairReadDone_mends hr hx hl hf hk⟩⟩

end Sys2Proof.Machine
end
